-- ==== Sys2Proof/Word.lean ====
section
/-! DEFINITION. The word types of the block and the shapes its state is built from. -/

namespace Sys2Proof

/-- One byte (R9: every multi-byte field is little-endian). -/
abbrev Byte := BitVec 8
/-- A 16-bit field. -/
abbrev Half := BitVec 16
/-- A 32-bit register, and the bit pattern of an FP32 value (R83). -/
abbrev Word := BitVec 32
/-- A 64-bit field. -/
abbrev DWord := BitVec 64

/-- A sparse map in ONE canonical form: keys strictly rising, and no entry equal to the value an unlisted key
holds. The reads and writes are `kvGet` and `kvSet` of Sys2Proof/Machine/Ops.lean. -/
abbrev Kv (α : Type) := List (Nat × α)

/-- A byte memory: an unlisted address reads as the zero byte (R210, R274). -/
abbrev Mem := Kv Byte

end Sys2Proof
end

