-- ==== Sys2Proof/Config.lean ====
section
/-! DEFINITION. What the spec leaves open (opaque: nothing in Lean can evaluate them, so a statement about them holds
for every value) and the constants of the part that the spec fixes. -/

namespace Sys2Proof

/-- FREE VALUE. The result bits of a function op of Table 6.7 (operation code, operand a, operand b, RTZ) inside the
error bound of R176, where that table gives no exact or special result: the spec bounds the error and gives no bits
(assumption 14). -/
opaque Config.fnOp : Nat → Word → Word → Bool → Word

/-- FREE VALUE. The n-th value drawn from a random source of the module (R274 takes the interleave seeds from one; the
draw is numbered by `State.fresh`) (assumption 15). -/
opaque Config.random : Nat → Word

/-- FREE VALUE. The n-th measured or implementation-chosen value the spec asks the module to report and gives no
number for (assumption 16). -/
opaque Config.freeValue : Nat → Nat

/-- FREE VALUE. The module identity GUID fused at manufacture (Table 12.6), as a number of 16 little-endian bytes
(assumption 16). -/
opaque Config.platformGuid : Nat

/-- FREE VALUE. The vendor ID that PCI-SIG assigned to Novnor (R514 gives no number) (assumption 16). -/
opaque Config.vendorId : Nat

/-- Rows of the logical grid (Table 0.1). -/
def Config.gridRows : Nat := 48
/-- Columns of the logical grid. -/
def Config.gridCols : Nat := 96
/-- Columns of the physical grid. -/
def Config.physCols : Nat := 100
/-- Bytes of a tile store (R191). -/
def Config.storeBytes : Nat := 524288
/-- Byte offset of pattern bank 0 (R52). -/
def Config.bankBase : Nat := 0x70000
/-- Bytes of one pattern bank (R52). -/
def Config.bankBytes : Nat := 0x4000
/-- First byte of the clerk region (Table 7.1). -/
def Config.clerkBase : Nat := 0x6C000
/-- Bolts of one partition's share: 32 GiB of 4 KiB bolts (R23, R272). -/
def Config.shareBolts : Nat := 8388608
/-- Core clock cycles of one microsecond (R36). -/
def Config.ccPerUs : Nat := 1400
/-- The bell guard's length in cc (R39). -/
def Config.guardCc : Nat := 256
/-- The switch window's length in cc (R58). -/
def Config.windowCc : Nat := 3500

end Sys2Proof
end

