-- ==== Sys2Proof/Syntax.lean ====
section
/-! DEFINITION. The commands of the block: one constructor per row of spec/opcode_table.json, in its order.

Operands, by name (a row's own docstring and its meaning say more):
`p` a physical tile 100 row + pcol (0 to 4,799), or a link port (0 to 15 E, 16 to 31 O) for the rows of a port; `k` a memory
stack, or the bank, trigger or stack of its row; `n` a partition; `r` a partition-row 4 row + partition column; `pg` a mailbox;
`lane` a lane, `o` an output and `input` an input of a router; `fl` the 256 bytes of a flit; `v` a value written; `fails` the
tiles a test run by the command finds failing; `found` what slices find: a tile, its failing columns, its failing 8 B store words
each with its failing bit, and whether anything else mismatches (in LONG_OPERATION_END, failing rows as `rows` of
START_PHASE_COMPLETE lists them: stack, detail of Table 16.3, and whether a spare row was left). `ucie` lists stack and UCIe
module with the lane repaired, none where lane repair fails; `corr` of a scrub names the row of each symbol it corrects, in the
form of Table 16.3. `req` is what the request buffer's DMA brings (none: it fails) and `respOk` whether the response buffer can
be written (R420). Upsets of the hardware come as operands (assumption 13): `ups`, `accUps`,
`bad`, `corr` and `res` say which bits, lines or check values they strike; empty lists, zero and false are no upset. -/

namespace Sys2Proof

/-- An upset of the fuller: it flips bits of a stage's output. `kind` is the datapath it strikes, 1 the significand
multiplier, 2 the significand adder, 3 a function table (Table 6.10), 0 none of them; `size` is the arithmetic size of the
error there (R188). In a reduction `vec` is the result it strikes. -/
structure FulUps where
  vec : Nat
  stage : Nat
  lane : Nat
  kind : Nat
  size : Nat
  mask : Word
  deriving DecidableEq, Repr

/-- A command. -/
inductive Instr where
  /-- INPUT_GOOD (R441): The input has stayed within 40–60 V for 10 ms with MRST_N high, so a start begins at phase
  0x01. -/
  | inputGood (mv : Nat)
  /-- START_PHASE_COMPLETE (R441): A start phase ends and the next phase of Table 16.1 begins. -/
  | startPhaseComplete (ms : Nat) (flashOk : Bool) (ucie : List (Nat × Nat × Option Nat)) (found : List (Nat × List Nat × List (Nat × Nat) × Bool)) (sense : List (Nat × Nat)) (rows : List (Nat × Nat × Bool))
  /-- MODULE_READY (R454): Once every readiness criterion is met or settled, the module becomes ready and reports its
  condition. -/
  | moduleReady (ms : Nat)
  /-- MRST_N_ASSERT (R498): MRST_N held low for 1 ms ends any start or work and powers off every domain but D92. -/
  | mrstNAssert
  /-- MRST_N_RELEASE (R498): 10 ms after MRST_N returns high, a new start begins from phase 0x01. -/
  | mrstNRelease
  /-- PERST_ASSERT (R457): A PERST# assertion resets only the PCIe controller and its link. -/
  | perstAssert
  /-- PERST_RELEASE (R457): On PERST# release, the PCIe controller trains its link and becomes ready for configuration
  requests. -/
  | perstRelease
  /-- INPUT_PROTECT_OFF (R461): The hot-swap controller switches the input off on undervoltage, overvoltage, overcurrent
  or a rail short. -/
  | inputProtectOff
  /-- RAIL_FAILURE (R464): A rail below 88% for 5 µs, or an unsheddable phase fault, removes the input, a stack or the
  spine, depending on the rail. -/
  | railFailure (rail : Nat) (k : Nat)
  /-- THERMAL_TRIP (R474): Above 115 °C, THERMTRIP_N goes low and every domain but D92 switches off within 1 ms. -/
  | thermalTrip
  /-- INPUT_REMOVAL_CLEAR (R499): The input held below 30 V for 100 ms releases ALERT_N and a latched THERMTRIP_N. -/
  | inputRemovalClear
  /-- POWER_SAMPLE (R466): Every 1 ms, the mean and peak current of each domain and the input values are latched. -/
  | powerSample (doms : List (Nat × Nat × Nat × Nat)) (mv : Nat) (ma : Nat) (mw : Nat) (tj : Nat) (dram : Nat) (optic : Nat) (cracked : List Nat)
  /-- EMERGENCY_TRIGGER (R471): A temperature, power, current or voltage trigger held for its time takes the module one
  step down. -/
  | emergencyTrigger (k : Nat)
  /-- EMERGENCY_STEP_FURTHER (R471): A trigger still present 10 ms after a step takes effect takes the module a further
  step down. -/
  | emergencyStepFurther (k : Nat)
  /-- EMERGENCY_STEP_UP (R471): With every trigger clear of its release level for 100 ms, the module announces a step
  up. -/
  | emergencyStepUp
  /-- SLOW_NOTICE_RECEIVE (R473): A received slow notice is relayed once and recorded, so intervals stretch from its
  bell T. -/
  | slowNoticeReceive (p : Nat)
  /-- PLDM_SET_POWER_STATE (R475): The tray requests full or keep-alive through the PLDM state effecter, and a busy
  module refuses it. -/
  | pldmSetPowerState (v : Nat) (found : List (Nat × List Nat × List (Nat × Nat) × Bool))
  /-- BELL_EXPECTED_TIME (R46): The expected time of the next bell arrives, and the module either fires or begins a
  local hold. -/
  | bellExpectedTime
  /-- BELL_FIRE (R45): At the end of the first ready cc at or after the expected time, the bell fires and interval N + 1
  begins. -/
  | bellFire (fails : List Nat)
  /-- BELL_OVERRUN (R49): A local hold reaches H, so the bell fires and contexts that were not ready are stopped and
  reset. -/
  | bellOverrun (fails : List Nat)
  /-- LOT_ABORT_NOTICE_RECEIVE (R50): A receiver marks the items abandoned and fails consuming lots at its next bell. -/
  | lotAbortNoticeReceive (p : Nat)
  /-- BELL_GUARD_START (R39): The last 256 cc of an interval begin, and timed-port cells pass to the copier. -/
  | bellGuardStart
  /-- SWITCH_WINDOW_OPEN (R58): 3,500 cc before bell T, a bank switch is evaluated and its window opens to install the
  incoming bank. -/
  | switchWindowOpen
  /-- WATCHMAN_HOLD_SAMPLE (R405): Every 4,096 cc of a bell hold, the watchman samples again and confirms unchanged
  cycles as hangs. -/
  | watchmanHoldSample
  /-- PATTERN_LOAD (R57): A tile load checks an image in order, leaves the bank Ready, and with install makes the tile
  Joining. -/
  | patternLoad (p : Nat) (k : Nat) (install : Bool)
  /-- SEQUENCER_STEP (R62): A sequencer step fires its units, acts on its counter, and branches by its condition. -/
  | sequencerStep (p : Nat)
  /-- WAIT_FOR_BELL (R63): A cond 5 or 6 step fires and waits for the bell, marking a quiet bell with cond 6. -/
  | waitForBell (p : Nat)
  /-- LOOM_OVERWRITE_STREAM (R120): A loom stream stores each vector's rounded column sums into accumulator entries. -/
  | loomOverwriteStream (p : Nat) (ups : List (Nat × Nat × Word)) (accUps : List (Nat × Nat))
  /-- LOOM_ACCUMULATE_STREAM (R120): A loom stream adds each vector's column sums into accumulator entries. -/
  | loomAccumulateStream (p : Nat) (ups : List (Nat × Nat × Word)) (accUps : List (Nat × Nat))
  /-- LOOM_DRAIN_ONLY (R128): Accumulator entries are converted and written to the store through loom-out, with no
  stream. -/
  | loomDrainOnly (p : Nat) (accUps : List (Nat × Nat))
  /-- SHUTTLE_LOAD (R123): A weight block is copied into the idle set from the own store or a borrow path, forming check
  weights. -/
  | shuttleLoad (p : Nat)
  /-- SHUTTLE_SWAP (R124): The active and idle weight sets exchange at the end of the cc. -/
  | shuttleSwap (p : Nat)
  /-- SIEVE_PASS (R145): Activation blocks are compressed into value and index streams, counting non-zeros. -/
  | sievePass (p : Nat)
  /-- SCATTER_PASS (R161): A main scatter pass issues groups within the budget per block and defers the rest. -/
  | scatterPass (p : Nat) (ups : List (Nat × Nat × Word))
  /-- OVERFLOW_PASS (R164): The overflow pass issues the deferred groups within the reserved budget. -/
  | overflowPass (p : Nat) (ups : List (Nat × Nat × Word))
  /-- GRANARY_DRAIN (R158): Valid granary slots are appended to the spill stream, and the last partial bolt is flushed.
  -/
  | granaryDrain (p : Nat)
  /-- BINS_DRAIN (R158): Bins rows are converted through loom-out and written to the store. -/
  | binsDrain (p : Nat)
  /-- ACCUMULATOR_CLEAR_ONLY (R158): The granary or bins are cleared without writing. -/
  | accumulatorClearOnly (p : Nat)
  /-- FULLER_PASS (R179): Streams run through the stage chain on a fixed timetable, with conversions at both ends. -/
  | fullerPass (p : Nat) (ups : List FulUps)
  /-- REDUCTION (R185): The reduction unit sums, compares or counts the tapped stream of a fuller pass. -/
  | reduction (p : Nat) (ups : List FulUps)
  /-- REDUCTION_RESULT_WRITE (R187): A ready reduction result is written to TL_RED_RES0–1 or to the store. -/
  | reductionResultWrite (p : Nat)
  /-- MEMORY_WRITE (R283): DMA op 0x0 sends whole bolts from the store to the share as write packets holding tags. -/
  | memoryWrite (p : Nat)
  /-- MEMORY_READ (R283): DMA op 0x1 sends read requests for share bolts, unicast or merged. -/
  | memoryRead (p : Nat)
  /-- STORE_WRITE (R283): DMA op 0x2 sends bolts to another tile's store, unicast or multicast. -/
  | storeWrite (p : Nat)
  /-- MILL_POST (R286): DMA op 0x3 posts a mill descriptor to all eight mill queues. -/
  | millPost (p : Nat)
  /-- LINK_SEND (R316): DMA op 0x4 sends bolts to another module through an injection port. -/
  | linkSend (p : Nat)
  /-- BORROW_COPY (R206): Whole beats are copied from a neighbour's store into the own store. -/
  | borrowCopy (p : Nat)
  /-- CLERK_WAKE (R233): A wake sets WAKE_PEND and records the step, or counts a lost wake. -/
  | clerkWake (p : Nat)
  /-- CHANNEL_TOKEN_SEND (R260): A token-send step sends a control token on an outbound entry, taking a credit. -/
  | channelTokenSend (p : Nat)
  /-- BARRIER_ARRIVE (R260): A member tile sends its barrier arrival toward the root. -/
  | barrierArrive (p : Nat)
  /-- FLAG_RAISE (R260): A member tile raises a flag toward the root. -/
  | flagRaise (p : Nat)
  /-- FABRIC_IN_WRITE (R198): Fabric-in writes an arrived packet's lines in its next held cell, or refuses the access.
  -/
  | fabricInWrite (p : Nat)
  /-- FABRIC_OUT_SEND (R339): Fabric-out reads a bolt and sends it with a carried, rechecked or formed tally. -/
  | fabricOutSend (p : Nat) (ups : List (Nat × Nat))
  /-- GATHER_BUFFER_DRAIN (R201): A gather-buffer entry drains as one masked write in a clerk cell. -/
  | gatherBufferDrain (p : Nat)
  /-- ECC_WRITE_BACK (R207): The copier rewrites a corrected store line in its next cell of that bank. -/
  | eccWriteBack (p : Nat)
  /-- CLERK_INSTRUCTION (R215): The clerk issues and retires one base instruction in program order. -/
  | clerkInstruction (p : Nat) (ups : List (Nat × Nat))
  /-- CLERK_LOAD (R201): A clerk load reads its line in a clerk cell and merges pending gather bytes. -/
  | clerkLoad (p : Nat) (ups : List (Nat × Nat))
  /-- CLERK_STORE (R201): A clerk store merges into the gather buffer, or faults under R202. -/
  | clerkStore (p : Nat)
  /-- XL_REP (R226): A loop level is armed with the count from rs1. -/
  | xlRep (p : Nat)
  /-- XL_REPI (R226): A loop level is armed with an immediate count. -/
  | xlRepi (p : Nat)
  /-- XL_QUIT (R226): A loop level, and level 1 for level 0, is deactivated early. -/
  | xlQuit (p : Nat)
  /-- BELL_WAIT (R230): bell.wait clears HOLD and completes at once or at the next bell, returning the bell count. -/
  | bellWait (p : Nat)
  /-- LR_W (R238): LR.W drains its line's gather entry, reads the word and reserves the line. -/
  | lrW (p : Nat)
  /-- SC_W (R238): SC.W writes only if the reservation is valid, and clears it. -/
  | scW (p : Nat)
  /-- FENCE (R215): FENCE waits until every gather-buffer entry has drained. -/
  | fence (p : Nat)
  /-- FENCE_I (R219): FENCE.I discards fetched instructions after a fill. -/
  | fenceI (p : Nat)
  /-- WFI (R233): WFI waits until an enabled interrupt is pending. -/
  | wfi (p : Nat)
  /-- MRET (R236): MRET restores MIE, clears IN_TRAP, runs pending loop tests and returns to mepc. -/
  | mret (p : Nat)
  /-- TRAP_ENTRY (R236): An exception or enabled interrupt writes the trap CSRs and jumps to mtvec. -/
  | trapEntry (p : Nat) (ups : List (Nat × Nat))
  /-- QPOP_READ (R221): A TL_QPOPn read returns word 0 of the head entry and pops it, returning a credit, or waits. -/
  | qpopRead (p : Nat)
  /-- QW_READ (R221): A TL_QWk read returns a word of the selected head entry, waiting when empty. -/
  | qwRead (p : Nat)
  /-- QSEND_WRITE (R223): A TL_QSEND write takes a credit and sends the payload, waits, or fails with NOWAIT. -/
  | qsendWrite (p : Nat)
  /-- IM_FILL_WRITE (R219): A TL_IM_FILL write copies store lines into instruction memory while the clerk stalls. -/
  | imFillWrite (p : Nat)
  /-- SEQ_FLAGS_SET (R232): A W1S write sets sequencer flags read by cond 7 steps. -/
  | seqFlagsSet (p : Nat)
  /-- BELL_HOLD_WRITE (R231): Writing TL_BELL_CTL.HOLD requests or releases a bell hold. -/
  | bellHoldWrite (p : Nat)
  /-- CLK_STATUS_CLEAR (R233): A W1C write clears BELL_PEND, SEND_FAIL or WAKE_PEND, and LOST with WAKE_PEND. -/
  | clkStatusClear (p : Nat)
  /-- CLK_FAIL_WRITE (R237): A write to TL_CLK_FAIL raises a clerk fault with its code. -/
  | clkFailWrite (p : Nat)
  /-- AMAX_READ_CLEAR (R108): A read of TL_AMAXk returns the running amax and clears it. -/
  | amaxReadClear (p : Nat)
  /-- COUNTER_READ_CLEAR (R12): A read of an RC telemetry counter returns its value and clears it. -/
  | counterReadClear (p : Nat)
  /-- CSR_WRITE (R216): A write to a register with no row of its own completes at retirement, or is discarded for an
  unlisted encoding. -/
  | csrWrite (p : Nat)
  /-- ROUTER_HOP (R252): A router arbitrates whole packets at an output and forwards or replicates them one hop. -/
  | routerHop (p : Nat) (o : Nat) (corr : Nat) (bad : Nat)
  /-- CHANNEL_ENTRY_DELIVERY (R264): A channel entry is written into the destination channel as a credited entry. -/
  | channelEntryDelivery (p : Nat)
  /-- CREDIT_RETURN_DELIVERY (R264): Returned credits are added to the matching outbound entry. -/
  | creditReturnDelivery (p : Nat)
  /-- BARRIER_ARRIVE_COMBINE (R261): A router combines arrivals and sends one onward, or the root sends the release. -/
  | barrierArriveCombine (p : Nat) (input : Nat)
  /-- FLAG_RAISE_COMBINE (R261): A router forwards the first raise of an ID per interval, or the root broadcasts. -/
  | flagRaiseCombine (p : Nat) (input : Nat)
  /-- BARRIER_RELEASE_DELIVERY (R263): A release is written as an uncredited MARK token into each member's channel. -/
  | barrierReleaseDelivery (p : Nat)
  /-- FLAG_BROADCAST_DELIVERY (R263): A flag broadcast is written as an uncredited MARK token into each member's
  channel. -/
  | flagBroadcastDelivery (p : Nat)
  /-- WRITE_COMPLETION_DELIVERY (R283): A write completion frees its tag and counts toward the bolt's completion group.
  -/
  | writeCompletionDelivery (p : Nat)
  /-- RT_SEL_WRITE (R267): TL_RT_SEL selects a port and, with HWM_CLR, clears its high-water marks. -/
  | rtSelWrite (p : Nat)
  /-- STACK_READ_REQUEST (R277): The stack interface checks keys and serves a read request in the read class, or refuses
  it. -/
  | stackReadRequest (k : Nat) (corr : Nat) (bad : List Nat)
  /-- STACK_MEMORY_WRITE (R284): A bolt write is tally-checked, then stored, or refused with a memory-tally event. -/
  | stackMemoryWrite (k : Nat)
  /-- STACK_REMOTE_REQUEST (R27): A spine request from a link, the host or a mill is served in the remote class. -/
  | stackRemoteRequest (k : Nat)
  /-- MERGE_WINDOW_CLOSE (R294): After 64 cc, a merged-read window reads once and multicasts the responses. -/
  | mergeWindowClose (k : Nat) (corr : Nat)
  /-- MILL_POST_RECEIVE (R286): A mill takes a posted descriptor into the partition's 64-entry queue. -/
  | millPostReceive (k : Nat)
  /-- MILL_DESCRIPTOR_TAKE (R287): A mill takes the next descriptor from a queue and checks its ranges. -/
  | millDescriptorTake (k : Nat) (n : Nat)
  /-- MILL_SGD (R290): The mill performs SGD with momentum in place. -/
  | millSgd (k : Nat) (n : Nat) (res : Bool) (bad : List (Nat × Nat))
  /-- MILL_ADAM (R290): The mill performs an Adam or AdamW update in place. -/
  | millAdam (k : Nat) (n : Nat) (res : Bool) (bad : List (Nat × Nat))
  /-- MILL_LION (R290): The mill performs a Lion update in place. -/
  | millLion (k : Nat) (n : Nat) (res : Bool) (bad : List (Nat × Nat))
  /-- MILL_ORDERED_REDUCTION (R291): The mill sums slot ranges into the target in slot order as bolts arrive. -/
  | millOrderedReduction (k : Nat) (n : Nat) (res : Bool) (bad : List (Nat × Nat))
  /-- REDUCTION_SLOT_ARRIVAL (R291): A slot bolt write is counted, and the target bolt is computed when all slots have
  arrived. -/
  | reductionSlotArrival (k : Nat) (res : Bool) (bad : List (Nat × Nat))
  /-- MILL_GATHER_ROWS (R292): The mill gathers indexed table rows. -/
  | millGatherRows (k : Nat) (n : Nat) (res : Bool) (bad : List (Nat × Nat))
  /-- MILL_SCATTER_ADD (R292): The mill adds spill-bolt records into tensor rows. -/
  | millScatterAdd (k : Nat) (n : Nat) (res : Bool) (bad : List (Nat × Nat))
  /-- MILL_COPY_CONVERT (R290): The mill copies a range with format conversion. -/
  | millCopyConvert (k : Nat) (n : Nat) (bad : List (Nat × Nat))
  /-- MILL_FILL (R290): The mill fills a range with a word. -/
  | millFill (k : Nat) (n : Nat) (bad : List (Nat × Nat))
  /-- DRAM_REFRESH (R295): The mill refreshes banks under per-bank refresh. -/
  | dramRefresh (k : Nat)
  /-- PATROL_SCRUB (R297): The patrol scrub reads lines and corrects, repairs or poisons them. -/
  | patrolScrub (k : Nat) (corr : List Nat) (bad : List Nat)
  /-- INTERLEAVE_IMBALANCE (R276): A group carrying twice the mean for 16 intervals raises an imbalance event. -/
  | interleaveImbalance (k : Nat)
  /-- UCIE_MODULE_FENCE (R271): A UCIe module failing lane repair is fenced and the stack runs degraded. -/
  | ucieModuleFence (k : Nat) (m : Nat)
  /-- PORT_SIGNAL_DETECT (R305): Signal, and light for an O port, starts training. -/
  | portSignalDetect (p : Nat) (lanes : Nat)
  /-- LANE_TRAIN_TIMEOUT (R305): A lane not trained within 8 ms is left out and the port comes up degraded. -/
  | laneTrainTimeout (p : Nat) (lane : Nat)
  /-- PORT_TRAINING_COMPLETE (R305): Training ends and the port goes to Qualify or Up, provisional. -/
  | portTrainingComplete (p : Nat) (peerMod : Nat) (peerPort : Nat) (lat : Nat) (map : List (Nat × Bool)) (ls : List Byte)
  /-- LANE_QUALIFIED (R307): A lane passing 10^13 bits at the ratio lets the port become qualified, or it is left out.
  -/
  | laneQualified (p : Nat) (lane : Nat) (cbits : Nat) (uncorr : Nat) (secs : Nat) (ratio : Nat)
  /-- PORT_ERROR_RATIO_EXIT (R308): A lane over the ratio in a 2 × 10^12-bit window makes the port leave Up and retrain.
  -/
  | portErrorRatioExit (p : Nat) (lane : Nat)
  /-- LOSS_OF_SIGNAL (R308): A lane losing signal makes the port leave Up, an F3 event. -/
  | lossOfSignal (p : Nat) (lane : Nat)
  /-- LASER_MONITOR_SAMPLE (R303): Every millisecond, laser, modulator and receive powers are measured and low or lost
  light is raised. -/
  | laserMonitorSample (inputs : List Nat) (lanes : List (Nat × Nat × Nat))
  /-- LIGHT_RESTORED (R303): An input at or above +18 dBm for 1 ms lets its ports train. -/
  | lightRestored (j : Nat)
  /-- LK_CTL_RETRAIN (R308): Writing LK_CTL.RETRAIN makes an Up port retrain. -/
  | lkCtlRetrain (p : Nat) (v : Nat)
  /-- LK_CTL_EN_WRITE (R518): Writing LK_CTL.EN enables a port, powering its pair, or turns it Off. -/
  | lkCtlEnWrite (p : Nat) (v : Nat)
  /-- LK_PEER_EXP_WRITE (R309): A matching expected peer or cleared CHECK releases a Held port. -/
  | lkPeerExpWrite (p : Nat) (v : Nat)
  /-- FLIT_TRANSMIT (R312): At each flit boundary, the transmitter sends the highest-priority due flit. -/
  | flitTransmit (p : Nat)
  /-- DATA_FLIT_RECEIVE (R314): A data flit is accepted in order, or discarded with a retry request. -/
  | dataFlitReceive (p : Nat) (fl : List Byte)
  /-- RETRY_REQUEST_RECEIVE (R314): The transmitter replays from the named sequence. -/
  | retryRequestReceive (p : Nat) (fl : List Byte)
  /-- RETRY_REQUEST_REPEAT (R314): A request is repeated if the sequence has not arrived 2L + 400 ns later. -/
  | retryRequestRepeat (p : Nat)
  /-- RETRY_GIVE_UP (R314): After eight requests without progress or 10 µs without a good flit, the port retrains. -/
  | retryGiveUp (p : Nat) (silent : Bool)
  /-- PROBE_FLIT_RECEIVE (R306): Probe flits are echoed and timed to measure the one-way latency. -/
  | probeFlitReceive (p : Nat) (fl : List Byte) (echo : Bool) (rtt : Nat) (turn : Nat)
  /-- BELL_FLIT_RECEIVE (R328): A neighbour's compensated bell time can move the expected time of the next bell. -/
  | bellFlitReceive (p : Nat) (fl : List Byte) (arr : Nat)
  /-- BELL_FLIT_LOST (R329): A missing or bad bell flit is replaced by the predicted time and counted. -/
  | bellFlitLost (p : Nat)
  /-- LINK_STATE_FLIT_RECEIVE (R330): Peer power, compute, domain and vote state are taken from a link-state flit. -/
  | linkStateFlitReceive (p : Nat) (fl : List Byte)
  /-- SPINE_ROUTE_LOOKUP (R323): A message header is looked up and forwarded, multicast or delivered locally. -/
  | spineRouteLookup (p : Nat) (inj : Bool)
  /-- UNDELIVERABLE_REPORT_RECEIVE (R322): The Reeve ends the named lot Failed with the link-failure code. -/
  | undeliverableReportReceive (p : Nat)
  /-- LOCAL_DELIVERY (R317): A message is key-checked, parked if early, and delivered to a tile or memory. -/
  | localDelivery (p : Nat)
  /-- REEVE_MESSAGE_RECEIVE (R315): A Reeve message is taken by the Reeve. -/
  | reeveMessageReceive (p : Nat)
  /-- CLOCK_SOURCE_LOSS (R327): The PLL holds over and moves to the next source entry. -/
  | clockSourceLoss
  /-- CLOCK_SOURCE_LOST (R327): After 10 s with no source, the module leaves its domain with an event. -/
  | clockSourceLost
  /-- HAYWARD_SLICE_START (R366): At the first bell of a stop, a test slice starts on the spare. -/
  | haywardSliceStart (r : Nat)
  /-- HAYWARD_SLICE_COMPLETE (R378): The slice outcome is decided: pass, pass repaired, or fail to the pinfold. -/
  | haywardSliceComplete (r : Nat) (cols : List Nat) (words : List (Nat × Nat)) (other : Bool)
  /-- SLICE_ABANDON (R379): A slice is abandoned for recovery, reset or power and the spare is cleared. -/
  | sliceAbandon (r : Nat)
  /-- MIGRATION_STRAIGHT_THROUGH (R373): An idle or windowed source migrates in 2,901 cc. -/
  | migrationStraightThrough (r : Nat)
  /-- MIGRATION_ABANDON (R374): A migration not cut over after 48 intervals is abandoned and later retried. -/
  | migrationAbandon (r : Nat)
  /-- MIGRATION_RETRY (R374): A migration is retried 1,024 bells after an abandonment. -/
  | migrationRetry (r : Nat)
  /-- PATTERN_SET_VERIFY (R384): The signed Hayward pattern set is verified before it is run. -/
  | patternSetVerify (ok : Bool)
  /-- FAILURE_EVENT (R359): The Reeve receives a failure event and emits its CPER record. -/
  | failureEvent
  /-- CONTEXT_RESET (R395): A context's tiles and mill descriptors are reset. -/
  | contextReset (n : Nat)
  /-- ENGINE_RESET_TILE (R395): A pinfolded or spare tile is reset and slice-tested. -/
  | engineResetTile (p : Nat) (found : List Nat × List (Nat × Nat) × Bool)
  /-- ENGINE_RESET_MILL (R396): A mill is reset, failing every lot with a descriptor in it. -/
  | engineResetMill (k : Nat) (clears : Bool)
  /-- ENGINE_RESET_PORT (R395): A port's buffers are cleared and it retrains. -/
  | engineResetPort (p : Nat) (ok : Bool)
  /-- PARTITION_RESET (R395): The partition's tile domains are power-cycled and all 400 tiles slice-tested. -/
  | partitionReset (n : Nat) (found : List (Nat × List Nat × List (Nat × Nat) × Bool))
  /-- MODULE_COMPUTE_RESET (R459): The compute side is reset through the steps of Table 16.7, keeping memory. -/
  | moduleComputeReset (mems : Nat) (found : List (Nat × List Nat × List (Nat × Nat) × Bool))
  /-- RESET_COMPLETE (R395): A reset scope becomes Idle or Joining. -/
  | resetComplete (n : Nat)
  /-- RESET_ESCALATE (R397): A reset that overruns or recurs escalates to the next level. -/
  | resetEscalate (lvl : Nat) (u : Nat) (code : Nat) (fwd : Bool)
  /-- LOCKSTEP_MISMATCH (R399): A mismatch in the active pair hands over to the standby pair within 1 ms. -/
  | lockstepMismatch
  /-- LOT_END (R430): A lot ends when a cause ends it, or its end bell passes with mill and DMA work complete. -/
  | lotEnd (n : Nat)
  /-- COMPLETION_ENTRY_WRITE (R431): The attachments and completion entry are written when the queue has room. -/
  | completionEntryWrite (n : Nat)
  /-- LONG_OPERATION_END (R437): A long operation ends, is suspended or cancelled at a resume point, and emits an event.
  -/
  | longOperationEnd (h : Nat) (units : Nat) (ok : Bool) (found : List (Nat × Nat × Bool)) (bolts : List (Nat × List Nat × List Nat))
  /-- ASSAY_START (R354): An assay begins once the partition has no active lot and rotation pauses. -/
  | assayStart (n : Nat)
  /-- ASSAY_REPLAY_END (R355): A replay finishes and the next replay's setup moves spares off suspects. -/
  | assayReplayEnd (n : Nat)
  /-- DOORBELL_WRITE (R417): A DOORBELL write posts commands, or is ignored and sets STATUS[3]. -/
  | doorbellWrite (pg : Nat) (v : Nat)
  /-- RING_RESET (R421): A RING_RESET bit resets a page's indices and discards unanswered commands. -/
  | ringReset (n : Nat)
  /-- MSIX_MESSAGE (R422): A vector's message is sent when its ring becomes non-empty and the spacing allows. -/
  | msixMessage (v : Nat)
  /-- MOD_IDENTITY (R427): Returns the module ID, life-cycle, firmware version and GUID. -/
  | modIdentity (pg : Nat) (req : Option (List Byte)) (respOk : Bool)
  /-- MOD_GEOMETRY (R530): Returns the geometry descriptor. -/
  | modGeometry (pg : Nat) (req : Option (List Byte)) (respOk : Bool)
  /-- MOD_HEALTH (R439): Returns the health report. -/
  | modHealth (pg : Nat) (req : Option (List Byte)) (respOk : Bool)
  /-- MOD_READY (R455): Returns the readiness report. -/
  | modReady (pg : Nat) (req : Option (List Byte)) (respOk : Bool)
  /-- MOD_CLOCK_SET (R427): Sets the Reeve's UEFI timestamp clock. -/
  | modClockSet (pg : Nat) (req : Option (List Byte)) (respOk : Bool)
  /-- MOD_ID_SET (R443): Sets the module ID, at once if unset or from the next start otherwise. -/
  | modIdSet (pg : Nat) (req : Option (List Byte)) (respOk : Bool)
  /-- MOD_RESET_PARTITION (R427): Orders a partition reset. -/
  | modResetPartition (pg : Nat) (req : Option (List Byte)) (respOk : Bool)
  /-- MOD_RESET_MODULE_COMPUTE (R427): Orders a module-compute reset. -/
  | modResetModuleCompute (pg : Nat) (req : Option (List Byte)) (respOk : Bool)
  /-- MOD_RESET_POWER_CYCLE (R444): Requests a power cycle, accepted in any phase. -/
  | modResetPowerCycle (pg : Nat) (req : Option (List Byte)) (respOk : Bool)
  /-- MOD_TELEMETRY (R427): Returns the last completed telemetry sweep. -/
  | modTelemetry (pg : Nat) (req : Option (List Byte)) (respOk : Bool)
  /-- PART_MB_CTL (R424): Enables or disables a partition mailbox page. -/
  | partMbCtl (pg : Nat) (req : Option (List Byte)) (respOk : Bool)
  /-- PAT_LOAD (R427): Starts a bulk pattern load of listed tiles as a long operation. -/
  | patLoad (pg : Nat) (req : Option (List Byte)) (respOk : Bool)
  /-- PAT_ACTIVATE (R469): Stages a group activation after the power envelope check. -/
  | patActivate (pg : Nat) (req : Option (List Byte)) (respOk : Bool)
  /-- PAT_SWITCH (R469): Stages a bank switch after the power envelope check. -/
  | patSwitch (pg : Nat) (req : Option (List Byte)) (respOk : Bool)
  /-- PAT_MAP (R392): Returns the pattern map of a partition. -/
  | patMap (pg : Nat) (req : Option (List Byte)) (respOk : Bool)
  /-- LOT_SUBMIT (R429): Accepts a lot with its parameters and mill entries, or refuses it. -/
  | lotSubmit (pg : Nat) (req : Option (List Byte)) (respOk : Bool)
  /-- LOT_CANCEL (R434): Cancels a queued lot at once, or an active lot at the next bell. -/
  | lotCancel (pg : Nat) (req : Option (List Byte)) (respOk : Bool)
  /-- LOT_QUERY (R427): Returns a lot's state, code and bells. -/
  | lotQuery (pg : Nat) (req : Option (List Byte)) (respOk : Bool)
  /-- LOT_RECORDS (R433): Returns a lot's retained attachments. -/
  | lotRecords (pg : Nat) (req : Option (List Byte)) (respOk : Bool)
  /-- LOT_CQ_SET (R431): Sets the completion queue's base and size. -/
  | lotCqSet (pg : Nat) (req : Option (List Byte)) (respOk : Bool)
  /-- LOT_DIGESTS (R353): Returns a lot's spare positions and per-tile digests. -/
  | lotDigests (pg : Nat) (req : Option (List Byte)) (respOk : Bool)
  /-- STAGE_NUMERIC_MODES (R435): Stages a numeric-mode change for a context. -/
  | stageNumericModes (pg : Nat) (req : Option (List Byte)) (respOk : Bool)
  /-- STAGE_HALT (R483): Stages a halt of a context at a bell. -/
  | stageHalt (pg : Nat) (req : Option (List Byte)) (respOk : Bool)
  /-- STAGE_HOLD_LIMIT (R47): Stages a hold-limit change. -/
  | stageHoldLimit (pg : Nat) (req : Option (List Byte)) (respOk : Bool)
  /-- STAGE_SPLIT (R278): Stages a read/write/remote split at a job's start bell. -/
  | stageSplit (pg : Nat) (req : Option (List Byte)) (respOk : Bool)
  /-- STAGE_BELL_PERIOD (R79): Stages a domain-scope bell-period change. -/
  | stageBellPeriod (pg : Nat) (req : Option (List Byte)) (respOk : Bool)
  /-- STAGE_KEY_ROTATION (R80): Stages a domain-scope partition-key rotation. -/
  | stageKeyRotation (pg : Nat) (req : Option (List Byte)) (respOk : Bool)
  /-- STAGE_RESEED (R274): Stages a reseed of partitions' interleave seeds. -/
  | stageReseed (pg : Nat) (req : Option (List Byte)) (respOk : Bool)
  /-- STAGE_MERGED_READ (R294): Stages merged-read mode for partitions. -/
  | stageMergedRead (pg : Nat) (req : Option (List Byte)) (respOk : Bool)
  /-- STAGE_CANCEL (R78): Cancels a pending change up to its evaluation point. -/
  | stageCancel (pg : Nat) (req : Option (List Byte)) (respOk : Bool)
  /-- STAGE_QUERY (R435): Returns a change record. -/
  | stageQuery (pg : Nat) (req : Option (List Byte)) (respOk : Bool)
  /-- CTX_SCAN_OUT (R70): Stages a scan-out of a context. -/
  | ctxScanOut (pg : Nat) (req : Option (List Byte)) (respOk : Bool)
  /-- CTX_SCAN_IN (R72): Restores a context's images into a destination partition. -/
  | ctxScanIn (pg : Nat) (req : Option (List Byte)) (respOk : Bool)
  /-- CTX_RESET (R427): Orders a context reset. -/
  | ctxReset (pg : Nat) (req : Option (List Byte)) (respOk : Bool)
  /-- MNT_STACK_TEST (R437): Starts a full or quick stack test. -/
  | mntStackTest (pg : Nat) (req : Option (List Byte)) (respOk : Bool)
  /-- MNT_SCRUB_STACKS (R437): Starts a scrub of stacks. -/
  | mntScrubStacks (pg : Nat) (req : Option (List Byte)) (respOk : Bool)
  /-- MNT_SCRUB_TILES (R437): Starts a scrub of tile stores. -/
  | mntScrubTiles (pg : Nat) (req : Option (List Byte)) (respOk : Bool)
  /-- MNT_ASSAY (R352): Starts a targeted or sweep assay, or refuses it. -/
  | mntAssay (pg : Nat) (req : Option (List Byte)) (respOk : Bool)
  /-- MNT_FW_UPDATE (R415): Writes and verifies a signed firmware image into a slot. -/
  | mntFwUpdate (pg : Nat) (req : Option (List Byte)) (respOk : Bool) (ver : Nat) (sec : Nat)
  /-- MNT_LINK_QUAL (R437): Starts a qualification of ports. -/
  | mntLinkQual (pg : Nat) (req : Option (List Byte)) (respOk : Bool)
  /-- MNT_SPARE_MAP (R385): Returns the spare map and TL_HW_STATUS values. -/
  | mntSpareMap (pg : Nat) (req : Option (List Byte)) (respOk : Bool)
  /-- MNT_LEDGER (R427): Returns the maintenance ledger's activities. -/
  | mntLedger (pg : Nat) (req : Option (List Byte)) (respOk : Bool)
  /-- MNT_REPAIR_LEDGER (R449): Returns repair-ledger entries. -/
  | mntRepairLedger (pg : Nat) (req : Option (List Byte)) (respOk : Bool)
  /-- OP_STATUS (R436): Returns a long operation's status. -/
  | opStatus (pg : Nat) (req : Option (List Byte)) (respOk : Bool)
  /-- OP_SUSPEND (R437): Suspends a long operation at its next resume point. -/
  | opSuspend (pg : Nat) (req : Option (List Byte)) (respOk : Bool)
  /-- OP_RESUME (R437): Re-enters a suspended operation into the ledger. -/
  | opResume (pg : Nat) (req : Option (List Byte)) (respOk : Bool)
  /-- OP_CANCEL (R438): Cancels a long operation from its current point. -/
  | opCancel (pg : Nat) (req : Option (List Byte)) (respOk : Bool)
  /-- OP_LIST (R427): Returns the handles of operations not ended. -/
  | opList (pg : Nat) (req : Option (List Byte)) (respOk : Bool)
  /-- LINK_ROUTE_WRITE (R323): Writes route entries into the inactive bank. -/
  | linkRouteWrite (pg : Nat) (req : Option (List Byte)) (respOk : Bool)
  /-- LINK_ROUTE_SWITCH (R323): Stages a route bank switch at a bell. -/
  | linkRouteSwitch (pg : Nat) (req : Option (List Byte)) (respOk : Bool)
  /-- LINK_MCAST_WRITE (R325): Writes multicast entries. -/
  | linkMcastWrite (pg : Nat) (req : Option (List Byte)) (respOk : Bool)
  /-- SYS_KEYS (R258): Writes partition keys for partitions with no active lot. -/
  | sysKeys (pg : Nat) (req : Option (List Byte)) (respOk : Bool)
  /-- SYS_JOIN (R407): Stages a join of partitions at a step-boundary bell. -/
  | sysJoin (pg : Nat) (req : Option (List Byte)) (respOk : Bool)
  /-- SYS_LEAVE (R408): Stages a leave of partitions at a bell. -/
  | sysLeave (pg : Nat) (req : Option (List Byte)) (respOk : Bool)
  /-- REC_READ (R363): Returns CPER failure records. -/
  | recRead (pg : Nat) (req : Option (List Byte)) (respOk : Bool)
  /-- PWR_LIMIT_SET (R469): Sets a module or partition power limit, unless it is below what is committed. -/
  | pwrLimitSet (pg : Nat) (req : Option (List Byte)) (respOk : Bool)
  /-- PWR_READ (R466): Returns the latest 1 ms power sample. -/
  | pwrRead (pg : Nat) (req : Option (List Byte)) (respOk : Bool)
  /-- DBG_REG_READ (R481): Reads tile CSRs through peek aliases, or takes them and voids determinism. -/
  | dbgRegRead (pg : Nat) (req : Option (List Byte)) (respOk : Bool)
  /-- DBG_REG_WRITE (R482): Writes a CSR of a halted, idle or pinfolded tile. -/
  | dbgRegWrite (pg : Nat) (req : Option (List Byte)) (respOk : Bool)
  /-- DBG_STORE_READ (R482): Reads store lines of a stopped tile. -/
  | dbgStoreRead (pg : Nat) (req : Option (List Byte)) (respOk : Bool)
  /-- DBG_STORE_WRITE (R482): Writes store lines of a stopped tile, making tallies Stale. -/
  | dbgStoreWrite (pg : Nat) (req : Option (List Byte)) (respOk : Bool)
  /-- DBG_IMAGE_READ (R482): Reads a stopped tile's state image. -/
  | dbgImageRead (pg : Nat) (req : Option (List Byte)) (respOk : Bool)
  /-- DBG_CHAN_READ (R268): Reads channel, buffer and context contents without changing them. -/
  | dbgChanRead (pg : Nat) (req : Option (List Byte)) (respOk : Bool)
  /-- DBG_RESUME (R485): Returns a Halted context to Active at bell T'. -/
  | dbgResume (pg : Nat) (req : Option (List Byte)) (respOk : Bool)
  /-- DBG_LOOSE_ON (R486): Turns loose mode on for a context. -/
  | dbgLooseOn (pg : Nat) (req : Option (List Byte)) (respOk : Bool)
  /-- DBG_LOOSE_OFF (R486): Turns loose mode off for a context. -/
  | dbgLooseOff (pg : Nat) (req : Option (List Byte)) (respOk : Bool)
  /-- DBG_CLK_HALT (R487): Halts a clerk in loose mode within 4 cc. -/
  | dbgClkHalt (pg : Nat) (req : Option (List Byte)) (respOk : Bool)
  /-- DBG_CLK_STEP (R488): Executes one instruction of a halted clerk per step and halts. -/
  | dbgClkStep (pg : Nat) (req : Option (List Byte)) (respOk : Bool)
  /-- DBG_CLK_RESUME (R487): Releases a halted clerk. -/
  | dbgClkResume (pg : Nat) (req : Option (List Byte)) (respOk : Bool)
  /-- DBG_CLK_SET (R487): Writes the breakpoint and EBREAK_HALT registers. -/
  | dbgClkSet (pg : Nat) (req : Option (List Byte)) (respOk : Bool)
  /-- DBG_TRACE_SET (R490): Sets trace mode, triggers and taps. -/
  | dbgTraceSet (pg : Nat) (req : Option (List Byte)) (respOk : Bool)
  /-- DBG_TRACE_READ (R492): Returns trace records and the LOST and REFUSED counts. -/
  | dbgTraceRead (pg : Nat) (req : Option (List Byte)) (respOk : Bool)
  /-- DBG_MILL_NAN (R293): Returns a mill's first-NaN record for a partition. -/
  | dbgMillNan (pg : Nat) (req : Option (List Byte)) (respOk : Bool)
  /-- TRACE_TRIGGER_MATCH (R491): Matching triggers write one record and run their actions in rising order. -/
  | traceTriggerMatch (n : Nat)
  /-- JTAG_DBGCMD (R480): A command entry shifts in and the previous response shifts out. -/
  | jtagDbgcmd (data : List Byte)
  /-- JTAG_EXTEST (R480): EXTEST drives the pins in reset, or only captures them otherwise. -/
  | jtagExtest (v : Nat)
  /-- JTAG_SAMPLE_PRELOAD (R480): Boundary scan samples the pins. -/
  | jtagSamplePreload (v : Nat)
  /-- JTAG_IDCODE (R480): Returns the IDCODE 0x1A38_44E5. -/
  | jtagIdcode
  /-- JTAG_TESTENG (R383): Reaches the full-reach test engine in Raw and Service. -/
  | jtagTesteng (op : Nat)
  /-- JTAG_BYPASS (R480): Selects the 1-bit bypass register. -/
  | jtagBypass
  /-- SIDEBAND_REQUEST (R508): A vendor MCTP message carries a command entry and returns the response inline. -/
  | sidebandRequest (msg : List Byte)
  /-- MCTP_CONTROL (R507): The module answers MCTP control messages such as Set Endpoint ID. -/
  | mctpControl (cmd : Nat) (data : List Byte)
  /-- PLDM_GET_SENSOR_READING (R477): Returns a numeric or state sensor reading. -/
  | pldmGetSensorReading (id : Nat)
  /-- PLDM_POLL_EVENT (R510): Delivers the next queued CPER platform event message. -/
  | pldmPollEvent
  /-- BAR2_WRITE (R523): A host write opens, grows or completes a bolt assembler, or is a partial write. -/
  | bar2Write (off : Nat) (data : List Byte) (ep : Bool)
  /-- ASSEMBLER_TIMEOUT (R523): An assembler without growth for 10 µs is flushed as a partial write. -/
  | assemblerTimeout (n : Nat) (b : Nat)
  /-- BAR2_READ (R524): A host read is split at bolts, served and tally-checked for whole bolts. -/
  | bar2Read (off : Nat) (len : Nat) (tag : Nat)
  /-- BAR0_MALFORMED_ACCESS (R516): A BAR0 write of another size or alignment is discarded and counted. -/
  | bar0MalformedAccess (off : Nat) (len : Nat) (tag : Nat) (wr : Bool) (ep : Bool)
  /-- HOST_REGISTER_WRITE (R517): A host or Reeve write to a register with no row of its own is applied in arrival
  order. -/
  | hostRegisterWrite (mgmt : Bool) (off : Nat) (data : List Byte)
  /-- MANAGEMENT_ACCESS (R527): The Reeve accesses a tile CSR, store, instruction memory or share through the management
  space. -/
  | managementAccess (engine : Bool) (write : Bool) (addr : Nat) (len : Nat) (data : List Byte)
  /-- IDLE_FLIT_RECEIVE (R313): An idle flit arrives, and its ack and credit report release replay-buffer flits and give
  the transmitter credits. -/
  | idleFlitReceive (p : Nat) (fl : List Byte)
  /-- TELEMETRY_SWEEP (R409): The Reeve reads every router, port and mill counter through the management path as a
  maintenance-ledger activity. -/
  | telemetrySweep
  /-- PCIE_CONFIGURATION_REQUEST (R514): A host configuration request, such as a move to D3hot that closes BAR decoding
  or an MSI-X enable, acts on the PCIe function. -/
  | pcieConfigurationRequest (write : Bool) (field : Nat) (v : Nat)
  /-- I3C_DYNAMIC_ADDRESS (R507): The I3C bus controller gives the module its dynamic address by ENTDAA or by SETDASA on
  static address 0x3A. -/
  | i3cDynamicAddress (setdasa : Bool) (static : Nat) (addr : Nat)
  deriving DecidableEq, Repr

end Sys2Proof
end

