-- ==== Sys2Proof/WellFormed.lean ====
section
/-! DEFINITION. Which commands name units that the part has (R11, Table 0.3): the module accepts no other index anywhere. -/

namespace Sys2Proof

/-- A physical tile (R11). -/
def okTile (p : Nat) : Bool := p < 4800
/-- A link port (Table 0.3). -/
def okPort (p : Nat) : Bool := p < 32
/-- A memory stack. -/
def okStack (k : Nat) : Bool := k < 8
/-- A partition. -/
def okPart (n : Nat) : Bool := n < 12
/-- A partition-row. -/
def okRow (r : Nat) : Bool := r < 192
/-- A mailbox page. -/
def okPage (pg : Nat) : Bool := pg < 16
/-- The unit of a reset level of Table 14.4. -/
def okScope (lvl u : Nat) : Bool :=
  match lvl with
  | 1 => okPart u
  | 2 => okTile u
  | 3 => okStack u
  | 4 => okPort u
  | 5 => okPart u
  | _ => true

/-- Is a command well-formed: does every unit it names exist? -/
def Instr.wf : Instr → Bool
  | .inputGood _ => true
  | .startPhaseComplete _ _ _ _ _ _ => true
  | .moduleReady _ => true
  | .mrstNAssert => true
  | .mrstNRelease => true
  | .perstAssert => true
  | .perstRelease => true
  | .inputProtectOff => true
  | .railFailure rail k => rail < 7 && (rail == 0 || (3 ≤ rail && rail < 6) || (rail == 6 && k < 16) || (rail < 3 && okStack k))
  | .thermalTrip => true
  | .inputRemovalClear => true
  | .powerSample _ _ _ _ _ _ _ _ => true
  | .emergencyTrigger k => k < 5
  | .emergencyStepFurther k => k < 5
  | .emergencyStepUp => true
  | .slowNoticeReceive p => okPort p
  | .pldmSetPowerState _ _ => true
  | .bellExpectedTime => true
  | .bellFire _ => true
  | .bellOverrun _ => true
  | .lotAbortNoticeReceive p => okPort p
  | .bellGuardStart => true
  | .switchWindowOpen => true
  | .watchmanHoldSample => true
  | .patternLoad p k _ => okTile p && k < 4
  | .sequencerStep p => okTile p
  | .waitForBell p => okTile p
  | .loomOverwriteStream p _ _ => okTile p
  | .loomAccumulateStream p _ _ => okTile p
  | .loomDrainOnly p _ => okTile p
  | .shuttleLoad p => okTile p
  | .shuttleSwap p => okTile p
  | .sievePass p => okTile p
  | .scatterPass p _ => okTile p
  | .overflowPass p _ => okTile p
  | .granaryDrain p => okTile p
  | .binsDrain p => okTile p
  | .accumulatorClearOnly p => okTile p
  | .fullerPass p _ => okTile p
  | .reduction p _ => okTile p
  | .reductionResultWrite p => okTile p
  | .memoryWrite p => okTile p
  | .memoryRead p => okTile p
  | .storeWrite p => okTile p
  | .millPost p => okTile p
  | .linkSend p => okTile p
  | .borrowCopy p => okTile p
  | .clerkWake p => okTile p
  | .channelTokenSend p => okTile p
  | .barrierArrive p => okTile p
  | .flagRaise p => okTile p
  | .fabricInWrite p => okTile p
  | .fabricOutSend p _ => okTile p
  | .gatherBufferDrain p => okTile p
  | .eccWriteBack p => okTile p
  | .clerkInstruction p _ => okTile p
  | .clerkLoad p _ => okTile p
  | .clerkStore p => okTile p
  | .xlRep p => okTile p
  | .xlRepi p => okTile p
  | .xlQuit p => okTile p
  | .bellWait p => okTile p
  | .lrW p => okTile p
  | .scW p => okTile p
  | .fence p => okTile p
  | .fenceI p => okTile p
  | .wfi p => okTile p
  | .mret p => okTile p
  | .trapEntry p _ => okTile p
  | .qpopRead p => okTile p
  | .qwRead p => okTile p
  | .qsendWrite p => okTile p
  | .imFillWrite p => okTile p
  | .seqFlagsSet p => okTile p
  | .bellHoldWrite p => okTile p
  | .clkStatusClear p => okTile p
  | .clkFailWrite p => okTile p
  | .amaxReadClear p => okTile p
  | .counterReadClear p => okTile p
  | .csrWrite p => okTile p
  | .routerHop p _ _ _ => okTile p
  | .channelEntryDelivery p => okTile p
  | .creditReturnDelivery p => okTile p
  | .barrierArriveCombine p _ => okTile p
  | .flagRaiseCombine p _ => okTile p
  | .barrierReleaseDelivery p => okTile p
  | .flagBroadcastDelivery p => okTile p
  | .writeCompletionDelivery p => okTile p
  | .rtSelWrite p => okTile p
  | .stackReadRequest k _ _ => okStack k
  | .stackMemoryWrite k => okStack k
  | .stackRemoteRequest k => okStack k
  | .mergeWindowClose k _ => okStack k
  | .millPostReceive k => okStack k
  | .millDescriptorTake k n => okStack k && okPart n
  | .millSgd k n _ _ => okStack k && okPart n
  | .millAdam k n _ _ => okStack k && okPart n
  | .millLion k n _ _ => okStack k && okPart n
  | .millOrderedReduction k n _ _ => okStack k && okPart n
  | .reductionSlotArrival k _ _ => okStack k
  | .millGatherRows k n _ _ => okStack k && okPart n
  | .millScatterAdd k n _ _ => okStack k && okPart n
  | .millCopyConvert k n _ => okStack k && okPart n
  | .millFill k n _ => okStack k && okPart n
  | .dramRefresh k => okStack k
  | .patrolScrub k _ _ => okStack k
  | .interleaveImbalance k => okStack k
  | .ucieModuleFence k m => okStack k && m < 8
  | .portSignalDetect p lanes => okPort p && lanes < 16
  | .laneTrainTimeout p lane => okPort p && lane < 4
  | .portTrainingComplete p _ _ _ _ _ => okPort p
  | .laneQualified p lane _ _ _ _ => okPort p && lane < 4
  | .portErrorRatioExit p lane => okPort p && lane < 4
  | .lossOfSignal p lane => okPort p && lane < 4
  | .laserMonitorSample _ _ => true
  | .lightRestored j => j < 4
  | .lkCtlRetrain p _ => okPort p
  | .lkCtlEnWrite p _ => okPort p
  | .lkPeerExpWrite p _ => okPort p
  | .flitTransmit p => okPort p
  | .dataFlitReceive p _ => okPort p
  | .retryRequestReceive p _ => okPort p
  | .retryRequestRepeat p => okPort p
  | .retryGiveUp p _ => okPort p
  | .probeFlitReceive p _ _ _ _ => okPort p
  | .bellFlitReceive p _ _ => okPort p
  | .bellFlitLost p => okPort p
  | .linkStateFlitReceive p _ => okPort p
  | .spineRouteLookup p _ => okPort p
  | .undeliverableReportReceive p => okPort p
  | .localDelivery p => okPort p
  | .reeveMessageReceive p => okPort p
  | .clockSourceLoss => true
  | .clockSourceLost => true
  | .haywardSliceStart r => okRow r
  | .haywardSliceComplete r _ _ _ => okRow r
  | .sliceAbandon r => okRow r
  | .migrationStraightThrough r => okRow r
  | .migrationAbandon r => okRow r
  | .migrationRetry r => okRow r
  | .patternSetVerify _ => true
  | .failureEvent => true
  | .contextReset n => okPart n
  | .engineResetTile p _ => okTile p
  | .engineResetMill k _ => okStack k
  | .engineResetPort p _ => okPort p
  | .partitionReset n _ => okPart n
  | .moduleComputeReset _ _ => true
  | .resetComplete n => n < 13
  | .resetEscalate lvl u _ _ => okScope lvl u
  | .lockstepMismatch => true
  | .lotEnd n => okPart n
  | .completionEntryWrite n => okPart n
  | .longOperationEnd _ _ _ _ _ => true
  | .assayStart n => okPart n
  | .assayReplayEnd n => okPart n
  | .doorbellWrite pg _ => okPage pg
  | .ringReset n => okPage n
  | .msixMessage v => v < 48
  | .modIdentity pg _ _ => okPage pg
  | .modGeometry pg _ _ => okPage pg
  | .modHealth pg _ _ => okPage pg
  | .modReady pg _ _ => okPage pg
  | .modClockSet pg _ _ => okPage pg
  | .modIdSet pg _ _ => okPage pg
  | .modResetPartition pg _ _ => okPage pg
  | .modResetModuleCompute pg _ _ => okPage pg
  | .modResetPowerCycle pg _ _ => okPage pg
  | .modTelemetry pg _ _ => okPage pg
  | .partMbCtl pg _ _ => okPage pg
  | .patLoad pg _ _ => okPage pg
  | .patActivate pg _ _ => okPage pg
  | .patSwitch pg _ _ => okPage pg
  | .patMap pg _ _ => okPage pg
  | .lotSubmit pg _ _ => okPage pg
  | .lotCancel pg _ _ => okPage pg
  | .lotQuery pg _ _ => okPage pg
  | .lotRecords pg _ _ => okPage pg
  | .lotCqSet pg _ _ => okPage pg
  | .lotDigests pg _ _ => okPage pg
  | .stageNumericModes pg _ _ => okPage pg
  | .stageHalt pg _ _ => okPage pg
  | .stageHoldLimit pg _ _ => okPage pg
  | .stageSplit pg _ _ => okPage pg
  | .stageBellPeriod pg _ _ => okPage pg
  | .stageKeyRotation pg _ _ => okPage pg
  | .stageReseed pg _ _ => okPage pg
  | .stageMergedRead pg _ _ => okPage pg
  | .stageCancel pg _ _ => okPage pg
  | .stageQuery pg _ _ => okPage pg
  | .ctxScanOut pg _ _ => okPage pg
  | .ctxScanIn pg _ _ => okPage pg
  | .ctxReset pg _ _ => okPage pg
  | .mntStackTest pg _ _ => okPage pg
  | .mntScrubStacks pg _ _ => okPage pg
  | .mntScrubTiles pg _ _ => okPage pg
  | .mntAssay pg _ _ => okPage pg
  | .mntFwUpdate pg _ _ _ _ => okPage pg
  | .mntLinkQual pg _ _ => okPage pg
  | .mntSpareMap pg _ _ => okPage pg
  | .mntLedger pg _ _ => okPage pg
  | .mntRepairLedger pg _ _ => okPage pg
  | .opStatus pg _ _ => okPage pg
  | .opSuspend pg _ _ => okPage pg
  | .opResume pg _ _ => okPage pg
  | .opCancel pg _ _ => okPage pg
  | .opList pg _ _ => okPage pg
  | .linkRouteWrite pg _ _ => okPage pg
  | .linkRouteSwitch pg _ _ => okPage pg
  | .linkMcastWrite pg _ _ => okPage pg
  | .sysKeys pg _ _ => okPage pg
  | .sysJoin pg _ _ => okPage pg
  | .sysLeave pg _ _ => okPage pg
  | .recRead pg _ _ => okPage pg
  | .pwrLimitSet pg _ _ => okPage pg
  | .pwrRead pg _ _ => okPage pg
  | .dbgRegRead pg _ _ => okPage pg
  | .dbgRegWrite pg _ _ => okPage pg
  | .dbgStoreRead pg _ _ => okPage pg
  | .dbgStoreWrite pg _ _ => okPage pg
  | .dbgImageRead pg _ _ => okPage pg
  | .dbgChanRead pg _ _ => okPage pg
  | .dbgResume pg _ _ => okPage pg
  | .dbgLooseOn pg _ _ => okPage pg
  | .dbgLooseOff pg _ _ => okPage pg
  | .dbgClkHalt pg _ _ => okPage pg
  | .dbgClkStep pg _ _ => okPage pg
  | .dbgClkResume pg _ _ => okPage pg
  | .dbgClkSet pg _ _ => okPage pg
  | .dbgTraceSet pg _ _ => okPage pg
  | .dbgTraceRead pg _ _ => okPage pg
  | .dbgMillNan pg _ _ => okPage pg
  | .traceTriggerMatch n => okPart n
  | .jtagDbgcmd _ => true
  | .jtagExtest _ => true
  | .jtagSamplePreload _ => true
  | .jtagIdcode => true
  | .jtagTesteng op => op < 7
  | .jtagBypass => true
  | .sidebandRequest _ => true
  | .mctpControl _ _ => true
  | .pldmGetSensorReading _ => true
  | .pldmPollEvent => true
  | .bar2Write _ _ _ => true
  | .assemblerTimeout n b => okPart n && b < Config.shareBolts
  | .bar2Read _ _ _ => true
  | .bar0MalformedAccess _ _ _ _ _ => true
  | .hostRegisterWrite _ _ _ => true
  | .managementAccess _ _ _ _ _ => true
  | .idleFlitReceive p _ => okPort p
  | .telemetrySweep => true
  | .pcieConfigurationRequest _ _ _ => true
  | .i3cDynamicAddress _ _ _ => true

end Sys2Proof
end

