-- ==== Sys2Proof/Decode.lean ====
section
/-! DEFINITION. The command a word spells. spec/opcode_table.json gives no row any bits: the block is commanded through its
registers, rings, links and pins, each of which has its own meaning, so no word spells a command. -/

namespace Sys2Proof

/-- The command that `nbits` bits with the value w spell by the table: none, since no row has bits. -/
def decodeTableWord (_nbits _w : Nat) : Option Instr := none

end Sys2Proof
end

