-- ==== Sys2Proof/Machine/Num.lean ====
section
/-! DEFINITION. Number formats and the arithmetic on them (spec/03_number_formats.md, R83 to R116), computed exactly
on dyadic numbers and rounded once at the end. -/

namespace Sys2Proof.Machine

/-- A decoded number: a NaN, an infinity, or the exact value (-1)^neg * m * 2^e (m = 0 is a signed zero). -/
inductive Fl where
  | nan
  | inf (neg : Bool)
  | fin (neg : Bool) (m : Nat) (e : Int)
  deriving DecidableEq, Repr

/-- The formats of Table 3.1 and the element formats of the MX blocks (R113). -/
inductive Fmt where
  | e4m3 | e5m2 | bf16 | fp16 | fp32 | int8 | int32 | e2m3 | e3m2 | e2m1
  deriving DecidableEq, Repr

/-- The conversion rounding modes (R89). -/
inductive Rnd where
  | rne | rtz | sr
  deriving DecidableEq, Repr

/-- Fraction bits of a floating format (Table 3.1). -/
def fmtFrac : Fmt → Nat
  | .e4m3 => 3 | .e5m2 => 2 | .bf16 => 7 | .fp16 => 10 | .fp32 => 23 | .e2m3 => 3 | .e3m2 => 2 | .e2m1 => 1
  | .int8 => 0 | .int32 => 0

/-- Exponent bits of a floating format (Table 3.1). -/
def fmtExp : Fmt → Nat
  | .e4m3 => 4 | .e5m2 => 5 | .bf16 => 8 | .fp16 => 5 | .fp32 => 8 | .e2m3 => 2 | .e3m2 => 3 | .e2m1 => 2
  | .int8 => 0 | .int32 => 0

/-- Exponent bias (Table 3.1; the MX element formats have the bias 2^(bits-1) - 1). -/
def fmtBias (f : Fmt) : Nat := 2 ^ (fmtExp f - 1) - 1

/-- Bytes of one element in the store. -/
def fmtBytes : Fmt → Nat
  | .e4m3 => 1 | .e5m2 => 1 | .bf16 => 2 | .fp16 => 2 | .fp32 => 4 | .int8 => 1 | .int32 => 4
  | .e2m3 => 1 | .e3m2 => 1 | .e2m1 => 1

/-- Bits of one element. -/
def fmtBits : Fmt → Nat
  | .e2m3 => 6 | .e3m2 => 6 | .e2m1 => 4 | f => 8 * fmtBytes f

/-- The canonical NaN (Table 3.1, R85); a format without a NaN converts a NaN to 0 (R91). -/
def canonNaN : Fmt → Nat
  | .e4m3 => 0x7F | .e5m2 => 0x7E | .bf16 => 0x7FC0 | .fp16 => 0x7E00 | .fp32 => 0x7FC00000
  | _ => 0

/-- The largest finite magnitude's encoding (Table 3.1). -/
def fmtMaxFin : Fmt → Nat
  | .e4m3 => 0x7E | .e5m2 => 0x7B | .bf16 => 0x7F7F | .fp16 => 0x7BFF | .fp32 => 0x7F7FFFFF
  | .int8 => 127 | .int32 => 0x7FFFFFFF | .e2m3 => 0x1F | .e3m2 => 0x1F | .e2m1 => 0x7

/-- The positive infinity's encoding, where the format has one. -/
def fmtInf : Fmt → Option Nat
  | .e5m2 => some 0x7C | .bf16 => some 0x7F80 | .fp16 => some 0x7C00 | .fp32 => some 0x7F800000
  | _ => none

/-- Exponent of the unit in the last place of the smallest subnormal. -/
def fmtEmin (f : Fmt) : Int := 1 - (fmtBias f : Int) - fmtFrac f

/-- The sign bit's weight. -/
def fmtSign (f : Fmt) : Nat := 2 ^ (fmtBits f - 1)

/-- A two's-complement integer of w bits as an Int. -/
def sInt (w n : Nat) : Int := if n % 2 ^ w < 2 ^ (w - 1) then (n % 2 ^ w : Nat) else (n % 2 ^ w : Nat) - (2 ^ w : Nat)

/-- An Int as the exact number it is. -/
def flOfInt (i : Int) : Fl := .fin (i < 0) i.natAbs 0

/-- Read an encoding (R83): subnormals keep their exact value (R84). -/
def flDecode (f : Fmt) (bits : Nat) : Fl :=
  match f with
  | .int8 => flOfInt (sInt 8 bits)
  | .int32 => flOfInt (sInt 32 bits)
  | _ =>
    let s := bits / fmtSign f % 2 == 1
    let mag := bits % fmtSign f
    let ex := mag / 2 ^ fmtFrac f
    let fr := mag % 2 ^ fmtFrac f
    let isMx := f == .e2m3 || f == .e3m2 || f == .e2m1
    if f == .e4m3 && mag == 0x7F then .nan
    else if f != .e4m3 && !isMx && ex == 2 ^ fmtExp f - 1 then (if fr == 0 then .inf s else .nan)
    else if ex == 0 then .fin s fr (fmtEmin f)
    else .fin s (2 ^ fmtFrac f + fr) (fmtEmin f + (ex : Int) - 1)

/-- m * 2^s for s of either sign, rounded down. -/
def shl (m : Nat) (s : Int) : Nat := if 0 ≤ s then m * 2 ^ s.toNat else m / 2 ^ (-s).toNat

/-- Compare two magnitudes m * 2^e. -/
def magLt (m1 : Nat) (e1 : Int) (m2 : Nat) (e2 : Int) : Bool :=
  let e := min e1 e2
  m1 * 2 ^ (e1 - e).toNat < m2 * 2 ^ (e2 - e).toNat

/-- One rounding decision on a magnitude whose unit in the last place is 2^ue (R89, R92): the count of units.
`r` is the 16-bit draw of a stochastic rounding. -/
def roundUnits (mode : Rnd) (r : Nat) (m : Nat) (e ue : Int) : Nat :=
  if ue ≤ e then m * 2 ^ (e - ue).toNat
  else
    let s := (ue - e).toNat
    let q := m / 2 ^ s
    let rem := m % 2 ^ s
    let up := match mode with
      | .rtz => false
      | .rne => (2 ^ s < 2 * rem) || (2 * rem == 2 ^ s && q % 2 == 1)
      | .sr => r < rem * 65536 / 2 ^ s
    if up then q + 1 else q

/-- Does a magnitude reach the overflow threshold of Table 3.3 (half a unit above the largest finite value, the
threshold itself included)? -/
def overThreshold (f : Fmt) (m : Nat) (e : Int) : Bool :=
  match flDecode f (fmtMaxFin f) with
  | .fin _ mm me => !(magLt m e (2 * mm + 1) (me - 1))
  | _ => false

/-- The overflow result of Table 3.3; the Bool says that it is a produced NaN (R96). -/
def overResult (f : Fmt) (sat : Bool) (neg : Bool) : Nat × Bool :=
  let s := if neg then fmtSign f else 0
  match f with
  | .e4m3 => if sat then (0x7E + s, false) else (0x7F, true)
  | .e5m2 => if sat then (0x7B + s, false) else (0x7C + s, false)
  | _ => match fmtInf f with
    | some i => (i + s, false)
    | none => (fmtMaxFin f + s, false)

/-- A converted element: its encoding, and whether the conversion produced a NaN (cause 0x2 of Table 3.6). -/
structure Conv where
  bits : Nat
  produced : Bool := false
  deriving DecidableEq, Repr

/-- Round a finite magnitude into a floating format (R84, R89, R91, R92, R95). -/
def roundFloat (f : Fmt) (mode : Rnd) (sat : Bool) (r : Nat) (neg : Bool) (m : Nat) (e : Int) : Conv :=
  let s := if neg then fmtSign f else 0
  if m == 0 then ⟨s, false⟩
  else if mode != .rtz && overThreshold f m e then
    let o := overResult f sat neg; ⟨o.1, o.2⟩
  else
    let ue := max (fmtEmin f) (e + (m.log2 : Int) - fmtFrac f)
    let q := roundUnits mode r m e ue
    let bits := (ue - fmtEmin f).toNat * 2 ^ fmtFrac f + q
    if fmtMaxFin f < bits then
      if mode == .rtz then ⟨fmtMaxFin f + s, false⟩
      else let o := overResult f sat neg; ⟨o.1, o.2⟩
    else ⟨bits + s, false⟩

/-- Round a finite value to an integer and saturate it to w bits (R91: integer destinations saturate). -/
def roundInt (w : Nat) (mode : Rnd) (r : Nat) (neg : Bool) (m : Nat) (e : Int) : Nat :=
  let q := roundUnits mode r m e 0
  if neg then (2 ^ w - min q (2 ^ (w - 1))) % 2 ^ w else min q (2 ^ (w - 1) - 1)

/-- Convert a decoded number to a format (R86, R91, R92, R95, R99). -/
def convert (f : Fmt) (mode : Rnd) (sat : Bool) (r : Nat) (x : Fl) : Conv :=
  match f, x with
  | .int8, .nan => ⟨0, false⟩
  | .int32, .nan => ⟨0, false⟩
  | .int8, .inf n => ⟨if n then 0x80 else 0x7F, false⟩
  | .int32, .inf n => ⟨if n then 0x80000000 else 0x7FFFFFFF, false⟩
  | .int8, .fin n m e => ⟨roundInt 8 mode r n m e, false⟩
  | .int32, .fin n m e => ⟨roundInt 32 mode r n m e, false⟩
  | _, .nan => ⟨canonNaN f, false⟩
  | .e4m3, .inf n => if sat then ⟨0x7E + (if n then 0x80 else 0), false⟩ else ⟨0x7F, true⟩
  | _, .inf n => match fmtInf f with
    | some i => ⟨i + (if n then fmtSign f else 0), false⟩
    | none => ⟨fmtMaxFin f + (if n then fmtSign f else 0), false⟩
  | _, .fin n m e => roundFloat f mode sat r n m e

/-- An FP32 word from a decoded number, under RNE or RTZ. -/
def toFp32 (rtz : Bool) (x : Fl) : Word :=
  BitVec.ofNat 32 (convert .fp32 (if rtz then .rtz else .rne) true 0 x).bits

/-- The decoded value of an FP32 word. -/
def ofFp32 (w : Word) : Fl := flDecode .fp32 w.toNat

/-- The canonical FP32 NaN (Table 3.1). -/
def fp32NaN : Word := 0x7FC00000#32

/-- The exact sum of two numbers (R95, R96, R98). -/
def flAdd (a b : Fl) : Fl :=
  match a, b with
  | .nan, _ => .nan
  | _, .nan => .nan
  | .inf s, .inf t => if s == t then .inf s else .nan
  | .inf s, _ => .inf s
  | _, .inf t => .inf t
  | .fin s m e, .fin t n f =>
    if m == 0 && n == 0 then .fin (s && t) 0 0
    else
      let g := min e f
      let x : Int := (m * 2 ^ (e - g).toNat : Nat)
      let y : Int := (n * 2 ^ (f - g).toNat : Nat)
      let z := (if s then -x else x) + (if t then -y else y)
      .fin (z < 0) z.natAbs g

/-- The negation of a number. -/
def flNeg : Fl → Fl
  | .nan => .nan
  | .inf s => .inf (!s)
  | .fin s m e => .fin (!s) m e

/-- The magnitude of a number. -/
def flAbs : Fl → Fl
  | .nan => .nan
  | .inf _ => .inf false
  | .fin _ m e => .fin false m e

/-- The exact product (R95, R96). -/
def flMul (a b : Fl) : Fl :=
  match a, b with
  | .nan, _ => .nan
  | _, .nan => .nan
  | .inf s, .inf t => .inf (s != t)
  | .inf s, .fin t n _ => if n == 0 then .nan else .inf (s != t)
  | .fin s m _, .inf t => if m == 0 then .nan else .inf (s != t)
  | .fin s m e, .fin t n f => .fin (s != t) (m * n) (e + f)

/-- Is it a NaN? -/
def flIsNaN (x : Fl) : Bool := x == .nan

/-- Is it a zero? -/
def flIsZero : Fl → Bool
  | .fin _ m _ => m == 0
  | _ => false

/-- Order on numbers, -0 below +0 (R97); a NaN compares false. -/
def flLt (a b : Fl) : Bool :=
  match a, b with
  | .nan, _ => false
  | _, .nan => false
  | .inf s, .inf t => s && !t
  | .inf s, .fin _ _ _ => s
  | .fin _ _ _, .inf t => !t
  | .fin s m e, .fin t n f =>
    if m == 0 && n == 0 then s && !t
    else if s && !t then true
    else if !s && t then false
    else if s then magLt n f m e
    else magLt m e n f

/-- Numeric order with both zeros equal (IEEE comparison); a NaN compares false. -/
def flLtNum (a b : Fl) : Bool := if flIsZero a && flIsZero b then false else flLt a b

/-- maximumNumber (R97). -/
def flMax (a b : Fl) : Fl :=
  match a, b with
  | .nan, y => y
  | x, .nan => x
  | x, y => if flLt x y then y else x

/-- minimumNumber (R97). -/
def flMin (a b : Fl) : Fl :=
  match a, b with
  | .nan, y => y
  | x, .nan => x
  | x, y => if flLt y x then y else x

/-- A quotient m/n of magnitudes as a dyadic number carrying a sticky bit below 80 bits of quotient, so that one
rounding to FP32 is the rounding of the exact quotient. -/
def divMag (m : Nat) (e : Int) (n : Nat) (f : Int) : Nat × Int :=
  let k := 80 + n.log2 + 1
  let q := m * 2 ^ k / n
  let r := m * 2 ^ k % n
  (2 * q + (if r == 0 then 0 else 1), e - f - (k : Int) - 1)

/-- The quotient of two numbers, exact up to a sticky bit (R96 gives 0/0 and inf/inf; a finite nonzero value over zero
is an infinity of the product of the signs, R98). -/
def flDiv (a b : Fl) : Fl :=
  match a, b with
  | .nan, _ => .nan
  | _, .nan => .nan
  | .inf _, .inf _ => .nan
  | .inf s, .fin t _ _ => .inf (s != t)
  | .fin s _ _, .inf t => .fin (s != t) 0 0
  | .fin s m e, .fin t n f =>
    if n == 0 then (if m == 0 then .nan else .inf (s != t))
    else if m == 0 then .fin (s != t) 0 0
    else let q := divMag m e n f; .fin (s != t) q.1 q.2

/-- Integer square root by its binary digits from bit `i` down. -/
def isqrtAux (n : Nat) : Nat → Nat → Nat
  | 0, r => r
  | i + 1, r => if (r + 2 ^ i) * (r + 2 ^ i) ≤ n then isqrtAux n i (r + 2 ^ i) else isqrtAux n i r

/-- The largest r with r * r ≤ n. -/
def isqrt (n : Nat) : Nat := isqrtAux n (n.log2 / 2 + 1) 0

/-- The square root, exact up to a sticky bit (R96: below -0 it is a NaN; the root of -0 is -0). -/
def flSqrt : Fl → Fl
  | .nan => .nan
  | .inf s => if s then .nan else .inf false
  | .fin s m e =>
    if m == 0 then .fin s 0 0
    else if s then .nan
    else
      let k : Nat := 80
      let m' := if e % 2 == 0 then m else 2 * m
      let e' := if e % 2 == 0 then e else e - 1
      let r := isqrt (m' * 2 ^ (2 * k))
      .fin false (2 * r + (if r * r == m' * 2 ^ (2 * k) then 0 else 1)) (e' / 2 - (k : Int) - 1)

/-- Did an operation produce a NaN from operands that are not NaN (R96)? -/
def madeNaN (ops : List Fl) (r : Fl) : Bool := flIsNaN r && !(ops.any flIsNaN)

/-- FP32 addition rounded to nearest even, as the loom, the granary and the bins do it (R89). -/
def addRne (a b : Word) : Word := toFp32 false (flAdd (ofFp32 a) (ofFp32 b))

/-- xorshift step of a stochastic-rounding lane (R93). -/
def srAdvance (s : Word) : Word :=
  let s := s ^^^ (s <<< 13)
  let s := s ^^^ (s >>> 17)
  s ^^^ (s <<< 5)

/-- The seed of a lane (R94). `tile` is row * 96 + col of the logical tile. -/
def srSeed (lotSeed : Nat) (tile lane : Nat) : Word :=
  let s := BitVec.ofNat 32 lotSeed ^^^ BitVec.ofNat 32 (lotSeed / 2 ^ 32)
    ^^^ BitVec.ofNat 32 (tile * 0x9E3779B9) ^^^ BitVec.ofNat 32 ((lane + 1) * 0x85EBCA6B)
  if s = 0 then 1#32 else s

/-- The hi piece of a split (R109). -/
def splitHi (w : Word) : Nat :=
  if flIsNaN (ofFp32 w) then 0x7FC0 else w.toNat / 2 ^ 16

/-- The lo piece of a split (R109): the remainder rounded to nearest even to BF16. -/
def splitLo (w : Word) : Nat :=
  match ofFp32 w with
  | .nan => 0
  | .inf _ => 0
  | .fin s m _ =>
    if m == 0 then (if s then 0x8000 else 0)
    else
      let hi := flDecode .bf16 (w.toNat / 2 ^ 16)
      (convert .bf16 .rne true 0 (flAdd (ofFp32 w) (flNeg hi))).bits

/-- Is a scale legal (R107): a positive normal finite FP32? -/
def scaleOk (w : Word) : Bool := 0x00800000 ≤ w.toNat && w.toNat < 0x7F800000

/-- The FP32 magnitude of a source value rounded toward +infinity, for the running amax (R108); NaN gives none. -/
def amaxWord : Fl → Option Word
  | .nan => none
  | .inf _ => some 0x7F800000#32
  | .fin _ m e =>
    let lo := toFp32 true (.fin false m e)
    match ofFp32 lo with
    | .fin _ m' e' => some (if magLt m' e' m e then lo + 1 else lo)
    | _ => some lo

/-- emax of an MX element format (R115). -/
def mxEmax : Fmt → Int
  | .e4m3 => 8 | .e5m2 => 15 | .e2m3 => 2 | .e3m2 => 4 | .e2m1 => 2 | _ => 0

/-- An MX block as exported: its E8M0 scale, its element encodings, and the counts of R116. -/
structure MxBlock where
  scale : Nat
  elems : List Nat
  flushed : Nat
  special : Bool
  deriving DecidableEq, Repr

/-- The exponent of the leading bit of a nonzero magnitude. -/
def leadExp (m : Nat) (e : Int) : Int := (m.log2 : Int) + e

/-- The largest leading-bit exponent of a list of finite numbers; none when all are zero. -/
def maxLead : List Fl → Option Int
  | [] => none
  | .fin _ m e :: t =>
    let r := maxLead t
    if m == 0 then r else match r with
      | none => some (leadExp m e)
      | some x => some (max x (leadExp m e))
  | _ :: t => maxLead t

/-- One element of an MX export under a shared exponent (R115); MXINT8 elements are multiples of 2^-6. -/
def mxElem (f : Fmt) (mode : Rnd) (sh : Int) (x : Fl) (r : Nat) : Nat :=
  match x with
  | .fin s m e =>
    if f == .int8 then
      let q := min 127 (roundUnits mode r m (e - sh) (-6))
      if s then (256 - q) % 256 else q
    else
      match flDecode f (fmtMaxFin f) with
      | .fin _ mm me =>
        if magLt mm me m (e - sh) then fmtMaxFin f + (if s then fmtSign f else 0)
        else (roundFloat f mode true r s m (e - sh)).bits
      | _ => 0
  | _ => 0

/-- Export a block of values (R115, R116); `draws` are the stochastic draws of its elements. A block that exports as special counts
none of its elements as flushed (DESIGN CHOICE, assumption 56). -/
def mxExport (f : Fmt) (mode : Rnd) (vals : List Fl) (draws : List Nat) : MxBlock :=
  if vals.any (fun x => match x with | .fin _ _ _ => false | _ => true) then
    ⟨0xFF, vals.map (fun _ => 0), 0, true⟩
  else match maxLead vals with
    | none => ⟨0x7F, vals.map (fun x => match x with
        | .fin true _ _ => if f == .int8 then 0 else fmtSign f
        | _ => 0), 0, false⟩
    | some le =>
      let sh := max (-127) (min 127 (le - mxEmax f))
      let es := (vals.zip (draws ++ vals.map (fun _ => 0))).map (fun p => mxElem f mode sh p.1 p.2)
      let fl := (vals.zip es).foldl (fun n p => if !(flIsZero p.1) && p.2 % fmtSign f == 0 && !(f == .int8 && p.2 != 0)
        then n + 1 else n) 0
      ⟨(sh + 127).toNat, es, fl, false⟩

/-- Import one MX element (R114). -/
def mxImport (f : Fmt) (scale bits : Nat) : Fl :=
  if scale == 0xFF then .nan
  else
    let x := if f == .int8 then (match flOfInt (sInt 8 bits) with | .fin s m e => Fl.fin s m (e - 6) | y => y)
      else flDecode f bits
    match x with
    | .fin s m e => .fin s m (e + (scale : Int) - 127)
    | y => y

end Sys2Proof.Machine
end

