-- ==== Sys2Proof/Machine/State.lean ====
section
/-! DEFINITION. The state of the block: every register, buffer, counter, mode and pin the spec gives the module, as
plain data. INVENTORY.md lists each field with the rule that names it and its reset value. Reset values that the spec does
not state, what flash and fuses hold, and the fields of the model own: DESIGN CHOICE, assumptions 5, 6, 8 and 9; what an
unlisted byte reads: DESIGN CHOICE, assumption 4. -/

namespace Sys2Proof.Machine

/-- Why the block stops on a command. No command of the table ends in a fault: an error is an event or a status. -/
inductive Fault where
  /-- Raised by nothing: the spec gives every error of the block an event, a record or a status code (safe). -/
  | none
  deriving DecidableEq, Repr

/-- Why the block refuses a command. -/
inductive Refusal where
  /-- The command has no meaning yet: raised by an arm of Dispatch.lean only (safe). -/
  | notModelled (mnemonic : String)
  /-- The command names a unit outside Table 0.3 (R11: the module accepts such an index nowhere); raised by the
  meanings' range checks (safe). -/
  | noSuchUnit
  deriving DecidableEq, Repr

/-- The tile states of Table 2.6. -/
inductive TileSt where
  | idle | loading | joining | active | switching | halted | pinfold
  deriving DecidableEq, Repr

/-- The bank states of R56. -/
inductive BankSt where
  | empty | staged | ready | active
  deriving DecidableEq, Repr

/-- What stopped a tile: a schedule violation (R65), a NaN trap (R106) or a clerk fault (R237). -/
inductive StopCause where
  | schedule | nanTrap | clerkFault
  deriving DecidableEq, Repr

/-- A descriptor sampled by a fired unit in its fire cc (R62, R103, R234), waiting for the unit's own command. `unit`
is the fire bit of Table 2.7. -/
structure Fired where
  unit : Nat
  desc : List Byte := []
  descIdx : Nat := 0
  chain : List (List Byte) := []
  step : Nat := 0
  fireCc : Nat := 0
  modes : Word := 0
  ctrs : List Nat := []
  len : Nat := 0
  res0 : Word := 0
  res1 : Word := 0
  withRed : Bool := false
  deriving DecidableEq, Repr

/-- The sequencer (R62, R63, R232). `wait` is 0, or the condition 5 or 6 it waits in; `nextCc` is the interval cc in
which its next step fires; `moved` the value of `Clk.cycles` when it last left a step for another (R404). -/
structure Seq where
  run : Bool := false
  step : Nat := 0
  ctrs : Kv Nat := []
  reloads : Kv Nat := []
  wait : Nat := 0
  nextCc : Nat := 0
  intervals : Nat := 0
  flags : Nat := 0
  moved : Nat := 0
  deriving DecidableEq, Repr

/-- One entry of an inbound channel (R66, R264). -/
structure ChEnt where
  bytes : List Byte
  credited : Bool
  sender : Nat
  deriving DecidableEq, Repr

/-- Numeric modes and the first-NaN record (R93, R101 to R108, R116). A lane of `sr` that is not listed holds the
seed of lot seed 0 (R94; a lane is never zero). `srRun` are the passes that have run and whose draws are not yet in `sr`,
because draws of passes still to run fall among them (R93). -/
structure NumSt where
  mode : Word := 0x30
  ovr : Word := 0x30
  sr : Kv Word := []
  nanValid : Bool := false
  nanStopped : Bool := false
  nanCount : Nat := 0
  nanRec : List Byte := []
  amax : Kv Word := []
  mxUflow : Nat := 0
  mxSpecial : Nat := 0
  srRun : List Fired := []
  deriving DecidableEq, Repr

/-- One weight set of the loom (R118, R135): element (k, n) at key 33 k + n, column 32 the check weight. -/
structure WSet where
  w : Kv Half := []
  tag : Nat := 0
  lo : Bool := false
  deriving DecidableEq, Repr

/-- The loom (R117 to R141). Accumulator element n of entry e is at key 32 e + n. `swaps` are the cc of the swaps of
this interval, `oldSets` what a shuttle load of this interval overwrote (its fire cc, the set, its contents), and
`updCc` the last update cc of an entry: they give a stream the weights of each of its multiply cycles. -/
structure Loom where
  setA : WSet := {}
  setB : WSet := {}
  activeB : Bool := false
  swaps : List Nat := []
  oldSets : List (Nat × Bool × WSet) := []
  updCc : Kv Nat := []
  acc : Kv Word := []
  accBad : Kv Nat := []
  failA : Nat := 0x3F
  failB : Nat := 0x3F
  gating : Bool := false
  scatterOk : Bool := false
  chkValid : Bool := false
  chkRec : List Byte := []
  mism : Nat := 0
  skip : Nat := 0
  gated : Nat := 0
  accUnc : Nat := 0
  accCor : Nat := 0
  deriving DecidableEq, Repr

/-- One granary slot: its key and 32 values (R151). -/
structure GranSlot where
  key : Nat
  vals : List Word
  deriving DecidableEq, Repr

/-- The open spill stream of a pass (R153): its region, how many whole bolts it has, the keys of the records in the open one, and the
interval cc by which the DMA of its last memory bolts is done, latest first (R154). -/
structure Spill where
  ovfAddr : Nat
  ovfBolts : Nat
  memBase : Nat
  memBolts : Nat
  bolts : Nat
  recs : List Nat
  dma : List Nat := []
  deriving DecidableEq, Repr

/-- The sieve, the granary and the bins (R142 to R167). Granary slot t of bank b is at key 16 b + t; value n of bins
row r at key 32 r + n. `spill` is the open spill stream of the granary, `spillB` the bins'. -/
structure Sparse where
  gran : Kv (Option GranSlot) := []
  bins : Kv Word := []
  nnz : Nat := 0
  elem : Nat := 0
  defer : Nat := 0
  stall : Nat := 0
  spillMem : Nat := 0
  spillStore : Nat := 0
  ovrValid : Bool := false
  ovrCause : Nat := 0
  ovrRec : List Byte := []
  spill : Option Spill := none
  spillB : Option Spill := none
  deriving DecidableEq, Repr

/-- A reduction result computed and not yet written (R185, R187): one or two values per result, the cc each result is ready
and the last of them, and how many of its store lines have been written. -/
structure RedPend where
  dest : Nat
  addr : Nat
  vals : List Word
  pair : Bool
  readyCc : Nat
  ready : List Nat := []
  lines : Nat := 0
  deriving DecidableEq, Repr

/-- The values a fuller pass has let its reduction tap: one list of active lanes per vector (R185). -/
structure Tap where
  step : Nat
  vecs : List (List Word)
  firstCc : Nat
  vInt : Nat
  deriving DecidableEq, Repr

/-- The fuller and its reduction unit (R168 to R190). `resKey` is when and where the latched residue mismatch fell: bell, cc,
unit, stage and lane (R189). -/
structure Fuller where
  len : Nat := 0
  res0 : Word := 0
  res1 : Word := 0
  resValid : Bool := false
  resRec : List Byte := []
  resMism : Nat := 0
  resKey : List Nat := []
  redPend : Option RedPend := none
  tap : Option Tap := none
  deriving DecidableEq, Repr

/-- A mesh packet (Table 9.1), with what the routers know of it: `table` the
key table as it stood at its first input (R259; empty before that), `fwd` a combined arrival to be sent onward (R261), `srcMod` the module an item came from (0xFFFFFFFF this one, R55),
`item` an inter-module deadline item (R317) and `stamp` its interval stamp (R44), `dline` the store line a read request asks for
(R294), `born` one more than the interval cc of the pop a credit return stems from (R264), or the movement stamp at which a
request reached its stack interface (R279), `bank` the route bank in force when it reached its link port (R323). -/
structure Packet where
  kind : Nat
  vc : Nat
  mcast : Bool := false
  last : Bool := false
  sub : Nat := 0
  key : Nat := 0
  dest : Nat := 0
  src : Nat := 0
  addr : Nat := 0
  aux : Nat := 0
  payload : List Byte := []
  table : List (Nat × Nat) := []
  fwd : Bool := false
  srcMod : Nat := 0xFFFFFFFF
  item : Bool := false
  stamp : Nat := 0
  dline : Nat := 0
  born : Nat := 0
  bank : Nat := 0
  deriving DecidableEq, Repr

/-- One gather-buffer entry (R201): the line, and the pending bytes by their offset. -/
structure GEnt where
  line : Nat
  bytes : List (Nat × Byte)
  deriving DecidableEq, Repr

/-- The tile store (R191 to R211). `bad` counts the failing bits of an 8 B word; `wlog` holds the cc, the address and the bytes
before it of each write of this interval, latest first, for the reads of passes that run later (R199). `touched` are the tracked
lines written since the last guard, of the store and of the other arrays, for a migration's dirty marks (R369). -/
structure Store where
  mem : Mem := []
  bad : Kv Nat := []
  wbq : List Nat := []
  gbuf : List GEnt := []
  fin : List Packet := []
  eccUnc : Nat := 0
  eccCor : Nat := 0
  wrRef : Nat := 0
  cellRef : Nat := 0
  ueValid : Bool := false
  uePort : Nat := 0
  ueLine : Nat := 0
  ueBell : Nat := 0
  scrubIntv : Nat := 0x10
  scrubPos : Option Nat := none
  scrubCor : List Nat := []
  wlog : List (Nat × Nat × List Byte) := []
  touched : List Nat := []
  deriving DecidableEq, Repr

/-- Whether the clerk is held at reset, runs, or is stopped by a fault (R217, R237). -/
inductive ClerkRun where
  | held | running | stopped
  deriving DecidableEq, Repr

/-- The clerk core (R212 to R241). `mcycle0` is the value of `Clk.cycles` from which mcycle counts; `stale` holds byte + 1 of
what the fetch buffer still has from before a fill (R219). -/
structure Clerk where
  run : ClerkRun := .held
  x : Kv Word := []
  pc : Word := 0
  im : Mem := []
  imBad : Kv Nat := []
  mie3 : Bool := false
  mpie : Bool := false
  mie : Word := 0
  mtvec : Word := 0
  mscratch : Word := 0
  mepc : Word := 0
  mcause : Word := 0
  mtval : Word := 0
  mcycle0 : Nat := 0
  moved : Nat := 0
  minstret : Nat := 0
  qsel : Nat := 0
  qirq : Nat := 0
  sbuf : Kv Word := []
  hold : Bool := false
  bellSeen : Word := 0
  inTrap : Bool := false
  resv : Option Nat := none
  bellPend : Bool := false
  sendFail : Bool := false
  wakePend : Bool := false
  wakeLost : Nat := 0
  wakeStep : Nat := 0
  lpStart : Kv Word := []
  lpEnd : Kv Word := []
  lpCount : Kv Word := []
  lpStatus : Nat := 0
  imSrc : Word := 0
  eccUnc : Nat := 0
  eccCor : Nat := 0
  dpLoc : Kv Word := []
  dpVal : Kv Word := []
  stale : Kv Nat := []
  deriving DecidableEq, Repr

/-- One virtual-channel buffer of a router input (R243): its packet, the outputs already granted a copy (R257), and the
stamps that give the order of presentation (R251). -/
structure RtBuf where
  pkt : Option Packet := none
  granted : List Nat := []
  seq : Nat := 0
  cc : Nat := 0
  emptySeq : Nat := 0
  emptyCc : Nat := 0
  deriving DecidableEq, Repr

/-- The counters of one router port (Table 9.10); the stalls up to cycle `stallTo` are in `stall`. -/
structure RtPort where
  pkt : Nat := 0
  byte : Nat := 0
  stall : Nat := 0
  stallTo : Nat := 0
  waitMax : Nat := 0
  vc0 : Nat := 0
  vc1 : Nat := 0
  vc2 : Nat := 0
  deriving DecidableEq, Repr

/-- An open barrier context (R261, R262): its key, mask line, bell count, and the inputs that have arrived. -/
structure BarCtx where
  key : Nat
  mask : List Byte
  bell : Nat
  arrived : List Nat
  deriving DecidableEq, Repr

/-- The router of a physical tile (R242 to R268). Buffer of input i and virtual channel v is at key 3 i + v; port codes
L, N, S, E, W are 0 to 4. `rooms` gives the stamp and the cycle since which the sinks have had
room: n lines at fabric-in at key n, an entry of channel n at key 8 + n. `heads` gives the stamp and the cycle of the last grant
that output o made of input i, at key 5 i + o (R251). -/
structure Router where
  row : Nat := 0x3F
  col : Nat := 0x7F
  part : Nat := 0xF
  key : Nat := 0
  prev : Nat := 0
  sel : Nat := 0
  ports : Kv RtPort := []
  dropKey : Nat := 0
  dropStale : Nat := 0
  dropUe : Nat := 0
  dropBypass : Nat := 0
  corr : Nat := 0
  bar : Kv (Option BarCtx) := []
  flags : Nat := 0
  flagKeys : Kv Nat := []
  bufs : Kv RtBuf := []
  inject : List Packet := []
  eject : List Packet := []
  rooms : Kv (Nat × Nat) := []
  heads : Kv (Nat × Nat) := []
  deriving DecidableEq, Repr

/-- A queued DMA descriptor (R282): its sampled bytes, the counter value, the bolts already begun, and of a read the request
packets of the next bolt that have left, with the job they belong to; `fireCc` is the cc of this interval in which it was fired, 0 once
that interval is over. -/
structure DmaEnt where
  desc : List Byte
  ctr : Nat
  begun : Nat
  step : Nat
  descIdx : Nat
  sent : Nat := 0
  job : Nat := 0
  fireCc : Nat := 0
  deriving DecidableEq, Repr

/-- A transfer in flight (R280, R283): its DMA op, its completion group and the packets it still waits for. `spill`
marks a memory spill (R153), which counts in no group: its `group` is the target, 0 the granary, 1 the bins; `merged` the
merged read in flight (R294). -/
structure DmaJob where
  id : Nat
  op : Nat
  group : Nat
  left : Nat
  spill : Bool := false
  merged : Bool := false
  sAddr : Nat := 0
  deriving DecidableEq, Repr

/-- The states of a tally-table entry (R336). -/
inductive TallySt where
  | stale | filling | valid | mismatched
  deriving DecidableEq, Repr

/-- One entry of the tally table. -/
structure TallyEnt where
  st : TallySt := .stale
  tally : Word := 0
  deriving DecidableEq, Repr

/-- A bolt or mill post waiting for fabric-out (R282, R339): the DMA op, where it goes, its job (0 for none), the group it
counts in when it leaves, the mask line of a multicast, the link header, and for a spill or a bolt partly sent the bytes
themselves. `sent` packets have left, with `tally`; `final` marks the last bolt of the descriptor at the front; `ent` is the tally entry of a
spill bolt as it was read. -/
structure OutJob where
  op : Nat
  dest : Nat
  sAddr : Nat
  addr : Nat
  sub : Nat := 0
  job : Nat := 0
  group : Nat := 0
  mask : List Byte := []
  link : List Byte := []
  data : List Byte := []
  sent : Nat := 0
  tally : Nat := 0
  final : Bool := false
  ent : TallyEnt := {}
  deriving DecidableEq, Repr

/-- A bolt partly arrived at fabric-in (R283, R338). -/
structure Arrive where
  src : Nat
  kind : Nat
  sub : Nat
  start : Nat
  aux : Nat
  auxDiffer : Bool
  lines : List (Nat × List Byte)
  deriving DecidableEq, Repr

/-- The DMA unit of a tile (R280 to R283, R298). A tag holds the number of its job, 0 when free. -/
structure Dma where
  queue : List DmaEnt := []
  tags : Kv Nat := []
  jobs : List DmaJob := []
  nextJob : Nat := 1
  done : Kv Nat := []
  merged : Bool := false
  fout : List OutJob := []
  arrive : List Arrive := []
  deriving DecidableEq, Repr

/-- A tracker (R337): its bolt and the half lines folded so far. -/
structure Tracker where
  bolt : Nat
  halves : List Nat
  deriving DecidableEq, Repr

/-- The tally table of a tile and its registers (R336 to R340, R353, R364). Trackers stand in the order taken. -/
structure Tally where
  ents : Kv TallyEnt := []
  trackers : List Tracker := []
  mismIn : Nat := 0
  mismOut : Nat := 0
  staleCnt : Nat := 0
  formed : Nat := 0
  sel : Nat := 0
  recValid : Bool := false
  recd : List Byte := []
  digest : Nat := 0
  deriving DecidableEq, Repr

/-- Hayward's status of a physical tile (Table 13.5), and the cause of Table 14.1 a pinfolded tile failed on. -/
structure HwSt where
  role : Nat := 1
  result : Nat := 0
  partialRes : Bool := false
  ageS : Nat := 0xFFFF
  cause : Nat := 0
  eccSeen : Nat := 0
  deriving DecidableEq, Repr

/-- The clerk debug registers of a tile (Table 18.2). -/
structure DbgSt where
  bp0 : Word := 0
  bp1 : Word := 0
  loose : Bool := false
  halted : Bool := false
  cause : Nat := 0
  ebreakHalt : Bool := false
  deriving DecidableEq, Repr

/-- A tile: the role it holds, and the physical units it is made of. `busy` gives the first free cc of a unit (R65; 20 and
21 are the granary and the bins as targets, 22 the spill writes, 23 a BF16×3 scatter pass, 24 a reduction's result, 25 a sieve
pass's blocks, 26 a loom stream's pipeline, 27 a loom drain, 28, 29 and 30 the accesses of fabric-in, of fabric-out and of the clerk, 31 counts the write-backs of the guard), `lastOut` the last output access of the fuller (R180), `lend` the cc its
borrow port has served (first and last, R205), `doneCc` the cc its last unit is done (R40). `nextArr` counts items stamped for the next interval (R44), `window` is
a test window interval (R381), `joins` a role that has just been moved here and waits for the bell (R370, R373). -/
structure Tile where
  st : TileSt := .idle
  stop : Option StopCause := none
  banks : Kv BankSt := []
  actBank : Nat := 0
  nextBank : Nat := 0
  installed : Bool := false
  loadErr : Nat := 0
  seq : Seq := {}
  fired : List Fired := []
  busy : Kv Nat := []
  lastOut : Nat := 0
  lend : List (Nat × Nat) := []
  doneCc : Nat := 0
  arrivals : Kv Nat := []
  nextArr : Kv Nat := []
  window : Bool := false
  joins : Bool := false
  late : Nat := 0
  outCredits : Kv Nat := []
  chans : Kv (List ChEnt) := []
  chHead : Kv Nat := []
  revoked : Nat := 0
  lotUnchecked : Bool := false
  num : NumSt := {}
  loom : Loom := {}
  sparse : Sparse := {}
  fuller : Fuller := {}
  store : Store := {}
  clerk : Clerk := {}
  router : Router := {}
  dma : Dma := {}
  tally : Tally := {}
  hw : HwSt := {}
  dbg : DbgSt := {}
  deriving DecidableEq, Repr

/-- A failure event on its way to the Reeve (R31, R359 to R363). `part` 0xFFFF names no partition; `compl` is the code of
the lots it fails, 0 for none; `led` the repair-ledger index of the entry the event added (Table 12.7), 0xFFFFFFFF for none. -/
structure Event where
  code : Nat
  unit : Nat := 0
  loc : Nat := 0
  part : Nat := 0xFFFF
  bell : Nat := 0
  cc : Nat := 0
  lot : Nat := 0
  pattern : Nat := 0
  compl : Nat := 0
  payKind : Nat := 0
  pay : List Byte := []
  repro : Bool := false
  led : Nat := 0xFFFFFFFF
  deriving DecidableEq, Repr

/-- A slow notice (Table 17.7). -/
structure Notice where
  origin : Nat
  seq : Nat
  step : Nat
  target : Nat
  deriving DecidableEq, Repr

/-- A confirmed hang (R406): the logical tiles of its cycle with their sequencer steps, and where they stood. -/
structure Hang where
  steps : List (Nat × Nat)
  places : List Nat
  deriving DecidableEq, Repr

/-- One node of a watchman sample (R404): the node, what it waits for, the nodes its edges go to, and a count that moves
with any progress on them. A node is a physical tile, or, behind them, a stack's interface or mill. -/
structure Wait where
  tile : Nat
  what : Nat
  toTiles : List Nat
  progress : Nat
  deriving DecidableEq, Repr

/-- The bell and its bookkeeping (R36 to R50, R82, R405, R471 to R473). `cycles` counts every core clock cycle, and
`stamp` numbers the movements of packets in their order: both are the model's own. `steps` holds the emergency step in
force of each origin, `seqs` one more than the highest notice sequence heard of it. -/
structure Clk where
  bell : Nat := 0
  intvCc : Nat := 0
  cycles : Nat := 0
  stamp : Nat := 1
  periodUs : Nat := 1000
  holdUs : Nat := 20
  guard : Bool := false
  holding : Bool := false
  localHold : Nat := 0
  expectDelay : Nat := 0
  expected : Bool := false
  step : Nat := 0
  steps : Kv Nat := []
  notices : List Notice := []
  seqs : Kv Nat := []
  noticeSeq : Nat := 0
  extCc : Nat := 0
  rotation : Bool := false
  watch : List Wait := []
  holdSample : Nat := 0
  holds : Nat := 0
  overruns : List Nat := []
  deriving DecidableEq, Repr

/-- The low-speed pins and their latches (R456, R497 to R500): outputs as levels, `alertLatched` and `thermLatched` until
the input is removed. -/
structure Pins where
  pwrgd : Bool := false
  alertN : Bool := true
  thermtripN : Bool := true
  lreqN : Nat := 0xF
  mrstN : Bool := true
  perstN : Bool := false
  inputGood : Bool := false
  alertLatched : Bool := false
  thermLatched : Bool := false
  deriving DecidableEq, Repr

/-- Where a partition-row's stop stands (R365). -/
inductive StopSt where
  | idle | slice | waiting | migrating
  deriving DecidableEq, Repr

/-- A migration in progress (R368, R369, R374): its source, how many tracked lines have been copied once, the copied lines that are
marked dirty, the bell count of its first guard, and the lines that its last guard copied. -/
structure Mig where
  src : Nat
  copied : Nat := 0
  dirty : List Nat := []
  first : Option Nat := none
  last : Nat := 0
  deriving DecidableEq, Repr

/-- One partition-row (R16, R17, R365 to R374, R387): the local position of the tile that serves no role, the sweep,
the stop, and what is remembered of its tiles' faults: tile, cause, detail, bell. `stopCyc` is one more than the cycle count at which
the stop's slice began, 0 before the first, and `dwell` the minimum stop period that was in force then (R366, R385); `suspects` are
the positions that an assay found intermittent, to be tested next (R357). -/
structure Row where
  spare : Nat := 24
  west : Bool := true
  stop : StopSt := .idle
  stopCyc : Nat := 0
  dwell : Nat := 0xFA
  suspects : List Nat := []
  mig : Option Mig := none
  abandons : Nat := 0
  stalls : Nat := 0
  stalled : Bool := false
  retryAt : Nat := 0
  hist : List (Nat × Nat × Nat × Nat) := []
  deriving DecidableEq, Repr

/-- A lot (Table 15.8, R429, R430). `state` is 0 queued, 1 running, 2 finishing; `causes` are code, bell and cc of what
failed it; `info` gives the unit and record of a cause by the same three; `mill` counts its mill posts at work, `skips` the
bells its context has skipped, `cut` is the bell at which the Reeve ends it (R244, R259, R262, R322). Once `latched`, its attachments, digests and unchecked tiles stand as they were at its end. -/
structure Lot where
  number : Nat
  active : Bool := false
  causes : List (Nat × Nat × Nat) := []
  seed : Nat := 0
  mill : Nat := 0
  cookie : Nat := 0
  start : Nat := 0
  intervals : Nat := 0
  state : Nat := 0
  reloadBolt : Nat := 0xFFFFFFFF
  reloadN : Nat := 0
  mills : List (Nat × List Byte) := []
  recLen : Nat := 0
  recAddr : Nat := 0
  cancelReq : Bool := false
  voided : Bool := false
  ended : Nat := 0
  info : List (Nat × Nat × Nat × Nat × Nat) := []
  spares : List Nat := []
  patterns : Kv Nat := []
  mode : Word := 0x30
  skips : Nat := 0
  cut : Option Nat := none
  latched : Bool := false
  attach : List (List Byte) := []
  digests : Kv Nat := []
  unchecked : Nat := 0
  deriving DecidableEq, Repr

/-- An ended lot (R431 to R433): its code, its completion entry, and whether that entry has been written. -/
structure Ended where
  lot : Lot
  code : Nat
  entry : List Byte
  written : Bool
  deriving DecidableEq, Repr

/-- A completion queue (R431). -/
structure Cq where
  base : Nat
  entries : Nat
  seq : Nat := 0
  deriving DecidableEq, Repr

/-- An assay (R352 to R358): its lot, mode and suspects, the replay that runs or comes next (from 1), whether it runs, or
has met an overrun, how far the tiles' bell counts are set back, the results of each replay that has ended (digest and
latched records of each logical tile), and the logical tiles that replay B displaces. -/
structure Assay where
  lot : Nat
  mode : Nat
  suspects : List Nat
  handle : Nat
  replay : Nat := 1
  live : Bool := false
  cut : Bool := false
  back : Nat := 0
  results : List (Kv (Nat × List (List Byte))) := []
  displaced : List Nat := []
  deriving DecidableEq, Repr

/-- A partition's trace unit (R489 to R492): its capture state, triggers of 16 B, taps, records, the triggers matched in
the sample that stands, and how often each trigger has matched; `ringAt` and `ringN` count the records of one cc. -/
structure Trace where
  stopMode : Bool := false
  capture : Bool := false
  trigs : List (List Byte) := []
  tapTiles : List Nat := []
  tapPorts : List Nat := []
  tapClerk : Nat := 0xFFFF
  recs : List (List Byte) := []
  lost : Nat := 0
  lostFlag : Bool := false
  refused : Nat := 0
  hits : List Nat := []
  counts : Kv Nat := []
  ringAt : Nat × Nat := (0, 0)
  ringN : Nat := 0
  deriving DecidableEq, Repr

/-- A partition (R21, R258, R273, R389 to R408, R429, R483 to R486). `reset` is a reset in progress: its level and the
bell it began at; `resumeAt` the bell T' of a DBG.RESUME; `leaveAt` the bell of a leave; `skipped` and `skipCc` the bells and cc its context has skipped. -/
structure Part where
  seed : Word := 0
  key : Nat := 0
  prevKey : Nat := 0
  lots : List Lot := []
  trace : Trace := {}
  millMode : Word := 0x30
  skipCc : Nat := 0
  skipped : Nat := 0
  lost : Bool := false
  noCover : Bool := false
  reset : Option (Nat × Nat) := none
  leaveAt : Option Nat := none
  mbDisabled : Bool := false
  halted : Bool := false
  loose : Bool := false
  actBell : Nat := 0
  resumeAt : Option Nat := none
  resumeIn : Bool := false
  scan : Option Nat := none
  lastLot : Option Nat := none
  endBell : Nat := 0
  cq : Option Cq := none
  ended : List Ended := []
  patMap : List (List Byte) := []
  assay : Option Assay := none
  deriving DecidableEq, Repr

/-- What a bolt's metadata holds (R274, R296, R342): the written mark, its stored tally, its uncorrectable lines and its
poison mark. -/
structure BoltMeta where
  written : Bool := false
  tally : Word := 0
  bad : List Nat := []
  poison : Bool := false
  deriving DecidableEq, Repr

/-- A bolt write partly arrived at a stack interface (R284): its packets' lines and tags. -/
structure WrAsm where
  src : Nat
  part : Nat
  bolt : Nat
  aux : Nat
  key : Nat
  lines : List (Nat × List Byte)
  tags : List Nat
  deriving DecidableEq, Repr

/-- A merged-read window (R294): the request and the tiles that joined it. -/
structure MergeWin where
  part : Nat
  bolt : Nat
  addr : Nat
  tag : Nat
  dline : Nat
  key : Nat
  tiles : List Nat
  openCc : Nat
  deriving DecidableEq, Repr

/-- A request that comes over the spine (R27): a whole bolt, bytes of one from the host, or with `mill` the fetch of a bolt for
another stack's mill (R277). `seq` is the movement stamp of its arrival (R279). -/
structure Remote where
  part : Nat
  bolt : Nat
  key : Nat
  off : Nat := 0
  data : List Byte
  tally : Nat := 0
  host : Bool := false
  seq : Nat := 0
  mill : Option Nat := none
  deriving DecidableEq, Repr

/-- A mill descriptor queued or at work (R286, R288, R291): who posted it (a tile's endpoint, or 0xFFFF the Reeve), its
tag, its next group, the slot bolts that have arrived, and the groups of a reduction that are done. -/
structure MillEnt where
  desc : List Byte
  src : Nat
  tag : Nat := 0
  key : Nat := 0
  lot : Nat := 0
  group : Nat := 0
  arrived : List Nat := []
  doneG : List Nat := []
  deriving DecidableEq, Repr

/-- A bolt that a mill has from another stack (R277): its bytes, the tally and the uncorrectable lines as they were read there. Empty
bytes: it is on its way. -/
structure MillFetch where
  bytes : List Byte := []
  tally : Nat := 0
  bad : List Nat := []
  deriving DecidableEq, Repr

/-- A memory stack, its interface and its mill (R269 to R298, R364). `rowCorr` counts the corrected symbols of a row in
the running scrub pass; `rowFix` are rows to be repaired hard at the next start; `intv` and `dom` are the bytes of this
interval by group, and by group and partition since a group's run began. `slot` is the place in the rotation of R278, `turn`
the partition whose mill work is next (R288), `fetched` the bolts fetched from other stacks by their key (R277), `keyViol` the key violations (R23), `slotRef` the second
writes refused of a reduction's slots (R291). `ucieUp` is which of the stack's eight UCIe modules are in use (R270, R271); its domains
are D(60 + k) and D(68 + k) (Table 1.2). The first 64 entries of a queue are the partition's mill queue; the Reeve's posts
behind them wait at the interface (R286). -/
structure Stack where
  inq : List Packet := []
  out : List (Nat × Packet) := []
  remote : List Remote := []
  wr : List WrAsm := []
  svc : List (Nat × Nat × Nat) := []
  windows : List MergeWin := []
  split : Nat := 0x80000CA8
  merge : Nat := 0
  ucieUp : Nat := 0
  imbal : Nat := 0
  scrubH : Nat := 0x18
  eccUnc : Nat := 0
  eccCor : Nat := 0
  nonfin : Nat := 0
  idx : Nat := 0
  mxSpecial : Nat := 0
  mxUflow : Nat := 0
  mergeCnt : Nat := 0
  grp : Kv Nat := []
  tlyWrite : Nat := 0
  tlyRead : Nat := 0
  tlyScrub : Nat := 0
  resMism : Nat := 0
  queues : Kv (List MillEnt) := []
  running : Kv (Option MillEnt) := []
  slotQ : List (Nat × Nat) := []
  nan : Kv (List Byte) := []
  nanCount : Kv Nat := []
  intv : Kv Nat := []
  dom : Kv Nat := []
  imbalRun : Kv Nat := []
  scrubPos : Nat := 0
  rowCorr : Kv Nat := []
  rowFix : List Nat := []
  refresh : Nat := 0
  lost : Bool := false
  fenced : Bool := false
  slot : Nat := 0
  turn : Nat := 0
  fetched : Kv (Option MillFetch) := []
  keyViol : Nat := 0
  slotRef : Nat := 0
  deriving DecidableEq, Repr

/-- What a lot-abort notice names (R50): the source module, its lot and its key, and the interval stamp of the failure. -/
structure Abandon where
  src : Nat
  lot : Nat
  key : Nat
  stamp : Nat
  deriving DecidableEq, Repr

/-- Link management of the module (R303, R321 to R330, R334). `light` has bit j while laser input j has stood at +18 dBm
for 1 ms; `abandoned` are the lots whose items lot-abort notices named, `votes` the refusals heard: a target bell and the port (R79). -/
structure Link where
  modId : Nat := 0x1FFFF
  root : Bool := false
  voteW : Nat := 0x20
  hopLimit : Nat := 0x40
  clkSrc : Nat := 0
  locked : Bool := false
  holdover : Bool := false
  inDomain : Bool := false
  src : Nat := 0
  domain : Nat := 0
  laser : Kv Nat := []
  light : Nat := 0
  bank : Nat := 0
  routeA : Kv Nat := []
  routeB : Kv Nat := []
  mcast : Kv (List Byte) := []
  abandoned : List Abandon := []
  votes : List (Nat × Nat) := []
  deriving DecidableEq, Repr

/-- A lane of a port (Table 11.15), with what it has counted toward R307. -/
structure Lane where
  cbits : Nat := 0
  uncorr : Nat := 0
  qpass : Bool := false
  seconds : Nat := 0
  modIn : Nat := 0x8000
  rx : Nat := 0x8000
  deriving DecidableEq, Repr

/-- A message wholly received at a link port: its class, 4 more where it holds no receive buffer (R313), the route bank in force
when its header arrived (R323), and its bytes. -/
structure RxMsg where
  cls : Nat
  bank : Nat := 0
  bytes : List Byte
  deriving DecidableEq, Repr

/-- A link port (R299 to R334). Class c of a queue is at key c. `txQ` are whole messages not yet begun, `txCur` the rest of
the one being sent, `rxCur` a message partly received and `rxCurBank` the route bank in force when its header arrived, `rxQ`
the messages wholly received and not yet looked up, `here` those the spine delivers here, `park` the early ones. `ord` gives the classes of the waiting LC0 and LC1 messages in the
order they became ready, `txHdr` the header of a message being sent, `lastLs` the link state last sent; `trained` marks a
port that has trained in this start; `quarter` is the number of the next stream quarter and `lastLanes` the lanes of the
last flit's quarters (R301); `present` are the lanes that have signal, `signal` those that take part in the training, `laneMap`
each lane's peer lane and polarity (R300), `probeDue` an own probe to be sent (R306). A class of `here` or `park` is 4 more where the message holds no receive buffer (R313).
`followOn` is bell following as it is in force since the last bell (R334), `unacked` the wholly sent LC0 to LC2 messages of which
the peer has not acknowledged the last flit: its sequence and the message's header (R332). -/
structure Port where
  meshIn : List Packet := []
  meshOut : List (Nat × Packet) := []
  en : Bool := true
  follow : Bool := true
  followOn : Bool := true
  st : Nat := 0
  lanes : Nat := 0
  signal : Nat := 0
  present : Nat := 0
  laneMap : List (Nat × Bool) := []
  probeDue : Bool := false
  peerPwr : Nat := 0
  peerCmp : Nat := 0
  bellActive : Bool := false
  exit : Nat := 0
  peerValid : Bool := false
  peerPort : Nat := 0
  peerMod : Nat := 0
  expCheck : Bool := false
  expPort : Nat := 0
  expMod : Nat := 0
  lat : Nat := 0
  tx : Nat := 0
  rx : Nat := 0
  crc : Nat := 0
  seqBad : Nat := 0
  retryReq : Nat := 0
  replays : Nat := 0
  late : Nat := 0
  parkedCnt : Nat := 0
  dropKey : Nat := 0
  dropHops : Nat := 0
  dropRoute : Nat := 0
  dropDown : Nat := 0
  undel : Nat := 0
  bellLost : Nat := 0
  conflict : Nat := 0
  tlyTransit : Nat := 0
  tlyLocal : Nat := 0
  lane : Kv Lane := []
  txSeq : Nat := 0
  replay : List (Nat × List Byte) := []
  unacked : List (Nat × List Byte) := []
  resend : Option Nat := none
  txQ : Kv (List (List Byte)) := []
  txCur : Kv (List Byte) := []
  credits : Kv Nat := []
  crSeen : Kv Nat := []
  crRet : Kv Nat := []
  crFree : Kv Nat := []
  crNext : Nat := 0
  mgmtGap : Nat := 0
  rxSeq : Nat := 0
  rxAck : Option Nat := none
  discarding : Bool := false
  reqDue : Bool := false
  reqTries : Nat := 0
  rxCur : Kv (List Byte) := []
  rxCurBank : Kv Nat := []
  rxQ : List RxMsg := []
  here : List (Nat × List Byte) := []
  park : List (Nat × List Byte) := []
  bellDue : Bool := false
  lsCount : Nat := 0
  lastLs : List Byte := []
  ord : List Nat := []
  txHdr : Kv (List Byte) := []
  trained : Bool := false
  firstBell : Bool := false
  quarter : Nat := 0
  lastLanes : List Nat := []
  peerBell : Nat := 0
  peerDomain : Nat := 0
  peerIn : Bool := false
  peerFollow : Bool := false
  peerVoteT : Nat := 0
  peerVote : Bool := false
  fenced : Bool := false
  resetBells : List Nat := []
  lastTx : List Byte := []
  deriving DecidableEq, Repr

/-- The states of a power domain (R465). -/
inductive DomSt where
  | off | on | retention | fault
  deriving DecidableEq, Repr

/-- The 1 ms sample of a domain (Table 17.4): sense mV, mean and peak mA. -/
structure DomSample where
  mv : Nat := 0
  mean : Nat := 0
  peak : Nat := 0
  excess : Nat := 0
  crack : Bool := false
  r0 : Nat := 0
  deriving DecidableEq, Repr

/-- Power and its telemetry (R465 to R477): `hist` holds the samples of the last 100 ms that the sensors of Table 19.6
average. -/
structure Power where
  domains : Kv DomSt := []
  sample : Kv DomSample := []
  inputMv : Nat := 0
  inputMw : Nat := 0
  inputMa : Nat := 0
  hist : List (List Int) := []
  dieMw : Nat := 0
  tj : Nat := 0
  dram : Nat := 0
  optic : Nat := 0
  sampleBell : Nat := 0
  limitMw : Nat := 1850000
  partLimit : Kv Nat := []
  keepAlive : Bool := false
  deriving DecidableEq, Repr

/-- The life-cycle states (Table 13.4). -/
inductive LifeSt where
  | raw | provisioned | deployed | service | scrapped
  deriving DecidableEq, Repr

/-- A firmware slot (R414, R415): whether its image is valid, its version, its security version. -/
structure FwSlot where
  valid : Bool := false
  version : Nat := 0
  sec : Nat := 0
  deriving DecidableEq, Repr

/-- The start sequence, the flash and the fuses (R383, R414, R415, R441 to R460). `ms` counts from input good to the last
phase end; `flash` holds the persisted settings by
a key of the model: 0 module ID, 1 LK_MOD_CTL, 2 LK_CLKSRC, 3 QUICK, 64 + p LK_CTL and 128 + p LK_PEER_EXP of a port. -/
structure Start where
  phase : Nat := 0
  linkDone : Bool := false
  blocking : Nat := 0
  ready : Bool := false
  report : List Byte := []
  elapsedS : Nat := 0
  ms : Nat := 0
  quick : Bool := false
  lastType : Nat := 0
  hours : Nat := 0
  number : Nat := 0
  readyMs : Nat := 0
  memMs : Nat := 0
  added : Nat := 0
  firstAdded : Nat := 0xFFFFFFFF
  stkTested : Nat := 0
  failedNow : Nat := 0
  fellBack : Bool := false
  ledgerBad : Bool := false
  fuseFull : Bool := false
  ignored : Bool := false
  rows : List Nat := []
  lifeCycle : LifeSt := .deployed
  returns : Nat := 0
  flash : Kv (Option Nat) := []
  ledger : List (List Byte) := []
  fuses : List Nat := []
  secCounter : Nat := 0
  slotA : FwSlot := { valid := true, version := 0x01000000, sec := 0 }
  slotB : FwSlot := {}
  runSlot : Nat := 0
  patSetOk : Bool := true
  memEntry : Bool := false
  firstEver : Bool := false
  lifeChanged : Bool := false
  cutShort : Bool := false
  deriving DecidableEq, Repr

/-- A mailbox page (Table 15.1). `held` are responses that wait behind a cancel; the cancel's own place holds the lot it
waits for and the response entry as it stands. -/
structure Page where
  doorbell : Nat := 0
  cmdCi : Nat := 0
  rspPi : Nat := 0
  rspCi : Nat := 0
  evPi : Nat := 0
  evCi : Nat := 0
  evLost : Nat := 0
  evGap : Nat := 0
  irqCtl : Nat := 0
  cqPi : Nat := 0
  cqCi : Nat := 0
  bad : Bool := false
  resets : Nat := 0
  cmd : Mem := []
  rsp : Kv (List Byte) := []
  ev : Kv (List Byte) := []
  evSeq : Nat := 0
  held : List (Option (Nat × Nat) × List Byte) := []
  deriving DecidableEq, Repr

/-- A staged change (R76 to R81, R435): its kind of R435, its partitions as a mask (0xFFFF the module), its target bell
and value, whether it has been evaluated, its outcome (0 pending, 1 applied, 2 abandoned, 3 cancelled) and refusers. -/
structure Change where
  id : Nat
  kind : Nat
  parts : Nat
  target : Nat
  value : List Byte := []
  evaluated : Bool := false
  outcome : Nat := 0
  refusers : List (Nat × Nat) := []
  page : Nat := 0
  deriving DecidableEq, Repr

/-- A long operation (Table 15.9): its page, its request, and its progress; `state` is Table 15.9's code, `begun` tells
whether it has ever run. -/
structure Op where
  handle : Nat
  page : Nat
  args : List Byte := []
  mask : Nat := 0
  state : Nat := 0
  reason : Nat := 0
  result : Nat := 0
  done : Nat := 0
  total : Nat := 0
  resume : Nat := 0
  detail : Nat := 0
  started : Nat := 0
  begun : Bool := false
  deriving DecidableEq, Repr

/-- The Reeve (R399, R409, R413 to R440). `sweep` is the last telemetry sweep, `cycleReq` a loss of the module whose record
awaits the next start, `sram` the 8 MiB of Table 20.9 as plain memory. `hangs` are the hangs confirmed so far and `repro` the records that are
marked reproducible (R406). `lastPage` is the page that a command was taken from last (R419). `resets` are the resets of the last 1,024
bells: level, unit and bell (R397). `gone` says that both lockstep pairs are lost (R412). -/
structure Reeve where
  gone : Bool := false
  inbox : List Event := []
  pages : Kv Page := []
  takeSeq : Nat := 0
  lastPage : Nat := 15
  pair : Nat := 0
  standby : Bool := true
  handovers : Nat := 0
  clock : Option (List Byte) := none
  recs : List (Nat × List Byte) := []
  fatal : List (Nat × List Byte) := []
  recSeq : Nat := 0
  changes : List Change := []
  nextChange : Nat := 1
  nextSerial : Nat := 1
  ops : List Op := []
  sweep : List Byte := []
  computeReset : Bool := false
  cycleReq : Bool := false
  sram : Mem := []
  hangs : List Hang := []
  repro : List Nat := []
  imbal : List (Nat × Nat × Nat) := []
  resets : List (Nat × Nat × Nat) := []
  deriving DecidableEq, Repr

/-- A bolt assembler (R523). -/
structure Asm where
  part : Nat
  bolt : Nat
  data : List Byte
  deriving DecidableEq, Repr

/-- An MSI-X vector's table entry. -/
structure Msix where
  addr : Nat := 0
  data : Nat := 0
  masked : Bool := true
  deriving DecidableEq, Repr

/-- The host port (R420, R422, R514 to R525). `due` and `pba` are bits by vector: a message due, and its PBA bit.
`sris` is the clock choice of R502. -/
structure Hst where
  scratch : Word := 0
  pasidEn : Bool := false
  ringReset : Nat := 0
  hwEn : Bool := true
  dwell : Nat := 0xFA
  pause : Nat := 0
  winOpen : Nat := 0
  errClosed : Nat := 0
  errLost : Nat := 0
  errUnmapped : Nat := 0
  errMalformed : Nat := 0
  asm : List Asm := []
  pcieUp : Bool := false
  d3hot : Bool := false
  memEn : Bool := false
  busMaster : Bool := false
  msixEn : Bool := false
  msixMask : Bool := false
  bar0 : Nat := 0
  bar2 : Nat := 0
  sris : Bool := false
  msix : Kv Msix := []
  due : Nat := 0
  pba : Nat := 0
  deriving DecidableEq, Repr

/-- The sideband (R507 to R510). -/
structure Side where
  dynAddr : Option Nat := none
  eid : Nat := 0
  events : List (List Byte) := []
  dropped : Nat := 0
  deriving DecidableEq, Repr

/-- The JTAG port (R383, R480). `resp` is the response the next DBGCMD scan shifts out, `engine` the test engine held,
`boundary` the boundary
register as last shifted in, `drive` the cells EXTEST drives. -/
structure Jtag where
  ir : Nat := 2
  resp : List Byte := []
  buf : List Byte := []
  engine : Bool := false
  boundary : Nat := 0
  drive : Option Nat := none
  deriving DecidableEq, Repr

/-- Something the module has put out to the host, the tray or a scan: its kind (0 DMA write, 1 MSI-X message, 2 read
completion, 3 sideband response, 4 JTAG scan out, 5 configuration completion, 6 DMA read request with its length), an address or tag,
and its bytes. -/
structure Out where
  kind : Nat
  addr : Nat
  data : List Byte
  deriving DecidableEq, Repr

/-- The whole block. -/
structure State where
  pending : List Instr := []
  fresh : Nat := 0
  clk : Clk := {}
  pins : Pins := {}
  tiles : Kv Tile := []
  rows : Kv Row := []
  parts : Kv Part := []
  mems : Kv Stack := []
  ports : Kv Port := []
  dram : Mem := []
  bolts : Kv BoltMeta := []
  link : Link := {}
  power : Power := {}
  start : Start := {}
  reeve : Reeve := {}
  hst : Hst := {}
  side : Side := {}
  jtag : Jtag := {}
  out : List Out := []
  deriving DecidableEq, Repr

/-- The module right after reset: unpowered, with no input yet (R441, R456), every register at its reset value, no
command waiting. -/
def State.reset : State := {}

end Sys2Proof.Machine
end

