-- ==== Sys2Proof/Machine/Ops.lean ====
section
/-! DEFINITION. The named operations over the sparse maps, bytes and check values of the block. -/

namespace Sys2Proof.Machine

/-! ## Sparse maps -/

/-- The value at a key; an unlisted key holds `d`. -/
def kvGet {α : Type} (d : α) : Kv α → Nat → α
  | [], _ => d
  | (j, v) :: t, k => if k = j then v else kvGet d t k

/-- Insert an entry at its place in rising key order. -/
def kvIns {α : Type} : Kv α → Nat → α → Kv α
  | [], k, v => [(k, v)]
  | (j, u) :: t, k, v =>
    if k < j then (k, v) :: (j, u) :: t
    else if k = j then (k, v) :: t
    else (j, u) :: kvIns t k v

/-- Remove a key. -/
def kvDel {α : Type} : Kv α → Nat → Kv α
  | [], _ => []
  | (j, u) :: t, k => if k = j then kvDel t k else (j, u) :: kvDel t k

/-- Write a key, keeping the canonical form: writing the unlisted value removes the entry. -/
def kvSet {α : Type} [DecidableEq α] (d : α) (m : Kv α) (k : Nat) (v : α) : Kv α :=
  if v = d then kvDel m k else kvIns m k v

/-- Are the keys strictly rising from a bound, and is no value the unlisted one? -/
def kvWfFrom {α : Type} [DecidableEq α] (d : α) : Nat → Kv α → Bool
  | _, [] => true
  | b, (j, v) :: t => decide (b ≤ j) && decide (v ≠ d) && kvWfFrom d (j + 1) t

/-- The canonical form of a sparse map. -/
def kvWf {α : Type} [DecidableEq α] (d : α) (m : Kv α) : Bool := kvWfFrom d 0 m

/-- Apply a function to the value at a key. -/
def kvMod {α : Type} [DecidableEq α] (d : α) (m : Kv α) (k : Nat) (f : α → α) : Kv α :=
  kvSet d m k (f (kvGet d m k))

/-! ## Bytes and fields -/

/-- The byte of a byte memory. -/
def memByte (m : Mem) (a : Nat) : Byte := kvGet 0 m a

/-- n bytes from an address. -/
def memRead (m : Mem) (a : Nat) : Nat → List Byte
  | 0 => []
  | n + 1 => memByte m a :: memRead m (a + 1) n

/-- Write bytes from an address. -/
def memWrite (m : Mem) (a : Nat) : List Byte → Mem
  | [] => m
  | b :: t => memWrite (kvSet 0 m a b) (a + 1) t

/-- The canonical form of a byte memory: strictly rising addresses, no zero byte listed. -/
def memWf (m : Mem) : Bool := kvWf 0 m

/-- Little-endian bytes as a number (R9). -/
def leNat : List Byte → Nat
  | [] => 0
  | b :: t => b.toNat + 256 * leNat t

/-- n little-endian bytes of a number (R9). -/
def toLe : Nat → Nat → List Byte
  | 0, _ => []
  | n + 1, v => BitVec.ofNat 8 v :: toLe n (v / 256)

/-- n bytes of a list from an offset; bytes past its end read 0. -/
def slice (bs : List Byte) (off n : Nat) : List Byte :=
  let s := (bs.drop off).take n
  s ++ List.replicate (n - s.length) 0

/-- A little-endian field of a byte list. -/
def fld (bs : List Byte) (off n : Nat) : Nat := leNat (slice bs off n)

/-- Bits [hi:lo] of a number (R9). -/
def bits (n hi lo : Nat) : Nat := n / 2 ^ lo % 2 ^ (hi - lo + 1)

/-- Bit i of a number. -/
def bitAt (n i : Nat) : Bool := n / 2 ^ i % 2 == 1

/-- Set bit i. -/
def setBit (n i : Nat) : Nat := if bitAt n i then n else n + 2 ^ i

/-- Clear bit i. -/
def clrBit (n i : Nat) : Nat := if bitAt n i then n - 2 ^ i else n

/-- A Bool as a bit. -/
def b2n (b : Bool) : Nat := if b then 1 else 0

/-- Bitwise or, and, complement within w bits, as numbers. -/
def orN (a b : Nat) : Nat := Nat.lor a b

/-- Are all bytes zero? -/
def allZero (bs : List Byte) : Bool := bs.all (fun b => b == 0)

/-- n zero bytes. -/
def zeros (n : Nat) : List Byte := List.replicate n 0

/-- Replace bytes of a list from an offset. -/
def patch (bs : List Byte) (off : Nat) (v : List Byte) : List Byte :=
  bs.take off ++ v ++ bs.drop (off + v.length)

/-- The list of numbers a, a + 1, ..., a + n - 1. -/
def upto (a : Nat) : Nat → List Nat
  | 0 => []
  | n + 1 => a :: upto (a + 1) n

/-- Add with saturation at 2^w - 1 (the saturating counters of every register table). -/
def satAdd (w a b : Nat) : Nat := min (2 ^ w - 1) (a + b)

/-! ## Check values -/

/-- One bit of a reflected CRC with polynomial `poly`. -/
def crcBit (poly c : Nat) : Nat := if c % 2 == 1 then Nat.xor (c / 2) poly else c / 2

/-- Eight bits of a reflected CRC. -/
def crcByte (poly c : Nat) (b : Byte) : Nat :=
  let c := Nat.xor c b.toNat
  crcBit poly (crcBit poly (crcBit poly (crcBit poly (crcBit poly (crcBit poly (crcBit poly (crcBit poly c)))))))

/-- The running CRC over bytes. -/
def crcRun (poly : Nat) : Nat → List Byte → Nat
  | c, [] => c
  | c, b :: t => crcRun poly (crcByte poly c b) t

/-- The tally of R10: CRC-32C (polynomial 0x1EDC6F41, reflected 0x82F63B78), initial and final 0xFFFFFFFF. -/
def crc32c (bs : List Byte) : Nat := Nat.xor (crcRun 0x82F63B78 0xFFFFFFFF bs) 0xFFFFFFFF

/-- The flit check of R311: CRC-32 (polynomial 0x04C11DB7, reflected 0xEDB88320). -/
def crc32 (bs : List Byte) : Nat := Nat.xor (crcRun 0xEDB88320 0xFFFFFFFF bs) 0xFFFFFFFF

/-! ## Time -/

/-- One cycle of the core clock passes with no command waiting (DESIGN CHOICE, assumption 1): the cycle counter that mcycle
shows and the interval cycle of TL_INTV_CC go on; everything timed is a command of its own. A module without power has no
clock. -/
def clockTick (s : State) : State :=
  if s.start.phase == 0 then s else { s with clk := { s.clk with cycles := s.clk.cycles + 1, intvCc := s.clk.intvCc + 1 } }

/-! ## The tile's numbering (R11, R16) -/

/-- Row of a physical tile number 100 row + pcol. -/
def physRow (p : Nat) : Nat := p / 100
/-- Physical column. -/
def physCol (p : Nat) : Nat := p % 100
/-- The partition of a physical tile (Table 1.1). -/
def physPart (p : Nat) : Nat := 4 * (p / 100 / 16) + p % 100 / 25
/-- The partition-row number 4 row + partition column of a physical tile. -/
def physProw (p : Nat) : Nat := 4 * (p / 100) + p % 100 / 25
/-- The partition of a logical tile row * 96 + col (R11). -/
def logPart (l : Nat) : Nat := 4 * (l / 96 / 16) + l % 96 / 24
/-- The partition-row number of a logical tile. -/
def logProw (l : Nat) : Nat := 4 * (l / 96) + l % 96 / 24

/-- The unit ID of R81 for a tile, mill, port, partition fabric or peer module. -/
def unitId (kind idx : Nat) : Nat := kind * 2 ^ 28 + idx

end Sys2Proof.Machine
end

