-- ==== Sys2Proof/Machine/Func.lean ====
section
/-! DEFINITION. The function ops of the fuller (spec/06_fuller.md, R176 to R178): their correctly rounded results, computed in
fixed point with 512 fraction bits, and the free value inside the error bound of Table 6.7 (assumption 14). -/

namespace Sys2Proof.Machine

/-- 1.0 in fixed point. -/
def fxOne : Int := (2 ^ 512 : Nat)
/-- The natural logarithm of 2. -/
def fxLn2 : Int :=
  0xb17217f7d1cf79abc9e3b39803f2f6af40f343267298b62d8a0d175b8baafa2be7b876206debac98559552fb4afa1b10ed2eae35c138214427573b291169b825
/-- Half of pi. -/
def fxHalfPi : Int :=
  0x1921fb54442d18469898cc51701b839a252049c1114cf98e804177d4c76273644a29410f31c6809bbdf2a33679a748636605614dbe4be286e9fc26adadaa3848b
/-- 2 over the square root of pi. -/
def fxTwoOverSqrtPi : Int :=
  0x120dd750429b6d11ae3a914fed7fd8688281341d7587cea2e7342b06199cc416180eb39f0b24e1e2281806c12d98f35d77a3e9ddc91c394f0e9eedf0efffd84a2
/-- 1 over the square root of 2. -/
def fxSqrtHalf : Int :=
  0xb504f333f9de6484597d89b3754abe9f1d6f60ba893ba84ced17ac85833399154afc83043ab8a2c3a8b1fe6fdc83db390f74a85e439c7b4a780487363dfa2768

/-- A finite number in fixed point. -/
def fxOf : Fl → Int
  | .fin s m e => if s then -(shl m (e + 512) : Nat) else (shl m (e + 512) : Nat)
  | _ => 0

/-- A fixed-point number as the dyadic number it is. -/
def flOfFx (i : Int) : Fl := .fin (i < 0) i.natAbs (-512)

/-- Product in fixed point. -/
def fxMul (a b : Int) : Int := a * b / fxOne

/-- The terms of the exponential series from the k-th on. -/
def fxExpTerms : Nat → Int → Int → Int → Int → Int
  | 0, _, _, _, sum => sum
  | n + 1, k, r, t, sum => let u := fxMul t r / k; fxExpTerms n (k + 1) r u (sum + u)

/-- e to the power of a fixed-point number: 2^k times e^r with r within half of ln 2; numbers far outside the FP32 range
give a power of two as far outside it. -/
def fxExp (i : Int) : Fl :=
  if 300 * fxOne < i then .fin false 1 400
  else if i < -300 * fxOne then .fin false 1 (-400)
  else
    let k := (2 * i + fxLn2) / (2 * fxLn2)
    .fin false (fxExpTerms 110 1 (i - k * fxLn2) fxOne fxOne).natAbs (k - 512)

/-- The terms of the inverse hyperbolic tangent's series: `p` is the odd power of z, `k` its exponent. -/
def fxAtanhTerms : Nat → Int → Int → Int → Int → Int
  | 0, _, _, _, sum => sum
  | n + 1, k, z2, p, sum => let q := fxMul p z2; fxAtanhTerms n (k + 2) z2 q (sum + q / (k + 2))

/-- The natural logarithm of a positive number. -/
def flLog : Fl → Fl
  | .fin _ m e =>
    let y := (shl m (512 - (m.log2 : Int)) : Int)
    let big := 3 * fxOne < 2 * y
    let y := if big then y / 2 else y
    let x := (m.log2 : Int) + e + (if big then 1 else 0)
    let z := (y - fxOne) * fxOne / (y + fxOne)
    flOfFx (2 * fxAtanhTerms 120 1 (fxMul z z) z z + x * fxLn2)
  | x => x

/-- The terms of the series of erf(y) / y without its leading factor: `t` is (-z)^n / n!. -/
def fxErfTerms : Nat → Int → Int → Int → Int → Int
  | 0, _, _, _, sum => sum
  | n + 1, k, z, t, sum => let u := -(fxMul t z) / k; fxErfTerms n (k + 1) z u (sum + u / (2 * k + 1))

/-- erf(y) / y for a fixed-point y of magnitude below 11. -/
def fxErfOver (y : Int) : Int := fxMul fxTwoOverSqrtPi (fxErfTerms 640 1 (fxMul y y) fxOne fxOne)

/-- The terms of the sine's or the cosine's series. -/
def fxTrigTerms : Nat → Int → Int → Int → Int → Int
  | 0, _, _, _, sum => sum
  | n + 1, k, z, t, sum => let u := -(fxMul t z) / (k * (k + 1)); fxTrigTerms n (k + 2) z u (sum + u)

/-- The sine of x plus q quarter turns, by exact argument reduction. -/
def flSin (q : Int) (x : Fl) : Fl :=
  let i := fxOf x
  let k := (2 * i + fxHalfPi) / (2 * fxHalfPi)
  let r := i - k * fxHalfPi
  let z := fxMul r r
  match (k + q) % 4 with
  | 0 => flOfFx (fxTrigTerms 80 2 z r r)
  | 1 => flOfFx (fxTrigTerms 80 1 z fxOne fxOne)
  | 2 => flOfFx (-(fxTrigTerms 80 2 z r r))
  | _ => flOfFx (-(fxTrigTerms 80 1 z fxOne fxOne))

/-- The hyperbolic tangent: by its series below 2^-10, else from e^2x. -/
def flTanh (x : Fl) : Fl :=
  let i := fxOf x
  if i.natAbs < 2 ^ 502 then
    let z := fxMul i i
    flMul x (flOfFx (fxOne - z / 3 + 2 * fxMul z z / 15 - 17 * fxMul z (fxMul z z) / 315))
  else
    let e := fxExp (2 * i)
    flDiv (flAdd e (.fin true 1 0)) (flAdd e (.fin false 1 0))

/-- 1 / (1 + e^-x). -/
def flSigmoid (x : Fl) : Fl := flDiv (.fin false 1 0) (flAdd (fxExp (-(fxOf x))) (.fin false 1 0))

/-- The error function: 1 to within less than half a unit from 4 on. -/
def flErf (x : Fl) : Fl :=
  match x with
  | .fin s m e => if magLt m e 4 0 then flMul x (flOfFx (fxErfOver (fxOf x))) else .fin s 1 0
  | y => y

/-- x (1 + erf(x / sqrt 2)) / 2; below -15 it is far below the smallest subnormal. -/
def flGelu (x : Fl) : Fl :=
  match x with
  | .fin s m e =>
    if !(magLt m e 15 0) then (if s then .fin true 0 0 else x)
    else
      let y := fxMul (fxOf x) fxSqrtHalf
      flMul (flMul x (.fin false 1 (-1))) (flOfFx (fxOne + fxMul y (fxErfOver y)))
  | y => y

/-- The exact result of a function op for finite operands where Table 6.7 gives no special one, to far more bits than FP32
holds. -/
def fnTrue (op : Nat) (x y : Fl) : Fl :=
  match op with
  | 0x10 => fxExp (fxOf x)
  | 0x11 => fxExp (fxMul (fxOf x) fxLn2)
  | 0x12 => flLog x
  | 0x13 => flDiv (flLog x) (flOfFx fxLn2)
  | 0x14 => flDiv (.fin false 1 0) x
  | 0x15 => flDiv x y
  | 0x16 => flSqrt x
  | 0x17 => flDiv (.fin false 1 0) (flSqrt x)
  | 0x18 => flTanh x
  | 0x19 => flSigmoid x
  | 0x1A => flErf x
  | 0x1B => flGelu x
  | 0x1C => flMul x (flSigmoid x)
  | 0x1D => flSin 0 x
  | _ => flSin 1 x

/-- The largest error of a function op under RNE, in ulp (Table 6.7). -/
def fnUlps (op : Nat) : Nat :=
  if op == 0x11 || op == 0x14 then 1
  else if op == 0x16 then 0
  else if op == 0x18 || op == 0x19 || op == 0x1A then 3
  else if op == 0x1B || op == 0x1C then 4 else 2

/-- The result of a function op inside its bound (R176, R177): the free value where it is a finite number of the right sign
within the bound of the correctly rounded result, one ulp more under RTZ; else that result itself. -/
def fnValue (op : Nat) (rtz : Bool) (a b : Word) : Word :=
  let base := toFp32 false (fnTrue op (ofFp32 a) (ofFp32 b))
  match ofFp32 base with
  | .fin s m e =>
    let cand := Config.fnOp op a b rtz
    (match ofFp32 cand with
    | .fin s' m' e' =>
      (match flAdd (.fin false m' e') (.fin true m e) with
      | .fin _ d g => if s' == s && !(magLt (fnUlps op + b2n rtz) e d g) then cand else base
      | _ => base)
    | _ => base)
  | .inf s => if rtz then (if s then 0xFF7FFFFF#32 else 0x7F7FFFFF#32) else base
  | .nan => base

end Sys2Proof.Machine
end

