-- ==== Sys2Proof/Machine/Tile.lean ====
section
/-! DEFINITION. The shared operations of a tile: its store's cells, reads, writes, ECC and tallies, and what a pass
reports (spec/07_tile_store.md, spec/12_integrity.md). -/

namespace Sys2Proof.Machine

/-- What a unit reports while it works: an event for the Reeve (R31, Table 12.9) with its record payload, a failure
code for every lot of the tile's context, or a stop of the tile (R65, R106, R237). `revise` is the event of a record that an
earlier finding of a later command has taken over. -/
inductive Sig where
  | event (code cc payKind : Nat) (pay : List Byte)
  | revise (code cc payKind : Nat) (pay : List Byte)
  | fail (code cc : Nat)
  | stop (cause : StopCause) (cc : Nat)
  deriving DecidableEq, Repr

/-- A tile at work: the tile, its reports, and what it knows of its surroundings. `abort` says that a stop ended the
running pass before its next access (R197). -/
structure Ctx where
  t : Tile
  p : Nat
  lt : Nat
  bell : Nat
  lot : Nat
  guardCc : Nat
  sigs : List Sig := []
  abort : Bool := false
  deriving DecidableEq, Repr

/-- Report something. -/
def ctxSig (c : Ctx) (g : Sig) : Ctx := { c with sigs := c.sigs ++ [g] }

/-- Change the tile. -/
def ctxTile (c : Ctx) (f : Tile → Tile) : Ctx := { c with t := f c.t }

/-- Stop the tile under R65 in cc `cc`: the event, and the failure of every lot of the context. -/
def ctxViolate (c : Ctx) (cc : Nat) : Ctx :=
  if c.abort then c
  else { c with abort := true, sigs := c.sigs ++ [.stop .schedule cc, .event 0x0153 cc 0 [], .fail 0x0021 cc] }

/-! ## Pattern sections -/

/-- Base address of a bank (R52). -/
def bankBase (k : Nat) : Nat := Config.bankBase + k * Config.bankBytes

/-- The offset of section e in a bank, from its header (Table 2.3, Table 2.4). -/
def secOff (m : Mem) (k e : Nat) : Nat := leNat (memRead m (bankBase k + 0x38 + 8 * e) 4)
/-- The length of section e. -/
def secLen (m : Mem) (k e : Nat) : Nat := leNat (memRead m (bankBase k + 0x3C + 8 * e) 4)
/-- n bytes of a section from an offset. -/
def secRead (m : Mem) (k e off n : Nat) : List Byte := memRead m (bankBase k + secOff m k e + off) n
/-- A field of a bank's header. -/
def hdrFld (m : Mem) (k off n : Nat) : Nat := leNat (memRead m (bankBase k + off) n)
/-- The whole of a section. -/
def secAll (m : Mem) (k e : Nat) : List Byte := secRead m k e 0 (secLen m k e)

/-! ## Cells of the slot wheel (R191, R194 to R196) -/

/-- The bank of a line (R191). -/
def lineBank (a : Nat) : Nat := 4 * (a / 2 ^ 17 % 4) + a / 64 % 4

/-- Is a port code timed (Table 7.3)? -/
def timedPort (p : Nat) : Bool := p == 1 || p == 2 || p == 3 || p == 4 || p == 5 || p == 8 || p == 10

/-- The idle map (R196). -/
def idleHolder (slot : Nat) : Nat :=
  if slot % 8 < 4 then 6 else if slot % 8 < 6 then 7 else if slot % 8 == 6 then 9 else 0

/-- The port the pattern's map gives a cell (Table 7.2). -/
def mapHolder (m : Mem) (bank b slot : Nat) : Nat :=
  let e := secRead m bank 0 (4 * b) 4
  if bitAt (fld e 2 2) slot then fld e 1 1 else fld e 0 1

/-- The port that holds a cell in an interval cc (R196); an open test window, up to the guard, gives every cell to the copier
(R381). -/
def cellHolder (c : Ctx) (b cc : Nat) : Nat :=
  if c.t.window && decide (cc < c.guardCc) then 0 else match c.t.st with
  | .active | .switching | .halted =>
    let h := mapHolder c.t.store.mem c.t.actBank b (cc % 16)
    if timedPort h && (c.guardCc ≤ cc || c.t.st == .switching || c.t.st == .halted) then 0 else h
  | _ => idleHolder (cc % 16)

/-- Does a queued port hold any cell of a bank (R198)? -/
def holdsBank (c : Ctx) (port b : Nat) : Bool :=
  (upto 0 16).any (fun s => match c.t.st with
    | .active | .switching | .halted => mapHolder c.t.store.mem c.t.actBank b s == port
    | _ => idleHolder s == port)

/-- The first cc at or after `cc` in which a port holds a cell of a bank, within one revolution (R198). -/
def nextCell (c : Ctx) (port b cc : Nat) : Nat :=
  ((upto cc 32).find? (fun k => cellHolder c b k == port)).getD cc

/-- Does a port find a cell of a bank within one revolution from `cc` (R196, R198)? -/
def portCell (c : Ctx) (port b cc : Nat) : Bool := (upto cc 16).any (fun k => cellHolder c b k == port)

/-- The first cc at or after `cc` in which the clerk's port is free of its own earlier accesses (R198). -/
def clerkFrom (c : Ctx) (cc : Nat) : Nat := max cc (kvGet 0 c.t.busy 30)

/-- The cc of the clerk's next access to a bank, ready at `cc`: in program order, in a cell it holds (R198). -/
def clerkCc (c : Ctx) (b cc : Nat) : Nat := nextCell c 9 b (clerkFrom c cc)

/-! ## Tally table (R336, R337) -/

/-- A tally entry. -/
def tallyEnt (t : Tile) (bolt : Nat) : TallyEnt := kvGet {} t.tally.ents bolt

/-- Write a tally entry. -/
def tallySet (t : Tile) (bolt : Nat) (e : TallyEnt) : Tile :=
  { t with tally := { t.tally with ents := kvSet {} t.tally.ents bolt e } }

/-- Free a bolt's tracker. -/
def trackerFree (t : Tile) (bolt : Nat) : Tile :=
  { t with tally := { t.tally with trackers := t.tally.trackers.filter (fun k => k.bolt != bolt) } }

/-- Make an entry Stale, freeing its tracker; a transition counts in TL_TLY_GEN.STALE (R337). -/
def tallyStale (t : Tile) (bolt : Nat) : Tile :=
  let t1 := trackerFree t bolt
  if (tallyEnt t bolt).st == .stale then t1
  else
    let t2 := tallySet t1 bolt {}
    { t2 with tally := { t2.tally with staleCnt := satAdd 16 t2.tally.staleCnt 1 } }

/-- Make every entry that a byte range overlaps Stale. -/
def tallyStaleRange (t : Tile) (a n : Nat) : Tile :=
  if n == 0 then t else (upto (a / 4096) ((a + n - 1) / 4096 - a / 4096 + 1)).foldl tallyStale t

/-- Take a tracker for a bolt, freeing the one taken earliest when all eight are in use (R337). -/
def trackerTake (t : Tile) (bolt half : Nat) : Tile :=
  let t1 := match t.tally.trackers with
    | k :: _ => if 8 ≤ t.tally.trackers.length then tallyStale t k.bolt else t
    | [] => t
  let t2 := tallySet t1 bolt { st := .filling }
  { t2 with tally := { t2.tally with trackers := t2.tally.trackers ++ [⟨bolt, [half]⟩] } }

/-- A bolt is Filling with the half lines that another tile's tracker has folded: it takes a tracker of its own (R337, R340). -/
def trackerCopy (t : Tile) (bolt : Nat) (halves : List Nat) : Tile :=
  let t1 := trackerTake (trackerFree t bolt) bolt 0
  { t1 with tally := { t1.tally with trackers := t1.tally.trackers.map (fun k => if k.bolt == bolt then ⟨bolt, halves⟩ else k) } }

/-- Fold one half line of a generating write into its bolt (R337). -/
def tallyFold (t : Tile) (a : Nat) : Tile :=
  let bolt := a / 4096
  let half := a % 4096 / 32
  match t.tally.trackers.find? (fun k => k.bolt == bolt) with
  | none => trackerTake t bolt half
  | some k =>
    if k.halves.contains half then
      let t1 := { t with tally := { t.tally with
        trackers := t.tally.trackers.map (fun j => if j.bolt == bolt then ⟨bolt, [half]⟩ else j)
        staleCnt := satAdd 16 t.tally.staleCnt 1 } }
      tallySet t1 bolt { st := .filling }
    else if k.halves.length == 127 then
      tallySet (trackerFree t bolt) bolt
        { st := .valid, tally := BitVec.ofNat 32 (crc32c (memRead t.store.mem (bolt * 4096) 4096)) }
    else { t with tally := { t.tally with
      trackers := t.tally.trackers.map (fun j => if j.bolt == bolt then ⟨bolt, half :: j.halves⟩ else j) } }

/-! ## Reads and writes of the store -/

/-- Change the store. -/
def storeMod (t : Tile) (f : Store → Store) : Tile := { t with store := f t.store }

/-- A write into a bank's region: a Ready bank turns back to Staged, an Empty one becomes Staged (R56, R60). -/
def bankTouch (t : Tile) (a n : Nat) : Tile :=
  if a + n ≤ Config.bankBase then t
  else (upto 0 4).foldl (fun t k =>
    if bankBase k < a + n && a < bankBase (k + 1) then
      { t with banks := match kvGet .empty t.banks k with
        | .active => t.banks
        | _ => kvSet .empty t.banks k .staged }
    else t) t

/-- Is an address range in the active bank of a tile that has one installed (R60)? -/
def inActiveBank (t : Tile) (a n : Nat) : Bool :=
  t.installed && bankBase t.actBank < a + n && a < bankBase (t.actBank + 1)

/-- Words of 8 B whose every byte a write replaces become good (R208). -/
def eccWrite (bad : Kv Nat) (a n : Nat) : Kv Nat :=
  bad.filter (fun w => !(a ≤ 8 * w.1 && 8 * w.1 + 8 ≤ a + n) &&
    !(w.2 == 1 && a < 8 * w.1 + 8 && 8 * w.1 < a + n))

/-- Mark a tracked line as written since the last guard (R369). -/
def touchLine (q : Store) (i : Nat) : Store := if q.touched.contains i then q else { q with touched := i :: q.touched }

/-- Mark tracked lines of a tile as written. -/
def touchTile (ls : List Nat) (t : Tile) : Tile := storeMod t (fun q => ls.foldl touchLine q)

/-- The tracked lines of n store bytes from address a. -/
def storeLines (a n : Nat) : List Nat := if n == 0 then [] else upto (a / 64) ((a + n - 1) / 64 + 1 - a / 64)

/-- The tracked lines of n bytes of instruction memory from address a. -/
def imLines (a n : Nat) : List Nat := (storeLines a n).map (fun i => 8192 + i)

/-- A write of bytes by any port but the copier's write-backs: the data, its ECC, the write-back queue (R207), and the
clerk's reservation when the writer is not the clerk (R239). -/
def rawWrite (t : Tile) (port a : Nat) (bs : List Byte) : Tile :=
  let n := bs.length
  let t1 := storeMod (touchTile (storeLines a n) t) (fun s => { s with
    mem := memWrite s.mem a bs
    bad := eccWrite s.bad a n
    wbq := s.wbq.filter (fun l => !(a < l + 64 && l < a + n)) })
  match t1.clerk.resv with
  | some l => if port != 9 && a < l + 64 && l < a + n then { t1 with clerk := { t1.clerk with resv := none } } else t1
  | none => t1

/-- Does a tile hold a role's running state: Active, Switching or Halted (Table 2.6)? -/
def tileRuns (t : Tile) : Bool := t.st == .active || t.st == .switching || t.st == .halted

/-- A write in an interval cc: what it replaces stays readable to the tile's passes at the cc up to its own (R199). -/
def rawWriteAt (t : Tile) (port cc a : Nat) (bs : List Byte) : Tile :=
  rawWrite (if tileRuns t then storeMod t (fun s => { s with wlog := (cc, a, memRead s.mem a bs.length) :: s.wlog }) else t) port a bs

/-- Put the bytes that a write replaced back into a line. -/
def lineBack (line a : Nat) (old bs : List Byte) : List Byte :=
  if a < line + 64 && line < a + old.length then
    bs.zipIdx.map (fun q => if a ≤ line + q.2 && line + q.2 < a + old.length then (old.drop (line + q.2 - a)).headD 0 else q.1)
  else bs

/-- A line as it stands at the start of an interval cc (R199): the writes of that cc and later ones are taken back. -/
def lineAt (s : Store) (cc line : Nat) : List Byte :=
  s.wlog.foldl (fun bs w => if cc ≤ w.1 then lineBack line w.2.1 w.2.2 bs else bs) (memRead s.mem line 64)

/-- What a port reads of a line: a timed access as of its own cc, a queued one as the line stands. -/
def portLine (s : Store) (port cc line : Nat) : List Byte :=
  if timedPort port then lineAt s cc line else memRead s.mem line 64

/-- The failing bits in the words of a line: the largest count. -/
def lineBad (s : Store) (line : Nat) : Nat :=
  (upto 0 8).foldl (fun m k => max m (kvGet 0 s.bad (line / 8 + k))) 0

/-- Read one line through a port (R207, R208): a single-bit error is corrected, counted and queued for write-back; an
uncorrectable word returns 0xFF in every byte, latches the lot's first record, and fails the context's lots. -/
def lineRead (c : Ctx) (port cc line : Nat) : List Byte × Ctx :=
  let s := c.t.store
  let b := lineBad s line
  if b == 0 then (portLine s port cc line, c)
  else if b == 1 then
    (portLine s port cc line, ctxTile c (fun t => storeMod t (fun s => { s with
      eccCor := satAdd 16 s.eccCor 1
      wbq := if s.wbq.contains line || 4 ≤ s.wbq.length then s.wbq else s.wbq ++ [line] })))
  else
    let first := !s.ueValid
    let c1 := ctxTile c (fun t => storeMod t (fun s => { s with
      eccUnc := satAdd 16 s.eccUnc 1
      ueValid := true
      uePort := if first then port else s.uePort
      ueLine := if first then line / 64 else s.ueLine
      ueBell := if first then c.bell % 2 ^ 32 else s.ueBell }))
    let s1 := c1.t.store
    let pay := toLe 4 (s1.uePort * 2 ^ 28 + s1.ueLine * 64) ++ toLe 4 s1.ueBell
    (List.replicate 64 0xFF, ctxSig (ctxSig c1 (.event 0x0121 cc 6 pay)) (.fail 0x0013 cc))

/-- Read n bytes that lie in one line. -/
def inLineRead (c : Ctx) (port cc a n : Nat) : List Byte × Ctx :=
  let r := lineRead c port cc (a / 64 * 64)
  ((r.1.drop (a % 64)).take n, r.2)

/-- A timed read of n bytes within one line in a cc (R197): the port must hold the cell, or the tile stops before the
access. -/
def timedRead (c : Ctx) (port cc a n : Nat) : List Byte × Ctx :=
  if c.abort then (zeros n, c)
  else if cellHolder c (lineBank a) cc != port || Config.storeBytes < a + n then (zeros n, ctxViolate c cc)
  else inLineRead c port cc a n

/-- Fold or drop the tally of a write (R337): loom-out and fuller-out fold whole half lines. -/
def tallyWrite (t : Tile) (port a n : Nat) : Tile :=
  if (port == 2 || port == 5) && a % 32 == 0 && n % 32 == 0 then
    (upto 0 (n / 32)).foldl (fun t i => tallyFold t (a + 32 * i)) t
  else tallyStaleRange t a n

/-- A timed write of bytes within one line in a cc (R192, R197). -/
def timedWrite (c : Ctx) (port cc a : Nat) (bs : List Byte) : Ctx :=
  if c.abort || bs.isEmpty then c
  else if cellHolder c (lineBank a) cc != port || Config.clerkBase < a + bs.length then ctxViolate c cc
  else ctxTile c (fun t => tallyWrite (rawWriteAt t port cc a bs) port a bs.length)

/-- The parts of a byte range that lie in one line each: address and length (R203). -/
def lineParts (a n : Nat) : List (Nat × Nat) :=
  if n == 0 then []
  else
    let first := min n (64 - a % 64)
    let rest := n - first
    (a, first) :: (upto 0 ((rest + 63) / 64)).map (fun i => (a + first + 64 * i, min 64 (rest - 64 * i)))

/-- How many lines a byte range touches (R203). -/
def lineCount (a n : Nat) : Nat := (lineParts a n).length

/-- Read a range line by line, the i-th access in cc + i. -/
def streamRead (c : Ctx) (port cc a n : Nat) : List Byte × Ctx :=
  (lineParts a n).zipIdx.foldl (fun r q =>
    let x := timedRead r.2 port (cc + q.2) q.1.1 q.1.2
    (r.1 ++ x.1, x.2)) ([], c)

/-- Write a range line by line, the i-th access in cc + i. -/
def streamWrite (c : Ctx) (port cc a : Nat) (bs : List Byte) : Ctx :=
  (lineParts a bs.length).zipIdx.foldl (fun c q =>
    timedWrite c port (cc + q.2) q.1.1 (slice bs (q.1.1 - a) q.1.2)) c

/-- A write by the debugger or the management space (R60, R482, R527): the lines that lie in the active bank's region are
dropped and counted in TL_ST_VIOL; the bolts that the others touch have Stale tallies. -/
def debugStorePut (t : Tile) (a : Nat) (bs : List Byte) : Tile :=
  if inActiveBank t a bs.length then
    (lineParts a bs.length).foldl (fun t q =>
      if inActiveBank t q.1 q.2 then storeMod t (fun s => { s with wrRef := satAdd 16 s.wrRef 1 })
      else tallyStaleRange (bankTouch (rawWrite t 0 q.1 (slice bs (q.1 - a) q.2)) q.1 q.2) q.1 q.2) t
  else tallyStaleRange (bankTouch (rawWrite t 0 a bs) a bs.length) a bs.length

/-! ## Records of a tile -/

/-- The effective numeric modes (R102): TL_NUM_OVR fields where their enables are 1. -/
def effModes (n : NumSt) : Word :=
  let m := n.mode.toNat
  let o := n.ovr.toNat
  let conv := if bitAt o 12 then bits o 1 0 else bits m 1 0
  let ar := if bitAt o 13 then bits o 2 2 else bits m 2 2
  let sat := if bitAt o 14 then bits o 5 4 else bits m 5 4
  let trap := if bitAt o 15 then bits o 9 8 else bits m 9 8
  BitVec.ofNat 32 (conv + 4 * ar + 16 * sat + 256 * trap)

/-- The conversion rounding of a mode word. -/
def convRnd (m : Word) : Rnd := match bits m.toNat 1 0 with
  | 1 => .rtz | 2 => .sr | _ => .rne
/-- A descriptor's rounding field (R90): 0 names the context mode. -/
def descRnd (m : Word) (f : Nat) : Rnd := match f with
  | 1 => .rne | 2 => .rtz | 3 => .sr | _ => convRnd m
/-- Arithmetic rounding toward zero? -/
def arithRtz (m : Word) : Bool := bitAt m.toNat 2
/-- FP8_SAT. -/
def fp8Sat (m : Word) : Bool := bitAt m.toNat 4
/-- INT_SAT. -/
def intSat (m : Word) : Bool := bitAt m.toNat 5
/-- NAN_TRAP. -/
def nanTrap (m : Word) : Nat := bits m.toNat 9 8

/-- The unit ID of the tile's logical place (R81). -/
def ctxUnit (c : Ctx) : Nat := unitId 1 c.lt

/-- Does a NaN of bell `b`, cycle `cc`, unit `u` and lane `l` come before the one that a record names (R104, R105)? -/
def nanBefore (b cc u l : Nat) (r : List Byte) : Bool :=
  if fld r 8 8 != b then b < fld r 8 8
  else if fld r 0x10 4 != cc then cc < fld r 0x10 4
  else if fld r 0 1 != u then u < fld r 0 1
  else l < fld r 1 1

/-- The code that a NaN-trap event bears in the Reeve's inbox. The spec gives it none, and it emits no record: DESIGN CHOICE,
assumption 57. -/
def evNanTrap : Nat := 0xF001

/-- A produced NaN (R104 to R106): the first of the lot latches the record and is reported, the others count; under NAN_TRAP
2 the tile stops at the end of the running step, its running passes ending as they would. Passes run one after the other
here, so a NaN that was formed before the latched one takes its place. -/
def nanProduced (c : Ctx) (modes : Word) (unit lane cause step desc cc : Nat) : Ctx :=
  if nanTrap modes != 1 && nanTrap modes != 2 then c
  else if c.t.num.nanValid && !(nanBefore (c.bell % 2 ^ 48) cc unit lane c.t.num.nanRec) then
    ctxTile c (fun t => { t with num := { t.num with nanCount := satAdd 16 t.num.nanCount 1 } })
  else
    let recd := toLe 1 unit ++ toLe 1 lane ++ toLe 1 cause ++ [0] ++ toLe 2 step ++ toLe 1 desc ++ [0]
      ++ toLe 8 (c.bell % 2 ^ 48) ++ toLe 4 cc ++ toLe 4 (ctxUnit c) ++ toLe 8 c.lot
    let c1 := ctxTile c (fun t => { t with num := { t.num with
      nanCount := if t.num.nanValid then satAdd 16 t.num.nanCount 1 else t.num.nanCount
      nanValid := true, nanRec := recd, nanStopped := t.num.nanStopped || nanTrap modes == 2 } })
    let c2 := ctxSig c1 (if c.t.num.nanValid then .revise evNanTrap cc 1 recd else .event evNanTrap cc 1 recd)
    if nanTrap modes == 2 then ctxSig (ctxSig c2 (.fail 0x0015 cc)) (.stop .nanTrap cc) else c2

/-- Has a first-NaN stop been reported (R106)? -/
def nanStopped (c : Ctx) : Bool := c.sigs.any (fun g => match g with | .stop .nanTrap _ => true | _ => false)

/-- Update an amax slot (R108) with a source value; slot 0xFF names none. -/
def amaxUpdate (n : NumSt) (slot : Nat) (x : Fl) : NumSt :=
  if slot == 0xFF then n
  else match amaxWord x with
    | none => n
    | some w => if (kvGet 0 n.amax slot).toNat < w.toNat then { n with amax := kvSet 0 n.amax slot w } else n

/-- The state of a stochastic-rounding lane (R94: an unlisted lane holds the seed of lot seed 0). -/
def srLane (n : NumSt) (lt lane : Nat) : Word :=
  let v := kvGet 0 n.sr lane
  if v = 0 then srSeed 0 lt lane else v

/-- Convert one element at an output converter: amax from the unscaled value, one rounding of x * s under the lane's draw
`r`, and the produced NaN of R96 (R107, R108). -/
def convElem (c : Ctx) (modes : Word) (rnd : Rnd) (fmt : Fmt) (scale : Word) (slot lane : Nat)
    (unit step desc cc r : Nat) (x : Fl) : Nat × Ctx :=
  let c1 := ctxTile c (fun t => { t with num := amaxUpdate t.num slot x })
  let y := match x with
    | .fin s m _ => if m == 0 then .fin s 0 0 else flMul x (ofFp32 scale)
    | _ => x
  let r := convert fmt rnd (fp8Sat modes) r y
  (r.bits, if r.produced then nanProduced c1 modes unit lane 2 step desc cc else c1)

end Sys2Proof.Machine
end

