-- ==== Sys2Proof/Machine/Operands.lean ====
section
/-! DEFINITION. The operand forms of the block: the unit descriptors of the pattern (Tables 4.2, 4.3, 5.3, 5.4, 5.7,
6.2 to 6.4, 6.9, 7.5, 9.6 and 10.1) and the rules that a field must meet in the fire cc (R65, R87). -/

namespace Sys2Proof.Machine

/-- The element format of a format code (wfmt, ofmt, Table 6.1 codes 0x1 to 0x7). -/
def fmtOfCode : Nat → Option Fmt
  | 1 => some .e4m3 | 2 => some .e5m2 | 3 => some .bf16 | 4 => some .fp16 | 5 => some .int8 | 6 => some .fp32
  | 7 => some .int32 | _ => none

/-- The element format of a code, FP32 where the code names none. -/
def fmtD (c : Nat) : Fmt := (fmtOfCode c).getD .fp32

/-- Elements of a byte string in a format. -/
def elemsOf (f : Fmt) (bs : List Byte) (n : Nat) : List Nat :=
  (upto 0 n).map (fun i => fld bs (i * fmtBytes f) (fmtBytes f))

/-- A byte string of elements. -/
def bytesOf (f : Fmt) (es : List Nat) : List Byte := es.flatMap (fun e => toLe (fmtBytes f) e)

/-! ## Loom stream (Table 4.3) -/

/-- Cycles of one vector (Table 4.1). -/
def afmtCc (a : Nat) : Nat := if a == 3 || a == 4 then 2 else 1

/-- Bytes of one activation vector. -/
def vecBytes (a : Nat) : Nat := 32 * fmtBytes (fmtD a)

/-- Output entry size of a drain. -/
def entryBytes (o : Nat) : Nat := 32 * fmtBytes (fmtD o)

/-- Lines that the largest entry of a strided run touches, q of R128. -/
def strideLines (addr stride size count : Nat) : Nat :=
  (upto 0 count).foldl (fun m j => max m (lineCount (addr + j * stride) size)) 1

/-- The loom stream descriptor's rules (R87, R107, R125, R128, Table 4.3). DESIGN CHOICE, assumption 56: a drain-only
descriptor's flag [1] is ignored, the scale of a descriptor that drains nothing is not looked at, and a lo-piece flag on a stream
that is not BF16 is accepted. -/
def loomDescOk (d : List Byte) : Bool :=
  let a := fld d 1 1; let op := fld d 2 1; let fl := fld d 3 1
  let aAddr := fld d 4 4; let aStr := fld d 8 2; let v := fld d 0xA 2
  let base := fld d 0xC 1; let dBase := fld d 0xD 1; let dCnt := fld d 0xE 2
  let dAddr := fld d 0x10 4; let dStr := fld d 0x14 2; let o := fld d 0x16 1
  let rnd := fld d 0x17 1; let sc := BitVec.ofNat 32 (fld d 0x18 4); let slot := fld d 0x1C 1
  let stream := op == 0 || op == 1
  let drains := dCnt != 0
  fld d 0 1 == 0x10 && fl < 8 && 1 ≤ a && a ≤ 5 && op ≤ 2
  && (!stream || (aAddr % 32 == 0 && aStr % 32 == 0 && vecBytes a ≤ aStr && 1 ≤ v && v ≤ 256
        && base + v ≤ 256 && aAddr + (v - 1) * aStr + vecBytes a ≤ Config.storeBytes))
  && (!(stream && bitAt fl 1) || (dBase == base && dCnt == v))
  && (!drains || (dAddr % 32 == 0 && dStr % 32 == 0 && 1 ≤ o && o ≤ 7 && entryBytes o ≤ dStr
        && dCnt ≤ 256 && dBase + dCnt ≤ 256
        && dAddr + (dCnt - 1) * dStr + entryBytes o ≤ Config.clerkBase
        && rnd ≤ 3 && scaleOk sc && (slot < 8 || slot == 0xFF)))
  && (o != 7 || (a == 5 && sc == 0x3F800000#32 && slot == 0xFF))
  && allZero (slice d 0x1D 3)

/-- The cc in which vector i of a stream fired at s0 is read (R126): FP8 and INT8 vectors at stride 32 are read in pairs from
one access. -/
def loomReadCc (d : List Byte) (s0 i : Nat) : Nat :=
  if afmtCc (fld d 1 1) == 2 then s0 + 2 * i
  else if fld d 8 2 == 32 then
    (if fld d 4 4 % 64 == 0 then s0 + i / 2 * 2 else if i == 0 then s0 else s0 + (i - 1) / 2 * 2 + 1)
  else s0 + i

/-- The last activation read of a stream (R126): a BF16 or FP16 vector that crosses a line takes a second access. -/
def loomLastRead (d : List Byte) (s0 : Nat) : Nat :=
  let v := fld d 0xA 2
  loomReadCc d s0 (v - 1)
    + (if afmtCc (fld d 1 1) == 2 && (fld d 4 4 + (v - 1) * fld d 8 2) % 64 != 0 then 1 else 0)

/-- Does the drain of a descriptor follow its stream entry by entry (flag [1], R128)? -/
def drainFollows (d : List Byte) : Bool := fld d 2 1 != 2 && bitAt (fld d 3 1) 1

/-- The cc in which entry j of a drain is read (R128). -/
def drainReadCc (d : List Byte) (s0 j : Nat) : Nat :=
  let r := afmtCc (fld d 1 1)
  let q := strideLines (fld d 0x10 4) (fld d 0x14 2) (entryBytes (fld d 0x16 1)) (fld d 0xE 2)
  if drainFollows d then s0 + (if r == 2 then 5 else 4) + 1 + j * max q r else s0 + j * q

/-- The last activation read and last drain read of a stream or drain fired at s0 (R126 to R128): for R65 the unit is
busy until then. -/
def loomBusyEnd (d : List Byte) (s0 : Nat) : Nat :=
  max (if fld d 2 1 == 2 then s0 else loomLastRead d s0)
    (if fld d 0xE 2 == 0 then s0 else drainReadCc d s0 (fld d 0xE 2 - 1))

/-! ## Shuttle load (Table 4.2) and borrow copy (Table 7.5) -/

/-- Bytes of one weight block (Table 4.1). -/
def blockBytes (w : Nat) : Nat := if w == 3 || w == 4 then 2048 else 1024

/-- Beats of a shuttle load (R123). -/
def shuttleBeats (d : List Byte) : Nat :=
  if fld d 1 1 == 0 then blockBytes (fld d 2 1) / 64 else blockBytes (fld d 2 1) / 256

/-- The shuttle load descriptor's rules (R123, Table 4.2). A lo-piece flag on a block that is not BF16 is accepted (DESIGN CHOICE,
assumption 56). -/
def shuttleDescOk (d : List Byte) : Bool :=
  let src := fld d 1 1; let w := fld d 2 1; let fl := fld d 3 1; let addr := fld d 4 4
  fld d 0 1 == 0x11 && src ≤ 4 && 1 ≤ w && w ≤ 5 && fl < 4
  && addr % (if bitAt fl 0 then blockBytes w else 64) == 0
  && addr + blockBytes w ≤ Config.storeBytes
  && !(bitAt fl 0 && src != 0) && allZero (slice d 8 24)

/-- The borrow copy descriptor's rules (R192, R206, Table 7.5). -/
def borrowDescOk (d : List Byte) : Bool :=
  let src := fld d 1 1; let n := fld d 2 2; let s := fld d 4 4; let a := fld d 8 4
  fld d 0 1 == 0x40 && 1 ≤ src && src ≤ 4 && 1 ≤ n && n ≤ 2048 && s % 64 == 0 && a % 64 == 0
  && s + 256 * n ≤ Config.storeBytes && a + 256 * n ≤ Config.clerkBase && allZero (slice d 0xC 20)

/-! ## Sieve (Table 5.3), scatter (Table 5.4), accumulator drain (Table 5.7) -/

/-- Element bytes of a sieve source. -/
def sieveElem (f : Nat) : Nat := fmtBytes (fmtD f)

/-- The sieve descriptor's rules (R142, R145). -/
def sieveDescOk (d : List Byte) : Bool :=
  let f := fld d 1 1; let a := fld d 4 4; let st := fld d 8 2; let n := fld d 0xA 2; let s := fld d 0xC 4
  fld d 0 1 == 0x20 && (f == 1 || f == 2 || f == 3 || f == 4 || f == 6) && fld d 2 1 < 2 && fld d 3 1 == 0
  && a % 32 == 0 && st % 32 == 0 && 32 * sieveElem f ≤ st && 1 ≤ n && n ≤ 256 && s % 64 == 0
  && a + (32 * n - 1) * st + 32 * sieveElem f ≤ Config.storeBytes
  && (bitAt (fld d 2 1) 0 || s < Config.clerkBase) && allZero (slice d 0x10 16)

/-- The scatter descriptor's rules (R146, R192, Table 5.4). -/
def scatterDescOk (d : List Byte) : Bool :=
  let f := fld d 1 1; let fl := fld d 3 1; let kb := fld d 0xC 4
  let ov := fld d 0x10 4; let nb := fld d 0x14 1; let n := fld d 0xA 2
  fld d 0 1 == 0x10 && (f == 1 || f == 2 || f == 3 || f == 4 || f == 6) && fld d 2 1 == 3 && fl < 8
  && (f == 6 || !bitAt fl 2) && 1 ≤ n && n ≤ 256
  && (if bitAt fl 1 then kb < 512 else kb < 2 ^ 24)
  && ov % 4096 == 0 && 3 ≤ nb && nb ≤ 64 && ov + 4096 * nb ≤ Config.clerkBase
  && fld d 0x15 1 == 0 && fld d 0x1E 2 == 0 && fld d 4 4 % 64 == 0 && fld d 4 4 < Config.storeBytes

/-- The accumulator drain descriptor's rules (R107, R158). DESIGN CHOICE, assumption 56: a clear-only drain converts nothing, and
its output fields are not looked at. -/
def accDescOk (d : List Byte) : Bool :=
  let tg := fld d 1 1; let fl := fld d 2 1; let o := fld d 3 1; let a := fld d 4 4; let st := fld d 8 2
  let r0 := fld d 0xA 2; let n := fld d 0xC 2
  fld d 0 1 == 0x13 && tg ≤ 1 && fl < 4
  && (tg == 0 || bitAt fl 1 || (1 ≤ o && o ≤ 6 && a % 32 == 0 && st % 32 == 0 && entryBytes o ≤ st && r0 < 512
        && 1 ≤ n && r0 + n ≤ 512 && fld d 0xE 1 ≤ 3 && (fld d 0xF 1 < 8 || fld d 0xF 1 == 0xFF)
        && scaleOk (BitVec.ofNat 32 (fld d 0x10 4)) && a + (n - 1) * st + entryBytes o ≤ Config.clerkBase))
  && (tg == 1 || o == 0) && allZero (slice d 0x14 12)

/-! ## Fuller (Tables 6.1 to 6.4) and reduction (Table 6.9) -/

/-- Vector bytes of a fuller stream format, MX scale bytes apart (Table 6.1). -/
def fulVec (f : Nat) : Nat := match f with
  | 1 => 32 | 2 => 32 | 3 => 64 | 4 => 64 | 5 => 32 | 6 => 128 | 7 => 128 | 8 => 64 | 9 => 32 | 0xA => 32
  | 0xB => 24 | 0xC => 24 | 0xD => 16 | 0xE => 32 | _ => 0

/-- Is it an MX format (Table 6.1)? -/
def fulIsMx (f : Nat) : Bool := 9 ≤ f && f ≤ 0xE

/-- The element format of an MX code. -/
def mxFmt (f : Nat) : Fmt := match f with
  | 9 => .e4m3 | 0xA => .e5m2 | 0xB => .e2m3 | 0xC => .e3m2 | 0xD => .e2m1 | _ => .int8

/-- Operands an op takes: 1 a only, 2 a and b, 3 a, b and c; 0 unlisted (Table 6.6). -/
def opArity (op : Nat) : Nat :=
  if op == 4 || op == 5 || op == 0xD || op == 0xE then 3
  else if op == 8 || op == 9 || op == 0xF || op == 0x30 || op == 0x31 then 1
  else if (0x10 ≤ op && op ≤ 0x1E) then (if op == 0x15 then 2 else 1)
  else if (1 ≤ op && op ≤ 0xC) || (0x20 ≤ op && op ≤ 0x2B) then 2
  else 0

/-- The latency of an op (Table 6.6). -/
def opLat (op : Nat) : Nat :=
  if op == 4 || op == 5 then 4 else if 0x10 ≤ op && op ≤ 0x1E then 12 else 3

/-- Is an operand source legal for stage k (R174)? -/
def srcOk (k bfmt src : Nat) : Bool :=
  src == 1 || (src == 2 && bfmt != 0) || (3 ≤ src && src ≤ 6) || (8 ≤ src && src ≤ 0xE && src - 8 < k)

/-- Stage k of a chain (R173): entry 0 of `chain` is the extension. -/
def stageWord (chain : List (List Byte)) (k : Nat) : List Byte :=
  slice ((chain.drop (1 + k / 3)).headD []) (8 + 8 * (k % 3)) 8

/-- A stage word's rules (R174). -/
def stageOk (bfmt k : Nat) (w : List Byte) : Bool :=
  let op := fld w 0 1; let a := bits (fld w 1 1) 3 0; let b := bits (fld w 1 1) 7 4
  let c := bits (fld w 2 1) 3 0
  let n := opArity op
  n != 0 && srcOk k bfmt a && (if 2 ≤ n then srcOk k bfmt b else b == 0)
  && (if 3 ≤ n then srcOk k bfmt c else c == 0) && bits (fld w 2 1) 7 4 == 0 && fld w 3 1 == 0

/-- Number of elements of a pass (R171). -/
def fulN (f : Fired) : Nat := if bitAt (fld f.desc 0x1E 1) 0 then f.len else fld f.desc 0x18 4 % 2 ^ 20

/-- The loop counter's value of a pass with loop offsetting, else 0 (R172). -/
def fulC (f : Fired) : Nat :=
  let ext := f.chain.headD []
  if bitAt (fld ext 1 1) 7 then (f.ctrs.drop (fld ext 1 1 % 4)).headD 0 else 0

/-- Effective A, B and output addresses (R172). -/
def fulAddr (f : Fired) (off stepOff : Nat) : Nat := fld f.desc off 4 + fulC f * fld (f.chain.headD []) stepOff 2

/-- Does a strided stream reach past the store (R171, R172)? -/
def streamFits (lim addr stride vec n : Nat) : Bool := addr + (n - 1) * stride + vec ≤ lim

/-- Bytes that the last vector of n elements writes (R171: an inactive lane writes none; an MX block is exported whole, and
a split piece is 2 B a lane). -/
def fulTail (o n : Nat) : Nat :=
  if fulIsMx o then fulVec o else (n - 32 * ((n + 31) / 32 - 1)) * (if o == 8 then 2 else fmtBytes (fmtD o))

/-- The effective lo-piece or scale address of the output (R172). -/
def fulX (f : Fired) : Nat :=
  let o := fld f.desc 3 1; let ext := f.chain.headD []
  let mv := fulC f * fld ext 0x14 2
  fld ext 0x18 4 + (if fulIsMx o then mv / fulVec o else mv)

/-- The effective MX import scale address (R172). -/
def fulY (f : Fired) : Nat :=
  let a := fld f.desc 1 1; let ext := f.chain.headD []
  fld ext 0x1C 4 + fulC f * fld ext 0x10 2 / max 1 (fulVec a)

/-- The fuller pass's rules in the fire cc (R65, R107, R168 to R174, R181 to R184). DESIGN CHOICE, assumption 56: R107 refuses
the scale of a conversion; b_scale in a pass without a B stream and o_scale in one without output are not looked at. -/
def fullerOk (f : Fired) : Bool :=
  let d := f.desc; let ext := f.chain.headD []
  let a := fld d 1 1; let b := fld d 2 1; let o := fld d 3 1
  let st := fld d 0x17 1; let n := fulN f; let v := (n + 31) / 32
  let as := fld d 0x10 2; let bs := fld d 0x12 2; let os := fld d 0x14 2
  let loopOn := bitAt (fld ext 1 1) 7
  let one := 0x3F800000
  fld d 0 1 == 0x30 && 1 ≤ a && a ≤ 0xE && a != 8 && b ≤ 7 && o ≤ 0xE
  && n != 0 && 1 ≤ st && st ≤ 8 && fld d 0x1E 1 < 2 && fld d 0x1F 1 == 0 && fld d 0x18 4 < 2 ^ 20
  && fld d 0x1C 1 ≤ 3 && (fld d 0x1D 1 < 8 || fld d 0x1D 1 == 0xFF)
  && f.chain.length == 1 + (st + 2) / 3
  && fld ext 0 1 == 0x31 && bits (fld ext 1 1) 6 2 == 0 && fld ext 2 2 == 0 && fld ext 0x16 2 == 0
  && (f.chain.drop 1).all (fun e => fld e 0 1 == 0x32 && allZero (slice e 1 7))
  && (upto 0 st).all (fun k => stageOk b k (stageWord f.chain k))
  && fld d 4 4 % (if fulIsMx a then 64 else 32) == 0 && fld d 8 4 % 32 == 0
  && fld d 0xC 4 % (if fulIsMx o then 64 else 32) == 0
  && (if fulIsMx a then as == fulVec a else as == 0 || (as % 32 == 0 && fulVec a ≤ as))
  && (b == 0 || bs == 0 || (bs % 32 == 0 && fulVec b ≤ bs))
  && (o == 0 || (if fulIsMx o then os == fulVec o else os % 32 == 0 && fulVec o ≤ os))
  && fld ext 0x10 2 % 32 == 0 && fld ext 0x12 2 % 32 == 0 && fld ext 0x14 2 % 32 == 0
  && (!loopOn || ((!fulIsMx a || fld ext 0x10 2 % fulVec a == 0)
        && (!(fulIsMx o || o == 8) || fld ext 0x14 2 % fulVec o == 0)))
  && streamFits Config.storeBytes (fulAddr f 4 0x10) as (fulVec a) v
  && (b == 0 || streamFits Config.storeBytes (fulAddr f 8 0x12) bs (fulVec b) v)
  && (o == 0 || streamFits Config.clerkBase (fulAddr f 0xC 0x14) os (fulTail o n) v)
  && (o != 8 || streamFits Config.clerkBase (fulX f) os (fulTail o n) v)
  && (!fulIsMx o || fulX f + v ≤ Config.clerkBase) && (!fulIsMx a || fulY f + v ≤ Config.storeBytes)
  && (o == 0 || scaleOk (BitVec.ofNat 32 (fld ext 4 4))) && scaleOk (BitVec.ofNat 32 (fld ext 8 4))
  && (b == 0 || scaleOk (BitVec.ofNat 32 (fld ext 0xC 4)))
  && (!(a == 5 || a == 7) || fld ext 8 4 == one) && (!(b == 5 || b == 7) || fld ext 0xC 4 == one)
  && (o != 7 || (fld ext 4 4 == one && fld d 0x1D 1 == 0xFF)) && (o != 0 || fld d 0x1D 1 == 0xFF)
  && (o != 8 || fld ext 4 4 == one)

/-- The vector interval v of a pass (R170). -/
def fulInterval (f : Fired) : Nat :=
  let d := f.desc; let v := (fulN f + 31) / 32
  let acc := fun (fmt addr stride : Nat) =>
    if fmt == 0 then 0
    else if fulVec fmt ≤ 32 && stride == fulVec fmt then 1
    else strideLines addr stride (fulVec fmt) (min v 64)
  let a := acc (fld d 1 1) (fulAddr f 4 0x10) (fld d 0x10 2)
  let b := acc (fld d 2 1) (fulAddr f 8 0x12) (fld d 0x12 2)
  let o := if fld d 3 1 == 8 then
      (upto 0 (min v 64)).foldl (fun m j =>
        max m (lineCount (fulAddr f 0xC 0x14 + j * fld d 0x14 2) 64 + lineCount (fulX f + j * fld d 0x14 2) 64)) 2
    else acc (fld d 3 1) (fulAddr f 0xC 0x14) (fld d 0x14 2)
  max 1 (max (max a b) o)

/-- The sum of the stage latencies, L of R179. -/
def fulLat (f : Fired) : Nat :=
  (upto 0 (fld f.desc 0x17 1)).foldl (fun s k => s + opLat (fld (stageWord f.chain k) 0 1)) 0

/-- One cc more for an MX import (R170). -/
def fulD (f : Fired) : Nat := if fulIsMx (fld f.desc 1 1) then 1 else 0

/-- Last input access of a pass (R170). -/
def fulLastIn (f : Fired) : Nat :=
  let v := fulInterval f
  f.fireCc + fulD f + ((fulN f + 31) / 32 - 1) * v + v - 1

/-- First output access (Table 6.8). -/
def fulFirstOut (f : Fired) : Nat := f.fireCc + fulD f + fulInterval f + 3 + fulLat f

/-- Does a packed stream whose vector 0 lies at `addr`, and whose vectors are due one every `v` cc from `base`, access the store
in a cc (R170)? An access falls at the bound of the last vector its line carries. -/
def packedAccess (addr vec vecs base v cc : Nat) : Bool :=
  let j := (cc - base) / v
  base ≤ cc && (cc - base) % v == 0 && j < vecs
    && (j + 1 == vecs || (addr + j * vec) / 64 != (addr + (j + 1) * vec) / 64)

/-- The cc of the access that writes the scale bytes up to vector j of an MX export (R184): the spare one of the two cc after
the last element access of their blocks, in which fuller-out holds the cell by the map of bank k, at the latest the second. -/
def fulScaleCc (m : Mem) (k : Nat) (f : Fired) (j : Nat) : Nat :=
  let v := fulInterval f
  let vec := fulVec (fld f.desc 3 1)
  let vecs := (fulN f + 31) / 32
  let addr := fulAddr f 0xC 0x14
  let base := f.fireCc + fulD f + 2 * v + 2 + fulLat f
  let lastEl := base + v * min (vecs - 1) (((addr + (j + 1) * vec - 1) / 64 * 64 + 63 - addr) / vec)
  ((upto (lastEl + 1) 2).find? (fun cc => mapHolder m k (lineBank (fulX f + j)) (cc % 16) == 5
    && !(packedAccess addr vec vecs base v cc))).getD (lastEl + 2)

/-- Last output access (Table 6.8), the scale bytes of an MX export included; 0 where there is no output. -/
def fulLastOut (m : Mem) (k : Nat) (f : Fired) : Nat :=
  let v := fulInterval f
  if fld f.desc 3 1 == 0 then 0
  else if fulIsMx (fld f.desc 3 1) then fulScaleCc m k f ((fulN f + 31) / 32 - 1)
  else f.fireCc + fulD f + ((fulN f + 31) / 32 - 1) * v + 2 * v + 2 + fulLat f

/-- Does a pass name a reduction register (source 0x5 or 0x6, R180)? -/
def fulNamesRes (f : Fired) : Bool :=
  (upto 0 (fld f.desc 0x17 1)).any (fun k =>
    let w := stageWord f.chain k
    let s := [bits (fld w 1 1) 3 0, bits (fld w 1 1) 7 4, bits (fld w 2 1) 3 0]
    s.contains 5 || s.contains 6)

/-- Results a reduction gives (R185). -/
def redResults (r : List Byte) (vecs : Nat) : Nat :=
  match fld r 3 1 with
  | 1 => vecs | 2 => 32 | _ => (vecs + max 1 (fld r 4 2) - 1) / max 1 (fld r 4 2)

/-- The reduction's rules beside its pass (R185). -/
def redOk (head r : List Byte) (n : Nat) : Bool :=
  let op := fld r 1 1; let tap := fld r 2 1; let ax := fld r 3 1; let seg := fld r 4 2; let dest := fld r 6 1
  let v := (n + 31) / 32
  fld r 0 1 == 0x33 && 1 ≤ op && op ≤ 6 && (tap < fld head 0x17 1 || tap == 8) && 1 ≤ ax && ax ≤ 3
  && (if ax == 3 then 1 ≤ seg && seg ≤ 32768 else seg == 0) && dest ≤ 1 && fld r 7 1 == 0
  && fld r 8 4 % 64 == 0 && allZero (slice r 0xC 20)
  && (if dest == 0 then ax != 2 && redResults r v == 1
      else fld head 3 1 == 0 && fld r 8 4 + redResults r v * (if op == 4 || op == 6 then 8 else 4) ≤ Config.clerkBase)

/-! ## Token send (Table 9.6) and DMA (Table 10.1) -/

/-- Is a logical tile a member of the masks (R255)? -/
def maskMember (rows cols tile : Nat) : Bool := bitAt rows (tile / 96) && bitAt cols (tile % 96)

/-- The token-send descriptor's rules (R260). -/
def tokenDescOk (d : List Byte) (lt : Nat) : Bool :=
  let op := fld d 1 1; let sel := fld d 2 1; let ch := fld d 3 1
  let rows := fld d 6 6; let cols := fld d 0xC 12
  fld d 0 1 == 0x50
  && (if op == 0 then sel < 16 && ch == 0 && rows == 0 && cols == 0
      else (op == 1 || op == 2) && sel < 8 && ch < 8 && fld d 4 2 < 4608 && rows < 2 ^ 48 && cols < 2 ^ 96
        && maskMember rows cols lt)

/-- Effective s_addr, bolt and destination address of a DMA descriptor (R282). -/
def dmaS (d : List Byte) (ctr : Nat) : Nat :=
  fld d 4 4 + (if bitAt (fld d 2 1) 2 then ctr * fld d 0x1D 1 * 4096 else 0)
/-- The share bolt. -/
def dmaBolt (d : List Byte) (ctr : Nat) : Nat :=
  fld d 8 4 + (if bitAt (fld d 2 1) 2 then ctr * fld d 0x1E 2 else 0)

/-- Does a mask line name a member (R255)? -/
def maskListed (bs : List Byte) : Bool := fld bs 0 6 != 0 && fld bs 8 12 != 0

/-- The destination address of a link send's first bolt, as loop offsetting moves it (R316): a share bolt of the memory endpoint, or a
store address. -/
def linkAddr (d : List Byte) (ctr : Nat) : Nat :=
  let adv := if bitAt (fld d 2 1) 2 then ctr * fld d 0x1E 2 else 0
  fld d 0x10 4 + (if fld d 0xE 2 == 0x2000 then adv else 4096 * adv)

/-- The DMA descriptor's rules in the fire cc (R246, R255, R282): `fireBit` is 7 or 8. -/
def dmaDescOk (m : Mem) (d : List Byte) (fireBit ctr : Nat) : Bool :=
  let op := fld d 1 1; let fl := fld d 2 1; let n := fld d 0xC 2
  let s := dmaS d ctr
  fld d 0 1 == 0x60 && op ≤ 4 && fl < 8 && fld d 3 1 < 8 && 1 ≤ n && n ≤ 256
  && (fireBit == (if op == 1 then 8 else 7))
  && (!bitAt fl 0 || op == 2) && (!bitAt fl 1 || op == 1)
  && fld d 4 4 % 64 == 0 && fld d 0x1C 1 < 4
  && (op == 3 || s + 4096 * n ≤ Config.storeBytes)
  && (!(op == 0 || op == 1) || dmaBolt d ctr + n ≤ Config.shareBolts)
  && (op != 3 || dmaBolt d ctr + 64 ≤ Config.storeBytes)
  && (op != 2 || (fld d 0x14 1 < 8 && fld d 0x10 4 % 64 == 0
        && fld d 0x10 4 + 4096 * n ≤ Config.storeBytes
        && (if bitAt fl 0 then fld d 0xE 2 == 0 && fld d 0x18 4 + 64 ≤ Config.storeBytes
              && maskListed (memRead m (fld d 0x18 4) 64)
            else fld d 0xE 2 < 4608)))
  && (op != 4 || (fld d 0x15 1 < 32 && fld d 0x1A 1 < 2
        && (if bitAt (fld d 0x16 4) 31 then fld d 0x16 4 % 2 ^ 31 < 4096 else fld d 0x16 4 < 2 ^ 17)
        && (if fld d 0xE 2 == 0x2000 then linkAddr d ctr + n ≤ Config.shareBolts && fld d 0x14 1 == 0 && fld d 0x1B 1 < 12
            else fld d 0xE 2 < 4608 && fld d 0x10 4 % 64 == 0 && linkAddr d ctr + 4096 * n ≤ Config.storeBytes
              && fld d 0x14 1 < 8 && fld d 0x1B 1 == 0)))

end Sys2Proof.Machine
end

