-- ==== Sys2Proof/Machine/Draws.lean ====
section
/-! DEFINITION. The stochastic-rounding draws of a tile (spec/03_number_formats.md, R93; spec/06_fuller.md, R175): when each pass
draws on a lane, and what a draw gives among the draws of the other passes. -/

namespace Sys2Proof.Machine

/-- Does a stage draw under SR (R175)? -/
def stageDraws (f : Fired) (k : Nat) : Bool :=
  let op := fld (stageWord f.chain k) 0 1
  (op == 0x30 || op == 0x31) && convRnd f.modes == .sr

/-- Latency from stage 0's input to stage k's output. -/
def latTo (f : Fired) (k : Nat) : Nat :=
  (upto 0 (k + 1)).foldl (fun s i => s + opLat (fld (stageWord f.chain i) 0 1)) 0

/-- Stage 9 of a draw schedule stands for the output conversion. -/
def outDraws (f : Fired) : Bool :=
  let o := fld f.desc 3 1
  o != 0 && o != 7 && o != 8 && descRnd f.modes (fld f.desc 0x1C 1) == .sr

/-- The draws of a lane in the order of their cc, the stages before the output conversion (R93, R175): pairs of vector
and stage. -/
def drawSched (f : Fired) (vecs v : Nat) : List (Nat × Nat) :=
  let who := ((upto 0 (fld f.desc 0x17 1)).filter (stageDraws f)).map (fun k => (k, latTo f k))
    ++ (if outDraws f then [(9, fulLat f)] else [])
  if who.isEmpty then []
  else (upto 0 (vecs * v + fulLat f + 1)).flatMap (fun t => who.flatMap (fun k =>
    if k.2 ≤ t && (t - k.2) % v == 0 && (t - k.2) / v < vecs then [((t - k.2) / v, k.1)] else []))

/-- Is lane l of vector j active (R171)? -/
def laneActive (n j l : Nat) : Bool := 32 * j + l < n

/-! ## When a pass draws on a lane -/

/-- The cc of a draw of a fuller pass: its vector and its stage, 9 for the output conversion (Table 6.8). -/
def fulDrawCc (f : Fired) (q : Nat × Nat) : Nat :=
  let v := fulInterval f
  f.fireCc + fulD f + q.1 * v + v + 1 + (if q.2 == 9 then fulLat f else latTo f q.2)

/-- Does a loom pass's drain, or a bins drain, convert under SR (R93)? -/
def drainDraws (f : Fired) : Bool :=
  if f.unit == 0 then
    fld f.desc 2 1 != 3 && fld f.desc 0xE 2 != 0 && fld f.desc 0x16 1 != 7 && descRnd f.modes (fld f.desc 0x17 1) == .sr
  else f.unit == 6 && fld f.desc 1 1 == 1 && !(bitAt (fld f.desc 2 1) 1) && descRnd f.modes (fld f.desc 0xE 1) == .sr

/-- The cc in which row j of a bins drain is read (R158). -/
def binsReadCc (f : Fired) (j : Nat) : Nat :=
  f.fireCc + j * strideLines (fld f.desc 4 4) (fld f.desc 8 2) (entryBytes (fld f.desc 3 1)) (fld f.desc 0xC 2)

/-- The cc of a pass's draws on a lane, in their order. -/
def drawCcs (f : Fired) (lane : Nat) : List Nat :=
  if f.unit == 3 then
    let n := fulN f
    ((drawSched f ((n + 31) / 32) (fulInterval f)).filter (fun q => laneActive n q.1 lane)).map (fulDrawCc f)
  else if !(drainDraws f) then []
  else if f.unit == 0 then (upto 0 (fld f.desc 0xE 2)).map (drainReadCc f.desc f.fireCc)
  else (upto 0 (fld f.desc 0xC 2)).map (binsReadCc f)

/-- Does a pass draw at all? -/
def passDraws (f : Fired) : Bool :=
  if f.unit == 3 then outDraws f || (upto 0 (fld f.desc 0x17 1)).any (stageDraws f) else drainDraws f

/-- The cc of the last draw of a pass on any lane, none where it draws nothing: lane 0 takes part in every vector. -/
def lastDraw (f : Fired) : Option Nat := (drawCcs f 0).getLast?

/-- The rank of a unit among those that draw on a lane in one cc: the loom-out converter comes before the fuller (R93). -/
def drawRank (u : Nat) : Nat := if u == 3 then 2 else if u == 6 then 1 else 0

/-- Draws of pass g on a lane that come before a draw of a unit of rank `r` in a cc. -/
def drawsBefore (g : Fired) (lane r cc : Nat) : Nat :=
  ((drawCcs g lane).filter (fun x => x < cc || (x == cc && drawRank g.unit < r))).length

/-! ## What a draw gives -/

/-- The other passes whose draws are not yet in the lanes' states: those still to run, and those that have run. -/
def otherDraws (t : Tile) (f : Fired) : List Fired :=
  (t.fired.filter (fun g => passDraws g && g != f)) ++ t.num.srRun

/-- Advance a lane k times. -/
def srSteps : Nat → Word → Word
  | 0, v => v
  | k + 1, v => srSteps k (srAdvance v)

/-- Draw number `own` of pass f on a lane, in a cc (R93): the lane has then advanced for each draw of the pass and of the others
that comes before it. -/
def srValue (f : Fired) (c : Ctx) (lane own cc : Nat) : Nat :=
  let k := (otherDraws c.t f).foldl (fun n g => n + drawsBefore g lane (drawRank f.unit) cc) own
  (srSteps (k + 1) (srLane c.t.num c.lt lane)).toNat / 65536

/-- The states of the lanes once some passes have drawn. -/
def srFold (lt : Nat) (gs : List Fired) (n : NumSt) : NumSt :=
  { n with
    srRun := []
    sr := (upto 0 32).foldl (fun m l =>
      kvSet 0 m l (srSteps (gs.foldl (fun k g => k + (drawCcs g l).length) 0) (srLane n lt l))) n.sr }

/-- The end of a pass that draws (R93): its draws go into the lanes' states once no pass still to run draws among them. -/
def srSettle (f : Fired) (c : Ctx) : Ctx :=
  if !(passDraws f) then c
  else
    let gs := c.t.num.srRun ++ [f]
    let more := c.t.fired.any (fun g => passDraws g && g != f)
    ctxTile c (fun t => { t with num := if more then { t.num with srRun := gs } else srFold c.lt gs t.num })

/-- The draws of a fuller pass on a lane by their key 16 vector + stage. -/
def fulDraws (f : Fired) (c : Ctx) (lane : Nat) : Kv Nat :=
  let n := fulN f
  ((drawSched f ((n + 31) / 32) (fulInterval f)).filter (fun q => laneActive n q.1 lane)).zipIdx.foldl (fun m q =>
    kvIns m (16 * q.1.1 + q.1.2) (srValue f c lane q.2 (fulDrawCc f q.1))) []

end Sys2Proof.Machine
end

