-- ==== Sys2Proof/Machine/Loom.lean ====
section
/-! DEFINITION. The loom: streams, drains, the check column, the shuttle (spec/04_loom.md). Readings of the engine rules:
DEDUCED, assumption 17. -/

namespace Sys2Proof.Machine

/-- Change the loom. -/
def loomMod (c : Ctx) (f : Loom → Loom) : Ctx := ctxTile c (fun t => { t with loom := f t.loom })

/-- The number of failed physical columns (TL_LOOM_MAP). -/
def loomFailed (l : Loom) : Nat := b2n (l.failA != 0x3F) + b2n (l.failB != 0x3F)

/-- The loom width presented (Table 4.6). -/
def loomWidth (l : Loom) : Nat := if loomFailed l ≤ 1 then 32 else 31

/-- loom_used of the active pattern (Table 2.3). -/
def loomUsed (t : Tile) : Nat := hdrFld t.store.mem t.actBank 0x12 1

/-- Is the check column present for the running pattern (R132)? -/
def checkOn (t : Tile) : Bool := loomUsed t + 1 + loomFailed t.loom ≤ 33

/-- The weight set of a letter. -/
def loomSet (l : Loom) (b : Bool) : WSet := if b then l.setB else l.setA

/-- Replace a weight set. -/
def loomSetPut (l : Loom) (b : Bool) (w : WSet) : Loom := if b then { l with setB := w } else { l with setA := w }

/-- Which set is active in a multiply cycle `m` (R124): every swap fired at or after `m` is not yet in force. -/
def activeAt (l : Loom) (m : Nat) : Bool :=
  if (l.swaps.filter (fun e => m ≤ e)).length % 2 == 1 then !l.activeB else l.activeB

/-- The contents of a set as it stood in a multiply cycle `m` (R118): a load fired at or after `m` is not yet in it. -/
def setAt (l : Loom) (b : Bool) (m : Nat) : WSet :=
  match l.oldSets.find? (fun h => m ≤ h.1 && h.2.1 == b) with
  | some h => h.2.2
  | none => loomSet l b

/-- The number a weight register holds (R118): for a check weight, BF16 in the floating formats, INT16 in INT8. -/
def wNum (tag n : Nat) (v : Half) : Fl :=
  if n == 32 then (if tag == 5 then flOfInt (sInt 16 v.toNat) else flDecode .bf16 v.toNat)
  else flDecode (fmtD tag) v.toNat

/-- Weight (k, n) of a set; logical column 31 of a width-tolerant pattern is +0 (R123). -/
def wAt (s : WSet) (used k n : Nat) : Fl :=
  if n == 31 && used == 31 then .fin false 0 0 else wNum s.tag n (kvGet 0 s.w (33 * k + n))

/-- One product (R88, R111): exact, but a BF16 product is brought into the FP32 range and its 2^-149 grid; a lo piece
that is zero is a strong zero. -/
def loomProd (bf16 loA loW : Bool) (a w : Fl) : Fl :=
  if (loA && flIsZero a) || (loW && flIsZero w) then .fin false 0 0
  else
    let x := flMul a w
    if bf16 then
      match x with
      | .fin s m e =>
        if overThreshold .fp32 m e then .inf s
        else if e < -149 then .fin s (roundUnits .rne 0 m e (-149)) (-149) else x
      | _ => x
    else x

/-- The exact sum of a list of products (R120). -/
def flSum : List Fl → Fl
  | [] => .fin false 0 0
  | x :: t => t.foldl flAdd x

/-- A product, and whether it is a produced NaN (R96): one that a strong zero masks is none (R111). -/
def loomTerm (bf16 loA loW : Bool) (a w : Fl) : Fl × Bool :=
  let x := loomProd bf16 loA loW a w
  (x, madeNaN [a, w] x)

/-- The exact sum of products, and whether a NaN was produced in one of them or, where none of them is a NaN, in their sum
(R96, R104). -/
def termSum (ts : List (Fl × Bool)) : Fl × Bool :=
  let s := flSum (ts.map (fun q => q.1))
  (s, ts.any (fun q => q.2) || madeNaN (ts.map (fun q => q.1)) s)

/-- The exact column sum of one vector (R117, R120), and whether a NaN was produced in it. -/
def colSum (s : WSet) (used afmt : Nat) (loA : Bool) (a : List Fl) (n : Nat) : Fl × Bool :=
  termSum (a.zipIdx.map (fun q => loomTerm (afmt == 3) loA s.lo q.1 (wAt s used q.2 n)))

/-- Does a set hold an infinity or NaN in row k (R130)? -/
def rowSpecial (s : WSet) (used k : Nat) : Bool :=
  (upto 0 33).any (fun n => match wAt s used k n with | .fin _ _ _ => false | _ => true)

/-- Rows gated for one vector (R130). -/
def gatedRows (s : WSet) (used : Nat) (a : List Fl) : Nat :=
  (a.zipIdx.filter (fun q => flIsZero q.1 && !(rowSpecial s used q.2))).length

/-- Is a check weight of these rows a nonzero BF16 subnormal (R138)? -/
def subnormalC (s : WSet) (rows : List Nat) : Bool :=
  rows.any (fun k => let v := (kvGet 0 s.w (33 * k + 32)).toNat % 0x8000; v != 0 && v < 0x80)

/-- FP32 of a non-negative exact value, rounded toward +infinity. -/
def upFp32 (x : Fl) : Word := (amaxWord x).getD 0

/-- Is it finite? -/
def flFinite : Fl → Bool
  | .fin _ _ _ => true
  | _ => false

/-- The outcome of one vector's check (R136 to R138): not checked, passed, or a mismatch with D and T. -/
inductive Check where
  | skipped
  | ok
  | mismatch (d t : Word)
  deriving DecidableEq, Repr

/-- The bound T of R137: 2^-7 M + 2^-22 (sum of |out_n| + |S_c|) + 2^-140. -/
def checkBound (m : Fl) (sumAbs : Fl) : Fl :=
  flAdd (flAdd (flMul m (.fin false 1 (-7))) (flMul sumAbs (.fin false 1 (-22)))) (.fin false 1 (-140))

/-- The check of one floating-point vector (R137, R138): `outs` are the rounded column sums, `sc` the check column's. -/
def checkFp (s : WSet) (used : Nat) (a : List Fl) (loA : Bool) (rows : List Nat) (outs : List Word) (sc : Word) :
    Check :=
  let c := rows.map (fun k => wNum s.tag 32 (kvGet 0 s.w (33 * k + 32)))
  let os := outs.map ofFp32
  let scv := ofFp32 sc
  let m := flSum ((a.zip c).map (fun q => flAbs (loomProd false loA s.lo q.1 q.2)))
  let mUp := ofFp32 (upFp32 m)
  if !(a.all flFinite) || rows.any (fun k => rowSpecial s used k) || subnormalC s rows || !(os.all flFinite)
      || !(flFinite scv) || !(flFinite mUp) then .skipped
  else
    let d := flAbs (flAdd scv (flNeg (flSum os)))
    let t := checkBound mUp (flSum (flAbs scv :: os.map flAbs))
    if flLtNum t d then .mismatch (upFp32 d) (toFp32 true t) else .ok

/-- The check of one INT8 vector (R136). -/
def checkInt (sums : List Fl) (sc : Fl) : Check :=
  match flAdd sc (flNeg (flSum sums)) with
  | .fin _ m e => if m == 0 then .ok else .mismatch (BitVec.ofNat 32 (shl m e)) 0
  | _ => .ok

/-- Latch and report a check outcome (R138, R139). -/
def checkApply (c : Ctx) (r : Check) (step desc vec cc : Nat) : Ctx :=
  match r with
  | .ok => c
  | .skipped => loomMod c (fun l => { l with skip := satAdd 32 l.skip 1 })
  | .mismatch d t =>
    let recd := toLe 2 step ++ toLe 1 desc ++ toLe 1 vec ++ toLe 4 cc ++ toLe 8 (c.bell % 2 ^ 48) ++ toLe 8 c.lot
      ++ toLe 4 d.toNat ++ toLe 4 t.toNat
    let first := !c.t.loom.chkValid
    let c1 := loomMod c (fun l => { l with
      mism := satAdd 32 l.mism 1, chkValid := true, chkRec := if first then recd else l.chkRec })
    ctxSig (if first then ctxSig c1 (.event 0x0101 cc 2 recd) else c1) (.fail 0x0011 cc)

/-- Is the pairing of an activation format and a weight tag in Table 4.1? -/
def pairingOk (afmt tag : Nat) : Bool :=
  ((afmt == 1 || afmt == 2) && (tag == 1 || tag == 2)) || (3 ≤ afmt && afmt ≤ 5 && afmt == tag)

/-- INT32 of an exact integer under INT_SAT (R100). -/
def int32Of (sat : Bool) (x : Fl) : Word :=
  match x with
  | .fin s m e =>
    let i : Int := if s then -(shl m e : Nat) else (shl m e : Nat)
    if sat then
      (if 2147483647 < i then 0x7FFFFFFF#32 else if i < -2147483648 then 0x80000000#32 else BitVec.ofInt 32 i)
    else BitVec.ofInt 32 i
  | _ => 0

/-- The tracked lines of an accumulator entry (R369). -/
def accLines (e : Nat) : List Nat := [10752 + 2 * e, 10753 + 2 * e]

/-- Read the check bits of an accumulator entry (R122): a double-bit error writes the canonical NaN into all 32 elements of
the entry, is counted and reported, and fails the lot. -/
def accScan (c : Ctx) (cc e : Nat) : Ctx :=
  if (upto (32 * e) 32).any (fun j => 1 < kvGet 0 c.t.loom.accBad j) then
    let c1 := loomMod (ctxTile c (touchTile (accLines e))) (fun l => { l with
      accUnc := satAdd 16 l.accUnc 1
      acc := (upto (32 * e) 32).foldl (fun m j => kvSet 0 m j fp32NaN) l.acc
      accBad := l.accBad.filter (fun q => q.1 / 32 != e) })
    ctxSig (ctxSig c1 (.event 0x0122 cc 0 [])) (.fail 0x0013 cc)
  else c

/-- Read one accumulator element of a scanned entry (R122): a single-bit error is corrected and counted. -/
def accRead (c : Ctx) (e n : Nat) : Word × Ctx :=
  let k := 32 * e + n
  (kvGet 0 c.t.loom.acc k,
    if kvGet 0 c.t.loom.accBad k == 0 then c else loomMod c (fun l => { l with accCor := satAdd 16 l.accCor 1 }))

/-- Write one accumulator element; the write makes the word good. -/
def accWrite (c : Ctx) (e n : Nat) (v : Word) : Ctx :=
  loomMod (ctxTile c (touchTile [10752 + 2 * e + n / 16])) (fun l => { l with
    acc := kvSet 0 l.acc (32 * e + n) v, accBad := l.accBad.filter (fun q => q.1 != 32 * e + n) })

/-- An upset of the loom: it flips bits of the rounded column sum `col` (32 the check column) of vector `vec`. -/
def upsetOf (ups : List (Nat × Nat × Word)) (vec col : Nat) : Word :=
  ((ups.find? (fun u => u.1 == vec && u.2.1 == col)).map (fun u => u.2.2)).getD 0

/-- Update one accumulator element from a column sum (R120). `made` says that the sum holds a produced NaN; an element's
update counts as one produced NaN however many of its operations made one (DESIGN CHOICE, assumption 56). -/
def accUpdate (c : Ctx) (modes : Word) (f : Fired) (accum isInt made : Bool) (e n cc : Nat) (sum : Fl) (flip : Word) : Ctx :=
  let old := if accum then accRead c e n else (0, c)
  let c1 := old.2
  if isInt then
    let s := if flip = 0 then sum else flOfInt (sInt 32 (int32Of false sum ^^^ flip).toNat)
    let x := if accum then flAdd (flOfInt (sInt 32 old.1.toNat)) s else s
    accWrite c1 e n (int32Of (accum && intSat modes) x)
  else
    let s := if flip = 0 then sum else ofFp32 (toFp32 false sum ^^^ flip)
    let o := ofFp32 old.1
    let x := if accum then flAdd o s else s
    let c2 := accWrite c1 e n (toFp32 false x)
    if made || (accum && madeNaN [o, s] x) then nanProduced c2 modes 1 n 1 f.step f.descIdx cc else c2

/-- One vector of a stream through the pipeline of Table 4.4. -/
def loomVector (f : Fired) (ups : List (Nat × Nat × Word)) (a : List Fl) (i : Nat) (c : Ctx) : Ctx :=
  let d := f.desc
  let afmt := fld d 1 1
  let loA := bitAt (fld d 3 1) 0
  let accum := fld d 2 1 == 1
  let two := afmtCc afmt == 2
  let m := if two then f.fireCc + 2 + 2 * i else f.fireCc + 2 + i
  let upd := if two then f.fireCc + 5 + 2 * i else f.fireCc + 4 + i
  let cmp := upd + 1
  let l := c.t.loom
  let set := setAt l (activeAt l m) m
  if !(pairingOk afmt set.tag) then ctxViolate c m
  else
    let used := loomUsed c.t
    let e := fld d 0xC 1 + i
    let sums := (upto 0 32).map (colSum set used afmt loA a)
    let sc := (colSum set 32 afmt loA a 32).1
    let isInt := afmt == 5
    let c1 := if l.gating then loomMod c (fun l => { l with gated := satAdd 32 l.gated (gatedRows set used a) }) else c
    let c2 := sums.zipIdx.foldl (fun c q =>
      accUpdate c f.modes f accum isInt q.1.2 e q.2 upd q.1.1 (upsetOf ups i q.2)) (if accum then accScan c1 upd e else c1)
    let c3 := loomMod c2 (fun l => { l with updCc := kvSet 0 l.updCc e upd })
    if !(checkOn c.t) then c3
    else
      let r := if isInt then
          checkInt (sums.zipIdx.map (fun q => flOfInt (sInt 32 (int32Of false q.1.1 ^^^ upsetOf ups i q.2).toNat)))
            (flOfInt (sInt 32 (int32Of false sc ^^^ upsetOf ups i 32).toNat))
        else checkFp set used a loA (upto 0 32)
          (sums.zipIdx.map (fun q => toFp32 false q.1.1 ^^^ upsetOf ups i q.2)) (toFp32 false sc ^^^ upsetOf ups i 32)
      checkApply c3 r f.step f.descIdx i cmp

/-- The access a paired stream made last (R126): its line, its cc and the bytes; the next vector may share it. -/
abbrev LoomCache := Option (Nat × Nat × List Byte)

/-- Read vector i of a stream through loom-in (R126): a vector that lies in the line and cc of the access before it shares
that access. -/
def loomReadVec (f : Fired) (i : Nat) (k : LoomCache) (c : Ctx) : List Fl × LoomCache × Ctx :=
  let d := f.desc
  let afmt := fld d 1 1
  let a := fld d 4 4 + i * fld d 8 2
  let cc := loomReadCc d f.fireCc i
  let dec := fun (bs : List Byte) => (elemsOf (fmtD afmt) bs 32).map (flDecode (fmtD afmt))
  if vecBytes afmt == 32 && fld d 8 2 == 32 then
    match k with
    | some (line, at_, bs) =>
      if line == a / 64 && at_ == cc then (dec (slice bs (a % 64) 32), k, c)
      else
        let r := timedRead c 1 cc (a / 64 * 64) 64
        (dec (slice r.1 (a % 64) 32), some (a / 64, cc, r.1), r.2)
    | none =>
      let r := timedRead c 1 cc (a / 64 * 64) 64
      (dec (slice r.1 (a % 64) 32), some (a / 64, cc, r.1), r.2)
  else
    let r := streamRead c 1 cc a (vecBytes afmt)
    (dec r.1, none, r.2)

/-- Convert the entry drained j-th, `e`, to its bytes (R128); each column draws on its own lane (R93). -/
def drainEntry (f : Fired) (c : Ctx) (j e cc : Nat) : List Byte × Ctx :=
  let d := f.desc
  let o := fld d 0x16 1
  let isInt := fld d 1 1 == 5
  let rnd := descRnd f.modes (fld d 0x17 1)
  let sc := BitVec.ofNat 32 (fld d 0x18 4)
  let draw := fun (n : Nat) => if drainDraws f then srValue f c n j cc else 0
  (upto 0 32).foldl (fun r n =>
    let v := accRead r.2 e n
    if o == 7 then (r.1 ++ toLe 4 v.1.toNat, v.2)
    else
      let x := if isInt then flOfInt (sInt 32 v.1.toNat) else ofFp32 v.1
      let y := convElem v.2 f.modes rnd (fmtD o) sc (fld d 0x1C 1) n 2 f.step f.descIdx cc (draw n) x
      (r.1 ++ toLe (fmtBytes (fmtD o)) y.1, y.2)) ([], accScan c cc e)

/-- Zero an accumulator entry (flag [2] of Table 4.3). -/
def accZero (c : Ctx) (e : Nat) : Ctx :=
  loomMod (ctxTile c (touchTile (accLines e))) (fun l => { l with
    acc := l.acc.filter (fun q => q.1 / 32 != e), accBad := l.accBad.filter (fun q => q.1 / 32 != e) })

/-- Write an entry of `bytes` bytes to address `a`, `cc` being its write cc (R128): a 32 B entry at a multiple of 64 waits in
the first part for the next one of its line where `pair` says that one follows. -/
def accEntryPut (cc a : Nat) (pair : Bool) (held : Option (List Byte)) (bs : List Byte) (c : Ctx) :
    Option (List Byte) × Ctx :=
  match held with
  | some b => (none, timedWrite c 2 cc (a - 32) (b ++ bs))
  | none => if bs.length == 32 && a % 64 == 0 && pair then (some bs, c) else (none, streamWrite c 2 cc a bs)

/-- The drain of some entries (R128), in order: an entry whose update is still in the pipeline stops the tile. `held` is a
32 B entry waiting to be written with the next one of its line. -/
def drainRun (f : Fired) : List Nat → Option (List Byte) → Ctx → Option (List Byte) × Ctx
  | [], held, c => (held, c)
  | j :: js, held, c =>
    let d := f.desc
    let e := fld d 0xD 1 + j
    let cc := drainReadCc d f.fireCc j
    if c.abort then (held, c)
    else if kvGet 0 c.t.loom.updCc e != 0 && cc ≤ kvGet 0 c.t.loom.updCc e then (none, ctxViolate c cc)
    else
      let r := drainEntry f c j e cc
      let c1 := if bitAt (fld d 3 1) 2 then accZero r.2 e else r.2
      let w := accEntryPut (cc + 2) (fld d 0x10 4 + j * fld d 0x14 2) (fld d 0x14 2 == 32 && j + 1 < fld d 0xE 2) held r.1 c1
      drainRun f js w.1 w.2

/-- The cc after a stream's last update and comparison (Table 4.4). -/
def loomStreamDone (f : Fired) : Nat :=
  let r := afmtCc (fld f.desc 1 1)
  f.fireCc + (if r == 2 then 7 else 6) + r * (fld f.desc 0xA 2 - 1)

/-- The cc after a drain's last write (R128). -/
def loomDrainDone (f : Fired) : Nat :=
  let d := f.desc
  let j := fld d 0xE 2 - 1
  drainReadCc d f.fireCc j + 2 + lineCount (fld d 0x10 4 + j * fld d 0x14 2) (entryBytes (fld d 0x16 1))

/-- The cc after a loom pass: its last update, comparison and drain write are then done (R127). -/
def loomDoneCc (f : Fired) : Nat :=
  max (if fld f.desc 2 1 == 2 then f.fireCc else loomStreamDone f) (if fld f.desc 0xE 2 == 0 then f.fireCc else loomDrainDone f)

/-- The last multiply cycle of a stream (Table 4.4). -/
def loomLastMul (f : Fired) : Nat :=
  let v := fld f.desc 0xA 2
  if afmtCc (fld f.desc 1 1) == 2 then f.fireCc + 3 + 2 * (v - 1) else f.fireCc + 2 + (v - 1)

/-- A loom pass at work: the entries still to be drained, a 32 B entry that waits for the next one of its line, the line read
last, and the tile. -/
structure LoomRun where
  js : List Nat
  held : Option (List Byte) := none
  cache : LoomCache := none
  c : Ctx

/-- Drain the entries that are read before a cc. -/
def loomDrainTo (f : Fired) (cc : Nat) (r : LoomRun) : LoomRun :=
  let now := r.js.takeWhile (fun j => drainReadCc f.desc f.fireCc j < cc)
  let w := drainRun f now r.held r.c
  { r with js := r.js.drop now.length, held := w.1, c := w.2 }

/-- Take vector i of the stream, after the entries that the drain reads before it (R128, R199); a stop ends the pass. -/
def loomTake (f : Fired) (ups : List (Nat × Nat × Word)) (r0 : LoomRun) (i : Nat) : LoomRun :=
  let r := loomDrainTo f (loomReadCc f.desc f.fireCc i) r0
  if r.c.abort then r
  else
    let v := loomReadVec f i r.cache r.c
    { r with cache := v.2.1, c := if v.2.2.abort then v.2.2 else loomVector f ups v.1 i v.2.2 }

/-- A whole loom pass: its stream vector by vector, and its drain's entries among them in the order of their cc (R125 to
R128). `accUps` are accumulator words found with failing bits (R122). -/
def loomPass (f : Fired) (ups : List (Nat × Nat × Word)) (accUps : List (Nat × Nat)) (c : Ctx) : Ctx :=
  let d := f.desc
  let c0 := loomMod c (fun l => { l with accBad := accUps.foldl (fun m u => kvSet 0 m u.1 u.2) l.accBad })
  let r := (upto 0 (if fld d 2 1 == 2 then 0 else fld d 0xA 2)).foldl (loomTake f ups) { js := upto 0 (fld d 0xE 2), c := c0 }
  srSettle f (drainRun f r.js r.held r.c).2

/-- Check weights of a block (R135): the sum over the logical data columns, BF16 or exact INT16. -/
def checkWeight (tag used : Nat) (row : List Fl) : Half :=
  let s := flSum (row.take used)
  if tag == 5 then (match s with
    | .fin neg m e => BitVec.ofInt 16 (if neg then -(shl m e : Nat) else (shl m e : Nat))
    | _ => 0)
  else BitVec.ofNat 16 (convert .bf16 .rne true 0 s).bits

/-- The weight registers of a set from a block's bytes (R123, R135, R204). -/
def weightsOf (wfmt used : Nat) (transposed check : Bool) (bs : List Byte) : Kv Half :=
  let f := fmtD wfmt
  let n := fmtBytes f
  (upto 0 32).foldl (fun m k =>
    let row := (upto 0 32).map (fun c => let i := if transposed then 32 * c + k else 32 * k + c
      fld bs (i * n) n)
    let m1 := row.zipIdx.foldl (fun m q => kvSet 0 m (33 * k + q.2) (BitVec.ofNat 16 q.1)) m
    if check then kvSet 0 m1 (33 * k + 32) (checkWeight wfmt used (row.map (flDecode f))) else m1) []

/-- Take back the swaps and shuttle loads fired after a cc: the steps that fired them have not fired (R65, R106). -/
def loomUndo (l : Loom) (cc : Nat) : Loom :=
  let late := l.oldSets.filter (fun h => cc < h.1)
  let l1 := late.reverse.foldl (fun l h => loomSetPut l h.2.1 h.2.2) l
  { l1 with
    activeB := if (l.swaps.filter (fun e => cc < e)).length % 2 == 1 then !l.activeB else l.activeB
    swaps := l.swaps.filter (fun e => e ≤ cc)
    oldSets := l.oldSets.filter (fun h => h.1 ≤ cc) }

/-- Put a loaded block into the idle set (R118, R123). -/
def shuttlePut (f : Fired) (bs : List Byte) (c : Ctx) : Ctx :=
  let w := fld f.desc 2 1
  let fl := fld f.desc 3 1
  let used := loomUsed c.t
  let chk := checkOn c.t
  let lines := upto (if activeAt c.t.loom f.fireCc then 11392 else 11425) 33
  loomMod (ctxTile c (touchTile lines)) (fun l =>
    let idle := !(activeAt l f.fireCc)
    let set : WSet := { w := weightsOf w used (bitAt fl 0) chk bs, tag := w, lo := bitAt fl 1 }
    loomSetPut { l with oldSets := l.oldSets ++ [(f.fireCc, idle, loomSet l idle)] } idle set)

/-- Re-form the check weights of both sets from their data columns, on a role's arrival at a loom; the check column that came
with them is ignored (R135). -/
def reformCheck (t : Tile) : Tile :=
  let used := loomUsed t
  let fix := fun (s : WSet) => { s with w := (upto 0 32).foldl (fun m k =>
    if s.tag == 0 || !(checkOn t) then kvDel m (33 * k + 32)
    else kvSet 0 m (33 * k + 32)
      (checkWeight s.tag used ((upto 0 32).map (fun n => wNum s.tag n (kvGet 0 s.w (33 * k + n)))))) s.w }
  { t with loom := { t.loom with setA := fix t.loom.setA, setB := fix t.loom.setB } }

end Sys2Proof.Machine
end

