-- ==== Sys2Proof/Machine/Sparse.lean ====
section
/-! DEFINITION. The sieve, scatter mode, the granary and the bins (spec/05_sieve_and_accumulators.md). Readings of the engine
rules: DEDUCED, assumption 17. -/

namespace Sys2Proof.Machine

/-- Change the sparsity state. -/
def sparseMod (c : Ctx) (f : Sparse → Sparse) : Ctx := ctxTile c (fun t => { t with sparse := f t.sparse })

/-! ## The sieve (R142 to R145) -/

/-- Is a source element zero for the sieve (R142)? -/
def sieveZero (f : Nat) (e : Nat) : Bool :=
  if f == 6 then splitHi (BitVec.ofNat 32 e) % 0x8000 == 0 && splitLo (BitVec.ofNat 32 e) % 0x8000 == 0
  else flIsZero (flDecode (fmtD f) e)

/-- Bytes of one stream entry (Table 5.2). -/
def entrySize (f : Nat) : Nat := if f == 1 || f == 2 then 2 else if f == 6 then 8 else 4

/-- One stream entry (Table 5.2). -/
def sieveEntry (f e m row : Nat) (lastE : Bool) : List Byte :=
  let l := b2n lastE
  if f == 1 || f == 2 then toLe 2 (e + m * 2 ^ 8 + row * 2 ^ 13 + l * 2 ^ 15)
  else if f == 6 then
    let w := BitVec.ofNat 32 e
    toLe 8 (splitHi w + splitLo w * 2 ^ 16 + m * 2 ^ 32 + row * 2 ^ 37 + l * 2 ^ 39)
  else toLe 4 (e + m * 2 ^ 16 + row * 2 ^ 21 + l * 2 ^ 23)

/-- The groups of one segment, in the order of R143: each group's vector and its (row, element) entries. -/
def sieveGroups (f : Nat) (vecs : List (List Nat)) (s : Nat) : List (Nat × List (Nat × Nat)) :=
  ((upto 0 32).map (fun j =>
    let m := (5 * s + j) % 32
    let v := (vecs.drop m).headD []
    (m, ((upto 0 4).map (fun r => (r, (v.drop (4 * s + r)).headD 0))).filter (fun q => !(sieveZero f q.2))))).filter
      (fun g => !g.2.isEmpty)

/-- A segment's entries as bytes, padded to a multiple of 64 (R144). -/
def segBytes (f : Nat) (gs : List (Nat × List (Nat × Nat))) : List Byte :=
  let bs := gs.flatMap (fun g => g.2.zipIdx.flatMap (fun q =>
    sieveEntry f q.1.2 g.1 q.1.1 (q.2 + 1 == g.2.length)))
  bs ++ zeros ((64 - bs.length % 64) % 64)

/-- A compressed block: its bytes and its non-zero count (R144, Table 5.1). -/
def sieveBlock (f : Nat) (vecs : List (List Nat)) : List Byte × Nat :=
  let segs := (upto 0 8).map (sieveGroups f vecs)
  let ents := segs.map (fun gs => gs.foldl (fun n g => n + g.2.length) 0)
  let bodies := segs.map (segBytes f)
  let offs := (upto 0 8).map (fun s => 64 + (bodies.take s).foldl (fun n b => n + b.length) 0)
  let len := 64 + bodies.foldl (fun n b => n + b.length) 0
  let nnz := ents.foldl (· + ·) 0
  let hdr := segs.flatMap (fun gs => toLe 1 gs.length) ++ ents.flatMap (toLe 2) ++ offs.flatMap (toLe 2)
    ++ toLe 2 len ++ toLe 2 nnz
  (hdr ++ zeros (64 - hdr.length) ++ bodies.flatMap (fun b => b), nnz)

/-- Read the 32 vectors of a block through fuller A, one access in each cc from `cc`; packed FP8 vectors share lines.
The result carries the number of accesses. -/
def sieveRead (f a stride cc : Nat) (c : Ctx) : List (List Nat) × Nat × Ctx :=
  let n := 32 * sieveElem f
  if stride == 32 then
    let r := streamRead c 3 cc a 1024
    ((upto 0 32).map (fun m => elemsOf (fmtD f) (slice r.1 (32 * m) 32) 32), lineCount a 1024, r.2)
  else
    (upto 0 32).foldl (fun (q : List (List Nat) × Nat × Ctx) m =>
      let r := streamRead q.2.2 3 (cc + q.2.1) (a + m * stride) n
      (q.1 ++ [elemsOf (fmtD f) r.1 32], q.2.1 + lineCount (a + m * stride) n, r.2)) ([], 0, c)

/-- The sieve's blocks, back to back (R145): the cc each begins in and the address its stream block goes to; the result is
the cc after the last read, the cc after the last block, and the tile. The last write of a block lands 6 cc after the block's
time. DESIGN CHOICE, assumption 56: a count-only pass, which writes nothing, takes its reads alone. -/
def sieveBlocks (f : Fired) : List Nat → Nat → Nat → Nat → Ctx → Nat × Nat × Ctx
  | [], lastRead, cc, _, c => (lastRead, cc, c)
  | b :: bs, lastRead, cc, s, c =>
    if c.abort then (lastRead, cc, c)
    else
      let d := f.desc
      let r := sieveRead (fld d 1 1) (fld d 4 4 + 32 * b * fld d 8 2) (fld d 8 2) cc c
      let blk := sieveBlock (fld d 1 1) r.1
      let count := bitAt (fld d 2 1) 0
      let writes := if count then 0 else blk.1.length / 64
      let dur := max r.2.1 writes
      let first := cc + dur - writes + 6
      let c1 := sparseMod r.2.2 (fun p => { p with nnz := satAdd 32 p.nnz blk.2, elem := satAdd 32 p.elem 1024 })
      let c2 := if count then c1
        else if Config.clerkBase < s + blk.1.length then ctxViolate c1 cc
        else if b == 0 && c1.t.lastOut != 0 && first ≤ c1.t.lastOut then ctxViolate c1 f.fireCc
        else streamWrite c1 5 first s blk.1
      sieveBlocks f bs (cc + r.2.1) (cc + dur) (s + blk.1.length) c2

/-- A sieve pass (R145, R180): it is done once its last write has landed; the fuller's ports are busy to its last read, and to
its last write for a pass that writes. -/
def sievePass (f : Fired) (c : Ctx) : Nat × Ctx :=
  let r := sieveBlocks f (upto 0 (fld f.desc 0xA 2)) f.fireCc f.fireCc (fld f.desc 0xC 4) c
  let count := bitAt (fld f.desc 2 1) 0
  (if count then r.2.1 else r.2.1 + 6, ctxTile r.2.2 (fun t => { t with
    busy := kvSet 0 (kvSet 0 t.busy 3 r.1) 25 r.2.1
    lastOut := if count then t.lastOut else max t.lastOut (r.2.1 + 5) }))

/-! ## The spill stream (R153 to R155, Table 5.6) -/

/-- The spill stream of a descriptor, empty. -/
def spillOf (d : List Byte) : Spill :=
  { ovfAddr := fld d 0x10 4, ovfBolts := fld d 0x14 1, memBase := fld d 0x18 4, memBolts := fld d 0x1C 2,
    bolts := 0, recs := [] }

/-- The spill stream of a target: of the granary, or of the bins. -/
def spillAt (p : Sparse) (bins : Bool) : Option Spill := if bins then p.spillB else p.spill
/-- Replace it. -/
def spillSet (p : Sparse) (bins : Bool) (s : Option Spill) : Sparse :=
  if bins then { p with spillB := s } else { p with spill := s }

/-- Is the open bolt a memory spill bolt? -/
def spillIsMem (s : Spill) : Bool := s.ovfBolts ≤ s.bolts + 3

/-- Has the spill stream no bolt left for a further record (R155)? -/
def spillFull (s : Spill) : Bool := spillIsMem s && s.memBolts ≤ s.bolts + 3 - s.ovfBolts

/-- Store address of the open spill bolt (R153). -/
def spillAddr (s : Spill) : Nat :=
  if spillIsMem s then s.ovfAddr + 4096 * (s.ovfBolts - 2 + (s.bolts + 3 - s.ovfBolts) % 2)
  else s.ovfAddr + 4096 * (1 + s.bolts)

/-- The cc in which the open bolt's region bolt may be written: a memory bolt waits for the DMA of the bolt before the last,
which it overwrites (R153, R154). -/
def spillFrom (s : Spill) : Nat := if spillIsMem s then (s.dma.drop 1).headD 0 else 0

/-- Cycles of the DMA of a memory spill bolt: the typical round trip of R154, one bolt at a time (DESIGN CHOICE,
assumption 56). -/
def spillDmaCc : Nat := 840

/-- One loom-out access at the first held cell at or after `cc` (R154): the cc after it, and the tile. -/
def loomOutAt (cc a : Nat) (bs : List Byte) (c : Ctx) : Nat × Ctx :=
  if !(holdsBank c 2 (lineBank a)) then (cc, ctxViolate c cc)
  else let k := nextCell c 2 (lineBank a) cc; (k + 1, timedWrite c 2 k a bs)

/-- Read one line through a queued port at the first cell it holds, with its ECC (R198, R207). -/
def queuedLine (port cc a : Nat) (c : Ctx) : List Byte × Ctx := lineRead c port (nextCell c port (lineBank a) cc) (a / 64 * 64)

/-- Read n bytes from a line boundary through a queued port (R207, R208). -/
def queuedRead (port cc a n : Nat) (c : Ctx) : List Byte × Ctx :=
  (lineParts a n).foldl (fun r q =>
    let x := queuedLine port cc q.1 r.2
    (r.1 ++ slice x.1 (q.1 % 64) q.2, x.2)) ([], c)

/-- Close the open spill bolt: keys and trailer, then the DMA of a memory bolt (R153, Table 5.6); fabric-out refuses one that lies
in a bank in which it holds no cell (R198). -/
def spillClose (bins : Bool) (cc : Nat) (s : Spill) (c : Ctx) : Nat × Ctx :=
  let a := spillAddr s
  let keys := s.recs.flatMap (fun r => toLe 4 (r % 2 ^ 24))
  let tail := keys ++ zeros (124 - keys.length) ++ toLe 4 (s.recs.length + 256)
  let r1 := loomOutAt (max cc (spillFrom s)) (a + 0xF80) (tail.take 64) c
  let r2 := loomOutAt r1.1 (a + 0xFC0) (tail.drop 64) r1.2
  let done := max r2.1 (s.dma.headD 0) + spillDmaCc
  let s1 := { s with bolts := s.bolts + 1, recs := [], dma := if spillIsMem s then done :: s.dma.take 1 else s.dma }
  let c1 := sparseMod r2.2 (fun p => spillSet p bins (some s1))
  if spillIsMem s && !((upto 0 64).all (fun i => holdsBank c1 7 (lineBank (a + 64 * i)))) then
    (r2.1, ctxSig (ctxSig (ctxTile c1 (fun t => storeMod t (fun q => { q with cellRef := satAdd 16 q.cellRef 1 })))
      (.event 0x0153 r2.1 0 [])) (.fail 0x0021 r2.1))
  else if spillIsMem s then
    let d := queuedRead 7 r2.1 a 4096 c1
    let job : OutJob := { op := 0, dest := 0, sAddr := a, addr := s.memBase + s.bolts + 3 - s.ovfBolts
                          job := d.2.t.dma.nextJob, data := d.1, ent := tallyEnt d.2.t (a / 4096) }
    (r2.1, ctxTile d.2 (fun t => { t with dma := { t.dma with
      fout := t.dma.fout ++ [job]
      nextJob := t.dma.nextJob + 1
      jobs := t.dma.jobs ++ [{ id := t.dma.nextJob, op := 0, group := b2n bins, left := 16, spill := true }] } }))
  else (r2.1, c1)

/-- Close a target's open bolt if it holds a record. -/
def spillFlush (bins : Bool) (cc : Nat) (c : Ctx) : Nat × Ctx :=
  match spillAt c.t.sparse bins with
  | some s => if s.recs.isEmpty then (cc, c) else spillClose bins cc s c
  | none => (cc, c)

/-- Append a record to a target's spill stream (R153); the second part is false when no bolt is left for it (R155). -/
def spillPut (bins : Bool) (cc key : Nat) (vals : List Word) (c : Ctx) : Nat × Bool × Ctx :=
  match spillAt c.t.sparse bins with
  | none => (cc, false, c)
  | some s =>
    if spillFull s then (cc, false, c)
    else
      let a := spillAddr s + 128 * s.recs.length
      let bs := vals.flatMap (fun w => toLe 4 w.toNat)
      let r1 := loomOutAt (max cc (spillFrom s)) a (bs.take 64) c
      let r2 := loomOutAt r1.1 (a + 64) (bs.drop 64) r1.2
      let s1 := { s with recs := s.recs ++ [key] }
      let c1 := sparseMod r2.2 (fun p => { spillSet p bins (some s1) with
        spillMem := if spillIsMem s then satAdd 16 p.spillMem 1 else p.spillMem
        spillStore := if spillIsMem s then p.spillStore else satAdd 16 p.spillStore 1 })
      if s1.recs.length == 31 then let r3 := spillClose bins r2.1 s1 c1; (r3.1, true, r3.2) else (r2.1, true, c1)

/-! ## The granary and the bins (R151 to R157) -/

/-- The granary bank of a key (R151). -/
def granBank (salt key : Nat) : Nat := (Nat.xor key salt * 0x9E3779B1 % 2 ^ 32) / 2 ^ 29

/-- The slots of a bank that hold a key, and its free slots. -/
def granSlots (p : Sparse) (b : Nat) (want : Option GranSlot → Bool) : List Nat :=
  ((upto (16 * b) 16).filter (fun i => want (kvGet none p.gran i)))

/-- Add a row of values to others, element by element, RNE (R89); a NaN made names the granary or bins (R104), and the cc in which
the bank takes the row (DESIGN CHOICE, assumption 56). -/
def addRow (f : Fired) (cc : Nat) (old new : List Word) (c : Ctx) : List Word × Ctx :=
  (old.zip new).foldl (fun r q =>
    let x := flAdd (ofFp32 q.1) (ofFp32 q.2)
    (r.1 ++ [toFp32 false x],
      if madeNaN [ofFp32 q.1, ofFp32 q.2] x then nanProduced r.2 f.modes 5 0 1 f.step f.descIdx cc else r.2)) ([], c)

/-- What a scatter pass needs of its descriptor. -/
structure ScCfg where
  f : Fired
  r : Nat
  form : Nat
  bins : Bool
  salt : Nat
  keyBase : Nat
  stopCc : Option Nat
  ups : List (Nat × Nat × Word)

/-- A partial row on its way (R147): the cc it enters its queue, its segment, key and values. -/
structure ScPart where
  due : Nat
  seg : Nat
  key : Nat
  vals : List Word

/-- A group of the compressed stream: its vector, its (row, element) entries, and the first and last line of its segment
that they lie in. -/
structure ScGroup where
  m : Nat
  ents : List (Nat × Nat)
  first : Nat
  last : Nat

/-- The scatter unit in one cc: what each segment has left and when it is free, the rows on their way, the queues of
the target's banks (of the bins, of its bank pairs), the additions in flight, the cc after the last update, the next cc to run;
`outAt` is the first cc in which the loom-out port is free, `spillAt` the cc after the last spill write; `supply` says that loom-in
holds every slot of the stream's banks, `from0` the cc from which the block's lines are fetched, `lines` are the
addresses of the segments' lines still to be fetched and `got` how many each has fetched, `turn` the segment the loom-in port
serves first. `full` holds one more than the cc in which the spill stream had no bolt left, `ended` says that a first-NaN stop
ended the pass (R165). -/
structure ScSim where
  c : Ctx
  segs : List (List ScGroup × Nat)
  issued : List Nat
  flight : List ScPart := []
  queues : List (List ScPart)
  adds : List (Nat × Nat × Nat) := []
  outAt : Nat := 0
  spillAt : Nat := 0
  lastUpd : Nat := 0
  now : Nat
  supply : Bool := false
  from0 : Nat := 0
  lines : List (List Nat) := []
  got : List Nat := []
  turn : Nat := 0
  full : Nat := 0
  ended : Bool := false

/-- The queue a key goes to: its bank in the granary, its bank pair in the bins (R151, R156). -/
def scQueue (g : ScCfg) (key : Nat) : Nat := if g.bins then key % 8 else granBank g.salt key

/-- Must the head row of a queue spill (R151, R156)? -/
def scSpills (g : ScCfg) (b : Nat) (p : ScPart) (c : Ctx) : Bool :=
  if g.bins then decide (512 ≤ p.key)
  else (granSlots c.t.sparse b (fun o => match o with | some s => s.key == p.key | none => true)).isEmpty

/-- The tracked lines of a bins row (R369): two banks hold its halves. -/
def binsLines (row : Nat) : List Nat := [9216 + 128 * (row % 8) + row / 8, 9280 + 128 * (row % 8) + row / 8]

/-- The tracked lines of a granary slot. -/
def granLines (i : Nat) : List Nat := upto (10240 + 4 * i) 4

/-- Process the head row of a queue (R151, R153, R156): add, allocate or spill; false when the spill stream is full. -/
def scAccept (g : ScCfg) (cc b : Nat) (p : ScPart) (c : Ctx) (outAt : Nat) : Nat × Bool × Ctx :=
  if g.bins then
    if 512 ≤ p.key then spillPut true (max cc outAt) p.key p.vals c
    else
      let old := (upto (32 * p.key) 32).map (fun i => kvGet 0 c.t.sparse.bins i)
      let r := addRow g.f cc old p.vals c
      (outAt, true, sparseMod (ctxTile r.2 (touchTile (binsLines p.key))) (fun s => { s with
        bins := r.1.zipIdx.foldl (fun m q => kvSet 0 m (32 * p.key + q.2) q.1) s.bins }))
  else
    match granSlots c.t.sparse b (fun o => match o with | some s => s.key == p.key | none => false) with
    | i :: _ =>
      let old := match kvGet none c.t.sparse.gran i with | some s => s.vals | none => []
      let r := addRow g.f cc old p.vals c
      (outAt, true, sparseMod (ctxTile r.2 (touchTile (granLines i))) (fun s => { s with gran := kvSet none s.gran i (some ⟨p.key, r.1⟩) }))
    | [] =>
      match granSlots c.t.sparse b (fun o => o.isNone) with
      | i :: _ => (outAt, true, sparseMod (ctxTile c (touchTile (granLines i))) (fun s => { s with gran := kvSet none s.gran i (some ⟨p.key, p.vals⟩) }))
      | [] => spillPut false (max cc outAt) p.key p.vals c

/-- One bank's turn in a cc: it takes the head of its queue unless an addition to the same entry is in flight, or the
row must spill while the loom-out port still writes an earlier spill (R152, R154). A row for which the spill stream has no
bolt left is lost, and the pass stops issuing (R155, R164); a first-NaN stop ends it (R165). -/
def scBank (g : ScCfg) (cc b : Nat) (s : ScSim) : ScSim :=
  match (s.queues.drop b).headD [] with
  | [] => s
  | p :: rest =>
    let spills := scSpills g b p s.c
    if s.adds.any (fun a => a.1 == b && a.2.1 == p.key && cc < a.2.2) || (spills && cc < s.outAt) then s
    else
      let r := scAccept g cc b p s.c s.outAt
      if r.2.1 then
        { s with c := r.2.2, outAt := r.1, queues := s.queues.set b rest
                 spillAt := if spills then max s.spillAt r.1 else s.spillAt
                 lastUpd := if spills then s.lastUpd else max s.lastUpd (cc + 5)
                 adds := (if spills then [] else [(b, p.key, cc + 4)]) ++ s.adds.filter (fun a => cc < a.2.2)
                 ended := s.ended || nanStopped r.2.2 }
      else { s with queues := s.queues.set b rest, full := if s.full == 0 then cc + 1 else s.full }

/-- The passes of a group: activation piece and weight set of each (R110, R148). `hi` is the active set, `lo` the idle. -/
def scPasses (g : ScCfg) (hi lo : WSet) (e : Nat) : List (Fl × WSet × Bool × Bool) :=
  let aHi := flDecode .bf16 (e % 65536)
  let aLo := flDecode .bf16 (e / 65536 % 65536)
  match g.form with
  | 2 => [(aLo, hi, true, false), (aHi, hi, false, false)]
  | 3 => [(aLo, hi, true, false), (aHi, lo, false, true), (aHi, hi, false, false)]
  | _ => [(flDecode (fmtD (fld g.f.desc 1 1)) e, hi, false, hi.lo)]

/-- The passes of a scatter form. -/
def scCount (g : ScCfg) : Nat := if g.form == 1 then 1 else g.form

/-- The exact sum of a group's products in one pass and one column (R146), with the upset that strikes it; `per` are the
group's rows with the passes of their entries, `key` the upset's place: 2^16 pass + 256 block + 32 segment + vector. -/
def scSum (g : ScCfg) (used : Nat) (per : List (Nat × List (Fl × WSet × Bool × Bool))) (key i n : Nat) : Word × Bool :=
  let x := termSum (per.map (fun q => match (q.2.drop i).head? with
    | some w => loomTerm (g.form != 1 || fld g.f.desc 1 1 == 3) w.2.2.1 w.2.2.2 w.1 (wAt w.2.1 used q.1 n)
    | none => (.fin false 0 0, false)))
  (toFp32 false x.1 ^^^ upsetOf g.ups (65536 * i + key) n, x.2)

/-- The partial-row value of one column: the passes' rounded sums added in order (R148), and whether a NaN was produced. -/
def scValue (sums : List (Word × Bool)) : Word × Bool :=
  match sums with
  | [] => (0, false)
  | x :: xs => xs.foldl (fun r y =>
      (addRne r.1 y.1, r.2 || y.2 || madeNaN [ofFp32 r.1, ofFp32 y.1] (flAdd (ofFp32 r.1) (ofFp32 y.1)))) x

/-- Cycles from a group's issue to its partial row (Table 5.5). -/
def scForm (g : ScCfg) : Nat := if g.form == 3 then 8 else if g.form == 2 then 6 else if g.r == 2 then 4 else 3

/-- The partial row of a group and its checks (R146, R148, R149). -/
def scRow (g : ScCfg) (block seg m cc : Nat) (ents : List (Nat × Nat)) (c : Ctx) : List Word × Ctx :=
  let mulCc := cc + 2
  let act := activeAt c.t.loom mulCc
  let hi := setAt c.t.loom act mulCc
  let lo := setAt c.t.loom (!act) mulCc
  let used := loomUsed c.t
  let formed := cc + scForm g
  let per := ents.map (fun en => (4 * seg + en.1, scPasses g hi lo en.2))
  let key := 256 * block + 32 * seg + m
  let vals := (upto 0 32).map (fun n => scValue ((upto 0 (scCount g)).map (fun i => scSum g used per key i n)))
  let c1 := vals.zipIdx.foldl (fun c q =>
    if q.1.2 then nanProduced c g.f.modes 1 q.2 1 g.f.step g.f.descIdx formed else c) c
  let row := vals.map (fun q => q.1)
  if !(checkOn c.t) then (row, c1)
  else
    (row, (upto 0 (scCount g)).foldl (fun c i =>
      match (per.head?.bind (fun q => (q.2.drop i).head?)) with
      | none => c
      | some w =>
        let a := per.map (fun q => ((q.2.drop i).head?.map (fun x => x.1)).getD (.fin false 0 0))
        checkApply c (checkFp w.2.1 used a w.2.2.1 (per.map (fun q => q.1))
            ((upto 0 32).map (fun n => (scSum g used per key i n).1)) (scSum g 32 per key i 32).1)
          g.f.step g.f.descIdx (32 * seg + m) (formed + i + b2n (scCount g == 1))) c1)

/-- Cycles from a group's issue to its target queue (Table 5.5). -/
def scToQueue (g : ScCfg) : Nat := if g.form == 3 then 9 else if g.form == 2 then 7 else if g.r == 2 then 5 else 4

/-- The final latency of Table 5.5. -/
def scLambda (g : ScCfg) : Nat := scToQueue g + 4

/-- One segment's turn in a cc of block b: issue its next group if it ends by `last`, its entries are there and its
target queue has room; else a stall is counted (R150, R161). Rows still in the pipeline count toward the 8 entries of their queue
(DESIGN CHOICE, assumption 56). -/
def scSeg (g : ScCfg) (cc block last seg : Nat) (s : ScSim) : ScSim :=
  match (s.segs.drop seg).headD ([], 0) with
  | ([], _) => s
  | (gr :: rest, free) =>
    if cc < free || last < cc + g.r - 1 || s.full != 0 || s.ended then s
    else
      let key := (if g.bins then g.keyBase % 512 + 32 * block + gr.m else (g.keyBase + 32 * block + gr.m) % 2 ^ 24)
      let q := scQueue g key
      let room := ((s.queues.drop q).headD []).length + (s.flight.filter (fun p => scQueue g p.key == q)).length < 8
      let supplied := s.supply && cc < s.c.guardCc
      if !room || (!supplied && (s.got.drop seg).headD 0 ≤ gr.last) then
        { s with c := sparseMod s.c (fun p => { p with stall := satAdd 32 p.stall 1 }) }
      else
        let r := scRow g block seg gr.m cc gr.ents s.c
        { s with
          c := r.2
          segs := s.segs.set seg (rest, cc + g.r)
          issued := s.issued.set seg ((s.issued.drop seg).headD 0 + 1)
          flight := s.flight ++ [{ due := cc + scToQueue g, seg := seg, key := key, vals := r.1 }]
          ended := nanStopped r.2 }

/-- May a segment take a further line into its buffer of two (R150): one is left to fetch, and its next group has not more
than one fetched line before that one? -/
def scRoom (s : ScSim) (seg : Nat) : Bool :=
  match (s.segs.drop seg).headD ([], 0) with
  | (gr :: _, _) => !((s.lines.drop seg).headD []).isEmpty && (s.got.drop seg).headD 0 < gr.first + 2
  | ([], _) => false

/-- The loom-in port's access of a cc (R150): the first segment, in turn after the one served last, that has room and whose
next line lies in a cell the port holds. The turn: DEDUCED, assumption 17. -/
def scFetch (cc : Nat) (s : ScSim) : ScSim :=
  if s.supply || cc < s.from0 then s
  else match (upto 0 8).find? (fun k =>
      let sg := (s.turn + k) % 8
      scRoom s sg && cellHolder s.c (lineBank (((s.lines.drop sg).headD []).headD 0)) cc == 1) with
    | none => s
    | some k =>
      let sg := (s.turn + k) % 8
      { s with
        lines := s.lines.set sg (((s.lines.drop sg).headD []).drop 1)
        got := s.got.set sg ((s.got.drop sg).headD 0 + 1)
        turn := (sg + 1) % 8 }

/-- One cc of the scatter unit: rows due enter their queues in rising segment order, banks take their heads, segments issue,
and a line arrives for the next cc (R147, R150, R152, R157). The lowest bank is served first, so of rows that spill in one cc it
spills first (DESIGN CHOICE, assumption 56). A first-NaN stop of an earlier cc has ended the pass (R165). -/
def scCc (g : ScCfg) (cc block last : Nat) (s0 : ScSim) : ScSim :=
  let s := { s0 with ended := s0.ended || g.stopCc.any (fun x => x < cc) }
  if s.ended then { s with now := cc + 1 } else
  let due := (upto 0 8).flatMap (fun sg => s.flight.filter (fun p => p.due == cc && p.seg == sg))
  let s1 := { s with
    now := cc + 1
    flight := s.flight.filter (fun p => p.due != cc)
    queues := due.foldl (fun q p => q.set (scQueue g p.key) ((q.drop (scQueue g p.key)).headD [] ++ [p])) s.queues }
  let s2 := (upto 0 8).foldl (fun s b => scBank g cc b s) s1
  scFetch cc ((upto 0 8).foldl (fun s sg => scSeg g cc block last sg s) s2)

/-- Let the rows in flight land after the last issue (`fuel` bounds the wait). -/
def scLand (g : ScCfg) : Nat → ScSim → ScSim
  | 0, s => s
  | n + 1, s =>
    if s.ended || s.c.abort || (s.flight.isEmpty && s.queues.all (fun q => q.isEmpty)) then s
    else scLand g n (scCc g s.now 0 0 { s with segs := [] })

/-- The entries of one segment of a compressed block, cut into groups at their last marks; `i` is the entry's index and
`lineOf` its line. -/
def scGroupsOf (f : Nat) (lineOf : Nat → Nat) : List (List Byte) → Nat → List (Nat × Nat) → List ScGroup
  | [], _, _ => []
  | e :: es, i, acc =>
    let v := leNat e
    let sh := if f == 1 || f == 2 then 8 else if f == 6 then 32 else 16
    let val := v % 2 ^ sh
    let m := v / 2 ^ sh % 32
    let row := v / 2 ^ (sh + 5) % 4
    let lastE := v / 2 ^ (sh + 7) % 2 == 1
    let acc1 := acc ++ [(row, val)]
    if lastE then
      { m := m, ents := acc1, first := lineOf (i - acc.length), last := lineOf i } :: scGroupsOf f lineOf es (i + 1) []
    else scGroupsOf f lineOf es (i + 1) acc1

/-- Cut a byte list into pieces of n bytes. -/
def chunks (n : Nat) : Nat → List Byte → List (List Byte)
  | 0, _ => []
  | k + 1, bs => bs.take n :: chunks n k (bs.drop n)

/-- A compressed block as the scatter unit takes it: the groups and the line addresses of its segments, its length, the cc after
the read of its header, and whether loom-in holds every slot of its banks. -/
structure ScBlock where
  groups : List (List ScGroup)
  lines : List (List Nat)
  len : Nat
  ready : Nat
  supply : Bool
  c : Ctx

/-- Does loom-in hold every slot of a bank (R150)? -/
def loomInAll (c : Ctx) (b : Nat) : Bool := (upto 0 16).all (fun w => mapHolder c.t.store.mem c.t.actBank b w == 1)

/-- A block that cannot be read: the tile stops (R197). -/
def scNoBlock (c : Ctx) (cc : Nat) : ScBlock :=
  { groups := [], lines := [], len := 0, ready := cc, supply := false, c := ctxViolate c cc }

/-- Read a compressed block's header in the first cell of loom-in, and the bytes of its entries (R144, R150). A line in whose bank
the port holds no cell stops the tile (R197). -/
def scBlock (g : ScCfg) (c : Ctx) (start addr : Nat) : ScBlock :=
  let f := fld g.f.desc 1 1
  let hc := nextCell c 1 (lineBank addr) start
  if cellHolder c (lineBank addr) hc != 1 then scNoBlock c hc
  else
    let h := lineRead c 1 hc addr
    let n := fun (s : Nat) => fld h.1 (8 + 2 * s) 2
    let lines := (upto 0 8).map (fun s =>
      (upto 0 ((n s * entrySize f + 63) / 64)).map (fun i => addr + fld h.1 (0x18 + 2 * s) 2 + 64 * i))
    if !(lines.all (fun l => l.all (fun a => holdsBank c 1 (lineBank a)))) then scNoBlock h.2 (hc + 1)
    else
      let segs := lines.zipIdx.foldl (fun (r : List (List ScGroup) × Ctx) q =>
        let x := q.1.foldl (fun (k : List Byte × Ctx) a => let y := lineRead k.2 1 hc (a / 64 * 64); (k.1 ++ y.1, y.2)) ([], r.2)
        (r.1 ++ [scGroupsOf f (fun i => i * entrySize f / 64) (chunks (entrySize f) (n q.2) x.1) 0 []], x.2)) ([], h.2)
      { groups := segs.1, lines := lines, len := fld h.1 0x28 2, ready := hc + 1, c := segs.2
        supply := loomInAll c (lineBank addr) && lines.all (fun l => l.all (fun a => loomInAll c (lineBank a))) }

/-- The cc after which a first-NaN stop that the tile has already met ends its scatter passes (R106, R165). -/
def scStopCc (c : Ctx) : Option Nat :=
  if c.t.stop == some .nanTrap then some (if fld c.t.num.nanRec 8 8 == c.bell % 2 ^ 48 then fld c.t.num.nanRec 0x10 4 else 0)
  else none

/-- The configuration of a scatter descriptor. -/
def scCfgOf (f : Fired) (ups : List (Nat × Nat × Word)) (c : Ctx) : ScCfg :=
  let d := f.desc
  let a := fld d 1 1
  let form := if a == 6 then (if bitAt (fld d 3 1) 2 then 3 else 2) else 1
  { f := f, form := form, r := if form == 3 then 6 else if form == 2 then 4 else if a == 3 || a == 4 then 2 else 1
    bins := bitAt (fld d 3 1) 1, salt := fld d 0x16 2, keyBase := fld d 0xC 4, ups := ups, stopCc := scStopCc c }

/-- Run the cc of one block (R161): overhead 5 cc, then issue until `stop` cc have passed or every group is issued. -/
def scRun (g : ScCfg) (block last : Nat) (untilDone : Bool) : Nat → Nat → ScSim → Nat × ScSim
  | 0, cc, s => (cc, s)
  | n + 1, cc, s =>
    if s.full != 0 || s.ended || (untilDone && s.segs.all (fun q => q.1.isEmpty && q.2 ≤ cc)) || last < cc then (cc, s)
    else scRun g block last untilDone n (cc + 1) (scCc g cc block last s)

/-- Begin a block in the unit: each segment waits out the overhead of 5 cc and the read of the header, skipping the groups it
issued before. -/
def scBegin (s : ScSim) (b : ScBlock) (cc : Nat) (skip : Nat → Nat) : ScSim :=
  let segs := b.groups.zipIdx.map (fun q => (q.1.drop (skip q.2), max (cc + 5) b.ready))
  { s with
    c := b.c, segs := segs, issued := List.replicate 8 0, supply := b.supply, from0 := b.ready
    lines := b.lines.zipIdx.map (fun q => q.1.drop ((((segs.drop q.2).headD ([], 0)).1.head?.map (fun x => x.first)).getD 0))
    got := segs.map (fun q => (q.1.head?.map (fun x => x.first)).getD 0) }

/-- Groups that the segments have not issued. -/
def scLeft (s : ScSim) : Nat := s.segs.foldl (fun n q => n + q.1.length) 0

/-- A density overrun (R164, R165): the event, and of the first in a lot the record of Table 5.11. -/
def overrun (f : Fired) (cause block groups cc : Nat) (c : Ctx) : Ctx :=
  let recd := toLe 2 f.step ++ toLe 1 f.descIdx ++ toLe 1 cause ++ toLe 2 block ++ toLe 2 groups
    ++ toLe 8 (c.bell % 2 ^ 48)
  ctxSig (ctxSig (sparseMod c (fun p => if p.ovrValid then p else { p with ovrValid := true, ovrCause := cause, ovrRec := recd }))
    (.event 0x0152 cc 4 recd)) (.fail 0x0023 cc)

/-- Pairing, and no shuttle load beside a BF16×3 pass, are judged by the fire checks; here a wrong tag stops the pass. -/
def scPairOk (g : ScCfg) (c : Ctx) (cc : Nat) : Bool :=
  let l := c.t.loom
  let tag := (setAt l (activeAt l (cc + 2)) (cc + 2)).tag
  let a := fld g.f.desc 1 1
  if a == 6 then tag == 3 else pairingOk a tag

/-- Write what is whole of the deferral map (R163): the bytes of eight blocks make one line, written through loom-out in
the cc after the block, or in the next cell free. -/
def scMapPut (g : ScCfg) (cc : Nat) (map : List Byte) (lastB : Bool) (s : ScSim) : ScSim :=
  if s.c.abort || s.ended || (map.length % 64 != 0 && !lastB) then s
  else
    let o := (map.length - 1) / 64 * 64
    let r := loomOutAt (max cc s.outAt) (fld g.f.desc 0x10 4 + o) (map.drop o) s.c
    { s with c := r.2, outAt := r.1 }

/-- The blocks of a main pass (R161 to R163): the deferral map's bytes grow by eight a block. After a spill stream that ran
out the blocks left are only counted: the first unfinished one and its groups, with theirs (R164). DESIGN CHOICE, assumption 56: those
groups are not deferred groups of TL_SCAT_DEFER, and what earlier blocks deferred is not in the record. -/
def scMainBlocks (g : ScCfg) (budget : Nat) : List Nat → Nat → Nat → ScSim → List Byte → Option (Nat × Nat) →
    ScSim × Option (Nat × Nat)
  | [], _, _, s, _, o => (s, o)
  | b :: bs, cc, addr, s, map, o =>
    if s.c.abort || s.ended then (s, o)
    else
      let blk := scBlock g s.c cc addr
      let s1 := scBegin s blk cc (fun _ => 0)
      match o with
      | some x =>
        let map1 := map ++ zeros 8
        scMainBlocks g budget bs (cc + budget) (addr + blk.len) (scMapPut g (cc + budget) map1 bs.isEmpty { s1 with segs := [] })
          map1 (some (x.1, x.2 + scLeft s1))
      | none =>
        let r := (scRun g b (cc + budget - 1) false budget cc s1).2
        let map1 := map ++ r.issued.flatMap (toLe 1)
        let s2 := if r.full != 0 then r else { r with c := sparseMod r.c (fun p => { p with defer := satAdd 32 p.defer (scLeft r) }) }
        scMainBlocks g budget bs (cc + budget) (addr + blk.len) (scMapPut g (cc + budget) map1 bs.isEmpty s2)
          map1 (if r.full != 0 then some (b, scLeft r) else none)

/-- The blocks of an overflow pass (R164): the cc, the first unfinished block and the groups left, if the budget or the
spill stream ran out. -/
def scOvfBlocks (g : ScCfg) (lastCc : Nat) (map : List Byte) : List Nat → Nat → Nat → ScSim → Option (Nat × Nat) →
    Nat × ScSim × Option (Nat × Nat)
  | [], cc, _, s, o => (cc, s, o)
  | b :: bs, cc, addr, s, o =>
    if s.c.abort || s.ended then (cc, s, o)
    else
      let blk := scBlock g s.c cc addr
      let s1 := scBegin s blk cc (fun k => fld map (8 * b + k) 1)
      if scLeft s1 == 0 then scOvfBlocks g lastCc map bs cc (addr + blk.len) { s with c := blk.c } o
      else match o with
        | some x => scOvfBlocks g lastCc map bs cc (addr + blk.len) { s with c := blk.c } (some (x.1, x.2 + scLeft s1))
        | none =>
          let r := scRun g b lastCc true (lastCc + 1 - cc) cc s1
          scOvfBlocks g lastCc map bs r.1 (addr + blk.len) r.2
            (if scLeft r.2 == 0 && r.2.full == 0 then none else some (b, scLeft r.2))

/-- The start of a simulation. -/
def scStart (cc : Nat) (c : Ctx) : ScSim :=
  { c := c, now := cc, segs := [], issued := List.replicate 8 0, queues := List.replicate 8 [] }

/-- The cc by which a scatter pass has stopped issuing, whatever its data (R161, R164): blocks times the budget, or the
overflow budget. -/
def scBound (f : Fired) : Nat :=
  f.fireCc + (if bitAt (fld f.desc 3 1) 0 then fld f.desc 8 2 else fld f.desc 0xA 2 * fld f.desc 8 2)

/-- The end of a scatter pass: its overrun, if one is due, once the groups in flight have landed, and the cc its target is free
(R159, R164, R165). A first-NaN stop that comes first leaves no overrun. A landing row that exhausts the spill stream after the
budget has ended gives cause 0x3 (DESIGN CHOICE, assumption 56). -/
def scEnd (f : Fired) (target : Nat) (o : Option (Nat × Nat)) (s : ScSim) : Nat × Ctx :=
  let free := max s.lastUpd s.spillAt
  let c1 := match o with
    | some x => if s.ended || nanStopped s.c || s.c.abort then s.c
        else overrun f (if s.full != 0 then 3 else 1) x.1 x.2 (max free (if s.full != 0 then s.full else scBound f)) s.c
    | none => s.c
  (free, ctxTile c1 (fun t => { t with busy := kvSet 0 (kvSet 0 t.busy target free) 22 (max (kvGet 0 t.busy 22) s.spillAt) }))

/-- A main scatter pass (R161 to R163): the cc its target is free, and the tile. A partial bolt that an earlier stream of its
target left open is written first (DESIGN CHOICE, assumption 56). -/
def scatterMain (f : Fired) (ups : List (Nat × Nat × Word)) (c : Ctx) : Nat × Ctx :=
  let g := scCfgOf f ups c
  if !(scPairOk g c f.fireCc) then (f.fireCc, ctxViolate c (f.fireCc + 2))
  else
    let c0 := spillFlush g.bins f.fireCc c
    let c1 := sparseMod c0.2 (fun p => spillSet p g.bins (some (spillOf f.desc)))
    let r := scMainBlocks g (fld f.desc 8 2) (upto 0 (fld f.desc 0xA 2)) f.fireCc (fld f.desc 4 4)
      { scStart f.fireCc c1 with outAt := c0.1, spillAt := if c0.1 == f.fireCc then 0 else c0.1 } [] none
    scEnd f (20 + b2n g.bins) (match r.2 with
      | some x => some x
      | none => if r.1.full != 0 then some (fld f.desc 0xA 2 - 1, 0) else none) (scLand g 65536 r.1)

/-- An overflow pass (R164). The bins' spill stream, which no drain closes, ends with it (DESIGN CHOICE, assumption 56). -/
def scatterOverflow (f : Fired) (ups : List (Nat × Nat × Word)) (c : Ctx) : Nat × Ctx :=
  let g := scCfgOf f ups c
  if !(scPairOk g c f.fireCc) then (f.fireCc, ctxViolate c (f.fireCc + 2))
  else
    let n := fld f.desc 0xA 2
    let map := if (lineParts (fld f.desc 0x10 4) (8 * n)).all (fun q => holdsBank c 2 (lineBank q.1))
      then queuedRead 2 f.fireCc (fld f.desc 0x10 4) (8 * n) c else (zeros (8 * n), ctxViolate c f.fireCc)
    let r := scOvfBlocks g (scBound f - 1) map.1 (upto 0 n) f.fireCc (fld f.desc 4 4) (scStart f.fireCc map.2) none
    let l := scLand g 65536 r.2.1
    let e := if g.bins && !l.ended && !l.c.abort then spillFlush true (max l.lastUpd l.outAt) l.c else (0, l.c)
    let flushed := l.c.t.sparse.spillB.any (fun s => !s.recs.isEmpty)
    scEnd f (20 + b2n g.bins) (match r.2.2 with
      | some x => some x
      | none => if l.full != 0 then some (n - 1, 0) else none) { l with
        c := e.2, spillAt := if flushed then max l.spillAt e.1 else l.spillAt }

/-! ## Drains (R158) -/

/-- The end of an accumulator drain: its target is free from `free` on (R159). -/
def accEnd (target free : Nat) (c : Ctx) : Nat × Ctx :=
  (free, ctxTile c (fun t => { t with busy := kvSet 0 t.busy (20 + target) free }))

/-- The granary drain: every valid slot is appended to the spill stream in (bank, slot) order, then the last partial
bolt is flushed; a stream that runs out of bolts is a memory-spill exhaustion (R155). Without a stream, which no scatter pass
has opened, nothing is written; the record of an exhaustion names block 0 and 0 groups (DESIGN CHOICE, assumption 56). -/
def granDrain (f : Fired) (c : Ctx) : Nat × Ctx :=
  let clear := bitAt (fld f.desc 2 1) 0
  let wipe := fun (i : Nat) (c : Ctx) => if clear then sparseMod (ctxTile c (touchTile (granLines i))) (fun p => { p with gran := kvSet none p.gran i none }) else c
  let r := (upto 0 128).foldl (fun (q : Nat × Bool × Ctx) i =>
    match kvGet none q.2.2.t.sparse.gran i with
    | none => q
    | some s =>
      if !q.2.1 then q
      else if c.t.sparse.spill.isNone then (q.1 + 1, true, wipe i q.2.2)
      else
        let y := spillPut false q.1 s.key s.vals q.2.2
        (y.1, y.2.1, if y.2.1 then wipe i y.2.2 else y.2.2)) (f.fireCc, true, c)
  let e := if r.2.1 then spillFlush false r.1 r.2.2 else (r.1, overrun f 3 0 0 r.1 r.2.2)
  let z := accEnd 0 e.1 e.2
  (z.1, ctxTile z.2 (fun t => { t with busy := kvSet 0 t.busy 22 (max (kvGet 0 t.busy 22) e.1) }))

/-- The first free cc of a drain's target as its descriptor gives it: of a granary drain, whose length its rows give, the earliest
(R158, R159). -/
def accFree (f : Fired) : Nat :=
  let d := f.desc
  let n := fld d 0xC 2
  if fld d 1 1 == 0 then f.fireCc + 1
  else if bitAt (fld d 2 1) 1 then f.fireCc + 64
  else binsReadCc f (n - 1) + 2 + lineCount (fld d 4 4 + (n - 1) * fld d 8 2) (entryBytes (fld d 3 1))

/-- The bins drain: each row is converted through loom-out and written at the pacing of R128 (R158). -/
def binsDrain (f : Fired) (c : Ctx) : Nat × Ctx :=
  let d := f.desc
  let o := fld d 3 1
  let n := fld d 0xC 2
  let rnd := descRnd f.modes (fld d 0xE 1)
  let c1 := (upto 0 n).foldl (fun (k : Option (List Byte) × Ctx) j =>
    if k.2.abort then k
    else
      let row := fld d 0xA 2 + j
      let cc := binsReadCc f j
      let draw := fun (n : Nat) => if drainDraws f then srValue f k.2 n j cc else 0
      let r := (upto 0 32).foldl (fun (a : List Byte × Ctx) k =>
        let y := convElem a.2 f.modes rnd (fmtD o) (BitVec.ofNat 32 (fld d 0x10 4)) (fld d 0xF 1) k 2 f.step f.descIdx
          cc (draw k) (ofFp32 (kvGet 0 a.2.t.sparse.bins (32 * row + k)))
        (a.1 ++ toLe (fmtBytes (fmtD o)) y.1, y.2)) ([], k.2)
      let c2 := if bitAt (fld d 2 1) 0 then
          sparseMod (ctxTile r.2 (touchTile (binsLines row))) (fun p => { p with bins := p.bins.filter (fun e => e.1 / 32 != row) }) else r.2
      accEntryPut (cc + 2) (fld d 4 4 + j * fld d 8 2) (fld d 8 2 == 32 && j + 1 < n) k.1 r.1 c2) (none, c)
  accEnd 1 (accFree f) (srSettle f c1.2)

/-- The clear-only drain: the granary in 1 cc, the bins in 64 cc (R158). -/
def accClear (f : Fired) (c : Ctx) : Nat × Ctx :=
  if fld f.desc 1 1 == 0 then accEnd 0 (accFree f) (sparseMod (ctxTile c (touchTile (upto 10240 512))) (fun p => { p with gran := [] }))
  else accEnd 1 (accFree f) (sparseMod (ctxTile c (touchTile (upto 9216 1024))) (fun p => { p with bins := [] }))

end Sys2Proof.Machine
end

