-- ==== Sys2Proof/Machine/Fuller.lean ====
section
/-! DEFINITION. The fuller and its reduction unit (spec/06_fuller.md). Readings of the engine rules: DEDUCED, assumption 17. -/

namespace Sys2Proof.Machine

/-- Change the fuller. -/
def fullerMod (c : Ctx) (f : Fuller → Fuller) : Ctx := ctxTile c (fun t => { t with fuller := f t.fuller })

/-- 1.0 and 0.0 as FP32. -/
def fpBool (b : Bool) : Word := if b then 0x3F800000#32 else 0#32

/-- The signed integer of a word. -/
def wInt (w : Word) : Int := w.toInt

/-- An integer result under INT_SAT (R100). -/
def intResult (sat : Bool) (i : Int) : Word :=
  if sat then (if 2147483647 < i then 0x7FFFFFFF#32 else if i < -2147483648 then 0x80000000#32 else BitVec.ofInt 32 i)
  else BitVec.ofInt 32 i

/-- Is x a power of two? Its exponent. -/
def pow2Exp : Fl → Option Int
  | .fin false m e => if m != 0 && m == 2 ^ m.log2 then some ((m.log2 : Int) + e) else none
  | _ => none

/-- Is x an integer? -/
def flInteger : Fl → Option Int
  | .fin s m e =>
    if m == 0 then some 0
    else if 0 ≤ e then some (if s then -(m * 2 ^ e.toNat : Nat) else (m * 2 ^ e.toNat : Nat))
    else if m % 2 ^ (-e).toNat == 0 then
      some (if s then -((m / 2 ^ (-e).toNat : Nat) : Int) else (m / 2 ^ (-e).toNat : Nat))
    else none
  | _ => none

/-- The exact and special results of Table 6.7 and R96, R176, R177, and SQRT's correctly rounded one; none where the
table leaves the bits inside its error bound. `o` is the overflow result of the rounding mode. -/
def fnExact (op : Nat) (rtz : Bool) (x y : Fl) : Option Fl :=
  let big : Fl := if rtz then ofFp32 0x7F7FFFFF#32 else .inf false
  match op, x with
  | 0x15, _ => (match x, y with
    | .fin _ m _, .fin _ n _ => if m == 0 || n == 0 then some (flDiv x y) else none
    | _, _ => some (flDiv x y))
  | _, .nan => some .nan
  | 0x16, _ => some (flSqrt x)
  | 0x10, .inf s => some (if s then .fin false 0 0 else .inf false)
  | 0x11, .inf s => some (if s then .fin false 0 0 else .inf false)
  | 0x12, .inf s => some (if s then .nan else .inf false)
  | 0x13, .inf s => some (if s then .nan else .inf false)
  | 0x14, .inf s => some (.fin s 0 0)
  | 0x17, .inf s => some (if s then .nan else .fin false 0 0)
  | 0x18, .inf s => some (.fin s 1 0)
  | 0x19, .inf s => some (if s then .fin false 0 0 else .fin false 1 0)
  | 0x1A, .inf s => some (.fin s 1 0)
  | 0x1B, .inf s => some (if s then .fin true 0 0 else .inf false)
  | 0x1C, .inf s => some (if s then .fin true 0 0 else .inf false)
  | _, .inf _ => some .nan
  | 0x10, .fin s m e =>
    if m == 0 then some (.fin false 1 0)
    else if !s && magLt 887228 0 (m * 10000) e then some big else none
  | 0x11, .fin s m e =>
    if m == 0 then some (.fin false 1 0)
    else match flInteger (.fin s m e) with
      | some i => if 128 ≤ i then some big else if -149 ≤ i then some (.fin false 1 i) else none
      | none => if !s && magLt 128 0 m e then some big else none
  | 0x12, .fin s m e =>
    if m == 0 then some (.inf true) else if s then some .nan
    else if pow2Exp (.fin s m e) == some 0 then some (.fin false 0 0) else none
  | 0x13, .fin s m e =>
    if m == 0 then some (.inf true) else if s then some .nan
    else (pow2Exp (.fin s m e)).map flOfInt
  | 0x14, .fin s m _ => if m == 0 then some (.inf s) else none
  | 0x17, .fin s m _ => if m == 0 then some (.inf s) else if s then some .nan else none
  | 0x19, .fin _ _ _ => none
  | 0x1E, .fin _ _ _ => none
  | _, .fin s m _ => if m == 0 then some (.fin s 0 0) else none

/-- One stage operation on a lane (Table 6.6, R174 to R178): the result, and whether it is a produced NaN. `r` is the
lane's draw for a conversion under SR. SEL takes b where c is plus or minus zero as FP32 (DESIGN CHOICE, assumption 56). -/
def stageOp (op : Nat) (modes : Word) (a b c : Word) (r : Nat) : Word × Bool :=
  let rtz := arithRtz modes
  let sat := intSat modes
  let fa := ofFp32 a
  let fb := ofFp32 b
  let fc := ofFp32 c
  let arith := fun (x : Fl) (ops : List Fl) => (toFp32 rtz x, madeNaN ops x)
  match op with
  | 0x01 => arith (flAdd fa fb) [fa, fb]
  | 0x02 => arith (flAdd fa (flNeg fb)) [fa, fb]
  | 0x03 => arith (flMul fa fb) [fa, fb]
  | 0x04 => arith (flAdd (flMul fa fb) fc) [fa, fb, fc]
  | 0x05 => arith (flAdd (flNeg (flMul fa fb)) fc) [fa, fb, fc]
  | 0x06 => (toFp32 false (flMax fa fb), false)
  | 0x07 => (toFp32 false (flMin fa fb), false)
  | 0x08 => (toFp32 false (flAbs fa), false)
  | 0x09 => (toFp32 false (flNeg fa), false)
  | 0x0A => (fpBool (flLtNum fb fa), false)
  | 0x0B => (fpBool (!(flIsNaN fa) && !(flIsNaN fb) && !(flLtNum fa fb)), false)
  | 0x0C => (fpBool (!(flIsNaN fa) && !(flIsNaN fb) && !(flLtNum fa fb) && !(flLtNum fb fa)), false)
  | 0x0D => (if c.toNat % 2 ^ 31 == 0 then b else a, false)
  | 0x0E => (toFp32 false (flMin (flMax fa fb) fc), false)
  | 0x0F => (a, false)
  | 0x20 => (intResult sat (wInt a + wInt b), false)
  | 0x21 => (intResult sat (wInt a - wInt b), false)
  | 0x22 => (intResult sat (wInt a * wInt b), false)
  | 0x23 => (if wInt a < wInt b then b else a, false)
  | 0x24 => (if wInt b < wInt a then b else a, false)
  | 0x25 => (a &&& b, false)
  | 0x26 => (a ||| b, false)
  | 0x27 => (a ^^^ b, false)
  | 0x28 => (a <<< (b.toNat % 32), false)
  | 0x29 => (a.sshiftRight (b.toNat % 32), false)
  | 0x2A => (a >>> (b.toNat % 32), false)
  | 0x2B => (if wInt a < wInt b then 1 else 0, false)
  | 0x30 => (BitVec.ofNat 32 (convert .fp32 (convRnd modes) true r (flOfInt (wInt a))).bits, false)
  | 0x31 => (BitVec.ofNat 32 (convert .int32 (convRnd modes) true r fa).bits, false)
  | _ => match fnExact op rtz fa fb with
    | some x => (toFp32 rtz x, madeNaN (if op == 0x15 then [fa, fb] else [fa]) x)
    | none => (fnValue op rtz a b, false)

/-- What one lane of one vector reads (Table 6.5). -/
structure LaneIn where
  a : Word
  b : Word
  idx : Nat

/-- An operand of a stage (Table 6.5). -/
def laneSrc (f : Fired) (x : LaneIn) (w : List Byte) (prev : List Word) (src : Nat) : Word :=
  match src with
  | 1 => x.a
  | 2 => x.b
  | 3 => BitVec.ofNat 32 (fld w 4 4)
  | 4 => BitVec.ofNat 32 x.idx
  | 5 => f.res0
  | 6 => f.res1
  | 0 => 0
  | s => (prev.drop (s - 8)).headD 0

/-- One lane of one vector through the chain (R173): every stage's output, and the stages that produced a NaN. -/
def laneRun (f : Fired) (x : LaneIn) (draw : Nat → Nat) (flip : Nat → Word) : List Word × List Nat :=
  (upto 0 (fld f.desc 0x17 1)).foldl (fun (r : List Word × List Nat) k =>
    let w := stageWord f.chain k
    let g := laneSrc f x w r.1
    let y := stageOp (fld w 0 1) f.modes (g (bits (fld w 1 1) 3 0)) (g (bits (fld w 1 1) 7 4)) (g (bits (fld w 2 1) 3 0))
      (draw k)
    (r.1 ++ [y.1 ^^^ flip k], if y.2 then r.2 ++ [k] else r.2)) ([], [])

/-- Convert one source element to its lane value (R169, R181). -/
def inElem (fmt : Nat) (scale : Word) (e : Nat) : Word :=
  if fmt == 5 then BitVec.ofInt 32 (sInt 8 e)
  else if fmt == 7 then BitVec.ofNat 32 e
  else
    let x := flDecode (fmtD fmt) e
    if scale = 0x3F800000#32 then toFp32 false x
    else match x with
      | .fin s m _ => if m == 0 then toFp32 false (.fin s 0 0) else toFp32 false (flMul x (ofFp32 scale))
      | _ => toFp32 false x

/-- The element encodings of a packed MX vector: w-bit fields from bit 0 upward (R184). -/
def mxUnpack (w : Nat) (bs : List Byte) : List Nat :=
  let n := leNat bs
  (upto 0 32).map (fun i => n / 2 ^ (w * i) % 2 ^ w)

/-- Pack MX elements (R184). -/
def mxPack (w : Nat) (es : List Nat) : List Byte :=
  toLe (4 * w) (es.zipIdx.foldl (fun n q => n + q.1 * 2 ^ (w * q.2)) 0)

/-- A stream reader's place: the last line read, so that vectors that share an access read it once (R170). -/
abbrev LineCache := Option (Nat × List Byte)

/-- Read bytes line by line through a timed port; a line just read is not read again. `ccOf` gives each line's cc. -/
def cachedRead (port : Nat) (ccOf : Nat → Nat → Nat) (a n : Nat) (cache : LineCache) (c : Ctx) :
    List Byte × LineCache × Ctx :=
  (lineParts a n).zipIdx.foldl (fun (r : List Byte × LineCache × Ctx) q =>
    let line := q.1.1 / 64 * 64
    match r.2.1 with
    | some k =>
      if k.1 == line then (r.1 ++ (k.2.drop (q.1.1 % 64)).take q.1.2, r.2.1, r.2.2)
      else
        let x := timedRead r.2.2 port (ccOf q.2 line) line 64
        (r.1 ++ (x.1.drop (q.1.1 % 64)).take q.1.2, some (line, x.1), x.2)
    | none =>
      let x := timedRead r.2.2 port (ccOf q.2 line) line 64
      (r.1 ++ (x.1.drop (q.1.1 % 64)).take q.1.2, some (line, x.1), x.2)) ([], cache, c)

/-- The cc of the i-th access of vector j (R170): its last access at the bound of R170; an access that several packed
vectors share falls at the bound of the last vector it carries. -/
def inCc (f : Fired) (addr vec stride j : Nat) (i line : Nat) : Nat :=
  let v := fulInterval f
  let vecs := (fulN f + 31) / 32
  let bound := fun j => f.fireCc + fulD f + j * v + v - 1
  if vec ≤ 32 && stride == vec then bound (min (vecs - 1) ((line + 63 - addr) / vec))
  else bound j - (lineCount (addr + j * stride) vec - 1) + i

/-- The line of MX scale bytes that vector j of an import needs, unless it stands in the cache (R170): read through the A port
in the latest spare cc, in which the port holds the cell, before the first data of the line's blocks. -/
def mxScaleLine (f : Fired) (addr j : Nat) (cache : LineCache) (c : Ctx) : List Byte × Ctx :=
  let a := fulY f + j
  let line := a / 64 * 64
  let read := fun (_ : Unit) =>
    let v := fulInterval f
    let vec := fulVec (fld f.desc 1 1)
    let vecs := (fulN f + 31) / 32
    let data := inCc f addr vec vec j 0 ((addr + j * vec) / 64 * 64)
    let cc := ((upto 1 (min 64 (data - f.fireCc))).find? (fun k => cellHolder c (lineBank a) (data - k) == 3
      && !(packedAccess addr vec vecs (f.fireCc + fulD f + v - 1) v (data - k)))).getD 1
    timedRead c 3 (data - cc) line 64
  match cache with
  | some k => if k.1 == line then (k.2, c) else read ()
  | none => read ()

/-- Read vector j of an input stream as 32 lane values; `sc` holds the line of MX scale bytes read last. -/
def inVec (f : Fired) (port fmt addr stride : Nat) (scale : Word) (j : Nat) (cache sc : LineCache) (c : Ctx) :
    List Word × LineCache × LineCache × Ctx :=
  let vec := fulVec fmt
  let c0 := if fulIsMx fmt then mxScaleLine f addr j sc c else ([], c)
  let r := cachedRead port (inCc f addr vec stride j) (addr + j * stride) vec
    (if vec ≤ 32 && stride == vec then cache else none) c0.2
  if fulIsMx fmt then
    let mf := mxFmt fmt
    ((mxUnpack (fmtBits mf) r.1).map (fun e =>
      let x := mxImport mf (fld c0.1 ((fulY f + j) % 64) 1) e
      toFp32 false (match x with
        | .fin s m e => if m == 0 then .fin s 0 0 else flMul (.fin s m e) (ofFp32 scale)
        | y => y)), r.2.1, some ((fulY f + j) / 64 * 64, c0.1), r.2.2)
  else ((elemsOf (fmtD fmt) r.1 32).map (inElem fmt scale), r.2.1, sc, r.2.2)

/-- What a pass carries from vector to vector: the tile, the line caches, the packed output not yet written (its
address and bytes), the MX scale bytes not yet written, and the tapped vectors. -/
structure FulRun where
  c : Ctx
  ca : LineCache := none
  cb : LineCache := none
  cs : LineCache := none
  obuf : Nat × List Byte := (0, [])
  scales : List Byte := []
  tap : List (List Word) := []
  done : Nat := 0

/-- Lexicographic order. -/
def keyBefore : List Nat → List Nat → Bool
  | x :: xs, y :: ys => x < y || (x == y && keyBefore xs ys)
  | _, _ => false

/-- Latch a residue mismatch or a table-parity error (R189). Passes run one after the other here, so one that fell before the
latched one takes its place, in the record and in the event that tells of it. -/
def residueLatch (c : Ctx) (unit step desc stage lane kind vec cc : Nat) : Ctx :=
  let recd := toLe 2 step ++ toLe 1 desc ++ toLe 1 (unit * 16 + stage) ++ toLe 1 lane ++ toLe 1 kind ++ toLe 2 vec
    ++ toLe 8 (c.bell % 2 ^ 48)
  let key := [c.bell % 2 ^ 48, cc, unit, stage, lane]
  let first := !c.t.fuller.resValid
  let early := first || keyBefore key c.t.fuller.resKey
  let c1 := fullerMod c (fun u => { u with
    resMism := satAdd 32 u.resMism 1, resValid := true
    resRec := if early then recd else u.resRec, resKey := if early then key else u.resKey })
  ctxSig (if first then ctxSig c1 (.event 0x0102 cc 3 recd) else if early then ctxSig c1 (.revise 0x0102 cc 3 recd) else c1)
    (.fail 0x0011 cc)

/-- Append packed output bytes; a full line is written in the cc of the last vector it carries (R170). -/
def outPacked (cc : Nat) (a : Nat) (bs : List Byte) (lastV : Bool) (r : FulRun) : FulRun :=
  let start := if r.obuf.2.isEmpty then a else r.obuf.1
  let all := r.obuf.2 ++ bs
  let parts := lineParts start all.length
  let r1 := parts.foldl (fun (q : FulRun) p =>
    if (p.1 + p.2) % 64 == 0 || lastV then
      { q with c := timedWrite q.c 5 cc p.1 (slice all (p.1 - start) p.2), obuf := (p.1 + p.2, []) }
    else { q with obuf := (p.1, slice all (p.1 - start) p.2) }) { r with obuf := (start, []) }
  r1

/-- Convert one active lane's result at the output (R182): amax from the unscaled value, the scale, one rounding. -/
def outElem (f : Fired) (fmt : Fmt) (draw lane cc : Nat) (w : Word) (c : Ctx) : Nat × Ctx :=
  let x := ofFp32 w
  let c1 := ctxTile c (fun t => { t with num := amaxUpdate t.num (fld f.desc 0x1D 1) x })
  let y := match x with
    | .fin s m e => if m == 0 then .fin s 0 0
        else flMul (.fin s m e) (ofFp32 (BitVec.ofNat 32 (fld (f.chain.headD []) 4 4)))
    | z => z
  let r := convert fmt (descRnd f.modes (fld f.desc 0x1C 1)) (fp8Sat f.modes) draw y
  (r.bits, if r.produced then nanProduced c1 f.modes 3 lane 2 f.step f.descIdx cc else c1)

/-- Write the scale bytes of an export that are whole (R184): a line's, or the last ones, each in a spare cc that holds the
cell, no later than 2 cc after the last element access of its blocks. -/
def mxScalePut (f : Fired) (j : Nat) (lastV : Bool) (r : FulRun) : FulRun :=
  if (fulX f + j + 1) % 64 != 0 && !lastV then r
  else
    let cc := fulScaleCc r.c.t.store.mem r.c.t.actBank f j
    { r with c := timedWrite r.c 5 cc (fulX f + j + 1 - r.scales.length) r.scales, scales := [] }

/-- Write vector j's results (R182 to R184): `ws` are the active lanes' words, `dr` their draws. -/
def outVec (f : Fired) (j : Nat) (ws : List Word) (dr : List Nat) (r : FulRun) : FulRun :=
  let o := fld f.desc 3 1
  let v := fulInterval f
  let base := f.fireCc + fulD f + j * v
  let convCc := base + v + 1 + fulLat f
  let first := base + v + 3 + fulLat f
  let lastA := base + 2 * v + 2 + fulLat f
  let addr := fulAddr f 0xC 0x14 + j * fld f.desc 0x14 2
  let lastV := (fulN f + 31) / 32 == j + 1
  if o == 0 then r
  else if o == 7 then { r with c := streamWrite r.c 5 first addr (ws.flatMap (fun w => toLe 4 w.toNat)) }
  else if o == 8 then
    let c1 := ws.foldl (fun c w => ctxTile c (fun t => { t with
      num := amaxUpdate t.num (fld f.desc 0x1D 1) (ofFp32 w) })) r.c
    let c2 := streamWrite c1 5 first addr (ws.flatMap (fun w => toLe 2 (splitHi w)))
    { r with c := streamWrite c2 5 (first + lineCount addr 64) (fulX f + j * fld f.desc 0x14 2)
                    (ws.flatMap (fun w => toLe 2 (splitLo w))) }
  else if fulIsMx o then
    let mf := mxFmt o
    let xs := ws.map ofFp32
    let c1 := xs.foldl (fun c x => ctxTile c (fun t => { t with
      num := amaxUpdate t.num (fld f.desc 0x1D 1) x })) r.c
    let sc := ofFp32 (BitVec.ofNat 32 (fld (f.chain.headD []) 4 4))
    let b := mxExport mf (descRnd f.modes (fld f.desc 0x1C 1)) (xs.map (fun x => match x with
      | .fin s m e => if m == 0 then .fin s 0 0 else flMul (.fin s m e) sc
      | y => y)) dr
    let c2 := ctxTile c1 (fun t => { t with num := { t.num with
      mxUflow := satAdd 32 t.num.mxUflow b.flushed, mxSpecial := satAdd 32 t.num.mxSpecial (b2n b.special) } })
    mxScalePut f j lastV (outPacked lastA addr (mxPack (fmtBits mf) (b.elems ++ List.replicate (32 - b.elems.length) 0)) lastV
      { r with c := c2, scales := r.scales ++ toLe 1 b.scale })
  else
    let fm := fmtD o
    let e := (ws.zip (dr ++ ws.map (fun _ => 0))).zipIdx.foldl (fun (q : List Byte × Ctx) x =>
      let y := outElem f fm x.1.2 x.2 convCc x.1.1 q.2
      (q.1 ++ toLe (fmtBytes fm) y.1, y.2)) ([], r.c)
    if fmtBytes fm == 1 && fld f.desc 0x14 2 == 32 then outPacked lastA addr e.1 lastV { r with c := e.2 }
    else { r with c := streamWrite e.2 5 first addr e.1 }

/-- One vector of a pass (R179). -/
def fullerVec (f : Fired) (ups : List FulUps) (draws : List (Kv Nat)) (tapSel : Nat) (j : Nat) (r : FulRun) : FulRun :=
  if r.c.abort then r
  else
    let d := f.desc
    let ext := f.chain.headD []
    let n := fulN f
    let v := fulInterval f
    let a := inVec f 3 (fld d 1 1) (fulAddr f 4 0x10) (fld d 0x10 2) (BitVec.ofNat 32 (fld ext 8 4)) j r.ca r.cs r.c
    let b := if fld d 2 1 == 0 then ([], r.cb, none, a.2.2.2)
      else inVec f 4 (fld d 2 1) (fulAddr f 8 0x12) (fld d 0x12 2) (BitVec.ofNat 32 (fld ext 0xC 4)) j r.cb none a.2.2.2
    let lanes := (upto 0 32).filter (laneActive n j)
    let outs := lanes.map (fun l =>
      laneRun f ⟨(a.1.drop l).headD 0, (b.1.drop l).headD 0, 32 * j + l⟩
        (fun k => kvGet 0 ((draws.drop l).headD []) (16 * j + k))
        (fun k => ((ups.find? (fun u => u.vec == j && u.stage == k && u.lane == l)).map (fun u => u.mask)).getD 0))
    let base := f.fireCc + fulD f + j * v + v + 1
    let c1 := (upto 0 (fld d 0x17 1)).foldl (fun c k =>
      (lanes.zip outs).foldl (fun c q =>
        if q.2.2.contains k then nanProduced c f.modes 3 q.1 1 f.step f.descIdx (base + latTo f k) else c) c) b.2.2.2
    let st := fld d 0x17 1
    let tapped := if tapSel == 8 then lanes.map (fun l => (a.1.drop l).headD 0)
      else outs.map (fun o => (o.1.drop tapSel).headD 0)
    outVec f j (outs.map (fun o => (o.1.drop (st - 1)).headD 0))
      (lanes.map (fun l => kvGet 0 ((draws.drop l).headD []) (16 * j + 9)))
      { r with c := c1, ca := a.2.1, cb := b.2.1, cs := a.2.2.1, done := j + 1, tap := if f.withRed then r.tap ++ [tapped] else r.tap }

/-- The cc in which stage k hands vector j on (Table 6.8). -/
def stageCc (f : Fired) (j k : Nat) : Nat :=
  let v := fulInterval f
  f.fireCc + fulD f + j * v + v + 1 + latTo f k

/-- Insert an upset by its key, after those with the same key. -/
def upsInsert (x : Nat × FulUps) : List (Nat × FulUps) → List (Nat × FulUps)
  | [] => [x]
  | y :: ys => if x.1 < y.1 then x :: y :: ys else y :: upsInsert x ys

/-- Does an op's check cover a datapath (Table 6.6, R188): 1 the multiplier, 2 the adder, 3 a table's parity? -/
def opCovers (op kind : Nat) : Bool :=
  let fn := 0x10 ≤ op && op ≤ 0x1E
  match kind with
  | 1 => fn || op == 3 || op == 4 || op == 5 || op == 0x22
  | 2 => fn || op == 1 || op == 2 || op == 4 || op == 5 || op == 0x20 || op == 0x21
  | 3 => fn
  | _ => false

/-- Is an upset seen (R188): it strikes a covered datapath, and its size is no multiple of 7 unless a table's parity shows it? -/
def upsSeen (op : Nat) (u : FulUps) : Bool := opCovers op u.kind && (u.kind == 3 || u.size % 7 != 0)

/-- The residue mismatches of the first `done` vectors of a pass, in the order of their cc, stage and lane (R189). -/
def resLatches (f : Fired) (ups : List FulUps) (done : Nat) (c : Ctx) : Ctx :=
  let hits := (ups.filter (fun u => upsSeen (fld (stageWord f.chain u.stage) 0 1) u && decide (u.vec < done) && decide (u.stage < fld f.desc 0x17 1)
    && decide (u.lane < 32) && laneActive (fulN f) u.vec u.lane)).map (fun u =>
      ((stageCc f u.vec u.stage * 8 + u.stage) * 32 + u.lane, u))
  (hits.foldl (fun l u => upsInsert u l) []).foldl (fun c q =>
    residueLatch c 3 f.step f.descIdx q.2.stage q.2.lane q.2.kind q.2.vec (stageCc f q.2.vec q.2.stage)) c

/-- A whole fuller pass (R168 to R184). `tapSel` is the tap of the reduction fired with it. -/
def fullerPass (f : Fired) (ups : List FulUps) (tapSel : Nat) (c : Ctx) : Ctx :=
  let vecs := (fulN f + 31) / 32
  let v := fulInterval f
  let draws := if passDraws f then (upto 0 32).map (fulDraws f c) else []
  let r := (upto 0 vecs).foldl (fun r j => fullerVec f ups draws tapSel j r) { c := c }
  let c2 := srSettle f (resLatches f ups r.done r.c)
  if f.withRed then
    let tap : Tap :=
      { step := f.step
        vecs := r.tap
        vInt := v
        firstCc := f.fireCc + fulD f + v + 1 + (if tapSel == 8 then 0 else latTo f tapSel) }
    fullerMod c2 (fun u => { u with tap := some tap })
  else c2

/-! ## The reduction unit (R185 to R187) -/

/-- A partial value of a reduction: nothing yet, or a value with its second value (op 6), its index, and how many
additions up to it made a NaN (R96, R104). -/
abbrev RedVal := Option (Fl × Fl × Nat × Nat)

/-- One addition under the arithmetic rounding mode, with 1 where it makes a NaN. -/
def redAdd (rtz : Bool) (a b : Fl) : Fl × Nat :=
  (ofFp32 (toFp32 rtz (flAdd a b)), b2n (madeNaN [a, b] (flAdd a b)))

/-- FMA(x, x, p) under the arithmetic rounding mode (R186), with 1 where it makes a NaN. -/
def redFma (rtz : Bool) (x p : Fl) : Fl × Nat :=
  (ofFp32 (toFp32 rtz (flAdd (flMul x x) p)), b2n (madeNaN [x, p] (flAdd (flMul x x) p)))

/-- Pick the greater of two elements with their indexes (R97, R186): NaN is never picked, a tie goes to the lower index. -/
def redPick (a b : Fl × Nat) : Fl × Nat :=
  if flIsNaN b.1 then a else if flIsNaN a.1 || flLt a.1 b.1 then b
  else if flLt b.1 a.1 then a else (a.1, min a.2 b.2)

/-- Bring one element into a partial (R186). -/
def redIn (op : Nat) (rtz : Bool) (x : Fl) (idx : Nat) : RedVal → RedVal
  | none => some (match op with
      | 5 => (ofFp32 (toFp32 rtz (flMul x x)), .fin false 0 0, idx, 0)
      | 6 => (x, ofFp32 (toFp32 rtz (flMul x x)), idx, 0)
      | _ => (x, .fin false 0 0, idx, 0))
  | some (v, w, i, k) => some (match op with
      | 1 => let r := redAdd rtz v x; (r.1, w, i, k + r.2)
      | 2 => (flMax v x, w, i, k)
      | 3 => (flMin v x, w, i, k)
      | 4 => let r := redPick (v, i) (x, idx); (r.1, w, r.2, k)
      | 5 => let r := redFma rtz x v; (r.1, w, i, k + r.2)
      | _ => let r := redAdd rtz v x; let q := redFma rtz x w; (r.1, q.1, i, k + r.2 + q.2))

/-- Combine two partials; an empty one is passed over (R186). -/
def redComb (op : Nat) (rtz : Bool) (a b : RedVal) : RedVal :=
  match a, b with
  | none, y => y
  | x, none => x
  | some (v, w, i, k), some (v', w', i', k') => some (match op with
      | 2 => (flMax v v', w, i, k + k')
      | 3 => (flMin v v', w, i, k + k')
      | 4 => let r := redPick (v, i) (v', i'); (r.1, w, r.2, k + k')
      | 6 => let r := redAdd rtz v v'; let q := redAdd rtz w w'; (r.1, q.1, i, k + k' + r.2 + q.2)
      | _ => let r := redAdd rtz v v'; (r.1, w, i, k + k' + r.2))

/-- The binary tree across 32 lanes (R186): pairs, then pairs of pairs, over five levels. -/
def redTree (op : Nat) (rtz : Bool) : Nat → List RedVal → RedVal
  | 0, l => l.headD none
  | n + 1, l => redComb op rtz (redTree op rtz n (l.take (2 ^ n))) (redTree op rtz n (l.drop (2 ^ n)))

/-- The four partials of a lane over a segment, combined (R186). `vecs` are the segment's vectors; `idx j` the index an
element of vector j bears. -/
def redLane (op : Nat) (rtz : Bool) (vecs : List (List Word)) (lane : Nat) (idx : Nat → Nat) : RedVal :=
  let part := fun (k : Nat) => vecs.zipIdx.foldl (fun (r : RedVal) q =>
    if q.2 % 4 == k then (match (q.1.drop lane).head? with
      | some w => redIn op rtz (ofFp32 w) (idx q.2) r
      | none => r) else r) none
  redComb op rtz (redComb op rtz (part 0) (part 1)) (redComb op rtz (part 2) (part 3))

/-- One result's words (R185, R186): the values where no active element falls in it included. -/
def redWords (op : Nat) (rtz : Bool) (v : RedVal) : List Word :=
  match v with
  | none => if op == 4 then [fp32NaN, 0xFFFFFFFF#32] else if op == 2 || op == 3 then [fp32NaN]
            else if op == 6 then [0, 0] else [0]
  | some p =>
    let w := toFp32 rtz p.1
    if op == 4 then [w, if flIsNaN p.1 then 0xFFFFFFFF#32 else BitVec.ofNat 32 p.2.2.1]
    else if op == 6 then [w, toFp32 rtz p.2.1] else [w]

/-- Cut the tapped vectors into segments. -/
def segsOf (n : Nat) : Nat → List (List Word) → List (List (List Word))
  | 0, _ => []
  | k + 1, l => if l.isEmpty then [] else l.take n :: segsOf n k (l.drop n)

/-- The results of a reduction, in order (R185, R186), as partial values. -/
def redValsOf (rd : List Byte) (rtz : Bool) (vecs : List (List Word)) : List RedVal :=
  let op := fld rd 1 1
  match fld rd 3 1 with
  | 1 => vecs.zipIdx.map (fun q =>
      redTree op rtz 5 ((upto 0 32).map (fun l => match (q.1.drop l).head? with
        | some w => redIn op rtz (ofFp32 w) (32 * q.2 + l) none
        | none => none)))
  | 2 => (upto 0 32).map (fun l => redLane op rtz vecs l (fun j => j))
  | _ => (segsOf (max 1 (fld rd 4 2)) vecs.length vecs).map (fun sg =>
      redTree op rtz 5 ((upto 0 32).map (fun l => redLane op rtz sg l (fun j => 32 * j + l))))

/-- The results' words (R185, R186). -/
def redResultsOf (rd : List Byte) (rtz : Bool) (vecs : List (List Word)) : List (List Word) :=
  (redValsOf rd rtz vecs).map (redWords (fld rd 1 1) rtz)

/-- The last of `n` vectors that falls in result i of a reduction (R185). -/
def redLastVec (rd : List Byte) (n i : Nat) : Nat :=
  match fld rd 3 1 with
  | 1 => i
  | 2 => n - 1
  | _ => min ((i + 1) * max 1 (fld rd 4 2)) n - 1

/-- The cc in which result i of a reduction is ready (R187): `n` vectors, tapped from `first`, one every `v` cc. -/
def redReady (rd : List Byte) (first v n i : Nat) : Nat :=
  first + redLastVec rd n i * v + (match fld rd 3 1 with | 1 => 20 | 2 => 12 | _ => 32)

/-- The reduction's adders, the only datapath of it that a residue covers (R188), work in SUM, SUMSQ and op 0x6. -/
def redSeen (op : Nat) (u : FulUps) : Bool := (op == 1 || op == 5 || op == 6) && u.kind == 2 && u.size % 7 != 0

/-- The reduction (R185 to R187): the results stand pending until they are written. A NaN made in it is recorded at the cc its
result is ready (DESIGN CHOICE, assumption 56: R104 gives the cc for the loom and its converter only). -/
def reductionRun (f : Fired) (ups : List FulUps) (c : Ctx) : Ctx :=
  match c.t.fuller.tap with
  | none => c
  | some t =>
    let rd := f.desc
    let op := fld rd 1 1
    let rs0 := redResultsOf rd (arithRtz f.modes) t.vecs
    let rs := rs0.zipIdx.map (fun q => match ups.find? (fun u => u.vec == q.2) with
      | some u => (match q.1 with | w :: ws => (w ^^^ u.mask) :: ws | [] => [])
      | none => q.1)
    let readyOf := redReady rd t.firstCc t.vInt t.vecs.length
    let pend : RedPend :=
      { dest := fld rd 6 1
        addr := fld rd 8 4
        vals := rs.flatMap (fun r => r)
        pair := op == 4 || op == 6
        ready := (upto 0 rs0.length).map readyOf
        readyCc := readyOf (rs0.length - 1) }
    let c1 := fullerMod c (fun u => { u with tap := none, redPend := some pend })
    let c2 := (redValsOf rd (arithRtz f.modes) t.vecs).zipIdx.foldl (fun c q =>
      (upto 0 ((q.1.map (fun v => v.2.2.2)).getD 0)).foldl (fun c _ =>
        nanProduced c f.modes 4 0 1 f.step f.descIdx (readyOf q.2)) c) c1
    let hits := (ups.filter (fun u => redSeen op u && decide (u.vec < rs0.length))).map (fun u =>
      (32 * readyOf u.vec + u.lane, u))
    (hits.foldl (fun l u => upsInsert u l) []).foldl (fun c q =>
      residueLatch c 4 f.step (f.descIdx - 1) 0xF q.2.lane q.2.kind (redLastVec rd t.vecs.length q.2.vec) (readyOf q.2.vec)) c2

/-- The store lines of a pending result: the cc each is ready, its address and its bytes (R187). -/
def redLines (r : RedPend) : List (Nat × Nat × List Byte) :=
  let bs := r.vals.flatMap (fun w => toLe 4 w.toNat)
  (lineParts r.addr bs.length).map (fun p =>
    ((r.ready.drop ((p.1 - r.addr + p.2 - 1) / (if r.pair then 8 else 4))).headD r.readyCc, p.1, slice bs (p.1 - r.addr) p.2))

/-- The fuller is done with a result's write in the cc before `free` (R180, R187). -/
def redDone (t : Tile) (free : Nat) : Tile :=
  { t with busy := kvSet 0 t.busy 24 free, doneCc := max t.doneCc free }

/-- The cc in which a buffer line of a reduction that is ready at `ready` is written (R187), by the map of bank k: within 2 cc of
its readiness, or in the cc after the line before it, `prev` being the first cc free. -/
def redLineCc (m : Mem) (k ready a prev : Nat) : Nat :=
  let lo := max (ready + 1) prev
  if lo == ready + 1 && mapHolder m k (lineBank a) (lo % 16) != 5 then lo + 1 else lo

/-- Write one buffer line of a reduction (R187) in the next fuller-out access. -/
def redLinePut (x : Nat × Nat × List Byte) (c : Ctx) : Ctx :=
  let cc := redLineCc c.t.store.mem c.t.actBank x.1 x.2.1 (kvGet 0 c.t.busy 24)
  let c1 := timedWrite c 5 cc x.2.1 x.2.2
  if c1.abort then c1 else ctxTile c1 (fun t => redDone { t with lastOut := max t.lastOut cc } (cc + 1))

/-- Write a ready result to TL_RED_RES0 and 1 or, packed, its ready lines to the store (R187). -/
def redWrite (r : RedPend) (past : Nat → Bool) (c : Ctx) : Ctx :=
  if r.dest == 0 then
    ctxTile c (fun t => redDone { t with fuller := { t.fuller with
      redPend := none, res0 := r.vals.headD 0
      res1 := if r.pair then (r.vals.drop 1).headD 0 else t.fuller.res1 } } (r.readyCc + 1))
  else
    let ls := redLines r
    let now := (ls.drop r.lines).takeWhile (fun x => past x.1)
    let c1 := now.foldl (fun c x => redLinePut x c) c
    fullerMod c1 (fun u => { u with
      redPend := if c1.abort || r.lines + now.length == ls.length then none
        else some { r with lines := r.lines + now.length } })

end Sys2Proof.Machine
end

