-- ==== Sys2Proof/Machine/Env.lean ====
section
/-! DEFINITION. The block around a tile: reading and writing tiles, the logical grid (R11, R16 to R18), keys, and what a
unit's reports do to the block. -/

namespace Sys2Proof.Machine

/-- The outcome type of every meaning. -/
abbrev Res := Host.Outcome State Fault Refusal

/-! ## Units of the block -/

/-- A physical tile. -/
def getTile (s : State) (p : Nat) : Tile := kvGet {} s.tiles p
/-- Write a physical tile. -/
def setTile (s : State) (p : Nat) (t : Tile) : State := { s with tiles := kvSet {} s.tiles p t }
/-- Change a physical tile. -/
def modTile (s : State) (p : Nat) (f : Tile → Tile) : State := setTile s p (f (getTile s p))
/-- A partition-row. -/
def getRow (s : State) (r : Nat) : Row := kvGet {} s.rows r
/-- Change a partition-row. -/
def modRow (s : State) (r : Nat) (f : Row → Row) : State := { s with rows := kvSet {} s.rows r (f (getRow s r)) }
/-- A partition. -/
def getPart (s : State) (n : Nat) : Part := kvGet {} s.parts n
/-- Change a partition. -/
def modPart (s : State) (n : Nat) (f : Part → Part) : State := { s with parts := kvSet {} s.parts n (f (getPart s n)) }
/-- A stack. -/
def getStack (s : State) (n : Nat) : Stack := kvGet {} s.mems n
/-- Change a stack. -/
def modStack (s : State) (n : Nat) (f : Stack → Stack) : State :=
  { s with mems := kvSet {} s.mems n (f (getStack s n)) }
/-- A link port. -/
def getPort (s : State) (n : Nat) : Port := kvGet {} s.ports n
/-- Change a link port. -/
def modPort (s : State) (n : Nat) (f : Port → Port) : State := { s with ports := kvSet {} s.ports n (f (getPort s n)) }
/-- Change the bell. -/
def modClk (s : State) (f : Clk → Clk) : State := { s with clk := f s.clk }

/-- Is a power domain on (R465)? -/
def domOn (s : State) (d : Nat) : Bool := kvGet .off s.power.domains d == .on
/-- Set a power domain. -/
def setDom (s : State) (d : Nat) (v : DomSt) : State :=
  { s with power := { s.power with domains := kvSet .off s.power.domains d v } }

/-- Physical tiles of the part (R11). -/
def tileCount : Nat := 4800

/-! ## The logical grid (R16) -/

/-- The logical tile a physical tile serves; none for the row's spare. -/
def logOf (s : State) (p : Nat) : Option Nat :=
  let sp := (getRow s (physProw p)).spare
  let k := p % 100 % 25
  if k == sp then none
  else some (96 * (p / 100) + 24 * (p % 100 / 25) + (if k < sp then k else k - 1))

/-- The physical tile that serves a logical tile. -/
def physOf (s : State) (l : Nat) : Nat :=
  let sp := (getRow s (logProw l)).spare
  let k := l % 96 % 24
  100 * (l / 96) + 25 * (l % 96 / 24) + (if k < sp then k else k + 1)

/-- The logical tile of a physical one, 0 for a spare. -/
def logD (s : State) (p : Nat) : Nat := (logOf s p).getD 0

/-- All physical tiles of a partition, in rising order. -/
def partTiles (n : Nat) : List Nat :=
  (upto 0 16).flatMap (fun r => (upto 0 25).map (fun k => 100 * (16 * (n / 4) + r) + 25 * (n % 4) + k))

/-! ## Keys (R258, R259) -/

/-- The key table: each partition's current and previous key. -/
def keyTable (s : State) : List (Nat × Nat) := (upto 0 12).map (fun n => ((getPart s n).key, (getPart s n).prevKey))

/-- Is a key live in a table? Key 0 never is. -/
def keyLive (t : List (Nat × Nat)) (k : Nat) : Bool := k != 0 && t.any (fun q => q.1 == k || q.2 == k)

/-- Does a key match a partition's in a table? -/
def keyMatch (t : List (Nat × Nat)) (n k : Nat) : Bool :=
  match t.drop n with
  | q :: _ => k != 0 && (q.1 == k || q.2 == k)
  | [] => false

/-! ## Lots -/

/-- The assay whose replay runs in a partition (R354). -/
def liveAssay (s : State) (n : Nat) : Option Assay := (getPart s n).assay.filter (fun a => a.live)
/-- Does a replay run in a partition? -/
def replaying (s : State) (n : Nat) : Bool := (liveAssay s n).isSome
/-- Bells by which a replay sets back the bell counts of its tiles. -/
def backBells (s : State) (n : Nat) : Nat := ((liveAssay s n).map (fun a => a.back)).getD 0

/-- Does a domain change that is being voted on put off every load (R79)? -/
def loadsDeferred (s : State) : Bool :=
  s.reeve.changes.any (fun c => c.outcome == 0 && c.evaluated && (c.kind == 5 || c.kind == 6))

/-- The number of the lot active in a partition, or replayed in it; 0 for none. -/
def curLot (s : State) (n : Nat) : Nat :=
  ((liveAssay s n).map (fun a => a.lot)).getD
    ((((getPart s n).lots.find? (fun l => l.active)).map (fun l => l.number)).getD 0)

/-- Mark every active lot of a partition to end Failed with a code (R165: the causes keep their bell and cc). -/
def failLots (s : State) (n code bell cc : Nat) : State :=
  modPart s n (fun p => { p with lots := p.lots.map (fun l =>
    if l.active then { l with causes := l.causes ++ [(code, bell, cc)] } else l) })

/-- Fail the active lots of a partition with a code; the Reeve ends them at the next bell (R244, R259, R262). -/
def cutLots (s : State) (n code bell cc : Nat) : State :=
  modPart (failLots s n code bell cc) n (fun p => { p with lots := p.lots.map (fun l =>
    if l.active then { l with cut := some (l.cut.getD (bell + 1)) } else l) })

/-- Send a failure event to the Reeve. -/
def sendEvent (s : State) (e : Event) : State := { s with reeve := { s.reeve with inbox := s.reeve.inbox ++ [e] } }

/-- Put the cc and the record of the finding that comes first into the event that waits for the Reeve; without one that waits, the
finding is an event of its own. -/
def reviseEvent (s : State) (e : Event) : State :=
  let same := fun (x : Event) => x.code == e.code && x.unit == e.unit && x.lot == e.lot
  let inbox := s.reeve.inbox.map (fun x => if same x then { x with bell := e.bell, cc := e.cc, pay := e.pay } else x)
  if s.reeve.inbox.any same then { s with reeve := { s.reeve with inbox := inbox } } else sendEvent s e

/-- The interval cc of a partition's context: a context that skips bells counts on through them (R486). -/
def ctxCc (s : State) (n : Nat) : Nat := s.clk.intvCc + (getPart s n).skipCc

/-- The bell that began the interval of a partition's context (R82, R484). -/
def ctxBell (s : State) (n : Nat) : Nat := s.clk.bell - (getPart s n).skipped - backBells s n

/-! ## A tile at work -/

/-- Cycles of an interval at the period in force (R36). -/
def intvLen (s : State) : Nat := Config.ccPerUs * s.clk.periodUs

/-- The expected time of the next bell, as an interval cc (R46, R473): the period, the delay inherited, and the emergency
extension. -/
def expectCc (s : State) : Nat := intvLen s + s.clk.expectDelay + s.clk.extCc

/-- The interval cc at which the bell guard begins: the last 256 cc before the expected time (R39, R45). -/
def guardAt (s : State) : Nat := expectCc s - Config.guardCc

/-- A physical tile with its surroundings. A context that skips bells counts its cc on through them (R486). -/
def ctxOf (s : State) (p : Nat) : Ctx :=
  { t := getTile s p, p := p, lt := logD s p, bell := s.clk.bell - backBells s (physPart p), lot := curLot s (physPart p)
    guardCc := guardAt s + (getPart s (physPart p)).skipCc }

/-- The pattern_id active on a tile, 0 for none (Table 2.3). -/
def tilePattern (t : Tile) : Nat := if t.installed then hdrFld t.store.mem t.actBank 0x28 8 else 0

/-- The event a tile raises (Table 12.7). -/
def tileEvent (s : State) (p code cc compl payKind : Nat) (pay : List Byte) : Event :=
  { code := code, unit := unitId 1 (logD s p), loc := 256 * (p / 100) + p % 100, part := physPart p, bell := s.clk.bell
    cc := cc, lot := curLot s (physPart p), pattern := tilePattern (getTile s p), compl := compl, payKind := payKind
    pay := pay }

/-- An invalid-write event (R14): the spec names the event and gives it no code. The code is the model's own and emits no record:
DESIGN CHOICE, assumption 57. -/
def evBadWrite : Nat := 0xF009
/-- A tile's invalid write, reported to the Reeve. -/
def badWrite (s : State) (p : Nat) : State := sendEvent s (tileEvent s p evBadWrite s.clk.intvCc 0 0 [])
/-- An invalid write to a register of the module. -/
def badHostWrite (s : State) : State := sendEvent s { code := evBadWrite, bell := s.clk.bell, cc := s.clk.intvCc }

/-- A tile stops in a cc (R65, R106): no step that fires later has fired, so its work leaves the list, and the swaps and
shuttle loads of such steps are taken back. -/
def stopAt (t : Tile) (cause : StopCause) (cc : Nat) : Tile :=
  { t with
    stop := some (t.stop.getD cause)
    fired := t.fired.filter (fun f => f.fireCc ≤ cc)
    dma := { t.dma with queue := t.dma.queue.filter (fun e => e.fireCc ≤ cc || e.begun != 0) }
    loom := loomUndo t.loom cc }

/-- The open spill streams at cc 0 of an interval: the DMA of their memory bolts is counted afresh. -/
def spillNext (q : Sparse) : Sparse :=
  { q with spill := q.spill.map (fun s => { s with dma := [] }), spillB := q.spillB.map (fun s => { s with dma := [] }) }

/-- What a tile keeps by the cc of one interval ends with it: the cc of its units, swaps and shuttle loads, writes and lent
cells. -/
def tileFresh (t : Tile) : Tile :=
  { t with
    loom := { t.loom with swaps := [], oldSets := [], updCc := [] }
    sparse := spillNext t.sparse
    store := { t.store with wlog := [] }
    dma := { t.dma with queue := t.dma.queue.map (fun e => { e with fireCc := 0 }) }
    busy := [], doneCc := 0, lastOut := 0, lend := [] }

/-- Apply a tile's reports to the block. -/
def applySigs (s : State) (p : Nat) : List Sig → State
  | [] => s
  | .event code cc k pay :: .fail f fc :: rest =>
    applySigs (failLots (sendEvent s (tileEvent s p code cc f k pay)) (physPart p) f s.clk.bell fc) p rest
  | .event code cc k pay :: rest => applySigs (sendEvent s (tileEvent s p code cc 0 k pay)) p rest
  | .revise code cc k pay :: rest => applySigs (reviseEvent s (tileEvent s p code cc 0 k pay)) p rest
  | .fail f fc :: rest => applySigs (failLots s (physPart p) f s.clk.bell fc) p rest
  | .stop cause cc :: rest => applySigs (modTile s p (fun t => stopAt t cause cc)) p rest

/-- Put a worked tile back and apply its reports. -/
def applyCtx (s : State) (c : Ctx) : State := applySigs (setTile s c.p c.t) c.p c.sigs

/-! ## Fired units -/

/-- The oldest fired work of a unit. -/
def firstFired (t : Tile) (u : Nat) : Option Fired := t.fired.find? (fun f => f.unit == u)

/-- Remove the first entry of a unit. -/
def dropFirst (u : Nat) : List Fired → List Fired
  | [] => []
  | f :: t => if f.unit == u then t else f :: dropFirst u t

/-- Finish a unit's oldest work: its entry leaves, and the tile is busy for R40 until `done`. -/
def finishFired (c : Ctx) (u done : Nat) : Ctx :=
  ctxTile c (fun t => { t with fired := dropFirst u t.fired, doneCc := max t.doneCc done })

/-- Set the first free cc of a unit (R65). -/
def setBusy (c : Ctx) (u cc : Nat) : Ctx := ctxTile c (fun t => { t with busy := kvSet 0 t.busy u cc })

/-- Has the tile's own timeline passed a cc, or has its sequencer nothing further to fire before it (R41)? -/
def timePast (t : Tile) (cc : Nat) : Bool := cc < t.seq.nextCc || t.seq.wait != 0 || t.stop.isSome || !t.seq.run

/-- Is a tile's work visible outside (Table 2.6, R65): Active or Switching, and not stopped? -/
def outputsLive (t : Tile) : Bool := (t.st == .active || t.st == .switching) && t.stop.isNone

/-! ## Deadlines (R40, R55) -/

/-- The key of an arrival count: a deadline kind, its target, and the source module (0xFFFFFFFF the same module). -/
def arrKey (kind target source : Nat) : Nat := 32 * source + 8 * kind + target

/-- Entry i of the active pattern's deadline table. -/
def dlEntry (t : Tile) (i : Nat) : List Byte := secRead t.store.mem t.actBank 5 (16 * i) 16
/-- How many entries it has. -/
def dlCount (t : Tile) : Nat := secLen t.store.mem t.actBank 5 / 16
/-- Does an entry apply to the running interval? -/
def dlApplies (t : Tile) (e : List Byte) : Bool := t.seq.intervals % max 1 (fld e 0xC 1) == fld e 0xD 1
/-- Has an entry's count arrived in the running interval? -/
def dlMet (t : Tile) (e : List Byte) : Bool :=
  fld e 0 1 == 4 || fld e 2 2 ≤ kvGet 0 t.arrivals (arrKey (fld e 0 1) (fld e 1 1) (fld e 8 4))
/-- Have all the deadline items of the running interval arrived (R40)? -/
def dlAllMet (t : Tile) : Bool :=
  (upto 0 (dlCount t)).all (fun i => !(dlApplies t (dlEntry t i)) || dlMet t (dlEntry t i))

/-- Count an arrival in interval cc `cc`, and a late one in the late-item telemetry (R55). -/
def noteArrival (s : State) (p kind target source cc : Nat) : State :=
  modTile s p (fun t =>
    if !t.installed then t
    else
      let k := arrKey kind target source
      let isLate := (upto 0 (dlCount t)).any (fun i =>
        let e := dlEntry t i
        fld e 0 1 == kind && fld e 1 1 == target && fld e 8 4 == source && dlApplies t e && !(dlMet t e)
          && fld e 4 4 < cc)
      { t with
        arrivals := kvSet 0 t.arrivals k (kvGet 0 t.arrivals k + 1)
        late := if isLate then satAdd 32 t.late 1 else t.late })

/-- Count an inter-module item for the interval it is stamped with: the running one, or the next (R44). -/
def noteItem (s : State) (p target source stamp cc : Nat) : State :=
  if stamp == s.clk.bell then noteArrival s p 3 target source cc
  else if stamp == s.clk.bell + 1 then
    modTile s p (fun t =>
      let k := arrKey 3 target source
      { t with nextArr := kvSet 0 t.nextArr k (kvGet 0 t.nextArr k + 1) })
  else s

/-- The first partition that holds a key, as its current one or as the one before the last rotation (R258). -/
def keyOwner (s : State) (key : Nat) : Option Nat := (upto 0 12).find? (fun n => keyMatch (keyTable s) n key)

/-- Every lot of every context that holds a key, or held it before the last rotation, fails with a code, and the Reeve ends it (R262). -/
def failKey (s : State) (key code : Nat) : State :=
  (upto 0 12).foldl (fun s n =>
    if keyMatch (keyTable s) n key then cutLots s n code s.clk.bell s.clk.intvCc else s) s

end Sys2Proof.Machine
end

