-- ==== Sys2Proof/Machine/Route.lean ====
section
/-! DEFINITION. Routes, room and injection: the outputs a packet uses, what makes it presented, and how a packet enters the
mesh (spec/09_mesh_and_channels.md, R242 to R259, R264). A router is that of the physical tile that serves a logical tile
(R18, R242); port codes are 0 L, 1 N, 2 S, 3 E, 4 W. Readings of the mesh chapter: DEDUCED, assumption 25. -/

namespace Sys2Proof.Machine

/-! ## Stamps, endpoints and key violations -/

/-- The next movement stamp. -/
def nextStamp (s : State) : Nat × State := (s.clk.stamp, modClk s (fun c => { c with stamp := c.stamp + 1 }))

/-- A virtual-channel buffer of a router. -/
def rtBuf (r : Router) (i v : Nat) : RtBuf := kvGet {} r.bufs (3 * i + v)

/-- An event in the name of a partition whose lots it fails (R244, R259). -/
def ofPart (s : State) (n : Option Nat) (e : Event) : Event :=
  match n with
  | some n => { e with part := n, lot := curLot s n }
  | none => e

/-- Endpoint type (Table 9.2). -/
def epType (e : Nat) : Nat := e / 8192

/-- The partition that owns an endpoint, when it is a tile. -/
def epPart (e : Nat) : Option Nat := if epType e == 0 && e < 4608 then some (logPart e) else none

/-- Is a tile's partition fabric unpowered: its routers carry traffic on their bypass alone (R21, R389)? -/
def onBypass (s : State) (p : Nat) : Bool := !(domOn s (5 * physPart p + 4))

/-- Change the router of a physical tile. -/
def modRouter (s : State) (p : Nat) (f : Router → Router) : State := modTile s p (fun t => { t with router := f t.router })

/-- What an event of a router names besides it: the port and the packet's src. -/
def portSrc (port : Nat) (k : Packet) : List Byte := toLe 2 port ++ toLe 2 k.src

/-- A key violation at a router (R259): counted, reported, and the lots of the context that owns src fail. -/
def keyDrop (s : State) (p port : Nat) (k : Packet) : State :=
  let s1 := modRouter s p (fun r => { r with dropKey := satAdd 16 r.dropKey 1 })
  let s2 := sendEvent s1 (ofPart s (epPart k.src)
    (tileEvent s1 p 0x0155 s.clk.intvCc (if (epPart k.src).isSome then 0x0026 else 0) 0 (portSrc port k)))
  match epPart k.src with
  | some n => cutLots s2 n 0x0026 s.clk.bell s.clk.intvCc
  | none => s2

/-- The logical neighbour of a logical tile: 1 north, 2 south, 3 east, 4 west (R18). -/
def neighbour (l dir : Nat) : Option Nat :=
  match dir with
  | 1 => if 96 ≤ l then some (l - 96) else none
  | 2 => if l + 96 < 4608 then some (l + 96) else none
  | 3 => if l % 96 + 1 < 96 then some (l + 1) else none
  | 4 => if 1 ≤ l % 96 then some (l - 1) else none
  | _ => none

/-- The direction seen from the other side. -/
def opposite (dir : Nat) : Nat := match dir with | 1 => 2 | 2 => 1 | 3 => 4 | 4 => 3 | d => d

/-! ## Routing (R247, R248, R256) -/

/-- Clamp into a range. -/
def clamp (x lo hi : Nat) : Nat := max lo (min x hi)

/-- The served column of a stack that R24 names for a tile's column. -/
def edgeCol (stack col : Nat) : Nat := clamp col (24 * (stack % 4)) (24 * (stack % 4) + 23)

/-- First attached row of a link port (R25). -/
def portRow (port : Nat) : Nat := 6 * (port % 8) + (if 16 ≤ port then 3 else 0)

/-- Is a link port on the east edge? -/
def portEast (port : Nat) : Bool := 8 ≤ port % 16

/-- The attached row of a port nearest a row. -/
def portNear (port row : Nat) : Nat := clamp row (portRow port) (portRow port + 2)

/-- The port attached at an edge row. -/
def portAt (row : Nat) (east : Bool) : Nat := (if 3 ≤ row % 6 then 16 else 0) + row / 6 + (if east then 8 else 0)

/-- A step toward a column, if any is left. -/
def stepX (c dc : Nat) : Option Nat := if c < dc then some 3 else if dc < c then some 4 else none
/-- A step toward a row. -/
def stepY (r dr : Nat) : Option Nat := if r < dr then some 2 else if dr < r then some 1 else none

/-- X then Y, then the last output. -/
def routeXY (r c dr dc last : Nat) : Nat := (stepX c dc).getD ((stepY r dr).getD last)
/-- Y then X. -/
def routeYX (r c dr dc last : Nat) : Nat := (stepY r dr).getD ((stepX c dc).getD last)

/-- The rows of a mask line. -/
def maskRows (bs : List Byte) : Nat := fld bs 0 6
/-- The columns of a mask line. -/
def maskCols (bs : List Byte) : Nat := fld bs 8 12

/-- A mask line (Table 9.5). -/
def maskLine (rows cols root chan : Nat) : List Byte :=
  toLe 6 rows ++ zeros 2 ++ toLe 12 cols ++ toLe 2 root ++ toLe 1 chan ++ zeros 41

/-- Does a mask have a bit below, or above, a place? -/
def anyBelow (m k : Nat) : Bool := m % 2 ^ k != 0
/-- Above. -/
def anyAbove (m k : Nat) : Bool := m / 2 ^ (k + 1) != 0

/-- The outputs a multicast tree uses at a router, by the input the packet came through (R256). -/
def treeOuts (vc0 : Bool) (input r c rows cols : Nat) : List Nat :=
  let mr := bitAt rows r
  let mc := bitAt cols c
  let trunk := if vc0 then input == 0 || input == 3 || input == 4 else input == 0 || input == 1 || input == 2
  let up := anyBelow rows r && input != 1
  let down := anyAbove rows r && input != 2
  let left := anyBelow cols c && input != 4
  let right := anyAbove cols c && input != 3
  let vert := if vc0 then mc else trunk
  let horz := if vc0 then trunk else mr
  (if mr && mc then [0] else []) ++ (if vert && up then [1] else []) ++ (if vert && down then [2] else [])
    ++ (if horz && right then [3] else []) ++ (if horz && left then [4] else [])

/-- The outputs a packet uses at logical tile `l`, come in through `input`. An arrival or raise leaves only once
combined (R261). -/
def pktOuts (l input : Nat) (k : Packet) : List Nat :=
  let r := l / 96
  let c := l % 96
  if k.mcast then treeOuts (k.vc == 0) input r c (maskRows k.payload) (maskCols k.payload)
  else match k.kind with
    | 3 => if k.fwd then [routeYX r c (k.dest / 96) (k.dest % 96) 0] else []
    | 5 => if k.fwd then [routeYX r c (k.dest / 96) (k.dest % 96) 0] else []
    | 8 => [routeXY r c (k.dest / 96) (k.dest % 96) 0]
    | 0xE => [routeXY r c (k.dest / 96) (k.dest % 96) 0]
    | 9 => let n := k.dest % 8; [routeXY r c (if n < 4 then 0 else 47) (edgeCol n (k.src % 96)) (if n < 4 then 1 else 2)]
    | 0xA => let n := k.dest % 8; [routeXY r c (if n < 4 then 0 else 47) (edgeCol n (k.src % 96)) (if n < 4 then 1 else 2)]
    | 0xB =>
      let q := k.dest % 32
      [routeYX r c (portNear q (k.src / 96)) (if portEast q then 95 else 0) (if portEast q then 3 else 4)]
    | _ => [routeYX r c (k.dest / 96) (k.dest % 96) 0]

/-- Payload lines. -/
def pktLines (k : Packet) : Nat := k.payload.length / 64

/-- The kinds of Table 9.3. -/
def kindListed (k : Nat) : Bool := (1 ≤ k && k ≤ 6) || (8 ≤ k && k ≤ 0xE)

/-- The first twelve header bytes (Table 9.1). -/
def hdrBytes (k : Packet) : List Byte :=
  toLe 1 (k.kind + 16 * k.vc + 64 * b2n k.mcast + 128 * b2n k.last) ++ toLe 1 (pktLines k + 8 * k.sub)
    ++ toLe 2 k.key ++ toLe 2 k.dest ++ toLe 2 k.src ++ toLe 4 k.addr

/-- The whole 16-byte header. -/
def hdrAll (k : Packet) : List Byte := hdrBytes k ++ toLe 4 k.aux

/-- The entries of an inbound channel, oldest first. -/
def chan (t : Tile) (n : Nat) : List ChEnt := kvGet [] t.chans n

/-! ## Room downstream (R243, R251, R265) -/

/-- The channel a delivery is for, if it is one. -/
def chanOf (k : Packet) : Option Nat :=
  match k.kind with
  | 1 => some (k.sub % 8)
  | 4 => some (fld k.payload 0x16 1 % 8)
  | 6 => some (fld k.payload 0x16 1 % 8)
  | _ => none

/-- Does a tile take channel entries (Table 2.6)? -/
def takesEntries (t : Tile) : Bool := t.st == .active || t.st == .switching

/-- Lines waiting at fabric-in. -/
def finLines (t : Tile) : Nat := t.store.fin.foldl (fun n k => n + pktLines k) 0

/-- Is a packet for fabric-in? -/
def isBulk (k : Packet) : Bool := k.kind == 8 || k.kind == 0xC || k.kind == 0xE

/-- Room at a tile's sinks for a packet: the stamp and the cycle since which it stands. A role that has just been moved takes
nothing before the next bell (R370). -/
def sinkRoom (t : Tile) (k : Packet) : Option (Nat × Nat) :=
  if t.joins && takesEntries t then none else match chanOf k with
  | some n =>
    let waiting := (t.router.eject.filter (fun e => chanOf e == some n)).length
    if !(takesEntries t) || (chan t n).length + waiting < 16 then some (kvGet (0, 0) t.router.rooms (8 + n)) else none
  | none =>
    if isBulk k then
      (if finLines t + pktLines k ≤ 8 then some (kvGet (0, 0) t.router.rooms (pktLines k)) else none)
    else some (0, 0)

/-- Where an output leads: the neighbour and its input, or an edge. -/
def outTo (l o : Nat) : Option (Nat × Nat) := (neighbour l o).map (fun n => (n, opposite o))

/-- Is there room for a packet of an output's own: a sink's lines, or an empty downstream buffer of its channel (R251)? -/
def nextEmpty (s : State) (l o : Nat) (k : Packet) : Bool :=
  if o == 0 then (sinkRoom (getTile s (physOf s l)) k).isSome
  else match outTo l o with
    | some q => (rtBuf (getTile s (physOf s q.1)).router q.2 k.vc).pkt.isNone
    | none => true

/-- Does an input of a router hold a presented, ungranted packet for an output (R251)? -/
def inputHolds (s : State) (l input : Nat) (outs : List Nat) : Bool :=
  let r := (getTile s (physOf s l)).router
  (upto 0 3).any (fun v =>
    let b := rtBuf r input v
    match b.pkt with
    | none => false
    | some k => (pktOuts l input k).any (fun o => outs.contains o && !(b.granted.contains o) && nextEmpty s l o k))

/-- Room beyond an output for a packet. -/
def outRoom (s : State) (l o : Nat) (k : Packet) : Option (Nat × Nat) :=
  if o == 0 then sinkRoom (getTile s (physOf s l)) k
  else match outTo l o with
    | none => some (0, 0)
    | some q =>
      let b := rtBuf (getTile s (physOf s q.1)).router q.2 k.vc
      if b.pkt.isSome || inputHolds s q.1 q.2 (pktOuts q.1 q.2 { k with fwd := false }) then none
      else some (b.emptySeq, b.emptyCc)

/-! ## Injection into the mesh -/

/-- Put a packet into an input buffer, with its high-water mark (R266). -/
def bufPut (stamp cc input : Nat) (k : Packet) (r : Router) : Router :=
  let n := pktLines k + 1
  { r with
    bufs := kvMod {} r.bufs (3 * input + k.vc) (fun b => { b with pkt := some k, granted := [], seq := stamp, cc := cc })
    ports := kvMod {} r.ports input (fun q => match k.vc with
      | 0 => { q with vc0 := max q.vc0 n }
      | 1 => { q with vc1 := max q.vc1 n }
      | _ => { q with vc2 := max q.vc2 n }) }

/-- Is a packet kept from starting toward an input, because that input holds a presented packet for an output it would use
(R251)? -/
def startHeld (s : State) (l input : Nat) (k : Packet) : Bool := inputHolds s l input (pktOuts l input { k with fwd := false })

/-- Move waiting injected packets into empty local buffers, one for each virtual channel, in order; a bypass takes none
(R389). -/
def fillLocal (s : State) (p : Nat) : State :=
  if onBypass s p then s else (upto 0 3).foldl (fun s v =>
    let r := (getTile s p).router
    match (rtBuf r 0 v).pkt, r.inject.find? (fun k => k.vc == v) with
    | none, some k =>
      if startHeld s (logD s p) 0 k then s
      else
        let q := nextStamp s
        modRouter q.2 p (fun r => bufPut q.1 s.clk.cycles 0 k { r with inject := r.inject.eraseP (fun x => x.vc == v) })
    | _, _ => s) s

/-- The router of a tile takes packets at its local input (R259: it stamps its key; the source is the tile's own endpoint).
The local input is the first that they enter: it accepts them only if the key is live. -/
def injectRaw (s : State) (p : Nat) (ks : List Packet) : State :=
  let key := (getTile s p).router.key
  let tbl := keyTable s
  let stamped := ks.map (fun k => { k with key := key, src := logD s p })
  if onBypass s p then s
  else if keyLive tbl key then
    fillLocal (modRouter s p (fun r => { r with inject := r.inject ++ stamped.map (fun k => { k with table := tbl }) })) p
  else stamped.foldl (fun s k => keyDrop s p 0 k) s

/-- Inject packets at a tile. Outputs of a tile that is not live are suppressed. -/
def injectAll (s : State) (p : Nat) (ks : List Packet) : State :=
  if !(outputsLive (getTile s p)) || ks.isEmpty then s else injectRaw s p ks

/-- A control packet on VC2 (Table 9.3). -/
def ctlPacket (kind sub dest aux : Nat) (payload : List Byte) : Packet :=
  { kind := kind, vc := 2, sub := sub, dest := dest, aux := aux, payload := payload }

/-! ## Channels (R66, R264) -/

/-- Is a packet the credit return of an earlier pop in the same cc (R264)? -/
def sameReturn (n dest born : Nat) (k : Packet) : Bool :=
  k.kind == 2 && k.sub == n && k.dest == dest && k.born == born && k.aux < 16

/-- One more credit in a credit return. -/
def moreCredit (k : Packet) : Packet := { k with aux := k.aux + 1 }

/-- Add a credit to the return of an earlier pop in the same cc, if it is still at the tile's own input (R264). -/
def creditJoin (n dest born : Nat) (r : Router) : Option Router :=
  if (rtBuf r 0 2).pkt.any (sameReturn n dest born) then
    some { r with bufs := kvMod {} r.bufs 2 (fun b => { b with pkt := b.pkt.map moreCredit }) }
  else if r.inject.any (sameReturn n dest born) then
    some { r with inject := r.inject.map (fun x => if sameReturn n dest born x then moreCredit x else x) }
  else none

/-- Return a credit to a sender (R264): the pops of one channel in one cc share a packet. -/
def creditReturn (s : State) (p n dest cc : Nat) : State :=
  match creditJoin n dest (cc + 1) (getTile s p).router with
  | some r => modRouter s p (fun _ => r)
  | none => injectAll s p [{ ctlPacket 2 n dest 1 [] with born := cc + 1 }]

/-- Pop the head of a channel in interval cc `cc`; a credited entry returns its credit to its sender (R264). -/
def popChan (s : State) (p n cc : Nat) : State :=
  match chan (getTile s p) n with
  | [] => s
  | e :: rest =>
    let r := nextStamp s
    let s1 := modTile r.2 p (fun t => { t with
      chans := kvSet [] t.chans n rest
      chHead := kvSet 0 t.chHead n ((kvGet 0 t.chHead n + 1) % 16)
      router := { t.router with rooms := if rest.length == 15 then kvSet (0, 0) t.router.rooms (8 + n) (r.1, s.clk.cycles)
                                         else t.router.rooms } })
    if e.credited then creditReturn s1 p n e.sender cc else s1

/-- Entry k of the outbound credit table of the active pattern (R66): destination, channel, configured credits. -/
def outEntry (t : Tile) (k : Nat) : Nat × Nat × Nat :=
  let e := secRead t.store.mem t.actBank 2 (32 + 8 * k) 8
  (fld e 0 2, fld e 2 1, fld e 3 1)

/-- Entries channel n grants under the active pattern (R66). -/
def inGrant (t : Tile) (n : Nat) : Nat := fld (secRead t.store.mem t.actBank 2 (4 * n) 4) 0 1

/-- Credits held on an outbound entry. -/
def credits (t : Tile) (k : Nat) : Nat := kvGet 0 t.outCredits k

/-- Send a 64 B entry on outbound entry k, taking a credit (R67, R223). -/
def sendEntry (s : State) (p k : Nat) (payload : List Byte) : State :=
  let e := outEntry (getTile s p) k
  injectAll (modTile s p (fun t => { t with outCredits := kvSet 0 t.outCredits k (credits t k - 1) })) p
    [ctlPacket 1 e.2.1 e.1 0 payload]

end Sys2Proof.Machine
end

