-- ==== Sys2Proof/Machine/Trace.lean ====
section
/-! DEFINITION. The trace units: taps, records and triggers (spec/18_debug_and_trace.md, R489 to R491). Points of trace:
DESIGN CHOICE, assumption 36. -/

namespace Sys2Proof.Machine

/-- Change a partition's trace unit. -/
def modTrace (s : State) (n : Nat) (f : Trace → Trace) : State := modPart s n (fun p => { p with trace := f p.trace })

/-- Change a trace unit that is powered: it is of the partition's fabric domain (R21). -/
def onTrace (s : State) (n : Nat) (f : Trace → Trace) : State := if domOn s (5 * n + 4) then modTrace s n f else s

/-- A trace unit after a reset that leaves its settings (R492). -/
def traceClear (t : Trace) : Trace :=
  { stopMode := t.stopMode, trigs := t.trigs, tapTiles := t.tapTiles, tapPorts := t.tapPorts, tapClerk := t.tapClerk }

/-- Records the capture buffer holds (R489). -/
def traceCap : Nat := 8192

/-- A record of Table 18.3. -/
def traceRec (kind : Nat) (lost : Bool) (tile cc bell : Nat) (data : List Byte) : List Byte :=
  toLe 1 kind ++ toLe 1 (b2n lost) ++ toLe 2 tile ++ toLe 4 cc ++ toLe 8 (bell % 2 ^ 48) ++ slice data 0 16

/-- Store a record in the buffer: wrap mode overwrites the oldest, stop mode stops when full (R489). -/
def traceStore (t : Trace) (r : List Byte) : Trace :=
  if t.recs.length < traceCap then { t with recs := t.recs ++ [r], lostFlag := false }
  else if t.stopMode then { t with capture := false }
  else { t with recs := t.recs.drop 1 ++ [r], lostFlag := false }

/-- Capture a record from a tap: the ring delivers at most four in one cc, and counts the others as lost (R489). -/
def traceCapture (t : Trace) (kind tile cc bell : Nat) (data : List Byte) : Trace :=
  if !t.capture then t
  else
    let n := if t.ringAt == (bell, cc) then t.ringN + 1 else 1
    let t1 := { t with ringAt := (bell, cc), ringN := n }
    if 4 < n then { t1 with lost := satAdd 32 t1.lost 1, lostFlag := true }
    else traceStore t1 (traceRec kind t1.lostFlag tile cc bell data)

/-- A trigger entry's condition, tile, value and count (Table 18.4). -/
def trigCond (e : List Byte) : Nat := fld e 0 1
/-- Its action. -/
def trigAction (e : List Byte) : Nat := fld e 1 1
/-- Its tile. -/
def trigTile (e : List Byte) : Nat := fld e 2 2
/-- Its value. -/
def trigValue (e : List Byte) : Nat := fld e 4 4
/-- Its count. -/
def trigCount (e : List Byte) : Nat := fld e 8 8

/-- Mark trigger k as matched in the standing sample, and count the match. -/
def trigHit (t : Trace) (k : Nat) : Trace :=
  if t.hits.contains k then t
  else { t with hits := t.hits ++ [k], counts := kvSet 0 t.counts k (kvGet 0 t.counts k + 1) }

/-- The cond 0x6 triggers whose named trigger has now matched their count match in the same sample (R491). -/
def trigChain (t : Trace) : Trace :=
  (upto 0 8).foldl (fun t _ => t.trigs.zipIdx.foldl (fun t q =>
    if trigCond q.1 == 6 && t.hits.contains (trigValue q.1) && kvGet 0 t.counts (trigValue q.1) == trigCount q.1
    then trigHit t q.2 else t) t) t

/-- Something that a trigger may watch for has happened: the triggers it matches stand in the sample (R490). -/
def traceWatch (s : State) (n : Nat) (test : List Byte → Bool) : State :=
  if (getPart s n).trace.trigs.any test then
    onTrace s n (fun t => trigChain (t.trigs.zipIdx.foldl (fun t q => if test q.1 then trigHit t q.2 else t) t))
  else s

/-- A tap of step fires (R489). -/
def traceStep (s : State) (p step fire desc cc : Nat) : State :=
  let l := logD s p
  let n := physPart p
  let s1 := if (getPart s n).trace.tapTiles.contains l then
      onTrace s n (fun t => traceCapture t 1 l cc s.clk.bell (toLe 2 step ++ toLe 2 fire ++ toLe 1 desc ++ zeros 11))
    else s
  traceWatch s1 n (fun e => trigCond e == 1 && trigTile e == l && trigValue e == step)

/-- A tap of a router output: `port` its code, `hdr` the first 12 bytes of the header. -/
def tracePacket (s : State) (p port kind : Nat) (hdr : List Byte) : State :=
  let l := logD s p
  let n := physPart p
  let s1 := if (getPart s n).trace.tapPorts.contains (l + 8192 * port) then
      onTrace s n (fun t => traceCapture t 2 l (ctxCc s n) s.clk.bell (toLe 1 port ++ zeros 3 ++ slice hdr 0 12))
    else s
  traceWatch s1 n (fun e => trigCond e == 2 && trigTile e == l && trigValue e == kind)

/-- A tap of clerk retirements. -/
def traceRetire (s : State) (p pc word rd : Nat) : State :=
  let l := logD s p
  let n := physPart p
  let s1 := if (getPart s n).trace.tapClerk == l then
      onTrace s n (fun t => traceCapture t 3 l (ctxCc s n) s.clk.bell (toLe 4 pc ++ toLe 4 word ++ toLe 4 rd ++ zeros 4))
    else s
  traceWatch s1 n (fun e => trigCond e == 3 && trigTile e == l && trigValue e == pc)

end Sys2Proof.Machine
end

