-- ==== Sys2Proof/Machine/Sequencer.lean ====
section
/-! DEFINITION. The sequencer: checking, firing and leaving a step (spec/02, R62 to R66, R41), and the descriptors its
units sample in the fire cc (R234). Passes are atomic: DESIGN CHOICE, assumption 10. -/

namespace Sys2Proof.Machine

/-- Steps of the active pattern's sequencer program (R54). -/
def seqSteps (t : Tile) : Nat := secLen t.store.mem t.actBank 6 / 8

/-- Descriptors of the active pattern. -/
def descCount (t : Tile) : Nat := secLen t.store.mem t.actBank 7 / 32

/-- The current step's 64-bit word (Table 2.7). -/
def seqWord (t : Tile) : Nat := leNat (secRead t.store.mem t.actBank 6 (8 * t.seq.step) 8)

/-- next_t of a step word. -/
def swNextT (w : Nat) : Nat := bits w 63 55
/-- next_f of a step word. -/
def swNextF (w : Nat) : Nat := bits w 54 46
/-- cond of a step word. -/
def swCond (w : Nat) : Nat := bits w 45 43
/-- sel of a step word. -/
def swSel (w : Nat) : Nat := bits w 42 40
/-- ctr of a step word. -/
def swCtr (w : Nat) : Nat := bits w 39 38
/-- ctr_op of a step word. -/
def swCtrOp (w : Nat) : Nat := bits w 37 36
/-- fire of a step word. -/
def swFire (w : Nat) : Nat := bits w 35 24
/-- desc of a step word. -/
def swDesc (w : Nat) : Nat := bits w 23 16
/-- hold of a step word. -/
def swHold (w : Nat) : Nat := bits w 15 0

/-- A descriptor with the clerk's patches over it (R234): of two enabled slots that name one word, the lower wins. -/
def descRead (t : Tile) (idx : Nat) : List Byte :=
  (upto 0 8).reverse.foldl (fun d k =>
    let loc := (kvGet 0 t.clerk.dpLoc k).toNat
    if bitAt loc 31 && bits loc 9 3 == idx then patch d (4 * bits loc 2 0) (toLe 4 (kvGet 0 t.clerk.dpVal k).toNat)
    else d) (secRead t.store.mem t.actBank 7 (32 * idx) 32)

/-- The chain entries a fuller head names (R168): the extension and its stage entries; none past index 127. -/
def chainRead (t : Tile) (d : List Byte) : List (List Byte) :=
  let i := fld d 0x16 1
  let n := 1 + (fld d 0x17 1 + 2) / 3
  if i + n ≤ 128 then (upto i n).map (descRead t) else []

/-- The units that take a descriptor, in bit order of fire (R62). -/
def descUnits : List Nat := [0, 1, 3, 4, 5, 6, 7, 8, 9, 11]

/-- The units a step fires, in bit order, each with its descriptor index. -/
def firedUnits (fire desc : Nat) : List (Nat × Nat) :=
  ((upto 0 12).foldl (fun (r : List (Nat × Nat) × Nat) u =>
    if bitAt fire u then
      (if descUnits.contains u then (r.1 ++ [(u, r.2)], r.2 + 1) else (r.1 ++ [(u, 0)], r.2))
    else r) ([], desc)).1

/-- The sampled descriptor of a unit fired in cc `cc` (R103, R171, R173, R234). -/
def sampleFired (t : Tile) (u idx cc : Nat) (withRed : Bool) : Fired :=
  let d := if descUnits.contains u then descRead t idx else []
  { unit := u, desc := d, descIdx := idx, chain := if u == 3 then chainRead t d else []
    step := t.seq.step, fireCc := cc, modes := effModes t.num
    ctrs := (upto 0 4).map (fun k => kvGet 0 t.seq.ctrs k)
    len := t.fuller.len, res0 := t.fuller.res0, res1 := t.fuller.res1, withRed := withRed }

/-- Is a unit's work still in the tile's list? -/
def hasFired (t : Tile) (q : Fired → Bool) : Bool := t.fired.any q

/-- Is a fired entry a scatter pass? -/
def isScatter (f : Fired) : Bool := f.unit == 0 && fld f.desc 2 1 == 3

/-- The target of a scatter pass: 20 the granary, 21 the bins. -/
def scatTarget (d : List Byte) : Nat := if bitAt (fld d 3 1) 1 then 21 else 20

/-- Is a reduction still to run or to be written (R180)? -/
def redPending (t : Tile) : Bool := t.fuller.redPend.isSome || t.fuller.tap.isSome || hasFired t (fun f => f.unit == 4)

/-- The cc the last result of the pending reduction is ready, from its fire on (R187); none without one. -/
def redDue (t : Tile) : Option Nat :=
  match t.fuller.redPend, t.fired.find? (fun f => f.unit == 4) with
  | some r, _ => some r.readyCc
  | none, none => none
  | none, some g =>
    match t.fuller.tap, t.fired.find? (fun f => f.unit == 3 && f.step == g.step && f.fireCc == g.fireCc) with
    | some k, _ => some (redReady g.desc k.firstCc k.vInt k.vecs.length (redResults g.desc k.vecs.length - 1))
    | none, some f =>
      let v := fulInterval f
      let n := (fulN f + 31) / 32
      let tap := fld g.desc 2 1
      some (redReady g.desc (f.fireCc + fulD f + v + 1 + (if tap == 8 then 0 else latTo f tap)) v n (redResults g.desc n - 1))
    | none, none => some g.fireCc

/-- The last store access of a reduction fired with its pass (R180, R187); 0 where its result goes to the registers. -/
def redLastOut (t : Tile) (g : Fired) : Nat :=
  match t.fired.find? (fun f => f.unit == 3 && f.step == g.step && f.fireCc == g.fireCc) with
  | some f =>
    if fld g.desc 6 1 == 0 then 0
    else
      let v := fulInterval f
      let n := (fulN f + 31) / 32
      let tap := fld g.desc 2 1
      let first := f.fireCc + fulD f + v + 1 + (if tap == 8 then 0 else latTo f tap)
      let size := if fld g.desc 1 1 == 4 || fld g.desc 1 1 == 6 then 8 else 4
      (lineParts (fld g.desc 8 4) (redResults g.desc n * size)).foldl (fun prev p =>
        redLineCc t.store.mem t.actBank (redReady g.desc first v n ((p.1 - fld g.desc 8 4 + p.2 - 1) / size)) p.1 prev + 1)
        (kvGet 0 t.busy 24) - 1
  | none => 0

/-- Does the granary or the bins still wait for spill DMA tags (R159)? -/
def spillOut (t : Tile) (target : Nat) : Bool := t.dma.jobs.any (fun j => j.spill && 20 + j.group == target)

/-- Would a swap that takes effect at the end of `cc` fall between the two multiply cycles of a vector (R124)? A scatter
group is no vector here (DESIGN CHOICE, assumption 56). -/
def swapStraddles (t : Tile) (cc : Nat) : Bool :=
  hasFired t (fun f => f.unit == 0 && fld f.desc 2 1 ≤ 1 && afmtCc (fld f.desc 1 1) == 2
    && f.fireCc + 2 ≤ cc && cc < loomLastMul f && (cc - f.fireCc) % 2 == 0)

/-- The checks of one unit in the fire cc (R65, R87 and each unit's own chapter); `head` is the fuller head fired in the
same step. -/
def unitOk (t : Tile) (lt : Nat) (head : Option Fired) (f : Fired) : Bool :=
  let free := fun (u : Nat) => kvGet 0 t.busy u ≤ f.fireCc
  match f.unit with
  | 0 =>
    if fld f.desc 2 1 == 3 then
      scatterDescOk f.desc && t.loom.scatterOk && free 0 && free (scatTarget f.desc) && !(spillOut t (scatTarget f.desc))
    else loomDescOk f.desc && free 0
  | 1 => shuttleDescOk f.desc && free 1 && free 23
  | 2 => free 1 && !(swapStraddles t f.fireCc)
  | 3 => fullerOk f && free 3 && (fld f.desc 3 1 == 0 || t.lastOut == 0 || t.lastOut < fulFirstOut f)
      && !(fulNamesRes f && (redPending t || !(free 24)))
  | 4 => (match head with
      | some h => redOk h.desc f.desc (fulN h) && !(redPending t) && free 24
      | none => false)
  | 5 => sieveDescOk f.desc && free 3
  | 6 => accDescOk f.desc && free (20 + fld f.desc 1 1) && !(spillOut t (20 + fld f.desc 1 1))
  | 7 => dmaDescOk t.store.mem f.desc 7 ((f.ctrs.drop (fld f.desc 0x1C 1 % 4)).headD 0) && t.dma.queue.length < 8
  | 8 => dmaDescOk t.store.mem f.desc 8 ((f.ctrs.drop (fld f.desc 0x1C 1 % 4)).headD 0) && t.dma.queue.length < 8
  | 9 => borrowDescOk f.desc && free 9 && !(hasFired t (fun g => g.unit == 9))
  | 11 => tokenDescOk f.desc lt && !(hasFired t (fun g => g.unit == 11))
  | _ => true

/-- What a scatter pass holds from its fire on (R148, R159, R161): the loom and its target until it has stopped issuing, and in
BF16×3 the shuttle until its last multiply cycle is past. -/
def scatterBusy (f : Fired) (busy : Kv Nat) : Kv Nat :=
  let b := kvSet 0 (kvSet 0 busy 0 (scBound f)) (scatTarget f.desc) (scBound f)
  if fld f.desc 1 1 == 6 && bitAt (fld f.desc 3 1) 2 then kvSet 0 b 23 (scBound f + 2) else b

/-- Put a checked unit's work into the tile: a DMA descriptor into the DMA queue, everything else into the list, with
the first free cc of the units whose length the descriptor fixes (R126, R123, R180, R206). -/
def unitFire (t : Tile) (f : Fired) : Tile :=
  if f.unit == 7 || f.unit == 8 then
    { t with dma := { t.dma with queue := t.dma.queue ++
      [{ desc := f.desc, ctr := (f.ctrs.drop (fld f.desc 0x1C 1 % 4)).headD 0, begun := 0, step := f.step
         descIdx := f.descIdx, fireCc := f.fireCc }] } }
  else
    let t1 := { t with fired := t.fired ++ [f] }
    match f.unit with
    | 0 => if isScatter f then { t1 with busy := scatterBusy f t1.busy } else { t1 with busy := kvSet 0 t1.busy 0 (loomBusyEnd f.desc f.fireCc + 1) }
    | 1 => { t1 with busy := kvSet 0 t1.busy 1 (f.fireCc + shuttleBeats f.desc) }
    | 3 => { t1 with busy := kvSet 0 t1.busy 3 (fulLastIn f + 1), lastOut := max t1.lastOut (fulLastOut t.store.mem t.actBank f) }
    | 4 => { t1 with lastOut := max t1.lastOut (redLastOut t f) }
    | 6 => { t1 with busy := kvSet 0 t1.busy (20 + fld f.desc 1 1) (accFree f) }
    | 9 => { t1 with busy := kvSet 0 t1.busy 9 (f.fireCc + fld f.desc 2 2 + 2) }
    | _ => t1

/-- Check and fire the units of a step in bit order; none when one of them is refused (R65). -/
def fireAll (lt cc : Nat) (withRed : Bool) : List (Nat × Nat) → Option Fired → Tile → Option Tile
  | [], _, t => some t
  | (u, idx) :: rest, head, t =>
    if descUnits.contains u && descCount t ≤ idx then none
    else
      let f := sampleFired t u idx cc (withRed && u == 3)
      if unitOk t lt head f then fireAll lt cc withRed rest (if u == 3 then some f else head) (unitFire t f) else none

/-- May a step stand at all (R65): its selector, and no hold beside a wait for the bell. -/
def stepLegal (w : Nat) : Bool :=
  !((swCond w == 1 || swCond w == 2) && 4 ≤ swSel w) && !((swCond w == 5 || swCond w == 6) && swHold w != 0)

/-- The counter operation at the end of a step (R63). -/
def ctrOp (q : Seq) (op k : Nat) : Seq :=
  let dec := fun (m : Kv Nat) => kvSet 0 m k (kvGet 0 m k - 1)
  match op with
  | 1 => { q with ctrs := dec q.ctrs }
  | 2 => { q with ctrs := kvSet 0 q.ctrs k (kvGet 0 q.reloads k) }
  | 3 => { q with ctrs := (upto 0 k).foldl (fun m i => kvSet 0 m i (kvGet 0 q.reloads i)) (dec q.ctrs) }
  | _ => q

/-- The token at the head of a channel (Table 2.8): kind, counter, value. -/
def headToken (t : Tile) (n : Nat) : Option (Nat × Nat × Nat) :=
  (chan t n).head?.map (fun e => (fld e.bytes 0 1, fld e.bytes 1 1, fld e.bytes 2 3))

/-- Leave a step by an index: one the program does not hold stops the tile at the end of the step (R62, R65). -/
def goTo (s : State) (p idx endCc : Nat) : State :=
  let t := getTile s p
  if idx < seqSteps t then
    setTile s p { t with seq := { t.seq with
      step := idx, nextCc := endCc + 1, moved := if idx == t.seq.step then t.seq.moved else s.clk.cycles } }
  else applyCtx s (ctxViolate (ctxOf s p) endCc)

/-- The end of a step that does not wait for the bell: counter operation, condition, token and flag, next step
(R62 to R64, R232). DESIGN CHOICE, assumption 54: a popped token of a kind outside Table 2.8 acts as a MARK, and a LOAD
token's counter is its field modulo 4. -/
def stepEnd (s : State) (p w cc : Nat) : State :=
  let endCc := cc + swHold w
  let s1 := modTile s p (fun t => { t with seq := ctrOp t.seq (swCtrOp w) (swCtr w) })
  let t := getTile s1 p
  let sel := swSel w
  match swCond w with
  | 0 => goTo s1 p (swNextT w) endCc
  | 1 => goTo s1 p (if kvGet 0 t.seq.ctrs sel == 0 then swNextT w else swNextF w) endCc
  | 2 => goTo s1 p (if kvGet 0 t.seq.ctrs sel != 0 then swNextT w else swNextF w) endCc
  | 3 => (match headToken t sel with
      | none => goTo s1 p (swNextF w) endCc
      | some k =>
        let s2 := popChan s1 p sel endCc
        if k.1 == 2 then
          goTo (modTile s2 p (fun t => { t with seq := { t.seq with
            ctrs := kvSet 0 t.seq.ctrs (k.2.1 % 4) k.2.2 } })) p (swNextT w) endCc
        else if k.1 == 3 && k.2.2 == 0 then goTo s2 p (swNextF w) endCc
        else goTo s2 p (swNextT w) endCc)
  | 4 => goTo s1 p (if (chan t sel).isEmpty then swNextT w else swNextF w) endCc
  | 7 =>
    if bitAt t.seq.flags sel then
      goTo (modTile s1 p (fun t => { t with seq := { t.seq with flags := clrBit t.seq.flags sel } })) p (swNextT w) endCc
    else goTo s1 p (swNextF w) endCc
  | _ => s1

/-- Does the firing of a unit wait for the command of an earlier pass, whose end depends on its data: the sieve's for the
fuller, a scatter pass's or a drain's for its target, a reduction's for its result (R65, R159, R180)? The earliest end of the
pass is past, so whether the unit is free is known only once that command has run (DEDUCED, assumption 17). -/
def unitAwaits (t : Tile) (u : Nat) (d : List Byte) : Bool :=
  let target := fun (k : Nat) => decide (kvGet 0 t.busy k ≤ t.seq.nextCc)
    && hasFired t (fun g => (isScatter g && scatTarget g.desc == k) || (g.unit == 6 && 20 + fld g.desc 1 1 == k))
  let red := redPending t && (match redDue t with | some cc => decide (cc < t.seq.nextCc) | none => false)
  match u with
  | 0 => fld d 2 1 == 3 && target (scatTarget d)
  | 3 => hasFired t (fun g => g.unit == 5) || (fulNamesRes { unit := 3, desc := d, chain := chainRead t d } && red)
  | 4 => red
  | 5 => hasFired t (fun g => g.unit == 5)
  | 6 => target (20 + fld d 1 1)
  | _ => false

/-- Does the current step wait for the command of an earlier pass? -/
def stepAwaits (t : Tile) : Bool :=
  (firedUnits (swFire (seqWord t)) (swDesc (seqWord t))).any (fun u => unitAwaits t u.1 (descRead t u.2))

/-- Can the tile's sequencer fire a step now: the tile Active and not stopped, no wait for the bell, no token send still
waiting for its credit (R41, R65), and none of the step's units waiting for an earlier pass's command? -/
def seqReady (t : Tile) : Bool :=
  t.st == .active && t.stop.isNone && t.seq.run && t.seq.wait == 0
  && !(hasFired t (fun f => f.unit == 11 && fld f.desc 1 1 == 0)) && !(stepAwaits t)

/-- Fire the current step's units (R62, R65); none when the step stops the tile. -/
def stepFire (t : Tile) (lt : Nat) : Option Tile :=
  let w := seqWord t
  if stepLegal w then
    fireAll lt t.seq.nextCc (bitAt (swFire w) 4) (firedUnits (swFire w) (swDesc w)) none t
  else none

/-- SEQUENCER_STEP: one step that does not wait for the bell. -/
def seqStep (s : State) (p : Nat) : State :=
  let t := getTile s p
  match stepFire t (logD s p) with
  | none => applyCtx s (ctxViolate (ctxOf s p) t.seq.nextCc)
  | some t1 =>
    let w := seqWord t
    stepEnd (traceStep (setTile s p t1) p t.seq.step (swFire w) (swDesc w) t.seq.nextCc) p w t.seq.nextCc

/-- WAIT_FOR_BELL: a cond 5 or 6 step fires and waits. -/
def seqWait (s : State) (p : Nat) : State :=
  let t := getTile s p
  match stepFire t (logD s p) with
  | none => applyCtx s (ctxViolate (ctxOf s p) t.seq.nextCc)
  | some t1 =>
    let w := seqWord t
    traceStep (setTile s p { t1 with seq := { t1.seq with wait := swCond w } }) p t.seq.step (swFire w) (swDesc w)
      t.seq.nextCc

/-- The bell ends a wait: the step's counter operation, then next_t; the tile's timeline starts again at cc 0
(R37, R62, R63). -/
def seqBell (s : State) (p : Nat) : State :=
  let t := getTile s p
  if t.seq.wait == 0 then modTile s p (fun t => { t with seq := { t.seq with nextCc := 0 } })
  else
    let w := seqWord t
    let s1 := setTile s p { t with seq := ctrOp { t.seq with wait := 0, nextCc := 0 } (swCtrOp w) (swCtr w) }
    if swNextT w < seqSteps t then
      modTile s1 p (fun t => { t with seq := { t.seq with step := swNextT w } })
    else applyCtx s1 (ctxViolate (ctxOf s1 p) 0)

/-- SEQUENCER_STEP (R62). -/
def execSequencerStep (p : Nat) (s : State) : Res :=
  if ¬ p < tileCount then .refused .noSuchUnit
  else
    let t := getTile s p
    if seqReady t && !(swCond (seqWord t) == 5 || swCond (seqWord t) == 6) then .next (seqStep s p) else .next s

/-- WAIT_FOR_BELL (R63). -/
def execWaitForBell (p : Nat) (s : State) : Res :=
  if ¬ p < tileCount then .refused .noSuchUnit
  else
    let t := getTile s p
    if seqReady t && (swCond (seqWord t) == 5 || swCond (seqWord t) == 6) then .next (seqWait s p) else .next s

end Sys2Proof.Machine
end

