-- ==== Sys2Proof/Machine/Units.lean ====
section
/-! DEFINITION. The commands of a tile's units: each takes the oldest work its unit was fired with (R62), runs the whole
pass on the tile, and reports what it found (spec/04_loom.md to spec/07_tile_store.md). A command whose unit has no such
work changes nothing (assumption 2). Passes are atomic (DESIGN CHOICE, assumption 10); readings of the engine rules: DEDUCED,
assumption 17. -/

namespace Sys2Proof.Machine

/-- Run a unit's oldest work when it is of the named kind and may run now. -/
def unitRun (s : State) (p u : Nat) (ok : Tile → Fired → Bool) (run : Fired → State → State) : Res :=
  if ¬ p < tileCount then .refused .noSuchUnit
  else
    match firstFired (getTile s p) u with
    | none => .next s
    | some f => if ok (getTile s p) f then .next (run f s) else .next s

/-- Has the sequencer fired every pass whose draws can fall among those of a pass (R93)? -/
def drawsPast (t : Tile) (f : Fired) : Bool := !(passDraws f) || (lastDraw f).all (timePast t)

/-- A pass on the tile alone: it ends, frees its unit, and its reports go out. -/
def passRun (p u : Nat) (pass : Fired → Ctx → Nat × Ctx) (f : Fired) (s : State) : State :=
  let r := pass f (ctxOf s p)
  applyCtx s (finishFired r.2 u r.1)

/-! ## Loom (R120 to R128) -/

/-- May the loom's oldest stream run: it is of the named op, its multiply cycles are past, and no older shuttle work
stands before one of them (R124)? -/
def loomReady (op : Nat) (t : Tile) (f : Fired) : Bool :=
  fld f.desc 2 1 == op && timePast t (if op == 2 then loomBusyEnd f.desc f.fireCc else loomLastMul f)
  && (op == 2 || !(t.fired.any (fun g => (g.unit == 1 || g.unit == 2) && g.fireCc < loomLastMul f))) && drawsPast t f

/-- The cc in which a loom pass's stream and drain are over, which TL_LOOM_STATUS shows (R127, Table 4.10). -/
def loomBusy (f : Fired) (t : Tile) : Tile :=
  let b := if fld f.desc 2 1 == 2 then t.busy else kvSet 0 t.busy 26 (max (kvGet 0 t.busy 26) (loomStreamDone f))
  { t with busy := if fld f.desc 0xE 2 == 0 then b else kvSet 0 b 27 (max (kvGet 0 b 27) (loomDrainDone f)) }

/-- One loom pass. `ups` are upsets of column sums, `accUps` accumulator words found failing (assumption 13). -/
def loomRun (ups : List (Nat × Nat × Word)) (accUps : List (Nat × Nat)) (f : Fired) (c : Ctx) : Nat × Ctx :=
  (loomDoneCc f, ctxTile (loomPass f ups accUps c) (loomBusy f))

/-- LOOM_OVERWRITE_STREAM (R120). -/
def execLoomOverwriteStream (p : Nat) (ups : List (Nat × Nat × Word)) (accUps : List (Nat × Nat)) (s : State) : Res :=
  unitRun s p 0 (loomReady 0) (passRun p 0 (loomRun ups accUps))

/-- LOOM_ACCUMULATE_STREAM (R120). -/
def execLoomAccumulateStream (p : Nat) (ups : List (Nat × Nat × Word)) (accUps : List (Nat × Nat)) (s : State) : Res :=
  unitRun s p 0 (loomReady 1) (passRun p 0 (loomRun ups accUps))

/-- LOOM_DRAIN_ONLY (R128). -/
def execLoomDrainOnly (p : Nat) (accUps : List (Nat × Nat)) (s : State) : Res :=
  unitRun s p 0 (loomReady 2) (passRun p 0 (loomRun [] accUps))

/-! ## Borrow paths (R205) -/

/-- Does a fired entry ask the neighbour in direction `dir` for a beat in `cc`? -/
def asksBeat (dir cc : Nat) (f : Fired) : Bool :=
  fld f.desc 1 1 == dir && f.fireCc ≤ cc
  && ((f.unit == 1 && cc < f.fireCc + shuttleBeats f.desc) || (f.unit == 9 && cc < f.fireCc + fld f.desc 2 2))

/-- Does the tile's own borrow copy write through its borrow port in `cc` (R206)? -/
def ownBorrowWrite (t : Tile) (cc : Nat) : Bool :=
  t.fired.any (fun f => f.unit == 9 && f.fireCc + 2 ≤ cc && cc < f.fireCc + 2 + fld f.desc 2 2)

/-- Is the lender's borrow port taken in `cc` before a request from direction `from` (R205): it has served that cc, its
own copy writes, or a neighbour that comes before in the order north, south, east, west asks? -/
def portTaken (s : State) (lender frm cc : Nat) : Bool :=
  let t := getTile s (physOf s lender)
  t.lend.any (fun r => r.1 ≤ cc && cc ≤ r.2) || ownBorrowWrite t cc
  || (upto 1 (frm - 1)).any (fun d => match neighbour lender d with
      | some n => (getTile s (physOf s n)).fired.any (asksBeat (opposite d) cc)
      | none => false)

/-- The four lines of a beat all lie in cells the borrow port holds. -/
def beatCells (c : Ctx) (a cc : Nat) : Bool :=
  (upto 0 4).all (fun i => cellHolder c (lineBank (a + 64 * i)) cc == 8)

/-- Read the four lines of a beat at the lender. -/
def beatRead (c : Ctx) (cc a : Nat) : List Byte × Ctx :=
  (upto 0 4).foldl (fun r i => let x := lineRead r.2 8 cc (a + 64 * i); (r.1 ++ x.1, x.2)) ([], c)

/-- One beat lent to physical tile `p` by its neighbour in direction `dir` (R205): the 256 bytes, or a refusal, which
the lender counts. A lender that a requester's stop found not Active, or that is not there, counts nothing of its own. -/
def lendBeat (s : State) (p dir cc a : Nat) : Option (List Byte) × State :=
  match neighbour (logD s p) dir with
  | none => (none, s)
  | some n =>
    let lp := physOf s n
    let t := getTile s lp
    let refuse := fun (s : State) => modTile s lp (fun t => storeMod t (fun q => { q with cellRef := satAdd 16 q.cellRef 1 }))
    if (getTile s p).router.key != t.router.key then
      (none, sendEvent (refuse s) (tileEvent s lp 0x0155 cc 0 0 []))
    else if t.st != .active || !(beatCells (ctxOf s lp) a cc) || portTaken s n (opposite dir) cc
        || Config.storeBytes < a + 256 then (none, refuse s)
    else
      let r := beatRead (ctxOf s lp) cc a
      (some r.1, applyCtx s (ctxTile r.2 (fun t => { t with lend := t.lend ++ [(cc, cc)] })))

/-- Beats lent one after another; the bytes got, and the cc of a refusal. -/
def lendBeats (p dir cc a : Nat) : Nat → State → List Byte → List Byte × Option Nat × State
  | 0, s, acc => (acc, none, s)
  | n + 1, s, acc =>
    match lendBeat s p dir cc a with
    | (none, s1) => (acc, some cc, s1)
    | (some bs, s1) => lendBeats p dir (cc + 1) (a + 256) n s1 (acc ++ bs)

/-! ## Shuttle (R123, R124) -/

/-- May shuttle work run: nothing of the loom or the shuttle fired before it still waits. -/
def shuttleReady (t : Tile) (f : Fired) : Bool :=
  !(t.fired.any (fun g => (g.unit == 1 || g.unit == 2) && g.fireCc < f.fireCc))

/-- A shuttle load (R123): the block from the own store, or over a borrow path. -/
def shuttleRun (p : Nat) (f : Fired) (s : State) : State :=
  let src := fld f.desc 1 1
  let a := fld f.desc 4 4
  let bytes := blockBytes (fld f.desc 2 1)
  let done := f.fireCc + shuttleBeats f.desc
  if src == 0 then
    let r := streamRead (ctxOf s p) 10 f.fireCc a bytes
    applyCtx s (finishFired (if r.2.abort then r.2 else shuttlePut f r.1 r.2) 1 done)
  else
    let r := lendBeats p src f.fireCc a (bytes / 256) s []
    let c := ctxOf r.2.2 p
    applyCtx r.2.2 (finishFired (match r.2.1 with
      | some cc => ctxViolate c cc
      | none => shuttlePut f r.1 c) 1 done)

/-- SHUTTLE_LOAD (R123). -/
def execShuttleLoad (p : Nat) (s : State) : Res := unitRun s p 1 shuttleReady (shuttleRun p)

/-- The sets exchange at the end of the cc (R124). -/
def swapRun (f : Fired) (c : Ctx) : Nat × Ctx :=
  (f.fireCc + 1, loomMod c (fun l => { l with activeB := !l.activeB, swaps := l.swaps ++ [f.fireCc] }))

/-- SHUTTLE_SWAP (R124). -/
def execShuttleSwap (p : Nat) (s : State) : Res := unitRun s p 2 shuttleReady (passRun p 2 swapRun)

/-! ## Sieve, scatter and accumulator drains (R142 to R164) -/

/-- SIEVE_PASS (R145). -/
def execSievePass (p : Nat) (s : State) : Res := unitRun s p 5 (fun _ _ => true) (passRun p 5 sievePass)

/-- Is a scatter pass of a phase (flags [0] the overflow phase, Table 5.4), and may it run: its issue is over, and no shuttle
work fired before its end still waits (R146)? -/
def scatterIs (ovf : Bool) (t : Tile) (f : Fired) : Bool :=
  isScatter f && bitAt (fld f.desc 3 1) 0 == ovf && timePast t (scBound f - 1)
  && !(t.fired.any (fun g => (g.unit == 1 || g.unit == 2) && g.fireCc < scBound f))

/-- SCATTER_PASS (R161). `ups` are upsets of column sums: 2^16 pass + 256 block + 32 segment + vector, column and flipped bits
(assumption 13). -/
def execScatterPass (p : Nat) (ups : List (Nat × Nat × Word)) (s : State) : Res :=
  unitRun s p 0 (scatterIs false) (passRun p 0 (fun f c => scatterMain f ups c))

/-- OVERFLOW_PASS (R164), with upsets as SCATTER_PASS has them. -/
def execOverflowPass (p : Nat) (ups : List (Nat × Nat × Word)) (s : State) : Res :=
  unitRun s p 0 (scatterIs true) (passRun p 0 (fun f c => scatterOverflow f ups c))

/-- Is an accumulator drain of a target, and does it write (Table 5.9)? -/
def accIs (target : Nat) (clearOnly : Bool) (t : Tile) (f : Fired) : Bool :=
  bitAt (fld f.desc 2 1) 1 == clearOnly && (clearOnly || fld f.desc 1 1 == target) && drawsPast t f

/-- GRANARY_DRAIN (R158). -/
def execGranaryDrain (p : Nat) (s : State) : Res :=
  unitRun s p 6 (accIs 0 false) (passRun p 6 granDrain)

/-- BINS_DRAIN (R158). -/
def execBinsDrain (p : Nat) (s : State) : Res :=
  unitRun s p 6 (accIs 1 false) (passRun p 6 binsDrain)

/-- ACCUMULATOR_CLEAR_ONLY (R158). -/
def execAccumulatorClearOnly (p : Nat) (s : State) : Res :=
  unitRun s p 6 (accIs 0 true) (passRun p 6 accClear)

/-! ## Fuller (R168 to R187) -/

/-- The tap a pass's reduction names: the one of the same step (R185); 0 without one. -/
def tapOf (t : Tile) (f : Fired) : Nat :=
  if f.withRed then ((t.fired.find? (fun g => g.unit == 4 && g.step == f.step)).map (fun g => fld g.desc 2 1)).getD 0 else 0

/-- FULLER_PASS (R179). -/
def execFullerPass (p : Nat) (ups : List FulUps) (s : State) : Res :=
  unitRun s p 3 (fun t f => timePast t (fulLastIn f) && drawsPast t f)
    (passRun p 3 (fun f c => (max (fulLastIn f) (fulLastOut c.t.store.mem c.t.actBank f), fullerPass f ups (tapOf c.t f) c)))

/-- REDUCTION (R185): it runs once its pass has let the stream tap. -/
def execReduction (p : Nat) (ups : List FulUps) (s : State) : Res :=
  unitRun s p 4 (fun t f => match t.fuller.tap with
      | some k => k.step == f.step
      | none => false)
    (passRun p 4 (fun f c =>
      let r := reductionRun f ups c
      ((r.t.fuller.redPend.map (fun q => q.readyCc)).getD f.fireCc, r)))

/-- REDUCTION_RESULT_WRITE (R187): a ready result is written, of a store result the lines that are ready. -/
def execReductionResultWrite (p : Nat) (s : State) : Res :=
  if ¬ p < tileCount then .refused .noSuchUnit
  else
    match (getTile s p).fuller.redPend with
    | none => .next s
    | some r =>
      if (getTile s p).st == .pinfold then .next s
      else if timePast (getTile s p) (r.ready.headD r.readyCc) && (r.dest == 1 || timePast (getTile s p) r.readyCc) then
        .next (applyCtx s (redWrite r (timePast (getTile s p)) (ctxOf s p)))
      else .next s

/-! ## Tally failures of a tile (R338 to R340) -/

/-- Latch a tile tally failure: counted, recorded once in a lot (Table 12.3), the event, and the lots fail. `out` counts
in MISM.OUT. -/
def tallyFail (c : Ctx) (out : Bool) (point kind peer sAddr expected computed cc : Nat) : Ctx :=
  let recd := toLe 1 point ++ toLe 1 kind ++ toLe 2 peer ++ toLe 4 sAddr ++ toLe 4 expected ++ toLe 4 computed
    ++ toLe 8 (c.bell % 2 ^ 48) ++ toLe 8 c.lot
  let c1 := ctxTile c (fun t => { t with tally := { t.tally with
    mismIn := if out then t.tally.mismIn else satAdd 16 t.tally.mismIn 1
    mismOut := if out then satAdd 16 t.tally.mismOut 1 else t.tally.mismOut
    recd := if t.tally.recValid then t.tally.recd else recd
    recValid := true } })
  ctxSig (ctxSig c1 (.event 0x0111 cc 5 recd)) (.fail 0x0012 cc)

/-! ## Borrow copy (R206, R340) -/

/-- The destination entry of one aligned bolt of a borrow copy takes the lender's entry; a Valid one is checked. An entry that becomes
Stale counts, and one that is Filling takes a tracker with the half lines `halves` of the lender's (R337; assumption 17). -/
def borrowEntry (c : Ctx) (ent : TallyEnt) (halves : List Nat) (dir sAddr dBolt cc : Nat) : Ctx :=
  let bs := memRead c.t.store.mem (4096 * dBolt) 4096
  let put := fun (e : TallyEnt) => ctxTile c (fun t => match e.st with
    | .stale => tallyStale t dBolt
    | .filling => trackerCopy t dBolt halves
    | _ => tallySet (trackerFree t dBolt) dBolt e)
  if ent.st == .valid && crc32c bs != ent.tally.toNat then
    tallyFail (put { ent with st := .mismatched }) false 3 0 dir sAddr ent.tally.toNat (crc32c bs) cc
  else put ent

/-- One beat into the own store (R206): the own borrow port must hold its four cells. -/
def borrowPut (f : Fired) (carried : Bool) (b : Nat) (bs : List Byte) (c : Ctx) : Ctx :=
  let a := fld f.desc 8 4 + 256 * b
  let cc := f.fireCc + b + 2
  if c.abort then c
  else if !(beatCells c a cc) then ctxViolate c cc
  else ctxTile c (fun t =>
    let t1 := { rawWriteAt t 8 cc a bs with lend := t.lend ++ [(cc, cc)] }
    if carried then t1 else tallyStaleRange t1 a 256)

/-- The beats of a borrow copy, each read at the lender and written two cc later; a refused beat stops the tile. -/
def borrowBeats (p : Nat) (f : Fired) : List Nat → State → State
  | [], s => s
  | b :: bs, s =>
    let dir := fld f.desc 1 1
    let sa := fld f.desc 4 4
    let da := fld f.desc 8 4
    let n := fld f.desc 2 2
    let aligned := sa % 4096 == 0 && da % 4096 == 0
    let carried := aligned && b / 16 * 16 + 16 ≤ n
    match lendBeat s p dir (f.fireCc + b) (sa + 256 * b) with
    | (none, s1) => applyCtx s1 (ctxViolate (ctxOf s1 p) (f.fireCc + b))
    | (some d, s1) =>
      let c := borrowPut f carried b d (ctxOf s1 p)
      if c.abort then applyCtx s1 c
      else if carried && b % 16 == 15 then
        let lender := ((neighbour (logD s p) dir).map (fun l => getTile s1 (physOf s1 l))).getD {}
        let from0 := (sa + 256 * b) / 4096
        let halves := ((lender.tally.trackers.find? (fun k => k.bolt == from0)).map (fun k => k.halves)).getD []
        borrowBeats p f bs (applyCtx s1 (borrowEntry c (tallyEnt lender from0) halves dir ((sa + 256 * b) / 4096 * 4096) ((da + 256 * b) / 4096)
          (f.fireCc + b + 2)))
      else borrowBeats p f bs (applyCtx s1 c)

/-- A whole borrow copy (R206). Its own entry leaves the list first: the port it writes through is its own. -/
def borrowRun (p : Nat) (f : Fired) (s : State) : State :=
  let n := fld f.desc 2 2
  borrowBeats p f (upto 0 n) (applyCtx s (finishFired (ctxOf s p) 9 (f.fireCc + n + 2)))

/-- BORROW_COPY (R206). -/
def execBorrowCopy (p : Nat) (s : State) : Res := unitRun s p 9 (fun _ _ => true) (borrowRun p)

/-! ## Clerk wake and tokens (R233, R260) -/

/-- CLERK_WAKE (R233): the wake stands pending with its step; one that finds a wake pending is counted as lost as well. -/
def execClerkWake (p : Nat) (s : State) : Res :=
  unitRun s p 10 (fun _ _ => true) (passRun p 10 (fun f c =>
    (f.fireCc, ctxTile c (fun t => { t with clerk := { t.clerk with
      wakePend := true
      wakeStep := f.step
      wakeLost := if t.clerk.wakePend then satAdd 16 t.clerk.wakeLost 1 else t.clerk.wakeLost } }))))

/-- Finish a token unit's work. -/
def tokenDone (p : Nat) (f : Fired) (s : State) : State := applyCtx s (finishFired (ctxOf s p) 11 f.fireCc)

/-- Is a token-send of an op? -/
def tokenIs (op : Nat) (f : Fired) : Bool := fld f.desc 1 1 == op

end Sys2Proof.Machine
end

