-- ==== Sys2Proof/Machine/Mesh.lean ====
section
/-! DEFINITION. The mesh: routing, arbitration, multicast, key checks, barriers, flags and channel sinks
(spec/09_mesh_and_channels.md). A router is that of the physical tile that serves a logical tile (R18, R242); port codes
are 0 L, 1 N, 2 S, 3 E, 4 W. Readings of the mesh chapter: DEDUCED, assumption 25. -/

namespace Sys2Proof.Machine

/-! ## Drops and reports (R244, R259, R262) -/

/-- A packet that a router discards is reported under R244; `readable` tells whether its header was. -/
def ueReport (s : State) (p port : Nat) (k : Packet) (readable : Bool) : State :=
  let ctx := ((epPart k.src).or (epPart k.dest)).or (keyOwner s k.key)
  let s2 := sendEvent s (ofPart s (if readable then ctx else none)
    (tileEvent s p 0x0124 s.clk.intvCc (if readable && ctx.isSome then 0x0013 else 0) 0 (portSrc port k)))
  match readable, ctx with
  | true, some n => cutLots s2 n 0x0013 s.clk.bell s.clk.intvCc
  | _, _ => s2

/-- An uncorrectable word, or an unlisted kind (R244, R247). -/
def ueDrop (s : State) (p port : Nat) (k : Packet) (readable : Bool) : State :=
  ueReport (modRouter s p (fun r => { r with dropUe := satAdd 8 r.dropUe 1 })) p port k readable

/-- A packet for a tile of a lost partition is discarded where it would be delivered; the bypass counts it (R389). -/
def bypassDrop (s : State) (p : Nat) (k : Packet) : State :=
  ueReport (modRouter s p (fun r => { r with dropBypass := (r.dropBypass + 1) % 2 ^ 32 })) p 0 k true

/-- A stale barrier or flag packet (R262): counted, a schedule violation, and the lots of its key's contexts fail. -/
def staleDrop (s : State) (p : Nat) (k : Packet) : State :=
  let s1 := modRouter s p (fun r => { r with dropStale := satAdd 8 r.dropStale 1 })
  failKey (sendEvent s1 (ofPart s (keyOwner s k.key) (tileEvent s1 p 0x0153 s.clk.intvCc 0x0021 0 []))) k.key 0x0021

/-! ## Buffers -/

/-- Empty an input buffer. -/
def bufClear (stamp cc input vc : Nat) (r : Router) : Router :=
  { r with bufs := kvMod {} r.bufs (3 * input + vc) (fun b =>
    { b with pkt := none, granted := [], emptySeq := stamp, emptyCc := cc }) }

/-- A packet reaches an input (R259, R244): the first input of a router in service that it enters checks its key against the key
table; a bypass checks none (R389). -/
def inputTake (s : State) (l input : Nat) (k : Packet) : State :=
  let p := physOf s l
  let tbl := if k.table.isEmpty then keyTable s else k.table
  if onBypass s p then
    let r := nextStamp s
    modRouter r.2 p (bufPut r.1 s.clk.cycles input { k with fwd := false })
  else if !(kindListed k.kind) then ueDrop s p input k true
  else if k.table.isEmpty && !(keyLive tbl k.key) then keyDrop s p input k
  else
    let r := nextStamp s
    modRouter r.2 p (bufPut r.1 s.clk.cycles input { k with table := tbl, fwd := false })

/-- The packet waiting at an edge for a router's input, taken out of its queue. -/
def edgePop (col vc : Nat) (q : List (Nat × Packet)) : Option Packet × List (Nat × Packet) :=
  match q.find? (fun e => e.1 == col && e.2.vc == vc) with
  | some e => (some e.2, q.eraseP (fun e => e.1 == col && e.2.vc == vc))
  | none => (none, q)

/-- Fill an edge input of a router from the stack or the port beyond it (R24, R25). -/
def edgeFill (s : State) (l input vc : Nat) : State :=
  let r := l / 96
  let c := l % 96
  if (rtBuf (getTile s (physOf s l)).router input vc).pkt.isSome then s
  else if (input == 1 && r == 0) || (input == 2 && r == 47) then
    let n := (if r == 0 then 0 else 4) + c / 24
    match edgePop c vc (getStack s n).out with
    | (some k, rest) => if startHeld s l input k then s else inputTake (modStack s n (fun q => { q with out := rest })) l input k
    | (none, _) => s
  else if (input == 4 && c == 0) || (input == 3 && c == 95) then
    let n := portAt r (c == 95)
    match edgePop r vc (getPort s n).meshOut with
    | (some k, rest) => if startHeld s l input k then s else inputTake (modPort s n (fun q => { q with meshOut := rest })) l input k
    | (none, _) => s
  else s

/-- What waits upstream of the mesh at an input moves in, where a buffer is empty and nothing keeps it from starting. -/
def refill (s : State) (l input : Nat) : State :=
  if input == 0 then fillLocal s (physOf s l) else (upto 0 3).foldl (fun s v => edgeFill s l input v) s

/-- A stack interface sends packets into the mesh through the edge port of their column (R24). Their key is checked there
anew (R259). -/
def stackEmit (s : State) (n : Nat) (col : Nat) (ks : List Packet) : State :=
  refill (modStack s n (fun q => { q with out := q.out ++ ks.map (fun k => (col, { k with table := [] })) }))
    ((if n < 4 then 0 else 47 * 96) + col) (if n < 4 then 1 else 2)

/-- A link port sends packets into the mesh through an attached row. -/
def portEmit (s : State) (n row : Nat) (ks : List Packet) : State :=
  refill (modPort s n (fun q => { q with meshOut := q.meshOut ++ ks.map (fun k => (row, { k with table := [] })) }))
    (96 * row + (if portEast n then 95 else 0)) (if portEast n then 3 else 4)

/-! ## A hop (R251, R252, R257) -/

/-- A packet that an input presents at an output: its presentation, in stamps and in cycles, its input and channel. -/
structure Cand where
  seq : Nat
  cc : Nat
  input : Nat
  vc : Nat
  pkt : Packet
  buf : RtBuf
  roomCc : Nat
  deriving DecidableEq, Repr

/-- The packets that an input of a router holds for an output and has not sent there, with their buffers. -/
def inputWaits (s : State) (l o i : Nat) : List (Nat × Packet × RtBuf) :=
  (upto 0 3).filterMap (fun v =>
    let b := rtBuf (getTile s (physOf s l)).router i v
    b.pkt.bind (fun k => if (pktOuts l i k).contains o && !(b.granted.contains o) then some (v, k, b) else none))

/-- The packet an input presents at an output: of its virtual channels the one that came to head it first (R251). A packet
heads its input once the one granted before it has gone. -/
def inputCand (s : State) (l o i : Nat) : Option Cand :=
  let head := kvGet (0, 0) (getTile s (physOf s l)).router.heads (5 * i + o)
  ((inputWaits s l o i).filterMap (fun q => (outRoom s l o q.2.1).map (fun m =>
    ({ seq := max (max q.2.2.seq m.1) head.1, cc := max (max q.2.2.cc m.2) head.2, input := i, vc := q.1, pkt := q.2.1
       buf := q.2.2, roomCc := m.2 } : Cand)))).foldl (fun b c => match b with
    | none => some c
    | some x => if c.seq < x.seq || (c.seq == x.seq && c.buf.seq < x.buf.seq) then some c else some x) none

/-- What an output may grant: at most one packet of each input. -/
def candidates (s : State) (l o : Nat) : List Cand := (upto 0 5).filterMap (inputCand s l o)

/-- Is candidate `d` granted before `c`, which stands before it in the order L, N, S, E, W (R251)? -/
def candBefore (d c : Cand) : Bool := d.cc < c.cc

/-- Oldest presentation first; in one cc the order is L, N, S, E, W (R251). -/
def pick : List Cand → Option Cand
  | [] => none
  | c :: t => match pick t with
    | none => some c
    | some d => some (if candBefore d c then d else c)

/-- Put an interval among intervals in rising order of their starts. -/
def spanIns (a : Nat × Nat) : List (Nat × Nat) → List (Nat × Nat)
  | [] => [a]
  | b :: t => if a.1 ≤ b.1 then a :: b :: t else b :: spanIns a t

/-- How many cc intervals [start, end) in rising order of their starts cover, from a cc on. -/
def spanLen : Nat → List (Nat × Nat) → Nat
  | _, [] => 0
  | lo, (a, e) :: t => (e - max a lo) + spanLen (max lo e) t

/-- The cc up to which a packet at the head of an input stalls at an output (R266): since when the buffer downstream stands empty,
though its input may still keep the packet from starting (R251); now, where it is not empty. -/
def stallEnd (s : State) (l o : Nat) (k : Packet) : Nat :=
  match outTo l o with
  | some q =>
    let b := rtBuf (getTile s (physOf s q.1)).router q.2 k.vc
    if b.pkt.isSome then s.clk.cycles else b.emptyCc
  | none => match outRoom s l o k with | some m => m.2 | none => s.clk.cycles

/-- The cc up to now, not yet counted, in which a packet waited at the head of an input for an output's downstream room
(R266). -/
def stallSince (s : State) (l o : Nat) : Nat :=
  let q := kvGet {} (getTile s (physOf s l)).router.ports o
  let spans := (upto 0 5).flatMap (fun i => (inputWaits s l o i).map (fun w =>
    (w.2.2.cc, stallEnd s l o w.2.1)))
  spanLen q.stallTo (spans.foldl (fun l a => spanIns a l) [])

/-- TL_RT_STALL of a router's output as it reads now (Table 9.10). -/
def stallNow (s : State) (p o : Nat) : Nat :=
  ((kvGet {} (getTile s p).router.ports o).stall + (((logOf s p).map (fun l => stallSince s l o)).getD 0)) % 2 ^ 32

/-- The router's counters for a packet it sends (R266); `stall` is what TL_RT_STALL has come to. -/
def countSend (o now stall : Nat) (c : Cand) (r : Router) : Router :=
  { r with ports := kvMod {} r.ports o (fun q => { q with
      pkt := (q.pkt + 1) % 2 ^ 32
      byte := (q.byte + 16 + c.pkt.payload.length) % 2 ^ 48
      stall := stall, stallTo := now
      waitMax := max q.waitMax (min 255 (now - c.cc)) }) }

/-- The local output's key check (R259): against the key table as it stood when the packet passed its first input. A pinfolded
tile's local output is closed (R386). -/
def localKeyOk (l : Nat) (t : Tile) (k : Packet) : Bool := t.st != .pinfold && keyMatch k.table (logPart l) k.key

/-- A copy leaves through an output. `corr` words were corrected on the link; `bad` is 0, 1 (a payload beat
uncorrectable) or 2 (the header) (assumption 13). At a die edge the sink beyond it discards a packet with a bad word, in the name
of the router's edge port. -/
def hopDeliver (s : State) (l o : Nat) (k : Packet) (corr bad : Nat) : State :=
  let p := physOf s l
  if o == 0 then
    if onBypass s p then bypassDrop s p k
    else if bad != 0 then ueDrop s p 0 k (bad == 1)
    else if !(localKeyOk l (getTile s p) k) then keyDrop s p 0 k
    else if isBulk k then modTile s p (fun t => storeMod t (fun q => { q with fin := q.fin ++ [k] }))
    else modRouter s p (fun r => { r with eject := r.eject ++ [k] })
  else match outTo l o with
    | none =>
      if bad != 0 then ueDrop s p o k (bad == 1)
      else if o == 1 || o == 2 then
        let r := nextStamp s
        modStack r.2 ((if o == 1 then 0 else 4) + l % 96 / 24) (fun q => { q with inq := q.inq ++ [{ k with born := r.1 }] })
      else modPort s (portAt (l / 96) (o == 3)) (fun q => { q with meshIn := q.meshIn ++ [{ k with bank := s.link.bank }] })
    | some q =>
      let np := physOf s q.1
      let s1 := modRouter s np (fun r => { r with corr := (r.corr + corr) % 2 ^ 32 })
      if bad != 0 then ueDrop s1 np q.2 k (bad == 1) else inputTake s1 q.1 q.2 k

/-- One grant of an output. -/
def hop (s : State) (l o corr bad : Nat) (c : Cand) : State :=
  let p := physOf s l
  let r := nextStamp s
  let granted := c.buf.granted ++ [o]
  let done := (pktOuts l c.input c.pkt).all (fun x => granted.contains x)
  let s1 := if onBypass s p then r.2 else modRouter r.2 p (countSend o s.clk.cycles (stallNow s p o) c)
  let s2 := modRouter s1 p (fun q =>
    { (if done then bufClear r.1 s.clk.cycles c.input c.vc q
       else { q with bufs := kvSet {} q.bufs (3 * c.input + c.vc) { c.buf with granted := granted } }) with
      heads := kvSet (0, 0) q.heads (5 * c.input + o) (r.1, s.clk.cycles) })
  let s3 := tracePacket s2 p o c.pkt.kind (hdrBytes c.pkt)
  refill (hopDeliver s3 l o c.pkt corr bad) l c.input

/-- Is an input one of the die's edge (R242)? -/
def edgeInput (l input : Nat) : Bool := input != 0 && (neighbour l input).isNone

/-- The packet of an edge input that an output would take has met bad words on its way in (R244): `bad` 3 a payload beat, 4 the
header, which discard it; 5 words that were corrected, `corr` of them. -/
def edgeUpset (s : State) (l corr bad : Nat) (c : Cand) : State :=
  let p := physOf s l
  let r := nextStamp s
  if bad == 5 then modRouter s p (fun r => { r with corr := (r.corr + corr) % 2 ^ 32 })
  else
    refill (ueDrop (modRouter r.2 p (bufClear r.1 s.clk.cycles c.input c.vc)) p c.input c.pkt (bad == 3)) l c.input

/-- A grant with the upsets of its links: those of `bad` 3 to 5 are of the edge it came in by, if it did. -/
def hopUpset (s : State) (l o corr bad : Nat) (c : Cand) : State :=
  if bad < 3 then hop s l o corr bad c
  else if !(edgeInput l c.input) then hop s l o 0 0 c
  else if bad == 5 then hop (edgeUpset s l corr bad c) l o 0 0 c
  else edgeUpset s l corr bad c

/-- Everything that waits outside a router moves in where it may. -/
def fillAll (s : State) (l : Nat) : State := (upto 0 5).foldl (fun s i => if i == 0 || edgeInput l i then refill s l i else s) s

/-- ROUTER_HOP (R252); a router whose core is unpowered forwards on its bypass, which D95 supplies (R389). -/
def execRouterHop (p o corr bad : Nat) (s : State) : Res :=
  if ¬ p < tileCount then .refused .noSuchUnit
  else if onBypass s p && !(domOn s 95) then .next s
  else
    match logOf s p with
    | none => .next s
    | some l => match pick (candidates (fillAll s l) l o) with
      | none => .next (fillAll s l)
      | some c => .next (hopUpset (fillAll s l) l o corr bad c)

/-! ## Barriers and flags (R260 to R262) -/

/-- The sources a router expects an arrival from (R261). -/
def expectedFrom (l root rows cols : Nat) : List Nat :=
  let r := l / 96
  let c := l % 96
  let rr := root / 96
  let rc := root % 96
  (if maskMember rows cols l then [0] else [])
    ++ (if bitAt cols c && r ≤ rr && anyBelow rows r then [1] else [])
    ++ (if bitAt cols c && rr ≤ r && anyAbove rows r then [2] else [])
    ++ (if r == rr && rc ≤ c && anyAbove cols c then [3] else [])
    ++ (if r == rr && c ≤ rc && anyBelow cols c then [4] else [])

/-- The packet that waits for a combiner at an input. -/
def combinePkt (s : State) (p input kind : Nat) : Option Packet :=
  match (rtBuf (getTile s p).router input 2).pkt with
  | some k => if k.kind == kind && !k.fwd then some k else none
  | none => none

/-- Take the packet out of its buffer. -/
def takeBuf (s : State) (p input : Nat) : State :=
  let r := nextStamp s
  refill (modRouter r.2 p (bufClear r.1 s.clk.cycles input 2)) (logD s p) input

/-- Send the packet onward toward the root, as the combined one. -/
def onward (s : State) (p input : Nat) (k : Packet) : State :=
  modRouter s p (fun r => { r with bufs := kvMod {} r.bufs (3 * input + 2) (fun b =>
    { b with pkt := some { k with fwd := true }, granted := [] }) })

/-- The root's multicast to the members: a release or a broadcast. -/
def rootSend (s : State) (p kind : Nat) (k : Packet) : State :=
  injectRaw s p [{ kind := kind, vc := 2, mcast := true, sub := k.sub, dest := logD s p, aux := s.clk.bell % 2 ^ 32
                   payload := k.payload }]

/-- Combine one arrival (R261, R262). -/
def barCombine (s : State) (p input : Nat) (k : Packet) : State :=
  let l := logD s p
  let id := k.sub % 8
  let root := fld k.payload 0x14 2
  let ctx := (kvGet none (getTile s p).router.bar id).getD
    { key := k.key, mask := k.payload, bell := k.aux, arrived := [] }
  if ctx.key != k.key then keyDrop (takeBuf s p input) p input k
  else if k.aux != s.clk.bell % 2 ^ 32 then staleDrop (takeBuf s p input) p k
  else
    let arrived := if ctx.arrived.contains input then ctx.arrived else ctx.arrived ++ [input]
    let done := (expectedFrom l root (maskRows ctx.mask) (maskCols ctx.mask)).all (fun i => arrived.contains i)
    let s1 := modRouter s p (fun r => { r with bar := kvSet none r.bar id (if done then none else some { ctx with arrived := arrived }) })
    if !done then takeBuf s1 p input
    else if l == root then rootSend (takeBuf s1 p input) p 4 k
    else onward s1 p input k

/-- Combine one raise (R261, R262). A later one is discarded; it counts where it comes after the broadcast, which the root sends
on the first raise it receives. -/
def flagCombine (s : State) (p input : Nat) (k : Packet) : State :=
  let l := logD s p
  let id := k.sub % 8
  let root := fld k.payload 0x14 2
  let r := (getTile s p).router
  if bitAt r.flags id && kvGet 0 r.flagKeys id != k.key then keyDrop (takeBuf s p input) p input k
  else if k.aux != s.clk.bell % 2 ^ 32 then staleDrop (takeBuf s p input) p k
  else if bitAt r.flags id then
    if bitAt (getTile s (physOf s root)).router.flags id then
      modRouter (takeBuf s p input) p (fun r => { r with dropStale := satAdd 8 r.dropStale 1 })
    else takeBuf s p input
  else
    let s1 := modRouter s p (fun r => { r with flags := setBit r.flags id, flagKeys := kvSet 0 r.flagKeys id k.key })
    if l == root then rootSend (takeBuf s1 p input) p 6 k else onward s1 p input k

/-- A combiner's command: the packet at one input of a router; a bypass combines nothing (R389). -/
def combineRun (kind : Nat) (f : State → Nat → Nat → Packet → State) (p input : Nat) (s : State) : Res :=
  if ¬ p < tileCount then .refused .noSuchUnit
  else
    match logOf s p, combinePkt s p input kind with
    | some _, some k => .next (if onBypass s p then s else f s p input k)
    | _, _ => .next s

/-- BARRIER_ARRIVE_COMBINE (R261). -/
def execBarrierArriveCombine (p input : Nat) (s : State) : Res := combineRun 3 barCombine p input s

/-- FLAG_RAISE_COMBINE (R261). -/
def execFlagRaiseCombine (p input : Nat) (s : State) : Res := combineRun 5 flagCombine p input s

/-! ## Token sends (R260) -/

/-- CHANNEL_TOKEN_SEND (R260): the token goes out when the entry holds a credit (R67); the step's timeline goes on from
there (R41). -/
def execChannelTokenSend (p : Nat) (s : State) : Res :=
  unitRun s p 11 (fun t f => tokenIs 0 f && credits t (fld f.desc 2 1) != 0) (fun f s =>
    let s1 := sendEntry s p (fld f.desc 2 1) (slice f.desc 0x18 8 ++ zeros 56)
    modTile (tokenDone p f s1) p (fun t => { t with seq := { t.seq with nextCc := max t.seq.nextCc (ctxCc s (physPart p)) } }))

/-- A barrier arrival or flag raise leaves the tile (Table 9.6). -/
def memberSend (p kind : Nat) (f : Fired) (s : State) : State :=
  let d := f.desc
  tokenDone p f (injectAll s p [{ kind := kind, vc := 2, sub := fld d 2 1, dest := fld d 4 2
                                  aux := s.clk.bell % 2 ^ 32
                                  payload := maskLine (fld d 6 6) (fld d 0xC 12) (fld d 4 2) (fld d 3 1) }])

/-- BARRIER_ARRIVE (R260). -/
def execBarrierArrive (p : Nat) (s : State) : Res := unitRun s p 11 (fun _ f => tokenIs 1 f) (memberSend p 3)

/-- FLAG_RAISE (R260). -/
def execFlagRaise (p : Nat) (s : State) : Res := unitRun s p 11 (fun _ f => tokenIs 2 f) (memberSend p 5)

/-! ## Sinks of a tile (R263, R264) -/

/-- The front packet of a virtual channel that has been ejected, taken out when it is one of some kinds (R250: each
buffer is first in, first out). -/
def ejectTake (s : State) (p : Nat) (want : Packet → Bool) : Option (Packet × State) :=
  (upto 0 3).findSome? (fun v =>
    (((getTile s p).router.eject.find? (fun k => k.vc == v)).filter want).map (fun k =>
      (k, modRouter s p (fun r => { r with eject := r.eject.eraseP (fun x => x.vc == v) }))))

/-- The code that a stale-credit event bears in the Reeve's inbox; it emits no record: DESIGN CHOICE, assumption 57. -/
def evStaleCredit : Nat := 0xF002

/-- A tile that refuses entries drops and counts them (Table 2.6, Table 9.11). -/
def staleCount (s : State) (p : Nat) : State := modRouter s p (fun r => { r with dropStale := satAdd 8 r.dropStale 1 })

/-- An entry on a revoked credit is dropped, counted and reported (R59). -/
def staleEntry (s : State) (p : Nat) (k : Packet) : State :=
  sendEvent (staleCount s p) (tileEvent s p evStaleCredit s.clk.intvCc 0 0 (portSrc 0 k))

/-- Write an entry into a channel. -/
def chanPush (s : State) (p n : Nat) (e : ChEnt) : State :=
  modTile s p (fun t =>
    touchTile [11264 + 16 * n + (kvGet 0 t.chHead n + (chan t n).length) % 16] { t with chans := kvSet [] t.chans n (chan t n ++ [e]) })

/-- A sink's command. -/
def sinkRun (want : Packet → Bool) (f : State → Nat → Packet → State) (p : Nat) (s : State) : Res :=
  if ¬ p < tileCount then .refused .noSuchUnit
  else match ejectTake s p want with
    | none => .next s
    | some q => .next (f q.2 p q.1)

/-- CHANNEL_ENTRY_DELIVERY (R264). -/
def execChannelEntryDelivery (p : Nat) (s : State) : Res :=
  sinkRun (fun k => k.kind == 1) (fun s p k =>
    let n := k.sub % 8
    if !(takesEntries (getTile s p)) then staleEntry s p k
    else noteArrival (chanPush s p n { bytes := k.payload, credited := true, sender := k.src }) p 1 n k.srcMod
      (ctxCc s (physPart p))) p s

/-- CREDIT_RETURN_DELIVERY (R264). -/
def execCreditReturnDelivery (p : Nat) (s : State) : Res :=
  sinkRun (fun k => k.kind == 2) (fun s p k =>
    modTile s p (fun t =>
      match (upto 0 16).find? (fun i =>
          let e := outEntry t i
          t.installed && e.2.2 != 0 && e.1 == k.src && e.2.1 == k.sub % 8) with
      | some i => { t with outCredits := kvSet 0 t.outCredits i (credits t i + k.aux) }
      | none => t)) p s

/-- A MARK token of a barrier or flag (R263). -/
def markEntry (k : Packet) : ChEnt :=
  { bytes := toLe 1 1 ++ zeros 5 ++ toLe 2 k.sub ++ zeros 56, credited := false, sender := k.src }

/-- A release or a broadcast reaches a member. -/
def markDeliver (s : State) (p : Nat) (k : Packet) : State :=
  if !(takesEntries (getTile s p)) then staleCount s p else chanPush s p (fld k.payload 0x16 1 % 8) (markEntry k)

/-- BARRIER_RELEASE_DELIVERY (R263). -/
def execBarrierReleaseDelivery (p : Nat) (s : State) : Res := sinkRun (fun k => k.kind == 4) markDeliver p s

/-- FLAG_BROADCAST_DELIVERY (R263). -/
def execFlagBroadcastDelivery (p : Nat) (s : State) : Res := sinkRun (fun k => k.kind == 6) markDeliver p s

/-- RT_SEL_WRITE (R267): the port is selected, and with HWM_CLR its marks clear. -/
def rtSelWrite (v : Nat) (r : Router) : Router :=
  let port := bits v 2 0
  let r1 := { r with sel := port }
  if bitAt v 8 then { r1 with ports := kvMod {} r1.ports port (fun q =>
    { q with waitMax := 0, vc0 := 0, vc1 := 0, vc2 := 0 }) }
  else r1

end Sys2Proof.Machine
end

