-- ==== Sys2Proof/Machine/Dma.lean ====
section
/-! DEFINITION. The tile's DMA unit, fabric-in, fabric-out, the gather buffer's drain and the copier's write-back
(spec/10_memory_and_mills.md R280 to R283, spec/07_tile_store.md R198 to R207, spec/12_integrity.md R338, R339, R353).
Readings of the DMA rules: DEDUCED, assumptions 17 and 26. -/

namespace Sys2Proof.Machine

/-! ## Placement of bolts (R273) -/

/-- The hash of a bolt's position under a seed. -/
def boltHash (seed b : Nat) : Nat := Nat.xor (b / 32 % 2048) seed * 0x9E3779B1 % 2 ^ 32
/-- The stack of a bolt. -/
def boltStack (seed b : Nat) : Nat := Nat.xor (b % 8) (boltHash seed b / 2 ^ 29)
/-- The channel group of a bolt. -/
def boltGroup (seed b : Nat) : Nat := Nat.xor (b / 8 % 4) (boltHash seed b / 2 ^ 27 % 4)
/-- The bank set of a bolt (R273): its position in the (stack, group) share is b / 32. -/
def boltBankSet (seed b : Nat) : Nat := Nat.xor (b / 32 % 16) (boltHash seed b / 2 ^ 23 % 16)
/-- The row of a bolt in each of its banks. -/
def boltRow (b : Nat) : Nat := b / 32 / 16
/-- The endpoint of a partition's bolt. -/
def boltEp (s : State) (n b : Nat) : Nat := 8192 + boltStack (getPart s n).seed.toNat b

/-! ## Tags (R280) -/

/-- Free tags of a tile, lowest first. -/
def freeTags (d : Dma) : List Nat := (upto 0 32).filter (fun k => kvGet 0 d.tags k == 0)

/-- Take tags for a job. -/
def takeTags (ts : List Nat) (job : Nat) (d : Dma) : Dma :=
  { d with tags := ts.foldl (fun m k => kvSet 0 m k job) d.tags }

/-- Change the DMA unit. -/
def modDma (s : State) (p : Nat) (f : Dma → Dma) : State := modTile s p (fun t => { t with dma := f t.dma })

/-- Count a completion in a group, and toward its deadline, in interval cc `cc` (R283, R55). -/
def groupDone (s : State) (p group source cc : Nat) : State :=
  noteArrival (modDma s p (fun d => { d with done := kvSet 0 d.done group ((kvGet 0 d.done group + 1) % 2 ^ 32) }))
    p 2 group source cc

/-- The job of a tag. -/
def tagJob (d : Dma) (tag : Nat) : Option DmaJob :=
  if kvGet 0 d.tags tag == 0 then none else d.jobs.find? (fun j => j.id == kvGet 0 d.tags tag)

/-- One packet's answer has come in interval cc `cc`: its tag frees, and the last one completes the job. -/
def tagDone (s : State) (p tag : Nat) (j : DmaJob) (cc : Nat) : State :=
  let s1 := modDma s p (fun d => { d with tags := kvSet 0 d.tags tag 0 })
  if 1 < j.left then
    modDma s1 p (fun d => { d with jobs := d.jobs.map (fun x => if x.id == j.id then { x with left := x.left - 1 } else x) })
  else
    let s2 := modDma s1 p (fun d => { d with jobs := d.jobs.filter (fun x => x.id != j.id), merged := d.merged && !j.merged })
    if j.spill then s2 else groupDone s2 p j.group 0xFFFFFFFF cc

/-! ## Descriptors at work (R282, R283) -/

/-- May the DMA unit work: the tile runs and is not stopped? -/
def dmaLive (t : Tile) : Bool := outputsLive t

/-- May fabric-out send: also on a Halted tile, whose transfers in flight complete (R483)? -/
def foutLive (t : Tile) : Bool := (outputsLive t || t.st == .halted) && t.stop.isNone

/-- The bolts of a descriptor; a mill post sends one line. -/
def dmaTotal (e : DmaEnt) : Nat := if fld e.desc 1 1 == 3 then 1 else fld e.desc 0xC 2

/-- The front descriptor, when it is of an op and has a bolt not yet begun. -/
def dmaFront (t : Tile) (op : Nat) : Option DmaEnt :=
  match t.dma.queue with
  | e :: _ => if fld e.desc 1 1 == op && dmaLive t && e.begun < dmaTotal e then some e else none
  | [] => none

/-- Change the front descriptor. -/
def dmaHead (f : DmaEnt → DmaEnt) (d : Dma) : Dma :=
  { d with queue := match d.queue with
      | x :: rest => f x :: rest
      | [] => [] }

/-- One bolt of the front descriptor goes to fabric-out; the descriptor stays in the queue until its last bolt has left. -/
def dmaPush (e : DmaEnt) (j : OutJob) (d : Dma) : Dma :=
  dmaHead (fun x => { x with begun := x.begun + 1 }) { d with fout := d.fout ++ [{ j with final := e.begun + 1 == dmaTotal e }] }

/-- Open a job that waits for answers. -/
def dmaOpen (op group left sAddr : Nat) (merged : Bool) (d : Dma) : Dma :=
  { d with nextJob := d.nextJob + 1, merged := d.merged || merged
           jobs := d.jobs ++ [{ id := d.nextJob, op := op, group := group, left := left, sAddr := sAddr, merged := merged }] }

/-- A DMA command: work on the front descriptor when it is of the op. -/
def dmaRun (op : Nat) (run : DmaEnt → State → State) (ok : State → DmaEnt → Bool) (p : Nat) (s : State) : Res :=
  if ¬ p < tileCount then .refused .noSuchUnit
  else match dmaFront (getTile s p) op with
    | none => .next s
    | some e => if ok s e then .next (run e s) else .next s

/-- MEMORY_WRITE (R283): the next bolt goes to fabric-out. -/
def execMemoryWrite (p : Nat) (s : State) : Res :=
  dmaRun 0 (fun e s => modDma s p (fun d =>
    let j := e.begun
    dmaPush e { op := 0, dest := 0, sAddr := dmaS e.desc e.ctr + 4096 * j, addr := dmaBolt e.desc e.ctr + j, job := d.nextJob }
      (dmaOpen 0 (fld e.desc 3 1) 16 0 false d))) (fun _ _ => true) p s

/-- Is merged-read mode on for a bolt's stack and partition (R294)? -/
def mergeOn (s : State) (n b : Nat) : Bool := bitAt (getStack s (boltStack (getPart s n).seed.toNat b)).merge n

/-- Does the front read run merged: flag [1] under merged-read mode? -/
def readMerged (s : State) (p : Nat) (e : DmaEnt) : Bool :=
  bitAt (fld e.desc 2 1) 1 && mergeOn s (physPart p) (dmaBolt e.desc e.ctr + e.begun)

/-- The tags that the next request packets of a read take, each as soon as one is free (R282): request j of a merged read has tag
16 + j, the others the lowest free ones. -/
def readTags (s : State) (p : Nat) (e : DmaEnt) : List Nat :=
  let d := (getTile s p).dma
  if readMerged s p e then (upto (16 + e.sent) (16 - e.sent)).takeWhile (fun k => kvGet 0 d.tags k == 0)
  else (freeTags d).take (16 - e.sent)

/-- Has a read a tag, and is no other merged read in flight when it begins one (R294)? -/
def readReady (p : Nat) (s : State) (e : DmaEnt) : Bool :=
  !(readTags s p e).isEmpty && !(readMerged s p e && e.sent == 0 && (getTile s p).dma.merged)

/-- Request packets of one bolt from packet `k` on: `dline` is the destination store line of the first. -/
def readPackets (ep bolt line k : Nat) (merged : Bool) (tags : List Nat) : List Packet :=
  tags.zipIdx.map (fun q =>
    { kind := 0xA, vc := 0, last := k + q.2 == 15, sub := q.1, dest := ep, addr := 64 * bolt + 4 * (k + q.2)
      dline := line + 4 * (k + q.2), mcast := false, item := merged })

/-- Packets of the front read's bolt have left: with the sixteenth the bolt has, and with its last bolt the descriptor. -/
def readStep (e : DmaEnt) (sent job : Nat) (d : Dma) : Dma :=
  if sent < 16 then dmaHead (fun x => { x with sent := sent, job := job }) d
  else if e.begun + 1 < dmaTotal e then dmaHead (fun x => { x with begun := x.begun + 1, sent := 0, job := 0 }) d
  else { d with queue := d.queue.drop 1 }

/-- MEMORY_READ (R283, R294): requests of the next bolt leave, in order, as far as tags are free. -/
def execMemoryRead (p : Nat) (s : State) : Res :=
  dmaRun 1 (fun e s =>
    let bolt := dmaBolt e.desc e.ctr + e.begun
    let sa := dmaS e.desc e.ctr + 4096 * e.begun
    let tags := readTags s p e
    let m := readMerged s p e
    let job := if e.sent == 0 then (getTile s p).dma.nextJob else e.job
    let s1 := modDma s p (fun d => readStep e (e.sent + tags.length) job (takeTags tags job
      (if e.sent == 0 then dmaOpen 1 (fld e.desc 3 1) 16 sa m d else d)))
    injectAll s1 p (readPackets (boltEp s (physPart p) bolt) bolt (sa / 64) e.sent m tags))
    (readReady p) p s

/-- A schedule violation of the DMA unit stops the tile (R65). -/
def dmaViolate (s : State) (p : Nat) : State := applyCtx s (ctxViolate (ctxOf s p) (ctxCc s (physPart p)))

/-- The mask line of a multicast as fabric-out reads it (R207, R208, R255). -/
def outMask (s : State) (p a : Nat) : List Byte × State :=
  let r := inLineRead (ctxOf s p) 7 (ctxCc s (physPart p)) a 64
  (r.1, applyCtx s r.2)

/-- STORE_WRITE (R283): the next bolt goes to fabric-out for a tile or a multicast set. A mask line that has lost its members
stops the tile before the bolt is sent (R255). -/
def execStoreWrite (p : Nat) (s : State) : Res :=
  dmaRun 2 (fun e s =>
    let mc := bitAt (fld e.desc 2 1) 0
    let r := if mc then outMask s p (fld e.desc 0x18 4) else ([], s)
    if mc && !(maskListed r.1) then dmaViolate r.2 p
    else modDma r.2 p (dmaPush e
      { op := 2, dest := fld e.desc 0xE 2, sAddr := dmaS e.desc e.ctr + 4096 * e.begun
        addr := fld e.desc 0x10 4 + 4096 * e.begun, sub := fld e.desc 0x14 1, group := fld e.desc 3 1, mask := r.1 }))
    (fun _ _ => true) p s

/-- MILL_POST (R286): the 64-byte mill descriptor goes to fabric-out for the eight stacks. -/
def execMillPost (p : Nat) (s : State) : Res :=
  dmaRun 3 (fun e s => modDma s p (fun d => dmaPush e
      { op := 3, dest := 0, sAddr := dmaBolt e.desc e.ctr, addr := 0xFFFFFF00, job := d.nextJob }
      (dmaOpen 3 (fld e.desc 3 1) 8 0 false d))) (fun _ _ => true) p s

/-- The transport header of a link send as the tile fills it (R316, Table 11.7): the stamp, lot and tally come at
fabric-out. -/
def linkHead (d : List Byte) (ctr begun modId src : Nat) : List Byte :=
  let mem := fld d 0xE 2 == 0x2000
  let a := linkAddr d ctr + (if mem then begun else 4096 * begun)
  toLe 1 (if mem then 2 else 1) ++ toLe 1 (b2n (bitAt (fld d 0x16 4) 31) + 2 * (fld d 0x1A 1 % 2)) ++ zeros 2
    ++ toLe 4 (fld d 0x16 4 % 2 ^ 31) ++ toLe 4 modId ++ toLe 2 (fld d 0xE 2) ++ toLe 2 src ++ zeros 16
    ++ toLe 4 a ++ toLe 1 (if mem then 0 else fld d 0x14 1) ++ zeros 2 ++ toLe 1 (if mem then fld d 0x1B 1 else 0) ++ zeros 8

/-- LINK_SEND (R316): the next bolt goes to fabric-out for its injection port. -/
def execLinkSend (p : Nat) (s : State) : Res :=
  dmaRun 4 (fun e s => modDma s p (dmaPush e
      { op := 4, dest := 0x4000 + fld e.desc 0x15 1, sAddr := dmaS e.desc e.ctr + 4096 * e.begun, addr := 0
        group := fld e.desc 3 1, link := linkHead e.desc e.ctr e.begun (s.link.modId % 2 ^ 17) (logD s p) }))
    (fun _ _ => true) p s

/-! ## Fabric-out (R198, R339, R353) -/

/-- Bits that have failed in words of a store: (8 B word, failing bits) (assumption 13). -/
def storeUpset (s : State) (p : Nat) (ups : List (Nat × Nat)) : State :=
  if ups.isEmpty then s else modTile s p (fun t => storeMod t (fun q => { q with
    bad := ups.foldl (fun m u => kvSet 0 m u.1 u.2) q.bad }))

/-- The lines an out-job reads. -/
def outLines (j : OutJob) : Nat := if j.op == 3 then 1 else 64

/-- Does fabric-out hold a cell in every bank the job reads (R198)? -/
def outCells (c : Ctx) (j : OutJob) : Bool :=
  !j.data.isEmpty || (upto 0 (outLines j)).all (fun i => holdsBank c 7 (lineBank (j.sAddr + 64 * i)))

/-- Read the lines of a job through fabric-out, each in the next cell it holds (R198): the bytes, and the cc after the last. -/
def outRead (c : Ctx) (j : OutJob) (cc : Nat) : List Byte × Ctx × Nat :=
  if !j.data.isEmpty then (j.data, c, cc)
  else (upto 0 (outLines j)).foldl (fun r i =>
    let k := nextCell r.2.1 7 (lineBank (j.sAddr + 64 * i)) r.2.2
    let x := lineRead r.2.1 7 k (j.sAddr + 64 * i)
    (r.1 ++ x.1, x.2, k + 1)) ([], c, cc)

/-- The packet kind an op sends. -/
def outKind (op : Nat) : Nat := if op == 2 then 8 else if op == 4 then 0xB else 9

/-- The tally a bolt leaves with (R339): carried from a Valid or Mismatched entry and rechecked, or formed. -/
def outTally (c : Ctx) (j : OutJob) (bs : List Byte) (cc : Nat) : Nat × Ctx :=
  let f := crc32c bs
  let e := if j.data.isEmpty then tallyEnt c.t (j.sAddr / 4096) else j.ent
  if j.sAddr % 4096 == 0 && (e.st == .valid || e.st == .mismatched) then
    (e.tally.toNat, if e.st == .valid && f != e.tally.toNat then
      tallyFail c true 2 (outKind j.op) j.dest j.sAddr e.tally.toNat f cc else c)
  else (f, ctxTile c (fun t => { t with tally := { t.tally with formed := satAdd 16 t.tally.formed 1 } }))

/-- The digest of a sent bolt (R353). -/
def digestAdd (t : Tile) (tally addr : Nat) : Tile :=
  { t with tally := { t.tally with digest := (t.tally.digest + crc32c (toLe 4 tally ++ toLe 4 addr)) % 2 ^ 64 } }

/-- The packets of a unicast bolt: sixteen of four lines (R283). -/
def boltPackets (k : Packet) (line tally : Nat) (subs : Nat → Nat) (bs : List Byte) : List Packet :=
  (upto 0 16).map (fun i => { k with
    sub := subs i, last := i == 15, addr := line + 4 * i, aux := tally, payload := slice bs (256 * i) 256 })

/-- The packets of a multicast bolt: 21 of three data lines and one of one, each led by the mask line (R283). -/
def castPackets (k : Packet) (line tally : Nat) (mask bs : List Byte) : List Packet :=
  (upto 0 22).map (fun i => { k with
    mcast := true, last := i == 21, addr := line + 3 * i, aux := tally
    payload := mask ++ slice bs (192 * i) (if i == 21 then 64 else 192) })

/-- The packets of a job. Those of a link send have no address and no tally of their own (Table 9.1): its transport header, the line
ahead of the bolt, holds them. -/
def outPackets (s : State) (p : Nat) (j : OutJob) (tags : List Nat) (tally : Nat) (bs : List Byte) : List Packet :=
  match j.op with
  | 0 => boltPackets { kind := 9, vc := 0, dest := boltEp s (physPart p) j.addr } (64 * j.addr) tally
      (fun i => (tags.drop i).headD 0) bs
  | 2 => if j.mask.isEmpty then boltPackets { kind := 8, vc := 0, dest := j.dest } (j.addr / 64) tally (fun _ => j.sub) bs
      else castPackets { kind := 8, vc := 0, sub := j.sub, dest := logD s p } (j.addr / 64) tally j.mask bs
  | 3 => (upto 0 8).map (fun i => { kind := 9, vc := 0, last := true, sub := (tags.drop i).headD 0, dest := 8192 + i
                                    addr := 0xFFFFFF00, payload := slice bs 0 64 })
  | _ => { kind := 0xB, vc := 1, dest := j.dest, payload := patch (patch (patch j.link 0x10 (toLe 8 (ctxBell s (physPart p) % 2 ^ 48)))
            0x18 (toLe 8 (curLot s (physPart p)))) 0x28 (toLe 4 tally) ++ zeros 16 } ::
          (boltPackets { kind := 0xB, vc := 1, dest := j.dest } 0 0 (fun _ => 0) bs).map (fun k => { k with addr := 0 })

/-- Tags a job takes as it leaves. -/
def outTagCount (j : OutJob) : Nat := if j.op == 0 then 16 else if j.op == 3 then 8 else 0

/-- The front job has left fabric-out, and with a descriptor's last bolt the descriptor its queue (R282). -/
def outDrop (j : OutJob) (d : Dma) : Dma :=
  { d with fout := d.fout.drop 1, queue := if j.final then d.queue.drop 1 else d.queue }

/-- Drop a refused job: it never leaves, and its lot fails (R198, R192). -/
def outRefuse (s : State) (p : Nat) (j : OutJob) : State :=
  let s1 := modTile s p (fun t =>
    { storeMod t (fun q => { q with cellRef := satAdd 16 q.cellRef 1 }) with
      dma := outDrop j { t.dma with jobs := t.dma.jobs.filter (fun x => x.id != j.job) } })
  failLots (sendEvent s1 (tileEvent s1 p 0x0153 (ctxCc s (physPart p)) 0x0021 0 [])) (physPart p) 0x0021 s.clk.bell (ctxCc s (physPart p))

/-- The tags of the packets a job sends now: each packet as soon as one is free (R282). -/
def outTags (d : Dma) (j : OutJob) : List Nat := (freeTags d).take (outTagCount j - j.sent)

/-- The front job sends: packets that need a tag as far as tags are free, the others whole. -/
def outSend (s : State) (p : Nat) (j : OutJob) : State :=
  let n := physPart p
  let cc := ctxCc s n
  let r := outRead (ctxOf s p) j (max cc (kvGet 0 (getTile s p).busy 29))
  let jd := if j.op == 0 then { j with dest := boltEp s n j.addr } else j
  let w := if j.op == 3 then (0, r.2.1) else if j.sent != 0 then (j.tally, r.2.1) else outTally r.2.1 jd r.1 cc
  let tags := outTags (getTile s p).dma j
  let pks := outPackets s p j (List.replicate j.sent 0 ++ tags) w.1 r.1
  let all := outTagCount j ≤ j.sent + tags.length
  let s1 := applyCtx s (ctxTile w.2 (fun t =>
    let t1 := if j.op == 3 || !all then t else digestAdd t w.1 ((pks.head?.map (fun k => k.addr)).getD 0)
    { t1 with
      busy := kvSet 0 t1.busy 29 r.2.2
      dma := takeTags tags j.job (if all then outDrop j t1.dma
        else { t1.dma with fout := { j with data := r.1, sent := j.sent + tags.length, tally := w.1 } :: t1.dma.fout.drop 1 }) }))
  let s2 := injectRaw s1 p (if outTagCount j == 0 then pks else (pks.drop j.sent).take tags.length)
  if j.op == 2 || j.op == 4 then groupDone s2 p j.group 0xFFFFFFFF r.2.2 else s2

/-- FABRIC_OUT_SEND (R339). -/
def execFabricOutSend (p : Nat) (ups : List (Nat × Nat)) (s0 : State) : Res :=
  if ¬ p < tileCount then .refused .noSuchUnit
  else
    let s := storeUpset s0 p ups
    match (getTile s p).dma.fout with
    | [] => .next s
    | j :: _ =>
      if !(foutLive (getTile s p)) then .next s
      else if !(outCells (ctxOf s p) j) then .next (outRefuse s p j)
      else if outTagCount j != 0 && (outTags (getTile s p).dma j).isEmpty then .next s
      else .next (outSend s p j)

/-! ## Fabric-in (R198, R200, R338) -/

/-- The data lines of a packet (a multicast's first line is its mask). -/
def dataLines (k : Packet) : List Byte := if k.mcast then k.payload.drop 64 else k.payload

/-- Write one line through fabric-in in the next cell it holds at or after `cc` (R198), or refuse it: no cell in its bank (R198),
the active bank (R60), or outside the store; the reports say which. Answers the cc after the access. -/
def finLine (cc : Nat) (c : Ctx) (a : Nat) (bs : List Byte) : Nat × Ctx :=
  let viol := fun (f : Store → Store) => ctxSig (ctxSig (ctxTile c (fun t => storeMod t f)) (.event 0x0153 cc 0 []))
    (.fail 0x0021 cc)
  if Config.storeBytes < a + 64 || inActiveBank c.t a 64 then (cc, viol (fun q => { q with wrRef := satAdd 16 q.wrRef 1 }))
  else if !(holdsBank c 6 (lineBank a)) then (cc, viol (fun q => { q with cellRef := satAdd 16 q.cellRef 1 }))
  else
    let k := nextCell c 6 (lineBank a) cc
    (k + 1, ctxTile c (fun t => bankTouch (rawWriteAt t 6 k a bs) a 64))

/-- The lines of a packet, in rising order, from the first cc at which fabric-in is free. -/
def finLines' (cc : Nat) (k : Packet) (c : Ctx) : Ctx :=
  let r := (upto 0 ((dataLines k).length / 64)).foldl (fun r i =>
    finLine r.1 r.2 (64 * (k.addr + i)) (slice (dataLines k) (64 * i) 64)) (max cc (kvGet 0 c.t.busy 28), c)
  setBusy r.2 28 r.1

/-- The bolt of an arriving packet: its start line in the store. -/
def arriveKey (t : Tile) (k : Packet) : Nat × Nat :=
  if k.kind == 0xC then
    match tagJob t.dma k.sub with
    | some j => (65536 + j.id, j.sAddr / 64)
    | none => (0, k.addr)
  else (k.src, k.addr)

/-- Is an open arrival the one a packet belongs to? -/
def arriveIs (key : Nat) (k : Packet) (a : Arrive) : Bool :=
  a.src == key && a.kind == k.kind && a.sub == (if k.kind == 0xC then 0 else k.sub)
  && a.start ≤ k.addr && k.addr < a.start + 64 && !(a.lines.any (fun l => l.1 == k.addr))

/-- Add a packet's lines to its bolt. -/
def arriveAdd (k : Packet) (a : Arrive) : Arrive :=
  { a with auxDiffer := a.auxDiffer || a.aux != k.aux
           lines := a.lines ++ (upto 0 ((dataLines k).length / 64)).map (fun i =>
             (k.addr + i, slice (dataLines k) (64 * i) 64)) }

/-- The bytes of an arrived bolt by position. -/
def arriveBytes (a : Arrive) : List Byte :=
  (upto 0 64).flatMap (fun i => ((a.lines.find? (fun l => l.1 == a.start + i)).map (fun l => l.2)).getD (zeros 64))

/-- Check a whole arrived bolt (R338). -/
def arriveCheck (cc : Nat) (a : Arrive) (peer : Nat) (c : Ctx) : Ctx :=
  let f := crc32c (arriveBytes a)
  let good := f == a.aux && !a.auxDiffer
  let sa := 64 * a.start
  let c1 := if sa % 4096 == 0 then
      ctxTile c (fun t => tallySet (trackerFree t (sa / 4096)) (sa / 4096)
        { st := if good then .valid else .mismatched, tally := BitVec.ofNat 32 a.aux })
    else ctxTile c (fun t => tallyStaleRange t sa 4096)
  if good then c1 else tallyFail c1 false 1 a.kind peer sa a.aux f cc

/-- The stamps of the room at fabric-in, as lines leave it (R251). -/
def finRooms (stamp cc before after : Nat) (m : Kv (Nat × Nat)) : Kv (Nat × Nat) :=
  (upto 1 5).foldl (fun m n => if 8 - before < n && n ≤ 8 - after then kvSet (0, 0) m n (stamp, cc) else m) m

/-- Take the front packet out of fabric-in's buffer. -/
def finPop (s : State) (p : Nat) : State :=
  let r := nextStamp s
  modTile r.2 p (fun t =>
    let t1 := storeMod t (fun q => { q with fin := q.fin.drop 1 })
    { t1 with router := { t1.router with
      rooms := finRooms r.1 s.clk.cycles (finLines t) (finLines t1) t1.router.rooms } })

/-- Is a packet a store write of a replay to a tile outside its partition (R354)? -/
def replayOut (s : State) (p : Nat) (k : Packet) : Bool :=
  k.kind == 8 && k.srcMod == 0xFFFFFFFF && k.src < 4608 && replaying s (logPart k.src) && logPart k.src != physPart p

/-- A packet is written (R200): its bolt grows, and a whole one is checked and counted. -/
def finWrite (s : State) (p : Nat) (k : Packet) : State :=
  let cc := ctxCc s (physPart p)
  let t := getTile s p
  let key := arriveKey t k
  if k.kind == 0xC && key.1 == 0 then finPop s p
  else if replayOut s p k then finPop s p
  else
    let s1 := applyCtx (finPop s p) (finLines' cc k (ctxOf (finPop s p) p))
    let at0 := kvGet 0 (getTile s1 p).busy 28
    let old := (t.dma.arrive.find? (arriveIs key.1 k)).getD
      { src := key.1, kind := k.kind, sub := if k.kind == 0xC then 0 else k.sub
        start := key.2, aux := k.aux, auxDiffer := false, lines := [] }
    let a := arriveAdd k old
    let rest := t.dma.arrive.eraseP (arriveIs key.1 k)
    let s2 := modDma s1 p (fun d => { d with arrive := if a.lines.length < 64 then rest ++ [a] else rest })
    let whole := !(a.lines.length < 64)
    let s3 := if whole then applyCtx s2 (arriveCheck cc a k.src (ctxOf s2 p)) else s2
    if k.kind == 0xC then
      (match tagJob (getTile s3 p).dma k.sub with
      | some j =>
        let need := (a.lines.filter (fun l => (l.1 - a.start) / 4 == (k.addr - a.start) / 4)).length
        if need < 4 then s3 else tagDone s3 p k.sub j at0
      | none => s3)
    else if whole then
      let s4 := groupDone s3 p (k.sub % 8) k.srcMod at0
      if k.item then noteItem s4 p (k.sub % 8) k.srcMod k.stamp at0 else s4
    else s3

/-- FABRIC_IN_WRITE (R198). -/
def execFabricInWrite (p : Nat) (s : State) : Res :=
  if ¬ p < tileCount then .refused .noSuchUnit
  else match (getTile s p).store.fin with
    | [] => .next s
    | k :: _ => .next (finWrite s p k)

/-- WRITE_COMPLETION_DELIVERY (R283). -/
def execWriteCompletionDelivery (p : Nat) (s : State) : Res :=
  sinkRun (fun k => k.kind == 0xD) (fun s p k =>
    match tagJob (getTile s p).dma k.sub with
    | some j => tagDone s p k.sub j (ctxCc s (physPart p))
    | none => s) p s

/-! ## Gather buffer and write-backs (R201, R207) -/

/-- The runs of adjacent bytes that an entry holds, each with its offset in the line. -/
def gentRuns (e : GEnt) : List (Nat × List Byte) :=
  (upto 0 64).foldr (fun i rs => match e.bytes.find? (fun b => b.1 == i), rs with
    | none, rs => rs
    | some b, (j, bs) :: t => if j == i + 1 then (i, b.2 :: bs) :: t else (i, [b.2]) :: (j, bs) :: t
    | some b, [] => [(i, [b.2])]) []

/-- One masked write of an entry through the clerk's port in a cc: its bolts become Stale (R337). -/
def gatherPut (cc : Nat) (t : Tile) (e : GEnt) : Tile :=
  if e.bytes.isEmpty then t
  else tallyStaleRange ((gentRuns e).foldl (fun t b =>
      bankTouch (rawWriteAt t 9 cc (64 * e.line + b.1) b.2) (64 * e.line + b.1) b.2.length) t) (64 * e.line) 64

/-- An entry that is ready at `cc` drains in the clerk's next cell of its bank (R198). -/
def gatherWrite (cc : Nat) (c : Ctx) (e : GEnt) : Ctx :=
  let k := clerkCc c (lineBank (64 * e.line)) cc
  setBusy (ctxTile c (fun t => gatherPut k t e)) 30 (k + 1)

/-- Take an entry's line out of the buffer. -/
def gatherDrop (line : Nat) (c : Ctx) : Ctx :=
  ctxTile c (fun t => storeMod t (fun q => { q with gbuf := q.gbuf.filter (fun g => g.line != line) }))

/-- The oldest entry drains. -/
def gatherDrain (cc : Nat) (c : Ctx) : Ctx :=
  match c.t.store.gbuf with
  | [] => c
  | e :: rest => gatherWrite cc (ctxTile c (fun t => storeMod t (fun q => { q with gbuf := rest }))) e

/-- Can an entry that is ready at `cc` drain: does the clerk find a cell of its bank (R198)? -/
def gentCell (cc : Nat) (c : Ctx) (e : GEnt) : Bool := portCell c 9 (lineBank (64 * e.line)) (clerkFrom c cc)

/-- Every entry drains, in allocation order, up to one in whose bank the clerk finds no cell. -/
def gatherDrainAll (cc : Nat) (c : Ctx) : Ctx :=
  (c.t.store.gbuf.takeWhile (gentCell cc c)).foldl (gatherWrite cc)
    (ctxTile c (fun t => storeMod t (fun q => { q with gbuf := q.gbuf.dropWhile (gentCell cc c) })))

/-- The gather buffer at a bell: whatever it still holds has drained (R201). -/
def gatherEmpty (cc : Nat) (t : Tile) : Tile := t.store.gbuf.foldl (gatherPut cc) (storeMod t (fun q => { q with gbuf := [] }))

/-- GATHER_BUFFER_DRAIN (R201). -/
def execGatherBufferDrain (p : Nat) (s : State) : Res :=
  if ¬ p < tileCount then .refused .noSuchUnit
  else match (getTile s p).store.gbuf with
    | [] => .next s
    | e :: _ =>
      let cc := ctxCc s (physPart p)
      if (getTile s p).st != .pinfold && gentCell cc (ctxOf s p) e then .next (applyCtx s (gatherDrain cc (ctxOf s p))) else .next s

/-- Rewrite a line corrected: its single-bit failures are gone. -/
def lineFix (line : Nat) (q : Store) : Store :=
  { touchLine q (line / 64) with bad := q.bad.filter (fun w => !(w.2 == 1 && line ≤ 8 * w.1 && 8 * w.1 < line + 64)) }

/-- ECC_WRITE_BACK (R207): the copier rewrites the oldest corrected line in its next cell of that bank. -/
def execEccWriteBack (p : Nat) (s : State) : Res :=
  if ¬ p < tileCount then .refused .noSuchUnit
  else match (getTile s p).store.wbq with
    | [] => .next s
    | l :: rest =>
      if (getTile s p).st != .pinfold && portCell (ctxOf s p) 0 (lineBank l) (ctxCc s (physPart p)) then
        .next (modTile s p (fun t => storeMod t (fun q => lineFix l { q with wbq := rest })))
      else .next s

end Sys2Proof.Machine
end

