-- ==== Sys2Proof/Machine/Memory.lean ====
section
/-! DEFINITION. The memory stacks: bolts and their metadata, the stack interface's classes, merged reads, refresh and the
patrol scrub (spec/10_memory_and_mills.md R269 to R297, R532, spec/12_integrity.md R341, R342). Readings of the stack rules:
DEDUCED, assumption 27. -/

namespace Sys2Proof.Machine

/-! ## Bolts of the shares (R272, R274, R296, R342) -/

/-- Memory stacks of the module. -/
def stackCount : Nat := 8

/-- The key of a bolt's metadata. -/
def boltKey (n b : Nat) : Nat := n * Config.shareBolts + b

/-- A bolt's metadata. -/
def boltMeta (s : State) (n b : Nat) : BoltMeta := kvGet {} s.bolts (boltKey n b)

/-- The tally of 4,096 zero bytes (R274). -/
def zeroTally : Nat := crc32c (zeros 4096)

/-- One line of a bolt as a read returns it: 0xFF when uncorrectable, else zeros when unwritten. -/
def boltLine (s : State) (n b i : Nat) : List Byte :=
  let m := boltMeta s n b
  if m.bad.contains i then List.replicate 64 0xFF
  else if !m.written then zeros 64
  else memRead s.dram (4096 * boltKey n b + 64 * i) 64

/-- The whole bolt. -/
def boltBytes (s : State) (n b : Nat) : List Byte := (upto 0 64).flatMap (boltLine s n b)

/-- The tally a read returns: of zeros when unwritten, inverted when poisoned (R342). -/
def boltTally (s : State) (n b : Nat) : Nat :=
  let m := boltMeta s n b
  if !m.written then zeroTally else if m.poison then 0xFFFFFFFF - m.tally.toNat else m.tally.toNat

/-- A write of the whole bolt with its tally: every mark clears and every line has fresh ECC. -/
def boltPut (s : State) (n b : Nat) (bs : List Byte) (tally : Nat) : State :=
  { s with dram := memWrite s.dram (4096 * boltKey n b) bs
           bolts := kvSet {} s.bolts (boltKey n b) { written := true, tally := BitVec.ofNat 32 tally } }

/-- Lines found uncorrectable (R296); the unwritten mark stands, which only a write clears (R274). -/
def boltUpset (s : State) (n b : Nat) (lines : List Nat) : State :=
  let m := boltMeta s n b
  let bad := lines.foldl (fun l i => if l.contains i then l else l ++ [i]) m.bad
  { s with bolts := kvSet {} s.bolts (boltKey n b) { m with bad := bad } }

/-- Does a bolt's stored tally match its bytes, and is every line good? -/
def boltGood (s : State) (n b : Nat) : Bool :=
  (boltMeta s n b).bad.isEmpty && crc32c (boltBytes s n b) == boltTally s n b

/-! ## Reports of a stack -/

/-- An event of a stack's mill (Table 12.7): `group` 0xFF names none. -/
def stackEvent (s : State) (k code part group compl : Nat) : Event :=
  { code := code, unit := unitId 2 k, loc := k + 256 * group, part := part, bell := s.clk.bell, cc := s.clk.intvCc
    lot := if part < 12 then curLot s part else 0, compl := compl }

/-- An event about a bolt, which it names with its channel group (R296, R341, R342). -/
def boltEvent (s : State) (k code n b compl : Nat) : Event :=
  { stackEvent s k code n (boltGroup (getPart s n).seed.toNat b) compl with pay := toLe 4 b }

/-- A report that fails the partition's lots. -/
def stackFail (s : State) (e : Event) : State := failLots (sendEvent s e) e.part e.compl s.clk.bell s.clk.intvCc

/-- Count the bytes a channel group serves, in units of a line (R276, R298). -/
def serve (s : State) (k n b lines : Nat) : State :=
  let g := boltGroup (getPart s n).seed.toNat b
  modStack s k (fun q => { q with
    grp := kvSet 0 q.grp g ((kvGet 0 q.grp g + lines) % 2 ^ 32)
    intv := kvSet 0 q.intv g (kvGet 0 q.intv g + lines)
    dom := kvSet 0 q.dom (16 * g + n) (kvGet 0 q.dom (16 * g + n) + lines) })

/-- Count a key violation at a stack interface (R23); no register shows the count. -/
def stackKeyCount (s : State) (k : Nat) : State := modStack s k (fun q => { q with keyViol := q.keyViol + 1 })

/-- A key violation at a stack (R23, R259, R272): counted, and the event names the stack, the edge port's column and the packet's
src. -/
def stackKeyDrop (s0 : State) (k : Nat) (pk : Packet) : State :=
  let s := stackKeyCount s0 k
  let pay := portSrc (edgeCol k (pk.src % 96)) pk
  match epPart pk.src with
  | some n => cutLots (sendEvent s { stackEvent s k 0x0155 n 0xFF 0x0026 with pay := pay }) n 0x0026 s.clk.bell s.clk.intvCc
  | none => sendEvent s { stackEvent s k 0x0155 0xFFFF 0xFF 0 with pay := pay }

/-- Does the interface accept a mesh request (R23, R259, R277)? -/
def stackKeyOk (pk : Packet) : Bool :=
  match epPart pk.src with
  | some n => keyMatch pk.table n pk.key
  | none => false

/-- Is the address one of the share's lines (R272)? -/
def lineOk (a : Nat) : Bool := a < 0x20000000

/-- A stack's interface domain is off while its power domain D(68 + k) is. -/
def ifaceOn (s : State) (k : Nat) : Bool := domOn s (68 + k)

/-! ## Answers into the mesh -/

/-- Answer a tile through the edge port R24 names. -/
def answer (s : State) (k : Nat) (tile : Nat) (pks : List Packet) : State :=
  stackEmit s k (edgeCol k (tile % 96)) pks

/-- The read response to one request packet (R283). -/
def readResponse (k : Nat) (pk : Packet) (tally : Nat) (bs : List Byte) : Packet :=
  { kind := 0xC, vc := 1, last := pk.last, sub := pk.sub, key := pk.key, dest := pk.src, src := 8192 + k, addr := pk.dline
    aux := tally, payload := bs, table := pk.table }

/-- A write completion (R283). -/
def writeCompletion (k : Nat) (key tile tag : Nat) (table : List (Nat × Nat)) : Packet :=
  { kind := 0xD, vc := 1, last := true, sub := tag, key := key, dest := tile, src := 8192 + k, table := table }

/-- The bytes of a refused read and their tally inverted (R532). -/
def refusedRead (k : Nat) (pk : Packet) : Packet :=
  readResponse k pk (0xFFFFFFFF - crc32c (List.replicate 4096 0xFF)) (List.replicate 256 0xFF)

/-- The bolts with an open window (R294). -/
def winBolts (q : Stack) : List Nat := (q.windows.map (fun w => boltKey w.part w.bolt)).eraseDups

/-- What merged reads are told by among the bolts in service: their tile with this added. -/
def mergedSrc : Nat := 65536

/-- The bolts that merged reads keep in service: from the first request accepted to the last response (R280). -/
def mergedBolts (q : Stack) : List Nat := ((q.svc.filter (fun e => mergedSrc ≤ e.1)).map (fun e => e.2.1)).eraseDups

/-- Stack tags held: one for each bolt in service (R280, Table 10.7), and so one for a bolt that merged reads of several tiles
share. -/
def stackTags (q : Stack) : Nat := (q.svc.filter (fun e => e.1 < mergedSrc)).length + q.wr.length + (mergedBolts q).length

/-- Bolts in service: a request for a bolt not yet in service needs a free stack tag (R280). -/
def svcRoom (q : Stack) (src key : Nat) : Bool :=
  q.svc.any (fun e => e.1 == src && e.2.1 == key) || (mergedSrc ≤ src && (mergedBolts q).contains key) || stackTags q < 1024

/-- Does a read request merge here (R294)? -/
def mergesIn (q : Stack) (pk : Packet) : Bool :=
  pk.item && (match epPart pk.src with
    | some n => bitAt q.merge n
    | none => false)

/-- The name under which a read request's bolt is in service. -/
def svcSrc (q : Stack) (pk : Packet) : Nat := if mergesIn q pk then mergedSrc + pk.src else pk.src

/-- Is a packet's bolt that of a key? -/
def pkIs (key : Nat) (pk : Packet) : Bool :=
  lineOk pk.addr && (match epPart pk.src with
    | some n => boltKey n (pk.addr / 64) == key
    | none => false)

/-- The bolt a mesh request names. -/
def pkBolt (pk : Packet) : Nat := boltKey ((epPart pk.src).getD 0) (pk.addr / 64)

/-- Must a request for a bolt that arrived with stamp `seq` wait for an earlier one, or a write for a merged read (R279)? -/
def boltWaits (q : Stack) (key seq : Nat) (write : Bool) : Bool :=
  q.inq.any (fun x => x.born < seq && pkIs key x)
  || q.remote.any (fun r => r.seq < seq && boltKey r.part r.bolt == key)
  || (write && (winBolts q).contains key)

/-! ## Classes and slots (R277 to R279) -/

/-- Is a packet a read request, a memory write, or a mill post? -/
def isRead (x : Packet) : Bool := x.kind == 0xA
/-- A memory write. -/
def isWrite (x : Packet) : Bool := x.kind == 9 && x.addr != 0xFFFFFF00
/-- A mill post. -/
def isPost (x : Packet) : Bool := x.kind == 9 && x.addr == 0xFFFFFF00

/-- Is a mesh request accepted (R23, R272)? -/
def pkAccepted (pk : Packet) : Bool := stackKeyOk pk && (lineOk pk.addr || isPost pk)

/-- Has the read class a request ready? -/
def readClass (q : Stack) : Bool :=
  match q.inq.find? isRead with
  | some pk => pkAccepted pk && !(boltWaits q (pkBolt pk) pk.born false) && svcRoom q (svcSrc q pk) (pkBolt pk)
  | none => false

/-- Is a bolt the one a packet belongs to? -/
def wrIs (n : Nat) (pk : Packet) (w : WrAsm) : Bool := w.src == pk.src && w.part == n && w.bolt == pk.addr / 64

/-- Can a memory write be taken: its bolt's turn, and a tag for it? -/
def writeRoom (q : Stack) (pk : Packet) : Bool :=
  !(boltWaits q (pkBolt pk) pk.born true) && (q.wr.any (wrIs ((epPart pk.src).getD 0) pk) || stackTags q < 1024)

/-- Has a partition's mill queue room (R286)? -/
def millRoom (q : Stack) (n : Nat) : Bool := (kvGet [] q.queues n).length < 64

/-- Has the write class a request ready: a memory write, or a mill post that finds room? -/
def writeClass (q : Stack) : Bool :=
  (match q.inq.find? isWrite with
    | some pk => pkAccepted pk && writeRoom q pk
    | none => false)
  || (match q.inq.find? isPost with
    | some pk => pkAccepted pk && millRoom q ((epPart pk.src).getD 0)
    | none => false)

/-- May the front request of the spine be served: no earlier request for its bolt waits (R279)? -/
def remoteTurn (q : Stack) (r : Remote) : Bool := !(boltWaits q (boltKey r.part r.bolt) r.seq r.mill.isNone)

/-- Has the remote class a request ready? -/
def remoteClass (q : Stack) : Bool :=
  match q.remote with
  | r :: _ => remoteTurn q r
  | [] => false

/-- The rotation of transfer slots (R278), class 0 read, 1 write, 2 remote: ten of the default form, sixteen of the other. Their
order within a rotation, and that one request takes one slot: DESIGN CHOICE, assumption 27. -/
def slotWheel (q : Stack) : List Nat :=
  if bitAt q.split 31 then [0, 0, 0, 0, 0, 1, 1, 1, 2, 2]
  else List.replicate (bits q.split 4 0) 0 ++ List.replicate (bits q.split 9 5) 1 ++ List.replicate (bits q.split 14 10) 2

/-- The class that the present slot serves: its owner, or with nothing ready there the next in the order read, write, remote. -/
def slotClass (q : Stack) : Option Nat :=
  let ready := fun (c : Nat) => match c with | 0 => readClass q | 1 => writeClass q | _ => remoteClass q
  let own := ((slotWheel q).drop q.slot).headD 0
  [own, (own + 1) % 3, (own + 2) % 3].find? ready

/-- A slot has been used. -/
def slotUsed (s : State) (k : Nat) : State :=
  modStack s k (fun q => { q with slot := (q.slot + 1) % max 1 (slotWheel q).length })

/-- Take a packet out of the interface's input. -/
def inqDrop (s : State) (k : Nat) (want : Packet → Bool) : State := modStack s k (fun q => { q with inq := q.inq.eraseP want })

/-- A command that serves the first mesh request of one class: none is there, or the lost stack is not powered; it is refused; the
stack is lost; the slot is another class's; or it is served (R23, R272, R277 to R279, R532). -/
def classRun (k cls : Nat) (want : Packet → Bool) (can : Stack → Packet → Bool) (turned : State → Packet → State)
    (serves : State → Packet → State) (s : State) : Res :=
  if ¬ k < stackCount then .refused .noSuchUnit
  else match (getStack s k).inq.find? want with
    | none => .next s
    | some pk =>
      let q := getStack s k
      if q.lost && !(ifaceOn s k) then .next s
      else if !(pkAccepted pk) then .next (turned (stackKeyDrop (inqDrop s k want) k pk) pk)
      else if q.lost then .next (turned (inqDrop s k want) pk)
      else if slotClass q != some cls || !(can q pk) then .next s
      else .next (serves (slotUsed (inqDrop s k want) k) pk)

/-- A request of the spine comes to the stack of its bolt. -/
def remotePut (s : State) (r : Remote) : State :=
  let t := nextStamp s
  modStack t.2 (boltStack (getPart s r.part).seed.toNat r.bolt) (fun q => { q with remote := q.remote ++ [{ r with seq := t.1 }] })

/-! ## The read class (R277, R294) -/

/-- A bolt comes into service with its first accepted request (R280): sixteen responses are due. -/
def svcOpen (src key : Nat) (q : Stack) : Stack :=
  if q.svc.any (fun e => e.1 == src && e.2.1 == key) then q else { q with svc := q.svc ++ [(src, key, 16)] }

/-- One request of a bolt in service has been answered: the sixteenth frees the stack's tag. -/
def svcDown (src key : Nat) (q : Stack) : Stack :=
  match q.svc.find? (fun e => e.1 == src && e.2.1 == key) with
  | none => q
  | some e =>
    if e.2.2 ≤ 1 then { q with svc := q.svc.filter (fun x => !(x.1 == src && x.2.1 == key)) }
    else { q with svc := q.svc.map (fun x => if x.1 == src && x.2.1 == key then (src, key, e.2.2 - 1) else x) }

/-- Read four lines of a bolt with the reports of R296: `corr` lines were corrected. -/
def readLines (s : State) (k n b line corr : Nat) : List Byte × State :=
  let bad := (boltMeta s n b).bad.filter (fun i => line ≤ i && i < line + 4)
  let s1 := serve (modStack s k (fun q => { q with
    eccCor := (q.eccCor + corr) % 2 ^ 16, eccUnc := satAdd 16 q.eccUnc bad.length })) k n b 4
  let s2 := if bad.isEmpty then s1 else stackFail s1 (boltEvent s1 k 0x0125 n b 0x0014)
  ((upto line 4).flatMap (boltLine s n b), s2)

/-- Serve one read request alone. -/
def readServe (s : State) (k : Nat) (pk : Packet) (corr : Nat) : State :=
  let n := (epPart pk.src).getD 0
  let b := pk.addr / 64
  let r := readLines s k n b (pk.addr % 64) corr
  let src := svcSrc (getStack s k) pk
  answer (modStack r.2 k (fun q => svcDown src (boltKey n b) (svcOpen src (boltKey n b) q))) k pk.src [readResponse k pk (boltTally s n b) r.1]

/-- Does a request at cycle `now` match a window that stands open for 64 cc (R294)? -/
def winMatch (n now : Nat) (pk : Packet) (w : MergeWin) : Bool :=
  w.part == n && w.addr == pk.addr && w.tag == pk.sub && w.dline == pk.dline && now < w.openCc + 64

/-- A merged request joins its window, opens one, or is served alone when all 64 are open. -/
def mergeServe (s0 : State) (k : Nat) (pk : Packet) (corr : Nat) : State :=
  let n := (epPart pk.src).getD 0
  let s := modStack s0 k (svcOpen (mergedSrc + pk.src) (boltKey n (pk.addr / 64)))
  let q := getStack s k
  if q.windows.any (winMatch n s.clk.cycles pk) then
    modStack s k (fun q => { q with windows := q.windows.map (fun w =>
      if winMatch n s.clk.cycles pk w then { w with tiles := w.tiles ++ [pk.src] } else w) })
  else if q.windows.length < 64 then
    modStack s k (fun q => { q with windows := q.windows ++ [{ part := n, bolt := pk.addr / 64, addr := pk.addr, tag := pk.sub
                                                               dline := pk.dline, key := pk.key, tiles := [pk.src]
                                                               openCc := s.clk.cycles }] })
  else readServe s k pk corr

/-- Serve a read request, merged or alone. -/
def readTake (s : State) (k corr : Nat) (pk : Packet) : State :=
  if mergesIn (getStack s k) pk then mergeServe s k pk corr else readServe s k pk corr

/-- STACK_READ_REQUEST (R277): `bad` lines of the bolt are found uncorrectable and `corr` are corrected
(assumption 13). -/
def execStackReadRequest (k corr : Nat) (bad : List Nat) (s : State) : Res :=
  classRun k 0 isRead (fun q pk => !(boltWaits q (pkBolt pk) pk.born false) && svcRoom q (svcSrc q pk) (pkBolt pk))
    (fun s pk => answer s k pk.src [refusedRead k pk])
    (fun s pk => readTake (boltUpset s ((epPart pk.src).getD 0) (pk.addr / 64) bad) k corr pk) s

/-- The members of a window by the set of columns of their row: one multicast for rows of equal sets (R294). -/
def winGroups (tiles : List Nat) : List (Nat × Nat) :=
  let rows := ((upto 0 48).map (fun r =>
    (r, tiles.foldl (fun m t => if t / 96 == r then setBit m (t % 96) else m) 0))).filter (fun q => q.2 != 0)
  rows.foldl (fun (acc : List (Nat × Nat)) q =>
    if acc.any (fun a => a.2 == q.2) then acc.map (fun a => if a.2 == q.2 then (setBit a.1 q.1, a.2) else a)
    else acc ++ [(2 ^ q.1, q.2)]) []

/-- The lowest set bit's place. -/
def lowBit (m : Nat) : Nat := ((upto 0 96).find? (fun i => bitAt m i)).getD 0

/-- The two multicast packets of a merged response for one group of rows. -/
def winPackets (k : Nat) (w : MergeWin) (tally : Nat) (bs : List Byte) (g : Nat × Nat) (table : List (Nat × Nat)) :
    List Packet :=
  (upto 0 2).map (fun i =>
    { kind := 0xC, vc := 1, mcast := true, last := w.tag == 31 && i == 1, sub := w.tag, key := w.key, dest := 8192 + k
      src := 8192 + k, addr := w.dline + 2 * i, aux := tally
      payload := maskLine g.1 g.2 0 0 ++ slice bs (128 * i) 128, table := table })

/-- What a window's one read gives, and its tally; a lost stack's is refused (R532). `corr` lines were corrected. -/
def winRead (s : State) (k corr : Nat) (w : MergeWin) : Nat × List Byte × State :=
  if (getStack s k).lost then (0xFFFFFFFF - crc32c (List.replicate 4096 0xFF), List.replicate 256 0xFF, s)
  else (boltTally s w.part w.bolt, readLines s k w.part w.bolt (w.addr % 64) corr)

/-- A window ends: one read, an answer to every member, and the members' bolt has one response less to come (R280, R294). -/
def windowEnd (s : State) (k corr : Nat) (w : MergeWin) : State :=
  let tally := (winRead s k corr w).1
  let r := (winRead s k corr w).2
  let s1 := modStack r.2 k (fun q =>
    let q1 := w.tiles.foldl (fun q t => svcDown (mergedSrc + t) (boltKey w.part w.bolt) q) q
    { q1 with windows := q.windows.erase w, mergeCnt := (q.mergeCnt + (w.tiles.length - 1)) % 2 ^ 32 })
  (winGroups w.tiles).foldl (fun s g =>
    stackEmit s k (edgeCol k (lowBit g.2)) (winPackets k w tally r.1 g (keyTable s))) s1

/-- MERGE_WINDOW_CLOSE (R294): the oldest window that is 64 cc old reads once and answers. -/
def execMergeWindowClose (k corr : Nat) (s : State) : Res :=
  if ¬ k < stackCount then .refused .noSuchUnit
  else match (getStack s k).windows with
    | [] => .next s
    | w :: _ =>
      if s.clk.cycles < w.openCc + 64 || ((getStack s k).lost && !(ifaceOn s k)) then .next s
      else .next (windowEnd s k corr w)

/-! ## The write class (R284, R291) -/

/-- Bytes of a unit of 1,024 elements in a format of Table 6.1, and units in a bolt (Table 10.9). -/
def unitBytes (f : Nat) : Nat :=
  if f == 6 || f == 7 then 4096 else if f == 3 || f == 4 then 2048 else if f == 1 || f == 2 || f == 5 then 1024
  else if f == 9 || f == 0xA || f == 0xE then 1056 else if f == 0xB || f == 0xC then 800 else if f == 0xD then 544 else 4096
/-- Units in one bolt. -/
def unitRho (f : Nat) : Nat := 4096 / unitBytes f

/-- The span of a range in bolts (R289). -/
def rangeSpan (count rho : Nat) : Nat :=
  if rho ≤ 1 then count
  else let q := (count - 1) / (65536 * rho); 65536 * q + min 65536 (count - 65536 * rho * q)

/-- The distance of the slots of an ordered reduction (R291). -/
def slotSpan (d : List Byte) : Nat := (rangeSpan (fld d 4 4) (unitRho (fld d 1 1 % 16)) + 65535) / 65536 * 65536


/-- The place of a slot bolt that a posted ordered reduction waits for, from the first slot's start; bolts between a slot's span
and the next slot are none (R291). -/
def slotOf (e : MillEnt) (b : Nat) : Option Nat :=
  let d := e.desc
  let n := fld d 0x1C 1
  let r1 := fld d 0xC 4
  let span := slotSpan d
  if fld d 0 1 == 0x10 && r1 ≤ b && span != 0 && (b - r1) / span < n
      && (b - r1) % span < rangeSpan (fld d 4 4) (unitRho (fld d 1 1 % 16)) then
    some (b - r1)
  else none

/-- The posted reductions of a partition at a stack. -/
def reductions (q : Stack) (n : Nat) : List MillEnt :=
  (match kvGet none q.running n with | some e => [e] | none => []) ++ (kvGet [] q.queues n).take 64

/-- Has a slot bolt already arrived for a posted reduction (R291)? -/
def slotTwice (q : Stack) (n b : Nat) : Bool :=
  (reductions q n).any (fun e => match slotOf e b with
    | some o => e.arrived.contains o || q.slotQ.contains (n, b)
    | none => false)

/-- Does a posted reduction wait for a bolt? -/
def slotWanted (q : Stack) (n b : Nat) : Bool := (reductions q n).any (fun e => (slotOf e b).isSome)

/-- Store an accepted bolt, or refuse it: a tally that fails (R284), or a slot bolt that came before, which is counted (R291; no
register shows the count). -/
def boltWrite (s : State) (k n b tally : Nat) (bs : List Byte) : State :=
  if crc32c bs != tally then
    stackFail (modStack s k (fun q => { q with tlyWrite := satAdd 16 q.tlyWrite 1 })) (boltEvent s k 0x0112 n b 0x0012)
  else if slotTwice (getStack s k) n b then 
    stackFail (modStack s k (fun q => { q with slotRef := satAdd 16 q.slotRef 1 }))
      { stackEvent s k 0x0153 n 0xFF 0x0021 with pay := toLe 4 b }
  else
    let s1 := serve (boltPut s n b bs tally) k n b 64
    if slotWanted (getStack s k) n b then modStack s1 k (fun q => { q with slotQ := q.slotQ ++ [(n, b)] }) else s1

/-- Add a packet to its bolt. -/
def wrAdd (pk : Packet) (w : WrAsm) : WrAsm :=
  { w with lines := w.lines ++ (upto 0 (pktLines pk)).map (fun i => (pk.addr % 64 + i, slice pk.payload (64 * i) 64))
           tags := w.tags ++ [pk.sub] }

/-- The bytes of an assembled bolt. -/
def wrBytes (w : WrAsm) : List Byte :=
  (upto 0 64).flatMap (fun i => ((w.lines.find? (fun l => l.1 == i)).map (fun l => l.2)).getD (zeros 64))

/-- Serve one memory-write packet: the bolt's sixteenth decides it and returns its write completions. A replay's bolt is
checked and then discarded (R354). -/
def writeServe (s : State) (k : Nat) (pk : Packet) : State :=
  let n := (epPart pk.src).getD 0
  let q := getStack s k
  let old := (q.wr.find? (wrIs n pk)).getD
    { src := pk.src, part := n, bolt := pk.addr / 64, aux := pk.aux, key := pk.key, lines := [], tags := [] }
  let w := wrAdd pk old
  let rest := q.wr.eraseP (wrIs n pk)
  if w.tags.length < 16 then modStack s k (fun q => { q with wr := rest ++ [w] })
  else
    let s0 := modStack s k (fun q => { q with wr := rest })
    let s1 := if replaying s n && crc32c (wrBytes w) == w.aux then s0 else boltWrite s0 k n w.bolt w.aux (wrBytes w)
    answer s1 k w.src (w.tags.map (fun t => writeCompletion k w.key w.src t pk.table))

/-- The write completion of one packet. -/
def wrDone (k : Nat) (s : State) (pk : Packet) : State :=
  answer s k pk.src [writeCompletion k pk.key pk.src pk.sub pk.table]

/-- STACK_MEMORY_WRITE (R284). -/
def execStackMemoryWrite (k : Nat) (s : State) : Res :=
  classRun k 1 isWrite writeRoom (wrDone k) (fun s pk => writeServe s k pk) s

/-- The posts of tiles that a mill holds are answered as if they had been served, so that their tags free (R532). -/
def postsAnswer (s : State) (k : Nat) : State :=
  let q := getStack s k
  let es := (upto 0 12).flatMap (fun n => (kvGet none q.running n).toList ++ kvGet [] q.queues n)
  (es.filter (fun e => e.src != 0xFFFF)).foldl (fun s e => answer s k e.src [writeCompletion k e.key e.src e.tag []]) s

/-- A stack has become lost: the writes it had begun to take in, and the posts its mill holds, are answered too (R532). -/
def lostAnswer (s : State) (k : Nat) : State :=
  if !(ifaceOn s k) then s
  else
    (getStack s k).wr.foldl (fun s w =>
      answer s k w.src (w.tags.map (fun t => writeCompletion k w.key w.src t [])))
      (modStack (postsAnswer s k) k (fun q => { q with wr := [], svc := [], queues := [], running := [], slotQ := [] }))

/-! ## The remote class (R27, R341) -/

/-- A host's partial write (R341): the mill merges it when the bolt's tally and ECC are good; else nothing changes. -/
def partialWrite (s : State) (k : Nat) (r : Remote) : State :=
  if !(boltMeta s r.part r.bolt).bad.isEmpty then
    sendEvent (modStack s k (fun q => { q with
      eccUnc := satAdd 16 q.eccUnc (boltMeta s r.part r.bolt).bad.length })) (boltEvent s k 0x0125 r.part r.bolt 0)
  else if !(boltGood s r.part r.bolt) then
    sendEvent (modStack s k (fun q => { q with tlyRead := satAdd 8 q.tlyRead 1 })) (boltEvent s k 0x0113 r.part r.bolt 0)
  else
    let bs := patch (boltBytes s r.part r.bolt) r.off r.data
    serve (boltPut s r.part r.bolt bs (crc32c bs)) k r.part r.bolt 128

/-- A fetched bolt reaches the mill that asked for it, with its tally and its uncorrectable lines as they were read. -/
def fetchPut (s : State) (m n b : Nat) (f : MillFetch) : State :=
  modStack s m (fun q => { q with fetched := kvSet none q.fetched (boltKey n b) (some f) })

/-- Serve a mill's fetch (R277): its uncorrectable lines are counted and reported here, and fail the lot at the mill. -/
def fetchServe (s : State) (k m : Nat) (r : Remote) : State :=
  let bad := (boltMeta s r.part r.bolt).bad
  let s1 := serve (modStack s k (fun q => { q with eccUnc := satAdd 16 q.eccUnc bad.length })) k r.part r.bolt 64
  let s2 := if bad.isEmpty then s1 else sendEvent s1 (boltEvent s1 k 0x0125 r.part r.bolt 0)
  fetchPut s2 m r.part r.bolt { bytes := boltBytes s r.part r.bolt, tally := boltTally s r.part r.bolt, bad := bad }

/-- Serve an accepted request of the spine. -/
def remoteServe (s : State) (k : Nat) (r : Remote) : State :=
  match r.mill with
  | some m => fetchServe s k m r
  | none => if r.host && r.data.length < 4096 then partialWrite s k r else boltWrite s k r.part r.bolt r.tally r.data

/-- Turn a request of the spine away: a mill's fetch is answered with 0xFF and a tally that fails, as R532 answers a read, the others
have no effect. -/
def remoteTurned (s : State) (r : Remote) : State :=
  match r.mill with
  | some m =>
    let bs := List.replicate 4096 0xFF
    fetchPut s m r.part r.bolt { bytes := bs, tally := 0xFFFFFFFF - crc32c bs, bad := [] }
  | none => s

/-- Does a request of the spine show no live key (R23)? The host's accesses were judged at their window (R527). -/
def remoteKeyBad (s : State) (r : Remote) : Bool := !r.host && !(keyMatch (keyTable s) r.part r.key)

/-- Take in a request of the spine, which has left the queue: turned away at a lost stack (R532) and on a key violation (R23), else
served. -/
def remoteTake (s : State) (k : Nat) (r : Remote) : State :=
  if (getStack s k).lost then remoteTurned s r
  else if remoteKeyBad s r then
    remoteTurned (sendEvent (stackKeyCount s k) (stackEvent s k 0x0155 r.part 0xFF 0)) r
  else remoteServe (slotUsed s k) k r

/-- STACK_REMOTE_REQUEST (R27): the oldest request of the spine, in a slot of the remote class (R278) unless it is turned
away. -/
def execStackRemoteRequest (k : Nat) (s : State) : Res :=
  if ¬ k < stackCount then .refused .noSuchUnit
  else match (getStack s k).remote with
    | [] => .next s
    | r :: rest =>
      let q := getStack s k
      let turned := if q.lost then ifaceOn s k else remoteKeyBad s r
      if !turned && (q.lost || slotClass q != some 2) then .next s
      else .next (remoteTake (modStack s k (fun q => { q with remote := rest })) k r)

/-! ## Posts (R286) -/

/-- A tile's post enters the partition's queue; a replay's is discarded and answered (R354). -/
def postServe (k : Nat) (s : State) (pk : Packet) : State :=
  let n := (epPart pk.src).getD 0
  if replaying s n then wrDone k s pk
  else modStack s k (fun q => { q with queues := kvSet [] q.queues n (kvGet [] q.queues n ++
    [{ desc := pk.payload, src := pk.src, tag := pk.sub, key := pk.key, lot := fld pk.payload 0x3C 4 }]) })

/-- MILL_POST_RECEIVE (R286): the post enters the partition's queue of 64, or waits. -/
def execMillPostReceive (k : Nat) (s : State) : Res :=
  classRun k 1 isPost (fun q pk => millRoom q ((epPart pk.src).getD 0)) (wrDone k) (postServe k) s

/-! ## Accesses that are waited for (R277, R279, R525) -/

/-- A mesh request for a bolt is served when its turn comes. -/
def meshTake (s : State) (k : Nat) (pk : Packet) : State :=
  let s1 := inqDrop s k (fun x => x == pk)
  if !(pkAccepted pk) then
    (if isRead pk then answer (stackKeyDrop s1 k pk) k pk.src [refusedRead k pk] else wrDone k (stackKeyDrop s1 k pk) pk)
  else if isRead pk then readTake (slotUsed s1 k) k 0 pk
  else writeServe (slotUsed s1 k) k pk

/-- Everything that a request for a bolt must follow is served (R279): the mesh requests for it that reached the interface before
stamp `seq`, and for a write the merged reads whose windows are open. -/
def boltSettle (s : State) (k key seq : Nat) (write : Bool) : State :=
  let s1 := ((getStack s k).inq.filter (fun x => x.born < seq && pkIs key x)).foldl (fun s pk => meshTake s k pk) s
  if write then
    ((getStack s1 k).windows.filter (fun w => boltKey w.part w.bolt == key)).foldl (fun s w => windowEnd s k 0 w) s1
  else s1

/-- Wait until a stack interface has accepted the requests that stand in its remote class (R525): their slots come whatever the
other classes ask (R278), each after the earlier requests for its bolt (R279). -/
def remoteRun (k : Nat) : Nat → State → State
  | 0, s => s
  | n + 1, s => match (getStack s k).remote with
    | [] => s
    | r :: rest =>
      remoteRun k n (remoteTake (boltSettle (modStack s k (fun q => { q with remote := rest })) k (boltKey r.part r.bolt) r.seq
        r.mill.isNone) k r)

/-- What a read over the spine for the host, the management space or the Reeve does at the bolt's stack (R277): it is served in the
remote class after everything that came before it for that bolt; its uncorrectable lines are counted and reported (R296), and fail
no lot. A lost stack does nothing with it (R532). A read of the host changes no counter (R524; assumption 27): `counts` is then false. -/
def spineTake (s : State) (counts : Bool) (n b line lines : Nat) : State :=
  let k := boltStack (getPart s n).seed.toNat b
  if (getStack s k).lost then s
  else
    let s1 := boltSettle (remoteRun k (getStack s k).remote.length s) k (boltKey n b) s.clk.stamp false
    let bad := (boltMeta s1 n b).bad.filter (fun i => line ≤ i && i < line + lines)
    let s2 := if counts then serve (modStack (slotUsed s1 k) k (fun q => { q with eccUnc := satAdd 16 q.eccUnc bad.length })) k n b lines
      else slotUsed s1 k
    if bad.isEmpty then s2 else sendEvent s2 (boltEvent s2 k 0x0125 n b 0)

/-- Such a read: the bolt's lines from `line`, its tally, and what it leaves. A lost stack's is refused (R532). -/
def spineRead (s : State) (counts : Bool) (n b line lines : Nat) : List Byte × Nat × State :=
  let s1 := spineTake s counts n b line lines
  if (getStack s1 (boltStack (getPart s1 n).seed.toNat b)).lost then
    (List.replicate (64 * lines) 0xFF, 0xFFFFFFFF - crc32c (List.replicate 4096 0xFF), s1)
  else ((upto line lines).flatMap (boltLine s1 n b), boltTally s1 n b, s1)

/-- The Reeve reads some bolts of a share whole. -/
def shareTake (s : State) (n b count : Nat) : State := (upto 0 count).foldl (fun s i => spineTake s true n (b + i) 0 64) s

/-! ## Refresh, scrub, imbalance, UCIe (R271, R276, R295, R297, R342) -/

/-- DRAM_REFRESH (R295): the mill goes on to its next bank; the contents stand. -/
def execDramRefresh (k : Nat) (s : State) : Res :=
  if ¬ k < stackCount then .refused .noSuchUnit
  else .next (modStack s k (fun q => { q with refresh := (q.refresh + 1) % 2 ^ 32 }))

/-- Is a bolt one of a stack's? -/
def boltIn (s : State) (k key : Nat) : Bool :=
  boltStack (getPart s (key / Config.shareBolts)).seed.toNat (key % Config.shareBolts) == k

/-- The row that holds a 32-byte piece of a bolt, in the form of Table 16.3: channel, pseudo-channel, bank and row (R273). Piece v lies
in channel v mod 8 of the bolt's group, in pseudo-channel v / 8 mod 2 and in bank v / 16 of the bank set; which bank of the set
stands above the 28 bits of the table (assumption 27). -/
def pieceRow (seed b v : Nat) : Nat :=
  8 * boltGroup seed b + v % 8 + 32 * (v / 8 % 2) + 64 * boltBankSet seed b + 1024 * boltRow b + 2 ^ 28 * (v / 16 % 8)

/-- A symbol corrected in piece `v` of a bolt in the running pass; the fifth of its row repairs the row (R297). -/
def rowCount (k n b : Nat) (s : State) (v : Nat) : State :=
  let row := pieceRow (getPart s n).seed.toNat b v
  let c := kvGet 0 (getStack s k).rowCorr row + 1
  if 4 < c && !((getStack s k).rowFix.contains row) then
    sendEvent (modStack s k (fun q => { q with rowCorr := kvSet 0 q.rowCorr row 0, rowFix := q.rowFix ++ [row] }))
      (boltEvent s k 0x0132 n b 0)
  else modStack s k (fun q => { q with rowCorr := kvSet 0 q.rowCorr row c })

/-- Scrub one bolt: correct, count, and poison a written one on a tally failure that ECC passed (R297, R342). `corr` names the
piece (`pieceRow`) of each symbol corrected. -/
def scrubBolt (s0 : State) (k key : Nat) (corr : List Nat) (bad : List Nat) : State :=
  let n := key / Config.shareBolts
  let b := key % Config.shareBolts
  let s := boltUpset s0 n b bad
  let s1 := serve (modStack s k (fun q => { q with scrubPos := key + 1, eccCor := (q.eccCor + corr.length) % 2 ^ 16 })) k n b 64
  let s2 := corr.foldl (rowCount k n b) s1
  let m := boltMeta s n b
  if !m.bad.isEmpty then
    sendEvent (modStack s2 k (fun q => { q with eccUnc := satAdd 16 q.eccUnc m.bad.length }))
      (boltEvent s2 k 0x0125 n b 0)
  else if m.written && crc32c (boltBytes s n b) != m.tally.toNat then
    sendEvent (modStack { s2 with bolts := kvSet {} s2.bolts key { m with poison := true } } k (fun q =>
      { q with tlyScrub := satAdd 8 q.tlyScrub 1 })) (boltEvent s2 k 0x0116 n b 0)
  else s2

/-- Does a stack test hold a stack in the maintenance ledger (R410, Table 14.8)? The patrol scrub yields to it, and waits for it. -/
def stackTested (s : State) (k : Nat) : Bool :=
  s.reeve.ops.any (fun o => o.handle / 2 ^ 24 == 1 && 1 ≤ o.state && o.state ≤ 4 && bitAt o.mask (16 + k))

/-- The next bolt of a stack in a patrol pass; every aligned run of 32 bolts of a share holds some (R273). -/
def scrubNext (s : State) (k : Nat) : Option Nat :=
  let at0 := (getStack s k).scrubPos
  (upto at0 (min 64 (12 * Config.shareBolts - at0))).find? (boltIn s k)

/-- PATROL_SCRUB (R297): every line of the stack's next bolt; after the last one a new pass begins. -/
def execPatrolScrub (k : Nat) (corr : List Nat) (bad : List Nat) (s : State) : Res :=
  if ¬ k < stackCount then .refused .noSuchUnit
  else if (getStack s k).scrubH == 0 || (getStack s k).lost || stackTested s k then .next s
  else match scrubNext s k with
    | some key => .next (scrubBolt s k key corr bad)
    | none => .next (modStack s k (fun q => { q with scrubPos := 0, rowCorr := [] }))

/-- At a bell: does a group carry more than twice the mean (R276)? Its run grows, or ends. -/
def imbalBell (q : Stack) : Stack :=
  let total := (upto 0 4).foldl (fun n g => n + kvGet 0 q.intv g) 0
  let r := (upto 0 4).foldl (fun q g =>
    if total < 2 * kvGet 0 q.intv g then { q with imbalRun := kvSet 0 q.imbalRun g (kvGet 0 q.imbalRun g + 1) }
    else { q with imbalRun := kvSet 0 q.imbalRun g 0, dom := q.dom.filter (fun e => e.1 / 16 != g) }) q
  { r with intv := [] }

/-- The partition whose traffic dominated a group's run. -/
def dominant (q : Stack) (g : Nat) : Nat :=
  (upto 1 11).foldl (fun m n => if kvGet 0 q.dom (16 * g + m) < kvGet 0 q.dom (16 * g + n) then n else m) 0

/-- INTERLEAVE_IMBALANCE (R276): after a run of 16 intervals the Reeve gets the event that names the stack and the dominating
partition; it is telemetry and emits no record (R362). -/
def execInterleaveImbalance (k : Nat) (s : State) : Res :=
  if ¬ k < stackCount then .refused .noSuchUnit
  else match (upto 0 4).find? (fun g => 16 ≤ kvGet 0 (getStack s k).imbalRun g) with
    | none => .next s
    | some g =>
      let s1 := { s with reeve := { s.reeve with imbal := s.reeve.imbal ++ [(s.clk.bell, k, dominant (getStack s k) g)] } }
      .next (modStack s1 k (fun q => { q with
        imbal := setBit q.imbal (dominant q g), imbalRun := kvSet 0 q.imbalRun g 0
        dom := q.dom.filter (fun e => e.1 / 16 != g) }))

end Sys2Proof.Machine
end

