-- ==== Sys2Proof/Machine/Mill.lean ====
section
/-! DEFINITION. The mills: descriptors, unit layout and operations (spec/10_memory_and_mills.md R286 to R293,
spec/12_integrity.md R341, R347). A mill command works one group of R288, the next one that lies in its own stack; when
none is left it completes the descriptor. Readings of the mill rules: DEDUCED, assumption 27. -/

namespace Sys2Proof.Machine

/-! ## Descriptors and ranges (R287 to R289) -/

/-- Source or gradient format. -/
def mdSrc (d : List Byte) : Nat := fld d 1 1 % 16
/-- Result or working-copy format, 0 for none. -/
def mdDst (d : List Byte) : Nat := fld d 1 1 / 16
/-- Units of a range. -/
def mdCount (d : List Byte) : Nat := fld d 4 4
/-- Start bolt of range i. -/
def mdRange (d : List Byte) (i : Nat) : Nat := fld d (8 + 4 * i) 4
/-- Parameter i. -/
def mdP (d : List Byte) (i : Nat) : Word := BitVec.ofNat 32 (fld d (0x1C + 4 * i) 4)

/-- Is a format code one of Table 6.1 that Table 3.2 gives a mill: FP32, BF16, FP16, FP8 and MX (R87)? -/
def fmtListed (f : Nat) : Bool := (1 ≤ f && f ≤ 4) || f == 6 || (9 ≤ f && f ≤ 0xE)

/-- The element ranges of a descriptor: start and format, range 0 first (R289). -/
def elemRanges (d : List Byte) : List (Nat × Nat) :=
  let wc := fun (i : Nat) => if mdDst d == 0 then [] else [(mdRange d i, mdDst d)]
  match fld d 0 1 with
  | 1 => [(mdRange d 0, 6), (mdRange d 1, mdSrc d), (mdRange d 2, 6)] ++ wc 3
  | 2 => [(mdRange d 0, 6), (mdRange d 1, mdSrc d), (mdRange d 2, 6), (mdRange d 3, 6)] ++ wc 4
  | 3 => [(mdRange d 0, 6), (mdRange d 1, mdSrc d), (mdRange d 2, 6)] ++ wc 3
  | 0x10 => (mdRange d 0, if mdDst d == 0 then 6 else mdDst d) ::
      (upto 0 (fld d 0x1C 1)).map (fun k => (mdRange d 1 + k * slotSpan d, mdSrc d))
  | 0x30 => [(mdRange d 0, mdDst d), (mdRange d 1, mdSrc d)]
  | 0x31 => [(mdRange d 0, if mdDst d == 0 then 6 else mdDst d)]
  | _ => []

/-- Row size of a gather or scatter, in bytes. -/
def rowBytes (d : List Byte) : Nat := fld d 0x38 4

/-- Every range of a descriptor with its span in bolts (R287). -/
def allSpans (d : List Byte) : List (Nat × Nat) :=
  match fld d 0 1 with
  | 0x20 => [(mdRange d 0, (mdCount d * 1024 * rowBytes d + 4095) / 4096), (mdRange d 1, mdCount d), (mdRange d 2, 1)]
  | 0x21 => [(mdRange d 0, 1), (mdRange d 1, mdCount d)]
  | _ => (elemRanges d).map (fun r => (r.1, rangeSpan (mdCount d) (unitRho r.2)))

/-- Is an op of Table 10.4? -/
def millOpListed (op : Nat) : Bool :=
  op == 1 || op == 2 || op == 3 || op == 0x10 || op == 0x20 || op == 0x21 || op == 0x30 || op == 0x31

/-- A descriptor's rules when it is taken (R287, R288, Table 10.3). -/
def millDescOk (d : List Byte) : Bool :=
  let op := fld d 0 1
  let fl := fld d 3 1
  millOpListed op && fld d 2 1 ≤ 2 && fl < 8
  && (!bitAt fl 1 || op == 1) && (!bitAt fl 2 || op == 2)
  && 1 ≤ mdCount d && mdCount d ≤ 8388608
  && (!(op == 1 || op == 2 || op == 3 || op == 0x10 || op == 0x30) || fmtListed (mdSrc d))
  && (op != 0x30 || fmtListed (mdDst d)) && (mdDst d == 0 || fmtListed (mdDst d))
  && (op != 0x10 || 1 ≤ fld d 0x1C 1)
  && (!(op == 0x20 || op == 0x21) || (rowBytes d % 64 == 0 && 64 ≤ rowBytes d && rowBytes d ≤ 4096))
  && (allSpans d).all (fun r => r.1 % 65536 == mdRange d 0 % 65536 && r.1 + r.2 ≤ Config.shareBolts)

/-- The units per bolt that shape the groups (R288): the largest, or range 0's where one does not divide it. -/
def groupRho (d : List Byte) : Nat :=
  let rs := (elemRanges d).map (fun r => unitRho r.2)
  let m := rs.foldl max 1
  if rs.all (fun r => m % r == 0) then m else rs.headD 1

/-- How many groups a descriptor has. -/
def groupCount (d : List Byte) : Nat :=
  match fld d 0 1 with
  | 0x20 => (mdCount d * 1024 * rowBytes d + 4095) / 4096
  | 0x21 => mdCount d
  | _ => rangeSpan (mdCount d) (groupRho d)

/-- The units of group o, in rising order (R288). -/
def groupUnits (d : List Byte) (o : Nat) : List Nat :=
  let r := groupRho d
  ((upto 0 r).map (fun p => 65536 * (r * (o / 65536) + p) + o % 65536)).filter (fun f => f < mdCount d)

/-- Does a group lie in stack k? A scatter's spill bolts are read by every mill. -/
def groupIn (s : State) (k n : Nat) (d : List Byte) (o : Nat) : Bool :=
  fld d 0 1 == 0x21 || boltStack (getPart s n).seed.toNat (mdRange d 0 + o) == k

/-- The next group of the mill's own at or after its place; every aligned run of 32 bolts holds some (R273). -/
def nextGroup (s : State) (k n : Nat) (e : MillEnt) : Option Nat :=
  (upto e.group (min 96 (groupCount e.desc - e.group))).find? (groupIn s k n e.desc)

/-! ## Elements (R289, R113 to R115) -/

/-- Where unit F of a range lies: its bolt and its byte offset there. -/
def unitAt (r : Nat × Nat) (f : Nat) : Nat × Nat :=
  let rho := unitRho r.2
  (r.1 + 65536 * (f / (65536 * rho)) + f % 65536, f / 65536 % rho * unitBytes r.2)

/-- The 1,024 values of a unit's bytes. -/
def unitVals (fmt : Nat) (bs : List Byte) : List Fl :=
  if fulIsMx fmt then
    let mf := mxFmt fmt
    let w := fmtBits mf
    (upto 0 32).flatMap (fun b =>
      (mxUnpack w (slice bs (4 * w * b) (4 * w))).map (mxImport mf (fld bs (128 * w + b) 1)))
  else (elemsOf (fmtD fmt) bs 1024).map (flDecode (fmtD fmt))

/-- What converting a unit gives: its bytes, MX flushes and special blocks, and its first element that became a NaN. -/
structure UnitOut where
  bytes : List Byte
  flushed : Nat := 0
  special : Nat := 0
  nan : Option Nat := none
  deriving DecidableEq, Repr

/-- A unit's bytes from its values (R107 with scale 1.0, R115). -/
def unitPut (fmt : Nat) (rnd : Rnd) (sat : Bool) (vals : List Fl) : UnitOut :=
  if fulIsMx fmt then
    let mf := mxFmt fmt
    let w := fmtBits mf
    let bl := (upto 0 32).map (fun b => mxExport mf rnd ((vals.drop (32 * b)).take 32) [])
    { bytes := bl.flatMap (fun b => mxPack w b.elems) ++ bl.flatMap (fun b => toLe 1 b.scale)
      flushed := bl.foldl (fun n b => n + b.flushed) 0
      special := bl.foldl (fun n b => n + b2n b.special) 0 }
  else
    let cs := vals.map (convert (fmtD fmt) rnd sat 0)
    { bytes := bytesOf (fmtD fmt) (cs.map (fun c => c.bits)), nan := cs.findIdx? (fun c => c.produced) }

/-! ## Arithmetic (R290) -/

/-- A rounded result, and whether a NaN has been produced so far. -/
abbrev MVal := Fl × Bool

/-- Round one line of Table 10.4. -/
def mRound (rtz : Bool) (ops : List Fl) (x : Fl) (nan : Bool) : MVal := (ofFp32 (toFp32 rtz x), nan || madeNaN ops x)

/-- Fused multiply-add: one rounding. -/
def mFma (rtz : Bool) (a b c : Fl) (nan : Bool) : MVal := mRound rtz [a, b, c] (flAdd (flMul a b) c) nan
/-- Product. -/
def mMul (rtz : Bool) (a b : Fl) (nan : Bool) : MVal := mRound rtz [a, b] (flMul a b) nan
/-- Difference. -/
def mSub (rtz : Bool) (a b : Fl) (nan : Bool) : MVal := mRound rtz [a, b] (flAdd a (flNeg b)) nan
/-- Sum. -/
def mAdd (rtz : Bool) (a b : Fl) (nan : Bool) : MVal := mRound rtz [a, b] (flAdd a b) nan

/-- New values of one parameter: w, m, v, and whether a NaN was produced. -/
structure MElem where
  w : Fl
  m : Fl
  v : Fl
  nan : Bool
  deriving DecidableEq, Repr

/-- SGD with momentum. -/
def elemSgd (d : List Byte) (rtz : Bool) (w g m : Fl) : MElem :=
  let p := fun i => ofFp32 (mdP d i)
  let g1 := mMul rtz g (p 7) false
  let m1 := mFma rtz (p 1) m g1.1 g1.2
  let d1 := if bitAt (fld d 3 1) 1 then mFma rtz (p 1) m1.1 g1.1 m1.2 else m1
  let d2 := mFma rtz (p 4) w d1.1 d1.2
  let w1 := mFma rtz (flNeg (p 0)) d2.1 w d2.2
  ⟨w1.1, m1.1, .fin false 0 0, w1.2⟩

/-- Adam and AdamW. -/
def elemAdam (d : List Byte) (rtz : Bool) (w g m v : Fl) : MElem :=
  let p := fun i => ofFp32 (mdP d i)
  let l2 := bitAt (fld d 3 1) 2
  let g0 := mMul rtz g (p 7) false
  let g1 := if l2 then mFma rtz (p 4) w g0.1 g0.2 else g0
  let s1 := mSub rtz m g1.1 g1.2
  let m1 := mFma rtz (p 1) s1.1 g1.1 s1.2
  let gg := mMul rtz g1.1 g1.1 m1.2
  let s2 := mSub rtz v gg.1 gg.2
  let v1 := mFma rtz (p 2) s2.1 gg.1 s2.2
  let nu := mMul rtz m1.1 (p 5) v1.2
  let vc := mMul rtz v1.1 (p 6) nu.2
  let sq := mRound rtz [vc.1] (flSqrt vc.1) vc.2
  let de := mAdd rtz sq.1 (p 3) sq.2
  let u0 := mRound rtz [nu.1, de.1] (flDiv nu.1 de.1) de.2
  let u1 := if l2 then u0 else mFma rtz (p 4) w u0.1 u0.2
  let w1 := mFma rtz (flNeg (p 0)) u1.1 w u1.2
  ⟨w1.1, m1.1, v1.1, w1.2⟩

/-- sign of Lion: ±1.0, or +0 for ±0; a NaN stays. -/
def signOf (x : Fl) : Fl :=
  match x with
  | .nan => .nan
  | .inf s => .fin s 1 0
  | .fin s m _ => if m == 0 then .fin false 0 0 else .fin s 1 0

/-- Lion. -/
def elemLion (d : List Byte) (rtz : Bool) (w g m : Fl) : MElem :=
  let p := fun i => ofFp32 (mdP d i)
  let g1 := mMul rtz g (p 7) false
  let s1 := mSub rtz m g1.1 g1.2
  let c := mFma rtz (p 1) s1.1 g1.1 s1.2
  let u := mFma rtz (p 4) w (signOf c.1) c.2
  let w1 := mFma rtz (flNeg (p 0)) u.1 w u.2
  let s2 := mSub rtz m g1.1 w1.2
  let m1 := mFma rtz (p 2) s2.1 g1.1 s2.2
  ⟨w1.1, m1.1, .fin false 0 0, m1.2⟩

/-! ## A group at work -/

/-- The bolts a mill holds while it works a group: (bolt, bytes). -/
abbrev Bufs := Kv (List Byte)

/-- A mill at work on one group: the bolts written so far, and what it counts. `cause` is that of the first NaN produced (Table 3.6:
1 arithmetic, 2 conversion), 0 for none, and `conv` the first element that the unit at work has converted to a NaN. -/
structure GrpRun where
  bufs : Bufs := []
  nonfin : Nat := 0
  flushed : Nat := 0
  special : Nat := 0
  idx : Nat := 0
  cause : Nat := 0
  conv : Option Nat := none
  deriving DecidableEq, Repr

/-- A NaN has been produced: the first one's cause stays (R293). -/
def GrpRun.noteNan (g : GrpRun) (b : Bool) (cause : Nat) : GrpRun := if b && g.cause == 0 then { g with cause := cause } else g

/-- A unit is done: of its first element whose arithmetic made a NaN and its first whose conversion did, the earlier came first, and
in one element the arithmetic. -/
def GrpRun.unitDone (g : GrpRun) (arith : Option Nat) : GrpRun :=
  let g1 := match arith, g.conv with
    | some a, some c => g.noteNan true (if a ≤ c then 1 else 2)
    | some _, none => g.noteNan true 1
    | none, some _ => g.noteNan true 2
    | none, none => g
  { g1 with conv := none }

/-- Does a bolt lie in a mill's own stack? -/
def millOwn (s : State) (k n b : Nat) : Bool := boltStack (getPart s n).seed.toNat b == k

/-- What a mill has of a bolt it asked another stack for: none when not asked, empty while it waits (R277). -/
def fetchOf (s : State) (k n b : Nat) : Option MillFetch := kvGet none (getStack s k).fetched (boltKey n b)

/-- Is a bolt at hand: the mill's own, or fetched? -/
def atHand (s : State) (k n b : Nat) : Bool := millOwn s k n b || (fetchOf s k n b).any (fun f => !f.bytes.isEmpty)

/-- A bolt's bytes as a mill has them. -/
def millBytes (s : State) (k n b : Nat) : List Byte :=
  if millOwn s k n b then boltBytes s n b else ((fetchOf s k n b).getD {}).bytes

/-- The tally that came with a bolt as a mill has it. -/
def millTally (s : State) (k n b : Nat) : Nat := if millOwn s k n b then boltTally s n b else ((fetchOf s k n b).getD {}).tally

/-- The uncorrectable lines of a bolt as a mill has it. -/
def millBad (s : State) (k n b : Nat) : List Nat := if millOwn s k n b then (boltMeta s n b).bad else ((fetchOf s k n b).getD {}).bad

/-- Does a bolt at hand match the tally it was read with (R341)? -/
def millGood (s : State) (k n b : Nat) : Bool := crc32c (millBytes s k n b) == millTally s k n b

/-- A bolt as the group sees it: what it wrote, else memory. -/
def bufGet (s : State) (k n : Nat) (g : GrpRun) (b : Nat) : List Byte :=
  match kvGet [] g.bufs b with
  | [] => millBytes s k n b
  | bs => bs

/-- Values of a unit of a range. -/
def getVals (s : State) (k n : Nat) (g : GrpRun) (r : Nat × Nat) (f : Nat) : List Fl :=
  let a := unitAt r f
  unitVals r.2 (slice (bufGet s k n g a.1) a.2 (unitBytes r.2))

/-- Write a unit's values into its bolt. -/
def putVals (s : State) (k n : Nat) (rnd : Rnd) (sat : Bool) (r : Nat × Nat) (f : Nat) (vals : List Fl) (g : GrpRun) :
    GrpRun :=
  let a := unitAt r f
  let o := unitPut r.2 rnd sat vals
  { g with bufs := kvSet [] g.bufs a.1 (patch (bufGet s k n g a.1) a.2 o.bytes)
           flushed := g.flushed + o.flushed, special := g.special + o.special
           conv := match g.conv, o.nan with | some a, some c => some (min a c) | none, c => c | a, none => a }

/-- The rounding of a descriptor's arithmetic and conversions (R90): a context mode of SR is RNE in a mill. -/
def millRtz (d : List Byte) (modes : Word) : Bool :=
  match fld d 2 1 with | 1 => false | 2 => true | _ => arithRtz modes
/-- Its conversions. -/
def millRnd (d : List Byte) (modes : Word) : Rnd :=
  match descRnd modes (fld d 2 1) with | .sr => .rne | r => r

/-- One unit of an optimizer update. -/
def optUnit (s : State) (k n : Nat) (d : List Byte) (modes : Word) (g : GrpRun) (f : Nat) : GrpRun :=
  let rs := elemRanges d
  let rg := fun i => (rs.drop i).headD (0, 6)
  let op := fld d 0 1
  let w := getVals s k n g (rg 0) f
  let gr := getVals s k n g (rg 1) f
  let m := getVals s k n g (rg 2) f
  let v := if op == 2 then getVals s k n g (rg 3) f else []
  let rtz := millRtz d modes
  let grad := gr.map (fun x => ofFp32 (toFp32 false x))
  let es := (w.zip (grad.zip (m.zip (v ++ w)))).map (fun q =>
    match op with
    | 1 => elemSgd d rtz q.1 q.2.1 q.2.2.1
    | 2 => elemAdam d rtz q.1 q.2.1 q.2.2.1 q.2.2.2
    | _ => elemLion d rtz q.1 q.2.1 q.2.2.1)
  let put := putVals s k n (millRnd d modes) (fp8Sat modes)
  let g1 := { g with nonfin := g.nonfin + (gr.filter (fun x => !(flFinite x))).length }
  let g2 := put (rg 0) f (es.map (fun e => e.w)) g1
  let g3 := put (rg 2) f (es.map (fun e => e.m)) g2
  let g4 := if op == 2 then put (rg 3) f (es.map (fun e => e.v)) g3 else g3
  (if mdDst d == 0 then g4 else put (rg (if op == 2 then 4 else 3)) f (es.map (fun e => e.w)) g4).unitDone
    (es.findIdx? (fun e => e.nan))

/-- One unit of an ordered reduction: left to right, in slot order (R291). -/
def redUnit (s : State) (k n : Nat) (d : List Byte) (modes : Word) (g : GrpRun) (f : Nat) : GrpRun :=
  let rs := elemRanges d
  let t := rs.headD (0, 6)
  let start : List MVal := if bitAt (fld d 3 1) 0 then (getVals s k n g t f).map (fun x => (ofFp32 (toFp32 false x), false))
    else List.replicate 1024 (.fin false 0 0, false)
  let sums := (rs.drop 1).foldl (fun acc r =>
    (acc.zip (getVals s k n g r f)).map (fun q => mAdd (millRtz d modes) q.1.1 (ofFp32 (toFp32 false q.2)) q.1.2)) start
  (putVals s k n (millRnd d modes) (fp8Sat modes) t f (sums.map (fun v => v.1)) g).unitDone (sums.findIdx? (fun v => v.2))

/-- One unit of a copy and convert. -/
def copyUnit (s : State) (k n : Nat) (d : List Byte) (modes : Word) (g : GrpRun) (f : Nat) : GrpRun :=
  (putVals s k n (millRnd d modes) (fp8Sat modes) (mdRange d 0, mdDst d) f (getVals s k n g (mdRange d 1, mdSrc d) f) g).unitDone
    none

/-- One unit of a fill. -/
def fillUnit (s : State) (k n : Nat) (d : List Byte) (g : GrpRun) (f : Nat) : GrpRun :=
  let r := (elemRanges d).headD (0, 6)
  let a := unitAt r f
  let bs := (upto 0 (unitBytes r.2 / 4)).flatMap (fun _ => toLe 4 (mdP d 0).toNat)
  { g with bufs := kvSet [] g.bufs a.1 (patch (bufGet s k n g a.1) a.2 bs) }

/-- The index of a gathered row (R292). -/
def rowIndex (s : State) (k n : Nat) (d : List Byte) (row : Nat) : Int :=
  sInt 32 (fld (millBytes s k n (mdRange d 1 + row / 1024)) (4 * (row % 1024)) 4)

/-- Does an index lie in the table (R292)? -/
def rowInside (d : List Byte) (ix : Int) : Bool :=
  0 ≤ ix && 4096 * mdRange d 2 + (ix.toNat + 1) * rowBytes d ≤ 4096 * Config.shareBolts

/-- One 64 B piece of a gathered row (R292): its index, and the table's bytes or zeros. -/
def gatherPiece (s : State) (k n : Nat) (d : List Byte) (modes : Word) (o : Nat) (g : GrpRun) (i : Nat) : GrpRun :=
  let at0 := 4096 * o + 64 * i
  let row := at0 / rowBytes d
  if mdCount d * 1024 ≤ row then g
  else
    let ix := rowIndex s k n d row
    let off := at0 % rowBytes d
    let src := 4096 * mdRange d 2 + ix.toNat * rowBytes d + off
    let inside := rowInside d ix
    let bs := if inside then slice (millBytes s k n (src / 4096)) (src % 4096) 64 else zeros 64
    let b := mdRange d 0 + o
    let old := bufGet s k n g b
    let sums := (upto 0 16).map (fun j => mAdd (millRtz d modes) (ofFp32 (BitVec.ofNat 32 (fld old (64 * i + 4 * j) 4)))
      (ofFp32 (BitVec.ofNat 32 (fld bs (4 * j) 4))) false)
    let out := if bitAt (fld d 3 1) 0 then sums.flatMap (fun v => toLe 4 (toFp32 false v.1).toNat) else bs
    ({ g with bufs := kvSet [] g.bufs b (patch old (64 * i) out)
              idx := g.idx + (if !inside && off == 0 then 1 else 0) }).noteNan (bitAt (fld d 3 1) 0 && sums.any (fun v => v.2)) 1

/-- One record of a scatter-add (R292): its 32 values are added to its row, where the row's bolt is the mill's own. -/
def scatterRec (s : State) (k n : Nat) (d : List Byte) (modes : Word) (bolt : List Byte) (g : GrpRun) (j : Nat) : GrpRun :=
  let key := fld bolt (0xF80 + 4 * j) 3
  let at0 := 4096 * mdRange d 0 + key * rowBytes d
  let inside := at0 + rowBytes d ≤ 4096 * Config.shareBolts
  if !inside then
    { g with idx := g.idx + b2n (boltStack (getPart s n).seed.toNat (mdRange d 0) == k) }
  else (upto 0 32).foldl (fun g i =>
    let a := at0 + 4 * i
    if !(millOwn s k n (a / 4096)) || rowBytes d ≤ 4 * i then g
    else
      let old := bufGet s k n g (a / 4096)
      let x := mAdd (millRtz d modes) (ofFp32 (BitVec.ofNat 32 (fld old (a % 4096) 4)))
        (ofFp32 (BitVec.ofNat 32 (fld bolt (128 * j + 4 * i) 4))) false
      ({ g with bufs := kvSet [] g.bufs (a / 4096) (patch old (a % 4096) (toLe 4 (toFp32 false x.1).toNat)) }).noteNan x.2 1) g

/-- The bolts that hold a row of bytes. -/
def bytesBolts (a len : Nat) : List Nat := if len == 0 then [] else upto (a / 4096) ((a + len - 1) / 4096 - a / 4096 + 1)

/-- The bolts that hold a gathered row of the table; none for an index outside it (R292). -/
def rowBolts (s : State) (k n : Nat) (d : List Byte) (row : Nat) : List Nat :=
  let ix := rowIndex s k n d row
  if rowInside d ix then bytesBolts (4096 * mdRange d 2 + ix.toNat * rowBytes d) (rowBytes d) else []

/-- The rows that a gather's group writes. -/
def groupRows (d : List Byte) (o : Nat) : List Nat :=
  (((upto 0 64).map (fun i => (4096 * o + 64 * i) / rowBytes d)).filter (fun r => r < mdCount d * 1024)).eraseDups

/-- The records of a spill bolt: count and keys stand in its trailer (Table 5.6). -/
def recCount (bolt : List Byte) : Nat := min 31 (fld bolt 0xFFC 1)

/-- The mill's own bolts that hold the row of a scatter record; none for a key outside the tensor. -/
def recBolts (s : State) (k n : Nat) (d bolt : List Byte) (j : Nat) : List Nat :=
  let a := 4096 * mdRange d 0 + fld bolt (0xF80 + 4 * j) 3 * rowBytes d
  if a + rowBytes d ≤ 4096 * Config.shareBolts then (bytesBolts a (min 128 (rowBytes d))).filter (millOwn s k n) else []

/-- The ranges whose values a unit's results depend on (Table 10.4). -/
def srcRanges (d : List Byte) : List (Nat × Nat) :=
  let rs := elemRanges d
  match fld d 0 1 with
  | 2 => rs.take 4
  | 0x10 => if bitAt (fld d 3 1) 0 then rs else rs.drop 1
  | 0x30 => rs.drop 1
  | 0x31 => []
  | _ => rs.take 3

/-- The ranges that receive results. -/
def dstRanges (d : List Byte) : List (Nat × Nat) :=
  let rs := elemRanges d
  match fld d 0 1 with
  | 1 => rs.take 1 ++ rs.drop 2
  | 2 => rs.take 1 ++ rs.drop 2
  | 3 => rs.take 1 ++ rs.drop 2
  | _ => rs.take 1

/-- Bytes of [a, e) that the results of units cover in a bolt (R289). -/
def coverOf (d : List Byte) (us : List Nat) (b a e : Nat) : Nat :=
  us.foldl (fun n f => (dstRanges d).foldl (fun n r =>
    let u := unitAt r f
    if u.1 == b then n + (min e (u.2 + unitBytes r.2) - max a u.2) else n) n) 0

/-- The bolts a group reads: those its results depend on, and those it writes without replacing every byte. -/
def groupReads (s : State) (k n : Nat) (d : List Byte) (o : Nat) : List Nat :=
  (match fld d 0 1 with
  | 0x20 =>
    let rows := groupRows d o
    rows.map (fun r => mdRange d 1 + r / 1024) ++ rows.flatMap (rowBolts s k n d)
      ++ (if bitAt (fld d 3 1) 0 || mdCount d * 1024 * rowBytes d < 4096 * (o + 1) then [mdRange d 0 + o] else [])
  | 0x21 =>
    let bolt := millBytes s k n (mdRange d 1 + o)
    (mdRange d 1 + o) :: (upto 0 (recCount bolt)).flatMap (recBolts s k n d bolt)
  | _ =>
    let us := groupUnits d o
    us.flatMap (fun f => (srcRanges d).map (fun r => (unitAt r f).1))
      ++ (us.flatMap (fun f => (dstRanges d).map (fun r => (unitAt r f).1))).filter (fun b => coverOf d us b 0 4096 < 4096)).eraseDups

/-- The bolts a group must see before it knows what else it reads: an index list's, a spill bolt. -/
def groupFirst (d : List Byte) (o : Nat) : List Nat :=
  match fld d 0 1 with
  | 0x20 => ((groupRows d o).map (fun r => mdRange d 1 + r / 1024)).eraseDups
  | 0x21 => [mdRange d 1 + o]
  | _ => []

/-- The bolts a group still needs from other stacks: those of its first step, then the rest. -/
def groupNeeds (s : State) (k n : Nat) (d : List Byte) (o : Nat) : List Nat :=
  let first := (groupFirst d o).filter (fun b => !(atHand s k n b))
  if first.isEmpty then (groupReads s k n d o).filter (fun b => !(atHand s k n b)) else first

/-- Ask the owning stacks for bolts not asked for yet, over the spine in their remote class (R277, R287). -/
def fetchAsk (s : State) (k n : Nat) (bs : List Nat) : State :=
  (bs.filter (fun b => (fetchOf s k n b).isNone)).foldl (fun s b =>
    remotePut (fetchPut s k n b {}) { part := n, bolt := b, key := (getPart s n).key, data := [], mill := some k }) s

/-- Is a line of a bolt uncorrectable? -/
def lineLost (s : State) (k n b i : Nat) : Bool := (millBad s k n b).contains i

/-- Does an uncorrectable line lie in what a unit's results depend on (R296)? -/
def unitLost (s : State) (k n : Nat) (d : List Byte) (f : Nat) : Bool :=
  (srcRanges d).any (fun r =>
    let u := unitAt r f
    (millBad s k n u.1).any (fun i => 64 * i < u.2 + unitBytes r.2 && u.2 < 64 * i + 64))

/-- Does a bolt that a group would write depend on an uncorrectable line (R296)? For a gather it is the group's one bolt. -/
def boltLost (s : State) (k n : Nat) (d : List Byte) (o b : Nat) : Bool :=
  match fld d 0 1 with
  | 0x20 =>
    (upto 0 64).any (fun i =>
      let a := 4096 * o + 64 * i
      let row := a / rowBytes d
      let src := 4096 * mdRange d 2 + (rowIndex s k n d row).toNat * rowBytes d + a % rowBytes d
      let kept := mdCount d * 1024 ≤ row
      ((kept || bitAt (fld d 3 1) 0) && lineLost s k n b i)
      || (!kept && (lineLost s k n (mdRange d 1 + row / 1024) (row % 1024 / 16)
          || (rowInside d (rowIndex s k n d row) && lineLost s k n (src / 4096) (src % 4096 / 64)))))
  | 0x21 =>
    let sp := mdRange d 1 + o
    let bolt := millBytes s k n sp
    !((millBad s k n b).isEmpty) || lineLost s k n sp 62 || lineLost s k n sp 63
    || (upto 0 (recCount bolt)).any (fun j => (lineLost s k n sp (2 * j) || lineLost s k n sp (2 * j + 1))
        && (recBolts s k n d bolt j).contains b)
  | _ =>
    let us := groupUnits d o
    us.any (fun f => unitLost s k n d f && (dstRanges d).any (fun r => (unitAt r f).1 == b))
    || (millBad s k n b).any (fun i => coverOf d (us.filter (fun f => !(unitLost s k n d f))) b (64 * i) (64 * i + 64) < 64)

/-- Run one group; what depends on an uncorrectable line takes no part, and its bolts stay (R296). The modes are the partition's as they
stand when the group is run (R103; DESIGN CHOICE, assumption 56). -/
def groupRun (s : State) (k n : Nat) (d : List Byte) (o : Nat) : GrpRun :=
  let modes := (getPart s n).millMode
  let us := (groupUnits d o).filter (fun f => !(unitLost s k n d f))
  let bolt := millBytes s k n (mdRange d 1 + o)
  let g := match fld d 0 1 with
    | 0x10 => us.foldl (redUnit s k n d modes) {}
    | 0x20 => if boltLost s k n d o (mdRange d 0 + o) then {} else (upto 0 64).foldl (gatherPiece s k n d modes o) {}
    | 0x21 => (upto 0 (recCount bolt)).foldl (fun g j =>
        if (recBolts s k n d bolt j).any (boltLost s k n d o) then g else scatterRec s k n d modes bolt g j) {}
    | 0x30 => us.foldl (copyUnit s k n d modes) {}
    | 0x31 => us.foldl (fillUnit s k n d) {}
    | _ => us.foldl (optUnit s k n d modes) {}
  { g with bufs := g.bufs.filter (fun q => !(boltLost s k n d o q.1)) }

/-! ## Ends of a descriptor -/

/-- Fail the lot a mill descriptor names by its low 32 bits. -/
def failLot32 (s : State) (n lot code : Nat) : State :=
  modPart s n (fun p => { p with lots := p.lots.map (fun l =>
    if l.state != 2 && l.number % 2 ^ 32 == lot then { l with causes := l.causes ++ [(code, s.clk.bell, s.clk.intvCc)] } else l) })

/-- Fail the lot that owns a post (R287): the one a post of the Reeve names, or the one that runs on the tile's partition. -/
def failPost (s : State) (n : Nat) (e : MillEnt) (code : Nat) : State :=
  if e.src == 0xFFFF then failLot32 s n e.lot code else failLots s n code s.clk.bell s.clk.intvCc

/-- The number of the lot that owns a post. -/
def postLot (s : State) (n : Nat) (e : MillEnt) : Nat :=
  if e.src == 0xFFFF then
    ((((getPart s n).lots.find? (fun l => l.state != 2 && l.number % 2 ^ 32 == e.lot)).map (fun l => l.number)).getD e.lot)
  else curLot s n

/-- An event of a mill's work, which fails its lot. -/
def millFail (s : State) (n : Nat) (e : MillEnt) (ev : Event) : State :=
  failPost (sendEvent s { ev with lot := postLot s n e }) n e ev.compl

/-- Complete the running descriptor (R286, R283): the write completion goes to the tile, or the Reeve's lot has one less
to wait for. -/
def millComplete (s : State) (k n : Nat) (e : MillEnt) : State :=
  let s1 := modStack s k (fun q => { q with running := kvSet none q.running n none })
  if e.src == 0xFFFF then
    modPart s1 n (fun p => { p with lots := p.lots.map (fun l =>
      if l.number % 2 ^ 32 == e.lot then { l with mill := l.mill - 1 } else l) })
  else answer s1 k e.src [writeCompletion k e.key e.src e.tag (keyTable s)]

/-- The mill's first-NaN record of a partition (R293, Table 3.6). -/
def millNaN (s : State) (k n : Nat) (e : MillEnt) (cause : Nat) : State :=
  let trap := nanTrap (getPart s n).millMode
  if trap != 1 && trap != 2 then s
  else if (kvGet [] (getStack s k).nan n).isEmpty then
    let recd := toLe 1 6 ++ zeros 1 ++ toLe 1 cause ++ zeros 5 ++ toLe 8 (s.clk.bell % 2 ^ 48) ++ toLe 4 s.clk.intvCc
      ++ toLe 4 (unitId 2 k) ++ toLe 8 (postLot s n e)
    let s1 := modStack s k (fun q => { q with nan := kvSet [] q.nan n recd })
    if trap == 2 then failPost s1 n e 0x0015 else s1
  else modStack s k (fun q => { q with nanCount := kvSet 0 q.nanCount n (satAdd 16 (kvGet 0 q.nanCount n) 1) })

/-- Write the bolts of a group and count what it counted (R341, R293, R298). -/
def groupCommit (s : State) (k n : Nat) (e : MillEnt) (g : GrpRun) : State :=
  let s1 := g.bufs.foldl (fun s q => serve (boltPut s n q.1 q.2 (crc32c q.2)) k n q.1 64) s
  let s2 := modStack s1 k (fun q => { q with
    nonfin := satAdd 16 q.nonfin g.nonfin, idx := satAdd 16 q.idx g.idx
    mxSpecial := satAdd 16 q.mxSpecial g.special, mxUflow := satAdd 16 q.mxUflow g.flushed })
  if g.cause == 0 then s2 else millNaN s2 k n e g.cause

/-- Put the entry at its next place. -/
def millAt (s : State) (k n : Nat) (e : MillEnt) : State :=
  modStack s k (fun q => { q with running := kvSet none q.running n (some e) })

/-- The mill's turn goes to the next partition (R288). -/
def millTurned (s : State) (k n : Nat) : State := modStack s k (fun q => { q with turn := (n + 1) % 12 })

/-- Forget the bolts fetched for a partition. -/
def fetchDrop (s : State) (k n : Nat) : State :=
  modStack s k (fun q => { q with fetched := q.fetched.filter (fun e => e.1 / Config.shareBolts != n) })

/-- What has befallen bolts that are about to be read: (bolt, line) uncorrectable, or with 64 added to the line corrected (assumption
13). The stack in which the bolt lies counts the correction (R296). -/
def groupUpset (s : State) (n : Nat) (bad : List (Nat × Nat)) : State :=
  bad.foldl (fun s q =>
    if q.2 < 64 then boltUpset s n q.1 [q.2]
    else modStack s (boltStack (getPart s n).seed.toNat q.1) (fun q => { q with eccCor := (q.eccCor + 1) % 2 ^ 16 })) s

/-- The mill's own bolts of a group are read whole: their bytes count for the group, their bad lines in ML_ECC. -/
def groupServe (s : State) (k n : Nat) (reads : List Nat) : State :=
  (reads.filter (millOwn s k n)).foldl (fun s b => serve (modStack s k (fun q => { q with
    eccUnc := satAdd 16 q.eccUnc (boltMeta s n b).bad.length })) k n b 64) s

/-- The bolts of a group that uncorrectable lines have met fail the lot (R296). The mill reports its own, each once; one that lies in
another stack was reported there when it was fetched. -/
def groupReport (s : State) (k n : Nat) (e : MillEnt) (reads : List Nat) : State :=
  (reads.filter (fun b => !((millBad s k n b).isEmpty))).foldl (fun s b =>
    if millOwn s k n b then millFail s n e (boltEvent s k 0x0125 n b 0x0014) else failPost s n e 0x0014) s

/-- Does a descriptor work with the mill's FP32 multipliers, FMA units or adders (R347): every operation but copies, fills and a
gather that overwrites? -/
def usesFp32 (d : List Byte) : Bool :=
  match fld d 0 1 with
  | 0x20 => bitAt (fld d 3 1) 0
  | 0x30 => false
  | 0x31 => false
  | _ => true

/-- Work group o, with every bolt it needs at hand: what depends on an uncorrectable line stays unchanged (R296); a tally that
fails (R341), a residue mismatch (R347) and a trapped NaN (R293) end the descriptor. -/
def groupDo (s0 : State) (k n : Nat) (e : MillEnt) (o : Nat) (res : Bool) : State :=
  let reads := groupReads s0 k n e.desc o
  let s := groupReport (groupServe s0 k n reads) k n e reads
  let next := fun (s : State) => millAt s k n { e with group := o + 1, doneG := o :: e.doneG }
  match reads.find? (fun b => (millBad s k n b).isEmpty && !(millGood s k n b)) with
  | some b =>
    millComplete (millFail (modStack s k (fun q => { q with tlyRead := satAdd 8 q.tlyRead 1 })) n e
      (boltEvent s k 0x0113 n b 0x0012)) k n e
  | none =>
    if res && usesFp32 e.desc then
      millComplete (millFail (modStack s k (fun q => { q with resMism := satAdd 16 q.resMism 1 })) n e
        (boltEvent s k 0x0103 n (mdRange e.desc 0 + o) 0x0011)) k n e
    else
      let g := groupRun s k n e.desc o
      let s1 := groupCommit s k n e g
      if g.cause != 0 && nanTrap (getPart s n).millMode == 2 then millComplete s1 k n e else next s1

/-- One turn on a group: bolts that lie in other stacks are asked for first (R277), then the group is worked. `bad` befalls the bolts
that this turn has read, there or here. -/
def groupWork (s0 : State) (k n : Nat) (e : MillEnt) (o : Nat) (res : Bool) (bad : List (Nat × Nat)) : State :=
  let needs0 := groupNeeds s0 k n e.desc o
  let s := groupUpset s0 n (bad.filter (fun q => if needs0.isEmpty then millOwn s0 k n q.1 else needs0.contains q.1))
  let needs := groupNeeds s k n e.desc o
  if needs.isEmpty then fetchDrop (millTurned (groupDo s k n e o res) k n) k n
  else millTurned (fetchAsk s k n needs) k n

/-- MILL_DESCRIPTOR_TAKE (R287): the next descriptor of a partition's queue, checked. -/
def execMillDescriptorTake (k n : Nat) (s : State) : Res :=
  if ¬ (k < stackCount ∧ n < 12) then .refused .noSuchUnit
  else
    let q := getStack s k
    match kvGet none q.running n, kvGet [] q.queues n with
    | none, e :: rest =>
      let s1 := modStack s k (fun q => { q with queues := kvSet [] q.queues n rest, running := kvSet none q.running n (some e) })
      .next (if q.lost then s else if millDescOk e.desc then s1
        else millComplete (millFail s1 n e (stackEvent s1 k 0x0171 n 0xFF 0x0033)) k n e)
    | _, _ => .next s

/-! ## Ordered reduction (R291) -/

/-- Have all the slot bolts of group o arrived? -/
def slotsIn (e : MillEnt) (o : Nat) : Bool :=
  (upto 0 (fld e.desc 0x1C 1)).all (fun k => (groupUnits e.desc o).all (fun f =>
    e.arrived.contains (k * slotSpan e.desc + (unitAt (0, mdSrc e.desc) f).1)))

/-- The group that an arrived slot bolt belongs to, by its offset from the first slot (R288, R291). -/
def slotGroup (d : List Byte) (a : Nat) : Nat :=
  let b := a % max 1 (slotSpan d)
  65536 * (b / 65536 * unitRho (mdSrc d) / groupRho d) + b % 65536

/-- The groups of the mill's own that are ready and not done, found among the arrivals. -/
def readyGroup (s : State) (k n : Nat) (e : MillEnt) : Option Nat :=
  (e.arrived.map (slotGroup e.desc)).find? (fun o =>
    o < groupCount e.desc && !(e.doneG.contains o) && slotsIn e o
    && boltStack (getPart s n).seed.toNat (mdRange e.desc 0 + o) == k)

/-- How many groups of the descriptor lie in a stack: one in eight of every aligned run of 32 bolts, and those of the
parts at its ends (R273). -/
def ownGroups (s : State) (k n : Nat) (d : List Byte) : Nat :=
  let c := groupCount d
  let head := min c ((32 - mdRange d 0 % 32) % 32)
  let whole := (c - head) / 32
  whole * 4 + ((upto 0 head ++ upto (head + 32 * whole) ((c - head) % 32)).filter (fun o =>
    boltStack (getPart s n).seed.toNat (mdRange d 0 + o) == k)).length

/-- Can a mill go on with a partition's descriptor: a reduction whose slots are in or which is done, or another operation that
waits for no fetch? -/
def millReady (s : State) (k n : Nat) : Bool :=
  match kvGet none (getStack s k).running n with
  | none => false
  | some e =>
    if fld e.desc 0 1 == 0x10 then (readyGroup s k n e).isSome || ownGroups s k n e.desc ≤ e.doneG.length
    else match nextGroup s k n e with
      | none => true
      | some o =>
        let needs := groupNeeds s k n e.desc o
        needs.isEmpty || needs.any (fun b => (fetchOf s k n b).isNone)

/-- The partition whose descriptor the mill works on next, in the order 0 to 11, one bolt each in turn (R288). -/
def millTurn (s : State) (k : Nat) : Option Nat :=
  ((upto 0 12).map (fun i => ((getStack s k).turn + i) % 12)).find? (millReady s k)

/-- One command of a mill op: the next group of the running descriptor, or its end, when it is that partition's turn. -/
def millRun (op k n : Nat) (res : Bool) (bad : List (Nat × Nat)) (s : State) : Res :=
  if ¬ (k < stackCount ∧ n < 12) then .refused .noSuchUnit
  else match kvGet none (getStack s k).running n with
    | none => .next s
    | some e =>
      if fld e.desc 0 1 != op || (getStack s k).lost || (getPart s n).lost || millTurn s k != some n then .next s
      else match nextGroup s k n e with
        | none => .next (millTurned (millComplete s k n e) k n)
        | some o => .next (groupWork s k n e o res bad)

/-- MILL_SGD (R290). -/
def execMillSgd (k n : Nat) (res : Bool) (bad : List (Nat × Nat)) (s : State) : Res := millRun 1 k n res bad s
/-- MILL_ADAM (R290). -/
def execMillAdam (k n : Nat) (res : Bool) (bad : List (Nat × Nat)) (s : State) : Res := millRun 2 k n res bad s
/-- MILL_LION (R290). -/
def execMillLion (k n : Nat) (res : Bool) (bad : List (Nat × Nat)) (s : State) : Res := millRun 3 k n res bad s
/-- MILL_GATHER_ROWS (R292): only a gather that accumulates uses the adders that a residue finding `res` comes from (R347). -/
def execMillGatherRows (k n : Nat) (res : Bool) (bad : List (Nat × Nat)) (s : State) : Res := millRun 0x20 k n res bad s
/-- MILL_SCATTER_ADD (R292). -/
def execMillScatterAdd (k n : Nat) (res : Bool) (bad : List (Nat × Nat)) (s : State) : Res := millRun 0x21 k n res bad s
/-- MILL_COPY_CONVERT (R290). -/
def execMillCopyConvert (k n : Nat) (bad : List (Nat × Nat)) (s : State) : Res := millRun 0x30 k n false bad s
/-- MILL_FILL (R290). -/
def execMillFill (k n : Nat) (bad : List (Nat × Nat)) (s : State) : Res := millRun 0x31 k n false bad s

/-- MILL_ORDERED_REDUCTION (R291): a group whose slots are all in is summed; with every own group done it completes. -/
def execMillOrderedReduction (k n : Nat) (res : Bool) (bad : List (Nat × Nat)) (s : State) : Res :=
  if ¬ (k < stackCount ∧ n < 12) then .refused .noSuchUnit
  else match kvGet none (getStack s k).running n with
    | none => .next s
    | some e =>
      if fld e.desc 0 1 != 0x10 || (getStack s k).lost || (getPart s n).lost || millTurn s k != some n then .next s
      else match readyGroup s k n e with
        | some o => .next (groupWork s k n e o res bad)
        | none => .next (millTurned (millComplete s k n e) k n)

/-- A slot's arrival at one posted reduction. -/
def slotNote (b : Nat) (e : MillEnt) : MillEnt :=
  match slotOf e b with
  | some o => { e with arrived := e.arrived ++ [o] }
  | none => e

/-- REDUCTION_SLOT_ARRIVAL (R291): the oldest slot write is counted, and a target bolt whose slots are all in is summed
by the running reduction when it is its turn. -/
def execReductionSlotArrival (k : Nat) (res : Bool) (bad : List (Nat × Nat)) (s : State) : Res :=
  if ¬ k < stackCount then .refused .noSuchUnit
  else match (getStack s k).slotQ with
    | [] => .next s
    | (n, b) :: rest =>
      let s1 := modStack s k (fun q => { q with
        slotQ := rest
        running := kvSet none q.running n ((kvGet none q.running n).map (slotNote b))
        queues := kvSet [] q.queues n (((kvGet [] q.queues n).take 64).map (slotNote b) ++ (kvGet [] q.queues n).drop 64) })
      match kvGet none (getStack s1 k).running n with
      | none => .next s1
      | some e =>
        if fld e.desc 0 1 != 0x10 || (getPart s n).lost || millTurn s1 k != some n then .next s1
        else match readyGroup s1 k n e with
          | some o => .next (groupWork s1 k n e o res bad)
          | none => .next s1

end Sys2Proof.Machine
end

