-- ==== Sys2Proof/Machine/Csr.lean ====
section
/-! DEFINITION. The tile's control and status registers: their values, what a read takes and what a write does
(spec/20_address_map_and_registers.md Tables 20.10 and 20.11, each register's own chapter, spec/08_clerk.md Table 8.1,
spec/00_scope.md R12 to R15). -/

namespace Sys2Proof.Machine

/-! ## Register words -/

/-- Word k of a record of bytes. -/
def recWord (bs : List Byte) (k : Nat) : Nat := fld bs (4 * k) 4

/-- Two 16-bit counters in one register. -/
def pair16 (hi lo : Nat) : Nat := hi * 65536 + lo

/-- mstatus (Table 8.1). -/
def mstatusOf (c : Clerk) : Nat := 0x1800 + 8 * b2n c.mie3 + 128 * b2n c.mpie

/-- Does a channel that TL_QIRQ names hold an entry (R225)? -/
def chanPending (t : Tile) : Bool := (upto 0 8).any (fun n => bitAt t.clerk.qirq n && !(chan t n).isEmpty)

/-- mip: causes 16, 17 and 18 (Table 8.4). -/
def mipOf (t : Tile) : Nat :=
  65536 * b2n t.clerk.wakePend + 131072 * b2n t.clerk.bellPend + 262144 * b2n (chanPending t)

/-- Core clock cycles since the role was installed (R213); 0 where none is, for the clerk is held at reset there (R217). -/
def mcycleOf (s : State) (t : Tile) : Nat := if t.installed then (s.clk.cycles - t.clerk.mcycle0) % 2 ^ 64 else 0

/-- TL_CLK_STATUS (Table 8.8). -/
def clkStatusOf (c : Clerk) : Nat :=
  2 ^ 31 * b2n c.inTrap + 2 ^ 30 * b2n c.resv.isSome + 1024 * b2n c.bellPend + 512 * b2n c.sendFail
  + 256 * b2n c.wakePend

/-- Code of a tile state (Table 2.6). -/
def tileCode : TileSt → Nat
  | .idle => 0 | .loading => 1 | .joining => 2 | .active => 3 | .switching => 4 | .halted => 5 | .pinfold => 6

/-- TL_PAT_STATUS (Table 2.12). -/
def patStatusOf (t : Tile) : Nat :=
  let ready := (upto 0 4).foldl (fun m k =>
    match kvGet .empty t.banks k with
    | .ready => m + 2 ^ k
    | .active => m + 2 ^ k
    | _ => m) 0
  2 ^ 24 * t.loadErr + 2 ^ 20 * ready + 65536 * t.nextBank + 4096 * t.actBank + tileCode t.st

/-- The loom width a tile presents (Table 4.10). -/
def widthOf (t : Tile) : Nat := if t.st == .pinfold then 0 else loomWidth t.loom

/-- TL_LOOM_STATUS (Table 4.10). -/
def loomStatusOf (t : Tile) (cc : Nat) : Nat :=
  let check := if !t.installed then 2 else if checkOn t then 0 else 1
  let drains := fun (f : Fired) => f.unit == 0 && !(isScatter f) && fld f.desc 0xE 2 != 0
  let draining := hasFired t drains || cc < kvGet 0 t.busy 27
  2 ^ 31 * b2n t.loom.chkValid + 2 ^ 29 * check + 65536 * widthOf t + 256 * t.loom.setB.tag + 16 * t.loom.setA.tag
  + 8 * b2n t.loom.activeB + 4 * b2n draining
  + 2 * b2n (hasFired t (fun f => f.unit == 1) || cc < kvGet 0 t.busy 1)
  + b2n (hasFired t (fun f => f.unit == 0 && fld f.desc 2 1 != 2) || cc < kvGet 0 t.busy 26)

/-- TL_FUL_STATUS (Table 6.13). -/
def fulStatusOf (t : Tile) (cc : Nat) : Nat :=
  2 ^ 31 * b2n t.fuller.resValid + 4 * b2n (redPending t || cc < kvGet 0 t.busy 24)
  + 2 * b2n (t.lastOut != 0 && cc ≤ t.lastOut) + b2n (hasFired t (fun f => f.unit == 5) || cc < kvGet 0 t.busy 3)

/-- TL_ST_STATUS (Table 7.7). -/
def stStatusOf (t : Tile) (cc : Nat) : Nat :=
  2 ^ 31 * b2n t.store.ueValid + 65536 * t.store.wbq.length + 4096 * finLines t + 16 * t.store.gbuf.length + cc % 16

/-- Valid granary slots. -/
def granOcc (q : Sparse) : Nat := (q.gran.filter (fun e => e.2.isSome)).length

/-- TL_SCAT_STATUS (Table 5.11). -/
def scatStatusOf (t : Tile) (cc : Nat) : Nat :=
  2 ^ 31 * b2n t.sparse.ovrValid + 2 ^ 28 * t.sparse.ovrCause + 4096 * granOcc t.sparse
  + 4 * b2n (t.dma.jobs.any (fun j => j.spill) || cc < kvGet 0 t.busy 22)
  + 2 * b2n (hasFired t (fun f => f.unit == 5) || cc < kvGet 0 t.busy 25)
  + b2n (hasFired t (fun f => isScatter f || f.unit == 6) || cc < kvGet 0 t.busy 20 || cc < kvGet 0 t.busy 21
      || spillOut t 20 || spillOut t 21)

/-- The occupancy of four channels from the n-th (Table 8.7). -/
def qcntOf (t : Tile) (n : Nat) : Nat :=
  (upto 0 4).foldl (fun m k => m + 256 ^ k * (chan t (n + k)).length) 0

/-- Word k of the head of a channel, 0 when it is empty. -/
def headWord (t : Tile) (n k : Nat) : Nat := ((chan t n).head?.map (fun e => recWord e.bytes k)).getD 0

/-- The selected router port. -/
def rtPort (t : Tile) : RtPort := kvGet {} t.router.ports t.router.sel

/-- TL_RT_HWM (Table 9.10). -/
def rtHwm (q : RtPort) : Nat := 2 ^ 24 * q.waitMax + 256 * q.vc2 + 16 * q.vc1 + q.vc0

/-- TL_RT_BAR (Table 9.11). -/
def rtBarOf (r : Router) : Nat :=
  256 * r.flags + (upto 0 8).foldl (fun m k => if (kvGet none r.bar k).isSome then m + 2 ^ k else m) 0

/-- TL_DMA_STATUS (Table 10.5). -/
def dmaStatusOf (d : Dma) : Nat := 2 ^ 21 * b2n d.merged + 4096 * d.queue.length + d.tags.length

/-- Code of a tally-table state. -/
def tallyCode : TallySt → Nat
  | .stale => 0 | .filling => 1 | .valid => 2 | .mismatched => 3

/-- TL_TLY_STATUS (Table 12.10). -/
def tlyStatusOf (y : Tally) : Nat :=
  2 ^ 31 * b2n y.recValid + 65536 * y.trackers.length + (y.ents.filter (fun e => e.2.st == .mismatched)).length

/-- TL_TLY_ENT (Table 12.10). -/
def tlyEntOf (t : Tile) : Nat :=
  let halves := ((t.tally.trackers.find? (fun k => k.bolt == t.tally.sel)).map (fun k => k.halves.length)).getD 0
  2 ^ 30 * tallyCode (tallyEnt t t.tally.sel).st + halves

/-- TL_RT_COORD (Table 9.8). -/
def rtCoordOf (r : Router) : Nat := 2 ^ 24 * r.row + 65536 * r.col + r.part

/-- TL_HW_STATUS (Table 13.5). -/
def hwStatusOf (h : HwSt) : Nat := 2 ^ 29 * h.role + 2 ^ 27 * h.result + 2 ^ 26 * b2n h.partialRes + h.ageS

/-- TL_DBG_CTL (Table 18.2). -/
def dbgCtlOf (d : DbgSt) : Nat :=
  2 ^ 31 * b2n d.loose + 2 ^ 30 * b2n d.halted + 2 ^ 28 * d.cause + b2n d.ebreakHalt

/-- The machine range 0x7C0 to 0x7C7 (Table 20.10). -/
def csrMachine (t : Tile) (c : Nat) : Option Nat :=
  match c with
  | 0x7C0 => some (256 * t.loom.failB + t.loom.failA)
  | 0x7C1 => some t.store.scrubIntv
  | 0x7C2 => some (rtCoordOf t.router)
  | 0x7C3 => some (pair16 t.router.prev t.router.key)
  | 0x7C4 => some (hwStatusOf t.hw)
  | 0x7C5 => some t.dbg.bp0.toNat
  | 0x7C6 => some t.dbg.bp1.toNat
  | 0x7C7 => some (dbgCtlOf t.dbg)
  | _ => none

/-- The counters and units of 0x810 to 0x839. -/
def csrUnits (t : Tile) (c : Nat) : Option Nat :=
  if 0x810 ≤ c && c ≤ 0x817 then some (kvGet 0 t.num.amax (c - 0x810)).toNat
  else match c with
    | 0x818 => some t.num.mxUflow
    | 0x819 => some t.num.mxSpecial
    | 0x81A => some t.num.ovr.toNat
    | 0x820 => some t.loom.mism
    | 0x821 => some t.loom.skip
    | 0x822 => some t.loom.gated
    | 0x823 => some (pair16 t.loom.accUnc t.loom.accCor)
    | 0x824 => some t.sparse.nnz
    | 0x825 => some t.sparse.elem
    | 0x826 => some t.sparse.defer
    | 0x827 => some (pair16 t.sparse.spillMem t.sparse.spillStore)
    | 0x828 => some t.sparse.stall
    | 0x830 => some t.fuller.len
    | 0x831 => some t.fuller.res0.toNat
    | 0x832 => some t.fuller.res1.toNat
    | 0x833 => some t.fuller.resMism
    | 0x838 => some (pair16 t.store.eccUnc t.store.eccCor)
    | 0x839 => some (pair16 t.store.wrRef t.store.cellRef)
    | _ => none

/-- The clerk's registers of 0x840 to 0x896 (Tables 8.7 to 8.10); a read that would wait gives 0. -/
def csrClerk (t : Tile) (c : Nat) : Option Nat :=
  let k := t.clerk
  if 0x840 ≤ c && c ≤ 0x84F then some (headWord t (c % 8) 0)
  else if 0x860 ≤ c && c ≤ 0x86F then some (headWord t k.qsel (c - 0x860))
  else if 0x870 ≤ c && c ≤ 0x87F then some (kvGet 0 k.sbuf (c - 0x870)).toNat
  else if 0x880 ≤ c && c ≤ 0x887 then some (kvGet 0 k.dpLoc (c - 0x880)).toNat
  else if 0x888 ≤ c && c ≤ 0x88F then some (kvGet 0 k.dpVal (c - 0x888)).toNat
  else match c with
    | 0x850 => some k.qsel
    | 0x851 => some 0
    | 0x852 => some k.qirq
    | 0x853 => some (b2n k.hold)
    | 0x854 => some k.bellSeen.toNat
    | 0x855 => some t.seq.flags
    | 0x856 => some (clkStatusOf k)
    | 0x857 => some (pair16 k.wakeLost k.wakeStep)
    | 0x858 => some k.imSrc.toNat
    | 0x859 => some 0
    | 0x85A => some (pair16 k.eccUnc k.eccCor)
    | 0x85B => some (pair16 k.eccUnc k.eccCor)
    | 0x85C => some 0
    | 0x890 => some (kvGet 0 k.lpStart 0).toNat
    | 0x891 => some (kvGet 0 k.lpEnd 0).toNat
    | 0x892 => some (kvGet 0 k.lpCount 0).toNat
    | 0x893 => some (kvGet 0 k.lpStart 1).toNat
    | 0x894 => some (kvGet 0 k.lpEnd 1).toNat
    | 0x895 => some (kvGet 0 k.lpCount 1).toNat
    | 0x896 => some k.lpStatus
    | _ => none

/-- The router, DMA and tally registers of 0x897 to 0x8BF. -/
def csrFabric (t : Tile) (c : Nat) : Option Nat :=
  if 0x8A8 ≤ c && c ≤ 0x8AF then some (kvGet 0 t.dma.done (c - 0x8A8))
  else if 0x8B8 ≤ c && c ≤ 0x8BF then some (recWord t.tally.recd (c - 0x8B8))
  else match c with
    | 0x897 => some t.router.sel
    | 0x898 => some (rtPort t).pkt
    | 0x899 => some ((rtPort t).byte % 2 ^ 32)
    | 0x89A => some ((rtPort t).byte / 2 ^ 32 % 65536)
    | 0x89C => some (rtHwm (rtPort t))
    | 0x89D => some (65536 * t.router.dropKey + 256 * t.router.dropStale + t.router.dropUe)
    | 0x89E => some t.router.corr
    | 0x89F => some (rtBarOf t.router)
    | 0x8A0 => some (dmaStatusOf t.dma)
    | 0x8B0 => some (tlyStatusOf t.tally)
    | 0x8B1 => some (pair16 t.tally.mismIn t.tally.mismOut)
    | 0x8B2 => some (pair16 t.tally.staleCnt t.tally.formed)
    | 0x8B3 => some t.tally.sel
    | 0x8B4 => some (tlyEntOf t)
    | 0x8B5 => some (tallyEnt t t.tally.sel).tally.toNat
    | 0x8B6 => some (t.tally.digest % 2 ^ 32)
    | 0x8B7 => some (t.tally.digest / 2 ^ 32 % 2 ^ 32)
    | _ => none

/-- The user read-only range 0xCC0 to 0xCFF (Table 20.11). -/
def csrUser (s : State) (p : Nat) (c : Nat) : Option Nat :=
  let t := getTile s p
  let n := physPart p
  let cc := ctxCc s n
  if 0xCC8 ≤ c && c ≤ 0xCCF then some (recWord t.num.nanRec (c - 0xCC8))
  else if 0xCD0 ≤ c && c ≤ 0xCD9 then csrUnits t (c - 0xCD0 + 0x810)
  else if 0xCDB ≤ c && c ≤ 0xCDE then some (recWord t.fuller.resRec (c - 0xCDB))
  else if 0xCE1 ≤ c && c ≤ 0xCE4 then csrUnits t (c - 0xCE1 + 0x820)
  else if 0xCE8 ≤ c && c ≤ 0xCEF then some (recWord t.loom.chkRec (c - 0xCE8))
  else if 0xCF0 ≤ c && c ≤ 0xCF4 then csrUnits t (c - 0xCF0 + 0x824)
  else if 0xCFC ≤ c && c ≤ 0xCFF then some (recWord t.sparse.ovrRec (c - 0xCFC))
  else match c with
    | 0xCC0 => some (ctxBell s n % 2 ^ 32)
    | 0xCC1 => some (ctxBell s n / 2 ^ 32 % 65536)
    | 0xCC2 => some (min (2 ^ 32 - 1) cc)
    | 0xCC3 => some (patStatusOf t)
    | 0xCC4 => some t.num.mode.toNat
    | 0xCC5 => some t.fuller.resMism
    | 0xCC6 => some (fulStatusOf t cc)
    | 0xCC7 => some (2 ^ 31 * b2n t.num.nanValid + 2 ^ 30 * b2n t.num.nanStopped + t.num.nanCount)
    | 0xCDA => some 0x00010820
    | 0xCDF => some 0x10400200
    | 0xCE0 => some (loomStatusOf t cc)
    | 0xCE5 => csrUnits t 0x838
    | 0xCE6 => some (stStatusOf t cc)
    | 0xCE7 => csrUnits t 0x839
    | 0xCF5 => some (2 ^ 28 * t.store.uePort + 64 * t.store.ueLine)
    | 0xCF6 => some t.store.ueBell
    | 0xCF7 => csrFabric t 0x8B1
    | 0xCF8 => some (scatStatusOf t cc)
    | 0xCF9 => some (qcntOf t 0)
    | 0xCFA => some (qcntOf t 4)
    | 0xCFB => csrFabric t 0x8B2
    | _ => none

/-- The standard registers (Table 8.1). -/
def csrStd (s : State) (p c : Nat) : Option Nat :=
  let t := getTile s p
  let k := t.clerk
  match c with
  | 0x300 => some (mstatusOf k)
  | 0x301 => some 0x40801104
  | 0x304 => some k.mie.toNat
  | 0x305 => some k.mtvec.toNat
  | 0x340 => some k.mscratch.toNat
  | 0x341 => some k.mepc.toNat
  | 0x342 => some k.mcause.toNat
  | 0x343 => some k.mtval.toNat
  | 0x344 => some (mipOf t)
  | 0xB00 => some (mcycleOf s t % 2 ^ 32)
  | 0xC00 => some (mcycleOf s t % 2 ^ 32)
  | 0xB80 => some (mcycleOf s t / 2 ^ 32)
  | 0xC80 => some (mcycleOf s t / 2 ^ 32)
  | 0xB02 => some (k.minstret % 2 ^ 32)
  | 0xC02 => some (k.minstret % 2 ^ 32)
  | 0xB82 => some (k.minstret / 2 ^ 32 % 2 ^ 32)
  | 0xC82 => some (k.minstret / 2 ^ 32 % 2 ^ 32)
  | 0xF11 => some 0
  | 0xF12 => some 0
  | 0xF13 => some 1
  | 0xF14 => some (logD s p)
  | _ => none

/-- The value of a custom register, side effects and waits left out (R15, R481); none for an unassigned number. -/
def csrCustom (s : State) (p c : Nat) : Option Nat :=
  let t := getTile s p
  if c < 0x7C0 then none
  else if c < 0x800 then csrMachine t c
  else if c < 0x840 then csrUnits t c
  else if c < 0x897 then csrClerk t c
  else if c == 0x89B then some (stallNow s p t.router.sel)
  else if c < 0x8C0 then csrFabric t c
  else if 0xCC0 ≤ c && c < 0xD00 then csrUser s p c
  else none

/-- The value of any register the clerk can name. -/
def csrPeek (s : State) (p c : Nat) : Option Nat :=
  match csrCustom s p c with
  | some v => some v
  | none => csrStd s p c

/-! ## What a read takes (R12) -/

/-- Is a register a counter that its read clears, of those with the row COUNTER_READ_CLEAR? -/
def csrIsCounter (c : Nat) : Bool :=
  c == 0x818 || c == 0x819 || (0x820 ≤ c && c ≤ 0x828) || c == 0x833 || c == 0x838 || c == 0x839 || c == 0x85A
  || c == 0x8B1 || c == 0x8B2

/-- Clear a counter (the RC code). -/
def counterClear (t : Tile) (c : Nat) : Tile :=
  match c with
  | 0x818 => { t with num := { t.num with mxUflow := 0 } }
  | 0x819 => { t with num := { t.num with mxSpecial := 0 } }
  | 0x820 => { t with loom := { t.loom with mism := 0 } }
  | 0x821 => { t with loom := { t.loom with skip := 0 } }
  | 0x822 => { t with loom := { t.loom with gated := 0 } }
  | 0x823 => { t with loom := { t.loom with accUnc := 0, accCor := 0 } }
  | 0x824 => { t with sparse := { t.sparse with nnz := 0 } }
  | 0x825 => { t with sparse := { t.sparse with elem := 0 } }
  | 0x826 => { t with sparse := { t.sparse with defer := 0 } }
  | 0x827 => { t with sparse := { t.sparse with spillMem := 0, spillStore := 0 } }
  | 0x828 => { t with sparse := { t.sparse with stall := 0 } }
  | 0x833 => { t with fuller := { t.fuller with resMism := 0 } }
  | 0x838 => { t with store := { t.store with eccUnc := 0, eccCor := 0 } }
  | 0x839 => { t with store := { t.store with wrRef := 0, cellRef := 0 } }
  | 0x85A => { t with clerk := { t.clerk with eccUnc := 0, eccCor := 0 } }
  | 0x8B1 => { t with tally := { t.tally with mismIn := 0, mismOut := 0 } }
  | 0x8B2 => { t with tally := { t.tally with staleCnt := 0, formed := 0 } }
  | _ => t

/-- What a read of a register takes: a clear of an RC field, or the pop of a channel with its credit (R221). -/
def csrTake (s : State) (p c : Nat) : State :=
  if 0x840 ≤ c && c ≤ 0x847 then popChan s p (c - 0x840) (ctxCc s (physPart p))
  else if 0x810 ≤ c && c ≤ 0x817 then
    modTile s p (fun t => { t with num := { t.num with amax := kvSet 0 t.num.amax (c - 0x810) 0 } })
  else if csrIsCounter c then modTile s p (fun t => counterClear t c)
  else s

/-! ## Writes (R12, R14, R216) -/

/-- Is every field of a register RO or PK (R528)? misa ignores writes instead (R212). -/
def csrReadOnly (c : Nat) : Bool :=
  c == 0x344 || 0xB00 ≤ c || (0x7C0 ≤ c && c < 0x800) || (0x848 ≤ c && c ≤ 0x84F) || c == 0x857 || c == 0x85B
  || (0x860 ≤ c && c ≤ 0x86F) || (0x898 ≤ c && c ≤ 0x8B0) || (0x8B4 ≤ c && c ≤ 0x8BF)

/-- The codes of Table 8.4 that mcause holds. -/
def mcauseCodes : List Nat :=
  [1, 2, 3, 4, 5, 6, 7, 11, 24, 25, 0x80000010, 0x80000011, 0x80000012]

/-- A write to a standard register. -/
def stdPut (c v : Nat) (k : Clerk) : Clerk :=
  match c with
  | 0x300 => { k with mie3 := bitAt v 3, mpie := bitAt v 7 }
  | 0x304 => { k with mie := BitVec.ofNat 32 (65536 * bits v 18 16) }
  | 0x305 => { k with mtvec := BitVec.ofNat 32 v }
  | 0x340 => { k with mscratch := BitVec.ofNat 32 v }
  | 0x341 => { k with mepc := BitVec.ofNat 32 (v / 2 * 2) }
  | 0x342 => { k with mcause := BitVec.ofNat 32 v }
  | 0x343 => { k with mtval := BitVec.ofNat 32 v }
  | _ => k

/-- Set a word of a register bank. -/
def bankPut (m : Kv Word) (k v : Nat) : Kv Word := kvSet 0 m k (BitVec.ofNat 32 v)

/-- A write to a clerk register of 0x850 to 0x896 that acts on the clerk alone. -/
def clerkPut (c v : Nat) (k : Clerk) : Clerk :=
  if 0x870 ≤ c && c ≤ 0x87F then { k with sbuf := bankPut k.sbuf (c - 0x870) v }
  else if 0x880 ≤ c && c ≤ 0x887 then
    { k with dpLoc := bankPut k.dpLoc (c - 0x880) (2 ^ 31 * bits v 31 31 + bits v 9 0) }
  else if 0x888 ≤ c && c ≤ 0x88F then { k with dpVal := bankPut k.dpVal (c - 0x888) v }
  else match c with
    | 0x850 => { k with qsel := bits v 2 0 }
    | 0x852 => { k with qirq := bits v 7 0 }
    | 0x853 => { k with hold := bitAt v 0 }
    | 0x854 => { k with bellSeen := BitVec.ofNat 32 v }
    | 0x856 => { k with
        bellPend := k.bellPend && !(bitAt v 10)
        sendFail := k.sendFail && !(bitAt v 9)
        wakePend := k.wakePend && !(bitAt v 8)
        wakeLost := if bitAt v 8 then 0 else k.wakeLost }
    | 0x858 => { k with imSrc := BitVec.ofNat 32 v }
    | 0x890 => { k with lpStart := bankPut k.lpStart 0 (v / 2 * 2) }
    | 0x891 => { k with lpEnd := bankPut k.lpEnd 0 (v / 2 * 2) }
    | 0x892 => { k with lpCount := bankPut k.lpCount 0 v }
    | 0x893 => { k with lpStart := bankPut k.lpStart 1 (v / 2 * 2) }
    | 0x894 => { k with lpEnd := bankPut k.lpEnd 1 (v / 2 * 2) }
    | 0x895 => { k with lpCount := bankPut k.lpCount 1 v }
    | 0x896 => { k with lpStatus := bits v 3 0 }
    | _ => k

/-- May TL_NUM_OVR hold a value (R102, Table 3.5, R14)? -/
def numOvrOk (v : Nat) : Bool := bits v 1 0 != 3 && bits v 9 8 != 3

/-- Does a write carry an encoding that its register does not list (R14)? -/
def csrBad (c v : Nat) : Bool :=
  (c == 0x81A && !(numOvrOk v)) || (c == 0x897 && 5 ≤ bits v 2 0) || (c == 0x305 && bitAt v 1)
  || (c == 0x342 && !(mcauseCodes.contains v)) || (c == 0x858 && v % 64 != 0)

/-- A write to any register that has no wait and no fault of its own (R216); one that R14 discards changes nothing and is
reported. -/
def csrPut (s : State) (p c v : Nat) : State :=
  if csrBad c v then badWrite s p
  else modTile s p (fun t =>
    if c == 0x81A then { t with num := { t.num with ovr := BitVec.ofNat 32 (Nat.land v 0xF337) } }
    else if c == 0x830 then { t with fuller := { t.fuller with len := bits v 19 0 } }
    else if c == 0x831 then { t with fuller := { t.fuller with res0 := BitVec.ofNat 32 v } }
    else if c == 0x832 then { t with fuller := { t.fuller with res1 := BitVec.ofNat 32 v } }
    else if c == 0x855 then { t with seq := { t.seq with flags := Nat.lor t.seq.flags (bits v 7 0) } }
    else if c == 0x897 then { t with router := rtSelWrite v t.router }
    else if c == 0x8B3 then { t with tally := { t.tally with sel := bits v 6 0 } }
    else if 0x300 ≤ c && c < 0x400 then { t with clerk := stdPut c v t.clerk }
    else { t with clerk := clerkPut c v t.clerk })

/-! ## Sends and fills (R219, R223) -/

/-- The bytes of TL_SBUF0 to TL_SBUF15. -/
def sbufBytes (k : Clerk) : List Byte := (upto 0 16).flatMap (fun i => toLe 4 (kvGet 0 k.sbuf i).toNat)

/-- A TL_QSEND write: none when it waits for a credit (R223). -/
def qsendPut (s : State) (p v : Nat) : Option State :=
  let t := getTile s p
  let k := bits v 3 0
  if 0 < credits t k then some (sendEntry s p k (sbufBytes t.clerk))
  else if bitAt v 8 then some (modTile s p (fun t => { t with clerk := { t.clerk with sendFail := true } }))
  else none

/-- Write bytes into instruction memory; whole words become good (R220). -/
def imWrite (k : Clerk) (a : Nat) (bs : List Byte) : Clerk :=
  { k with
    im := memWrite k.im a bs
    imBad := k.imBad.filter (fun w => !(a ≤ 4 * w.1 && 4 * w.1 + 4 ≤ a + bs.length)) }

/-- Bytes of a range of instruction memory. -/
def imBytes : Nat := 65536

/-- May a TL_IM_FILL write act (R14, R219, Table 8.10)? -/
def imFillOk (k : Clerk) (v : Nat) : Bool :=
  let n := bits v 31 16
  let o := bits v 15 0
  1 ≤ n && n ≤ 1024 && o % 64 == 0 && o + 64 * n ≤ imBytes && k.imSrc.toNat + 64 * n ≤ Config.storeBytes

/-- Copy lines of the store into instruction memory through clerk cells. -/
def imCopy (src dst cc : Nat) (n : Nat) (c : Ctx) : Ctx :=
  (upto 0 n).foldl (fun c i =>
    let k := clerkCc c (lineBank (src + 64 * i)) cc
    let r := lineRead c 9 k (src + 64 * i)
    ctxTile (setBusy r.2 30 (k + 1)) (fun t => touchTile (imLines (dst + 64 * i) 64) { t with clerk := imWrite t.clerk (dst + 64 * i) r.1 })) c

/-- What the fetch buffer still holds of the bytes from an address, n of them (R219). -/
def staleHold (k : Clerk) (a n : Nat) : Kv Nat :=
  (upto 0 n).foldl (fun m i => kvSet 0 m (a + i) (1 + (memByte k.im (a + i)).toNat)) []

/-- A TL_IM_FILL write: the fill, and a free choice of up to 8 bytes that the fetch buffer keeps from before it. -/
def imFillPut (s : State) (p v next : Nat) : State :=
  let t := getTile s p
  if !(imFillOk t.clerk v) then badWrite s p
  else
    let keep := staleHold t.clerk next (Config.freeValue s.fresh % 9)
    let cc := ctxCc s (physPart p)
    let c := imCopy t.clerk.imSrc.toNat (bits v 15 0) cc (bits v 31 16) (ctxOf s p)
    modTile (applyCtx { s with fresh := s.fresh + 1 } c) p (fun t => { t with clerk := { t.clerk with stale := keep } })

end Sys2Proof.Machine
end

