-- ==== Sys2Proof/Machine/Clerk.lean ====
section
/-! DEFINITION. The clerk: its instruction decoder, what each instruction does, loops and traps
(spec/08_clerk.md). A row of the table runs the instruction at pc when that instruction is of the row's kind. Small points of
the clerk: DESIGN CHOICE, assumption 24. -/

namespace Sys2Proof.Machine

/-- An instruction of the clerk (R212). `n` is 0 to 9 for add, sub, sll, slt, sltu, xor, srl, sra, or, and. -/
inductive CIns where
  | lui (rd imm : Nat)
  | auipc (rd imm : Nat)
  | jal (rd : Nat) (off : Int)
  | jalr (rd rs1 : Nat) (off : Int)
  | branch (f3 rs1 rs2 : Nat) (off : Int)
  | load (f3 rd rs1 : Nat) (off : Int)
  | store (f3 rs1 rs2 : Nat) (off : Int)
  | aluI (op rd rs1 : Nat) (imm : Int)
  | alu (op rd rs1 rs2 : Nat)
  | mul (f3 rd rs1 rs2 : Nat)
  | fence | fenceI | ecall | ebreak | wfi | mret
  | csr (f3 rd src num : Nat)
  | lr (rd rs1 : Nat)
  | sc (rd rs1 rs2 : Nat)
  | rep (lv rs1 len : Nat)
  | repi (lv cnt len : Nat)
  | quit (lv : Nat)
  | bellWait (rd : Nat)
  | illegal
  deriving DecidableEq, Repr

/-! ## Decoding -/

/-- The two's-complement value of w bits. -/
def sext (w n : Nat) : Int := if 2 ^ (w - 1) ≤ n then (n : Int) - 2 ^ w else n

/-- The immediate of an S-type word. -/
def immS (w : Nat) : Int := sext 12 (32 * bits w 31 25 + bits w 11 7)
/-- The immediate of a B-type word. -/
def immB (w : Nat) : Int :=
  sext 13 (4096 * bits w 31 31 + 2048 * bits w 7 7 + 32 * bits w 30 25 + 2 * bits w 11 8)
/-- The immediate of a J-type word. -/
def immJ (w : Nat) : Int :=
  sext 21 (1048576 * bits w 31 31 + 4096 * bits w 19 12 + 2048 * bits w 20 20 + 2 * bits w 30 21)

/-- OP-IMM. -/
def decOpImm (w : Nat) : CIns :=
  let rd := bits w 11 7
  let rs1 := bits w 19 15
  let i := sext 12 (bits w 31 20)
  let sh := (bits w 24 20 : Int)
  match bits w 14 12 with
  | 0 => .aluI 0 rd rs1 i
  | 1 => if bits w 31 25 == 0 then .aluI 2 rd rs1 sh else .illegal
  | 2 => .aluI 3 rd rs1 i
  | 3 => .aluI 4 rd rs1 i
  | 4 => .aluI 5 rd rs1 i
  | 5 => if bits w 31 25 == 0 then .aluI 6 rd rs1 sh else if bits w 31 25 == 32 then .aluI 7 rd rs1 sh else .illegal
  | 6 => .aluI 8 rd rs1 i
  | _ => .aluI 9 rd rs1 i

/-- OP, the M extension included. -/
def decOp (w : Nat) : CIns :=
  let rd := bits w 11 7
  let a := bits w 19 15
  let b := bits w 24 20
  let f := bits w 14 12
  match bits w 31 25 with
  | 1 => .mul f rd a b
  | 0 => .alu (match f with | 0 => 0 | 1 => 2 | 2 => 3 | 3 => 4 | 4 => 5 | 5 => 6 | 6 => 8 | _ => 9) rd a b
  | 32 => if f == 0 then .alu 1 rd a b else if f == 5 then .alu 7 rd a b else .illegal
  | _ => .illegal

/-- SYSTEM. -/
def decSystem (w : Nat) : CIns :=
  let f := bits w 14 12
  if f == 0 then
    (match w with
     | 0x00000073 => .ecall
     | 0x00100073 => .ebreak
     | 0x30200073 => .mret
     | 0x10500073 => .wfi
     | _ => .illegal)
  else if f == 4 then .illegal
  else .csr f (bits w 11 7) (bits w 19 15) (bits w 31 20)

/-- LR.W and SC.W; the aq and rl bits are accepted (R238). -/
def decAmo (w : Nat) : CIns :=
  if bits w 14 12 != 2 then .illegal
  else if bits w 31 27 == 2 && bits w 24 20 == 0 then .lr (bits w 11 7) (bits w 19 15)
  else if bits w 31 27 == 3 then .sc (bits w 11 7) (bits w 19 15) (bits w 24 20)
  else .illegal

/-- The custom-1 opcode (Table 8.3). -/
def decCustom (w : Nat) : CIns :=
  let lv := bits w 11 7
  match bits w 14 12 with
  | 1 => if lv ≤ 1 then .rep lv (bits w 19 15) (bits w 31 20) else .illegal
  | 2 => if lv ≤ 1 then .repi lv (bits w 19 15) (bits w 31 20) else .illegal
  | 3 => if lv ≤ 1 && bits w 31 15 == 0 then .quit lv else .illegal
  | 4 => if bits w 31 15 == 0 then .bellWait lv else .illegal
  | _ => .illegal

/-- A 32-bit instruction. -/
def dec32 (w : Nat) : CIns :=
  let rd := bits w 11 7
  let rs1 := bits w 19 15
  let f := bits w 14 12
  match bits w 6 0 with
  | 0x37 => .lui rd (4096 * bits w 31 12)
  | 0x17 => .auipc rd (4096 * bits w 31 12)
  | 0x6F => .jal rd (immJ w)
  | 0x67 => if f == 0 then .jalr rd rs1 (sext 12 (bits w 31 20)) else .illegal
  | 0x63 => if f == 2 || f == 3 then .illegal else .branch f rs1 (bits w 24 20) (immB w)
  | 0x03 => if f == 3 || 6 ≤ f then .illegal else .load f rd rs1 (sext 12 (bits w 31 20))
  | 0x23 => if 3 ≤ f then .illegal else .store f rs1 (bits w 24 20) (immS w)
  | 0x13 => decOpImm w
  | 0x33 => decOp w
  | 0x0F => if f == 0 then .fence else if f == 1 then .fenceI else .illegal
  | 0x73 => decSystem w
  | 0x2F => decAmo w
  | 0x2B => decCustom w
  | _ => .illegal

/-- Quadrant 0 of the C extension. -/
def dec16a (h : Nat) : CIns :=
  let rd := 8 + bits h 4 2
  let rs1 := 8 + bits h 9 7
  let off := (64 * bits h 5 5 + 8 * bits h 12 10 + 4 * bits h 6 6 : Int)
  match bits h 15 13 with
  | 0 =>
    let imm := 64 * bits h 10 7 + 16 * bits h 12 11 + 8 * bits h 5 5 + 4 * bits h 6 6
    if imm == 0 then .illegal else .aluI 0 rd 2 imm
  | 2 => .load 2 rd rs1 off
  | 6 => .store 2 rs1 rd off
  | _ => .illegal

/-- The arithmetic group of quadrant 1. -/
def dec16arith (h : Nat) : CIns :=
  let rd := 8 + bits h 9 7
  let rs2 := 8 + bits h 4 2
  match bits h 11 10 with
  | 0 => if bitAt h 12 then .illegal else .aluI 6 rd rd (bits h 6 2)
  | 1 => if bitAt h 12 then .illegal else .aluI 7 rd rd (bits h 6 2)
  | 2 => .aluI 9 rd rd (sext 6 (32 * bits h 12 12 + bits h 6 2))
  | _ => if bitAt h 12 then .illegal
    else .alu (match bits h 6 5 with | 0 => 1 | 1 => 5 | 2 => 8 | _ => 9) rd rd rs2

/-- Quadrant 1 of the C extension. -/
def dec16b (h : Nat) : CIns :=
  let rd := bits h 11 7
  let imm := sext 6 (32 * bits h 12 12 + bits h 6 2)
  let jo := sext 12 (2048 * bits h 12 12 + 1024 * bits h 8 8 + 256 * bits h 10 9 + 128 * bits h 6 6 + 64 * bits h 7 7
    + 32 * bits h 2 2 + 16 * bits h 11 11 + 2 * bits h 5 3)
  let bo := sext 9 (256 * bits h 12 12 + 64 * bits h 6 5 + 32 * bits h 2 2 + 8 * bits h 11 10 + 2 * bits h 4 3)
  match bits h 15 13 with
  | 0 => .aluI 0 rd rd imm
  | 1 => .jal 1 jo
  | 2 => .aluI 0 rd 0 imm
  | 3 =>
    if rd == 2 then
      let a := sext 10 (512 * bits h 12 12 + 128 * bits h 4 3 + 64 * bits h 5 5 + 32 * bits h 2 2 + 16 * bits h 6 6)
      if a == 0 then .illegal else .aluI 0 2 2 a
    else if imm == 0 then .illegal
    else .lui rd (((imm * 4096) % 2 ^ 32).toNat)
  | 4 => dec16arith h
  | 5 => .jal 0 jo
  | 6 => .branch 0 (8 + bits h 9 7) 0 bo
  | _ => .branch 1 (8 + bits h 9 7) 0 bo

/-- Quadrant 2 of the C extension. -/
def dec16c (h : Nat) : CIns :=
  let rd := bits h 11 7
  let rs2 := bits h 6 2
  match bits h 15 13 with
  | 0 => if bitAt h 12 then .illegal else .aluI 2 rd rd rs2
  | 2 => if rd == 0 then .illegal else .load 2 rd 2 (64 * bits h 3 2 + 32 * bits h 12 12 + 4 * bits h 6 4)
  | 4 =>
    if bitAt h 12 then
      (if rs2 != 0 then .alu 0 rd rd rs2 else if rd == 0 then .ebreak else .jalr 1 rd 0)
    else if rs2 != 0 then .alu 0 rd 0 rs2
    else if rd == 0 then .illegal else .jalr 0 rd 0
  | 6 => .store 2 2 rs2 (64 * bits h 8 7 + 4 * bits h 12 9)
  | _ => .illegal

/-- A 16-bit instruction. -/
def dec16 (h : Nat) : CIns :=
  match bits h 1 0 with
  | 0 => dec16a h
  | 1 => dec16b h
  | 2 => dec16c h
  | _ => .illegal

/-! ## Fetch (R214, R219, R220) -/

/-- A fetched instruction: its bits, its length, and the tile with its corrected fetches counted. -/
structure Fetched where
  word : Nat
  len : Nat
  ins : CIns
  deriving DecidableEq, Repr

/-- A byte of the instruction stream: what the fetch buffer still holds, or instruction memory. -/
def fetchByte (k : Clerk) (a : Nat) : Nat :=
  match kvGet 0 k.stale a with
  | 0 => (memByte k.im a).toNat
  | n + 1 => n

/-- Two bytes of the instruction stream. -/
def fetchHalf (k : Clerk) (a : Nat) : Nat := fetchByte k a + 256 * fetchByte k (a + 1)

/-- The failing bits of the word that holds an address. -/
def imBadAt (k : Clerk) (a : Nat) : Nat := kvGet 0 k.imBad (a / 4)

/-- The parcels of the instruction at pc: the first faulting address, or the instruction. -/
def fetch (k : Clerk) : Nat ⊕ Fetched :=
  let a := k.pc.toNat
  if imBytes ≤ a then .inl a
  else if 2 ≤ imBadAt k a then .inl a
  else
    let h := fetchHalf k a
    if h % 4 != 3 then .inr ⟨h, 2, dec16 h⟩
    else if imBytes ≤ a + 2 || 2 ≤ imBadAt k (a + 2) then .inl (a + 2)
    else
      let w := h + 65536 * fetchHalf k (a + 2)
      .inr ⟨w, 4, dec32 w⟩

/-- Count the single-bit errors corrected in a fetch. -/
def fetchCount (k : Clerk) (n : Nat) : Clerk :=
  let a := k.pc.toNat
  let words := if n == 4 && a % 4 == 2 then [a / 4, a / 4 + 1] else [a / 4]
  { k with eccCor := satAdd 16 k.eccCor (words.filter (fun w => kvGet 0 k.imBad w == 1)).length }

/-! ## Registers and arithmetic -/

/-- Register x; x0 is zero. -/
def xGet (k : Clerk) (r : Nat) : Word := if r == 0 then 0 else kvGet 0 k.x r

/-- Write register x; writes to x0 are discarded. -/
def xSet (k : Clerk) (r : Nat) (v : Word) : Clerk := if r == 0 then k else { k with x := kvSet 0 k.x r v }

/-- An ALU operation. -/
def aluOp (op : Nat) (a b : Word) : Word :=
  let sh := b.toNat % 32
  match op with
  | 0 => a + b
  | 1 => a - b
  | 2 => a <<< sh
  | 3 => if a.slt b then 1 else 0
  | 4 => if a.ult b then 1 else 0
  | 5 => a ^^^ b
  | 6 => a >>> sh
  | 7 => a.sshiftRight sh
  | 8 => a ||| b
  | _ => a &&& b

/-- An operation of the M extension. -/
def mulOp (f3 : Nat) (a b : Word) : Word :=
  match f3 with
  | 0 => a * b
  | 1 => BitVec.ofInt 32 (a.toInt * b.toInt / 2 ^ 32)
  | 2 => BitVec.ofInt 32 (a.toInt * b.toNat / 2 ^ 32)
  | 3 => BitVec.ofNat 32 (a.toNat * b.toNat / 2 ^ 32)
  | 4 => if b = 0 then 0xFFFFFFFF else BitVec.ofInt 32 (a.toInt.tdiv b.toInt)
  | 5 => if b = 0 then 0xFFFFFFFF else BitVec.ofNat 32 (a.toNat / b.toNat)
  | 6 => if b = 0 then a else BitVec.ofInt 32 (a.toInt.tmod b.toInt)
  | _ => if b = 0 then a else BitVec.ofNat 32 (a.toNat % b.toNat)

/-- Is a branch taken? -/
def branchTaken (f3 : Nat) (a b : Word) : Bool :=
  match f3 with
  | 0 => a == b
  | 1 => a != b
  | 4 => a.slt b
  | 5 => !(a.slt b)
  | 6 => a.ult b
  | _ => !(a.ult b)

/-- Address of an access. -/
def eaOf (k : Clerk) (rs1 : Nat) (off : Int) : Nat := (xGet k rs1 + BitVec.ofInt 32 off).toNat

/-- Bytes of a load or store by funct3. -/
def accBytes (f3 : Nat) : Nat := match f3 % 4 with | 0 => 1 | 1 => 2 | _ => 4

/-- The register value of loaded bytes. -/
def loadValue (f3 : Nat) (bs : List Byte) : Word :=
  let n := leNat bs
  match f3 with
  | 0 => BitVec.ofInt 32 (sext 8 n)
  | 1 => BitVec.ofInt 32 (sext 16 n)
  | _ => BitVec.ofNat 32 n

/-! ## Gather buffer (R201) -/

/-- Bytes of a range as the clerk sees them: a store line with its pending bytes merged. -/
def gatherMerge (q : Store) (line : Nat) (bs : List Byte) : List Byte :=
  match q.gbuf.find? (fun e => e.line == line) with
  | none => bs
  | some e => e.bytes.foldl (fun m b => m.set b.1 b.2) bs

/-- A clerk read of n bytes in one line, ready at `cc`: in the clerk's next cell of the bank (R198). -/
def clerkRead (c : Ctx) (cc a n : Nat) : List Byte × Ctx :=
  let k := clerkCc c (lineBank a) cc
  let r := lineRead c 9 k (a / 64 * 64)
  ((gatherMerge c.t.store (a / 64) r.1).drop (a % 64) |>.take n, setBusy r.2 30 (k + 1))

/-- Put bytes into an entry. -/
def gentPut (e : GEnt) (off : Nat) (bs : List Byte) : GEnt :=
  { e with bytes := bs.zipIdx.foldl (fun m b => kvIns m (off + b.2) b.1) e.bytes }

/-- A clerk store into the gather buffer: a fifth line drains the oldest entry, and a full entry drains. -/
def gatherStore (cc a : Nat) (bs : List Byte) (c : Ctx) : Ctx :=
  let line := a / 64
  let c1 := if c.t.store.gbuf.any (fun e => e.line == line) then c
    else ctxTile (if 4 ≤ c.t.store.gbuf.length then gatherDrain cc c else c)
      (fun t => storeMod t (fun q => { q with gbuf := q.gbuf ++ [⟨line, []⟩] }))
  let c2 := ctxTile c1 (fun t => storeMod t (fun q => { q with
    gbuf := q.gbuf.map (fun e => if e.line == line then gentPut e (a % 64) bs else e) }))
  match c2.t.store.gbuf.find? (fun e => e.line == line && e.bytes.length == 64) with
  | some e => gatherWrite cc (gatherDrop line c2) e
  | none => c2

/-- Drain the entry of one line (R238). -/
def gatherDrainLine (cc line : Nat) (c : Ctx) : Ctx :=
  match c.t.store.gbuf.find? (fun e => e.line == line) with
  | some e => gatherWrite cc (gatherDrop line c) e
  | none => c

/-! ## Loops (R226 to R229) -/

/-- Is a level active? -/
def lpAct (k : Clerk) (lv : Nat) : Bool := bitAt k.lpStatus lv

/-- Run the test of a level that ends at `next`: whether it branched back, and the clerk. -/
def lpTest (k : Clerk) (lv : Nat) : Bool × Clerk :=
  let n := kvGet 0 k.lpCount lv - 1
  let k1 := { k with lpCount := kvSet 0 k.lpCount lv n }
  if n = 0 then (false, { k1 with lpStatus := clrBit k1.lpStatus lv, pc := kvGet 0 k1.lpEnd lv })
  else (true, { k1 with pc := kvGet 0 k1.lpStart lv })

/-- The loop-end tests of an instruction that ends at `next` without transferring control (R228): level 1 first, and
level 0 only when level 1 does not branch back. -/
def lpEndTests (k : Clerk) (due : Nat → Bool) : Clerk :=
  let r := if due 1 then lpTest k 1 else (false, k)
  if r.1 then r.2 else if due 0 then (lpTest r.2 0).2 else r.2

/-- Does an active level end at an address? -/
def lpEnds (k : Clerk) (next : Nat) (lv : Nat) : Bool := lpAct k lv && (kvGet 0 k.lpEnd lv).toNat == next

/-- Does an instruction overlap the end of an active level (R228)? -/
def lpOverlap (k : Clerk) (a n : Nat) : Bool :=
  (upto 0 2).any (fun lv => lpAct k lv && a < (kvGet 0 k.lpEnd lv).toNat && (kvGet 0 k.lpEnd lv).toNat < a + n)

/-- May a level be armed with a body (R227)? -/
def lpArmOk (k : Clerk) (lv len : Nat) : Bool :=
  let st := k.pc.toNat + 4
  let en := st + 2 * len
  len != 0 && (lv == 0 || !(lpAct k 0) ||
    ((kvGet 0 k.lpStart 0).toNat ≤ st && st < (kvGet 0 k.lpEnd 0).toNat && en ≤ (kvGet 0 k.lpEnd 0).toNat))

/-- Arm a level (R226): the clerk, and where it goes when the count is zero. -/
def lpArm (k : Clerk) (lv len : Nat) (count : Word) : Clerk × Option Nat :=
  let st := k.pc + 4
  let en := st + BitVec.ofNat 32 (2 * len)
  let status := if lv == 0 then clrBit k.lpStatus 1 else k.lpStatus
  let k1 := { k with
    lpStart := kvSet 0 k.lpStart lv st
    lpEnd := kvSet 0 k.lpEnd lv en
    lpCount := kvSet 0 k.lpCount lv count
    lpStatus := if count = 0 then clrBit status lv else setBit status lv }
  (k1, if count = 0 then some en.toNat else none)

/-- End a level early (R226, R227). -/
def lpQuit (k : Clerk) (lv : Nat) : Clerk :=
  if !(lpAct k lv) then k
  else if lv == 0 then { k with lpStatus := 0 }
  else { k with lpStatus := clrBit (clrBit k.lpStatus 1) 3 }

/-! ## Retirement and traps -/

/-- Change the clerk of a tile. -/
def modClerk (s : State) (p : Nat) (f : Clerk → Clerk) : State :=
  modTile s p (fun t => { t with clerk := f t.clerk })

/-- Retire an instruction of `len` bytes that leaves the clerk as it stands: it counts, and the next pc follows, by the
loop-end tests or by the transfer it made. -/
def retire (s : State) (p : Nat) (i : Fetched) (rd : Nat) (go : Option Nat) : State :=
  let k0 := (getTile s p).clerk
  let a := k0.pc.toNat
  let s1 := modClerk s p (fun k =>
    let k1 := { fetchCount k i.len with minstret := k.minstret + 1, moved := s.clk.cycles }
    match go with
    | some t => { k1 with pc := BitVec.ofNat 32 t }
    | none => lpEndTests { k1 with pc := k1.pc + BitVec.ofNat 32 i.len } (lpEnds k1 (a + i.len)))
  traceRetire s1 p a i.word (xGet (getTile s1 p).clerk rd).toNat

/-- A clerk fault (R237): the clerk and the tile stop, the context's lots fail, and the Reeve learns of it. -/
def clerkFault (s : State) (p : Nat) (info : List Byte) : State :=
  let cc := ctxCc s (physPart p)
  let s1 := modClerk s p (fun k => { k with run := .stopped })
  let c := ctxSig (ctxSig (ctxSig (ctxOf s1 p) (.stop .clerkFault cc)) (.event 0x0154 cc 0 info)) (.fail 0x0024 cc)
  applyCtx s1 c

/-- Trap entry (R236): `pend` says whether R229's owed tests are recorded. -/
def trapEnter (k : Clerk) (cause epc tval : Nat) (len : Nat) : Clerk :=
  let owed := fun lv => len != 0 && lpEnds k (epc + len) lv
  let base := k.mtvec.toNat / 4 * 4
  let vect := k.mtvec.toNat % 4 == 1 && 2 ^ 31 ≤ cause
  { k with
    mepc := BitVec.ofNat 32 epc
    mcause := BitVec.ofNat 32 cause
    mtval := BitVec.ofNat 32 tval
    mpie := k.mie3
    mie3 := false
    inTrap := true
    resv := none
    lpStatus := if 2 ^ 31 ≤ cause then k.lpStatus
      else (upto 0 2).foldl (fun m lv => if owed lv then setBit m (2 + lv) else m) k.lpStatus
    pc := BitVec.ofNat 32 (if vect then base + 4 * (cause % 2 ^ 31) else base) }

/-- A synchronous exception (R235 to R237). -/
def takeExc (s : State) (p : Nat) (cause tval len : Nat) : State :=
  let k := (getTile s p).clerk
  if k.inTrap then clerkFault s p (toLe 4 cause ++ toLe 4 k.pc.toNat ++ toLe 4 tval)
  else modClerk s p (fun k => trapEnter k cause k.pc.toNat tval len)

/-- The interrupt the clerk would take now (R235). -/
def pendingIrq (t : Tile) : Option Nat :=
  let k := t.clerk
  if !k.mie3 || k.inTrap then none
  else
    let on := fun i => bitAt (mipOf t) i && bitAt k.mie.toNat i
    if on 17 then some 0x80000011 else if on 16 then some 0x80000010 else if on 18 then some 0x80000012 else none

/-! ## Kinds and exceptions -/

/-- The rows a clerk instruction can belong to. -/
inductive CKind where
  | base | load | store | rep | repi | quit | bell | lr | sc | fence | fenceI | wfi | mret
  | qpop | qw | qsend | imFill | seqFlags | bellHold | clkStatus | clkFail | amax | counter | rtSel | csrWrite
  deriving DecidableEq, Repr

/-- Does a CSR instruction read (csrrw to x0 does not)? -/
def csrReads (f3 rd : Nat) : Bool := !(f3 % 4 == 1 && rd == 0)

/-- Does it write (csrrs and csrrc of x0 do not)? -/
def csrWrites (f3 src : Nat) : Bool := f3 % 4 == 1 || src != 0

/-- The row of a CSR instruction. -/
def csrKind (f3 rd src c : Nat) : CKind :=
  if csrWrites f3 src && c == 0x851 then .qsend
  else if csrWrites f3 src && c == 0x859 then .imFill
  else if csrWrites f3 src && c == 0x855 then .seqFlags
  else if csrWrites f3 src && c == 0x853 then .bellHold
  else if csrWrites f3 src && c == 0x856 then .clkStatus
  else if csrWrites f3 src && c == 0x85C then .clkFail
  else if csrWrites f3 src && c == 0x897 then .rtSel
  else if csrReads f3 rd && 0x840 ≤ c && c ≤ 0x847 then .qpop
  else if csrReads f3 rd && 0x860 ≤ c && c ≤ 0x86F then .qw
  else if csrReads f3 rd && 0x810 ≤ c && c ≤ 0x817 then .amax
  else if csrReads f3 rd && csrIsCounter c then .counter
  else if csrWrites f3 src then .csrWrite
  else .base

/-- The row of an instruction. -/
def kindOf : CIns → CKind
  | .load _ _ _ _ => .load
  | .store _ _ _ _ => .store
  | .rep _ _ _ => .rep
  | .repi _ _ _ => .repi
  | .quit _ => .quit
  | .bellWait _ => .bell
  | .lr _ _ => .lr
  | .sc _ _ _ => .sc
  | .fence => .fence
  | .fenceI => .fenceI
  | .wfi => .wfi
  | .mret => .mret
  | .csr f3 rd src c => csrKind f3 rd src c
  | _ => .base

/-- Is a CSR access legal (R213, R528)? -/
def csrLegal (s : State) (p f3 src c : Nat) : Bool :=
  (csrPeek s p c).isSome && !(csrWrites f3 src && csrReadOnly c)

/-- The value a CSR instruction writes. -/
def csrNew (f3 : Nat) (old src : Nat) : Nat :=
  match f3 % 4 with
  | 1 => src
  | 2 => Nat.lor old src
  | _ => Nat.land old (2 ^ 32 - 1 - src % 2 ^ 32)

/-- The source of a CSR instruction: a register, or its 5-bit immediate. -/
def csrSrc (k : Clerk) (f3 src : Nat) : Nat := if 4 ≤ f3 then src else (xGet k src).toNat

/-- The queue fault of a CSR instruction (R224): mtval. -/
def queueFault (s : State) (p f3 rd src c : Nat) : Option Nat :=
  let t := getTile s p
  match csrKind f3 rd src c with
  | .qpop => if inGrant t (c - 0x840) == 0 then some (c - 0x840) else none
  | .qw => if inGrant t t.clerk.qsel == 0 then some t.clerk.qsel else none
  | .qsend =>
    let e := bits (csrNew f3 0 (csrSrc t.clerk f3 src)) 3 0
    if (outEntry t e).2.2 == 0 then some (256 + e) else none
  | _ => none

/-- A misaligned access (R214). -/
def misaligned (a n : Nat) : Bool := a % n != 0

/-- The exception of a store of n bytes (R202, R214). -/
def storeExc (t : Tile) (a n : Nat) : Option (Nat × Nat) :=
  if misaligned a n then some (6, a)
  else if Config.storeBytes < a + n || inActiveBank t a n then some (7, a)
  else none

/-- The exception of a load of n bytes. -/
def loadExc (a n : Nat) : Option (Nat × Nat) :=
  if misaligned a n then some (4, a) else if Config.storeBytes < a + n then some (5, a) else none

/-- The synchronous exception of an instruction, in the order of Table 8.4: mcause and mtval. -/
def insExc (s : State) (p : Nat) (i : Fetched) : Option (Nat × Nat) :=
  let t := getTile s p
  let k := t.clerk
  let illegal := match i.ins with
    | .illegal => true
    | .csr f3 _ src c => !(csrLegal s p f3 src c)
    | _ => false
  if illegal then some (2, i.word)
  else if i.ins == .ebreak then some (3, 0)
  else if i.ins == .ecall then some (11, 0)
  else if lpOverlap k k.pc.toNat i.len then some (24, i.word)
  else match i.ins with
    | .rep lv _ len => if lpArmOk k lv len then none else some (24, i.word)
    | .repi lv _ len => if lpArmOk k lv len then none else some (24, i.word)
    | .load f3 _ rs1 off => loadExc (eaOf k rs1 off) (accBytes f3)
    | .lr _ rs1 => loadExc (eaOf k rs1 0) 4
    | .store f3 rs1 _ off => storeExc t (eaOf k rs1 off) (accBytes f3)
    | .sc _ rs1 _ => storeExc t (eaOf k rs1 0) 4
    | .csr f3 rd src c => (queueFault s p f3 rd src c).map (fun v => (25, v))
    | _ => none

/-- Raise an exception of a fetched instruction: a refused store counts in TL_ST_VIOL (R202), a corrected fetch in TL_CLK_ECC
(R220). -/
def raiseExc (s0 : State) (p : Nat) (e : Nat × Nat) (len : Nat) : State :=
  let s := modClerk s0 p (fun k => fetchCount k len)
  let s1 := if e.1 == 7 then
      modTile s p (fun t => storeMod t (fun q => { q with wrRef := satAdd 16 q.wrRef 1 }))
    else s
  takeExc s1 p e.1 e.2 len

/-- An uncorrectable fetched word (R220): it counts, the Reeve hears, and the context's lots fail. -/
def fetchUnc (s : State) (p a : Nat) : State :=
  let cc := ctxCc s (physPart p)
  let s1 := modClerk s p (fun k => { k with eccUnc := satAdd 16 k.eccUnc 1 })
  applyCtx s1 (ctxSig (ctxSig (ctxOf s1 p) (.event 0x0123 cc 0 (toLe 4 a))) (.fail 0x0013 cc))

/-- An instruction access fault at an address (R214, R220). At its second parcel the instruction is known to be of four bytes, so
that its loop-end tests are owed (R229), and its first word has been fetched. -/
def fetchFault (s0 : State) (p a : Nat) : State :=
  let second := (getTile s0 p).clerk.pc.toNat != a
  let s := if second then modClerk s0 p (fun k => fetchCount k 2) else s0
  takeExc (if a < imBytes then fetchUnc s p a else s) p 1 a (if second then 4 else 0)

/-! ## What an instruction does -/

/-- Put a value in a register. -/
def setX (s : State) (p rd : Nat) (v : Word) : State := modClerk s p (fun k => xSet k rd v)

/-- The clerk's access can find a cell of its line's bank (R198, R201). -/
def clerkCell (s : State) (p a : Nat) : Bool :=
  portCell (ctxOf s p) 9 (lineBank a) (clerkFrom (ctxOf s p) (ctxCc s (physPart p)))

/-- Work on a tile at the cc of its context. -/
def atCc (s : State) (p : Nat) (f : Nat → Ctx → Ctx) : State := applyCtx s (f (ctxCc s (physPart p)) (ctxOf s p))

/-- A base instruction: the new clerk registers and the transfer it makes. -/
def baseExec (k : Clerk) (len : Nat) : CIns → Clerk × Nat × Option Nat
  | .lui rd imm => (xSet k rd (BitVec.ofNat 32 imm), rd, none)
  | .auipc rd imm => (xSet k rd (k.pc + BitVec.ofNat 32 imm), rd, none)
  | .jal rd off => (xSet k rd (k.pc + BitVec.ofNat 32 len), rd, some (k.pc + BitVec.ofInt 32 off).toNat)
  | .jalr rd rs1 off =>
    (xSet k rd (k.pc + BitVec.ofNat 32 len), rd, some ((xGet k rs1 + BitVec.ofInt 32 off).toNat / 2 * 2))
  | .branch f3 a b off =>
    (k, 0, if branchTaken f3 (xGet k a) (xGet k b) then some (k.pc + BitVec.ofInt 32 off).toNat else none)
  | .aluI op rd rs1 imm => (xSet k rd (aluOp op (xGet k rs1) (BitVec.ofInt 32 imm)), rd, none)
  | .alu op rd a b => (xSet k rd (aluOp op (xGet k a) (xGet k b)), rd, none)
  | .mul f3 rd a b => (xSet k rd (mulOp f3 (xGet k a) (xGet k b)), rd, none)
  | _ => (k, 0, none)

/-- A CSR instruction that neither waits nor faults. -/
def csrExec (s : State) (p f3 rd src c : Nat) : State :=
  let k := (getTile s p).clerk
  let old := (csrPeek s p c).getD 0
  let s1 := if csrReads f3 rd then csrTake s p c else s
  let s2 := if csrWrites f3 src then csrPut s1 p c (csrNew f3 old (csrSrc k f3 src)) else s1
  if csrReads f3 rd then setX s2 p rd (BitVec.ofNat 32 old) else s2

/-- A CSR read that waits for an entry; none when it waits (R221). -/
def queueWaits (s : State) (p f3 rd src c : Nat) : Bool :=
  let t := getTile s p
  match csrKind f3 rd src c with
  | .qpop => (chan t (c - 0x840)).isEmpty
  | .qw => (chan t t.clerk.qsel).isEmpty
  | _ => false

/-- Can every pending entry of the gather buffer drain: does the clerk hold cells of their banks (R198, R201)? -/
def drainsAll (s : State) (p : Nat) : Bool := (getTile s p).store.gbuf.all (fun e => clerkCell s p (64 * e.line))

/-- Can a store of n bytes enter the gather buffer: a fifth line waits for the oldest entry's drain, and one that fills its entry
for that entry's (R201, Table 8.2)? -/
def storeRoom (s : State) (p a n : Nat) : Bool :=
  let g := (getTile s p).store.gbuf
  match g.find? (fun e => e.line == a / 64) with
  | some e => (gentPut e (a % 64) (zeros n)).bytes.length < 64 || clerkCell s p a
  | none => g.length < 4 || g.head?.all (fun e => clerkCell s p (64 * e.line))

/-- Does the clerk hold cells of the banks that a fill reads (R198, R219)? A fill that R14 discards needs none. -/
def fillCells (s : State) (p v : Nat) : Bool :=
  let k := (getTile s p).clerk
  !(imFillOk k v) || (upto 0 (bits v 31 16)).all (fun i => clerkCell s p (k.imSrc.toNat + 64 * i))

/-- The state after a load (R201, R208). -/
def loadExec (s : State) (p f3 rd a : Nat) : State :=
  let r := clerkRead (ctxOf s p) (ctxCc s (physPart p)) a (accBytes f3)
  setX (applyCtx s r.2) p rd (loadValue f3 r.1)

/-- LR.W (R238). -/
def lrExec (s : State) (p rd a : Nat) : State :=
  let s1 := atCc s p (fun cc => gatherDrainLine cc (a / 64))
  modClerk (loadExec s1 p 2 rd a) p (fun k => { k with resv := some (a / 64 * 64) })

/-- SC.W (R238). -/
def scExec (s : State) (p rd a : Nat) (v : Word) : State :=
  let t := getTile s p
  let ok := t.clerk.resv == some (a / 64 * 64)
  let s1 := if ok then
      let e := (t.store.gbuf.find? (fun g => g.line == a / 64)).getD ⟨a / 64, []⟩
      atCc s p (fun cc c => gatherWrite cc (gatherDrop (a / 64) c) (gentPut e (a % 64) (toLe 4 v.toNat)))
    else s
  setX (modClerk s1 p (fun k => { k with resv := none })) p rd (if ok then 0 else 1)

/-- MRET (R229, R236): the pending loop tests run when mepc is the end of a pending level. -/
def mretExec (k : Clerk) : Clerk :=
  let due := fun lv => bitAt k.lpStatus (2 + lv) && lpAct k lv && kvGet 0 k.lpEnd lv == k.mepc
  let k1 := { k with mie3 := k.mpie, inTrap := false, lpStatus := k.lpStatus % 4, pc := k.mepc }
  lpEndTests k1 due

/-- bell.wait (R230): HOLD clears at issue; it completes when the count differs from TL_BELL_SEEN. -/
def bellExec (s : State) (p : Nat) (i : Fetched) (rd : Nat) : State :=
  let now : Word := BitVec.ofNat 32 (ctxBell s (physPart p))
  let s1 := modClerk s p (fun k => { k with hold := false })
  if (getTile s p).clerk.bellSeen = now then s1
  else retire (modClerk s1 p (fun k => { xSet k rd now with bellSeen := now, bellPend := false })) p i rd none

/-- Halt a clerk between instructions (R239, R487). -/
def clerkHalt (s : State) (p cause : Nat) : State :=
  modTile s p (fun t => { t with
    dbg := { t.dbg with halted := true, cause := cause }
    clerk := { t.clerk with resv := none } })

/-- Execute an instruction that raises no exception; a wait leaves the clerk at it. -/
def insExec (s : State) (p : Nat) (i : Fetched) : State :=
  let k := (getTile s p).clerk
  match i.ins with
  | .load f3 rd rs1 off =>
    let a := eaOf k rs1 off
    if clerkCell s p a then retire (loadExec s p f3 rd a) p i rd none else s
  | .store f3 rs1 rs2 off =>
    if storeRoom s p (eaOf k rs1 off) (accBytes f3) then
      retire (atCc s p (fun cc => gatherStore cc (eaOf k rs1 off) (toLe (accBytes f3) (xGet k rs2).toNat))) p i 0 none
    else s
  | .fence => if drainsAll s p then retire (atCc s p gatherDrainAll) p i 0 none else s
  | .fenceI => retire (modClerk s p (fun k => { k with stale := [] })) p i 0 none
  | .wfi => if Nat.land (mipOf (getTile s p)) k.mie.toNat == 0 then s else retire s p i 0 none
  | .mret => traceRetire (modClerk s p (fun k =>
      mretExec { fetchCount k i.len with minstret := k.minstret + 1, moved := s.clk.cycles })) p k.pc.toNat i.word 0
  | .lr rd rs1 =>
    let a := eaOf k rs1 0
    if clerkCell s p a then retire (lrExec s p rd a) p i rd none else s
  | .sc rd rs1 rs2 =>
    let a := eaOf k rs1 0
    if clerkCell s p a then retire (scExec s p rd a (xGet k rs2)) p i rd none else s
  | .rep lv rs1 len =>
    let r := lpArm k lv len (xGet k rs1)
    retire (modClerk s p (fun _ => r.1)) p i 0 r.2
  | .repi lv cnt len =>
    let r := lpArm k lv len (BitVec.ofNat 32 cnt)
    retire (modClerk s p (fun _ => r.1)) p i 0 r.2
  | .quit lv => retire (modClerk s p (fun k => lpQuit k lv)) p i 0 none
  | .bellWait rd => bellExec s p i rd
  | .csr f3 rd src c =>
    let v := csrNew f3 ((csrPeek s p c).getD 0) (csrSrc k f3 src)
    (match csrKind f3 rd src c with
     | .qsend => (match qsendPut s p v with
       | none => s
       | some s1 => retire (if csrReads f3 rd then setX s1 p rd 0 else s1) p i rd none)
     | .imFill => if !(fillCells s p v) then s else retire (if csrReads f3 rd then setX (imFillPut s p v (k.pc.toNat + i.len)) p rd 0
         else imFillPut s p v (k.pc.toNat + i.len)) p i rd none
     | .clkFail => clerkFault (modClerk s p (fun k => fetchCount k i.len)) p (toLe 2 (bits v 15 0))
     | _ => if queueWaits s p f3 rd src c then s else retire (csrExec s p f3 rd src c) p i rd none)
  | _ =>
    let r := baseExec k i.len i.ins
    retire (modClerk s p (fun _ => r.1)) p i r.2.1 r.2.2

/-- Execute the fetched instruction, or raise its exception; EBREAK halts in loose mode under EBREAK_HALT (R487). -/
def insRun (s : State) (p : Nat) (i : Fetched) : State :=
  let t := getTile s p
  if i.ins == .ebreak && t.dbg.loose && t.dbg.ebreakHalt then clerkHalt s p 2
  else match insExc s p i with
    | some e => raiseExc s p e i.len
    | none => insExec s p i

/-! ## The rows -/

/-- Does the incoming pattern of a switching tile carry a clerk image (R218)? -/
def switchStops (t : Tile) : Bool := t.st == .switching && bitAt (hdrFld t.store.mem t.nextBank 0x13 1) 1

/-- Can the clerk issue (R217, R218, R237, R370, R373, R483, R487)? A role that has just been moved waits for the bell. -/
def clerkLive (t : Tile) : Bool :=
  t.clerk.run == .running && !t.dbg.halted && !t.joins && (t.st == .active || (t.st == .switching && !(switchStops t)))

/-- Does a breakpoint stand at pc (R487)? -/
def bpHit (t : Tile) : Bool :=
  t.dbg.loose && [t.dbg.bp0, t.dbg.bp1].any (fun b => bitAt b.toNat 0 && b.toNat / 2 == t.clerk.pc.toNat / 2)

/-- Upsets of instruction-memory words that happened before a command: word number and failing bits (R220). -/
def imUpset (s : State) (p : Nat) (ups : List (Nat × Nat)) : State :=
  modClerk s p (fun k => { k with
    imBad := ups.foldl (fun m u => if u.1 < imBytes / 4 then kvSet 0 m u.1 (kvGet 0 m u.1 + u.2) else m) k.imBad })

/-- Does a test window stall an instruction: a store access or a queue operation (R381)? -/
def windowStalls (t : Tile) (kind : CKind) : Bool :=
  t.window && [.load, .store, .lr, .sc, .imFill, .qpop, .qw, .qsend].contains kind

/-- The instruction at pc runs when it is of a kind. -/
def clerkTry (kind : CKind) (p : Nat) (s : State) : State :=
  let t := getTile s p
  if !(clerkLive t) || windowStalls t kind || (pendingIrq t).isSome then s
  else match fetch t.clerk with
    | .inl _ => s
    | .inr i => if kindOf i.ins != kind then s else if bpHit t then clerkHalt s p 2 else insRun s p i

/-- The row of a kind. -/
def clerkRow (kind : CKind) (p : Nat) (s : State) : Res :=
  if ¬ p < tileCount then .refused .noSuchUnit else .next (clerkTry kind p s)

/-- TRAP_ENTRY (R235, R236): the exception of the instruction at pc, or the interrupt that is due. -/
def trapTry (p : Nat) (s : State) : State :=
  let t := getTile s p
  if !(clerkLive t) then s
  else
    let irq := match pendingIrq t with
      | some c => modClerk s p (fun k => trapEnter k c k.pc.toNat 0 0)
      | none => s
    match fetch t.clerk with
    | .inl a => fetchFault s p a
    | .inr i => (match insExc s p i with
      | some e => if i.ins == .ebreak && t.dbg.loose && t.dbg.ebreakHalt then irq else raiseExc s p e i.len
      | none => irq)

/-- CLERK_INSTRUCTION (R215): one base instruction. -/
def execClerkInstruction (p : Nat) (ups : List (Nat × Nat)) (s : State) : Res :=
  if ¬ p < tileCount then .refused .noSuchUnit else .next (clerkTry .base p (imUpset s p ups))

/-- CLERK_LOAD (R201, R208). -/
def execClerkLoad (p : Nat) (ups : List (Nat × Nat)) (s : State) : Res :=
  if ¬ p < tileCount then .refused .noSuchUnit else .next (clerkTry .load p (storeUpset s p ups))

/-- CLERK_STORE (R201, R202). -/
def execClerkStore (p : Nat) (s : State) : Res := clerkRow .store p s
/-- XL_REP (R226, R227). -/
def execXlRep (p : Nat) (s : State) : Res := clerkRow .rep p s
/-- XL_REPI (R226, R227). -/
def execXlRepi (p : Nat) (s : State) : Res := clerkRow .repi p s
/-- XL_QUIT (R226, R227). -/
def execXlQuit (p : Nat) (s : State) : Res := clerkRow .quit p s
/-- BELL_WAIT (R230). -/
def execBellWait (p : Nat) (s : State) : Res := clerkRow .bell p s
/-- LR_W (R238). -/
def execLrW (p : Nat) (s : State) : Res := clerkRow .lr p s
/-- SC_W (R238). -/
def execScW (p : Nat) (s : State) : Res := clerkRow .sc p s
/-- FENCE (R201, R215). -/
def execFence (p : Nat) (s : State) : Res := clerkRow .fence p s
/-- FENCE_I (R219). -/
def execFenceI (p : Nat) (s : State) : Res := clerkRow .fenceI p s
/-- WFI (R233). -/
def execWfi (p : Nat) (s : State) : Res := clerkRow .wfi p s
/-- MRET (R229, R236). -/
def execMret (p : Nat) (s : State) : Res := clerkRow .mret p s

/-- TRAP_ENTRY (R235 to R237). -/
def execTrapEntry (p : Nat) (ups : List (Nat × Nat)) (s : State) : Res :=
  if ¬ p < tileCount then .refused .noSuchUnit else .next (trapTry p (imUpset s p ups))

/-- QPOP_READ (R221, R222). -/
def execQpopRead (p : Nat) (s : State) : Res := clerkRow .qpop p s
/-- QW_READ (R221). -/
def execQwRead (p : Nat) (s : State) : Res := clerkRow .qw p s
/-- QSEND_WRITE (R223, R224). -/
def execQsendWrite (p : Nat) (s : State) : Res := clerkRow .qsend p s
/-- IM_FILL_WRITE (R219). -/
def execImFillWrite (p : Nat) (s : State) : Res := clerkRow .imFill p s
/-- SEQ_FLAGS_SET (R232). -/
def execSeqFlagsSet (p : Nat) (s : State) : Res := clerkRow .seqFlags p s
/-- BELL_HOLD_WRITE (R231). -/
def execBellHoldWrite (p : Nat) (s : State) : Res := clerkRow .bellHold p s
/-- CLK_STATUS_CLEAR (R233). -/
def execClkStatusClear (p : Nat) (s : State) : Res := clerkRow .clkStatus p s
/-- CLK_FAIL_WRITE (R237). -/
def execClkFailWrite (p : Nat) (s : State) : Res := clerkRow .clkFail p s
/-- AMAX_READ_CLEAR (R108). -/
def execAmaxReadClear (p : Nat) (s : State) : Res := clerkRow .amax p s
/-- COUNTER_READ_CLEAR (R12). -/
def execCounterReadClear (p : Nat) (s : State) : Res := clerkRow .counter p s
/-- CSR_WRITE (R216). -/
def execCsrWrite (p : Nat) (s : State) : Res := clerkRow .csrWrite p s
/-- RT_SEL_WRITE (R267). -/
def execRtSelWrite (p : Nat) (s : State) : Res := clerkRow .rtSel p s

end Sys2Proof.Machine
end

