-- ==== Sys2Proof/Machine/Pattern.lean ====
section
/-! DEFINITION. Pattern loads and the configuration a pattern gives its tile (spec/02, R52 to R61, R66). -/

namespace Sys2Proof.Machine

/-! ## The checks of R57 -/

/-- Offset of section e in an image, from the bank base (Table 2.3). -/
def imgOff (img : List Byte) (e : Nat) : Nat := fld img (0x38 + 8 * e) 4
/-- Length of section e. -/
def imgLen (img : List Byte) (e : Nat) : Nat := fld img (0x3C + 8 * e) 4
/-- Bytes of section e. -/
def imgSec (img : List Byte) (e : Nat) : List Byte := slice img (imgOff img e) (imgLen img e)

/-- Step 3 of R57: the geometry of R35 and the tile's place in its partition; `lt` none for a spare. -/
def imgGeometry (img : List Byte) (lt : Option Nat) : Bool :=
  fld img 8 2 == 48 && fld img 0xA 2 == 96 && fld img 0xC 4 == 512 && fld img 0x10 1 == 32 && fld img 0x11 1 == 31
  && fld img 0x14 4 == 20 && fld img 0x18 4 == 10000 && fld img 0x1C 2 == 1
  && (match lt with
      | some l => fld img 0x30 1 == l / 96 % 16 && fld img 0x31 1 == l % 96 % 24
      | none => false)

/-- Step 4 of R57: image_len and the header's zero bytes and bits. -/
def imgHeader (img : List Byte) : Bool :=
  256 ≤ fld img 0x24 4 && fld img 0x24 4 ≤ Config.bankBytes && fld img 0x1E 2 == 0 && fld img 0x32 6 == 0
  && allZero (slice img 0x80 124) && fld img 0x13 1 < 4

/-- The length rule of each section (R54, Table 2.4). -/
def secLenOk (img : List Byte) (e : Nat) : Bool :=
  let n := imgLen img e
  match e with
  | 0 => n == 64
  | 1 => n == 32
  | 2 => n == 160
  | 3 => n == 16
  | 4 => n == 16
  | 5 => n % 16 == 0 && n ≤ 1024
  | 6 => n % 8 == 0 && 8 ≤ n && n ≤ 4096
  | 7 => n % 32 == 0 && n ≤ 4096
  | _ => n ≤ 6144 && bitAt (fld img 0x13 1) 1 == (n != 0)

/-- Are the sections with an extent in order, apart, and inside the bank? The number is the end of the section before
(R54; DEDUCED, assumption 18: none overlaps the header). -/
def secOrder (img : List Byte) : Nat → List Nat → Bool
  | _, [] => true
  | a, e :: rest =>
    if imgLen img e == 0 then secOrder img a rest
    else a ≤ imgOff img e && imgOff img e + imgLen img e ≤ Config.bankBytes
      && secOrder img (imgOff img e + imgLen img e) rest

/-- A deadline-table entry (R55). -/
def dlEntryOk (e : List Byte) : Bool :=
  let kind := fld e 0 1
  1 ≤ kind && kind ≤ 4 && fld e 0xC 1 != 0 && fld e 0xD 1 < fld e 0xC 1 && fld e 0xE 2 == 0
  && (fld e 8 4 < 131072 || fld e 8 4 == 0xFFFFFFFF)
  && (if kind == 4 then fld e 1 1 < 2 && fld e 2 2 == 0 && fld e 4 4 == 0 && fld e 8 4 == 0xFFFFFFFF else fld e 1 1 < 8)

/-- The slot-wheel map (R195). -/
def mapOk (sec : List Byte) : Bool := (upto 0 16).all (fun b => fld sec (4 * b) 1 < 0xB && fld sec (4 * b + 1) 1 < 0xB)

/-- The loom mode (R129). -/
def loomModeOk (sec : List Byte) : Bool := fld sec 0 1 == 1 && fld sec 1 1 < 8 && allZero (slice sec 2 14)

/-- The power declaration (R468). -/
def powerOk (sec : List Byte) : Bool :=
  fld sec 0 1 == 1 && fld sec 1 3 == 0 && fld sec 0xC 4 == 0 && fld sec 4 4 != 0 && fld sec 4 4 ≤ fld sec 8 4
  && fld sec 4 4 ≤ 180 && fld sec 8 4 ≤ 300

/-- An outbound entry of the credit table: destination, channel, credits (R66). -/
def outOf (sec : List Byte) (k : Nat) : Nat × Nat × Nat :=
  let e := slice sec (32 + 8 * k) 8
  (fld e 0 2, fld e 2 1, fld e 3 1)

/-- The credit-table cases of load error 0x7 (R66, R264). -/
def creditOver (sec : List Byte) : Bool :=
  (upto 0 8).any (fun n => 16 < fld sec (4 * n) 1)
  || (upto 0 16).any (fun j => (upto 0 j).any (fun i =>
      (outOf sec i).2.2 != 0 && (outOf sec j).2.2 != 0 && (outOf sec i).1 == (outOf sec j).1
      && (outOf sec i).2.1 == (outOf sec j).2.1))

/-- The credit-table cases of load error 0x6 (R66). -/
def creditOk (sec : List Byte) : Bool :=
  (upto 0 8).all (fun n => fld sec (4 * n + 2) 2 == 0)
  && (upto 0 16).all (fun k => fld sec (32 + 8 * k + 4) 4 == 0
      && ((outOf sec k).2.2 == 0 || ((outOf sec k).1 < 4608 && (outOf sec k).2.1 < 8)))

/-- Step 6 of R57 up to the credit table. -/
def sectionsOk (img : List Byte) : Bool :=
  (upto 0 9).all (secLenOk img) && secOrder img 256 (upto 0 9)
  && mapOk (imgSec img 0) && loomModeOk (imgSec img 3) && powerOk (imgSec img 4)
  && (upto 0 (imgLen img 5 / 16)).all (fun i => dlEntryOk (slice (imgSec img 5) (16 * i) 16))

/-- The load error of an image, 0 for none: the first failing check in the order of R57. `width` is the loom width the
tile presents, `p` the period in force in µs. -/
def loadCheck (img : List Byte) (lt : Option Nat) (width p : Nat) : Nat :=
  if fld img 0 4 ≠ 0x54504E48 then 1
  else if fld img 4 2 ≠ 1 ∨ fld img 6 2 ≠ 1 then 3
  else if !(imgGeometry img lt) then 4
  else if !(imgHeader img) then 6
  else if crc32c (patch (slice img 0 (fld img 0x24 4)) 0xFC (zeros 4)) ≠ fld img 0xFC 4 then 2
  else if !(sectionsOk img) then 6
  else if creditOver (imgSec img 2) then 7
  else if !(creditOk (imgSec img 2)) then 6
  else if !(fld img 0x12 1 == 31 || fld img 0x12 1 == 32) || (fld img 0x12 1 == 31) != bitAt (fld img 0x13 1) 0
      || width < fld img 0x12 1 then 5
  else if Config.ccPerUs * p < fld img 0x20 4 then 8
  else 0

/-- How far an image's header reaches into its bank: image_len, or the end of a section that lies behind it. -/
def imgReach (hdr : List Byte) : Nat :=
  min Config.bankBytes ((upto 0 9).foldl (fun m e => if imgLen hdr e == 0 then m else max m (imgOff hdr e + imgLen hdr e))
    (fld hdr 0x24 4))

/-- The image as the copier reads it from a bank: the header's lines, and then those that the image reaches. -/
def readImage (c : Ctx) (k cc : Nat) : List Byte × Ctx :=
  let get := fun (r : List Byte × Ctx) (i : Nat) =>
    let x := lineRead r.2 0 cc (bankBase k + 64 * i)
    (r.1 ++ x.1, x.2)
  let h := (upto 0 4).foldl get ([], c)
  let n := imgReach h.1
  if 256 ≤ fld h.1 0x24 4 && fld h.1 0x24 4 ≤ Config.bankBytes then (upto 4 ((n + 63) / 64 - 4)).foldl get h else h

/-! ## The configuration a pattern gives (R57, R58) -/

/-- The sequencer of a pattern at its first step, with its counters and reloads (R62, Table 2.4). -/
def seqFrom (m : Mem) (k : Nat) : Seq :=
  let f := fun (base : Nat) => (upto 0 4).foldl (fun q i =>
    kvSet 0 q i (leNat (secRead m k 1 (base + 4 * i) 3))) ([] : Kv Nat)
  { run := true, step := 0, ctrs := f 0, reloads := f 16 }

/-- The credits the pattern gives its outbound entries (R66). -/
def creditsFrom (m : Mem) (k : Nat) : Kv Nat :=
  (upto 0 16).foldl (fun q i => kvSet 0 q i (leNat (secRead m k 2 (32 + 8 * i + 3) 1))) []

/-- Bytes of instruction memory that an install or a switch with a clerk image overwrites (R219). -/
def imLower : Nat := 6144

/-- The clerk image of a bank copied to instruction memory offset 0 (R217). The install or switch overwrites the lower 6 KiB whole
(R219, `imRest`), so every word of them is good afterwards (R220). -/
def imFrom (c : Clerk) (bs : List Byte) : Clerk :=
  if bs.isEmpty then { c with stale := [] }
  else { imWrite { c with imBad := c.imBad.filter (fun w => imLower ≤ 4 * w.1) } 0 bs with stale := [] }

/-- What an install or a switch leaves in the lower 6 KiB behind a clerk image that does not fill them: they are overwritten
(R219), and the spec gives no bytes, so they are free values (DESIGN CHOICE, assumption 56). -/
def imRest (s : State) (p : Nat) : State :=
  let t := getTile s p
  let n := secLen t.store.mem t.actBank 8
  if n == 0 || imLower ≤ n then s
  else
    let rest := (upto 0 (imLower - n)).map (fun i => BitVec.ofNat 8 (Config.freeValue (s.fresh + i)))
    modTile { s with fresh := s.fresh + (imLower - n) } p (fun t => { t with clerk := imWrite t.clerk n rest })

/-- Loom mode flags, with the clear of Table 4.5 when `clear`. -/
def loomFrom (l : Loom) (flags : Nat) (clear : Bool) : Loom :=
  let l1 := { l with gating := bitAt flags 0, scatterOk := bitAt flags 1 }
  if clear && bitAt flags 2 then
    { l1 with setA := {}, setB := {}, activeB := false, acc := [], accBad := [] }
  else l1

/-- The first activation of a bank: the configuration of a load with the install flag on a tile of cycle count `now`
(R57, R94, R101, R129, R217). -/
def installBank (t : Tile) (k now : Nat) : Tile :=
  let m := t.store.mem
  let im := secAll m k 8
  let t1 := { tileFresh t with
    banks := kvSet .empty (if t.installed then kvSet .empty t.banks t.actBank .ready else t.banks) k .active
    actBank := k
    installed := true
    st := .joining
    stop := none
    seq := { seqFrom m k with moved := now }
    fired := []
    arrivals := []
    nextArr := [] }
  { t1 with
    outCredits := creditsFrom m k
    num := { t1.num with mode := 0x30, ovr := 0x30, sr := [], srRun := [] }
    loom := loomFrom t1.loom (leNat (secRead m k 3 1 1)) true
    fuller := { t1.fuller with len := 0, res0 := 0, res1 := 0, redPend := none, tap := none }
    dma := { t1.dma with done := [] }
    clerk := imFrom { im := t1.clerk.im, imBad := t1.clerk.imBad, mcycle0 := now, moved := now } im }

/-- The configuration of an incoming bank at the bell that makes a switch take effect (R58, R218): the sequencer at step
0, counters, credits and loom mode; loom contents stay (R129). A clerk image restarts the clerk. -/
def switchBank (t : Tile) (k now bell : Nat) : Tile :=
  let m := t.store.mem
  let im := secAll m k 8
  let t1 := { t with
    banks := kvSet .empty (kvSet .empty t.banks t.actBank .ready) k .active
    actBank := k
    st := .active
    seq := { seqFrom m k with moved := now, flags := t.seq.flags, intervals := t.seq.intervals }
    outCredits := creditsFrom m k
    loom := loomFrom t.loom (leNat (secRead m k 3 1 1)) false }
  let c := { t1.clerk with
    run := .running, pc := 0, mie3 := false, mpie := false, inTrap := false, lpStart := [], lpEnd := []
    lpCount := [], lpStatus := 0, resv := none, hold := false, dpLoc := []
    bellSeen := BitVec.ofNat 32 bell }
  if im.isEmpty then t1 else touchTile (imLines 0 im.length) { t1 with clerk := imFrom c im }

/-- A load's start: the queue contents are discarded and counted, the credits granted are revoked (R59). -/
def revokeQueues (t : Tile) : Tile :=
  { t with
    revoked := t.revoked + t.chans.foldl (fun n q => n + q.2.length) 0
    chans := []
    chHead := [] }

/-- A migration whose source begins a pattern load is abandoned, and waits to start again (R375). -/
def loadDropsMig (s : State) (p : Nat) : State :=
  let r := physProw p
  let q := getRow s r
  if q.mig.any (fun m => m.src == p) then
    modTile (modRow s r (fun q => { q with mig := none, stop := .waiting })) (100 * (r / 4) + 25 * (r % 4) + q.spare)
      (fun d => { d with hw := { d.hw with role := 1 } })
  else s

/-- A load of bank k on physical tile p (R57): the image stands in the bank. -/
def loadBank (s0 : State) (p k : Nat) (install : Bool) : State :=
  let s := loadDropsMig s0 p
  let r := readImage { ctxOf s p with t := revokeQueues (getTile s p) } k (ctxCc s (physPart p))
  let t := r.2.t
  let e := loadCheck r.1 (logOf s p) (widthOf t) s.clk.periodUs
  let t1 := { t with loadErr := e, banks := kvSet .empty t.banks k (if e == 0 then .ready else .staged) }
  if e == 0 && install then imRest (applyCtx s { r.2 with t := installBank t1 k s.clk.cycles }) p
  else applyCtx s { r.2 with t := t1 }

/-- PATTERN_LOAD (R57). The bank must not be the active one, and the tile Idle or Joining; a vote puts loads off (R79). -/
def execPatternLoad (p k : Nat) (install : Bool) (s : State) : Res :=
  if ¬ (p < tileCount ∧ k < 4) then .refused .noSuchUnit
  else
    let t := getTile s p
    if (t.st == .idle || t.st == .joining) && !(t.installed && t.actBank == k) && !(loadsDeferred s) then
      .next (loadBank s p k install)
    else .next s

end Sys2Proof.Machine
end

