-- ==== Sys2Proof/Machine/Records.lean ====
section
/-! DEFINITION. Failure records, event entries and the module's condition (spec/12 R359 to R363, spec/15 R422, R423,
R439, spec/16 R454). Readings of the record rules: DEDUCED, assumption 30. -/

namespace Sys2Proof.Machine

/-! ## Masks over the module's units -/

/-- The number whose bit i is set where a test holds, for i below n. -/
def maskOf (n : Nat) (f : Nat → Bool) : Nat := (upto 0 n).foldl (fun m i => if f i then m + 2 ^ i else m) 0

/-- How many of the first n numbers pass a test. -/
def countOf (n : Nat) (f : Nat → Bool) : Nat := ((upto 0 n).filter f).length

/-- Port states of Table 11.2: does the port carry every class? -/
def portUp (q : Port) : Bool := q.st == 5 || q.st == 6
/-- Lanes in use, as a count. -/
def laneCount (q : Port) : Nat := countOf 4 (bitAt q.lanes)
/-- LK_STATUS.DEGRADED. -/
def portDegraded (q : Port) : Bool := q.lanes != 0 && laneCount q < 4

/-- Is a tile's loom check lost while its pattern is installed (Table 4.6, R140)? -/
def checkLost (t : Tile) : Bool := t.installed && !(checkOn t)
/-- A physical tile's state, by its number in row order 0 to 4,799. -/
def tileAt (s : State) (i : Nat) : Tile := getTile s (100 * (i / 100) + i % 100)

/-! ## The condition (R454, Table 16.4) -/

/-- The physical tiles of a partition-row, by local position. -/
def rowTile (r k : Nat) : Nat := 100 * (r / 4) + 25 * (r % 4) + k

/-- The tile at the position of a row that serves no role (R16). -/
def holeTile (s : State) (r : Nat) : Nat := rowTile r (getRow s r).spare

/-- Does the pattern map name a full-width pattern that a reload installs on a role of a row (R133, R392)? -/
def mapFull (s : State) (n r : Nat) (e : List Byte) : Bool :=
  logProw (fld e 0 2) == r && bitAt (fld e 3 1) 0 && fld (boltLine s n (fld e 4 4) 0) 0x12 1 == 32

/-- Does a role of a row run a full-width pattern (R133), or is one to be reloaded into it? -/
def rowFull (s : State) (r : Nat) : Bool :=
  (upto 0 25).any (fun k =>
    let t := getTile s (rowTile r k)
    t.installed && hdrFld t.store.mem t.actBank 0x12 1 == 32)
  || (getPart s (physPart (rowTile r 0))).patMap.any (mapFull s (physPart (rowTile r 0)) r)

/-- Can a tile serve a role of its row (R133, R394)? -/
def tileUsable (s : State) (p : Nat) : Bool :=
  let t := getTile s p
  t.st != .pinfold && !(rowFull s (physProw p) && loomWidth t.loom == 31)

/-- A partition-row whose spare is consumed (R380). -/
def noSpare (s : State) (r : Nat) : Bool := !(tileUsable s (holeTile s r)) || (getRow s r).stalled

/-- Is a row without cover (R394)? -/
def rowNoCover (s : State) (r : Nat) : Bool := countOf 25 (fun k => tileUsable s (rowTile r k)) < 24

/-- The condition: 0 full, 1 degraded, 2 compute lost, 3 not ready, the most severe that Table 16.4 gives; a lost partition or a
fenced port takes from the geometry, so the module is degraded (R34). -/
def conditionOf (s : State) : Nat :=
  if !s.start.ready then 3
  else if (upto 0 8).any (fun k => (getStack s k).lost) then 2
  else if (upto 0 32).any (fun p => (getPort s p).st == 9) || !(s.link.inDomain || s.link.root) || !s.reeve.standby
      || (upto 0 192).any (noSpare s) || s.start.ledgerBad || s.start.fuseFull
      || (upto 0 12).any (fun n => (getPart s n).lost) || (upto 0 32).any (fun p => (getPort s p).fenced) then 1
  else 0

/-- Is a partition resetting: in a partition reset or a module-compute reset (R421, R439)? -/
def partResets (s : State) (n : Nat) : Bool := (getPart s n).reset.any (fun r => r.1 % 16 == 3 || r.1 % 16 == 4)

/-- What a health-change event watches (R439): the condition, the Reeve's state and every mask of Table 15.11. -/
def healthKey (s : State) : List Nat :=
  [conditionOf s, s.reeve.pair, b2n s.reeve.standby, maskOf 12 (fun n => (getPart s n).lost),
   maskOf 12 (partResets s),
   maskOf 8 (fun k => (getStack s k).ucieUp != 0xFF && s.start.ready && !(getStack s k).lost),
   maskOf 8 (fun k => (getStack s k).lost), maskOf 32 (fun p => (getPort s p).fenced),
   maskOf 32 (fun p => portDegraded (getPort s p)), maskOf 32 (fun p => !(portUp (getPort s p)))]

/-! ## MSI-X vectors (R422) -/

/-- A message falls due on a vector. -/
def vecDue (s : State) (v : Nat) : State := { s with hst := { s.hst with due := setBit s.hst.due v } }

/-! ## Mailbox pages (R416, R423) -/

/-- A mailbox page. -/
def getPage (s : State) (n : Nat) : Page := kvGet {} s.reeve.pages n
/-- Change a mailbox page. -/
def modPage (s : State) (n : Nat) (f : Page → Page) : State :=
  { s with reeve := { s.reeve with pages := kvSet {} s.reeve.pages n (f (getPage s n)) } }
/-- Change the Reeve. -/
def modReeve (s : State) (f : Reeve → Reeve) : State := { s with reeve := f s.reeve }

/-- The distance of two free-running indices (R417). -/
def idxDist (a b : Nat) : Nat := (a + 2 ^ 32 - b) % 2 ^ 32

/-- Write one event entry (Table 15.5) at the page's event producer index. -/
def evPut (s : State) (n kind : Nat) (pay : List Byte) : State :=
  let q := getPage s n
  let e := toLe 2 kind ++ [0, 0] ++ toLe 4 (q.evSeq + 1) ++ toLe 8 (s.clk.bell % 2 ^ 48) ++ slice pay 0 48
  vecDue (modPage s n (fun q => { q with
    ev := kvSet [] q.ev (q.evPi % 28) e, evPi := (q.evPi + 1) % 2 ^ 32, evSeq := q.evSeq + 1 })) (3 * n + 1)

/-- Has a page's event ring room? -/
def evRoom (s : State) (n : Nat) : Bool := idxDist (getPage s n).evPi (getPage s n).evCi < 28

/-- Emit an event to a page, or drop and count it; after drops the first event written carries their count (R423). -/
def evEmit (s : State) (n kind : Nat) (pay : List Byte) : State :=
  let drop := fun (s : State) => modPage s n (fun q => { q with
    evLost := (q.evLost + 1) % 2 ^ 32, evGap := (q.evGap + 1) % 2 ^ 32 })
  if !(evRoom s n) then drop s
  else if (getPage s n).evGap == 0 then evPut s n kind pay
  else
    let s1 := modPage (evPut s n 5 (toLe 4 (getPage s n).evGap)) n (fun q => { q with evGap := 0 })
    if evRoom s1 n then evPut s1 n kind pay else drop s1

/-- Emit an event to the admin pages and the pages of the partitions in a mask. -/
def emitTo (s : State) (mask kind : Nat) (pay : List Byte) : State :=
  (upto 0 16).foldl (fun s n => if 12 ≤ n || bitAt mask n then evEmit s n kind pay else s) s

/-- Emit a health-change event to the admin pages when what R439 watches has changed since `old`. -/
def withHealth (old new : State) : State :=
  if healthKey old == healthKey new then new else emitTo new 0 4 (toLe 1 (conditionOf new))

/-! ## The Reeve's clock (R359) -/

/-- A BCD byte. -/
def unbcd (b : Nat) : Nat := 10 * (b / 16) + b % 16
/-- A number below 100 as a BCD byte. -/
def bcd (n : Nat) : Nat := 16 * (n / 10 % 10) + n % 10

/-- Days from 0000-03-01 to a date of the civil calendar. -/
def dayOf (y m d : Nat) : Nat :=
  let y1 := if m ≤ 2 then y - 1 else y
  let m1 := if m ≤ 2 then m + 9 else m - 3
  365 * y1 + y1 / 4 - y1 / 100 + y1 / 400 + (153 * m1 + 2) / 5 + d - 1

/-- The date of such a day: year, month, day. -/
def dateOf (n : Nat) : Nat × Nat × Nat :=
  let era := n / 146097
  let doe := n % 146097
  let yoe := (doe - doe / 1460 + doe / 36524 - doe / 146096) / 365
  let doy := doe - (365 * yoe + yoe / 4 - yoe / 100)
  let mp := (5 * doy + 2) / 153
  let y := yoe + 400 * era
  ((if mp < 10 then y else y + 1), (if mp < 10 then mp + 3 else mp - 9), doy - (153 * mp + 2) / 5 + 1)

/-- A UEFI timestamp some seconds later (PRESUMED, assumption 19: seconds, minutes, hours, precise flag, day, month,
year, century, in BCD). -/
def stampPlus (ts : List Byte) (sec : Nat) : List Byte :=
  let f := fun i => unbcd (fld ts i 1)
  let t := f 0 + 60 * f 1 + 3600 * f 2 + sec
  let d := dateOf (dayOf (100 * f 7 + f 6) (f 5) (f 4) + t / 86400)
  let r := t % 86400
  [bcd (r % 60), bcd (r / 60 % 60), bcd (r / 3600), fld ts 3 1, bcd d.2.2, bcd d.2.1, bcd (d.1 % 100), bcd (d.1 / 100)].map
    (BitVec.ofNat 8)

/-- The timestamp of a record: zero until the host has set the clock. The clock's value holds the cycle count at which
it was set after the eight bytes of the stamp. -/
def recStamp (s : State) : List Byte :=
  match s.reeve.clock with
  | none => zeros 8
  | some c => stampPlus (c.take 8) ((s.clk.cycles - leNat (c.drop 8)) / 1400000000)

/-! ## The record (R359 to R361) -/

/-- ASCII bytes of a text. -/
def ascii (t : String) : List Byte := t.toList.map (fun c => BitVec.ofNat 8 c.toNat)

/-- The decimal digits of a number below 100. -/
def digits (n : Nat) : List Byte :=
  if n < 10 then [BitVec.ofNat 8 (48 + n)] else [BitVec.ofNat 8 (48 + n / 10), BitVec.ofNat 8 (48 + n % 10)]

/-- Creator ID of Table 12.6. -/
def creatorId : List Byte := [0x0E, 0x9B, 0x6F, 0x5C, 0x41, 0x2D, 0x7C, 0x4A, 0xB3, 0xE2, 0x7A, 0x91, 0xD0, 0xC4, 0xE6, 0xF3]
/-- Notification Type of Table 12.6. -/
def notifyType : List Byte := [0x52, 0x3C, 0x7E, 0xA0, 0x18, 0x9D, 0xB0, 0x46, 0x8F, 0x4A, 0x13, 0xC6, 0xE9, 0xB2, 0x5D, 0x70]
/-- Section Type of R360. -/
def sectionType : List Byte := [0x9D, 0x47, 0xB1, 0xE3, 0x20, 0x6C, 0x8E, 0x4F, 0xA5, 0xD9, 0x0B, 0x72, 0xC8, 0xF1, 0x34, 0x6A]

/-- Class and severity of an event code (Table 12.9). -/
def recClass (code : Nat) : Nat × Nat :=
  if code ≤ 0x0103 then (6, 0)
  else if code ≤ 0x0115 then (6, 0)
  else if code == 0x0116 then (0x15, 0)
  else if code ≤ 0x0125 then (6, 0)
  else if code == 0x0131 then (2, 2)
  else if code == 0x0132 then (1, 2)
  else if code == 0x0141 then (3, 0)
  else if code ≤ 0x0156 then (7, 0)
  else if code == 0x0161 then (5, 0)
  else if code == 0x0162 then (4, 0)
  else if code ≤ 0x0172 then (8, 0)
  else if code ≤ 0x0182 then (9, 2)
  else if code == 0x0191 then (0x11, 1)
  else if code == 0x0192 then (0x12, 1)
  else if code == 0x0193 then (0x13, 1)
  else if code == 0x0194 then (0x14, 0)
  else (0, 3)

/-- Is a code one of Table 12.9 (R362)? The other reports of the part emit no record. -/
def recEmits (code : Nat) : Bool :=
  [0x0101, 0x0102, 0x0103, 0x0111, 0x0112, 0x0113, 0x0114, 0x0115, 0x0116, 0x0121, 0x0122, 0x0123, 0x0124, 0x0125, 0x0131,
   0x0132, 0x0141, 0x0151, 0x0152, 0x0153, 0x0154, 0x0155, 0x0156, 0x0161, 0x0162, 0x0171, 0x0172, 0x0181, 0x0182, 0x0191,
   0x0192, 0x0193, 0x0194, 0x01A1].contains code

/-- FRU text: the part number and the unit's place (R360; the form for units other than tiles is a DESIGN CHOICE,
assumption 20). -/
def fruText (e : Event) : List Byte :=
  let place := match e.unit / 2 ^ 28 with
    | 1 => ascii "pt(" ++ digits (e.loc / 256 % 256) ++ ascii "," ++ digits (e.loc % 256) ++ ascii ")"
    | 2 => ascii "S" ++ digits (e.loc % 256)
    | 3 => if e.loc % 256 < 16 then ascii "E" ++ digits (e.loc % 256) else ascii "O" ++ digits (e.loc % 256 - 16)
    | 4 => ascii "P" ++ digits (e.unit % 2 ^ 24)
    | _ => ascii "module"
  slice (ascii "HU1-A384 " ++ place) 0 20

/-- Does an event fail a lot (Table 12.7)? A module-wide event names none. -/
def failsLot (s : State) (e : Event) : Bool :=
  e.compl != 0 && (e.lot != 0 || (12 ≤ e.part && (upto 0 12).any (fun n =>
    (getPart s n).lots.any (fun l => l.causes.any (fun c => c.1 == e.compl && c.2.1 == e.bell)))))

/-- The events that take a unit or a scope down (R359). -/
def takesDown (code : Nat) : Bool :=
  [0x0141, 0x0161, 0x0162, 0x0171, 0x0172, 0x0191, 0x0192, 0x0193, 0x0194].contains code

/-- The Novnor flags of an event: a lot failed, the check lost, and an assay's outcome (Table 12.7). -/
def recFlags (s : State) (e : Event) : Nat :=
  b2n (failsLot s e)
  + 2 * b2n (e.unit / 2 ^ 28 == 1 && checkLost (getTile s (100 * (e.loc / 256 % 256) + e.loc % 256)))
  + (if e.payKind == 7 then (if fld e.pay 0 1 == 2 then 8 else if fld e.pay 0 1 == 3 then 16 else 0) else 0)

/-- The firmware version that runs (R414): slot 1 is A, 2 is B, 0 none. -/
def fwVersion (s : State) : Nat :=
  match s.start.runSlot with
  | 1 => s.start.slotA.version
  | 2 => s.start.slotB.version
  | _ => 0

/-- The class and severity of an event: an upset during an assay's replay is charged to class F6 (R357). -/
def eventClass (e : Event) : Nat × Nat := if e.payKind == 7 && fld e.pay 0 1 == 4 then (6, 3) else recClass e.code

/-- The record of an event (R359 to R361), numbered `id`. `led` is the repair-ledger index of the entry the event added,
0xFFFFFFFF for none. -/
def cperOf (s : State) (e : Event) (id led : Nat) : List Byte :=
  let cls := eventClass e
  let pay := e.pay.take 64
  let secLen := 64 + pay.length
  let guid := toLe 16 Config.platformGuid
  let took := failsLot s e || cls.2 == 1 || takesDown e.code
  let header := ascii "CPER" ++ toLe 2 0x0101 ++ toLe 4 0xFFFFFFFF ++ toLe 2 1 ++ toLe 4 cls.2
    ++ toLe 4 (1 + 2 * b2n s.reeve.clock.isSome) ++ toLe 4 (200 + secLen) ++ recStamp s ++ guid ++ zeros 16 ++ creatorId
    ++ notifyType ++ toLe 8 id ++ toLe 4 (b2n (!took)) ++ zeros 20
  let desc := toLe 4 0xC8 ++ toLe 4 secLen ++ toLe 2 0x0100 ++ [3, 0] ++ toLe 4 1 ++ sectionType ++ guid ++ toLe 4 cls.2
    ++ fruText e
  let sec := toLe 2 1 ++ toLe 2 secLen ++ toLe 2 e.code ++ toLe 1 cls.1 ++ toLe 1 (recFlags s e)
    ++ toLe 4 s.link.modId ++ toLe 4 e.unit ++ toLe 4 e.loc ++ toLe 2 e.part ++ toLe 2 1 ++ toLe 8 (e.bell % 2 ^ 48)
    ++ toLe 8 e.lot ++ toLe 8 e.pattern ++ toLe 2 (if failsLot s e then e.compl else 0) ++ toLe 2 e.payKind
    ++ toLe 4 (fwVersion s) ++ toLe 4 led ++ zeros 4
  header ++ desc ++ sec ++ pay

/-- A field of a stored record's Novnor section. -/
def recFld (r : List Byte) (off n : Nat) : Nat := fld r (0xC8 + off) n

/-- Does a record hold an earlier occurrence of an event in the same interval (R363)? -/
def recSame (e : Event) (r : List Byte) : Bool :=
  recFld r 4 2 == e.code && recFld r 0xC 4 == e.unit && recFld r 0x18 8 == e.bell % 2 ^ 48

/-- One more occurrence in a record: the count, and flags [2]; the flags of the occurrences are joined. -/
def recAgain (s : State) (e : Event) (r : List Byte) : List Byte :=
  let n := min 0xFFFF (recFld r 0x16 2 + 1)
  let r1 := patch (patch r (0xC8 + 0x16) (toLe 2 n)) (0xC8 + 7) (toLe 1 (setBit (Nat.lor (recFld r 7 1) (recFlags s e)) 2))
  if failsLot s e then patch r1 0x68 (toLe 4 0) else r1

/-- The ID of the next record (Table 12.6). -/
def nextRecId (s : State) : Nat := s.link.modId * 2 ^ 47 + (s.reeve.recSeq + 1) % 2 ^ 47

/-- Queue a record for the tray (R510): at most 64, the oldest dropped and the drop counted. -/
def sideQueue (s : State) (r : List Byte) : State :=
  let q := s.side.events ++ [r]
  { s with side := { s.side with
    events := if 64 < q.length then q.drop 1 else q
    dropped := if 64 < q.length then s.side.dropped + 1 else s.side.dropped } }

/-- Keep the last `n` of a list. -/
def lastN {α : Type} (n : Nat) (l : List α) : List α := l.drop (l.length - n)

/-- Emit the record of an event, or count it into the record of its interval; answers the record's ID. -/
def recEmit (s : State) (e : Event) (led : Nat) : Nat × State :=
  match s.reeve.recs.find? (fun r => recSame e r.2) with
  | some r => (r.1, modReeve s (fun q => { q with
      recs := q.recs.map (fun k => if k.1 == r.1 then (k.1, recAgain s e k.2) else k)
      fatal := q.fatal.map (fun k => if k.1 == r.1 then (k.1, recAgain s e k.2) else k) }))
  | none =>
    let id := nextRecId s
    let r := cperOf s e id led
    let s1 := modReeve s (fun q => { q with
      recSeq := q.recSeq + 1
      recs := lastN 4096 (q.recs ++ [(id, r)])
      fatal := if (eventClass e).2 == 1 then lastN 256 (q.fatal ++ [(id, r)]) else q.fatal
      repro := if e.repro then q.repro ++ [id] else q.repro })
    let pay := toLe 8 id ++ toLe 2 e.code ++ toLe 1 (eventClass e).1 ++ toLe 1 (recFlags s e) ++ toLe 4 e.unit
      ++ toLe 2 e.part ++ [0, 0] ++ toLe 8 e.lot
    (id, sideQueue (emitTo s1 (if e.part < 12 then 2 ^ e.part else 0) 1 pay) r)

/-! ## What a lot leaves (R353, R400, R432) -/

/-- Put an attachment at its place by bell and cc. -/
def attachIns (a : Nat × Nat × List Byte) : List (Nat × Nat × List Byte) → List (Nat × Nat × List Byte)
  | [] => [a]
  | b :: t => if a.1 < b.1 || (a.1 == b.1 && a.2.1 < b.2.1) then a :: b :: t else b :: attachIns a t

/-- An attachment of 40 B (R432): unit, kind, length, and the record padded to 32 B. -/
def attachment (unit kind len : Nat) (r : List Byte) : List Byte :=
  toLe 4 unit ++ toLe 1 kind ++ toLe 1 len ++ [0, 0] ++ slice r 0 32

/-- The full bell count that low bits of an earlier bell stand for. -/
def bellOfLow (s : State) (low : Nat) : Nat := s.clk.bell - (s.clk.bell + 2 ^ 32 - low % 2 ^ 32) % 2 ^ 32

/-- The records a tile has latched in the lot, each with its bell and cc. -/
def tileAttach (s : State) (p : Nat) : List (Nat × Nat × List Byte) :=
  let t := getTile s p
  let u := unitId 1 (logD s p)
  let rec1 := fun (on : Bool) (kind len bell cc : Nat) (r : List Byte) => if on then [(bell, cc, attachment u kind len r)] else []
  rec1 t.loom.chkValid 2 32 (fld t.loom.chkRec 8 8 % 2 ^ 48) (fld t.loom.chkRec 4 4) t.loom.chkRec
  ++ rec1 t.fuller.resValid 3 16 (fld t.fuller.resRec 8 8 % 2 ^ 48) 0 t.fuller.resRec
  ++ rec1 t.sparse.ovrValid 4 32 (fld t.sparse.ovrRec 8 8 % 2 ^ 48) 0 t.sparse.ovrRec
  ++ rec1 t.tally.recValid 5 32 (fld t.tally.recd 0x10 8 % 2 ^ 48) 0 t.tally.recd
  ++ rec1 t.store.ueValid 6 8 (bellOfLow s t.store.ueBell) 0
      (toLe 4 (t.store.uePort * 2 ^ 28 + t.store.ueLine * 64) ++ toLe 4 t.store.ueBell)
  ++ rec1 t.num.nanValid 9 32 (fld t.num.nanRec 8 8 % 2 ^ 48) (fld t.num.nanRec 0x10 4) t.num.nanRec

/-- The attachments of a partition's lot, in the order of R400. -/
def attachOf (s : State) (n : Nat) : List (List Byte) :=
  let ts := ((partTiles n).filter (fun p => (logOf s p).isSome)).flatMap (tileAttach s)
  let ms := (upto 0 8).flatMap (fun k =>
    let r := kvGet [] (getStack s k).nan n
    if r.isEmpty then [] else [(fld r 8 8 % 2 ^ 48, fld r 0x10 4, attachment (unitId 2 k) 9 32 r)])
  ((ts ++ ms).foldl (fun l a => attachIns a l) []).map (fun a => a.2.2)

/-- Latch what a lot that has started leaves behind, as its tiles and mills hold it now. -/
def latchLot (s : State) (n : Nat) (l : Lot) : Lot :=
  if !l.active || l.latched then l
  else { l with
    latched := true
    attach := attachOf s n
    digests := (partTiles n).foldl (fun m p => match logOf s p with
      | some t => kvSet 0 m t (getTile s p).tally.digest
      | none => m) []
    unchecked := ((partTiles n).filter (fun p => (getTile s p).lotUnchecked)).length }

/-- End a lot with a code: one not yet ended ends now, and keeps an earlier cause (R400, R401). -/
def endLot (s : State) (n code : Nat) (l : Lot) : Lot :=
  if l.state == 2 then l
  else { latchLot s n l with
    state := 2
    active := false
    ended := s.clk.bell
    causes := if l.causes.isEmpty then [(code, s.clk.bell, s.clk.intvCc)] else l.causes }

/-- End every lot of a partition with a code. -/
def endLots (s : State) (n code : Nat) : State :=
  modPart s n (fun p => { p with lots := p.lots.map (endLot s n code) })

/-- Note an event's unit and record with a lot it fails (Table 15.9a). -/
def recLot (e : Event) (id : Nat) (l : Lot) : Lot :=
  match l.causes.find? (fun c => c.1 == e.compl && c.2.1 == e.bell && !(l.info.any (fun i => i.1 == c.1 && i.2.1 == c.2.1 && i.2.2.1 == c.2.2))) with
  | some c => { l with info := l.info ++ [(c.1, c.2.1, c.2.2, e.unit, id)] }
  | none => l

/-- Note an event's unit and record with the lots it fails; a module-wide event can fail lots of every partition. -/
def recLots (s : State) (e : Event) (id : Nat) : State :=
  if e.compl == 0 then s
  else ((upto 0 12).filter (fun n => 12 ≤ e.part || n == e.part)).foldl (fun s n =>
    modPart s n (fun p => { p with lots := p.lots.map (recLot e id) })) s

end Sys2Proof.Machine
end

