-- ==== Sys2Proof/Machine/Link.lean ====
section
/-! DEFINITION. Link ports: their states, training and qualification, and the spine that routes messages between them
(spec/11, R299 to R326, R331 to R334). Readings of the link rules: DEDUCED, assumptions 22 and 28. -/

namespace Sys2Proof.Machine

/-- Link ports of the part. -/
def portCount : Nat := 32
/-- Is a port optical (R11)? -/
def portO (p : Nat) : Bool := 16 ≤ p
/-- The domain of a port's pair (Table 1.4). -/
def portDom (p : Nat) : Nat := 76 + p % 16
/-- Change the link management. -/
def modLink (s : State) (f : Link → Link) : State := { s with link := f s.link }

/-! ## Buffers (Table 11.5) -/

/-- Receive-buffer flits of a class. -/
def rxFlits (p c : Nat) : Nat :=
  if portO p then (if c ≤ 1 then 2224 else if c == 2 then 128 else 32)
  else (if c ≤ 1 then 224 else if c == 2 then 48 else 16)
/-- Replay-buffer flits. -/
def replayFlits (p : Nat) : Nat := if portO p then 2560 else 256
/-- Park-buffer flits. -/
def parkFlits (p : Nat) : Nat := if portO p then 512 else 128
/-- Flits a message fills. -/
def msgFlits (m : List Byte) : Nat := (m.length + 239) / 240

/-! ## Transport headers (Table 11.7) -/

/-- kind. -/
def mKind (m : List Byte) : Nat := fld m 0 1
/-- Is the message multicast? -/
def mCast (m : List Byte) : Bool := bitAt (fld m 1 1) 0
/-- Is it a deadline item? -/
def mItem (m : List Byte) : Bool := bitAt (fld m 1 1) 1
/-- key. -/
def mKey (m : List Byte) : Nat := fld m 2 2
/-- dest. -/
def mDest (m : List Byte) : Nat := fld m 4 4
/-- src. -/
def mSrc (m : List Byte) : Nat := fld m 8 4 % 2 ^ 17
/-- stamp. -/
def mStamp (m : List Byte) : Nat := fld m 0x10 8
/-- hops. -/
def mHops (m : List Byte) : Nat := fld m 0x25 1
/-- The payload. -/
def mPay (m : List Byte) : List Byte := m.drop 48
/-- The bytes of a message whose header this is (Table 11.8; a Reeve message carries one 64 B block, DESIGN CHOICE,
assumption 21). -/
def mLen (hdr : List Byte) : Nat := match mKind hdr with
  | 1 => 4144
  | 2 => 4144
  | 6 => 112
  | _ => 48

/-- The class a message enters its source's link layer in (Table 11.8, R324). -/
def mClass (m : List Byte) : Nat := match mKind m with
  | 5 => 2
  | 7 => 2
  | 6 => 3
  | _ => 0

/-! ## Link state (Table 11.11, R331) -/

/-- The module's compute state for its neighbours: 0 ready, 1 resetting, 2 compute lost (R398, R454). -/
def computeState (s : State) : Nat :=
  if s.reeve.computeReset || (upto 0 12).any (partResets s) then 1
  else if (upto 0 8).any (fun k => (getStack s k).lost) then 2
  else 0

/-- The domain-scope changes that are pending (R79): the target of each, and whether a refusal of it is held or heard. -/
def pendVotes (s : State) : List (Nat × Bool) :=
  (s.reeve.changes.filter (fun c => c.outcome == 0 && (c.kind == 5 || c.kind == 6))).map (fun c =>
    (c.target % 2 ^ 48, !c.refusers.isEmpty || s.link.votes.any (fun v => v.1 == c.target % 2 ^ 48)))

/-- The targets of which a refusal is to be passed on, the module's own changes or not, the earliest first (R79). -/
def refusedVotes (s : State) : List Nat :=
  (((pendVotes s).filter (fun v => v.2)).map (fun v => v.1) ++ s.link.votes.map (fun v => v.1)).eraseDups.mergeSort (fun a b => a ≤ b)

/-- vote_t and vote of a flit body (Table 11.10): a refusal, or a change that is pending. The body has one place: of two refused
changes a bell flit names the earlier and a link-state flit the later (DESIGN CHOICE, assumption 28). -/
def voteBytes (s : State) (late : Bool) : List Byte :=
  let r := refusedVotes s
  match (if late then r.getLast? else r.head?), (pendVotes s).head? with
  | some t, _ => toLe 8 t ++ toLe 1 1
  | none, some v => toLe 8 v.1 ++ toLe 1 0
  | none, none => zeros 9

/-- Does the port take part in the bell domain when it is Up (R330)? -/
def linkStateBody (s : State) (p : Nat) : List Byte :=
  slice (toLe 4 (s.link.modId % 2 ^ 17) ++ toLe 1 p ++ toLe 1 (if s.power.keepAlive then 2 else 1) ++ toLe 1 (computeState s)
    ++ toLe 1 (b2n (getPort s p).followOn + 2 * b2n s.link.inDomain) ++ toLe 4 s.link.domain ++ toLe 8 (s.clk.bell % 2 ^ 48)
    ++ voteBytes s true) 0 240

/-! ## Enqueueing for a port (R312, R324, R331) -/

/-- Does a port carry a class in its state (Table 11.2)? -/
def portCarries (q : Port) (c : Nat) : Bool := portUp q || (c == 3 && 3 ≤ q.st && q.st ≤ 9)

/-- A message becomes ready in a class of a port. -/
def portEnqueue (s : State) (p c : Nat) (m : List Byte) : State :=
  modPort s p (fun q => { q with
    txQ := kvSet [] q.txQ c (kvGet [] q.txQ c ++ [m])
    ord := if c ≤ 1 then q.ord ++ [c] else q.ord })

/-- Count a discard on a port by its cause (Table 11.14). -/
def countDiscard (s : State) (p cause : Nat) : State :=
  modPort s p (fun q => match cause with
    | 2 => { q with dropRoute := satAdd 8 q.dropRoute 1 }
    | 3 => { q with dropHops := satAdd 8 q.dropHops 1 }
    | 6 => { q with dropKey := satAdd 8 q.dropKey 1 }
    | 8 => { q with late := satAdd 16 q.late 1 }
    | 7 => q
    | _ => { q with dropDown := satAdd 8 q.dropDown 1 })

/-! ## The spine (R321 to R326) -/

/-- A route entry of a bank (R323): a message is routed by the bank that was in force when its header arrived. -/
def routeEntry (s : State) (bank dest : Nat) : Nat := kvGet 0 (if bank == 0 then s.link.routeA else s.link.routeB) dest

/-- The multicast entry of a group (R325): outputs, datelines, and the control word. -/
def mcastEntry (s : State) (g : Nat) : Nat × Nat × Nat :=
  let e := kvGet [] s.link.mcast g
  (fld e 0 4, fld e 4 4, fld e 8 4)

/-- Send a copy to an output, or name the port and the cause that stop it. -/
def spineOut (s : State) (q c : Nat) (m : List Byte) : State × List (Nat × Nat) :=
  if portCarries (getPort s q) c then (portEnqueue s q c m, [])
  else if (getPort s q).st == 7 then (s, [(q, 4)]) else (s, [(q, 1)])

/-- The class a message leaves in: a dateline moves LC0 to LC1, and LC1 stays (R324). A class is 4 more where the message holds no
receive buffer. -/
def outClass (c : Nat) (dateline : Bool) : Nat := if c % 4 == 0 && dateline then 1 else c % 4

/-- Is a message delivered in this module (R323, R325)? -/
def spineHere (s : State) (inp : Nat) (inj : Bool) (bank : Nat) (m : List Byte) : Bool :=
  if mCast m then
    let w := (mcastEntry s (mDest m % 2 ^ 12)).2.2
    bitAt w 31 && bitAt w 30 && (if inj then bitAt w 29 else bits w 28 24 == inp)
  else bitAt (routeEntry s bank (mDest m % 2 ^ 17)) 15 && bitAt (routeEntry s bank (mDest m % 2 ^ 17)) 14

/-- Does the spine hand a message that came in at a port on to an output that carries its class (R323, R325)? -/
def spineOnward (s : State) (inp c bank : Nat) (m : List Byte) : Bool :=
  if mCast m then
    let e := mcastEntry s (mDest m % 2 ^ 12)
    bitAt e.2.2 31 && bits e.2.2 28 24 == inp && mHops m != 1
    && (upto 0 32).any (fun q => bitAt e.1 q && portCarries (getPort s q) (outClass c (bitAt e.2.1 q)))
  else
    let e := routeEntry s bank (mDest m % 2 ^ 17)
    bitAt e 15 && !(bitAt e 14) && e % 32 != inp && mHops m != 1 && portCarries (getPort s (e % 32)) (outClass c (bitAt e 13))

/-- The class a delivered message is listed under: 4 more when it holds none of the receive buffer. -/
def hereClass (inj : Bool) (c : Nat) : Nat := if inj then c + 4 else c

/-- Look a message up and move it: locally delivered, forwarded or copied. `inp` is the port it came in on, or the one it
was injected at when `inj`. What is discarded is listed as a port and a cause. -/
def spineMove (s : State) (inp : Nat) (inj : Bool) (c bank : Nat) (m0 : List Byte) : State × List (Nat × Nat) :=
  let hops := mHops m0 - 1
  let m := patch m0 0x25 (toLe 1 hops)
  let here := fun (s : State) => modPort s inp (fun q => { q with here := q.here ++ [(hereClass inj c, m)] })
  if mCast m then
    let e := mcastEntry s (mDest m % 2 ^ 12)
    let ok := bitAt e.2.2 31 && (if inj then bitAt e.2.2 29 else bits e.2.2 28 24 == inp)
    if !ok then (s, [(inp, 2)])
    else
      let s1 := if bitAt e.2.2 30 then here s else s
      (upto 0 32).foldl (fun r q =>
        if bitAt e.1 q then
          if hops == 0 then (r.1, r.2 ++ [(inp, 3)])
          else
            let x := spineOut r.1 q (outClass c (bitAt e.2.1 q)) m
            (x.1, r.2 ++ x.2)
        else r) (s1, [])
  else
    let e := routeEntry s bank (mDest m % 2 ^ 17)
    if bitAt e 15 && bitAt e 14 then (here s, [])
    else if !(bitAt e 15) || (!inj && e % 32 == inp) then (s, [(inp, 2)])
    else if hops == 0 then (s, [(inp, 3)])
    else spineOut s (e % 32) (outClass c (bitAt e 13)) m

/-- The undeliverable report of a data message (R322). DEDUCED (assumption 22): it is unicast, keeps the deadline-item flag, and
has the hops of an injected message. -/
def reportOf (s : State) (m : List Byte) (cause : Nat) : List Byte :=
  slice (toLe 1 7 ++ toLe 1 (2 * b2n (mItem m)) ++ toLe 2 (mKey m) ++ toLe 4 (mSrc m) ++ toLe 4 (mDest m) ++ slice m 0xC 0x19
    ++ toLe 1 s.link.hopLimit ++ toLe 1 cause ++ slice m 0x27 9) 0 48

/-- A message of another kind, or a report, is discarded: counted, and nothing more (R322). -/
def discardOnly (s : State) (ds : List (Nat × Nat)) : State := ds.foldl (fun s d => countDiscard s d.1 d.2) s

/-- A discarded message: counted, and a data message is reported to its source (R322). -/
def discardMsg (s : State) (m : List Byte) (d : Nat × Nat) : State :=
  let s1 := countDiscard s d.1 d.2
  if mKind m == 1 || mKind m == 2 then
    let s2 := modPort s1 d.1 (fun q => { q with undel := (q.undel + 1) % 2 ^ 32 })
    let r := spineMove s2 d.1 true 2 s.link.bank (reportOf s m d.2)
    discardOnly r.1 r.2
  else s1

/-- Route a message, with the reports of what is discarded. -/
def spineRoute (s : State) (inp : Nat) (inj : Bool) (c bank : Nat) (m : List Byte) : State :=
  let r := spineMove s inp inj c bank m
  r.2.foldl (fun s d => discardMsg s m d) r.1

/-- Bytes of a class leave the receive buffer: each flit's worth returns a credit (R313). -/
def freeBytes (c n : Nat) (q : Port) : Port :=
  let t := kvGet 0 q.crFree c + n
  { q with crFree := kvSet 0 q.crFree c (t % 240), crRet := kvSet 0 q.crRet c ((kvGet 0 q.crRet c + t / 240) % 65536) }

/-- A delivered message leaves the receive buffer of its class, when it holds any of it (R313). -/
def hereFree (x : Nat × List Byte) (q : Port) : Port := if x.1 < 4 then freeBytes x.1 x.2.length q else q

/-- A port's event (Table 12.7): payload 0x8 of its status and counters. -/
def portStatus (q : Port) : Nat :=
  2 ^ 28 * q.st + 2 ^ 24 * q.lanes + 2 ^ 22 * q.peerPwr + 2 ^ 20 * q.peerCmp + 2 ^ 19 * b2n q.bellActive
  + 2 ^ 18 * b2n (portDegraded q) + q.exit

/-- An event of a port. -/
def portEvent (s : State) (p code lane compl part lot : Nat) (kind : Nat) : Event :=
  let q := getPort s p
  { code := code, unit := unitId 3 p, loc := p + 256 * lane, part := part, bell := s.clk.bell, cc := s.clk.intvCc, lot := lot
    compl := compl, payKind := kind
    pay := if kind == 8 then toLe 4 (portStatus q) ++ toLe 4 (65536 * q.crc + q.seqBad) ++ toLe 4 (65536 * q.retryReq + q.replays)
           else [] }

/-- A whole bolt message that tiles have sent to an injection port (R316): its header and payload, the route bank that was in
force when its header arrived (R323), and the packets left. -/
def injectTake (s : State) (q : Port) : Option (List Byte × Nat × List Packet) :=
  let datOf := fun (h : Packet) => q.meshIn.filter (fun k => k.kind == 0xB && k.src == h.src && k.payload.length == 256)
  match q.meshIn.find? (fun h => h.kind == 0xB && h.payload.length == 64 && 16 ≤ (datOf h).length) with
  | none => none
  | some h =>
    let ds := (datOf h).take 16
    let hdr := patch (patch (h.payload.take 48) 2 (toLe 2 h.key)) 0x25 (toLe 1 s.link.hopLimit)
    let left := ds.foldl (fun l d => l.erase d) (q.meshIn.erase h)
    some (hdr ++ ds.flatMap (fun k => k.payload), h.bank, left)

/-- SPINE_ROUTE_LOOKUP (R323): the oldest message wholly received at a port, or injected at it by a tile (`inj`), is
looked up. One that is delivered here stays in the receive buffer of its class until it is taken or parked (R313, R318). A
bolt that fails its tally in transit is counted and goes on (R343); what a replay sends is discarded at the port (R354). Nothing is
forwarded where the Reeve is lost (R412). -/
def execSpineRouteLookup (p : Nat) (inj : Bool) (s : State) : Res :=
  if ¬ p < portCount then .refused .noSuchUnit
  else if s.reeve.gone || !(domOn s 95) then .next s
  else
    let q := getPort s p
    if inj then
      match injectTake s q with
      | some (m, bank, left) =>
        let s1 := modPort s p (fun q => { q with meshIn := left })
        .next (if replaying s (logPart (fld m 0xE 2 % 8192)) then s1 else spineRoute s1 p true 0 bank m)
      | none => .next s
    else match q.rxQ with
      | [] => .next s
      | x :: rest =>
        let m := x.bytes
        let s1 := modPort s p (fun q =>
          (if spineHere s p false x.bank m then id else hereFree (x.cls, m)) { q with rxQ := rest })
        let bolt := mKind m == 1 || mKind m == 2
        let bad := bolt && spineOnward s p x.cls x.bank m && crc32c (mPay m) != fld m 0x28 4
        let s2 := if bad then
            sendEvent (modPort s1 p (fun q => { q with tlyTransit := satAdd 16 q.tlyTransit 1 })) (portEvent s p 0x0114 0xFF 0 0xFFFF 0 0)
          else s1
        .next (spineRoute s2 p false x.cls x.bank m)

/-! ## Local delivery (R317, R318, R320, R343) -/

/-- The partition a data message is for: the one that holds dest_ep, or dpart (R320). -/
def mPart (m : List Byte) : Nat := if mKind m == 2 then fld m 0x27 1 % 16 else logPart (fld m 0xC 2 % 8192)

/-- Does a partition take local deliveries (R331, R398)? -/
def partAccepts (s : State) (n : Nat) : Bool :=
  n < 12 && (getPart s n).reset.isNone && !(getPart s n).lost && !s.reeve.computeReset && (getPart s n).key != 0
  && !(upto 0 8).any (fun k => (getStack s k).lost) && !s.power.keepAlive

/-- Is a join of the partition still to come (R407)? -/
def joinPending (s : State) (n : Nat) : Bool :=
  s.reeve.changes.any (fun c => c.outcome == 0 && c.kind == 0x15 && bitAt c.parts n)

/-- Is an item one that a lot-abort notice abandoned: of that source, lot and key (R50)? -/
def itemAbandoned (s : State) (m : List Byte) : Bool :=
  s.link.abandoned.any (fun a => a.src == mSrc m && a.lot == fld m 0x18 8 && a.key == mKey m)

/-- Is an item for an interval that an overrun has ended (R51)? -/
def itemLate (s : State) (m : List Byte) : Bool := mStamp m < s.clk.bell && s.clk.overruns.contains (mStamp m)

/-- Why a data message is refused at its destination port, none when it is not. -/
def localCause (s : State) (m : List Byte) : Option Nat :=
  let n := mPart m
  if n < 12 && joinPending s n then some 6
  else if !(partAccepts s n) then some 5
  else if !(keyMatch (keyTable s) n (mKey m)) then some 6
  else if mItem m && (itemAbandoned s m || itemLate s m) then some 8
  else none

/-- The link-delivery packets of a bolt (R317). -/
def deliveryPackets (p : Nat) (m : List Byte) : List Packet :=
  (upto 0 16).map (fun i =>
    { kind := 0xE, vc := 0, last := i == 15, sub := fld m 0x24 1 % 8, key := mKey m, dest := fld m 0xC 2, src := 0x4000 + p
      addr := fld m 0x20 4 / 64 + 4 * i, aux := fld m 0x28 4, payload := slice (mPay m) (256 * i) 256, srcMod := mSrc m
      item := mItem m, stamp := mStamp m })

/-- Hand a data message on: into the mesh at the attached row nearest its tile, or to its bolt's stack. -/
def deliverMsg (s : State) (p : Nat) (m : List Byte) : State :=
  if mKind m == 2 then
    remotePut s { part := mPart m, bolt := fld m 0x20 4 % 2 ^ 23, key := mKey m, data := mPay m, tally := fld m 0x28 4 }
  else portEmit s p (portNear p (fld m 0xC 2 % 8192 / 96)) (deliveryPackets p m)

/-- Bolt messages a port has parked, in flits. -/
def parkUsed (q : Port) : Nat := q.park.foldl (fun n m => n + msgFlits m.2) 0

/-- A local data message that is neither refused nor early: its tally is checked, and it goes on (R343). -/
def localTake (s : State) (p : Nat) (m : List Byte) : State :=
  if crc32c (mPay m) == fld m 0x28 4 then deliverMsg s p m
  else
    let s1 := modPort s p (fun q => { q with tlyLocal := satAdd 16 q.tlyLocal 1 })
    deliverMsg (discardMsg (sendEvent s1 (portEvent s p 0x0114 0xFF 0 0xFFFF 0 0)) m (p, 7)) p m

/-- Must a delivered message wait in the receive buffer: an early data message that is not refused, while the park buffer
is full (R318)? -/
def hereWaits (s : State) (q : Port) (p : Nat) (m : List Byte) : Bool :=
  (localCause s m).isNone && s.clk.bell + 1 < mStamp m && parkFlits p < parkUsed q + msgFlits m

/-- The next data message to take: the oldest, or the oldest of the other data class while that one waits (R318). -/
def hereNext (s : State) (p : Nat) (q : Port) : Option (Nat × List Byte) :=
  let data := q.here.filter (fun x => mKind x.2 == 1 || mKind x.2 == 2)
  match data with
  | [] => none
  | x :: _ =>
    if !(hereWaits s q p x.2) then some x
    else match data.find? (fun y => y.1 % 4 != x.1 % 4) with
      | some y => if hereWaits s q p y.2 then none else some y
      | none => none

/-- LOCAL_DELIVERY (R317): the oldest data message that the spine delivers at a port. -/
def execLocalDelivery (p : Nat) (s : State) : Res :=
  if ¬ p < portCount then .refused .noSuchUnit
  else match hereNext s p (getPort s p) with
    | none => .next s
    | some (c, m) =>
      let s1 := modPort s p (fun q => hereFree (c, m) { q with here := q.here.erase (c, m) })
      match localCause s m with
      | some cause =>
        let s2 := if cause == 6 then sendEvent s1 (portEvent s p 0x0155 0xFF 0 0xFFFF 0 0) else s1
        .next (discardMsg s2 m (p, cause))
      | none =>
        if s.clk.bell + 1 < mStamp m then
          .next (modPort s1 p (fun q => { q with park := q.park ++ [(hereClass (c < 4) c, m)], parkedCnt := (q.parkedCnt + 1) % 65536 }))
        else .next (localTake s1 p m)

/-- Bell B has fired: what it lets go leaves the park buffers in arrival order (R318). -/
def parkRelease (s : State) : State :=
  (upto 0 portCount).foldl (fun s p =>
    let go := fun (m : Nat × List Byte) => !(s.clk.bell + 1 < mStamp m.2)
    if (getPort s p).park.any go then
      modPort s p (fun q => { q with here := q.park.filter go ++ q.here, park := q.park.filter (fun m => !(go m)) })
    else s) s

/-! ## Messages for the Reeve (R315, R322, R50) -/

/-- The oldest message of a kind delivered here. -/
def hereFront (s : State) (p kind : Nat) : Option (List Byte × State) :=
  ((getPort s p).here.find? (fun x => mKind x.2 == kind)).map (fun x =>
    (x.2, modPort s p (fun q => hereFree x { q with here := q.here.erase x })))

/-- Where a tile's active pattern sends deadline items: the dest words of its descriptors, [31] a multicast group (R50,
Table 11.9). -/
def itemModules (t : Tile) : List Nat :=
  if !t.installed then []
  else
    (upto 0 (secLen t.store.mem t.actBank 7 / 32)).filterMap (fun i =>
      let d := secRead t.store.mem t.actBank 7 (32 * i) 32
      if fld d 0 1 == 0x60 && fld d 1 1 == 4 && bitAt (fld d 0x1A 1) 0 then some (fld d 0x16 4) else none)

/-- Send lot-abort notices for a context: to every module its patterns send items to, by multicast where they do (R50). -/
def abortNotices (s : State) (n stamp : Nat) : State :=
  let mods := ((partTiles n).flatMap (fun p => itemModules (getTile s p))).eraseDups
  mods.foldl (fun s d =>
    let m := slice (toLe 1 5 ++ toLe 1 (b2n (bitAt d 31)) ++ toLe 2 (getPart s n).key ++ toLe 4 (d % (if bitAt d 31 then 2 ^ 12 else 2 ^ 17)) ++ toLe 4 (s.link.modId % 2 ^ 17) ++ zeros 4
      ++ toLe 8 stamp ++ toLe 8 (curLot s n) ++ zeros 5 ++ toLe 1 s.link.hopLimit) 0 48
    let r := spineMove s 0 true 2 s.link.bank m
    discardOnly r.1 r.2) s

/-- UNDELIVERABLE_REPORT_RECEIVE (R322): the named lot of the sending tile's partition ends Failed with 0x0032, unless it
has ended, and its consumers are told. -/
def execUndeliverableReportReceive (p : Nat) (s : State) : Res :=
  if ¬ p < portCount then .refused .noSuchUnit
  else match hereFront s p 7 with
    | none => .next s
    | some (m, s1) =>
      let n := logPart (fld m 0xE 2 % 8192)
      let lot := fld m 0x18 8
      if n < 12 && (getPart s n).lots.any (fun l => l.number == lot && l.state != 2) then
        let s2 := modPart s1 n (fun q => { q with lots := q.lots.map (fun l =>
          if l.number == lot && l.state != 2 then
            { l with causes := l.causes ++ [(0x0032, s.clk.bell, s.clk.intvCc)], cut := some (l.cut.getD (s.clk.bell + 1)) } else l) })
        .next (abortNotices s2 n (mStamp m))
      else .next s1

/-- LOT_ABORT_NOTICE_RECEIVE (R50): the items of the source's lot are abandoned. -/
def execLotAbortNoticeReceive (p : Nat) (s : State) : Res :=
  if ¬ p < portCount then .refused .noSuchUnit
  else match hereFront s p 5 with
    | none => .next s
    | some (m, s1) =>
      let a : Abandon := { src := mSrc m, lot := fld m 0x18 8, key := mKey m, stamp := mStamp m }
      .next (modLink s1 (fun k => { k with abandoned := if k.abandoned.contains a then k.abandoned else k.abandoned ++ [a] }))

/-- REEVE_MESSAGE_RECEIVE (R315): the Reeve takes a message that is no slow notice; the spec gives no other type. -/
def execReeveMessageReceive (p : Nat) (s : State) : Res :=
  if ¬ p < portCount then .refused .noSuchUnit
  else match hereFront s p 6 with
    | none => .next s
    | some (m, s1) => if fld (mPay m) 0 1 == 0x21 then .next s else .next s1

end Sys2Proof.Machine
end

