-- ==== Sys2Proof/Machine/FlitOut.lean ====
section
/-! DEFINITION. How a port builds the flits it sends: headers, the order of the classes, and data flits with their place in the
replay buffer (spec/11, R301, R310 to R314, R332, R333). Readings of the link rules: DEDUCED, assumption 28. -/

namespace Sys2Proof.Machine

/-! ## Building flits (R310, R311) -/

/-- A flit of a type with its body, as a port would send it now: its acknowledgement and the next credit report. -/
def flitOf (q : Port) (type cls seq first : Nat) (body : List Byte) : List Byte :=
  let ack := match q.rxAck with | some a => a + 32768 | none => 0
  let bs := toLe 1 type ++ toLe 1 cls ++ toLe 2 seq ++ toLe 2 ack ++ toLe 1 q.crNext ++ [0] ++ toLe 2 (kvGet 0 q.crRet q.crNext)
    ++ toLe 2 first ++ slice body 0 240
  bs ++ toLe 4 (crc32 bs)

/-- The lanes up, in rising order. -/
def lanesUp (q : Port) : List Nat := (upto 0 4).filter (fun k => bitAt q.lanes k)

/-- The lanes that the four quarters of the next flit take: stream quarter j goes to the (j mod n) + 1-th of the n lanes up
(R301). -/
def quarterLanes (q : Port) : List Nat :=
  (upto q.quarter 4).map (fun j => (lanesUp q).getD (j % (lanesUp q).length) 0)

/-- A flit has left: its quarters took their lanes, the credit reports rotate, and the link-state count runs (R301, R312,
R313). -/
def flitSent (q : Port) (f : List Byte) : Port :=
  { q with lastTx := f, lastLanes := quarterLanes q, quarter := q.quarter + 4, crNext := (q.crNext + 1) % 4, lsCount := q.lsCount + 1, mgmtGap := q.mgmtGap - 1 }

/-- A replayed flit with the acknowledgement and credit report of now. -/
def flitAgain (q : Port) (f : List Byte) : List Byte :=
  flitOf q (fld f 0 1) (fld f 1 1) (fld f 2 2) (fld f 0xA 2) (slice f 0xC 240)

/-- Fill a body of 240 B from the messages that wait: the bytes, where the first message that starts in it begins, what
is left of the last, and the messages left. -/
def fillBody : List (List Byte) → List Byte → Nat → List Byte × Nat × List Byte × List (List Byte)
  | [], body, first => (body, first, [], [])
  | m :: rest, body, first =>
    let room := 240 - body.length
    if room == 0 then (body, first, [], m :: rest)
    else
      let f := if first == 0xFFFF then body.length else first
      if m.length ≤ room then fillBody rest (body ++ m) f else (body ++ m.take room, f, m.drop room, rest)

/-- Does a class hold bytes to send and a credit? -/
def classReady (q : Port) (c : Nat) : Bool :=
  (!(kvGet [] q.txCur c).isEmpty || !(kvGet [] q.txQ c).isEmpty) && kvGet 0 q.credits c != 0

/-- The class a data flit takes now: LC3, LC2, then the one of LC0 and LC1 whose oldest message became ready first; the
first two take at most one flit in eight while LC0 or LC1 waits (R312). -/
def dataClass (q : Port) : Option Nat :=
  let low := q.ord.find? (classReady q)
  let mgmt := low.isNone || q.mgmtGap == 0
  let up := portUp q
  if (3 ≤ q.st && q.st ≤ 9) && mgmt && classReady q 3 then some 3
  else if up && mgmt && classReady q 2 then some 2
  else if up then low else none

/-- Remove the first n entries of a class from an order. -/
def dropOrd (c : Nat) : Nat → List Nat → List Nat
  | 0, l => l
  | n + 1, l => dropOrd c n (l.erase c)

/-- Send the next data flit of a class: it takes a credit and a place in the replay buffer (R312 to R314). -/
def sendData (q : Port) (c : Nat) : Port :=
  let cur := kvGet [] q.txCur c
  let ms := kvGet [] q.txQ c
  let r := if cur.length ≤ 240 then fillBody ms cur 0xFFFF else (cur.take 240, 0xFFFF, cur.drop 240, ms)
  let ended := (if cur.isEmpty then 0 else 1) + ms.length - r.2.2.2.length - (if r.2.2.1.isEmpty then 0 else 1)
  let whole := (if cur.isEmpty || 240 < cur.length then [] else [kvGet [] q.txHdr c])
    ++ (ms.take (ms.length - r.2.2.2.length - (if r.2.2.1.isEmpty || 240 < cur.length then 0 else 1))).map (fun m => m.take 48)
  let hdr := if r.2.2.1.isEmpty then [] else if 240 < cur.length then kvGet [] q.txHdr c
    else ((ms.drop (ms.length - r.2.2.2.length - 1)).headD []).take 48
  let f := flitOf q 1 c q.txSeq r.2.1 r.1
  let q1 := { q with
    txCur := kvSet [] q.txCur c r.2.2.1
    txQ := kvSet [] q.txQ c r.2.2.2
    txHdr := kvSet [] q.txHdr c hdr
    ord := if c ≤ 1 then dropOrd c ended q.ord else q.ord
    credits := kvSet 0 q.credits c (kvGet 0 q.credits c - 1)
    replay := q.replay ++ [(q.txSeq, f)]
    unacked := if c ≤ 2 then q.unacked ++ whole.map (fun h => (q.txSeq, h)) else q.unacked
    txSeq := (q.txSeq + 1) % 4096
    tx := (q.tx + 1) % 2 ^ 32 }
  let q2 := flitSent q1 f
  if 2 ≤ c then { q2 with mgmtGap := 7 } else q2

/-- Data flits leave, one at each flit boundary, while a class has bytes and a credit. -/
def drainFlits : Nat → Port → Port
  | 0, q => q
  | n + 1, q => match dataClass q with
    | some c => drainFlits n (sendData q c)
    | none => q

/-- The flits that the messages waiting at a port can fill. -/
def flitsWaiting (q : Port) : Nat :=
  (upto 0 4).foldl (fun n c =>
    n + msgFlits (kvGet [] q.txCur c) + (kvGet [] q.txQ c).foldl (fun m x => m + msgFlits x) 0) 0

end Sys2Proof.Machine
end

