-- ==== Sys2Proof/Machine/Training.lean ====
section
/-! DEFINITION. Port training, qualification, light and the writes that control a port (spec/11, R302 to R309, R327,
R330, R332). Readings of the link rules: DEDUCED, assumption 28. -/

namespace Sys2Proof.Machine

/-! ## Leaving Up and starting over (R308, R332) -/

/-- Codes that events without a record bear in the Reeve's inbox: DESIGN CHOICE, assumption 57. Low light (R303). -/
def evLowLight : Nat := 0xF004
/-- Over light (R303). -/
def evOverLight : Nat := 0xF005
/-- Peer changed (R309). -/
def evPeerChanged : Nat := 0xF006
/-- Bell conflict (R330). -/
def evBellConflict : Nat := 0xF007
/-- Clock source lost (R327). -/
def evClockLost : Nat := 0xF008

/-- The link layer as training leaves it: sequences at zero, every receive buffer granted (R313, R314). Messages that still wait
here are outside the buffers granted anew, so they return no credit (DEDUCED, assumption 28). -/
def linkFresh (p : Nat) (q : Port) : Port :=
  { q with
    rxQ := q.rxQ.map (fun m => { m with cls := hereClass (m.cls < 4) m.cls })
    here := q.here.map (fun m => (hereClass (m.1 < 4) m.1, m.2))
    txSeq := 0, replay := [], unacked := [], resend := none, txCur := [], txHdr := []
    credits := (upto 0 4).foldl (fun m c => kvSet 0 m c (rxFlits p c)) []
    crSeen := [], crRet := [], crFree := [], crNext := 0, mgmtGap := 0
    rxSeq := 0, rxAck := none, discarding := false, reqDue := false, reqTries := 0, rxCur := []
    bellDue := false, lsCount := 0, lastLs := [], quarter := 0, probeDue := false }

/-- The LC0, LC1 and LC2 messages queued for a port, and the headers of those partly sent or not yet acknowledged (R332). -/
def portQueued (q : Port) : List (List Byte) :=
  q.unacked.map (fun u => u.2) ++ (upto 0 3).flatMap (fun c => (if (kvGet [] q.txCur c).isEmpty then [] else [kvGet [] q.txHdr c]) ++ kvGet [] q.txQ c)

/-- Discard what is queued for a port that leaves Up (R332), and what it has only partly received; LC3 stays. -/
def portDrain (s : State) (p : Nat) : State :=
  let ms := portQueued (getPort s p)
  let s1 := modPort s p (fun q => { q with
    txQ := kvSet [] [] 3 (kvGet [] q.txQ 3), txCur := kvSet [] [] 3 (kvGet [] q.txCur 3)
    txHdr := kvSet [] [] 3 (kvGet [] q.txHdr 3), ord := [], unacked := [], rxCur := kvSet [] [] 3 (kvGet [] q.rxCur 3) })
  ms.foldl (fun s m => discardMsg s m (p, 1)) s1

/-- Is the module joining a domain: it awaits the bell flit whose count it takes (R330)? -/
def bellJoining (s : State) : Bool := s.ports.any (fun e => e.2.firstBell)

/-- A port that was to bring the module into a domain no longer does (R330). -/
def joinLost (s : State) (p : Nat) : State :=
  if (getPort s p).firstBell then
    modPort (modLink s (fun k => { k with inDomain := false, domain := 0 })) p (fun q => { q with firstBell := false })
  else s

/-- Light on the input that feeds an optical port (R302): input j feeds O4j to O4j + 3. -/
def portLit (s : State) (p : Nat) : Bool := !(portO p) || bitAt s.link.light ((p - 16) / 4)

/-- May a port train: signal on a lane, and light for an O port (R305)? -/
def portTrainable (s : State) (p : Nat) : Bool := (getPort s p).present != 0 && portLit s p

/-- A port in Detect leaves the start's blocking set (R451). -/
def unblock (s : State) (p : Nat) : State := { s with start := { s.start with blocking := clrBit s.start.blocking p } }

/-- A port leaves Up or another state for `st`: Train (2) on the lanes with signal, or Detect where it cannot train; `exit` is
LK_STATUS.EXIT. -/
def portRetrain (s0 : State) (p exit st0 : Nat) : State :=
  let st := if st0 == 2 && !(portTrainable s0 p) then 1 else st0
  let s := if st == 1 then unblock s0 p else s0
  let s0 := modPort s p (fun q => { q with st := st })
  let s1 := if portUp (getPort s p) then
      sendEvent (modPort (portDrain s0 p) p (fun q => { q with exit := exit })) (portEvent s p 0x0141 0xFF 0 0xFFFF 0 8)
    else portDrain s0 p
  modPort (joinLost s1 p) p (fun q => linkFresh p { q with
    st := st, lanes := 0, signal := if st == 2 then q.present else 0, bellActive := false, peerValid := false })

/-- The data of a port is drained before it enters keep-alive (R333): what has a credit is sent, and what was sent is acknowledged
within the 1 ms that the entry takes. -/
def portFlush (q : Port) : Port :=
  if portUp q then { drainFlits (flitsWaiting q) q with replay := [], unacked := [] } else q

/-- A port that runs its lanes goes to Keep-alive: its data is drained, what no credit let go is discarded, and lane 0 alone runs
(R331 to R333). -/
def portKeepAlive (s : State) (p : Nat) : State :=
  let exit := if portUp (getPort s p) then 6 else (getPort s p).exit
  let s1 := modPort s p (fun q => { portFlush q with st := 7 })
  modPort (joinLost (portDrain s1 p) p) p (fun q => linkFresh p { q with st := 7, lanes := 1, bellActive := false, exit := exit })

/-- Does a port run trained lanes: Measure to Failed, Keep-alive apart (Table 11.2)? -/
def portRuns (q : Port) : Bool := 3 ≤ q.st && q.st ≤ 9 && q.st != 7

/-- What a peer's power does to a port (Table 11.12): a peer in keep-alive takes a running port into Keep-alive, and one that has
left it retrains the port, unless this module is in keep-alive itself. -/
def peerPower (s : State) (p : Nat) : State :=
  let q := getPort s p
  if q.peerPwr == 2 && portRuns q then portKeepAlive s p
  else if q.peerPwr == 1 && q.st == 7 && !s.power.keepAlive then portRetrain s p q.exit 2
  else s

/-- A port in Detect that may train does (R305). -/
def trainStart (s : State) (p : Nat) : State :=
  if (getPort s p).st == 1 && portTrainable s p then
    modPort s p (fun q => linkFresh p { q with st := 2, signal := q.present })
  else s

/-- Signal has come on the lanes of a mask: those of a port in Train join the training. -/
def signalOn (lanes : Nat) (q : Port) : Port :=
  { q with present := Nat.lor q.present lanes, signal := if q.st == 2 then Nat.lor q.signal lanes else q.signal }

/-- PORT_SIGNAL_DETECT (R305): signal has come on the lanes of a mask; with light for an O port it starts training. -/
def execPortSignalDetect (p lanes : Nat) (s : State) : Res :=
  if ¬ (p < portCount ∧ lanes < 16) then .refused .noSuchUnit
  else if (getPort s p).st == 0 then .next s
  else .next (trainStart (modPort s p (signalOn lanes)) p)

/-- LANE_TRAIN_TIMEOUT (R305): the lane is left out; with none left the port waits for signal again. -/
def execLaneTrainTimeout (p lane : Nat) (s : State) : Res :=
  if ¬ (p < portCount ∧ lane < 4) then .refused .noSuchUnit
  else
    let q := getPort s p
    if q.st == 2 && bitAt q.signal lane then
      let m := clrBit q.signal lane
      let s1 := modPort s p (fun q => { q with signal := m, st := if m == 0 then 1 else 2 })
      .next (if m == 0 then unblock s1 p else s1)
    else .next s

/-! ## The end of training (R305, R306, R309, R330) -/

/-- Take the state a peer's link-state flit reports (Table 11.11). -/
def takeLinkState (body : List Byte) (q : Port) : Port :=
  { q with
    peerPwr := fld body 5 1 % 4
    peerCmp := fld body 6 1 % 4
    peerFollow := bitAt (fld body 7 1) 0
    peerIn := bitAt (fld body 7 1) 1
    peerDomain := fld body 8 4 % 2 ^ 17
    peerBell := fld body 0xC 8 % 2 ^ 48
    peerVoteT := fld body 0x14 8 % 2 ^ 48
    peerVote := bitAt (fld body 0x1C 1) 0 }

/-- The entries of LK_CLKSRC in order: those valid. -/
def clkEntries (s : State) : List Nat :=
  ((upto 0 4).map (fun k => s.link.clkSrc / 2 ^ (8 * k) % 256)).filterMap (fun e => if bitAt e 7 then some (e % 32) else none)

/-- Is a port Up and following, as a clock source must be (R327)? -/
def portFollows (s : State) (p : Nat) : Bool := portUp (getPort s p) && (getPort s p).followOn

/-- The first clock source that is Up and following (R327). -/
def clkSource (s : State) : Option Nat := (clkEntries s).find? (portFollows s)

/-- Lock to a source, or hold over where there is none any more (R327). -/
def clkLock (s : State) : State :=
  if s.link.root then modLink s (fun k => { k with locked := true, holdover := false, inDomain := true, domain := k.modId % 2 ^ 17 })
  else match clkSource s with
    | some p => modLink s (fun k => { k with locked := true, holdover := false, src := p })
    | none => if s.link.locked then modLink s (fun k => { k with locked := false, holdover := true }) else s

/-- A port enters Held: it carries LC3 traffic only, so what is queued for it is discarded (R309, R330, R332). -/
def portHold (s : State) (p : Nat) : State :=
  let s1 := modPort s p (fun q => { q with st := 8, bellActive := false })
  if portUp (getPort s p) then joinLost (portDrain s1 p) p else s1

/-- The port enters Held over a bell conflict, which is an event (R330). -/
def bellConflict (s : State) (p : Nat) : State :=
  let s1 := modPort (portHold s p) p (fun q => { q with conflict := satAdd 16 q.conflict 1 })
  sendEvent s1 (portEvent s1 p evBellConflict 0xFF 0 0xFFFF 0 0)

/-- Does a following port's peer report another domain, or a count that differs by more than one (R330)? -/
def domainClash (s : State) (q : Port) : Bool :=
  s.link.inDomain && q.peerIn
  && (q.peerDomain != s.link.domain
      || (!(bellJoining s) && (s.clk.bell + 1 < q.peerBell || q.peerBell + 1 < s.clk.bell)))

/-- Check a following port that is Up against its peer's domain: a clash holds it; a module in no domain joins that of its
first clock source, and takes the count of the next bell flit there (R330, R453). -/
def domainCheck (s : State) (p : Nat) : State :=
  let q := getPort s p
  if !(portUp q && q.followOn) then s
  else if domainClash s q then bellConflict s p
  else if !s.link.inDomain && q.peerIn && clkSource s == some p then
    modPort (modLink s (fun k => { k with inDomain := true, domain := q.peerDomain })) p (fun q => { q with firstBell := true })
  else s

/-- Is the peer another than the one expected (R309)? -/
def peerWrong (q : Port) : Bool := q.expCheck && (q.peerMod != q.expMod || q.peerPort != q.expPort)

/-- The lane counts start again when a port enters Qualify or Up (Table 11.15). -/
def lanesZero (q : Port) : Port :=
  { q with lane := (upto 0 4).foldl (fun m k => kvMod {} m k (fun l => { l with cbits := 0, uncorr := 0 })) q.lane }

/-- A port's peer is not the one expected: Held, with an event (R309). -/
def peerHeld (s : State) (p : Nat) : State :=
  let s1 := portHold s p
  sendEvent s1 (portEvent s1 p evPeerChanged 0xFF 0 0xFFFF 0 0)

/-- A port comes Up, or goes to Held where its peer is not the one expected (R309). -/
def portComeUp (s : State) (p st : Nat) : State :=
  if peerWrong (getPort s p) then peerHeld s p
  else
    domainCheck (clkLock (modPort s p (fun q => lanesZero { q with st := st, bellActive := q.followOn }))) p

/-- A Held port whose peer is expected and whose bells do not conflict comes Up, provisional (R309, R330). -/
def heldRelease (s : State) (p : Nat) : State :=
  let q := getPort s p
  if q.st == 8 && !(q.followOn && domainClash s q) && !(peerWrong q) then portComeUp s p 5 else s

/-- The module's own domain may have changed, so Held ports are looked at again (R330: the domains are re-formed). -/
def domainReformed (old s : State) : State :=
  if old.link.inDomain == s.link.inDomain && old.link.domain == s.link.domain then s
  else (upto 0 portCount).foldl heldRelease s

/-- The lane counts of a qualification start again (R307). -/
def laneCountsZero (q : Port) : Port :=
  { q with lane := (upto 0 4).foldl (fun m k =>
      kvMod {} m k (fun l => { l with cbits := 0, uncorr := 0, qpass := false, seconds := 0 })) q.lane }

/-- PORT_TRAINING_COMPLETE (R305): the lanes trained carry the port; `peer` is its identity (module, port), `lat` the
measured latency in ps (in steps of 5 ps, R306), `map` each lane's peer lane and whether its polarity is inverted (R300), and
`ls` the body of the first link-state flit. The first training of a start that ends before the
memory test has ended leads to Qualify (R451), any other to Up, provisional; in keep-alive, the module's or the peer's, it leads
there (R331, R333). -/
def execPortTrainingComplete (p peerMod peerPort lat : Nat) (map : List (Nat × Bool)) (ls : List Byte) (s : State) : Res :=
  if ¬ p < portCount then .refused .noSuchUnit
  else
    let q := getPort s p
    if (q.st == 2 || q.st == 3) && q.signal != 0 then
      let first := !q.trained && s.start.phase < 7 && !s.start.ready
      let s1 := modPort s p (fun q => takeLinkState ls (laneCountsZero { (if q.st == 2 then linkFresh p q else q) with
        lanes := q.signal, trained := true, peerValid := true, peerMod := peerMod % 2 ^ 17, peerPort := peerPort % 32
        lat := lat / 5 * 5 % 2 ^ 32, laneMap := map, probeDue := false, st := 3 }))
      if s.power.keepAlive then .next (modPort s1 p (fun q => { q with st := 7, lanes := 1 }))
      else if first && !(peerWrong (getPort s1 p)) then .next (peerPower (modPort s1 p (fun q => { q with st := 4 })) p)
      else .next (peerPower (portComeUp s1 p 5) p)
    else .next s

/-! ## Qualification (R307, R308) -/

/-- An Up port goes to Qualify by command (Table 15.12): only LC3 stays (R332), and its lanes are counted from the start. -/
def portQualify (s : State) (p : Nat) : State :=
  if portUp (getPort s p) then
    modPort (joinLost (portDrain (modPort s p (fun q => { q with st := 4 })) p) p) p (fun q =>
      laneCountsZero { q with bellActive := false })
  else s

/-- A lane. -/
def laneOf (q : Port) (k : Nat) : Lane := kvGet {} q.lane k
/-- Have all lanes in use passed? -/
def lanesPassed (q : Port) : Bool := (upto 0 4).all (fun k => !(bitAt q.lanes k) || (laneOf q k).qpass)

/-- The ledger entry of a port lane excluded in this start (kind 0x08, Table 16.3). -/
def ledgerAdd (s : State) (kind flags source loc detail : Nat) : Nat × State :=
  let i := s.start.ledger.length
  let e := toLe 4 i ++ toLe 1 kind ++ toLe 1 flags ++ toLe 1 source ++ [0] ++ toLe 4 s.start.number ++ toLe 4 loc
    ++ toLe 8 detail ++ toLe 8 (if s.start.ready then s.clk.bell % 2 ^ 48 else 0)
  let burn := bitAt flags 0 && s.start.fuses.length < 768
  let e1 := if burn then patch e 5 (toLe 1 (setBit flags 1)) else e
  (i, { s with start := { s.start with
    ledger := s.start.ledger ++ [e1]
    fuses := if burn then s.start.fuses ++ [i] else s.start.fuses
    fuseFull := s.start.fuseFull || (bitAt flags 0 && !burn)
    memEntry := s.start.memEntry || kind == 4 || kind == 5 || kind == 7
    added := if s.start.ready then s.start.added else s.start.added + 1
    firstAdded := if s.start.ready || s.start.added != 0 then s.start.firstAdded else i } })

/-- Bits a lane carries in a second at 200 Gb/s (R307). -/
def laneRate : Nat := 200000000000

/-- Does a lane's count pass (R307): at least 10^13 bits, at most one in 10^5 corrected, and no uncorrectable codeword? -/
def lanePasses (cbits uncorr secs : Nat) : Bool :=
  10 ^ 13 ≤ laneRate * secs && 100000 * cbits ≤ laneRate * secs && uncorr == 0

/-- A port becomes Up, qualified, when all lanes in use have passed (R307, R308). -/
def qualifyDone (s : State) (p : Nat) : State :=
  if lanesPassed (getPort s p) then
    let s1 := if (getPort s p).st == 4 then portComeUp s p 6 else modPort s p (fun q => { q with st := 6 })
    if (getPort s1 p).st == 6 then unblock s1 p else s1
  else s

/-- A lane has failed in Qualify (R307): it is left out, and the port requalifies on the lanes that remain; with none it is
Failed, on the lanes that trained (Table 11.2). -/
def laneOut (s : State) (p lane ratio : Nat) : State :=
  let left := clrBit (getPort s p).lanes lane
  let s1 := (ledgerAdd s 8 0 7 (p + 256 * lane) (ratio % 2 ^ 32 * 2 ^ 32)).2
  if left == 0 then unblock (modPort s1 p (fun q => { q with lanes := q.signal, quarter := 0, st := 9 })) p
  else modPort s1 p (fun q => laneCountsZero { q with lanes := left, quarter := 0 })

/-- LANE_QUALIFIED (R307, R308): the count of a lane in Qualify or Up: `cbits` corrected bits and `uncorr` uncorrectable
codewords in `secs` seconds of traffic; the ratio as FP32 is `ratio`. In Qualify a lane fails when its 10^13 bits have not passed,
or with its first uncorrectable codeword; an Up port keeps counting, and a provisional one becomes qualified. -/
def execLaneQualified (p lane cbits uncorr secs ratio : Nat) (s : State) : Res :=
  if ¬ (p < portCount ∧ lane < 4) then .refused .noSuchUnit
  else
    let q := getPort s p
    if !((q.st == 4 || portUp q) && bitAt q.lanes lane) then .next s
    else
      let pass := lanePasses cbits uncorr secs
      let s1 := modPort s p (fun q => { q with lane := kvMod {} q.lane lane (fun l => { l with
        cbits := min (2 ^ 32 - 1) cbits, uncorr := min 65535 uncorr, qpass := l.qpass || pass, seconds := min 32767 secs }) })
      if q.st == 6 then .next s1
      else if pass then .next (qualifyDone s1 p)
      else if q.st == 5 || (secs < 50 && uncorr == 0) then .next s1
      else .next (laneOut s1 p lane ratio)

/-- PORT_ERROR_RATIO_EXIT (R308). -/
def execPortErrorRatioExit (p lane : Nat) (s : State) : Res :=
  if ¬ (p < portCount ∧ lane < 4) then .refused .noSuchUnit
  else if portUp (getPort s p) && bitAt (getPort s p).lanes lane then .next (portRetrain s p 4 2) else .next s

/-- A lane has lost its signal (R308): one in use, or in training, makes the port train again on what signal it has. -/
def laneLost (s : State) (p lane : Nat) : State :=
  let q := getPort s p
  let s1 := modPort s p (fun q => { q with present := clrBit q.present lane })
  if 2 ≤ q.st && bitAt (if q.st == 2 then q.signal else q.lanes) lane then portRetrain s1 p 1 2 else s1

/-- LOSS_OF_SIGNAL (R308). -/
def execLossOfSignal (p lane : Nat) (s : State) : Res :=
  if ¬ (p < portCount ∧ lane < 4) then .refused .noSuchUnit
  else if (getPort s p).st == 0 then .next s
  else .next (laneLost s p lane)

/-! ## Light (R302, R303) -/

/-- A signed power in 0.01 dB steps, read from its 16-bit form. -/
def pwrInt (v : Nat) : Int := if v % 65536 < 32768 then (v % 65536 : Nat) else (v % 65536 : Nat) - 65536

/-- Is an optical lane's number, port * 4 + lane, one of a port of the part? -/
def opticalLane (v : Nat) : Bool := 64 ≤ v && v < 128

/-- The low- and over-light events of a sample (R303): below +17 dBm or above +25 dBm, where the last reading was not. -/
def lightEvents (old : Kv Nat) (s : State) (j v : Nat) : State :=
  let was := pwrInt (kvGet 0x8000 old j)
  let e := fun (code : Nat) => ({ code := code, bell := s.clk.bell, cc := s.clk.intvCc, pay := toLe 1 j ++ toLe 2 v } : Event)
  if pwrInt v < 1700 && (1700 ≤ was || kvGet 0x8000 old j == 0x8000) then sendEvent s (e evLowLight)
  else if 2500 < pwrInt v && was ≤ 2500 then sendEvent s (e evOverLight)
  else s

/-- The readings of a sample: the four inputs, and each optical lane's modulator-input and received power. -/
def lightRead (inputs : List Nat) (lanes : List (Nat × Nat × Nat)) (s : State) : State :=
  let s1 := modLink s (fun k => { k with
    laser := inputs.zipIdx.foldl (fun m v => if v.2 < 4 then kvSet 0x8000 m v.2 (v.1 % 65536) else m) k.laser
    light := inputs.zipIdx.foldl (fun m v => if v.2 < 4 && pwrInt v.1 < 1500 then clrBit m v.2 else m) k.light })
  let s2 := lanes.foldl (fun s v =>
    if opticalLane v.1 then
      modPort s (v.1 / 4) (fun q => { q with lane := kvMod {} q.lane (v.1 % 4) (fun l => { l with
        modIn := v.2.1 % 65536, rx := v.2.2 % 65536 }) })
    else s) s1
  inputs.zipIdx.foldl (fun t v => if v.2 < 4 then lightEvents s.link.laser t v.2 v.1 else t) s2

/-- The input that feeds an optical port has been measured below +15 dBm: loss of light (R303). -/
def lightLost (inputs : List Nat) (p : Nat) : Bool := (inputs.drop ((p - 16) / 4)).head?.any (fun v => pwrInt v < 1500)

/-- LASER_MONITOR_SAMPLE (R303): the powers at the four inputs, and for each optical lane (port * 4 + lane) its
modulator-input and received power. Below +15 dBm the ports an input feeds leave for Detect; a received lane below
-8 dBm has lost its signal. -/
def execLaserMonitorSample (inputs : List Nat) (lanes : List (Nat × Nat × Nat)) (s : State) : Res :=
  if !(domOn s 94) then .next s
  else
  let s1 := lightRead inputs lanes s
  let s2 := (upto 16 16).foldl (fun s p => if lightLost inputs p && 2 ≤ (getPort s p).st then portRetrain s p 2 1 else s) s1
  .next (lanes.foldl (fun s v =>
    if opticalLane v.1 && pwrInt v.2.2 < -800 && bitAt (getPort s (v.1 / 4)).present (v.1 % 4) then
      laneLost s (v.1 / 4) (v.1 % 4)
    else s) s2)

/-- LIGHT_RESTORED (R303): input j has stood at +18 dBm or more for 1 ms, so the ports it feeds train where they have
signal. -/
def execLightRestored (j : Nat) (s : State) : Res :=
  if ¬ j < 4 then .refused .noSuchUnit
  else .next ((upto (16 + 4 * j) 4).foldl trainStart (modLink s (fun k => { k with light := setBit k.light j })))

/-! ## Writes to a port's registers (R309, R334, R443, R518) -/

/-- A write to a persisted setting is also written to flash (R443); keys of the model. -/
def persist (s : State) (k v : Nat) : State :=
  { s with start := { s.start with flash := kvSet none s.start.flash k (some v) } }

/-- The pair of a port: E k and O k. -/
def portPair (p : Nat) : Nat := (p + 16) % 32

/-- Light-request outputs (R302): input j is requested while a port it feeds is enabled; low is asserted. -/
def lightRequest (s : State) : State :=
  { s with pins := { s.pins with
    lreqN := maskOf 4 (fun j => !((upto 0 4).any (fun i => (getPort s (16 + 4 * j + i)).en)) || s.start.phase < 2) } }

/-- Turn a port on, powering its pair's domain, or off; a pair with both ports off is switched off (R465, R518). The Reeve
refuses to enable a fenced port (R388). -/
def portEnable (s : State) (p : Nat) (en : Bool) : State :=
  let q := getPort s p
  if en && q.fenced then s
  else if en then
    if q.en && q.st != 0 then s
    else
      lightRequest (modPort (setDom s (portDom p) .on) p (fun q => { q with en := true, st := 1 }))
  else
    let s1 := if q.st == 0 then s else portRetrain s p q.exit 0
    let s2 := modPort s1 p (fun q => { q with en := false, st := 0, signal := 0, present := 0 })
    let s3 := lightRequest (unblock s2 p)
    if (getPort s3 (portPair p)).en then s3 else setDom s3 (portDom p) .off

/-- A write of LK_CTL (Table 11.13): EN, BELL_FOLLOW (in force from the next bell, R334), RETRAIN. The register stands in D95
(R518). -/
def lkCtlWrite (s : State) (p v : Nat) : State :=
  if !(domOn s 95) then s else
  let en := bitAt v 31
  let s1 := portEnable s p en
  let s2 := modPort s1 p (fun q => { q with follow := bitAt v 30 })
  let s3 := persist s2 (64 + p) (2 * b2n (getPort s2 p).en + b2n (bitAt v 30))
  if bitAt v 29 && portUp (getPort s3 p) then portRetrain s3 p 5 2 else s3

/-- LK_CTL_RETRAIN (R308): a write of LK_CTL with RETRAIN set. -/
def execLkCtlRetrain (p v : Nat) (s : State) : Res :=
  if ¬ p < portCount then .refused .noSuchUnit
  else if bitAt v 29 then .next (withHealth s (lkCtlWrite s p v)) else .next s

/-- LK_CTL_EN_WRITE (R518): a write of LK_CTL without RETRAIN. -/
def execLkCtlEnWrite (p v : Nat) (s : State) : Res :=
  if ¬ p < portCount then .refused .noSuchUnit
  else if bitAt v 29 then .next s else .next (withHealth s (lkCtlWrite s p v))

/-- A write of LK_PEER_EXP (Table 11.13): a Held port whose peer now matches, or is no longer checked, goes Up; a port whose known
peer no longer matches is Held (R309). -/
def peerExpWrite (s : State) (p v : Nat) : State :=
  let s1 := persist (modPort s p (fun q => { q with
    expCheck := bitAt v 31, expPort := bits v 21 17, expMod := bits v 16 0 })) (128 + p) (v % 2 ^ 32)
  let q := getPort s1 p
  if q.peerValid && 4 ≤ q.st && q.st ≤ 6 && peerWrong q then peerHeld s1 p else heldRelease s1 p

/-- LK_PEER_EXP_WRITE (R309): with the port's pair off the register ignores the write (R518). -/
def execLkPeerExpWrite (p v : Nat) (s : State) : Res :=
  if ¬ p < portCount then .refused .noSuchUnit
  else if domOn s (portDom p) then .next (withHealth s (peerExpWrite s p v)) else .next s

/-! ## Clock sources (R327) -/

/-- CLOCK_SOURCE_LOSS (R327): the source port is no longer Up and following; the PLL holds over, and locks to the next entry that
is. -/
def execClockSourceLoss (s : State) : Res :=
  if s.link.root || !s.link.locked || portFollows s s.link.src then .next s
  else .next (clkLock (modLink s (fun k => { k with locked := false, holdover := true })))

/-- CLOCK_SOURCE_LOST (R327): 10 s without a source; the module leaves its domain, with an event. -/
def execClockSourceLost (s : State) : Res :=
  if s.link.holdover && (clkSource s).isNone then
    let e : Event := { code := evClockLost, bell := s.clk.bell, cc := s.clk.intvCc }
    .next (withHealth s (domainReformed s (modLink (sendEvent s e) (fun k => { k with holdover := false, inDomain := false, domain := 0 }))))
  else .next s

end Sys2Proof.Machine
end

