-- ==== Sys2Proof/Machine/Flit.lean ====
section
/-! DEFINITION. The Carter link layer: flits sent and received, retries, and bells across links (spec/11, R310 to R314,
R328 to R330). Readings of the link rules: DEDUCED, assumption 28. -/

namespace Sys2Proof.Machine

/-! ## Flit boundaries (R312, R328) -/

/-- The ps of a number of the module's own cc: 1 cc is 5000/7 ps, longer by 8/(8 - step) in an emergency step (R471). -/
def ccToPs (s : State) (cc : Nat) : Nat := cc * 40000 / (7 * (8 - s.clk.step))

/-- The body of a bell flit (Table 11.10): t_off from the interval cc, the local hold in ns. -/
def bellBody (s : State) : List Byte :=
  slice (toLe 8 (s.clk.bell % 2 ^ 48) ++ toLe 4 (min 10240 (ccToPs s s.clk.intvCc))
    ++ toLe 4 (min (2 ^ 32 - 1) (ccToPs s s.clk.localHold / 1000)) ++ toLe 4 s.link.domain ++ voteBytes s false) 0 240

/-- One flit boundary of a port: the first of R312 that applies, after the probe of a port in Measure. Where the Reeve is lost
the ports carry idle flits (Table 14.9). -/
def flitStep (s : State) (p : Nat) : Port :=
  let q := getPort s p
  let plain := fun (q : Port) (type : Nat) (body : List Byte) => flitSent q (flitOf q type 0 0 0 body)
  if s.reeve.gone then plain q 2 []
  else if q.probeDue then plain { q with probeDue := false } 6 []
  else if q.bellDue && q.bellActive then plain { q with bellDue := false } 3 (bellBody s)
  else if q.reqDue then
    plain { q with reqDue := false, reqTries := q.reqTries + 1, retryReq := satAdd 16 q.retryReq 1 } 4 (toLe 2 q.rxSeq)
  else match q.resend.bind (fun n => q.replay.find? (fun e => e.1 == n)) with
    | some e =>
      let f := flitAgain q e.2
      let nxt := (e.1 + 1) % 4096
      flitSent { q with tx := (q.tx + 1) % 2 ^ 32
                        resend := if q.replay.any (fun x => x.1 == nxt) then some nxt else none } f
    | none =>
      let ls := linkStateBody s p
      if 1024 ≤ q.lsCount || ls != q.lastLs then { plain { q with lastLs := ls } 5 ls with lsCount := 1 }
      else match (if q.replay.length < replayFlits p then dataClass q else none) with
        | some c => sendData q c
        | none => plain q 2 []

/-- A port whose lanes have trained enters Measure (R304, R305): it is to send a probe of its own (R306). The table has no row for
this; the first flit that the port sends or hears marks it: DESIGN CHOICE, assumption 28. -/
def measureStart (q : Port) : Port :=
  if q.st == 2 && q.signal != 0 then { q with st := 3, lanes := q.signal, probeDue := true } else q

/-- FLIT_TRANSMIT (R312): a flit boundary of a port that sends flits. -/
def execFlitTransmit (p : Nat) (s0 : State) : Res :=
  let s := modPort s0 p measureStart
  if ¬ p < portCount then .refused .noSuchUnit
  else if 3 ≤ (getPort s p).st && (getPort s p).st ≤ 9 then .next (modPort s p (fun _ => flitStep s p)) else .next s

/-! ## Receiving (R311, R313, R314) -/

/-- Is a flit whole: 256 B whose CRC is right? -/
def flitGood (f : List Byte) : Bool := f.length == 256 && crc32 (f.take 252) == fld f 252 4

/-- What an acknowledgement leaves in the replay buffer, oldest first: the flits after the one it names (R314). -/
def replayLeft (replay : List (Nat × List Byte)) (ack : Nat) : List (Nat × List Byte) :=
  match replay.findIdx? (fun e => e.1 == ack) with
  | some i => replay.drop (i + 1)
  | none => replay

/-- Take the acknowledgement and the credit report of a good flit (R310, R313). -/
def flitAck (f : List Byte) (q : Port) : Port :=
  let ack := fld f 4 2
  let c := fld f 6 1 % 4
  let n := fld f 8 2
  let d := (n + 65536 - kvGet 0 q.crSeen c) % 65536
  let left := if bitAt ack 15 then replayLeft q.replay (ack % 4096) else q.replay
  { q with
    replay := left
    unacked := q.unacked.filter (fun u => left.any (fun e => e.1 == u.1))
    resend := q.resend.bind (fun n => if left.any (fun e => e.1 == n) then some n else left.head?.map (fun e => e.1))
    credits := kvSet 0 q.credits c (kvGet 0 q.credits c + d)
    crSeen := kvSet 0 q.crSeen c n }

/-- A flit that fails its CRC is discarded whole and counted (R311). -/
def flitBad (q : Port) : Port := { q with crc := satAdd 16 q.crc 1 }

/-- A port in a state that receives flits takes one of a type: `f` when it is whole, `g` when its CRC fails. -/
def flitRow (type p : Nat) (fl : List Byte) (s : State) (f : State → State) (g : Port → Port) : Res :=
  if ¬ p < portCount then .refused .noSuchUnit
  else if !(3 ≤ (getPort s p).st && (getPort s p).st ≤ 9) then .next s
  else if !(flitGood fl) then .next (modPort s p (fun q => g (flitBad q)))
  else if fld fl 0 1 % 16 != type then .next s
  else .next (withHealth s (f (modPort s p (flitAck fl))))

/-- Cut the bytes of a class into messages: whole ones, and the rest of the last. A zero kind is padding. -/
def cutMessages : Nat → List Byte → List (List Byte) → List (List Byte) × List Byte × Nat
  | 0, bs, acc => (acc, bs, 0)
  | n + 1, bs, acc =>
    if bs.isEmpty then (acc, [], 0)
    else if mKind bs == 0 then (acc, [], bs.length)
    else if bs.length < 48 || bs.length < mLen bs then (acc, bs, 0)
    else cutMessages n (bs.drop (mLen bs)) (acc ++ [bs.take (mLen bs)])

/-- Accept a data flit in order: its bytes join its class; whole messages wait for the spine, padding leaves at once. A message
keeps the route bank that is in force when its header is whole (R323). -/
def dataAccept (bank : Nat) (fl : List Byte) (q : Port) : Port :=
  let c := fld fl 1 1 % 4
  let old := kvGet [] q.rxCur c
  let first := if old.length < 48 then bank else kvGet 0 q.rxCurBank c
  let r := cutMessages 8 (old ++ slice fl 0xC 240) []
  freeBytes c r.2.2 { q with
    rxSeq := (q.rxSeq + 1) % 4096
    rxAck := some q.rxSeq
    rx := (q.rx + 1) % 2 ^ 32
    discarding := false
    reqDue := false
    reqTries := 0
    rxCur := kvSet [] q.rxCur c r.2.1
    rxCurBank := kvSet 0 q.rxCurBank c (if r.1.isEmpty && !(old.isEmpty) then first else bank)
    rxQ := q.rxQ ++ r.1.zipIdx.map (fun m => { cls := c, bank := if m.2 == 0 then first else bank, bytes := m.1 }) }

/-- The first discard of a run asks for the expected sequence; the later ones wait for it (R314). -/
def dataDiscard (q : Port) : Port := if q.discarding then q else { q with discarding := true, reqDue := true, reqTries := 0 }

/-- DATA_FLIT_RECEIVE (R314). -/
def execDataFlitReceive (p : Nat) (fl : List Byte) (s : State) : Res :=
  flitRow 1 p fl s (fun s => modPort s p (fun q =>
    if fld fl 2 2 % 4096 == q.rxSeq then dataAccept s.link.bank fl q
    else dataDiscard { q with seqBad := satAdd 16 q.seqBad 1 })) dataDiscard

/-- IDLE_FLIT_RECEIVE (R313): its acknowledgement and its credit report. -/
def execIdleFlitReceive (p : Nat) (fl : List Byte) (s : State) : Res := flitRow 2 p fl s (fun s => s) (fun q => q)

/-- RETRY_REQUEST_RECEIVE (R314): replay from the named sequence. -/
def execRetryRequestReceive (p : Nat) (fl : List Byte) (s : State) : Res :=
  flitRow 4 p fl s (fun s => modPort s p (fun q =>
    let n := fld fl 0xC 2 % 4096
    if q.replay.any (fun e => e.1 == n) then { q with resend := some n, replays := satAdd 16 q.replays 1 } else q)) (fun q => q)

/-- RETRY_REQUEST_REPEAT (R314): the sequence has not come in 2L + 400 ns; the request falls due again. -/
def execRetryRequestRepeat (p : Nat) (s : State) : Res :=
  if ¬ p < portCount then .refused .noSuchUnit
  else if (getPort s p).discarding && (getPort s p).reqTries < 8 then .next (modPort s p (fun q => { q with reqDue := true }))
  else .next s

/-- RETRY_GIVE_UP (R314): eight requests for one sequence, or 10 µs without a good flit (`silent`), make an Up port
retrain. -/
def execRetryGiveUp (p : Nat) (silent : Bool) (s : State) : Res :=
  if ¬ p < portCount then .refused .noSuchUnit
  else
    let q := getPort s p
    if portUp q && (silent || (q.discarding && 8 ≤ q.reqTries)) then .next (withHealth s (portRetrain s p 3 2)) else .next s

/-- PROBE_FLIT_RECEIVE (R306): a probe of the peer is echoed; the echo of an own probe gives the latency, half the round
trip less the peer's turnaround, in ps (`rtt`, `turn` measured, the round trip in steps of 10 ps). Table 11.4 gives the body no
layout. -/
def execProbeFlitReceive (p : Nat) (fl : List Byte) (echo : Bool) (rtt turn : Nat) (s0 : State) : Res :=
  let s := if flitGood fl && fld fl 0 1 % 16 == 6 then modPort s0 p measureStart else s0
  flitRow 6 p fl s (fun s => modPort s p (fun q =>
    if echo then { q with lat := (rtt / 10 * 10 - turn) / 2 % 2 ^ 32 } else flitSent q (flitOf q 6 0 0 0 (slice fl 0xC 240)))) (fun q => q)

/-! ## Votes and link state (R79, R329, R330) -/

/-- A neighbour's vote: a refusal of a change with this target is heard on a port. It is kept and passed on until then, whether or
not this module has such a change (R79). -/
def voteHear (s0 : State) (p voteT : Nat) (vote : Bool) : State :=
  let s := if !vote || voteT ≤ s0.clk.bell % 2 ^ 48 || s0.link.votes.contains (voteT, p) then s0
    else modLink s0 (fun k => { k with votes := k.votes ++ [(voteT, p)] })
  if !vote then s
  else modReeve s (fun r => { r with changes := r.changes.map (fun c =>
    if c.outcome == 0 && (c.kind == 5 || c.kind == 6) && c.target % 2 ^ 48 == voteT && !(c.refusers.contains (unitId 5 p, 7))
    then { c with refusers := c.refusers ++ [(unitId 5 p, 7)] } else c) })

/-- A Held port is let go when the domain its peer reports has changed and no longer conflicts (R330). -/
def peerReformed (s : State) (p domain : Nat) (isIn : Bool) : State :=
  let q := getPort s p
  if q.peerDomain == domain && q.peerIn == isIn then s else heldRelease s p

/-- LINK_STATE_FLIT_RECEIVE (R330, R331). -/
def execLinkStateFlitReceive (p : Nat) (fl : List Byte) (s : State) : Res :=
  flitRow 5 p fl s (fun s =>
    let body := slice fl 0xC 240
    let s1 := modPort s p (takeLinkState body)
    let s2 := peerReformed s1 p (getPort s p).peerDomain (getPort s p).peerIn
    peerPower (domainCheck (voteHear s2 p (fld body 0x14 8 % 2 ^ 48) (bitAt (fld body 0x1C 1) 0)) p) p) (fun q => q)

/-! ## Bell flits (R328 to R330) -/

/-- The module's own whole cc in a time in ps, truncated (R328). -/
def psToCc (s : State) (x : Int) : Int := x * (7 * (8 - s.clk.step) : Nat) / 40000

/-- The own bell nearest in time to a compensated time, in ps from the last own bell: the last, the one before, or the
next at its expected time; none when each is more than P/2 away (R330). -/
def nearestBell (s : State) (x : Int) : Option Nat :=
  let per : Int := (s.clk.periodUs * 1000000 : Nat)
  let next : Int := ccToPs s (intvLen s + s.clk.expectDelay + s.clk.extCc)
  if 2 * x.natAbs ≤ per.natAbs then some s.clk.bell
  else if 2 * (x - next).natAbs ≤ per.natAbs then some (s.clk.bell + 1)
  else if 2 * (x + per).natAbs ≤ per.natAbs then some (s.clk.bell - 1)
  else none

/-- Take the bell flit of a neighbour: `arr` is the arrival of its first bit, in ps from the own last bell. A module that
is joining a domain takes the count and the phase; any other compares the count and takes the delay (R328, R330). -/
def bellTake (s : State) (p arr : Nat) (body : List Byte) : State :=
  let q := getPort s p
  let n := fld body 0 8 % 2 ^ 48
  let x : Int := (arr : Int) - (q.lat : Int) - (fld body 8 4 : Int)
  let s1 := modPort (voteHear s p (fld body 0x14 8 % 2 ^ 48) (bitAt (fld body 0x1C 1) 0)) p (fun q => { q with peerBell := n })
  if !(portUp q && q.bellActive) then s1
  else if q.firstBell then
    let gone := (psToCc s ((q.lat : Int) + (fld body 8 4 : Int))).toNat
    modPort (modClk s1 (fun c => { c with bell := n, intvCc := gone, expectDelay := 0 })) p (fun q => { q with firstBell := false })
  else if bellJoining s then s1
  else if nearestBell s x != some n then bellConflict s1 p
  else if n == s.clk.bell then modClk s1 (fun c => { c with expectDelay := max c.expectDelay (psToCc s x).toNat })
  else s1

/-- BELL_FLIT_RECEIVE (R328). -/
def execBellFlitReceive (p : Nat) (fl : List Byte) (arr : Nat) (s : State) : Res :=
  flitRow 3 p fl s (fun s => bellTake s p arr (slice fl 0xC 240)) (fun q => q)

/-- BELL_FLIT_LOST (R329): the neighbour's predicted time stands, which moves nothing; the loss is counted. -/
def execBellFlitLost (p : Nat) (s : State) : Res :=
  if ¬ p < portCount then .refused .noSuchUnit
  else if portUp (getPort s p) && (getPort s p).bellActive then
    .next (modPort s p (fun q => { q with bellLost := satAdd 16 q.bellLost 1 }))
  else .next s

end Sys2Proof.Machine
end

