-- ==== Sys2Proof/Machine/Recovery.lean ====
section
/-! DEFINITION. Fencing, substitution and resets (spec/14, R386 to R401), and what the Reeve does on a failure event.
Readings of the recovery rules: DEDUCED, assumption 29. -/

namespace Sys2Proof.Machine

/-! ## Staged-change records and long operations (R435, R436) -/

/-- Keep the last 256 changes, and every one that is pending. -/
def changesTrim (cs : List Change) : List Change :=
  cs.zipIdx.filterMap (fun q => if cs.length ≤ q.2 + 256 || q.1.outcome == 0 then some q.1 else none)

/-- Take a staged change in (R76, R435); answers its ID. The Reeve keeps the outcomes of the last 256. -/
def newChange (s : State) (kind parts target page : Nat) (value : List Byte) : Nat × State :=
  let id := s.reeve.nextChange
  (id, modReeve s (fun r => { r with
    nextChange := id + 1
    changes := changesTrim (r.changes ++
      [{ id := id, kind := kind, parts := parts, target := target, value := value, page := page }]) }))

/-- The field a change writes: a group activation and a bank switch both write a tile's active bank. -/
def changeField (kind : Nat) : Nat := if kind == 0x11 then 0x10 else if kind == 0x16 then 0x15 else kind

/-- The scope of a change (Table 2.10, R274): its partitions, or, for a hold limit, a split, a period, new keys and a reseed, all
of the module. -/
def changeScope (kind mask : Nat) : Nat := if 3 ≤ kind && kind ≤ 7 then 1 else mask

/-- The pending change that a new one conflicts with (R78). -/
def stageClash (s : State) (kind mask : Nat) : Option Change :=
  s.reeve.changes.find? (fun x => x.outcome == 0 && changeField x.kind == changeField kind
    && Nat.land (changeScope kind x.parts) (changeScope kind mask) != 0)

/-- The partition pages that an operation's events reach, as a mask (R423): those in its scope, and the page that began it. -/
def opPages (o : Op) : Nat := Nat.lor (o.mask % 2 ^ 12) (if o.page < 12 then 2 ^ o.page else 0)

/-- The state event of a long operation (kind 0x0003). -/
def opEvent (s : State) (o : Op) : State :=
  emitTo s (opPages o) 3 (toLe 4 o.handle ++ toLe 1 o.state ++ [0] ++ toLe 2 o.result)

/-- Has an operation ended (Table 15.9)? -/
def opEnded (o : Op) : Bool := 5 ≤ o.state

/-- The kind of an operation (R436). -/
def opKind (o : Op) : Nat := o.handle / 2 ^ 24

/-- Has an operation its place among the ledger's running ones: running, suspending, cancelling, or suspended after it had begun
(R437)? -/
def opPlaced (o : Op) : Bool := 1 ≤ o.state && o.state ≤ 4 && (o.state != 3 || o.begun)

/-- Change one operation. -/
def modOp (s : State) (h : Nat) (f : Op → Op) : State :=
  modReeve s (fun r => { r with ops := r.ops.map (fun o => if o.handle == h then f o else o) })

/-- End the operations of some kinds whose scope meets a mask: Cancelled, by recovery (R411, R438). -/
def opsCancel (s : State) (kinds : List Nat) (mask : Nat) : State :=
  let hit := fun (o : Op) => !(opEnded o) && o.state != 0 && kinds.contains (opKind o) && Nat.land o.mask mask != 0
  (s.reeve.ops.filter hit).foldl (fun s o =>
    let o1 := { o with state := 6, reason := 2, result := 0 }
    opEvent (modOp s o.handle (fun _ => o1)) o1) s

/-! ## Placing roles (R16, R20) -/

/-- Write the coordinates and keys of a row's routers, and the roles its tiles report (R16, Table 9.8, Table 13.5). -/
def placeRow (s : State) (r : Nat) : State :=
  (upto 0 25).foldl (fun s k =>
    let p := rowTile r k
    let n := physPart p
    modTile s p (fun t =>
      let fenced := t.st == .pinfold
      let role := if fenced then 4 else if (logOf s p).isSome then 0 else 1
      let t1 := { t with hw := { t.hw with role := role } }
      match logOf s p with
      | some l => { t1 with router := { t1.router with
          row := l / 96, col := l % 96, part := n
          key := if fenced then 0 else (getPart s n).key, prev := if fenced then 0 else (getPart s n).prevKey } }
      | none => { t1 with router := { t1.router with row := 0x3F, col := 0x7F, part := 0xF, key := 0, prev := 0 } })) s

/-- The rows of a partition. -/
def partRows (n : Nat) : List Nat := (upto 0 16).map (fun r => 4 * (16 * (n / 4) + r) + n % 4)

/-- Put the hole of a row where its first pinfolded tile lies, or at its east end (R20). -/
def placeSpare (s : State) (r : Nat) : State :=
  let hole := ((upto 0 25).find? (fun k => (getTile s (rowTile r k)).st == .pinfold)).getD 24
  placeRow (modRow s r (fun q => { q with spare := hole })) r

/-! ## What a reset leaves of a tile (R210, R220, Table 14.3) -/

/-- What of a router belongs to the physical tile and stays with it: its counters and their selection, and what TL_RT_BAR shows
(R266, R368). -/
def routerKeep (moved own : Router) : Router :=
  { moved with bar := own.bar, flags := own.flags, flagKeys := own.flagKeys, ports := own.ports, dropKey := own.dropKey, dropStale := own.dropStale, dropUe := own.dropUe
               dropBypass := own.dropBypass, corr := own.corr, sel := own.sel }

/-- A tile after a reset whose scope holds its units, at cycle count `now`: its store and instruction memory cleared, its
banks Empty. What belongs to the physical tile stays: its loom map and its test status. -/
def tileReset (t : Tile) (now : Nat) : Tile :=
  { (({} : Tile)) with
    st := if t.st == .pinfold then .pinfold else .idle
    loom := { failA := t.loom.failA, failB := t.loom.failB }
    hw := t.hw
    seq := { moved := now }
    clerk := { mcycle0 := now, moved := now } }

/-- A context reset of a tile: the routers are kept (Table 14.3), but for what waits at its own local port, and so are the breakpoint
settings, which belong to the physical tile (Table 18.2). -/
def tileCtxReset (t : Tile) (now : Nat) : Tile :=
  { tileReset t now with
    dbg := { bp0 := t.dbg.bp0, bp1 := t.dbg.bp1, ebreakHalt := t.dbg.ebreakHalt }
    router := { t.router with inject := [], eject := [], rooms := [] } }

/-- A router core after a reset: what passes through its bypass stays (R389), packets for its own tile and its combiners go. -/
def routerReset (r : Router) : Router :=
  { row := r.row, col := r.col, part := r.part, key := r.key, prev := r.prev, bufs := r.bufs }

/-- A reset of the tile and its router core; the router's counters stay with the physical tile (R266). -/
def tileFullReset (t : Tile) (now : Nat) : Tile :=
  { tileReset t now with router := { routerKeep (routerReset t.router) t.router with bar := [], flags := 0, flagKeys := [] } }

/-- A tile whose domain has been off: nothing of it or of its router's counters is left (R377, R395). -/
def tileLost (t : Tile) (now : Nat) : Tile := tileReset { t with hw := { t.hw with eccSeen := 0 } } now

/-- An engine reset of the tile (R395): the whole hardware state of the tile and its router core. -/
def tileEngineReset (t : Tile) (now : Nat) : Tile := { tileLost t now with router := routerReset t.router }

/-- May Hayward run its pattern set: a signed one that has verified, in Raw the engine's own, in Service either (R383, R384)? -/
def setRuns (s : State) : Bool :=
  match s.start.lifeCycle with
  | .raw => s.jtag.engine
  | .service => s.start.patSetOk || s.jtag.engine
  | .scrapped => false
  | _ => s.start.patSetOk

/-- The code that a report of corrected link words bears in the Reeve's inbox; it emits no record: DESIGN CHOICE, assumption
57. -/
def evInputEcc : Nat := 0xF003

/-- Hayward reads TL_RT_ECC of the inputs of a tile that it tests: more than 16 corrected words since its last slice are reported
(R377). -/
def sliceEcc (s : State) (p : Nat) : State :=
  let t := getTile s p
  let n := (t.router.corr + 2 ^ 32 - t.hw.eccSeen) % 2 ^ 32
  let s1 := modTile s p (fun t => { t with hw := { t.hw with eccSeen := t.router.corr } })
  if 16 < n then sendEvent s1 (tileEvent s p evInputEcc s.clk.intvCc 0 0 (toLe 4 n)) else s1

/-- The role tiles of a partition that can run (R395). -/
def ctxTiles (s : State) (n : Nat) : List Nat :=
  (partTiles n).filter (fun p => (logOf s p).isSome && (getTile s p).st != .pinfold)

/-- Forget the fetches between stacks of some partitions (R277). -/
def fetchesDrop (s : State) (hit : Nat → Bool) : State :=
  (upto 0 8).foldl (fun s k => modStack s k (fun q => { q with
    remote := q.remote.filter (fun r => r.mill.isNone || !(hit r.part))
    fetched := q.fetched.filter (fun e => !(hit (e.1 / Config.shareBolts))) })) s

/-- Discard a partition's queued and running mill descriptors (R395). -/
def dropMills (s0 : State) (n : Nat) : State :=
  let s := fetchesDrop s0 (fun m => m == n)
  (upto 0 8).foldl (fun s k => modStack s k (fun q => { q with
    queues := kvSet [] q.queues n []
    running := kvSet none q.running n none
    slotQ := q.slotQ.filter (fun x => x.1 != n) })) s

/-! ## Maintenance gives way (R375, R379, R411) -/

/-- Abandon a row's slice or migration: the spare is cleared and free. -/
def rowAbandon (s : State) (r : Nat) : State :=
  let q := getRow s r
  if q.stop == .slice || q.stop == .migrating then
    let s1 := modTile s (holeTile s r) (fun t => { tileFullReset t s.clk.cycles with hw := { t.hw with role := 1 } })
    modRow s1 r (fun q => { q with stop := if q.stop == .slice then .idle else .waiting, mig := none })
  else s

/-- The logical tiles of a partition. -/
def logTiles (n : Nat) : List Nat := (upto 0 384).map (fun i => 96 * (16 * (n / 4) + i / 24) + 24 * (n % 4) + i % 24)

/-- The lot that an assay replays, as its end left it. -/
def assayLot (s : State) (n : Nat) (a : Assay) : Lot :=
  (((getPart s n).ended.find? (fun e => e.lot.number == a.lot)).map (fun e => e.lot)).getD { number := a.lot }

/-- An attachment without its intv_cc (R356; Tables 4.7 and 3.8). -/
def recBare (r : List Byte) : List Byte :=
  if fld r 4 1 == 2 then patch r 12 (zeros 4) else if fld r 4 1 == 9 then patch r 24 (zeros 4) else r

/-- The result of a role as its tile holds it now (R356). -/
def roleResult (s : State) (p : Nat) : Nat × List (List Byte) :=
  ((getTile s p).tally.digest, (tileAttach s p).map (fun x => recBare x.2.2))

/-- The original result of a role. -/
def origResult (l : Lot) (t : Nat) : Nat × List (List Byte) :=
  (kvGet 0 l.digests t, (l.attach.filter (fun r => fld r 0 4 == unitId 1 t)).map recBare)

/-- Are two results equal? -/
def resSame (a b : Nat × List (List Byte)) : Bool :=
  a.1 == b.1 && a.2.length == b.2.length && a.2.all (fun r => b.2.contains r)

/-- The spare position of a logical tile's row at a lot's first bell (R353), and the physical tile the tile then ran on. -/
def spareThen (l : Lot) (t : Nat) : Nat := (l.spares.drop (16 * logPart t + t / 96 % 16)).headD 24
/-- The physical tile of a role when its row's spare stands at a local position (R16). -/
def roleTile (t spare : Nat) : Nat :=
  rowTile (logProw t) (if t % 24 < spare then t % 24 else t % 24 + 1)

/-- The results of replays A and B for a role (R355): in a sweep, B is the replay that moved the role. -/
def replayResults (l : Lot) (a : Assay) (t : Nat) : Option (Nat × List (List Byte)) × Option (Nat × List (List Byte)) :=
  let nth := fun (i : Nat) => ((a.results.drop i).headD []).find? (fun e => e.1 == t)
  ((nth 0).map (fun e => e.2), (nth (if a.mode == 1 && spareThen l t ≤ t % 24 then 2 else 1)).map (fun e => e.2))

/-- The outcome of a role (Table 12.4). -/
def assayOutcome (l : Lot) (a : Assay) (t : Nat) : Nat :=
  match replayResults l a t with
  | (some x, some y) =>
    if a.mode == 0 && a.suspects.contains t && !(a.displaced.contains t) then 6
    else match resSame (origResult l t) x, resSame x y with
      | true, true => 1
      | true, false => 2
      | false, true => 3
      | false, false => if resSame y (origResult l t) then 4 else 5
  | _ => 6

/-- The records of an assay (R357): one for each role not reproducible, and the summary. -/
def assayEvents (s : State) (n : Nat) (a : Assay) : State :=
  let l := assayLot s n a
  let s1 := (logTiles n).foldl (fun s t =>
    let o := assayOutcome l a t
    if o == 1 then s
    else
      let r := replayResults l a t
      let p := roleTile t (spareThen l t)
      sendEvent s { code := 0x01A1, unit := unitId 1 t, loc := 256 * (p / 100) + p % 100, part := n, bell := s.clk.bell
                    cc := s.clk.intvCc, lot := a.lot, pattern := kvGet 0 l.patterns t, payKind := 7
                    pay := toLe 1 o ++ toLe 8 (origResult l t).1 ++ toLe 8 ((r.1.map (fun x => x.1)).getD 0)
                      ++ toLe 8 ((r.2.map (fun x => x.1)).getD 0) }) s
  sendEvent s1 { code := 0x01A1, unit := unitId 4 n, part := n, bell := s.clk.bell, cc := s.clk.intvCc, lot := a.lot }

/-- Lots that waited for an assay start from bell `b` on, in order. -/
def lotsFrom : Nat → List Lot → List Lot
  | _, [] => []
  | b, l :: t =>
    if l.state != 0 then l :: lotsFrom b t
    else
      let st := max b l.start
      { l with start := st } :: lotsFrom (st + l.intervals) t

/-- A partition's assay is over: its tiles are classified from the replays that have ended, and the lots that waited go on
(R354, R357, R358). -/
def assayEnd (s : State) (n : Nat) : State :=
  match (getPart s n).assay with
  | some a =>
    modPart (assayEvents s n a) n (fun p => { p with
      assay := none, lots := lotsFrom (s.clk.bell + 2) p.lots
      endBell := (lotsFrom (s.clk.bell + 2) p.lots).foldl (fun b l => max b (l.start + l.intervals)) p.endBell })
  | none => s

/-- End a partition's assay as cancelled (R358, R411). -/
def assayDrop (s : State) (n : Nat) : State :=
  if (getPart s n).assay.isSome then assayEnd (opsCancel s [4] (2 ^ n)) n else s

/-- Begin a reset of a partition's context, of the partition or, for each of its partitions, of the module (R395, R398): activities in
its scope end, its tiles stop and its lots end, so that it holds no active context. `lvl` is 1, 3 or 4. -/
def beginReset (s : State) (n lvl code : Nat) : State :=
  let cur := ((getPart s n).reset.map (fun r => r.1 % 16)).getD 0
  if lvl ≤ cur || s.pins.thermLatched then s
  else
    let s1 := assayDrop (opsCancel s (if 3 ≤ lvl then [2, 3, 4] else [2, 4]) (2 ^ n)) n
    let s2 := (partRows n).foldl (fun s r =>
      if 3 ≤ lvl || (getRow s r).stop == .migrating then rowAbandon s r else s) s1
    let s3 := (ctxTiles s2 n).foldl (fun s p => modTile s p (fun t => { t with stop := some (t.stop.getD .schedule) })) s2
    let s4 := if lvl == 3 then sendEvent s3 { code := 0x0191, unit := unitId 4 n, part := n, bell := s.clk.bell, cc := s.clk.intvCc
                                              lot := curLot s n, compl := code } else s3
    endLots (modPart s4 n (fun p => { p with reset := some (lvl, s.clk.bell), scan := none, halted := false, resumeAt := none, millMode := 0x30 })) n code

/-! ## Ring resets (R421) -/

/-- Reset a page's rings: indices to 0, unanswered commands gone, and the ring-reset event as event 0. -/
def ringReset (s : State) (n cause : Nat) : State :=
  let s1 := modPage s n (fun q => { q with
    doorbell := 0, cmdCi := 0, rspPi := 0, rspCi := 0, evPi := 0, evCi := 0, evLost := 0, evGap := 0, evSeq := 0
    bad := false, resets := (q.resets + 1) % 256, cqPi := 0, cqCi := 0, held := [] })
  evPut s1 n 6 (toLe 1 (getPage s1 n).resets ++ toLe 1 cause)

/-! ## The pinfold (R386, R387) -/

/-- Fence a tile (R386): its units freeze, so that work under way goes no further and packets at its sinks are refused, its clerk
stops, its key is zeroed and its injections close. Store and registers, the clerk's too, keep their contents ("for the debug
commands … until an engine reset clears them"), where R217 names the pinfold among the states that hold the clerk at reset
(DESIGN CHOICE, assumption 56). It is no suspect any more. -/
def pinfoldTile (s : State) (p cause : Nat) : State :=
  modTile (modRow s (physProw p) (fun q => { q with suspects := q.suspects.filter (fun k => k != p % 100 % 25) })) p (fun t => { t with
    st := .pinfold
    fired := []
    store := { t.store with fin := [] }
    dma := { t.dma with fout := [] }
    clerk := { t.clerk with run := .stopped }
    hw := { t.hw with role := 4, cause := cause }
    router := { t.router with key := 0, prev := 0, inject := [], eject := [] } })

/-- Causes of Table 14.1, in its order from 1, that leave a tile in the pinfold for good (R390). -/
def causePermanent (cause : Nat) : Bool := cause ≤ 3 || cause == 5

/-- The location field of a tile (Table 12.7). -/
def tileLoc (p : Nat) : Nat := 256 * (p / 100) + p % 100

/-- The failure event of a tile (0x0162); `flag` 1 permanent, 2 transient, of an assay, else 0. -/
def tileFailedEvent (s : State) (p compl : Nat) : Event := tileEvent s p 0x0162 s.clk.intvCc compl 0 []

/-- A row without cover (R394): the lots end, and the job's lots are refused. -/
def noCoverRow (s : State) (p : Nat) : State :=
  let n := physPart p
  let s1 := endLots (modPart s n (fun q => { q with noCover := true })) n 0x0047
  sendEvent s1 { code := 0x0194, unit := 0, loc := 256 * (p / 100) + p % 100, part := n, bell := s.clk.bell
                 cc := s.clk.intvCc, lot := curLot s n
                 compl := if (getPart s n).lots.any (fun l => l.state != 2) then 0x0047 else 0 }

/-- After tests of all its tiles a row has no suspect, and has its hole where a pinfolded tile lies, or, where none does, where it was; with
fewer than 24 usable tiles it is without cover (R16, R20, R394). -/
def rowTested (s0 : State) (r : Nat) : State :=
  let s := modRow s0 r (fun q => { q with suspects := [] })
  let pin := (upto 0 25).any (fun k => (getTile s (rowTile r k)).st == .pinfold)
  let s1 := if pin && (getTile s (holeTile s r)).st != .pinfold then placeSpare s r else placeRow s r
  if rowNoCover s1 r then noCoverRow s1 (holeTile s1 r) else s1

/-- The substitution of a failed tile that serves a role (R391): the row's spare becomes the journeyman, and the context
is reset. -/
def substitute (s : State) (p : Nat) : State :=
  let n := physPart p
  let r := physProw p
  let s1 := endLots s n 0x0041
  let s2 := rowAbandon s1 r
  let s3 := placeRow (modRow s2 r (fun q => { q with spare := p % 100 % 25, stop := .idle, mig := none })) r
  beginReset s3 n 1 0x0041

/-- A fence ends the maintenance in its scope (R411): on a row's spare its slice or its migration, of which nothing is cleared there, and
where a role is fenced the assay of the partition. -/
def fenceDrops (s : State) (p : Nat) : State :=
  let r := physProw p
  if (logOf s p).isSome then assayDrop s (physPart p)
  else modRow s r (fun q => { q with stop := .idle, mig := none })

/-- A failed tile enters the repair ledger, and its event bears the entry's index (R361, R449). -/
def failLedger (s : State) (p source : Nat) (e : Event) : State :=
  let (i, s1) := ledgerAdd s 1 1 source (tileLoc p) 0
  sendEvent s1 { e with led := i }

/-- The Reeve decides that a tile is failed (R387): it is fenced, recorded, and its role moves to the journeyman or its
row is without cover. -/
def failTile (s0 : State) (p cause : Nat) : State :=
  if (getTile s0 p).st == .pinfold then s0
  else
    let s := fenceDrops s0 p
    let r := physProw p
    let serves := (logOf s p).isSome
    let cover := tileUsable s (holeTile s r)
    let s1 := pinfoldTile s p cause
    let e := tileFailedEvent s p (if serves then (if cover then 0x0041 else 0x0047) else 0)
    let s3 := if causePermanent cause then failLedger s1 p (if cause == 2 then 4 else 3) e else sendEvent s1 e
    if !serves then s3 else if cover then substitute s3 p else noCoverRow (rowAbandon s3 r) p

/-! ## Table 14.1 over failure events (R387) -/

/-- What the Reeve remembers of an event toward Table 14.1: the cause it may grow into, and the detail that must recur or
differ. -/
def eventMemo (e : Event) : Option (Nat × Nat) :=
  match e.code with
  | 0x0121 => some (4, fld e.pay 0 4 % 2 ^ 28)
  | 0x0123 => some (4, 2 ^ 28 + fld e.pay 0 4)
  | 0x0101 => some (5, fld e.pay 0 4 + 2 ^ 96 * e.lot)
  | 0x0102 => some (5, 2 ^ 64 + fld e.pay 0 3 + 2 ^ 24 * fld e.pay 4 1 + 2 ^ 32 * fld e.pay 6 2 + 2 ^ 96 * e.lot)
  | 0x0124 => if fld e.pay 0 2 == 0 then some (6, e.bell) else none
  | _ => none

/-- Do two memos of one cause within 1,024 bells make the tile failed? Of two residue records, step and desc are equal and the lane or
the vector. -/
def memoMeets (cause a b : Nat) : Bool :=
  let equal := fun (lo hi : Nat) => bits a hi lo == bits b hi lo
  if cause == 5 then
    a / 2 ^ 96 != b / 2 ^ 96 && equal 64 95
      && (if bitAt a 64 then equal 0 23 && (equal 24 31 || equal 32 63) else equal 0 63)
  else a != b

/-- Weigh a tile's event against Table 14.1. A tile that an assay found permanent is failed; an intermittent one is listed as suspect
(R357). -/
def weighEvent (s : State) (e : Event) : State :=
  if e.unit / 2 ^ 28 != 1 then s
  else
    let p := 100 * (e.loc / 256 % 256) + e.loc % 256
    let r := physProw p
    match eventMemo e with
    | none =>
      if e.payKind != 7 then s
      else if fld e.pay 0 1 == 2 then failTile s p 2
      else if fld e.pay 0 1 == 5 then modRow s r (fun q => { q with
          suspects := if q.suspects.contains (p % 100 % 25) then q.suspects else q.suspects ++ [p % 100 % 25] })
      else s
    | some (cause, d) =>
      let old := (getRow s r).hist.filter (fun h => e.bell ≤ h.2.2.2 + 1024)
      let hit := old.any (fun h => h.1 == p && h.2.1 == cause && memoMeets cause h.2.2.1 d)
      let s1 := modRow s r (fun q => { q with hist := old ++ [(p, cause, d, e.bell)] })
      if hit then failTile s1 p cause else s1

/-- FAILURE_EVENT (R359): the oldest event at the Reeve gets its record, and the Reeve decides what it does; after a thermal trip
there is nothing left to act on. -/
def execFailureEvent (s : State) : Res :=
  match s.reeve.inbox with
  | [] => .next s
  | e :: rest =>
    let s1 := modReeve s (fun r => { r with inbox := rest })
    let s2 := if recEmits e.code then
        let r := recEmit s1 e e.led
        recLots r.2 e r.1
      else s1
    let s3 := if 12 ≤ e.part then s2 else traceWatch s2 e.part (fun t => trigCond t == 5 && trigValue t == e.code)
    .next (withHealth s (if s.pins.thermLatched then s3 else weighEvent s3 e))

/-! ## Resets (R395, R396) -/

/-- A reset of a level over a unit has ended; those of the last 1,024 bells are kept for R397. Levels are 1 context, 2 tile, 3 mill,
4 port, 5 partition, 6 module. -/
def resetNote (s : State) (lvl u : Nat) : State :=
  modReeve s (fun r => { r with
    resets := r.resets.filter (fun q => s.clk.bell ≤ q.2.2 + 1024) ++ [(lvl, u, s.clk.bell)] })

/-- CONTEXT_RESET (R395): the tiles of a context that the Reeve has stopped are cleared, and its mill descriptors go. -/
def execContextReset (n : Nat) (s : State) : Res :=
  if ¬ n < 12 then .refused .noSuchUnit
  else match (getPart s n).reset with
    | some (1, b) =>
      let s1 := (ctxTiles s n).foldl (fun s p => modTile s p (fun t => tileCtxReset t s.clk.cycles)) (dropMills s n)
      .next (modPart s1 n (fun p => { p with
        reset := some (17, b), loose := false, skipCc := 0, skipped := 0, halted := false, resumeIn := false }))
    | _ => .next s

/-- A slice on a tile that has just been reset: its outcome in TL_HW_STATUS (R378). -/
def sliceResult (s : State) (p res : Nat) : State :=
  modTile s p (fun t => { t with hw := { t.hw with result := res, partialRes := false, ageS := 0 } })

/-- Add a failed column to a loom map, in order (R134); one it holds already changes nothing. -/
def loomMapAdd (l : Loom) (c : Nat) : Loom :=
  if l.failA == c || l.failB == c then l
  else if 32 < l.failA then { l with failA := c } else { l with failA := min l.failA c, failB := max l.failA c }

/-- Failed columns that a loom map does not hold yet. -/
def newCols (l : Loom) (cols : List Nat) : List Nat := (cols.filter (fun c => l.failA != c && l.failB != c)).eraseDups

/-- Store words of a tile in the ledger, with their failing bits (R447). -/
def ledgerWords (s : State) (p : Nat) : List (Nat × Nat) :=
  s.start.ledger.filterMap (fun e =>
    if fld e 4 1 == 3 && fld e 0xC 4 == tileLoc p && !(bitAt (fld e 5 1) 2) && !(bitAt (fld e 0x10 1) 0) then
      some (8 * (fld e 0x11 2 % 8192) + bits (fld e 0x10 1) 4 1, fld e 0x14 1) else none)

/-- The detail of a store word's ledger entry (Table 16.3): an 8 B word number and its failing bit. -/
def wordDetail (w bit : Nat) : Nat := 2 * (w % 8) + 256 * (w / 8) + 2 ^ 32 * bit

/-- What a slice found: columns that fail, store words with their failing bits, and any other mismatch. -/
structure SliceFound where
  cols : List Nat := []
  words : List (Nat × Nat) := []
  other : Bool := false
  deriving DecidableEq, Repr

/-- Failing store words that the ledger does not hold yet. -/
def newWords (s : State) (p : Nat) (ws : List (Nat × Nat)) : List (Nat × Nat) :=
  (ws.filter (fun w => !((ledgerWords s p).any (fun v => v.1 == w.1)))).eraseDups

/-- Is the finding beyond repair (R378, R447)? -/
def sliceFails (s : State) (p : Nat) (f : SliceFound) : Bool :=
  let l := (getTile s p).loom
  let cs := newCols l f.cols
  let ws := f.words.eraseDups.map (fun w => w.1)
  f.other || f.cols.any (fun c => 32 < c) || 1 < cs.length || (!cs.isEmpty && l.failB ≤ 32)
  || ws.eraseDups.length < ws.length || f.words.any (fun w => (ledgerWords s p).any (fun v => v.1 == w.1 && v.2 != w.2))
  || 8 < (ledgerWords s p).length + (newWords s p f.words).length

/-- Add what a passing slice repairs: the column and the words, to the map and the ledger (R378). An entry emits its record
once the module is ready (R450). -/
def sliceRepair (s : State) (p : Nat) (f : SliceFound) (source : Nat) : State :=
  let s1 := (newCols (getTile s p).loom f.cols).foldl (fun s c =>
    let s1 := modTile s p (fun t => { t with loom := loomMapAdd t.loom c })
    let (i, s2) := ledgerAdd s1 2 1 source (tileLoc p) c
    if s.start.ready then sendEvent s2 { tileEvent s p 0x0161 s.clk.intvCc 0 0 [] with led := i } else s2) s
  (newWords s p f.words).foldl (fun s w => (ledgerAdd s 3 1 source (tileLoc p) (wordDetail w.1 w.2)).2) s1

/-- The outcome of a slice on a tile (R378); `fenced` tells what to do with one that fails. -/
def sliceOutcome (s : State) (p : Nat) (f : SliceFound) (source : Nat) (fenced : State → Nat → State) : State :=
  if sliceFails s p f then fenced (sliceResult s p 3) p
  else sliceResult (sliceRepair s p f source) p (if f.cols.isEmpty && f.words.isEmpty then 1 else 2)

/-- What a test found on a tile: columns, store words with their failing bits, anything else. -/
abbrev TileFound := Nat × List Nat × List (Nat × Nat) × Bool

/-- A slice on a tile that stands in the pinfold: one that fails is entered in the ledger as permanent where it was not, and one that
passes stays fenced until an engine reset (R390). -/
def slicePinned (s : State) (p : Nat) (f : SliceFound) (source : Nat) : State :=
  let cause := (getTile s p).hw.cause
  sliceOutcome s p f source (fun s p =>
    modTile (if causePermanent cause then s else failLedger s p source (tileFailedEvent s p 0)) p
      (fun t => { t with hw := { t.hw with cause := if causePermanent cause then cause else 1 } }))

/-- The slices of a list of tiles (R378, R395, R447), each after its input counters have been read (R377): `found` lists the ones whose
slice finds something; `fenced` tells what to do with one that fails. A pattern set that has not verified is not run (R384). -/
def sliceAll (s : State) (ps : List Nat) (found : List TileFound) (source : Nat) (fenced : State → Nat → State) : State :=
  if !(setRuns s) then s
  else ps.foldl (fun s0 p =>
    let s := sliceEcc s0 p
    let f := (found.find? (fun f => f.1 == p)).map (fun f => f.2)
    let x : SliceFound := (f.map (fun f => { cols := f.1, words := f.2.1, other := f.2.2 })).getD {}
    if (getTile s p).st == .pinfold then slicePinned s p x source else sliceOutcome s p x source fenced) s

/-- A tile that fails its slice in a reset is fenced, entered in the ledger and reported (R378, R459). -/
def resetFence (s : State) (p : Nat) : State := failLedger (pinfoldTile s p 1) p 3 (tileFailedEvent s p 0)

/-- An engine reset of a tile that serves a role (R396): a substitution, where the row has cover. -/
def engineTile (s : State) (p : Nat) : State :=
  if tileUsable s (holeTile s (physProw p)) then substitute (pinfoldTile s p 7) p else noCoverRow (pinfoldTile s p 7) p

/-- A tile that the ledger holds as permanent is repaired in Service: the entries that pinfold it are marked cleared by a further one
(R390, R449). -/
def ledgerClear (s : State) (p : Nat) : State :=
  let mine := fun (e : List Byte) => fld e 4 1 == 1 && fld e 0xC 4 == tileLoc p
  let s1 := { s with start := { s.start with
    ledger := s.start.ledger.map (fun e => if mine e then patch e 5 (toLe 1 (setBit (fld e 5 1) 2)) else e) } }
  (ledgerAdd s1 1 4 8 (tileLoc p) 0).2

/-- May a pinfolded tile leave once it has passed a slice: for a cause that R390 lets go, or in the Service state? -/
def pinfoldLeaves (s : State) (cause : Nat) : Bool := !(causePermanent cause) || s.start.lifeCycle == .service

/-- ENGINE_RESET_TILE (R395): a pinfolded or spare tile is reset and slice-tested; `found` is what the slice finds. A tile in the
pinfold leaves it only where R390 lets it go and after a passing slice; a tile that serves a role is taken as a substitution
(R396). Without a verified pattern set there is no slice (R384). -/
def execEngineResetTile (p : Nat) (found : List Nat × List (Nat × Nat) × Bool) (s : State) : Res :=
  if ¬ p < tileCount then .refused .noSuchUnit
  else
    let t := getTile s p
    let r := physProw p
    let f : SliceFound := { cols := found.1, words := found.2.1, other := found.2.2 }
    if t.st == .pinfold then
      let s1 := resetNote (modTile s p (fun t => tileEngineReset t s.clk.cycles)) 2 p
      if !(setRuns s) then .next s1
      else
        let s2 := slicePinned s1 p f 3
        if sliceFails s1 p f || !(pinfoldLeaves s t.hw.cause) then .next s2
        else
          let s3 := modTile (if causePermanent t.hw.cause then ledgerClear s2 p else s2) p (fun t => { t with st := .idle })
          let s4 := modPart s3 (physPart p) (fun q => { q with
            noCover := (partRows (physPart p)).any (fun r => rowNoCover s3 r) && q.noCover })
          .next (withHealth s (placeRow s4 r))
    else if (logOf s p).isNone then
      let s1 := rowAbandon s r
      let s2 := resetNote (modTile s1 p (fun t => { tileEngineReset t s.clk.cycles with hw := { t.hw with role := 1, eccSeen := 0 } })) 2 p
      .next (withHealth s (if setRuns s then sliceOutcome s2 p f 3 (fun s p => failTile s p 1) else s2))
    else .next (withHealth s (engineTile s p))

/-- A module-compute reset begins (R395, R398, R459): its event, every long operation of its scope and every context ends, and so does
every lot. After a thermal trip no domain but D92 comes back (R499). -/
def computeBegin (s : State) : State :=
  if s.pins.thermLatched then s else
  let s1 := if s.reeve.computeReset then s
    else sendEvent s { code := 0x0192, bell := s.clk.bell, cc := s.clk.intvCc, compl := 0x0045 }
  modReeve ((upto 0 12).foldl (fun s n => beginReset s n 4 0x0045) (opsCancel s1 [1, 2, 3, 4] (2 ^ 32 - 1)))
    (fun r => { r with computeReset := true })

/-- A stack is lost (R388): what waits at its interface is answered (R532), the module is compute-lost, and a module-compute reset
follows. -/
def stackLost (s : State) (k : Nat) : State :=
  computeBegin (lostAnswer (modStack s k (fun q => { q with lost := true, fenced := true })) k)

/-- UCIE_MODULE_FENCE (R271): module m of the stack is fenced; the loss of a second one is loss of the stack. -/
def execUcieModuleFence (k m : Nat) (s : State) : Res :=
  if ¬ (k < stackCount ∧ m < 8) then .refused .noSuchUnit
  else if !(bitAt (getStack s k).ucieUp m) then .next s
  else
    let up := clrBit (getStack s k).ucieUp m
    let s1 := modStack s k (fun q => { q with ucieUp := up })
    let s2 := sendEvent s1 (stackEvent s1 k 0x0172 0xFFFF 0xFF 0)
    .next (withHealth s (if countOf 8 (bitAt up) < 7 && !(getStack s k).lost then stackLost s2 k else s2))

/-- An engine reset of a mill (R396): every lot of every partition with a descriptor in the mill ends with 0x0033, the tiles' posts
are answered (R532), a patrol pass ends (R411). -/
def engineMill (s : State) (k : Nat) : State :=
  let q := getStack s k
  let s1 := (upto 0 12).foldl (fun s n =>
    if !(kvGet [] q.queues n).isEmpty || (kvGet none q.running n).isSome then endLots s n 0x0033 else s) s
  resetNote (modStack (opsCancel (postsAnswer s1 k) [1, 3] (2 ^ (16 + k))) k (fun q => { q with
    queues := [], running := [], slotQ := [], nan := [], nanCount := [], fetched := [], turn := 0, scrubPos := 0, rowCorr := [] })) 3 k

/-- ENGINE_RESET_MILL (R396); a fault it does not clear fences the mill (R388). -/
def execEngineResetMill (k : Nat) (clears : Bool) (s : State) : Res :=
  if ¬ k < stackCount then .refused .noSuchUnit
  else .next (withHealth s (if clears then engineMill s k else stackLost (engineMill s k) k))

/-- Lots of this module whose messages a port still holds. -/
def portLots (s : State) (p : Nat) : List (Nat × Nat) :=
  (portQueued (getPort s p)).filterMap (fun m =>
    if (mKind m == 1 || mKind m == 2) && mSrc m == s.link.modId % 2 ^ 17 then some (logPart (fld m 0xE 2 % 8192), fld m 0x18 8) else none)

/-- A port is fenced (R388): Off, EN reads 0; a qualification that runs on it ends (R411). -/
def portFence (s : State) (p : Nat) : State :=
  modPort (portEnable (opsCancel s [6] (2 ^ (32 + p))) p false) p (fun q => { q with fenced := true })

/-- The domain of a port pair fails: the two ports are fenced as a pair (R29, R388). -/
def pairFence (s : State) (k : Nat) : State := portFence (portFence s k) (k + 16)

/-- An engine reset of a port (R395): its buffers are cleared and it retrains; lots whose messages it held end with 0x0043, and a
qualification that runs on it ends (R411). -/
def enginePort (s : State) (p : Nat) : State :=
  let s1 := (portLots s p).foldl (fun s l => modPart s l.1 (fun q => { q with
    lots := q.lots.map (fun x => if x.number == l.2 then endLot s l.1 0x0043 x else x) })) (opsCancel s [6] (2 ^ (32 + p)))
  resetNote (modPort (portRetrain s1 p 5 2) p (fun q => { q with rxQ := [], here := [], park := [], meshOut := [] })) 4 p

/-- ENGINE_RESET_PORT (R395): a second failure within 1,024 bells fences the port (R388). -/
def execEngineResetPort (p : Nat) (ok : Bool) (s : State) : Res :=
  if ¬ p < portCount then .refused .noSuchUnit
  else if !(getPort s p).en then .next s
  else
    let past := (getPort s p).resetBells.filter (fun b => s.clk.bell ≤ b + 1024)
    if ok then .next (withHealth s (enginePort s p))
    else
      let s4 := modPort (enginePort s p) p (fun q => { q with resetBells := past ++ [s.clk.bell] })
      .next (withHealth s (if past.isEmpty then s4 else portFence s4 p))

/-- PARTITION_RESET (R395): the tile-row domains are cycled, the combiners, trace unit, mill queues and mailbox rings go,
and every tile is slice-tested; `found` is what the slices find. -/
def execPartitionReset (n : Nat) (found : List TileFound) (s : State) : Res :=
  if ¬ n < 12 then .refused .noSuchUnit
  else match (getPart s n).reset with
    | some (3, b) =>
      let s1 := (partTiles n).foldl (fun s p => modTile s p (fun t => tileFullReset t s.clk.cycles)) (dropMills s n)
      let s2 := sliceAll s1 (partTiles n) found 3 resetFence
      let s3 := (partRows n).foldl rowTested (ringReset s2 n 2)
      let s4 := modPart s3 n (fun p => { p with
        reset := some (19, b), trace := {}, patMap := [], loose := false, skipCc := 0, skipped := 0, halted := false })
      .next (withHealth s s4)
    | _ => .next s

/-- Apply the tile entries of the repair ledger (R450): loom maps and the pinfold, where a third failed column places a tile too
(R133). -/
def ledgerTiles (s : State) : State :=
  s.start.ledger.foldl (fun s e =>
    let loc := fld e 0xC 4
    let p := 100 * (loc / 256 % 256) + loc % 256
    if bitAt (fld e 5 1) 2 || !(p < tileCount && loc % 256 < 100) then s
    else if fld e 4 1 == 2 then
      let c := fld e 0x10 1
      let l := (getTile s p).loom
      if 32 < c || l.failA == c || l.failB == c then s
      else if 32 < l.failA then modTile s p (fun t => { t with loom := { l with failA := c } })
      else if 32 < l.failB then modTile s p (fun t => { t with loom := { l with failA := min l.failA c, failB := max l.failA c } })
      else pinfoldTile s p 3
    else if fld e 4 1 == 1 then pinfoldTile s p 1
    else s) s

/-- Apply the stack entries (R450): lost stacks and fenced UCIe modules; two distinct fenced modules lose the stack. -/
def ledgerStacks (s : State) : State :=
  s.start.ledger.foldl (fun s e =>
    let k := fld e 0xC 1
    if bitAt (fld e 5 1) 2 || !(k < 8) then s
    else if fld e 4 1 == 5 then modStack s k (fun q => { q with lost := true })
    else if fld e 4 1 == 7 then
      modStack s k (fun q =>
        let up := clrBit q.ucieUp (fld e 0x10 1 % 8)
        { q with ucieUp := up, lost := q.lost || countOf 8 (bitAt up) < 7 })
    else s) s

/-- All tiles of the part. -/
def allTiles : List Nat := (upto 0 48).flatMap (fun r => (upto 0 100).map (fun c => 100 * r + c))

/-- Switch every compute domain to a state (Table 17.3). -/
def computeDomains (s : State) (v : DomSt) : State := (upto 0 76).foldl (fun s d => setDom s d v) s

/-- The compute side through the steps of Table 16.7: all tile and mill state is lost (Table 14.3), but for the rows whose hard repair
is due at the next start; `stacks` is the mask of the stacks that caused it, `found` what the
slices find. -/
def computeRestart (s : State) (mems : Nat) (found : List TileFound) : State :=
  let s1 := (upto 0 12).foldl (fun s n =>
    modPart (endLots (dropMills (assayDrop s n) n) n 0x0045) n (fun p => { p with
      trace := traceClear p.trace, patMap := [], loose := false, skipCc := 0, skipped := 0, halted := false, scan := none, resumeAt := none, millMode := 0x30 })) s
  let s2 := (upto 0 8).foldl (fun s k => modStack s k (fun q =>
    ({ lost := q.lost || bitAt mems k, fenced := q.fenced, ucieUp := q.ucieUp, rowFix := q.rowFix } : Stack))) s1
  let s3 := (upto 0 192).foldl (fun s r => modRow s r (fun q => { q with stop := .idle, mig := none })) s2
  let s4 := allTiles.foldl (fun s p => modTile s p (fun t => tileLost t s.clk.cycles)) s3
  let s5 := sliceAll (ledgerStacks (ledgerTiles (computeDomains s4 .on))) allTiles found 3 resetFence
  let s6 := (upto 0 8).foldl (fun s k => if (getStack s k).lost then setDom (setDom s (60 + k) .off) (68 + k) .off else s) s5
  (upto 0 192).foldl (fun s r => rowTested (placeSpare s r) r) s6

/-- MODULE_COMPUTE_RESET (R459). -/
def execModuleComputeReset (mems : Nat) (found : List TileFound) (s : State) : Res :=
  if !s.reeve.computeReset then .next s
  else
    let s1 := computeRestart (opsCancel s [1, 2, 3, 4] (2 ^ 32 - 1)) mems found
    let s2 := (upto 0 12).foldl (fun s n => modPart s n (fun p => { p with reset := some (20, s.clk.bell) })) s1
    .next (withHealth s s2)

/-! ## Reloads and the end of a reset (R391, R392, R395) -/

/-- Bolt b of a share goes to store address `a` of a tile through its fabric-in, as an ordinary memory read on the Reeve's behalf
(R285): it is read at its stack, its lines are written, and the whole bolt is checked (R338). What fabric-in refuses, it refuses
line by line (R60, R198). -/
def boltLoad (p n a b : Nat) (s : State) : State :=
  let r := spineRead s true n b 0 64
  let s1 := r.2.2
  let cc := ctxCc s1 (physPart p)
  let c := ctxOf s1 p
  let line := fun (i : Nat) => slice r.1 (64 * i) 64
  let c1 := if a + 4096 ≤ Config.storeBytes && !(inActiveBank c.t a 4096) then
      ctxTile c (fun t => bankTouch (rawWriteAt t 6 cc a r.1) a 4096)
    else ((upto 0 64).foldl (fun (q : Nat × Ctx) i => finLine q.1 q.2 (a + 64 * i) (line i)) (cc, c)).2
  applyCtx s1 (arriveCheck cc
    { src := boltEp s n b, kind := 0xC, sub := 0, start := a / 64, aux := r.2.1, auxDiffer := false
      lines := (upto 0 64).map (fun i => (a / 64 + i, line i)) } (boltEp s n b) c1)

/-- Bolts b to b + count − 1 go to a tile's store from address `a` on. -/
def boltsLoad (p n a b count : Nat) (s : State) : State := (upto 0 count).foldl (fun s i => boltLoad p n (a + 4096 * i) (b + i) s) s

/-- The bytes of some bolts of a share. -/
def shareBytes (s : State) (n b count : Nat) : List Byte := (upto 0 count).flatMap (fun i => boltBytes s n (b + i))

/-- Does a bolt of a range fail its tally or its ECC? -/
def shareBad (s : State) (n b count : Nat) : Bool :=
  (upto 0 count).any (fun i => (boltMeta s n (b + i)).written && (!(boltGood s n (b + i)) || (boltMeta s n (b + i)).poison))

/-- Copy the bolts of one load entry into its bank (Table 15.7). -/
def bankFill (s : State) (n : Nat) (e : List Byte) : State :=
  boltsLoad (physOf s (fld e 0 2)) n (bankBase (fld e 2 1 % 4)) (fld e 4 4) (fld e 8 1) s

/-- Reload one entry of the pattern map: the bolts, then the load (R391). -/
def reloadEntry (s : State) (n : Nat) (e : List Byte) : State :=
  loadBank (bankFill s n e) (physOf s (fld e 0 2)) (fld e 2 1 % 4) (bitAt (fld e 3 1) 0)

/-- The entries of a lot's reload list (Table 10.2), and the Reeve's reading of it. -/
def lotList (s : State) (n : Nat) (l : Lot) : List (List Byte) × State :=
  if Config.shareBolts ≤ l.reloadBolt then ([], s)
  else
    let count := (16 * l.reloadN + 4095) / 4096
    let bs := shareBytes s n l.reloadBolt count
    ((upto 0 l.reloadN).map (fun i => slice bs (16 * i) 16), shareTake s n l.reloadBolt count)

/-- The reload list that stands for a partition: of its last lot that named one (R285). -/
def reloadList (s : State) (n : Nat) : List (List Byte) × State :=
  let ls := (getPart s n).ended.map (fun e => e.lot) ++ (getPart s n).lots
  match (ls.filter (fun l => l.start ≤ s.clk.bell && l.reloadBolt < Config.shareBolts)).getLast? with
  | none => ([], s)
  | some l => lotList s n l

/-- Reload one resident weight buffer (Table 10.2): the entry whose phase is the role's. -/
def reloadWeight (s : State) (n : Nat) (e : List Byte) : State :=
  let l := fld e 0 2
  let p := physOf s l
  if l < 4608 && logPart l == n && (getTile s p).seq.intervals % max 1 (fld e 2 1) == fld e 3 1 then
    boltsLoad p n (fld e 4 4) (fld e 8 4 % 2 ^ 23) (fld e 0xC 2) s
  else s

/-- Reload a context: every bank of the pattern map, the installed one last, and the resident weights (R391). The tiles take the
modes that a staged change has given the context since its reset began (R80). -/
def reloadCtx (s : State) (n : Nat) : State :=
  let es := (getPart s n).patMap.filter (fun e => (getTile s (physOf s (fld e 0 2))).st != .pinfold)
  let s1 := (es.filter (fun e => !(bitAt (fld e 3 1) 0)) ++ es.filter (fun e => bitAt (fld e 3 1) 0)).foldl
    (fun s e => reloadEntry s n e) s
  let s2 := es.foldl (fun s e => modTile s (physOf s (fld e 0 2)) (fun t => { t with num := { t.num with mode := (getPart s n).millMode } })) s1
  (reloadList s2 n).1.foldl (fun s e => reloadWeight s n e) (reloadList s2 n).2

/-- The bolts of a context's reload: physical tile, store address and bolt. -/
def reloadBolts (s : State) (n : Nat) : List (Nat × Nat × Nat) :=
  let of := fun (l a b count : Nat) => (upto 0 count).map (fun i => (physOf s l, a + 4096 * i, b + i))
  (getPart s n).patMap.flatMap (fun e => of (fld e 0 2) (bankBase (fld e 2 1 % 4)) (fld e 4 4) (fld e 8 1))
  ++ (reloadList s n).1.flatMap (fun e =>
    if fld e 0 2 < 4608 then of (fld e 0 2) (fld e 4 4) (fld e 8 4 % 2 ^ 23) (fld e 0xC 2) else [])

/-- The first bolt of a reload that fails its tally or its ECC. -/
def reloadBad (s : State) (n : Nat) : Option (Nat × Nat × Nat) := (reloadBolts s n).find? (fun q => shareBad s n q.2.2 1)

/-- A bolt of the reload fails at fabric-in, is read once more and fails again (R393). -/
def reloadTwice (s : State) (n : Nat) (q : Nat × Nat × Nat) : State :=
  boltLoad q.1 n q.2.1 q.2.2 (boltLoad q.1 n q.2.1 q.2.2 s)

/-- RESET_COMPLETE (R395): a context is reloaded to Joining and its activation staged (R78: an activation that is pending takes
its tiles in, and after a switch that is pending, or a decided activation, the reload waits), or a partition (or, after a
module-compute reset, each partition) is Idle; partition 12 stands for the module. -/
def execResetComplete (n : Nat) (s : State) : Res :=
  if n == 12 then
    if s.reeve.computeReset && (upto 0 12).all (fun k => (getPart s k).reset.any (fun r => r.1 == 20)) then
      let s1 := (upto 0 12).foldl (fun s k => modPart s k (fun p => { p with
        reset := none, lost := false, noCover := (partRows k).any (rowNoCover s) })) s
      let s2 := (upto 0 32).foldl (fun s p => modPort s p (fun q => { q with fenced := false })) s1
      .next (withHealth s (resetNote (modReeve s2 (fun r => { r with computeReset := false })) 6 0))
    else .next s
  else if ¬ n < 12 then .refused .noSuchUnit
  else match (getPart s n).reset with
    | some (17, _) =>
      let past := resetNote (modPart s n (fun p => { p with reset := none })) 1 n
      if (getPart s n).patMap.isEmpty then .next past
      else match reloadBad s n with
      | some q => .next (withHealth s (beginReset (reloadTwice s n q) n 3 0x0044))
      | none => if loadsDeferred s then .next s
      else match stageClash s 0x10 (2 ^ n) with
        | none => .next (newChange (reloadCtx past n) 0x10 (2 ^ n) (s.clk.bell + 2) 16 []).2
        | some c => if c.kind == 0x10 && !c.evaluated then .next (reloadCtx past n) else .next s
    | some (19, _) =>
      .next (withHealth s (resetNote (modPart s n (fun p => { p with
        reset := none, noCover := (partRows n).any (rowNoCover s) })) 5 n))
    | _ => .next s

/-! ## Escalation and the loss of the module (R397, R399, R412) -/

/-- Request a power cycle (R399): ALERT_N low, and event 0x0193 over the sideband. -/
def requestCycle (s : State) : State :=
  let s1 := { s with pins := { s.pins with alertN := false, alertLatched := true } }
  sendEvent (modReeve s1 (fun r => { r with cycleReq := true })) { code := 0x0193, bell := s.clk.bell, cc := s.clk.intvCc }

/-- Does a failure record name a level's scope: a context or partition, a tile, a mill, a port, or the module (R397)? -/
def recInScope (lvl u : Nat) (r : List Byte) : Bool :=
  match lvl with
  | 1 | 5 => recFld r 0x14 2 == u
  | 2 => recFld r 0xC 4 / 2 ^ 28 == 1 && recFld r 0x10 4 % 65536 == tileLoc u
  | 3 => recFld r 0xC 4 == unitId 2 u
  | 4 => recFld r 0xC 4 == unitId 3 u
  | _ => true

/-- Has an event code been recorded in a level's scope before a reset of it ended, and again within the 1,024 bells after (R397)? -/
def recursAfter (s : State) (lvl u code : Nat) : Bool :=
  let bells := (s.reeve.recs.filter (fun r => recFld r.2 4 2 == code && recInScope lvl u r.2)).map (fun r => recFld r.2 0x18 8)
  s.reeve.resets.any (fun q => q.1 == lvl && q.2.1 == u && bells.any (fun b => b ≤ q.2.2)
    && bells.any (fun b => q.2.2 < b && b ≤ q.2.2 + 1024))

/-- Has a reset that goes on lasted longer than Table 14.3 gives: 2 ms a context, 40 ms a partition, 400 ms the module? -/
def resetOver (s : State) (lvl u : Nat) : Bool :=
  let late := fun (n mode us : Nat) => (getPart s n).reset.any (fun r => r.1 % 16 == mode && us ≤ (s.clk.bell - r.2) * s.clk.periodUs)
  match lvl with
  | 1 => late u 1 2000
  | 5 => late u 3 40000
  | 6 => (upto 0 12).any (fun n => late n 4 400000)
  | _ => false

/-- The units that the failure records of a context name, by their IDs (R81, Table 14.4): tiles, mills and ports. -/
def namedUnits (s : State) (n : Nat) : List Nat :=
  ((s.reeve.recs.filter (fun r => recFld r.2 0x14 2 == n && s.clk.bell ≤ recFld r.2 0x18 8 + 1024)).map (fun r =>
    recFld r.2 0xC 4)).eraseDups.filter (fun u => 1 ≤ u / 2 ^ 28 && u / 2 ^ 28 ≤ 3)

/-- Does the cause of an event code lie outside a level's region (R397, Table 1.5): its record in the scope of a context or a partition
names a mill or a port, that in the partition of a tile another unit than the tile? -/
def causeOutside (s : State) (lvl u code : Nat) : Bool :=
  s.reeve.recs.any (fun r => recFld r.2 4 2 == code && s.clk.bell ≤ recFld r.2 0x18 8 + 1024 && (match lvl with
    | 1 | 5 => recFld r.2 0x14 2 == u && (recFld r.2 0xC 4 / 2 ^ 28 == 2 || recFld r.2 0xC 4 / 2 ^ 28 == 3)
    | 2 => recFld r.2 0x14 2 == physPart u && recFld r.2 0xC 4 / 2 ^ 28 != 1
    | _ => false))

/-- The engine reset of a unit that a context's records name. -/
def engineUnit (s : State) (n u : Nat) : State :=
  let i := u % 2 ^ 24
  match u / 2 ^ 28 with
  | 1 => if i < 4608 && logPart i == n && (getTile s (physOf s i)).st != .pinfold then engineTile s (physOf s i) else s
  | 2 => if i < stackCount then engineMill s i else s
  | _ => if i < portCount && (getPort s i).en then enginePort s i else s

/-- The level that a level over unit u goes to (Table 14.4); `fwd` says that a partition's forwarding is at fault. -/
def escalate (lvl u : Nat) (fwd : Bool) (s : State) : State :=
  match lvl with
  | 1 => if (namedUnits s u).isEmpty then beginReset s u 3 0x0044 else (namedUnits s u).foldl (fun s x => engineUnit s u x) s
  | 2 => failTile s u 1
  | 3 => stackLost s u
  | 4 => portFence s u
  | 5 =>
    if fwd then computeBegin s
    else
      let s1 := modPart (endLots s u 0x0044) u (fun p => { p with lost := true, reset := none, trace := traceClear p.trace })
      let s2 := (partTiles u).foldl (fun s p => modTile s p (fun t => tileEngineReset t s.clk.cycles)) s1
      setDom s2 (5 * u + 4) .off
  | _ => requestCycle s

/-- RESET_ESCALATE (R397, Table 14.4): a level `lvl` over unit `u` goes to the next: 1 a context, 2 a tile, 3 a mill, 4 a port, 5 a
partition (`fwd` when forwarding is at fault), 6 the module. It does so where one of R397's three conditions holds: its reset lasts too
long, the event code `code` has come again in its scope, or the cause lies outside its region. -/
def execResetEscalate (lvl u code : Nat) (fwd : Bool) (s : State) : Res :=
  let bound := match lvl with | 1 => 12 | 2 => tileCount | 3 => stackCount | 4 => portCount | 5 => 12 | _ => u + 1
  if ¬ u < bound then .refused .noSuchUnit
  else if resetOver s lvl u || recursAfter s lvl u code || causeOutside s lvl u code then .next (withHealth s (escalate lvl u fwd s))
  else .next s

/-- The PCIe controller of a port without its link (R457). -/
def pcieReset (h : Hst) : Hst :=
  { h with
    pcieUp := false, d3hot := false, memEn := false, busMaster := false, msixEn := false, msixMask := false
    bar0 := 0, bar2 := 0, sris := false, msix := [], due := 0, pba := 0 }

/-- The whole module is lost (R30, R412): no context runs on, every lot ends, and the PCIe controller goes down. -/
def moduleLost (s : State) : State :=
  let s1 := (upto 0 12).foldl (fun s n =>
    (ctxTiles s n).foldl (fun s p => modTile s p (fun t => { t with stop := some (t.stop.getD .schedule) }))
      (modPart (endLots s n 0x0045) n (fun p => { p with lost := true }))) s
  { s1 with hst := pcieReset s1.hst }

/-- LOCKSTEP_MISMATCH (R399): the active pair hands over to the standby pair; with no standby the Reeve is lost, and the module with
it: the module itself does nothing but send idle flits (Table 14.9). -/
def execLockstepMismatch (s : State) : Res :=
  if s.reeve.standby then
    .next (withHealth s (modReeve s (fun r => { r with pair := 1 - r.pair, standby := false, handovers := r.handovers + 1 })))
  else
    let s1 := moduleLost s
    .next { s1 with start := { s1.start with runSlot := 0 }, reeve := { s1.reeve with gone := true } }

end Sys2Proof.Machine
end

