-- ==== Sys2Proof/Machine/Image.lean ====
section
/-! DEFINITION. The tile state image (spec/02, R70 to R72; its blocks in R141, R151, R156, R190 and R240) and the tracked
lines a migration copies (spec/13, R369). Where the spec gives a block's size and no layout, the layout is a DESIGN
CHOICE (assumption 23). -/

namespace Sys2Proof.Machine

/-! ## The arrays, by 64 B line -/

/-- Line i of the bins (R156). -/
def binsLine (q : Sparse) (i : Nat) : List Byte := (upto (16 * i) 16).flatMap (fun w =>
  let bank := w / 1024
  let e := w % 1024
  toLe 4 (kvGet 0 q.bins (32 * (8 * (e / 16) + bank / 2) + 16 * (bank % 2) + e % 16)).toNat)

/-- Line i of the granary (R151). -/
def granLine (q : Sparse) (i : Nat) : List Byte := (upto (8 * i) 8).flatMap (fun e =>
  match kvGet none q.gran (e / 32) with
  | none => zeros 8
  | some g => toLe 4 (2 ^ 31 + g.key % 2 ^ 24) ++ toLe 4 ((g.vals.drop (e % 32)).headD 0).toNat)

/-- Line i of the accumulator store (R121). -/
def accLine (l : Loom) (i : Nat) : List Byte := (upto (16 * i) 16).flatMap (fun w => toLe 4 (kvGet 0 l.acc w).toNat)

/-- Line i of the channel entries: slot i mod 16 of channel i / 16. -/
def chanLine (t : Tile) (i : Nat) : List Byte :=
  let q := chan t (i / 16)
  let k := (i % 16 + 16 - kvGet 0 t.chHead (i / 16) % 16) % 16
  match q.drop k with
  | e :: _ => slice e.bytes 0 64
  | [] => zeros 64

/-- Line i of the weight registers (R141). -/
def weightLine (l : Loom) (i : Nat) : List Byte := (upto (32 * i) 32).flatMap (fun h =>
  toLe 2 (kvGet 0 (if h / 1056 == 0 then l.setA else l.setB).w (h % 1056)).toNat)

/-- Tracked lines of R369. -/
def trackedLines : Nat := 11458

/-- Tracked line i: the store, instruction memory, bins, granary, accumulators, channel entries, weights. -/
def trackedLine (t : Tile) (i : Nat) : List Byte :=
  if i < 8192 then memRead t.store.mem (64 * i) 64
  else if i < 9216 then memRead t.clerk.im (64 * (i - 8192)) 64
  else if i < 10240 then binsLine t.sparse (i - 9216)
  else if i < 10752 then granLine t.sparse (i - 10240)
  else if i < 11264 then accLine t.loom (i - 10752)
  else if i < 11392 then chanLine t (i - 11264)
  else weightLine t.loom (i - 11392)

/-! ## The image (Table 2.9) -/

/-- The bank states, two bits each. -/
def bankCode (t : Tile) : Nat := (upto 0 4).foldl (fun n k => n + 4 ^ k *
  (match kvGet .empty t.banks k with | .empty => 0 | .staged => 1 | .ready => 2 | .active => 3)) 0

/-- The header. -/
def imageHeader (s : State) (p : Nat) (store : Bool) : List Byte :=
  let t := getTile s p
  let l := logD s p
  slice (toLe 4 0x4D494E48 ++ toLe 2 1 ++ toLe 1 (l / 96 % 16) ++ toLe 1 (l % 96 % 24) ++ toLe 8 (s.clk.bell % 2 ^ 48)
    ++ toLe 8 (tilePattern t) ++ toLe 1 t.actBank ++ toLe 1 (bankCode t) ++ toLe 1 (loomUsed t) ++ toLe 1 (b2n store)) 0 64

/-- The sequencer block. -/
def imageSeq (t : Tile) : List Byte :=
  let f := fun (m : Kv Nat) => (upto 0 4).flatMap (fun k => toLe 4 (kvGet 0 m k))
  slice (toLe 4 t.seq.step ++ f t.seq.ctrs ++ f t.seq.reloads ++ toLe 4 t.seq.wait ++ toLe 8 t.seq.intervals
    ++ toLe 1 (b2n t.seq.run)) 0 192

/-- The CSRs of the clerk block, in the order of R240. -/
def imageCsrs : List Nat :=
  [0x300, 0x304, 0x305, 0x340, 0x341, 0x342, 0x343, 0x81A, 0x850, 0x852, 0x853, 0x854, 0x855, 0x856, 0x857, 0x858]
  ++ upto 0x870 16 ++ upto 0x880 8 ++ upto 0x888 8 ++ upto 0x890 7

/-- A CSR as the clerk block holds it: TL_CLK_STATUS without RESV, for no reservation is part of the image (R71, R239). -/
def imageCsr (s : State) (p c : Nat) : Nat :=
  let v := (csrPeek s p c).getD 0
  if c == 0x856 then clrBit v 30 else v

/-- The clerk block (R240). -/
def imageClerk (s : State) (p : Nat) : List Byte :=
  let k := (getTile s p).clerk
  slice ((upto 1 31).flatMap (fun r => toLe 4 (xGet k r).toNat) ++ toLe 4 k.pc.toNat
    ++ imageCsrs.flatMap (fun c => toLe 4 (imageCsr s p c))) 0 768

/-- Which slots of a channel hold credited entries, by slot. -/
def chanCredited (t : Tile) (n : Nat) : Nat :=
  maskOf 16 (fun j => ((chan t n).drop ((j + 16 - kvGet 0 t.chHead n % 16) % 16)).head?.any (fun e => e.credited))

/-- The channel control block: head, tail, count, granted, credited slots; then the credits of the 16 outbound entries. -/
def imageChan (t : Tile) : List Byte :=
  slice ((upto 0 8).flatMap (fun n =>
      let h := kvGet 0 t.chHead n
      let c := (chan t n).length
      toLe 1 h ++ toLe 1 ((h + c) % 16) ++ toLe 1 c ++ toLe 1 (inGrant t n) ++ toLe 2 (chanCredited t n) ++ [0, 0])
    ++ (upto 0 16).flatMap (fun k => toLe 1 (credits t k))) 0 256

/-- The fuller block (R190). -/
def imageFuller (f : Fuller) : List Byte :=
  slice (toLe 4 f.len ++ toLe 4 f.res0.toNat ++ toLe 4 f.res1.toNat ++ zeros 4 ++ slice f.resRec 0 16
    ++ toLe 1 (b2n f.resValid)) 0 256

/-- A spill stream as the granary control block holds it: its region, its bolts, and the keys of its open bolt (R153). -/
def imageSpill (o : Option Spill) : List Byte :=
  match o with
  | none => zeros 112
  | some s => slice (toLe 1 (1 + s.recs.length) ++ toLe 4 s.ovfAddr ++ toLe 1 s.ovfBolts ++ toLe 4 s.memBase ++ toLe 2 s.memBolts
      ++ toLe 4 s.bolts ++ s.recs.flatMap (toLe 3)) 0 112

/-- The spill stream of such a block. -/
def spillRestore (b : List Byte) : Option Spill :=
  if fld b 0 1 == 0 then none
  else some { ovfAddr := fld b 1 4, ovfBolts := fld b 5 1, memBase := fld b 6 4, memBolts := fld b 10 2, bolts := fld b 12 4
              recs := (upto 0 (fld b 0 1 - 1)).map (fun i => fld b (16 + 3 * i) 3) }

/-- The loom control block (R141): tags, active set, gating; TL_NUM_MODE; the generators. -/
def imageLoom (t : Tile) (l : Nat) : List Byte :=
  let q := t.loom
  slice (toLe 1 q.setA.tag ++ toLe 1 q.setB.tag ++ toLe 1 (b2n q.activeB) ++ toLe 1 (b2n q.gating + 4 * b2n q.setA.lo + 8 * b2n q.setB.lo)
    ++ toLe 4 t.num.mode.toNat ++ (upto 0 32).flatMap (fun i => toLe 4 (srLane t.num l i).toNat)) 0 256

/-- The state image of a tile without the store's bytes (R71): 221,184 B. -/
def imageOf (s : State) (p : Nat) (store : Bool) : List Byte :=
  let t := getTile s p
  imageHeader s p store ++ imageSeq t ++ imageClerk s p ++ imageChan t ++ imageFuller t.fuller
  ++ zeros 256 ++ imageSpill t.sparse.spill ++ imageSpill t.sparse.spillB ++ zeros 32 ++ imageLoom t (logD s p) ++ zeros 1792
  ++ slice ((upto 0 66).flatMap (weightLine t.loom)) 0 8192
  ++ (upto 0 128).flatMap (chanLine t) ++ (upto 0 512).flatMap (accLine t.loom) ++ (upto 0 512).flatMap (granLine t.sparse)
  ++ (upto 0 1024).flatMap (binsLine t.sparse) ++ zeros 4096 ++ memRead t.clerk.im 0 65536

/-- The lines of a store that have failing bits, in rising order. -/
def badLines (q : Store) : List Nat := ((q.bad.map (fun w => w.1 / 8)).eraseDups)

/-- The store of a tile as fabric-out reads it for an image (R71): every line with its ECC (R207, R208). -/
def storeImage (s : State) (p : Nat) : List Byte × State :=
  let t := getTile s p
  let r := (badLines t.store).foldl (fun (q : Mem × Ctx) l =>
    let x := lineRead q.2 7 (ctxCc s (physPart p)) (64 * l)
    (memWrite q.1 (64 * l) x.1, x.2)) (t.store.mem, ctxOf s p)
  (memRead r.1 0 Config.storeBytes, applyCtx s r.2)

/-- The image of a tile as a scan-out reads it, with the store where it is asked for. -/
def imageRead (s : State) (p : Nat) (store : Bool) : List Byte × State :=
  if store then
    let r := storeImage s p
    (imageOf s p true ++ r.1, r.2)
  else (imageOf s p false, s)

/-- Bolts of one tile's image. -/
def imageBolts (store : Bool) : Nat := if store then 182 else 54

/-! ## Restoring (R72, R135, R213, R239) -/

/-- Words of an image into a sparse map by the word's number. -/
def wordsInto (bs : List Byte) (n : Nat) : Kv Word :=
  (upto 0 n).foldl (fun m w => kvSet 0 m w (BitVec.ofNat 32 (fld bs (4 * w) 4))) []

/-- The sequencer of an image. -/
def seqRestore (b : List Byte) (now : Nat) : Seq :=
  let f := fun (off : Nat) => (upto 0 4).foldl (fun m k => kvSet 0 m k (fld b (off + 4 * k) 4)) ([] : Kv Nat)
  { run := bitAt (fld b 0x2C 1) 0, step := fld b 0 4, ctrs := f 4, reloads := f 0x14
    wait := fld b 0x24 4, intervals := fld b 0x28 8 % 2 ^ 32, moved := now }

/-- The clerk of an image: its counters restart from zero and no reservation holds. -/
def clerkRestore (b im : List Byte) (run : ClerkRun) (now : Nat) : Clerk :=
  let k0 : Clerk := { run := run, pc := BitVec.ofNat 32 (fld b 0x7C 4), mcycle0 := now, moved := now
                      im := memWrite [] 0 im
                      x := (upto 1 31).foldl (fun m r => kvSet 0 m r (BitVec.ofNat 32 (fld b (4 * (r - 1)) 4))) [] }
  let k1 := imageCsrs.zipIdx.foldl (fun k q =>
    let v := fld b (0x80 + 4 * q.2) 4
    if q.1 < 0x400 then stdPut q.1 v k
    else if q.1 == 0x856 then { k with
      inTrap := bitAt v 31, bellPend := bitAt v 10, sendFail := bitAt v 9, wakePend := bitAt v 8 }
    else if q.1 == 0x857 then { k with wakeLost := bits v 31 16, wakeStep := bits v 8 0 }
    else if q.1 == 0x81A || q.1 == 0x855 then k
    else clerkPut q.1 v k) k0
  k1

/-- The inbound channels of an image; the senders of credited entries are found afterwards. -/
def chansRestore (b ents : List Byte) : Kv (List ChEnt) × Kv Nat :=
  (upto 0 8).foldl (fun r n =>
    let h := fld b (8 * n) 1 % 16
    let es := (upto 0 (min 16 (fld b (8 * n + 2) 1))).map (fun i =>
      let j := (h + i) % 16
      (⟨slice ents (64 * (16 * n + j)) 64, bitAt (fld b (8 * n + 4) 2) j, 0⟩ : ChEnt))
    (kvSet [] r.1 n es, kvSet 0 r.2 n h)) ([], [])

/-- One weight set of an image. -/
def setRestore (b : List Byte) (r tag : Nat) (lo : Bool) : WSet :=
  { w := (upto 0 1056).foldl (fun m k => kvSet 0 m k (BitVec.ofNat 16 (fld b (2112 * r + 2 * k) 2))) [], tag := tag, lo := lo }

/-- The bins and the granary of an image. -/
def arraysRestore (q : Sparse) (gran bins : List Byte) : Sparse :=
  { q with
    gran := (upto 0 128).foldl (fun m t =>
      let key := fld gran (256 * t) 4
      kvSet none m t (if bitAt key 31 then some
        { key := key % 2 ^ 24, vals := (upto 0 32).map (fun n => BitVec.ofNat 32 (fld gran (256 * t + 8 * n + 4) 4)) } else none)) []
    bins := (upto 0 16384).foldl (fun m w =>
      let e := w % 1024
      kvSet 0 m (32 * (8 * (e / 16) + w / 1024 / 2) + 16 * (w / 1024 % 2) + e % 16) (BitVec.ofNat 32 (fld bins (4 * w) 4))) [] }

/-- Does an image hold an active pattern? -/
def imageActive (img : List Byte) : Bool := fld img 0x19 1 / 4 ^ (fld img 0x18 1 % 4) % 4 == 3

/-- Restore an image onto a tile at cycle count `now` (R72): what belongs to the physical tile stays, the check weights
are formed again (R135), every entry of a restored store is Stale (R345). An image without an active pattern is restored in the same way, and installs none. -/
def imageRestore (t : Tile) (img : List Byte) (now : Nat) : Tile :=
  let hdr := img.take 64
  let store := bitAt (fld hdr 0x1B 1) 0
  let lc := slice img 0x800 256
  let fl := fld lc 3 1
  let fu := slice img 0x500 64
  let ch := chansRestore (slice img 0x400 256) (slice img 0x3000 8192)
  let wt := slice img 0x1000 4224
  let t1 := if store then tallyStaleRange (rawWrite t 6 0 (slice img 0x36000 Config.storeBytes)) 0 Config.storeBytes else t
  let k := clerkRestore (slice img 0x100 768) (slice img 0x26000 65536) t.clerk.run now
  let t2 := { tileFresh t1 with
    actBank := fld hdr 0x18 1 % 4
    installed := imageActive img
    seq := { seqRestore (slice img 0x40 192) now with flags := fld (slice img 0x100 768) (0x80 + 4 * 12) 4 }
    fired := [], arrivals := []
    clerk := { k with run := if !(imageActive img) || secLen t1.store.mem (fld hdr 0x18 1 % 4) 8 == 0 then .held else .running }
    chans := ch.1
    chHead := ch.2
    outCredits := (upto 0 16).foldl (fun m i => kvSet 0 m i (fld img (0x440 + i) 1)) []
    banks := (upto 0 4).foldl (fun m i => kvSet .empty m i
      (match fld hdr 0x19 1 / 4 ^ i % 4 with | 1 => .staged | 2 => .ready | 3 => .active | _ => .empty)) [] }
  let t3 := { t2 with
    fuller := { t2.fuller with
      len := fld fu 0 4, res0 := BitVec.ofNat 32 (fld fu 4 4), res1 := BitVec.ofNat 32 (fld fu 8 4)
      resRec := slice fu 0x10 16, resValid := bitAt (fld fu 0x20 1) 0 }
    dma := { t2.dma with done := [] }
    sparse := { arraysRestore t2.sparse (slice img 0xD000 32768) (slice img 0x15000 65536) with
      spill := spillRestore (slice img 0x700 112), spillB := spillRestore (slice img 0x770 112) }
    num := { t2.num with
      mode := BitVec.ofNat 32 (fld lc 4 4)
      ovr := BitVec.ofNat 32 (fld img (0x100 + 0x80 + 4 * 7) 4)
      srRun := []
      sr := (upto 0 32).foldl (fun m i => kvSet 0 m i (BitVec.ofNat 32 (fld lc (8 + 4 * i) 4))) [] }
    loom := { t2.loom with
      setA := setRestore wt 0 (fld lc 0 1 % 16) (bitAt fl 2)
      setB := setRestore wt 1 (fld lc 1 1 % 16) (bitAt fl 3)
      activeB := bitAt (fld lc 2 1) 0
      gating := bitAt fl 0
      scatterOk := bitAt (leNat (secRead t1.store.mem (fld hdr 0x18 1 % 4) 3 1 1)) 1
      acc := wordsInto (slice img 0x5000 32768) 8192, accBad := [] } }
  reformCheck t3

/-- The senders of the credited entries of a channel of logical tile l: each tile of the context holds as many of them as
its outbound entry lacks credits (R66, R264). -/
def chanSenders (s : State) (n l c : Nat) : List Nat :=
  (ctxTiles s n).flatMap (fun p =>
    let t := getTile s p
    (upto 0 16).flatMap (fun k =>
      let o := outEntry t k
      if t.installed && o.2.2 != 0 && o.1 == l && o.2.1 == c then List.replicate (o.2.2 - credits t k) (logD s p) else []))

/-- Give the credited entries of a list their senders, in order. -/
def senderFill : List Nat → List ChEnt → List ChEnt
  | _, [] => []
  | ss, e :: rest =>
    if e.credited then { e with sender := ss.headD 0 } :: senderFill (ss.drop 1) rest else e :: senderFill ss rest

/-- Find the senders of every restored channel of a context. -/
def sendersFix (s : State) (n : Nat) : State :=
  (ctxTiles s n).foldl (fun s p =>
    let l := logD s p
    modTile s p (fun t => { t with
      chans := t.chans.map (fun q => (q.1, senderFill (chanSenders s n l q.1) q.2)) })) s

/-! ## Scan-out and scan-in (R70 to R72) -/

/-- Write a context's images as tallied bolts of its share, in the order of its logical tiles (R71). -/
def scanOut (s : State) (n bolt : Nat) (store : Bool) : State :=
  (upto 0 384).foldl (fun s i =>
    let l := 96 * (16 * (n / 4) + i / 24) + 24 * (n % 4) + i % 24
    let r := imageRead s (physOf s l) store
    (upto 0 (imageBolts store)).foldl (fun s k =>
      let b := slice r.1 (4096 * k) 4096
      boltPut s n (bolt + imageBolts store * i + k) b (crc32c b)) r.2) s

/-- Does an image have the store? -/
def scanStore (s : State) (n bolt : Nat) : Bool := bitAt (fld (boltBytes s n bolt) 0x1B 1) 0

/-- The image of logical place i of a partition in a source share. -/
def scanImage (s : State) (src bolt : Nat) (store : Bool) (i : Nat) : List Byte :=
  shareBytes s src (bolt + imageBolts store * i) (imageBolts store)

/-- The checks of R72 on one image for the tile at its place: the bolts' tallies, the version, the place, the header of
the active pattern and its loom width. -/
def scanOk (s : State) (src dst bolt : Nat) (store : Bool) (i : Nat) : Bool :=
  let img := scanImage s src bolt store i
  let l := 96 * (16 * (dst / 4) + fld img 6 1) + 24 * (dst % 4) + fld img 7 1
  let t := getTile s (physOf s l)
  let bank := fld img 0x18 1 % 4
  let hdr := if store then slice img (0x36000 + bankBase bank) 256 else memRead t.store.mem (bankBase bank) 256
  !(shareBad s src (bolt + imageBolts store * i) (imageBolts store))
  && fld img 0 4 == 0x4D494E48 && fld img 4 2 == 1 && fld img 6 1 < 16 && fld img 7 1 < 24
  && (!(imageActive img) || (fld hdr 0 4 == 0x54504E48 && fld hdr 4 2 == 1 && fld hdr 6 2 == 1 && imgGeometry hdr (some l)
        && fld img 0x1A 1 ≤ widthOf t))

/-- The logical tile an image goes to. -/
def scanPlace (img : List Byte) (dst : Nat) : Nat := 96 * (16 * (dst / 4) + fld img 6 1) + 24 * (dst % 4) + fld img 7 1

/-- The first image that fails, as its tile's number in the partition. -/
def scanBad (s : State) (src dst bolt : Nat) : Option Nat :=
  (upto 0 384).find? (fun i => !(scanOk s src dst bolt (scanStore s src bolt) i))

/-- Restore every image of a source share onto a partition (R72): a tile with an active pattern stands Halted until the bell
at which the context resumes, one without is Idle. -/
def scanRestore (s : State) (src dst bolt : Nat) : State :=
  let store := scanStore s src bolt
  let s1 := (upto 0 384).foldl (fun s i =>
    let img := scanImage s src bolt store i
    let p := physOf s (scanPlace img dst)
    if (getTile s p).st == .pinfold then s
    else modTile s p (fun t => { imageRestore t img s.clk.cycles with
      st := if imageActive img then .halted else .idle, stop := none })) s
  sendersFix s1 dst

end Sys2Proof.Machine
end

