-- ==== Sys2Proof/Machine/Lots.lean ====
section
/-! DEFINITION. Lots: how they end, their completion entries, and the responses that wait for them (spec/15, R417, R419,
R429 to R434; spec/14, R400 to R402, R408). Readings of the lot rules: DEDUCED, assumption 31. -/

namespace Sys2Proof.Machine

/-! ## Responses (R417, R419) -/

/-- Responses a page's ring holds or owes (R417). -/
def rspUsed (q : Page) : Nat := idxDist q.rspPi q.rspCi + q.held.length

/-- Write a response entry into a page's ring. -/
def rspWrite (s : State) (pg : Nat) (r : List Byte) : State :=
  vecDue (modPage s pg (fun q => { q with
    rsp := kvSet [] q.rsp (q.rspPi % 16) r, rspPi := (q.rspPi + 1) % 2 ^ 32 })) (3 * pg)

/-- Answer a command: behind a cancel that waits, its response waits too (R419). -/
def rspPut (s : State) (pg : Nat) (wait : Option (Nat × Nat)) (r : List Byte) : State :=
  if wait.isNone && (getPage s pg).held.isEmpty then rspWrite s pg r
  else modPage s pg (fun q => { q with held := q.held ++ [(wait, r)] })

/-- Write the responses at the front that wait no longer. -/
def heldFlush (pg : Nat) : Nat → State → State
  | 0, s => s
  | n + 1, s => match (getPage s pg).held with
    | (none, r) :: rest => heldFlush pg n (rspWrite (modPage s pg (fun q => { q with held := rest })) pg r)
    | _ => s

/-- A lot has ended: the cancels that wait for it have their outcome, 2 cancelled while active or 3 completed first
(R434). -/
def cancelAnswer (s : State) (n number code : Nat) : State :=
  let s1 := modPage s n (fun q => { q with held := q.held.map (fun h =>
    if h.1 == some (n, number) then (none, patch h.2 0x14 (toLe 1 (if code == 0x0051 then 2 else 3))) else h) })
  heldFlush n 16 s1

/-! ## The end of a lot (R400, R430) -/

/-- The end bell of a lot (R429); bells its context skips do not count (R484). -/
def lotEnd (l : Lot) : Nat := l.start + l.intervals + l.skips

/-- Are DMA transfers of a context's tiles outstanding? -/
def dmaBusy (s : State) (n : Nat) : Bool :=
  (ctxTiles s n).any (fun p => !((getTile s p).dma.tags.isEmpty) || !((getTile s p).dma.jobs.isEmpty))

/-- Has a lot that runs come to its end (R430)? Most causes only mark a lot to fail (R122, R139, R165, R192, R208, R338). -/
def lotOver (s : State) (n : Nat) (l : Lot) : Bool :=
  l.state == 1 && (l.cut.any (fun b => b ≤ s.clk.bell)
    || (lotEnd l ≤ s.clk.bell && l.mill == 0 && !(dmaBusy s n)))

/-- The earliest cause of a lot, by bell and cc (R165, R400). -/
def firstCause (l : Lot) : Option (Nat × Nat × Nat) :=
  l.causes.foldl (fun b c => match b with
    | none => some c
    | some x => if c.2.1 < x.2.1 || (c.2.1 == x.2.1 && c.2.2 < x.2.2) then some c else b) none

/-- The completion entry of a lot (Table 15.9a), its sequence still zero. -/
def entryOf (n : Nat) (l : Lot) : List Byte :=
  let c := (firstCause l).getD (0, 0, 0)
  let i := (l.info.find? (fun i => i.1 == c.1 && i.2.1 == c.2.1 && i.2.2.1 == c.2.2)).getD (0, 0, 0, 0, 0)
  let wr := min l.attach.length (l.recLen / 40)
  slice (toLe 8 l.number ++ toLe 2 c.1 ++ toLe 1 n
    ++ toLe 1 (b2n l.voided + 2 * b2n (wr < l.attach.length) + 4 * b2n l.cancelReq)
    ++ toLe 2 l.attach.length ++ toLe 2 wr ++ toLe 8 (l.start % 2 ^ 48) ++ toLe 8 (l.ended % 2 ^ 48)
    ++ toLe 8 (c.2.1 % 2 ^ 48) ++ toLe 4 i.2.2.2.1 ++ toLe 2 l.unchecked ++ [0, 0] ++ toLe 4 c.2.2 ++ zeros 4
    ++ toLe 8 i.2.2.2.2 ++ toLe 8 l.cookie) 0 128

/-- Keep the written entries among the last 32, and every unwritten one (R431, R433). -/
def endedTrim (es : List Ended) : List Ended :=
  es.zipIdx.filterMap (fun q => if es.length ≤ q.2 + 32 || !q.1.written then some q.1 else none)

/-- Move a lot that has ended out of the queue, with its completion entry, and answer a cancel that waits for it. -/
def lotFinish (s : State) (n : Nat) (l0 : Lot) : State :=
  let l := if l0.state == 2 then l0 else { latchLot s n l0 with state := 2, active := false, ended := s.clk.bell }
  let code := ((firstCause l).getD (0, 0, 0)).1
  let s1 := modPart s n (fun p => { p with
    lots := p.lots.filter (fun x => x.number != l.number)
    ended := endedTrim (p.ended ++ [{ lot := l, code := code, entry := entryOf n l, written := false }]) })
  cancelAnswer s1 n l.number code

/-- LOT_END (R430): the first lot of a partition that has come to its end is recorded, once every failure event that
bears on its partition's lots has been taken (R400). -/
def execLotEnd (n : Nat) (s : State) : Res :=
  if ¬ n < 12 then .refused .noSuchUnit
  else if s.reeve.inbox.any (fun e => (e.part == n || 12 ≤ e.part) && e.compl != 0) then .next s
  else match (getPart s n).lots.find? (fun l => l.state == 2 || lotOver s n l) with
    | none => .next s
    | some l => .next (lotFinish s n l)

/-! ## Outcomes of staged changes (R81, R435) -/

/-- The outcome event of a staged change (kind 0x0002). -/
def changeEvent (s : State) (c : Change) : State :=
  let r := c.refusers.headD (0, 0)
  emitTo s c.parts 2 (toLe 4 c.id ++ toLe 1 c.kind ++ toLe 1 c.outcome ++ toLe 2 c.refusers.length ++ toLe 8 (c.target % 2 ^ 48)
    ++ toLe 4 r.1 ++ toLe 1 r.2)

/-- Replace a change by its ID. -/
def changePut (s : State) (c : Change) : State :=
  modReeve s (fun r => { r with changes := r.changes.map (fun x => if x.id == c.id then c else x) })

/-- Decide a change, and report it: 1 applied, 2 abandoned, 3 cancelled. -/
def changeDecide (s : State) (c : Change) (outcome : Nat) : State :=
  let c1 := { c with outcome := outcome }
  changeEvent (changePut s c1) c1

/-- The partitions of a mask. -/
def maskParts (m : Nat) : List Nat := (upto 0 12).filter (bitAt m)

/-- A leave whose bell has come completes when every lot of its partitions has its record (R408). -/
def leaveCheck (s : State) : State :=
  (s.reeve.changes.filter (fun c => c.outcome == 0 && c.kind == 0x16 && c.target ≤ s.clk.bell
      && (maskParts c.parts).all (fun n => (getPart s n).lots.isEmpty && (getPart s n).ended.all (fun e => e.written)))).foldl
    (fun s c => changeDecide s c 1) s

/-! ## Completion entries (R431, R432) -/

/-- Put something out (the host's memory, the tray, a scan). -/
def putOut (s : State) (kind addr : Nat) (data : List Byte) : State := { s with out := s.out ++ [⟨kind, addr, data⟩] }

/-- The address of a DMA for a page (R420), with the page's PASID above bit 64 when PASIDs are sent. -/
def dmaAddr (s : State) (pg addr : Nat) : Nat := addr + (if s.hst.pasidEn then 2 ^ 64 * (pg + 1) else 0)

/-- A DMA write for a page (R420). -/
def dmaOut (s : State) (pg addr : Nat) (data : List Byte) : State := putOut s 0 (dmaAddr s pg addr) data

/-- A DMA read of `len` bytes for a page (R420). -/
def dmaIn (s : State) (pg addr len : Nat) : State := putOut s 6 (dmaAddr s pg addr) (toLe 4 len)

/-- Write one entry with its sequence, and its attachments before it. -/
def entryWrite (s : State) (n : Nat) (cq : Cq) (e : Ended) : State :=
  let wr := min e.lot.attach.length (e.lot.recLen / 40)
  let s1 := if wr == 0 then s else dmaOut s n e.lot.recAddr ((e.lot.attach.take wr).flatMap (fun a => a))
  let entry := patch e.entry 0x34 (toLe 4 (cq.seq + 1))
  let s2 := dmaOut s1 n (cq.base + 128 * ((getPage s n).cqPi % cq.entries)) entry
  let s3 := modPart s2 n (fun p => { p with
    cq := some { cq with seq := cq.seq + 1 }
    ended := endedTrim (p.ended.map (fun x =>
      if x.lot.number == e.lot.number then { x with entry := entry, written := true } else x)) })
  vecDue (modPage s3 n (fun q => { q with cqPi := (q.cqPi + 1) % 2 ^ 32 })) (3 * n + 2)

/-- COMPLETION_ENTRY_WRITE (R431): the oldest entry held is written when the queue has room. -/
def execCompletionEntryWrite (n : Nat) (s : State) : Res :=
  if ¬ n < 12 then .refused .noSuchUnit
  else
    let p := getPart s n
    match p.cq, p.ended.find? (fun e => !e.written) with
    | some cq, some e =>
      if idxDist (getPage s n).cqPi (getPage s n).cqCi < cq.entries then .next (leaveCheck (entryWrite s n cq e)) else .next s
    | _, _ => .next s

/-- Has a partition a lot that is active under R401: accepted, and its record not written? -/
def lotsActive (s : State) (n : Nat) : Bool := !(getPart s n).lots.isEmpty || (getPart s n).ended.any (fun e => !e.written)

/-- Free slots of a partition (R429). -/
def freeSlots (p : Part) : Nat := 256 - (p.lots.length + (p.ended.filter (fun e => !e.written)).length)

end Sys2Proof.Machine
end

