-- ==== Sys2Proof/Machine/Ready.lean ====
section
/-! DEFINITION. Readiness for a bell (spec/02, R40, R45) and the watchman's wait-for graph (spec/14, R404 to R406). Readings
of the lot rules: DEDUCED, assumption 31. -/

namespace Sys2Proof.Machine

/-! ## Readiness -/

/-- Physical tiles that are not as the reset left them, in rising order. -/
def heldTiles (s : State) : List Nat := s.tiles.map (fun q => q.1)

/-- The tiles of a context that run a pattern: Active or Switching, in a role. -/
def liveTiles (s : State) (n : Nat) : List Nat :=
  (heldTiles s).filter (fun p => physPart p == n && (logOf s p).isSome
    && ((getTile s p).st == .active || (getTile s p).st == .switching))

/-- Is a partition in a reset or lost, so that it runs no context? -/
def partDown (s : State) (n : Nat) : Bool := (getPart s n).reset.isSome || (getPart s n).lost

/-- Does a context count for the module's readiness (R40, R65, R484, R486)? -/
def ctxCounts (s : State) (n : Nat) : Bool :=
  !(partDown s n) && !(getPart s n).halted && !(getPart s n).loose && (liveTiles s n).all (fun p => (getTile s p).stop.isNone)

/-- The bell at which the lot that a partition runs began, 0 where none runs. -/
def curLotStart (s : State) (n : Nat) : Nat :=
  (getPart s n).lots.foldl (fun m l => if l.state == 0 then m else max m l.start) 0

/-- Has a notice named the items that a context consumes from a source module, in the lot that it runs (R50)? -/
def srcAbandoned (s : State) (n src : Nat) : Bool :=
  s.link.abandoned.any (fun a => a.src == src && keyMatch (keyTable s) n a.key && curLotStart s n ≤ a.stamp)

/-- Have the items of the running interval arrived, or been marked abandoned (R40, R50)? -/
def itemsReady (s : State) (n : Nat) (t : Tile) : Bool :=
  (upto 0 (dlCount t)).all (fun i =>
    let e := dlEntry t i
    !(dlApplies t e) || dlMet t e || (fld e 0 1 == 3 && srcAbandoned s n (fld e 8 4)))

/-- Is a tile ready, but for the time its last unit takes (R40)? -/
def tileReady (s : State) (p : Nat) : Bool :=
  let t := getTile s p
  (t.seq.wait != 0 || !t.seq.run) && t.fired.isEmpty && t.fuller.redPend.isNone && !t.clerk.hold && itemsReady s (physPart p) t

/-- Is a context ready, but for time? -/
def ctxReady (s : State) (n : Nat) : Bool := (liveTiles s n).all (tileReady s)

/-- The interval cc of the module in which the last unit of a context is done. -/
def ctxDone (s : State) (n : Nat) : Nat :=
  (liveTiles s n).foldl (fun m p => max m ((getTile s p).doneCc - (getPart s n).skipCc)) 0

/-- The partitions. -/
def parts : List Nat := upto 0 12

/-- Is the module ready, but for time (R40)? -/
def moduleReady (s : State) : Bool := parts.all (fun n => !(ctxCounts s n) || ctxReady s n)

/-- The interval cc in which the last unit of the contexts that count is done. -/
def moduleDone (s : State) : Nat := parts.foldl (fun m n => if ctxCounts s n then max m (ctxDone s n) else m) 0

/-- Time passes up to an interval cc. -/
def advanceTo (s : State) (cc : Nat) : State :=
  modClk s (fun c => { c with cycles := c.cycles + (cc - c.intvCc), intvCc := max c.intvCc cc })

/-! ## The wait-for graph (R404, R405) -/

/-- Cc at one wait that make a unit a waiting one. -/
def waitCc : Nat := 4096

/-- The tiles, of any partition, whose active patterns send to a channel of logical tile l (Table 14.6, R66). -/
def chanSources (s : State) (l c : Nat) : List Nat :=
  (parts.flatMap (liveTiles s)).filter (fun p =>
    let t := getTile s p
    (upto 0 16).any (fun k => (outEntry t k).2.2 != 0 && (outEntry t k).1 == l && (outEntry t k).2.1 == c))

/-- What a clerk waits for: 1 and an outbound entry, 2 and a channel. -/
def clerkWaits (s : State) (p : Nat) : Option (Nat × Nat) :=
  let t := getTile s p
  if !(clerkLive t) then none
  else match fetch t.clerk with
    | .inl _ => none
    | .inr i => (match i.ins with
      | .csr f3 rd src c =>
        if csrKind f3 rd src c == .qsend then
          let v := csrNew f3 0 (csrSrc t.clerk f3 src)
          if credits t (bits v 3 0) == 0 && !(bitAt v 8) then some (1, bits v 3 0) else none
        else if csrKind f3 rd src c == .qpop && (chan t (c - 0x840)).isEmpty then some (2, c - 0x840)
        else if csrKind f3 rd src c == .qw && (chan t t.clerk.qsel).isEmpty then some (2, t.clerk.qsel)
        else none
      | _ => none)

/-- The nodes of the graph that are no tiles: the interface and the mill of stack k. -/
def ifaceNode (k : Nat) : Nat := tileCount + k
/-- The mill. -/
def millNode (k : Nat) : Nat := tileCount + stackCount + k

/-- The stacks whose interface holds requests of a logical tile. -/
def ifacesOf (s : State) (l : Nat) : List Nat :=
  (upto 0 stackCount).filter (fun k =>
    let q := getStack s k
    q.inq.any (fun x => x.src == l) || q.svc.any (fun e => e.1 == l) || q.wr.any (fun w => w.src == l))

/-- Does a mill post of a tag group wait for its completion? -/
def postOpen (t : Tile) (g : Nat) : Bool :=
  t.dma.jobs.any (fun j => j.op == 3 && j.group == g)
    || t.dma.queue.any (fun e => fld e.desc 1 1 == 3 && fld e.desc 3 1 == g)

/-- Where a tile that waits for completions of a tag group has its edges: the interfaces, and for a post the mills. -/
def tagEdges (s : State) (p g : Nat) : List Nat :=
  (ifacesOf s (logD s p)).map ifaceNode ++ (if postOpen (getTile s p) g then (upto 0 stackCount).map millNode else [])

/-- The waits of a tile: what it waits for, the nodes its edges go to, and a number that moves with any progress on them, a pop, a
credit return, an arrival or a tag completion (R405). Halted clerks have no edges (R486). -/
def tileWaits (s : State) (p : Nat) : List Wait :=
  let t := getTile s p
  let l := logD s p
  let node := fun (what : Nat) (dst : List Nat) (prog : Nat) => [(⟨p, what, dst, prog⟩ : Wait)]
  let came := fun (e : List Byte) => kvGet 0 t.arrivals (arrKey (fld e 0 1) (fld e 1 1) (fld e 8 4))
  let old := fun (moved : Nat) => moved + waitCc ≤ s.clk.cycles
  let w := seqWord t
  let send := match t.fired.find? (fun f => f.unit == 11 && fld f.desc 1 1 == 0) with
    | some f =>
      let k := fld f.desc 2 1
      if credits t k == 0 && old t.seq.moved then node (256 + k) [physOf s (outEntry t k).1] t.seq.moved else []
    | none => []
  let cond := if t.seq.wait == 0 && (swCond w == 3 || swCond w == 4) && (chan t (swSel w)).isEmpty && old t.seq.moved
      && (if swCond w == 3 then swNextF w else swNextT w) == t.seq.step then node (512 + swSel w) (chanSources s l (swSel w)) t.seq.moved
      else []
  let clk := if t.dbg.halted || !(old t.clerk.moved) then [] else match clerkWaits s p with
    | some (1, k) => node (768 + k) [physOf s (outEntry t k).1] t.clerk.moved
    | some (_, c) => node (1024 + c) (chanSources s l c) t.clerk.moved
    | none => []
  let due := (upto 0 (dlCount t)).flatMap (fun i =>
    let e := dlEntry t i
    if t.seq.wait != 0 && old t.seq.moved && dlApplies t e && !(dlMet t e) && fld e 0 1 == 1 && fld e 8 4 == 0xFFFFFFFF
    then node (2 ^ 16 + i) (chanSources s l (fld e 1 1)) (came e)
    else if t.seq.wait != 0 && old t.seq.moved && dlApplies t e && !(dlMet t e) && fld e 0 1 == 2
    then node (2 ^ 17 + i) (tagEdges s p (fld e 1 1)) (came e) else [])
  send ++ cond ++ clk ++ due

/-- A stack interface whose tags are all held, with a request that needs one: its edges go to the tiles that hold them
(R280). -/
def ifaceWaits (s : State) (k : Nat) : List Wait :=
  let q := getStack s k
  let fresh := fun (x : Packet) => if isRead x then !(svcRoom q x.src (pkBolt x)) else isWrite x && !(writeRoom q x)
  if stackTags q < 1024 || !(q.inq.any fresh) then []
  else [⟨ifaceNode k, 0, ((q.svc.map (fun e => e.1) ++ q.wr.map (fun w => w.src)).eraseDups).map (physOf s),
    2 ^ 32 * q.svc.foldl (fun m e => m + e.2.2) 0 + q.wr.foldl (fun m w => m + w.tags.length) 0⟩]

/-- Can a memory-write descriptor touch the bolts from `lo` up to `hi`? -/
def boltsMeet (d : List Byte) (lo hi : Nat) : Bool :=
  fld d 1 1 == 0 && fld d 8 4 < hi && (bitAt (fld d 2 1) 2 || lo < fld d 8 4 + fld d 0xC 2)

/-- Does a step of a tile's active pattern fire a memory write to these bolts? -/
def writesTo (t : Tile) (lo hi : Nat) : Bool :=
  (upto 0 (secLen t.store.mem t.actBank 6 / 8)).any (fun i =>
    let w := leNat (secRead t.store.mem t.actBank 6 (8 * i) 8)
    (firedUnits (swFire w) (swDesc w)).any (fun u =>
      (u.1 == 7 || u.1 == 8) && u.2 < descCount t && boltsMeet (descRead t u.2) lo hi))

/-- The tiles that contribute to an ordered reduction (R291): those whose pattern writes into its slots. -/
def contributors (s : State) (n : Nat) (d : List Byte) : List Nat :=
  let lo := fld d 0xC 4
  (liveTiles s n).filter (fun p => writesTo (getTile s p) lo (lo + fld d 0x1C 1 * slotSpan d))

/-- An ordered reduction of a partition that waits in a mill for its slots. -/
def millWaits (s : State) (k n : Nat) : List Wait :=
  match kvGet none (getStack s k).running n with
  | none => []
  | some e =>
    if fld e.desc 0 1 != 0x10 || (getStack s k).lost || (readyGroup s k n e).isSome
      || ownGroups s k n e.desc ≤ e.doneG.length then []
    else [⟨millNode k, n, contributors s n e.desc, e.arrived.length⟩]

/-- A sample: the waits of every context that runs and is not Halted, and those of the stacks. -/
def watchSample (s : State) : List Wait :=
  let ns := parts.filter (fun n => !(partDown s n) && !(getPart s n).halted)
  ns.flatMap (fun n => (liveTiles s n).flatMap (tileWaits s))
    ++ (upto 0 stackCount).flatMap (fun k => ifaceWaits s k ++ ns.flatMap (millWaits s k))

/-- One step of reaching tiles along edges. -/
def waitStep (g : List Wait) (seen : List Nat) : List Nat :=
  ((g.filter (fun w => seen.contains w.tile)).flatMap (fun w => w.toTiles)).foldl
    (fun l p => if l.contains p then l else l ++ [p]) seen

/-- The tiles reached from some tiles in as many steps as there are waits. -/
def waitReach (g : List Wait) : Nat → List Nat → List Nat
  | 0, seen => seen
  | n + 1, seen =>
    let next := waitStep g seen
    if next.length == seen.length then seen else waitReach g n next

/-- The edges present in two samples with no progress on them in between (R405). -/
def standing (old new : List Wait) : List Wait :=
  new.filterMap (fun w =>
    (old.find? (fun o => o.tile == w.tile && o.what == w.what && o.progress == w.progress)).map (fun o =>
      { w with toTiles := w.toTiles.filter (fun p => o.toTiles.contains p) }))

/-- The nodes that a node reaches along one edge or more. -/
def waitFrom (g : List Wait) (p : Nat) : List Nat :=
  waitReach g (g.length + 1) ((g.filter (fun w => w.tile == p)).flatMap (fun w => w.toTiles))

/-- The nodes of a graph that stand in a cycle. -/
def hungNodes (g : List Wait) : List Nat := ((g.map (fun w => w.tile)).eraseDups).filter (fun p => (waitFrom g p).contains p)

/-- The cycles of a graph: its hung nodes, put together where each reaches the other. -/
def hungCycles (g : List Wait) : List (List Nat) :=
  let ps := hungNodes g
  ps.foldl (fun cs p => if cs.any (fun c => c.contains p) then cs
    else cs ++ [ps.filter (fun q => (waitFrom g p).contains q && (waitFrom g q).contains p)]) []

/-- The unit ID of a node (R81); a stack's interface and its mill bear the mill's. -/
def nodeUnit (s : State) (p : Nat) : Nat :=
  if p < tileCount then unitId 1 (logD s p) else unitId 2 ((p - tileCount) % stackCount)

/-- The event of a hang: up to 16 nodes of its cycle (R406). -/
def hangEvent (s : State) (n : Nat) (ps : List Nat) (repro : Bool) : Event :=
  { code := 0x0156, unit := nodeUnit s (ps.headD 0), loc := 256 * (ps.headD 0 / 100) + ps.headD 0 % 100, part := n
    bell := s.clk.bell, cc := s.clk.intvCc, lot := curLot s n, compl := 0x0025
    pay := (ps.take 16).flatMap (fun p => toLe 4 (nodeUnit s p)), repro := repro }

/-- A cycle's tiles with the sequencer steps they stand at, and their places. -/
def hangOf (s : State) (ps : List Nat) : Hang :=
  let ts := ps.filter (fun p => p < tileCount)
  { steps := ts.map (fun p => (logD s p, (getTile s p).seq.step)), places := ts }

/-- Has a hang been seen at the same steps of the same roles, on other physical tiles (R406)? -/
def hangSeen (s : State) (h : Hang) : Bool :=
  s.reeve.hangs.any (fun o => o.steps.length == h.steps.length && h.steps.all (fun x => o.steps.contains x)
    && !(h.places.all (fun p => o.places.contains p)))

/-- A hang is confirmed (R406): its contexts' lots end, the event names the cycle, the contexts are reset; a cycle within
one tile makes the tile failed (Table 14.1, cause 7). -/
def hangTake (s : State) (ps : List Nat) : State :=
  let h := hangOf s ps
  let ns := (h.places.map physPart).eraseDups
  let s1 := ns.foldl (fun s n => sendEvent s (hangEvent s n ps (hangSeen s h))) s
  let s2 := ns.foldl (fun s n => beginReset (endLots s n 0x0025) n 1 0x0025)
    (modReeve s1 (fun r => { r with hangs := if r.hangs.contains h then r.hangs else r.hangs ++ [h] }))
  match ps with
  | [p] => failTile s2 p 7
  | _ => s2

/-- The watchman takes a sample and acts on the cycles it confirms (R405, R406). -/
def watchTake (s : State) : State :=
  let new := watchSample s
  (hungCycles (standing s.clk.watch new)).foldl hangTake (modClk s (fun c => { c with watch := new, holdSample := c.intvCc }))

end Sys2Proof.Machine
end

