-- ==== Sys2Proof/Machine/Hayward.lean ====
section
/-! DEFINITION. Hayward: test slices, the moving spare and its migrations, windowed tests (spec/13, R365 to R385). Readings
of the rotation rules: DEDUCED, assumption 29. -/

namespace Sys2Proof.Machine

/-- Partition-rows of the part. -/
def rowCountAll : Nat := 192
/-- The partition of a partition-row. -/
def rowPart (r : Nat) : Nat := physPart (rowTile r 0)

/-! ## Pauses (R367, R410) -/

/-- Is rotation held back in a partition by an operation that has its place in the ledger, one that is suspended or cancelling
included (Table 14.8)? -/
def opHolds (s : State) (n : Nat) : Bool :=
  s.reeve.ops.any (fun o => opPlaced o && ((opKind o == 2 || opKind o == 4) && bitAt o.mask n || opKind o == 5))

/-- Is Hayward off in the whole module: by HST_HW_CTL.EN, in keep-alive, by the life-cycle state and the engine's hold (R383), or for
want of a verified pattern set (R384)? -/
def hwOff (s : State) : Bool :=
  !s.hst.hwEn || s.power.keepAlive || !(setRuns s) || (s.start.lifeCycle == .service && s.jtag.engine)

/-- Is rotation held back in a partition by anything but its PART_PAUSE bit (R367)? -/
def rotationHeld (s : State) (n : Nat) : Bool :=
  hwOff s || (getPart s n).assay.isSome || partDown s n || (getPart s n).halted || opHolds s n

/-- Does rotation pause in a partition, for a stop that is to begin or a migration that is to be retried (R367, R374)? A change of
PART_PAUSE takes effect at the next stop (Table 13.6), so a migration of the running stop does not read it. -/
def rotationPaused (s : State) (n : Nat) : Bool := rotationHeld s n || bitAt s.hst.pause n

/-! ## Slices (R366, R376 to R379) -/

/-- Has the minimum period of a row's stop passed, the dwell that was in force when the stop began (R366, R385)? 1 ms is 1,400,000
cc. -/
def stopOver (s : State) (q : Row) : Bool := q.stopCyc == 0 || 1400000 * q.dwell + q.stopCyc ≤ s.clk.cycles + 1

/-- Does a row's spare stand elsewhere than at the suspect that is to be tested next (R357)? -/
def suspectAhead (q : Row) : Bool := q.suspects.head?.any (fun k => k != q.spare)

/-- HAYWARD_SLICE_START (R366): at the first bell of a row's next stop, the slice starts on its spare. On its way to a suspect the
spare goes on without a slice, so that the suspect is tested next (R357; DESIGN CHOICE, assumption 35). In Raw the test engine starts
it, ready or not (R383). -/
def execHaywardSliceStart (r : Nat) (s : State) : Res :=
  if ¬ r < rowCountAll then .refused .noSuchUnit
  else
    let q := getRow s r
    if (s.start.ready || s.start.lifeCycle == .raw) && s.clk.intvCc == 0 && q.stop == .idle && stopOver s q && !(noSpare s r)
        && !(rotationPaused s (rowPart r)) then
      if suspectAhead q then .next (modRow s r (fun q => { q with stop := .waiting }))
      else
        .next (modRow (modTile (sliceEcc s (holeTile s r)) (holeTile s r) (fun t => { t with hw := { t.hw with role := 2 } })) r
          (fun q => { q with stop := .slice, stopCyc := s.clk.cycles + 1, dwell := s.hst.dwell }))
    else .next s

/-- HAYWARD_SLICE_COMPLETE (R378): phase 5 has cleared the spare, and the outcome is decided. -/
def execHaywardSliceComplete (r : Nat) (cols : List Nat) (words : List (Nat × Nat)) (other : Bool) (s : State) : Res :=
  if ¬ r < rowCountAll then .refused .noSuchUnit
  else if (getRow s r).stop != .slice then .next s
  else
    let p := holeTile s r
    let s1 := modRow (modTile s p (fun t => { tileFullReset t s.clk.cycles with hw := { t.hw with role := 1 } })) r
      (fun q => { q with stop := .waiting, suspects := q.suspects.filter (fun k => k != q.spare) })
    .next (withHealth s (sliceOutcome s1 p { cols := cols, words := words, other := other } 3 (fun s p => failTile s p 1)))

/-- SLICE_ABANDON (R379): phase 5 clears the spare, which is free; no outcome is recorded. -/
def execSliceAbandon (r : Nat) (s : State) : Res :=
  if ¬ r < rowCountAll then .refused .noSuchUnit
  else if (getRow s r).stop != .slice then .next s
  else .next (modRow (modTile s (holeTile s r) (fun t => { tileFullReset t s.clk.cycles with hw := { t.hw with role := 1 } })) r
    (fun q => { q with stop := .idle }))

/-! ## Migrations (R368 to R374) -/

/-- Does a row's sweep run west: toward a suspect, else as it runs, reversed at an end (R357, R365)? -/
def sweepWest (q : Row) : Bool :=
  if suspectAhead q then q.suspects.head?.any (fun k => k < q.spare) else q.spare != 0 && (q.spare == 24 || q.west)

/-- Where the spare of a row goes next (R365): the local position of the source of its migration. -/
def nextSource (q : Row) : Nat := if sweepWest q then q.spare - 1 else q.spare + 1

/-- The role of a tile on another (R368, R371): all of it but what belongs to the physical tile. -/
def roleOn (src dst : Tile) (now : Nat) : Tile :=
  reformCheck { src with
    loom := { src.loom with failA := dst.loom.failA, failB := dst.loom.failB }
    store := { src.store with scrubIntv := dst.store.scrubIntv, scrubPos := none, scrubCor := [], touched := [] }
    router := routerKeep src.router dst.router
    clerk := { src.clerk with mcycle0 := now, minstret := 0, resv := none }
    hw := dst.hw }

/-- Uncorrectable words that a migration carries over raise the event and fail no lot (R368). -/
def carryBad (s : State) (p : Nat) (t : Tile) : State :=
  t.store.bad.foldl (fun s w =>
    if 2 ≤ w.2 then sendEvent s (tileEvent s p 0x0121 s.clk.intvCc 0 6 (toLe 4 (64 * (w.1 / 8)) ++ toLe 4 s.clk.bell)) else s) s

/-- Move the role at local position k of a row to the spare beside it (R370, R371): the source is the spare from now on, and the
destination runs the role from the next bell. The sweep goes on in the direction of the move, but for an end, where it turns (R365). -/
def moveRoleFrom (s : State) (r k : Nat) : State :=
  let q := getRow s r
  let p := rowTile r k
  let d := holeTile s r
  let src := getTile s p
  let dst := getTile s d
  let s1 := setTile (setTile s d { roleOn src dst s.clk.cycles with joins := true }) p
    { tileReset { src with st := .idle } s.clk.cycles with
      store := { scrubIntv := src.store.scrubIntv }
      router := routerKeep {} src.router }
  let s2 := placeRow (modRow s1 r (fun q => { q with
    spare := k, west := if k == 0 then false else if k == 24 then true else decide (k < q.spare)
    stop := .idle, mig := none, abandons := 0, stalled := false, retryAt := 0 })) r
  if q.spare == k then s2 else carryBad s2 d src

/-- Move the role of a row's source to its spare. -/
def moveRole (s : State) (r : Nat) : State := moveRoleFrom s r (nextSource (getRow s r))

/-- Step a row's spare to a local position by R17 migrations, one role at a time. -/
def spareTo (r target : Nat) : Nat → State → State
  | 0, s => s
  | n + 1, s =>
    let q := getRow s r
    if q.spare == target || noSpare s r then s
    else spareTo r target n (moveRoleFrom s r (if target < q.spare then q.spare - 1 else q.spare + 1))

/-- A tile of a row whose loom presents width 31 while it serves a role. -/
def narrowRole (s : State) (r : Nat) : Option Nat :=
  (upto 0 25).find? (fun k =>
    k != (getRow s r).spare && (getTile s (rowTile r k)).st != .pinfold && loomWidth (getTile s (rowTile r k)).loom == 31)

/-- A full-width pattern is to be loaded in a row: the tile of width 31 counts as pinfolded, so it becomes the row's spare
before the load, with the roles moved straight through while none of them runs (R16, R133, R373). -/
def narrowAside (s : State) (r : Nat) : State :=
  match narrowRole s r with
  | some k =>
    if loomWidth (getTile s (holeTile s r)).loom == 32
        && (upto 0 25).all (fun i => let t := getTile s (rowTile r i)
            t.st == .idle || t.st == .joining || t.st == .loading || t.st == .pinfold) then spareTo r k 24 s
    else s
  | none => s

/-- Does a row wait to migrate, or migrate (R374)? -/
def migPending (q : Row) : Bool := q.stop == .waiting || q.stop == .migrating

/-- Can the spare of a row take the role of its source (R133)? -/
def migPossible (s : State) (r : Nat) : Bool :=
  tileUsable s (holeTile s r) && (getTile s (rowTile r (nextSource (getRow s r)))).st != .pinfold

/-- The copied lines that are dirty: those marked, and those written since the last guard (R369). -/
def dirtyLines (t : Tile) (m : Mig) : List Nat :=
  m.dirty ++ t.store.touched.filter (fun i => i < m.copied && !(m.dirty.contains i))

/-- Copier cells of a bank in one revolution of a guard (R196). -/
def guardCells (c : Ctx) (b : Nat) : Nat := countOf 16 (fun k => cellHolder c b (c.guardCc + k) == 0)

/-- Cells of the copier outside the guard, of all banks in one revolution: those that the map in force gives it. -/
def mapCells (c : Ctx) : Nat := (upto 0 16).foldl (fun n b => n + countOf 16 (fun w => match c.t.st with
  | .active | .switching | .halted => mapHolder c.t.store.mem c.t.actBank b w == 0
  | _ => idleHolder w == 0)) 0

/-- Take lines while there is room for them and a copier cell for each store line: `cap` gives the cells of a bank, the third argument
those already used. In rising order a line without a cell holds back those behind it; otherwise it is passed over. -/
def copyPick (cap : List Nat) (rising : Bool) : List Nat → Nat → Kv Nat → List Nat × Kv Nat
  | [], _, used => ([], used)
  | i :: rest, room, used =>
    let b := lineBank (64 * i)
    if room == 0 then ([], used)
    else if 8192 ≤ i then
      let r := copyPick cap rising rest (room - 1) used
      (i :: r.1, r.2)
    else if kvGet 0 used b < cap.getD b 0 then
      let r := copyPick cap rising rest (room - 1) (kvSet 0 used b (kvGet 0 used b + 1))
      (i :: r.1, r.2)
    else if rising then ([], used)
    else copyPick cap rising rest room used

/-- The copying of a guard (R369): lines never copied, then dirty ones, at most 1,024, from the cells that the map leaves the copier in
its 16 revolutions. -/
def guardCopy (bell : Nat) (c : Ctx) (m : Mig) : Mig :=
  let cap := (upto 0 16).map (fun b => 16 * guardCells c b)
  let fresh := copyPick cap true (upto m.copied (min 1024 (trackedLines - m.copied))) 1024 []
  let marks := dirtyLines c.t m
  let again := copyPick cap false marks (1024 - fresh.1.length) fresh.2
  { m with
    copied := m.copied + fresh.1.length, dirty := marks.filter (fun i => !(again.1.contains i))
    first := some (m.first.getD bell), last := fresh.1.length + again.1.length }

/-- Does something take effect at the bell that ends this guard which keeps a migration from cutting over (R370)? -/
def cutoverBarred (s : State) (n : Nat) : Bool :=
  (getPart s n).halted || (getPart s n).scan.isSome
  || s.reeve.changes.any (fun c => c.outcome == 0 && c.target == s.clk.bell + 1 && bitAt c.parts n
      && (c.kind == 0x10 || c.kind == 0x11 || c.kind == 0x12 || c.kind == 0x13))

/-- A row in a guard (R369, R370): a waiting migration begins, a running one copies or cuts over. A pause keeps a running one from
cutting over, not from copying (R367). -/
def migGuard (s : State) (r : Nat) : State :=
  let q := getRow s r
  let n := rowPart r
  let p := rowTile r (nextSource q)
  let t := getTile s p
  match q.mig with
  | none =>
    if q.stop == .waiting && q.retryAt == 0 && t.st == .active && t.stop.isNone && migPossible s r && !(rotationHeld s n) then
      modTile (modRow s r (fun q => { q with stop := .migrating, mig := some (guardCopy s.clk.bell (ctxOf s p) { src := p }) }))
        (holeTile s r) (fun d => { d with hw := { d.hw with role := 3 } })
    else s
  | some m =>
    if m.src != p then s
    else if t.st == .active && tileReady s p && t.doneCc ≤ s.clk.intvCc && m.copied == trackedLines && (dirtyLines t m).length ≤ 880
        && !(cutoverBarred s n) && !(rotationHeld s n) then moveRole s r
    else if tileRuns t then modRow s r (fun q => { q with mig := some (guardCopy s.clk.bell (ctxOf s p) m) })
    else modRow s r (fun q => { q with mig := some { m with first := some (m.first.getD s.clk.bell), last := 0 } })

/-- Every row in a guard; only rows that are not as the start left them can hold a migration. -/
def migGuards (s : State) : State :=
  (s.rows.map (fun q => q.1)).foldl (fun s r => if migPending (getRow s r) then migGuard s r else s) s

/-- MIGRATION_STRAIGHT_THROUGH (R373): the source is Idle, or stands in a test window. -/
def execMigrationStraightThrough (r : Nat) (s : State) : Res :=
  if ¬ r < rowCountAll then .refused .noSuchUnit
  else
    let q := getRow s r
    let t := getTile s (rowTile r (nextSource q))
    if migPending q && migPossible s r && (t.st == .idle || (t.window && !s.clk.guard))
        && (q.stop == .migrating || !(rotationHeld s (rowPart r))) then .next (withHealth s (moveRole s r))
    else .next s

/-- MIGRATION_ABANDON (R374): 48 intervals after the first guard have not sufficed; after three in succession the row is stalled. -/
def execMigrationAbandon (r : Nat) (s : State) : Res :=
  if ¬ r < rowCountAll then .refused .noSuchUnit
  else match (getRow s r).mig with
    | some m =>
      if !(m.first.any (fun b => b + 48 ≤ s.clk.bell)) then .next s
      else
        let s1 := modTile s (holeTile s r) (fun d => { d with hw := { d.hw with role := 1 } })
        .next (withHealth s (modRow s1 r (fun q => { q with
          mig := none, stop := .waiting, abandons := q.abandons + 1, stalls := q.stalls + 1
          stalled := q.stalled || 3 ≤ q.abandons + 1, retryAt := s.clk.bell + 1024 })))
    | none => .next s

/-- MIGRATION_RETRY (R374): 1,024 bells later the migration begins again. -/
def execMigrationRetry (r : Nat) (s : State) : Res :=
  if ¬ r < rowCountAll then .refused .noSuchUnit
  else
    let q := getRow s r
    if q.stop == .waiting && q.mig.isNone && q.retryAt != 0 && q.retryAt ≤ s.clk.bell && migPossible s r
        && !(rotationPaused s (rowPart r)) then
      .next (modTile (modRow s r (fun q => { q with
        stop := .migrating, retryAt := 0, mig := some { src := rowTile r (nextSource q) } })) (holeTile s r)
        (fun d => { d with hw := { d.hw with role := 3 } }))
    else .next s

/-- PATTERN_SET_VERIFY (R384): the signature of the signed pattern set verifies, or rotation stops. -/
def execPatternSetVerify (ok : Bool) (s : State) : Res :=
  .next { s with start := { s.start with patSetOk := ok } }

/-! ## Test windows (R381, R382) -/

/-- Does the running interval of a tile hold a test window? -/
def windowNow (t : Tile) : Bool :=
  t.st == .active && (upto 0 (dlCount t)).any (fun i => fld (dlEntry t i) 0 1 == 4 && dlApplies t (dlEntry t i))

/-- Does the running interval of a tile hold a loom-free window that leaves time for phase 2 (R382)? -/
def windowLoom (s : State) (t : Tile) : Bool :=
  270256 ≤ intvLen s && (upto 0 (dlCount t)).any (fun i =>
    fld (dlEntry t i) 0 1 == 4 && dlApplies t (dlEntry t i) && bitAt (fld (dlEntry t i) 1 1) 0)

/-- Free values from the n-th on, as an array of `count` words that are not zero by number. -/
def freeArray (w n count : Nat) : Kv (BitVec w) :=
  ((upto 0 count).map (fun i => (i, BitVec.ofNat w (Config.freeValue (n + i))))).filter (fun e => e.2 != 0)

/-- Phase 2 has run on a tile's loom: what it leaves in both weight sets and the accumulator store is open (R382 has them
reloaded and zeroed afterwards; assumption 16). -/
def loomSpoiled (s : State) (p : Nat) : State :=
  modTile { s with fresh := s.fresh + 10304 } p (fun t => { t with loom := { t.loom with
    setA := { t.loom.setA with w := freeArray 16 s.fresh 1056 }
    setB := { t.loom.setB with w := freeArray 16 (s.fresh + 1056) 1056 }
    acc := freeArray 32 (s.fresh + 2112) 8192, accBad := [] } })

/-- The windowed test of a tile (R382): its outcome, with the age still counting from the last full slice. -/
def windowTest (fails : List Nat) (s : State) (p : Nat) : State :=
  let s1 := if windowLoom s (getTile s p) then loomSpoiled s p else s
  let s2 := modTile s1 p (fun t => { t with hw := { t.hw with result := if fails.contains p then 3 else 1, partialRes := true } })
  if fails.contains p then failTile s2 p 1 else s2

/-- A window opens on a tile: a waiting migration completes, or in a row without a spare the windowed test runs, which a pause of
rotation does not stop (R367, R382); `fails` are the tiles whose test fails. -/
def windowOpen (fails : List Nat) (s : State) (p : Nat) : State :=
  let r := physProw p
  let q := getRow s r
  let s1 := modTile s p (fun t => { t with window := true })
  if migPending q && migPossible s r && rowTile r (nextSource q) == p
      && (q.stop == .migrating || !(rotationHeld s (rowPart r))) then
    modTile (moveRole s1 r) (holeTile s r) (fun t => { t with window := true })
  else if noSpare s r && !(hwOff s) then windowTest fails s1 p
  else s1

/-- The windows that open at a bell. -/
def windowsAt (fails : List Nat) (s : State) : State :=
  ((heldTiles s).filter (fun p => windowNow (getTile s p))).foldl (windowOpen fails) s

end Sys2Proof.Machine
end

