-- ==== Sys2Proof/Machine/Stage.lean ====
section
/-! DEFINITION. Staged changes: who refuses them, and what they do (spec/02, R58, R61, R66, R76 to R81; spec/15, R435;
spec/18, R483 to R486). Readings of the staging rules: DEDUCED, assumption 32. -/

namespace Sys2Proof.Machine

/-! ## The units in scope (R77) -/

/-- Does the pattern map of a partition name a logical tile (R392)? -/
def inMap (s : State) (n l : Nat) : Bool := (getPart s n).patMap.any (fun e => fld e 0 2 == l)

/-- The tiles of a context: the roles with a pattern installed or loaded. -/
def scopeTiles (s : State) (n : Nat) : List Nat :=
  (heldTiles s).filter (fun p => physPart p == n && (match logOf s p with
    | some l => (getTile s p).installed || inMap s n l
    | none => false))

/-- The reason a tile's state gives to refuse (R77, R81), 0 for none. -/
def stateReason (t : Tile) : Nat := match t.st with
  | .pinfold => 1 | .halted => 2 | .idle => 3 | .loading => 3 | _ => 0

/-- Is bell T the start bell of what a partition runs (Table 2.10)? A partition with nothing to run is not affected. -/
def jobStart (s : State) (n T : Nat) : Bool :=
  let p := getPart s n
  ((liveTiles s n).isEmpty && p.lots.isEmpty)
  || s.reeve.changes.any (fun c => c.outcome == 0 && c.kind == 0x10 && bitAt c.parts n && c.target == T)
  || (p.lots.any (fun l => l.state == 0 && l.start == T) && !(p.lots.any (fun l => l.state == 1 && T < lotEnd l)))

/-- Credits that the tiles of a context would hold on a channel of a logical tile, were they all active (R66). -/
def creditsOn (s : State) (ps : List Nat) (l c : Nat) : Nat :=
  ps.foldl (fun n p => (upto 0 16).foldl (fun n k =>
    let o := outEntry (getTile s p) k
    if o.2.2 != 0 && o.1 == l && o.2.1 == c then n + o.2.2 else n) n) 0

/-- The tiles of a context whose grants an activation would exceed (R66). -/
def creditsBad (s : State) (n : Nat) : List Nat :=
  let ps := (scopeTiles s n).filter (fun p => (getTile s p).installed)
  ps.filter (fun p => (upto 0 8).any (fun c => inGrant (getTile s p) c < creditsOn s ps (logD s p) c))

/-- Unit ID of a tile's role. -/
def tileUnit (s : State) (p : Nat) : Nat := unitId 1 (logD s p)

/-- The tiles that refuse a change, with their reasons. -/
def tileRefusers (s : State) (n : Nat) (own : Tile → Nat) : List (Nat × Nat) :=
  (scopeTiles s n).filterMap (fun p =>
    let t := getTile s p
    let r := if stateReason t != 0 then stateReason t else own t
    if r == 0 then none else some (tileUnit s p, r))

/-- The mills that are fenced: they refuse every change in whose scope they lie (R77). -/
def millRefusers (s : State) : List (Nat × Nat) :=
  (upto 0 stackCount).filterMap (fun k =>
    if (getStack s k).fenced || (getStack s k).lost then some (unitId 2 k, 1) else none)

/-- The ports that are fenced (R77). -/
def portRefusers (s : State) : List (Nat × Nat) :=
  (upto 0 portCount).filterMap (fun p => if (getPort s p).fenced then some (unitId 3 p, 1) else none)

/-- The fabrics of lost partitions, which are in pinfold (R77, R388). -/
def fabricRefusers (s : State) : List (Nat × Nat) :=
  parts.filterMap (fun n => if (getPart s n).lost then some (unitId 4 n, 1) else none)

/-- The units of the whole module that refuse a change of module or domain scope, with the tiles' own condition. -/
def moduleRefusers (s : State) (own : Tile → Nat) : List (Nat × Nat) :=
  parts.flatMap (fun n => tileRefusers s n own) ++ millRefusers s ++ portRefusers s ++ fabricRefusers s

/-- The partitions for which bell T is not the start bell of what they run. DESIGN CHOICE, assumption 55: the spec names no
unit for reason 5, and the partition fabric of each such partition is listed. -/
def startRefusers (s : State) (T : Nat) (ns : List Nat) : List (Nat × Nat) :=
  ns.filterMap (fun n => if jobStart s n T then none else some (unitId 4 n, 5))

/-- The tiles that refuse a group activation: those that are not Joining, and those whose grants it would exceed (R61, R66).
DESIGN CHOICE, assumption 55: R81 has no reason of its own for a credit overcommit, which is listed as 3. -/
def joinRefusers (s : State) (n : Nat) : List (Nat × Nat) :=
  let excess := creditsBad s n
  (scopeTiles s n).filterMap (fun p =>
    let t := getTile s p
    let r := if stateReason t != 0 then stateReason t else if t.st != .joining then 8 else if excess.contains p then 3 else 0
    if r == 0 then none else some (tileUnit s p, r))

/-- The units that refuse a change at its evaluation point (R77, Table 2.10): the tiles in scope, and for a change in which
they take part the mills (R288) and, for one of module or domain scope, the ports. DESIGN CHOICE, assumption 55: R77 and
R81 have no reason for a tile that is Joining or Switching when a bank switch asks for it, which is listed as 3. -/
def refusersOf (s : State) (c : Change) : List (Nat × Nat) :=
  let ns := maskParts c.parts
  let tiles := fun (own : Tile → Nat) => ns.flatMap (fun n => tileRefusers s n own)
  match c.kind with
  | 0x01 => tiles (fun _ => 0) ++ millRefusers s
  | 0x02 => tiles (fun _ => 0)
  | 0x03 => moduleRefusers s (fun _ => 0)
  | 0x04 => moduleRefusers s (fun _ => 0) ++ startRefusers s c.target parts
  | 0x05 =>
    let cc := Config.ccPerUs * fld c.value 0 2
    moduleRefusers s (fun t => if t.installed && cc < hdrFld t.store.mem t.actBank 0x20 4 then 4 else 0)
  | 0x06 => moduleRefusers s (fun _ => 0)
  | 0x07 => moduleRefusers s (fun _ => 0) ++ startRefusers s c.target ns
  | 0x08 => tiles (fun _ => 0) ++ millRefusers s ++ startRefusers s c.target ns
  | 0x10 => ns.flatMap (joinRefusers s)
  | 0x11 =>
    let k := fld c.value 0 1 % 4
    ns.flatMap (fun n => tileRefusers s n (fun t =>
      if t.st != .active then 3 else if kvGet .empty t.banks k != .ready then 6 else 0))
  | 0x12 => ns.flatMap (fun n => tileRefusers s n (fun _ => 0))
  | _ => []

/-- Is a change of domain scope (R79)? -/
def domainKind (k : Nat) : Bool := k == 5 || k == 6

/-- Mark a change evaluated, with the units that refuse it. -/
def changeEval (s : State) (c : Change) : State :=
  let peers := if domainKind c.kind then
      (s.link.votes.filter (fun v => v.1 == c.target % 2 ^ 48 && !(c.refusers.contains (unitId 5 v.2, 7)))).map (fun v => (unitId 5 v.2, 7))
    else []
  let c1 := { c with evaluated := true, refusers := c.refusers ++ peers ++ refusersOf s c }
  let s1 := if c.kind == 0x10 then
      (maskParts c.parts).foldl (fun s n => (creditsBad s n).foldl (fun s p => modTile s p (fun t => { t with loadErr := 7 })) s) s
    else s
  changePut s1 c1

/-- Is the guard that has begun a change's evaluation point (R79, R80)? A bank switch is evaluated at its window (R58). -/
def evalDue (s : State) (c : Change) : Bool :=
  c.outcome == 0 && !c.evaluated && c.kind != 0x11
  && (if domainKind c.kind then c.target ≤ s.clk.bell + s.link.voteW + 1 else c.target ≤ s.clk.bell + 1)

/-- The domain changes that are being voted on put off a staged halt until after the last of their bells (R79). -/
def haltDefer (s : State) : State :=
  let last := (s.reeve.changes.filter (fun c => c.outcome == 0 && c.evaluated && domainKind c.kind)).foldl
    (fun m d => max m (d.target + 1)) 0
  modReeve s (fun r => { r with changes := r.changes.map (fun c =>
    if c.outcome == 0 && c.kind == 2 && !c.evaluated && c.target < last then { c with target := last } else c) })

/-- Evaluate what is due in a guard. -/
def changesEval (s : State) : State :=
  let dom := (s.reeve.changes.filter (fun c => domainKind c.kind && evalDue s c)).foldl changeEval s
  let s1 := haltDefer dom
  (s1.reeve.changes.filter (evalDue s1)).foldl changeEval s1

/-! ## Applying (R80) -/

/-- Start a clerk whose pattern carries an image (R217). -/
def clerkStart (t : Tile) (bell : Nat) : Clerk :=
  if secLen t.store.mem t.actBank 8 == 0 then t.clerk
  else { t.clerk with run := .running, bellSeen := BitVec.ofNat 32 bell }

/-- A Joining tile becomes Active (R61, R217). -/
def activateTile (bell : Nat) (t : Tile) : Tile :=
  { t with st := .active, stop := none, seq := { t.seq with intervals := 0, nextCc := 0 }, clerk := clerkStart t bell }

/-- Group activation of a context at bell T. -/
def activateCtx (s : State) (n : Nat) : State :=
  let s1 := (scopeTiles s n).foldl (fun s p =>
    if (getTile s p).st == .joining then modTile s p (activateTile s.clk.bell) else s) s
  modPart s1 n (fun p => { p with actBell := s.clk.bell })

/-- An entry of the pattern map when bank k becomes the active one: its install flag (R392). -/
def mapInstall (k : Nat) (e : List Byte) : List Byte :=
  patch e 3 (toLe 1 (if fld e 2 1 % 4 == k then setBit (fld e 3 1) 0 else clrBit (fld e 3 1) 0))

/-- The bank switch of a context at bell T (R58). The pattern map follows, for the tiles that a reset takes from here on (R80). A tile whose incoming bank could not be read is Idle, and the context is
reset (R208). -/
def switchCtx (s : State) (n k : Nat) : State :=
  let bad := (scopeTiles s n).any (fun p => (getTile s p).st == .switching && kvGet .empty (getTile s p).banks k != .ready)
  let s1 := (scopeTiles s n).foldl (fun s p =>
    let t := getTile s p
    if t.st != .switching then s
    else if kvGet .empty t.banks k == .ready then imRest (modTile s p (fun t => switchBank t k s.clk.cycles s.clk.bell)) p
    else modTile s p (fun t => { t with st := .idle })) s
  let s2 := modPart s1 n (fun q => { q with patMap := q.patMap.map (mapInstall k) })
  if bad then beginReset s2 n 1 0x0013 else s2

/-- The keys of the routers follow the key table (R258). -/
def keysWrite (s : State) : State :=
  (heldTiles s).foldl (fun s p =>
    let q := getPart s (physPart p)
    if (logOf s p).isNone || (getTile s p).st == .pinfold then s
    else modTile s p (fun t => { t with router := { t.router with key := q.key, prev := q.prevKey } })) s

/-- New keys for the partitions of a mask; 0 leaves a key (R80, R258). -/
def keysRotate (s : State) (ns : List Nat) (ks : List Byte) : State :=
  keysWrite (modClk (ns.foldl (fun s n =>
    let k := fld ks (2 * n) 2
    if k == 0 then s else modPart s n (fun p => { p with prevKey := p.key, key := k })) s) (fun c => { c with rotation := true }))

/-- The marks of some shares' bolts when every bolt there is unwritten (R274): what stays is the lines that cannot be corrected. -/
def unwritten (hit : Nat → Bool) (bs : Kv BoltMeta) : Kv BoltMeta :=
  (bs.filter (fun e => !(hit (e.1 / Config.shareBolts)) || !e.2.bad.isEmpty)).map (fun e =>
    if hit (e.1 / Config.shareBolts) then (e.1, { bad := e.2.bad }) else e)

/-- Draw seeds for partitions, and mark every bolt of their shares unwritten (R274). -/
def reseed (s : State) (ns : List Nat) : State :=
  ns.foldl (fun s n =>
    let s1 := modPart s n (fun p => { p with seed := Config.random s.fresh })
    { s1 with fresh := s1.fresh + 1, bolts := unwritten (fun m => m == n) s1.bolts }) s

/-- Does an ML_SPLIT word hold a legal split (R278, R14)? -/
def splitOk (w : Nat) : Bool :=
  bitAt w 31 || (bits w 4 0 + bits w 9 5 + bits w 14 10 == 16 && bits w 4 0 ≤ 16 && bits w 9 5 ≤ 16 && bits w 14 10 ≤ 16)

/-- Apply a change that nobody refused: it governs from cc 0 of interval T. A staged halt is applied after the others. -/
def changeApply (s : State) (c : Change) : State :=
  let ns := maskParts c.parts
  match c.kind with
  | 0x01 =>
    let m := BitVec.ofNat 32 (fld c.value 0 4)
    ns.foldl (fun s n =>
      (scopeTiles s n).foldl (fun s p => modTile s p (fun t => { t with num := { t.num with mode := m } }))
        (modPart s n (fun p => { p with millMode := m }))) s
  | 0x03 => modClk s (fun k => { k with holdUs := fld c.value 0 2 })
  | 0x04 => (upto 0 8).foldl (fun s k =>
      if bitAt (fld c.value 4 1) k && splitOk (fld c.value 0 4) then modStack s k (fun q => { q with split := Nat.land (fld c.value 0 4) 0x80007FFF }) else s) s
  | 0x05 => modClk s (fun k => { k with periodUs := fld c.value 0 2 })
  | 0x06 => keysRotate s ns c.value
  | 0x07 => reseed s ns
  | 0x08 => (upto 0 8).foldl (fun s k => modStack s k (fun q => { q with
      merge := ns.foldl (fun m n => if bitAt (fld c.value 0 2) n then setBit m n else clrBit m n) q.merge })) s
  | 0x10 => ns.foldl activateCtx s
  | 0x11 => ns.foldl (fun s n => switchCtx s n (fld c.value 0 1 % 4)) s
  | 0x12 => ns.foldl (fun s n => modPart s n (fun p => { p with scan := some c.id })) s
  | 0x13 => ns.foldl (fun s n =>
      (heldTiles s).foldl (fun s p =>
        if physPart p == n && (getTile s p).st == .halted then modTile s p (fun t => { t with st := .active }) else s)
        (modPart s n (fun p => { p with resumeIn := false, halted := false, actBell := s.clk.bell }))) s
  | 0x15 => ns.foldl (fun s n => modPart s n (fun p => { p with leaveAt := none })) s
  | 0x16 => keysWrite (ns.foldl (fun s n =>
      modPart (endLots s n 0x0052) n (fun p => { p with key := 0, prevKey := 0 })) s)
  | _ => s

/-- Decide and apply the changes whose bell has fired. A scan-out stays pending until its quiet bell, a leave until every
lot has its record. -/
def changesApply (s : State) : State :=
  (s.reeve.changes.filter (fun c => c.outcome == 0 && c.target ≤ s.clk.bell && c.kind != 2
      && !((c.kind == 0x12 || c.kind == 0x16) && c.target < s.clk.bell))).foldl (fun s c =>
    if !c.refusers.isEmpty then changeDecide s c 2
    else
      let s1 := changeApply s c
      if c.kind == 0x12 || c.kind == 0x16 then s1 else changeDecide s1 c 1) s

/-! ## Halts (R483 to R485) -/

/-- Halt a context in place of starting an interval. -/
def haltCtx (s : State) (n : Nat) : State :=
  (liveTiles s n).foldl (fun s p => modTile s p (fun t =>
    { t with st := .halted, clerk := { t.clerk with resv := none } })) (modPart s n (fun p => { p with halted := true }))

/-- Decide and apply the staged halts of a bell. -/
def haltsApply (s : State) : State :=
  (s.reeve.changes.filter (fun c => c.outcome == 0 && c.kind == 2 && c.target ≤ s.clk.bell)).foldl (fun s c =>
    if !c.refusers.isEmpty then changeDecide s c 2
    else changeDecide ((maskParts c.parts).foldl haltCtx s) c 1) s

/-- A resume whose bell has come (R485). -/
def resumeCtx (s : State) (n : Nat) : State :=
  match (getPart s n).resumeAt with
  | some b =>
    if b ≤ s.clk.bell && (getPart s n).halted then
      let s1 := modPart s n (fun p => { p with halted := false, resumeAt := none, skipped := 0, skipCc := 0 })
      (heldTiles s1).foldl (fun s p =>
        if physPart p == n && (getTile s p).st == .halted then modTile s p (fun t => { t with st := .active }) else s) s1
    else s
  | none => s

/-! ## Scan-outs (R70) -/

/-- Is the bell that has come a quiet one for a context: every tile waits with cond 6, and no DMA tag is outstanding (R63,
R70)? DESIGN CHOICE, assumption 55: a pattern marks a bell quiet only when both conditions of R70 hold, so the spec does not
say what a mark that is not true does; a bell with a tag outstanding is not taken, and items in flight between modules are
not looked at. -/
def quietBell (s : State) (n : Nat) : Bool :=
  !(liveTiles s n).isEmpty && (liveTiles s n).all (fun p => (getTile s p).seq.wait == 6) && !(dmaBusy s n)

/-- A scan-out past its target for which no context waits any more, its context having been reset, is abandoned (R81). -/
def scansLost (s : State) : State :=
  (s.reeve.changes.filter (fun c => c.outcome == 0 && c.kind == 0x12 && c.target ≤ s.clk.bell
    && !(parts.any (fun n => (getPart s n).scan == some c.id)))).foldl (fun s c => changeDecide s c 2) s

/-- The scan-outs that wait for a quiet bell, with the contexts whose bell is one: written, or given up after 256 bells. A
scan-out clears the reservations of its tiles before their images are taken (R239). -/
def scansApply (s0 : State) (quiet : List Nat) : State :=
  let s := scansLost s0
  parts.foldl (fun s n => match (getPart s n).scan with
    | none => s
    | some id => match s.reeve.changes.find? (fun c => c.id == id) with
      | none => modPart s n (fun p => { p with scan := none })
      | some c =>
        if quiet.contains n then
          let s1 := (liveTiles s n).foldl (fun s p => modTile s p (fun t => { t with clerk := { t.clerk with resv := none } })) s
          let s2 := scanOut s1 n (fld c.value 1 4) (bitAt (fld c.value 0 1) 0)
          changeDecide (modPart s2 n (fun p => { p with scan := none })) c 1
        else if c.target + 256 ≤ s.clk.bell then changeDecide (modPart s n (fun p => { p with scan := none })) c 2
        else s) s

/-! ## Switch windows (R58) -/

/-- The switches whose window opens before the next bell. -/
def switchesDue (s : State) : List Change :=
  s.reeve.changes.filter (fun c => c.outcome == 0 && c.kind == 0x11 && !c.evaluated && c.target ≤ s.clk.bell + 1)

/-- Copy a tile's incoming bank in its window; one that cannot be read is Staged from then on (R208). -/
def windowCopy (s : State) (k p : Nat) : State :=
  let cc := ctxCc s (physPart p)
  let r := readImage { ctxOf s p with t := getTile s p } k cc
  let bad := r.2.sigs.any (fun g => match g with | .event c _ _ _ => c == 0x0121 | _ => false)
  let s1 := applySigs (setTile s p r.2.t) p (r.2.sigs.filter (fun g => match g with | .fail _ _ => false | _ => true))
  modTile s1 p (fun t => { t with
    st := .switching, nextBank := k, banks := if bad then kvSet .empty t.banks k .staged else t.banks })

/-- Evaluate a switch, and open the window of one that nobody refuses. -/
def switchOpen (s : State) (c : Change) : State :=
  let s1 := changeEval s c
  if (refusersOf s c).isEmpty then
    (maskParts c.parts).foldl (fun s n => (scopeTiles s n).foldl (fun s p => windowCopy s (fld c.value 0 1 % 4) p) s) s1
  else s1

/-- SWITCH_WINDOW_OPEN (R58): 3,500 cc before the expected time of the next bell. -/
def execSwitchWindowOpen (s : State) : Res :=
  if s.clk.guard || (switchesDue s).isEmpty then .next s
  else
    let s1 := advanceTo s (expectCc s - Config.windowCc)
    .next ((switchesDue s1).foldl switchOpen s1)

end Sys2Proof.Machine
end

