-- ==== Sys2Proof/Machine/Bell.lean ====
section
/-! DEFINITION. The bell: the guard, the expected time, holds, firing and overruns (spec/02, R36 to R50; spec/14, R405;
spec/17, R472, R473). Readings of the watchman: DEDUCED, assumption 29. -/

namespace Sys2Proof.Machine

/-! ## Boundary actions of the guard (R39) -/

/-- The clock steps from bell T on (R472, R473); a change of the module's own step is an event (R471). -/
def noticeApply (s : State) : State :=
  let due := s.clk.notices.filter (fun n => n.target ≤ s.clk.bell + 1)
  let s1 := modClk s (fun c => { c with
    notices := c.notices.filter (fun n => !(n.target ≤ s.clk.bell + 1))
    steps := due.foldl (fun m n => kvSet 0 m n.origin n.step) c.steps
    step := due.foldl (fun m n => if n.origin == s.link.modId % 2 ^ 17 then n.step else m) c.step })
  if s1.clk.step == s.clk.step then s1
  else sendEvent s1 { code := 0x0181, bell := s.clk.bell, cc := s.clk.intvCc, lot := 0 }

/-- The deepest step a module holds (R473). -/
def slowestStep (s : State) : Nat := s.clk.steps.foldl (fun m q => max m q.2) s.clk.step

/-- The emergency extension of an interval, in cc (R473): ⌈1400 P f_own / f_s⌉ − 1400 P. -/
def extensionCc (s : State) : Nat :=
  let own := 8 - s.clk.step
  let low := 8 - slowestStep s
  (intvLen s * own + (low - 1)) / low - intvLen s

/-- The route bank switches in the guard before the named bell (R323). -/
def routeSwitch (s : State) : State :=
  if s.reeve.changes.any (fun c => c.outcome == 0 && c.kind == 0x14 && c.target ≤ s.clk.bell + 1) then
    { s with link := { s.link with bank := 1 - s.link.bank } }
  else s

/-- Post a mill entry of a lot to all eight mills; what stands past the 64th in a queue waits at the interface (R286, R429). -/
def millPostLot (s : State) (n : Nat) (l : Lot) (desc : List Byte) : State :=
  let e : MillEnt := { desc := desc, src := 0xFFFF, key := (getPart s n).key, lot := l.number % 2 ^ 32 }
  let s1 := (upto 0 8).foldl (fun s k => modStack s k (fun q =>
    { q with queues := kvSet [] q.queues n (kvGet [] q.queues n ++ [e]) })) s
  modPart s1 n (fun p => { p with lots := p.lots.map (fun x => if x.number == l.number then
    { x with mill := x.mill + 8, mills := x.mills.eraseP (fun m => m.2 == desc) } else x) })

/-- The mill entries due at the bell that ends the guard; a Halted context skips that bell (R484). -/
def millPosts (s : State) : State :=
  parts.foldl (fun s n => if (getPart s n).halted then s else (getPart s n).lots.foldl (fun s l => l.mills.foldl (fun s m =>
    if l.state != 2 && l.start + l.skips + m.1 ≤ s.clk.bell + 1 then millPostLot s n l m.2 else s) s) s) s

/-- Lines that the migration of a tile's role has copied in this guard: they come before the scrub's. -/
def hwCopies (s : State) (p : Nat) : Nat :=
  match (getRow s (physProw p)).mig with
  | some m => if m.src == p && tileRuns (getTile s p) then m.last else 0
  | none => 0

/-- The line at which the scrub of a tile stands when a guard ends that it entered at line `i` (R209): it has read a line in each
copier cell of the interval that ECC write-backs and Hayward leave it, those before the guard included. -/
def scrubEnd (s : State) (p i : Nat) : Nat :=
  let c := ctxOf s p
  let cells := (upto 0 16).foldl (fun n b => n + guardCells c b) 0
  min (i + (16 * cells + guardAt s / 16 * mapCells c - hwCopies s p - kvGet 0 c.t.busy 31)) 8192

/-- One bad line met by the scrub (R208, R209): corrected and written back, or reported; no lot fails. -/
def scrubLine (s : State) (p line : Nat) : State :=
  let c := ctxOf s p
  let r := lineRead c 0 s.clk.intvCc (64 * line)
  let one := lineBad c.t.store (64 * line) == 1
  let twice := one && c.t.store.scrubCor.contains line
  let t := storeMod r.2.t (fun q =>
    { (if one then lineFix (64 * line) { q with wbq := q.wbq.filter (fun l => l != 64 * line) } else q) with
      scrubCor := if one then q.scrubCor ++ [8192 + line] else q.scrubCor })
  let s1 := applySigs (setTile s p t) p (r.2.sigs.filter (fun g => match g with | .fail _ _ => false | _ => true))
  if twice then sendEvent s1 (tileEvent s1 p 0x0131 s.clk.intvCc 0 0 []) else s1

/-- The scrub of a tile in a guard: the next lines in rising order; `scrubCor` holds the lines the last pass corrected,
and 8,192 above them those of the running one. -/
def scrubGuard (s : State) (p : Nat) : State :=
  match (getTile s p).store.scrubPos with
  | none => s
  | some i =>
    let hi := scrubEnd s p i
    let bad := (badLines (getTile s p).store).filter (fun l => i ≤ l && l < hi)
    let s1 := bad.foldl (fun s l => scrubLine s p l) s
    modTile s1 p (fun t => storeMod t (fun q =>
      if hi < 8192 then { q with scrubPos := some hi }
      else { q with scrubPos := none, scrubCor := q.scrubCor.filterMap (fun l => if 8192 ≤ l then some (l - 8192) else none) }))

/-- The copier's write-backs come before its Hayward copies and its scrub (R198, R207): the lines queued whose banks have a copier
cell in the guard are rewritten, and counted. -/
def guardFix (s : State) (p : Nat) : State :=
  let now := (getTile s p).store.wbq.filter (fun l => guardCells (ctxOf s p) (lineBank l) != 0)
  if now.isEmpty then s
  else modTile s p (fun t => { storeMod t (fun q => now.foldl (fun q l => lineFix l { q with wbq := q.wbq.erase l }) q) with
    busy := kvSet 0 t.busy 31 now.length })

/-- The gather buffer drains, and corrected lines are written back, at the guard (R198, R201, R231). A lot's unchecked tiles are those whose check was lost while it ran (R140). -/
def guardTile (s0 : State) (p : Nat) : State :=
  let s := guardFix s0 p
  let s1 := modTile s p (fun t => { t with lotUnchecked := t.lotUnchecked || checkLost t })
  atCc s1 p gatherDrainAll

/-- The guard's migration has taken a tile's marks of written lines; the next guard sees what is written from now on (R369). -/
def marksTaken (s : State) (p : Nat) : State := modTile s p (fun t => storeMod t (fun q => { q with touched := [] }))

/-- A tile at the bell that ends an interval: the gather buffer empties, a test window is over (R381), and a role that has just
been moved joins (R370, R373). -/
def tileBellEnd (cc : Nat) (t : Tile) : Tile := { gatherEmpty cc t with window := false, joins := false }

/-- Does the module generate bells: is D93, the bell's domain, on (R22, R37)? -/
def bellOn (s : State) : Bool := domOn s 93

/-- BELL_GUARD_START (R39): the last 256 cc of an interval begin. -/
def execBellGuardStart (s : State) : Res :=
  if s.clk.guard || !(bellOn s) then .next s
  else
    let s1 := modClk (advanceTo s (guardAt s)) (fun c => { c with guard := true })
    let s2 := (heldTiles s1).foldl guardTile s1
    let s3 := routeSwitch (changesEval (noticeApply s2))
    let s4 := migGuards (millPosts (watchTake s3))
    .next (withHealth s ((heldTiles s4).foldl (fun s p => scrubGuard (marksTaken s p) p) s4))

/-! ## What a bell ends -/

/-- Is a mill entry one of a lot? -/
def millOf (l : Lot) (e : MillEnt) : Bool := e.lot == l.number % 2 ^ 32

/-- The descriptors of a lot that the mills still hold, with their stacks. -/
def lotMills (s : State) (n : Nat) (l : Lot) : List (Nat × MillEnt) :=
  (upto 0 8).flatMap (fun k =>
    let q := getStack s k
    (((kvGet none q.running n).toList ++ kvGet [] q.queues n).filter (millOf l)).map (fun e => (k, e)))

/-- Abandon a lot's descriptors (R430); a tile's post is complete with them. -/
def millsAbandon (s : State) (n : Nat) (l : Lot) : State :=
  let es := lotMills s n l
  let s1 := (upto 0 8).foldl (fun s k => modStack s k (fun q => { q with
    queues := kvSet [] q.queues n ((kvGet [] q.queues n).filter (fun e => !(millOf l e)))
    running := match kvGet none q.running n with
      | some e => if millOf l e then kvSet none q.running n none else q.running
      | none => q.running })) s
  es.foldl (fun s e =>
    if e.2.src == 0xFFFF then s else answer s e.1 e.2.src [writeCompletion e.1 e.2.key e.2.src e.2.tag (keyTable s)]) s1

/-- A lot whose end bell comes while its descriptors run (R430): 0x0021, or 0x0031 when only reductions wait. -/
def millsLate (s : State) (n : Nat) : State :=
  (getPart s n).lots.foldl (fun s l =>
    let es := lotMills s n l
    if l.state == 1 && l.intervals != 0 && lotEnd l == s.clk.bell + 1 && !es.isEmpty then
      let code := if es.all (fun e => fld e.2.desc 0 1 == 0x10) then 0x0031 else 0x0021
      modPart (millsAbandon s n l) n (fun p => { p with lots := p.lots.map (fun x => if x.number == l.number then
        { x with mill := 0, causes := x.causes ++ [(code, s.clk.bell, s.clk.intvCc)] } else x) })
    else s) s

/-- The code of a stopped context (R65, R106, R237). -/
def stopCode (c : StopCause) : Nat := match c with
  | .schedule => 0x0021 | .nanTrap => 0x0015 | .clerkFault => 0x0024

/-- Contexts with a stopped tile, each with the code of its stop (R65, R106, R237). A tile that stops in a replay stays
stopped until the replay ends. -/
def stoppedCtxs (s : State) : List (Nat × Nat) :=
  parts.filterMap (fun n =>
    if partDown s n || replaying s n then none
    else ((liveTiles s n).findSome? (fun p => (getTile s p).stop)).map (fun c => (n, stopCode c)))

/-- Reset contexts at a bell, each with a code. -/
def stopsReset (l : List (Nat × Nat)) (s : State) : State := l.foldl (fun s c => beginReset s c.1 1 c.2) s

/-- A context whose active lot is to be cancelled is reset at the bell (R402): the lot ends with 0x0051, the others with the
code of the reset (R401). -/
def cancelReset (s : State) (n : Nat) : State :=
  if (getPart s n).lots.any (fun l => l.state == 1 && l.cancelReq) then
    beginReset (modPart s n (fun p => { p with lots := p.lots.map (fun l =>
      if l.state == 1 && l.cancelReq then endLot s n 0x0051 l else l) })) n 1 0x0042
  else s

/-- Does a context consume items that a notice abandoned (R50): it waited for them in the interval that has ended, or its lot goes
on? -/
def consumesAbandoned (s : State) (n : Nat) : Bool :=
  (liveTiles s n).any (fun p =>
    let t := getTile s p
    (upto 0 (dlCount t)).any (fun i =>
      let e := dlEntry t i
      fld e 0 1 == 3 && srcAbandoned s n (fld e 8 4)
        && ((dlApplies t e && !(dlMet t e)) || (getPart s n).lots.any (fun l => l.state == 1 && s.clk.bell < lotEnd l))))

/-- End the active lots that consume abandoned items, and tell their consumers in turn (R50). -/
def abandonedEnd (s : State) (n : Nat) : State :=
  if !(partDown s n) && consumesAbandoned s n then
    modPart (abortNotices s n (s.clk.bell - 1)) n (fun p => { p with lots := p.lots.map (fun l =>
      if l.state == 1 then endLot s n 0x0031 l else l) })
  else s

/-- Discard the open barrier contexts of a router, each counted and a schedule violation, and close its flags (R262). -/
def barrierDiscard (s : State) (p : Nat) : State :=
  let r := (getTile s p).router
  let s1 := r.bar.foldl (fun s b => match b.2 with
    | some c =>
      let s1 := modRouter s p (fun r => { r with dropStale := satAdd 8 r.dropStale 1 })
      failKey (sendEvent s1 (ofPart s (keyOwner s c.key) (tileEvent s1 p 0x0153 s.clk.intvCc 0x0021 0 []))) c.key 0x0021
    | none => s) s
  modRouter s1 p (fun r => { r with bar := [], flags := 0, flagKeys := [] })

/-! ## The next interval -/

/-- Does a context skip the bell that fires (R484, R486)? -/
def ctxSkips (s : State) (n : Nat) : Bool :=
  (getPart s n).halted || ((getPart s n).loose && !((liveTiles s n).isEmpty) && !(ctxReady s n && ctxDone s n ≤ s.clk.intvCc))

/-- A context skips the bell: its lots count only the bells it does not skip. -/
def ctxSkip (cc : Nat) (p : Part) : Part :=
  { p with
    skipped := p.skipped + 1, skipCc := p.skipCc + cc, endBell := p.endBell + 1
    lots := p.lots.map (fun l =>
      if l.state == 0 then { l with start := l.start + 1 } else if l.state == 1 then { l with skips := l.skips + 1 } else l) }

/-- A tile at cc 0 of an interval: the cc of its units count from there, and the arrivals are those stamped for it. -/
def tileNext (t0 : Tile) : Tile :=
  let t := tileFresh t0
  { t with
    seq := { t.seq with intervals := t.seq.intervals + 1 }
    arrivals := t.nextArr, nextArr := []
    clerk := { t.clerk with bellPend := true } }

/-- A tile takes the bell (R62, R63); of a stopped one only the interval ends. -/
def tileBell (s : State) (p : Nat) : State :=
  if (getTile s p).stop.isSome then modTile s p tileFresh else modTile (seqBell s p) p tileNext

/-- A context takes the bell. -/
def ctxTake (s : State) (n : Nat) : State :=
  (liveTiles s n).foldl tileBell (modPart s n (fun p => { p with skipped := 0, skipCc := 0 }))

/-- The bell of the module (R45, R258, R473). -/
def clkBell (s : State) : State :=
  let s1 := modClk s (fun c => { c with
    bell := c.bell + 1, intvCc := 0, expectDelay := 0, expected := false, guard := false, holding := false })
  if s1.clk.rotation then
    keysWrite (modClk (parts.foldl (fun s n => modPart s n (fun p => { p with prevKey := 0 })) s1) (fun c => { c with rotation := false }))
  else s1

/-! ## The start of a lot (R429) -/

/-- What a lot's start clears on a tile, and its generators' seeds (R94, R104, R139, R165, R189, R208, R353). -/
def lotTile (lt seed : Nat) (t : Tile) : Tile :=
  { t with
    num := { t.num with
      nanValid := false, nanStopped := false, nanRec := [], nanCount := 0
      srRun := []
      sr := (upto 0 32).foldl (fun m k => kvSet 0 m k (srSeed seed lt k)) [] }
    loom := { t.loom with chkValid := false, chkRec := [] }
    fuller := { t.fuller with resValid := false, resRec := [] }
    sparse := { t.sparse with ovrValid := false, ovrCause := 0, ovrRec := [] }
    store := { t.store with ueValid := false, uePort := 0, ueLine := 0, ueBell := 0 }
    tally := { t.tally with recValid := false, recd := [], digest := 0 }
    lotUnchecked := checkLost t }

/-- The partition-rows in the order of the spare map: by partition, then by row within it (R385). -/
def spareRows : List Nat := parts.flatMap partRows

/-- The lots of a partition whose start bell has fired: started, or ended when a tile of theirs is not Active. -/
def lotStart (s : State) (n : Nat) (l : Lot) : State :=
  let ps := (scopeTiles s n).filter (fun p => (getTile s p).installed)
  let put := fun (s : State) (x : Lot) => modPart s n (fun p => { p with
    lots := p.lots.map (fun y => if y.number == l.number then x else y) })
  if l.intervals != 0 && ps.any (fun p => (getTile s p).st != .active && (getTile s p).st != .halted) then put s (endLot s n 0x0021 l)
  else
    let s1 := ps.foldl (fun s p => modTile s p (lotTile (logD s p) l.seed)) s
    let s2 := (upto 0 8).foldl (fun s k => modStack s k (fun q => { q with
      nan := kvSet [] q.nan n [], nanCount := kvSet 0 q.nanCount n 0 })) s1
    put s2 { l with
      state := 1, active := true, mode := (getPart s n).millMode, start := s.clk.bell
      spares := spareRows.map (fun r => (getRow s r).spare)
      patterns := ps.foldl (fun m p => kvSet 0 m (logD s p) (tilePattern (getTile s p))) [] }

/-- Start the lots whose bell has fired; those of a partition under an assay wait until it ends (R354). -/
def lotsStart (s : State) : State :=
  parts.foldl (fun s n => if (getPart s n).assay.isSome then s else (getPart s n).lots.foldl (fun s l =>
    if l.state == 0 && l.start ≤ s.clk.bell then lotStart s n l else s) s) s

/-- The first bell of a replay (R354): the tiles that its setup has loaded run, as at the lot's own first bell. -/
def assayBell (s : State) (n : Nat) : State :=
  match liveAssay s n with
  | none => s
  | some a =>
    let l := assayLot s n a
    if ctxBell s n != l.start then s
    else (scopeTiles s n).foldl (fun s p => modTile s p (fun t =>
      let t1 := if t.st == .joining then activateTile (ctxBell s n) t else t
      { lotTile (logD s p) l.seed t1 with num := { (lotTile (logD s p) l.seed t1).num with mode := l.mode } })) s

/-- Lots that have come to their end stand as they are then (R430). -/
def lotsOver (s : State) : State :=
  parts.foldl (fun s n => modPart s n (fun p => { p with lots := p.lots.map (fun l =>
    if lotOver s n l then { latchLot s n l with state := 2, active := false, ended := s.clk.bell } else l) })) s

/-! ## The rest of a bell -/

/-- A scrub pass starts every INTERVAL bells unless one still runs (R209). -/
def scrubStart (bell : Nat) (q : Store) : Store :=
  if q.scrubIntv != 0 && bell % q.scrubIntv == 0 && q.scrubPos.isNone then { q with scrubPos := some 0 } else q

/-- Whole seconds that end with the interval that has just run, at the nominal clock. -/
def secondsPassed (s : State) (cc : Nat) : Nat := s.clk.cycles / 1400000000 - (s.clk.cycles - cc) / 1400000000

/-- The tiles' age counters and scrubs, and the powered hours since the last full start (Table 16.8). -/
def tilesBell (s : State) (cc : Nat) : State :=
  let hour := 3600 * 1400000000
  let s1 := { s with start := { s.start with hours := satAdd 16 s.start.hours (s.clk.cycles / hour - (s.clk.cycles - cc) / hour) } }
  (heldTiles s).foldl (fun s p => modTile s p (fun t => { t with
    hw := { t.hw with ageS := satAdd 16 t.hw.ageS (secondsPassed s cc) }
    store := scrubStart s.clk.bell t.store })) s1

/-- Mills and ports at a bell: the imbalance of the interval, parked messages, bell flits (R276, R318, R328); a change of bell
following takes effect, and the clock source is sought again (R327, R334). -/
def edgesBell (s : State) : State :=
  let s1 := (upto 0 8).foldl (fun s k => modStack s k imbalBell) s
  let s2 := (upto 0 32).foldl (fun s p => modPort s p (fun q =>
    let on := portUp q && q.follow
    { q with followOn := q.follow, bellActive := on, bellDue := on })) s1
  let s2 := if s1.ports.any (fun e => e.2.follow != e.2.followOn) then clkLock s2 else s2
  let s2 := (upto 0 32).foldl (fun s p => if (getPort s p).follow then s else heldRelease s p) s2
  parkRelease { s2 with link := { s2.link with votes := s2.link.votes.filter (fun v => s2.clk.bell % 2 ^ 48 < v.1) } }

/-- Trace triggers on the bell (Table 18.4, cond 4). -/
def traceBell (s : State) : State :=
  parts.foldl (fun s n => traceWatch s n (fun e => trigCond e == 4 && trigCount e == s.clk.bell)) s

/-- The bell fires (R45): interval N ends and interval N + 1 begins; `fails` are the tiles whose windowed test fails. -/
def fireBell (fails : List Nat) (s : State) : State :=
  let cc := s.clk.intvCc
  let s0 := (heldTiles s).foldl (fun s p => modTile s p (tileBellEnd cc)) s
  let s1 := parts.foldl millsLate s0
  let s2 := (heldTiles s1).foldl barrierDiscard s1
  let stops := stoppedCtxs s2
  let skip := parts.filter (ctxSkips s2)
  let take := parts.filter (fun n => !(skip.contains n))
  let quiet := take.filter (quietBell s2)
  let s3 := clkBell s2
  let s4 := skip.foldl (fun s n => modPart s n (ctxSkip cc)) s3
  let s5 := parts.foldl cancelReset (stopsReset stops (lotsOver (take.foldl ctxTake (parts.foldl abandonedEnd s4))))
  let s6 := scansApply (changesApply s5) quiet
  let s7 := haltsApply (parts.foldl resumeCtx s6)
  let s8 := modClk s7 (fun c => { c with extCc := extensionCc s7 })
  let s9 := windowsAt fails (parts.foldl assayBell (lotsStart s8))
  traceBell (leaveCheck (edgesBell (tilesBell s9 cc)))

/-! ## Rows -/

/-- Cc of the longest local hold (R47). -/
def holdCc (s : State) : Nat := Config.ccPerUs * s.clk.holdUs

/-- BELL_EXPECTED_TIME (R46): the expected time arrives, and the module fires or begins to hold. -/
def execBellExpectedTime (s : State) : Res :=
  if !s.clk.guard || s.clk.expected || !(bellOn s) then .next s
  else
    let s1 := advanceTo s (expectCc s)
    .next (modClk s1 (fun c => { c with
      expected := true, holding := !(moduleReady s1) || expectCc s < moduleDone s1, holdSample := expectCc s }))

/-- The cc at whose end a module that has become ready fires (R45). -/
def fireCc (s : State) : Nat := max (max s.clk.intvCc (moduleDone s)) (expectCc s)

/-- BELL_FIRE (R45): a module that is ready within its hold limit; its hold, if it held, is counted (R31). -/
def execBellFire (fails : List Nat) (s : State) : Res :=
  let cc := fireCc s
  if !s.clk.expected || !(bellOn s) || !(moduleReady s) || expectCc s + holdCc s < cc then .next s
  else
    let s1 := modClk (advanceTo s cc) (fun c => { c with
      localHold := cc - expectCc s, holds := (c.holds + b2n (expectCc s < cc)) % 2 ^ 32 })
    .next (withHealth s (fireBell fails s1))

/-- Was a context not ready when the local hold reached H (R49)? -/
def overrunCtx (s : State) (n : Nat) : Bool :=
  ctxCounts s n && (!(ctxReady s n) || expectCc s + holdCc s < ctxDone s n)

/-- A replay that meets an overrun ends (R354): its tiles stop until the next setup. -/
def replayCut (s : State) (n : Nat) : State :=
  (liveTiles s n).foldl (fun s p => modTile s p (fun t => { t with stop := some (t.stop.getD .schedule) }))
    (modPart s n (fun p => { p with assay := p.assay.map (fun a => { a with cut := true }) }))

/-- Stop a context at an overrun (R49, R50): its consumers are told, its lots end, the Reeve resets it. -/
def overrunStop (hung : List Nat) (s : State) (n : Nat) : State :=
  if replaying s n then replayCut s n else
  let code := if hung.any (fun p => physPart p == n) then 0x0025 else 0x0022
  let e : Event := { code := 0x0151, unit := unitId 4 n, part := n, bell := s.clk.bell, cc := s.clk.intvCc
                     lot := curLot s n, compl := code }
  beginReset (endLots (abortNotices (sendEvent s e) n s.clk.bell) n code) n 1 code

/-- BELL_OVERRUN (R49): the local hold reaches H. -/
def execBellOverrun (fails : List Nat) (s : State) : Res :=
  let late := parts.filter (overrunCtx s)
  if !s.clk.expected || !(bellOn s) || late.isEmpty then .next s
  else
    let s1 := modClk (advanceTo s (expectCc s + holdCc s)) (fun c => { c with
      localHold := holdCc s, overruns := c.overruns ++ [c.bell] })
    let new := watchSample s1
    let hung := hungNodes new
    let s2 := modClk s1 (fun c => { c with watch := new, holdSample := c.intvCc })
    .next (withHealth s (fireBell fails (late.foldl (overrunStop hung) s2)))

/-- WATCHMAN_HOLD_SAMPLE (R405): 4,096 cc of the hold have passed since the last sample. -/
def execWatchmanHoldSample (s : State) : Res :=
  let cc := max s.clk.holdSample (expectCc s) + waitCc
  if !s.clk.expected || moduleReady s || expectCc s + holdCc s ≤ cc then .next s
  else .next (withHealth s (watchTake (advanceTo s cc)))

end Sys2Proof.Machine
end

