-- ==== Sys2Proof/Machine/StartUp.lean ====
section
/-! DEFINITION. Power-on to ready: the start phases, readiness, and what ends a start or the work (spec/16, R441 to R460;
spec/17, R461 to R465, R474; spec/19, R498 to R500). Points of the start: DESIGN CHOICE, assumption 39. -/

namespace Sys2Proof.Machine

/-! ## Taking the power away -/

/-- The start record as a start or the work ends: what flash and fuses hold stays (R442, R443, R448). -/
def startOff (s : State) : Start :=
  { s.start with
    phase := 0, linkDone := false, blocking := 0, ready := false, report := [], runSlot := 0
    cutShort := if s.start.phase == 0 then s.start.cutShort else !s.start.ready }

/-- The module without power: everything returns to its unpowered state but the flash, the fuses, the stored fatal records
(R363), the resistances beside the ledger (R467), rows that wait for their hard repair (R446), the input pins, and the latches of
R499, whose outputs are released meanwhile (R497). -/
def unpower (s : State) : State :=
  { ({} : State) with
    pending := s.pending, fresh := s.fresh, out := s.out
    clk := { cycles := s.clk.cycles, stamp := s.clk.stamp }
    mems := (upto 0 8).foldl (fun m k => kvSet {} m k { rowFix := (getStack s k).rowFix }) []
    power := { sample := s.power.sample.map (fun q => (q.1, { r0 := q.2.r0 })) }
    start := startOff s
    reeve := { fatal := s.reeve.fatal, recSeq := s.reeve.recSeq, cycleReq := s.reeve.cycleReq }
    pins := { mrstN := s.pins.mrstN, perstN := s.pins.perstN
              alertLatched := s.pins.alertLatched, thermLatched := s.pins.thermLatched } }

/-- Every domain but D92 off (R474, R498): the low-speed outputs stay driven, and HST_SCRATCH stands (Table 20.4), as do the records in
the SRAM of the Reeve (R363). -/
def onlyAlwaysOn (s : State) : State :=
  let u := unpower s
  setDom { u with
    pins := { s.pins with lreqN := 0xF }
    hst := { scratch := s.hst.scratch }
    reeve := { u.reeve with recs := s.reeve.recs, repro := s.reeve.repro }
    side := s.side, jtag := s.jtag } 92 .on

/-- The input is off (R461): nothing is held up. -/
def inputOff (s : State) : State := unpower s

/-- A start begins at phase 0x01 (R441). -/
def startBegin (s : State) : State :=
  { s with start := { startOff s with
    phase := 1, number := s.start.number + 1, elapsedS := 0, ms := 0, readyMs := 0, memMs := 0, added := 0
    firstAdded := 0xFFFFFFFF, stkTested := 0, failedNow := 0, fellBack := false, ledgerBad := false, ignored := false
    rows := [] } }

/-- INPUT_GOOD (R441): the input, at `mv` millivolts, has stayed within 40 to 60 V for 10 ms. What is latched shows again, and a
latched thermal trip lets D92 alone come back (R499). -/
def execInputGood (mv : Nat) (s : State) : Res :=
  if s.pins.inputGood || mv < 40000 || 60000 < mv then .next s
  else
    let s1 := { s with
      pins := { s.pins with inputGood := true, alertN := !s.pins.alertLatched, thermtripN := !s.pins.thermLatched }
      power := { s.power with inputMv := mv } }
    .next (if s.pins.thermLatched then setDom s1 92 .on else if s.pins.mrstN then startBegin s1 else s1)

/-! ## The phases (Table 16.1) -/

/-- May the boot ROM run a slot (R414, R415)? -/
def slotRuns (s : State) (f : FwSlot) : Bool := f.valid && s.start.secCounter ≤ f.sec && f.sec ≤ 64

/-- The slot the boot ROM runs: the newer one that may run, 0 for none (R414). -/
def bootSlot (s : State) : Nat :=
  let a := slotRuns s s.start.slotA
  let b := slotRuns s s.start.slotB
  if a && (!b || s.start.slotB.version ≤ s.start.slotA.version) then 1 else if b then 2 else 0

/-- The stored record of a module loss (0x0193) is emitted at the next start (R363, R403). -/
def lossEmit (s : State) : State :=
  if !s.reeve.cycleReq then s
  else
    let s1 := modReeve s (fun r => { r with cycleReq := false })
    match (s.reeve.fatal.filter (fun r => recFld r.2 4 2 == 0x0193)).getLast? with
    | none => s1
    | some r =>
      let pay := toLe 8 r.1 ++ slice r.2 (0xC8 + 4) 4 ++ slice r.2 (0xC8 + 0xC) 4 ++ slice r.2 (0xC8 + 0x14) 2 ++ [0, 0] ++ zeros 8
      sideQueue (emitTo s1 0 1 pay) r.2

/-- Phase 0x01 ends: D92 is on, PWRGD rises, firmware runs, or the start fails. -/
def endAlwaysOn (s : State) : State :=
  let slot := bootSlot s
  let newer := if s.start.slotA.version < s.start.slotB.version then 2 else 1
  let s1 := setDom { s with pins := { s.pins with pwrgd := true } } 92 .on
  if slot == 0 || s.start.lifeCycle == .scrapped then
    { s1 with
      start := { s1.start with phase := 0x0F, runSlot := if s.start.lifeCycle == .scrapped then slot else 0 }
      pins := { s1.pins with alertN := false, alertLatched := true } }
  else lossEmit { s1 with start := { s1.start with phase := 2, runSlot := slot, fellBack := slot != newer } }

/-- A persisted setting (R443). -/
def flashGet (s : State) (k : Nat) : Option Nat := kvGet none s.start.flash k

/-- The type of a start (R445): 1 full, 2 quick, 3 quick promoted to full. -/
def startType (s : State) : Nat :=
  let t := s.start
  if !t.quick then 1
  else if t.firstEver || t.lifeChanged || t.memEntry || t.cutShort || 720 < t.hours then 3
  else 2

/-- The settings loaded in phase 0x02 (R443). -/
def loadSettings (s : State) : State :=
  let id := (flashGet s 0).getD 0x1FFFF
  let ctl := flashGet s 1
  let own := fun (m : Kv Nat) => kvSet 0 m (id % 2 ^ 17) 0xC000
  let s1 := { s with
    link := { s.link with
      modId := id % 2 ^ 17
      root := (ctl.map (fun v => bitAt v 31)).getD s.link.root
      voteW := (ctl.map (fun v => bits v 15 8)).getD s.link.voteW
      hopLimit := (ctl.map (fun v => bits v 7 0)).getD s.link.hopLimit
      clkSrc := (flashGet s 2).getD s.link.clkSrc
      routeA := if id == 0x1FFFF then [] else own []
      routeB := if id == 0x1FFFF then [] else own [] }
    start := { s.start with quick := (flashGet s 3).getD 0 == 1 } }
  (upto 0 32).foldl (fun s p =>
    let c := flashGet s (64 + p)
    let x := (flashGet s (128 + p)).getD 0
    modPort s p (fun q => { q with
      en := (c.map (fun v => bitAt v 1)).getD q.en, follow := (c.map (fun v => bitAt v 0)).getD q.follow
      followOn := (c.map (fun v => bitAt v 0)).getD q.follow
      expCheck := bitAt x 31, expPort := bits x 21 17, expMod := bits x 16 0 })) s1

/-- Phase 0x02 ends: spine, bell, host side and ports are powered, the PCIe controller is ready unless PERST# holds it (R457),
the enabled ports wait for signal, light is requested;
a root is its own domain (R453). -/
def endLinks (s : State) : State :=
  let s1 := loadSettings (setDom (setDom (setDom s 93 .on) 94 .on) 95 .on)
  let s2 := (upto 0 16).foldl (fun s k =>
    setDom s (76 + k) (if (getPort s k).en || (getPort s (16 + k)).en then .on else .off)) s1
  let s3 := (upto 0 32).foldl (fun s p => modPort s p (fun q => { q with st := if q.en then 1 else 0 })) s2
  let s4 := { s3 with
    start := { s3.start with phase := 3, lastType := startType s3 }
    hst := { s3.hst with pcieUp := s3.pins.perstN } }
  clkLock (lightRequest s4)

/-- Phase 0x03 ends: the compute domains are on, stores and instruction memories cleared; `ucie` lists stack and
UCIe module with the lane repaired there (Table 16.3), or none where the lane repair fails (R271, R446). -/
def endCompute (ucie : List (Nat × Nat × Option Nat)) (s : State) : State :=
  let s1 := (upto 0 8).foldl (fun s k => modStack s k (fun q => { q with ucieUp := 0xFF })) (computeDomains s .on)
  let s2 := ucie.foldl (fun s u =>
    if !(u.1 < 8 && u.2.1 < 8) then s
    else match u.2.2 with
      | some lane => (ledgerAdd s 6 1 6 u.1 (u.2.1 + 256 * (lane % 64))).2
      | none => (ledgerAdd (modStack s u.1 (fun q => { q with ucieUp := clrBit q.ucieUp u.2.1 })) 7 1 6 u.1 u.2.1).2) s1
  { s2 with start := { s2.start with phase := 4 } }

/-- Is an entry's location out of range (R450)? -/
def ledgerStray (e : List Byte) : Bool :=
  let loc := fld e 0xC 4
  match fld e 4 1 with
  | 1 | 2 | 3 => !(loc / 256 % 256 < 48 && loc % 256 < 100)
  | 4 | 5 | 6 | 7 => !(loc % 256 < 8)
  | 8 => !(loc % 256 < 32)
  | _ => true

/-- Burn permanent entries that the fuses do not hold, while there is room (R450). -/
def ledgerBurn (t : Start) : Start :=
  t.ledger.foldl (fun t e =>
    if bitAt (fld e 5 1) 0 && !(bitAt (fld e 5 1) 1) then
      if t.fuses.length < 768 then
        { t with fuses := t.fuses ++ [fld e 0 4]
                 ledger := t.ledger.map (fun x => if fld x 0 4 == fld e 0 4 then patch x 5 (toLe 1 (setBit (fld x 5 1) 1)) else x) }
      else { t with fuseFull := true }
    else t) t

/-- Phase 0x04 ends: the ledger is applied (R450); with a flash that cannot be read, the fuse entries alone. -/
def endLedger (flashOk : Bool) (s : State) : State :=
  let led := s.start.ledger
  let s1 := { s with start := { s.start with
    ledger := if flashOk then led else led.filter (fun e => s.start.fuses.contains (fld e 0 4))
    ignored := led.any ledgerStray, ledgerBad := !flashOk } }
  let s2 := ledgerStacks (ledgerTiles s1)
  { s2 with start := ledgerBurn { s2.start with ledger := led, phase := 5 } }

/-- A tile that fails its slice in phase 0x05 (R447). -/
def startFence (s : State) (p : Nat) : State :=
  let s1 := (ledgerAdd (pinfoldTile s p 1) 1 1 1 (tileLoc p) 0).2
  { s1 with start := { s1.start with failedNow := s1.start.failedNow + 1 } }

/-- The location field of a sense point (R467): its domain, and its number within its rail, counted from the rail's first domain
(Table 17.1; DEDUCED, assumption 39). -/
def sensePoint (d : Nat) : Nat := d + 256 * (if d < 60 then d else if d < 68 then d - 60 else if d < 76 then d - 68 else d - 76)

/-- A sense point measured in phase 0x05 (R467): the first start records it, a later one compares. -/
def senseStart (s : State) (d r : Nat) : State :=
  let x := kvGet {} s.power.sample d
  let put := fun (s : State) (x : DomSample) => { s with power := { s.power with sample := kvSet {} s.power.sample d x } }
  if x.r0 == 0 then put s { x with r0 := r }
  else if 13 * x.r0 < 10 * r && !x.crack then
    sendEvent (put s { x with crack := true }) { code := 0x0182, loc := sensePoint d, bell := s.clk.bell, cc := s.clk.intvCc }
  else s

/-- Phase 0x05 ends: every tile not in the pinfold has had its slice (R447), spares are placed (R20). -/
def endTileTest (found : List TileFound) (sense : List (Nat × Nat)) (s : State) : State :=
  let s1 := sliceAll s allTiles found 1 startFence
  let s2 := (upto 0 rowCountAll).foldl (fun s r => rowTested (placeSpare s r) r) s1
  let s3 := sense.foldl (fun s d => if d.1 < 96 then senseStart s d.1 d.2 else s) s2
  { s3 with start := { s3.start with phase := 6 } }

/-- A row the memory test finds failing, or one the scrub has repaired: made permanent, or unrepairable, and then its stack is lost
(R446). -/
def memRow (source : Nat) (s : State) (r : Nat × Nat × Bool) : State :=
  if ¬ r.1 < 8 then s
  else
    let s1 := (ledgerAdd s (if r.2.2 then 4 else 5) 1 source r.1 r.2.1).2
    if r.2.2 then s1 else modStack s1 r.1 (fun q => { q with lost := true })

/-- Phase 0x06 ends: repairs become permanent (those of scrub among them), seeds are drawn, every bolt is unwritten, and
the blocking set is taken (R446, R451); what a full test has covered calls for none at the next start (R445; assumption 39). `rows` are stack, detail and whether a spare row was left. -/
def endMemTest (rows : List (Nat × Nat × Bool)) (ms : Nat) (s : State) : State :=
  let full := s.start.lastType != 2
  let s1 := (upto 0 8).foldl (fun s k => modStack ((getStack s k).rowFix.foldl (fun s r => memRow 5 s (k, r % 2 ^ 28, true)) s) k
    (fun q => { q with rowFix := [], rowCorr := [] })) (rows.foldl (memRow 2) s)
  let s2 := reseed s1 parts
  { s2 with
    bolts := []
    start := { s2.start with
      memEntry := !full && s2.start.memEntry, firstEver := !full && s2.start.firstEver
      lifeChanged := !full && s2.start.lifeChanged, hours := if full then 0 else s2.start.hours
      phase := 7, memMs := ms, stkTested := maskOf 8 (fun k => !(getStack s k).lost)
      blocking := maskOf 32 (fun p => (getPort s p).st == 2 || (getPort s p).st == 3 || (getPort s p).st == 4) } }

/-- Time in a start: `ms` more have passed since input good. -/
def startTime (s : State) (ms : Nat) : State :=
  { s with start := { s.start with ms := s.start.ms + ms, elapsedS := min 65535 ((s.start.ms + ms) / 1000) } }

/-- START_PHASE_COMPLETE (R441, Table 16.1): the running phase has taken `ms` and ends with what its tests found. Phase
0x07 ends when the blocking set is empty (R452). -/
def execStartPhaseComplete (ms : Nat) (flashOk : Bool) (ucie : List (Nat × Nat × Option Nat)) (found : List TileFound)
    (sense : List (Nat × Nat)) (rows : List (Nat × Nat × Bool)) (s : State) : Res :=
  let t := startTime s ms
  match s.start.phase with
  | 1 => .next (if s.pins.mrstN then endAlwaysOn t else s)
  | 2 => .next (endLinks t)
  | 3 => .next (withHealth s (endCompute ucie t))
  | 4 => .next (withHealth s (endLedger flashOk t))
  | 5 => .next (withHealth s (endTileTest found sense t))
  | 6 => .next (withHealth s (endMemTest rows ms t))
  | 7 => .next (if s.start.blocking == 0 && !s.start.linkDone then { t with start := { t.start with linkDone := true } } else s)
  | _ => .next s

/-! ## Readiness (R454) -/

/-- A byte of the spare map (R385). -/
def spareByte (s : State) (r : Nat) : Nat :=
  let none := noSpare s r
  let q := getRow s r
  (if none then 0x1F else q.spare) + 32 * b2n q.stalled + 64 * b2n (rotationPaused s (rowPart r))
  + 128 * b2n (none && !((upto 0 25).any (fun k => windowHas (getTile s (rowTile r k)))))
where
  /-- Does a tile's pattern declare a test window? -/
  windowHas (t : Tile) : Bool := (upto 0 (dlCount t)).any (fun i => fld (dlEntry t i) 0 1 == 4)

/-- The version the fused counter may advance to (R415). -/
def secAdvance (t : Start) : Nat :=
  let run := if t.runSlot == 1 then t.slotA else t.slotB
  let other := if t.runSlot == 1 then t.slotB else t.slotA
  if t.secCounter < run.sec && other.valid then max t.secCounter (min run.sec other.sec) else t.secCounter

/-- How many tiles of the part pass a test. -/
def tileCountOf (s : State) (f : Tile → Bool) : Nat := countOf 4800 (fun i => f (tileAt s i))

/-- The readiness report (Table 16.5). -/
def readyReport (s : State) : List Byte :=
  let t := s.start
  let ports := fun (f : Nat → Bool) => toLe 4 (maskOf 32 (fun p => f (getPort s p).st))
  slice (toLe 2 1 ++ toLe 1 t.phase ++ toLe 1 t.lastType ++ toLe 1 (conditionOf s)
    ++ toLe 1 (b2n t.ready + 2 * b2n s.link.inDomain + 4 * b2n s.link.root + 8 * b2n s.reeve.standby + 16 * b2n t.fellBack
        + 32 * b2n t.ledgerBad + 64 * b2n t.fuseFull + 128 * b2n t.ignored) ++ [0, 0]
    ++ toLe 4 t.number ++ toLe 4 t.readyMs ++ toLe 4 t.memMs ++ toLe 4 t.added ++ toLe 4 t.firstAdded
    ++ toLe 1 t.stkTested ++ toLe 1 (maskOf 8 (fun k => (getStack s k).lost))
    ++ toLe 1 (maskOf 8 (fun k => 4 ≤ t.phase && (getStack s k).ucieUp != 0xFF && !(getStack s k).lost)) ++ [0]
    ++ ports (fun v => v == 6) ++ ports (fun v => v == 5) ++ ports (fun v => v == 9) ++ ports (fun v => v ≤ 1)
    ++ ports (fun v => v == 8)
    ++ toLe 2 (countOf 192 (noSpare s)) ++ toLe 2 (tileCountOf s (fun t => t.st == .pinfold)) ++ toLe 2 t.failedNow
    ++ toLe 2 (tileCountOf s checkLost) ++ zeros 4 ++ t.rows.flatMap (toLe 1)) 0 256

/-- MODULE_READY (R454): every criterion of Table 16.4 is met or settled, `ms` after the last phase's end. -/
def execModuleReady (ms : Nat) (s : State) : Res :=
  let t := s.start
  if !(t.phase == 7 && t.linkDone) || t.runSlot == 0 || t.lifeCycle == .raw || t.lifeCycle == .scrapped
      || s.link.modId == 0x1FFFF then .next s
  else
    let s1 := startTime s ms
    let s2 := { s1 with start := { s1.start with
      phase := 8, ready := true, readyMs := s1.start.ms, secCounter := secAdvance s1.start, cutShort := false } }
    let s3 := { s2 with start := { s2.start with rows := spareRows.map (spareByte s2) } }
    .next (withHealth s { s3 with start := { s3.start with report := readyReport s3 } })

/-! ## What ends a start or the work -/

/-- MRST_N_ASSERT (R498): MRST_N has been low for 1 ms; a latched thermal trip ignores it (R499). -/
def execMrstNAssert (s : State) : Res :=
  if !s.pins.mrstN then .next s
  else
    let low := { s with pins := { s.pins with mrstN := false } }
    if !s.pins.thermtripN || s.start.phase == 0 then .next low
    else
      let s1 := onlyAlwaysOn low
      .next { s1 with start := { s1.start with phase := 1 } }

/-- MRST_N_RELEASE (R498): 10 ms after MRST_N returns high a new start begins. -/
def execMrstNRelease (s : State) : Res :=
  if s.pins.mrstN then .next s
  else
    let high := { s with pins := { s.pins with mrstN := true } }
    .next (if s.pins.inputGood && s.pins.thermtripN then startBegin high else high)

/-- PERST_ASSERT (R457). -/
def execPerstAssert (s : State) : Res :=
  .next { s with pins := { s.pins with perstN := false }, hst := pcieReset s.hst }

/-- PERST_RELEASE (R457, R500): the controller trains and is ready once the host side is powered. -/
def execPerstRelease (s : State) : Res :=
  let s1 := { s with pins := { s.pins with perstN := true } }
  .next { s1 with hst := { s1.hst with pcieUp := domOn s 95 && s.pins.pwrgd && !s.reeve.gone } }

/-- INPUT_PROTECT_OFF (R461): the hot-swap controller switches the input off. -/
def execInputProtectOff (s : State) : Res := .next (inputOff s)

/-- A spine or seam failure (R30, Table 14.9): every port goes Off, the loss is recorded, a power cycle is requested, and the module
is lost. D95 stands faulty until then, so that nothing turns a port, the spine or the PCIe controller on again (DEDUCED,
assumption 29). -/
def spineFailure (s : State) : State :=
  requestCycle (moduleLost (setDom ((upto 0 portCount).foldl (fun s p => portEnable s p false) s) 95 .fault))

/-- RAIL_FAILURE (R464): rail 0 VCORE, 1 VMILL, 2 VD2D (both of stack `k`), 3 VLINK or 4 VLINKA. The table has no row for a failure of
the seam or the spine itself (R30, R412), nor for one of the domain of port pair `k` (R388): 5 and 6 stand for them (DESIGN CHOICE,
assumption 29). -/
def execRailFailure (rail k : Nat) (s : State) : Res :=
  match rail with
  | 0 => .next (inputOff s)
  | 1 | 2 =>
    if ¬ k < 8 then .refused .noSuchUnit
    else .next (withHealth s (setDom (setDom (stackLost s k) (60 + k) .off) (68 + k) .off))
  | 3 | 4 | 5 => .next (withHealth s (spineFailure s))
  | 6 => if ¬ k < 16 then .refused .noSuchUnit else .next (withHealth s (pairFence s k))
  | _ => .refused .noSuchUnit

/-- THERMAL_TRIP (R474): THERMTRIP_N goes low and every domain but D92 is switched off. The Reeve runs on there (R413, Table 19.7)
with its records; the module is lost, class I3, and its record awaits the next start too (R403; assumption 39). -/
def execThermalTrip (s : State) : Res :=
  if !(domOn s 92) || s.pins.thermLatched then .next s
  else
    let u := onlyAlwaysOn s
    let s1 := { u with
      pins := { u.pins with thermtripN := false, thermLatched := true }
      start := { u.start with runSlot := s.start.runSlot }
      reeve := { s.reeve with computeReset := false, ops := [], changes := [], cycleReq := true } }
    .next (if s.start.runSlot == 0 then s1 else sendEvent s1 { code := 0x0193, bell := s.clk.bell, cc := s.clk.intvCc })

/-- INPUT_REMOVAL_CLEAR (R499): the input has been below 30 V for 100 ms; both latches clear. -/
def execInputRemovalClear (s : State) : Res :=
  let s1 := inputOff s
  .next { s1 with pins := { s1.pins with alertN := true, thermtripN := true, alertLatched := false, thermLatched := false } }

end Sys2Proof.Machine
end

