-- ==== Sys2Proof/Machine/Power.lean ====
section
/-! DEFINITION. Power samples, emergency steps and keep-alive (spec/17, R465 to R477). Points of power: DESIGN CHOICE,
assumptions 37 and 39. -/

namespace Sys2Proof.Machine

/-! ## Committed power (R469, R470) -/

/-- avg_mw of the pattern in a bank (Table 17.5). -/
def avgMw (t : Tile) (k : Nat) : Nat := leNat (secRead t.store.mem k 4 4 4)

/-- The pending activations and switches of a partition. -/
def pendActs (s : State) (n : Nat) : List Change :=
  s.reeve.changes.filter (fun c => c.outcome == 0 && (c.kind == 0x10 || c.kind == 0x11) && bitAt c.parts n)

/-- What a role commits: the larger of its active pattern's avg_mw and that of one pending for it (DEDUCED, assumption
40: a role draws for one pattern at a time). -/
def roleMw (t : Tile) (cs : List Change) : Nat :=
  let act := if t.installed && (t.st != .joining || cs.any (fun c => c.kind == 0x10)) then avgMw t t.actBank else 0
  cs.foldl (fun m c => if c.kind == 0x11 && t.installed then max m (avgMw t (fld c.value 0 1 % 4)) else m) act

/-- avg_mw over a partition's roles, with some changes pending. -/
def partMw (s : State) (n : Nat) (cs : List Change) : Nat :=
  ((heldTiles s).filter (fun p => physPart p == n && (logOf s p).isSome)).foldl (fun m p => m + roleMw (getTile s p) cs) 0

/-- The fixed charge in mW. -/
def fixedMw : Nat := 1007000

/-- Committed power in mW, with one more change `extra` pending in the partitions of its mask. -/
def committedMw (s : State) (extra : Option Change) : Nat :=
  parts.foldl (fun m n => m + partMw s n (pendActs s n ++ (extra.toList.filter (fun c => bitAt c.parts n)))) fixedMw

/-- A partition's limit (R469): 0xFFFFFFFF means none. -/
def partLimit (s : State) (n : Nat) : Nat := kvGet 0xFFFFFFFF s.power.partLimit n

/-- Does a change fit the limits? none, or the detail of status 0x0029: 0xFF the module's, else the partition. -/
def powerBar (s : State) (c : Change) : Option Nat :=
  match (maskParts c.parts).find? (fun n => partLimit s n < partMw s n (pendActs s n ++ [c])) with
  | some n => some n
  | none => if s.power.limitMw < committedMw s (some c) then some ((maskParts c.parts).headD 0) else none

/-- What a tile-row domain may draw (R469, R470): its roles' avg_mw and 0.5 W for each tile without a role, in mW. -/
def rowDomainMw (s : State) (n k : Nat) : Nat :=
  ((heldTiles s).filter (fun p => physPart p == n && p / 100 % 16 / 4 == k && (logOf s p).isSome)).foldl
    (fun m p => m + roleMw (getTile s p) []) 2000

/-- Does a domain's mean exceed its declarations by more than 10% (R470)? The rails other than VCORE have one charge for all
their domains together, so no declaration for a single one. -/
def overDeclared (s : State) (d mw : Nat) : Bool :=
  if 60 ≤ d then false
  else if d % 5 == 4 then 11 * 110000 < 10 * 12 * mw
  else 11 * rowDomainMw s (d / 5) (d % 5) < 10 * mw

/-! ## Samples (R466, R467) -/

/-- Latch one domain's sample: mV, mean and peak mA. -/
def domainSample (s : State) (v : Nat × Nat × Nat × Nat) : State :=
  if ¬ v.1 < 96 then s
  else
    let x := kvGet {} s.power.sample v.1
    let y := { x with
      mv := v.2.1, mean := v.2.2.1, peak := v.2.2.2
      excess := if overDeclared s v.1 (v.2.1 * v.2.2.1 / 1000) then satAdd 16 x.excess 1 else x.excess }
    { s with power := { s.power with sample := kvSet {} s.power.sample v.1 y } }

/-- A sense point suspected of a crack: reported once per start (R467). -/
def crackSuspect (s : State) (d : Nat) : State :=
  let x := kvGet {} s.power.sample d
  if 96 ≤ d || x.crack then s
  else sendEvent { s with power := { s.power with sample := kvSet {} s.power.sample d { x with crack := true } } }
    { code := 0x0182, loc := sensePoint d, bell := s.clk.bell, cc := s.clk.intvCc }

/-- A signed 16-bit reading. -/
def int16 (v : Nat) : Int := if v % 65536 < 32768 then (v % 65536 : Nat) else (v % 65536 : Nat) - 65536

/-- POWER_SAMPLE (R466): the last 1 ms of every domain in `doms`, the input in mV, mA and mW, the hottest sensors in 0.1 °C;
`cracked` are the sense points whose drop averaged over the last second meets R467. -/
def execPowerSample (doms : List (Nat × Nat × Nat × Nat)) (mv ma mw tj dram optic : Nat) (cracked : List Nat) (s : State) :
    Res :=
  let s1 := doms.foldl domainSample s
  let die : Nat := s1.power.sample.foldl (fun n v => n + v.2.mv * v.2.mean / 1000) 0
  let now : List Int := [(mv : Int), (ma : Int), (mw : Int), (die : Int), int16 tj, int16 dram, int16 optic]
  let s2 := { s1 with power := { s1.power with
    inputMv := mv, inputMa := ma, inputMw := mw, dieMw := die, tj := tj % 65536, dram := dram % 65536, optic := optic % 65536
    sampleBell := s.clk.bell % 2 ^ 48, hist := lastN 100 (s1.power.hist ++ [now]) } }
  .next (cracked.foldl crackSuspect s2)

/-! ## Emergency steps (R471 to R473) -/

/-- The notices of this module that have not taken effect. -/
def ownNotices (s : State) : List Notice := s.clk.notices.filter (fun n => n.origin == s.link.modId % 2 ^ 17)

/-- The first bell at least 250 µs away at the clock in force (R472), and later than any pending notice's. -/
def noticeTarget (s : State) : Nat :=
  let need := 350000 * (8 - s.clk.step) / 8
  let left := expectCc s - s.clk.intvCc
  let len := max 1 (intvLen s + s.clk.extCc)
  let t := if need ≤ left then s.clk.bell + 1 else s.clk.bell + 1 + (need - left + len - 1) / len
  (ownNotices s).foldl (fun m n => max m (n.target + 1)) t

/-- The payload of a slow notice (Table 17.7). -/
def noticePay (n : Notice) : List Byte :=
  toLe 1 0x21 ++ toLe 1 n.step ++ [0, 0] ++ toLe 4 (n.origin % 2 ^ 17) ++ toLe 8 (n.target % 2 ^ 48) ++ toLe 4 n.seq ++ zeros 44

/-- A Reeve message to the neighbour on a port (R315). -/
def reeveMsg (s : State) (p : Nat) (pay : List Byte) : List Byte :=
  slice (toLe 1 6 ++ zeros 3 ++ toLe 4 (getPort s p).peerMod ++ toLe 4 (s.link.modId % 2 ^ 17) ++ zeros 4
    ++ toLe 8 (s.clk.bell % 2 ^ 48) ++ zeros 13 ++ toLe 1 s.link.hopLimit) 0 48 ++ pay

/-- Send a notice on every Up, bell-following port but one. -/
def noticeSend (s : State) (n : Notice) (but : Option Nat) : State :=
  (upto 0 portCount).foldl (fun s p =>
    let q := getPort s p
    if portUp q && q.followOn && but != some p then portEnqueue s p 3 (reeveMsg s p (noticePay n)) else s) s

/-- The step the module's last notice leads to. -/
def pendStep (s : State) : Nat := ((ownNotices s).getLast?.map (fun n => n.step)).getD s.clk.step

/-- Announce a step (R472). -/
def stepAnnounce (s : State) (step : Nat) : State :=
  let n : Notice := { origin := s.link.modId % 2 ^ 17, seq := s.clk.noticeSeq + 1, step := step, target := noticeTarget s }
  noticeSend (modClk s (fun c => { c with
    notices := c.notices ++ [n], noticeSeq := c.noticeSeq + 1, seqs := kvSet 0 c.seqs n.origin (n.seq + 1) })) n none

/-- EMERGENCY_TRIGGER (R471): trigger `k` of Table 17.6 has been held for its time. -/
def execEmergencyTrigger (k : Nat) (s : State) : Res :=
  if ¬ k < 5 then .refused .noSuchUnit
  else if s.power.keepAlive || s.start.phase < 2 || 4 ≤ pendStep s then .next s
  else .next (stepAnnounce s (pendStep s + 1))

/-- EMERGENCY_STEP_FURTHER (R471): trigger `k` is still present 10 ms after a step has taken effect. -/
def execEmergencyStepFurther (k : Nat) (s : State) : Res :=
  if ¬ k < 5 then .refused .noSuchUnit
  else if s.power.keepAlive || s.clk.step == 0 || !(ownNotices s).isEmpty || 4 ≤ s.clk.step then .next s
  else .next (stepAnnounce s (s.clk.step + 1))

/-- EMERGENCY_STEP_UP (R471): every trigger has been clear of its release level for 100 ms. -/
def execEmergencyStepUp (s : State) : Res :=
  if s.power.keepAlive || pendStep s == 0 then .next s else .next (stepAnnounce s (pendStep s - 1))

/-- SLOW_NOTICE_RECEIVE (R473): relayed the first time, recorded, and in force from its bell, or from the next one. -/
def execSlowNoticeReceive (p : Nat) (s : State) : Res :=
  if ¬ p < portCount then .refused .noSuchUnit
  else match hereFront s p 6 with
    | none => .next s
    | some (m, s1) =>
      let b := mPay m
      let n : Notice := { origin := fld b 4 4 % 2 ^ 17, seq := fld b 0x10 4, step := fld b 1 1, target := fld b 8 8 % 2 ^ 48 }
      if fld b 0 1 != 0x21 then .next s
      else if n.seq < kvGet 0 s.clk.seqs n.origin || 4 < n.step then .next s1
      else .next (noticeSend (modClk s1 (fun c => { c with
        notices := c.notices ++ [n], seqs := kvSet 0 c.seqs n.origin (n.seq + 1) })) n (some p))

/-! ## Keep-alive (R475, R476) -/

/-- Is the module too busy for keep-alive (R475, R510)? -/
def keepBusy (s : State) : Bool :=
  !s.start.ready || parts.any (fun n => !(getPart s n).lots.isEmpty)
  || s.reeve.ops.any (fun o => o.state == 1 || o.state == 2 || o.state == 4) || s.reeve.changes.any (fun c => c.outcome == 0)
  || s.reeve.computeReset || parts.any (fun n => (getPart s n).reset.isSome)

/-- Enter keep-alive: ports drain, stacks refresh themselves, the compute domains go off. -/
def keepEnter (s : State) : State :=
  let s1 := (upto 0 portCount).foldl (fun s p =>
    if portRuns (getPort s p) then portKeepAlive s p else s) s
  let s2 := (upto 0 8).foldl (fun s k => if domOn s (60 + k) then setDom (setDom s (60 + k) .retention) (68 + k) .off else s) s1
  let s3 := (upto 0 60).foldl (fun s d => setDom s d .off) s2
  let s4 := allTiles.foldl (fun s p => modTile s p (fun t => tileLost t s.clk.cycles)) s3
  let s5 := (upto 0 192).foldl (fun s r => modRow s r (fun q => { q with stop := .idle, mig := none })) s4
  { s5 with power := { s5.power with keepAlive := true } }

/-- Leave keep-alive: steps 2 to 6 of Table 16.7; the ports retrain. -/
def keepLeave (found : List TileFound) (s : State) : State :=
  let s1 := computeRestart s 0 found
  let s2 := (upto 0 portCount).foldl (fun s p =>
    if (getPort s p).st == 7 then portRetrain s p (getPort s p).exit 2 else s) s1
  { s2 with power := { s2.power with keepAlive := false } }

/-- Can a message of the sideband reach the firmware (R507, R509)? -/
def sideServes (s : State) : Bool := s.start.runSlot != 0 && domOn s 92 && s.side.dynAddr.isSome

/-- Are the commands of R440 served over the sideband: by the firmware, and in phase 0x0F without it (R414, Table 19.7)? -/
def sideAnswers (s : State) : Bool :=
  (s.start.runSlot != 0 || s.start.phase == 0xF) && domOn s 92 && s.side.dynAddr.isSome

/-- Answer a PLDM command: a completion code and its data. -/
def pldmAnswer (s : State) (code : Nat) (data : List Byte) : State := putOut s 3 0 (toLe 1 code ++ data)

/-- PLDM_SET_POWER_STATE (R475): state 1 full or 2 keep-alive for the effecter; `found` is what the slices find
on the way out of keep-alive. -/
def execPldmSetPowerState (v : Nat) (found : List TileFound) (s : State) : Res :=
  if !(sideServes s) then .next s
  else if !s.start.ready then .next (pldmAnswer s 4 [])
  else if v == 2 && !s.power.keepAlive then
    .next (if keepBusy s then pldmAnswer s 4 [] else withHealth s (pldmAnswer (keepEnter s) 0 []))
  else if v == 1 && s.power.keepAlive then .next (withHealth s (pldmAnswer (keepLeave found s) 0 []))
  else if v == 1 || v == 2 then .next (pldmAnswer s 0 [])
  else .next (pldmAnswer s 2 [])

end Sys2Proof.Machine
end

