-- ==== Sys2Proof/Machine/Mailbox.lean ====
section
/-! DEFINITION. The mailbox: taking a command, its checks, its answer, and the maintenance ledger (spec/15, R416 to R428,
R436, R437; spec/14, R409 to R411). The head of a page: DEDUCED, assumption 11. -/

namespace Sys2Proof.Machine

/-! ## Command entries and answers (Tables 15.2, 15.3) -/

/-- A taken command: its page (12 and above an admin's; 16 the JTAG port, 17 the sideband), its entry, its request
buffer. -/
structure MCmd where
  pg : Nat
  ent : List Byte
  req : List Byte
  deriving DecidableEq, Repr

/-- opcode. -/
def cOp (c : MCmd) : Nat := fld c.ent 0 2
/-- A field of the inline parameters. -/
def cPar (c : MCmd) (off n : Nat) : Nat := fld c.ent (0x20 + off) n
/-- Capacity of the response buffer. -/
def cCap (c : MCmd) : Nat := if bitAt (fld c.ent 2 1) 1 then fld c.ent 0x14 4 else 0
/-- Has the command an admin page's rights? -/
def cAdmin (c : MCmd) : Bool := 12 ≤ c.pg
/-- The 48-bit target bell at an offset. -/
def cBell (c : MCmd) (off : Nat) : Nat := cPar c off 8 % 2 ^ 48

/-- The answer to a command: what it leaves, status and detail, inline results, response buffer, the bytes needed under
0x0015, and the lot whose end it waits for. -/
structure Ans where
  st : State
  status : Nat := 0
  detail : Nat := 0
  res : List Byte := []
  buf : List Byte := []
  need : Nat := 0
  wait : Option (Nat × Nat) := none
  deriving DecidableEq, Repr

/-- A command done, with nothing to return. -/
def done (s : State) : Ans := { st := s }
/-- A command refused: nothing is applied. -/
def deny (s : State) (status detail : Nat) : Ans := { st := s, status := status, detail := detail }

/-- What Table 15.7 says of a command: may partition and admin pages issue it, does it use a request and a response buffer,
does it change state, and which of its inline bytes are not reserved (offset, length). -/
structure CSpec where
  part : Bool := true
  adm : Bool := true
  req : Bool := false
  resp : Bool := false
  writes : Bool := false
  pars : List (Nat × Nat) := []
  deriving DecidableEq, Repr

/-- Is the module or the page's partition in a reset, or in keep-alive, so that commands that change state are refused
(R421, R459, R476)? -/
def mailBlocked (s : State) (c : MCmd) : Bool :=
  s.power.keepAlive || s.reeve.computeReset || (c.pg < 12 && partResets s c.pg)

/-- The first reserved inline byte that is not zero. -/
def strayByte (c : MCmd) (pars : List (Nat × Nat)) : Option Nat :=
  (upto 0 32).find? (fun i => cPar c i 1 != 0 && !(pars.any (fun r => r.1 ≤ i && i < r.1 + r.2)))

/-- Is an entry malformed (R418)? The byte offset of what is wrong. -/
def malformed (c : MCmd) (x : CSpec) : Option Nat :=
  let f := fld c.ent 2 1
  if 4 ≤ f || bitAt f 0 != x.req || (bitAt f 1 && !x.resp) then some 2
  else if fld c.ent 3 1 != 0 then some 3
  else if bitAt f 0 && fld c.ent 8 8 % 8 != 0 then some 8
  else if bitAt f 0 && 2 ^ 24 < fld c.ent 0x10 4 then some 0x10
  else if bitAt f 1 && fld c.ent 0x18 8 % 8 != 0 then some 0x18
  else (strayByte c x.pars).map (fun i => 0x20 + i)

/-- Is a family served before readiness (R426, R444)? -/
def earlyFamily (op : Nat) : Bool := op / 256 == 1 || op / 256 == 0xB

/-- The common checks of a command: status and detail of the first that fails (DESIGN CHOICE, assumption 12: their order). -/
def mailCheck (s : State) (c : MCmd) (x : CSpec) : Option (Nat × Nat) :=
  if c.pg < 12 && (getPart s c.pg).mbDisabled then some (0x11, 0)
  else if (c.pg < 12 && !x.part) || (12 ≤ c.pg && !x.adm) then some (0x11, 0)
  else if c.pg < 16 && !s.start.ready && !(earlyFamily (cOp c)) then some (0x30, 0)
  else match malformed c x with
    | some i => some (0x12, i)
    | none => if x.writes && mailBlocked s c then some (0x24, 0) else none

/-- The request buffer of a mailbox command is read by DMA before the command acts (R420); on the other paths it comes inline. -/
def reqRead (s : State) (c : MCmd) (x : CSpec) : State :=
  if x.req && c.pg < 16 && fld c.ent 0x10 4 != 0 then dmaIn s c.pg (fld c.ent 8 8) (fld c.ent 0x10 4) else s

/-- Serve a command: the checks, the request buffer's DMA, its own meaning, the response buffer (R420). -/
def serveCmd (s0 : State) (c : MCmd) (x : CSpec) (reqOk respOk : Bool) (h : State → MCmd → Ans) : Ans :=
  match mailCheck s0 c x with
  | some e => deny s0 e.1 e.2
  | none =>
    let s := reqRead s0 c x
    if x.req && !reqOk then deny s 0x14 1
    else
      let a := h s c
      if a.buf.isEmpty then a
      else if cCap c < a.buf.length then { deny s 0x15 0 with need := a.buf.length }
      else if !respOk then deny s 0x14 2
      else a

/-- The response entry of an answer. -/
def rspEntry (c : MCmd) (seq : Nat) (a : Ans) : List Byte :=
  slice (c.ent.take 2 ++ toLe 2 a.status ++ slice c.ent 4 4 ++ toLe 4 a.detail ++ toLe 4 seq
    ++ toLe 4 (if a.need != 0 then a.need else a.buf.length) ++ a.res) 0 64

/-! ## Partitions, tiles and pages -/

/-- A field that names a partition. -/
def withPart (s : State) (c : MCmd) (n off : Nat) (f : Nat → Ans) : Ans :=
  if 12 ≤ n then deny s 0x13 off else if !(cAdmin c) && n != c.pg then deny s 0x11 0 else f n

/-- A field that names a logical tile. -/
def withTile (s : State) (c : MCmd) (l off : Nat) (f : Nat → Ans) : Ans :=
  if 4608 ≤ l then deny s 0x13 off else if !(cAdmin c) && logPart l != c.pg then deny s 0x11 0 else f (physOf s l)

/-- Does a partition take no work now (0x0024)? -/
def partBusy (s : State) (n : Nat) : Bool := (getPart s n).reset.isSome || (getPart s n).lost

/-! ## The maintenance ledger (R409 to R411) -/

/-- The ledger's activity of an operation's kind: 1 assay, 2 scrub, 3 stack test, 4 retrain, 5 pattern load, 6 firmware. -/
def opActivity (kind : Nat) : Nat := match kind with
  | 1 => 3 | 2 => 5 | 3 => 2 | 4 => 1 | 5 => 6 | _ => 4

/-- Table 14.8: what an arriving activity meets: 0 both run, 1 Y, 2 Q, 3 X, and whether only for overlapping scopes.
Activity 0 is rotation, 7 telemetry. -/
def ledgerCell (run arr : Nat) : Nat × Bool :=
  match run, arr with
  | 0, 1 => (2, true) | 0, 5 => (1, true) | 0, 6 => (1, false)
  | 1, 0 => (2, true) | 1, 1 => (3, true) | 1, 3 => (3, false) | 1, 5 => (2, true) | 1, 6 => (2, false)
  | 2, 3 => (1, true)
  | 3, 1 => (3, false) | 3, 2 => (2, true) | 3, 3 => (3, true) | 3, 5 => (3, false) | 3, 6 => (2, false)
  | 4, 4 => (3, true) | 4, 6 => (2, false)
  | 5, 0 => (2, true) | 5, 1 => (2, true) | 5, 3 => (3, false) | 5, 5 => (2, true) | 5, 6 => (2, false)
  | 6, 0 => (2, false) | 6, 1 => (2, false) | 6, 3 => (2, false) | 6, 4 => (2, false) | 6, 5 => (2, false)
  | 6, 6 => (3, false) | 6, 7 => (2, false)
  | 7, 6 => (2, false)
  | _, _ => (0, false)

/-- The scopes of operations: bit n a partition, 16 + k a stack, 32 + p a port. -/
def opMeets (a b : Nat) : Bool := Nat.land a b != 0

/-- The outcome for an arriving activity over a scope: 0 runs, 1 queued, 2 refused, with the reason byte of R411. -/
def ledgerAdmit (s : State) (act mask : Nat) : Nat × Nat :=
  let run := s.reeve.ops.filter (fun o => opPlaced o)
  let hit := fun (o : Op) (v : Nat) =>
    (ledgerCell (opActivity (opKind o)) act).1 == v && (!(ledgerCell (opActivity (opKind o)) act).2 || opMeets o.mask mask)
  if run.any (fun o => hit o 3 && opActivity (opKind o) == act) then (2, 4)
  else if run.any (fun o => hit o 3) then (2, 1)
  else if act == 3 && parts.any (lotsActive s) then (2, 3)
  else if run.any (fun o => hit o 2) then (1, 1)
  else if act == 1 && (maskParts mask).any (fun n => (partRows n).any (fun r => (getRow s r).stop == .migrating)) then (1, 1)
  else if (maskParts (mask % 2 ^ 12)).any (partBusy s) then (1, 2)
  else if act == 5 && s.reeve.changes.any (fun c => c.outcome == 0 && c.evaluated && domainKind c.kind) then (1, 1)
  else (0, 0)

/-- Keep the last 64 ended operations of each page, and every other one. -/
def opsTrim (os : List Op) : List Op :=
  os.zipIdx.filterMap (fun q =>
    if !(opEnded q.1) || ((os.drop (q.2 + 1)).filter (fun o => opEnded o && o.page == q.1.page)).length < 64 then some q.1 else none)

/-- Mark every bolt of a stack unwritten (R274, R437). -/
def unwriteStack (s : State) (k : Nat) : State := { s with bolts := s.bolts.filter (fun e => !(boltIn s k e.1)) }

/-- Does a bulk load bring a full-width pattern to a row: the widths stand in the images' headers (Table 2.3)? -/
def loadsFull (s : State) (n : Nat) (args : List Byte) (r : Nat) : Bool :=
  (upto 0 (args.length / 16)).any (fun i =>
    let e := slice args (16 * i) 16
    logProw (fld e 0 2) == r && fld (boltBytes s n (fld e 4 4)) 0x12 1 == 32)

/-- What the start of an operation does: rows of its partitions give their spares up to a load, a stack test takes its
stacks from a scrub and marks their bolts unwritten, a qualification begins on its ports (R410, R437). -/
def opBegin (s : State) (o : Op) : State :=
  let s1 := modOp s o.handle (fun x => { x with
    state := 1, reason := 0, started := if o.begun then x.started else s.clk.bell % 2 ^ 48, begun := true })
  if o.begun && opKind o != 2 then s1
  else match opKind o with
  | 1 =>
    let s2 := modReeve s1 (fun r => { r with ops := r.ops.map (fun x =>
      if opKind x == 3 && x.state == 1 && opMeets x.mask o.mask then { x with state := 0, reason := 1 } else x) })
    (upto 0 8).foldl (fun s k => if bitAt o.mask (16 + k) then unwriteStack s k else s) s2
  | 2 => (maskParts (o.mask % 2 ^ 12)).foldl (fun s n => (partRows n).foldl (fun s r =>
      if loadsFull s n o.args r then narrowAside (rowAbandon s r) r else rowAbandon s r) s) s1
  | 5 =>
    let slot := fld o.args 0 1
    { s1 with start := { s1.start with
      slotA := if slot == 0 then { s1.start.slotA with valid := false } else s1.start.slotA
      slotB := if slot == 1 then { s1.start.slotB with valid := false } else s1.start.slotB } }
  | 6 => (upto 0 32).foldl (fun s p => if bitAt o.mask (32 + p) then portQualify s p else s) s1
  | _ => s1

/-- Start the queued operations that the ledger lets run, in order. -/
def opsStart (s : State) : State :=
  (s.reeve.ops.filter (fun o => o.state == 0)).foldl (fun s o =>
    if (ledgerAdmit s (opActivity (opKind o)) o.mask).1 == 0 then
      let s1 := opBegin s o
      opEvent s1 { o with state := 1 }
    else s) s

/-- Enter a long operation: started, queued or refused (R411, R436). -/
def opSubmit (s : State) (c : MCmd) (kind mask : Nat) (args : List Byte) (total : Nat) : Ans :=
  let a := ledgerAdmit s (opActivity kind) mask
  let queued := (s.reeve.ops.filter (fun o => o.state == 0 && opKind o == kind)).length
  if a.1 == 2 then deny s 0x23 a.2
  else if a.1 == 1 && 16 ≤ queued then deny s 0x23 5
  else
    let h := kind * 2 ^ 24 + s.reeve.nextSerial % 2 ^ 24
    let o : Op := { handle := h, page := c.pg, args := args, mask := mask, state := 0, reason := a.2, total := total }
    let s1 := modReeve s (fun r => { r with ops := opsTrim (r.ops ++ [o]), nextSerial := r.nextSerial + 1 })
    if a.1 == 1 then { deny s1 0x22 a.2 with res := toLe 4 h }
    else { deny (opBegin s1 o) 1 0 with res := toLe 4 h }

/-! ## Taking a command (R417, R419) -/

/-- The command variant that a row of the table stands for: the opcode, and above it a number by the field that tells
rows of one opcode apart. -/
def rowOf (e : List Byte) : Nat :=
  let op := fld e 0 2
  op + 65536 * (if op == 0x0107 then fld e 0x20 1
    else if op == 0x0501 then fld e 0x20 1
    else if op == 0x0702 then fld e 0x20 1 + 1
    else if op == 0x0C08 then fld e 0x21 1 + 1
    else 0)

/-- The opcodes of Tables 15.7 and 18.5. -/
def opcodes : List Nat :=
  [0x0101, 0x0102, 0x0103, 0x0104, 0x0105, 0x0106, 0x0107, 0x0108, 0x0201, 0x0301, 0x0302, 0x0303, 0x0304]
  ++ [0x0401, 0x0402, 0x0403, 0x0404, 0x0405, 0x0406, 0x0501, 0x0502, 0x0503, 0x0601, 0x0602, 0x0603]
  ++ [0x0701, 0x0702, 0x0703, 0x0704, 0x0705, 0x0706, 0x0707, 0x0708, 0x0801, 0x0802, 0x0803, 0x0804, 0x0805]
  ++ [0x0901, 0x0902, 0x0903, 0x0A01, 0x0A02, 0x0A03, 0x0B01, 0x0D01, 0x0D02]
  ++ [0x0C01, 0x0C02, 0x0C03, 0x0C04, 0x0C05, 0x0C06, 0x0C07, 0x0C08, 0x0C09, 0x0C0A, 0x0C0B, 0x0C0C, 0x0C10, 0x0C11, 0x0C12]

/-- Is an entry one that a row serves: a listed opcode with a listed variant? -/
def rowServed (e : List Byte) : Bool :=
  let v := rowOf e / 65536
  let op := fld e 0 2
  opcodes.contains op
  && (if op == 0x0107 then 3 ≤ v && v ≤ 5 else if op == 0x0501 then 1 ≤ v && v ≤ 8 else if op == 0x0702 then v ≤ 2
      else if op == 0x0C08 then v ≤ 2 else true)

/-- Does the Reeve serve pages now: firmware runs (R414, R498)? -/
def reeveServes (s : State) : Bool := s.start.runSlot != 0 && domOn s 92

/-- The next command of a page, when one waits and the response ring has room. -/
def waitCmd (s : State) (pg : Nat) : Option (List Byte) :=
  let q := getPage s pg
  if reeveServes s && idxDist q.doorbell q.cmdCi != 0 && rspUsed q < 16 then some (memRead q.cmd (64 * (q.cmdCi % 16)) 64)
  else none

/-- The page whose turn it is: round-robin across the sixteen, the next after the last served that has a command (R419). -/
def turnPage (s : State) : Option Nat :=
  ((upto 1 16).map (fun i => (s.reeve.lastPage + i) % 16)).find? (fun pg => (waitCmd s pg).isSome)

/-- The command that the Reeve takes next, when it is a page's turn. -/
def headCmd (s : State) (pg : Nat) : Option (List Byte) := if turnPage s == some pg then waitCmd s pg else none

/-- Answer a page's command: the response buffer first, then the entry. -/
def mailDone (c : MCmd) (a : Ans) : State :=
  let seq := a.st.reeve.takeSeq + 1
  let s1 := modReeve a.st (fun r => { r with takeSeq := seq, lastPage := c.pg })
  let s2 := if a.buf.isEmpty then s1 else dmaOut s1 c.pg (fld c.ent 0x18 8) a.buf
  rspPut (modPage s2 c.pg (fun q => { q with cmdCi := (q.cmdCi + 1) % 2 ^ 32 })) c.pg a.wait (rspEntry c seq a)

/-- The answer to an entry that no row serves; MOD.RESET and MNT.SCRUB are commands of admin pages alone (R424). -/
def strayAnswer (s : State) (c : MCmd) : Ans :=
  if c.pg < 12 && ((getPart s c.pg).mbDisabled || cOp c == 0x0107 || cOp c == 0x0702) then deny s 0x11 0
  else if !s.start.ready && !(earlyFamily (cOp c)) then deny s 0x30 0
  else if opcodes.contains (cOp c) then deny s 0x12 (if cOp c == 0x0C08 then 0x21 else 0x20)
  else deny s 0x10 0

/-- Answer the entries that no row serves, an unknown opcode or an unlisted encoding (R426), each when its page has its turn. -/
def mailDrain : Nat → State → State
  | 0, s => s
  | n + 1, s => match turnPage s with
    | none => s
    | some pg => match waitCmd s pg with
      | none => s
      | some e =>
        if rowServed e then s
        else
          let c : MCmd := { pg := pg, ent := e, req := [] }
          mailDrain n (mailDone c (strayAnswer s c))

/-- One mailbox row: the head command of page `pg` is taken when the page has its turn and it is of this row; `req` is what its request buffer's DMA
brought, none where it failed, and `respOk` tells whether its response buffer could be written. -/
def mailRow (key : Nat) (x : CSpec) (h : State → MCmd → Ans) (pg : Nat) (req : Option (List Byte)) (respOk : Bool) (s : State) :
    Res :=
  if ¬ pg < 16 then .refused .noSuchUnit
  else match headCmd s pg with
    | none => .next s
    | some e =>
      if rowOf e != key then .next s
      else
        let c : MCmd := { pg := pg, ent := e, req := slice (req.getD []) 0 (if bitAt (fld e 2 1) 0 then fld e 0x10 4 else 0) }
        .next (withHealth s (opsStart (mailDrain 256 (mailDone c (serveCmd s c x req.isSome respOk h)))))

end Sys2Proof.Machine
end

