-- ==== Sys2Proof/Machine/MailModule.lean ====
section
/-! DEFINITION. The MOD, PART, REC, PWR, LINK and SYS commands (spec/15, Table 15.7 and R427, R439; spec/16, R443, R455;
spec/17, R466, R469; spec/11, R323, R325; spec/14, R407, R408; spec/20, R530). -/

namespace Sys2Proof.Machine

/-! ## MOD (R427, R439, R440, R455, R530) -/

/-- Code of a life-cycle state. -/
def lifeCode : LifeSt → Nat
  | .raw => 0 | .provisioned => 1 | .deployed => 2 | .service => 3 | .scrapped => 4

/-- MOD.IDENTITY. -/
def modIdentity (s : State) (c : MCmd) : Ans :=
  { done s with res := toLe 4 s.link.modId ++ toLe 1 (lifeCode s.start.lifeCycle) ++ toLe 1 (if c.pg < 16 then c.pg else 0xFF)
      ++ [0, 0] ++ toLe 4 (fwVersion s) ++ toLe 16 Config.platformGuid }

/-- The geometry descriptor (Table 20.15), its tally in the last four bytes. -/
def geometry : List Byte :=
  let b := toLe 2 1 ++ toLe 2 1 ++ toLe 2 128 ++ toLe 2 0 ++ toLe 2 48 ++ toLe 2 96 ++ toLe 1 3 ++ toLe 1 4 ++ toLe 1 1 ++ toLe 1 0
    ++ toLe 2 48 ++ toLe 1 2 ++ toLe 1 0 ++ toLe 4 512 ++ toLe 1 4 ++ toLe 1 32 ++ toLe 1 31 ++ toLe 1 0 ++ toLe 1 8 ++ toLe 1 16
    ++ toLe 2 64 ++ toLe 2 32 ++ toLe 2 1024 ++ toLe 1 8 ++ toLe 1 16 ++ toLe 1 16 ++ toLe 1 4 ++ toLe 4 48 ++ toLe 2 4096
    ++ toLe 1 17 ++ toLe 1 0 ++ toLe 4 1400 ++ toLe 4 20 ++ toLe 4 10000 ++ toLe 4 1 ++ toLe 4 1 ++ toLe 4 500 ++ toLe 4 20
    ++ toLe 1 12 ++ toLe 1 4 ++ zeros 46
  b ++ toLe 4 (crc32c b)

/-- MOD.GEOMETRY. -/
def modGeometry (s : State) (_ : MCmd) : Ans := { done s with buf := geometry }

/-- The health report (Table 15.11). -/
def healthReport (s : State) : List Byte :=
  let lost := (allTiles.filter (fun p => checkLost (getTile s p))).take 96
  slice (toLe 2 1 ++ toLe 1 (conditionOf s) ++ toLe 1 (s.reeve.pair + 2 * b2n s.reeve.standby) ++ toLe 4 s.reeve.handovers
    ++ toLe 2 (maskOf 12 (fun n => (getPart s n).lost)) ++ toLe 2 (maskOf 12 (partResets s))
    ++ toLe 1 (maskOf 8 (fun k => (getStack s k).ucieUp != 0xFF && !(getStack s k).lost))
    ++ toLe 1 (maskOf 8 (fun k => (getStack s k).lost)) ++ [0, 0]
    ++ toLe 4 (maskOf 32 (fun p => (getPort s p).fenced)) ++ toLe 4 (maskOf 32 (fun p => portDegraded (getPort s p)))
    ++ toLe 4 (maskOf 32 (fun p => !(portUp (getPort s p)))) ++ toLe 2 (countOf 192 (rowNoCover s))
    ++ toLe 2 (countOf 192 (fun r => 128 ≤ spareByte s r)) ++ toLe 2 (tileCountOf s (fun t => t.st == .pinfold))
    ++ toLe 2 (tileCountOf s checkLost) ++ toLe 2 (tileCountOf s (fun t => loomWidth t.loom == 31)) ++ [0, 0]
    ++ toLe 8 (s.clk.bell % 2 ^ 48) ++ toLe 8 ((s.reeve.recs.getLast?.map (fun r => r.1)).getD 0) ++ zeros 8
    ++ lost.flatMap (fun p => toLe 1 (p % 100) ++ toLe 1 (p / 100))
    ++ (upto lost.length (96 - lost.length)).flatMap (fun _ => [0xFF, 0xFF])) 0 256

/-- MOD.HEALTH. -/
def modHealth (s : State) (_ : MCmd) : Ans := { done s with buf := healthReport s }

/-- MOD.READY (R455): the report as it fills, and from readiness on as it was then. -/
def modReady (s : State) (_ : MCmd) : Ans :=
  { done s with buf := if s.start.ready then s.start.report else readyReport s }

/-- MOD.CLOCK_SET: the stamp, and the cycle count at which it was set. -/
def modClockSet (s : State) (c : MCmd) : Ans :=
  done (modReeve s (fun r => { r with clock := some (slice c.ent 0x20 8 ++ toLe 8 s.clk.cycles) }))

/-- MOD.ID_SET (R443). 0x1FFFF is refused: Table 0.3 lists it among the module IDs, and R443 has it stand for none (DESIGN CHOICE,
assumption 33). -/
def modIdSet (s : State) (c : MCmd) : Ans :=
  let id := cPar c 0 4
  if 0x1FFFF ≤ id then deny s 0x13 0x20
  else
    let s1 := persist s 0 id
    if s.link.modId == 0x1FFFF then
      done (modLink s1 (fun k => { k with
        modId := id, routeA := kvSet 0 k.routeA id 0xC000, routeB := kvSet 0 k.routeB id 0xC000 }))
    else done s1

/-- MOD.RESET of level 3. -/
def modResetPartition (s : State) (c : MCmd) : Ans :=
  if !s.start.ready then deny s 0x30 0
  else withPart s c (cPar c 1 1) 0x21 (fun n => done (beginReset s n 3 0x0044))

/-- MOD.RESET of level 4. Its partition byte names nothing, but no index beyond its range is accepted (R11). -/
def modResetCompute (s : State) (c : MCmd) : Ans :=
  if !s.start.ready then deny s 0x30 0 else if 12 ≤ cPar c 1 1 then deny s 0x13 0x21 else done (computeBegin s)

/-- MOD.RESET of level 5 (R444, R11). -/
def modResetPower (s : State) (c : MCmd) : Ans := if 12 ≤ cPar c 1 1 then deny s 0x13 0x21 else done (requestCycle s)

/-- The counters a telemetry sweep reads of a router (the spec gives no layout: DESIGN CHOICE, assumption 41). -/
def sweepRouter (r : Router) : List Byte :=
  (upto 0 5).flatMap (fun c =>
    let q := kvGet {} r.ports c
    toLe 4 q.pkt ++ toLe 8 q.byte ++ toLe 4 q.stall ++ toLe 2 q.waitMax ++ toLe 1 q.vc0 ++ toLe 1 q.vc1 ++ toLe 1 q.vc2 ++ [0, 0, 0])
  ++ toLe 2 r.dropKey ++ toLe 1 r.dropStale ++ toLe 1 r.dropUe ++ toLe 4 r.corr ++ toLe 4 r.dropBypass ++ zeros 4

/-- The counters it reads of a port. -/
def sweepPort (q : Port) : List Byte :=
  toLe 4 q.tx ++ toLe 4 q.rx ++ toLe 2 q.crc ++ toLe 2 q.seqBad ++ toLe 2 q.retryReq ++ toLe 2 q.replays ++ toLe 2 q.late
  ++ toLe 2 q.parkedCnt ++ toLe 1 q.dropKey ++ toLe 1 q.dropHops ++ toLe 1 q.dropRoute ++ toLe 1 q.dropDown ++ toLe 4 q.undel
  ++ toLe 2 q.bellLost ++ toLe 2 q.conflict ++ toLe 2 q.tlyTransit ++ toLe 2 q.tlyLocal

/-- The counters it reads of a mill. -/
def sweepMill (q : Stack) : List Byte :=
  toLe 2 q.eccUnc ++ toLe 2 q.eccCor ++ toLe 2 q.nonfin ++ toLe 2 q.idx ++ toLe 2 q.mxSpecial ++ toLe 2 q.mxUflow
  ++ toLe 4 q.mergeCnt ++ (upto 0 4).flatMap (fun g => toLe 4 (kvGet 0 q.grp g)) ++ toLe 1 q.tlyWrite ++ toLe 1 q.tlyRead
  ++ toLe 1 q.tlyScrub ++ [0] ++ toLe 2 q.resMism ++ toLe 2 q.keyViol

/-- Bytes of a router in a sweep. -/
def sweepStride : Nat := 136

/-- A telemetry sweep: every router in row order, every port, every mill, and the bell holds within H (R31). -/
def sweepBytes (s : State) : List Byte :=
  allTiles.flatMap (fun p => slice (sweepRouter (getTile s p).router) 0 sweepStride)
  ++ (upto 0 32).flatMap (fun p => sweepPort (getPort s p)) ++ (upto 0 8).flatMap (fun k => sweepMill (getStack s k))
  ++ toLe 4 s.clk.holds

/-- The index of a physical tile in row order. -/
def tileIndex (p : Nat) : Nat := 100 * (p / 100) + p % 100

/-- MOD.TELEMETRY: the last sweep; a partition page receives its own routers. -/
def modTelemetry (s : State) (c : MCmd) : Ans :=
  if cAdmin c then { done s with buf := s.reeve.sweep }
  else { done s with buf := if s.reeve.sweep.isEmpty then [] else (partTiles c.pg).flatMap (fun p => slice s.reeve.sweep (sweepStride * tileIndex p) sweepStride) }

/-- PART.MB_CTL (R424). -/
def partMbCtl (s : State) (c : MCmd) : Ans :=
  withPart s c (cPar c 0 1) 0x20 (fun n =>
    if 1 < cPar c 1 1 then deny s 0x12 0x21 else done (modPart s n (fun p => { p with mbDisabled := cPar c 1 1 == 0 })))

/-! ## REC (R363, R427) -/

/-- The records the Reeve can return, in the order of their IDs. -/
def recStore (s : State) : List (Nat × List Byte) :=
  s.reeve.fatal.filter (fun f => !(s.reeve.recs.any (fun r => r.1 == f.1))) ++ s.reeve.recs

/-- A record padded to 8 B. -/
def recPad (r : List Byte) : List Byte := slice r 0 ((r.length + 7) / 8 * 8)

/-- As many records as the capacity and the count allow, with their number. -/
def recFill (cap count : Nat) : List (Nat × List Byte) → List Byte × Nat
  | [] => ([], 0)
  | r :: rest =>
    let b := recPad r.2
    if count == 0 || cap < b.length then ([], 0)
    else
      let x := recFill (cap - b.length) (count - 1) rest
      (b ++ x.1, x.2 + 1)

/-- REC.READ. -/
def recRead (s : State) (c : MCmd) : Ans :=
  let rs := (recStore s).filter (fun r => cPar c 0 8 ≤ r.1 && (cAdmin c || recFld r.2 0x14 2 == c.pg))
  let x := recFill (cCap c) (cPar c 8 4) rs
  if x.2 == 0 && !rs.isEmpty && cPar c 8 4 != 0 then { deny s 0x15 0 with need := ((rs.headD (0, [])).2.length + 7) / 8 * 8 }
  else { done s with
    res := toLe 4 x.2 ++ toLe 8 (((rs.drop x.2).head?.map (fun r => r.1)).getD (nextRecId s))
    buf := x.1 }

/-! ## PWR (R466, R469) -/

/-- PWR.LIMIT_SET. -/
def pwrLimitSet (s : State) (c : MCmd) : Ans :=
  let v := cPar c 4 4
  if cPar c 0 1 == 0xFF then
    if v < 1100000 || 1850000 < v then deny s 0x12 0x24
    else if v < committedMw s none then deny s 0x29 0xFF
    else done { s with power := { s.power with limitMw := v } }
  else withPart s c (cPar c 0 1) 0x20 (fun n =>
    if v == 0 then deny s 0x12 0x24
    else if v < partMw s n (pendActs s n) then deny s 0x29 n
    else done { s with power := { s.power with partLimit := kvSet 0xFFFFFFFF s.power.partLimit n v } })

/-- Code of a domain's state. -/
def domCode : DomSt → Nat
  | .off => 0 | .on => 1 | .retention => 2 | .fault => 3

/-- The PWR.READ buffer (Table 17.4); a partition page receives its own five domains. -/
def pwrBytes (s : State) (c : MCmd) : List Byte :=
  let p := s.power
  toLe 2 1 ++ toLe 1 s.clk.step ++ toLe 1 (b2n (s.clk.extCc != 0) + 2 * b2n p.keepAlive) ++ toLe 4 p.inputMv ++ toLe 4 p.inputMw
  ++ toLe 4 p.dieMw ++ toLe 4 p.limitMw ++ toLe 4 (committedMw s none) ++ toLe 2 p.tj ++ toLe 2 p.dram ++ zeros 4
  ++ toLe 8 p.sampleBell ++ zeros 8
  ++ (upto 0 96).flatMap (fun d =>
    let x := kvGet {} p.sample d
    if cAdmin c || (d < 60 && d / 5 == c.pg) then
      toLe 1 (domCode (kvGet .off p.domains d)) ++ [0] ++ toLe 2 x.mv ++ toLe 4 x.mean ++ toLe 4 x.peak ++ toLe 2 x.excess
      ++ toLe 2 (b2n x.crack)
    else zeros 16)

/-- PWR.READ. -/
def pwrRead (s : State) (c : MCmd) : Ans := { done s with buf := pwrBytes s c }

/-! ## Staging (R76, R78) -/

/-- The first bell that can be the start bell of a job of a partition, as far as is known (R76): that of the first lot or
activation that waits there, else the end of what runs. -/
def jobEarliest (s : State) (n : Nat) : Nat :=
  let lots := (getPart s n).lots
  let waits := (lots.filter (fun l => l.state == 0)).map (fun l => l.start)
    ++ (s.reeve.changes.filter (fun c => c.outcome == 0 && c.kind == 0x10 && bitAt c.parts n)).map (fun c => c.target)
  match waits with
  | [] => (lots.filter (fun l => l.state == 1)).foldl (fun m l => max m (lotEnd l)) 0
  | t :: ts => ts.foldl min t

/-- The earliest target of a change (R76, R274): current + 2, or current + W + 2 for a domain's; of a split and a reseed, whose
target is the start bell of the jobs they affect, not before the first that can be one. -/
def stageEarliest (s : State) (kind mask : Nat) : Nat :=
  let base := s.clk.bell + 2 + (if domainKind kind then s.link.voteW else 0)
  if kind == 4 || kind == 7 then (maskParts (if kind == 4 then 0xFFF else mask)).foldl (fun m n => max m (jobEarliest s n)) base
  else base

/-- Stage a change, or refuse it: target too early, or a pending change of the same field and scope. -/
def stagePut (s : State) (c : MCmd) (kind mask target : Nat) (value : List Byte) : Ans :=
  if target < stageEarliest s kind mask then deny s 0x21 (stageEarliest s kind mask % 2 ^ 32)
  else match stageClash s kind mask with
    | some x => deny s 0x20 x.id
    | none =>
      let r := newChange s kind mask target c.pg value
      { done r.2 with res := toLe 4 r.1 }

/-! ## LINK (R323, R325) -/

/-- Is a route switch pending (LK_ROUTE_CTL.PENDING)? -/
def routePending (s : State) : Bool := s.reeve.changes.any (fun x => x.outcome == 0 && x.kind == 0x14)

/-- LINK.ROUTE_WRITE: entries into the inactive bank; the module's own entry must stay local. -/
def linkRouteWrite (s : State) (c : MCmd) : Ans :=
  let first := cPar c 0 4
  let n := cPar c 4 4
  let entry := fun (i : Nat) => fld c.req (2 * i) 2
  let put := fun (m : Kv Nat) => (upto 0 n).foldl (fun m i => kvSet 0 m (first + i) (entry i)) m
  if 131072 ≤ first then deny s 0x13 0x20
  else if 131072 < first + n then deny s 0x13 0x24
  else if c.req.length != 2 * n then deny s 0x12 0x10
  else if (upto 0 n).any (fun i => bits (entry i) 12 5 != 0
      || (first + i == s.link.modId % 2 ^ 17 && !(bitAt (entry i) 15 && bitAt (entry i) 14))) then deny s 0x12 0x20
  else if routePending s then deny s 0x2B 0
  else done (modLink s (fun k => if k.bank == 0 then { k with routeB := put k.routeB } else { k with routeA := put k.routeA }))

/-- LINK.ROUTE_SWITCH. -/
def linkRouteSwitch (s : State) (c : MCmd) : Ans := stagePut s c 0x14 0xFFFF (cBell c 8) []

/-- LINK.MCAST_WRITE. -/
def linkMcastWrite (s : State) (c : MCmd) : Ans :=
  let first := cPar c 0 2
  let n := cPar c 2 2
  if 4096 ≤ first then deny s 0x13 0x20
  else if 4096 < first + n then deny s 0x13 0x22
  else if c.req.length != 12 * n then deny s 0x12 0x10
  else if (upto 0 n).any (fun i => bits (fld c.req (12 * i + 8) 4) 23 0 != 0) then deny s 0x12 0x20
  else if routePending s then deny s 0x2B 0
  else done (modLink s (fun k => { k with mcast := (upto 0 n).foldl (fun m i =>
    let e := slice c.req (12 * i) 12
    if allZero e then kvDel m (first + i) else kvSet [] m (first + i) e) k.mcast }))

/-! ## SYS (R258, R407, R408) -/

/-- SYS.KEYS. -/
def sysKeys (s : State) (c : MCmd) : Ans :=
  let m := cPar c 0 2
  if 4096 ≤ m then deny s 0x13 0x20
  else if (maskParts m).any (lotsActive s) then deny s 0x2B 0
  else done (keysWrite ((maskParts m).foldl (fun s n =>
    modPart s n (fun p => { p with key := cPar c (4 + 2 * n) 2, prevKey := 0 })) s))

/-- Would a lot of the partitions named still be active at T (R407)? -/
def lotsPast (s : State) (m t : Nat) : Bool :=
  (maskParts m).any (fun n => (getPart s n).lots.any (fun l => l.state != 2 && t < lotEnd l))

/-- SYS.JOIN. -/
def sysJoin (s : State) (c : MCmd) : Ans :=
  let m := cPar c 0 2
  if 4096 ≤ m then deny s 0x13 0x20
  else if !s.link.inDomain || lotsPast s m (cBell c 8) then deny s 0x2B 0
  else stagePut s c 0x15 m (cBell c 8) []

/-- SYS.LEAVE: from the command on, the partitions accept no new lot. -/
def sysLeave (s : State) (c : MCmd) : Ans :=
  let m := cPar c 0 2
  if 4096 ≤ m then deny s 0x13 0x20
  else if lotsPast s m (cBell c 8) then deny s 0x2B 0
  else
    let a := stagePut s c 0x16 m (cBell c 8) []
    if a.status != 0 then a
    else { a with st := (maskParts m).foldl (fun s n => modPart s n (fun p => { p with leaveAt := some (cBell c 8) })) a.st }

/-! ## Rows -/

/-- A command that only reads, with a response buffer. -/
def readSpec : CSpec := { resp := true }

/-- MOD_IDENTITY. -/
def execModIdentity (pg : Nat) (req : Option (List Byte)) (respOk : Bool) (s : State) : Res :=
  mailRow 0x0101 {} modIdentity pg req respOk s
/-- MOD_GEOMETRY. -/
def execModGeometry (pg : Nat) (req : Option (List Byte)) (respOk : Bool) (s : State) : Res :=
  mailRow 0x0102 readSpec modGeometry pg req respOk s
/-- MOD_HEALTH. -/
def execModHealth (pg : Nat) (req : Option (List Byte)) (respOk : Bool) (s : State) : Res :=
  mailRow 0x0103 readSpec modHealth pg req respOk s
/-- MOD_READY. -/
def execModReady (pg : Nat) (req : Option (List Byte)) (respOk : Bool) (s : State) : Res :=
  mailRow 0x0104 readSpec modReady pg req respOk s
/-- MOD_CLOCK_SET. -/
def execModClockSet (pg : Nat) (req : Option (List Byte)) (respOk : Bool) (s : State) : Res :=
  mailRow 0x0105 { part := false, writes := true, pars := [(0, 8)] } modClockSet pg req respOk s
/-- MOD_ID_SET. -/
def execModIdSet (pg : Nat) (req : Option (List Byte)) (respOk : Bool) (s : State) : Res :=
  mailRow 0x0106 { part := false, writes := true, pars := [(0, 4)] } modIdSet pg req respOk s
/-- MOD_RESET_PARTITION. -/
def execModResetPartition (pg : Nat) (req : Option (List Byte)) (respOk : Bool) (s : State) : Res :=
  mailRow (0x0107 + 3 * 65536) { part := false, writes := true, pars := [(0, 2)] } modResetPartition pg req respOk s
/-- MOD_RESET_MODULE_COMPUTE. -/
def execModResetModuleCompute (pg : Nat) (req : Option (List Byte)) (respOk : Bool) (s : State) : Res :=
  mailRow (0x0107 + 4 * 65536) { part := false, writes := true, pars := [(0, 2)] } modResetCompute pg req respOk s
/-- MOD_RESET_POWER_CYCLE: accepted in any phase. -/
def execModResetPowerCycle (pg : Nat) (req : Option (List Byte)) (respOk : Bool) (s : State) : Res :=
  mailRow (0x0107 + 5 * 65536) { part := false, pars := [(0, 2)] } modResetPower pg req respOk s
/-- MOD_TELEMETRY. -/
def execModTelemetry (pg : Nat) (req : Option (List Byte)) (respOk : Bool) (s : State) : Res :=
  mailRow 0x0108 readSpec modTelemetry pg req respOk s
/-- PART_MB_CTL. -/
def execPartMbCtl (pg : Nat) (req : Option (List Byte)) (respOk : Bool) (s : State) : Res :=
  mailRow 0x0201 { part := false, writes := true, pars := [(0, 2)] } partMbCtl pg req respOk s
/-- REC_READ. -/
def execRecRead (pg : Nat) (req : Option (List Byte)) (respOk : Bool) (s : State) : Res :=
  mailRow 0x0B01 { resp := true, pars := [(0, 12)] } recRead pg req respOk s
/-- PWR_LIMIT_SET. -/
def execPwrLimitSet (pg : Nat) (req : Option (List Byte)) (respOk : Bool) (s : State) : Res :=
  mailRow 0x0D01 { part := false, writes := true, pars := [(0, 1), (4, 4)] } pwrLimitSet pg req respOk s
/-- PWR_READ. -/
def execPwrRead (pg : Nat) (req : Option (List Byte)) (respOk : Bool) (s : State) : Res :=
  mailRow 0x0D02 readSpec pwrRead pg req respOk s
/-- LINK_ROUTE_WRITE. -/
def execLinkRouteWrite (pg : Nat) (req : Option (List Byte)) (respOk : Bool) (s : State) : Res :=
  mailRow 0x0901 { part := false, req := true, writes := true, pars := [(0, 8)] } linkRouteWrite pg req respOk s
/-- LINK_ROUTE_SWITCH. -/
def execLinkRouteSwitch (pg : Nat) (req : Option (List Byte)) (respOk : Bool) (s : State) : Res :=
  mailRow 0x0902 { part := false, writes := true, pars := [(8, 6)] } linkRouteSwitch pg req respOk s
/-- LINK_MCAST_WRITE. -/
def execLinkMcastWrite (pg : Nat) (req : Option (List Byte)) (respOk : Bool) (s : State) : Res :=
  mailRow 0x0903 { part := false, req := true, writes := true, pars := [(0, 4)] } linkMcastWrite pg req respOk s
/-- SYS_KEYS. -/
def execSysKeys (pg : Nat) (req : Option (List Byte)) (respOk : Bool) (s : State) : Res :=
  mailRow 0x0A01 { part := false, writes := true, pars := [(0, 2), (4, 24)] } sysKeys pg req respOk s
/-- SYS_JOIN. -/
def execSysJoin (pg : Nat) (req : Option (List Byte)) (respOk : Bool) (s : State) : Res :=
  mailRow 0x0A02 { part := false, writes := true, pars := [(0, 2), (8, 6)] } sysJoin pg req respOk s
/-- SYS_LEAVE. -/
def execSysLeave (pg : Nat) (req : Option (List Byte)) (respOk : Bool) (s : State) : Res :=
  mailRow 0x0A03 { part := false, writes := true, pars := [(0, 2), (8, 6)] } sysLeave pg req respOk s

end Sys2Proof.Machine
end

