-- ==== Sys2Proof/Machine/MailWork.lean ====
section
/-! DEFINITION. The PAT, LOT, STAGE and CTX commands (spec/15, R428 to R435; spec/02, R57, R58, R61, R70 to R80; spec/18,
R483). Readings of the lot rules: DEDUCED, assumption 31; points of the mailbox commands: DESIGN CHOICE, assumption 33. -/

namespace Sys2Proof.Machine

/-! ## PAT (R392, R427, R469) -/

/-- May a bank of a tile be loaded now (R57): the tile is Idle or Joining, and the bank not its active one? -/
def bankLoadable (t : Tile) (k : Nat) : Bool :=
  (t.st == .idle || t.st == .joining) && !(t.installed && t.actBank == k)

/-- What is wrong with a load entry: status and detail (Table 15.7); `i` is its number. -/
def loadEntryBad (s : State) (c : MCmd) (n i : Nat) : Option (Nat × Nat) :=
  let e := slice c.req (16 * i) 16
  let l := fld e 0 2
  let t := getTile s (physOf s l)
  if 4608 ≤ l then some (0x13, 16 * i)
  else if logPart l != n then some (0x11, 0)
  else if 3 < fld e 2 1 then some (0x12, 16 * i + 2)
  else if 1 < fld e 3 1 then some (0x12, 16 * i + 3)
  else if fld e 8 1 == 0 || 4 < fld e 8 1 then some (0x12, 16 * i + 8)
  else if !(allZero (slice e 9 7)) then some (0x12, 16 * i + 9)
  else if Config.shareBolts < fld e 4 4 + fld e 8 1 then some (0x13, 16 * i + 4)
  else if !(bankLoadable t (fld e 2 1)) then some (0x2B, 0)
  else none

/-- PAT.LOAD: a bulk load as a long operation. -/
def patLoad (s : State) (c : MCmd) : Ans :=
  withPart s c (cPar c 0 1) 0x20 (fun n =>
    let k := cPar c 4 4
    if c.req.length != 16 * k then deny s 0x12 0x24
    else match (upto 0 k).findSome? (loadEntryBad s c n) with
      | some e => deny s e.1 e.2
      | none => if partBusy s n then deny s 0x24 0 else opSubmit s c 2 (2 ^ n) c.req k)

/-- Stage a change of a context's patterns, unless the envelopes do not fit (R469). -/
def patStage (s : State) (c : MCmd) (kind n : Nat) (value : List Byte) : Ans :=
  if partBusy s n then deny s 0x24 0
  else
    let a := stagePut s c kind (2 ^ n) (cBell c 8) value
    if a.status != 0 then a
    else match powerBar s { id := 0, kind := kind, parts := 2 ^ n, target := cBell c 8, value := value } with
      | some d => deny s 0x29 d
      | none => a

/-- PAT.ACTIVATE. -/
def patActivate (s : State) (c : MCmd) : Ans := withPart s c (cPar c 0 1) 0x20 (fun n => patStage s c 0x10 n [])

/-- PAT.SWITCH. -/
def patSwitch (s : State) (c : MCmd) : Ans :=
  withPart s c (cPar c 0 1) 0x20 (fun n =>
    if 3 < cPar c 1 1 then deny s 0x12 0x21 else patStage s c 0x11 n (toLe 1 (cPar c 1 1)))

/-- PAT.MAP. -/
def patMapRead (s : State) (c : MCmd) : Ans :=
  withPart s c (cPar c 0 1) 0x20 (fun n => { done s with buf := (getPart s n).patMap.flatMap (fun e => slice e 0 16) })

/-! ## LOT (R428 to R434) -/

/-- Does a partition accept lots (R394, R407, R408, R429)? -/
def lotAccepting (s : State) (n : Nat) : Bool :=
  let p := getPart s n
  !(partBusy s n) && !p.noCover && p.leaveAt.isNone && !s.reeve.computeReset && !s.power.keepAlive
  && !(s.reeve.changes.any (fun c => c.outcome == 0 && c.kind == 0x15 && bitAt c.parts n))

/-- Mill entries of a parameter block: their offsets and descriptors. -/
def lotMillList (b : List Byte) (n : Nat) : List (Nat × List Byte) :=
  (upto 0 n).map (fun i => (fld b (128 + 72 * i) 4, slice b (128 + 72 * i + 8) 64))

/-- What is wrong with a parameter block (Table 15.8): the byte offset. -/
def lotBlockBad (b : List Byte) : Option Nat :=
  let k := fld b 0x20 4
  let m := fld b 0x30 2
  if 2 ^ 48 ≤ fld b 0x18 8 then some 0x1E
  else if 16777215 < k then some 0x20
  else if 1 < fld b 0x24 4 then some 0x24
  else if 256 < m || b.length != 128 + 72 * m then some 0x30
  else if fld b 0x32 2 != 0 then some 0x32
  else if !(allZero (slice b 0x40 64)) then some 0x40
  else (upto 0 m).findSome? (fun i =>
    let o := 128 + 72 * i
    if fld b o 4 != 0 && k ≤ fld b o 4 then some o else if fld b (o + 4) 4 != 0 then some (o + 4) else none)

/-- The earliest start of a partition's next lot (R429): the previous lot's end bell, however that lot ends, and the current
bell + 2. -/
def lotEarliest (s : State) (n : Nat) : Nat := max (getPart s n).endBell (s.clk.bell + 2)

/-- LOT.SUBMIT. -/
def lotSubmit (s : State) (c : MCmd) : Ans :=
  let n := c.pg
  let p := getPart s n
  let b := c.req
  let want := fld b 0x18 8 % 2 ^ 48
  let early := lotEarliest s n
  match lotBlockBad b with
  | some i => deny s 0x12 i
  | none =>
    if p.cq.isNone then deny s 0x2B 0
    else if !(lotAccepting s n) then deny s 0x24 0
    else if p.lastLot.any (fun k => fld b 0 8 ≤ k) then deny s 0x25 0
    else if freeSlots p == 0 then deny s 0x2F 0
    else if want != 0 && want < early && bitAt (fld b 0x24 1) 0 then deny s 0x21 (early % 2 ^ 32)
    else
      let l : Lot := { number := fld b 0 8, cookie := fld b 8 8, seed := fld b 0x10 8, start := max want early
                       intervals := fld b 0x20 4, reloadBolt := fld b 0x28 4, reloadN := fld b 0x2C 4
                       mills := lotMillList b (fld b 0x30 2), recLen := fld b 0x34 4, recAddr := fld b 0x38 8 }
      let s1 := modPart s n (fun p => { p with lots := p.lots ++ [l], lastLot := some l.number, endBell := max p.endBell (lotEnd l) })
      { done s1 with res := toLe 2 (freeSlots (getPart s1 n)) }

/-- The ended lot of a number that is still retained: the last 32 and those whose entry is not written. -/
def endedFind (s : State) (n number : Nat) : Option Ended := (getPart s n).ended.find? (fun e => e.lot.number == number)

/-- LOT.CANCEL (R402, R434). -/
def lotCancel (s : State) (c : MCmd) : Ans :=
  let n := c.pg
  let num := cPar c 0 8
  match (getPart s n).lots.find? (fun l => l.number == num) with
  | some l =>
    if l.state == 0 then
      { done (modPart s n (fun p => { p with lots := p.lots.map (fun x =>
          if x.number == num then { endLot s n 0x0051 x with cancelReq := true } else x) })) with res := toLe 1 1 }
    else if l.state == 2 then deny s 0x27 ((firstCause l).getD (0, 0, 0)).1
    else if l.cancelReq then deny s 0x2B 0
    else
      { done (modPart s n (fun p => { p with lots := p.lots.map (fun x =>
          if x.number == num then { x with cancelReq := true } else x) })) with wait := some (n, num) }
  | none => match endedFind s n num with
    | some e => deny s 0x27 e.code
    | none => deny s 0x26 0

/-- The state of a lot that has no record yet: 0 queued, 1 running, 2 finishing (its end bell has passed, or a cause has ended it). -/
def lotStage (s : State) (l : Lot) : Nat := if l.state == 1 && lotEnd l ≤ s.clk.bell then 2 else l.state

/-- The state of a lot as LOT.QUERY returns it. -/
def lotState (l : Lot) (code state : Nat) : List Byte :=
  toLe 1 state ++ [0] ++ toLe 2 code ++ toLe 8 (l.start % 2 ^ 48) ++ toLe 8 (lotEnd l % 2 ^ 48)

/-- LOT.QUERY. -/
def lotQuery (s : State) (c : MCmd) : Ans :=
  match (getPart s c.pg).lots.find? (fun l => l.number == cPar c 0 8) with
  | some l => { done s with res := lotState l ((firstCause l).getD (0, 0, 0)).1 (lotStage s l) }
  | none => match endedFind s c.pg (cPar c 0 8) with
    | some e => { done s with res := lotState e.lot e.code 3 }
    | none => deny s 0x26 0

/-- A lot whose records can be read: ended and retained. -/
def lotEnded (s : State) (c : MCmd) (f : Lot → Ans) : Ans :=
  match endedFind s c.pg (cPar c 0 8) with
  | some e => f e.lot
  | none => if (getPart s c.pg).lots.any (fun l => l.number == cPar c 0 8) then deny s 0x2B 0 else deny s 0x26 0

/-- LOT.RECORDS (R433). -/
def lotRecords (s : State) (c : MCmd) : Ans := lotEnded s c (fun l => { done s with buf := l.attach.flatMap (fun a => a) })

/-- LOT.DIGESTS (R353): the spare positions, then digest and pattern_id of each logical tile of the partition. -/
def lotDigests (s : State) (c : MCmd) : Ans :=
  lotEnded s c (fun l => { done s with
    buf := l.spares.flatMap (toLe 1) ++ (upto 0 384).flatMap (fun i =>
      let t := 96 * (16 * (c.pg / 4) + i / 24) + 24 * (c.pg % 4) + i % 24
      toLe 8 (kvGet 0 l.digests t) ++ toLe 8 (kvGet 0 l.patterns t)) })

/-- Is a number of entries one that LOT.CQ_SET allows: a power of two from 64 to 65,536? -/
def cqEntriesOk (n : Nat) : Bool := (upto 6 11).any (fun i => n == 2 ^ i)

/-- LOT.CQ_SET (R431). -/
def lotCqSet (s : State) (c : MCmd) : Ans :=
  let p := getPart s c.pg
  if cPar c 0 8 % 4096 != 0 then deny s 0x12 0x20
  else if !(cqEntriesOk (cPar c 8 4)) then deny s 0x12 0x28
  else if lotsActive s c.pg then deny s 0x2B 0
  else done (modPart s c.pg (fun _ => { p with cq := some { base := cPar c 0 8, entries := cPar c 8 4 } }))

/-! ## STAGE (R435) -/

/-- Is a TL_NUM_MODE value one that can be set (Table 3.4)? -/
def numModeOk (v : Nat) : Bool :=
  v < 2 ^ 10 && bits v 1 0 != 3 && !(bitAt v 3) && bits v 7 6 == 0 && bits v 9 8 != 3

/-- Do the active patterns of a context declare deadline items from other modules? -/
def ctxKind3 (s : State) (n : Nat) : Bool :=
  (scopeTiles s n).any (fun p =>
    let t := getTile s p
    t.installed && (upto 0 (dlCount t)).any (fun i => fld (dlEntry t i) 0 1 == 3))

/-- Would a context have an active lot at bell t? -/
def lotAt (s : State) (n t : Nat) : Bool := (getPart s n).lots.any (fun l => l.state != 2 && l.start ≤ t && t < lotEnd l)

/-- The value field of a STAGE.SET. -/
def stageVal (c : MCmd) (n : Nat) : Nat := cPar c 16 n

/-- A staging of context scope. -/
def stageCtx (s : State) (c : MCmd) (f : Nat → Ans) : Ans :=
  withPart s c (cPar c 1 1) 0x21 (fun n => if partBusy s n then deny s 0x24 0 else f n)

/-- A staging of module or domain scope names no partition. -/
def stageMod (s : State) (c : MCmd) (f : Ans) : Ans := if cPar c 1 1 != 0xFF then deny s 0x12 0x21 else f

/-- A staging over a mask of partitions. -/
def stageMask (s : State) (c : MCmd) (f : Nat → Ans) : Ans :=
  stageMod s c (if 4096 ≤ cPar c 2 2 then deny s 0x13 0x22 else f (cPar c 2 2))

/-- STAGE.SET kind 0x01 (R101). -/
def stageNumeric (s : State) (c : MCmd) : Ans :=
  stageCtx s c (fun n =>
    if !(numModeOk (stageVal c 4)) then deny s 0x12 0x30 else stagePut s c 1 (2 ^ n) (cBell c 8) (toLe 4 (stageVal c 4)))

/-- STAGE.SET kind 0x02 (R483). -/
def stageHalt (s : State) (c : MCmd) : Ans :=
  stageCtx s c (fun n =>
    if stageVal c 1 != 1 then deny s 0x12 0x30
    else if lotAt s n (cBell c 8) && ctxKind3 s n then deny s 0x2B 0
    else stagePut s c 2 (2 ^ n) (cBell c 8) [])

/-- STAGE.SET kind 0x03 (R47). -/
def stageHold (s : State) (c : MCmd) : Ans :=
  stageMod s c (if stageVal c 2 == 0 || 500 < stageVal c 2 then deny s 0x12 0x30
    else stagePut s c 3 0xFFFF (cBell c 8) (toLe 2 (stageVal c 2)))

/-- STAGE.SET kind 0x04 (R278). -/
def stageSplit (s : State) (c : MCmd) : Ans :=
  stageMod s c (if !(splitOk (stageVal c 4)) then deny s 0x12 0x30
    else if 256 ≤ cPar c 2 2 then deny s 0x13 0x22
    else stagePut s c 4 (0xFFF + 65536 * cPar c 2 1) (cBell c 8) (toLe 4 (stageVal c 4) ++ toLe 1 (cPar c 2 1)))

/-- STAGE.SET kind 0x05 (R79). -/
def stagePeriod (s : State) (c : MCmd) : Ans :=
  stageMod s c (if stageVal c 2 < 20 || 10000 < stageVal c 2 then deny s 0x12 0x30
    else stagePut s c 5 0xFFFF (cBell c 8) (toLe 2 (stageVal c 2)))

/-- STAGE.SET kind 0x06 (R80, R258): the keys are in the request buffer. -/
def stageKeys (s : State) (c : MCmd) : Ans :=
  stageMask s c (fun m => if c.req.length != 24 then deny s 0x12 0x10 else stagePut s c 6 m (cBell c 8) c.req)

/-- STAGE.SET kind 0x07 (R274). -/
def stageReseed (s : State) (c : MCmd) : Ans := stageMask s c (fun m => stagePut s c 7 m (cBell c 8) [])

/-- STAGE.SET kind 0x08 (R294). -/
def stageMerge (s : State) (c : MCmd) : Ans :=
  stageMask s c (fun m =>
    if 4096 ≤ stageVal c 2 then deny s 0x12 0x30 else stagePut s c 8 m (cBell c 8) (toLe 2 (stageVal c 2)))

/-- A change that a page may name: an admin page any, a partition page its own (R424). -/
def changeNamed (s : State) (c : MCmd) (id : Nat) : Option Change :=
  s.reeve.changes.find? (fun x => x.id == id && (cAdmin c || x.page == c.pg || (x.parts < 4096 && x.parts == 2 ^ c.pg)))

/-- STAGE.CANCEL (R78, R435). -/
def stageCancel (s : State) (c : MCmd) : Ans :=
  match changeNamed s c (cPar c 0 4) with
  | none => deny s 0x2A 0
  | some x =>
    if x.outcome != 0 || x.evaluated then deny s 0x27 x.outcome
    else
      let s1 := changeDecide s x 3
      done (if x.kind == 0x16 then (maskParts x.parts).foldl (fun s n => modPart s n (fun p => { p with leaveAt := none })) s1 else s1)

/-- STAGE.QUERY: the change record (R81, R435). -/
def stageQuery (s : State) (c : MCmd) : Ans :=
  match changeNamed s c (cPar c 0 4) with
  | none => deny s 0x2A 0
  | some x => { done s with
      buf := slice (toLe 4 x.id ++ toLe 1 x.kind ++ toLe 1 x.outcome ++ toLe 2 x.refusers.length ++ toLe 8 (x.target % 2 ^ 48)
        ++ (x.refusers.take 32).flatMap (fun r => toLe 4 r.1 ++ toLe 1 r.2)) 0 176 }

/-! ## CTX (R70 to R72, R395) -/

/-- CTX.SCAN_OUT. -/
def ctxScanOut (s : State) (c : MCmd) : Ans :=
  withPart s c (cPar c 0 1) 0x20 (fun n =>
    if 1 < cPar c 1 1 then deny s 0x12 0x21
    else if Config.shareBolts < cPar c 4 4 + 384 * imageBolts (cPar c 1 1 == 1) then deny s 0x13 0x24
    else if partBusy s n then deny s 0x24 0
    else stagePut s c 0x12 (2 ^ n) (cBell c 8) (toLe 1 (cPar c 1 1) ++ toLe 4 (cPar c 4 4)))

/-- CTX.SCAN_IN (R72): every image is checked, and restored when all pass; the context resumes at the next bell. -/
def ctxScanIn (s : State) (c : MCmd) : Ans :=
  withPart s c (cPar c 0 1) 0x20 (fun src => withPart s c (cPar c 1 1) 0x21 (fun dst =>
    let bolt := cPar c 4 4
    if Config.shareBolts < bolt + 384 * imageBolts (scanStore s src bolt) then deny s 0x13 0x24
    else if partBusy s dst then deny s 0x24 0
    else if !(liveTiles s dst).isEmpty || (getPart s dst).halted then deny s 0x2B 0
    else match stageClash s 0x13 (2 ^ dst) with
      | some x => deny s 0x20 x.id
      | none =>
        let read := shareTake s src bolt (384 * imageBolts (scanStore s src bolt))
        let r := newChange read 0x13 (2 ^ dst) (s.clk.bell + 1) c.pg (toLe 1 src ++ toLe 4 bolt)
        match scanBad s src dst bolt, r.2.reeve.changes.find? (fun x => x.id == r.1) with
        | some i, some x =>
          let l := 96 * (16 * (dst / 4) + i / 24) + 24 * (dst % 4) + i % 24
          { done (changeDecide r.2 { x with evaluated := true, refusers := [(unitId 1 l, 0)] } 2) with res := toLe 4 r.1 }
        | none, some x =>
          let s1 := scanRestore (changePut r.2 { x with evaluated := true }) src dst bolt
          { done (modPart s1 dst (fun p => { p with resumeIn := true })) with res := toLe 4 r.1 }
        | _, none => { done r.2 with res := toLe 4 r.1 }))

/-- CTX.RESET. -/
def ctxReset (s : State) (c : MCmd) : Ans :=
  withPart s c (cPar c 0 1) 0x20 (fun n => if partBusy s n then deny s 0x24 0 else done (beginReset s n 1 0x0042))

/-! ## Rows -/

/-- A staging or ordering command with some inline bytes; of a target bell the two bytes above [47:0] are reserved. -/
def workSpec (pars : List (Nat × Nat)) : CSpec := { writes := true, pars := pars }
/-- A lot command: partition pages only. -/
def lotSpec (pars : List (Nat × Nat)) (writes resp : Bool) : CSpec := { adm := false, writes := writes, resp := resp, pars := pars }
/-- A STAGE.SET of a kind with `n` value bytes; `mask` when it names partitions or stacks, `part` for partition pages. -/
def stageSpec (n : Nat) (mask part : Bool) : CSpec :=
  { part := part, writes := true, pars := [(0, 2), (8, 6), (16, n)] ++ (if mask then [(2, 2)] else []) }

/-- PAT_LOAD. -/
def execPatLoad (pg : Nat) (req : Option (List Byte)) (respOk : Bool) (s : State) : Res :=
  mailRow 0x0301 { req := true, writes := true, pars := [(0, 1), (4, 4)] } patLoad pg req respOk s
/-- PAT_ACTIVATE. -/
def execPatActivate (pg : Nat) (req : Option (List Byte)) (respOk : Bool) (s : State) : Res :=
  mailRow 0x0302 (workSpec [(0, 1), (8, 6)]) patActivate pg req respOk s
/-- PAT_SWITCH. -/
def execPatSwitch (pg : Nat) (req : Option (List Byte)) (respOk : Bool) (s : State) : Res :=
  mailRow 0x0303 (workSpec [(0, 2), (8, 6)]) patSwitch pg req respOk s
/-- PAT_MAP. -/
def execPatMap (pg : Nat) (req : Option (List Byte)) (respOk : Bool) (s : State) : Res :=
  mailRow 0x0304 { resp := true, pars := [(0, 1)] } patMapRead pg req respOk s
/-- LOT_SUBMIT. -/
def execLotSubmit (pg : Nat) (req : Option (List Byte)) (respOk : Bool) (s : State) : Res :=
  mailRow 0x0401 { adm := false, req := true, writes := true } lotSubmit pg req respOk s
/-- LOT_CANCEL. -/
def execLotCancel (pg : Nat) (req : Option (List Byte)) (respOk : Bool) (s : State) : Res :=
  mailRow 0x0402 (lotSpec [(0, 8)] true false) lotCancel pg req respOk s
/-- LOT_QUERY. -/
def execLotQuery (pg : Nat) (req : Option (List Byte)) (respOk : Bool) (s : State) : Res :=
  mailRow 0x0403 (lotSpec [(0, 8)] false false) lotQuery pg req respOk s
/-- LOT_RECORDS. -/
def execLotRecords (pg : Nat) (req : Option (List Byte)) (respOk : Bool) (s : State) : Res :=
  mailRow 0x0404 (lotSpec [(0, 8)] false true) lotRecords pg req respOk s
/-- LOT_CQ_SET. -/
def execLotCqSet (pg : Nat) (req : Option (List Byte)) (respOk : Bool) (s : State) : Res :=
  mailRow 0x0405 (lotSpec [(0, 12)] true false) lotCqSet pg req respOk s
/-- LOT_DIGESTS. -/
def execLotDigests (pg : Nat) (req : Option (List Byte)) (respOk : Bool) (s : State) : Res :=
  mailRow 0x0406 (lotSpec [(0, 8)] false true) lotDigests pg req respOk s
/-- STAGE_NUMERIC_MODES. -/
def execStageNumericModes (pg : Nat) (req : Option (List Byte)) (respOk : Bool) (s : State) : Res :=
  mailRow (0x0501 + 1 * 65536) (stageSpec 4 false true) stageNumeric pg req respOk s
/-- STAGE_HALT. -/
def execStageHalt (pg : Nat) (req : Option (List Byte)) (respOk : Bool) (s : State) : Res :=
  mailRow (0x0501 + 2 * 65536) (stageSpec 1 false true) stageHalt pg req respOk s
/-- STAGE_HOLD_LIMIT. -/
def execStageHoldLimit (pg : Nat) (req : Option (List Byte)) (respOk : Bool) (s : State) : Res :=
  mailRow (0x0501 + 3 * 65536) (stageSpec 2 false false) stageHold pg req respOk s
/-- STAGE_SPLIT. -/
def execStageSplit (pg : Nat) (req : Option (List Byte)) (respOk : Bool) (s : State) : Res :=
  mailRow (0x0501 + 4 * 65536) (stageSpec 4 true false) stageSplit pg req respOk s
/-- STAGE_BELL_PERIOD. -/
def execStageBellPeriod (pg : Nat) (req : Option (List Byte)) (respOk : Bool) (s : State) : Res :=
  mailRow (0x0501 + 5 * 65536) (stageSpec 2 false false) stagePeriod pg req respOk s
/-- STAGE_KEY_ROTATION. -/
def execStageKeyRotation (pg : Nat) (req : Option (List Byte)) (respOk : Bool) (s : State) : Res :=
  mailRow (0x0501 + 6 * 65536) { stageSpec 0 true false with req := true } stageKeys pg req respOk s
/-- STAGE_RESEED. -/
def execStageReseed (pg : Nat) (req : Option (List Byte)) (respOk : Bool) (s : State) : Res :=
  mailRow (0x0501 + 7 * 65536) (stageSpec 0 true false) stageReseed pg req respOk s
/-- STAGE_MERGED_READ. -/
def execStageMergedRead (pg : Nat) (req : Option (List Byte)) (respOk : Bool) (s : State) : Res :=
  mailRow (0x0501 + 8 * 65536) (stageSpec 2 true false) stageMerge pg req respOk s
/-- STAGE_CANCEL. -/
def execStageCancel (pg : Nat) (req : Option (List Byte)) (respOk : Bool) (s : State) : Res :=
  mailRow 0x0502 (workSpec [(0, 4)]) stageCancel pg req respOk s
/-- STAGE_QUERY. -/
def execStageQuery (pg : Nat) (req : Option (List Byte)) (respOk : Bool) (s : State) : Res :=
  mailRow 0x0503 { resp := true, pars := [(0, 4)] } stageQuery pg req respOk s
/-- CTX_SCAN_OUT. -/
def execCtxScanOut (pg : Nat) (req : Option (List Byte)) (respOk : Bool) (s : State) : Res :=
  mailRow 0x0601 (workSpec [(0, 2), (4, 4), (8, 6)]) ctxScanOut pg req respOk s
/-- CTX_SCAN_IN. -/
def execCtxScanIn (pg : Nat) (req : Option (List Byte)) (respOk : Bool) (s : State) : Res :=
  mailRow 0x0602 (workSpec [(0, 2), (4, 4)]) ctxScanIn pg req respOk s
/-- CTX_RESET. -/
def execCtxReset (pg : Nat) (req : Option (List Byte)) (respOk : Bool) (s : State) : Res :=
  mailRow 0x0603 (workSpec [(0, 1)]) ctxReset pg req respOk s

end Sys2Proof.Machine
end

