-- ==== Sys2Proof/Machine/MailMnt.lean ====
section
/-! DEFINITION. The MNT and OP commands and the progress of long operations (spec/15, R436 to R438; spec/14, R409 to R411;
spec/12, R352; spec/13, R385; spec/16, R446, R448, R449; spec/15, R415). Points of the mailbox and of long operations: DESIGN
CHOICE, assumptions 33 and 34. -/

namespace Sys2Proof.Machine

/-! ## MNT (Table 15.7) -/

/-- Partition-row order of a partition's physical tiles. -/
def statusTiles (n : Nat) : List Nat := (partRows n).flatMap (fun r => (upto 0 25).map (rowTile r))

/-- MNT.STACK_TEST. -/
def mntStackTest (s : State) (c : MCmd) : Ans :=
  if 1 < cPar c 1 1 then deny s 0x12 0x21
  else opSubmit s c 1 (2 ^ 16 * cPar c 0 1) (toLe 1 (cPar c 0 1) ++ toLe 1 (cPar c 1 1)) (4 * countOf 8 (bitAt (cPar c 0 1)))

/-- Bolts of a stack (R272). -/
def stackBolts : Nat := 12 * Config.shareBolts / 8

/-- MNT.SCRUB over stacks. -/
def mntScrubStacks (s : State) (c : MCmd) : Ans :=
  if 256 ≤ cPar c 2 2 then deny s 0x13 0x22
  else opSubmit s c 3 (2 ^ 16 * cPar c 2 2) [0] (stackBolts * countOf 8 (bitAt (cPar c 2 2)))

/-- MNT.SCRUB over tile stores. -/
def mntScrubTiles (s : State) (c : MCmd) : Ans :=
  if 4096 ≤ cPar c 2 2 then deny s 0x13 0x22 else opSubmit s c 3 (cPar c 2 2) [1] (400 * countOf 12 (bitAt (cPar c 2 2)))

/-- MNT.FW_UPDATE: an image of version `ver` and security version `sec` (R415). -/
def mntFwUpdate (ver sec : Nat) (s : State) (c : MCmd) : Ans :=
  if 1 < cPar c 0 1 then deny s 0x12 0x20
  else if sec < s.start.secCounter || 64 < sec then deny s 0x2D 0
  else opSubmit s c 5 0 (toLe 1 (cPar c 0 1) ++ toLe 4 ver ++ toLe 1 sec) ((c.req.length + 65535) / 65536 + 2)

/-- MNT.LINK_QUAL. -/
def mntLinkQual (s : State) (c : MCmd) : Ans :=
  opSubmit s c 6 (2 ^ 32 * cPar c 0 4) (toLe 4 (cPar c 0 4)) (50 * countOf 32 (bitAt (cPar c 0 4)))

/-- MNT.SPARE_MAP (R385): a partition page gets its own rows and tiles. -/
def mntSpareMap (s : State) (c : MCmd) : Ans :=
  let bytes := fun (rs ps : List Nat) =>
    rs.flatMap (fun r => toLe 1 (spareByte s r)) ++ ps.flatMap (fun p => toLe 4 (hwStatusOf (getTile s p).hw))
  { done s with buf := if cAdmin c then bytes spareRows allTiles else bytes (partRows c.pg) (statusTiles c.pg) }

/-- MNT.LEDGER: 16 B for each operation in the ledger (handle, state, reason, scope), and one for each row that
rotates, with handle 0 and its row (DESIGN CHOICE, assumption 42: the spec gives no layout). -/
def mntLedger (s : State) (_ : MCmd) : Ans :=
  let op := fun (o : Op) => toLe 4 o.handle ++ toLe 1 o.state ++ toLe 1 o.reason ++ [0, 0] ++ toLe 8 o.mask
  let row := fun (r : Nat) => toLe 4 0 ++ toLe 1 1 ++ [0] ++ toLe 2 r ++ toLe 8 (2 ^ rowPart r)
  { done s with
    buf := (s.reeve.ops.filter (fun o => !(opEnded o))).flatMap op
      ++ ((upto 0 rowCountAll).filter (fun r => (getRow s r).stop == .slice || (getRow s r).stop == .migrating)).flatMap row }

/-- MNT.REPAIR_LEDGER (R449). -/
def mntRepairLedger (s : State) (c : MCmd) : Ans :=
  { done s with buf := (s.start.ledger.drop (cPar c 0 4)).flatMap (fun e => slice e 0 32) }

/-! ## MNT.ASSAY (R352) -/

/-- The suspects of an assay: those named, and in targeted mode those of the lot's check, residue and tally records. -/
def assaySuspects (mode : Nat) (named : List Nat) (l : Lot) : List Nat :=
  let recd := (l.attach.filter (fun r => fld r 4 1 == 2 || fld r 4 1 == 3 || fld r 4 1 == 5)).map (fun r => fld r 0 4 % 2 ^ 28)
  (named ++ if mode == 0 then recd else []).eraseDups

/-- The bytes of a load entry's image in its share (R392). -/
def entryImage (s : State) (n : Nat) (e : List Byte) : List Byte := shareBytes s n (fld e 4 4) (fld e 8 1)

/-- The pattern-map entry that holds the pattern a tile ran in a lot. -/
def lotEntry (s : State) (n : Nat) (l : Lot) (t : Nat) : Option (List Byte) :=
  (getPart s n).patMap.find? (fun e => fld e 0 2 == t && fld (entryImage s n e) 0x28 8 == kvGet 0 l.patterns t)

/-- Does an image declare deadline items of other modules? -/
def imageKind3 (img : List Byte) : Bool :=
  (upto 0 (imgLen img 5 / 16)).any (fun i => fld (imgSec img 5) (16 * i) 1 == 3)

/-- Why an assay of a lot is refused (R352), 0 for not. -/
def assayBar (s : State) (n : Nat) (l : Lot) : Nat :=
  if l.voided then 2
  else if l.patterns.any (fun e => match lotEntry s n l e.1 with
    | some m => imageKind3 (entryImage s n m)
    | none => false) then 3
  else if l.patterns.any (fun e => (lotEntry s n l e.1).isNone) then 4
  else 0

/-- MNT.ASSAY. -/
def mntAssay (s : State) (c : MCmd) : Ans :=
  let b := c.req
  if b.length != 48 then deny s 0x12 0x10
  else if 1 < fld b 1 1 then deny s 0x12 1
  else if 16 < fld b 2 1 then deny s 0x12 2
  else if !(allZero (slice b 3 5)) then deny s 0x12 3
  else withPart s c (fld b 0 1) 0 (fun n =>
    let named := (upto 0 (fld b 2 1)).map (fun i => fld b (16 + 2 * i) 2)
    match named.zipIdx.find? (fun t => 4608 ≤ t.1 || logPart t.1 != n) with
    | some t => if !(cAdmin c) && t.1 < 4608 then deny s 0x11 0 else deny s 0x13 (16 + 2 * t.2)
    | none =>
      if partBusy s n then deny s 0x24 0
      else match endedFind s n (fld b 8 8) with
        | none => deny s 0x2E 1
        | some e =>
          if assayBar s n e.lot != 0 then deny s 0x2E (assayBar s n e.lot)
          else opSubmit s c 4 (2 ^ n) b (if fld b 1 1 == 1 then 3 else 2))

/-! ## OP (R436 to R438) -/

/-- The status of an operation (Table 15.9). -/
def opStatus (o : Op) : List Byte :=
  toLe 4 o.handle ++ toLe 1 o.state ++ toLe 1 o.reason ++ toLe 2 o.result ++ toLe 4 o.done ++ toLe 4 o.total
  ++ toLe 8 o.resume ++ toLe 8 o.detail ++ toLe 8 o.started ++ zeros 4

/-- The operation of a handle now. -/
def opGet (s : State) (h : Nat) : Op := (s.reeve.ops.find? (fun o => o.handle == h)).getD { handle := h, page := 0 }

/-- An answer that returns an operation's status. -/
def opAnswer (a : Ans) (h : Nat) : Ans := { a with res := opStatus (opGet a.st h) }

/-- An operation that the page may name (R436). -/
def opNamed (s : State) (c : MCmd) (f : Op → Ans) : Ans :=
  match s.reeve.ops.find? (fun o => o.handle == cPar c 0 4 && (cAdmin c || o.page == c.pg)) with
  | some o => opAnswer (f o) o.handle
  | none => deny s 0x2A 0

/-- Is a firmware update in its activation (R437)? -/
def opActivating (o : Op) : Bool := opKind o == 5 && o.total ≤ o.done + 1

/-- Change the state of an operation, with its event. -/
def opState (s : State) (o : Op) (st : Nat) : State := opEvent (modOp s o.handle (fun x => { x with state := st })) { o with state := st }

/-- OP.STATUS. -/
def opStatusCmd (s : State) (c : MCmd) : Ans := opNamed s c (fun _ => done s)

/-- OP.SUSPEND. -/
def opSuspend (s : State) (c : MCmd) : Ans :=
  opNamed s c (fun o =>
    if opEnded o || o.state == 2 || o.state == 3 then done s
    else if o.state == 4 || opActivating o then deny s 0x2B 0
    else if o.state == 0 then done (opState s o 3)
    else done (modOp s o.handle (fun x => { x with state := 2 })))

/-- OP.RESUME: the operation enters the ledger again (Table 14.8). -/
def opResume (s : State) (c : MCmd) : Ans :=
  opNamed s c (fun o =>
    if opEnded o then deny s 0x27 o.state
    else if o.state != 3 then deny s 0x2B 0
    else
      let s0 := modOp s o.handle (fun x => { x with state := 0 })
      let a := ledgerAdmit s0 (opActivity (opKind o)) o.mask
      let queued := (s.reeve.ops.filter (fun x => x.state == 0 && opKind x == opKind o)).length
      if a.1 == 2 then deny s 0x23 a.2
      else if a.1 == 1 && 16 ≤ queued then deny s 0x23 5
      else if a.1 == 1 then done (modOp s0 o.handle (fun x => { x with reason := a.2 }))
      else done (opBegin s0 o))

/-- OP.LIST. -/
def opList (s : State) (c : MCmd) : Ans :=
  { done s with buf := (s.reeve.ops.filter (fun o => !(opEnded o) && (cAdmin c || o.page == c.pg))).flatMap (fun o => toLe 4 o.handle) }

/-! ## The progress of long operations (Table 15.12) -/

/-- A load entry enters the pattern map (R392): one entry for each tile and bank, one install flag for each tile. -/
def mapPut (m : List (List Byte)) (e : List Byte) : List (List Byte) :=
  let e1 := slice e 0 16
  let inst := bitAt (fld e 3 1) 0
  (m.filter (fun x => !(fld x 0 2 == fld e 0 2 && fld x 2 1 == fld e 2 1))).map
    (fun x => if inst && fld x 0 2 == fld e 0 2 then patch x 3 [0] else x) ++ [e1]

/-- One tile of a bulk load (R57, R392); a failing one leaves its error, and the rest go on. A tile that takes no load by now
stays as it is. -/
def loadUnit (h n : Nat) (s : State) (e : List Byte) : State :=
  let l := fld e 0 2
  if !(bankLoadable (getTile s (physOf s l)) (fld e 2 1)) then
    modOp s h (fun o => if o.result == 0 then { o with result := 0x2B, detail := 65536 * l } else o)
  else
  let s1 := reloadEntry s n e
  let err := (getTile s1 (physOf s1 l)).loadErr
  if err == 0 then modPart s1 n (fun p => { p with patMap := mapPut p.patMap e })
  else modOp s1 h (fun o => if o.result == 0 then { o with result := 0x28, detail := 65536 * l + err } else o)

/-- A row that a stack test finds failing: repaired and its hard repair due at the next start, or unrepairable (R446). -/
def testRow (h : Nat) (s : State) (r : Nat × Nat × Bool) : State :=
  let (i, s1) := ledgerAdd s (if r.2.2 then 4 else 5) (if r.2.2 then 9 else 1) 2 r.1 r.2.1
  let s2 := modOp (sendEvent s1 { stackEvent s1 r.1 0x0132 0xFFFF 0xFF 0 with led := i }) h (fun o => { o with detail := o.detail + 1 })
  if r.2.2 then s2 else stackLost s2 r.1

/-- One bolt of a commanded scrub: `b` its key, the rows of its corrected symbols and lines found uncorrectable. -/
def scrubUnit (mask : Nat) (s : State) (b : Nat × List Nat × List Nat) : State :=
  match (upto 0 8).find? (fun k => bitAt mask (16 + k) && boltIn s k b.1) with
  | some k =>
    if !(kvGet {} s.bolts b.1).written then s
    else modStack (scrubBolt s k b.1 b.2.1 b.2.2) k (fun q => { q with scrubPos := (getStack s k).scrubPos })
  | none => s

/-- One tile store of a commanded scrub (R209). -/
def scrubTile (s : State) (p : Nat) : State :=
  let s1 := (((getTile s p).store.bad.map (fun w => w.1 / 8)).eraseDups).foldl (fun s l => scrubLine s p l) s
  modTile s1 p (fun t => storeMod t (fun q =>
    { q with scrubCor := q.scrubCor.filterMap (fun l => if 8192 ≤ l then some (l - 8192) else none) }))

/-- Perform `k` progress units of an operation; `found` are failing rows, `bolts` the scrub's findings. -/
def opRun (s : State) (o : Op) (k : Nat) (found : List (Nat × Nat × Bool)) (bolts : List (Nat × List Nat × List Nat)) : State :=
  let run := fun (s : State) => match opKind o with
    | 1 => (found.filter (fun r => r.1 < 8 && bitAt o.mask (16 + r.1))).foldl (testRow o.handle) s
    | 2 => ((upto o.done k).map (fun i => slice o.args (16 * i) 16)).foldl (loadUnit o.handle ((maskParts o.mask).headD 0)) s
    | 3 => if fld o.args 0 1 == 0 then bolts.foldl (scrubUnit o.mask) s
        else ((((maskParts (o.mask % 2 ^ 12)).flatMap statusTiles).drop o.done).take k).foldl scrubTile s
    | _ => s
  modOp (run s) o.handle (fun x => { x with done := o.done + k, resume := o.done + k })

/-- A tile whose load was under way at a cancel is left Staged (Table 15.12). -/
def loadCut (s : State) (o : Op) : State :=
  let e := slice o.args (16 * o.done) 16
  let p := physOf s (fld e 0 2)
  let t := getTile s p
  if o.done < o.total && (t.st == .idle || t.st == .joining) && !(t.installed && t.actBank == fld e 2 1) then
    modTile s p (fun t => { t with banks := kvSet .empty t.banks (fld e 2 1) .staged })
  else s

/-- The write and verify of a firmware image are done (R415): the slot holds it. -/
def fwStore (s : State) (o : Op) (ok : Bool) : State :=
  let f : FwSlot := { valid := ok, version := fld o.args 1 4, sec := fld o.args 5 1 }
  { s with start := if fld o.args 0 1 == 0 then { s.start with slotA := f } else { s.start with slotB := f } }

/-- Activation (R437): the standby pair boots the new slot, takes over, and the old pair reboots as standby. Rotation gives
way (R410). The fused counter advances by R415 when the image is of at least the running security version; the pattern set that comes
with it has not been verified (R384). -/
def fwActivate (s : State) (o : Op) : State :=
  let s1 := (upto 0 rowCountAll).foldl rowAbandon s
  let old := if s.start.runSlot == 2 then s.start.slotB.sec else s.start.slotA.sec
  let t := { s1.start with runSlot := fld o.args 0 1 + 1, patSetOk := false }
  modReeve { s1 with start := { t with secCounter := if old ≤ fld o.args 5 1 then secAdvance t else t.secCounter } }
    (fun r => { r with pair := 1 - r.pair, handovers := r.handovers + 1 })

/-- End an operation, with its event. -/
def opFinish (s : State) (h st result : Nat) : State :=
  let s1 := modOp s h (fun x => { x with state := st, result := if result == 0 then x.result else result })
  modReeve (opEvent s1 (opGet s1 h)) (fun r => { r with ops := opsTrim r.ops })

/-- A cancelled operation ends (Table 15.12). -/
def opCancelled (s : State) (o : Op) : State :=
  let s1 := match opKind o with
    | 4 => (maskParts o.mask).foldl assayEnd s
    | 6 => (upto 0 32).foldl (fun s p => if bitAt o.mask (32 + p) && (getPort s p).st == 4 then portComeUp s p 5 else s) s
    | _ => s
  opFinish s1 o.handle 6 0

/-- OP.CANCEL: one that stands at no work, queued or suspended, ends at once (Table 15.12). -/
def opCancelCmd (s : State) (c : MCmd) : Ans :=
  opNamed s c (fun o =>
    if opEnded o then deny s 0x27 o.state
    else if o.state == 4 then done s
    else if opActivating o then deny s 0x2B 0
    else if o.state == 0 && !o.begun then done (opFinish s o.handle 6 0)
    else if o.state == 0 || o.state == 3 then done (opCancelled s o)
    else done (modOp s o.handle (fun x => { x with state := 4 })))

/-- A running operation that is cancelled ends: what it was at is cut short. -/
def opCutShort (s : State) (o : Op) : State := opCancelled (if opKind o == 2 then loadCut s o else s) o

/-- Does a bulk load install a pattern on each role of a row whose tile is usable and on no other: is it compiled for the row's changed
layout (R394; DESIGN CHOICE, assumption 35)? -/
def layoutLoaded (s : State) (args : List Byte) (r : Nat) : Bool :=
  let es := (upto 0 (args.length / 16)).map (fun i => slice args (16 * i) 16)
  ((logTiles (rowPart r)).filter (fun l => logProw l == r)).all (fun l =>
    es.any (fun e => fld e 0 2 == l && bitAt (fld e 3 1) 0) == tileUsable s (physOf s l))

/-- What a bulk load leaves of a partition's cover (R394): the refusal of its lots ends when every row has cover again or, `good` saying
that the load has succeeded, its set was compiled for the layout; a row that the load leaves without cover is one of R394. -/
def loadCover (args : List Byte) (good : Bool) (s : State) (n : Nat) : State :=
  let rows := (partRows n).filter (rowNoCover s)
  if good && rows.all (layoutLoaded s args) then modPart s n (fun p => { p with noCover := false })
  else match rows with
    | r :: _ => if (getPart s n).noCover then s else noCoverRow s (holeTile s r)
    | [] => s

/-- An operation that runs comes to its end. A firmware update first comes to its activation. -/
def opComplete (s : State) (o : Op) (ok : Bool) (found : List (Nat × Nat × Bool)) (bolts : List (Nat × List Nat × List Nat)) : State :=
  let s1 := if opKind o == 5 then s else opRun s o (o.total - o.done) found bolts
  match opKind o with
  | 2 =>
    let good := (opGet s1 o.handle).result == 0
    opFinish ((maskParts o.mask).foldl (loadCover o.args good) s1) o.handle (if good then 5 else 7) 0
  | 5 =>
    if o.done + 1 < o.total then
      let s2 := fwStore s o ok
      if ok then modOp s2 o.handle (fun x => { x with done := x.total - 1 }) else opFinish s2 o.handle 7 0x2D
    else if s.reeve.standby then
      opFinish (modOp (fwActivate s o) o.handle (fun x => { x with done := x.total })) o.handle 5 0
    else opFinish s o.handle 7 0x2B
  | _ => opFinish s1 o.handle 5 0

/-- LONG_OPERATION_END (R437): the operation ends, or comes to the resume point at which it is suspended or cancelled,
`units` further on. A queued one starts when the ledger now lets it (R411); a vote puts a bulk load off (R79). `ok` tells whether a firmware image verifies. An assay runs by its own rows until it is cancelled. -/
def execLongOperationEnd (h units : Nat) (ok : Bool) (found : List (Nat × Nat × Bool)) (bolts : List (Nat × List Nat × List Nat))
    (s : State) : Res :=
  let o := opGet s h
  let last := if opKind o == 5 then o.total - 2 else o.total
  let put := opKind o == 2 && loadsDeferred s
  let k := if put then 0 else min units (last - o.done)
  if !(s.reeve.ops.any (fun o => o.handle == h)) then .next s
  else match o.state with
    | 0 => .next (withHealth s (opsStart s))
    | 1 =>
      if put || opKind o == 4 || (opKind o == 6 && (upto 0 32).any (fun p => bitAt o.mask (32 + p) && (getPort s p).st == 4)) then .next s
      else .next (withHealth s (opsStart (opComplete s o ok found bolts)))
    | 2 =>
      if opKind o == 4 then .next s
      else .next (withHealth s (opState (opRun s o k found bolts) { o with done := o.done + k } 3))
    | 4 =>
      let s1 := if opKind o == 4 || opKind o == 5 then s else opRun s o k found bolts
      .next (withHealth s (opsStart (opCutShort s1 (opGet s1 h))))
    | _ => .next s

/-! ## Rows -/

/-- An MNT command of admin pages that starts an operation. -/
def mntSpec (req : Bool) (pars : List (Nat × Nat)) : CSpec := { part := false, req := req, writes := true, pars := pars }

/-- MNT_STACK_TEST. -/
def execMntStackTest (pg : Nat) (req : Option (List Byte)) (respOk : Bool) (s : State) : Res :=
  mailRow 0x0701 (mntSpec false [(0, 2)]) mntStackTest pg req respOk s
/-- MNT_SCRUB_STACKS. -/
def execMntScrubStacks (pg : Nat) (req : Option (List Byte)) (respOk : Bool) (s : State) : Res :=
  mailRow (0x0702 + 1 * 65536) (mntSpec false [(0, 1), (2, 2)]) mntScrubStacks pg req respOk s
/-- MNT_SCRUB_TILES. -/
def execMntScrubTiles (pg : Nat) (req : Option (List Byte)) (respOk : Bool) (s : State) : Res :=
  mailRow (0x0702 + 2 * 65536) (mntSpec false [(0, 1), (2, 2)]) mntScrubTiles pg req respOk s
/-- MNT_ASSAY. -/
def execMntAssay (pg : Nat) (req : Option (List Byte)) (respOk : Bool) (s : State) : Res :=
  mailRow 0x0703 { req := true, writes := true } mntAssay pg req respOk s
/-- MNT_FW_UPDATE: `ver` and `sec` are what the image of the request buffer carries. -/
def execMntFwUpdate (pg : Nat) (req : Option (List Byte)) (respOk : Bool) (ver sec : Nat) (s : State) : Res :=
  mailRow 0x0704 (mntSpec true [(0, 1)]) (mntFwUpdate ver sec) pg req respOk s
/-- MNT_LINK_QUAL. -/
def execMntLinkQual (pg : Nat) (req : Option (List Byte)) (respOk : Bool) (s : State) : Res :=
  mailRow 0x0705 (mntSpec false [(0, 4)]) mntLinkQual pg req respOk s
/-- MNT_SPARE_MAP. -/
def execMntSpareMap (pg : Nat) (req : Option (List Byte)) (respOk : Bool) (s : State) : Res :=
  mailRow 0x0706 readSpec mntSpareMap pg req respOk s
/-- MNT_LEDGER. -/
def execMntLedger (pg : Nat) (req : Option (List Byte)) (respOk : Bool) (s : State) : Res :=
  mailRow 0x0707 { part := false, resp := true } mntLedger pg req respOk s
/-- MNT_REPAIR_LEDGER. -/
def execMntRepairLedger (pg : Nat) (req : Option (List Byte)) (respOk : Bool) (s : State) : Res :=
  mailRow 0x0708 { part := false, resp := true, pars := [(0, 4)] } mntRepairLedger pg req respOk s
/-- OP_STATUS. -/
def execOpStatus (pg : Nat) (req : Option (List Byte)) (respOk : Bool) (s : State) : Res :=
  mailRow 0x0801 { pars := [(0, 4)] } opStatusCmd pg req respOk s
/-- OP_SUSPEND. -/
def execOpSuspend (pg : Nat) (req : Option (List Byte)) (respOk : Bool) (s : State) : Res :=
  mailRow 0x0802 (workSpec [(0, 4)]) opSuspend pg req respOk s
/-- OP_RESUME. -/
def execOpResume (pg : Nat) (req : Option (List Byte)) (respOk : Bool) (s : State) : Res :=
  mailRow 0x0803 (workSpec [(0, 4)]) opResume pg req respOk s
/-- OP_CANCEL. -/
def execOpCancel (pg : Nat) (req : Option (List Byte)) (respOk : Bool) (s : State) : Res :=
  mailRow 0x0804 (workSpec [(0, 4)]) opCancelCmd pg req respOk s
/-- OP_LIST. -/
def execOpList (pg : Nat) (req : Option (List Byte)) (respOk : Bool) (s : State) : Res :=
  mailRow 0x0805 { resp := true } opList pg req respOk s

end Sys2Proof.Machine
end

