-- ==== Sys2Proof/Machine/Assay.lean ====
section
/-! DEFINITION. The assay's replays (spec/12, R354 to R358). Points of the assays: DEDUCED, assumption 29; DESIGN CHOICE,
assumption 35. -/

namespace Sys2Proof.Machine

/-! ## The setup interval (R354, R355) -/

/-- Move the spares of a partition's rows, each to its own position. -/
def sparesTo (s : State) (n : Nat) (target : Nat → Nat) : State :=
  (partRows n).foldl (fun s r => spareTo r (target r) 24 s) s

/-- The spare position of a partition-row at a lot's first bell. -/
def rowSpareThen (l : Lot) (r : Nat) : Nat := (l.spares.drop (16 * rowPart r + r / 4 % 16)).headD 24

/-- The suspect that replay B displaces in a partition-row: the first of the row. -/
def rowSuspect (a : Assay) (r : Nat) : Option Nat := a.suspects.find? (fun t => logProw t == r)

/-- Where the spare of a row stands in the replay that comes next (R355). -/
def replaySpare (l : Lot) (a : Assay) (r : Nat) : Nat :=
  if a.replay == 1 then rowSpareThen l r
  else if a.mode == 1 then (if a.replay == 2 then 0 else 24)
  else match rowSuspect a r with
    | some t => roleTile t (spareThen l t) % 100 % 25
    | none => rowSpareThen l r

/-- Load a role's patterns for a replay: the banks of its pattern map, the one the lot ran last. -/
def setupTile (s : State) (n : Nat) (l : Lot) (t : Nat) : State :=
  let p := physOf s t
  match lotEntry s n l t with
  | none => s
  | some e =>
    let others := (getPart s n).patMap.filter (fun x => fld x 0 2 == t && fld x 2 1 != fld e 2 1)
    let s1 := modTile s p (fun t => { t with st := .idle, stop := none, installed := false })
    (others.map (fun x => patch x 3 [0]) ++ [patch e 3 [1]]).foldl (fun s e => reloadEntry s n e) s1

/-- The reload list of the lot itself (R285). -/
def lotReload (s : State) (n : Nat) (l : Lot) : State :=
  (lotList s n l).1.foldl (fun s e => reloadWeight s n e) (lotList s n l).2

/-- The setup of the next replay: spares, patterns, weights, and the bell counts that begin at the lot's first bell. -/
def assaySetup (s : State) (n : Nat) (a : Assay) : State :=
  let l := assayLot s n a
  let s1 := sparesTo s n (replaySpare l a)
  let s2 := lotReload ((l.patterns.map (fun e => e.1)).foldl (fun s t => setupTile s n l t) s1) n l
  let moved := if a.replay == 2 && a.mode == 0 then (partRows n).filterMap (fun r =>
      (rowSuspect a r).filter (fun t => (getRow s1 r).spare == roleTile t (spareThen l t) % 100 % 25)) else a.displaced
  modPart s2 n (fun p => { p with assay := some { a with
    live := true, cut := false, back := s.clk.bell + 1 - l.start - p.skipped, displaced := moved } })

/-- Does a slice still run on a spare that the setup has to move? A pause stops no slice that runs (R367), so the setup waits for its end
(DESIGN CHOICE, assumption 35). -/
def setupBlocked (s : State) (n : Nat) (a : Assay) : Bool :=
  (partRows n).any (fun r => (getRow s r).stop == .slice && (getRow s r).spare != replaySpare (assayLot s n a) a r)

/-! ## Rows -/

/-- The running assay operation of a partition. -/
def assayOp (s : State) (n : Nat) : Option Op := s.reeve.ops.find? (fun o => opKind o == 4 && !(opEnded o) && bitAt o.mask n)

/-- ASSAY_START (R354): the partition has no active lot and no slice runs on a spare that is to move; the first replay is set up, or,
after a suspension, the next one. -/
def execAssayStart (n : Nat) (s : State) : Res :=
  if ¬ n < 12 then .refused .noSuchUnit
  else match assayOp s n with
    | none => .next s
    | some o =>
      if o.state != 1 || loadsDeferred s || partDown s n || (getPart s n).lots.any (fun l => l.state != 0) then .next s
      else match (getPart s n).assay with
        | some a => if a.live || setupBlocked s n a then .next s else .next (withHealth s (assaySetup s n a))
        | none => match endedFind s n (fld o.args 8 8) with
          | none => .next (withHealth s (opFinish s o.handle 7 0x2E))
          | some e =>
            let mode := fld o.args 1 1
            let named := (upto 0 (fld o.args 2 1)).map (fun i => fld o.args (16 + 2 * i) 2)
            let a : Assay := { lot := fld o.args 8 8, mode := mode, suspects := assaySuspects mode named e.lot, handle := o.handle }
            let s1 := modPart s n (fun p => { p with assay := some a })
            .next (withHealth s (if setupBlocked s n a then s1 else assaySetup s1 n a))

/-- ASSAY_REPLAY_END (R355): a replay has run the lot's intervals, or met an overrun. The next one is set up, unless the
assay is suspended or this was the last: then its tiles are classified. While loads are deferred (R79), or a slice runs on a spare that
is to move, the setup is left to the next ASSAY_START. -/
def execAssayReplayEnd (n : Nat) (s : State) : Res :=
  if ¬ n < 12 then .refused .noSuchUnit
  else match liveAssay s n with
    | none => .next s
    | some a =>
      let l := assayLot s n a
      if !a.cut && ctxBell s n < l.start + l.intervals then .next s
      else
        let got : Kv (Nat × List (List Byte)) := if a.cut then [] else
          (logTiles n).map (fun t => (t, roleResult s (physOf s t)))
        let a1 := { a with live := false, cut := false, replay := a.replay + 1, results := a.results ++ [got] }
        let s1 := modPart s n (fun p => { p with assay := some a1 })
        let s2 := modOp s1 a.handle (fun o => { o with done := a.replay, resume := a.replay })
        let o := opGet s2 a.handle
        if o.total ≤ a.replay then
          let count := ((logTiles n).filter (fun t => assayOutcome l a1 t != 6)).length
          let s3 := assayEnd (modOp s2 a.handle (fun o => { o with detail := count })) n
          .next (withHealth s (opsStart (opFinish s3 a.handle 5 0)))
        else if o.state == 2 then .next (withHealth s (opState s2 o 3))
        else if o.state == 4 then .next (withHealth s (opsStart (opFinish (assayEnd s2 n) a.handle 6 0)))
        else .next (withHealth s (if loadsDeferred s2 || setupBlocked s2 n a1 then s2 else assaySetup s2 n a1))

end Sys2Proof.Machine
end

