-- ==== Sys2Proof/Machine/MailDbg.lean ====
section
/-! DEFINITION. The DBG commands and the trace triggers' actions (spec/18, R481 to R492; spec/09, R268; spec/10, R293).
Points of debug: DESIGN CHOICE, assumption 36. -/

namespace Sys2Proof.Machine

/-! ## Registers (R481, R482) -/

/-- Mark the active lots of a partition determinism-voided (R75). -/
def voidLots (s : State) (n : Nat) : State :=
  modPart s n (fun p => { p with lots := p.lots.map (fun l => if l.active then { l with voided := true } else l) })

/-- May the debugger read the store of a tile, or write it (R482)? -/
def dbgStopped (t : Tile) : Bool := t.st == .halted || t.st == .idle || t.st == .pinfold

/-- A command over one logical tile. -/
def dbgTile (s : State) (c : MCmd) (f : Nat → Ans) : Ans := withTile s c (cPar c 0 2) 0x20 f

/-- Would a take of a register wait (R481)? -/
def takeWaits (s : State) (p c : Nat) : Bool :=
  let t := getTile s p
  (0x840 ≤ c && c ≤ 0x847 && (chan t (c - 0x840)).isEmpty) || (0x860 ≤ c && c ≤ 0x86F && (chan t t.clerk.qsel).isEmpty)

/-- Take registers in order: their values and what their reads leave; none when one would wait. -/
def takeRegs (p : Nat) : List Nat → State → Option (List Byte × State)
  | [], s => some ([], s)
  | c :: cs, s =>
    if takeWaits s p c then none
    else match takeRegs p cs (csrTake s p c) with
      | none => none
      | some r => some (toLe 4 ((csrPeek s p c).getD 0) ++ r.1, r.2)

/-- DBG.REG_READ. -/
def dbgRegRead (s : State) (c : MCmd) : Ans :=
  dbgTile s c (fun p =>
    let n := cPar c 3 1
    let cs := (upto 0 n).map (fun i => fld c.req (2 * i) 2)
    if 1 < cPar c 2 1 then deny s 0x12 0x22
    else if n == 0 || 64 < n then deny s 0x12 0x23
    else if c.req.length != 2 * n then deny s 0x12 0x10
    else match cs.zipIdx.find? (fun q => (csrPeek s p q.1).isNone) with
      | some q => deny s 0x12 (2 * q.2)
      | none =>
        if cPar c 2 1 == 0 then { done s with buf := cs.flatMap (fun k => toLe 4 ((csrPeek s p k).getD 0)) }
        else match takeRegs p cs s with
          | none => deny s 0x2B 0
          | some r => { done (voidLots r.2 (physPart p)) with buf := r.1 })

/-- One debug write of a machine register; `none` where a send would wait. The write of the failure port raises it (R402) and the
fill port fills at the clerk's pc (R219). -/
def dbgPut (s : State) (p k v : Nat) : Option State :=
  if k == 0x859 then some (imFillPut s p v (getTile s p).clerk.pc.toNat)
  else if k == 0x85C then some (clerkFault s p (toLe 2 (bits v 15 0)))
  else if k == 0x851 then qsendPut s p v
  else some (csrPut s p k v)

/-- DBG.REG_WRITE. A send that would wait for a credit is answered as a take that waits (DESIGN CHOICE, assumption 36). -/
def dbgRegWrite (s : State) (c : MCmd) : Ans :=
  dbgTile s c (fun p =>
    let k := cPar c 2 2
    let v := cPar c 4 4
    if (csrPeek s p k).isNone || csrReadOnly k then deny s 0x12 0x22
    else if !(dbgStopped (getTile s p)) then deny s 0x2B 0
    else match dbgPut s p k v with
      | some s2 => done (voidLots s2 (physPart p))
      | none => deny s 0x2B 0)

/-! ## Stores, images, channels (R268, R482) -/

/-- Does a range of store lines lie in the store? -/
def linesOk (a n : Nat) : Bool := a % 64 == 0 && 1 ≤ n && n ≤ 8192 && a + 64 * n ≤ Config.storeBytes

/-- Read the lines that hold a range of a store as the copier does, each when its cell comes (R198, R207); answers the range. -/
def copierRead (c : Ctx) (cc a n : Nat) : List Byte × Ctx :=
  let first := a / 64
  let r := (upto 0 ((a + n + 63) / 64 - first)).foldl (fun (r : List Byte × Ctx) i =>
    let x := lineRead r.2 0 cc (64 * (first + i))
    (r.1 ++ x.1, x.2)) ([], c)
  (slice r.1 (a % 64) n, r.2)

/-- DBG.STORE_READ: lines through the copier. -/
def dbgStoreRead (s : State) (c : MCmd) : Ans :=
  dbgTile s c (fun p =>
    let a := cPar c 4 4
    let n := cPar c 8 4
    if a % 64 != 0 then deny s 0x12 0x24
    else if n == 0 || 8192 < n then deny s 0x12 0x28
    else if !(linesOk a n) then deny s 0x13 0x24
    else if !(dbgStopped (getTile s p)) then deny s 0x2B 0
    else
      let r := copierRead (ctxOf s p) (ctxCc s (physPart p)) a (64 * n)
      { done (applyCtx s r.2) with buf := r.1 })

/-- DBG.STORE_WRITE: the bolts it touches have Stale tallies. -/
def dbgStoreWrite (s : State) (c : MCmd) : Ans :=
  dbgTile s c (fun p =>
    let a := cPar c 4 4
    let n := c.req.length / 64
    if a % 64 != 0 then deny s 0x12 0x24
    else if c.req.length % 64 != 0 || n == 0 then deny s 0x12 0x10
    else if !(linesOk a n) then deny s 0x13 0x24
    else if !(dbgStopped (getTile s p)) then deny s 0x2B 0
    else done (voidLots (modTile s p (fun t => debugStorePut t a c.req)) (physPart p)))

/-- DBG.IMAGE_READ. -/
def dbgImageRead (s : State) (c : MCmd) : Ans :=
  dbgTile s c (fun p => if !(dbgStopped (getTile s p)) then deny s 0x2B 0 else { done s with buf := imageOf s p false })

/-- An open barrier context as the view gives it: its key, the inputs that have arrived, its bell count and its mask line. -/
def viewBarrier (b : BarCtx) : List Byte :=
  [1] ++ toLe 1 (b.arrived.foldl (fun m i => setBit m i) 0) ++ toLe 2 b.key ++ toLe 4 b.bell ++ slice b.mask 0 64

/-- The view of R268: channels, virtual-channel buffers with the lines they hold (the header's own among them, R266), barrier
and flag contexts (DESIGN CHOICE, assumption 43: the spec gives no layout). -/
def chanView (t : Tile) : List Byte :=
  (upto 0 8).flatMap (fun n =>
    toLe 1 (chan t n).length ++ toLe 1 (kvGet 0 t.chHead n) ++ [0, 0]
    ++ (chan t n).flatMap (fun e => slice e.bytes 0 64 ++ toLe 4 (b2n e.credited)))
  ++ (upto 0 15).flatMap (fun i =>
    match (rtBuf t.router (i / 3) (i % 3)).pkt with
    | some k => hdrAll k ++ toLe 4 (pktLines k + 1)
    | none => zeros 20)
  ++ (upto 0 8).flatMap (fun k =>
    match kvGet none t.router.bar k with
    | some b => viewBarrier b
    | none => zeros 72)
  ++ toLe 4 t.router.flags ++ t.router.flagKeys.flatMap (fun e => toLe 4 e.1 ++ toLe 4 e.2)

/-- DBG.CHAN_READ. -/
def dbgChanRead (s : State) (c : MCmd) : Ans := dbgTile s c (fun p => { done s with buf := chanView (getTile s p) })

/-! ## Resuming, loose mode, clerks (R485 to R488) -/

/-- DBG.RESUME. -/
def dbgResume (s : State) (c : MCmd) : Ans :=
  withPart s c (cPar c 0 1) 0x20 (fun n =>
    if !(getPart s n).halted then deny s 0x2B 0
    else if cBell c 8 < s.clk.bell + 2 then deny s 0x21 ((s.clk.bell + 2) % 2 ^ 32)
    else done (modPart s n (fun p => { p with resumeAt := some (cBell c 8) })))

/-- Does a loaded or active pattern of a tile declare items of other modules? -/
def bankKind3 (t : Tile) : Bool :=
  (upto 0 4).any (fun k => (kvGet .empty t.banks k == .ready || kvGet .empty t.banks k == .active)
    && (upto 0 (secLen t.store.mem k 5 / 16)).any (fun i => leNat (secRead t.store.mem k 5 (16 * i) 1) == 3))

/-- Turn loose mode on or off for a context. -/
def looseSet (s : State) (n : Nat) (on : Bool) : State :=
  (ctxTiles s n).foldl (fun s p => modTile s p (fun t => { t with dbg := { t.dbg with loose := on } }))
    (modPart s n (fun p => { p with loose := on }))

/-- DBG.LOOSE on. -/
def dbgLooseOn (s : State) (c : MCmd) : Ans :=
  withPart s c (cPar c 0 1) 0x20 (fun n =>
    if (ctxTiles s n).any (fun p => bankKind3 (getTile s p)) then deny s 0x2B 0 else done (looseSet s n true))

/-- DBG.LOOSE off. -/
def dbgLooseOff (s : State) (c : MCmd) : Ans :=
  withPart s c (cPar c 0 1) 0x20 (fun n =>
    if (ctxTiles s n).any (fun p => (getTile s p).dbg.halted) then deny s 0x2B 0 else done (looseSet s n false))

/-- The pc of a clerk. -/
def clerkPc (s : State) (p : Nat) : List Byte := toLe 4 (getTile s p).clerk.pc.toNat

/-- DBG.CLK_HALT. -/
def dbgClkHalt (s : State) (c : MCmd) : Ans :=
  dbgTile s c (fun p =>
    if !(getTile s p).dbg.loose then deny s 0x2B 0
    else
      let s1 := if (getTile s p).dbg.halted then s else clerkHalt s p 1
      { done s1 with res := clerkPc s1 p })

/-- One instruction of a halted clerk (R488): no interrupt is taken, and an exception enters its handler. -/
def clerkStep (s : State) (p : Nat) : State :=
  let s1 := modTile s p (fun t => { t with dbg := { t.dbg with halted := false } })
  let s2 := if !(clerkLive (getTile s1 p)) then s1
    else match fetch (getTile s1 p).clerk with
      | .inl a => fetchFault s1 p a
      | .inr i => insRun s1 p i
  clerkHalt s2 p 3

/-- DBG.CLK_STEP. -/
def dbgClkStep (s : State) (c : MCmd) : Ans :=
  dbgTile s c (fun p =>
    if cPar c 2 2 == 0 then deny s 0x12 0x22
    else if !(getTile s p).dbg.loose || !(getTile s p).dbg.halted then deny s 0x2B 0
    else
      let s1 := (upto 0 (cPar c 2 2)).foldl (fun s _ => clerkStep s p) s
      { done s1 with res := clerkPc s1 p ++ toLe 1 (getTile s1 p).dbg.cause })

/-- DBG.CLK_RESUME. -/
def dbgClkResume (s : State) (c : MCmd) : Ans :=
  dbgTile s c (fun p =>
    if !(getTile s p).dbg.loose then deny s 0x2B 0
    else done (modTile s p (fun t => { t with dbg := { t.dbg with halted := false } })))

/-- DBG.CLK_SET. -/
def dbgClkSet (s : State) (c : MCmd) : Ans :=
  dbgTile s c (fun p =>
    if 1 < cPar c 12 1 then deny s 0x12 0x2C
    else done (modTile s p (fun t => { t with dbg := { t.dbg with
      bp0 := BitVec.ofNat 32 (cPar c 4 4), bp1 := BitVec.ofNat 32 (cPar c 8 4), ebreakHalt := bitAt (cPar c 12 1) 0 } })))

/-! ## Trace (R489 to R492) -/

/-- What is wrong with a trigger entry: its byte. -/
def trigBad (e : List Byte) : Option Nat :=
  if 6 < trigCond e then some 0
  else if trigCond e != 0 && (trigAction e == 0 || 5 < trigAction e) then some 1
  else if trigCond e == 6 && 7 < trigValue e then some 4
  else if trigCond e != 4 && trigCond e != 6 && trigCount e != 0 then some 8
  else none

/-- Is a logical tile one of a partition (R11)? -/
def tileOf (n l : Nat) : Bool := l < 4608 && logPart l == n

/-- Is tap i none, or one of the partition: of a router port the tile in [12:0] and the port code in [15:13] (DESIGN CHOICE,
assumption 36)? -/
def tapOk (n i tap : Nat) : Bool :=
  tap == 0xFFFF || (if 16 ≤ i && i < 20 then tap / 8192 < 5 && tileOf n (tap % 8192) else tileOf n tap)

/-- The bytes of a DBG.TRACE_SET buffer that name no tile of the partition: those of triggers that watch one, and of taps; and
of other triggers that name a tile the part does not have (R11). -/
def traceNames (n : Nat) (b : List Byte) : List Nat :=
  (upto 0 8).filterMap (fun i =>
    let e := slice b (16 * i) 16
    if (1 ≤ trigCond e && trigCond e ≤ 3 && !(tileOf n (trigTile e))) || (trigCond e != 0 && 4608 ≤ trigTile e) then some (16 * i + 2)
    else none)
  ++ (upto 0 21).filterMap (fun i => if tapOk n i (fld b (128 + 2 * i) 2) then none else some (128 + 2 * i))

/-- DBG.TRACE_SET. -/
def dbgTraceSet (s : State) (c : MCmd) : Ans :=
  withPart s c (cPar c 0 1) 0x20 (fun n =>
    let b := c.req
    let trigs := (upto 0 8).map (fun i => slice b (16 * i) 16)
    let taps := fun (off k : Nat) => (upto 0 k).map (fun i => fld b (off + 2 * i) 2)
    if 1 < cPar c 1 1 then deny s 0x12 0x21
    else if b.length != 170 then deny s 0x12 0x10
    else match (trigs.zipIdx.findSome? (fun q => (trigBad q.1).map (fun i => 16 * q.2 + i))), (traceNames n b).head? with
      | some i, _ => deny s 0x12 i
      | none, some i => if cAdmin c then deny s 0x13 i else deny s 0x11 0
      | none, none => done (modTrace s n (fun t => { t with
          stopMode := cPar c 1 1 == 1, trigs := trigs, hits := [], counts := []
          tapTiles := (taps 128 16).filter (fun x => x != 0xFFFF), tapPorts := (taps 160 4).filter (fun x => x != 0xFFFF)
          tapClerk := (taps 168 1).headD 0xFFFF })))

/-- DBG.TRACE_READ. -/
def dbgTraceRead (s : State) (c : MCmd) : Ans :=
  withPart s c (cPar c 0 1) 0x20 (fun n =>
    let t := (getPart s n).trace
    { done s with
      res := toLe 4 t.recs.length ++ toLe 4 t.lost ++ toLe 4 t.refused
      buf := ((t.recs.drop (cPar c 4 4)).take (cPar c 8 4)).flatMap (fun r => slice r 0 32) })

/-- DBG.MILL_NAN. -/
def dbgMillNan (s : State) (c : MCmd) : Ans :=
  if 8 ≤ cPar c 0 1 then deny s 0x13 0x20
  else withPart s c (cPar c 1 1) 0x21 (fun n => { done s with res := slice (kvGet [] (getStack s (cPar c 0 1)).nan n) 0 32 })

/-- The halt action of a trigger (R491): staged for the current bell + 2, or refused and counted. -/
def trigHalt (s : State) (n : Nat) : State :=
  if (stageClash s 2 (2 ^ n)).isSome || partBusy s n || (lotAt s n (s.clk.bell + 2) && ctxKind3 s n) then
    modTrace s n (fun t => { t with refused := (t.refused + 1) % 2 ^ 32 })
  else (newChange s 2 (2 ^ n) (s.clk.bell + 2) 16 []).2

/-- The action of trigger k of a partition. -/
def trigAct (n : Nat) (s : State) (k : Nat) : State :=
  match trigAction (((getPart s n).trace.trigs.drop k).headD []) with
  | 1 => modTrace s n (fun t => { t with capture := true })
  | 2 => modTrace s n (fun t => { t with capture := false })
  | 4 => trigHalt s n
  | 5 => emitTo s 0 7 (toLe 1 k ++ toLe 1 n)
  | _ => s

/-- TRACE_TRIGGER_MATCH (R491): the triggers that match in the sample that stands: one record, then their actions in rising
order. -/
def execTraceTriggerMatch (n : Nat) (s : State) : Res :=
  if ¬ n < 12 then .refused .noSuchUnit
  else
    let t := (getPart s n).trace
    let ks := (upto 0 8).filter (fun k => t.hits.contains k)
    match ks with
    | [] => .next s
    | k :: _ =>
      let mask := maskOf 8 (fun i => t.hits.contains i)
      let r := traceRec 4 t.lostFlag (trigTile ((t.trigs.drop k).headD [])) (ctxCc s n) s.clk.bell (toLe 1 mask)
      let s1 := modTrace s n (fun t => { traceStore t r with hits := [] })
      .next (ks.foldl (trigAct n) s1)

/-! ## Rows -/

/-- DBG_REG_READ. -/
def execDbgRegRead (pg : Nat) (req : Option (List Byte)) (respOk : Bool) (s : State) : Res :=
  mailRow 0x0C01 { req := true, resp := true, pars := [(0, 4)] } dbgRegRead pg req respOk s
/-- DBG_REG_WRITE. -/
def execDbgRegWrite (pg : Nat) (req : Option (List Byte)) (respOk : Bool) (s : State) : Res :=
  mailRow 0x0C02 (workSpec [(0, 8)]) dbgRegWrite pg req respOk s
/-- DBG_STORE_READ. -/
def execDbgStoreRead (pg : Nat) (req : Option (List Byte)) (respOk : Bool) (s : State) : Res :=
  mailRow 0x0C03 { resp := true, pars := [(0, 2), (4, 8)] } dbgStoreRead pg req respOk s
/-- DBG_STORE_WRITE. -/
def execDbgStoreWrite (pg : Nat) (req : Option (List Byte)) (respOk : Bool) (s : State) : Res :=
  mailRow 0x0C04 { req := true, writes := true, pars := [(0, 2), (4, 4)] } dbgStoreWrite pg req respOk s
/-- DBG_IMAGE_READ. -/
def execDbgImageRead (pg : Nat) (req : Option (List Byte)) (respOk : Bool) (s : State) : Res :=
  mailRow 0x0C05 { resp := true, pars := [(0, 2)] } dbgImageRead pg req respOk s
/-- DBG_CHAN_READ. -/
def execDbgChanRead (pg : Nat) (req : Option (List Byte)) (respOk : Bool) (s : State) : Res :=
  mailRow 0x0C06 { resp := true, pars := [(0, 2)] } dbgChanRead pg req respOk s
/-- DBG_RESUME. -/
def execDbgResume (pg : Nat) (req : Option (List Byte)) (respOk : Bool) (s : State) : Res :=
  mailRow 0x0C07 (workSpec [(0, 1), (8, 6)]) dbgResume pg req respOk s
/-- DBG_LOOSE_ON. -/
def execDbgLooseOn (pg : Nat) (req : Option (List Byte)) (respOk : Bool) (s : State) : Res :=
  mailRow (0x0C08 + 2 * 65536) (workSpec [(0, 2)]) dbgLooseOn pg req respOk s
/-- DBG_LOOSE_OFF. -/
def execDbgLooseOff (pg : Nat) (req : Option (List Byte)) (respOk : Bool) (s : State) : Res :=
  mailRow (0x0C08 + 1 * 65536) (workSpec [(0, 2)]) dbgLooseOff pg req respOk s
/-- DBG_CLK_HALT. -/
def execDbgClkHalt (pg : Nat) (req : Option (List Byte)) (respOk : Bool) (s : State) : Res :=
  mailRow 0x0C09 (workSpec [(0, 2)]) dbgClkHalt pg req respOk s
/-- DBG_CLK_STEP. -/
def execDbgClkStep (pg : Nat) (req : Option (List Byte)) (respOk : Bool) (s : State) : Res :=
  mailRow 0x0C0A (workSpec [(0, 4)]) dbgClkStep pg req respOk s
/-- DBG_CLK_RESUME. -/
def execDbgClkResume (pg : Nat) (req : Option (List Byte)) (respOk : Bool) (s : State) : Res :=
  mailRow 0x0C0B (workSpec [(0, 2)]) dbgClkResume pg req respOk s
/-- DBG_CLK_SET. -/
def execDbgClkSet (pg : Nat) (req : Option (List Byte)) (respOk : Bool) (s : State) : Res :=
  mailRow 0x0C0C (workSpec [(0, 2), (4, 9)]) dbgClkSet pg req respOk s
/-- DBG_TRACE_SET. -/
def execDbgTraceSet (pg : Nat) (req : Option (List Byte)) (respOk : Bool) (s : State) : Res :=
  mailRow 0x0C10 { req := true, writes := true, pars := [(0, 2)] } dbgTraceSet pg req respOk s
/-- DBG_TRACE_READ. -/
def execDbgTraceRead (pg : Nat) (req : Option (List Byte)) (respOk : Bool) (s : State) : Res :=
  mailRow 0x0C11 { resp := true, pars := [(0, 1), (4, 8)] } dbgTraceRead pg req respOk s
/-- DBG_MILL_NAN. -/
def execDbgMillNan (pg : Nat) (req : Option (List Byte)) (respOk : Bool) (s : State) : Res :=
  mailRow 0x0C12 { pars := [(0, 2)] } dbgMillNan pg req respOk s

end Sys2Proof.Machine
end

