-- ==== Sys2Proof/Machine/Flags.lean ====
section
/-! DEFINITION. Every status and register word that BAR0 shows (spec/20, R514 to R520, R529, Tables 20.2 to 20.6 and 20.12 to
20.14; spec/10, Tables 10.6 to 10.8; spec/11, Tables 11.13 to 11.16; spec/12, Table 12.13; spec/15, Tables 15.1 and 15.4;
spec/16, Tables 16.8 and 16.9; spec/13, Table 13.6). -/

namespace Sys2Proof.Machine

/-! ## Host registers (Table 20.3) -/

/-- HST_START_CTL (Table 16.8). -/
def startCtlWord (s : State) : Nat := 2 ^ 31 * b2n s.start.quick + 65536 * s.start.lastType + min 65535 s.start.hours

/-- HST_START_STATUS (Table 16.9). -/
def startStatusWord (s : State) : Nat :=
  2 ^ 24 * s.start.phase + 65536 * (if s.start.ready then conditionOf s else 3) + min 65535 s.start.elapsedS

/-- HST_HW_CTL (Table 13.6). -/
def hwCtlWord (h : Hst) : Nat := 2 ^ 31 * b2n h.hwEn + 65536 * h.dwell + h.pause

/-- HST_MB_CTL (Table 15.4). -/
def mbCtlWord (h : Hst) : Nat := 2 ^ 31 * b2n h.pasidEn + h.ringReset

/-- HST_BUS_ERR (Table 20.6). -/
def busErrWord (h : Hst) : Nat := 2 ^ 24 * h.errClosed + 65536 * h.errLost + 256 * h.errUnmapped + h.errMalformed

/-- A dword of the host registers. -/
def hostWord (s : State) (o : Nat) : Nat :=
  match o with
  | 0x000 => 0xA3840101
  | 0x004 => s.hst.scratch.toNat
  | 0x008 => startCtlWord s
  | 0x00C => startStatusWord s
  | 0x010 => mbCtlWord s.hst
  | 0x014 => hwCtlWord s.hst
  | 0x018 => s.hst.winOpen
  | 0x01C => busErrWord s.hst
  | 0x020 => busErrWord s.hst
  | _ => 0

/-! ## MSI-X (PCI Express; PRESUMED, assumption 7) -/

/-- A dword of the MSI-X table: address low and high, data, vector control. -/
def msixWord (h : Hst) (o : Nat) : Nat :=
  let v := kvGet {} h.msix (o / 16)
  match o % 16 / 4 with
  | 0 => v.addr % 2 ^ 32
  | 1 => v.addr / 2 ^ 32
  | 2 => v.data
  | _ => b2n v.masked

/-- A dword of the pending bit array. -/
def pbaWord (h : Hst) (o : Nat) : Nat := h.pba / 2 ^ (8 * o) % 2 ^ 32

/-! ## Mailbox pages (Table 15.1) -/

/-- STATUS of a mailbox page. -/
def pageStatus (s : State) (n : Nat) : Nat :=
  let q := getPage s n
  b2n (reeveServes s) + 2 * b2n (n < 12 && (getPart s n).mbDisabled)
  + 4 * b2n (n < 12 && partResets s n) + 8 * b2n q.bad + 256 * q.resets

/-- A dword of the page of mailbox n. -/
def pageWord (s : State) (n o : Nat) : Nat :=
  let q := getPage s n
  if 0x900 ≤ o then fld (kvGet [] q.ev ((o - 0x900) / 64)) (o % 64) 4
  else if 0x500 ≤ o then fld (kvGet [] q.rsp ((o - 0x500) / 64)) (o % 64) 4
  else if 0x100 ≤ o then leNat (memRead q.cmd (o - 0x100) 4)
  else match o with
    | 0x000 => 0x10000 + 256 * n + (if n < 12 then 1 else 2)
    | 0x004 => pageStatus s n
    | 0x008 => q.doorbell
    | 0x00C => q.cmdCi
    | 0x010 => q.rspPi
    | 0x014 => q.rspCi
    | 0x018 => q.evPi
    | 0x01C => q.evCi
    | 0x020 => q.evLost
    | 0x024 => q.irqCtl
    | 0x028 => q.cqPi
    | 0x02C => q.cqCi
    | _ => 0

/-! ## Mill blocks (Tables 10.6 to 10.8, 12.13) -/

/-- ML_STATUS (Table 10.7). -/
def millStatus (q : Stack) : Nat :=
  2 ^ 31 * b2n (q.ucieUp != 0xFF) + 2 ^ 24 * (q.ucieUp / 2) + 2 ^ 23 * (q.ucieUp % 2) + 2048 * q.imbal
  + min 1024 (stackTags q)

/-- A dword of the block of mill k; zero while its domain is off or in retention (R518). -/
def millWord (s : State) (k o : Nat) : Nat :=
  let q := getStack s k
  if !(domOn s (60 + k)) then 0
  else if 0x020 ≤ o && o ≤ 0x02C then kvGet 0 q.grp ((o - 0x020) / 4)
  else match o with
    | 0x000 => q.split
    | 0x004 => q.merge
    | 0x008 => millStatus q
    | 0x00C => q.scrubH
    | 0x010 => pair16 q.eccUnc q.eccCor
    | 0x014 => pair16 q.nonfin q.idx
    | 0x018 => pair16 q.mxSpecial q.mxUflow
    | 0x01C => q.mergeCnt
    | 0x030 => 65536 * q.tlyWrite + 256 * q.tlyRead + q.tlyScrub
    | 0x034 => q.resMism
    | _ => 0

/-! ## Port blocks (Tables 11.13 to 11.15, 12.13) -/

/-- LK_CTL (Table 11.13). -/
def lkCtlWord (q : Port) : Nat := 2 ^ 31 * b2n q.en + 2 ^ 30 * b2n q.follow
/-- LK_PEER and LK_PEER_EXP: a flag, a port, a module. -/
def peerWord (f : Bool) (port mod : Nat) : Nat := 2 ^ 31 * b2n f + 2 ^ 17 * port + mod

/-- A dword of a port block but LK_CTL. -/
def portWord (q : Port) (o : Nat) : Nat :=
  if 0x040 ≤ o && o < 0x060 then
    let l := kvGet {} q.lane ((o - 0x040) / 8)
    if o % 8 == 0 then l.cbits else 65536 * l.uncorr + 32768 * b2n l.qpass + l.seconds
  else if 0x060 ≤ o && o < 0x070 then
    let l := kvGet {} q.lane ((o - 0x060) / 4)
    pair16 l.modIn l.rx
  else match o with
    | 0x004 => portStatus q
    | 0x008 => peerWord q.peerValid q.peerPort q.peerMod
    | 0x00C => peerWord q.expCheck q.expPort q.expMod
    | 0x010 => q.lat
    | 0x020 => q.tx
    | 0x024 => q.rx
    | 0x028 => pair16 q.crc q.seqBad
    | 0x02C => pair16 q.retryReq q.replays
    | 0x030 => pair16 q.late q.parkedCnt
    | 0x034 => 2 ^ 24 * q.dropKey + 65536 * q.dropHops + 256 * q.dropRoute + q.dropDown
    | 0x038 => q.undel
    | 0x03C => pair16 q.bellLost q.conflict
    | 0x070 => pair16 q.tlyTransit q.tlyLocal
    | _ => 0

/-- A dword of the block of port p: LK_CTL stands in D95, the others read their reset values while the pair's domain is off
(R518). -/
def lkWord (s : State) (p o : Nat) : Nat :=
  if o == 0 then lkCtlWord (getPort s p) else portWord (if domOn s (portDom p) then getPort s p else {}) o

/-! ## Link management and the table windows (Table 11.16, R519) -/

/-- A dword of the link management block. -/
def linkWord (s : State) (o : Nat) : Nat :=
  let k := s.link
  if 0x010 ≤ o && o < 0x020 then kvGet 0x8000 k.laser ((o - 0x010) / 4)
  else match o with
    | 0x000 => 2 ^ 31 * b2n k.root + 256 * k.voteW + k.hopLimit
    | 0x004 => k.clkSrc
    | 0x008 => 2 ^ 31 * b2n k.locked + 2 ^ 30 * b2n k.holdover + 2 ^ 29 * b2n k.inDomain + 2 ^ 18 * k.src + k.domain
    | 0x020 => 2 ^ 31 * b2n (routePending s) + k.bank
    | _ => 0

/-- A dword of a route bank's window: two entries. -/
def routeWord (m : Kv Nat) (o : Nat) : Nat := kvGet 0 m (o / 2) + 65536 * kvGet 0 m (o / 2 + 1)

/-- A dword of the multicast window. -/
def mcastWord (s : State) (o : Nat) : Nat := fld (slice (kvGet [] s.link.mcast (o / 16)) 0 12) (o % 16) 4

/-! ## BAR0 (Table 20.2) -/

/-- The dword at an aligned offset of BAR0; an offset not listed reads zero (R515). -/
def barWord (s : State) (o : Nat) : Nat :=
  if o < 0x1000 then hostWord s o
  else if o < 0x1300 then msixWord s.hst (o - 0x1000)
  else if o < 0x1800 then 0
  else if o < 0x1808 then pbaWord s.hst (o - 0x1800)
  else if o < 0x10000 then 0
  else if o < 0x20000 then pageWord s ((o - 0x10000) / 4096) (o % 4096)
  else if o < 0x100000 then 0
  else if o < 0x108000 then millWord s ((o - 0x100000) / 4096) (o % 4096)
  else if o < 0x110000 then 0
  else if o < 0x130000 then lkWord s ((o - 0x110000) / 4096) (o % 4096)
  else if o < 0x131000 then linkWord s (o % 4096)
  else if o < 0x140000 then 0
  else if o < 0x150000 then mcastWord s (o - 0x140000)
  else if o < 0x180000 then 0
  else if o < 0x1C0000 then routeWord s.link.routeA (o - 0x180000)
  else if o < 0x200000 then routeWord s.link.routeB (o - 0x1C0000)
  else 0

/-- What a read of a dword leaves: HST_BUS_ERR clears (Table 20.6). -/
def barTake (s : State) (o : Nat) : State :=
  if o == 0x01C then
    { s with hst := { s.hst with errClosed := 0, errLost := 0, errUnmapped := 0, errMalformed := 0 } }
  else s

/-- Read n dwords from an aligned offset, the lower address first, each with its read side effect (R516). -/
def barWords : Nat → Nat → State → List Byte × State
  | _, 0, s => ([], s)
  | o, n + 1, s =>
    let r := barWords (o + 4) n (barTake s o)
    (toLe 4 (barWord s o) ++ r.1, r.2)

/-- A read of any size and alignment: every dword it covers, whole (R516). -/
def barRead (s : State) (o len : Nat) : List Byte × State :=
  let r := barWords (o / 4 * 4) ((o + len + 3) / 4 - o / 4) s
  (slice r.1 (o % 4) len, r.2)

end Sys2Proof.Machine
end

