-- ==== Sys2Proof/Machine/HostBus.lean ====
section
/-! DEFINITION. The host's accesses through the two BARs, and the management space (spec/20, R514 to R527; spec/15, R417, R420
to R422; spec/12, R341). Points of the host bus: DESIGN CHOICE, assumption 38. -/

namespace Sys2Proof.Machine

/-- Does the function decode its BARs: the link is up, memory decoding is on, and it is not in D3hot (R514)? -/
def barOpen (s : State) : Bool := s.hst.pcieUp && s.hst.memEn && !s.hst.d3hot

/-- A completion to the host: a tag, and its status: 0 successful, 1 Unsupported Request, 2 successful with EP set. -/
def hostCpl (s : State) (tag status : Nat) (data : List Byte) : State := putOut s 2 (tag % 2 ^ 32 + 2 ^ 32 * status) data

/-! ## Requests to the shares (R522, R523) -/

/-- Bytes for a bolt: a whole bolt with its tally (Table 12.1), or a partial write. -/
def boltPost (s : State) (n b y : Nat) (data : List Byte) : State :=
  remotePut s { part := n, bolt := b, key := (getPart s n).key, off := y, data := data
                tally := if data.length == 4096 then crc32c data else 0, host := true }

/-- Accept the requests at every stack interface (R525). -/
def remoteRunAll (s : State) : State :=
  ((upto 0 stackCount).filter (ifaceOn s)).foldl (fun s k => remoteRun k (getStack s k).remote.length s) s

/-- Is an assembler a bolt's? -/
def asmIs (n b : Nat) (a : Asm) : Bool := a.part == n && a.bolt == b

/-- The assembler of a bolt. -/
def asmOf (s : State) (n b : Nat) : Option Asm := s.hst.asm.find? (asmIs n b)

/-- Change the assemblers. -/
def modAsm (s : State) (f : List Asm → List Asm) : State := { s with hst := { s.hst with asm := f s.hst.asm } }

/-- Flush a bolt's assembler as a partial write (R523). -/
def asmFlush (s : State) (n b : Nat) : State :=
  match asmOf s n b with
  | none => s
  | some a => boltPost (modAsm s (fun l => l.eraseP (asmIs n b))) n b 0 a.data

/-- Flush every assembler, the one opened earliest first. -/
def asmFlushAll (s : State) : State := s.hst.asm.foldl (fun s a => asmFlush s a.part a.bolt) s

/-- What a read of a BAR and a doorbell wait for: every assembler flushed, every posted write accepted (R523, R525). -/
def hostSettle (s : State) : State := remoteRunAll (asmFlushAll s)

/-- The refusals of Table 20.7 but the last, in its order: 2 UNMAPPED, 0 CLOSED, 1 LOST; `win` tells whether HST_WIN_CTL
applies (R527). -/
def busRefusal (s : State) (win : Bool) (off : Nat) : Option Nat :=
  let n := off / 2 ^ 35
  let b := off % 2 ^ 35 / 4096
  if 0x6000000000 ≤ off then some 2
  else if (win && !(bitAt s.hst.winOpen n)) || (getPart s n).key == 0 then some 0
  else if (getStack s (boltStack (getPart s n).seed.toNat b)).lost || s.reeve.computeReset || s.power.keepAlive then some 1
  else none

/-- Count an error in HST_BUS_ERR (Table 20.6): 0 CLOSED, 1 LOST, 2 UNMAPPED, 3 MALFORMED. -/
def busCount (s : State) (which : Nat) : State :=
  { s with hst := match which with
    | 0 => { s.hst with errClosed := satAdd 8 s.hst.errClosed 1 }
    | 1 => { s.hst with errLost := satAdd 8 s.hst.errLost 1 }
    | 2 => { s.hst with errUnmapped := satAdd 8 s.hst.errUnmapped 1 }
    | _ => { s.hst with errMalformed := satAdd 8 s.hst.errMalformed 1 } }

/-- Open an assembler; a 65th flushes the one opened earliest. -/
def asmOpen (s : State) (a : Asm) : State :=
  let s1 := if 64 ≤ s.hst.asm.length then
      (match s.hst.asm with | x :: _ => asmFlush s x.part x.bolt | [] => s) else s
  modAsm s1 (fun l => l ++ [a])

/-- A write within a bolt, from byte y (R523). -/
def asmWrite (s : State) (n b y : Nat) (data : List Byte) : State :=
  match y, asmOf s n b with
  | 0, _ => asmOpen (asmFlush s n b) { part := n, bolt := b, data := data }
  | _, some a =>
    if a.data.length == y then
      if y + data.length == 4096 then boltPost (modAsm s (fun l => l.eraseP (asmIs n b))) n b 0 (a.data ++ data)
      else modAsm s (fun l => l.map (fun x => if asmIs n b x then { x with data := x.data ++ data } else x))
    else boltPost (asmFlush s n b) n b y data
  | _, none => boltPost s n b y data

/-- Is a TLP's write one that PCI Express allows here: 1 to 512 bytes within a bolt? -/
def tlpOk (off : Nat) (data : List Byte) : Bool :=
  1 ≤ data.length && data.length ≤ 512 && off % 4096 + data.length ≤ 4096 && off < 2 ^ 39

/-- BAR2_WRITE (R523): a write TLP of `data` at an offset; `ep` is its poison bit. -/
def execBar2Write (off : Nat) (data : List Byte) (ep : Bool) (s : State) : Res :=
  if !(barOpen s) || !(tlpOk off data) then .next s
  else match busRefusal s true off with
    | some w => .next (busCount s w)
    | none => .next (if ep then busCount s 3 else asmWrite s (off / 2 ^ 35) (off % 2 ^ 35 / 4096) (off % 4096) data)

/-- ASSEMBLER_TIMEOUT (R523): the assembler of bolt b of partition n has not grown for 10 µs. -/
def execAssemblerTimeout (n b : Nat) (s : State) : Res :=
  if ¬ (n < 12 ∧ b < Config.shareBolts) then .refused .noSuchUnit else .next (asmFlush s n b)

/-- Bytes of a bolt, read over the spine, with their EP mark, and the host-tally event of a whole bolt that fails its check (R341,
R524). -/
def boltFetch (s : State) (n b y len : Nat) : List Byte × Bool × State :=
  let r := spineRead s false n b (y / 64) ((y + len - 1) / 64 + 1 - y / 64)
  let m := boltMeta r.2.2 n b
  let hit := m.written && (m.poison || m.bad.any (fun i => y / 64 ≤ i && i ≤ (y + len - 1) / 64))
  let whole := len == 4096 && m.written && crc32c r.1 != r.2.1
  let s1 := if whole then sendEvent r.2.2 { code := 0x0115, part := n, bell := s.clk.bell, cc := s.clk.intvCc } else r.2.2
  (slice r.1 (y % 64) len, hit || whole, s1)

/-- Serve the part of a host read that lies in one bolt. -/
def readPart (tag : Nat) (s : State) (off len : Nat) : State :=
  match busRefusal s true off with
  | some w => hostCpl (busCount s w) tag 1 []
  | none =>
    let r := boltFetch s (off / 2 ^ 35) (off % 2 ^ 35 / 4096) (off % 4096) len
    hostCpl r.2.2 tag (if r.2.1 then 2 else 0) r.1

/-- A range split at bolt boundaries: offset and length of each part. -/
def boltParts (off len : Nat) : List (Nat × Nat) :=
  (upto (off / 4096) ((off + len + 4095) / 4096 - off / 4096)).map (fun b =>
    let lo := max off (4096 * b)
    (lo, min (off + len) (4096 * b + 4096) - lo))

/-- BAR2_READ (R524): a read request of `len` bytes, 1 to 4,096, with a tag. -/
def execBar2Read (off len tag : Nat) (s : State) : Res :=
  if !s.hst.pcieUp || len == 0 || 4096 < len || 2 ^ 39 < off + len then .next s
  else if !(barOpen s) then .next (hostCpl s tag 1 [])
  else .next ((boltParts off len).foldl (fun s q => readPart tag s q.1 q.2) (hostSettle s))

/-! ## Writes to the registers of BAR0 (R515 to R520) -/

/-- A write of a host register. -/
def hostPut (s : State) (o v : Nat) : State :=
  let h := s.hst
  match o with
  | 0x004 => { s with hst := { h with scratch := BitVec.ofNat 32 v } }
  | 0x008 => persist { s with start := { s.start with quick := bitAt v 31 } } 3 (b2n (bitAt v 31))
  | 0x010 => { s with hst := { h with pasidEn := bitAt v 31, ringReset := Nat.lor h.ringReset (bits v 15 0) } }
  | 0x014 =>
    if bits v 25 16 < 25 || 600 < bits v 25 16 then badHostWrite s
    else { s with hst := { h with hwEn := bitAt v 31, dwell := bits v 25 16, pause := bits v 11 0 } }
  | 0x018 => { s with hst := { h with winOpen := bits v 11 0 } }
  | _ => s

/-- A write of a dword of the MSI-X table. -/
def msixPut (h : Hst) (o v : Nat) : Hst :=
  { h with msix := kvMod {} h.msix (o / 16) (fun m => match o % 16 / 4 with
    | 0 => { m with addr := m.addr / 2 ^ 32 * 2 ^ 32 + v / 4 % 2 ^ 30 * 4 }
    | 1 => { m with addr := m.addr % 2 ^ 32 + v % 2 ^ 32 * 2 ^ 32 }
    | 2 => { m with data := v % 2 ^ 32 }
    | _ => { m with masked := bitAt v 0 }) }

/-- Ring a doorbell (R417): a value behind CMD_CI or more than 16 ahead of it is ignored and sets STATUS[3]. -/
def doorbellPut (s : State) (n v : Nat) : State :=
  if idxDist v (getPage s n).cmdCi ≤ 16 then mailDrain 256 (modPage s n (fun q => { q with doorbell := v % 2 ^ 32 }))
  else modPage s n (fun q => { q with bad := true })

/-- A write of a dword field of mailbox n's page. -/
def pagePut (s : State) (n o v : Nat) : State :=
  match o with
  | 0x008 => doorbellPut (hostSettle s) n v
  | 0x014 => mailDrain 256 (modPage s n (fun q => { q with rspCi := v % 2 ^ 32 }))
  | 0x01C => modPage s n (fun q => { q with evCi := v % 2 ^ 32 })
  | 0x024 => modPage s n (fun q => { q with irqCtl := 65536 * bits v 31 16 + bits v 2 0 })
  | 0x02C => modPage s n (fun q => { q with cqCi := v % 2 ^ 32 })
  | _ => s

/-- A write of LK_MOD_CTL: a zero vote window or hop limit is discarded (R14). -/
def modCtlPut (s : State) (v : Nat) : State :=
  if bits v 15 8 == 0 || bits v 7 0 == 0 then badHostWrite s
  else domainReformed s (clkLock (persist (modLink s (fun k =>
    { k with root := bitAt v 31, voteW := bits v 15 8, hopLimit := bits v 7 0 })) 1 (2 ^ 31 * b2n (bitAt v 31) + bits v 15 0)))

/-- A write of LK_CLKSRC: an entry whose bits [6:5] are not zero is unlisted (R14). -/
def clkSrcPut (s : State) (v : Nat) : State :=
  if (upto 0 4).any (fun k => bits v (8 * k + 6) (8 * k + 5) != 0) then badHostWrite s
  else clkLock (persist (modLink s (fun k => { k with clkSrc := v % 2 ^ 32 })) 2 (v % 2 ^ 32))

/-- A write of one aligned dword of BAR0; ML_SPLIT and ML_MERGE take writes only through their staged change, and any other is an
invalid write (Table 10.6, R14). -/
def barPut (s : State) (o v : Nat) : State :=
  if o < 0x1000 then hostPut s o v
  else if o < 0x1300 then { s with hst := msixPut s.hst (o - 0x1000) v }
  else if o < 0x10000 then s
  else if o < 0x20000 then pagePut s ((o - 0x10000) / 4096) (o % 4096) v
  else if 0x100000 ≤ o && o < 0x108000 then
    let k := (o - 0x100000) / 4096
    if o % 4096 == 0x00C && domOn s (60 + k) then modStack s k (fun q => { q with scrubH := v % 65536 })
    else if o % 4096 < 8 && domOn s (60 + k) then badHostWrite s else s
  else if 0x110000 ≤ o && o < 0x130000 then
    let p := (o - 0x110000) / 4096
    if o % 4096 == 0 then lkCtlWrite s p v
    else if o % 4096 == 0x00C && domOn s (portDom p) then peerExpWrite s p v else s
  else if o == 0x130000 then modCtlPut s v
  else if o == 0x130004 then clkSrcPut s v
  else s

/-- Does a write lie wholly in a command ring? -/
def inRing (o len : Nat) : Bool := 0x10000 ≤ o && o < 0x20000 && 0x100 ≤ o % 4096 && o % 4096 + len ≤ 0x500
/-- Does an offset lie in a table window (R519)? -/
def inWindow (o : Nat) : Bool := (0x140000 ≤ o && o < 0x150000) || 0x180000 ≤ o

/-- Is a BAR0 write one that R516 and R519 accept? -/
def barWriteOk (o len : Nat) : Bool :=
  (inRing o len || ((len == 4 && o % 4 == 0) || (len == 8 && o % 8 == 0))) && !(inWindow o) && o + len ≤ 0x200000

/-- Apply a BAR0 write that is accepted: an 8-byte access acts as two, the lower first. -/
def barWrite (s : State) (o : Nat) (data : List Byte) : State :=
  if inRing o data.length then
    modPage s ((o - 0x10000) / 4096) (fun q => { q with cmd := memWrite q.cmd (o % 4096 - 0x100) data })
  else
    let s1 := barPut s o (fld data 0 4)
    if data.length == 8 then barPut s1 (o + 4) (fld data 4 4) else s1

/-- HOST_REGISTER_WRITE (R517): a write of the host, or of the Reeve (`mgmt`), at an offset of BAR0; one of the host that
R516 or R519 discards is counted. -/
def execHostRegisterWrite (mgmt : Bool) (off : Nat) (data : List Byte) (s : State) : Res :=
  if !(if mgmt then reeveServes s else barOpen s) || data.isEmpty || 0x200000 < off + data.length then .next s
  else if !(barWriteOk off data.length) then .next (if mgmt then s else busCount s 3)
  else .next (withHealth s (barWrite s off data))

/-- BAR0_MALFORMED_ACCESS (R516, R519): a write of `len` bytes that is poisoned, of another size or alignment, or to a table
window is discarded and counted; a read of any size reads every dword it covers, after every posted write (R525). -/
def execBar0MalformedAccess (off len tag : Nat) (wr ep : Bool) (s : State) : Res :=
  if len == 0 || 0x200000 < off + len || !s.hst.pcieUp then .next s
  else if wr then .next (if barOpen s && (ep || !(barWriteOk off len)) then busCount s 3 else s)
  else if !(barOpen s) then .next (hostCpl s tag 1 [])
  else
    let r := barRead (hostSettle s) off len
    .next (hostCpl r.2 tag 0 r.1)

/-! ## Doorbells, ring resets, MSI-X (R417, R421, R422) -/

/-- DOORBELL_WRITE (R417): DOORBELL of mailbox pg is written with v, after every posted write is accepted (R525). -/
def execDoorbellWrite (pg v : Nat) (s : State) : Res :=
  if ¬ pg < 16 then .refused .noSuchUnit
  else if !(barOpen s) then .next s
  else .next (doorbellPut (hostSettle s) pg v)

/-- RING_RESET (R421): the reset that HST_MB_CTL asks for. -/
def execRingReset (n : Nat) (s : State) : Res :=
  if ¬ n < 16 then .refused .noSuchUnit
  else if !(bitAt s.hst.ringReset n) then .next s
  else
    let s1 := ringReset s n 1
    .next { s1 with hst := { s1.hst with ringReset := clrBit s1.hst.ringReset n } }

/-- Is a vector enabled in its page's IRQ_CTL? -/
def irqOn (s : State) (v : Nat) : Bool := bitAt (getPage s (v / 3)).irqCtl (v % 3)

/-- MSIX_MESSAGE (R422): a vector whose message is due and whose spacing has passed sends it; a masked one sets its pending
bit (PCI Express). -/
def execMsixMessage (v : Nat) (s : State) : Res :=
  if ¬ v < 48 then .refused .noSuchUnit
  else if !(bitAt s.hst.due v) || !(irqOn s v) || !s.hst.msixEn || !s.hst.pcieUp then .next s
  else
    let e := kvGet {} s.hst.msix v
    if e.masked || s.hst.msixMask then .next { s with hst := { s.hst with pba := setBit s.hst.pba v } }
    else if !s.hst.busMaster then .next s
    else
      let s1 := putOut s 1 e.addr (toLe 4 e.data)
      .next { s1 with hst := { s1.hst with due := clrBit s1.hst.due v, pba := clrBit s1.hst.pba v } }

/-! ## The management space (R526, R527) -/

/-- Is the domain of a tile on? -/
def tileOn (s : State) (p : Nat) : Bool := domOn s (5 * physPart p + p / 100 % 16 / 4)

/-- May a tile's loom map be written: it never changes under a running role (R134)? -/
def mapWritable (t : Tile) : Bool := t.st == .idle || t.st == .loading || t.st == .pinfold

/-- Does a write of 0x7C0 to 0x7C7 carry an encoding that is not listed (R14)? -/
def machineBad (c v : Nat) : Bool := match c with
  | 0x7C0 =>
    let ok := fun (x : Nat) => x ≤ 32 || x == 0x3F
    !(ok (bits v 5 0) && ok (bits v 13 8) && (bits v 13 8 == 0x3F || (bits v 5 0 != 0x3F && bits v 5 0 < bits v 13 8)))
  | 0x7C2 => (48 ≤ bits v 29 24 && bits v 29 24 != 0x3F) || (96 ≤ bits v 22 16 && bits v 22 16 != 0x7F)
    || (12 ≤ bits v 3 0 && bits v 3 0 != 0xF)
  | 0x7C4 => 4 < bits v 31 29
  | _ => false

/-- A write of the registers that the management path alone writes, 0x7C0 to 0x7C7 (R527), where R14 lets it. -/
def machinePut (t : Tile) (c v : Nat) : Tile :=
  match c with
  | 0x7C0 => if mapWritable t then { t with loom := { t.loom with failA := bits v 5 0, failB := bits v 13 8 } } else t
  | 0x7C1 => { t with store := { t.store with scrubIntv := bits v 15 0 } }
  | 0x7C2 => { t with router := { t.router with row := bits v 29 24, col := bits v 22 16, part := bits v 3 0 } }
  | 0x7C3 => { t with router := { t.router with prev := bits v 31 16, key := bits v 15 0 } }
  | 0x7C4 => { t with hw := { t.hw with role := bits v 31 29, result := bits v 28 27, partialRes := bitAt v 26, ageS := bits v 15 0 } }
  | 0x7C5 => { t with dbg := { t.dbg with bp0 := BitVec.ofNat 32 v } }
  | 0x7C6 => { t with dbg := { t.dbg with bp1 := BitVec.ofNat 32 v } }
  | 0x7C7 => { t with dbg := { t.dbg with
      loose := bitAt v 31, halted := bitAt v 30, cause := bits v 29 28, ebreakHalt := bitAt v 0 } }
  | _ => t

/-- A management write of a tile CSR: the register's access code (R527). -/
def mgmtCsrPut (s : State) (p c v : Nat) : State :=
  if !(tileOn s p) || (csrCustom s p c).isNone then s
  else if 0x7C0 ≤ c && c ≤ 0x7C7 then if machineBad c v then badWrite s p else modTile s p (fun t => machinePut t c v)
  else if csrReadOnly c then s
  else if c == 0x851 then (qsendPut s p v).getD s
  else if c == 0x859 then imFillPut s p v (getTile s p).clerk.pc.toNat
  else if c == 0x85C then clerkFault s p (toLe 2 (bits v 15 0))
  else csrPut s p c v

/-- Read n tile CSRs from number c, each with its side effect. -/
def mgmtCsrs (p : Nat) : Nat → Nat → State → List Byte × State
  | _, 0, s => ([], s)
  | c, n + 1, s =>
    let r := mgmtCsrs p (c + 1) n (if tileOn s p then csrTake s p c else s)
    (toLe 4 (if tileOn s p then (csrCustom s p c).getD 0 else 0) ++ r.1, r.2)

/-- The regions of Table 20.9. -/
inductive Region where
  | sram (o : Nat) | bar (o : Nat) | csr (tile o : Nat) | im (tile o : Nat) | store (tile o : Nat) | share (o : Nat)
  | none
  deriving DecidableEq, Repr

/-- The region that holds a whole access. -/
def mgmtRegion (a len : Nat) : Region :=
  let fits := fun (base size : Nat) => base ≤ a && a + len ≤ base + size
  let csr := 0x0200000000
  let im := 0x0300000000
  let st := 0x1000000000
  if fits 0 0x800000 then .sram a
  else if fits 0x0100000000 0x200000 then .bar (a - 0x0100000000)
  else if fits csr (tileCount * 0x4000) && (a - csr) % 0x4000 + len ≤ 0x4000 then .csr ((a - csr) / 0x4000) ((a - csr) % 0x4000)
  else if fits im (tileCount * 0x10000) && (a - im) % 0x10000 + len ≤ 0x10000 then .im ((a - im) / 0x10000) ((a - im) % 0x10000)
  else if fits st (tileCount * 0x80000) && (a - st) % 0x80000 + len ≤ 0x80000 then
    .store ((a - st) / 0x80000) ((a - st) % 0x80000)
  else if fits 0x2000000000 0x6000000000 then .share (a - 0x2000000000)
  else .none

/-- Read a share through the remote class, after what is queued there; a refused part reads zero (R527). -/
def mgmtShare (s : State) (off len : Nat) : List Byte × State :=
  (boltParts off len).foldl (fun (r : List Byte × State) q =>
    match busRefusal r.2 false q.1 with
    | some w => (r.1 ++ zeros q.2, busCount r.2 w)
    | none =>
      let y := q.1 % 4096
      let d := spineRead r.2 true (q.1 / 2 ^ 35) (q.1 % 2 ^ 35 / 4096) (y / 64) ((y + q.2 - 1) / 64 + 1 - y / 64)
      (r.1 ++ slice d.1 (y % 64) q.2, d.2.2)) ([], remoteRunAll s)

/-- A management read: its bytes and what it leaves. -/
def mgmtRead (s : State) (a len : Nat) : List Byte × State :=
  match mgmtRegion a len with
  | .sram o => (memRead s.reeve.sram o len, s)
  | .bar o => barRead s o len
  | .csr p o =>
    let r := mgmtCsrs p (o / 4) ((o + len + 3) / 4 - o / 4) s
    (slice r.1 (o % 4) len, r.2)
  | .im p o => (if tileOn s p then memRead (getTile s p).clerk.im o len else zeros len, s)
  | .store p o =>
    if !(tileOn s p) then (zeros len, s)
    else
      let r := copierRead (ctxOf s p) (ctxCc s (physPart p)) o len
      (r.1, applyCtx s r.2)
  | .share o => mgmtShare s o len
  | .none => (zeros len, s)

/-- Write the dwords of a tile's CSR region that an access covers whole. -/
def mgmtCsrWrite (s : State) (p o : Nat) (data : List Byte) : State :=
  if o % 4 != 0 || data.length % 4 != 0 then s
  else (upto 0 (data.length / 4)).foldl (fun s i => mgmtCsrPut s p (o / 4 + i) (fld data (4 * i) 4)) s

/-- Write a share: each bolt whole or as a partial write. -/
def shareWrite (s : State) (off : Nat) (data : List Byte) : State :=
  (boltParts off data.length).foldl (fun s q =>
    match busRefusal s false q.1 with
    | some w => busCount s w
    | none => boltPost s (q.1 / 2 ^ 35) (q.1 % 2 ^ 35 / 4096) (q.1 % 4096) (slice data (q.1 - off) q.2)) s

/-- A management write. -/
def mgmtWrite (s : State) (a : Nat) (data : List Byte) : State :=
  match mgmtRegion a data.length with
  | .sram o => { s with reeve := { s.reeve with sram := memWrite s.reeve.sram o data } }
  | .bar o => if barWriteOk o data.length then barWrite s o data else s
  | .csr p o => mgmtCsrWrite s p o data
  | .im p o => if tileOn s p then modTile s p (fun t => touchTile (imLines o data.length) { t with clerk := imWrite t.clerk o data }) else s
  | .store p o =>
    if !(tileOn s p) then s
    else modTile s p (fun t => debugStorePut t o data)
  | .share o => shareWrite s o data
  | .none => s

/-- May the test engine reach the management space (R383, R526)? -/
def engineOpen (s : State) : Bool :=
  s.jtag.engine && domOn s 92 && (s.start.lifeCycle == .raw || s.start.lifeCycle == .service)

/-- MANAGEMENT_ACCESS (R527): the Reeve, or the test engine (`engine`), writes `data` or reads `len` bytes; what the engine
reads is shifted out. -/
def execManagementAccess (engine write : Bool) (addr len : Nat) (data : List Byte) (s : State) : Res :=
  if !(if engine then engineOpen s else reeveServes s) then .next s
  else if write then .next (withHealth s (mgmtWrite s addr data))
  else
    let r := mgmtRead s addr len
    .next (if engine then putOut r.2 4 9 r.1 else r.2)

/-! ## Telemetry (R409) -/

/-- TELEMETRY_SWEEP (R409): a firmware update holds it back (Table 14.8). -/
def execTelemetrySweep (s : State) : Res :=
  if !(reeveServes s) || s.power.keepAlive || (ledgerAdmit s 7 0).1 != 0 then .next s
  else .next (modReeve s (fun r => { r with sweep := sweepBytes s }))

end Sys2Proof.Machine
end

