-- ==== Sys2Proof/Machine/Tray.lean ====
section
/-! DEFINITION. The JTAG port, the sideband, and the PCI Express configuration space (spec/18, R478 to R480; spec/13, R383;
spec/19, R507 to R510; spec/17, R477; spec/15, R440; spec/20, R514). Points of the sideband and JTAG: DESIGN CHOICE,
assumption 37. -/

namespace Sys2Proof.Machine

/-! ## The TAP (R480) -/

/-- May EXTEST drive: is the module in a reset scope that holds the pins' owners (R480, R498)? -/
def extestDrives (s : State) : Bool := !s.pins.mrstN || s.start.phase ≤ 1

/-- The low-speed pins as the boundary cells capture them (DESIGN CHOICE, assumption 44: their order): PWRGD, ALERT_N,
THERMTRIP_N, LREQ_N of the four inputs, MRST_N, PERST_N. What EXTEST drives stands on the outputs while it may drive. -/
def pinWord (s : State) : Nat :=
  let own := b2n s.pins.pwrgd + 2 * b2n s.pins.alertN + 4 * b2n s.pins.thermtripN + 8 * (s.pins.lreqN % 16)
  let outs := match s.jtag.drive with
    | some v => if extestDrives s then v % 128 else own
    | none => own
  outs + 128 * b2n s.pins.mrstN + 256 * b2n s.pins.perstN

/-- Change the JTAG port. -/
def modJtag (s : State) (f : Jtag → Jtag) : State := { s with jtag := f s.jtag }

/-- Select an instruction that drives no pin. -/
def irSelect (s : State) (ir : Nat) : State := modJtag s (fun j => { j with ir := ir, drive := none })

/-- Shift bytes out of the data register of an instruction. -/
def shiftOut (s : State) (ir : Nat) (data : List Byte) : State := putOut s 4 ir data

/-- BYPASS: one bit, captured as 0. -/
def bypass (s : State) : State := shiftOut (irSelect s 15) 15 [0]

/-- A scan of an instruction that the life-cycle state allows; any other selects BYPASS (R480). -/
def jtagScan (allowed : LifeSt → Bool) (run : State → State) (s : State) : Res :=
  if !(domOn s 92) then .next s else .next (if allowed s.start.lifeCycle then run s else bypass s)

/-- Raw and Service (Tables 13.4 and 18.1). -/
def lifeOpen (l : LifeSt) : Bool := l == .raw || l == .service

/-- JTAG_EXTEST: captures the pins, shifts v in, and drives it in reset. -/
def execJtagExtest (v : Nat) (s : State) : Res :=
  jtagScan lifeOpen (fun s =>
    modJtag (shiftOut s 0 (toLe 2 (pinWord s))) (fun j => { j with
      ir := 0, boundary := v, drive := if extestDrives s then some v else none })) s

/-- JTAG_SAMPLE_PRELOAD. -/
def execJtagSamplePreload (v : Nat) (s : State) : Res :=
  jtagScan (fun _ => true) (fun s =>
    modJtag (irSelect (shiftOut s 1 (toLe 2 (pinWord s))) 1) (fun j => { j with boundary := v })) s

/-- JTAG_IDCODE. -/
def execJtagIdcode (s : State) : Res :=
  jtagScan (fun _ => true) (fun s => irSelect (shiftOut s 2 (toLe 4 0x1A3844E5)) 2) s

/-- The life-cycle states as the engine's operands number them, in the order of Table 13.4. -/
def lifeOf (n : Nat) : LifeSt :=
  match n with | 0 => .raw | 1 => .provisioned | 2 => .deployed | 3 => .service | _ => .scrapped

/-- The test engine burns the fuses of another life-cycle state (R383): the next one in order, or from Service a return to Deployed,
three of them at most. The first start after it is a full one (R442), and the engine closes with its states. -/
def lifeBurn (s : State) (l : LifeSt) : State :=
  let goes := match s.start.lifeCycle, l with
    | .raw, .provisioned | .service, .scrapped => true
    | .service, .deployed => s.start.returns < 3
    | _, _ => false
  if !goes then s
  else
    let back := if l == .deployed then 1 else 0
    modJtag { s with start := { s.start with lifeCycle := l, returns := s.start.returns + back, lifeChanged := true } }
      (fun j => { j with engine := j.engine && lifeOpen l })

/-- JTAG_TESTENG (R383): the engine lets go (0), takes its hold (1), or, while it holds, burns the fuses of the life-cycle state
`op - 2`. -/
def execJtagTesteng (op : Nat) (s : State) : Res :=
  jtagScan lifeOpen (fun s =>
    let s1 := irSelect s 9
    if op < 2 then modJtag s1 (fun j => { j with engine := op == 1 })
    else if s.jtag.engine then lifeBurn s1 (lifeOf (op - 2)) else s1) s

/-- JTAG_BYPASS. -/
def execJtagBypass (s : State) : Res := jtagScan (fun _ => true) bypass s

/-! ## DBGCMD (R479, R480) -/

/-- A command that other paths than a mailbox carry: its variant, its entry of Table 15.7, its meaning. -/
structure Row15 where
  key : Nat
  spec : CSpec
  run : State → MCmd → Ans

/-- The DBG commands. -/
def dbgRows : List Row15 :=
  [⟨0x0C01, { req := true, resp := true, pars := [(0, 4)] }, dbgRegRead⟩, ⟨0x0C02, workSpec [(0, 8)], dbgRegWrite⟩,
   ⟨0x0C03, { resp := true, pars := [(0, 2), (4, 8)] }, dbgStoreRead⟩,
   ⟨0x0C04, { req := true, writes := true, pars := [(0, 2), (4, 4)] }, dbgStoreWrite⟩,
   ⟨0x0C05, { resp := true, pars := [(0, 2)] }, dbgImageRead⟩, ⟨0x0C06, { resp := true, pars := [(0, 2)] }, dbgChanRead⟩,
   ⟨0x0C07, workSpec [(0, 1), (8, 6)], dbgResume⟩, ⟨0x0C08 + 2 * 65536, workSpec [(0, 2)], dbgLooseOn⟩,
   ⟨0x0C08 + 1 * 65536, workSpec [(0, 2)], dbgLooseOff⟩]
  ++ [⟨0x0C09, workSpec [(0, 2)], dbgClkHalt⟩, ⟨0x0C0A, workSpec [(0, 4)], dbgClkStep⟩,
   ⟨0x0C0B, workSpec [(0, 2)], dbgClkResume⟩, ⟨0x0C0C, workSpec [(0, 2), (4, 9)], dbgClkSet⟩,
   ⟨0x0C10, { req := true, writes := true, pars := [(0, 2)] }, dbgTraceSet⟩,
   ⟨0x0C11, { resp := true, pars := [(0, 1), (4, 8)] }, dbgTraceRead⟩, ⟨0x0C12, { pars := [(0, 2)] }, dbgMillNan⟩]

/-- The answer to a command of a path that carries the rows of a list; `foreign` is the status of an opcode outside them. -/
def pathAnswer (s : State) (rows : List Row15) (foreign : Nat) (c : MCmd) : Ans :=
  match rows.find? (fun r => r.key == rowOf c.ent) with
  | some r =>
    if fld c.ent 8 8 != 0 then deny s 0x12 8
    else if fld c.ent 0x18 8 != 0 then deny s 0x12 0x18
    else serveCmd s c r.spec true true r.run
  | none =>
    if rows.any (fun r => r.key % 65536 == cOp c) then deny s 0x12 0x21
    else deny s (if opcodes.contains (cOp c) then foreign else 0x10) 0

/-- Take a command of such a path: the answer's entry and its buffer. -/
def pathServe (s : State) (rows : List Row15) (foreign : Nat) (c : MCmd) : List Byte × List Byte × State :=
  let a := pathAnswer s rows foreign c
  let seq := a.st.reeve.takeSeq + 1
  let s1 := modReeve a.st (fun r => { r with takeSeq := seq })
  (rspEntry c seq a, a.buf, withHealth s (opsStart s1))

/-- Bytes filled up to whole pieces of 64 B. -/
def pad64 (bs : List Byte) : List Byte := slice bs 0 ((bs.length + 63) / 64 * 64)

/-- Pieces of the request buffer that an entry names. -/
def dbgPieces (e : List Byte) : Nat := if bitAt (fld e 2 1) 0 && fld e 0x10 4 ≤ 2 ^ 24 then (fld e 0x10 4 + 63) / 64 else 0

/-- Run a DBG command whose entry and pieces have shifted in; its response follows one scan later. -/
def dbgTake (s : State) (all : List Byte) : State :=
  let e := slice all 0 64
  let r := pathServe s dbgRows 0x11 { pg := 16, ent := e, req := slice (all.drop 64) 0 (if dbgPieces e == 0 then 0 else fld e 0x10 4) }
  modJtag r.2.2 (fun j => { j with resp := j.resp ++ r.1 ++ pad64 r.2.1, buf := [] })

/-- One DBGCMD scan: 64 B of what is to be read shift out; an entry, or a piece of the buffer it names, shifts in. An entry
of zeros only reads (DESIGN CHOICE, assumption 45). -/
def dbgScan (data : List Byte) (s : State) : State :=
  let s1 := modJtag (irSelect (shiftOut s 8 (slice s.jtag.resp 0 64)) 8) (fun j => { j with resp := j.resp.drop 64 })
  let all := s1.jtag.buf ++ slice data 0 64
  if !(reeveServes s1) || (s1.jtag.buf.isEmpty && allZero data) then s1
  else if all.length < 64 * (1 + dbgPieces all) then modJtag s1 (fun j => { j with buf := all })
  else dbgTake s1 all

/-- JTAG_DBGCMD. -/
def execJtagDbgcmd (data : List Byte) (s : State) : Res := jtagScan (fun l => l != .scrapped) (dbgScan data) s

/-! ## The sideband (R440, R507 to R510) -/

/-- I3C_DYNAMIC_ADDRESS (R507): ENTDAA, or SETDASA on the static address, gives a module without one its address. -/
def execI3cDynamicAddress (setdasa : Bool) (static addr : Nat) (s : State) : Res :=
  if !(domOn s 92 || s.start.phase == 1) || s.side.dynAddr.isSome || (setdasa && static != 0x3A) || 128 ≤ addr then .next s
  else .next { s with side := { s.side with dynAddr := some addr } }

/-- The commands of R440. -/
def sideRows : List Row15 :=
  [⟨0x0101, {}, modIdentity⟩, ⟨0x0103, readSpec, modHealth⟩, ⟨0x0104, readSpec, modReady⟩,
   ⟨0x0B01, { resp := true, pars := [(0, 12)] }, recRead⟩]

/-- The header of a vendor-defined message (Table 19.5). -/
def vendorHead (cls : Nat) (seq : List Byte) : List Byte := [0x7F, 0, 0, 0xF3, 0xA5] ++ toLe 1 cls ++ seq

/-- SIDEBAND_REQUEST (R508): one message; a message that is no request of Table 19.5 is not answered. -/
def execSidebandRequest (msg : List Byte) (s : State) : Res :=
  if !(sideAnswers s) || msg.length < 72 || slice msg 0 6 != vendorHead 1 [] then .next s
  else
    let e0 := slice msg 8 64
    let e := patch e0 0x14 (toLe 4 (min 4096 (fld e0 0x14 4)))
    let c : MCmd := { pg := 17, ent := e, req := msg.drop 72 }
    let bad := 4224 < msg.length || msg.length != 72 + fld e 0x10 4
    if bad then
      let seq := s.reeve.takeSeq + 1
      let s1 := modReeve s (fun r => { r with takeSeq := seq })
      .next (putOut s1 3 0 (vendorHead 2 (slice msg 6 2) ++ rspEntry c seq (deny s1 0x12 0x10)))
    else
      let r := pathServe s sideRows 0x10 c
      .next (putOut r.2.2 3 0 (vendorHead 2 (slice msg 6 2) ++ r.1 ++ r.2.1))

/-- Set Endpoint ID: operations 0 set and 1 force; the broadcast and null IDs are invalid. -/
def setEid (s : State) (data : List Byte) : State :=
  let e := fld data 1 1
  if 1 < fld data 0 1 || e == 0 || e == 0xFF then pldmAnswer s 2 []
  else pldmAnswer { s with side := { s.side with eid := e } } 0 ([0] ++ toLe 1 e ++ [0])

/-- MCTP_CONTROL (R507): the five control messages, in the codes and layouts of DSP0236 (PRESUMED, assumption 7); any other
is answered as unsupported. The boot ROM answers them too (R509). -/
def execMctpControl (cmd : Nat) (data : List Byte) (s : State) : Res :=
  if !(domOn s 92 || s.start.phase == 1) || s.side.dynAddr.isNone then .next s
  else .next (match cmd with
    | 1 => setEid s data
    | 2 => pldmAnswer s 0 (toLe 1 s.side.eid ++ [0, 0])
    | 4 =>
      if [0, 1, 0x7F, 0xFF].contains (fld data 0 1) then pldmAnswer s 0 [1, 0xF1, 0xF3, 0xF1, 0] else pldmAnswer s 0x80 []
    | 5 => pldmAnswer s 0 [2, 1, 0x7F]
    | 6 => if fld data 0 1 == 0 then pldmAnswer s 0 ([0xFF, 1] ++ [0, 0, 0xF3, 0xA5] ++ [0, 0]) else pldmAnswer s 2 []
    | _ => pldmAnswer s 5 [])

/-- The mean of a column of the samples of the last 100 ms. -/
def histMean (s : State) (i : Nat) : Int :=
  let col := s.power.hist.map (fun r => (r.drop i).headD 0)
  col.foldl (fun a x => a + x) 0 / max 1 (col.length : Int)

/-- A numeric sensor of Table 19.6 in its own units; rounding is toward the lower value (DESIGN CHOICE, assumption 46). -/
def sensorValue (s : State) (id : Nat) : Int :=
  let m := histMean s (id - 1)
  if id ≤ 2 then m / 10 else if id ≤ 4 then m / 100 else m

/-- PLDM_GET_SENSOR_READING (R477, R510), in the layout of DSP0248 (PRESUMED, assumption 7): a numeric sensor that has no
sample yet is unavailable. -/
def execPldmGetSensorReading (id : Nat) (s : State) : Res :=
  if !(sideServes s) then .next s
  else if 1 ≤ id && id ≤ 7 then
    let open' := !s.power.hist.isEmpty
    .next (pldmAnswer s 0 ([5, if open' then 0 else 2, 0, 0, 0, 0]
      ++ toLe 4 (if open' then (BitVec.ofInt 32 (sensorValue s id)).toNat else 0)))
  else if id == 0x10 then .next (pldmAnswer s 0 ([1, 0] ++ toLe 1 s.clk.step ++ [0, 0]))
  else .next (pldmAnswer s 0x80 [])

/-- PLDM_POLL_EVENT (R510): the oldest record leaves, with the number of those dropped before it (DESIGN CHOICE, assumption
47: where the count stands). -/
def execPldmPollEvent (s : State) : Res :=
  if !(sideServes s) then .next s
  else match s.side.events with
    | [] => .next (pldmAnswer s 0 [])
    | r :: rest =>
      .next (pldmAnswer { s with side := { s.side with events := rest, dropped := 0 } } 0 (toLe 4 s.side.dropped ++ r))

/-! ## PCI Express configuration (R502, R514) -/

/-- What a read of a field of the configuration space gives: 0 command, 1 power state, 2 MSI-X control, 3 BAR0, 4 BAR2,
5 identification, 6 clocking (layouts PRESUMED, assumption 7). -/
def cfgWord (h : Hst) (field : Nat) : Nat :=
  match field with
  | 0 => 2 * b2n h.memEn + 4 * b2n h.busMaster
  | 1 => 3 * b2n h.d3hot
  | 2 => 2 ^ 15 * b2n h.msixEn + 2 ^ 14 * b2n h.msixMask + 47
  | 3 => h.bar0 + 4
  | 4 => h.bar2 + 12
  | 5 => Config.vendorId % 65536 + 65536 * 0xA384 + 2 ^ 32 * 1 + 2 ^ 40 * 0x120000
  | 6 => b2n h.sris
  | _ => 0

/-- A write of a field of the configuration space. -/
def cfgPut (h : Hst) (field v : Nat) : Hst :=
  match field with
  | 0 => { h with memEn := bitAt v 1, busMaster := bitAt v 2 }
  | 1 => if v % 4 == 0 then { h with d3hot := false } else if v % 4 == 3 then { h with d3hot := true } else h
  | 2 => { h with msixEn := bitAt v 15, msixMask := bitAt v 14 }
  | 3 => { h with bar0 := v % 2 ^ 64 / 2 ^ 21 * 2 ^ 21 }
  | 4 => { h with bar2 := v % 2 ^ 64 / 2 ^ 39 * 2 ^ 39 }
  | 6 => { h with sris := bitAt v 0 }
  | _ => h

/-- PCIE_CONFIGURATION_REQUEST (R514). -/
def execPcieConfigurationRequest (write : Bool) (field v : Nat) (s : State) : Res :=
  if !s.hst.pcieUp then .next s
  else if write then .next { s with hst := cfgPut s.hst field v }
  else .next (putOut s 5 field (toLe 8 (cfgWord s.hst field)))

end Sys2Proof.Machine
end

