-- ==== Sys2Proof/Machine/Dispatch.lean ====
section
/-! DEFINITION. Which meaning each command has. -/

namespace Sys2Proof.Machine

/-- The effect of a command on everything but the queue. -/
def exec (i : Instr) (s : State) : Host.Outcome State Fault Refusal :=
  match i with
  | .inputGood mv => Sys2Proof.Machine.execInputGood mv s
  | .startPhaseComplete ms flashOk ucie found sense rows => Sys2Proof.Machine.execStartPhaseComplete ms flashOk ucie found sense rows s
  | .moduleReady ms => Sys2Proof.Machine.execModuleReady ms s
  | .mrstNAssert => Sys2Proof.Machine.execMrstNAssert s
  | .mrstNRelease => Sys2Proof.Machine.execMrstNRelease s
  | .perstAssert => Sys2Proof.Machine.execPerstAssert s
  | .perstRelease => Sys2Proof.Machine.execPerstRelease s
  | .inputProtectOff => Sys2Proof.Machine.execInputProtectOff s
  | .railFailure rail k => Sys2Proof.Machine.execRailFailure rail k s
  | .thermalTrip => Sys2Proof.Machine.execThermalTrip s
  | .inputRemovalClear => Sys2Proof.Machine.execInputRemovalClear s
  | .powerSample doms mv ma mw tj dram optic cracked => Sys2Proof.Machine.execPowerSample doms mv ma mw tj dram optic cracked s
  | .emergencyTrigger k => Sys2Proof.Machine.execEmergencyTrigger k s
  | .emergencyStepFurther k => Sys2Proof.Machine.execEmergencyStepFurther k s
  | .emergencyStepUp => Sys2Proof.Machine.execEmergencyStepUp s
  | .slowNoticeReceive p => Sys2Proof.Machine.execSlowNoticeReceive p s
  | .pldmSetPowerState v found => Sys2Proof.Machine.execPldmSetPowerState v found s
  | .bellExpectedTime => Sys2Proof.Machine.execBellExpectedTime s
  | .bellFire fails => Sys2Proof.Machine.execBellFire fails s
  | .bellOverrun fails => Sys2Proof.Machine.execBellOverrun fails s
  | .lotAbortNoticeReceive p => Sys2Proof.Machine.execLotAbortNoticeReceive p s
  | .bellGuardStart => Sys2Proof.Machine.execBellGuardStart s
  | .switchWindowOpen => Sys2Proof.Machine.execSwitchWindowOpen s
  | .watchmanHoldSample => Sys2Proof.Machine.execWatchmanHoldSample s
  | .patternLoad p k install => Sys2Proof.Machine.execPatternLoad p k install s
  | .sequencerStep p => Sys2Proof.Machine.execSequencerStep p s
  | .waitForBell p => Sys2Proof.Machine.execWaitForBell p s
  | .loomOverwriteStream p ups accUps => Sys2Proof.Machine.execLoomOverwriteStream p ups accUps s
  | .loomAccumulateStream p ups accUps => Sys2Proof.Machine.execLoomAccumulateStream p ups accUps s
  | .loomDrainOnly p accUps => Sys2Proof.Machine.execLoomDrainOnly p accUps s
  | .shuttleLoad p => Sys2Proof.Machine.execShuttleLoad p s
  | .shuttleSwap p => Sys2Proof.Machine.execShuttleSwap p s
  | .sievePass p => Sys2Proof.Machine.execSievePass p s
  | .scatterPass p ups => Sys2Proof.Machine.execScatterPass p ups s
  | .overflowPass p ups => Sys2Proof.Machine.execOverflowPass p ups s
  | .granaryDrain p => Sys2Proof.Machine.execGranaryDrain p s
  | .binsDrain p => Sys2Proof.Machine.execBinsDrain p s
  | .accumulatorClearOnly p => Sys2Proof.Machine.execAccumulatorClearOnly p s
  | .fullerPass p ups => Sys2Proof.Machine.execFullerPass p ups s
  | .reduction p ups => Sys2Proof.Machine.execReduction p ups s
  | .reductionResultWrite p => Sys2Proof.Machine.execReductionResultWrite p s
  | .memoryWrite p => Sys2Proof.Machine.execMemoryWrite p s
  | .memoryRead p => Sys2Proof.Machine.execMemoryRead p s
  | .storeWrite p => Sys2Proof.Machine.execStoreWrite p s
  | .millPost p => Sys2Proof.Machine.execMillPost p s
  | .linkSend p => Sys2Proof.Machine.execLinkSend p s
  | .borrowCopy p => Sys2Proof.Machine.execBorrowCopy p s
  | .clerkWake p => Sys2Proof.Machine.execClerkWake p s
  | .channelTokenSend p => Sys2Proof.Machine.execChannelTokenSend p s
  | .barrierArrive p => Sys2Proof.Machine.execBarrierArrive p s
  | .flagRaise p => Sys2Proof.Machine.execFlagRaise p s
  | .fabricInWrite p => Sys2Proof.Machine.execFabricInWrite p s
  | .fabricOutSend p ups => Sys2Proof.Machine.execFabricOutSend p ups s
  | .gatherBufferDrain p => Sys2Proof.Machine.execGatherBufferDrain p s
  | .eccWriteBack p => Sys2Proof.Machine.execEccWriteBack p s
  | .clerkInstruction p ups => Sys2Proof.Machine.execClerkInstruction p ups s
  | .clerkLoad p ups => Sys2Proof.Machine.execClerkLoad p ups s
  | .clerkStore p => Sys2Proof.Machine.execClerkStore p s
  | .xlRep p => Sys2Proof.Machine.execXlRep p s
  | .xlRepi p => Sys2Proof.Machine.execXlRepi p s
  | .xlQuit p => Sys2Proof.Machine.execXlQuit p s
  | .bellWait p => Sys2Proof.Machine.execBellWait p s
  | .lrW p => Sys2Proof.Machine.execLrW p s
  | .scW p => Sys2Proof.Machine.execScW p s
  | .fence p => Sys2Proof.Machine.execFence p s
  | .fenceI p => Sys2Proof.Machine.execFenceI p s
  | .wfi p => Sys2Proof.Machine.execWfi p s
  | .mret p => Sys2Proof.Machine.execMret p s
  | .trapEntry p ups => Sys2Proof.Machine.execTrapEntry p ups s
  | .qpopRead p => Sys2Proof.Machine.execQpopRead p s
  | .qwRead p => Sys2Proof.Machine.execQwRead p s
  | .qsendWrite p => Sys2Proof.Machine.execQsendWrite p s
  | .imFillWrite p => Sys2Proof.Machine.execImFillWrite p s
  | .seqFlagsSet p => Sys2Proof.Machine.execSeqFlagsSet p s
  | .bellHoldWrite p => Sys2Proof.Machine.execBellHoldWrite p s
  | .clkStatusClear p => Sys2Proof.Machine.execClkStatusClear p s
  | .clkFailWrite p => Sys2Proof.Machine.execClkFailWrite p s
  | .amaxReadClear p => Sys2Proof.Machine.execAmaxReadClear p s
  | .counterReadClear p => Sys2Proof.Machine.execCounterReadClear p s
  | .csrWrite p => Sys2Proof.Machine.execCsrWrite p s
  | .routerHop p o corr bad => Sys2Proof.Machine.execRouterHop p o corr bad s
  | .channelEntryDelivery p => Sys2Proof.Machine.execChannelEntryDelivery p s
  | .creditReturnDelivery p => Sys2Proof.Machine.execCreditReturnDelivery p s
  | .barrierArriveCombine p input => Sys2Proof.Machine.execBarrierArriveCombine p input s
  | .flagRaiseCombine p input => Sys2Proof.Machine.execFlagRaiseCombine p input s
  | .barrierReleaseDelivery p => Sys2Proof.Machine.execBarrierReleaseDelivery p s
  | .flagBroadcastDelivery p => Sys2Proof.Machine.execFlagBroadcastDelivery p s
  | .writeCompletionDelivery p => Sys2Proof.Machine.execWriteCompletionDelivery p s
  | .rtSelWrite p => Sys2Proof.Machine.execRtSelWrite p s
  | .stackReadRequest k corr bad => Sys2Proof.Machine.execStackReadRequest k corr bad s
  | .stackMemoryWrite k => Sys2Proof.Machine.execStackMemoryWrite k s
  | .stackRemoteRequest k => Sys2Proof.Machine.execStackRemoteRequest k s
  | .mergeWindowClose k corr => Sys2Proof.Machine.execMergeWindowClose k corr s
  | .millPostReceive k => Sys2Proof.Machine.execMillPostReceive k s
  | .millDescriptorTake k n => Sys2Proof.Machine.execMillDescriptorTake k n s
  | .millSgd k n res bad => Sys2Proof.Machine.execMillSgd k n res bad s
  | .millAdam k n res bad => Sys2Proof.Machine.execMillAdam k n res bad s
  | .millLion k n res bad => Sys2Proof.Machine.execMillLion k n res bad s
  | .millOrderedReduction k n res bad => Sys2Proof.Machine.execMillOrderedReduction k n res bad s
  | .reductionSlotArrival k res bad => Sys2Proof.Machine.execReductionSlotArrival k res bad s
  | .millGatherRows k n res bad => Sys2Proof.Machine.execMillGatherRows k n res bad s
  | .millScatterAdd k n res bad => Sys2Proof.Machine.execMillScatterAdd k n res bad s
  | .millCopyConvert k n bad => Sys2Proof.Machine.execMillCopyConvert k n bad s
  | .millFill k n bad => Sys2Proof.Machine.execMillFill k n bad s
  | .dramRefresh k => Sys2Proof.Machine.execDramRefresh k s
  | .patrolScrub k corr bad => Sys2Proof.Machine.execPatrolScrub k corr bad s
  | .interleaveImbalance k => Sys2Proof.Machine.execInterleaveImbalance k s
  | .ucieModuleFence k m => Sys2Proof.Machine.execUcieModuleFence k m s
  | .portSignalDetect p lanes => Sys2Proof.Machine.execPortSignalDetect p lanes s
  | .laneTrainTimeout p lane => Sys2Proof.Machine.execLaneTrainTimeout p lane s
  | .portTrainingComplete p peerMod peerPort lat map ls => Sys2Proof.Machine.execPortTrainingComplete p peerMod peerPort lat map ls s
  | .laneQualified p lane cbits uncorr secs ratio => Sys2Proof.Machine.execLaneQualified p lane cbits uncorr secs ratio s
  | .portErrorRatioExit p lane => Sys2Proof.Machine.execPortErrorRatioExit p lane s
  | .lossOfSignal p lane => Sys2Proof.Machine.execLossOfSignal p lane s
  | .laserMonitorSample inputs lanes => Sys2Proof.Machine.execLaserMonitorSample inputs lanes s
  | .lightRestored j => Sys2Proof.Machine.execLightRestored j s
  | .lkCtlRetrain p v => Sys2Proof.Machine.execLkCtlRetrain p v s
  | .lkCtlEnWrite p v => Sys2Proof.Machine.execLkCtlEnWrite p v s
  | .lkPeerExpWrite p v => Sys2Proof.Machine.execLkPeerExpWrite p v s
  | .flitTransmit p => Sys2Proof.Machine.execFlitTransmit p s
  | .dataFlitReceive p fl => Sys2Proof.Machine.execDataFlitReceive p fl s
  | .retryRequestReceive p fl => Sys2Proof.Machine.execRetryRequestReceive p fl s
  | .retryRequestRepeat p => Sys2Proof.Machine.execRetryRequestRepeat p s
  | .retryGiveUp p silent => Sys2Proof.Machine.execRetryGiveUp p silent s
  | .probeFlitReceive p fl echo rtt turn => Sys2Proof.Machine.execProbeFlitReceive p fl echo rtt turn s
  | .bellFlitReceive p fl arr => Sys2Proof.Machine.execBellFlitReceive p fl arr s
  | .bellFlitLost p => Sys2Proof.Machine.execBellFlitLost p s
  | .linkStateFlitReceive p fl => Sys2Proof.Machine.execLinkStateFlitReceive p fl s
  | .spineRouteLookup p inj => Sys2Proof.Machine.execSpineRouteLookup p inj s
  | .undeliverableReportReceive p => Sys2Proof.Machine.execUndeliverableReportReceive p s
  | .localDelivery p => Sys2Proof.Machine.execLocalDelivery p s
  | .reeveMessageReceive p => Sys2Proof.Machine.execReeveMessageReceive p s
  | .clockSourceLoss => Sys2Proof.Machine.execClockSourceLoss s
  | .clockSourceLost => Sys2Proof.Machine.execClockSourceLost s
  | .haywardSliceStart r => Sys2Proof.Machine.execHaywardSliceStart r s
  | .haywardSliceComplete r cols words other => Sys2Proof.Machine.execHaywardSliceComplete r cols words other s
  | .sliceAbandon r => Sys2Proof.Machine.execSliceAbandon r s
  | .migrationStraightThrough r => Sys2Proof.Machine.execMigrationStraightThrough r s
  | .migrationAbandon r => Sys2Proof.Machine.execMigrationAbandon r s
  | .migrationRetry r => Sys2Proof.Machine.execMigrationRetry r s
  | .patternSetVerify ok => Sys2Proof.Machine.execPatternSetVerify ok s
  | .failureEvent => Sys2Proof.Machine.execFailureEvent s
  | .contextReset n => Sys2Proof.Machine.execContextReset n s
  | .engineResetTile p found => Sys2Proof.Machine.execEngineResetTile p found s
  | .engineResetMill k clears => Sys2Proof.Machine.execEngineResetMill k clears s
  | .engineResetPort p ok => Sys2Proof.Machine.execEngineResetPort p ok s
  | .partitionReset n found => Sys2Proof.Machine.execPartitionReset n found s
  | .moduleComputeReset mems found => Sys2Proof.Machine.execModuleComputeReset mems found s
  | .resetComplete n => Sys2Proof.Machine.execResetComplete n s
  | .resetEscalate lvl u code fwd => Sys2Proof.Machine.execResetEscalate lvl u code fwd s
  | .lockstepMismatch => Sys2Proof.Machine.execLockstepMismatch s
  | .lotEnd n => Sys2Proof.Machine.execLotEnd n s
  | .completionEntryWrite n => Sys2Proof.Machine.execCompletionEntryWrite n s
  | .longOperationEnd h units ok found bolts => Sys2Proof.Machine.execLongOperationEnd h units ok found bolts s
  | .assayStart n => Sys2Proof.Machine.execAssayStart n s
  | .assayReplayEnd n => Sys2Proof.Machine.execAssayReplayEnd n s
  | .doorbellWrite pg v => Sys2Proof.Machine.execDoorbellWrite pg v s
  | .ringReset n => Sys2Proof.Machine.execRingReset n s
  | .msixMessage v => Sys2Proof.Machine.execMsixMessage v s
  | .modIdentity pg req respOk => Sys2Proof.Machine.execModIdentity pg req respOk s
  | .modGeometry pg req respOk => Sys2Proof.Machine.execModGeometry pg req respOk s
  | .modHealth pg req respOk => Sys2Proof.Machine.execModHealth pg req respOk s
  | .modReady pg req respOk => Sys2Proof.Machine.execModReady pg req respOk s
  | .modClockSet pg req respOk => Sys2Proof.Machine.execModClockSet pg req respOk s
  | .modIdSet pg req respOk => Sys2Proof.Machine.execModIdSet pg req respOk s
  | .modResetPartition pg req respOk => Sys2Proof.Machine.execModResetPartition pg req respOk s
  | .modResetModuleCompute pg req respOk => Sys2Proof.Machine.execModResetModuleCompute pg req respOk s
  | .modResetPowerCycle pg req respOk => Sys2Proof.Machine.execModResetPowerCycle pg req respOk s
  | .modTelemetry pg req respOk => Sys2Proof.Machine.execModTelemetry pg req respOk s
  | .partMbCtl pg req respOk => Sys2Proof.Machine.execPartMbCtl pg req respOk s
  | .patLoad pg req respOk => Sys2Proof.Machine.execPatLoad pg req respOk s
  | .patActivate pg req respOk => Sys2Proof.Machine.execPatActivate pg req respOk s
  | .patSwitch pg req respOk => Sys2Proof.Machine.execPatSwitch pg req respOk s
  | .patMap pg req respOk => Sys2Proof.Machine.execPatMap pg req respOk s
  | .lotSubmit pg req respOk => Sys2Proof.Machine.execLotSubmit pg req respOk s
  | .lotCancel pg req respOk => Sys2Proof.Machine.execLotCancel pg req respOk s
  | .lotQuery pg req respOk => Sys2Proof.Machine.execLotQuery pg req respOk s
  | .lotRecords pg req respOk => Sys2Proof.Machine.execLotRecords pg req respOk s
  | .lotCqSet pg req respOk => Sys2Proof.Machine.execLotCqSet pg req respOk s
  | .lotDigests pg req respOk => Sys2Proof.Machine.execLotDigests pg req respOk s
  | .stageNumericModes pg req respOk => Sys2Proof.Machine.execStageNumericModes pg req respOk s
  | .stageHalt pg req respOk => Sys2Proof.Machine.execStageHalt pg req respOk s
  | .stageHoldLimit pg req respOk => Sys2Proof.Machine.execStageHoldLimit pg req respOk s
  | .stageSplit pg req respOk => Sys2Proof.Machine.execStageSplit pg req respOk s
  | .stageBellPeriod pg req respOk => Sys2Proof.Machine.execStageBellPeriod pg req respOk s
  | .stageKeyRotation pg req respOk => Sys2Proof.Machine.execStageKeyRotation pg req respOk s
  | .stageReseed pg req respOk => Sys2Proof.Machine.execStageReseed pg req respOk s
  | .stageMergedRead pg req respOk => Sys2Proof.Machine.execStageMergedRead pg req respOk s
  | .stageCancel pg req respOk => Sys2Proof.Machine.execStageCancel pg req respOk s
  | .stageQuery pg req respOk => Sys2Proof.Machine.execStageQuery pg req respOk s
  | .ctxScanOut pg req respOk => Sys2Proof.Machine.execCtxScanOut pg req respOk s
  | .ctxScanIn pg req respOk => Sys2Proof.Machine.execCtxScanIn pg req respOk s
  | .ctxReset pg req respOk => Sys2Proof.Machine.execCtxReset pg req respOk s
  | .mntStackTest pg req respOk => Sys2Proof.Machine.execMntStackTest pg req respOk s
  | .mntScrubStacks pg req respOk => Sys2Proof.Machine.execMntScrubStacks pg req respOk s
  | .mntScrubTiles pg req respOk => Sys2Proof.Machine.execMntScrubTiles pg req respOk s
  | .mntAssay pg req respOk => Sys2Proof.Machine.execMntAssay pg req respOk s
  | .mntFwUpdate pg req respOk ver sec => Sys2Proof.Machine.execMntFwUpdate pg req respOk ver sec s
  | .mntLinkQual pg req respOk => Sys2Proof.Machine.execMntLinkQual pg req respOk s
  | .mntSpareMap pg req respOk => Sys2Proof.Machine.execMntSpareMap pg req respOk s
  | .mntLedger pg req respOk => Sys2Proof.Machine.execMntLedger pg req respOk s
  | .mntRepairLedger pg req respOk => Sys2Proof.Machine.execMntRepairLedger pg req respOk s
  | .opStatus pg req respOk => Sys2Proof.Machine.execOpStatus pg req respOk s
  | .opSuspend pg req respOk => Sys2Proof.Machine.execOpSuspend pg req respOk s
  | .opResume pg req respOk => Sys2Proof.Machine.execOpResume pg req respOk s
  | .opCancel pg req respOk => Sys2Proof.Machine.execOpCancel pg req respOk s
  | .opList pg req respOk => Sys2Proof.Machine.execOpList pg req respOk s
  | .linkRouteWrite pg req respOk => Sys2Proof.Machine.execLinkRouteWrite pg req respOk s
  | .linkRouteSwitch pg req respOk => Sys2Proof.Machine.execLinkRouteSwitch pg req respOk s
  | .linkMcastWrite pg req respOk => Sys2Proof.Machine.execLinkMcastWrite pg req respOk s
  | .sysKeys pg req respOk => Sys2Proof.Machine.execSysKeys pg req respOk s
  | .sysJoin pg req respOk => Sys2Proof.Machine.execSysJoin pg req respOk s
  | .sysLeave pg req respOk => Sys2Proof.Machine.execSysLeave pg req respOk s
  | .recRead pg req respOk => Sys2Proof.Machine.execRecRead pg req respOk s
  | .pwrLimitSet pg req respOk => Sys2Proof.Machine.execPwrLimitSet pg req respOk s
  | .pwrRead pg req respOk => Sys2Proof.Machine.execPwrRead pg req respOk s
  | .dbgRegRead pg req respOk => Sys2Proof.Machine.execDbgRegRead pg req respOk s
  | .dbgRegWrite pg req respOk => Sys2Proof.Machine.execDbgRegWrite pg req respOk s
  | .dbgStoreRead pg req respOk => Sys2Proof.Machine.execDbgStoreRead pg req respOk s
  | .dbgStoreWrite pg req respOk => Sys2Proof.Machine.execDbgStoreWrite pg req respOk s
  | .dbgImageRead pg req respOk => Sys2Proof.Machine.execDbgImageRead pg req respOk s
  | .dbgChanRead pg req respOk => Sys2Proof.Machine.execDbgChanRead pg req respOk s
  | .dbgResume pg req respOk => Sys2Proof.Machine.execDbgResume pg req respOk s
  | .dbgLooseOn pg req respOk => Sys2Proof.Machine.execDbgLooseOn pg req respOk s
  | .dbgLooseOff pg req respOk => Sys2Proof.Machine.execDbgLooseOff pg req respOk s
  | .dbgClkHalt pg req respOk => Sys2Proof.Machine.execDbgClkHalt pg req respOk s
  | .dbgClkStep pg req respOk => Sys2Proof.Machine.execDbgClkStep pg req respOk s
  | .dbgClkResume pg req respOk => Sys2Proof.Machine.execDbgClkResume pg req respOk s
  | .dbgClkSet pg req respOk => Sys2Proof.Machine.execDbgClkSet pg req respOk s
  | .dbgTraceSet pg req respOk => Sys2Proof.Machine.execDbgTraceSet pg req respOk s
  | .dbgTraceRead pg req respOk => Sys2Proof.Machine.execDbgTraceRead pg req respOk s
  | .dbgMillNan pg req respOk => Sys2Proof.Machine.execDbgMillNan pg req respOk s
  | .traceTriggerMatch n => Sys2Proof.Machine.execTraceTriggerMatch n s
  | .jtagDbgcmd data => Sys2Proof.Machine.execJtagDbgcmd data s
  | .jtagExtest v => Sys2Proof.Machine.execJtagExtest v s
  | .jtagSamplePreload v => Sys2Proof.Machine.execJtagSamplePreload v s
  | .jtagIdcode => Sys2Proof.Machine.execJtagIdcode s
  | .jtagTesteng op => Sys2Proof.Machine.execJtagTesteng op s
  | .jtagBypass => Sys2Proof.Machine.execJtagBypass s
  | .sidebandRequest msg => Sys2Proof.Machine.execSidebandRequest msg s
  | .mctpControl cmd data => Sys2Proof.Machine.execMctpControl cmd data s
  | .pldmGetSensorReading id => Sys2Proof.Machine.execPldmGetSensorReading id s
  | .pldmPollEvent => Sys2Proof.Machine.execPldmPollEvent s
  | .bar2Write off data ep => Sys2Proof.Machine.execBar2Write off data ep s
  | .assemblerTimeout n b => Sys2Proof.Machine.execAssemblerTimeout n b s
  | .bar2Read off len tag => Sys2Proof.Machine.execBar2Read off len tag s
  | .bar0MalformedAccess off len tag wr ep => Sys2Proof.Machine.execBar0MalformedAccess off len tag wr ep s
  | .hostRegisterWrite mgmt off data => Sys2Proof.Machine.execHostRegisterWrite mgmt off data s
  | .managementAccess engine write addr len data => Sys2Proof.Machine.execManagementAccess engine write addr len data s
  | .idleFlitReceive p fl => Sys2Proof.Machine.execIdleFlitReceive p fl s
  | .telemetrySweep => Sys2Proof.Machine.execTelemetrySweep s
  | .pcieConfigurationRequest write field v => Sys2Proof.Machine.execPcieConfigurationRequest write field v s
  | .i3cDynamicAddress setdasa static addr => Sys2Proof.Machine.execI3cDynamicAddress setdasa static addr s

end Sys2Proof.Machine
end

