-- ==== Sys2Proof/Safety.lean ====
section
/-! DEFINITION. What a safe state of the block is, in the terms the statements use: its sparse maps stand in their one
canonical form, and no memory lists a byte it need not list. -/

namespace Sys2Proof.Machine

/-- A byte memory stands in its canonical form: addresses strictly rising, no zero byte listed. -/
def Memory.wf (m : Mem) : Bool := memWf m

/-- A tile's store and its instruction memory stand in their canonical form. -/
def tileWf (t : Tile) : Bool := Memory.wf t.store.mem && Memory.wf t.clerk.im

/-- Every memory of a state stands in its canonical form. -/
def stateMemWf (s : State) : Bool :=
  Memory.wf s.dram && Memory.wf s.reeve.sram && s.tiles.all (fun q => tileWf q.2) && s.reeve.pages.all (fun q => Memory.wf q.2.cmd)

/-- A state in which nothing has stopped the block: no input lost, no thermal trip latched. -/
def powered (s : State) : Bool := s.pins.inputGood && !s.pins.thermLatched && s.start.phase != 0

/-- A command that works on one tile: nothing outside that tile changes but the lots of its partition and what the Reeve
has in hand (events, records). -/
def tileWork (p : Nat) (s t : State) : Prop :=
  t = { s with tiles := t.tiles, parts := t.parts, reeve := t.reeve } ∧ ∀ q, q ≠ p → getTile t q = getTile s q

/-- A command that works on one port: nothing but that port changes. -/
def portWork (p : Nat) (s t : State) : Prop := t = { s with ports := t.ports } ∧ ∀ q, q ≠ p → getPort t q = getPort s q

/-- A flit of a type reaches a port that receives flits, whole. -/
def flitComes (s : State) (p type : Nat) (fl : List Byte) : Prop :=
  p < 32 ∧ 3 ≤ (getPort s p).st ∧ (getPort s p).st ≤ 9 ∧ flitGood fl = true ∧ fld fl 0 1 % 16 = type

/-- The clerk of a tile can issue the instruction at its pc, which belongs to a row of the table and raises no exception
(R214 to R218, R229, R487). -/
def issues (s : State) (p : Nat) (i : Fetched) (kind : CKind) : Prop :=
  p < 4800 ∧ clerkLive (getTile s p) = true ∧ windowStalls (getTile s p) kind = false ∧ pendingIrq (getTile s p) = none
  ∧ fetch (getTile s p).clerk = .inr i ∧ kindOf i.ins = kind ∧ bpHit (getTile s p) = false ∧ i.ins ≠ .ebreak
  ∧ insExc s p i = none

/-- A command may name a partition: one of the part, the page's own unless the page is an admin's (R424). -/
def mayName (c : MCmd) (n : Nat) : Prop := n < 12 ∧ (12 ≤ c.pg ∨ n = c.pg)

/-- A command may name a logical tile of the part (R424). -/
def mayTile (c : MCmd) (l : Nat) : Prop := l < 4608 ∧ (12 ≤ c.pg ∨ logPart l = c.pg)

/-- The command that a page's head entry spells, with the request buffer it names (R418). -/
def mailOf (pg : Nat) (e : List Byte) (req : Option (List Byte)) : MCmd :=
  { pg := pg, ent := e, req := slice (req.getD []) 0 (if bitAt (fld e 2 1) 0 then fld e 0x10 4 else 0) }

/-- A request at the head of the mailbox page that has its turn, which belongs to a row and passes the checks made of every command, where the
host can serve its buffers and the answer `a` fits the response buffer (R416 to R428). -/
def taken (s : State) (pg key : Nat) (x : CSpec) (e : List Byte) (req : Option (List Byte)) (respOk : Bool) (a : Ans) :
    Prop :=
  pg < 16 ∧ headCmd s pg = some e ∧ rowOf e = key ∧ (x.req = true → req.isSome = true)
  ∧ mailCheck s (mailOf pg e req) x = none
  ∧ (a.buf.isEmpty = false → respOk = true ∧ a.buf.length ≤ cCap (mailOf pg e req))

/-- The state after a command has been answered: the response and its buffer are written, the producer and consumer indices
move, stray commands that have their turn are answered, and a change of the module's condition is reported. -/
def answered (s : State) (pg : Nat) (e : List Byte) (req : Option (List Byte)) (a : Ans) : State :=
  withHealth s (opsStart (mailDrain 256 (mailDone (mailOf pg e req) a)))

/-- A row of the mailbox table serves its command: taken, it is answered by its meaning `h` after its request buffer has been read. -/
def mailServes (i : Nat → Option (List Byte) → Bool → Instr) (key : Nat) (x : CSpec) (h : State → MCmd → Ans) : Prop :=
  ∀ (pg : Nat) (req : Option (List Byte)) (respOk : Bool) (s : State) (e : List Byte),
    taken s pg key x e req respOk (h (reqRead s (mailOf pg e req) x) (mailOf pg e req)) →
    exec (i pg req respOk) s = .next (answered s pg e req (h (reqRead s (mailOf pg e req) x) (mailOf pg e req)))

/-- One bit into a CRC register in its textbook form: shifted to the left, the polynomial added when the bit that leaves
differs from the bit that comes (R10, R311). -/
def crcTextBit (poly r : BitVec 32) (b : Bool) : BitVec 32 := if r.getLsbD 31 != b then (r <<< 1) ^^^ poly else r <<< 1

/-- A register's bits in reverse order, as a number. -/
def reflected32 (r : BitVec 32) : Nat := (upto 0 32).foldl (fun n i => 2 * n + b2n (r.getLsbD i)) 0

/-- The CRC of R10 and R311 as their parameters define it: the register set to ones, every byte's bits from the lowest up
(input reflected), the register reflected at the end, and a final XOR with ones. -/
def crcText (poly : BitVec 32) (bs : List Byte) : Nat :=
  Nat.xor (reflected32 ((bs.flatMap (fun b => (upto 0 8).map (fun i => b.getLsbD i))).foldl (crcTextBit poly) 0xFFFFFFFF#32))
    0xFFFFFFFF

/-- The nine ASCII bytes "123456789". -/
def crcCheckBytes : List Byte := [0x31, 0x32, 0x33, 0x34, 0x35, 0x36, 0x37, 0x38, 0x39]

end Sys2Proof.Machine
end

