-- ==== Sys2Proof/Certificates/Slice0/Obligations.lean ====
section
/-! DEFINITION. The statements for the provers, from the rules of spec/. -/

open Sys2Proof Sys2Proof.Machine

/-- A step at a state with a command in front of its queue is exec of that command on the state with the rest of the queue,
for every command and every state (queueing: model's choice, assumption 3). With no command waiting a step adds one to
both cycle counts when the start has a phase, changes nothing when it has none, and nothing but the clock ever (model's
choice, assumption 1). -/
def Obligations.StepRunsFrontCommandOrCycles : Prop :=
  (∀ (i : Instr) (s : State), step { s with pending := i :: s.pending } = exec i s)
  ∧ (∀ s : State, s.pending = [] → ∃ t, step s = .next t ∧ t = { s with clk := t.clk }
    ∧ (s.start.phase ≠ 0 → t.clk = { s.clk with cycles := s.clk.cycles + 1, intvCc := s.clk.intvCc + 1 })
    ∧ (s.start.phase = 0 → t = s))

/-- The reset state: every tile is Idle with TL_NUM_MODE 0x30, a scrub interval of 0x10, an empty store and its clerk held;
every stack has ML_SPLIT 0x80000CA8 and 0x18 as the scrub interval of its ML_SCRUB; every port is enabled, follows bells and
is Off; LK_MOD_ID is 0x1FFFF, the vote wait 0x20, the hop limit 0x40; the bell period is 1,000 µs and the hold limit 20
µs; no domain is on and no command waits. It meets the invariant of the queue (every waiting
command is well-formed), and every memory of it is in its canonical form. -/
def Obligations.ResetState : Prop :=
  ((∀ p, (getTile State.reset p).st = .idle ∧ (getTile State.reset p).num.mode = 0x30#32
    ∧ (getTile State.reset p).store.scrubIntv = 0x10 ∧ (getTile State.reset p).store.mem = []
    ∧ (getTile State.reset p).clerk.run = .held)
  ∧ (∀ k, (getStack State.reset k).split = 0x80000CA8 ∧ (getStack State.reset k).scrubH = 0x18)
  ∧ (∀ p, (getPort State.reset p).en = true ∧ (getPort State.reset p).follow = true ∧ (getPort State.reset p).st = 0)
  ∧ State.reset.link.modId = 0x1FFFF ∧ State.reset.link.voteW = 0x20 ∧ State.reset.link.hopLimit = 0x40
  ∧ State.reset.clk.periodUs = 1000 ∧ State.reset.clk.holdUs = 20
  ∧ State.reset.pending = [] ∧ (∀ d, domOn State.reset d = false))
  ∧ ((∀ i ∈ State.reset.pending, i.wf = true) ∧ stateMemWf State.reset = true)

/-- A command that is not well-formed (it names a unit the part does not have) is refused as noSuchUnit in every state. -/
def Obligations.StrayUnitRefused : Prop :=
  ∀ (i : Instr) (s : State), i.wf = false → exec i s = .refused .noSuchUnit

/-- Every command whose units exist completes in every state: none ends in a fault or a refusal. -/
def Obligations.WellFormedCommandsComplete : Prop :=
  ∀ (i : Instr) (s : State), i.wf = true → ∃ t, exec i s = .next t

/-- No command changes the queue: where exec answers a next state, the commands that wait are those that waited before. -/
def Obligations.CommandsKeepTheQueue : Prop :=
  ∀ (i : Instr) (s t : State), exec i s = .next t → t.pending = s.pending

/-- From every state whose waiting commands are all well-formed, as many steps as commands wait end in a next state with
an empty queue. -/
def Obligations.WellFormedQueueRunsToItsEnd : Prop :=
  ∀ s : State, (∀ i ∈ s.pending, i.wf = true) →
    ∃ t, Sys2Proof.core.run s.pending.length s = .next t ∧ t.pending = []

/-- From every state whose waiting commands are all well-formed (they name units the part has, R11), a step answers a next
state, and its waiting commands are all well-formed. -/
def Obligations.StepKeepsWellFormedQueue : Prop :=
  ∀ s : State, (∀ i ∈ s.pending, i.wf = true) → ∃ t, step s = .next t ∧ (∀ i ∈ t.pending, i.wf = true)

/-- INPUT_GOOD, MRST_N_RELEASE, PERST_ASSERT and PERST_RELEASE complete. INPUT_GOOD with 40 to 60 V when the input was not
good: the input voltage is latched, ALERT_N and THERMTRIP_N show their latches; with MRST_N high and no thermal trip
latched a start begins (phase 0x01, the next start number, not ready), with MRST_N low the start record stays, with a
trip latched the start record stays and D92 comes on (R441, R498, R499). MRST_N_RELEASE from a low MRST_N: the pin is high,
and a start begins when the input is good and THERMTRIP_N high, else nothing more changes. PERST_ASSERT: the pin is low
and the controller down with its BARs, its enables and its MSI-X table cleared, HST_SCRATCH and the assemblers kept,
nothing outside the host side changed. PERST_RELEASE: the pin is high and the controller up exactly when D95 is on, PWRGD high and
the module not lost, nothing else changed (R457, R500). -/
def Obligations.StartBeginsAndPciResets : Prop :=
  ((∀ (mv : Nat) (s : State), s.pins.inputGood = false → 40000 ≤ mv → mv ≤ 60000 →
    ∃ t, exec (.inputGood mv) s = .next t ∧ t = { s with pins := t.pins, power := t.power, start := t.start }
      ∧ t.pins = { s.pins with
          inputGood := true, alertN := !s.pins.alertLatched, thermtripN := !s.pins.thermLatched }
      ∧ t.power.inputMv = mv
      ∧ (s.pins.thermLatched = false → s.pins.mrstN = true → t.power = { s.power with inputMv := mv }
        ∧ t.start.phase = 1 ∧ t.start.number = s.start.number + 1 ∧ t.start.ready = false)
      ∧ (s.pins.thermLatched = false → s.pins.mrstN = false → t.power = { s.power with inputMv := mv } ∧ t.start = s.start)
      ∧ (s.pins.thermLatched = true → t.start = s.start ∧ ∀ d, domOn t d = (d == 92 || domOn s d)))
  ∧ (∀ s : State, s.pins.mrstN = false →
    ∃ t, exec .mrstNRelease s = .next t ∧ t = { s with pins := { s.pins with mrstN := true }, start := t.start }
      ∧ (s.pins.inputGood = true → s.pins.thermtripN = true →
        t.start.phase = 1 ∧ t.start.number = s.start.number + 1 ∧ t.start.ready = false)
      ∧ (s.pins.inputGood = false ∨ s.pins.thermtripN = false → t.start = s.start)))
  ∧ (∀ s : State,
    (∃ t, exec .perstAssert s = .next t ∧ t = { s with pins := { s.pins with perstN := false }, hst := t.hst }
      ∧ t.hst.pcieUp = false ∧ t.hst.memEn = false ∧ t.hst.busMaster = false ∧ t.hst.msixEn = false ∧ t.hst.bar0 = 0
      ∧ t.hst.bar2 = 0 ∧ t.hst.msix = [] ∧ t.hst.scratch = s.hst.scratch ∧ t.hst.asm = s.hst.asm)
    ∧ (∃ t, exec .perstRelease s = .next t ∧ t = { s with
        pins := { s.pins with perstN := true }
        hst := { s.hst with pcieUp := domOn s 95 && s.pins.pwrgd && !s.reeve.gone } }))

/-- MRST_N_ASSERT, THERMAL_TRIP, INPUT_PROTECT_OFF, INPUT_REMOVAL_CLEAR and RAIL_FAILURE complete. MRST_N_ASSERT in a start or
at work: phase 0x01, MRST_N low, LREQ_N high, D92 alone on, no tile, port, partition or DRAM content kept, but the flash, the fuses,
the repair ledger, the sideband, JTAG, HST_SCRATCH and the Reeve's records (R498). THERMAL_TRIP: the same
domains and stores, phase 0, THERMTRIP_N low and latched, a power cycle requested (R474). INPUT_PROTECT_OFF and a
failed VCORE: no domain on, phase 0, every pin at its unpowered value but MRST_N, PERST_N and the two latches, the flash,
fuses, ledger and fatal records kept; INPUT_REMOVAL_CLEAR the same with both latches cleared (R461, R499). A failed
VMILL or VD2D of stack k: the stack is lost and its two domains off. A failed VLINK or VLINKA: ALERT_N low and latched,
a power cycle requested, every port Off and D95 off (R464). A failed domain of a port pair fences both its ports (R388; that row:
model's choice, assumption 29). -/
def Obligations.PowerLoss : Prop :=
  (∀ s : State, s.pins.mrstN = true → s.pins.thermtripN = true → s.start.phase ≠ 0 →
    ∃ t, exec .mrstNAssert s = .next t ∧ t.start.phase = 1 ∧ t.start.ready = false
      ∧ t.pins = { s.pins with mrstN := false, lreqN := 0xF } ∧ (∀ d, domOn t d = (d == 92)) ∧ t.tiles = [] ∧ t.dram = []
      ∧ t.ports = [] ∧ t.parts = [] ∧ t.start.flash = s.start.flash ∧ t.start.fuses = s.start.fuses
      ∧ t.start.ledger = s.start.ledger ∧ t.side = s.side ∧ t.jtag = s.jtag ∧ t.hst.scratch = s.hst.scratch
      ∧ t.reeve.recs = s.reeve.recs)
  ∧ (∀ s : State, domOn s 92 = true → s.pins.thermLatched = false →
    ∃ t, exec .thermalTrip s = .next t ∧ t.start.phase = 0
      ∧ t.pins = { s.pins with lreqN := 0xF, thermtripN := false, thermLatched := true } ∧ (∀ d, domOn t d = (d == 92))
      ∧ t.tiles = [] ∧ t.dram = [] ∧ t.ports = [] ∧ t.parts = [] ∧ t.start.flash = s.start.flash
      ∧ t.start.ledger = s.start.ledger ∧ t.reeve.cycleReq = true)
  ∧ (∀ s : State, ∃ t, exec .inputProtectOff s = .next t ∧ (∀ k, exec (.railFailure 0 k) s = .next t)
      ∧ (∀ d, domOn t d = false) ∧ t.tiles = [] ∧ t.dram = [] ∧ t.ports = [] ∧ t.parts = [] ∧ t.start.phase = 0
      ∧ t.pins = {
          mrstN := s.pins.mrstN, perstN := s.pins.perstN
          alertLatched := s.pins.alertLatched, thermLatched := s.pins.thermLatched }
      ∧ t.start.flash = s.start.flash ∧ t.start.fuses = s.start.fuses ∧ t.start.ledger = s.start.ledger
      ∧ t.reeve.fatal = s.reeve.fatal
      ∧ exec .inputRemovalClear s
        = .next { t with pins := { mrstN := s.pins.mrstN, perstN := s.pins.perstN } })
  ∧ (∀ (s : State) (k : Nat), k < 8 → ∃ t, exec (.railFailure 1 k) s = .next t ∧ exec (.railFailure 2 k) s = .next t
    ∧ domOn t (60 + k) = false ∧ domOn t (68 + k) = false ∧ (getStack t k).lost = true)
  ∧ (∀ (s : State) (k : Nat), ∃ t, exec (.railFailure 3 k) s = .next t ∧ exec (.railFailure 4 k) s = .next t
    ∧ t.pins.alertN = false ∧ t.pins.alertLatched = true ∧ t.reeve.cycleReq = true ∧ domOn t 95 = false
    ∧ ∀ p, p < 32 → (getPort t p).st = 0)
  ∧ (∀ (s : State) (k : Nat), k < 16 → ∃ t, exec (.railFailure 6 k) s = .next t
    ∧ (getPort t k).fenced = true ∧ (getPort t (k + 16)).fenced = true)

/-- START_PHASE_COMPLETE and MODULE_READY complete. Phase 0x01 with MRST_N high ends in phase 0x02 with PWRGD high, D92 on
and the slot that the boot ROM chooses running, and in phase 0x0F with PWRGD high and ALERT_N low and latched when no
slot may run or the part is Scrapped (R441, R414, R456). Each of phases 0x02 to 0x06 ends in the one after it; phase
0x02 leaves D93 to D95 on, phase 0x03 D0 to D75, phase 0x06 every bolt unwritten and the time its tests took. Phase 0x07
ends, once, when no port blocks it, and changes the start record alone; with it ended, firmware running, a life-cycle state neither
Raw nor Scrapped and a module ID set, MODULE_READY makes the module ready in phase 0x08 with a readiness report
of 256 B that shows the phase, and changes no tile, stack, port, partition nor the clock (R454). -/
def Obligations.StartPhasesInOrder : Prop :=
  ∀ (ms : Nat) (flashOk : Bool) (ucie : List (Nat × Nat × Option Nat)) (found : List TileFound) (sense : List (Nat × Nat))
    (rows : List (Nat × Nat × Bool)) (s : State),
    (s.start.phase = 1 → s.pins.mrstN = true → bootSlot s ≠ 0 → s.start.lifeCycle ≠ .scrapped →
      ∃ t, exec (.startPhaseComplete ms flashOk ucie found sense rows) s = .next t ∧ t.start.phase = 2
        ∧ t.start.runSlot = bootSlot s ∧ t.pins = { s.pins with pwrgd := true } ∧ domOn t 92 = true)
    ∧ (s.start.phase = 1 → s.pins.mrstN = true → bootSlot s = 0 ∨ s.start.lifeCycle = .scrapped →
      ∃ t, exec (.startPhaseComplete ms flashOk ucie found sense rows) s = .next t ∧ t.start.phase = 0x0F
        ∧ t.pins = { s.pins with pwrgd := true, alertN := false, alertLatched := true })
    ∧ (2 ≤ s.start.phase → s.start.phase ≤ 6 →
      ∃ t, exec (.startPhaseComplete ms flashOk ucie found sense rows) s = .next t ∧ t.start.phase = s.start.phase + 1
        ∧ (s.start.phase = 2 → domOn t 93 = true ∧ domOn t 94 = true ∧ domOn t 95 = true)
        ∧ (s.start.phase = 3 → ∀ d, d < 76 → domOn t d = true)
        ∧ (s.start.phase = 6 → t.bolts = [] ∧ t.start.memMs = ms))
    ∧ (s.start.phase = 7 → s.start.blocking = 0 → s.start.linkDone = false →
      ∃ t, exec (.startPhaseComplete ms flashOk ucie found sense rows) s = .next t ∧ t = { s with start := t.start }
        ∧ t.start.linkDone = true ∧ t.start.phase = 7 ∧ t.start.ms = s.start.ms + ms)
    ∧ (s.start.phase = 7 → s.start.linkDone = true → s.start.runSlot ≠ 0 → s.start.lifeCycle ≠ .raw →
      s.start.lifeCycle ≠ .scrapped → s.link.modId ≠ 0x1FFFF →
      ∃ t, exec (.moduleReady ms) s = .next t ∧ t.start.phase = 8 ∧ t.start.ready = true
        ∧ t.start.readyMs = s.start.ms + ms ∧ t.start.report.length = 256
        ∧ fld t.start.report 2 1 = 8
        ∧ t.tiles = s.tiles ∧ t.mems = s.mems ∧ t.ports = s.ports ∧ t.parts = s.parts ∧ t.clk = s.clk)

/-- POWER_SAMPLE and PLDM_SET_POWER_STATE complete. A sample latches the input's mV, mA and mW, the hottest sensors and the
bell's number, and for the last domain it lists its mV and its mean and peak current; it keeps at most 100 samples of history,
and changes no limit, tile, stack, port, partition, clock, DRAM, start record, pin nor host state (R466). The power state
effecter: with the sideband not served nothing happens; before the module is ready it answers 4; a busy module
answers 4 to keep-alive and stays as it is, an idle one answers 0 and is in keep-alive with D0 to D75 off; full leaves keep-alive
and answers 0; a state the module is in already is answered 0 and changes nothing, any other value 2 (R475, R476). -/
def Obligations.PowerSampleAndKeepAlive : Prop :=
  (∀ (doms : List (Nat × Nat × Nat × Nat)) (mv ma mw tj dram optic : Nat) (cracked : List Nat) (s : State),
    ∃ t, exec (.powerSample doms mv ma mw tj dram optic cracked) s = .next t
      ∧ t.power.inputMv = mv ∧ t.power.inputMa = ma ∧ t.power.inputMw = mw ∧ t.power.tj = tj % 65536
      ∧ t.power.dram = dram % 65536 ∧ t.power.optic = optic % 65536 ∧ t.power.sampleBell = s.clk.bell % 2 ^ 48
      ∧ (∀ pre d v m k, doms = pre ++ [(d, v, m, k)] → d < 96 → (kvGet {} t.power.sample d).mv = v
        ∧ (kvGet {} t.power.sample d).mean = m ∧ (kvGet {} t.power.sample d).peak = k)
      ∧ t.power.hist.length ≤ 100 ∧ t.power.limitMw = s.power.limitMw ∧ t.power.partLimit = s.power.partLimit
      ∧ t.tiles = s.tiles ∧ t.mems = s.mems ∧ t.ports = s.ports ∧ t.parts = s.parts ∧ t.clk = s.clk ∧ t.dram = s.dram
      ∧ t.start = s.start ∧ t.pins = s.pins ∧ t.hst = s.hst)
  ∧ (∀ (found : List TileFound) (v : Nat) (s : State),
    (sideServes s = false → exec (.pldmSetPowerState v found) s = .next s)
    ∧ (sideServes s = true → s.start.ready = false →
      exec (.pldmSetPowerState v found) s = .next { s with out := s.out ++ [⟨3, 0, [4]⟩] })
    ∧ (sideServes s = true → s.start.ready = true →
      (s.power.keepAlive = false → keepBusy s = true →
        exec (.pldmSetPowerState 2 found) s = .next { s with out := s.out ++ [⟨3, 0, [4]⟩] })
      ∧ (s.power.keepAlive = false → keepBusy s = false →
        ∃ t, exec (.pldmSetPowerState 2 found) s = .next t ∧ t.power.keepAlive = true
          ∧ (∀ d, d < 76 → domOn t d = false) ∧ ⟨3, 0, [0]⟩ ∈ t.out)
      ∧ (s.power.keepAlive = true →
        (∃ t, exec (.pldmSetPowerState 1 found) s = .next t ∧ t.power.keepAlive = false ∧ ⟨3, 0, [0]⟩ ∈ t.out)
        ∧ exec (.pldmSetPowerState 2 found) s = .next { s with out := s.out ++ [⟨3, 0, [0]⟩] })
      ∧ (s.power.keepAlive = false →
        exec (.pldmSetPowerState 1 found) s = .next { s with out := s.out ++ [⟨3, 0, [0]⟩] })
      ∧ (v ≠ 1 → v ≠ 2 → exec (.pldmSetPowerState v found) s = .next { s with out := s.out ++ [⟨3, 0, [2]⟩] })))

/-- EMERGENCY_TRIGGER, EMERGENCY_STEP_FURTHER, EMERGENCY_STEP_UP and SLOW_NOTICE_RECEIVE complete. Outside keep-alive: a
trigger announces the step after the one last announced, a trigger still present after a step has taken effect, with no notice of
the module's own waiting, the step after the one in force, the release the step before the one last announced; at step 4
the first two, and at step 0 the last, change nothing (R471, R472). What announcing a step does: one notice more, of that step and
for a later bell, the next sequence number, a Reeve message with it on each Up port that follows bells, and nothing else. A slow
notice of a step up to 4 whose sequence number is new is recorded with its bell, and goes out on each Up port that follows bells but
its own; one heard before is only taken from the port (R473). -/
def Obligations.EmergencyStepsAndSlowNotices : Prop :=
  ((∀ (k : Nat) (s : State), k < 5 → s.power.keepAlive = false →
    (2 ≤ s.start.phase → pendStep s < 4 → exec (.emergencyTrigger k) s = .next (stepAnnounce s (pendStep s + 1)))
    ∧ (4 ≤ pendStep s → exec (.emergencyTrigger k) s = .next s)
    ∧ (s.clk.step ≠ 0 → ownNotices s = [] → s.clk.step < 4 →
      exec (.emergencyStepFurther k) s = .next (stepAnnounce s (s.clk.step + 1)))
    ∧ (4 ≤ s.clk.step → exec (.emergencyStepFurther k) s = .next s)
    ∧ (pendStep s ≠ 0 → exec .emergencyStepUp s = .next (stepAnnounce s (pendStep s - 1)))
    ∧ (pendStep s = 0 → exec .emergencyStepUp s = .next s))
  ∧ (∀ (s t : State) (v : Nat), t = stepAnnounce s v →
    t = { s with clk := t.clk, ports := t.ports } ∧ pendStep t = v ∧ t.clk.noticeSeq = s.clk.noticeSeq + 1
      ∧ t.clk.step = s.clk.step
      ∧ ∃ n : Notice, t.clk.notices = s.clk.notices ++ [n] ∧ n.step = v ∧ n.seq = s.clk.noticeSeq + 1 ∧ s.clk.bell < n.target
        ∧ ∀ p, p < 32 →
          (portUp (getPort s p) = true → (getPort s p).followOn = true → kvGet [] (getPort t p).txQ 3
            = kvGet [] (getPort s p).txQ 3 ++ [reeveMsg s p (noticePay n)])
          ∧ (portUp (getPort s p) = false ∨ (getPort s p).followOn = false → getPort t p = getPort s p)))
  ∧ (∀ (p : Nat) (s s1 : State) (m : List Byte), p < 32 → hereFront s p 6 = some (m, s1) → fld (mPay m) 0 1 = 0x21 →
    fld (mPay m) 1 1 ≤ 4 →
    (kvGet 0 s.clk.seqs (fld (mPay m) 4 4 % 2 ^ 17) ≤ fld (mPay m) 0x10 4 →
      ∃ t n, exec (.slowNoticeReceive p) s = .next t ∧ t = { s with clk := t.clk, ports := t.ports }
        ∧ n = (⟨fld (mPay m) 4 4 % 2 ^ 17, fld (mPay m) 0x10 4, fld (mPay m) 1 1, fld (mPay m) 8 8 % 2 ^ 48⟩ : Notice)
        ∧ t.clk.notices = s.clk.notices ++ [n]
        ∧ kvGet 0 t.clk.seqs (fld (mPay m) 4 4 % 2 ^ 17) = fld (mPay m) 0x10 4 + 1 ∧ t.clk.step = s.clk.step
        ∧ getPort t p = getPort s1 p
        ∧ ∀ q, q < 32 → q ≠ p → portUp (getPort s q) = true → (getPort s q).followOn = true →
          kvGet [] (getPort t q).txQ 3 = kvGet [] (getPort s q).txQ 3 ++ [reeveMsg s q (noticePay n)])
    ∧ (fld (mPay m) 0x10 4 < kvGet 0 s.clk.seqs (fld (mPay m) 4 4 % 2 ^ 17) → exec (.slowNoticeReceive p) s = .next s1))

/-- BELL_GUARD_START, BELL_EXPECTED_TIME, SWITCH_WINDOW_OPEN and WATCHMAN_HOLD_SAMPLE complete. The guard opens 256 cc before
the expected time (R39); at the expected time a module holds unless it is ready and done by then (R45, R46); neither
moves the bell's number. 3,500 cc before the expected time every switch due at the next bell is evaluated (R58). A hold
sample is taken 4,096 cc after the last one, or after the expected time (R405). A guard or a switch window within the guard, an
expected time without a guard, and a firing, an overrun or a hold sample before the expected time, change nothing, nor do
a guard, an expected time, a firing or an overrun with D93 off. -/
def Obligations.GuardWindowAndHoldSamples : Prop :=
  ((∀ s : State, s.clk.guard = false → domOn s 93 = true →
    ∃ t, exec .bellGuardStart s = .next t ∧ t.clk.guard = true ∧ t.clk.bell = s.clk.bell
      ∧ t.clk.intvCc = max s.clk.intvCc (expectCc s - 256)
      ∧ t.clk.cycles = s.clk.cycles + (expectCc s - 256 - s.clk.intvCc)
      ∧ t.clk.expected = s.clk.expected ∧ t.clk.holding = s.clk.holding)
  ∧ (∀ s : State, s.clk.guard = true → s.clk.expected = false → domOn s 93 = true →
    ∃ t, exec .bellExpectedTime s = .next t ∧ t = { s with clk := t.clk } ∧ t.clk.expected = true ∧ t.clk.guard = true
      ∧ t.clk.bell = s.clk.bell ∧ t.clk.intvCc = max s.clk.intvCc (expectCc s)
      ∧ (t.clk.holding = false ↔ moduleReady (advanceTo s (expectCc s)) = true ∧ moduleDone (advanceTo s (expectCc s)) ≤ expectCc s))
  ∧ (∀ s : State, s.clk.guard = true → exec .bellGuardStart s = .next s ∧ exec .switchWindowOpen s = .next s)
  ∧ (∀ s : State, s.clk.guard = false → exec .bellExpectedTime s = .next s)
  ∧ (∀ (fails : List Nat) (s : State), domOn s 93 = false → exec .bellGuardStart s = .next s
    ∧ exec .bellExpectedTime s = .next s ∧ exec (.bellFire fails) s = .next s ∧ exec (.bellOverrun fails) s = .next s)
  ∧ (∀ (fails : List Nat) (s : State), s.clk.expected = false →
    exec (.bellFire fails) s = .next s ∧ exec (.bellOverrun fails) s = .next s ∧ exec .watchmanHoldSample s = .next s))
  ∧ ((∀ s : State, s.clk.guard = false → switchesDue s ≠ [] →
    ∃ t, exec .switchWindowOpen s = .next t ∧ t.clk.bell = s.clk.bell ∧ t.clk.guard = false
      ∧ t.clk.intvCc = max s.clk.intvCc (expectCc s - 3500)
      ∧ (∀ c ∈ t.reeve.changes, c.outcome = 0 → c.kind = 0x11 → c.target ≤ s.clk.bell + 1 → c.evaluated = true))
  ∧ (∀ s : State, s.clk.guard = false → switchesDue s = [] → exec .switchWindowOpen s = .next s)
  ∧ (∀ s : State, s.clk.expected = true → moduleReady s = false →
    max s.clk.holdSample (expectCc s) + 4096 < expectCc s + holdCc s →
    ∃ t, exec .watchmanHoldSample s = .next t ∧ t.clk.bell = s.clk.bell ∧ t.clk.expected = true
      ∧ t.clk.intvCc = max s.clk.intvCc (max s.clk.holdSample (expectCc s) + 4096)
      ∧ exec .watchmanHoldSample s
        = .next (withHealth s (watchTake (advanceTo s (max s.clk.holdSample (expectCc s) + 4096))))))

/-- BELL_FIRE completes. After the expected time a module that is ready, and done within its hold limit, fires: the bell's number
goes up by one, the interval's count starts at 0, the cycles up to the firing are counted, the local hold is the cc from the expected
time to the firing, and guard, expected time, hold and delay are cleared. A module that is not ready does
not fire, nor one whose hold would go beyond the limit (R45, R47). -/
def Obligations.BellFiresWhenReady : Prop :=
  ∀ (fails : List Nat) (s : State), s.clk.expected = true → domOn s 93 = true →
    (moduleReady s = true → fireCc s ≤ expectCc s + holdCc s →
      ∃ t, exec (.bellFire fails) s = .next t ∧ t.clk.bell = s.clk.bell + 1 ∧ t.clk.intvCc = 0
        ∧ t.clk.cycles = s.clk.cycles + (fireCc s - s.clk.intvCc) ∧ t.clk.localHold = fireCc s - expectCc s
        ∧ t.clk.localHold ≤ holdCc s
        ∧ t.clk.guard = false ∧ t.clk.expected = false ∧ t.clk.holding = false ∧ t.clk.expectDelay = 0)
    ∧ (moduleReady s = false → exec (.bellFire fails) s = .next s)
    ∧ (expectCc s + holdCc s < fireCc s → exec (.bellFire fails) s = .next s)

/-- BELL_OVERRUN and LOT_ABORT_NOTICE_RECEIVE complete. After the expected time, with a context not ready when the local hold
reaches its limit, the bell fires at that limit: its number goes up by one, its counts start anew, the local hold is the limit,
and the contexts that are late are stopped before it fires; with none late nothing changes (R49). Stopping one, outside a
replay: an event 0x0151 with the partition and the bell, abort notices to its consumers, its lots ended and its context
reset begun with code 0x0025 where the watchman finds one of its tiles in a cycle, else 0x0022 (R49, R50, R405). An abort notice: what
it names joins the abandoned items, those there before stay, the message leaves its port, and nothing outside that port's
record changes (R50). -/
def Obligations.OverrunAndAbortNotice : Prop :=
  ((∀ (fails : List Nat) (s : State), s.clk.expected = true → domOn s 93 = true →
    (parts.any (overrunCtx s) = true →
      ∃ t s1, exec (.bellOverrun fails) s = .next t ∧ t.clk.bell = s.clk.bell + 1 ∧ t.clk.intvCc = 0
        ∧ t.clk.cycles = s.clk.cycles + (expectCc s + holdCc s - s.clk.intvCc) ∧ t.clk.localHold = holdCc s
        ∧ t.clk.guard = false ∧ t.clk.expected = false ∧ t.clk.holding = false
        ∧ s1 = modClk (advanceTo s (expectCc s + holdCc s)) (fun c => { c with
            localHold := holdCc s, overruns := c.overruns ++ [c.bell] })
        ∧ t = withHealth s (fireBell fails ((parts.filter (overrunCtx s)).foldl (overrunStop (hungNodes (watchSample s1)))
            (modClk s1 (fun c => { c with watch := watchSample s1, holdSample := c.intvCc })))))
    ∧ (parts.any (overrunCtx s) = false → exec (.bellOverrun fails) s = .next s))
  ∧ (∀ (hung : List Nat) (s : State) (n : Nat), replaying s n = false → ∃ (code : Nat) (e : Event),
    code = (if ∃ p ∈ hung, physPart p = n then 0x0025 else 0x0022) ∧ e.code = 0x0151 ∧ e.part = n ∧ e.compl = code
      ∧ e.bell = s.clk.bell
      ∧ overrunStop hung s n = beginReset (endLots (abortNotices (sendEvent s e) n s.clk.bell) n code) n 1 code))
  ∧ (∀ (p : Nat) (s s1 : State) (m : List Byte), p < 32 → hereFront s p 5 = some (m, s1) →
    ∃ t, exec (.lotAbortNoticeReceive p) s = .next t
      ∧ (∀ x, x ∈ t.link.abandoned ↔ x ∈ s.link.abandoned ∨ x = ⟨mSrc m, fld m 0x18 8, mKey m, mStamp m⟩)
      ∧ t = { s with ports := t.ports, link := { s.link with abandoned := t.link.abandoned } } ∧ t.ports = s1.ports
      ∧ (∀ q, q ≠ p → getPort t q = getPort s q)
      ∧ ∃ x ∈ (getPort s p).here, x.2 = m ∧ mKind m = 5 ∧ (getPort t p).here = (getPort s p).here.erase x)

/-- The bell period: staged in whole microseconds from 20 to 10,000 and refused outside, 1,000 after reset; an interval at
period P is 1,400 P cc from its cc 0 to the firing when the module is done by then and nothing extends it, 1,400,000
at the default and 28,000 at the minimum (R36). -/
def Obligations.BellPeriodInCycles : Prop :=
  State.reset.clk.periodUs = 1000
  ∧ (∀ (s : State) (c : MCmd), cPar c 1 1 = 0xFF →
    (20 ≤ cPar c 16 2 → cPar c 16 2 ≤ 10000 → stagePeriod s c = stagePut s c 5 0xFFFF (cBell c 8) (toLe 2 (cPar c 16 2)))
    ∧ (cPar c 16 2 < 20 ∨ 10000 < cPar c 16 2 → stagePeriod s c = deny s 0x12 0x30))
  ∧ (∀ (s : State) (c : Change), c.kind = 5 → (changeApply s c).clk.periodUs = fld c.value 0 2)
  ∧ (∀ (P : Nat) (fails : List Nat) (s : State), s.clk.periodUs = P → s.clk.expected = true → domOn s 93 = true → moduleReady s = true →
    moduleDone s ≤ 1400 * P → s.clk.intvCc ≤ 1400 * P → s.clk.extCc = 0 → s.clk.expectDelay = 0 →
    ∃ t, exec (.bellFire fails) s = .next t ∧ t.clk.bell = s.clk.bell + 1 ∧ t.clk.intvCc = 0
      ∧ t.clk.cycles - s.clk.cycles + s.clk.intvCc = 1400 * P
      ∧ (P = 1000 → t.clk.cycles - s.clk.cycles + s.clk.intvCc = 1400000)
      ∧ (P = 20 → t.clk.cycles - s.clk.cycles + s.clk.intvCc = 28000))

/-- PATTERN_LOAD, SEQUENCER_STEP and WAIT_FOR_BELL complete. A load of a bank that is not the active one, on a tile that is
Idle or Joining while no vote puts loads off, leaves the state that loadBank gives, in which a bank that is not installed
is Ready when the checks left no load error and Staged otherwise (R57, R79). A step of cond 0 to 4 or 7 that the sequencer
can fire now fires its units and ends as stepEnd says; one whose units cannot fire stops the tile (R62, R65). A step of cond 5 or 6
fires its units and waits with its step, its counters and its fired work as the firing left them, and changes no other
tile (R63). What stepEnd does without a counter operation: cond 0 goes to next_t after its hold; cond 1 goes to next_t
when its counter is 0, cond 2 when it is not, and else to next_f (R62). -/
def Obligations.LoadsAndStepsRun : Prop :=
  (∀ (p k : Nat) (install : Bool) (s : State), p < 4800 → k < 4 → loadsDeferred s = false →
    (getTile s p).st = .idle ∨ (getTile s p).st = .joining →
    ((getTile s p).installed && (getTile s p).actBank == k) = false →
    ∃ t, exec (.patternLoad p k install) s = .next t ∧ t = loadBank s p k install
      ∧ (install = false →
        kvGet .empty (getTile t p).banks k = (if (getTile t p).loadErr = 0 then .ready else .staged)))
  ∧ (∀ (p : Nat) (s : State), p < 4800 → seqReady (getTile s p) = true → swCond (seqWord (getTile s p)) ≠ 5 →
      swCond (seqWord (getTile s p)) ≠ 6 →
      (∀ t1, stepFire (getTile s p) (logD s p) = some t1 →
        ∃ t, exec (.sequencerStep p) s = .next t ∧ t = stepEnd (traceStep (setTile s p t1) p (getTile s p).seq.step
          (swFire (seqWord (getTile s p))) (swDesc (seqWord (getTile s p))) (getTile s p).seq.nextCc) p
          (seqWord (getTile s p)) (getTile s p).seq.nextCc)
      ∧ (stepFire (getTile s p) (logD s p) = none →
        ∃ t, exec (.sequencerStep p) s = .next t ∧ t = applyCtx s (ctxViolate (ctxOf s p) (getTile s p).seq.nextCc)
          ∧ (getTile t p).stop.isSome = true))
  ∧ (∀ (p : Nat) (s : State), p < 4800 → seqReady (getTile s p) = true →
      swCond (seqWord (getTile s p)) = 5 ∨ swCond (seqWord (getTile s p)) = 6 →
      ∀ t1, stepFire (getTile s p) (logD s p) = some t1 →
        ∃ t, exec (.waitForBell p) s = .next t ∧ (getTile t p).seq.wait = swCond (seqWord (getTile s p))
          ∧ (getTile t p).seq.step = t1.seq.step ∧ (getTile t p).seq.ctrs = t1.seq.ctrs
          ∧ (getTile t p).fired = t1.fired ∧ (∀ q, q ≠ p → getTile t q = getTile s q))
  ∧ (∀ (s : State) (p w cc : Nat), swCtrOp w = 0 → swNextT w < seqSteps (getTile s p) →
      swNextF w < seqSteps (getTile s p) →
      (swCond w = 0 → (getTile (stepEnd s p w cc) p).seq.step = swNextT w
        ∧ (getTile (stepEnd s p w cc) p).seq.nextCc = cc + swHold w)
      ∧ (swCond w = 1 → (getTile (stepEnd s p w cc) p).seq.step
        = if kvGet 0 (getTile s p).seq.ctrs (swSel w) = 0 then swNextT w else swNextF w)
      ∧ (swCond w = 2 → (getTile (stepEnd s p w cc) p).seq.step
        = if kvGet 0 (getTile s p).seq.ctrs (swSel w) = 0 then swNextF w else swNextT w))

/-- LOOM_OVERWRITE_STREAM, LOOM_ACCUMULATE_STREAM, LOOM_DRAIN_ONLY, SIEVE_PASS, SCATTER_PASS, OVERFLOW_PASS,
GRANARY_DRAIN, BINS_DRAIN, FULLER_PASS, REDUCTION, SHUTTLE_LOAD and BORROW_COPY complete. Where the oldest work that the engine was
fired with is of the command's kind and may run by the tile's own timeline, the next state is that work run whole: the
unit's pass on the tile, its entry taken from the fired work, and its reports applied (R120, R128, R145, R158, R161, R164, R179,
R185). A shuttle load and a borrow copy run the same way through shuttleRun and borrowRun (R123, R206). After a pass whose
reports do not stop the tile, the entry has left the fired work, and the tile is busy at least to the pass's last cycle. -/
def Obligations.EnginePassesRun : Prop :=
  (∀ (p : Nat) (f : Fired) (s : State), p < 4800 →
    (∀ ups accUps, firstFired (getTile s p) 0 = some f → loomReady 0 (getTile s p) f = true →
      exec (.loomOverwriteStream p ups accUps) s = .next (passRun p 0 (loomRun ups accUps) f s))
    ∧ (∀ ups accUps, firstFired (getTile s p) 0 = some f → loomReady 1 (getTile s p) f = true →
      exec (.loomAccumulateStream p ups accUps) s = .next (passRun p 0 (loomRun ups accUps) f s))
    ∧ (∀ accUps, firstFired (getTile s p) 0 = some f → loomReady 2 (getTile s p) f = true →
      exec (.loomDrainOnly p accUps) s = .next (passRun p 0 (loomRun [] accUps) f s))
    ∧ (firstFired (getTile s p) 5 = some f → exec (.sievePass p) s = .next (passRun p 5 sievePass f s))
    ∧ (∀ ups, firstFired (getTile s p) 0 = some f → scatterIs false (getTile s p) f = true →
      exec (.scatterPass p ups) s = .next (passRun p 0 (fun f c => scatterMain f ups c) f s))
    ∧ (∀ ups, firstFired (getTile s p) 0 = some f → scatterIs true (getTile s p) f = true →
      exec (.overflowPass p ups) s = .next (passRun p 0 (fun f c => scatterOverflow f ups c) f s))
    ∧ (firstFired (getTile s p) 6 = some f → accIs 0 false (getTile s p) f = true →
      exec (.granaryDrain p) s = .next (passRun p 6 granDrain f s))
    ∧ (firstFired (getTile s p) 6 = some f → accIs 1 false (getTile s p) f = true →
      exec (.binsDrain p) s = .next (passRun p 6 binsDrain f s))
    ∧ (∀ ups, firstFired (getTile s p) 3 = some f → timePast (getTile s p) (fulLastIn f) = true →
      drawsPast (getTile s p) f = true →
      exec (.fullerPass p ups) s = .next (passRun p 3 (fun f c => (max (fulLastIn f)
        (fulLastOut c.t.store.mem c.t.actBank f), fullerPass f ups (tapOf c.t f) c)) f s))
    ∧ (∀ ups k, firstFired (getTile s p) 4 = some f → (getTile s p).fuller.tap = some k → k.step = f.step →
      ∃ done, exec (.reduction p ups) s = .next (passRun p 4 (fun f c => (done, reductionRun f ups c)) f s))
    ∧ (firstFired (getTile s p) 1 = some f → shuttleReady (getTile s p) f = true →
      exec (.shuttleLoad p) s = .next (shuttleRun p f s))
    ∧ (firstFired (getTile s p) 9 = some f → exec (.borrowCopy p) s = .next (borrowRun p f s)))
  ∧ (∀ (p u : Nat) (pass : Fired → Ctx → Nat × Ctx) (f : Fired) (s : State),
    (pass f (ctxOf s p)).2.p = p → (∀ cause cc, Sig.stop cause cc ∉ (pass f (ctxOf s p)).2.sigs) →
    (getTile (passRun p u pass f s) p).fired = dropFirst u (pass f (ctxOf s p)).2.t.fired
    ∧ (pass f (ctxOf s p)).1 ≤ (getTile (passRun p u pass f s) p).doneCc)

/-- SHUTTLE_SWAP, ACCUMULATOR_CLEAR_ONLY, REDUCTION_RESULT_WRITE and CLERK_WAKE complete. A swap exchanges the loom's sets and keeps the store, the clerk and the formats (R124); a clear-only drain
empties the granary or the bins and keeps the store's bytes and the loom (R158); a ready reduction result for the registers goes
to TL_RED_RES0 and, for the two-value operations, TL_RED_RES1, and keeps the store and the tallies; one for the store is written as
redWrite says (R187), on a tile not in the pinfold; a wake stands pending with its step, and counts as lost when one stood
already, and keeps the store and the loom (R233). But for the store result, nothing outside the tile changes. The sixteen passes named
change, of the block, only that tile, what the partitions hold and what the Reeve holds (tileWork). -/
def Obligations.SmallPassesAndFrames : Prop :=
  (∀ (p : Nat) (f : Fired) (s : State), p < 4800 →
    (firstFired (getTile s p) 2 = some f → shuttleReady (getTile s p) f = true →
      ∃ t, exec (.shuttleSwap p) s = .next t ∧ t = setTile s p (getTile t p)
        ∧ (getTile t p).loom = { (getTile s p).loom with
            activeB := !(getTile s p).loom.activeB, swaps := (getTile s p).loom.swaps ++ [f.fireCc] }
        ∧ (getTile t p).fired = dropFirst 2 (getTile s p).fired ∧ (getTile t p).store = (getTile s p).store
        ∧ (getTile t p).clerk = (getTile s p).clerk ∧ (getTile t p).num = (getTile s p).num)
    ∧ (firstFired (getTile s p) 6 = some f → accIs 0 true (getTile s p) f = true →
      ∃ t, exec (.accumulatorClearOnly p) s = .next t ∧ t = setTile s p (getTile t p)
        ∧ (getTile t p).sparse = (if fld f.desc 1 1 = 0 then { (getTile s p).sparse with gran := [] }
            else { (getTile s p).sparse with bins := [] })
        ∧ (getTile t p).fired = dropFirst 6 (getTile s p).fired ∧ (getTile t p).store.mem = (getTile s p).store.mem
        ∧ (getTile t p).loom = (getTile s p).loom)
    ∧ (∀ r, (getTile s p).fuller.redPend = some r → (getTile s p).st ≠ .pinfold →
      timePast (getTile s p) (r.ready.headD r.readyCc) = true → timePast (getTile s p) r.readyCc = true → r.dest = 0 →
      ∃ t, exec (.reductionResultWrite p) s = .next t ∧ t = setTile s p (getTile t p)
        ∧ (getTile t p).fuller = { (getTile s p).fuller with
            redPend := none, res0 := r.vals.headD 0
            res1 := if r.pair then (r.vals.drop 1).headD 0 else (getTile s p).fuller.res1 }
        ∧ (getTile t p).store = (getTile s p).store ∧ (getTile t p).tally = (getTile s p).tally)
    ∧ (∀ r, (getTile s p).fuller.redPend = some r → (getTile s p).st ≠ .pinfold →
      timePast (getTile s p) (r.ready.headD r.readyCc) = true → r.dest = 1 →
      ∃ t, exec (.reductionResultWrite p) s = .next t ∧ t = applyCtx s (redWrite r (timePast (getTile s p)) (ctxOf s p)))
    ∧ (firstFired (getTile s p) 10 = some f →
      ∃ t, exec (.clerkWake p) s = .next t ∧ t = setTile s p (getTile t p)
        ∧ (getTile t p).clerk = { (getTile s p).clerk with
            wakePend := true, wakeStep := f.step
            wakeLost := if (getTile s p).clerk.wakePend then satAdd 16 (getTile s p).clerk.wakeLost 1
              else (getTile s p).clerk.wakeLost }
        ∧ (getTile t p).store = (getTile s p).store ∧ (getTile t p).loom = (getTile s p).loom))
  ∧ (∀ (p : Nat) (s t : State) (i : Instr),
    (i ∈ [Instr.shuttleSwap p, .sievePass p, .granaryDrain p, .binsDrain p, .accumulatorClearOnly p, .reductionResultWrite p,
        .clerkWake p]
      ∨ (∃ ups, i = .scatterPass p ups) ∨ (∃ ups, i = .overflowPass p ups)
      ∨ (∃ ups acc, i = .loomOverwriteStream p ups acc) ∨ (∃ ups acc, i = .loomAccumulateStream p ups acc)
      ∨ (∃ acc, i = .loomDrainOnly p acc) ∨ (∃ ups, i = .fullerPass p ups) ∨ (∃ ups, i = .reduction p ups)) →
    exec i s = .next t → tileWork p s t)

/-- MEMORY_WRITE, MEMORY_READ, STORE_WRITE, MILL_POST, LINK_SEND, CHANNEL_TOKEN_SEND, BARRIER_ARRIVE and FLAG_RAISE complete.
The front descriptor of a live DMA unit works on its next bolt when it is of the op: a write, a store write, a mill post and a
link send put it at the end of fabric-out's queue with its store address and its destination, a write and a post open a job of 16
or 8 answers; a multicast store write takes the mask it reads along, and one whose mask lists no member any more stops the
tile; a read that has a tag sends the request packets of the tags it takes (R282, R283, R286, R316). A token with a credit takes one
credit of its outbound entry and sends its word with 56 zero bytes behind it; an arrival and a raise are sent as
memberSend says (R67, R260). -/
def Obligations.DmaAndTokens : Prop :=
  (∀ (p : Nat) (e : DmaEnt) (s : State), p < 4800 →
    (dmaFront (getTile s p) 0 = some e →
      ∃ t j, exec (.memoryWrite p) s = .next t ∧ t = setTile s p (getTile t p)
        ∧ (getTile t p).dma.fout = (getTile s p).dma.fout ++ [j]
        ∧ (getTile t p).dma.jobs = (getTile s p).dma.jobs
          ++ [{ id := (getTile s p).dma.nextJob, op := 0, group := fld e.desc 3 1, left := 16 }]
        ∧ j = { op := 0, dest := 0, sAddr := dmaS e.desc e.ctr + 4096 * e.begun, addr := dmaBolt e.desc e.ctr + e.begun,
                job := (getTile s p).dma.nextJob, final := e.begun + 1 == dmaTotal e }
        ∧ (getTile t p).store = (getTile s p).store ∧ (getTile t p).tally = (getTile s p).tally)
    ∧ (dmaFront (getTile s p) 1 = some e → readReady p s e = true →
      ∃ t job d, exec (.memoryRead p) s = .next t ∧ job = (if e.sent = 0 then (getTile s p).dma.nextJob else e.job)
        ∧ d = (if e.sent = 0 then dmaOpen 1 (fld e.desc 3 1) 16 (dmaS e.desc e.ctr + 4096 * e.begun) (readMerged s p e)
            (getTile s p).dma else (getTile s p).dma)
        ∧ t = injectAll (setTile s p { getTile s p with
            dma := readStep e (e.sent + (readTags s p e).length) job (takeTags (readTags s p e) job d) }) p
          (readPackets (boltEp s (physPart p) (dmaBolt e.desc e.ctr + e.begun)) (dmaBolt e.desc e.ctr + e.begun)
            ((dmaS e.desc e.ctr + 4096 * e.begun) / 64) e.sent (readMerged s p e) (readTags s p e)))
    ∧ (dmaFront (getTile s p) 2 = some e →
      (bitAt (fld e.desc 2 1) 0 = false →
        ∃ t j, exec (.storeWrite p) s = .next t ∧ t = setTile s p (getTile t p)
          ∧ (getTile t p).dma.fout = (getTile s p).dma.fout ++ [j]
          ∧ j = { op := 2, dest := fld e.desc 0xE 2, sAddr := dmaS e.desc e.ctr + 4096 * e.begun,
                  addr := fld e.desc 0x10 4 + 4096 * e.begun, sub := fld e.desc 0x14 1, group := fld e.desc 3 1,
                  final := e.begun + 1 == dmaTotal e }
          ∧ (getTile t p).store = (getTile s p).store)
      ∧ (∀ m s1, bitAt (fld e.desc 2 1) 0 = true → outMask s p (fld e.desc 0x18 4) = (m, s1) →
        (maskListed m = true → ∃ t j, exec (.storeWrite p) s = .next t ∧ t = setTile s1 p (getTile t p)
          ∧ (getTile t p).dma.fout = (getTile s1 p).dma.fout ++ [j] ∧ j.mask = m
          ∧ j.sAddr = dmaS e.desc e.ctr + 4096 * e.begun ∧ j.addr = fld e.desc 0x10 4 + 4096 * e.begun)
        ∧ (maskListed m = false → ∃ t, exec (.storeWrite p) s = .next t ∧ t = dmaViolate s1 p
          ∧ (getTile t p).stop.isSome = true)))
    ∧ (dmaFront (getTile s p) 3 = some e →
      ∃ t j, exec (.millPost p) s = .next t ∧ t = setTile s p (getTile t p)
        ∧ (getTile t p).dma.fout = (getTile s p).dma.fout ++ [j]
        ∧ (getTile t p).dma.jobs = (getTile s p).dma.jobs
          ++ [{ id := (getTile s p).dma.nextJob, op := 3, group := fld e.desc 3 1, left := 8 }]
        ∧ j = { op := 3, dest := 0, sAddr := dmaBolt e.desc e.ctr, addr := 0xFFFFFF00, job := (getTile s p).dma.nextJob,
                final := e.begun + 1 == dmaTotal e })
    ∧ (dmaFront (getTile s p) 4 = some e →
      ∃ t j, exec (.linkSend p) s = .next t ∧ t = setTile s p (getTile t p)
        ∧ (getTile t p).dma.fout = (getTile s p).dma.fout ++ [j]
        ∧ j = { op := 4, dest := 0x4000 + fld e.desc 0x15 1, sAddr := dmaS e.desc e.ctr + 4096 * e.begun, addr := 0,
                group := fld e.desc 3 1, link := linkHead e.desc e.ctr e.begun (s.link.modId % 2 ^ 17) (logD s p),
                final := e.begun + 1 == dmaTotal e }))
  ∧ (∀ (p : Nat) (f : Fired) (s : State), p < 4800 → firstFired (getTile s p) 11 = some f →
    (tokenIs 0 f = true → credits (getTile s p) (fld f.desc 2 1) ≠ 0 →
      ∃ t, exec (.channelTokenSend p) s = .next t ∧ t = modTile (tokenDone p f
        (sendEntry s p (fld f.desc 2 1) (slice f.desc 0x18 8 ++ zeros 56))) p (fun t => { t with
          seq := { t.seq with nextCc := max t.seq.nextCc (ctxCc s (physPart p)) } })
        ∧ credits (getTile t p) (fld f.desc 2 1) + 1 = credits (getTile s p) (fld f.desc 2 1))
    ∧ (tokenIs 1 f = true → ∃ t, exec (.barrierArrive p) s = .next t ∧ t = memberSend p 3 f s)
    ∧ (tokenIs 2 f = true → ∃ t, exec (.flagRaise p) s = .next t ∧ t = memberSend p 5 f s))

/-- FABRIC_IN_WRITE, FABRIC_OUT_SEND, GATHER_BUFFER_DRAIN and ECC_WRITE_BACK complete. Fabric-in writes its oldest packet as
finWrite says. Fabric-out, on a tile whose fabric-out is live: a job with a line in a bank of which it holds no cell leaves
whole, counted as one refused access, and its store's bytes stay; else one that needs no tag, or has one, sends as
outSend says (R198, R282, R339). On a tile not in the pinfold the oldest gather entry drains in the clerk's cell of its
bank, and the oldest corrected line is rewritten in the copier's: its single-bit failures are gone, its bytes and every other
failure as before (R201, R207). -/
def Obligations.StoreTrafficMoves : Prop :=
  ∀ (p : Nat) (s : State), p < 4800 →
    (∀ k rest, (getTile s p).store.fin = k :: rest →
      ∃ t, exec (.fabricInWrite p) s = .next t ∧ t = finWrite s p k)
    ∧ (∀ ups j rest, (getTile (storeUpset s p ups) p).dma.fout = j :: rest →
        foutLive (getTile (storeUpset s p ups) p) = true →
        (outCells (ctxOf (storeUpset s p ups) p) j = false →
          ∃ t, exec (.fabricOutSend p ups) s = .next t ∧ t = outRefuse (storeUpset s p ups) p j
            ∧ (getTile t p).dma.fout = rest
            ∧ (getTile t p).store.cellRef = satAdd 16 (getTile s p).store.cellRef 1
            ∧ (getTile t p).store.mem = (getTile s p).store.mem)
        ∧ (outCells (ctxOf (storeUpset s p ups) p) j = true →
          outTagCount j = 0 ∨ outTags (getTile (storeUpset s p ups) p).dma j ≠ [] →
          ∃ t, exec (.fabricOutSend p ups) s = .next t ∧ t = outSend (storeUpset s p ups) p j))
    ∧ ((getTile s p).st ≠ .pinfold →
      (∀ e rest, (getTile s p).store.gbuf = e :: rest → gentCell (ctxCc s (physPart p)) (ctxOf s p) e = true →
        ∃ t, exec (.gatherBufferDrain p) s = .next t ∧ t = setTile s p (getTile t p)
          ∧ getTile t p = (gatherWrite (ctxCc s (physPart p)) (ctxTile (ctxOf s p)
              (fun t => storeMod t (fun q => { q with gbuf := rest }))) e).t)
      ∧ (∀ l rest, (getTile s p).store.wbq = l :: rest →
        portCell (ctxOf s p) 0 (lineBank l) (ctxCc s (physPart p)) = true →
        ∃ t, exec (.eccWriteBack p) s = .next t ∧ t = setTile s p (getTile t p)
          ∧ (getTile t p).store.wbq = rest ∧ (getTile t p).store.mem = (getTile s p).store.mem
          ∧ (∀ w, w ∈ (getTile t p).store.bad ↔ w ∈ (getTile s p).store.bad
            ∧ ¬ (w.2 = 1 ∧ l ≤ 8 * w.1 ∧ 8 * w.1 < l + 64))))

/-- CLERK_INSTRUCTION, CLERK_LOAD, CLERK_STORE, XL_REP, XL_REPI, XL_QUIT, BELL_WAIT, LR_W, SC_W, FENCE, FENCE_I, WFI and MRET
complete. Each that issues without an exception (issues) retires with its effect: the base set as baseExec and csrExec
give it; a load in a cell of its line's bank through loadExec, a store with room through the gather buffer (R201, R212); rep, repi and
quit arm and leave a level (R226); bell.wait, once the bell count differs from TL_BELL_SEEN, writes it to rd and
TL_BELL_SEEN and clears HOLD (R230); LR.W and SC.W in a cell of their bank (R238); FENCE with every entry able to drain drains the gather
buffer, FENCE.I clears the stale words (R215, R219); WFI with an interrupt pending in mip and enabled in mie (R233); MRET as mretExec
says (R236). Retiring itself adds one to minstret, keeps x, the store and every other tile, and goes on
where the instruction transfers, or behind it where no loop level ends (R212). -/
def Obligations.ClerkInstructionsRetire : Prop :=
  ((∀ (p : Nat) (ups : List (Nat × Nat)) (i : Fetched) (s : State), issues (imUpset s p ups) p i .base →
    (∀ f3 rd src c, i.ins ≠ .csr f3 rd src c) →
    exec (.clerkInstruction p ups) s = .next (retire (modClerk (imUpset s p ups) p
      (fun _ => (baseExec (getTile (imUpset s p ups) p).clerk i.len i.ins).1)) p i
      (baseExec (getTile (imUpset s p ups) p).clerk i.len i.ins).2.1
      (baseExec (getTile (imUpset s p ups) p).clerk i.len i.ins).2.2))
  ∧ (∀ (p : Nat) (ups : List (Nat × Nat)) (i : Fetched) (f3 rd src c : Nat) (s : State),
    issues (imUpset s p ups) p i .base → i.ins = .csr f3 rd src c →
    exec (.clerkInstruction p ups) s = .next (retire (csrExec (imUpset s p ups) p f3 rd src c) p i rd none))
  ∧ (∀ (p : Nat) (ups : List (Nat × Nat)) (i : Fetched) (f3 rd rs1 : Nat) (off : Int) (s : State),
    issues (storeUpset s p ups) p i .load → i.ins = .load f3 rd rs1 off →
    clerkCell (storeUpset s p ups) p (eaOf (getTile (storeUpset s p ups) p).clerk rs1 off) = true →
    exec (.clerkLoad p ups) s = .next (retire (loadExec (storeUpset s p ups) p f3 rd
      (eaOf (getTile (storeUpset s p ups) p).clerk rs1 off)) p i rd none))
  ∧ (∀ (p : Nat) (i : Fetched) (f3 rs1 rs2 : Nat) (off : Int) (s : State), issues s p i .store → i.ins = .store f3 rs1 rs2 off →
    storeRoom s p (eaOf (getTile s p).clerk rs1 off) (accBytes f3) = true →
    exec (.clerkStore p) s = .next (retire (atCc s p (fun cc => gatherStore cc (eaOf (getTile s p).clerk rs1 off)
      (toLe (accBytes f3) (xGet (getTile s p).clerk rs2).toNat))) p i 0 none)))
  ∧ (∀ (p : Nat) (i : Fetched) (s : State),
    (∀ lv rs1 len, issues s p i .rep → i.ins = .rep lv rs1 len →
      exec (.xlRep p) s = .next (retire (modClerk s p (fun _ =>
        (lpArm (getTile s p).clerk lv len (xGet (getTile s p).clerk rs1)).1)) p i 0
        (lpArm (getTile s p).clerk lv len (xGet (getTile s p).clerk rs1)).2))
    ∧ (∀ lv cnt len, issues s p i .repi → i.ins = .repi lv cnt len →
      exec (.xlRepi p) s = .next (retire (modClerk s p (fun _ =>
        (lpArm (getTile s p).clerk lv len (BitVec.ofNat 32 cnt)).1)) p i 0
        (lpArm (getTile s p).clerk lv len (BitVec.ofNat 32 cnt)).2))
    ∧ (∀ lv, issues s p i .quit → i.ins = .quit lv →
      exec (.xlQuit p) s = .next (retire (modClerk s p (fun k => lpQuit k lv)) p i 0 none))
    ∧ (∀ rd, issues s p i .bell → i.ins = .bellWait rd →
      (getTile s p).clerk.bellSeen ≠ BitVec.ofNat 32 (ctxBell s (physPart p)) →
      exec (.bellWait p) s = .next (retire (modClerk (modClerk s p (fun k => { k with hold := false })) p (fun k =>
        { xSet k rd (BitVec.ofNat 32 (ctxBell s (physPart p))) with
          bellSeen := BitVec.ofNat 32 (ctxBell s (physPart p)), bellPend := false })) p i rd none))
    ∧ (∀ rd rs1, issues s p i .lr → i.ins = .lr rd rs1 → clerkCell s p (eaOf (getTile s p).clerk rs1 0) = true →
      exec (.lrW p) s = .next (retire (lrExec s p rd (eaOf (getTile s p).clerk rs1 0)) p i rd none))
    ∧ (∀ rd rs1 rs2, issues s p i .sc → i.ins = .sc rd rs1 rs2 → clerkCell s p (eaOf (getTile s p).clerk rs1 0) = true →
      exec (.scW p) s = .next (retire (scExec s p rd (eaOf (getTile s p).clerk rs1 0) (xGet (getTile s p).clerk rs2)) p i
        rd none))
    ∧ (issues s p i .fence → drainsAll s p = true → exec (.fence p) s = .next (retire (atCc s p gatherDrainAll) p i 0 none))
    ∧ (issues s p i .fenceI → exec (.fenceI p) s = .next (retire (modClerk s p (fun k => { k with stale := [] })) p i 0 none))
    ∧ (issues s p i .wfi → Nat.land (mipOf (getTile s p)) (getTile s p).clerk.mie.toNat ≠ 0 →
      exec (.wfi p) s = .next (retire s p i 0 none))
    ∧ (issues s p i .mret → exec (.mret p) s = .next (traceRetire (modClerk s p (fun k =>
        mretExec { fetchCount k i.len with minstret := k.minstret + 1, moved := s.clk.cycles })) p
        (getTile s p).clerk.pc.toNat i.word 0)))
  ∧ (∀ (s : State) (p rd : Nat) (i : Fetched) (go : Option Nat),
    (getTile (retire s p i rd go) p).clerk.minstret = (getTile s p).clerk.minstret + 1
    ∧ (∀ a, go = some a → (getTile (retire s p i rd go) p).clerk.pc = BitVec.ofNat 32 a)
    ∧ (go = none → (∀ lv, lv < 2 → lpEnds (getTile s p).clerk ((getTile s p).clerk.pc.toNat + i.len) lv = false) →
      (getTile (retire s p i rd go) p).clerk.pc = (getTile s p).clerk.pc + BitVec.ofNat 32 i.len)
    ∧ (getTile (retire s p i rd go) p).clerk.x = (getTile s p).clerk.x
    ∧ (getTile (retire s p i rd go) p).store = (getTile s p).store
    ∧ ∀ q, q ≠ p → getTile (retire s p i rd go) q = getTile s q)

/-- x0 reads 0 and a write of it changes nothing, another register reads what was written; LUI and AUIPC; JAL goes to a pc-relative,
JALR to a register address with bit 0 clear, both link; the six branches; the ten register operations, and the immediate ones as they;
of the M extension the low and the three high products, the unsigned quotient and remainder, the signed ones of a
divisor other than 0, and all four for the divisor 0 and the signed overflow (R212). What other instructions leave in the clerk: an
armed level starts 4 B behind its instruction, ends by its length and counts from its count, and a count of zero goes to its
end (R226); SC.W writes 0 to rd with the line reserved, else 1 with the store as it was, and clears the reservation either
way; LR.W reserves the word's line (R238); MRET with no loop test owed puts MIE back, leaves the trap, goes to mepc and
keeps x (R236). -/
def Obligations.ClerkInstructionResults : Prop :=
  ((∀ (k : Clerk) (v : Word), xGet k 0 = 0 ∧ xSet k 0 v = k)
  ∧ (∀ (k : Clerk) (r q : Nat) (v : Word), r ≠ 0 → xGet (xSet k r v) r = v ∧ (q ≠ r → xGet (xSet k r v) q = xGet k q))
  ∧ (∀ (k : Clerk) (len rd : Nat) (off : Int), baseExec k len (.jal rd off)
      = (xSet k rd (k.pc + BitVec.ofNat 32 len), rd, some (k.pc + BitVec.ofInt 32 off).toNat))
  ∧ (∀ (k : Clerk) (len rd rs1 : Nat) (off : Int), ∃ a, baseExec k len (.jalr rd rs1 off)
      = (xSet k rd (k.pc + BitVec.ofNat 32 len), rd, some a) ∧ a % 2 = 0 ∧ a ≤ (xGet k rs1 + BitVec.ofInt 32 off).toNat
      ∧ (xGet k rs1 + BitVec.ofInt 32 off).toNat ≤ a + 1)
  ∧ (∀ (k : Clerk) (len rd imm : Nat), baseExec k len (.lui rd imm) = (xSet k rd (BitVec.ofNat 32 imm), rd, none)
      ∧ baseExec k len (.auipc rd imm) = (xSet k rd (k.pc + BitVec.ofNat 32 imm), rd, none))
  ∧ (∀ (k : Clerk) (len f3 a b : Nat) (off : Int) (c : Prop) [Decidable c],
      (c ↔ (f3 = 0 ∧ xGet k a = xGet k b) ∨ (f3 = 1 ∧ xGet k a ≠ xGet k b) ∨ (f3 = 4 ∧ (xGet k a).toInt < (xGet k b).toInt)
        ∨ (f3 = 5 ∧ (xGet k b).toInt ≤ (xGet k a).toInt) ∨ (f3 = 6 ∧ (xGet k a).toNat < (xGet k b).toNat)
        ∨ (f3 = 7 ∧ (xGet k b).toNat ≤ (xGet k a).toNat)) →
      f3 ∈ [0, 1, 4, 5, 6, 7] →
      baseExec k len (.branch f3 a b off) = (k, 0, if c then some (k.pc + BitVec.ofInt 32 off).toNat else none))
  ∧ (∀ (k : Clerk) (len rd a b : Nat),
      baseExec k len (.alu 0 rd a b) = (xSet k rd (xGet k a + xGet k b), rd, none)
      ∧ baseExec k len (.alu 1 rd a b) = (xSet k rd (xGet k a - xGet k b), rd, none)
      ∧ baseExec k len (.alu 2 rd a b) = (xSet k rd (xGet k a <<< ((xGet k b).toNat % 32)), rd, none)
      ∧ baseExec k len (.alu 3 rd a b) = (xSet k rd (if (xGet k a).toInt < (xGet k b).toInt then 1 else 0), rd, none)
      ∧ baseExec k len (.alu 4 rd a b) = (xSet k rd (if (xGet k a).toNat < (xGet k b).toNat then 1 else 0), rd, none)
      ∧ baseExec k len (.alu 5 rd a b) = (xSet k rd (xGet k a ^^^ xGet k b), rd, none)
      ∧ baseExec k len (.alu 6 rd a b) = (xSet k rd (xGet k a >>> ((xGet k b).toNat % 32)), rd, none)
      ∧ baseExec k len (.alu 7 rd a b) = (xSet k rd ((xGet k a).sshiftRight ((xGet k b).toNat % 32)), rd, none)
      ∧ baseExec k len (.alu 8 rd a b) = (xSet k rd (xGet k a ||| xGet k b), rd, none)
      ∧ baseExec k len (.alu 9 rd a b) = (xSet k rd (xGet k a &&& xGet k b), rd, none)
      ∧ ∀ (op : Nat) (imm : Int), xGet k b = BitVec.ofInt 32 imm →
        baseExec k len (.aluI op rd a imm) = baseExec k len (.alu op rd a b))
  ∧ (∀ a b : Word, mulOp 0 a b = a * b ∧ mulOp 1 a b = BitVec.ofInt 32 (a.toInt * b.toInt / 2 ^ 32)
      ∧ mulOp 2 a b = BitVec.ofInt 32 (a.toInt * b.toNat / 2 ^ 32)
      ∧ mulOp 3 a b = BitVec.ofNat 32 (a.toNat * b.toNat / 2 ^ 32) ∧ mulOp 4 a 0 = 0xFFFFFFFF#32 ∧ mulOp 5 a 0 = 0xFFFFFFFF#32 ∧ mulOp 6 a 0 = a
      ∧ mulOp 7 a 0 = a ∧ mulOp 4 0x80000000#32 0xFFFFFFFF#32 = 0x80000000#32 ∧ mulOp 6 0x80000000#32 0xFFFFFFFF#32 = 0
      ∧ (b ≠ 0 → mulOp 5 a b = a / b ∧ mulOp 7 a b = a % b ∧ mulOp 4 a b = BitVec.ofInt 32 (a.toInt.tdiv b.toInt)
        ∧ mulOp 6 a b = BitVec.ofInt 32 (a.toInt.tmod b.toInt))
      ∧ ∀ (k : Clerk) (len f3 rd x y : Nat), baseExec k len (.mul f3 rd x y)
        = (xSet k rd (mulOp f3 (xGet k x) (xGet k y)), rd, none)))
  ∧ ((∀ (k : Clerk) (lv len : Nat) (n : Word), lv < 2 →
    (lpArm k lv len n).1.lpStart = kvSet 0 k.lpStart lv (k.pc + 4)
    ∧ (lpArm k lv len n).1.lpEnd = kvSet 0 k.lpEnd lv (k.pc + 4 + BitVec.ofNat 32 (2 * len))
    ∧ (lpArm k lv len n).1.lpCount = kvSet 0 k.lpCount lv n
    ∧ (n = 0 → (lpArm k lv len n).2 = some (k.pc + 4 + BitVec.ofNat 32 (2 * len)).toNat)
    ∧ (n ≠ 0 → (lpArm k lv len n).2 = none ∧ bitAt (lpArm k lv len n).1.lpStatus lv = true))
  ∧ (∀ (s : State) (p rd a : Nat) (v : Word), (getTile (scExec s p rd a v) p).clerk.resv = none
    ∧ ((getTile s p).clerk.resv ≠ some (a / 64 * 64) →
      (getTile (scExec s p rd a v) p).store = (getTile s p).store
      ∧ (rd ≠ 0 → xGet (getTile (scExec s p rd a v) p).clerk rd = 1))
    ∧ ((getTile s p).clerk.resv = some (a / 64 * 64) → rd ≠ 0 → xGet (getTile (scExec s p rd a v) p).clerk rd = 0))
  ∧ (∀ (s : State) (p rd a : Nat), (getTile (lrExec s p rd a) p).clerk.resv = some (a / 64 * 64))
  ∧ (∀ k : Clerk, k.lpStatus < 4 → (mretExec k).mie3 = k.mpie ∧ (mretExec k).inTrap = false ∧ (mretExec k).pc = k.mepc
    ∧ (mretExec k).x = k.x))

/-- QPOP_READ, QW_READ, QSEND_WRITE, IM_FILL_WRITE, SEQ_FLAGS_SET, BELL_HOLD_WRITE, CLK_STATUS_CLEAR, CLK_FAIL_WRITE, RT_SEL_WRITE,
AMAX_READ_CLEAR, COUNTER_READ_CLEAR and CSR_WRITE complete: a CSR instruction of the row that issues without an exception retires with csrExec's effect, a pop or a peek when its
channel holds an entry, a send that does not wait with qsendPut's, a fill in cells the clerk holds with imFillPut's; a write of
TL_CLK_FAIL is a clerk fault with the code written (R216, R219, R221, R223, R237). What some of those effects are: a write of
TL_SEQ_FLAGS only sets, of TL_BELL_CTL bit 0 is HOLD, TL_FUL_LEN takes its 20 bits, TL_RT_SEL with a listed selection acts on the
tile's router alone, a read of TL_QPOPn pops channel n, of TL_AMAXk clears that k only (R108, R231, R232); a pop takes the
channel's head and leaves the others, one of an empty channel nothing; a send without a credit sets SEND_FAIL with bit 8 and
waits without it (R221, R223). -/
def Obligations.ClerkCsrRowsAndEffects : Prop :=
  (∀ (p f3 rd src c : Nat) (i : Fetched) (s : State), i.ins = .csr f3 rd src c →
    (issues s p i .qpop → (chan (getTile s p) (c - 0x840)).isEmpty = false →
      exec (.qpopRead p) s = .next (retire (csrExec s p f3 rd src c) p i rd none))
    ∧ (issues s p i .qw → (chan (getTile s p) (getTile s p).clerk.qsel).isEmpty = false →
      exec (.qwRead p) s = .next (retire (csrExec s p f3 rd src c) p i rd none))
    ∧ (∀ t, issues s p i .qsend →
      qsendPut s p (csrNew f3 ((csrPeek s p c).getD 0) (csrSrc (getTile s p).clerk f3 src)) = some t →
      exec (.qsendWrite p) s = .next (retire (if csrReads f3 rd then setX t p rd 0 else t) p i rd none))
    ∧ (∀ t, issues s p i .imFill →
      fillCells s p (csrNew f3 ((csrPeek s p c).getD 0) (csrSrc (getTile s p).clerk f3 src)) = true →
      t = imFillPut s p (csrNew f3 ((csrPeek s p c).getD 0) (csrSrc (getTile s p).clerk f3 src))
        ((getTile s p).clerk.pc.toNat + i.len) →
      exec (.imFillWrite p) s = .next (retire (if csrReads f3 rd then setX t p rd 0 else t) p i rd none))
    ∧ (issues s p i .seqFlags → exec (.seqFlagsSet p) s = .next (retire (csrExec s p f3 rd src c) p i rd none))
    ∧ (issues s p i .bellHold → exec (.bellHoldWrite p) s = .next (retire (csrExec s p f3 rd src c) p i rd none))
    ∧ (issues s p i .clkStatus → exec (.clkStatusClear p) s = .next (retire (csrExec s p f3 rd src c) p i rd none))
    ∧ (issues s p i .clkFail → exec (.clkFailWrite p) s = .next (clerkFault (modClerk s p (fun k => fetchCount k i.len)) p
      (toLe 2 (bits
        (csrNew f3 ((csrPeek s p c).getD 0) (csrSrc (getTile s p).clerk f3 src)) 15 0))))
    ∧ (issues s p i .rtSel → exec (.rtSelWrite p) s = .next (retire (csrExec s p f3 rd src c) p i rd none))
    ∧ (issues s p i .amax → exec (.amaxReadClear p) s = .next (retire (csrExec s p f3 rd src c) p i rd none))
    ∧ (issues s p i .counter → exec (.counterReadClear p) s = .next (retire (csrExec s p f3 rd src c) p i rd none))
    ∧ (issues s p i .csrWrite → exec (.csrWrite p) s = .next (retire (csrExec s p f3 rd src c) p i rd none)))
  ∧ ((∀ (s : State) (p v : Nat), csrPut s p 0x855 v
    = modTile s p (fun t => { t with seq := { t.seq with flags := Nat.lor t.seq.flags (bits v 7 0) } }))
  ∧ (∀ (s : State) (p v : Nat), csrPut s p 0x853 v
    = modTile s p (fun t => { t with clerk := { t.clerk with hold := bitAt v 0 } }))
  ∧ (∀ (s : State) (p v : Nat), csrPut s p 0x830 v
    = modTile s p (fun t => { t with fuller := { t.fuller with len := bits v 19 0 } }))
  ∧ (∀ (s : State) (p v : Nat), bits v 2 0 < 5 → csrPut s p 0x897 v = modTile s p (fun t => { t with router := rtSelWrite v t.router }))
  ∧ (∀ (s : State) (p n : Nat), n < 8 → csrTake s p (0x840 + n) = popChan s p n (ctxCc s (physPart p)))
  ∧ (∀ (s : State) (p k : Nat), k < 8 → csrTake s p (0x810 + k)
    = modTile s p (fun t => { t with num := { t.num with amax := kvSet 0 t.num.amax k 0 } }))
  ∧ (∀ (s : State) (p n cc : Nat) (e : ChEnt) (rest : List ChEnt), chan (getTile s p) n = e :: rest → e.credited = false →
    chan (getTile (popChan s p n cc) p) n = rest)
  ∧ (∀ (s : State) (p n cc : Nat), chan (getTile s p) n = [] → popChan s p n cc = s)
  ∧ (∀ (s : State) (p v : Nat), credits (getTile s p) (bits v 3 0) = 0 → bitAt v 8 = true →
    qsendPut s p v = some (modTile s p (fun t => { t with clerk := { t.clerk with sendFail := true } })))
  ∧ (∀ (s : State) (p v : Nat), credits (getTile s p) (bits v 3 0) = 0 → bitAt v 8 = false → qsendPut s p v = none))

/-- TRAP_ENTRY and MRET complete. A trap's entry writes mepc, mcause and mtval, copies MIE to MPIE, clears MIE, sets IN_TRAP,
clears the reservation, keeps x and the instruction memory, and goes to mtvec's base, or to base + 4 × cause for an interrupt
in vectored mode. TRAP_ENTRY on a live clerk raises the exception of the instruction at pc (or of its fetch), and takes a due
interrupt where there is none. MRET restores MIE from MPIE, clears IN_TRAP and keeps x; with no loop test owed at mepc it goes to
mepc; a level whose test is owed there counts down and goes to its start, or, from a count of 1, becomes inactive and goes on
at mepc; with both owed level 1 is tested first, and level 0 only when level 1 does not go back (R229, R236). -/
def Obligations.ClerkTrapEntryAndReturn : Prop :=
  (∀ (k : Clerk) (cause epc tval len : Nat),
    (trapEnter k cause epc tval len).mepc = BitVec.ofNat 32 epc ∧ (trapEnter k cause epc tval len).mcause = BitVec.ofNat 32 cause
    ∧ (trapEnter k cause epc tval len).mtval = BitVec.ofNat 32 tval ∧ (trapEnter k cause epc tval len).mpie = k.mie3
    ∧ (trapEnter k cause epc tval len).mie3 = false ∧ (trapEnter k cause epc tval len).inTrap = true
    ∧ (trapEnter k cause epc tval len).resv = none
    ∧ (trapEnter k cause epc tval len).x = k.x ∧ (trapEnter k cause epc tval len).im = k.im
    ∧ (cause < 2 ^ 31 → (trapEnter k cause epc tval len).pc = BitVec.ofNat 32 (k.mtvec.toNat / 4 * 4)
      ∧ (k.mtvec.toNat % 4 = 1 → (trapEnter k (2 ^ 31 + cause) epc tval 0).pc
          = BitVec.ofNat 32 (k.mtvec.toNat / 4 * 4 + 4 * cause))
      ∧ (k.mtvec.toNat % 4 ≠ 1 → (trapEnter k (2 ^ 31 + cause) epc tval 0).pc = BitVec.ofNat 32 (k.mtvec.toNat / 4 * 4))
      ∧ (trapEnter k (2 ^ 31 + cause) epc tval 0).lpStatus = k.lpStatus))
  ∧ (∀ (p : Nat) (ups : List (Nat × Nat)) (i : Fetched) (e : Nat × Nat) (s : State), p < 4800 →
    clerkLive (getTile (imUpset s p ups) p) = true → fetch (getTile (imUpset s p ups) p).clerk = .inr i →
    (i.ins = .ebreak → ((getTile s p).dbg.loose && (getTile s p).dbg.ebreakHalt) = false) →
    insExc (imUpset s p ups) p i = some e →
    exec (.trapEntry p ups) s = .next (raiseExc (imUpset s p ups) p e i.len))
  ∧ (∀ (p c : Nat) (ups : List (Nat × Nat)) (i : Fetched) (s : State), p < 4800 →
    clerkLive (getTile (imUpset s p ups) p) = true → fetch (getTile (imUpset s p ups) p).clerk = .inr i →
    insExc (imUpset s p ups) p i = none → pendingIrq (getTile (imUpset s p ups) p) = some c →
    exec (.trapEntry p ups) s = .next (modClerk (imUpset s p ups) p (fun k => trapEnter k c k.pc.toNat 0 0)))
  ∧ (∀ (s : State) (p len : Nat) (e : Nat × Nat), (getTile s p).clerk.inTrap = false →
    (getTile (raiseExc s p e len) p).clerk
      = trapEnter (fetchCount (getTile s p).clerk len) e.1 (getTile s p).clerk.pc.toNat e.2 len)
  ∧ (∀ (p a : Nat) (ups : List (Nat × Nat)) (s : State), p < 4800 →
    clerkLive (getTile (imUpset s p ups) p) = true → fetch (getTile (imUpset s p ups) p).clerk = .inl a →
    exec (.trapEntry p ups) s = .next (fetchFault (imUpset s p ups) p a))
  ∧ (∀ (p : Nat) (i : Fetched) (s : State), issues s p i .mret →
    ∃ t, exec (.mret p) s = .next t ∧ (getTile t p).clerk = mretExec { fetchCount (getTile s p).clerk i.len with
      minstret := (getTile s p).clerk.minstret + 1, moved := s.clk.cycles })
  ∧ (∀ k : Clerk, (mretExec k).mie3 = k.mpie ∧ (mretExec k).inTrap = false ∧ (mretExec k).x = k.x
    ∧ ((∀ lv, lv < 2 → bitAt k.lpStatus (2 + lv) = true → bitAt k.lpStatus lv = true → kvGet 0 k.lpEnd lv ≠ k.mepc) →
      (mretExec k).pc = k.mepc ∧ (mretExec k).lpStatus = k.lpStatus % 4 ∧ (mretExec k).lpCount = k.lpCount)
    ∧ (∀ lv, lv < 2 → bitAt k.lpStatus (2 + lv) = true → bitAt k.lpStatus lv = true → kvGet 0 k.lpEnd lv = k.mepc →
      (bitAt k.lpStatus (3 - lv) && bitAt k.lpStatus (1 - lv) && decide (kvGet 0 k.lpEnd (1 - lv) = k.mepc)) = false →
      (kvGet 0 k.lpCount lv ≠ 1 → (mretExec k).pc = kvGet 0 k.lpStart lv ∧ (mretExec k).lpStatus = k.lpStatus % 4)
      ∧ (kvGet 0 k.lpCount lv = 1 → (mretExec k).pc = k.mepc ∧ bitAt (mretExec k).lpStatus lv = false)
      ∧ kvGet 0 (mretExec k).lpCount lv = kvGet 0 k.lpCount lv - 1)
    ∧ ((∀ lv, lv < 2 → bitAt k.lpStatus (2 + lv) = true ∧ bitAt k.lpStatus lv = true ∧ kvGet 0 k.lpEnd lv = k.mepc) →
      kvGet 0 (mretExec k).lpCount 1 = kvGet 0 k.lpCount 1 - 1
      ∧ (kvGet 0 k.lpCount 1 ≠ 1 → (mretExec k).pc = kvGet 0 k.lpStart 1 ∧ kvGet 0 (mretExec k).lpCount 0 = kvGet 0 k.lpCount 0)
      ∧ (kvGet 0 k.lpCount 1 = 1 → bitAt (mretExec k).lpStatus 1 = false
        ∧ kvGet 0 (mretExec k).lpCount 0 = kvGet 0 k.lpCount 0 - 1
        ∧ (mretExec k).pc = (if kvGet 0 k.lpCount 0 = 1 then k.mepc else kvGet 0 k.lpStart 0))))

/-- A read of TL_QPOPn or TL_QWk of a channel without granted entries, and a TL_QSEND write of an entry without configured credits,
on a live clerk outside a trap, take the queue fault: trap entry with cause 25, the pc in mepc and the channel or entry in mtval,
and of the tile nothing but its clerk changes (R224). Cause 18 is pending exactly while a channel that
TL_QIRQ names holds an entry, and is taken when MIE is set outside a trap, it is enabled and 17 and 16 are not (R225). -/
def Obligations.QueueFaultsAndChannelArrival : Prop :=
  (∀ (p f3 rd src c : Nat) (i : Fetched) (s : State), p < 4800 → clerkLive (getTile s p) = true →
    windowStalls (getTile s p) (kindOf i.ins) = false → pendingIrq (getTile s p) = none →
    fetch (getTile s p).clerk = .inr i → i.ins = .csr f3 rd src c → csrLegal s p f3 src c = true →
    lpOverlap (getTile s p).clerk (getTile s p).clerk.pc.toNat i.len = false → bpHit (getTile s p) = false →
    (getTile s p).clerk.inTrap = false → ∀ (x : Instr) (v : Nat),
    (kindOf i.ins = .qpop ∧ x = .qpopRead p ∧ inGrant (getTile s p) (c - 0x840) = 0 ∧ v = c - 0x840)
      ∨ (kindOf i.ins = .qw ∧ x = .qwRead p ∧ inGrant (getTile s p) (getTile s p).clerk.qsel = 0
        ∧ v = (getTile s p).clerk.qsel)
      ∨ (kindOf i.ins = .qsend ∧ x = .qsendWrite p
        ∧ (outEntry (getTile s p) (bits (csrNew f3 0 (csrSrc (getTile s p).clerk f3 src)) 3 0)).2.2 = 0
        ∧ v = 256 + bits (csrNew f3 0 (csrSrc (getTile s p).clerk f3 src)) 3 0) →
    ∃ t, exec x s = .next t ∧ t = setTile s p (getTile t p)
      ∧ getTile t p = { getTile s p with clerk := (getTile t p).clerk }
      ∧ (getTile t p).clerk = trapEnter (fetchCount (getTile s p).clerk i.len) 25 (getTile s p).clerk.pc.toNat v i.len
      ∧ (getTile t p).clerk.mcause = 25 ∧ (getTile t p).clerk.mepc = (getTile s p).clerk.pc
      ∧ (getTile t p).clerk.mtval = BitVec.ofNat 32 v)
  ∧ (∀ t : Tile, bitAt (mipOf t) 18 = true ↔ ∃ n, n < 8 ∧ bitAt t.clerk.qirq n = true ∧ chan t n ≠ [])
  ∧ (∀ (t : Tile) (n : Nat), n < 8 → bitAt t.clerk.qirq n = true → chan t n ≠ [] → t.clerk.mie3 = true →
    t.clerk.inTrap = false → bitAt t.clerk.mie.toNat 18 = true → bitAt t.clerk.mie.toNat 17 = false →
    bitAt t.clerk.mie.toNat 16 = false → pendingIrq t = some 0x80000012)

/-- CLERK_WAKE and WFI complete. Fire bit 10 takes no descriptor and wakes the clerk: WAKE_PEND is set, which is cause 16 in mip,
TL_WAKE.STEP is the step that fired it, and a wake that finds WAKE_PEND set adds one to TL_WAKE.LOST; a 1 written to WAKE_PEND clears
it and LOST, a 0 neither. A WFI that issues retires when an interrupt pending in mip is enabled in mie, whatever MIE holds, and
else stays (R233). -/
def Obligations.SequencerWakesTheClerk : Prop :=
  (descUnits.contains 10 = false ∧ ∀ fire desc, bitAt fire 10 = true → (10, 0) ∈ firedUnits fire desc)
  ∧ (∀ (t : Tile) (idx cc : Nat) (red : Bool), (sampleFired t 10 idx cc red).step = t.seq.step
    ∧ (sampleFired t 10 idx cc red).desc = [])
  ∧ (∀ (p : Nat) (f : Fired) (s : State), p < 4800 → firstFired (getTile s p) 10 = some f →
    ∃ t, exec (.clerkWake p) s = .next t ∧ t = setTile s p (getTile t p)
      ∧ (getTile t p).clerk = { (getTile s p).clerk with
          wakePend := true, wakeStep := f.step
          wakeLost := if (getTile s p).clerk.wakePend then satAdd 16 (getTile s p).clerk.wakeLost 1
            else (getTile s p).clerk.wakeLost }
      ∧ bitAt (mipOf (getTile t p)) 16 = true)
  ∧ (∀ t : Tile, bitAt (mipOf t) 16 = t.clerk.wakePend)
  ∧ (∀ (s : State) (p v : Nat), (getTile (csrPut s p 0x856 v) p).clerk = clerkPut 0x856 v (getTile s p).clerk
    ∧ (bitAt v 8 = true → (clerkPut 0x856 v (getTile s p).clerk).wakePend = false
      ∧ (clerkPut 0x856 v (getTile s p).clerk).wakeLost = 0)
    ∧ (bitAt v 8 = false → (clerkPut 0x856 v (getTile s p).clerk).wakePend = (getTile s p).clerk.wakePend
      ∧ (clerkPut 0x856 v (getTile s p).clerk).wakeLost = (getTile s p).clerk.wakeLost))
  ∧ (∀ (p : Nat) (i : Fetched) (s : State), issues s p i .wfi →
    (Nat.land (mipOf (getTile s p)) (getTile s p).clerk.mie.toNat ≠ 0 → exec (.wfi p) s = .next (retire s p i 0 none))
    ∧ (Nat.land (mipOf (getTile s p)) (getTile s p).clerk.mie.toNat = 0 → exec (.wfi p) s = .next s))

/-- ROUTER_HOP, BARRIER_ARRIVE_COMBINE and FLAG_RAISE_COMBINE complete. A hop grants, of what the inputs of a placed router
present at the output once what waited outside has moved in, the pick: no other was presented earlier, and
in one cc the inputs' order L, N, S, E, W decides (R251, R252). On a router that is no bypass an arrival of another key than its
context's is dropped as a key violation, one whose bell is past as stale; one that is not the last expected waits in the context, the
last one goes on toward the root or is answered there by the release. A raise of another key than the one set is dropped as a key
violation, one whose bell is past as stale; the first raise of an identifier goes on, or is answered at the root by
the broadcast, and a later one only leaves its buffer, counted when the root has sent the broadcast (R259, R261, R262). -/
def Obligations.RoutersAndCombiners : Prop :=
  ((∀ (p o corr bad l : Nat) (c : Cand) (s : State), p < 4800 → (onBypass s p = true → domOn s 95 = true) →
    logOf s p = some l → pick (candidates (fillAll s l) l o) = some c →
    ∃ t, exec (.routerHop p o corr bad) s = .next t ∧ (bad < 3 → t = hop (fillAll s l) l o corr bad c)
      ∧ (3 ≤ bad → t = hopUpset (fillAll s l) l o corr bad c))
  ∧ (∀ (cs : List Cand) (c : Cand), cs.Pairwise (fun a b => a.input < b.input) → pick cs = some c → c ∈ cs
    ∧ ∀ d ∈ cs, c.cc < d.cc ∨ (c.cc = d.cc ∧ c.input ≤ d.input))
  ∧ (∀ (s : State) (l o : Nat), (candidates s l o).Pairwise (fun a b => a.input < b.input)))
  ∧ (∀ (p input l : Nat) (k : Packet) (s : State), p < 4800 → logOf s p = some l → onBypass s p = false →
    (combinePkt s p input 3 = some k →
      ∃ t, exec (.barrierArriveCombine p input) s = .next t ∧ t = barCombine s p input k)
    ∧ (combinePkt s p input 5 = some k →
      ∃ t, exec (.flagRaiseCombine p input) s = .next t ∧ t = flagCombine s p input k))
  ∧ (∀ (p input : Nat) (k : Packet) (s : State) (x : BarCtx), (kvGet none (getTile s p).router.bar (k.sub % 8)).getD
      { key := k.key, mask := k.payload, bell := k.aux, arrived := [] } = x →
    (x.key ≠ k.key → barCombine s p input k = keyDrop (takeBuf s p input) p input k)
    ∧ (x.key = k.key → k.aux ≠ s.clk.bell % 2 ^ 32 → barCombine s p input k = staleDrop (takeBuf s p input) p k)
    ∧ (x.key = k.key → k.aux = s.clk.bell % 2 ^ 32 → ∀ arr,
      arr = (if x.arrived.contains input then x.arrived else x.arrived ++ [input]) →
      ((∃ i ∈ expectedFrom (logD s p) (fld k.payload 0x14 2) (maskRows x.mask) (maskCols x.mask), i ∉ arr) →
        barCombine s p input k = takeBuf (modRouter s p (fun r => { r with
          bar := kvSet none r.bar (k.sub % 8) (some { x with arrived := arr }) })) p input)
      ∧ ((∀ i ∈ expectedFrom (logD s p) (fld k.payload 0x14 2) (maskRows x.mask) (maskCols x.mask), i ∈ arr) →
        (logD s p = fld k.payload 0x14 2 → barCombine s p input k = rootSend (takeBuf (modRouter s p (fun r => { r with
          bar := kvSet none r.bar (k.sub % 8) none })) p input) p 4 k)
        ∧ (logD s p ≠ fld k.payload 0x14 2 → barCombine s p input k = onward (modRouter s p (fun r => { r with
          bar := kvSet none r.bar (k.sub % 8) none })) p input k))))
  ∧ (∀ (p input : Nat) (k : Packet) (s : State),
    (bitAt (getTile s p).router.flags (k.sub % 8) = true → kvGet 0 (getTile s p).router.flagKeys (k.sub % 8) ≠ k.key →
      flagCombine s p input k = keyDrop (takeBuf s p input) p input k)
    ∧ (bitAt (getTile s p).router.flags (k.sub % 8) = false ∨ kvGet 0 (getTile s p).router.flagKeys (k.sub % 8) = k.key →
      k.aux ≠ s.clk.bell % 2 ^ 32 → flagCombine s p input k = staleDrop (takeBuf s p input) p k)
    ∧ (bitAt (getTile s p).router.flags (k.sub % 8) = false → k.aux = s.clk.bell % 2 ^ 32 → ∀ u,
      u = modRouter s p (fun r => { r with
        flags := setBit r.flags (k.sub % 8), flagKeys := kvSet 0 r.flagKeys (k.sub % 8) k.key }) →
      (logD s p = fld k.payload 0x14 2 → flagCombine s p input k = rootSend (takeBuf u p input) p 6 k)
      ∧ (logD s p ≠ fld k.payload 0x14 2 → flagCombine s p input k = onward u p input k))
    ∧ (bitAt (getTile s p).router.flags (k.sub % 8) = true → kvGet 0 (getTile s p).router.flagKeys (k.sub % 8) = k.key →
      k.aux = s.clk.bell % 2 ^ 32 → flagCombine s p input k
        = (if bitAt (getTile s (physOf s (fld k.payload 0x14 2))).router.flags (k.sub % 8) then staleCount (takeBuf s p input) p
          else takeBuf s p input)))

/-- CHANNEL_ENTRY_DELIVERY, CREDIT_RETURN_DELIVERY, BARRIER_RELEASE_DELIVERY, FLAG_BROADCAST_DELIVERY and
WRITE_COMPLETION_DELIVERY complete. The sinks of a tile take the front packet of a virtual channel that has been ejected when
it is of their kind: a channel entry stands credited at the tail of its channel of a tile that takes entries, changing no other channel
and no other tile, and leaves the channels of a tile that does not as they were, counted and with one event more; returned credits
go to the first outbound entry that names their sender and channel, and nowhere without one; a release and a broadcast become an
uncredited MARK entry of the channel that their mask line names, or are counted by a tile that takes none; a completion frees its
tag as tagDone says, and one whose tag is free does nothing (R59, R263, R264, R283). -/
def Obligations.SinksDeliver : Prop :=
  ∀ (p : Nat) (k : Packet) (s u : State), p < 4800 →
    (ejectTake s p (fun k => k.kind == 1) = some (k, u) → takesEntries (getTile u p) = true →
      ∃ t, exec (.channelEntryDelivery p) s = .next t
        ∧ chan (getTile t p) (k.sub % 8) = chan (getTile s p) (k.sub % 8) ++ [⟨k.payload, true, k.src⟩]
        ∧ (∀ m, m ≠ k.sub % 8 → chan (getTile t p) m = chan (getTile s p) m)
        ∧ (∀ q, q ≠ p → getTile t q = getTile s q))
    ∧ (ejectTake s p (fun k => k.kind == 1) = some (k, u) → takesEntries (getTile u p) = false →
      ∃ t, exec (.channelEntryDelivery p) s = .next t ∧ (getTile t p).chans = (getTile s p).chans
        ∧ (getTile t p).router.dropStale = satAdd 8 (getTile s p).router.dropStale 1
        ∧ t.reeve.inbox.length = s.reeve.inbox.length + 1)
    ∧ (ejectTake s p (fun k => k.kind == 2) = some (k, u) → ∀ i,
      (upto 0 16).find? (fun i => (getTile u p).installed && (outEntry (getTile u p) i).2.2 != 0
        && (outEntry (getTile u p) i).1 == k.src && (outEntry (getTile u p) i).2.1 == k.sub % 8) = some i →
      ∃ t, exec (.creditReturnDelivery p) s = .next t ∧ credits (getTile t p) i = credits (getTile s p) i + k.aux
        ∧ (∀ m, m ≠ i → credits (getTile t p) m = credits (getTile s p) m) ∧ (∀ q, q ≠ p → getTile t q = getTile s q))
    ∧ (ejectTake s p (fun k => k.kind == 2) = some (k, u) →
      (upto 0 16).find? (fun i => (getTile u p).installed && (outEntry (getTile u p) i).2.2 != 0
        && (outEntry (getTile u p) i).1 == k.src && (outEntry (getTile u p) i).2.1 == k.sub % 8) = none →
      ∃ t, exec (.creditReturnDelivery p) s = .next t ∧ getTile t p = getTile u p ∧ (∀ q, q ≠ p → getTile t q = getTile s q))
    ∧ (ejectTake s p (fun k => k.kind == 4) = some (k, u) → takesEntries (getTile u p) = false →
      exec (.barrierReleaseDelivery p) s = .next (staleCount u p))
    ∧ (ejectTake s p (fun k => k.kind == 6) = some (k, u) → takesEntries (getTile u p) = false →
      exec (.flagBroadcastDelivery p) s = .next (staleCount u p))
    ∧ (ejectTake s p (fun k => k.kind == 0xD) = some (k, u) → tagJob (getTile u p).dma k.sub = none →
      exec (.writeCompletionDelivery p) s = .next u)
    ∧ (ejectTake s p (fun k => k.kind == 4) = some (k, u) → takesEntries (getTile u p) = true →
      ∃ t, exec (.barrierReleaseDelivery p) s = .next t
        ∧ chan (getTile t p) (fld k.payload 0x16 1 % 8) = chan (getTile s p) (fld k.payload 0x16 1 % 8) ++ [markEntry k]
        ∧ (∀ q, q ≠ p → getTile t q = getTile s q))
    ∧ (ejectTake s p (fun k => k.kind == 6) = some (k, u) → takesEntries (getTile u p) = true →
      ∃ t, exec (.flagBroadcastDelivery p) s = .next t
        ∧ chan (getTile t p) (fld k.payload 0x16 1 % 8) = chan (getTile s p) (fld k.payload 0x16 1 % 8) ++ [markEntry k]
        ∧ (∀ q, q ≠ p → getTile t q = getTile s q))
    ∧ (∀ j, ejectTake s p (fun k => k.kind == 0xD) = some (k, u) → tagJob (getTile u p).dma k.sub = some j →
      ∃ t, exec (.writeCompletionDelivery p) s = .next t ∧ t = tagDone u p k.sub j (ctxCc s (physPart p))
        ∧ kvGet 0 (getTile t p).dma.tags k.sub = 0)

/-- A bolt put reads back whole, with its tally, whatever stood there before; every other bolt reads as before, and the memory
keeps its canonical form (R274, R284, R342). A bolt whose tally does not match its bytes is refused: no byte and no
mark of the memory changes, the stack counts it, and there is one event more; one that matches, and is no slot bolt come twice, is
stored (R284). -/
def Obligations.BoltsAreWrittenAndGuarded : Prop :=
  (∀ (s : State) (n b tally : Nat) (bs : List Byte), n < 12 → b < Config.shareBolts → bs.length = 4096 →
    boltBytes (boltPut s n b bs tally) n b = bs ∧ boltTally (boltPut s n b bs tally) n b = tally % 2 ^ 32
    ∧ (∀ m c, m < 12 → c < Config.shareBolts → (m, c) ≠ (n, b) →
      boltBytes (boltPut s n b bs tally) m c = boltBytes s m c ∧ boltTally (boltPut s n b bs tally) m c = boltTally s m c)
    ∧ (memWf s.dram = true → memWf (boltPut s n b bs tally).dram = true))
  ∧ (∀ (s : State) (k n b tally : Nat) (bs : List Byte),
    (crc32c bs ≠ tally → (boltWrite s k n b tally bs).dram = s.dram ∧ (boltWrite s k n b tally bs).bolts = s.bolts
      ∧ (getStack (boltWrite s k n b tally bs) k).tlyWrite = satAdd 16 (getStack s k).tlyWrite 1
      ∧ (boltWrite s k n b tally bs).reeve.inbox.length = s.reeve.inbox.length + 1)
    ∧ (crc32c bs = tally → slotTwice (getStack s k) n b = false →
      (boltWrite s k n b tally bs).dram = (boltPut s n b bs tally).dram
      ∧ (boltWrite s k n b tally bs).bolts = (boltPut s n b bs tally).bolts))

/-- R10: the tally that the block computes, of any bytes, is the CRC-32C which the rule's parameters define (polynomial, initial
value, reflection, final XOR), and that of the nine ASCII bytes "123456789" is 0xE3069283. A bolt that bears another tally is
not stored; a whole bolt of the host goes to its stack with this tally; and where tallies stand among bytes they stand as 32-bit
little-endian values: in a link send's header, in a digest's input and in the geometry's last word. -/
def Obligations.TallyIsCrc32c : Prop :=
  (∀ bs : List Byte, crc32c bs = crcText 0x1EDC6F41#32 bs) ∧ crc32c crcCheckBytes = 0xE3069283
  ∧ (∀ (s : State) (k n b tally : Nat) (bs : List Byte), crcText 0x1EDC6F41#32 bs ≠ tally →
    (boltWrite s k n b tally bs).dram = s.dram ∧ (boltWrite s k n b tally bs).bolts = s.bolts)
  ∧ (∀ (s : State) (n b : Nat) (bs : List Byte), bs.length = 4096 →
    ∃ r, boltPost s n b 0 bs = remotePut s r ∧ r.tally = crcText 0x1EDC6F41#32 bs ∧ r.data = bs)
  ∧ (∀ (s : State) (p tally : Nat) (j : OutJob) (tags : List Nat) (bs : List Byte), j.op = 4 → j.link.length = 48 →
    ∃ k, (outPackets s p j tags tally bs).head? = some k ∧ slice k.payload 0x28 4 = toLe 4 tally)
  ∧ (∀ (t : Tile) (tally addr : Nat), (digestAdd t tally addr).tally.digest
    = (t.tally.digest + crcText 0x1EDC6F41#32 (toLe 4 tally ++ toLe 4 addr)) % 2 ^ 64)
  ∧ (∀ (s : State) (c : MCmd), slice (modGeometry s c).buf 124 4
    = toLe 4 (crcText 0x1EDC6F41#32 (slice (modGeometry s c).buf 0 124)))

/-- STACK_READ_REQUEST, STACK_MEMORY_WRITE, STACK_REMOTE_REQUEST, MERGE_WINDOW_CLOSE and MILL_POST_RECEIVE complete, on a stack
that is not lost. In a slot that its class has, with its bolt's turn come and a tag for it, the first accepted read is served by
readTake, alone or merged; the first accepted write packet joins its bolt, which with its sixteenth packet is stored when its
tally matches; the first post with room enters its partition's queue with its descriptor, source, tag and key. The first spine
request in its slot is stored when it is a whole bolt, merged when it is the host's and partial, read for the mill that asks; one
that shows no live key is turned away (R23, R27, R277 to R279, R284, R286). A window 64 cc old is closed: it leaves the
list, its members are counted, and the memory stays; before that nothing changes (R294). A first read that is not accepted changes
nothing of the memory, is counted, and is answered as refused (R23, R532). -/
def Obligations.StackServesItsClasses : Prop :=
  (∀ (k corr : Nat) (bad : List Nat) (pk : Packet) (s : State), k < 8 → (getStack s k).lost = false →
    pkAccepted pk = true →
    ((getStack s k).inq.find? isRead = some pk → slotClass (getStack s k) = some 0 →
      boltWaits (getStack s k) (pkBolt pk) pk.born false = false →
      svcRoom (getStack s k) (svcSrc (getStack s k) pk) (pkBolt pk) = true →
      exec (.stackReadRequest k corr bad) s = .next (readTake (boltUpset (slotUsed (inqDrop s k isRead) k)
        ((epPart pk.src).getD 0) (pk.addr / 64) bad) k corr pk))
    ∧ ((getStack s k).inq.find? isWrite = some pk → slotClass (getStack s k) = some 1 →
      writeRoom (getStack s k) pk = true →
      exec (.stackMemoryWrite k) s = .next (writeServe (slotUsed (inqDrop s k isWrite) k) k pk))
    ∧ ((getStack s k).inq.find? isPost = some pk → slotClass (getStack s k) = some 1 →
      replaying s ((epPart pk.src).getD 0) = false → millRoom (getStack s k) ((epPart pk.src).getD 0) = true →
      ∃ t e, exec (.millPostReceive k) s = .next t
        ∧ kvGet [] (getStack t k).queues ((epPart pk.src).getD 0)
          = kvGet [] (getStack s k).queues ((epPart pk.src).getD 0) ++ [e]
        ∧ e.desc = pk.payload ∧ e.src = pk.src ∧ e.tag = pk.sub ∧ e.key = pk.key ∧ t.dram = s.dram ∧ t.tiles = s.tiles))
  ∧ (∀ (k : Nat) (r : Remote) (rest : List Remote) (s u : State), k < 8 → (getStack s k).lost = false →
    (getStack s k).remote = r :: rest → u = modStack s k (fun q => { q with remote := rest }) →
    (slotClass (getStack s k) = some 2 → remoteKeyBad u r = false →
      (r.mill = none → r.host = false ∨ 4096 ≤ r.data.length →
        exec (.stackRemoteRequest k) s = .next (boltWrite (slotUsed u k) k r.part r.bolt r.tally r.data))
      ∧ (r.mill = none → r.host = true → r.data.length < 4096 →
        exec (.stackRemoteRequest k) s = .next (partialWrite (slotUsed u k) k r))
      ∧ (∀ m, r.mill = some m → exec (.stackRemoteRequest k) s = .next (fetchServe (slotUsed u k) k m r)))
    ∧ (remoteKeyBad u r = true → r.mill = none → ∃ t, exec (.stackRemoteRequest k) s = .next t ∧ t.dram = s.dram
      ∧ t.bolts = s.bolts ∧ (getStack t k).keyViol = (getStack s k).keyViol + 1))
  ∧ (∀ (k corr : Nat) (w : MergeWin) (rest : List MergeWin) (s : State), k < 8 → (getStack s k).windows = w :: rest →
    (getStack s k).lost = false →
    (w.openCc + 64 ≤ s.clk.cycles →
      ∃ t, exec (.mergeWindowClose k corr) s = .next t ∧ t = windowEnd s k corr w ∧ (getStack t k).windows = rest
        ∧ t.dram = s.dram ∧ t.bolts = s.bolts
        ∧ (getStack t k).mergeCnt = ((getStack s k).mergeCnt + (w.tiles.length - 1)) % 2 ^ 32)
    ∧ (s.clk.cycles < w.openCc + 64 → exec (.mergeWindowClose k corr) s = .next s))
  ∧ (∀ (k corr : Nat) (bad : List Nat) (pk : Packet) (s : State), k < 8 → (getStack s k).lost = false →
    pkAccepted pk = false → (getStack s k).inq.find? isRead = some pk →
    ∃ t, exec (.stackReadRequest k corr bad) s = .next t
      ∧ t = answer (stackKeyDrop (inqDrop s k isRead) k pk) k pk.src [refusedRead k pk]
      ∧ t.dram = s.dram ∧ t.bolts = s.bolts ∧ (getStack t k).keyViol = (getStack s k).keyViol + 1)
  ∧ (∀ (k : Nat) (pk : Packet) (s : State) (w : WrAsm), w = wrAdd pk (((getStack s k).wr.find?
      (wrIs ((epPart pk.src).getD 0) pk)).getD
        { src := pk.src, part := (epPart pk.src).getD 0, bolt := pk.addr / 64, aux := pk.aux, key := pk.key,
          lines := [], tags := [] }) →
    (w.tags.length < 16 → (writeServe s k pk).dram = s.dram ∧ (writeServe s k pk).bolts = s.bolts
      ∧ w ∈ (getStack (writeServe s k pk) k).wr)
    ∧ (16 ≤ w.tags.length → replaying s ((epPart pk.src).getD 0) = false → crc32c (wrBytes w) = w.aux →
      slotTwice (getStack s k) ((epPart pk.src).getD 0) w.bolt = false →
      (writeServe s k pk).dram = (boltPut s ((epPart pk.src).getD 0) w.bolt (wrBytes w) w.aux).dram))

/-- MILL_DESCRIPTOR_TAKE, MILL_SGD, MILL_ADAM, MILL_LION, MILL_GATHER_ROWS, MILL_SCATTER_ADD, MILL_COPY_CONVERT, MILL_FILL,
MILL_ORDERED_REDUCTION, REDUCTION_SLOT_ARRIVAL, DRAM_REFRESH, PATROL_SCRUB, INTERLEAVE_IMBALANCE and UCIE_MODULE_FENCE
complete. With nothing of its partition running a mill takes the oldest descriptor, a well-formed one into work. On its partition's
turn, on a stack and for a partition that are not lost, a running descriptor of the command's op works on its next group,
or with none left completes and passes the turn on; an ordered reduction does so by its ready groups (R287, R288, R290 to R292). A
slot arrival with nothing running is noted with the partition's first 64 posts. A refresh counts up its bank and changes nothing
else; a patrol scrub that is set and that no stack test holds scrubs the next bolt and stands behind it, and with none left begins
anew; a run of 16 imbalanced intervals is reported with its stack and its dominating partition; a fenced UCIe module is
down, and with fewer than seven left the stack is lost (R271, R276, R295, R297). -/
def Obligations.MillsAndStackUpkeep : Prop :=
  (∀ (k n : Nat) (res : Bool) (bad : List (Nat × Nat)) (e : MillEnt) (s : State), k < 8 → n < 12 → (getStack s k).lost = false →
    (∀ rest, kvGet none (getStack s k).running n = none → kvGet [] (getStack s k).queues n = e :: rest →
      millDescOk e.desc = true →
      ∃ t, exec (.millDescriptorTake k n) s = .next t ∧ kvGet none (getStack t k).running n = some e
        ∧ kvGet [] (getStack t k).queues n = rest ∧ t = modStack s k (fun _ => getStack t k))
    ∧ (kvGet none (getStack s k).running n = some e → millTurn s k = some n → (getPart s n).lost = false →
      (∀ (x : Instr) (r : Bool),
        (fld e.desc 0 1 = 1 ∧ x = .millSgd k n res bad ∧ r = res)
          ∨ (fld e.desc 0 1 = 2 ∧ x = .millAdam k n res bad ∧ r = res)
          ∨ (fld e.desc 0 1 = 3 ∧ x = .millLion k n res bad ∧ r = res)
          ∨ (fld e.desc 0 1 = 0x20 ∧ x = .millGatherRows k n res bad ∧ r = res)
          ∨ (fld e.desc 0 1 = 0x21 ∧ x = .millScatterAdd k n res bad ∧ r = res)
          ∨ (fld e.desc 0 1 = 0x30 ∧ x = .millCopyConvert k n bad ∧ r = false)
          ∨ (fld e.desc 0 1 = 0x31 ∧ x = .millFill k n bad ∧ r = false) →
        (∀ o, nextGroup s k n e = some o → ∃ t, exec x s = .next t ∧ t = groupWork s k n e o r bad)
        ∧ (nextGroup s k n e = none → ∃ t, exec x s = .next t ∧ t = millTurned (millComplete s k n e) k n))
      ∧ (fld e.desc 0 1 = 0x10 →
        (∀ o, readyGroup s k n e = some o →
          ∃ t, exec (.millOrderedReduction k n res bad) s = .next t ∧ t = groupWork s k n e o res bad)
        ∧ (readyGroup s k n e = none →
          ∃ t, exec (.millOrderedReduction k n res bad) s = .next t ∧ t = millTurned (millComplete s k n e) k n)))
    ∧ (∀ b rest, (getStack s k).slotQ = (n, b) :: rest → kvGet none (getStack s k).running n = none →
      ∃ t, exec (.reductionSlotArrival k res bad) s = .next t ∧ (getStack t k).slotQ = rest ∧ t.dram = s.dram
        ∧ kvGet [] (getStack t k).queues n
          = ((kvGet [] (getStack s k).queues n).take 64).map (slotNote b) ++ (kvGet [] (getStack s k).queues n).drop 64)
    ∧ (e.src = 0xFFFF → kvGet none (getStack (millComplete s k n e) k).running n = none))
  ∧ (∀ (k : Nat) (s : State), k < 8 →
    (∃ t, exec (.dramRefresh k) s = .next t ∧ t = { s with mems := t.mems } ∧ (∀ j, j ≠ k → getStack t j = getStack s j)
      ∧ getStack t k = { getStack s k with refresh := ((getStack s k).refresh + 1) % 2 ^ 32 })
    ∧ (∀ corr bad key, (getStack s k).scrubH ≠ 0 → (getStack s k).lost = false → stackTested s k = false →
      scrubNext s k = some key →
      ∃ t, exec (.patrolScrub k corr bad) s = .next t ∧ t = scrubBolt s k key corr bad
        ∧ (getStack t k).scrubPos = key + 1 ∧ t.dram = s.dram)
    ∧ (∀ corr bad, (getStack s k).scrubH ≠ 0 → (getStack s k).lost = false → stackTested s k = false →
      scrubNext s k = none →
      ∃ t, exec (.patrolScrub k corr bad) s = .next t ∧ t = { s with mems := t.mems }
        ∧ getStack t k = { getStack s k with scrubPos := 0, rowCorr := [] } ∧ (∀ j, j ≠ k → getStack t j = getStack s j))
    ∧ (∀ g, (upto 0 4).find? (fun g => decide (16 ≤ kvGet 0 (getStack s k).imbalRun g)) = some g →
      ∃ t, exec (.interleaveImbalance k) s = .next t
        ∧ t = { s with
            mems := t.mems
            reeve := { s.reeve with imbal := s.reeve.imbal ++ [(s.clk.bell, k, dominant (getStack s k) g)] } }
        ∧ (getStack t k).imbal = setBit (getStack s k).imbal (dominant (getStack s k) g)
        ∧ kvGet 0 (getStack t k).imbalRun g = 0 ∧ (∀ j, j ≠ k → getStack t j = getStack s j))
    ∧ (∀ m, m < 8 → bitAt (getStack s k).ucieUp m = true → (getStack s k).lost = false →
      ∃ t, exec (.ucieModuleFence k m) s = .next t ∧ (getStack t k).ucieUp = clrBit (getStack s k).ucieUp m
        ∧ (getStack t k).lost = decide (countOf 8 (bitAt (clrBit (getStack s k).ucieUp m)) < 7)
        ∧ t.dram = s.dram))

/-- PORT_SIGNAL_DETECT, LANE_TRAIN_TIMEOUT and PORT_TRAINING_COMPLETE complete. Signal, and light for an O port, take a
port from Detect to Train on the lanes with signal, with a fresh link layer; without light the signal is noted and the port
stays; lanes whose signal comes during Train join it, and a port that is Off takes no notice; a lane whose time runs out is left out,
and a port with none left waits for signal again and holds up the start no longer (R303, R305, R451). When training ends the lanes
trained carry the port, the lane mapping is held (R300), and the peer's identity and the latency in steps of 5 ps stand in their
registers (R306); a link layer not yet in Measure starts afresh, sequences at zero and every receive buffer granted (R313, R314). In
keep-alive, the module's or the peer's, the port is in Keep-alive on lane 0 (R331, R333). Otherwise a peer that is not the one expected
holds the port, with an event (R309); the first training before the memory test's end leads to Qualify (R451), and any other to
Up, provisional, or to Held, counted as a conflict, where the peer of a port that follows reports another domain (R330). -/
def Obligations.LinkTrainingStartsAndEnds : Prop :=
  (∀ (p : Nat) (q : Port), (linkFresh p q).txSeq = 0 ∧ (linkFresh p q).rxSeq = 0 ∧ (linkFresh p q).replay = []
    ∧ (∀ c, c < 4 → kvGet 0 (linkFresh p q).credits c = rxFlits p c) ∧ (linkFresh p q).txQ = q.txQ)
  ∧ (∀ (p lanes : Nat) (s : State), p < 32 → lanes < 16 → (getPort s p).st ≠ 0 →
    ∃ t, exec (.portSignalDetect p lanes) s = .next t ∧ portWork p s t
      ∧ ((getPort s p).st = 1 → Nat.lor (getPort s p).present lanes ≠ 0 → portLit s p = true →
          getPort t p = linkFresh p { getPort s p with
            present := Nat.lor (getPort s p).present lanes, st := 2, signal := Nat.lor (getPort s p).present lanes })
      ∧ ((getPort s p).st = 1 → portLit s p = false ∨ Nat.lor (getPort s p).present lanes = 0 →
          getPort t p = { getPort s p with present := Nat.lor (getPort s p).present lanes })
      ∧ ((getPort s p).st = 2 → getPort t p = { getPort s p with
          present := Nat.lor (getPort s p).present lanes, signal := Nat.lor (getPort s p).signal lanes })
      ∧ (2 < (getPort s p).st → getPort t p = { getPort s p with present := Nat.lor (getPort s p).present lanes }))
  ∧ (∀ (p lanes : Nat) (s : State), p < 32 → lanes < 16 → (getPort s p).st = 0 → exec (.portSignalDetect p lanes) s = .next s)
  ∧ (∀ (p lane : Nat) (s : State), p < 32 → lane < 4 → (getPort s p).st = 2 → bitAt (getPort s p).signal lane = true →
    ∃ t, exec (.laneTrainTimeout p lane) s = .next t
      ∧ t = { s with ports := t.ports, start := { s.start with blocking := t.start.blocking } }
      ∧ (∀ q, q ≠ p → getPort t q = getPort s q)
      ∧ getPort t p = { getPort s p with
          signal := (getPort s p).signal - 2 ^ lane
          st := if (getPort s p).signal = 2 ^ lane then 1 else 2 }
      ∧ ((getPort s p).signal = 2 ^ lane → bitAt t.start.blocking p = false)
      ∧ ((getPort s p).signal ≠ 2 ^ lane → t.start.blocking = s.start.blocking))
  ∧ (∀ (p lane : Nat) (s : State), p < 32 → lane < 4 → (getPort s p).st ≠ 2 ∨ bitAt (getPort s p).signal lane = false →
    exec (.laneTrainTimeout p lane) s = .next s)
  ∧ (∀ (p peerMod peerPort lat : Nat) (map : List (Nat × Bool)) (ls : List Byte) (s : State), p < 32 →
    (getPort s p).st = 2 ∨ (getPort s p).st = 3 → (getPort s p).signal ≠ 0 →
    ∃ t, exec (.portTrainingComplete p peerMod peerPort lat map ls) s = .next t
      ∧ t = { s with ports := t.ports, link := t.link, reeve := { s.reeve with inbox := t.reeve.inbox } }
      ∧ (getPort t p).trained = true ∧ (getPort t p).peerValid = true
      ∧ (getPort t p).peerMod = peerMod % 2 ^ 17 ∧ (getPort t p).peerPort = peerPort % 32
      ∧ (getPort t p).lat = lat / 5 * 5 % 2 ^ 32 ∧ (getPort t p).laneMap = map
      ∧ (s.power.keepAlive = true ∨ fld ls 5 1 % 4 = 2 → (getPort t p).st = 7 ∧ (getPort t p).lanes = 1)
      ∧ (s.power.keepAlive = true → ∀ q, q ≠ p → getPort t q = getPort s q)
      ∧ (s.power.keepAlive = false → fld ls 5 1 % 4 ≠ 2 →
        ((getPort t p).st ≠ 8 → ∀ q, q ≠ p → getPort t q = getPort s q)
        ∧ (getPort t p).lanes = (getPort s p).signal
        ∧ ((getPort s p).st = 2 → (getPort t p).txSeq = 0 ∧ (getPort t p).rxSeq = 0 ∧ (getPort t p).replay = []
            ∧ ∀ c, c < 4 → kvGet 0 (getPort t p).credits c = rxFlits p c)
        ∧ ((getPort s p).st = 3 → (getPort t p).txSeq = (getPort s p).txSeq ∧ (getPort t p).replay = (getPort s p).replay)
        ∧ ((getPort s p).expCheck = true → peerMod % 2 ^ 17 ≠ (getPort s p).expMod ∨ peerPort % 32 ≠ (getPort s p).expPort →
            (getPort t p).st = 8 ∧ t.link = s.link ∧ ∃ e, e.code = evPeerChanged ∧ t.reeve.inbox = s.reeve.inbox ++ [e])
        ∧ ((getPort s p).expCheck = false ∨ peerMod % 2 ^ 17 = (getPort s p).expMod ∧ peerPort % 32 = (getPort s p).expPort →
            ((getPort s p).trained = false → s.start.phase < 7 → s.start.ready = false → (getPort t p).st = 4)
            ∧ ((getPort s p).trained = true ∨ 7 ≤ s.start.phase ∨ s.start.ready = true →
                ((getPort s p).followOn = false ∨ bitAt (fld ls 7 1) 1 = false → (getPort t p).st = 5)
                ∧ ((getPort s p).followOn = true → bitAt (fld ls 7 1) 1 = true →
                    s.link.root = false → s.link.inDomain = true → fld ls 8 4 % 2 ^ 17 ≠ s.link.domain →
                    (getPort t p).st = 8 ∧ (getPort t p).conflict = satAdd 16 (getPort s p).conflict 1)))))
  ∧ (∀ (p peerMod peerPort lat : Nat) (map : List (Nat × Bool)) (ls : List Byte) (s : State), p < 32 →
    ((getPort s p).st ≠ 2 ∧ (getPort s p).st ≠ 3) ∨ (getPort s p).signal = 0 →
    exec (.portTrainingComplete p peerMod peerPort lat map ls) s = .next s)

/-- LANE_QUALIFIED, PORT_ERROR_RATIO_EXIT, RETRY_GIVE_UP and LOSS_OF_SIGNAL complete. A lane's counts are stored in Qualify and
in Up; it passes with 10^13 bits at 200 Gb/s, at most one in 10^5 of them corrected, and no uncorrectable codeword; the last lane
to pass makes a provisional port qualified, and one in Qualify that neither follows nor checks its peer Up, qualified. In Qualify
a lane that fails is left out with a ledger entry: the port requalifies on the lanes left, with no count kept, and with none it is
Failed on the lanes that trained and blocks the start no longer (R307, R308). An Up port
that leaves for its error ratio, for silence or exhausted retries, or for the loss of a lane's signal trains again with its exit
cause and a 0x0141 event, nothing left queued in LC0 to LC2 and the whole messages of LC3 kept, and a fresh link layer (R308, R314,
R332); without signal or light it waits in Detect. A lane that is not in use only loses its signal; the rows that find no such
port leave the state. -/
def Obligations.LanesQualifyAndPortsLeaveUp : Prop :=
  (∀ cbits uncorr secs : Nat, lanePasses cbits uncorr secs = true ↔ 50 ≤ secs ∧ cbits ≤ 2000000 * secs ∧ uncorr = 0)
  ∧ (∀ (p lane cbits uncorr secs ratio : Nat) (s : State), p < 32 → lane < 4 →
    bitAt (getPort s p).lanes lane = false ∨ ((getPort s p).st ≠ 4 ∧ portUp (getPort s p) = false) →
    exec (.laneQualified p lane cbits uncorr secs ratio) s = .next s)
  ∧ (∀ (p lane cbits uncorr secs ratio : Nat) (s : State), p < 32 → lane < 4 → bitAt (getPort s p).lanes lane = true →
    ((getPort s p).st = 6 ∨ (getPort s p).st = 5 ∧ lanePasses cbits uncorr secs = false
        ∨ (getPort s p).st = 4 ∧ secs < 50 ∧ uncorr = 0 →
      ∃ t, exec (.laneQualified p lane cbits uncorr secs ratio) s = .next t ∧ portWork p s t
        ∧ getPort t p = { getPort s p with lane := (getPort t p).lane }
        ∧ laneOf (getPort t p) lane = { laneOf (getPort s p) lane with
            cbits := min (2 ^ 32 - 1) cbits, uncorr := min 65535 uncorr, seconds := min 32767 secs
            qpass := (laneOf (getPort s p) lane).qpass || lanePasses cbits uncorr secs }
        ∧ (∀ k, k ≠ lane → laneOf (getPort t p) k = laneOf (getPort s p) k))
    ∧ ((getPort s p).st = 5 → lanePasses cbits uncorr secs = true →
      ∃ t, exec (.laneQualified p lane cbits uncorr secs ratio) s = .next t
        ∧ t = { s with ports := t.ports, start := { s.start with blocking := t.start.blocking } }
        ∧ (∀ q, q ≠ p → getPort t q = getPort s q)
        ∧ (laneOf (getPort t p) lane).qpass = true ∧ (laneOf (getPort t p) lane).cbits = min (2 ^ 32 - 1) cbits
        ∧ ((getPort t p).st = 6 ↔
            ∀ k, k < 4 → k ≠ lane → bitAt (getPort s p).lanes k = true → (laneOf (getPort s p) k).qpass = true)
        ∧ ((getPort t p).st = 6 → bitAt t.start.blocking p = false) ∧ ((getPort t p).st = 5 ∨ (getPort t p).st = 6))
    ∧ ((getPort s p).st = 4 → lanePasses cbits uncorr secs = true → (getPort s p).followOn = false → (getPort s p).expCheck = false →
      ∃ t, exec (.laneQualified p lane cbits uncorr secs ratio) s = .next t ∧ t.start.ledger = s.start.ledger
        ∧ (∀ q, q ≠ p → getPort t q = getPort s q)
        ∧ ((getPort t p).st = 6 ↔
            ∀ k, k < 4 → k ≠ lane → bitAt (getPort s p).lanes k = true → (laneOf (getPort s p) k).qpass = true)
        ∧ ((getPort t p).st = 6 → bitAt t.start.blocking p = false) ∧ ((getPort t p).st = 4 ∨ (getPort t p).st = 6))
    ∧ ((getPort s p).st = 4 → lanePasses cbits uncorr secs = false → 50 ≤ secs ∨ uncorr ≠ 0 →
      ∃ t, exec (.laneQualified p lane cbits uncorr secs ratio) s = .next t
        ∧ t.start.ledger.length = s.start.ledger.length + 1 ∧ (∀ q, q ≠ p → getPort t q = getPort s q)
        ∧ ((getPort s p).lanes ≠ 2 ^ lane → (getPort t p).lanes = (getPort s p).lanes - 2 ^ lane ∧ (getPort t p).st = 4
            ∧ ∀ k, k < 4 → (laneOf (getPort t p) k).cbits = 0 ∧ (laneOf (getPort t p) k).uncorr = 0
              ∧ (laneOf (getPort t p) k).qpass = false)
        ∧ ((getPort s p).lanes = 2 ^ lane → (getPort t p).lanes = (getPort s p).signal ∧ (getPort t p).st = 9
            ∧ bitAt t.start.blocking p = false)))
  ∧ ((∀ (s : State) (p exit st : Nat), portUp (getPort s p) = true →
    (getPort (portRetrain s p exit st) p).exit = exit
    ∧ (getPort (portRetrain s p exit st) p).st = (if st = 2 ∧ portTrainable s p = false then 1 else st)
    ∧ (getPort (portRetrain s p exit st) p).lanes = 0 ∧ (getPort (portRetrain s p exit st) p).bellActive = false
    ∧ (getPort (portRetrain s p exit st) p).peerValid = false ∧ (getPort (portRetrain s p exit st) p).replay = []
    ∧ (getPort (portRetrain s p exit st) p).txCur = [] ∧ (getPort (portRetrain s p exit st) p).rxCur = []
    ∧ (st ≤ 2 → (∀ c, c < 3 → kvGet [] (getPort (portRetrain s p exit st) p).txQ c = [])
        ∧ kvGet [] (getPort (portRetrain s p exit st) p).txQ 3 = kvGet [] (getPort s p).txQ 3)
    ∧ (getPort (portRetrain s p exit st) p).txSeq = 0 ∧ (getPort (portRetrain s p exit st) p).rxSeq = 0
    ∧ (∀ c, c < 4 → kvGet 0 (getPort (portRetrain s p exit st) p).credits c = rxFlits p c)
    ∧ (∃ e, e.code = 0x0141 ∧ e.unit = unitId 3 p ∧ (portRetrain s p exit st).reeve.inbox = s.reeve.inbox ++ [e])
    ∧ (portRetrain s p exit st).clk = s.clk ∧ (portRetrain s p exit st).tiles = s.tiles
    ∧ ((getPort s p).firstBell = false → (portRetrain s p exit st).link = s.link))
  ∧ (∀ (p lane : Nat) (s : State), p < 32 → lane < 4 → portUp (getPort s p) = true → bitAt (getPort s p).lanes lane = true →
    exec (.portErrorRatioExit p lane) s = .next (portRetrain s p 4 2))
  ∧ (∀ (p lane : Nat) (s : State), p < 32 → lane < 4 → portUp (getPort s p) = false ∨ bitAt (getPort s p).lanes lane = false →
    exec (.portErrorRatioExit p lane) s = .next s)
  ∧ (∀ (p : Nat) (silent : Bool) (s : State), p < 32 → portUp (getPort s p) = true →
    silent = true ∨ ((getPort s p).discarding = true ∧ 8 ≤ (getPort s p).reqTries) →
    exec (.retryGiveUp p silent) s = .next (withHealth s (portRetrain s p 3 2)))
  ∧ (∀ (p : Nat) (s : State), p < 32 → (getPort s p).reqTries < 8 ∨ (getPort s p).discarding = false →
    exec (.retryGiveUp p false) s = .next s)
  ∧ (∀ (p : Nat) (silent : Bool) (s : State), p < 32 → portUp (getPort s p) = false → exec (.retryGiveUp p silent) s = .next s)
  ∧ (∀ (p lane : Nat) (s : State), p < 32 → lane < 4 → (getPort s p).st = 0 → exec (.lossOfSignal p lane) s = .next s)
  ∧ (∀ (p lane : Nat) (s : State), p < 32 → lane < 4 → (getPort s p).st = 1 →
    ∃ t, exec (.lossOfSignal p lane) s = .next t ∧ portWork p s t
      ∧ getPort t p = { getPort s p with present := clrBit (getPort s p).present lane })
  ∧ (∀ (p lane : Nat) (s : State), p < 32 → lane < 4 → 2 ≤ (getPort s p).st →
    ∃ t, exec (.lossOfSignal p lane) s = .next t ∧ (getPort t p).present = clrBit (getPort s p).present lane
      ∧ (bitAt (if (getPort s p).st = 2 then (getPort s p).signal else (getPort s p).lanes) lane = true →
          (getPort t p).st = (if clrBit (getPort s p).present lane ≠ 0 ∧ portLit s p = true then 2 else 1)
          ∧ (getPort t p).lanes = 0 ∧ (portUp (getPort s p) = true → (getPort t p).exit = 1)
          ∧ (getPort t p).signal = (if (getPort t p).st = 2 then (getPort t p).present else 0))
      ∧ (bitAt (if (getPort s p).st = 2 then (getPort s p).signal else (getPort s p).lanes) lane = false →
          portWork p s t ∧ getPort t p = { getPort s p with present := clrBit (getPort s p).present lane })))

/-- LASER_MONITOR_SAMPLE, LIGHT_RESTORED, CLOCK_SOURCE_LOSS, CLOCK_SOURCE_LOST, LK_CTL_EN_WRITE, LK_CTL_RETRAIN and
LK_PEER_EXP_WRITE complete. A sample latches each input's power, and an optical lane's two; an input below +15 dBm is dark, and
the ports it feeds leave for Detect, an Up one with exit cause 2; the other inputs keep their state; received light below -8 dBm is no
signal; with D94 off nothing is sampled (R22). Light that is back lets the ports that it feeds train where they
wait with signal (R302, R303). A module that is not its domain's root and whose locked source is no longer Up and following locks to the
first entry that is, and holds over without one; 10 s without one it leaves the domain, with an event (R327). EN takes a port that
is off to Detect with its pair's domain on, or turns it off, and the domain with it when the pair's other port is off too (R465,
R518); a fenced port is not enabled (R388); BELL_FOLLOW stands at once and is not yet in force (R334); RETRAIN trains an
Up port again (R308); with D95 off nothing is written (R518). A Held port that does not follow comes Up, provisional, with CHECK
cleared or a matching LK_PEER_EXP; a port in Qualify or Up whose known peer the new value excludes is Held, with an event (R309); with
the pair's domain off LK_PEER_EXP ignores the write (R518). The rows without their bit leave the state. -/
def Obligations.LightClockAndPortControl : Prop :=
  ((∀ (inputs : List Nat) (lanes : List (Nat × Nat × Nat)) (s : State), domOn s 94 = false →
    exec (.laserMonitorSample inputs lanes) s = .next s)
  ∧ (∀ (v a b : Nat) (s : State), domOn s 94 = true → 64 ≤ v → v < 128 →
    ∃ t, exec (.laserMonitorSample [] [(v, a, b)]) s = .next t
      ∧ (laneOf (getPort t (v / 4)) (v % 4)).modIn = a % 65536 ∧ (laneOf (getPort t (v / 4)) (v % 4)).rx = b % 65536
      ∧ (getPort t (v / 4)).present
        = (if pwrInt b < -800 then clrBit (getPort s (v / 4)).present (v % 4) else (getPort s (v / 4)).present)
      ∧ t.link.light = s.link.light ∧ t.link.laser = s.link.laser)
  ∧ (∀ (inputs : List Nat) (lanes : List (Nat × Nat × Nat)) (s : State), domOn s 94 = true → inputs.length ≤ 4 →
    ∃ t, exec (.laserMonitorSample inputs lanes) s = .next t
      ∧ (∀ (j v : Nat), inputs[j]? = some v → kvGet 0x8000 t.link.laser j = v % 65536
          ∧ bitAt t.link.light j = (bitAt s.link.light j && !(decide (pwrInt v < 1500)))
          ∧ (pwrInt v < 1500 → ∀ p, 16 + 4 * j ≤ p → p < 20 + 4 * j → 2 ≤ (getPort s p).st →
              (getPort t p).st = 1 ∧ (portUp (getPort s p) = true → (getPort t p).exit = 2)))
      ∧ (∀ j, inputs.length ≤ j → bitAt t.link.light j = bitAt s.link.light j)
      ∧ t.clk = s.clk ∧ t.tiles = s.tiles ∧ t.mems = s.mems ∧ t.pins = s.pins)
  ∧ (∀ (j : Nat) (s : State), j < 4 →
    ∃ t, exec (.lightRestored j) s = .next t ∧ t = { s with link := { s.link with light := t.link.light }, ports := t.ports }
      ∧ bitAt t.link.light j = true ∧ (∀ i, i ≠ j → bitAt t.link.light i = bitAt s.link.light i)
      ∧ (∀ p, 16 + 4 * j ≤ p → p < 20 + 4 * j → (getPort s p).st = 1 → (getPort s p).present ≠ 0 →
          (getPort t p).st = 2 ∧ (getPort t p).signal = (getPort s p).present)
      ∧ (∀ p, p < 16 + 4 * j ∨ 20 + 4 * j ≤ p ∨ (getPort s p).st ≠ 1 ∨ (getPort s p).present = 0 →
          getPort t p = getPort s p)))
  ∧ ((∀ s : State, s.link.root = false → s.link.locked = true → portFollows s s.link.src = false →
    (∀ p, clkSource s = some p → exec .clockSourceLoss s
      = .next { s with link := { s.link with locked := true, holdover := false, src := p } })
    ∧ (clkSource s = none → exec .clockSourceLoss s = .next { s with link := { s.link with locked := false, holdover := true } }))
  ∧ (∀ (s : State) (p : Nat), clkSource s = some p → p ∈ clkEntries s ∧ portUp (getPort s p) = true
    ∧ (getPort s p).followOn = true)
  ∧ (∀ s : State, s.link.root = true ∨ s.link.locked = false ∨ portFollows s s.link.src = true →
    exec .clockSourceLoss s = .next s)
  ∧ (∀ s : State, s.link.holdover = true → clkSource s = none → (∀ p, p < 32 → (getPort s p).st ≠ 8) →
    ∃ e u, e.code = evClockLost ∧ exec .clockSourceLost s = .next (withHealth s u)
      ∧ u = { s with link := { s.link with holdover := false, inDomain := false, domain := 0 }
                     reeve := { s.reeve with inbox := s.reeve.inbox ++ [e] } })
  ∧ (∀ s : State, s.link.holdover = false ∨ (clkSource s).isSome = true → exec .clockSourceLost s = .next s))
  ∧ ((∀ (p v : Nat) (s : State), p < 32 → domOn s 95 = false →
    exec (if bitAt v 29 then .lkCtlRetrain p v else .lkCtlEnWrite p v) s = .next (withHealth s s))
  ∧ (∀ (p v : Nat) (s : State), p < 32 → bitAt v 29 = false → bitAt v 31 = true → (getPort s p).en = true →
    (getPort s p).st ≠ 0 → domOn s 95 = true → (getPort s p).fenced = false →
    ∃ u, exec (.lkCtlEnWrite p v) s = .next (withHealth s u) ∧ getPort u p = { getPort s p with follow := bitAt v 30 }
      ∧ (∀ q, q ≠ p → getPort u q = getPort s q) ∧ kvGet none u.start.flash (64 + p) = some (2 + b2n (bitAt v 30)))
  ∧ (∀ (p v : Nat) (s : State), p < 32 → bitAt v 29 = false → bitAt v 31 = true → (getPort s p).fenced = false →
    (getPort s p).st = 0 → domOn s 95 = true →
    ∃ u, exec (.lkCtlEnWrite p v) s = .next (withHealth s u) ∧ (getPort u p).en = true ∧ (getPort u p).st = 1
      ∧ (getPort u p).follow = bitAt v 30 ∧ (getPort u p).followOn = (getPort s p).followOn
      ∧ domOn u (76 + p % 16) = true ∧ (∀ q, q ≠ p → getPort u q = getPort s q)
      ∧ kvGet none u.start.flash (64 + p) = some (2 + b2n (bitAt v 30)))
  ∧ (∀ (p v : Nat) (s : State), p < 32 → bitAt v 29 = false → bitAt v 31 = false → domOn s 95 = true →
    ∃ u, exec (.lkCtlEnWrite p v) s = .next (withHealth s u) ∧ (getPort u p).en = false ∧ (getPort u p).st = 0
      ∧ (getPort u p).follow = bitAt v 30 ∧ ((getPort u ((p + 16) % 32)).en = false → domOn u (76 + p % 16) = false)
      ∧ kvGet none u.start.flash (64 + p) = some (b2n (bitAt v 30)))
  ∧ (∀ (p v : Nat) (s : State), p < 32 → bitAt v 31 = true → (getPort s p).fenced = true → (getPort s p).en = false →
    ∃ u, exec (if bitAt v 29 then .lkCtlRetrain p v else .lkCtlEnWrite p v) s = .next (withHealth s u)
      ∧ (getPort u p).en = false)
  ∧ (∀ (p v : Nat) (s : State), p < 32 → bitAt v 29 = true → bitAt v 31 = true → (getPort s p).en = true →
    portUp (getPort s p) = true → domOn s 95 = true →
    ∃ u, exec (.lkCtlRetrain p v) s = .next (withHealth s u) ∧ (getPort u p).st = (if portTrainable s p then 2 else 1)
      ∧ (getPort u p).exit = 5 ∧ (getPort u p).en = true)
  ∧ (∀ (p v : Nat) (s : State), p < 32 → bitAt v 29 = true → exec (.lkCtlEnWrite p v) s = .next s)
  ∧ (∀ (p v : Nat) (s : State), p < 32 → bitAt v 29 = false → exec (.lkCtlRetrain p v) s = .next s)
  ∧ (∀ (p v : Nat) (s : State), p < 32 → domOn s (76 + p % 16) = false → exec (.lkPeerExpWrite p v) s = .next s)
  ∧ (∀ (p v : Nat) (s : State), p < 32 → domOn s (76 + p % 16) = true →
    ∃ u, exec (.lkPeerExpWrite p v) s = .next (withHealth s u) ∧ (getPort u p).expCheck = bitAt v 31
      ∧ (getPort u p).expPort = bits v 21 17 ∧ (getPort u p).expMod = bits v 16 0
      ∧ kvGet none u.start.flash (128 + p) = some (v % 2 ^ 32)
      ∧ (bitAt v 31 = false ∨ bits v 16 0 = (getPort s p).peerMod ∧ bits v 21 17 = (getPort s p).peerPort →
          ((getPort s p).st = 8 → (getPort s p).followOn = false →
            (getPort u p).st = 5 ∧ ∀ q, q ≠ p → getPort u q = getPort s q)
          ∧ ((getPort s p).st ≠ 8 → (getPort u p).st = (getPort s p).st ∧ ∀ q, q ≠ p → getPort u q = getPort s q))
      ∧ (bitAt v 31 = true → bits v 16 0 ≠ (getPort s p).peerMod ∨ bits v 21 17 ≠ (getPort s p).peerPort →
          ((getPort s p).peerValid = true → 4 ≤ (getPort s p).st → (getPort s p).st ≤ 6 →
            (getPort u p).st = 8 ∧ ∃ e, e.code = evPeerChanged ∧ u.reeve.inbox = s.reeve.inbox ++ [e])
          ∧ ((getPort s p).peerValid = false ∨ (getPort s p).st < 4 ∨ 6 < (getPort s p).st →
            (getPort u p).st = (getPort s p).st ∧ ∀ q, q ≠ p → getPort u q = getPort s q))))

/-- FLIT_TRANSMIT completes. At a flit boundary of a port that sends flits, one whole flit leaves: a due bell flit first, then a
retry request, then a replay, then a link-state flit that is due (each 1,024th flit, or on a change), then data for which
there is a credit, and else an idle flit; a data flit takes its sequence, one credit and a place in the replay buffer, and waits
while that is full (R310 to R314). A port whose lanes have
trained sends its probe first and is in Measure (R304 to R306; the moment is the model's choice, assumption 28); where both
pairs of the Reeve are lost the ports carry idle flits (R412). Only that port changes; one that sends no flits stays as it is. -/
def Obligations.FlitsLeaveByPriority : Prop :=
  (∀ (p : Nat) (s : State), p < 32 → (getPort s p).st < 2 ∨ 9 < (getPort s p).st ∨ ((getPort s p).st = 2 ∧ (getPort s p).signal = 0) →
    ∃ t, exec (.flitTransmit p) s = .next t ∧ portWork p s t ∧ getPort t p = getPort s p)
  ∧ (∀ (p : Nat) (s : State), p < 32 → (getPort s p).st = 2 → (getPort s p).signal ≠ 0 → s.reeve.gone = false →
    ∃ t, exec (.flitTransmit p) s = .next t ∧ portWork p s t ∧ (getPort t p).st = 3
      ∧ (getPort t p).lanes = (getPort s p).signal ∧ (getPort t p).probeDue = false
      ∧ fld (getPort t p).lastTx 0 1 = 6 ∧ flitGood (getPort t p).lastTx = true)
  ∧ (∀ (p : Nat) (s : State), p < 32 → 3 ≤ (getPort s p).st → (getPort s p).st ≤ 9 → s.reeve.gone = true →
    ∃ t, exec (.flitTransmit p) s = .next t ∧ portWork p s t ∧ fld (getPort t p).lastTx 0 1 = 2
      ∧ (getPort t p).bellDue = (getPort s p).bellDue ∧ (getPort t p).txQ = (getPort s p).txQ)
  ∧ ∀ (p : Nat) (s : State), p < 32 → 3 ≤ (getPort s p).st → (getPort s p).st ≤ 9 → s.reeve.gone = false →
    ∃ t, exec (.flitTransmit p) s = .next t ∧ portWork p s t
      ∧ (getPort t p).lastTx.length = 256 ∧ flitGood (getPort t p).lastTx = true
      ∧ ((getPort s p).probeDue = true → fld (getPort t p).lastTx 0 1 = 6 ∧ (getPort t p).probeDue = false)
      ∧ ((getPort s p).probeDue = false →
        ((getPort s p).bellDue = true → (getPort s p).bellActive = true →
            fld (getPort t p).lastTx 0 1 = 3 ∧ (getPort t p).bellDue = false ∧ fld (getPort t p).lastTx 12 8 = s.clk.bell % 2 ^ 48)
        ∧ ((getPort s p).bellDue = false ∨ (getPort s p).bellActive = false →
          ((getPort s p).reqDue = true →
            fld (getPort t p).lastTx 0 1 = 4 ∧ (getPort t p).reqDue = false
            ∧ fld (getPort t p).lastTx 12 2 = (getPort s p).rxSeq % 65536
            ∧ (getPort t p).reqTries = (getPort s p).reqTries + 1)
          ∧ ((getPort s p).reqDue = false →
            (∀ e, (getPort s p).resend.bind (fun n => (getPort s p).replay.find? (fun e => e.1 == n)) = some e →
              (getPort t p).lastTx = flitAgain (getPort s p) e.2 ∧ (getPort t p).replay = (getPort s p).replay
              ∧ (getPort t p).txQ = (getPort s p).txQ ∧ (getPort t p).credits = (getPort s p).credits
              ∧ ((getPort s p).replay.any (fun x => x.1 == (e.1 + 1) % 4096) = true → (getPort t p).resend = some ((e.1 + 1) % 4096))
              ∧ ((getPort s p).replay.any (fun x => x.1 == (e.1 + 1) % 4096) = false → (getPort t p).resend = none))
            ∧ ((getPort s p).resend.bind (fun n => (getPort s p).replay.find? (fun e => e.1 == n)) = none →
              (1024 ≤ (getPort s p).lsCount ∨ (getPort s p).lastLs ≠ linkStateBody s p →
                fld (getPort t p).lastTx 0 1 = 5 ∧ (getPort t p).lsCount = 1 ∧ (getPort t p).lastLs = linkStateBody s p)
              ∧ ((getPort s p).lsCount < 1024 → (getPort s p).lastLs = linkStateBody s p →
                (getPort t p).lsCount = (getPort s p).lsCount + 1
                ∧ (∀ c, (getPort s p).replay.length < replayFlits p → dataClass (getPort s p) = some c → c < 4 →
                  (getPort s p).txSeq < 4096 →
                  fld (getPort t p).lastTx 0 1 = 1 ∧ fld (getPort t p).lastTx 1 1 = c
                  ∧ fld (getPort t p).lastTx 2 2 = (getPort s p).txSeq
                  ∧ (getPort t p).txSeq = ((getPort s p).txSeq + 1) % 4096
                  ∧ kvGet 0 (getPort s p).credits c = kvGet 0 (getPort t p).credits c + 1
                  ∧ (getPort t p).replay = (getPort s p).replay ++ [((getPort s p).txSeq, (getPort t p).lastTx)]
                  ∧ (∀ d, d ≠ c → kvGet 0 (getPort t p).credits d = kvGet 0 (getPort s p).credits d
                      ∧ kvGet [] (getPort t p).txQ d = kvGet [] (getPort s p).txQ d))
                ∧ (dataClass (getPort s p) = none ∨ replayFlits p ≤ (getPort s p).replay.length →
                  fld (getPort t p).lastTx 0 1 = 2 ∧ (getPort t p).txSeq = (getPort s p).txSeq
                  ∧ (getPort t p).replay = (getPort s p).replay ∧ (getPort t p).txQ = (getPort s p).txQ))))))

/-- DATA_FLIT_RECEIVE, IDLE_FLIT_RECEIVE, RETRY_REQUEST_RECEIVE, LINK_STATE_FLIT_RECEIVE, BELL_FLIT_RECEIVE and
PROBE_FLIT_RECEIVE complete on a flit whose CRC fails. The CRC of R311 is the one its parameters define, with the check value it gives, and a flit is whole when the CRC of
its first 252 bytes stands little-endian in its last four. A flit that fails it is discarded whole and counted, its
acknowledgement and credit fields included, on every row that receives flits; only that port changes; a port that runs no lane
takes none, but for the probe that finds one in Train. The next good flit restores the counts: taken after another of the same class, it leaves the credits, and, where it
acknowledges a flit no earlier than the other did, the replay buffer, as it would have left them alone. -/
def Obligations.FlitCrcGuardsTheLink : Prop :=
  (∀ bs : List Byte, crc32 bs = crcText 0x04C11DB7#32 bs) ∧ crc32 crcCheckBytes = 0xCBF43926
  ∧ (∀ fl : List Byte, flitGood fl = true ↔ fl.length = 256 ∧ slice fl 252 4 = toLe 4 (crcText 0x04C11DB7#32 (fl.take 252)))
  ∧ (∀ (p : Nat) (fl : List Byte) (echo : Bool) (r u : Nat) (s : State), p < 32 → (getPort s p).st < 2 ∨ 9 < (getPort s p).st →
    ∃ t, exec (.probeFlitReceive p fl echo r u) s = .next t ∧ portWork p s t ∧ getPort t p = getPort s p)
  ∧ (∀ (p : Nat) (fl : List Byte) (s : State), p < 32 → (getPort s p).st < 3 ∨ 9 < (getPort s p).st →
    ∀ (i : Instr), i = .dataFlitReceive p fl ∨ i = .idleFlitReceive p fl ∨ i = .retryRequestReceive p fl
        ∨ i = .linkStateFlitReceive p fl ∨ (∃ a, i = .bellFlitReceive p fl a) →
      exec i s = .next s)
  ∧ (∀ (p : Nat) (fl : List Byte) (s : State), p < 32 → 3 ≤ (getPort s p).st → (getPort s p).st ≤ 9 → flitGood fl = false →
    (∀ (i : Instr), i = .idleFlitReceive p fl ∨ i = .retryRequestReceive p fl ∨ i = .linkStateFlitReceive p fl
        ∨ (∃ a, i = .bellFlitReceive p fl a) ∨ (∃ e r t, i = .probeFlitReceive p fl e r t) →
      ∃ t, exec i s = .next t ∧ portWork p s t
        ∧ getPort t p = { getPort s p with crc := min 65535 ((getPort s p).crc + 1) })
    ∧ (∃ t, exec (.dataFlitReceive p fl) s = .next t ∧ portWork p s t
        ∧ (getPort t p).crc = min 65535 ((getPort s p).crc + 1) ∧ (getPort t p).credits = (getPort s p).credits
        ∧ (getPort t p).replay = (getPort s p).replay ∧ (getPort t p).rxSeq = (getPort s p).rxSeq
        ∧ (getPort t p).rxQ = (getPort s p).rxQ ∧ (getPort t p).rxCur = (getPort s p).rxCur
        ∧ (getPort t p).discarding = true ∧ ((getPort s p).discarding = false → (getPort t p).reqDue = true)
        ∧ ((getPort s p).discarding = true → (getPort t p).reqDue = (getPort s p).reqDue)))
  ∧ (∀ (f1 f2 : List Byte) (q : Port), fld f1 6 1 % 4 = fld f2 6 1 % 4 →
    (fld f1 8 2 + 65536 - kvGet 0 q.crSeen (fld f2 6 1 % 4)) % 65536 + (fld f2 8 2 + 65536 - fld f1 8 2) % 65536 < 65536 →
    kvGet 0 q.crSeen (fld f2 6 1 % 4) < 65536 → ∀ c, kvGet 0 (flitAck f2 (flitAck f1 q)).credits c = kvGet 0 (flitAck f2 q).credits c
      ∧ kvGet 0 (flitAck f2 (flitAck f1 q)).crSeen c = kvGet 0 (flitAck f2 q).crSeen c)
  ∧ (∀ (f1 f2 : List Byte) (q : Port) (j : Nat), bitAt (fld f2 4 2) 15 = true → (q.replay.map (fun e => e.1)).Nodup →
    q.replay.findIdx? (fun e => e.1 == fld f2 4 2 % 4096) = some j →
    (bitAt (fld f1 4 2) 15 = true → ∀ i, q.replay.findIdx? (fun e => e.1 == fld f1 4 2 % 4096) = some i → i ≤ j) →
    (flitAck f2 (flitAck f1 q)).replay = (flitAck f2 q).replay ∧ (flitAck f2 q).replay = q.replay.drop (j + 1))

/-- DATA_FLIT_RECEIVE, IDLE_FLIT_RECEIVE, RETRY_REQUEST_RECEIVE and RETRY_REQUEST_REPEAT complete. Data flits are taken in order: the expected sequence is accepted and acknowledged, any other is discarded, counted and
asked for once; a retry request sends the replay from the named sequence where it is held, and is repeated, up to eight times, while it
is not answered (R314). An idle flit carries its acknowledgement and credit report alone (R313). -/
def Obligations.FlitsAreTakenInOrder : Prop :=
  ∀ (p : Nat) (fl : List Byte) (s : State),
    (flitComes s p 1 fl → fld fl 2 2 % 4096 = (getPort s p).rxSeq →
      ∃ u, exec (.dataFlitReceive p fl) s = .next (withHealth s u) ∧ portWork p s u
        ∧ (getPort u p).rxSeq = ((getPort s p).rxSeq + 1) % 4096 ∧ (getPort u p).rxAck = some (getPort s p).rxSeq
        ∧ (getPort u p).discarding = false ∧ (getPort u p).reqTries = 0 ∧ (getPort u p).rx = ((getPort s p).rx + 1) % 2 ^ 32
        ∧ (∃ ms, (getPort u p).rxQ = (getPort s p).rxQ ++ ms))
    ∧ (flitComes s p 1 fl → fld fl 2 2 % 4096 ≠ (getPort s p).rxSeq →
      ∃ u, exec (.dataFlitReceive p fl) s = .next (withHealth s u) ∧ portWork p s u
        ∧ (getPort u p).rxSeq = (getPort s p).rxSeq ∧ (getPort u p).rxQ = (getPort s p).rxQ
        ∧ (getPort u p).seqBad = min 65535 ((getPort s p).seqBad + 1) ∧ (getPort u p).discarding = true
        ∧ ((getPort s p).discarding = false → (getPort u p).reqDue = true)
        ∧ ((getPort s p).discarding = true → (getPort u p).reqDue = (getPort s p).reqDue))
    ∧ (flitComes s p 2 fl →
      ∃ u, exec (.idleFlitReceive p fl) s = .next (withHealth s u) ∧ portWork p s u
        ∧ getPort u p = flitAck fl (getPort s p)
        ∧ kvGet 0 (flitAck fl (getPort s p)).credits (fld fl 6 1 % 4) = kvGet 0 (getPort s p).credits (fld fl 6 1 % 4)
            + (fld fl 8 2 + 65536 - kvGet 0 (getPort s p).crSeen (fld fl 6 1 % 4)) % 65536
        ∧ (bitAt (fld fl 4 2) 15 = false → (flitAck fl (getPort s p)).replay = (getPort s p).replay)
        ∧ (bitAt (fld fl 4 2) 15 = true →
            (flitAck fl (getPort s p)).replay = replayLeft (getPort s p).replay (fld fl 4 2 % 4096)))
    ∧ (flitComes s p 4 fl → (flitAck fl (getPort s p)).replay.any (fun e => e.1 == fld fl 12 2 % 4096) = true →
      ∃ u, exec (.retryRequestReceive p fl) s = .next (withHealth s u) ∧ portWork p s u
        ∧ (getPort u p).resend = some (fld fl 12 2 % 4096)
        ∧ (getPort u p).replays = min 65535 ((getPort s p).replays + 1))
    ∧ (flitComes s p 4 fl → (flitAck fl (getPort s p)).replay.any (fun e => e.1 == fld fl 12 2 % 4096) = false →
      ∃ u, exec (.retryRequestReceive p fl) s = .next (withHealth s u) ∧ portWork p s u
        ∧ getPort u p = flitAck fl (getPort s p))
    ∧ (p < 32 → (getPort s p).discarding = false ∨ 8 ≤ (getPort s p).reqTries →
      exec (.retryRequestRepeat p) s = .next s)
    ∧ (p < 32 → (getPort s p).discarding = true → (getPort s p).reqTries < 8 →
      ∃ t, exec (.retryRequestRepeat p) s = .next t ∧ portWork p s t ∧ getPort t p = { getPort s p with reqDue := true })

/-- PROBE_FLIT_RECEIVE, LINK_STATE_FLIT_RECEIVE, BELL_FLIT_RECEIVE and BELL_FLIT_LOST complete. A probe is echoed, and the echo of
an own one gives half the round trip, in steps of 10 ps, less the peer's turnaround (R306). The peer's states are taken, a
refusal of a change still to come is kept (R79), and a following port whose peer reports another domain is held, with an
event (R330). A peer in keep-alive takes the port into Keep-alive, and one that has left it retrains a port that stands there, but
for a module that is in keep-alive itself (R331). A port that waits for its domain's count takes the flit's, with the phase. A
neighbour's bell of this interval moves the expected time later and never earlier (R46, R328); one that is not the
own bell nearest in time is a conflict (R330). A lost bell flit is counted and moves nothing (R329). -/
def Obligations.ProbesBellsAndLinkState : Prop :=
  (∀ (p rtt turn : Nat) (fl : List Byte) (s : State), flitComes s p 6 fl →
    (∃ u, exec (.probeFlitReceive p fl true rtt turn) s = .next (withHealth s u) ∧ portWork p s u
      ∧ (getPort u p).lat = (rtt / 10 * 10 - turn) / 2 % 2 ^ 32)
    ∧ (∃ u, exec (.probeFlitReceive p fl false rtt turn) s = .next (withHealth s u) ∧ portWork p s u
      ∧ fld (getPort u p).lastTx 0 1 = 6 ∧ slice (getPort u p).lastTx 12 240 = slice fl 12 240))
  ∧ (∀ (p : Nat) (fl : List Byte) (s : State), flitComes s p 5 fl →
    ∃ u, exec (.linkStateFlitReceive p fl) s = .next (withHealth s u)
      ∧ u = { s with ports := u.ports, link := u.link, start := { s.start with blocking := u.start.blocking }
                     reeve := { s.reeve with changes := u.reeve.changes, inbox := u.reeve.inbox } }
      ∧ (getPort u p).peerPwr = fld fl 17 1 % 4 ∧ (getPort u p).peerCmp = fld fl 18 1 % 4
      ∧ (getPort u p).peerDomain = fld fl 20 4 % 2 ^ 17 ∧ (getPort u p).peerBell = fld fl 24 8 % 2 ^ 48
      ∧ (bitAt (fld fl 40 1) 0 = true → s.clk.bell % 2 ^ 48 < fld fl 32 8 % 2 ^ 48 → (fld fl 32 8 % 2 ^ 48, p) ∈ u.link.votes)
      ∧ (fld fl 17 1 % 4 = 2 → (getPort u p).st = 7)
      ∧ (fld fl 17 1 % 4 = 1 → (getPort s p).st = 7 → s.power.keepAlive = false →
          (getPort u p).st = if portTrainable s p then 2 else 1)
      ∧ (s.power.keepAlive = true → (getPort s p).st = 7 → (getPort u p).st = 7)
      ∧ (fld fl 17 1 % 4 ≠ 2 → portUp (getPort s p) = true → (getPort s p).followOn = true →
          s.link.inDomain = true → bitAt (fld fl 19 1) 1 = true → fld fl 20 4 % 2 ^ 17 ≠ s.link.domain →
          (getPort u p).st = 8 ∧ (getPort u p).conflict = min 65535 ((getPort s p).conflict + 1)
          ∧ ∃ e, e.code = evBellConflict ∧ u.reeve.inbox = s.reeve.inbox ++ [e]))
  ∧ (∀ (p arr : Nat) (fl : List Byte) (s : State), flitComes s p 3 fl → (getPort s p).firstBell = true →
    portUp (getPort s p) = true → (getPort s p).bellActive = true →
    ∃ u, exec (.bellFlitReceive p fl arr) s = .next (withHealth s u)
      ∧ u.clk = { s.clk with
          bell := fld fl 12 8 % 2 ^ 48, expectDelay := 0
          intvCc := (psToCc s (((getPort s p).lat : Int) + (fld fl 20 4 : Int))).toNat }
      ∧ getPort u p = { flitAck fl (getPort s p) with peerBell := fld fl 12 8 % 2 ^ 48, firstBell := false })
  ∧ (∀ (p arr : Nat) (fl : List Byte) (s : State), flitComes s p 3 fl → (getPort s p).firstBell = false →
    ∃ u, exec (.bellFlitReceive p fl arr) s = .next (withHealth s u) ∧ u.clk = { s.clk with expectDelay := u.clk.expectDelay }
      ∧ s.clk.expectDelay ≤ u.clk.expectDelay ∧ (getPort u p).peerBell = fld fl 12 8 % 2 ^ 48
      ∧ (portUp (getPort s p) = true → (getPort s p).bellActive = true → bellJoining s = false →
          (fld fl 12 8 % 2 ^ 48 = s.clk.bell →
            2 * ((arr : Int) - ((getPort s p).lat : Int) - (fld fl 20 4 : Int)).natAbs ≤ s.clk.periodUs * 1000000 →
            (getPort u p).st = (getPort s p).st
            ∧ u.clk.expectDelay = max s.clk.expectDelay
              (((arr : Int) - ((getPort s p).lat : Int) - (fld fl 20 4 : Int)) * (7 * (8 - s.clk.step) : Nat) / 40000).toNat)
          ∧ (nearestBell s ((arr : Int) - ((getPort s p).lat : Int) - (fld fl 20 4 : Int)) ≠ some (fld fl 12 8 % 2 ^ 48) →
            (getPort u p).st = 8 ∧ (getPort u p).conflict = min 65535 ((getPort s p).conflict + 1)
            ∧ u.clk.expectDelay = s.clk.expectDelay)))
  ∧ (∀ (p : Nat) (s : State), p < 32 → portUp (getPort s p) = true → (getPort s p).bellActive = true →
    ∃ t, exec (.bellFlitLost p) s = .next t ∧ portWork p s t
      ∧ getPort t p = { getPort s p with bellLost := min 65535 ((getPort s p).bellLost + 1) })
  ∧ (∀ (p : Nat) (s : State), p < 32 → portUp (getPort s p) = false ∨ (getPort s p).bellActive = false →
    exec (.bellFlitLost p) s = .next s)

/-- SPINE_ROUTE_LOOKUP completes. The oldest message wholly received at a port leaves its receive buffer and follows the
route of the bank that was in force when its header came: to this module, to the entry's port in its class (a dateline moves LC0 to
LC1), or to a counted discard when there is no valid entry, no hop is left, or that port does not carry it (R322 to R324); a
multicast message goes to every output of its group where each is Up and a hop is left (R325); a bolt message that goes on and whose
tally is wrong is counted, with an event, and goes on; one that does not go on is not (R343). What tiles inject waits until a
header and its sixteen data packets are there (R316). Nothing moves where the Reeve or the spine's domain is lost (R30, R412). -/
def Obligations.SpineFollowsTheRoutes : Prop :=
  (∀ (p c : Nat) (m : List Byte) (x : RxMsg) (rest : List RxMsg) (e : Nat) (s : State), p < 32 → s.reeve.gone = false →
    domOn s 95 = true → (getPort s p).rxQ = x :: rest → c = x.cls → m = x.bytes →
    e = kvGet 0 (if x.bank = 0 then s.link.routeA else s.link.routeB) (mDest m % 2 ^ 17) →
    (mCast m = false →
    (mKind m ≠ 1 → mKind m ≠ 2 →
      (bitAt e 15 = false ∨ (bitAt e 14 = false ∧ e % 32 = p) →
        ∃ t, exec (.spineRouteLookup p false) s = .next t ∧ portWork p s t ∧ (getPort t p).rxQ = rest
          ∧ (getPort t p).here = (getPort s p).here ∧ (getPort t p).dropRoute = min 255 ((getPort s p).dropRoute + 1))
      ∧ (bitAt e 15 = true → bitAt e 14 = false → e % 32 ≠ p → mHops m ≤ 1 →
        ∃ t, exec (.spineRouteLookup p false) s = .next t ∧ portWork p s t ∧ (getPort t p).rxQ = rest
          ∧ (getPort t p).here = (getPort s p).here ∧ (getPort t p).dropHops = min 255 ((getPort s p).dropHops + 1))
      ∧ (bitAt e 15 = true → bitAt e 14 = false → e % 32 ≠ p → 1 < mHops m →
        portCarries (getPort s (e % 32)) (if c % 4 = 0 ∧ bitAt e 13 = true then 1 else c % 4) = false →
        ∃ t, exec (.spineRouteLookup p false) s = .next t ∧ t = { s with ports := t.ports } ∧ (getPort t p).rxQ = rest
          ∧ getPort t (e % 32) = { getPort s (e % 32) with dropDown := min 255 ((getPort s (e % 32)).dropDown + 1) }
          ∧ (∀ q, q ≠ p → q ≠ e % 32 → getPort t q = getPort s q)))
    ∧ (bitAt e 15 = true → bitAt e 14 = true →
      ∃ t, exec (.spineRouteLookup p false) s = .next t ∧ portWork p s t ∧ (getPort t p).rxQ = rest
        ∧ (getPort t p).here = (getPort s p).here ++ [(c, patch m 0x25 (toLe 1 (mHops m - 1)))])
    ∧ (∀ (q c1 : Nat), bitAt e 15 = true → bitAt e 14 = false →
      q = e % 32 → q ≠ p → 1 < mHops m → c1 = (if c % 4 = 0 ∧ bitAt e 13 = true then 1 else c % 4) →
      (portCarries (getPort s q) c1 = true →
        ∃ t, exec (.spineRouteLookup p false) s = .next t
          ∧ t = { s with ports := t.ports, reeve := { s.reeve with inbox := t.reeve.inbox } } ∧ (getPort t p).rxQ = rest
          ∧ kvGet [] (getPort t q).txQ c1 = kvGet [] (getPort s q).txQ c1 ++ [patch m 0x25 (toLe 1 (mHops m - 1))]
          ∧ (∀ x, x ≠ p → x ≠ q → getPort t x = getPort s x)
          ∧ ((mKind m ≠ 1 ∧ mKind m ≠ 2) ∨ crc32c (mPay m) = fld m 0x28 4 → t.reeve = s.reeve)
          ∧ (mKind m = 1 ∨ mKind m = 2 → crc32c (mPay m) ≠ fld m 0x28 4 →
              (getPort t p).tlyTransit = min 65535 ((getPort s p).tlyTransit + 1)
              ∧ ∃ e, e.code = 0x0114 ∧ t.reeve.inbox = s.reeve.inbox ++ [e]))
      ∧ (portCarries (getPort s q) c1 = false → mKind m = 1 ∨ mKind m = 2 →
        ∃ t, exec (.spineRouteLookup p false) s = .next t ∧ t = { s with ports := t.ports } ∧ (getPort t p).rxQ = rest
          ∧ (getPort t p).tlyTransit = (getPort s p).tlyTransit
          ∧ (getPort t q).undel = ((getPort s q).undel + 1) % 2 ^ 32)))
    ∧ (∀ e, mCast m = true → e = mcastEntry s (mDest m % 2 ^ 12) → bitAt e.2.2 31 = true → bits e.2.2 28 24 = p → 1 < mHops m →
      (∀ q, q < 32 → bitAt e.1 q = true → portUp (getPort s q) = true) →
      ∃ t, exec (.spineRouteLookup p false) s = .next t ∧ (getPort t p).rxQ = rest
        ∧ (getPort t p).here = (getPort s p).here
            ++ (if bitAt e.2.2 30 then [(c, patch m 0x25 (toLe 1 (mHops m - 1)))] else [])
        ∧ (∀ q, q < 32 → bitAt e.1 q = true →
            kvGet [] (getPort t q).txQ (outClass c (bitAt e.2.1 q))
              = kvGet [] (getPort s q).txQ (outClass c (bitAt e.2.1 q)) ++ [patch m 0x25 (toLe 1 (mHops m - 1))])))
  ∧ (∀ (p : Nat) (inj : Bool) (s : State), p < 32 → s.reeve.gone = true ∨ domOn s 95 = false →
    exec (.spineRouteLookup p inj) s = .next s)
  ∧ (∀ (p : Nat) (s : State), p < 32 → (getPort s p).rxQ = [] → exec (.spineRouteLookup p false) s = .next s)
  ∧ (∀ (p bank : Nat) (s : State) (m : List Byte) (left : List Packet), p < 32 → s.reeve.gone = false → domOn s 95 = true →
    injectTake s (getPort s p) = some (m, bank, left) →
    ∃ t, exec (.spineRouteLookup p true) s = .next t ∧ (getPort t p).meshIn = left
      ∧ (replaying s (logPart (fld m 0xE 2 % 8192)) = false → mCast m = false →
          bitAt (routeEntry s bank (mDest m % 2 ^ 17)) 15 = true → bitAt (routeEntry s bank (mDest m % 2 ^ 17)) 14 = true →
          (getPort t p).here = (getPort s p).here ++ [(4, patch m 0x25 (toLe 1 (mHops m - 1)))]))
  ∧ (∀ (p : Nat) (s : State), p < 32 →
    (∀ h ∈ (getPort s p).meshIn, h.kind = 0xB → h.payload.length = 64 →
      ((getPort s p).meshIn.filter (fun k => k.kind == 0xB && k.src == h.src && k.payload.length == 256)).length < 16) →
    exec (.spineRouteLookup p true) s = .next s)

/-- LOCAL_DELIVERY, UNDELIVERABLE_REPORT_RECEIVE and REEVE_MESSAGE_RECEIVE complete. A data message that is neither refused nor
early leaves the delivery queue for its tile's row or its bolt's stack (R317), and one with a wrong tally is counted, with an
event (R343); one stamped beyond the next bell is parked (R318); a refused one is discarded, counted by its cause and as
undeliverable: of a partition that takes none as down, of another key as that with a key event, abandoned or late in the late count
(R51, R320, R331); a report ends its lot, where that has not ended, with 0x0032 (R322); the Reeve takes its messages, but leaves a
slow notice to the notice's own row (R315). With no such message nothing changes. -/
def Obligations.LocalMessagesArrive : Prop :=
  (∀ (p c : Nat) (m : List Byte) (s : State), p < 32 → hereNext s p (getPort s p) = some (c, m) →
    (localCause s m = none → mStamp m ≤ s.clk.bell + 1 → crc32c (mPay m) = fld m 0x28 4 → mKind m = 2 →
      ∃ t, exec (.localDelivery p) s = .next t ∧ t = { s with ports := t.ports, mems := t.mems, clk := t.clk }
        ∧ (getPort t p).here = (getPort s p).here.erase (c, m)
        ∧ (getStack t (boltStack (getPart s (mPart m)).seed.toNat (fld m 0x20 4 % 2 ^ 23))).remote
          = (getStack s (boltStack (getPart s (mPart m)).seed.toNat (fld m 0x20 4 % 2 ^ 23))).remote
            ++ [{ part := mPart m, bolt := fld m 0x20 4 % 2 ^ 23, key := mKey m, data := mPay m, tally := fld m 0x28 4, seq := (nextStamp s).1 }])
    ∧ (localCause s m = none → mStamp m ≤ s.clk.bell + 1 → crc32c (mPay m) = fld m 0x28 4 → mKind m = 1 →
      exec (.localDelivery p) s = .next (portEmit (modPort s p (fun q => hereFree (c, m) { q with here := q.here.erase (c, m) })) p
          (portNear p (fld m 0xC 2 % 8192 / 96)) (deliveryPackets p m))
      ∧ (deliveryPackets p m).length = 16
      ∧ (∀ k ∈ deliveryPackets p m, k.kind = 0xE ∧ k.dest = fld m 0xC 2 ∧ k.key = mKey m ∧ k.aux = fld m 0x28 4
          ∧ k.payload.length = 256))
    ∧ (localCause s m = none → s.clk.bell + 1 < mStamp m →
      ∃ t, exec (.localDelivery p) s = .next t ∧ portWork p s t ∧ (getPort t p).here = (getPort s p).here.erase (c, m)
        ∧ (getPort t p).park = (getPort s p).park ++ [(if c < 4 then c + 4 else c, m)]
        ∧ (getPort t p).parkedCnt = ((getPort s p).parkedCnt + 1) % 65536)
    ∧ (localCause s m = none → mStamp m ≤ s.clk.bell + 1 → crc32c (mPay m) ≠ fld m 0x28 4 →
      ∃ t, exec (.localDelivery p) s = .next t ∧ (getPort t p).tlyLocal = min 65535 ((getPort s p).tlyLocal + 1)
        ∧ (getPort t p).undel = ((getPort s p).undel + 1) % 2 ^ 32
        ∧ ∃ e es, e.code = 0x0114 ∧ t.reeve.inbox = s.reeve.inbox ++ e :: es)
    ∧ (localCause s m = some 8 →
      ∃ t, exec (.localDelivery p) s = .next t ∧ (getPort t p).late = min 65535 ((getPort s p).late + 1)
        ∧ (getPort t p).undel = ((getPort s p).undel + 1) % 2 ^ 32 ∧ t.reeve = s.reeve ∧ t.tiles = s.tiles ∧ t.mems = s.mems)
    ∧ (localCause s m = some 5 →
      ∃ t, exec (.localDelivery p) s = .next t ∧ min 255 ((getPort s p).dropDown + 1) ≤ (getPort t p).dropDown
        ∧ (getPort t p).undel = ((getPort s p).undel + 1) % 2 ^ 32 ∧ t.reeve = s.reeve ∧ t.tiles = s.tiles ∧ t.mems = s.mems)
    ∧ (localCause s m = none ∨ localCause s m = some 5 ∨ localCause s m = some 6 ∨ localCause s m = some 8)
    ∧ (localCause s m = some 6 →
      ∃ t, exec (.localDelivery p) s = .next t ∧ (getPort t p).dropKey = min 255 ((getPort s p).dropKey + 1)
        ∧ (∃ e, e.code = 0x0155 ∧ t.reeve.inbox = s.reeve.inbox ++ [e])
        ∧ (getPort t p).undel = ((getPort s p).undel + 1) % 2 ^ 32 ∧ t.tiles = s.tiles ∧ t.mems = s.mems ∧ t.dram = s.dram))
  ∧ (∀ (p : Nat) (s : State), p < 32 → hereNext s p (getPort s p) = none → exec (.localDelivery p) s = .next s)
  ∧ (∀ (p : Nat) (s : State), p < 32 →
    ((getPort s p).here.find? (fun x => mKind x.2 == 7) = none → exec (.undeliverableReportReceive p) s = .next s)
    ∧ ((getPort s p).here.find? (fun x => mKind x.2 == 6) = none → exec (.reeveMessageReceive p) s = .next s))
  ∧ (∀ (p : Nat) (m : List Byte) (s s1 : State), p < 32 → hereFront s p 7 = some (m, s1) →
    (getPart s (logPart (fld m 0xE 2 % 8192))).lots.any (fun l => l.number == fld m 0x18 8 && l.state != 2) = false →
    exec (.undeliverableReportReceive p) s = .next s1)
  ∧ (∀ (p : Nat) (m : List Byte) (s s1 : State), p < 32 → hereFront s p 7 = some (m, s1) →
    logPart (fld m 0xE 2 % 8192) < 12 →
    ∃ t, exec (.undeliverableReportReceive p) s = .next t ∧ t.tiles = s.tiles ∧ t.mems = s.mems ∧ t.clk = s.clk
      ∧ (∀ l ∈ (getPart s (logPart (fld m 0xE 2 % 8192))).lots, l.number = fld m 0x18 8 → l.state ≠ 2 →
          ∃ l1 ∈ (getPart t (logPart (fld m 0xE 2 % 8192))).lots, l1.number = l.number
            ∧ l1.causes = l.causes ++ [(0x0032, s.clk.bell, s.clk.intvCc)])
      ∧ (∀ n, n ≠ logPart (fld m 0xE 2 % 8192) → getPart t n = getPart s n))
  ∧ (∀ (p : Nat) (m : List Byte) (s s1 : State), p < 32 → hereFront s p 6 = some (m, s1) →
    (fld (mPay m) 0 1 ≠ 0x21 → exec (.reeveMessageReceive p) s = .next s1) ∧ (fld (mPay m) 0 1 = 0x21 →
      exec (.reeveMessageReceive p) s = .next s))

/-- HAYWARD_SLICE_START, HAYWARD_SLICE_COMPLETE, SLICE_ABANDON, MIGRATION_STRAIGHT_THROUGH, MIGRATION_ABANDON, MIGRATION_RETRY and
PATTERN_SET_VERIFY complete. The slice of a stop begins at a bell and takes the row's spare, and more than 16 words corrected on its
inputs since its last slice are reported (R366, R377); a spare on its way to a suspect goes on without one (R357; log entry 35);
phase 5 clears it, a passing slice records its outcome and what it repairs, and a failing one fences the tile and
enters it in the ledger; an abandoned slice records none (R378, R379). A migration hands the role of its source to the row's spare,
which takes it from the next bell, and leaves the source the spare, cleared (R370, R371); one straight through does so at once
(R373); one that has not ended 48 intervals after its first guard is abandoned and counted, the third in succession stalls
the row, and it begins again 1,024 bells later (R374); rotation stops while the pattern set does not verify (R384). The rows that find
nothing of theirs to do leave the state. -/
def Obligations.SlicesAndMigrations : Prop :=
  ((∀ (r : Nat) (s : State), r < 192 → s.start.ready = true ∨ s.start.lifeCycle = .raw → s.clk.intvCc = 0 →
    (getRow s r).stop = .idle → stopOver s (getRow s r) = true → noSpare s r = false → rotationPaused s (rowPart r) = false →
    (suspectAhead (getRow s r) = false →
      ∃ t, exec (.haywardSliceStart r) s = .next t
        ∧ t = { s with tiles := t.tiles, rows := t.rows, reeve := { s.reeve with inbox := t.reeve.inbox } }
        ∧ (16 < ((getTile s (holeTile s r)).router.corr + 2 ^ 32 - (getTile s (holeTile s r)).hw.eccSeen) % 2 ^ 32 →
            ∃ e, e.code = evInputEcc ∧ t.reeve.inbox = s.reeve.inbox ++ [e])
        ∧ (((getTile s (holeTile s r)).router.corr + 2 ^ 32 - (getTile s (holeTile s r)).hw.eccSeen) % 2 ^ 32 ≤ 16 →
            t.reeve = s.reeve)
        ∧ getRow t r = { getRow s r with stop := .slice, stopCyc := s.clk.cycles + 1, dwell := s.hst.dwell }
        ∧ (∀ q, q ≠ r → getRow t q = getRow s q) ∧ (∀ p, p ≠ holeTile s r → getTile t p = getTile s p)
        ∧ getTile t (holeTile s r)
          = { getTile s (holeTile s r) with
              hw := { (getTile s (holeTile s r)).hw with role := 2, eccSeen := (getTile s (holeTile s r)).router.corr } })
    ∧ (suspectAhead (getRow s r) = true →
      ∃ t, exec (.haywardSliceStart r) s = .next t ∧ t = { s with rows := t.rows }
        ∧ getRow t r = { getRow s r with stop := .waiting } ∧ (∀ q, q ≠ r → getRow t q = getRow s q)))
  ∧ (∀ (r : Nat) (s : State), r < 192 →
    (s.start.ready = false ∧ s.start.lifeCycle ≠ .raw) ∨ s.clk.intvCc ≠ 0 ∨ (getRow s r).stop ≠ .idle
      ∨ stopOver s (getRow s r) = false ∨ noSpare s r = true ∨ rotationPaused s (rowPart r) = true →
    exec (.haywardSliceStart r) s = .next s)
  ∧ (∀ (r : Nat) (cols : List Nat) (words : List (Nat × Nat)) (s : State), r < 192 → (getRow s r).stop = .slice →
    sliceFails s (holeTile s r) { cols := cols, words := words, other := false } = false →
    ∃ u, exec (.haywardSliceComplete r cols words false) s = .next (withHealth s u)
      ∧ getRow u r = { getRow s r with
          stop := .waiting, suspects := (getRow s r).suspects.filter (fun k => k != (getRow s r).spare) }
      ∧ (getTile u (holeTile s r)).store.mem = []
      ∧ (getTile u (holeTile s r)).hw.result = (if cols.isEmpty && words.isEmpty then 1 else 2)
      ∧ (getTile u (holeTile s r)).hw.role = 1
      ∧ u.start.ledger.length = s.start.ledger.length + (newCols (getTile s (holeTile s r)).loom cols).length
          + (newWords s (holeTile s r) words).length
      ∧ (∀ p, p ≠ holeTile s r → getTile u p = getTile s p))
  ∧ (∀ (r : Nat) (cols : List Nat) (words : List (Nat × Nat)) (s : State), r < 192 → (getRow s r).stop = .slice →
    (getTile s (holeTile s r)).st ≠ .pinfold → logOf s (holeTile s r) = none →
    ∃ u, exec (.haywardSliceComplete r cols words true) s = .next (withHealth s u)
      ∧ (getTile u (holeTile s r)).st = .pinfold ∧ (getTile u (holeTile s r)).hw.result = 3
      ∧ (getTile u (holeTile s r)).hw.cause = 1 ∧ u.start.ledger.length = s.start.ledger.length + 1)
  ∧ (∀ (r : Nat) (s : State), (getRow s r).spare < 25 → logOf s (holeTile s r) = none)
  ∧ (∀ (r : Nat) (s : State), r < 192 → (getRow s r).stop = .slice →
    ∃ t, exec (.sliceAbandon r) s = .next t ∧ t = { s with tiles := t.tiles, rows := t.rows }
      ∧ getRow t r = { getRow s r with stop := .idle } ∧ (∀ p, p ≠ holeTile s r → getTile t p = getTile s p)
      ∧ (getTile t (holeTile s r)).store.mem = []
      ∧ (getTile t (holeTile s r)).hw = { (getTile s (holeTile s r)).hw with role := 1 })
  ∧ (∀ (r : Nat) (cols : List Nat) (words : List (Nat × Nat)) (other : Bool) (s : State), r < 192 → (getRow s r).stop ≠ .slice →
    exec (.haywardSliceComplete r cols words other) s = .next s ∧ exec (.sliceAbandon r) s = .next s))
  ∧ ((∀ (r : Nat) (s : State), r < 192 → migPending (getRow s r) = true → migPossible s r = true →
    (getTile s (rowTile r (nextSource (getRow s r)))).st = .idle
      ∨ ((getTile s (rowTile r (nextSource (getRow s r)))).window = true ∧ s.clk.guard = false) →
    (getRow s r).stop = .migrating ∨ rotationHeld s (rowPart r) = false →
    exec (.migrationStraightThrough r) s = .next (withHealth s (moveRole s r)))
  ∧ (∀ (r : Nat) (s : State), r < 192 →
    migPending (getRow s r) = false ∨ migPossible s r = false
      ∨ ((getTile s (rowTile r (nextSource (getRow s r)))).st ≠ .idle
          ∧ ((getTile s (rowTile r (nextSource (getRow s r)))).window = false ∨ s.clk.guard = true))
      ∨ ((getRow s r).stop ≠ .migrating ∧ rotationHeld s (rowPart r) = true) →
    exec (.migrationStraightThrough r) s = .next s)
  ∧ (∀ (r : Nat) (s : State), (getRow s r).spare < 25 → (∀ k ∈ (getRow s r).suspects, k < 25) →
    (getRow (moveRole s r) r).spare = nextSource (getRow s r) ∧ (getRow (moveRole s r) r).stop = .idle
    ∧ (getRow (moveRole s r) r).mig = none ∧ (getRow (moveRole s r) r).abandons = 0
    ∧ (getTile (moveRole s r) (holeTile s r)).store.mem = (getTile s (rowTile r (nextSource (getRow s r)))).store.mem
    ∧ (getTile (moveRole s r) (holeTile s r)).st = (getTile s (rowTile r (nextSource (getRow s r)))).st
    ∧ (getTile (moveRole s r) (holeTile s r)).joins = true
    ∧ (getTile (moveRole s r) (holeTile s r)).seq = (getTile s (rowTile r (nextSource (getRow s r)))).seq
    ∧ (getTile (moveRole s r) (holeTile s r)).clerk.x = (getTile s (rowTile r (nextSource (getRow s r)))).clerk.x
    ∧ (getTile (moveRole s r) (holeTile s r)).loom.failA = (getTile s (holeTile s r)).loom.failA
    ∧ (getTile (moveRole s r) (rowTile r (nextSource (getRow s r)))).store.mem = []
    ∧ (getTile (moveRole s r) (rowTile r (nextSource (getRow s r)))).st = .idle
    ∧ nextSource (getRow s r) < 25 ∧ nextSource (getRow s r) ≠ (getRow s r).spare)
  ∧ (∀ (r b : Nat) (m : Mig) (s : State), r < 192 → (getRow s r).mig = some m → m.first = some b → b + 48 ≤ s.clk.bell →
    ∃ u, exec (.migrationAbandon r) s = .next (withHealth s u) ∧ u = { s with tiles := u.tiles, rows := u.rows }
      ∧ getRow u r = { getRow s r with
          mig := none, stop := .waiting, abandons := (getRow s r).abandons + 1, stalls := (getRow s r).stalls + 1
          stalled := (getRow s r).stalled || decide (3 ≤ (getRow s r).abandons + 1), retryAt := s.clk.bell + 1024 })
  ∧ (∀ (r : Nat) (s : State), r < 192 → (∀ m b, (getRow s r).mig = some m → m.first = some b → s.clk.bell < b + 48) →
    exec (.migrationAbandon r) s = .next s)
  ∧ (∀ (r : Nat) (s : State), r < 192 → (getRow s r).stop = .waiting → (getRow s r).mig = none → (getRow s r).retryAt ≠ 0 →
    (getRow s r).retryAt ≤ s.clk.bell → migPossible s r = true → rotationPaused s (rowPart r) = false →
    ∃ t, exec (.migrationRetry r) s = .next t ∧ t = { s with tiles := t.tiles, rows := t.rows }
      ∧ (getRow t r).stop = .migrating ∧ (getRow t r).retryAt = 0 ∧ (getTile t (holeTile s r)).hw.role = 3
      ∧ (∃ m, (getRow t r).mig = some m ∧ m.src = rowTile r (nextSource (getRow s r)) ∧ m.copied = 0))
  ∧ (∀ (r : Nat) (s : State), r < 192 → (getRow s r).stop ≠ .waiting ∨ (getRow s r).mig.isSome = true ∨ (getRow s r).retryAt = 0
      ∨ s.clk.bell < (getRow s r).retryAt ∨ migPossible s r = false ∨ rotationPaused s (rowPart r) = true →
    exec (.migrationRetry r) s = .next s)
  ∧ (∀ (ok : Bool) (s : State), exec (.patternSetVerify ok) s = .next { s with start := { s.start with patSetOk := ok } })
  ∧ (∀ (s : State) (n : Nat), s.start.patSetOk = false → s.start.lifeCycle ≠ .raw → rotationPaused s n = true))

/-- FAILURE_EVENT, LOT_END and COMPLETION_ENTRY_WRITE complete. The oldest event leaves the Reeve's queue; one that emits a record
and has no record of its interval gets the next ID, and the record stands among those held; a second one of the interval gets none
of its own (R359 to R363); with no event nothing happens. An event of a tile that meets an earlier one within 1,024 bells as Table
14.1 has it pinfolds the tile (R387). The first lot that has come to its end leaves the queue with one completion entry that bears
its earliest cause (R400, R430), and waits while an event that bears on it has not been taken; the oldest entry held is written
with the next sequence at CQ_PI while the ring has room, and held otherwise (R431). -/
def Obligations.FailureEventsAndLotEnds : Prop :=
  ((∀ s : State, s.reeve.inbox = [] → exec .failureEvent s = .next s)
  ∧ (∀ (s : State) (e : Event) (rest : List Event), s.reeve.inbox = e :: rest →
    s.pins.thermLatched = true ∨ e.unit / 2 ^ 28 ≠ 1 ∨ (eventMemo e = none ∧ e.payKind ≠ 7) →
    ∃ t, exec .failureEvent s = .next t ∧ t.reeve.inbox = rest ∧ t.tiles = s.tiles ∧ t.mems = s.mems
      ∧ t.ports = s.ports ∧ t.rows = s.rows ∧ t.clk = s.clk ∧ (12 ≤ e.part → e.compl = 0 → t.parts = s.parts)
      ∧ (recEmits e.code = true → s.reeve.recs.find? (fun r => recSame e r.2) = none →
          t.reeve.recSeq = s.reeve.recSeq + 1 ∧ ∃ r, (nextRecId s, r) ∈ t.reeve.recs)
      ∧ (recEmits e.code = true → ∀ r, s.reeve.recs.find? (fun r => recSame e r.2) = some r →
          t.reeve.recSeq = s.reeve.recSeq ∧ t.reeve.recs.map (fun r => r.1) = s.reeve.recs.map (fun r => r.1))
      ∧ (recEmits e.code = false → t.reeve.recs = s.reeve.recs ∧ t.reeve.recSeq = s.reeve.recSeq))
  ∧ (∀ (s : State) (e : Event) (rest : List Event) (p c d d0 b : Nat), s.reeve.inbox = e :: rest → s.pins.thermLatched = false →
    e.unit / 2 ^ 28 = 1 → p = 100 * (e.loc / 256 % 256) + e.loc % 256 → eventMemo e = some (c, d) →
    (p, c, d0, b) ∈ (getRow s (physProw p)).hist → e.bell ≤ b + 1024 → memoMeets c d0 d = true →
    ∃ t, exec .failureEvent s = .next t ∧ (getTile t p).st = .pinfold ∧ t.clk = s.clk ∧ t.dram = s.dram))
  ∧ ((∀ (n : Nat) (l : Lot) (s : State), n < 12 → s.reeve.inbox.any (fun e => (e.part == n || 12 ≤ e.part) && e.compl != 0) = false →
    (getPart s n).lots.find? (fun l => l.state == 2 || lotOver s n l) = some l →
    ∃ t, exec (.lotEnd n) s = .next t
      ∧ (getPart t n).lots = (getPart s n).lots.filter (fun x => x.number != l.number)
      ∧ (∃ e ∈ (getPart t n).ended, e.lot.number = l.number ∧ e.code = ((firstCause l).getD (0, 0, 0)).1 ∧ e.written = false
          ∧ e.lot.state = 2)
      ∧ (∀ m, m ≠ n → getPart t m = getPart s m) ∧ t.tiles = s.tiles ∧ t.mems = s.mems ∧ t.clk = s.clk)
  ∧ (∀ (n : Nat) (s : State), n < 12 →
    s.reeve.inbox.any (fun e => (e.part == n || 12 ≤ e.part) && e.compl != 0) = true
      ∨ (getPart s n).lots.find? (fun l => l.state == 2 || lotOver s n l) = none →
    exec (.lotEnd n) s = .next s)
  ∧ (∀ (n : Nat) (cq : Cq) (e : Ended) (s : State), n < 12 → (getPart s n).cq = some cq →
    (getPart s n).ended.find? (fun e => !e.written) = some e →
    (idxDist (getPage s n).cqPi (getPage s n).cqCi < cq.entries →
      ∃ t, exec (.completionEntryWrite n) s = .next t ∧ (getPage t n).cqPi = ((getPage s n).cqPi + 1) % 2 ^ 32
        ∧ (getPart t n).cq = some { cq with seq := cq.seq + 1 } ∧ t.tiles = s.tiles ∧ t.clk = s.clk
        ∧ ⟨0, cq.base + 128 * ((getPage s n).cqPi % cq.entries) + (if s.hst.pasidEn then 2 ^ 64 * (n + 1) else 0),
            patch e.entry 0x34 (toLe 4 (cq.seq + 1))⟩ ∈ t.out)
    ∧ (cq.entries ≤ idxDist (getPage s n).cqPi (getPage s n).cqCi → exec (.completionEntryWrite n) s = .next s)))

/-- CONTEXT_RESET, PARTITION_RESET, MODULE_COMPUTE_RESET and RESET_COMPLETE complete. The reset of a context that the Reeve has
begun clears its tiles and its mill queues and leaves every tile outside it alone; that of a partition clears all its tiles and its
rings and, with a pattern set that may be run, slice-tests them: a tile beyond repair goes to the pinfold, a failed
column that can be spared enters the loom map, and a tile in the pinfold stays there (R378, R384, R395); that of the compute side
clears every tile and every mill of the module, brings the domains of its tile rows back and keeps its memory and links (R395,
R459). Without a reset of theirs begun they change nothing. A context without a pattern map is out of its reset, one with a good map
is reloaded and its activation staged two bells on, or taken into an activation that is pending (R78), one whose map fails is
read again and reset as a partition (R391, R393); a partition is out of its reset, and
after a module-compute reset the module is, and its ports are fenced no more (R395, R459); each reset that has ended is noted (R397). -/
def Obligations.ResetsClearAndComplete : Prop :=
  ((∀ (n b : Nat) (s : State), n < 12 → (getPart s n).reset = some (1, b) →
    ∃ t, exec (.contextReset n) s = .next t ∧ t = { s with tiles := t.tiles, parts := t.parts, mems := t.mems }
      ∧ (getPart t n).reset = some (17, b) ∧ (∀ m, m ≠ n → getPart t m = getPart s m)
      ∧ (∀ p ∈ ctxTiles s n, (getTile t p).st = .idle ∧ (getTile t p).store.mem = [] ∧ (getTile t p).clerk.im = []
          ∧ (getTile t p).clerk.run = .held ∧ (getTile t p).stop = none ∧ (getTile t p).hw = (getTile s p).hw
          ∧ (getTile t p).loom.failA = (getTile s p).loom.failA)
      ∧ (∀ p, p ∉ ctxTiles s n → getTile t p = getTile s p)
      ∧ (∀ k, k < 8 → kvGet [] (getStack t k).queues n = [] ∧ kvGet none (getStack t k).running n = none
          ∧ (getStack t k).inq = (getStack s k).inq))
  ∧ (∀ (n : Nat) (s : State), n < 12 →
    ((∀ b, (getPart s n).reset ≠ some (1, b)) → exec (.contextReset n) s = .next s)
    ∧ ((∀ b, (getPart s n).reset ≠ some (3, b)) → ∀ found, exec (.partitionReset n found) s = .next s)
    ∧ ((∀ b, (getPart s n).reset ≠ some (17, b) ∧ (getPart s n).reset ≠ some (19, b)) → exec (.resetComplete n) s = .next s))
  ∧ (∀ s : State, s.reeve.computeReset = false → exec (.resetComplete 12) s = .next s)
  ∧ (∀ (n b : Nat) (found : List TileFound) (s : State), n < 12 → (getPart s n).reset = some (3, b) →
    ∃ u, exec (.partitionReset n found) s = .next (withHealth s u) ∧ (getPart u n).reset = some (19, b)
      ∧ (getPart u n).patMap = [] ∧ (getPart u n).loose = false ∧ (getPage u n).cmdCi = 0 ∧ (getPage u n).rspPi = 0
      ∧ (getPage u n).doorbell = 0 ∧ (getPage u n).resets = ((getPage s n).resets + 1) % 256
      ∧ (∀ p ∈ partTiles n, (getTile u p).store.mem = [] ∧ (getTile u p).clerk.im = []
          ∧ ((getTile s p).st = .pinfold → (getTile u p).st = .pinfold)
          ∧ (setRuns s = false → (getTile s p).st ≠ .pinfold → (getTile u p).st = .idle)
          ∧ (setRuns s = true → (getTile s p).st ≠ .pinfold →
            (found.find? (fun f => f.1 == p) = none → (ledgerWords s p).length ≤ 8 →
              (getTile u p).st = .idle ∧ (getTile u p).hw.result = 1)
            ∧ (∀ f, found.find? (fun f => f.1 == p) = some f →
              (sliceFails s p { cols := f.2.1, words := f.2.2.1, other := f.2.2.2 } = true →
                (getTile u p).st = .pinfold ∧ (getTile u p).hw.result = 3)
              ∧ (sliceFails s p { cols := f.2.1, words := f.2.2.1, other := f.2.2.2 } = false →
                (getTile u p).st = .idle ∧ (getTile u p).hw.result = (if f.2.1.isEmpty && f.2.2.1.isEmpty then 1 else 2)
                ∧ (∀ c ∈ f.2.1, (getTile u p).loom.failA = c ∨ (getTile u p).loom.failB = c)))))
      ∧ u.dram = s.dram ∧ u.ports = s.ports ∧ u.clk = s.clk)
  ∧ (∀ (mems : Nat) (found : List TileFound) (s : State), s.reeve.computeReset = true →
    ∃ u, exec (.moduleComputeReset mems found) s = .next (withHealth s u)
      ∧ (∀ n, n < 12 → (getPart u n).reset = some (20, s.clk.bell)) ∧ (∀ d, d < 60 → domOn u d = true)
      ∧ (∀ p, p < 4800 → (getTile u p).store.mem = [] ∧ (getTile u p).clerk.im = []
          ∧ ((getTile u p).st = .idle ∨ (getTile u p).st = .pinfold) ∧ ((getTile s p).st = .pinfold → (getTile u p).st = .pinfold))
      ∧ (∀ k, k < 8 → (getStack u k).queues = [] ∧ (getStack u k).running = [] ∧ (getStack u k).inq = []
          ∧ (getStack u k).remote = [])
      ∧ u.dram = s.dram ∧ u.ports = s.ports ∧ u.clk = s.clk)
  ∧ (∀ (mems : Nat) (found : List TileFound) (s : State), s.reeve.computeReset = false →
    exec (.moduleComputeReset mems found) s = .next s))
  ∧ ((∀ (n b : Nat) (s : State), n < 12 → (getPart s n).reset = some (17, b) →
    ((getPart s n).patMap = [] →
      ∃ t, exec (.resetComplete n) s = .next t
        ∧ t = { s with parts := t.parts, reeve := { s.reeve with resets := t.reeve.resets } }
        ∧ (1, n, s.clk.bell) ∈ t.reeve.resets ∧ (getPart t n).reset = none ∧ (∀ m, m ≠ n → getPart t m = getPart s m))
    ∧ (∀ q, (getPart s n).patMap ≠ [] → reloadBad s n = some q →
      exec (.resetComplete n) s = .next (withHealth s (beginReset (reloadTwice s n q) n 3 0x0044)))
    ∧ (∀ c, (getPart s n).patMap ≠ [] → reloadBad s n = none → loadsDeferred s = false → stageClash s 0x10 (2 ^ n) = some c →
      (c.kind = 0x10 → c.evaluated = false →
        ∃ t, exec (.resetComplete n) s = .next t ∧ (getPart t n).reset = none ∧ t.reeve.changes = s.reeve.changes)
      ∧ (c.kind = 0x11 ∨ c.evaluated = true → exec (.resetComplete n) s = .next s))
    ∧ ((getPart s n).patMap ≠ [] → reloadBad s n = none → loadsDeferred s = true → exec (.resetComplete n) s = .next s)
    ∧ ((getPart s n).patMap ≠ [] → reloadBad s n = none → loadsDeferred s = false → stageClash s 0x10 (2 ^ n) = none →
      ∃ t, exec (.resetComplete n) s = .next t ∧ (getPart t n).reset = none
        ∧ (∃ c, t.reeve.changes.getLast? = some c ∧ c.id = s.reeve.nextChange ∧ c.kind = 0x10 ∧ c.parts = 2 ^ n
            ∧ c.target = s.clk.bell + 2)))
  ∧ (∀ (n b : Nat) (s : State), n < 12 → (getPart s n).reset = some (19, b) →
    ∃ u, exec (.resetComplete n) s = .next (withHealth s u) ∧ (getPart u n).reset = none
      ∧ u = { s with parts := u.parts, reeve := { s.reeve with resets := u.reeve.resets } } ∧ (5, n, s.clk.bell) ∈ u.reeve.resets
      ∧ (getPart u n).noCover = (partRows n).any (rowNoCover s) ∧ (∀ m, m ≠ n → getPart u m = getPart s m))
  ∧ (∀ s : State, s.reeve.computeReset = true →
    (∀ n, n < 12 → ∃ b, (getPart s n).reset = some (20, b)) →
    ∃ u, exec (.resetComplete 12) s = .next (withHealth s u) 
      ∧ u.reeve = { s.reeve with computeReset := false, resets := u.reeve.resets } ∧ (6, 0, s.clk.bell) ∈ u.reeve.resets
      ∧ (∀ n, n < 12 → (getPart u n).reset = none ∧ (getPart u n).lost = false
        ∧ (getPart u n).noCover = (partRows n).any (rowNoCover s))
      ∧ (∀ p, p < 32 → getPort u p = { getPort s p with fenced := false }) ∧ u.tiles = s.tiles))

/-- ENGINE_RESET_TILE, ENGINE_RESET_MILL, ENGINE_RESET_PORT, RESET_ESCALATE and LOCKSTEP_MISMATCH complete. A tile in the pinfold
leaves it, cleared, on a slice that passes or is repaired, for a cause that R390 lets go or in Service, where the ledger's entries of
it are cleared; on one that fails, or without a pattern set that may be run, it stays there (R378, R384, R447); a spare is
cleared and tested in its place; a tile that serves a role is substituted, or its row is without cover (R391, R394, R396); a mill's
queues are cleared, and a fault it does not clear loses the stack (R388); a port's buffers are cleared and it trains again,
fenced at a second failure within 1,024 bells (R388, R395); a port that is not enabled stays as it is. A level goes to the next of
Table 14.4 where its reset has lasted beyond its time, its event comes again, or its cause lies outside it, and nothing happens
otherwise: a context to the engine reset of its named units or to its partition, a tile to the pinfold, a mill to the loss of its
stack, a port to its fence, a partition to its loss, or to the module's compute reset where forwarding is at fault, the
module to a request for a power cycle with ALERT_N low (R397, R399); the active pair of the Reeve hands over to the standby, and
without one the module is lost: every lot ends, no context runs on, the PCIe controller is down and no slot runs (R30, R412). A
reset begun stands with its level and its bell, that of a partition sends its event 0x0191 then (the model's choice: log entry 49),
and none gives way to a lower one. -/
def Obligations.EngineResetsAndEscalation : Prop :=
  ((∀ (p : Nat) (found : List Nat × List (Nat × Nat) × Bool) (s : State), p < 4800 → (getTile s p).st = .pinfold →
    (setRuns s = true → sliceFails s p { cols := found.1, words := found.2.1, other := found.2.2 } = false →
      causePermanent (getTile s p).hw.cause = false ∨ s.start.lifeCycle = .service →
      ∃ u, exec (.engineResetTile p found) s = .next (withHealth s u) ∧ (getTile u p).st = .idle
        ∧ (getTile u p).store.mem = [] ∧ (getTile u p).hw.result = (if found.1.isEmpty && found.2.1.isEmpty then 1 else 2)
        ∧ (causePermanent (getTile s p).hw.cause = true → ∀ e ∈ u.start.ledger, fld e 4 1 = 1 → fld e 0xC 4 = tileLoc p →
            bitAt (fld e 5 1) 2 = true)
        ∧ (∀ q, physProw q ≠ physProw p → getTile u q = getTile s q))
    ∧ (setRuns s = true → sliceFails s p { cols := found.1, words := found.2.1, other := found.2.2 } = false →
      causePermanent (getTile s p).hw.cause = true → s.start.lifeCycle ≠ .service →
      ∃ t, exec (.engineResetTile p found) s = .next t ∧ t = { s with tiles := t.tiles, start := t.start, reeve := t.reeve }
        ∧ (∀ q, q ≠ p → getTile t q = getTile s q) ∧ (getTile t p).st = .pinfold
        ∧ (getTile t p).hw.result = (if found.1.isEmpty && found.2.1.isEmpty then 1 else 2))
    ∧ (setRuns s = true → sliceFails s p { cols := found.1, words := found.2.1, other := found.2.2 } = true →
      ∃ t, exec (.engineResetTile p found) s = .next t ∧ t = { s with tiles := t.tiles, start := t.start, reeve := t.reeve }
        ∧ (∀ q, q ≠ p → getTile t q = getTile s q) ∧ (getTile t p).st = .pinfold ∧ (getTile t p).hw.result = 3
        ∧ (getTile t p).hw.cause = (if causePermanent (getTile s p).hw.cause then (getTile s p).hw.cause else 1)
        ∧ t.start.ledger.length = s.start.ledger.length + (if causePermanent (getTile s p).hw.cause then 0 else 1))
    ∧ (setRuns s = false →
      ∃ t, exec (.engineResetTile p found) s = .next t ∧ t = { s with tiles := t.tiles, reeve := t.reeve }
        ∧ (∀ q, q ≠ p → getTile t q = getTile s q) ∧ (getTile t p).st = .pinfold ∧ (getTile t p).store.mem = []))
  ∧ (∀ (p : Nat) (found : List Nat × List (Nat × Nat) × Bool) (s : State), p < 4800 → (getTile s p).st ≠ .pinfold →
    logOf s p = none →
    ∃ u, exec (.engineResetTile p found) s = .next (withHealth s u)
      ∧ (setRuns s = false → (getTile u p).st = .idle ∧ (getTile u p).store.mem = [])
      ∧ (setRuns s = true → sliceFails s p { cols := found.1, words := found.2.1, other := found.2.2 } = false →
          (getTile u p).st = .idle ∧ (getTile u p).store.mem = []
          ∧ (getTile u p).hw.result = (if found.1.isEmpty && found.2.1.isEmpty then 1 else 2))
      ∧ (setRuns s = true → sliceFails s p { cols := found.1, words := found.2.1, other := found.2.2 } = true →
          (getTile u p).st = .pinfold ∧ (getTile u p).hw.cause = 1))
  ∧ (∀ (p : Nat) (found : List Nat × List (Nat × Nat) × Bool) (s : State), p < 4800 → (getTile s p).st ≠ .pinfold → (logOf s p).isSome = true →
    (tileUsable s (holeTile s (physProw p)) = true →
      exec (.engineResetTile p found) s = .next (withHealth s (substitute (pinfoldTile s p 7) p)))
    ∧ (tileUsable s (holeTile s (physProw p)) = false →
      exec (.engineResetTile p found) s = .next (withHealth s (noCoverRow (pinfoldTile s p 7) p))))
  ∧ (∀ (k : Nat) (s : State), k < 8 →
    ∃ u, exec (.engineResetMill k true) s = .next (withHealth s u) ∧ (getStack u k).queues = [] ∧ (getStack u k).running = []
      ∧ (getStack u k).lost = (getStack s k).lost ∧ u.dram = s.dram ∧ u.ports = s.ports
      ∧ (∀ j, j ≠ k → getStack u j = getStack s j)
      ∧ exec (.engineResetMill k false) s = .next (withHealth s (stackLost u k)))
  ∧ (∀ (p : Nat) (ok : Bool) (s : State), p < 32 → (getPort s p).en = true →
    ok = true ∨ (∀ b ∈ (getPort s p).resetBells, b + 1024 < s.clk.bell) →
    ∃ u, exec (.engineResetPort p ok) s = .next (withHealth s u) ∧ (getPort u p).rxQ = [] ∧ (getPort u p).here = []
      ∧ (getPort u p).park = [] ∧ (getPort u p).st = (if portTrainable s p then 2 else 1)
      ∧ (getPort u p).en = true)
  ∧ (∀ (p : Nat) (s : State), p < 32 → (getPort s p).en = true →
    (∃ b ∈ (getPort s p).resetBells, s.clk.bell ≤ b + 1024) →
    ∃ u, exec (.engineResetPort p false) s = .next (withHealth s u) ∧ (getPort u p).fenced = true
      ∧ (getPort u p).en = false ∧ (getPort u p).st = 0)
  ∧ (∀ (p : Nat) (ok : Bool) (s : State), p < 32 → (getPort s p).en = false → exec (.engineResetPort p ok) s = .next s))
  ∧ ((∀ (lvl u code : Nat) (fwd : Bool) (s : State), lvl = 1 ∧ u < 12 ∨ lvl = 2 ∧ u < 4800 ∨ lvl = 3 ∧ u < 8 ∨ lvl = 4 ∧ u < 32
      ∨ lvl = 5 ∧ u < 12 ∨ lvl = 6 →
    ((resetOver s lvl u || recursAfter s lvl u code || causeOutside s lvl u code) = true →
      exec (.resetEscalate lvl u code fwd) s = .next (withHealth s (escalate lvl u fwd s)))
    ∧ ((resetOver s lvl u || recursAfter s lvl u code || causeOutside s lvl u code) = false →
      exec (.resetEscalate lvl u code fwd) s = .next s))
  ∧ (∀ (n l b : Nat) (s : State), (getPart s n).reset = some (l, b) →
    (l % 16 = 1 → resetOver s 1 n = decide (2000 ≤ (s.clk.bell - b) * s.clk.periodUs))
    ∧ (l % 16 = 3 → resetOver s 5 n = decide (40000 ≤ (s.clk.bell - b) * s.clk.periodUs)))
  ∧ (∀ (n : Nat) (fwd : Bool) (s : State), n < 12 →
    (namedUnits s n = [] → escalate 1 n fwd s = beginReset s n 3 0x0044)
    ∧ (∀ l, l < 4608 → namedUnits s n = [unitId 1 l] → logPart l = n → (getTile s (physOf s l)).st ≠ .pinfold →
        escalate 1 n fwd s = engineTile s (physOf s l))
    ∧ (∀ k, k < 8 → namedUnits s n = [unitId 2 k] → escalate 1 n fwd s = engineMill s k)
    ∧ (∀ p, p < 32 → namedUnits s n = [unitId 3 p] → (getPort s p).en = true → escalate 1 n fwd s = enginePort s p))
  ∧ (∀ (s : State) (n lvl code : Nat), s.pins.thermLatched = false → ((getPart s n).reset.map (fun r => r.1 % 16)).getD 0 < lvl →
    (getPart (beginReset s n lvl code) n).reset = some (lvl, s.clk.bell)
    ∧ (lvl = 3 → ∃ e ∈ (beginReset s n lvl code).reeve.inbox, e.code = 0x0191 ∧ e.part = n ∧ e.compl = code ∧ e.bell = s.clk.bell))
  ∧ (∀ (s : State) (n lvl code : Nat),
    lvl ≤ ((getPart s n).reset.map (fun r => r.1 % 16)).getD 0 ∨ s.pins.thermLatched = true → beginReset s n lvl code = s)
  ∧ (∀ (p : Nat) (fwd : Bool) (s : State), p < 4800 →
    escalate 2 p fwd s = failTile s p 1 ∧ (logOf s p = none → (getTile (failTile s p 1) p).st = .pinfold))
  ∧ (∀ (k : Nat) (fwd : Bool) (s : State), k < 8 →
    escalate 3 k fwd s = stackLost s k ∧ (getStack (stackLost s k) k).lost = true
    ∧ (s.pins.thermLatched = false → (stackLost s k).reeve.computeReset = true))
  ∧ (∀ (p : Nat) (fwd : Bool) (s : State), p < 32 →
    escalate 4 p fwd s = portFence s p ∧ (getPort (portFence s p) p).fenced = true ∧ (getPort (portFence s p) p).en = false)
  ∧ (∀ (n : Nat) (u : State) (s : State), n < 12 →
    (u = escalate 5 n false s → (getPart u n).lost = true
      ∧ domOn u (5 * n + 4) = false ∧ (∀ m, m ≠ n → getPart u m = getPart s m)
      ∧ (∀ p ∈ partTiles n, (getTile u p).store.mem = [] ∧ (getTile u p).router.inject = [])
      ∧ (∀ p, p ∉ partTiles n → getTile u p = getTile s p) ∧ u.mems = s.mems ∧ u.dram = s.dram)
    ∧ (u = escalate 5 n true s →
      (s.pins.thermLatched = false → u.reeve.computeReset = true) ∧ (getPart u n).lost = (getPart s n).lost))
  ∧ (∀ (u : Nat) (t : State) (fwd : Bool) (s : State), t = escalate 6 u fwd s →
    t.pins = { s.pins with alertN := false, alertLatched := true }
      ∧ t.reeve.cycleReq = true ∧ (∃ e, e.code = 0x0193 ∧ t.reeve.inbox = s.reeve.inbox ++ [e])
      ∧ t = { s with pins := t.pins, reeve := t.reeve })
  ∧ (∀ s : State, s.reeve.standby = true →
    exec .lockstepMismatch s = .next (withHealth s { s with reeve := { s.reeve with
      pair := 1 - s.reeve.pair, standby := false, handovers := s.reeve.handovers + 1 } }))
  ∧ (∀ s : State, s.reeve.standby = false →
    ∃ t, exec .lockstepMismatch s = .next t
      ∧ t = { s with tiles := t.tiles, parts := t.parts, hst := t.hst, start := { s.start with runSlot := 0 }
                     reeve := { s.reeve with gone := true } }
      ∧ t.hst.pcieUp = false
      ∧ (∀ n, n < 12 → (getPart t n).lost = true ∧ (∀ l ∈ (getPart t n).lots, l.state = 2)
          ∧ (∀ p ∈ ctxTiles s n, (getTile t p).stop ≠ none))))

/-- LONG_OPERATION_END, ASSAY_START and ASSAY_REPLAY_END complete. An operation that runs comes to its end with its units performed
(an assay by its own rows, a qualification with its ports' lanes), one that is suspending or being
cancelled comes to its resume point and stands Suspended or Cancelled (R437), a queued one starts when the ledger lets
it, a load waits while a vote puts it off (R79), and a handle of none, or of one that stands or has ended, changes nothing. With no
active lot an assay's first replay is set up on the lot that its operation names, or the operation fails when the lot is not known; a
replay that has run its intervals, or met an overrun, is followed by the next, unless the assay is suspended, cancelled or put off
(R79), until the last, after which the assay is over (R354, R355, R357); a setup that would move a spare on which a slice runs waits
for it (log entry 35). -/
def Obligations.LongOperationsAndAssays : Prop :=
  ((∀ (h units : Nat) (ok : Bool) (found : List (Nat × Nat × Bool)) (bolts : List (Nat × List Nat × List Nat)) (s : State) (o : Op),
    s.reeve.ops.find? (fun o => o.handle == h) = some o →
    (o.state = 0 → exec (.longOperationEnd h units ok found bolts) s = .next (withHealth s (opsStart s)))
    ∧ (o.state = 1 → opKind o = 1 ∨ opKind o = 3 → exec (.longOperationEnd h units ok found bolts) s
      = .next (withHealth s (opsStart (opFinish (opRun s o (o.total - o.done) found bolts) h 5 0))))
    ∧ (o.state = 1 → opKind o = 2 ∨ opKind o = 5 → (opKind o = 2 → loadsDeferred s = false) →
        exec (.longOperationEnd h units ok found bolts) s = .next (withHealth s (opsStart (opComplete s o ok found bolts)))
        ∧ (opKind o = 2 ∨ o.total ≤ o.done + 1 ∨ ok = false →
            ∀ x ∈ (opComplete s o ok found bolts).reeve.ops, x.handle = h → x.state = 5 ∨ x.state = 7))
    ∧ (o.state = 1 → opKind o = 2 → loadsDeferred s = true → exec (.longOperationEnd h units ok found bolts) s = .next s)
    ∧ (o.state = 1 → opKind o = 6 → (∀ p, p < 32 → bitAt o.mask (32 + p) = true → (getPort s p).st ≠ 4) →
        exec (.longOperationEnd h units ok found bolts) s
          = .next (withHealth s (opsStart (opFinish (opRun s o (o.total - o.done) found bolts) h 5 0))))
    ∧ (o.state = 1 → opKind o = 4 ∨ (opKind o = 6 ∧ ∃ p, p < 32 ∧ bitAt o.mask (32 + p) = true ∧ (getPort s p).st = 4) →
        exec (.longOperationEnd h units ok found bolts) s = .next s)
    ∧ (o.state = 2 → opKind o = 4 → exec (.longOperationEnd h units ok found bolts) s = .next s)
    ∧ (o.state = 3 ∨ 5 ≤ o.state → exec (.longOperationEnd h units ok found bolts) s = .next s)
    ∧ (o.state = 4 → opKind o = 4 ∨ opKind o = 5 →
        exec (.longOperationEnd h units ok found bolts) s = .next (withHealth s (opsStart (opCutShort s o))))
    ∧ (o.state = 4 → opKind o = 2 ∨ opKind o = 6 → ∃ u, exec (.longOperationEnd h units ok found bolts) s = .next (withHealth s u))
    ∧ (o.state = 2 → opKind o ≠ 4 → ∃ u, exec (.longOperationEnd h units ok found bolts) s = .next (withHealth s u)
      ∧ (∀ x ∈ u.reeve.ops, x.handle = h → x.state = 3))
    ∧ (o.state = 4 → opKind o = 1 ∨ opKind o = 3 → exec (.longOperationEnd h units ok found bolts) s
      = .next (withHealth s (opsStart (opFinish (opRun s o (min units (o.total - o.done)) found bolts) h 6 0)))))
  ∧ (∀ (h units : Nat) (ok : Bool) (found : List (Nat × Nat × Bool)) (bolts : List (Nat × List Nat × List Nat)) (s : State),
    s.reeve.ops.find? (fun o => o.handle == h) = none → exec (.longOperationEnd h units ok found bolts) s = .next s)
  ∧ (∀ (s : State) (h st result : Nat), ∀ o ∈ (opFinish s h st result).reeve.ops, o.handle = h →
      o.state = st ∧ (result ≠ 0 → o.result = result)))
  ∧ ((∀ (n : Nat) (o : Op) (s : State), n < 12 → assayOp s n = some o → o.state = 1 → loadsDeferred s = false → partDown s n = false →
    (∀ l ∈ (getPart s n).lots, l.state = 0) → (getPart s n).assay = none →
    (∀ e, endedFind s n (fld o.args 8 8) = some e →
      ∃ u a, exec (.assayStart n) s = .next (withHealth s u) ∧ (getPart u n).assay = some a
        ∧ ((∀ r ∈ partRows n, (getRow s r).stop ≠ .slice) → a.live = true) ∧ a.lot = fld o.args 8 8 ∧ a.mode = fld o.args 1 1 ∧ a.handle = o.handle ∧ a.replay = 1 ∧ a.results = [])
    ∧ (endedFind s n (fld o.args 8 8) = none →
      exec (.assayStart n) s = .next (withHealth s (opFinish s o.handle 7 0x2E))))
  ∧ (∀ (n : Nat) (o : Op) (a : Assay) (s : State), n < 12 → assayOp s n = some o → o.state = 1 → loadsDeferred s = false →
    partDown s n = false → (∀ l ∈ (getPart s n).lots, l.state = 0) → (getPart s n).assay = some a →
    (a.live = true ∨ setupBlocked s n a = true → exec (.assayStart n) s = .next s)
    ∧ (a.live = false → setupBlocked s n a = false →
      ∃ u b, exec (.assayStart n) s = .next (withHealth s u) ∧ (getPart u n).assay = some b ∧ b.live = true ∧ b.replay = a.replay
        ∧ b.lot = a.lot ∧ b.results = a.results))
  ∧ (∀ (s : State) (n : Nat) (a : Assay), setupBlocked s n a = true →
    ∃ r ∈ partRows n, (getRow s r).stop = .slice ∧ (getRow s r).spare ≠ replaySpare (assayLot s n a) a r)
  ∧ (∀ (n : Nat) (s : State), n < 12 →
    assayOp s n = none ∨ (∃ o, assayOp s n = some o ∧ o.state ≠ 1) ∨ loadsDeferred s = true ∨ partDown s n = true
      ∨ (∃ l ∈ (getPart s n).lots, l.state ≠ 0) →
    exec (.assayStart n) s = .next s)
  ∧ (∀ (n : Nat) (a : Assay) (s : State), n < 12 → liveAssay s n = some a →
    (a.cut = false → ctxBell s n < (assayLot s n a).start + (assayLot s n a).intervals → exec (.assayReplayEnd n) s = .next s)
    ∧ (a.cut = true ∨ (assayLot s n a).start + (assayLot s n a).intervals ≤ ctxBell s n →
      ((opGet s a.handle).total ≤ a.replay →
        ∃ u, exec (.assayReplayEnd n) s = .next (withHealth s u) ∧ (getPart u n).assay = none)
      ∧ ((opGet s a.handle).state = 1 → a.replay < (opGet s a.handle).total →
        ∃ u b, exec (.assayReplayEnd n) s = .next (withHealth s u) ∧ (getPart u n).assay = some b
          ∧ ((∀ r ∈ partRows n, (getRow s r).stop ≠ .slice) → b.live = !(loadsDeferred s)) ∧ (loadsDeferred s = true → b.live = false)
          ∧ b.replay = a.replay + 1 ∧ b.results.length = a.results.length + 1 ∧ b.lot = a.lot)
      ∧ ((opGet s a.handle).state = 2 → a.replay < (opGet s a.handle).total →
        ∃ u b, exec (.assayReplayEnd n) s = .next (withHealth s u) ∧ (getPart u n).assay = some b ∧ b.live = false
          ∧ (opGet u a.handle).state = 3)
      ∧ ((opGet s a.handle).state = 4 → a.replay < (opGet s a.handle).total →
        ∃ u, exec (.assayReplayEnd n) s = .next (withHealth s u) ∧ (getPart u n).assay = none)))
  ∧ (∀ (n : Nat) (s : State), n < 12 → liveAssay s n = none → exec (.assayReplayEnd n) s = .next s)
  ∧ (∀ (s : State) (n : Nat), (getPart (assayEnd s n) n).assay = none))

/-- DOORBELL_WRITE, RING_RESET and MSIX_MESSAGE complete. A doorbell takes a value up to 16 ahead of CMD_CI, and marks any other as
bad (R417); a ring reset sets every index to 0 and writes the ring-reset event as event 0 (R421); a due vector of an
enabled interrupt sends its message once, or sets its pending bit while it is masked (R422). With the BAR closed, no ring reset
asked for, or no vector due, nothing changes. -/
def Obligations.RingsAndInterrupts : Prop :=
  (∀ (pg v : Nat) (s : State), pg < 16 → barOpen s = true →
    exec (.doorbellWrite pg v) s = .next (doorbellPut (hostSettle s) pg v))
  ∧ (∀ (pg v : Nat) (s : State), pg < 16 → barOpen s = false → exec (.doorbellWrite pg v) s = .next s)
  ∧ (∀ (s : State) (pg v : Nat),
    (idxDist v (getPage s pg).cmdCi ≤ 16 → (getPage (doorbellPut s pg v) pg).doorbell = v % 2 ^ 32)
    ∧ (16 < idxDist v (getPage s pg).cmdCi → doorbellPut s pg v = modPage s pg (fun q => { q with bad := true })))
  ∧ (∀ (n : Nat) (s : State), n < 16 → bitAt s.hst.ringReset n = true →
    ∃ t, exec (.ringReset n) s = .next t ∧ (getPage t n).cmdCi = 0 ∧ (getPage t n).rspPi = 0 ∧ (getPage t n).rspCi = 0
      ∧ (getPage t n).doorbell = 0 ∧ (getPage t n).evCi = 0 ∧ (getPage t n).evPi = 1 ∧ (getPage t n).cqPi = 0
      ∧ (getPage t n).bad = false ∧ (getPage t n).resets = ((getPage s n).resets + 1) % 256
      ∧ fld (kvGet [] (getPage t n).ev 0) 0 2 = 6 ∧ bitAt t.hst.ringReset n = false
      ∧ (∀ m, m ≠ n → getPage t m = getPage s m) ∧ t.parts = s.parts ∧ t.tiles = s.tiles)
  ∧ (∀ (n : Nat) (s : State), n < 16 → bitAt s.hst.ringReset n = false → exec (.ringReset n) s = .next s)
  ∧ (∀ (v : Nat) (s : State), v < 48 → bitAt s.hst.due v = true → irqOn s v = true → s.hst.msixEn = true →
    s.hst.pcieUp = true →
    ((kvGet {} s.hst.msix v).masked = false → s.hst.msixMask = false → s.hst.busMaster = true →
      ∃ t, exec (.msixMessage v) s = .next t ∧ t = { s with out := t.out, hst := t.hst }
        ∧ t.out = s.out ++ [⟨1, (kvGet {} s.hst.msix v).addr, toLe 4 (kvGet {} s.hst.msix v).data⟩]
        ∧ bitAt t.hst.due v = false ∧ bitAt t.hst.pba v = false)
    ∧ ((kvGet {} s.hst.msix v).masked = true ∨ s.hst.msixMask = true →
      ∃ t, exec (.msixMessage v) s = .next t ∧ t = { s with hst := { s.hst with pba := t.hst.pba } } ∧ bitAt t.hst.pba v = true)
    ∧ ((kvGet {} s.hst.msix v).masked = false → s.hst.msixMask = false → s.hst.busMaster = false →
      exec (.msixMessage v) s = .next s))
  ∧ (∀ (v : Nat) (s : State), v < 48 → bitAt s.hst.due v = false ∨ irqOn s v = false ∨ s.hst.msixEn = false ∨ s.hst.pcieUp = false →
    exec (.msixMessage v) s = .next s)

/-- What every command meets: the pages have their turn round-robin (R419), a head entry of another row is left, the checks come
first and a command that fails one changes nothing; then its request buffer is read, a DMA that changes nothing but what the part
puts out, and one that cannot be read answers 0x0014; a response buffer too small answers 0x0015 with the size
it needs, one that cannot be written 0x0014, and none of them applies anything (R418, R420, R424, R426); an answer
moves CMD_CI by one, and the page's turn is over. -/
def Obligations.MailboxChecksComeFirst : Prop :=
  (∀ (key pg : Nat) (x : CSpec) (h : State → MCmd → Ans) (req : Option (List Byte)) (respOk : Bool) (s : State), pg < 16 →
    headCmd s pg = none ∨ (∃ e, headCmd s pg = some e ∧ rowOf e ≠ key) → mailRow key x h pg req respOk s = .next s)
  ∧ (∀ (s : State) (pg : Nat), turnPage s = some pg →
    ∃ i, 1 ≤ i ∧ i ≤ 16 ∧ pg = (s.reeve.lastPage + i) % 16 ∧ (waitCmd s pg).isSome = true
      ∧ ∀ j, 1 ≤ j → j < i → waitCmd s ((s.reeve.lastPage + j) % 16) = none)
  ∧ (∀ (s : State) (pg : Nat) (e : List Byte), headCmd s pg = some e ↔ turnPage s = some pg ∧ waitCmd s pg = some e)
  ∧ (∀ (s r : State) (c : MCmd) (x : CSpec) (reqOk respOk : Bool) (h : State → MCmd → Ans), r = reqRead s c x →
    r = { s with out := r.out }
    ∧ (∀ e, mailCheck s c x = some e → serveCmd s c x reqOk respOk h = deny s e.1 e.2)
    ∧ (mailCheck s c x = none → x.req = true → reqOk = false → serveCmd s c x reqOk respOk h = deny r 0x14 1)
    ∧ (mailCheck s c x = none → x.req = false ∨ reqOk = true → (h r c).buf = [] → serveCmd s c x reqOk respOk h = h r c)
    ∧ (mailCheck s c x = none → x.req = false ∨ reqOk = true → (h r c).buf ≠ [] → cCap c < (h r c).buf.length →
      (serveCmd s c x reqOk respOk h).st = r ∧ (serveCmd s c x reqOk respOk h).status = 0x15
        ∧ (serveCmd s c x reqOk respOk h).need = (h r c).buf.length)
    ∧ (mailCheck s c x = none → x.req = false ∨ reqOk = true → (h r c).buf ≠ [] → (h r c).buf.length ≤ cCap c →
      serveCmd s c x reqOk respOk h = if respOk then h r c else deny r 0x14 2))
  ∧ (∀ (s : State) (c : MCmd) (x : CSpec),
    (c.pg < 12 → (getPart s c.pg).mbDisabled = true → mailCheck s c x = some (0x11, 0))
    ∧ (c.pg < 12 → x.part = false → mailCheck s c x = some (0x11, 0))
    ∧ (12 ≤ c.pg → x.adm = false → mailCheck s c x = some (0x11, 0))
    ∧ (12 ≤ c.pg → c.pg < 16 → x.adm = true → s.start.ready = false → earlyFamily (cOp c) = false →
      mailCheck s c x = some (0x30, 0))
    ∧ (∀ i, 12 ≤ c.pg → x.adm = true → s.start.ready = true → malformed c x = some i → mailCheck s c x = some (0x12, i))
    ∧ (12 ≤ c.pg → x.adm = true → s.start.ready = true → malformed c x = none → x.writes = true → s.reeve.computeReset = true →
      mailCheck s c x = some (0x24, 0)))
  ∧ (∀ (c : MCmd) (a : Ans), (getPage (mailDone c a) c.pg).cmdCi = ((getPage a.st c.pg).cmdCi + 1) % 2 ^ 32
    ∧ (mailDone c a).reeve.takeSeq = a.st.reeve.takeSeq + 1 ∧ (mailDone c a).reeve.lastPage = c.pg
    ∧ (mailDone c a).tiles = a.st.tiles ∧ (mailDone c a).parts = a.st.parts ∧ (mailDone c a).clk = a.st.clk)

/-- MOD_IDENTITY, MOD_GEOMETRY, MOD_HEALTH, MOD_READY, MOD_CLOCK_SET, MOD_ID_SET, MOD_RESET_PARTITION,
MOD_RESET_MODULE_COMPUTE, MOD_RESET_POWER_CYCLE, MOD_TELEMETRY and PART_MB_CTL complete. What is read is the module's own record and changes nothing; the clock is stored
with the cycle it was set at; a first module ID stands with its local routes (R443); a ready module's resets of levels 3 and 4
begin, the compute reset with every lot ended (R395, R459), and level 5 requests a power cycle, ready or not (R399, R444); a
partition index that the part does not have is refused (R11); a partition's mailbox is turned on and off (R424). -/
def Obligations.ModCommandsServe : Prop :=
  (mailServes .modIdentity 0x0101 {} modIdentity ∧ mailServes .modGeometry 0x0102 { resp := true } modGeometry
    ∧ mailServes .modHealth 0x0103 { resp := true } modHealth ∧ mailServes .modReady 0x0104 { resp := true } modReady
    ∧ mailServes .modClockSet 0x0105 { part := false, writes := true, pars := [(0, 8)] } modClockSet
    ∧ mailServes .modIdSet 0x0106 { part := false, writes := true, pars := [(0, 4)] } modIdSet
    ∧ mailServes .modResetPartition 0x30107 { part := false, writes := true, pars := [(0, 2)] } modResetPartition
    ∧ mailServes .modResetModuleCompute 0x40107 { part := false, writes := true, pars := [(0, 2)] } modResetCompute
    ∧ mailServes .modResetPowerCycle 0x50107 { part := false, pars := [(0, 2)] } modResetPower
    ∧ mailServes .modTelemetry 0x0108 { resp := true } modTelemetry
    ∧ mailServes .partMbCtl 0x0201 { part := false, writes := true, pars := [(0, 2)] } partMbCtl)
  ∧ (∀ (s : State) (c : MCmd),
    (modIdentity s c).st = s ∧ (modIdentity s c).status = 0 ∧ fld (modIdentity s c).res 0 4 = s.link.modId % 2 ^ 32
    ∧ fld (modIdentity s c).res 4 1 = lifeCode s.start.lifeCycle ∧ (c.pg < 16 → fld (modIdentity s c).res 5 1 = c.pg)
    ∧ (modGeometry s c).st = s ∧ (modGeometry s c).buf.length = 128 ∧ fld (modGeometry s c).buf 8 2 = 48
    ∧ fld (modGeometry s c).buf 10 2 = 96
    ∧ (modHealth s c).st = s ∧ (modHealth s c).buf.length = 256 ∧ fld (modHealth s c).buf 2 1 = conditionOf s % 256
    ∧ (modReady s c).st = s ∧ (s.start.ready = true → (modReady s c).buf = s.start.report)
    ∧ (s.start.ready = false → (modReady s c).buf.length = 256 ∧ fld (modReady s c).buf 2 1 = s.start.phase % 256)
    ∧ modClockSet s c = done { s with reeve := { s.reeve with clock := some (slice c.ent 0x20 8 ++ toLe 8 s.clk.cycles) } }
    ∧ (0x1FFFF ≤ cPar c 0 4 → modIdSet s c = deny s 0x13 0x20)
    ∧ (cPar c 0 4 < 0x1FFFF → kvGet none (modIdSet s c).st.start.flash 0 = some (cPar c 0 4) ∧ (modIdSet s c).status = 0
        ∧ (s.link.modId = 0x1FFFF → (modIdSet s c).st.link.modId = cPar c 0 4
            ∧ kvGet 0 (modIdSet s c).st.link.routeA (cPar c 0 4) = 0xC000
            ∧ kvGet 0 (modIdSet s c).st.link.routeB (cPar c 0 4) = 0xC000)
        ∧ (s.link.modId ≠ 0x1FFFF → (modIdSet s c).st.link = s.link))
    ∧ (s.start.ready = true → mayName c (cPar c 1 1) → modResetPartition s c = done (beginReset s (cPar c 1 1) 3 0x0044))
    ∧ (s.start.ready = false → modResetPartition s c = deny s 0x30 0 ∧ modResetCompute s c = deny s 0x30 0)
    ∧ (12 ≤ cPar c 1 1 → s.start.ready = true → modResetPartition s c = deny s 0x13 0x21 ∧ modResetCompute s c = deny s 0x13 0x21)
    ∧ (12 ≤ cPar c 1 1 → modResetPower s c = deny s 0x13 0x21)
    ∧ (s.start.ready = true → cPar c 1 1 < 12 → s.pins.thermLatched = false → (modResetCompute s c).st.reeve.computeReset = true ∧ (modResetCompute s c).status = 0
        ∧ (∀ n, n < 12 → ∀ l ∈ (getPart (modResetCompute s c).st n).lots, l.state = 2))
    ∧ (cPar c 1 1 < 12 → modResetPower s c = done (requestCycle s))
    ∧ (12 ≤ c.pg → modTelemetry s c = { done s with buf := s.reeve.sweep })
    ∧ (mayName c (cPar c 0 1) → cPar c 1 1 < 2 →
      partMbCtl s c = done (modPart s (cPar c 0 1) (fun p => { p with mbDisabled := cPar c 1 1 == 0 }))))

/-- PAT_LOAD, PAT_ACTIVATE, PAT_SWITCH, PAT_MAP, CTX_SCAN_OUT, CTX_SCAN_IN and CTX_RESET complete. A load is entered as a long operation when every entry is in order and the partition takes
work; activations, switches and scans are staged for their bell (R57, R58, R70); a scan-in is a change of its own,
which resumes at the next bell when its images pass (R72); CTX.RESET begins the context's reset (R395); PAT.MAP reads
the map (R392). -/
def Obligations.PatternAndContextCommandsServe : Prop :=
  (mailServes .patLoad 0x0301 { req := true, writes := true, pars := [(0, 1), (4, 4)] } patLoad
    ∧ mailServes .patActivate 0x0302 (workSpec [(0, 1), (8, 6)]) patActivate
    ∧ mailServes .patSwitch 0x0303 (workSpec [(0, 2), (8, 6)]) patSwitch
    ∧ mailServes .patMap 0x0304 { resp := true, pars := [(0, 1)] } patMapRead
    ∧ mailServes .ctxScanOut 0x0601 (workSpec [(0, 2), (4, 4), (8, 6)]) ctxScanOut
    ∧ mailServes .ctxScanIn 0x0602 (workSpec [(0, 2), (4, 4)]) ctxScanIn
    ∧ mailServes .ctxReset 0x0603 (workSpec [(0, 1)]) ctxReset)
  ∧ (∀ (s : State) (c : MCmd), mayName c (cPar c 0 1) →
    (c.req.length = 16 * cPar c 4 4 → (upto 0 (cPar c 4 4)).findSome? (loadEntryBad s c (cPar c 0 1)) = none →
      patLoad s c = if partBusy s (cPar c 0 1) then deny s 0x24 0
        else opSubmit s c 2 (2 ^ cPar c 0 1) c.req (cPar c 4 4))
    ∧ (c.req.length ≠ 16 * cPar c 4 4 → patLoad s c = deny s 0x12 0x24)
    ∧ patActivate s c = patStage s c 0x10 (cPar c 0 1) []
    ∧ (cPar c 1 1 < 4 → patSwitch s c = patStage s c 0x11 (cPar c 0 1) (toLe 1 (cPar c 1 1)))
    ∧ patMapRead s c = { done s with buf := (getPart s (cPar c 0 1)).patMap.flatMap (fun e => slice e 0 16) }
    ∧ (cPar c 1 1 < 2 → cPar c 4 4 + 384 * imageBolts (cPar c 1 1 == 1) ≤ Config.shareBolts → partBusy s (cPar c 0 1) = false →
      ctxScanOut s c = stagePut s c 0x12 (2 ^ cPar c 0 1) (cBell c 8) (toLe 1 (cPar c 1 1) ++ toLe 4 (cPar c 4 4)))
    ∧ (mayName c (cPar c 1 1) → cPar c 4 4 + 384 * imageBolts (scanStore s (cPar c 0 1) (cPar c 4 4)) ≤ Config.shareBolts →
      partBusy s (cPar c 1 1) = false → liveTiles s (cPar c 1 1) = [] → (getPart s (cPar c 1 1)).halted = false →
      stageClash s 0x13 (2 ^ cPar c 1 1) = none →
      ((getPart (ctxScanIn s c).st (cPar c 1 1)).resumeIn = true
          ↔ scanBad s (cPar c 0 1) (cPar c 1 1) (cPar c 4 4) = none ∨ (getPart s (cPar c 1 1)).resumeIn = true)
        ∧ (ctxScanIn s c).status = 0 ∧ (ctxScanIn s c).res = toLe 4 s.reeve.nextChange)
    ∧ ctxReset s c = if partBusy s (cPar c 0 1) then deny s 0x24 0 else done (beginReset s (cPar c 0 1) 1 0x0042))
  ∧ (∀ (s : State) (c : MCmd) (kind n : Nat) (v : List Byte), (partBusy s n = true → patStage s c kind n v = deny s 0x24 0)
    ∧ (partBusy s n = false → powerBar s { id := 0, kind := kind, parts := 2 ^ n, target := cBell c 8, value := v } = none →
      patStage s c kind n v = stagePut s c kind (2 ^ n) (cBell c 8) v))

/-- LOT_SUBMIT, LOT_CANCEL, LOT_QUERY, LOT_RECORDS, LOT_CQ_SET and LOT_DIGESTS complete. A submitted lot is queued behind the others, no earlier than the end bell of the last one and than two bells
on, with its number the last accepted (R429, R430); a repeated or lower number is refused; a queued lot is cancelled at once, an active one marked
and its answer held (R402, R434); its state, its records and its digests are read while it is retained (R433); the
completion ring is named while no lot is active (R431). -/
def Obligations.LotCommandsServe : Prop :=
  (mailServes .lotSubmit 0x0401 { adm := false, req := true, writes := true } lotSubmit
    ∧ mailServes .lotCancel 0x0402 (lotSpec [(0, 8)] true false) lotCancel
    ∧ mailServes .lotQuery 0x0403 (lotSpec [(0, 8)] false false) lotQuery
    ∧ mailServes .lotRecords 0x0404 (lotSpec [(0, 8)] false true) lotRecords
    ∧ mailServes .lotCqSet 0x0405 (lotSpec [(0, 12)] true false) lotCqSet
    ∧ mailServes .lotDigests 0x0406 (lotSpec [(0, 8)] false true) lotDigests)
  ∧ (∀ (s : State) (c : MCmd), lotBlockBad c.req = none → (getPart s c.pg).cq.isSome = true → lotAccepting s c.pg = true →
    (∀ k, (getPart s c.pg).lastLot = some k → fld c.req 0 8 ≤ k → lotSubmit s c = deny s 0x25 0)
    ∧ ((∀ k, (getPart s c.pg).lastLot = some k → k < fld c.req 0 8) → freeSlots (getPart s c.pg) ≠ 0 →
      fld c.req 0x18 8 % 2 ^ 48 = 0 ∨ lotEarliest s c.pg ≤ fld c.req 0x18 8 % 2 ^ 48 ∨ bitAt (fld c.req 0x24 1) 0 = false →
      ∃ l, (lotSubmit s c).status = 0 ∧ (lotSubmit s c).st = { s with parts := (lotSubmit s c).st.parts }
        ∧ (getPart (lotSubmit s c).st c.pg).lots = (getPart s c.pg).lots ++ [l]
        ∧ (getPart (lotSubmit s c).st c.pg).lastLot = some (fld c.req 0 8)
        ∧ l.number = fld c.req 0 8 ∧ l.cookie = fld c.req 8 8 ∧ l.seed = fld c.req 0x10 8 ∧ l.intervals = fld c.req 0x20 4
        ∧ l.state = 0 ∧ l.start = max (fld c.req 0x18 8 % 2 ^ 48) (lotEarliest s c.pg) ∧ s.clk.bell + 2 ≤ l.start
        ∧ (getPart s c.pg).endBell ≤ l.start ∧ l.start + l.intervals ≤ (getPart (lotSubmit s c).st c.pg).endBell))
  ∧ (∀ (s : State) (c : MCmd) (l : Lot), (getPart s c.pg).lots.find? (fun l => l.number == cPar c 0 8) = some l →
    (l.state = 0 → (lotCancel s c).status = 0 ∧ (lotCancel s c).res = [1]
      ∧ (∀ x ∈ (getPart (lotCancel s c).st c.pg).lots, x.number = cPar c 0 8 → x.state = 2 ∧ x.cancelReq = true))
    ∧ (l.state = 1 → l.cancelReq = false → (lotCancel s c).status = 0 ∧ (lotCancel s c).wait = some (c.pg, cPar c 0 8)
      ∧ (∀ x ∈ (getPart (lotCancel s c).st c.pg).lots, x.number = cPar c 0 8 → x.cancelReq = true))
    ∧ (l.state = 2 → (lotCancel s c).status = 0x27 ∧ (lotCancel s c).st = s)
    ∧ lotQuery s c = { done s with res := lotState l ((firstCause l).getD (0, 0, 0)).1 (lotStage s l) })
  ∧ (∀ (s : State) (c : MCmd), (getPart s c.pg).lots.find? (fun l => l.number == cPar c 0 8) = none →
    (∀ e, endedFind s c.pg (cPar c 0 8) = some e →
      lotCancel s c = deny s 0x27 e.code ∧ lotQuery s c = { done s with res := lotState e.lot e.code 3 })
    ∧ (endedFind s c.pg (cPar c 0 8) = none → lotCancel s c = deny s 0x26 0 ∧ lotQuery s c = deny s 0x26 0
      ∧ lotRecords s c = deny s 0x26 0 ∧ lotDigests s c = deny s 0x26 0))
  ∧ (∀ (s : State) (c : MCmd) (e : Ended), endedFind s c.pg (cPar c 0 8) = some e →
    lotRecords s c = { done s with buf := e.lot.attach.flatMap (fun a => a) }
    ∧ (lotDigests s c).st = s ∧ (lotDigests s c).status = 0
    ∧ (lotDigests s c).buf.length = e.lot.spares.length + 6144)
  ∧ (∀ (s : State) (c : MCmd), cPar c 0 8 % 4096 = 0 → cqEntriesOk (cPar c 8 4) = true →
    lotCqSet s c = if lotsActive s c.pg then deny s 0x2B 0
      else done (modPart s c.pg (fun p => { p with cq := some { base := cPar c 0 8, entries := cPar c 8 4 } })))

/-- STAGE_NUMERIC_MODES, STAGE_HALT, STAGE_HOLD_LIMIT, STAGE_SPLIT, STAGE_BELL_PERIOD, STAGE_KEY_ROTATION, STAGE_RESEED,
STAGE_MERGED_READ, STAGE_CANCEL and STAGE_QUERY complete. Each kind is checked against the range of its value and staged for its bell; one too early is
refused with the earliest (for a split or a reseed, not before the start bell of a job that waits there), one of a field and scope
already pending with the pending change's ID (R76, R78, R435); a
pending change not yet evaluated is cancelled, and its record is read (R81). -/
def Obligations.StageCommandsServe : Prop :=
  (mailServes .stageNumericModes 0x10501 (stageSpec 4 false true) stageNumeric
    ∧ mailServes .stageHalt 0x20501 (stageSpec 1 false true) stageHalt
    ∧ mailServes .stageHoldLimit 0x30501 (stageSpec 2 false false) stageHold
    ∧ mailServes .stageSplit 0x40501 (stageSpec 4 true false) stageSplit
    ∧ mailServes .stageBellPeriod 0x50501 (stageSpec 2 false false) stagePeriod
    ∧ mailServes .stageKeyRotation 0x60501 { stageSpec 0 true false with req := true } stageKeys
    ∧ mailServes .stageReseed 0x70501 (stageSpec 0 true false) stageReseed
    ∧ mailServes .stageMergedRead 0x80501 (stageSpec 2 true false) stageMerge
    ∧ mailServes .stageCancel 0x0502 (workSpec [(0, 4)]) stageCancel
    ∧ mailServes .stageQuery 0x0503 { resp := true, pars := [(0, 4)] } stageQuery)
  ∧ (∀ (s : State) (c : MCmd) (kind mask target : Nat) (v : List Byte),
    (target < stageEarliest s kind mask → stagePut s c kind mask target v = deny s 0x21 (stageEarliest s kind mask % 2 ^ 32))
    ∧ s.clk.bell + 2 + (if domainKind kind then s.link.voteW else 0) ≤ stageEarliest s kind mask
    ∧ (kind ≠ 4 → kind ≠ 7 → stageEarliest s kind mask = s.clk.bell + 2 + (if domainKind kind then s.link.voteW else 0))
    ∧ (∀ n, n < 12 → kind = 4 ∨ (kind = 7 ∧ bitAt mask n = true) → jobEarliest s n ≤ stageEarliest s kind mask)
    ∧ (stageEarliest s kind mask ≤ target → ∀ x, stageClash s kind mask = some x →
        stagePut s c kind mask target v = deny s 0x20 x.id)
    ∧ (stageEarliest s kind mask ≤ target → stageClash s kind mask = none →
        (stagePut s c kind mask target v).status = 0 ∧ (stagePut s c kind mask target v).res = toLe 4 s.reeve.nextChange
        ∧ (stagePut s c kind mask target v).st = { s with reeve := (stagePut s c kind mask target v).st.reeve }
        ∧ (∃ x, (stagePut s c kind mask target v).st.reeve.changes.getLast? = some x ∧ x.id = s.reeve.nextChange
            ∧ x.kind = kind ∧ x.parts = mask ∧ x.target = target ∧ x.value = v ∧ x.page = c.pg ∧ x.outcome = 0)))
  ∧ (∀ (s : State) (c : MCmd),
    (mayName c (cPar c 1 1) → partBusy s (cPar c 1 1) = false →
      (numModeOk (cPar c 16 4) = true →
        stageNumeric s c = stagePut s c 1 (2 ^ cPar c 1 1) (cBell c 8) (toLe 4 (cPar c 16 4)))
      ∧ (numModeOk (cPar c 16 4) = false → stageNumeric s c = deny s 0x12 0x30)
      ∧ (cPar c 16 1 = 1 → (lotAt s (cPar c 1 1) (cBell c 8) && ctxKind3 s (cPar c 1 1)) = false →
        stageHalt s c = stagePut s c 2 (2 ^ cPar c 1 1) (cBell c 8) []))
    ∧ (cPar c 1 1 = 0xFF →
      (1 ≤ cPar c 16 2 → cPar c 16 2 ≤ 500 → stageHold s c = stagePut s c 3 0xFFFF (cBell c 8) (toLe 2 (cPar c 16 2)))
      ∧ (splitOk (cPar c 16 4) = true → cPar c 2 2 < 256 →
        stageSplit s c = stagePut s c 4 (0xFFF + 65536 * cPar c 2 1) (cBell c 8) (toLe 4 (cPar c 16 4) ++ toLe 1 (cPar c 2 1)))
      ∧ (20 ≤ cPar c 16 2 → cPar c 16 2 ≤ 10000 →
        stagePeriod s c = stagePut s c 5 0xFFFF (cBell c 8) (toLe 2 (cPar c 16 2)))
      ∧ (cPar c 16 2 < 20 ∨ 10000 < cPar c 16 2 → stagePeriod s c = deny s 0x12 0x30)
      ∧ (cPar c 2 2 < 4096 → (c.req.length = 24 → stageKeys s c = stagePut s c 6 (cPar c 2 2) (cBell c 8) c.req)
        ∧ stageReseed s c = stagePut s c 7 (cPar c 2 2) (cBell c 8) []
        ∧ (cPar c 16 2 < 4096 →
          stageMerge s c = stagePut s c 8 (cPar c 2 2) (cBell c 8) (toLe 2 (cPar c 16 2)))))
    ∧ (∀ x, changeNamed s c (cPar c 0 4) = some x →
      (x.outcome = 0 → x.evaluated = false → (stageCancel s c).status = 0
        ∧ (∀ y ∈ (stageCancel s c).st.reeve.changes, y.id = x.id → y.outcome = 3))
      ∧ (x.outcome ≠ 0 ∨ x.evaluated = true → stageCancel s c = deny s 0x27 x.outcome)
      ∧ (stageQuery s c).st = s ∧ (stageQuery s c).buf.length = 176 ∧ fld (stageQuery s c).buf 4 1 = x.kind % 256
      ∧ fld (stageQuery s c).buf 5 1 = x.outcome % 256)
    ∧ (changeNamed s c (cPar c 0 4) = none → stageCancel s c = deny s 0x2A 0 ∧ stageQuery s c = deny s 0x2A 0))

/-- MNT_STACK_TEST, MNT_SCRUB_STACKS, MNT_SCRUB_TILES, MNT_ASSAY, MNT_FW_UPDATE, MNT_LINK_QUAL, MNT_SPARE_MAP, MNT_LEDGER,
MNT_REPAIR_LEDGER, OP_STATUS, OP_SUSPEND, OP_RESUME, OP_CANCEL and OP_LIST complete. What starts a long operation enters the maintenance ledger, which starts it with status
0x0001, queues it with 0x0022 or refuses it with 0x0023 (R411, R436); operations are suspended, resumed and cancelled
as Table 15.12 gives (one that stands at no work ends at once), an ended one is left (R437); the spare map, the two ledgers and the list of operations are read
and change nothing. -/
def Obligations.MaintenanceCommandsServe : Prop :=
  (mailServes .mntStackTest 0x0701 (mntSpec false [(0, 2)]) mntStackTest
    ∧ mailServes .mntScrubStacks 0x10702 (mntSpec false [(0, 1), (2, 2)]) mntScrubStacks
    ∧ mailServes .mntScrubTiles 0x20702 (mntSpec false [(0, 1), (2, 2)]) mntScrubTiles
    ∧ mailServes .mntAssay 0x0703 { req := true, writes := true } mntAssay
    ∧ (∀ ver sec, mailServes (fun pg req r => .mntFwUpdate pg req r ver sec) 0x0704 (mntSpec true [(0, 1)]) (mntFwUpdate ver sec))
    ∧ mailServes .mntLinkQual 0x0705 (mntSpec false [(0, 4)]) mntLinkQual
    ∧ mailServes .mntSpareMap 0x0706 { resp := true } mntSpareMap
    ∧ mailServes .mntLedger 0x0707 { part := false, resp := true } mntLedger
    ∧ mailServes .mntRepairLedger 0x0708 { part := false, resp := true, pars := [(0, 4)] } mntRepairLedger
    ∧ mailServes .opStatus 0x0801 { pars := [(0, 4)] } opStatusCmd ∧ mailServes .opSuspend 0x0802 (workSpec [(0, 4)]) opSuspend
    ∧ mailServes .opResume 0x0803 (workSpec [(0, 4)]) opResume ∧ mailServes .opCancel 0x0804 (workSpec [(0, 4)]) opCancelCmd
    ∧ mailServes .opList 0x0805 { resp := true } opList)
  ∧ (∀ (s : State) (c : MCmd) (kind mask total : Nat) (args : List Byte),
    ((ledgerAdmit s (opActivity kind) mask).1 = 2 →
      opSubmit s c kind mask args total = deny s 0x23 (ledgerAdmit s (opActivity kind) mask).2)
    ∧ ((ledgerAdmit s (opActivity kind) mask).1 = 0 → (opSubmit s c kind mask args total).status = 1
      ∧ (opSubmit s c kind mask args total).res = toLe 4 (kind * 2 ^ 24 + s.reeve.nextSerial % 2 ^ 24))
    ∧ ((ledgerAdmit s (opActivity kind) mask).1 = 1 →
      (s.reeve.ops.filter (fun o => o.state == 0 && opKind o == kind)).length < 16 →
      (opSubmit s c kind mask args total).status = 0x22
      ∧ (∃ o ∈ (opSubmit s c kind mask args total).st.reeve.ops, o.handle = kind * 2 ^ 24 + s.reeve.nextSerial % 2 ^ 24
          ∧ o.state = 0 ∧ o.mask = mask ∧ o.page = c.pg)))
  ∧ (∀ (s : State) (c : MCmd),
    (cPar c 1 1 < 2 → mntStackTest s c = opSubmit s c 1 (2 ^ 16 * cPar c 0 1) (toLe 1 (cPar c 0 1) ++ toLe 1 (cPar c 1 1))
      (4 * countOf 8 (bitAt (cPar c 0 1))))
    ∧ (cPar c 2 2 < 256 → mntScrubStacks s c
      = opSubmit s c 3 (2 ^ 16 * cPar c 2 2) [0] (stackBolts * countOf 8 (bitAt (cPar c 2 2))))
    ∧ (cPar c 2 2 < 4096 → mntScrubTiles s c = opSubmit s c 3 (cPar c 2 2) [1] (400 * countOf 12 (bitAt (cPar c 2 2))))
    ∧ (∀ ver sec, cPar c 0 1 < 2 → (sec < s.start.secCounter → mntFwUpdate ver sec s c = deny s 0x2D 0)
      ∧ (s.start.secCounter ≤ sec → sec ≤ 64 → mntFwUpdate ver sec s c = opSubmit s c 5 0
        (toLe 1 (cPar c 0 1) ++ toLe 4 ver ++ toLe 1 sec) ((c.req.length + 65535) / 65536 + 2)))
    ∧ mntLinkQual s c = opSubmit s c 6 (2 ^ 32 * cPar c 0 4) (toLe 4 (cPar c 0 4)) (50 * countOf 32 (bitAt (cPar c 0 4)))
    ∧ (∀ e, c.req.length = 48 → fld c.req 1 1 < 2 → fld c.req 2 1 = 0 → allZero (slice c.req 3 5) = true →
      mayName c (fld c.req 0 1) → partBusy s (fld c.req 0 1) = false →
      endedFind s (fld c.req 0 1) (fld c.req 8 8) = some e → assayBar s (fld c.req 0 1) e.lot = 0 →
      mntAssay s c = opSubmit s c 4 (2 ^ fld c.req 0 1) c.req (if fld c.req 1 1 = 1 then 3 else 2))
    ∧ (mntSpareMap s c).st = s ∧ (12 ≤ c.pg → (mntSpareMap s c).buf.length = 192 + 4 * 4800)
    ∧ (mntLedger s c).st = s ∧ (mntRepairLedger s c).st = s
    ∧ (mntRepairLedger s c).buf.length = 32 * (s.start.ledger.length - cPar c 0 4)
    ∧ (opList s c).st = s ∧ (opStatusCmd s c).st = s)
  ∧ (∀ (s : State) (c : MCmd) (o : Op),
    s.reeve.ops.find? (fun o => o.handle == cPar c 0 4 && (cAdmin c || o.page == c.pg)) = some o →
    (opStatusCmd s c).status = 0
    ∧ (o.state = 1 → opActivating o = false → (opSuspend s c).status = 0
        ∧ (∀ x ∈ (opSuspend s c).st.reeve.ops, x.handle = o.handle → x.state = 2))
    ∧ (o.state = 0 → opActivating o = false → (opSuspend s c).status = 0
        ∧ (∀ x ∈ (opSuspend s c).st.reeve.ops, x.handle = o.handle → x.state = 3))
    ∧ (o.state = 1 → opActivating o = false → (opCancelCmd s c).status = 0
        ∧ (∀ x ∈ (opCancelCmd s c).st.reeve.ops, x.handle = o.handle → x.state = 4))
    ∧ (o.state = 3 ∨ o.state = 0 → opActivating o = false → (opCancelCmd s c).status = 0
        ∧ (∀ x ∈ (opCancelCmd s c).st.reeve.ops, x.handle = o.handle → x.state = 6))
    ∧ (o.state = 3 → (ledgerAdmit (modOp s o.handle (fun x => { x with state := 0 })) (opActivity (opKind o)) o.mask).1 = 0 →
      (opResume s c).status = 0 ∧ (opResume s c).st = opBegin (modOp s o.handle (fun x => { x with state := 0 })) o)
    ∧ (5 ≤ o.state → (opSuspend s c).st = s ∧ (opSuspend s c).status = 0 ∧ (opResume s c).status = 0x27 ∧ (opResume s c).st = s
        ∧ (opCancelCmd s c).status = 0x27 ∧ (opCancelCmd s c).st = s))

/-- LINK_ROUTE_WRITE, LINK_ROUTE_SWITCH, LINK_MCAST_WRITE, SYS_KEYS, SYS_JOIN, SYS_LEAVE, REC_READ, PWR_LIMIT_SET and PWR_READ
complete. Route and multicast entries go to the inactive bank and the table while no switch
is pending, the switch, a join and a leave are staged for their bell (R323, R325, R407, R408); keys are set while no
lot is active (R258); limits are checked against what is committed (R469); records and power are read (R363, R466). -/
def Obligations.SystemCommandsServe : Prop :=
  (mailServes .linkRouteWrite 0x0901 { part := false, req := true, writes := true, pars := [(0, 8)] } linkRouteWrite
    ∧ mailServes .linkRouteSwitch 0x0902 { part := false, writes := true, pars := [(8, 6)] } linkRouteSwitch
    ∧ mailServes .linkMcastWrite 0x0903 { part := false, req := true, writes := true, pars := [(0, 4)] } linkMcastWrite
    ∧ mailServes .sysKeys 0x0A01 { part := false, writes := true, pars := [(0, 2), (4, 24)] } sysKeys
    ∧ mailServes .sysJoin 0x0A02 { part := false, writes := true, pars := [(0, 2), (8, 6)] } sysJoin
    ∧ mailServes .sysLeave 0x0A03 { part := false, writes := true, pars := [(0, 2), (8, 6)] } sysLeave
    ∧ mailServes .recRead 0x0B01 { resp := true, pars := [(0, 12)] } recRead
    ∧ mailServes .pwrLimitSet 0x0D01 { part := false, writes := true, pars := [(0, 1), (4, 4)] } pwrLimitSet
    ∧ mailServes .pwrRead 0x0D02 { resp := true } pwrRead)
  ∧ (∀ (s : State) (c : MCmd),
    (cPar c 0 4 + cPar c 4 4 ≤ 131072 → cPar c 0 4 < 131072 → c.req.length = 2 * cPar c 4 4 →
      (∀ i, i < cPar c 4 4 → bits (fld c.req (2 * i) 2) 12 5 = 0
        ∧ (cPar c 0 4 + i = s.link.modId % 2 ^ 17 →
            bitAt (fld c.req (2 * i) 2) 15 = true ∧ bitAt (fld c.req (2 * i) 2) 14 = true)) →
      routePending s = false →
      (linkRouteWrite s c).status = 0
      ∧ (linkRouteWrite s c).st = { s with link := (linkRouteWrite s c).st.link }
      ∧ (∀ i, i < cPar c 4 4 → kvGet 0 (if s.link.bank = 0 then (linkRouteWrite s c).st.link.routeB
          else (linkRouteWrite s c).st.link.routeA) (cPar c 0 4 + i) = fld c.req (2 * i) 2)
      ∧ (∀ d, routeEntry (linkRouteWrite s c).st s.link.bank d = routeEntry s s.link.bank d))
    ∧ linkRouteSwitch s c = stagePut s c 0x14 0xFFFF (cBell c 8) []
    ∧ (cPar c 0 2 + cPar c 2 2 ≤ 4096 → cPar c 0 2 < 4096 → c.req.length = 12 * cPar c 2 2 →
      (∀ i, i < cPar c 2 2 → bits (fld c.req (12 * i + 8) 4) 23 0 = 0) → routePending s = false →
      (linkMcastWrite s c).status = 0 ∧ (linkMcastWrite s c).st = { s with link := (linkMcastWrite s c).st.link }
      ∧ (∀ i, i < cPar c 2 2 → allZero (slice c.req (12 * i) 12) = false →
          kvGet [] (linkMcastWrite s c).st.link.mcast (cPar c 0 2 + i) = slice c.req (12 * i) 12))
    ∧ (cPar c 0 2 < 4096 → (maskParts (cPar c 0 2)).any (lotsActive s) = false →
      (sysKeys s c).status = 0 ∧ (∀ n, n < 12 → (getPart (sysKeys s c).st n).key
        = if bitAt (cPar c 0 2) n then cPar c (4 + 2 * n) 2 else (getPart s n).key))
    ∧ (cPar c 0 2 < 4096 → s.link.inDomain = true → lotsPast s (cPar c 0 2) (cBell c 8) = false →
      sysJoin s c = stagePut s c 0x15 (cPar c 0 2) (cBell c 8) [])
    ∧ (cPar c 0 2 < 4096 → s.link.inDomain = false → sysJoin s c = deny s 0x2B 0)
    ∧ (cPar c 0 2 < 4096 → lotsPast s (cPar c 0 2) (cBell c 8) = false → stageEarliest s 0x16 (cPar c 0 2) ≤ cBell c 8 →
      stageClash s 0x16 (cPar c 0 2) = none →
      (sysLeave s c).status = 0 ∧ (∀ n, n < 12 → bitAt (cPar c 0 2) n = true →
        (getPart (sysLeave s c).st n).leaveAt = some (cBell c 8)))
    ∧ (recRead s c).st = s ∧ ((recRead s c).status = 0 → (recRead s c).buf.length ≤ cCap c)
    ∧ (cPar c 0 1 = 0xFF → 1100000 ≤ cPar c 4 4 → cPar c 4 4 ≤ 1850000 → committedMw s none ≤ cPar c 4 4 →
      pwrLimitSet s c = done { s with power := { s.power with limitMw := cPar c 4 4 } })
    ∧ (mayName c (cPar c 0 1) → cPar c 4 4 ≠ 0 → partMw s (cPar c 0 1) (pendActs s (cPar c 0 1)) ≤ cPar c 4 4 →
      pwrLimitSet s c = done { s with power := { s.power with
        partLimit := kvSet 0xFFFFFFFF s.power.partLimit (cPar c 0 1) (cPar c 4 4) } })
    ∧ (pwrRead s c).st = s ∧ (pwrRead s c).buf.length = 1584)

/-- DBG_REG_READ, DBG_REG_WRITE, DBG_STORE_READ, DBG_STORE_WRITE, DBG_IMAGE_READ, DBG_CHAN_READ, DBG_RESUME, DBG_LOOSE_ON,
DBG_LOOSE_OFF, DBG_CLK_HALT, DBG_CLK_STEP, DBG_CLK_RESUME, DBG_CLK_SET, DBG_TRACE_SET, DBG_TRACE_READ and DBG_MILL_NAN complete.
Registers are read without their effects, or taken with them and the lots voided, and written on a
stopped tile only (R75, R481, R482); stores and images are read and written on a stopped tile; loose mode holds over a
context's tiles, and a loose tile's clerk is halted, stepped and resumed (R485 to R488); trace units and the mills'
NaN records are set and read (R293, R489). -/
def Obligations.DebugCommandsServe : Prop :=
  (mailServes .dbgRegRead 0x0C01 { req := true, resp := true, pars := [(0, 4)] } dbgRegRead
    ∧ mailServes .dbgRegWrite 0x0C02 (workSpec [(0, 8)]) dbgRegWrite
    ∧ mailServes .dbgStoreRead 0x0C03 { resp := true, pars := [(0, 2), (4, 8)] } dbgStoreRead
    ∧ mailServes .dbgStoreWrite 0x0C04 { req := true, writes := true, pars := [(0, 2), (4, 4)] } dbgStoreWrite
    ∧ mailServes .dbgImageRead 0x0C05 { resp := true, pars := [(0, 2)] } dbgImageRead
    ∧ mailServes .dbgChanRead 0x0C06 { resp := true, pars := [(0, 2)] } dbgChanRead
    ∧ mailServes .dbgResume 0x0C07 (workSpec [(0, 1), (8, 6)]) dbgResume
    ∧ mailServes .dbgLooseOn 0x20C08 (workSpec [(0, 2)]) dbgLooseOn ∧ mailServes .dbgLooseOff 0x10C08 (workSpec [(0, 2)]) dbgLooseOff
    ∧ mailServes .dbgClkHalt 0x0C09 (workSpec [(0, 2)]) dbgClkHalt ∧ mailServes .dbgClkStep 0x0C0A (workSpec [(0, 4)]) dbgClkStep
    ∧ mailServes .dbgClkResume 0x0C0B (workSpec [(0, 2)]) dbgClkResume
    ∧ mailServes .dbgClkSet 0x0C0C (workSpec [(0, 2), (4, 9)]) dbgClkSet
    ∧ mailServes .dbgTraceSet 0x0C10 { req := true, writes := true, pars := [(0, 2)] } dbgTraceSet
    ∧ mailServes .dbgTraceRead 0x0C11 { resp := true, pars := [(0, 1), (4, 8)] } dbgTraceRead
    ∧ mailServes .dbgMillNan 0x0C12 { pars := [(0, 2)] } dbgMillNan)
  ∧ (∀ (s : State) (c : MCmd) (p : Nat), mayTile c (cPar c 0 2) → p = physOf s (cPar c 0 2) →
    (cPar c 2 1 = 0 → cPar c 3 1 = 1 → c.req.length = 2 → (csrPeek s p (fld c.req 0 2)).isSome = true →
      dbgRegRead s c = { done s with buf := toLe 4 ((csrPeek s p (fld c.req 0 2)).getD 0) })
    ∧ (cPar c 2 1 = 1 → cPar c 3 1 = 1 → c.req.length = 2 → (csrPeek s p (fld c.req 0 2)).isSome = true →
      takeWaits s p (fld c.req 0 2) = false →
      dbgRegRead s c = { done (voidLots (csrTake s p (fld c.req 0 2)) (physPart p)) with
        buf := toLe 4 ((csrPeek s p (fld c.req 0 2)).getD 0) })
    ∧ ((csrPeek s p (cPar c 2 2)).isSome = true → csrReadOnly (cPar c 2 2) = false → cPar c 2 2 ≠ 0x851 →
      cPar c 2 2 ≠ 0x859 → cPar c 2 2 ≠ 0x85C →
      dbgRegWrite s c = if dbgStopped (getTile s p) then done (voidLots (csrPut s p (cPar c 2 2) (cPar c 4 4)) (physPart p))
        else deny s 0x2B 0)
    ∧ (csrReadOnly (cPar c 2 2) = true → dbgRegWrite s c = deny s 0x12 0x22)
    ∧ (cPar c 2 2 = 0x851 → dbgStopped (getTile s p) = true → 0 < credits (getTile s p) (bits (cPar c 4 4) 3 0) →
      dbgRegWrite s c = done (voidLots
        (sendEntry s p (bits (cPar c 4 4) 3 0) (sbufBytes (getTile s p).clerk)) (physPart p)))
    ∧ (cPar c 2 2 = 0x859 → dbgStopped (getTile s p) = true → imFillOk (getTile s p).clerk (cPar c 4 4) = true →
      ∃ u, (dbgRegWrite s c) = done (voidLots u (physPart p)) ∧ u.fresh = s.fresh + 1)
    ∧ (cPar c 2 2 = 0x85C → dbgStopped (getTile s p) = true →
      dbgRegWrite s c = done (voidLots (clerkFault s p (toLe 2 (bits (cPar c 4 4) 15 0))) (physPart p)))
    ∧ (linesOk (cPar c 4 4) (cPar c 8 4) = true → dbgStopped (getTile s p) = true →
      (dbgStoreRead s c).status = 0 ∧ (dbgStoreRead s c).buf.length = 64 * cPar c 8 4)
    ∧ (c.req.length % 64 = 0 → linesOk (cPar c 4 4) (c.req.length / 64) = true → dbgStopped (getTile s p) = true →
      inActiveBank (getTile s p) (cPar c 4 4) c.req.length = false →
      (dbgStoreWrite s c).status = 0
      ∧ memRead (getTile (dbgStoreWrite s c).st p).store.mem (cPar c 4 4) c.req.length = c.req
      ∧ (∀ a, a < cPar c 4 4 ∨ cPar c 4 4 + c.req.length ≤ a →
          memRead (getTile (dbgStoreWrite s c).st p).store.mem a 1 = memRead (getTile s p).store.mem a 1)
      ∧ (∀ q, q ≠ p → getTile (dbgStoreWrite s c).st q = getTile s q))
    ∧ (dbgStopped (getTile s p) = false → dbgImageRead s c = deny s 0x2B 0)
    ∧ (dbgStopped (getTile s p) = true → dbgImageRead s c = { done s with buf := imageOf s p false })
    ∧ dbgChanRead s c = { done s with buf := chanView (getTile s p) }
    ∧ ((getTile s p).dbg.loose = false → dbgClkHalt s c = deny s 0x2B 0 ∧ dbgClkResume s c = deny s 0x2B 0
      ∧ (cPar c 2 2 ≠ 0 → dbgClkStep s c = deny s 0x2B 0))
    ∧ ((getTile s p).dbg.loose = true → (getTile s p).dbg.halted = false → (dbgClkHalt s c).status = 0
      ∧ (getTile (dbgClkHalt s c).st p).dbg.halted = true ∧ (getTile (dbgClkHalt s c).st p).dbg.cause = 1
      ∧ (∀ q, q ≠ p → getTile (dbgClkHalt s c).st q = getTile s q))
    ∧ ((getTile s p).dbg.loose = true → (getTile s p).dbg.halted = true → cPar c 2 2 = 1 →
      (dbgClkStep s c).st = clerkStep s p ∧ (dbgClkStep s c).status = 0)
    ∧ ((getTile s p).dbg.loose = true → dbgClkResume s c
      = done (modTile s p (fun t => { t with dbg := { t.dbg with halted := false } })))
    ∧ (cPar c 12 1 < 2 → dbgClkSet s c = done (modTile s p (fun t => { t with dbg := { t.dbg with
        bp0 := BitVec.ofNat 32 (cPar c 4 4), bp1 := BitVec.ofNat 32 (cPar c 8 4), ebreakHalt := bitAt (cPar c 12 1) 0 } }))))
  ∧ (∀ (s : State) (c : MCmd) (n : Nat), mayName c n →
    (n = cPar c 0 1 → (getPart s n).halted = true → s.clk.bell + 2 ≤ cBell c 8 →
      dbgResume s c = done (modPart s n (fun p => { p with resumeAt := some (cBell c 8) })))
    ∧ (n = cPar c 0 1 → (getPart s n).halted = false → dbgResume s c = deny s 0x2B 0)
    ∧ (n = cPar c 0 1 → (ctxTiles s n).any (fun p => bankKind3 (getTile s p)) = false →
      dbgLooseOn s c = done (looseSet s n true) ∧ (getPart (looseSet s n true) n).loose = true
      ∧ (∀ p ∈ ctxTiles s n, (getTile (looseSet s n true) p).dbg.loose = true))
    ∧ (n = cPar c 0 1 → (ctxTiles s n).any (fun p => (getTile s p).dbg.halted) = false →
      dbgLooseOff s c = done (looseSet s n false))
    ∧ (n = cPar c 0 1 → cPar c 1 1 < 2 → c.req.length = 170 →
      (∀ i, i < 8 → trigBad (slice c.req (16 * i) 16) = none) → traceNames n c.req = [] →
      (dbgTraceSet s c).status = 0
      ∧ (getPart (dbgTraceSet s c).st n).trace.trigs = (upto 0 8).map (fun i => slice c.req (16 * i) 16)
      ∧ (getPart (dbgTraceSet s c).st n).trace.hits = []
      ∧ (getPart (dbgTraceSet s c).st n).trace.stopMode = (cPar c 1 1 == 1)
      ∧ (getPart (dbgTraceSet s c).st n).trace.recs = (getPart s n).trace.recs
      ∧ (∀ m, m ≠ n → getPart (dbgTraceSet s c).st m = getPart s m))
    ∧ (n = cPar c 0 1 → (dbgTraceRead s c).st = s ∧ (dbgTraceRead s c).status = 0
      ∧ fld (dbgTraceRead s c).res 0 4 = (getPart s n).trace.recs.length % 2 ^ 32
      ∧ (dbgTraceRead s c).buf
        = (((getPart s n).trace.recs.drop (cPar c 4 4)).take (cPar c 8 4)).flatMap (fun r => slice r 0 32))
    ∧ (n = cPar c 1 1 → cPar c 0 1 < 8 →
      dbgMillNan s c = { done s with res := slice (kvGet [] (getStack s (cPar c 0 1)).nan n) 0 32 }))

/-- TRACE_TRIGGER_MATCH, JTAG_IDCODE, JTAG_BYPASS, JTAG_SAMPLE_PRELOAD, JTAG_EXTEST, JTAG_TESTENG and JTAG_DBGCMD complete. The
triggers that match are taken with one record, and act in rising order: one turns capture on
or off, one stages a halt of the context two bells on, unless a halt is pending (R491, R483). Of the JTAG port, IDCODE
and SAMPLE serve in every life-cycle state, EXTEST and TESTENG in Raw and Service and otherwise as BYPASS, EXTEST
drives only in reset (R383, R480); each scan shifts its register out and, but for the engine's fuse writes, changes nothing
but the port; the engine that holds takes the part from Raw to Provisioned, from Service to Scrapped, or back from Service to
Deployed three times at most (R383); DBGCMD shifts
64 B of what is to be read out, and an entry of zeros only reads; a port without power does nothing. -/
def Obligations.TraceAndJtag : Prop :=
  (∀ (n : Nat) (s : State), n < 12 →
    ((∀ k, k < 8 → (getPart s n).trace.hits.contains k = false) → exec (.traceTriggerMatch n) s = .next s)
    ∧ (∀ k, k < 8 → (getPart s n).trace.hits = [k] →
      ∃ t, exec (.traceTriggerMatch n) s = .next t ∧ (getPart t n).trace.hits = [] ∧ t.tiles = s.tiles ∧ t.clk = s.clk
        ∧ (∀ m, m ≠ n → getPart t m = getPart s m)
        ∧ (trigAction (((getPart s n).trace.trigs.drop k).headD []) = 1 → (getPart t n).trace.capture = true)
        ∧ (trigAction (((getPart s n).trace.trigs.drop k).headD []) = 2 → (getPart t n).trace.capture = false)
        ∧ (trigAction (((getPart s n).trace.trigs.drop k).headD []) = 4 → stageClash s 2 (2 ^ n) = none → partBusy s n = false →
            ctxKind3 s n = false →
            ∃ x, t.reeve.changes.getLast? = some x ∧ x.kind = 2 ∧ x.parts = 2 ^ n ∧ x.target = s.clk.bell + 2
              ∧ x.id = s.reeve.nextChange)))
  ∧ ((∀ s : State, domOn s 92 = true →
    exec .jtagIdcode s = .next { s with
      out := s.out ++ [⟨4, 2, [0xE5, 0x44, 0x38, 0x1A]⟩], jtag := { s.jtag with ir := 2, drive := none } }
    ∧ exec .jtagBypass s = .next { s with out := s.out ++ [⟨4, 15, [0]⟩], jtag := { s.jtag with ir := 15, drive := none } }
    ∧ (∀ v, exec (.jtagSamplePreload v) s = .next { s with
        out := s.out ++ [⟨4, 1, toLe 2 (pinWord s)⟩], jtag := { s.jtag with ir := 1, drive := none, boundary := v } })
    ∧ (s.start.lifeCycle = .raw ∨ s.start.lifeCycle = .service →
      (∀ v, exec (.jtagExtest v) s = .next { s with
        out := s.out ++ [⟨4, 0, toLe 2 (pinWord s)⟩]
        jtag := { s.jtag with ir := 0, boundary := v, drive := if extestDrives s then some v else none } })
      ∧ (∀ op, op < 2 → exec (.jtagTesteng op) s
        = .next { s with jtag := { s.jtag with ir := 9, drive := none, engine := decide (op = 1) } })
      ∧ (∀ op, 2 ≤ op → s.jtag.engine = false → exec (.jtagTesteng op) s
        = .next { s with jtag := { s.jtag with ir := 9, drive := none } }))
    ∧ (s.jtag.engine = true →
      (s.start.lifeCycle = .raw → exec (.jtagTesteng 3) s = .next { s with
        start := { s.start with lifeCycle := .provisioned, lifeChanged := true }
        jtag := { s.jtag with ir := 9, drive := none, engine := false } })
      ∧ (s.start.lifeCycle = .raw → ∀ op, 2 ≤ op → op ≠ 3 → exec (.jtagTesteng op) s
        = .next { s with jtag := { s.jtag with ir := 9, drive := none } })
      ∧ (s.start.lifeCycle = .service → ∀ op, 6 ≤ op → exec (.jtagTesteng op) s = .next { s with
        start := { s.start with lifeCycle := .scrapped, lifeChanged := true }
        jtag := { s.jtag with ir := 9, drive := none, engine := false } })
      ∧ (s.start.lifeCycle = .service → s.start.returns < 3 → exec (.jtagTesteng 4) s = .next { s with
        start := { s.start with lifeCycle := .deployed, returns := s.start.returns + 1, lifeChanged := true }
        jtag := { s.jtag with ir := 9, drive := none, engine := false } })
      ∧ (s.start.lifeCycle = .service → 3 ≤ s.start.returns → exec (.jtagTesteng 4) s
        = .next { s with jtag := { s.jtag with ir := 9, drive := none } })
      ∧ (s.start.lifeCycle = .service → ∀ op, op = 2 ∨ op = 3 ∨ op = 5 → exec (.jtagTesteng op) s
        = .next { s with jtag := { s.jtag with ir := 9, drive := none } }))
    ∧ (s.start.lifeCycle = .provisioned ∨ s.start.lifeCycle = .deployed ∨ s.start.lifeCycle = .scrapped →
      (∀ v, exec (.jtagExtest v) s = exec .jtagBypass s) ∧ (∀ op, exec (.jtagTesteng op) s = exec .jtagBypass s))
    ∧ (s.start.lifeCycle = .scrapped → ∀ data, exec (.jtagDbgcmd data) s = exec .jtagBypass s)
    ∧ (s.start.lifeCycle ≠ .scrapped → s.jtag.buf = [] → ∀ data, allZero data = true →
      exec (.jtagDbgcmd data) s = .next { s with
        out := s.out ++ [⟨4, 8, slice s.jtag.resp 0 64⟩]
        jtag := { s.jtag with ir := 8, drive := none, resp := s.jtag.resp.drop 64 } })
    ∧ (s.start.lifeCycle ≠ .scrapped → s.jtag.buf = [] → reeveServes s = true → ∀ data, data.length = 64 → allZero data = false →
      dbgPieces data = 0 →
      ∃ t, exec (.jtagDbgcmd data) s = .next t ∧ t.jtag.buf = [] ∧ 64 ≤ t.jtag.resp.length))
  ∧ (∀ (v hold : Nat) (data : List Byte) (s : State), domOn s 92 = false →
    ∀ i ∈ [Instr.jtagIdcode, .jtagBypass, .jtagSamplePreload v, .jtagExtest v, .jtagTesteng hold, .jtagDbgcmd data],
      exec i s = .next s))

/-- I3C_DYNAMIC_ADDRESS, MCTP_CONTROL, SIDEBAND_REQUEST, PLDM_GET_SENSOR_READING and PLDM_POLL_EVENT complete. A dynamic address is taken once (R507); the control messages answer with their layouts (PRESUMED,
assumption 7); a request of R508 is answered with its sequence and taken in order, by the firmware and, without it, in phase 0x0F
(R414, R440); PLDM's sensors give the step and the samples (R477), and a poll takes the oldest event and leaves no drop (R510). What
is not addressed, not well-formed, or not powered changes nothing. -/
def Obligations.SidebandAnswers : Prop :=
  (∀ (setdasa : Bool) (static addr : Nat) (s : State), domOn s 92 = true → addr < 128 → (setdasa = true → static = 0x3A) →
    (s.side.dynAddr = none → exec (.i3cDynamicAddress setdasa static addr) s
      = .next { s with side := { s.side with dynAddr := some addr } })
    ∧ (s.side.dynAddr.isSome = true → exec (.i3cDynamicAddress setdasa static addr) s = .next s))
  ∧ (∀ (setdasa : Bool) (static addr : Nat) (s : State), (setdasa = true ∧ static ≠ 0x3A) ∨ 128 ≤ addr
      ∨ (domOn s 92 = false ∧ s.start.phase ≠ 1) →
    exec (.i3cDynamicAddress setdasa static addr) s = .next s)
  ∧ (∀ (cmd : Nat) (data : List Byte) (s : State), s.side.dynAddr = none ∨ (domOn s 92 = false ∧ s.start.phase ≠ 1) →
    exec (.mctpControl cmd data) s = .next s)
  ∧ (∀ (data : List Byte) (s : State), domOn s 92 = true → s.side.dynAddr.isSome = true →
    exec (.mctpControl 2 data) s = .next (pldmAnswer s 0 (toLe 1 s.side.eid ++ [0, 0]))
    ∧ (fld data 0 1 < 2 → fld data 1 1 ≠ 0 → fld data 1 1 ≠ 0xFF →
      ∃ t, exec (.mctpControl 1 data) s = .next t ∧ t.side.eid = fld data 1 1 ∧ t = { s with side := t.side, out := t.out }
        ∧ t.out.length = s.out.length + 1)
    ∧ exec (.mctpControl 5 data) s = .next (pldmAnswer s 0 [2, 1, 0x7F])
    ∧ ((∀ b ∈ [0, 1, 0x7F, 0xFF], fld data 0 1 = b →
        exec (.mctpControl 4 data) s = .next (pldmAnswer s 0 [1, 0xF1, 0xF3, 0xF1, 0]))
      ∧ (fld data 0 1 ∉ [0, 1, 0x7F, 0xFF] → exec (.mctpControl 4 data) s = .next (pldmAnswer s 0x80 []))
      ∧ (fld data 0 1 ≠ 0 → exec (.mctpControl 6 data) s = .next (pldmAnswer s 2 []))
      ∧ (1 < fld data 0 1 ∨ fld data 1 1 = 0 ∨ fld data 1 1 = 0xFF → exec (.mctpControl 1 data) s = .next (pldmAnswer s 2 []))
      ∧ (fld data 0 1 = 0 → exec (.mctpControl 6 data) s = .next (pldmAnswer s 0 [0xFF, 1, 0, 0, 0xF3, 0xA5, 0, 0])))
    ∧ (∀ cmd, cmd = 0 ∨ cmd = 3 ∨ 6 < cmd → exec (.mctpControl cmd data) s = .next (pldmAnswer s 5 [])))
  ∧ (∀ s : State, sideAnswers s = true ↔ (s.start.runSlot ≠ 0 ∨ s.start.phase = 0xF) ∧ domOn s 92 = true ∧ s.side.dynAddr.isSome = true)
  ∧ (∀ (msg : List Byte) (s : State), sideAnswers s = true → 72 ≤ msg.length → slice msg 0 6 = vendorHead 1 [] →
    ∃ t o, exec (.sidebandRequest msg) s = .next t ∧ t.out.getLast? = some o ∧ o.kind = 3 ∧ slice o.data 6 2 = slice msg 6 2
      ∧ t.reeve.takeSeq = s.reeve.takeSeq + 1)
  ∧ (∀ (msg : List Byte) (s : State), sideAnswers s = false ∨ msg.length < 72 ∨ slice msg 0 6 ≠ vendorHead 1 [] →
    exec (.sidebandRequest msg) s = .next s)
  ∧ (∀ s : State, sideServes s = true →
    exec (.pldmGetSensorReading 0x10) s = .next (pldmAnswer s 0 ([1, 0] ++ toLe 1 s.clk.step ++ [0, 0]))
    ∧ (∀ id, 1 ≤ id → id ≤ 7 → s.power.hist ≠ [] → exec (.pldmGetSensorReading id) s
      = .next (pldmAnswer s 0 ([5, 0, 0, 0, 0, 0] ++ toLe 4 (BitVec.ofInt 32 (sensorValue s id)).toNat)))
    ∧ (∀ id, 1 ≤ id → id ≤ 7 → s.power.hist = [] → exec (.pldmGetSensorReading id) s
      = .next (pldmAnswer s 0 ([5, 2, 0, 0, 0, 0] ++ toLe 4 0)))
    ∧ (∀ id, 7 < id → id ≠ 0x10 → exec (.pldmGetSensorReading id) s = .next (pldmAnswer s 0x80 []))
    ∧ (∀ r rest, s.side.events = r :: rest → ∃ t, exec .pldmPollEvent s = .next t ∧ t.side.events = rest ∧ t.side.dropped = 0
      ∧ t = { s with side := t.side, out := t.out } ∧ t.out.length = s.out.length + 1)
    ∧ (s.side.events = [] → exec .pldmPollEvent s = .next (pldmAnswer s 0 []))
    ∧ exec (.pldmGetSensorReading 0) s = .next (pldmAnswer s 0x80 []))
  ∧ (∀ (id : Nat) (s : State), sideServes s = false →
    exec (.pldmGetSensorReading id) s = .next s ∧ exec .pldmPollEvent s = .next s)

/-- BAR2_WRITE, ASSEMBLER_TIMEOUT, BAR2_READ and BAR0_MALFORMED_ACCESS complete. A write to an open partition's share is assembled or posted and one that R522 refuses is counted and changes
nothing else; a poisoned one is MALFORMED (R516, R523); an assembler that has not grown is flushed as a partial write;
a read within a bolt is answered with what a read over the spine gives, a refused one with Unsupported Request (R524); such a read
gives the bolt's lines and leaves memory as it was where nothing waits at the stack (R277); a malformed write to BAR0 is discarded
and counted, and a malformed read answered (R516, R519). -/
def Obligations.HostAccessesTheShares : Prop :=
  (∀ (off : Nat) (data : List Byte) (s : State), barOpen s = true → 1 ≤ data.length → data.length ≤ 512 →
    off % 4096 + data.length ≤ 4096 → off < 2 ^ 39 →
    (∀ w, busRefusal s true off = some w → ∀ ep, exec (.bar2Write off data ep) s = .next (busCount s w))
    ∧ (busRefusal s true off = none → exec (.bar2Write off data true) s = .next (busCount s 3))
    ∧ (busRefusal s true off = none → off % 4096 ≠ 0 → asmOf s (off / 2 ^ 35) (off % 2 ^ 35 / 4096) = none →
      ∃ t, exec (.bar2Write off data false) s = .next t ∧ t = { s with mems := t.mems, clk := t.clk }
        ∧ t = boltPost s (off / 2 ^ 35) (off % 2 ^ 35 / 4096) (off % 4096) data)
    ∧ (busRefusal s true off = none → off % 4096 = 0 → asmOf s (off / 2 ^ 35) (off % 2 ^ 35 / 4096) = none →
      s.hst.asm.length < 64 →
      exec (.bar2Write off data false) s = .next { s with hst := { s.hst with asm := s.hst.asm
        ++ [{ part := off / 2 ^ 35, bolt := off % 2 ^ 35 / 4096, data := data }] } }))
  ∧ (∀ (s : State) (off : Nat), (0x6000000000 ≤ off → busRefusal s true off = some 2)
    ∧ (off < 0x6000000000 → bitAt s.hst.winOpen (off / 2 ^ 35) = false → busRefusal s true off = some 0)
    ∧ (off < 0x6000000000 → bitAt s.hst.winOpen (off / 2 ^ 35) = true → (getPart s (off / 2 ^ 35)).key ≠ 0 →
      s.reeve.computeReset = true → busRefusal s true off = some 1))
  ∧ (∀ (n b : Nat) (s : State), n < 12 → b < Config.shareBolts →
    exec (.assemblerTimeout n b) s = .next (asmFlush s n b)
    ∧ (asmOf s n b = none → asmFlush s n b = s)
    ∧ (∀ a, asmOf s n b = some a →
      ∃ t, asmFlush s n b = t ∧ t.hst.asm = s.hst.asm.eraseP (asmIs n b) ∧ t = { s with hst := t.hst, mems := t.mems, clk := t.clk }
        ∧ (getStack t (boltStack (getPart s n).seed.toNat b)).remote.length
          = (getStack s (boltStack (getPart s n).seed.toNat b)).remote.length + 1))
  ∧ (∀ (off len tag : Nat) (s : State), s.hst.pcieUp = true → 1 ≤ len → len ≤ 4096 → off + len ≤ 2 ^ 39 →
    (barOpen s = false → exec (.bar2Read off len tag) s = .next (hostCpl s tag 1 []))
    ∧ (barOpen s = true → off % 4096 + len ≤ 4096 →
      (∀ w, busRefusal (hostSettle s) true off = some w →
        exec (.bar2Read off len tag) s = .next (hostCpl (busCount (hostSettle s) w) tag 1 []))
      ∧ (busRefusal (hostSettle s) true off = none →
        ∃ t st r, exec (.bar2Read off len tag) s = .next t
          ∧ r = spineRead (hostSettle s) false (off / 2 ^ 35) (off % 2 ^ 35 / 4096) (off % 4096 / 64)
              ((off % 4096 + len - 1) / 64 + 1 - off % 4096 / 64)
          ∧ (st = 0 ∨ st = 2) ∧ t.out = r.2.2.out ++ [⟨2, tag % 2 ^ 32 + 2 ^ 32 * st, slice r.1 (off % 4096 % 64) len⟩]
          ∧ t.dram = r.2.2.dram ∧ t.mems = r.2.2.mems)))
  ∧ (∀ (n b line lines k : Nat) (counts : Bool) (s : State), k = boltStack (getPart s n).seed.toNat b → (getStack s k).lost = false →
    (getStack s k).remote = [] → (getStack s k).inq = [] →
    (spineRead s counts n b line lines).1 = (upto line lines).flatMap (boltLine s n b)
    ∧ (spineRead s counts n b line lines).2.2.dram = s.dram ∧ (spineRead s counts n b line lines).2.2.bolts = s.bolts)
  ∧ (∀ (off len tag : Nat) (ep : Bool) (s : State), barOpen s = true → 1 ≤ len → off + len ≤ 0x200000 →
    (ep = true ∨ barWriteOk off len = false →
      exec (.bar0MalformedAccess off len tag true ep) s = .next (busCount s 3))
    ∧ exec (.bar0MalformedAccess off len tag false ep) s = .next (hostCpl (barRead (hostSettle s) off len).2 tag 0
        (barRead (hostSettle s) off len).1)
    ∧ (barRead (hostSettle s) off len).1.length = len)

/-- HOST_REGISTER_WRITE, MANAGEMENT_ACCESS, PCIE_CONFIGURATION_REQUEST and TELEMETRY_SWEEP complete. Of the writes of BAR0 by the
host, or by the Reeve through the management space, each register takes its bits
(R517), an encoding that it does not list, and a write of a mill's split or merge register, is discarded and reported (R14), an
8-byte access acts as two, a command ring takes its bytes (R418); the management space reaches the Reeve's
SRAM, and a tile's store and its registers by their access codes (R527); where the function does not decode, or the
writer may not reach it, nothing happens, and a write of the host that R516 or R519 discards is counted.
A configuration write sets its field of the function and a read is
answered (R514; layouts PRESUMED, assumption 7); a sweep that no firmware update holds back is kept for MOD.TELEMETRY
(R409). -/
def Obligations.RegisterWritesAndConfiguration : Prop :=
  ((∀ (mgmt : Bool) (off : Nat) (data : List Byte) (s : State), (if mgmt then reeveServes s else barOpen s) = true →
    data ≠ [] → off + data.length ≤ 0x200000 →
    (barWriteOk off data.length = true → exec (.hostRegisterWrite mgmt off data) s = .next (withHealth s (barWrite s off data)))
    ∧ (barWriteOk off data.length = false →
      exec (.hostRegisterWrite mgmt off data) s = .next (if mgmt then s else busCount s 3)))
  ∧ (∀ (off : Nat) (data : List Byte) (s : State), barOpen s = false → exec (.hostRegisterWrite false off data) s = .next s)
  ∧ (∀ (s : State) (v : Nat) (data : List Byte), v < 2 ^ 32 → data = toLe 4 v →
    barWrite s 0x004 data = { s with hst := { s.hst with scratch := BitVec.ofNat 32 v } }
    ∧ barWrite s 0x018 data = { s with hst := { s.hst with winOpen := bits v 11 0 } }
    ∧ (25 ≤ bits v 25 16 → bits v 25 16 ≤ 600 → barWrite s 0x014 data
      = { s with hst := { s.hst with hwEn := bitAt v 31, dwell := bits v 25 16, pause := bits v 11 0 } })
    ∧ (bits v 25 16 < 25 ∨ 600 < bits v 25 16 → barWrite s 0x014 data = badHostWrite s)
    ∧ (∀ k o, k < 8 → o = 0 ∨ o = 4 → domOn s (60 + k) = true → barWrite s (0x100000 + 4096 * k + o) data = badHostWrite s)
    ∧ (∃ e, e.code = 0xF009 ∧ badHostWrite s = sendEvent s e)
    ∧ (∀ n, n < 16 → barWrite s (0x10000 + 4096 * n + 0x01C) data = modPage s n (fun q => { q with evCi := v })))
  ∧ (∀ (s : State) (o : Nat) (data : List Byte), data.length = 8 → inRing o 8 = false → inRing o 4 = false → inRing (o + 4) 4 = false →
    barWrite s o data = barWrite (barWrite s o (data.take 4)) (o + 4) (data.drop 4))
  ∧ (∀ (s : State) (o : Nat) (data : List Byte), inRing o data.length = true →
    ∃ t, barWrite s o data = t ∧ memRead (getPage t ((o - 0x10000) / 4096)).cmd (o % 4096 - 0x100) data.length = data
      ∧ (∀ m, m ≠ (o - 0x10000) / 4096 → getPage t m = getPage s m) ∧ t.tiles = s.tiles ∧ t.hst = s.hst)
  ∧ (∀ (addr len : Nat) (data : List Byte) (s : State), reeveServes s = true →
    exec (.managementAccess false true addr len data) s = .next (withHealth s (mgmtWrite s addr data))
    ∧ exec (.managementAccess false false addr len data) s = .next (mgmtRead s addr len).2
    ∧ (s.jtag.engine = true → s.start.lifeCycle = .service →
      ∃ t, exec (.managementAccess true false addr len data) s = .next t
        ∧ t.out = (mgmtRead s addr len).2.out ++ [⟨4, 9, (mgmtRead s addr len).1⟩]))
  ∧ (∀ (addr : Nat) (data : List Byte) (s : State), addr + data.length ≤ 0x800000 →
    mgmtWrite s addr data = { s with reeve := { s.reeve with sram := memWrite s.reeve.sram addr data } }
    ∧ (∀ len, addr + len ≤ 0x800000 → mgmtRead s addr len = (memRead s.reeve.sram addr len, s)))
  ∧ (∀ (p o len : Nat) (data : List Byte) (s : State), p < 4800 → 0 < data.length → o + data.length ≤ 0x80000 →
    (tileOn s p = true →
      mgmtWrite s (0x1000000000 + 0x80000 * p + o) data = modTile s p (fun t => debugStorePut t o data))
    ∧ (tileOn s p = false → mgmtWrite s (0x1000000000 + 0x80000 * p + o) data = s
      ∧ (0 < len → o + len ≤ 0x80000 → mgmtRead s (0x1000000000 + 0x80000 * p + o) len = (zeros len, s)))
    ∧ (tileOn s p = true → 0 < len → o + len ≤ 0x80000 →
      (mgmtRead s (0x1000000000 + 0x80000 * p + o) len).1 = (copierRead (ctxOf s p) (ctxCc s (physPart p)) o len).1))
  ∧ (∀ (p c v : Nat) (s : State), tileOn s p = true → (csrCustom s p c).isSome = true →
    (0x7C0 ≤ c → c ≤ 0x7C7 → mgmtCsrPut s p c v
        = if machineBad c v then badWrite s p else modTile s p (fun t => machinePut t c v))
    ∧ ((c < 0x7C0 ∨ 0x7C7 < c) → csrReadOnly c = true → mgmtCsrPut s p c v = s))
  ∧ (∀ (engine write : Bool) (addr len : Nat) (data : List Byte) (s : State),
    (if engine then engineOpen s else reeveServes s) = false → exec (.managementAccess engine write addr len data) s = .next s))
  ∧ ((∀ (field v : Nat) (s : State), s.hst.pcieUp = true →
    exec (.pcieConfigurationRequest true field v) s = .next { s with hst := cfgPut s.hst field v }
    ∧ (∃ t, exec (.pcieConfigurationRequest false field v) s = .next t ∧ t = { s with out := t.out }
      ∧ t.out = s.out ++ [⟨5, field, toLe 8 (cfgWord s.hst field)⟩]))
  ∧ (∀ (h : Hst) (v : Nat), (cfgPut h 0 v).memEn = bitAt v 1 ∧ (cfgPut h 0 v).busMaster = bitAt v 2
    ∧ (cfgPut h 2 v).msixEn = bitAt v 15 ∧ (cfgPut h 2 v).msixMask = bitAt v 14
    ∧ (v < 2 ^ 64 → (cfgPut h 3 v).bar0 % 2 ^ 21 = 0 ∧ (cfgPut h 3 v).bar0 ≤ v ∧ v < (cfgPut h 3 v).bar0 + 2 ^ 21)
    ∧ (v < 2 ^ 64 → (cfgPut h 4 v).bar2 % 2 ^ 39 = 0 ∧ (cfgPut h 4 v).bar2 ≤ v ∧ v < (cfgPut h 4 v).bar2 + 2 ^ 39)
    ∧ (cfgPut h 1 3).d3hot = true ∧ (cfgPut h 1 0).d3hot = false)
  ∧ (∀ (w : Bool) (field v : Nat) (s : State), s.hst.pcieUp = false → exec (.pcieConfigurationRequest w field v) s = .next s)
  ∧ (∀ s : State, reeveServes s = true → s.power.keepAlive = false → (ledgerAdmit s 7 0).1 = 0 →
    exec .telemetrySweep s = .next { s with reeve := { s.reeve with sweep := sweepBytes s } })
  ∧ (∀ s : State, reeveServes s = false ∨ (ledgerAdmit s 7 0).1 ≠ 0 → exec .telemetrySweep s = .next s))
end

