-- ==== Sys2Proof/Laws/State.lean ====
section
/-! SUPPORT. What each of the named updates of the state leaves unchanged, field by field. -/

namespace Sys2Proof.Machine

/-! ## setTile -/

@[simp] theorem setTile_pending (s : State) (p : Nat) (t : Tile) :
    (setTile s p t).pending = s.pending := rfl
@[simp] theorem setTile_fresh (s : State) (p : Nat) (t : Tile) :
    (setTile s p t).fresh = s.fresh := rfl
@[simp] theorem setTile_clk (s : State) (p : Nat) (t : Tile) :
    (setTile s p t).clk = s.clk := rfl
@[simp] theorem setTile_pins (s : State) (p : Nat) (t : Tile) :
    (setTile s p t).pins = s.pins := rfl
@[simp] theorem setTile_rows (s : State) (p : Nat) (t : Tile) :
    (setTile s p t).rows = s.rows := rfl
@[simp] theorem setTile_parts (s : State) (p : Nat) (t : Tile) :
    (setTile s p t).parts = s.parts := rfl
@[simp] theorem setTile_mems (s : State) (p : Nat) (t : Tile) :
    (setTile s p t).mems = s.mems := rfl
@[simp] theorem setTile_ports (s : State) (p : Nat) (t : Tile) :
    (setTile s p t).ports = s.ports := rfl
@[simp] theorem setTile_dram (s : State) (p : Nat) (t : Tile) :
    (setTile s p t).dram = s.dram := rfl
@[simp] theorem setTile_bolts (s : State) (p : Nat) (t : Tile) :
    (setTile s p t).bolts = s.bolts := rfl
@[simp] theorem setTile_link (s : State) (p : Nat) (t : Tile) :
    (setTile s p t).link = s.link := rfl
@[simp] theorem setTile_power (s : State) (p : Nat) (t : Tile) :
    (setTile s p t).power = s.power := rfl
@[simp] theorem setTile_start (s : State) (p : Nat) (t : Tile) :
    (setTile s p t).start = s.start := rfl
@[simp] theorem setTile_reeve (s : State) (p : Nat) (t : Tile) :
    (setTile s p t).reeve = s.reeve := rfl
@[simp] theorem setTile_hst (s : State) (p : Nat) (t : Tile) :
    (setTile s p t).hst = s.hst := rfl
@[simp] theorem setTile_side (s : State) (p : Nat) (t : Tile) :
    (setTile s p t).side = s.side := rfl
@[simp] theorem setTile_jtag (s : State) (p : Nat) (t : Tile) :
    (setTile s p t).jtag = s.jtag := rfl
@[simp] theorem setTile_out (s : State) (p : Nat) (t : Tile) :
    (setTile s p t).out = s.out := rfl

/-! ## modTile -/

@[simp] theorem modTile_pending (s : State) (p : Nat) (f : Tile → Tile) :
    (modTile s p f).pending = s.pending := rfl
@[simp] theorem modTile_fresh (s : State) (p : Nat) (f : Tile → Tile) :
    (modTile s p f).fresh = s.fresh := rfl
@[simp] theorem modTile_clk (s : State) (p : Nat) (f : Tile → Tile) :
    (modTile s p f).clk = s.clk := rfl
@[simp] theorem modTile_pins (s : State) (p : Nat) (f : Tile → Tile) :
    (modTile s p f).pins = s.pins := rfl
@[simp] theorem modTile_rows (s : State) (p : Nat) (f : Tile → Tile) :
    (modTile s p f).rows = s.rows := rfl
@[simp] theorem modTile_parts (s : State) (p : Nat) (f : Tile → Tile) :
    (modTile s p f).parts = s.parts := rfl
@[simp] theorem modTile_mems (s : State) (p : Nat) (f : Tile → Tile) :
    (modTile s p f).mems = s.mems := rfl
@[simp] theorem modTile_ports (s : State) (p : Nat) (f : Tile → Tile) :
    (modTile s p f).ports = s.ports := rfl
@[simp] theorem modTile_dram (s : State) (p : Nat) (f : Tile → Tile) :
    (modTile s p f).dram = s.dram := rfl
@[simp] theorem modTile_bolts (s : State) (p : Nat) (f : Tile → Tile) :
    (modTile s p f).bolts = s.bolts := rfl
@[simp] theorem modTile_link (s : State) (p : Nat) (f : Tile → Tile) :
    (modTile s p f).link = s.link := rfl
@[simp] theorem modTile_power (s : State) (p : Nat) (f : Tile → Tile) :
    (modTile s p f).power = s.power := rfl
@[simp] theorem modTile_start (s : State) (p : Nat) (f : Tile → Tile) :
    (modTile s p f).start = s.start := rfl
@[simp] theorem modTile_reeve (s : State) (p : Nat) (f : Tile → Tile) :
    (modTile s p f).reeve = s.reeve := rfl
@[simp] theorem modTile_hst (s : State) (p : Nat) (f : Tile → Tile) :
    (modTile s p f).hst = s.hst := rfl
@[simp] theorem modTile_side (s : State) (p : Nat) (f : Tile → Tile) :
    (modTile s p f).side = s.side := rfl
@[simp] theorem modTile_jtag (s : State) (p : Nat) (f : Tile → Tile) :
    (modTile s p f).jtag = s.jtag := rfl
@[simp] theorem modTile_out (s : State) (p : Nat) (f : Tile → Tile) :
    (modTile s p f).out = s.out := rfl

/-! ## modRow -/

@[simp] theorem modRow_pending (s : State) (r : Nat) (f : Row → Row) :
    (modRow s r f).pending = s.pending := rfl
@[simp] theorem modRow_fresh (s : State) (r : Nat) (f : Row → Row) :
    (modRow s r f).fresh = s.fresh := rfl
@[simp] theorem modRow_clk (s : State) (r : Nat) (f : Row → Row) :
    (modRow s r f).clk = s.clk := rfl
@[simp] theorem modRow_pins (s : State) (r : Nat) (f : Row → Row) :
    (modRow s r f).pins = s.pins := rfl
@[simp] theorem modRow_tiles (s : State) (r : Nat) (f : Row → Row) :
    (modRow s r f).tiles = s.tiles := rfl
@[simp] theorem modRow_parts (s : State) (r : Nat) (f : Row → Row) :
    (modRow s r f).parts = s.parts := rfl
@[simp] theorem modRow_mems (s : State) (r : Nat) (f : Row → Row) :
    (modRow s r f).mems = s.mems := rfl
@[simp] theorem modRow_ports (s : State) (r : Nat) (f : Row → Row) :
    (modRow s r f).ports = s.ports := rfl
@[simp] theorem modRow_dram (s : State) (r : Nat) (f : Row → Row) :
    (modRow s r f).dram = s.dram := rfl
@[simp] theorem modRow_bolts (s : State) (r : Nat) (f : Row → Row) :
    (modRow s r f).bolts = s.bolts := rfl
@[simp] theorem modRow_link (s : State) (r : Nat) (f : Row → Row) :
    (modRow s r f).link = s.link := rfl
@[simp] theorem modRow_power (s : State) (r : Nat) (f : Row → Row) :
    (modRow s r f).power = s.power := rfl
@[simp] theorem modRow_start (s : State) (r : Nat) (f : Row → Row) :
    (modRow s r f).start = s.start := rfl
@[simp] theorem modRow_reeve (s : State) (r : Nat) (f : Row → Row) :
    (modRow s r f).reeve = s.reeve := rfl
@[simp] theorem modRow_hst (s : State) (r : Nat) (f : Row → Row) :
    (modRow s r f).hst = s.hst := rfl
@[simp] theorem modRow_side (s : State) (r : Nat) (f : Row → Row) :
    (modRow s r f).side = s.side := rfl
@[simp] theorem modRow_jtag (s : State) (r : Nat) (f : Row → Row) :
    (modRow s r f).jtag = s.jtag := rfl
@[simp] theorem modRow_out (s : State) (r : Nat) (f : Row → Row) :
    (modRow s r f).out = s.out := rfl

/-! ## modPart -/

@[simp] theorem modPart_pending (s : State) (n : Nat) (f : Part → Part) :
    (modPart s n f).pending = s.pending := rfl
@[simp] theorem modPart_fresh (s : State) (n : Nat) (f : Part → Part) :
    (modPart s n f).fresh = s.fresh := rfl
@[simp] theorem modPart_clk (s : State) (n : Nat) (f : Part → Part) :
    (modPart s n f).clk = s.clk := rfl
@[simp] theorem modPart_pins (s : State) (n : Nat) (f : Part → Part) :
    (modPart s n f).pins = s.pins := rfl
@[simp] theorem modPart_tiles (s : State) (n : Nat) (f : Part → Part) :
    (modPart s n f).tiles = s.tiles := rfl
@[simp] theorem modPart_rows (s : State) (n : Nat) (f : Part → Part) :
    (modPart s n f).rows = s.rows := rfl
@[simp] theorem modPart_mems (s : State) (n : Nat) (f : Part → Part) :
    (modPart s n f).mems = s.mems := rfl
@[simp] theorem modPart_ports (s : State) (n : Nat) (f : Part → Part) :
    (modPart s n f).ports = s.ports := rfl
@[simp] theorem modPart_dram (s : State) (n : Nat) (f : Part → Part) :
    (modPart s n f).dram = s.dram := rfl
@[simp] theorem modPart_bolts (s : State) (n : Nat) (f : Part → Part) :
    (modPart s n f).bolts = s.bolts := rfl
@[simp] theorem modPart_link (s : State) (n : Nat) (f : Part → Part) :
    (modPart s n f).link = s.link := rfl
@[simp] theorem modPart_power (s : State) (n : Nat) (f : Part → Part) :
    (modPart s n f).power = s.power := rfl
@[simp] theorem modPart_start (s : State) (n : Nat) (f : Part → Part) :
    (modPart s n f).start = s.start := rfl
@[simp] theorem modPart_reeve (s : State) (n : Nat) (f : Part → Part) :
    (modPart s n f).reeve = s.reeve := rfl
@[simp] theorem modPart_hst (s : State) (n : Nat) (f : Part → Part) :
    (modPart s n f).hst = s.hst := rfl
@[simp] theorem modPart_side (s : State) (n : Nat) (f : Part → Part) :
    (modPart s n f).side = s.side := rfl
@[simp] theorem modPart_jtag (s : State) (n : Nat) (f : Part → Part) :
    (modPart s n f).jtag = s.jtag := rfl
@[simp] theorem modPart_out (s : State) (n : Nat) (f : Part → Part) :
    (modPart s n f).out = s.out := rfl

/-! ## modStack -/

@[simp] theorem modStack_pending (s : State) (k : Nat) (f : Stack → Stack) :
    (modStack s k f).pending = s.pending := rfl
@[simp] theorem modStack_fresh (s : State) (k : Nat) (f : Stack → Stack) :
    (modStack s k f).fresh = s.fresh := rfl
@[simp] theorem modStack_clk (s : State) (k : Nat) (f : Stack → Stack) :
    (modStack s k f).clk = s.clk := rfl
@[simp] theorem modStack_pins (s : State) (k : Nat) (f : Stack → Stack) :
    (modStack s k f).pins = s.pins := rfl
@[simp] theorem modStack_tiles (s : State) (k : Nat) (f : Stack → Stack) :
    (modStack s k f).tiles = s.tiles := rfl
@[simp] theorem modStack_rows (s : State) (k : Nat) (f : Stack → Stack) :
    (modStack s k f).rows = s.rows := rfl
@[simp] theorem modStack_parts (s : State) (k : Nat) (f : Stack → Stack) :
    (modStack s k f).parts = s.parts := rfl
@[simp] theorem modStack_ports (s : State) (k : Nat) (f : Stack → Stack) :
    (modStack s k f).ports = s.ports := rfl
@[simp] theorem modStack_dram (s : State) (k : Nat) (f : Stack → Stack) :
    (modStack s k f).dram = s.dram := rfl
@[simp] theorem modStack_bolts (s : State) (k : Nat) (f : Stack → Stack) :
    (modStack s k f).bolts = s.bolts := rfl
@[simp] theorem modStack_link (s : State) (k : Nat) (f : Stack → Stack) :
    (modStack s k f).link = s.link := rfl
@[simp] theorem modStack_power (s : State) (k : Nat) (f : Stack → Stack) :
    (modStack s k f).power = s.power := rfl
@[simp] theorem modStack_start (s : State) (k : Nat) (f : Stack → Stack) :
    (modStack s k f).start = s.start := rfl
@[simp] theorem modStack_reeve (s : State) (k : Nat) (f : Stack → Stack) :
    (modStack s k f).reeve = s.reeve := rfl
@[simp] theorem modStack_hst (s : State) (k : Nat) (f : Stack → Stack) :
    (modStack s k f).hst = s.hst := rfl
@[simp] theorem modStack_side (s : State) (k : Nat) (f : Stack → Stack) :
    (modStack s k f).side = s.side := rfl
@[simp] theorem modStack_jtag (s : State) (k : Nat) (f : Stack → Stack) :
    (modStack s k f).jtag = s.jtag := rfl
@[simp] theorem modStack_out (s : State) (k : Nat) (f : Stack → Stack) :
    (modStack s k f).out = s.out := rfl

/-! ## modPort -/

@[simp] theorem modPort_pending (s : State) (p : Nat) (f : Port → Port) :
    (modPort s p f).pending = s.pending := rfl
@[simp] theorem modPort_fresh (s : State) (p : Nat) (f : Port → Port) :
    (modPort s p f).fresh = s.fresh := rfl
@[simp] theorem modPort_clk (s : State) (p : Nat) (f : Port → Port) :
    (modPort s p f).clk = s.clk := rfl
@[simp] theorem modPort_pins (s : State) (p : Nat) (f : Port → Port) :
    (modPort s p f).pins = s.pins := rfl
@[simp] theorem modPort_tiles (s : State) (p : Nat) (f : Port → Port) :
    (modPort s p f).tiles = s.tiles := rfl
@[simp] theorem modPort_rows (s : State) (p : Nat) (f : Port → Port) :
    (modPort s p f).rows = s.rows := rfl
@[simp] theorem modPort_parts (s : State) (p : Nat) (f : Port → Port) :
    (modPort s p f).parts = s.parts := rfl
@[simp] theorem modPort_mems (s : State) (p : Nat) (f : Port → Port) :
    (modPort s p f).mems = s.mems := rfl
@[simp] theorem modPort_dram (s : State) (p : Nat) (f : Port → Port) :
    (modPort s p f).dram = s.dram := rfl
@[simp] theorem modPort_bolts (s : State) (p : Nat) (f : Port → Port) :
    (modPort s p f).bolts = s.bolts := rfl
@[simp] theorem modPort_link (s : State) (p : Nat) (f : Port → Port) :
    (modPort s p f).link = s.link := rfl
@[simp] theorem modPort_power (s : State) (p : Nat) (f : Port → Port) :
    (modPort s p f).power = s.power := rfl
@[simp] theorem modPort_start (s : State) (p : Nat) (f : Port → Port) :
    (modPort s p f).start = s.start := rfl
@[simp] theorem modPort_reeve (s : State) (p : Nat) (f : Port → Port) :
    (modPort s p f).reeve = s.reeve := rfl
@[simp] theorem modPort_hst (s : State) (p : Nat) (f : Port → Port) :
    (modPort s p f).hst = s.hst := rfl
@[simp] theorem modPort_side (s : State) (p : Nat) (f : Port → Port) :
    (modPort s p f).side = s.side := rfl
@[simp] theorem modPort_jtag (s : State) (p : Nat) (f : Port → Port) :
    (modPort s p f).jtag = s.jtag := rfl
@[simp] theorem modPort_out (s : State) (p : Nat) (f : Port → Port) :
    (modPort s p f).out = s.out := rfl

/-! ## modClk -/

@[simp] theorem modClk_pending (s : State) (f : Clk → Clk) :
    (modClk s f).pending = s.pending := rfl
@[simp] theorem modClk_fresh (s : State) (f : Clk → Clk) :
    (modClk s f).fresh = s.fresh := rfl
@[simp] theorem modClk_pins (s : State) (f : Clk → Clk) :
    (modClk s f).pins = s.pins := rfl
@[simp] theorem modClk_tiles (s : State) (f : Clk → Clk) :
    (modClk s f).tiles = s.tiles := rfl
@[simp] theorem modClk_rows (s : State) (f : Clk → Clk) :
    (modClk s f).rows = s.rows := rfl
@[simp] theorem modClk_parts (s : State) (f : Clk → Clk) :
    (modClk s f).parts = s.parts := rfl
@[simp] theorem modClk_mems (s : State) (f : Clk → Clk) :
    (modClk s f).mems = s.mems := rfl
@[simp] theorem modClk_ports (s : State) (f : Clk → Clk) :
    (modClk s f).ports = s.ports := rfl
@[simp] theorem modClk_dram (s : State) (f : Clk → Clk) :
    (modClk s f).dram = s.dram := rfl
@[simp] theorem modClk_bolts (s : State) (f : Clk → Clk) :
    (modClk s f).bolts = s.bolts := rfl
@[simp] theorem modClk_link (s : State) (f : Clk → Clk) :
    (modClk s f).link = s.link := rfl
@[simp] theorem modClk_power (s : State) (f : Clk → Clk) :
    (modClk s f).power = s.power := rfl
@[simp] theorem modClk_start (s : State) (f : Clk → Clk) :
    (modClk s f).start = s.start := rfl
@[simp] theorem modClk_reeve (s : State) (f : Clk → Clk) :
    (modClk s f).reeve = s.reeve := rfl
@[simp] theorem modClk_hst (s : State) (f : Clk → Clk) :
    (modClk s f).hst = s.hst := rfl
@[simp] theorem modClk_side (s : State) (f : Clk → Clk) :
    (modClk s f).side = s.side := rfl
@[simp] theorem modClk_jtag (s : State) (f : Clk → Clk) :
    (modClk s f).jtag = s.jtag := rfl
@[simp] theorem modClk_out (s : State) (f : Clk → Clk) :
    (modClk s f).out = s.out := rfl

/-! ## modLink -/

@[simp] theorem modLink_pending (s : State) (f : Link → Link) :
    (modLink s f).pending = s.pending := rfl
@[simp] theorem modLink_fresh (s : State) (f : Link → Link) :
    (modLink s f).fresh = s.fresh := rfl
@[simp] theorem modLink_clk (s : State) (f : Link → Link) :
    (modLink s f).clk = s.clk := rfl
@[simp] theorem modLink_pins (s : State) (f : Link → Link) :
    (modLink s f).pins = s.pins := rfl
@[simp] theorem modLink_tiles (s : State) (f : Link → Link) :
    (modLink s f).tiles = s.tiles := rfl
@[simp] theorem modLink_rows (s : State) (f : Link → Link) :
    (modLink s f).rows = s.rows := rfl
@[simp] theorem modLink_parts (s : State) (f : Link → Link) :
    (modLink s f).parts = s.parts := rfl
@[simp] theorem modLink_mems (s : State) (f : Link → Link) :
    (modLink s f).mems = s.mems := rfl
@[simp] theorem modLink_ports (s : State) (f : Link → Link) :
    (modLink s f).ports = s.ports := rfl
@[simp] theorem modLink_dram (s : State) (f : Link → Link) :
    (modLink s f).dram = s.dram := rfl
@[simp] theorem modLink_bolts (s : State) (f : Link → Link) :
    (modLink s f).bolts = s.bolts := rfl
@[simp] theorem modLink_power (s : State) (f : Link → Link) :
    (modLink s f).power = s.power := rfl
@[simp] theorem modLink_start (s : State) (f : Link → Link) :
    (modLink s f).start = s.start := rfl
@[simp] theorem modLink_reeve (s : State) (f : Link → Link) :
    (modLink s f).reeve = s.reeve := rfl
@[simp] theorem modLink_hst (s : State) (f : Link → Link) :
    (modLink s f).hst = s.hst := rfl
@[simp] theorem modLink_side (s : State) (f : Link → Link) :
    (modLink s f).side = s.side := rfl
@[simp] theorem modLink_jtag (s : State) (f : Link → Link) :
    (modLink s f).jtag = s.jtag := rfl
@[simp] theorem modLink_out (s : State) (f : Link → Link) :
    (modLink s f).out = s.out := rfl

/-! ## setDom -/

@[simp] theorem setDom_pending (s : State) (d : Nat) (v : DomSt) :
    (setDom s d v).pending = s.pending := rfl
@[simp] theorem setDom_fresh (s : State) (d : Nat) (v : DomSt) :
    (setDom s d v).fresh = s.fresh := rfl
@[simp] theorem setDom_clk (s : State) (d : Nat) (v : DomSt) :
    (setDom s d v).clk = s.clk := rfl
@[simp] theorem setDom_pins (s : State) (d : Nat) (v : DomSt) :
    (setDom s d v).pins = s.pins := rfl
@[simp] theorem setDom_tiles (s : State) (d : Nat) (v : DomSt) :
    (setDom s d v).tiles = s.tiles := rfl
@[simp] theorem setDom_rows (s : State) (d : Nat) (v : DomSt) :
    (setDom s d v).rows = s.rows := rfl
@[simp] theorem setDom_parts (s : State) (d : Nat) (v : DomSt) :
    (setDom s d v).parts = s.parts := rfl
@[simp] theorem setDom_mems (s : State) (d : Nat) (v : DomSt) :
    (setDom s d v).mems = s.mems := rfl
@[simp] theorem setDom_ports (s : State) (d : Nat) (v : DomSt) :
    (setDom s d v).ports = s.ports := rfl
@[simp] theorem setDom_dram (s : State) (d : Nat) (v : DomSt) :
    (setDom s d v).dram = s.dram := rfl
@[simp] theorem setDom_bolts (s : State) (d : Nat) (v : DomSt) :
    (setDom s d v).bolts = s.bolts := rfl
@[simp] theorem setDom_link (s : State) (d : Nat) (v : DomSt) :
    (setDom s d v).link = s.link := rfl
@[simp] theorem setDom_start (s : State) (d : Nat) (v : DomSt) :
    (setDom s d v).start = s.start := rfl
@[simp] theorem setDom_reeve (s : State) (d : Nat) (v : DomSt) :
    (setDom s d v).reeve = s.reeve := rfl
@[simp] theorem setDom_hst (s : State) (d : Nat) (v : DomSt) :
    (setDom s d v).hst = s.hst := rfl
@[simp] theorem setDom_side (s : State) (d : Nat) (v : DomSt) :
    (setDom s d v).side = s.side := rfl
@[simp] theorem setDom_jtag (s : State) (d : Nat) (v : DomSt) :
    (setDom s d v).jtag = s.jtag := rfl
@[simp] theorem setDom_out (s : State) (d : Nat) (v : DomSt) :
    (setDom s d v).out = s.out := rfl

/-! ## modReeve -/

@[simp] theorem modReeve_pending (s : State) (f : Reeve → Reeve) :
    (modReeve s f).pending = s.pending := rfl
@[simp] theorem modReeve_fresh (s : State) (f : Reeve → Reeve) :
    (modReeve s f).fresh = s.fresh := rfl
@[simp] theorem modReeve_clk (s : State) (f : Reeve → Reeve) :
    (modReeve s f).clk = s.clk := rfl
@[simp] theorem modReeve_pins (s : State) (f : Reeve → Reeve) :
    (modReeve s f).pins = s.pins := rfl
@[simp] theorem modReeve_tiles (s : State) (f : Reeve → Reeve) :
    (modReeve s f).tiles = s.tiles := rfl
@[simp] theorem modReeve_rows (s : State) (f : Reeve → Reeve) :
    (modReeve s f).rows = s.rows := rfl
@[simp] theorem modReeve_parts (s : State) (f : Reeve → Reeve) :
    (modReeve s f).parts = s.parts := rfl
@[simp] theorem modReeve_mems (s : State) (f : Reeve → Reeve) :
    (modReeve s f).mems = s.mems := rfl
@[simp] theorem modReeve_ports (s : State) (f : Reeve → Reeve) :
    (modReeve s f).ports = s.ports := rfl
@[simp] theorem modReeve_dram (s : State) (f : Reeve → Reeve) :
    (modReeve s f).dram = s.dram := rfl
@[simp] theorem modReeve_bolts (s : State) (f : Reeve → Reeve) :
    (modReeve s f).bolts = s.bolts := rfl
@[simp] theorem modReeve_link (s : State) (f : Reeve → Reeve) :
    (modReeve s f).link = s.link := rfl
@[simp] theorem modReeve_power (s : State) (f : Reeve → Reeve) :
    (modReeve s f).power = s.power := rfl
@[simp] theorem modReeve_start (s : State) (f : Reeve → Reeve) :
    (modReeve s f).start = s.start := rfl
@[simp] theorem modReeve_hst (s : State) (f : Reeve → Reeve) :
    (modReeve s f).hst = s.hst := rfl
@[simp] theorem modReeve_side (s : State) (f : Reeve → Reeve) :
    (modReeve s f).side = s.side := rfl
@[simp] theorem modReeve_jtag (s : State) (f : Reeve → Reeve) :
    (modReeve s f).jtag = s.jtag := rfl
@[simp] theorem modReeve_out (s : State) (f : Reeve → Reeve) :
    (modReeve s f).out = s.out := rfl

/-! ## modPage -/

@[simp] theorem modPage_pending (s : State) (n : Nat) (f : Page → Page) :
    (modPage s n f).pending = s.pending := rfl
@[simp] theorem modPage_fresh (s : State) (n : Nat) (f : Page → Page) :
    (modPage s n f).fresh = s.fresh := rfl
@[simp] theorem modPage_clk (s : State) (n : Nat) (f : Page → Page) :
    (modPage s n f).clk = s.clk := rfl
@[simp] theorem modPage_pins (s : State) (n : Nat) (f : Page → Page) :
    (modPage s n f).pins = s.pins := rfl
@[simp] theorem modPage_tiles (s : State) (n : Nat) (f : Page → Page) :
    (modPage s n f).tiles = s.tiles := rfl
@[simp] theorem modPage_rows (s : State) (n : Nat) (f : Page → Page) :
    (modPage s n f).rows = s.rows := rfl
@[simp] theorem modPage_parts (s : State) (n : Nat) (f : Page → Page) :
    (modPage s n f).parts = s.parts := rfl
@[simp] theorem modPage_mems (s : State) (n : Nat) (f : Page → Page) :
    (modPage s n f).mems = s.mems := rfl
@[simp] theorem modPage_ports (s : State) (n : Nat) (f : Page → Page) :
    (modPage s n f).ports = s.ports := rfl
@[simp] theorem modPage_dram (s : State) (n : Nat) (f : Page → Page) :
    (modPage s n f).dram = s.dram := rfl
@[simp] theorem modPage_bolts (s : State) (n : Nat) (f : Page → Page) :
    (modPage s n f).bolts = s.bolts := rfl
@[simp] theorem modPage_link (s : State) (n : Nat) (f : Page → Page) :
    (modPage s n f).link = s.link := rfl
@[simp] theorem modPage_power (s : State) (n : Nat) (f : Page → Page) :
    (modPage s n f).power = s.power := rfl
@[simp] theorem modPage_start (s : State) (n : Nat) (f : Page → Page) :
    (modPage s n f).start = s.start := rfl
@[simp] theorem modPage_hst (s : State) (n : Nat) (f : Page → Page) :
    (modPage s n f).hst = s.hst := rfl
@[simp] theorem modPage_side (s : State) (n : Nat) (f : Page → Page) :
    (modPage s n f).side = s.side := rfl
@[simp] theorem modPage_jtag (s : State) (n : Nat) (f : Page → Page) :
    (modPage s n f).jtag = s.jtag := rfl
@[simp] theorem modPage_out (s : State) (n : Nat) (f : Page → Page) :
    (modPage s n f).out = s.out := rfl

/-! ## sendEvent -/

@[simp] theorem sendEvent_pending (s : State) (e : Event) :
    (sendEvent s e).pending = s.pending := rfl
@[simp] theorem sendEvent_fresh (s : State) (e : Event) :
    (sendEvent s e).fresh = s.fresh := rfl
@[simp] theorem sendEvent_clk (s : State) (e : Event) :
    (sendEvent s e).clk = s.clk := rfl
@[simp] theorem sendEvent_pins (s : State) (e : Event) :
    (sendEvent s e).pins = s.pins := rfl
@[simp] theorem sendEvent_tiles (s : State) (e : Event) :
    (sendEvent s e).tiles = s.tiles := rfl
@[simp] theorem sendEvent_rows (s : State) (e : Event) :
    (sendEvent s e).rows = s.rows := rfl
@[simp] theorem sendEvent_parts (s : State) (e : Event) :
    (sendEvent s e).parts = s.parts := rfl
@[simp] theorem sendEvent_mems (s : State) (e : Event) :
    (sendEvent s e).mems = s.mems := rfl
@[simp] theorem sendEvent_ports (s : State) (e : Event) :
    (sendEvent s e).ports = s.ports := rfl
@[simp] theorem sendEvent_dram (s : State) (e : Event) :
    (sendEvent s e).dram = s.dram := rfl
@[simp] theorem sendEvent_bolts (s : State) (e : Event) :
    (sendEvent s e).bolts = s.bolts := rfl
@[simp] theorem sendEvent_link (s : State) (e : Event) :
    (sendEvent s e).link = s.link := rfl
@[simp] theorem sendEvent_power (s : State) (e : Event) :
    (sendEvent s e).power = s.power := rfl
@[simp] theorem sendEvent_start (s : State) (e : Event) :
    (sendEvent s e).start = s.start := rfl
@[simp] theorem sendEvent_hst (s : State) (e : Event) :
    (sendEvent s e).hst = s.hst := rfl
@[simp] theorem sendEvent_side (s : State) (e : Event) :
    (sendEvent s e).side = s.side := rfl
@[simp] theorem sendEvent_jtag (s : State) (e : Event) :
    (sendEvent s e).jtag = s.jtag := rfl
@[simp] theorem sendEvent_out (s : State) (e : Event) :
    (sendEvent s e).out = s.out := rfl

/-! ## vecDue -/

@[simp] theorem vecDue_pending (s : State) (v : Nat) :
    (vecDue s v).pending = s.pending := rfl
@[simp] theorem vecDue_fresh (s : State) (v : Nat) :
    (vecDue s v).fresh = s.fresh := rfl
@[simp] theorem vecDue_clk (s : State) (v : Nat) :
    (vecDue s v).clk = s.clk := rfl
@[simp] theorem vecDue_pins (s : State) (v : Nat) :
    (vecDue s v).pins = s.pins := rfl
@[simp] theorem vecDue_tiles (s : State) (v : Nat) :
    (vecDue s v).tiles = s.tiles := rfl
@[simp] theorem vecDue_rows (s : State) (v : Nat) :
    (vecDue s v).rows = s.rows := rfl
@[simp] theorem vecDue_parts (s : State) (v : Nat) :
    (vecDue s v).parts = s.parts := rfl
@[simp] theorem vecDue_mems (s : State) (v : Nat) :
    (vecDue s v).mems = s.mems := rfl
@[simp] theorem vecDue_ports (s : State) (v : Nat) :
    (vecDue s v).ports = s.ports := rfl
@[simp] theorem vecDue_dram (s : State) (v : Nat) :
    (vecDue s v).dram = s.dram := rfl
@[simp] theorem vecDue_bolts (s : State) (v : Nat) :
    (vecDue s v).bolts = s.bolts := rfl
@[simp] theorem vecDue_link (s : State) (v : Nat) :
    (vecDue s v).link = s.link := rfl
@[simp] theorem vecDue_power (s : State) (v : Nat) :
    (vecDue s v).power = s.power := rfl
@[simp] theorem vecDue_start (s : State) (v : Nat) :
    (vecDue s v).start = s.start := rfl
@[simp] theorem vecDue_reeve (s : State) (v : Nat) :
    (vecDue s v).reeve = s.reeve := rfl
@[simp] theorem vecDue_side (s : State) (v : Nat) :
    (vecDue s v).side = s.side := rfl
@[simp] theorem vecDue_jtag (s : State) (v : Nat) :
    (vecDue s v).jtag = s.jtag := rfl
@[simp] theorem vecDue_out (s : State) (v : Nat) :
    (vecDue s v).out = s.out := rfl

/-! ## modAsm -/

@[simp] theorem modAsm_pending (s : State) (f : List Asm → List Asm) :
    (modAsm s f).pending = s.pending := rfl
@[simp] theorem modAsm_fresh (s : State) (f : List Asm → List Asm) :
    (modAsm s f).fresh = s.fresh := rfl
@[simp] theorem modAsm_clk (s : State) (f : List Asm → List Asm) :
    (modAsm s f).clk = s.clk := rfl
@[simp] theorem modAsm_pins (s : State) (f : List Asm → List Asm) :
    (modAsm s f).pins = s.pins := rfl
@[simp] theorem modAsm_tiles (s : State) (f : List Asm → List Asm) :
    (modAsm s f).tiles = s.tiles := rfl
@[simp] theorem modAsm_rows (s : State) (f : List Asm → List Asm) :
    (modAsm s f).rows = s.rows := rfl
@[simp] theorem modAsm_parts (s : State) (f : List Asm → List Asm) :
    (modAsm s f).parts = s.parts := rfl
@[simp] theorem modAsm_mems (s : State) (f : List Asm → List Asm) :
    (modAsm s f).mems = s.mems := rfl
@[simp] theorem modAsm_ports (s : State) (f : List Asm → List Asm) :
    (modAsm s f).ports = s.ports := rfl
@[simp] theorem modAsm_dram (s : State) (f : List Asm → List Asm) :
    (modAsm s f).dram = s.dram := rfl
@[simp] theorem modAsm_bolts (s : State) (f : List Asm → List Asm) :
    (modAsm s f).bolts = s.bolts := rfl
@[simp] theorem modAsm_link (s : State) (f : List Asm → List Asm) :
    (modAsm s f).link = s.link := rfl
@[simp] theorem modAsm_power (s : State) (f : List Asm → List Asm) :
    (modAsm s f).power = s.power := rfl
@[simp] theorem modAsm_start (s : State) (f : List Asm → List Asm) :
    (modAsm s f).start = s.start := rfl
@[simp] theorem modAsm_reeve (s : State) (f : List Asm → List Asm) :
    (modAsm s f).reeve = s.reeve := rfl
@[simp] theorem modAsm_side (s : State) (f : List Asm → List Asm) :
    (modAsm s f).side = s.side := rfl
@[simp] theorem modAsm_jtag (s : State) (f : List Asm → List Asm) :
    (modAsm s f).jtag = s.jtag := rfl
@[simp] theorem modAsm_out (s : State) (f : List Asm → List Asm) :
    (modAsm s f).out = s.out := rfl

/-! ## modJtag -/

@[simp] theorem modJtag_pending (s : State) (f : Jtag → Jtag) :
    (modJtag s f).pending = s.pending := rfl
@[simp] theorem modJtag_fresh (s : State) (f : Jtag → Jtag) :
    (modJtag s f).fresh = s.fresh := rfl
@[simp] theorem modJtag_clk (s : State) (f : Jtag → Jtag) :
    (modJtag s f).clk = s.clk := rfl
@[simp] theorem modJtag_pins (s : State) (f : Jtag → Jtag) :
    (modJtag s f).pins = s.pins := rfl
@[simp] theorem modJtag_tiles (s : State) (f : Jtag → Jtag) :
    (modJtag s f).tiles = s.tiles := rfl
@[simp] theorem modJtag_rows (s : State) (f : Jtag → Jtag) :
    (modJtag s f).rows = s.rows := rfl
@[simp] theorem modJtag_parts (s : State) (f : Jtag → Jtag) :
    (modJtag s f).parts = s.parts := rfl
@[simp] theorem modJtag_mems (s : State) (f : Jtag → Jtag) :
    (modJtag s f).mems = s.mems := rfl
@[simp] theorem modJtag_ports (s : State) (f : Jtag → Jtag) :
    (modJtag s f).ports = s.ports := rfl
@[simp] theorem modJtag_dram (s : State) (f : Jtag → Jtag) :
    (modJtag s f).dram = s.dram := rfl
@[simp] theorem modJtag_bolts (s : State) (f : Jtag → Jtag) :
    (modJtag s f).bolts = s.bolts := rfl
@[simp] theorem modJtag_link (s : State) (f : Jtag → Jtag) :
    (modJtag s f).link = s.link := rfl
@[simp] theorem modJtag_power (s : State) (f : Jtag → Jtag) :
    (modJtag s f).power = s.power := rfl
@[simp] theorem modJtag_start (s : State) (f : Jtag → Jtag) :
    (modJtag s f).start = s.start := rfl
@[simp] theorem modJtag_reeve (s : State) (f : Jtag → Jtag) :
    (modJtag s f).reeve = s.reeve := rfl
@[simp] theorem modJtag_hst (s : State) (f : Jtag → Jtag) :
    (modJtag s f).hst = s.hst := rfl
@[simp] theorem modJtag_side (s : State) (f : Jtag → Jtag) :
    (modJtag s f).side = s.side := rfl
@[simp] theorem modJtag_out (s : State) (f : Jtag → Jtag) :
    (modJtag s f).out = s.out := rfl

/-! ## putOut -/

@[simp] theorem putOut_pending (s : State) (kind addr : Nat) (data : List Byte) :
    (putOut s kind addr data).pending = s.pending := rfl
@[simp] theorem putOut_fresh (s : State) (kind addr : Nat) (data : List Byte) :
    (putOut s kind addr data).fresh = s.fresh := rfl
@[simp] theorem putOut_clk (s : State) (kind addr : Nat) (data : List Byte) :
    (putOut s kind addr data).clk = s.clk := rfl
@[simp] theorem putOut_pins (s : State) (kind addr : Nat) (data : List Byte) :
    (putOut s kind addr data).pins = s.pins := rfl
@[simp] theorem putOut_tiles (s : State) (kind addr : Nat) (data : List Byte) :
    (putOut s kind addr data).tiles = s.tiles := rfl
@[simp] theorem putOut_rows (s : State) (kind addr : Nat) (data : List Byte) :
    (putOut s kind addr data).rows = s.rows := rfl
@[simp] theorem putOut_parts (s : State) (kind addr : Nat) (data : List Byte) :
    (putOut s kind addr data).parts = s.parts := rfl
@[simp] theorem putOut_mems (s : State) (kind addr : Nat) (data : List Byte) :
    (putOut s kind addr data).mems = s.mems := rfl
@[simp] theorem putOut_ports (s : State) (kind addr : Nat) (data : List Byte) :
    (putOut s kind addr data).ports = s.ports := rfl
@[simp] theorem putOut_dram (s : State) (kind addr : Nat) (data : List Byte) :
    (putOut s kind addr data).dram = s.dram := rfl
@[simp] theorem putOut_bolts (s : State) (kind addr : Nat) (data : List Byte) :
    (putOut s kind addr data).bolts = s.bolts := rfl
@[simp] theorem putOut_link (s : State) (kind addr : Nat) (data : List Byte) :
    (putOut s kind addr data).link = s.link := rfl
@[simp] theorem putOut_power (s : State) (kind addr : Nat) (data : List Byte) :
    (putOut s kind addr data).power = s.power := rfl
@[simp] theorem putOut_start (s : State) (kind addr : Nat) (data : List Byte) :
    (putOut s kind addr data).start = s.start := rfl
@[simp] theorem putOut_reeve (s : State) (kind addr : Nat) (data : List Byte) :
    (putOut s kind addr data).reeve = s.reeve := rfl
@[simp] theorem putOut_hst (s : State) (kind addr : Nat) (data : List Byte) :
    (putOut s kind addr data).hst = s.hst := rfl
@[simp] theorem putOut_side (s : State) (kind addr : Nat) (data : List Byte) :
    (putOut s kind addr data).side = s.side := rfl
@[simp] theorem putOut_jtag (s : State) (kind addr : Nat) (data : List Byte) :
    (putOut s kind addr data).jtag = s.jtag := rfl

/-! ## persist -/

@[simp] theorem persist_pending (s : State) (k v : Nat) :
    (persist s k v).pending = s.pending := rfl
@[simp] theorem persist_fresh (s : State) (k v : Nat) :
    (persist s k v).fresh = s.fresh := rfl
@[simp] theorem persist_clk (s : State) (k v : Nat) :
    (persist s k v).clk = s.clk := rfl
@[simp] theorem persist_pins (s : State) (k v : Nat) :
    (persist s k v).pins = s.pins := rfl
@[simp] theorem persist_tiles (s : State) (k v : Nat) :
    (persist s k v).tiles = s.tiles := rfl
@[simp] theorem persist_rows (s : State) (k v : Nat) :
    (persist s k v).rows = s.rows := rfl
@[simp] theorem persist_parts (s : State) (k v : Nat) :
    (persist s k v).parts = s.parts := rfl
@[simp] theorem persist_mems (s : State) (k v : Nat) :
    (persist s k v).mems = s.mems := rfl
@[simp] theorem persist_ports (s : State) (k v : Nat) :
    (persist s k v).ports = s.ports := rfl
@[simp] theorem persist_dram (s : State) (k v : Nat) :
    (persist s k v).dram = s.dram := rfl
@[simp] theorem persist_bolts (s : State) (k v : Nat) :
    (persist s k v).bolts = s.bolts := rfl
@[simp] theorem persist_link (s : State) (k v : Nat) :
    (persist s k v).link = s.link := rfl
@[simp] theorem persist_power (s : State) (k v : Nat) :
    (persist s k v).power = s.power := rfl
@[simp] theorem persist_reeve (s : State) (k v : Nat) :
    (persist s k v).reeve = s.reeve := rfl
@[simp] theorem persist_hst (s : State) (k v : Nat) :
    (persist s k v).hst = s.hst := rfl
@[simp] theorem persist_side (s : State) (k v : Nat) :
    (persist s k v).side = s.side := rfl
@[simp] theorem persist_jtag (s : State) (k v : Nat) :
    (persist s k v).jtag = s.jtag := rfl
@[simp] theorem persist_out (s : State) (k v : Nat) :
    (persist s k v).out = s.out := rfl

end Sys2Proof.Machine
end

