-- ==== Sys2Proof/Laws/Kv.lean ====
section
/-! SUPPORT. The laws of the sparse maps and of byte memories: what a read gives after a write, and that every write keeps
the canonical form. -/

namespace Sys2Proof.Machine

variable {α : Type}

/-! ## Reads after writes -/

theorem kvGet_kvIns_same (d : α) (m : Kv α) (k : Nat) (v : α) : kvGet d (kvIns m k v) k = v := by
  induction m with
  | nil => simp [kvIns, kvGet]
  | cons e t ih =>
    obtain ⟨j, u⟩ := e
    unfold kvIns
    split
    · simp [kvGet]
    · split
      · simp [kvGet]
      · simp [kvGet, *]

theorem kvGet_kvIns_other (d : α) (m : Kv α) (k j : Nat) (v : α) (h : j ≠ k) :
    kvGet d (kvIns m k v) j = kvGet d m j := by
  induction m with
  | nil => simp [kvIns, kvGet, h]
  | cons e t ih =>
    obtain ⟨i, u⟩ := e
    unfold kvIns
    split
    · simp [kvGet, h]
    · split
      · rename_i hk
        subst hk
        simp [kvGet, h]
      · simp only [kvGet, ih]

theorem kvGet_kvDel_other (d : α) (m : Kv α) (k j : Nat) (h : j ≠ k) : kvGet d (kvDel m k) j = kvGet d m j := by
  induction m with
  | nil => rfl
  | cons e t ih =>
    obtain ⟨i, u⟩ := e
    unfold kvDel
    split
    · rename_i hk
      subst hk
      simp [kvGet, h, ih]
    · simp only [kvGet, ih]

theorem kvGet_kvDel_same (d : α) (m : Kv α) (k : Nat) : kvGet d (kvDel m k) k = d := by
  induction m with
  | nil => rfl
  | cons e t ih =>
    obtain ⟨i, u⟩ := e
    unfold kvDel
    split
    · exact ih
    · rename_i hk
      simp [kvGet, hk, ih]

/-- A read after a write of the same key gives the value written. -/
@[simp] theorem kvGet_kvSet_same [DecidableEq α] (d : α) (m : Kv α) (k : Nat) (v : α) : kvGet d (kvSet d m k v) k = v := by
  unfold kvSet
  split
  · rename_i h
    rw [kvGet_kvDel_same, h]
  · exact kvGet_kvIns_same d m k v

/-- A write leaves every other key alone. -/
theorem kvGet_kvSet_other [DecidableEq α] (d : α) (m : Kv α) (k j : Nat) (v : α) (h : j ≠ k) :
    kvGet d (kvSet d m k v) j = kvGet d m j := by
  unfold kvSet
  split
  · exact kvGet_kvDel_other d m k j h
  · exact kvGet_kvIns_other d m k j v h

/-- A read after a write, in one equation. -/
theorem kvGet_kvSet [DecidableEq α] (d : α) (m : Kv α) (k j : Nat) (v : α) :
    kvGet d (kvSet d m k v) j = if j = k then v else kvGet d m j := by
  split
  · rename_i h
    rw [h, kvGet_kvSet_same]
  · rename_i h
    exact kvGet_kvSet_other d m k j v h

@[simp] theorem kvGet_kvMod_same [DecidableEq α] (d : α) (m : Kv α) (k : Nat) (f : α → α) :
    kvGet d (kvMod d m k f) k = f (kvGet d m k) := by simp [kvMod]

theorem kvGet_kvMod_other [DecidableEq α] (d : α) (m : Kv α) (k j : Nat) (f : α → α) (h : j ≠ k) :
    kvGet d (kvMod d m k f) j = kvGet d m j := kvGet_kvSet_other d m k j _ h

/-! ## The canonical form -/

theorem kvWfFrom_mono [DecidableEq α] (d : α) (m : Kv α) (b c : Nat) (h : c ≤ b) (w : kvWfFrom d b m = true) :
    kvWfFrom d c m = true := by
  cases m with
  | nil => rfl
  | cons e t =>
    simp only [kvWfFrom, Bool.and_eq_true, decide_eq_true_eq] at w ⊢
    exact ⟨⟨by omega, w.1.2⟩, w.2⟩

theorem kvWfFrom_del [DecidableEq α] (d : α) (m : Kv α) (b k : Nat) (w : kvWfFrom d b m = true) :
    kvWfFrom d b (kvDel m k) = true := by
  induction m generalizing b with
  | nil => rfl
  | cons e t ih =>
    obtain ⟨j, u⟩ := e
    simp only [kvWfFrom, Bool.and_eq_true, decide_eq_true_eq] at w
    unfold kvDel
    split
    · exact ih b (kvWfFrom_mono d t (j + 1) b (by omega) w.2)
    · simp only [kvWfFrom, Bool.and_eq_true, decide_eq_true_eq]
      exact ⟨w.1, ih (j + 1) w.2⟩

theorem kvWfFrom_ins [DecidableEq α] (d : α) (m : Kv α) (b k : Nat) (v : α) (hb : b ≤ k) (hv : v ≠ d)
    (w : kvWfFrom d b m = true) : kvWfFrom d b (kvIns m k v) = true := by
  induction m generalizing b with
  | nil => simp [kvIns, kvWfFrom, hb, hv]
  | cons e t ih =>
    obtain ⟨j, u⟩ := e
    simp only [kvWfFrom, Bool.and_eq_true, decide_eq_true_eq] at w
    unfold kvIns
    split
    · rename_i h
      simp only [kvWfFrom, Bool.and_eq_true, decide_eq_true_eq]
      exact ⟨⟨hb, hv⟩, ⟨⟨by omega, w.1.2⟩, w.2⟩⟩
    · split
      · rename_i h
        subst h
        simp only [kvWfFrom, Bool.and_eq_true, decide_eq_true_eq]
        exact ⟨⟨hb, hv⟩, w.2⟩
      · simp only [kvWfFrom, Bool.and_eq_true, decide_eq_true_eq]
        exact ⟨w.1, ih (j + 1) (by omega) w.2⟩

/-- Every write keeps the canonical form. -/
theorem kvSet_wf [DecidableEq α] (d : α) (m : Kv α) (k : Nat) (v : α) (w : kvWf d m = true) :
    kvWf d (kvSet d m k v) = true := by
  unfold kvSet kvWf at *
  split
  · exact kvWfFrom_del d m 0 k w
  · rename_i h
    exact kvWfFrom_ins d m 0 k v (by omega) h w

/-! ## Byte memories -/

/-- Writing bytes keeps the canonical form. -/
theorem memWrite_wf (m : Mem) (a : Nat) (bs : List Byte) (w : memWf m = true) : memWf (memWrite m a bs) = true := by
  induction bs generalizing m a with
  | nil => exact w
  | cons b t ih => exact ih _ _ (kvSet_wf 0 m a b w)

/-- A byte outside the written range reads as before. -/
theorem memByte_memWrite_outside (m : Mem) (a j : Nat) (bs : List Byte) (h : j < a ∨ a + bs.length ≤ j) :
    memByte (memWrite m a bs) j = memByte m j := by
  induction bs generalizing m a with
  | nil => rfl
  | cons b t ih =>
    simp only [List.length_cons] at h
    rw [memWrite, ih (kvSet 0 m a b) (a + 1) (by omega)]
    exact kvGet_kvSet_other 0 m a j b (by omega)

/-- A byte of the written range reads as written. -/
theorem memByte_memWrite_inside (m : Mem) (a i : Nat) (bs : List Byte) (h : i < bs.length) :
    memByte (memWrite m a bs) (a + i) = bs[i] := by
  induction bs generalizing m a i with
  | nil => simp at h
  | cons b t ih =>
    cases i with
    | zero =>
      rw [memWrite, memByte_memWrite_outside _ _ _ _ (by omega)]
      exact kvGet_kvSet_same 0 m a b
    | succ i =>
      rw [memWrite, show a + (i + 1) = (a + 1) + i by omega]
      simpa using ih (kvSet 0 m a b) (a + 1) i (by simpa using h)

@[simp] theorem memRead_length (m : Mem) (a n : Nat) : (memRead m a n).length = n := by
  induction n generalizing a with
  | zero => rfl
  | succ n ih => simp [memRead, ih]

/-- Bytes written read back. -/
theorem memRead_memWrite (m : Mem) (a : Nat) (bs : List Byte) : memRead (memWrite m a bs) a bs.length = bs := by
  induction bs generalizing m a with
  | nil => rfl
  | cons b t ih =>
    have hb := memByte_memWrite_outside (kvSet 0 m a b) (a + 1) a t (by omega)
    simp only [memWrite, List.length_cons, memRead, ih]
    rw [hb]
    exact congrArg (· :: t) (kvGet_kvSet_same 0 m a b)

/-! ## Byte lists -/

@[simp] theorem slice_length (bs : List Byte) (off n : Nat) : (slice bs off n).length = n := by
  simp [slice]

@[simp] theorem toLe_length (n v : Nat) : (toLe n v).length = n := by
  induction n generalizing v with
  | zero => rfl
  | succ n ih => simp [toLe, ih]

/-- A number written little-endian reads back, modulo its width (R9). -/
theorem leNat_toLe (n v : Nat) : leNat (toLe n v) = v % 256 ^ n := by
  induction n generalizing v with
  | zero => simp [toLe, leNat, Nat.mod_one]
  | succ n ih =>
    have h : v % 256 + 256 * (v / 256 % 256 ^ n) = v % 256 ^ (n + 1) := by
      rw [Nat.pow_succ, Nat.mul_comm (256 ^ n) 256, Nat.mod_mul]
    simpa [toLe, leNat, ih, BitVec.toNat_ofNat] using h

end Sys2Proof.Machine
end

