-- ==== Sys2Proof/Laws/Units.lean ====
section
/-! SUPPORT. Reading a unit after it, or another one, is changed. -/

namespace Sys2Proof.Machine

/-! ## A tile -/

@[simp] theorem getTile_modTile_same (s : State) (p : Nat) (f : Tile → Tile) : getTile (modTile s p f) p = f (getTile s p) :=
  kvGet_kvSet_same _ _ _ _
theorem getTile_modTile_other (s : State) (p q : Nat) (f : Tile → Tile) (h : q ≠ p) : getTile (modTile s p f) q = getTile s q :=
  kvGet_kvSet_other _ _ _ _ _ h
@[simp] theorem getTile_modRow (s : State) (p q : Nat) (f : Row → Row) : getTile (modRow s p f) q = getTile s q := rfl
@[simp] theorem getTile_modPart (s : State) (p q : Nat) (f : Part → Part) : getTile (modPart s p f) q = getTile s q := rfl
@[simp] theorem getTile_modStack (s : State) (p q : Nat) (f : Stack → Stack) : getTile (modStack s p f) q = getTile s q := rfl
@[simp] theorem getTile_modPort (s : State) (p q : Nat) (f : Port → Port) : getTile (modPort s p f) q = getTile s q := rfl
@[simp] theorem getTile_modClk (s : State) (q : Nat) (f : Clk → Clk) : getTile (modClk s f) q = getTile s q := rfl
@[simp] theorem getTile_modLink (s : State) (q : Nat) (f : Link → Link) : getTile (modLink s f) q = getTile s q := rfl
@[simp] theorem getTile_setDom (s : State) (q : Nat) (d : Nat) (v : DomSt) : getTile (setDom s d v) q = getTile s q := rfl
@[simp] theorem getTile_modReeve (s : State) (q : Nat) (f : Reeve → Reeve) : getTile (modReeve s f) q = getTile s q := rfl
@[simp] theorem getTile_modPage (s : State) (q : Nat) (n : Nat) (f : Page → Page) : getTile (modPage s n f) q = getTile s q := rfl
@[simp] theorem getTile_sendEvent (s : State) (q : Nat) (e : Event) : getTile (sendEvent s e) q = getTile s q := rfl
@[simp] theorem getTile_vecDue (s : State) (q : Nat) (v : Nat) : getTile (vecDue s v) q = getTile s q := rfl
@[simp] theorem getTile_putOut (s : State) (q : Nat) (kind addr : Nat) (data : List Byte) : getTile (putOut s kind addr data) q = getTile s q := rfl
@[simp] theorem getTile_persist (s : State) (q : Nat) (k v : Nat) : getTile (persist s k v) q = getTile s q := rfl

/-! ## A row -/

@[simp] theorem getRow_modRow_same (s : State) (p : Nat) (f : Row → Row) : getRow (modRow s p f) p = f (getRow s p) :=
  kvGet_kvSet_same _ _ _ _
theorem getRow_modRow_other (s : State) (p q : Nat) (f : Row → Row) (h : q ≠ p) : getRow (modRow s p f) q = getRow s q :=
  kvGet_kvSet_other _ _ _ _ _ h
@[simp] theorem getRow_modTile (s : State) (p q : Nat) (f : Tile → Tile) : getRow (modTile s p f) q = getRow s q := rfl
@[simp] theorem getRow_modPart (s : State) (p q : Nat) (f : Part → Part) : getRow (modPart s p f) q = getRow s q := rfl
@[simp] theorem getRow_modStack (s : State) (p q : Nat) (f : Stack → Stack) : getRow (modStack s p f) q = getRow s q := rfl
@[simp] theorem getRow_modPort (s : State) (p q : Nat) (f : Port → Port) : getRow (modPort s p f) q = getRow s q := rfl
@[simp] theorem getRow_modClk (s : State) (q : Nat) (f : Clk → Clk) : getRow (modClk s f) q = getRow s q := rfl
@[simp] theorem getRow_modLink (s : State) (q : Nat) (f : Link → Link) : getRow (modLink s f) q = getRow s q := rfl
@[simp] theorem getRow_setDom (s : State) (q : Nat) (d : Nat) (v : DomSt) : getRow (setDom s d v) q = getRow s q := rfl
@[simp] theorem getRow_modReeve (s : State) (q : Nat) (f : Reeve → Reeve) : getRow (modReeve s f) q = getRow s q := rfl
@[simp] theorem getRow_modPage (s : State) (q : Nat) (n : Nat) (f : Page → Page) : getRow (modPage s n f) q = getRow s q := rfl
@[simp] theorem getRow_sendEvent (s : State) (q : Nat) (e : Event) : getRow (sendEvent s e) q = getRow s q := rfl
@[simp] theorem getRow_vecDue (s : State) (q : Nat) (v : Nat) : getRow (vecDue s v) q = getRow s q := rfl
@[simp] theorem getRow_putOut (s : State) (q : Nat) (kind addr : Nat) (data : List Byte) : getRow (putOut s kind addr data) q = getRow s q := rfl
@[simp] theorem getRow_persist (s : State) (q : Nat) (k v : Nat) : getRow (persist s k v) q = getRow s q := rfl

/-! ## A part -/

@[simp] theorem getPart_modPart_same (s : State) (p : Nat) (f : Part → Part) : getPart (modPart s p f) p = f (getPart s p) :=
  kvGet_kvSet_same _ _ _ _
theorem getPart_modPart_other (s : State) (p q : Nat) (f : Part → Part) (h : q ≠ p) : getPart (modPart s p f) q = getPart s q :=
  kvGet_kvSet_other _ _ _ _ _ h
@[simp] theorem getPart_modTile (s : State) (p q : Nat) (f : Tile → Tile) : getPart (modTile s p f) q = getPart s q := rfl
@[simp] theorem getPart_modRow (s : State) (p q : Nat) (f : Row → Row) : getPart (modRow s p f) q = getPart s q := rfl
@[simp] theorem getPart_modStack (s : State) (p q : Nat) (f : Stack → Stack) : getPart (modStack s p f) q = getPart s q := rfl
@[simp] theorem getPart_modPort (s : State) (p q : Nat) (f : Port → Port) : getPart (modPort s p f) q = getPart s q := rfl
@[simp] theorem getPart_modClk (s : State) (q : Nat) (f : Clk → Clk) : getPart (modClk s f) q = getPart s q := rfl
@[simp] theorem getPart_modLink (s : State) (q : Nat) (f : Link → Link) : getPart (modLink s f) q = getPart s q := rfl
@[simp] theorem getPart_setDom (s : State) (q : Nat) (d : Nat) (v : DomSt) : getPart (setDom s d v) q = getPart s q := rfl
@[simp] theorem getPart_modReeve (s : State) (q : Nat) (f : Reeve → Reeve) : getPart (modReeve s f) q = getPart s q := rfl
@[simp] theorem getPart_modPage (s : State) (q : Nat) (n : Nat) (f : Page → Page) : getPart (modPage s n f) q = getPart s q := rfl
@[simp] theorem getPart_sendEvent (s : State) (q : Nat) (e : Event) : getPart (sendEvent s e) q = getPart s q := rfl
@[simp] theorem getPart_vecDue (s : State) (q : Nat) (v : Nat) : getPart (vecDue s v) q = getPart s q := rfl
@[simp] theorem getPart_putOut (s : State) (q : Nat) (kind addr : Nat) (data : List Byte) : getPart (putOut s kind addr data) q = getPart s q := rfl
@[simp] theorem getPart_persist (s : State) (q : Nat) (k v : Nat) : getPart (persist s k v) q = getPart s q := rfl

/-! ## A stack -/

@[simp] theorem getStack_modStack_same (s : State) (p : Nat) (f : Stack → Stack) : getStack (modStack s p f) p = f (getStack s p) :=
  kvGet_kvSet_same _ _ _ _
theorem getStack_modStack_other (s : State) (p q : Nat) (f : Stack → Stack) (h : q ≠ p) : getStack (modStack s p f) q = getStack s q :=
  kvGet_kvSet_other _ _ _ _ _ h
@[simp] theorem getStack_modTile (s : State) (p q : Nat) (f : Tile → Tile) : getStack (modTile s p f) q = getStack s q := rfl
@[simp] theorem getStack_modRow (s : State) (p q : Nat) (f : Row → Row) : getStack (modRow s p f) q = getStack s q := rfl
@[simp] theorem getStack_modPart (s : State) (p q : Nat) (f : Part → Part) : getStack (modPart s p f) q = getStack s q := rfl
@[simp] theorem getStack_modPort (s : State) (p q : Nat) (f : Port → Port) : getStack (modPort s p f) q = getStack s q := rfl
@[simp] theorem getStack_modClk (s : State) (q : Nat) (f : Clk → Clk) : getStack (modClk s f) q = getStack s q := rfl
@[simp] theorem getStack_modLink (s : State) (q : Nat) (f : Link → Link) : getStack (modLink s f) q = getStack s q := rfl
@[simp] theorem getStack_setDom (s : State) (q : Nat) (d : Nat) (v : DomSt) : getStack (setDom s d v) q = getStack s q := rfl
@[simp] theorem getStack_modReeve (s : State) (q : Nat) (f : Reeve → Reeve) : getStack (modReeve s f) q = getStack s q := rfl
@[simp] theorem getStack_modPage (s : State) (q : Nat) (n : Nat) (f : Page → Page) : getStack (modPage s n f) q = getStack s q := rfl
@[simp] theorem getStack_sendEvent (s : State) (q : Nat) (e : Event) : getStack (sendEvent s e) q = getStack s q := rfl
@[simp] theorem getStack_vecDue (s : State) (q : Nat) (v : Nat) : getStack (vecDue s v) q = getStack s q := rfl
@[simp] theorem getStack_putOut (s : State) (q : Nat) (kind addr : Nat) (data : List Byte) : getStack (putOut s kind addr data) q = getStack s q := rfl
@[simp] theorem getStack_persist (s : State) (q : Nat) (k v : Nat) : getStack (persist s k v) q = getStack s q := rfl

/-! ## A port -/

@[simp] theorem getPort_modPort_same (s : State) (p : Nat) (f : Port → Port) : getPort (modPort s p f) p = f (getPort s p) :=
  kvGet_kvSet_same _ _ _ _
theorem getPort_modPort_other (s : State) (p q : Nat) (f : Port → Port) (h : q ≠ p) : getPort (modPort s p f) q = getPort s q :=
  kvGet_kvSet_other _ _ _ _ _ h
@[simp] theorem getPort_modTile (s : State) (p q : Nat) (f : Tile → Tile) : getPort (modTile s p f) q = getPort s q := rfl
@[simp] theorem getPort_modRow (s : State) (p q : Nat) (f : Row → Row) : getPort (modRow s p f) q = getPort s q := rfl
@[simp] theorem getPort_modPart (s : State) (p q : Nat) (f : Part → Part) : getPort (modPart s p f) q = getPort s q := rfl
@[simp] theorem getPort_modStack (s : State) (p q : Nat) (f : Stack → Stack) : getPort (modStack s p f) q = getPort s q := rfl
@[simp] theorem getPort_modClk (s : State) (q : Nat) (f : Clk → Clk) : getPort (modClk s f) q = getPort s q := rfl
@[simp] theorem getPort_modLink (s : State) (q : Nat) (f : Link → Link) : getPort (modLink s f) q = getPort s q := rfl
@[simp] theorem getPort_setDom (s : State) (q : Nat) (d : Nat) (v : DomSt) : getPort (setDom s d v) q = getPort s q := rfl
@[simp] theorem getPort_modReeve (s : State) (q : Nat) (f : Reeve → Reeve) : getPort (modReeve s f) q = getPort s q := rfl
@[simp] theorem getPort_modPage (s : State) (q : Nat) (n : Nat) (f : Page → Page) : getPort (modPage s n f) q = getPort s q := rfl
@[simp] theorem getPort_sendEvent (s : State) (q : Nat) (e : Event) : getPort (sendEvent s e) q = getPort s q := rfl
@[simp] theorem getPort_vecDue (s : State) (q : Nat) (v : Nat) : getPort (vecDue s v) q = getPort s q := rfl
@[simp] theorem getPort_putOut (s : State) (q : Nat) (kind addr : Nat) (data : List Byte) : getPort (putOut s kind addr data) q = getPort s q := rfl
@[simp] theorem getPort_persist (s : State) (q : Nat) (k v : Nat) : getPort (persist s k v) q = getPort s q := rfl

/-! ## A mailbox page -/

@[simp] theorem getPage_modPage_same (s : State) (n : Nat) (f : Page → Page) : getPage (modPage s n f) n = f (getPage s n) :=
  kvGet_kvSet_same _ _ _ _
theorem getPage_modPage_other (s : State) (n j : Nat) (f : Page → Page) (h : j ≠ n) : getPage (modPage s n f) j = getPage s j :=
  kvGet_kvSet_other _ _ _ _ _ h
@[simp] theorem getPage_vecDue (s : State) (n v : Nat) : getPage (vecDue s v) n = getPage s n := rfl
@[simp] theorem getPage_putOut (s : State) (n kind addr : Nat) (data : List Byte) : getPage (putOut s kind addr data) n = getPage s n := rfl

/-! ## Power domains -/

/-- A domain set on is on; set to anything else it is not. -/
@[simp] theorem domOn_setDom_same (s : State) (d : Nat) (v : DomSt) : domOn (setDom s d v) d = (v == .on) := by
  simp [domOn, setDom]
theorem domOn_setDom_other (s : State) (d e : Nat) (v : DomSt) (h : e ≠ d) : domOn (setDom s d v) e = domOn s e := by
  simp [domOn, setDom, kvGet_kvSet_other _ _ _ _ _ h]

end Sys2Proof.Machine
end

