-- ==== Sys2Proof/Laws/BellCounts.lean ====
section
/-! SUPPORT. What a bell and its guard do to the bell's own counts: everything between leaves them as they stand. -/

set_option linter.unusedSimpArgs false
set_option linter.unusedVariables false
set_option linter.unreachableTactic false
set_option linter.unusedTactic false

namespace Sys2Proof.Machine

/-- The bell's own counts: bell, intvCc, cycles, guard, holding, localHold, expectDelay, expected. -/
def coreOf (c : Clk) : Nat × Nat × Nat × Bool × Bool × Nat × Nat × Bool :=
  (c.bell, c.intvCc, c.cycles, c.guard, c.holding, c.localHold, c.expectDelay, c.expected)

/-- The bell's own counts of a state. -/
def bellOf (s : State) : Nat × Nat × Nat × Bool × Bool × Nat × Nat × Bool := coreOf s.clk

theorem core_eq_bell (s : State) : coreOf s.clk = bellOf s := Eq.trans rfl rfl

/-- The counts of a clock whose other fields are written. -/
@[simp ↓] theorem coreOf_mk (c : Clk) (stamp : Nat) (periodUs : Nat) (holdUs : Nat) (step : Nat) (steps : Kv Nat) (notices : List Notice) (seqs : Kv Nat) (noticeSeq : Nat) (extCc : Nat) (rotation : Bool) (watch : List Wait) (holdSample holds : Nat) (overruns : List Nat) :
    coreOf ⟨c.bell, c.intvCc, c.cycles, stamp, periodUs, holdUs, c.guard, c.holding, c.localHold, c.expectDelay, c.expected, step, steps, notices, seqs, noticeSeq, extCc, rotation, watch, holdSample, holds, overruns⟩ = coreOf c := Eq.trans rfl rfl

@[simp ↓] theorem modClk_bell (s : State) (f : Clk → Clk) (h : coreOf (f s.clk) = bellOf s) :
    bellOf (modClk s f) = bellOf s := Eq.trans rfl h

/-- The counts of a record update. -/
@[simp ↓] theorem bellOf_mk (pending : List Instr) (fresh : Nat) (clk : Clk) (pins : Pins) (tiles : Kv Tile) (rows : Kv Row)
    (parts : Kv Part) (mems : Kv Stack) (ports : Kv Port) (dram : Mem) (bolts : Kv BoltMeta) (link : Link) (power : Power)
    (start : Start) (reeve : Reeve) (hst : Hst) (side : Side) (jtag : Jtag) (out : List Out) :
    bellOf ⟨pending, fresh, clk, pins, tiles, rows, parts, mems, ports, dram, bolts, link, power, start, reeve, hst, side,
      jtag, out⟩ = coreOf clk := Eq.trans rfl rfl

@[simp ↓] theorem bell_ite (c : Prop) [Decidable c] (a b : State) (q : Nat × Nat × Nat × Bool × Bool × Nat × Nat × Bool) (ha : bellOf a = q) (hb : bellOf b = q) :
    bellOf (if c then a else b) = q := by split <;> assumption

@[simp ↓] theorem bell_ite_fst {β : Type} (c : Prop) [Decidable c] (a b : State × β) (q : Nat × Nat × Nat × Bool × Bool × Nat × Nat × Bool) (ha : bellOf a.1 = q)
    (hb : bellOf b.1 = q) : bellOf (if c then a else b).1 = q := by split <;> assumption

@[simp ↓] theorem bell_ite_snd {β : Type} (c : Prop) [Decidable c] (a b : β × State) (q : Nat × Nat × Nat × Bool × Bool × Nat × Nat × Bool) (ha : bellOf a.2 = q)
    (hb : bellOf b.2 = q) : bellOf (if c then a else b).2 = q := by split <;> assumption

/-- A fold of operations that keep the counts keeps them. -/
theorem foldl_bell {β : Type} (g : State → β → State) (h : ∀ s b, bellOf (g s b) = bellOf s) (l : List β) (s : State) :
    bellOf (l.foldl g s) = bellOf s := by
  induction l generalizing s with
  | nil => rfl
  | cons b t ih => rw [List.foldl_cons, ih, h]

/-- The same for a fold that carries something beside the state. -/
theorem foldl_snd_bell {γ β : Type} (g : γ × State → β → γ × State) (h : ∀ x b, bellOf (g x b).2 = bellOf x.2)
    (l : List β) (x : γ × State) : bellOf (l.foldl g x).2 = bellOf x.2 := by
  induction l generalizing x with
  | nil => rfl
  | cons b t ih => rw [List.foldl_cons, ih, h]

/-- The same with the state first. -/
theorem foldl_fst_bell {γ β : Type} (g : State × γ → β → State × γ) (h : ∀ x b, bellOf (g x b).1 = bellOf x.1)
    (l : List β) (x : State × γ) : bellOf (l.foldl g x).1 = bellOf x.1 := by
  induction l generalizing x with
  | nil => rfl
  | cons b t ih => rw [List.foldl_cons, ih, h]

@[simp ↓] theorem setTile_bell (s : State) (p : Nat) (t : Tile) :
    bellOf (setTile s p t) = bellOf s := Eq.trans rfl rfl

@[simp ↓] theorem modTile_bell (s : State) (p : Nat) (f : Tile → Tile) :
    bellOf (modTile s p f) = bellOf s := Eq.trans rfl rfl

@[simp ↓] theorem modRow_bell (s : State) (r : Nat) (f : Row → Row) :
    bellOf (modRow s r f) = bellOf s := Eq.trans rfl rfl

@[simp ↓] theorem modPart_bell (s : State) (n : Nat) (f : Part → Part) :
    bellOf (modPart s n f) = bellOf s := Eq.trans rfl rfl

@[simp ↓] theorem modStack_bell (s : State) (k : Nat) (f : Stack → Stack) :
    bellOf (modStack s k f) = bellOf s := Eq.trans rfl rfl

@[simp ↓] theorem modPort_bell (s : State) (p : Nat) (f : Port → Port) :
    bellOf (modPort s p f) = bellOf s := Eq.trans rfl rfl

@[simp ↓] theorem setDom_bell (s : State) (d : Nat) (v : DomSt) :
    bellOf (setDom s d v) = bellOf s := Eq.trans rfl rfl

@[simp ↓] theorem failLots_bell (s : State) (n code bell cc : Nat) :
    (bellOf (failLots s n code bell cc)) = (bellOf s) := by
  unfold failLots
  repeat' first
    | with_reducible rfl
    | (simp +zetaDelta [foldl_bell, foldl_snd_bell, foldl_fst_bell, core_eq_bell]; done)
    | (with_reducible rw [foldl_bell])
    | (rw [core_eq_bell])
    | (simp only [])
    | (with_reducible refine bell_ite _ _ _ _ ?_ ?_)
    | (with_reducible refine bell_ite_fst _ _ _ _ ?_ ?_)
    | (with_reducible refine bell_ite_snd _ _ _ _ ?_ ?_)
    | (intro _ _)
    | (simp +zetaDelta)
    | split

@[simp ↓] theorem cutLots_bell (s : State) (n code bell cc : Nat) :
    (bellOf (cutLots s n code bell cc)) = (bellOf s) := by
  unfold cutLots
  repeat' first
    | with_reducible rfl
    | (simp +zetaDelta [foldl_bell, foldl_snd_bell, foldl_fst_bell, core_eq_bell]; done)
    | (with_reducible rw [foldl_bell])
    | (rw [core_eq_bell])
    | (simp only [])
    | (with_reducible refine bell_ite _ _ _ _ ?_ ?_)
    | (with_reducible refine bell_ite_fst _ _ _ _ ?_ ?_)
    | (with_reducible refine bell_ite_snd _ _ _ _ ?_ ?_)
    | (intro _ _)
    | (simp +zetaDelta)
    | split

@[simp ↓] theorem sendEvent_bell (s : State) (e : Event) :
    bellOf (sendEvent s e) = bellOf s := Eq.trans rfl rfl

@[simp ↓] theorem reviseEvent_bell (s : State) (e : Event) :
    (bellOf (reviseEvent s e)) = (bellOf s) := by
  unfold reviseEvent
  repeat' first
    | with_reducible rfl
    | (simp +zetaDelta [foldl_bell, foldl_snd_bell, foldl_fst_bell, core_eq_bell]; done)
    | (with_reducible rw [foldl_bell])
    | (rw [core_eq_bell])
    | (with_reducible exact hereFront_bell _ _ _ _ _ (by assumption))
    | (simp only [])
    | (with_reducible refine bell_ite _ _ _ _ ?_ ?_)
    | (with_reducible refine bell_ite_fst _ _ _ _ ?_ ?_)
    | (with_reducible refine bell_ite_snd _ _ _ _ ?_ ?_)
    | (intro _ _)
    | (simp +zetaDelta)
    | split

@[simp ↓] theorem applySigs_bell (s : State) (p : Nat) (l : List Sig) : (bellOf (applySigs s p l)) = (bellOf s) := by
  fun_induction applySigs s p l <;> first | rfl | (rename_i ih; exact ih) | (rename_i ih; exact ih.trans (by simp))

@[simp ↓] theorem applyCtx_bell (s : State) (c : Ctx) :
    (bellOf (applyCtx s c)) = (bellOf s) := by
  unfold applyCtx
  repeat' first
    | with_reducible rfl
    | (simp +zetaDelta [foldl_bell, foldl_snd_bell, foldl_fst_bell, core_eq_bell]; done)
    | (with_reducible rw [foldl_bell])
    | (rw [core_eq_bell])
    | (simp only [])
    | (with_reducible refine bell_ite _ _ _ _ ?_ ?_)
    | (with_reducible refine bell_ite_fst _ _ _ _ ?_ ?_)
    | (with_reducible refine bell_ite_snd _ _ _ _ ?_ ?_)
    | (intro _ _)
    | (simp +zetaDelta)
    | split

@[simp ↓] theorem failKey_bell (s : State) (key code : Nat) :
    (bellOf (failKey s key code)) = (bellOf s) := by
  unfold failKey
  repeat' first
    | with_reducible rfl
    | (simp +zetaDelta [foldl_bell, foldl_snd_bell, foldl_fst_bell, core_eq_bell]; done)
    | (with_reducible rw [foldl_bell])
    | (rw [core_eq_bell])
    | (simp only [])
    | (with_reducible refine bell_ite _ _ _ _ ?_ ?_)
    | (with_reducible refine bell_ite_fst _ _ _ _ ?_ ?_)
    | (with_reducible refine bell_ite_snd _ _ _ _ ?_ ?_)
    | (intro _ _)
    | (simp +zetaDelta)
    | split

@[simp ↓] theorem nextStamp_bell (s : State) : (bellOf ((nextStamp s).2)) = (bellOf s) := rfl

@[simp ↓] theorem modRouter_bell (s : State) (p : Nat) (f : Router → Router) :
    (bellOf (modRouter s p f)) = (bellOf s) := by
  unfold modRouter
  repeat' first
    | with_reducible rfl
    | (simp +zetaDelta [foldl_bell, foldl_snd_bell, foldl_fst_bell, core_eq_bell]; done)
    | (with_reducible rw [foldl_bell])
    | (rw [core_eq_bell])
    | (simp only [])
    | (with_reducible refine bell_ite _ _ _ _ ?_ ?_)
    | (with_reducible refine bell_ite_fst _ _ _ _ ?_ ?_)
    | (with_reducible refine bell_ite_snd _ _ _ _ ?_ ?_)
    | (intro _ _)
    | (simp +zetaDelta)
    | split

@[simp ↓] theorem keyDrop_bell (s : State) (p port : Nat) (k : Packet) :
    (bellOf (keyDrop s p port k)) = (bellOf s) := by
  unfold keyDrop
  repeat' first
    | with_reducible rfl
    | (simp +zetaDelta [foldl_bell, foldl_snd_bell, foldl_fst_bell, core_eq_bell]; done)
    | (with_reducible rw [foldl_bell])
    | (rw [core_eq_bell])
    | (simp only [])
    | (with_reducible refine bell_ite _ _ _ _ ?_ ?_)
    | (with_reducible refine bell_ite_fst _ _ _ _ ?_ ?_)
    | (with_reducible refine bell_ite_snd _ _ _ _ ?_ ?_)
    | (intro _ _)
    | (simp +zetaDelta)
    | split

@[simp ↓] theorem fillLocal_bell (s : State) (p : Nat) :
    (bellOf (fillLocal s p)) = (bellOf s) := by
  unfold fillLocal
  repeat' first
    | with_reducible rfl
    | (simp +zetaDelta [foldl_bell, foldl_snd_bell, foldl_fst_bell, core_eq_bell]; done)
    | (with_reducible rw [foldl_bell])
    | (rw [core_eq_bell])
    | (with_reducible exact hereFront_bell _ _ _ _ _ (by assumption))
    | (simp only [])
    | (with_reducible refine bell_ite _ _ _ _ ?_ ?_)
    | (with_reducible refine bell_ite_fst _ _ _ _ ?_ ?_)
    | (with_reducible refine bell_ite_snd _ _ _ _ ?_ ?_)
    | (intro _ _)
    | (simp +zetaDelta)
    | split

@[simp ↓] theorem modTrace_bell (s : State) (n : Nat) (f : Trace → Trace) :
    (bellOf (modTrace s n f)) = (bellOf s) := by
  unfold modTrace
  repeat' first
    | with_reducible rfl
    | (simp +zetaDelta [foldl_bell, foldl_snd_bell, foldl_fst_bell, core_eq_bell]; done)
    | (with_reducible rw [foldl_bell])
    | (rw [core_eq_bell])
    | (simp only [])
    | (with_reducible refine bell_ite _ _ _ _ ?_ ?_)
    | (with_reducible refine bell_ite_fst _ _ _ _ ?_ ?_)
    | (with_reducible refine bell_ite_snd _ _ _ _ ?_ ?_)
    | (intro _ _)
    | (simp +zetaDelta)
    | split

@[simp ↓] theorem onTrace_bell (s : State) (n : Nat) (f : Trace → Trace) :
    (bellOf (onTrace s n f)) = (bellOf s) := by
  unfold onTrace
  repeat' first
    | with_reducible rfl
    | (simp +zetaDelta [foldl_bell, foldl_snd_bell, foldl_fst_bell, core_eq_bell]; done)
    | (with_reducible rw [foldl_bell])
    | (rw [core_eq_bell])
    | (with_reducible exact hereFront_bell _ _ _ _ _ (by assumption))
    | (simp only [])
    | (with_reducible refine bell_ite _ _ _ _ ?_ ?_)
    | (with_reducible refine bell_ite_fst _ _ _ _ ?_ ?_)
    | (with_reducible refine bell_ite_snd _ _ _ _ ?_ ?_)
    | (intro _ _)
    | (simp +zetaDelta)
    | split

@[simp ↓] theorem traceWatch_bell (s : State) (n : Nat) (test : List Byte → Bool) :
    (bellOf (traceWatch s n test)) = (bellOf s) := by
  unfold traceWatch
  repeat' first
    | with_reducible rfl
    | (simp +zetaDelta [foldl_bell, foldl_snd_bell, foldl_fst_bell, core_eq_bell]; done)
    | (with_reducible rw [foldl_bell])
    | (rw [core_eq_bell])
    | (simp only [])
    | (with_reducible refine bell_ite _ _ _ _ ?_ ?_)
    | (with_reducible refine bell_ite_fst _ _ _ _ ?_ ?_)
    | (with_reducible refine bell_ite_snd _ _ _ _ ?_ ?_)
    | (intro _ _)
    | (simp +zetaDelta)
    | split

@[simp ↓] theorem seqBell_bell (s : State) (p : Nat) :
    (bellOf (seqBell s p)) = (bellOf s) := by
  unfold seqBell
  repeat' first
    | with_reducible rfl
    | (simp +zetaDelta [foldl_bell, foldl_snd_bell, foldl_fst_bell, core_eq_bell]; done)
    | (with_reducible rw [foldl_bell])
    | (rw [core_eq_bell])
    | (simp only [])
    | (with_reducible refine bell_ite _ _ _ _ ?_ ?_)
    | (with_reducible refine bell_ite_fst _ _ _ _ ?_ ?_)
    | (with_reducible refine bell_ite_snd _ _ _ _ ?_ ?_)
    | (intro _ _)
    | (simp +zetaDelta)
    | split

@[simp ↓] theorem ueReport_bell (s : State) (p port : Nat) (k : Packet) (readable : Bool) :
    (bellOf (ueReport s p port k readable)) = (bellOf s) := by
  unfold ueReport
  repeat' first
    | with_reducible rfl
    | (simp +zetaDelta [foldl_bell, foldl_snd_bell, foldl_fst_bell, core_eq_bell]; done)
    | (with_reducible rw [foldl_bell])
    | (rw [core_eq_bell])
    | (with_reducible exact hereFront_bell _ _ _ _ _ (by assumption))
    | (simp only [])
    | (with_reducible refine bell_ite _ _ _ _ ?_ ?_)
    | (with_reducible refine bell_ite_fst _ _ _ _ ?_ ?_)
    | (with_reducible refine bell_ite_snd _ _ _ _ ?_ ?_)
    | (intro _ _)
    | (simp +zetaDelta)
    | split

@[simp ↓] theorem ueDrop_bell (s : State) (p port : Nat) (k : Packet) (readable : Bool) :
    (bellOf (ueDrop s p port k readable)) = (bellOf s) := by
  unfold ueDrop
  repeat' first
    | with_reducible rfl
    | (simp +zetaDelta [foldl_bell, foldl_snd_bell, foldl_fst_bell, core_eq_bell]; done)
    | (with_reducible rw [foldl_bell])
    | (rw [core_eq_bell])
    | (simp only [])
    | (with_reducible refine bell_ite _ _ _ _ ?_ ?_)
    | (with_reducible refine bell_ite_fst _ _ _ _ ?_ ?_)
    | (with_reducible refine bell_ite_snd _ _ _ _ ?_ ?_)
    | (intro _ _)
    | (simp +zetaDelta)
    | split

@[simp ↓] theorem inputTake_bell (s : State) (l input : Nat) (k : Packet) :
    (bellOf (inputTake s l input k)) = (bellOf s) := by
  unfold inputTake
  repeat' first
    | with_reducible rfl
    | (simp +zetaDelta [foldl_bell, foldl_snd_bell, foldl_fst_bell, core_eq_bell]; done)
    | (with_reducible rw [foldl_bell])
    | (rw [core_eq_bell])
    | (simp only [])
    | (with_reducible refine bell_ite _ _ _ _ ?_ ?_)
    | (with_reducible refine bell_ite_fst _ _ _ _ ?_ ?_)
    | (with_reducible refine bell_ite_snd _ _ _ _ ?_ ?_)
    | (intro _ _)
    | (simp +zetaDelta)
    | split

@[simp ↓] theorem edgeFill_bell (s : State) (l input vc : Nat) :
    (bellOf (edgeFill s l input vc)) = (bellOf s) := by
  unfold edgeFill
  repeat' first
    | with_reducible rfl
    | (simp +zetaDelta [foldl_bell, foldl_snd_bell, foldl_fst_bell, core_eq_bell]; done)
    | (with_reducible rw [foldl_bell])
    | (rw [core_eq_bell])
    | (simp only [])
    | (with_reducible refine bell_ite _ _ _ _ ?_ ?_)
    | (with_reducible refine bell_ite_fst _ _ _ _ ?_ ?_)
    | (with_reducible refine bell_ite_snd _ _ _ _ ?_ ?_)
    | (intro _ _)
    | (simp +zetaDelta)
    | split

@[simp ↓] theorem refill_bell (s : State) (l input : Nat) :
    (bellOf (refill s l input)) = (bellOf s) := by
  unfold refill
  repeat' first
    | with_reducible rfl
    | (simp +zetaDelta [foldl_bell, foldl_snd_bell, foldl_fst_bell, core_eq_bell]; done)
    | (with_reducible rw [foldl_bell])
    | (rw [core_eq_bell])
    | (with_reducible exact hereFront_bell _ _ _ _ _ (by assumption))
    | (simp only [])
    | (with_reducible refine bell_ite _ _ _ _ ?_ ?_)
    | (with_reducible refine bell_ite_fst _ _ _ _ ?_ ?_)
    | (with_reducible refine bell_ite_snd _ _ _ _ ?_ ?_)
    | (intro _ _)
    | (simp +zetaDelta)
    | split

@[simp ↓] theorem stackEmit_bell (s : State) (n : Nat) (col : Nat) (ks : List Packet) :
    (bellOf (stackEmit s n col ks)) = (bellOf s) := by
  unfold stackEmit
  repeat' first
    | with_reducible rfl
    | (simp +zetaDelta [foldl_bell, foldl_snd_bell, foldl_fst_bell, core_eq_bell]; done)
    | (with_reducible rw [foldl_bell])
    | (rw [core_eq_bell])
    | (simp only [])
    | (with_reducible refine bell_ite _ _ _ _ ?_ ?_)
    | (with_reducible refine bell_ite_fst _ _ _ _ ?_ ?_)
    | (with_reducible refine bell_ite_snd _ _ _ _ ?_ ?_)
    | (intro _ _)
    | (simp +zetaDelta)
    | split

@[simp ↓] theorem boltPut_bell (s : State) (n b : Nat) (bs : List Byte) (tally : Nat) :
    (bellOf (boltPut s n b bs tally)) = (bellOf s) := by
  unfold boltPut
  repeat' first
    | with_reducible rfl
    | (simp +zetaDelta [foldl_bell, foldl_snd_bell, foldl_fst_bell, core_eq_bell]; done)
    | (with_reducible rw [foldl_bell])
    | (rw [core_eq_bell])
    | (simp only [])
    | (with_reducible refine bell_ite _ _ _ _ ?_ ?_)
    | (with_reducible refine bell_ite_fst _ _ _ _ ?_ ?_)
    | (with_reducible refine bell_ite_snd _ _ _ _ ?_ ?_)
    | (intro _ _)
    | (simp +zetaDelta)
    | split

@[simp ↓] theorem answer_bell (s : State) (k : Nat) (tile : Nat) (pks : List Packet) :
    (bellOf (answer s k tile pks)) = (bellOf s) := by
  unfold answer
  repeat' first
    | with_reducible rfl
    | (simp +zetaDelta [foldl_bell, foldl_snd_bell, foldl_fst_bell, core_eq_bell]; done)
    | (with_reducible rw [foldl_bell])
    | (rw [core_eq_bell])
    | (simp only [])
    | (with_reducible refine bell_ite _ _ _ _ ?_ ?_)
    | (with_reducible refine bell_ite_fst _ _ _ _ ?_ ?_)
    | (with_reducible refine bell_ite_snd _ _ _ _ ?_ ?_)
    | (intro _ _)
    | (simp +zetaDelta)
    | split

@[simp ↓] theorem atCc_bell (s : State) (p : Nat) (f : Nat → Ctx → Ctx) :
    (bellOf (atCc s p f)) = (bellOf s) := by
  unfold atCc
  repeat' first
    | with_reducible rfl
    | (simp +zetaDelta [foldl_bell, foldl_snd_bell, foldl_fst_bell, core_eq_bell]; done)
    | (with_reducible rw [foldl_bell])
    | (rw [core_eq_bell])
    | (with_reducible exact hereFront_bell _ _ _ _ _ (by assumption))
    | (simp only [])
    | (with_reducible refine bell_ite _ _ _ _ ?_ ?_)
    | (with_reducible refine bell_ite_fst _ _ _ _ ?_ ?_)
    | (with_reducible refine bell_ite_snd _ _ _ _ ?_ ?_)
    | (intro _ _)
    | (simp +zetaDelta)
    | split

@[simp ↓] theorem imRest_bell (s : State) (p : Nat) :
    (bellOf (imRest s p)) = (bellOf s) := by
  unfold imRest
  repeat' first
    | with_reducible rfl
    | (simp +zetaDelta [foldl_bell, foldl_snd_bell, foldl_fst_bell, core_eq_bell]; done)
    | (with_reducible rw [foldl_bell])
    | (rw [core_eq_bell])
    | (with_reducible exact hereFront_bell _ _ _ _ _ (by assumption))
    | (simp only [])
    | (with_reducible refine bell_ite _ _ _ _ ?_ ?_)
    | (with_reducible refine bell_ite_fst _ _ _ _ ?_ ?_)
    | (with_reducible refine bell_ite_snd _ _ _ _ ?_ ?_)
    | (intro _ _)
    | (simp +zetaDelta)
    | split

@[simp ↓] theorem vecDue_bell (s : State) (v : Nat) :
    bellOf (vecDue s v) = bellOf s := Eq.trans rfl rfl

@[simp ↓] theorem modPage_bell (s : State) (n : Nat) (f : Page → Page) :
    bellOf (modPage s n f) = bellOf s := Eq.trans rfl rfl

@[simp ↓] theorem modReeve_bell (s : State) (f : Reeve → Reeve) :
    bellOf (modReeve s f) = bellOf s := Eq.trans rfl rfl

@[simp ↓] theorem evPut_bell (s : State) (n kind : Nat) (pay : List Byte) :
    (bellOf (evPut s n kind pay)) = (bellOf s) := by
  unfold evPut
  repeat' first
    | with_reducible rfl
    | (simp +zetaDelta [foldl_bell, foldl_snd_bell, foldl_fst_bell, core_eq_bell]; done)
    | (with_reducible rw [foldl_bell])
    | (rw [core_eq_bell])
    | (simp only [])
    | (with_reducible refine bell_ite _ _ _ _ ?_ ?_)
    | (with_reducible refine bell_ite_fst _ _ _ _ ?_ ?_)
    | (with_reducible refine bell_ite_snd _ _ _ _ ?_ ?_)
    | (intro _ _)
    | (simp +zetaDelta)
    | split

@[simp ↓] theorem evEmit_bell (s : State) (n kind : Nat) (pay : List Byte) :
    (bellOf (evEmit s n kind pay)) = (bellOf s) := by
  unfold evEmit
  repeat' first
    | with_reducible rfl
    | (simp +zetaDelta [foldl_bell, foldl_snd_bell, foldl_fst_bell, core_eq_bell]; done)
    | (with_reducible rw [foldl_bell])
    | (rw [core_eq_bell])
    | (simp only [])
    | (with_reducible refine bell_ite _ _ _ _ ?_ ?_)
    | (with_reducible refine bell_ite_fst _ _ _ _ ?_ ?_)
    | (with_reducible refine bell_ite_snd _ _ _ _ ?_ ?_)
    | (intro _ _)
    | (simp +zetaDelta)
    | split

@[simp ↓] theorem emitTo_bell (s : State) (mask kind : Nat) (pay : List Byte) :
    (bellOf (emitTo s mask kind pay)) = (bellOf s) := by
  unfold emitTo
  repeat' first
    | with_reducible rfl
    | (simp +zetaDelta [foldl_bell, foldl_snd_bell, foldl_fst_bell, core_eq_bell]; done)
    | (with_reducible rw [foldl_bell])
    | (rw [core_eq_bell])
    | (simp only [])
    | (with_reducible refine bell_ite _ _ _ _ ?_ ?_)
    | (with_reducible refine bell_ite_fst _ _ _ _ ?_ ?_)
    | (with_reducible refine bell_ite_snd _ _ _ _ ?_ ?_)
    | (intro _ _)
    | (simp +zetaDelta)
    | split

@[simp ↓] theorem withHealth_bell (old new : State) :
    (bellOf (withHealth old new)) = (bellOf new) := by
  unfold withHealth
  repeat' first
    | with_reducible rfl
    | (simp +zetaDelta [foldl_bell, foldl_snd_bell, foldl_fst_bell, core_eq_bell]; done)
    | (with_reducible rw [foldl_bell])
    | (rw [core_eq_bell])
    | (simp only [])
    | (with_reducible refine bell_ite _ _ _ _ ?_ ?_)
    | (with_reducible refine bell_ite_fst _ _ _ _ ?_ ?_)
    | (with_reducible refine bell_ite_snd _ _ _ _ ?_ ?_)
    | (intro _ _)
    | (simp +zetaDelta)
    | split

@[simp ↓] theorem endLots_bell (s : State) (n code : Nat) :
    (bellOf (endLots s n code)) = (bellOf s) := by
  unfold endLots
  repeat' first
    | with_reducible rfl
    | (simp +zetaDelta [foldl_bell, foldl_snd_bell, foldl_fst_bell, core_eq_bell]; done)
    | (with_reducible rw [foldl_bell])
    | (rw [core_eq_bell])
    | (simp only [])
    | (with_reducible refine bell_ite _ _ _ _ ?_ ?_)
    | (with_reducible refine bell_ite_fst _ _ _ _ ?_ ?_)
    | (with_reducible refine bell_ite_snd _ _ _ _ ?_ ?_)
    | (intro _ _)
    | (simp +zetaDelta)
    | split

@[simp ↓] theorem modLink_bell (s : State) (f : Link → Link) :
    bellOf (modLink s f) = bellOf s := Eq.trans rfl rfl

@[simp ↓] theorem portEnqueue_bell (s : State) (p c : Nat) (m : List Byte) :
    (bellOf (portEnqueue s p c m)) = (bellOf s) := by
  unfold portEnqueue
  repeat' first
    | with_reducible rfl
    | (simp +zetaDelta [foldl_bell, foldl_snd_bell, foldl_fst_bell, core_eq_bell]; done)
    | (with_reducible rw [foldl_bell])
    | (rw [core_eq_bell])
    | (simp only [])
    | (with_reducible refine bell_ite _ _ _ _ ?_ ?_)
    | (with_reducible refine bell_ite_fst _ _ _ _ ?_ ?_)
    | (with_reducible refine bell_ite_snd _ _ _ _ ?_ ?_)
    | (intro _ _)
    | (simp +zetaDelta)
    | split

@[simp ↓] theorem countDiscard_bell (s : State) (p cause : Nat) :
    (bellOf (countDiscard s p cause)) = (bellOf s) := by
  unfold countDiscard
  repeat' first
    | with_reducible rfl
    | (simp +zetaDelta [foldl_bell, foldl_snd_bell, foldl_fst_bell, core_eq_bell]; done)
    | (with_reducible rw [foldl_bell])
    | (rw [core_eq_bell])
    | (simp only [])
    | (with_reducible refine bell_ite _ _ _ _ ?_ ?_)
    | (with_reducible refine bell_ite_fst _ _ _ _ ?_ ?_)
    | (with_reducible refine bell_ite_snd _ _ _ _ ?_ ?_)
    | (intro _ _)
    | (simp +zetaDelta)
    | split

@[simp ↓] theorem spineOut_bell (s : State) (q : Nat) (c : Nat) (m : List Byte) :
    (bellOf ((spineOut s q c m).1)) = (bellOf s) := by
  unfold spineOut
  repeat' first
    | with_reducible rfl
    | (simp +zetaDelta [foldl_bell, foldl_snd_bell, foldl_fst_bell, core_eq_bell]; done)
    | (with_reducible rw [foldl_bell])
    | (rw [core_eq_bell])
    | (simp only [])
    | (with_reducible refine bell_ite _ _ _ _ ?_ ?_)
    | (with_reducible refine bell_ite_fst _ _ _ _ ?_ ?_)
    | (with_reducible refine bell_ite_snd _ _ _ _ ?_ ?_)
    | (intro _ _)
    | (simp +zetaDelta)
    | split

@[simp ↓] theorem spineMove_bell (s : State) (inp : Nat) (inj : Bool) (c bank : Nat) (m0 : List Byte) :
    (bellOf ((spineMove s inp inj c bank m0).1)) = (bellOf s) := by
  unfold spineMove
  repeat' first
    | with_reducible rfl
    | (simp +zetaDelta [foldl_bell, foldl_snd_bell, foldl_fst_bell, core_eq_bell]; done)
    | (with_reducible rw [foldl_bell])
    | (rw [core_eq_bell])
    | (simp only [])
    | (with_reducible refine bell_ite _ _ _ _ ?_ ?_)
    | (with_reducible refine bell_ite_fst _ _ _ _ ?_ ?_)
    | (with_reducible refine bell_ite_snd _ _ _ _ ?_ ?_)
    | (intro _ _)
    | (simp +zetaDelta)
    | split

@[simp ↓] theorem discardOnly_bell (s : State) (ds : List (Nat × Nat)) :
    (bellOf (discardOnly s ds)) = (bellOf s) := by
  unfold discardOnly
  repeat' first
    | with_reducible rfl
    | (simp +zetaDelta [foldl_bell, foldl_snd_bell, foldl_fst_bell, core_eq_bell]; done)
    | (with_reducible rw [foldl_bell])
    | (rw [core_eq_bell])
    | (simp only [])
    | (with_reducible refine bell_ite _ _ _ _ ?_ ?_)
    | (with_reducible refine bell_ite_fst _ _ _ _ ?_ ?_)
    | (with_reducible refine bell_ite_snd _ _ _ _ ?_ ?_)
    | (intro _ _)
    | (simp +zetaDelta)
    | split

@[simp ↓] theorem discardMsg_bell (s : State) (m : List Byte) (d : Nat × Nat) :
    (bellOf (discardMsg s m d)) = (bellOf s) := by
  unfold discardMsg
  repeat' first
    | with_reducible rfl
    | (simp +zetaDelta [foldl_bell, foldl_snd_bell, foldl_fst_bell, core_eq_bell]; done)
    | (with_reducible rw [foldl_bell])
    | (rw [core_eq_bell])
    | (simp only [])
    | (with_reducible refine bell_ite _ _ _ _ ?_ ?_)
    | (with_reducible refine bell_ite_fst _ _ _ _ ?_ ?_)
    | (with_reducible refine bell_ite_snd _ _ _ _ ?_ ?_)
    | (intro _ _)
    | (simp +zetaDelta)
    | split

@[simp ↓] theorem parkRelease_bell (s : State) :
    (bellOf (parkRelease s)) = (bellOf s) := by
  unfold parkRelease
  repeat' first
    | with_reducible rfl
    | (simp +zetaDelta [foldl_bell, foldl_snd_bell, foldl_fst_bell, core_eq_bell]; done)
    | (with_reducible rw [foldl_bell])
    | (rw [core_eq_bell])
    | (simp only [])
    | (with_reducible refine bell_ite _ _ _ _ ?_ ?_)
    | (with_reducible refine bell_ite_fst _ _ _ _ ?_ ?_)
    | (with_reducible refine bell_ite_snd _ _ _ _ ?_ ?_)
    | (intro _ _)
    | (simp +zetaDelta)
    | split

@[simp ↓] theorem abortNotices_bell (s : State) (n stamp : Nat) :
    (bellOf (abortNotices s n stamp)) = (bellOf s) := by
  unfold abortNotices
  repeat' first
    | with_reducible rfl
    | (simp +zetaDelta [foldl_bell, foldl_snd_bell, foldl_fst_bell, core_eq_bell]; done)
    | (with_reducible rw [foldl_bell])
    | (rw [core_eq_bell])
    | (simp only [])
    | (with_reducible refine bell_ite _ _ _ _ ?_ ?_)
    | (with_reducible refine bell_ite_fst _ _ _ _ ?_ ?_)
    | (with_reducible refine bell_ite_snd _ _ _ _ ?_ ?_)
    | (intro _ _)
    | (simp +zetaDelta)
    | split

@[simp ↓] theorem portDrain_bell (s : State) (p : Nat) :
    (bellOf (portDrain s p)) = (bellOf s) := by
  unfold portDrain
  repeat' first
    | with_reducible rfl
    | (simp +zetaDelta [foldl_bell, foldl_snd_bell, foldl_fst_bell, core_eq_bell]; done)
    | (with_reducible rw [foldl_bell])
    | (rw [core_eq_bell])
    | (simp only [])
    | (with_reducible refine bell_ite _ _ _ _ ?_ ?_)
    | (with_reducible refine bell_ite_fst _ _ _ _ ?_ ?_)
    | (with_reducible refine bell_ite_snd _ _ _ _ ?_ ?_)
    | (intro _ _)
    | (simp +zetaDelta)
    | split

@[simp ↓] theorem joinLost_bell (s : State) (p : Nat) :
    (bellOf (joinLost s p)) = (bellOf s) := by
  unfold joinLost
  repeat' first
    | with_reducible rfl
    | (simp +zetaDelta [foldl_bell, foldl_snd_bell, foldl_fst_bell, core_eq_bell]; done)
    | (with_reducible rw [foldl_bell])
    | (rw [core_eq_bell])
    | (simp only [])
    | (with_reducible refine bell_ite _ _ _ _ ?_ ?_)
    | (with_reducible refine bell_ite_fst _ _ _ _ ?_ ?_)
    | (with_reducible refine bell_ite_snd _ _ _ _ ?_ ?_)
    | (intro _ _)
    | (simp +zetaDelta)
    | split

@[simp ↓] theorem clkLock_bell (s : State) :
    (bellOf (clkLock s)) = (bellOf s) := by
  unfold clkLock
  repeat' first
    | with_reducible rfl
    | (simp +zetaDelta [foldl_bell, foldl_snd_bell, foldl_fst_bell, core_eq_bell]; done)
    | (with_reducible rw [foldl_bell])
    | (rw [core_eq_bell])
    | (simp only [])
    | (with_reducible refine bell_ite _ _ _ _ ?_ ?_)
    | (with_reducible refine bell_ite_fst _ _ _ _ ?_ ?_)
    | (with_reducible refine bell_ite_snd _ _ _ _ ?_ ?_)
    | (intro _ _)
    | (simp +zetaDelta)
    | split

@[simp ↓] theorem portHold_bell (s : State) (p : Nat) :
    (bellOf (portHold s p)) = (bellOf s) := by
  unfold portHold
  repeat' first
    | with_reducible rfl
    | (simp +zetaDelta [foldl_bell, foldl_snd_bell, foldl_fst_bell, core_eq_bell]; done)
    | (with_reducible rw [foldl_bell])
    | (rw [core_eq_bell])
    | (simp only [])
    | (with_reducible refine bell_ite _ _ _ _ ?_ ?_)
    | (with_reducible refine bell_ite_fst _ _ _ _ ?_ ?_)
    | (with_reducible refine bell_ite_snd _ _ _ _ ?_ ?_)
    | (intro _ _)
    | (simp +zetaDelta)
    | split

@[simp ↓] theorem bellConflict_bell (s : State) (p : Nat) :
    (bellOf (bellConflict s p)) = (bellOf s) := by
  unfold bellConflict
  repeat' first
    | with_reducible rfl
    | (simp +zetaDelta [foldl_bell, foldl_snd_bell, foldl_fst_bell, core_eq_bell]; done)
    | (with_reducible rw [foldl_bell])
    | (rw [core_eq_bell])
    | (simp only [])
    | (with_reducible refine bell_ite _ _ _ _ ?_ ?_)
    | (with_reducible refine bell_ite_fst _ _ _ _ ?_ ?_)
    | (with_reducible refine bell_ite_snd _ _ _ _ ?_ ?_)
    | (intro _ _)
    | (simp +zetaDelta)
    | split

@[simp ↓] theorem domainCheck_bell (s : State) (p : Nat) :
    (bellOf (domainCheck s p)) = (bellOf s) := by
  unfold domainCheck
  repeat' first
    | with_reducible rfl
    | (simp +zetaDelta [foldl_bell, foldl_snd_bell, foldl_fst_bell, core_eq_bell]; done)
    | (with_reducible rw [foldl_bell])
    | (rw [core_eq_bell])
    | (simp only [])
    | (with_reducible refine bell_ite _ _ _ _ ?_ ?_)
    | (with_reducible refine bell_ite_fst _ _ _ _ ?_ ?_)
    | (with_reducible refine bell_ite_snd _ _ _ _ ?_ ?_)
    | (intro _ _)
    | (simp +zetaDelta)
    | split

@[simp ↓] theorem peerHeld_bell (s : State) (p : Nat) :
    (bellOf (peerHeld s p)) = (bellOf s) := by
  unfold peerHeld
  repeat' first
    | with_reducible rfl
    | (simp +zetaDelta [foldl_bell, foldl_snd_bell, foldl_fst_bell, core_eq_bell]; done)
    | (with_reducible rw [foldl_bell])
    | (rw [core_eq_bell])
    | (with_reducible exact hereFront_bell _ _ _ _ _ (by assumption))
    | (simp only [])
    | (with_reducible refine bell_ite _ _ _ _ ?_ ?_)
    | (with_reducible refine bell_ite_fst _ _ _ _ ?_ ?_)
    | (with_reducible refine bell_ite_snd _ _ _ _ ?_ ?_)
    | (intro _ _)
    | (simp +zetaDelta)
    | split

@[simp ↓] theorem portComeUp_bell (s : State) (p st : Nat) :
    (bellOf (portComeUp s p st)) = (bellOf s) := by
  unfold portComeUp
  repeat' first
    | with_reducible rfl
    | (simp +zetaDelta [foldl_bell, foldl_snd_bell, foldl_fst_bell, core_eq_bell]; done)
    | (with_reducible rw [foldl_bell])
    | (rw [core_eq_bell])
    | (simp only [])
    | (with_reducible refine bell_ite _ _ _ _ ?_ ?_)
    | (with_reducible refine bell_ite_fst _ _ _ _ ?_ ?_)
    | (with_reducible refine bell_ite_snd _ _ _ _ ?_ ?_)
    | (intro _ _)
    | (simp +zetaDelta)
    | split

@[simp ↓] theorem heldRelease_bell (s : State) (p : Nat) :
    (bellOf (heldRelease s p)) = (bellOf s) := by
  unfold heldRelease
  repeat' first
    | with_reducible rfl
    | (simp +zetaDelta [foldl_bell, foldl_snd_bell, foldl_fst_bell, core_eq_bell]; done)
    | (with_reducible rw [foldl_bell])
    | (rw [core_eq_bell])
    | (simp only [])
    | (with_reducible refine bell_ite _ _ _ _ ?_ ?_)
    | (with_reducible refine bell_ite_fst _ _ _ _ ?_ ?_)
    | (with_reducible refine bell_ite_snd _ _ _ _ ?_ ?_)
    | (intro _ _)
    | (simp +zetaDelta)
    | split

@[simp ↓] theorem ledgerAdd_bell (s : State) (kind flags source loc detail : Nat) :
    (bellOf ((ledgerAdd s kind flags source loc detail).2)) = (bellOf s) := by
  unfold ledgerAdd
  repeat' first
    | with_reducible rfl
    | (simp +zetaDelta [foldl_bell, foldl_snd_bell, foldl_fst_bell, core_eq_bell]; done)
    | (with_reducible rw [foldl_bell])
    | (rw [core_eq_bell])
    | (simp only [])
    | (with_reducible refine bell_ite _ _ _ _ ?_ ?_)
    | (with_reducible refine bell_ite_fst _ _ _ _ ?_ ?_)
    | (with_reducible refine bell_ite_snd _ _ _ _ ?_ ?_)
    | (intro _ _)
    | (simp +zetaDelta)
    | split

@[simp ↓] theorem persist_bell (s : State) (k v : Nat) :
    bellOf (persist s k v) = bellOf s := Eq.trans rfl rfl

@[simp ↓] theorem opEvent_bell (s : State) (o : Op) :
    (bellOf (opEvent s o)) = (bellOf s) := by
  unfold opEvent
  repeat' first
    | with_reducible rfl
    | (simp +zetaDelta [foldl_bell, foldl_snd_bell, foldl_fst_bell, core_eq_bell]; done)
    | (with_reducible rw [foldl_bell])
    | (rw [core_eq_bell])
    | (with_reducible exact hereFront_bell _ _ _ _ _ (by assumption))
    | (simp only [])
    | (with_reducible refine bell_ite _ _ _ _ ?_ ?_)
    | (with_reducible refine bell_ite_fst _ _ _ _ ?_ ?_)
    | (with_reducible refine bell_ite_snd _ _ _ _ ?_ ?_)
    | (intro _ _)
    | (simp +zetaDelta)
    | split

@[simp ↓] theorem modOp_bell (s : State) (h : Nat) (f : Op → Op) :
    (bellOf (modOp s h f)) = (bellOf s) := by
  unfold modOp
  repeat' first
    | with_reducible rfl
    | (simp +zetaDelta [foldl_bell, foldl_snd_bell, foldl_fst_bell, core_eq_bell]; done)
    | (with_reducible rw [foldl_bell])
    | (rw [core_eq_bell])
    | (with_reducible exact hereFront_bell _ _ _ _ _ (by assumption))
    | (simp only [])
    | (with_reducible refine bell_ite _ _ _ _ ?_ ?_)
    | (with_reducible refine bell_ite_fst _ _ _ _ ?_ ?_)
    | (with_reducible refine bell_ite_snd _ _ _ _ ?_ ?_)
    | (intro _ _)
    | (simp +zetaDelta)
    | split

@[simp ↓] theorem opsCancel_bell (s : State) (kinds : List Nat) (mask : Nat) :
    (bellOf (opsCancel s kinds mask)) = (bellOf s) := by
  unfold opsCancel
  repeat' first
    | with_reducible rfl
    | (simp +zetaDelta [foldl_bell, foldl_snd_bell, foldl_fst_bell, core_eq_bell]; done)
    | (with_reducible rw [foldl_bell])
    | (rw [core_eq_bell])
    | (with_reducible exact hereFront_bell _ _ _ _ _ (by assumption))
    | (simp only [])
    | (with_reducible refine bell_ite _ _ _ _ ?_ ?_)
    | (with_reducible refine bell_ite_fst _ _ _ _ ?_ ?_)
    | (with_reducible refine bell_ite_snd _ _ _ _ ?_ ?_)
    | (intro _ _)
    | (simp +zetaDelta)
    | split

@[simp ↓] theorem placeRow_bell (s : State) (r : Nat) :
    (bellOf (placeRow s r)) = (bellOf s) := by
  unfold placeRow
  repeat' first
    | with_reducible rfl
    | (simp +zetaDelta [foldl_bell, foldl_snd_bell, foldl_fst_bell, core_eq_bell]; done)
    | (with_reducible rw [foldl_bell])
    | (rw [core_eq_bell])
    | (with_reducible exact hereFront_bell _ _ _ _ _ (by assumption))
    | (simp only [])
    | (with_reducible refine bell_ite _ _ _ _ ?_ ?_)
    | (with_reducible refine bell_ite_fst _ _ _ _ ?_ ?_)
    | (with_reducible refine bell_ite_snd _ _ _ _ ?_ ?_)
    | (intro _ _)
    | (simp +zetaDelta)
    | split

@[simp ↓] theorem rowAbandon_bell (s : State) (r : Nat) :
    (bellOf (rowAbandon s r)) = (bellOf s) := by
  unfold rowAbandon
  repeat' first
    | with_reducible rfl
    | (simp +zetaDelta [foldl_bell, foldl_snd_bell, foldl_fst_bell, core_eq_bell]; done)
    | (with_reducible rw [foldl_bell])
    | (rw [core_eq_bell])
    | (with_reducible exact hereFront_bell _ _ _ _ _ (by assumption))
    | (simp only [])
    | (with_reducible refine bell_ite _ _ _ _ ?_ ?_)
    | (with_reducible refine bell_ite_fst _ _ _ _ ?_ ?_)
    | (with_reducible refine bell_ite_snd _ _ _ _ ?_ ?_)
    | (intro _ _)
    | (simp +zetaDelta)
    | split

@[simp ↓] theorem assayEvents_bell (s : State) (n : Nat) (a : Assay) :
    (bellOf (assayEvents s n a)) = (bellOf s) := by
  unfold assayEvents
  repeat' first
    | with_reducible rfl
    | (simp +zetaDelta [foldl_bell, foldl_snd_bell, foldl_fst_bell, core_eq_bell]; done)
    | (with_reducible rw [foldl_bell])
    | (rw [core_eq_bell])
    | (with_reducible exact hereFront_bell _ _ _ _ _ (by assumption))
    | (simp only [])
    | (with_reducible refine bell_ite _ _ _ _ ?_ ?_)
    | (with_reducible refine bell_ite_fst _ _ _ _ ?_ ?_)
    | (with_reducible refine bell_ite_snd _ _ _ _ ?_ ?_)
    | (intro _ _)
    | (simp +zetaDelta)
    | split

@[simp ↓] theorem assayEnd_bell (s : State) (n : Nat) :
    (bellOf (assayEnd s n)) = (bellOf s) := by
  unfold assayEnd
  repeat' first
    | with_reducible rfl
    | (simp +zetaDelta [foldl_bell, foldl_snd_bell, foldl_fst_bell, core_eq_bell]; done)
    | (with_reducible rw [foldl_bell])
    | (rw [core_eq_bell])
    | (with_reducible exact hereFront_bell _ _ _ _ _ (by assumption))
    | (simp only [])
    | (with_reducible refine bell_ite _ _ _ _ ?_ ?_)
    | (with_reducible refine bell_ite_fst _ _ _ _ ?_ ?_)
    | (with_reducible refine bell_ite_snd _ _ _ _ ?_ ?_)
    | (intro _ _)
    | (simp +zetaDelta)
    | split

@[simp ↓] theorem assayDrop_bell (s : State) (n : Nat) :
    (bellOf (assayDrop s n)) = (bellOf s) := by
  unfold assayDrop
  repeat' first
    | with_reducible rfl
    | (simp +zetaDelta [foldl_bell, foldl_snd_bell, foldl_fst_bell, core_eq_bell]; done)
    | (with_reducible rw [foldl_bell])
    | (rw [core_eq_bell])
    | (with_reducible exact hereFront_bell _ _ _ _ _ (by assumption))
    | (simp only [])
    | (with_reducible refine bell_ite _ _ _ _ ?_ ?_)
    | (with_reducible refine bell_ite_fst _ _ _ _ ?_ ?_)
    | (with_reducible refine bell_ite_snd _ _ _ _ ?_ ?_)
    | (intro _ _)
    | (simp +zetaDelta)
    | split

@[simp ↓] theorem beginReset_bell (s : State) (n lvl code : Nat) :
    (bellOf (beginReset s n lvl code)) = (bellOf s) := by
  unfold beginReset
  repeat' first
    | with_reducible rfl
    | (simp +zetaDelta [foldl_bell, foldl_snd_bell, foldl_fst_bell, core_eq_bell]; done)
    | (with_reducible rw [foldl_bell])
    | (rw [core_eq_bell])
    | (with_reducible exact hereFront_bell _ _ _ _ _ (by assumption))
    | (simp only [])
    | (with_reducible refine bell_ite _ _ _ _ ?_ ?_)
    | (with_reducible refine bell_ite_fst _ _ _ _ ?_ ?_)
    | (with_reducible refine bell_ite_snd _ _ _ _ ?_ ?_)
    | (intro _ _)
    | (simp +zetaDelta)
    | split

@[simp ↓] theorem pinfoldTile_bell (s : State) (p cause : Nat) :
    (bellOf (pinfoldTile s p cause)) = (bellOf s) := by
  unfold pinfoldTile
  repeat' first
    | with_reducible rfl
    | (simp +zetaDelta [foldl_bell, foldl_snd_bell, foldl_fst_bell, core_eq_bell]; done)
    | (with_reducible rw [foldl_bell])
    | (rw [core_eq_bell])
    | (with_reducible exact hereFront_bell _ _ _ _ _ (by assumption))
    | (simp only [])
    | (with_reducible refine bell_ite _ _ _ _ ?_ ?_)
    | (with_reducible refine bell_ite_fst _ _ _ _ ?_ ?_)
    | (with_reducible refine bell_ite_snd _ _ _ _ ?_ ?_)
    | (intro _ _)
    | (simp +zetaDelta)
    | split

@[simp ↓] theorem noCoverRow_bell (s : State) (p : Nat) :
    (bellOf (noCoverRow s p)) = (bellOf s) := by
  unfold noCoverRow
  repeat' first
    | with_reducible rfl
    | (simp +zetaDelta [foldl_bell, foldl_snd_bell, foldl_fst_bell, core_eq_bell]; done)
    | (with_reducible rw [foldl_bell])
    | (rw [core_eq_bell])
    | (with_reducible exact hereFront_bell _ _ _ _ _ (by assumption))
    | (simp only [])
    | (with_reducible refine bell_ite _ _ _ _ ?_ ?_)
    | (with_reducible refine bell_ite_fst _ _ _ _ ?_ ?_)
    | (with_reducible refine bell_ite_snd _ _ _ _ ?_ ?_)
    | (intro _ _)
    | (simp +zetaDelta)
    | split

@[simp ↓] theorem substitute_bell (s : State) (p : Nat) :
    (bellOf (substitute s p)) = (bellOf s) := by
  unfold substitute
  repeat' first
    | with_reducible rfl
    | (simp +zetaDelta [foldl_bell, foldl_snd_bell, foldl_fst_bell, core_eq_bell]; done)
    | (with_reducible rw [foldl_bell])
    | (rw [core_eq_bell])
    | (with_reducible exact hereFront_bell _ _ _ _ _ (by assumption))
    | (simp only [])
    | (with_reducible refine bell_ite _ _ _ _ ?_ ?_)
    | (with_reducible refine bell_ite_fst _ _ _ _ ?_ ?_)
    | (with_reducible refine bell_ite_snd _ _ _ _ ?_ ?_)
    | (intro _ _)
    | (simp +zetaDelta)
    | split

@[simp ↓] theorem fenceDrops_bell (s : State) (p : Nat) :
    (bellOf (fenceDrops s p)) = (bellOf s) := by
  unfold fenceDrops
  repeat' first
    | with_reducible rfl
    | (simp +zetaDelta [foldl_bell, foldl_snd_bell, foldl_fst_bell, core_eq_bell]; done)
    | (with_reducible rw [foldl_bell])
    | (rw [core_eq_bell])
    | (with_reducible exact hereFront_bell _ _ _ _ _ (by assumption))
    | (simp only [])
    | (with_reducible refine bell_ite _ _ _ _ ?_ ?_)
    | (with_reducible refine bell_ite_fst _ _ _ _ ?_ ?_)
    | (with_reducible refine bell_ite_snd _ _ _ _ ?_ ?_)
    | (intro _ _)
    | (simp +zetaDelta)
    | split

@[simp ↓] theorem failLedger_bell (s : State) (p source : Nat) (e : Event) :
    (bellOf (failLedger s p source e)) = (bellOf s) := by
  unfold failLedger
  repeat' first
    | with_reducible rfl
    | (simp +zetaDelta [foldl_bell, foldl_snd_bell, foldl_fst_bell, core_eq_bell]; done)
    | (with_reducible rw [foldl_bell])
    | (rw [core_eq_bell])
    | (with_reducible exact hereFront_bell _ _ _ _ _ (by assumption))
    | (simp only [])
    | (with_reducible refine bell_ite _ _ _ _ ?_ ?_)
    | (with_reducible refine bell_ite_fst _ _ _ _ ?_ ?_)
    | (with_reducible refine bell_ite_snd _ _ _ _ ?_ ?_)
    | (intro _ _)
    | (simp +zetaDelta)
    | split

@[simp ↓] theorem failTile_bell (s0 : State) (p cause : Nat) :
    (bellOf (failTile s0 p cause)) = (bellOf s0) := by
  unfold failTile
  repeat' first
    | with_reducible rfl
    | (simp +zetaDelta [foldl_bell, foldl_snd_bell, foldl_fst_bell, core_eq_bell]; done)
    | (with_reducible rw [foldl_bell])
    | (rw [core_eq_bell])
    | (with_reducible exact hereFront_bell _ _ _ _ _ (by assumption))
    | (simp only [])
    | (with_reducible refine bell_ite _ _ _ _ ?_ ?_)
    | (with_reducible refine bell_ite_fst _ _ _ _ ?_ ?_)
    | (with_reducible refine bell_ite_snd _ _ _ _ ?_ ?_)
    | (intro _ _)
    | (simp +zetaDelta)
    | split

@[simp ↓] theorem sliceResult_bell (s : State) (p res : Nat) :
    (bellOf (sliceResult s p res)) = (bellOf s) := by
  unfold sliceResult
  repeat' first
    | with_reducible rfl
    | (simp +zetaDelta [foldl_bell, foldl_snd_bell, foldl_fst_bell, core_eq_bell]; done)
    | (with_reducible rw [foldl_bell])
    | (rw [core_eq_bell])
    | (with_reducible exact hereFront_bell _ _ _ _ _ (by assumption))
    | (simp only [])
    | (with_reducible refine bell_ite _ _ _ _ ?_ ?_)
    | (with_reducible refine bell_ite_fst _ _ _ _ ?_ ?_)
    | (with_reducible refine bell_ite_snd _ _ _ _ ?_ ?_)
    | (intro _ _)
    | (simp +zetaDelta)
    | split

@[simp ↓] theorem storeImage_bell (s : State) (p : Nat) :
    (bellOf ((storeImage s p).2)) = (bellOf s) := by
  unfold storeImage
  repeat' first
    | with_reducible rfl
    | (simp +zetaDelta [foldl_bell, foldl_snd_bell, foldl_fst_bell, core_eq_bell]; done)
    | (with_reducible rw [foldl_bell])
    | (rw [core_eq_bell])
    | (with_reducible exact hereFront_bell _ _ _ _ _ (by assumption))
    | (simp only [])
    | (with_reducible refine bell_ite _ _ _ _ ?_ ?_)
    | (with_reducible refine bell_ite_fst _ _ _ _ ?_ ?_)
    | (with_reducible refine bell_ite_snd _ _ _ _ ?_ ?_)
    | (intro _ _)
    | (simp +zetaDelta)
    | split

@[simp ↓] theorem imageRead_bell (s : State) (p : Nat) (store : Bool) :
    (bellOf ((imageRead s p store).2)) = (bellOf s) := by
  unfold imageRead
  repeat' first
    | with_reducible rfl
    | (simp +zetaDelta [foldl_bell, foldl_snd_bell, foldl_fst_bell, core_eq_bell]; done)
    | (with_reducible rw [foldl_bell])
    | (rw [core_eq_bell])
    | (with_reducible exact hereFront_bell _ _ _ _ _ (by assumption))
    | (simp only [])
    | (with_reducible refine bell_ite _ _ _ _ ?_ ?_)
    | (with_reducible refine bell_ite_fst _ _ _ _ ?_ ?_)
    | (with_reducible refine bell_ite_snd _ _ _ _ ?_ ?_)
    | (intro _ _)
    | (simp +zetaDelta)
    | split

@[simp ↓] theorem scanOut_bell (s : State) (n bolt : Nat) (store : Bool) :
    (bellOf (scanOut s n bolt store)) = (bellOf s) := by
  unfold scanOut
  repeat' first
    | with_reducible rfl
    | (simp +zetaDelta [foldl_bell, foldl_snd_bell, foldl_fst_bell, core_eq_bell]; done)
    | (with_reducible rw [foldl_bell])
    | (rw [core_eq_bell])
    | (with_reducible exact hereFront_bell _ _ _ _ _ (by assumption))
    | (simp only [])
    | (with_reducible refine bell_ite _ _ _ _ ?_ ?_)
    | (with_reducible refine bell_ite_fst _ _ _ _ ?_ ?_)
    | (with_reducible refine bell_ite_snd _ _ _ _ ?_ ?_)
    | (intro _ _)
    | (simp +zetaDelta)
    | split

@[simp ↓] theorem changeEvent_bell (s : State) (c : Change) :
    (bellOf (changeEvent s c)) = (bellOf s) := by
  unfold changeEvent
  repeat' first
    | with_reducible rfl
    | (simp +zetaDelta [foldl_bell, foldl_snd_bell, foldl_fst_bell, core_eq_bell]; done)
    | (with_reducible rw [foldl_bell])
    | (rw [core_eq_bell])
    | (with_reducible exact hereFront_bell _ _ _ _ _ (by assumption))
    | (simp only [])
    | (with_reducible refine bell_ite _ _ _ _ ?_ ?_)
    | (with_reducible refine bell_ite_fst _ _ _ _ ?_ ?_)
    | (with_reducible refine bell_ite_snd _ _ _ _ ?_ ?_)
    | (intro _ _)
    | (simp +zetaDelta)
    | split

@[simp ↓] theorem changePut_bell (s : State) (c : Change) :
    (bellOf (changePut s c)) = (bellOf s) := by
  unfold changePut
  repeat' first
    | with_reducible rfl
    | (simp +zetaDelta [foldl_bell, foldl_snd_bell, foldl_fst_bell, core_eq_bell]; done)
    | (with_reducible rw [foldl_bell])
    | (rw [core_eq_bell])
    | (with_reducible exact hereFront_bell _ _ _ _ _ (by assumption))
    | (simp only [])
    | (with_reducible refine bell_ite _ _ _ _ ?_ ?_)
    | (with_reducible refine bell_ite_fst _ _ _ _ ?_ ?_)
    | (with_reducible refine bell_ite_snd _ _ _ _ ?_ ?_)
    | (intro _ _)
    | (simp +zetaDelta)
    | split

@[simp ↓] theorem changeDecide_bell (s : State) (c : Change) (outcome : Nat) :
    (bellOf (changeDecide s c outcome)) = (bellOf s) := by
  unfold changeDecide
  repeat' first
    | with_reducible rfl
    | (simp +zetaDelta [foldl_bell, foldl_snd_bell, foldl_fst_bell, core_eq_bell]; done)
    | (with_reducible rw [foldl_bell])
    | (rw [core_eq_bell])
    | (with_reducible exact hereFront_bell _ _ _ _ _ (by assumption))
    | (simp only [])
    | (with_reducible refine bell_ite _ _ _ _ ?_ ?_)
    | (with_reducible refine bell_ite_fst _ _ _ _ ?_ ?_)
    | (with_reducible refine bell_ite_snd _ _ _ _ ?_ ?_)
    | (intro _ _)
    | (simp +zetaDelta)
    | split

@[simp ↓] theorem leaveCheck_bell (s : State) :
    (bellOf (leaveCheck s)) = (bellOf s) := by
  unfold leaveCheck
  repeat' first
    | with_reducible rfl
    | (simp +zetaDelta [foldl_bell, foldl_snd_bell, foldl_fst_bell, core_eq_bell]; done)
    | (with_reducible rw [foldl_bell])
    | (rw [core_eq_bell])
    | (with_reducible exact hereFront_bell _ _ _ _ _ (by assumption))
    | (simp only [])
    | (with_reducible refine bell_ite _ _ _ _ ?_ ?_)
    | (with_reducible refine bell_ite_fst _ _ _ _ ?_ ?_)
    | (with_reducible refine bell_ite_snd _ _ _ _ ?_ ?_)
    | (intro _ _)
    | (simp +zetaDelta)
    | split

@[simp ↓] theorem putOut_bell (s : State) (kind addr : Nat) (data : List Byte) :
    bellOf (putOut s kind addr data) = bellOf s := Eq.trans rfl rfl

@[simp ↓] theorem hangTake_bell (s : State) (ps : List Nat) :
    (bellOf (hangTake s ps)) = (bellOf s) := by
  unfold hangTake
  repeat' first
    | with_reducible rfl
    | (simp +zetaDelta [foldl_bell, foldl_snd_bell, foldl_fst_bell, core_eq_bell]; done)
    | (with_reducible rw [foldl_bell])
    | (rw [core_eq_bell])
    | (with_reducible exact hereFront_bell _ _ _ _ _ (by assumption))
    | (simp only [])
    | (with_reducible refine bell_ite _ _ _ _ ?_ ?_)
    | (with_reducible refine bell_ite_fst _ _ _ _ ?_ ?_)
    | (with_reducible refine bell_ite_snd _ _ _ _ ?_ ?_)
    | (intro _ _)
    | (simp +zetaDelta)
    | split

@[simp ↓] theorem watchTake_bell (s : State) :
    (bellOf (watchTake s)) = (bellOf s) := by
  unfold watchTake
  repeat' first
    | with_reducible rfl
    | (simp +zetaDelta [foldl_bell, foldl_snd_bell, foldl_fst_bell, core_eq_bell]; done)
    | (with_reducible rw [foldl_bell])
    | (rw [core_eq_bell])
    | (with_reducible exact hereFront_bell _ _ _ _ _ (by assumption))
    | (simp only [])
    | (with_reducible refine bell_ite _ _ _ _ ?_ ?_)
    | (with_reducible refine bell_ite_fst _ _ _ _ ?_ ?_)
    | (with_reducible refine bell_ite_snd _ _ _ _ ?_ ?_)
    | (intro _ _)
    | (simp +zetaDelta)
    | split

@[simp ↓] theorem carryBad_bell (s : State) (p : Nat) (t : Tile) :
    (bellOf (carryBad s p t)) = (bellOf s) := by
  unfold carryBad
  repeat' first
    | with_reducible rfl
    | (simp +zetaDelta [foldl_bell, foldl_snd_bell, foldl_fst_bell, core_eq_bell]; done)
    | (with_reducible rw [foldl_bell])
    | (rw [core_eq_bell])
    | (with_reducible exact hereFront_bell _ _ _ _ _ (by assumption))
    | (simp only [])
    | (with_reducible refine bell_ite _ _ _ _ ?_ ?_)
    | (with_reducible refine bell_ite_fst _ _ _ _ ?_ ?_)
    | (with_reducible refine bell_ite_snd _ _ _ _ ?_ ?_)
    | (intro _ _)
    | (simp +zetaDelta)
    | split

@[simp ↓] theorem moveRoleFrom_bell (s : State) (r k : Nat) :
    (bellOf (moveRoleFrom s r k)) = (bellOf s) := by
  unfold moveRoleFrom
  repeat' first
    | with_reducible rfl
    | (simp +zetaDelta [foldl_bell, foldl_snd_bell, foldl_fst_bell, core_eq_bell]; done)
    | (with_reducible rw [foldl_bell])
    | (rw [core_eq_bell])
    | (with_reducible exact hereFront_bell _ _ _ _ _ (by assumption))
    | (simp only [])
    | (with_reducible refine bell_ite _ _ _ _ ?_ ?_)
    | (with_reducible refine bell_ite_fst _ _ _ _ ?_ ?_)
    | (with_reducible refine bell_ite_snd _ _ _ _ ?_ ?_)
    | (intro _ _)
    | (simp +zetaDelta)
    | split

@[simp ↓] theorem moveRole_bell (s : State) (r : Nat) :
    (bellOf (moveRole s r)) = (bellOf s) := by
  unfold moveRole
  repeat' first
    | with_reducible rfl
    | (simp +zetaDelta [foldl_bell, foldl_snd_bell, foldl_fst_bell, core_eq_bell]; done)
    | (with_reducible rw [foldl_bell])
    | (rw [core_eq_bell])
    | (with_reducible exact hereFront_bell _ _ _ _ _ (by assumption))
    | (simp only [])
    | (with_reducible refine bell_ite _ _ _ _ ?_ ?_)
    | (with_reducible refine bell_ite_fst _ _ _ _ ?_ ?_)
    | (with_reducible refine bell_ite_snd _ _ _ _ ?_ ?_)
    | (intro _ _)
    | (simp +zetaDelta)
    | split

@[simp ↓] theorem migGuard_bell (s : State) (r : Nat) :
    (bellOf (migGuard s r)) = (bellOf s) := by
  unfold migGuard
  repeat' first
    | with_reducible rfl
    | (simp +zetaDelta [foldl_bell, foldl_snd_bell, foldl_fst_bell, core_eq_bell]; done)
    | (with_reducible rw [foldl_bell])
    | (rw [core_eq_bell])
    | (with_reducible exact hereFront_bell _ _ _ _ _ (by assumption))
    | (simp only [])
    | (with_reducible refine bell_ite _ _ _ _ ?_ ?_)
    | (with_reducible refine bell_ite_fst _ _ _ _ ?_ ?_)
    | (with_reducible refine bell_ite_snd _ _ _ _ ?_ ?_)
    | (intro _ _)
    | (simp +zetaDelta)
    | split

@[simp ↓] theorem migGuards_bell (s : State) :
    (bellOf (migGuards s)) = (bellOf s) := by
  unfold migGuards
  repeat' first
    | with_reducible rfl
    | (simp +zetaDelta [foldl_bell, foldl_snd_bell, foldl_fst_bell, core_eq_bell]; done)
    | (with_reducible rw [foldl_bell])
    | (rw [core_eq_bell])
    | (with_reducible exact hereFront_bell _ _ _ _ _ (by assumption))
    | (simp only [])
    | (with_reducible refine bell_ite _ _ _ _ ?_ ?_)
    | (with_reducible refine bell_ite_fst _ _ _ _ ?_ ?_)
    | (with_reducible refine bell_ite_snd _ _ _ _ ?_ ?_)
    | (intro _ _)
    | (simp +zetaDelta)
    | split

@[simp ↓] theorem loomSpoiled_bell (s : State) (p : Nat) :
    (bellOf (loomSpoiled s p)) = (bellOf s) := by
  unfold loomSpoiled
  repeat' first
    | with_reducible rfl
    | (simp +zetaDelta [foldl_bell, foldl_snd_bell, foldl_fst_bell, core_eq_bell]; done)
    | (with_reducible rw [foldl_bell])
    | (rw [core_eq_bell])
    | (with_reducible exact hereFront_bell _ _ _ _ _ (by assumption))
    | (simp only [])
    | (with_reducible refine bell_ite _ _ _ _ ?_ ?_)
    | (with_reducible refine bell_ite_fst _ _ _ _ ?_ ?_)
    | (with_reducible refine bell_ite_snd _ _ _ _ ?_ ?_)
    | (intro _ _)
    | (simp +zetaDelta)
    | split

@[simp ↓] theorem windowTest_bell (fails : List Nat) (s : State) (p : Nat) :
    (bellOf (windowTest fails s p)) = (bellOf s) := by
  unfold windowTest
  repeat' first
    | with_reducible rfl
    | (simp +zetaDelta [foldl_bell, foldl_snd_bell, foldl_fst_bell, core_eq_bell]; done)
    | (with_reducible rw [foldl_bell])
    | (rw [core_eq_bell])
    | (with_reducible exact hereFront_bell _ _ _ _ _ (by assumption))
    | (simp only [])
    | (with_reducible refine bell_ite _ _ _ _ ?_ ?_)
    | (with_reducible refine bell_ite_fst _ _ _ _ ?_ ?_)
    | (with_reducible refine bell_ite_snd _ _ _ _ ?_ ?_)
    | (intro _ _)
    | (simp +zetaDelta)
    | split

@[simp ↓] theorem windowOpen_bell (fails : List Nat) (s : State) (p : Nat) :
    (bellOf (windowOpen fails s p)) = (bellOf s) := by
  unfold windowOpen
  repeat' first
    | with_reducible rfl
    | (simp +zetaDelta [foldl_bell, foldl_snd_bell, foldl_fst_bell, core_eq_bell]; done)
    | (with_reducible rw [foldl_bell])
    | (rw [core_eq_bell])
    | (with_reducible exact hereFront_bell _ _ _ _ _ (by assumption))
    | (simp only [])
    | (with_reducible refine bell_ite _ _ _ _ ?_ ?_)
    | (with_reducible refine bell_ite_fst _ _ _ _ ?_ ?_)
    | (with_reducible refine bell_ite_snd _ _ _ _ ?_ ?_)
    | (intro _ _)
    | (simp +zetaDelta)
    | split

@[simp ↓] theorem windowsAt_bell (fails : List Nat) (s : State) :
    (bellOf (windowsAt fails s)) = (bellOf s) := by
  unfold windowsAt
  repeat' first
    | with_reducible rfl
    | (simp +zetaDelta [foldl_bell, foldl_snd_bell, foldl_fst_bell, core_eq_bell]; done)
    | (with_reducible rw [foldl_bell])
    | (rw [core_eq_bell])
    | (with_reducible exact hereFront_bell _ _ _ _ _ (by assumption))
    | (simp only [])
    | (with_reducible refine bell_ite _ _ _ _ ?_ ?_)
    | (with_reducible refine bell_ite_fst _ _ _ _ ?_ ?_)
    | (with_reducible refine bell_ite_snd _ _ _ _ ?_ ?_)
    | (intro _ _)
    | (simp +zetaDelta)
    | split

@[simp ↓] theorem changeEval_bell (s : State) (c : Change) :
    (bellOf (changeEval s c)) = (bellOf s) := by
  unfold changeEval
  repeat' first
    | with_reducible rfl
    | (simp +zetaDelta [foldl_bell, foldl_snd_bell, foldl_fst_bell, core_eq_bell]; done)
    | (with_reducible rw [foldl_bell])
    | (rw [core_eq_bell])
    | (with_reducible exact hereFront_bell _ _ _ _ _ (by assumption))
    | (simp only [])
    | (with_reducible refine bell_ite _ _ _ _ ?_ ?_)
    | (with_reducible refine bell_ite_fst _ _ _ _ ?_ ?_)
    | (with_reducible refine bell_ite_snd _ _ _ _ ?_ ?_)
    | (intro _ _)
    | (simp +zetaDelta)
    | split

@[simp ↓] theorem haltDefer_bell (s : State) :
    (bellOf (haltDefer s)) = (bellOf s) := by
  unfold haltDefer
  repeat' first
    | with_reducible rfl
    | (simp +zetaDelta [foldl_bell, foldl_snd_bell, foldl_fst_bell, core_eq_bell]; done)
    | (with_reducible rw [foldl_bell])
    | (rw [core_eq_bell])
    | (with_reducible exact hereFront_bell _ _ _ _ _ (by assumption))
    | (simp only [])
    | (with_reducible refine bell_ite _ _ _ _ ?_ ?_)
    | (with_reducible refine bell_ite_fst _ _ _ _ ?_ ?_)
    | (with_reducible refine bell_ite_snd _ _ _ _ ?_ ?_)
    | (intro _ _)
    | (simp +zetaDelta)
    | split

@[simp ↓] theorem changesEval_bell (s : State) :
    (bellOf (changesEval s)) = (bellOf s) := by
  unfold changesEval
  repeat' first
    | with_reducible rfl
    | (simp +zetaDelta [foldl_bell, foldl_snd_bell, foldl_fst_bell, core_eq_bell]; done)
    | (with_reducible rw [foldl_bell])
    | (rw [core_eq_bell])
    | (with_reducible exact hereFront_bell _ _ _ _ _ (by assumption))
    | (simp only [])
    | (with_reducible refine bell_ite _ _ _ _ ?_ ?_)
    | (with_reducible refine bell_ite_fst _ _ _ _ ?_ ?_)
    | (with_reducible refine bell_ite_snd _ _ _ _ ?_ ?_)
    | (intro _ _)
    | (simp +zetaDelta)
    | split

@[simp ↓] theorem activateCtx_bell (s : State) (n : Nat) :
    (bellOf (activateCtx s n)) = (bellOf s) := by
  unfold activateCtx
  repeat' first
    | with_reducible rfl
    | (simp +zetaDelta [foldl_bell, foldl_snd_bell, foldl_fst_bell, core_eq_bell]; done)
    | (with_reducible rw [foldl_bell])
    | (rw [core_eq_bell])
    | (with_reducible exact hereFront_bell _ _ _ _ _ (by assumption))
    | (simp only [])
    | (with_reducible refine bell_ite _ _ _ _ ?_ ?_)
    | (with_reducible refine bell_ite_fst _ _ _ _ ?_ ?_)
    | (with_reducible refine bell_ite_snd _ _ _ _ ?_ ?_)
    | (intro _ _)
    | (simp +zetaDelta)
    | split

@[simp ↓] theorem switchCtx_bell (s : State) (n k : Nat) :
    (bellOf (switchCtx s n k)) = (bellOf s) := by
  unfold switchCtx
  repeat' first
    | with_reducible rfl
    | (simp +zetaDelta [foldl_bell, foldl_snd_bell, foldl_fst_bell, core_eq_bell]; done)
    | (with_reducible rw [foldl_bell])
    | (rw [core_eq_bell])
    | (with_reducible exact hereFront_bell _ _ _ _ _ (by assumption))
    | (simp only [])
    | (with_reducible refine bell_ite _ _ _ _ ?_ ?_)
    | (with_reducible refine bell_ite_fst _ _ _ _ ?_ ?_)
    | (with_reducible refine bell_ite_snd _ _ _ _ ?_ ?_)
    | (intro _ _)
    | (simp +zetaDelta)
    | split

@[simp ↓] theorem keysWrite_bell (s : State) :
    (bellOf (keysWrite s)) = (bellOf s) := by
  unfold keysWrite
  repeat' first
    | with_reducible rfl
    | (simp +zetaDelta [foldl_bell, foldl_snd_bell, foldl_fst_bell, core_eq_bell]; done)
    | (with_reducible rw [foldl_bell])
    | (rw [core_eq_bell])
    | (with_reducible exact hereFront_bell _ _ _ _ _ (by assumption))
    | (simp only [])
    | (with_reducible refine bell_ite _ _ _ _ ?_ ?_)
    | (with_reducible refine bell_ite_fst _ _ _ _ ?_ ?_)
    | (with_reducible refine bell_ite_snd _ _ _ _ ?_ ?_)
    | (intro _ _)
    | (simp +zetaDelta)
    | split

@[simp ↓] theorem keysRotate_bell (s : State) (ns : List Nat) (ks : List Byte) :
    (bellOf (keysRotate s ns ks)) = (bellOf s) := by
  unfold keysRotate
  repeat' first
    | with_reducible rfl
    | (simp +zetaDelta [foldl_bell, foldl_snd_bell, foldl_fst_bell, core_eq_bell]; done)
    | (with_reducible rw [foldl_bell])
    | (rw [core_eq_bell])
    | (with_reducible exact hereFront_bell _ _ _ _ _ (by assumption))
    | (simp only [])
    | (with_reducible refine bell_ite _ _ _ _ ?_ ?_)
    | (with_reducible refine bell_ite_fst _ _ _ _ ?_ ?_)
    | (with_reducible refine bell_ite_snd _ _ _ _ ?_ ?_)
    | (intro _ _)
    | (simp +zetaDelta)
    | split

@[simp ↓] theorem reseed_bell (s : State) (ns : List Nat) :
    (bellOf (reseed s ns)) = (bellOf s) := by
  unfold reseed
  repeat' first
    | with_reducible rfl
    | (simp +zetaDelta [foldl_bell, foldl_snd_bell, foldl_fst_bell, core_eq_bell]; done)
    | (with_reducible rw [foldl_bell])
    | (rw [core_eq_bell])
    | (with_reducible exact hereFront_bell _ _ _ _ _ (by assumption))
    | (simp only [])
    | (with_reducible refine bell_ite _ _ _ _ ?_ ?_)
    | (with_reducible refine bell_ite_fst _ _ _ _ ?_ ?_)
    | (with_reducible refine bell_ite_snd _ _ _ _ ?_ ?_)
    | (intro _ _)
    | (simp +zetaDelta)
    | split

@[simp ↓] theorem changeApply_bell (s : State) (c : Change) :
    (bellOf (changeApply s c)) = (bellOf s) := by
  unfold changeApply
  repeat' first
    | with_reducible rfl
    | (simp +zetaDelta [foldl_bell, foldl_snd_bell, foldl_fst_bell, core_eq_bell]; done)
    | (with_reducible rw [foldl_bell])
    | (rw [core_eq_bell])
    | (with_reducible exact hereFront_bell _ _ _ _ _ (by assumption))
    | (simp only [])
    | (with_reducible refine bell_ite _ _ _ _ ?_ ?_)
    | (with_reducible refine bell_ite_fst _ _ _ _ ?_ ?_)
    | (with_reducible refine bell_ite_snd _ _ _ _ ?_ ?_)
    | (intro _ _)
    | (simp +zetaDelta)
    | split

@[simp ↓] theorem changesApply_bell (s : State) :
    (bellOf (changesApply s)) = (bellOf s) := by
  unfold changesApply
  repeat' first
    | with_reducible rfl
    | (simp +zetaDelta [foldl_bell, foldl_snd_bell, foldl_fst_bell, core_eq_bell]; done)
    | (with_reducible rw [foldl_bell])
    | (rw [core_eq_bell])
    | (with_reducible exact hereFront_bell _ _ _ _ _ (by assumption))
    | (simp only [])
    | (with_reducible refine bell_ite _ _ _ _ ?_ ?_)
    | (with_reducible refine bell_ite_fst _ _ _ _ ?_ ?_)
    | (with_reducible refine bell_ite_snd _ _ _ _ ?_ ?_)
    | (intro _ _)
    | (simp +zetaDelta)
    | split

@[simp ↓] theorem haltCtx_bell (s : State) (n : Nat) :
    (bellOf (haltCtx s n)) = (bellOf s) := by
  unfold haltCtx
  repeat' first
    | with_reducible rfl
    | (simp +zetaDelta [foldl_bell, foldl_snd_bell, foldl_fst_bell, core_eq_bell]; done)
    | (with_reducible rw [foldl_bell])
    | (rw [core_eq_bell])
    | (with_reducible exact hereFront_bell _ _ _ _ _ (by assumption))
    | (simp only [])
    | (with_reducible refine bell_ite _ _ _ _ ?_ ?_)
    | (with_reducible refine bell_ite_fst _ _ _ _ ?_ ?_)
    | (with_reducible refine bell_ite_snd _ _ _ _ ?_ ?_)
    | (intro _ _)
    | (simp +zetaDelta)
    | split

@[simp ↓] theorem haltsApply_bell (s : State) :
    (bellOf (haltsApply s)) = (bellOf s) := by
  unfold haltsApply
  repeat' first
    | with_reducible rfl
    | (simp +zetaDelta [foldl_bell, foldl_snd_bell, foldl_fst_bell, core_eq_bell]; done)
    | (with_reducible rw [foldl_bell])
    | (rw [core_eq_bell])
    | (with_reducible exact hereFront_bell _ _ _ _ _ (by assumption))
    | (simp only [])
    | (with_reducible refine bell_ite _ _ _ _ ?_ ?_)
    | (with_reducible refine bell_ite_fst _ _ _ _ ?_ ?_)
    | (with_reducible refine bell_ite_snd _ _ _ _ ?_ ?_)
    | (intro _ _)
    | (simp +zetaDelta)
    | split

@[simp ↓] theorem resumeCtx_bell (s : State) (n : Nat) :
    (bellOf (resumeCtx s n)) = (bellOf s) := by
  unfold resumeCtx
  repeat' first
    | with_reducible rfl
    | (simp +zetaDelta [foldl_bell, foldl_snd_bell, foldl_fst_bell, core_eq_bell]; done)
    | (with_reducible rw [foldl_bell])
    | (rw [core_eq_bell])
    | (with_reducible exact hereFront_bell _ _ _ _ _ (by assumption))
    | (simp only [])
    | (with_reducible refine bell_ite _ _ _ _ ?_ ?_)
    | (with_reducible refine bell_ite_fst _ _ _ _ ?_ ?_)
    | (with_reducible refine bell_ite_snd _ _ _ _ ?_ ?_)
    | (intro _ _)
    | (simp +zetaDelta)
    | split

@[simp ↓] theorem scansLost_bell (s : State) :
    (bellOf (scansLost s)) = (bellOf s) := by
  unfold scansLost
  repeat' first
    | with_reducible rfl
    | (simp +zetaDelta [foldl_bell, foldl_snd_bell, foldl_fst_bell, core_eq_bell]; done)
    | (with_reducible rw [foldl_bell])
    | (rw [core_eq_bell])
    | (with_reducible exact hereFront_bell _ _ _ _ _ (by assumption))
    | (simp only [])
    | (with_reducible refine bell_ite _ _ _ _ ?_ ?_)
    | (with_reducible refine bell_ite_fst _ _ _ _ ?_ ?_)
    | (with_reducible refine bell_ite_snd _ _ _ _ ?_ ?_)
    | (intro _ _)
    | (simp +zetaDelta)
    | split

@[simp ↓] theorem scansApply_bell (s0 : State) (quiet : List Nat) :
    (bellOf (scansApply s0 quiet)) = (bellOf s0) := by
  unfold scansApply
  repeat' first
    | with_reducible rfl
    | (simp +zetaDelta [foldl_bell, foldl_snd_bell, foldl_fst_bell, core_eq_bell]; done)
    | (with_reducible rw [foldl_bell])
    | (rw [core_eq_bell])
    | (with_reducible exact hereFront_bell _ _ _ _ _ (by assumption))
    | (simp only [])
    | (with_reducible refine bell_ite _ _ _ _ ?_ ?_)
    | (with_reducible refine bell_ite_fst _ _ _ _ ?_ ?_)
    | (with_reducible refine bell_ite_snd _ _ _ _ ?_ ?_)
    | (intro _ _)
    | (simp +zetaDelta)
    | split

@[simp ↓] theorem windowCopy_bell (s : State) (k p : Nat) :
    (bellOf (windowCopy s k p)) = (bellOf s) := by
  unfold windowCopy
  repeat' first
    | with_reducible rfl
    | (simp +zetaDelta [foldl_bell, foldl_snd_bell, foldl_fst_bell, core_eq_bell]; done)
    | (with_reducible rw [foldl_bell])
    | (rw [core_eq_bell])
    | (with_reducible exact hereFront_bell _ _ _ _ _ (by assumption))
    | (simp only [])
    | (with_reducible refine bell_ite _ _ _ _ ?_ ?_)
    | (with_reducible refine bell_ite_fst _ _ _ _ ?_ ?_)
    | (with_reducible refine bell_ite_snd _ _ _ _ ?_ ?_)
    | (intro _ _)
    | (simp +zetaDelta)
    | split

@[simp ↓] theorem switchOpen_bell (s : State) (c : Change) :
    (bellOf (switchOpen s c)) = (bellOf s) := by
  unfold switchOpen
  repeat' first
    | with_reducible rfl
    | (simp +zetaDelta [foldl_bell, foldl_snd_bell, foldl_fst_bell, core_eq_bell]; done)
    | (with_reducible rw [foldl_bell])
    | (rw [core_eq_bell])
    | (with_reducible exact hereFront_bell _ _ _ _ _ (by assumption))
    | (simp only [])
    | (with_reducible refine bell_ite _ _ _ _ ?_ ?_)
    | (with_reducible refine bell_ite_fst _ _ _ _ ?_ ?_)
    | (with_reducible refine bell_ite_snd _ _ _ _ ?_ ?_)
    | (intro _ _)
    | (simp +zetaDelta)
    | split

@[simp ↓] theorem noticeApply_bell (s : State) :
    (bellOf (noticeApply s)) = (bellOf s) := by
  unfold noticeApply
  repeat' first
    | with_reducible rfl
    | (simp +zetaDelta [foldl_bell, foldl_snd_bell, foldl_fst_bell, core_eq_bell]; done)
    | (with_reducible rw [foldl_bell])
    | (rw [core_eq_bell])
    | (with_reducible exact hereFront_bell _ _ _ _ _ (by assumption))
    | (simp only [])
    | (with_reducible refine bell_ite _ _ _ _ ?_ ?_)
    | (with_reducible refine bell_ite_fst _ _ _ _ ?_ ?_)
    | (with_reducible refine bell_ite_snd _ _ _ _ ?_ ?_)
    | (intro _ _)
    | (simp +zetaDelta)
    | split

@[simp ↓] theorem routeSwitch_bell (s : State) :
    (bellOf (routeSwitch s)) = (bellOf s) := by
  unfold routeSwitch
  repeat' first
    | with_reducible rfl
    | (simp +zetaDelta [foldl_bell, foldl_snd_bell, foldl_fst_bell, core_eq_bell]; done)
    | (with_reducible rw [foldl_bell])
    | (rw [core_eq_bell])
    | (with_reducible exact hereFront_bell _ _ _ _ _ (by assumption))
    | (simp only [])
    | (with_reducible refine bell_ite _ _ _ _ ?_ ?_)
    | (with_reducible refine bell_ite_fst _ _ _ _ ?_ ?_)
    | (with_reducible refine bell_ite_snd _ _ _ _ ?_ ?_)
    | (intro _ _)
    | (simp +zetaDelta)
    | split

@[simp ↓] theorem millPostLot_bell (s : State) (n : Nat) (l : Lot) (desc : List Byte) :
    (bellOf (millPostLot s n l desc)) = (bellOf s) := by
  unfold millPostLot
  repeat' first
    | with_reducible rfl
    | (simp +zetaDelta [foldl_bell, foldl_snd_bell, foldl_fst_bell, core_eq_bell]; done)
    | (with_reducible rw [foldl_bell])
    | (rw [core_eq_bell])
    | (with_reducible exact hereFront_bell _ _ _ _ _ (by assumption))
    | (simp only [])
    | (with_reducible refine bell_ite _ _ _ _ ?_ ?_)
    | (with_reducible refine bell_ite_fst _ _ _ _ ?_ ?_)
    | (with_reducible refine bell_ite_snd _ _ _ _ ?_ ?_)
    | (intro _ _)
    | (simp +zetaDelta)
    | split

@[simp ↓] theorem millPosts_bell (s : State) :
    (bellOf (millPosts s)) = (bellOf s) := by
  unfold millPosts
  repeat' first
    | with_reducible rfl
    | (simp +zetaDelta [foldl_bell, foldl_snd_bell, foldl_fst_bell, core_eq_bell]; done)
    | (with_reducible rw [foldl_bell])
    | (rw [core_eq_bell])
    | (with_reducible exact hereFront_bell _ _ _ _ _ (by assumption))
    | (simp only [])
    | (with_reducible refine bell_ite _ _ _ _ ?_ ?_)
    | (with_reducible refine bell_ite_fst _ _ _ _ ?_ ?_)
    | (with_reducible refine bell_ite_snd _ _ _ _ ?_ ?_)
    | (intro _ _)
    | (simp +zetaDelta)
    | split

@[simp ↓] theorem scrubLine_bell (s : State) (p line : Nat) :
    (bellOf (scrubLine s p line)) = (bellOf s) := by
  unfold scrubLine
  repeat' first
    | with_reducible rfl
    | (simp +zetaDelta [foldl_bell, foldl_snd_bell, foldl_fst_bell, core_eq_bell]; done)
    | (with_reducible rw [foldl_bell])
    | (rw [core_eq_bell])
    | (with_reducible exact hereFront_bell _ _ _ _ _ (by assumption))
    | (simp only [])
    | (with_reducible refine bell_ite _ _ _ _ ?_ ?_)
    | (with_reducible refine bell_ite_fst _ _ _ _ ?_ ?_)
    | (with_reducible refine bell_ite_snd _ _ _ _ ?_ ?_)
    | (intro _ _)
    | (simp +zetaDelta)
    | split

@[simp ↓] theorem scrubGuard_bell (s : State) (p : Nat) :
    (bellOf (scrubGuard s p)) = (bellOf s) := by
  unfold scrubGuard
  repeat' first
    | with_reducible rfl
    | (simp +zetaDelta [foldl_bell, foldl_snd_bell, foldl_fst_bell, core_eq_bell]; done)
    | (with_reducible rw [foldl_bell])
    | (rw [core_eq_bell])
    | (with_reducible exact hereFront_bell _ _ _ _ _ (by assumption))
    | (simp only [])
    | (with_reducible refine bell_ite _ _ _ _ ?_ ?_)
    | (with_reducible refine bell_ite_fst _ _ _ _ ?_ ?_)
    | (with_reducible refine bell_ite_snd _ _ _ _ ?_ ?_)
    | (intro _ _)
    | (simp +zetaDelta)
    | split

@[simp ↓] theorem marksTaken_bell (s : State) (p : Nat) :
    (bellOf (marksTaken s p)) = (bellOf s) := by
  unfold marksTaken
  repeat' first
    | with_reducible rfl
    | (simp +zetaDelta [foldl_bell, foldl_snd_bell, foldl_fst_bell, core_eq_bell]; done)
    | (with_reducible rw [foldl_bell])
    | (rw [core_eq_bell])
    | (with_reducible exact hereFront_bell _ _ _ _ _ (by assumption))
    | (simp only [])
    | (with_reducible refine bell_ite _ _ _ _ ?_ ?_)
    | (with_reducible refine bell_ite_fst _ _ _ _ ?_ ?_)
    | (with_reducible refine bell_ite_snd _ _ _ _ ?_ ?_)
    | (intro _ _)
    | (simp +zetaDelta)
    | split

@[simp ↓] theorem guardFix_bell (s : State) (p : Nat) :
    (bellOf (guardFix s p)) = (bellOf s) := by
  unfold guardFix
  repeat' first
    | with_reducible rfl
    | (simp +zetaDelta [foldl_bell, foldl_snd_bell, foldl_fst_bell, core_eq_bell]; done)
    | (with_reducible rw [foldl_bell])
    | (rw [core_eq_bell])
    | (with_reducible exact hereFront_bell _ _ _ _ _ (by assumption))
    | (simp only [])
    | (with_reducible refine bell_ite _ _ _ _ ?_ ?_)
    | (with_reducible refine bell_ite_fst _ _ _ _ ?_ ?_)
    | (with_reducible refine bell_ite_snd _ _ _ _ ?_ ?_)
    | (intro _ _)
    | (simp +zetaDelta)
    | split

@[simp ↓] theorem guardTile_bell (s0 : State) (p : Nat) :
    (bellOf (guardTile s0 p)) = (bellOf s0) := by
  unfold guardTile
  repeat' first
    | with_reducible rfl
    | (simp +zetaDelta [foldl_bell, foldl_snd_bell, foldl_fst_bell, core_eq_bell]; done)
    | (with_reducible rw [foldl_bell])
    | (rw [core_eq_bell])
    | (with_reducible exact hereFront_bell _ _ _ _ _ (by assumption))
    | (simp only [])
    | (with_reducible refine bell_ite _ _ _ _ ?_ ?_)
    | (with_reducible refine bell_ite_fst _ _ _ _ ?_ ?_)
    | (with_reducible refine bell_ite_snd _ _ _ _ ?_ ?_)
    | (intro _ _)
    | (simp +zetaDelta)
    | split

@[simp ↓] theorem millsAbandon_bell (s : State) (n : Nat) (l : Lot) :
    (bellOf (millsAbandon s n l)) = (bellOf s) := by
  unfold millsAbandon
  repeat' first
    | with_reducible rfl
    | (simp +zetaDelta [foldl_bell, foldl_snd_bell, foldl_fst_bell, core_eq_bell]; done)
    | (with_reducible rw [foldl_bell])
    | (rw [core_eq_bell])
    | (with_reducible exact hereFront_bell _ _ _ _ _ (by assumption))
    | (simp only [])
    | (with_reducible refine bell_ite _ _ _ _ ?_ ?_)
    | (with_reducible refine bell_ite_fst _ _ _ _ ?_ ?_)
    | (with_reducible refine bell_ite_snd _ _ _ _ ?_ ?_)
    | (intro _ _)
    | (simp +zetaDelta)
    | split

@[simp ↓] theorem millsLate_bell (s : State) (n : Nat) :
    (bellOf (millsLate s n)) = (bellOf s) := by
  unfold millsLate
  repeat' first
    | with_reducible rfl
    | (simp +zetaDelta [foldl_bell, foldl_snd_bell, foldl_fst_bell, core_eq_bell]; done)
    | (with_reducible rw [foldl_bell])
    | (rw [core_eq_bell])
    | (with_reducible exact hereFront_bell _ _ _ _ _ (by assumption))
    | (simp only [])
    | (with_reducible refine bell_ite _ _ _ _ ?_ ?_)
    | (with_reducible refine bell_ite_fst _ _ _ _ ?_ ?_)
    | (with_reducible refine bell_ite_snd _ _ _ _ ?_ ?_)
    | (intro _ _)
    | (simp +zetaDelta)
    | split

@[simp ↓] theorem stopsReset_bell (l : List (Nat × Nat)) (s : State) :
    (bellOf (stopsReset l s)) = (bellOf s) := by
  unfold stopsReset
  repeat' first
    | with_reducible rfl
    | (simp +zetaDelta [foldl_bell, foldl_snd_bell, foldl_fst_bell, core_eq_bell]; done)
    | (with_reducible rw [foldl_bell])
    | (rw [core_eq_bell])
    | (with_reducible exact hereFront_bell _ _ _ _ _ (by assumption))
    | (simp only [])
    | (with_reducible refine bell_ite _ _ _ _ ?_ ?_)
    | (with_reducible refine bell_ite_fst _ _ _ _ ?_ ?_)
    | (with_reducible refine bell_ite_snd _ _ _ _ ?_ ?_)
    | (intro _ _)
    | (simp +zetaDelta)
    | split

@[simp ↓] theorem cancelReset_bell (s : State) (n : Nat) :
    (bellOf (cancelReset s n)) = (bellOf s) := by
  unfold cancelReset
  repeat' first
    | with_reducible rfl
    | (simp +zetaDelta [foldl_bell, foldl_snd_bell, foldl_fst_bell, core_eq_bell]; done)
    | (with_reducible rw [foldl_bell])
    | (rw [core_eq_bell])
    | (with_reducible exact hereFront_bell _ _ _ _ _ (by assumption))
    | (simp only [])
    | (with_reducible refine bell_ite _ _ _ _ ?_ ?_)
    | (with_reducible refine bell_ite_fst _ _ _ _ ?_ ?_)
    | (with_reducible refine bell_ite_snd _ _ _ _ ?_ ?_)
    | (intro _ _)
    | (simp +zetaDelta)
    | split

@[simp ↓] theorem abandonedEnd_bell (s : State) (n : Nat) :
    (bellOf (abandonedEnd s n)) = (bellOf s) := by
  unfold abandonedEnd
  repeat' first
    | with_reducible rfl
    | (simp +zetaDelta [foldl_bell, foldl_snd_bell, foldl_fst_bell, core_eq_bell]; done)
    | (with_reducible rw [foldl_bell])
    | (rw [core_eq_bell])
    | (with_reducible exact hereFront_bell _ _ _ _ _ (by assumption))
    | (simp only [])
    | (with_reducible refine bell_ite _ _ _ _ ?_ ?_)
    | (with_reducible refine bell_ite_fst _ _ _ _ ?_ ?_)
    | (with_reducible refine bell_ite_snd _ _ _ _ ?_ ?_)
    | (intro _ _)
    | (simp +zetaDelta)
    | split

@[simp ↓] theorem barrierDiscard_bell (s : State) (p : Nat) :
    (bellOf (barrierDiscard s p)) = (bellOf s) := by
  unfold barrierDiscard
  repeat' first
    | with_reducible rfl
    | (simp +zetaDelta [foldl_bell, foldl_snd_bell, foldl_fst_bell, core_eq_bell]; done)
    | (with_reducible rw [foldl_bell])
    | (rw [core_eq_bell])
    | (with_reducible exact hereFront_bell _ _ _ _ _ (by assumption))
    | (simp only [])
    | (with_reducible refine bell_ite _ _ _ _ ?_ ?_)
    | (with_reducible refine bell_ite_fst _ _ _ _ ?_ ?_)
    | (with_reducible refine bell_ite_snd _ _ _ _ ?_ ?_)
    | (intro _ _)
    | (simp +zetaDelta)
    | split

@[simp ↓] theorem tileBell_bell (s : State) (p : Nat) :
    (bellOf (tileBell s p)) = (bellOf s) := by
  unfold tileBell
  repeat' first
    | with_reducible rfl
    | (simp +zetaDelta [foldl_bell, foldl_snd_bell, foldl_fst_bell, core_eq_bell]; done)
    | (with_reducible rw [foldl_bell])
    | (rw [core_eq_bell])
    | (with_reducible exact hereFront_bell _ _ _ _ _ (by assumption))
    | (simp only [])
    | (with_reducible refine bell_ite _ _ _ _ ?_ ?_)
    | (with_reducible refine bell_ite_fst _ _ _ _ ?_ ?_)
    | (with_reducible refine bell_ite_snd _ _ _ _ ?_ ?_)
    | (intro _ _)
    | (simp +zetaDelta)
    | split

@[simp ↓] theorem ctxTake_bell (s : State) (n : Nat) :
    (bellOf (ctxTake s n)) = (bellOf s) := by
  unfold ctxTake
  repeat' first
    | with_reducible rfl
    | (simp +zetaDelta [foldl_bell, foldl_snd_bell, foldl_fst_bell, core_eq_bell]; done)
    | (with_reducible rw [foldl_bell])
    | (rw [core_eq_bell])
    | (with_reducible exact hereFront_bell _ _ _ _ _ (by assumption))
    | (simp only [])
    | (with_reducible refine bell_ite _ _ _ _ ?_ ?_)
    | (with_reducible refine bell_ite_fst _ _ _ _ ?_ ?_)
    | (with_reducible refine bell_ite_snd _ _ _ _ ?_ ?_)
    | (intro _ _)
    | (simp +zetaDelta)
    | split

@[simp ↓] theorem lotStart_bell (s : State) (n : Nat) (l : Lot) :
    (bellOf (lotStart s n l)) = (bellOf s) := by
  unfold lotStart
  repeat' first
    | with_reducible rfl
    | (simp +zetaDelta [foldl_bell, foldl_snd_bell, foldl_fst_bell, core_eq_bell]; done)
    | (with_reducible rw [foldl_bell])
    | (rw [core_eq_bell])
    | (with_reducible exact hereFront_bell _ _ _ _ _ (by assumption))
    | (simp only [])
    | (with_reducible refine bell_ite _ _ _ _ ?_ ?_)
    | (with_reducible refine bell_ite_fst _ _ _ _ ?_ ?_)
    | (with_reducible refine bell_ite_snd _ _ _ _ ?_ ?_)
    | (intro _ _)
    | (simp +zetaDelta)
    | split

@[simp ↓] theorem lotsStart_bell (s : State) :
    (bellOf (lotsStart s)) = (bellOf s) := by
  unfold lotsStart
  repeat' first
    | with_reducible rfl
    | (simp +zetaDelta [foldl_bell, foldl_snd_bell, foldl_fst_bell, core_eq_bell]; done)
    | (with_reducible rw [foldl_bell])
    | (rw [core_eq_bell])
    | (with_reducible exact hereFront_bell _ _ _ _ _ (by assumption))
    | (simp only [])
    | (with_reducible refine bell_ite _ _ _ _ ?_ ?_)
    | (with_reducible refine bell_ite_fst _ _ _ _ ?_ ?_)
    | (with_reducible refine bell_ite_snd _ _ _ _ ?_ ?_)
    | (intro _ _)
    | (simp +zetaDelta)
    | split

@[simp ↓] theorem assayBell_bell (s : State) (n : Nat) :
    (bellOf (assayBell s n)) = (bellOf s) := by
  unfold assayBell
  repeat' first
    | with_reducible rfl
    | (simp +zetaDelta [foldl_bell, foldl_snd_bell, foldl_fst_bell, core_eq_bell]; done)
    | (with_reducible rw [foldl_bell])
    | (rw [core_eq_bell])
    | (with_reducible exact hereFront_bell _ _ _ _ _ (by assumption))
    | (simp only [])
    | (with_reducible refine bell_ite _ _ _ _ ?_ ?_)
    | (with_reducible refine bell_ite_fst _ _ _ _ ?_ ?_)
    | (with_reducible refine bell_ite_snd _ _ _ _ ?_ ?_)
    | (intro _ _)
    | (simp +zetaDelta)
    | split

@[simp ↓] theorem lotsOver_bell (s : State) :
    (bellOf (lotsOver s)) = (bellOf s) := by
  unfold lotsOver
  repeat' first
    | with_reducible rfl
    | (simp +zetaDelta [foldl_bell, foldl_snd_bell, foldl_fst_bell, core_eq_bell]; done)
    | (with_reducible rw [foldl_bell])
    | (rw [core_eq_bell])
    | (with_reducible exact hereFront_bell _ _ _ _ _ (by assumption))
    | (simp only [])
    | (with_reducible refine bell_ite _ _ _ _ ?_ ?_)
    | (with_reducible refine bell_ite_fst _ _ _ _ ?_ ?_)
    | (with_reducible refine bell_ite_snd _ _ _ _ ?_ ?_)
    | (intro _ _)
    | (simp +zetaDelta)
    | split

@[simp ↓] theorem tilesBell_bell (s : State) (cc : Nat) :
    (bellOf (tilesBell s cc)) = (bellOf s) := by
  unfold tilesBell
  repeat' first
    | with_reducible rfl
    | (simp +zetaDelta [foldl_bell, foldl_snd_bell, foldl_fst_bell, core_eq_bell]; done)
    | (with_reducible rw [foldl_bell])
    | (rw [core_eq_bell])
    | (with_reducible exact hereFront_bell _ _ _ _ _ (by assumption))
    | (simp only [])
    | (with_reducible refine bell_ite _ _ _ _ ?_ ?_)
    | (with_reducible refine bell_ite_fst _ _ _ _ ?_ ?_)
    | (with_reducible refine bell_ite_snd _ _ _ _ ?_ ?_)
    | (intro _ _)
    | (simp +zetaDelta)
    | split

@[simp ↓] theorem edgesBell_bell (s : State) :
    (bellOf (edgesBell s)) = (bellOf s) := by
  unfold edgesBell
  repeat' first
    | with_reducible rfl
    | (simp +zetaDelta [foldl_bell, foldl_snd_bell, foldl_fst_bell, core_eq_bell]; done)
    | (with_reducible rw [foldl_bell])
    | (rw [core_eq_bell])
    | (with_reducible exact hereFront_bell _ _ _ _ _ (by assumption))
    | (simp only [])
    | (with_reducible refine bell_ite _ _ _ _ ?_ ?_)
    | (with_reducible refine bell_ite_fst _ _ _ _ ?_ ?_)
    | (with_reducible refine bell_ite_snd _ _ _ _ ?_ ?_)
    | (intro _ _)
    | (simp +zetaDelta)
    | split

@[simp ↓] theorem traceBell_bell (s : State) :
    (bellOf (traceBell s)) = (bellOf s) := by
  unfold traceBell
  repeat' first
    | with_reducible rfl
    | (simp +zetaDelta [foldl_bell, foldl_snd_bell, foldl_fst_bell, core_eq_bell]; done)
    | (with_reducible rw [foldl_bell])
    | (rw [core_eq_bell])
    | (with_reducible exact hereFront_bell _ _ _ _ _ (by assumption))
    | (simp only [])
    | (with_reducible refine bell_ite _ _ _ _ ?_ ?_)
    | (with_reducible refine bell_ite_fst _ _ _ _ ?_ ?_)
    | (with_reducible refine bell_ite_snd _ _ _ _ ?_ ?_)
    | (intro _ _)
    | (simp +zetaDelta)
    | split

@[simp ↓] theorem replayCut_bell (s : State) (n : Nat) :
    (bellOf (replayCut s n)) = (bellOf s) := by
  unfold replayCut
  repeat' first
    | with_reducible rfl
    | (simp +zetaDelta [foldl_bell, foldl_snd_bell, foldl_fst_bell, core_eq_bell]; done)
    | (with_reducible rw [foldl_bell])
    | (rw [core_eq_bell])
    | (with_reducible exact hereFront_bell _ _ _ _ _ (by assumption))
    | (simp only [])
    | (with_reducible refine bell_ite _ _ _ _ ?_ ?_)
    | (with_reducible refine bell_ite_fst _ _ _ _ ?_ ?_)
    | (with_reducible refine bell_ite_snd _ _ _ _ ?_ ?_)
    | (intro _ _)
    | (simp +zetaDelta)
    | split

@[simp ↓] theorem overrunStop_bell (hung : List Nat) (s : State) (n : Nat) :
    (bellOf (overrunStop hung s n)) = (bellOf s) := by
  unfold overrunStop
  repeat' first
    | with_reducible rfl
    | (simp +zetaDelta [foldl_bell, foldl_snd_bell, foldl_fst_bell, core_eq_bell]; done)
    | (with_reducible rw [foldl_bell])
    | (rw [core_eq_bell])
    | (with_reducible exact hereFront_bell _ _ _ _ _ (by assumption))
    | (simp only [])
    | (with_reducible refine bell_ite _ _ _ _ ?_ ?_)
    | (with_reducible refine bell_ite_fst _ _ _ _ ?_ ?_)
    | (with_reducible refine bell_ite_snd _ _ _ _ ?_ ?_)
    | (intro _ _)
    | (simp +zetaDelta)
    | split

@[simp ↓] theorem modAsm_bell (s : State) (f : List Asm → List Asm) :
    bellOf (modAsm s f) = bellOf s := Eq.trans rfl rfl

@[simp ↓] theorem modJtag_bell (s : State) (f : Jtag → Jtag) :
    bellOf (modJtag s f) = bellOf s := Eq.trans rfl rfl

/-! ## Time, and the bell -/

/-- What time does to the counts: the interval count and the cycles go on together. -/
theorem advanceTo_bell (s : State) (cc : Nat) :
    bellOf (advanceTo s cc) = (s.clk.bell, max s.clk.intvCc cc, s.clk.cycles + (cc - s.clk.intvCc), s.clk.guard, s.clk.holding,
      s.clk.localHold, s.clk.expectDelay, s.clk.expected) := Eq.trans rfl rfl

/-- The bell itself. -/
theorem clkBell_bell (s : State) :
    bellOf (clkBell s) = (s.clk.bell + 1, 0, s.clk.cycles, false, false, s.clk.localHold, 0, false) := by
  unfold clkBell
  simp only []
  refine bell_ite _ _ _ _ ?_ (Eq.trans rfl rfl)
  rw [keysWrite_bell, modClk_bell]
  · rw [foldl_bell]
    · exact Eq.trans rfl rfl
    · intro s b
      simp
  · rfl

/-- The emergency extension is none of the counts. -/
theorem modClk_ext_bell (s : State) (x : Nat) : bellOf (modClk s (fun c => { c with extCc := x })) = bellOf s := Eq.trans rfl rfl

/-- What a bell does to the counts: the number goes up by one, the interval starts at 0, the guard is over. -/
theorem fireBell_bell (fails : List Nat) (s : State) :
    bellOf (fireBell fails s) = (s.clk.bell + 1, 0, s.clk.cycles, false, false, s.clk.localHold, 0, false) := by
  unfold fireBell
  simp only []
  have h (q : State) : bellOf q = bellOf s → bellOf (clkBell q)
      = (s.clk.bell + 1, 0, s.clk.cycles, false, false, s.clk.localHold, 0, false) := by
    intro h
    rw [clkBell_bell]
    have h' : coreOf q.clk = coreOf s.clk := h
    simp only [coreOf, Prod.mk.injEq] at h'
    simp [h'.1, h'.2.2.1, h'.2.2.2.2.2.1]
  rw [traceBell_bell, leaveCheck_bell, edgesBell_bell, tilesBell_bell, windowsAt_bell, foldl_bell _ assayBell_bell, lotsStart_bell,
    modClk_ext_bell, haltsApply_bell, foldl_bell _ resumeCtx_bell, scansApply_bell, changesApply_bell,
    foldl_bell _ cancelReset_bell, stopsReset_bell, lotsOver_bell, foldl_bell _ ctxTake_bell, foldl_bell _ abandonedEnd_bell,
    foldl_bell]
  · apply h
    rw [foldl_bell _ barrierDiscard_bell, foldl_bell _ millsLate_bell, foldl_bell]
    intro s b
    simp
  · intro s b
    simp

/-- The guard opens: nothing but its own mark and the time change the counts. -/
theorem guardStart_bell (s t : State) (hg : s.clk.guard = false) (hp : bellOn s = true) (h : execBellGuardStart s = .next t) :
    bellOf t = (s.clk.bell, max s.clk.intvCc (guardAt s),
      s.clk.cycles + (guardAt s - s.clk.intvCc), true, s.clk.holding, s.clk.localHold,
      s.clk.expectDelay, s.clk.expected) := by
  unfold execBellGuardStart at h
  rw [hg, hp] at h
  simp only [Bool.not_true, Bool.or_self, Bool.false_eq_true, if_false] at h
  cases h
  rw [withHealth_bell, foldl_bell _ (fun s p => (scrubGuard_bell _ p).trans (marksTaken_bell s p)), migGuards_bell, millPosts_bell,
    watchTake_bell, routeSwitch_bell, changesEval_bell, noticeApply_bell, foldl_bell _ guardTile_bell]
  exact Eq.trans rfl rfl

end Sys2Proof.Machine
end

