-- ==== Sys2Proof/Laws/Flit.lean ====
section
/-! SUPPORT. A flit as a port builds it is whole; one with another check value is not. -/

namespace Sys2Proof.Machine

/-- The running check stays below 2 ^ 32. -/
theorem crcBit_lt (poly c : Nat) (hp : poly < 2 ^ 32) (h : c < 2 ^ 32) : crcBit poly c < 2 ^ 32 := by
  unfold crcBit; split
  · exact Nat.xor_lt_two_pow (by omega) hp
  · omega
theorem crcRun_lt (poly : Nat) (hp : poly < 2 ^ 32) (bs : List Byte) :
    ∀ c, c < 2 ^ 32 → crcRun poly c bs < 2 ^ 32 := by
  induction bs with
  | nil => exact fun c h => h
  | cons b t ih =>
    intro c h
    have hx : Nat.xor c b.toNat < 2 ^ 32 := Nat.xor_lt_two_pow h (by have := b.isLt; omega)
    exact ih _ (by simp only [crcByte]; repeat (first | exact hx | apply crcBit_lt _ _ hp))
theorem crc32_lt (bs : List Byte) : crc32 bs < 2 ^ 32 :=
  Nat.xor_lt_two_pow (crcRun_lt _ (by decide) bs _ (by decide)) (by decide)
/-- A flit as a port builds it is whole (R310, R311). -/
theorem flitOf_whole (q : Port) (type cls seq first : Nat) (body : List Byte) :
    flitGood (flitOf q type cls seq first body) = true := by
  have key : ∀ (bs : List Byte), bs.length = 252 → flitGood (bs ++ toLe 4 (crc32 bs)) = true := by
    intro bs h
    have hs : fld (bs ++ toLe 4 (crc32 bs)) 252 4 = crc32 bs := by
      have : slice (bs ++ toLe 4 (crc32 bs)) 252 4 = toLe 4 (crc32 bs) := by
        simp [slice, ← h]
      rw [fld, this, leNat_toLe]; exact Nat.mod_eq_of_lt (crc32_lt bs)
    have ht : (bs ++ toLe 4 (crc32 bs)).take 252 = bs := by simp [← h]
    simp [flitGood, hs, ht, h]
  exact key _ (by simp)

/-- A flit of the right length with another check value fails it. -/
theorem flit_badCrc (bs : List Byte) (h : bs.length = 252) : flitGood (bs ++ toLe 4 (crc32 bs + 1)) = false := by
  have hs : fld (bs ++ toLe 4 (crc32 bs + 1)) 252 4 = (crc32 bs + 1) % 2 ^ 32 := by
    have : slice (bs ++ toLe 4 (crc32 bs + 1)) 252 4 = toLe 4 (crc32 bs + 1) := by simp [slice, ← h]
    rw [fld, this, leNat_toLe]; rfl
  have ht : (bs ++ toLe 4 (crc32 bs + 1)).take 252 = bs := by simp [← h]
  have hl := crc32_lt bs
  have hne : crc32 bs ≠ (crc32 bs + 1) % 2 ^ 32 := by omega
  simp [flitGood, hs, ht, h]; omega

end Sys2Proof.Machine
end

