-- ==== Sys2Proof/Laws/Queue.lean ====
section
/-! SUPPORT. What it means that an operation keeps the queue of waiting commands, and the shapes it is proved by. -/

namespace Sys2Proof.Machine

/-- The queue of waiting commands. A definition of its own, so that two states are compared by the operation that made them. -/
def queueOf (s : State) : List Instr := s.pending

theorem pending_eq_queue (s : State) : s.pending = queueOf s := Eq.trans rfl rfl

/-- The queue of a record update. -/
@[simp ↓] theorem queueOf_mk (pending : List Instr) (fresh : Nat) (clk : Clk) (pins : Pins) (tiles : Kv Tile) (rows : Kv Row)
    (parts : Kv Part) (mems : Kv Stack) (ports : Kv Port) (dram : Mem) (bolts : Kv BoltMeta) (link : Link) (power : Power)
    (start : Start) (reeve : Reeve) (hst : Hst) (side : Side) (jtag : Jtag) (out : List Out) :
    queueOf ⟨pending, fresh, clk, pins, tiles, rows, parts, mems, ports, dram, bolts, link, power, start, reeve, hst, side,
      jtag, out⟩ = pending := Eq.trans rfl rfl

/-- An outcome leaves the queue as it stands. -/
def Keeps (q : List Instr) : Res → Prop
  | .next t => queueOf t = q
  | _ => True

@[simp ↓] theorem keeps_next (q : List Instr) (t : State) : Keeps q (.next t) ↔ queueOf t = q := ⟨id, id⟩
@[simp ↓] theorem keeps_refused (q : List Instr) (r : Refusal) : Keeps q (.refused r) := trivial
@[simp ↓] theorem keeps_ite (q : List Instr) (c : Prop) [Decidable c] (a b : Res) (ha : Keeps q a) (hb : Keeps q b) :
    Keeps q (if c then a else b) := by split <;> assumption

@[simp ↓] theorem queue_ite (c : Prop) [Decidable c] (a b : State) (q : List Instr) (ha : queueOf a = q) (hb : queueOf b = q) :
    queueOf (if c then a else b) = q := by split <;> assumption

@[simp ↓] theorem queue_ite_fst {β : Type} (c : Prop) [Decidable c] (a b : State × β) (q : List Instr) (ha : queueOf a.1 = q)
    (hb : queueOf b.1 = q) : queueOf (if c then a else b).1 = q := by split <;> assumption

@[simp ↓] theorem queue_ite_snd {β : Type} (c : Prop) [Decidable c] (a b : β × State) (q : List Instr) (ha : queueOf a.2 = q)
    (hb : queueOf b.2 = q) : queueOf (if c then a else b).2 = q := by split <;> assumption

/-- A fold of operations that keep the queue keeps it. -/
theorem foldl_queue {β : Type} (g : State → β → State) (h : ∀ s b, queueOf (g s b) = queueOf s) (l : List β) (s : State) :
    queueOf (l.foldl g s) = queueOf s := by
  induction l generalizing s with
  | nil => rfl
  | cons b t ih => rw [List.foldl_cons, ih, h]

/-- The same for a fold that carries something beside the state. -/
theorem foldl_snd_queue {γ β : Type} (g : γ × State → β → γ × State) (h : ∀ x b, queueOf (g x b).2 = queueOf x.2)
    (l : List β) (x : γ × State) : queueOf (l.foldl g x).2 = queueOf x.2 := by
  induction l generalizing x with
  | nil => rfl
  | cons b t ih => rw [List.foldl_cons, ih, h]

/-- The same with the state first. -/
theorem foldl_fst_queue {γ β : Type} (g : State × γ → β → State × γ) (h : ∀ x b, queueOf (g x b).1 = queueOf x.1)
    (l : List β) (x : State × γ) : queueOf (l.foldl g x).1 = queueOf x.1 := by
  induction l generalizing x with
  | nil => rfl
  | cons b t ih => rw [List.foldl_cons, ih, h]

@[simp ↓] theorem setTile_queue (s : State) (p : Nat) (t : Tile) :
    queueOf (setTile s p t) = queueOf s := Eq.trans rfl rfl

@[simp ↓] theorem modTile_queue (s : State) (p : Nat) (f : Tile → Tile) :
    queueOf (modTile s p f) = queueOf s := Eq.trans rfl rfl

@[simp ↓] theorem modRow_queue (s : State) (r : Nat) (f : Row → Row) :
    queueOf (modRow s r f) = queueOf s := Eq.trans rfl rfl

@[simp ↓] theorem modPart_queue (s : State) (n : Nat) (f : Part → Part) :
    queueOf (modPart s n f) = queueOf s := Eq.trans rfl rfl

@[simp ↓] theorem modStack_queue (s : State) (k : Nat) (f : Stack → Stack) :
    queueOf (modStack s k f) = queueOf s := Eq.trans rfl rfl

@[simp ↓] theorem modPort_queue (s : State) (p : Nat) (f : Port → Port) :
    queueOf (modPort s p f) = queueOf s := Eq.trans rfl rfl

@[simp ↓] theorem modClk_queue (s : State) (f : Clk → Clk) :
    queueOf (modClk s f) = queueOf s := Eq.trans rfl rfl

@[simp ↓] theorem modLink_queue (s : State) (f : Link → Link) :
    queueOf (modLink s f) = queueOf s := Eq.trans rfl rfl

@[simp ↓] theorem setDom_queue (s : State) (d : Nat) (v : DomSt) :
    queueOf (setDom s d v) = queueOf s := Eq.trans rfl rfl

@[simp ↓] theorem modReeve_queue (s : State) (f : Reeve → Reeve) :
    queueOf (modReeve s f) = queueOf s := Eq.trans rfl rfl

@[simp ↓] theorem modPage_queue (s : State) (n : Nat) (f : Page → Page) :
    queueOf (modPage s n f) = queueOf s := Eq.trans rfl rfl

@[simp ↓] theorem sendEvent_queue (s : State) (e : Event) :
    queueOf (sendEvent s e) = queueOf s := Eq.trans rfl rfl

@[simp ↓] theorem vecDue_queue (s : State) (v : Nat) :
    queueOf (vecDue s v) = queueOf s := Eq.trans rfl rfl

@[simp ↓] theorem modAsm_queue (s : State) (f : List Asm → List Asm) :
    queueOf (modAsm s f) = queueOf s := Eq.trans rfl rfl

@[simp ↓] theorem modJtag_queue (s : State) (f : Jtag → Jtag) :
    queueOf (modJtag s f) = queueOf s := Eq.trans rfl rfl

@[simp ↓] theorem putOut_queue (s : State) (kind addr : Nat) (data : List Byte) :
    queueOf (putOut s kind addr data) = queueOf s := Eq.trans rfl rfl

@[simp ↓] theorem persist_queue (s : State) (k v : Nat) :
    queueOf (persist s k v) = queueOf s := Eq.trans rfl rfl


end Sys2Proof.Machine
end

