-- ==== Sys2Proof/Laws/QueueA.lean ====
section
/-! SUPPORT. The operations and commands of Ops, Env, Route, Trace, Sequencer, Units keep the queue. -/

set_option linter.unusedSimpArgs false
set_option linter.unusedVariables false
set_option linter.unreachableTactic false
set_option linter.unusedTactic false

namespace Sys2Proof.Machine

/-! ## Sys2Proof/Machine/Ops.lean -/

@[simp ↓] theorem clockTick_queue (s : State) :
    (queueOf (clockTick s)) = (queueOf s) := by
  unfold clockTick
  repeat' first
    | with_reducible rfl
    | (simp +zetaDelta [foldl_queue, foldl_snd_queue, foldl_fst_queue, pending_eq_queue]; done)
    | (with_reducible rw [foldl_queue])
    | (rw [pending_eq_queue])
    | (simp only [])
    | (with_reducible refine queue_ite _ _ _ _ ?_ ?_)
    | (with_reducible refine queue_ite_fst _ _ _ _ ?_ ?_)
    | (with_reducible refine queue_ite_snd _ _ _ _ ?_ ?_)
    | (with_reducible refine keeps_ite _ _ _ _ ?_ ?_)
    | (intro _ _)
    | (simp +zetaDelta)
    | split

/-! ## Sys2Proof/Machine/Env.lean -/

@[simp ↓] theorem failLots_queue (s : State) (n code bell cc : Nat) :
    (queueOf (failLots s n code bell cc)) = (queueOf s) := by
  unfold failLots
  repeat' first
    | with_reducible rfl
    | (simp +zetaDelta [foldl_queue, foldl_snd_queue, foldl_fst_queue, pending_eq_queue]; done)
    | (with_reducible rw [foldl_queue])
    | (rw [pending_eq_queue])
    | (simp only [])
    | (with_reducible refine queue_ite _ _ _ _ ?_ ?_)
    | (with_reducible refine queue_ite_fst _ _ _ _ ?_ ?_)
    | (with_reducible refine queue_ite_snd _ _ _ _ ?_ ?_)
    | (with_reducible refine keeps_ite _ _ _ _ ?_ ?_)
    | (intro _ _)
    | (simp +zetaDelta)
    | split

@[simp ↓] theorem cutLots_queue (s : State) (n code bell cc : Nat) :
    (queueOf (cutLots s n code bell cc)) = (queueOf s) := by
  unfold cutLots
  repeat' first
    | with_reducible rfl
    | (simp +zetaDelta [foldl_queue, foldl_snd_queue, foldl_fst_queue, pending_eq_queue]; done)
    | (with_reducible rw [foldl_queue])
    | (rw [pending_eq_queue])
    | (simp only [])
    | (with_reducible refine queue_ite _ _ _ _ ?_ ?_)
    | (with_reducible refine queue_ite_fst _ _ _ _ ?_ ?_)
    | (with_reducible refine queue_ite_snd _ _ _ _ ?_ ?_)
    | (with_reducible refine keeps_ite _ _ _ _ ?_ ?_)
    | (intro _ _)
    | (simp +zetaDelta)
    | split

@[simp ↓] theorem reviseEvent_queue (s : State) (e : Event) :
    (queueOf (reviseEvent s e)) = (queueOf s) := by
  unfold reviseEvent
  repeat' first
    | with_reducible rfl
    | (simp +zetaDelta [foldl_queue, foldl_snd_queue, foldl_fst_queue, pending_eq_queue]; done)
    | (with_reducible rw [foldl_queue])
    | (rw [pending_eq_queue])
    | (simp only [])
    | (with_reducible refine queue_ite _ _ _ _ ?_ ?_)
    | (with_reducible refine queue_ite_fst _ _ _ _ ?_ ?_)
    | (with_reducible refine queue_ite_snd _ _ _ _ ?_ ?_)
    | (with_reducible refine keeps_ite _ _ _ _ ?_ ?_)
    | (intro _ _)
    | (simp +zetaDelta)
    | split

@[simp ↓] theorem badWrite_queue (s : State) (p : Nat) :
    (queueOf (badWrite s p)) = (queueOf s) := by
  unfold badWrite
  repeat' first
    | with_reducible rfl
    | (simp +zetaDelta [foldl_queue, foldl_snd_queue, foldl_fst_queue, pending_eq_queue]; done)
    | (with_reducible rw [foldl_queue])
    | (rw [pending_eq_queue])
    | (simp only [])
    | (with_reducible refine queue_ite _ _ _ _ ?_ ?_)
    | (with_reducible refine queue_ite_fst _ _ _ _ ?_ ?_)
    | (with_reducible refine queue_ite_snd _ _ _ _ ?_ ?_)
    | (with_reducible refine keeps_ite _ _ _ _ ?_ ?_)
    | (intro _ _)
    | (simp +zetaDelta)
    | split

@[simp ↓] theorem badHostWrite_queue (s : State) :
    (queueOf (badHostWrite s)) = (queueOf s) := by
  unfold badHostWrite
  repeat' first
    | with_reducible rfl
    | (simp +zetaDelta [foldl_queue, foldl_snd_queue, foldl_fst_queue, pending_eq_queue]; done)
    | (with_reducible rw [foldl_queue])
    | (rw [pending_eq_queue])
    | (simp only [])
    | (with_reducible refine queue_ite _ _ _ _ ?_ ?_)
    | (with_reducible refine queue_ite_fst _ _ _ _ ?_ ?_)
    | (with_reducible refine queue_ite_snd _ _ _ _ ?_ ?_)
    | (with_reducible refine keeps_ite _ _ _ _ ?_ ?_)
    | (intro _ _)
    | (simp +zetaDelta)
    | split

@[simp ↓] theorem applySigs_queue (s : State) (p : Nat) (l : List Sig) : (queueOf (applySigs s p l)) = (queueOf s) := by
  fun_induction applySigs s p l <;> first | rfl | (rename_i ih; exact ih) | (rename_i ih; exact ih.trans (by simp))

@[simp ↓] theorem applyCtx_queue (s : State) (c : Ctx) :
    (queueOf (applyCtx s c)) = (queueOf s) := by
  unfold applyCtx
  repeat' first
    | with_reducible rfl
    | (simp +zetaDelta [foldl_queue, foldl_snd_queue, foldl_fst_queue, pending_eq_queue]; done)
    | (with_reducible rw [foldl_queue])
    | (rw [pending_eq_queue])
    | (simp only [])
    | (with_reducible refine queue_ite _ _ _ _ ?_ ?_)
    | (with_reducible refine queue_ite_fst _ _ _ _ ?_ ?_)
    | (with_reducible refine queue_ite_snd _ _ _ _ ?_ ?_)
    | (with_reducible refine keeps_ite _ _ _ _ ?_ ?_)
    | (intro _ _)
    | (simp +zetaDelta)
    | split

@[simp ↓] theorem noteArrival_queue (s : State) (p kind target source cc : Nat) :
    (queueOf (noteArrival s p kind target source cc)) = (queueOf s) := by
  unfold noteArrival
  repeat' first
    | with_reducible rfl
    | (simp +zetaDelta [foldl_queue, foldl_snd_queue, foldl_fst_queue, pending_eq_queue]; done)
    | (with_reducible rw [foldl_queue])
    | (rw [pending_eq_queue])
    | (simp only [])
    | (with_reducible refine queue_ite _ _ _ _ ?_ ?_)
    | (with_reducible refine queue_ite_fst _ _ _ _ ?_ ?_)
    | (with_reducible refine queue_ite_snd _ _ _ _ ?_ ?_)
    | (with_reducible refine keeps_ite _ _ _ _ ?_ ?_)
    | (intro _ _)
    | (simp +zetaDelta)
    | split

@[simp ↓] theorem noteItem_queue (s : State) (p target source stamp cc : Nat) :
    (queueOf (noteItem s p target source stamp cc)) = (queueOf s) := by
  unfold noteItem
  repeat' first
    | with_reducible rfl
    | (simp +zetaDelta [foldl_queue, foldl_snd_queue, foldl_fst_queue, pending_eq_queue]; done)
    | (with_reducible rw [foldl_queue])
    | (rw [pending_eq_queue])
    | (simp only [])
    | (with_reducible refine queue_ite _ _ _ _ ?_ ?_)
    | (with_reducible refine queue_ite_fst _ _ _ _ ?_ ?_)
    | (with_reducible refine queue_ite_snd _ _ _ _ ?_ ?_)
    | (with_reducible refine keeps_ite _ _ _ _ ?_ ?_)
    | (intro _ _)
    | (simp +zetaDelta)
    | split

@[simp ↓] theorem failKey_queue (s : State) (key code : Nat) :
    (queueOf (failKey s key code)) = (queueOf s) := by
  unfold failKey
  repeat' first
    | with_reducible rfl
    | (simp +zetaDelta [foldl_queue, foldl_snd_queue, foldl_fst_queue, pending_eq_queue]; done)
    | (with_reducible rw [foldl_queue])
    | (rw [pending_eq_queue])
    | (simp only [])
    | (with_reducible refine queue_ite _ _ _ _ ?_ ?_)
    | (with_reducible refine queue_ite_fst _ _ _ _ ?_ ?_)
    | (with_reducible refine queue_ite_snd _ _ _ _ ?_ ?_)
    | (with_reducible refine keeps_ite _ _ _ _ ?_ ?_)
    | (intro _ _)
    | (simp +zetaDelta)
    | split

/-! ## Sys2Proof/Machine/Route.lean -/

@[simp ↓] theorem nextStamp_queue (s : State) : (queueOf ((nextStamp s).2)) = (queueOf s) := rfl

@[simp ↓] theorem modRouter_queue (s : State) (p : Nat) (f : Router → Router) :
    (queueOf (modRouter s p f)) = (queueOf s) := by
  unfold modRouter
  repeat' first
    | with_reducible rfl
    | (simp +zetaDelta [foldl_queue, foldl_snd_queue, foldl_fst_queue, pending_eq_queue]; done)
    | (with_reducible rw [foldl_queue])
    | (rw [pending_eq_queue])
    | (simp only [])
    | (with_reducible refine queue_ite _ _ _ _ ?_ ?_)
    | (with_reducible refine queue_ite_fst _ _ _ _ ?_ ?_)
    | (with_reducible refine queue_ite_snd _ _ _ _ ?_ ?_)
    | (with_reducible refine keeps_ite _ _ _ _ ?_ ?_)
    | (intro _ _)
    | (simp +zetaDelta)
    | split

@[simp ↓] theorem keyDrop_queue (s : State) (p port : Nat) (k : Packet) :
    (queueOf (keyDrop s p port k)) = (queueOf s) := by
  unfold keyDrop
  repeat' first
    | with_reducible rfl
    | (simp +zetaDelta [foldl_queue, foldl_snd_queue, foldl_fst_queue, pending_eq_queue]; done)
    | (with_reducible rw [foldl_queue])
    | (rw [pending_eq_queue])
    | (simp only [])
    | (with_reducible refine queue_ite _ _ _ _ ?_ ?_)
    | (with_reducible refine queue_ite_fst _ _ _ _ ?_ ?_)
    | (with_reducible refine queue_ite_snd _ _ _ _ ?_ ?_)
    | (with_reducible refine keeps_ite _ _ _ _ ?_ ?_)
    | (intro _ _)
    | (simp +zetaDelta)
    | split

@[simp ↓] theorem fillLocal_queue (s : State) (p : Nat) :
    (queueOf (fillLocal s p)) = (queueOf s) := by
  unfold fillLocal
  repeat' first
    | with_reducible rfl
    | (simp +zetaDelta [foldl_queue, foldl_snd_queue, foldl_fst_queue, pending_eq_queue]; done)
    | (with_reducible rw [foldl_queue])
    | (rw [pending_eq_queue])
    | (simp only [])
    | (with_reducible refine queue_ite _ _ _ _ ?_ ?_)
    | (with_reducible refine queue_ite_fst _ _ _ _ ?_ ?_)
    | (with_reducible refine queue_ite_snd _ _ _ _ ?_ ?_)
    | (with_reducible refine keeps_ite _ _ _ _ ?_ ?_)
    | (intro _ _)
    | (simp +zetaDelta)
    | split

@[simp ↓] theorem injectRaw_queue (s : State) (p : Nat) (ks : List Packet) :
    (queueOf (injectRaw s p ks)) = (queueOf s) := by
  unfold injectRaw
  repeat' first
    | with_reducible rfl
    | (simp +zetaDelta [foldl_queue, foldl_snd_queue, foldl_fst_queue, pending_eq_queue]; done)
    | (with_reducible rw [foldl_queue])
    | (rw [pending_eq_queue])
    | (simp only [])
    | (with_reducible refine queue_ite _ _ _ _ ?_ ?_)
    | (with_reducible refine queue_ite_fst _ _ _ _ ?_ ?_)
    | (with_reducible refine queue_ite_snd _ _ _ _ ?_ ?_)
    | (with_reducible refine keeps_ite _ _ _ _ ?_ ?_)
    | (intro _ _)
    | (simp +zetaDelta)
    | split

@[simp ↓] theorem injectAll_queue (s : State) (p : Nat) (ks : List Packet) :
    (queueOf (injectAll s p ks)) = (queueOf s) := by
  unfold injectAll
  repeat' first
    | with_reducible rfl
    | (simp +zetaDelta [foldl_queue, foldl_snd_queue, foldl_fst_queue, pending_eq_queue]; done)
    | (with_reducible rw [foldl_queue])
    | (rw [pending_eq_queue])
    | (simp only [])
    | (with_reducible refine queue_ite _ _ _ _ ?_ ?_)
    | (with_reducible refine queue_ite_fst _ _ _ _ ?_ ?_)
    | (with_reducible refine queue_ite_snd _ _ _ _ ?_ ?_)
    | (with_reducible refine keeps_ite _ _ _ _ ?_ ?_)
    | (intro _ _)
    | (simp +zetaDelta)
    | split

@[simp ↓] theorem creditReturn_queue (s : State) (p n dest cc : Nat) :
    (queueOf (creditReturn s p n dest cc)) = (queueOf s) := by
  unfold creditReturn
  repeat' first
    | with_reducible rfl
    | (simp +zetaDelta [foldl_queue, foldl_snd_queue, foldl_fst_queue, pending_eq_queue]; done)
    | (with_reducible rw [foldl_queue])
    | (rw [pending_eq_queue])
    | (simp only [])
    | (with_reducible refine queue_ite _ _ _ _ ?_ ?_)
    | (with_reducible refine queue_ite_fst _ _ _ _ ?_ ?_)
    | (with_reducible refine queue_ite_snd _ _ _ _ ?_ ?_)
    | (with_reducible refine keeps_ite _ _ _ _ ?_ ?_)
    | (intro _ _)
    | (simp +zetaDelta)
    | split

@[simp ↓] theorem popChan_queue (s : State) (p n cc : Nat) :
    (queueOf (popChan s p n cc)) = (queueOf s) := by
  unfold popChan
  repeat' first
    | with_reducible rfl
    | (simp +zetaDelta [foldl_queue, foldl_snd_queue, foldl_fst_queue, pending_eq_queue]; done)
    | (with_reducible rw [foldl_queue])
    | (rw [pending_eq_queue])
    | (simp only [])
    | (with_reducible refine queue_ite _ _ _ _ ?_ ?_)
    | (with_reducible refine queue_ite_fst _ _ _ _ ?_ ?_)
    | (with_reducible refine queue_ite_snd _ _ _ _ ?_ ?_)
    | (with_reducible refine keeps_ite _ _ _ _ ?_ ?_)
    | (intro _ _)
    | (simp +zetaDelta)
    | split

@[simp ↓] theorem sendEntry_queue (s : State) (p k : Nat) (payload : List Byte) :
    (queueOf (sendEntry s p k payload)) = (queueOf s) := by
  unfold sendEntry
  repeat' first
    | with_reducible rfl
    | (simp +zetaDelta [foldl_queue, foldl_snd_queue, foldl_fst_queue, pending_eq_queue]; done)
    | (with_reducible rw [foldl_queue])
    | (rw [pending_eq_queue])
    | (simp only [])
    | (with_reducible refine queue_ite _ _ _ _ ?_ ?_)
    | (with_reducible refine queue_ite_fst _ _ _ _ ?_ ?_)
    | (with_reducible refine queue_ite_snd _ _ _ _ ?_ ?_)
    | (with_reducible refine keeps_ite _ _ _ _ ?_ ?_)
    | (intro _ _)
    | (simp +zetaDelta)
    | split

/-! ## Sys2Proof/Machine/Trace.lean -/

@[simp ↓] theorem modTrace_queue (s : State) (n : Nat) (f : Trace → Trace) :
    (queueOf (modTrace s n f)) = (queueOf s) := by
  unfold modTrace
  repeat' first
    | with_reducible rfl
    | (simp +zetaDelta [foldl_queue, foldl_snd_queue, foldl_fst_queue, pending_eq_queue]; done)
    | (with_reducible rw [foldl_queue])
    | (rw [pending_eq_queue])
    | (simp only [])
    | (with_reducible refine queue_ite _ _ _ _ ?_ ?_)
    | (with_reducible refine queue_ite_fst _ _ _ _ ?_ ?_)
    | (with_reducible refine queue_ite_snd _ _ _ _ ?_ ?_)
    | (with_reducible refine keeps_ite _ _ _ _ ?_ ?_)
    | (intro _ _)
    | (simp +zetaDelta)
    | split

@[simp ↓] theorem onTrace_queue (s : State) (n : Nat) (f : Trace → Trace) :
    (queueOf (onTrace s n f)) = (queueOf s) := by
  unfold onTrace
  repeat' first
    | with_reducible rfl
    | (simp +zetaDelta [foldl_queue, foldl_snd_queue, foldl_fst_queue, pending_eq_queue]; done)
    | (with_reducible rw [foldl_queue])
    | (rw [pending_eq_queue])
    | (simp only [])
    | (with_reducible refine queue_ite _ _ _ _ ?_ ?_)
    | (with_reducible refine queue_ite_fst _ _ _ _ ?_ ?_)
    | (with_reducible refine queue_ite_snd _ _ _ _ ?_ ?_)
    | (with_reducible refine keeps_ite _ _ _ _ ?_ ?_)
    | (intro _ _)
    | (simp +zetaDelta)
    | split

@[simp ↓] theorem traceWatch_queue (s : State) (n : Nat) (test : List Byte → Bool) :
    (queueOf (traceWatch s n test)) = (queueOf s) := by
  unfold traceWatch
  repeat' first
    | with_reducible rfl
    | (simp +zetaDelta [foldl_queue, foldl_snd_queue, foldl_fst_queue, pending_eq_queue]; done)
    | (with_reducible rw [foldl_queue])
    | (rw [pending_eq_queue])
    | (simp only [])
    | (with_reducible refine queue_ite _ _ _ _ ?_ ?_)
    | (with_reducible refine queue_ite_fst _ _ _ _ ?_ ?_)
    | (with_reducible refine queue_ite_snd _ _ _ _ ?_ ?_)
    | (with_reducible refine keeps_ite _ _ _ _ ?_ ?_)
    | (intro _ _)
    | (simp +zetaDelta)
    | split

@[simp ↓] theorem traceStep_queue (s : State) (p step fire desc cc : Nat) :
    (queueOf (traceStep s p step fire desc cc)) = (queueOf s) := by
  unfold traceStep
  repeat' first
    | with_reducible rfl
    | (simp +zetaDelta [foldl_queue, foldl_snd_queue, foldl_fst_queue, pending_eq_queue]; done)
    | (with_reducible rw [foldl_queue])
    | (rw [pending_eq_queue])
    | (simp only [])
    | (with_reducible refine queue_ite _ _ _ _ ?_ ?_)
    | (with_reducible refine queue_ite_fst _ _ _ _ ?_ ?_)
    | (with_reducible refine queue_ite_snd _ _ _ _ ?_ ?_)
    | (with_reducible refine keeps_ite _ _ _ _ ?_ ?_)
    | (intro _ _)
    | (simp +zetaDelta)
    | split

@[simp ↓] theorem tracePacket_queue (s : State) (p port kind : Nat) (hdr : List Byte) :
    (queueOf (tracePacket s p port kind hdr)) = (queueOf s) := by
  unfold tracePacket
  repeat' first
    | with_reducible rfl
    | (simp +zetaDelta [foldl_queue, foldl_snd_queue, foldl_fst_queue, pending_eq_queue]; done)
    | (with_reducible rw [foldl_queue])
    | (rw [pending_eq_queue])
    | (simp only [])
    | (with_reducible refine queue_ite _ _ _ _ ?_ ?_)
    | (with_reducible refine queue_ite_fst _ _ _ _ ?_ ?_)
    | (with_reducible refine queue_ite_snd _ _ _ _ ?_ ?_)
    | (with_reducible refine keeps_ite _ _ _ _ ?_ ?_)
    | (intro _ _)
    | (simp +zetaDelta)
    | split

@[simp ↓] theorem traceRetire_queue (s : State) (p pc word rd : Nat) :
    (queueOf (traceRetire s p pc word rd)) = (queueOf s) := by
  unfold traceRetire
  repeat' first
    | with_reducible rfl
    | (simp +zetaDelta [foldl_queue, foldl_snd_queue, foldl_fst_queue, pending_eq_queue]; done)
    | (with_reducible rw [foldl_queue])
    | (rw [pending_eq_queue])
    | (simp only [])
    | (with_reducible refine queue_ite _ _ _ _ ?_ ?_)
    | (with_reducible refine queue_ite_fst _ _ _ _ ?_ ?_)
    | (with_reducible refine queue_ite_snd _ _ _ _ ?_ ?_)
    | (with_reducible refine keeps_ite _ _ _ _ ?_ ?_)
    | (intro _ _)
    | (simp +zetaDelta)
    | split

/-! ## Sys2Proof/Machine/Sequencer.lean -/

@[simp ↓] theorem goTo_queue (s : State) (p idx endCc : Nat) :
    (queueOf (goTo s p idx endCc)) = (queueOf s) := by
  unfold goTo
  repeat' first
    | with_reducible rfl
    | (simp +zetaDelta [foldl_queue, foldl_snd_queue, foldl_fst_queue, pending_eq_queue]; done)
    | (with_reducible rw [foldl_queue])
    | (rw [pending_eq_queue])
    | (simp only [])
    | (with_reducible refine queue_ite _ _ _ _ ?_ ?_)
    | (with_reducible refine queue_ite_fst _ _ _ _ ?_ ?_)
    | (with_reducible refine queue_ite_snd _ _ _ _ ?_ ?_)
    | (with_reducible refine keeps_ite _ _ _ _ ?_ ?_)
    | (intro _ _)
    | (simp +zetaDelta)
    | split

@[simp ↓] theorem stepEnd_queue (s : State) (p w cc : Nat) :
    (queueOf (stepEnd s p w cc)) = (queueOf s) := by
  unfold stepEnd
  repeat' first
    | with_reducible rfl
    | (simp +zetaDelta [foldl_queue, foldl_snd_queue, foldl_fst_queue, pending_eq_queue]; done)
    | (with_reducible rw [foldl_queue])
    | (rw [pending_eq_queue])
    | (simp only [])
    | (with_reducible refine queue_ite _ _ _ _ ?_ ?_)
    | (with_reducible refine queue_ite_fst _ _ _ _ ?_ ?_)
    | (with_reducible refine queue_ite_snd _ _ _ _ ?_ ?_)
    | (with_reducible refine keeps_ite _ _ _ _ ?_ ?_)
    | (intro _ _)
    | (simp +zetaDelta)
    | split

@[simp ↓] theorem seqStep_queue (s : State) (p : Nat) :
    (queueOf (seqStep s p)) = (queueOf s) := by
  unfold seqStep
  repeat' first
    | with_reducible rfl
    | (simp +zetaDelta [foldl_queue, foldl_snd_queue, foldl_fst_queue, pending_eq_queue]; done)
    | (with_reducible rw [foldl_queue])
    | (rw [pending_eq_queue])
    | (simp only [])
    | (with_reducible refine queue_ite _ _ _ _ ?_ ?_)
    | (with_reducible refine queue_ite_fst _ _ _ _ ?_ ?_)
    | (with_reducible refine queue_ite_snd _ _ _ _ ?_ ?_)
    | (with_reducible refine keeps_ite _ _ _ _ ?_ ?_)
    | (intro _ _)
    | (simp +zetaDelta)
    | split

@[simp ↓] theorem seqWait_queue (s : State) (p : Nat) :
    (queueOf (seqWait s p)) = (queueOf s) := by
  unfold seqWait
  repeat' first
    | with_reducible rfl
    | (simp +zetaDelta [foldl_queue, foldl_snd_queue, foldl_fst_queue, pending_eq_queue]; done)
    | (with_reducible rw [foldl_queue])
    | (rw [pending_eq_queue])
    | (simp only [])
    | (with_reducible refine queue_ite _ _ _ _ ?_ ?_)
    | (with_reducible refine queue_ite_fst _ _ _ _ ?_ ?_)
    | (with_reducible refine queue_ite_snd _ _ _ _ ?_ ?_)
    | (with_reducible refine keeps_ite _ _ _ _ ?_ ?_)
    | (intro _ _)
    | (simp +zetaDelta)
    | split

@[simp ↓] theorem seqBell_queue (s : State) (p : Nat) :
    (queueOf (seqBell s p)) = (queueOf s) := by
  unfold seqBell
  repeat' first
    | with_reducible rfl
    | (simp +zetaDelta [foldl_queue, foldl_snd_queue, foldl_fst_queue, pending_eq_queue]; done)
    | (with_reducible rw [foldl_queue])
    | (rw [pending_eq_queue])
    | (simp only [])
    | (with_reducible refine queue_ite _ _ _ _ ?_ ?_)
    | (with_reducible refine queue_ite_fst _ _ _ _ ?_ ?_)
    | (with_reducible refine queue_ite_snd _ _ _ _ ?_ ?_)
    | (with_reducible refine keeps_ite _ _ _ _ ?_ ?_)
    | (intro _ _)
    | (simp +zetaDelta)
    | split

theorem execSequencerStep_keeps (p : Nat) (s : State) : Keeps (queueOf s) (execSequencerStep p s) := by
  unfold execSequencerStep
  repeat' first
    | with_reducible rfl
    | (simp +zetaDelta [foldl_queue, foldl_snd_queue, foldl_fst_queue, pending_eq_queue]; done)
    | (with_reducible rw [foldl_queue])
    | (rw [pending_eq_queue])
    | (simp only [])
    | (with_reducible refine queue_ite _ _ _ _ ?_ ?_)
    | (with_reducible refine queue_ite_fst _ _ _ _ ?_ ?_)
    | (with_reducible refine queue_ite_snd _ _ _ _ ?_ ?_)
    | (with_reducible refine keeps_ite _ _ _ _ ?_ ?_)
    | (intro _ _)
    | (simp +zetaDelta)
    | split

theorem execWaitForBell_keeps (p : Nat) (s : State) : Keeps (queueOf s) (execWaitForBell p s) := by
  unfold execWaitForBell
  repeat' first
    | with_reducible rfl
    | (simp +zetaDelta [foldl_queue, foldl_snd_queue, foldl_fst_queue, pending_eq_queue]; done)
    | (with_reducible rw [foldl_queue])
    | (rw [pending_eq_queue])
    | (simp only [])
    | (with_reducible refine queue_ite _ _ _ _ ?_ ?_)
    | (with_reducible refine queue_ite_fst _ _ _ _ ?_ ?_)
    | (with_reducible refine queue_ite_snd _ _ _ _ ?_ ?_)
    | (with_reducible refine keeps_ite _ _ _ _ ?_ ?_)
    | (intro _ _)
    | (simp +zetaDelta)
    | split

/-! ## Sys2Proof/Machine/Units.lean -/

theorem unitRun_keeps (s : State) (p u : Nat) (ok : Tile → Fired → Bool) (run : Fired → State → State)
    (h : ∀ f s, (queueOf (run f s)) = (queueOf s)) : Keeps (queueOf s) (unitRun s p u ok run) := by
  unfold unitRun
  split
  · trivial
  · split
    · rfl
    · exact keeps_ite _ _ _ _ (h _ _) rfl

@[simp ↓] theorem passRun_queue (p u : Nat) (pass : Fired → Ctx → Nat × Ctx) (f : Fired) (s : State) :
    (queueOf (passRun p u pass f s)) = (queueOf s) := by
  unfold passRun
  repeat' first
    | with_reducible rfl
    | (simp +zetaDelta [foldl_queue, foldl_snd_queue, foldl_fst_queue, pending_eq_queue]; done)
    | (with_reducible rw [foldl_queue])
    | (rw [pending_eq_queue])
    | (simp only [])
    | (with_reducible refine queue_ite _ _ _ _ ?_ ?_)
    | (with_reducible refine queue_ite_fst _ _ _ _ ?_ ?_)
    | (with_reducible refine queue_ite_snd _ _ _ _ ?_ ?_)
    | (with_reducible refine keeps_ite _ _ _ _ ?_ ?_)
    | (intro _ _)
    | (simp +zetaDelta)
    | split

theorem execLoomOverwriteStream_keeps (p : Nat) (ups : List (Nat × Nat × Word)) (accUps : List (Nat × Nat)) (s : State) : Keeps (queueOf s) (execLoomOverwriteStream p ups accUps s) :=
  unitRun_keeps _ _ _ _ _ (fun _ _ => by simp)

theorem execLoomAccumulateStream_keeps (p : Nat) (ups : List (Nat × Nat × Word)) (accUps : List (Nat × Nat)) (s : State) : Keeps (queueOf s) (execLoomAccumulateStream p ups accUps s) :=
  unitRun_keeps _ _ _ _ _ (fun _ _ => by simp)

theorem execLoomDrainOnly_keeps (p : Nat) (accUps : List (Nat × Nat)) (s : State) : Keeps (queueOf s) (execLoomDrainOnly p accUps s) :=
  unitRun_keeps _ _ _ _ _ (fun _ _ => by simp)

@[simp ↓] theorem lendBeat_queue (s : State) (p dir cc a : Nat) : (queueOf ((lendBeat s p dir cc a).2)) = (queueOf s) := by
  unfold lendBeat
  repeat' first
    | with_reducible rfl
    | (simp +zetaDelta [foldl_queue, foldl_snd_queue, foldl_fst_queue, pending_eq_queue]; done)
    | (with_reducible rw [foldl_queue])
    | (rw [pending_eq_queue])
    | (simp only [])
    | (with_reducible refine queue_ite _ _ _ _ ?_ ?_)
    | (with_reducible refine queue_ite_fst _ _ _ _ ?_ ?_)
    | (with_reducible refine queue_ite_snd _ _ _ _ ?_ ?_)
    | (with_reducible refine keeps_ite _ _ _ _ ?_ ?_)
    | (intro _ _)
    | (simp +zetaDelta)
    | split

@[simp ↓] theorem lendBeats_queue (p dir cc a n : Nat) (s : State) (acc : List Byte) :
    (queueOf ((lendBeats p dir cc a n s acc).2.2)) = (queueOf s) := by
  induction n generalizing cc a s acc with
  | zero => rfl
  | succ n ih =>
    unfold lendBeats
    have h := lendBeat_queue s p dir cc a
    split
    · rename_i s1 he
      rw [he] at h
      exact h
    · rename_i bs s1 he
      rw [he] at h
      rw [ih]
      exact h

@[simp ↓] theorem shuttleRun_queue (p : Nat) (f : Fired) (s : State) :
    (queueOf (shuttleRun p f s)) = (queueOf s) := by
  unfold shuttleRun
  repeat' first
    | with_reducible rfl
    | (simp +zetaDelta [foldl_queue, foldl_snd_queue, foldl_fst_queue, pending_eq_queue]; done)
    | (with_reducible rw [foldl_queue])
    | (rw [pending_eq_queue])
    | (simp only [])
    | (with_reducible refine queue_ite _ _ _ _ ?_ ?_)
    | (with_reducible refine queue_ite_fst _ _ _ _ ?_ ?_)
    | (with_reducible refine queue_ite_snd _ _ _ _ ?_ ?_)
    | (with_reducible refine keeps_ite _ _ _ _ ?_ ?_)
    | (intro _ _)
    | (simp +zetaDelta)
    | split

theorem execShuttleLoad_keeps (p : Nat) (s : State) : Keeps (queueOf s) (execShuttleLoad p s) :=
  unitRun_keeps _ _ _ _ _ (fun _ _ => by simp)

theorem execShuttleSwap_keeps (p : Nat) (s : State) : Keeps (queueOf s) (execShuttleSwap p s) :=
  unitRun_keeps _ _ _ _ _ (fun _ _ => by simp)

theorem execSievePass_keeps (p : Nat) (s : State) : Keeps (queueOf s) (execSievePass p s) :=
  unitRun_keeps _ _ _ _ _ (fun _ _ => by simp)

theorem execScatterPass_keeps (p : Nat) (ups : List (Nat × Nat × Word)) (s : State) : Keeps (queueOf s) (execScatterPass p ups s) :=
  unitRun_keeps _ _ _ _ _ (fun _ _ => by simp)

theorem execOverflowPass_keeps (p : Nat) (ups : List (Nat × Nat × Word)) (s : State) : Keeps (queueOf s) (execOverflowPass p ups s) :=
  unitRun_keeps _ _ _ _ _ (fun _ _ => by simp)

theorem execGranaryDrain_keeps (p : Nat) (s : State) : Keeps (queueOf s) (execGranaryDrain p s) :=
  unitRun_keeps _ _ _ _ _ (fun _ _ => by simp)

theorem execBinsDrain_keeps (p : Nat) (s : State) : Keeps (queueOf s) (execBinsDrain p s) :=
  unitRun_keeps _ _ _ _ _ (fun _ _ => by simp)

theorem execAccumulatorClearOnly_keeps (p : Nat) (s : State) : Keeps (queueOf s) (execAccumulatorClearOnly p s) :=
  unitRun_keeps _ _ _ _ _ (fun _ _ => by simp)

theorem execFullerPass_keeps (p : Nat) (ups : List FulUps) (s : State) : Keeps (queueOf s) (execFullerPass p ups s) :=
  unitRun_keeps _ _ _ _ _ (fun _ _ => by simp)

theorem execReduction_keeps (p : Nat) (ups : List FulUps) (s : State) : Keeps (queueOf s) (execReduction p ups s) :=
  unitRun_keeps _ _ _ _ _ (fun _ _ => by simp)

theorem execReductionResultWrite_keeps (p : Nat) (s : State) : Keeps (queueOf s) (execReductionResultWrite p s) := by
  unfold execReductionResultWrite
  repeat' first
    | with_reducible rfl
    | (simp +zetaDelta [foldl_queue, foldl_snd_queue, foldl_fst_queue, pending_eq_queue]; done)
    | (with_reducible rw [foldl_queue])
    | (rw [pending_eq_queue])
    | (simp only [])
    | (with_reducible refine queue_ite _ _ _ _ ?_ ?_)
    | (with_reducible refine queue_ite_fst _ _ _ _ ?_ ?_)
    | (with_reducible refine queue_ite_snd _ _ _ _ ?_ ?_)
    | (with_reducible refine keeps_ite _ _ _ _ ?_ ?_)
    | (intro _ _)
    | (simp +zetaDelta)
    | split

@[simp ↓] theorem borrowBeats_queue (p : Nat) (f : Fired) (l : List Nat) (s : State) :
    (queueOf (borrowBeats p f l s)) = (queueOf s) := by
  induction l generalizing s with
  | nil => rfl
  | cons b bs ih =>
    unfold borrowBeats
    have h := lendBeat_queue s p (fld f.desc 1 1) (f.fireCc + b) (fld f.desc 4 4 + 256 * b)
    simp only []
    split
    · rename_i s1 he
      rw [he] at h
      exact (applyCtx_queue _ _).trans h
    · rename_i d s1 he
      rw [he] at h
      split
      · exact (applyCtx_queue _ _).trans h
      · split
        · rw [ih]
          exact (applyCtx_queue _ _).trans h
        · rw [ih]
          exact (applyCtx_queue _ _).trans h

@[simp ↓] theorem borrowRun_queue (p : Nat) (f : Fired) (s : State) :
    (queueOf (borrowRun p f s)) = (queueOf s) := by
  unfold borrowRun
  repeat' first
    | with_reducible rfl
    | (simp +zetaDelta [foldl_queue, foldl_snd_queue, foldl_fst_queue, pending_eq_queue]; done)
    | (with_reducible rw [foldl_queue])
    | (rw [pending_eq_queue])
    | (simp only [])
    | (with_reducible refine queue_ite _ _ _ _ ?_ ?_)
    | (with_reducible refine queue_ite_fst _ _ _ _ ?_ ?_)
    | (with_reducible refine queue_ite_snd _ _ _ _ ?_ ?_)
    | (with_reducible refine keeps_ite _ _ _ _ ?_ ?_)
    | (intro _ _)
    | (simp +zetaDelta)
    | split

theorem execBorrowCopy_keeps (p : Nat) (s : State) : Keeps (queueOf s) (execBorrowCopy p s) :=
  unitRun_keeps _ _ _ _ _ (fun _ _ => by simp)

theorem execClerkWake_keeps (p : Nat) (s : State) : Keeps (queueOf s) (execClerkWake p s) :=
  unitRun_keeps _ _ _ _ _ (fun _ _ => by simp)

@[simp ↓] theorem tokenDone_queue (p : Nat) (f : Fired) (s : State) :
    (queueOf (tokenDone p f s)) = (queueOf s) := by
  unfold tokenDone
  repeat' first
    | with_reducible rfl
    | (simp +zetaDelta [foldl_queue, foldl_snd_queue, foldl_fst_queue, pending_eq_queue]; done)
    | (with_reducible rw [foldl_queue])
    | (rw [pending_eq_queue])
    | (simp only [])
    | (with_reducible refine queue_ite _ _ _ _ ?_ ?_)
    | (with_reducible refine queue_ite_fst _ _ _ _ ?_ ?_)
    | (with_reducible refine queue_ite_snd _ _ _ _ ?_ ?_)
    | (with_reducible refine keeps_ite _ _ _ _ ?_ ?_)
    | (intro _ _)
    | (simp +zetaDelta)
    | split

end Sys2Proof.Machine
end

