-- ==== Sys2Proof/Laws/QueueB.lean ====
section
/-! SUPPORT. The operations and commands of Mesh, Dma keep the queue. -/

set_option linter.unusedSimpArgs false
set_option linter.unusedVariables false
set_option linter.unreachableTactic false
set_option linter.unusedTactic false

namespace Sys2Proof.Machine

/-! ## Sys2Proof/Machine/Mesh.lean -/

@[simp ↓] theorem ueReport_queue (s : State) (p port : Nat) (k : Packet) (readable : Bool) :
    (queueOf (ueReport s p port k readable)) = (queueOf s) := by
  unfold ueReport
  repeat' first
    | with_reducible rfl
    | (simp +zetaDelta [foldl_queue, foldl_snd_queue, foldl_fst_queue, pending_eq_queue]; done)
    | (with_reducible rw [foldl_queue])
    | (rw [pending_eq_queue])
    | (simp only [])
    | (with_reducible refine queue_ite _ _ _ _ ?_ ?_)
    | (with_reducible refine queue_ite_fst _ _ _ _ ?_ ?_)
    | (with_reducible refine queue_ite_snd _ _ _ _ ?_ ?_)
    | (with_reducible refine keeps_ite _ _ _ _ ?_ ?_)
    | (intro _ _)
    | (simp +zetaDelta)
    | split

@[simp ↓] theorem ueDrop_queue (s : State) (p port : Nat) (k : Packet) (readable : Bool) :
    (queueOf (ueDrop s p port k readable)) = (queueOf s) := by
  unfold ueDrop
  repeat' first
    | with_reducible rfl
    | (simp +zetaDelta [foldl_queue, foldl_snd_queue, foldl_fst_queue, pending_eq_queue]; done)
    | (with_reducible rw [foldl_queue])
    | (rw [pending_eq_queue])
    | (simp only [])
    | (with_reducible refine queue_ite _ _ _ _ ?_ ?_)
    | (with_reducible refine queue_ite_fst _ _ _ _ ?_ ?_)
    | (with_reducible refine queue_ite_snd _ _ _ _ ?_ ?_)
    | (with_reducible refine keeps_ite _ _ _ _ ?_ ?_)
    | (intro _ _)
    | (simp +zetaDelta)
    | split

@[simp ↓] theorem bypassDrop_queue (s : State) (p : Nat) (k : Packet) :
    (queueOf (bypassDrop s p k)) = (queueOf s) := by
  unfold bypassDrop
  repeat' first
    | with_reducible rfl
    | (simp +zetaDelta [foldl_queue, foldl_snd_queue, foldl_fst_queue, pending_eq_queue]; done)
    | (with_reducible rw [foldl_queue])
    | (rw [pending_eq_queue])
    | (simp only [])
    | (with_reducible refine queue_ite _ _ _ _ ?_ ?_)
    | (with_reducible refine queue_ite_fst _ _ _ _ ?_ ?_)
    | (with_reducible refine queue_ite_snd _ _ _ _ ?_ ?_)
    | (with_reducible refine keeps_ite _ _ _ _ ?_ ?_)
    | (intro _ _)
    | (simp +zetaDelta)
    | split

@[simp ↓] theorem staleDrop_queue (s : State) (p : Nat) (k : Packet) :
    (queueOf (staleDrop s p k)) = (queueOf s) := by
  unfold staleDrop
  repeat' first
    | with_reducible rfl
    | (simp +zetaDelta [foldl_queue, foldl_snd_queue, foldl_fst_queue, pending_eq_queue]; done)
    | (with_reducible rw [foldl_queue])
    | (rw [pending_eq_queue])
    | (simp only [])
    | (with_reducible refine queue_ite _ _ _ _ ?_ ?_)
    | (with_reducible refine queue_ite_fst _ _ _ _ ?_ ?_)
    | (with_reducible refine queue_ite_snd _ _ _ _ ?_ ?_)
    | (with_reducible refine keeps_ite _ _ _ _ ?_ ?_)
    | (intro _ _)
    | (simp +zetaDelta)
    | split

@[simp ↓] theorem inputTake_queue (s : State) (l input : Nat) (k : Packet) :
    (queueOf (inputTake s l input k)) = (queueOf s) := by
  unfold inputTake
  repeat' first
    | with_reducible rfl
    | (simp +zetaDelta [foldl_queue, foldl_snd_queue, foldl_fst_queue, pending_eq_queue]; done)
    | (with_reducible rw [foldl_queue])
    | (rw [pending_eq_queue])
    | (simp only [])
    | (with_reducible refine queue_ite _ _ _ _ ?_ ?_)
    | (with_reducible refine queue_ite_fst _ _ _ _ ?_ ?_)
    | (with_reducible refine queue_ite_snd _ _ _ _ ?_ ?_)
    | (with_reducible refine keeps_ite _ _ _ _ ?_ ?_)
    | (intro _ _)
    | (simp +zetaDelta)
    | split

@[simp ↓] theorem edgeFill_queue (s : State) (l input vc : Nat) :
    (queueOf (edgeFill s l input vc)) = (queueOf s) := by
  unfold edgeFill
  repeat' first
    | with_reducible rfl
    | (simp +zetaDelta [foldl_queue, foldl_snd_queue, foldl_fst_queue, pending_eq_queue]; done)
    | (with_reducible rw [foldl_queue])
    | (rw [pending_eq_queue])
    | (simp only [])
    | (with_reducible refine queue_ite _ _ _ _ ?_ ?_)
    | (with_reducible refine queue_ite_fst _ _ _ _ ?_ ?_)
    | (with_reducible refine queue_ite_snd _ _ _ _ ?_ ?_)
    | (with_reducible refine keeps_ite _ _ _ _ ?_ ?_)
    | (intro _ _)
    | (simp +zetaDelta)
    | split

@[simp ↓] theorem refill_queue (s : State) (l input : Nat) :
    (queueOf (refill s l input)) = (queueOf s) := by
  unfold refill
  repeat' first
    | with_reducible rfl
    | (simp +zetaDelta [foldl_queue, foldl_snd_queue, foldl_fst_queue, pending_eq_queue]; done)
    | (with_reducible rw [foldl_queue])
    | (rw [pending_eq_queue])
    | (simp only [])
    | (with_reducible refine queue_ite _ _ _ _ ?_ ?_)
    | (with_reducible refine queue_ite_fst _ _ _ _ ?_ ?_)
    | (with_reducible refine queue_ite_snd _ _ _ _ ?_ ?_)
    | (with_reducible refine keeps_ite _ _ _ _ ?_ ?_)
    | (intro _ _)
    | (simp +zetaDelta)
    | split

@[simp ↓] theorem stackEmit_queue (s : State) (n : Nat) (col : Nat) (ks : List Packet) :
    (queueOf (stackEmit s n col ks)) = (queueOf s) := by
  unfold stackEmit
  repeat' first
    | with_reducible rfl
    | (simp +zetaDelta [foldl_queue, foldl_snd_queue, foldl_fst_queue, pending_eq_queue]; done)
    | (with_reducible rw [foldl_queue])
    | (rw [pending_eq_queue])
    | (simp only [])
    | (with_reducible refine queue_ite _ _ _ _ ?_ ?_)
    | (with_reducible refine queue_ite_fst _ _ _ _ ?_ ?_)
    | (with_reducible refine queue_ite_snd _ _ _ _ ?_ ?_)
    | (with_reducible refine keeps_ite _ _ _ _ ?_ ?_)
    | (intro _ _)
    | (simp +zetaDelta)
    | split

@[simp ↓] theorem portEmit_queue (s : State) (n row : Nat) (ks : List Packet) :
    (queueOf (portEmit s n row ks)) = (queueOf s) := by
  unfold portEmit
  repeat' first
    | with_reducible rfl
    | (simp +zetaDelta [foldl_queue, foldl_snd_queue, foldl_fst_queue, pending_eq_queue]; done)
    | (with_reducible rw [foldl_queue])
    | (rw [pending_eq_queue])
    | (simp only [])
    | (with_reducible refine queue_ite _ _ _ _ ?_ ?_)
    | (with_reducible refine queue_ite_fst _ _ _ _ ?_ ?_)
    | (with_reducible refine queue_ite_snd _ _ _ _ ?_ ?_)
    | (with_reducible refine keeps_ite _ _ _ _ ?_ ?_)
    | (intro _ _)
    | (simp +zetaDelta)
    | split

@[simp ↓] theorem hopDeliver_queue (s : State) (l o : Nat) (k : Packet) (corr bad : Nat) :
    (queueOf (hopDeliver s l o k corr bad)) = (queueOf s) := by
  unfold hopDeliver
  repeat' first
    | with_reducible rfl
    | (simp +zetaDelta [foldl_queue, foldl_snd_queue, foldl_fst_queue, pending_eq_queue]; done)
    | (with_reducible rw [foldl_queue])
    | (rw [pending_eq_queue])
    | (simp only [])
    | (with_reducible refine queue_ite _ _ _ _ ?_ ?_)
    | (with_reducible refine queue_ite_fst _ _ _ _ ?_ ?_)
    | (with_reducible refine queue_ite_snd _ _ _ _ ?_ ?_)
    | (with_reducible refine keeps_ite _ _ _ _ ?_ ?_)
    | (intro _ _)
    | (simp +zetaDelta)
    | split

@[simp ↓] theorem hop_queue (s : State) (l o corr bad : Nat) (c : Cand) :
    (queueOf (hop s l o corr bad c)) = (queueOf s) := by
  unfold hop
  repeat' first
    | with_reducible rfl
    | (simp +zetaDelta [foldl_queue, foldl_snd_queue, foldl_fst_queue, pending_eq_queue]; done)
    | (with_reducible rw [foldl_queue])
    | (rw [pending_eq_queue])
    | (simp only [])
    | (with_reducible refine queue_ite _ _ _ _ ?_ ?_)
    | (with_reducible refine queue_ite_fst _ _ _ _ ?_ ?_)
    | (with_reducible refine queue_ite_snd _ _ _ _ ?_ ?_)
    | (with_reducible refine keeps_ite _ _ _ _ ?_ ?_)
    | (intro _ _)
    | (simp +zetaDelta)
    | split

@[simp ↓] theorem edgeUpset_queue (s : State) (l corr bad : Nat) (c : Cand) :
    (queueOf (edgeUpset s l corr bad c)) = (queueOf s) := by
  unfold edgeUpset
  repeat' first
    | with_reducible rfl
    | (simp +zetaDelta [foldl_queue, foldl_snd_queue, foldl_fst_queue, pending_eq_queue]; done)
    | (with_reducible rw [foldl_queue])
    | (rw [pending_eq_queue])
    | (simp only [])
    | (with_reducible refine queue_ite _ _ _ _ ?_ ?_)
    | (with_reducible refine queue_ite_fst _ _ _ _ ?_ ?_)
    | (with_reducible refine queue_ite_snd _ _ _ _ ?_ ?_)
    | (with_reducible refine keeps_ite _ _ _ _ ?_ ?_)
    | (intro _ _)
    | (simp +zetaDelta)
    | split

@[simp ↓] theorem hopUpset_queue (s : State) (l o corr bad : Nat) (c : Cand) :
    (queueOf (hopUpset s l o corr bad c)) = (queueOf s) := by
  unfold hopUpset
  repeat' first
    | with_reducible rfl
    | (simp +zetaDelta [foldl_queue, foldl_snd_queue, foldl_fst_queue, pending_eq_queue]; done)
    | (with_reducible rw [foldl_queue])
    | (rw [pending_eq_queue])
    | (simp only [])
    | (with_reducible refine queue_ite _ _ _ _ ?_ ?_)
    | (with_reducible refine queue_ite_fst _ _ _ _ ?_ ?_)
    | (with_reducible refine queue_ite_snd _ _ _ _ ?_ ?_)
    | (with_reducible refine keeps_ite _ _ _ _ ?_ ?_)
    | (intro _ _)
    | (simp +zetaDelta)
    | split

@[simp ↓] theorem fillAll_queue (s : State) (l : Nat) :
    (queueOf (fillAll s l)) = (queueOf s) := by
  unfold fillAll
  repeat' first
    | with_reducible rfl
    | (simp +zetaDelta [foldl_queue, foldl_snd_queue, foldl_fst_queue, pending_eq_queue]; done)
    | (with_reducible rw [foldl_queue])
    | (rw [pending_eq_queue])
    | (simp only [])
    | (with_reducible refine queue_ite _ _ _ _ ?_ ?_)
    | (with_reducible refine queue_ite_fst _ _ _ _ ?_ ?_)
    | (with_reducible refine queue_ite_snd _ _ _ _ ?_ ?_)
    | (with_reducible refine keeps_ite _ _ _ _ ?_ ?_)
    | (intro _ _)
    | (simp +zetaDelta)
    | split

theorem execRouterHop_keeps (p o corr bad : Nat) (s : State) : Keeps (queueOf s) (execRouterHop p o corr bad s) := by
  unfold execRouterHop
  repeat' first
    | with_reducible rfl
    | (simp +zetaDelta [foldl_queue, foldl_snd_queue, foldl_fst_queue, pending_eq_queue]; done)
    | (with_reducible rw [foldl_queue])
    | (rw [pending_eq_queue])
    | (simp only [])
    | (with_reducible refine queue_ite _ _ _ _ ?_ ?_)
    | (with_reducible refine queue_ite_fst _ _ _ _ ?_ ?_)
    | (with_reducible refine queue_ite_snd _ _ _ _ ?_ ?_)
    | (with_reducible refine keeps_ite _ _ _ _ ?_ ?_)
    | (intro _ _)
    | (simp +zetaDelta)
    | split

@[simp ↓] theorem takeBuf_queue (s : State) (p input : Nat) :
    (queueOf (takeBuf s p input)) = (queueOf s) := by
  unfold takeBuf
  repeat' first
    | with_reducible rfl
    | (simp +zetaDelta [foldl_queue, foldl_snd_queue, foldl_fst_queue, pending_eq_queue]; done)
    | (with_reducible rw [foldl_queue])
    | (rw [pending_eq_queue])
    | (simp only [])
    | (with_reducible refine queue_ite _ _ _ _ ?_ ?_)
    | (with_reducible refine queue_ite_fst _ _ _ _ ?_ ?_)
    | (with_reducible refine queue_ite_snd _ _ _ _ ?_ ?_)
    | (with_reducible refine keeps_ite _ _ _ _ ?_ ?_)
    | (intro _ _)
    | (simp +zetaDelta)
    | split

@[simp ↓] theorem onward_queue (s : State) (p input : Nat) (k : Packet) :
    (queueOf (onward s p input k)) = (queueOf s) := by
  unfold onward
  repeat' first
    | with_reducible rfl
    | (simp +zetaDelta [foldl_queue, foldl_snd_queue, foldl_fst_queue, pending_eq_queue]; done)
    | (with_reducible rw [foldl_queue])
    | (rw [pending_eq_queue])
    | (simp only [])
    | (with_reducible refine queue_ite _ _ _ _ ?_ ?_)
    | (with_reducible refine queue_ite_fst _ _ _ _ ?_ ?_)
    | (with_reducible refine queue_ite_snd _ _ _ _ ?_ ?_)
    | (with_reducible refine keeps_ite _ _ _ _ ?_ ?_)
    | (intro _ _)
    | (simp +zetaDelta)
    | split

@[simp ↓] theorem rootSend_queue (s : State) (p kind : Nat) (k : Packet) :
    (queueOf (rootSend s p kind k)) = (queueOf s) := by
  unfold rootSend
  repeat' first
    | with_reducible rfl
    | (simp +zetaDelta [foldl_queue, foldl_snd_queue, foldl_fst_queue, pending_eq_queue]; done)
    | (with_reducible rw [foldl_queue])
    | (rw [pending_eq_queue])
    | (simp only [])
    | (with_reducible refine queue_ite _ _ _ _ ?_ ?_)
    | (with_reducible refine queue_ite_fst _ _ _ _ ?_ ?_)
    | (with_reducible refine queue_ite_snd _ _ _ _ ?_ ?_)
    | (with_reducible refine keeps_ite _ _ _ _ ?_ ?_)
    | (intro _ _)
    | (simp +zetaDelta)
    | split

@[simp ↓] theorem barCombine_queue (s : State) (p input : Nat) (k : Packet) :
    (queueOf (barCombine s p input k)) = (queueOf s) := by
  unfold barCombine
  repeat' first
    | with_reducible rfl
    | (simp +zetaDelta [foldl_queue, foldl_snd_queue, foldl_fst_queue, pending_eq_queue]; done)
    | (with_reducible rw [foldl_queue])
    | (rw [pending_eq_queue])
    | (simp only [])
    | (with_reducible refine queue_ite _ _ _ _ ?_ ?_)
    | (with_reducible refine queue_ite_fst _ _ _ _ ?_ ?_)
    | (with_reducible refine queue_ite_snd _ _ _ _ ?_ ?_)
    | (with_reducible refine keeps_ite _ _ _ _ ?_ ?_)
    | (intro _ _)
    | (simp +zetaDelta)
    | split

@[simp ↓] theorem flagCombine_queue (s : State) (p input : Nat) (k : Packet) :
    (queueOf (flagCombine s p input k)) = (queueOf s) := by
  unfold flagCombine
  repeat' first
    | with_reducible rfl
    | (simp +zetaDelta [foldl_queue, foldl_snd_queue, foldl_fst_queue, pending_eq_queue]; done)
    | (with_reducible rw [foldl_queue])
    | (rw [pending_eq_queue])
    | (simp only [])
    | (with_reducible refine queue_ite _ _ _ _ ?_ ?_)
    | (with_reducible refine queue_ite_fst _ _ _ _ ?_ ?_)
    | (with_reducible refine queue_ite_snd _ _ _ _ ?_ ?_)
    | (with_reducible refine keeps_ite _ _ _ _ ?_ ?_)
    | (intro _ _)
    | (simp +zetaDelta)
    | split

theorem combineRun_keeps (kind : Nat) (f : State → Nat → Nat → Packet → State) (p input : Nat) (s : State)
    (h : ∀ s p i k, (queueOf (f s p i k)) = (queueOf s)) : Keeps (queueOf s) (combineRun kind f p input s) := by
  unfold combineRun
  split
  · trivial
  · split
    · exact queue_ite _ _ _ _ rfl (h _ _ _ _)
    · rfl

theorem execBarrierArriveCombine_keeps (p input : Nat) (s : State) : Keeps (queueOf s) (execBarrierArriveCombine p input s) := by
  unfold execBarrierArriveCombine
  refine combineRun_keeps _ _ _ _ _ ?_
  intro s p i k
  repeat' first
    | with_reducible rfl
    | (simp +zetaDelta [foldl_queue, foldl_snd_queue, foldl_fst_queue, pending_eq_queue]; done)
    | (with_reducible rw [foldl_queue])
    | (rw [pending_eq_queue])
    | (simp only [])
    | (with_reducible refine queue_ite _ _ _ _ ?_ ?_)
    | (with_reducible refine queue_ite_fst _ _ _ _ ?_ ?_)
    | (with_reducible refine queue_ite_snd _ _ _ _ ?_ ?_)
    | (with_reducible refine keeps_ite _ _ _ _ ?_ ?_)
    | (intro _ _)
    | (simp +zetaDelta)
    | split

theorem execFlagRaiseCombine_keeps (p input : Nat) (s : State) : Keeps (queueOf s) (execFlagRaiseCombine p input s) := by
  unfold execFlagRaiseCombine
  refine combineRun_keeps _ _ _ _ _ ?_
  intro s p i k
  repeat' first
    | with_reducible rfl
    | (simp +zetaDelta [foldl_queue, foldl_snd_queue, foldl_fst_queue, pending_eq_queue]; done)
    | (with_reducible rw [foldl_queue])
    | (rw [pending_eq_queue])
    | (simp only [])
    | (with_reducible refine queue_ite _ _ _ _ ?_ ?_)
    | (with_reducible refine queue_ite_fst _ _ _ _ ?_ ?_)
    | (with_reducible refine queue_ite_snd _ _ _ _ ?_ ?_)
    | (with_reducible refine keeps_ite _ _ _ _ ?_ ?_)
    | (intro _ _)
    | (simp +zetaDelta)
    | split

theorem execChannelTokenSend_keeps (p : Nat) (s : State) : Keeps (queueOf s) (execChannelTokenSend p s) := by
  unfold execChannelTokenSend
  refine unitRun_keeps _ _ _ _ _ ?_
  intro f s
  repeat' first
    | with_reducible rfl
    | (simp +zetaDelta [foldl_queue, foldl_snd_queue, foldl_fst_queue, pending_eq_queue]; done)
    | (with_reducible rw [foldl_queue])
    | (rw [pending_eq_queue])
    | (simp only [])
    | (with_reducible refine queue_ite _ _ _ _ ?_ ?_)
    | (with_reducible refine queue_ite_fst _ _ _ _ ?_ ?_)
    | (with_reducible refine queue_ite_snd _ _ _ _ ?_ ?_)
    | (with_reducible refine keeps_ite _ _ _ _ ?_ ?_)
    | (intro _ _)
    | (simp +zetaDelta)
    | split

@[simp ↓] theorem memberSend_queue (p kind : Nat) (f : Fired) (s : State) :
    (queueOf (memberSend p kind f s)) = (queueOf s) := by
  unfold memberSend
  repeat' first
    | with_reducible rfl
    | (simp +zetaDelta [foldl_queue, foldl_snd_queue, foldl_fst_queue, pending_eq_queue]; done)
    | (with_reducible rw [foldl_queue])
    | (rw [pending_eq_queue])
    | (simp only [])
    | (with_reducible refine queue_ite _ _ _ _ ?_ ?_)
    | (with_reducible refine queue_ite_fst _ _ _ _ ?_ ?_)
    | (with_reducible refine queue_ite_snd _ _ _ _ ?_ ?_)
    | (with_reducible refine keeps_ite _ _ _ _ ?_ ?_)
    | (intro _ _)
    | (simp +zetaDelta)
    | split

theorem execBarrierArrive_keeps (p : Nat) (s : State) : Keeps (queueOf s) (execBarrierArrive p s) := by
  unfold execBarrierArrive
  refine unitRun_keeps _ _ _ _ _ ?_
  intro f s
  repeat' first
    | with_reducible rfl
    | (simp +zetaDelta [foldl_queue, foldl_snd_queue, foldl_fst_queue, pending_eq_queue]; done)
    | (with_reducible rw [foldl_queue])
    | (rw [pending_eq_queue])
    | (simp only [])
    | (with_reducible refine queue_ite _ _ _ _ ?_ ?_)
    | (with_reducible refine queue_ite_fst _ _ _ _ ?_ ?_)
    | (with_reducible refine queue_ite_snd _ _ _ _ ?_ ?_)
    | (with_reducible refine keeps_ite _ _ _ _ ?_ ?_)
    | (intro _ _)
    | (simp +zetaDelta)
    | split

theorem execFlagRaise_keeps (p : Nat) (s : State) : Keeps (queueOf s) (execFlagRaise p s) := by
  unfold execFlagRaise
  refine unitRun_keeps _ _ _ _ _ ?_
  intro f s
  repeat' first
    | with_reducible rfl
    | (simp +zetaDelta [foldl_queue, foldl_snd_queue, foldl_fst_queue, pending_eq_queue]; done)
    | (with_reducible rw [foldl_queue])
    | (rw [pending_eq_queue])
    | (simp only [])
    | (with_reducible refine queue_ite _ _ _ _ ?_ ?_)
    | (with_reducible refine queue_ite_fst _ _ _ _ ?_ ?_)
    | (with_reducible refine queue_ite_snd _ _ _ _ ?_ ?_)
    | (with_reducible refine keeps_ite _ _ _ _ ?_ ?_)
    | (intro _ _)
    | (simp +zetaDelta)
    | split

theorem ejectTake_queue (s : State) (p : Nat) (want : Packet → Bool) (q : Packet × State)
    (h : ejectTake s p want = some q) : (queueOf (q.2)) = (queueOf s) := by
  unfold ejectTake at h
  obtain ⟨v, _, hv⟩ := List.exists_of_findSome?_eq_some h
  obtain ⟨k, _, rfl⟩ := Option.map_eq_some_iff.mp hv
  rfl

@[simp ↓] theorem staleCount_queue (s : State) (p : Nat) :
    (queueOf (staleCount s p)) = (queueOf s) := by
  unfold staleCount
  repeat' first
    | with_reducible rfl
    | (simp +zetaDelta [foldl_queue, foldl_snd_queue, foldl_fst_queue, pending_eq_queue]; done)
    | (with_reducible rw [foldl_queue])
    | (rw [pending_eq_queue])
    | (simp only [])
    | (with_reducible refine queue_ite _ _ _ _ ?_ ?_)
    | (with_reducible refine queue_ite_fst _ _ _ _ ?_ ?_)
    | (with_reducible refine queue_ite_snd _ _ _ _ ?_ ?_)
    | (with_reducible refine keeps_ite _ _ _ _ ?_ ?_)
    | (intro _ _)
    | (simp +zetaDelta)
    | split

@[simp ↓] theorem staleEntry_queue (s : State) (p : Nat) (k : Packet) :
    (queueOf (staleEntry s p k)) = (queueOf s) := by
  unfold staleEntry
  repeat' first
    | with_reducible rfl
    | (simp +zetaDelta [foldl_queue, foldl_snd_queue, foldl_fst_queue, pending_eq_queue]; done)
    | (with_reducible rw [foldl_queue])
    | (rw [pending_eq_queue])
    | (simp only [])
    | (with_reducible refine queue_ite _ _ _ _ ?_ ?_)
    | (with_reducible refine queue_ite_fst _ _ _ _ ?_ ?_)
    | (with_reducible refine queue_ite_snd _ _ _ _ ?_ ?_)
    | (with_reducible refine keeps_ite _ _ _ _ ?_ ?_)
    | (intro _ _)
    | (simp +zetaDelta)
    | split

@[simp ↓] theorem chanPush_queue (s : State) (p n : Nat) (e : ChEnt) :
    (queueOf (chanPush s p n e)) = (queueOf s) := by
  unfold chanPush
  repeat' first
    | with_reducible rfl
    | (simp +zetaDelta [foldl_queue, foldl_snd_queue, foldl_fst_queue, pending_eq_queue]; done)
    | (with_reducible rw [foldl_queue])
    | (rw [pending_eq_queue])
    | (simp only [])
    | (with_reducible refine queue_ite _ _ _ _ ?_ ?_)
    | (with_reducible refine queue_ite_fst _ _ _ _ ?_ ?_)
    | (with_reducible refine queue_ite_snd _ _ _ _ ?_ ?_)
    | (with_reducible refine keeps_ite _ _ _ _ ?_ ?_)
    | (intro _ _)
    | (simp +zetaDelta)
    | split

theorem sinkRun_keeps (want : Packet → Bool) (f : State → Nat → Packet → State) (p : Nat) (s : State)
    (h : ∀ s p k, (queueOf (f s p k)) = (queueOf s)) : Keeps (queueOf s) (sinkRun want f p s) := by
  unfold sinkRun
  split
  · trivial
  · split
    · rfl
    · rename_i q he
      exact (h _ _ _).trans (ejectTake_queue _ _ _ _ he)

theorem execChannelEntryDelivery_keeps (p : Nat) (s : State) : Keeps (queueOf s) (execChannelEntryDelivery p s) := by
  unfold execChannelEntryDelivery
  refine sinkRun_keeps _ _ _ _ ?_
  intro s p k
  repeat' first
    | with_reducible rfl
    | (simp +zetaDelta [foldl_queue, foldl_snd_queue, foldl_fst_queue, pending_eq_queue]; done)
    | (with_reducible rw [foldl_queue])
    | (rw [pending_eq_queue])
    | (simp only [])
    | (with_reducible refine queue_ite _ _ _ _ ?_ ?_)
    | (with_reducible refine queue_ite_fst _ _ _ _ ?_ ?_)
    | (with_reducible refine queue_ite_snd _ _ _ _ ?_ ?_)
    | (with_reducible refine keeps_ite _ _ _ _ ?_ ?_)
    | (intro _ _)
    | (simp +zetaDelta)
    | split

theorem execCreditReturnDelivery_keeps (p : Nat) (s : State) : Keeps (queueOf s) (execCreditReturnDelivery p s) := by
  unfold execCreditReturnDelivery
  refine sinkRun_keeps _ _ _ _ ?_
  intro s p k
  repeat' first
    | with_reducible rfl
    | (simp +zetaDelta [foldl_queue, foldl_snd_queue, foldl_fst_queue, pending_eq_queue]; done)
    | (with_reducible rw [foldl_queue])
    | (rw [pending_eq_queue])
    | (simp only [])
    | (with_reducible refine queue_ite _ _ _ _ ?_ ?_)
    | (with_reducible refine queue_ite_fst _ _ _ _ ?_ ?_)
    | (with_reducible refine queue_ite_snd _ _ _ _ ?_ ?_)
    | (with_reducible refine keeps_ite _ _ _ _ ?_ ?_)
    | (intro _ _)
    | (simp +zetaDelta)
    | split

@[simp ↓] theorem markDeliver_queue (s : State) (p : Nat) (k : Packet) :
    (queueOf (markDeliver s p k)) = (queueOf s) := by
  unfold markDeliver
  repeat' first
    | with_reducible rfl
    | (simp +zetaDelta [foldl_queue, foldl_snd_queue, foldl_fst_queue, pending_eq_queue]; done)
    | (with_reducible rw [foldl_queue])
    | (rw [pending_eq_queue])
    | (simp only [])
    | (with_reducible refine queue_ite _ _ _ _ ?_ ?_)
    | (with_reducible refine queue_ite_fst _ _ _ _ ?_ ?_)
    | (with_reducible refine queue_ite_snd _ _ _ _ ?_ ?_)
    | (with_reducible refine keeps_ite _ _ _ _ ?_ ?_)
    | (intro _ _)
    | (simp +zetaDelta)
    | split

theorem execBarrierReleaseDelivery_keeps (p : Nat) (s : State) : Keeps (queueOf s) (execBarrierReleaseDelivery p s) := by
  unfold execBarrierReleaseDelivery
  refine sinkRun_keeps _ _ _ _ ?_
  intro s p k
  repeat' first
    | with_reducible rfl
    | (simp +zetaDelta [foldl_queue, foldl_snd_queue, foldl_fst_queue, pending_eq_queue]; done)
    | (with_reducible rw [foldl_queue])
    | (rw [pending_eq_queue])
    | (simp only [])
    | (with_reducible refine queue_ite _ _ _ _ ?_ ?_)
    | (with_reducible refine queue_ite_fst _ _ _ _ ?_ ?_)
    | (with_reducible refine queue_ite_snd _ _ _ _ ?_ ?_)
    | (with_reducible refine keeps_ite _ _ _ _ ?_ ?_)
    | (intro _ _)
    | (simp +zetaDelta)
    | split

theorem execFlagBroadcastDelivery_keeps (p : Nat) (s : State) : Keeps (queueOf s) (execFlagBroadcastDelivery p s) := by
  unfold execFlagBroadcastDelivery
  refine sinkRun_keeps _ _ _ _ ?_
  intro s p k
  repeat' first
    | with_reducible rfl
    | (simp +zetaDelta [foldl_queue, foldl_snd_queue, foldl_fst_queue, pending_eq_queue]; done)
    | (with_reducible rw [foldl_queue])
    | (rw [pending_eq_queue])
    | (simp only [])
    | (with_reducible refine queue_ite _ _ _ _ ?_ ?_)
    | (with_reducible refine queue_ite_fst _ _ _ _ ?_ ?_)
    | (with_reducible refine queue_ite_snd _ _ _ _ ?_ ?_)
    | (with_reducible refine keeps_ite _ _ _ _ ?_ ?_)
    | (intro _ _)
    | (simp +zetaDelta)
    | split

/-! ## Sys2Proof/Machine/Dma.lean -/

@[simp ↓] theorem modDma_queue (s : State) (p : Nat) (f : Dma → Dma) :
    (queueOf (modDma s p f)) = (queueOf s) := by
  unfold modDma
  repeat' first
    | with_reducible rfl
    | (simp +zetaDelta [foldl_queue, foldl_snd_queue, foldl_fst_queue, pending_eq_queue]; done)
    | (with_reducible rw [foldl_queue])
    | (rw [pending_eq_queue])
    | (simp only [])
    | (with_reducible refine queue_ite _ _ _ _ ?_ ?_)
    | (with_reducible refine queue_ite_fst _ _ _ _ ?_ ?_)
    | (with_reducible refine queue_ite_snd _ _ _ _ ?_ ?_)
    | (with_reducible refine keeps_ite _ _ _ _ ?_ ?_)
    | (intro _ _)
    | (simp +zetaDelta)
    | split

@[simp ↓] theorem groupDone_queue (s : State) (p group source cc : Nat) :
    (queueOf (groupDone s p group source cc)) = (queueOf s) := by
  unfold groupDone
  repeat' first
    | with_reducible rfl
    | (simp +zetaDelta [foldl_queue, foldl_snd_queue, foldl_fst_queue, pending_eq_queue]; done)
    | (with_reducible rw [foldl_queue])
    | (rw [pending_eq_queue])
    | (simp only [])
    | (with_reducible refine queue_ite _ _ _ _ ?_ ?_)
    | (with_reducible refine queue_ite_fst _ _ _ _ ?_ ?_)
    | (with_reducible refine queue_ite_snd _ _ _ _ ?_ ?_)
    | (with_reducible refine keeps_ite _ _ _ _ ?_ ?_)
    | (intro _ _)
    | (simp +zetaDelta)
    | split

@[simp ↓] theorem tagDone_queue (s : State) (p tag : Nat) (j : DmaJob) (cc : Nat) :
    (queueOf (tagDone s p tag j cc)) = (queueOf s) := by
  unfold tagDone
  repeat' first
    | with_reducible rfl
    | (simp +zetaDelta [foldl_queue, foldl_snd_queue, foldl_fst_queue, pending_eq_queue]; done)
    | (with_reducible rw [foldl_queue])
    | (rw [pending_eq_queue])
    | (simp only [])
    | (with_reducible refine queue_ite _ _ _ _ ?_ ?_)
    | (with_reducible refine queue_ite_fst _ _ _ _ ?_ ?_)
    | (with_reducible refine queue_ite_snd _ _ _ _ ?_ ?_)
    | (with_reducible refine keeps_ite _ _ _ _ ?_ ?_)
    | (intro _ _)
    | (simp +zetaDelta)
    | split

theorem dmaRun_keeps (op : Nat) (run : DmaEnt → State → State) (ok : State → DmaEnt → Bool) (p : Nat) (s : State)
    (h : ∀ e s, (queueOf (run e s)) = (queueOf s)) : Keeps (queueOf s) (dmaRun op run ok p s) := by
  unfold dmaRun
  split
  · trivial
  · split
    · rfl
    · exact keeps_ite _ _ _ _ (h _ _) rfl

theorem execMemoryWrite_keeps (p : Nat) (s : State) : Keeps (queueOf s) (execMemoryWrite p s) := by
  unfold execMemoryWrite
  refine dmaRun_keeps _ _ _ _ _ ?_
  intro e s
  repeat' first
    | with_reducible rfl
    | (simp +zetaDelta [foldl_queue, foldl_snd_queue, foldl_fst_queue, pending_eq_queue]; done)
    | (with_reducible rw [foldl_queue])
    | (rw [pending_eq_queue])
    | (simp only [])
    | (with_reducible refine queue_ite _ _ _ _ ?_ ?_)
    | (with_reducible refine queue_ite_fst _ _ _ _ ?_ ?_)
    | (with_reducible refine queue_ite_snd _ _ _ _ ?_ ?_)
    | (with_reducible refine keeps_ite _ _ _ _ ?_ ?_)
    | (intro _ _)
    | (simp +zetaDelta)
    | split

theorem execMemoryRead_keeps (p : Nat) (s : State) : Keeps (queueOf s) (execMemoryRead p s) := by
  unfold execMemoryRead
  refine dmaRun_keeps _ _ _ _ _ ?_
  intro e s
  repeat' first
    | with_reducible rfl
    | (simp +zetaDelta [foldl_queue, foldl_snd_queue, foldl_fst_queue, pending_eq_queue]; done)
    | (with_reducible rw [foldl_queue])
    | (rw [pending_eq_queue])
    | (simp only [])
    | (with_reducible refine queue_ite _ _ _ _ ?_ ?_)
    | (with_reducible refine queue_ite_fst _ _ _ _ ?_ ?_)
    | (with_reducible refine queue_ite_snd _ _ _ _ ?_ ?_)
    | (with_reducible refine keeps_ite _ _ _ _ ?_ ?_)
    | (intro _ _)
    | (simp +zetaDelta)
    | split

@[simp ↓] theorem dmaViolate_queue (s : State) (p : Nat) :
    (queueOf (dmaViolate s p)) = (queueOf s) := by
  unfold dmaViolate
  repeat' first
    | with_reducible rfl
    | (simp +zetaDelta [foldl_queue, foldl_snd_queue, foldl_fst_queue, pending_eq_queue]; done)
    | (with_reducible rw [foldl_queue])
    | (rw [pending_eq_queue])
    | (simp only [])
    | (with_reducible refine queue_ite _ _ _ _ ?_ ?_)
    | (with_reducible refine queue_ite_fst _ _ _ _ ?_ ?_)
    | (with_reducible refine queue_ite_snd _ _ _ _ ?_ ?_)
    | (with_reducible refine keeps_ite _ _ _ _ ?_ ?_)
    | (intro _ _)
    | (simp +zetaDelta)
    | split

@[simp ↓] theorem outMask_queue (s : State) (p a : Nat) :
    (queueOf ((outMask s p a).2)) = (queueOf s) := by
  unfold outMask
  repeat' first
    | with_reducible rfl
    | (simp +zetaDelta [foldl_queue, foldl_snd_queue, foldl_fst_queue, pending_eq_queue]; done)
    | (with_reducible rw [foldl_queue])
    | (rw [pending_eq_queue])
    | (simp only [])
    | (with_reducible refine queue_ite _ _ _ _ ?_ ?_)
    | (with_reducible refine queue_ite_fst _ _ _ _ ?_ ?_)
    | (with_reducible refine queue_ite_snd _ _ _ _ ?_ ?_)
    | (with_reducible refine keeps_ite _ _ _ _ ?_ ?_)
    | (intro _ _)
    | (simp +zetaDelta)
    | split

theorem execStoreWrite_keeps (p : Nat) (s : State) : Keeps (queueOf s) (execStoreWrite p s) := by
  unfold execStoreWrite
  refine dmaRun_keeps _ _ _ _ _ ?_
  intro e s
  repeat' first
    | with_reducible rfl
    | (simp +zetaDelta [foldl_queue, foldl_snd_queue, foldl_fst_queue, pending_eq_queue]; done)
    | (with_reducible rw [foldl_queue])
    | (rw [pending_eq_queue])
    | (simp only [])
    | (with_reducible refine queue_ite _ _ _ _ ?_ ?_)
    | (with_reducible refine queue_ite_fst _ _ _ _ ?_ ?_)
    | (with_reducible refine queue_ite_snd _ _ _ _ ?_ ?_)
    | (with_reducible refine keeps_ite _ _ _ _ ?_ ?_)
    | (intro _ _)
    | (simp +zetaDelta)
    | split

theorem execMillPost_keeps (p : Nat) (s : State) : Keeps (queueOf s) (execMillPost p s) := by
  unfold execMillPost
  refine dmaRun_keeps _ _ _ _ _ ?_
  intro e s
  repeat' first
    | with_reducible rfl
    | (simp +zetaDelta [foldl_queue, foldl_snd_queue, foldl_fst_queue, pending_eq_queue]; done)
    | (with_reducible rw [foldl_queue])
    | (rw [pending_eq_queue])
    | (simp only [])
    | (with_reducible refine queue_ite _ _ _ _ ?_ ?_)
    | (with_reducible refine queue_ite_fst _ _ _ _ ?_ ?_)
    | (with_reducible refine queue_ite_snd _ _ _ _ ?_ ?_)
    | (with_reducible refine keeps_ite _ _ _ _ ?_ ?_)
    | (intro _ _)
    | (simp +zetaDelta)
    | split

theorem execLinkSend_keeps (p : Nat) (s : State) : Keeps (queueOf s) (execLinkSend p s) := by
  unfold execLinkSend
  refine dmaRun_keeps _ _ _ _ _ ?_
  intro e s
  repeat' first
    | with_reducible rfl
    | (simp +zetaDelta [foldl_queue, foldl_snd_queue, foldl_fst_queue, pending_eq_queue]; done)
    | (with_reducible rw [foldl_queue])
    | (rw [pending_eq_queue])
    | (simp only [])
    | (with_reducible refine queue_ite _ _ _ _ ?_ ?_)
    | (with_reducible refine queue_ite_fst _ _ _ _ ?_ ?_)
    | (with_reducible refine queue_ite_snd _ _ _ _ ?_ ?_)
    | (with_reducible refine keeps_ite _ _ _ _ ?_ ?_)
    | (intro _ _)
    | (simp +zetaDelta)
    | split

@[simp ↓] theorem storeUpset_queue (s : State) (p : Nat) (ups : List (Nat × Nat)) :
    (queueOf (storeUpset s p ups)) = (queueOf s) := by
  unfold storeUpset
  repeat' first
    | with_reducible rfl
    | (simp +zetaDelta [foldl_queue, foldl_snd_queue, foldl_fst_queue, pending_eq_queue]; done)
    | (with_reducible rw [foldl_queue])
    | (rw [pending_eq_queue])
    | (simp only [])
    | (with_reducible refine queue_ite _ _ _ _ ?_ ?_)
    | (with_reducible refine queue_ite_fst _ _ _ _ ?_ ?_)
    | (with_reducible refine queue_ite_snd _ _ _ _ ?_ ?_)
    | (with_reducible refine keeps_ite _ _ _ _ ?_ ?_)
    | (intro _ _)
    | (simp +zetaDelta)
    | split

@[simp ↓] theorem outRefuse_queue (s : State) (p : Nat) (j : OutJob) :
    (queueOf (outRefuse s p j)) = (queueOf s) := by
  unfold outRefuse
  repeat' first
    | with_reducible rfl
    | (simp +zetaDelta [foldl_queue, foldl_snd_queue, foldl_fst_queue, pending_eq_queue]; done)
    | (with_reducible rw [foldl_queue])
    | (rw [pending_eq_queue])
    | (simp only [])
    | (with_reducible refine queue_ite _ _ _ _ ?_ ?_)
    | (with_reducible refine queue_ite_fst _ _ _ _ ?_ ?_)
    | (with_reducible refine queue_ite_snd _ _ _ _ ?_ ?_)
    | (with_reducible refine keeps_ite _ _ _ _ ?_ ?_)
    | (intro _ _)
    | (simp +zetaDelta)
    | split

@[simp ↓] theorem outSend_queue (s : State) (p : Nat) (j : OutJob) :
    (queueOf (outSend s p j)) = (queueOf s) := by
  unfold outSend
  repeat' first
    | with_reducible rfl
    | (simp +zetaDelta [foldl_queue, foldl_snd_queue, foldl_fst_queue, pending_eq_queue]; done)
    | (with_reducible rw [foldl_queue])
    | (rw [pending_eq_queue])
    | (simp only [])
    | (with_reducible refine queue_ite _ _ _ _ ?_ ?_)
    | (with_reducible refine queue_ite_fst _ _ _ _ ?_ ?_)
    | (with_reducible refine queue_ite_snd _ _ _ _ ?_ ?_)
    | (with_reducible refine keeps_ite _ _ _ _ ?_ ?_)
    | (intro _ _)
    | (simp +zetaDelta)
    | split

theorem execFabricOutSend_keeps (p : Nat) (ups : List (Nat × Nat)) (s0 : State) : Keeps (queueOf s0) (execFabricOutSend p ups s0) := by
  unfold execFabricOutSend
  repeat' first
    | with_reducible rfl
    | (simp +zetaDelta [foldl_queue, foldl_snd_queue, foldl_fst_queue, pending_eq_queue]; done)
    | (with_reducible rw [foldl_queue])
    | (rw [pending_eq_queue])
    | (simp only [])
    | (with_reducible refine queue_ite _ _ _ _ ?_ ?_)
    | (with_reducible refine queue_ite_fst _ _ _ _ ?_ ?_)
    | (with_reducible refine queue_ite_snd _ _ _ _ ?_ ?_)
    | (with_reducible refine keeps_ite _ _ _ _ ?_ ?_)
    | (intro _ _)
    | (simp +zetaDelta)
    | split

@[simp ↓] theorem finPop_queue (s : State) (p : Nat) :
    (queueOf (finPop s p)) = (queueOf s) := by
  unfold finPop
  repeat' first
    | with_reducible rfl
    | (simp +zetaDelta [foldl_queue, foldl_snd_queue, foldl_fst_queue, pending_eq_queue]; done)
    | (with_reducible rw [foldl_queue])
    | (rw [pending_eq_queue])
    | (simp only [])
    | (with_reducible refine queue_ite _ _ _ _ ?_ ?_)
    | (with_reducible refine queue_ite_fst _ _ _ _ ?_ ?_)
    | (with_reducible refine queue_ite_snd _ _ _ _ ?_ ?_)
    | (with_reducible refine keeps_ite _ _ _ _ ?_ ?_)
    | (intro _ _)
    | (simp +zetaDelta)
    | split

@[simp ↓] theorem finWrite_queue (s : State) (p : Nat) (k : Packet) :
    (queueOf (finWrite s p k)) = (queueOf s) := by
  unfold finWrite
  repeat' first
    | with_reducible rfl
    | (simp +zetaDelta [foldl_queue, foldl_snd_queue, foldl_fst_queue, pending_eq_queue]; done)
    | (with_reducible rw [foldl_queue])
    | (rw [pending_eq_queue])
    | (simp only [])
    | (with_reducible refine queue_ite _ _ _ _ ?_ ?_)
    | (with_reducible refine queue_ite_fst _ _ _ _ ?_ ?_)
    | (with_reducible refine queue_ite_snd _ _ _ _ ?_ ?_)
    | (with_reducible refine keeps_ite _ _ _ _ ?_ ?_)
    | (intro _ _)
    | (simp +zetaDelta)
    | split

theorem execFabricInWrite_keeps (p : Nat) (s : State) : Keeps (queueOf s) (execFabricInWrite p s) := by
  unfold execFabricInWrite
  repeat' first
    | with_reducible rfl
    | (simp +zetaDelta [foldl_queue, foldl_snd_queue, foldl_fst_queue, pending_eq_queue]; done)
    | (with_reducible rw [foldl_queue])
    | (rw [pending_eq_queue])
    | (simp only [])
    | (with_reducible refine queue_ite _ _ _ _ ?_ ?_)
    | (with_reducible refine queue_ite_fst _ _ _ _ ?_ ?_)
    | (with_reducible refine queue_ite_snd _ _ _ _ ?_ ?_)
    | (with_reducible refine keeps_ite _ _ _ _ ?_ ?_)
    | (intro _ _)
    | (simp +zetaDelta)
    | split

theorem execWriteCompletionDelivery_keeps (p : Nat) (s : State) : Keeps (queueOf s) (execWriteCompletionDelivery p s) := by
  unfold execWriteCompletionDelivery
  refine sinkRun_keeps _ _ _ _ ?_
  intro s p k
  repeat' first
    | with_reducible rfl
    | (simp +zetaDelta [foldl_queue, foldl_snd_queue, foldl_fst_queue, pending_eq_queue]; done)
    | (with_reducible rw [foldl_queue])
    | (rw [pending_eq_queue])
    | (simp only [])
    | (with_reducible refine queue_ite _ _ _ _ ?_ ?_)
    | (with_reducible refine queue_ite_fst _ _ _ _ ?_ ?_)
    | (with_reducible refine queue_ite_snd _ _ _ _ ?_ ?_)
    | (with_reducible refine keeps_ite _ _ _ _ ?_ ?_)
    | (intro _ _)
    | (simp +zetaDelta)
    | split

theorem execGatherBufferDrain_keeps (p : Nat) (s : State) : Keeps (queueOf s) (execGatherBufferDrain p s) := by
  unfold execGatherBufferDrain
  repeat' first
    | with_reducible rfl
    | (simp +zetaDelta [foldl_queue, foldl_snd_queue, foldl_fst_queue, pending_eq_queue]; done)
    | (with_reducible rw [foldl_queue])
    | (rw [pending_eq_queue])
    | (simp only [])
    | (with_reducible refine queue_ite _ _ _ _ ?_ ?_)
    | (with_reducible refine queue_ite_fst _ _ _ _ ?_ ?_)
    | (with_reducible refine queue_ite_snd _ _ _ _ ?_ ?_)
    | (with_reducible refine keeps_ite _ _ _ _ ?_ ?_)
    | (intro _ _)
    | (simp +zetaDelta)
    | split

theorem execEccWriteBack_keeps (p : Nat) (s : State) : Keeps (queueOf s) (execEccWriteBack p s) := by
  unfold execEccWriteBack
  repeat' first
    | with_reducible rfl
    | (simp +zetaDelta [foldl_queue, foldl_snd_queue, foldl_fst_queue, pending_eq_queue]; done)
    | (with_reducible rw [foldl_queue])
    | (rw [pending_eq_queue])
    | (simp only [])
    | (with_reducible refine queue_ite _ _ _ _ ?_ ?_)
    | (with_reducible refine queue_ite_fst _ _ _ _ ?_ ?_)
    | (with_reducible refine queue_ite_snd _ _ _ _ ?_ ?_)
    | (with_reducible refine keeps_ite _ _ _ _ ?_ ?_)
    | (intro _ _)
    | (simp +zetaDelta)
    | split

end Sys2Proof.Machine
end

