-- ==== Sys2Proof/Laws/QueueC.lean ====
section
/-! SUPPORT. The operations and commands of Memory, Mill keep the queue. -/

set_option linter.unusedSimpArgs false
set_option linter.unusedVariables false
set_option linter.unreachableTactic false
set_option linter.unusedTactic false

namespace Sys2Proof.Machine

/-! ## Sys2Proof/Machine/Memory.lean -/

@[simp ↓] theorem boltPut_queue (s : State) (n b : Nat) (bs : List Byte) (tally : Nat) :
    (queueOf (boltPut s n b bs tally)) = (queueOf s) := by
  unfold boltPut
  repeat' first
    | with_reducible rfl
    | (simp +zetaDelta [foldl_queue, foldl_snd_queue, foldl_fst_queue, pending_eq_queue]; done)
    | (with_reducible rw [foldl_queue])
    | (rw [pending_eq_queue])
    | (simp only [])
    | (with_reducible refine queue_ite _ _ _ _ ?_ ?_)
    | (with_reducible refine queue_ite_fst _ _ _ _ ?_ ?_)
    | (with_reducible refine queue_ite_snd _ _ _ _ ?_ ?_)
    | (with_reducible refine keeps_ite _ _ _ _ ?_ ?_)
    | (intro _ _)
    | (simp +zetaDelta)
    | split

@[simp ↓] theorem boltUpset_queue (s : State) (n b : Nat) (lines : List Nat) :
    (queueOf (boltUpset s n b lines)) = (queueOf s) := by
  unfold boltUpset
  repeat' first
    | with_reducible rfl
    | (simp +zetaDelta [foldl_queue, foldl_snd_queue, foldl_fst_queue, pending_eq_queue]; done)
    | (with_reducible rw [foldl_queue])
    | (rw [pending_eq_queue])
    | (simp only [])
    | (with_reducible refine queue_ite _ _ _ _ ?_ ?_)
    | (with_reducible refine queue_ite_fst _ _ _ _ ?_ ?_)
    | (with_reducible refine queue_ite_snd _ _ _ _ ?_ ?_)
    | (with_reducible refine keeps_ite _ _ _ _ ?_ ?_)
    | (intro _ _)
    | (simp +zetaDelta)
    | split

@[simp ↓] theorem stackFail_queue (s : State) (e : Event) :
    (queueOf (stackFail s e)) = (queueOf s) := by
  unfold stackFail
  repeat' first
    | with_reducible rfl
    | (simp +zetaDelta [foldl_queue, foldl_snd_queue, foldl_fst_queue, pending_eq_queue]; done)
    | (with_reducible rw [foldl_queue])
    | (rw [pending_eq_queue])
    | (simp only [])
    | (with_reducible refine queue_ite _ _ _ _ ?_ ?_)
    | (with_reducible refine queue_ite_fst _ _ _ _ ?_ ?_)
    | (with_reducible refine queue_ite_snd _ _ _ _ ?_ ?_)
    | (with_reducible refine keeps_ite _ _ _ _ ?_ ?_)
    | (intro _ _)
    | (simp +zetaDelta)
    | split

@[simp ↓] theorem serve_queue (s : State) (k n b lines : Nat) :
    (queueOf (serve s k n b lines)) = (queueOf s) := by
  unfold serve
  repeat' first
    | with_reducible rfl
    | (simp +zetaDelta [foldl_queue, foldl_snd_queue, foldl_fst_queue, pending_eq_queue]; done)
    | (with_reducible rw [foldl_queue])
    | (rw [pending_eq_queue])
    | (simp only [])
    | (with_reducible refine queue_ite _ _ _ _ ?_ ?_)
    | (with_reducible refine queue_ite_fst _ _ _ _ ?_ ?_)
    | (with_reducible refine queue_ite_snd _ _ _ _ ?_ ?_)
    | (with_reducible refine keeps_ite _ _ _ _ ?_ ?_)
    | (intro _ _)
    | (simp +zetaDelta)
    | split

@[simp ↓] theorem stackKeyCount_queue (s : State) (k : Nat) :
    (queueOf (stackKeyCount s k)) = (queueOf s) := by
  unfold stackKeyCount
  repeat' first
    | with_reducible rfl
    | (simp +zetaDelta [foldl_queue, foldl_snd_queue, foldl_fst_queue, pending_eq_queue]; done)
    | (with_reducible rw [foldl_queue])
    | (rw [pending_eq_queue])
    | (simp only [])
    | (with_reducible refine queue_ite _ _ _ _ ?_ ?_)
    | (with_reducible refine queue_ite_fst _ _ _ _ ?_ ?_)
    | (with_reducible refine queue_ite_snd _ _ _ _ ?_ ?_)
    | (with_reducible refine keeps_ite _ _ _ _ ?_ ?_)
    | (intro _ _)
    | (simp +zetaDelta)
    | split

@[simp ↓] theorem stackKeyDrop_queue (s0 : State) (k : Nat) (pk : Packet) :
    (queueOf (stackKeyDrop s0 k pk)) = (queueOf s0) := by
  unfold stackKeyDrop
  repeat' first
    | with_reducible rfl
    | (simp +zetaDelta [foldl_queue, foldl_snd_queue, foldl_fst_queue, pending_eq_queue]; done)
    | (with_reducible rw [foldl_queue])
    | (rw [pending_eq_queue])
    | (simp only [])
    | (with_reducible refine queue_ite _ _ _ _ ?_ ?_)
    | (with_reducible refine queue_ite_fst _ _ _ _ ?_ ?_)
    | (with_reducible refine queue_ite_snd _ _ _ _ ?_ ?_)
    | (with_reducible refine keeps_ite _ _ _ _ ?_ ?_)
    | (intro _ _)
    | (simp +zetaDelta)
    | split

@[simp ↓] theorem answer_queue (s : State) (k : Nat) (tile : Nat) (pks : List Packet) :
    (queueOf (answer s k tile pks)) = (queueOf s) := by
  unfold answer
  repeat' first
    | with_reducible rfl
    | (simp +zetaDelta [foldl_queue, foldl_snd_queue, foldl_fst_queue, pending_eq_queue]; done)
    | (with_reducible rw [foldl_queue])
    | (rw [pending_eq_queue])
    | (simp only [])
    | (with_reducible refine queue_ite _ _ _ _ ?_ ?_)
    | (with_reducible refine queue_ite_fst _ _ _ _ ?_ ?_)
    | (with_reducible refine queue_ite_snd _ _ _ _ ?_ ?_)
    | (with_reducible refine keeps_ite _ _ _ _ ?_ ?_)
    | (intro _ _)
    | (simp +zetaDelta)
    | split

@[simp ↓] theorem slotUsed_queue (s : State) (k : Nat) :
    (queueOf (slotUsed s k)) = (queueOf s) := by
  unfold slotUsed
  repeat' first
    | with_reducible rfl
    | (simp +zetaDelta [foldl_queue, foldl_snd_queue, foldl_fst_queue, pending_eq_queue]; done)
    | (with_reducible rw [foldl_queue])
    | (rw [pending_eq_queue])
    | (simp only [])
    | (with_reducible refine queue_ite _ _ _ _ ?_ ?_)
    | (with_reducible refine queue_ite_fst _ _ _ _ ?_ ?_)
    | (with_reducible refine queue_ite_snd _ _ _ _ ?_ ?_)
    | (with_reducible refine keeps_ite _ _ _ _ ?_ ?_)
    | (intro _ _)
    | (simp +zetaDelta)
    | split

@[simp ↓] theorem inqDrop_queue (s : State) (k : Nat) (want : Packet → Bool) :
    (queueOf (inqDrop s k want)) = (queueOf s) := by
  unfold inqDrop
  repeat' first
    | with_reducible rfl
    | (simp +zetaDelta [foldl_queue, foldl_snd_queue, foldl_fst_queue, pending_eq_queue]; done)
    | (with_reducible rw [foldl_queue])
    | (rw [pending_eq_queue])
    | (simp only [])
    | (with_reducible refine queue_ite _ _ _ _ ?_ ?_)
    | (with_reducible refine queue_ite_fst _ _ _ _ ?_ ?_)
    | (with_reducible refine queue_ite_snd _ _ _ _ ?_ ?_)
    | (with_reducible refine keeps_ite _ _ _ _ ?_ ?_)
    | (intro _ _)
    | (simp +zetaDelta)
    | split

theorem classRun_keeps (k cls : Nat) (want : Packet → Bool) (can : Stack → Packet → Bool)
    (turned serves : State → Packet → State) (s : State) (ht : ∀ s pk, queueOf (turned s pk) = queueOf s)
    (hs : ∀ s pk, queueOf (serves s pk) = queueOf s) : Keeps (queueOf s) (classRun k cls want can turned serves s) := by
  unfold classRun
  split
  · trivial
  · split
    · rfl
    · simp only []
      repeat' refine keeps_ite _ _ _ _ ?_ ?_
      all_goals simp [ht, hs]

@[simp ↓] theorem remotePut_queue (s : State) (r : Remote) :
    (queueOf (remotePut s r)) = (queueOf s) := by
  unfold remotePut
  repeat' first
    | with_reducible rfl
    | (simp +zetaDelta [foldl_queue, foldl_snd_queue, foldl_fst_queue, pending_eq_queue]; done)
    | (with_reducible rw [foldl_queue])
    | (rw [pending_eq_queue])
    | (simp only [])
    | (with_reducible refine queue_ite _ _ _ _ ?_ ?_)
    | (with_reducible refine queue_ite_fst _ _ _ _ ?_ ?_)
    | (with_reducible refine queue_ite_snd _ _ _ _ ?_ ?_)
    | (with_reducible refine keeps_ite _ _ _ _ ?_ ?_)
    | (intro _ _)
    | (simp +zetaDelta)
    | split

@[simp ↓] theorem readLines_queue (s : State) (k n b line corr : Nat) :
    (queueOf ((readLines s k n b line corr).2)) = (queueOf s) := by
  unfold readLines
  repeat' first
    | with_reducible rfl
    | (simp +zetaDelta [foldl_queue, foldl_snd_queue, foldl_fst_queue, pending_eq_queue]; done)
    | (with_reducible rw [foldl_queue])
    | (rw [pending_eq_queue])
    | (simp only [])
    | (with_reducible refine queue_ite _ _ _ _ ?_ ?_)
    | (with_reducible refine queue_ite_fst _ _ _ _ ?_ ?_)
    | (with_reducible refine queue_ite_snd _ _ _ _ ?_ ?_)
    | (with_reducible refine keeps_ite _ _ _ _ ?_ ?_)
    | (intro _ _)
    | (simp +zetaDelta)
    | split

@[simp ↓] theorem readServe_queue (s : State) (k : Nat) (pk : Packet) (corr : Nat) :
    (queueOf (readServe s k pk corr)) = (queueOf s) := by
  unfold readServe
  repeat' first
    | with_reducible rfl
    | (simp +zetaDelta [foldl_queue, foldl_snd_queue, foldl_fst_queue, pending_eq_queue]; done)
    | (with_reducible rw [foldl_queue])
    | (rw [pending_eq_queue])
    | (simp only [])
    | (with_reducible refine queue_ite _ _ _ _ ?_ ?_)
    | (with_reducible refine queue_ite_fst _ _ _ _ ?_ ?_)
    | (with_reducible refine queue_ite_snd _ _ _ _ ?_ ?_)
    | (with_reducible refine keeps_ite _ _ _ _ ?_ ?_)
    | (intro _ _)
    | (simp +zetaDelta)
    | split

@[simp ↓] theorem mergeServe_queue (s0 : State) (k : Nat) (pk : Packet) (corr : Nat) :
    (queueOf (mergeServe s0 k pk corr)) = (queueOf s0) := by
  unfold mergeServe
  repeat' first
    | with_reducible rfl
    | (simp +zetaDelta [foldl_queue, foldl_snd_queue, foldl_fst_queue, pending_eq_queue]; done)
    | (with_reducible rw [foldl_queue])
    | (rw [pending_eq_queue])
    | (simp only [])
    | (with_reducible refine queue_ite _ _ _ _ ?_ ?_)
    | (with_reducible refine queue_ite_fst _ _ _ _ ?_ ?_)
    | (with_reducible refine queue_ite_snd _ _ _ _ ?_ ?_)
    | (with_reducible refine keeps_ite _ _ _ _ ?_ ?_)
    | (intro _ _)
    | (simp +zetaDelta)
    | split

@[simp ↓] theorem readTake_queue (s : State) (k corr : Nat) (pk : Packet) :
    (queueOf (readTake s k corr pk)) = (queueOf s) := by
  unfold readTake
  repeat' first
    | with_reducible rfl
    | (simp +zetaDelta [foldl_queue, foldl_snd_queue, foldl_fst_queue, pending_eq_queue]; done)
    | (with_reducible rw [foldl_queue])
    | (rw [pending_eq_queue])
    | (simp only [])
    | (with_reducible refine queue_ite _ _ _ _ ?_ ?_)
    | (with_reducible refine queue_ite_fst _ _ _ _ ?_ ?_)
    | (with_reducible refine queue_ite_snd _ _ _ _ ?_ ?_)
    | (with_reducible refine keeps_ite _ _ _ _ ?_ ?_)
    | (intro _ _)
    | (simp +zetaDelta)
    | split

theorem execStackReadRequest_keeps (k corr : Nat) (bad : List Nat) (s : State) : Keeps (queueOf s) (execStackReadRequest k corr bad s) := by
  unfold execStackReadRequest
  exact classRun_keeps _ _ _ _ _ _ _ (fun _ _ => by simp) (fun _ _ => by simp)

@[simp ↓] theorem winRead_queue (s : State) (k corr : Nat) (w : MergeWin) :
    (queueOf ((winRead s k corr w).2.2)) = (queueOf s) := by
  unfold winRead
  split
  · rfl
  · exact readLines_queue _ _ _ _ _ _

@[simp ↓] theorem windowEnd_queue (s : State) (k corr : Nat) (w : MergeWin) :
    (queueOf (windowEnd s k corr w)) = (queueOf s) := by
  unfold windowEnd
  repeat' first
    | with_reducible rfl
    | (simp +zetaDelta [foldl_queue, foldl_snd_queue, foldl_fst_queue, pending_eq_queue]; done)
    | (with_reducible rw [foldl_queue])
    | (rw [pending_eq_queue])
    | (simp only [])
    | (with_reducible refine queue_ite _ _ _ _ ?_ ?_)
    | (with_reducible refine queue_ite_fst _ _ _ _ ?_ ?_)
    | (with_reducible refine queue_ite_snd _ _ _ _ ?_ ?_)
    | (with_reducible refine keeps_ite _ _ _ _ ?_ ?_)
    | (intro _ _)
    | (simp +zetaDelta)
    | split

theorem execMergeWindowClose_keeps (k corr : Nat) (s : State) : Keeps (queueOf s) (execMergeWindowClose k corr s) := by
  unfold execMergeWindowClose
  split
  · trivial
  · split
    · rfl
    · simp [foldl_queue]

@[simp ↓] theorem boltWrite_queue (s : State) (k n b tally : Nat) (bs : List Byte) :
    (queueOf (boltWrite s k n b tally bs)) = (queueOf s) := by
  unfold boltWrite
  repeat' first
    | with_reducible rfl
    | (simp +zetaDelta [foldl_queue, foldl_snd_queue, foldl_fst_queue, pending_eq_queue]; done)
    | (with_reducible rw [foldl_queue])
    | (rw [pending_eq_queue])
    | (simp only [])
    | (with_reducible refine queue_ite _ _ _ _ ?_ ?_)
    | (with_reducible refine queue_ite_fst _ _ _ _ ?_ ?_)
    | (with_reducible refine queue_ite_snd _ _ _ _ ?_ ?_)
    | (with_reducible refine keeps_ite _ _ _ _ ?_ ?_)
    | (intro _ _)
    | (simp +zetaDelta)
    | split

@[simp ↓] theorem writeServe_queue (s : State) (k : Nat) (pk : Packet) :
    (queueOf (writeServe s k pk)) = (queueOf s) := by
  unfold writeServe
  repeat' first
    | with_reducible rfl
    | (simp +zetaDelta [foldl_queue, foldl_snd_queue, foldl_fst_queue, pending_eq_queue]; done)
    | (with_reducible rw [foldl_queue])
    | (rw [pending_eq_queue])
    | (simp only [])
    | (with_reducible refine queue_ite _ _ _ _ ?_ ?_)
    | (with_reducible refine queue_ite_fst _ _ _ _ ?_ ?_)
    | (with_reducible refine queue_ite_snd _ _ _ _ ?_ ?_)
    | (with_reducible refine keeps_ite _ _ _ _ ?_ ?_)
    | (intro _ _)
    | (simp +zetaDelta)
    | split

@[simp ↓] theorem wrDone_queue (k : Nat) (s : State) (pk : Packet) :
    (queueOf (wrDone k s pk)) = (queueOf s) := by
  unfold wrDone
  repeat' first
    | with_reducible rfl
    | (simp +zetaDelta [foldl_queue, foldl_snd_queue, foldl_fst_queue, pending_eq_queue]; done)
    | (with_reducible rw [foldl_queue])
    | (rw [pending_eq_queue])
    | (simp only [])
    | (with_reducible refine queue_ite _ _ _ _ ?_ ?_)
    | (with_reducible refine queue_ite_fst _ _ _ _ ?_ ?_)
    | (with_reducible refine queue_ite_snd _ _ _ _ ?_ ?_)
    | (with_reducible refine keeps_ite _ _ _ _ ?_ ?_)
    | (intro _ _)
    | (simp +zetaDelta)
    | split

theorem execStackMemoryWrite_keeps (k : Nat) (s : State) : Keeps (queueOf s) (execStackMemoryWrite k s) := by
  unfold execStackMemoryWrite
  exact classRun_keeps _ _ _ _ _ _ _ (fun _ _ => by simp) (fun _ _ => by simp)

@[simp ↓] theorem postsAnswer_queue (s : State) (k : Nat) :
    (queueOf (postsAnswer s k)) = (queueOf s) := by
  unfold postsAnswer
  repeat' first
    | with_reducible rfl
    | (simp +zetaDelta [foldl_queue, foldl_snd_queue, foldl_fst_queue, pending_eq_queue]; done)
    | (with_reducible rw [foldl_queue])
    | (rw [pending_eq_queue])
    | (simp only [])
    | (with_reducible refine queue_ite _ _ _ _ ?_ ?_)
    | (with_reducible refine queue_ite_fst _ _ _ _ ?_ ?_)
    | (with_reducible refine queue_ite_snd _ _ _ _ ?_ ?_)
    | (with_reducible refine keeps_ite _ _ _ _ ?_ ?_)
    | (intro _ _)
    | (simp +zetaDelta)
    | split

@[simp ↓] theorem lostAnswer_queue (s : State) (k : Nat) :
    (queueOf (lostAnswer s k)) = (queueOf s) := by
  unfold lostAnswer
  repeat' first
    | with_reducible rfl
    | (simp +zetaDelta [foldl_queue, foldl_snd_queue, foldl_fst_queue, pending_eq_queue]; done)
    | (with_reducible rw [foldl_queue])
    | (rw [pending_eq_queue])
    | (simp only [])
    | (with_reducible refine queue_ite _ _ _ _ ?_ ?_)
    | (with_reducible refine queue_ite_fst _ _ _ _ ?_ ?_)
    | (with_reducible refine queue_ite_snd _ _ _ _ ?_ ?_)
    | (with_reducible refine keeps_ite _ _ _ _ ?_ ?_)
    | (intro _ _)
    | (simp +zetaDelta)
    | split

@[simp ↓] theorem partialWrite_queue (s : State) (k : Nat) (r : Remote) :
    (queueOf (partialWrite s k r)) = (queueOf s) := by
  unfold partialWrite
  repeat' first
    | with_reducible rfl
    | (simp +zetaDelta [foldl_queue, foldl_snd_queue, foldl_fst_queue, pending_eq_queue]; done)
    | (with_reducible rw [foldl_queue])
    | (rw [pending_eq_queue])
    | (simp only [])
    | (with_reducible refine queue_ite _ _ _ _ ?_ ?_)
    | (with_reducible refine queue_ite_fst _ _ _ _ ?_ ?_)
    | (with_reducible refine queue_ite_snd _ _ _ _ ?_ ?_)
    | (with_reducible refine keeps_ite _ _ _ _ ?_ ?_)
    | (intro _ _)
    | (simp +zetaDelta)
    | split

@[simp ↓] theorem fetchPut_queue (s : State) (m n b : Nat) (f : MillFetch) :
    (queueOf (fetchPut s m n b f)) = (queueOf s) := by
  unfold fetchPut
  repeat' first
    | with_reducible rfl
    | (simp +zetaDelta [foldl_queue, foldl_snd_queue, foldl_fst_queue, pending_eq_queue]; done)
    | (with_reducible rw [foldl_queue])
    | (rw [pending_eq_queue])
    | (simp only [])
    | (with_reducible refine queue_ite _ _ _ _ ?_ ?_)
    | (with_reducible refine queue_ite_fst _ _ _ _ ?_ ?_)
    | (with_reducible refine queue_ite_snd _ _ _ _ ?_ ?_)
    | (with_reducible refine keeps_ite _ _ _ _ ?_ ?_)
    | (intro _ _)
    | (simp +zetaDelta)
    | split

@[simp ↓] theorem fetchServe_queue (s : State) (k m : Nat) (r : Remote) :
    (queueOf (fetchServe s k m r)) = (queueOf s) := by
  unfold fetchServe
  repeat' first
    | with_reducible rfl
    | (simp +zetaDelta [foldl_queue, foldl_snd_queue, foldl_fst_queue, pending_eq_queue]; done)
    | (with_reducible rw [foldl_queue])
    | (rw [pending_eq_queue])
    | (simp only [])
    | (with_reducible refine queue_ite _ _ _ _ ?_ ?_)
    | (with_reducible refine queue_ite_fst _ _ _ _ ?_ ?_)
    | (with_reducible refine queue_ite_snd _ _ _ _ ?_ ?_)
    | (with_reducible refine keeps_ite _ _ _ _ ?_ ?_)
    | (intro _ _)
    | (simp +zetaDelta)
    | split

@[simp ↓] theorem remoteServe_queue (s : State) (k : Nat) (r : Remote) :
    (queueOf (remoteServe s k r)) = (queueOf s) := by
  unfold remoteServe
  repeat' first
    | with_reducible rfl
    | (simp +zetaDelta [foldl_queue, foldl_snd_queue, foldl_fst_queue, pending_eq_queue]; done)
    | (with_reducible rw [foldl_queue])
    | (rw [pending_eq_queue])
    | (simp only [])
    | (with_reducible refine queue_ite _ _ _ _ ?_ ?_)
    | (with_reducible refine queue_ite_fst _ _ _ _ ?_ ?_)
    | (with_reducible refine queue_ite_snd _ _ _ _ ?_ ?_)
    | (with_reducible refine keeps_ite _ _ _ _ ?_ ?_)
    | (intro _ _)
    | (simp +zetaDelta)
    | split

@[simp ↓] theorem remoteTurned_queue (s : State) (r : Remote) :
    (queueOf (remoteTurned s r)) = (queueOf s) := by
  unfold remoteTurned
  split
  · exact fetchPut_queue _ _ _ _ _
  · rfl

@[simp ↓] theorem remoteTake_queue (s : State) (k : Nat) (r : Remote) :
    (queueOf (remoteTake s k r)) = (queueOf s) := by
  unfold remoteTake
  repeat' first
    | with_reducible rfl
    | (simp +zetaDelta [foldl_queue, foldl_snd_queue, foldl_fst_queue, pending_eq_queue]; done)
    | (with_reducible rw [foldl_queue])
    | (rw [pending_eq_queue])
    | (simp only [])
    | (with_reducible refine queue_ite _ _ _ _ ?_ ?_)
    | (with_reducible refine queue_ite_fst _ _ _ _ ?_ ?_)
    | (with_reducible refine queue_ite_snd _ _ _ _ ?_ ?_)
    | (with_reducible refine keeps_ite _ _ _ _ ?_ ?_)
    | (intro _ _)
    | (simp +zetaDelta)
    | split

theorem execStackRemoteRequest_keeps (k : Nat) (s : State) : Keeps (queueOf s) (execStackRemoteRequest k s) := by
  unfold execStackRemoteRequest
  repeat' first
    | with_reducible rfl
    | (simp +zetaDelta [foldl_queue, foldl_snd_queue, foldl_fst_queue, pending_eq_queue]; done)
    | (with_reducible rw [foldl_queue])
    | (rw [pending_eq_queue])
    | (simp only [])
    | (with_reducible refine queue_ite _ _ _ _ ?_ ?_)
    | (with_reducible refine queue_ite_fst _ _ _ _ ?_ ?_)
    | (with_reducible refine queue_ite_snd _ _ _ _ ?_ ?_)
    | (with_reducible refine keeps_ite _ _ _ _ ?_ ?_)
    | (intro _ _)
    | (simp +zetaDelta)
    | split

@[simp ↓] theorem postServe_queue (k : Nat) (s : State) (pk : Packet) :
    (queueOf (postServe k s pk)) = (queueOf s) := by
  unfold postServe
  repeat' first
    | with_reducible rfl
    | (simp +zetaDelta [foldl_queue, foldl_snd_queue, foldl_fst_queue, pending_eq_queue]; done)
    | (with_reducible rw [foldl_queue])
    | (rw [pending_eq_queue])
    | (simp only [])
    | (with_reducible refine queue_ite _ _ _ _ ?_ ?_)
    | (with_reducible refine queue_ite_fst _ _ _ _ ?_ ?_)
    | (with_reducible refine queue_ite_snd _ _ _ _ ?_ ?_)
    | (with_reducible refine keeps_ite _ _ _ _ ?_ ?_)
    | (intro _ _)
    | (simp +zetaDelta)
    | split

theorem execMillPostReceive_keeps (k : Nat) (s : State) : Keeps (queueOf s) (execMillPostReceive k s) := by
  unfold execMillPostReceive
  exact classRun_keeps _ _ _ _ _ _ _ (fun _ _ => by simp) (fun _ _ => by simp)

@[simp ↓] theorem meshTake_queue (s : State) (k : Nat) (pk : Packet) :
    (queueOf (meshTake s k pk)) = (queueOf s) := by
  unfold meshTake
  repeat' first
    | with_reducible rfl
    | (simp +zetaDelta [foldl_queue, foldl_snd_queue, foldl_fst_queue, pending_eq_queue]; done)
    | (with_reducible rw [foldl_queue])
    | (rw [pending_eq_queue])
    | (simp only [])
    | (with_reducible refine queue_ite _ _ _ _ ?_ ?_)
    | (with_reducible refine queue_ite_fst _ _ _ _ ?_ ?_)
    | (with_reducible refine queue_ite_snd _ _ _ _ ?_ ?_)
    | (with_reducible refine keeps_ite _ _ _ _ ?_ ?_)
    | (intro _ _)
    | (simp +zetaDelta)
    | split

@[simp ↓] theorem boltSettle_queue (s : State) (k key seq : Nat) (write : Bool) :
    (queueOf (boltSettle s k key seq write)) = (queueOf s) := by
  unfold boltSettle
  repeat' first
    | with_reducible rfl
    | (simp +zetaDelta [foldl_queue, foldl_snd_queue, foldl_fst_queue, pending_eq_queue]; done)
    | (with_reducible rw [foldl_queue])
    | (rw [pending_eq_queue])
    | (simp only [])
    | (with_reducible refine queue_ite _ _ _ _ ?_ ?_)
    | (with_reducible refine queue_ite_fst _ _ _ _ ?_ ?_)
    | (with_reducible refine queue_ite_snd _ _ _ _ ?_ ?_)
    | (with_reducible refine keeps_ite _ _ _ _ ?_ ?_)
    | (intro _ _)
    | (simp +zetaDelta)
    | split

@[simp ↓] theorem remoteRun_queue (k n : Nat) (s : State) : (queueOf (remoteRun k n s)) = (queueOf s) := by
  induction n generalizing s with
  | zero => rfl
  | succ n ih =>
    unfold remoteRun
    split
    · rfl
    · rw [ih]
      simp

@[simp ↓] theorem spineTake_queue (s : State) (counts : Bool) (n b line lines : Nat) :
    (queueOf (spineTake s counts n b line lines)) = (queueOf s) := by
  unfold spineTake
  extract_lets k
  clear_value k
  split
  · rfl
  · rename_i s1 bad s2 _
    have h : queueOf s2 = queueOf s := by
      simp only [s2]
      split <;> simp [s1]
    clear_value s2
    split <;> simp [h]

@[simp ↓] theorem spineRead_queue (s : State) (counts : Bool) (n b line lines : Nat) :
    (queueOf ((spineRead s counts n b line lines).2.2)) = (queueOf s) := by
  unfold spineRead
  simp only []
  split <;> exact spineTake_queue _ _ _ _ _ _

@[simp ↓] theorem shareTake_queue (s : State) (n b count : Nat) :
    (queueOf (shareTake s n b count)) = (queueOf s) := by
  unfold shareTake
  exact foldl_queue _ (fun _ _ => spineTake_queue _ _ _ _ _ _) _ _

theorem execDramRefresh_keeps (k : Nat) (s : State) : Keeps (queueOf s) (execDramRefresh k s) := by
  unfold execDramRefresh
  repeat' first
    | with_reducible rfl
    | (simp +zetaDelta [foldl_queue, foldl_snd_queue, foldl_fst_queue, pending_eq_queue]; done)
    | (with_reducible rw [foldl_queue])
    | (rw [pending_eq_queue])
    | (simp only [])
    | (with_reducible refine queue_ite _ _ _ _ ?_ ?_)
    | (with_reducible refine queue_ite_fst _ _ _ _ ?_ ?_)
    | (with_reducible refine queue_ite_snd _ _ _ _ ?_ ?_)
    | (with_reducible refine keeps_ite _ _ _ _ ?_ ?_)
    | (intro _ _)
    | (simp +zetaDelta)
    | split

@[simp ↓] theorem rowCount_queue (k n b : Nat) (s : State) (v : Nat) :
    (queueOf (rowCount k n b s v)) = (queueOf s) := by
  unfold rowCount
  repeat' first
    | with_reducible rfl
    | (simp +zetaDelta [foldl_queue, foldl_snd_queue, foldl_fst_queue, pending_eq_queue]; done)
    | (with_reducible rw [foldl_queue])
    | (rw [pending_eq_queue])
    | (simp only [])
    | (with_reducible refine queue_ite _ _ _ _ ?_ ?_)
    | (with_reducible refine queue_ite_fst _ _ _ _ ?_ ?_)
    | (with_reducible refine queue_ite_snd _ _ _ _ ?_ ?_)
    | (with_reducible refine keeps_ite _ _ _ _ ?_ ?_)
    | (intro _ _)
    | (simp +zetaDelta)
    | split

@[simp ↓] theorem scrubBolt_queue (s0 : State) (k key : Nat) (corr : List Nat) (bad : List Nat) :
    (queueOf (scrubBolt s0 k key corr bad)) = (queueOf s0) := by
  unfold scrubBolt
  repeat' first
    | with_reducible rfl
    | (simp +zetaDelta [foldl_queue, foldl_snd_queue, foldl_fst_queue, pending_eq_queue]; done)
    | (with_reducible rw [foldl_queue])
    | (rw [pending_eq_queue])
    | (simp only [])
    | (with_reducible refine queue_ite _ _ _ _ ?_ ?_)
    | (with_reducible refine queue_ite_fst _ _ _ _ ?_ ?_)
    | (with_reducible refine queue_ite_snd _ _ _ _ ?_ ?_)
    | (with_reducible refine keeps_ite _ _ _ _ ?_ ?_)
    | (intro _ _)
    | (simp +zetaDelta)
    | split

theorem execPatrolScrub_keeps (k : Nat) (corr : List Nat) (bad : List Nat) (s : State) : Keeps (queueOf s) (execPatrolScrub k corr bad s) := by
  unfold execPatrolScrub
  repeat' first
    | with_reducible rfl
    | (simp +zetaDelta [foldl_queue, foldl_snd_queue, foldl_fst_queue, pending_eq_queue]; done)
    | (with_reducible rw [foldl_queue])
    | (rw [pending_eq_queue])
    | (simp only [])
    | (with_reducible refine queue_ite _ _ _ _ ?_ ?_)
    | (with_reducible refine queue_ite_fst _ _ _ _ ?_ ?_)
    | (with_reducible refine queue_ite_snd _ _ _ _ ?_ ?_)
    | (with_reducible refine keeps_ite _ _ _ _ ?_ ?_)
    | (intro _ _)
    | (simp +zetaDelta)
    | split

theorem execInterleaveImbalance_keeps (k : Nat) (s : State) : Keeps (queueOf s) (execInterleaveImbalance k s) := by
  unfold execInterleaveImbalance
  repeat' first
    | with_reducible rfl
    | (simp +zetaDelta [foldl_queue, foldl_snd_queue, foldl_fst_queue, pending_eq_queue]; done)
    | (with_reducible rw [foldl_queue])
    | (rw [pending_eq_queue])
    | (simp only [])
    | (with_reducible refine queue_ite _ _ _ _ ?_ ?_)
    | (with_reducible refine queue_ite_fst _ _ _ _ ?_ ?_)
    | (with_reducible refine queue_ite_snd _ _ _ _ ?_ ?_)
    | (with_reducible refine keeps_ite _ _ _ _ ?_ ?_)
    | (intro _ _)
    | (simp +zetaDelta)
    | split

/-! ## Sys2Proof/Machine/Mill.lean -/

@[simp ↓] theorem fetchAsk_queue (s : State) (k n : Nat) (bs : List Nat) :
    (queueOf (fetchAsk s k n bs)) = (queueOf s) := by
  unfold fetchAsk
  repeat' first
    | with_reducible rfl
    | (simp +zetaDelta [foldl_queue, foldl_snd_queue, foldl_fst_queue, pending_eq_queue]; done)
    | (with_reducible rw [foldl_queue])
    | (rw [pending_eq_queue])
    | (simp only [])
    | (with_reducible refine queue_ite _ _ _ _ ?_ ?_)
    | (with_reducible refine queue_ite_fst _ _ _ _ ?_ ?_)
    | (with_reducible refine queue_ite_snd _ _ _ _ ?_ ?_)
    | (with_reducible refine keeps_ite _ _ _ _ ?_ ?_)
    | (intro _ _)
    | (simp +zetaDelta)
    | split

@[simp ↓] theorem failLot32_queue (s : State) (n lot code : Nat) :
    (queueOf (failLot32 s n lot code)) = (queueOf s) := by
  unfold failLot32
  repeat' first
    | with_reducible rfl
    | (simp +zetaDelta [foldl_queue, foldl_snd_queue, foldl_fst_queue, pending_eq_queue]; done)
    | (with_reducible rw [foldl_queue])
    | (rw [pending_eq_queue])
    | (simp only [])
    | (with_reducible refine queue_ite _ _ _ _ ?_ ?_)
    | (with_reducible refine queue_ite_fst _ _ _ _ ?_ ?_)
    | (with_reducible refine queue_ite_snd _ _ _ _ ?_ ?_)
    | (with_reducible refine keeps_ite _ _ _ _ ?_ ?_)
    | (intro _ _)
    | (simp +zetaDelta)
    | split

@[simp ↓] theorem failPost_queue (s : State) (n : Nat) (e : MillEnt) (code : Nat) :
    (queueOf (failPost s n e code)) = (queueOf s) := by
  unfold failPost
  repeat' first
    | with_reducible rfl
    | (simp +zetaDelta [foldl_queue, foldl_snd_queue, foldl_fst_queue, pending_eq_queue]; done)
    | (with_reducible rw [foldl_queue])
    | (rw [pending_eq_queue])
    | (simp only [])
    | (with_reducible refine queue_ite _ _ _ _ ?_ ?_)
    | (with_reducible refine queue_ite_fst _ _ _ _ ?_ ?_)
    | (with_reducible refine queue_ite_snd _ _ _ _ ?_ ?_)
    | (with_reducible refine keeps_ite _ _ _ _ ?_ ?_)
    | (intro _ _)
    | (simp +zetaDelta)
    | split

@[simp ↓] theorem millFail_queue (s : State) (n : Nat) (e : MillEnt) (ev : Event) :
    (queueOf (millFail s n e ev)) = (queueOf s) := by
  unfold millFail
  repeat' first
    | with_reducible rfl
    | (simp +zetaDelta [foldl_queue, foldl_snd_queue, foldl_fst_queue, pending_eq_queue]; done)
    | (with_reducible rw [foldl_queue])
    | (rw [pending_eq_queue])
    | (simp only [])
    | (with_reducible refine queue_ite _ _ _ _ ?_ ?_)
    | (with_reducible refine queue_ite_fst _ _ _ _ ?_ ?_)
    | (with_reducible refine queue_ite_snd _ _ _ _ ?_ ?_)
    | (with_reducible refine keeps_ite _ _ _ _ ?_ ?_)
    | (intro _ _)
    | (simp +zetaDelta)
    | split

@[simp ↓] theorem millComplete_queue (s : State) (k n : Nat) (e : MillEnt) :
    (queueOf (millComplete s k n e)) = (queueOf s) := by
  unfold millComplete
  repeat' first
    | with_reducible rfl
    | (simp +zetaDelta [foldl_queue, foldl_snd_queue, foldl_fst_queue, pending_eq_queue]; done)
    | (with_reducible rw [foldl_queue])
    | (rw [pending_eq_queue])
    | (simp only [])
    | (with_reducible refine queue_ite _ _ _ _ ?_ ?_)
    | (with_reducible refine queue_ite_fst _ _ _ _ ?_ ?_)
    | (with_reducible refine queue_ite_snd _ _ _ _ ?_ ?_)
    | (with_reducible refine keeps_ite _ _ _ _ ?_ ?_)
    | (intro _ _)
    | (simp +zetaDelta)
    | split

@[simp ↓] theorem millNaN_queue (s : State) (k n : Nat) (e : MillEnt) (cause : Nat) :
    (queueOf (millNaN s k n e cause)) = (queueOf s) := by
  unfold millNaN
  repeat' first
    | with_reducible rfl
    | (simp +zetaDelta [foldl_queue, foldl_snd_queue, foldl_fst_queue, pending_eq_queue]; done)
    | (with_reducible rw [foldl_queue])
    | (rw [pending_eq_queue])
    | (simp only [])
    | (with_reducible refine queue_ite _ _ _ _ ?_ ?_)
    | (with_reducible refine queue_ite_fst _ _ _ _ ?_ ?_)
    | (with_reducible refine queue_ite_snd _ _ _ _ ?_ ?_)
    | (with_reducible refine keeps_ite _ _ _ _ ?_ ?_)
    | (intro _ _)
    | (simp +zetaDelta)
    | split

@[simp ↓] theorem groupCommit_queue (s : State) (k n : Nat) (e : MillEnt) (g : GrpRun) :
    (queueOf (groupCommit s k n e g)) = (queueOf s) := by
  unfold groupCommit
  repeat' first
    | with_reducible rfl
    | (simp +zetaDelta [foldl_queue, foldl_snd_queue, foldl_fst_queue, pending_eq_queue]; done)
    | (with_reducible rw [foldl_queue])
    | (rw [pending_eq_queue])
    | (simp only [])
    | (with_reducible refine queue_ite _ _ _ _ ?_ ?_)
    | (with_reducible refine queue_ite_fst _ _ _ _ ?_ ?_)
    | (with_reducible refine queue_ite_snd _ _ _ _ ?_ ?_)
    | (with_reducible refine keeps_ite _ _ _ _ ?_ ?_)
    | (intro _ _)
    | (simp +zetaDelta)
    | split

@[simp ↓] theorem millAt_queue (s : State) (k n : Nat) (e : MillEnt) :
    (queueOf (millAt s k n e)) = (queueOf s) := by
  unfold millAt
  repeat' first
    | with_reducible rfl
    | (simp +zetaDelta [foldl_queue, foldl_snd_queue, foldl_fst_queue, pending_eq_queue]; done)
    | (with_reducible rw [foldl_queue])
    | (rw [pending_eq_queue])
    | (simp only [])
    | (with_reducible refine queue_ite _ _ _ _ ?_ ?_)
    | (with_reducible refine queue_ite_fst _ _ _ _ ?_ ?_)
    | (with_reducible refine queue_ite_snd _ _ _ _ ?_ ?_)
    | (with_reducible refine keeps_ite _ _ _ _ ?_ ?_)
    | (intro _ _)
    | (simp +zetaDelta)
    | split

@[simp ↓] theorem millTurned_queue (s : State) (k n : Nat) :
    (queueOf (millTurned s k n)) = (queueOf s) := by
  unfold millTurned
  repeat' first
    | with_reducible rfl
    | (simp +zetaDelta [foldl_queue, foldl_snd_queue, foldl_fst_queue, pending_eq_queue]; done)
    | (with_reducible rw [foldl_queue])
    | (rw [pending_eq_queue])
    | (simp only [])
    | (with_reducible refine queue_ite _ _ _ _ ?_ ?_)
    | (with_reducible refine queue_ite_fst _ _ _ _ ?_ ?_)
    | (with_reducible refine queue_ite_snd _ _ _ _ ?_ ?_)
    | (with_reducible refine keeps_ite _ _ _ _ ?_ ?_)
    | (intro _ _)
    | (simp +zetaDelta)
    | split

@[simp ↓] theorem fetchDrop_queue (s : State) (k n : Nat) :
    (queueOf (fetchDrop s k n)) = (queueOf s) := by
  unfold fetchDrop
  repeat' first
    | with_reducible rfl
    | (simp +zetaDelta [foldl_queue, foldl_snd_queue, foldl_fst_queue, pending_eq_queue]; done)
    | (with_reducible rw [foldl_queue])
    | (rw [pending_eq_queue])
    | (simp only [])
    | (with_reducible refine queue_ite _ _ _ _ ?_ ?_)
    | (with_reducible refine queue_ite_fst _ _ _ _ ?_ ?_)
    | (with_reducible refine queue_ite_snd _ _ _ _ ?_ ?_)
    | (with_reducible refine keeps_ite _ _ _ _ ?_ ?_)
    | (intro _ _)
    | (simp +zetaDelta)
    | split

@[simp ↓] theorem groupUpset_queue (s : State) (n : Nat) (bad : List (Nat × Nat)) :
    (queueOf (groupUpset s n bad)) = (queueOf s) := by
  unfold groupUpset
  repeat' first
    | with_reducible rfl
    | (simp +zetaDelta [foldl_queue, foldl_snd_queue, foldl_fst_queue, pending_eq_queue]; done)
    | (with_reducible rw [foldl_queue])
    | (rw [pending_eq_queue])
    | (simp only [])
    | (with_reducible refine queue_ite _ _ _ _ ?_ ?_)
    | (with_reducible refine queue_ite_fst _ _ _ _ ?_ ?_)
    | (with_reducible refine queue_ite_snd _ _ _ _ ?_ ?_)
    | (with_reducible refine keeps_ite _ _ _ _ ?_ ?_)
    | (intro _ _)
    | (simp +zetaDelta)
    | split

@[simp ↓] theorem groupServe_queue (s : State) (k n : Nat) (reads : List Nat) :
    (queueOf (groupServe s k n reads)) = (queueOf s) := by
  unfold groupServe
  repeat' first
    | with_reducible rfl
    | (simp +zetaDelta [foldl_queue, foldl_snd_queue, foldl_fst_queue, pending_eq_queue]; done)
    | (with_reducible rw [foldl_queue])
    | (rw [pending_eq_queue])
    | (simp only [])
    | (with_reducible refine queue_ite _ _ _ _ ?_ ?_)
    | (with_reducible refine queue_ite_fst _ _ _ _ ?_ ?_)
    | (with_reducible refine queue_ite_snd _ _ _ _ ?_ ?_)
    | (with_reducible refine keeps_ite _ _ _ _ ?_ ?_)
    | (intro _ _)
    | (simp +zetaDelta)
    | split

@[simp ↓] theorem groupReport_queue (s : State) (k n : Nat) (e : MillEnt) (reads : List Nat) :
    (queueOf (groupReport s k n e reads)) = (queueOf s) := by
  unfold groupReport
  repeat' first
    | with_reducible rfl
    | (simp +zetaDelta [foldl_queue, foldl_snd_queue, foldl_fst_queue, pending_eq_queue]; done)
    | (with_reducible rw [foldl_queue])
    | (rw [pending_eq_queue])
    | (simp only [])
    | (with_reducible refine queue_ite _ _ _ _ ?_ ?_)
    | (with_reducible refine queue_ite_fst _ _ _ _ ?_ ?_)
    | (with_reducible refine queue_ite_snd _ _ _ _ ?_ ?_)
    | (with_reducible refine keeps_ite _ _ _ _ ?_ ?_)
    | (intro _ _)
    | (simp +zetaDelta)
    | split

@[simp ↓] theorem groupDo_queue (s0 : State) (k n : Nat) (e : MillEnt) (o : Nat) (res : Bool) :
    (queueOf (groupDo s0 k n e o res)) = (queueOf s0) := by
  unfold groupDo
  repeat' first
    | with_reducible rfl
    | (simp +zetaDelta [foldl_queue, foldl_snd_queue, foldl_fst_queue, pending_eq_queue]; done)
    | (with_reducible rw [foldl_queue])
    | (rw [pending_eq_queue])
    | (simp only [])
    | (with_reducible refine queue_ite _ _ _ _ ?_ ?_)
    | (with_reducible refine queue_ite_fst _ _ _ _ ?_ ?_)
    | (with_reducible refine queue_ite_snd _ _ _ _ ?_ ?_)
    | (with_reducible refine keeps_ite _ _ _ _ ?_ ?_)
    | (intro _ _)
    | (simp +zetaDelta)
    | split

@[simp ↓] theorem groupWork_queue (s0 : State) (k n : Nat) (e : MillEnt) (o : Nat) (res : Bool) (bad : List (Nat × Nat)) :
    (queueOf (groupWork s0 k n e o res bad)) = (queueOf s0) := by
  unfold groupWork
  repeat' first
    | with_reducible rfl
    | (simp +zetaDelta [foldl_queue, foldl_snd_queue, foldl_fst_queue, pending_eq_queue]; done)
    | (with_reducible rw [foldl_queue])
    | (rw [pending_eq_queue])
    | (simp only [])
    | (with_reducible refine queue_ite _ _ _ _ ?_ ?_)
    | (with_reducible refine queue_ite_fst _ _ _ _ ?_ ?_)
    | (with_reducible refine queue_ite_snd _ _ _ _ ?_ ?_)
    | (with_reducible refine keeps_ite _ _ _ _ ?_ ?_)
    | (intro _ _)
    | (simp +zetaDelta)
    | split

theorem execMillDescriptorTake_keeps (k n : Nat) (s : State) : Keeps (queueOf s) (execMillDescriptorTake k n s) := by
  unfold execMillDescriptorTake
  repeat' first
    | with_reducible rfl
    | (simp +zetaDelta [foldl_queue, foldl_snd_queue, foldl_fst_queue, pending_eq_queue]; done)
    | (with_reducible rw [foldl_queue])
    | (rw [pending_eq_queue])
    | (simp only [])
    | (with_reducible refine queue_ite _ _ _ _ ?_ ?_)
    | (with_reducible refine queue_ite_fst _ _ _ _ ?_ ?_)
    | (with_reducible refine queue_ite_snd _ _ _ _ ?_ ?_)
    | (with_reducible refine keeps_ite _ _ _ _ ?_ ?_)
    | (intro _ _)
    | (simp +zetaDelta)
    | split

theorem millRun_keeps (op k n : Nat) (res : Bool) (bad : List (Nat × Nat)) (s : State) : Keeps (queueOf s) (millRun op k n res bad s) := by
  unfold millRun
  repeat' first
    | with_reducible rfl
    | (simp +zetaDelta [foldl_queue, foldl_snd_queue, foldl_fst_queue, pending_eq_queue]; done)
    | (with_reducible rw [foldl_queue])
    | (rw [pending_eq_queue])
    | (simp only [])
    | (with_reducible refine queue_ite _ _ _ _ ?_ ?_)
    | (with_reducible refine queue_ite_fst _ _ _ _ ?_ ?_)
    | (with_reducible refine queue_ite_snd _ _ _ _ ?_ ?_)
    | (with_reducible refine keeps_ite _ _ _ _ ?_ ?_)
    | (intro _ _)
    | (simp +zetaDelta)
    | split

theorem execMillSgd_keeps (k n : Nat) (res : Bool) (bad : List (Nat × Nat)) (s : State) : Keeps (queueOf s) (execMillSgd k n res bad s) :=
  millRun_keeps _ _ _ _ _ _

theorem execMillAdam_keeps (k n : Nat) (res : Bool) (bad : List (Nat × Nat)) (s : State) : Keeps (queueOf s) (execMillAdam k n res bad s) :=
  millRun_keeps _ _ _ _ _ _

theorem execMillLion_keeps (k n : Nat) (res : Bool) (bad : List (Nat × Nat)) (s : State) : Keeps (queueOf s) (execMillLion k n res bad s) :=
  millRun_keeps _ _ _ _ _ _

theorem execMillGatherRows_keeps (k n : Nat) (res : Bool) (bad : List (Nat × Nat)) (s : State) : Keeps (queueOf s) (execMillGatherRows k n res bad s) :=
  millRun_keeps _ _ _ _ _ _

theorem execMillScatterAdd_keeps (k n : Nat) (res : Bool) (bad : List (Nat × Nat)) (s : State) : Keeps (queueOf s) (execMillScatterAdd k n res bad s) :=
  millRun_keeps _ _ _ _ _ _

theorem execMillCopyConvert_keeps (k n : Nat) (bad : List (Nat × Nat)) (s : State) : Keeps (queueOf s) (execMillCopyConvert k n bad s) :=
  millRun_keeps _ _ _ _ _ _

theorem execMillFill_keeps (k n : Nat) (bad : List (Nat × Nat)) (s : State) : Keeps (queueOf s) (execMillFill k n bad s) :=
  millRun_keeps _ _ _ _ _ _

theorem execMillOrderedReduction_keeps (k n : Nat) (res : Bool) (bad : List (Nat × Nat)) (s : State) : Keeps (queueOf s) (execMillOrderedReduction k n res bad s) := by
  unfold execMillOrderedReduction
  repeat' first
    | with_reducible rfl
    | (simp +zetaDelta [foldl_queue, foldl_snd_queue, foldl_fst_queue, pending_eq_queue]; done)
    | (with_reducible rw [foldl_queue])
    | (rw [pending_eq_queue])
    | (simp only [])
    | (with_reducible refine queue_ite _ _ _ _ ?_ ?_)
    | (with_reducible refine queue_ite_fst _ _ _ _ ?_ ?_)
    | (with_reducible refine queue_ite_snd _ _ _ _ ?_ ?_)
    | (with_reducible refine keeps_ite _ _ _ _ ?_ ?_)
    | (intro _ _)
    | (simp +zetaDelta)
    | split

theorem execReductionSlotArrival_keeps (k : Nat) (res : Bool) (bad : List (Nat × Nat)) (s : State) : Keeps (queueOf s) (execReductionSlotArrival k res bad s) := by
  unfold execReductionSlotArrival
  repeat' first
    | with_reducible rfl
    | (simp +zetaDelta [foldl_queue, foldl_snd_queue, foldl_fst_queue, pending_eq_queue]; done)
    | (with_reducible rw [foldl_queue])
    | (rw [pending_eq_queue])
    | (simp only [])
    | (with_reducible refine queue_ite _ _ _ _ ?_ ?_)
    | (with_reducible refine queue_ite_fst _ _ _ _ ?_ ?_)
    | (with_reducible refine queue_ite_snd _ _ _ _ ?_ ?_)
    | (with_reducible refine keeps_ite _ _ _ _ ?_ ?_)
    | (intro _ _)
    | (simp +zetaDelta)
    | split

end Sys2Proof.Machine
end

