-- ==== Sys2Proof/Laws/QueueD.lean ====
section
/-! SUPPORT. The operations and commands of Csr, Clerk keep the queue. -/

set_option linter.unusedSimpArgs false
set_option linter.unusedVariables false
set_option linter.unreachableTactic false
set_option linter.unusedTactic false

namespace Sys2Proof.Machine

/-! ## Sys2Proof/Machine/Csr.lean -/

@[simp ↓] theorem csrTake_queue (s : State) (p c : Nat) :
    (queueOf (csrTake s p c)) = (queueOf s) := by
  unfold csrTake
  repeat' first
    | with_reducible rfl
    | (simp +zetaDelta [foldl_queue, foldl_snd_queue, foldl_fst_queue, pending_eq_queue]; done)
    | (with_reducible rw [foldl_queue])
    | (rw [pending_eq_queue])
    | (simp only [])
    | (with_reducible refine queue_ite _ _ _ _ ?_ ?_)
    | (with_reducible refine queue_ite_fst _ _ _ _ ?_ ?_)
    | (with_reducible refine queue_ite_snd _ _ _ _ ?_ ?_)
    | (with_reducible refine keeps_ite _ _ _ _ ?_ ?_)
    | (intro _ _)
    | (simp +zetaDelta)
    | split

@[simp ↓] theorem csrPut_queue (s : State) (p c v : Nat) :
    (queueOf (csrPut s p c v)) = (queueOf s) := by
  unfold csrPut
  repeat' first
    | with_reducible rfl
    | (simp +zetaDelta [foldl_queue, foldl_snd_queue, foldl_fst_queue, pending_eq_queue]; done)
    | (with_reducible rw [foldl_queue])
    | (rw [pending_eq_queue])
    | (simp only [])
    | (with_reducible refine queue_ite _ _ _ _ ?_ ?_)
    | (with_reducible refine queue_ite_fst _ _ _ _ ?_ ?_)
    | (with_reducible refine queue_ite_snd _ _ _ _ ?_ ?_)
    | (with_reducible refine keeps_ite _ _ _ _ ?_ ?_)
    | (intro _ _)
    | (simp +zetaDelta)
    | split

theorem qsendPut_queue (s : State) (p v : Nat) (t : State) (h : qsendPut s p v = some t) : (queueOf t) = (queueOf s) := by
  unfold qsendPut at h
  simp only [] at h
  split at h
  · cases h
    simp
  · split at h
    · cases h
      simp
    · cases h

@[simp ↓] theorem imFillPut_queue (s : State) (p v next : Nat) :
    (queueOf (imFillPut s p v next)) = (queueOf s) := by
  unfold imFillPut
  repeat' first
    | with_reducible rfl
    | (simp +zetaDelta [foldl_queue, foldl_snd_queue, foldl_fst_queue, pending_eq_queue]; done)
    | (with_reducible rw [foldl_queue])
    | (rw [pending_eq_queue])
    | (simp only [])
    | (with_reducible refine queue_ite _ _ _ _ ?_ ?_)
    | (with_reducible refine queue_ite_fst _ _ _ _ ?_ ?_)
    | (with_reducible refine queue_ite_snd _ _ _ _ ?_ ?_)
    | (with_reducible refine keeps_ite _ _ _ _ ?_ ?_)
    | (intro _ _)
    | (simp +zetaDelta)
    | split

/-! ## Sys2Proof/Machine/Clerk.lean -/

@[simp ↓] theorem modClerk_queue (s : State) (p : Nat) (f : Clerk → Clerk) :
    (queueOf (modClerk s p f)) = (queueOf s) := by
  unfold modClerk
  repeat' first
    | with_reducible rfl
    | (simp +zetaDelta [foldl_queue, foldl_snd_queue, foldl_fst_queue, pending_eq_queue]; done)
    | (with_reducible rw [foldl_queue])
    | (rw [pending_eq_queue])
    | (simp only [])
    | (with_reducible refine queue_ite _ _ _ _ ?_ ?_)
    | (with_reducible refine queue_ite_fst _ _ _ _ ?_ ?_)
    | (with_reducible refine queue_ite_snd _ _ _ _ ?_ ?_)
    | (with_reducible refine keeps_ite _ _ _ _ ?_ ?_)
    | (intro _ _)
    | (simp +zetaDelta)
    | split

@[simp ↓] theorem retire_queue (s : State) (p : Nat) (i : Fetched) (rd : Nat) (go : Option Nat) :
    (queueOf (retire s p i rd go)) = (queueOf s) := by
  unfold retire
  repeat' first
    | with_reducible rfl
    | (simp +zetaDelta [foldl_queue, foldl_snd_queue, foldl_fst_queue, pending_eq_queue]; done)
    | (with_reducible rw [foldl_queue])
    | (rw [pending_eq_queue])
    | (simp only [])
    | (with_reducible refine queue_ite _ _ _ _ ?_ ?_)
    | (with_reducible refine queue_ite_fst _ _ _ _ ?_ ?_)
    | (with_reducible refine queue_ite_snd _ _ _ _ ?_ ?_)
    | (with_reducible refine keeps_ite _ _ _ _ ?_ ?_)
    | (intro _ _)
    | (simp +zetaDelta)
    | split

@[simp ↓] theorem clerkFault_queue (s : State) (p : Nat) (info : List Byte) :
    (queueOf (clerkFault s p info)) = (queueOf s) := by
  unfold clerkFault
  repeat' first
    | with_reducible rfl
    | (simp +zetaDelta [foldl_queue, foldl_snd_queue, foldl_fst_queue, pending_eq_queue]; done)
    | (with_reducible rw [foldl_queue])
    | (rw [pending_eq_queue])
    | (simp only [])
    | (with_reducible refine queue_ite _ _ _ _ ?_ ?_)
    | (with_reducible refine queue_ite_fst _ _ _ _ ?_ ?_)
    | (with_reducible refine queue_ite_snd _ _ _ _ ?_ ?_)
    | (with_reducible refine keeps_ite _ _ _ _ ?_ ?_)
    | (intro _ _)
    | (simp +zetaDelta)
    | split

@[simp ↓] theorem takeExc_queue (s : State) (p : Nat) (cause tval len : Nat) :
    (queueOf (takeExc s p cause tval len)) = (queueOf s) := by
  unfold takeExc
  repeat' first
    | with_reducible rfl
    | (simp +zetaDelta [foldl_queue, foldl_snd_queue, foldl_fst_queue, pending_eq_queue]; done)
    | (with_reducible rw [foldl_queue])
    | (rw [pending_eq_queue])
    | (simp only [])
    | (with_reducible refine queue_ite _ _ _ _ ?_ ?_)
    | (with_reducible refine queue_ite_fst _ _ _ _ ?_ ?_)
    | (with_reducible refine queue_ite_snd _ _ _ _ ?_ ?_)
    | (with_reducible refine keeps_ite _ _ _ _ ?_ ?_)
    | (intro _ _)
    | (simp +zetaDelta)
    | split

@[simp ↓] theorem raiseExc_queue (s0 : State) (p : Nat) (e : Nat × Nat) (len : Nat) :
    (queueOf (raiseExc s0 p e len)) = (queueOf s0) := by
  unfold raiseExc
  repeat' first
    | with_reducible rfl
    | (simp +zetaDelta [foldl_queue, foldl_snd_queue, foldl_fst_queue, pending_eq_queue]; done)
    | (with_reducible rw [foldl_queue])
    | (rw [pending_eq_queue])
    | (simp only [])
    | (with_reducible refine queue_ite _ _ _ _ ?_ ?_)
    | (with_reducible refine queue_ite_fst _ _ _ _ ?_ ?_)
    | (with_reducible refine queue_ite_snd _ _ _ _ ?_ ?_)
    | (with_reducible refine keeps_ite _ _ _ _ ?_ ?_)
    | (intro _ _)
    | (simp +zetaDelta)
    | split

@[simp ↓] theorem fetchUnc_queue (s : State) (p a : Nat) :
    (queueOf (fetchUnc s p a)) = (queueOf s) := by
  unfold fetchUnc
  repeat' first
    | with_reducible rfl
    | (simp +zetaDelta [foldl_queue, foldl_snd_queue, foldl_fst_queue, pending_eq_queue]; done)
    | (with_reducible rw [foldl_queue])
    | (rw [pending_eq_queue])
    | (simp only [])
    | (with_reducible refine queue_ite _ _ _ _ ?_ ?_)
    | (with_reducible refine queue_ite_fst _ _ _ _ ?_ ?_)
    | (with_reducible refine queue_ite_snd _ _ _ _ ?_ ?_)
    | (with_reducible refine keeps_ite _ _ _ _ ?_ ?_)
    | (intro _ _)
    | (simp +zetaDelta)
    | split

@[simp ↓] theorem fetchFault_queue (s0 : State) (p a : Nat) :
    (queueOf (fetchFault s0 p a)) = (queueOf s0) := by
  unfold fetchFault
  repeat' first
    | with_reducible rfl
    | (simp +zetaDelta [foldl_queue, foldl_snd_queue, foldl_fst_queue, pending_eq_queue]; done)
    | (with_reducible rw [foldl_queue])
    | (rw [pending_eq_queue])
    | (simp only [])
    | (with_reducible refine queue_ite _ _ _ _ ?_ ?_)
    | (with_reducible refine queue_ite_fst _ _ _ _ ?_ ?_)
    | (with_reducible refine queue_ite_snd _ _ _ _ ?_ ?_)
    | (with_reducible refine keeps_ite _ _ _ _ ?_ ?_)
    | (intro _ _)
    | (simp +zetaDelta)
    | split

@[simp ↓] theorem setX_queue (s : State) (p rd : Nat) (v : Word) :
    (queueOf (setX s p rd v)) = (queueOf s) := by
  unfold setX
  repeat' first
    | with_reducible rfl
    | (simp +zetaDelta [foldl_queue, foldl_snd_queue, foldl_fst_queue, pending_eq_queue]; done)
    | (with_reducible rw [foldl_queue])
    | (rw [pending_eq_queue])
    | (simp only [])
    | (with_reducible refine queue_ite _ _ _ _ ?_ ?_)
    | (with_reducible refine queue_ite_fst _ _ _ _ ?_ ?_)
    | (with_reducible refine queue_ite_snd _ _ _ _ ?_ ?_)
    | (with_reducible refine keeps_ite _ _ _ _ ?_ ?_)
    | (intro _ _)
    | (simp +zetaDelta)
    | split

@[simp ↓] theorem atCc_queue (s : State) (p : Nat) (f : Nat → Ctx → Ctx) :
    (queueOf (atCc s p f)) = (queueOf s) := by
  unfold atCc
  repeat' first
    | with_reducible rfl
    | (simp +zetaDelta [foldl_queue, foldl_snd_queue, foldl_fst_queue, pending_eq_queue]; done)
    | (with_reducible rw [foldl_queue])
    | (rw [pending_eq_queue])
    | (simp only [])
    | (with_reducible refine queue_ite _ _ _ _ ?_ ?_)
    | (with_reducible refine queue_ite_fst _ _ _ _ ?_ ?_)
    | (with_reducible refine queue_ite_snd _ _ _ _ ?_ ?_)
    | (with_reducible refine keeps_ite _ _ _ _ ?_ ?_)
    | (intro _ _)
    | (simp +zetaDelta)
    | split

@[simp ↓] theorem csrExec_queue (s : State) (p f3 rd src c : Nat) :
    (queueOf (csrExec s p f3 rd src c)) = (queueOf s) := by
  unfold csrExec
  repeat' first
    | with_reducible rfl
    | (simp +zetaDelta [foldl_queue, foldl_snd_queue, foldl_fst_queue, pending_eq_queue]; done)
    | (with_reducible rw [foldl_queue])
    | (rw [pending_eq_queue])
    | (simp only [])
    | (with_reducible refine queue_ite _ _ _ _ ?_ ?_)
    | (with_reducible refine queue_ite_fst _ _ _ _ ?_ ?_)
    | (with_reducible refine queue_ite_snd _ _ _ _ ?_ ?_)
    | (with_reducible refine keeps_ite _ _ _ _ ?_ ?_)
    | (intro _ _)
    | (simp +zetaDelta)
    | split

@[simp ↓] theorem loadExec_queue (s : State) (p f3 rd a : Nat) :
    (queueOf (loadExec s p f3 rd a)) = (queueOf s) := by
  unfold loadExec
  repeat' first
    | with_reducible rfl
    | (simp +zetaDelta [foldl_queue, foldl_snd_queue, foldl_fst_queue, pending_eq_queue]; done)
    | (with_reducible rw [foldl_queue])
    | (rw [pending_eq_queue])
    | (simp only [])
    | (with_reducible refine queue_ite _ _ _ _ ?_ ?_)
    | (with_reducible refine queue_ite_fst _ _ _ _ ?_ ?_)
    | (with_reducible refine queue_ite_snd _ _ _ _ ?_ ?_)
    | (with_reducible refine keeps_ite _ _ _ _ ?_ ?_)
    | (intro _ _)
    | (simp +zetaDelta)
    | split

@[simp ↓] theorem lrExec_queue (s : State) (p rd a : Nat) :
    (queueOf (lrExec s p rd a)) = (queueOf s) := by
  unfold lrExec
  repeat' first
    | with_reducible rfl
    | (simp +zetaDelta [foldl_queue, foldl_snd_queue, foldl_fst_queue, pending_eq_queue]; done)
    | (with_reducible rw [foldl_queue])
    | (rw [pending_eq_queue])
    | (simp only [])
    | (with_reducible refine queue_ite _ _ _ _ ?_ ?_)
    | (with_reducible refine queue_ite_fst _ _ _ _ ?_ ?_)
    | (with_reducible refine queue_ite_snd _ _ _ _ ?_ ?_)
    | (with_reducible refine keeps_ite _ _ _ _ ?_ ?_)
    | (intro _ _)
    | (simp +zetaDelta)
    | split

@[simp ↓] theorem scExec_queue (s : State) (p rd a : Nat) (v : Word) :
    (queueOf (scExec s p rd a v)) = (queueOf s) := by
  unfold scExec
  repeat' first
    | with_reducible rfl
    | (simp +zetaDelta [foldl_queue, foldl_snd_queue, foldl_fst_queue, pending_eq_queue]; done)
    | (with_reducible rw [foldl_queue])
    | (rw [pending_eq_queue])
    | (simp only [])
    | (with_reducible refine queue_ite _ _ _ _ ?_ ?_)
    | (with_reducible refine queue_ite_fst _ _ _ _ ?_ ?_)
    | (with_reducible refine queue_ite_snd _ _ _ _ ?_ ?_)
    | (with_reducible refine keeps_ite _ _ _ _ ?_ ?_)
    | (intro _ _)
    | (simp +zetaDelta)
    | split

@[simp ↓] theorem bellExec_queue (s : State) (p : Nat) (i : Fetched) (rd : Nat) :
    (queueOf (bellExec s p i rd)) = (queueOf s) := by
  unfold bellExec
  repeat' first
    | with_reducible rfl
    | (simp +zetaDelta [foldl_queue, foldl_snd_queue, foldl_fst_queue, pending_eq_queue]; done)
    | (with_reducible rw [foldl_queue])
    | (rw [pending_eq_queue])
    | (simp only [])
    | (with_reducible refine queue_ite _ _ _ _ ?_ ?_)
    | (with_reducible refine queue_ite_fst _ _ _ _ ?_ ?_)
    | (with_reducible refine queue_ite_snd _ _ _ _ ?_ ?_)
    | (with_reducible refine keeps_ite _ _ _ _ ?_ ?_)
    | (intro _ _)
    | (simp +zetaDelta)
    | split

@[simp ↓] theorem clerkHalt_queue (s : State) (p cause : Nat) :
    (queueOf (clerkHalt s p cause)) = (queueOf s) := by
  unfold clerkHalt
  repeat' first
    | with_reducible rfl
    | (simp +zetaDelta [foldl_queue, foldl_snd_queue, foldl_fst_queue, pending_eq_queue]; done)
    | (with_reducible rw [foldl_queue])
    | (rw [pending_eq_queue])
    | (simp only [])
    | (with_reducible refine queue_ite _ _ _ _ ?_ ?_)
    | (with_reducible refine queue_ite_fst _ _ _ _ ?_ ?_)
    | (with_reducible refine queue_ite_snd _ _ _ _ ?_ ?_)
    | (with_reducible refine keeps_ite _ _ _ _ ?_ ?_)
    | (intro _ _)
    | (simp +zetaDelta)
    | split

@[simp ↓] theorem insExec_queue (s : State) (p : Nat) (i : Fetched) : (queueOf (insExec s p i)) = (queueOf s) := by
  unfold insExec
  simp only []
  split
  case h_13 =>
    split
    · split
      · rfl
      · rename_i he
        have h := qsendPut_queue _ _ _ _ he
        simp only [retire_queue]
        split <;> simp [h]
    all_goals (repeat' split)
    all_goals simp
  all_goals
    repeat' first
    | with_reducible rfl
    | (simp +zetaDelta [foldl_queue, foldl_snd_queue, foldl_fst_queue, pending_eq_queue]; done)
    | (with_reducible rw [foldl_queue])
    | (rw [pending_eq_queue])
    | (simp only [])
    | (with_reducible refine queue_ite _ _ _ _ ?_ ?_)
    | (with_reducible refine queue_ite_fst _ _ _ _ ?_ ?_)
    | (with_reducible refine queue_ite_snd _ _ _ _ ?_ ?_)
    | (with_reducible refine keeps_ite _ _ _ _ ?_ ?_)
    | (intro _ _)
    | (simp +zetaDelta)
    | split

@[simp ↓] theorem insRun_queue (s : State) (p : Nat) (i : Fetched) :
    (queueOf (insRun s p i)) = (queueOf s) := by
  unfold insRun
  repeat' first
    | with_reducible rfl
    | (simp +zetaDelta [foldl_queue, foldl_snd_queue, foldl_fst_queue, pending_eq_queue]; done)
    | (with_reducible rw [foldl_queue])
    | (rw [pending_eq_queue])
    | (simp only [])
    | (with_reducible refine queue_ite _ _ _ _ ?_ ?_)
    | (with_reducible refine queue_ite_fst _ _ _ _ ?_ ?_)
    | (with_reducible refine queue_ite_snd _ _ _ _ ?_ ?_)
    | (with_reducible refine keeps_ite _ _ _ _ ?_ ?_)
    | (intro _ _)
    | (simp +zetaDelta)
    | split

@[simp ↓] theorem imUpset_queue (s : State) (p : Nat) (ups : List (Nat × Nat)) :
    (queueOf (imUpset s p ups)) = (queueOf s) := by
  unfold imUpset
  repeat' first
    | with_reducible rfl
    | (simp +zetaDelta [foldl_queue, foldl_snd_queue, foldl_fst_queue, pending_eq_queue]; done)
    | (with_reducible rw [foldl_queue])
    | (rw [pending_eq_queue])
    | (simp only [])
    | (with_reducible refine queue_ite _ _ _ _ ?_ ?_)
    | (with_reducible refine queue_ite_fst _ _ _ _ ?_ ?_)
    | (with_reducible refine queue_ite_snd _ _ _ _ ?_ ?_)
    | (with_reducible refine keeps_ite _ _ _ _ ?_ ?_)
    | (intro _ _)
    | (simp +zetaDelta)
    | split

@[simp ↓] theorem clerkTry_queue (kind : CKind) (p : Nat) (s : State) :
    (queueOf (clerkTry kind p s)) = (queueOf s) := by
  unfold clerkTry
  repeat' first
    | with_reducible rfl
    | (simp +zetaDelta [foldl_queue, foldl_snd_queue, foldl_fst_queue, pending_eq_queue]; done)
    | (with_reducible rw [foldl_queue])
    | (rw [pending_eq_queue])
    | (simp only [])
    | (with_reducible refine queue_ite _ _ _ _ ?_ ?_)
    | (with_reducible refine queue_ite_fst _ _ _ _ ?_ ?_)
    | (with_reducible refine queue_ite_snd _ _ _ _ ?_ ?_)
    | (with_reducible refine keeps_ite _ _ _ _ ?_ ?_)
    | (intro _ _)
    | (simp +zetaDelta)
    | split

@[simp ↓] theorem clerkRow_keeps (kind : CKind) (p : Nat) (s : State) : Keeps (queueOf s) (clerkRow kind p s) := by
  unfold clerkRow
  repeat' first
    | with_reducible rfl
    | (simp +zetaDelta [foldl_queue, foldl_snd_queue, foldl_fst_queue, pending_eq_queue]; done)
    | (with_reducible rw [foldl_queue])
    | (rw [pending_eq_queue])
    | (simp only [])
    | (with_reducible refine queue_ite _ _ _ _ ?_ ?_)
    | (with_reducible refine queue_ite_fst _ _ _ _ ?_ ?_)
    | (with_reducible refine queue_ite_snd _ _ _ _ ?_ ?_)
    | (with_reducible refine keeps_ite _ _ _ _ ?_ ?_)
    | (intro _ _)
    | (simp +zetaDelta)
    | split

@[simp ↓] theorem trapTry_queue (p : Nat) (s : State) :
    (queueOf (trapTry p s)) = (queueOf s) := by
  unfold trapTry
  repeat' first
    | with_reducible rfl
    | (simp +zetaDelta [foldl_queue, foldl_snd_queue, foldl_fst_queue, pending_eq_queue]; done)
    | (with_reducible rw [foldl_queue])
    | (rw [pending_eq_queue])
    | (simp only [])
    | (with_reducible refine queue_ite _ _ _ _ ?_ ?_)
    | (with_reducible refine queue_ite_fst _ _ _ _ ?_ ?_)
    | (with_reducible refine queue_ite_snd _ _ _ _ ?_ ?_)
    | (with_reducible refine keeps_ite _ _ _ _ ?_ ?_)
    | (intro _ _)
    | (simp +zetaDelta)
    | split

theorem execClerkInstruction_keeps (p : Nat) (ups : List (Nat × Nat)) (s : State) : Keeps (queueOf s) (execClerkInstruction p ups s) := by
  unfold execClerkInstruction
  repeat' first
    | with_reducible rfl
    | (simp +zetaDelta [foldl_queue, foldl_snd_queue, foldl_fst_queue, pending_eq_queue]; done)
    | (with_reducible rw [foldl_queue])
    | (rw [pending_eq_queue])
    | (simp only [])
    | (with_reducible refine queue_ite _ _ _ _ ?_ ?_)
    | (with_reducible refine queue_ite_fst _ _ _ _ ?_ ?_)
    | (with_reducible refine queue_ite_snd _ _ _ _ ?_ ?_)
    | (with_reducible refine keeps_ite _ _ _ _ ?_ ?_)
    | (intro _ _)
    | (simp +zetaDelta)
    | split

theorem execClerkLoad_keeps (p : Nat) (ups : List (Nat × Nat)) (s : State) : Keeps (queueOf s) (execClerkLoad p ups s) := by
  unfold execClerkLoad
  repeat' first
    | with_reducible rfl
    | (simp +zetaDelta [foldl_queue, foldl_snd_queue, foldl_fst_queue, pending_eq_queue]; done)
    | (with_reducible rw [foldl_queue])
    | (rw [pending_eq_queue])
    | (simp only [])
    | (with_reducible refine queue_ite _ _ _ _ ?_ ?_)
    | (with_reducible refine queue_ite_fst _ _ _ _ ?_ ?_)
    | (with_reducible refine queue_ite_snd _ _ _ _ ?_ ?_)
    | (with_reducible refine keeps_ite _ _ _ _ ?_ ?_)
    | (intro _ _)
    | (simp +zetaDelta)
    | split

theorem execClerkStore_keeps (p : Nat) (s : State) : Keeps (queueOf s) (execClerkStore p s) := by
  unfold execClerkStore
  repeat' first
    | with_reducible rfl
    | (simp +zetaDelta [foldl_queue, foldl_snd_queue, foldl_fst_queue, pending_eq_queue]; done)
    | (with_reducible rw [foldl_queue])
    | (rw [pending_eq_queue])
    | (simp only [])
    | (with_reducible refine queue_ite _ _ _ _ ?_ ?_)
    | (with_reducible refine queue_ite_fst _ _ _ _ ?_ ?_)
    | (with_reducible refine queue_ite_snd _ _ _ _ ?_ ?_)
    | (with_reducible refine keeps_ite _ _ _ _ ?_ ?_)
    | (intro _ _)
    | (simp +zetaDelta)
    | split

theorem execXlRep_keeps (p : Nat) (s : State) : Keeps (queueOf s) (execXlRep p s) := by
  unfold execXlRep
  repeat' first
    | with_reducible rfl
    | (simp +zetaDelta [foldl_queue, foldl_snd_queue, foldl_fst_queue, pending_eq_queue]; done)
    | (with_reducible rw [foldl_queue])
    | (rw [pending_eq_queue])
    | (simp only [])
    | (with_reducible refine queue_ite _ _ _ _ ?_ ?_)
    | (with_reducible refine queue_ite_fst _ _ _ _ ?_ ?_)
    | (with_reducible refine queue_ite_snd _ _ _ _ ?_ ?_)
    | (with_reducible refine keeps_ite _ _ _ _ ?_ ?_)
    | (intro _ _)
    | (simp +zetaDelta)
    | split

theorem execXlRepi_keeps (p : Nat) (s : State) : Keeps (queueOf s) (execXlRepi p s) := by
  unfold execXlRepi
  repeat' first
    | with_reducible rfl
    | (simp +zetaDelta [foldl_queue, foldl_snd_queue, foldl_fst_queue, pending_eq_queue]; done)
    | (with_reducible rw [foldl_queue])
    | (rw [pending_eq_queue])
    | (simp only [])
    | (with_reducible refine queue_ite _ _ _ _ ?_ ?_)
    | (with_reducible refine queue_ite_fst _ _ _ _ ?_ ?_)
    | (with_reducible refine queue_ite_snd _ _ _ _ ?_ ?_)
    | (with_reducible refine keeps_ite _ _ _ _ ?_ ?_)
    | (intro _ _)
    | (simp +zetaDelta)
    | split

theorem execXlQuit_keeps (p : Nat) (s : State) : Keeps (queueOf s) (execXlQuit p s) := by
  unfold execXlQuit
  repeat' first
    | with_reducible rfl
    | (simp +zetaDelta [foldl_queue, foldl_snd_queue, foldl_fst_queue, pending_eq_queue]; done)
    | (with_reducible rw [foldl_queue])
    | (rw [pending_eq_queue])
    | (simp only [])
    | (with_reducible refine queue_ite _ _ _ _ ?_ ?_)
    | (with_reducible refine queue_ite_fst _ _ _ _ ?_ ?_)
    | (with_reducible refine queue_ite_snd _ _ _ _ ?_ ?_)
    | (with_reducible refine keeps_ite _ _ _ _ ?_ ?_)
    | (intro _ _)
    | (simp +zetaDelta)
    | split

theorem execBellWait_keeps (p : Nat) (s : State) : Keeps (queueOf s) (execBellWait p s) := by
  unfold execBellWait
  repeat' first
    | with_reducible rfl
    | (simp +zetaDelta [foldl_queue, foldl_snd_queue, foldl_fst_queue, pending_eq_queue]; done)
    | (with_reducible rw [foldl_queue])
    | (rw [pending_eq_queue])
    | (simp only [])
    | (with_reducible refine queue_ite _ _ _ _ ?_ ?_)
    | (with_reducible refine queue_ite_fst _ _ _ _ ?_ ?_)
    | (with_reducible refine queue_ite_snd _ _ _ _ ?_ ?_)
    | (with_reducible refine keeps_ite _ _ _ _ ?_ ?_)
    | (intro _ _)
    | (simp +zetaDelta)
    | split

theorem execLrW_keeps (p : Nat) (s : State) : Keeps (queueOf s) (execLrW p s) := by
  unfold execLrW
  repeat' first
    | with_reducible rfl
    | (simp +zetaDelta [foldl_queue, foldl_snd_queue, foldl_fst_queue, pending_eq_queue]; done)
    | (with_reducible rw [foldl_queue])
    | (rw [pending_eq_queue])
    | (simp only [])
    | (with_reducible refine queue_ite _ _ _ _ ?_ ?_)
    | (with_reducible refine queue_ite_fst _ _ _ _ ?_ ?_)
    | (with_reducible refine queue_ite_snd _ _ _ _ ?_ ?_)
    | (with_reducible refine keeps_ite _ _ _ _ ?_ ?_)
    | (intro _ _)
    | (simp +zetaDelta)
    | split

theorem execScW_keeps (p : Nat) (s : State) : Keeps (queueOf s) (execScW p s) := by
  unfold execScW
  repeat' first
    | with_reducible rfl
    | (simp +zetaDelta [foldl_queue, foldl_snd_queue, foldl_fst_queue, pending_eq_queue]; done)
    | (with_reducible rw [foldl_queue])
    | (rw [pending_eq_queue])
    | (simp only [])
    | (with_reducible refine queue_ite _ _ _ _ ?_ ?_)
    | (with_reducible refine queue_ite_fst _ _ _ _ ?_ ?_)
    | (with_reducible refine queue_ite_snd _ _ _ _ ?_ ?_)
    | (with_reducible refine keeps_ite _ _ _ _ ?_ ?_)
    | (intro _ _)
    | (simp +zetaDelta)
    | split

theorem execFence_keeps (p : Nat) (s : State) : Keeps (queueOf s) (execFence p s) := by
  unfold execFence
  repeat' first
    | with_reducible rfl
    | (simp +zetaDelta [foldl_queue, foldl_snd_queue, foldl_fst_queue, pending_eq_queue]; done)
    | (with_reducible rw [foldl_queue])
    | (rw [pending_eq_queue])
    | (simp only [])
    | (with_reducible refine queue_ite _ _ _ _ ?_ ?_)
    | (with_reducible refine queue_ite_fst _ _ _ _ ?_ ?_)
    | (with_reducible refine queue_ite_snd _ _ _ _ ?_ ?_)
    | (with_reducible refine keeps_ite _ _ _ _ ?_ ?_)
    | (intro _ _)
    | (simp +zetaDelta)
    | split

theorem execFenceI_keeps (p : Nat) (s : State) : Keeps (queueOf s) (execFenceI p s) := by
  unfold execFenceI
  repeat' first
    | with_reducible rfl
    | (simp +zetaDelta [foldl_queue, foldl_snd_queue, foldl_fst_queue, pending_eq_queue]; done)
    | (with_reducible rw [foldl_queue])
    | (rw [pending_eq_queue])
    | (simp only [])
    | (with_reducible refine queue_ite _ _ _ _ ?_ ?_)
    | (with_reducible refine queue_ite_fst _ _ _ _ ?_ ?_)
    | (with_reducible refine queue_ite_snd _ _ _ _ ?_ ?_)
    | (with_reducible refine keeps_ite _ _ _ _ ?_ ?_)
    | (intro _ _)
    | (simp +zetaDelta)
    | split

theorem execWfi_keeps (p : Nat) (s : State) : Keeps (queueOf s) (execWfi p s) := by
  unfold execWfi
  repeat' first
    | with_reducible rfl
    | (simp +zetaDelta [foldl_queue, foldl_snd_queue, foldl_fst_queue, pending_eq_queue]; done)
    | (with_reducible rw [foldl_queue])
    | (rw [pending_eq_queue])
    | (simp only [])
    | (with_reducible refine queue_ite _ _ _ _ ?_ ?_)
    | (with_reducible refine queue_ite_fst _ _ _ _ ?_ ?_)
    | (with_reducible refine queue_ite_snd _ _ _ _ ?_ ?_)
    | (with_reducible refine keeps_ite _ _ _ _ ?_ ?_)
    | (intro _ _)
    | (simp +zetaDelta)
    | split

theorem execMret_keeps (p : Nat) (s : State) : Keeps (queueOf s) (execMret p s) := by
  unfold execMret
  repeat' first
    | with_reducible rfl
    | (simp +zetaDelta [foldl_queue, foldl_snd_queue, foldl_fst_queue, pending_eq_queue]; done)
    | (with_reducible rw [foldl_queue])
    | (rw [pending_eq_queue])
    | (simp only [])
    | (with_reducible refine queue_ite _ _ _ _ ?_ ?_)
    | (with_reducible refine queue_ite_fst _ _ _ _ ?_ ?_)
    | (with_reducible refine queue_ite_snd _ _ _ _ ?_ ?_)
    | (with_reducible refine keeps_ite _ _ _ _ ?_ ?_)
    | (intro _ _)
    | (simp +zetaDelta)
    | split

theorem execTrapEntry_keeps (p : Nat) (ups : List (Nat × Nat)) (s : State) : Keeps (queueOf s) (execTrapEntry p ups s) := by
  unfold execTrapEntry
  repeat' first
    | with_reducible rfl
    | (simp +zetaDelta [foldl_queue, foldl_snd_queue, foldl_fst_queue, pending_eq_queue]; done)
    | (with_reducible rw [foldl_queue])
    | (rw [pending_eq_queue])
    | (simp only [])
    | (with_reducible refine queue_ite _ _ _ _ ?_ ?_)
    | (with_reducible refine queue_ite_fst _ _ _ _ ?_ ?_)
    | (with_reducible refine queue_ite_snd _ _ _ _ ?_ ?_)
    | (with_reducible refine keeps_ite _ _ _ _ ?_ ?_)
    | (intro _ _)
    | (simp +zetaDelta)
    | split

theorem execQpopRead_keeps (p : Nat) (s : State) : Keeps (queueOf s) (execQpopRead p s) := by
  unfold execQpopRead
  repeat' first
    | with_reducible rfl
    | (simp +zetaDelta [foldl_queue, foldl_snd_queue, foldl_fst_queue, pending_eq_queue]; done)
    | (with_reducible rw [foldl_queue])
    | (rw [pending_eq_queue])
    | (simp only [])
    | (with_reducible refine queue_ite _ _ _ _ ?_ ?_)
    | (with_reducible refine queue_ite_fst _ _ _ _ ?_ ?_)
    | (with_reducible refine queue_ite_snd _ _ _ _ ?_ ?_)
    | (with_reducible refine keeps_ite _ _ _ _ ?_ ?_)
    | (intro _ _)
    | (simp +zetaDelta)
    | split

theorem execQwRead_keeps (p : Nat) (s : State) : Keeps (queueOf s) (execQwRead p s) := by
  unfold execQwRead
  repeat' first
    | with_reducible rfl
    | (simp +zetaDelta [foldl_queue, foldl_snd_queue, foldl_fst_queue, pending_eq_queue]; done)
    | (with_reducible rw [foldl_queue])
    | (rw [pending_eq_queue])
    | (simp only [])
    | (with_reducible refine queue_ite _ _ _ _ ?_ ?_)
    | (with_reducible refine queue_ite_fst _ _ _ _ ?_ ?_)
    | (with_reducible refine queue_ite_snd _ _ _ _ ?_ ?_)
    | (with_reducible refine keeps_ite _ _ _ _ ?_ ?_)
    | (intro _ _)
    | (simp +zetaDelta)
    | split

theorem execQsendWrite_keeps (p : Nat) (s : State) : Keeps (queueOf s) (execQsendWrite p s) := by
  unfold execQsendWrite
  repeat' first
    | with_reducible rfl
    | (simp +zetaDelta [foldl_queue, foldl_snd_queue, foldl_fst_queue, pending_eq_queue]; done)
    | (with_reducible rw [foldl_queue])
    | (rw [pending_eq_queue])
    | (simp only [])
    | (with_reducible refine queue_ite _ _ _ _ ?_ ?_)
    | (with_reducible refine queue_ite_fst _ _ _ _ ?_ ?_)
    | (with_reducible refine queue_ite_snd _ _ _ _ ?_ ?_)
    | (with_reducible refine keeps_ite _ _ _ _ ?_ ?_)
    | (intro _ _)
    | (simp +zetaDelta)
    | split

theorem execImFillWrite_keeps (p : Nat) (s : State) : Keeps (queueOf s) (execImFillWrite p s) := by
  unfold execImFillWrite
  repeat' first
    | with_reducible rfl
    | (simp +zetaDelta [foldl_queue, foldl_snd_queue, foldl_fst_queue, pending_eq_queue]; done)
    | (with_reducible rw [foldl_queue])
    | (rw [pending_eq_queue])
    | (simp only [])
    | (with_reducible refine queue_ite _ _ _ _ ?_ ?_)
    | (with_reducible refine queue_ite_fst _ _ _ _ ?_ ?_)
    | (with_reducible refine queue_ite_snd _ _ _ _ ?_ ?_)
    | (with_reducible refine keeps_ite _ _ _ _ ?_ ?_)
    | (intro _ _)
    | (simp +zetaDelta)
    | split

theorem execSeqFlagsSet_keeps (p : Nat) (s : State) : Keeps (queueOf s) (execSeqFlagsSet p s) := by
  unfold execSeqFlagsSet
  repeat' first
    | with_reducible rfl
    | (simp +zetaDelta [foldl_queue, foldl_snd_queue, foldl_fst_queue, pending_eq_queue]; done)
    | (with_reducible rw [foldl_queue])
    | (rw [pending_eq_queue])
    | (simp only [])
    | (with_reducible refine queue_ite _ _ _ _ ?_ ?_)
    | (with_reducible refine queue_ite_fst _ _ _ _ ?_ ?_)
    | (with_reducible refine queue_ite_snd _ _ _ _ ?_ ?_)
    | (with_reducible refine keeps_ite _ _ _ _ ?_ ?_)
    | (intro _ _)
    | (simp +zetaDelta)
    | split

theorem execBellHoldWrite_keeps (p : Nat) (s : State) : Keeps (queueOf s) (execBellHoldWrite p s) := by
  unfold execBellHoldWrite
  repeat' first
    | with_reducible rfl
    | (simp +zetaDelta [foldl_queue, foldl_snd_queue, foldl_fst_queue, pending_eq_queue]; done)
    | (with_reducible rw [foldl_queue])
    | (rw [pending_eq_queue])
    | (simp only [])
    | (with_reducible refine queue_ite _ _ _ _ ?_ ?_)
    | (with_reducible refine queue_ite_fst _ _ _ _ ?_ ?_)
    | (with_reducible refine queue_ite_snd _ _ _ _ ?_ ?_)
    | (with_reducible refine keeps_ite _ _ _ _ ?_ ?_)
    | (intro _ _)
    | (simp +zetaDelta)
    | split

theorem execClkStatusClear_keeps (p : Nat) (s : State) : Keeps (queueOf s) (execClkStatusClear p s) := by
  unfold execClkStatusClear
  repeat' first
    | with_reducible rfl
    | (simp +zetaDelta [foldl_queue, foldl_snd_queue, foldl_fst_queue, pending_eq_queue]; done)
    | (with_reducible rw [foldl_queue])
    | (rw [pending_eq_queue])
    | (simp only [])
    | (with_reducible refine queue_ite _ _ _ _ ?_ ?_)
    | (with_reducible refine queue_ite_fst _ _ _ _ ?_ ?_)
    | (with_reducible refine queue_ite_snd _ _ _ _ ?_ ?_)
    | (with_reducible refine keeps_ite _ _ _ _ ?_ ?_)
    | (intro _ _)
    | (simp +zetaDelta)
    | split

theorem execClkFailWrite_keeps (p : Nat) (s : State) : Keeps (queueOf s) (execClkFailWrite p s) := by
  unfold execClkFailWrite
  repeat' first
    | with_reducible rfl
    | (simp +zetaDelta [foldl_queue, foldl_snd_queue, foldl_fst_queue, pending_eq_queue]; done)
    | (with_reducible rw [foldl_queue])
    | (rw [pending_eq_queue])
    | (simp only [])
    | (with_reducible refine queue_ite _ _ _ _ ?_ ?_)
    | (with_reducible refine queue_ite_fst _ _ _ _ ?_ ?_)
    | (with_reducible refine queue_ite_snd _ _ _ _ ?_ ?_)
    | (with_reducible refine keeps_ite _ _ _ _ ?_ ?_)
    | (intro _ _)
    | (simp +zetaDelta)
    | split

theorem execAmaxReadClear_keeps (p : Nat) (s : State) : Keeps (queueOf s) (execAmaxReadClear p s) := by
  unfold execAmaxReadClear
  repeat' first
    | with_reducible rfl
    | (simp +zetaDelta [foldl_queue, foldl_snd_queue, foldl_fst_queue, pending_eq_queue]; done)
    | (with_reducible rw [foldl_queue])
    | (rw [pending_eq_queue])
    | (simp only [])
    | (with_reducible refine queue_ite _ _ _ _ ?_ ?_)
    | (with_reducible refine queue_ite_fst _ _ _ _ ?_ ?_)
    | (with_reducible refine queue_ite_snd _ _ _ _ ?_ ?_)
    | (with_reducible refine keeps_ite _ _ _ _ ?_ ?_)
    | (intro _ _)
    | (simp +zetaDelta)
    | split

theorem execCounterReadClear_keeps (p : Nat) (s : State) : Keeps (queueOf s) (execCounterReadClear p s) := by
  unfold execCounterReadClear
  repeat' first
    | with_reducible rfl
    | (simp +zetaDelta [foldl_queue, foldl_snd_queue, foldl_fst_queue, pending_eq_queue]; done)
    | (with_reducible rw [foldl_queue])
    | (rw [pending_eq_queue])
    | (simp only [])
    | (with_reducible refine queue_ite _ _ _ _ ?_ ?_)
    | (with_reducible refine queue_ite_fst _ _ _ _ ?_ ?_)
    | (with_reducible refine queue_ite_snd _ _ _ _ ?_ ?_)
    | (with_reducible refine keeps_ite _ _ _ _ ?_ ?_)
    | (intro _ _)
    | (simp +zetaDelta)
    | split

theorem execCsrWrite_keeps (p : Nat) (s : State) : Keeps (queueOf s) (execCsrWrite p s) := by
  unfold execCsrWrite
  repeat' first
    | with_reducible rfl
    | (simp +zetaDelta [foldl_queue, foldl_snd_queue, foldl_fst_queue, pending_eq_queue]; done)
    | (with_reducible rw [foldl_queue])
    | (rw [pending_eq_queue])
    | (simp only [])
    | (with_reducible refine queue_ite _ _ _ _ ?_ ?_)
    | (with_reducible refine queue_ite_fst _ _ _ _ ?_ ?_)
    | (with_reducible refine queue_ite_snd _ _ _ _ ?_ ?_)
    | (with_reducible refine keeps_ite _ _ _ _ ?_ ?_)
    | (intro _ _)
    | (simp +zetaDelta)
    | split

theorem execRtSelWrite_keeps (p : Nat) (s : State) : Keeps (queueOf s) (execRtSelWrite p s) := by
  unfold execRtSelWrite
  repeat' first
    | with_reducible rfl
    | (simp +zetaDelta [foldl_queue, foldl_snd_queue, foldl_fst_queue, pending_eq_queue]; done)
    | (with_reducible rw [foldl_queue])
    | (rw [pending_eq_queue])
    | (simp only [])
    | (with_reducible refine queue_ite _ _ _ _ ?_ ?_)
    | (with_reducible refine queue_ite_fst _ _ _ _ ?_ ?_)
    | (with_reducible refine queue_ite_snd _ _ _ _ ?_ ?_)
    | (with_reducible refine keeps_ite _ _ _ _ ?_ ?_)
    | (intro _ _)
    | (simp +zetaDelta)
    | split

end Sys2Proof.Machine
end

