-- ==== Sys2Proof/Laws/QueueE.lean ====
section
/-! SUPPORT. The operations and commands of Pattern, Records, Link, Training, Flit keep the queue. -/

set_option linter.unusedSimpArgs false
set_option linter.unusedVariables false
set_option linter.unreachableTactic false
set_option linter.unusedTactic false

namespace Sys2Proof.Machine

/-! ## Sys2Proof/Machine/Pattern.lean -/

@[simp ↓] theorem imRest_queue (s : State) (p : Nat) :
    (queueOf (imRest s p)) = (queueOf s) := by
  unfold imRest
  repeat' first
    | with_reducible rfl
    | (simp +zetaDelta [foldl_queue, foldl_snd_queue, foldl_fst_queue, pending_eq_queue]; done)
    | (with_reducible rw [foldl_queue])
    | (rw [pending_eq_queue])
    | (simp only [])
    | (with_reducible refine queue_ite _ _ _ _ ?_ ?_)
    | (with_reducible refine queue_ite_fst _ _ _ _ ?_ ?_)
    | (with_reducible refine queue_ite_snd _ _ _ _ ?_ ?_)
    | (with_reducible refine keeps_ite _ _ _ _ ?_ ?_)
    | (intro _ _)
    | (simp +zetaDelta)
    | split

@[simp ↓] theorem loadDropsMig_queue (s : State) (p : Nat) :
    (queueOf (loadDropsMig s p)) = (queueOf s) := by
  unfold loadDropsMig
  repeat' first
    | with_reducible rfl
    | (simp +zetaDelta [foldl_queue, foldl_snd_queue, foldl_fst_queue, pending_eq_queue]; done)
    | (with_reducible rw [foldl_queue])
    | (rw [pending_eq_queue])
    | (simp only [])
    | (with_reducible refine queue_ite _ _ _ _ ?_ ?_)
    | (with_reducible refine queue_ite_fst _ _ _ _ ?_ ?_)
    | (with_reducible refine queue_ite_snd _ _ _ _ ?_ ?_)
    | (with_reducible refine keeps_ite _ _ _ _ ?_ ?_)
    | (intro _ _)
    | (simp +zetaDelta)
    | split

@[simp ↓] theorem loadBank_queue (s0 : State) (p k : Nat) (install : Bool) :
    (queueOf (loadBank s0 p k install)) = (queueOf s0) := by
  unfold loadBank
  repeat' first
    | with_reducible rfl
    | (simp +zetaDelta [foldl_queue, foldl_snd_queue, foldl_fst_queue, pending_eq_queue]; done)
    | (with_reducible rw [foldl_queue])
    | (rw [pending_eq_queue])
    | (simp only [])
    | (with_reducible refine queue_ite _ _ _ _ ?_ ?_)
    | (with_reducible refine queue_ite_fst _ _ _ _ ?_ ?_)
    | (with_reducible refine queue_ite_snd _ _ _ _ ?_ ?_)
    | (with_reducible refine keeps_ite _ _ _ _ ?_ ?_)
    | (intro _ _)
    | (simp +zetaDelta)
    | split

theorem execPatternLoad_keeps (p k : Nat) (install : Bool) (s : State) : Keeps (queueOf s) (execPatternLoad p k install s) := by
  unfold execPatternLoad
  repeat' first
    | with_reducible rfl
    | (simp +zetaDelta [foldl_queue, foldl_snd_queue, foldl_fst_queue, pending_eq_queue]; done)
    | (with_reducible rw [foldl_queue])
    | (rw [pending_eq_queue])
    | (simp only [])
    | (with_reducible refine queue_ite _ _ _ _ ?_ ?_)
    | (with_reducible refine queue_ite_fst _ _ _ _ ?_ ?_)
    | (with_reducible refine queue_ite_snd _ _ _ _ ?_ ?_)
    | (with_reducible refine keeps_ite _ _ _ _ ?_ ?_)
    | (intro _ _)
    | (simp +zetaDelta)
    | split

/-! ## Sys2Proof/Machine/Records.lean -/

@[simp ↓] theorem evPut_queue (s : State) (n kind : Nat) (pay : List Byte) :
    (queueOf (evPut s n kind pay)) = (queueOf s) := by
  unfold evPut
  repeat' first
    | with_reducible rfl
    | (simp +zetaDelta [foldl_queue, foldl_snd_queue, foldl_fst_queue, pending_eq_queue]; done)
    | (with_reducible rw [foldl_queue])
    | (rw [pending_eq_queue])
    | (simp only [])
    | (with_reducible refine queue_ite _ _ _ _ ?_ ?_)
    | (with_reducible refine queue_ite_fst _ _ _ _ ?_ ?_)
    | (with_reducible refine queue_ite_snd _ _ _ _ ?_ ?_)
    | (with_reducible refine keeps_ite _ _ _ _ ?_ ?_)
    | (intro _ _)
    | (simp +zetaDelta)
    | split

@[simp ↓] theorem evEmit_queue (s : State) (n kind : Nat) (pay : List Byte) :
    (queueOf (evEmit s n kind pay)) = (queueOf s) := by
  unfold evEmit
  repeat' first
    | with_reducible rfl
    | (simp +zetaDelta [foldl_queue, foldl_snd_queue, foldl_fst_queue, pending_eq_queue]; done)
    | (with_reducible rw [foldl_queue])
    | (rw [pending_eq_queue])
    | (simp only [])
    | (with_reducible refine queue_ite _ _ _ _ ?_ ?_)
    | (with_reducible refine queue_ite_fst _ _ _ _ ?_ ?_)
    | (with_reducible refine queue_ite_snd _ _ _ _ ?_ ?_)
    | (with_reducible refine keeps_ite _ _ _ _ ?_ ?_)
    | (intro _ _)
    | (simp +zetaDelta)
    | split

@[simp ↓] theorem emitTo_queue (s : State) (mask kind : Nat) (pay : List Byte) :
    (queueOf (emitTo s mask kind pay)) = (queueOf s) := by
  unfold emitTo
  repeat' first
    | with_reducible rfl
    | (simp +zetaDelta [foldl_queue, foldl_snd_queue, foldl_fst_queue, pending_eq_queue]; done)
    | (with_reducible rw [foldl_queue])
    | (rw [pending_eq_queue])
    | (simp only [])
    | (with_reducible refine queue_ite _ _ _ _ ?_ ?_)
    | (with_reducible refine queue_ite_fst _ _ _ _ ?_ ?_)
    | (with_reducible refine queue_ite_snd _ _ _ _ ?_ ?_)
    | (with_reducible refine keeps_ite _ _ _ _ ?_ ?_)
    | (intro _ _)
    | (simp +zetaDelta)
    | split

@[simp ↓] theorem withHealth_queue (old new : State) :
    (queueOf (withHealth old new)) = (queueOf new) := by
  unfold withHealth
  repeat' first
    | with_reducible rfl
    | (simp +zetaDelta [foldl_queue, foldl_snd_queue, foldl_fst_queue, pending_eq_queue]; done)
    | (with_reducible rw [foldl_queue])
    | (rw [pending_eq_queue])
    | (simp only [])
    | (with_reducible refine queue_ite _ _ _ _ ?_ ?_)
    | (with_reducible refine queue_ite_fst _ _ _ _ ?_ ?_)
    | (with_reducible refine queue_ite_snd _ _ _ _ ?_ ?_)
    | (with_reducible refine keeps_ite _ _ _ _ ?_ ?_)
    | (intro _ _)
    | (simp +zetaDelta)
    | split

@[simp ↓] theorem sideQueue_queue (s : State) (r : List Byte) :
    (queueOf (sideQueue s r)) = (queueOf s) := by
  unfold sideQueue
  repeat' first
    | with_reducible rfl
    | (simp +zetaDelta [foldl_queue, foldl_snd_queue, foldl_fst_queue, pending_eq_queue]; done)
    | (with_reducible rw [foldl_queue])
    | (rw [pending_eq_queue])
    | (simp only [])
    | (with_reducible refine queue_ite _ _ _ _ ?_ ?_)
    | (with_reducible refine queue_ite_fst _ _ _ _ ?_ ?_)
    | (with_reducible refine queue_ite_snd _ _ _ _ ?_ ?_)
    | (with_reducible refine keeps_ite _ _ _ _ ?_ ?_)
    | (intro _ _)
    | (simp +zetaDelta)
    | split

@[simp ↓] theorem recEmit_queue (s : State) (e : Event) (led : Nat) : (queueOf ((recEmit s e led).2)) = (queueOf s) := by
  unfold recEmit
  split
  · exact modReeve_queue _ _
  · refine (sideQueue_queue _ _).trans ((emitTo_queue _ _ _ _).trans ?_)
    exact modReeve_queue _ _

@[simp ↓] theorem endLots_queue (s : State) (n code : Nat) :
    (queueOf (endLots s n code)) = (queueOf s) := by
  unfold endLots
  repeat' first
    | with_reducible rfl
    | (simp +zetaDelta [foldl_queue, foldl_snd_queue, foldl_fst_queue, pending_eq_queue]; done)
    | (with_reducible rw [foldl_queue])
    | (rw [pending_eq_queue])
    | (simp only [])
    | (with_reducible refine queue_ite _ _ _ _ ?_ ?_)
    | (with_reducible refine queue_ite_fst _ _ _ _ ?_ ?_)
    | (with_reducible refine queue_ite_snd _ _ _ _ ?_ ?_)
    | (with_reducible refine keeps_ite _ _ _ _ ?_ ?_)
    | (intro _ _)
    | (simp +zetaDelta)
    | split

@[simp ↓] theorem recLots_queue (s : State) (e : Event) (id : Nat) :
    (queueOf (recLots s e id)) = (queueOf s) := by
  unfold recLots
  repeat' first
    | with_reducible rfl
    | (simp +zetaDelta [foldl_queue, foldl_snd_queue, foldl_fst_queue, pending_eq_queue]; done)
    | (with_reducible rw [foldl_queue])
    | (rw [pending_eq_queue])
    | (simp only [])
    | (with_reducible refine queue_ite _ _ _ _ ?_ ?_)
    | (with_reducible refine queue_ite_fst _ _ _ _ ?_ ?_)
    | (with_reducible refine queue_ite_snd _ _ _ _ ?_ ?_)
    | (with_reducible refine keeps_ite _ _ _ _ ?_ ?_)
    | (intro _ _)
    | (simp +zetaDelta)
    | split

/-! ## Sys2Proof/Machine/Link.lean -/

@[simp ↓] theorem portEnqueue_queue (s : State) (p c : Nat) (m : List Byte) :
    (queueOf (portEnqueue s p c m)) = (queueOf s) := by
  unfold portEnqueue
  repeat' first
    | with_reducible rfl
    | (simp +zetaDelta [foldl_queue, foldl_snd_queue, foldl_fst_queue, pending_eq_queue]; done)
    | (with_reducible rw [foldl_queue])
    | (rw [pending_eq_queue])
    | (simp only [])
    | (with_reducible refine queue_ite _ _ _ _ ?_ ?_)
    | (with_reducible refine queue_ite_fst _ _ _ _ ?_ ?_)
    | (with_reducible refine queue_ite_snd _ _ _ _ ?_ ?_)
    | (with_reducible refine keeps_ite _ _ _ _ ?_ ?_)
    | (intro _ _)
    | (simp +zetaDelta)
    | split

@[simp ↓] theorem countDiscard_queue (s : State) (p cause : Nat) :
    (queueOf (countDiscard s p cause)) = (queueOf s) := by
  unfold countDiscard
  repeat' first
    | with_reducible rfl
    | (simp +zetaDelta [foldl_queue, foldl_snd_queue, foldl_fst_queue, pending_eq_queue]; done)
    | (with_reducible rw [foldl_queue])
    | (rw [pending_eq_queue])
    | (simp only [])
    | (with_reducible refine queue_ite _ _ _ _ ?_ ?_)
    | (with_reducible refine queue_ite_fst _ _ _ _ ?_ ?_)
    | (with_reducible refine queue_ite_snd _ _ _ _ ?_ ?_)
    | (with_reducible refine keeps_ite _ _ _ _ ?_ ?_)
    | (intro _ _)
    | (simp +zetaDelta)
    | split

@[simp ↓] theorem spineOut_queue (s : State) (q : Nat) (c : Nat) (m : List Byte) :
    (queueOf ((spineOut s q c m).1)) = (queueOf s) := by
  unfold spineOut
  repeat' first
    | with_reducible rfl
    | (simp +zetaDelta [foldl_queue, foldl_snd_queue, foldl_fst_queue, pending_eq_queue]; done)
    | (with_reducible rw [foldl_queue])
    | (rw [pending_eq_queue])
    | (simp only [])
    | (with_reducible refine queue_ite _ _ _ _ ?_ ?_)
    | (with_reducible refine queue_ite_fst _ _ _ _ ?_ ?_)
    | (with_reducible refine queue_ite_snd _ _ _ _ ?_ ?_)
    | (with_reducible refine keeps_ite _ _ _ _ ?_ ?_)
    | (intro _ _)
    | (simp +zetaDelta)
    | split

@[simp ↓] theorem spineMove_queue (s : State) (inp : Nat) (inj : Bool) (c bank : Nat) (m0 : List Byte) :
    (queueOf ((spineMove s inp inj c bank m0).1)) = (queueOf s) := by
  unfold spineMove
  repeat' first
    | with_reducible rfl
    | (simp +zetaDelta [foldl_queue, foldl_snd_queue, foldl_fst_queue, pending_eq_queue]; done)
    | (with_reducible rw [foldl_queue])
    | (rw [pending_eq_queue])
    | (simp only [])
    | (with_reducible refine queue_ite _ _ _ _ ?_ ?_)
    | (with_reducible refine queue_ite_fst _ _ _ _ ?_ ?_)
    | (with_reducible refine queue_ite_snd _ _ _ _ ?_ ?_)
    | (with_reducible refine keeps_ite _ _ _ _ ?_ ?_)
    | (intro _ _)
    | (simp +zetaDelta)
    | split

@[simp ↓] theorem discardOnly_queue (s : State) (ds : List (Nat × Nat)) :
    (queueOf (discardOnly s ds)) = (queueOf s) := by
  unfold discardOnly
  repeat' first
    | with_reducible rfl
    | (simp +zetaDelta [foldl_queue, foldl_snd_queue, foldl_fst_queue, pending_eq_queue]; done)
    | (with_reducible rw [foldl_queue])
    | (rw [pending_eq_queue])
    | (simp only [])
    | (with_reducible refine queue_ite _ _ _ _ ?_ ?_)
    | (with_reducible refine queue_ite_fst _ _ _ _ ?_ ?_)
    | (with_reducible refine queue_ite_snd _ _ _ _ ?_ ?_)
    | (with_reducible refine keeps_ite _ _ _ _ ?_ ?_)
    | (intro _ _)
    | (simp +zetaDelta)
    | split

@[simp ↓] theorem discardMsg_queue (s : State) (m : List Byte) (d : Nat × Nat) :
    (queueOf (discardMsg s m d)) = (queueOf s) := by
  unfold discardMsg
  repeat' first
    | with_reducible rfl
    | (simp +zetaDelta [foldl_queue, foldl_snd_queue, foldl_fst_queue, pending_eq_queue]; done)
    | (with_reducible rw [foldl_queue])
    | (rw [pending_eq_queue])
    | (simp only [])
    | (with_reducible refine queue_ite _ _ _ _ ?_ ?_)
    | (with_reducible refine queue_ite_fst _ _ _ _ ?_ ?_)
    | (with_reducible refine queue_ite_snd _ _ _ _ ?_ ?_)
    | (with_reducible refine keeps_ite _ _ _ _ ?_ ?_)
    | (intro _ _)
    | (simp +zetaDelta)
    | split

@[simp ↓] theorem spineRoute_queue (s : State) (inp : Nat) (inj : Bool) (c bank : Nat) (m : List Byte) :
    (queueOf (spineRoute s inp inj c bank m)) = (queueOf s) := by
  unfold spineRoute
  repeat' first
    | with_reducible rfl
    | (simp +zetaDelta [foldl_queue, foldl_snd_queue, foldl_fst_queue, pending_eq_queue]; done)
    | (with_reducible rw [foldl_queue])
    | (rw [pending_eq_queue])
    | (simp only [])
    | (with_reducible refine queue_ite _ _ _ _ ?_ ?_)
    | (with_reducible refine queue_ite_fst _ _ _ _ ?_ ?_)
    | (with_reducible refine queue_ite_snd _ _ _ _ ?_ ?_)
    | (with_reducible refine keeps_ite _ _ _ _ ?_ ?_)
    | (intro _ _)
    | (simp +zetaDelta)
    | split

theorem execSpineRouteLookup_keeps (p : Nat) (inj : Bool) (s : State) : Keeps (queueOf s) (execSpineRouteLookup p inj s) := by
  unfold execSpineRouteLookup
  repeat' first
    | with_reducible rfl
    | (simp +zetaDelta [foldl_queue, foldl_snd_queue, foldl_fst_queue, pending_eq_queue]; done)
    | (with_reducible rw [foldl_queue])
    | (rw [pending_eq_queue])
    | (simp only [])
    | (with_reducible refine queue_ite _ _ _ _ ?_ ?_)
    | (with_reducible refine queue_ite_fst _ _ _ _ ?_ ?_)
    | (with_reducible refine queue_ite_snd _ _ _ _ ?_ ?_)
    | (with_reducible refine keeps_ite _ _ _ _ ?_ ?_)
    | (intro _ _)
    | (simp +zetaDelta)
    | split

@[simp ↓] theorem deliverMsg_queue (s : State) (p : Nat) (m : List Byte) :
    (queueOf (deliverMsg s p m)) = (queueOf s) := by
  unfold deliverMsg
  repeat' first
    | with_reducible rfl
    | (simp +zetaDelta [foldl_queue, foldl_snd_queue, foldl_fst_queue, pending_eq_queue]; done)
    | (with_reducible rw [foldl_queue])
    | (rw [pending_eq_queue])
    | (simp only [])
    | (with_reducible refine queue_ite _ _ _ _ ?_ ?_)
    | (with_reducible refine queue_ite_fst _ _ _ _ ?_ ?_)
    | (with_reducible refine queue_ite_snd _ _ _ _ ?_ ?_)
    | (with_reducible refine keeps_ite _ _ _ _ ?_ ?_)
    | (intro _ _)
    | (simp +zetaDelta)
    | split

@[simp ↓] theorem localTake_queue (s : State) (p : Nat) (m : List Byte) :
    (queueOf (localTake s p m)) = (queueOf s) := by
  unfold localTake
  repeat' first
    | with_reducible rfl
    | (simp +zetaDelta [foldl_queue, foldl_snd_queue, foldl_fst_queue, pending_eq_queue]; done)
    | (with_reducible rw [foldl_queue])
    | (rw [pending_eq_queue])
    | (simp only [])
    | (with_reducible refine queue_ite _ _ _ _ ?_ ?_)
    | (with_reducible refine queue_ite_fst _ _ _ _ ?_ ?_)
    | (with_reducible refine queue_ite_snd _ _ _ _ ?_ ?_)
    | (with_reducible refine keeps_ite _ _ _ _ ?_ ?_)
    | (intro _ _)
    | (simp +zetaDelta)
    | split

theorem execLocalDelivery_keeps (p : Nat) (s : State) : Keeps (queueOf s) (execLocalDelivery p s) := by
  unfold execLocalDelivery
  repeat' first
    | with_reducible rfl
    | (simp +zetaDelta [foldl_queue, foldl_snd_queue, foldl_fst_queue, pending_eq_queue]; done)
    | (with_reducible rw [foldl_queue])
    | (rw [pending_eq_queue])
    | (simp only [])
    | (with_reducible refine queue_ite _ _ _ _ ?_ ?_)
    | (with_reducible refine queue_ite_fst _ _ _ _ ?_ ?_)
    | (with_reducible refine queue_ite_snd _ _ _ _ ?_ ?_)
    | (with_reducible refine keeps_ite _ _ _ _ ?_ ?_)
    | (intro _ _)
    | (simp +zetaDelta)
    | split

@[simp ↓] theorem parkRelease_queue (s : State) :
    (queueOf (parkRelease s)) = (queueOf s) := by
  unfold parkRelease
  repeat' first
    | with_reducible rfl
    | (simp +zetaDelta [foldl_queue, foldl_snd_queue, foldl_fst_queue, pending_eq_queue]; done)
    | (with_reducible rw [foldl_queue])
    | (rw [pending_eq_queue])
    | (simp only [])
    | (with_reducible refine queue_ite _ _ _ _ ?_ ?_)
    | (with_reducible refine queue_ite_fst _ _ _ _ ?_ ?_)
    | (with_reducible refine queue_ite_snd _ _ _ _ ?_ ?_)
    | (with_reducible refine keeps_ite _ _ _ _ ?_ ?_)
    | (intro _ _)
    | (simp +zetaDelta)
    | split

theorem hereFront_queue (s : State) (p kind : Nat) (m : List Byte) (t : State) (h : hereFront s p kind = some (m, t)) :
    (queueOf t) = (queueOf s) := by
  unfold hereFront at h
  cases hx : (getPort s p).here.find? (fun x => mKind x.2 == kind) with
  | none => rw [hx] at h; cases h
  | some x => rw [hx] at h; cases h; simp

@[simp ↓] theorem abortNotices_queue (s : State) (n stamp : Nat) :
    (queueOf (abortNotices s n stamp)) = (queueOf s) := by
  unfold abortNotices
  repeat' first
    | with_reducible rfl
    | (simp +zetaDelta [foldl_queue, foldl_snd_queue, foldl_fst_queue, pending_eq_queue]; done)
    | (with_reducible rw [foldl_queue])
    | (rw [pending_eq_queue])
    | (simp only [])
    | (with_reducible refine queue_ite _ _ _ _ ?_ ?_)
    | (with_reducible refine queue_ite_fst _ _ _ _ ?_ ?_)
    | (with_reducible refine queue_ite_snd _ _ _ _ ?_ ?_)
    | (with_reducible refine keeps_ite _ _ _ _ ?_ ?_)
    | (intro _ _)
    | (simp +zetaDelta)
    | split

theorem execUndeliverableReportReceive_keeps (p : Nat) (s : State) : Keeps (queueOf s) (execUndeliverableReportReceive p s) := by
  unfold execUndeliverableReportReceive
  split
  · trivial
  · split
    · rfl
    · rename_i m s1 he
      have h := hereFront_queue _ _ _ _ _ he
      try simp only []
      repeat' refine keeps_ite _ _ _ _ ?_ ?_
      all_goals simp [h]

theorem execLotAbortNoticeReceive_keeps (p : Nat) (s : State) : Keeps (queueOf s) (execLotAbortNoticeReceive p s) := by
  unfold execLotAbortNoticeReceive
  split
  · trivial
  · split
    · rfl
    · rename_i m s1 he
      have h := hereFront_queue _ _ _ _ _ he
      try simp only []
      repeat' refine keeps_ite _ _ _ _ ?_ ?_
      all_goals simp [h]

theorem execReeveMessageReceive_keeps (p : Nat) (s : State) : Keeps (queueOf s) (execReeveMessageReceive p s) := by
  unfold execReeveMessageReceive
  split
  · trivial
  · split
    · rfl
    · rename_i m s1 he
      have h := hereFront_queue _ _ _ _ _ he
      try simp only []
      repeat' refine keeps_ite _ _ _ _ ?_ ?_
      all_goals simp [h]

/-! ## Sys2Proof/Machine/FlitOut.lean -/



/-! ## Sys2Proof/Machine/Training.lean -/

@[simp ↓] theorem portDrain_queue (s : State) (p : Nat) :
    (queueOf (portDrain s p)) = (queueOf s) := by
  unfold portDrain
  repeat' first
    | with_reducible rfl
    | (simp +zetaDelta [foldl_queue, foldl_snd_queue, foldl_fst_queue, pending_eq_queue]; done)
    | (with_reducible rw [foldl_queue])
    | (rw [pending_eq_queue])
    | (simp only [])
    | (with_reducible refine queue_ite _ _ _ _ ?_ ?_)
    | (with_reducible refine queue_ite_fst _ _ _ _ ?_ ?_)
    | (with_reducible refine queue_ite_snd _ _ _ _ ?_ ?_)
    | (with_reducible refine keeps_ite _ _ _ _ ?_ ?_)
    | (intro _ _)
    | (simp +zetaDelta)
    | split

@[simp ↓] theorem joinLost_queue (s : State) (p : Nat) :
    (queueOf (joinLost s p)) = (queueOf s) := by
  unfold joinLost
  repeat' first
    | with_reducible rfl
    | (simp +zetaDelta [foldl_queue, foldl_snd_queue, foldl_fst_queue, pending_eq_queue]; done)
    | (with_reducible rw [foldl_queue])
    | (rw [pending_eq_queue])
    | (simp only [])
    | (with_reducible refine queue_ite _ _ _ _ ?_ ?_)
    | (with_reducible refine queue_ite_fst _ _ _ _ ?_ ?_)
    | (with_reducible refine queue_ite_snd _ _ _ _ ?_ ?_)
    | (with_reducible refine keeps_ite _ _ _ _ ?_ ?_)
    | (intro _ _)
    | (simp +zetaDelta)
    | split

@[simp ↓] theorem unblock_queue (s : State) (p : Nat) :
    (queueOf (unblock s p)) = (queueOf s) := by
  unfold unblock
  repeat' first
    | with_reducible rfl
    | (simp +zetaDelta [foldl_queue, foldl_snd_queue, foldl_fst_queue, pending_eq_queue]; done)
    | (with_reducible rw [foldl_queue])
    | (rw [pending_eq_queue])
    | (simp only [])
    | (with_reducible refine queue_ite _ _ _ _ ?_ ?_)
    | (with_reducible refine queue_ite_fst _ _ _ _ ?_ ?_)
    | (with_reducible refine queue_ite_snd _ _ _ _ ?_ ?_)
    | (with_reducible refine keeps_ite _ _ _ _ ?_ ?_)
    | (intro _ _)
    | (simp +zetaDelta)
    | split

@[simp ↓] theorem portRetrain_queue (s0 : State) (p exit st0 : Nat) :
    (queueOf (portRetrain s0 p exit st0)) = (queueOf s0) := by
  unfold portRetrain
  repeat' first
    | with_reducible rfl
    | (simp +zetaDelta [foldl_queue, foldl_snd_queue, foldl_fst_queue, pending_eq_queue]; done)
    | (with_reducible rw [foldl_queue])
    | (rw [pending_eq_queue])
    | (simp only [])
    | (with_reducible refine queue_ite _ _ _ _ ?_ ?_)
    | (with_reducible refine queue_ite_fst _ _ _ _ ?_ ?_)
    | (with_reducible refine queue_ite_snd _ _ _ _ ?_ ?_)
    | (with_reducible refine keeps_ite _ _ _ _ ?_ ?_)
    | (intro _ _)
    | (simp +zetaDelta)
    | split

@[simp ↓] theorem portKeepAlive_queue (s : State) (p : Nat) :
    (queueOf (portKeepAlive s p)) = (queueOf s) := by
  unfold portKeepAlive
  repeat' first
    | with_reducible rfl
    | (simp +zetaDelta [foldl_queue, foldl_snd_queue, foldl_fst_queue, pending_eq_queue]; done)
    | (with_reducible rw [foldl_queue])
    | (rw [pending_eq_queue])
    | (simp only [])
    | (with_reducible refine queue_ite _ _ _ _ ?_ ?_)
    | (with_reducible refine queue_ite_fst _ _ _ _ ?_ ?_)
    | (with_reducible refine queue_ite_snd _ _ _ _ ?_ ?_)
    | (with_reducible refine keeps_ite _ _ _ _ ?_ ?_)
    | (intro _ _)
    | (simp +zetaDelta)
    | split

@[simp ↓] theorem peerPower_queue (s : State) (p : Nat) :
    (queueOf (peerPower s p)) = (queueOf s) := by
  unfold peerPower
  repeat' first
    | with_reducible rfl
    | (simp +zetaDelta [foldl_queue, foldl_snd_queue, foldl_fst_queue, pending_eq_queue]; done)
    | (with_reducible rw [foldl_queue])
    | (rw [pending_eq_queue])
    | (simp only [])
    | (with_reducible refine queue_ite _ _ _ _ ?_ ?_)
    | (with_reducible refine queue_ite_fst _ _ _ _ ?_ ?_)
    | (with_reducible refine queue_ite_snd _ _ _ _ ?_ ?_)
    | (with_reducible refine keeps_ite _ _ _ _ ?_ ?_)
    | (intro _ _)
    | (simp +zetaDelta)
    | split

@[simp ↓] theorem trainStart_queue (s : State) (p : Nat) :
    (queueOf (trainStart s p)) = (queueOf s) := by
  unfold trainStart
  repeat' first
    | with_reducible rfl
    | (simp +zetaDelta [foldl_queue, foldl_snd_queue, foldl_fst_queue, pending_eq_queue]; done)
    | (with_reducible rw [foldl_queue])
    | (rw [pending_eq_queue])
    | (simp only [])
    | (with_reducible refine queue_ite _ _ _ _ ?_ ?_)
    | (with_reducible refine queue_ite_fst _ _ _ _ ?_ ?_)
    | (with_reducible refine queue_ite_snd _ _ _ _ ?_ ?_)
    | (with_reducible refine keeps_ite _ _ _ _ ?_ ?_)
    | (intro _ _)
    | (simp +zetaDelta)
    | split

theorem execPortSignalDetect_keeps (p lanes : Nat) (s : State) : Keeps (queueOf s) (execPortSignalDetect p lanes s) := by
  unfold execPortSignalDetect
  repeat' first
    | with_reducible rfl
    | (simp +zetaDelta [foldl_queue, foldl_snd_queue, foldl_fst_queue, pending_eq_queue]; done)
    | (with_reducible rw [foldl_queue])
    | (rw [pending_eq_queue])
    | (simp only [])
    | (with_reducible refine queue_ite _ _ _ _ ?_ ?_)
    | (with_reducible refine queue_ite_fst _ _ _ _ ?_ ?_)
    | (with_reducible refine queue_ite_snd _ _ _ _ ?_ ?_)
    | (with_reducible refine keeps_ite _ _ _ _ ?_ ?_)
    | (intro _ _)
    | (simp +zetaDelta)
    | split

theorem execLaneTrainTimeout_keeps (p lane : Nat) (s : State) : Keeps (queueOf s) (execLaneTrainTimeout p lane s) := by
  unfold execLaneTrainTimeout
  repeat' first
    | with_reducible rfl
    | (simp +zetaDelta [foldl_queue, foldl_snd_queue, foldl_fst_queue, pending_eq_queue]; done)
    | (with_reducible rw [foldl_queue])
    | (rw [pending_eq_queue])
    | (simp only [])
    | (with_reducible refine queue_ite _ _ _ _ ?_ ?_)
    | (with_reducible refine queue_ite_fst _ _ _ _ ?_ ?_)
    | (with_reducible refine queue_ite_snd _ _ _ _ ?_ ?_)
    | (with_reducible refine keeps_ite _ _ _ _ ?_ ?_)
    | (intro _ _)
    | (simp +zetaDelta)
    | split

@[simp ↓] theorem clkLock_queue (s : State) :
    (queueOf (clkLock s)) = (queueOf s) := by
  unfold clkLock
  repeat' first
    | with_reducible rfl
    | (simp +zetaDelta [foldl_queue, foldl_snd_queue, foldl_fst_queue, pending_eq_queue]; done)
    | (with_reducible rw [foldl_queue])
    | (rw [pending_eq_queue])
    | (simp only [])
    | (with_reducible refine queue_ite _ _ _ _ ?_ ?_)
    | (with_reducible refine queue_ite_fst _ _ _ _ ?_ ?_)
    | (with_reducible refine queue_ite_snd _ _ _ _ ?_ ?_)
    | (with_reducible refine keeps_ite _ _ _ _ ?_ ?_)
    | (intro _ _)
    | (simp +zetaDelta)
    | split

@[simp ↓] theorem portHold_queue (s : State) (p : Nat) :
    (queueOf (portHold s p)) = (queueOf s) := by
  unfold portHold
  repeat' first
    | with_reducible rfl
    | (simp +zetaDelta [foldl_queue, foldl_snd_queue, foldl_fst_queue, pending_eq_queue]; done)
    | (with_reducible rw [foldl_queue])
    | (rw [pending_eq_queue])
    | (simp only [])
    | (with_reducible refine queue_ite _ _ _ _ ?_ ?_)
    | (with_reducible refine queue_ite_fst _ _ _ _ ?_ ?_)
    | (with_reducible refine queue_ite_snd _ _ _ _ ?_ ?_)
    | (with_reducible refine keeps_ite _ _ _ _ ?_ ?_)
    | (intro _ _)
    | (simp +zetaDelta)
    | split

@[simp ↓] theorem bellConflict_queue (s : State) (p : Nat) :
    (queueOf (bellConflict s p)) = (queueOf s) := by
  unfold bellConflict
  repeat' first
    | with_reducible rfl
    | (simp +zetaDelta [foldl_queue, foldl_snd_queue, foldl_fst_queue, pending_eq_queue]; done)
    | (with_reducible rw [foldl_queue])
    | (rw [pending_eq_queue])
    | (simp only [])
    | (with_reducible refine queue_ite _ _ _ _ ?_ ?_)
    | (with_reducible refine queue_ite_fst _ _ _ _ ?_ ?_)
    | (with_reducible refine queue_ite_snd _ _ _ _ ?_ ?_)
    | (with_reducible refine keeps_ite _ _ _ _ ?_ ?_)
    | (intro _ _)
    | (simp +zetaDelta)
    | split

@[simp ↓] theorem domainCheck_queue (s : State) (p : Nat) :
    (queueOf (domainCheck s p)) = (queueOf s) := by
  unfold domainCheck
  repeat' first
    | with_reducible rfl
    | (simp +zetaDelta [foldl_queue, foldl_snd_queue, foldl_fst_queue, pending_eq_queue]; done)
    | (with_reducible rw [foldl_queue])
    | (rw [pending_eq_queue])
    | (simp only [])
    | (with_reducible refine queue_ite _ _ _ _ ?_ ?_)
    | (with_reducible refine queue_ite_fst _ _ _ _ ?_ ?_)
    | (with_reducible refine queue_ite_snd _ _ _ _ ?_ ?_)
    | (with_reducible refine keeps_ite _ _ _ _ ?_ ?_)
    | (intro _ _)
    | (simp +zetaDelta)
    | split

@[simp ↓] theorem peerHeld_queue (s : State) (p : Nat) :
    (queueOf (peerHeld s p)) = (queueOf s) := by
  unfold peerHeld
  repeat' first
    | with_reducible rfl
    | (simp +zetaDelta [foldl_queue, foldl_snd_queue, foldl_fst_queue, pending_eq_queue]; done)
    | (with_reducible rw [foldl_queue])
    | (rw [pending_eq_queue])
    | (simp only [])
    | (with_reducible refine queue_ite _ _ _ _ ?_ ?_)
    | (with_reducible refine queue_ite_fst _ _ _ _ ?_ ?_)
    | (with_reducible refine queue_ite_snd _ _ _ _ ?_ ?_)
    | (with_reducible refine keeps_ite _ _ _ _ ?_ ?_)
    | (intro _ _)
    | (simp +zetaDelta)
    | split

@[simp ↓] theorem portComeUp_queue (s : State) (p st : Nat) :
    (queueOf (portComeUp s p st)) = (queueOf s) := by
  unfold portComeUp
  repeat' first
    | with_reducible rfl
    | (simp +zetaDelta [foldl_queue, foldl_snd_queue, foldl_fst_queue, pending_eq_queue]; done)
    | (with_reducible rw [foldl_queue])
    | (rw [pending_eq_queue])
    | (simp only [])
    | (with_reducible refine queue_ite _ _ _ _ ?_ ?_)
    | (with_reducible refine queue_ite_fst _ _ _ _ ?_ ?_)
    | (with_reducible refine queue_ite_snd _ _ _ _ ?_ ?_)
    | (with_reducible refine keeps_ite _ _ _ _ ?_ ?_)
    | (intro _ _)
    | (simp +zetaDelta)
    | split

@[simp ↓] theorem heldRelease_queue (s : State) (p : Nat) :
    (queueOf (heldRelease s p)) = (queueOf s) := by
  unfold heldRelease
  repeat' first
    | with_reducible rfl
    | (simp +zetaDelta [foldl_queue, foldl_snd_queue, foldl_fst_queue, pending_eq_queue]; done)
    | (with_reducible rw [foldl_queue])
    | (rw [pending_eq_queue])
    | (simp only [])
    | (with_reducible refine queue_ite _ _ _ _ ?_ ?_)
    | (with_reducible refine queue_ite_fst _ _ _ _ ?_ ?_)
    | (with_reducible refine queue_ite_snd _ _ _ _ ?_ ?_)
    | (with_reducible refine keeps_ite _ _ _ _ ?_ ?_)
    | (intro _ _)
    | (simp +zetaDelta)
    | split

@[simp ↓] theorem domainReformed_queue (old s : State) :
    (queueOf (domainReformed old s)) = (queueOf s) := by
  unfold domainReformed
  repeat' first
    | with_reducible rfl
    | (simp +zetaDelta [foldl_queue, foldl_snd_queue, foldl_fst_queue, pending_eq_queue]; done)
    | (with_reducible rw [foldl_queue])
    | (rw [pending_eq_queue])
    | (simp only [])
    | (with_reducible refine queue_ite _ _ _ _ ?_ ?_)
    | (with_reducible refine queue_ite_fst _ _ _ _ ?_ ?_)
    | (with_reducible refine queue_ite_snd _ _ _ _ ?_ ?_)
    | (with_reducible refine keeps_ite _ _ _ _ ?_ ?_)
    | (intro _ _)
    | (simp +zetaDelta)
    | split

theorem execPortTrainingComplete_keeps (p peerMod peerPort lat : Nat) (map : List (Nat × Bool)) (ls : List Byte) (s : State) : Keeps (queueOf s) (execPortTrainingComplete p peerMod peerPort lat map ls s) := by
  unfold execPortTrainingComplete
  repeat' first
    | with_reducible rfl
    | (simp +zetaDelta [foldl_queue, foldl_snd_queue, foldl_fst_queue, pending_eq_queue]; done)
    | (with_reducible rw [foldl_queue])
    | (rw [pending_eq_queue])
    | (simp only [])
    | (with_reducible refine queue_ite _ _ _ _ ?_ ?_)
    | (with_reducible refine queue_ite_fst _ _ _ _ ?_ ?_)
    | (with_reducible refine queue_ite_snd _ _ _ _ ?_ ?_)
    | (with_reducible refine keeps_ite _ _ _ _ ?_ ?_)
    | (intro _ _)
    | (simp +zetaDelta)
    | split

@[simp ↓] theorem portQualify_queue (s : State) (p : Nat) :
    (queueOf (portQualify s p)) = (queueOf s) := by
  unfold portQualify
  repeat' first
    | with_reducible rfl
    | (simp +zetaDelta [foldl_queue, foldl_snd_queue, foldl_fst_queue, pending_eq_queue]; done)
    | (with_reducible rw [foldl_queue])
    | (rw [pending_eq_queue])
    | (simp only [])
    | (with_reducible refine queue_ite _ _ _ _ ?_ ?_)
    | (with_reducible refine queue_ite_fst _ _ _ _ ?_ ?_)
    | (with_reducible refine queue_ite_snd _ _ _ _ ?_ ?_)
    | (with_reducible refine keeps_ite _ _ _ _ ?_ ?_)
    | (intro _ _)
    | (simp +zetaDelta)
    | split

@[simp ↓] theorem ledgerAdd_queue (s : State) (kind flags source loc detail : Nat) :
    (queueOf ((ledgerAdd s kind flags source loc detail).2)) = (queueOf s) := by
  unfold ledgerAdd
  repeat' first
    | with_reducible rfl
    | (simp +zetaDelta [foldl_queue, foldl_snd_queue, foldl_fst_queue, pending_eq_queue]; done)
    | (with_reducible rw [foldl_queue])
    | (rw [pending_eq_queue])
    | (simp only [])
    | (with_reducible refine queue_ite _ _ _ _ ?_ ?_)
    | (with_reducible refine queue_ite_fst _ _ _ _ ?_ ?_)
    | (with_reducible refine queue_ite_snd _ _ _ _ ?_ ?_)
    | (with_reducible refine keeps_ite _ _ _ _ ?_ ?_)
    | (intro _ _)
    | (simp +zetaDelta)
    | split

@[simp ↓] theorem qualifyDone_queue (s : State) (p : Nat) :
    (queueOf (qualifyDone s p)) = (queueOf s) := by
  unfold qualifyDone
  repeat' first
    | with_reducible rfl
    | (simp +zetaDelta [foldl_queue, foldl_snd_queue, foldl_fst_queue, pending_eq_queue]; done)
    | (with_reducible rw [foldl_queue])
    | (rw [pending_eq_queue])
    | (simp only [])
    | (with_reducible refine queue_ite _ _ _ _ ?_ ?_)
    | (with_reducible refine queue_ite_fst _ _ _ _ ?_ ?_)
    | (with_reducible refine queue_ite_snd _ _ _ _ ?_ ?_)
    | (with_reducible refine keeps_ite _ _ _ _ ?_ ?_)
    | (intro _ _)
    | (simp +zetaDelta)
    | split

@[simp ↓] theorem laneOut_queue (s : State) (p lane ratio : Nat) :
    (queueOf (laneOut s p lane ratio)) = (queueOf s) := by
  unfold laneOut
  repeat' first
    | with_reducible rfl
    | (simp +zetaDelta [foldl_queue, foldl_snd_queue, foldl_fst_queue, pending_eq_queue]; done)
    | (with_reducible rw [foldl_queue])
    | (rw [pending_eq_queue])
    | (simp only [])
    | (with_reducible refine queue_ite _ _ _ _ ?_ ?_)
    | (with_reducible refine queue_ite_fst _ _ _ _ ?_ ?_)
    | (with_reducible refine queue_ite_snd _ _ _ _ ?_ ?_)
    | (with_reducible refine keeps_ite _ _ _ _ ?_ ?_)
    | (intro _ _)
    | (simp +zetaDelta)
    | split

theorem execLaneQualified_keeps (p lane cbits uncorr secs ratio : Nat) (s : State) : Keeps (queueOf s) (execLaneQualified p lane cbits uncorr secs ratio s) := by
  unfold execLaneQualified
  repeat' first
    | with_reducible rfl
    | (simp +zetaDelta [foldl_queue, foldl_snd_queue, foldl_fst_queue, pending_eq_queue]; done)
    | (with_reducible rw [foldl_queue])
    | (rw [pending_eq_queue])
    | (simp only [])
    | (with_reducible refine queue_ite _ _ _ _ ?_ ?_)
    | (with_reducible refine queue_ite_fst _ _ _ _ ?_ ?_)
    | (with_reducible refine queue_ite_snd _ _ _ _ ?_ ?_)
    | (with_reducible refine keeps_ite _ _ _ _ ?_ ?_)
    | (intro _ _)
    | (simp +zetaDelta)
    | split

theorem execPortErrorRatioExit_keeps (p lane : Nat) (s : State) : Keeps (queueOf s) (execPortErrorRatioExit p lane s) := by
  unfold execPortErrorRatioExit
  repeat' first
    | with_reducible rfl
    | (simp +zetaDelta [foldl_queue, foldl_snd_queue, foldl_fst_queue, pending_eq_queue]; done)
    | (with_reducible rw [foldl_queue])
    | (rw [pending_eq_queue])
    | (simp only [])
    | (with_reducible refine queue_ite _ _ _ _ ?_ ?_)
    | (with_reducible refine queue_ite_fst _ _ _ _ ?_ ?_)
    | (with_reducible refine queue_ite_snd _ _ _ _ ?_ ?_)
    | (with_reducible refine keeps_ite _ _ _ _ ?_ ?_)
    | (intro _ _)
    | (simp +zetaDelta)
    | split

@[simp ↓] theorem laneLost_queue (s : State) (p lane : Nat) :
    (queueOf (laneLost s p lane)) = (queueOf s) := by
  unfold laneLost
  repeat' first
    | with_reducible rfl
    | (simp +zetaDelta [foldl_queue, foldl_snd_queue, foldl_fst_queue, pending_eq_queue]; done)
    | (with_reducible rw [foldl_queue])
    | (rw [pending_eq_queue])
    | (simp only [])
    | (with_reducible refine queue_ite _ _ _ _ ?_ ?_)
    | (with_reducible refine queue_ite_fst _ _ _ _ ?_ ?_)
    | (with_reducible refine queue_ite_snd _ _ _ _ ?_ ?_)
    | (with_reducible refine keeps_ite _ _ _ _ ?_ ?_)
    | (intro _ _)
    | (simp +zetaDelta)
    | split

theorem execLossOfSignal_keeps (p lane : Nat) (s : State) : Keeps (queueOf s) (execLossOfSignal p lane s) := by
  unfold execLossOfSignal
  repeat' first
    | with_reducible rfl
    | (simp +zetaDelta [foldl_queue, foldl_snd_queue, foldl_fst_queue, pending_eq_queue]; done)
    | (with_reducible rw [foldl_queue])
    | (rw [pending_eq_queue])
    | (simp only [])
    | (with_reducible refine queue_ite _ _ _ _ ?_ ?_)
    | (with_reducible refine queue_ite_fst _ _ _ _ ?_ ?_)
    | (with_reducible refine queue_ite_snd _ _ _ _ ?_ ?_)
    | (with_reducible refine keeps_ite _ _ _ _ ?_ ?_)
    | (intro _ _)
    | (simp +zetaDelta)
    | split

@[simp ↓] theorem lightEvents_queue (old : Kv Nat) (s : State) (j v : Nat) :
    (queueOf (lightEvents old s j v)) = (queueOf s) := by
  unfold lightEvents
  repeat' first
    | with_reducible rfl
    | (simp +zetaDelta [foldl_queue, foldl_snd_queue, foldl_fst_queue, pending_eq_queue]; done)
    | (with_reducible rw [foldl_queue])
    | (rw [pending_eq_queue])
    | (simp only [])
    | (with_reducible refine queue_ite _ _ _ _ ?_ ?_)
    | (with_reducible refine queue_ite_fst _ _ _ _ ?_ ?_)
    | (with_reducible refine queue_ite_snd _ _ _ _ ?_ ?_)
    | (with_reducible refine keeps_ite _ _ _ _ ?_ ?_)
    | (intro _ _)
    | (simp +zetaDelta)
    | split

@[simp ↓] theorem lightRead_queue (inputs : List Nat) (lanes : List (Nat × Nat × Nat)) (s : State) :
    (queueOf (lightRead inputs lanes s)) = (queueOf s) := by
  unfold lightRead
  repeat' first
    | with_reducible rfl
    | (simp +zetaDelta [foldl_queue, foldl_snd_queue, foldl_fst_queue, pending_eq_queue]; done)
    | (with_reducible rw [foldl_queue])
    | (rw [pending_eq_queue])
    | (simp only [])
    | (with_reducible refine queue_ite _ _ _ _ ?_ ?_)
    | (with_reducible refine queue_ite_fst _ _ _ _ ?_ ?_)
    | (with_reducible refine queue_ite_snd _ _ _ _ ?_ ?_)
    | (with_reducible refine keeps_ite _ _ _ _ ?_ ?_)
    | (intro _ _)
    | (simp +zetaDelta)
    | split

theorem execLaserMonitorSample_keeps (inputs : List Nat) (lanes : List (Nat × Nat × Nat)) (s : State) : Keeps (queueOf s) (execLaserMonitorSample inputs lanes s) := by
  unfold execLaserMonitorSample
  split
  · rfl
  simp only [keeps_next]
  rw [foldl_queue, foldl_queue]
  · simp
  all_goals
    intro s b
    split <;> simp

theorem execLightRestored_keeps (j : Nat) (s : State) : Keeps (queueOf s) (execLightRestored j s) := by
  unfold execLightRestored
  repeat' first
    | with_reducible rfl
    | (simp +zetaDelta [foldl_queue, foldl_snd_queue, foldl_fst_queue, pending_eq_queue]; done)
    | (with_reducible rw [foldl_queue])
    | (rw [pending_eq_queue])
    | (simp only [])
    | (with_reducible refine queue_ite _ _ _ _ ?_ ?_)
    | (with_reducible refine queue_ite_fst _ _ _ _ ?_ ?_)
    | (with_reducible refine queue_ite_snd _ _ _ _ ?_ ?_)
    | (with_reducible refine keeps_ite _ _ _ _ ?_ ?_)
    | (intro _ _)
    | (simp +zetaDelta)
    | split

@[simp ↓] theorem lightRequest_queue (s : State) :
    (queueOf (lightRequest s)) = (queueOf s) := by
  unfold lightRequest
  repeat' first
    | with_reducible rfl
    | (simp +zetaDelta [foldl_queue, foldl_snd_queue, foldl_fst_queue, pending_eq_queue]; done)
    | (with_reducible rw [foldl_queue])
    | (rw [pending_eq_queue])
    | (simp only [])
    | (with_reducible refine queue_ite _ _ _ _ ?_ ?_)
    | (with_reducible refine queue_ite_fst _ _ _ _ ?_ ?_)
    | (with_reducible refine queue_ite_snd _ _ _ _ ?_ ?_)
    | (with_reducible refine keeps_ite _ _ _ _ ?_ ?_)
    | (intro _ _)
    | (simp +zetaDelta)
    | split

@[simp ↓] theorem portEnable_queue (s : State) (p : Nat) (en : Bool) :
    (queueOf (portEnable s p en)) = (queueOf s) := by
  unfold portEnable
  repeat' first
    | with_reducible rfl
    | (simp +zetaDelta [foldl_queue, foldl_snd_queue, foldl_fst_queue, pending_eq_queue]; done)
    | (with_reducible rw [foldl_queue])
    | (rw [pending_eq_queue])
    | (simp only [])
    | (with_reducible refine queue_ite _ _ _ _ ?_ ?_)
    | (with_reducible refine queue_ite_fst _ _ _ _ ?_ ?_)
    | (with_reducible refine queue_ite_snd _ _ _ _ ?_ ?_)
    | (with_reducible refine keeps_ite _ _ _ _ ?_ ?_)
    | (intro _ _)
    | (simp +zetaDelta)
    | split

@[simp ↓] theorem lkCtlWrite_queue (s : State) (p v : Nat) :
    (queueOf (lkCtlWrite s p v)) = (queueOf s) := by
  unfold lkCtlWrite
  repeat' first
    | with_reducible rfl
    | (simp +zetaDelta [foldl_queue, foldl_snd_queue, foldl_fst_queue, pending_eq_queue]; done)
    | (with_reducible rw [foldl_queue])
    | (rw [pending_eq_queue])
    | (simp only [])
    | (with_reducible refine queue_ite _ _ _ _ ?_ ?_)
    | (with_reducible refine queue_ite_fst _ _ _ _ ?_ ?_)
    | (with_reducible refine queue_ite_snd _ _ _ _ ?_ ?_)
    | (with_reducible refine keeps_ite _ _ _ _ ?_ ?_)
    | (intro _ _)
    | (simp +zetaDelta)
    | split

theorem execLkCtlRetrain_keeps (p v : Nat) (s : State) : Keeps (queueOf s) (execLkCtlRetrain p v s) := by
  unfold execLkCtlRetrain
  repeat' first
    | with_reducible rfl
    | (simp +zetaDelta [foldl_queue, foldl_snd_queue, foldl_fst_queue, pending_eq_queue]; done)
    | (with_reducible rw [foldl_queue])
    | (rw [pending_eq_queue])
    | (simp only [])
    | (with_reducible refine queue_ite _ _ _ _ ?_ ?_)
    | (with_reducible refine queue_ite_fst _ _ _ _ ?_ ?_)
    | (with_reducible refine queue_ite_snd _ _ _ _ ?_ ?_)
    | (with_reducible refine keeps_ite _ _ _ _ ?_ ?_)
    | (intro _ _)
    | (simp +zetaDelta)
    | split

theorem execLkCtlEnWrite_keeps (p v : Nat) (s : State) : Keeps (queueOf s) (execLkCtlEnWrite p v s) := by
  unfold execLkCtlEnWrite
  repeat' first
    | with_reducible rfl
    | (simp +zetaDelta [foldl_queue, foldl_snd_queue, foldl_fst_queue, pending_eq_queue]; done)
    | (with_reducible rw [foldl_queue])
    | (rw [pending_eq_queue])
    | (simp only [])
    | (with_reducible refine queue_ite _ _ _ _ ?_ ?_)
    | (with_reducible refine queue_ite_fst _ _ _ _ ?_ ?_)
    | (with_reducible refine queue_ite_snd _ _ _ _ ?_ ?_)
    | (with_reducible refine keeps_ite _ _ _ _ ?_ ?_)
    | (intro _ _)
    | (simp +zetaDelta)
    | split

@[simp ↓] theorem peerExpWrite_queue (s : State) (p v : Nat) :
    (queueOf (peerExpWrite s p v)) = (queueOf s) := by
  unfold peerExpWrite
  repeat' first
    | with_reducible rfl
    | (simp +zetaDelta [foldl_queue, foldl_snd_queue, foldl_fst_queue, pending_eq_queue]; done)
    | (with_reducible rw [foldl_queue])
    | (rw [pending_eq_queue])
    | (simp only [])
    | (with_reducible refine queue_ite _ _ _ _ ?_ ?_)
    | (with_reducible refine queue_ite_fst _ _ _ _ ?_ ?_)
    | (with_reducible refine queue_ite_snd _ _ _ _ ?_ ?_)
    | (with_reducible refine keeps_ite _ _ _ _ ?_ ?_)
    | (intro _ _)
    | (simp +zetaDelta)
    | split

theorem execLkPeerExpWrite_keeps (p v : Nat) (s : State) : Keeps (queueOf s) (execLkPeerExpWrite p v s) := by
  unfold execLkPeerExpWrite
  repeat' first
    | with_reducible rfl
    | (simp +zetaDelta [foldl_queue, foldl_snd_queue, foldl_fst_queue, pending_eq_queue]; done)
    | (with_reducible rw [foldl_queue])
    | (rw [pending_eq_queue])
    | (simp only [])
    | (with_reducible refine queue_ite _ _ _ _ ?_ ?_)
    | (with_reducible refine queue_ite_fst _ _ _ _ ?_ ?_)
    | (with_reducible refine queue_ite_snd _ _ _ _ ?_ ?_)
    | (with_reducible refine keeps_ite _ _ _ _ ?_ ?_)
    | (intro _ _)
    | (simp +zetaDelta)
    | split

theorem execClockSourceLoss_keeps (s : State) : Keeps (queueOf s) (execClockSourceLoss s) := by
  unfold execClockSourceLoss
  repeat' first
    | with_reducible rfl
    | (simp +zetaDelta [foldl_queue, foldl_snd_queue, foldl_fst_queue, pending_eq_queue]; done)
    | (with_reducible rw [foldl_queue])
    | (rw [pending_eq_queue])
    | (simp only [])
    | (with_reducible refine queue_ite _ _ _ _ ?_ ?_)
    | (with_reducible refine queue_ite_fst _ _ _ _ ?_ ?_)
    | (with_reducible refine queue_ite_snd _ _ _ _ ?_ ?_)
    | (with_reducible refine keeps_ite _ _ _ _ ?_ ?_)
    | (intro _ _)
    | (simp +zetaDelta)
    | split

theorem execClockSourceLost_keeps (s : State) : Keeps (queueOf s) (execClockSourceLost s) := by
  unfold execClockSourceLost
  repeat' first
    | with_reducible rfl
    | (simp +zetaDelta [foldl_queue, foldl_snd_queue, foldl_fst_queue, pending_eq_queue]; done)
    | (with_reducible rw [foldl_queue])
    | (rw [pending_eq_queue])
    | (simp only [])
    | (with_reducible refine queue_ite _ _ _ _ ?_ ?_)
    | (with_reducible refine queue_ite_fst _ _ _ _ ?_ ?_)
    | (with_reducible refine queue_ite_snd _ _ _ _ ?_ ?_)
    | (with_reducible refine keeps_ite _ _ _ _ ?_ ?_)
    | (intro _ _)
    | (simp +zetaDelta)
    | split

/-! ## Sys2Proof/Machine/Flit.lean -/

theorem execFlitTransmit_keeps (p : Nat) (s0 : State) : Keeps (queueOf s0) (execFlitTransmit p s0) := by
  unfold execFlitTransmit
  repeat' first
    | with_reducible rfl
    | (simp +zetaDelta [foldl_queue, foldl_snd_queue, foldl_fst_queue, pending_eq_queue]; done)
    | (with_reducible rw [foldl_queue])
    | (rw [pending_eq_queue])
    | (simp only [])
    | (with_reducible refine queue_ite _ _ _ _ ?_ ?_)
    | (with_reducible refine queue_ite_fst _ _ _ _ ?_ ?_)
    | (with_reducible refine queue_ite_snd _ _ _ _ ?_ ?_)
    | (with_reducible refine keeps_ite _ _ _ _ ?_ ?_)
    | (intro _ _)
    | (simp +zetaDelta)
    | split

theorem flitRow_keeps (type p : Nat) (fl : List Byte) (s : State) (f : State → State) (g : Port → Port)
    (h : ∀ s, (queueOf (f s)) = (queueOf s)) : Keeps (queueOf s) (flitRow type p fl s f g) := by
  unfold flitRow
  repeat' refine keeps_ite _ _ _ _ ?_ ?_
  all_goals simp [h]

theorem execDataFlitReceive_keeps (p : Nat) (fl : List Byte) (s : State) : Keeps (queueOf s) (execDataFlitReceive p fl s) := by
  unfold execDataFlitReceive
  refine flitRow_keeps _ _ _ _ _ _ ?_
  intro s
  repeat' first
    | with_reducible rfl
    | (simp +zetaDelta [foldl_queue, foldl_snd_queue, foldl_fst_queue, pending_eq_queue]; done)
    | (with_reducible rw [foldl_queue])
    | (rw [pending_eq_queue])
    | (simp only [])
    | (with_reducible refine queue_ite _ _ _ _ ?_ ?_)
    | (with_reducible refine queue_ite_fst _ _ _ _ ?_ ?_)
    | (with_reducible refine queue_ite_snd _ _ _ _ ?_ ?_)
    | (with_reducible refine keeps_ite _ _ _ _ ?_ ?_)
    | (intro _ _)
    | (simp +zetaDelta)
    | split

theorem execIdleFlitReceive_keeps (p : Nat) (fl : List Byte) (s : State) : Keeps (queueOf s) (execIdleFlitReceive p fl s) := by
  unfold execIdleFlitReceive
  refine flitRow_keeps _ _ _ _ _ _ ?_
  intro s
  repeat' first
    | with_reducible rfl
    | (simp +zetaDelta [foldl_queue, foldl_snd_queue, foldl_fst_queue, pending_eq_queue]; done)
    | (with_reducible rw [foldl_queue])
    | (rw [pending_eq_queue])
    | (simp only [])
    | (with_reducible refine queue_ite _ _ _ _ ?_ ?_)
    | (with_reducible refine queue_ite_fst _ _ _ _ ?_ ?_)
    | (with_reducible refine queue_ite_snd _ _ _ _ ?_ ?_)
    | (with_reducible refine keeps_ite _ _ _ _ ?_ ?_)
    | (intro _ _)
    | (simp +zetaDelta)
    | split

theorem execRetryRequestReceive_keeps (p : Nat) (fl : List Byte) (s : State) : Keeps (queueOf s) (execRetryRequestReceive p fl s) := by
  unfold execRetryRequestReceive
  refine flitRow_keeps _ _ _ _ _ _ ?_
  intro s
  repeat' first
    | with_reducible rfl
    | (simp +zetaDelta [foldl_queue, foldl_snd_queue, foldl_fst_queue, pending_eq_queue]; done)
    | (with_reducible rw [foldl_queue])
    | (rw [pending_eq_queue])
    | (simp only [])
    | (with_reducible refine queue_ite _ _ _ _ ?_ ?_)
    | (with_reducible refine queue_ite_fst _ _ _ _ ?_ ?_)
    | (with_reducible refine queue_ite_snd _ _ _ _ ?_ ?_)
    | (with_reducible refine keeps_ite _ _ _ _ ?_ ?_)
    | (intro _ _)
    | (simp +zetaDelta)
    | split

theorem execRetryRequestRepeat_keeps (p : Nat) (s : State) : Keeps (queueOf s) (execRetryRequestRepeat p s) := by
  unfold execRetryRequestRepeat
  repeat' first
    | with_reducible rfl
    | (simp +zetaDelta [foldl_queue, foldl_snd_queue, foldl_fst_queue, pending_eq_queue]; done)
    | (with_reducible rw [foldl_queue])
    | (rw [pending_eq_queue])
    | (simp only [])
    | (with_reducible refine queue_ite _ _ _ _ ?_ ?_)
    | (with_reducible refine queue_ite_fst _ _ _ _ ?_ ?_)
    | (with_reducible refine queue_ite_snd _ _ _ _ ?_ ?_)
    | (with_reducible refine keeps_ite _ _ _ _ ?_ ?_)
    | (intro _ _)
    | (simp +zetaDelta)
    | split

theorem execRetryGiveUp_keeps (p : Nat) (silent : Bool) (s : State) : Keeps (queueOf s) (execRetryGiveUp p silent s) := by
  unfold execRetryGiveUp
  repeat' first
    | with_reducible rfl
    | (simp +zetaDelta [foldl_queue, foldl_snd_queue, foldl_fst_queue, pending_eq_queue]; done)
    | (with_reducible rw [foldl_queue])
    | (rw [pending_eq_queue])
    | (simp only [])
    | (with_reducible refine queue_ite _ _ _ _ ?_ ?_)
    | (with_reducible refine queue_ite_fst _ _ _ _ ?_ ?_)
    | (with_reducible refine queue_ite_snd _ _ _ _ ?_ ?_)
    | (with_reducible refine keeps_ite _ _ _ _ ?_ ?_)
    | (intro _ _)
    | (simp +zetaDelta)
    | split

theorem execProbeFlitReceive_keeps (p : Nat) (fl : List Byte) (echo : Bool) (rtt turn : Nat) (s0 : State) : Keeps (queueOf s0) (execProbeFlitReceive p fl echo rtt turn s0) := by
  unfold execProbeFlitReceive
  have hs : queueOf (if flitGood fl && fld fl 0 1 % 16 == 6 then modPort s0 p measureStart else s0) = queueOf s0 := by
    split <;> rfl
  rw [← hs]
  refine flitRow_keeps _ _ _ _ _ _ ?_
  intro s
  repeat' first
    | with_reducible rfl
    | (simp +zetaDelta [foldl_queue, foldl_snd_queue, foldl_fst_queue, pending_eq_queue]; done)
    | (with_reducible rw [foldl_queue])
    | (rw [pending_eq_queue])
    | (simp only [])
    | (with_reducible refine queue_ite _ _ _ _ ?_ ?_)
    | (with_reducible refine queue_ite_fst _ _ _ _ ?_ ?_)
    | (with_reducible refine queue_ite_snd _ _ _ _ ?_ ?_)
    | (with_reducible refine keeps_ite _ _ _ _ ?_ ?_)
    | (intro _ _)
    | (simp +zetaDelta)
    | split

@[simp ↓] theorem voteHear_queue (s0 : State) (p voteT : Nat) (vote : Bool) :
    (queueOf (voteHear s0 p voteT vote)) = (queueOf s0) := by
  unfold voteHear
  repeat' first
    | with_reducible rfl
    | (simp +zetaDelta [foldl_queue, foldl_snd_queue, foldl_fst_queue, pending_eq_queue]; done)
    | (with_reducible rw [foldl_queue])
    | (rw [pending_eq_queue])
    | (simp only [])
    | (with_reducible refine queue_ite _ _ _ _ ?_ ?_)
    | (with_reducible refine queue_ite_fst _ _ _ _ ?_ ?_)
    | (with_reducible refine queue_ite_snd _ _ _ _ ?_ ?_)
    | (with_reducible refine keeps_ite _ _ _ _ ?_ ?_)
    | (intro _ _)
    | (simp +zetaDelta)
    | split

@[simp ↓] theorem peerReformed_queue (s : State) (p domain : Nat) (isIn : Bool) :
    (queueOf (peerReformed s p domain isIn)) = (queueOf s) := by
  unfold peerReformed
  repeat' first
    | with_reducible rfl
    | (simp +zetaDelta [foldl_queue, foldl_snd_queue, foldl_fst_queue, pending_eq_queue]; done)
    | (with_reducible rw [foldl_queue])
    | (rw [pending_eq_queue])
    | (simp only [])
    | (with_reducible refine queue_ite _ _ _ _ ?_ ?_)
    | (with_reducible refine queue_ite_fst _ _ _ _ ?_ ?_)
    | (with_reducible refine queue_ite_snd _ _ _ _ ?_ ?_)
    | (with_reducible refine keeps_ite _ _ _ _ ?_ ?_)
    | (intro _ _)
    | (simp +zetaDelta)
    | split

theorem execLinkStateFlitReceive_keeps (p : Nat) (fl : List Byte) (s : State) : Keeps (queueOf s) (execLinkStateFlitReceive p fl s) := by
  unfold execLinkStateFlitReceive
  refine flitRow_keeps _ _ _ _ _ _ ?_
  intro s
  repeat' first
    | with_reducible rfl
    | (simp +zetaDelta [foldl_queue, foldl_snd_queue, foldl_fst_queue, pending_eq_queue]; done)
    | (with_reducible rw [foldl_queue])
    | (rw [pending_eq_queue])
    | (simp only [])
    | (with_reducible refine queue_ite _ _ _ _ ?_ ?_)
    | (with_reducible refine queue_ite_fst _ _ _ _ ?_ ?_)
    | (with_reducible refine queue_ite_snd _ _ _ _ ?_ ?_)
    | (with_reducible refine keeps_ite _ _ _ _ ?_ ?_)
    | (intro _ _)
    | (simp +zetaDelta)
    | split

@[simp ↓] theorem bellTake_queue (s : State) (p arr : Nat) (body : List Byte) :
    (queueOf (bellTake s p arr body)) = (queueOf s) := by
  unfold bellTake
  repeat' first
    | with_reducible rfl
    | (simp +zetaDelta [foldl_queue, foldl_snd_queue, foldl_fst_queue, pending_eq_queue]; done)
    | (with_reducible rw [foldl_queue])
    | (rw [pending_eq_queue])
    | (simp only [])
    | (with_reducible refine queue_ite _ _ _ _ ?_ ?_)
    | (with_reducible refine queue_ite_fst _ _ _ _ ?_ ?_)
    | (with_reducible refine queue_ite_snd _ _ _ _ ?_ ?_)
    | (with_reducible refine keeps_ite _ _ _ _ ?_ ?_)
    | (intro _ _)
    | (simp +zetaDelta)
    | split

theorem execBellFlitReceive_keeps (p : Nat) (fl : List Byte) (arr : Nat) (s : State) : Keeps (queueOf s) (execBellFlitReceive p fl arr s) := by
  unfold execBellFlitReceive
  refine flitRow_keeps _ _ _ _ _ _ ?_
  intro s
  repeat' first
    | with_reducible rfl
    | (simp +zetaDelta [foldl_queue, foldl_snd_queue, foldl_fst_queue, pending_eq_queue]; done)
    | (with_reducible rw [foldl_queue])
    | (rw [pending_eq_queue])
    | (simp only [])
    | (with_reducible refine queue_ite _ _ _ _ ?_ ?_)
    | (with_reducible refine queue_ite_fst _ _ _ _ ?_ ?_)
    | (with_reducible refine queue_ite_snd _ _ _ _ ?_ ?_)
    | (with_reducible refine keeps_ite _ _ _ _ ?_ ?_)
    | (intro _ _)
    | (simp +zetaDelta)
    | split

theorem execBellFlitLost_keeps (p : Nat) (s : State) : Keeps (queueOf s) (execBellFlitLost p s) := by
  unfold execBellFlitLost
  repeat' first
    | with_reducible rfl
    | (simp +zetaDelta [foldl_queue, foldl_snd_queue, foldl_fst_queue, pending_eq_queue]; done)
    | (with_reducible rw [foldl_queue])
    | (rw [pending_eq_queue])
    | (simp only [])
    | (with_reducible refine queue_ite _ _ _ _ ?_ ?_)
    | (with_reducible refine queue_ite_fst _ _ _ _ ?_ ?_)
    | (with_reducible refine queue_ite_snd _ _ _ _ ?_ ?_)
    | (with_reducible refine keeps_ite _ _ _ _ ?_ ?_)
    | (intro _ _)
    | (simp +zetaDelta)
    | split

end Sys2Proof.Machine
end

