-- ==== Sys2Proof/Laws/QueueI.lean ====
section
/-! SUPPORT. The operations and commands of MailModule, MailWork keep the queue. -/

set_option linter.unusedSimpArgs false
set_option linter.unusedVariables false
set_option linter.unreachableTactic false
set_option linter.unusedTactic false

namespace Sys2Proof.Machine

/-! ## Sys2Proof/Machine/MailModule.lean -/

@[simp ↓] theorem modIdentity_queue (s : State) (c : MCmd) :
    (queueOf ((modIdentity s c).st)) = (queueOf s) := by
  unfold modIdentity
  repeat' first
    | with_reducible rfl
    | (simp +zetaDelta [foldl_queue, foldl_snd_queue, foldl_fst_queue, pending_eq_queue]; done)
    | (with_reducible rw [foldl_queue])
    | (rw [pending_eq_queue])
    | (with_reducible exact hereFront_queue _ _ _ _ _ (by assumption))
    | (with_reducible refine withPart_queue _ _ _ _ _ (fun _ => ?_))
    | (with_reducible refine withTile_queue _ _ _ _ _ (fun _ => ?_))
    | (with_reducible refine lotEnded_queue _ _ _ (fun _ => ?_))
    | (with_reducible refine stageCtx_queue _ _ _ (fun _ => ?_))
    | (with_reducible refine stageMod_queue _ _ _ ?_)
    | (with_reducible refine stageMask_queue _ _ _ (fun _ => ?_))
    | (simp only [])
    | (with_reducible refine queue_ite _ _ _ _ ?_ ?_)
    | (with_reducible refine queue_ite_fst _ _ _ _ ?_ ?_)
    | (with_reducible refine queue_ite_snd _ _ _ _ ?_ ?_)
    | (with_reducible refine keeps_ite _ _ _ _ ?_ ?_)
    | (intro _ _)
    | (simp +zetaDelta)
    | split

@[simp ↓] theorem modGeometry_queue (s : State) (c : MCmd) :
    (queueOf ((modGeometry s c).st)) = (queueOf s) := by
  unfold modGeometry
  repeat' first
    | with_reducible rfl
    | (simp +zetaDelta [foldl_queue, foldl_snd_queue, foldl_fst_queue, pending_eq_queue]; done)
    | (with_reducible rw [foldl_queue])
    | (rw [pending_eq_queue])
    | (with_reducible exact hereFront_queue _ _ _ _ _ (by assumption))
    | (with_reducible refine withPart_queue _ _ _ _ _ (fun _ => ?_))
    | (with_reducible refine withTile_queue _ _ _ _ _ (fun _ => ?_))
    | (with_reducible refine lotEnded_queue _ _ _ (fun _ => ?_))
    | (with_reducible refine stageCtx_queue _ _ _ (fun _ => ?_))
    | (with_reducible refine stageMod_queue _ _ _ ?_)
    | (with_reducible refine stageMask_queue _ _ _ (fun _ => ?_))
    | (simp only [])
    | (with_reducible refine queue_ite _ _ _ _ ?_ ?_)
    | (with_reducible refine queue_ite_fst _ _ _ _ ?_ ?_)
    | (with_reducible refine queue_ite_snd _ _ _ _ ?_ ?_)
    | (with_reducible refine keeps_ite _ _ _ _ ?_ ?_)
    | (intro _ _)
    | (simp +zetaDelta)
    | split

@[simp ↓] theorem modHealth_queue (s : State) (c : MCmd) :
    (queueOf ((modHealth s c).st)) = (queueOf s) := by
  unfold modHealth
  repeat' first
    | with_reducible rfl
    | (simp +zetaDelta [foldl_queue, foldl_snd_queue, foldl_fst_queue, pending_eq_queue]; done)
    | (with_reducible rw [foldl_queue])
    | (rw [pending_eq_queue])
    | (with_reducible exact hereFront_queue _ _ _ _ _ (by assumption))
    | (with_reducible refine withPart_queue _ _ _ _ _ (fun _ => ?_))
    | (with_reducible refine withTile_queue _ _ _ _ _ (fun _ => ?_))
    | (with_reducible refine lotEnded_queue _ _ _ (fun _ => ?_))
    | (with_reducible refine stageCtx_queue _ _ _ (fun _ => ?_))
    | (with_reducible refine stageMod_queue _ _ _ ?_)
    | (with_reducible refine stageMask_queue _ _ _ (fun _ => ?_))
    | (simp only [])
    | (with_reducible refine queue_ite _ _ _ _ ?_ ?_)
    | (with_reducible refine queue_ite_fst _ _ _ _ ?_ ?_)
    | (with_reducible refine queue_ite_snd _ _ _ _ ?_ ?_)
    | (with_reducible refine keeps_ite _ _ _ _ ?_ ?_)
    | (intro _ _)
    | (simp +zetaDelta)
    | split

@[simp ↓] theorem modReady_queue (s : State) (c : MCmd) :
    (queueOf ((modReady s c).st)) = (queueOf s) := by
  unfold modReady
  repeat' first
    | with_reducible rfl
    | (simp +zetaDelta [foldl_queue, foldl_snd_queue, foldl_fst_queue, pending_eq_queue]; done)
    | (with_reducible rw [foldl_queue])
    | (rw [pending_eq_queue])
    | (with_reducible exact hereFront_queue _ _ _ _ _ (by assumption))
    | (with_reducible refine withPart_queue _ _ _ _ _ (fun _ => ?_))
    | (with_reducible refine withTile_queue _ _ _ _ _ (fun _ => ?_))
    | (with_reducible refine lotEnded_queue _ _ _ (fun _ => ?_))
    | (with_reducible refine stageCtx_queue _ _ _ (fun _ => ?_))
    | (with_reducible refine stageMod_queue _ _ _ ?_)
    | (with_reducible refine stageMask_queue _ _ _ (fun _ => ?_))
    | (simp only [])
    | (with_reducible refine queue_ite _ _ _ _ ?_ ?_)
    | (with_reducible refine queue_ite_fst _ _ _ _ ?_ ?_)
    | (with_reducible refine queue_ite_snd _ _ _ _ ?_ ?_)
    | (with_reducible refine keeps_ite _ _ _ _ ?_ ?_)
    | (intro _ _)
    | (simp +zetaDelta)
    | split

@[simp ↓] theorem modClockSet_queue (s : State) (c : MCmd) :
    (queueOf ((modClockSet s c).st)) = (queueOf s) := by
  unfold modClockSet
  repeat' first
    | with_reducible rfl
    | (simp +zetaDelta [foldl_queue, foldl_snd_queue, foldl_fst_queue, pending_eq_queue]; done)
    | (with_reducible rw [foldl_queue])
    | (rw [pending_eq_queue])
    | (with_reducible exact hereFront_queue _ _ _ _ _ (by assumption))
    | (with_reducible refine withPart_queue _ _ _ _ _ (fun _ => ?_))
    | (with_reducible refine withTile_queue _ _ _ _ _ (fun _ => ?_))
    | (with_reducible refine lotEnded_queue _ _ _ (fun _ => ?_))
    | (with_reducible refine stageCtx_queue _ _ _ (fun _ => ?_))
    | (with_reducible refine stageMod_queue _ _ _ ?_)
    | (with_reducible refine stageMask_queue _ _ _ (fun _ => ?_))
    | (simp only [])
    | (with_reducible refine queue_ite _ _ _ _ ?_ ?_)
    | (with_reducible refine queue_ite_fst _ _ _ _ ?_ ?_)
    | (with_reducible refine queue_ite_snd _ _ _ _ ?_ ?_)
    | (with_reducible refine keeps_ite _ _ _ _ ?_ ?_)
    | (intro _ _)
    | (simp +zetaDelta)
    | split

@[simp ↓] theorem modIdSet_queue (s : State) (c : MCmd) :
    (queueOf ((modIdSet s c).st)) = (queueOf s) := by
  unfold modIdSet
  repeat' first
    | with_reducible rfl
    | (simp +zetaDelta [foldl_queue, foldl_snd_queue, foldl_fst_queue, pending_eq_queue]; done)
    | (with_reducible rw [foldl_queue])
    | (rw [pending_eq_queue])
    | (with_reducible exact hereFront_queue _ _ _ _ _ (by assumption))
    | (with_reducible refine withPart_queue _ _ _ _ _ (fun _ => ?_))
    | (with_reducible refine withTile_queue _ _ _ _ _ (fun _ => ?_))
    | (with_reducible refine lotEnded_queue _ _ _ (fun _ => ?_))
    | (with_reducible refine stageCtx_queue _ _ _ (fun _ => ?_))
    | (with_reducible refine stageMod_queue _ _ _ ?_)
    | (with_reducible refine stageMask_queue _ _ _ (fun _ => ?_))
    | (simp only [])
    | (with_reducible refine queue_ite _ _ _ _ ?_ ?_)
    | (with_reducible refine queue_ite_fst _ _ _ _ ?_ ?_)
    | (with_reducible refine queue_ite_snd _ _ _ _ ?_ ?_)
    | (with_reducible refine keeps_ite _ _ _ _ ?_ ?_)
    | (intro _ _)
    | (simp +zetaDelta)
    | split

@[simp ↓] theorem modResetPartition_queue (s : State) (c : MCmd) :
    (queueOf ((modResetPartition s c).st)) = (queueOf s) := by
  unfold modResetPartition
  repeat' first
    | with_reducible rfl
    | (simp +zetaDelta [foldl_queue, foldl_snd_queue, foldl_fst_queue, pending_eq_queue]; done)
    | (with_reducible rw [foldl_queue])
    | (rw [pending_eq_queue])
    | (with_reducible exact hereFront_queue _ _ _ _ _ (by assumption))
    | (with_reducible refine withPart_queue _ _ _ _ _ (fun _ => ?_))
    | (with_reducible refine withTile_queue _ _ _ _ _ (fun _ => ?_))
    | (with_reducible refine lotEnded_queue _ _ _ (fun _ => ?_))
    | (with_reducible refine stageCtx_queue _ _ _ (fun _ => ?_))
    | (with_reducible refine stageMod_queue _ _ _ ?_)
    | (with_reducible refine stageMask_queue _ _ _ (fun _ => ?_))
    | (simp only [])
    | (with_reducible refine queue_ite _ _ _ _ ?_ ?_)
    | (with_reducible refine queue_ite_fst _ _ _ _ ?_ ?_)
    | (with_reducible refine queue_ite_snd _ _ _ _ ?_ ?_)
    | (with_reducible refine keeps_ite _ _ _ _ ?_ ?_)
    | (intro _ _)
    | (simp +zetaDelta)
    | split

@[simp ↓] theorem modResetCompute_queue (s : State) (c : MCmd) :
    (queueOf ((modResetCompute s c).st)) = (queueOf s) := by
  unfold modResetCompute
  repeat' first
    | with_reducible rfl
    | (simp +zetaDelta [foldl_queue, foldl_snd_queue, foldl_fst_queue, pending_eq_queue]; done)
    | (with_reducible rw [foldl_queue])
    | (rw [pending_eq_queue])
    | (with_reducible exact hereFront_queue _ _ _ _ _ (by assumption))
    | (with_reducible refine withPart_queue _ _ _ _ _ (fun _ => ?_))
    | (with_reducible refine withTile_queue _ _ _ _ _ (fun _ => ?_))
    | (with_reducible refine lotEnded_queue _ _ _ (fun _ => ?_))
    | (with_reducible refine stageCtx_queue _ _ _ (fun _ => ?_))
    | (with_reducible refine stageMod_queue _ _ _ ?_)
    | (with_reducible refine stageMask_queue _ _ _ (fun _ => ?_))
    | (simp only [])
    | (with_reducible refine queue_ite _ _ _ _ ?_ ?_)
    | (with_reducible refine queue_ite_fst _ _ _ _ ?_ ?_)
    | (with_reducible refine queue_ite_snd _ _ _ _ ?_ ?_)
    | (with_reducible refine keeps_ite _ _ _ _ ?_ ?_)
    | (intro _ _)
    | (simp +zetaDelta)
    | split

@[simp ↓] theorem modResetPower_queue (s : State) (c : MCmd) :
    (queueOf ((modResetPower s c).st)) = (queueOf s) := by
  unfold modResetPower
  repeat' first
    | with_reducible rfl
    | (simp +zetaDelta [foldl_queue, foldl_snd_queue, foldl_fst_queue, pending_eq_queue]; done)
    | (with_reducible rw [foldl_queue])
    | (rw [pending_eq_queue])
    | (with_reducible exact hereFront_queue _ _ _ _ _ (by assumption))
    | (with_reducible refine withPart_queue _ _ _ _ _ (fun _ => ?_))
    | (with_reducible refine withTile_queue _ _ _ _ _ (fun _ => ?_))
    | (with_reducible refine lotEnded_queue _ _ _ (fun _ => ?_))
    | (with_reducible refine stageCtx_queue _ _ _ (fun _ => ?_))
    | (with_reducible refine stageMod_queue _ _ _ ?_)
    | (with_reducible refine stageMask_queue _ _ _ (fun _ => ?_))
    | (simp only [])
    | (with_reducible refine queue_ite _ _ _ _ ?_ ?_)
    | (with_reducible refine queue_ite_fst _ _ _ _ ?_ ?_)
    | (with_reducible refine queue_ite_snd _ _ _ _ ?_ ?_)
    | (with_reducible refine keeps_ite _ _ _ _ ?_ ?_)
    | (intro _ _)
    | (simp +zetaDelta)
    | split

@[simp ↓] theorem modTelemetry_queue (s : State) (c : MCmd) :
    (queueOf ((modTelemetry s c).st)) = (queueOf s) := by
  unfold modTelemetry
  repeat' first
    | with_reducible rfl
    | (simp +zetaDelta [foldl_queue, foldl_snd_queue, foldl_fst_queue, pending_eq_queue]; done)
    | (with_reducible rw [foldl_queue])
    | (rw [pending_eq_queue])
    | (with_reducible exact hereFront_queue _ _ _ _ _ (by assumption))
    | (with_reducible refine withPart_queue _ _ _ _ _ (fun _ => ?_))
    | (with_reducible refine withTile_queue _ _ _ _ _ (fun _ => ?_))
    | (with_reducible refine lotEnded_queue _ _ _ (fun _ => ?_))
    | (with_reducible refine stageCtx_queue _ _ _ (fun _ => ?_))
    | (with_reducible refine stageMod_queue _ _ _ ?_)
    | (with_reducible refine stageMask_queue _ _ _ (fun _ => ?_))
    | (simp only [])
    | (with_reducible refine queue_ite _ _ _ _ ?_ ?_)
    | (with_reducible refine queue_ite_fst _ _ _ _ ?_ ?_)
    | (with_reducible refine queue_ite_snd _ _ _ _ ?_ ?_)
    | (with_reducible refine keeps_ite _ _ _ _ ?_ ?_)
    | (intro _ _)
    | (simp +zetaDelta)
    | split

@[simp ↓] theorem partMbCtl_queue (s : State) (c : MCmd) :
    (queueOf ((partMbCtl s c).st)) = (queueOf s) := by
  unfold partMbCtl
  repeat' first
    | with_reducible rfl
    | (simp +zetaDelta [foldl_queue, foldl_snd_queue, foldl_fst_queue, pending_eq_queue]; done)
    | (with_reducible rw [foldl_queue])
    | (rw [pending_eq_queue])
    | (with_reducible exact hereFront_queue _ _ _ _ _ (by assumption))
    | (with_reducible refine withPart_queue _ _ _ _ _ (fun _ => ?_))
    | (with_reducible refine withTile_queue _ _ _ _ _ (fun _ => ?_))
    | (with_reducible refine lotEnded_queue _ _ _ (fun _ => ?_))
    | (with_reducible refine stageCtx_queue _ _ _ (fun _ => ?_))
    | (with_reducible refine stageMod_queue _ _ _ ?_)
    | (with_reducible refine stageMask_queue _ _ _ (fun _ => ?_))
    | (simp only [])
    | (with_reducible refine queue_ite _ _ _ _ ?_ ?_)
    | (with_reducible refine queue_ite_fst _ _ _ _ ?_ ?_)
    | (with_reducible refine queue_ite_snd _ _ _ _ ?_ ?_)
    | (with_reducible refine keeps_ite _ _ _ _ ?_ ?_)
    | (intro _ _)
    | (simp +zetaDelta)
    | split

@[simp ↓] theorem recRead_queue (s : State) (c : MCmd) :
    (queueOf ((recRead s c).st)) = (queueOf s) := by
  unfold recRead
  repeat' first
    | with_reducible rfl
    | (simp +zetaDelta [foldl_queue, foldl_snd_queue, foldl_fst_queue, pending_eq_queue]; done)
    | (with_reducible rw [foldl_queue])
    | (rw [pending_eq_queue])
    | (with_reducible exact hereFront_queue _ _ _ _ _ (by assumption))
    | (with_reducible refine withPart_queue _ _ _ _ _ (fun _ => ?_))
    | (with_reducible refine withTile_queue _ _ _ _ _ (fun _ => ?_))
    | (with_reducible refine lotEnded_queue _ _ _ (fun _ => ?_))
    | (with_reducible refine stageCtx_queue _ _ _ (fun _ => ?_))
    | (with_reducible refine stageMod_queue _ _ _ ?_)
    | (with_reducible refine stageMask_queue _ _ _ (fun _ => ?_))
    | (simp only [])
    | (with_reducible refine queue_ite _ _ _ _ ?_ ?_)
    | (with_reducible refine queue_ite_fst _ _ _ _ ?_ ?_)
    | (with_reducible refine queue_ite_snd _ _ _ _ ?_ ?_)
    | (with_reducible refine keeps_ite _ _ _ _ ?_ ?_)
    | (intro _ _)
    | (simp +zetaDelta)
    | split

@[simp ↓] theorem pwrLimitSet_queue (s : State) (c : MCmd) :
    (queueOf ((pwrLimitSet s c).st)) = (queueOf s) := by
  unfold pwrLimitSet
  repeat' first
    | with_reducible rfl
    | (simp +zetaDelta [foldl_queue, foldl_snd_queue, foldl_fst_queue, pending_eq_queue]; done)
    | (with_reducible rw [foldl_queue])
    | (rw [pending_eq_queue])
    | (with_reducible exact hereFront_queue _ _ _ _ _ (by assumption))
    | (with_reducible refine withPart_queue _ _ _ _ _ (fun _ => ?_))
    | (with_reducible refine withTile_queue _ _ _ _ _ (fun _ => ?_))
    | (with_reducible refine lotEnded_queue _ _ _ (fun _ => ?_))
    | (with_reducible refine stageCtx_queue _ _ _ (fun _ => ?_))
    | (with_reducible refine stageMod_queue _ _ _ ?_)
    | (with_reducible refine stageMask_queue _ _ _ (fun _ => ?_))
    | (simp only [])
    | (with_reducible refine queue_ite _ _ _ _ ?_ ?_)
    | (with_reducible refine queue_ite_fst _ _ _ _ ?_ ?_)
    | (with_reducible refine queue_ite_snd _ _ _ _ ?_ ?_)
    | (with_reducible refine keeps_ite _ _ _ _ ?_ ?_)
    | (intro _ _)
    | (simp +zetaDelta)
    | split

@[simp ↓] theorem pwrRead_queue (s : State) (c : MCmd) :
    (queueOf ((pwrRead s c).st)) = (queueOf s) := by
  unfold pwrRead
  repeat' first
    | with_reducible rfl
    | (simp +zetaDelta [foldl_queue, foldl_snd_queue, foldl_fst_queue, pending_eq_queue]; done)
    | (with_reducible rw [foldl_queue])
    | (rw [pending_eq_queue])
    | (with_reducible exact hereFront_queue _ _ _ _ _ (by assumption))
    | (with_reducible refine withPart_queue _ _ _ _ _ (fun _ => ?_))
    | (with_reducible refine withTile_queue _ _ _ _ _ (fun _ => ?_))
    | (with_reducible refine lotEnded_queue _ _ _ (fun _ => ?_))
    | (with_reducible refine stageCtx_queue _ _ _ (fun _ => ?_))
    | (with_reducible refine stageMod_queue _ _ _ ?_)
    | (with_reducible refine stageMask_queue _ _ _ (fun _ => ?_))
    | (simp only [])
    | (with_reducible refine queue_ite _ _ _ _ ?_ ?_)
    | (with_reducible refine queue_ite_fst _ _ _ _ ?_ ?_)
    | (with_reducible refine queue_ite_snd _ _ _ _ ?_ ?_)
    | (with_reducible refine keeps_ite _ _ _ _ ?_ ?_)
    | (intro _ _)
    | (simp +zetaDelta)
    | split

@[simp ↓] theorem stagePut_queue (s : State) (c : MCmd) (kind mask target : Nat) (value : List Byte) :
    (queueOf ((stagePut s c kind mask target value).st)) = (queueOf s) := by
  unfold stagePut
  repeat' first
    | with_reducible rfl
    | (simp +zetaDelta [foldl_queue, foldl_snd_queue, foldl_fst_queue, pending_eq_queue]; done)
    | (with_reducible rw [foldl_queue])
    | (rw [pending_eq_queue])
    | (with_reducible exact hereFront_queue _ _ _ _ _ (by assumption))
    | (with_reducible refine withPart_queue _ _ _ _ _ (fun _ => ?_))
    | (with_reducible refine withTile_queue _ _ _ _ _ (fun _ => ?_))
    | (with_reducible refine lotEnded_queue _ _ _ (fun _ => ?_))
    | (with_reducible refine stageCtx_queue _ _ _ (fun _ => ?_))
    | (with_reducible refine stageMod_queue _ _ _ ?_)
    | (with_reducible refine stageMask_queue _ _ _ (fun _ => ?_))
    | (simp only [])
    | (with_reducible refine queue_ite _ _ _ _ ?_ ?_)
    | (with_reducible refine queue_ite_fst _ _ _ _ ?_ ?_)
    | (with_reducible refine queue_ite_snd _ _ _ _ ?_ ?_)
    | (with_reducible refine keeps_ite _ _ _ _ ?_ ?_)
    | (intro _ _)
    | (simp +zetaDelta)
    | split

@[simp ↓] theorem linkRouteWrite_queue (s : State) (c : MCmd) :
    (queueOf ((linkRouteWrite s c).st)) = (queueOf s) := by
  unfold linkRouteWrite
  repeat' first
    | with_reducible rfl
    | (simp +zetaDelta [foldl_queue, foldl_snd_queue, foldl_fst_queue, pending_eq_queue]; done)
    | (with_reducible rw [foldl_queue])
    | (rw [pending_eq_queue])
    | (with_reducible exact hereFront_queue _ _ _ _ _ (by assumption))
    | (with_reducible refine withPart_queue _ _ _ _ _ (fun _ => ?_))
    | (with_reducible refine withTile_queue _ _ _ _ _ (fun _ => ?_))
    | (with_reducible refine lotEnded_queue _ _ _ (fun _ => ?_))
    | (with_reducible refine stageCtx_queue _ _ _ (fun _ => ?_))
    | (with_reducible refine stageMod_queue _ _ _ ?_)
    | (with_reducible refine stageMask_queue _ _ _ (fun _ => ?_))
    | (simp only [])
    | (with_reducible refine queue_ite _ _ _ _ ?_ ?_)
    | (with_reducible refine queue_ite_fst _ _ _ _ ?_ ?_)
    | (with_reducible refine queue_ite_snd _ _ _ _ ?_ ?_)
    | (with_reducible refine keeps_ite _ _ _ _ ?_ ?_)
    | (intro _ _)
    | (simp +zetaDelta)
    | split

@[simp ↓] theorem linkRouteSwitch_queue (s : State) (c : MCmd) :
    (queueOf ((linkRouteSwitch s c).st)) = (queueOf s) := by
  unfold linkRouteSwitch
  repeat' first
    | with_reducible rfl
    | (simp +zetaDelta [foldl_queue, foldl_snd_queue, foldl_fst_queue, pending_eq_queue]; done)
    | (with_reducible rw [foldl_queue])
    | (rw [pending_eq_queue])
    | (with_reducible exact hereFront_queue _ _ _ _ _ (by assumption))
    | (with_reducible refine withPart_queue _ _ _ _ _ (fun _ => ?_))
    | (with_reducible refine withTile_queue _ _ _ _ _ (fun _ => ?_))
    | (with_reducible refine lotEnded_queue _ _ _ (fun _ => ?_))
    | (with_reducible refine stageCtx_queue _ _ _ (fun _ => ?_))
    | (with_reducible refine stageMod_queue _ _ _ ?_)
    | (with_reducible refine stageMask_queue _ _ _ (fun _ => ?_))
    | (simp only [])
    | (with_reducible refine queue_ite _ _ _ _ ?_ ?_)
    | (with_reducible refine queue_ite_fst _ _ _ _ ?_ ?_)
    | (with_reducible refine queue_ite_snd _ _ _ _ ?_ ?_)
    | (with_reducible refine keeps_ite _ _ _ _ ?_ ?_)
    | (intro _ _)
    | (simp +zetaDelta)
    | split

@[simp ↓] theorem linkMcastWrite_queue (s : State) (c : MCmd) :
    (queueOf ((linkMcastWrite s c).st)) = (queueOf s) := by
  unfold linkMcastWrite
  repeat' first
    | with_reducible rfl
    | (simp +zetaDelta [foldl_queue, foldl_snd_queue, foldl_fst_queue, pending_eq_queue]; done)
    | (with_reducible rw [foldl_queue])
    | (rw [pending_eq_queue])
    | (with_reducible exact hereFront_queue _ _ _ _ _ (by assumption))
    | (with_reducible refine withPart_queue _ _ _ _ _ (fun _ => ?_))
    | (with_reducible refine withTile_queue _ _ _ _ _ (fun _ => ?_))
    | (with_reducible refine lotEnded_queue _ _ _ (fun _ => ?_))
    | (with_reducible refine stageCtx_queue _ _ _ (fun _ => ?_))
    | (with_reducible refine stageMod_queue _ _ _ ?_)
    | (with_reducible refine stageMask_queue _ _ _ (fun _ => ?_))
    | (simp only [])
    | (with_reducible refine queue_ite _ _ _ _ ?_ ?_)
    | (with_reducible refine queue_ite_fst _ _ _ _ ?_ ?_)
    | (with_reducible refine queue_ite_snd _ _ _ _ ?_ ?_)
    | (with_reducible refine keeps_ite _ _ _ _ ?_ ?_)
    | (intro _ _)
    | (simp +zetaDelta)
    | split

@[simp ↓] theorem sysKeys_queue (s : State) (c : MCmd) :
    (queueOf ((sysKeys s c).st)) = (queueOf s) := by
  unfold sysKeys
  repeat' first
    | with_reducible rfl
    | (simp +zetaDelta [foldl_queue, foldl_snd_queue, foldl_fst_queue, pending_eq_queue]; done)
    | (with_reducible rw [foldl_queue])
    | (rw [pending_eq_queue])
    | (with_reducible exact hereFront_queue _ _ _ _ _ (by assumption))
    | (with_reducible refine withPart_queue _ _ _ _ _ (fun _ => ?_))
    | (with_reducible refine withTile_queue _ _ _ _ _ (fun _ => ?_))
    | (with_reducible refine lotEnded_queue _ _ _ (fun _ => ?_))
    | (with_reducible refine stageCtx_queue _ _ _ (fun _ => ?_))
    | (with_reducible refine stageMod_queue _ _ _ ?_)
    | (with_reducible refine stageMask_queue _ _ _ (fun _ => ?_))
    | (simp only [])
    | (with_reducible refine queue_ite _ _ _ _ ?_ ?_)
    | (with_reducible refine queue_ite_fst _ _ _ _ ?_ ?_)
    | (with_reducible refine queue_ite_snd _ _ _ _ ?_ ?_)
    | (with_reducible refine keeps_ite _ _ _ _ ?_ ?_)
    | (intro _ _)
    | (simp +zetaDelta)
    | split

@[simp ↓] theorem sysJoin_queue (s : State) (c : MCmd) :
    (queueOf ((sysJoin s c).st)) = (queueOf s) := by
  unfold sysJoin
  repeat' first
    | with_reducible rfl
    | (simp +zetaDelta [foldl_queue, foldl_snd_queue, foldl_fst_queue, pending_eq_queue]; done)
    | (with_reducible rw [foldl_queue])
    | (rw [pending_eq_queue])
    | (with_reducible exact hereFront_queue _ _ _ _ _ (by assumption))
    | (with_reducible refine withPart_queue _ _ _ _ _ (fun _ => ?_))
    | (with_reducible refine withTile_queue _ _ _ _ _ (fun _ => ?_))
    | (with_reducible refine lotEnded_queue _ _ _ (fun _ => ?_))
    | (with_reducible refine stageCtx_queue _ _ _ (fun _ => ?_))
    | (with_reducible refine stageMod_queue _ _ _ ?_)
    | (with_reducible refine stageMask_queue _ _ _ (fun _ => ?_))
    | (simp only [])
    | (with_reducible refine queue_ite _ _ _ _ ?_ ?_)
    | (with_reducible refine queue_ite_fst _ _ _ _ ?_ ?_)
    | (with_reducible refine queue_ite_snd _ _ _ _ ?_ ?_)
    | (with_reducible refine keeps_ite _ _ _ _ ?_ ?_)
    | (intro _ _)
    | (simp +zetaDelta)
    | split

@[simp ↓] theorem sysLeave_queue (s : State) (c : MCmd) :
    (queueOf ((sysLeave s c).st)) = (queueOf s) := by
  unfold sysLeave
  repeat' first
    | with_reducible rfl
    | (simp +zetaDelta [foldl_queue, foldl_snd_queue, foldl_fst_queue, pending_eq_queue]; done)
    | (with_reducible rw [foldl_queue])
    | (rw [pending_eq_queue])
    | (with_reducible exact hereFront_queue _ _ _ _ _ (by assumption))
    | (with_reducible refine withPart_queue _ _ _ _ _ (fun _ => ?_))
    | (with_reducible refine withTile_queue _ _ _ _ _ (fun _ => ?_))
    | (with_reducible refine lotEnded_queue _ _ _ (fun _ => ?_))
    | (with_reducible refine stageCtx_queue _ _ _ (fun _ => ?_))
    | (with_reducible refine stageMod_queue _ _ _ ?_)
    | (with_reducible refine stageMask_queue _ _ _ (fun _ => ?_))
    | (simp only [])
    | (with_reducible refine queue_ite _ _ _ _ ?_ ?_)
    | (with_reducible refine queue_ite_fst _ _ _ _ ?_ ?_)
    | (with_reducible refine queue_ite_snd _ _ _ _ ?_ ?_)
    | (with_reducible refine keeps_ite _ _ _ _ ?_ ?_)
    | (intro _ _)
    | (simp +zetaDelta)
    | split

theorem execModIdentity_keeps (pg : Nat) (req : Option (List Byte)) (respOk : Bool) (s : State) : Keeps (queueOf s) (execModIdentity pg req respOk s) := by
  unfold execModIdentity
  refine mailRow_keeps _ _ _ _ _ _ _ ?_
  intro s c
  repeat' first
    | with_reducible rfl
    | (simp +zetaDelta [foldl_queue, foldl_snd_queue, foldl_fst_queue, pending_eq_queue]; done)
    | (with_reducible rw [foldl_queue])
    | (rw [pending_eq_queue])
    | (with_reducible exact hereFront_queue _ _ _ _ _ (by assumption))
    | (with_reducible refine withPart_queue _ _ _ _ _ (fun _ => ?_))
    | (with_reducible refine withTile_queue _ _ _ _ _ (fun _ => ?_))
    | (with_reducible refine lotEnded_queue _ _ _ (fun _ => ?_))
    | (with_reducible refine stageCtx_queue _ _ _ (fun _ => ?_))
    | (with_reducible refine stageMod_queue _ _ _ ?_)
    | (with_reducible refine stageMask_queue _ _ _ (fun _ => ?_))
    | (simp only [])
    | (with_reducible refine queue_ite _ _ _ _ ?_ ?_)
    | (with_reducible refine queue_ite_fst _ _ _ _ ?_ ?_)
    | (with_reducible refine queue_ite_snd _ _ _ _ ?_ ?_)
    | (with_reducible refine keeps_ite _ _ _ _ ?_ ?_)
    | (intro _ _)
    | (simp +zetaDelta)
    | split

theorem execModGeometry_keeps (pg : Nat) (req : Option (List Byte)) (respOk : Bool) (s : State) : Keeps (queueOf s) (execModGeometry pg req respOk s) := by
  unfold execModGeometry
  refine mailRow_keeps _ _ _ _ _ _ _ ?_
  intro s c
  repeat' first
    | with_reducible rfl
    | (simp +zetaDelta [foldl_queue, foldl_snd_queue, foldl_fst_queue, pending_eq_queue]; done)
    | (with_reducible rw [foldl_queue])
    | (rw [pending_eq_queue])
    | (with_reducible exact hereFront_queue _ _ _ _ _ (by assumption))
    | (with_reducible refine withPart_queue _ _ _ _ _ (fun _ => ?_))
    | (with_reducible refine withTile_queue _ _ _ _ _ (fun _ => ?_))
    | (with_reducible refine lotEnded_queue _ _ _ (fun _ => ?_))
    | (with_reducible refine stageCtx_queue _ _ _ (fun _ => ?_))
    | (with_reducible refine stageMod_queue _ _ _ ?_)
    | (with_reducible refine stageMask_queue _ _ _ (fun _ => ?_))
    | (simp only [])
    | (with_reducible refine queue_ite _ _ _ _ ?_ ?_)
    | (with_reducible refine queue_ite_fst _ _ _ _ ?_ ?_)
    | (with_reducible refine queue_ite_snd _ _ _ _ ?_ ?_)
    | (with_reducible refine keeps_ite _ _ _ _ ?_ ?_)
    | (intro _ _)
    | (simp +zetaDelta)
    | split

theorem execModHealth_keeps (pg : Nat) (req : Option (List Byte)) (respOk : Bool) (s : State) : Keeps (queueOf s) (execModHealth pg req respOk s) := by
  unfold execModHealth
  refine mailRow_keeps _ _ _ _ _ _ _ ?_
  intro s c
  repeat' first
    | with_reducible rfl
    | (simp +zetaDelta [foldl_queue, foldl_snd_queue, foldl_fst_queue, pending_eq_queue]; done)
    | (with_reducible rw [foldl_queue])
    | (rw [pending_eq_queue])
    | (with_reducible exact hereFront_queue _ _ _ _ _ (by assumption))
    | (with_reducible refine withPart_queue _ _ _ _ _ (fun _ => ?_))
    | (with_reducible refine withTile_queue _ _ _ _ _ (fun _ => ?_))
    | (with_reducible refine lotEnded_queue _ _ _ (fun _ => ?_))
    | (with_reducible refine stageCtx_queue _ _ _ (fun _ => ?_))
    | (with_reducible refine stageMod_queue _ _ _ ?_)
    | (with_reducible refine stageMask_queue _ _ _ (fun _ => ?_))
    | (simp only [])
    | (with_reducible refine queue_ite _ _ _ _ ?_ ?_)
    | (with_reducible refine queue_ite_fst _ _ _ _ ?_ ?_)
    | (with_reducible refine queue_ite_snd _ _ _ _ ?_ ?_)
    | (with_reducible refine keeps_ite _ _ _ _ ?_ ?_)
    | (intro _ _)
    | (simp +zetaDelta)
    | split

theorem execModReady_keeps (pg : Nat) (req : Option (List Byte)) (respOk : Bool) (s : State) : Keeps (queueOf s) (execModReady pg req respOk s) := by
  unfold execModReady
  refine mailRow_keeps _ _ _ _ _ _ _ ?_
  intro s c
  repeat' first
    | with_reducible rfl
    | (simp +zetaDelta [foldl_queue, foldl_snd_queue, foldl_fst_queue, pending_eq_queue]; done)
    | (with_reducible rw [foldl_queue])
    | (rw [pending_eq_queue])
    | (with_reducible exact hereFront_queue _ _ _ _ _ (by assumption))
    | (with_reducible refine withPart_queue _ _ _ _ _ (fun _ => ?_))
    | (with_reducible refine withTile_queue _ _ _ _ _ (fun _ => ?_))
    | (with_reducible refine lotEnded_queue _ _ _ (fun _ => ?_))
    | (with_reducible refine stageCtx_queue _ _ _ (fun _ => ?_))
    | (with_reducible refine stageMod_queue _ _ _ ?_)
    | (with_reducible refine stageMask_queue _ _ _ (fun _ => ?_))
    | (simp only [])
    | (with_reducible refine queue_ite _ _ _ _ ?_ ?_)
    | (with_reducible refine queue_ite_fst _ _ _ _ ?_ ?_)
    | (with_reducible refine queue_ite_snd _ _ _ _ ?_ ?_)
    | (with_reducible refine keeps_ite _ _ _ _ ?_ ?_)
    | (intro _ _)
    | (simp +zetaDelta)
    | split

theorem execModClockSet_keeps (pg : Nat) (req : Option (List Byte)) (respOk : Bool) (s : State) : Keeps (queueOf s) (execModClockSet pg req respOk s) := by
  unfold execModClockSet
  refine mailRow_keeps _ _ _ _ _ _ _ ?_
  intro s c
  repeat' first
    | with_reducible rfl
    | (simp +zetaDelta [foldl_queue, foldl_snd_queue, foldl_fst_queue, pending_eq_queue]; done)
    | (with_reducible rw [foldl_queue])
    | (rw [pending_eq_queue])
    | (with_reducible exact hereFront_queue _ _ _ _ _ (by assumption))
    | (with_reducible refine withPart_queue _ _ _ _ _ (fun _ => ?_))
    | (with_reducible refine withTile_queue _ _ _ _ _ (fun _ => ?_))
    | (with_reducible refine lotEnded_queue _ _ _ (fun _ => ?_))
    | (with_reducible refine stageCtx_queue _ _ _ (fun _ => ?_))
    | (with_reducible refine stageMod_queue _ _ _ ?_)
    | (with_reducible refine stageMask_queue _ _ _ (fun _ => ?_))
    | (simp only [])
    | (with_reducible refine queue_ite _ _ _ _ ?_ ?_)
    | (with_reducible refine queue_ite_fst _ _ _ _ ?_ ?_)
    | (with_reducible refine queue_ite_snd _ _ _ _ ?_ ?_)
    | (with_reducible refine keeps_ite _ _ _ _ ?_ ?_)
    | (intro _ _)
    | (simp +zetaDelta)
    | split

theorem execModIdSet_keeps (pg : Nat) (req : Option (List Byte)) (respOk : Bool) (s : State) : Keeps (queueOf s) (execModIdSet pg req respOk s) := by
  unfold execModIdSet
  refine mailRow_keeps _ _ _ _ _ _ _ ?_
  intro s c
  repeat' first
    | with_reducible rfl
    | (simp +zetaDelta [foldl_queue, foldl_snd_queue, foldl_fst_queue, pending_eq_queue]; done)
    | (with_reducible rw [foldl_queue])
    | (rw [pending_eq_queue])
    | (with_reducible exact hereFront_queue _ _ _ _ _ (by assumption))
    | (with_reducible refine withPart_queue _ _ _ _ _ (fun _ => ?_))
    | (with_reducible refine withTile_queue _ _ _ _ _ (fun _ => ?_))
    | (with_reducible refine lotEnded_queue _ _ _ (fun _ => ?_))
    | (with_reducible refine stageCtx_queue _ _ _ (fun _ => ?_))
    | (with_reducible refine stageMod_queue _ _ _ ?_)
    | (with_reducible refine stageMask_queue _ _ _ (fun _ => ?_))
    | (simp only [])
    | (with_reducible refine queue_ite _ _ _ _ ?_ ?_)
    | (with_reducible refine queue_ite_fst _ _ _ _ ?_ ?_)
    | (with_reducible refine queue_ite_snd _ _ _ _ ?_ ?_)
    | (with_reducible refine keeps_ite _ _ _ _ ?_ ?_)
    | (intro _ _)
    | (simp +zetaDelta)
    | split

theorem execModResetPartition_keeps (pg : Nat) (req : Option (List Byte)) (respOk : Bool) (s : State) : Keeps (queueOf s) (execModResetPartition pg req respOk s) := by
  unfold execModResetPartition
  refine mailRow_keeps _ _ _ _ _ _ _ ?_
  intro s c
  repeat' first
    | with_reducible rfl
    | (simp +zetaDelta [foldl_queue, foldl_snd_queue, foldl_fst_queue, pending_eq_queue]; done)
    | (with_reducible rw [foldl_queue])
    | (rw [pending_eq_queue])
    | (with_reducible exact hereFront_queue _ _ _ _ _ (by assumption))
    | (with_reducible refine withPart_queue _ _ _ _ _ (fun _ => ?_))
    | (with_reducible refine withTile_queue _ _ _ _ _ (fun _ => ?_))
    | (with_reducible refine lotEnded_queue _ _ _ (fun _ => ?_))
    | (with_reducible refine stageCtx_queue _ _ _ (fun _ => ?_))
    | (with_reducible refine stageMod_queue _ _ _ ?_)
    | (with_reducible refine stageMask_queue _ _ _ (fun _ => ?_))
    | (simp only [])
    | (with_reducible refine queue_ite _ _ _ _ ?_ ?_)
    | (with_reducible refine queue_ite_fst _ _ _ _ ?_ ?_)
    | (with_reducible refine queue_ite_snd _ _ _ _ ?_ ?_)
    | (with_reducible refine keeps_ite _ _ _ _ ?_ ?_)
    | (intro _ _)
    | (simp +zetaDelta)
    | split

theorem execModResetModuleCompute_keeps (pg : Nat) (req : Option (List Byte)) (respOk : Bool) (s : State) : Keeps (queueOf s) (execModResetModuleCompute pg req respOk s) := by
  unfold execModResetModuleCompute
  refine mailRow_keeps _ _ _ _ _ _ _ ?_
  intro s c
  repeat' first
    | with_reducible rfl
    | (simp +zetaDelta [foldl_queue, foldl_snd_queue, foldl_fst_queue, pending_eq_queue]; done)
    | (with_reducible rw [foldl_queue])
    | (rw [pending_eq_queue])
    | (with_reducible exact hereFront_queue _ _ _ _ _ (by assumption))
    | (with_reducible refine withPart_queue _ _ _ _ _ (fun _ => ?_))
    | (with_reducible refine withTile_queue _ _ _ _ _ (fun _ => ?_))
    | (with_reducible refine lotEnded_queue _ _ _ (fun _ => ?_))
    | (with_reducible refine stageCtx_queue _ _ _ (fun _ => ?_))
    | (with_reducible refine stageMod_queue _ _ _ ?_)
    | (with_reducible refine stageMask_queue _ _ _ (fun _ => ?_))
    | (simp only [])
    | (with_reducible refine queue_ite _ _ _ _ ?_ ?_)
    | (with_reducible refine queue_ite_fst _ _ _ _ ?_ ?_)
    | (with_reducible refine queue_ite_snd _ _ _ _ ?_ ?_)
    | (with_reducible refine keeps_ite _ _ _ _ ?_ ?_)
    | (intro _ _)
    | (simp +zetaDelta)
    | split

theorem execModResetPowerCycle_keeps (pg : Nat) (req : Option (List Byte)) (respOk : Bool) (s : State) : Keeps (queueOf s) (execModResetPowerCycle pg req respOk s) := by
  unfold execModResetPowerCycle
  refine mailRow_keeps _ _ _ _ _ _ _ ?_
  intro s c
  repeat' first
    | with_reducible rfl
    | (simp +zetaDelta [foldl_queue, foldl_snd_queue, foldl_fst_queue, pending_eq_queue]; done)
    | (with_reducible rw [foldl_queue])
    | (rw [pending_eq_queue])
    | (with_reducible exact hereFront_queue _ _ _ _ _ (by assumption))
    | (with_reducible refine withPart_queue _ _ _ _ _ (fun _ => ?_))
    | (with_reducible refine withTile_queue _ _ _ _ _ (fun _ => ?_))
    | (with_reducible refine lotEnded_queue _ _ _ (fun _ => ?_))
    | (with_reducible refine stageCtx_queue _ _ _ (fun _ => ?_))
    | (with_reducible refine stageMod_queue _ _ _ ?_)
    | (with_reducible refine stageMask_queue _ _ _ (fun _ => ?_))
    | (simp only [])
    | (with_reducible refine queue_ite _ _ _ _ ?_ ?_)
    | (with_reducible refine queue_ite_fst _ _ _ _ ?_ ?_)
    | (with_reducible refine queue_ite_snd _ _ _ _ ?_ ?_)
    | (with_reducible refine keeps_ite _ _ _ _ ?_ ?_)
    | (intro _ _)
    | (simp +zetaDelta)
    | split

theorem execModTelemetry_keeps (pg : Nat) (req : Option (List Byte)) (respOk : Bool) (s : State) : Keeps (queueOf s) (execModTelemetry pg req respOk s) := by
  unfold execModTelemetry
  refine mailRow_keeps _ _ _ _ _ _ _ ?_
  intro s c
  repeat' first
    | with_reducible rfl
    | (simp +zetaDelta [foldl_queue, foldl_snd_queue, foldl_fst_queue, pending_eq_queue]; done)
    | (with_reducible rw [foldl_queue])
    | (rw [pending_eq_queue])
    | (with_reducible exact hereFront_queue _ _ _ _ _ (by assumption))
    | (with_reducible refine withPart_queue _ _ _ _ _ (fun _ => ?_))
    | (with_reducible refine withTile_queue _ _ _ _ _ (fun _ => ?_))
    | (with_reducible refine lotEnded_queue _ _ _ (fun _ => ?_))
    | (with_reducible refine stageCtx_queue _ _ _ (fun _ => ?_))
    | (with_reducible refine stageMod_queue _ _ _ ?_)
    | (with_reducible refine stageMask_queue _ _ _ (fun _ => ?_))
    | (simp only [])
    | (with_reducible refine queue_ite _ _ _ _ ?_ ?_)
    | (with_reducible refine queue_ite_fst _ _ _ _ ?_ ?_)
    | (with_reducible refine queue_ite_snd _ _ _ _ ?_ ?_)
    | (with_reducible refine keeps_ite _ _ _ _ ?_ ?_)
    | (intro _ _)
    | (simp +zetaDelta)
    | split

theorem execPartMbCtl_keeps (pg : Nat) (req : Option (List Byte)) (respOk : Bool) (s : State) : Keeps (queueOf s) (execPartMbCtl pg req respOk s) := by
  unfold execPartMbCtl
  refine mailRow_keeps _ _ _ _ _ _ _ ?_
  intro s c
  repeat' first
    | with_reducible rfl
    | (simp +zetaDelta [foldl_queue, foldl_snd_queue, foldl_fst_queue, pending_eq_queue]; done)
    | (with_reducible rw [foldl_queue])
    | (rw [pending_eq_queue])
    | (with_reducible exact hereFront_queue _ _ _ _ _ (by assumption))
    | (with_reducible refine withPart_queue _ _ _ _ _ (fun _ => ?_))
    | (with_reducible refine withTile_queue _ _ _ _ _ (fun _ => ?_))
    | (with_reducible refine lotEnded_queue _ _ _ (fun _ => ?_))
    | (with_reducible refine stageCtx_queue _ _ _ (fun _ => ?_))
    | (with_reducible refine stageMod_queue _ _ _ ?_)
    | (with_reducible refine stageMask_queue _ _ _ (fun _ => ?_))
    | (simp only [])
    | (with_reducible refine queue_ite _ _ _ _ ?_ ?_)
    | (with_reducible refine queue_ite_fst _ _ _ _ ?_ ?_)
    | (with_reducible refine queue_ite_snd _ _ _ _ ?_ ?_)
    | (with_reducible refine keeps_ite _ _ _ _ ?_ ?_)
    | (intro _ _)
    | (simp +zetaDelta)
    | split

theorem execRecRead_keeps (pg : Nat) (req : Option (List Byte)) (respOk : Bool) (s : State) : Keeps (queueOf s) (execRecRead pg req respOk s) := by
  unfold execRecRead
  refine mailRow_keeps _ _ _ _ _ _ _ ?_
  intro s c
  repeat' first
    | with_reducible rfl
    | (simp +zetaDelta [foldl_queue, foldl_snd_queue, foldl_fst_queue, pending_eq_queue]; done)
    | (with_reducible rw [foldl_queue])
    | (rw [pending_eq_queue])
    | (with_reducible exact hereFront_queue _ _ _ _ _ (by assumption))
    | (with_reducible refine withPart_queue _ _ _ _ _ (fun _ => ?_))
    | (with_reducible refine withTile_queue _ _ _ _ _ (fun _ => ?_))
    | (with_reducible refine lotEnded_queue _ _ _ (fun _ => ?_))
    | (with_reducible refine stageCtx_queue _ _ _ (fun _ => ?_))
    | (with_reducible refine stageMod_queue _ _ _ ?_)
    | (with_reducible refine stageMask_queue _ _ _ (fun _ => ?_))
    | (simp only [])
    | (with_reducible refine queue_ite _ _ _ _ ?_ ?_)
    | (with_reducible refine queue_ite_fst _ _ _ _ ?_ ?_)
    | (with_reducible refine queue_ite_snd _ _ _ _ ?_ ?_)
    | (with_reducible refine keeps_ite _ _ _ _ ?_ ?_)
    | (intro _ _)
    | (simp +zetaDelta)
    | split

theorem execPwrLimitSet_keeps (pg : Nat) (req : Option (List Byte)) (respOk : Bool) (s : State) : Keeps (queueOf s) (execPwrLimitSet pg req respOk s) := by
  unfold execPwrLimitSet
  refine mailRow_keeps _ _ _ _ _ _ _ ?_
  intro s c
  repeat' first
    | with_reducible rfl
    | (simp +zetaDelta [foldl_queue, foldl_snd_queue, foldl_fst_queue, pending_eq_queue]; done)
    | (with_reducible rw [foldl_queue])
    | (rw [pending_eq_queue])
    | (with_reducible exact hereFront_queue _ _ _ _ _ (by assumption))
    | (with_reducible refine withPart_queue _ _ _ _ _ (fun _ => ?_))
    | (with_reducible refine withTile_queue _ _ _ _ _ (fun _ => ?_))
    | (with_reducible refine lotEnded_queue _ _ _ (fun _ => ?_))
    | (with_reducible refine stageCtx_queue _ _ _ (fun _ => ?_))
    | (with_reducible refine stageMod_queue _ _ _ ?_)
    | (with_reducible refine stageMask_queue _ _ _ (fun _ => ?_))
    | (simp only [])
    | (with_reducible refine queue_ite _ _ _ _ ?_ ?_)
    | (with_reducible refine queue_ite_fst _ _ _ _ ?_ ?_)
    | (with_reducible refine queue_ite_snd _ _ _ _ ?_ ?_)
    | (with_reducible refine keeps_ite _ _ _ _ ?_ ?_)
    | (intro _ _)
    | (simp +zetaDelta)
    | split

theorem execPwrRead_keeps (pg : Nat) (req : Option (List Byte)) (respOk : Bool) (s : State) : Keeps (queueOf s) (execPwrRead pg req respOk s) := by
  unfold execPwrRead
  refine mailRow_keeps _ _ _ _ _ _ _ ?_
  intro s c
  repeat' first
    | with_reducible rfl
    | (simp +zetaDelta [foldl_queue, foldl_snd_queue, foldl_fst_queue, pending_eq_queue]; done)
    | (with_reducible rw [foldl_queue])
    | (rw [pending_eq_queue])
    | (with_reducible exact hereFront_queue _ _ _ _ _ (by assumption))
    | (with_reducible refine withPart_queue _ _ _ _ _ (fun _ => ?_))
    | (with_reducible refine withTile_queue _ _ _ _ _ (fun _ => ?_))
    | (with_reducible refine lotEnded_queue _ _ _ (fun _ => ?_))
    | (with_reducible refine stageCtx_queue _ _ _ (fun _ => ?_))
    | (with_reducible refine stageMod_queue _ _ _ ?_)
    | (with_reducible refine stageMask_queue _ _ _ (fun _ => ?_))
    | (simp only [])
    | (with_reducible refine queue_ite _ _ _ _ ?_ ?_)
    | (with_reducible refine queue_ite_fst _ _ _ _ ?_ ?_)
    | (with_reducible refine queue_ite_snd _ _ _ _ ?_ ?_)
    | (with_reducible refine keeps_ite _ _ _ _ ?_ ?_)
    | (intro _ _)
    | (simp +zetaDelta)
    | split

theorem execLinkRouteWrite_keeps (pg : Nat) (req : Option (List Byte)) (respOk : Bool) (s : State) : Keeps (queueOf s) (execLinkRouteWrite pg req respOk s) := by
  unfold execLinkRouteWrite
  refine mailRow_keeps _ _ _ _ _ _ _ ?_
  intro s c
  repeat' first
    | with_reducible rfl
    | (simp +zetaDelta [foldl_queue, foldl_snd_queue, foldl_fst_queue, pending_eq_queue]; done)
    | (with_reducible rw [foldl_queue])
    | (rw [pending_eq_queue])
    | (with_reducible exact hereFront_queue _ _ _ _ _ (by assumption))
    | (with_reducible refine withPart_queue _ _ _ _ _ (fun _ => ?_))
    | (with_reducible refine withTile_queue _ _ _ _ _ (fun _ => ?_))
    | (with_reducible refine lotEnded_queue _ _ _ (fun _ => ?_))
    | (with_reducible refine stageCtx_queue _ _ _ (fun _ => ?_))
    | (with_reducible refine stageMod_queue _ _ _ ?_)
    | (with_reducible refine stageMask_queue _ _ _ (fun _ => ?_))
    | (simp only [])
    | (with_reducible refine queue_ite _ _ _ _ ?_ ?_)
    | (with_reducible refine queue_ite_fst _ _ _ _ ?_ ?_)
    | (with_reducible refine queue_ite_snd _ _ _ _ ?_ ?_)
    | (with_reducible refine keeps_ite _ _ _ _ ?_ ?_)
    | (intro _ _)
    | (simp +zetaDelta)
    | split

theorem execLinkRouteSwitch_keeps (pg : Nat) (req : Option (List Byte)) (respOk : Bool) (s : State) : Keeps (queueOf s) (execLinkRouteSwitch pg req respOk s) := by
  unfold execLinkRouteSwitch
  refine mailRow_keeps _ _ _ _ _ _ _ ?_
  intro s c
  repeat' first
    | with_reducible rfl
    | (simp +zetaDelta [foldl_queue, foldl_snd_queue, foldl_fst_queue, pending_eq_queue]; done)
    | (with_reducible rw [foldl_queue])
    | (rw [pending_eq_queue])
    | (with_reducible exact hereFront_queue _ _ _ _ _ (by assumption))
    | (with_reducible refine withPart_queue _ _ _ _ _ (fun _ => ?_))
    | (with_reducible refine withTile_queue _ _ _ _ _ (fun _ => ?_))
    | (with_reducible refine lotEnded_queue _ _ _ (fun _ => ?_))
    | (with_reducible refine stageCtx_queue _ _ _ (fun _ => ?_))
    | (with_reducible refine stageMod_queue _ _ _ ?_)
    | (with_reducible refine stageMask_queue _ _ _ (fun _ => ?_))
    | (simp only [])
    | (with_reducible refine queue_ite _ _ _ _ ?_ ?_)
    | (with_reducible refine queue_ite_fst _ _ _ _ ?_ ?_)
    | (with_reducible refine queue_ite_snd _ _ _ _ ?_ ?_)
    | (with_reducible refine keeps_ite _ _ _ _ ?_ ?_)
    | (intro _ _)
    | (simp +zetaDelta)
    | split

theorem execLinkMcastWrite_keeps (pg : Nat) (req : Option (List Byte)) (respOk : Bool) (s : State) : Keeps (queueOf s) (execLinkMcastWrite pg req respOk s) := by
  unfold execLinkMcastWrite
  refine mailRow_keeps _ _ _ _ _ _ _ ?_
  intro s c
  repeat' first
    | with_reducible rfl
    | (simp +zetaDelta [foldl_queue, foldl_snd_queue, foldl_fst_queue, pending_eq_queue]; done)
    | (with_reducible rw [foldl_queue])
    | (rw [pending_eq_queue])
    | (with_reducible exact hereFront_queue _ _ _ _ _ (by assumption))
    | (with_reducible refine withPart_queue _ _ _ _ _ (fun _ => ?_))
    | (with_reducible refine withTile_queue _ _ _ _ _ (fun _ => ?_))
    | (with_reducible refine lotEnded_queue _ _ _ (fun _ => ?_))
    | (with_reducible refine stageCtx_queue _ _ _ (fun _ => ?_))
    | (with_reducible refine stageMod_queue _ _ _ ?_)
    | (with_reducible refine stageMask_queue _ _ _ (fun _ => ?_))
    | (simp only [])
    | (with_reducible refine queue_ite _ _ _ _ ?_ ?_)
    | (with_reducible refine queue_ite_fst _ _ _ _ ?_ ?_)
    | (with_reducible refine queue_ite_snd _ _ _ _ ?_ ?_)
    | (with_reducible refine keeps_ite _ _ _ _ ?_ ?_)
    | (intro _ _)
    | (simp +zetaDelta)
    | split

theorem execSysKeys_keeps (pg : Nat) (req : Option (List Byte)) (respOk : Bool) (s : State) : Keeps (queueOf s) (execSysKeys pg req respOk s) := by
  unfold execSysKeys
  refine mailRow_keeps _ _ _ _ _ _ _ ?_
  intro s c
  repeat' first
    | with_reducible rfl
    | (simp +zetaDelta [foldl_queue, foldl_snd_queue, foldl_fst_queue, pending_eq_queue]; done)
    | (with_reducible rw [foldl_queue])
    | (rw [pending_eq_queue])
    | (with_reducible exact hereFront_queue _ _ _ _ _ (by assumption))
    | (with_reducible refine withPart_queue _ _ _ _ _ (fun _ => ?_))
    | (with_reducible refine withTile_queue _ _ _ _ _ (fun _ => ?_))
    | (with_reducible refine lotEnded_queue _ _ _ (fun _ => ?_))
    | (with_reducible refine stageCtx_queue _ _ _ (fun _ => ?_))
    | (with_reducible refine stageMod_queue _ _ _ ?_)
    | (with_reducible refine stageMask_queue _ _ _ (fun _ => ?_))
    | (simp only [])
    | (with_reducible refine queue_ite _ _ _ _ ?_ ?_)
    | (with_reducible refine queue_ite_fst _ _ _ _ ?_ ?_)
    | (with_reducible refine queue_ite_snd _ _ _ _ ?_ ?_)
    | (with_reducible refine keeps_ite _ _ _ _ ?_ ?_)
    | (intro _ _)
    | (simp +zetaDelta)
    | split

theorem execSysJoin_keeps (pg : Nat) (req : Option (List Byte)) (respOk : Bool) (s : State) : Keeps (queueOf s) (execSysJoin pg req respOk s) := by
  unfold execSysJoin
  refine mailRow_keeps _ _ _ _ _ _ _ ?_
  intro s c
  repeat' first
    | with_reducible rfl
    | (simp +zetaDelta [foldl_queue, foldl_snd_queue, foldl_fst_queue, pending_eq_queue]; done)
    | (with_reducible rw [foldl_queue])
    | (rw [pending_eq_queue])
    | (with_reducible exact hereFront_queue _ _ _ _ _ (by assumption))
    | (with_reducible refine withPart_queue _ _ _ _ _ (fun _ => ?_))
    | (with_reducible refine withTile_queue _ _ _ _ _ (fun _ => ?_))
    | (with_reducible refine lotEnded_queue _ _ _ (fun _ => ?_))
    | (with_reducible refine stageCtx_queue _ _ _ (fun _ => ?_))
    | (with_reducible refine stageMod_queue _ _ _ ?_)
    | (with_reducible refine stageMask_queue _ _ _ (fun _ => ?_))
    | (simp only [])
    | (with_reducible refine queue_ite _ _ _ _ ?_ ?_)
    | (with_reducible refine queue_ite_fst _ _ _ _ ?_ ?_)
    | (with_reducible refine queue_ite_snd _ _ _ _ ?_ ?_)
    | (with_reducible refine keeps_ite _ _ _ _ ?_ ?_)
    | (intro _ _)
    | (simp +zetaDelta)
    | split

theorem execSysLeave_keeps (pg : Nat) (req : Option (List Byte)) (respOk : Bool) (s : State) : Keeps (queueOf s) (execSysLeave pg req respOk s) := by
  unfold execSysLeave
  refine mailRow_keeps _ _ _ _ _ _ _ ?_
  intro s c
  repeat' first
    | with_reducible rfl
    | (simp +zetaDelta [foldl_queue, foldl_snd_queue, foldl_fst_queue, pending_eq_queue]; done)
    | (with_reducible rw [foldl_queue])
    | (rw [pending_eq_queue])
    | (with_reducible exact hereFront_queue _ _ _ _ _ (by assumption))
    | (with_reducible refine withPart_queue _ _ _ _ _ (fun _ => ?_))
    | (with_reducible refine withTile_queue _ _ _ _ _ (fun _ => ?_))
    | (with_reducible refine lotEnded_queue _ _ _ (fun _ => ?_))
    | (with_reducible refine stageCtx_queue _ _ _ (fun _ => ?_))
    | (with_reducible refine stageMod_queue _ _ _ ?_)
    | (with_reducible refine stageMask_queue _ _ _ (fun _ => ?_))
    | (simp only [])
    | (with_reducible refine queue_ite _ _ _ _ ?_ ?_)
    | (with_reducible refine queue_ite_fst _ _ _ _ ?_ ?_)
    | (with_reducible refine queue_ite_snd _ _ _ _ ?_ ?_)
    | (with_reducible refine keeps_ite _ _ _ _ ?_ ?_)
    | (intro _ _)
    | (simp +zetaDelta)
    | split

/-! ## Sys2Proof/Machine/MailWork.lean -/

@[simp ↓] theorem patLoad_queue (s : State) (c : MCmd) :
    (queueOf ((patLoad s c).st)) = (queueOf s) := by
  unfold patLoad
  repeat' first
    | with_reducible rfl
    | (simp +zetaDelta [foldl_queue, foldl_snd_queue, foldl_fst_queue, pending_eq_queue]; done)
    | (with_reducible rw [foldl_queue])
    | (rw [pending_eq_queue])
    | (with_reducible exact hereFront_queue _ _ _ _ _ (by assumption))
    | (with_reducible refine withPart_queue _ _ _ _ _ (fun _ => ?_))
    | (with_reducible refine withTile_queue _ _ _ _ _ (fun _ => ?_))
    | (with_reducible refine lotEnded_queue _ _ _ (fun _ => ?_))
    | (with_reducible refine stageCtx_queue _ _ _ (fun _ => ?_))
    | (with_reducible refine stageMod_queue _ _ _ ?_)
    | (with_reducible refine stageMask_queue _ _ _ (fun _ => ?_))
    | (simp only [])
    | (with_reducible refine queue_ite _ _ _ _ ?_ ?_)
    | (with_reducible refine queue_ite_fst _ _ _ _ ?_ ?_)
    | (with_reducible refine queue_ite_snd _ _ _ _ ?_ ?_)
    | (with_reducible refine keeps_ite _ _ _ _ ?_ ?_)
    | (intro _ _)
    | (simp +zetaDelta)
    | split

@[simp ↓] theorem patStage_queue (s : State) (c : MCmd) (kind n : Nat) (value : List Byte) :
    (queueOf ((patStage s c kind n value).st)) = (queueOf s) := by
  unfold patStage
  repeat' first
    | with_reducible rfl
    | (simp +zetaDelta [foldl_queue, foldl_snd_queue, foldl_fst_queue, pending_eq_queue]; done)
    | (with_reducible rw [foldl_queue])
    | (rw [pending_eq_queue])
    | (with_reducible exact hereFront_queue _ _ _ _ _ (by assumption))
    | (with_reducible refine withPart_queue _ _ _ _ _ (fun _ => ?_))
    | (with_reducible refine withTile_queue _ _ _ _ _ (fun _ => ?_))
    | (with_reducible refine lotEnded_queue _ _ _ (fun _ => ?_))
    | (with_reducible refine stageCtx_queue _ _ _ (fun _ => ?_))
    | (with_reducible refine stageMod_queue _ _ _ ?_)
    | (with_reducible refine stageMask_queue _ _ _ (fun _ => ?_))
    | (simp only [])
    | (with_reducible refine queue_ite _ _ _ _ ?_ ?_)
    | (with_reducible refine queue_ite_fst _ _ _ _ ?_ ?_)
    | (with_reducible refine queue_ite_snd _ _ _ _ ?_ ?_)
    | (with_reducible refine keeps_ite _ _ _ _ ?_ ?_)
    | (intro _ _)
    | (simp +zetaDelta)
    | split

@[simp ↓] theorem patActivate_queue (s : State) (c : MCmd) :
    (queueOf ((patActivate s c).st)) = (queueOf s) := by
  unfold patActivate
  repeat' first
    | with_reducible rfl
    | (simp +zetaDelta [foldl_queue, foldl_snd_queue, foldl_fst_queue, pending_eq_queue]; done)
    | (with_reducible rw [foldl_queue])
    | (rw [pending_eq_queue])
    | (with_reducible exact hereFront_queue _ _ _ _ _ (by assumption))
    | (with_reducible refine withPart_queue _ _ _ _ _ (fun _ => ?_))
    | (with_reducible refine withTile_queue _ _ _ _ _ (fun _ => ?_))
    | (with_reducible refine lotEnded_queue _ _ _ (fun _ => ?_))
    | (with_reducible refine stageCtx_queue _ _ _ (fun _ => ?_))
    | (with_reducible refine stageMod_queue _ _ _ ?_)
    | (with_reducible refine stageMask_queue _ _ _ (fun _ => ?_))
    | (simp only [])
    | (with_reducible refine queue_ite _ _ _ _ ?_ ?_)
    | (with_reducible refine queue_ite_fst _ _ _ _ ?_ ?_)
    | (with_reducible refine queue_ite_snd _ _ _ _ ?_ ?_)
    | (with_reducible refine keeps_ite _ _ _ _ ?_ ?_)
    | (intro _ _)
    | (simp +zetaDelta)
    | split

@[simp ↓] theorem patSwitch_queue (s : State) (c : MCmd) :
    (queueOf ((patSwitch s c).st)) = (queueOf s) := by
  unfold patSwitch
  repeat' first
    | with_reducible rfl
    | (simp +zetaDelta [foldl_queue, foldl_snd_queue, foldl_fst_queue, pending_eq_queue]; done)
    | (with_reducible rw [foldl_queue])
    | (rw [pending_eq_queue])
    | (with_reducible exact hereFront_queue _ _ _ _ _ (by assumption))
    | (with_reducible refine withPart_queue _ _ _ _ _ (fun _ => ?_))
    | (with_reducible refine withTile_queue _ _ _ _ _ (fun _ => ?_))
    | (with_reducible refine lotEnded_queue _ _ _ (fun _ => ?_))
    | (with_reducible refine stageCtx_queue _ _ _ (fun _ => ?_))
    | (with_reducible refine stageMod_queue _ _ _ ?_)
    | (with_reducible refine stageMask_queue _ _ _ (fun _ => ?_))
    | (simp only [])
    | (with_reducible refine queue_ite _ _ _ _ ?_ ?_)
    | (with_reducible refine queue_ite_fst _ _ _ _ ?_ ?_)
    | (with_reducible refine queue_ite_snd _ _ _ _ ?_ ?_)
    | (with_reducible refine keeps_ite _ _ _ _ ?_ ?_)
    | (intro _ _)
    | (simp +zetaDelta)
    | split

@[simp ↓] theorem patMapRead_queue (s : State) (c : MCmd) :
    (queueOf ((patMapRead s c).st)) = (queueOf s) := by
  unfold patMapRead
  repeat' first
    | with_reducible rfl
    | (simp +zetaDelta [foldl_queue, foldl_snd_queue, foldl_fst_queue, pending_eq_queue]; done)
    | (with_reducible rw [foldl_queue])
    | (rw [pending_eq_queue])
    | (with_reducible exact hereFront_queue _ _ _ _ _ (by assumption))
    | (with_reducible refine withPart_queue _ _ _ _ _ (fun _ => ?_))
    | (with_reducible refine withTile_queue _ _ _ _ _ (fun _ => ?_))
    | (with_reducible refine lotEnded_queue _ _ _ (fun _ => ?_))
    | (with_reducible refine stageCtx_queue _ _ _ (fun _ => ?_))
    | (with_reducible refine stageMod_queue _ _ _ ?_)
    | (with_reducible refine stageMask_queue _ _ _ (fun _ => ?_))
    | (simp only [])
    | (with_reducible refine queue_ite _ _ _ _ ?_ ?_)
    | (with_reducible refine queue_ite_fst _ _ _ _ ?_ ?_)
    | (with_reducible refine queue_ite_snd _ _ _ _ ?_ ?_)
    | (with_reducible refine keeps_ite _ _ _ _ ?_ ?_)
    | (intro _ _)
    | (simp +zetaDelta)
    | split

@[simp ↓] theorem lotSubmit_queue (s : State) (c : MCmd) :
    (queueOf ((lotSubmit s c).st)) = (queueOf s) := by
  unfold lotSubmit
  repeat' first
    | with_reducible rfl
    | (simp +zetaDelta [foldl_queue, foldl_snd_queue, foldl_fst_queue, pending_eq_queue]; done)
    | (with_reducible rw [foldl_queue])
    | (rw [pending_eq_queue])
    | (with_reducible exact hereFront_queue _ _ _ _ _ (by assumption))
    | (with_reducible refine withPart_queue _ _ _ _ _ (fun _ => ?_))
    | (with_reducible refine withTile_queue _ _ _ _ _ (fun _ => ?_))
    | (with_reducible refine lotEnded_queue _ _ _ (fun _ => ?_))
    | (with_reducible refine stageCtx_queue _ _ _ (fun _ => ?_))
    | (with_reducible refine stageMod_queue _ _ _ ?_)
    | (with_reducible refine stageMask_queue _ _ _ (fun _ => ?_))
    | (simp only [])
    | (with_reducible refine queue_ite _ _ _ _ ?_ ?_)
    | (with_reducible refine queue_ite_fst _ _ _ _ ?_ ?_)
    | (with_reducible refine queue_ite_snd _ _ _ _ ?_ ?_)
    | (with_reducible refine keeps_ite _ _ _ _ ?_ ?_)
    | (intro _ _)
    | (simp +zetaDelta)
    | split

@[simp ↓] theorem lotCancel_queue (s : State) (c : MCmd) :
    (queueOf ((lotCancel s c).st)) = (queueOf s) := by
  unfold lotCancel
  repeat' first
    | with_reducible rfl
    | (simp +zetaDelta [foldl_queue, foldl_snd_queue, foldl_fst_queue, pending_eq_queue]; done)
    | (with_reducible rw [foldl_queue])
    | (rw [pending_eq_queue])
    | (with_reducible exact hereFront_queue _ _ _ _ _ (by assumption))
    | (with_reducible refine withPart_queue _ _ _ _ _ (fun _ => ?_))
    | (with_reducible refine withTile_queue _ _ _ _ _ (fun _ => ?_))
    | (with_reducible refine lotEnded_queue _ _ _ (fun _ => ?_))
    | (with_reducible refine stageCtx_queue _ _ _ (fun _ => ?_))
    | (with_reducible refine stageMod_queue _ _ _ ?_)
    | (with_reducible refine stageMask_queue _ _ _ (fun _ => ?_))
    | (simp only [])
    | (with_reducible refine queue_ite _ _ _ _ ?_ ?_)
    | (with_reducible refine queue_ite_fst _ _ _ _ ?_ ?_)
    | (with_reducible refine queue_ite_snd _ _ _ _ ?_ ?_)
    | (with_reducible refine keeps_ite _ _ _ _ ?_ ?_)
    | (intro _ _)
    | (simp +zetaDelta)
    | split

@[simp ↓] theorem lotQuery_queue (s : State) (c : MCmd) :
    (queueOf ((lotQuery s c).st)) = (queueOf s) := by
  unfold lotQuery
  repeat' first
    | with_reducible rfl
    | (simp +zetaDelta [foldl_queue, foldl_snd_queue, foldl_fst_queue, pending_eq_queue]; done)
    | (with_reducible rw [foldl_queue])
    | (rw [pending_eq_queue])
    | (with_reducible exact hereFront_queue _ _ _ _ _ (by assumption))
    | (with_reducible refine withPart_queue _ _ _ _ _ (fun _ => ?_))
    | (with_reducible refine withTile_queue _ _ _ _ _ (fun _ => ?_))
    | (with_reducible refine lotEnded_queue _ _ _ (fun _ => ?_))
    | (with_reducible refine stageCtx_queue _ _ _ (fun _ => ?_))
    | (with_reducible refine stageMod_queue _ _ _ ?_)
    | (with_reducible refine stageMask_queue _ _ _ (fun _ => ?_))
    | (simp only [])
    | (with_reducible refine queue_ite _ _ _ _ ?_ ?_)
    | (with_reducible refine queue_ite_fst _ _ _ _ ?_ ?_)
    | (with_reducible refine queue_ite_snd _ _ _ _ ?_ ?_)
    | (with_reducible refine keeps_ite _ _ _ _ ?_ ?_)
    | (intro _ _)
    | (simp +zetaDelta)
    | split

theorem lotEnded_queue (s : State) (c : MCmd) (f : Lot → Ans) (h : ∀ l, (queueOf ((f l).st)) = (queueOf s)) :
    (queueOf ((lotEnded s c f).st)) = (queueOf s) := by
  unfold lotEnded
  repeat' split
  all_goals simp [h]

@[simp ↓] theorem lotRecords_queue (s : State) (c : MCmd) :
    (queueOf ((lotRecords s c).st)) = (queueOf s) := by
  unfold lotRecords
  repeat' first
    | with_reducible rfl
    | (simp +zetaDelta [foldl_queue, foldl_snd_queue, foldl_fst_queue, pending_eq_queue]; done)
    | (with_reducible rw [foldl_queue])
    | (rw [pending_eq_queue])
    | (with_reducible exact hereFront_queue _ _ _ _ _ (by assumption))
    | (with_reducible refine withPart_queue _ _ _ _ _ (fun _ => ?_))
    | (with_reducible refine withTile_queue _ _ _ _ _ (fun _ => ?_))
    | (with_reducible refine lotEnded_queue _ _ _ (fun _ => ?_))
    | (with_reducible refine stageCtx_queue _ _ _ (fun _ => ?_))
    | (with_reducible refine stageMod_queue _ _ _ ?_)
    | (with_reducible refine stageMask_queue _ _ _ (fun _ => ?_))
    | (simp only [])
    | (with_reducible refine queue_ite _ _ _ _ ?_ ?_)
    | (with_reducible refine queue_ite_fst _ _ _ _ ?_ ?_)
    | (with_reducible refine queue_ite_snd _ _ _ _ ?_ ?_)
    | (with_reducible refine keeps_ite _ _ _ _ ?_ ?_)
    | (intro _ _)
    | (simp +zetaDelta)
    | split

@[simp ↓] theorem lotDigests_queue (s : State) (c : MCmd) :
    (queueOf ((lotDigests s c).st)) = (queueOf s) := by
  unfold lotDigests
  repeat' first
    | with_reducible rfl
    | (simp +zetaDelta [foldl_queue, foldl_snd_queue, foldl_fst_queue, pending_eq_queue]; done)
    | (with_reducible rw [foldl_queue])
    | (rw [pending_eq_queue])
    | (with_reducible exact hereFront_queue _ _ _ _ _ (by assumption))
    | (with_reducible refine withPart_queue _ _ _ _ _ (fun _ => ?_))
    | (with_reducible refine withTile_queue _ _ _ _ _ (fun _ => ?_))
    | (with_reducible refine lotEnded_queue _ _ _ (fun _ => ?_))
    | (with_reducible refine stageCtx_queue _ _ _ (fun _ => ?_))
    | (with_reducible refine stageMod_queue _ _ _ ?_)
    | (with_reducible refine stageMask_queue _ _ _ (fun _ => ?_))
    | (simp only [])
    | (with_reducible refine queue_ite _ _ _ _ ?_ ?_)
    | (with_reducible refine queue_ite_fst _ _ _ _ ?_ ?_)
    | (with_reducible refine queue_ite_snd _ _ _ _ ?_ ?_)
    | (with_reducible refine keeps_ite _ _ _ _ ?_ ?_)
    | (intro _ _)
    | (simp +zetaDelta)
    | split

@[simp ↓] theorem lotCqSet_queue (s : State) (c : MCmd) :
    (queueOf ((lotCqSet s c).st)) = (queueOf s) := by
  unfold lotCqSet
  repeat' first
    | with_reducible rfl
    | (simp +zetaDelta [foldl_queue, foldl_snd_queue, foldl_fst_queue, pending_eq_queue]; done)
    | (with_reducible rw [foldl_queue])
    | (rw [pending_eq_queue])
    | (with_reducible exact hereFront_queue _ _ _ _ _ (by assumption))
    | (with_reducible refine withPart_queue _ _ _ _ _ (fun _ => ?_))
    | (with_reducible refine withTile_queue _ _ _ _ _ (fun _ => ?_))
    | (with_reducible refine lotEnded_queue _ _ _ (fun _ => ?_))
    | (with_reducible refine stageCtx_queue _ _ _ (fun _ => ?_))
    | (with_reducible refine stageMod_queue _ _ _ ?_)
    | (with_reducible refine stageMask_queue _ _ _ (fun _ => ?_))
    | (simp only [])
    | (with_reducible refine queue_ite _ _ _ _ ?_ ?_)
    | (with_reducible refine queue_ite_fst _ _ _ _ ?_ ?_)
    | (with_reducible refine queue_ite_snd _ _ _ _ ?_ ?_)
    | (with_reducible refine keeps_ite _ _ _ _ ?_ ?_)
    | (intro _ _)
    | (simp +zetaDelta)
    | split

theorem stageCtx_queue (s : State) (c : MCmd) (f : Nat → Ans) (h : ∀ n, (queueOf ((f n).st)) = (queueOf s)) :
    (queueOf ((stageCtx s c f).st)) = (queueOf s) := by
  unfold stageCtx
  refine withPart_queue _ _ _ _ _ (fun _ => ?_)
  split <;> simp [h]

theorem stageMod_queue (s : State) (c : MCmd) (f : Ans) (h : (queueOf (f.st)) = (queueOf s)) :
    (queueOf ((stageMod s c f).st)) = (queueOf s) := by
  unfold stageMod
  repeat' split
  all_goals simp [h]

theorem stageMask_queue (s : State) (c : MCmd) (f : Nat → Ans) (h : ∀ n, (queueOf ((f n).st)) = (queueOf s)) :
    (queueOf ((stageMask s c f).st)) = (queueOf s) := by
  unfold stageMask
  refine stageMod_queue _ _ _ ?_
  split <;> simp [h]

@[simp ↓] theorem stageNumeric_queue (s : State) (c : MCmd) :
    (queueOf ((stageNumeric s c).st)) = (queueOf s) := by
  unfold stageNumeric
  repeat' first
    | with_reducible rfl
    | (simp +zetaDelta [foldl_queue, foldl_snd_queue, foldl_fst_queue, pending_eq_queue]; done)
    | (with_reducible rw [foldl_queue])
    | (rw [pending_eq_queue])
    | (with_reducible exact hereFront_queue _ _ _ _ _ (by assumption))
    | (with_reducible refine withPart_queue _ _ _ _ _ (fun _ => ?_))
    | (with_reducible refine withTile_queue _ _ _ _ _ (fun _ => ?_))
    | (with_reducible refine lotEnded_queue _ _ _ (fun _ => ?_))
    | (with_reducible refine stageCtx_queue _ _ _ (fun _ => ?_))
    | (with_reducible refine stageMod_queue _ _ _ ?_)
    | (with_reducible refine stageMask_queue _ _ _ (fun _ => ?_))
    | (simp only [])
    | (with_reducible refine queue_ite _ _ _ _ ?_ ?_)
    | (with_reducible refine queue_ite_fst _ _ _ _ ?_ ?_)
    | (with_reducible refine queue_ite_snd _ _ _ _ ?_ ?_)
    | (with_reducible refine keeps_ite _ _ _ _ ?_ ?_)
    | (intro _ _)
    | (simp +zetaDelta)
    | split

@[simp ↓] theorem stageHalt_queue (s : State) (c : MCmd) :
    (queueOf ((stageHalt s c).st)) = (queueOf s) := by
  unfold stageHalt
  repeat' first
    | with_reducible rfl
    | (simp +zetaDelta [foldl_queue, foldl_snd_queue, foldl_fst_queue, pending_eq_queue]; done)
    | (with_reducible rw [foldl_queue])
    | (rw [pending_eq_queue])
    | (with_reducible exact hereFront_queue _ _ _ _ _ (by assumption))
    | (with_reducible refine withPart_queue _ _ _ _ _ (fun _ => ?_))
    | (with_reducible refine withTile_queue _ _ _ _ _ (fun _ => ?_))
    | (with_reducible refine lotEnded_queue _ _ _ (fun _ => ?_))
    | (with_reducible refine stageCtx_queue _ _ _ (fun _ => ?_))
    | (with_reducible refine stageMod_queue _ _ _ ?_)
    | (with_reducible refine stageMask_queue _ _ _ (fun _ => ?_))
    | (simp only [])
    | (with_reducible refine queue_ite _ _ _ _ ?_ ?_)
    | (with_reducible refine queue_ite_fst _ _ _ _ ?_ ?_)
    | (with_reducible refine queue_ite_snd _ _ _ _ ?_ ?_)
    | (with_reducible refine keeps_ite _ _ _ _ ?_ ?_)
    | (intro _ _)
    | (simp +zetaDelta)
    | split

@[simp ↓] theorem stageHold_queue (s : State) (c : MCmd) :
    (queueOf ((stageHold s c).st)) = (queueOf s) := by
  unfold stageHold
  repeat' first
    | with_reducible rfl
    | (simp +zetaDelta [foldl_queue, foldl_snd_queue, foldl_fst_queue, pending_eq_queue]; done)
    | (with_reducible rw [foldl_queue])
    | (rw [pending_eq_queue])
    | (with_reducible exact hereFront_queue _ _ _ _ _ (by assumption))
    | (with_reducible refine withPart_queue _ _ _ _ _ (fun _ => ?_))
    | (with_reducible refine withTile_queue _ _ _ _ _ (fun _ => ?_))
    | (with_reducible refine lotEnded_queue _ _ _ (fun _ => ?_))
    | (with_reducible refine stageCtx_queue _ _ _ (fun _ => ?_))
    | (with_reducible refine stageMod_queue _ _ _ ?_)
    | (with_reducible refine stageMask_queue _ _ _ (fun _ => ?_))
    | (simp only [])
    | (with_reducible refine queue_ite _ _ _ _ ?_ ?_)
    | (with_reducible refine queue_ite_fst _ _ _ _ ?_ ?_)
    | (with_reducible refine queue_ite_snd _ _ _ _ ?_ ?_)
    | (with_reducible refine keeps_ite _ _ _ _ ?_ ?_)
    | (intro _ _)
    | (simp +zetaDelta)
    | split

@[simp ↓] theorem stageSplit_queue (s : State) (c : MCmd) :
    (queueOf ((stageSplit s c).st)) = (queueOf s) := by
  unfold stageSplit
  repeat' first
    | with_reducible rfl
    | (simp +zetaDelta [foldl_queue, foldl_snd_queue, foldl_fst_queue, pending_eq_queue]; done)
    | (with_reducible rw [foldl_queue])
    | (rw [pending_eq_queue])
    | (with_reducible exact hereFront_queue _ _ _ _ _ (by assumption))
    | (with_reducible refine withPart_queue _ _ _ _ _ (fun _ => ?_))
    | (with_reducible refine withTile_queue _ _ _ _ _ (fun _ => ?_))
    | (with_reducible refine lotEnded_queue _ _ _ (fun _ => ?_))
    | (with_reducible refine stageCtx_queue _ _ _ (fun _ => ?_))
    | (with_reducible refine stageMod_queue _ _ _ ?_)
    | (with_reducible refine stageMask_queue _ _ _ (fun _ => ?_))
    | (simp only [])
    | (with_reducible refine queue_ite _ _ _ _ ?_ ?_)
    | (with_reducible refine queue_ite_fst _ _ _ _ ?_ ?_)
    | (with_reducible refine queue_ite_snd _ _ _ _ ?_ ?_)
    | (with_reducible refine keeps_ite _ _ _ _ ?_ ?_)
    | (intro _ _)
    | (simp +zetaDelta)
    | split

@[simp ↓] theorem stagePeriod_queue (s : State) (c : MCmd) :
    (queueOf ((stagePeriod s c).st)) = (queueOf s) := by
  unfold stagePeriod
  repeat' first
    | with_reducible rfl
    | (simp +zetaDelta [foldl_queue, foldl_snd_queue, foldl_fst_queue, pending_eq_queue]; done)
    | (with_reducible rw [foldl_queue])
    | (rw [pending_eq_queue])
    | (with_reducible exact hereFront_queue _ _ _ _ _ (by assumption))
    | (with_reducible refine withPart_queue _ _ _ _ _ (fun _ => ?_))
    | (with_reducible refine withTile_queue _ _ _ _ _ (fun _ => ?_))
    | (with_reducible refine lotEnded_queue _ _ _ (fun _ => ?_))
    | (with_reducible refine stageCtx_queue _ _ _ (fun _ => ?_))
    | (with_reducible refine stageMod_queue _ _ _ ?_)
    | (with_reducible refine stageMask_queue _ _ _ (fun _ => ?_))
    | (simp only [])
    | (with_reducible refine queue_ite _ _ _ _ ?_ ?_)
    | (with_reducible refine queue_ite_fst _ _ _ _ ?_ ?_)
    | (with_reducible refine queue_ite_snd _ _ _ _ ?_ ?_)
    | (with_reducible refine keeps_ite _ _ _ _ ?_ ?_)
    | (intro _ _)
    | (simp +zetaDelta)
    | split

@[simp ↓] theorem stageKeys_queue (s : State) (c : MCmd) :
    (queueOf ((stageKeys s c).st)) = (queueOf s) := by
  unfold stageKeys
  repeat' first
    | with_reducible rfl
    | (simp +zetaDelta [foldl_queue, foldl_snd_queue, foldl_fst_queue, pending_eq_queue]; done)
    | (with_reducible rw [foldl_queue])
    | (rw [pending_eq_queue])
    | (with_reducible exact hereFront_queue _ _ _ _ _ (by assumption))
    | (with_reducible refine withPart_queue _ _ _ _ _ (fun _ => ?_))
    | (with_reducible refine withTile_queue _ _ _ _ _ (fun _ => ?_))
    | (with_reducible refine lotEnded_queue _ _ _ (fun _ => ?_))
    | (with_reducible refine stageCtx_queue _ _ _ (fun _ => ?_))
    | (with_reducible refine stageMod_queue _ _ _ ?_)
    | (with_reducible refine stageMask_queue _ _ _ (fun _ => ?_))
    | (simp only [])
    | (with_reducible refine queue_ite _ _ _ _ ?_ ?_)
    | (with_reducible refine queue_ite_fst _ _ _ _ ?_ ?_)
    | (with_reducible refine queue_ite_snd _ _ _ _ ?_ ?_)
    | (with_reducible refine keeps_ite _ _ _ _ ?_ ?_)
    | (intro _ _)
    | (simp +zetaDelta)
    | split

@[simp ↓] theorem stageReseed_queue (s : State) (c : MCmd) :
    (queueOf ((stageReseed s c).st)) = (queueOf s) := by
  unfold stageReseed
  repeat' first
    | with_reducible rfl
    | (simp +zetaDelta [foldl_queue, foldl_snd_queue, foldl_fst_queue, pending_eq_queue]; done)
    | (with_reducible rw [foldl_queue])
    | (rw [pending_eq_queue])
    | (with_reducible exact hereFront_queue _ _ _ _ _ (by assumption))
    | (with_reducible refine withPart_queue _ _ _ _ _ (fun _ => ?_))
    | (with_reducible refine withTile_queue _ _ _ _ _ (fun _ => ?_))
    | (with_reducible refine lotEnded_queue _ _ _ (fun _ => ?_))
    | (with_reducible refine stageCtx_queue _ _ _ (fun _ => ?_))
    | (with_reducible refine stageMod_queue _ _ _ ?_)
    | (with_reducible refine stageMask_queue _ _ _ (fun _ => ?_))
    | (simp only [])
    | (with_reducible refine queue_ite _ _ _ _ ?_ ?_)
    | (with_reducible refine queue_ite_fst _ _ _ _ ?_ ?_)
    | (with_reducible refine queue_ite_snd _ _ _ _ ?_ ?_)
    | (with_reducible refine keeps_ite _ _ _ _ ?_ ?_)
    | (intro _ _)
    | (simp +zetaDelta)
    | split

@[simp ↓] theorem stageMerge_queue (s : State) (c : MCmd) :
    (queueOf ((stageMerge s c).st)) = (queueOf s) := by
  unfold stageMerge
  repeat' first
    | with_reducible rfl
    | (simp +zetaDelta [foldl_queue, foldl_snd_queue, foldl_fst_queue, pending_eq_queue]; done)
    | (with_reducible rw [foldl_queue])
    | (rw [pending_eq_queue])
    | (with_reducible exact hereFront_queue _ _ _ _ _ (by assumption))
    | (with_reducible refine withPart_queue _ _ _ _ _ (fun _ => ?_))
    | (with_reducible refine withTile_queue _ _ _ _ _ (fun _ => ?_))
    | (with_reducible refine lotEnded_queue _ _ _ (fun _ => ?_))
    | (with_reducible refine stageCtx_queue _ _ _ (fun _ => ?_))
    | (with_reducible refine stageMod_queue _ _ _ ?_)
    | (with_reducible refine stageMask_queue _ _ _ (fun _ => ?_))
    | (simp only [])
    | (with_reducible refine queue_ite _ _ _ _ ?_ ?_)
    | (with_reducible refine queue_ite_fst _ _ _ _ ?_ ?_)
    | (with_reducible refine queue_ite_snd _ _ _ _ ?_ ?_)
    | (with_reducible refine keeps_ite _ _ _ _ ?_ ?_)
    | (intro _ _)
    | (simp +zetaDelta)
    | split

@[simp ↓] theorem stageCancel_queue (s : State) (c : MCmd) :
    (queueOf ((stageCancel s c).st)) = (queueOf s) := by
  unfold stageCancel
  repeat' first
    | with_reducible rfl
    | (simp +zetaDelta [foldl_queue, foldl_snd_queue, foldl_fst_queue, pending_eq_queue]; done)
    | (with_reducible rw [foldl_queue])
    | (rw [pending_eq_queue])
    | (with_reducible exact hereFront_queue _ _ _ _ _ (by assumption))
    | (with_reducible refine withPart_queue _ _ _ _ _ (fun _ => ?_))
    | (with_reducible refine withTile_queue _ _ _ _ _ (fun _ => ?_))
    | (with_reducible refine lotEnded_queue _ _ _ (fun _ => ?_))
    | (with_reducible refine stageCtx_queue _ _ _ (fun _ => ?_))
    | (with_reducible refine stageMod_queue _ _ _ ?_)
    | (with_reducible refine stageMask_queue _ _ _ (fun _ => ?_))
    | (simp only [])
    | (with_reducible refine queue_ite _ _ _ _ ?_ ?_)
    | (with_reducible refine queue_ite_fst _ _ _ _ ?_ ?_)
    | (with_reducible refine queue_ite_snd _ _ _ _ ?_ ?_)
    | (with_reducible refine keeps_ite _ _ _ _ ?_ ?_)
    | (intro _ _)
    | (simp +zetaDelta)
    | split

@[simp ↓] theorem stageQuery_queue (s : State) (c : MCmd) :
    (queueOf ((stageQuery s c).st)) = (queueOf s) := by
  unfold stageQuery
  repeat' first
    | with_reducible rfl
    | (simp +zetaDelta [foldl_queue, foldl_snd_queue, foldl_fst_queue, pending_eq_queue]; done)
    | (with_reducible rw [foldl_queue])
    | (rw [pending_eq_queue])
    | (with_reducible exact hereFront_queue _ _ _ _ _ (by assumption))
    | (with_reducible refine withPart_queue _ _ _ _ _ (fun _ => ?_))
    | (with_reducible refine withTile_queue _ _ _ _ _ (fun _ => ?_))
    | (with_reducible refine lotEnded_queue _ _ _ (fun _ => ?_))
    | (with_reducible refine stageCtx_queue _ _ _ (fun _ => ?_))
    | (with_reducible refine stageMod_queue _ _ _ ?_)
    | (with_reducible refine stageMask_queue _ _ _ (fun _ => ?_))
    | (simp only [])
    | (with_reducible refine queue_ite _ _ _ _ ?_ ?_)
    | (with_reducible refine queue_ite_fst _ _ _ _ ?_ ?_)
    | (with_reducible refine queue_ite_snd _ _ _ _ ?_ ?_)
    | (with_reducible refine keeps_ite _ _ _ _ ?_ ?_)
    | (intro _ _)
    | (simp +zetaDelta)
    | split

@[simp ↓] theorem ctxScanOut_queue (s : State) (c : MCmd) :
    (queueOf ((ctxScanOut s c).st)) = (queueOf s) := by
  unfold ctxScanOut
  repeat' first
    | with_reducible rfl
    | (simp +zetaDelta [foldl_queue, foldl_snd_queue, foldl_fst_queue, pending_eq_queue]; done)
    | (with_reducible rw [foldl_queue])
    | (rw [pending_eq_queue])
    | (with_reducible exact hereFront_queue _ _ _ _ _ (by assumption))
    | (with_reducible refine withPart_queue _ _ _ _ _ (fun _ => ?_))
    | (with_reducible refine withTile_queue _ _ _ _ _ (fun _ => ?_))
    | (with_reducible refine lotEnded_queue _ _ _ (fun _ => ?_))
    | (with_reducible refine stageCtx_queue _ _ _ (fun _ => ?_))
    | (with_reducible refine stageMod_queue _ _ _ ?_)
    | (with_reducible refine stageMask_queue _ _ _ (fun _ => ?_))
    | (simp only [])
    | (with_reducible refine queue_ite _ _ _ _ ?_ ?_)
    | (with_reducible refine queue_ite_fst _ _ _ _ ?_ ?_)
    | (with_reducible refine queue_ite_snd _ _ _ _ ?_ ?_)
    | (with_reducible refine keeps_ite _ _ _ _ ?_ ?_)
    | (intro _ _)
    | (simp +zetaDelta)
    | split

@[simp ↓] theorem ctxScanIn_queue (s : State) (c : MCmd) :
    (queueOf ((ctxScanIn s c).st)) = (queueOf s) := by
  unfold ctxScanIn
  repeat' first
    | with_reducible rfl
    | (simp +zetaDelta [foldl_queue, foldl_snd_queue, foldl_fst_queue, pending_eq_queue]; done)
    | (with_reducible rw [foldl_queue])
    | (rw [pending_eq_queue])
    | (with_reducible exact hereFront_queue _ _ _ _ _ (by assumption))
    | (with_reducible refine withPart_queue _ _ _ _ _ (fun _ => ?_))
    | (with_reducible refine withTile_queue _ _ _ _ _ (fun _ => ?_))
    | (with_reducible refine lotEnded_queue _ _ _ (fun _ => ?_))
    | (with_reducible refine stageCtx_queue _ _ _ (fun _ => ?_))
    | (with_reducible refine stageMod_queue _ _ _ ?_)
    | (with_reducible refine stageMask_queue _ _ _ (fun _ => ?_))
    | (simp only [])
    | (with_reducible refine queue_ite _ _ _ _ ?_ ?_)
    | (with_reducible refine queue_ite_fst _ _ _ _ ?_ ?_)
    | (with_reducible refine queue_ite_snd _ _ _ _ ?_ ?_)
    | (with_reducible refine keeps_ite _ _ _ _ ?_ ?_)
    | (intro _ _)
    | (simp +zetaDelta)
    | split

@[simp ↓] theorem ctxReset_queue (s : State) (c : MCmd) :
    (queueOf ((ctxReset s c).st)) = (queueOf s) := by
  unfold ctxReset
  repeat' first
    | with_reducible rfl
    | (simp +zetaDelta [foldl_queue, foldl_snd_queue, foldl_fst_queue, pending_eq_queue]; done)
    | (with_reducible rw [foldl_queue])
    | (rw [pending_eq_queue])
    | (with_reducible exact hereFront_queue _ _ _ _ _ (by assumption))
    | (with_reducible refine withPart_queue _ _ _ _ _ (fun _ => ?_))
    | (with_reducible refine withTile_queue _ _ _ _ _ (fun _ => ?_))
    | (with_reducible refine lotEnded_queue _ _ _ (fun _ => ?_))
    | (with_reducible refine stageCtx_queue _ _ _ (fun _ => ?_))
    | (with_reducible refine stageMod_queue _ _ _ ?_)
    | (with_reducible refine stageMask_queue _ _ _ (fun _ => ?_))
    | (simp only [])
    | (with_reducible refine queue_ite _ _ _ _ ?_ ?_)
    | (with_reducible refine queue_ite_fst _ _ _ _ ?_ ?_)
    | (with_reducible refine queue_ite_snd _ _ _ _ ?_ ?_)
    | (with_reducible refine keeps_ite _ _ _ _ ?_ ?_)
    | (intro _ _)
    | (simp +zetaDelta)
    | split

theorem execPatLoad_keeps (pg : Nat) (req : Option (List Byte)) (respOk : Bool) (s : State) : Keeps (queueOf s) (execPatLoad pg req respOk s) := by
  unfold execPatLoad
  refine mailRow_keeps _ _ _ _ _ _ _ ?_
  intro s c
  repeat' first
    | with_reducible rfl
    | (simp +zetaDelta [foldl_queue, foldl_snd_queue, foldl_fst_queue, pending_eq_queue]; done)
    | (with_reducible rw [foldl_queue])
    | (rw [pending_eq_queue])
    | (with_reducible exact hereFront_queue _ _ _ _ _ (by assumption))
    | (with_reducible refine withPart_queue _ _ _ _ _ (fun _ => ?_))
    | (with_reducible refine withTile_queue _ _ _ _ _ (fun _ => ?_))
    | (with_reducible refine lotEnded_queue _ _ _ (fun _ => ?_))
    | (with_reducible refine stageCtx_queue _ _ _ (fun _ => ?_))
    | (with_reducible refine stageMod_queue _ _ _ ?_)
    | (with_reducible refine stageMask_queue _ _ _ (fun _ => ?_))
    | (simp only [])
    | (with_reducible refine queue_ite _ _ _ _ ?_ ?_)
    | (with_reducible refine queue_ite_fst _ _ _ _ ?_ ?_)
    | (with_reducible refine queue_ite_snd _ _ _ _ ?_ ?_)
    | (with_reducible refine keeps_ite _ _ _ _ ?_ ?_)
    | (intro _ _)
    | (simp +zetaDelta)
    | split

theorem execPatActivate_keeps (pg : Nat) (req : Option (List Byte)) (respOk : Bool) (s : State) : Keeps (queueOf s) (execPatActivate pg req respOk s) := by
  unfold execPatActivate
  refine mailRow_keeps _ _ _ _ _ _ _ ?_
  intro s c
  repeat' first
    | with_reducible rfl
    | (simp +zetaDelta [foldl_queue, foldl_snd_queue, foldl_fst_queue, pending_eq_queue]; done)
    | (with_reducible rw [foldl_queue])
    | (rw [pending_eq_queue])
    | (with_reducible exact hereFront_queue _ _ _ _ _ (by assumption))
    | (with_reducible refine withPart_queue _ _ _ _ _ (fun _ => ?_))
    | (with_reducible refine withTile_queue _ _ _ _ _ (fun _ => ?_))
    | (with_reducible refine lotEnded_queue _ _ _ (fun _ => ?_))
    | (with_reducible refine stageCtx_queue _ _ _ (fun _ => ?_))
    | (with_reducible refine stageMod_queue _ _ _ ?_)
    | (with_reducible refine stageMask_queue _ _ _ (fun _ => ?_))
    | (simp only [])
    | (with_reducible refine queue_ite _ _ _ _ ?_ ?_)
    | (with_reducible refine queue_ite_fst _ _ _ _ ?_ ?_)
    | (with_reducible refine queue_ite_snd _ _ _ _ ?_ ?_)
    | (with_reducible refine keeps_ite _ _ _ _ ?_ ?_)
    | (intro _ _)
    | (simp +zetaDelta)
    | split

theorem execPatSwitch_keeps (pg : Nat) (req : Option (List Byte)) (respOk : Bool) (s : State) : Keeps (queueOf s) (execPatSwitch pg req respOk s) := by
  unfold execPatSwitch
  refine mailRow_keeps _ _ _ _ _ _ _ ?_
  intro s c
  repeat' first
    | with_reducible rfl
    | (simp +zetaDelta [foldl_queue, foldl_snd_queue, foldl_fst_queue, pending_eq_queue]; done)
    | (with_reducible rw [foldl_queue])
    | (rw [pending_eq_queue])
    | (with_reducible exact hereFront_queue _ _ _ _ _ (by assumption))
    | (with_reducible refine withPart_queue _ _ _ _ _ (fun _ => ?_))
    | (with_reducible refine withTile_queue _ _ _ _ _ (fun _ => ?_))
    | (with_reducible refine lotEnded_queue _ _ _ (fun _ => ?_))
    | (with_reducible refine stageCtx_queue _ _ _ (fun _ => ?_))
    | (with_reducible refine stageMod_queue _ _ _ ?_)
    | (with_reducible refine stageMask_queue _ _ _ (fun _ => ?_))
    | (simp only [])
    | (with_reducible refine queue_ite _ _ _ _ ?_ ?_)
    | (with_reducible refine queue_ite_fst _ _ _ _ ?_ ?_)
    | (with_reducible refine queue_ite_snd _ _ _ _ ?_ ?_)
    | (with_reducible refine keeps_ite _ _ _ _ ?_ ?_)
    | (intro _ _)
    | (simp +zetaDelta)
    | split

theorem execPatMap_keeps (pg : Nat) (req : Option (List Byte)) (respOk : Bool) (s : State) : Keeps (queueOf s) (execPatMap pg req respOk s) := by
  unfold execPatMap
  refine mailRow_keeps _ _ _ _ _ _ _ ?_
  intro s c
  repeat' first
    | with_reducible rfl
    | (simp +zetaDelta [foldl_queue, foldl_snd_queue, foldl_fst_queue, pending_eq_queue]; done)
    | (with_reducible rw [foldl_queue])
    | (rw [pending_eq_queue])
    | (with_reducible exact hereFront_queue _ _ _ _ _ (by assumption))
    | (with_reducible refine withPart_queue _ _ _ _ _ (fun _ => ?_))
    | (with_reducible refine withTile_queue _ _ _ _ _ (fun _ => ?_))
    | (with_reducible refine lotEnded_queue _ _ _ (fun _ => ?_))
    | (with_reducible refine stageCtx_queue _ _ _ (fun _ => ?_))
    | (with_reducible refine stageMod_queue _ _ _ ?_)
    | (with_reducible refine stageMask_queue _ _ _ (fun _ => ?_))
    | (simp only [])
    | (with_reducible refine queue_ite _ _ _ _ ?_ ?_)
    | (with_reducible refine queue_ite_fst _ _ _ _ ?_ ?_)
    | (with_reducible refine queue_ite_snd _ _ _ _ ?_ ?_)
    | (with_reducible refine keeps_ite _ _ _ _ ?_ ?_)
    | (intro _ _)
    | (simp +zetaDelta)
    | split

theorem execLotSubmit_keeps (pg : Nat) (req : Option (List Byte)) (respOk : Bool) (s : State) : Keeps (queueOf s) (execLotSubmit pg req respOk s) := by
  unfold execLotSubmit
  refine mailRow_keeps _ _ _ _ _ _ _ ?_
  intro s c
  repeat' first
    | with_reducible rfl
    | (simp +zetaDelta [foldl_queue, foldl_snd_queue, foldl_fst_queue, pending_eq_queue]; done)
    | (with_reducible rw [foldl_queue])
    | (rw [pending_eq_queue])
    | (with_reducible exact hereFront_queue _ _ _ _ _ (by assumption))
    | (with_reducible refine withPart_queue _ _ _ _ _ (fun _ => ?_))
    | (with_reducible refine withTile_queue _ _ _ _ _ (fun _ => ?_))
    | (with_reducible refine lotEnded_queue _ _ _ (fun _ => ?_))
    | (with_reducible refine stageCtx_queue _ _ _ (fun _ => ?_))
    | (with_reducible refine stageMod_queue _ _ _ ?_)
    | (with_reducible refine stageMask_queue _ _ _ (fun _ => ?_))
    | (simp only [])
    | (with_reducible refine queue_ite _ _ _ _ ?_ ?_)
    | (with_reducible refine queue_ite_fst _ _ _ _ ?_ ?_)
    | (with_reducible refine queue_ite_snd _ _ _ _ ?_ ?_)
    | (with_reducible refine keeps_ite _ _ _ _ ?_ ?_)
    | (intro _ _)
    | (simp +zetaDelta)
    | split

theorem execLotCancel_keeps (pg : Nat) (req : Option (List Byte)) (respOk : Bool) (s : State) : Keeps (queueOf s) (execLotCancel pg req respOk s) := by
  unfold execLotCancel
  refine mailRow_keeps _ _ _ _ _ _ _ ?_
  intro s c
  repeat' first
    | with_reducible rfl
    | (simp +zetaDelta [foldl_queue, foldl_snd_queue, foldl_fst_queue, pending_eq_queue]; done)
    | (with_reducible rw [foldl_queue])
    | (rw [pending_eq_queue])
    | (with_reducible exact hereFront_queue _ _ _ _ _ (by assumption))
    | (with_reducible refine withPart_queue _ _ _ _ _ (fun _ => ?_))
    | (with_reducible refine withTile_queue _ _ _ _ _ (fun _ => ?_))
    | (with_reducible refine lotEnded_queue _ _ _ (fun _ => ?_))
    | (with_reducible refine stageCtx_queue _ _ _ (fun _ => ?_))
    | (with_reducible refine stageMod_queue _ _ _ ?_)
    | (with_reducible refine stageMask_queue _ _ _ (fun _ => ?_))
    | (simp only [])
    | (with_reducible refine queue_ite _ _ _ _ ?_ ?_)
    | (with_reducible refine queue_ite_fst _ _ _ _ ?_ ?_)
    | (with_reducible refine queue_ite_snd _ _ _ _ ?_ ?_)
    | (with_reducible refine keeps_ite _ _ _ _ ?_ ?_)
    | (intro _ _)
    | (simp +zetaDelta)
    | split

theorem execLotQuery_keeps (pg : Nat) (req : Option (List Byte)) (respOk : Bool) (s : State) : Keeps (queueOf s) (execLotQuery pg req respOk s) := by
  unfold execLotQuery
  refine mailRow_keeps _ _ _ _ _ _ _ ?_
  intro s c
  repeat' first
    | with_reducible rfl
    | (simp +zetaDelta [foldl_queue, foldl_snd_queue, foldl_fst_queue, pending_eq_queue]; done)
    | (with_reducible rw [foldl_queue])
    | (rw [pending_eq_queue])
    | (with_reducible exact hereFront_queue _ _ _ _ _ (by assumption))
    | (with_reducible refine withPart_queue _ _ _ _ _ (fun _ => ?_))
    | (with_reducible refine withTile_queue _ _ _ _ _ (fun _ => ?_))
    | (with_reducible refine lotEnded_queue _ _ _ (fun _ => ?_))
    | (with_reducible refine stageCtx_queue _ _ _ (fun _ => ?_))
    | (with_reducible refine stageMod_queue _ _ _ ?_)
    | (with_reducible refine stageMask_queue _ _ _ (fun _ => ?_))
    | (simp only [])
    | (with_reducible refine queue_ite _ _ _ _ ?_ ?_)
    | (with_reducible refine queue_ite_fst _ _ _ _ ?_ ?_)
    | (with_reducible refine queue_ite_snd _ _ _ _ ?_ ?_)
    | (with_reducible refine keeps_ite _ _ _ _ ?_ ?_)
    | (intro _ _)
    | (simp +zetaDelta)
    | split

theorem execLotRecords_keeps (pg : Nat) (req : Option (List Byte)) (respOk : Bool) (s : State) : Keeps (queueOf s) (execLotRecords pg req respOk s) := by
  unfold execLotRecords
  refine mailRow_keeps _ _ _ _ _ _ _ ?_
  intro s c
  repeat' first
    | with_reducible rfl
    | (simp +zetaDelta [foldl_queue, foldl_snd_queue, foldl_fst_queue, pending_eq_queue]; done)
    | (with_reducible rw [foldl_queue])
    | (rw [pending_eq_queue])
    | (with_reducible exact hereFront_queue _ _ _ _ _ (by assumption))
    | (with_reducible refine withPart_queue _ _ _ _ _ (fun _ => ?_))
    | (with_reducible refine withTile_queue _ _ _ _ _ (fun _ => ?_))
    | (with_reducible refine lotEnded_queue _ _ _ (fun _ => ?_))
    | (with_reducible refine stageCtx_queue _ _ _ (fun _ => ?_))
    | (with_reducible refine stageMod_queue _ _ _ ?_)
    | (with_reducible refine stageMask_queue _ _ _ (fun _ => ?_))
    | (simp only [])
    | (with_reducible refine queue_ite _ _ _ _ ?_ ?_)
    | (with_reducible refine queue_ite_fst _ _ _ _ ?_ ?_)
    | (with_reducible refine queue_ite_snd _ _ _ _ ?_ ?_)
    | (with_reducible refine keeps_ite _ _ _ _ ?_ ?_)
    | (intro _ _)
    | (simp +zetaDelta)
    | split

theorem execLotCqSet_keeps (pg : Nat) (req : Option (List Byte)) (respOk : Bool) (s : State) : Keeps (queueOf s) (execLotCqSet pg req respOk s) := by
  unfold execLotCqSet
  refine mailRow_keeps _ _ _ _ _ _ _ ?_
  intro s c
  repeat' first
    | with_reducible rfl
    | (simp +zetaDelta [foldl_queue, foldl_snd_queue, foldl_fst_queue, pending_eq_queue]; done)
    | (with_reducible rw [foldl_queue])
    | (rw [pending_eq_queue])
    | (with_reducible exact hereFront_queue _ _ _ _ _ (by assumption))
    | (with_reducible refine withPart_queue _ _ _ _ _ (fun _ => ?_))
    | (with_reducible refine withTile_queue _ _ _ _ _ (fun _ => ?_))
    | (with_reducible refine lotEnded_queue _ _ _ (fun _ => ?_))
    | (with_reducible refine stageCtx_queue _ _ _ (fun _ => ?_))
    | (with_reducible refine stageMod_queue _ _ _ ?_)
    | (with_reducible refine stageMask_queue _ _ _ (fun _ => ?_))
    | (simp only [])
    | (with_reducible refine queue_ite _ _ _ _ ?_ ?_)
    | (with_reducible refine queue_ite_fst _ _ _ _ ?_ ?_)
    | (with_reducible refine queue_ite_snd _ _ _ _ ?_ ?_)
    | (with_reducible refine keeps_ite _ _ _ _ ?_ ?_)
    | (intro _ _)
    | (simp +zetaDelta)
    | split

theorem execLotDigests_keeps (pg : Nat) (req : Option (List Byte)) (respOk : Bool) (s : State) : Keeps (queueOf s) (execLotDigests pg req respOk s) := by
  unfold execLotDigests
  refine mailRow_keeps _ _ _ _ _ _ _ ?_
  intro s c
  repeat' first
    | with_reducible rfl
    | (simp +zetaDelta [foldl_queue, foldl_snd_queue, foldl_fst_queue, pending_eq_queue]; done)
    | (with_reducible rw [foldl_queue])
    | (rw [pending_eq_queue])
    | (with_reducible exact hereFront_queue _ _ _ _ _ (by assumption))
    | (with_reducible refine withPart_queue _ _ _ _ _ (fun _ => ?_))
    | (with_reducible refine withTile_queue _ _ _ _ _ (fun _ => ?_))
    | (with_reducible refine lotEnded_queue _ _ _ (fun _ => ?_))
    | (with_reducible refine stageCtx_queue _ _ _ (fun _ => ?_))
    | (with_reducible refine stageMod_queue _ _ _ ?_)
    | (with_reducible refine stageMask_queue _ _ _ (fun _ => ?_))
    | (simp only [])
    | (with_reducible refine queue_ite _ _ _ _ ?_ ?_)
    | (with_reducible refine queue_ite_fst _ _ _ _ ?_ ?_)
    | (with_reducible refine queue_ite_snd _ _ _ _ ?_ ?_)
    | (with_reducible refine keeps_ite _ _ _ _ ?_ ?_)
    | (intro _ _)
    | (simp +zetaDelta)
    | split

theorem execStageNumericModes_keeps (pg : Nat) (req : Option (List Byte)) (respOk : Bool) (s : State) : Keeps (queueOf s) (execStageNumericModes pg req respOk s) := by
  unfold execStageNumericModes
  refine mailRow_keeps _ _ _ _ _ _ _ ?_
  intro s c
  repeat' first
    | with_reducible rfl
    | (simp +zetaDelta [foldl_queue, foldl_snd_queue, foldl_fst_queue, pending_eq_queue]; done)
    | (with_reducible rw [foldl_queue])
    | (rw [pending_eq_queue])
    | (with_reducible exact hereFront_queue _ _ _ _ _ (by assumption))
    | (with_reducible refine withPart_queue _ _ _ _ _ (fun _ => ?_))
    | (with_reducible refine withTile_queue _ _ _ _ _ (fun _ => ?_))
    | (with_reducible refine lotEnded_queue _ _ _ (fun _ => ?_))
    | (with_reducible refine stageCtx_queue _ _ _ (fun _ => ?_))
    | (with_reducible refine stageMod_queue _ _ _ ?_)
    | (with_reducible refine stageMask_queue _ _ _ (fun _ => ?_))
    | (simp only [])
    | (with_reducible refine queue_ite _ _ _ _ ?_ ?_)
    | (with_reducible refine queue_ite_fst _ _ _ _ ?_ ?_)
    | (with_reducible refine queue_ite_snd _ _ _ _ ?_ ?_)
    | (with_reducible refine keeps_ite _ _ _ _ ?_ ?_)
    | (intro _ _)
    | (simp +zetaDelta)
    | split

theorem execStageHalt_keeps (pg : Nat) (req : Option (List Byte)) (respOk : Bool) (s : State) : Keeps (queueOf s) (execStageHalt pg req respOk s) := by
  unfold execStageHalt
  refine mailRow_keeps _ _ _ _ _ _ _ ?_
  intro s c
  repeat' first
    | with_reducible rfl
    | (simp +zetaDelta [foldl_queue, foldl_snd_queue, foldl_fst_queue, pending_eq_queue]; done)
    | (with_reducible rw [foldl_queue])
    | (rw [pending_eq_queue])
    | (with_reducible exact hereFront_queue _ _ _ _ _ (by assumption))
    | (with_reducible refine withPart_queue _ _ _ _ _ (fun _ => ?_))
    | (with_reducible refine withTile_queue _ _ _ _ _ (fun _ => ?_))
    | (with_reducible refine lotEnded_queue _ _ _ (fun _ => ?_))
    | (with_reducible refine stageCtx_queue _ _ _ (fun _ => ?_))
    | (with_reducible refine stageMod_queue _ _ _ ?_)
    | (with_reducible refine stageMask_queue _ _ _ (fun _ => ?_))
    | (simp only [])
    | (with_reducible refine queue_ite _ _ _ _ ?_ ?_)
    | (with_reducible refine queue_ite_fst _ _ _ _ ?_ ?_)
    | (with_reducible refine queue_ite_snd _ _ _ _ ?_ ?_)
    | (with_reducible refine keeps_ite _ _ _ _ ?_ ?_)
    | (intro _ _)
    | (simp +zetaDelta)
    | split

theorem execStageHoldLimit_keeps (pg : Nat) (req : Option (List Byte)) (respOk : Bool) (s : State) : Keeps (queueOf s) (execStageHoldLimit pg req respOk s) := by
  unfold execStageHoldLimit
  refine mailRow_keeps _ _ _ _ _ _ _ ?_
  intro s c
  repeat' first
    | with_reducible rfl
    | (simp +zetaDelta [foldl_queue, foldl_snd_queue, foldl_fst_queue, pending_eq_queue]; done)
    | (with_reducible rw [foldl_queue])
    | (rw [pending_eq_queue])
    | (with_reducible exact hereFront_queue _ _ _ _ _ (by assumption))
    | (with_reducible refine withPart_queue _ _ _ _ _ (fun _ => ?_))
    | (with_reducible refine withTile_queue _ _ _ _ _ (fun _ => ?_))
    | (with_reducible refine lotEnded_queue _ _ _ (fun _ => ?_))
    | (with_reducible refine stageCtx_queue _ _ _ (fun _ => ?_))
    | (with_reducible refine stageMod_queue _ _ _ ?_)
    | (with_reducible refine stageMask_queue _ _ _ (fun _ => ?_))
    | (simp only [])
    | (with_reducible refine queue_ite _ _ _ _ ?_ ?_)
    | (with_reducible refine queue_ite_fst _ _ _ _ ?_ ?_)
    | (with_reducible refine queue_ite_snd _ _ _ _ ?_ ?_)
    | (with_reducible refine keeps_ite _ _ _ _ ?_ ?_)
    | (intro _ _)
    | (simp +zetaDelta)
    | split

theorem execStageSplit_keeps (pg : Nat) (req : Option (List Byte)) (respOk : Bool) (s : State) : Keeps (queueOf s) (execStageSplit pg req respOk s) := by
  unfold execStageSplit
  refine mailRow_keeps _ _ _ _ _ _ _ ?_
  intro s c
  repeat' first
    | with_reducible rfl
    | (simp +zetaDelta [foldl_queue, foldl_snd_queue, foldl_fst_queue, pending_eq_queue]; done)
    | (with_reducible rw [foldl_queue])
    | (rw [pending_eq_queue])
    | (with_reducible exact hereFront_queue _ _ _ _ _ (by assumption))
    | (with_reducible refine withPart_queue _ _ _ _ _ (fun _ => ?_))
    | (with_reducible refine withTile_queue _ _ _ _ _ (fun _ => ?_))
    | (with_reducible refine lotEnded_queue _ _ _ (fun _ => ?_))
    | (with_reducible refine stageCtx_queue _ _ _ (fun _ => ?_))
    | (with_reducible refine stageMod_queue _ _ _ ?_)
    | (with_reducible refine stageMask_queue _ _ _ (fun _ => ?_))
    | (simp only [])
    | (with_reducible refine queue_ite _ _ _ _ ?_ ?_)
    | (with_reducible refine queue_ite_fst _ _ _ _ ?_ ?_)
    | (with_reducible refine queue_ite_snd _ _ _ _ ?_ ?_)
    | (with_reducible refine keeps_ite _ _ _ _ ?_ ?_)
    | (intro _ _)
    | (simp +zetaDelta)
    | split

theorem execStageBellPeriod_keeps (pg : Nat) (req : Option (List Byte)) (respOk : Bool) (s : State) : Keeps (queueOf s) (execStageBellPeriod pg req respOk s) := by
  unfold execStageBellPeriod
  refine mailRow_keeps _ _ _ _ _ _ _ ?_
  intro s c
  repeat' first
    | with_reducible rfl
    | (simp +zetaDelta [foldl_queue, foldl_snd_queue, foldl_fst_queue, pending_eq_queue]; done)
    | (with_reducible rw [foldl_queue])
    | (rw [pending_eq_queue])
    | (with_reducible exact hereFront_queue _ _ _ _ _ (by assumption))
    | (with_reducible refine withPart_queue _ _ _ _ _ (fun _ => ?_))
    | (with_reducible refine withTile_queue _ _ _ _ _ (fun _ => ?_))
    | (with_reducible refine lotEnded_queue _ _ _ (fun _ => ?_))
    | (with_reducible refine stageCtx_queue _ _ _ (fun _ => ?_))
    | (with_reducible refine stageMod_queue _ _ _ ?_)
    | (with_reducible refine stageMask_queue _ _ _ (fun _ => ?_))
    | (simp only [])
    | (with_reducible refine queue_ite _ _ _ _ ?_ ?_)
    | (with_reducible refine queue_ite_fst _ _ _ _ ?_ ?_)
    | (with_reducible refine queue_ite_snd _ _ _ _ ?_ ?_)
    | (with_reducible refine keeps_ite _ _ _ _ ?_ ?_)
    | (intro _ _)
    | (simp +zetaDelta)
    | split

theorem execStageKeyRotation_keeps (pg : Nat) (req : Option (List Byte)) (respOk : Bool) (s : State) : Keeps (queueOf s) (execStageKeyRotation pg req respOk s) := by
  unfold execStageKeyRotation
  refine mailRow_keeps _ _ _ _ _ _ _ ?_
  intro s c
  repeat' first
    | with_reducible rfl
    | (simp +zetaDelta [foldl_queue, foldl_snd_queue, foldl_fst_queue, pending_eq_queue]; done)
    | (with_reducible rw [foldl_queue])
    | (rw [pending_eq_queue])
    | (with_reducible exact hereFront_queue _ _ _ _ _ (by assumption))
    | (with_reducible refine withPart_queue _ _ _ _ _ (fun _ => ?_))
    | (with_reducible refine withTile_queue _ _ _ _ _ (fun _ => ?_))
    | (with_reducible refine lotEnded_queue _ _ _ (fun _ => ?_))
    | (with_reducible refine stageCtx_queue _ _ _ (fun _ => ?_))
    | (with_reducible refine stageMod_queue _ _ _ ?_)
    | (with_reducible refine stageMask_queue _ _ _ (fun _ => ?_))
    | (simp only [])
    | (with_reducible refine queue_ite _ _ _ _ ?_ ?_)
    | (with_reducible refine queue_ite_fst _ _ _ _ ?_ ?_)
    | (with_reducible refine queue_ite_snd _ _ _ _ ?_ ?_)
    | (with_reducible refine keeps_ite _ _ _ _ ?_ ?_)
    | (intro _ _)
    | (simp +zetaDelta)
    | split

theorem execStageReseed_keeps (pg : Nat) (req : Option (List Byte)) (respOk : Bool) (s : State) : Keeps (queueOf s) (execStageReseed pg req respOk s) := by
  unfold execStageReseed
  refine mailRow_keeps _ _ _ _ _ _ _ ?_
  intro s c
  repeat' first
    | with_reducible rfl
    | (simp +zetaDelta [foldl_queue, foldl_snd_queue, foldl_fst_queue, pending_eq_queue]; done)
    | (with_reducible rw [foldl_queue])
    | (rw [pending_eq_queue])
    | (with_reducible exact hereFront_queue _ _ _ _ _ (by assumption))
    | (with_reducible refine withPart_queue _ _ _ _ _ (fun _ => ?_))
    | (with_reducible refine withTile_queue _ _ _ _ _ (fun _ => ?_))
    | (with_reducible refine lotEnded_queue _ _ _ (fun _ => ?_))
    | (with_reducible refine stageCtx_queue _ _ _ (fun _ => ?_))
    | (with_reducible refine stageMod_queue _ _ _ ?_)
    | (with_reducible refine stageMask_queue _ _ _ (fun _ => ?_))
    | (simp only [])
    | (with_reducible refine queue_ite _ _ _ _ ?_ ?_)
    | (with_reducible refine queue_ite_fst _ _ _ _ ?_ ?_)
    | (with_reducible refine queue_ite_snd _ _ _ _ ?_ ?_)
    | (with_reducible refine keeps_ite _ _ _ _ ?_ ?_)
    | (intro _ _)
    | (simp +zetaDelta)
    | split

theorem execStageMergedRead_keeps (pg : Nat) (req : Option (List Byte)) (respOk : Bool) (s : State) : Keeps (queueOf s) (execStageMergedRead pg req respOk s) := by
  unfold execStageMergedRead
  refine mailRow_keeps _ _ _ _ _ _ _ ?_
  intro s c
  repeat' first
    | with_reducible rfl
    | (simp +zetaDelta [foldl_queue, foldl_snd_queue, foldl_fst_queue, pending_eq_queue]; done)
    | (with_reducible rw [foldl_queue])
    | (rw [pending_eq_queue])
    | (with_reducible exact hereFront_queue _ _ _ _ _ (by assumption))
    | (with_reducible refine withPart_queue _ _ _ _ _ (fun _ => ?_))
    | (with_reducible refine withTile_queue _ _ _ _ _ (fun _ => ?_))
    | (with_reducible refine lotEnded_queue _ _ _ (fun _ => ?_))
    | (with_reducible refine stageCtx_queue _ _ _ (fun _ => ?_))
    | (with_reducible refine stageMod_queue _ _ _ ?_)
    | (with_reducible refine stageMask_queue _ _ _ (fun _ => ?_))
    | (simp only [])
    | (with_reducible refine queue_ite _ _ _ _ ?_ ?_)
    | (with_reducible refine queue_ite_fst _ _ _ _ ?_ ?_)
    | (with_reducible refine queue_ite_snd _ _ _ _ ?_ ?_)
    | (with_reducible refine keeps_ite _ _ _ _ ?_ ?_)
    | (intro _ _)
    | (simp +zetaDelta)
    | split

theorem execStageCancel_keeps (pg : Nat) (req : Option (List Byte)) (respOk : Bool) (s : State) : Keeps (queueOf s) (execStageCancel pg req respOk s) := by
  unfold execStageCancel
  refine mailRow_keeps _ _ _ _ _ _ _ ?_
  intro s c
  repeat' first
    | with_reducible rfl
    | (simp +zetaDelta [foldl_queue, foldl_snd_queue, foldl_fst_queue, pending_eq_queue]; done)
    | (with_reducible rw [foldl_queue])
    | (rw [pending_eq_queue])
    | (with_reducible exact hereFront_queue _ _ _ _ _ (by assumption))
    | (with_reducible refine withPart_queue _ _ _ _ _ (fun _ => ?_))
    | (with_reducible refine withTile_queue _ _ _ _ _ (fun _ => ?_))
    | (with_reducible refine lotEnded_queue _ _ _ (fun _ => ?_))
    | (with_reducible refine stageCtx_queue _ _ _ (fun _ => ?_))
    | (with_reducible refine stageMod_queue _ _ _ ?_)
    | (with_reducible refine stageMask_queue _ _ _ (fun _ => ?_))
    | (simp only [])
    | (with_reducible refine queue_ite _ _ _ _ ?_ ?_)
    | (with_reducible refine queue_ite_fst _ _ _ _ ?_ ?_)
    | (with_reducible refine queue_ite_snd _ _ _ _ ?_ ?_)
    | (with_reducible refine keeps_ite _ _ _ _ ?_ ?_)
    | (intro _ _)
    | (simp +zetaDelta)
    | split

theorem execStageQuery_keeps (pg : Nat) (req : Option (List Byte)) (respOk : Bool) (s : State) : Keeps (queueOf s) (execStageQuery pg req respOk s) := by
  unfold execStageQuery
  refine mailRow_keeps _ _ _ _ _ _ _ ?_
  intro s c
  repeat' first
    | with_reducible rfl
    | (simp +zetaDelta [foldl_queue, foldl_snd_queue, foldl_fst_queue, pending_eq_queue]; done)
    | (with_reducible rw [foldl_queue])
    | (rw [pending_eq_queue])
    | (with_reducible exact hereFront_queue _ _ _ _ _ (by assumption))
    | (with_reducible refine withPart_queue _ _ _ _ _ (fun _ => ?_))
    | (with_reducible refine withTile_queue _ _ _ _ _ (fun _ => ?_))
    | (with_reducible refine lotEnded_queue _ _ _ (fun _ => ?_))
    | (with_reducible refine stageCtx_queue _ _ _ (fun _ => ?_))
    | (with_reducible refine stageMod_queue _ _ _ ?_)
    | (with_reducible refine stageMask_queue _ _ _ (fun _ => ?_))
    | (simp only [])
    | (with_reducible refine queue_ite _ _ _ _ ?_ ?_)
    | (with_reducible refine queue_ite_fst _ _ _ _ ?_ ?_)
    | (with_reducible refine queue_ite_snd _ _ _ _ ?_ ?_)
    | (with_reducible refine keeps_ite _ _ _ _ ?_ ?_)
    | (intro _ _)
    | (simp +zetaDelta)
    | split

theorem execCtxScanOut_keeps (pg : Nat) (req : Option (List Byte)) (respOk : Bool) (s : State) : Keeps (queueOf s) (execCtxScanOut pg req respOk s) := by
  unfold execCtxScanOut
  refine mailRow_keeps _ _ _ _ _ _ _ ?_
  intro s c
  repeat' first
    | with_reducible rfl
    | (simp +zetaDelta [foldl_queue, foldl_snd_queue, foldl_fst_queue, pending_eq_queue]; done)
    | (with_reducible rw [foldl_queue])
    | (rw [pending_eq_queue])
    | (with_reducible exact hereFront_queue _ _ _ _ _ (by assumption))
    | (with_reducible refine withPart_queue _ _ _ _ _ (fun _ => ?_))
    | (with_reducible refine withTile_queue _ _ _ _ _ (fun _ => ?_))
    | (with_reducible refine lotEnded_queue _ _ _ (fun _ => ?_))
    | (with_reducible refine stageCtx_queue _ _ _ (fun _ => ?_))
    | (with_reducible refine stageMod_queue _ _ _ ?_)
    | (with_reducible refine stageMask_queue _ _ _ (fun _ => ?_))
    | (simp only [])
    | (with_reducible refine queue_ite _ _ _ _ ?_ ?_)
    | (with_reducible refine queue_ite_fst _ _ _ _ ?_ ?_)
    | (with_reducible refine queue_ite_snd _ _ _ _ ?_ ?_)
    | (with_reducible refine keeps_ite _ _ _ _ ?_ ?_)
    | (intro _ _)
    | (simp +zetaDelta)
    | split

theorem execCtxScanIn_keeps (pg : Nat) (req : Option (List Byte)) (respOk : Bool) (s : State) : Keeps (queueOf s) (execCtxScanIn pg req respOk s) := by
  unfold execCtxScanIn
  refine mailRow_keeps _ _ _ _ _ _ _ ?_
  intro s c
  repeat' first
    | with_reducible rfl
    | (simp +zetaDelta [foldl_queue, foldl_snd_queue, foldl_fst_queue, pending_eq_queue]; done)
    | (with_reducible rw [foldl_queue])
    | (rw [pending_eq_queue])
    | (with_reducible exact hereFront_queue _ _ _ _ _ (by assumption))
    | (with_reducible refine withPart_queue _ _ _ _ _ (fun _ => ?_))
    | (with_reducible refine withTile_queue _ _ _ _ _ (fun _ => ?_))
    | (with_reducible refine lotEnded_queue _ _ _ (fun _ => ?_))
    | (with_reducible refine stageCtx_queue _ _ _ (fun _ => ?_))
    | (with_reducible refine stageMod_queue _ _ _ ?_)
    | (with_reducible refine stageMask_queue _ _ _ (fun _ => ?_))
    | (simp only [])
    | (with_reducible refine queue_ite _ _ _ _ ?_ ?_)
    | (with_reducible refine queue_ite_fst _ _ _ _ ?_ ?_)
    | (with_reducible refine queue_ite_snd _ _ _ _ ?_ ?_)
    | (with_reducible refine keeps_ite _ _ _ _ ?_ ?_)
    | (intro _ _)
    | (simp +zetaDelta)
    | split

theorem execCtxReset_keeps (pg : Nat) (req : Option (List Byte)) (respOk : Bool) (s : State) : Keeps (queueOf s) (execCtxReset pg req respOk s) := by
  unfold execCtxReset
  refine mailRow_keeps _ _ _ _ _ _ _ ?_
  intro s c
  repeat' first
    | with_reducible rfl
    | (simp +zetaDelta [foldl_queue, foldl_snd_queue, foldl_fst_queue, pending_eq_queue]; done)
    | (with_reducible rw [foldl_queue])
    | (rw [pending_eq_queue])
    | (with_reducible exact hereFront_queue _ _ _ _ _ (by assumption))
    | (with_reducible refine withPart_queue _ _ _ _ _ (fun _ => ?_))
    | (with_reducible refine withTile_queue _ _ _ _ _ (fun _ => ?_))
    | (with_reducible refine lotEnded_queue _ _ _ (fun _ => ?_))
    | (with_reducible refine stageCtx_queue _ _ _ (fun _ => ?_))
    | (with_reducible refine stageMod_queue _ _ _ ?_)
    | (with_reducible refine stageMask_queue _ _ _ (fun _ => ?_))
    | (simp only [])
    | (with_reducible refine queue_ite _ _ _ _ ?_ ?_)
    | (with_reducible refine queue_ite_fst _ _ _ _ ?_ ?_)
    | (with_reducible refine queue_ite_snd _ _ _ _ ?_ ?_)
    | (with_reducible refine keeps_ite _ _ _ _ ?_ ?_)
    | (intro _ _)
    | (simp +zetaDelta)
    | split

end Sys2Proof.Machine
end

