-- ==== Sys2Proof/Laws/QueueJ.lean ====
section
/-! SUPPORT. The operations and commands of MailMnt, Assay, MailDbg keep the queue. -/

set_option linter.unusedSimpArgs false
set_option linter.unusedVariables false
set_option linter.unreachableTactic false
set_option linter.unusedTactic false

namespace Sys2Proof.Machine

/-! ## Sys2Proof/Machine/MailMnt.lean -/

@[simp ↓] theorem mntStackTest_queue (s : State) (c : MCmd) :
    (queueOf ((mntStackTest s c).st)) = (queueOf s) := by
  unfold mntStackTest
  repeat' first
    | with_reducible rfl
    | (simp +zetaDelta [foldl_queue, foldl_snd_queue, foldl_fst_queue, pending_eq_queue]; done)
    | (with_reducible rw [foldl_queue])
    | (rw [pending_eq_queue])
    | (with_reducible exact hereFront_queue _ _ _ _ _ (by assumption))
    | (with_reducible refine withPart_queue _ _ _ _ _ (fun _ => ?_))
    | (with_reducible refine withTile_queue _ _ _ _ _ (fun _ => ?_))
    | (with_reducible refine lotEnded_queue _ _ _ (fun _ => ?_))
    | (with_reducible refine stageCtx_queue _ _ _ (fun _ => ?_))
    | (with_reducible refine stageMod_queue _ _ _ ?_)
    | (with_reducible refine stageMask_queue _ _ _ (fun _ => ?_))
    | (with_reducible exact takeRegs_queue _ _ _ _ (by assumption))
    | (with_reducible refine opNamed_queue _ _ _ (fun _ => ?_))
    | (with_reducible refine dbgTile_queue _ _ _ (fun _ => ?_))
    | (simp only [])
    | (with_reducible refine queue_ite _ _ _ _ ?_ ?_)
    | (with_reducible refine queue_ite_fst _ _ _ _ ?_ ?_)
    | (with_reducible refine queue_ite_snd _ _ _ _ ?_ ?_)
    | (with_reducible refine keeps_ite _ _ _ _ ?_ ?_)
    | (intro _ _)
    | (simp +zetaDelta)
    | split

@[simp ↓] theorem mntScrubStacks_queue (s : State) (c : MCmd) :
    (queueOf ((mntScrubStacks s c).st)) = (queueOf s) := by
  unfold mntScrubStacks
  repeat' first
    | with_reducible rfl
    | (simp +zetaDelta [foldl_queue, foldl_snd_queue, foldl_fst_queue, pending_eq_queue]; done)
    | (with_reducible rw [foldl_queue])
    | (rw [pending_eq_queue])
    | (with_reducible exact hereFront_queue _ _ _ _ _ (by assumption))
    | (with_reducible refine withPart_queue _ _ _ _ _ (fun _ => ?_))
    | (with_reducible refine withTile_queue _ _ _ _ _ (fun _ => ?_))
    | (with_reducible refine lotEnded_queue _ _ _ (fun _ => ?_))
    | (with_reducible refine stageCtx_queue _ _ _ (fun _ => ?_))
    | (with_reducible refine stageMod_queue _ _ _ ?_)
    | (with_reducible refine stageMask_queue _ _ _ (fun _ => ?_))
    | (with_reducible exact takeRegs_queue _ _ _ _ (by assumption))
    | (with_reducible refine opNamed_queue _ _ _ (fun _ => ?_))
    | (with_reducible refine dbgTile_queue _ _ _ (fun _ => ?_))
    | (simp only [])
    | (with_reducible refine queue_ite _ _ _ _ ?_ ?_)
    | (with_reducible refine queue_ite_fst _ _ _ _ ?_ ?_)
    | (with_reducible refine queue_ite_snd _ _ _ _ ?_ ?_)
    | (with_reducible refine keeps_ite _ _ _ _ ?_ ?_)
    | (intro _ _)
    | (simp +zetaDelta)
    | split

@[simp ↓] theorem mntScrubTiles_queue (s : State) (c : MCmd) :
    (queueOf ((mntScrubTiles s c).st)) = (queueOf s) := by
  unfold mntScrubTiles
  repeat' first
    | with_reducible rfl
    | (simp +zetaDelta [foldl_queue, foldl_snd_queue, foldl_fst_queue, pending_eq_queue]; done)
    | (with_reducible rw [foldl_queue])
    | (rw [pending_eq_queue])
    | (with_reducible exact hereFront_queue _ _ _ _ _ (by assumption))
    | (with_reducible refine withPart_queue _ _ _ _ _ (fun _ => ?_))
    | (with_reducible refine withTile_queue _ _ _ _ _ (fun _ => ?_))
    | (with_reducible refine lotEnded_queue _ _ _ (fun _ => ?_))
    | (with_reducible refine stageCtx_queue _ _ _ (fun _ => ?_))
    | (with_reducible refine stageMod_queue _ _ _ ?_)
    | (with_reducible refine stageMask_queue _ _ _ (fun _ => ?_))
    | (with_reducible exact takeRegs_queue _ _ _ _ (by assumption))
    | (with_reducible refine opNamed_queue _ _ _ (fun _ => ?_))
    | (with_reducible refine dbgTile_queue _ _ _ (fun _ => ?_))
    | (simp only [])
    | (with_reducible refine queue_ite _ _ _ _ ?_ ?_)
    | (with_reducible refine queue_ite_fst _ _ _ _ ?_ ?_)
    | (with_reducible refine queue_ite_snd _ _ _ _ ?_ ?_)
    | (with_reducible refine keeps_ite _ _ _ _ ?_ ?_)
    | (intro _ _)
    | (simp +zetaDelta)
    | split

@[simp ↓] theorem mntFwUpdate_queue (ver sec : Nat) (s : State) (c : MCmd) :
    (queueOf ((mntFwUpdate ver sec s c).st)) = (queueOf s) := by
  unfold mntFwUpdate
  repeat' first
    | with_reducible rfl
    | (simp +zetaDelta [foldl_queue, foldl_snd_queue, foldl_fst_queue, pending_eq_queue]; done)
    | (with_reducible rw [foldl_queue])
    | (rw [pending_eq_queue])
    | (with_reducible exact hereFront_queue _ _ _ _ _ (by assumption))
    | (with_reducible refine withPart_queue _ _ _ _ _ (fun _ => ?_))
    | (with_reducible refine withTile_queue _ _ _ _ _ (fun _ => ?_))
    | (with_reducible refine lotEnded_queue _ _ _ (fun _ => ?_))
    | (with_reducible refine stageCtx_queue _ _ _ (fun _ => ?_))
    | (with_reducible refine stageMod_queue _ _ _ ?_)
    | (with_reducible refine stageMask_queue _ _ _ (fun _ => ?_))
    | (with_reducible exact takeRegs_queue _ _ _ _ (by assumption))
    | (with_reducible refine opNamed_queue _ _ _ (fun _ => ?_))
    | (with_reducible refine dbgTile_queue _ _ _ (fun _ => ?_))
    | (simp only [])
    | (with_reducible refine queue_ite _ _ _ _ ?_ ?_)
    | (with_reducible refine queue_ite_fst _ _ _ _ ?_ ?_)
    | (with_reducible refine queue_ite_snd _ _ _ _ ?_ ?_)
    | (with_reducible refine keeps_ite _ _ _ _ ?_ ?_)
    | (intro _ _)
    | (simp +zetaDelta)
    | split

@[simp ↓] theorem mntLinkQual_queue (s : State) (c : MCmd) :
    (queueOf ((mntLinkQual s c).st)) = (queueOf s) := by
  unfold mntLinkQual
  repeat' first
    | with_reducible rfl
    | (simp +zetaDelta [foldl_queue, foldl_snd_queue, foldl_fst_queue, pending_eq_queue]; done)
    | (with_reducible rw [foldl_queue])
    | (rw [pending_eq_queue])
    | (with_reducible exact hereFront_queue _ _ _ _ _ (by assumption))
    | (with_reducible refine withPart_queue _ _ _ _ _ (fun _ => ?_))
    | (with_reducible refine withTile_queue _ _ _ _ _ (fun _ => ?_))
    | (with_reducible refine lotEnded_queue _ _ _ (fun _ => ?_))
    | (with_reducible refine stageCtx_queue _ _ _ (fun _ => ?_))
    | (with_reducible refine stageMod_queue _ _ _ ?_)
    | (with_reducible refine stageMask_queue _ _ _ (fun _ => ?_))
    | (with_reducible exact takeRegs_queue _ _ _ _ (by assumption))
    | (with_reducible refine opNamed_queue _ _ _ (fun _ => ?_))
    | (with_reducible refine dbgTile_queue _ _ _ (fun _ => ?_))
    | (simp only [])
    | (with_reducible refine queue_ite _ _ _ _ ?_ ?_)
    | (with_reducible refine queue_ite_fst _ _ _ _ ?_ ?_)
    | (with_reducible refine queue_ite_snd _ _ _ _ ?_ ?_)
    | (with_reducible refine keeps_ite _ _ _ _ ?_ ?_)
    | (intro _ _)
    | (simp +zetaDelta)
    | split

@[simp ↓] theorem mntSpareMap_queue (s : State) (c : MCmd) :
    (queueOf ((mntSpareMap s c).st)) = (queueOf s) := by
  unfold mntSpareMap
  repeat' first
    | with_reducible rfl
    | (simp +zetaDelta [foldl_queue, foldl_snd_queue, foldl_fst_queue, pending_eq_queue]; done)
    | (with_reducible rw [foldl_queue])
    | (rw [pending_eq_queue])
    | (with_reducible exact hereFront_queue _ _ _ _ _ (by assumption))
    | (with_reducible refine withPart_queue _ _ _ _ _ (fun _ => ?_))
    | (with_reducible refine withTile_queue _ _ _ _ _ (fun _ => ?_))
    | (with_reducible refine lotEnded_queue _ _ _ (fun _ => ?_))
    | (with_reducible refine stageCtx_queue _ _ _ (fun _ => ?_))
    | (with_reducible refine stageMod_queue _ _ _ ?_)
    | (with_reducible refine stageMask_queue _ _ _ (fun _ => ?_))
    | (with_reducible exact takeRegs_queue _ _ _ _ (by assumption))
    | (with_reducible refine opNamed_queue _ _ _ (fun _ => ?_))
    | (with_reducible refine dbgTile_queue _ _ _ (fun _ => ?_))
    | (simp only [])
    | (with_reducible refine queue_ite _ _ _ _ ?_ ?_)
    | (with_reducible refine queue_ite_fst _ _ _ _ ?_ ?_)
    | (with_reducible refine queue_ite_snd _ _ _ _ ?_ ?_)
    | (with_reducible refine keeps_ite _ _ _ _ ?_ ?_)
    | (intro _ _)
    | (simp +zetaDelta)
    | split

@[simp ↓] theorem mntLedger_queue (s : State) (c : MCmd) :
    (queueOf ((mntLedger s c).st)) = (queueOf s) := by
  unfold mntLedger
  repeat' first
    | with_reducible rfl
    | (simp +zetaDelta [foldl_queue, foldl_snd_queue, foldl_fst_queue, pending_eq_queue]; done)
    | (with_reducible rw [foldl_queue])
    | (rw [pending_eq_queue])
    | (with_reducible exact hereFront_queue _ _ _ _ _ (by assumption))
    | (with_reducible refine withPart_queue _ _ _ _ _ (fun _ => ?_))
    | (with_reducible refine withTile_queue _ _ _ _ _ (fun _ => ?_))
    | (with_reducible refine lotEnded_queue _ _ _ (fun _ => ?_))
    | (with_reducible refine stageCtx_queue _ _ _ (fun _ => ?_))
    | (with_reducible refine stageMod_queue _ _ _ ?_)
    | (with_reducible refine stageMask_queue _ _ _ (fun _ => ?_))
    | (with_reducible exact takeRegs_queue _ _ _ _ (by assumption))
    | (with_reducible refine opNamed_queue _ _ _ (fun _ => ?_))
    | (with_reducible refine dbgTile_queue _ _ _ (fun _ => ?_))
    | (simp only [])
    | (with_reducible refine queue_ite _ _ _ _ ?_ ?_)
    | (with_reducible refine queue_ite_fst _ _ _ _ ?_ ?_)
    | (with_reducible refine queue_ite_snd _ _ _ _ ?_ ?_)
    | (with_reducible refine keeps_ite _ _ _ _ ?_ ?_)
    | (intro _ _)
    | (simp +zetaDelta)
    | split

@[simp ↓] theorem mntRepairLedger_queue (s : State) (c : MCmd) :
    (queueOf ((mntRepairLedger s c).st)) = (queueOf s) := by
  unfold mntRepairLedger
  repeat' first
    | with_reducible rfl
    | (simp +zetaDelta [foldl_queue, foldl_snd_queue, foldl_fst_queue, pending_eq_queue]; done)
    | (with_reducible rw [foldl_queue])
    | (rw [pending_eq_queue])
    | (with_reducible exact hereFront_queue _ _ _ _ _ (by assumption))
    | (with_reducible refine withPart_queue _ _ _ _ _ (fun _ => ?_))
    | (with_reducible refine withTile_queue _ _ _ _ _ (fun _ => ?_))
    | (with_reducible refine lotEnded_queue _ _ _ (fun _ => ?_))
    | (with_reducible refine stageCtx_queue _ _ _ (fun _ => ?_))
    | (with_reducible refine stageMod_queue _ _ _ ?_)
    | (with_reducible refine stageMask_queue _ _ _ (fun _ => ?_))
    | (with_reducible exact takeRegs_queue _ _ _ _ (by assumption))
    | (with_reducible refine opNamed_queue _ _ _ (fun _ => ?_))
    | (with_reducible refine dbgTile_queue _ _ _ (fun _ => ?_))
    | (simp only [])
    | (with_reducible refine queue_ite _ _ _ _ ?_ ?_)
    | (with_reducible refine queue_ite_fst _ _ _ _ ?_ ?_)
    | (with_reducible refine queue_ite_snd _ _ _ _ ?_ ?_)
    | (with_reducible refine keeps_ite _ _ _ _ ?_ ?_)
    | (intro _ _)
    | (simp +zetaDelta)
    | split

@[simp ↓] theorem mntAssay_queue (s : State) (c : MCmd) :
    (queueOf ((mntAssay s c).st)) = (queueOf s) := by
  unfold mntAssay
  repeat' first
    | with_reducible rfl
    | (simp +zetaDelta [foldl_queue, foldl_snd_queue, foldl_fst_queue, pending_eq_queue]; done)
    | (with_reducible rw [foldl_queue])
    | (rw [pending_eq_queue])
    | (with_reducible exact hereFront_queue _ _ _ _ _ (by assumption))
    | (with_reducible refine withPart_queue _ _ _ _ _ (fun _ => ?_))
    | (with_reducible refine withTile_queue _ _ _ _ _ (fun _ => ?_))
    | (with_reducible refine lotEnded_queue _ _ _ (fun _ => ?_))
    | (with_reducible refine stageCtx_queue _ _ _ (fun _ => ?_))
    | (with_reducible refine stageMod_queue _ _ _ ?_)
    | (with_reducible refine stageMask_queue _ _ _ (fun _ => ?_))
    | (with_reducible exact takeRegs_queue _ _ _ _ (by assumption))
    | (with_reducible refine opNamed_queue _ _ _ (fun _ => ?_))
    | (with_reducible refine dbgTile_queue _ _ _ (fun _ => ?_))
    | (simp only [])
    | (with_reducible refine queue_ite _ _ _ _ ?_ ?_)
    | (with_reducible refine queue_ite_fst _ _ _ _ ?_ ?_)
    | (with_reducible refine queue_ite_snd _ _ _ _ ?_ ?_)
    | (with_reducible refine keeps_ite _ _ _ _ ?_ ?_)
    | (intro _ _)
    | (simp +zetaDelta)
    | split

@[simp ↓] theorem opAnswer_queue (a : Ans) (h : Nat) : (queueOf ((opAnswer a h).st)) = (queueOf (a.st)) := Eq.trans rfl rfl

theorem opNamed_queue (s : State) (c : MCmd) (f : Op → Ans) (h : ∀ l, (queueOf ((f l).st)) = (queueOf s)) :
    (queueOf ((opNamed s c f).st)) = (queueOf s) := by
  unfold opNamed
  repeat' split
  all_goals simp [h]

@[simp ↓] theorem opState_queue (s : State) (o : Op) (st : Nat) :
    (queueOf (opState s o st)) = (queueOf s) := by
  unfold opState
  repeat' first
    | with_reducible rfl
    | (simp +zetaDelta [foldl_queue, foldl_snd_queue, foldl_fst_queue, pending_eq_queue]; done)
    | (with_reducible rw [foldl_queue])
    | (rw [pending_eq_queue])
    | (with_reducible exact hereFront_queue _ _ _ _ _ (by assumption))
    | (with_reducible refine withPart_queue _ _ _ _ _ (fun _ => ?_))
    | (with_reducible refine withTile_queue _ _ _ _ _ (fun _ => ?_))
    | (with_reducible refine lotEnded_queue _ _ _ (fun _ => ?_))
    | (with_reducible refine stageCtx_queue _ _ _ (fun _ => ?_))
    | (with_reducible refine stageMod_queue _ _ _ ?_)
    | (with_reducible refine stageMask_queue _ _ _ (fun _ => ?_))
    | (with_reducible exact takeRegs_queue _ _ _ _ (by assumption))
    | (with_reducible refine opNamed_queue _ _ _ (fun _ => ?_))
    | (with_reducible refine dbgTile_queue _ _ _ (fun _ => ?_))
    | (simp only [])
    | (with_reducible refine queue_ite _ _ _ _ ?_ ?_)
    | (with_reducible refine queue_ite_fst _ _ _ _ ?_ ?_)
    | (with_reducible refine queue_ite_snd _ _ _ _ ?_ ?_)
    | (with_reducible refine keeps_ite _ _ _ _ ?_ ?_)
    | (intro _ _)
    | (simp +zetaDelta)
    | split

@[simp ↓] theorem opStatusCmd_queue (s : State) (c : MCmd) :
    (queueOf ((opStatusCmd s c).st)) = (queueOf s) := by
  unfold opStatusCmd
  repeat' first
    | with_reducible rfl
    | (simp +zetaDelta [foldl_queue, foldl_snd_queue, foldl_fst_queue, pending_eq_queue]; done)
    | (with_reducible rw [foldl_queue])
    | (rw [pending_eq_queue])
    | (with_reducible exact hereFront_queue _ _ _ _ _ (by assumption))
    | (with_reducible refine withPart_queue _ _ _ _ _ (fun _ => ?_))
    | (with_reducible refine withTile_queue _ _ _ _ _ (fun _ => ?_))
    | (with_reducible refine lotEnded_queue _ _ _ (fun _ => ?_))
    | (with_reducible refine stageCtx_queue _ _ _ (fun _ => ?_))
    | (with_reducible refine stageMod_queue _ _ _ ?_)
    | (with_reducible refine stageMask_queue _ _ _ (fun _ => ?_))
    | (with_reducible exact takeRegs_queue _ _ _ _ (by assumption))
    | (with_reducible refine opNamed_queue _ _ _ (fun _ => ?_))
    | (with_reducible refine dbgTile_queue _ _ _ (fun _ => ?_))
    | (simp only [])
    | (with_reducible refine queue_ite _ _ _ _ ?_ ?_)
    | (with_reducible refine queue_ite_fst _ _ _ _ ?_ ?_)
    | (with_reducible refine queue_ite_snd _ _ _ _ ?_ ?_)
    | (with_reducible refine keeps_ite _ _ _ _ ?_ ?_)
    | (intro _ _)
    | (simp +zetaDelta)
    | split

@[simp ↓] theorem opSuspend_queue (s : State) (c : MCmd) :
    (queueOf ((opSuspend s c).st)) = (queueOf s) := by
  unfold opSuspend
  repeat' first
    | with_reducible rfl
    | (simp +zetaDelta [foldl_queue, foldl_snd_queue, foldl_fst_queue, pending_eq_queue]; done)
    | (with_reducible rw [foldl_queue])
    | (rw [pending_eq_queue])
    | (with_reducible exact hereFront_queue _ _ _ _ _ (by assumption))
    | (with_reducible refine withPart_queue _ _ _ _ _ (fun _ => ?_))
    | (with_reducible refine withTile_queue _ _ _ _ _ (fun _ => ?_))
    | (with_reducible refine lotEnded_queue _ _ _ (fun _ => ?_))
    | (with_reducible refine stageCtx_queue _ _ _ (fun _ => ?_))
    | (with_reducible refine stageMod_queue _ _ _ ?_)
    | (with_reducible refine stageMask_queue _ _ _ (fun _ => ?_))
    | (with_reducible exact takeRegs_queue _ _ _ _ (by assumption))
    | (with_reducible refine opNamed_queue _ _ _ (fun _ => ?_))
    | (with_reducible refine dbgTile_queue _ _ _ (fun _ => ?_))
    | (simp only [])
    | (with_reducible refine queue_ite _ _ _ _ ?_ ?_)
    | (with_reducible refine queue_ite_fst _ _ _ _ ?_ ?_)
    | (with_reducible refine queue_ite_snd _ _ _ _ ?_ ?_)
    | (with_reducible refine keeps_ite _ _ _ _ ?_ ?_)
    | (intro _ _)
    | (simp +zetaDelta)
    | split

@[simp ↓] theorem opResume_queue (s : State) (c : MCmd) :
    (queueOf ((opResume s c).st)) = (queueOf s) := by
  unfold opResume
  repeat' first
    | with_reducible rfl
    | (simp +zetaDelta [foldl_queue, foldl_snd_queue, foldl_fst_queue, pending_eq_queue]; done)
    | (with_reducible rw [foldl_queue])
    | (rw [pending_eq_queue])
    | (with_reducible exact hereFront_queue _ _ _ _ _ (by assumption))
    | (with_reducible refine withPart_queue _ _ _ _ _ (fun _ => ?_))
    | (with_reducible refine withTile_queue _ _ _ _ _ (fun _ => ?_))
    | (with_reducible refine lotEnded_queue _ _ _ (fun _ => ?_))
    | (with_reducible refine stageCtx_queue _ _ _ (fun _ => ?_))
    | (with_reducible refine stageMod_queue _ _ _ ?_)
    | (with_reducible refine stageMask_queue _ _ _ (fun _ => ?_))
    | (with_reducible exact takeRegs_queue _ _ _ _ (by assumption))
    | (with_reducible refine opNamed_queue _ _ _ (fun _ => ?_))
    | (with_reducible refine dbgTile_queue _ _ _ (fun _ => ?_))
    | (simp only [])
    | (with_reducible refine queue_ite _ _ _ _ ?_ ?_)
    | (with_reducible refine queue_ite_fst _ _ _ _ ?_ ?_)
    | (with_reducible refine queue_ite_snd _ _ _ _ ?_ ?_)
    | (with_reducible refine keeps_ite _ _ _ _ ?_ ?_)
    | (intro _ _)
    | (simp +zetaDelta)
    | split

@[simp ↓] theorem opList_queue (s : State) (c : MCmd) :
    (queueOf ((opList s c).st)) = (queueOf s) := by
  unfold opList
  repeat' first
    | with_reducible rfl
    | (simp +zetaDelta [foldl_queue, foldl_snd_queue, foldl_fst_queue, pending_eq_queue]; done)
    | (with_reducible rw [foldl_queue])
    | (rw [pending_eq_queue])
    | (with_reducible exact hereFront_queue _ _ _ _ _ (by assumption))
    | (with_reducible refine withPart_queue _ _ _ _ _ (fun _ => ?_))
    | (with_reducible refine withTile_queue _ _ _ _ _ (fun _ => ?_))
    | (with_reducible refine lotEnded_queue _ _ _ (fun _ => ?_))
    | (with_reducible refine stageCtx_queue _ _ _ (fun _ => ?_))
    | (with_reducible refine stageMod_queue _ _ _ ?_)
    | (with_reducible refine stageMask_queue _ _ _ (fun _ => ?_))
    | (with_reducible exact takeRegs_queue _ _ _ _ (by assumption))
    | (with_reducible refine opNamed_queue _ _ _ (fun _ => ?_))
    | (with_reducible refine dbgTile_queue _ _ _ (fun _ => ?_))
    | (simp only [])
    | (with_reducible refine queue_ite _ _ _ _ ?_ ?_)
    | (with_reducible refine queue_ite_fst _ _ _ _ ?_ ?_)
    | (with_reducible refine queue_ite_snd _ _ _ _ ?_ ?_)
    | (with_reducible refine keeps_ite _ _ _ _ ?_ ?_)
    | (intro _ _)
    | (simp +zetaDelta)
    | split

@[simp ↓] theorem loadUnit_queue (h n : Nat) (s : State) (e : List Byte) :
    (queueOf (loadUnit h n s e)) = (queueOf s) := by
  unfold loadUnit
  repeat' first
    | with_reducible rfl
    | (simp +zetaDelta [foldl_queue, foldl_snd_queue, foldl_fst_queue, pending_eq_queue]; done)
    | (with_reducible rw [foldl_queue])
    | (rw [pending_eq_queue])
    | (with_reducible exact hereFront_queue _ _ _ _ _ (by assumption))
    | (with_reducible refine withPart_queue _ _ _ _ _ (fun _ => ?_))
    | (with_reducible refine withTile_queue _ _ _ _ _ (fun _ => ?_))
    | (with_reducible refine lotEnded_queue _ _ _ (fun _ => ?_))
    | (with_reducible refine stageCtx_queue _ _ _ (fun _ => ?_))
    | (with_reducible refine stageMod_queue _ _ _ ?_)
    | (with_reducible refine stageMask_queue _ _ _ (fun _ => ?_))
    | (with_reducible exact takeRegs_queue _ _ _ _ (by assumption))
    | (with_reducible refine opNamed_queue _ _ _ (fun _ => ?_))
    | (with_reducible refine dbgTile_queue _ _ _ (fun _ => ?_))
    | (simp only [])
    | (with_reducible refine queue_ite _ _ _ _ ?_ ?_)
    | (with_reducible refine queue_ite_fst _ _ _ _ ?_ ?_)
    | (with_reducible refine queue_ite_snd _ _ _ _ ?_ ?_)
    | (with_reducible refine keeps_ite _ _ _ _ ?_ ?_)
    | (intro _ _)
    | (simp +zetaDelta)
    | split

@[simp ↓] theorem testRow_queue (h : Nat) (s : State) (r : Nat × Nat × Bool) :
    (queueOf (testRow h s r)) = (queueOf s) := by
  unfold testRow
  repeat' first
    | with_reducible rfl
    | (simp +zetaDelta [foldl_queue, foldl_snd_queue, foldl_fst_queue, pending_eq_queue]; done)
    | (with_reducible rw [foldl_queue])
    | (rw [pending_eq_queue])
    | (with_reducible exact hereFront_queue _ _ _ _ _ (by assumption))
    | (with_reducible refine withPart_queue _ _ _ _ _ (fun _ => ?_))
    | (with_reducible refine withTile_queue _ _ _ _ _ (fun _ => ?_))
    | (with_reducible refine lotEnded_queue _ _ _ (fun _ => ?_))
    | (with_reducible refine stageCtx_queue _ _ _ (fun _ => ?_))
    | (with_reducible refine stageMod_queue _ _ _ ?_)
    | (with_reducible refine stageMask_queue _ _ _ (fun _ => ?_))
    | (with_reducible exact takeRegs_queue _ _ _ _ (by assumption))
    | (with_reducible refine opNamed_queue _ _ _ (fun _ => ?_))
    | (with_reducible refine dbgTile_queue _ _ _ (fun _ => ?_))
    | (simp only [])
    | (with_reducible refine queue_ite _ _ _ _ ?_ ?_)
    | (with_reducible refine queue_ite_fst _ _ _ _ ?_ ?_)
    | (with_reducible refine queue_ite_snd _ _ _ _ ?_ ?_)
    | (with_reducible refine keeps_ite _ _ _ _ ?_ ?_)
    | (intro _ _)
    | (simp +zetaDelta)
    | split

@[simp ↓] theorem scrubUnit_queue (mask : Nat) (s : State) (b : Nat × List Nat × List Nat) :
    (queueOf (scrubUnit mask s b)) = (queueOf s) := by
  unfold scrubUnit
  repeat' first
    | with_reducible rfl
    | (simp +zetaDelta [foldl_queue, foldl_snd_queue, foldl_fst_queue, pending_eq_queue]; done)
    | (with_reducible rw [foldl_queue])
    | (rw [pending_eq_queue])
    | (with_reducible exact hereFront_queue _ _ _ _ _ (by assumption))
    | (with_reducible refine withPart_queue _ _ _ _ _ (fun _ => ?_))
    | (with_reducible refine withTile_queue _ _ _ _ _ (fun _ => ?_))
    | (with_reducible refine lotEnded_queue _ _ _ (fun _ => ?_))
    | (with_reducible refine stageCtx_queue _ _ _ (fun _ => ?_))
    | (with_reducible refine stageMod_queue _ _ _ ?_)
    | (with_reducible refine stageMask_queue _ _ _ (fun _ => ?_))
    | (with_reducible exact takeRegs_queue _ _ _ _ (by assumption))
    | (with_reducible refine opNamed_queue _ _ _ (fun _ => ?_))
    | (with_reducible refine dbgTile_queue _ _ _ (fun _ => ?_))
    | (simp only [])
    | (with_reducible refine queue_ite _ _ _ _ ?_ ?_)
    | (with_reducible refine queue_ite_fst _ _ _ _ ?_ ?_)
    | (with_reducible refine queue_ite_snd _ _ _ _ ?_ ?_)
    | (with_reducible refine keeps_ite _ _ _ _ ?_ ?_)
    | (intro _ _)
    | (simp +zetaDelta)
    | split

@[simp ↓] theorem scrubTile_queue (s : State) (p : Nat) :
    (queueOf (scrubTile s p)) = (queueOf s) := by
  unfold scrubTile
  repeat' first
    | with_reducible rfl
    | (simp +zetaDelta [foldl_queue, foldl_snd_queue, foldl_fst_queue, pending_eq_queue]; done)
    | (with_reducible rw [foldl_queue])
    | (rw [pending_eq_queue])
    | (with_reducible exact hereFront_queue _ _ _ _ _ (by assumption))
    | (with_reducible refine withPart_queue _ _ _ _ _ (fun _ => ?_))
    | (with_reducible refine withTile_queue _ _ _ _ _ (fun _ => ?_))
    | (with_reducible refine lotEnded_queue _ _ _ (fun _ => ?_))
    | (with_reducible refine stageCtx_queue _ _ _ (fun _ => ?_))
    | (with_reducible refine stageMod_queue _ _ _ ?_)
    | (with_reducible refine stageMask_queue _ _ _ (fun _ => ?_))
    | (with_reducible exact takeRegs_queue _ _ _ _ (by assumption))
    | (with_reducible refine opNamed_queue _ _ _ (fun _ => ?_))
    | (with_reducible refine dbgTile_queue _ _ _ (fun _ => ?_))
    | (simp only [])
    | (with_reducible refine queue_ite _ _ _ _ ?_ ?_)
    | (with_reducible refine queue_ite_fst _ _ _ _ ?_ ?_)
    | (with_reducible refine queue_ite_snd _ _ _ _ ?_ ?_)
    | (with_reducible refine keeps_ite _ _ _ _ ?_ ?_)
    | (intro _ _)
    | (simp +zetaDelta)
    | split

@[simp ↓] theorem opRun_queue (s : State) (o : Op) (k : Nat) (found : List (Nat × Nat × Bool)) (bolts : List (Nat × List Nat × List Nat)) :
    (queueOf (opRun s o k found bolts)) = (queueOf s) := by
  unfold opRun
  repeat' first
    | with_reducible rfl
    | (simp +zetaDelta [foldl_queue, foldl_snd_queue, foldl_fst_queue, pending_eq_queue]; done)
    | (with_reducible rw [foldl_queue])
    | (rw [pending_eq_queue])
    | (with_reducible exact hereFront_queue _ _ _ _ _ (by assumption))
    | (with_reducible refine withPart_queue _ _ _ _ _ (fun _ => ?_))
    | (with_reducible refine withTile_queue _ _ _ _ _ (fun _ => ?_))
    | (with_reducible refine lotEnded_queue _ _ _ (fun _ => ?_))
    | (with_reducible refine stageCtx_queue _ _ _ (fun _ => ?_))
    | (with_reducible refine stageMod_queue _ _ _ ?_)
    | (with_reducible refine stageMask_queue _ _ _ (fun _ => ?_))
    | (with_reducible exact takeRegs_queue _ _ _ _ (by assumption))
    | (with_reducible refine opNamed_queue _ _ _ (fun _ => ?_))
    | (with_reducible refine dbgTile_queue _ _ _ (fun _ => ?_))
    | (simp only [])
    | (with_reducible refine queue_ite _ _ _ _ ?_ ?_)
    | (with_reducible refine queue_ite_fst _ _ _ _ ?_ ?_)
    | (with_reducible refine queue_ite_snd _ _ _ _ ?_ ?_)
    | (with_reducible refine keeps_ite _ _ _ _ ?_ ?_)
    | (intro _ _)
    | (simp +zetaDelta)
    | split

@[simp ↓] theorem loadCut_queue (s : State) (o : Op) :
    (queueOf (loadCut s o)) = (queueOf s) := by
  unfold loadCut
  repeat' first
    | with_reducible rfl
    | (simp +zetaDelta [foldl_queue, foldl_snd_queue, foldl_fst_queue, pending_eq_queue]; done)
    | (with_reducible rw [foldl_queue])
    | (rw [pending_eq_queue])
    | (with_reducible exact hereFront_queue _ _ _ _ _ (by assumption))
    | (with_reducible refine withPart_queue _ _ _ _ _ (fun _ => ?_))
    | (with_reducible refine withTile_queue _ _ _ _ _ (fun _ => ?_))
    | (with_reducible refine lotEnded_queue _ _ _ (fun _ => ?_))
    | (with_reducible refine stageCtx_queue _ _ _ (fun _ => ?_))
    | (with_reducible refine stageMod_queue _ _ _ ?_)
    | (with_reducible refine stageMask_queue _ _ _ (fun _ => ?_))
    | (with_reducible exact takeRegs_queue _ _ _ _ (by assumption))
    | (with_reducible refine opNamed_queue _ _ _ (fun _ => ?_))
    | (with_reducible refine dbgTile_queue _ _ _ (fun _ => ?_))
    | (simp only [])
    | (with_reducible refine queue_ite _ _ _ _ ?_ ?_)
    | (with_reducible refine queue_ite_fst _ _ _ _ ?_ ?_)
    | (with_reducible refine queue_ite_snd _ _ _ _ ?_ ?_)
    | (with_reducible refine keeps_ite _ _ _ _ ?_ ?_)
    | (intro _ _)
    | (simp +zetaDelta)
    | split

@[simp ↓] theorem fwStore_queue (s : State) (o : Op) (ok : Bool) :
    (queueOf (fwStore s o ok)) = (queueOf s) := by
  unfold fwStore
  repeat' first
    | with_reducible rfl
    | (simp +zetaDelta [foldl_queue, foldl_snd_queue, foldl_fst_queue, pending_eq_queue]; done)
    | (with_reducible rw [foldl_queue])
    | (rw [pending_eq_queue])
    | (with_reducible exact hereFront_queue _ _ _ _ _ (by assumption))
    | (with_reducible refine withPart_queue _ _ _ _ _ (fun _ => ?_))
    | (with_reducible refine withTile_queue _ _ _ _ _ (fun _ => ?_))
    | (with_reducible refine lotEnded_queue _ _ _ (fun _ => ?_))
    | (with_reducible refine stageCtx_queue _ _ _ (fun _ => ?_))
    | (with_reducible refine stageMod_queue _ _ _ ?_)
    | (with_reducible refine stageMask_queue _ _ _ (fun _ => ?_))
    | (with_reducible exact takeRegs_queue _ _ _ _ (by assumption))
    | (with_reducible refine opNamed_queue _ _ _ (fun _ => ?_))
    | (with_reducible refine dbgTile_queue _ _ _ (fun _ => ?_))
    | (simp only [])
    | (with_reducible refine queue_ite _ _ _ _ ?_ ?_)
    | (with_reducible refine queue_ite_fst _ _ _ _ ?_ ?_)
    | (with_reducible refine queue_ite_snd _ _ _ _ ?_ ?_)
    | (with_reducible refine keeps_ite _ _ _ _ ?_ ?_)
    | (intro _ _)
    | (simp +zetaDelta)
    | split

@[simp ↓] theorem fwActivate_queue (s : State) (o : Op) :
    (queueOf (fwActivate s o)) = (queueOf s) := by
  unfold fwActivate
  repeat' first
    | with_reducible rfl
    | (simp +zetaDelta [foldl_queue, foldl_snd_queue, foldl_fst_queue, pending_eq_queue]; done)
    | (with_reducible rw [foldl_queue])
    | (rw [pending_eq_queue])
    | (with_reducible exact hereFront_queue _ _ _ _ _ (by assumption))
    | (with_reducible refine withPart_queue _ _ _ _ _ (fun _ => ?_))
    | (with_reducible refine withTile_queue _ _ _ _ _ (fun _ => ?_))
    | (with_reducible refine lotEnded_queue _ _ _ (fun _ => ?_))
    | (with_reducible refine stageCtx_queue _ _ _ (fun _ => ?_))
    | (with_reducible refine stageMod_queue _ _ _ ?_)
    | (with_reducible refine stageMask_queue _ _ _ (fun _ => ?_))
    | (with_reducible exact takeRegs_queue _ _ _ _ (by assumption))
    | (with_reducible refine opNamed_queue _ _ _ (fun _ => ?_))
    | (with_reducible refine dbgTile_queue _ _ _ (fun _ => ?_))
    | (simp only [])
    | (with_reducible refine queue_ite _ _ _ _ ?_ ?_)
    | (with_reducible refine queue_ite_fst _ _ _ _ ?_ ?_)
    | (with_reducible refine queue_ite_snd _ _ _ _ ?_ ?_)
    | (with_reducible refine keeps_ite _ _ _ _ ?_ ?_)
    | (intro _ _)
    | (simp +zetaDelta)
    | split

@[simp ↓] theorem opFinish_queue (s : State) (h st result : Nat) :
    (queueOf (opFinish s h st result)) = (queueOf s) := by
  unfold opFinish
  repeat' first
    | with_reducible rfl
    | (simp +zetaDelta [foldl_queue, foldl_snd_queue, foldl_fst_queue, pending_eq_queue]; done)
    | (with_reducible rw [foldl_queue])
    | (rw [pending_eq_queue])
    | (with_reducible exact hereFront_queue _ _ _ _ _ (by assumption))
    | (with_reducible refine withPart_queue _ _ _ _ _ (fun _ => ?_))
    | (with_reducible refine withTile_queue _ _ _ _ _ (fun _ => ?_))
    | (with_reducible refine lotEnded_queue _ _ _ (fun _ => ?_))
    | (with_reducible refine stageCtx_queue _ _ _ (fun _ => ?_))
    | (with_reducible refine stageMod_queue _ _ _ ?_)
    | (with_reducible refine stageMask_queue _ _ _ (fun _ => ?_))
    | (with_reducible exact takeRegs_queue _ _ _ _ (by assumption))
    | (with_reducible refine opNamed_queue _ _ _ (fun _ => ?_))
    | (with_reducible refine dbgTile_queue _ _ _ (fun _ => ?_))
    | (simp only [])
    | (with_reducible refine queue_ite _ _ _ _ ?_ ?_)
    | (with_reducible refine queue_ite_fst _ _ _ _ ?_ ?_)
    | (with_reducible refine queue_ite_snd _ _ _ _ ?_ ?_)
    | (with_reducible refine keeps_ite _ _ _ _ ?_ ?_)
    | (intro _ _)
    | (simp +zetaDelta)
    | split

@[simp ↓] theorem opCancelled_queue (s : State) (o : Op) :
    (queueOf (opCancelled s o)) = (queueOf s) := by
  unfold opCancelled
  repeat' first
    | with_reducible rfl
    | (simp +zetaDelta [foldl_queue, foldl_snd_queue, foldl_fst_queue, pending_eq_queue]; done)
    | (with_reducible rw [foldl_queue])
    | (rw [pending_eq_queue])
    | (with_reducible exact hereFront_queue _ _ _ _ _ (by assumption))
    | (with_reducible refine withPart_queue _ _ _ _ _ (fun _ => ?_))
    | (with_reducible refine withTile_queue _ _ _ _ _ (fun _ => ?_))
    | (with_reducible refine lotEnded_queue _ _ _ (fun _ => ?_))
    | (with_reducible refine stageCtx_queue _ _ _ (fun _ => ?_))
    | (with_reducible refine stageMod_queue _ _ _ ?_)
    | (with_reducible refine stageMask_queue _ _ _ (fun _ => ?_))
    | (with_reducible exact takeRegs_queue _ _ _ _ (by assumption))
    | (with_reducible refine opNamed_queue _ _ _ (fun _ => ?_))
    | (with_reducible refine dbgTile_queue _ _ _ (fun _ => ?_))
    | (simp only [])
    | (with_reducible refine queue_ite _ _ _ _ ?_ ?_)
    | (with_reducible refine queue_ite_fst _ _ _ _ ?_ ?_)
    | (with_reducible refine queue_ite_snd _ _ _ _ ?_ ?_)
    | (with_reducible refine keeps_ite _ _ _ _ ?_ ?_)
    | (intro _ _)
    | (simp +zetaDelta)
    | split

@[simp ↓] theorem opCancelCmd_queue (s : State) (c : MCmd) :
    (queueOf ((opCancelCmd s c).st)) = (queueOf s) := by
  unfold opCancelCmd
  repeat' first
    | with_reducible rfl
    | (simp +zetaDelta [foldl_queue, foldl_snd_queue, foldl_fst_queue, pending_eq_queue]; done)
    | (with_reducible rw [foldl_queue])
    | (rw [pending_eq_queue])
    | (with_reducible exact hereFront_queue _ _ _ _ _ (by assumption))
    | (with_reducible refine withPart_queue _ _ _ _ _ (fun _ => ?_))
    | (with_reducible refine withTile_queue _ _ _ _ _ (fun _ => ?_))
    | (with_reducible refine lotEnded_queue _ _ _ (fun _ => ?_))
    | (with_reducible refine stageCtx_queue _ _ _ (fun _ => ?_))
    | (with_reducible refine stageMod_queue _ _ _ ?_)
    | (with_reducible refine stageMask_queue _ _ _ (fun _ => ?_))
    | (with_reducible exact takeRegs_queue _ _ _ _ (by assumption))
    | (with_reducible refine opNamed_queue _ _ _ (fun _ => ?_))
    | (with_reducible refine dbgTile_queue _ _ _ (fun _ => ?_))
    | (simp only [])
    | (with_reducible refine queue_ite _ _ _ _ ?_ ?_)
    | (with_reducible refine queue_ite_fst _ _ _ _ ?_ ?_)
    | (with_reducible refine queue_ite_snd _ _ _ _ ?_ ?_)
    | (with_reducible refine keeps_ite _ _ _ _ ?_ ?_)
    | (intro _ _)
    | (simp +zetaDelta)
    | split

@[simp ↓] theorem opCutShort_queue (s : State) (o : Op) :
    (queueOf (opCutShort s o)) = (queueOf s) := by
  unfold opCutShort
  repeat' first
    | with_reducible rfl
    | (simp +zetaDelta [foldl_queue, foldl_snd_queue, foldl_fst_queue, pending_eq_queue]; done)
    | (with_reducible rw [foldl_queue])
    | (rw [pending_eq_queue])
    | (with_reducible exact hereFront_queue _ _ _ _ _ (by assumption))
    | (with_reducible refine withPart_queue _ _ _ _ _ (fun _ => ?_))
    | (with_reducible refine withTile_queue _ _ _ _ _ (fun _ => ?_))
    | (with_reducible refine lotEnded_queue _ _ _ (fun _ => ?_))
    | (with_reducible refine stageCtx_queue _ _ _ (fun _ => ?_))
    | (with_reducible refine stageMod_queue _ _ _ ?_)
    | (with_reducible refine stageMask_queue _ _ _ (fun _ => ?_))
    | (with_reducible exact takeRegs_queue _ _ _ _ (by assumption))
    | (with_reducible refine opNamed_queue _ _ _ (fun _ => ?_))
    | (with_reducible refine dbgTile_queue _ _ _ (fun _ => ?_))
    | (simp only [])
    | (with_reducible refine queue_ite _ _ _ _ ?_ ?_)
    | (with_reducible refine queue_ite_fst _ _ _ _ ?_ ?_)
    | (with_reducible refine queue_ite_snd _ _ _ _ ?_ ?_)
    | (with_reducible refine keeps_ite _ _ _ _ ?_ ?_)
    | (intro _ _)
    | (simp +zetaDelta)
    | split

@[simp ↓] theorem loadCover_queue (args : List Byte) (good : Bool) (s : State) (n : Nat) :
    (queueOf (loadCover args good s n)) = (queueOf s) := by
  unfold loadCover
  repeat' first
    | with_reducible rfl
    | (simp +zetaDelta [foldl_queue, foldl_snd_queue, foldl_fst_queue, pending_eq_queue]; done)
    | (with_reducible rw [foldl_queue])
    | (rw [pending_eq_queue])
    | (with_reducible exact hereFront_queue _ _ _ _ _ (by assumption))
    | (with_reducible refine withPart_queue _ _ _ _ _ (fun _ => ?_))
    | (with_reducible refine withTile_queue _ _ _ _ _ (fun _ => ?_))
    | (with_reducible refine lotEnded_queue _ _ _ (fun _ => ?_))
    | (with_reducible refine stageCtx_queue _ _ _ (fun _ => ?_))
    | (with_reducible refine stageMod_queue _ _ _ ?_)
    | (with_reducible refine stageMask_queue _ _ _ (fun _ => ?_))
    | (with_reducible exact takeRegs_queue _ _ _ _ (by assumption))
    | (with_reducible refine opNamed_queue _ _ _ (fun _ => ?_))
    | (with_reducible refine dbgTile_queue _ _ _ (fun _ => ?_))
    | (simp only [])
    | (with_reducible refine queue_ite _ _ _ _ ?_ ?_)
    | (with_reducible refine queue_ite_fst _ _ _ _ ?_ ?_)
    | (with_reducible refine queue_ite_snd _ _ _ _ ?_ ?_)
    | (with_reducible refine keeps_ite _ _ _ _ ?_ ?_)
    | (intro _ _)
    | (simp +zetaDelta)
    | split

@[simp ↓] theorem opComplete_queue (s : State) (o : Op) (ok : Bool) (found : List (Nat × Nat × Bool)) (bolts : List (Nat × List Nat × List Nat)) :
    (queueOf (opComplete s o ok found bolts)) = (queueOf s) := by
  unfold opComplete
  repeat' first
    | with_reducible rfl
    | (simp +zetaDelta [foldl_queue, foldl_snd_queue, foldl_fst_queue, pending_eq_queue]; done)
    | (with_reducible rw [foldl_queue])
    | (rw [pending_eq_queue])
    | (with_reducible exact hereFront_queue _ _ _ _ _ (by assumption))
    | (with_reducible refine withPart_queue _ _ _ _ _ (fun _ => ?_))
    | (with_reducible refine withTile_queue _ _ _ _ _ (fun _ => ?_))
    | (with_reducible refine lotEnded_queue _ _ _ (fun _ => ?_))
    | (with_reducible refine stageCtx_queue _ _ _ (fun _ => ?_))
    | (with_reducible refine stageMod_queue _ _ _ ?_)
    | (with_reducible refine stageMask_queue _ _ _ (fun _ => ?_))
    | (with_reducible exact takeRegs_queue _ _ _ _ (by assumption))
    | (with_reducible refine opNamed_queue _ _ _ (fun _ => ?_))
    | (with_reducible refine dbgTile_queue _ _ _ (fun _ => ?_))
    | (simp only [])
    | (with_reducible refine queue_ite _ _ _ _ ?_ ?_)
    | (with_reducible refine queue_ite_fst _ _ _ _ ?_ ?_)
    | (with_reducible refine queue_ite_snd _ _ _ _ ?_ ?_)
    | (with_reducible refine keeps_ite _ _ _ _ ?_ ?_)
    | (intro _ _)
    | (simp +zetaDelta)
    | split

theorem execLongOperationEnd_keeps (h units : Nat) (ok : Bool) (found : List (Nat × Nat × Bool)) (bolts : List (Nat × List Nat × List Nat)) (s : State) : Keeps (queueOf s) (execLongOperationEnd h units ok found bolts s) := by
  unfold execLongOperationEnd
  repeat' first
    | with_reducible rfl
    | (simp +zetaDelta [foldl_queue, foldl_snd_queue, foldl_fst_queue, pending_eq_queue]; done)
    | (with_reducible rw [foldl_queue])
    | (rw [pending_eq_queue])
    | (with_reducible exact hereFront_queue _ _ _ _ _ (by assumption))
    | (with_reducible refine withPart_queue _ _ _ _ _ (fun _ => ?_))
    | (with_reducible refine withTile_queue _ _ _ _ _ (fun _ => ?_))
    | (with_reducible refine lotEnded_queue _ _ _ (fun _ => ?_))
    | (with_reducible refine stageCtx_queue _ _ _ (fun _ => ?_))
    | (with_reducible refine stageMod_queue _ _ _ ?_)
    | (with_reducible refine stageMask_queue _ _ _ (fun _ => ?_))
    | (with_reducible exact takeRegs_queue _ _ _ _ (by assumption))
    | (with_reducible refine opNamed_queue _ _ _ (fun _ => ?_))
    | (with_reducible refine dbgTile_queue _ _ _ (fun _ => ?_))
    | (simp only [])
    | (with_reducible refine queue_ite _ _ _ _ ?_ ?_)
    | (with_reducible refine queue_ite_fst _ _ _ _ ?_ ?_)
    | (with_reducible refine queue_ite_snd _ _ _ _ ?_ ?_)
    | (with_reducible refine keeps_ite _ _ _ _ ?_ ?_)
    | (intro _ _)
    | (simp +zetaDelta)
    | split

theorem execMntStackTest_keeps (pg : Nat) (req : Option (List Byte)) (respOk : Bool) (s : State) : Keeps (queueOf s) (execMntStackTest pg req respOk s) := by
  unfold execMntStackTest
  refine mailRow_keeps _ _ _ _ _ _ _ ?_
  intro s c
  repeat' first
    | with_reducible rfl
    | (simp +zetaDelta [foldl_queue, foldl_snd_queue, foldl_fst_queue, pending_eq_queue]; done)
    | (with_reducible rw [foldl_queue])
    | (rw [pending_eq_queue])
    | (with_reducible exact hereFront_queue _ _ _ _ _ (by assumption))
    | (with_reducible refine withPart_queue _ _ _ _ _ (fun _ => ?_))
    | (with_reducible refine withTile_queue _ _ _ _ _ (fun _ => ?_))
    | (with_reducible refine lotEnded_queue _ _ _ (fun _ => ?_))
    | (with_reducible refine stageCtx_queue _ _ _ (fun _ => ?_))
    | (with_reducible refine stageMod_queue _ _ _ ?_)
    | (with_reducible refine stageMask_queue _ _ _ (fun _ => ?_))
    | (with_reducible exact takeRegs_queue _ _ _ _ (by assumption))
    | (with_reducible refine opNamed_queue _ _ _ (fun _ => ?_))
    | (with_reducible refine dbgTile_queue _ _ _ (fun _ => ?_))
    | (simp only [])
    | (with_reducible refine queue_ite _ _ _ _ ?_ ?_)
    | (with_reducible refine queue_ite_fst _ _ _ _ ?_ ?_)
    | (with_reducible refine queue_ite_snd _ _ _ _ ?_ ?_)
    | (with_reducible refine keeps_ite _ _ _ _ ?_ ?_)
    | (intro _ _)
    | (simp +zetaDelta)
    | split

theorem execMntScrubStacks_keeps (pg : Nat) (req : Option (List Byte)) (respOk : Bool) (s : State) : Keeps (queueOf s) (execMntScrubStacks pg req respOk s) := by
  unfold execMntScrubStacks
  refine mailRow_keeps _ _ _ _ _ _ _ ?_
  intro s c
  repeat' first
    | with_reducible rfl
    | (simp +zetaDelta [foldl_queue, foldl_snd_queue, foldl_fst_queue, pending_eq_queue]; done)
    | (with_reducible rw [foldl_queue])
    | (rw [pending_eq_queue])
    | (with_reducible exact hereFront_queue _ _ _ _ _ (by assumption))
    | (with_reducible refine withPart_queue _ _ _ _ _ (fun _ => ?_))
    | (with_reducible refine withTile_queue _ _ _ _ _ (fun _ => ?_))
    | (with_reducible refine lotEnded_queue _ _ _ (fun _ => ?_))
    | (with_reducible refine stageCtx_queue _ _ _ (fun _ => ?_))
    | (with_reducible refine stageMod_queue _ _ _ ?_)
    | (with_reducible refine stageMask_queue _ _ _ (fun _ => ?_))
    | (with_reducible exact takeRegs_queue _ _ _ _ (by assumption))
    | (with_reducible refine opNamed_queue _ _ _ (fun _ => ?_))
    | (with_reducible refine dbgTile_queue _ _ _ (fun _ => ?_))
    | (simp only [])
    | (with_reducible refine queue_ite _ _ _ _ ?_ ?_)
    | (with_reducible refine queue_ite_fst _ _ _ _ ?_ ?_)
    | (with_reducible refine queue_ite_snd _ _ _ _ ?_ ?_)
    | (with_reducible refine keeps_ite _ _ _ _ ?_ ?_)
    | (intro _ _)
    | (simp +zetaDelta)
    | split

theorem execMntScrubTiles_keeps (pg : Nat) (req : Option (List Byte)) (respOk : Bool) (s : State) : Keeps (queueOf s) (execMntScrubTiles pg req respOk s) := by
  unfold execMntScrubTiles
  refine mailRow_keeps _ _ _ _ _ _ _ ?_
  intro s c
  repeat' first
    | with_reducible rfl
    | (simp +zetaDelta [foldl_queue, foldl_snd_queue, foldl_fst_queue, pending_eq_queue]; done)
    | (with_reducible rw [foldl_queue])
    | (rw [pending_eq_queue])
    | (with_reducible exact hereFront_queue _ _ _ _ _ (by assumption))
    | (with_reducible refine withPart_queue _ _ _ _ _ (fun _ => ?_))
    | (with_reducible refine withTile_queue _ _ _ _ _ (fun _ => ?_))
    | (with_reducible refine lotEnded_queue _ _ _ (fun _ => ?_))
    | (with_reducible refine stageCtx_queue _ _ _ (fun _ => ?_))
    | (with_reducible refine stageMod_queue _ _ _ ?_)
    | (with_reducible refine stageMask_queue _ _ _ (fun _ => ?_))
    | (with_reducible exact takeRegs_queue _ _ _ _ (by assumption))
    | (with_reducible refine opNamed_queue _ _ _ (fun _ => ?_))
    | (with_reducible refine dbgTile_queue _ _ _ (fun _ => ?_))
    | (simp only [])
    | (with_reducible refine queue_ite _ _ _ _ ?_ ?_)
    | (with_reducible refine queue_ite_fst _ _ _ _ ?_ ?_)
    | (with_reducible refine queue_ite_snd _ _ _ _ ?_ ?_)
    | (with_reducible refine keeps_ite _ _ _ _ ?_ ?_)
    | (intro _ _)
    | (simp +zetaDelta)
    | split

theorem execMntAssay_keeps (pg : Nat) (req : Option (List Byte)) (respOk : Bool) (s : State) : Keeps (queueOf s) (execMntAssay pg req respOk s) := by
  unfold execMntAssay
  refine mailRow_keeps _ _ _ _ _ _ _ ?_
  intro s c
  repeat' first
    | with_reducible rfl
    | (simp +zetaDelta [foldl_queue, foldl_snd_queue, foldl_fst_queue, pending_eq_queue]; done)
    | (with_reducible rw [foldl_queue])
    | (rw [pending_eq_queue])
    | (with_reducible exact hereFront_queue _ _ _ _ _ (by assumption))
    | (with_reducible refine withPart_queue _ _ _ _ _ (fun _ => ?_))
    | (with_reducible refine withTile_queue _ _ _ _ _ (fun _ => ?_))
    | (with_reducible refine lotEnded_queue _ _ _ (fun _ => ?_))
    | (with_reducible refine stageCtx_queue _ _ _ (fun _ => ?_))
    | (with_reducible refine stageMod_queue _ _ _ ?_)
    | (with_reducible refine stageMask_queue _ _ _ (fun _ => ?_))
    | (with_reducible exact takeRegs_queue _ _ _ _ (by assumption))
    | (with_reducible refine opNamed_queue _ _ _ (fun _ => ?_))
    | (with_reducible refine dbgTile_queue _ _ _ (fun _ => ?_))
    | (simp only [])
    | (with_reducible refine queue_ite _ _ _ _ ?_ ?_)
    | (with_reducible refine queue_ite_fst _ _ _ _ ?_ ?_)
    | (with_reducible refine queue_ite_snd _ _ _ _ ?_ ?_)
    | (with_reducible refine keeps_ite _ _ _ _ ?_ ?_)
    | (intro _ _)
    | (simp +zetaDelta)
    | split

theorem execMntFwUpdate_keeps (pg : Nat) (req : Option (List Byte)) (respOk : Bool) (ver sec : Nat) (s : State) : Keeps (queueOf s) (execMntFwUpdate pg req respOk ver sec s) := by
  unfold execMntFwUpdate
  refine mailRow_keeps _ _ _ _ _ _ _ ?_
  intro s c
  repeat' first
    | with_reducible rfl
    | (simp +zetaDelta [foldl_queue, foldl_snd_queue, foldl_fst_queue, pending_eq_queue]; done)
    | (with_reducible rw [foldl_queue])
    | (rw [pending_eq_queue])
    | (with_reducible exact hereFront_queue _ _ _ _ _ (by assumption))
    | (with_reducible refine withPart_queue _ _ _ _ _ (fun _ => ?_))
    | (with_reducible refine withTile_queue _ _ _ _ _ (fun _ => ?_))
    | (with_reducible refine lotEnded_queue _ _ _ (fun _ => ?_))
    | (with_reducible refine stageCtx_queue _ _ _ (fun _ => ?_))
    | (with_reducible refine stageMod_queue _ _ _ ?_)
    | (with_reducible refine stageMask_queue _ _ _ (fun _ => ?_))
    | (with_reducible exact takeRegs_queue _ _ _ _ (by assumption))
    | (with_reducible refine opNamed_queue _ _ _ (fun _ => ?_))
    | (with_reducible refine dbgTile_queue _ _ _ (fun _ => ?_))
    | (simp only [])
    | (with_reducible refine queue_ite _ _ _ _ ?_ ?_)
    | (with_reducible refine queue_ite_fst _ _ _ _ ?_ ?_)
    | (with_reducible refine queue_ite_snd _ _ _ _ ?_ ?_)
    | (with_reducible refine keeps_ite _ _ _ _ ?_ ?_)
    | (intro _ _)
    | (simp +zetaDelta)
    | split

theorem execMntLinkQual_keeps (pg : Nat) (req : Option (List Byte)) (respOk : Bool) (s : State) : Keeps (queueOf s) (execMntLinkQual pg req respOk s) := by
  unfold execMntLinkQual
  refine mailRow_keeps _ _ _ _ _ _ _ ?_
  intro s c
  repeat' first
    | with_reducible rfl
    | (simp +zetaDelta [foldl_queue, foldl_snd_queue, foldl_fst_queue, pending_eq_queue]; done)
    | (with_reducible rw [foldl_queue])
    | (rw [pending_eq_queue])
    | (with_reducible exact hereFront_queue _ _ _ _ _ (by assumption))
    | (with_reducible refine withPart_queue _ _ _ _ _ (fun _ => ?_))
    | (with_reducible refine withTile_queue _ _ _ _ _ (fun _ => ?_))
    | (with_reducible refine lotEnded_queue _ _ _ (fun _ => ?_))
    | (with_reducible refine stageCtx_queue _ _ _ (fun _ => ?_))
    | (with_reducible refine stageMod_queue _ _ _ ?_)
    | (with_reducible refine stageMask_queue _ _ _ (fun _ => ?_))
    | (with_reducible exact takeRegs_queue _ _ _ _ (by assumption))
    | (with_reducible refine opNamed_queue _ _ _ (fun _ => ?_))
    | (with_reducible refine dbgTile_queue _ _ _ (fun _ => ?_))
    | (simp only [])
    | (with_reducible refine queue_ite _ _ _ _ ?_ ?_)
    | (with_reducible refine queue_ite_fst _ _ _ _ ?_ ?_)
    | (with_reducible refine queue_ite_snd _ _ _ _ ?_ ?_)
    | (with_reducible refine keeps_ite _ _ _ _ ?_ ?_)
    | (intro _ _)
    | (simp +zetaDelta)
    | split

theorem execMntSpareMap_keeps (pg : Nat) (req : Option (List Byte)) (respOk : Bool) (s : State) : Keeps (queueOf s) (execMntSpareMap pg req respOk s) := by
  unfold execMntSpareMap
  refine mailRow_keeps _ _ _ _ _ _ _ ?_
  intro s c
  repeat' first
    | with_reducible rfl
    | (simp +zetaDelta [foldl_queue, foldl_snd_queue, foldl_fst_queue, pending_eq_queue]; done)
    | (with_reducible rw [foldl_queue])
    | (rw [pending_eq_queue])
    | (with_reducible exact hereFront_queue _ _ _ _ _ (by assumption))
    | (with_reducible refine withPart_queue _ _ _ _ _ (fun _ => ?_))
    | (with_reducible refine withTile_queue _ _ _ _ _ (fun _ => ?_))
    | (with_reducible refine lotEnded_queue _ _ _ (fun _ => ?_))
    | (with_reducible refine stageCtx_queue _ _ _ (fun _ => ?_))
    | (with_reducible refine stageMod_queue _ _ _ ?_)
    | (with_reducible refine stageMask_queue _ _ _ (fun _ => ?_))
    | (with_reducible exact takeRegs_queue _ _ _ _ (by assumption))
    | (with_reducible refine opNamed_queue _ _ _ (fun _ => ?_))
    | (with_reducible refine dbgTile_queue _ _ _ (fun _ => ?_))
    | (simp only [])
    | (with_reducible refine queue_ite _ _ _ _ ?_ ?_)
    | (with_reducible refine queue_ite_fst _ _ _ _ ?_ ?_)
    | (with_reducible refine queue_ite_snd _ _ _ _ ?_ ?_)
    | (with_reducible refine keeps_ite _ _ _ _ ?_ ?_)
    | (intro _ _)
    | (simp +zetaDelta)
    | split

theorem execMntLedger_keeps (pg : Nat) (req : Option (List Byte)) (respOk : Bool) (s : State) : Keeps (queueOf s) (execMntLedger pg req respOk s) := by
  unfold execMntLedger
  refine mailRow_keeps _ _ _ _ _ _ _ ?_
  intro s c
  repeat' first
    | with_reducible rfl
    | (simp +zetaDelta [foldl_queue, foldl_snd_queue, foldl_fst_queue, pending_eq_queue]; done)
    | (with_reducible rw [foldl_queue])
    | (rw [pending_eq_queue])
    | (with_reducible exact hereFront_queue _ _ _ _ _ (by assumption))
    | (with_reducible refine withPart_queue _ _ _ _ _ (fun _ => ?_))
    | (with_reducible refine withTile_queue _ _ _ _ _ (fun _ => ?_))
    | (with_reducible refine lotEnded_queue _ _ _ (fun _ => ?_))
    | (with_reducible refine stageCtx_queue _ _ _ (fun _ => ?_))
    | (with_reducible refine stageMod_queue _ _ _ ?_)
    | (with_reducible refine stageMask_queue _ _ _ (fun _ => ?_))
    | (with_reducible exact takeRegs_queue _ _ _ _ (by assumption))
    | (with_reducible refine opNamed_queue _ _ _ (fun _ => ?_))
    | (with_reducible refine dbgTile_queue _ _ _ (fun _ => ?_))
    | (simp only [])
    | (with_reducible refine queue_ite _ _ _ _ ?_ ?_)
    | (with_reducible refine queue_ite_fst _ _ _ _ ?_ ?_)
    | (with_reducible refine queue_ite_snd _ _ _ _ ?_ ?_)
    | (with_reducible refine keeps_ite _ _ _ _ ?_ ?_)
    | (intro _ _)
    | (simp +zetaDelta)
    | split

theorem execMntRepairLedger_keeps (pg : Nat) (req : Option (List Byte)) (respOk : Bool) (s : State) : Keeps (queueOf s) (execMntRepairLedger pg req respOk s) := by
  unfold execMntRepairLedger
  refine mailRow_keeps _ _ _ _ _ _ _ ?_
  intro s c
  repeat' first
    | with_reducible rfl
    | (simp +zetaDelta [foldl_queue, foldl_snd_queue, foldl_fst_queue, pending_eq_queue]; done)
    | (with_reducible rw [foldl_queue])
    | (rw [pending_eq_queue])
    | (with_reducible exact hereFront_queue _ _ _ _ _ (by assumption))
    | (with_reducible refine withPart_queue _ _ _ _ _ (fun _ => ?_))
    | (with_reducible refine withTile_queue _ _ _ _ _ (fun _ => ?_))
    | (with_reducible refine lotEnded_queue _ _ _ (fun _ => ?_))
    | (with_reducible refine stageCtx_queue _ _ _ (fun _ => ?_))
    | (with_reducible refine stageMod_queue _ _ _ ?_)
    | (with_reducible refine stageMask_queue _ _ _ (fun _ => ?_))
    | (with_reducible exact takeRegs_queue _ _ _ _ (by assumption))
    | (with_reducible refine opNamed_queue _ _ _ (fun _ => ?_))
    | (with_reducible refine dbgTile_queue _ _ _ (fun _ => ?_))
    | (simp only [])
    | (with_reducible refine queue_ite _ _ _ _ ?_ ?_)
    | (with_reducible refine queue_ite_fst _ _ _ _ ?_ ?_)
    | (with_reducible refine queue_ite_snd _ _ _ _ ?_ ?_)
    | (with_reducible refine keeps_ite _ _ _ _ ?_ ?_)
    | (intro _ _)
    | (simp +zetaDelta)
    | split

theorem execOpStatus_keeps (pg : Nat) (req : Option (List Byte)) (respOk : Bool) (s : State) : Keeps (queueOf s) (execOpStatus pg req respOk s) := by
  unfold execOpStatus
  refine mailRow_keeps _ _ _ _ _ _ _ ?_
  intro s c
  repeat' first
    | with_reducible rfl
    | (simp +zetaDelta [foldl_queue, foldl_snd_queue, foldl_fst_queue, pending_eq_queue]; done)
    | (with_reducible rw [foldl_queue])
    | (rw [pending_eq_queue])
    | (with_reducible exact hereFront_queue _ _ _ _ _ (by assumption))
    | (with_reducible refine withPart_queue _ _ _ _ _ (fun _ => ?_))
    | (with_reducible refine withTile_queue _ _ _ _ _ (fun _ => ?_))
    | (with_reducible refine lotEnded_queue _ _ _ (fun _ => ?_))
    | (with_reducible refine stageCtx_queue _ _ _ (fun _ => ?_))
    | (with_reducible refine stageMod_queue _ _ _ ?_)
    | (with_reducible refine stageMask_queue _ _ _ (fun _ => ?_))
    | (with_reducible exact takeRegs_queue _ _ _ _ (by assumption))
    | (with_reducible refine opNamed_queue _ _ _ (fun _ => ?_))
    | (with_reducible refine dbgTile_queue _ _ _ (fun _ => ?_))
    | (simp only [])
    | (with_reducible refine queue_ite _ _ _ _ ?_ ?_)
    | (with_reducible refine queue_ite_fst _ _ _ _ ?_ ?_)
    | (with_reducible refine queue_ite_snd _ _ _ _ ?_ ?_)
    | (with_reducible refine keeps_ite _ _ _ _ ?_ ?_)
    | (intro _ _)
    | (simp +zetaDelta)
    | split

theorem execOpSuspend_keeps (pg : Nat) (req : Option (List Byte)) (respOk : Bool) (s : State) : Keeps (queueOf s) (execOpSuspend pg req respOk s) := by
  unfold execOpSuspend
  refine mailRow_keeps _ _ _ _ _ _ _ ?_
  intro s c
  repeat' first
    | with_reducible rfl
    | (simp +zetaDelta [foldl_queue, foldl_snd_queue, foldl_fst_queue, pending_eq_queue]; done)
    | (with_reducible rw [foldl_queue])
    | (rw [pending_eq_queue])
    | (with_reducible exact hereFront_queue _ _ _ _ _ (by assumption))
    | (with_reducible refine withPart_queue _ _ _ _ _ (fun _ => ?_))
    | (with_reducible refine withTile_queue _ _ _ _ _ (fun _ => ?_))
    | (with_reducible refine lotEnded_queue _ _ _ (fun _ => ?_))
    | (with_reducible refine stageCtx_queue _ _ _ (fun _ => ?_))
    | (with_reducible refine stageMod_queue _ _ _ ?_)
    | (with_reducible refine stageMask_queue _ _ _ (fun _ => ?_))
    | (with_reducible exact takeRegs_queue _ _ _ _ (by assumption))
    | (with_reducible refine opNamed_queue _ _ _ (fun _ => ?_))
    | (with_reducible refine dbgTile_queue _ _ _ (fun _ => ?_))
    | (simp only [])
    | (with_reducible refine queue_ite _ _ _ _ ?_ ?_)
    | (with_reducible refine queue_ite_fst _ _ _ _ ?_ ?_)
    | (with_reducible refine queue_ite_snd _ _ _ _ ?_ ?_)
    | (with_reducible refine keeps_ite _ _ _ _ ?_ ?_)
    | (intro _ _)
    | (simp +zetaDelta)
    | split

theorem execOpResume_keeps (pg : Nat) (req : Option (List Byte)) (respOk : Bool) (s : State) : Keeps (queueOf s) (execOpResume pg req respOk s) := by
  unfold execOpResume
  refine mailRow_keeps _ _ _ _ _ _ _ ?_
  intro s c
  repeat' first
    | with_reducible rfl
    | (simp +zetaDelta [foldl_queue, foldl_snd_queue, foldl_fst_queue, pending_eq_queue]; done)
    | (with_reducible rw [foldl_queue])
    | (rw [pending_eq_queue])
    | (with_reducible exact hereFront_queue _ _ _ _ _ (by assumption))
    | (with_reducible refine withPart_queue _ _ _ _ _ (fun _ => ?_))
    | (with_reducible refine withTile_queue _ _ _ _ _ (fun _ => ?_))
    | (with_reducible refine lotEnded_queue _ _ _ (fun _ => ?_))
    | (with_reducible refine stageCtx_queue _ _ _ (fun _ => ?_))
    | (with_reducible refine stageMod_queue _ _ _ ?_)
    | (with_reducible refine stageMask_queue _ _ _ (fun _ => ?_))
    | (with_reducible exact takeRegs_queue _ _ _ _ (by assumption))
    | (with_reducible refine opNamed_queue _ _ _ (fun _ => ?_))
    | (with_reducible refine dbgTile_queue _ _ _ (fun _ => ?_))
    | (simp only [])
    | (with_reducible refine queue_ite _ _ _ _ ?_ ?_)
    | (with_reducible refine queue_ite_fst _ _ _ _ ?_ ?_)
    | (with_reducible refine queue_ite_snd _ _ _ _ ?_ ?_)
    | (with_reducible refine keeps_ite _ _ _ _ ?_ ?_)
    | (intro _ _)
    | (simp +zetaDelta)
    | split

theorem execOpCancel_keeps (pg : Nat) (req : Option (List Byte)) (respOk : Bool) (s : State) : Keeps (queueOf s) (execOpCancel pg req respOk s) := by
  unfold execOpCancel
  refine mailRow_keeps _ _ _ _ _ _ _ ?_
  intro s c
  repeat' first
    | with_reducible rfl
    | (simp +zetaDelta [foldl_queue, foldl_snd_queue, foldl_fst_queue, pending_eq_queue]; done)
    | (with_reducible rw [foldl_queue])
    | (rw [pending_eq_queue])
    | (with_reducible exact hereFront_queue _ _ _ _ _ (by assumption))
    | (with_reducible refine withPart_queue _ _ _ _ _ (fun _ => ?_))
    | (with_reducible refine withTile_queue _ _ _ _ _ (fun _ => ?_))
    | (with_reducible refine lotEnded_queue _ _ _ (fun _ => ?_))
    | (with_reducible refine stageCtx_queue _ _ _ (fun _ => ?_))
    | (with_reducible refine stageMod_queue _ _ _ ?_)
    | (with_reducible refine stageMask_queue _ _ _ (fun _ => ?_))
    | (with_reducible exact takeRegs_queue _ _ _ _ (by assumption))
    | (with_reducible refine opNamed_queue _ _ _ (fun _ => ?_))
    | (with_reducible refine dbgTile_queue _ _ _ (fun _ => ?_))
    | (simp only [])
    | (with_reducible refine queue_ite _ _ _ _ ?_ ?_)
    | (with_reducible refine queue_ite_fst _ _ _ _ ?_ ?_)
    | (with_reducible refine queue_ite_snd _ _ _ _ ?_ ?_)
    | (with_reducible refine keeps_ite _ _ _ _ ?_ ?_)
    | (intro _ _)
    | (simp +zetaDelta)
    | split

theorem execOpList_keeps (pg : Nat) (req : Option (List Byte)) (respOk : Bool) (s : State) : Keeps (queueOf s) (execOpList pg req respOk s) := by
  unfold execOpList
  refine mailRow_keeps _ _ _ _ _ _ _ ?_
  intro s c
  repeat' first
    | with_reducible rfl
    | (simp +zetaDelta [foldl_queue, foldl_snd_queue, foldl_fst_queue, pending_eq_queue]; done)
    | (with_reducible rw [foldl_queue])
    | (rw [pending_eq_queue])
    | (with_reducible exact hereFront_queue _ _ _ _ _ (by assumption))
    | (with_reducible refine withPart_queue _ _ _ _ _ (fun _ => ?_))
    | (with_reducible refine withTile_queue _ _ _ _ _ (fun _ => ?_))
    | (with_reducible refine lotEnded_queue _ _ _ (fun _ => ?_))
    | (with_reducible refine stageCtx_queue _ _ _ (fun _ => ?_))
    | (with_reducible refine stageMod_queue _ _ _ ?_)
    | (with_reducible refine stageMask_queue _ _ _ (fun _ => ?_))
    | (with_reducible exact takeRegs_queue _ _ _ _ (by assumption))
    | (with_reducible refine opNamed_queue _ _ _ (fun _ => ?_))
    | (with_reducible refine dbgTile_queue _ _ _ (fun _ => ?_))
    | (simp only [])
    | (with_reducible refine queue_ite _ _ _ _ ?_ ?_)
    | (with_reducible refine queue_ite_fst _ _ _ _ ?_ ?_)
    | (with_reducible refine queue_ite_snd _ _ _ _ ?_ ?_)
    | (with_reducible refine keeps_ite _ _ _ _ ?_ ?_)
    | (intro _ _)
    | (simp +zetaDelta)
    | split

/-! ## Sys2Proof/Machine/Assay.lean -/

@[simp ↓] theorem sparesTo_queue (s : State) (n : Nat) (target : Nat → Nat) :
    (queueOf (sparesTo s n target)) = (queueOf s) := by
  unfold sparesTo
  repeat' first
    | with_reducible rfl
    | (simp +zetaDelta [foldl_queue, foldl_snd_queue, foldl_fst_queue, pending_eq_queue]; done)
    | (with_reducible rw [foldl_queue])
    | (rw [pending_eq_queue])
    | (with_reducible exact hereFront_queue _ _ _ _ _ (by assumption))
    | (with_reducible refine withPart_queue _ _ _ _ _ (fun _ => ?_))
    | (with_reducible refine withTile_queue _ _ _ _ _ (fun _ => ?_))
    | (with_reducible refine lotEnded_queue _ _ _ (fun _ => ?_))
    | (with_reducible refine stageCtx_queue _ _ _ (fun _ => ?_))
    | (with_reducible refine stageMod_queue _ _ _ ?_)
    | (with_reducible refine stageMask_queue _ _ _ (fun _ => ?_))
    | (with_reducible exact takeRegs_queue _ _ _ _ (by assumption))
    | (with_reducible refine opNamed_queue _ _ _ (fun _ => ?_))
    | (with_reducible refine dbgTile_queue _ _ _ (fun _ => ?_))
    | (simp only [])
    | (with_reducible refine queue_ite _ _ _ _ ?_ ?_)
    | (with_reducible refine queue_ite_fst _ _ _ _ ?_ ?_)
    | (with_reducible refine queue_ite_snd _ _ _ _ ?_ ?_)
    | (with_reducible refine keeps_ite _ _ _ _ ?_ ?_)
    | (intro _ _)
    | (simp +zetaDelta)
    | split

@[simp ↓] theorem setupTile_queue (s : State) (n : Nat) (l : Lot) (t : Nat) :
    (queueOf (setupTile s n l t)) = (queueOf s) := by
  unfold setupTile
  repeat' first
    | with_reducible rfl
    | (simp +zetaDelta [foldl_queue, foldl_snd_queue, foldl_fst_queue, pending_eq_queue]; done)
    | (with_reducible rw [foldl_queue])
    | (rw [pending_eq_queue])
    | (with_reducible exact hereFront_queue _ _ _ _ _ (by assumption))
    | (with_reducible refine withPart_queue _ _ _ _ _ (fun _ => ?_))
    | (with_reducible refine withTile_queue _ _ _ _ _ (fun _ => ?_))
    | (with_reducible refine lotEnded_queue _ _ _ (fun _ => ?_))
    | (with_reducible refine stageCtx_queue _ _ _ (fun _ => ?_))
    | (with_reducible refine stageMod_queue _ _ _ ?_)
    | (with_reducible refine stageMask_queue _ _ _ (fun _ => ?_))
    | (with_reducible exact takeRegs_queue _ _ _ _ (by assumption))
    | (with_reducible refine opNamed_queue _ _ _ (fun _ => ?_))
    | (with_reducible refine dbgTile_queue _ _ _ (fun _ => ?_))
    | (simp only [])
    | (with_reducible refine queue_ite _ _ _ _ ?_ ?_)
    | (with_reducible refine queue_ite_fst _ _ _ _ ?_ ?_)
    | (with_reducible refine queue_ite_snd _ _ _ _ ?_ ?_)
    | (with_reducible refine keeps_ite _ _ _ _ ?_ ?_)
    | (intro _ _)
    | (simp +zetaDelta)
    | split

@[simp ↓] theorem lotReload_queue (s : State) (n : Nat) (l : Lot) :
    (queueOf (lotReload s n l)) = (queueOf s) := by
  unfold lotReload
  repeat' first
    | with_reducible rfl
    | (simp +zetaDelta [foldl_queue, foldl_snd_queue, foldl_fst_queue, pending_eq_queue]; done)
    | (with_reducible rw [foldl_queue])
    | (rw [pending_eq_queue])
    | (with_reducible exact hereFront_queue _ _ _ _ _ (by assumption))
    | (with_reducible refine withPart_queue _ _ _ _ _ (fun _ => ?_))
    | (with_reducible refine withTile_queue _ _ _ _ _ (fun _ => ?_))
    | (with_reducible refine lotEnded_queue _ _ _ (fun _ => ?_))
    | (with_reducible refine stageCtx_queue _ _ _ (fun _ => ?_))
    | (with_reducible refine stageMod_queue _ _ _ ?_)
    | (with_reducible refine stageMask_queue _ _ _ (fun _ => ?_))
    | (with_reducible exact takeRegs_queue _ _ _ _ (by assumption))
    | (with_reducible refine opNamed_queue _ _ _ (fun _ => ?_))
    | (with_reducible refine dbgTile_queue _ _ _ (fun _ => ?_))
    | (simp only [])
    | (with_reducible refine queue_ite _ _ _ _ ?_ ?_)
    | (with_reducible refine queue_ite_fst _ _ _ _ ?_ ?_)
    | (with_reducible refine queue_ite_snd _ _ _ _ ?_ ?_)
    | (with_reducible refine keeps_ite _ _ _ _ ?_ ?_)
    | (intro _ _)
    | (simp +zetaDelta)
    | split

@[simp ↓] theorem assaySetup_queue (s : State) (n : Nat) (a : Assay) :
    (queueOf (assaySetup s n a)) = (queueOf s) := by
  unfold assaySetup
  repeat' first
    | with_reducible rfl
    | (simp +zetaDelta [foldl_queue, foldl_snd_queue, foldl_fst_queue, pending_eq_queue]; done)
    | (with_reducible rw [foldl_queue])
    | (rw [pending_eq_queue])
    | (with_reducible exact hereFront_queue _ _ _ _ _ (by assumption))
    | (with_reducible refine withPart_queue _ _ _ _ _ (fun _ => ?_))
    | (with_reducible refine withTile_queue _ _ _ _ _ (fun _ => ?_))
    | (with_reducible refine lotEnded_queue _ _ _ (fun _ => ?_))
    | (with_reducible refine stageCtx_queue _ _ _ (fun _ => ?_))
    | (with_reducible refine stageMod_queue _ _ _ ?_)
    | (with_reducible refine stageMask_queue _ _ _ (fun _ => ?_))
    | (with_reducible exact takeRegs_queue _ _ _ _ (by assumption))
    | (with_reducible refine opNamed_queue _ _ _ (fun _ => ?_))
    | (with_reducible refine dbgTile_queue _ _ _ (fun _ => ?_))
    | (simp only [])
    | (with_reducible refine queue_ite _ _ _ _ ?_ ?_)
    | (with_reducible refine queue_ite_fst _ _ _ _ ?_ ?_)
    | (with_reducible refine queue_ite_snd _ _ _ _ ?_ ?_)
    | (with_reducible refine keeps_ite _ _ _ _ ?_ ?_)
    | (intro _ _)
    | (simp +zetaDelta)
    | split

theorem execAssayStart_keeps (n : Nat) (s : State) : Keeps (queueOf s) (execAssayStart n s) := by
  unfold execAssayStart
  repeat' first
    | with_reducible rfl
    | (simp +zetaDelta [foldl_queue, foldl_snd_queue, foldl_fst_queue, pending_eq_queue]; done)
    | (with_reducible rw [foldl_queue])
    | (rw [pending_eq_queue])
    | (with_reducible exact hereFront_queue _ _ _ _ _ (by assumption))
    | (with_reducible refine withPart_queue _ _ _ _ _ (fun _ => ?_))
    | (with_reducible refine withTile_queue _ _ _ _ _ (fun _ => ?_))
    | (with_reducible refine lotEnded_queue _ _ _ (fun _ => ?_))
    | (with_reducible refine stageCtx_queue _ _ _ (fun _ => ?_))
    | (with_reducible refine stageMod_queue _ _ _ ?_)
    | (with_reducible refine stageMask_queue _ _ _ (fun _ => ?_))
    | (with_reducible exact takeRegs_queue _ _ _ _ (by assumption))
    | (with_reducible refine opNamed_queue _ _ _ (fun _ => ?_))
    | (with_reducible refine dbgTile_queue _ _ _ (fun _ => ?_))
    | (simp only [])
    | (with_reducible refine queue_ite _ _ _ _ ?_ ?_)
    | (with_reducible refine queue_ite_fst _ _ _ _ ?_ ?_)
    | (with_reducible refine queue_ite_snd _ _ _ _ ?_ ?_)
    | (with_reducible refine keeps_ite _ _ _ _ ?_ ?_)
    | (intro _ _)
    | (simp +zetaDelta)
    | split

theorem execAssayReplayEnd_keeps (n : Nat) (s : State) : Keeps (queueOf s) (execAssayReplayEnd n s) := by
  unfold execAssayReplayEnd
  repeat' first
    | with_reducible rfl
    | (simp +zetaDelta [foldl_queue, foldl_snd_queue, foldl_fst_queue, pending_eq_queue]; done)
    | (with_reducible rw [foldl_queue])
    | (rw [pending_eq_queue])
    | (with_reducible exact hereFront_queue _ _ _ _ _ (by assumption))
    | (with_reducible refine withPart_queue _ _ _ _ _ (fun _ => ?_))
    | (with_reducible refine withTile_queue _ _ _ _ _ (fun _ => ?_))
    | (with_reducible refine lotEnded_queue _ _ _ (fun _ => ?_))
    | (with_reducible refine stageCtx_queue _ _ _ (fun _ => ?_))
    | (with_reducible refine stageMod_queue _ _ _ ?_)
    | (with_reducible refine stageMask_queue _ _ _ (fun _ => ?_))
    | (with_reducible exact takeRegs_queue _ _ _ _ (by assumption))
    | (with_reducible refine opNamed_queue _ _ _ (fun _ => ?_))
    | (with_reducible refine dbgTile_queue _ _ _ (fun _ => ?_))
    | (simp only [])
    | (with_reducible refine queue_ite _ _ _ _ ?_ ?_)
    | (with_reducible refine queue_ite_fst _ _ _ _ ?_ ?_)
    | (with_reducible refine queue_ite_snd _ _ _ _ ?_ ?_)
    | (with_reducible refine keeps_ite _ _ _ _ ?_ ?_)
    | (intro _ _)
    | (simp +zetaDelta)
    | split

/-! ## Sys2Proof/Machine/MailDbg.lean -/

@[simp ↓] theorem voidLots_queue (s : State) (n : Nat) :
    (queueOf (voidLots s n)) = (queueOf s) := by
  unfold voidLots
  repeat' first
    | with_reducible rfl
    | (simp +zetaDelta [foldl_queue, foldl_snd_queue, foldl_fst_queue, pending_eq_queue]; done)
    | (with_reducible rw [foldl_queue])
    | (rw [pending_eq_queue])
    | (with_reducible exact hereFront_queue _ _ _ _ _ (by assumption))
    | (with_reducible refine withPart_queue _ _ _ _ _ (fun _ => ?_))
    | (with_reducible refine withTile_queue _ _ _ _ _ (fun _ => ?_))
    | (with_reducible refine lotEnded_queue _ _ _ (fun _ => ?_))
    | (with_reducible refine stageCtx_queue _ _ _ (fun _ => ?_))
    | (with_reducible refine stageMod_queue _ _ _ ?_)
    | (with_reducible refine stageMask_queue _ _ _ (fun _ => ?_))
    | (with_reducible exact takeRegs_queue _ _ _ _ (by assumption))
    | (with_reducible refine opNamed_queue _ _ _ (fun _ => ?_))
    | (with_reducible refine dbgTile_queue _ _ _ (fun _ => ?_))
    | (simp only [])
    | (with_reducible refine queue_ite _ _ _ _ ?_ ?_)
    | (with_reducible refine queue_ite_fst _ _ _ _ ?_ ?_)
    | (with_reducible refine queue_ite_snd _ _ _ _ ?_ ?_)
    | (with_reducible refine keeps_ite _ _ _ _ ?_ ?_)
    | (intro _ _)
    | (simp +zetaDelta)
    | split

theorem dbgTile_queue (s : State) (c : MCmd) (f : Nat → Ans) (h : ∀ n, (queueOf ((f n).st)) = (queueOf s)) :
    (queueOf ((dbgTile s c f).st)) = (queueOf s) := by
  unfold dbgTile
  exact withTile_queue _ _ _ _ _ h

theorem takeRegs_queue (p : Nat) (l : List Nat) (s : State) (r : List Byte × State) (h : takeRegs p l s = some r) :
    (queueOf (r.2)) = (queueOf s) := by
  induction l generalizing s r with
  | nil =>
    cases h
    rfl
  | cons c cs ih =>
    unfold takeRegs at h
    split at h
    · cases h
    · split at h
      · cases h
      · rename_i q he
        cases h
        have := ih _ _ he
        simpa using this

@[simp ↓] theorem dbgRegRead_queue (s : State) (c : MCmd) :
    (queueOf ((dbgRegRead s c).st)) = (queueOf s) := by
  unfold dbgRegRead
  repeat' first
    | with_reducible rfl
    | (simp +zetaDelta [foldl_queue, foldl_snd_queue, foldl_fst_queue, pending_eq_queue]; done)
    | (with_reducible rw [foldl_queue])
    | (rw [pending_eq_queue])
    | (with_reducible exact hereFront_queue _ _ _ _ _ (by assumption))
    | (with_reducible refine withPart_queue _ _ _ _ _ (fun _ => ?_))
    | (with_reducible refine withTile_queue _ _ _ _ _ (fun _ => ?_))
    | (with_reducible refine lotEnded_queue _ _ _ (fun _ => ?_))
    | (with_reducible refine stageCtx_queue _ _ _ (fun _ => ?_))
    | (with_reducible refine stageMod_queue _ _ _ ?_)
    | (with_reducible refine stageMask_queue _ _ _ (fun _ => ?_))
    | (with_reducible exact takeRegs_queue _ _ _ _ (by assumption))
    | (with_reducible refine opNamed_queue _ _ _ (fun _ => ?_))
    | (with_reducible refine dbgTile_queue _ _ _ (fun _ => ?_))
    | (simp only [])
    | (with_reducible refine queue_ite _ _ _ _ ?_ ?_)
    | (with_reducible refine queue_ite_fst _ _ _ _ ?_ ?_)
    | (with_reducible refine queue_ite_snd _ _ _ _ ?_ ?_)
    | (with_reducible refine keeps_ite _ _ _ _ ?_ ?_)
    | (intro _ _)
    | (simp +zetaDelta)
    | split

theorem dbgPut_queue (s : State) (p k v : Nat) (t : State) (h : dbgPut s p k v = some t) : queueOf t = queueOf s := by
  unfold dbgPut at h
  split at h
  · cases h; simp
  · split at h
    · cases h; simp
    · split at h
      · exact qsendPut_queue _ _ _ _ h
      · cases h; simp

@[simp ↓] theorem dbgRegWrite_queue (s : State) (c : MCmd) :
    (queueOf ((dbgRegWrite s c).st)) = (queueOf s) := by
  unfold dbgRegWrite
  refine dbgTile_queue _ _ _ (fun p => ?_)
  simp only []
  split
  · simp
  · split
    · simp
    · split
      · rename_i u he
        simpa using dbgPut_queue _ _ _ _ _ he
      · simp

@[simp ↓] theorem dbgStoreRead_queue (s : State) (c : MCmd) :
    (queueOf ((dbgStoreRead s c).st)) = (queueOf s) := by
  unfold dbgStoreRead
  repeat' first
    | with_reducible rfl
    | (simp +zetaDelta [foldl_queue, foldl_snd_queue, foldl_fst_queue, pending_eq_queue]; done)
    | (with_reducible rw [foldl_queue])
    | (rw [pending_eq_queue])
    | (with_reducible exact hereFront_queue _ _ _ _ _ (by assumption))
    | (with_reducible refine withPart_queue _ _ _ _ _ (fun _ => ?_))
    | (with_reducible refine withTile_queue _ _ _ _ _ (fun _ => ?_))
    | (with_reducible refine lotEnded_queue _ _ _ (fun _ => ?_))
    | (with_reducible refine stageCtx_queue _ _ _ (fun _ => ?_))
    | (with_reducible refine stageMod_queue _ _ _ ?_)
    | (with_reducible refine stageMask_queue _ _ _ (fun _ => ?_))
    | (with_reducible exact takeRegs_queue _ _ _ _ (by assumption))
    | (with_reducible refine opNamed_queue _ _ _ (fun _ => ?_))
    | (with_reducible refine dbgTile_queue _ _ _ (fun _ => ?_))
    | (simp only [])
    | (with_reducible refine queue_ite _ _ _ _ ?_ ?_)
    | (with_reducible refine queue_ite_fst _ _ _ _ ?_ ?_)
    | (with_reducible refine queue_ite_snd _ _ _ _ ?_ ?_)
    | (with_reducible refine keeps_ite _ _ _ _ ?_ ?_)
    | (intro _ _)
    | (simp +zetaDelta)
    | split

@[simp ↓] theorem dbgStoreWrite_queue (s : State) (c : MCmd) :
    (queueOf ((dbgStoreWrite s c).st)) = (queueOf s) := by
  unfold dbgStoreWrite
  repeat' first
    | with_reducible rfl
    | (simp +zetaDelta [foldl_queue, foldl_snd_queue, foldl_fst_queue, pending_eq_queue]; done)
    | (with_reducible rw [foldl_queue])
    | (rw [pending_eq_queue])
    | (with_reducible exact hereFront_queue _ _ _ _ _ (by assumption))
    | (with_reducible refine withPart_queue _ _ _ _ _ (fun _ => ?_))
    | (with_reducible refine withTile_queue _ _ _ _ _ (fun _ => ?_))
    | (with_reducible refine lotEnded_queue _ _ _ (fun _ => ?_))
    | (with_reducible refine stageCtx_queue _ _ _ (fun _ => ?_))
    | (with_reducible refine stageMod_queue _ _ _ ?_)
    | (with_reducible refine stageMask_queue _ _ _ (fun _ => ?_))
    | (with_reducible exact takeRegs_queue _ _ _ _ (by assumption))
    | (with_reducible refine opNamed_queue _ _ _ (fun _ => ?_))
    | (with_reducible refine dbgTile_queue _ _ _ (fun _ => ?_))
    | (simp only [])
    | (with_reducible refine queue_ite _ _ _ _ ?_ ?_)
    | (with_reducible refine queue_ite_fst _ _ _ _ ?_ ?_)
    | (with_reducible refine queue_ite_snd _ _ _ _ ?_ ?_)
    | (with_reducible refine keeps_ite _ _ _ _ ?_ ?_)
    | (intro _ _)
    | (simp +zetaDelta)
    | split

@[simp ↓] theorem dbgImageRead_queue (s : State) (c : MCmd) :
    (queueOf ((dbgImageRead s c).st)) = (queueOf s) := by
  unfold dbgImageRead
  repeat' first
    | with_reducible rfl
    | (simp +zetaDelta [foldl_queue, foldl_snd_queue, foldl_fst_queue, pending_eq_queue]; done)
    | (with_reducible rw [foldl_queue])
    | (rw [pending_eq_queue])
    | (with_reducible exact hereFront_queue _ _ _ _ _ (by assumption))
    | (with_reducible refine withPart_queue _ _ _ _ _ (fun _ => ?_))
    | (with_reducible refine withTile_queue _ _ _ _ _ (fun _ => ?_))
    | (with_reducible refine lotEnded_queue _ _ _ (fun _ => ?_))
    | (with_reducible refine stageCtx_queue _ _ _ (fun _ => ?_))
    | (with_reducible refine stageMod_queue _ _ _ ?_)
    | (with_reducible refine stageMask_queue _ _ _ (fun _ => ?_))
    | (with_reducible exact takeRegs_queue _ _ _ _ (by assumption))
    | (with_reducible refine opNamed_queue _ _ _ (fun _ => ?_))
    | (with_reducible refine dbgTile_queue _ _ _ (fun _ => ?_))
    | (simp only [])
    | (with_reducible refine queue_ite _ _ _ _ ?_ ?_)
    | (with_reducible refine queue_ite_fst _ _ _ _ ?_ ?_)
    | (with_reducible refine queue_ite_snd _ _ _ _ ?_ ?_)
    | (with_reducible refine keeps_ite _ _ _ _ ?_ ?_)
    | (intro _ _)
    | (simp +zetaDelta)
    | split

@[simp ↓] theorem dbgChanRead_queue (s : State) (c : MCmd) :
    (queueOf ((dbgChanRead s c).st)) = (queueOf s) := by
  unfold dbgChanRead
  repeat' first
    | with_reducible rfl
    | (simp +zetaDelta [foldl_queue, foldl_snd_queue, foldl_fst_queue, pending_eq_queue]; done)
    | (with_reducible rw [foldl_queue])
    | (rw [pending_eq_queue])
    | (with_reducible exact hereFront_queue _ _ _ _ _ (by assumption))
    | (with_reducible refine withPart_queue _ _ _ _ _ (fun _ => ?_))
    | (with_reducible refine withTile_queue _ _ _ _ _ (fun _ => ?_))
    | (with_reducible refine lotEnded_queue _ _ _ (fun _ => ?_))
    | (with_reducible refine stageCtx_queue _ _ _ (fun _ => ?_))
    | (with_reducible refine stageMod_queue _ _ _ ?_)
    | (with_reducible refine stageMask_queue _ _ _ (fun _ => ?_))
    | (with_reducible exact takeRegs_queue _ _ _ _ (by assumption))
    | (with_reducible refine opNamed_queue _ _ _ (fun _ => ?_))
    | (with_reducible refine dbgTile_queue _ _ _ (fun _ => ?_))
    | (simp only [])
    | (with_reducible refine queue_ite _ _ _ _ ?_ ?_)
    | (with_reducible refine queue_ite_fst _ _ _ _ ?_ ?_)
    | (with_reducible refine queue_ite_snd _ _ _ _ ?_ ?_)
    | (with_reducible refine keeps_ite _ _ _ _ ?_ ?_)
    | (intro _ _)
    | (simp +zetaDelta)
    | split

@[simp ↓] theorem dbgResume_queue (s : State) (c : MCmd) :
    (queueOf ((dbgResume s c).st)) = (queueOf s) := by
  unfold dbgResume
  repeat' first
    | with_reducible rfl
    | (simp +zetaDelta [foldl_queue, foldl_snd_queue, foldl_fst_queue, pending_eq_queue]; done)
    | (with_reducible rw [foldl_queue])
    | (rw [pending_eq_queue])
    | (with_reducible exact hereFront_queue _ _ _ _ _ (by assumption))
    | (with_reducible refine withPart_queue _ _ _ _ _ (fun _ => ?_))
    | (with_reducible refine withTile_queue _ _ _ _ _ (fun _ => ?_))
    | (with_reducible refine lotEnded_queue _ _ _ (fun _ => ?_))
    | (with_reducible refine stageCtx_queue _ _ _ (fun _ => ?_))
    | (with_reducible refine stageMod_queue _ _ _ ?_)
    | (with_reducible refine stageMask_queue _ _ _ (fun _ => ?_))
    | (with_reducible exact takeRegs_queue _ _ _ _ (by assumption))
    | (with_reducible refine opNamed_queue _ _ _ (fun _ => ?_))
    | (with_reducible refine dbgTile_queue _ _ _ (fun _ => ?_))
    | (simp only [])
    | (with_reducible refine queue_ite _ _ _ _ ?_ ?_)
    | (with_reducible refine queue_ite_fst _ _ _ _ ?_ ?_)
    | (with_reducible refine queue_ite_snd _ _ _ _ ?_ ?_)
    | (with_reducible refine keeps_ite _ _ _ _ ?_ ?_)
    | (intro _ _)
    | (simp +zetaDelta)
    | split

@[simp ↓] theorem looseSet_queue (s : State) (n : Nat) (on : Bool) :
    (queueOf (looseSet s n on)) = (queueOf s) := by
  unfold looseSet
  repeat' first
    | with_reducible rfl
    | (simp +zetaDelta [foldl_queue, foldl_snd_queue, foldl_fst_queue, pending_eq_queue]; done)
    | (with_reducible rw [foldl_queue])
    | (rw [pending_eq_queue])
    | (with_reducible exact hereFront_queue _ _ _ _ _ (by assumption))
    | (with_reducible refine withPart_queue _ _ _ _ _ (fun _ => ?_))
    | (with_reducible refine withTile_queue _ _ _ _ _ (fun _ => ?_))
    | (with_reducible refine lotEnded_queue _ _ _ (fun _ => ?_))
    | (with_reducible refine stageCtx_queue _ _ _ (fun _ => ?_))
    | (with_reducible refine stageMod_queue _ _ _ ?_)
    | (with_reducible refine stageMask_queue _ _ _ (fun _ => ?_))
    | (with_reducible exact takeRegs_queue _ _ _ _ (by assumption))
    | (with_reducible refine opNamed_queue _ _ _ (fun _ => ?_))
    | (with_reducible refine dbgTile_queue _ _ _ (fun _ => ?_))
    | (simp only [])
    | (with_reducible refine queue_ite _ _ _ _ ?_ ?_)
    | (with_reducible refine queue_ite_fst _ _ _ _ ?_ ?_)
    | (with_reducible refine queue_ite_snd _ _ _ _ ?_ ?_)
    | (with_reducible refine keeps_ite _ _ _ _ ?_ ?_)
    | (intro _ _)
    | (simp +zetaDelta)
    | split

@[simp ↓] theorem dbgLooseOn_queue (s : State) (c : MCmd) :
    (queueOf ((dbgLooseOn s c).st)) = (queueOf s) := by
  unfold dbgLooseOn
  repeat' first
    | with_reducible rfl
    | (simp +zetaDelta [foldl_queue, foldl_snd_queue, foldl_fst_queue, pending_eq_queue]; done)
    | (with_reducible rw [foldl_queue])
    | (rw [pending_eq_queue])
    | (with_reducible exact hereFront_queue _ _ _ _ _ (by assumption))
    | (with_reducible refine withPart_queue _ _ _ _ _ (fun _ => ?_))
    | (with_reducible refine withTile_queue _ _ _ _ _ (fun _ => ?_))
    | (with_reducible refine lotEnded_queue _ _ _ (fun _ => ?_))
    | (with_reducible refine stageCtx_queue _ _ _ (fun _ => ?_))
    | (with_reducible refine stageMod_queue _ _ _ ?_)
    | (with_reducible refine stageMask_queue _ _ _ (fun _ => ?_))
    | (with_reducible exact takeRegs_queue _ _ _ _ (by assumption))
    | (with_reducible refine opNamed_queue _ _ _ (fun _ => ?_))
    | (with_reducible refine dbgTile_queue _ _ _ (fun _ => ?_))
    | (simp only [])
    | (with_reducible refine queue_ite _ _ _ _ ?_ ?_)
    | (with_reducible refine queue_ite_fst _ _ _ _ ?_ ?_)
    | (with_reducible refine queue_ite_snd _ _ _ _ ?_ ?_)
    | (with_reducible refine keeps_ite _ _ _ _ ?_ ?_)
    | (intro _ _)
    | (simp +zetaDelta)
    | split

@[simp ↓] theorem dbgLooseOff_queue (s : State) (c : MCmd) :
    (queueOf ((dbgLooseOff s c).st)) = (queueOf s) := by
  unfold dbgLooseOff
  repeat' first
    | with_reducible rfl
    | (simp +zetaDelta [foldl_queue, foldl_snd_queue, foldl_fst_queue, pending_eq_queue]; done)
    | (with_reducible rw [foldl_queue])
    | (rw [pending_eq_queue])
    | (with_reducible exact hereFront_queue _ _ _ _ _ (by assumption))
    | (with_reducible refine withPart_queue _ _ _ _ _ (fun _ => ?_))
    | (with_reducible refine withTile_queue _ _ _ _ _ (fun _ => ?_))
    | (with_reducible refine lotEnded_queue _ _ _ (fun _ => ?_))
    | (with_reducible refine stageCtx_queue _ _ _ (fun _ => ?_))
    | (with_reducible refine stageMod_queue _ _ _ ?_)
    | (with_reducible refine stageMask_queue _ _ _ (fun _ => ?_))
    | (with_reducible exact takeRegs_queue _ _ _ _ (by assumption))
    | (with_reducible refine opNamed_queue _ _ _ (fun _ => ?_))
    | (with_reducible refine dbgTile_queue _ _ _ (fun _ => ?_))
    | (simp only [])
    | (with_reducible refine queue_ite _ _ _ _ ?_ ?_)
    | (with_reducible refine queue_ite_fst _ _ _ _ ?_ ?_)
    | (with_reducible refine queue_ite_snd _ _ _ _ ?_ ?_)
    | (with_reducible refine keeps_ite _ _ _ _ ?_ ?_)
    | (intro _ _)
    | (simp +zetaDelta)
    | split

@[simp ↓] theorem dbgClkHalt_queue (s : State) (c : MCmd) :
    (queueOf ((dbgClkHalt s c).st)) = (queueOf s) := by
  unfold dbgClkHalt
  repeat' first
    | with_reducible rfl
    | (simp +zetaDelta [foldl_queue, foldl_snd_queue, foldl_fst_queue, pending_eq_queue]; done)
    | (with_reducible rw [foldl_queue])
    | (rw [pending_eq_queue])
    | (with_reducible exact hereFront_queue _ _ _ _ _ (by assumption))
    | (with_reducible refine withPart_queue _ _ _ _ _ (fun _ => ?_))
    | (with_reducible refine withTile_queue _ _ _ _ _ (fun _ => ?_))
    | (with_reducible refine lotEnded_queue _ _ _ (fun _ => ?_))
    | (with_reducible refine stageCtx_queue _ _ _ (fun _ => ?_))
    | (with_reducible refine stageMod_queue _ _ _ ?_)
    | (with_reducible refine stageMask_queue _ _ _ (fun _ => ?_))
    | (with_reducible exact takeRegs_queue _ _ _ _ (by assumption))
    | (with_reducible refine opNamed_queue _ _ _ (fun _ => ?_))
    | (with_reducible refine dbgTile_queue _ _ _ (fun _ => ?_))
    | (simp only [])
    | (with_reducible refine queue_ite _ _ _ _ ?_ ?_)
    | (with_reducible refine queue_ite_fst _ _ _ _ ?_ ?_)
    | (with_reducible refine queue_ite_snd _ _ _ _ ?_ ?_)
    | (with_reducible refine keeps_ite _ _ _ _ ?_ ?_)
    | (intro _ _)
    | (simp +zetaDelta)
    | split

@[simp ↓] theorem clerkStep_queue (s : State) (p : Nat) :
    (queueOf (clerkStep s p)) = (queueOf s) := by
  unfold clerkStep
  repeat' first
    | with_reducible rfl
    | (simp +zetaDelta [foldl_queue, foldl_snd_queue, foldl_fst_queue, pending_eq_queue]; done)
    | (with_reducible rw [foldl_queue])
    | (rw [pending_eq_queue])
    | (with_reducible exact hereFront_queue _ _ _ _ _ (by assumption))
    | (with_reducible refine withPart_queue _ _ _ _ _ (fun _ => ?_))
    | (with_reducible refine withTile_queue _ _ _ _ _ (fun _ => ?_))
    | (with_reducible refine lotEnded_queue _ _ _ (fun _ => ?_))
    | (with_reducible refine stageCtx_queue _ _ _ (fun _ => ?_))
    | (with_reducible refine stageMod_queue _ _ _ ?_)
    | (with_reducible refine stageMask_queue _ _ _ (fun _ => ?_))
    | (with_reducible exact takeRegs_queue _ _ _ _ (by assumption))
    | (with_reducible refine opNamed_queue _ _ _ (fun _ => ?_))
    | (with_reducible refine dbgTile_queue _ _ _ (fun _ => ?_))
    | (simp only [])
    | (with_reducible refine queue_ite _ _ _ _ ?_ ?_)
    | (with_reducible refine queue_ite_fst _ _ _ _ ?_ ?_)
    | (with_reducible refine queue_ite_snd _ _ _ _ ?_ ?_)
    | (with_reducible refine keeps_ite _ _ _ _ ?_ ?_)
    | (intro _ _)
    | (simp +zetaDelta)
    | split

@[simp ↓] theorem dbgClkStep_queue (s : State) (c : MCmd) :
    (queueOf ((dbgClkStep s c).st)) = (queueOf s) := by
  unfold dbgClkStep
  repeat' first
    | with_reducible rfl
    | (simp +zetaDelta [foldl_queue, foldl_snd_queue, foldl_fst_queue, pending_eq_queue]; done)
    | (with_reducible rw [foldl_queue])
    | (rw [pending_eq_queue])
    | (with_reducible exact hereFront_queue _ _ _ _ _ (by assumption))
    | (with_reducible refine withPart_queue _ _ _ _ _ (fun _ => ?_))
    | (with_reducible refine withTile_queue _ _ _ _ _ (fun _ => ?_))
    | (with_reducible refine lotEnded_queue _ _ _ (fun _ => ?_))
    | (with_reducible refine stageCtx_queue _ _ _ (fun _ => ?_))
    | (with_reducible refine stageMod_queue _ _ _ ?_)
    | (with_reducible refine stageMask_queue _ _ _ (fun _ => ?_))
    | (with_reducible exact takeRegs_queue _ _ _ _ (by assumption))
    | (with_reducible refine opNamed_queue _ _ _ (fun _ => ?_))
    | (with_reducible refine dbgTile_queue _ _ _ (fun _ => ?_))
    | (simp only [])
    | (with_reducible refine queue_ite _ _ _ _ ?_ ?_)
    | (with_reducible refine queue_ite_fst _ _ _ _ ?_ ?_)
    | (with_reducible refine queue_ite_snd _ _ _ _ ?_ ?_)
    | (with_reducible refine keeps_ite _ _ _ _ ?_ ?_)
    | (intro _ _)
    | (simp +zetaDelta)
    | split

@[simp ↓] theorem dbgClkResume_queue (s : State) (c : MCmd) :
    (queueOf ((dbgClkResume s c).st)) = (queueOf s) := by
  unfold dbgClkResume
  repeat' first
    | with_reducible rfl
    | (simp +zetaDelta [foldl_queue, foldl_snd_queue, foldl_fst_queue, pending_eq_queue]; done)
    | (with_reducible rw [foldl_queue])
    | (rw [pending_eq_queue])
    | (with_reducible exact hereFront_queue _ _ _ _ _ (by assumption))
    | (with_reducible refine withPart_queue _ _ _ _ _ (fun _ => ?_))
    | (with_reducible refine withTile_queue _ _ _ _ _ (fun _ => ?_))
    | (with_reducible refine lotEnded_queue _ _ _ (fun _ => ?_))
    | (with_reducible refine stageCtx_queue _ _ _ (fun _ => ?_))
    | (with_reducible refine stageMod_queue _ _ _ ?_)
    | (with_reducible refine stageMask_queue _ _ _ (fun _ => ?_))
    | (with_reducible exact takeRegs_queue _ _ _ _ (by assumption))
    | (with_reducible refine opNamed_queue _ _ _ (fun _ => ?_))
    | (with_reducible refine dbgTile_queue _ _ _ (fun _ => ?_))
    | (simp only [])
    | (with_reducible refine queue_ite _ _ _ _ ?_ ?_)
    | (with_reducible refine queue_ite_fst _ _ _ _ ?_ ?_)
    | (with_reducible refine queue_ite_snd _ _ _ _ ?_ ?_)
    | (with_reducible refine keeps_ite _ _ _ _ ?_ ?_)
    | (intro _ _)
    | (simp +zetaDelta)
    | split

@[simp ↓] theorem dbgClkSet_queue (s : State) (c : MCmd) :
    (queueOf ((dbgClkSet s c).st)) = (queueOf s) := by
  unfold dbgClkSet
  repeat' first
    | with_reducible rfl
    | (simp +zetaDelta [foldl_queue, foldl_snd_queue, foldl_fst_queue, pending_eq_queue]; done)
    | (with_reducible rw [foldl_queue])
    | (rw [pending_eq_queue])
    | (with_reducible exact hereFront_queue _ _ _ _ _ (by assumption))
    | (with_reducible refine withPart_queue _ _ _ _ _ (fun _ => ?_))
    | (with_reducible refine withTile_queue _ _ _ _ _ (fun _ => ?_))
    | (with_reducible refine lotEnded_queue _ _ _ (fun _ => ?_))
    | (with_reducible refine stageCtx_queue _ _ _ (fun _ => ?_))
    | (with_reducible refine stageMod_queue _ _ _ ?_)
    | (with_reducible refine stageMask_queue _ _ _ (fun _ => ?_))
    | (with_reducible exact takeRegs_queue _ _ _ _ (by assumption))
    | (with_reducible refine opNamed_queue _ _ _ (fun _ => ?_))
    | (with_reducible refine dbgTile_queue _ _ _ (fun _ => ?_))
    | (simp only [])
    | (with_reducible refine queue_ite _ _ _ _ ?_ ?_)
    | (with_reducible refine queue_ite_fst _ _ _ _ ?_ ?_)
    | (with_reducible refine queue_ite_snd _ _ _ _ ?_ ?_)
    | (with_reducible refine keeps_ite _ _ _ _ ?_ ?_)
    | (intro _ _)
    | (simp +zetaDelta)
    | split

@[simp ↓] theorem dbgTraceSet_queue (s : State) (c : MCmd) :
    (queueOf ((dbgTraceSet s c).st)) = (queueOf s) := by
  unfold dbgTraceSet
  repeat' first
    | with_reducible rfl
    | (simp +zetaDelta [foldl_queue, foldl_snd_queue, foldl_fst_queue, pending_eq_queue]; done)
    | (with_reducible rw [foldl_queue])
    | (rw [pending_eq_queue])
    | (with_reducible exact hereFront_queue _ _ _ _ _ (by assumption))
    | (with_reducible refine withPart_queue _ _ _ _ _ (fun _ => ?_))
    | (with_reducible refine withTile_queue _ _ _ _ _ (fun _ => ?_))
    | (with_reducible refine lotEnded_queue _ _ _ (fun _ => ?_))
    | (with_reducible refine stageCtx_queue _ _ _ (fun _ => ?_))
    | (with_reducible refine stageMod_queue _ _ _ ?_)
    | (with_reducible refine stageMask_queue _ _ _ (fun _ => ?_))
    | (with_reducible exact takeRegs_queue _ _ _ _ (by assumption))
    | (with_reducible refine opNamed_queue _ _ _ (fun _ => ?_))
    | (with_reducible refine dbgTile_queue _ _ _ (fun _ => ?_))
    | (simp only [])
    | (with_reducible refine queue_ite _ _ _ _ ?_ ?_)
    | (with_reducible refine queue_ite_fst _ _ _ _ ?_ ?_)
    | (with_reducible refine queue_ite_snd _ _ _ _ ?_ ?_)
    | (with_reducible refine keeps_ite _ _ _ _ ?_ ?_)
    | (intro _ _)
    | (simp +zetaDelta)
    | split

@[simp ↓] theorem dbgTraceRead_queue (s : State) (c : MCmd) :
    (queueOf ((dbgTraceRead s c).st)) = (queueOf s) := by
  unfold dbgTraceRead
  repeat' first
    | with_reducible rfl
    | (simp +zetaDelta [foldl_queue, foldl_snd_queue, foldl_fst_queue, pending_eq_queue]; done)
    | (with_reducible rw [foldl_queue])
    | (rw [pending_eq_queue])
    | (with_reducible exact hereFront_queue _ _ _ _ _ (by assumption))
    | (with_reducible refine withPart_queue _ _ _ _ _ (fun _ => ?_))
    | (with_reducible refine withTile_queue _ _ _ _ _ (fun _ => ?_))
    | (with_reducible refine lotEnded_queue _ _ _ (fun _ => ?_))
    | (with_reducible refine stageCtx_queue _ _ _ (fun _ => ?_))
    | (with_reducible refine stageMod_queue _ _ _ ?_)
    | (with_reducible refine stageMask_queue _ _ _ (fun _ => ?_))
    | (with_reducible exact takeRegs_queue _ _ _ _ (by assumption))
    | (with_reducible refine opNamed_queue _ _ _ (fun _ => ?_))
    | (with_reducible refine dbgTile_queue _ _ _ (fun _ => ?_))
    | (simp only [])
    | (with_reducible refine queue_ite _ _ _ _ ?_ ?_)
    | (with_reducible refine queue_ite_fst _ _ _ _ ?_ ?_)
    | (with_reducible refine queue_ite_snd _ _ _ _ ?_ ?_)
    | (with_reducible refine keeps_ite _ _ _ _ ?_ ?_)
    | (intro _ _)
    | (simp +zetaDelta)
    | split

@[simp ↓] theorem dbgMillNan_queue (s : State) (c : MCmd) :
    (queueOf ((dbgMillNan s c).st)) = (queueOf s) := by
  unfold dbgMillNan
  repeat' first
    | with_reducible rfl
    | (simp +zetaDelta [foldl_queue, foldl_snd_queue, foldl_fst_queue, pending_eq_queue]; done)
    | (with_reducible rw [foldl_queue])
    | (rw [pending_eq_queue])
    | (with_reducible exact hereFront_queue _ _ _ _ _ (by assumption))
    | (with_reducible refine withPart_queue _ _ _ _ _ (fun _ => ?_))
    | (with_reducible refine withTile_queue _ _ _ _ _ (fun _ => ?_))
    | (with_reducible refine lotEnded_queue _ _ _ (fun _ => ?_))
    | (with_reducible refine stageCtx_queue _ _ _ (fun _ => ?_))
    | (with_reducible refine stageMod_queue _ _ _ ?_)
    | (with_reducible refine stageMask_queue _ _ _ (fun _ => ?_))
    | (with_reducible exact takeRegs_queue _ _ _ _ (by assumption))
    | (with_reducible refine opNamed_queue _ _ _ (fun _ => ?_))
    | (with_reducible refine dbgTile_queue _ _ _ (fun _ => ?_))
    | (simp only [])
    | (with_reducible refine queue_ite _ _ _ _ ?_ ?_)
    | (with_reducible refine queue_ite_fst _ _ _ _ ?_ ?_)
    | (with_reducible refine queue_ite_snd _ _ _ _ ?_ ?_)
    | (with_reducible refine keeps_ite _ _ _ _ ?_ ?_)
    | (intro _ _)
    | (simp +zetaDelta)
    | split

@[simp ↓] theorem trigHalt_queue (s : State) (n : Nat) :
    (queueOf (trigHalt s n)) = (queueOf s) := by
  unfold trigHalt
  repeat' first
    | with_reducible rfl
    | (simp +zetaDelta [foldl_queue, foldl_snd_queue, foldl_fst_queue, pending_eq_queue]; done)
    | (with_reducible rw [foldl_queue])
    | (rw [pending_eq_queue])
    | (with_reducible exact hereFront_queue _ _ _ _ _ (by assumption))
    | (with_reducible refine withPart_queue _ _ _ _ _ (fun _ => ?_))
    | (with_reducible refine withTile_queue _ _ _ _ _ (fun _ => ?_))
    | (with_reducible refine lotEnded_queue _ _ _ (fun _ => ?_))
    | (with_reducible refine stageCtx_queue _ _ _ (fun _ => ?_))
    | (with_reducible refine stageMod_queue _ _ _ ?_)
    | (with_reducible refine stageMask_queue _ _ _ (fun _ => ?_))
    | (with_reducible exact takeRegs_queue _ _ _ _ (by assumption))
    | (with_reducible refine opNamed_queue _ _ _ (fun _ => ?_))
    | (with_reducible refine dbgTile_queue _ _ _ (fun _ => ?_))
    | (simp only [])
    | (with_reducible refine queue_ite _ _ _ _ ?_ ?_)
    | (with_reducible refine queue_ite_fst _ _ _ _ ?_ ?_)
    | (with_reducible refine queue_ite_snd _ _ _ _ ?_ ?_)
    | (with_reducible refine keeps_ite _ _ _ _ ?_ ?_)
    | (intro _ _)
    | (simp +zetaDelta)
    | split

@[simp ↓] theorem trigAct_queue (n : Nat) (s : State) (k : Nat) :
    (queueOf (trigAct n s k)) = (queueOf s) := by
  unfold trigAct
  repeat' first
    | with_reducible rfl
    | (simp +zetaDelta [foldl_queue, foldl_snd_queue, foldl_fst_queue, pending_eq_queue]; done)
    | (with_reducible rw [foldl_queue])
    | (rw [pending_eq_queue])
    | (with_reducible exact hereFront_queue _ _ _ _ _ (by assumption))
    | (with_reducible refine withPart_queue _ _ _ _ _ (fun _ => ?_))
    | (with_reducible refine withTile_queue _ _ _ _ _ (fun _ => ?_))
    | (with_reducible refine lotEnded_queue _ _ _ (fun _ => ?_))
    | (with_reducible refine stageCtx_queue _ _ _ (fun _ => ?_))
    | (with_reducible refine stageMod_queue _ _ _ ?_)
    | (with_reducible refine stageMask_queue _ _ _ (fun _ => ?_))
    | (with_reducible exact takeRegs_queue _ _ _ _ (by assumption))
    | (with_reducible refine opNamed_queue _ _ _ (fun _ => ?_))
    | (with_reducible refine dbgTile_queue _ _ _ (fun _ => ?_))
    | (simp only [])
    | (with_reducible refine queue_ite _ _ _ _ ?_ ?_)
    | (with_reducible refine queue_ite_fst _ _ _ _ ?_ ?_)
    | (with_reducible refine queue_ite_snd _ _ _ _ ?_ ?_)
    | (with_reducible refine keeps_ite _ _ _ _ ?_ ?_)
    | (intro _ _)
    | (simp +zetaDelta)
    | split

theorem execTraceTriggerMatch_keeps (n : Nat) (s : State) : Keeps (queueOf s) (execTraceTriggerMatch n s) := by
  unfold execTraceTriggerMatch
  repeat' first
    | with_reducible rfl
    | (simp +zetaDelta [foldl_queue, foldl_snd_queue, foldl_fst_queue, pending_eq_queue]; done)
    | (with_reducible rw [foldl_queue])
    | (rw [pending_eq_queue])
    | (with_reducible exact hereFront_queue _ _ _ _ _ (by assumption))
    | (with_reducible refine withPart_queue _ _ _ _ _ (fun _ => ?_))
    | (with_reducible refine withTile_queue _ _ _ _ _ (fun _ => ?_))
    | (with_reducible refine lotEnded_queue _ _ _ (fun _ => ?_))
    | (with_reducible refine stageCtx_queue _ _ _ (fun _ => ?_))
    | (with_reducible refine stageMod_queue _ _ _ ?_)
    | (with_reducible refine stageMask_queue _ _ _ (fun _ => ?_))
    | (with_reducible exact takeRegs_queue _ _ _ _ (by assumption))
    | (with_reducible refine opNamed_queue _ _ _ (fun _ => ?_))
    | (with_reducible refine dbgTile_queue _ _ _ (fun _ => ?_))
    | (simp only [])
    | (with_reducible refine queue_ite _ _ _ _ ?_ ?_)
    | (with_reducible refine queue_ite_fst _ _ _ _ ?_ ?_)
    | (with_reducible refine queue_ite_snd _ _ _ _ ?_ ?_)
    | (with_reducible refine keeps_ite _ _ _ _ ?_ ?_)
    | (intro _ _)
    | (simp +zetaDelta)
    | split

theorem execDbgRegRead_keeps (pg : Nat) (req : Option (List Byte)) (respOk : Bool) (s : State) : Keeps (queueOf s) (execDbgRegRead pg req respOk s) := by
  unfold execDbgRegRead
  refine mailRow_keeps _ _ _ _ _ _ _ ?_
  intro s c
  repeat' first
    | with_reducible rfl
    | (simp +zetaDelta [foldl_queue, foldl_snd_queue, foldl_fst_queue, pending_eq_queue]; done)
    | (with_reducible rw [foldl_queue])
    | (rw [pending_eq_queue])
    | (with_reducible exact hereFront_queue _ _ _ _ _ (by assumption))
    | (with_reducible refine withPart_queue _ _ _ _ _ (fun _ => ?_))
    | (with_reducible refine withTile_queue _ _ _ _ _ (fun _ => ?_))
    | (with_reducible refine lotEnded_queue _ _ _ (fun _ => ?_))
    | (with_reducible refine stageCtx_queue _ _ _ (fun _ => ?_))
    | (with_reducible refine stageMod_queue _ _ _ ?_)
    | (with_reducible refine stageMask_queue _ _ _ (fun _ => ?_))
    | (with_reducible exact takeRegs_queue _ _ _ _ (by assumption))
    | (with_reducible refine opNamed_queue _ _ _ (fun _ => ?_))
    | (with_reducible refine dbgTile_queue _ _ _ (fun _ => ?_))
    | (simp only [])
    | (with_reducible refine queue_ite _ _ _ _ ?_ ?_)
    | (with_reducible refine queue_ite_fst _ _ _ _ ?_ ?_)
    | (with_reducible refine queue_ite_snd _ _ _ _ ?_ ?_)
    | (with_reducible refine keeps_ite _ _ _ _ ?_ ?_)
    | (intro _ _)
    | (simp +zetaDelta)
    | split

theorem execDbgRegWrite_keeps (pg : Nat) (req : Option (List Byte)) (respOk : Bool) (s : State) : Keeps (queueOf s) (execDbgRegWrite pg req respOk s) := by
  unfold execDbgRegWrite
  refine mailRow_keeps _ _ _ _ _ _ _ ?_
  intro s c
  repeat' first
    | with_reducible rfl
    | (simp +zetaDelta [foldl_queue, foldl_snd_queue, foldl_fst_queue, pending_eq_queue]; done)
    | (with_reducible rw [foldl_queue])
    | (rw [pending_eq_queue])
    | (with_reducible exact hereFront_queue _ _ _ _ _ (by assumption))
    | (with_reducible refine withPart_queue _ _ _ _ _ (fun _ => ?_))
    | (with_reducible refine withTile_queue _ _ _ _ _ (fun _ => ?_))
    | (with_reducible refine lotEnded_queue _ _ _ (fun _ => ?_))
    | (with_reducible refine stageCtx_queue _ _ _ (fun _ => ?_))
    | (with_reducible refine stageMod_queue _ _ _ ?_)
    | (with_reducible refine stageMask_queue _ _ _ (fun _ => ?_))
    | (with_reducible exact takeRegs_queue _ _ _ _ (by assumption))
    | (with_reducible refine opNamed_queue _ _ _ (fun _ => ?_))
    | (with_reducible refine dbgTile_queue _ _ _ (fun _ => ?_))
    | (simp only [])
    | (with_reducible refine queue_ite _ _ _ _ ?_ ?_)
    | (with_reducible refine queue_ite_fst _ _ _ _ ?_ ?_)
    | (with_reducible refine queue_ite_snd _ _ _ _ ?_ ?_)
    | (with_reducible refine keeps_ite _ _ _ _ ?_ ?_)
    | (intro _ _)
    | (simp +zetaDelta)
    | split

theorem execDbgStoreRead_keeps (pg : Nat) (req : Option (List Byte)) (respOk : Bool) (s : State) : Keeps (queueOf s) (execDbgStoreRead pg req respOk s) := by
  unfold execDbgStoreRead
  refine mailRow_keeps _ _ _ _ _ _ _ ?_
  intro s c
  repeat' first
    | with_reducible rfl
    | (simp +zetaDelta [foldl_queue, foldl_snd_queue, foldl_fst_queue, pending_eq_queue]; done)
    | (with_reducible rw [foldl_queue])
    | (rw [pending_eq_queue])
    | (with_reducible exact hereFront_queue _ _ _ _ _ (by assumption))
    | (with_reducible refine withPart_queue _ _ _ _ _ (fun _ => ?_))
    | (with_reducible refine withTile_queue _ _ _ _ _ (fun _ => ?_))
    | (with_reducible refine lotEnded_queue _ _ _ (fun _ => ?_))
    | (with_reducible refine stageCtx_queue _ _ _ (fun _ => ?_))
    | (with_reducible refine stageMod_queue _ _ _ ?_)
    | (with_reducible refine stageMask_queue _ _ _ (fun _ => ?_))
    | (with_reducible exact takeRegs_queue _ _ _ _ (by assumption))
    | (with_reducible refine opNamed_queue _ _ _ (fun _ => ?_))
    | (with_reducible refine dbgTile_queue _ _ _ (fun _ => ?_))
    | (simp only [])
    | (with_reducible refine queue_ite _ _ _ _ ?_ ?_)
    | (with_reducible refine queue_ite_fst _ _ _ _ ?_ ?_)
    | (with_reducible refine queue_ite_snd _ _ _ _ ?_ ?_)
    | (with_reducible refine keeps_ite _ _ _ _ ?_ ?_)
    | (intro _ _)
    | (simp +zetaDelta)
    | split

theorem execDbgStoreWrite_keeps (pg : Nat) (req : Option (List Byte)) (respOk : Bool) (s : State) : Keeps (queueOf s) (execDbgStoreWrite pg req respOk s) := by
  unfold execDbgStoreWrite
  refine mailRow_keeps _ _ _ _ _ _ _ ?_
  intro s c
  repeat' first
    | with_reducible rfl
    | (simp +zetaDelta [foldl_queue, foldl_snd_queue, foldl_fst_queue, pending_eq_queue]; done)
    | (with_reducible rw [foldl_queue])
    | (rw [pending_eq_queue])
    | (with_reducible exact hereFront_queue _ _ _ _ _ (by assumption))
    | (with_reducible refine withPart_queue _ _ _ _ _ (fun _ => ?_))
    | (with_reducible refine withTile_queue _ _ _ _ _ (fun _ => ?_))
    | (with_reducible refine lotEnded_queue _ _ _ (fun _ => ?_))
    | (with_reducible refine stageCtx_queue _ _ _ (fun _ => ?_))
    | (with_reducible refine stageMod_queue _ _ _ ?_)
    | (with_reducible refine stageMask_queue _ _ _ (fun _ => ?_))
    | (with_reducible exact takeRegs_queue _ _ _ _ (by assumption))
    | (with_reducible refine opNamed_queue _ _ _ (fun _ => ?_))
    | (with_reducible refine dbgTile_queue _ _ _ (fun _ => ?_))
    | (simp only [])
    | (with_reducible refine queue_ite _ _ _ _ ?_ ?_)
    | (with_reducible refine queue_ite_fst _ _ _ _ ?_ ?_)
    | (with_reducible refine queue_ite_snd _ _ _ _ ?_ ?_)
    | (with_reducible refine keeps_ite _ _ _ _ ?_ ?_)
    | (intro _ _)
    | (simp +zetaDelta)
    | split

theorem execDbgImageRead_keeps (pg : Nat) (req : Option (List Byte)) (respOk : Bool) (s : State) : Keeps (queueOf s) (execDbgImageRead pg req respOk s) := by
  unfold execDbgImageRead
  refine mailRow_keeps _ _ _ _ _ _ _ ?_
  intro s c
  repeat' first
    | with_reducible rfl
    | (simp +zetaDelta [foldl_queue, foldl_snd_queue, foldl_fst_queue, pending_eq_queue]; done)
    | (with_reducible rw [foldl_queue])
    | (rw [pending_eq_queue])
    | (with_reducible exact hereFront_queue _ _ _ _ _ (by assumption))
    | (with_reducible refine withPart_queue _ _ _ _ _ (fun _ => ?_))
    | (with_reducible refine withTile_queue _ _ _ _ _ (fun _ => ?_))
    | (with_reducible refine lotEnded_queue _ _ _ (fun _ => ?_))
    | (with_reducible refine stageCtx_queue _ _ _ (fun _ => ?_))
    | (with_reducible refine stageMod_queue _ _ _ ?_)
    | (with_reducible refine stageMask_queue _ _ _ (fun _ => ?_))
    | (with_reducible exact takeRegs_queue _ _ _ _ (by assumption))
    | (with_reducible refine opNamed_queue _ _ _ (fun _ => ?_))
    | (with_reducible refine dbgTile_queue _ _ _ (fun _ => ?_))
    | (simp only [])
    | (with_reducible refine queue_ite _ _ _ _ ?_ ?_)
    | (with_reducible refine queue_ite_fst _ _ _ _ ?_ ?_)
    | (with_reducible refine queue_ite_snd _ _ _ _ ?_ ?_)
    | (with_reducible refine keeps_ite _ _ _ _ ?_ ?_)
    | (intro _ _)
    | (simp +zetaDelta)
    | split

theorem execDbgChanRead_keeps (pg : Nat) (req : Option (List Byte)) (respOk : Bool) (s : State) : Keeps (queueOf s) (execDbgChanRead pg req respOk s) := by
  unfold execDbgChanRead
  refine mailRow_keeps _ _ _ _ _ _ _ ?_
  intro s c
  repeat' first
    | with_reducible rfl
    | (simp +zetaDelta [foldl_queue, foldl_snd_queue, foldl_fst_queue, pending_eq_queue]; done)
    | (with_reducible rw [foldl_queue])
    | (rw [pending_eq_queue])
    | (with_reducible exact hereFront_queue _ _ _ _ _ (by assumption))
    | (with_reducible refine withPart_queue _ _ _ _ _ (fun _ => ?_))
    | (with_reducible refine withTile_queue _ _ _ _ _ (fun _ => ?_))
    | (with_reducible refine lotEnded_queue _ _ _ (fun _ => ?_))
    | (with_reducible refine stageCtx_queue _ _ _ (fun _ => ?_))
    | (with_reducible refine stageMod_queue _ _ _ ?_)
    | (with_reducible refine stageMask_queue _ _ _ (fun _ => ?_))
    | (with_reducible exact takeRegs_queue _ _ _ _ (by assumption))
    | (with_reducible refine opNamed_queue _ _ _ (fun _ => ?_))
    | (with_reducible refine dbgTile_queue _ _ _ (fun _ => ?_))
    | (simp only [])
    | (with_reducible refine queue_ite _ _ _ _ ?_ ?_)
    | (with_reducible refine queue_ite_fst _ _ _ _ ?_ ?_)
    | (with_reducible refine queue_ite_snd _ _ _ _ ?_ ?_)
    | (with_reducible refine keeps_ite _ _ _ _ ?_ ?_)
    | (intro _ _)
    | (simp +zetaDelta)
    | split

theorem execDbgResume_keeps (pg : Nat) (req : Option (List Byte)) (respOk : Bool) (s : State) : Keeps (queueOf s) (execDbgResume pg req respOk s) := by
  unfold execDbgResume
  refine mailRow_keeps _ _ _ _ _ _ _ ?_
  intro s c
  repeat' first
    | with_reducible rfl
    | (simp +zetaDelta [foldl_queue, foldl_snd_queue, foldl_fst_queue, pending_eq_queue]; done)
    | (with_reducible rw [foldl_queue])
    | (rw [pending_eq_queue])
    | (with_reducible exact hereFront_queue _ _ _ _ _ (by assumption))
    | (with_reducible refine withPart_queue _ _ _ _ _ (fun _ => ?_))
    | (with_reducible refine withTile_queue _ _ _ _ _ (fun _ => ?_))
    | (with_reducible refine lotEnded_queue _ _ _ (fun _ => ?_))
    | (with_reducible refine stageCtx_queue _ _ _ (fun _ => ?_))
    | (with_reducible refine stageMod_queue _ _ _ ?_)
    | (with_reducible refine stageMask_queue _ _ _ (fun _ => ?_))
    | (with_reducible exact takeRegs_queue _ _ _ _ (by assumption))
    | (with_reducible refine opNamed_queue _ _ _ (fun _ => ?_))
    | (with_reducible refine dbgTile_queue _ _ _ (fun _ => ?_))
    | (simp only [])
    | (with_reducible refine queue_ite _ _ _ _ ?_ ?_)
    | (with_reducible refine queue_ite_fst _ _ _ _ ?_ ?_)
    | (with_reducible refine queue_ite_snd _ _ _ _ ?_ ?_)
    | (with_reducible refine keeps_ite _ _ _ _ ?_ ?_)
    | (intro _ _)
    | (simp +zetaDelta)
    | split

theorem execDbgLooseOn_keeps (pg : Nat) (req : Option (List Byte)) (respOk : Bool) (s : State) : Keeps (queueOf s) (execDbgLooseOn pg req respOk s) := by
  unfold execDbgLooseOn
  refine mailRow_keeps _ _ _ _ _ _ _ ?_
  intro s c
  repeat' first
    | with_reducible rfl
    | (simp +zetaDelta [foldl_queue, foldl_snd_queue, foldl_fst_queue, pending_eq_queue]; done)
    | (with_reducible rw [foldl_queue])
    | (rw [pending_eq_queue])
    | (with_reducible exact hereFront_queue _ _ _ _ _ (by assumption))
    | (with_reducible refine withPart_queue _ _ _ _ _ (fun _ => ?_))
    | (with_reducible refine withTile_queue _ _ _ _ _ (fun _ => ?_))
    | (with_reducible refine lotEnded_queue _ _ _ (fun _ => ?_))
    | (with_reducible refine stageCtx_queue _ _ _ (fun _ => ?_))
    | (with_reducible refine stageMod_queue _ _ _ ?_)
    | (with_reducible refine stageMask_queue _ _ _ (fun _ => ?_))
    | (with_reducible exact takeRegs_queue _ _ _ _ (by assumption))
    | (with_reducible refine opNamed_queue _ _ _ (fun _ => ?_))
    | (with_reducible refine dbgTile_queue _ _ _ (fun _ => ?_))
    | (simp only [])
    | (with_reducible refine queue_ite _ _ _ _ ?_ ?_)
    | (with_reducible refine queue_ite_fst _ _ _ _ ?_ ?_)
    | (with_reducible refine queue_ite_snd _ _ _ _ ?_ ?_)
    | (with_reducible refine keeps_ite _ _ _ _ ?_ ?_)
    | (intro _ _)
    | (simp +zetaDelta)
    | split

theorem execDbgLooseOff_keeps (pg : Nat) (req : Option (List Byte)) (respOk : Bool) (s : State) : Keeps (queueOf s) (execDbgLooseOff pg req respOk s) := by
  unfold execDbgLooseOff
  refine mailRow_keeps _ _ _ _ _ _ _ ?_
  intro s c
  repeat' first
    | with_reducible rfl
    | (simp +zetaDelta [foldl_queue, foldl_snd_queue, foldl_fst_queue, pending_eq_queue]; done)
    | (with_reducible rw [foldl_queue])
    | (rw [pending_eq_queue])
    | (with_reducible exact hereFront_queue _ _ _ _ _ (by assumption))
    | (with_reducible refine withPart_queue _ _ _ _ _ (fun _ => ?_))
    | (with_reducible refine withTile_queue _ _ _ _ _ (fun _ => ?_))
    | (with_reducible refine lotEnded_queue _ _ _ (fun _ => ?_))
    | (with_reducible refine stageCtx_queue _ _ _ (fun _ => ?_))
    | (with_reducible refine stageMod_queue _ _ _ ?_)
    | (with_reducible refine stageMask_queue _ _ _ (fun _ => ?_))
    | (with_reducible exact takeRegs_queue _ _ _ _ (by assumption))
    | (with_reducible refine opNamed_queue _ _ _ (fun _ => ?_))
    | (with_reducible refine dbgTile_queue _ _ _ (fun _ => ?_))
    | (simp only [])
    | (with_reducible refine queue_ite _ _ _ _ ?_ ?_)
    | (with_reducible refine queue_ite_fst _ _ _ _ ?_ ?_)
    | (with_reducible refine queue_ite_snd _ _ _ _ ?_ ?_)
    | (with_reducible refine keeps_ite _ _ _ _ ?_ ?_)
    | (intro _ _)
    | (simp +zetaDelta)
    | split

theorem execDbgClkHalt_keeps (pg : Nat) (req : Option (List Byte)) (respOk : Bool) (s : State) : Keeps (queueOf s) (execDbgClkHalt pg req respOk s) := by
  unfold execDbgClkHalt
  refine mailRow_keeps _ _ _ _ _ _ _ ?_
  intro s c
  repeat' first
    | with_reducible rfl
    | (simp +zetaDelta [foldl_queue, foldl_snd_queue, foldl_fst_queue, pending_eq_queue]; done)
    | (with_reducible rw [foldl_queue])
    | (rw [pending_eq_queue])
    | (with_reducible exact hereFront_queue _ _ _ _ _ (by assumption))
    | (with_reducible refine withPart_queue _ _ _ _ _ (fun _ => ?_))
    | (with_reducible refine withTile_queue _ _ _ _ _ (fun _ => ?_))
    | (with_reducible refine lotEnded_queue _ _ _ (fun _ => ?_))
    | (with_reducible refine stageCtx_queue _ _ _ (fun _ => ?_))
    | (with_reducible refine stageMod_queue _ _ _ ?_)
    | (with_reducible refine stageMask_queue _ _ _ (fun _ => ?_))
    | (with_reducible exact takeRegs_queue _ _ _ _ (by assumption))
    | (with_reducible refine opNamed_queue _ _ _ (fun _ => ?_))
    | (with_reducible refine dbgTile_queue _ _ _ (fun _ => ?_))
    | (simp only [])
    | (with_reducible refine queue_ite _ _ _ _ ?_ ?_)
    | (with_reducible refine queue_ite_fst _ _ _ _ ?_ ?_)
    | (with_reducible refine queue_ite_snd _ _ _ _ ?_ ?_)
    | (with_reducible refine keeps_ite _ _ _ _ ?_ ?_)
    | (intro _ _)
    | (simp +zetaDelta)
    | split

theorem execDbgClkStep_keeps (pg : Nat) (req : Option (List Byte)) (respOk : Bool) (s : State) : Keeps (queueOf s) (execDbgClkStep pg req respOk s) := by
  unfold execDbgClkStep
  refine mailRow_keeps _ _ _ _ _ _ _ ?_
  intro s c
  repeat' first
    | with_reducible rfl
    | (simp +zetaDelta [foldl_queue, foldl_snd_queue, foldl_fst_queue, pending_eq_queue]; done)
    | (with_reducible rw [foldl_queue])
    | (rw [pending_eq_queue])
    | (with_reducible exact hereFront_queue _ _ _ _ _ (by assumption))
    | (with_reducible refine withPart_queue _ _ _ _ _ (fun _ => ?_))
    | (with_reducible refine withTile_queue _ _ _ _ _ (fun _ => ?_))
    | (with_reducible refine lotEnded_queue _ _ _ (fun _ => ?_))
    | (with_reducible refine stageCtx_queue _ _ _ (fun _ => ?_))
    | (with_reducible refine stageMod_queue _ _ _ ?_)
    | (with_reducible refine stageMask_queue _ _ _ (fun _ => ?_))
    | (with_reducible exact takeRegs_queue _ _ _ _ (by assumption))
    | (with_reducible refine opNamed_queue _ _ _ (fun _ => ?_))
    | (with_reducible refine dbgTile_queue _ _ _ (fun _ => ?_))
    | (simp only [])
    | (with_reducible refine queue_ite _ _ _ _ ?_ ?_)
    | (with_reducible refine queue_ite_fst _ _ _ _ ?_ ?_)
    | (with_reducible refine queue_ite_snd _ _ _ _ ?_ ?_)
    | (with_reducible refine keeps_ite _ _ _ _ ?_ ?_)
    | (intro _ _)
    | (simp +zetaDelta)
    | split

theorem execDbgClkResume_keeps (pg : Nat) (req : Option (List Byte)) (respOk : Bool) (s : State) : Keeps (queueOf s) (execDbgClkResume pg req respOk s) := by
  unfold execDbgClkResume
  refine mailRow_keeps _ _ _ _ _ _ _ ?_
  intro s c
  repeat' first
    | with_reducible rfl
    | (simp +zetaDelta [foldl_queue, foldl_snd_queue, foldl_fst_queue, pending_eq_queue]; done)
    | (with_reducible rw [foldl_queue])
    | (rw [pending_eq_queue])
    | (with_reducible exact hereFront_queue _ _ _ _ _ (by assumption))
    | (with_reducible refine withPart_queue _ _ _ _ _ (fun _ => ?_))
    | (with_reducible refine withTile_queue _ _ _ _ _ (fun _ => ?_))
    | (with_reducible refine lotEnded_queue _ _ _ (fun _ => ?_))
    | (with_reducible refine stageCtx_queue _ _ _ (fun _ => ?_))
    | (with_reducible refine stageMod_queue _ _ _ ?_)
    | (with_reducible refine stageMask_queue _ _ _ (fun _ => ?_))
    | (with_reducible exact takeRegs_queue _ _ _ _ (by assumption))
    | (with_reducible refine opNamed_queue _ _ _ (fun _ => ?_))
    | (with_reducible refine dbgTile_queue _ _ _ (fun _ => ?_))
    | (simp only [])
    | (with_reducible refine queue_ite _ _ _ _ ?_ ?_)
    | (with_reducible refine queue_ite_fst _ _ _ _ ?_ ?_)
    | (with_reducible refine queue_ite_snd _ _ _ _ ?_ ?_)
    | (with_reducible refine keeps_ite _ _ _ _ ?_ ?_)
    | (intro _ _)
    | (simp +zetaDelta)
    | split

theorem execDbgClkSet_keeps (pg : Nat) (req : Option (List Byte)) (respOk : Bool) (s : State) : Keeps (queueOf s) (execDbgClkSet pg req respOk s) := by
  unfold execDbgClkSet
  refine mailRow_keeps _ _ _ _ _ _ _ ?_
  intro s c
  repeat' first
    | with_reducible rfl
    | (simp +zetaDelta [foldl_queue, foldl_snd_queue, foldl_fst_queue, pending_eq_queue]; done)
    | (with_reducible rw [foldl_queue])
    | (rw [pending_eq_queue])
    | (with_reducible exact hereFront_queue _ _ _ _ _ (by assumption))
    | (with_reducible refine withPart_queue _ _ _ _ _ (fun _ => ?_))
    | (with_reducible refine withTile_queue _ _ _ _ _ (fun _ => ?_))
    | (with_reducible refine lotEnded_queue _ _ _ (fun _ => ?_))
    | (with_reducible refine stageCtx_queue _ _ _ (fun _ => ?_))
    | (with_reducible refine stageMod_queue _ _ _ ?_)
    | (with_reducible refine stageMask_queue _ _ _ (fun _ => ?_))
    | (with_reducible exact takeRegs_queue _ _ _ _ (by assumption))
    | (with_reducible refine opNamed_queue _ _ _ (fun _ => ?_))
    | (with_reducible refine dbgTile_queue _ _ _ (fun _ => ?_))
    | (simp only [])
    | (with_reducible refine queue_ite _ _ _ _ ?_ ?_)
    | (with_reducible refine queue_ite_fst _ _ _ _ ?_ ?_)
    | (with_reducible refine queue_ite_snd _ _ _ _ ?_ ?_)
    | (with_reducible refine keeps_ite _ _ _ _ ?_ ?_)
    | (intro _ _)
    | (simp +zetaDelta)
    | split

theorem execDbgTraceSet_keeps (pg : Nat) (req : Option (List Byte)) (respOk : Bool) (s : State) : Keeps (queueOf s) (execDbgTraceSet pg req respOk s) := by
  unfold execDbgTraceSet
  refine mailRow_keeps _ _ _ _ _ _ _ ?_
  intro s c
  repeat' first
    | with_reducible rfl
    | (simp +zetaDelta [foldl_queue, foldl_snd_queue, foldl_fst_queue, pending_eq_queue]; done)
    | (with_reducible rw [foldl_queue])
    | (rw [pending_eq_queue])
    | (with_reducible exact hereFront_queue _ _ _ _ _ (by assumption))
    | (with_reducible refine withPart_queue _ _ _ _ _ (fun _ => ?_))
    | (with_reducible refine withTile_queue _ _ _ _ _ (fun _ => ?_))
    | (with_reducible refine lotEnded_queue _ _ _ (fun _ => ?_))
    | (with_reducible refine stageCtx_queue _ _ _ (fun _ => ?_))
    | (with_reducible refine stageMod_queue _ _ _ ?_)
    | (with_reducible refine stageMask_queue _ _ _ (fun _ => ?_))
    | (with_reducible exact takeRegs_queue _ _ _ _ (by assumption))
    | (with_reducible refine opNamed_queue _ _ _ (fun _ => ?_))
    | (with_reducible refine dbgTile_queue _ _ _ (fun _ => ?_))
    | (simp only [])
    | (with_reducible refine queue_ite _ _ _ _ ?_ ?_)
    | (with_reducible refine queue_ite_fst _ _ _ _ ?_ ?_)
    | (with_reducible refine queue_ite_snd _ _ _ _ ?_ ?_)
    | (with_reducible refine keeps_ite _ _ _ _ ?_ ?_)
    | (intro _ _)
    | (simp +zetaDelta)
    | split

theorem execDbgTraceRead_keeps (pg : Nat) (req : Option (List Byte)) (respOk : Bool) (s : State) : Keeps (queueOf s) (execDbgTraceRead pg req respOk s) := by
  unfold execDbgTraceRead
  refine mailRow_keeps _ _ _ _ _ _ _ ?_
  intro s c
  repeat' first
    | with_reducible rfl
    | (simp +zetaDelta [foldl_queue, foldl_snd_queue, foldl_fst_queue, pending_eq_queue]; done)
    | (with_reducible rw [foldl_queue])
    | (rw [pending_eq_queue])
    | (with_reducible exact hereFront_queue _ _ _ _ _ (by assumption))
    | (with_reducible refine withPart_queue _ _ _ _ _ (fun _ => ?_))
    | (with_reducible refine withTile_queue _ _ _ _ _ (fun _ => ?_))
    | (with_reducible refine lotEnded_queue _ _ _ (fun _ => ?_))
    | (with_reducible refine stageCtx_queue _ _ _ (fun _ => ?_))
    | (with_reducible refine stageMod_queue _ _ _ ?_)
    | (with_reducible refine stageMask_queue _ _ _ (fun _ => ?_))
    | (with_reducible exact takeRegs_queue _ _ _ _ (by assumption))
    | (with_reducible refine opNamed_queue _ _ _ (fun _ => ?_))
    | (with_reducible refine dbgTile_queue _ _ _ (fun _ => ?_))
    | (simp only [])
    | (with_reducible refine queue_ite _ _ _ _ ?_ ?_)
    | (with_reducible refine queue_ite_fst _ _ _ _ ?_ ?_)
    | (with_reducible refine queue_ite_snd _ _ _ _ ?_ ?_)
    | (with_reducible refine keeps_ite _ _ _ _ ?_ ?_)
    | (intro _ _)
    | (simp +zetaDelta)
    | split

theorem execDbgMillNan_keeps (pg : Nat) (req : Option (List Byte)) (respOk : Bool) (s : State) : Keeps (queueOf s) (execDbgMillNan pg req respOk s) := by
  unfold execDbgMillNan
  refine mailRow_keeps _ _ _ _ _ _ _ ?_
  intro s c
  repeat' first
    | with_reducible rfl
    | (simp +zetaDelta [foldl_queue, foldl_snd_queue, foldl_fst_queue, pending_eq_queue]; done)
    | (with_reducible rw [foldl_queue])
    | (rw [pending_eq_queue])
    | (with_reducible exact hereFront_queue _ _ _ _ _ (by assumption))
    | (with_reducible refine withPart_queue _ _ _ _ _ (fun _ => ?_))
    | (with_reducible refine withTile_queue _ _ _ _ _ (fun _ => ?_))
    | (with_reducible refine lotEnded_queue _ _ _ (fun _ => ?_))
    | (with_reducible refine stageCtx_queue _ _ _ (fun _ => ?_))
    | (with_reducible refine stageMod_queue _ _ _ ?_)
    | (with_reducible refine stageMask_queue _ _ _ (fun _ => ?_))
    | (with_reducible exact takeRegs_queue _ _ _ _ (by assumption))
    | (with_reducible refine opNamed_queue _ _ _ (fun _ => ?_))
    | (with_reducible refine dbgTile_queue _ _ _ (fun _ => ?_))
    | (simp only [])
    | (with_reducible refine queue_ite _ _ _ _ ?_ ?_)
    | (with_reducible refine queue_ite_fst _ _ _ _ ?_ ?_)
    | (with_reducible refine queue_ite_snd _ _ _ _ ?_ ?_)
    | (with_reducible refine keeps_ite _ _ _ _ ?_ ?_)
    | (intro _ _)
    | (simp +zetaDelta)
    | split

end Sys2Proof.Machine
end

