-- ==== Sys2Proof/Laws/QueueK.lean ====
section
/-! SUPPORT. The operations and commands of Flags, HostBus, Tray keep the queue. -/

set_option linter.unusedSimpArgs false
set_option linter.unusedVariables false
set_option linter.unreachableTactic false
set_option linter.unusedTactic false

namespace Sys2Proof.Machine

/-! ## Sys2Proof/Machine/Flags.lean -/

@[simp ↓] theorem barTake_queue (s : State) (o : Nat) :
    (queueOf (barTake s o)) = (queueOf s) := by
  unfold barTake
  repeat' first
    | with_reducible rfl
    | (simp +zetaDelta [foldl_queue, foldl_snd_queue, foldl_fst_queue, pending_eq_queue]; done)
    | (with_reducible rw [foldl_queue])
    | (rw [pending_eq_queue])
    | (with_reducible exact hereFront_queue _ _ _ _ _ (by assumption))
    | (with_reducible refine withPart_queue _ _ _ _ _ (fun _ => ?_))
    | (with_reducible refine withTile_queue _ _ _ _ _ (fun _ => ?_))
    | (with_reducible refine lotEnded_queue _ _ _ (fun _ => ?_))
    | (with_reducible refine stageCtx_queue _ _ _ (fun _ => ?_))
    | (with_reducible refine stageMod_queue _ _ _ ?_)
    | (with_reducible refine stageMask_queue _ _ _ (fun _ => ?_))
    | (with_reducible exact takeRegs_queue _ _ _ _ (by assumption))
    | (with_reducible refine opNamed_queue _ _ _ (fun _ => ?_))
    | (with_reducible refine dbgTile_queue _ _ _ (fun _ => ?_))
    | (simp only [])
    | (with_reducible refine queue_ite _ _ _ _ ?_ ?_)
    | (with_reducible refine queue_ite_fst _ _ _ _ ?_ ?_)
    | (with_reducible refine queue_ite_snd _ _ _ _ ?_ ?_)
    | (with_reducible refine keeps_ite _ _ _ _ ?_ ?_)
    | (intro _ _)
    | (simp +zetaDelta)
    | split

@[simp ↓] theorem barWords_queue (o n : Nat) (s : State) : (queueOf ((barWords o n s).2)) = (queueOf s) := by
  induction n generalizing o s with
  | zero => rfl
  | succ n ih =>
    unfold barWords
    simp only []
    rw [ih]
    simp

@[simp ↓] theorem barRead_queue (s : State) (o len : Nat) :
    (queueOf ((barRead s o len).2)) = (queueOf s) := by
  unfold barRead
  repeat' first
    | with_reducible rfl
    | (simp +zetaDelta [foldl_queue, foldl_snd_queue, foldl_fst_queue, pending_eq_queue]; done)
    | (with_reducible rw [foldl_queue])
    | (rw [pending_eq_queue])
    | (with_reducible exact hereFront_queue _ _ _ _ _ (by assumption))
    | (with_reducible refine withPart_queue _ _ _ _ _ (fun _ => ?_))
    | (with_reducible refine withTile_queue _ _ _ _ _ (fun _ => ?_))
    | (with_reducible refine lotEnded_queue _ _ _ (fun _ => ?_))
    | (with_reducible refine stageCtx_queue _ _ _ (fun _ => ?_))
    | (with_reducible refine stageMod_queue _ _ _ ?_)
    | (with_reducible refine stageMask_queue _ _ _ (fun _ => ?_))
    | (with_reducible exact takeRegs_queue _ _ _ _ (by assumption))
    | (with_reducible refine opNamed_queue _ _ _ (fun _ => ?_))
    | (with_reducible refine dbgTile_queue _ _ _ (fun _ => ?_))
    | (simp only [])
    | (with_reducible refine queue_ite _ _ _ _ ?_ ?_)
    | (with_reducible refine queue_ite_fst _ _ _ _ ?_ ?_)
    | (with_reducible refine queue_ite_snd _ _ _ _ ?_ ?_)
    | (with_reducible refine keeps_ite _ _ _ _ ?_ ?_)
    | (intro _ _)
    | (simp +zetaDelta)
    | split

/-! ## Sys2Proof/Machine/HostBus.lean -/

@[simp ↓] theorem hostCpl_queue (s : State) (tag status : Nat) (data : List Byte) :
    (queueOf (hostCpl s tag status data)) = (queueOf s) := by
  unfold hostCpl
  repeat' first
    | with_reducible rfl
    | (simp +zetaDelta [foldl_queue, foldl_snd_queue, foldl_fst_queue, pending_eq_queue]; done)
    | (with_reducible rw [foldl_queue])
    | (rw [pending_eq_queue])
    | (with_reducible exact hereFront_queue _ _ _ _ _ (by assumption))
    | (with_reducible refine withPart_queue _ _ _ _ _ (fun _ => ?_))
    | (with_reducible refine withTile_queue _ _ _ _ _ (fun _ => ?_))
    | (with_reducible refine lotEnded_queue _ _ _ (fun _ => ?_))
    | (with_reducible refine stageCtx_queue _ _ _ (fun _ => ?_))
    | (with_reducible refine stageMod_queue _ _ _ ?_)
    | (with_reducible refine stageMask_queue _ _ _ (fun _ => ?_))
    | (with_reducible exact takeRegs_queue _ _ _ _ (by assumption))
    | (with_reducible refine opNamed_queue _ _ _ (fun _ => ?_))
    | (with_reducible refine dbgTile_queue _ _ _ (fun _ => ?_))
    | (simp only [])
    | (with_reducible refine queue_ite _ _ _ _ ?_ ?_)
    | (with_reducible refine queue_ite_fst _ _ _ _ ?_ ?_)
    | (with_reducible refine queue_ite_snd _ _ _ _ ?_ ?_)
    | (with_reducible refine keeps_ite _ _ _ _ ?_ ?_)
    | (intro _ _)
    | (simp +zetaDelta)
    | split

@[simp ↓] theorem boltPost_queue (s : State) (n b y : Nat) (data : List Byte) :
    (queueOf (boltPost s n b y data)) = (queueOf s) := by
  unfold boltPost
  repeat' first
    | with_reducible rfl
    | (simp +zetaDelta [foldl_queue, foldl_snd_queue, foldl_fst_queue, pending_eq_queue]; done)
    | (with_reducible rw [foldl_queue])
    | (rw [pending_eq_queue])
    | (with_reducible exact hereFront_queue _ _ _ _ _ (by assumption))
    | (with_reducible refine withPart_queue _ _ _ _ _ (fun _ => ?_))
    | (with_reducible refine withTile_queue _ _ _ _ _ (fun _ => ?_))
    | (with_reducible refine lotEnded_queue _ _ _ (fun _ => ?_))
    | (with_reducible refine stageCtx_queue _ _ _ (fun _ => ?_))
    | (with_reducible refine stageMod_queue _ _ _ ?_)
    | (with_reducible refine stageMask_queue _ _ _ (fun _ => ?_))
    | (with_reducible exact takeRegs_queue _ _ _ _ (by assumption))
    | (with_reducible refine opNamed_queue _ _ _ (fun _ => ?_))
    | (with_reducible refine dbgTile_queue _ _ _ (fun _ => ?_))
    | (simp only [])
    | (with_reducible refine queue_ite _ _ _ _ ?_ ?_)
    | (with_reducible refine queue_ite_fst _ _ _ _ ?_ ?_)
    | (with_reducible refine queue_ite_snd _ _ _ _ ?_ ?_)
    | (with_reducible refine keeps_ite _ _ _ _ ?_ ?_)
    | (intro _ _)
    | (simp +zetaDelta)
    | split

@[simp ↓] theorem remoteRunAll_queue (s : State) :
    (queueOf (remoteRunAll s)) = (queueOf s) := by
  unfold remoteRunAll
  repeat' first
    | with_reducible rfl
    | (simp +zetaDelta [foldl_queue, foldl_snd_queue, foldl_fst_queue, pending_eq_queue]; done)
    | (with_reducible rw [foldl_queue])
    | (rw [pending_eq_queue])
    | (with_reducible exact hereFront_queue _ _ _ _ _ (by assumption))
    | (with_reducible refine withPart_queue _ _ _ _ _ (fun _ => ?_))
    | (with_reducible refine withTile_queue _ _ _ _ _ (fun _ => ?_))
    | (with_reducible refine lotEnded_queue _ _ _ (fun _ => ?_))
    | (with_reducible refine stageCtx_queue _ _ _ (fun _ => ?_))
    | (with_reducible refine stageMod_queue _ _ _ ?_)
    | (with_reducible refine stageMask_queue _ _ _ (fun _ => ?_))
    | (with_reducible exact takeRegs_queue _ _ _ _ (by assumption))
    | (with_reducible refine opNamed_queue _ _ _ (fun _ => ?_))
    | (with_reducible refine dbgTile_queue _ _ _ (fun _ => ?_))
    | (simp only [])
    | (with_reducible refine queue_ite _ _ _ _ ?_ ?_)
    | (with_reducible refine queue_ite_fst _ _ _ _ ?_ ?_)
    | (with_reducible refine queue_ite_snd _ _ _ _ ?_ ?_)
    | (with_reducible refine keeps_ite _ _ _ _ ?_ ?_)
    | (intro _ _)
    | (simp +zetaDelta)
    | split

@[simp ↓] theorem asmFlush_queue (s : State) (n b : Nat) :
    (queueOf (asmFlush s n b)) = (queueOf s) := by
  unfold asmFlush
  repeat' first
    | with_reducible rfl
    | (simp +zetaDelta [foldl_queue, foldl_snd_queue, foldl_fst_queue, pending_eq_queue]; done)
    | (with_reducible rw [foldl_queue])
    | (rw [pending_eq_queue])
    | (with_reducible exact hereFront_queue _ _ _ _ _ (by assumption))
    | (with_reducible refine withPart_queue _ _ _ _ _ (fun _ => ?_))
    | (with_reducible refine withTile_queue _ _ _ _ _ (fun _ => ?_))
    | (with_reducible refine lotEnded_queue _ _ _ (fun _ => ?_))
    | (with_reducible refine stageCtx_queue _ _ _ (fun _ => ?_))
    | (with_reducible refine stageMod_queue _ _ _ ?_)
    | (with_reducible refine stageMask_queue _ _ _ (fun _ => ?_))
    | (with_reducible exact takeRegs_queue _ _ _ _ (by assumption))
    | (with_reducible refine opNamed_queue _ _ _ (fun _ => ?_))
    | (with_reducible refine dbgTile_queue _ _ _ (fun _ => ?_))
    | (simp only [])
    | (with_reducible refine queue_ite _ _ _ _ ?_ ?_)
    | (with_reducible refine queue_ite_fst _ _ _ _ ?_ ?_)
    | (with_reducible refine queue_ite_snd _ _ _ _ ?_ ?_)
    | (with_reducible refine keeps_ite _ _ _ _ ?_ ?_)
    | (intro _ _)
    | (simp +zetaDelta)
    | split

@[simp ↓] theorem asmFlushAll_queue (s : State) :
    (queueOf (asmFlushAll s)) = (queueOf s) := by
  unfold asmFlushAll
  repeat' first
    | with_reducible rfl
    | (simp +zetaDelta [foldl_queue, foldl_snd_queue, foldl_fst_queue, pending_eq_queue]; done)
    | (with_reducible rw [foldl_queue])
    | (rw [pending_eq_queue])
    | (with_reducible exact hereFront_queue _ _ _ _ _ (by assumption))
    | (with_reducible refine withPart_queue _ _ _ _ _ (fun _ => ?_))
    | (with_reducible refine withTile_queue _ _ _ _ _ (fun _ => ?_))
    | (with_reducible refine lotEnded_queue _ _ _ (fun _ => ?_))
    | (with_reducible refine stageCtx_queue _ _ _ (fun _ => ?_))
    | (with_reducible refine stageMod_queue _ _ _ ?_)
    | (with_reducible refine stageMask_queue _ _ _ (fun _ => ?_))
    | (with_reducible exact takeRegs_queue _ _ _ _ (by assumption))
    | (with_reducible refine opNamed_queue _ _ _ (fun _ => ?_))
    | (with_reducible refine dbgTile_queue _ _ _ (fun _ => ?_))
    | (simp only [])
    | (with_reducible refine queue_ite _ _ _ _ ?_ ?_)
    | (with_reducible refine queue_ite_fst _ _ _ _ ?_ ?_)
    | (with_reducible refine queue_ite_snd _ _ _ _ ?_ ?_)
    | (with_reducible refine keeps_ite _ _ _ _ ?_ ?_)
    | (intro _ _)
    | (simp +zetaDelta)
    | split

@[simp ↓] theorem hostSettle_queue (s : State) :
    (queueOf (hostSettle s)) = (queueOf s) := by
  unfold hostSettle
  repeat' first
    | with_reducible rfl
    | (simp +zetaDelta [foldl_queue, foldl_snd_queue, foldl_fst_queue, pending_eq_queue]; done)
    | (with_reducible rw [foldl_queue])
    | (rw [pending_eq_queue])
    | (with_reducible exact hereFront_queue _ _ _ _ _ (by assumption))
    | (with_reducible refine withPart_queue _ _ _ _ _ (fun _ => ?_))
    | (with_reducible refine withTile_queue _ _ _ _ _ (fun _ => ?_))
    | (with_reducible refine lotEnded_queue _ _ _ (fun _ => ?_))
    | (with_reducible refine stageCtx_queue _ _ _ (fun _ => ?_))
    | (with_reducible refine stageMod_queue _ _ _ ?_)
    | (with_reducible refine stageMask_queue _ _ _ (fun _ => ?_))
    | (with_reducible exact takeRegs_queue _ _ _ _ (by assumption))
    | (with_reducible refine opNamed_queue _ _ _ (fun _ => ?_))
    | (with_reducible refine dbgTile_queue _ _ _ (fun _ => ?_))
    | (simp only [])
    | (with_reducible refine queue_ite _ _ _ _ ?_ ?_)
    | (with_reducible refine queue_ite_fst _ _ _ _ ?_ ?_)
    | (with_reducible refine queue_ite_snd _ _ _ _ ?_ ?_)
    | (with_reducible refine keeps_ite _ _ _ _ ?_ ?_)
    | (intro _ _)
    | (simp +zetaDelta)
    | split

@[simp ↓] theorem busCount_queue (s : State) (which : Nat) :
    (queueOf (busCount s which)) = (queueOf s) := by
  unfold busCount
  repeat' first
    | with_reducible rfl
    | (simp +zetaDelta [foldl_queue, foldl_snd_queue, foldl_fst_queue, pending_eq_queue]; done)
    | (with_reducible rw [foldl_queue])
    | (rw [pending_eq_queue])
    | (with_reducible exact hereFront_queue _ _ _ _ _ (by assumption))
    | (with_reducible refine withPart_queue _ _ _ _ _ (fun _ => ?_))
    | (with_reducible refine withTile_queue _ _ _ _ _ (fun _ => ?_))
    | (with_reducible refine lotEnded_queue _ _ _ (fun _ => ?_))
    | (with_reducible refine stageCtx_queue _ _ _ (fun _ => ?_))
    | (with_reducible refine stageMod_queue _ _ _ ?_)
    | (with_reducible refine stageMask_queue _ _ _ (fun _ => ?_))
    | (with_reducible exact takeRegs_queue _ _ _ _ (by assumption))
    | (with_reducible refine opNamed_queue _ _ _ (fun _ => ?_))
    | (with_reducible refine dbgTile_queue _ _ _ (fun _ => ?_))
    | (simp only [])
    | (with_reducible refine queue_ite _ _ _ _ ?_ ?_)
    | (with_reducible refine queue_ite_fst _ _ _ _ ?_ ?_)
    | (with_reducible refine queue_ite_snd _ _ _ _ ?_ ?_)
    | (with_reducible refine keeps_ite _ _ _ _ ?_ ?_)
    | (intro _ _)
    | (simp +zetaDelta)
    | split

@[simp ↓] theorem asmOpen_queue (s : State) (a : Asm) :
    (queueOf (asmOpen s a)) = (queueOf s) := by
  unfold asmOpen
  repeat' first
    | with_reducible rfl
    | (simp +zetaDelta [foldl_queue, foldl_snd_queue, foldl_fst_queue, pending_eq_queue]; done)
    | (with_reducible rw [foldl_queue])
    | (rw [pending_eq_queue])
    | (with_reducible exact hereFront_queue _ _ _ _ _ (by assumption))
    | (with_reducible refine withPart_queue _ _ _ _ _ (fun _ => ?_))
    | (with_reducible refine withTile_queue _ _ _ _ _ (fun _ => ?_))
    | (with_reducible refine lotEnded_queue _ _ _ (fun _ => ?_))
    | (with_reducible refine stageCtx_queue _ _ _ (fun _ => ?_))
    | (with_reducible refine stageMod_queue _ _ _ ?_)
    | (with_reducible refine stageMask_queue _ _ _ (fun _ => ?_))
    | (with_reducible exact takeRegs_queue _ _ _ _ (by assumption))
    | (with_reducible refine opNamed_queue _ _ _ (fun _ => ?_))
    | (with_reducible refine dbgTile_queue _ _ _ (fun _ => ?_))
    | (simp only [])
    | (with_reducible refine queue_ite _ _ _ _ ?_ ?_)
    | (with_reducible refine queue_ite_fst _ _ _ _ ?_ ?_)
    | (with_reducible refine queue_ite_snd _ _ _ _ ?_ ?_)
    | (with_reducible refine keeps_ite _ _ _ _ ?_ ?_)
    | (intro _ _)
    | (simp +zetaDelta)
    | split

@[simp ↓] theorem asmWrite_queue (s : State) (n b y : Nat) (data : List Byte) :
    (queueOf (asmWrite s n b y data)) = (queueOf s) := by
  unfold asmWrite
  repeat' first
    | with_reducible rfl
    | (simp +zetaDelta [foldl_queue, foldl_snd_queue, foldl_fst_queue, pending_eq_queue]; done)
    | (with_reducible rw [foldl_queue])
    | (rw [pending_eq_queue])
    | (with_reducible exact hereFront_queue _ _ _ _ _ (by assumption))
    | (with_reducible refine withPart_queue _ _ _ _ _ (fun _ => ?_))
    | (with_reducible refine withTile_queue _ _ _ _ _ (fun _ => ?_))
    | (with_reducible refine lotEnded_queue _ _ _ (fun _ => ?_))
    | (with_reducible refine stageCtx_queue _ _ _ (fun _ => ?_))
    | (with_reducible refine stageMod_queue _ _ _ ?_)
    | (with_reducible refine stageMask_queue _ _ _ (fun _ => ?_))
    | (with_reducible exact takeRegs_queue _ _ _ _ (by assumption))
    | (with_reducible refine opNamed_queue _ _ _ (fun _ => ?_))
    | (with_reducible refine dbgTile_queue _ _ _ (fun _ => ?_))
    | (simp only [])
    | (with_reducible refine queue_ite _ _ _ _ ?_ ?_)
    | (with_reducible refine queue_ite_fst _ _ _ _ ?_ ?_)
    | (with_reducible refine queue_ite_snd _ _ _ _ ?_ ?_)
    | (with_reducible refine keeps_ite _ _ _ _ ?_ ?_)
    | (intro _ _)
    | (simp +zetaDelta)
    | split

theorem execBar2Write_keeps (off : Nat) (data : List Byte) (ep : Bool) (s : State) : Keeps (queueOf s) (execBar2Write off data ep s) := by
  unfold execBar2Write
  repeat' first
    | with_reducible rfl
    | (simp +zetaDelta [foldl_queue, foldl_snd_queue, foldl_fst_queue, pending_eq_queue]; done)
    | (with_reducible rw [foldl_queue])
    | (rw [pending_eq_queue])
    | (with_reducible exact hereFront_queue _ _ _ _ _ (by assumption))
    | (with_reducible refine withPart_queue _ _ _ _ _ (fun _ => ?_))
    | (with_reducible refine withTile_queue _ _ _ _ _ (fun _ => ?_))
    | (with_reducible refine lotEnded_queue _ _ _ (fun _ => ?_))
    | (with_reducible refine stageCtx_queue _ _ _ (fun _ => ?_))
    | (with_reducible refine stageMod_queue _ _ _ ?_)
    | (with_reducible refine stageMask_queue _ _ _ (fun _ => ?_))
    | (with_reducible exact takeRegs_queue _ _ _ _ (by assumption))
    | (with_reducible refine opNamed_queue _ _ _ (fun _ => ?_))
    | (with_reducible refine dbgTile_queue _ _ _ (fun _ => ?_))
    | (simp only [])
    | (with_reducible refine queue_ite _ _ _ _ ?_ ?_)
    | (with_reducible refine queue_ite_fst _ _ _ _ ?_ ?_)
    | (with_reducible refine queue_ite_snd _ _ _ _ ?_ ?_)
    | (with_reducible refine keeps_ite _ _ _ _ ?_ ?_)
    | (intro _ _)
    | (simp +zetaDelta)
    | split

theorem execAssemblerTimeout_keeps (n b : Nat) (s : State) : Keeps (queueOf s) (execAssemblerTimeout n b s) := by
  unfold execAssemblerTimeout
  repeat' first
    | with_reducible rfl
    | (simp +zetaDelta [foldl_queue, foldl_snd_queue, foldl_fst_queue, pending_eq_queue]; done)
    | (with_reducible rw [foldl_queue])
    | (rw [pending_eq_queue])
    | (with_reducible exact hereFront_queue _ _ _ _ _ (by assumption))
    | (with_reducible refine withPart_queue _ _ _ _ _ (fun _ => ?_))
    | (with_reducible refine withTile_queue _ _ _ _ _ (fun _ => ?_))
    | (with_reducible refine lotEnded_queue _ _ _ (fun _ => ?_))
    | (with_reducible refine stageCtx_queue _ _ _ (fun _ => ?_))
    | (with_reducible refine stageMod_queue _ _ _ ?_)
    | (with_reducible refine stageMask_queue _ _ _ (fun _ => ?_))
    | (with_reducible exact takeRegs_queue _ _ _ _ (by assumption))
    | (with_reducible refine opNamed_queue _ _ _ (fun _ => ?_))
    | (with_reducible refine dbgTile_queue _ _ _ (fun _ => ?_))
    | (simp only [])
    | (with_reducible refine queue_ite _ _ _ _ ?_ ?_)
    | (with_reducible refine queue_ite_fst _ _ _ _ ?_ ?_)
    | (with_reducible refine queue_ite_snd _ _ _ _ ?_ ?_)
    | (with_reducible refine keeps_ite _ _ _ _ ?_ ?_)
    | (intro _ _)
    | (simp +zetaDelta)
    | split

@[simp ↓] theorem boltFetch_queue (s : State) (n b y len : Nat) :
    (queueOf ((boltFetch s n b y len).2.2)) = (queueOf s) := by
  unfold boltFetch
  repeat' first
    | with_reducible rfl
    | (simp +zetaDelta [foldl_queue, foldl_snd_queue, foldl_fst_queue, pending_eq_queue]; done)
    | (with_reducible rw [foldl_queue])
    | (rw [pending_eq_queue])
    | (with_reducible exact hereFront_queue _ _ _ _ _ (by assumption))
    | (with_reducible refine withPart_queue _ _ _ _ _ (fun _ => ?_))
    | (with_reducible refine withTile_queue _ _ _ _ _ (fun _ => ?_))
    | (with_reducible refine lotEnded_queue _ _ _ (fun _ => ?_))
    | (with_reducible refine stageCtx_queue _ _ _ (fun _ => ?_))
    | (with_reducible refine stageMod_queue _ _ _ ?_)
    | (with_reducible refine stageMask_queue _ _ _ (fun _ => ?_))
    | (with_reducible exact takeRegs_queue _ _ _ _ (by assumption))
    | (with_reducible refine opNamed_queue _ _ _ (fun _ => ?_))
    | (with_reducible refine dbgTile_queue _ _ _ (fun _ => ?_))
    | (simp only [])
    | (with_reducible refine queue_ite _ _ _ _ ?_ ?_)
    | (with_reducible refine queue_ite_fst _ _ _ _ ?_ ?_)
    | (with_reducible refine queue_ite_snd _ _ _ _ ?_ ?_)
    | (with_reducible refine keeps_ite _ _ _ _ ?_ ?_)
    | (intro _ _)
    | (simp +zetaDelta)
    | split

@[simp ↓] theorem readPart_queue (tag : Nat) (s : State) (off len : Nat) :
    (queueOf (readPart tag s off len)) = (queueOf s) := by
  unfold readPart
  repeat' first
    | with_reducible rfl
    | (simp +zetaDelta [foldl_queue, foldl_snd_queue, foldl_fst_queue, pending_eq_queue]; done)
    | (with_reducible rw [foldl_queue])
    | (rw [pending_eq_queue])
    | (with_reducible exact hereFront_queue _ _ _ _ _ (by assumption))
    | (with_reducible refine withPart_queue _ _ _ _ _ (fun _ => ?_))
    | (with_reducible refine withTile_queue _ _ _ _ _ (fun _ => ?_))
    | (with_reducible refine lotEnded_queue _ _ _ (fun _ => ?_))
    | (with_reducible refine stageCtx_queue _ _ _ (fun _ => ?_))
    | (with_reducible refine stageMod_queue _ _ _ ?_)
    | (with_reducible refine stageMask_queue _ _ _ (fun _ => ?_))
    | (with_reducible exact takeRegs_queue _ _ _ _ (by assumption))
    | (with_reducible refine opNamed_queue _ _ _ (fun _ => ?_))
    | (with_reducible refine dbgTile_queue _ _ _ (fun _ => ?_))
    | (simp only [])
    | (with_reducible refine queue_ite _ _ _ _ ?_ ?_)
    | (with_reducible refine queue_ite_fst _ _ _ _ ?_ ?_)
    | (with_reducible refine queue_ite_snd _ _ _ _ ?_ ?_)
    | (with_reducible refine keeps_ite _ _ _ _ ?_ ?_)
    | (intro _ _)
    | (simp +zetaDelta)
    | split

theorem execBar2Read_keeps (off len tag : Nat) (s : State) : Keeps (queueOf s) (execBar2Read off len tag s) := by
  unfold execBar2Read
  repeat' first
    | with_reducible rfl
    | (simp +zetaDelta [foldl_queue, foldl_snd_queue, foldl_fst_queue, pending_eq_queue]; done)
    | (with_reducible rw [foldl_queue])
    | (rw [pending_eq_queue])
    | (with_reducible exact hereFront_queue _ _ _ _ _ (by assumption))
    | (with_reducible refine withPart_queue _ _ _ _ _ (fun _ => ?_))
    | (with_reducible refine withTile_queue _ _ _ _ _ (fun _ => ?_))
    | (with_reducible refine lotEnded_queue _ _ _ (fun _ => ?_))
    | (with_reducible refine stageCtx_queue _ _ _ (fun _ => ?_))
    | (with_reducible refine stageMod_queue _ _ _ ?_)
    | (with_reducible refine stageMask_queue _ _ _ (fun _ => ?_))
    | (with_reducible exact takeRegs_queue _ _ _ _ (by assumption))
    | (with_reducible refine opNamed_queue _ _ _ (fun _ => ?_))
    | (with_reducible refine dbgTile_queue _ _ _ (fun _ => ?_))
    | (simp only [])
    | (with_reducible refine queue_ite _ _ _ _ ?_ ?_)
    | (with_reducible refine queue_ite_fst _ _ _ _ ?_ ?_)
    | (with_reducible refine queue_ite_snd _ _ _ _ ?_ ?_)
    | (with_reducible refine keeps_ite _ _ _ _ ?_ ?_)
    | (intro _ _)
    | (simp +zetaDelta)
    | split

@[simp ↓] theorem hostPut_queue (s : State) (o v : Nat) :
    (queueOf (hostPut s o v)) = (queueOf s) := by
  unfold hostPut
  repeat' first
    | with_reducible rfl
    | (simp +zetaDelta [foldl_queue, foldl_snd_queue, foldl_fst_queue, pending_eq_queue]; done)
    | (with_reducible rw [foldl_queue])
    | (rw [pending_eq_queue])
    | (with_reducible exact hereFront_queue _ _ _ _ _ (by assumption))
    | (with_reducible refine withPart_queue _ _ _ _ _ (fun _ => ?_))
    | (with_reducible refine withTile_queue _ _ _ _ _ (fun _ => ?_))
    | (with_reducible refine lotEnded_queue _ _ _ (fun _ => ?_))
    | (with_reducible refine stageCtx_queue _ _ _ (fun _ => ?_))
    | (with_reducible refine stageMod_queue _ _ _ ?_)
    | (with_reducible refine stageMask_queue _ _ _ (fun _ => ?_))
    | (with_reducible exact takeRegs_queue _ _ _ _ (by assumption))
    | (with_reducible refine opNamed_queue _ _ _ (fun _ => ?_))
    | (with_reducible refine dbgTile_queue _ _ _ (fun _ => ?_))
    | (simp only [])
    | (with_reducible refine queue_ite _ _ _ _ ?_ ?_)
    | (with_reducible refine queue_ite_fst _ _ _ _ ?_ ?_)
    | (with_reducible refine queue_ite_snd _ _ _ _ ?_ ?_)
    | (with_reducible refine keeps_ite _ _ _ _ ?_ ?_)
    | (intro _ _)
    | (simp +zetaDelta)
    | split

@[simp ↓] theorem doorbellPut_queue (s : State) (n v : Nat) :
    (queueOf (doorbellPut s n v)) = (queueOf s) := by
  unfold doorbellPut
  repeat' first
    | with_reducible rfl
    | (simp +zetaDelta [foldl_queue, foldl_snd_queue, foldl_fst_queue, pending_eq_queue]; done)
    | (with_reducible rw [foldl_queue])
    | (rw [pending_eq_queue])
    | (with_reducible exact hereFront_queue _ _ _ _ _ (by assumption))
    | (with_reducible refine withPart_queue _ _ _ _ _ (fun _ => ?_))
    | (with_reducible refine withTile_queue _ _ _ _ _ (fun _ => ?_))
    | (with_reducible refine lotEnded_queue _ _ _ (fun _ => ?_))
    | (with_reducible refine stageCtx_queue _ _ _ (fun _ => ?_))
    | (with_reducible refine stageMod_queue _ _ _ ?_)
    | (with_reducible refine stageMask_queue _ _ _ (fun _ => ?_))
    | (with_reducible exact takeRegs_queue _ _ _ _ (by assumption))
    | (with_reducible refine opNamed_queue _ _ _ (fun _ => ?_))
    | (with_reducible refine dbgTile_queue _ _ _ (fun _ => ?_))
    | (simp only [])
    | (with_reducible refine queue_ite _ _ _ _ ?_ ?_)
    | (with_reducible refine queue_ite_fst _ _ _ _ ?_ ?_)
    | (with_reducible refine queue_ite_snd _ _ _ _ ?_ ?_)
    | (with_reducible refine keeps_ite _ _ _ _ ?_ ?_)
    | (intro _ _)
    | (simp +zetaDelta)
    | split

@[simp ↓] theorem pagePut_queue (s : State) (n o v : Nat) :
    (queueOf (pagePut s n o v)) = (queueOf s) := by
  unfold pagePut
  repeat' first
    | with_reducible rfl
    | (simp +zetaDelta [foldl_queue, foldl_snd_queue, foldl_fst_queue, pending_eq_queue]; done)
    | (with_reducible rw [foldl_queue])
    | (rw [pending_eq_queue])
    | (with_reducible exact hereFront_queue _ _ _ _ _ (by assumption))
    | (with_reducible refine withPart_queue _ _ _ _ _ (fun _ => ?_))
    | (with_reducible refine withTile_queue _ _ _ _ _ (fun _ => ?_))
    | (with_reducible refine lotEnded_queue _ _ _ (fun _ => ?_))
    | (with_reducible refine stageCtx_queue _ _ _ (fun _ => ?_))
    | (with_reducible refine stageMod_queue _ _ _ ?_)
    | (with_reducible refine stageMask_queue _ _ _ (fun _ => ?_))
    | (with_reducible exact takeRegs_queue _ _ _ _ (by assumption))
    | (with_reducible refine opNamed_queue _ _ _ (fun _ => ?_))
    | (with_reducible refine dbgTile_queue _ _ _ (fun _ => ?_))
    | (simp only [])
    | (with_reducible refine queue_ite _ _ _ _ ?_ ?_)
    | (with_reducible refine queue_ite_fst _ _ _ _ ?_ ?_)
    | (with_reducible refine queue_ite_snd _ _ _ _ ?_ ?_)
    | (with_reducible refine keeps_ite _ _ _ _ ?_ ?_)
    | (intro _ _)
    | (simp +zetaDelta)
    | split

@[simp ↓] theorem modCtlPut_queue (s : State) (v : Nat) :
    (queueOf (modCtlPut s v)) = (queueOf s) := by
  unfold modCtlPut
  repeat' first
    | with_reducible rfl
    | (simp +zetaDelta [foldl_queue, foldl_snd_queue, foldl_fst_queue, pending_eq_queue]; done)
    | (with_reducible rw [foldl_queue])
    | (rw [pending_eq_queue])
    | (with_reducible exact hereFront_queue _ _ _ _ _ (by assumption))
    | (with_reducible refine withPart_queue _ _ _ _ _ (fun _ => ?_))
    | (with_reducible refine withTile_queue _ _ _ _ _ (fun _ => ?_))
    | (with_reducible refine lotEnded_queue _ _ _ (fun _ => ?_))
    | (with_reducible refine stageCtx_queue _ _ _ (fun _ => ?_))
    | (with_reducible refine stageMod_queue _ _ _ ?_)
    | (with_reducible refine stageMask_queue _ _ _ (fun _ => ?_))
    | (with_reducible exact takeRegs_queue _ _ _ _ (by assumption))
    | (with_reducible refine opNamed_queue _ _ _ (fun _ => ?_))
    | (with_reducible refine dbgTile_queue _ _ _ (fun _ => ?_))
    | (simp only [])
    | (with_reducible refine queue_ite _ _ _ _ ?_ ?_)
    | (with_reducible refine queue_ite_fst _ _ _ _ ?_ ?_)
    | (with_reducible refine queue_ite_snd _ _ _ _ ?_ ?_)
    | (with_reducible refine keeps_ite _ _ _ _ ?_ ?_)
    | (intro _ _)
    | (simp +zetaDelta)
    | split

@[simp ↓] theorem clkSrcPut_queue (s : State) (v : Nat) :
    (queueOf (clkSrcPut s v)) = (queueOf s) := by
  unfold clkSrcPut
  repeat' first
    | with_reducible rfl
    | (simp +zetaDelta [foldl_queue, foldl_snd_queue, foldl_fst_queue, pending_eq_queue]; done)
    | (with_reducible rw [foldl_queue])
    | (rw [pending_eq_queue])
    | (with_reducible exact hereFront_queue _ _ _ _ _ (by assumption))
    | (with_reducible refine withPart_queue _ _ _ _ _ (fun _ => ?_))
    | (with_reducible refine withTile_queue _ _ _ _ _ (fun _ => ?_))
    | (with_reducible refine lotEnded_queue _ _ _ (fun _ => ?_))
    | (with_reducible refine stageCtx_queue _ _ _ (fun _ => ?_))
    | (with_reducible refine stageMod_queue _ _ _ ?_)
    | (with_reducible refine stageMask_queue _ _ _ (fun _ => ?_))
    | (with_reducible exact takeRegs_queue _ _ _ _ (by assumption))
    | (with_reducible refine opNamed_queue _ _ _ (fun _ => ?_))
    | (with_reducible refine dbgTile_queue _ _ _ (fun _ => ?_))
    | (simp only [])
    | (with_reducible refine queue_ite _ _ _ _ ?_ ?_)
    | (with_reducible refine queue_ite_fst _ _ _ _ ?_ ?_)
    | (with_reducible refine queue_ite_snd _ _ _ _ ?_ ?_)
    | (with_reducible refine keeps_ite _ _ _ _ ?_ ?_)
    | (intro _ _)
    | (simp +zetaDelta)
    | split

@[simp ↓] theorem barPut_queue (s : State) (o v : Nat) :
    (queueOf (barPut s o v)) = (queueOf s) := by
  unfold barPut
  repeat' first
    | with_reducible rfl
    | (simp +zetaDelta [foldl_queue, foldl_snd_queue, foldl_fst_queue, pending_eq_queue]; done)
    | (with_reducible rw [foldl_queue])
    | (rw [pending_eq_queue])
    | (with_reducible exact hereFront_queue _ _ _ _ _ (by assumption))
    | (with_reducible refine withPart_queue _ _ _ _ _ (fun _ => ?_))
    | (with_reducible refine withTile_queue _ _ _ _ _ (fun _ => ?_))
    | (with_reducible refine lotEnded_queue _ _ _ (fun _ => ?_))
    | (with_reducible refine stageCtx_queue _ _ _ (fun _ => ?_))
    | (with_reducible refine stageMod_queue _ _ _ ?_)
    | (with_reducible refine stageMask_queue _ _ _ (fun _ => ?_))
    | (with_reducible exact takeRegs_queue _ _ _ _ (by assumption))
    | (with_reducible refine opNamed_queue _ _ _ (fun _ => ?_))
    | (with_reducible refine dbgTile_queue _ _ _ (fun _ => ?_))
    | (simp only [])
    | (with_reducible refine queue_ite _ _ _ _ ?_ ?_)
    | (with_reducible refine queue_ite_fst _ _ _ _ ?_ ?_)
    | (with_reducible refine queue_ite_snd _ _ _ _ ?_ ?_)
    | (with_reducible refine keeps_ite _ _ _ _ ?_ ?_)
    | (intro _ _)
    | (simp +zetaDelta)
    | split

@[simp ↓] theorem barWrite_queue (s : State) (o : Nat) (data : List Byte) :
    (queueOf (barWrite s o data)) = (queueOf s) := by
  unfold barWrite
  repeat' first
    | with_reducible rfl
    | (simp +zetaDelta [foldl_queue, foldl_snd_queue, foldl_fst_queue, pending_eq_queue]; done)
    | (with_reducible rw [foldl_queue])
    | (rw [pending_eq_queue])
    | (with_reducible exact hereFront_queue _ _ _ _ _ (by assumption))
    | (with_reducible refine withPart_queue _ _ _ _ _ (fun _ => ?_))
    | (with_reducible refine withTile_queue _ _ _ _ _ (fun _ => ?_))
    | (with_reducible refine lotEnded_queue _ _ _ (fun _ => ?_))
    | (with_reducible refine stageCtx_queue _ _ _ (fun _ => ?_))
    | (with_reducible refine stageMod_queue _ _ _ ?_)
    | (with_reducible refine stageMask_queue _ _ _ (fun _ => ?_))
    | (with_reducible exact takeRegs_queue _ _ _ _ (by assumption))
    | (with_reducible refine opNamed_queue _ _ _ (fun _ => ?_))
    | (with_reducible refine dbgTile_queue _ _ _ (fun _ => ?_))
    | (simp only [])
    | (with_reducible refine queue_ite _ _ _ _ ?_ ?_)
    | (with_reducible refine queue_ite_fst _ _ _ _ ?_ ?_)
    | (with_reducible refine queue_ite_snd _ _ _ _ ?_ ?_)
    | (with_reducible refine keeps_ite _ _ _ _ ?_ ?_)
    | (intro _ _)
    | (simp +zetaDelta)
    | split

theorem execHostRegisterWrite_keeps (mgmt : Bool) (off : Nat) (data : List Byte) (s : State) : Keeps (queueOf s) (execHostRegisterWrite mgmt off data s) := by
  unfold execHostRegisterWrite
  repeat' first
    | with_reducible rfl
    | (simp +zetaDelta [foldl_queue, foldl_snd_queue, foldl_fst_queue, pending_eq_queue]; done)
    | (with_reducible rw [foldl_queue])
    | (rw [pending_eq_queue])
    | (with_reducible exact hereFront_queue _ _ _ _ _ (by assumption))
    | (with_reducible refine withPart_queue _ _ _ _ _ (fun _ => ?_))
    | (with_reducible refine withTile_queue _ _ _ _ _ (fun _ => ?_))
    | (with_reducible refine lotEnded_queue _ _ _ (fun _ => ?_))
    | (with_reducible refine stageCtx_queue _ _ _ (fun _ => ?_))
    | (with_reducible refine stageMod_queue _ _ _ ?_)
    | (with_reducible refine stageMask_queue _ _ _ (fun _ => ?_))
    | (with_reducible exact takeRegs_queue _ _ _ _ (by assumption))
    | (with_reducible refine opNamed_queue _ _ _ (fun _ => ?_))
    | (with_reducible refine dbgTile_queue _ _ _ (fun _ => ?_))
    | (simp only [])
    | (with_reducible refine queue_ite _ _ _ _ ?_ ?_)
    | (with_reducible refine queue_ite_fst _ _ _ _ ?_ ?_)
    | (with_reducible refine queue_ite_snd _ _ _ _ ?_ ?_)
    | (with_reducible refine keeps_ite _ _ _ _ ?_ ?_)
    | (intro _ _)
    | (simp +zetaDelta)
    | split

theorem execBar0MalformedAccess_keeps (off len tag : Nat) (wr ep : Bool) (s : State) : Keeps (queueOf s) (execBar0MalformedAccess off len tag wr ep s) := by
  unfold execBar0MalformedAccess
  repeat' first
    | with_reducible rfl
    | (simp +zetaDelta [foldl_queue, foldl_snd_queue, foldl_fst_queue, pending_eq_queue]; done)
    | (with_reducible rw [foldl_queue])
    | (rw [pending_eq_queue])
    | (with_reducible exact hereFront_queue _ _ _ _ _ (by assumption))
    | (with_reducible refine withPart_queue _ _ _ _ _ (fun _ => ?_))
    | (with_reducible refine withTile_queue _ _ _ _ _ (fun _ => ?_))
    | (with_reducible refine lotEnded_queue _ _ _ (fun _ => ?_))
    | (with_reducible refine stageCtx_queue _ _ _ (fun _ => ?_))
    | (with_reducible refine stageMod_queue _ _ _ ?_)
    | (with_reducible refine stageMask_queue _ _ _ (fun _ => ?_))
    | (with_reducible exact takeRegs_queue _ _ _ _ (by assumption))
    | (with_reducible refine opNamed_queue _ _ _ (fun _ => ?_))
    | (with_reducible refine dbgTile_queue _ _ _ (fun _ => ?_))
    | (simp only [])
    | (with_reducible refine queue_ite _ _ _ _ ?_ ?_)
    | (with_reducible refine queue_ite_fst _ _ _ _ ?_ ?_)
    | (with_reducible refine queue_ite_snd _ _ _ _ ?_ ?_)
    | (with_reducible refine keeps_ite _ _ _ _ ?_ ?_)
    | (intro _ _)
    | (simp +zetaDelta)
    | split

theorem execDoorbellWrite_keeps (pg v : Nat) (s : State) : Keeps (queueOf s) (execDoorbellWrite pg v s) := by
  unfold execDoorbellWrite
  repeat' first
    | with_reducible rfl
    | (simp +zetaDelta [foldl_queue, foldl_snd_queue, foldl_fst_queue, pending_eq_queue]; done)
    | (with_reducible rw [foldl_queue])
    | (rw [pending_eq_queue])
    | (with_reducible exact hereFront_queue _ _ _ _ _ (by assumption))
    | (with_reducible refine withPart_queue _ _ _ _ _ (fun _ => ?_))
    | (with_reducible refine withTile_queue _ _ _ _ _ (fun _ => ?_))
    | (with_reducible refine lotEnded_queue _ _ _ (fun _ => ?_))
    | (with_reducible refine stageCtx_queue _ _ _ (fun _ => ?_))
    | (with_reducible refine stageMod_queue _ _ _ ?_)
    | (with_reducible refine stageMask_queue _ _ _ (fun _ => ?_))
    | (with_reducible exact takeRegs_queue _ _ _ _ (by assumption))
    | (with_reducible refine opNamed_queue _ _ _ (fun _ => ?_))
    | (with_reducible refine dbgTile_queue _ _ _ (fun _ => ?_))
    | (simp only [])
    | (with_reducible refine queue_ite _ _ _ _ ?_ ?_)
    | (with_reducible refine queue_ite_fst _ _ _ _ ?_ ?_)
    | (with_reducible refine queue_ite_snd _ _ _ _ ?_ ?_)
    | (with_reducible refine keeps_ite _ _ _ _ ?_ ?_)
    | (intro _ _)
    | (simp +zetaDelta)
    | split

theorem execRingReset_keeps (n : Nat) (s : State) : Keeps (queueOf s) (execRingReset n s) := by
  unfold execRingReset
  repeat' first
    | with_reducible rfl
    | (simp +zetaDelta [foldl_queue, foldl_snd_queue, foldl_fst_queue, pending_eq_queue]; done)
    | (with_reducible rw [foldl_queue])
    | (rw [pending_eq_queue])
    | (with_reducible exact hereFront_queue _ _ _ _ _ (by assumption))
    | (with_reducible refine withPart_queue _ _ _ _ _ (fun _ => ?_))
    | (with_reducible refine withTile_queue _ _ _ _ _ (fun _ => ?_))
    | (with_reducible refine lotEnded_queue _ _ _ (fun _ => ?_))
    | (with_reducible refine stageCtx_queue _ _ _ (fun _ => ?_))
    | (with_reducible refine stageMod_queue _ _ _ ?_)
    | (with_reducible refine stageMask_queue _ _ _ (fun _ => ?_))
    | (with_reducible exact takeRegs_queue _ _ _ _ (by assumption))
    | (with_reducible refine opNamed_queue _ _ _ (fun _ => ?_))
    | (with_reducible refine dbgTile_queue _ _ _ (fun _ => ?_))
    | (simp only [])
    | (with_reducible refine queue_ite _ _ _ _ ?_ ?_)
    | (with_reducible refine queue_ite_fst _ _ _ _ ?_ ?_)
    | (with_reducible refine queue_ite_snd _ _ _ _ ?_ ?_)
    | (with_reducible refine keeps_ite _ _ _ _ ?_ ?_)
    | (intro _ _)
    | (simp +zetaDelta)
    | split

theorem execMsixMessage_keeps (v : Nat) (s : State) : Keeps (queueOf s) (execMsixMessage v s) := by
  unfold execMsixMessage
  repeat' first
    | with_reducible rfl
    | (simp +zetaDelta [foldl_queue, foldl_snd_queue, foldl_fst_queue, pending_eq_queue]; done)
    | (with_reducible rw [foldl_queue])
    | (rw [pending_eq_queue])
    | (with_reducible exact hereFront_queue _ _ _ _ _ (by assumption))
    | (with_reducible refine withPart_queue _ _ _ _ _ (fun _ => ?_))
    | (with_reducible refine withTile_queue _ _ _ _ _ (fun _ => ?_))
    | (with_reducible refine lotEnded_queue _ _ _ (fun _ => ?_))
    | (with_reducible refine stageCtx_queue _ _ _ (fun _ => ?_))
    | (with_reducible refine stageMod_queue _ _ _ ?_)
    | (with_reducible refine stageMask_queue _ _ _ (fun _ => ?_))
    | (with_reducible exact takeRegs_queue _ _ _ _ (by assumption))
    | (with_reducible refine opNamed_queue _ _ _ (fun _ => ?_))
    | (with_reducible refine dbgTile_queue _ _ _ (fun _ => ?_))
    | (simp only [])
    | (with_reducible refine queue_ite _ _ _ _ ?_ ?_)
    | (with_reducible refine queue_ite_fst _ _ _ _ ?_ ?_)
    | (with_reducible refine queue_ite_snd _ _ _ _ ?_ ?_)
    | (with_reducible refine keeps_ite _ _ _ _ ?_ ?_)
    | (intro _ _)
    | (simp +zetaDelta)
    | split

theorem qsendPut_getD_queue (s : State) (p v : Nat) : (queueOf ((qsendPut s p v).getD s)) = (queueOf s) := by
  cases h : qsendPut s p v with
  | none => rfl
  | some t => exact qsendPut_queue _ _ _ _ h

@[simp ↓] theorem mgmtCsrPut_queue (s : State) (p c v : Nat) : (queueOf (mgmtCsrPut s p c v)) = (queueOf s) := by
  unfold mgmtCsrPut
  repeat' split
  all_goals simp [qsendPut_getD_queue]

@[simp ↓] theorem mgmtCsrs_queue (p c n : Nat) (s : State) : (queueOf ((mgmtCsrs p c n s).2)) = (queueOf s) := by
  induction n generalizing c s with
  | zero => rfl
  | succ n ih =>
    unfold mgmtCsrs
    simp only []
    rw [ih]
    repeat' first
    | with_reducible rfl
    | (simp +zetaDelta [foldl_queue, foldl_snd_queue, foldl_fst_queue, pending_eq_queue]; done)
    | (with_reducible rw [foldl_queue])
    | (rw [pending_eq_queue])
    | (with_reducible exact hereFront_queue _ _ _ _ _ (by assumption))
    | (with_reducible refine withPart_queue _ _ _ _ _ (fun _ => ?_))
    | (with_reducible refine withTile_queue _ _ _ _ _ (fun _ => ?_))
    | (with_reducible refine lotEnded_queue _ _ _ (fun _ => ?_))
    | (with_reducible refine stageCtx_queue _ _ _ (fun _ => ?_))
    | (with_reducible refine stageMod_queue _ _ _ ?_)
    | (with_reducible refine stageMask_queue _ _ _ (fun _ => ?_))
    | (with_reducible exact takeRegs_queue _ _ _ _ (by assumption))
    | (with_reducible refine opNamed_queue _ _ _ (fun _ => ?_))
    | (with_reducible refine dbgTile_queue _ _ _ (fun _ => ?_))
    | (simp only [])
    | (with_reducible refine queue_ite _ _ _ _ ?_ ?_)
    | (with_reducible refine queue_ite_fst _ _ _ _ ?_ ?_)
    | (with_reducible refine queue_ite_snd _ _ _ _ ?_ ?_)
    | (with_reducible refine keeps_ite _ _ _ _ ?_ ?_)
    | (intro _ _)
    | (simp +zetaDelta)
    | split

@[simp ↓] theorem mgmtShare_queue (s : State) (off len : Nat) : (queueOf ((mgmtShare s off len).2)) = (queueOf s) := by
  unfold mgmtShare
  rw [foldl_snd_queue]
  · simp
  · intro x b
    split <;> simp

@[simp ↓] theorem mgmtRead_queue (s : State) (a len : Nat) :
    (queueOf ((mgmtRead s a len).2)) = (queueOf s) := by
  unfold mgmtRead
  repeat' first
    | with_reducible rfl
    | (simp +zetaDelta [foldl_queue, foldl_snd_queue, foldl_fst_queue, pending_eq_queue]; done)
    | (with_reducible rw [foldl_queue])
    | (rw [pending_eq_queue])
    | (with_reducible exact hereFront_queue _ _ _ _ _ (by assumption))
    | (with_reducible refine withPart_queue _ _ _ _ _ (fun _ => ?_))
    | (with_reducible refine withTile_queue _ _ _ _ _ (fun _ => ?_))
    | (with_reducible refine lotEnded_queue _ _ _ (fun _ => ?_))
    | (with_reducible refine stageCtx_queue _ _ _ (fun _ => ?_))
    | (with_reducible refine stageMod_queue _ _ _ ?_)
    | (with_reducible refine stageMask_queue _ _ _ (fun _ => ?_))
    | (with_reducible exact takeRegs_queue _ _ _ _ (by assumption))
    | (with_reducible refine opNamed_queue _ _ _ (fun _ => ?_))
    | (with_reducible refine dbgTile_queue _ _ _ (fun _ => ?_))
    | (simp only [])
    | (with_reducible refine queue_ite _ _ _ _ ?_ ?_)
    | (with_reducible refine queue_ite_fst _ _ _ _ ?_ ?_)
    | (with_reducible refine queue_ite_snd _ _ _ _ ?_ ?_)
    | (with_reducible refine keeps_ite _ _ _ _ ?_ ?_)
    | (intro _ _)
    | (simp +zetaDelta)
    | split

@[simp ↓] theorem mgmtCsrWrite_queue (s : State) (p o : Nat) (data : List Byte) :
    (queueOf (mgmtCsrWrite s p o data)) = (queueOf s) := by
  unfold mgmtCsrWrite
  repeat' first
    | with_reducible rfl
    | (simp +zetaDelta [foldl_queue, foldl_snd_queue, foldl_fst_queue, pending_eq_queue]; done)
    | (with_reducible rw [foldl_queue])
    | (rw [pending_eq_queue])
    | (with_reducible exact hereFront_queue _ _ _ _ _ (by assumption))
    | (with_reducible refine withPart_queue _ _ _ _ _ (fun _ => ?_))
    | (with_reducible refine withTile_queue _ _ _ _ _ (fun _ => ?_))
    | (with_reducible refine lotEnded_queue _ _ _ (fun _ => ?_))
    | (with_reducible refine stageCtx_queue _ _ _ (fun _ => ?_))
    | (with_reducible refine stageMod_queue _ _ _ ?_)
    | (with_reducible refine stageMask_queue _ _ _ (fun _ => ?_))
    | (with_reducible exact takeRegs_queue _ _ _ _ (by assumption))
    | (with_reducible refine opNamed_queue _ _ _ (fun _ => ?_))
    | (with_reducible refine dbgTile_queue _ _ _ (fun _ => ?_))
    | (simp only [])
    | (with_reducible refine queue_ite _ _ _ _ ?_ ?_)
    | (with_reducible refine queue_ite_fst _ _ _ _ ?_ ?_)
    | (with_reducible refine queue_ite_snd _ _ _ _ ?_ ?_)
    | (with_reducible refine keeps_ite _ _ _ _ ?_ ?_)
    | (intro _ _)
    | (simp +zetaDelta)
    | split

@[simp ↓] theorem shareWrite_queue (s : State) (off : Nat) (data : List Byte) :
    (queueOf (shareWrite s off data)) = (queueOf s) := by
  unfold shareWrite
  repeat' first
    | with_reducible rfl
    | (simp +zetaDelta [foldl_queue, foldl_snd_queue, foldl_fst_queue, pending_eq_queue]; done)
    | (with_reducible rw [foldl_queue])
    | (rw [pending_eq_queue])
    | (with_reducible exact hereFront_queue _ _ _ _ _ (by assumption))
    | (with_reducible refine withPart_queue _ _ _ _ _ (fun _ => ?_))
    | (with_reducible refine withTile_queue _ _ _ _ _ (fun _ => ?_))
    | (with_reducible refine lotEnded_queue _ _ _ (fun _ => ?_))
    | (with_reducible refine stageCtx_queue _ _ _ (fun _ => ?_))
    | (with_reducible refine stageMod_queue _ _ _ ?_)
    | (with_reducible refine stageMask_queue _ _ _ (fun _ => ?_))
    | (with_reducible exact takeRegs_queue _ _ _ _ (by assumption))
    | (with_reducible refine opNamed_queue _ _ _ (fun _ => ?_))
    | (with_reducible refine dbgTile_queue _ _ _ (fun _ => ?_))
    | (simp only [])
    | (with_reducible refine queue_ite _ _ _ _ ?_ ?_)
    | (with_reducible refine queue_ite_fst _ _ _ _ ?_ ?_)
    | (with_reducible refine queue_ite_snd _ _ _ _ ?_ ?_)
    | (with_reducible refine keeps_ite _ _ _ _ ?_ ?_)
    | (intro _ _)
    | (simp +zetaDelta)
    | split

@[simp ↓] theorem mgmtWrite_queue (s : State) (a : Nat) (data : List Byte) :
    (queueOf (mgmtWrite s a data)) = (queueOf s) := by
  unfold mgmtWrite
  repeat' first
    | with_reducible rfl
    | (simp +zetaDelta [foldl_queue, foldl_snd_queue, foldl_fst_queue, pending_eq_queue]; done)
    | (with_reducible rw [foldl_queue])
    | (rw [pending_eq_queue])
    | (with_reducible exact hereFront_queue _ _ _ _ _ (by assumption))
    | (with_reducible refine withPart_queue _ _ _ _ _ (fun _ => ?_))
    | (with_reducible refine withTile_queue _ _ _ _ _ (fun _ => ?_))
    | (with_reducible refine lotEnded_queue _ _ _ (fun _ => ?_))
    | (with_reducible refine stageCtx_queue _ _ _ (fun _ => ?_))
    | (with_reducible refine stageMod_queue _ _ _ ?_)
    | (with_reducible refine stageMask_queue _ _ _ (fun _ => ?_))
    | (with_reducible exact takeRegs_queue _ _ _ _ (by assumption))
    | (with_reducible refine opNamed_queue _ _ _ (fun _ => ?_))
    | (with_reducible refine dbgTile_queue _ _ _ (fun _ => ?_))
    | (simp only [])
    | (with_reducible refine queue_ite _ _ _ _ ?_ ?_)
    | (with_reducible refine queue_ite_fst _ _ _ _ ?_ ?_)
    | (with_reducible refine queue_ite_snd _ _ _ _ ?_ ?_)
    | (with_reducible refine keeps_ite _ _ _ _ ?_ ?_)
    | (intro _ _)
    | (simp +zetaDelta)
    | split

theorem execManagementAccess_keeps (engine write : Bool) (addr len : Nat) (data : List Byte) (s : State) : Keeps (queueOf s) (execManagementAccess engine write addr len data s) := by
  unfold execManagementAccess
  repeat' first
    | with_reducible rfl
    | (simp +zetaDelta [foldl_queue, foldl_snd_queue, foldl_fst_queue, pending_eq_queue]; done)
    | (with_reducible rw [foldl_queue])
    | (rw [pending_eq_queue])
    | (with_reducible exact hereFront_queue _ _ _ _ _ (by assumption))
    | (with_reducible refine withPart_queue _ _ _ _ _ (fun _ => ?_))
    | (with_reducible refine withTile_queue _ _ _ _ _ (fun _ => ?_))
    | (with_reducible refine lotEnded_queue _ _ _ (fun _ => ?_))
    | (with_reducible refine stageCtx_queue _ _ _ (fun _ => ?_))
    | (with_reducible refine stageMod_queue _ _ _ ?_)
    | (with_reducible refine stageMask_queue _ _ _ (fun _ => ?_))
    | (with_reducible exact takeRegs_queue _ _ _ _ (by assumption))
    | (with_reducible refine opNamed_queue _ _ _ (fun _ => ?_))
    | (with_reducible refine dbgTile_queue _ _ _ (fun _ => ?_))
    | (simp only [])
    | (with_reducible refine queue_ite _ _ _ _ ?_ ?_)
    | (with_reducible refine queue_ite_fst _ _ _ _ ?_ ?_)
    | (with_reducible refine queue_ite_snd _ _ _ _ ?_ ?_)
    | (with_reducible refine keeps_ite _ _ _ _ ?_ ?_)
    | (intro _ _)
    | (simp +zetaDelta)
    | split

theorem execTelemetrySweep_keeps (s : State) : Keeps (queueOf s) (execTelemetrySweep s) := by
  unfold execTelemetrySweep
  repeat' first
    | with_reducible rfl
    | (simp +zetaDelta [foldl_queue, foldl_snd_queue, foldl_fst_queue, pending_eq_queue]; done)
    | (with_reducible rw [foldl_queue])
    | (rw [pending_eq_queue])
    | (with_reducible exact hereFront_queue _ _ _ _ _ (by assumption))
    | (with_reducible refine withPart_queue _ _ _ _ _ (fun _ => ?_))
    | (with_reducible refine withTile_queue _ _ _ _ _ (fun _ => ?_))
    | (with_reducible refine lotEnded_queue _ _ _ (fun _ => ?_))
    | (with_reducible refine stageCtx_queue _ _ _ (fun _ => ?_))
    | (with_reducible refine stageMod_queue _ _ _ ?_)
    | (with_reducible refine stageMask_queue _ _ _ (fun _ => ?_))
    | (with_reducible exact takeRegs_queue _ _ _ _ (by assumption))
    | (with_reducible refine opNamed_queue _ _ _ (fun _ => ?_))
    | (with_reducible refine dbgTile_queue _ _ _ (fun _ => ?_))
    | (simp only [])
    | (with_reducible refine queue_ite _ _ _ _ ?_ ?_)
    | (with_reducible refine queue_ite_fst _ _ _ _ ?_ ?_)
    | (with_reducible refine queue_ite_snd _ _ _ _ ?_ ?_)
    | (with_reducible refine keeps_ite _ _ _ _ ?_ ?_)
    | (intro _ _)
    | (simp +zetaDelta)
    | split

/-! ## Sys2Proof/Machine/Tray.lean -/

@[simp ↓] theorem irSelect_queue (s : State) (ir : Nat) :
    (queueOf (irSelect s ir)) = (queueOf s) := by
  unfold irSelect
  repeat' first
    | with_reducible rfl
    | (simp +zetaDelta [foldl_queue, foldl_snd_queue, foldl_fst_queue, pending_eq_queue]; done)
    | (with_reducible rw [foldl_queue])
    | (rw [pending_eq_queue])
    | (with_reducible exact hereFront_queue _ _ _ _ _ (by assumption))
    | (with_reducible refine withPart_queue _ _ _ _ _ (fun _ => ?_))
    | (with_reducible refine withTile_queue _ _ _ _ _ (fun _ => ?_))
    | (with_reducible refine lotEnded_queue _ _ _ (fun _ => ?_))
    | (with_reducible refine stageCtx_queue _ _ _ (fun _ => ?_))
    | (with_reducible refine stageMod_queue _ _ _ ?_)
    | (with_reducible refine stageMask_queue _ _ _ (fun _ => ?_))
    | (with_reducible exact takeRegs_queue _ _ _ _ (by assumption))
    | (with_reducible refine opNamed_queue _ _ _ (fun _ => ?_))
    | (with_reducible refine dbgTile_queue _ _ _ (fun _ => ?_))
    | (simp only [])
    | (with_reducible refine queue_ite _ _ _ _ ?_ ?_)
    | (with_reducible refine queue_ite_fst _ _ _ _ ?_ ?_)
    | (with_reducible refine queue_ite_snd _ _ _ _ ?_ ?_)
    | (with_reducible refine keeps_ite _ _ _ _ ?_ ?_)
    | (intro _ _)
    | (simp +zetaDelta)
    | split

@[simp ↓] theorem shiftOut_queue (s : State) (ir : Nat) (data : List Byte) :
    (queueOf (shiftOut s ir data)) = (queueOf s) := by
  unfold shiftOut
  repeat' first
    | with_reducible rfl
    | (simp +zetaDelta [foldl_queue, foldl_snd_queue, foldl_fst_queue, pending_eq_queue]; done)
    | (with_reducible rw [foldl_queue])
    | (rw [pending_eq_queue])
    | (with_reducible exact hereFront_queue _ _ _ _ _ (by assumption))
    | (with_reducible refine withPart_queue _ _ _ _ _ (fun _ => ?_))
    | (with_reducible refine withTile_queue _ _ _ _ _ (fun _ => ?_))
    | (with_reducible refine lotEnded_queue _ _ _ (fun _ => ?_))
    | (with_reducible refine stageCtx_queue _ _ _ (fun _ => ?_))
    | (with_reducible refine stageMod_queue _ _ _ ?_)
    | (with_reducible refine stageMask_queue _ _ _ (fun _ => ?_))
    | (with_reducible exact takeRegs_queue _ _ _ _ (by assumption))
    | (with_reducible refine opNamed_queue _ _ _ (fun _ => ?_))
    | (with_reducible refine dbgTile_queue _ _ _ (fun _ => ?_))
    | (simp only [])
    | (with_reducible refine queue_ite _ _ _ _ ?_ ?_)
    | (with_reducible refine queue_ite_fst _ _ _ _ ?_ ?_)
    | (with_reducible refine queue_ite_snd _ _ _ _ ?_ ?_)
    | (with_reducible refine keeps_ite _ _ _ _ ?_ ?_)
    | (intro _ _)
    | (simp +zetaDelta)
    | split

@[simp ↓] theorem bypass_queue (s : State) :
    (queueOf (bypass s)) = (queueOf s) := by
  unfold bypass
  repeat' first
    | with_reducible rfl
    | (simp +zetaDelta [foldl_queue, foldl_snd_queue, foldl_fst_queue, pending_eq_queue]; done)
    | (with_reducible rw [foldl_queue])
    | (rw [pending_eq_queue])
    | (with_reducible exact hereFront_queue _ _ _ _ _ (by assumption))
    | (with_reducible refine withPart_queue _ _ _ _ _ (fun _ => ?_))
    | (with_reducible refine withTile_queue _ _ _ _ _ (fun _ => ?_))
    | (with_reducible refine lotEnded_queue _ _ _ (fun _ => ?_))
    | (with_reducible refine stageCtx_queue _ _ _ (fun _ => ?_))
    | (with_reducible refine stageMod_queue _ _ _ ?_)
    | (with_reducible refine stageMask_queue _ _ _ (fun _ => ?_))
    | (with_reducible exact takeRegs_queue _ _ _ _ (by assumption))
    | (with_reducible refine opNamed_queue _ _ _ (fun _ => ?_))
    | (with_reducible refine dbgTile_queue _ _ _ (fun _ => ?_))
    | (simp only [])
    | (with_reducible refine queue_ite _ _ _ _ ?_ ?_)
    | (with_reducible refine queue_ite_fst _ _ _ _ ?_ ?_)
    | (with_reducible refine queue_ite_snd _ _ _ _ ?_ ?_)
    | (with_reducible refine keeps_ite _ _ _ _ ?_ ?_)
    | (intro _ _)
    | (simp +zetaDelta)
    | split

theorem jtagScan_keeps (allowed : LifeSt → Bool) (run : State → State) (s : State) (h : ∀ s, (queueOf (run s)) = (queueOf s)) :
    Keeps (queueOf s) (jtagScan allowed run s) := by
  unfold jtagScan
  split
  · rfl
  · simp only [keeps_next]
    split
    · exact h _
    · simp

theorem execJtagExtest_keeps (v : Nat) (s : State) : Keeps (queueOf s) (execJtagExtest v s) := by
  unfold execJtagExtest
  refine jtagScan_keeps _ _ _ ?_
  intro s
  repeat' first
    | with_reducible rfl
    | (simp +zetaDelta [foldl_queue, foldl_snd_queue, foldl_fst_queue, pending_eq_queue]; done)
    | (with_reducible rw [foldl_queue])
    | (rw [pending_eq_queue])
    | (with_reducible exact hereFront_queue _ _ _ _ _ (by assumption))
    | (with_reducible refine withPart_queue _ _ _ _ _ (fun _ => ?_))
    | (with_reducible refine withTile_queue _ _ _ _ _ (fun _ => ?_))
    | (with_reducible refine lotEnded_queue _ _ _ (fun _ => ?_))
    | (with_reducible refine stageCtx_queue _ _ _ (fun _ => ?_))
    | (with_reducible refine stageMod_queue _ _ _ ?_)
    | (with_reducible refine stageMask_queue _ _ _ (fun _ => ?_))
    | (with_reducible exact takeRegs_queue _ _ _ _ (by assumption))
    | (with_reducible refine opNamed_queue _ _ _ (fun _ => ?_))
    | (with_reducible refine dbgTile_queue _ _ _ (fun _ => ?_))
    | (simp only [])
    | (with_reducible refine queue_ite _ _ _ _ ?_ ?_)
    | (with_reducible refine queue_ite_fst _ _ _ _ ?_ ?_)
    | (with_reducible refine queue_ite_snd _ _ _ _ ?_ ?_)
    | (with_reducible refine keeps_ite _ _ _ _ ?_ ?_)
    | (intro _ _)
    | (simp +zetaDelta)
    | split

theorem execJtagSamplePreload_keeps (v : Nat) (s : State) : Keeps (queueOf s) (execJtagSamplePreload v s) := by
  unfold execJtagSamplePreload
  refine jtagScan_keeps _ _ _ ?_
  intro s
  repeat' first
    | with_reducible rfl
    | (simp +zetaDelta [foldl_queue, foldl_snd_queue, foldl_fst_queue, pending_eq_queue]; done)
    | (with_reducible rw [foldl_queue])
    | (rw [pending_eq_queue])
    | (with_reducible exact hereFront_queue _ _ _ _ _ (by assumption))
    | (with_reducible refine withPart_queue _ _ _ _ _ (fun _ => ?_))
    | (with_reducible refine withTile_queue _ _ _ _ _ (fun _ => ?_))
    | (with_reducible refine lotEnded_queue _ _ _ (fun _ => ?_))
    | (with_reducible refine stageCtx_queue _ _ _ (fun _ => ?_))
    | (with_reducible refine stageMod_queue _ _ _ ?_)
    | (with_reducible refine stageMask_queue _ _ _ (fun _ => ?_))
    | (with_reducible exact takeRegs_queue _ _ _ _ (by assumption))
    | (with_reducible refine opNamed_queue _ _ _ (fun _ => ?_))
    | (with_reducible refine dbgTile_queue _ _ _ (fun _ => ?_))
    | (simp only [])
    | (with_reducible refine queue_ite _ _ _ _ ?_ ?_)
    | (with_reducible refine queue_ite_fst _ _ _ _ ?_ ?_)
    | (with_reducible refine queue_ite_snd _ _ _ _ ?_ ?_)
    | (with_reducible refine keeps_ite _ _ _ _ ?_ ?_)
    | (intro _ _)
    | (simp +zetaDelta)
    | split

theorem execJtagIdcode_keeps (s : State) : Keeps (queueOf s) (execJtagIdcode s) := by
  unfold execJtagIdcode
  refine jtagScan_keeps _ _ _ ?_
  intro s
  repeat' first
    | with_reducible rfl
    | (simp +zetaDelta [foldl_queue, foldl_snd_queue, foldl_fst_queue, pending_eq_queue]; done)
    | (with_reducible rw [foldl_queue])
    | (rw [pending_eq_queue])
    | (with_reducible exact hereFront_queue _ _ _ _ _ (by assumption))
    | (with_reducible refine withPart_queue _ _ _ _ _ (fun _ => ?_))
    | (with_reducible refine withTile_queue _ _ _ _ _ (fun _ => ?_))
    | (with_reducible refine lotEnded_queue _ _ _ (fun _ => ?_))
    | (with_reducible refine stageCtx_queue _ _ _ (fun _ => ?_))
    | (with_reducible refine stageMod_queue _ _ _ ?_)
    | (with_reducible refine stageMask_queue _ _ _ (fun _ => ?_))
    | (with_reducible exact takeRegs_queue _ _ _ _ (by assumption))
    | (with_reducible refine opNamed_queue _ _ _ (fun _ => ?_))
    | (with_reducible refine dbgTile_queue _ _ _ (fun _ => ?_))
    | (simp only [])
    | (with_reducible refine queue_ite _ _ _ _ ?_ ?_)
    | (with_reducible refine queue_ite_fst _ _ _ _ ?_ ?_)
    | (with_reducible refine queue_ite_snd _ _ _ _ ?_ ?_)
    | (with_reducible refine keeps_ite _ _ _ _ ?_ ?_)
    | (intro _ _)
    | (simp +zetaDelta)
    | split

@[simp ↓] theorem lifeBurn_queue (s : State) (l : LifeSt) :
    (queueOf (lifeBurn s l)) = (queueOf s) := by
  unfold lifeBurn
  repeat' first
    | with_reducible rfl
    | (simp +zetaDelta [foldl_queue, foldl_snd_queue, foldl_fst_queue, pending_eq_queue]; done)
    | (with_reducible rw [foldl_queue])
    | (rw [pending_eq_queue])
    | (with_reducible exact hereFront_queue _ _ _ _ _ (by assumption))
    | (with_reducible refine withPart_queue _ _ _ _ _ (fun _ => ?_))
    | (with_reducible refine withTile_queue _ _ _ _ _ (fun _ => ?_))
    | (with_reducible refine lotEnded_queue _ _ _ (fun _ => ?_))
    | (with_reducible refine stageCtx_queue _ _ _ (fun _ => ?_))
    | (with_reducible refine stageMod_queue _ _ _ ?_)
    | (with_reducible refine stageMask_queue _ _ _ (fun _ => ?_))
    | (with_reducible exact takeRegs_queue _ _ _ _ (by assumption))
    | (with_reducible refine opNamed_queue _ _ _ (fun _ => ?_))
    | (with_reducible refine dbgTile_queue _ _ _ (fun _ => ?_))
    | (simp only [])
    | (with_reducible refine queue_ite _ _ _ _ ?_ ?_)
    | (with_reducible refine queue_ite_fst _ _ _ _ ?_ ?_)
    | (with_reducible refine queue_ite_snd _ _ _ _ ?_ ?_)
    | (with_reducible refine keeps_ite _ _ _ _ ?_ ?_)
    | (intro _ _)
    | (simp +zetaDelta)
    | split

theorem execJtagTesteng_keeps (op : Nat) (s : State) : Keeps (queueOf s) (execJtagTesteng op s) := by
  unfold execJtagTesteng
  refine jtagScan_keeps _ _ _ ?_
  intro s
  repeat' first
    | with_reducible rfl
    | (simp +zetaDelta [foldl_queue, foldl_snd_queue, foldl_fst_queue, pending_eq_queue]; done)
    | (with_reducible rw [foldl_queue])
    | (rw [pending_eq_queue])
    | (with_reducible exact hereFront_queue _ _ _ _ _ (by assumption))
    | (with_reducible refine withPart_queue _ _ _ _ _ (fun _ => ?_))
    | (with_reducible refine withTile_queue _ _ _ _ _ (fun _ => ?_))
    | (with_reducible refine lotEnded_queue _ _ _ (fun _ => ?_))
    | (with_reducible refine stageCtx_queue _ _ _ (fun _ => ?_))
    | (with_reducible refine stageMod_queue _ _ _ ?_)
    | (with_reducible refine stageMask_queue _ _ _ (fun _ => ?_))
    | (with_reducible exact takeRegs_queue _ _ _ _ (by assumption))
    | (with_reducible refine opNamed_queue _ _ _ (fun _ => ?_))
    | (with_reducible refine dbgTile_queue _ _ _ (fun _ => ?_))
    | (simp only [])
    | (with_reducible refine queue_ite _ _ _ _ ?_ ?_)
    | (with_reducible refine queue_ite_fst _ _ _ _ ?_ ?_)
    | (with_reducible refine queue_ite_snd _ _ _ _ ?_ ?_)
    | (with_reducible refine keeps_ite _ _ _ _ ?_ ?_)
    | (intro _ _)
    | (simp +zetaDelta)
    | split

theorem execJtagBypass_keeps (s : State) : Keeps (queueOf s) (execJtagBypass s) := by
  unfold execJtagBypass
  refine jtagScan_keeps _ _ _ ?_
  intro s
  repeat' first
    | with_reducible rfl
    | (simp +zetaDelta [foldl_queue, foldl_snd_queue, foldl_fst_queue, pending_eq_queue]; done)
    | (with_reducible rw [foldl_queue])
    | (rw [pending_eq_queue])
    | (with_reducible exact hereFront_queue _ _ _ _ _ (by assumption))
    | (with_reducible refine withPart_queue _ _ _ _ _ (fun _ => ?_))
    | (with_reducible refine withTile_queue _ _ _ _ _ (fun _ => ?_))
    | (with_reducible refine lotEnded_queue _ _ _ (fun _ => ?_))
    | (with_reducible refine stageCtx_queue _ _ _ (fun _ => ?_))
    | (with_reducible refine stageMod_queue _ _ _ ?_)
    | (with_reducible refine stageMask_queue _ _ _ (fun _ => ?_))
    | (with_reducible exact takeRegs_queue _ _ _ _ (by assumption))
    | (with_reducible refine opNamed_queue _ _ _ (fun _ => ?_))
    | (with_reducible refine dbgTile_queue _ _ _ (fun _ => ?_))
    | (simp only [])
    | (with_reducible refine queue_ite _ _ _ _ ?_ ?_)
    | (with_reducible refine queue_ite_fst _ _ _ _ ?_ ?_)
    | (with_reducible refine queue_ite_snd _ _ _ _ ?_ ?_)
    | (with_reducible refine keeps_ite _ _ _ _ ?_ ?_)
    | (intro _ _)
    | (simp +zetaDelta)
    | split

/-- The rows of a path keep the queue. -/
def RowsKeep (rows : List Row15) : Prop := ∀ r ∈ rows, ∀ s c, (queueOf ((r.run s c).st)) = (queueOf s)

theorem pathAnswer_queue (s : State) (rows : List Row15) (foreign : Nat) (c : MCmd) (h : RowsKeep rows) :
    (queueOf ((pathAnswer s rows foreign c).st)) = (queueOf s) := by
  unfold pathAnswer
  split
  · rename_i r he
    repeat' split
    all_goals first | (simp; done) | exact serveCmd_queue _ _ _ _ _ _ (h r (List.mem_of_find?_eq_some he))
  · split <;> simp

theorem dbgRows_keep : RowsKeep dbgRows := by
  intro r hr
  simp only [dbgRows, List.cons_append, List.nil_append, List.mem_cons, List.not_mem_nil, or_false] at hr
  rcases hr with rfl | rfl | rfl | rfl | rfl | rfl | rfl | rfl | rfl | rfl | rfl | rfl | rfl | rfl | rfl | rfl
  all_goals
    intro s c
    simp

theorem pathServe_queue (s : State) (rows : List Row15) (foreign : Nat) (c : MCmd) (h : RowsKeep rows) :
    (queueOf ((pathServe s rows foreign c).2.2)) = (queueOf s) := by
  unfold pathServe
  simp only []
  rw [withHealth_queue, opsStart_queue, modReeve_queue]
  exact pathAnswer_queue _ _ _ _ h

@[simp ↓] theorem dbgTake_queue (s : State) (all : List Byte) : (queueOf (dbgTake s all)) = (queueOf s) := by
  unfold dbgTake
  simp only []
  rw [modJtag_queue]
  exact pathServe_queue _ _ _ _ dbgRows_keep

@[simp ↓] theorem dbgScan_queue (data : List Byte) (s : State) :
    (queueOf (dbgScan data s)) = (queueOf s) := by
  unfold dbgScan
  repeat' first
    | with_reducible rfl
    | (simp +zetaDelta [foldl_queue, foldl_snd_queue, foldl_fst_queue, pending_eq_queue]; done)
    | (with_reducible rw [foldl_queue])
    | (rw [pending_eq_queue])
    | (with_reducible exact hereFront_queue _ _ _ _ _ (by assumption))
    | (with_reducible refine withPart_queue _ _ _ _ _ (fun _ => ?_))
    | (with_reducible refine withTile_queue _ _ _ _ _ (fun _ => ?_))
    | (with_reducible refine lotEnded_queue _ _ _ (fun _ => ?_))
    | (with_reducible refine stageCtx_queue _ _ _ (fun _ => ?_))
    | (with_reducible refine stageMod_queue _ _ _ ?_)
    | (with_reducible refine stageMask_queue _ _ _ (fun _ => ?_))
    | (with_reducible exact takeRegs_queue _ _ _ _ (by assumption))
    | (with_reducible refine opNamed_queue _ _ _ (fun _ => ?_))
    | (with_reducible refine dbgTile_queue _ _ _ (fun _ => ?_))
    | (simp only [])
    | (with_reducible refine queue_ite _ _ _ _ ?_ ?_)
    | (with_reducible refine queue_ite_fst _ _ _ _ ?_ ?_)
    | (with_reducible refine queue_ite_snd _ _ _ _ ?_ ?_)
    | (with_reducible refine keeps_ite _ _ _ _ ?_ ?_)
    | (intro _ _)
    | (simp +zetaDelta)
    | split

theorem execJtagDbgcmd_keeps (data : List Byte) (s : State) : Keeps (queueOf s) (execJtagDbgcmd data s) := by
  unfold execJtagDbgcmd
  refine jtagScan_keeps _ _ _ ?_
  intro s
  repeat' first
    | with_reducible rfl
    | (simp +zetaDelta [foldl_queue, foldl_snd_queue, foldl_fst_queue, pending_eq_queue]; done)
    | (with_reducible rw [foldl_queue])
    | (rw [pending_eq_queue])
    | (with_reducible exact hereFront_queue _ _ _ _ _ (by assumption))
    | (with_reducible refine withPart_queue _ _ _ _ _ (fun _ => ?_))
    | (with_reducible refine withTile_queue _ _ _ _ _ (fun _ => ?_))
    | (with_reducible refine lotEnded_queue _ _ _ (fun _ => ?_))
    | (with_reducible refine stageCtx_queue _ _ _ (fun _ => ?_))
    | (with_reducible refine stageMod_queue _ _ _ ?_)
    | (with_reducible refine stageMask_queue _ _ _ (fun _ => ?_))
    | (with_reducible exact takeRegs_queue _ _ _ _ (by assumption))
    | (with_reducible refine opNamed_queue _ _ _ (fun _ => ?_))
    | (with_reducible refine dbgTile_queue _ _ _ (fun _ => ?_))
    | (simp only [])
    | (with_reducible refine queue_ite _ _ _ _ ?_ ?_)
    | (with_reducible refine queue_ite_fst _ _ _ _ ?_ ?_)
    | (with_reducible refine queue_ite_snd _ _ _ _ ?_ ?_)
    | (with_reducible refine keeps_ite _ _ _ _ ?_ ?_)
    | (intro _ _)
    | (simp +zetaDelta)
    | split

theorem execI3cDynamicAddress_keeps (setdasa : Bool) (static addr : Nat) (s : State) : Keeps (queueOf s) (execI3cDynamicAddress setdasa static addr s) := by
  unfold execI3cDynamicAddress
  repeat' first
    | with_reducible rfl
    | (simp +zetaDelta [foldl_queue, foldl_snd_queue, foldl_fst_queue, pending_eq_queue]; done)
    | (with_reducible rw [foldl_queue])
    | (rw [pending_eq_queue])
    | (with_reducible exact hereFront_queue _ _ _ _ _ (by assumption))
    | (with_reducible refine withPart_queue _ _ _ _ _ (fun _ => ?_))
    | (with_reducible refine withTile_queue _ _ _ _ _ (fun _ => ?_))
    | (with_reducible refine lotEnded_queue _ _ _ (fun _ => ?_))
    | (with_reducible refine stageCtx_queue _ _ _ (fun _ => ?_))
    | (with_reducible refine stageMod_queue _ _ _ ?_)
    | (with_reducible refine stageMask_queue _ _ _ (fun _ => ?_))
    | (with_reducible exact takeRegs_queue _ _ _ _ (by assumption))
    | (with_reducible refine opNamed_queue _ _ _ (fun _ => ?_))
    | (with_reducible refine dbgTile_queue _ _ _ (fun _ => ?_))
    | (simp only [])
    | (with_reducible refine queue_ite _ _ _ _ ?_ ?_)
    | (with_reducible refine queue_ite_fst _ _ _ _ ?_ ?_)
    | (with_reducible refine queue_ite_snd _ _ _ _ ?_ ?_)
    | (with_reducible refine keeps_ite _ _ _ _ ?_ ?_)
    | (intro _ _)
    | (simp +zetaDelta)
    | split

theorem sideRows_keep : RowsKeep sideRows := by
  intro r hr
  simp only [sideRows, List.mem_cons, List.not_mem_nil, or_false] at hr
  rcases hr with rfl | rfl | rfl | rfl
  all_goals
    intro s c
    simp

theorem execSidebandRequest_keeps (msg : List Byte) (s : State) : Keeps (queueOf s) (execSidebandRequest msg s) := by
  unfold execSidebandRequest
  split
  · rfl
  · simp only []
    split
    · simp
    · rw [keeps_next, putOut_queue]
      exact pathServe_queue _ _ _ _ sideRows_keep

@[simp ↓] theorem setEid_queue (s : State) (data : List Byte) :
    (queueOf (setEid s data)) = (queueOf s) := by
  unfold setEid
  repeat' first
    | with_reducible rfl
    | (simp +zetaDelta [foldl_queue, foldl_snd_queue, foldl_fst_queue, pending_eq_queue]; done)
    | (with_reducible rw [foldl_queue])
    | (rw [pending_eq_queue])
    | (with_reducible exact hereFront_queue _ _ _ _ _ (by assumption))
    | (with_reducible refine withPart_queue _ _ _ _ _ (fun _ => ?_))
    | (with_reducible refine withTile_queue _ _ _ _ _ (fun _ => ?_))
    | (with_reducible refine lotEnded_queue _ _ _ (fun _ => ?_))
    | (with_reducible refine stageCtx_queue _ _ _ (fun _ => ?_))
    | (with_reducible refine stageMod_queue _ _ _ ?_)
    | (with_reducible refine stageMask_queue _ _ _ (fun _ => ?_))
    | (with_reducible exact takeRegs_queue _ _ _ _ (by assumption))
    | (with_reducible refine opNamed_queue _ _ _ (fun _ => ?_))
    | (with_reducible refine dbgTile_queue _ _ _ (fun _ => ?_))
    | (simp only [])
    | (with_reducible refine queue_ite _ _ _ _ ?_ ?_)
    | (with_reducible refine queue_ite_fst _ _ _ _ ?_ ?_)
    | (with_reducible refine queue_ite_snd _ _ _ _ ?_ ?_)
    | (with_reducible refine keeps_ite _ _ _ _ ?_ ?_)
    | (intro _ _)
    | (simp +zetaDelta)
    | split

theorem execMctpControl_keeps (cmd : Nat) (data : List Byte) (s : State) : Keeps (queueOf s) (execMctpControl cmd data s) := by
  unfold execMctpControl
  repeat' first
    | with_reducible rfl
    | (simp +zetaDelta [foldl_queue, foldl_snd_queue, foldl_fst_queue, pending_eq_queue]; done)
    | (with_reducible rw [foldl_queue])
    | (rw [pending_eq_queue])
    | (with_reducible exact hereFront_queue _ _ _ _ _ (by assumption))
    | (with_reducible refine withPart_queue _ _ _ _ _ (fun _ => ?_))
    | (with_reducible refine withTile_queue _ _ _ _ _ (fun _ => ?_))
    | (with_reducible refine lotEnded_queue _ _ _ (fun _ => ?_))
    | (with_reducible refine stageCtx_queue _ _ _ (fun _ => ?_))
    | (with_reducible refine stageMod_queue _ _ _ ?_)
    | (with_reducible refine stageMask_queue _ _ _ (fun _ => ?_))
    | (with_reducible exact takeRegs_queue _ _ _ _ (by assumption))
    | (with_reducible refine opNamed_queue _ _ _ (fun _ => ?_))
    | (with_reducible refine dbgTile_queue _ _ _ (fun _ => ?_))
    | (simp only [])
    | (with_reducible refine queue_ite _ _ _ _ ?_ ?_)
    | (with_reducible refine queue_ite_fst _ _ _ _ ?_ ?_)
    | (with_reducible refine queue_ite_snd _ _ _ _ ?_ ?_)
    | (with_reducible refine keeps_ite _ _ _ _ ?_ ?_)
    | (intro _ _)
    | (simp +zetaDelta)
    | split

theorem execPldmGetSensorReading_keeps (id : Nat) (s : State) : Keeps (queueOf s) (execPldmGetSensorReading id s) := by
  unfold execPldmGetSensorReading
  repeat' first
    | with_reducible rfl
    | (simp +zetaDelta [foldl_queue, foldl_snd_queue, foldl_fst_queue, pending_eq_queue]; done)
    | (with_reducible rw [foldl_queue])
    | (rw [pending_eq_queue])
    | (with_reducible exact hereFront_queue _ _ _ _ _ (by assumption))
    | (with_reducible refine withPart_queue _ _ _ _ _ (fun _ => ?_))
    | (with_reducible refine withTile_queue _ _ _ _ _ (fun _ => ?_))
    | (with_reducible refine lotEnded_queue _ _ _ (fun _ => ?_))
    | (with_reducible refine stageCtx_queue _ _ _ (fun _ => ?_))
    | (with_reducible refine stageMod_queue _ _ _ ?_)
    | (with_reducible refine stageMask_queue _ _ _ (fun _ => ?_))
    | (with_reducible exact takeRegs_queue _ _ _ _ (by assumption))
    | (with_reducible refine opNamed_queue _ _ _ (fun _ => ?_))
    | (with_reducible refine dbgTile_queue _ _ _ (fun _ => ?_))
    | (simp only [])
    | (with_reducible refine queue_ite _ _ _ _ ?_ ?_)
    | (with_reducible refine queue_ite_fst _ _ _ _ ?_ ?_)
    | (with_reducible refine queue_ite_snd _ _ _ _ ?_ ?_)
    | (with_reducible refine keeps_ite _ _ _ _ ?_ ?_)
    | (intro _ _)
    | (simp +zetaDelta)
    | split

theorem execPldmPollEvent_keeps (s : State) : Keeps (queueOf s) (execPldmPollEvent s) := by
  unfold execPldmPollEvent
  repeat' first
    | with_reducible rfl
    | (simp +zetaDelta [foldl_queue, foldl_snd_queue, foldl_fst_queue, pending_eq_queue]; done)
    | (with_reducible rw [foldl_queue])
    | (rw [pending_eq_queue])
    | (with_reducible exact hereFront_queue _ _ _ _ _ (by assumption))
    | (with_reducible refine withPart_queue _ _ _ _ _ (fun _ => ?_))
    | (with_reducible refine withTile_queue _ _ _ _ _ (fun _ => ?_))
    | (with_reducible refine lotEnded_queue _ _ _ (fun _ => ?_))
    | (with_reducible refine stageCtx_queue _ _ _ (fun _ => ?_))
    | (with_reducible refine stageMod_queue _ _ _ ?_)
    | (with_reducible refine stageMask_queue _ _ _ (fun _ => ?_))
    | (with_reducible exact takeRegs_queue _ _ _ _ (by assumption))
    | (with_reducible refine opNamed_queue _ _ _ (fun _ => ?_))
    | (with_reducible refine dbgTile_queue _ _ _ (fun _ => ?_))
    | (simp only [])
    | (with_reducible refine queue_ite _ _ _ _ ?_ ?_)
    | (with_reducible refine queue_ite_fst _ _ _ _ ?_ ?_)
    | (with_reducible refine queue_ite_snd _ _ _ _ ?_ ?_)
    | (with_reducible refine keeps_ite _ _ _ _ ?_ ?_)
    | (intro _ _)
    | (simp +zetaDelta)
    | split

theorem execPcieConfigurationRequest_keeps (write : Bool) (field v : Nat) (s : State) : Keeps (queueOf s) (execPcieConfigurationRequest write field v s) := by
  unfold execPcieConfigurationRequest
  repeat' first
    | with_reducible rfl
    | (simp +zetaDelta [foldl_queue, foldl_snd_queue, foldl_fst_queue, pending_eq_queue]; done)
    | (with_reducible rw [foldl_queue])
    | (rw [pending_eq_queue])
    | (with_reducible exact hereFront_queue _ _ _ _ _ (by assumption))
    | (with_reducible refine withPart_queue _ _ _ _ _ (fun _ => ?_))
    | (with_reducible refine withTile_queue _ _ _ _ _ (fun _ => ?_))
    | (with_reducible refine lotEnded_queue _ _ _ (fun _ => ?_))
    | (with_reducible refine stageCtx_queue _ _ _ (fun _ => ?_))
    | (with_reducible refine stageMod_queue _ _ _ ?_)
    | (with_reducible refine stageMask_queue _ _ _ (fun _ => ?_))
    | (with_reducible exact takeRegs_queue _ _ _ _ (by assumption))
    | (with_reducible refine opNamed_queue _ _ _ (fun _ => ?_))
    | (with_reducible refine dbgTile_queue _ _ _ (fun _ => ?_))
    | (simp only [])
    | (with_reducible refine queue_ite _ _ _ _ ?_ ?_)
    | (with_reducible refine queue_ite_fst _ _ _ _ ?_ ?_)
    | (with_reducible refine queue_ite_snd _ _ _ _ ?_ ?_)
    | (with_reducible refine keeps_ite _ _ _ _ ?_ ?_)
    | (intro _ _)
    | (simp +zetaDelta)
    | split

end Sys2Proof.Machine
end

