-- ==== Sys2Proof/Laws/Runs.lean ====
section
/-! SUPPORT. Every command whose units exist completes: its meaning answers a next state, whatever the state (R11). -/

set_option linter.unusedSimpArgs false
set_option linter.unreachableTactic false
set_option linter.unusedTactic false

namespace Sys2Proof.Machine

/-- An outcome is a next state. -/
def Runs (r : Res) : Prop := ∃ t, r = .next t

theorem runs_next (t : State) : Runs (.next t) := ⟨t, rfl⟩

theorem runs_ite (c : Prop) [Decidable c] (a b : Res) (ha : c → Runs a) (hb : ¬ c → Runs b) : Runs (if c then a else b) := by
  split
  · exact ha ‹_›
  · exact hb ‹_›

theorem unitRun_runs (s : State) (p : Nat) (u : Nat) (ok : Tile → Fired → Bool) (run : Fired → State → State) (hu : p < tileCount) : Runs (unitRun s p u ok run) := by
  unfold unitRun
  repeat' first
    | exact runs_next _
    | (with_reducible refine runs_ite _ _ _ (fun _ => ?_) (fun _ => ?_))
    | split
    | (simp only [])
    | exact absurd hu ‹_›
    | exact hu
    | (exfalso; simp_all [tileCount, stackCount, portCount, rowCountAll]; done)
    | (exfalso; simp_all [tileCount, stackCount, portCount, rowCountAll]; omega)
    | (exfalso; omega)

theorem combineRun_runs (kind : Nat) (f : State → Nat → Nat → Packet → State) (p : Nat) (input : Nat) (s : State) (hu : p < tileCount) : Runs (combineRun kind f p input s) := by
  unfold combineRun
  repeat' first
    | exact runs_next _
    | (with_reducible refine runs_ite _ _ _ (fun _ => ?_) (fun _ => ?_))
    | split
    | (simp only [])
    | exact absurd hu ‹_›
    | exact hu
    | (exfalso; simp_all [tileCount, stackCount, portCount, rowCountAll]; done)
    | (exfalso; simp_all [tileCount, stackCount, portCount, rowCountAll]; omega)
    | (exfalso; omega)

theorem classRun_runs (k cls : Nat) (want : Packet → Bool) (can : Stack → Packet → Bool) (turned serves : State → Packet → State) (s : State) (hu : k < stackCount) : Runs (classRun k cls want can turned serves s) := by
  unfold classRun
  repeat' first
    | exact runs_next _
    | (with_reducible refine runs_ite _ _ _ (fun _ => ?_) (fun _ => ?_))
    | split
    | (simp only [])
    | exact absurd hu ‹_›
    | exact hu
    | (exfalso; simp_all [tileCount, stackCount, portCount, rowCountAll]; done)
    | (exfalso; simp_all [tileCount, stackCount, portCount, rowCountAll]; omega)
    | (exfalso; omega)

theorem sinkRun_runs (want : Packet → Bool) (f : State → Nat → Packet → State) (p : Nat) (s : State) (hu : p < tileCount) : Runs (sinkRun want f p s) := by
  unfold sinkRun
  repeat' first
    | exact runs_next _
    | (with_reducible refine runs_ite _ _ _ (fun _ => ?_) (fun _ => ?_))
    | split
    | (simp only [])
    | exact absurd hu ‹_›
    | exact hu
    | (exfalso; simp_all [tileCount, stackCount, portCount, rowCountAll]; done)
    | (exfalso; simp_all [tileCount, stackCount, portCount, rowCountAll]; omega)
    | (exfalso; omega)

theorem dmaRun_runs (op : Nat) (run : DmaEnt → State → State) (ok : State → DmaEnt → Bool) (p : Nat) (s : State) (hu : p < tileCount) : Runs (dmaRun op run ok p s) := by
  unfold dmaRun
  repeat' first
    | exact runs_next _
    | (with_reducible refine runs_ite _ _ _ (fun _ => ?_) (fun _ => ?_))
    | split
    | (simp only [])
    | exact absurd hu ‹_›
    | exact hu
    | (exfalso; simp_all [tileCount, stackCount, portCount, rowCountAll]; done)
    | (exfalso; simp_all [tileCount, stackCount, portCount, rowCountAll]; omega)
    | (exfalso; omega)

theorem millRun_runs (op : Nat) (k : Nat) (n : Nat) (res : Bool) (bad : List (Nat × Nat)) (s : State) (hu : (k < stackCount ∧ n < 12)) : Runs (millRun op k n res bad s) := by
  unfold millRun
  repeat' first
    | exact runs_next _
    | (with_reducible refine runs_ite _ _ _ (fun _ => ?_) (fun _ => ?_))
    | split
    | (simp only [])
    | exact absurd hu ‹_›
    | exact hu
    | (exfalso; simp_all [tileCount, stackCount, portCount, rowCountAll]; done)
    | (exfalso; simp_all [tileCount, stackCount, portCount, rowCountAll]; omega)
    | (exfalso; omega)

theorem clerkRow_runs (kind : CKind) (p : Nat) (s : State) (hu : p < tileCount) : Runs (clerkRow kind p s) := by
  unfold clerkRow
  repeat' first
    | exact runs_next _
    | (with_reducible refine runs_ite _ _ _ (fun _ => ?_) (fun _ => ?_))
    | split
    | (simp only [])
    | exact absurd hu ‹_›
    | exact hu
    | (exfalso; simp_all [tileCount, stackCount, portCount, rowCountAll]; done)
    | (exfalso; simp_all [tileCount, stackCount, portCount, rowCountAll]; omega)
    | (exfalso; omega)

theorem flitRow_runs (type : Nat) (p : Nat) (fl : List Byte) (s : State) (f : State → State) (g : Port → Port) (hu : p < portCount) : Runs (flitRow type p fl s f g) := by
  unfold flitRow
  repeat' first
    | exact runs_next _
    | (with_reducible refine runs_ite _ _ _ (fun _ => ?_) (fun _ => ?_))
    | split
    | (simp only [])
    | exact absurd hu ‹_›
    | exact hu
    | (exfalso; simp_all [tileCount, stackCount, portCount, rowCountAll]; done)
    | (exfalso; simp_all [tileCount, stackCount, portCount, rowCountAll]; omega)
    | (exfalso; omega)

theorem mailRow_runs (key : Nat) (x : CSpec) (h : State → MCmd → Ans) (pg : Nat) (req : Option (List Byte)) (respOk : Bool) (s : State) (hu : pg < 16) : Runs (mailRow key x h pg req respOk s) := by
  unfold mailRow
  repeat' first
    | exact runs_next _
    | (with_reducible refine runs_ite _ _ _ (fun _ => ?_) (fun _ => ?_))
    | split
    | (simp only [])
    | exact absurd hu ‹_›
    | exact hu
    | (exfalso; simp_all [tileCount, stackCount, portCount, rowCountAll]; done)
    | (exfalso; simp_all [tileCount, stackCount, portCount, rowCountAll]; omega)
    | (exfalso; omega)

theorem jtagScan_runs (allowed : LifeSt → Bool) (run : State → State) (s : State) : Runs (jtagScan allowed run s) := by
  unfold jtagScan
  repeat' first
    | exact runs_next _
    | (with_reducible refine runs_ite _ _ _ (fun _ => ?_) (fun _ => ?_))
    | split
    | (simp only [])
    | exact absurd hu ‹_›
    | exact hu
    | (exfalso; simp_all [tileCount, stackCount, portCount, rowCountAll]; done)
    | (exfalso; simp_all [tileCount, stackCount, portCount, rowCountAll]; omega)
    | (exfalso; omega)

theorem execInputGood_runs (mv : Nat) (s : State) : Runs (execInputGood mv s) := by
  have hw := True.intro
  unfold execInputGood
  repeat' first
    | exact runs_next _
    | (with_reducible refine runs_ite _ _ _ (fun _ => ?_) (fun _ => ?_))
    | split
    | (simp only [])
    | exact absurd hw ‹_›
    | exact hw
    | (exfalso; simp_all [tileCount, stackCount, portCount, rowCountAll]; done)
    | (exfalso; simp_all [tileCount, stackCount, portCount, rowCountAll]; omega)
    | (exfalso; omega)

theorem execStartPhaseComplete_runs (ms : Nat) (flashOk : Bool) (ucie : List (Nat × Nat × Option Nat)) (found : List TileFound) (sense : List (Nat × Nat)) (rows : List (Nat × Nat × Bool)) (s : State) : Runs (execStartPhaseComplete ms flashOk ucie found sense rows s) := by
  have hw := True.intro
  unfold execStartPhaseComplete
  repeat' first
    | exact runs_next _
    | (with_reducible refine runs_ite _ _ _ (fun _ => ?_) (fun _ => ?_))
    | split
    | (simp only [])
    | exact absurd hw ‹_›
    | exact hw
    | (exfalso; simp_all [tileCount, stackCount, portCount, rowCountAll]; done)
    | (exfalso; simp_all [tileCount, stackCount, portCount, rowCountAll]; omega)
    | (exfalso; omega)

theorem execModuleReady_runs (ms : Nat) (s : State) : Runs (execModuleReady ms s) := by
  have hw := True.intro
  unfold execModuleReady
  repeat' first
    | exact runs_next _
    | (with_reducible refine runs_ite _ _ _ (fun _ => ?_) (fun _ => ?_))
    | split
    | (simp only [])
    | exact absurd hw ‹_›
    | exact hw
    | (exfalso; simp_all [tileCount, stackCount, portCount, rowCountAll]; done)
    | (exfalso; simp_all [tileCount, stackCount, portCount, rowCountAll]; omega)
    | (exfalso; omega)

theorem execMrstNAssert_runs (s : State) : Runs (execMrstNAssert s) := by
  have hw := True.intro
  unfold execMrstNAssert
  repeat' first
    | exact runs_next _
    | (with_reducible refine runs_ite _ _ _ (fun _ => ?_) (fun _ => ?_))
    | split
    | (simp only [])
    | exact absurd hw ‹_›
    | exact hw
    | (exfalso; simp_all [tileCount, stackCount, portCount, rowCountAll]; done)
    | (exfalso; simp_all [tileCount, stackCount, portCount, rowCountAll]; omega)
    | (exfalso; omega)

theorem execMrstNRelease_runs (s : State) : Runs (execMrstNRelease s) := by
  have hw := True.intro
  unfold execMrstNRelease
  repeat' first
    | exact runs_next _
    | (with_reducible refine runs_ite _ _ _ (fun _ => ?_) (fun _ => ?_))
    | split
    | (simp only [])
    | exact absurd hw ‹_›
    | exact hw
    | (exfalso; simp_all [tileCount, stackCount, portCount, rowCountAll]; done)
    | (exfalso; simp_all [tileCount, stackCount, portCount, rowCountAll]; omega)
    | (exfalso; omega)

theorem execPerstAssert_runs (s : State) : Runs (execPerstAssert s) := by
  have hw := True.intro
  unfold execPerstAssert
  repeat' first
    | exact runs_next _
    | (with_reducible refine runs_ite _ _ _ (fun _ => ?_) (fun _ => ?_))
    | split
    | (simp only [])
    | exact absurd hw ‹_›
    | exact hw
    | (exfalso; simp_all [tileCount, stackCount, portCount, rowCountAll]; done)
    | (exfalso; simp_all [tileCount, stackCount, portCount, rowCountAll]; omega)
    | (exfalso; omega)

theorem execPerstRelease_runs (s : State) : Runs (execPerstRelease s) := by
  have hw := True.intro
  unfold execPerstRelease
  repeat' first
    | exact runs_next _
    | (with_reducible refine runs_ite _ _ _ (fun _ => ?_) (fun _ => ?_))
    | split
    | (simp only [])
    | exact absurd hw ‹_›
    | exact hw
    | (exfalso; simp_all [tileCount, stackCount, portCount, rowCountAll]; done)
    | (exfalso; simp_all [tileCount, stackCount, portCount, rowCountAll]; omega)
    | (exfalso; omega)

theorem execInputProtectOff_runs (s : State) : Runs (execInputProtectOff s) := by
  have hw := True.intro
  unfold execInputProtectOff
  repeat' first
    | exact runs_next _
    | (with_reducible refine runs_ite _ _ _ (fun _ => ?_) (fun _ => ?_))
    | split
    | (simp only [])
    | exact absurd hw ‹_›
    | exact hw
    | (exfalso; simp_all [tileCount, stackCount, portCount, rowCountAll]; done)
    | (exfalso; simp_all [tileCount, stackCount, portCount, rowCountAll]; omega)
    | (exfalso; omega)

theorem execRailFailure_runs (rail : Nat) (k : Nat) (s : State)
    (hw : (rail < 7 && (rail == 0 || (3 ≤ rail && rail < 6) || (rail == 6 && k < 16) || (rail < 3 && okStack k))) = true) :
    Runs (execRailFailure rail k s) := by
  simp only [okStack, stackCount, decide_eq_true_eq, Bool.and_eq_true, Bool.or_eq_true, beq_iff_eq] at hw
  obtain ⟨h1, h2⟩ := hw
  unfold execRailFailure
  split
  · exact runs_next _
  · exact runs_ite _ _ _ (fun h => absurd (by omega) h) (fun _ => runs_next _)
  · exact runs_ite _ _ _ (fun h => absurd (by omega) h) (fun _ => runs_next _)
  · exact runs_next _
  · exact runs_next _
  · exact runs_next _
  · exact runs_ite _ _ _ (fun h => absurd (by omega) h) (fun _ => runs_next _)
  · simp only [imp_false] at *
    omega

theorem execThermalTrip_runs (s : State) : Runs (execThermalTrip s) := by
  have hw := True.intro
  unfold execThermalTrip
  repeat' first
    | exact runs_next _
    | (with_reducible refine runs_ite _ _ _ (fun _ => ?_) (fun _ => ?_))
    | split
    | (simp only [])
    | exact absurd hw ‹_›
    | exact hw
    | (exfalso; simp_all [tileCount, stackCount, portCount, rowCountAll]; done)
    | (exfalso; simp_all [tileCount, stackCount, portCount, rowCountAll]; omega)
    | (exfalso; omega)

theorem execInputRemovalClear_runs (s : State) : Runs (execInputRemovalClear s) := by
  have hw := True.intro
  unfold execInputRemovalClear
  repeat' first
    | exact runs_next _
    | (with_reducible refine runs_ite _ _ _ (fun _ => ?_) (fun _ => ?_))
    | split
    | (simp only [])
    | exact absurd hw ‹_›
    | exact hw
    | (exfalso; simp_all [tileCount, stackCount, portCount, rowCountAll]; done)
    | (exfalso; simp_all [tileCount, stackCount, portCount, rowCountAll]; omega)
    | (exfalso; omega)

theorem execPowerSample_runs (doms : List (Nat × Nat × Nat × Nat)) (mv : Nat) (ma : Nat) (mw : Nat) (tj : Nat) (dram : Nat) (optic : Nat) (cracked : List Nat) (s : State) : Runs (execPowerSample doms mv ma mw tj dram optic cracked s) := by
  have hw := True.intro
  unfold execPowerSample
  repeat' first
    | exact runs_next _
    | (with_reducible refine runs_ite _ _ _ (fun _ => ?_) (fun _ => ?_))
    | split
    | (simp only [])
    | exact absurd hw ‹_›
    | exact hw
    | (exfalso; simp_all [tileCount, stackCount, portCount, rowCountAll]; done)
    | (exfalso; simp_all [tileCount, stackCount, portCount, rowCountAll]; omega)
    | (exfalso; omega)

theorem execEmergencyTrigger_runs (k : Nat) (s : State) (hw : (k < 5) = true) : Runs (execEmergencyTrigger k s) := by
  simp only [okTile, okPort, okStack, okPart, okRow, okPage, decide_eq_true_eq, Bool.and_eq_true] at hw
  unfold execEmergencyTrigger
  repeat' first
    | exact runs_next _
    | (with_reducible refine runs_ite _ _ _ (fun _ => ?_) (fun _ => ?_))
    | split
    | (simp only [])
    | exact absurd hw ‹_›
    | exact hw
    | (exfalso; simp_all [tileCount, stackCount, portCount, rowCountAll]; done)
    | (exfalso; simp_all [tileCount, stackCount, portCount, rowCountAll]; omega)
    | (exfalso; omega)

theorem execEmergencyStepFurther_runs (k : Nat) (s : State) (hw : (k < 5) = true) : Runs (execEmergencyStepFurther k s) := by
  simp only [okTile, okPort, okStack, okPart, okRow, okPage, decide_eq_true_eq, Bool.and_eq_true] at hw
  unfold execEmergencyStepFurther
  repeat' first
    | exact runs_next _
    | (with_reducible refine runs_ite _ _ _ (fun _ => ?_) (fun _ => ?_))
    | split
    | (simp only [])
    | exact absurd hw ‹_›
    | exact hw
    | (exfalso; simp_all [tileCount, stackCount, portCount, rowCountAll]; done)
    | (exfalso; simp_all [tileCount, stackCount, portCount, rowCountAll]; omega)
    | (exfalso; omega)

theorem execEmergencyStepUp_runs (s : State) : Runs (execEmergencyStepUp s) := by
  have hw := True.intro
  unfold execEmergencyStepUp
  repeat' first
    | exact runs_next _
    | (with_reducible refine runs_ite _ _ _ (fun _ => ?_) (fun _ => ?_))
    | split
    | (simp only [])
    | exact absurd hw ‹_›
    | exact hw
    | (exfalso; simp_all [tileCount, stackCount, portCount, rowCountAll]; done)
    | (exfalso; simp_all [tileCount, stackCount, portCount, rowCountAll]; omega)
    | (exfalso; omega)

theorem execSlowNoticeReceive_runs (p : Nat) (s : State) (hw : (okPort p) = true) : Runs (execSlowNoticeReceive p s) := by
  simp only [okTile, okPort, okStack, okPart, okRow, okPage, decide_eq_true_eq, Bool.and_eq_true] at hw
  unfold execSlowNoticeReceive
  repeat' first
    | exact runs_next _
    | (with_reducible refine runs_ite _ _ _ (fun _ => ?_) (fun _ => ?_))
    | split
    | (simp only [])
    | exact absurd hw ‹_›
    | exact hw
    | (exfalso; simp_all [tileCount, stackCount, portCount, rowCountAll]; done)
    | (exfalso; simp_all [tileCount, stackCount, portCount, rowCountAll]; omega)
    | (exfalso; omega)

theorem execPldmSetPowerState_runs (v : Nat) (found : List TileFound) (s : State) : Runs (execPldmSetPowerState v found s) := by
  have hw := True.intro
  unfold execPldmSetPowerState
  repeat' first
    | exact runs_next _
    | (with_reducible refine runs_ite _ _ _ (fun _ => ?_) (fun _ => ?_))
    | split
    | (simp only [])
    | exact absurd hw ‹_›
    | exact hw
    | (exfalso; simp_all [tileCount, stackCount, portCount, rowCountAll]; done)
    | (exfalso; simp_all [tileCount, stackCount, portCount, rowCountAll]; omega)
    | (exfalso; omega)

theorem execBellExpectedTime_runs (s : State) : Runs (execBellExpectedTime s) := by
  have hw := True.intro
  unfold execBellExpectedTime
  repeat' first
    | exact runs_next _
    | (with_reducible refine runs_ite _ _ _ (fun _ => ?_) (fun _ => ?_))
    | split
    | (simp only [])
    | exact absurd hw ‹_›
    | exact hw
    | (exfalso; simp_all [tileCount, stackCount, portCount, rowCountAll]; done)
    | (exfalso; simp_all [tileCount, stackCount, portCount, rowCountAll]; omega)
    | (exfalso; omega)

theorem execBellFire_runs (fails : List Nat) (s : State) : Runs (execBellFire fails s) := by
  have hw := True.intro
  unfold execBellFire
  repeat' first
    | exact runs_next _
    | (with_reducible refine runs_ite _ _ _ (fun _ => ?_) (fun _ => ?_))
    | split
    | (simp only [])
    | exact absurd hw ‹_›
    | exact hw
    | (exfalso; simp_all [tileCount, stackCount, portCount, rowCountAll]; done)
    | (exfalso; simp_all [tileCount, stackCount, portCount, rowCountAll]; omega)
    | (exfalso; omega)

theorem execBellOverrun_runs (fails : List Nat) (s : State) : Runs (execBellOverrun fails s) := by
  have hw := True.intro
  unfold execBellOverrun
  repeat' first
    | exact runs_next _
    | (with_reducible refine runs_ite _ _ _ (fun _ => ?_) (fun _ => ?_))
    | split
    | (simp only [])
    | exact absurd hw ‹_›
    | exact hw
    | (exfalso; simp_all [tileCount, stackCount, portCount, rowCountAll]; done)
    | (exfalso; simp_all [tileCount, stackCount, portCount, rowCountAll]; omega)
    | (exfalso; omega)

theorem execLotAbortNoticeReceive_runs (p : Nat) (s : State) (hw : (okPort p) = true) : Runs (execLotAbortNoticeReceive p s) := by
  simp only [okTile, okPort, okStack, okPart, okRow, okPage, decide_eq_true_eq, Bool.and_eq_true] at hw
  unfold execLotAbortNoticeReceive
  repeat' first
    | exact runs_next _
    | (with_reducible refine runs_ite _ _ _ (fun _ => ?_) (fun _ => ?_))
    | split
    | (simp only [])
    | exact absurd hw ‹_›
    | exact hw
    | (exfalso; simp_all [tileCount, stackCount, portCount, rowCountAll]; done)
    | (exfalso; simp_all [tileCount, stackCount, portCount, rowCountAll]; omega)
    | (exfalso; omega)

theorem execBellGuardStart_runs (s : State) : Runs (execBellGuardStart s) := by
  have hw := True.intro
  unfold execBellGuardStart
  repeat' first
    | exact runs_next _
    | (with_reducible refine runs_ite _ _ _ (fun _ => ?_) (fun _ => ?_))
    | split
    | (simp only [])
    | exact absurd hw ‹_›
    | exact hw
    | (exfalso; simp_all [tileCount, stackCount, portCount, rowCountAll]; done)
    | (exfalso; simp_all [tileCount, stackCount, portCount, rowCountAll]; omega)
    | (exfalso; omega)

theorem execSwitchWindowOpen_runs (s : State) : Runs (execSwitchWindowOpen s) := by
  have hw := True.intro
  unfold execSwitchWindowOpen
  repeat' first
    | exact runs_next _
    | (with_reducible refine runs_ite _ _ _ (fun _ => ?_) (fun _ => ?_))
    | split
    | (simp only [])
    | exact absurd hw ‹_›
    | exact hw
    | (exfalso; simp_all [tileCount, stackCount, portCount, rowCountAll]; done)
    | (exfalso; simp_all [tileCount, stackCount, portCount, rowCountAll]; omega)
    | (exfalso; omega)

theorem execWatchmanHoldSample_runs (s : State) : Runs (execWatchmanHoldSample s) := by
  have hw := True.intro
  unfold execWatchmanHoldSample
  repeat' first
    | exact runs_next _
    | (with_reducible refine runs_ite _ _ _ (fun _ => ?_) (fun _ => ?_))
    | split
    | (simp only [])
    | exact absurd hw ‹_›
    | exact hw
    | (exfalso; simp_all [tileCount, stackCount, portCount, rowCountAll]; done)
    | (exfalso; simp_all [tileCount, stackCount, portCount, rowCountAll]; omega)
    | (exfalso; omega)

theorem execPatternLoad_runs (p : Nat) (k : Nat) (install : Bool) (s : State) (hw : (okTile p && k < 4) = true) : Runs (execPatternLoad p k install s) := by
  simp only [okTile, okPort, okStack, okPart, okRow, okPage, decide_eq_true_eq, Bool.and_eq_true] at hw
  unfold execPatternLoad
  repeat' first
    | exact runs_next _
    | (with_reducible refine runs_ite _ _ _ (fun _ => ?_) (fun _ => ?_))
    | split
    | (simp only [])
    | exact absurd hw ‹_›
    | exact hw
    | (exfalso; simp_all [tileCount, stackCount, portCount, rowCountAll]; done)
    | (exfalso; simp_all [tileCount, stackCount, portCount, rowCountAll]; omega)
    | (exfalso; omega)

theorem execSequencerStep_runs (p : Nat) (s : State) (hw : (okTile p) = true) : Runs (execSequencerStep p s) := by
  simp only [okTile, okPort, okStack, okPart, okRow, okPage, decide_eq_true_eq, Bool.and_eq_true] at hw
  unfold execSequencerStep
  repeat' first
    | exact runs_next _
    | (with_reducible refine runs_ite _ _ _ (fun _ => ?_) (fun _ => ?_))
    | split
    | (simp only [])
    | exact absurd hw ‹_›
    | exact hw
    | (exfalso; simp_all [tileCount, stackCount, portCount, rowCountAll]; done)
    | (exfalso; simp_all [tileCount, stackCount, portCount, rowCountAll]; omega)
    | (exfalso; omega)

theorem execWaitForBell_runs (p : Nat) (s : State) (hw : (okTile p) = true) : Runs (execWaitForBell p s) := by
  simp only [okTile, okPort, okStack, okPart, okRow, okPage, decide_eq_true_eq, Bool.and_eq_true] at hw
  unfold execWaitForBell
  repeat' first
    | exact runs_next _
    | (with_reducible refine runs_ite _ _ _ (fun _ => ?_) (fun _ => ?_))
    | split
    | (simp only [])
    | exact absurd hw ‹_›
    | exact hw
    | (exfalso; simp_all [tileCount, stackCount, portCount, rowCountAll]; done)
    | (exfalso; simp_all [tileCount, stackCount, portCount, rowCountAll]; omega)
    | (exfalso; omega)

theorem execLoomOverwriteStream_runs (p : Nat) (ups : List (Nat × Nat × Word)) (accUps : List (Nat × Nat)) (s : State) (hw : (okTile p) = true) : Runs (execLoomOverwriteStream p ups accUps s) := by
  simp only [okTile, okPort, okStack, okPart, okRow, okPage, decide_eq_true_eq, Bool.and_eq_true] at hw
  unfold execLoomOverwriteStream
  exact unitRun_runs _ _ _ _ _ hw

theorem execLoomAccumulateStream_runs (p : Nat) (ups : List (Nat × Nat × Word)) (accUps : List (Nat × Nat)) (s : State) (hw : (okTile p) = true) : Runs (execLoomAccumulateStream p ups accUps s) := by
  simp only [okTile, okPort, okStack, okPart, okRow, okPage, decide_eq_true_eq, Bool.and_eq_true] at hw
  unfold execLoomAccumulateStream
  exact unitRun_runs _ _ _ _ _ hw

theorem execLoomDrainOnly_runs (p : Nat) (accUps : List (Nat × Nat)) (s : State) (hw : (okTile p) = true) : Runs (execLoomDrainOnly p accUps s) := by
  simp only [okTile, okPort, okStack, okPart, okRow, okPage, decide_eq_true_eq, Bool.and_eq_true] at hw
  unfold execLoomDrainOnly
  exact unitRun_runs _ _ _ _ _ hw

theorem execShuttleLoad_runs (p : Nat) (s : State) (hw : (okTile p) = true) : Runs (execShuttleLoad p s) := by
  simp only [okTile, okPort, okStack, okPart, okRow, okPage, decide_eq_true_eq, Bool.and_eq_true] at hw
  unfold execShuttleLoad
  exact unitRun_runs _ _ _ _ _ hw

theorem execShuttleSwap_runs (p : Nat) (s : State) (hw : (okTile p) = true) : Runs (execShuttleSwap p s) := by
  simp only [okTile, okPort, okStack, okPart, okRow, okPage, decide_eq_true_eq, Bool.and_eq_true] at hw
  unfold execShuttleSwap
  exact unitRun_runs _ _ _ _ _ hw

theorem execSievePass_runs (p : Nat) (s : State) (hw : (okTile p) = true) : Runs (execSievePass p s) := by
  simp only [okTile, okPort, okStack, okPart, okRow, okPage, decide_eq_true_eq, Bool.and_eq_true] at hw
  unfold execSievePass
  exact unitRun_runs _ _ _ _ _ hw

theorem execScatterPass_runs (p : Nat) (ups : List (Nat × Nat × Word)) (s : State) (hw : (okTile p) = true) : Runs (execScatterPass p ups s) := by
  simp only [okTile, okPort, okStack, okPart, okRow, okPage, decide_eq_true_eq, Bool.and_eq_true] at hw
  unfold execScatterPass
  exact unitRun_runs _ _ _ _ _ hw

theorem execOverflowPass_runs (p : Nat) (ups : List (Nat × Nat × Word)) (s : State) (hw : (okTile p) = true) : Runs (execOverflowPass p ups s) := by
  simp only [okTile, okPort, okStack, okPart, okRow, okPage, decide_eq_true_eq, Bool.and_eq_true] at hw
  unfold execOverflowPass
  exact unitRun_runs _ _ _ _ _ hw

theorem execGranaryDrain_runs (p : Nat) (s : State) (hw : (okTile p) = true) : Runs (execGranaryDrain p s) := by
  simp only [okTile, okPort, okStack, okPart, okRow, okPage, decide_eq_true_eq, Bool.and_eq_true] at hw
  unfold execGranaryDrain
  exact unitRun_runs _ _ _ _ _ hw

theorem execBinsDrain_runs (p : Nat) (s : State) (hw : (okTile p) = true) : Runs (execBinsDrain p s) := by
  simp only [okTile, okPort, okStack, okPart, okRow, okPage, decide_eq_true_eq, Bool.and_eq_true] at hw
  unfold execBinsDrain
  exact unitRun_runs _ _ _ _ _ hw

theorem execAccumulatorClearOnly_runs (p : Nat) (s : State) (hw : (okTile p) = true) : Runs (execAccumulatorClearOnly p s) := by
  simp only [okTile, okPort, okStack, okPart, okRow, okPage, decide_eq_true_eq, Bool.and_eq_true] at hw
  unfold execAccumulatorClearOnly
  exact unitRun_runs _ _ _ _ _ hw

theorem execFullerPass_runs (p : Nat) (ups : List FulUps) (s : State) (hw : (okTile p) = true) : Runs (execFullerPass p ups s) := by
  simp only [okTile, okPort, okStack, okPart, okRow, okPage, decide_eq_true_eq, Bool.and_eq_true] at hw
  unfold execFullerPass
  exact unitRun_runs _ _ _ _ _ hw

theorem execReduction_runs (p : Nat) (ups : List FulUps) (s : State) (hw : (okTile p) = true) : Runs (execReduction p ups s) := by
  simp only [okTile, okPort, okStack, okPart, okRow, okPage, decide_eq_true_eq, Bool.and_eq_true] at hw
  unfold execReduction
  exact unitRun_runs _ _ _ _ _ hw

theorem execReductionResultWrite_runs (p : Nat) (s : State) (hw : (okTile p) = true) : Runs (execReductionResultWrite p s) := by
  simp only [okTile, okPort, okStack, okPart, okRow, okPage, decide_eq_true_eq, Bool.and_eq_true] at hw
  unfold execReductionResultWrite
  repeat' first
    | exact runs_next _
    | (with_reducible refine runs_ite _ _ _ (fun _ => ?_) (fun _ => ?_))
    | split
    | (simp only [])
    | exact absurd hw ‹_›
    | exact hw
    | (exfalso; simp_all [tileCount, stackCount, portCount, rowCountAll]; done)
    | (exfalso; simp_all [tileCount, stackCount, portCount, rowCountAll]; omega)
    | (exfalso; omega)

theorem execMemoryWrite_runs (p : Nat) (s : State) (hw : (okTile p) = true) : Runs (execMemoryWrite p s) := by
  simp only [okTile, okPort, okStack, okPart, okRow, okPage, decide_eq_true_eq, Bool.and_eq_true] at hw
  unfold execMemoryWrite
  exact dmaRun_runs _ _ _ _ _ hw

theorem execMemoryRead_runs (p : Nat) (s : State) (hw : (okTile p) = true) : Runs (execMemoryRead p s) := by
  simp only [okTile, okPort, okStack, okPart, okRow, okPage, decide_eq_true_eq, Bool.and_eq_true] at hw
  unfold execMemoryRead
  exact dmaRun_runs _ _ _ _ _ hw

theorem execStoreWrite_runs (p : Nat) (s : State) (hw : (okTile p) = true) : Runs (execStoreWrite p s) := by
  simp only [okTile, okPort, okStack, okPart, okRow, okPage, decide_eq_true_eq, Bool.and_eq_true] at hw
  unfold execStoreWrite
  exact dmaRun_runs _ _ _ _ _ hw

theorem execMillPost_runs (p : Nat) (s : State) (hw : (okTile p) = true) : Runs (execMillPost p s) := by
  simp only [okTile, okPort, okStack, okPart, okRow, okPage, decide_eq_true_eq, Bool.and_eq_true] at hw
  unfold execMillPost
  exact dmaRun_runs _ _ _ _ _ hw

theorem execLinkSend_runs (p : Nat) (s : State) (hw : (okTile p) = true) : Runs (execLinkSend p s) := by
  simp only [okTile, okPort, okStack, okPart, okRow, okPage, decide_eq_true_eq, Bool.and_eq_true] at hw
  unfold execLinkSend
  exact dmaRun_runs _ _ _ _ _ hw

theorem execBorrowCopy_runs (p : Nat) (s : State) (hw : (okTile p) = true) : Runs (execBorrowCopy p s) := by
  simp only [okTile, okPort, okStack, okPart, okRow, okPage, decide_eq_true_eq, Bool.and_eq_true] at hw
  unfold execBorrowCopy
  exact unitRun_runs _ _ _ _ _ hw

theorem execClerkWake_runs (p : Nat) (s : State) (hw : (okTile p) = true) : Runs (execClerkWake p s) := by
  simp only [okTile, okPort, okStack, okPart, okRow, okPage, decide_eq_true_eq, Bool.and_eq_true] at hw
  unfold execClerkWake
  exact unitRun_runs _ _ _ _ _ hw

theorem execChannelTokenSend_runs (p : Nat) (s : State) (hw : (okTile p) = true) : Runs (execChannelTokenSend p s) := by
  simp only [okTile, okPort, okStack, okPart, okRow, okPage, decide_eq_true_eq, Bool.and_eq_true] at hw
  unfold execChannelTokenSend
  exact unitRun_runs _ _ _ _ _ hw

theorem execBarrierArrive_runs (p : Nat) (s : State) (hw : (okTile p) = true) : Runs (execBarrierArrive p s) := by
  simp only [okTile, okPort, okStack, okPart, okRow, okPage, decide_eq_true_eq, Bool.and_eq_true] at hw
  unfold execBarrierArrive
  exact unitRun_runs _ _ _ _ _ hw

theorem execFlagRaise_runs (p : Nat) (s : State) (hw : (okTile p) = true) : Runs (execFlagRaise p s) := by
  simp only [okTile, okPort, okStack, okPart, okRow, okPage, decide_eq_true_eq, Bool.and_eq_true] at hw
  unfold execFlagRaise
  exact unitRun_runs _ _ _ _ _ hw

theorem execFabricInWrite_runs (p : Nat) (s : State) (hw : (okTile p) = true) : Runs (execFabricInWrite p s) := by
  simp only [okTile, okPort, okStack, okPart, okRow, okPage, decide_eq_true_eq, Bool.and_eq_true] at hw
  unfold execFabricInWrite
  repeat' first
    | exact runs_next _
    | (with_reducible refine runs_ite _ _ _ (fun _ => ?_) (fun _ => ?_))
    | split
    | (simp only [])
    | exact absurd hw ‹_›
    | exact hw
    | (exfalso; simp_all [tileCount, stackCount, portCount, rowCountAll]; done)
    | (exfalso; simp_all [tileCount, stackCount, portCount, rowCountAll]; omega)
    | (exfalso; omega)

theorem execFabricOutSend_runs (p : Nat) (ups : List (Nat × Nat)) (s0 : State) (hw : (okTile p) = true) : Runs (execFabricOutSend p ups s0) := by
  simp only [okTile, okPort, okStack, okPart, okRow, okPage, decide_eq_true_eq, Bool.and_eq_true] at hw
  unfold execFabricOutSend
  repeat' first
    | exact runs_next _
    | (with_reducible refine runs_ite _ _ _ (fun _ => ?_) (fun _ => ?_))
    | split
    | (simp only [])
    | exact absurd hw ‹_›
    | exact hw
    | (exfalso; simp_all [tileCount, stackCount, portCount, rowCountAll]; done)
    | (exfalso; simp_all [tileCount, stackCount, portCount, rowCountAll]; omega)
    | (exfalso; omega)

theorem execGatherBufferDrain_runs (p : Nat) (s : State) (hw : (okTile p) = true) : Runs (execGatherBufferDrain p s) := by
  simp only [okTile, okPort, okStack, okPart, okRow, okPage, decide_eq_true_eq, Bool.and_eq_true] at hw
  unfold execGatherBufferDrain
  repeat' first
    | exact runs_next _
    | (with_reducible refine runs_ite _ _ _ (fun _ => ?_) (fun _ => ?_))
    | split
    | (simp only [])
    | exact absurd hw ‹_›
    | exact hw
    | (exfalso; simp_all [tileCount, stackCount, portCount, rowCountAll]; done)
    | (exfalso; simp_all [tileCount, stackCount, portCount, rowCountAll]; omega)
    | (exfalso; omega)

theorem execEccWriteBack_runs (p : Nat) (s : State) (hw : (okTile p) = true) : Runs (execEccWriteBack p s) := by
  simp only [okTile, okPort, okStack, okPart, okRow, okPage, decide_eq_true_eq, Bool.and_eq_true] at hw
  unfold execEccWriteBack
  repeat' first
    | exact runs_next _
    | (with_reducible refine runs_ite _ _ _ (fun _ => ?_) (fun _ => ?_))
    | split
    | (simp only [])
    | exact absurd hw ‹_›
    | exact hw
    | (exfalso; simp_all [tileCount, stackCount, portCount, rowCountAll]; done)
    | (exfalso; simp_all [tileCount, stackCount, portCount, rowCountAll]; omega)
    | (exfalso; omega)

theorem execClerkInstruction_runs (p : Nat) (ups : List (Nat × Nat)) (s : State) (hw : (okTile p) = true) : Runs (execClerkInstruction p ups s) := by
  simp only [okTile, okPort, okStack, okPart, okRow, okPage, decide_eq_true_eq, Bool.and_eq_true] at hw
  unfold execClerkInstruction
  repeat' first
    | exact runs_next _
    | (with_reducible refine runs_ite _ _ _ (fun _ => ?_) (fun _ => ?_))
    | split
    | (simp only [])
    | exact absurd hw ‹_›
    | exact hw
    | (exfalso; simp_all [tileCount, stackCount, portCount, rowCountAll]; done)
    | (exfalso; simp_all [tileCount, stackCount, portCount, rowCountAll]; omega)
    | (exfalso; omega)

theorem execClerkLoad_runs (p : Nat) (ups : List (Nat × Nat)) (s : State) (hw : (okTile p) = true) : Runs (execClerkLoad p ups s) := by
  simp only [okTile, okPort, okStack, okPart, okRow, okPage, decide_eq_true_eq, Bool.and_eq_true] at hw
  unfold execClerkLoad
  repeat' first
    | exact runs_next _
    | (with_reducible refine runs_ite _ _ _ (fun _ => ?_) (fun _ => ?_))
    | split
    | (simp only [])
    | exact absurd hw ‹_›
    | exact hw
    | (exfalso; simp_all [tileCount, stackCount, portCount, rowCountAll]; done)
    | (exfalso; simp_all [tileCount, stackCount, portCount, rowCountAll]; omega)
    | (exfalso; omega)

theorem execClerkStore_runs (p : Nat) (s : State) (hw : (okTile p) = true) : Runs (execClerkStore p s) := by
  simp only [okTile, okPort, okStack, okPart, okRow, okPage, decide_eq_true_eq, Bool.and_eq_true] at hw
  unfold execClerkStore
  exact clerkRow_runs _ _ _ hw

theorem execXlRep_runs (p : Nat) (s : State) (hw : (okTile p) = true) : Runs (execXlRep p s) := by
  simp only [okTile, okPort, okStack, okPart, okRow, okPage, decide_eq_true_eq, Bool.and_eq_true] at hw
  unfold execXlRep
  exact clerkRow_runs _ _ _ hw

theorem execXlRepi_runs (p : Nat) (s : State) (hw : (okTile p) = true) : Runs (execXlRepi p s) := by
  simp only [okTile, okPort, okStack, okPart, okRow, okPage, decide_eq_true_eq, Bool.and_eq_true] at hw
  unfold execXlRepi
  exact clerkRow_runs _ _ _ hw

theorem execXlQuit_runs (p : Nat) (s : State) (hw : (okTile p) = true) : Runs (execXlQuit p s) := by
  simp only [okTile, okPort, okStack, okPart, okRow, okPage, decide_eq_true_eq, Bool.and_eq_true] at hw
  unfold execXlQuit
  exact clerkRow_runs _ _ _ hw

theorem execBellWait_runs (p : Nat) (s : State) (hw : (okTile p) = true) : Runs (execBellWait p s) := by
  simp only [okTile, okPort, okStack, okPart, okRow, okPage, decide_eq_true_eq, Bool.and_eq_true] at hw
  unfold execBellWait
  exact clerkRow_runs _ _ _ hw

theorem execLrW_runs (p : Nat) (s : State) (hw : (okTile p) = true) : Runs (execLrW p s) := by
  simp only [okTile, okPort, okStack, okPart, okRow, okPage, decide_eq_true_eq, Bool.and_eq_true] at hw
  unfold execLrW
  exact clerkRow_runs _ _ _ hw

theorem execScW_runs (p : Nat) (s : State) (hw : (okTile p) = true) : Runs (execScW p s) := by
  simp only [okTile, okPort, okStack, okPart, okRow, okPage, decide_eq_true_eq, Bool.and_eq_true] at hw
  unfold execScW
  exact clerkRow_runs _ _ _ hw

theorem execFence_runs (p : Nat) (s : State) (hw : (okTile p) = true) : Runs (execFence p s) := by
  simp only [okTile, okPort, okStack, okPart, okRow, okPage, decide_eq_true_eq, Bool.and_eq_true] at hw
  unfold execFence
  exact clerkRow_runs _ _ _ hw

theorem execFenceI_runs (p : Nat) (s : State) (hw : (okTile p) = true) : Runs (execFenceI p s) := by
  simp only [okTile, okPort, okStack, okPart, okRow, okPage, decide_eq_true_eq, Bool.and_eq_true] at hw
  unfold execFenceI
  exact clerkRow_runs _ _ _ hw

theorem execWfi_runs (p : Nat) (s : State) (hw : (okTile p) = true) : Runs (execWfi p s) := by
  simp only [okTile, okPort, okStack, okPart, okRow, okPage, decide_eq_true_eq, Bool.and_eq_true] at hw
  unfold execWfi
  exact clerkRow_runs _ _ _ hw

theorem execMret_runs (p : Nat) (s : State) (hw : (okTile p) = true) : Runs (execMret p s) := by
  simp only [okTile, okPort, okStack, okPart, okRow, okPage, decide_eq_true_eq, Bool.and_eq_true] at hw
  unfold execMret
  exact clerkRow_runs _ _ _ hw

theorem execTrapEntry_runs (p : Nat) (ups : List (Nat × Nat)) (s : State) (hw : (okTile p) = true) : Runs (execTrapEntry p ups s) := by
  simp only [okTile, okPort, okStack, okPart, okRow, okPage, decide_eq_true_eq, Bool.and_eq_true] at hw
  unfold execTrapEntry
  repeat' first
    | exact runs_next _
    | (with_reducible refine runs_ite _ _ _ (fun _ => ?_) (fun _ => ?_))
    | split
    | (simp only [])
    | exact absurd hw ‹_›
    | exact hw
    | (exfalso; simp_all [tileCount, stackCount, portCount, rowCountAll]; done)
    | (exfalso; simp_all [tileCount, stackCount, portCount, rowCountAll]; omega)
    | (exfalso; omega)

theorem execQpopRead_runs (p : Nat) (s : State) (hw : (okTile p) = true) : Runs (execQpopRead p s) := by
  simp only [okTile, okPort, okStack, okPart, okRow, okPage, decide_eq_true_eq, Bool.and_eq_true] at hw
  unfold execQpopRead
  exact clerkRow_runs _ _ _ hw

theorem execQwRead_runs (p : Nat) (s : State) (hw : (okTile p) = true) : Runs (execQwRead p s) := by
  simp only [okTile, okPort, okStack, okPart, okRow, okPage, decide_eq_true_eq, Bool.and_eq_true] at hw
  unfold execQwRead
  exact clerkRow_runs _ _ _ hw

theorem execQsendWrite_runs (p : Nat) (s : State) (hw : (okTile p) = true) : Runs (execQsendWrite p s) := by
  simp only [okTile, okPort, okStack, okPart, okRow, okPage, decide_eq_true_eq, Bool.and_eq_true] at hw
  unfold execQsendWrite
  exact clerkRow_runs _ _ _ hw

theorem execImFillWrite_runs (p : Nat) (s : State) (hw : (okTile p) = true) : Runs (execImFillWrite p s) := by
  simp only [okTile, okPort, okStack, okPart, okRow, okPage, decide_eq_true_eq, Bool.and_eq_true] at hw
  unfold execImFillWrite
  exact clerkRow_runs _ _ _ hw

theorem execSeqFlagsSet_runs (p : Nat) (s : State) (hw : (okTile p) = true) : Runs (execSeqFlagsSet p s) := by
  simp only [okTile, okPort, okStack, okPart, okRow, okPage, decide_eq_true_eq, Bool.and_eq_true] at hw
  unfold execSeqFlagsSet
  exact clerkRow_runs _ _ _ hw

theorem execBellHoldWrite_runs (p : Nat) (s : State) (hw : (okTile p) = true) : Runs (execBellHoldWrite p s) := by
  simp only [okTile, okPort, okStack, okPart, okRow, okPage, decide_eq_true_eq, Bool.and_eq_true] at hw
  unfold execBellHoldWrite
  exact clerkRow_runs _ _ _ hw

theorem execClkStatusClear_runs (p : Nat) (s : State) (hw : (okTile p) = true) : Runs (execClkStatusClear p s) := by
  simp only [okTile, okPort, okStack, okPart, okRow, okPage, decide_eq_true_eq, Bool.and_eq_true] at hw
  unfold execClkStatusClear
  exact clerkRow_runs _ _ _ hw

theorem execClkFailWrite_runs (p : Nat) (s : State) (hw : (okTile p) = true) : Runs (execClkFailWrite p s) := by
  simp only [okTile, okPort, okStack, okPart, okRow, okPage, decide_eq_true_eq, Bool.and_eq_true] at hw
  unfold execClkFailWrite
  exact clerkRow_runs _ _ _ hw

theorem execAmaxReadClear_runs (p : Nat) (s : State) (hw : (okTile p) = true) : Runs (execAmaxReadClear p s) := by
  simp only [okTile, okPort, okStack, okPart, okRow, okPage, decide_eq_true_eq, Bool.and_eq_true] at hw
  unfold execAmaxReadClear
  exact clerkRow_runs _ _ _ hw

theorem execCounterReadClear_runs (p : Nat) (s : State) (hw : (okTile p) = true) : Runs (execCounterReadClear p s) := by
  simp only [okTile, okPort, okStack, okPart, okRow, okPage, decide_eq_true_eq, Bool.and_eq_true] at hw
  unfold execCounterReadClear
  exact clerkRow_runs _ _ _ hw

theorem execCsrWrite_runs (p : Nat) (s : State) (hw : (okTile p) = true) : Runs (execCsrWrite p s) := by
  simp only [okTile, okPort, okStack, okPart, okRow, okPage, decide_eq_true_eq, Bool.and_eq_true] at hw
  unfold execCsrWrite
  exact clerkRow_runs _ _ _ hw

theorem execRouterHop_runs (p : Nat) (o : Nat) (corr : Nat) (bad : Nat) (s : State) (hw : (okTile p) = true) : Runs (execRouterHop p o corr bad s) := by
  simp only [okTile, okPort, okStack, okPart, okRow, okPage, decide_eq_true_eq, Bool.and_eq_true] at hw
  unfold execRouterHop
  repeat' first
    | exact runs_next _
    | (with_reducible refine runs_ite _ _ _ (fun _ => ?_) (fun _ => ?_))
    | split
    | (simp only [])
    | exact absurd hw ‹_›
    | exact hw
    | (exfalso; simp_all [tileCount, stackCount, portCount, rowCountAll]; done)
    | (exfalso; simp_all [tileCount, stackCount, portCount, rowCountAll]; omega)
    | (exfalso; omega)

theorem execChannelEntryDelivery_runs (p : Nat) (s : State) (hw : (okTile p) = true) : Runs (execChannelEntryDelivery p s) := by
  simp only [okTile, okPort, okStack, okPart, okRow, okPage, decide_eq_true_eq, Bool.and_eq_true] at hw
  unfold execChannelEntryDelivery
  exact sinkRun_runs _ _ _ _ hw

theorem execCreditReturnDelivery_runs (p : Nat) (s : State) (hw : (okTile p) = true) : Runs (execCreditReturnDelivery p s) := by
  simp only [okTile, okPort, okStack, okPart, okRow, okPage, decide_eq_true_eq, Bool.and_eq_true] at hw
  unfold execCreditReturnDelivery
  exact sinkRun_runs _ _ _ _ hw

theorem execBarrierArriveCombine_runs (p : Nat) (input : Nat) (s : State) (hw : (okTile p) = true) : Runs (execBarrierArriveCombine p input s) := by
  simp only [okTile, okPort, okStack, okPart, okRow, okPage, decide_eq_true_eq, Bool.and_eq_true] at hw
  unfold execBarrierArriveCombine
  exact combineRun_runs _ _ _ _ _ hw

theorem execFlagRaiseCombine_runs (p : Nat) (input : Nat) (s : State) (hw : (okTile p) = true) : Runs (execFlagRaiseCombine p input s) := by
  simp only [okTile, okPort, okStack, okPart, okRow, okPage, decide_eq_true_eq, Bool.and_eq_true] at hw
  unfold execFlagRaiseCombine
  exact combineRun_runs _ _ _ _ _ hw

theorem execBarrierReleaseDelivery_runs (p : Nat) (s : State) (hw : (okTile p) = true) : Runs (execBarrierReleaseDelivery p s) := by
  simp only [okTile, okPort, okStack, okPart, okRow, okPage, decide_eq_true_eq, Bool.and_eq_true] at hw
  unfold execBarrierReleaseDelivery
  exact sinkRun_runs _ _ _ _ hw

theorem execFlagBroadcastDelivery_runs (p : Nat) (s : State) (hw : (okTile p) = true) : Runs (execFlagBroadcastDelivery p s) := by
  simp only [okTile, okPort, okStack, okPart, okRow, okPage, decide_eq_true_eq, Bool.and_eq_true] at hw
  unfold execFlagBroadcastDelivery
  exact sinkRun_runs _ _ _ _ hw

theorem execWriteCompletionDelivery_runs (p : Nat) (s : State) (hw : (okTile p) = true) : Runs (execWriteCompletionDelivery p s) := by
  simp only [okTile, okPort, okStack, okPart, okRow, okPage, decide_eq_true_eq, Bool.and_eq_true] at hw
  unfold execWriteCompletionDelivery
  exact sinkRun_runs _ _ _ _ hw

theorem execRtSelWrite_runs (p : Nat) (s : State) (hw : (okTile p) = true) : Runs (execRtSelWrite p s) := by
  simp only [okTile, okPort, okStack, okPart, okRow, okPage, decide_eq_true_eq, Bool.and_eq_true] at hw
  unfold execRtSelWrite
  exact clerkRow_runs _ _ _ hw

theorem execStackReadRequest_runs (k : Nat) (corr : Nat) (bad : List Nat) (s0 : State) (hw : (okStack k) = true) : Runs (execStackReadRequest k corr bad s0) := by
  simp only [okTile, okPort, okStack, okPart, okRow, okPage, decide_eq_true_eq, Bool.and_eq_true] at hw
  unfold execStackReadRequest
  exact classRun_runs _ _ _ _ _ _ _ hw

theorem execStackMemoryWrite_runs (k : Nat) (s : State) (hw : (okStack k) = true) : Runs (execStackMemoryWrite k s) := by
  simp only [okTile, okPort, okStack, okPart, okRow, okPage, decide_eq_true_eq, Bool.and_eq_true] at hw
  unfold execStackMemoryWrite
  exact classRun_runs _ _ _ _ _ _ _ hw

theorem execStackRemoteRequest_runs (k : Nat) (s : State) (hw : (okStack k) = true) : Runs (execStackRemoteRequest k s) := by
  simp only [okTile, okPort, okStack, okPart, okRow, okPage, decide_eq_true_eq, Bool.and_eq_true] at hw
  unfold execStackRemoteRequest
  repeat' first
    | exact runs_next _
    | (with_reducible refine runs_ite _ _ _ (fun _ => ?_) (fun _ => ?_))
    | split
    | (simp only [])
    | exact absurd hw ‹_›
    | exact hw
    | (exfalso; simp_all [tileCount, stackCount, portCount, rowCountAll]; done)
    | (exfalso; simp_all [tileCount, stackCount, portCount, rowCountAll]; omega)
    | (exfalso; omega)

theorem execMergeWindowClose_runs (k corr : Nat) (s : State) (hw : (okStack k) = true) : Runs (execMergeWindowClose k corr s) := by
  simp only [okTile, okPort, okStack, okPart, okRow, okPage, decide_eq_true_eq, Bool.and_eq_true] at hw
  unfold execMergeWindowClose
  repeat' first
    | exact runs_next _
    | (with_reducible refine runs_ite _ _ _ (fun _ => ?_) (fun _ => ?_))
    | split
    | (simp only [])
    | exact absurd hw ‹_›
    | exact hw
    | (exfalso; simp_all [tileCount, stackCount, portCount, rowCountAll]; done)
    | (exfalso; simp_all [tileCount, stackCount, portCount, rowCountAll]; omega)
    | (exfalso; omega)

theorem execMillPostReceive_runs (k : Nat) (s : State) (hw : (okStack k) = true) : Runs (execMillPostReceive k s) := by
  simp only [okTile, okPort, okStack, okPart, okRow, okPage, decide_eq_true_eq, Bool.and_eq_true] at hw
  unfold execMillPostReceive
  exact classRun_runs _ _ _ _ _ _ _ hw

theorem execMillDescriptorTake_runs (k : Nat) (n : Nat) (s : State) (hw : (okStack k && okPart n) = true) : Runs (execMillDescriptorTake k n s) := by
  simp only [okTile, okPort, okStack, okPart, okRow, okPage, decide_eq_true_eq, Bool.and_eq_true] at hw
  unfold execMillDescriptorTake
  repeat' first
    | exact runs_next _
    | (with_reducible refine runs_ite _ _ _ (fun _ => ?_) (fun _ => ?_))
    | split
    | (simp only [])
    | exact absurd hw ‹_›
    | exact hw
    | (exfalso; simp_all [tileCount, stackCount, portCount, rowCountAll]; done)
    | (exfalso; simp_all [tileCount, stackCount, portCount, rowCountAll]; omega)
    | (exfalso; omega)

theorem execMillSgd_runs (k : Nat) (n : Nat) (res : Bool) (bad : List (Nat × Nat)) (s : State) (hw : (okStack k && okPart n) = true) : Runs (execMillSgd k n res bad s) := by
  simp only [okTile, okPort, okStack, okPart, okRow, okPage, decide_eq_true_eq, Bool.and_eq_true] at hw
  unfold execMillSgd
  exact millRun_runs _ _ _ _ _ _ hw

theorem execMillAdam_runs (k : Nat) (n : Nat) (res : Bool) (bad : List (Nat × Nat)) (s : State) (hw : (okStack k && okPart n) = true) : Runs (execMillAdam k n res bad s) := by
  simp only [okTile, okPort, okStack, okPart, okRow, okPage, decide_eq_true_eq, Bool.and_eq_true] at hw
  unfold execMillAdam
  exact millRun_runs _ _ _ _ _ _ hw

theorem execMillLion_runs (k : Nat) (n : Nat) (res : Bool) (bad : List (Nat × Nat)) (s : State) (hw : (okStack k && okPart n) = true) : Runs (execMillLion k n res bad s) := by
  simp only [okTile, okPort, okStack, okPart, okRow, okPage, decide_eq_true_eq, Bool.and_eq_true] at hw
  unfold execMillLion
  exact millRun_runs _ _ _ _ _ _ hw

theorem execMillOrderedReduction_runs (k : Nat) (n : Nat) (res : Bool) (bad : List (Nat × Nat)) (s : State) (hw : (okStack k && okPart n) = true) : Runs (execMillOrderedReduction k n res bad s) := by
  simp only [okTile, okPort, okStack, okPart, okRow, okPage, decide_eq_true_eq, Bool.and_eq_true] at hw
  unfold execMillOrderedReduction
  repeat' first
    | exact runs_next _
    | (with_reducible refine runs_ite _ _ _ (fun _ => ?_) (fun _ => ?_))
    | split
    | (simp only [])
    | exact absurd hw ‹_›
    | exact hw
    | (exfalso; simp_all [tileCount, stackCount, portCount, rowCountAll]; done)
    | (exfalso; simp_all [tileCount, stackCount, portCount, rowCountAll]; omega)
    | (exfalso; omega)

theorem execReductionSlotArrival_runs (k : Nat) (res : Bool) (bad : List (Nat × Nat)) (s : State) (hw : (okStack k) = true) : Runs (execReductionSlotArrival k res bad s) := by
  simp only [okTile, okPort, okStack, okPart, okRow, okPage, decide_eq_true_eq, Bool.and_eq_true] at hw
  unfold execReductionSlotArrival
  repeat' first
    | exact runs_next _
    | (with_reducible refine runs_ite _ _ _ (fun _ => ?_) (fun _ => ?_))
    | split
    | (simp only [])
    | exact absurd hw ‹_›
    | exact hw
    | (exfalso; simp_all [tileCount, stackCount, portCount, rowCountAll]; done)
    | (exfalso; simp_all [tileCount, stackCount, portCount, rowCountAll]; omega)
    | (exfalso; omega)

theorem execMillGatherRows_runs (k : Nat) (n : Nat) (res : Bool) (bad : List (Nat × Nat)) (s : State) (hw : (okStack k && okPart n) = true) : Runs (execMillGatherRows k n res bad s) := by
  simp only [okTile, okPort, okStack, okPart, okRow, okPage, decide_eq_true_eq, Bool.and_eq_true] at hw
  unfold execMillGatherRows
  exact millRun_runs _ _ _ _ _ _ hw

theorem execMillScatterAdd_runs (k : Nat) (n : Nat) (res : Bool) (bad : List (Nat × Nat)) (s : State) (hw : (okStack k && okPart n) = true) : Runs (execMillScatterAdd k n res bad s) := by
  simp only [okTile, okPort, okStack, okPart, okRow, okPage, decide_eq_true_eq, Bool.and_eq_true] at hw
  unfold execMillScatterAdd
  exact millRun_runs _ _ _ _ _ _ hw

theorem execMillCopyConvert_runs (k : Nat) (n : Nat) (bad : List (Nat × Nat)) (s : State) (hw : (okStack k && okPart n) = true) : Runs (execMillCopyConvert k n bad s) := by
  simp only [okTile, okPort, okStack, okPart, okRow, okPage, decide_eq_true_eq, Bool.and_eq_true] at hw
  unfold execMillCopyConvert
  exact millRun_runs _ _ _ _ _ _ hw

theorem execMillFill_runs (k : Nat) (n : Nat) (bad : List (Nat × Nat)) (s : State) (hw : (okStack k && okPart n) = true) : Runs (execMillFill k n bad s) := by
  simp only [okTile, okPort, okStack, okPart, okRow, okPage, decide_eq_true_eq, Bool.and_eq_true] at hw
  unfold execMillFill
  exact millRun_runs _ _ _ _ _ _ hw

theorem execDramRefresh_runs (k : Nat) (s : State) (hw : (okStack k) = true) : Runs (execDramRefresh k s) := by
  simp only [okTile, okPort, okStack, okPart, okRow, okPage, decide_eq_true_eq, Bool.and_eq_true] at hw
  unfold execDramRefresh
  repeat' first
    | exact runs_next _
    | (with_reducible refine runs_ite _ _ _ (fun _ => ?_) (fun _ => ?_))
    | split
    | (simp only [])
    | exact absurd hw ‹_›
    | exact hw
    | (exfalso; simp_all [tileCount, stackCount, portCount, rowCountAll]; done)
    | (exfalso; simp_all [tileCount, stackCount, portCount, rowCountAll]; omega)
    | (exfalso; omega)

theorem execPatrolScrub_runs (k : Nat) (corr : List Nat) (bad : List Nat) (s : State) (hw : (okStack k) = true) : Runs (execPatrolScrub k corr bad s) := by
  simp only [okTile, okPort, okStack, okPart, okRow, okPage, decide_eq_true_eq, Bool.and_eq_true] at hw
  unfold execPatrolScrub
  repeat' first
    | exact runs_next _
    | (with_reducible refine runs_ite _ _ _ (fun _ => ?_) (fun _ => ?_))
    | split
    | (simp only [])
    | exact absurd hw ‹_›
    | exact hw
    | (exfalso; simp_all [tileCount, stackCount, portCount, rowCountAll]; done)
    | (exfalso; simp_all [tileCount, stackCount, portCount, rowCountAll]; omega)
    | (exfalso; omega)

theorem execInterleaveImbalance_runs (k : Nat) (s : State) (hw : (okStack k) = true) : Runs (execInterleaveImbalance k s) := by
  simp only [okTile, okPort, okStack, okPart, okRow, okPage, decide_eq_true_eq, Bool.and_eq_true] at hw
  unfold execInterleaveImbalance
  repeat' first
    | exact runs_next _
    | (with_reducible refine runs_ite _ _ _ (fun _ => ?_) (fun _ => ?_))
    | split
    | (simp only [])
    | exact absurd hw ‹_›
    | exact hw
    | (exfalso; simp_all [tileCount, stackCount, portCount, rowCountAll]; done)
    | (exfalso; simp_all [tileCount, stackCount, portCount, rowCountAll]; omega)
    | (exfalso; omega)

theorem execUcieModuleFence_runs (k : Nat) (m : Nat) (s : State) (hw : (okStack k && m < 8) = true) : Runs (execUcieModuleFence k m s) := by
  simp only [okTile, okPort, okStack, okPart, okRow, okPage, decide_eq_true_eq, Bool.and_eq_true] at hw
  unfold execUcieModuleFence
  repeat' first
    | exact runs_next _
    | (with_reducible refine runs_ite _ _ _ (fun _ => ?_) (fun _ => ?_))
    | split
    | (simp only [])
    | exact absurd hw ‹_›
    | exact hw
    | (exfalso; simp_all [tileCount, stackCount, portCount, rowCountAll]; done)
    | (exfalso; simp_all [tileCount, stackCount, portCount, rowCountAll]; omega)
    | (exfalso; omega)

theorem execPortSignalDetect_runs (p : Nat) (lanes : Nat) (s : State) (hw : (okPort p && lanes < 16) = true) : Runs (execPortSignalDetect p lanes s) := by
  simp only [okTile, okPort, okStack, okPart, okRow, okPage, decide_eq_true_eq, Bool.and_eq_true] at hw
  unfold execPortSignalDetect
  repeat' first
    | exact runs_next _
    | (with_reducible refine runs_ite _ _ _ (fun _ => ?_) (fun _ => ?_))
    | split
    | (simp only [])
    | exact absurd hw ‹_›
    | exact hw
    | (exfalso; simp_all [tileCount, stackCount, portCount, rowCountAll]; done)
    | (exfalso; simp_all [tileCount, stackCount, portCount, rowCountAll]; omega)
    | (exfalso; omega)

theorem execLaneTrainTimeout_runs (p : Nat) (lane : Nat) (s : State) (hw : (okPort p && lane < 4) = true) : Runs (execLaneTrainTimeout p lane s) := by
  simp only [okTile, okPort, okStack, okPart, okRow, okPage, decide_eq_true_eq, Bool.and_eq_true] at hw
  unfold execLaneTrainTimeout
  repeat' first
    | exact runs_next _
    | (with_reducible refine runs_ite _ _ _ (fun _ => ?_) (fun _ => ?_))
    | split
    | (simp only [])
    | exact absurd hw ‹_›
    | exact hw
    | (exfalso; simp_all [tileCount, stackCount, portCount, rowCountAll]; done)
    | (exfalso; simp_all [tileCount, stackCount, portCount, rowCountAll]; omega)
    | (exfalso; omega)

theorem execPortTrainingComplete_runs (p : Nat) (peerMod : Nat) (peerPort : Nat) (lat : Nat) (map : List (Nat × Bool)) (ls : List Byte) (s : State) (hw : (okPort p) = true) : Runs (execPortTrainingComplete p peerMod peerPort lat map ls s) := by
  simp only [okTile, okPort, okStack, okPart, okRow, okPage, decide_eq_true_eq, Bool.and_eq_true] at hw
  unfold execPortTrainingComplete
  repeat' first
    | exact runs_next _
    | (with_reducible refine runs_ite _ _ _ (fun _ => ?_) (fun _ => ?_))
    | split
    | (simp only [])
    | exact absurd hw ‹_›
    | exact hw
    | (exfalso; simp_all [tileCount, stackCount, portCount, rowCountAll]; done)
    | (exfalso; simp_all [tileCount, stackCount, portCount, rowCountAll]; omega)
    | (exfalso; omega)

theorem execLaneQualified_runs (p : Nat) (lane : Nat) (cbits : Nat) (uncorr : Nat) (secs : Nat) (ratio : Nat) (s : State) (hw : (okPort p && lane < 4) = true) : Runs (execLaneQualified p lane cbits uncorr secs ratio s) := by
  simp only [okTile, okPort, okStack, okPart, okRow, okPage, decide_eq_true_eq, Bool.and_eq_true] at hw
  unfold execLaneQualified
  repeat' first
    | exact runs_next _
    | (with_reducible refine runs_ite _ _ _ (fun _ => ?_) (fun _ => ?_))
    | split
    | (simp only [])
    | exact absurd hw ‹_›
    | exact hw
    | (exfalso; simp_all [tileCount, stackCount, portCount, rowCountAll]; done)
    | (exfalso; simp_all [tileCount, stackCount, portCount, rowCountAll]; omega)
    | (exfalso; omega)

theorem execPortErrorRatioExit_runs (p : Nat) (lane : Nat) (s : State) (hw : (okPort p && lane < 4) = true) : Runs (execPortErrorRatioExit p lane s) := by
  simp only [okTile, okPort, okStack, okPart, okRow, okPage, decide_eq_true_eq, Bool.and_eq_true] at hw
  unfold execPortErrorRatioExit
  repeat' first
    | exact runs_next _
    | (with_reducible refine runs_ite _ _ _ (fun _ => ?_) (fun _ => ?_))
    | split
    | (simp only [])
    | exact absurd hw ‹_›
    | exact hw
    | (exfalso; simp_all [tileCount, stackCount, portCount, rowCountAll]; done)
    | (exfalso; simp_all [tileCount, stackCount, portCount, rowCountAll]; omega)
    | (exfalso; omega)

theorem execLossOfSignal_runs (p : Nat) (lane : Nat) (s : State) (hw : (okPort p && lane < 4) = true) : Runs (execLossOfSignal p lane s) := by
  simp only [okTile, okPort, okStack, okPart, okRow, okPage, decide_eq_true_eq, Bool.and_eq_true] at hw
  unfold execLossOfSignal
  repeat' first
    | exact runs_next _
    | (with_reducible refine runs_ite _ _ _ (fun _ => ?_) (fun _ => ?_))
    | split
    | (simp only [])
    | exact absurd hw ‹_›
    | exact hw
    | (exfalso; simp_all [tileCount, stackCount, portCount, rowCountAll]; done)
    | (exfalso; simp_all [tileCount, stackCount, portCount, rowCountAll]; omega)
    | (exfalso; omega)

theorem execLaserMonitorSample_runs (inputs : List Nat) (lanes : List (Nat × Nat × Nat)) (s : State) : Runs (execLaserMonitorSample inputs lanes s) := by
  have hw := True.intro
  unfold execLaserMonitorSample
  repeat' first
    | exact runs_next _
    | (with_reducible refine runs_ite _ _ _ (fun _ => ?_) (fun _ => ?_))
    | split
    | (simp only [])
    | exact absurd hw ‹_›
    | exact hw
    | (exfalso; simp_all [tileCount, stackCount, portCount, rowCountAll]; done)
    | (exfalso; simp_all [tileCount, stackCount, portCount, rowCountAll]; omega)
    | (exfalso; omega)

theorem execLightRestored_runs (j : Nat) (s : State) (hw : (j < 4) = true) : Runs (execLightRestored j s) := by
  simp only [okTile, okPort, okStack, okPart, okRow, okPage, decide_eq_true_eq, Bool.and_eq_true] at hw
  unfold execLightRestored
  repeat' first
    | exact runs_next _
    | (with_reducible refine runs_ite _ _ _ (fun _ => ?_) (fun _ => ?_))
    | split
    | (simp only [])
    | exact absurd hw ‹_›
    | exact hw
    | (exfalso; simp_all [tileCount, stackCount, portCount, rowCountAll]; done)
    | (exfalso; simp_all [tileCount, stackCount, portCount, rowCountAll]; omega)
    | (exfalso; omega)

theorem execLkCtlRetrain_runs (p : Nat) (v : Nat) (s : State) (hw : (okPort p) = true) : Runs (execLkCtlRetrain p v s) := by
  simp only [okTile, okPort, okStack, okPart, okRow, okPage, decide_eq_true_eq, Bool.and_eq_true] at hw
  unfold execLkCtlRetrain
  repeat' first
    | exact runs_next _
    | (with_reducible refine runs_ite _ _ _ (fun _ => ?_) (fun _ => ?_))
    | split
    | (simp only [])
    | exact absurd hw ‹_›
    | exact hw
    | (exfalso; simp_all [tileCount, stackCount, portCount, rowCountAll]; done)
    | (exfalso; simp_all [tileCount, stackCount, portCount, rowCountAll]; omega)
    | (exfalso; omega)

theorem execLkCtlEnWrite_runs (p : Nat) (v : Nat) (s : State) (hw : (okPort p) = true) : Runs (execLkCtlEnWrite p v s) := by
  simp only [okTile, okPort, okStack, okPart, okRow, okPage, decide_eq_true_eq, Bool.and_eq_true] at hw
  unfold execLkCtlEnWrite
  repeat' first
    | exact runs_next _
    | (with_reducible refine runs_ite _ _ _ (fun _ => ?_) (fun _ => ?_))
    | split
    | (simp only [])
    | exact absurd hw ‹_›
    | exact hw
    | (exfalso; simp_all [tileCount, stackCount, portCount, rowCountAll]; done)
    | (exfalso; simp_all [tileCount, stackCount, portCount, rowCountAll]; omega)
    | (exfalso; omega)

theorem execLkPeerExpWrite_runs (p : Nat) (v : Nat) (s : State) (hw : (okPort p) = true) : Runs (execLkPeerExpWrite p v s) := by
  simp only [okTile, okPort, okStack, okPart, okRow, okPage, decide_eq_true_eq, Bool.and_eq_true] at hw
  unfold execLkPeerExpWrite
  repeat' first
    | exact runs_next _
    | (with_reducible refine runs_ite _ _ _ (fun _ => ?_) (fun _ => ?_))
    | split
    | (simp only [])
    | exact absurd hw ‹_›
    | exact hw
    | (exfalso; simp_all [tileCount, stackCount, portCount, rowCountAll]; done)
    | (exfalso; simp_all [tileCount, stackCount, portCount, rowCountAll]; omega)
    | (exfalso; omega)

theorem execFlitTransmit_runs (p : Nat) (s : State) (hw : (okPort p) = true) : Runs (execFlitTransmit p s) := by
  simp only [okTile, okPort, okStack, okPart, okRow, okPage, decide_eq_true_eq, Bool.and_eq_true] at hw
  unfold execFlitTransmit
  repeat' first
    | exact runs_next _
    | (with_reducible refine runs_ite _ _ _ (fun _ => ?_) (fun _ => ?_))
    | split
    | (simp only [])
    | exact absurd hw ‹_›
    | exact hw
    | (exfalso; simp_all [tileCount, stackCount, portCount, rowCountAll]; done)
    | (exfalso; simp_all [tileCount, stackCount, portCount, rowCountAll]; omega)
    | (exfalso; omega)

theorem execDataFlitReceive_runs (p : Nat) (fl : List Byte) (s : State) (hw : (okPort p) = true) : Runs (execDataFlitReceive p fl s) := by
  simp only [okTile, okPort, okStack, okPart, okRow, okPage, decide_eq_true_eq, Bool.and_eq_true] at hw
  unfold execDataFlitReceive
  exact flitRow_runs _ _ _ _ _ _ hw

theorem execRetryRequestReceive_runs (p : Nat) (fl : List Byte) (s : State) (hw : (okPort p) = true) : Runs (execRetryRequestReceive p fl s) := by
  simp only [okTile, okPort, okStack, okPart, okRow, okPage, decide_eq_true_eq, Bool.and_eq_true] at hw
  unfold execRetryRequestReceive
  exact flitRow_runs _ _ _ _ _ _ hw

theorem execRetryRequestRepeat_runs (p : Nat) (s : State) (hw : (okPort p) = true) : Runs (execRetryRequestRepeat p s) := by
  simp only [okTile, okPort, okStack, okPart, okRow, okPage, decide_eq_true_eq, Bool.and_eq_true] at hw
  unfold execRetryRequestRepeat
  repeat' first
    | exact runs_next _
    | (with_reducible refine runs_ite _ _ _ (fun _ => ?_) (fun _ => ?_))
    | split
    | (simp only [])
    | exact absurd hw ‹_›
    | exact hw
    | (exfalso; simp_all [tileCount, stackCount, portCount, rowCountAll]; done)
    | (exfalso; simp_all [tileCount, stackCount, portCount, rowCountAll]; omega)
    | (exfalso; omega)

theorem execRetryGiveUp_runs (p : Nat) (silent : Bool) (s : State) (hw : (okPort p) = true) : Runs (execRetryGiveUp p silent s) := by
  simp only [okTile, okPort, okStack, okPart, okRow, okPage, decide_eq_true_eq, Bool.and_eq_true] at hw
  unfold execRetryGiveUp
  repeat' first
    | exact runs_next _
    | (with_reducible refine runs_ite _ _ _ (fun _ => ?_) (fun _ => ?_))
    | split
    | (simp only [])
    | exact absurd hw ‹_›
    | exact hw
    | (exfalso; simp_all [tileCount, stackCount, portCount, rowCountAll]; done)
    | (exfalso; simp_all [tileCount, stackCount, portCount, rowCountAll]; omega)
    | (exfalso; omega)

theorem execProbeFlitReceive_runs (p : Nat) (fl : List Byte) (echo : Bool) (rtt : Nat) (turn : Nat) (s : State) (hw : (okPort p) = true) : Runs (execProbeFlitReceive p fl echo rtt turn s) := by
  simp only [okTile, okPort, okStack, okPart, okRow, okPage, decide_eq_true_eq, Bool.and_eq_true] at hw
  unfold execProbeFlitReceive
  exact flitRow_runs _ _ _ _ _ _ hw

theorem execBellFlitReceive_runs (p : Nat) (fl : List Byte) (arr : Nat) (s : State) (hw : (okPort p) = true) : Runs (execBellFlitReceive p fl arr s) := by
  simp only [okTile, okPort, okStack, okPart, okRow, okPage, decide_eq_true_eq, Bool.and_eq_true] at hw
  unfold execBellFlitReceive
  exact flitRow_runs _ _ _ _ _ _ hw

theorem execBellFlitLost_runs (p : Nat) (s : State) (hw : (okPort p) = true) : Runs (execBellFlitLost p s) := by
  simp only [okTile, okPort, okStack, okPart, okRow, okPage, decide_eq_true_eq, Bool.and_eq_true] at hw
  unfold execBellFlitLost
  repeat' first
    | exact runs_next _
    | (with_reducible refine runs_ite _ _ _ (fun _ => ?_) (fun _ => ?_))
    | split
    | (simp only [])
    | exact absurd hw ‹_›
    | exact hw
    | (exfalso; simp_all [tileCount, stackCount, portCount, rowCountAll]; done)
    | (exfalso; simp_all [tileCount, stackCount, portCount, rowCountAll]; omega)
    | (exfalso; omega)

theorem execLinkStateFlitReceive_runs (p : Nat) (fl : List Byte) (s : State) (hw : (okPort p) = true) : Runs (execLinkStateFlitReceive p fl s) := by
  simp only [okTile, okPort, okStack, okPart, okRow, okPage, decide_eq_true_eq, Bool.and_eq_true] at hw
  unfold execLinkStateFlitReceive
  exact flitRow_runs _ _ _ _ _ _ hw

theorem execSpineRouteLookup_runs (p : Nat) (inj : Bool) (s : State) (hw : (okPort p) = true) : Runs (execSpineRouteLookup p inj s) := by
  simp only [okTile, okPort, okStack, okPart, okRow, okPage, decide_eq_true_eq, Bool.and_eq_true] at hw
  unfold execSpineRouteLookup
  repeat' first
    | exact runs_next _
    | (with_reducible refine runs_ite _ _ _ (fun _ => ?_) (fun _ => ?_))
    | split
    | (simp only [])
    | exact absurd hw ‹_›
    | exact hw
    | (exfalso; simp_all [tileCount, stackCount, portCount, rowCountAll]; done)
    | (exfalso; simp_all [tileCount, stackCount, portCount, rowCountAll]; omega)
    | (exfalso; omega)

theorem execUndeliverableReportReceive_runs (p : Nat) (s : State) (hw : (okPort p) = true) : Runs (execUndeliverableReportReceive p s) := by
  simp only [okTile, okPort, okStack, okPart, okRow, okPage, decide_eq_true_eq, Bool.and_eq_true] at hw
  unfold execUndeliverableReportReceive
  repeat' first
    | exact runs_next _
    | (with_reducible refine runs_ite _ _ _ (fun _ => ?_) (fun _ => ?_))
    | split
    | (simp only [])
    | exact absurd hw ‹_›
    | exact hw
    | (exfalso; simp_all [tileCount, stackCount, portCount, rowCountAll]; done)
    | (exfalso; simp_all [tileCount, stackCount, portCount, rowCountAll]; omega)
    | (exfalso; omega)

theorem execLocalDelivery_runs (p : Nat) (s : State) (hw : (okPort p) = true) : Runs (execLocalDelivery p s) := by
  simp only [okTile, okPort, okStack, okPart, okRow, okPage, decide_eq_true_eq, Bool.and_eq_true] at hw
  unfold execLocalDelivery
  repeat' first
    | exact runs_next _
    | (with_reducible refine runs_ite _ _ _ (fun _ => ?_) (fun _ => ?_))
    | split
    | (simp only [])
    | exact absurd hw ‹_›
    | exact hw
    | (exfalso; simp_all [tileCount, stackCount, portCount, rowCountAll]; done)
    | (exfalso; simp_all [tileCount, stackCount, portCount, rowCountAll]; omega)
    | (exfalso; omega)

theorem execReeveMessageReceive_runs (p : Nat) (s : State) (hw : (okPort p) = true) : Runs (execReeveMessageReceive p s) := by
  simp only [okTile, okPort, okStack, okPart, okRow, okPage, decide_eq_true_eq, Bool.and_eq_true] at hw
  unfold execReeveMessageReceive
  repeat' first
    | exact runs_next _
    | (with_reducible refine runs_ite _ _ _ (fun _ => ?_) (fun _ => ?_))
    | split
    | (simp only [])
    | exact absurd hw ‹_›
    | exact hw
    | (exfalso; simp_all [tileCount, stackCount, portCount, rowCountAll]; done)
    | (exfalso; simp_all [tileCount, stackCount, portCount, rowCountAll]; omega)
    | (exfalso; omega)

theorem execClockSourceLoss_runs (s : State) : Runs (execClockSourceLoss s) := by
  have hw := True.intro
  unfold execClockSourceLoss
  repeat' first
    | exact runs_next _
    | (with_reducible refine runs_ite _ _ _ (fun _ => ?_) (fun _ => ?_))
    | split
    | (simp only [])
    | exact absurd hw ‹_›
    | exact hw
    | (exfalso; simp_all [tileCount, stackCount, portCount, rowCountAll]; done)
    | (exfalso; simp_all [tileCount, stackCount, portCount, rowCountAll]; omega)
    | (exfalso; omega)

theorem execClockSourceLost_runs (s : State) : Runs (execClockSourceLost s) := by
  have hw := True.intro
  unfold execClockSourceLost
  repeat' first
    | exact runs_next _
    | (with_reducible refine runs_ite _ _ _ (fun _ => ?_) (fun _ => ?_))
    | split
    | (simp only [])
    | exact absurd hw ‹_›
    | exact hw
    | (exfalso; simp_all [tileCount, stackCount, portCount, rowCountAll]; done)
    | (exfalso; simp_all [tileCount, stackCount, portCount, rowCountAll]; omega)
    | (exfalso; omega)

theorem execHaywardSliceStart_runs (r : Nat) (s : State) (hw : (okRow r) = true) : Runs (execHaywardSliceStart r s) := by
  simp only [okTile, okPort, okStack, okPart, okRow, okPage, decide_eq_true_eq, Bool.and_eq_true] at hw
  unfold execHaywardSliceStart
  repeat' first
    | exact runs_next _
    | (with_reducible refine runs_ite _ _ _ (fun _ => ?_) (fun _ => ?_))
    | split
    | (simp only [])
    | exact absurd hw ‹_›
    | exact hw
    | (exfalso; simp_all [tileCount, stackCount, portCount, rowCountAll]; done)
    | (exfalso; simp_all [tileCount, stackCount, portCount, rowCountAll]; omega)
    | (exfalso; omega)

theorem execHaywardSliceComplete_runs (r : Nat) (cols : List Nat) (words : List (Nat × Nat)) (other : Bool) (s : State) (hw : (okRow r) = true) : Runs (execHaywardSliceComplete r cols words other s) := by
  simp only [okTile, okPort, okStack, okPart, okRow, okPage, decide_eq_true_eq, Bool.and_eq_true] at hw
  unfold execHaywardSliceComplete
  repeat' first
    | exact runs_next _
    | (with_reducible refine runs_ite _ _ _ (fun _ => ?_) (fun _ => ?_))
    | split
    | (simp only [])
    | exact absurd hw ‹_›
    | exact hw
    | (exfalso; simp_all [tileCount, stackCount, portCount, rowCountAll]; done)
    | (exfalso; simp_all [tileCount, stackCount, portCount, rowCountAll]; omega)
    | (exfalso; omega)

theorem execSliceAbandon_runs (r : Nat) (s : State) (hw : (okRow r) = true) : Runs (execSliceAbandon r s) := by
  simp only [okTile, okPort, okStack, okPart, okRow, okPage, decide_eq_true_eq, Bool.and_eq_true] at hw
  unfold execSliceAbandon
  repeat' first
    | exact runs_next _
    | (with_reducible refine runs_ite _ _ _ (fun _ => ?_) (fun _ => ?_))
    | split
    | (simp only [])
    | exact absurd hw ‹_›
    | exact hw
    | (exfalso; simp_all [tileCount, stackCount, portCount, rowCountAll]; done)
    | (exfalso; simp_all [tileCount, stackCount, portCount, rowCountAll]; omega)
    | (exfalso; omega)

theorem execMigrationStraightThrough_runs (r : Nat) (s : State) (hw : (okRow r) = true) : Runs (execMigrationStraightThrough r s) := by
  simp only [okTile, okPort, okStack, okPart, okRow, okPage, decide_eq_true_eq, Bool.and_eq_true] at hw
  unfold execMigrationStraightThrough
  repeat' first
    | exact runs_next _
    | (with_reducible refine runs_ite _ _ _ (fun _ => ?_) (fun _ => ?_))
    | split
    | (simp only [])
    | exact absurd hw ‹_›
    | exact hw
    | (exfalso; simp_all [tileCount, stackCount, portCount, rowCountAll]; done)
    | (exfalso; simp_all [tileCount, stackCount, portCount, rowCountAll]; omega)
    | (exfalso; omega)

theorem execMigrationAbandon_runs (r : Nat) (s : State) (hw : (okRow r) = true) : Runs (execMigrationAbandon r s) := by
  simp only [okTile, okPort, okStack, okPart, okRow, okPage, decide_eq_true_eq, Bool.and_eq_true] at hw
  unfold execMigrationAbandon
  repeat' first
    | exact runs_next _
    | (with_reducible refine runs_ite _ _ _ (fun _ => ?_) (fun _ => ?_))
    | split
    | (simp only [])
    | exact absurd hw ‹_›
    | exact hw
    | (exfalso; simp_all [tileCount, stackCount, portCount, rowCountAll]; done)
    | (exfalso; simp_all [tileCount, stackCount, portCount, rowCountAll]; omega)
    | (exfalso; omega)

theorem execMigrationRetry_runs (r : Nat) (s : State) (hw : (okRow r) = true) : Runs (execMigrationRetry r s) := by
  simp only [okTile, okPort, okStack, okPart, okRow, okPage, decide_eq_true_eq, Bool.and_eq_true] at hw
  unfold execMigrationRetry
  repeat' first
    | exact runs_next _
    | (with_reducible refine runs_ite _ _ _ (fun _ => ?_) (fun _ => ?_))
    | split
    | (simp only [])
    | exact absurd hw ‹_›
    | exact hw
    | (exfalso; simp_all [tileCount, stackCount, portCount, rowCountAll]; done)
    | (exfalso; simp_all [tileCount, stackCount, portCount, rowCountAll]; omega)
    | (exfalso; omega)

theorem execPatternSetVerify_runs (ok : Bool) (s : State) : Runs (execPatternSetVerify ok s) := by
  have hw := True.intro
  unfold execPatternSetVerify
  repeat' first
    | exact runs_next _
    | (with_reducible refine runs_ite _ _ _ (fun _ => ?_) (fun _ => ?_))
    | split
    | (simp only [])
    | exact absurd hw ‹_›
    | exact hw
    | (exfalso; simp_all [tileCount, stackCount, portCount, rowCountAll]; done)
    | (exfalso; simp_all [tileCount, stackCount, portCount, rowCountAll]; omega)
    | (exfalso; omega)

theorem execFailureEvent_runs (s : State) : Runs (execFailureEvent s) := by
  have hw := True.intro
  unfold execFailureEvent
  repeat' first
    | exact runs_next _
    | (with_reducible refine runs_ite _ _ _ (fun _ => ?_) (fun _ => ?_))
    | split
    | (simp only [])
    | exact absurd hw ‹_›
    | exact hw
    | (exfalso; simp_all [tileCount, stackCount, portCount, rowCountAll]; done)
    | (exfalso; simp_all [tileCount, stackCount, portCount, rowCountAll]; omega)
    | (exfalso; omega)

theorem execContextReset_runs (n : Nat) (s : State) (hw : (okPart n) = true) : Runs (execContextReset n s) := by
  simp only [okTile, okPort, okStack, okPart, okRow, okPage, decide_eq_true_eq, Bool.and_eq_true] at hw
  unfold execContextReset
  repeat' first
    | exact runs_next _
    | (with_reducible refine runs_ite _ _ _ (fun _ => ?_) (fun _ => ?_))
    | split
    | (simp only [])
    | exact absurd hw ‹_›
    | exact hw
    | (exfalso; simp_all [tileCount, stackCount, portCount, rowCountAll]; done)
    | (exfalso; simp_all [tileCount, stackCount, portCount, rowCountAll]; omega)
    | (exfalso; omega)

theorem execEngineResetTile_runs (p : Nat) (found : List Nat × List (Nat × Nat) × Bool) (s : State) (hw : (okTile p) = true) : Runs (execEngineResetTile p found s) := by
  simp only [okTile, okPort, okStack, okPart, okRow, okPage, decide_eq_true_eq, Bool.and_eq_true] at hw
  unfold execEngineResetTile
  repeat' first
    | exact runs_next _
    | (with_reducible refine runs_ite _ _ _ (fun _ => ?_) (fun _ => ?_))
    | split
    | (simp only [])
    | exact absurd hw ‹_›
    | exact hw
    | (exfalso; simp_all [tileCount, stackCount, portCount, rowCountAll]; done)
    | (exfalso; simp_all [tileCount, stackCount, portCount, rowCountAll]; omega)
    | (exfalso; omega)

theorem execEngineResetMill_runs (k : Nat) (clears : Bool) (s : State) (hw : (okStack k) = true) : Runs (execEngineResetMill k clears s) := by
  simp only [okTile, okPort, okStack, okPart, okRow, okPage, decide_eq_true_eq, Bool.and_eq_true] at hw
  unfold execEngineResetMill
  repeat' first
    | exact runs_next _
    | (with_reducible refine runs_ite _ _ _ (fun _ => ?_) (fun _ => ?_))
    | split
    | (simp only [])
    | exact absurd hw ‹_›
    | exact hw
    | (exfalso; simp_all [tileCount, stackCount, portCount, rowCountAll]; done)
    | (exfalso; simp_all [tileCount, stackCount, portCount, rowCountAll]; omega)
    | (exfalso; omega)

theorem execEngineResetPort_runs (p : Nat) (ok : Bool) (s : State) (hw : (okPort p) = true) : Runs (execEngineResetPort p ok s) := by
  simp only [okTile, okPort, okStack, okPart, okRow, okPage, decide_eq_true_eq, Bool.and_eq_true] at hw
  unfold execEngineResetPort
  repeat' first
    | exact runs_next _
    | (with_reducible refine runs_ite _ _ _ (fun _ => ?_) (fun _ => ?_))
    | split
    | (simp only [])
    | exact absurd hw ‹_›
    | exact hw
    | (exfalso; simp_all [tileCount, stackCount, portCount, rowCountAll]; done)
    | (exfalso; simp_all [tileCount, stackCount, portCount, rowCountAll]; omega)
    | (exfalso; omega)

theorem execPartitionReset_runs (n : Nat) (found : List TileFound) (s : State) (hw : (okPart n) = true) : Runs (execPartitionReset n found s) := by
  simp only [okTile, okPort, okStack, okPart, okRow, okPage, decide_eq_true_eq, Bool.and_eq_true] at hw
  unfold execPartitionReset
  repeat' first
    | exact runs_next _
    | (with_reducible refine runs_ite _ _ _ (fun _ => ?_) (fun _ => ?_))
    | split
    | (simp only [])
    | exact absurd hw ‹_›
    | exact hw
    | (exfalso; simp_all [tileCount, stackCount, portCount, rowCountAll]; done)
    | (exfalso; simp_all [tileCount, stackCount, portCount, rowCountAll]; omega)
    | (exfalso; omega)

theorem execModuleComputeReset_runs (mems : Nat) (found : List TileFound) (s : State) : Runs (execModuleComputeReset mems found s) := by
  have hw := True.intro
  unfold execModuleComputeReset
  repeat' first
    | exact runs_next _
    | (with_reducible refine runs_ite _ _ _ (fun _ => ?_) (fun _ => ?_))
    | split
    | (simp only [])
    | exact absurd hw ‹_›
    | exact hw
    | (exfalso; simp_all [tileCount, stackCount, portCount, rowCountAll]; done)
    | (exfalso; simp_all [tileCount, stackCount, portCount, rowCountAll]; omega)
    | (exfalso; omega)

theorem execResetComplete_runs (n : Nat) (s : State) (hw : (n < 13) = true) : Runs (execResetComplete n s) := by
  simp only [okTile, okPort, okStack, okPart, okRow, okPage, decide_eq_true_eq, Bool.and_eq_true] at hw
  unfold execResetComplete
  repeat' first
    | exact runs_next _
    | (with_reducible refine runs_ite _ _ _ (fun _ => ?_) (fun _ => ?_))
    | split
    | (simp only [])
    | exact absurd hw ‹_›
    | exact hw
    | (exfalso; simp_all [tileCount, stackCount, portCount, rowCountAll]; done)
    | (exfalso; simp_all [tileCount, stackCount, portCount, rowCountAll]; omega)
    | (exfalso; omega)

theorem execResetEscalate_runs (lvl : Nat) (u : Nat) (code : Nat) (fwd : Bool) (s : State) (hw : (okScope lvl u) = true) : Runs (execResetEscalate lvl u code fwd s) := by
  unfold execResetEscalate
  unfold okScope at hw
  simp only [okTile, okPort, okStack, okPart] at hw
  refine runs_ite _ _ _ (fun h => absurd ?_ h) (fun _ => runs_ite _ _ _ (fun _ => runs_next _) (fun _ => runs_next _))
  split at hw <;> first | exact of_decide_eq_true hw | exact Nat.lt_succ_self u | (split <;> first | exact Nat.lt_succ_self u | simp_all)

theorem execLockstepMismatch_runs (s : State) : Runs (execLockstepMismatch s) := by
  have hw := True.intro
  unfold execLockstepMismatch
  repeat' first
    | exact runs_next _
    | (with_reducible refine runs_ite _ _ _ (fun _ => ?_) (fun _ => ?_))
    | split
    | (simp only [])
    | exact absurd hw ‹_›
    | exact hw
    | (exfalso; simp_all [tileCount, stackCount, portCount, rowCountAll]; done)
    | (exfalso; simp_all [tileCount, stackCount, portCount, rowCountAll]; omega)
    | (exfalso; omega)

theorem execLotEnd_runs (n : Nat) (s : State) (hw : (okPart n) = true) : Runs (execLotEnd n s) := by
  simp only [okTile, okPort, okStack, okPart, okRow, okPage, decide_eq_true_eq, Bool.and_eq_true] at hw
  unfold execLotEnd
  repeat' first
    | exact runs_next _
    | (with_reducible refine runs_ite _ _ _ (fun _ => ?_) (fun _ => ?_))
    | split
    | (simp only [])
    | exact absurd hw ‹_›
    | exact hw
    | (exfalso; simp_all [tileCount, stackCount, portCount, rowCountAll]; done)
    | (exfalso; simp_all [tileCount, stackCount, portCount, rowCountAll]; omega)
    | (exfalso; omega)

theorem execCompletionEntryWrite_runs (n : Nat) (s : State) (hw : (okPart n) = true) : Runs (execCompletionEntryWrite n s) := by
  simp only [okTile, okPort, okStack, okPart, okRow, okPage, decide_eq_true_eq, Bool.and_eq_true] at hw
  unfold execCompletionEntryWrite
  repeat' first
    | exact runs_next _
    | (with_reducible refine runs_ite _ _ _ (fun _ => ?_) (fun _ => ?_))
    | split
    | (simp only [])
    | exact absurd hw ‹_›
    | exact hw
    | (exfalso; simp_all [tileCount, stackCount, portCount, rowCountAll]; done)
    | (exfalso; simp_all [tileCount, stackCount, portCount, rowCountAll]; omega)
    | (exfalso; omega)

theorem execLongOperationEnd_runs (h : Nat) (units : Nat) (ok : Bool) (found : List (Nat × Nat × Bool)) (bolts : List (Nat × List Nat × List Nat)) (s : State) : Runs (execLongOperationEnd h units ok found bolts s) := by
  have hw := True.intro
  unfold execLongOperationEnd
  repeat' first
    | exact runs_next _
    | (with_reducible refine runs_ite _ _ _ (fun _ => ?_) (fun _ => ?_))
    | split
    | (simp only [])
    | exact absurd hw ‹_›
    | exact hw
    | (exfalso; simp_all [tileCount, stackCount, portCount, rowCountAll]; done)
    | (exfalso; simp_all [tileCount, stackCount, portCount, rowCountAll]; omega)
    | (exfalso; omega)

theorem execAssayStart_runs (n : Nat) (s : State) (hw : (okPart n) = true) : Runs (execAssayStart n s) := by
  simp only [okTile, okPort, okStack, okPart, okRow, okPage, decide_eq_true_eq, Bool.and_eq_true] at hw
  unfold execAssayStart
  repeat' first
    | exact runs_next _
    | (with_reducible refine runs_ite _ _ _ (fun _ => ?_) (fun _ => ?_))
    | split
    | (simp only [])
    | exact absurd hw ‹_›
    | exact hw
    | (exfalso; simp_all [tileCount, stackCount, portCount, rowCountAll]; done)
    | (exfalso; simp_all [tileCount, stackCount, portCount, rowCountAll]; omega)
    | (exfalso; omega)

theorem execAssayReplayEnd_runs (n : Nat) (s : State) (hw : (okPart n) = true) : Runs (execAssayReplayEnd n s) := by
  simp only [okTile, okPort, okStack, okPart, okRow, okPage, decide_eq_true_eq, Bool.and_eq_true] at hw
  unfold execAssayReplayEnd
  repeat' first
    | exact runs_next _
    | (with_reducible refine runs_ite _ _ _ (fun _ => ?_) (fun _ => ?_))
    | split
    | (simp only [])
    | exact absurd hw ‹_›
    | exact hw
    | (exfalso; simp_all [tileCount, stackCount, portCount, rowCountAll]; done)
    | (exfalso; simp_all [tileCount, stackCount, portCount, rowCountAll]; omega)
    | (exfalso; omega)

theorem execDoorbellWrite_runs (pg : Nat) (v : Nat) (s : State) (hw : (okPage pg) = true) : Runs (execDoorbellWrite pg v s) := by
  simp only [okTile, okPort, okStack, okPart, okRow, okPage, decide_eq_true_eq, Bool.and_eq_true] at hw
  unfold execDoorbellWrite
  repeat' first
    | exact runs_next _
    | (with_reducible refine runs_ite _ _ _ (fun _ => ?_) (fun _ => ?_))
    | split
    | (simp only [])
    | exact absurd hw ‹_›
    | exact hw
    | (exfalso; simp_all [tileCount, stackCount, portCount, rowCountAll]; done)
    | (exfalso; simp_all [tileCount, stackCount, portCount, rowCountAll]; omega)
    | (exfalso; omega)

theorem execRingReset_runs (n : Nat) (s : State) (hw : (okPage n) = true) : Runs (execRingReset n s) := by
  simp only [okTile, okPort, okStack, okPart, okRow, okPage, decide_eq_true_eq, Bool.and_eq_true] at hw
  unfold execRingReset
  repeat' first
    | exact runs_next _
    | (with_reducible refine runs_ite _ _ _ (fun _ => ?_) (fun _ => ?_))
    | split
    | (simp only [])
    | exact absurd hw ‹_›
    | exact hw
    | (exfalso; simp_all [tileCount, stackCount, portCount, rowCountAll]; done)
    | (exfalso; simp_all [tileCount, stackCount, portCount, rowCountAll]; omega)
    | (exfalso; omega)

theorem execMsixMessage_runs (v : Nat) (s : State) (hw : (v < 48) = true) : Runs (execMsixMessage v s) := by
  simp only [okTile, okPort, okStack, okPart, okRow, okPage, decide_eq_true_eq, Bool.and_eq_true] at hw
  unfold execMsixMessage
  repeat' first
    | exact runs_next _
    | (with_reducible refine runs_ite _ _ _ (fun _ => ?_) (fun _ => ?_))
    | split
    | (simp only [])
    | exact absurd hw ‹_›
    | exact hw
    | (exfalso; simp_all [tileCount, stackCount, portCount, rowCountAll]; done)
    | (exfalso; simp_all [tileCount, stackCount, portCount, rowCountAll]; omega)
    | (exfalso; omega)

theorem execModIdentity_runs (pg : Nat) (req : Option (List Byte)) (respOk : Bool) (s : State) (hw : (okPage pg) = true) : Runs (execModIdentity pg req respOk s) := by
  simp only [okTile, okPort, okStack, okPart, okRow, okPage, decide_eq_true_eq, Bool.and_eq_true] at hw
  unfold execModIdentity
  exact mailRow_runs _ _ _ _ _ _ _ hw

theorem execModGeometry_runs (pg : Nat) (req : Option (List Byte)) (respOk : Bool) (s : State) (hw : (okPage pg) = true) : Runs (execModGeometry pg req respOk s) := by
  simp only [okTile, okPort, okStack, okPart, okRow, okPage, decide_eq_true_eq, Bool.and_eq_true] at hw
  unfold execModGeometry
  exact mailRow_runs _ _ _ _ _ _ _ hw

theorem execModHealth_runs (pg : Nat) (req : Option (List Byte)) (respOk : Bool) (s : State) (hw : (okPage pg) = true) : Runs (execModHealth pg req respOk s) := by
  simp only [okTile, okPort, okStack, okPart, okRow, okPage, decide_eq_true_eq, Bool.and_eq_true] at hw
  unfold execModHealth
  exact mailRow_runs _ _ _ _ _ _ _ hw

theorem execModReady_runs (pg : Nat) (req : Option (List Byte)) (respOk : Bool) (s : State) (hw : (okPage pg) = true) : Runs (execModReady pg req respOk s) := by
  simp only [okTile, okPort, okStack, okPart, okRow, okPage, decide_eq_true_eq, Bool.and_eq_true] at hw
  unfold execModReady
  exact mailRow_runs _ _ _ _ _ _ _ hw

theorem execModClockSet_runs (pg : Nat) (req : Option (List Byte)) (respOk : Bool) (s : State) (hw : (okPage pg) = true) : Runs (execModClockSet pg req respOk s) := by
  simp only [okTile, okPort, okStack, okPart, okRow, okPage, decide_eq_true_eq, Bool.and_eq_true] at hw
  unfold execModClockSet
  exact mailRow_runs _ _ _ _ _ _ _ hw

theorem execModIdSet_runs (pg : Nat) (req : Option (List Byte)) (respOk : Bool) (s : State) (hw : (okPage pg) = true) : Runs (execModIdSet pg req respOk s) := by
  simp only [okTile, okPort, okStack, okPart, okRow, okPage, decide_eq_true_eq, Bool.and_eq_true] at hw
  unfold execModIdSet
  exact mailRow_runs _ _ _ _ _ _ _ hw

theorem execModResetPartition_runs (pg : Nat) (req : Option (List Byte)) (respOk : Bool) (s : State) (hw : (okPage pg) = true) : Runs (execModResetPartition pg req respOk s) := by
  simp only [okTile, okPort, okStack, okPart, okRow, okPage, decide_eq_true_eq, Bool.and_eq_true] at hw
  unfold execModResetPartition
  exact mailRow_runs _ _ _ _ _ _ _ hw

theorem execModResetModuleCompute_runs (pg : Nat) (req : Option (List Byte)) (respOk : Bool) (s : State) (hw : (okPage pg) = true) : Runs (execModResetModuleCompute pg req respOk s) := by
  simp only [okTile, okPort, okStack, okPart, okRow, okPage, decide_eq_true_eq, Bool.and_eq_true] at hw
  unfold execModResetModuleCompute
  exact mailRow_runs _ _ _ _ _ _ _ hw

theorem execModResetPowerCycle_runs (pg : Nat) (req : Option (List Byte)) (respOk : Bool) (s : State) (hw : (okPage pg) = true) : Runs (execModResetPowerCycle pg req respOk s) := by
  simp only [okTile, okPort, okStack, okPart, okRow, okPage, decide_eq_true_eq, Bool.and_eq_true] at hw
  unfold execModResetPowerCycle
  exact mailRow_runs _ _ _ _ _ _ _ hw

theorem execModTelemetry_runs (pg : Nat) (req : Option (List Byte)) (respOk : Bool) (s : State) (hw : (okPage pg) = true) : Runs (execModTelemetry pg req respOk s) := by
  simp only [okTile, okPort, okStack, okPart, okRow, okPage, decide_eq_true_eq, Bool.and_eq_true] at hw
  unfold execModTelemetry
  exact mailRow_runs _ _ _ _ _ _ _ hw

theorem execPartMbCtl_runs (pg : Nat) (req : Option (List Byte)) (respOk : Bool) (s : State) (hw : (okPage pg) = true) : Runs (execPartMbCtl pg req respOk s) := by
  simp only [okTile, okPort, okStack, okPart, okRow, okPage, decide_eq_true_eq, Bool.and_eq_true] at hw
  unfold execPartMbCtl
  exact mailRow_runs _ _ _ _ _ _ _ hw

theorem execPatLoad_runs (pg : Nat) (req : Option (List Byte)) (respOk : Bool) (s : State) (hw : (okPage pg) = true) : Runs (execPatLoad pg req respOk s) := by
  simp only [okTile, okPort, okStack, okPart, okRow, okPage, decide_eq_true_eq, Bool.and_eq_true] at hw
  unfold execPatLoad
  exact mailRow_runs _ _ _ _ _ _ _ hw

theorem execPatActivate_runs (pg : Nat) (req : Option (List Byte)) (respOk : Bool) (s : State) (hw : (okPage pg) = true) : Runs (execPatActivate pg req respOk s) := by
  simp only [okTile, okPort, okStack, okPart, okRow, okPage, decide_eq_true_eq, Bool.and_eq_true] at hw
  unfold execPatActivate
  exact mailRow_runs _ _ _ _ _ _ _ hw

theorem execPatSwitch_runs (pg : Nat) (req : Option (List Byte)) (respOk : Bool) (s : State) (hw : (okPage pg) = true) : Runs (execPatSwitch pg req respOk s) := by
  simp only [okTile, okPort, okStack, okPart, okRow, okPage, decide_eq_true_eq, Bool.and_eq_true] at hw
  unfold execPatSwitch
  exact mailRow_runs _ _ _ _ _ _ _ hw

theorem execPatMap_runs (pg : Nat) (req : Option (List Byte)) (respOk : Bool) (s : State) (hw : (okPage pg) = true) : Runs (execPatMap pg req respOk s) := by
  simp only [okTile, okPort, okStack, okPart, okRow, okPage, decide_eq_true_eq, Bool.and_eq_true] at hw
  unfold execPatMap
  exact mailRow_runs _ _ _ _ _ _ _ hw

theorem execLotSubmit_runs (pg : Nat) (req : Option (List Byte)) (respOk : Bool) (s : State) (hw : (okPage pg) = true) : Runs (execLotSubmit pg req respOk s) := by
  simp only [okTile, okPort, okStack, okPart, okRow, okPage, decide_eq_true_eq, Bool.and_eq_true] at hw
  unfold execLotSubmit
  exact mailRow_runs _ _ _ _ _ _ _ hw

theorem execLotCancel_runs (pg : Nat) (req : Option (List Byte)) (respOk : Bool) (s : State) (hw : (okPage pg) = true) : Runs (execLotCancel pg req respOk s) := by
  simp only [okTile, okPort, okStack, okPart, okRow, okPage, decide_eq_true_eq, Bool.and_eq_true] at hw
  unfold execLotCancel
  exact mailRow_runs _ _ _ _ _ _ _ hw

theorem execLotQuery_runs (pg : Nat) (req : Option (List Byte)) (respOk : Bool) (s : State) (hw : (okPage pg) = true) : Runs (execLotQuery pg req respOk s) := by
  simp only [okTile, okPort, okStack, okPart, okRow, okPage, decide_eq_true_eq, Bool.and_eq_true] at hw
  unfold execLotQuery
  exact mailRow_runs _ _ _ _ _ _ _ hw

theorem execLotRecords_runs (pg : Nat) (req : Option (List Byte)) (respOk : Bool) (s : State) (hw : (okPage pg) = true) : Runs (execLotRecords pg req respOk s) := by
  simp only [okTile, okPort, okStack, okPart, okRow, okPage, decide_eq_true_eq, Bool.and_eq_true] at hw
  unfold execLotRecords
  exact mailRow_runs _ _ _ _ _ _ _ hw

theorem execLotCqSet_runs (pg : Nat) (req : Option (List Byte)) (respOk : Bool) (s : State) (hw : (okPage pg) = true) : Runs (execLotCqSet pg req respOk s) := by
  simp only [okTile, okPort, okStack, okPart, okRow, okPage, decide_eq_true_eq, Bool.and_eq_true] at hw
  unfold execLotCqSet
  exact mailRow_runs _ _ _ _ _ _ _ hw

theorem execLotDigests_runs (pg : Nat) (req : Option (List Byte)) (respOk : Bool) (s : State) (hw : (okPage pg) = true) : Runs (execLotDigests pg req respOk s) := by
  simp only [okTile, okPort, okStack, okPart, okRow, okPage, decide_eq_true_eq, Bool.and_eq_true] at hw
  unfold execLotDigests
  exact mailRow_runs _ _ _ _ _ _ _ hw

theorem execStageNumericModes_runs (pg : Nat) (req : Option (List Byte)) (respOk : Bool) (s : State) (hw : (okPage pg) = true) : Runs (execStageNumericModes pg req respOk s) := by
  simp only [okTile, okPort, okStack, okPart, okRow, okPage, decide_eq_true_eq, Bool.and_eq_true] at hw
  unfold execStageNumericModes
  exact mailRow_runs _ _ _ _ _ _ _ hw

theorem execStageHalt_runs (pg : Nat) (req : Option (List Byte)) (respOk : Bool) (s : State) (hw : (okPage pg) = true) : Runs (execStageHalt pg req respOk s) := by
  simp only [okTile, okPort, okStack, okPart, okRow, okPage, decide_eq_true_eq, Bool.and_eq_true] at hw
  unfold execStageHalt
  exact mailRow_runs _ _ _ _ _ _ _ hw

theorem execStageHoldLimit_runs (pg : Nat) (req : Option (List Byte)) (respOk : Bool) (s : State) (hw : (okPage pg) = true) : Runs (execStageHoldLimit pg req respOk s) := by
  simp only [okTile, okPort, okStack, okPart, okRow, okPage, decide_eq_true_eq, Bool.and_eq_true] at hw
  unfold execStageHoldLimit
  exact mailRow_runs _ _ _ _ _ _ _ hw

theorem execStageSplit_runs (pg : Nat) (req : Option (List Byte)) (respOk : Bool) (s : State) (hw : (okPage pg) = true) : Runs (execStageSplit pg req respOk s) := by
  simp only [okTile, okPort, okStack, okPart, okRow, okPage, decide_eq_true_eq, Bool.and_eq_true] at hw
  unfold execStageSplit
  exact mailRow_runs _ _ _ _ _ _ _ hw

theorem execStageBellPeriod_runs (pg : Nat) (req : Option (List Byte)) (respOk : Bool) (s : State) (hw : (okPage pg) = true) : Runs (execStageBellPeriod pg req respOk s) := by
  simp only [okTile, okPort, okStack, okPart, okRow, okPage, decide_eq_true_eq, Bool.and_eq_true] at hw
  unfold execStageBellPeriod
  exact mailRow_runs _ _ _ _ _ _ _ hw

theorem execStageKeyRotation_runs (pg : Nat) (req : Option (List Byte)) (respOk : Bool) (s : State) (hw : (okPage pg) = true) : Runs (execStageKeyRotation pg req respOk s) := by
  simp only [okTile, okPort, okStack, okPart, okRow, okPage, decide_eq_true_eq, Bool.and_eq_true] at hw
  unfold execStageKeyRotation
  exact mailRow_runs _ _ _ _ _ _ _ hw

theorem execStageReseed_runs (pg : Nat) (req : Option (List Byte)) (respOk : Bool) (s : State) (hw : (okPage pg) = true) : Runs (execStageReseed pg req respOk s) := by
  simp only [okTile, okPort, okStack, okPart, okRow, okPage, decide_eq_true_eq, Bool.and_eq_true] at hw
  unfold execStageReseed
  exact mailRow_runs _ _ _ _ _ _ _ hw

theorem execStageMergedRead_runs (pg : Nat) (req : Option (List Byte)) (respOk : Bool) (s : State) (hw : (okPage pg) = true) : Runs (execStageMergedRead pg req respOk s) := by
  simp only [okTile, okPort, okStack, okPart, okRow, okPage, decide_eq_true_eq, Bool.and_eq_true] at hw
  unfold execStageMergedRead
  exact mailRow_runs _ _ _ _ _ _ _ hw

theorem execStageCancel_runs (pg : Nat) (req : Option (List Byte)) (respOk : Bool) (s : State) (hw : (okPage pg) = true) : Runs (execStageCancel pg req respOk s) := by
  simp only [okTile, okPort, okStack, okPart, okRow, okPage, decide_eq_true_eq, Bool.and_eq_true] at hw
  unfold execStageCancel
  exact mailRow_runs _ _ _ _ _ _ _ hw

theorem execStageQuery_runs (pg : Nat) (req : Option (List Byte)) (respOk : Bool) (s : State) (hw : (okPage pg) = true) : Runs (execStageQuery pg req respOk s) := by
  simp only [okTile, okPort, okStack, okPart, okRow, okPage, decide_eq_true_eq, Bool.and_eq_true] at hw
  unfold execStageQuery
  exact mailRow_runs _ _ _ _ _ _ _ hw

theorem execCtxScanOut_runs (pg : Nat) (req : Option (List Byte)) (respOk : Bool) (s : State) (hw : (okPage pg) = true) : Runs (execCtxScanOut pg req respOk s) := by
  simp only [okTile, okPort, okStack, okPart, okRow, okPage, decide_eq_true_eq, Bool.and_eq_true] at hw
  unfold execCtxScanOut
  exact mailRow_runs _ _ _ _ _ _ _ hw

theorem execCtxScanIn_runs (pg : Nat) (req : Option (List Byte)) (respOk : Bool) (s : State) (hw : (okPage pg) = true) : Runs (execCtxScanIn pg req respOk s) := by
  simp only [okTile, okPort, okStack, okPart, okRow, okPage, decide_eq_true_eq, Bool.and_eq_true] at hw
  unfold execCtxScanIn
  exact mailRow_runs _ _ _ _ _ _ _ hw

theorem execCtxReset_runs (pg : Nat) (req : Option (List Byte)) (respOk : Bool) (s : State) (hw : (okPage pg) = true) : Runs (execCtxReset pg req respOk s) := by
  simp only [okTile, okPort, okStack, okPart, okRow, okPage, decide_eq_true_eq, Bool.and_eq_true] at hw
  unfold execCtxReset
  exact mailRow_runs _ _ _ _ _ _ _ hw

theorem execMntStackTest_runs (pg : Nat) (req : Option (List Byte)) (respOk : Bool) (s : State) (hw : (okPage pg) = true) : Runs (execMntStackTest pg req respOk s) := by
  simp only [okTile, okPort, okStack, okPart, okRow, okPage, decide_eq_true_eq, Bool.and_eq_true] at hw
  unfold execMntStackTest
  exact mailRow_runs _ _ _ _ _ _ _ hw

theorem execMntScrubStacks_runs (pg : Nat) (req : Option (List Byte)) (respOk : Bool) (s : State) (hw : (okPage pg) = true) : Runs (execMntScrubStacks pg req respOk s) := by
  simp only [okTile, okPort, okStack, okPart, okRow, okPage, decide_eq_true_eq, Bool.and_eq_true] at hw
  unfold execMntScrubStacks
  exact mailRow_runs _ _ _ _ _ _ _ hw

theorem execMntScrubTiles_runs (pg : Nat) (req : Option (List Byte)) (respOk : Bool) (s : State) (hw : (okPage pg) = true) : Runs (execMntScrubTiles pg req respOk s) := by
  simp only [okTile, okPort, okStack, okPart, okRow, okPage, decide_eq_true_eq, Bool.and_eq_true] at hw
  unfold execMntScrubTiles
  exact mailRow_runs _ _ _ _ _ _ _ hw

theorem execMntAssay_runs (pg : Nat) (req : Option (List Byte)) (respOk : Bool) (s : State) (hw : (okPage pg) = true) : Runs (execMntAssay pg req respOk s) := by
  simp only [okTile, okPort, okStack, okPart, okRow, okPage, decide_eq_true_eq, Bool.and_eq_true] at hw
  unfold execMntAssay
  exact mailRow_runs _ _ _ _ _ _ _ hw

theorem execMntFwUpdate_runs (pg : Nat) (req : Option (List Byte)) (respOk : Bool) (ver : Nat) (sec : Nat) (s : State) (hw : (okPage pg) = true) : Runs (execMntFwUpdate pg req respOk ver sec s) := by
  simp only [okTile, okPort, okStack, okPart, okRow, okPage, decide_eq_true_eq, Bool.and_eq_true] at hw
  unfold execMntFwUpdate
  exact mailRow_runs _ _ _ _ _ _ _ hw

theorem execMntLinkQual_runs (pg : Nat) (req : Option (List Byte)) (respOk : Bool) (s : State) (hw : (okPage pg) = true) : Runs (execMntLinkQual pg req respOk s) := by
  simp only [okTile, okPort, okStack, okPart, okRow, okPage, decide_eq_true_eq, Bool.and_eq_true] at hw
  unfold execMntLinkQual
  exact mailRow_runs _ _ _ _ _ _ _ hw

theorem execMntSpareMap_runs (pg : Nat) (req : Option (List Byte)) (respOk : Bool) (s : State) (hw : (okPage pg) = true) : Runs (execMntSpareMap pg req respOk s) := by
  simp only [okTile, okPort, okStack, okPart, okRow, okPage, decide_eq_true_eq, Bool.and_eq_true] at hw
  unfold execMntSpareMap
  exact mailRow_runs _ _ _ _ _ _ _ hw

theorem execMntLedger_runs (pg : Nat) (req : Option (List Byte)) (respOk : Bool) (s : State) (hw : (okPage pg) = true) : Runs (execMntLedger pg req respOk s) := by
  simp only [okTile, okPort, okStack, okPart, okRow, okPage, decide_eq_true_eq, Bool.and_eq_true] at hw
  unfold execMntLedger
  exact mailRow_runs _ _ _ _ _ _ _ hw

theorem execMntRepairLedger_runs (pg : Nat) (req : Option (List Byte)) (respOk : Bool) (s : State) (hw : (okPage pg) = true) : Runs (execMntRepairLedger pg req respOk s) := by
  simp only [okTile, okPort, okStack, okPart, okRow, okPage, decide_eq_true_eq, Bool.and_eq_true] at hw
  unfold execMntRepairLedger
  exact mailRow_runs _ _ _ _ _ _ _ hw

theorem execOpStatus_runs (pg : Nat) (req : Option (List Byte)) (respOk : Bool) (s : State) (hw : (okPage pg) = true) : Runs (execOpStatus pg req respOk s) := by
  simp only [okTile, okPort, okStack, okPart, okRow, okPage, decide_eq_true_eq, Bool.and_eq_true] at hw
  unfold execOpStatus
  exact mailRow_runs _ _ _ _ _ _ _ hw

theorem execOpSuspend_runs (pg : Nat) (req : Option (List Byte)) (respOk : Bool) (s : State) (hw : (okPage pg) = true) : Runs (execOpSuspend pg req respOk s) := by
  simp only [okTile, okPort, okStack, okPart, okRow, okPage, decide_eq_true_eq, Bool.and_eq_true] at hw
  unfold execOpSuspend
  exact mailRow_runs _ _ _ _ _ _ _ hw

theorem execOpResume_runs (pg : Nat) (req : Option (List Byte)) (respOk : Bool) (s : State) (hw : (okPage pg) = true) : Runs (execOpResume pg req respOk s) := by
  simp only [okTile, okPort, okStack, okPart, okRow, okPage, decide_eq_true_eq, Bool.and_eq_true] at hw
  unfold execOpResume
  exact mailRow_runs _ _ _ _ _ _ _ hw

theorem execOpCancel_runs (pg : Nat) (req : Option (List Byte)) (respOk : Bool) (s : State) (hw : (okPage pg) = true) : Runs (execOpCancel pg req respOk s) := by
  simp only [okTile, okPort, okStack, okPart, okRow, okPage, decide_eq_true_eq, Bool.and_eq_true] at hw
  unfold execOpCancel
  exact mailRow_runs _ _ _ _ _ _ _ hw

theorem execOpList_runs (pg : Nat) (req : Option (List Byte)) (respOk : Bool) (s : State) (hw : (okPage pg) = true) : Runs (execOpList pg req respOk s) := by
  simp only [okTile, okPort, okStack, okPart, okRow, okPage, decide_eq_true_eq, Bool.and_eq_true] at hw
  unfold execOpList
  exact mailRow_runs _ _ _ _ _ _ _ hw

theorem execLinkRouteWrite_runs (pg : Nat) (req : Option (List Byte)) (respOk : Bool) (s : State) (hw : (okPage pg) = true) : Runs (execLinkRouteWrite pg req respOk s) := by
  simp only [okTile, okPort, okStack, okPart, okRow, okPage, decide_eq_true_eq, Bool.and_eq_true] at hw
  unfold execLinkRouteWrite
  exact mailRow_runs _ _ _ _ _ _ _ hw

theorem execLinkRouteSwitch_runs (pg : Nat) (req : Option (List Byte)) (respOk : Bool) (s : State) (hw : (okPage pg) = true) : Runs (execLinkRouteSwitch pg req respOk s) := by
  simp only [okTile, okPort, okStack, okPart, okRow, okPage, decide_eq_true_eq, Bool.and_eq_true] at hw
  unfold execLinkRouteSwitch
  exact mailRow_runs _ _ _ _ _ _ _ hw

theorem execLinkMcastWrite_runs (pg : Nat) (req : Option (List Byte)) (respOk : Bool) (s : State) (hw : (okPage pg) = true) : Runs (execLinkMcastWrite pg req respOk s) := by
  simp only [okTile, okPort, okStack, okPart, okRow, okPage, decide_eq_true_eq, Bool.and_eq_true] at hw
  unfold execLinkMcastWrite
  exact mailRow_runs _ _ _ _ _ _ _ hw

theorem execSysKeys_runs (pg : Nat) (req : Option (List Byte)) (respOk : Bool) (s : State) (hw : (okPage pg) = true) : Runs (execSysKeys pg req respOk s) := by
  simp only [okTile, okPort, okStack, okPart, okRow, okPage, decide_eq_true_eq, Bool.and_eq_true] at hw
  unfold execSysKeys
  exact mailRow_runs _ _ _ _ _ _ _ hw

theorem execSysJoin_runs (pg : Nat) (req : Option (List Byte)) (respOk : Bool) (s : State) (hw : (okPage pg) = true) : Runs (execSysJoin pg req respOk s) := by
  simp only [okTile, okPort, okStack, okPart, okRow, okPage, decide_eq_true_eq, Bool.and_eq_true] at hw
  unfold execSysJoin
  exact mailRow_runs _ _ _ _ _ _ _ hw

theorem execSysLeave_runs (pg : Nat) (req : Option (List Byte)) (respOk : Bool) (s : State) (hw : (okPage pg) = true) : Runs (execSysLeave pg req respOk s) := by
  simp only [okTile, okPort, okStack, okPart, okRow, okPage, decide_eq_true_eq, Bool.and_eq_true] at hw
  unfold execSysLeave
  exact mailRow_runs _ _ _ _ _ _ _ hw

theorem execRecRead_runs (pg : Nat) (req : Option (List Byte)) (respOk : Bool) (s : State) (hw : (okPage pg) = true) : Runs (execRecRead pg req respOk s) := by
  simp only [okTile, okPort, okStack, okPart, okRow, okPage, decide_eq_true_eq, Bool.and_eq_true] at hw
  unfold execRecRead
  exact mailRow_runs _ _ _ _ _ _ _ hw

theorem execPwrLimitSet_runs (pg : Nat) (req : Option (List Byte)) (respOk : Bool) (s : State) (hw : (okPage pg) = true) : Runs (execPwrLimitSet pg req respOk s) := by
  simp only [okTile, okPort, okStack, okPart, okRow, okPage, decide_eq_true_eq, Bool.and_eq_true] at hw
  unfold execPwrLimitSet
  exact mailRow_runs _ _ _ _ _ _ _ hw

theorem execPwrRead_runs (pg : Nat) (req : Option (List Byte)) (respOk : Bool) (s : State) (hw : (okPage pg) = true) : Runs (execPwrRead pg req respOk s) := by
  simp only [okTile, okPort, okStack, okPart, okRow, okPage, decide_eq_true_eq, Bool.and_eq_true] at hw
  unfold execPwrRead
  exact mailRow_runs _ _ _ _ _ _ _ hw

theorem execDbgRegRead_runs (pg : Nat) (req : Option (List Byte)) (respOk : Bool) (s : State) (hw : (okPage pg) = true) : Runs (execDbgRegRead pg req respOk s) := by
  simp only [okTile, okPort, okStack, okPart, okRow, okPage, decide_eq_true_eq, Bool.and_eq_true] at hw
  unfold execDbgRegRead
  exact mailRow_runs _ _ _ _ _ _ _ hw

theorem execDbgRegWrite_runs (pg : Nat) (req : Option (List Byte)) (respOk : Bool) (s : State) (hw : (okPage pg) = true) : Runs (execDbgRegWrite pg req respOk s) := by
  simp only [okTile, okPort, okStack, okPart, okRow, okPage, decide_eq_true_eq, Bool.and_eq_true] at hw
  unfold execDbgRegWrite
  exact mailRow_runs _ _ _ _ _ _ _ hw

theorem execDbgStoreRead_runs (pg : Nat) (req : Option (List Byte)) (respOk : Bool) (s : State) (hw : (okPage pg) = true) : Runs (execDbgStoreRead pg req respOk s) := by
  simp only [okTile, okPort, okStack, okPart, okRow, okPage, decide_eq_true_eq, Bool.and_eq_true] at hw
  unfold execDbgStoreRead
  exact mailRow_runs _ _ _ _ _ _ _ hw

theorem execDbgStoreWrite_runs (pg : Nat) (req : Option (List Byte)) (respOk : Bool) (s : State) (hw : (okPage pg) = true) : Runs (execDbgStoreWrite pg req respOk s) := by
  simp only [okTile, okPort, okStack, okPart, okRow, okPage, decide_eq_true_eq, Bool.and_eq_true] at hw
  unfold execDbgStoreWrite
  exact mailRow_runs _ _ _ _ _ _ _ hw

theorem execDbgImageRead_runs (pg : Nat) (req : Option (List Byte)) (respOk : Bool) (s : State) (hw : (okPage pg) = true) : Runs (execDbgImageRead pg req respOk s) := by
  simp only [okTile, okPort, okStack, okPart, okRow, okPage, decide_eq_true_eq, Bool.and_eq_true] at hw
  unfold execDbgImageRead
  exact mailRow_runs _ _ _ _ _ _ _ hw

theorem execDbgChanRead_runs (pg : Nat) (req : Option (List Byte)) (respOk : Bool) (s : State) (hw : (okPage pg) = true) : Runs (execDbgChanRead pg req respOk s) := by
  simp only [okTile, okPort, okStack, okPart, okRow, okPage, decide_eq_true_eq, Bool.and_eq_true] at hw
  unfold execDbgChanRead
  exact mailRow_runs _ _ _ _ _ _ _ hw

theorem execDbgResume_runs (pg : Nat) (req : Option (List Byte)) (respOk : Bool) (s : State) (hw : (okPage pg) = true) : Runs (execDbgResume pg req respOk s) := by
  simp only [okTile, okPort, okStack, okPart, okRow, okPage, decide_eq_true_eq, Bool.and_eq_true] at hw
  unfold execDbgResume
  exact mailRow_runs _ _ _ _ _ _ _ hw

theorem execDbgLooseOn_runs (pg : Nat) (req : Option (List Byte)) (respOk : Bool) (s : State) (hw : (okPage pg) = true) : Runs (execDbgLooseOn pg req respOk s) := by
  simp only [okTile, okPort, okStack, okPart, okRow, okPage, decide_eq_true_eq, Bool.and_eq_true] at hw
  unfold execDbgLooseOn
  exact mailRow_runs _ _ _ _ _ _ _ hw

theorem execDbgLooseOff_runs (pg : Nat) (req : Option (List Byte)) (respOk : Bool) (s : State) (hw : (okPage pg) = true) : Runs (execDbgLooseOff pg req respOk s) := by
  simp only [okTile, okPort, okStack, okPart, okRow, okPage, decide_eq_true_eq, Bool.and_eq_true] at hw
  unfold execDbgLooseOff
  exact mailRow_runs _ _ _ _ _ _ _ hw

theorem execDbgClkHalt_runs (pg : Nat) (req : Option (List Byte)) (respOk : Bool) (s : State) (hw : (okPage pg) = true) : Runs (execDbgClkHalt pg req respOk s) := by
  simp only [okTile, okPort, okStack, okPart, okRow, okPage, decide_eq_true_eq, Bool.and_eq_true] at hw
  unfold execDbgClkHalt
  exact mailRow_runs _ _ _ _ _ _ _ hw

theorem execDbgClkStep_runs (pg : Nat) (req : Option (List Byte)) (respOk : Bool) (s : State) (hw : (okPage pg) = true) : Runs (execDbgClkStep pg req respOk s) := by
  simp only [okTile, okPort, okStack, okPart, okRow, okPage, decide_eq_true_eq, Bool.and_eq_true] at hw
  unfold execDbgClkStep
  exact mailRow_runs _ _ _ _ _ _ _ hw

theorem execDbgClkResume_runs (pg : Nat) (req : Option (List Byte)) (respOk : Bool) (s : State) (hw : (okPage pg) = true) : Runs (execDbgClkResume pg req respOk s) := by
  simp only [okTile, okPort, okStack, okPart, okRow, okPage, decide_eq_true_eq, Bool.and_eq_true] at hw
  unfold execDbgClkResume
  exact mailRow_runs _ _ _ _ _ _ _ hw

theorem execDbgClkSet_runs (pg : Nat) (req : Option (List Byte)) (respOk : Bool) (s : State) (hw : (okPage pg) = true) : Runs (execDbgClkSet pg req respOk s) := by
  simp only [okTile, okPort, okStack, okPart, okRow, okPage, decide_eq_true_eq, Bool.and_eq_true] at hw
  unfold execDbgClkSet
  exact mailRow_runs _ _ _ _ _ _ _ hw

theorem execDbgTraceSet_runs (pg : Nat) (req : Option (List Byte)) (respOk : Bool) (s : State) (hw : (okPage pg) = true) : Runs (execDbgTraceSet pg req respOk s) := by
  simp only [okTile, okPort, okStack, okPart, okRow, okPage, decide_eq_true_eq, Bool.and_eq_true] at hw
  unfold execDbgTraceSet
  exact mailRow_runs _ _ _ _ _ _ _ hw

theorem execDbgTraceRead_runs (pg : Nat) (req : Option (List Byte)) (respOk : Bool) (s : State) (hw : (okPage pg) = true) : Runs (execDbgTraceRead pg req respOk s) := by
  simp only [okTile, okPort, okStack, okPart, okRow, okPage, decide_eq_true_eq, Bool.and_eq_true] at hw
  unfold execDbgTraceRead
  exact mailRow_runs _ _ _ _ _ _ _ hw

theorem execDbgMillNan_runs (pg : Nat) (req : Option (List Byte)) (respOk : Bool) (s : State) (hw : (okPage pg) = true) : Runs (execDbgMillNan pg req respOk s) := by
  simp only [okTile, okPort, okStack, okPart, okRow, okPage, decide_eq_true_eq, Bool.and_eq_true] at hw
  unfold execDbgMillNan
  exact mailRow_runs _ _ _ _ _ _ _ hw

theorem execTraceTriggerMatch_runs (n : Nat) (s : State) (hw : (okPart n) = true) : Runs (execTraceTriggerMatch n s) := by
  simp only [okTile, okPort, okStack, okPart, okRow, okPage, decide_eq_true_eq, Bool.and_eq_true] at hw
  unfold execTraceTriggerMatch
  repeat' first
    | exact runs_next _
    | (with_reducible refine runs_ite _ _ _ (fun _ => ?_) (fun _ => ?_))
    | split
    | (simp only [])
    | exact absurd hw ‹_›
    | exact hw
    | (exfalso; simp_all [tileCount, stackCount, portCount, rowCountAll]; done)
    | (exfalso; simp_all [tileCount, stackCount, portCount, rowCountAll]; omega)
    | (exfalso; omega)

theorem execJtagDbgcmd_runs (data : List Byte) (s : State) : Runs (execJtagDbgcmd data s) := by
  have hw := True.intro
  unfold execJtagDbgcmd
  exact jtagScan_runs _ _ _

theorem execJtagExtest_runs (v : Nat) (s : State) : Runs (execJtagExtest v s) := by
  have hw := True.intro
  unfold execJtagExtest
  exact jtagScan_runs _ _ _

theorem execJtagSamplePreload_runs (v : Nat) (s : State) : Runs (execJtagSamplePreload v s) := by
  have hw := True.intro
  unfold execJtagSamplePreload
  exact jtagScan_runs _ _ _

theorem execJtagIdcode_runs (s : State) : Runs (execJtagIdcode s) := by
  have hw := True.intro
  unfold execJtagIdcode
  exact jtagScan_runs _ _ _

theorem execJtagTesteng_runs (op : Nat) (s : State) : Runs (execJtagTesteng op s) := by
  have hw := True.intro
  unfold execJtagTesteng
  exact jtagScan_runs _ _ _

theorem execJtagBypass_runs (s : State) : Runs (execJtagBypass s) := by
  have hw := True.intro
  unfold execJtagBypass
  exact jtagScan_runs _ _ _

theorem execSidebandRequest_runs (msg : List Byte) (s : State) : Runs (execSidebandRequest msg s) := by
  have hw := True.intro
  unfold execSidebandRequest
  repeat' first
    | exact runs_next _
    | (with_reducible refine runs_ite _ _ _ (fun _ => ?_) (fun _ => ?_))
    | split
    | (simp only [])
    | exact absurd hw ‹_›
    | exact hw
    | (exfalso; simp_all [tileCount, stackCount, portCount, rowCountAll]; done)
    | (exfalso; simp_all [tileCount, stackCount, portCount, rowCountAll]; omega)
    | (exfalso; omega)

theorem execMctpControl_runs (cmd : Nat) (data : List Byte) (s : State) : Runs (execMctpControl cmd data s) := by
  have hw := True.intro
  unfold execMctpControl
  repeat' first
    | exact runs_next _
    | (with_reducible refine runs_ite _ _ _ (fun _ => ?_) (fun _ => ?_))
    | split
    | (simp only [])
    | exact absurd hw ‹_›
    | exact hw
    | (exfalso; simp_all [tileCount, stackCount, portCount, rowCountAll]; done)
    | (exfalso; simp_all [tileCount, stackCount, portCount, rowCountAll]; omega)
    | (exfalso; omega)

theorem execPldmGetSensorReading_runs (id : Nat) (s : State) : Runs (execPldmGetSensorReading id s) := by
  have hw := True.intro
  unfold execPldmGetSensorReading
  repeat' first
    | exact runs_next _
    | (with_reducible refine runs_ite _ _ _ (fun _ => ?_) (fun _ => ?_))
    | split
    | (simp only [])
    | exact absurd hw ‹_›
    | exact hw
    | (exfalso; simp_all [tileCount, stackCount, portCount, rowCountAll]; done)
    | (exfalso; simp_all [tileCount, stackCount, portCount, rowCountAll]; omega)
    | (exfalso; omega)

theorem execPldmPollEvent_runs (s : State) : Runs (execPldmPollEvent s) := by
  have hw := True.intro
  unfold execPldmPollEvent
  repeat' first
    | exact runs_next _
    | (with_reducible refine runs_ite _ _ _ (fun _ => ?_) (fun _ => ?_))
    | split
    | (simp only [])
    | exact absurd hw ‹_›
    | exact hw
    | (exfalso; simp_all [tileCount, stackCount, portCount, rowCountAll]; done)
    | (exfalso; simp_all [tileCount, stackCount, portCount, rowCountAll]; omega)
    | (exfalso; omega)

theorem execBar2Write_runs (off : Nat) (data : List Byte) (ep : Bool) (s : State) : Runs (execBar2Write off data ep s) := by
  have hw := True.intro
  unfold execBar2Write
  repeat' first
    | exact runs_next _
    | (with_reducible refine runs_ite _ _ _ (fun _ => ?_) (fun _ => ?_))
    | split
    | (simp only [])
    | exact absurd hw ‹_›
    | exact hw
    | (exfalso; simp_all [tileCount, stackCount, portCount, rowCountAll]; done)
    | (exfalso; simp_all [tileCount, stackCount, portCount, rowCountAll]; omega)
    | (exfalso; omega)

theorem execAssemblerTimeout_runs (n : Nat) (b : Nat) (s : State) (hw : (okPart n && b < Config.shareBolts) = true) : Runs (execAssemblerTimeout n b s) := by
  simp only [okTile, okPort, okStack, okPart, okRow, okPage, decide_eq_true_eq, Bool.and_eq_true] at hw
  unfold execAssemblerTimeout
  repeat' first
    | exact runs_next _
    | (with_reducible refine runs_ite _ _ _ (fun _ => ?_) (fun _ => ?_))
    | split
    | (simp only [])
    | exact absurd hw ‹_›
    | exact hw
    | (exfalso; simp_all [tileCount, stackCount, portCount, rowCountAll]; done)
    | (exfalso; simp_all [tileCount, stackCount, portCount, rowCountAll]; omega)
    | (exfalso; omega)

theorem execBar2Read_runs (off : Nat) (len : Nat) (tag : Nat) (s : State) : Runs (execBar2Read off len tag s) := by
  have hw := True.intro
  unfold execBar2Read
  repeat' first
    | exact runs_next _
    | (with_reducible refine runs_ite _ _ _ (fun _ => ?_) (fun _ => ?_))
    | split
    | (simp only [])
    | exact absurd hw ‹_›
    | exact hw
    | (exfalso; simp_all [tileCount, stackCount, portCount, rowCountAll]; done)
    | (exfalso; simp_all [tileCount, stackCount, portCount, rowCountAll]; omega)
    | (exfalso; omega)

theorem execBar0MalformedAccess_runs (off : Nat) (len : Nat) (tag : Nat) (wr : Bool) (ep : Bool) (s : State) : Runs (execBar0MalformedAccess off len tag wr ep s) := by
  have hw := True.intro
  unfold execBar0MalformedAccess
  repeat' first
    | exact runs_next _
    | (with_reducible refine runs_ite _ _ _ (fun _ => ?_) (fun _ => ?_))
    | split
    | (simp only [])
    | exact absurd hw ‹_›
    | exact hw
    | (exfalso; simp_all [tileCount, stackCount, portCount, rowCountAll]; done)
    | (exfalso; simp_all [tileCount, stackCount, portCount, rowCountAll]; omega)
    | (exfalso; omega)

theorem execHostRegisterWrite_runs (mgmt : Bool) (off : Nat) (data : List Byte) (s : State) : Runs (execHostRegisterWrite mgmt off data s) := by
  have hw := True.intro
  unfold execHostRegisterWrite
  repeat' first
    | exact runs_next _
    | (with_reducible refine runs_ite _ _ _ (fun _ => ?_) (fun _ => ?_))
    | split
    | (simp only [])
    | exact absurd hw ‹_›
    | exact hw
    | (exfalso; simp_all [tileCount, stackCount, portCount, rowCountAll]; done)
    | (exfalso; simp_all [tileCount, stackCount, portCount, rowCountAll]; omega)
    | (exfalso; omega)

theorem execManagementAccess_runs (engine : Bool) (write : Bool) (addr : Nat) (len : Nat) (data : List Byte) (s : State) : Runs (execManagementAccess engine write addr len data s) := by
  have hw := True.intro
  unfold execManagementAccess
  repeat' first
    | exact runs_next _
    | (with_reducible refine runs_ite _ _ _ (fun _ => ?_) (fun _ => ?_))
    | split
    | (simp only [])
    | exact absurd hw ‹_›
    | exact hw
    | (exfalso; simp_all [tileCount, stackCount, portCount, rowCountAll]; done)
    | (exfalso; simp_all [tileCount, stackCount, portCount, rowCountAll]; omega)
    | (exfalso; omega)

theorem execIdleFlitReceive_runs (p : Nat) (fl : List Byte) (s : State) (hw : (okPort p) = true) : Runs (execIdleFlitReceive p fl s) := by
  simp only [okTile, okPort, okStack, okPart, okRow, okPage, decide_eq_true_eq, Bool.and_eq_true] at hw
  unfold execIdleFlitReceive
  exact flitRow_runs _ _ _ _ _ _ hw

theorem execTelemetrySweep_runs (s : State) : Runs (execTelemetrySweep s) := by
  have hw := True.intro
  unfold execTelemetrySweep
  repeat' first
    | exact runs_next _
    | (with_reducible refine runs_ite _ _ _ (fun _ => ?_) (fun _ => ?_))
    | split
    | (simp only [])
    | exact absurd hw ‹_›
    | exact hw
    | (exfalso; simp_all [tileCount, stackCount, portCount, rowCountAll]; done)
    | (exfalso; simp_all [tileCount, stackCount, portCount, rowCountAll]; omega)
    | (exfalso; omega)

theorem execPcieConfigurationRequest_runs (write : Bool) (field : Nat) (v : Nat) (s : State) : Runs (execPcieConfigurationRequest write field v s) := by
  have hw := True.intro
  unfold execPcieConfigurationRequest
  repeat' first
    | exact runs_next _
    | (with_reducible refine runs_ite _ _ _ (fun _ => ?_) (fun _ => ?_))
    | split
    | (simp only [])
    | exact absurd hw ‹_›
    | exact hw
    | (exfalso; simp_all [tileCount, stackCount, portCount, rowCountAll]; done)
    | (exfalso; simp_all [tileCount, stackCount, portCount, rowCountAll]; omega)
    | (exfalso; omega)

theorem execI3cDynamicAddress_runs (setdasa : Bool) (static : Nat) (addr : Nat) (s : State) : Runs (execI3cDynamicAddress setdasa static addr s) := by
  have hw := True.intro
  unfold execI3cDynamicAddress
  repeat' first
    | exact runs_next _
    | (with_reducible refine runs_ite _ _ _ (fun _ => ?_) (fun _ => ?_))
    | split
    | (simp only [])
    | exact absurd hw ‹_›
    | exact hw
    | (exfalso; simp_all [tileCount, stackCount, portCount, rowCountAll]; done)
    | (exfalso; simp_all [tileCount, stackCount, portCount, rowCountAll]; omega)
    | (exfalso; omega)

end Sys2Proof.Machine
end

