-- ==== Sys2Proof/Tests/Slice0.lean ====
section
/-! SUPPORT. The model's own tests: ill-formed commands are refused, values the spec prints come out, and every clause of the
statements has a state and operands that meet its hypotheses. -/

namespace Sys2Proof.Tests

set_option Elab.async false

open Sys2Proof Sys2Proof.Machine

/-- Does a command answer a next state with a property? -/
def leaves (r : Host.Outcome State Fault Refusal) (f : State → Bool) : Bool :=
  match r with
  | .next t => f t
  | _ => false

/-- Does a command answer this state? -/
def gives (r : Host.Outcome State Fault Refusal) (t : State) : Bool := leaves r (fun u => u == t)

/-! ## Well-formedness: one ill-formed command for each check (R11, Table 0.3) -/

theorem test_illformed_tile : (Instr.sequencerStep 4800).wf = false ∧ (Instr.sequencerStep 4799).wf = true := by decide
theorem test_illformed_bank : (Instr.patternLoad 0 4 false).wf = false ∧ (Instr.patternLoad 0 3 false).wf = true := by decide
theorem test_illformed_port : (Instr.flitTransmit 32).wf = false ∧ (Instr.flitTransmit 31).wf = true := by decide
theorem test_illformed_stack : (Instr.dramRefresh 8).wf = false ∧ (Instr.dramRefresh 7).wf = true := by decide
theorem test_illformed_partition : (Instr.lotEnd 12).wf = false ∧ (Instr.lotEnd 11).wf = true := by decide
theorem test_illformed_page : (Instr.doorbellWrite 16 0).wf = false ∧ (Instr.doorbellWrite 15 0).wf = true := by decide
theorem test_illformed_rail : (Instr.railFailure 7 0).wf = false ∧ (Instr.railFailure 1 8).wf = false
    ∧ (Instr.railFailure 6 16).wf = false ∧ (Instr.railFailure 2 7).wf = true ∧ (Instr.railFailure 6 15).wf = true := by decide
theorem test_illformed_trigger : (Instr.emergencyTrigger 5).wf = false ∧ (Instr.emergencyTrigger 4).wf = true := by decide
theorem test_illformed_module : (Instr.ucieModuleFence 0 8).wf = false ∧ (Instr.ucieModuleFence 0 7).wf = true := by decide
theorem test_illformed_lanes : (Instr.portSignalDetect 0 16).wf = false ∧ (Instr.portSignalDetect 31 15).wf = true := by decide
theorem test_illformed_lane : (Instr.lossOfSignal 0 4).wf = false ∧ (Instr.lossOfSignal 31 3).wf = true := by decide
theorem test_illformed_light : (Instr.lightRestored 4).wf = false ∧ (Instr.lightRestored 3).wf = true := by decide
theorem test_illformed_row : (Instr.sliceAbandon 192).wf = false ∧ (Instr.sliceAbandon 191).wf = true := by decide
theorem test_illformed_reset : (Instr.resetComplete 13).wf = false ∧ (Instr.resetComplete 12).wf = true := by decide
theorem test_illformed_vector : (Instr.msixMessage 48).wf = false ∧ (Instr.msixMessage 47).wf = true := by decide
theorem test_illformed_bolt : (Instr.assemblerTimeout 0 Config.shareBolts).wf = false
    ∧ (Instr.assemblerTimeout 11 (Config.shareBolts - 1)).wf = true := by decide
theorem test_illformed_scope : (Instr.resetEscalate 1 12 0 false).wf = false ∧ (Instr.resetEscalate 2 4800 0 false).wf = false
    ∧ (Instr.resetEscalate 3 8 0 false).wf = false ∧ (Instr.resetEscalate 4 32 0 false).wf = false
    ∧ (Instr.resetEscalate 5 12 0 false).wf = false ∧ (Instr.resetEscalate 5 11 0 false).wf = true := by decide

theorem witness_StrayUnitRefused : (Instr.lotEnd 12).wf = false ∧ exec (.lotEnd 12) State.reset = .refused .noSuchUnit :=
  ⟨rfl, rfl⟩
theorem witness_WellFormedCommandsComplete : (Instr.dramRefresh 7).wf = true := by decide
theorem witness_WellFormedQueueRunsToItsEnd :
    ∀ i ∈ ({ State.reset with pending := [.lotEnd 11, .dramRefresh 7] } : State).pending, i.wf = true := by decide
theorem witness_StepKeepsWellFormedQueue :
    ∀ i ∈ ({ State.reset with pending := [.bellGuardStart] } : State).pending, i.wf = true := by decide
theorem witness_CommandsKeepTheQueue :
    leaves (exec .perstRelease { State.reset with pending := [.wfi 0] }) (fun t => t.pending == [.wfi 0]) = true := by decide

/-! ## Start and power -/

/-- Some domains on. -/
def withDoms (s : State) (ds : List Nat) : State :=
  { s with power := { s.power with domains := ds.foldl (fun m d => kvSet .off m d .on) s.power.domains } }
/-- A start's phase. -/
def inPhase (s : State) (n : Nat) : State := { s with start := { s.start with phase := n } }
/-- A module that has its input, whose Reeve runs the firmware of slot A, and which is ready. -/
def readyState : State :=
  withDoms { State.reset with
    pins := { State.reset.pins with inputGood := true, pwrgd := true }
    start := { State.reset.start with phase := 8, ready := true, runSlot := 1 } } [92, 93, 94]

theorem witness_StartBeginsAndPciResets :
    (State.reset.pins.inputGood = false ∧ State.reset.pins.alertN = true ∧ State.reset.pins.thermtripN = true
      ∧ State.reset.pins.mrstN = true)
    ∧ leaves (exec (.inputGood 40000) State.reset) (fun t => t.start.phase == 1 && t.start.number == 1 && !t.start.ready) = true
    ∧ leaves (exec (.inputGood 60000) State.reset) (fun t => t.start.phase == 1) = true
    ∧ leaves (exec .mrstNRelease { readyState with pins := { readyState.pins with mrstN := false } })
      (fun t => t.start.phase == 1 && t.pins == { readyState.pins with mrstN := true }) = true := by decide +kernel

theorem witness_StepRunsFrontCommandOrCycles :
    (readyState.pending = [] ∧ readyState.start.phase ≠ 0 ∧ State.reset.pending = [] ∧ State.reset.start.phase = 0)
    ∧ leaves (step readyState) (fun t => t.clk.cycles == 1 && t.clk.intvCc == 1) = true
    ∧ leaves (step { readyState with pending := [.perstRelease] }) (fun t => t.pins.perstN && t.pending == []) = true := by
  decide +kernel
/-- The table gives its rows no bits: no word spells a command. -/
theorem test_noTableWords : decodeTableWord 32 5 = none ∧ (State.reset.withFetchWord 32 5).pending = [] := by decide

theorem witness_PowerLoss :
    (readyState.pins.mrstN = true ∧ readyState.pins.thermtripN = true ∧ readyState.start.phase ≠ 0 ∧ domOn readyState 92 = true)
    ∧ leaves (exec .mrstNAssert readyState) (fun t => t.start.phase == 1 && domOn t 92 && !(domOn t 93)
      && t.pins == { readyState.pins with mrstN := false, lreqN := 0xF }) = true
    ∧ leaves (exec .thermalTrip readyState) (fun t => t.start.phase == 0 && domOn t 92 && !(domOn t 93)
      && t.pins == { readyState.pins with lreqN := 0xF, thermtripN := false, thermLatched := true }) = true
    ∧ leaves (exec .inputProtectOff readyState) (fun t => gives (exec (.railFailure 0 9) readyState) t
      && gives (exec .inputRemovalClear readyState) t && !(domOn t 92) && t.pins == { mrstN := true, perstN := false }) = true
    ∧ leaves (exec (.railFailure 6 15) readyState) (fun t => (getPort t 15).fenced && (getPort t 31).fenced) = true
    ∧ (spineFailure readyState).pins.alertN = false ∧ (spineFailure readyState).reeve.cycleReq = true := by decide +kernel

/-- A start that can boot slot A, in phase 1. -/
def bootState : State := inPhase { State.reset with pins := { State.reset.pins with inputGood := true } } 1
/-- A start with no slot that may run. -/
def noSlotState : State := { bootState with start := { bootState.start with slotA := {} } }

theorem witness_StartPhasesInOrder_boot :
    (bootState.start.phase = 1 ∧ bootState.pins.mrstN = true ∧ bootSlot bootState ≠ 0 ∧ bootState.start.lifeCycle ≠ .scrapped)
    ∧ leaves (exec (.startPhaseComplete 5 true [] [] [] []) bootState) (fun t => t.start.phase == 2 && t.pins.pwrgd
      && t.start.runSlot == bootSlot bootState && domOn t 92) = true
    ∧ (bootSlot noSlotState = 0 ∧ noSlotState.start.phase = 1 ∧ noSlotState.pins.mrstN = true)
    ∧ leaves (exec (.startPhaseComplete 5 true [] [] [] []) noSlotState) (fun t => t.start.phase == 0x0F && !t.pins.alertN)
      = true := by decide +kernel
theorem witness_StartPhasesInOrder_between :
    2 ≤ (inPhase readyState 2).start.phase ∧ (inPhase readyState 6).start.phase ≤ 6 := by decide +kernel
theorem witness_StartPhasesInOrder_last :
    leaves (exec (.startPhaseComplete 5 true [] [] [] []) (inPhase readyState 7)) (fun t => t.start.linkDone) = true
    ∧ (inPhase readyState 7).start.blocking = 0 ∧ (inPhase readyState 7).start.linkDone = false := by decide +kernel
/-- The last phase done, the module named. -/
def lastPhase : State :=
  { inPhase readyState 7 with start := { (inPhase readyState 7).start with linkDone := true, ready := false }
                              link := { State.reset.link with modId := 5 } }
theorem witness_StartPhasesInOrder_ready :
    lastPhase.start.phase = 7 ∧ lastPhase.start.linkDone = true ∧ lastPhase.start.runSlot ≠ 0
      ∧ lastPhase.start.lifeCycle ≠ .raw ∧ lastPhase.start.lifeCycle ≠ .scrapped ∧ lastPhase.link.modId ≠ 0x1FFFF := by
  decide +kernel

/-- A module in its bell intervals, on step 2. -/
def stepState : State := { readyState with clk := { readyState.clk with step := 2, steps := [(0x1FFFF, 2)] } }
theorem witness_EmergencyStepsAndSlowNotices_steps :
    (readyState.power.keepAlive = false ∧ 2 ≤ readyState.start.phase ∧ pendStep readyState < 4)
    ∧ leaves (exec (.emergencyTrigger 4) readyState) (fun t => pendStep t == pendStep readyState + 1
      && t.clk.noticeSeq == readyState.clk.noticeSeq + 1 && t == { readyState with clk := t.clk, ports := t.ports }) = true
    ∧ (stepState.clk.step ≠ 0 ∧ ownNotices stepState = [] ∧ stepState.clk.step < 4 ∧ stepState.power.keepAlive = false)
    ∧ leaves (exec (.emergencyStepFurther 0) stepState) (fun t => pendStep t == 3 && t.clk.step == 2
      && t == { stepState with clk := t.clk, ports := t.ports }) = true
    ∧ pendStep stepState ≠ 0
    ∧ leaves (exec .emergencyStepUp stepState) (fun t => pendStep t + 1 == pendStep stepState && t.clk.step == 2
      && t == { stepState with clk := t.clk, ports := t.ports }) = true
    ∧ (let s := { readyState with clk := { readyState.clk with step := 4 } };
      4 ≤ pendStep s ∧ 4 ≤ s.clk.step ∧ s.power.keepAlive = false ∧ pendStep readyState = 0)
    ∧ (let s := { readyState with ports := [(0, { st := 6 }), (1, { st := 6, followOn := false })] };
      portUp (getPort s 0) = true ∧ (getPort s 0).followOn = true ∧ (getPort s 1).followOn = false
      ∧ kvGet [] (getPort (stepAnnounce s 1) 0).txQ 3 ≠ [] ∧ getPort (stepAnnounce s 1) 1 = getPort s 1) := by decide +kernel

/-- A slow notice of module 9 for step `st`, with a sequence and a target bell (Table 17.7). -/
def noticeMsg (sq st : Nat) : List Byte :=
  toLe 48 6 ++ [0x21, BitVec.ofNat 8 st] ++ zeros 2 ++ toLe 4 9 ++ toLe 8 77 ++ toLe 4 sq ++ zeros 44
/-- One port changed. -/
def withPort (s : State) (p : Nat) (f : Port → Port) : State := modPort s p f
/-- A message stands at port 31 for this module. -/
def hereState (s : State) (m : List Byte) : State := withPort s 31 (fun q => { q with st := 6, here := [(0, m)] })

theorem witness_EmergencyStepsAndSlowNotices_notices :
    ((hereFront (hereState readyState (noticeMsg 7 1)) 31 6).map (fun x => x.1) = some (noticeMsg 7 1)
      ∧ fld (mPay (noticeMsg 7 1)) 0 1 = 0x21 ∧ fld (mPay (noticeMsg 7 1)) 1 1 = 1)
    ∧ leaves (exec (.slowNoticeReceive 31) (hereState readyState (noticeMsg 7 1))) (fun t =>
      t.clk.notices == [⟨9, 7, 1, 77⟩] && kvGet 0 t.clk.seqs 9 == 8) = true
    ∧ leaves (exec (.slowNoticeReceive 31)
        (hereState { readyState with clk := { readyState.clk with seqs := [(9, 8)] } } (noticeMsg 7 1)))
      (fun t => t.clk.notices == [] && (getPort t 31).here == []) = true := by decide +kernel

/-- The sideband stands with an address. -/
def sideState : State := { readyState with side := { readyState.side with dynAddr := some 0x3A } }
theorem witness_PowerSampleAndKeepAlive :
    (sideServes sideState = true ∧ sideState.start.ready = true ∧ sideState.power.keepAlive = false ∧ keepBusy sideState = false)
    ∧ keepBusy { sideState with parts := [(11, { lots := [{ number := 1 }] })] } = true
    ∧ leaves (exec (.pldmSetPowerState 1 []) sideState) (fun t => t == pldmAnswer sideState 0 []) = true := by decide +kernel

/-! ## The bell -/

/-- A module in its first interval, all of whose contexts are empty. -/
def bellState : State := readyState
/-- The guard is open. -/
def guardState : State := { bellState with clk := { bellState.clk with guard := true } }
/-- The expected time has come. -/
def expectedState : State :=
  { bellState with clk := { bellState.clk with guard := true, expected := true, intvCc := 1400000, cycles := 5000000 } }

theorem witness_GuardWindowAndHoldSamples_guard :
    bellState.clk.guard = false ∧ bellState.clk.expected = false ∧ guardState.clk.guard = true ∧ guardState.clk.expected = false
    ∧ domOn bellState 93 = true ∧ domOn guardState 93 = true ∧ domOn State.reset 93 = false := by
  decide +kernel
theorem witness_BellFiresWhenReady :
    (expectedState.clk.expected = true ∧ domOn expectedState 93 = true ∧ moduleReady expectedState = true
      ∧ fireCc expectedState ≤ expectCc expectedState + holdCc expectedState)
    ∧ (fireCc { expectedState with clk := { expectedState.clk with intvCc := 1428001 } }
      = expectCc expectedState + holdCc expectedState + 1) := by decide +kernel
theorem witness_BellPeriodInCycles :
    expectedState.clk.periodUs = 1000 ∧ domOn expectedState 93 = true ∧ moduleReady expectedState = true ∧ moduleDone expectedState ≤ 1400 * 1000
    ∧ expectedState.clk.intvCc ≤ 1400 * 1000 ∧ expectedState.clk.extCc = 0 ∧ expectedState.clk.expectDelay = 0
    ∧ intvLen { expectedState with clk := { expectedState.clk with periodUs := 20 } } = 28000 := by decide +kernel

/-- A tile of partition 0 whose sequencer has not come to its wait. -/
def lateState : State := setTile expectedState 0 { st := .active, installed := true, seq := { run := true } }
theorem witness_OverrunAndAbortNotice_overrun :
    lateState.clk.expected = true ∧ domOn lateState 93 = true ∧ overrunCtx lateState 0 = true ∧ replaying lateState 11 = false
    ∧ moduleReady lateState = false := by decide +kernel
/-- A lot-abort notice of module 9 for interval 3 and its lot 7. -/
def abortMsg : List Byte := patch (zeros 48) 0 ([5] ++ zeros 7 ++ toLe 4 9 ++ zeros 4 ++ toLe 8 3 ++ toLe 8 7)
theorem witness_OverrunAndAbortNotice_abort :
    (hereFront (hereState readyState abortMsg) 31 5).map (fun x => x.1) = some abortMsg
    ∧ leaves (exec (.lotAbortNoticeReceive 31) (hereState readyState abortMsg)) (fun t =>
      t.link.abandoned == [⟨9, 7, 0, 3⟩] && (getPort t 31).here == []) = true := by decide +kernel
/-- A switch of partition 11 due at the next bell. -/
def switchState : State :=
  { readyState with reeve := { readyState.reeve with changes := [⟨1, 0x11, 2 ^ 11, 1, [3], false, 0, [], 0⟩] } }
theorem witness_GuardWindowAndHoldSamples_window :
    (switchState.clk.guard = false ∧ (switchesDue switchState).length = 1 ∧ switchesDue readyState = [])
    ∧ (lateState.clk.expected = true ∧ moduleReady lateState = false
      ∧ max lateState.clk.holdSample (expectCc lateState) + 4096 < expectCc lateState + holdCc lateState)
    ∧ leaves (exec .watchmanHoldSample lateState) (fun t => t.clk.bell == 0 && t.clk.expected && t.clk.intvCc == 1404096)
      = true := by decide +kernel

/-! ## The tile's engines -/

/-- One byte set in 64. -/
def one (off v : Nat) : List Byte := patch (zeros 64) off (toLe 1 v)
/-- A state with one tile. -/
def tileState (p : Nat) (t : Tile) : State := setTile readyState p t
/-- Work of one unit stands fired on the last tile. -/
def firedState (u : Nat) (d : List Byte) : State := tileState 4799 { fired := [{ unit := u, desc := d }] }
/-- That work. -/
def work (u : Nat) (d : List Byte) : Fired := { unit := u, desc := d }

theorem witness_LoadsAndStepsRun_load :
    loadsDeferred readyState = false ∧ (getTile readyState 4799).st = .idle
    ∧ ((getTile readyState 4799).installed && (getTile readyState 4799).actBank == 3) = false
    ∧ ((getTile (tileState 0 { st := .joining, installed := true }) 0).installed
      && (getTile (tileState 0 { st := .joining, installed := true }) 0).actBank == 1) = false := by decide +kernel

/-- A mutual wait of tiles 1 and 2, with tile 3 waiting on it (Table 14.7): one cycle, and none without the way back. -/
theorem test_watchman_cycles :
    hungCycles [⟨1, 256, [2], 0⟩, ⟨2, 256, [1], 0⟩, ⟨3, 512, [1], 0⟩] = [[1, 2]]
    ∧ hungCycles (standing [⟨1, 256, [2], 0⟩, ⟨2, 256, [1], 0⟩] [⟨1, 256, [2], 1⟩, ⟨2, 256, [1], 0⟩]) = [] := by decide +kernel

/-- A store whose bank 0 has one section: its number and its bytes. -/
def secMem (e : Nat) (bs : List Byte) : Mem :=
  memWrite (memWrite [] (bankBase 0 + 0x38 + 8 * e) (toLe 4 0x100 ++ toLe 4 bs.length)) (bankBase 0 + 0x100) bs
/-- An active tile whose sequencer stands at a step word. -/
def stepTile (w : Nat) : Tile :=
  { st := .active, installed := true, seq := { run := true }, store := { mem := secMem 6 (toLe 8 w) } }
theorem witness_LoadsAndStepsRun_step :
    (seqReady (stepTile 5) = true ∧ swCond (seqWord (stepTile 5)) = 0 ∧ (stepFire (stepTile 5) 0).isSome = true
      ∧ swHold (seqWord (stepTile 5)) = 5)
    ∧ (seqReady (stepTile (2 ^ 43 + 4 * 2 ^ 40)) = true ∧ swCond (seqWord (stepTile (2 ^ 43 + 4 * 2 ^ 40))) = 1
      ∧ stepFire (stepTile (2 ^ 43 + 4 * 2 ^ 40)) 0 = none)
    ∧ (seqReady (stepTile (5 * 2 ^ 43)) = true ∧ swCond (seqWord (stepTile (5 * 2 ^ 43))) = 5
      ∧ (stepFire (stepTile (5 * 2 ^ 43)) 0).isSome = true)
    ∧ (swCond (seqWord (stepTile (6 * 2 ^ 43))) = 6 ∧ (stepFire (stepTile (6 * 2 ^ 43)) 0).isSome = true) := by decide +kernel

theorem witness_EnginePassesRun_loom :
    (firstFired (getTile (firedState 0 (one 2 0)) 4799) 0 = some (work 0 (one 2 0))
      ∧ loomReady 0 (getTile (firedState 0 (one 2 0)) 4799) (work 0 (one 2 0)) = true)
    ∧ loomReady 1 (getTile (firedState 0 (one 2 1)) 4799) (work 0 (one 2 1)) = true
    ∧ loomReady 2 (getTile (firedState 0 (one 2 2)) 4799) (work 0 (one 2 2)) = true := by decide +kernel
theorem witness_EnginePassesRun_sparse :
    (firstFired (getTile (firedState 5 (one 0 0)) 4799) 5 = some (work 5 (one 0 0)))
    ∧ scatterIs false (getTile (firedState 0 (one 2 3)) 4799) (work 0 (one 2 3)) = true
    ∧ scatterIs true (getTile (firedState 0 (patch (one 2 3) 3 [1])) 4799) (work 0 (patch (one 2 3) 3 [1])) = true
    ∧ accIs 0 false (getTile (firedState 6 (one 0 0)) 4799) (work 6 (one 0 0)) = true
    ∧ accIs 1 false (getTile (firedState 6 (one 1 1)) 4799) (work 6 (one 1 1)) = true := by decide +kernel
/-- A store whose slot wheel gives every cell to one port. -/
def mapMem (h : Nat) : Mem := secMem 0 ((upto 0 16).flatMap (fun _ => toLe 1 h ++ toLe 1 h ++ [0, 0]))
/-- An active tile whose cells all belong to one port. -/
def mapTile (h : Nat) : Tile := { st := .active, installed := true, store := { mem := mapMem h } }
/-- A shuttle load on such a tile. -/
def shuttleState : State := tileState 4799 { mapTile 10 with fired := [{ unit := 1, desc := one 0 0 }] }
/-- A fuller pass of one lane whose reduction has its tap. -/
def tapTile : Tile :=
  { fired := [{ unit := 3, desc := one 4 1 }, { unit := 4, desc := one 0 0 }], fuller := { tap := some ⟨0, [[7#32]], 0, 1⟩ } }
theorem witness_EnginePassesRun_fuller :
    firstFired tapTile 3 = some { unit := 3, desc := one 4 1 } ∧ timePast tapTile (fulLastIn { unit := 3, desc := one 4 1 }) = true
    ∧ drawsPast tapTile { unit := 3, desc := one 4 1 } = true
    ∧ firstFired tapTile 4 = some { unit := 4, desc := one 0 0 } ∧ (tapTile.fuller.tap.map (fun k => k.step)) = some 0 := by
  decide +kernel
theorem witness_EnginePassesRun_shuttle :
    (shuttleReady (getTile shuttleState 4799) (work 1 (one 0 0)) = true ∧ fld (one 0 0) 1 1 = 0
      ∧ firstFired (getTile shuttleState 4799) 1 = some (work 1 (one 0 0))
      ∧ (streamRead (ctxOf shuttleState 4799) 10 0 (fld (one 0 0) 4 4) (blockBytes (fld (one 0 0) 2 1))).2.abort = false)
    ∧ firstFired (getTile (firedState 9 (one 2 1)) 4799) 9 = some (work 9 (one 2 1)) := by decide +kernel

/-- A pass whose reports stop no tile. -/
theorem witness_EnginePassesRun_end :
    (let r := sievePass (work 5 (one 0 0)) (ctxOf (firedState 5 (one 0 0)) 4799);
      r.2.p = 4799 ∧ r.2.sigs.all (fun g => match g with | .stop _ _ => false | _ => true) = true
      ∧ (getTile (passRun 4799 5 sievePass (work 5 (one 0 0)) (firedState 5 (one 0 0))) 4799).fired = []) := by decide +kernel

theorem witness_SmallPassesAndFrames_swap :
    shuttleReady (getTile (firedState 2 []) 4799) (work 2 []) = true
    ∧ leaves (exec (.shuttleSwap 4799) (firedState 2 [])) (fun t => (getTile t 4799).loom.activeB
      && (getTile t 4799).loom.swaps == [0] && (getTile t 4799).fired == []) = true := by decide +kernel
/-- A clear-only drain of the bins on tile 0. -/
def clearState : State :=
  tileState 0 { fired := [work 6 (patch (one 2 2) 1 [1])], sparse := { bins := [(5, 1#32)], gran := [(3, none)] } }
theorem witness_SmallPassesAndFrames_clear :
    (accIs 0 true (getTile (firedState 6 (one 2 2)) 4799) (work 6 (one 2 2)) = true
      ∧ accIs 0 true (getTile (firedState 6 (patch (one 2 2) 1 [1])) 4799) (work 6 (patch (one 2 2) 1 [1])) = true)
    ∧ leaves (exec (.accumulatorClearOnly 0) clearState)
      (fun t => (getTile t 0).sparse == { gran := [(3, none)] } && (getTile t 0).fired == []) = true := by decide +kernel
/-- A reduction result that stands ready: its destination, its values. -/
def resultState (dest : Nat) (pair : Bool) : State :=
  tileState 4799 { mapTile 5 with fuller := {
    redPend := some { dest := dest, addr := 64, vals := [5#32, 6#32], pair := pair, readyCc := 9, ready := [9, 9] }, res1 := 3#32 } }
theorem witness_SmallPassesAndFrames_result :
    (timePast (getTile (resultState 1 false) 4799) 9 = true ∧ (getTile (resultState 0 false) 4799).st ≠ .pinfold)
    ∧ leaves (exec (.reductionResultWrite 4799) (resultState 0 false)) (fun t =>
      (getTile t 4799).fuller.res0 == 5#32 && (getTile t 4799).fuller.res1 == 3#32) = true
    ∧ leaves (exec (.reductionResultWrite 4799) (resultState 0 true)) (fun t => (getTile t 4799).fuller.res1 == 6#32) = true
    ∧ leaves (exec (.reductionResultWrite 4799) (resultState 1 true)) (fun t =>
      memRead (getTile t 4799).store.mem 64 8 == toLe 4 5 ++ toLe 4 6) = true := by decide +kernel
/-- A wake that finds one pending. -/
def wakeTile : Tile := { fired := [{ unit := 10, step := 17 }], clerk := { wakePend := true } }
theorem witness_SequencerWakesTheClerk :
    leaves (exec (.clerkWake 4799) (tileState 4799 wakeTile)) (fun t => (getTile t 4799).clerk.wakeStep == 17
      && (getTile t 4799).clerk.wakeLost == 1 && (getTile t 4799).clerk.wakePend && mipOf (getTile t 4799) == 65536) = true
    ∧ (clerkPut 0x856 256 { wakePend := true, wakeLost := 3 }).wakeLost = 0
    ∧ (clerkPut 0x856 0x200 { wakePend := true, wakeLost := 3 }).wakeLost = 3 := by decide +kernel
theorem witness_SmallPassesAndFrames_frame :
    leaves (exec (.sievePass 4799) (firedState 5 (one 0 0))) (fun t => t.mems == readyState.mems && t.clk == readyState.clk)
      = true := by decide +kernel

/-- A DMA descriptor of an op stands at the front of the last tile's queue. -/
def dmaState (op : Nat) : State :=
  tileState 4799 { mapTile 7 with dma := { queue := [{ desc := patch (one 1 op) 0xC [1], ctr := 0, begun := 0, step := 0, descIdx := 0 }] } }
theorem witness_DmaAndTokens_dma :
    ((dmaFront (getTile (dmaState 0) 4799) 0).isSome && (dmaFront (getTile (dmaState 1) 4799) 1).isSome
      && (dmaFront (getTile (dmaState 2) 4799) 2).isSome && (dmaFront (getTile (dmaState 3) 4799) 3).isSome
      && (dmaFront (getTile (dmaState 4) 4799) 4).isSome) = true
    ∧ readReady 4799 (dmaState 1) { desc := patch (one 1 1) 0xC [1], ctr := 0, begun := 0, step := 0, descIdx := 0 } = true
    ∧ leaves (exec (.memoryWrite 4799) (dmaState 0)) (fun t => (getTile t 4799).dma.fout.length == 1
      && (dmaFront (getTile t 4799) 0).isNone) = true
    ∧ leaves (exec (.memoryRead 4799) (dmaState 1)) (fun t => freeTags (getTile t 4799).dma == upto 16 16) = true := by
  decide +kernel
/-- A multicast store write whose mask is the line at address 64. -/
def castWrite (line : List Byte) : State :=
  tileState 4799 { mapTile 7 with
    store := { mem := memWrite (mapMem 7) 64 line }
    dma := { queue := [{ desc := patch (patch (patch (one 1 2) 2 [1]) 0xC [1]) 0x18 [64], ctr := 0, begun := 0, step := 0, descIdx := 0 }] } }
theorem witness_DmaAndTokens_mask :
    (dmaFront (getTile (castWrite []) 4799) 2).isSome = true
    ∧ maskListed (outMask (castWrite (List.replicate 64 1)) 4799 64).1 = true ∧ maskListed (outMask (castWrite []) 4799 64).1 = false
    ∧ leaves (exec (.storeWrite 4799) (castWrite (List.replicate 64 1))) (fun t => (getTile t 4799).dma.fout.length == 1
      && (getTile t 4799).stop.isNone) = true
    ∧ leaves (exec (.storeWrite 4799) (castWrite [])) (fun t => (getTile t 4799).stop.isSome) = true := by decide +kernel
/-- A token send of an op fired on tile 0, whose outbound entry 15 holds one credit. -/
def tokenState (op : Nat) : State :=
  tileState 0 { fired := [{ unit := 11, desc := patch (one 1 op) 2 [15] }], outCredits := [(15, 1)] }
theorem witness_DmaAndTokens_tokens :
    (firstFired (getTile (tokenState 0) 0) 11 = some { unit := 11, desc := patch (one 1 0) 2 [15] }
      ∧ tokenIs 0 { unit := 11, desc := patch (one 1 0) 2 [15] } = true ∧ credits (getTile (tokenState 0) 0) 15 ≠ 0)
    ∧ leaves (exec (.channelTokenSend 0) (tokenState 0)) (fun t => credits (getTile t 0) 15 == 0) = true
    ∧ tokenIs 1 { unit := 11, desc := patch (one 1 1) 2 [15] } = true
    ∧ tokenIs 2 { unit := 11, desc := patch (one 1 2) 2 [15] } = true := by decide +kernel
/-- A bolt waits for fabric-out on a tile whose cells belong to a port. -/
def outState (h : Nat) : State := tileState 4799 { mapTile h with dma := { fout := [{ op := 0, dest := 0, sAddr := 0, addr := 0 }] } }
theorem witness_StoreTrafficMoves :
    (let j : OutJob := { op := 0, dest := 0, sAddr := 0, addr := 0 };
      foutLive (getTile (outState 0) 4799) = true ∧ outCells (ctxOf (outState 0) 4799) j = false
      ∧ outCells (ctxOf (outState 7) 4799) j = true ∧ outTags (getTile (outState 7) 4799).dma j ≠ []
      ∧ outTagCount { j with op := 2 } = 0)
    ∧ gentCell 0 (ctxOf (tileState 4799 (mapTile 9)) 4799) ⟨8191, [(2, 7)]⟩ = true
    ∧ portCell (ctxOf (tileState 4799 (mapTile 0)) 4799) 0 (lineBank (64 * 8191)) 0 = true
    ∧ (getTile (outState 7) 4799).st ≠ .pinfold
    ∧ leaves (exec (.gatherBufferDrain 4799) (tileState 4799 { mapTile 9 with store := { mem := mapMem 9, gbuf := [⟨1, [(2, 7)]⟩] } }))
      (fun t => memByte (getTile t 4799).store.mem 66 == 7 && (getTile t 4799).store.gbuf == []) = true
    ∧ leaves (exec (.eccWriteBack 4799) (tileState 4799 { mapTile 0 with store := { mem := mapMem 0, wbq := [64], bad := [(8, 1), (9, 2)] } }))
      (fun t => (getTile t 4799).store.wbq == [] && (getTile t 4799).store.bad == [(9, 2)]
        && (getTile t 4799).store.mem == mapMem 0) = true
    ∧ leaves (exec (.fabricInWrite 4799) (tileState 4799 { store := { fin := [{ kind := 0xB, vc := 1, sub := 1 }] } }))
      (fun t => (getTile t 4799).store.fin == []) = true := by decide +kernel

/-! ## The clerk -/

/-- A running clerk at address 0 of a word, on an active tile whose cells are all the clerk's. -/
def clerkTile (w : Nat) : Tile := { mapTile 9 with clerk := { run := .running, im := memWrite [] 0 (toLe 4 w) } }
/-- That tile as tile 4799. -/
def clerkState (w : Nat) : State := tileState 4799 (clerkTile w)
/-- The instruction it fetches. -/
def fetched (s : State) : Fetched := match fetch (getTile s 4799).clerk with
  | .inr i => i
  | .inl _ => ⟨0, 0, .illegal⟩
/-- Can it issue its instruction as a row's? -/
def canIssue (s : State) (k : CKind) : Bool :=
  decide (4799 < 4800) && clerkLive (getTile s 4799) && !(windowStalls (getTile s 4799) k) && (pendingIrq (getTile s 4799)).isNone
  && decide (fetch (getTile s 4799).clerk = .inr (fetched s)) && decide (kindOf (fetched s).ins = k) && !(bpHit (getTile s 4799))
  && decide ((fetched s).ins ≠ .ebreak) && (insExc s 4799 (fetched s)).isNone
theorem canIssue_issues (s : State) (k : CKind) (h : canIssue s k = true) : issues s 4799 (fetched s) k := by
  simp only [canIssue, Bool.and_eq_true, decide_eq_true_eq, Bool.not_eq_true', Option.isNone_iff_eq_none] at h
  obtain ⟨⟨⟨⟨⟨⟨⟨⟨a, b⟩, c⟩, d⟩, e⟩, f⟩, g⟩, i⟩, j⟩ := h
  exact ⟨a, b, c, d, e, f, g, i, j⟩

theorem witness_ClerkInstructionsRetire_base :
    canIssue (imUpset (clerkState 0x00500093) 4799 []) .base = true ∧ (fetched (clerkState 0x00500093)).ins = .aluI 0 1 0 5
    ∧ canIssue (imUpset (clerkState 0xF14022F3) 4799 []) .base = true ∧ (fetched (clerkState 0xF14022F3)).ins = .csr 2 5 0 0xF14
    ∧ leaves (exec (.clerkInstruction 4799 []) (clerkState 0x00500093)) (fun t => xGet (getTile t 4799).clerk 1 == 5
      && (getTile t 4799).clerk.pc == 4 && (getTile t 4799).clerk.minstret == 1) = true := by decide +kernel
theorem witness_ClerkInstructionsRetire_memory :
    (canIssue (clerkState 0x00002083) .load = true ∧ (fetched (clerkState 0x00002083)).ins = .load 2 1 0 0
      ∧ clerkCell (clerkState 0x00002083) 4799 0 = true)
    ∧ (canIssue (clerkState 0x04102023) .store = true ∧ (fetched (clerkState 0x04102023)).ins = .store 2 0 1 64
      ∧ storeRoom (clerkState 0x04102023) 4799 64 4 = true) := by decide +kernel
/-- Loop instructions: xl.rep 1, x0, 4; xl.repi 0, 3, 4095; xl.quit 1. -/
theorem witness_ClerkInstructionsRetire_loops :
    (canIssue (clerkState (0x2B + 2 ^ 7 + 2 ^ 12 + 4 * 2 ^ 20)) .rep = true
      ∧ (fetched (clerkState (0x2B + 2 ^ 7 + 2 ^ 12 + 4 * 2 ^ 20))).ins = .rep 1 0 4)
    ∧ (canIssue (clerkState (0x2B + 2 * 2 ^ 12 + 3 * 2 ^ 15 + 4095 * 2 ^ 20)) .repi = true
      ∧ (fetched (clerkState (0x2B + 2 * 2 ^ 12 + 3 * 2 ^ 15 + 4095 * 2 ^ 20))).ins = .repi 0 3 4095)
    ∧ (canIssue (clerkState (0x2B + 2 ^ 7 + 3 * 2 ^ 12)) .quit = true
      ∧ (fetched (clerkState (0x2B + 2 ^ 7 + 3 * 2 ^ 12))).ins = .quit 1) := by decide +kernel
/-- A clerk that has not seen bell 2 ^ 32 - 1. -/
def unseenState : State :=
  { clerkState (0x2B + 31 * 2 ^ 7 + 4 * 2 ^ 12) with clk := { readyState.clk with bell := 2 ^ 32 - 1 } }
theorem witness_ClerkInstructionsRetire_bell :
    canIssue unseenState .bell = true ∧ (fetched unseenState).ins = .bellWait 31
    ∧ (getTile unseenState 4799).clerk.bellSeen ≠ BitVec.ofNat 32 (ctxBell unseenState (physPart 4799))
    ∧ leaves (exec (.bellWait 4799) unseenState) (fun t => xGet (getTile t 4799).clerk 31 == 0xFFFFFFFF#32) = true := by
  decide +kernel
theorem witness_ClerkInstructionsRetire_reserved :
    (canIssue (clerkState 0x100020AF) .lr = true ∧ (fetched (clerkState 0x100020AF)).ins = .lr 1 0
      ∧ clerkCell (clerkState 0x100020AF) 4799 0 = true)
    ∧ (canIssue (clerkState 0x1830212F) .sc = true ∧ (fetched (clerkState 0x1830212F)).ins = .sc 2 0 3
      ∧ clerkCell (clerkState 0x1830212F) 4799 0 = true)
    ∧ (canIssue (clerkState 0x0FF0000F) .fence = true ∧ drainsAll (clerkState 0x0FF0000F) 4799 = true)
    ∧ canIssue (clerkState 0x0000100F) .fenceI = true ∧ canIssue (clerkState 0x30200073) .mret = true := by decide +kernel
/-- A clerk at WFI with a wake pending and enabled, MIE clear. -/
def wfiState (pend : Bool) : State :=
  modClerk (clerkState 0x10500073) 4799 (fun k => { k with wakePend := pend, mie := 0x10000#32 })
theorem witness_ClerkInstructionsRetire_wfi :
    (canIssue (wfiState true) .wfi = true ∧ Nat.land (mipOf (getTile (wfiState true) 4799)) 0x10000 ≠ 0)
    ∧ (canIssue (wfiState false) .wfi = true ∧ Nat.land (mipOf (getTile (wfiState false) 4799)) 0x10000 = 0) := by decide +kernel

/-- Loop level 0 armed by Table 8.5's example. -/
theorem witness_ClerkInstructionResults :
    (lpArm {} 0 4 3#32).2 = none ∧ (lpArm {} 1 4095 0#32).2 = some 8194
    ∧ (getTile (clerkState 0) 4799).clerk.resv ≠ some 0
    ∧ ({ resv := some 64 } : Clerk).resv = some (127 / 64 * 64) ∧ ({ lpStatus := 3 } : Clerk).lpStatus < 4 := by decide +kernel
/-- Table 8.5: an ECALL that ends a body leaves PEND0, and the return to the body's end runs the owed test. -/
def loopClerk (n : Word) : Clerk :=
  { lpStart := [(0, 8)], lpEnd := [(0, 16)], lpCount := [(0, n)], lpStatus := 5, mepc := 16, inTrap := true, mpie := true }
theorem test_owed_loop_test :
    (mretExec (loopClerk 3)).pc = 8 ∧ kvGet 0 (mretExec (loopClerk 3)).lpCount 0 = 2 ∧ (mretExec (loopClerk 3)).lpStatus = 1
    ∧ (mretExec (loopClerk 1)).pc = 16 ∧ (mretExec (loopClerk 1)).lpStatus = 0 ∧ (mretExec (loopClerk 1)).mie3 = true := by
  decide +kernel

/-- More of a store's bank 0: a section at 0x200. -/
def addSec (m : Mem) (e : Nat) (bs : List Byte) : Mem :=
  memWrite (memWrite m (bankBase 0 + 0x38 + 8 * e) (toLe 4 0x200 ++ toLe 4 bs.length)) (bankBase 0 + 0x200) bs
/-- A clerk at a CSR instruction, with every channel granted one entry and every outbound entry one credit, or none. -/
def csrState (f3 rd src c : Nat) (granted : Nat) : State :=
  let w := c * 2 ^ 20 + src * 2 ^ 15 + f3 * 2 ^ 12 + rd * 2 ^ 7 + 0x73
  tileState 4799 { clerkTile w with
    store := { mem := addSec (mapMem 9) 2 ((upto 0 8).flatMap (fun _ => toLe 4 granted)
      ++ (upto 0 16).flatMap (fun _ => [0, 0, 0] ++ toLe 1 granted ++ zeros 4)) }
    chans := [(7, [⟨toLe 64 9, false, 0⟩])], outCredits := [(0, granted)] }
theorem witness_ClerkCsrRowsAndEffects_queues :
    (canIssue (csrState 2 5 0 0x847 1) .qpop = true ∧ (chan (getTile (csrState 2 5 0 0x847 1) 4799) 7).isEmpty = false)
    ∧ leaves (exec (.qpopRead 4799) (csrState 2 5 0 0x847 1)) (fun t => xGet (getTile t 4799).clerk 5 == 9
      && chan (getTile t 4799) 7 == []) = true
    ∧ canIssue (modClerk (csrState 2 5 0 0x86F 1) 4799 (fun k => { k with qsel := 7 })) .qw = true
    ∧ (canIssue (csrState 1 0 1 0x851 1) .qsend = true ∧ (qsendPut (csrState 1 0 1 0x851 1) 4799 0).isSome = true)
    ∧ (canIssue (csrState 1 0 1 0x859 1) .imFill = true ∧ csrReads 1 0 = false
      ∧ fillCells (csrState 1 0 1 0x859 1) 4799 0 = true) := by decide +kernel
theorem witness_ClerkCsrRowsAndEffects_rows :
    canIssue (csrState 1 0 1 0x855 0) .seqFlags = true ∧ canIssue (csrState 1 0 1 0x853 0) .bellHold = true
    ∧ canIssue (csrState 1 0 1 0x856 0) .clkStatus = true ∧ canIssue (csrState 1 0 1 0x85C 0) .clkFail = true
    ∧ canIssue (csrState 1 0 1 0x897 0) .rtSel = true ∧ canIssue (csrState 2 5 0 0x817 0) .amax = true
    ∧ canIssue (csrState 2 5 0 0x818 0) .counter = true ∧ canIssue (csrState 1 0 1 0x850 0) .csrWrite = true
    ∧ (chan (getTile (csrState 2 5 0 0x847 1) 4799) 0 = [])
    ∧ (credits (getTile (csrState 1 0 1 0x851 0) 4799) 0 = 0 ∧ bitAt 0x100 8 = true ∧ bitAt 0xF 8 = false) := by decide +kernel
/-- A return to an end at which both levels' tests are owed. -/
def owedClerk (n0 n1 : Word) : Clerk :=
  { lpStart := [(0, 8), (1, 12)], lpEnd := [(0, 16), (1, 16)], lpCount := [(0, n0), (1, n1)], lpStatus := 15, mepc := 16 }
theorem witness_ClerkTrapEntryAndReturn_owed :
    (upto 0 2).all (fun lv => bitAt (owedClerk 3 1).lpStatus (2 + lv) && bitAt (owedClerk 3 1).lpStatus lv
      && kvGet 0 (owedClerk 3 1).lpEnd lv == (owedClerk 3 1).mepc) = true
    ∧ (mretExec (owedClerk 3 1)).pc = 8 ∧ (mretExec (owedClerk 3 2)).pc = 12 ∧ (mretExec (owedClerk 1 1)).pc = 16 := by
  decide +kernel
theorem witness_QueueFaultsAndChannelArrival_pop :
    (clerkLive (getTile (csrState 2 5 0 0x847 0) 4799) = true
      ∧ windowStalls (getTile (csrState 2 5 0 0x847 0) 4799) .qpop = false
      ∧ pendingIrq (getTile (csrState 2 5 0 0x847 0) 4799) = none ∧ (fetched (csrState 2 5 0 0x847 0)).ins = .csr 2 5 0 0x847
      ∧ csrLegal (csrState 2 5 0 0x847 0) 4799 2 0 0x847 = true ∧ inGrant (getTile (csrState 2 5 0 0x847 0) 4799) 7 = 0)
    ∧ leaves (exec (.qpopRead 4799) (csrState 2 5 0 0x847 0)) (fun t => (getTile t 4799).clerk.mcause == 25
      && (getTile t 4799).clerk.mtval == 7 && (getTile t 4799).clerk.inTrap && (chan (getTile t 4799) 7).length == 1) = true := by
  decide +kernel
theorem witness_QueueFaultsAndChannelArrival_send :
    leaves (exec (.qwRead 4799) (csrState 2 5 0 0x861 0)) (fun t => (getTile t 4799).clerk.mcause == 25) = true
    ∧ leaves (exec (.qsendWrite 4799) (csrState 5 0 15 0x851 0)) (fun t => (getTile t 4799).clerk.mcause == 25
      && (getTile t 4799).clerk.mtval == 256 + 15) = true
    ∧ pendingIrq { csrState 1 0 1 0x850 0 |> fun s => getTile s 4799 with
        clerk := { qirq := 128, mie3 := true, mie := 0x40000#32 } } = some 0x80000012 := by decide +kernel
theorem witness_ClerkTrapEntryAndReturn :
    (clerkLive (getTile (imUpset (clerkState 0x00000073) 4799 []) 4799) = true
      ∧ insExc (imUpset (clerkState 0x00000073) 4799 []) 4799 (fetched (clerkState 0x00000073)) = some (11, 0))
    ∧ leaves (exec (.trapEntry 4799 []) (clerkState 0x00000073)) (fun t => (getTile t 4799).clerk.mcause == 11
      && (getTile t 4799).clerk.inTrap) = true
    ∧ pendingIrq (getTile (modClerk (wfiState true) 4799 (fun k => { k with mie3 := true })) 4799) = some 0x80000010
    ∧ leaves (exec (.trapEntry 4799 []) (modClerk (wfiState true) 4799 (fun k => { k with mie3 := true, mtvec := 0x101 })))
      (fun t => (getTile t 4799).clerk.pc == 0x140 && (getTile t 4799).clerk.mcause == 0x80000010#32) = true := by decide +kernel

/-! ## The mesh and the memory -/

/-- A packet waits at an input of tile 0's router, virtual channel v. -/
def routedState (input v : Nat) (k : Packet) : State :=
  tileState 0 { router := { row := 0, col := 0, bufs := [(3 * input + v, { pkt := some k, seq := 5, cc := 2 })] } }
/-- A channel token from tile 0 to the logical tile 1. -/
def tokenPkt : Packet := { kind := 1, vc := 2, dest := 1, src := 0 }
/-- Two inputs of tile 0 present packets for its output L: one of input W from cycle 3, one of input N from cycle 3, later. -/
def rivalState : State :=
  tileState 0 { router := { bufs := [(5, { pkt := some { tokenPkt with dest := 0 }, seq := 9, cc := 3 }),
    (14, { pkt := some { tokenPkt with dest := 0, sub := 1 }, seq := 4, cc := 3 })] } }
/-- An arrival, or a raise, of identifier 7 with root 0. -/
def memberPkt (kind : Nat) : Packet := { kind := kind, vc := 2, sub := 7, key := 5, payload := zeros 64 }
theorem witness_RoutersAndCombiners :
    (logOf (routedState 0 2 tokenPkt) 0 = some 0
      ∧ (pick (candidates (routedState 0 2 tokenPkt) 0 3)).map (fun c => c.pkt) = some tokenPkt)
    ∧ ((candidates rivalState 0 0).map (fun c => (c.input, c.cc)) = [(1, 3), (4, 3)]
      ∧ (pick (candidates rivalState 0 0)).map (fun c => c.input) = some 1)
    ∧ logOf readyState 4798 = some 4607
    ∧ combinePkt (routedState 0 2 (memberPkt 3)) 0 0 3 = some (memberPkt 3)
    ∧ combinePkt (routedState 4 2 (memberPkt 5)) 0 4 5 = some (memberPkt 5)
    ∧ (bitAt (getTile readyState 0).router.flags ((memberPkt 5).sub % 8) = false
      ∧ (memberPkt 5).aux ≠ { readyState.clk with bell := 2 ^ 32 - 1 }.bell % 2 ^ 32)
    ∧ (let r : Router := { flags := 128, flagKeys := [(7, 6)] }
      bitAt r.flags ((memberPkt 5).sub % 8) = true ∧ kvGet 0 r.flagKeys ((memberPkt 5).sub % 8) ≠ (memberPkt 5).key) := by
  decide +kernel

/-- An arrival of identifier 7 for root 0 from the members that rows 0 and columns 0 and 1 name, or column 0 alone. -/
def arrivePkt (cols : Nat) : Packet :=
  { kind := 3, vc := 2, sub := 7, key := 5, payload := toLe 6 1 ++ zeros 2 ++ toLe 12 cols ++ zeros 44 }
theorem witness_RoutersAndCombiners_expected :
    expectedFrom (logD (routedState 0 2 (arrivePkt 3)) 0) (fld (arrivePkt 3).payload 0x14 2) (maskRows (arrivePkt 3).payload)
      (maskCols (arrivePkt 3).payload) = [0, 3]
    ∧ expectedFrom (logD (routedState 0 2 (arrivePkt 1)) 0) (fld (arrivePkt 1).payload 0x14 2) (maskRows (arrivePkt 1).payload)
      (maskCols (arrivePkt 1).payload) = [0]
    ∧ logD (routedState 0 2 (arrivePkt 1)) 0 = fld (arrivePkt 1).payload 0x14 2 ∧ logD readyState 4798 ≠ fld (arrivePkt 1).payload 0x14 2
    ∧ (arrivePkt 1).aux = readyState.clk.bell % 2 ^ 32 := by decide +kernel

/-- A packet has been ejected at the last tile, in a state of that tile. -/
def ejected (st : TileSt) (k : Packet) : State :=
  tileState 4799 { st := st, installed := true, router := { eject := [k] }, outCredits := [(15, 1)]
                   store := { mem := secMem 2 (zeros 32 ++ zeros 120 ++ toLe 2 4607 ++ [7, 9] ++ zeros 4) }
                   dma := { tags := [(31, 6)], jobs := [{ id := 6, op := 0, group := 3, left := 1 }] } }
theorem witness_SinksDeliver :
    ((ejectTake (ejected .switching { tokenPkt with sub := 7 }) 4799 (fun k => k.kind == 1)).map
        (fun r => (r.1.sub, takesEntries (getTile r.2 4799))) = some (7, true)
      ∧ leaves (exec (.channelEntryDelivery 4799) (ejected .active { tokenPkt with sub := 7 }))
        (fun t => (chan (getTile t 4799) 7).length == 1) = true)
    ∧ (ejectTake (ejected .halted tokenPkt) 4799 (fun k => k.kind == 1)).map (fun r => takesEntries (getTile r.2 4799))
      = some false
    ∧ ((ejectTake (ejected .active { kind := 2, vc := 2, src := 4607, sub := 7, aux := 9 }) 4799 (fun k => k.kind == 2)).map
        (fun r => (upto 0 16).find? (fun i => (getTile r.2 4799).installed && (outEntry (getTile r.2 4799) i).2.2 != 0
          && (outEntry (getTile r.2 4799) i).1 == r.1.src && (outEntry (getTile r.2 4799) i).2.1 == r.1.sub % 8))
        = some (some 15)
      ∧ leaves (exec (.creditReturnDelivery 4799) (ejected .active { kind := 2, vc := 2, src := 4607, sub := 7, aux := 9 }))
        (fun t => credits (getTile t 4799) 15 == 10) = true)
    ∧ (ejectTake (ejected .active (memberPkt 4)) 4799 (fun k => k.kind == 4)).isSome = true
    ∧ (ejectTake (ejected .active (memberPkt 6)) 4799 (fun k => k.kind == 6)).isSome = true
    ∧ (ejectTake (ejected .active { kind := 0xD, vc := 2, sub := 31 }) 4799 (fun k => k.kind == 0xD)).map
      (fun r => (tagJob (getTile r.2 4799).dma r.1.sub).map (fun j => j.id)) = some (some 6) := by decide +kernel

theorem witness_BoltsAreWrittenAndGuarded :
    (List.replicate 4096 (0x5A#8)).length = 4096 ∧ 8388607 < Config.shareBolts ∧ memWf readyState.dram = true
    ∧ ((11, 8388607) : Nat × Nat) ≠ (0, 0)
    ∧ crc32c [1, 2] ≠ 0 ∧ slotTwice (getStack readyState 0) 0 0 = false := by decide +kernel
theorem witness_BoltsAreWrittenAndGuarded_tally : ∃ tally, crc32c [1, 2] = tally := ⟨_, rfl⟩
/-- The check value of R10. -/
theorem witness_TallyIsCrc32c :
    crc32c crcCheckBytes = 0xE3069283 ∧ crcText 0x1EDC6F41#32 crcCheckBytes = 0xE3069283 ∧ crcText 0x1EDC6F41#32 [] ≠ 1
    ∧ (List.replicate 4096 (0x5A#8)).length = 4096 := by decide +kernel

/-- A state with one stack. -/
def stackState (k : Nat) (q : Stack) : State := { readyState with mems := [(k, q)] }
/-- A read of a partition's last bolt under its key. -/
def readPkt : Packet :=
  { kind := 0xA, vc := 0, src := 0, key := 9, addr := 64 * 8388607, table := List.replicate 12 (9, 0) }
/-- A write of it. -/
def writePkt : Packet := { readPkt with kind := 9, vc := 1 }
/-- A mill post under the key. -/
def postPkt : Packet := { writePkt with addr := 0xFFFFFF00, payload := zeros 64 }
theorem witness_StackServesItsClasses :
    (let q : Stack := { inq := [readPkt] };
      q.lost = false ∧ pkAccepted readPkt = true ∧ q.inq.find? isRead = some readPkt ∧ slotClass q = some 0
      ∧ boltWaits q (pkBolt readPkt) readPkt.born false = false ∧ svcRoom q (svcSrc q readPkt) (pkBolt readPkt) = true)
    ∧ (let q : Stack := { inq := [writePkt] };
      pkAccepted writePkt = true ∧ q.inq.find? isWrite = some writePkt ∧ slotClass q = some 1 ∧ writeRoom q writePkt = true)
    ∧ (let r : Remote := { part := 11, bolt := 8388607, key := 9, data := zeros 4096, host := true };
      slotClass { remote := [r] } = some 2 ∧ slotClass { remote := [{ r with data := [1, 2, 3, 4] }] } = some 2
      ∧ r.data.length = 4096 ∧ r.mill = none
      ∧ remoteKeyBad (stackState 7 {}) r = false ∧ remoteKeyBad (stackState 7 {}) { r with host := false } = true
      ∧ slotClass { remote := [{ r with mill := some 6 }] } = some 2)
    ∧ (let pk := { readPkt with key := 8 };
      pkAccepted pk = false ∧ ({ inq := [pk] } : Stack).inq.find? isRead = some pk
      ∧ leaves (exec (.stackReadRequest 7 0 []) (stackState 7 { inq := [pk] })) (fun t => (getStack t 7).keyViol == 1) = true)
    ∧ (let w : WrAsm := { src := 0, part := 0, bolt := 8388607, aux := 0, key := 9, lines := [], tags := upto 0 14 };
      (wrAdd writePkt w).tags.length = 15 ∧ (wrAdd writePkt (wrAdd writePkt w)).tags.length = 16
      ∧ replaying (stackState 7 {}) ((epPart writePkt.src).getD 0) = false ∧ slotTwice (getStack (stackState 7 {}) 7) 0 8388607 = false)
    ∧ (let w : MergeWin := { part := 0, bolt := 0, addr := 0, tag := 0, dline := 0, key := 9, tiles := [0], openCc := 0 }
      w.openCc + 64 ≤ 64 ∧ 63 < w.openCc + 64
      ∧ leaves (exec (.mergeWindowClose 7 0) { stackState 7 { windows := [w] } with clk := { readyState.clk with cycles := 63 } })
        (fun t => (getStack t 7).windows == [w]) = true)
    ∧ (let q : Stack := { inq := [postPkt] };
      q.inq.find? isPost = some postPkt ∧ slotClass q = some 1 ∧ pkAccepted postPkt = true
      ∧ replaying (stackState 7 q) ((epPart postPkt.src).getD 0) = false ∧ millRoom q ((epPart postPkt.src).getD 0) = true) := by
  decide +kernel
/-- A packet whose CRC-32C is its bolt's: the clause of the stored bolt. -/
theorem witness_StackServesItsClasses_tally (w : WrAsm) : ∃ a, crc32c (wrBytes { w with aux := a }) = a := ⟨crc32c (wrBytes w), rfl⟩

/-- A mill descriptor of an op over 1024 or more units, from FP32, with one parameter, for partition 0's bolts from 0 and 65536. -/
def millDesc (op : Nat) : List Byte :=
  patch (zeros 64) 0 ([BitVec.ofNat 8 op, 7, 0, 0] ++ toLe 4 1024 ++ toLe 4 0 ++ toLe 4 65536 ++ zeros 12 ++ [1])
/-- It runs at a mill of partition 0. -/
def millState (k : Nat) (op : Nat) : State := stackState k { running := [(0, some { desc := millDesc op, src := 0xFFFF })] }
/-- A group of a range of 32 bolts lies in each stack. -/
def longDesc (op : Nat) : List Byte := patch (millDesc op) 4 (toLe 4 65536)
theorem witness_MillsAndStackUpkeep_take :
    (kvGet none (getStack (stackState 7 { queues := [(11, [⟨millDesc 1, 0xFFFF, 0, 0, 0, 0, [], []⟩])] }) 7).running 11 = none
      ∧ (kvGet [] (getStack (stackState 7 { queues := [(11, [⟨millDesc 1, 0xFFFF, 0, 0, 0, 0, [], []⟩])] }) 7).queues 11).length = 1
      ∧ millDescOk (patch (millDesc 0x31) 4 (toLe 4 8388608)) = true ∧ millDescOk (patch (millDesc 0x31) 4 (toLe 4 1)) = true)
    ∧ (upto 0 8).all (fun k => (nextGroup readyState k 0 { desc := longDesc 1, src := 0xFFFF }).isSome) = true
    ∧ [1, 2, 3, 0x20, 0x21, 0x30, 0x31].all (fun op => (nextGroup readyState (boltStack 0 0) 0
        { desc := patch (longDesc op) 0x38 (toLe 2 64), src := 0xFFFF }).isSome && fld (longDesc op) 0 1 == op) = true
    ∧ nextGroup readyState 7 0 { desc := longDesc 1, src := 0xFFFF, group := 65536 } = none
    ∧ (readyGroup readyState (boltStack 0 0) 0 { desc := millDesc 0x10, src := 0, arrived := [0] } = some 0
      ∧ fld (millDesc 0x10) 0 1 = 0x10)
    ∧ (kvGet none (getStack (stackState 7 { slotQ := [(11, 3)] }) 7).running 11 = none) := by decide +kernel
theorem witness_MillsAndStackUpkeep_upkeep :
    leaves (exec (.dramRefresh 7) (stackState 7 { refresh := 2 ^ 32 - 1 })) (fun t => (getStack t 7).refresh == 0) = true
    ∧ ((getStack (stackState 7 {}) 7).scrubH ≠ 0 ∧ (getStack (stackState 7 {}) 7).lost = false
      ∧ stackTested (stackState 7 {}) 7 = false ∧ scrubNext readyState (boltStack 0 0) = some 0
      ∧ scrubNext (stackState 7 { scrubPos := 12 * Config.shareBolts }) 7 = none)
    ∧ ((upto 0 4).find? (fun g => decide (16 ≤ kvGet 0 (getStack (stackState 7 { imbalRun := [(3, 16)] }) 7).imbalRun g)) = some 3
      ∧ (upto 0 4).find? (fun g => decide (16 ≤ kvGet 0 (getStack (stackState 7 { imbalRun := [(3, 15)] }) 7).imbalRun g)) = none)
    ∧ (getPart (stackState 7 {}) 11).lost = false
    ∧ (bitAt (getStack (stackState 7 { ucieUp := 0xFF }) 7).ucieUp 7 = true ∧ (getStack (stackState 7 { ucieUp := 0xFF }) 7).lost = false
      ∧ leaves (exec (.ucieModuleFence 7 7) (stackState 7 { ucieUp := 0xFF })) (fun t => !(getStack t 7).lost) = true
      ∧ countOf 8 (bitAt (clrBit 0xFE 7)) < 7 ∧ bitAt (getStack (stackState 7 { ucieUp := 0xFE }) 7).ucieUp 7 = true) := by
  decide +kernel

/-! ## The links -/

/-- A port in a state of Table 11.2, with all four lanes. -/
def portIn (p st : Nat) : State :=
  withPort readyState p (fun q => { q with st := st, signal := 15, present := 15, lanes := 15 })
/-- Every laser input lit. -/
def litState (st : Nat) : State := { portIn 31 st with link := { readyState.link with light := 15 } }
/-- A module outside the domain of a peer whose link-state flit is given. -/
def foreignLs : List Byte := zeros 7 ++ [3] ++ toLe 4 5
/-- Port 31 in a state, in domain 4. -/
def domainState (st : Nat) : State := { portIn 31 st with link := { readyState.link with inDomain := true, domain := 4 } }
theorem witness_LinkTrainingStartsAndEnds_detect :
    ((getPort (litState 1) 31).st = 1 ∧ portLit (litState 1) 31 = true ∧ portLit (portIn 0 1) 0 = true
      ∧ portLit (portIn 31 1) 31 = false
      ∧ leaves (exec (.portSignalDetect 31 15) (litState 1)) (fun t => (getPort t 31).st == 2) = true
      ∧ leaves (exec (.portSignalDetect 31 15) (portIn 31 1)) (fun t => (getPort t 31).st == 1) = true
      ∧ (getPort (portIn 31 2) 31).st = 2 ∧ 2 < (getPort (portIn 31 3) 31).st)
    ∧ ((getPort (portIn 31 2) 31).st = 2 ∧ bitAt (getPort (portIn 31 2) 31).signal 3 = true
      ∧ (getPort (withPort readyState 31 (fun q => { q with st := 2, signal := 8 })) 31).signal = 2 ^ 3) := by decide +kernel
theorem witness_LinkTrainingStartsAndEnds_complete :
    ((getPort (portIn 31 3) 31).st = 3 ∧ (getPort (portIn 31 2) 31).signal ≠ 0
      ∧ leaves (exec (.portTrainingComplete 31 9 7 507 [(3, true)] []) (portIn 31 2)) (fun t => (getPort t 31).peerMod == 9
        && (getPort t 31).st == 5 && (getPort t 31).lat == 505 && (getPort t 31).laneMap == [(3, true)]) = true
      ∧ (getPort (portIn 31 3) 31).expCheck = false ∧ (getPort (portIn 31 3) 31).trained = false ∧ readyState.start.ready = true
      ∧ (inPhase State.reset 6).start.phase < 7 ∧ (inPhase State.reset 6).start.ready = false)
    ∧ (let q : Port := { expCheck := true, expMod := 0x1FFFF, expPort := 31 };
      9 % 2 ^ 17 ≠ q.expMod ∧ (0x1FFFF % 2 ^ 17 = q.expMod ∧ 31 % 32 = q.expPort))
    ∧ leaves (exec (.portTrainingComplete 31 9 7 500 [] []) (withPort readyState 31 (fun q => { q with
        st := 3, signal := 15, expCheck := true, expMod := 0x1FFFF, expPort := 31 }))) (fun t => (getPort t 31).st == 8) = true
    ∧ (bitAt (fld foreignLs 7 1) 0 = true ∧ bitAt (fld foreignLs 7 1) 1 = true ∧ (domainState 3).link.root = false
      ∧ (getPort (domainState 3) 31).followOn = true ∧ (domainState 3).link.inDomain = true
      ∧ fld foreignLs 8 4 % 2 ^ 17 ≠ (domainState 3).link.domain
      ∧ leaves (exec (.portTrainingComplete 31 9 7 500 [] foreignLs) (domainState 3)) (fun t => (getPort t 31).st == 8
        && (getPort t 31).conflict == 1) = true)
    ∧ (let s := { portIn 31 2 with power := { readyState.power with keepAlive := true } };
      s.power.keepAlive = true ∧ fld (zeros 5 ++ [2]) 5 1 % 4 = 2 ∧ fld foreignLs 5 1 % 4 ≠ 2 ∧ (portIn 31 2).power.keepAlive = false
      ∧ leaves (exec (.portTrainingComplete 31 9 7 500 [] []) s) (fun t => (getPort t 31).st == 7 && (getPort t 31).lanes == 1)
        = true) := by decide +kernel

/-- Port 31 in Qualify with the lanes of a mask. -/
def qualState (lanes : Nat) : State := withPort readyState 31 (fun q => { q with st := 4, signal := 15, present := 15, lanes := lanes })
theorem witness_LanesQualifyAndPortsLeaveUp_qualify :
    (lanePasses 100000000 0 50 = true ∧ lanePasses 100000001 0 50 = false ∧ lanePasses 0 0 49 = false ∧ lanePasses 0 1 50 = false)
    ∧ (bitAt (getPort (portIn 31 5) 31).lanes 3 = true ∧ (getPort (portIn 31 5) 31).st = 5 ∧ (getPort (qualState 15) 31).st = 4
      ∧ (getPort (portIn 31 6) 31).st = 6 ∧ (getPort (qualState 15) 31).lanes ≠ 2 ^ 3 ∧ (getPort (qualState 8) 31).lanes = 2 ^ 3
      ∧ (let s := withPort (qualState 15) 31 (fun q => { q with followOn := false });
          (getPort s 31).followOn = false ∧ (getPort s 31).expCheck = false))
    ∧ leaves (exec (.laneQualified 31 3 100000000 0 50 0) (portIn 31 5)) (fun t => (laneOf (getPort t 31) 3).qpass
      && (getPort t 31).st == 5) = true
    ∧ leaves (exec (.laneQualified 31 3 100000001 0 50 0) (portIn 31 5)) (fun t => !(laneOf (getPort t 31) 3).qpass) = true
    ∧ leaves (exec (.laneQualified 31 3 0 1 50 0) (qualState 15)) (fun t => (getPort t 31).st == 4 && (getPort t 31).lanes == 7) = true
    ∧ leaves (exec (.laneQualified 31 3 0 1 50 0) (qualState 8)) (fun t => (getPort t 31).st == 9) = true := by decide +kernel
/-- A port that is Up without its light. -/
def lightless : State := portIn 31 6
theorem witness_LanesQualifyAndPortsLeaveUp_leave :
    (portUp (getPort (portIn 31 6) 31) = true ∧ portUp (getPort (portIn 31 5) 31) = true
      ∧ (getPort (portIn 31 6) 31).firstBell = false ∧ bitAt (getPort (portIn 31 6) 31).lanes 3 = true
      ∧ portTrainable lightless 31 = false ∧ portTrainable (litState 6) 31 = true)
    ∧ portUp (getPort (portIn 31 8) 31) = false
    ∧ (let q : Port := { st := 6, discarding := true, reqTries := 8 };
      portUp q = true ∧ q.discarding = true ∧ 8 ≤ q.reqTries ∧ { q with reqTries := 7 }.reqTries < 8)
    ∧ (2 ≤ (getPort (portIn 31 2) 31).st ∧ bitAt (getPort (portIn 31 2) 31).signal 3 = true
      ∧ bitAt (getPort (withPort readyState 31 (fun q => { q with st := 6, lanes := 7 })) 31).lanes 3 = false
      ∧ bitAt (getPort (withPort readyState 31 (fun q => { q with st := 2, signal := 7 })) 31).signal 3 = false)
    ∧ leaves (exec (.lossOfSignal 31 3) (litState 6)) (fun t => (getPort t 31).signal == 7 && (getPort t 31).st == 2
      && (getPort t 31).exit == 1) = true
    ∧ leaves (exec (.lossOfSignal 31 3) (portIn 31 6)) (fun t => (getPort t 31).st == 1) = true := by decide +kernel

/-- A module whose clock comes from port 31, which has left Up; port 5 is its next source. -/
def clockState : State :=
  withPort { readyState with link := { readyState.link with locked := true, src := 31, clkSrc := 0x859F } } 5
    (fun q => { q with st := 6 })
theorem witness_LightClockAndPortControl_light :
    ([1499, 1500, 0, 65535].length ≤ 4 ∧ ([1499, 1500, 0, 65535] : List Nat)[0]? = some 1499
      ∧ domOn (litState 6) 94 = true ∧ domOn State.reset 94 = false
      ∧ leaves (exec (.laserMonitorSample [1499, 1500, 0, 65535] []) (litState 6)) (fun t => t.link.light == 2) = true)
    ∧ ((getPort (portIn 31 1) 31).st = 1 ∧ (getPort (portIn 31 1) 31).present ≠ 0
      ∧ leaves (exec (.lightRestored 3) (portIn 31 1)) (fun t => (getPort t 31).st == 2) = true)
    ∧ (clockState.link.root = false ∧ clockState.link.locked = true ∧ portFollows clockState clockState.link.src = false
      ∧ clkSource clockState = some 5 ∧ clkSource { clockState with link := { clockState.link with clkSrc := 0x9F } } = none)
    ∧ portFollows { clockState with link := { clockState.link with src := 5 } } 5 = true
    ∧ (let s : State := { readyState with link := { readyState.link with holdover := true } };
      s.link.holdover = true ∧ clkSource s = none ∧ (upto 0 32).all (fun p => (getPort s p).st != 8) = true)
    ∧ readyState.link.holdover = false := by decide +kernel
/-- A state with D95 on too. -/
def fabricOn (s : State) : State := withDoms s [95]
theorem witness_LightClockAndPortControl_control :
    (bitAt (2 ^ 31) 29 = false ∧ bitAt (2 ^ 31) 31 = true ∧ (getPort (fabricOn readyState) 31).fenced = false
      ∧ (getPort (fabricOn readyState) 31).st = 0 ∧ domOn (fabricOn readyState) 95 = true)
    ∧ leaves (exec (.lkCtlEnWrite 31 (2 ^ 31)) (fabricOn readyState)) (fun t => (getPort t 31).st == 1 && domOn t 91) = true
    ∧ (bitAt 0 29 = false ∧ bitAt 0 31 = false ∧ (getPort (withPort readyState 15 (fun q => { q with en := false })) ((31 + 16) % 32)).en = false)
    ∧ (let q : Port := { en := false, fenced := true };
      q.fenced = true ∧ q.en = false ∧ bitAt (2 ^ 31 + 2 ^ 29) 31 = true ∧ bitAt (2 ^ 31 + 2 ^ 29) 29 = true)
    ∧ ((getPort (portIn 31 6) 31).en = true ∧ portUp (getPort (portIn 31 6) 31) = true)
    ∧ leaves (exec (.lkCtlRetrain 31 (2 ^ 31 + 2 ^ 29)) (fabricOn (litState 6))) (fun t => (getPort t 31).st == 2
      && (getPort t 31).exit == 5) = true
    ∧ ((getPort (fabricOn (portIn 31 6)) 31).en = true ∧ (getPort (fabricOn (portIn 31 6)) 31).st ≠ 0
      ∧ leaves (exec (.lkCtlEnWrite 31 (2 ^ 31)) (fabricOn (portIn 31 6))) (fun t => !(getPort t 31).follow && (getPort t 31).followOn)
        = true ∧ domOn readyState 95 = false ∧ domOn readyState 91 = false)
    ∧ (let s := withDoms (withPort readyState 31 (fun q => { q with st := 8, followOn := false })) [91];
      (getPort s 31).st = 8 ∧ (getPort s 31).followOn = false ∧ bitAt 0 31 = false ∧ domOn s (76 + 31 % 16) = true)
    ∧ ((getPort readyState 31).st ≠ 8 ∧ bits (9 + 2 ^ 17 * 7) 16 0 = 9 ∧ bits (9 + 2 ^ 17 * 7) 21 17 = 7)
    ∧ (let s := withDoms (withPort readyState 31 (fun q => { q with st := 6, peerValid := true, peerMod := 9, peerPort := 7 })) [91];
      bits (2 ^ 31 + 9 + 2 ^ 17 * 6) 21 17 ≠ (getPort s 31).peerPort ∧ bits (9 + 2 ^ 17 * 7) 21 17 = (getPort s 31).peerPort
      ∧ (getPort s 31).peerValid = true
      ∧ leaves (exec (.lkPeerExpWrite 31 (2 ^ 31 + 9 + 2 ^ 17 * 6)) s) (fun t => (getPort t 31).st == 8) = true) := by decide +kernel

/-- A port that has a data message of 300 B in a class, and a credit for it. -/
def sendPort (c : Nat) : Port :=
  { st := 6, lanes := 15, txQ := [(c, [zeros 300])], credits := [(c, 1)], ord := if c ≤ 1 then [c] else [], txSeq := 4095
    lastLs := linkStateBody readyState 31 }
/-- That port as port 31. -/
def sendState (c : Nat) : State := withPort readyState 31 (fun _ => sendPort c)
theorem witness_FlitsLeaveByPriority :
    (3 ≤ (getPort (portIn 31 3) 31).st ∧ (getPort (portIn 31 9) 31).st ≤ 9)
    ∧ (let s := withPort (sendState 0) 31 (fun q => { q with bellDue := true, bellActive := true })
      (getPort s 31).bellDue = true ∧ (getPort s 31).bellActive = true)
    ∧ (let s := withPort (sendState 0) 31 (fun q => { q with reqDue := true })
      (getPort s 31).bellDue = false ∧ (getPort s 31).reqDue = true
      ∧ leaves (exec (.flitTransmit 31) s) (fun t => fld (getPort t 31).lastTx 0 1 == 4) = true)
    ∧ (let s := withPort (sendState 0) 31 (fun q => { q with lsCount := 1024 })
      (getPort s 31).resend = none ∧ 1024 ≤ (getPort s 31).lsCount
      ∧ (getPort (withPort s 31 (fun q => { q with lsCount := 1023 })) 31).lsCount < 1024)
    ∧ (upto 0 4).all (fun c => (getPort (sendState c) 31).lastLs == linkStateBody (sendState c) 31
      && dataClass (getPort (sendState c) 31) == some c && decide ((getPort (sendState c) 31).txSeq < 4096)
      && decide ((getPort (sendState c) 31).replay.length < replayFlits 31)
      && leaves (exec (.flitTransmit 31) (sendState c)) (fun t => (getPort t 31).txSeq == 0
        && (getPort t 31).replay.map (fun e => e.1) == [4095] && kvGet [] (getPort t 31).txCur c == zeros 60)) = true
    ∧ (dataClass (getPort (withPort (sendState 0) 31 (fun q => { q with credits := [] })) 31) = none)
    ∧ (let q : Port := { resend := some 4095, replay := [(4095, zeros 256), (0, zeros 256)] }
      q.resend.bind (fun n => q.replay.find? (fun e => e.1 == n)) = some (4095, zeros 256)
      ∧ q.replay.any (fun x => x.1 == (4095 + 1) % 4096) = true ∧ q.replay.any (fun x => x.1 == (0 + 1) % 4096) = false) := by
  decide +kernel

/-- A whole flit: its type, class, sequence, acknowledgement, credit report, and a body. -/
def flit (type cls seq ack c n : Nat) (body : List Byte) : List Byte :=
  flitOf { rxAck := if ack < 4096 then some ack else none, crNext := c, crRet := [(c, n)] } type cls seq 0xFFFF body
theorem flit_whole (type cls seq ack c n : Nat) (body : List Byte) : flitGood (flit type cls seq ack c n body) = true :=
  flitOf_whole _ _ _ _ _ _
/-- A flit comes to port 31 when the port takes flits and the flit's type is right. -/
theorem flit_comes (s : State) (type t cls seq ack c n : Nat) (body : List Byte) (h : 3 ≤ (getPort s 31).st)
    (h9 : (getPort s 31).st ≤ 9) (ht : fld (flit type cls seq ack c n body) 0 1 % 16 = t) :
    flitComes s 31 t (flit type cls seq ack c n body) := ⟨by decide, h, h9, flit_whole _ _ _ _ _ _ _, ht⟩
/-- The check values of R10 and R311. -/
theorem witness_FlitCrcGuardsTheLink_values :
    crc32 crcCheckBytes = 0xCBF43926 ∧ crcText 0x04C11DB7#32 crcCheckBytes = 0xCBF43926 := by decide +kernel
theorem witness_FlitCrcGuardsTheLink_good :
    flitGood (flit 1 0 0 7 0 0 []) = true ∧ flitGood (zeros 252 ++ toLe 4 (crc32 (zeros 252) + 1)) = false :=
  ⟨flit_whole _ _ _ _ _ _ _, flit_badCrc _ List.length_replicate⟩
theorem witness_FlitCrcGuardsTheLink_restored :
    (let f1 := flit 2 0 0 3 3 65535 []
      let f2 := flit 2 0 0 4 3 1 []
      fld f1 6 1 % 4 = fld f2 6 1 % 4 ∧ (fld f1 8 2 + 65536 - 65530) % 65536 + (fld f2 8 2 + 65536 - fld f1 8 2) % 65536 < 65536
      ∧ bitAt (fld f2 4 2) 15 = true
      ∧ (([(3, [0#8]), (4, []), (5, [])] : List (Nat × List Byte)).map (fun e => e.1)).Nodup
      ∧ ([(3, [0#8]), (4, []), (5, [])] : List (Nat × List Byte)).findIdx? (fun e => e.1 == fld f1 4 2 % 4096) = some 0
      ∧ ([(3, [0#8]), (4, []), (5, [])] : List (Nat × List Byte)).findIdx? (fun e => e.1 == fld f2 4 2 % 4096) = some 1) := by
  decide +kernel

/-- A port that expects sequence 4095 and holds flits 8 and 9 for replay. -/
def takeState : State :=
  withPort readyState 31 (fun q => { q with st := 6, rxSeq := 4095, replay := [(8, zeros 256), (9, zeros 256)] })
theorem witness_FlitsAreTakenInOrder_comes :
    flitComes takeState 31 1 (flit 1 0 4095 8 0 0 []) ∧ flitComes takeState 31 1 (flit 1 0 0 8 0 0 [])
    ∧ flitComes takeState 31 2 (flit 2 0 0 4096 3 5 []) ∧ flitComes takeState 31 4 (flit 4 0 0 8 0 0 (toLe 2 9)) :=
  ⟨flit_comes _ _ _ _ _ _ _ _ _ (by decide) (by decide) (by decide +kernel),
   flit_comes _ _ _ _ _ _ _ _ _ (by decide) (by decide) (by decide +kernel),
   flit_comes _ _ _ _ _ _ _ _ _ (by decide) (by decide) (by decide +kernel),
   flit_comes _ _ _ _ _ _ _ _ _ (by decide) (by decide) (by decide +kernel)⟩
theorem witness_FlitsAreTakenInOrder :
    fld (flit 1 0 4095 8 0 0 []) 2 2 % 4096 = (getPort takeState 31).rxSeq
    ∧ fld (flit 1 0 0 8 0 0 []) 2 2 % 4096 ≠ (getPort takeState 31).rxSeq
    ∧ bitAt (fld (flit 2 0 0 4096 3 5 []) 4 2) 15 = false
    ∧ (flitAck (flit 4 0 0 8 0 0 (toLe 2 9)) (getPort takeState 31)).replay.any
      (fun e => e.1 == fld (flit 4 0 0 8 0 0 (toLe 2 9)) 12 2 % 4096) = true
    ∧ (let q : Port := { discarding := true, reqTries := 7 }
      q.discarding = true ∧ q.reqTries < 8) := by decide +kernel

/-- A link-state flit of a module of domain 5 whose bell is 0. -/
def stateFlit : List Byte := flit 5 0 0 4096 0 0 (toLe 4 9 ++ [7, 1, 2, 3] ++ toLe 4 5 ++ zeros 8)
/-- A bell flit of bell 0, 100 ns into the interval. -/
def bellFlit : List Byte := flit 3 0 0 4096 0 0 (zeros 8 ++ toLe 4 100)
/-- A port that carries bells. -/
def bellPort : State := withPort readyState 31 (fun q => { q with st := 6, lat := 300, bellActive := true })
theorem witness_ProbesBellsAndLinkState_comes :
    flitComes (domainState 6) 31 6 (flit 6 0 0 4096 0 0 [1, 2]) ∧ flitComes (domainState 6) 31 5 stateFlit ∧ flitComes bellPort 31 3 bellFlit :=
  ⟨flit_comes _ _ _ _ _ _ _ _ _ (by decide) (by decide) (by decide +kernel),
   flit_comes _ _ _ _ _ _ _ _ _ (by decide) (by decide) (by decide +kernel),
   flit_comes _ _ _ _ _ _ _ _ _ (by decide) (by decide) (by decide +kernel)⟩
theorem witness_ProbesBellsAndLinkState :
    (fld stateFlit 17 1 % 4 ≠ 2 ∧ (getPort (domainState 6) 31).st ≠ 7
      ∧ portUp (getPort (domainState 6) 31) = true ∧ (getPort (domainState 6) 31).followOn = true ∧ bitAt (fld stateFlit 19 1) 0 = true
      ∧ (domainState 6).link.inDomain = true ∧ bitAt (fld stateFlit 19 1) 1 = true
      ∧ fld stateFlit 20 4 % 2 ^ 17 ≠ (domainState 6).link.domain)
    ∧ (fld (flit 5 0 0 4096 0 0 (toLe 4 9 ++ [7, 2])) 17 1 % 4 = 2 ∧ fld (flit 5 0 0 4096 0 0 (toLe 4 9 ++ [7, 1])) 17 1 % 4 = 1
      ∧ (getPort (portIn 31 7) 31).st = 7 ∧ (portIn 31 7).power.keepAlive = false)
    ∧ (getPort (withPort bellPort 31 (fun q => { q with firstBell := true })) 31).firstBell = true
    ∧ ((getPort bellPort 31).firstBell = false ∧ portUp (getPort bellPort 31) = true
      ∧ (getPort bellPort 31).bellActive = true ∧ fld bellFlit 12 8 % 2 ^ 48 = bellPort.clk.bell ∧ bellJoining bellPort = false
      ∧ 2 * (((500000400 : Nat) : Int) - ((getPort bellPort 31).lat : Int) - (fld bellFlit 20 4 : Int)).natAbs
        ≤ bellPort.clk.periodUs * 1000000) := by decide +kernel

/-- A message header: kind, flags, key, destination module, tile or endpoint, stamp, hops. -/
def msg (kind flags key dest tile stamp hops : Nat) : List Byte :=
  patch (patch (patch (zeros 48) 0 (toLe 1 kind ++ toLe 1 flags ++ toLe 2 key ++ toLe 4 dest ++ toLe 4 9 ++ toLe 2 tile ++ toLe 2 0
    ++ toLe 8 stamp)) 0x25 [BitVec.ofNat 8 hops]) 0x28 (toLe 4 (crc32c []))
/-- A port has received a message, and the route bank has an entry for module 3. -/
def routeState (e : Nat) (m : List Byte) : State :=
  let s := withPort (withDoms (portIn 0 6) [95]) 31 (fun q => { q with st := 6, rxQ := [{ cls := 0, bytes := m }] })
  { s with link := { readyState.link with routeA := [(3, e)] } }
/-- The 17 packets of a bolt that a tile sends by port 31. -/
def injectState : State :=
  let bolt : List Packet := List.replicate 16 { kind := 0xB, vc := 0, payload := zeros 256 }
  withPort (withDoms readyState [95]) 31 (fun q => { q with meshIn := [{ kind := 0xB, vc := 0, payload := zeros 64 }] ++ bolt })
theorem witness_SpineFollowsTheRoutes :
    ((getPort (routeState 0xC000 (msg 3 0 0 3 0 0 64)) 31).rxQ = [{ cls := 0, bytes := msg 3 0 0 3 0 0 64 }]
      ∧ domOn (routeState 0xC000 []) 95 = true ∧ readyState.reeve.gone = false ∧ domOn readyState 95 = false
      ∧ mCast (msg 3 0 0 3 0 0 64) = false ∧ mKind (msg 3 0 0 3 0 0 64) = 3)
    ∧ (bitAt (routeEntry (routeState 0xC000 []) 0 3) 15 = true ∧ bitAt (routeEntry (routeState 0xC000 []) 0 3) 14 = true)
    ∧ bitAt (routeEntry (routeState 0x4000 []) 0 3) 15 = false
    ∧ (mHops (msg 3 0 0 3 0 0 1) ≤ 1 ∧ bitAt (routeEntry (routeState 0xA000 []) 0 3) 14 = false
      ∧ routeEntry (routeState 0xA000 []) 0 3 % 32 ≠ 31 ∧ bitAt (routeEntry (routeState 0xA000 []) 0 3) 13 = true
      ∧ 1 < mHops (msg 3 0 0 3 0 0 2) ∧ portCarries (getPort (routeState 0xA000 []) 0) 1 = true
      ∧ portCarries (getPort (routeState 0xA001 []) 1) 1 = false)
    ∧ (mKind (msg 1 0 0 3 0 0 2) = 1 ∧ mCast (msg 1 0 0 3 0 0 2) = false
      ∧ leaves (exec (.spineRouteLookup 31 false) (routeState 0xA001 (msg 1 0 0 3 0 0 2))) (fun t =>
        (getPort t 1).undel == 1 && (getPort t 31).rxQ == []) = true)
    ∧ leaves (exec (.spineRouteLookup 31 false) (routeState 0xA000 (msg 3 0 0 3 0 0 2))) (fun t =>
      kvGet [] (getPort t 0).txQ 1 == [msg 3 0 0 3 0 0 1]) = true
    ∧ (getPort readyState 31).rxQ = []
    ∧ (injectTake injectState (getPort injectState 31)).map (fun r => (r.1.length, r.2.1, r.2.2)) = some (48 + 4096, 0, [])
    ∧ domOn injectState 95 = true
    ∧ injectTake readyState (getPort readyState 31) = none := by decide +kernel

/-- A partition 0 with key 5 and a lot, and a message for it at port 31. -/
def partyState (m : List Byte) : State :=
  { hereState readyState m with parts := [(0, { key := 5, lots := [{ number := 7, state := 1 }] })] }
theorem witness_LocalMessagesArrive :
    (hereNext (partyState (msg 2 0 5 0 0 1 1)) 31 (getPort (partyState (msg 2 0 5 0 0 1 1)) 31) = some (0, msg 2 0 5 0 0 1 1)
      ∧ localCause (partyState []) (msg 2 0 5 0 0 1 1) = none ∧ mStamp (msg 2 0 5 0 0 1 1) ≤ readyState.clk.bell + 1
      ∧ crc32c (mPay (msg 2 0 5 0 0 1 1)) = fld (msg 2 0 5 0 0 1 1) 0x28 4)
    ∧ (localCause (partyState []) (msg 1 0 5 0 0 0 1) = none
      ∧ (hereNext (partyState (msg 1 0 5 0 0 0 1)) 31 (getPort (partyState (msg 1 0 5 0 0 0 1)) 31)).isSome = true)
    ∧ ((hereNext (partyState (msg 2 0 5 0 0 2 1)) 31 (getPort (partyState (msg 2 0 5 0 0 2 1)) 31)).isSome = true
      ∧ localCause (partyState []) (msg 2 0 5 0 0 2 1) = none ∧ readyState.clk.bell + 1 < mStamp (msg 2 0 5 0 0 2 1))
    ∧ ((hereNext (partyState (msg 2 0 6 0 0 2 1)) 31 (getPort (partyState (msg 2 0 6 0 0 2 1)) 31)).isSome = true
      ∧ localCause (partyState []) (msg 2 0 6 0 0 2 1) = some 6)
    ∧ localCause { partyState [] with reeve := { readyState.reeve with computeReset := true } } (msg 2 0 5 0 0 1 1) = some 5 := by
  decide +kernel
/-- An undeliverable report for lot 7 of partition 0. -/
def reportMsg : List Byte := patch (zeros 48) 0 ([7] ++ zeros 23 ++ toLe 8 7)
theorem witness_LocalMessagesArrive_reports :
    ((hereFront (partyState reportMsg) 31 7).map (fun x => x.1) = some reportMsg ∧ logPart (fld reportMsg 0xE 2 % 8192) < 12
      ∧ fld reportMsg 0x18 8 = 7
      ∧ leaves (exec (.undeliverableReportReceive 31) (partyState reportMsg)) (fun t =>
        (getPart t 0).lots.map (fun l => l.causes) == [[(0x32, 0, 0)]]) = true)
    ∧ ((hereFront (partyState ([6] ++ zeros 47)) 31 6).map (fun x => fld (mPay x.1) 0 1) = some 0
      ∧ (hereFront (partyState (noticeMsg 1 1)) 31 6).map (fun x => fld (mPay x.1) 0 1) = some 0x21) := by decide +kernel

/-! ## Hayward, failures and resets -/

/-- A module whose last row stands in a state, at a bell. -/
def rowState (q : Row) (bell : Nat) : State :=
  { readyState with rows := [(191, q)], clk := { readyState.clk with bell := bell } }
theorem witness_SlicesAndMigrations_slice :
    (readyState.start.ready = true ∧ readyState.clk.intvCc = 0 ∧ suspectAhead (getRow readyState 191) = false
      ∧ suspectAhead { spare := 24, suspects := [23] } = true
      ∧ (getRow readyState 191).stop = .idle ∧ stopOver readyState (getRow readyState 191) = true
      ∧ noSpare readyState 191 = false ∧ rotationPaused readyState (rowPart 191) = false)
    ∧ (stopOver { readyState with clk := { readyState.clk with cycles := 350000000 } } { stopCyc := 1 } = true
      ∧ stopOver { readyState with clk := { readyState.clk with cycles := 349999999 } } { stopCyc := 1 } = false)
    ∧ sliceFails (rowState { stop := .slice } 3) 4799 { cols := [], words := [], other := false } = false
    ∧ ((getRow (rowState { stop := .slice } 3) 191).stop = .slice
      ∧ (ledgerWords (rowState { stop := .slice } 3) (holeTile (rowState { stop := .slice } 3) 191)).length ≤ 8
      ∧ holeTile (rowState { stop := .slice } 3) 191 = 4799 ∧ (getTile (rowState { stop := .slice } 3) 4799).st ≠ .pinfold
      ∧ logOf (rowState { stop := .slice } 3) 4799 = none ∧ (getRow (rowState { stop := .slice } 3) 191).spare < 25)
    ∧ leaves (exec (.haywardSliceComplete 191 [] [] true) (rowState { stop := .slice } 3)) (fun t =>
      (getTile t 4799).hw.cause == 1 && t.start.ledger.length == 1) = true := by decide +kernel
theorem witness_SlicesAndMigrations_migrate :
    (let s := rowState { stop := .migrating, mig := some { src := 4798, first := some 3 } } 51;
      migPending (getRow s 191) = true ∧ migPossible s 191 = true ∧ (getTile s (rowTile 191 (nextSource (getRow s 191)))).st = .idle
      ∧ (getRow s 191).stop = .migrating ∧ nextSource (getRow s 191) = 23 
      ∧ (getRow s 191).mig.map (fun m => m.first) = some (some 3) ∧ 3 + 48 ≤ s.clk.bell ∧ 50 < 3 + 48
      ∧ (getTile s (rowTile 191 23)).window = false ∧ rotationHeld s (rowPart 191) = false
      ∧ rotationHeld { s with parts := [(11, { halted := true })] } (rowPart 191) = true
      ∧ (∀ k ∈ (getRow s 191).suspects, k < 25) ∧ (getRow s 191).spare < 25)
    ∧ (let s := rowState { stop := .waiting, retryAt := 1027 } 1027;
      (getRow s 191).stop = .waiting ∧ (getRow s 191).mig = none ∧ (getRow s 191).retryAt ≠ 0 ∧ (getRow s 191).retryAt ≤ s.clk.bell
      ∧ migPossible s 191 = true ∧ rotationPaused s (rowPart 191) = false)
    ∧ ({ readyState.start with patSetOk := false }.patSetOk = false ∧ readyState.start.lifeCycle ≠ .raw) := by decide +kernel

/-- An event of a code waits for the Reeve. -/
def eventState (code : Nat) : State :=
  { readyState with reeve := { readyState.reeve with inbox := [{ code := code }] } }
/-- Partition 11 with a lot, an ended lot, and a completion queue of 64 at an index. -/
def lotState (pi : Nat) : State :=
  let l : Lot := { number := 7, state := 1, causes := [(0x22, 0, 5), (0x23, 0, 4)], intervals := 2, cut := some 1 }
  { readyState with
    clk := { readyState.clk with bell := 1 }
    parts := [(11, { lots := [l], ended := [⟨{ l with number := 6 }, 0, zeros 128, false⟩], cq := some { base := 4096, entries := 64 } })]
    reeve := { readyState.reeve with pages := [(11, { cqPi := pi })] } }
theorem witness_FailureEventsAndLotEnds :
    readyState.reeve.inbox = []
    ∧ ((eventState 0x0193).reeve.inbox = [{ code := 0x0193 }] ∧ (0 : Nat) / 2 ^ 28 ≠ 1 ∧ 12 ≤ 0xFFFF ∧ recEmits 0x0193 = true
      ∧ (eventState 0x0193).reeve.recs.find? (fun r => recSame { code := 0x0193 } r.2) = none)
    ∧ recEmits 0x0192 = true ∧ recEmits 0x0200 = false
    ∧ ((lotState 0).reeve.inbox.any (fun e => (e.part == 11 || 12 ≤ e.part) && e.compl != 0) = false
      ∧ ((getPart (lotState 0) 11).lots.find? (fun l => l.state == 2 || lotOver (lotState 0) 11 l)).map (fun l => l.number) = some 7
      ∧ leaves (exec (.lotEnd 11) (lotState 0)) (fun t => (getPart t 11).lots == []
        && ((getPart t 11).ended.getLast?).map (fun e => e.code) == some 0x23) = true)
    ∧ (getPart readyState 11).lots.find? (fun l => l.state == 2 || lotOver readyState 11 l) = none
    ∧ ((getPart (lotState 63) 11).cq.map (fun c => c.entries) = some 64
      ∧ ((getPart (lotState 63) 11).ended.find? (fun e => !e.written)).map (fun e => e.lot.number) = some 6
      ∧ idxDist (getPage (lotState 63) 11).cqPi (getPage (lotState 63) 11).cqCi < 64
      ∧ 64 ≤ idxDist (getPage (lotState 64) 11).cqPi (getPage (lotState 64) 11).cqCi)
    ∧ leaves (exec (.completionEntryWrite 11) (lotState 63)) (fun t => (getPage t 11).cqPi == 64) = true := by decide +kernel

/-- A partition in a reset. -/
def resetState (lvl : Nat) (p : Part) : State := { readyState with parts := [(11, { p with reset := some (lvl, 3) })] }
/-- A pattern map with one pattern of one bolt at bolt 5. -/
def mapEntry : List (List Byte) := [patch (zeros 16) 4 (toLe 4 5 ++ [1])]
/-- Every partition in the module's reset. -/
def computeState : State :=
  { readyState with
    reeve := { readyState.reeve with computeReset := true }
    parts := (upto 0 12).map (fun n => (n, { reset := some (20, 3) })) }
theorem witness_ResetsClearAndComplete :
    ((getPart (resetState 1 {}) 11).reset = some (1, 3) ∧ 4798 ∈ ctxTiles (resetState 1 {}) 11 ∧ 4799 ∉ ctxTiles (resetState 1 {}) 11
      ∧ (getPart (resetState 3 {}) 11).reset = some (3, 3) ∧ 4799 ∈ partTiles 11 ∧ (getTile (resetState 3 {}) 4799).st ≠ .pinfold
      ∧ sliceFails (resetState 3 {}) 4799 { cols := [5] } = false ∧ sliceFails (resetState 3 {}) 4799 { cols := [33] } = true
      ∧ setRuns (resetState 3 {}) = true ∧ (ledgerWords (resetState 3 {}) 4799).length ≤ 8
      ∧ setRuns { resetState 3 {} with start := { readyState.start with patSetOk := false } } = false)
    ∧ (getPart readyState 11).reset = none
    ∧ (getTile (tileState 4799 { st := .pinfold }) 4799).st = .pinfold
    ∧ (computeState.reeve.computeReset = true ∧ readyState.reeve.computeReset = false
      ∧ (upto 0 12).all (fun n => (getPart computeState n).reset == some (20, 3)) = true)
    ∧ (getPart (resetState 17 {}) 11).patMap = []
    ∧ ((getPart (resetState 17 { patMap := mapEntry }) 11).patMap ≠ [] ∧ reloadBad (resetState 17 { patMap := mapEntry }) 11 = none
      ∧ loadsDeferred (resetState 17 { patMap := mapEntry }) = false)
    ∧ (reloadBad { resetState 17 { patMap := mapEntry } with
        bolts := [(boltKey 11 5, { written := true, bad := [0] })] } 11).isSome = true
    ∧ (getPart (resetState 19 {}) 11).reset = some (19, 3) := by decide +kernel

theorem witness_EngineResetsAndEscalation_tiles :
    (let s := tileState 4799 { st := .pinfold, hw := { cause := 7 } };
      (getTile s 4799).st = .pinfold ∧ causePermanent (getTile s 4799).hw.cause = false ∧ causePermanent 5 = true
      ∧ causePermanent 4 = false ∧ sliceFails s 4799 {} = false ∧ sliceFails s 4799 { other := true } = true ∧ setRuns s = true)
    ∧ (let s : State := { tileState 4799 { st := .pinfold, hw := { cause := 1 } } with
        start := { readyState.start with lifeCycle := .service } };
      causePermanent (getTile s 4799).hw.cause = true ∧ s.start.lifeCycle = .service ∧ setRuns s = true
      ∧ readyState.start.lifeCycle ≠ .service)
    ∧ ((getTile readyState 4798).st ≠ .pinfold ∧ (logOf readyState 4798).isSome = true
      ∧ tileUsable readyState (holeTile readyState (physProw 4798)) = true
      ∧ tileUsable (tileState 4799 { st := .pinfold }) (holeTile (tileState 4799 { st := .pinfold }) (physProw 4798)) = false)
    ∧ leaves (exec (.engineResetMill 7 true) (stackState 7 { queues := [(0, [⟨zeros 64, 0xFFFF, 0, 0, 0, 0, [], []⟩])] }))
      (fun t => (getStack t 7).queues == []) = true
    ∧ (let s : State := { portIn 31 6 with clk := { readyState.clk with bell := 1024 } };
      (getPort s 31).en = true ∧ (getPort s 31).resetBells.all (fun b => decide (b + 1024 < s.clk.bell)) = true
      ∧ s.clk.bell ≤ 0 + 1024) := by decide +kernel
theorem witness_EngineResetsAndEscalation_port :
    (let s : State := withPort { readyState with clk := { readyState.clk with bell := 1024 } } 31 (fun q => { q with st := 6, resetBells := [0] });
      (getPort s 31).en = true ∧ (∃ b ∈ (getPort s 31).resetBells, s.clk.bell ≤ b + 1024)
      ∧ leaves (exec (.engineResetPort 31 false) s) (fun t => (getPort t 31).fenced) = true) := by decide +kernel
theorem witness_EngineResetsAndEscalation_levels :
    (((getPart readyState 11).reset.map (fun r => r.1 % 16)).getD 0 < 3
      ∧ 1 ≤ ((getPart (resetState 19 {}) 11).reset.map (fun r => r.1 % 16)).getD 0
      ∧ (getPart (beginReset (resetState 17 {}) 11 3 0x44) 11).reset = some (3, 0))
    ∧ logOf readyState 4799 = none
    ∧ (let s : State := { readyState with parts := [(11, { reset := some (20, 3) })], clk := { readyState.clk with bell := 403 } };
      resetOver s 6 0 = true ∧ resetOver readyState 6 0 = false ∧ recursAfter readyState 6 0 0 = false
      ∧ causeOutside readyState 6 0 0 = false
      ∧ leaves (exec (.resetEscalate 6 0 0 false) s) (fun t => !t.pins.alertN && t.reeve.cycleReq) = true)
    ∧ namedUnits readyState 11 = []
    ∧ [(1, 4607), (2, 7), (3, 31)].all (fun u => namedUnits { readyState with reeve := { readyState.reeve with recs := [(1,
        patch (patch (zeros 512) 0xDC (toLe 2 11)) 0xD4 (toLe 4 (unitId u.1 u.2)))] } } 11 == [unitId u.1 u.2]) = true
    ∧ (logPart 4607 = 11 ∧ (getTile readyState (physOf readyState 4607)).st ≠ .pinfold ∧ (getPort readyState 31).en = true)
    ∧ (readyState.reeve.standby = true ∧ { readyState.reeve with standby := false }.standby = false)
    ∧ leaves (exec .lockstepMismatch readyState) (fun t => t.reeve.handovers == 1 && !t.reeve.standby) = true := by decide +kernel

/-- A long operation of a kind and a state, for partition 11. -/
def opState (kind st : Nat) : State :=
  { readyState with reeve := { readyState.reeve with ops := [{ handle := 2 ^ 24 * kind + 5, page := 12, mask := 2 ^ 11, state := st, total := 3 }] } }
theorem witness_LongOperationsAndAssays_operations :
    ([0, 1, 2, 4].all (fun st => ((opState 1 st).reeve.ops.find? (fun o => o.handle == 2 ^ 24 + 5)).map (fun o => o.state) == some st)
      = true)
    ∧ ((opState 3 1).reeve.ops.map opKind = [3] ∧ (opState 1 1).reeve.ops.map opKind = [1])
    ∧ leaves (exec (.longOperationEnd (2 ^ 24 + 5) 9 true [] []) (opState 1 4)) (fun t =>
      t.reeve.ops.map (fun o => (o.state, o.done)) == [(6, 3)]) = true
    ∧ readyState.reeve.ops.find? (fun o => o.handle == 5) = none := by decide +kernel
/-- An assay operation of partition 11 on lot 6, with that lot ended, and an assay at a replay. -/
def assayState (st bell : Nat) (a : Option Assay) : State :=
  { opState 4 st with
    clk := { readyState.clk with bell := bell }
    reeve := { readyState.reeve with ops := [{ handle := 2 ^ 26 + 5, page := 12, mask := 2 ^ 11, state := st, total := 2
                                               args := patch (zeros 64) 8 [6] }] }
    parts := [(11, { ended := [⟨{ number := 6, start := 2, intervals := 3 }, 0, zeros 128, true⟩], assay := a })] }
theorem witness_LongOperationsAndAssays_assays :
    (((assayOp (assayState 1 9 none) 11).map (fun o => (o.state, fld o.args 8 8)) = some (1, 6))
      ∧ loadsDeferred (assayState 1 9 none) = false ∧ partDown (assayState 1 9 none) 11 = false
      ∧ (getPart (assayState 1 9 none) 11).lots = [] ∧ (getPart (assayState 1 9 none) 11).assay = none
      ∧ (endedFind (assayState 1 9 none) 11 6).isSome = true ∧ endedFind readyState 11 6 = none
      ∧ assayOp readyState 11 = none)
    ∧ (let a : Assay := { lot := 6, mode := 1, suspects := [], handle := 2 ^ 26 + 5, live := true };
      (liveAssay (assayState 1 5 (some a)) 11).map (fun a => (a.cut, a.replay)) = some (false, 1)
      ∧ (assayLot (assayState 1 5 (some a)) 11 a).start + (assayLot (assayState 1 5 (some a)) 11 a).intervals
        ≤ ctxBell (assayState 1 5 (some a)) 11
      ∧ ctxBell (assayState 1 4 (some a)) 11
        < (assayLot (assayState 1 4 (some a)) 11 a).start + (assayLot (assayState 1 4 (some a)) 11 a).intervals
      ∧ (opGet (assayState 1 5 (some a)) a.handle).state = 1 ∧ a.replay < (opGet (assayState 1 5 (some a)) a.handle).total)
    ∧ liveAssay readyState 11 = none := by decide +kernel

/-! ## The host's rings -/

/-- The host's link is up, its memory decoding on, and it has bus mastering and MSI-X. -/
def hostState : State :=
  { readyState with hst := { readyState.hst with pcieUp := true, memEn := true, busMaster := true, msixEn := true, ringReset := 2 ^ 15, due := 2 ^ 47 } }
/-- Vector 47 enabled and unmasked. -/
def irqState (mask : Bool) : State :=
  { hostState with
    hst := { hostState.hst with msix := [(47, { addr := 0xFEE00000, data := 7, masked := mask })] }
    reeve := { readyState.reeve with pages := [(15, { irqCtl := 7 })] } }
theorem witness_RingsAndInterrupts :
    (barOpen hostState = true ∧ barOpen readyState = false)
    ∧ (idxDist 16 (getPage readyState 15).cmdCi ≤ 16 ∧ 16 < idxDist 17 (getPage readyState 15).cmdCi)
    ∧ leaves (exec (.doorbellWrite 15 17) hostState) (fun t => (getPage t 15).bad && (getPage t 15).doorbell == 0) = true
    ∧ (bitAt hostState.hst.ringReset 15 = true ∧ bitAt readyState.hst.ringReset 15 = false)
    ∧ leaves (exec (.ringReset 15) hostState) (fun t => (getPage t 15).evPi == 1 && (getPage t 15).resets == 1) = true
    ∧ (bitAt (irqState false).hst.due 47 = true ∧ irqOn (irqState false) 47 = true ∧ (irqState false).hst.msixEn = true
      ∧ (irqState false).hst.pcieUp = true ∧ (kvGet {} (irqState false).hst.msix 47).masked = false
      ∧ (irqState false).hst.msixMask = false ∧ (irqState false).hst.busMaster = true
      ∧ (kvGet {} (irqState true).hst.msix 47).masked = true)
    ∧ leaves (exec (.msixMessage 47) (irqState false)) (fun t => t.out == [⟨1, 0xFEE00000, [7, 0, 0, 0]⟩]) = true := by decide +kernel

/-! ## The mailbox -/

/-- An entry of a row: its opcode and what tells rows of one opcode apart, the flags of its buffers, a response buffer of
2 ^ 24 bytes, its parameters. -/
def mailEnt (key : Nat) (x : CSpec) (par : List Byte) : List Byte :=
  let e := patch (zeros 64) 0 (toLe 2 key ++ [BitVec.ofNat 8 (b2n x.req + 2 * b2n x.resp)])
  let e1 := patch (if x.resp then patch e 0x14 (toLe 4 (2 ^ 24)) else e) 0x20 par
  if key / 65536 == 0 then e1
  else if key % 65536 == 0x0C08 then patch e1 0x21 (toLe 1 (key / 65536 - 1))
  else patch e1 0x20 (toLe 1 (if key % 65536 == 0x0702 then key / 65536 - 1 else key / 65536))
/-- That entry at the head of a page. -/
def mailState (pg : Nat) (e : List Byte) : State :=
  { readyState with reeve := { readyState.reeve with pages := [(pg, { doorbell := 1, cmd := memWrite [] 0 e })] } }
/-- A row takes it there. -/
def rowTakes (pg key : Nat) (x : CSpec) (h : State → MCmd → Ans) (par : List Byte) (req : Option (List Byte)) : Bool :=
  let e := mailEnt key x par
  let s := mailState pg e
  let a := h s (mailOf pg e req)
  decide (pg < 16) && decide (headCmd s pg = some e) && rowOf e == key && (!x.req || req.isSome)
    && decide (mailCheck s (mailOf pg e req) x = none)
    && (a.buf.isEmpty || decide (a.buf.length ≤ cCap (mailOf pg e req)))
theorem rowTakes_taken (pg key : Nat) (x : CSpec) (h : State → MCmd → Ans) (par : List Byte) (req : Option (List Byte))
    (t : rowTakes pg key x h par req = true) :
    taken (mailState pg (mailEnt key x par)) pg key x (mailEnt key x par) req true
      (h (mailState pg (mailEnt key x par)) (mailOf pg (mailEnt key x par) req)) := by
  simp only [rowTakes, Bool.and_eq_true, Bool.or_eq_true, decide_eq_true_eq, beq_iff_eq, Bool.not_eq_true'] at t
  obtain ⟨⟨⟨⟨⟨a, b⟩, c⟩, d⟩, e⟩, f⟩ := t
  refine ⟨a, b, c, fun hx => ?_, e, fun hb => ⟨rfl, ?_⟩⟩
  · rcases d with d | d
    · rw [hx] at d; cases d
    · exact d
  · rcases f with f | f
    · rw [hb] at f; cases f
    · exact f

theorem witness_ModCommandsServe :
    [rowTakes 15 0x0101 {} modIdentity [] none,
      rowTakes 15 0x0102 { resp := true } modGeometry [] none,
      rowTakes 15 0x0103 { resp := true } modHealth [] none,
      rowTakes 15 0x0104 { resp := true } modReady [] none,
      rowTakes 15 0x0105 { part := false, writes := true, pars := [(0, 8)] } modClockSet [] none,
      rowTakes 15 0x0106 { part := false, writes := true, pars := [(0, 4)] } modIdSet [] none,
      rowTakes 15 0x30107 { part := false, writes := true, pars := [(0, 2)] } modResetPartition [] none,
      rowTakes 15 0x40107 { part := false, writes := true, pars := [(0, 2)] } modResetCompute [] none,
      rowTakes 15 0x50107 { part := false, pars := [(0, 2)] } modResetPower [] none,
      rowTakes 15 0x0108 { resp := true } modTelemetry [] none,
      rowTakes 15 0x0201 { part := false, writes := true, pars := [(0, 2)] } partMbCtl [] none].all (fun b => b) = true := by decide +kernel

theorem witness_PatternAndContextCommandsServe :
    [rowTakes 15 0x0301 { req := true, writes := true, pars := [(0, 1), (4, 4)] } patLoad [] (some (zeros 0)),
      rowTakes 15 0x0302 (workSpec [(0, 1), (8, 6)]) patActivate [] none,
      rowTakes 15 0x0303 (workSpec [(0, 2), (8, 6)]) patSwitch [] none,
      rowTakes 15 0x0304 { resp := true, pars := [(0, 1)] } patMapRead [] none,
      rowTakes 15 0x0601 (workSpec [(0, 2), (4, 4), (8, 6)]) ctxScanOut [] none,
      rowTakes 15 0x0602 (workSpec [(0, 2), (4, 4)]) ctxScanIn (zeros 4 ++ toLe 4 8388607) none,
      rowTakes 15 0x0603 (workSpec [(0, 1)]) ctxReset [] none].all (fun b => b) = true := by decide +kernel

theorem witness_LotCommandsServe :
    [rowTakes 11 0x0401 { adm := false, req := true, writes := true } lotSubmit [] (some (zeros 128)),
      rowTakes 11 0x0402 (lotSpec [(0, 8)] true false) lotCancel [] none,
      rowTakes 11 0x0403 (lotSpec [(0, 8)] false false) lotQuery [] none,
      rowTakes 11 0x0404 (lotSpec [(0, 8)] false true) lotRecords [] none,
      rowTakes 11 0x0405 (lotSpec [(0, 12)] true false) lotCqSet [] none,
      rowTakes 11 0x0406 (lotSpec [(0, 8)] false true) lotDigests [] none].all (fun b => b) = true := by decide +kernel

theorem witness_StageCommandsServe :
    [rowTakes 15 0x10501 (stageSpec 4 false true) stageNumeric [] none,
      rowTakes 15 0x20501 (stageSpec 1 false true) stageHalt [] none,
      rowTakes 15 0x30501 (stageSpec 2 false false) stageHold [] none,
      rowTakes 15 0x40501 (stageSpec 4 true false) stageSplit [] none,
      rowTakes 15 0x50501 (stageSpec 2 false false) stagePeriod [] none,
      rowTakes 15 0x60501 { stageSpec 0 true false with req := true } stageKeys [] (some (zeros 24)),
      rowTakes 15 0x70501 (stageSpec 0 true false) stageReseed [] none,
      rowTakes 15 0x80501 (stageSpec 2 true false) stageMerge [] none,
      rowTakes 15 0x0502 (workSpec [(0, 4)]) stageCancel [] none,
      rowTakes 15 0x0503 { resp := true, pars := [(0, 4)] } stageQuery [] none].all (fun b => b) = true := by decide +kernel

theorem witness_MaintenanceCommandsServe :
    [rowTakes 15 0x0701 (mntSpec false [(0, 2)]) mntStackTest [] none,
      rowTakes 15 0x10702 (mntSpec false [(0, 1), (2, 2)]) mntScrubStacks [] none,
      rowTakes 15 0x20702 (mntSpec false [(0, 1), (2, 2)]) mntScrubTiles [] none,
      rowTakes 15 0x0703 { req := true, writes := true } mntAssay [] (some (zeros 48)),
      rowTakes 15 0x0704 (mntSpec true [(0, 1)]) (mntFwUpdate 1 0) [] (some (zeros 0)),
      rowTakes 15 0x0705 (mntSpec false [(0, 4)]) mntLinkQual [] none,
      rowTakes 0 0x0706 { resp := true } mntSpareMap [] none,
      rowTakes 15 0x0707 { part := false, resp := true } mntLedger [] none,
      rowTakes 15 0x0708 { part := false, resp := true, pars := [(0, 4)] } mntRepairLedger [] none,
      rowTakes 15 0x0801 { pars := [(0, 4)] } opStatusCmd [] none,
      rowTakes 15 0x0802 (workSpec [(0, 4)]) opSuspend [] none,
      rowTakes 15 0x0803 (workSpec [(0, 4)]) opResume [] none,
      rowTakes 15 0x0804 (workSpec [(0, 4)]) opCancelCmd [] none,
      rowTakes 15 0x0805 { resp := true } opList [] none].all (fun b => b) = true := by decide +kernel

theorem witness_SystemCommandsServe :
    [rowTakes 15 0x0901 { part := false, req := true, writes := true, pars := [(0, 8)] } linkRouteWrite [] (some (zeros 0)),
      rowTakes 15 0x0902 { part := false, writes := true, pars := [(8, 6)] } linkRouteSwitch [] none,
      rowTakes 15 0x0903 { part := false, req := true, writes := true, pars := [(0, 4)] } linkMcastWrite [] (some (zeros 0)),
      rowTakes 15 0x0A01 { part := false, writes := true, pars := [(0, 2), (4, 24)] } sysKeys [] none,
      rowTakes 15 0x0A02 { part := false, writes := true, pars := [(0, 2), (8, 6)] } sysJoin [] none,
      rowTakes 15 0x0A03 { part := false, writes := true, pars := [(0, 2), (8, 6)] } sysLeave [] none,
      rowTakes 15 0x0B01 { resp := true, pars := [(0, 12)] } recRead [] none,
      rowTakes 15 0x0D01 { part := false, writes := true, pars := [(0, 1), (4, 4)] } pwrLimitSet [] none,
      rowTakes 15 0x0D02 { resp := true } pwrRead [] none].all (fun b => b) = true := by decide +kernel

theorem witness_DebugCommandsServe :
    [rowTakes 15 0x0C01 { req := true, resp := true, pars := [(0, 4)] } dbgRegRead [] (some (zeros 2)),
      rowTakes 15 0x0C02 (workSpec [(0, 8)]) dbgRegWrite [] none,
      rowTakes 15 0x0C03 { resp := true, pars := [(0, 2), (4, 8)] } dbgStoreRead [] none,
      rowTakes 15 0x0C04 { req := true, writes := true, pars := [(0, 2), (4, 4)] } dbgStoreWrite [] (some (zeros 64)),
      rowTakes 15 0x0C05 { resp := true, pars := [(0, 2)] } dbgImageRead [255, 255] none,
      rowTakes 15 0x0C06 { resp := true, pars := [(0, 2)] } dbgChanRead [] none,
      rowTakes 15 0x0C07 (workSpec [(0, 1), (8, 6)]) dbgResume [] none,
      rowTakes 15 0x20C08 (workSpec [(0, 2)]) dbgLooseOn [] none,
      rowTakes 15 0x10C08 (workSpec [(0, 2)]) dbgLooseOff [] none,
      rowTakes 15 0x0C09 (workSpec [(0, 2)]) dbgClkHalt [] none,
      rowTakes 15 0x0C0A (workSpec [(0, 4)]) dbgClkStep [] none,
      rowTakes 15 0x0C0B (workSpec [(0, 2)]) dbgClkResume [] none,
      rowTakes 15 0x0C0C (workSpec [(0, 2), (4, 9)]) dbgClkSet [] none,
      rowTakes 15 0x0C10 { req := true, writes := true, pars := [(0, 2)] } dbgTraceSet [] (some (zeros 170)),
      rowTakes 15 0x0C11 { resp := true, pars := [(0, 1), (4, 8)] } dbgTraceRead [] none,
      rowTakes 15 0x0C12 { pars := [(0, 2)] } dbgMillNan [] none].all (fun b => b) = true := by decide +kernel
/-- A command of a page with its parameters and its request buffer. -/
def cmd (pg : Nat) (par : List Byte) (req : List Byte) : MCmd := ⟨pg, patch (zeros 64) 0x20 par, req⟩
/-- A state with one partition changed, one lot, one change, or one operation. -/
def withPart11 (p : Part) : State := { readyState with parts := [(11, p)] }
/-- One staged change. -/
def withChange (x : Change) : State := { readyState with reeve := { readyState.reeve with changes := [x] } }
theorem witness_ModCommandsServe_clauses :
    (0x1FFFF ≤ cPar (cmd 15 (toLe 4 0x1FFFF) []) 0 4 ∧ cPar (cmd 15 (toLe 4 0x1FFFE) []) 0 4 < 0x1FFFF
      ∧ readyState.link.modId = 0x1FFFF ∧ { readyState.link with modId := 3 }.modId ≠ 0x1FFFF)
    ∧ readyState.start.ready = true ∧ mayName (cmd 15 [3, 11] []) (cPar (cmd 15 [3, 11] []) 1 1)
    ∧ mayName (cmd 15 [11, 1] []) (cPar (cmd 15 [11, 1] []) 0 1) ∧ cPar (cmd 15 [11, 1] []) 1 1 < 2
    ∧ 12 ≤ (cmd 12 [] []).pg ∧ (cmd 15 [] []).pg < 16 := by
  unfold mayName; decide +kernel
theorem witness_MailboxChecksComeFirst :
    (headCmd readyState 15 = none ∧ (headCmd (mailState 15 (mailEnt 0x0101 {} [])) 15).map rowOf = some 0x0101)
    ∧ (mailCheck readyState ⟨15, mailEnt 0x0101 { resp := true } [], []⟩ {} = some (0x12, 2)
      ∧ mailCheck readyState ⟨15, mailEnt 0x0301 { req := true } [], []⟩ { req := true } = none
      ∧ mailCheck readyState ⟨15, mailEnt 0x0101 {} [], []⟩ {} = none
      ∧ (modIdentity readyState ⟨15, mailEnt 0x0101 {} [], []⟩).buf = []
      ∧ mailCheck readyState ⟨15, mailEnt 0x0102 { resp := true } [], []⟩ { resp := true } = none
      ∧ (modGeometry readyState ⟨15, mailEnt 0x0102 { resp := true } [], []⟩).buf ≠ []
      ∧ cCap ⟨15, patch (mailEnt 0x0102 { resp := true } []) 0x14 (toLe 4 127), []⟩ = 127
      ∧ (modGeometry readyState ⟨15, mailEnt 0x0102 { resp := true } [], []⟩).buf.length
        ≤ cCap ⟨15, mailEnt 0x0102 { resp := true } [], []⟩)
    ∧ (getPart (withPart11 { mbDisabled := true }) 11).mbDisabled = true
    ∧ (bootState.start.ready = false ∧ earlyFamily (cOp ⟨15, mailEnt 0x0301 {} [], []⟩) = false)
    ∧ malformed ⟨12, mailEnt 0x0106 { writes := true } [], []⟩ { writes := true } = none := by decide +kernel

/-- The entry of a load: the partition's last tile, bank 3, one bolt at bolt 0. -/
def loadEntry : List Byte := toLe 2 4607 ++ [3, 1] ++ toLe 4 0 ++ [4] ++ zeros 7
theorem witness_PatternAndContextCommandsServe_clauses :
    (mayName (cmd 11 [11, 1, 0, 0, 1] loadEntry) (cPar (cmd 11 [11, 1, 0, 0, 1] loadEntry) 0 1)
      ∧ (cmd 11 [11, 1, 0, 0, 1] loadEntry).req.length = 16 * cPar (cmd 11 [11, 1, 0, 0, 1] loadEntry) 4 4
      ∧ (upto 0 1).findSome? (loadEntryBad readyState (cmd 11 [11, 1, 0, 0, 1] loadEntry) 11) = none)
    ∧ (cmd 11 [11, 0, 0, 0, 1] []).req.length ≠ 16 * cPar (cmd 11 [11, 0, 0, 0, 1] []) 4 4
    ∧ (cPar (cmd 11 [11, 3] []) 1 1 = 3 ∧ cPar (cmd 11 [11, 4] []) 1 1 = 4)
    ∧ (cPar (cmd 11 ([11, 1, 0, 0] ++ toLe 4 8318720) []) 4 4 + 384 * imageBolts true = Config.shareBolts
      ∧ partBusy readyState 11 = false ∧ partBusy (withPart11 { lost := true }) 11 = true)
    ∧ (mayName (cmd 11 [11, 11] []) (cPar (cmd 11 [11, 11] []) 1 1) ∧ liveTiles readyState 11 = []
      ∧ cPar (cmd 11 [11, 11] []) 4 4 + 384 * imageBolts (scanStore readyState 11 0) ≤ Config.shareBolts
      ∧ (getPart readyState 11).halted = false ∧ stageClash readyState 0x13 (2 ^ 11) = none)
    ∧ powerBar readyState { id := 0, kind := 0x10, parts := 2 ^ 11, target := cBell (cmd 11 [11] []) 8, value := [] } = none := by
  unfold mayName; decide +kernel

/-- A lot block of a number. -/
def lotBlock (n : Nat) : List Byte := patch (zeros 128) 0 (toLe 8 n)
/-- Partition 11 with its completion queue, its last lot number, and a lot in a state. -/
def lotsState (last : Option Nat) (ls : List Lot) (es : List Ended) : State :=
  withPart11 { cq := some { base := 0, entries := 64 }, lastLot := last, lots := ls, ended := es }
/-- LOT command parameters: a lot number. -/
def lotCmd (n : Nat) : MCmd := cmd 11 (toLe 8 n) []
theorem witness_LotCommandsServe_clauses :
    (lotBlockBad (lotBlock 7) = none ∧ (getPart (lotsState (some 7) [] []) 11).cq.isSome = true
      ∧ lotAccepting (lotsState (some 7) [] []) 11 = true ∧ (getPart (lotsState (some 7) [] []) 11).lastLot = some 7
      ∧ fld (lotBlock 7) 0 8 ≤ 7 ∧ 7 < fld (lotBlock 8) 0 8 ∧ (getPart (lotsState none [] []) 11).lastLot = none
      ∧ freeSlots (getPart (lotsState (some 7) [] []) 11) ≠ 0 ∧ fld (lotBlock 8) 0x18 8 % 2 ^ 48 = 0
      ∧ lotEarliest readyState 11 = 2 ∧ bitAt (fld (lotBlock 8) 0x24 1) 0 = false)
    ∧ (lotSubmit (lotsState (some 7) [] []) (cmd 11 [] (lotBlock 8))).status = 0
    ∧ ([0, 1, 2].all (fun k =>
        ((getPart (lotsState none [{ number := 7, state := k }] []) 11).lots.find? (fun l => l.number == cPar (lotCmd 7) 0 8)).map
          (fun l => (l.state, l.cancelReq)) == some (k, false)) = true)
    ∧ ((getPart (lotsState none [] []) 11).lots.find? (fun l => l.number == cPar (lotCmd 7) 0 8) = none
      ∧ (endedFind (lotsState none [] [⟨{ number := 7 }, 0, zeros 128, true⟩]) 11 (cPar (lotCmd 7) 0 8)).isSome = true
      ∧ endedFind (lotsState none [] []) 11 (cPar (lotCmd 7) 0 8) = none)
    ∧ (cPar (cmd 11 (toLe 8 4096 ++ toLe 4 64) []) 0 8 % 4096 = 0 ∧ cqEntriesOk (cPar (cmd 11 (toLe 8 4096 ++ toLe 4 64) []) 8 4) = true
      ∧ cqEntriesOk 65536 = true ∧ cqEntriesOk 65 = false) := by decide +kernel

/-- STAGE parameters: a kind, a scope byte, a mask, a target, a value. -/
def stageCmd (part mask v : Nat) : MCmd := cmd 15 ([1, BitVec.ofNat 8 part] ++ toLe 2 mask ++ zeros 4 ++ toLe 8 34 ++ toLe 4 v) (zeros 24)
/-- A change of the bell's period that is pending. -/
def periodState (out : Nat) (ev : Bool) : State := withChange ⟨9, 5, 0xFFFF, 34, toLe 2 20, ev, out, [], 15⟩
theorem witness_StageCommandsServe_clauses :
    (33 < stageEarliest readyState 5 0xFFFF ∧ stageEarliest readyState 5 0xFFFF ≤ 34 ∧ 1 < stageEarliest readyState 1 (2 ^ 11)
      ∧ (let s := lotsState none [{ number := 7, start := 50 }] [];
        jobEarliest s 11 = 50 ∧ stageEarliest s 4 0xFFF = 50 ∧ stageEarliest s 7 (2 ^ 11) = 50 ∧ stageEarliest s 7 1 = 2)
      ∧ (stageClash (periodState 0 false) 5 0xFFFF).map (fun x => x.id) = some 9 ∧ stageClash readyState 5 0xFFFF = none)
    ∧ (mayName (stageCmd 11 0 0x30) (cPar (stageCmd 11 0 0x30) 1 1) ∧ partBusy readyState 11 = false
      ∧ numModeOk (cPar (stageCmd 11 0 0x30) 16 4) = true ∧ numModeOk (cPar (stageCmd 11 0 0x400) 16 4) = false
      ∧ cPar (stageCmd 11 0 1) 16 1 = 1 ∧ lotAt readyState 11 34 = false)
    ∧ (cPar (stageCmd 0xFF 0 1) 1 1 = 0xFF ∧ 1 ≤ cPar (stageCmd 0xFF 0 1) 16 2 ∧ cPar (stageCmd 0xFF 0 500) 16 2 ≤ 500
      ∧ splitOk (cPar (stageCmd 0xFF 255 0x80000CA8) 16 4) = true ∧ cPar (stageCmd 0xFF 255 0) 2 2 < 256
      ∧ 20 ≤ cPar (stageCmd 0xFF 0 20) 16 2 ∧ cPar (stageCmd 0xFF 0 10000) 16 2 ≤ 10000 ∧ cPar (stageCmd 0xFF 0 19) 16 2 < 20
      ∧ 10000 < cPar (stageCmd 0xFF 0 10001) 16 2 ∧ cPar (stageCmd 0xFF 4095 4095) 2 2 < 4096
      ∧ (stageCmd 0xFF 4095 4095).req.length = 24 ∧ cPar (stageCmd 0xFF 4095 4095) 16 2 < 4096)
    ∧ ((changeNamed (periodState 0 false) (cmd 15 [9] []) (cPar (cmd 15 [9] []) 0 4)).map (fun x => (x.outcome, x.evaluated)) = some (0, false)
      ∧ (changeNamed (periodState 0 true) (cmd 15 [9] []) (cPar (cmd 15 [9] []) 0 4)).map (fun x => (x.outcome, x.evaluated)) = some (0, true)
      ∧ changeNamed readyState (cmd 15 [9] []) (cPar (cmd 15 [9] []) 0 4) = none) := by
  unfold mayName; decide +kernel
theorem witness_StageCommandsServe_halt : (lotAt readyState 11 34 && ctxKind3 readyState 11) = false := by
  rw [show lotAt readyState 11 34 = false by decide +kernel]; rfl

/-- A request for an assay of lot 6 of partition 11. -/
def assayReq : List Byte := patch (zeros 48) 0 ([11, 1, 0, 0, 0, 0, 0, 0] ++ toLe 8 6)
/-- An operation's handle as a parameter. -/
def opCmd (kind : Nat) : MCmd := cmd 12 (toLe 4 (2 ^ 24 * kind + 5)) []
theorem witness_MaintenanceCommandsServe_clauses :
    ((ledgerAdmit (opState 1 1) (opActivity 4) 0x800).1 = 2 ∧ (ledgerAdmit readyState (opActivity 4) 0x800).1 = 0
      ∧ (ledgerAdmit (opState 4 1) (opActivity 2) 0x800).1 = 1
      ∧ ((opState 4 1).reeve.ops.filter (fun o => o.state == 0 && opKind o == 2)).length < 16)
    ∧ (cPar (cmd 15 [0xFF, 1] []) 1 1 < 2 ∧ cPar (cmd 15 [0, 0, 0xFF] []) 2 2 < 256 ∧ cPar (cmd 15 [1, 0, 0xFF, 0x0F] []) 2 2 < 4096
      ∧ cPar (cmd 15 [1] []) 0 1 < 2 ∧ 0 < { readyState.start with secCounter := 1 }.secCounter ∧ readyState.start.secCounter ≤ 64)
    ∧ (assayReq.length = 48 ∧ fld assayReq 1 1 < 2 ∧ fld assayReq 2 1 = 0 ∧ allZero (slice assayReq 3 5) = true
      ∧ mayName (cmd 15 [] assayReq) (fld assayReq 0 1) ∧ partBusy (assayState 1 9 none) 11 = false
      ∧ (endedFind (assayState 1 9 none) 11 (fld assayReq 8 8)).map (fun e => assayBar (assayState 1 9 none) 11 e.lot) = some 0)
    ∧ [0, 1, 3, 5].all (fun st => ((opState 1 st).reeve.ops.find? (fun o => o.handle == cPar (opCmd 1) 0 4
        && (cAdmin (opCmd 1) || o.page == 12))).map (fun o => (o.state, opActivating o)) == some (st, false)) = true
    ∧ (ledgerAdmit (modOp (opState 1 3) (2 ^ 24 + 5) (fun x => { x with state := 0 })) (opActivity 1) (2 ^ 11)).1 = 0 := by
  unfold mayName; decide +kernel

/-- A module in a domain. -/
def joinedState : State := { readyState with link := { readyState.link with inDomain := true } }
theorem witness_SystemCommandsServe_clauses :
    (let c := cmd 15 (toLe 4 131070 ++ toLe 4 1) [0x1F, 0xE0];
      cPar c 0 4 + cPar c 4 4 ≤ 131072 ∧ cPar c 0 4 < 131072 ∧ c.req.length = 2 * cPar c 4 4 ∧ bits (fld c.req (2 * 0) 2) 12 5 = 0
      ∧ cPar c 0 4 + 0 ≠ readyState.link.modId % 2 ^ 17 ∧ routePending readyState = false)
    ∧ (let c := cmd 15 (toLe 2 4095 ++ toLe 2 1) (zeros 7 ++ [1, 0, 0, 0, 0xFF]);
      cPar c 0 2 + cPar c 2 2 ≤ 4096 ∧ cPar c 0 2 < 4096 ∧ c.req.length = 12 * cPar c 2 2
      ∧ bits (fld c.req (12 * 0 + 8) 4) 23 0 = 0 ∧ allZero (slice c.req (12 * 0) 12) = false)
    ∧ (let c := cmd 15 (toLe 2 4095 ++ zeros 6 ++ toLe 8 34) [];
      cPar c 0 2 < 4096 ∧ (maskParts (cPar c 0 2)).any (lotsActive readyState) = false ∧ joinedState.link.inDomain = true
      ∧ lotsPast joinedState (cPar c 0 2) (cBell c 8) = false ∧ readyState.link.inDomain = false
      ∧ stageEarliest readyState 0x16 (cPar c 0 2) ≤ cBell c 8 ∧ stageClash readyState 0x16 (cPar c 0 2) = none)
    ∧ (let c := cmd 15 ([0xFF, 0, 0, 0] ++ toLe 4 1100000) [];
      cPar c 0 1 = 0xFF ∧ 1100000 ≤ cPar c 4 4 ∧ cPar c 4 4 ≤ 1850000 ∧ committedMw readyState none ≤ cPar c 4 4)
    ∧ (let c := cmd 15 ([11, 0, 0, 0] ++ toLe 4 1) [];
      mayName c (cPar c 0 1) ∧ cPar c 4 4 ≠ 0 ∧ partMw readyState 11 (pendActs readyState 11) ≤ cPar c 4 4) := by
  unfold mayName; decide +kernel

/-- Logical tile 4607's parameters, with two bytes behind. -/
def tilePar (a b : Nat) : List Byte := toLe 2 4607 ++ toLe 1 a ++ toLe 1 b
/-- The last tile in a role, changed. -/
def lastTile (t : Tile) : State := setTile readyState 4798 t
theorem witness_DebugCommandsServe_tile :
    (mayTile (cmd 11 (tilePar 0 1) [0x10, 0xF]) (cPar (cmd 11 (tilePar 0 1) [0x10, 0xF]) 0 2)
      ∧ physOf readyState 4607 = 4798)
    ∧ (let c := cmd 11 (tilePar 0 1) (toLe 2 0x7C0);
      cPar c 2 1 = 0 ∧ cPar c 3 1 = 1 ∧ c.req.length = 2 ∧ (csrPeek readyState 4798 (fld c.req 0 2)).isSome = true
      ∧ takeWaits readyState 4798 (fld c.req 0 2) = false ∧ cPar (cmd 11 (tilePar 1 1) []) 2 1 = 1)
    ∧ (let c := cmd 11 (toLe 2 4607 ++ toLe 2 0x340) [];
      (csrPeek readyState 4798 (cPar c 2 2)).isSome = true ∧ csrReadOnly (cPar c 2 2) = false ∧ cPar c 2 2 ≠ 0x859 ∧ cPar c 2 2 ≠ 0x85C)
    ∧ (let c := cmd 11 (tilePar 0 0 ++ toLe 4 (Config.storeBytes - 64) ++ toLe 4 1) (zeros 64);
      linesOk (cPar c 4 4) (cPar c 8 4) = true ∧ dbgStopped (getTile readyState 4798) = true ∧ c.req.length % 64 = 0
      ∧ linesOk (cPar c 4 4) (c.req.length / 64) = true ∧ inActiveBank (getTile readyState 4798) (cPar c 4 4) c.req.length = false)
    ∧ dbgStopped (getTile (lastTile { st := .active }) 4798) = false
    ∧ ((getTile readyState 4798).dbg.loose = false ∧ (getTile (lastTile { dbg := { loose := true } }) 4798).dbg.loose = true
      ∧ (getTile (lastTile { dbg := { loose := true } }) 4798).dbg.halted = false
      ∧ (getTile (lastTile { dbg := { loose := true, halted := true } }) 4798).dbg.halted = true)
    ∧ (cPar (cmd 11 (toLe 2 4607 ++ toLe 2 1) []) 2 2 = 1 ∧ cPar (cmd 11 (tilePar 0 0 ++ zeros 8 ++ [1]) []) 12 1 < 2) := by
  unfold mayTile; decide +kernel
theorem witness_DebugCommandsServe_partition :
    (mayName (cmd 11 ([11] ++ zeros 7 ++ toLe 8 2) []) 11 ∧ 11 = cPar (cmd 11 ([11] ++ zeros 7 ++ toLe 8 2) []) 0 1
      ∧ (getPart (withPart11 { halted := true }) 11).halted = true
      ∧ readyState.clk.bell + 2 ≤ cBell (cmd 11 ([11] ++ zeros 7 ++ toLe 8 2) []) 8 ∧ (getPart readyState 11).halted = false)
    ∧ (ctxTiles readyState 11).any (fun p => bankKind3 (getTile readyState p)) = false
    ∧ (ctxTiles readyState 11).any (fun p => (getTile readyState p).dbg.halted) = false
    ∧ (let c := cmd 11 [11, 1] (zeros 128 ++ List.replicate 42 0xFF);
      11 = cPar c 0 1 ∧ cPar c 1 1 < 2 ∧ c.req.length = 170 ∧ (upto 0 8).all (fun i => (trigBad (slice c.req (16 * i) 16)).isNone) = true
      ∧ traceNames 11 c.req = [])
    ∧ (11 = cPar (cmd 11 [7, 11] []) 1 1 ∧ cPar (cmd 11 [7, 11] []) 0 1 < 8) := by
  unfold mayName; decide +kernel

/-! ## Trace, JTAG, the sideband and the host's accesses -/

/-- Partition 11 with a trigger that has matched and acts as given. -/
def hitState (act : Nat) : State :=
  withPart11 { trace := { trigs := List.replicate 8 ([1, BitVec.ofNat 8 act] ++ zeros 14), hits := [7] } }
/-- A part in a life-cycle state. -/
def lifeState (l : LifeSt) : State := { readyState with start := { readyState.start with lifeCycle := l } }
theorem witness_TraceAndJtag :
    ((upto 0 8).all (fun k => !((getPart readyState 11).trace.hits.contains k)) = true ∧ (getPart (hitState 1) 11).trace.hits = [7])
    ∧ (trigAction (((getPart (hitState 1) 11).trace.trigs.drop 7).headD []) = 1
      ∧ trigAction (((getPart (hitState 2) 11).trace.trigs.drop 7).headD []) = 2
      ∧ trigAction (((getPart (hitState 4) 11).trace.trigs.drop 7).headD []) = 4
      ∧ stageClash (hitState 4) 2 (2 ^ 11) = none ∧ partBusy (hitState 4) 11 = false ∧ ctxKind3 (hitState 4) 11 = false)
    ∧ leaves (exec (.traceTriggerMatch 11) (hitState 1)) (fun t => (getPart t 11).trace.capture) = true
    ∧ (domOn readyState 92 = true ∧ domOn State.reset 92 = false ∧ readyState.start.lifeCycle = .deployed
      ∧ (lifeState .service).start.lifeCycle = .service ∧ (lifeState .scrapped).start.lifeCycle = .scrapped)
    ∧ (readyState.start.lifeCycle ≠ .scrapped ∧ readyState.jtag.buf = [] ∧ allZero (zeros 64) = true
      ∧ reeveServes readyState = true ∧ (mailEnt 0x0101 {} []).length = 64 ∧ allZero (mailEnt 0x0101 {} []) = false
      ∧ dbgPieces (mailEnt 0x0101 {} []) = 0) := by decide +kernel

theorem witness_SidebandAnswers :
    (domOn readyState 92 = true ∧ readyState.side.dynAddr = none ∧ sideState.side.dynAddr.isSome = true)
    ∧ (fld [1, 9] 0 1 < 2 ∧ fld [1, 9] 1 1 ≠ 0 ∧ fld [1, 9] 1 1 ≠ 0xFF)
    ∧ (sideServes sideState = true ∧ 72 ≤ (vendorHead 1 [] ++ zeros 66).length ∧ slice (vendorHead 1 [] ++ zeros 66) 0 6 = vendorHead 1 [])
    ∧ (sideServes readyState = false ∧ ([] : List Byte).length < 72)
    ∧ (sideState.power.hist = [] ∧ { sideState.power with hist := [[1]] }.hist ≠ [])
    ∧ (sideState.side.events = [] ∧ { sideState.side with events := [[1]] }.events = [[1]])
    ∧ leaves (exec (.mctpControl 1 [1, 9]) sideState) (fun t => t.side.eid == 9) = true := by decide +kernel

/-- Partition 11 open to the host, under a key, with an assembler. -/
def openState (asm : List Asm) : State :=
  { withPart11 { key := 5 } with hst := { hostState.hst with winOpen := 2 ^ 11, asm := asm } }
/-- The last byte but `k` of the last share. -/
def shareTop (k : Nat) : Nat := 12 * 2 ^ 35 - 1 - k
theorem witness_HostAccessesTheShares :
    (barOpen (openState []) = true ∧ shareTop 3 % 4096 + 4 ≤ 4096 ∧ shareTop 3 < 2 ^ 39)
    ∧ (busRefusal (openState []) true 0 = some 0 ∧ busRefusal (openState []) true (shareTop 3) = none
      ∧ busRefusal (openState []) true (12 * 2 ^ 35) = some 2 ∧ busRefusal { openState [] with reeve := { readyState.reeve with computeReset := true } } true (shareTop 3) = some 1)
    ∧ (shareTop 3 % 4096 ≠ 0 ∧ asmOf (openState []) (shareTop 3 / 2 ^ 35) (shareTop 3 % 2 ^ 35 / 4096) = none
      ∧ shareTop 4095 % 4096 = 0 ∧ (openState []).hst.asm.length < 64)
    ∧ (bitAt (openState []).hst.winOpen 0 = false ∧ bitAt (openState []).hst.winOpen 11 = true ∧ (getPart (openState []) 11).key ≠ 0)
    ∧ (asmOf (openState [⟨11, 8388607, [1, 2]⟩]) 11 8388607 = some ⟨11, 8388607, [1, 2]⟩ ∧ asmOf (openState []) 11 8388607 = none)
    ∧ ((openState []).hst.pcieUp = true ∧ shareTop 4095 + 4096 ≤ 2 ^ 39 ∧ shareTop 4095 % 4096 + 4096 ≤ 4096
      ∧ barOpen { openState [] with hst := { hostState.hst with memEn := false } } = false
      ∧ busRefusal (hostSettle (openState [])) true (shareTop 3) = none ∧ busRefusal (hostSettle (openState [])) true 0 = some 0)
    ∧ (barWriteOk 1 1 = false ∧ 0x1FFFFF + 1 ≤ 0x200000)
    ∧ leaves (exec (.bar2Write (shareTop 4095) [1, 2, 3, 4] false) (openState [])) (fun t =>
      t.hst.asm == [⟨11, 8388607, [1, 2, 3, 4]⟩]) = true := by decide +kernel

theorem witness_RegisterWritesAndConfiguration :
    (reeveServes readyState = true ∧ barOpen hostState = true ∧ barOpen readyState = false
      ∧ (toLe 4 7) ≠ [] ∧ 0x004 + (toLe 4 7).length ≤ 0x200000 ∧ barWriteOk 0x004 4 = true ∧ barWriteOk 0x002 4 = false)
    ∧ leaves (exec (.hostRegisterWrite false 0x004 (toLe 4 7)) hostState) (fun t => t.hst.scratch == 7) = true
    ∧ (25 ≤ bits (25 * 2 ^ 16) 25 16 ∧ bits (600 * 2 ^ 16) 25 16 ≤ 600 ∧ bits (24 * 2 ^ 16) 25 16 < 25 ∧ 600 < bits (601 * 2 ^ 16) 25 16)
    ∧ (inRing 0x1F4FF 1 = true ∧ inRing 0x1F500 1 = false)
    ∧ ((lifeState .service).start.lifeCycle = .service ∧ { readyState.jtag with engine := true }.engine = true
      ∧ engineOpen readyState = false ∧ reeveServes State.reset = false)
    ∧ (0x7FFFFF + [(1#8)].length ≤ 0x800000)
    ∧ (tileOn (withDoms readyState [58]) 4799 = true ∧ (csrCustom (withDoms readyState [58]) 4799 0x7C0).isSome = true
      ∧ (csrCustom (withDoms readyState [58]) 4799 0xCC0).isSome = true ∧ csrReadOnly 0xCC0 = true)
    ∧ (hostState.hst.pcieUp = true ∧ readyState.hst.pcieUp = false ∧ readyState.power.keepAlive = false
      ∧ (ledgerAdmit readyState 7 0).1 = 0 ∧ (ledgerAdmit (opState 5 1) 7 0).1 ≠ 0) := by decide +kernel

/-! ## The remaining clauses -/

theorem witness_StartBeginsAndPciResets_trip :
    (let s : State := { State.reset with pins := { State.reset.pins with thermLatched := true } };
      s.pins.inputGood = false ∧ s.pins.thermLatched = true
      ∧ leaves (exec (.inputGood 48000) s) (fun t => domOn t 92 && !t.pins.thermtripN && t.start == s.start) = true) := by
  decide +kernel
theorem witness_PowerSampleAndKeepAlive_out :
    (let s := { sideState with power := { sideState.power with keepAlive := true } };
      sideServes s = true ∧ s.start.ready = true ∧ s.power.keepAlive = true) := by decide +kernel
theorem witness_BellPeriodInCycles_minimum :
    (let s : State := { expectedState with clk := { expectedState.clk with periodUs := 20, intvCc := 28000 } };
      s.clk.expected = true ∧ moduleReady s = true ∧ moduleDone s ≤ 1400 * 20 ∧ s.clk.intvCc ≤ 1400 * 20)
    ∧ parts.any (overrunCtx expectedState) = false := by decide +kernel
theorem witness_LoadsAndStepsRun_stepEnd :
    (let s := tileState 4799 (stepTile (2 * 2 ^ 43)); let w := seqWord (getTile s 4799);
      swCtrOp w = 0 ∧ swNextT w < seqSteps (getTile s 4799) ∧ swNextF w < seqSteps (getTile s 4799) ∧ swCond w = 2)
    ∧ swCond (seqWord (stepTile (2 ^ 43))) = 1 ∧ swCond (seqWord (stepTile 5)) = 0
    ∧ seqReady (stepTile (6 * 2 ^ 43)) = true := by decide +kernel
theorem witness_DmaAndTokens_more :
    maskListed (memRead (memWrite [] 0 (List.replicate 64 1)) 0 64) = true
    ∧ bitAt (fld (patch (one 1 2) 2 [1]) 2 1) 0 = true ∧ bitAt (fld (one 1 2) 2 1) 0 = false
    ∧ readReady 4799 (dmaState 1) { desc := patch (one 1 1) 0xC [1], ctr := 0, begun := 0, step := 0, descIdx := 0, sent := 15, job := 1 }
      = true := by decide +kernel
theorem witness_ClerkTrapEntryAndReturn_fetch :
    (match fetch { ({} : Clerk) with pc := 0xFFFFFFFE } with | .inl a => a == 0xFFFFFFFE | .inr _ => false) = true
    ∧ canIssue (clerkState 0x30200073) .mret = true
    ∧ (let k := { loopClerk 3 with lpStatus := 4 };
      bitAt k.lpStatus 2 = true ∧ bitAt k.lpStatus 0 = false ∧ (mretExec k).pc = k.mepc)
    ∧ (getTile (clerkState 0x00000073) 4799).clerk.inTrap = false := by decide +kernel
/-- The mesh of partition 0 under power. -/
def meshOn (s : State) : State := withDoms s [4, 95]
theorem witness_RoutersAndCombiners_powered :
    (onBypass (meshOn (routedState 0 2 tokenPkt)) 0 = false ∧ onBypass (routedState 0 2 tokenPkt) 0 = true
      ∧ domOn (meshOn (routedState 0 2 tokenPkt)) 95 = true ∧ logOf (meshOn rivalState) 0 = some 0
      ∧ (pick (candidates (fillAll (meshOn (routedState 0 2 tokenPkt)) 0) 0 3)).isSome = true
      ∧ (pick (candidates (fillAll (meshOn rivalState) 0) 0 0)).map (fun c => c.input) = some 1)
    ∧ combinePkt (meshOn (routedState 0 2 (memberPkt 3))) 0 0 3 = some (memberPkt 3)
    ∧ combinePkt (meshOn (routedState 4 2 (memberPkt 5))) 0 4 5 = some (memberPkt 5) := by decide +kernel
theorem witness_MillsAndStackUpkeep_turn :
    [1, 2, 3, 0x20, 0x21, 0x30, 0x31].all (fun op =>
      let e : MillEnt := { desc := patch (millDesc op) 0x38 (toLe 2 64), src := 0xFFFF }
      let s := stackState (boltStack 0 0) { running := [(0, some e)] }
      millTurn s (boltStack 0 0) == some 0 && (nextGroup s (boltStack 0 0) 0 e).isSome) = true
    ∧ (let e : MillEnt := { desc := millDesc 0x10, src := 0, arrived := [0] };
      let s := stackState (boltStack 0 0) { running := [(0, some e)] };
      millTurn s (boltStack 0 0) = some 0 ∧ readyGroup s (boltStack 0 0) 0 e = some 0)
    ∧ (let e : MillEnt := { desc := longDesc 1, src := 0xFFFF, group := 65536 };
      let s := stackState 7 { running := [(0, some e)] };
      millTurn s 7 = some 0 ∧ nextGroup s 7 0 e = none) := by decide +kernel

theorem witness_FlitsLeaveByPriority_probe :
    ((getPort (portIn 31 2) 31).signal ≠ 0 ∧ readyState.reeve.gone = false
      ∧ leaves (exec (.flitTransmit 31) (portIn 31 2)) (fun t => (getPort t 31).st == 3 && fld (getPort t 31).lastTx 0 1 == 6) = true)
    ∧ (getPort (sendState 0) 31).probeDue = false
    ∧ leaves (exec (.flitTransmit 31) { sendState 0 with reeve := { readyState.reeve with gone := true } })
      (fun t => fld (getPort t 31).lastTx 0 1 == 2) = true := by decide +kernel
/-- A link-state flit that refuses the change of bell 9, of a module of domain 5. -/
def voteFlit : List Byte := flit 5 0 0 4096 0 0 (toLe 4 9 ++ [7, 1, 2, 3] ++ toLe 4 5 ++ zeros 8 ++ toLe 8 9 ++ [1])
theorem witness_ProbesBellsAndLinkState_voteComes : flitComes (domainState 6) 31 5 voteFlit :=
  flit_comes _ _ _ _ _ _ _ _ _ (by decide) (by decide) (by decide +kernel)
theorem witness_ProbesBellsAndLinkState_votes :
    (bitAt (fld voteFlit 40 1) 0 = true ∧ (domainState 6).clk.bell % 2 ^ 48 < fld voteFlit 32 8 % 2 ^ 48
      ∧ fld voteFlit 17 1 % 4 ≠ 2 ∧ (getPort (domainState 6) 31).st ≠ 7)
    ∧ nearestBell bellPort (((500000400 : Nat) : Int) - ((getPort bellPort 31).lat : Int) - (fld bellFlit 20 4 : Int)) = some 0
    ∧ nearestBell bellPort (((2000000400 : Nat) : Int) - ((getPort bellPort 31).lat : Int) - (fld bellFlit 20 4 : Int))
      ≠ some (fld bellFlit 12 8 % 2 ^ 48) := by decide +kernel
/-- A state in which messages of group 1 that come by port 31 go to ports 0 and 1, and here. -/
def castState : State :=
  let s := withPort (withPort (portIn 0 6) 1 (fun q => { q with st := 6 })) 31 (fun q => { q with st := 6, rxQ := [{ cls := 0, bytes := msg 3 1 0 1 0 0 64 }] })
  { withDoms s [95] with link := { readyState.link with mcast := [(1, toLe 4 3 ++ toLe 4 2 ++ toLe 4 (2 ^ 31 + 2 ^ 30 + 31 * 2 ^ 24))] } }
theorem witness_SpineFollowsTheRoutes_cast :
    (mCast (msg 3 1 0 1 0 0 64) = true ∧ bitAt (mcastEntry castState 1).2.2 31 = true ∧ bits (mcastEntry castState 1).2.2 28 24 = 31
      ∧ 1 < mHops (msg 3 1 0 1 0 0 64)
      ∧ (upto 0 32).all (fun q => !(bitAt (mcastEntry castState 1).1 q) || portUp (getPort castState q)) = true
      ∧ leaves (exec (.spineRouteLookup 31 false) castState) (fun t => (kvGet [] (getPort t 0).txQ 0).length == 1
        && (kvGet [] (getPort t 1).txQ 1).length == 1 && (getPort t 31).here.length == 1) = true)
    ∧ crc32c (mPay (msg 1 0 0 3 0 0 2)) = fld (msg 1 0 0 3 0 0 2) 0x28 4
    ∧ crc32c (mPay (msg 1 0 0 3 0 0 2)) ≠ fld (patch (msg 1 0 0 3 0 0 2) 0x28 [1]) 0x28 4 := by decide +kernel
theorem witness_LocalMessagesArrive_late :
    (let m := patch (msg 1 0 5 0 0 0 1) 1 [2];
      let s := { partyState m with link := { readyState.link with abandoned := [⟨9, 0, 5, 0⟩] } };
      mItem m = true ∧ localCause s m = some 8 ∧ (hereNext s 31 (getPort s 31)).isSome = true)
    ∧ (let m := patch (msg 1 0 5 0 0 0 1) 0x28 [1];
      localCause (partyState m) m = none ∧ (hereNext (partyState m) 31 (getPort (partyState m) 31)).isSome = true
      ∧ crc32c (mPay m) ≠ fld m 0x28 4) := by decide +kernel
theorem witness_SlicesAndMigrations_inputs :
    (let s := setTile readyState 4799 { router := { corr := 17 } };
      holeTile s 191 = 4799 ∧ (getTile s 4799).hw.eccSeen = 0 ∧ 16 < (getTile s 4799).router.corr
      ∧ leaves (exec (.haywardSliceStart 191) s) (fun t => t.reeve.inbox.map (fun e => e.code) == [evInputEcc]) = true)
    ∧ (getTile readyState 4799).router.corr ≤ 16 := by decide +kernel
/-- A weight upset of the last tile, and one it met before. -/
def memoState : State :=
  let e : Event := { code := 0x0121, unit := 2 ^ 28, loc := 256 * 47 + 99, pay := toLe 4 5 }
  { readyState with reeve := { readyState.reeve with inbox := [e] }, rows := [(191, { hist := [(4799, 4, 6, 0)] })] }
theorem witness_FailureEventsAndLotEnds_memo :
    (memoState.pins.thermLatched = false ∧ (memoState.reeve.inbox.map eventMemo) = [some (4, 5)] ∧ memoMeets 4 6 5 = true
      ∧ (getRow memoState (physProw 4799)).hist = [(4799, 4, 6, 0)]
      ∧ leaves (exec .failureEvent memoState) (fun t => (getTile t 4799).st == .pinfold) = true)
    ∧ eventMemo { code := 0x0193 } = none
    ∧ leaves (exec .failureEvent (eventState 0x0193)) (fun t =>
      (t.reeve.recs.find? (fun r => recSame { code := 0x0193 } r.2)).isSome) = true := by decide +kernel
theorem witness_ResetsClearAndComplete_pending :
    (let s := { resetState 17 { patMap := mapEntry } with
        reeve := { readyState.reeve with changes := [{ id := 3, kind := 0x10, parts := 2 ^ 11, target := 9 }] } };
      (stageClash s 0x10 (2 ^ 11)).map (fun c => (c.kind, c.evaluated)) = some (0x10, false) ∧ reloadBad s 11 = none
      ∧ loadsDeferred s = false)
    ∧ (let s := { resetState 17 { patMap := mapEntry } with
        reeve := { readyState.reeve with changes := [{ id := 3, kind := 0x11, parts := 2 ^ 11, target := 9 }] } };
      (stageClash s 0x10 (2 ^ 11)).map (fun c => c.kind) = some 0x11)
    ∧ (let s := { resetState 17 { patMap := mapEntry } with
        reeve := { readyState.reeve with changes := [{ id := 3, kind := 5, parts := 0xFFFF, target := 9, evaluated := true }] } };
      loadsDeferred s = true ∧ reloadBad s 11 = none) := by decide +kernel
theorem witness_EngineResetsAndEscalation_more :
    ((beginReset { readyState with pins := { readyState.pins with thermLatched := true } } 11 3 0x44) =
        { readyState with pins := { readyState.pins with thermLatched := true } })
    ∧ (physPart 4798 = 11 ∧ (logOf readyState 4798).isSome = true ∧ (getTile readyState 4798).st ≠ .pinfold)
    ∧ { readyState.reeve with standby := false }.standby = false := by decide +kernel
/-- Two operations' kinds: a load, an update, a qualification; and a vote that puts loads off. -/
def kindState (kind total : Nat) (vote : Bool) : State :=
  { readyState with reeve := { readyState.reeve with
      ops := [{ handle := 2 ^ 24 * kind + 5, page := 12, mask := 2 ^ 11, state := 1, total := total }]
      changes := if vote then [{ id := 3, kind := 5, parts := 0xFFFF, target := 9, evaluated := true }] else [] } }
theorem witness_LongOperationsAndAssays_kinds :
    ([2, 5, 6].all (fun k => (kindState k 1 false).reeve.ops.map (fun o => (opKind o, o.state)) == [(k, 1)]) = true)
    ∧ (loadsDeferred (kindState 2 1 false) = false ∧ loadsDeferred (kindState 2 1 true) = true)
    ∧ (upto 0 32).all (fun p => (getPort (kindState 6 1 false) p).st != 4) = true
    ∧ (let a : Assay := { lot := 6, mode := 1, suspects := [], handle := 2 ^ 26 + 5, live := false };
      (getPart (assayState 1 9 (some a)) 11).assay.map (fun a => a.live) = some false
      ∧ (assayOp (assayState 1 9 (some a)) 11).isSome = true)
    ∧ (let a : Assay := { lot := 6, mode := 1, suspects := [], handle := 2 ^ 26 + 5, live := true, replay := 2 };
      (opGet (assayState 1 5 (some a)) a.handle).total ≤ a.replay ∧ (liveAssay (assayState 1 5 (some a)) 11).isSome = true) := by
  decide +kernel
theorem witness_MailboxChecksComeFirst_reset :
    (let s := { readyState with reeve := { readyState.reeve with computeReset := true } };
      s.start.ready = true ∧ mailCheck s ⟨12, mailEnt 0x0106 { writes := true } [], []⟩ { writes := true } = some (0x24, 0)) := by
  decide +kernel
theorem witness_MaintenanceCommandsServe_cancel :
    (opState 1 1).reeve.ops.map opActivating = [false] ∧ (opState 1 3).reeve.ops.map opActivating = [false]
    ∧ ((opCancelCmd (opState 1 3) (opCmd 1)).st.reeve.ops.map (fun o => o.state)) = [6] := by decide +kernel
theorem witness_DebugCommandsServe_written :
    (let c := cmd 11 (toLe 2 4607 ++ toLe 2 0x851 ++ toLe 4 15) [];
      cPar c 2 2 = 0x851 ∧ 0 < credits { ({} : Tile) with outCredits := [(15, 1)] } (bits (cPar c 4 4) 3 0)
      ∧ dbgStopped { ({} : Tile) with outCredits := [(15, 1)] } = true)
    ∧ imFillOk {} (2 ^ 16) = true
    ∧ (cPar (cmd 11 (toLe 2 4607 ++ toLe 2 0x859) []) 2 2 = 0x859 ∧ cPar (cmd 11 (toLe 2 4607 ++ toLe 2 0x85C) []) 2 2 = 0x85C
      ∧ csrReadOnly (cPar (cmd 11 (toLe 2 4607 ++ toLe 2 0xF14) []) 2 2) = true) := by decide +kernel

theorem witness_LongOperationsAndAssays_blocked :
    (let a : Assay := { lot := 6, mode := 1, suspects := [], handle := 2 ^ 26 + 5, live := false };
      let s := assayState 1 9 (some a);
      let t := { s with rows := [(191, { stop := .slice, spare := 24 - replaySpare (assayLot s 11 a) a 191 + 1 })] };
      s.reeve.ops.map (fun o => o.state) = [1] ∧ setupBlocked s 11 a = false ∧ setupBlocked t 11 a = true
      ∧ (partRows 11).all (fun r => (getRow s r).stop != .slice) = true ∧ (partRows 11).contains 191 = true)
    ∧ (let a : Assay := { lot := 6, mode := 1, suspects := [], handle := 2 ^ 26 + 5, live := true, cut := true };
      [2, 4].all (fun st => (liveAssay (assayState st 4 (some a)) 11).isSome
        && ((opGet (assayState st 4 (some a)) a.handle).state == st)
        && decide (a.replay < (opGet (assayState st 4 (some a)) a.handle).total)) = true)
    ∧ (let s := kindState 6 1 false;
      let o : Op := { handle := 6 * 2 ^ 24 + 5, page := 12, mask := 2 ^ 63, state := 1, total := 1 };
      let t := { s with reeve := { s.reeve with ops := [o] }, ports := [(31, { getPort s 31 with st := 4 })] };
      bitAt o.mask (32 + 31) = true ∧ (getPort t 31).st = 4 ∧ opKind o = 6)
    ∧ [2, 5].all (fun k => (opState k 4).reeve.ops.map opKind == [k]) = true
    ∧ (assayOp (opState 4 3) 11).map (fun o => o.state) = some 3 := by decide +kernel
theorem witness_MailboxChecksComeFirst_turn :
    (let s := mailState 15 (mailEnt 0x0101 {} []);
      let t := { s with reeve := { s.reeve with pages := [(3, { doorbell := 1 }), (15, { doorbell := 1 })], lastPage := 2 } };
      turnPage s = some 15 ∧ turnPage readyState = none ∧ turnPage t = some 3
      ∧ turnPage { t with reeve := { t.reeve with lastPage := 3 } } = some 15 ∧ headCmd t 15 = none
      ∧ leaves (exec (.modIdentity 15 none true) s) (fun u => u.reeve.lastPage == 15 && (getPage u 15).cmdCi == 1) = true)
    ∧ (let c : MCmd := ⟨15, patch (mailEnt 0x0301 { req := true } []) 8 (toLe 8 64 ++ toLe 4 16), []⟩;
      mailCheck readyState c { req := true } = none ∧ (reqRead readyState c { req := true }).out ≠ readyState.out
      ∧ (serveCmd readyState c { req := true } false true modIdentity).status = 0x14)
    ∧ (let c : MCmd := ⟨15, patch (mailEnt 0x0102 { resp := true } []) 0x14 (toLe 4 127), []⟩;
      mailCheck readyState c { resp := true } = none ∧ cCap c < (modGeometry (reqRead readyState c { resp := true }) c).buf.length)
    := by decide +kernel
theorem witness_ModCommandsServe_partitions :
    (let c := cmd 15 [4, 12] []; let d := cmd 15 [4, 11] [];
      12 ≤ cPar c 1 1 ∧ cPar d 1 1 < 12 ∧ readyState.pins.thermLatched = false
      ∧ readyState.start.ready = true ∧ (modResetCompute readyState c).status = 0x13 ∧ (modResetPower readyState c).status = 0x13)
    := by decide +kernel
theorem witness_TraceAndJtag_engine :
    (let f : LifeSt → Nat → Bool → State := fun l k e =>
        { lifeState l with
          start := { readyState.start with lifeCycle := l, returns := k }
          jtag := { readyState.jtag with engine := e } };
      (domOn (f .raw 0 true) 92 && (f .raw 0 true).jtag.engine && domOn (f .service 2 true) 92) = true
      ∧ leaves (exec (.jtagTesteng 3) (f .raw 0 true)) (fun t => t.start.lifeCycle == .provisioned && t.start.lifeChanged) = true
      ∧ leaves (exec (.jtagTesteng 4) (f .service 2 true)) (fun t => t.start.lifeCycle == .deployed && t.start.returns == 3) = true
      ∧ leaves (exec (.jtagTesteng 4) (f .service 3 true)) (fun t => t.start.lifeCycle == .service && t.jtag.engine) = true
      ∧ leaves (exec (.jtagTesteng 6) (f .service 3 true)) (fun t => t.start.lifeCycle == .scrapped) = true
      ∧ leaves (exec (.jtagTesteng 2) (f .service 3 true)) (fun t => t.start.lifeCycle == .service) = true
      ∧ leaves (exec (.jtagTesteng 2) (f .raw 0 true)) (fun t => t.start.lifeCycle == .raw && t.jtag.engine) = true
      ∧ leaves (exec (.jtagTesteng 1) (f .service 0 false)) (fun t => t.jtag.engine) = true
      ∧ leaves (exec (.jtagTesteng 3) (f .raw 0 false)) (fun t => t.start.lifeCycle == .raw) = true
      ∧ leaves (exec (.jtagTesteng 3) (f .provisioned 0 true)) (fun t => t.jtag.ir == 15) = true) := by decide +kernel
theorem witness_SidebandAnswers_fallback :
    (let s := { sideState with start := { sideState.start with runSlot := 0, phase := 0xF } };
      sideAnswers s = true ∧ sideServes s = false ∧ sideAnswers sideState = true
      ∧ sideAnswers { s with start := { s.start with phase := 0xE } } = false
      ∧ leaves (exec (.sidebandRequest (vendorHead 1 [] ++ zeros 66)) s) (fun t => t.reeve.takeSeq == s.reeve.takeSeq + 1) = true)
    ∧ (fld [0, 9] 0 1 = 0 ∧ fld [1] 0 1 ≠ 0 ∧ fld [0x7F] 0 1 = 0x7F ∧ fld [2] 0 1 ∉ [0, 1, 0x7F, 0xFF] ∧ 1 < fld [2, 9] 0 1
      ∧ fld [0, 0xFF] 1 1 = 0xFF) := by decide +kernel
theorem witness_HostAccessesTheShares_read :
    (let s := openState []; let k := boltStack (getPart s 11).seed.toNat 8388607;
      (getStack s k).lost = false ∧ (getStack s k).remote = [] ∧ (getStack s k).inq = []
      ∧ (spineRead s false 11 8388607 63 1).1.length = 64
      ∧ leaves (exec (.bar2Read (shareTop 3) 4 9) s) (fun t => t.out.map (fun o => (o.kind, o.data.length)) == [(2, 4)]) = true) := by
  decide +kernel
theorem witness_RegisterWritesAndConfiguration_domains :
    (domOn (withDoms readyState [67]) (60 + 7) = true ∧ tileOn readyState 4799 = false
      ∧ inRing 0x14 8 = false ∧ inRing 0x14 4 = false ∧ inRing (0x14 + 4) 4 = false ∧ [(1 : Byte), 2, 3, 4, 5, 6, 7, 8].length = 8)
    ∧ leaves (exec (.hostRegisterWrite false (0x100000 + 4096 * 7 + 4) (toLe 4 7)) (withDoms hostState [67])) (fun t =>
      t.reeve.inbox.map (fun e => e.code) == [0xF009]) = true := by decide +kernel

end Sys2Proof.Tests
end

section
/-! SUPPORT. The reflected CRC that the block computes is the textbook CRC of R10 and R311, for every polynomial; a refused bolt
leaves the memory as it stands; the link send's header and the geometry end in the tally they carry. -/

namespace Sys2Proof.Machine

/-! ## A register in reverse order -/

/-- Bits taken in from the top down: the last one taken is the lowest. -/
theorem testBit_bitsFold (f : Nat → Bool) (n a m i : Nat) :
    ((upto a n).foldl (fun m j => 2 * m + b2n (f j)) m).testBit i
      = if i < n then f (a + n - 1 - i) else m.testBit (i - n) := by
  induction n generalizing a m with
  | zero => simp [upto]
  | succ n ih =>
    rw [upto, List.foldl_cons, ih]
    rcases Nat.lt_trichotomy i n with h | rfl | h
    · simp [h, show i < n + 1 by omega, show a + 1 + n = a + (n + 1) by omega]
    · cases hf : f a <;> simp [b2n, hf]
    · obtain ⟨k, rfl⟩ : ∃ k, i = n + 1 + k := ⟨i - (n + 1), by omega⟩
      rw [if_neg (by omega), if_neg (by omega), show n + 1 + k - n = k + 1 by omega, Nat.add_sub_cancel_left, Nat.testBit_add_one]
      cases f a <;> simp [b2n, Nat.mul_add_div]

@[simp] theorem testBit_reflected32 (r : BitVec 32) (i : Nat) :
    (reflected32 r).testBit i = (decide (i < 32) && r.getLsbD (31 - i)) := by
  rw [reflected32, testBit_bitsFold]
  by_cases h : i < 32 <;> simp [h]

theorem reflected32_xor (r q : BitVec 32) : reflected32 (r ^^^ q) = reflected32 r ^^^ reflected32 q := by
  apply Nat.eq_of_testBit_eq
  intro i
  by_cases h : i < 32 <;> simp [h]

theorem reflected32_shiftLeft_one (r : BitVec 32) : reflected32 (r <<< 1) = reflected32 r / 2 := by
  apply Nat.eq_of_testBit_eq
  intro i
  rw [Nat.testBit_div_two, testBit_reflected32, testBit_reflected32, BitVec.getLsbD_shiftLeft]
  by_cases h : i < 31
  · simp [show i < 32 by omega, show i + 1 < 32 by omega, show 31 - i ≠ 0 by omega, show 31 - i < 32 by omega, Nat.sub_sub]
  · simp [show ¬ i + 1 < 32 by omega, show 31 - i = 0 by omega]

theorem reflected32_crcTextBit (poly r : BitVec 32) (b : Bool) :
    reflected32 (crcTextBit poly r b)
      = if ((reflected32 r).testBit 0 != b) = true then reflected32 r / 2 ^^^ reflected32 poly else reflected32 r / 2 := by
  have hlow : (reflected32 r).testBit 0 = r.getLsbD 31 := by rw [testBit_reflected32]; rfl
  rw [crcTextBit, ← reflected32_shiftLeft_one, ← reflected32_xor, apply_ite reflected32, hlow]

/-! ## The computed check is the textbook's -/

/-- One bit of the reflected form, with the bits `x` still to come already added to the register: the lowest of them is taken
in, and the others wait one place further down. -/
theorem crcBit_xor (poly r : BitVec 32) (x : Nat) :
    crcBit (reflected32 poly) (reflected32 r ^^^ x) = reflected32 (crcTextBit poly r (x.testBit 0)) ^^^ (x / 2) := by
  have hbit : ((reflected32 r ^^^ x) % 2 == 1) = ((reflected32 r).testBit 0 != x.testBit 0) := by
    rw [Bool.bne_eq_xor, ← Nat.testBit_xor, Nat.testBit_zero]
    rfl
  rw [crcBit, hbit, reflected32_crcTextBit, Nat.xor_div_two]
  split
  · exact Nat.xor_right_comm _ _ _
  · rfl

theorem crcByte_eq_text (poly r : BitVec 32) (b : Byte) :
    crcByte (reflected32 poly) (reflected32 r) b
      = reflected32 (((upto 0 8).map (fun i => b.getLsbD i)).foldl (crcTextBit poly) r) := by
  have hb : b.toNat / 2 / 2 / 2 / 2 / 2 / 2 / 2 / 2 = 0 := by have := b.isLt; omega
  change crcBit _ (crcBit _ (crcBit _ (crcBit _ (crcBit _ (crcBit _ (crcBit _ (crcBit _ (reflected32 r ^^^ b.toNat)))))))) = _
  simp only [crcBit_xor, hb, Nat.xor_zero, Nat.testBit_div_two]
  rfl

theorem crcRun_eq_foldl (poly c : Nat) (bs : List Byte) : crcRun poly c bs = bs.foldl (crcByte poly) c := by
  induction bs generalizing c with
  | nil => exact rfl
  | cons b t ih => exact ih _

theorem crcRun_eq_text (poly r : BitVec 32) (bs : List Byte) :
    crcRun (reflected32 poly) (reflected32 r) bs
      = reflected32 ((bs.flatMap (fun b => (upto 0 8).map (fun i => b.getLsbD i))).foldl (crcTextBit poly) r) := by
  rw [crcRun_eq_foldl, List.foldl_flatMap]
  exact List.foldl_hom reflected32 (crcByte_eq_text poly)

/-- The reflected form over any polynomial is the textbook CRC over that polynomial (R10, R311). -/
theorem crcRun_eq_crcText (poly : BitVec 32) (bs : List Byte) :
    Nat.xor (crcRun (reflected32 poly) 0xFFFFFFFF bs) 0xFFFFFFFF = crcText poly bs := by
  have hones : reflected32 0xFFFFFFFF#32 = 0xFFFFFFFF := by decide
  rw [crcText, ← crcRun_eq_text, hones]

theorem crc32c_eq_crcText (bs : List Byte) : crc32c bs = crcText 0x1EDC6F41#32 bs := by
  have hpoly : reflected32 0x1EDC6F41#32 = 0x82F63B78 := by decide
  rw [← crcRun_eq_crcText, hpoly, crc32c]

/-! ## Where tallies stand -/

@[simp] theorem failLots_dram (s : State) (n code bell cc : Nat) : (failLots s n code bell cc).dram = s.dram :=
  modPart_dram s n _

@[simp] theorem failLots_bolts (s : State) (n code bell cc : Nat) : (failLots s n code bell cc).bolts = s.bolts :=
  modPart_bolts s n _

@[simp] theorem stackFail_dram (s : State) (e : Event) : (stackFail s e).dram = s.dram := by simp [stackFail]

@[simp] theorem stackFail_bolts (s : State) (e : Event) : (stackFail s e).bolts = s.bolts := by simp [stackFail]

/-- What a bolt whose tally fails comes to: counted and reported, not stored (R284). -/
theorem boltWrite_of_tally_ne (s : State) (k n b tally : Nat) (bs : List Byte) (h : crc32c bs ≠ tally) :
    boltWrite s k n b tally bs
      = stackFail (modStack s k (fun q => { q with tlyWrite := satAdd 16 q.tlyWrite 1 })) (boltEvent s k 0x0112 n b 0x0012) := by
  rw [boltWrite, if_pos (by simpa using h)]

/-- A whole bolt of the host bears its tally (Table 12.1). -/
theorem boltPost_whole (s : State) (n b y : Nat) (bs : List Byte) (h : bs.length = 4096) :
    boltPost s n b y bs
      = remotePut s { part := n, bolt := b, key := (getPart s n).key, off := y, data := bs, tally := crc32c bs, host := true } := by
  rw [boltPost, if_pos (by simpa using h)]

/-- The bytes at an offset of a list are those put there. -/
theorem slice_append_mid (as bs cs : List Byte) : slice (as ++ bs ++ cs) as.length bs.length = bs := by
  simp [slice]

/-- A patched field reads back, whatever follows the list. -/
theorem slice_patch (bs cs v : List Byte) (off : Nat) (h : off ≤ bs.length) :
    slice (patch bs off v ++ cs) off v.length = v := by
  have hoff : (bs.take off).length = off := by simpa using h
  have := slice_append_mid (bs.take off) v (bs.drop (off + v.length) ++ cs)
  rwa [hoff, ← List.append_assoc] at this

theorem patch_length (bs v : List Byte) (off : Nat) (h : off + v.length ≤ bs.length) : (patch bs off v).length = bs.length := by
  simp [patch]
  omega

/-- A link send is led by its transport header, whose bytes 0x28 to 0x2B are the tally of its bolt (R283). -/
theorem outPackets_link_head (s : State) (p tally : Nat) (j : OutJob) (tags : List Nat) (bs : List Byte) (hop : j.op = 4)
    (hlink : j.link.length = 48) :
    ∃ k, (outPackets s p j tags tally bs).head? = some k ∧ slice k.payload 0x28 4 = toLe 4 tally := by
  refine ⟨_, by rw [outPackets, hop]; rfl, ?_⟩
  have h := slice_patch (patch (patch j.link 0x10 (toLe 8 (ctxBell s (physPart p) % 2 ^ 48))) 0x18 (toLe 8 (curLot s (physPart p))))
    (zeros 16) (toLe 4 tally) 0x28 (by simp [patch_length, hlink])
  rwa [toLe_length] at h

/-- Bytes followed by their tally: what stands behind them is the tally of what stands before. -/
theorem slice_tally_after (bs : List Byte) :
    slice (bs ++ toLe 4 (crc32c bs)) bs.length 4 = toLe 4 (crc32c (slice (bs ++ toLe 4 (crc32c bs)) 0 bs.length)) := by
  simp [slice]

/-- The geometry is 124 bytes and their tally (Table 20.15). -/
theorem geometry_eq_append_tally : ∃ bs : List Byte, bs.length = 124 ∧ geometry = bs ++ toLe 4 (crc32c bs) := by
  refine ⟨_, ?_, by unfold geometry; exact rfl⟩
  simp [zeros]

theorem geometry_tally : slice geometry 124 4 = toLe 4 (crc32c (slice geometry 0 124)) := by
  obtain ⟨bs, hlen, heq⟩ := geometry_eq_append_tally
  rw [heq, ← hlen]
  exact slice_tally_after bs

/-- Settles O31: the reflected form is the textbook CRC with the register's bits in reverse order; the points where tallies stand
are read off the operations that put them there. -/
theorem tallyIsCrc32c : Obligations.TallyIsCrc32c := by
  unfold Obligations.TallyIsCrc32c
  simp only [← crc32c_eq_crcText]
  refine ⟨fun _ => trivial, by decide +kernel, ?_, ?_, ?_, fun _ _ _ => rfl, fun _ _ => geometry_tally⟩
  · intro s k n b tally bs h
    simp [boltWrite_of_tally_ne s k n b tally bs h]
  · intro s n b bs h
    exact ⟨_, boltPost_whole s n b 0 bs h, rfl, rfl⟩
  · intro s p tally j tags bs hop hlink
    exact outPackets_link_head s p tally j tags bs hop hlink

end Sys2Proof.Machine
end

section
/-! SUPPORT. How a staged bell period comes into force, and the cycles of an interval that nothing extends (R36). -/

namespace Sys2Proof.Machine

/-- A staging of module scope is one of no partition. -/
theorem stageMod_of_no_part (s : State) (c : MCmd) (f : Ans) (h : cPar c 1 1 = 0xFF) : stageMod s c f = f := by
  rw [stageMod, h]
  rfl

/-- A period within its bounds is staged as a change of module scope. -/
theorem stagePeriod_of_in_range (s : State) (c : MCmd) (hscope : cPar c 1 1 = 0xFF) (hlow : 20 ≤ stageVal c 2)
    (hhigh : stageVal c 2 ≤ 10000) : stagePeriod s c = stagePut s c 5 0xFFFF (cBell c 8) (toLe 2 (stageVal c 2)) := by
  rw [stagePeriod, stageMod_of_no_part s c _ hscope, if_neg (by simpa using ⟨hlow, hhigh⟩)]

/-- A period outside its bounds is refused, and the state stands. -/
theorem stagePeriod_of_out_of_range (s : State) (c : MCmd) (hscope : cPar c 1 1 = 0xFF)
    (hout : stageVal c 2 < 20 ∨ 10000 < stageVal c 2) : stagePeriod s c = deny s 0x12 0x30 := by
  rw [stagePeriod, stageMod_of_no_part s c _ hscope, if_pos (by simpa using hout)]

/-- A change of kind 5 puts its value in force as the period. -/
theorem changeApply_period (s : State) (c : Change) (h : c.kind = 5) : (changeApply s c).clk.periodUs = fld c.value 0 2 := by
  simp [changeApply, h, modClk]

/-- A module that fires within its hold limit: the interval's cycles up to `fireCc` are counted, and what came of them after
the expected time is the local hold (R45, R47). -/
theorem execBellFire_bell (fails : List Nat) (s : State) (hexp : s.clk.expected = true) (hon : bellOn s = true)
    (hready : moduleReady s = true) (hhold : fireCc s ≤ expectCc s + holdCc s) :
    ∃ t, execBellFire fails s = .next t ∧ bellOf t
      = (s.clk.bell + 1, 0, s.clk.cycles + (fireCc s - s.clk.intvCc), false, false, fireCc s - expectCc s, 0, false) := by
  have hfires : ¬ ((!s.clk.expected || !(bellOn s) || !(moduleReady s) || decide (expectCc s + holdCc s < fireCc s)) = true) := by
    simpa [hexp, hon, hready] using hhold
  refine ⟨_, if_neg hfires, ?_⟩
  rw [withHealth_bell, fireBell_bell]
  rfl

/-- With neither an inherited delay nor an emergency extension the next bell is expected a period after the last (R46). -/
theorem expectCc_of_no_extension (s : State) (hext : s.clk.extCc = 0) (hdelay : s.clk.expectDelay = 0) :
    expectCc s = intvLen s := by
  simp [expectCc, hext, hdelay]

/-- A module that is done by the expected time fires at it. -/
theorem fireCc_of_done (s : State) (hdone : moduleDone s ≤ expectCc s) (hcc : s.clk.intvCc ≤ expectCc s) :
    fireCc s = expectCc s :=
  max_eq_right (max_le hcc hdone)

/-- An interval that nothing extends ends after exactly its period (R36). -/
theorem execBellFire_cycles (fails : List Nat) (s : State) (hexp : s.clk.expected = true) (hon : bellOn s = true)
    (hready : moduleReady s = true) (hdone : moduleDone s ≤ intvLen s) (hcc : s.clk.intvCc ≤ intvLen s)
    (hext : s.clk.extCc = 0) (hdelay : s.clk.expectDelay = 0) :
    ∃ t, execBellFire fails s = .next t ∧ t.clk.bell = s.clk.bell + 1 ∧ t.clk.intvCc = 0
      ∧ t.clk.cycles - s.clk.cycles + s.clk.intvCc = intvLen s := by
  have hexpect := expectCc_of_no_extension s hext hdelay
  have hfire : fireCc s = intvLen s := by
    rw [← hexpect] at hdone hcc
    rw [fireCc_of_done s hdone hcc, hexpect]
  obtain ⟨t, hrun, hbell⟩ := execBellFire_bell fails s hexp hon hready (by omega)
  simp only [bellOf, coreOf, Prod.mk.injEq] at hbell
  obtain ⟨hnumber, hzero, hcycles, -⟩ := hbell
  exact ⟨t, hrun, hnumber, hzero, by omega⟩

/-- Settles O16: a module that is done by the expected time fires at it, and with nothing that extends the interval the expected
time is the period's length. -/
theorem bellPeriodInCycles : Obligations.BellPeriodInCycles := by
  unfold Obligations.BellPeriodInCycles
  refine ⟨rfl, fun s c hscope => ⟨stagePeriod_of_in_range s c hscope, stagePeriod_of_out_of_range s c hscope⟩,
    changeApply_period, ?_⟩
  rintro P fails s rfl hexp hon hready hdone hcc hext hdelay
  obtain ⟨t, hrun, hnumber, hzero, hcycles⟩ := execBellFire_cycles fails s hexp hon hready hdone hcc hext hdelay
  have hlen : intvLen s = 1400 * s.clk.periodUs := rfl
  exact ⟨t, hrun, hnumber, hzero, by omega, by omega, by omega⟩

end Sys2Proof.Machine
end

section
/-! SUPPORT. The rules of the clerk that its rows share: what a row does with the instruction at pc, the interrupts pending
in mip, and what a synchronous exception leaves. -/

namespace Sys2Proof.Machine

/-! ## Lists of numbers, and writing a key twice -/

@[simp] theorem mem_upto (a n k : Nat) : k ∈ upto a n ↔ a ≤ k ∧ k < a + n := by
  induction n generalizing a with
  | zero => simp [upto]
  | succ n ih => simp [upto, ih]; omega

theorem kvIns_kvIns {α : Type} (m : Kv α) (k : Nat) (v w : α) : kvIns (kvIns m k v) k w = kvIns m k w := by
  induction m with
  | nil => simp [kvIns]
  | cons e t ih =>
    obtain ⟨j, u⟩ := e
    rcases Nat.lt_trichotomy k j with h | rfl | h
    · simp [kvIns, h]
    · simp [kvIns]
    · simp [kvIns, Nat.lt_asymm h, Nat.ne_of_gt h, ih]

theorem kvDel_kvIns {α : Type} (m : Kv α) (k : Nat) (v : α) : kvDel (kvIns m k v) k = kvDel m k := by
  induction m with
  | nil => simp [kvIns, kvDel]
  | cons e t ih =>
    obtain ⟨j, u⟩ := e
    rcases Nat.lt_trichotomy k j with h | rfl | h
    · simp [kvIns, kvDel, h]
    · simp [kvIns, kvDel]
    · simp [kvIns, kvDel, Nat.lt_asymm h, Nat.ne_of_gt h, ih]

/-- Of two writes of a key the second stands. (In a map out of order a first write of the unlisted value may remove entries
that the second would not reach.) -/
theorem kvSet_kvSet {α : Type} [DecidableEq α] (d : α) (m : Kv α) (k : Nat) (v w : α) (h : v ≠ d) :
    kvSet d (kvSet d m k v) k w = kvSet d m k w := by
  rw [kvSet, kvSet, if_neg h, kvDel_kvIns, kvIns_kvIns, kvSet]

/-! ## Clearing a bit -/

theorem bitAt_clrBit_same (n i : Nat) : bitAt (clrBit n i) i = false := by
  unfold clrBit
  split
  case isTrue hset =>
    have hodd : n / 2 ^ i % 2 = 1 := by simpa [bitAt] using hset
    have hdiv : (n - 2 ^ i) / 2 ^ i = n / 2 ^ i - 1 := by simpa using Nat.sub_mul_div n (2 ^ i) 1
    have heven : (n / 2 ^ i - 1) % 2 = 0 := by omega
    simp [bitAt, hdiv, heven]
  case isFalse hclear => simpa using hclear

theorem bitAt_one_clrBit_zero (n : Nat) : bitAt (clrBit n 0) 1 = bitAt n 1 := by
  unfold clrBit
  split
  case isTrue hset =>
    have hodd : n % 2 = 1 := by simpa [bitAt] using hset
    have hhalf : (n - 1) / 2 = n / 2 := by omega
    simp [bitAt, hhalf]
  case isFalse => rfl

/-! ## A tile and its clerk -/

@[simp] theorem getTile_setTile_same (s : State) (p : Nat) (t : Tile) : getTile (setTile s p t) p = t :=
  kvGet_kvSet_same _ _ _ _

@[simp] theorem getTile_modClerk_same (s : State) (p : Nat) (f : Clerk → Clerk) :
    getTile (modClerk s p f) p = { getTile s p with clerk := f (getTile s p).clerk } :=
  getTile_modTile_same _ _ _

/-- Of two changes of a clerk that runs the tile shows only the composition. -/
theorem modClerk_modClerk (s : State) (p : Nat) (f g : Clerk → Clerk) (h : (f (getTile s p).clerk).run ≠ .held) :
    modClerk (modClerk s p f) p g = setTile s p { getTile s p with clerk := g (f (getTile s p).clerk) } := by
  have hwrote : ({ getTile s p with clerk := f (getTile s p).clerk } : Tile) ≠ {} := fun he => h (congrArg (·.clerk.run) he)
  have htiles := kvSet_kvSet {} s.tiles p _ { getTile s p with clerk := g (f (getTile s p).clerk) } hwrote
  rw [modClerk, modTile, getTile_modClerk_same]
  exact congrArg (fun m => { s with tiles := m }) htiles

@[simp] theorem getTile_onTrace (s : State) (n q : Nat) (f : Trace → Trace) : getTile (onTrace s n f) q = getTile s q := by
  unfold onTrace
  split <;> rfl

@[simp] theorem getTile_traceWatch (s : State) (n q : Nat) (test : List Byte → Bool) :
    getTile (traceWatch s n test) q = getTile s q := by
  unfold traceWatch
  split
  · exact getTile_onTrace _ _ _ _
  · rfl

/-- Tracing a retirement leaves the tiles as they stand. -/
@[simp] theorem getTile_traceRetire (s : State) (p pc word rd q : Nat) : getTile (traceRetire s p pc word rd) q = getTile s q := by
  simp only [traceRetire, getTile_traceWatch]
  split <;> simp

/-! ## The instruction at pc -/

/-- A clerk that can issue an instruction of the row's kind runs it. -/
theorem clerkTry_eq_insRun {s : State} {p : Nat} {i : Fetched} {kind : CKind} (hlive : clerkLive (getTile s p) = true)
    (hwin : windowStalls (getTile s p) kind = false) (hirq : pendingIrq (getTile s p) = none)
    (hfetch : fetch (getTile s p).clerk = .inr i) (hkind : kindOf i.ins = kind) (hbp : bpHit (getTile s p) = false) :
    clerkTry kind p s = insRun s p i := by
  simp [clerkTry, hlive, hwin, hirq, hfetch, hkind, hbp]

/-- An instruction that issues is executed by its row. -/
theorem clerkRow_of_issues {s : State} {p : Nat} {i : Fetched} {kind : CKind} (h : issues s p i kind) :
    clerkRow kind p s = .next (insExec s p i) := by
  obtain ⟨hp, hlive, hwin, hirq, hfetch, hkind, hbp, hbreak, hexc⟩ := h
  have hrun : insRun s p i = insExec s p i := by simp [insRun, hbreak, hexc]
  rw [clerkRow, if_neg (not_not.mpr (show p < tileCount from hp)), clerkTry_eq_insRun hlive hwin hirq hfetch hkind hbp, hrun]

/-- The rows that a CSR instruction can belong to. -/
theorem csrKind_mem (f3 rd src c : Nat) :
    csrKind f3 rd src c ∈ [CKind.qsend, .imFill, .seqFlags, .bellHold, .clkStatus, .clkFail, .rtSel, .qpop, .qw, .amax, .counter,
      .csrWrite, .base] := by
  unfold csrKind
  repeat' refine iteInduction (fun _ => ?_) (fun _ => ?_)
  all_goals decide

theorem ins_eq_wfi {x : CIns} (h : kindOf x = .wfi) : x = .wfi := by
  cases x with
  | csr f3 rd src c => exact absurd (csrKind_mem f3 rd src c) (by rw [show csrKind f3 rd src c = .wfi from h]; decide)
  | wfi => rfl
  | _ => cases h

theorem ins_eq_mret {x : CIns} (h : kindOf x = .mret) : x = .mret := by
  cases x with
  | csr f3 rd src c => exact absurd (csrKind_mem f3 rd src c) (by rw [show csrKind f3 rd src c = .mret from h]; decide)
  | mret => rfl
  | _ => cases h

/-! ## The interrupts pending in mip (Table 8.4) -/

theorem bitAt_causes (w b c : Bool) :
    bitAt (65536 * b2n w + 131072 * b2n b + 262144 * b2n c) 16 = w
      ∧ bitAt (65536 * b2n w + 131072 * b2n b + 262144 * b2n c) 18 = c := by
  cases w <;> cases b <;> cases c <;> decide

/-- Cause 16 is a wake that stands pending. -/
@[simp] theorem bitAt_mipOf_wake (t : Tile) : bitAt (mipOf t) 16 = t.clerk.wakePend := (bitAt_causes _ _ _).1

/-- Cause 18 is an arrival in a channel that TL_QIRQ names. -/
@[simp] theorem bitAt_mipOf_chan (t : Tile) : bitAt (mipOf t) 18 = chanPending t := (bitAt_causes _ _ _).2

/-! ## Synchronous exceptions -/

/-- Outside a trap an exception is a trap entry at pc. -/
theorem takeExc_of_not_inTrap (s : State) (p cause tval len : Nat) (h : (getTile s p).clerk.inTrap = false) :
    takeExc s p cause tval len = modClerk s p (fun k => trapEnter k cause k.pc.toNat tval len) := by
  simp [takeExc, h]

/-- The clerk after an exception of a fetched instruction outside a trap: the corrected fetches are counted, and the trap is
entered at pc. -/
def clerkRaised (e : Nat × Nat) (len : Nat) (k : Clerk) : Clerk := trapEnter (fetchCount k len) e.1 k.pc.toNat e.2 len

end Sys2Proof.Machine
end

section
/-! SUPPORT. Trap entry and MRET (R236), and the loop tests that a trap leaves owed (R229). -/

namespace Sys2Proof.Machine

/-! ## The loop tests -/

/-- The clerk after the last turn of a level: the level is inactive, and the clerk goes on at its end. -/
def lpEnded (k : Clerk) (lv : Nat) : Clerk :=
  { k with
    lpCount := kvSet 0 k.lpCount lv (kvGet 0 k.lpCount lv - 1)
    lpStatus := clrBit k.lpStatus lv
    pc := kvGet 0 k.lpEnd lv }

/-- The clerk that goes back to the start of a level. -/
def lpTurned (k : Clerk) (lv : Nat) : Clerk :=
  { k with lpCount := kvSet 0 k.lpCount lv (kvGet 0 k.lpCount lv - 1), pc := kvGet 0 k.lpStart lv }

theorem lpTest_of_last {k : Clerk} {lv : Nat} (h : kvGet 0 k.lpCount lv = 1) : lpTest k lv = (false, lpEnded k lv) :=
  if_pos (sub_eq_zero.mpr h)

theorem lpTest_of_more {k : Clerk} {lv : Nat} (h : kvGet 0 k.lpCount lv ≠ 1) : lpTest k lv = (true, lpTurned k lv) :=
  if_neg (sub_ne_zero.mpr h)

theorem lpEndTests_of_none {k : Clerk} {due : Nat → Bool} (h1 : due 1 = false) (h0 : due 0 = false) : lpEndTests k due = k := by
  simp [lpEndTests, h1, h0]

/-- With one level's test due, that test is run. -/
theorem lpEndTests_of_one {k : Clerk} {due : Nat → Bool} {lv : Nat} (hlv : lv < 2) (hdue : due lv = true)
    (hother : due (1 - lv) = false) : lpEndTests k due = (lpTest k lv).2 := by
  obtain rfl | rfl : lv = 0 ∨ lv = 1 := by omega
  · simp [lpEndTests, hdue, show due 1 = false from hother]
  · simp [lpEndTests, hdue, show due 0 = false from hother]

/-- With both due level 1 is tested first, and level 0 only when level 1 does not go back (R228). -/
theorem lpEndTests_of_both {k : Clerk} {due : Nat → Bool} (h1 : due 1 = true) (h0 : due 0 = true) :
    lpEndTests k due = if (lpTest k 1).1 then (lpTest k 1).2 else (lpTest (lpTest k 1).2 0).2 := by
  simp [lpEndTests, h1, h0]

/-- The loop tests change the counts, the levels' activity and pc, and nothing else of the clerk. -/
theorem lpTest_frame (k : Clerk) (lv : Nat) : (lpTest k lv).2 = { k with
    lpCount := (lpTest k lv).2.lpCount, lpStatus := (lpTest k lv).2.lpStatus, pc := (lpTest k lv).2.pc } := by
  by_cases h : kvGet 0 k.lpCount lv = 1
  · rw [lpTest_of_last h]; rfl
  · rw [lpTest_of_more h]; rfl

theorem lpEndTests_frame (k : Clerk) (due : Nat → Bool) : lpEndTests k due = { k with
    lpCount := (lpEndTests k due).lpCount, lpStatus := (lpEndTests k due).lpStatus, pc := (lpEndTests k due).pc } := by
  cases h1 : due 1 <;> cases h0 : due 0
  · rw [lpEndTests_of_none h1 h0]
  · rw [lpEndTests_of_one (by decide) h0 h1]; exact lpTest_frame k 0
  · rw [lpEndTests_of_one (by decide) h1 h0]; exact lpTest_frame k 1
  · rw [lpEndTests_of_both h1 h0]
    split
    · exact lpTest_frame k 1
    · rw [lpTest_frame (lpTest k 1).2 0, lpTest_frame k 1]

/-! ## MRET -/

/-- Is the test of a level owed at mepc (R229)? -/
def mretDue (k : Clerk) (lv : Nat) : Bool := bitAt k.lpStatus (2 + lv) && lpAct k lv && kvGet 0 k.lpEnd lv == k.mepc

/-- The clerk that leaves its trap for mepc, before the tests owed there. -/
def mretBase (k : Clerk) : Clerk := { k with mie3 := k.mpie, inTrap := false, lpStatus := k.lpStatus % 4, pc := k.mepc }

theorem mretExec_eq (k : Clerk) : mretExec k = lpEndTests (mretBase k) (mretDue k) := rfl

/-- A test is owed at mepc by a pending active level that ends there. -/
theorem mretDue_iff (k : Clerk) (lv : Nat) :
    mretDue k lv = true ↔ bitAt k.lpStatus (2 + lv) = true ∧ bitAt k.lpStatus lv = true ∧ kvGet 0 k.lpEnd lv = k.mepc := by
  simp [mretDue, lpAct, and_assoc]

/-- MRET restores MIE, leaves the trap and keeps the registers. -/
theorem mretExec_restores (k : Clerk) : (mretExec k).mie3 = k.mpie ∧ (mretExec k).inTrap = false ∧ (mretExec k).x = k.x := by
  rw [mretExec_eq, lpEndTests_frame]
  exact ⟨rfl, rfl, rfl⟩

theorem mretExec_of_none {k : Clerk} (h : ∀ lv, lv < 2 → mretDue k lv = false) : mretExec k = mretBase k :=
  lpEndTests_of_none (h 1 (by decide)) (h 0 (by decide))

/-- A level that alone is owed its test counts down: it goes back to its start, or ends at mepc. -/
theorem mretExec_of_one {k : Clerk} {lv : Nat} (hlv : lv < 2) (hdue : mretDue k lv = true)
    (hother : mretDue k (1 - lv) = false) :
    (kvGet 0 k.lpCount lv ≠ 1 → (mretExec k).pc = kvGet 0 k.lpStart lv ∧ (mretExec k).lpStatus = k.lpStatus % 4)
      ∧ (kvGet 0 k.lpCount lv = 1 → (mretExec k).pc = k.mepc ∧ bitAt (mretExec k).lpStatus lv = false)
      ∧ kvGet 0 (mretExec k).lpCount lv = kvGet 0 k.lpCount lv - 1 := by
  obtain ⟨_, _, hend⟩ := (mretDue_iff k lv).mp hdue
  rw [mretExec_eq, lpEndTests_of_one hlv hdue hother]
  by_cases hlast : kvGet 0 k.lpCount lv = 1
  · rw [lpTest_of_last (k := mretBase k) hlast]
    exact ⟨fun h => absurd hlast h, fun _ => ⟨hend, bitAt_clrBit_same _ _⟩, kvGet_kvSet_same _ _ _ _⟩
  · rw [lpTest_of_more (k := mretBase k) hlast]
    exact ⟨fun _ => ⟨rfl, rfl⟩, fun h => absurd h hlast, kvGet_kvSet_same _ _ _ _⟩

/-- With both tests owed level 1 is tested first; only when it ends is level 0 tested. -/
theorem mretExec_of_both {k : Clerk} (h : ∀ lv, lv < 2 → mretDue k lv = true) :
    kvGet 0 (mretExec k).lpCount 1 = kvGet 0 k.lpCount 1 - 1
      ∧ (kvGet 0 k.lpCount 1 ≠ 1 →
        (mretExec k).pc = kvGet 0 k.lpStart 1 ∧ kvGet 0 (mretExec k).lpCount 0 = kvGet 0 k.lpCount 0)
      ∧ (kvGet 0 k.lpCount 1 = 1 → bitAt (mretExec k).lpStatus 1 = false
        ∧ kvGet 0 (mretExec k).lpCount 0 = kvGet 0 k.lpCount 0 - 1
        ∧ (mretExec k).pc = (if kvGet 0 k.lpCount 0 = 1 then k.mepc else kvGet 0 k.lpStart 0)) := by
  obtain ⟨_, _, hend⟩ := (mretDue_iff k 0).mp (h 0 (by decide))
  rw [mretExec_eq, lpEndTests_of_both (h 1 (by decide)) (h 0 (by decide))]
  by_cases hlast1 : kvGet 0 k.lpCount 1 = 1
  · rw [lpTest_of_last (k := mretBase k) hlast1, if_neg Bool.false_ne_true]
    have hcount1 : kvGet 0 (lpEnded (mretBase k) 1).lpCount 1 = kvGet 0 k.lpCount 1 - 1 := kvGet_kvSet_same _ _ _ _
    have hcount0 : kvGet 0 (lpEnded (mretBase k) 1).lpCount 0 = kvGet 0 k.lpCount 0 := kvGet_kvSet_other _ _ _ _ _ (by decide)
    have hoff : bitAt (lpEnded (mretBase k) 1).lpStatus 1 = false := bitAt_clrBit_same _ _
    by_cases hlast0 : kvGet 0 k.lpCount 0 = 1
    · rw [lpTest_of_last (k := lpEnded (mretBase k) 1) (hcount0.trans hlast0), if_pos hlast0, ← hcount0, ← hcount1]
      exact ⟨kvGet_kvSet_other _ _ _ _ _ (by decide), fun h => absurd hlast1 h,
        fun _ => ⟨(bitAt_one_clrBit_zero _).trans hoff, kvGet_kvSet_same _ _ _ _, hend⟩⟩
    · rw [lpTest_of_more (k := lpEnded (mretBase k) 1) (hcount0.trans_ne hlast0), if_neg hlast0, ← hcount0, ← hcount1]
      exact ⟨kvGet_kvSet_other _ _ _ _ _ (by decide), fun h => absurd hlast1 h,
        fun _ => ⟨hoff, kvGet_kvSet_same _ _ _ _, rfl⟩⟩
  · rw [lpTest_of_more (k := mretBase k) hlast1]
    exact ⟨kvGet_kvSet_same _ _ _ _, fun _ => ⟨rfl, kvGet_kvSet_other _ _ _ _ _ (by decide)⟩, fun h => absurd h hlast1⟩

/-- MRET retires as it is traced, and its clerk is the one that has left the trap. -/
theorem exec_mret {p : Nat} {i : Fetched} {s : State} (h : issues s p i .mret) :
    ∃ t, exec (.mret p) s = .next t ∧ (getTile t p).clerk = mretExec { fetchCount (getTile s p).clerk i.len with
      minstret := (getTile s p).clerk.minstret + 1, moved := s.clk.cycles } := by
  obtain ⟨_, _, _, _, _, hkind, _⟩ := id h
  refine ⟨_, clerkRow_of_issues h, ?_⟩
  simp [insExec, ins_eq_mret hkind]

/-! ## Trap entry -/

/-- An exception goes to the base of mtvec, in either mode. -/
theorem trapEnter_pc_exception (k : Clerk) {cause : Nat} (epc tval len : Nat) (h : cause < 2 ^ 31) :
    (trapEnter k cause epc tval len).pc = BitVec.ofNat 32 (k.mtvec.toNat / 4 * 4) := by
  have hsync : ¬ 2147483648 ≤ cause := by omega
  simp [trapEnter, hsync]

/-- An interrupt goes to the base, or in vectored mode to its cause's place behind it. -/
theorem trapEnter_pc_interrupt (k : Clerk) {cause : Nat} (epc tval len : Nat) (h : cause < 2 ^ 31) :
    (trapEnter k (2 ^ 31 + cause) epc tval len).pc
      = BitVec.ofNat 32 (k.mtvec.toNat / 4 * 4 + if k.mtvec.toNat % 4 = 1 then 4 * cause else 0) := by
  have hcode : cause % 2147483648 = cause := Nat.mod_eq_of_lt h
  by_cases hmode : k.mtvec.toNat % 4 = 1 <;> simp [trapEnter, hmode, hcode]

/-- An interrupt leaves the loops as they stand: no test is owed (R229). -/
theorem trapEnter_lpStatus_interrupt (k : Clerk) (cause epc tval len : Nat) :
    (trapEnter k (2 ^ 31 + cause) epc tval len).lpStatus = k.lpStatus :=
  if_pos (Nat.le_add_right _ _)

/-- A refused store's count is the store's; the clerk of a raised exception outside a trap enters the trap. -/
theorem raiseExc_clerk (s : State) (p len : Nat) (e : Nat × Nat) (htrap : (getTile s p).clerk.inTrap = false) :
    (getTile (raiseExc s p e len) p).clerk = clerkRaised e len (getTile s p).clerk := by
  simp only [raiseExc]
  split
  · rw [takeExc_of_not_inTrap _ _ _ _ _ (by rw [getTile_modTile_same, getTile_modClerk_same]; exact htrap),
      getTile_modClerk_same, getTile_modTile_same, getTile_modClerk_same]
    rfl
  · rw [takeExc_of_not_inTrap _ _ _ _ _ (by rw [getTile_modClerk_same]; exact htrap), getTile_modClerk_same,
      getTile_modClerk_same]
    rfl

/-! ## TRAP_ENTRY -/

theorem exec_trapEntry {p : Nat} (ups : List (Nat × Nat)) (s : State) (hp : p < 4800) :
    exec (.trapEntry p ups) s = .next (trapTry p (imUpset s p ups)) :=
  if_neg (not_not.mpr hp)

/-- An exception of the instruction at pc is raised, but for an EBREAK that halts (R487). -/
theorem trapTry_of_exc {s : State} {p : Nat} {i : Fetched} {e : Nat × Nat} (hlive : clerkLive (getTile s p) = true)
    (hfetch : fetch (getTile s p).clerk = .inr i)
    (hbreak : i.ins = .ebreak → ((getTile s p).dbg.loose && (getTile s p).dbg.ebreakHalt) = false)
    (hexc : insExc s p i = some e) : trapTry p s = raiseExc s p e i.len := by
  have hraises : (i.ins == .ebreak && (getTile s p).dbg.loose && (getTile s p).dbg.ebreakHalt) = false := by
    simpa [Bool.and_assoc] using hbreak
  simp [trapTry, hlive, hfetch, hexc, hraises]

/-- Without an exception of the instruction at pc the interrupt that is due is taken. -/
theorem trapTry_of_irq {s : State} {p c : Nat} {i : Fetched} (hlive : clerkLive (getTile s p) = true)
    (hfetch : fetch (getTile s p).clerk = .inr i) (hexc : insExc s p i = none) (hirq : pendingIrq (getTile s p) = some c) :
    trapTry p s = modClerk s p (fun k => trapEnter k c k.pc.toNat 0 0) := by
  simp [trapTry, hlive, hfetch, hexc, hirq]

/-- A fetch that fails is the exception. -/
theorem trapTry_of_fetch_fault {s : State} {p a : Nat} (hlive : clerkLive (getTile s p) = true)
    (hfetch : fetch (getTile s p).clerk = .inl a) : trapTry p s = fetchFault s p a := by
  simp [trapTry, hlive, hfetch]

/-- Upsets of instruction memory are the clerk's. -/
theorem getTile_imUpset_dbg (s : State) (p : Nat) (ups : List (Nat × Nat)) :
    (getTile (imUpset s p ups) p).dbg = (getTile s p).dbg := by
  rw [imUpset, getTile_modClerk_same]

/-- Settles O25: the fields of `trapEnter`, the three cases of TRAP_ENTRY, and the loop tests that MRET runs by how many are
owed. -/
theorem clerkTrapEntryAndReturn : Obligations.ClerkTrapEntryAndReturn := by
  unfold Obligations.ClerkTrapEntryAndReturn
  refine ⟨?_, ?_, ?_, fun s p len e htrap => raiseExc_clerk s p len e htrap, ?_, fun p i s h => exec_mret h, ?_⟩
  · intro k cause epc tval len
    refine ⟨rfl, rfl, rfl, rfl, rfl, rfl, rfl, rfl, rfl, fun hcause => ⟨trapEnter_pc_exception k epc tval len hcause, ?_, ?_,
      trapEnter_lpStatus_interrupt k cause epc tval 0⟩⟩ <;> intro hmode
    · rw [trapEnter_pc_interrupt k epc tval 0 hcause, if_pos hmode]
    · rw [trapEnter_pc_interrupt k epc tval 0 hcause, if_neg hmode, Nat.add_zero]
  · intro p ups i e s hp hlive hfetch hbreak hexc
    rw [← getTile_imUpset_dbg s p ups] at hbreak
    rw [exec_trapEntry ups s hp, trapTry_of_exc hlive hfetch hbreak hexc]
  · intro p c ups i s hp hlive hfetch hexc hirq
    rw [exec_trapEntry ups s hp, trapTry_of_irq hlive hfetch hexc hirq]
  · intro p a ups s hp hlive hfetch
    rw [exec_trapEntry ups s hp, trapTry_of_fetch_fault hlive hfetch]
  · intro k
    obtain ⟨hmie, htrap, hx⟩ := mretExec_restores k
    refine ⟨hmie, htrap, hx, fun hnone => ?_, fun lv hlv hpend hact hend hother => ?_, fun hboth => ?_⟩
    · rw [mretExec_of_none fun lv hlv => ?_]
      · exact ⟨rfl, rfl, rfl⟩
      · rw [Bool.eq_false_iff, Ne, mretDue_iff]
        exact fun ⟨hpend, hact, hend⟩ => hnone lv hlv hpend hact hend
    · refine mretExec_of_one hlv ((mretDue_iff k lv).mpr ⟨hpend, hact, hend⟩) ?_
      rwa [show 3 - lv = 2 + (1 - lv) by omega] at hother
    · exact mretExec_of_both fun lv hlv => (mretDue_iff k lv).mpr (hboth lv hlv)

end Sys2Proof.Machine
end

section
/-! SUPPORT. The queue fault of R224 and the channel-arrival interrupt of R225. -/

namespace Sys2Proof.Machine

/-! ## Queue faults -/

/-- What a queue instruction's fault of a missing grant or credit is: its row, and the channel or entry (R224). -/
theorem queueFault_of_ungranted {s : State} {p f3 rd src c : Nat} {x : Instr} {v : Nat}
    (h : (csrKind f3 rd src c = .qpop ∧ x = .qpopRead p ∧ inGrant (getTile s p) (c - 0x840) = 0 ∧ v = c - 0x840)
      ∨ (csrKind f3 rd src c = .qw ∧ x = .qwRead p ∧ inGrant (getTile s p) (getTile s p).clerk.qsel = 0
        ∧ v = (getTile s p).clerk.qsel)
      ∨ (csrKind f3 rd src c = .qsend ∧ x = .qsendWrite p
        ∧ (outEntry (getTile s p) (bits (csrNew f3 0 (csrSrc (getTile s p).clerk f3 src)) 3 0)).2.2 = 0
        ∧ v = 256 + bits (csrNew f3 0 (csrSrc (getTile s p).clerk f3 src)) 3 0)) :
    exec x s = clerkRow (csrKind f3 rd src c) p s ∧ queueFault s p f3 rd src c = some v := by
  obtain ⟨hkind, rfl, hnone, hv⟩ | ⟨hkind, rfl, hnone, hv⟩ | ⟨hkind, rfl, hnone, hv⟩ := h
  · exact ⟨by rw [hkind]; rfl, by simp [queueFault, hkind, hnone, hv]⟩
  · exact ⟨by rw [hkind]; rfl, by simp [queueFault, hkind, hnone, hv]⟩
  · exact ⟨by rw [hkind]; rfl, by simp [queueFault, hkind, hnone, hv]⟩

/-- A legal CSR instruction that overlaps no loop's end raises its queue fault and nothing else. -/
theorem insExc_csr {s : State} {p f3 rd src c : Nat} {i : Fetched} (hins : i.ins = .csr f3 rd src c)
    (hlegal : csrLegal s p f3 src c = true)
    (hend : lpOverlap (getTile s p).clerk (getTile s p).clerk.pc.toNat i.len = false) :
    insExc s p i = (queueFault s p f3 rd src c).map (fun v => (25, v)) := by
  simp [insExc, hins, hlegal, hend]

/-- An exception other than a refused store changes the clerk alone. -/
theorem raiseExc_eq_setTile (s : State) (p len : Nat) (e : Nat × Nat) (hcause : e.1 ≠ 7)
    (hrun : (getTile s p).clerk.run ≠ .held) (htrap : (getTile s p).clerk.inTrap = false) :
    raiseExc s p e len = setTile s p { getTile s p with clerk := clerkRaised e len (getTile s p).clerk } := by
  have hnot : (e.1 == 7) = false := by simpa using hcause
  simp only [raiseExc, hnot, Bool.false_eq_true, if_false]
  rw [takeExc_of_not_inTrap _ _ _ _ _ (by rw [getTile_modClerk_same]; exact htrap), modClerk_modClerk _ _ _ _ hrun]
  rfl

theorem run_ne_held_of_clerkLive {t : Tile} (h : clerkLive t = true) : t.clerk.run ≠ .held := by
  intro hheld
  simp [clerkLive, hheld] at h

/-- A queue instruction without grant or credit takes the queue fault. -/
theorem exec_queueFault {s : State} {p f3 rd src c v : Nat} {i : Fetched} (hp : p < 4800)
    (hlive : clerkLive (getTile s p) = true) (hwin : windowStalls (getTile s p) (kindOf i.ins) = false)
    (hirq : pendingIrq (getTile s p) = none) (hfetch : fetch (getTile s p).clerk = .inr i) (hins : i.ins = .csr f3 rd src c)
    (hlegal : csrLegal s p f3 src c = true)
    (hend : lpOverlap (getTile s p).clerk (getTile s p).clerk.pc.toNat i.len = false) (hbp : bpHit (getTile s p) = false)
    (htrap : (getTile s p).clerk.inTrap = false) (hfault : queueFault s p f3 rd src c = some v) :
    clerkRow (csrKind f3 rd src c) p s
      = .next (setTile s p { getTile s p with clerk := clerkRaised (25, v) i.len (getTile s p).clerk }) := by
  have hkind : kindOf i.ins = csrKind f3 rd src c := by rw [hins]; rfl
  have hexc : insExc s p i = some (25, v) := by rw [insExc_csr hins hlegal hend, hfault]; rfl
  have hrun : insRun s p i = raiseExc s p (25, v) i.len := by simp [insRun, hins, hexc]
  rw [clerkRow, if_neg (not_not.mpr (show p < tileCount from hp)),
    clerkTry_eq_insRun hlive (hkind ▸ hwin) hirq hfetch hkind hbp, hrun,
    raiseExc_eq_setTile s p i.len (25, v) (show 25 ≠ 7 by decide) (run_ne_held_of_clerkLive hlive) htrap]

/-! ## Arrivals -/

/-- A channel-arrival is pending exactly while a channel that TL_QIRQ names holds an entry (R225). -/
theorem chanPending_iff (t : Tile) : chanPending t = true ↔ ∃ n, n < 8 ∧ bitAt t.clerk.qirq n = true ∧ chan t n ≠ [] := by
  simp [chanPending]

/-- The channel-arrival interrupt is due when it is pending and enabled, and neither of the two before it is enabled. -/
theorem pendingIrq_chan {t : Tile} (hpend : chanPending t = true) (hmie : t.clerk.mie3 = true) (htrap : t.clerk.inTrap = false)
    (hon : bitAt t.clerk.mie.toNat 18 = true) (hbell : bitAt t.clerk.mie.toNat 17 = false)
    (hwake : bitAt t.clerk.mie.toNat 16 = false) : pendingIrq t = some 0x80000012 := by
  simp [pendingIrq, hmie, htrap, hbell, hwake, hon, hpend]

/-- Settles O26: the three queue instructions without grant or credit raise one exception, cause 25, which outside a trap changes
the clerk alone; cause 18 of mip is `chanPending`. -/
theorem queueFaultsAndChannelArrival : Obligations.QueueFaultsAndChannelArrival := by
  unfold Obligations.QueueFaultsAndChannelArrival
  refine ⟨?_, fun t => by rw [bitAt_mipOf_chan, chanPending_iff], ?_⟩
  · intro p f3 rd src c i s hp hlive hwin hirq hfetch hins hlegal hend hbp htrap x v hrow
    rw [hins] at hrow
    obtain ⟨hexec, hfault⟩ := queueFault_of_ungranted hrow
    refine ⟨_, hexec.trans (exec_queueFault hp hlive hwin hirq hfetch hins hlegal hend hbp htrap hfault), ?_⟩
    rw [getTile_setTile_same]
    refine ⟨rfl, rfl, rfl, rfl, ?_, rfl⟩
    exact BitVec.ofNat_toNat _ _
  · intro t n hn hnamed hholds hmie htrap hon hbell hwake
    exact pendingIrq_chan ((chanPending_iff t).mpr ⟨n, hn, hnamed, hholds⟩) hmie htrap hon hbell hwake

end Sys2Proof.Machine
end

section
/-! SUPPORT. Fire bit 10 and WFI: what a fired wake leaves, its clearing, and what a WFI waits for (R233). -/

namespace Sys2Proof.Machine

/-! ## Firing -/

/-- A unit's turn among those a step fires: a fired unit is listed, with a descriptor of its own where it takes one. -/
def fireUnit (fire : Nat) (r : List (Nat × Nat) × Nat) (u : Nat) : List (Nat × Nat) × Nat :=
  if bitAt fire u then
    (if descUnits.contains u then (r.1 ++ [(u, r.2)], r.2 + 1) else (r.1 ++ [(u, 0)], r.2))
  else r

theorem firedUnits_eq (fire desc : Nat) : firedUnits fire desc = ((upto 0 12).foldl (fireUnit fire) ([], desc)).1 := rfl

theorem mem_fireUnit (fire u : Nat) (r : List (Nat × Nat) × Nat) (q : Nat × Nat) (h : q ∈ r.1) :
    q ∈ (fireUnit fire r u).1 := by
  unfold fireUnit
  split_ifs <;> simp [h]

/-- What is listed stays listed. -/
theorem mem_foldl_fireUnit (fire : Nat) (us : List Nat) (r : List (Nat × Nat) × Nat) (q : Nat × Nat) (h : q ∈ r.1) :
    q ∈ (us.foldl (fireUnit fire) r).1 := by
  induction us generalizing r with
  | nil => exact h
  | cons u us ih => exact ih _ (mem_fireUnit fire u r q h)

/-- A unit whose bit is set and that takes no descriptor is fired with none. -/
theorem mem_firedUnits_of_no_desc (fire desc u : Nat) (hu : u < 12) (hdesc : u ∉ descUnits)
    (hfire : bitAt fire u = true) : (u, 0) ∈ firedUnits fire desc := by
  obtain ⟨before, after, hsplit⟩ := List.append_of_mem ((mem_upto 0 12 u).mpr ⟨Nat.zero_le u, by omega⟩)
  rw [firedUnits_eq, hsplit, List.foldl_append, List.foldl_cons]
  exact mem_foldl_fireUnit fire after _ _ (by simp [fireUnit, hfire, hdesc])

/-! ## A wake -/

/-- The clerk after a wake fired by a step: one that finds a wake pending is counted as lost. -/
def clerkWoken (step : Nat) (k : Clerk) : Clerk :=
  { k with
    wakePend := true
    wakeStep := step
    wakeLost := if k.wakePend then satAdd 16 k.wakeLost 1 else k.wakeLost }

/-- The tile after a wake: its clerk is woken, and the fired work is done. -/
def tileWoken (f : Fired) (t : Tile) : Tile :=
  { t with clerk := clerkWoken f.step t.clerk, fired := dropFirst 10 t.fired, doneCc := max t.doneCc f.fireCc }

/-- CLERK_WAKE changes the tile alone. -/
theorem exec_clerkWake (p : Nat) (f : Fired) (s : State) (hp : p < 4800) (hf : firstFired (getTile s p) 10 = some f) :
    exec (.clerkWake p) s = .next (setTile s p (tileWoken f (getTile s p))) := by
  change execClerkWake p s = _
  rw [execClerkWake, unitRun, if_neg (not_not.mpr (show p < tileCount from hp)), hf]
  rfl

/-- The wake bit of a write to TL_CLK_STATUS: a 1 clears WAKE_PEND and LOST, a 0 neither. -/
theorem clerkPut_status_wake (v : Nat) (k : Clerk) :
    (clerkPut 0x856 v k).wakePend = (k.wakePend && !(bitAt v 8))
      ∧ (clerkPut 0x856 v k).wakeLost = if bitAt v 8 then 0 else k.wakeLost :=
  ⟨rfl, rfl⟩

/-- A write to TL_CLK_STATUS acts on the clerk alone. -/
theorem csrPut_status (s : State) (p v : Nat) : csrPut s p 0x856 v = modClerk s p (clerkPut 0x856 v) := rfl

/-! ## WFI -/

/-- A WFI retires exactly when an interrupt pending in mip is enabled in mie. -/
theorem exec_wfi {p : Nat} {i : Fetched} {s : State} (h : issues s p i .wfi) :
    exec (.wfi p) s
      = .next (if Nat.land (mipOf (getTile s p)) (getTile s p).clerk.mie.toNat = 0 then s else retire s p i 0 none) := by
  change clerkRow .wfi p s = _
  obtain ⟨_, _, _, _, _, hkind, _⟩ := id h
  simp [clerkRow_of_issues h, insExec, ins_eq_wfi hkind]

/-- Settles O27: bit 10 is fired without a descriptor, its wake is CLERK_WAKE's change of the clerk, a write to TL_CLK_STATUS
clears it, and WFI asks mip and mie alone. -/
theorem sequencerWakesTheClerk : Obligations.SequencerWakesTheClerk := by
  unfold Obligations.SequencerWakesTheClerk
  refine ⟨⟨rfl, fun fire desc => mem_firedUnits_of_no_desc fire desc 10 (by decide) (by decide)⟩,
    fun _ _ _ _ => ⟨rfl, rfl⟩, ?_, bitAt_mipOf_wake, ?_, ?_⟩
  · intro p f s hp hf
    refine ⟨_, exec_clerkWake p f s hp hf, ?_⟩
    rw [getTile_setTile_same, bitAt_mipOf_wake]
    exact ⟨rfl, rfl, rfl⟩
  · intro s p v
    obtain ⟨hpend, hlost⟩ := clerkPut_status_wake v (getTile s p).clerk
    rw [csrPut_status, getTile_modClerk_same, hpend, hlost]
    refine ⟨rfl, fun hv => ?_, fun hv => ?_⟩ <;> simp [hv]
  · intro p i s h
    refine ⟨fun hon => ?_, fun hoff => ?_⟩
    · rw [exec_wfi h, if_neg hon]
    · rw [exec_wfi h, if_pos hoff]

end Sys2Proof.Machine
end

section
/-! SUPPORT. The flit check of R311: when a flit is whole, what a row that receives flits does with one that fails, and how the
next good flit restores the credits and the replay buffer (R313, R314). -/

namespace Sys2Proof.Machine

/-! ## Little-endian fields and the check of a flit -/

theorem toLe_leNat (bs : List Byte) : toLe bs.length (leNat bs) = bs := by
  induction bs with
  | nil => rfl
  | cons b t ih =>
    have hlow : BitVec.ofNat 8 (b.toNat + 256 * leNat t) = b := by
      apply BitVec.eq_of_toNat_eq
      rw [BitVec.toNat_ofNat]
      omega
    have hhigh : (b.toNat + 256 * leNat t) / 256 = leNat t := by omega
    rw [leNat, List.length_cons, toLe, hlow, hhigh, ih]

theorem toLe_fld (bs : List Byte) (off n : Nat) : toLe n (fld bs off n) = slice bs off n := by
  simpa [fld] using toLe_leNat (slice bs off n)

theorem fld_lt (bs : List Byte) (off n : Nat) : fld bs off n < 256 ^ n := by
  have h : fld bs off n = fld bs off n % 256 ^ n := by rw [← leNat_toLe, toLe_fld, fld]
  rw [h]
  exact Nat.mod_lt _ (by positivity)

/-- A field that can hold a number holds it exactly when its bytes are the number's. -/
theorem eq_fld_iff {bs : List Byte} {off n v : Nat} (hv : v < 256 ^ n) : v = fld bs off n ↔ slice bs off n = toLe n v := by
  refine ⟨fun h => by rw [h, toLe_fld], fun h => ?_⟩
  rw [fld, h, leNat_toLe, Nat.mod_eq_of_lt hv]

theorem crc32_eq_crcText (bs : List Byte) : crc32 bs = crcText 0x04C11DB7#32 bs := by
  have hpoly : reflected32 0x04C11DB7#32 = 0xEDB88320 := by decide
  rw [← crcRun_eq_crcText, hpoly, crc32]

/-- A flit is whole when the CRC of its first 252 bytes stands in its last four (R311). -/
theorem flitGood_iff (fl : List Byte) :
    flitGood fl = true ↔ fl.length = 256 ∧ slice fl 252 4 = toLe 4 (crc32 (fl.take 252)) := by
  rw [flitGood, Bool.and_eq_true, beq_iff_eq, beq_iff_eq, eq_fld_iff (crc32_lt _)]

/-! ## The rows that receive flits -/

theorem portWork_refl (p : Nat) (s : State) : portWork p s s := ⟨rfl, fun _ _ => rfl⟩

theorem portWork_modPort (s : State) (p : Nat) (f : Port → Port) : portWork p s (modPort s p f) :=
  ⟨rfl, fun q hq => getPort_modPort_other s p q f hq⟩

/-- A port that runs no lane takes no flit (Table 11.2; assumption 28 of the notes). -/
theorem flitRow_of_no_lane {type p : Nat} {fl : List Byte} {s : State} {f : State → State} {g : Port → Port} (hp : p < 32)
    (hst : (getPort s p).st < 3 ∨ 9 < (getPort s p).st) : flitRow type p fl s f g = .next s := by
  have hoff : (!(3 ≤ (getPort s p).st && (getPort s p).st ≤ 9)) = true := by
    simp only [Bool.not_eq_true', Bool.and_eq_false_iff, decide_eq_false_iff_not]
    omega
  rw [flitRow, if_neg (not_not.mpr (show p < portCount from hp)), if_pos hoff]

theorem flitRow_of_bad {type p : Nat} {fl : List Byte} {s : State} {f : State → State} {g : Port → Port} (hp : p < 32)
    (hlo : 3 ≤ (getPort s p).st) (hhi : (getPort s p).st ≤ 9) (hbad : flitGood fl = false) :
    flitRow type p fl s f g = .next (modPort s p (fun q => g (flitBad q))) := by
  rw [flitRow, if_neg (not_not.mpr (show p < portCount from hp)), if_neg (by simp [hlo, hhi]), if_pos (by simp [hbad])]

/-- The rows that count a bad flit and do no more with it, the probe's aside. -/
theorem exec_plainFlit {p : Nat} {fl : List Byte} {i : Instr} (s : State)
    (h : i = .idleFlitReceive p fl ∨ i = .retryRequestReceive p fl ∨ i = .linkStateFlitReceive p fl
      ∨ ∃ a, i = .bellFlitReceive p fl a) :
    ∃ type f, exec i s = flitRow type p fl s f (fun q => q) := by
  obtain rfl | rfl | rfl | ⟨a, rfl⟩ := h
  · exact ⟨2, _, by change execIdleFlitReceive p fl s = _; rw [execIdleFlitReceive]⟩
  · exact ⟨4, _, by change execRetryRequestReceive p fl s = _; rw [execRetryRequestReceive]⟩
  · exact ⟨5, _, by change execLinkStateFlitReceive p fl s = _; rw [execLinkStateFlitReceive]⟩
  · exact ⟨3, _, by change execBellFlitReceive p fl a s = _; rw [execBellFlitReceive]⟩

theorem exec_dataFlit (p : Nat) (fl : List Byte) (s : State) :
    ∃ f, exec (.dataFlitReceive p fl) s = flitRow 1 p fl s f dataDiscard :=
  ⟨_, by change execDataFlitReceive p fl s = _; rw [execDataFlitReceive]⟩

/-- The state in which a probe is taken: a good one starts the measuring of a port that finds it in Train (R305, R306). -/
def probeHeard (p : Nat) (fl : List Byte) (s : State) : State :=
  if flitGood fl && fld fl 0 1 % 16 == 6 then modPort s p measureStart else s

theorem exec_probeFlit (p : Nat) (fl : List Byte) (echo : Bool) (r u : Nat) (s : State) :
    ∃ f, exec (.probeFlitReceive p fl echo r u) s = flitRow 6 p fl (probeHeard p fl s) f (fun q => q) :=
  ⟨_, by change execProbeFlitReceive p fl echo r u s = _; rw [execProbeFlitReceive]; rfl⟩

theorem probeHeard_of_bad {p : Nat} {fl : List Byte} (s : State) (hbad : flitGood fl = false) : probeHeard p fl s = s := by
  simp [probeHeard, hbad]

theorem portWork_probeHeard (p : Nat) (fl : List Byte) (s : State) : portWork p s (probeHeard p fl s) := by
  rw [probeHeard]
  split
  · exact portWork_modPort s p measureStart
  · exact portWork_refl p s

theorem measureStart_of_not_train {q : Port} (h : q.st ≠ 2) : measureStart q = q := by
  simp [measureStart, h]

theorem getPort_probeHeard_of_not_train {p : Nat} (fl : List Byte) {s : State} (h : (getPort s p).st ≠ 2) :
    getPort (probeHeard p fl s) p = getPort s p := by
  rw [probeHeard]
  split
  · rw [getPort_modPort_same, measureStart_of_not_train h]
  · rfl

/-! ## What the next good flit restores -/

theorem flitAck_credits (f : List Byte) (q : Port) (c : Nat) :
    kvGet 0 (flitAck f q).credits c
      = if c = fld f 6 1 % 4 then kvGet 0 q.credits c + (fld f 8 2 + 65536 - kvGet 0 q.crSeen c) % 65536
        else kvGet 0 q.credits c := by
  rw [flitAck, kvGet_kvSet]
  split
  case isTrue h => rw [h]
  case isFalse => rfl

theorem flitAck_crSeen (f : List Byte) (q : Port) (c : Nat) :
    kvGet 0 (flitAck f q).crSeen c = if c = fld f 6 1 % 4 then fld f 8 2 else kvGet 0 q.crSeen c := by
  rw [flitAck, kvGet_kvSet]

/-- Credits are reported as a running count: after a flit of the same class, the count of the next one comes to the same, where
the two reports do not run once around. -/
theorem flitAck_credits_restored {f1 f2 : List Byte} {q : Port} (hcls : fld f1 6 1 % 4 = fld f2 6 1 % 4)
    (hrun : (fld f1 8 2 + 65536 - kvGet 0 q.crSeen (fld f2 6 1 % 4)) % 65536 + (fld f2 8 2 + 65536 - fld f1 8 2) % 65536 < 65536)
    (hseen : kvGet 0 q.crSeen (fld f2 6 1 % 4) < 65536) (c : Nat) :
    kvGet 0 (flitAck f2 (flitAck f1 q)).credits c = kvGet 0 (flitAck f2 q).credits c
      ∧ kvGet 0 (flitAck f2 (flitAck f1 q)).crSeen c = kvGet 0 (flitAck f2 q).crSeen c := by
  simp only [flitAck_credits, flitAck_crSeen, hcls]
  by_cases hc : c = fld f2 6 1 % 4
  · subst hc
    have h1 : fld f1 8 2 < 65536 := fld_lt f1 8 2
    have h2 : fld f2 8 2 < 65536 := fld_lt f2 8 2
    simp only [↓reduceIte, and_true]
    omega
  · simp [hc]

/-- A replay buffer without its oldest flits, up to the acknowledged one, is left as the whole buffer is. -/
theorem replayLeft_drop {l : List (Nat × List Byte)} {ack i j : Nat} (hnd : (l.map (fun e => e.1)).Nodup)
    (hj : l.findIdx? (fun e => e.1 == ack) = some j) (hi : i ≤ j + 1) : replayLeft (l.drop i) ack = l.drop (j + 1) := by
  induction l generalizing i j with
  | nil => simp at hj
  | cons e t ih =>
    cases i with
    | zero => rw [List.drop_zero, replayLeft, hj]
    | succ i =>
      obtain ⟨hnew, hnd⟩ := List.nodup_cons.mp hnd
      rw [List.findIdx?_cons] at hj
      split at hj
      case isTrue he =>
        obtain rfl : 0 = j := Option.some.inj hj
        obtain rfl : i = 0 := by omega
        have hgone : t.findIdx? (fun x => x.1 == ack) = none := by
          refine List.findIdx?_eq_none_iff.mpr fun x hx => beq_eq_false_iff_ne.mpr fun hxa => hnew ?_
          exact List.mem_map.mpr ⟨x, hx, hxa.trans (beq_iff_eq.mp he).symm⟩
        simp [replayLeft, hgone]
      case isFalse =>
        obtain ⟨k, hk, rfl⟩ := Option.map_eq_some_iff.mp hj
        exact ih hnd hk (Nat.le_of_succ_le_succ hi)

theorem flitAck_replay (f : List Byte) (q : Port) :
    (flitAck f q).replay = if bitAt (fld f 4 2) 15 then replayLeft q.replay (fld f 4 2 % 4096) else q.replay := rfl

/-- A flit takes the oldest flits out of the replay buffer: none, or those up to the one it acknowledges. -/
theorem flitAck_replay_eq_drop {f : List Byte} {q : Port} {j : Nat}
    (h : bitAt (fld f 4 2) 15 = true → ∀ i, q.replay.findIdx? (fun e => e.1 == fld f 4 2 % 4096) = some i → i ≤ j) :
    ∃ i ≤ j + 1, (flitAck f q).replay = q.replay.drop i := by
  rw [flitAck_replay]
  split
  case isFalse => exact ⟨0, Nat.zero_le _, rfl⟩
  case isTrue hack =>
    cases hfound : q.replay.findIdx? (fun e => e.1 == fld f 4 2 % 4096) with
    | none => exact ⟨0, Nat.zero_le _, by rw [replayLeft, hfound, List.drop_zero]⟩
    | some i => exact ⟨i + 1, Nat.succ_le_succ (h hack i hfound), by rw [replayLeft, hfound]⟩

/-- Settles O38: the check is the textbook CRC over the polynomial of R311; every row that receives flits is one `flitRow`, which
answers the same state where no lane runs and counts alone where the CRC fails; credits are running counts, and acknowledged
flits leave the replay buffer from its oldest end. -/
theorem flitCrcGuardsTheLink : Obligations.FlitCrcGuardsTheLink := by
  unfold Obligations.FlitCrcGuardsTheLink
  simp only [← crc32_eq_crcText]
  refine ⟨fun _ => trivial, by decide +kernel, flitGood_iff, ?noLaneProbe, ?noLane, ?bad,
    fun _ _ _ hcls hrun hseen => flitAck_credits_restored hcls hrun hseen, ?replay⟩
  case noLaneProbe =>
    intro p fl echo r u s hp hst
    have hsame := getPort_probeHeard_of_not_train (p := p) (s := s) fl (by omega)
    obtain ⟨f, hrow⟩ := exec_probeFlit p fl echo r u s
    refine ⟨_, ?_, portWork_probeHeard p fl s, hsame⟩
    rw [hrow, flitRow_of_no_lane hp (by rw [hsame]; omega)]
  case noLane =>
    rintro p fl s hp hst i (rfl | hplain)
    · obtain ⟨f, hrow⟩ := exec_dataFlit p fl s
      rw [hrow, flitRow_of_no_lane hp hst]
    · obtain ⟨type, f, hrow⟩ := exec_plainFlit s hplain
      rw [hrow, flitRow_of_no_lane hp hst]
  case bad =>
    intro p fl s hp hlo hhi hbad
    constructor
    · intro i hi
      have hrow : ∃ type f, exec i s = flitRow type p fl s f (fun q => q) := by
        obtain h | h | h | h | ⟨echo, r, u, rfl⟩ := hi
        · exact exec_plainFlit s (.inl h)
        · exact exec_plainFlit s (.inr (.inl h))
        · exact exec_plainFlit s (.inr (.inr (.inl h)))
        · exact exec_plainFlit s (.inr (.inr (.inr h)))
        · obtain ⟨f, hprobe⟩ := exec_probeFlit p fl echo r u s
          exact ⟨6, f, by rw [hprobe, probeHeard_of_bad s hbad]⟩
      obtain ⟨type, f, hrow⟩ := hrow
      refine ⟨_, by rw [hrow, flitRow_of_bad hp hlo hhi hbad], portWork_modPort s p _, ?_⟩
      rw [getPort_modPort_same]
      rfl
    · obtain ⟨f, hrow⟩ := exec_dataFlit p fl s
      refine ⟨_, by rw [hrow, flitRow_of_bad hp hlo hhi hbad], portWork_modPort s p _, ?_⟩
      rw [getPort_modPort_same]
      cases hd : (getPort s p).discarding <;> simp [dataDiscard, flitBad, satAdd, hd]
  case replay =>
    intro f1 f2 q j hack hnd hj hord
    have halone : (flitAck f2 q).replay = q.replay.drop (j + 1) := by
      rw [flitAck_replay, if_pos hack, replayLeft, hj]
    obtain ⟨i, hi, hfirst⟩ := flitAck_replay_eq_drop hord
    refine ⟨?_, halone⟩
    rw [halone, flitAck_replay, if_pos hack, hfirst, replayLeft_drop hnd hj hi]

end Sys2Proof.Machine
end

section
/-! SUPPORT. What every command shares: it completes on the units that exist, is refused on others, and leaves the queue behind
it as it stands (R11); with these a queue of well-formed commands runs to its end. -/

-- One proof after another: threads that wait for each other count against the memory of the check.
set_option Elab.async false

namespace Sys2Proof.Machine

/-! ## Commands on units that exist -/

/-- A command whose units exist completes: each row by the law of its meaning. -/
theorem exec_runs (i : Instr) (s : State) (h : i.wf = true) : Runs (exec i s) := by
  cases i with
  | inputGood => exact execInputGood_runs ..
  | startPhaseComplete => exact execStartPhaseComplete_runs ..
  | moduleReady => exact execModuleReady_runs ..
  | mrstNAssert => exact execMrstNAssert_runs ..
  | mrstNRelease => exact execMrstNRelease_runs ..
  | perstAssert => exact execPerstAssert_runs ..
  | perstRelease => exact execPerstRelease_runs ..
  | inputProtectOff => exact execInputProtectOff_runs ..
  | railFailure => exact execRailFailure_runs (hw := h) ..
  | thermalTrip => exact execThermalTrip_runs ..
  | inputRemovalClear => exact execInputRemovalClear_runs ..
  | powerSample => exact execPowerSample_runs ..
  | emergencyTrigger => exact execEmergencyTrigger_runs (hw := (eq_true_of_decide h).trans (eq_self true).symm) ..
  | emergencyStepFurther => exact execEmergencyStepFurther_runs (hw := (eq_true_of_decide h).trans (eq_self true).symm) ..
  | emergencyStepUp => exact execEmergencyStepUp_runs ..
  | slowNoticeReceive => exact execSlowNoticeReceive_runs (hw := h) ..
  | pldmSetPowerState => exact execPldmSetPowerState_runs ..
  | bellExpectedTime => exact execBellExpectedTime_runs ..
  | bellFire => exact execBellFire_runs ..
  | bellOverrun => exact execBellOverrun_runs ..
  | lotAbortNoticeReceive => exact execLotAbortNoticeReceive_runs (hw := h) ..
  | bellGuardStart => exact execBellGuardStart_runs ..
  | switchWindowOpen => exact execSwitchWindowOpen_runs ..
  | watchmanHoldSample => exact execWatchmanHoldSample_runs ..
  | patternLoad => exact execPatternLoad_runs (hw := h) ..
  | sequencerStep => exact execSequencerStep_runs (hw := h) ..
  | waitForBell => exact execWaitForBell_runs (hw := h) ..
  | loomOverwriteStream => exact execLoomOverwriteStream_runs (hw := h) ..
  | loomAccumulateStream => exact execLoomAccumulateStream_runs (hw := h) ..
  | loomDrainOnly => exact execLoomDrainOnly_runs (hw := h) ..
  | shuttleLoad => exact execShuttleLoad_runs (hw := h) ..
  | shuttleSwap => exact execShuttleSwap_runs (hw := h) ..
  | sievePass => exact execSievePass_runs (hw := h) ..
  | scatterPass => exact execScatterPass_runs (hw := h) ..
  | overflowPass => exact execOverflowPass_runs (hw := h) ..
  | granaryDrain => exact execGranaryDrain_runs (hw := h) ..
  | binsDrain => exact execBinsDrain_runs (hw := h) ..
  | accumulatorClearOnly => exact execAccumulatorClearOnly_runs (hw := h) ..
  | fullerPass => exact execFullerPass_runs (hw := h) ..
  | reduction => exact execReduction_runs (hw := h) ..
  | reductionResultWrite => exact execReductionResultWrite_runs (hw := h) ..
  | memoryWrite => exact execMemoryWrite_runs (hw := h) ..
  | memoryRead => exact execMemoryRead_runs (hw := h) ..
  | storeWrite => exact execStoreWrite_runs (hw := h) ..
  | millPost => exact execMillPost_runs (hw := h) ..
  | linkSend => exact execLinkSend_runs (hw := h) ..
  | borrowCopy => exact execBorrowCopy_runs (hw := h) ..
  | clerkWake => exact execClerkWake_runs (hw := h) ..
  | channelTokenSend => exact execChannelTokenSend_runs (hw := h) ..
  | barrierArrive => exact execBarrierArrive_runs (hw := h) ..
  | flagRaise => exact execFlagRaise_runs (hw := h) ..
  | fabricInWrite => exact execFabricInWrite_runs (hw := h) ..
  | fabricOutSend => exact execFabricOutSend_runs (hw := h) ..
  | gatherBufferDrain => exact execGatherBufferDrain_runs (hw := h) ..
  | eccWriteBack => exact execEccWriteBack_runs (hw := h) ..
  | clerkInstruction => exact execClerkInstruction_runs (hw := h) ..
  | clerkLoad => exact execClerkLoad_runs (hw := h) ..
  | clerkStore => exact execClerkStore_runs (hw := h) ..
  | xlRep => exact execXlRep_runs (hw := h) ..
  | xlRepi => exact execXlRepi_runs (hw := h) ..
  | xlQuit => exact execXlQuit_runs (hw := h) ..
  | bellWait => exact execBellWait_runs (hw := h) ..
  | lrW => exact execLrW_runs (hw := h) ..
  | scW => exact execScW_runs (hw := h) ..
  | fence => exact execFence_runs (hw := h) ..
  | fenceI => exact execFenceI_runs (hw := h) ..
  | wfi => exact execWfi_runs (hw := h) ..
  | mret => exact execMret_runs (hw := h) ..
  | trapEntry => exact execTrapEntry_runs (hw := h) ..
  | qpopRead => exact execQpopRead_runs (hw := h) ..
  | qwRead => exact execQwRead_runs (hw := h) ..
  | qsendWrite => exact execQsendWrite_runs (hw := h) ..
  | imFillWrite => exact execImFillWrite_runs (hw := h) ..
  | seqFlagsSet => exact execSeqFlagsSet_runs (hw := h) ..
  | bellHoldWrite => exact execBellHoldWrite_runs (hw := h) ..
  | clkStatusClear => exact execClkStatusClear_runs (hw := h) ..
  | clkFailWrite => exact execClkFailWrite_runs (hw := h) ..
  | amaxReadClear => exact execAmaxReadClear_runs (hw := h) ..
  | counterReadClear => exact execCounterReadClear_runs (hw := h) ..
  | csrWrite => exact execCsrWrite_runs (hw := h) ..
  | routerHop => exact execRouterHop_runs (hw := h) ..
  | channelEntryDelivery => exact execChannelEntryDelivery_runs (hw := h) ..
  | creditReturnDelivery => exact execCreditReturnDelivery_runs (hw := h) ..
  | barrierArriveCombine => exact execBarrierArriveCombine_runs (hw := h) ..
  | flagRaiseCombine => exact execFlagRaiseCombine_runs (hw := h) ..
  | barrierReleaseDelivery => exact execBarrierReleaseDelivery_runs (hw := h) ..
  | flagBroadcastDelivery => exact execFlagBroadcastDelivery_runs (hw := h) ..
  | writeCompletionDelivery => exact execWriteCompletionDelivery_runs (hw := h) ..
  | rtSelWrite => exact execRtSelWrite_runs (hw := h) ..
  | stackReadRequest => exact execStackReadRequest_runs (hw := h) ..
  | stackMemoryWrite => exact execStackMemoryWrite_runs (hw := h) ..
  | stackRemoteRequest => exact execStackRemoteRequest_runs (hw := h) ..
  | mergeWindowClose => exact execMergeWindowClose_runs (hw := h) ..
  | millPostReceive => exact execMillPostReceive_runs (hw := h) ..
  | millDescriptorTake => exact execMillDescriptorTake_runs (hw := h) ..
  | millSgd => exact execMillSgd_runs (hw := h) ..
  | millAdam => exact execMillAdam_runs (hw := h) ..
  | millLion => exact execMillLion_runs (hw := h) ..
  | millOrderedReduction => exact execMillOrderedReduction_runs (hw := h) ..
  | reductionSlotArrival => exact execReductionSlotArrival_runs (hw := h) ..
  | millGatherRows => exact execMillGatherRows_runs (hw := h) ..
  | millScatterAdd => exact execMillScatterAdd_runs (hw := h) ..
  | millCopyConvert => exact execMillCopyConvert_runs (hw := h) ..
  | millFill => exact execMillFill_runs (hw := h) ..
  | dramRefresh => exact execDramRefresh_runs (hw := h) ..
  | patrolScrub => exact execPatrolScrub_runs (hw := h) ..
  | interleaveImbalance => exact execInterleaveImbalance_runs (hw := h) ..
  | ucieModuleFence => exact execUcieModuleFence_runs (hw := h) ..
  | portSignalDetect => exact execPortSignalDetect_runs (hw := h) ..
  | laneTrainTimeout => exact execLaneTrainTimeout_runs (hw := h) ..
  | portTrainingComplete => exact execPortTrainingComplete_runs (hw := h) ..
  | laneQualified => exact execLaneQualified_runs (hw := h) ..
  | portErrorRatioExit => exact execPortErrorRatioExit_runs (hw := h) ..
  | lossOfSignal => exact execLossOfSignal_runs (hw := h) ..
  | laserMonitorSample => exact execLaserMonitorSample_runs ..
  | lightRestored => exact execLightRestored_runs (hw := (eq_true_of_decide h).trans (eq_self true).symm) ..
  | lkCtlRetrain => exact execLkCtlRetrain_runs (hw := h) ..
  | lkCtlEnWrite => exact execLkCtlEnWrite_runs (hw := h) ..
  | lkPeerExpWrite => exact execLkPeerExpWrite_runs (hw := h) ..
  | flitTransmit => exact execFlitTransmit_runs (hw := h) ..
  | dataFlitReceive => exact execDataFlitReceive_runs (hw := h) ..
  | retryRequestReceive => exact execRetryRequestReceive_runs (hw := h) ..
  | retryRequestRepeat => exact execRetryRequestRepeat_runs (hw := h) ..
  | retryGiveUp => exact execRetryGiveUp_runs (hw := h) ..
  | probeFlitReceive => exact execProbeFlitReceive_runs (hw := h) ..
  | bellFlitReceive => exact execBellFlitReceive_runs (hw := h) ..
  | bellFlitLost => exact execBellFlitLost_runs (hw := h) ..
  | linkStateFlitReceive => exact execLinkStateFlitReceive_runs (hw := h) ..
  | spineRouteLookup => exact execSpineRouteLookup_runs (hw := h) ..
  | undeliverableReportReceive => exact execUndeliverableReportReceive_runs (hw := h) ..
  | localDelivery => exact execLocalDelivery_runs (hw := h) ..
  | reeveMessageReceive => exact execReeveMessageReceive_runs (hw := h) ..
  | clockSourceLoss => exact execClockSourceLoss_runs ..
  | clockSourceLost => exact execClockSourceLost_runs ..
  | haywardSliceStart => exact execHaywardSliceStart_runs (hw := h) ..
  | haywardSliceComplete => exact execHaywardSliceComplete_runs (hw := h) ..
  | sliceAbandon => exact execSliceAbandon_runs (hw := h) ..
  | migrationStraightThrough => exact execMigrationStraightThrough_runs (hw := h) ..
  | migrationAbandon => exact execMigrationAbandon_runs (hw := h) ..
  | migrationRetry => exact execMigrationRetry_runs (hw := h) ..
  | patternSetVerify => exact execPatternSetVerify_runs ..
  | failureEvent => exact execFailureEvent_runs ..
  | contextReset => exact execContextReset_runs (hw := h) ..
  | engineResetTile => exact execEngineResetTile_runs (hw := h) ..
  | engineResetMill => exact execEngineResetMill_runs (hw := h) ..
  | engineResetPort => exact execEngineResetPort_runs (hw := h) ..
  | partitionReset => exact execPartitionReset_runs (hw := h) ..
  | moduleComputeReset => exact execModuleComputeReset_runs ..
  | resetComplete => exact execResetComplete_runs (hw := (eq_true_of_decide h).trans (eq_self true).symm) ..
  | resetEscalate => exact execResetEscalate_runs (hw := h) ..
  | lockstepMismatch => exact execLockstepMismatch_runs ..
  | lotEnd => exact execLotEnd_runs (hw := h) ..
  | completionEntryWrite => exact execCompletionEntryWrite_runs (hw := h) ..
  | longOperationEnd => exact execLongOperationEnd_runs ..
  | assayStart => exact execAssayStart_runs (hw := h) ..
  | assayReplayEnd => exact execAssayReplayEnd_runs (hw := h) ..
  | doorbellWrite => exact execDoorbellWrite_runs (hw := h) ..
  | ringReset => exact execRingReset_runs (hw := h) ..
  | msixMessage => exact execMsixMessage_runs (hw := (eq_true_of_decide h).trans (eq_self true).symm) ..
  | modIdentity => exact execModIdentity_runs (hw := h) ..
  | modGeometry => exact execModGeometry_runs (hw := h) ..
  | modHealth => exact execModHealth_runs (hw := h) ..
  | modReady => exact execModReady_runs (hw := h) ..
  | modClockSet => exact execModClockSet_runs (hw := h) ..
  | modIdSet => exact execModIdSet_runs (hw := h) ..
  | modResetPartition => exact execModResetPartition_runs (hw := h) ..
  | modResetModuleCompute => exact execModResetModuleCompute_runs (hw := h) ..
  | modResetPowerCycle => exact execModResetPowerCycle_runs (hw := h) ..
  | modTelemetry => exact execModTelemetry_runs (hw := h) ..
  | partMbCtl => exact execPartMbCtl_runs (hw := h) ..
  | patLoad => exact execPatLoad_runs (hw := h) ..
  | patActivate => exact execPatActivate_runs (hw := h) ..
  | patSwitch => exact execPatSwitch_runs (hw := h) ..
  | patMap => exact execPatMap_runs (hw := h) ..
  | lotSubmit => exact execLotSubmit_runs (hw := h) ..
  | lotCancel => exact execLotCancel_runs (hw := h) ..
  | lotQuery => exact execLotQuery_runs (hw := h) ..
  | lotRecords => exact execLotRecords_runs (hw := h) ..
  | lotCqSet => exact execLotCqSet_runs (hw := h) ..
  | lotDigests => exact execLotDigests_runs (hw := h) ..
  | stageNumericModes => exact execStageNumericModes_runs (hw := h) ..
  | stageHalt => exact execStageHalt_runs (hw := h) ..
  | stageHoldLimit => exact execStageHoldLimit_runs (hw := h) ..
  | stageSplit => exact execStageSplit_runs (hw := h) ..
  | stageBellPeriod => exact execStageBellPeriod_runs (hw := h) ..
  | stageKeyRotation => exact execStageKeyRotation_runs (hw := h) ..
  | stageReseed => exact execStageReseed_runs (hw := h) ..
  | stageMergedRead => exact execStageMergedRead_runs (hw := h) ..
  | stageCancel => exact execStageCancel_runs (hw := h) ..
  | stageQuery => exact execStageQuery_runs (hw := h) ..
  | ctxScanOut => exact execCtxScanOut_runs (hw := h) ..
  | ctxScanIn => exact execCtxScanIn_runs (hw := h) ..
  | ctxReset => exact execCtxReset_runs (hw := h) ..
  | mntStackTest => exact execMntStackTest_runs (hw := h) ..
  | mntScrubStacks => exact execMntScrubStacks_runs (hw := h) ..
  | mntScrubTiles => exact execMntScrubTiles_runs (hw := h) ..
  | mntAssay => exact execMntAssay_runs (hw := h) ..
  | mntFwUpdate => exact execMntFwUpdate_runs (hw := h) ..
  | mntLinkQual => exact execMntLinkQual_runs (hw := h) ..
  | mntSpareMap => exact execMntSpareMap_runs (hw := h) ..
  | mntLedger => exact execMntLedger_runs (hw := h) ..
  | mntRepairLedger => exact execMntRepairLedger_runs (hw := h) ..
  | opStatus => exact execOpStatus_runs (hw := h) ..
  | opSuspend => exact execOpSuspend_runs (hw := h) ..
  | opResume => exact execOpResume_runs (hw := h) ..
  | opCancel => exact execOpCancel_runs (hw := h) ..
  | opList => exact execOpList_runs (hw := h) ..
  | linkRouteWrite => exact execLinkRouteWrite_runs (hw := h) ..
  | linkRouteSwitch => exact execLinkRouteSwitch_runs (hw := h) ..
  | linkMcastWrite => exact execLinkMcastWrite_runs (hw := h) ..
  | sysKeys => exact execSysKeys_runs (hw := h) ..
  | sysJoin => exact execSysJoin_runs (hw := h) ..
  | sysLeave => exact execSysLeave_runs (hw := h) ..
  | recRead => exact execRecRead_runs (hw := h) ..
  | pwrLimitSet => exact execPwrLimitSet_runs (hw := h) ..
  | pwrRead => exact execPwrRead_runs (hw := h) ..
  | dbgRegRead => exact execDbgRegRead_runs (hw := h) ..
  | dbgRegWrite => exact execDbgRegWrite_runs (hw := h) ..
  | dbgStoreRead => exact execDbgStoreRead_runs (hw := h) ..
  | dbgStoreWrite => exact execDbgStoreWrite_runs (hw := h) ..
  | dbgImageRead => exact execDbgImageRead_runs (hw := h) ..
  | dbgChanRead => exact execDbgChanRead_runs (hw := h) ..
  | dbgResume => exact execDbgResume_runs (hw := h) ..
  | dbgLooseOn => exact execDbgLooseOn_runs (hw := h) ..
  | dbgLooseOff => exact execDbgLooseOff_runs (hw := h) ..
  | dbgClkHalt => exact execDbgClkHalt_runs (hw := h) ..
  | dbgClkStep => exact execDbgClkStep_runs (hw := h) ..
  | dbgClkResume => exact execDbgClkResume_runs (hw := h) ..
  | dbgClkSet => exact execDbgClkSet_runs (hw := h) ..
  | dbgTraceSet => exact execDbgTraceSet_runs (hw := h) ..
  | dbgTraceRead => exact execDbgTraceRead_runs (hw := h) ..
  | dbgMillNan => exact execDbgMillNan_runs (hw := h) ..
  | traceTriggerMatch => exact execTraceTriggerMatch_runs (hw := h) ..
  | jtagDbgcmd => exact execJtagDbgcmd_runs ..
  | jtagExtest => exact execJtagExtest_runs ..
  | jtagSamplePreload => exact execJtagSamplePreload_runs ..
  | jtagIdcode => exact execJtagIdcode_runs ..
  | jtagTesteng => exact execJtagTesteng_runs ..
  | jtagBypass => exact execJtagBypass_runs ..
  | sidebandRequest => exact execSidebandRequest_runs ..
  | mctpControl => exact execMctpControl_runs ..
  | pldmGetSensorReading => exact execPldmGetSensorReading_runs ..
  | pldmPollEvent => exact execPldmPollEvent_runs ..
  | bar2Write => exact execBar2Write_runs ..
  | assemblerTimeout => exact execAssemblerTimeout_runs (hw := h) ..
  | bar2Read => exact execBar2Read_runs ..
  | bar0MalformedAccess => exact execBar0MalformedAccess_runs ..
  | hostRegisterWrite => exact execHostRegisterWrite_runs ..
  | managementAccess => exact execManagementAccess_runs ..
  | idleFlitReceive => exact execIdleFlitReceive_runs (hw := h) ..
  | telemetrySweep => exact execTelemetrySweep_runs ..
  | pcieConfigurationRequest => exact execPcieConfigurationRequest_runs ..
  | i3cDynamicAddress => exact execI3cDynamicAddress_runs ..

/-- No command touches the queue: each row by the law of its meaning. -/
theorem exec_keeps (i : Instr) (s : State) : Keeps (queueOf s) (exec i s) := by
  cases i with
  | inputGood => exact execInputGood_keeps ..
  | startPhaseComplete => exact execStartPhaseComplete_keeps ..
  | moduleReady => exact execModuleReady_keeps ..
  | mrstNAssert => exact execMrstNAssert_keeps ..
  | mrstNRelease => exact execMrstNRelease_keeps ..
  | perstAssert => exact execPerstAssert_keeps ..
  | perstRelease => exact execPerstRelease_keeps ..
  | inputProtectOff => exact execInputProtectOff_keeps ..
  | railFailure => exact execRailFailure_keeps ..
  | thermalTrip => exact execThermalTrip_keeps ..
  | inputRemovalClear => exact execInputRemovalClear_keeps ..
  | powerSample => exact execPowerSample_keeps ..
  | emergencyTrigger => exact execEmergencyTrigger_keeps ..
  | emergencyStepFurther => exact execEmergencyStepFurther_keeps ..
  | emergencyStepUp => exact execEmergencyStepUp_keeps ..
  | slowNoticeReceive => exact execSlowNoticeReceive_keeps ..
  | pldmSetPowerState => exact execPldmSetPowerState_keeps ..
  | bellExpectedTime => exact execBellExpectedTime_keeps ..
  | bellFire => exact execBellFire_keeps ..
  | bellOverrun => exact execBellOverrun_keeps ..
  | lotAbortNoticeReceive => exact execLotAbortNoticeReceive_keeps ..
  | bellGuardStart => exact execBellGuardStart_keeps ..
  | switchWindowOpen => exact execSwitchWindowOpen_keeps ..
  | watchmanHoldSample => exact execWatchmanHoldSample_keeps ..
  | patternLoad => exact execPatternLoad_keeps ..
  | sequencerStep => exact execSequencerStep_keeps ..
  | waitForBell => exact execWaitForBell_keeps ..
  | loomOverwriteStream => exact execLoomOverwriteStream_keeps ..
  | loomAccumulateStream => exact execLoomAccumulateStream_keeps ..
  | loomDrainOnly => exact execLoomDrainOnly_keeps ..
  | shuttleLoad => exact execShuttleLoad_keeps ..
  | shuttleSwap => exact execShuttleSwap_keeps ..
  | sievePass => exact execSievePass_keeps ..
  | scatterPass => exact execScatterPass_keeps ..
  | overflowPass => exact execOverflowPass_keeps ..
  | granaryDrain => exact execGranaryDrain_keeps ..
  | binsDrain => exact execBinsDrain_keeps ..
  | accumulatorClearOnly => exact execAccumulatorClearOnly_keeps ..
  | fullerPass => exact execFullerPass_keeps ..
  | reduction => exact execReduction_keeps ..
  | reductionResultWrite => exact execReductionResultWrite_keeps ..
  | memoryWrite => exact execMemoryWrite_keeps ..
  | memoryRead => exact execMemoryRead_keeps ..
  | storeWrite => exact execStoreWrite_keeps ..
  | millPost => exact execMillPost_keeps ..
  | linkSend => exact execLinkSend_keeps ..
  | borrowCopy => exact execBorrowCopy_keeps ..
  | clerkWake => exact execClerkWake_keeps ..
  | channelTokenSend => exact execChannelTokenSend_keeps ..
  | barrierArrive => exact execBarrierArrive_keeps ..
  | flagRaise => exact execFlagRaise_keeps ..
  | fabricInWrite => exact execFabricInWrite_keeps ..
  | fabricOutSend => exact execFabricOutSend_keeps ..
  | gatherBufferDrain => exact execGatherBufferDrain_keeps ..
  | eccWriteBack => exact execEccWriteBack_keeps ..
  | clerkInstruction => exact execClerkInstruction_keeps ..
  | clerkLoad => exact execClerkLoad_keeps ..
  | clerkStore => exact execClerkStore_keeps ..
  | xlRep => exact execXlRep_keeps ..
  | xlRepi => exact execXlRepi_keeps ..
  | xlQuit => exact execXlQuit_keeps ..
  | bellWait => exact execBellWait_keeps ..
  | lrW => exact execLrW_keeps ..
  | scW => exact execScW_keeps ..
  | fence => exact execFence_keeps ..
  | fenceI => exact execFenceI_keeps ..
  | wfi => exact execWfi_keeps ..
  | mret => exact execMret_keeps ..
  | trapEntry => exact execTrapEntry_keeps ..
  | qpopRead => exact execQpopRead_keeps ..
  | qwRead => exact execQwRead_keeps ..
  | qsendWrite => exact execQsendWrite_keeps ..
  | imFillWrite => exact execImFillWrite_keeps ..
  | seqFlagsSet => exact execSeqFlagsSet_keeps ..
  | bellHoldWrite => exact execBellHoldWrite_keeps ..
  | clkStatusClear => exact execClkStatusClear_keeps ..
  | clkFailWrite => exact execClkFailWrite_keeps ..
  | amaxReadClear => exact execAmaxReadClear_keeps ..
  | counterReadClear => exact execCounterReadClear_keeps ..
  | csrWrite => exact execCsrWrite_keeps ..
  | routerHop => exact execRouterHop_keeps ..
  | channelEntryDelivery => exact execChannelEntryDelivery_keeps ..
  | creditReturnDelivery => exact execCreditReturnDelivery_keeps ..
  | barrierArriveCombine => exact execBarrierArriveCombine_keeps ..
  | flagRaiseCombine => exact execFlagRaiseCombine_keeps ..
  | barrierReleaseDelivery => exact execBarrierReleaseDelivery_keeps ..
  | flagBroadcastDelivery => exact execFlagBroadcastDelivery_keeps ..
  | writeCompletionDelivery => exact execWriteCompletionDelivery_keeps ..
  | rtSelWrite => exact execRtSelWrite_keeps ..
  | stackReadRequest => exact execStackReadRequest_keeps ..
  | stackMemoryWrite => exact execStackMemoryWrite_keeps ..
  | stackRemoteRequest => exact execStackRemoteRequest_keeps ..
  | mergeWindowClose => exact execMergeWindowClose_keeps ..
  | millPostReceive => exact execMillPostReceive_keeps ..
  | millDescriptorTake => exact execMillDescriptorTake_keeps ..
  | millSgd => exact execMillSgd_keeps ..
  | millAdam => exact execMillAdam_keeps ..
  | millLion => exact execMillLion_keeps ..
  | millOrderedReduction => exact execMillOrderedReduction_keeps ..
  | reductionSlotArrival => exact execReductionSlotArrival_keeps ..
  | millGatherRows => exact execMillGatherRows_keeps ..
  | millScatterAdd => exact execMillScatterAdd_keeps ..
  | millCopyConvert => exact execMillCopyConvert_keeps ..
  | millFill => exact execMillFill_keeps ..
  | dramRefresh => exact execDramRefresh_keeps ..
  | patrolScrub => exact execPatrolScrub_keeps ..
  | interleaveImbalance => exact execInterleaveImbalance_keeps ..
  | ucieModuleFence => exact execUcieModuleFence_keeps ..
  | portSignalDetect => exact execPortSignalDetect_keeps ..
  | laneTrainTimeout => exact execLaneTrainTimeout_keeps ..
  | portTrainingComplete => exact execPortTrainingComplete_keeps ..
  | laneQualified => exact execLaneQualified_keeps ..
  | portErrorRatioExit => exact execPortErrorRatioExit_keeps ..
  | lossOfSignal => exact execLossOfSignal_keeps ..
  | laserMonitorSample => exact execLaserMonitorSample_keeps ..
  | lightRestored => exact execLightRestored_keeps ..
  | lkCtlRetrain => exact execLkCtlRetrain_keeps ..
  | lkCtlEnWrite => exact execLkCtlEnWrite_keeps ..
  | lkPeerExpWrite => exact execLkPeerExpWrite_keeps ..
  | flitTransmit => exact execFlitTransmit_keeps ..
  | dataFlitReceive => exact execDataFlitReceive_keeps ..
  | retryRequestReceive => exact execRetryRequestReceive_keeps ..
  | retryRequestRepeat => exact execRetryRequestRepeat_keeps ..
  | retryGiveUp => exact execRetryGiveUp_keeps ..
  | probeFlitReceive => exact execProbeFlitReceive_keeps ..
  | bellFlitReceive => exact execBellFlitReceive_keeps ..
  | bellFlitLost => exact execBellFlitLost_keeps ..
  | linkStateFlitReceive => exact execLinkStateFlitReceive_keeps ..
  | spineRouteLookup => exact execSpineRouteLookup_keeps ..
  | undeliverableReportReceive => exact execUndeliverableReportReceive_keeps ..
  | localDelivery => exact execLocalDelivery_keeps ..
  | reeveMessageReceive => exact execReeveMessageReceive_keeps ..
  | clockSourceLoss => exact execClockSourceLoss_keeps ..
  | clockSourceLost => exact execClockSourceLost_keeps ..
  | haywardSliceStart => exact execHaywardSliceStart_keeps ..
  | haywardSliceComplete => exact execHaywardSliceComplete_keeps ..
  | sliceAbandon => exact execSliceAbandon_keeps ..
  | migrationStraightThrough => exact execMigrationStraightThrough_keeps ..
  | migrationAbandon => exact execMigrationAbandon_keeps ..
  | migrationRetry => exact execMigrationRetry_keeps ..
  | patternSetVerify => exact execPatternSetVerify_keeps ..
  | failureEvent => exact execFailureEvent_keeps ..
  | contextReset => exact execContextReset_keeps ..
  | engineResetTile => exact execEngineResetTile_keeps ..
  | engineResetMill => exact execEngineResetMill_keeps ..
  | engineResetPort => exact execEngineResetPort_keeps ..
  | partitionReset => exact execPartitionReset_keeps ..
  | moduleComputeReset => exact execModuleComputeReset_keeps ..
  | resetComplete => exact execResetComplete_keeps ..
  | resetEscalate => exact execResetEscalate_keeps ..
  | lockstepMismatch => exact execLockstepMismatch_keeps ..
  | lotEnd => exact execLotEnd_keeps ..
  | completionEntryWrite => exact execCompletionEntryWrite_keeps ..
  | longOperationEnd => exact execLongOperationEnd_keeps ..
  | assayStart => exact execAssayStart_keeps ..
  | assayReplayEnd => exact execAssayReplayEnd_keeps ..
  | doorbellWrite => exact execDoorbellWrite_keeps ..
  | ringReset => exact execRingReset_keeps ..
  | msixMessage => exact execMsixMessage_keeps ..
  | modIdentity => exact execModIdentity_keeps ..
  | modGeometry => exact execModGeometry_keeps ..
  | modHealth => exact execModHealth_keeps ..
  | modReady => exact execModReady_keeps ..
  | modClockSet => exact execModClockSet_keeps ..
  | modIdSet => exact execModIdSet_keeps ..
  | modResetPartition => exact execModResetPartition_keeps ..
  | modResetModuleCompute => exact execModResetModuleCompute_keeps ..
  | modResetPowerCycle => exact execModResetPowerCycle_keeps ..
  | modTelemetry => exact execModTelemetry_keeps ..
  | partMbCtl => exact execPartMbCtl_keeps ..
  | patLoad => exact execPatLoad_keeps ..
  | patActivate => exact execPatActivate_keeps ..
  | patSwitch => exact execPatSwitch_keeps ..
  | patMap => exact execPatMap_keeps ..
  | lotSubmit => exact execLotSubmit_keeps ..
  | lotCancel => exact execLotCancel_keeps ..
  | lotQuery => exact execLotQuery_keeps ..
  | lotRecords => exact execLotRecords_keeps ..
  | lotCqSet => exact execLotCqSet_keeps ..
  | lotDigests => exact execLotDigests_keeps ..
  | stageNumericModes => exact execStageNumericModes_keeps ..
  | stageHalt => exact execStageHalt_keeps ..
  | stageHoldLimit => exact execStageHoldLimit_keeps ..
  | stageSplit => exact execStageSplit_keeps ..
  | stageBellPeriod => exact execStageBellPeriod_keeps ..
  | stageKeyRotation => exact execStageKeyRotation_keeps ..
  | stageReseed => exact execStageReseed_keeps ..
  | stageMergedRead => exact execStageMergedRead_keeps ..
  | stageCancel => exact execStageCancel_keeps ..
  | stageQuery => exact execStageQuery_keeps ..
  | ctxScanOut => exact execCtxScanOut_keeps ..
  | ctxScanIn => exact execCtxScanIn_keeps ..
  | ctxReset => exact execCtxReset_keeps ..
  | mntStackTest => exact execMntStackTest_keeps ..
  | mntScrubStacks => exact execMntScrubStacks_keeps ..
  | mntScrubTiles => exact execMntScrubTiles_keeps ..
  | mntAssay => exact execMntAssay_keeps ..
  | mntFwUpdate => exact execMntFwUpdate_keeps ..
  | mntLinkQual => exact execMntLinkQual_keeps ..
  | mntSpareMap => exact execMntSpareMap_keeps ..
  | mntLedger => exact execMntLedger_keeps ..
  | mntRepairLedger => exact execMntRepairLedger_keeps ..
  | opStatus => exact execOpStatus_keeps ..
  | opSuspend => exact execOpSuspend_keeps ..
  | opResume => exact execOpResume_keeps ..
  | opCancel => exact execOpCancel_keeps ..
  | opList => exact execOpList_keeps ..
  | linkRouteWrite => exact execLinkRouteWrite_keeps ..
  | linkRouteSwitch => exact execLinkRouteSwitch_keeps ..
  | linkMcastWrite => exact execLinkMcastWrite_keeps ..
  | sysKeys => exact execSysKeys_keeps ..
  | sysJoin => exact execSysJoin_keeps ..
  | sysLeave => exact execSysLeave_keeps ..
  | recRead => exact execRecRead_keeps ..
  | pwrLimitSet => exact execPwrLimitSet_keeps ..
  | pwrRead => exact execPwrRead_keeps ..
  | dbgRegRead => exact execDbgRegRead_keeps ..
  | dbgRegWrite => exact execDbgRegWrite_keeps ..
  | dbgStoreRead => exact execDbgStoreRead_keeps ..
  | dbgStoreWrite => exact execDbgStoreWrite_keeps ..
  | dbgImageRead => exact execDbgImageRead_keeps ..
  | dbgChanRead => exact execDbgChanRead_keeps ..
  | dbgResume => exact execDbgResume_keeps ..
  | dbgLooseOn => exact execDbgLooseOn_keeps ..
  | dbgLooseOff => exact execDbgLooseOff_keeps ..
  | dbgClkHalt => exact execDbgClkHalt_keeps ..
  | dbgClkStep => exact execDbgClkStep_keeps ..
  | dbgClkResume => exact execDbgClkResume_keeps ..
  | dbgClkSet => exact execDbgClkSet_keeps ..
  | dbgTraceSet => exact execDbgTraceSet_keeps ..
  | dbgTraceRead => exact execDbgTraceRead_keeps ..
  | dbgMillNan => exact execDbgMillNan_keeps ..
  | traceTriggerMatch => exact execTraceTriggerMatch_keeps ..
  | jtagDbgcmd => exact execJtagDbgcmd_keeps ..
  | jtagExtest => exact execJtagExtest_keeps ..
  | jtagSamplePreload => exact execJtagSamplePreload_keeps ..
  | jtagIdcode => exact execJtagIdcode_keeps ..
  | jtagTesteng => exact execJtagTesteng_keeps ..
  | jtagBypass => exact execJtagBypass_keeps ..
  | sidebandRequest => exact execSidebandRequest_keeps ..
  | mctpControl => exact execMctpControl_keeps ..
  | pldmGetSensorReading => exact execPldmGetSensorReading_keeps ..
  | pldmPollEvent => exact execPldmPollEvent_keeps ..
  | bar2Write => exact execBar2Write_keeps ..
  | assemblerTimeout => exact execAssemblerTimeout_keeps ..
  | bar2Read => exact execBar2Read_keeps ..
  | bar0MalformedAccess => exact execBar0MalformedAccess_keeps ..
  | hostRegisterWrite => exact execHostRegisterWrite_keeps ..
  | managementAccess => exact execManagementAccess_keeps ..
  | idleFlitReceive => exact execIdleFlitReceive_keeps ..
  | telemetrySweep => exact execTelemetrySweep_keeps ..
  | pcieConfigurationRequest => exact execPcieConfigurationRequest_keeps ..
  | i3cDynamicAddress => exact execI3cDynamicAddress_keeps ..

theorem pending_of_exec {i : Instr} {s t : State} (h : exec i s = .next t) : t.pending = s.pending := by
  have hkeeps := exec_keeps i s
  rw [h] at hkeeps
  exact hkeeps

/-- The eighth operand of the test engine names nothing, and yet its scan completes: with D92 off the port ignores it. -/
theorem exec_jtagTesteng_seven_reset : exec (.jtagTesteng 7) State.reset = .next State.reset := rfl

/-! ## Steps and runs -/

theorem step_of_pending {s : State} {i : Instr} {rest : List Instr} (h : s.pending = i :: rest) :
    step s = exec i { s with pending := rest } := by
  rw [step, h]

theorem step_of_idle {s : State} (h : s.pending = []) : step s = .next (clockTick s) := by
  rw [step, h]

theorem clockTick_of_off {s : State} (h : s.start.phase = 0) : clockTick s = s := by
  simp [clockTick, h]

theorem clockTick_of_on {s : State} (h : s.start.phase ≠ 0) :
    clockTick s = { s with clk := { s.clk with cycles := s.clk.cycles + 1, intvCc := s.clk.intvCc + 1 } } := by
  simp [clockTick, h]

/-- A step at a queue of well-formed commands completes, and leaves the queue without its front. -/
theorem step_of_wf_queue {s : State} (h : ∀ i ∈ s.pending, i.wf = true) : ∃ t, step s = .next t ∧ t.pending = s.pending.tail := by
  cases hq : s.pending with
  | nil => exact ⟨_, step_of_idle hq, (clockTick_queue s).trans hq⟩
  | cons i rest =>
    obtain ⟨t, ht⟩ := exec_runs i { s with pending := rest } (h i (hq ▸ List.mem_cons_self))
    exact ⟨t, (step_of_pending hq).trans ht, pending_of_exec ht⟩

/-- A step that completes begins a run of one step more. -/
theorem run_succ {s t : State} (n : Nat) (h : step s = .next t) : core.run (n + 1) s = core.run n t := by
  have hcore : core.step s = .next t := h
  simp only [Host.Core.run, hcore]

/-- As many steps as commands wait empty a queue of well-formed commands. -/
theorem run_of_wf_queue (n : Nat) (s : State) (hlen : s.pending.length = n) (h : ∀ i ∈ s.pending, i.wf = true) :
    ∃ t, core.run n s = .next t ∧ t.pending = [] := by
  induction n generalizing s with
  | zero => exact ⟨s, rfl, List.length_eq_zero_iff.mp hlen⟩
  | succ n ih =>
    obtain ⟨t, ht, htail⟩ := step_of_wf_queue h
    rw [run_succ n ht]
    exact ih t (by simp [htail, hlen]) fun i hi => h i (List.mem_of_mem_tail (htail ▸ hi))

/-- Settles O6: each step takes one command from the queue and completes. -/
theorem wellFormedQueueRunsToItsEnd : Obligations.WellFormedQueueRunsToItsEnd := fun s h => run_of_wf_queue _ s rfl h

/-- Settles O7: a step takes the front command and puts none behind the rest. -/
theorem stepKeepsWellFormedQueue : Obligations.StepKeepsWellFormedQueue := by
  intro s h
  obtain ⟨t, ht, htail⟩ := step_of_wf_queue h
  exact ⟨t, ht, fun i hi => h i (List.mem_of_mem_tail (htail ▸ hi))⟩

/-- Settles O4: the law of the meaning of each row. -/
theorem wellFormedCommandsComplete : Obligations.WellFormedCommandsComplete := exec_runs

/-- Settles O5: the law of the meaning of each row. -/
theorem commandsKeepTheQueue : Obligations.CommandsKeepTheQueue := fun _ _ _ h => pending_of_exec h

/-- Settles O1: a step matches on the queue, and an idle one is a clock tick, which counts while the start has a phase. -/
theorem stepRunsFrontCommandOrCycles : Obligations.StepRunsFrontCommandOrCycles := by
  refine ⟨fun _ _ => rfl, fun s hidle => ⟨_, step_of_idle hidle, ?_⟩⟩
  by_cases hphase : s.start.phase = 0
  · rw [clockTick_of_off hphase]
    exact ⟨rfl, fun hon => absurd hphase hon, fun _ => rfl⟩
  · rw [clockTick_of_on hphase]
    exact ⟨rfl, fun _ => rfl, fun hoff => absurd hoff hphase⟩

/-- Settles O2: no unit is listed at reset, so that each reads as the reset values of its record. -/
theorem resetState : Obligations.ResetState := by
  refine ⟨⟨fun _ => ⟨rfl, rfl, rfl, rfl, rfl⟩, fun _ => ⟨rfl, rfl⟩, fun _ => ⟨rfl, rfl, rfl⟩, rfl, rfl, rfl, rfl, rfl, rfl,
    fun _ => rfl⟩, fun i hi => absurd hi List.not_mem_nil, rfl⟩

/-- Refutes O3: JTAG_TESTENG with the operand 7 names no operation of the engine, but its scan completes, as every scan does. -/
theorem not_strayUnitRefused : ¬ Obligations.StrayUnitRefused := by
  intro h
  have hrefused := h (.jtagTesteng 7) State.reset rfl
  rw [exec_jtagTesteng_seven_reset] at hrefused
  cases hrefused

end Sys2Proof.Machine
end

section
/-! SUPPORT. Frames: which fields of the state an operation may change, as a relation that operations compose; the operations that
many rows share have their footprints here. -/

-- One proof after another: threads that wait for each other count against the memory of the check.
set_option Elab.async false

namespace Sys2Proof.Machine

/-! ## Folds -/

/-- A fold of steps of a reflexive and transitive relation is a step of it. -/
theorem foldl_rel {α β : Type} {R : α → α → Prop} (hrefl : ∀ s, R s s) (htrans : ∀ {s t u}, R s t → R t u → R s u)
    {g : α → β → α} (h : ∀ s b, R s (g s b)) (l : List β) (s : α) : R s (l.foldl g s) := by
  induction l generalizing s with
  | nil => exact hrefl s
  | cons b t ih => exact htrans (h s b) (ih (g s b))

/-- A fold of operations that keep a part of the state, over the members of a list, keeps it. -/
theorem foldl_keeps_of_mem {α β γ : Type} {π : α → γ} {g : α → β → α} (l : List β) (h : ∀ s, ∀ b ∈ l, π (g s b) = π s) (s : α) :
    π (l.foldl g s) = π s := by
  induction l generalizing s with
  | nil => rfl
  | cons b t ih =>
    rw [List.foldl_cons, ih fun s c hc => h s c (List.mem_cons_of_mem b hc), h s b List.mem_cons_self]

/-- A fold of operations that keep a part of the state keeps it. -/
theorem foldl_keeps {α β γ : Type} {π : α → γ} {g : α → β → α} (h : ∀ s b, π (g s b) = π s) (l : List β) (s : α) :
    π (l.foldl g s) = π s :=
  foldl_keeps_of_mem l (fun s b _ => h s b) s

/-! ## Footprints -/

/-- The fields of the state, with those of the Reeve and of the host side that many operations change apart from the rest of them. -/
inductive Fld where
  | pending | fresh | clk | pins | tiles | rows | parts | mems | ports | dram | bolts | link | power | start | side | jtag | out
  | pages | inbox | ops | changes | reeve | due | hst
  deriving DecidableEq

/-- The Reeve without what has fields of its own. -/
def reeveRest (r : Reeve) : Reeve := { r with pages := [], inbox := [], ops := [], changes := [] }

/-- The host side without the vectors due. -/
def hstRest (h : Hst) : Hst := { h with due := 0 }

/-- Two states agree in a field. -/
def SameAt (s t : State) : Fld → Prop
  | .pending => t.pending = s.pending
  | .fresh => t.fresh = s.fresh
  | .clk => t.clk = s.clk
  | .pins => t.pins = s.pins
  | .tiles => t.tiles = s.tiles
  | .rows => t.rows = s.rows
  | .parts => t.parts = s.parts
  | .mems => t.mems = s.mems
  | .ports => t.ports = s.ports
  | .dram => t.dram = s.dram
  | .bolts => t.bolts = s.bolts
  | .link => t.link = s.link
  | .power => t.power = s.power
  | .start => t.start = s.start
  | .side => t.side = s.side
  | .jtag => t.jtag = s.jtag
  | .out => t.out = s.out
  | .pages => t.reeve.pages = s.reeve.pages
  | .inbox => t.reeve.inbox = s.reeve.inbox
  | .ops => t.reeve.ops = s.reeve.ops
  | .changes => t.reeve.changes = s.reeve.changes
  | .reeve => reeveRest t.reeve = reeveRest s.reeve
  | .due => t.hst.due = s.hst.due
  | .hst => hstRest t.hst = hstRest s.hst

/-- Nothing but the fields listed differs. -/
def Touches (F : List Fld) (s t : State) : Prop := ∀ x, x ∉ F → SameAt s t x

@[simp] theorem Touches.refl (F : List Fld) (s : State) : Touches F s s := fun x _ => by cases x <;> rfl

theorem Touches.symm {F : List Fld} {s t : State} (h : Touches F s t) : Touches F t s :=
  fun x hx => by cases x <;> exact (h _ hx).symm

theorem Touches.trans {F : List Fld} {s t u : State} (h1 : Touches F s t) (h2 : Touches F t u) : Touches F s u :=
  fun x hx => by cases x <;> exact (h2 _ hx).trans (h1 _ hx)

theorem Touches.mono {F G : List Fld} {s t : State} (h : Touches G s t) (hG : G ⊆ F) : Touches F s t :=
  fun x hx => h x fun hm => hx (hG hm)

/-- What an operation with a smaller footprint leaves differs from a state as what it was given. -/
theorem Touches.iff_of {F G : List Fld} {s t u : State} (h : Touches G t u) (hG : G ⊆ F) : Touches F s u ↔ Touches F s t :=
  ⟨fun hu => hu.trans (h.mono hG).symm, fun ht => ht.trans (h.mono hG)⟩

@[simp] theorem touches_ite {F : List Fld} {s a b : State} {c : Prop} [Decidable c] :
    Touches F s (if c then a else b) ↔ (c → Touches F s a) ∧ (¬ c → Touches F s b) := by
  split <;> simp_all

@[simp] theorem touches_foldl {β : Type} {F : List Fld} {s t : State} {g : State → β → State} {l : List β}
    (h : ∀ s b, Touches F s (g s b)) : Touches F s (l.foldl g t) ↔ Touches F s t :=
  Touches.iff_of (foldl_rel (Touches.refl F) Touches.trans h l t) (List.Subset.refl F)

/-! ## What a footprint leaves -/

section
variable {F : List Fld} {s t : State} (h : Touches F s t)
include h

theorem Touches.getTile (p : Nat) (hF : .tiles ∉ F := by decide) : getTile t p = getTile s p :=
  congrArg (fun m => kvGet ({} : Tile) m p) (h .tiles hF)

theorem Touches.getRow (r : Nat) (hF : .rows ∉ F := by decide) : getRow t r = getRow s r :=
  congrArg (fun m => kvGet ({} : Row) m r) (h .rows hF)

theorem Touches.getPart (n : Nat) (hF : .parts ∉ F := by decide) : getPart t n = getPart s n :=
  congrArg (fun m => kvGet ({} : Part) m n) (h .parts hF)

theorem Touches.getStack (k : Nat) (hF : .mems ∉ F := by decide) : getStack t k = getStack s k :=
  congrArg (fun m => kvGet ({} : Stack) m k) (h .mems hF)

theorem Touches.getPort (p : Nat) (hF : .ports ∉ F := by decide) : getPort t p = getPort s p :=
  congrArg (fun m => kvGet ({} : Port) m p) (h .ports hF)

theorem Touches.getPage (n : Nat) (hF : .pages ∉ F := by decide) : getPage t n = getPage s n :=
  congrArg (fun m => kvGet ({} : Page) m n) (h .pages hF)

theorem Touches.domOn (d : Nat) (hF : .power ∉ F := by decide) : domOn t d = domOn s d :=
  congrArg (fun p : Power => kvGet .off p.domains d == .on) (h .power hF)

theorem Touches.clk (hF : .clk ∉ F := by decide) : t.clk = s.clk := h .clk hF
theorem Touches.pins (hF : .pins ∉ F := by decide) : t.pins = s.pins := h .pins hF
theorem Touches.tiles (hF : .tiles ∉ F := by decide) : t.tiles = s.tiles := h .tiles hF
theorem Touches.rows (hF : .rows ∉ F := by decide) : t.rows = s.rows := h .rows hF
theorem Touches.parts (hF : .parts ∉ F := by decide) : t.parts = s.parts := h .parts hF
theorem Touches.mems (hF : .mems ∉ F := by decide) : t.mems = s.mems := h .mems hF
theorem Touches.ports (hF : .ports ∉ F := by decide) : t.ports = s.ports := h .ports hF
theorem Touches.dram (hF : .dram ∉ F := by decide) : t.dram = s.dram := h .dram hF
theorem Touches.bolts (hF : .bolts ∉ F := by decide) : t.bolts = s.bolts := h .bolts hF
theorem Touches.link (hF : .link ∉ F := by decide) : t.link = s.link := h .link hF
theorem Touches.power (hF : .power ∉ F := by decide) : t.power = s.power := h .power hF
theorem Touches.start (hF : .start ∉ F := by decide) : t.start = s.start := h .start hF
theorem Touches.side (hF : .side ∉ F := by decide) : t.side = s.side := h .side hF
theorem Touches.out (hF : .out ∉ F := by decide) : t.out = s.out := h .out hF
theorem Touches.inbox (hF : .inbox ∉ F := by decide) : t.reeve.inbox = s.reeve.inbox := h .inbox hF
theorem Touches.ops (hF : .ops ∉ F := by decide) : t.reeve.ops = s.reeve.ops := h .ops hF
theorem Touches.changes (hF : .changes ∉ F := by decide) : t.reeve.changes = s.reeve.changes := h .changes hF
theorem Touches.reeve (hF : .reeve ∉ F := by decide) : reeveRest t.reeve = reeveRest s.reeve := h .reeve hF
theorem Touches.hst (hF : .hst ∉ F := by decide) : hstRest t.hst = hstRest s.hst := h .hst hF

theorem Touches.hst_eq (hF : .hst ∉ F := by decide) (hD : .due ∉ F := by decide) : t.hst = s.hst := by
  have hrest := h .hst hF
  have hdue := h .due hD
  simp only [SameAt, hstRest, Hst.mk.injEq] at hrest hdue
  cases ht : t.hst
  cases hs : s.hst
  simp_all

end

/-! ## The footprints of the updates -/

section
variable {F : List Fld} {s t : State}

theorem touches_of_one {u : State} {fl : Fld} (h : ∀ x, x ≠ fl → SameAt t u x) (hF : fl ∈ F) :
    Touches F s u ↔ Touches F s t :=
  Touches.iff_of (G := [fl]) (fun x hx => h x (by simpa using hx)) (by simpa using hF)

@[simp] theorem touches_setTile {p : Nat} {v : Tile} (hF : .tiles ∈ F) : Touches F s (setTile t p v) ↔ Touches F s t :=
  touches_of_one (fun x hx => by
    cases x
    case tiles => exact absurd rfl hx
    all_goals rfl) hF

@[simp] theorem touches_modTile {p : Nat} {f : Tile → Tile} (hF : .tiles ∈ F) : Touches F s (modTile t p f) ↔ Touches F s t :=
  touches_of_one (fun x hx => by
    cases x
    case tiles => exact absurd rfl hx
    all_goals rfl) hF

@[simp] theorem touches_modRow {p : Nat} {f : Row → Row} (hF : .rows ∈ F) : Touches F s (modRow t p f) ↔ Touches F s t :=
  touches_of_one (fun x hx => by
    cases x
    case rows => exact absurd rfl hx
    all_goals rfl) hF

@[simp] theorem touches_modPart {p : Nat} {f : Part → Part} (hF : .parts ∈ F) : Touches F s (modPart t p f) ↔ Touches F s t :=
  touches_of_one (fun x hx => by
    cases x
    case parts => exact absurd rfl hx
    all_goals rfl) hF

@[simp] theorem touches_modStack {p : Nat} {f : Stack → Stack} (hF : .mems ∈ F) : Touches F s (modStack t p f) ↔ Touches F s t :=
  touches_of_one (fun x hx => by
    cases x
    case mems => exact absurd rfl hx
    all_goals rfl) hF

@[simp] theorem touches_modPort {p : Nat} {f : Port → Port} (hF : .ports ∈ F) : Touches F s (modPort t p f) ↔ Touches F s t :=
  touches_of_one (fun x hx => by
    cases x
    case ports => exact absurd rfl hx
    all_goals rfl) hF

@[simp] theorem touches_modClk {f : Clk → Clk} (hF : .clk ∈ F) : Touches F s (modClk t f) ↔ Touches F s t :=
  touches_of_one (fun x hx => by
    cases x
    case clk => exact absurd rfl hx
    all_goals rfl) hF

@[simp] theorem touches_modLink {f : Link → Link} (hF : .link ∈ F) : Touches F s (modLink t f) ↔ Touches F s t :=
  touches_of_one (fun x hx => by
    cases x
    case link => exact absurd rfl hx
    all_goals rfl) hF

@[simp] theorem touches_setDom {d : Nat} {v : DomSt} (hF : .power ∈ F) : Touches F s (setDom t d v) ↔ Touches F s t :=
  touches_of_one (fun x hx => by
    cases x
    case power => exact absurd rfl hx
    all_goals rfl) hF

@[simp] theorem touches_modPage {n : Nat} {f : Page → Page} (hF : .pages ∈ F) : Touches F s (modPage t n f) ↔ Touches F s t :=
  touches_of_one (fun x hx => by
    cases x
    case pages => exact absurd rfl hx
    all_goals rfl) hF

@[simp] theorem touches_sendEvent {e : Event} (hF : .inbox ∈ F) : Touches F s (sendEvent t e) ↔ Touches F s t :=
  touches_of_one (fun x hx => by
    cases x
    case inbox => exact absurd rfl hx
    all_goals rfl) hF

@[simp] theorem touches_vecDue {v : Nat} (hF : .due ∈ F) : Touches F s (vecDue t v) ↔ Touches F s t :=
  touches_of_one (fun x hx => by
    cases x
    case due => exact absurd rfl hx
    all_goals rfl) hF

@[simp] theorem touches_modJtag {f : Jtag → Jtag} (hF : .jtag ∈ F) : Touches F s (modJtag t f) ↔ Touches F s t :=
  touches_of_one (fun x hx => by
    cases x
    case jtag => exact absurd rfl hx
    all_goals rfl) hF

@[simp] theorem touches_putOut {k a : Nat} {d : List Byte} (hF : .out ∈ F) : Touches F s (putOut t k a d) ↔ Touches F s t :=
  touches_of_one (fun x hx => by
    cases x
    case out => exact absurd rfl hx
    all_goals rfl) hF

@[simp] theorem touches_persist {k v : Nat} (hF : .start ∈ F) : Touches F s (persist t k v) ↔ Touches F s t :=
  touches_of_one (fun x hx => by
    cases x
    case start => exact absurd rfl hx
    all_goals rfl) hF

@[simp] theorem touches_modAsm {f : List Asm → List Asm} (hF : .hst ∈ F) : Touches F s (modAsm t f) ↔ Touches F s t :=
  touches_of_one (fun x hx => by
    cases x
    case hst => exact absurd rfl hx
    all_goals rfl) hF

@[simp] theorem touches_with_fresh {v : Nat} (hF : .fresh ∈ F) : Touches F s { t with fresh := v } ↔ Touches F s t :=
  touches_of_one (fun x hx => by
    cases x
    case fresh => exact absurd rfl hx
    all_goals rfl) hF

@[simp] theorem touches_with_clk {v : Clk} (hF : .clk ∈ F) : Touches F s { t with clk := v } ↔ Touches F s t :=
  touches_of_one (fun x hx => by
    cases x
    case clk => exact absurd rfl hx
    all_goals rfl) hF

@[simp] theorem touches_with_pins {v : Pins} (hF : .pins ∈ F) : Touches F s { t with pins := v } ↔ Touches F s t :=
  touches_of_one (fun x hx => by
    cases x
    case pins => exact absurd rfl hx
    all_goals rfl) hF

@[simp] theorem touches_with_tiles {v : Kv Tile} (hF : .tiles ∈ F) : Touches F s { t with tiles := v } ↔ Touches F s t :=
  touches_of_one (fun x hx => by
    cases x
    case tiles => exact absurd rfl hx
    all_goals rfl) hF

@[simp] theorem touches_with_parts {v : Kv Part} (hF : .parts ∈ F) : Touches F s { t with parts := v } ↔ Touches F s t :=
  touches_of_one (fun x hx => by
    cases x
    case parts => exact absurd rfl hx
    all_goals rfl) hF

@[simp] theorem touches_with_mems {v : Kv Stack} (hF : .mems ∈ F) : Touches F s { t with mems := v } ↔ Touches F s t :=
  touches_of_one (fun x hx => by
    cases x
    case mems => exact absurd rfl hx
    all_goals rfl) hF

@[simp] theorem touches_with_ports {v : Kv Port} (hF : .ports ∈ F) : Touches F s { t with ports := v } ↔ Touches F s t :=
  touches_of_one (fun x hx => by
    cases x
    case ports => exact absurd rfl hx
    all_goals rfl) hF

@[simp] theorem touches_with_dram {v : Mem} (hF : .dram ∈ F) : Touches F s { t with dram := v } ↔ Touches F s t :=
  touches_of_one (fun x hx => by
    cases x
    case dram => exact absurd rfl hx
    all_goals rfl) hF

@[simp] theorem touches_with_bolts {v : Kv BoltMeta} (hF : .bolts ∈ F) : Touches F s { t with bolts := v } ↔ Touches F s t :=
  touches_of_one (fun x hx => by
    cases x
    case bolts => exact absurd rfl hx
    all_goals rfl) hF

@[simp] theorem touches_with_link {v : Link} (hF : .link ∈ F) : Touches F s { t with link := v } ↔ Touches F s t :=
  touches_of_one (fun x hx => by
    cases x
    case link => exact absurd rfl hx
    all_goals rfl) hF

@[simp] theorem touches_with_power {v : Power} (hF : .power ∈ F) : Touches F s { t with power := v } ↔ Touches F s t :=
  touches_of_one (fun x hx => by
    cases x
    case power => exact absurd rfl hx
    all_goals rfl) hF

@[simp] theorem touches_with_start {v : Start} (hF : .start ∈ F) : Touches F s { t with start := v } ↔ Touches F s t :=
  touches_of_one (fun x hx => by
    cases x
    case start => exact absurd rfl hx
    all_goals rfl) hF

@[simp] theorem touches_with_side {v : Side} (hF : .side ∈ F) : Touches F s { t with side := v } ↔ Touches F s t :=
  touches_of_one (fun x hx => by
    cases x
    case side => exact absurd rfl hx
    all_goals rfl) hF

@[simp] theorem touches_with_jtag {v : Jtag} (hF : .jtag ∈ F) : Touches F s { t with jtag := v } ↔ Touches F s t :=
  touches_of_one (fun x hx => by
    cases x
    case jtag => exact absurd rfl hx
    all_goals rfl) hF

@[simp] theorem touches_with_out {v : List Out} (hF : .out ∈ F) : Touches F s { t with out := v } ↔ Touches F s t :=
  touches_of_one (fun x hx => by
    cases x
    case out => exact absurd rfl hx
    all_goals rfl) hF

@[simp] theorem touches_with_hst {v : Hst} (hF : [.hst, .due] ⊆ F) : Touches F s { t with hst := v } ↔ Touches F s t :=
  Touches.iff_of (G := [.hst, .due]) (fun x hx => by
    cases x
    case hst | due => simp at hx
    all_goals rfl) hF

@[simp] theorem touches_modReeve {f : Reeve → Reeve} (hF : [.pages, .inbox, .ops, .changes, .reeve] ⊆ F) :
    Touches F s (modReeve t f) ↔ Touches F s t :=
  Touches.iff_of (G := [.pages, .inbox, .ops, .changes, .reeve]) (fun x hx => by
    cases x
    case pages | inbox | ops | changes | reeve => simp at hx
    all_goals rfl) hF

/-- A fold that changes tiles alone. -/
@[simp] theorem touches_foldl_modTile {β : Type} {l : List β} {p : State → β → Nat} {f : State → β → Tile → Tile} (hF : .tiles ∈ F) :
    Touches F s (l.foldl (fun s b => modTile s (p s b) (f s b)) t) ↔ Touches F s t :=
  touches_foldl fun _ _ => (touches_modTile hF).mpr (Touches.refl _ _)

end

/-- A footprint field by field, for an update written out. -/
theorem touches_iff {F : List Fld} {s t : State} : Touches F s t ↔
    (.pending ∈ F ∨ t.pending = s.pending) ∧ (.fresh ∈ F ∨ t.fresh = s.fresh) ∧ (.clk ∈ F ∨ t.clk = s.clk)
      ∧ (.pins ∈ F ∨ t.pins = s.pins) ∧ (.tiles ∈ F ∨ t.tiles = s.tiles) ∧ (.rows ∈ F ∨ t.rows = s.rows)
      ∧ (.parts ∈ F ∨ t.parts = s.parts) ∧ (.mems ∈ F ∨ t.mems = s.mems) ∧ (.ports ∈ F ∨ t.ports = s.ports)
      ∧ (.dram ∈ F ∨ t.dram = s.dram) ∧ (.bolts ∈ F ∨ t.bolts = s.bolts) ∧ (.link ∈ F ∨ t.link = s.link)
      ∧ (.power ∈ F ∨ t.power = s.power) ∧ (.start ∈ F ∨ t.start = s.start) ∧ (.side ∈ F ∨ t.side = s.side)
      ∧ (.jtag ∈ F ∨ t.jtag = s.jtag) ∧ (.out ∈ F ∨ t.out = s.out) ∧ (.pages ∈ F ∨ t.reeve.pages = s.reeve.pages)
      ∧ (.inbox ∈ F ∨ t.reeve.inbox = s.reeve.inbox) ∧ (.ops ∈ F ∨ t.reeve.ops = s.reeve.ops)
      ∧ (.changes ∈ F ∨ t.reeve.changes = s.reeve.changes) ∧ (.reeve ∈ F ∨ reeveRest t.reeve = reeveRest s.reeve)
      ∧ (.due ∈ F ∨ t.hst.due = s.hst.due) ∧ (.hst ∈ F ∨ hstRest t.hst = hstRest s.hst) := by
  have hsame : ∀ x, (x ∉ F → SameAt s t x) ↔ (x ∈ F ∨ SameAt s t x) := fun x => or_iff_not_imp_left.symm
  constructor
  · intro h
    refine ⟨?_, ?_, ?_, ?_, ?_, ?_, ?_, ?_, ?_, ?_, ?_, ?_, ?_, ?_, ?_, ?_, ?_, ?_, ?_, ?_, ?_, ?_, ?_, ?_⟩ <;>
      exact (hsame _).mp (h _)
  · intro h x
    refine (hsame x).mpr ?_
    cases x <;> simp only [SameAt, h]

/-- The state with the fields listed from another one. -/
def overlay (F : List Fld) (s t : State) : State :=
  { s with
    pending := if .pending ∈ F then t.pending else s.pending, fresh := if .fresh ∈ F then t.fresh else s.fresh
    clk := if .clk ∈ F then t.clk else s.clk, pins := if .pins ∈ F then t.pins else s.pins
    tiles := if .tiles ∈ F then t.tiles else s.tiles, rows := if .rows ∈ F then t.rows else s.rows
    parts := if .parts ∈ F then t.parts else s.parts, mems := if .mems ∈ F then t.mems else s.mems
    ports := if .ports ∈ F then t.ports else s.ports, dram := if .dram ∈ F then t.dram else s.dram
    bolts := if .bolts ∈ F then t.bolts else s.bolts, link := if .link ∈ F then t.link else s.link
    power := if .power ∈ F then t.power else s.power, start := if .start ∈ F then t.start else s.start
    side := if .side ∈ F then t.side else s.side, jtag := if .jtag ∈ F then t.jtag else s.jtag
    out := if .out ∈ F then t.out else s.out
    reeve := { (if .reeve ∈ F then t.reeve else s.reeve) with
      pages := if .pages ∈ F then t.reeve.pages else s.reeve.pages, inbox := if .inbox ∈ F then t.reeve.inbox else s.reeve.inbox
      ops := if .ops ∈ F then t.reeve.ops else s.reeve.ops, changes := if .changes ∈ F then t.reeve.changes else s.reeve.changes }
    hst := { (if .hst ∈ F then t.hst else s.hst) with due := if .due ∈ F then t.hst.due else s.hst.due } }

theorem ite_eq_of_or {α : Type} {p : Prop} [Decidable p] {a b : α} (h : p ∨ a = b) : (if p then a else b) = a := by
  rcases h with h | rfl
  · exact if_pos h
  · exact ite_self a

theorem reeve_eq_of_rest {p : Prop} [Decidable p] {a b : Reeve} (h : p ∨ reeveRest a = reeveRest b) :
    { (if p then a else b) with pages := a.pages, inbox := a.inbox, ops := a.ops, changes := a.changes } = a := by
  rcases h with h | h
  · rw [if_pos h]
  · split
    · rfl
    · exact (congrArg (fun r : Reeve => { r with pages := a.pages, inbox := a.inbox, ops := a.ops, changes := a.changes }) h).symm

theorem hst_eq_of_rest {p : Prop} [Decidable p] {a b : Hst} (h : p ∨ hstRest a = hstRest b) :
    { (if p then a else b) with due := a.due } = a := by
  rcases h with h | h
  · rw [if_pos h]
  · split
    · rfl
    · exact (congrArg (fun r : Hst => { r with due := a.due }) h).symm

/-- A state that differs in the fields listed alone is the other one with those fields of its own. -/
theorem Touches.eq_overlay {F : List Fld} {s t : State} (h : Touches F s t) : t = overlay F s t := by
  obtain ⟨h1, h2, h3, h4, h5, h6, h7, h8, h9, h10, h11, h12, h13, h14, h15, h16, h17, h18, h19, h20, h21, h22, h23, h24⟩ :=
    touches_iff.mp h
  simp only [overlay, ite_eq_of_or, *]
  rw [reeve_eq_of_rest h22, hst_eq_of_rest h24]

/-! ## Events for the host -/

theorem evPut_touches (s : State) (n kind : Nat) (pay : List Byte) : Touches [.pages, .due] s (evPut s n kind pay) := by
  simp [evPut]

theorem evEmit_touches (s : State) (n kind : Nat) (pay : List Byte) : Touches [.pages, .due] s (evEmit s n kind pay) := by
  simp [evEmit, evPut]

@[simp] theorem touches_emitTo {F : List Fld} {s t : State} {mask kind : Nat} {pay : List Byte} (hF : [.pages, .due] ⊆ F) :
    Touches F s (emitTo t mask kind pay) ↔ Touches F s t :=
  Touches.iff_of (by simp [emitTo, evEmit_touches]) hF

@[simp] theorem touches_withHealth {F : List Fld} {s t old : State} (hF : [.pages, .due] ⊆ F) :
    Touches F s (withHealth old t) ↔ Touches F s t :=
  Touches.iff_of (by simp [withHealth]) hF

/-- The report of a changed condition leaves every field but its own. -/
theorem withHealth_frame (old new : State) : Touches [.pages, .due] new (withHealth old new) := by simp

end Sys2Proof.Machine
end

section
/-! SUPPORT. How a start begins (R441, R498, R499), and PERST_N (R457, R500). -/

namespace Sys2Proof.Machine

/-- The state in which a good input has been latched. -/
def inputOn (mv : Nat) (s : State) : State :=
  { s with
    pins := { s.pins with inputGood := true, alertN := !s.pins.alertLatched, thermtripN := !s.pins.thermLatched }
    power := { s.power with inputMv := mv } }

theorem domOn_setDom_on (s : State) (d e : Nat) : domOn (setDom s d .on) e = (e == d || domOn s e) := by
  by_cases h : e = d
  · subst h
    simp
  · simp [h, domOn_setDom_other]

/-- A good input: a latched trip lets D92 alone come back, and else a start begins where MRST_N is high. -/
theorem exec_inputGood {mv : Nat} {s : State} (hoff : s.pins.inputGood = false) (hlo : 40000 ≤ mv) (hhi : mv ≤ 60000) :
    exec (.inputGood mv) s = .next (if s.pins.thermLatched then setDom (inputOn mv s) 92 .on
      else if s.pins.mrstN then startBegin (inputOn mv s) else inputOn mv s) :=
  if_neg (by simp [hoff]; omega)

theorem exec_mrstNRelease {s : State} (hlow : s.pins.mrstN = false) :
    exec .mrstNRelease s = .next (if s.pins.inputGood && s.pins.thermtripN
      then startBegin { s with pins := { s.pins with mrstN := true } } else { s with pins := { s.pins with mrstN := true } }) :=
  if_neg (by simp [hlow])

/-- Settles O8: the rows of INPUT_GOOD and MRST_N_RELEASE by what they find on the pins. -/
theorem startBeginsAndPciResets : Obligations.StartBeginsAndPciResets := by
  refine ⟨⟨fun mv s hoff hlo hhi => ⟨_, exec_inputGood hoff hlo hhi, ?_⟩, fun s hlow => ⟨_, exec_mrstNRelease hlow, ?_⟩⟩,
    fun s => ⟨⟨_, rfl, rfl, rfl, rfl, rfl, rfl, rfl, rfl, rfl, rfl, rfl⟩, _, rfl, rfl⟩⟩
  · by_cases htrip : s.pins.thermLatched = true
    · rw [if_pos htrip]
      exact ⟨rfl, rfl, rfl, by simp [htrip], by simp [htrip], fun _ => ⟨rfl, domOn_setDom_on (inputOn mv s) 92⟩⟩
    · rw [if_neg htrip]
      by_cases hmrst : s.pins.mrstN = true
      · rw [if_pos hmrst]
        exact ⟨rfl, rfl, rfl, fun _ _ => ⟨rfl, rfl, rfl, rfl⟩, by simp [hmrst], by simp [htrip]⟩
      · rw [if_neg hmrst]
        exact ⟨rfl, rfl, rfl, by simp [hmrst], fun _ _ => ⟨rfl, rfl⟩, by simp [htrip]⟩
  · by_cases hstart : (s.pins.inputGood && s.pins.thermtripN) = true
    · rw [if_pos hstart]
      exact ⟨rfl, fun _ _ => ⟨rfl, rfl, rfl⟩, fun hout => by simp_all⟩
    · rw [if_neg hstart]
      exact ⟨rfl, fun hgood htrip => by simp_all, fun _ => rfl⟩

end Sys2Proof.Machine
end

section
/-! SUPPORT. Footprints of what resets, losses and ports going down have in common. -/

-- One proof after another: threads that wait for each other count against the memory of the check.
set_option Elab.async false

namespace Sys2Proof.Machine

/-- A fold whose every step brings about a property of its own, and keeps those of the others, brings about all of them. -/
theorem foldl_establishes {α β : Type} {P : β → α → Prop} {g : α → β → α} (hset : ∀ s b, P b (g s b))
    (hkeep : ∀ s b c, P c s → P c (g s b)) (l : List β) (s : α) : ∀ b ∈ l, P b (l.foldl g s) := by
  induction l generalizing s with
  | nil => nofun
  | cons b t ih =>
    intro c hc
    obtain rfl | hc := List.mem_cons.mp hc
    · exact foldl_rel (R := fun s t => P c s → P c t) (fun _ => id) (fun h1 h2 => h2 ∘ h1) (fun s b => hkeep s b c) t _ (hset s c)
    · exact ih _ c hc

section
variable {F : List Fld} {s t : State}

/-! ## Operations, lots and resets -/

@[simp] theorem touches_modReeve_ops {f : List Op → List Op} (hF : .ops ∈ F) :
    Touches F s (modReeve t (fun r => { r with ops := f r.ops })) ↔ Touches F s t :=
  touches_of_one (fun x hx => by
    cases x
    case ops => exact absurd rfl hx
    all_goals rfl) hF

@[simp] theorem touches_opsCancel {kinds : List Nat} {mask : Nat} (hF : [.ops, .pages, .due] ⊆ F) :
    Touches F s (opsCancel t kinds mask) ↔ Touches F s t :=
  Touches.iff_of (by simp [opsCancel, opEvent, modOp]) hF

@[simp] theorem touches_endLots {n code : Nat} (hF : .parts ∈ F) : Touches F s (endLots t n code) ↔ Touches F s t := by
  simp [endLots, hF]

@[simp] theorem touches_rowAbandon {r : Nat} (hF : [.tiles, .rows] ⊆ F) : Touches F s (rowAbandon t r) ↔ Touches F s t :=
  Touches.iff_of (by simp [rowAbandon]) hF

theorem assayEnd_touches (s : State) (n : Nat) : Touches [.parts, .inbox] s (assayEnd s n) := by
  unfold assayEnd
  split <;> simp [assayEvents]

@[simp] theorem touches_assayDrop {n : Nat} (hF : [.ops, .pages, .due, .parts, .inbox] ⊆ F) :
    Touches F s (assayDrop t n) ↔ Touches F s t := by
  refine Touches.iff_of ?_ hF
  have hend := (assayEnd_touches (opsCancel t [4] (2 ^ n)) n).mono (F := [.ops, .pages, .due, .parts, .inbox]) (by simp)
  simpa [assayDrop] using fun _ => Touches.trans (by simp) hend

@[simp] theorem touches_beginReset {n lvl code : Nat} (hF : [.ops, .pages, .due, .parts, .inbox, .tiles, .rows] ⊆ F) :
    Touches F s (beginReset t n lvl code) ↔ Touches F s t :=
  Touches.iff_of (by simp [beginReset]) hF

@[simp] theorem touches_computeBegin (hF : [.ops, .pages, .due, .parts, .inbox, .tiles, .rows, .changes, .reeve] ⊆ F) :
    Touches F s (computeBegin t) ↔ Touches F s t :=
  Touches.iff_of (by simp [computeBegin]) hF

@[simp] theorem touches_moduleLost (hF : [.parts, .tiles, .hst, .due] ⊆ F) : Touches F s (moduleLost t) ↔ Touches F s t := 
  Touches.iff_of (by simp [moduleLost]) hF

/-! ## Messages and packets -/

@[simp] theorem touches_cutLots {n code bell cc : Nat} (hF : .parts ∈ F) : Touches F s (cutLots t n code bell cc) ↔ Touches F s t := by
  simp [cutLots, failLots, hF]

@[simp] theorem touches_modRouter {p : Nat} {f : Router → Router} (hF : .tiles ∈ F) :
    Touches F s (modRouter t p f) ↔ Touches F s t := by
  simp [modRouter, hF]

@[simp] theorem touches_ueReport {p port : Nat} {k : Packet} {readable : Bool} (hF : [.inbox, .parts] ⊆ F) :
    Touches F s (ueReport t p port k readable) ↔ Touches F s t := by
  refine Touches.iff_of ?_ hF
  unfold ueReport
  dsimp only
  split <;> simp

@[simp] theorem touches_keyDrop {p port : Nat} {k : Packet} (hF : [.tiles, .inbox, .parts] ⊆ F) :
    Touches F s (keyDrop t p port k) ↔ Touches F s t := by
  refine Touches.iff_of ?_ hF
  unfold keyDrop
  dsimp only
  split <;> simp

@[simp] theorem touches_nextStamp (hF : .clk ∈ F) : Touches F s (nextStamp t).2 ↔ Touches F s t := by
  simp [nextStamp, hF]

@[simp] theorem touches_inputTake {l input : Nat} {k : Packet} (hF : [.tiles, .clk, .inbox, .parts] ⊆ F) :
    Touches F s (inputTake t l input k) ↔ Touches F s t :=
  Touches.iff_of (by simp [inputTake, ueDrop]) hF

@[simp] theorem touches_fillLocal {p : Nat} (hF : [.tiles, .clk] ⊆ F) : Touches F s (fillLocal t p) ↔ Touches F s t := by
  refine Touches.iff_of ?_ hF
  unfold fillLocal
  split
  · exact Touches.refl _ _
  · refine (touches_foldl fun s v => ?_).mpr (Touches.refl _ _)
    dsimp only
    split <;> simp

end

/-! ## A lost stack -/

/-- Whether a stack is lost. -/
def stackGone (k : Nat) (s : State) : Bool := (getStack s k).lost

theorem stackGone_modStack {s : State} {n k : Nat} {f : Stack → Stack} (h : ∀ q, (f q).lost = q.lost) :
    stackGone k (modStack s n f) = stackGone k s := by
  by_cases hk : k = n
  · subst hk
    simp [stackGone, h]
  · simp [stackGone, getStack_modStack_other _ _ _ _ hk]

theorem stackGone_of_touches {F : List Fld} {s t : State} (h : Touches F s t) (hF : .mems ∉ F) (k : Nat) :
    stackGone k t = stackGone k s := congrArg (fun m => (kvGet {} m k).lost) (h .mems hF)

@[simp] theorem stackGone_modPort (s : State) (p k : Nat) (f : Port → Port) : stackGone k (modPort s p f) = stackGone k s := rfl

@[simp] theorem stackGone_inputTake (s : State) (l input k : Nat) (pk : Packet) :
    stackGone k (inputTake s l input pk) = stackGone k s :=
  stackGone_of_touches (F := [.tiles, .clk, .inbox, .parts]) (by simp) (by decide) k

@[simp] theorem stackGone_edgeFill (s : State) (l input vc k : Nat) : stackGone k (edgeFill s l input vc) = stackGone k s := by
  unfold edgeFill
  dsimp only
  repeat' split
  all_goals simp [stackGone_modStack]

@[simp] theorem stackGone_refill (s : State) (l input k : Nat) : stackGone k (refill s l input) = stackGone k s := by
  unfold refill
  split
  · exact stackGone_of_touches (F := [.tiles, .clk]) (by simp) (by decide) k
  · exact foldl_keeps (fun s v => stackGone_edgeFill s l input v k) _ s

@[simp] theorem stackGone_answer (s : State) (n tile k : Nat) (pks : List Packet) :
    stackGone k (answer s n tile pks) = stackGone k s := by
  simp [answer, stackEmit, stackGone_modStack]

theorem stackGone_postsAnswer (s : State) (n k : Nat) : stackGone k (postsAnswer s n) = stackGone k s :=
  foldl_keeps (fun s _ => stackGone_answer s n _ k _) _ s

/-- A stack that is lost answers what waits in it, and stays as lost as it was. -/
theorem stackGone_lostAnswer (s : State) (n k : Nat) : stackGone k (lostAnswer s n) = stackGone k s := by
  unfold lostAnswer
  split
  · rfl
  · rw [foldl_keeps (fun s _ => stackGone_answer s n _ k _), stackGone_modStack, stackGone_postsAnswer]
    exact fun _ => rfl

theorem stackGone_stackLost (s : State) (k : Nat) : stackGone k (stackLost s k) = true := by
  rw [stackLost, stackGone_of_touches (F := [.ops, .pages, .due, .parts, .inbox, .tiles, .rows, .changes, .reeve])
    ((touches_computeBegin (List.Subset.refl _)).mpr (Touches.refl _ _)) (by decide), stackGone_lostAnswer]
  simp [stackGone]

/-! ## Ports that go down -/

/-- A port without what a discarded message changes of it. -/
def portBare (q : Port) : Port :=
  { q with txQ := [], ord := [], here := [], undel := 0, dropRoute := 0, dropHops := 0, dropKey := 0, late := 0, dropDown := 0 }

/-- Nothing but what discarded messages change of the ports differs. -/
structure Discards (s t : State) : Prop where
  frame : Touches [.ports] s t
  bare : ∀ q, portBare (getPort t q) = portBare (getPort s q)

namespace Discards

theorem refl (s : State) : Discards s s := ⟨Touches.refl _ s, fun _ => rfl⟩

theorem trans {s t u : State} (h1 : Discards s t) (h2 : Discards t u) : Discards s u :=
  ⟨h1.frame.trans h2.frame, fun q => (h2.bare q).trans (h1.bare q)⟩

theorem modPort {s t : State} (h : Discards s t) {p : Nat} {f : Port → Port}
    (hf : ∀ x, portBare (f x) = portBare x := by intro x; rfl) : Discards s (modPort t p f) := by
  refine h.trans ⟨by simp, fun q => ?_⟩
  by_cases hq : q = p
  · rw [hq, getPort_modPort_same, hf]
  · rw [getPort_modPort_other _ _ _ _ hq]

theorem countDiscard {s t : State} (h : Discards s t) {p cause : Nat} : Discards s (countDiscard t p cause) :=
  h.modPort fun x => by split <;> rfl

theorem discardOnly {s t : State} (h : Discards s t) {ds : List (Nat × Nat)} : Discards s (discardOnly t ds) :=
  h.trans (foldl_rel refl trans (fun s _ => (refl s).countDiscard) ds t)

theorem portEnqueue {s t : State} (h : Discards s t) {p c : Nat} {m : List Byte} : Discards s (portEnqueue t p c m) := by
  unfold Machine.portEnqueue
  exact h.modPort

theorem spineOut {s t : State} (h : Discards s t) {q c : Nat} {m : List Byte} : Discards s (spineOut t q c m).1 := by
  unfold Machine.spineOut
  split_ifs
  · exact h.portEnqueue
  · exact h
  · exact h

theorem here {s t : State} (h : Discards s t) {p c : Nat} {m : List Byte} :
    Discards s (Machine.modPort t p (fun q => { q with here := q.here ++ [(c, m)] })) :=
  h.modPort

/-- A fold that carries the discards beside the state. -/
theorem foldl_fst {β γ : Type} {s : State} {g : State × γ → β → State × γ} (hg : ∀ x b, Discards x.1 (g x b).1) (l : List β)
    (x : State × γ) (h : Discards s x.1) : Discards s (l.foldl g x).1 :=
  h.trans (foldl_rel (R := fun x y : State × γ => Discards x.1 y.1) (fun x => refl x.1) trans hg l x)

theorem spineMove {s t : State} (h : Discards s t) {inp : Nat} {inj : Bool} {c bank : Nat} {m : List Byte} :
    Discards s (spineMove t inp inj c bank m).1 := by
  unfold Machine.spineMove
  dsimp only
  split
  · refine iteInduction (motive := fun r : State × List (Nat × Nat) => Discards s r.1) (fun _ => h) fun _ =>
      foldl_fst (fun x q => ?_) _ _ ?_
    · split_ifs
      · exact refl x.1
      · exact (refl x.1).spineOut
      · exact refl x.1
    · dsimp only
      split_ifs
      · exact h.here
      · exact h
  · split_ifs
    · exact h.here
    · exact h
    · exact h
    · exact h.spineOut

theorem discardMsg {s t : State} (h : Discards s t) {m : List Byte} {d : Nat × Nat} : Discards s (discardMsg t m d) := by
  unfold Machine.discardMsg
  dsimp only
  split
  · exact (spineMove h.countDiscard.modPort).discardOnly
  · exact h.countDiscard

end Discards

section
variable {F : List Fld} {s t : State}

@[simp] theorem touches_discardMsg {m : List Byte} {d : Nat × Nat} (hF : .ports ∈ F) :
    Touches F s (discardMsg t m d) ↔ Touches F s t :=
  Touches.iff_of (Discards.refl t).discardMsg.frame (by simpa using hF)

@[simp] theorem touches_portDrain {p : Nat} (hF : .ports ∈ F) : Touches F s (portDrain t p) ↔ Touches F s t := by
  simp [portDrain, hF]

@[simp] theorem touches_unblock {p : Nat} (hF : .start ∈ F) : Touches F s (unblock t p) ↔ Touches F s t := by
  simp [unblock, hF]

@[simp] theorem touches_lightRequest (hF : .pins ∈ F) : Touches F s (lightRequest t) ↔ Touches F s t := by
  simp [lightRequest, hF]

@[simp] theorem touches_joinLost {p : Nat} (hF : [.ports, .link] ⊆ F) : Touches F s (joinLost t p) ↔ Touches F s t :=
  Touches.iff_of (by simp [joinLost]) hF

@[simp] theorem touches_portRetrain {p exit st : Nat} (hF : [.ports, .link, .start, .inbox] ⊆ F) :
    Touches F s (portRetrain t p exit st) ↔ Touches F s t :=
  Touches.iff_of (by simp [portRetrain]) hF

@[simp] theorem touches_portEnable {p : Nat} {en : Bool} (hF : [.ports, .link, .start, .inbox, .pins, .power] ⊆ F) :
    Touches F s (portEnable t p en) ↔ Touches F s t :=
  Touches.iff_of (by simp [portEnable]) hF

end

@[simp] theorem getPort_unblock (s : State) (p q : Nat) : getPort (unblock s p) q = getPort s q := rfl

@[simp] theorem getPort_lightRequest (s : State) (q : Nat) : getPort (lightRequest s) q = getPort s q := rfl

section
variable {p q : Nat} (h : q ≠ p)
include h

theorem portBare_portDrain (s : State) : portBare (getPort (portDrain s p) q) = portBare (getPort s q) := by
  unfold portDrain
  rw [foldl_keeps (π := fun s => portBare (getPort s q)) (fun s m => (Discards.refl s).discardMsg.bare q),
    getPort_modPort_other _ _ _ _ h]

theorem getPort_joinLost_other (s : State) : getPort (joinLost s p) q = getPort s q := by
  unfold joinLost
  split
  · rw [getPort_modPort_other _ _ _ _ h, getPort_modLink]
  · rfl

theorem portBare_portRetrain (s : State) (exit st : Nat) : portBare (getPort (portRetrain s p exit st) q) = portBare (getPort s q) := by
  unfold portRetrain
  simp only [getPort_modPort_other _ _ _ _ h, getPort_joinLost_other h]
  split_ifs <;> simp [getPort_modPort_other _ _ _ _ h, portBare_portDrain h]

/-- Turning a port off changes no other port but for the messages that this discards. -/
theorem portBare_portEnable_off (s : State) : portBare (getPort (portEnable s p false) q) = portBare (getPort s q) := by
  unfold portEnable
  simp only [Bool.false_and, Bool.false_eq_true, if_false]
  split_ifs <;> simp [getPort_modPort_other _ _ _ _ h, portBare_portRetrain h]

end

theorem getPort_portEnable_off_st (s : State) (p : Nat) : (getPort (portEnable s p false) p).st = 0 := by
  unfold portEnable
  simp only [Bool.false_and, Bool.false_eq_true, if_false]
  split_ifs <;> simp

/-! ## The rows -/

theorem domOn_onlyAlwaysOn (s : State) (d : Nat) : domOn (onlyAlwaysOn s) d = (d == 92) := by
  rw [onlyAlwaysOn, domOn_setDom_on]
  exact Bool.or_false _

/-- What MRST_N leaves of a start or of the work (R498). -/
def mrstLow (s : State) : State :=
  let s1 := onlyAlwaysOn { s with pins := { s.pins with mrstN := false } }
  { s1 with start := { s1.start with phase := 1 } }

theorem exec_mrstNAssert {s : State} (hmrst : s.pins.mrstN = true) (htrip : s.pins.thermtripN = true) (hphase : s.start.phase ≠ 0) :
    exec .mrstNAssert s = .next (mrstLow s) :=
  (if_neg (by simp [hmrst])).trans (if_neg (by simp [htrip, hphase]))

/-- What a thermal trip leaves, before the loss of the module is recorded (R474). -/
def tripped (s : State) : State :=
  let u := onlyAlwaysOn s
  { u with
    pins := { u.pins with thermtripN := false, thermLatched := true }
    start := { u.start with runSlot := s.start.runSlot }
    reeve := { s.reeve with computeReset := false, ops := [], changes := [], cycleReq := true } }

theorem exec_thermalTrip {s : State} (hon : domOn s 92 = true) (htrip : s.pins.thermLatched = false) :
    exec .thermalTrip s = .next (if s.start.runSlot == 0 then tripped s
      else sendEvent (tripped s) { code := 0x0193, bell := s.clk.bell, cc := s.clk.intvCc }) :=
  if_neg (by simp [hon, htrip])

theorem moduleLost_frame (s : State) : Touches [.parts, .tiles, .hst, .due] s (moduleLost s) := by simp

theorem st_of_portBare {a b : Port} (h : portBare a = portBare b) : a.st = b.st := (congrArg Port.st h :)

theorem fenced_of_portBare {a b : Port} (h : portBare a = portBare b) : a.fenced = b.fenced := (congrArg Port.fenced h :)

/-- Turning every port off leaves each of them Off. -/
theorem portsOff_st {s : State} {p : Nat} (hp : p < 32) :
    (getPort ((upto 0 portCount).foldl (fun s p => portEnable s p false) s) p).st = 0 := by
  refine foldl_establishes (P := fun p s => (getPort s p).st = 0) (fun s p => getPort_portEnable_off_st s p)
    (fun s p q hq => ?_) _ s p (by simpa [portCount] using hp)
  by_cases h : q = p
  · rw [h, getPort_portEnable_off_st]
  · rw [st_of_portBare (portBare_portEnable_off h s), hq]

theorem requestCycle_frame (s : State) :
    Touches [.pins, .pages, .inbox, .ops, .changes, .reeve] s (requestCycle s) := by
  simp [requestCycle]

/-- A failure of the spine leaves every port Off: the module's loss and its record change no port. -/
theorem getPort_spineFailure_st {s : State} {p : Nat} (hp : p < 32) : (getPort (spineFailure s) p).st = 0 := by
  rw [spineFailure, (requestCycle_frame _).getPort, (moduleLost_frame _).getPort, getPort_setDom, portsOff_st hp]

theorem domOn_spineFailure (s : State) : domOn (spineFailure s) 95 = false := by
  rw [spineFailure, (requestCycle_frame _).domOn, (moduleLost_frame _).domOn, domOn_setDom_same]
  rfl

/-- The domains of a lost stack are off. -/
theorem domOn_two_off (s : State) (a b : Nat) :
    domOn (setDom (setDom s a .off) b .off) a = false ∧ domOn (setDom (setDom s a .off) b .off) b = false := by
  by_cases h : a = b <;> simp [h, domOn_setDom_other]

theorem fenced_portFence_same (s : State) (p : Nat) : (getPort (portFence s p) p).fenced = true := by
  simp [portFence]

theorem fenced_portFence_other {s : State} {p q : Nat} (h : q ≠ p) :
    (getPort (portFence s p) q).fenced = (getPort s q).fenced := by
  have hops : Touches [.ops, .pages, .due] s (opsCancel s [6] (2 ^ (32 + p))) := by simp
  rw [portFence, getPort_modPort_other _ _ _ _ h, fenced_of_portBare (portBare_portEnable_off h _), hops.getPort]

/-- Settles O9: what each row takes is what `onlyAlwaysOn`, `unpower`, a lost stack, a failed spine and a fenced pair leave. -/
theorem powerLoss : Obligations.PowerLoss := by
  refine ⟨fun s hmrst htrip hphase => ⟨_, exec_mrstNAssert hmrst htrip hphase, rfl, rfl, rfl, domOn_onlyAlwaysOn _, rfl, rfl, rfl, rfl,
      rfl, rfl, rfl, rfl, rfl, rfl, rfl⟩,
    fun s hon htrip => ?trip,
    fun s => ⟨_, rfl, fun _ => rfl, fun _ => rfl, rfl, rfl, rfl, rfl, rfl, rfl, rfl, rfl, rfl, rfl, rfl⟩,
    fun s k hk => ⟨_, if_neg (not_not.mpr hk), if_neg (not_not.mpr hk), ?stack⟩,
    fun s k => ⟨_, rfl, rfl, ?spine⟩,
    fun s k hk => ⟨_, if_neg (not_not.mpr hk), ?pair⟩⟩
  case trip =>
    have hdom : ∀ d, domOn (tripped s) d = (d == 92) := domOn_onlyAlwaysOn s
    refine ⟨_, exec_thermalTrip hon htrip, ?_⟩
    split
    · exact ⟨rfl, rfl, hdom, rfl, rfl, rfl, rfl, rfl, rfl, rfl⟩
    · exact ⟨rfl, rfl, hdom, rfl, rfl, rfl, rfl, rfl, rfl, rfl⟩
  case stack =>
    obtain ⟨hmill, hd2d⟩ := domOn_two_off (stackLost s k) (60 + k) (68 + k)
    have hframe := withHealth_frame s (setDom (setDom (stackLost s k) (60 + k) .off) (68 + k) .off)
    rw [hframe.domOn, hframe.domOn, hframe.getStack]
    exact ⟨hmill, hd2d, stackGone_stackLost s k⟩
  case spine =>
    have hframe := withHealth_frame s (spineFailure s)
    have hcycle : (reeveRest (withHealth s (spineFailure s)).reeve).cycleReq = true := by rw [hframe.reeve]; rfl
    rw [hframe.pins, hframe.domOn]
    refine ⟨rfl, rfl, hcycle, domOn_spineFailure s, fun p hp => ?_⟩
    rw [hframe.getPort, getPort_spineFailure_st hp]
  case pair =>
    have hframe := withHealth_frame s (pairFence s k)
    rw [hframe.getPort, hframe.getPort, pairFence, fenced_portFence_other (by omega)]
    exact ⟨fenced_portFence_same s k, fenced_portFence_same _ _⟩

end Sys2Proof.Machine
end

section
/-! SUPPORT. The phases of a start (Table 16.1) and the module's readiness (R454): what each phase's end leaves of the start record, the
pins and the power domains. -/

-- One proof after another: threads that wait for each other count against the memory of the check.
set_option Elab.async false

namespace Sys2Proof.Machine

/-! ## Phase 0x01 -/

theorem lossEmit_frame (s : State) :
    Touches [.pages, .inbox, .ops, .changes, .reeve, .due, .side] s (lossEmit s) := by
  unfold lossEmit
  split
  · exact Touches.refl _ _
  · dsimp only
    split <;> simp [sideQueue]

theorem exec_phaseOne {ms : Nat} {flashOk : Bool} {ucie : List (Nat × Nat × Option Nat)} {found : List TileFound}
    {sense : List (Nat × Nat)} {rows : List (Nat × Nat × Bool)} {s : State} (hphase : s.start.phase = 1) (hmrst : s.pins.mrstN = true) :
    exec (.startPhaseComplete ms flashOk ucie found sense rows) s = .next (endAlwaysOn (startTime s ms)) := by
  change execStartPhaseComplete ms flashOk ucie found sense rows s = _
  simp [execStartPhaseComplete, hphase, hmrst]

/-- With a slot to run, phase 0x01 leaves it running in phase 0x02. -/
theorem endAlwaysOn_of_slot {s : State} (hslot : bootSlot s ≠ 0) (hlife : s.start.lifeCycle ≠ .scrapped) :
    (endAlwaysOn s).start.phase = 2 ∧ (endAlwaysOn s).start.runSlot = bootSlot s
      ∧ (endAlwaysOn s).pins = { s.pins with pwrgd := true } ∧ domOn (endAlwaysOn s) 92 = true := by
  have hruns : ¬ ((bootSlot s == 0 || s.start.lifeCycle == .scrapped) = true) := by simp [hslot, hlife]
  rw [endAlwaysOn, if_neg hruns, (lossEmit_frame _).start, (lossEmit_frame _).pins, (lossEmit_frame _).domOn]
  exact ⟨rfl, rfl, rfl, domOn_setDom_same { s with pins := { s.pins with pwrgd := true } } 92 .on⟩

/-- With no slot to run, or a scrapped part, phase 0x01 ends in phase 0x0F. -/
theorem endAlwaysOn_of_no_slot {s : State} (h : bootSlot s = 0 ∨ s.start.lifeCycle = .scrapped) :
    (endAlwaysOn s).start.phase = 0x0F
      ∧ (endAlwaysOn s).pins = { s.pins with pwrgd := true, alertN := false, alertLatched := true } := by
  have hstops : (bootSlot s == 0 || s.start.lifeCycle == .scrapped) = true := by simpa using h
  rw [endAlwaysOn, if_pos hstops]
  exact ⟨rfl, rfl⟩

/-! ## Phases 0x02 to 0x06 -/

theorem clkLock_frame (s : State) : Touches [.link] s (clkLock s) := by
  unfold clkLock
  split
  · simp
  · split <;> simp

theorem loadSettings_frame (s : State) : Touches [.link, .start, .ports] s (loadSettings s) := by
  simp [loadSettings]
  simp [touches_iff]

theorem endLinks_phase (s : State) : (endLinks s).start.phase = 3 := by
  rw [endLinks, (clkLock_frame _).start]
  rfl

/-- The domains of phase 0x02: spine, bell and host side, and the pairs with an enabled port. -/
def linkDomains (s : State) : State :=
  (upto 0 16).foldl (fun s k => setDom s (76 + k) (if (getPort s k).en || (getPort s (16 + k)).en then .on else .off))
    (loadSettings (setDom (setDom (setDom s 93 .on) 94 .on) 95 .on))

theorem endLinks_frame (s : State) : Touches [.ports, .start, .hst, .due, .pins, .link] (linkDomains s) (endLinks s) := by
  have hupdate : ∀ (t : State) (a : Start) (b : Hst),
      Touches [.start, .hst, .due] t { t with start := a, hst := b } := fun t a b => by simp [touches_iff]
  simp [endLinks, linkDomains, Touches.iff_of (clkLock_frame _), Touches.iff_of (hupdate _ _ _)]

/-- Phase 0x02 leaves spine, bell and host side powered: the port pairs' domains are others. -/
theorem domOn_endLinks {s : State} {d : Nat} (hd : d = 93 ∨ d = 94 ∨ d = 95) : domOn (endLinks s) d = true := by
  rw [(endLinks_frame s).domOn, linkDomains, foldl_keeps_of_mem (π := fun s => domOn s d), (loadSettings_frame _).domOn]
  · obtain rfl | rfl | rfl := hd <;> simp [domOn_setDom_on]
  · intro t k hk
    have hk : k < 16 := by simpa using hk
    exact domOn_setDom_other _ _ _ _ (by omega)

/-- The compute domains set on are on. -/
theorem domOn_computeDomains {s : State} {d : Nat} (hd : d < 76) : domOn (computeDomains s .on) d = true :=
  foldl_establishes (P := fun d s => domOn s d = true) (fun s d => by simp) (fun s a d h => by simp [domOn_setDom_on, h])
    _ s d (by simpa using hd)

@[simp] theorem touches_ledgerAdd {F : List Fld} {s t : State} {kind flags source loc detail : Nat} (hF : .start ∈ F) :
    Touches F s (ledgerAdd t kind flags source loc detail).2 ↔ Touches F s t := by
  simp [ledgerAdd, hF]

theorem endCompute_frame (ucie : List (Nat × Nat × Option Nat)) (s : State) :
    Touches [.start, .mems] (computeDomains s .on) (endCompute ucie s) := by
  unfold endCompute
  simp only [touches_with_start (F := [.start, .mems]) (by simp)]
  refine (touches_foldl fun s u => ?_).mpr (by simp)
  split
  · exact Touches.refl _ _
  · split <;> simp

/-- Burning entries into the fuses changes the ledger and the fuses alone. -/
theorem ledgerBurn_phase (t : Start) : (ledgerBurn t).phase = t.phase :=
  foldl_keeps (π := Start.phase) (fun t e => by split_ifs <;> rfl) _ t

theorem endMemTest_result (rows : List (Nat × Nat × Bool)) (ms : Nat) (s : State) :
    (endMemTest rows ms s).start.phase = 7 ∧ (endMemTest rows ms s).bolts = [] ∧ (endMemTest rows ms s).start.memMs = ms :=
  ⟨rfl, rfl, rfl⟩

/-- Each of phases 0x02 to 0x06 ends in the one after it. -/
theorem exec_phaseEnds {ms : Nat} {flashOk : Bool} {ucie : List (Nat × Nat × Option Nat)} {found : List TileFound}
    {sense : List (Nat × Nat)} {rows : List (Nat × Nat × Bool)} {s : State} (hlo : 2 ≤ s.start.phase) (hhi : s.start.phase ≤ 6) :
    ∃ t, exec (.startPhaseComplete ms flashOk ucie found sense rows) s = .next t ∧ t.start.phase = s.start.phase + 1
      ∧ (s.start.phase = 2 → domOn t 93 = true ∧ domOn t 94 = true ∧ domOn t 95 = true)
      ∧ (s.start.phase = 3 → ∀ d, d < 76 → domOn t d = true) ∧ (s.start.phase = 6 → t.bolts = [] ∧ t.start.memMs = ms) := by
  have hrun : exec (.startPhaseComplete ms flashOk ucie found sense rows) s
      = execStartPhaseComplete ms flashOk ucie found sense rows s := rfl
  obtain h | h | h | h | h : s.start.phase = 2 ∨ s.start.phase = 3 ∨ s.start.phase = 4 ∨ s.start.phase = 5 ∨ s.start.phase = 6 := by
    omega
  all_goals simp only [hrun, execStartPhaseComplete, h]
  · exact ⟨_, rfl, endLinks_phase _, fun _ => ⟨domOn_endLinks (by simp), domOn_endLinks (by simp), domOn_endLinks (by simp)⟩,
      by simp, by simp⟩
  · have hframe := withHealth_frame s (endCompute ucie (startTime s ms))
    refine ⟨_, rfl, by rw [hframe.start]; rfl, by simp, fun _ d hd => ?_, by simp⟩
    rw [hframe.domOn, (endCompute_frame _ _).domOn, domOn_computeDomains hd]
  · have hframe := withHealth_frame s (endLedger flashOk (startTime s ms))
    exact ⟨_, rfl, by rw [hframe.start]; exact ledgerBurn_phase _, by simp, by simp, by simp⟩
  · have hframe := withHealth_frame s (endTileTest found sense (startTime s ms))
    exact ⟨_, rfl, by rw [hframe.start]; rfl, by simp, by simp, by simp⟩
  · have hframe := withHealth_frame s (endMemTest rows ms (startTime s ms))
    refine ⟨_, rfl, by rw [hframe.start]; rfl, by simp, by simp, fun _ => ?_⟩
    rw [hframe.bolts, hframe.start]
    exact ⟨rfl, rfl⟩

/-! ## Readiness -/

/-- The report begins with its version and the phase (Table 16.5). -/
theorem fld_phase_readyReport (s : State) : fld (readyReport s) 2 1 = s.start.phase % 256 := by
  have hhead : ∃ rest, readyReport s = slice (toLe 2 1 ++ toLe 1 s.start.phase ++ rest) 0 256 := by
    unfold readyReport
    simp only [List.append_assoc]
    exact ⟨_, rfl⟩
  obtain ⟨rest, hrest⟩ := hhead
  rw [hrest]
  simp [fld, slice, toLe, leNat]

/-- The module made ready, before its report is written (R454). -/
def readied (ms : Nat) (s : State) : State :=
  let s1 := startTime s ms
  let s2 := { s1 with start := { s1.start with
    phase := 8, ready := true, readyMs := s1.start.ms, secCounter := secAdvance s1.start, cutShort := false } }
  { s2 with start := { s2.start with rows := spareRows.map (spareByte s2) } }

theorem exec_moduleReady {ms : Nat} {s : State} (hphase : s.start.phase = 7) (hdone : s.start.linkDone = true) (hslot : s.start.runSlot ≠ 0)
    (hraw : s.start.lifeCycle ≠ .raw) (hscrap : s.start.lifeCycle ≠ .scrapped) (hid : s.link.modId ≠ 0x1FFFF) :
    exec (.moduleReady ms) s = .next (withHealth s
      { readied ms s with start := { (readied ms s).start with report := readyReport (readied ms s) } }) :=
  if_neg (by simp [hphase, hdone, hslot, hraw, hscrap, hid])

/-- Settles O10: each phase by the operation that ends it, and the report by its first bytes. -/
theorem startPhasesInOrder : Obligations.StartPhasesInOrder := by
  intro ms flashOk ucie found sense rows s
  refine ⟨fun hphase hmrst hslot hlife => ⟨_, exec_phaseOne hphase hmrst, endAlwaysOn_of_slot (s := startTime s ms) hslot hlife⟩,
    fun hphase hmrst hstop => ⟨_, exec_phaseOne hphase hmrst, endAlwaysOn_of_no_slot (s := startTime s ms) hstop⟩,
    exec_phaseEnds, fun hphase hblock hdone => ?link, fun hphase hdone hslot hraw hscrap hid => ?ready⟩
  case link =>
    have hrun : exec (.startPhaseComplete ms flashOk ucie found sense rows) s
        = .next { startTime s ms with start := { (startTime s ms).start with linkDone := true } } := by
      change execStartPhaseComplete ms flashOk ucie found sense rows s = _
      simp [execStartPhaseComplete, hphase, hblock, hdone]
    exact ⟨_, hrun, rfl, rfl, hphase, rfl⟩
  case ready =>
    refine ⟨_, exec_moduleReady hphase hdone hslot hraw hscrap hid, ?_⟩
    have hframe := withHealth_frame s
      { readied ms s with start := { (readied ms s).start with report := readyReport (readied ms s) } }
    rw [hframe.start, hframe.tiles, hframe.mems, hframe.ports, hframe.parts, hframe.clk]
    exact ⟨rfl, rfl, rfl, slice_length _ _ _, fld_phase_readyReport _, rfl, rfl, rfl, rfl, rfl⟩

end Sys2Proof.Machine
end

section
/-! SUPPORT. Keep-alive (R475) of a stack whose VMILL is off while its VD2D is on: entering it leaves VD2D as it is. -/

-- One proof after another: threads that wait for each other count against the memory of the check.
set_option Elab.async false

namespace Sys2Proof.Machine

theorem portKeepAlive_frame (s : State) (p : Nat) : Touches [.ports, .link] s (portKeepAlive s p) := by
  simp [portKeepAlive]

/-- Of stacks whose VMILL is off, keep-alive switches nothing off. -/
theorem retention_of_off (l : List Nat) {s : State} (hoff : ∀ k ∈ l, domOn s (60 + k) = false) :
    l.foldl (fun s k => if domOn s (60 + k) then setDom (setDom s (60 + k) .retention) (68 + k) .off else s) s = s := by
  induction l with
  | nil => rfl
  | cons k l ih =>
    rw [List.foldl_cons, if_neg (by simp [hoff k List.mem_cons_self]), ih fun j hj => hoff j (List.mem_cons_of_mem k hj)]

theorem domOn_with_keepAlive (s : State) (v : Bool) (d : Nat) :
    domOn { s with power := { s.power with keepAlive := v } } d = domOn s d := rfl

/-- A VD2D that is on while every VMILL is off stays on in keep-alive. -/
theorem domOn_keepEnter_of_off {s : State} (hoff : ∀ k < 8, domOn s (60 + k) = false) {d : Nat} (hd : 60 ≤ d) :
    domOn (keepEnter s) d = domOn s d := by
  have hports := foldl_rel (Touches.refl [.ports, .link]) Touches.trans
    (g := fun s p => if portRuns (getPort s p) then portKeepAlive s p else s)
    (fun s p => by simp [Touches.iff_of (portKeepAlive_frame s p)]) (upto 0 portCount) s
  have htiles : ∀ t : State, Touches [.tiles] t (allTiles.foldl (fun s p => modTile s p (fun t => tileLost t s.clk.cycles)) t) :=
    fun t => by simp
  have hrows : ∀ t : State, Touches [.rows] t
      ((upto 0 192).foldl (fun s r => modRow s r (fun q => { q with stop := .idle, mig := none })) t) := fun t => by simp
  rw [keepEnter, domOn_with_keepAlive, (hrows _).domOn, (htiles _).domOn, foldl_keeps_of_mem (π := fun s => domOn s d),
    retention_of_off, hports.domOn]
  · exact fun k hk => (hports.domOn (60 + k)).trans (hoff k (by simpa using hk))
  · intro t e he
    have he : e < 60 := by simpa using he
    exact domOn_setDom_other _ _ _ _ (by omega)

theorem domOn_pldmAnswer (s : State) (code : Nat) (data : List Byte) (d : Nat) : domOn (pldmAnswer s code data) d = domOn s d := rfl

theorem exec_keepEnter {found : List TileFound} {s : State} (hside : sideServes s = true) (hready : s.start.ready = true)
    (hkeep : s.power.keepAlive = false) (hidle : keepBusy s = false) :
    exec (.pldmSetPowerState 2 found) s = .next (withHealth s (pldmAnswer (keepEnter s) 0 [])) := by
  change execPldmSetPowerState 2 found s = _
  simp [execPldmSetPowerState, hside, hready, hkeep, hidle]

/-- A module at work whose first stack has its VMILL off and its VD2D on. -/
def vd2dAlone : State :=
  { power := { domains := [(68, .on), (92, .on)] }, start := { ready := true, runSlot := 1 }, side := { dynAddr := some 8 } }

/-- Refutes O11: a module at work whose first stack has its VMILL off and its VD2D on enters keep-alive with that VD2D, domain 68,
still on. -/
theorem not_powerSampleAndKeepAlive : ¬ Obligations.PowerSampleAndKeepAlive := by
  rintro ⟨-, h⟩
  obtain ⟨-, -, h⟩ := h [] 2 vd2dAlone
  obtain ⟨-, henter, -⟩ := h rfl rfl
  obtain ⟨t, hrun, -, hoff, -⟩ := henter rfl rfl
  rw [exec_keepEnter rfl rfl rfl rfl, Host.Outcome.next.injEq] at hrun
  subst hrun
  have hoff68 := hoff 68 (by decide)
  have hvd2d : domOn vd2dAlone 68 = true := by decide
  rw [(withHealth_frame _ _).domOn, domOn_pldmAnswer, domOn_keepEnter_of_off (by decide) (by decide), hvd2d] at hoff68
  cases hoff68

end Sys2Proof.Machine
end

section
/-! SUPPORT. Slow notices (R472, R473): what sending one leaves on each port, and its place among those pending. -/

-- One proof after another: threads that wait for each other count against the memory of the check.
set_option Elab.async false

namespace Sys2Proof.Machine

/-! ## A fold over units, unit by unit -/

theorem nodup_upto (a n : Nat) : (upto a n).Nodup := by
  induction n generalizing a with
  | zero => exact List.nodup_nil
  | succ n ih => exact List.nodup_cons.mpr ⟨by simp, ih (a + 1)⟩

/-- In a fold of operations each on a port of its own, a port is left as its own operation leaves it. -/
theorem getPort_foldl {g : State → Nat → State} (hframe : ∀ s p, Touches [.ports] s (g s p))
    (hother : ∀ s p q, q ≠ p → getPort (g s p) q = getPort s q) {l : List Nat} (hnd : l.Nodup) {p : Nat} (hp : p ∈ l) (s : State) :
    ∃ s', Touches [.ports] s s' ∧ getPort s' p = getPort s p ∧ getPort (l.foldl g s) p = getPort (g s' p) p := by
  obtain ⟨before, after, rfl⟩ := List.append_of_mem hp
  obtain ⟨-, hafter, hdisj⟩ := List.nodup_append.mp hnd
  obtain ⟨hnot, -⟩ := List.nodup_cons.mp hafter
  have hkeep : ∀ (l : List Nat) s, p ∉ l → getPort (l.foldl g s) p = getPort s p := fun l s hl =>
    foldl_keeps_of_mem (π := fun s => getPort s p) l (fun s b hb => hother s b p fun h => hl (h ▸ hb)) s
  refine ⟨before.foldl g s, foldl_rel (Touches.refl _) Touches.trans hframe before s, hkeep before s ?_, ?_⟩
  · exact fun h => hdisj p h p List.mem_cons_self rfl
  · rw [List.foldl_append, List.foldl_cons, hkeep after _ hnot]

/-! ## Sending a notice -/

/-- A port that a notice goes out on: Up, following bells, and not the one it came from. -/
def noticeOut (s : State) (but : Option Nat) (p : Nat) : Bool := portUp (getPort s p) && (getPort s p).followOn && but != some p

/-- A notice's turn at a port. -/
def noticeAt (n : Notice) (but : Option Nat) (s : State) (p : Nat) : State :=
  if noticeOut s but p then portEnqueue s p 3 (reeveMsg s p (noticePay n)) else s

theorem noticeSend_eq (s : State) (n : Notice) (but : Option Nat) : noticeSend s n but = (upto 0 portCount).foldl (noticeAt n but) s := rfl

theorem noticeAt_frame (n : Notice) (but : Option Nat) (s : State) (p : Nat) : Touches [.ports] s (noticeAt n but s p) := by
  simp [noticeAt, portEnqueue]

theorem getPort_noticeAt_other (n : Notice) (but : Option Nat) (s : State) (p q : Nat) (h : q ≠ p) :
    getPort (noticeAt n but s p) q = getPort s q := by
  unfold noticeAt
  split
  · exact getPort_modPort_other _ _ _ _ h
  · rfl

theorem noticeSend_frame (s : State) (n : Notice) (but : Option Nat) : Touches [.ports] s (noticeSend s n but) :=
  foldl_rel (Touches.refl _) Touches.trans (noticeAt_frame n but) _ s

/-- A Reeve message is made of the port's peer, the module's number and its bell. -/
theorem reeveMsg_congr {s t : State} (h : Touches [.ports] s t) {p : Nat} (hp : getPort t p = getPort s p) (pay : List Byte) :
    reeveMsg t p pay = reeveMsg s p pay := by
  simp only [reeveMsg, hp, h.link, h.clk]

/-- A notice stands behind what waits on each port that it goes out on. -/
theorem txQ_noticeSend {s : State} {n : Notice} {but : Option Nat} {p : Nat} (hp : p < 32) (hout : noticeOut s but p = true) :
    kvGet [] (getPort (noticeSend s n but) p).txQ 3 = kvGet [] (getPort s p).txQ 3 ++ [reeveMsg s p (noticePay n)] := by
  obtain ⟨t, hframe, hsame, hport⟩ := getPort_foldl (noticeAt_frame n but) (getPort_noticeAt_other n but) (nodup_upto 0 portCount)
    (p := p) (by simpa [portCount] using hp) s
  have hout' : noticeOut t but p = true := by rw [noticeOut, hsame]; exact hout
  rw [noticeSend_eq, hport, noticeAt, if_pos hout', portEnqueue, getPort_modPort_same, hsame, reeveMsg_congr hframe hsame]
  simp

theorem getPort_noticeSend {s : State} {n : Notice} {but : Option Nat} {p : Nat} (hp : p < 32) (hout : noticeOut s but p = false) :
    getPort (noticeSend s n but) p = getPort s p := by
  obtain ⟨t, hframe, hsame, hport⟩ := getPort_foldl (noticeAt_frame n but) (getPort_noticeAt_other n but) (nodup_upto 0 portCount)
    (p := p) (by simpa [portCount] using hp) s
  have hout' : ¬ noticeOut t but p = true := by rw [noticeOut, hsame]; simpa [noticeOut] using hout
  rw [noticeSend_eq, hport, noticeAt, if_neg hout', hsame]

/-! ## Announcing a step -/

/-- The notice with which a step is announced. -/
def stepNotice (s : State) (v : Nat) : Notice :=
  { origin := s.link.modId % 2 ^ 17, seq := s.clk.noticeSeq + 1, step := v, target := noticeTarget s }

/-- The module with a notice of its own recorded. -/
def noticed (s : State) (n : Notice) : State :=
  modClk s (fun c => { c with
    notices := c.notices ++ [n], noticeSeq := c.noticeSeq + 1, seqs := kvSet 0 c.seqs n.origin (n.seq + 1) })

theorem stepAnnounce_eq (s : State) (v : Nat) : stepAnnounce s v = noticeSend (noticed s (stepNotice s v)) (stepNotice s v) none := rfl

/-- A notice is in force at a later bell. -/
theorem bell_lt_noticeTarget (s : State) : s.clk.bell < noticeTarget s := by
  unfold noticeTarget
  refine foldl_rel (R := fun a b => s.clk.bell < a → s.clk.bell < b) (fun _ => id) (fun h1 h2 => h2 ∘ h1)
    (fun m n h => lt_of_lt_of_le h (le_max_left _ _)) _ _ ?_
  split
  · omega
  · exact lt_of_lt_of_le (Nat.lt_succ_self _) (Nat.le_add_right _ _)

theorem pendStep_congr {s t : State} (h : Touches [.ports] s t) : pendStep t = pendStep s := by
  rw [pendStep, pendStep, ownNotices, ownNotices, h.clk, h.link]

theorem pendStep_noticed (s : State) (v : Nat) : pendStep (noticed s (stepNotice s v)) = v := by
  simp [pendStep, ownNotices, noticed, modClk, stepNotice]

/-- Announcing a step: one notice more, sent on each Up port that follows bells. -/
theorem stepAnnounce_effect (s : State) (v : Nat) :
    stepAnnounce s v = { s with clk := (stepAnnounce s v).clk, ports := (stepAnnounce s v).ports } ∧ pendStep (stepAnnounce s v) = v
      ∧ (stepAnnounce s v).clk.noticeSeq = s.clk.noticeSeq + 1 ∧ (stepAnnounce s v).clk.step = s.clk.step
      ∧ ∃ n : Notice, (stepAnnounce s v).clk.notices = s.clk.notices ++ [n] ∧ n.step = v ∧ n.seq = s.clk.noticeSeq + 1
        ∧ s.clk.bell < n.target ∧ ∀ p, p < 32 →
          (portUp (getPort s p) = true → (getPort s p).followOn = true → kvGet [] (getPort (stepAnnounce s v) p).txQ 3
            = kvGet [] (getPort s p).txQ 3 ++ [reeveMsg s p (noticePay n)])
          ∧ (portUp (getPort s p) = false ∨ (getPort s p).followOn = false → getPort (stepAnnounce s v) p = getPort s p) := by
  have hsend := noticeSend_frame (noticed s (stepNotice s v)) (stepNotice s v) none
  rw [← stepAnnounce_eq] at hsend
  have hframe : Touches [.clk, .ports] s (stepAnnounce s v) :=
    Touches.trans (t := noticed s (stepNotice s v)) (by simp [noticed]) (hsend.mono (by simp))
  refine ⟨hframe.eq_overlay, (pendStep_congr hsend).trans (pendStep_noticed s v), by rw [hsend.clk]; rfl, by rw [hsend.clk]; rfl, stepNotice s v, by rw [hsend.clk]; rfl, rfl, rfl,
    bell_lt_noticeTarget s, fun p hp => ⟨fun hup hfollow => ?_, fun hoff => ?_⟩⟩
  · exact txQ_noticeSend hp (by simpa [noticeOut] using ⟨hup, hfollow⟩)
  · exact getPort_noticeSend hp (by rcases hoff with h | h <;> simp [noticeOut, h])

/-! ## The rows -/

theorem hereFront_frame {s s1 : State} {p kind : Nat} {m : List Byte} (h : hereFront s p kind = some (m, s1)) :
    Touches [.ports] s s1 ∧ ∀ q, q ≠ p → getPort s1 q = getPort s q := by
  obtain ⟨x, -, hx⟩ := Option.map_eq_some_iff.mp h
  obtain rfl := (Prod.mk.inj hx).2
  exact ⟨by simp, fun q hq => getPort_modPort_other _ _ _ _ hq⟩

/-- A foreign notice recorded. -/
def noticeHeard (s : State) (n : Notice) : State :=
  modClk s (fun c => { c with notices := c.notices ++ [n], seqs := kvSet 0 c.seqs n.origin (n.seq + 1) })

/-- The notice that a Reeve message carries (Table 17.7). -/
def noticeOf (m : List Byte) : Notice :=
  { origin := fld (mPay m) 4 4 % 2 ^ 17, seq := fld (mPay m) 0x10 4, step := fld (mPay m) 1 1, target := fld (mPay m) 8 8 % 2 ^ 48 }

/-- A notice is passed on the first time it is heard. -/
theorem exec_slowNoticeReceive {p : Nat} {s s1 : State} {m : List Byte} (hp : p < 32) (hfront : hereFront s p 6 = some (m, s1))
    (hkind : fld (mPay m) 0 1 = 0x21) (hstep : (noticeOf m).step ≤ 4) :
    exec (.slowNoticeReceive p) s = .next (if (noticeOf m).seq < kvGet 0 s.clk.seqs (noticeOf m).origin then s1
      else noticeSend (noticeHeard s1 (noticeOf m)) (noticeOf m) (some p)) := by
  refine (if_neg (not_not.mpr hp)).trans ?_
  rw [hfront]
  refine (if_neg (by simp [hkind])).trans ?_
  by_cases hold : (noticeOf m).seq < kvGet 0 s.clk.seqs (noticeOf m).origin
  · rw [if_pos hold]
    exact if_pos (Bool.or_eq_true_iff.mpr (.inl (decide_eq_true hold)))
  · rw [if_neg hold]
    exact if_neg fun h => (Bool.or_eq_true_iff.mp h).elim (fun h => hold (of_decide_eq_true h))
      fun h => Nat.not_lt.mpr hstep (of_decide_eq_true h)

/-- Settles O12: the rows are `stepAnnounce` and `noticeSend`, which leave on each port what it is to send. -/
theorem emergencyStepsAndSlowNotices : Obligations.EmergencyStepsAndSlowNotices := by
  refine ⟨⟨fun k s hk hkeep => ?steps, fun s t v ht => ht ▸ stepAnnounce_effect s v⟩,
    fun p s s1 m hp hfront hkind hstep => ⟨fun hnew => ?new, fun hold => ?old⟩⟩
  case steps =>
    have hunit : ∀ r : Res, (if ¬ k < 5 then .refused .noSuchUnit else r) = r := fun r => if_neg (not_not.mpr hk)
    refine ⟨fun hphase hpend => (hunit _).trans (if_neg ?_), fun hpend => (hunit _).trans (if_pos ?_),
      fun hforce hown hlast => (hunit _).trans (if_neg ?_), fun hlast => (hunit _).trans (if_pos ?_),
      fun hpend => if_neg ?_, fun hpend => if_pos ?_⟩
    case refine_1 =>
      simp [*]
      omega
    all_goals simp [*]
  case new =>
    obtain ⟨hframe, hother⟩ := hereFront_frame hfront
    have hrun := exec_slowNoticeReceive hp hfront hkind hstep
    have hnew : kvGet 0 s.clk.seqs (noticeOf m).origin ≤ (noticeOf m).seq := hnew
    rw [if_neg (Nat.not_lt.mpr hnew)] at hrun
    generalize hn : noticeOf m = n at hrun
    have hsend := noticeSend_frame (noticeHeard s1 n) n (some p)
    have hall : Touches [.clk, .ports] s (noticeSend (noticeHeard s1 n) n (some p)) :=
      Touches.trans (t := noticeHeard s1 n) (by simpa [noticeHeard] using hframe.mono (by simp)) (hsend.mono (by simp))
    have hclk : (noticeHeard s1 n).clk
        = { s.clk with notices := s.clk.notices ++ [n], seqs := kvSet 0 s.clk.seqs n.origin (n.seq + 1) } := by
      rw [← hframe.clk]; rfl
    refine ⟨_, n, hrun, hall.eq_overlay, hn.symm, by rw [hsend.clk, hclk], ?_, by rw [hsend.clk, hclk],
      getPort_noticeSend hp (by simp [noticeOut]), fun q hq hqp hup hfollow => ?_⟩
    · rw [hsend.clk, hclk, ← hn]
      exact kvGet_kvSet_same 0 s.clk.seqs (noticeOf m).origin ((noticeOf m).seq + 1)
    · have hport : getPort (noticeHeard s1 n) q = getPort s q := hother q hqp
      have hmsg : reeveMsg (noticeHeard s1 n) q (noticePay n) = reeveMsg s q (noticePay n) :=
        reeveMsg_congr hframe (hother q hqp) _
      rw [txQ_noticeSend hq (by simpa [noticeOut, hport, hup, hfollow] using fun h => hqp h.symm), hport, hmsg]
  case old =>
    have hold : (noticeOf m).seq < kvGet 0 s.clk.seqs (noticeOf m).origin := hold
    rw [exec_slowNoticeReceive hp hfront hkind hstep, if_pos hold]

end Sys2Proof.Machine
end

section
/-! SUPPORT. The rows of an interval's end: guard, expected time, switch window and hold samples (R39, R45, R46, R58, R405). -/

-- One proof after another: threads that wait for each other count against the memory of the check.
set_option Elab.async false

namespace Sys2Proof.Machine

section
variable {F : List Fld} {s t : State}

/-! ## Footprints -/

@[simp] theorem touches_failLots {n code bell cc : Nat} (hF : .parts ∈ F) : Touches F s (failLots t n code bell cc) ↔ Touches F s t := by
  simp [failLots, hF]

theorem reviseEvent_frame (s : State) (e : Event) : Touches [.inbox] s (reviseEvent s e) := by
  unfold reviseEvent
  dsimp only
  split <;> simp [touches_iff, sendEvent, reeveRest]

/-- A tile's reports change the tile, and what its partition and the Reeve hold. -/
@[simp] theorem touches_applySigs {p : Nat} {sigs : List Sig} (hF : [.tiles, .inbox, .parts] ⊆ F) :
    Touches F s (applySigs t p sigs) ↔ Touches F s t := by
  refine Touches.iff_of ?_ hF
  fun_induction applySigs t p sigs
  case case1 => exact Touches.refl _ _
  all_goals
    refine Touches.trans ?_ ‹Touches _ _ (applySigs _ _ _)›
    simp [Touches.iff_of (reviseEvent_frame _ _)]

@[simp] theorem touches_windowCopy {k p : Nat} (hF : [.tiles, .inbox, .parts] ⊆ F) :
    Touches F s (windowCopy t k p) ↔ Touches F s t :=
  Touches.iff_of (by simp [windowCopy]) hF

end

/-! ## Switches evaluated -/

/-- A change with its evaluation (R58, R79). -/
def evaluatedChange (s : State) (c : Change) : Change :=
  let peers := if domainKind c.kind then
      (s.link.votes.filter (fun v => v.1 == c.target % 2 ^ 48 && !(c.refusers.contains (unitId 5 v.2, 7)))).map (fun v => (unitId 5 v.2, 7))
    else []
  { c with evaluated := true, refusers := c.refusers ++ peers ++ refusersOf s c }

/-- The tiles of an activation whose credits do not match are marked. -/
def creditsMarked (s : State) (c : Change) : State :=
  if c.kind == 0x10 then
    (maskParts c.parts).foldl (fun s n => (creditsBad s n).foldl (fun s p => modTile s p (fun t => { t with loadErr := 7 })) s) s
  else s

theorem changeEval_eq (s : State) (c : Change) : changeEval s c = changePut (creditsMarked s c) (evaluatedChange s c) := rfl

theorem creditsMarked_frame (s : State) (c : Change) : Touches [.tiles] s (creditsMarked s c) := by
  simp [creditsMarked]

theorem changes_changeEval (s : State) (c : Change) :
    (changeEval s c).reeve.changes = s.reeve.changes.map (fun x => if x.id == c.id then evaluatedChange s c else x) :=
  (creditsMarked_frame s c).changes ▸ rfl

/-- The window of a switch copies images, and touches no staged change but the one evaluated. -/
theorem changes_switchOpen (s : State) (c : Change) :
    (switchOpen s c).reeve.changes = s.reeve.changes.map (fun x => if x.id == c.id then evaluatedChange s c else x) := by
  have hframe : ∀ (ns : List Nat) (k : Nat) (t : State), Touches [.tiles, .inbox, .parts] t
      (ns.foldl (fun s n => (scopeTiles s n).foldl (fun s p => windowCopy s k p) s) t) := fun ns k t =>
    (touches_foldl fun s n => (touches_foldl fun s p => by simp).mpr (Touches.refl _ _)).mpr (Touches.refl _ _)
  unfold switchOpen
  dsimp only
  split
  · rw [(hframe _ _ _).changes, changes_changeEval]
  · exact changes_changeEval s c

/-- Of the changes after the windows of a list, one that is not evaluated is as it was, and none of the list. -/
theorem mem_changes_switchesOpen (l : List Change) (s : State) (x : Change) (hx : x ∈ (l.foldl switchOpen s).reeve.changes) :
    x.evaluated = true ∨ x ∈ s.reeve.changes ∧ x ∉ l := by
  induction l generalizing s with
  | nil => exact .inr ⟨hx, List.not_mem_nil⟩
  | cons c l ih =>
    obtain h | ⟨hmem, hnot⟩ := ih _ hx
    · exact .inl h
    · rw [changes_switchOpen] at hmem
      obtain ⟨y, hy, rfl⟩ := List.mem_map.mp hmem
      split
      case isTrue => exact .inl rfl
      case isFalse hid =>
        refine .inr ⟨hy, fun hin => ?_⟩
        obtain rfl | hin := List.mem_cons.mp hin
        · exact hid (beq_self_eq_true _)
        · rw [if_neg hid] at hnot
          exact hnot hin

theorem switchOpen_frame (s : State) (c : Change) :
    Touches [.tiles, .inbox, .parts, .pages, .ops, .changes, .reeve] s (switchOpen s c) := by
  have hframe : ∀ (ns : List Nat) (k : Nat) (t : State), Touches [.tiles, .inbox, .parts] t
      (ns.foldl (fun s n => (scopeTiles s n).foldl (fun s p => windowCopy s k p) s) t) := fun ns k t =>
    (touches_foldl fun s n => (touches_foldl fun s p => by simp).mpr (Touches.refl _ _)).mpr (Touches.refl _ _)
  simp [switchOpen, changeEval_eq, changePut, Touches.iff_of (hframe _ _ _), Touches.iff_of (creditsMarked_frame _ _)]

/-! ## The rows -/

theorem clk_of_bellOf {s : State} {b i c h d : Nat} {g o e : Bool} (hbell : bellOf s = (b, i, c, g, o, h, d, e)) :
    s.clk.bell = b ∧ s.clk.intvCc = i ∧ s.clk.cycles = c ∧ s.clk.guard = g ∧ s.clk.holding = o ∧ s.clk.localHold = h
      ∧ s.clk.expectDelay = d ∧ s.clk.expected = e := by
  simpa [bellOf, coreOf] using hbell

/-- Settles O13: what time and the guard do to the bell's counts is their law; a switch window evaluates each change that is due. -/
theorem guardWindowAndHoldSamples : Obligations.GuardWindowAndHoldSamples := by
  refine ⟨⟨fun s hguard hon => ?guard, fun s hguard hexp hon => ?expected, fun s hguard => ⟨if_pos (by simp [hguard]), if_pos (by simp [hguard])⟩,
    fun s hguard => if_pos (by simp [hguard]), fun fails s hoff => ?off, fun fails s hexp => ?before⟩,
    fun s hguard hdue => ?window, fun s hguard hdue => if_pos (by simp [hdue]), fun s hexp hready hlimit => ?sample⟩
  case guard =>
    obtain ⟨t, hrun⟩ := exec_runs .bellGuardStart s rfl
    obtain ⟨hbell, hintv, hcycles, hg, hhold, -, -, hexp⟩ := clk_of_bellOf (guardStart_bell s t hguard hon hrun)
    exact ⟨t, hrun, hg, hbell, hintv, hcycles, hexp, hhold⟩
  case expected =>
    have hrun : ¬ ((!s.clk.guard || s.clk.expected || !(bellOn s)) = true) := by simp [hguard, hexp, bellOn, hon]
    refine ⟨_, if_neg hrun, rfl, rfl, hguard, rfl, rfl, ?_⟩
    simp [modClk]
  case off =>
    have hoff : bellOn s = false := hoff
    exact ⟨if_pos (by simp [hoff]), if_pos (by simp [hoff]), if_pos (by simp [hoff]), if_pos (by simp [hoff])⟩
  case before =>
    exact ⟨if_pos (by simp [hexp]), if_pos (by simp [hexp]), if_pos (by simp [hexp])⟩
  case window =>
    have hframe := foldl_rel (Touches.refl _) Touches.trans switchOpen_frame (switchesDue (advanceTo s (expectCc s - 3500)))
      (advanceTo s (expectCc s - 3500))
    have hrun : exec .switchWindowOpen s
        = .next ((switchesDue (advanceTo s (expectCc s - 3500))).foldl switchOpen (advanceTo s (expectCc s - 3500))) :=
      if_neg (by simp [hguard, hdue])
    refine ⟨_, hrun, by rw [hframe.clk]; rfl, by rw [hframe.clk]; exact hguard, by rw [hframe.clk]; rfl, fun c hc hopen hkind htarget => ?_⟩
    obtain h | ⟨hmem, hnot⟩ := mem_changes_switchesOpen _ _ c hc
    · exact h
    · by_contra heval
      exact hnot (List.mem_filter.mpr ⟨hmem, by simp [hopen, hkind, heval]; exact htarget⟩)
  case sample =>
    have hrun : exec .watchmanHoldSample s
        = .next (withHealth s (watchTake (advanceTo s (max s.clk.holdSample (expectCc s) + 4096)))) :=
      if_neg (by simp [hexp, hready, waitCc, Nat.not_le.mpr hlimit])
    have hbell := advanceTo_bell s (max s.clk.holdSample (expectCc s) + 4096)
    rw [← watchTake_bell, ← withHealth_bell s] at hbell
    obtain ⟨hbell, hintv, -, -, -, -, -, he⟩ := clk_of_bellOf hbell
    exact ⟨_, hrun, hbell, he.trans hexp, hintv, hrun⟩

end Sys2Proof.Machine
end

section
/-! SUPPORT. The bell's two ends of an interval: a firing (R45, R47), and an overrun with the contexts that it stops (R49, R50). -/

-- One proof after another: threads that wait for each other count against the memory of the check.
set_option Elab.async false

namespace Sys2Proof.Machine

/-- Settles O14: a firing by the law of its counts; what is not ready, or would hold too long, does not fire. -/
theorem bellFiresWhenReady : Obligations.BellFiresWhenReady := by
  intro fails s hexp hon
  refine ⟨fun hready hhold => ?_, fun hready => if_pos (by simp [hready]), fun hlate => if_pos (by simp [hlate])⟩
  obtain ⟨t, hrun, hbell⟩ := execBellFire_bell fails s hexp hon hready hhold
  obtain ⟨hnumber, hintv, hcycles, hguard, hholding, hlocal, hdelay, hexpected⟩ := clk_of_bellOf hbell
  exact ⟨t, hrun, hnumber, hintv, hcycles, hlocal, by omega, hguard, hexpected, hholding, hdelay⟩

/-! ## Overruns -/

/-- The module at its hold limit, as the bell overruns. -/
def overrunAt (s : State) : State :=
  modClk (advanceTo s (expectCc s + holdCc s)) (fun c => { c with localHold := holdCc s, overruns := c.overruns ++ [c.bell] })

/-- The contexts that are late are stopped. -/
def lateStopped (s : State) : State :=
  (parts.filter (overrunCtx s)).foldl (overrunStop (hungNodes (watchSample (overrunAt s))))
    (modClk (overrunAt s) (fun c => { c with watch := watchSample (overrunAt s), holdSample := c.intvCc }))

theorem exec_bellOverrun {fails : List Nat} {s : State} (hexp : s.clk.expected = true) (hon : domOn s 93 = true)
    (hlate : parts.any (overrunCtx s) = true) :
    exec (.bellOverrun fails) s = .next (withHealth s (fireBell fails (lateStopped s))) := by
  have hsome : (parts.filter (overrunCtx s)).isEmpty = false := by
    simpa [List.isEmpty_iff, List.filter_eq_nil_iff] using hlate
  exact if_neg (by simp [hexp, bellOn, hon, hsome])

theorem bellOf_lateStopped (s : State) :
    bellOf (lateStopped s) = (s.clk.bell, max s.clk.intvCc (expectCc s + holdCc s),
      s.clk.cycles + (expectCc s + holdCc s - s.clk.intvCc), s.clk.guard, s.clk.holding, holdCc s, s.clk.expectDelay, s.clk.expected) := by
  rw [lateStopped, foldl_bell _ (overrunStop_bell _)]
  rfl

/-- A late context that no replay runs in: its end is an event, notices to its consumers, and a reset (R49, R50, R405). -/
theorem overrunStop_of_lot (hung : List Nat) {s : State} {n : Nat} (h : replaying s n = false) :
    let code := if hung.any (fun p => physPart p == n) then 0x0025 else 0x0022
    overrunStop hung s n = beginReset (endLots (abortNotices (sendEvent s
      { code := 0x0151, unit := unitId 4 n, part := n, bell := s.clk.bell, cc := s.clk.intvCc, lot := curLot s n, compl := code })
      n s.clk.bell) n code) n 1 code :=
  if_neg (by simp [h])

/-! ## Abort notices -/

theorem mem_abandon (a x : Abandon) (l : List Abandon) : x ∈ (if l.contains a then l else l ++ [a]) ↔ x ∈ l ∨ x = a := by
  split
  case isTrue h =>
    have ha : a ∈ l := by simpa using h
    exact ⟨.inl, fun h => h.elim id fun h => h ▸ ha⟩
  case isFalse => simp

/-- The message at the front of a port's own leaves it. -/
theorem hereFront_taken {s s1 : State} {p kind : Nat} {m : List Byte} (h : hereFront s p kind = some (m, s1)) :
    ∃ x ∈ (getPort s p).here, x.2 = m ∧ mKind m = kind ∧ (getPort s1 p).here = (getPort s p).here.erase x := by
  obtain ⟨x, hfind, hx⟩ := Option.map_eq_some_iff.mp h
  obtain ⟨hm, rfl⟩ := Prod.mk.inj hx
  refine ⟨x, List.mem_of_find?_eq_some hfind, hm, ?_, ?_⟩
  · rw [← hm]
    simpa using List.find?_some hfind
  · rw [getPort_modPort_same]
    unfold hereFree
    split <;> rfl

/-- Settles O15: an overrun by the law of its counts, a stopped context by `overrunStop`, a notice by what it adds to the items
abandoned. -/
theorem overrunAndAbortNotice : Obligations.OverrunAndAbortNotice := by
  refine ⟨⟨fun fails s hexp hon => ⟨fun hlate => ?late, fun hnone => ?none⟩, fun hung s n hlot => ?stop⟩, fun p s s1 m hp hfront => ?notice⟩
  case late =>
    have hbell := fireBell_bell fails (lateStopped s)
    rw [← withHealth_bell s] at hbell
    obtain ⟨hnumber, hintv, hcycles, hguard, hholding, hlocal, -, hexpected⟩ := clk_of_bellOf hbell
    obtain ⟨hb, -, hc, -, -, hl, -, -⟩ := clk_of_bellOf (bellOf_lateStopped s)
    exact ⟨_, overrunAt s, exec_bellOverrun hexp hon hlate, by rw [hnumber, hb], hintv, by rw [hcycles, hc], by rw [hlocal, hl], hguard,
      hexpected, hholding, rfl, rfl⟩
  case none =>
    have hnone : (parts.filter (overrunCtx s)).isEmpty = true := by
      simpa [List.isEmpty_iff, List.filter_eq_nil_iff] using hnone
    exact if_pos (by simp [hnone])
  case stop =>
    refine ⟨_, _, ?_, rfl, rfl, rfl, rfl, overrunStop_of_lot hung hlot⟩
    simp
  case notice =>
    obtain ⟨hframe, hother⟩ := hereFront_frame hfront
    obtain ⟨x, hx, hm, hkind, hhere⟩ := hereFront_taken hfront
    have hrun : exec (.lotAbortNoticeReceive p) s = .next (modLink s1 (fun k => { k with
        abandoned := if k.abandoned.contains ⟨mSrc m, fld m 0x18 8, mKey m, mStamp m⟩ then k.abandoned
          else k.abandoned ++ [⟨mSrc m, fld m 0x18 8, mKey m, mStamp m⟩] })) := by
      refine (if_neg (not_not.mpr hp)).trans ?_
      rw [hfront]
    refine ⟨_, hrun, fun y => ?_, ?_, rfl, hother, x, hx, hm, hkind, hhere⟩
    · rw [← hframe.link]
      exact mem_abandon _ y _
    · rw [hframe.eq_overlay]
      rfl

end Sys2Proof.Machine
end

section
/-! SUPPORT. Where the sequencer stands after a step, against the statement of loads and steps (R62). -/

-- One proof after another: threads that wait for each other count against the memory of the check.
set_option Elab.async false

namespace Sys2Proof.Machine

/-- A step without a counter operation leaves its tile as it is. -/
theorem getTile_ctrOp_none (s : State) (p k : Nat) :
    getTile (modTile s p (fun t => { t with seq := ctrOp t.seq 0 k })) p = getTile s p := getTile_modTile_same _ _ _

/-- A transfer to a step of the program begins in the cycle after the last one of the step it leaves. -/
theorem nextCc_goTo {s : State} {p idx endCc : Nat} (h : idx < seqSteps (getTile s p)) :
    (getTile (goTo s p idx endCc) p).seq.nextCc = endCc + 1 := by
  rw [goTo]
  dsimp only
  rw [if_pos h, getTile_setTile_same]

/-- A module whose tile 0 has a program of one step in bank 0: its section 6 is 8 bytes long. -/
def oneStepState : State :=
  setTile State.reset 0 { store := { ({} : Store) with mem := memWrite [] (bankBase 0 + 0x3C + 48) [8] } }

theorem seqSteps_oneStepState : seqSteps (getTile oneStepState 0) = 1 := by decide

/-- The step word 0 (no unit fired, cond 0, next_t 0, hold 0) at cycle 7 leaves the sequencer at cycle 8. -/
theorem nextCc_stepEnd_oneStepState : (getTile (stepEnd oneStepState 0 0 7) 0).seq.nextCc = 8 := by
  have hlegal : swNextT 0 < seqSteps (getTile (modTile oneStepState 0 (fun t => { t with seq := ctrOp t.seq 0 0 })) 0) := by
    rw [getTile_ctrOp_none, seqSteps_oneStepState]
    decide
  exact nextCc_goTo hlegal

/-- Refutes O17: a step of cond 0 takes its cycle and its hold, so that the next one begins one cycle after `cc + swHold w`. In
`oneStepState` the step word 0 with hold 0 at cycle 7 leaves `nextCc` at 8, and the statement says 7. -/
theorem not_loadsAndStepsRun : ¬ Obligations.LoadsAndStepsRun := by
  rintro ⟨-, -, -, hend⟩
  have hlegal : swNextT 0 < seqSteps (getTile oneStepState 0) := by
    rw [seqSteps_oneStepState]
    decide
  obtain ⟨h0, -, -⟩ := hend oneStepState 0 0 7 rfl hlegal hlegal
  obtain ⟨-, hnext⟩ := h0 rfl
  rw [nextCc_stepEnd_oneStepState] at hnext
  exact absurd hnext (by decide)

end Sys2Proof.Machine
end

section
/-! SUPPORT. What a tile's reports leave of the tile, and the engines' passes (R120 to R206). -/

-- One proof after another: threads that wait for each other count against the memory of the check.
set_option Elab.async false

namespace Sys2Proof.Machine

/-! ## Reports -/

/-- The stops among a tile's reports. -/
def stopsOf (sigs : List Sig) : List (StopCause × Nat) :=
  sigs.filterMap fun x => match x with
    | .stop cause cc => some (cause, cc)
    | _ => none

theorem stopsOf_eq_nil {sigs : List Sig} (h : ∀ cause cc, Sig.stop cause cc ∉ sigs) : stopsOf sigs = [] := by
  rw [stopsOf, List.filterMap_eq_nil_iff]
  intro x hx
  cases x with
  | stop cause cc => exact absurd hx (h cause cc)
  | _ => rfl

theorem failLots_frame (s : State) (n code bell cc : Nat) : Touches [.parts] s (failLots s n code bell cc) := by simp

/-- Reports change of their own tile what the stops among them do. -/
theorem getTile_applySigs_same (s : State) (p : Nat) (sigs : List Sig) :
    getTile (applySigs s p sigs) p = (stopsOf sigs).foldl (fun t x => stopAt t x.1 x.2) (getTile s p) := by
  fun_induction applySigs s p sigs
  case case1 => rfl
  case case2 ih => rw [ih, (failLots_frame _ _ _ _ _).getTile]; rfl
  case case3 ih => rw [ih]; rfl
  case case4 ih => rw [ih, (reviseEvent_frame _ _).getTile]; rfl
  case case5 ih => rw [ih, (failLots_frame _ _ _ _ _).getTile]; rfl
  case case6 ih => rw [ih, getTile_modTile_same]; rfl

theorem getTile_applySigs_other {p q : Nat} (s : State) (sigs : List Sig) (h : q ≠ p) :
    getTile (applySigs s p sigs) q = getTile s q := by
  fun_induction applySigs s p sigs
  case case1 => rfl
  case case2 ih => rw [ih, (failLots_frame _ _ _ _ _).getTile]; rfl
  case case3 ih => rw [ih]; rfl
  case case4 ih => rw [ih, (reviseEvent_frame _ _).getTile]
  case case5 ih => rw [ih, (failLots_frame _ _ _ _ _).getTile]
  case case6 ih => rw [ih, getTile_modTile_other _ _ _ _ h]

/-- A pass and its reports change tiles, what the partitions hold and the Reeve's events. -/
theorem applyCtx_frame (s : State) (c : Ctx) : Touches [.tiles, .inbox, .parts] s (applyCtx s c) := by simp [applyCtx]

theorem getTile_applyCtx_same (s : State) (c : Ctx) :
    getTile (applyCtx s c) c.p = (stopsOf c.sigs).foldl (fun t x => stopAt t x.1 x.2) c.t := by
  rw [applyCtx, getTile_applySigs_same, getTile_setTile_same]

theorem getTile_applyCtx_other {q : Nat} (s : State) (c : Ctx) (h : q ≠ c.p) : getTile (applyCtx s c) q = getTile s q := by
  rw [applyCtx, getTile_applySigs_other _ _ h]
  exact kvGet_kvSet_other _ _ _ _ _ h

/-- A pass that reports no stop leaves its tile as it made it. -/
theorem getTile_applyCtx_unstopped {s : State} {c : Ctx} (h : ∀ cause cc, Sig.stop cause cc ∉ c.sigs) :
    getTile (applyCtx s c) c.p = c.t := by
  rw [getTile_applyCtx_same, stopsOf_eq_nil h]
  rfl

/-! ## The rows of the engines -/

/-- An engine whose oldest work may run runs it. -/
theorem unitRun_of_ready {s : State} {p u : Nat} {ok : Tile → Fired → Bool} {run : Fired → State → State} {f : Fired}
    (hp : p < 4800) (hfired : firstFired (getTile s p) u = some f) (hok : ok (getTile s p) f = true) :
    unitRun s p u ok run = .next (run f s) := by
  refine (if_neg (not_not.mpr hp)).trans ?_
  rw [hfired]
  exact if_pos hok

/-- Does the tap hold the vectors that a reduction was fired with? -/
def tappedFor (t : Tile) (f : Fired) : Bool :=
  match t.fuller.tap with
  | some k => k.step == f.step
  | none => false

/-- A reduction as its row runs it: the cc its last result is ready, and the tile. -/
def reductionPass (ups : List FulUps) (f : Fired) (c : Ctx) : Nat × Ctx :=
  (((reductionRun f ups c).t.fuller.redPend.map (fun q => q.readyCc)).getD f.fireCc, reductionRun f ups c)

theorem exec_reduction (s : State) (p : Nat) (ups : List FulUps) :
    exec (.reduction p ups) s = unitRun s p 4 tappedFor (passRun p 4 (reductionPass ups)) := rfl

/-- Settles O18: each row is `unitRun` of its engine, and a pass without a stop leaves its tile as `finishFired` does. -/
theorem enginePassesRun : Obligations.EnginePassesRun := by
  refine ⟨fun p f s hp => ⟨fun ups accUps hf hr => ?_, fun ups accUps hf hr => ?_, fun accUps hf hr => ?_, fun hf => ?_, fun ups hf hr => ?_,
    fun ups hf hr => ?_, fun hf hr => ?_, fun hf hr => ?_, fun ups hf hin hdraws => ?_, fun ups k hf htap hstep => ?_, fun hf hr => ?_,
    fun hf => ?_⟩, fun p u pass f s hp hstop => ?left⟩
  · exact unitRun_of_ready hp hf hr
  · exact unitRun_of_ready hp hf hr
  · exact unitRun_of_ready hp hf hr
  · exact unitRun_of_ready (ok := fun _ _ => true) hp hf rfl
  · exact unitRun_of_ready hp hf hr
  · exact unitRun_of_ready hp hf hr
  · exact unitRun_of_ready hp hf hr
  · exact unitRun_of_ready hp hf hr
  · exact unitRun_of_ready (ok := fun t f => timePast t (fulLastIn f) && drawsPast t f) hp hf (by simp [hin, hdraws])
  · exact ⟨_, (exec_reduction s p ups).trans (unitRun_of_ready hp hf (by simp [tappedFor, htap, hstep]))⟩
  · exact unitRun_of_ready hp hf hr
  · exact unitRun_of_ready (ok := fun _ _ => true) hp hf rfl
  case left =>
    have htile : getTile (passRun p u pass f s) p = (finishFired (pass f (ctxOf s p)).2 u (pass f (ctxOf s p)).1).t := by
      have h := getTile_applyCtx_unstopped (s := s) (c := finishFired (pass f (ctxOf s p)).2 u (pass f (ctxOf s p)).1) hstop
      rwa [show (finishFired (pass f (ctxOf s p)).2 u (pass f (ctxOf s p)).1).p = p from hp] at h
    rw [htile]
    exact ⟨rfl, le_max_right _ _⟩

end Sys2Proof.Machine
end

section
/-! SUPPORT. Every operation of a pass stays on the tile it began on (R120 to R187). -/

-- One proof after another: threads that wait for each other count against the memory of the check.
set_option Elab.async false

namespace Sys2Proof.Machine

/-! ## Branches and folds -/

@[simp] theorem p_ite {b : Prop} [Decidable b] {x y : Ctx} : (if b then x else y).p = if b then x.p else y.p := by split <;> rfl

@[simp] theorem p_snd_ite {α : Type} {b : Prop} [Decidable b] {x y : α × Ctx} :
    (if b then x else y).2.p = if b then x.2.p else y.2.p := by split <;> rfl

@[simp] theorem p_snd_snd_ite {α β : Type} {b : Prop} [Decidable b] {x y : α × β × Ctx} :
    (if b then x else y).2.2.p = if b then x.2.2.p else y.2.2.p := by split <;> rfl

@[simp] theorem p_snd_snd_snd_ite {α β γ : Type} {b : Prop} [Decidable b] {x y : α × β × γ × Ctx} :
    (if b then x else y).2.2.2.p = if b then x.2.2.2.p else y.2.2.2.p := by split <;> rfl

@[simp] theorem p_foldl {β : Type} {g : Ctx → β → Ctx} {l : List β} {c : Ctx} (h : ∀ c b, (g c b).p = c.p) : (l.foldl g c).p = c.p :=
  foldl_keeps h l c

@[simp] theorem p_foldl_snd {α β : Type} {g : α × Ctx → β → α × Ctx} {l : List β} {x : α × Ctx} (h : ∀ x b, (g x b).2.p = x.2.p) :
    (l.foldl g x).2.p = x.2.p :=
  foldl_keeps (π := fun x => x.2.p) h l x

@[simp] theorem p_foldl_snd_snd {α β γ : Type} {g : α × β × Ctx → γ → α × β × Ctx} {l : List γ} {x : α × β × Ctx}
    (h : ∀ x b, (g x b).2.2.p = x.2.2.p) : (l.foldl g x).2.2.p = x.2.2.p :=
  foldl_keeps (π := fun x => x.2.2.p) h l x

@[simp] theorem p_sim_ite {b : Prop} [Decidable b] {x y : ScSim} : (if b then x else y).c.p = if b then x.c.p else y.c.p := by
  split <;> rfl

@[simp] theorem p_sim_foldl {β : Type} {g : ScSim → β → ScSim} {l : List β} {s : ScSim} (h : ∀ s b, (g s b).c.p = s.c.p) :
    (l.foldl g s).c.p = s.c.p :=
  foldl_keeps (π := fun s => s.c.p) h l s

/-! ## Reports and the store -/

@[simp] theorem p_ctxTile (c : Ctx) (f : Tile → Tile) : (ctxTile c f).p = c.p := rfl
@[simp] theorem p_ctxSig (c : Ctx) (g : Sig) : (ctxSig c g).p = c.p := rfl
@[simp] theorem p_loomMod (c : Ctx) (f : Loom → Loom) : (loomMod c f).p = c.p := rfl
@[simp] theorem p_sparseMod (c : Ctx) (f : Sparse → Sparse) : (sparseMod c f).p = c.p := rfl
@[simp] theorem p_fullerMod (c : Ctx) (f : Fuller → Fuller) : (fullerMod c f).p = c.p := rfl
@[simp] theorem p_ctxViolate (c : Ctx) (cc : Nat) : (ctxViolate c cc).p = c.p := by simp [ctxViolate]
@[simp] theorem p_lineRead (c : Ctx) (port cc line : Nat) : (lineRead c port cc line).2.p = c.p := by simp [lineRead]
@[simp] theorem p_inLineRead (c : Ctx) (port cc a n : Nat) : (inLineRead c port cc a n).2.p = c.p := by
  simp [inLineRead]
@[simp] theorem p_timedRead (c : Ctx) (port cc a n : Nat) : (timedRead c port cc a n).2.p = c.p := by simp [timedRead]
@[simp] theorem p_timedWrite (c : Ctx) (port cc a : Nat) (bs : List Byte) : (timedWrite c port cc a bs).p = c.p := by simp [timedWrite]
@[simp] theorem p_streamRead (c : Ctx) (port cc a n : Nat) : (streamRead c port cc a n).2.p = c.p := by simp [streamRead]
@[simp] theorem p_streamWrite (c : Ctx) (port cc a : Nat) (bs : List Byte) : (streamWrite c port cc a bs).p = c.p := by
  simp [streamWrite]
@[simp] theorem p_nanProduced (c : Ctx) (modes : Word) (unit lane cause step desc cc : Nat) :
    (nanProduced c modes unit lane cause step desc cc).p = c.p := by simp [nanProduced]
@[simp] theorem p_convElem (c : Ctx) (modes : Word) (rnd : Rnd) (fmt : Fmt) (scale : Word) (slot lane unit step desc cc r : Nat) (x : Fl) :
    (convElem c modes rnd fmt scale slot lane unit step desc cc r x).2.p = c.p := by simp [convElem]
@[simp] theorem p_srSettle (f : Fired) (c : Ctx) : (srSettle f c).p = c.p := by simp [srSettle]

/-! ## The loom -/

@[simp] theorem p_checkApply (c : Ctx) (r : Check) (step desc vec cc : Nat) : (checkApply c r step desc vec cc).p = c.p := by
  cases r <;> simp [checkApply]
@[simp] theorem p_accScan (c : Ctx) (cc e : Nat) : (accScan c cc e).p = c.p := by simp [accScan]
@[simp] theorem p_accRead (c : Ctx) (e n : Nat) : (accRead c e n).2.p = c.p := by simp [accRead]
@[simp] theorem p_accWrite (c : Ctx) (e n : Nat) (v : Word) : (accWrite c e n v).p = c.p := rfl
@[simp] theorem p_accUpdate (c : Ctx) (modes : Word) (f : Fired) (accum isInt made : Bool) (e n cc : Nat) (sum : Fl) (flip : Word) :
    (accUpdate c modes f accum isInt made e n cc sum flip).p = c.p := by simp [accUpdate]
@[simp] theorem p_loomVector (f : Fired) (ups : List (Nat × Nat × Word)) (a : List Fl) (i : Nat) (c : Ctx) :
    (loomVector f ups a i c).p = c.p := by simp [loomVector]
@[simp] theorem p_loomReadVec (f : Fired) (i : Nat) (k : LoomCache) (c : Ctx) : (loomReadVec f i k c).2.2.p = c.p := by
  rcases k with _ | ⟨line, cc, bs⟩ <;> simp [loomReadVec]
@[simp] theorem p_drainEntry (f : Fired) (c : Ctx) (j e cc : Nat) : (drainEntry f c j e cc).2.p = c.p := by simp [drainEntry]
@[simp] theorem p_accZero (c : Ctx) (e : Nat) : (accZero c e).p = c.p := rfl
@[simp] theorem p_accEntryPut (cc a : Nat) (pair : Bool) (held : Option (List Byte)) (bs : List Byte) (c : Ctx) :
    (accEntryPut cc a pair held bs c).2.p = c.p := by cases held <;> simp [accEntryPut]
@[simp] theorem p_drainRun (f : Fired) (js : List Nat) (held : Option (List Byte)) (c : Ctx) : (drainRun f js held c).2.p = c.p := by
  induction js generalizing held c with
  | nil => rfl
  | cons j js ih => simp [drainRun, ih]
@[simp] theorem p_loomTake (f : Fired) (ups : List (Nat × Nat × Word)) (r : LoomRun) (i : Nat) : (loomTake f ups r i).c.p = r.c.p := by
  have hdrain : ∀ cc, (loomDrainTo f cc r).c.p = r.c.p := fun cc => p_drainRun ..
  unfold loomTake
  dsimp only
  split <;> simp [hdrain]
@[simp] theorem p_loomPass (f : Fired) (ups : List (Nat × Nat × Word)) (accUps : List (Nat × Nat)) (c : Ctx) :
    (loomPass f ups accUps c).p = c.p := by
  simp only [loomPass, p_srSettle, p_drainRun]
  exact foldl_keeps (π := fun r => r.c.p) (fun r i => p_loomTake f ups r i) _ _

/-! ## The sieve and the spill stream -/

@[simp] theorem p_sieveRead (f a stride cc : Nat) (c : Ctx) : (sieveRead f a stride cc c).2.2.p = c.p := by simp [sieveRead]
@[simp] theorem p_sieveBlocks (f : Fired) (bs : List Nat) (lastRead cc a : Nat) (c : Ctx) :
    (sieveBlocks f bs lastRead cc a c).2.2.p = c.p := by
  induction bs generalizing lastRead cc a c with
  | nil => rfl
  | cons b bs ih => simp [sieveBlocks, ih]
@[simp] theorem p_loomOutAt (cc a : Nat) (bs : List Byte) (c : Ctx) : (loomOutAt cc a bs c).2.p = c.p := by simp [loomOutAt]
@[simp] theorem p_queuedLine (port cc a : Nat) (c : Ctx) : (queuedLine port cc a c).2.p = c.p := p_lineRead ..
@[simp] theorem p_queuedRead (port cc a n : Nat) (c : Ctx) : (queuedRead port cc a n c).2.p = c.p := by simp [queuedRead]
@[simp] theorem p_spillClose (bins : Bool) (cc : Nat) (s : Spill) (c : Ctx) : (spillClose bins cc s c).2.p = c.p := by simp [spillClose]
@[simp] theorem p_spillFlush (bins : Bool) (cc : Nat) (c : Ctx) : (spillFlush bins cc c).2.p = c.p := by
  unfold spillFlush
  split <;> simp
@[simp] theorem p_spillPut (bins : Bool) (cc key : Nat) (vals : List Word) (c : Ctx) : (spillPut bins cc key vals c).2.2.p = c.p := by
  unfold spillPut
  split <;> simp
@[simp] theorem p_addRow (f : Fired) (cc : Nat) (old new : List Word) (c : Ctx) : (addRow f cc old new c).2.p = c.p := by simp [addRow]

@[simp] theorem p_sievePass (f : Fired) (c : Ctx) : (sievePass f c).2.p = c.p := by simp [sievePass]

/-! ## Scatter mode -/

@[simp] theorem p_scAccept (g : ScCfg) (cc b : Nat) (p : ScPart) (c : Ctx) (outAt : Nat) : (scAccept g cc b p c outAt).2.2.p = c.p := by
  unfold scAccept
  split
  · simp
  · split
    · simp
    · split <;> simp
@[simp] theorem p_scBank (g : ScCfg) (cc b : Nat) (s : ScSim) : (scBank g cc b s).c.p = s.c.p := by
  unfold scBank
  split
  · rfl
  · dsimp only
    split
    · rfl
    · split <;> simp
@[simp] theorem p_scRow (g : ScCfg) (block seg m cc : Nat) (ents : List (Nat × Nat)) (c : Ctx) : (scRow g block seg m cc ents c).2.p = c.p := by
  have hchecks : ∀ (c : Ctx) (o : Option (Fl × WSet × Bool × Bool)) (g : Fl × WSet × Bool × Bool → Ctx), (∀ w, (g w).p = c.p) →
      (match o with | none => c | some w => g w).p = c.p := by
    intro c o g h
    cases o
    · rfl
    · exact h _
  unfold scRow
  dsimp only
  split
  · simp
  · refine (p_foldl fun c i => ?_).trans (by simp)
    exact hchecks _ _ _ fun w => p_checkApply ..
@[simp] theorem p_scSeg (g : ScCfg) (cc block last seg : Nat) (s : ScSim) : (scSeg g cc block last seg s).c.p = s.c.p := by
  unfold scSeg
  split
  · rfl
  · split
    · rfl
    · simp
@[simp] theorem p_scFetch (cc : Nat) (s : ScSim) : (scFetch cc s).c.p = s.c.p := by
  unfold scFetch
  split
  · rfl
  · split <;> rfl
@[simp] theorem p_scCc (g : ScCfg) (cc block last : Nat) (s : ScSim) : (scCc g cc block last s).c.p = s.c.p := by
  unfold scCc
  dsimp only
  split
  · rfl
  · simp
@[simp] theorem p_scLand (g : ScCfg) (n : Nat) (s : ScSim) : (scLand g n s).c.p = s.c.p := by
  induction n generalizing s with
  | zero => rfl
  | succ n ih =>
    unfold scLand
    split
    · rfl
    · rw [ih, p_scCc]
@[simp] theorem p_scBlock (g : ScCfg) (c : Ctx) (start addr : Nat) : (scBlock g c start addr).c.p = c.p := by
  unfold scBlock
  dsimp only
  split
  · simp [scNoBlock]
  · split <;> simp [scNoBlock]
@[simp] theorem p_scRun (g : ScCfg) (block last : Nat) (untilDone : Bool) (n cc : Nat) (s : ScSim) :
    (scRun g block last untilDone n cc s).2.c.p = s.c.p := by
  induction n generalizing cc s with
  | zero => rfl
  | succ n ih =>
    unfold scRun
    split
    · rfl
    · rw [ih, p_scCc]
@[simp] theorem p_scBegin (s : ScSim) (b : ScBlock) (cc : Nat) (skip : Nat → Nat) : (scBegin s b cc skip).c.p = b.c.p := rfl
@[simp] theorem p_overrun (f : Fired) (cause block groups cc : Nat) (c : Ctx) : (overrun f cause block groups cc c).p = c.p := rfl
@[simp] theorem p_scMapPut (g : ScCfg) (cc : Nat) (map : List Byte) (lastB : Bool) (s : ScSim) : (scMapPut g cc map lastB s).c.p = s.c.p := by
  unfold scMapPut
  split <;> simp
@[simp] theorem p_scMainBlocks (g : ScCfg) (budget : Nat) (bs : List Nat) (cc addr : Nat) (s : ScSim) (map : List Byte)
    (o : Option (Nat × Nat)) : (scMainBlocks g budget bs cc addr s map o).1.c.p = s.c.p := by
  induction bs generalizing cc addr s map o with
  | nil => rfl
  | cons b bs ih =>
    unfold scMainBlocks
    split
    · rfl
    · dsimp only
      split
      · simp [ih]
      · rw [ih, p_scMapPut]
        split <;> simp
@[simp] theorem p_scOvfBlocks (g : ScCfg) (lastCc : Nat) (map : List Byte) (bs : List Nat) (cc addr : Nat) (s : ScSim)
    (o : Option (Nat × Nat)) : (scOvfBlocks g lastCc map bs cc addr s o).2.1.c.p = s.c.p := by
  induction bs generalizing cc addr s o with
  | nil => rfl
  | cons b bs ih =>
    unfold scOvfBlocks
    split
    · rfl
    · dsimp only
      split
      · simp [ih]
      · split <;> simp [ih]
@[simp] theorem p_scEnd (f : Fired) (target : Nat) (o : Option (Nat × Nat)) (s : ScSim) : (scEnd f target o s).2.p = s.c.p := by
  cases o <;> simp [scEnd]
@[simp] theorem p_scatterMain (f : Fired) (ups : List (Nat × Nat × Word)) (c : Ctx) : (scatterMain f ups c).2.p = c.p := by
  simp [scatterMain, scStart]
@[simp] theorem p_scatterOverflow (f : Fired) (ups : List (Nat × Nat × Word)) (c : Ctx) : (scatterOverflow f ups c).2.p = c.p := by
  simp [scatterOverflow, scStart]

/-! ## Drains -/

@[simp] theorem p_accEnd (target free : Nat) (c : Ctx) : (accEnd target free c).2.p = c.p := rfl
@[simp] theorem p_granDrain (f : Fired) (c : Ctx) : (granDrain f c).2.p = c.p := by
  unfold granDrain
  dsimp only
  generalize upto 0 128 = slots
  rw [p_ctxTile, p_accEnd, p_snd_ite, p_spillFlush, p_overrun, ite_self]
  refine p_foldl_snd_snd fun q i => ?_
  split <;> simp
@[simp] theorem p_binsDrain (f : Fired) (c : Ctx) : (binsDrain f c).2.p = c.p := by simp [binsDrain]
theorem p_cleared (target free : Nat) (lines : List Nat) (g : Sparse → Sparse) (c : Ctx) :
    (accEnd target free (sparseMod (ctxTile c (touchTile lines)) g)).2.p = c.p := rfl
@[simp] theorem p_accClear (f : Fired) (c : Ctx) : (accClear f c).2.p = c.p := by
  unfold accClear
  split <;> exact p_cleared _ _ _ _ _

/-! ## The fuller and its reduction unit -/

@[simp] theorem p_cachedRead (port : Nat) (ccOf : Nat → Nat → Nat) (a n : Nat) (cache : LineCache) (c : Ctx) :
    (cachedRead port ccOf a n cache c).2.2.p = c.p := by
  unfold cachedRead
  refine (p_foldl_snd_snd fun x q => ?_).trans rfl
  dsimp only
  split
  · rw [p_snd_snd_ite, p_timedRead, ite_self]
  · exact p_timedRead ..
@[simp] theorem p_mxScaleLine (f : Fired) (addr j : Nat) (cache : LineCache) (c : Ctx) : (mxScaleLine f addr j cache c).2.p = c.p := by
  cases cache <;> simp [mxScaleLine]
@[simp] theorem p_inVec (f : Fired) (port fmt addr stride : Nat) (scale : Word) (j : Nat) (cache sc : LineCache) (c : Ctx) :
    (inVec f port fmt addr stride scale j cache sc c).2.2.2.p = c.p := by
  unfold inVec
  dsimp only
  split <;> simp [*]
@[simp] theorem p_residueLatch (c : Ctx) (unit step desc stage lane kind vec cc : Nat) :
    (residueLatch c unit step desc stage lane kind vec cc).p = c.p := by simp [residueLatch]
@[simp] theorem p_run_ite {b : Prop} [Decidable b] {x y : FulRun} : (if b then x else y).c.p = if b then x.c.p else y.c.p := by
  split <;> rfl
@[simp] theorem p_outPacked (cc a : Nat) (bs : List Byte) (lastV : Bool) (r : FulRun) : (outPacked cc a bs lastV r).c.p = r.c.p :=
  foldl_keeps (π := fun r : FulRun => r.c.p) (fun r q => by simp) _ _
@[simp] theorem p_outElem (f : Fired) (fmt : Fmt) (draw lane cc : Nat) (w : Word) (c : Ctx) : (outElem f fmt draw lane cc w c).2.p = c.p := by
  simp [outElem]
@[simp] theorem p_mxScalePut (f : Fired) (j : Nat) (lastV : Bool) (r : FulRun) : (mxScalePut f j lastV r).c.p = r.c.p := by
  simp [mxScalePut]
@[simp] theorem p_outVec (f : Fired) (j : Nat) (ws : List Word) (dr : List Nat) (r : FulRun) : (outVec f j ws dr r).c.p = r.c.p := by
  have hamax : ∀ (l : List Fl) (c : Ctx) (g : Fl → Tile → Tile), (l.foldl (fun c x => ctxTile c (g x)) c).p = c.p :=
    fun l c g => p_foldl fun c x => rfl
  have hwords : ∀ (l : List Word) (c : Ctx) (g : Word → Tile → Tile), (l.foldl (fun c w => ctxTile c (g w)) c).p = c.p :=
    fun l c g => p_foldl fun c w => rfl
  unfold outVec
  dsimp only
  split
  · rfl
  · split
    · exact p_streamWrite ..
    · split
      · rw [p_streamWrite, p_streamWrite]
        exact hwords _ _ _
      · split
        · rw [p_mxScalePut, p_outPacked]
          exact hamax _ _ _
        · simp
@[simp] theorem p_fullerVec (f : Fired) (ups : List FulUps) (draws : List (Kv Nat)) (tapSel j : Nat) (r : FulRun) :
    (fullerVec f ups draws tapSel j r).c.p = r.c.p := by
  unfold fullerVec
  dsimp only
  split <;> simp
@[simp] theorem p_resLatches (f : Fired) (ups : List FulUps) (done : Nat) (c : Ctx) : (resLatches f ups done c).p = c.p := by
  simp [resLatches]
@[simp] theorem p_fullerPass (f : Fired) (ups : List FulUps) (tapSel : Nat) (c : Ctx) : (fullerPass f ups tapSel c).p = c.p := by
  simp only [fullerPass, p_ite, p_fullerMod, p_srSettle, p_resLatches, ite_self]
  exact foldl_keeps (π := fun r => r.c.p) (fun r j => p_fullerVec f ups _ tapSel j r) _ _
@[simp] theorem p_reductionRun (f : Fired) (ups : List FulUps) (c : Ctx) : (reductionRun f ups c).p = c.p := by
  unfold reductionRun
  split <;> simp
@[simp] theorem p_redLinePut (x : Nat × Nat × List Byte) (c : Ctx) : (redLinePut x c).p = c.p := by simp [redLinePut]
@[simp] theorem p_redWrite (r : RedPend) (past : Nat → Bool) (c : Ctx) : (redWrite r past c).p = c.p := by simp [redWrite]

/-! ## Work of a tile -/

theorem tileWork_refl (p : Nat) (s : State) : tileWork p s s := ⟨rfl, fun _ _ => rfl⟩

/-- A pass that stays on its tile changes, of the block, only that tile and what its reports reach. -/
theorem tileWork_applyCtx {s : State} {c : Ctx} {p : Nat} (hp : c.p = p) : tileWork p s (applyCtx s c) := by
  refine ⟨?_, fun q hq => getTile_applyCtx_other s c (hp ▸ hq)⟩
  exact ((applyCtx_frame s c).mono (F := [.tiles, .parts, .pages, .inbox, .ops, .changes, .reeve]) (by decide)).eq_overlay

/-- So does an engine's row whose pass stays on its tile. -/
theorem tileWork_unitRun {s t : State} {p u : Nat} {ok : Tile → Fired → Bool} {pass : Fired → Ctx → Nat × Ctx}
    (hpass : ∀ f c, (pass f c).2.p = c.p) (h : unitRun s p u ok (passRun p u pass) = .next t) : tileWork p s t := by
  unfold unitRun at h
  split at h
  · cases h
  · split at h
    · cases h
      exact tileWork_refl p s
    · split at h
      · cases h
        exact tileWork_applyCtx (hpass _ _)
      · cases h
        exact tileWork_refl p s

theorem tileWork_reductionResultWrite {s t : State} {p : Nat} (h : exec (.reductionResultWrite p) s = .next t) : tileWork p s t := by
  change execReductionResultWrite p s = .next t at h
  unfold execReductionResultWrite at h
  split at h
  · cases h
  · split at h
    · cases h
      exact tileWork_refl p s
    · split at h
      · cases h
        exact tileWork_refl p s
      · split at h
        · cases h
          exact tileWork_applyCtx (p_redWrite ..)
        · cases h
          exact tileWork_refl p s

/-! ## Passes without reports -/

/-- A pass that makes tile `t` and reports nothing leaves that tile, its entry taken and its busy time moved on. -/
def passedTile (u done : Nat) (t : Tile) : Tile := { t with fired := dropFirst u t.fired, doneCc := max t.doneCc done }

theorem passRun_silent {s : State} {p u done : Nat} {pass : Fired → Ctx → Nat × Ctx} {f : Fired} {t : Tile}
    (h : pass f (ctxOf s p) = (done, { ctxOf s p with t := t })) : passRun p u pass f s = setTile s p (passedTile u done t) := by
  unfold passRun
  rw [h]
  rfl

theorem exec_silent {s : State} {p u done : Nat} {ok : Tile → Fired → Bool} {pass : Fired → Ctx → Nat × Ctx} {f : Fired} {t : Tile}
    (hp : p < 4800) (hfired : firstFired (getTile s p) u = some f) (hok : ok (getTile s p) f = true)
    (h : pass f (ctxOf s p) = (done, { ctxOf s p with t := t })) :
    unitRun s p u ok (passRun p u pass) = .next (setTile s p (passedTile u done t)) :=
  (unitRun_of_ready hp hfired hok).trans (congrArg Host.Outcome.next (passRun_silent h))

theorem setTile_getTile_setTile (s : State) (p : Nat) (t : Tile) : setTile s p t = setTile s p (getTile (setTile s p t) p) := by
  rw [getTile_setTile_same]

/-- A tile whose granary or bins a drain has emptied: `g` says which. -/
def clearedTile (target free : Nat) (lines : List Nat) (g : Sparse → Sparse) (t : Tile) : Tile :=
  { touchTile lines t with sparse := g t.sparse, busy := kvSet 0 t.busy (20 + target) free }

theorem accEnd_cleared (target free : Nat) (lines : List Nat) (g : Sparse → Sparse) (c : Ctx) :
    accEnd target free (sparseMod (ctxTile c (touchTile lines)) g) = (free, { c with t := clearedTile target free lines g c.t }) := rfl

/-- Marking lines as touched leaves the store's bytes. -/
theorem mem_touchTile (lines : List Nat) (t : Tile) : (touchTile lines t).store.mem = t.store.mem :=
  foldl_keeps (π := fun q : Store => q.mem) (fun q l => by unfold touchLine; split <;> rfl) lines t.store

theorem passedTile_clearedTile (done target free : Nat) (lines : List Nat) (g : Sparse → Sparse) (t : Tile) :
    (passedTile 6 done (clearedTile target free lines g t)).sparse = g t.sparse
    ∧ (passedTile 6 done (clearedTile target free lines g t)).fired = dropFirst 6 t.fired
    ∧ (passedTile 6 done (clearedTile target free lines g t)).store.mem = t.store.mem
    ∧ (passedTile 6 done (clearedTile target free lines g t)).loom = t.loom :=
  ⟨rfl, rfl, mem_touchTile lines t, rfl⟩

/-- A clear-only drain empties the store of its target. -/
theorem exec_accumulatorClearOnly {s : State} {p : Nat} {f : Fired} (hp : p < 4800) (hfired : firstFired (getTile s p) 6 = some f)
    (hok : accIs 0 true (getTile s p) f = true) :
    ∃ target lines, exec (.accumulatorClearOnly p) s = .next (setTile s p (passedTile 6 (accFree f) (clearedTile target (accFree f) lines
      (fun q => if fld f.desc 1 1 = 0 then { q with gran := [] } else { q with bins := [] }) (getTile s p)))) := by
  by_cases htarget : fld f.desc 1 1 = 0
  · refine ⟨0, upto 10240 512, exec_silent hp hfired hok ?_⟩
    rw [accClear, if_pos (by simp [htarget]), accEnd_cleared]
    simp only [htarget, if_true]
    rfl
  · refine ⟨1, upto 9216 1024, exec_silent hp hfired hok ?_⟩
    rw [accClear, if_neg (by simp [htarget]), accEnd_cleared]
    simp only [htarget, if_false]
    rfl

/-- A ready reduction result is written as `redWrite` says. -/
theorem exec_reductionResultWrite {s : State} {p : Nat} {r : RedPend} (hp : p < 4800) (hpend : (getTile s p).fuller.redPend = some r)
    (hst : (getTile s p).st ≠ .pinfold) (hready : timePast (getTile s p) (r.ready.headD r.readyCc) = true)
    (hall : r.dest = 1 ∨ timePast (getTile s p) r.readyCc = true) :
    exec (.reductionResultWrite p) s = .next (applyCtx s (redWrite r (timePast (getTile s p)) (ctxOf s p))) := by
  refine (if_neg (not_not.mpr hp)).trans ?_
  rw [hpend]
  dsimp only
  rw [if_neg (by simp [hst]), if_pos (by simp only [hready]; simpa using hall)]

theorem applyCtx_silent {s : State} {c : Ctx} {p : Nat} (hp : c.p = p) (hsigs : c.sigs = []) : applyCtx s c = setTile s p c.t := by
  rw [applyCtx, hsigs, hp]
  rfl

/-- A clerk wake as its row runs it. -/
def wakePass (f : Fired) (c : Ctx) : Nat × Ctx :=
  (f.fireCc, ctxTile c (fun t => { t with clerk := { t.clerk with
    wakePend := true
    wakeStep := f.step
    wakeLost := if t.clerk.wakePend then satAdd 16 t.clerk.wakeLost 1 else t.clerk.wakeLost } }))

/-- May a fuller pass run: its inputs are past, and so are the draws before its own? -/
def fulReady (t : Tile) (f : Fired) : Bool := timePast t (fulLastIn f) && drawsPast t f

/-- A fuller pass as its row runs it. -/
def fulPass (ups : List FulUps) (f : Fired) (c : Ctx) : Nat × Ctx :=
  (max (fulLastIn f) (fulLastOut c.t.store.mem c.t.actBank f), fullerPass f ups (tapOf c.t f) c)

/-- Settles O19: the small passes report nothing (`exec_silent`), and every pass stays on its tile (`tileWork_unitRun`). -/
theorem smallPassesAndFrames : Obligations.SmallPassesAndFrames := by
  refine ⟨fun p f s hp => ⟨fun hf hr => ?swap, fun hf hr => ?clear, fun r hpend hst hready hlast hdest => ?registers,
    fun r hpend hst hready hdest => ?store, fun hf => ?wake⟩, fun p s t i hi ht => ?frame⟩
  case swap =>
    refine ⟨_, exec_silent hp hf hr rfl, setTile_getTile_setTile _ _ _, ?_⟩
    rw [getTile_setTile_same]
    exact ⟨rfl, rfl, rfl, rfl, rfl⟩
  case clear =>
    obtain ⟨target, lines, hrun⟩ := exec_accumulatorClearOnly hp hf hr
    refine ⟨_, hrun, setTile_getTile_setTile _ _ _, ?_⟩
    rw [getTile_setTile_same]
    exact passedTile_clearedTile _ _ _ _ _ _
  case registers =>
    have hctx := applyCtx_silent (s := s) (c := redWrite r (timePast (getTile s p)) (ctxOf s p)) (p := p) (p_redWrite ..)
      (by rw [redWrite, if_pos (by simp [hdest])]; rfl)
    refine ⟨_, exec_reductionResultWrite hp hpend hst hready (.inr hlast), ?_⟩
    rw [hctx]
    refine ⟨setTile_getTile_setTile _ _ _, ?_⟩
    rw [getTile_setTile_same, redWrite, if_pos (by simp [hdest])]
    exact ⟨rfl, rfl, rfl⟩
  case store => exact ⟨_, exec_reductionResultWrite hp hpend hst hready (.inl hdest), rfl⟩
  case wake =>
    refine ⟨_, exec_clerkWake p f s hp hf, setTile_getTile_setTile _ _ _, ?_⟩
    rw [getTile_setTile_same]
    exact ⟨rfl, rfl, rfl⟩
  case frame =>
    rcases hi with hi | ⟨ups, rfl⟩ | ⟨ups, rfl⟩ | ⟨ups, acc, rfl⟩ | ⟨ups, acc, rfl⟩ | ⟨acc, rfl⟩ | ⟨ups, rfl⟩ | ⟨ups, rfl⟩
    · simp only [List.mem_cons, List.not_mem_nil, or_false] at hi
      rcases hi with rfl | rfl | rfl | rfl | rfl | rfl | rfl
      · exact tileWork_unitRun (pass := swapRun) (fun f c => rfl) ht
      · exact tileWork_unitRun (ok := fun _ _ => true) p_sievePass ht
      · exact tileWork_unitRun (pass := granDrain) p_granDrain ht
      · exact tileWork_unitRun (pass := binsDrain) p_binsDrain ht
      · exact tileWork_unitRun (pass := accClear) p_accClear ht
      · exact tileWork_reductionResultWrite ht
      · exact tileWork_unitRun (ok := fun _ _ => true) (pass := wakePass) (fun f c => rfl) ht
    · exact tileWork_unitRun (pass := fun f c => scatterMain f ups c) (fun f c => p_scatterMain f ups c) ht
    · exact tileWork_unitRun (pass := fun f c => scatterOverflow f ups c) (fun f c => p_scatterOverflow f ups c) ht
    · exact tileWork_unitRun (pass := loomRun ups acc) (fun f c => p_loomPass f ups acc c) ht
    · exact tileWork_unitRun (pass := loomRun ups acc) (fun f c => p_loomPass f ups acc c) ht
    · exact tileWork_unitRun (pass := loomRun [] acc) (fun f c => p_loomPass f [] acc c) ht
    · exact tileWork_unitRun (ok := fulReady) (pass := fulPass ups) (fun f c => p_fullerPass ..) ht
    · exact tileWork_unitRun (ok := tappedFor) (pass := reductionPass ups) (fun f c => p_reductionRun f ups c) ht

end Sys2Proof.Machine
end

section
/-! SUPPORT. What the mesh leaves of a tile, and the DMA unit's commands (R260, R280 to R286, R316). -/

-- One proof after another: threads that wait for each other count against the memory of the check.
set_option Elab.async false

namespace Sys2Proof.Machine

/-! ## A tile but for its router -/

/-- A tile as it is but for its router. -/
def unrouted (q : Nat) (s : State) : Tile := { getTile s q with router := {} }

theorem unrouted_of_touches {F : List Fld} {s t : State} (h : Touches F s t) (q : Nat) (hF : .tiles ∉ F := by decide) :
    unrouted q t = unrouted q s := by
  rw [unrouted, h.getTile q hF]
  rfl

@[simp] theorem unrouted_modRouter (s : State) (p q : Nat) (f : Router → Router) : unrouted q (modRouter s p f) = unrouted q s := by
  by_cases h : q = p
  · subst h
    simp [unrouted, modRouter]
  · rw [unrouted, modRouter, getTile_modTile_other _ _ _ _ h]
    rfl

@[simp] theorem unrouted_nextStamp (s : State) (q : Nat) : unrouted q (nextStamp s).2 = unrouted q s :=
  unrouted_of_touches (F := [.clk]) (by simp) q

@[simp] theorem unrouted_ueReport (s : State) (p port : Nat) (k : Packet) (readable : Bool) (q : Nat) :
    unrouted q (ueReport s p port k readable) = unrouted q s :=
  unrouted_of_touches (F := [.inbox, .parts]) (by simp) q

@[simp] theorem unrouted_keyDrop (s : State) (p port : Nat) (k : Packet) (q : Nat) : unrouted q (keyDrop s p port k) = unrouted q s := by
  have hreport : Touches [.inbox, .parts] (modRouter s p (fun r => { r with dropKey := satAdd 16 r.dropKey 1 })) (keyDrop s p port k) := by
    unfold keyDrop
    dsimp only
    split <;> simp
  rw [unrouted_of_touches hreport, unrouted_modRouter]

@[simp] theorem unrouted_fillLocal (s : State) (p q : Nat) : unrouted q (fillLocal s p) = unrouted q s := by
  unfold fillLocal
  split
  · rfl
  · refine foldl_keeps (fun s v => ?_) _ s
    dsimp only
    split
    · split <;> simp
    · rfl

@[simp] theorem unrouted_injectRaw (s : State) (p : Nat) (ks : List Packet) (q : Nat) : unrouted q (injectRaw s p ks) = unrouted q s := by
  unfold injectRaw
  dsimp only
  split
  · rfl
  · split
    · rw [unrouted_fillLocal, unrouted_modRouter]
    · exact foldl_keeps (fun s k => unrouted_keyDrop s p 0 k q) _ s

@[simp] theorem unrouted_injectAll (s : State) (p : Nat) (ks : List Packet) (q : Nat) : unrouted q (injectAll s p ks) = unrouted q s := by
  unfold injectAll
  split
  · rfl
  · exact unrouted_injectRaw s p ks q

/-! ## Tokens -/

theorem credits_of_unrouted {s t : State} {p : Nat} (h : unrouted p t = unrouted p s) (k : Nat) :
    credits (getTile t p) k = credits (getTile s p) k := by
  have houtCredits : (unrouted p t).outCredits = (unrouted p s).outCredits := congrArg Tile.outCredits h
  exact congrArg (kvGet 0 · k) houtCredits

/-- A token sent takes one credit of its outbound entry. -/
theorem credits_sendEntry (s : State) (p k : Nat) (payload : List Byte) :
    credits (getTile (sendEntry s p k payload) p) k = credits (getTile s p) k - 1 := by
  rw [sendEntry, credits_of_unrouted (unrouted_injectAll _ _ _ _), getTile_modTile_same]
  exact kvGet_kvSet_same _ _ _ _

theorem credits_modTile {f : Tile → Tile} (h : ∀ t, (f t).outCredits = t.outCredits) (s : State) (p k : Nat) :
    credits (getTile (modTile s p f) p) k = credits (getTile s p) k := by
  rw [getTile_modTile_same, credits, h]
  rfl

theorem credits_tokenDone (p k : Nat) (f : Fired) (s : State) : credits (getTile (tokenDone p f s) p) k = credits (getTile s p) k := by
  rw [tokenDone, applyCtx_silent (p := p) rfl rfl, getTile_setTile_same]
  rfl

/-! ## Descriptors -/

/-- A DMA command works on the front descriptor of its op. -/
theorem dmaRun_of_ready {s : State} {p op : Nat} {run : DmaEnt → State → State} {ok : State → DmaEnt → Bool} {e : DmaEnt}
    (hp : p < 4800) (hfront : dmaFront (getTile s p) op = some e) (hok : ok s e = true) : dmaRun op run ok p s = .next (run e s) := by
  refine (if_neg (not_not.mpr hp)).trans ?_
  rw [hfront]
  exact if_pos hok

theorem modDma_eq (s : State) (p : Nat) (f : Dma → Dma) : modDma s p f = setTile s p (getTile (modDma s p f) p) := by
  rw [modDma, getTile_modTile_same]
  rfl

theorem dma_modDma (s : State) (p : Nat) (f : Dma → Dma) : getTile (modDma s p f) p = { getTile s p with dma := f (getTile s p).dma } :=
  getTile_modTile_same _ _ _

/-- A schedule violation of the DMA unit stops its tile. -/
theorem stop_dmaViolate (s : State) (p : Nat) : (getTile (dmaViolate s p) p).stop.isSome = true := by
  have hctx : ctxViolate (ctxOf s p) (ctxCc s (physPart p)) = { ctxOf s p with
    abort := true
    sigs := [.stop .schedule (ctxCc s (physPart p)), .event 0x0153 (ctxCc s (physPart p)) 0 [], .fail 0x0021 (ctxCc s (physPart p))] } := rfl
  have htile := getTile_applyCtx_same s (ctxViolate (ctxOf s p) (ctxCc s (physPart p)))
  rw [dmaViolate, hctx] at *
  rw [show getTile _ p = _ from htile]
  rfl

/-- The bolt of a memory write, as it goes to fabric-out. -/
def writeJob (e : DmaEnt) (d : Dma) : OutJob :=
  { op := 0, dest := 0, sAddr := dmaS e.desc e.ctr + 4096 * e.begun, addr := dmaBolt e.desc e.ctr + e.begun, job := d.nextJob }

/-- The bolt of a store write, to the members of a mask line or to one tile. -/
def storeWriteJob (e : DmaEnt) (mask : List Byte) : OutJob :=
  { op := 2, dest := fld e.desc 0xE 2, sAddr := dmaS e.desc e.ctr + 4096 * e.begun
    addr := fld e.desc 0x10 4 + 4096 * e.begun, sub := fld e.desc 0x14 1, group := fld e.desc 3 1, mask := mask }

/-- The line of a mill post. -/
def postJob (e : DmaEnt) (d : Dma) : OutJob :=
  { op := 3, dest := 0, sAddr := dmaBolt e.desc e.ctr, addr := 0xFFFFFF00, job := d.nextJob }

/-- The bolt of a link send. -/
def linkJob (p : Nat) (e : DmaEnt) (s : State) : OutJob :=
  { op := 4, dest := 0x4000 + fld e.desc 0x15 1, sAddr := dmaS e.desc e.ctr + 4096 * e.begun, addr := 0
    group := fld e.desc 3 1, link := linkHead e.desc e.ctr e.begun (s.link.modId % 2 ^ 17) (logD s p) }

/-- A job of the front descriptor that opens a wait for `left` answers. -/
def openedRun (op left : Nat) (job : DmaEnt → Dma → OutJob) (p : Nat) (e : DmaEnt) (s : State) : State :=
  modDma s p (fun d => dmaPush e (job e d) (dmaOpen op (fld e.desc 3 1) left 0 false d))

/-- The requests of a memory read that have a tag. -/
def readRun (p : Nat) (e : DmaEnt) (s : State) : State :=
  let bolt := dmaBolt e.desc e.ctr + e.begun
  let sa := dmaS e.desc e.ctr + 4096 * e.begun
  let tags := readTags s p e
  let job := if e.sent == 0 then (getTile s p).dma.nextJob else e.job
  injectAll (modDma s p (fun d => readStep e (e.sent + tags.length) job (takeTags tags job
    (if e.sent == 0 then dmaOpen 1 (fld e.desc 3 1) 16 sa (readMerged s p e) d else d)))) p
    (readPackets (boltEp s (physPart p) bolt) bolt (sa / 64) e.sent (readMerged s p e) tags)

/-- A store write: a multicast one reads its mask line, and stops the tile where that lists no member. -/
def storeWriteRun (p : Nat) (e : DmaEnt) (s : State) : State :=
  let r := if bitAt (fld e.desc 2 1) 0 then outMask s p (fld e.desc 0x18 4) else ([], s)
  if bitAt (fld e.desc 2 1) 0 && !(maskListed r.1) then dmaViolate r.2 p else modDma r.2 p (dmaPush e (storeWriteJob e r.1))

theorem exec_memoryWrite (s : State) (p : Nat) : exec (.memoryWrite p) s = dmaRun 0 (openedRun 0 16 writeJob p) (fun _ _ => true) p s := rfl
theorem exec_memoryRead (s : State) (p : Nat) : exec (.memoryRead p) s = dmaRun 1 (readRun p) (readReady p) p s := rfl
theorem exec_storeWrite (s : State) (p : Nat) : exec (.storeWrite p) s = dmaRun 2 (storeWriteRun p) (fun _ _ => true) p s := rfl
theorem exec_millPost (s : State) (p : Nat) : exec (.millPost p) s = dmaRun 3 (openedRun 3 8 postJob p) (fun _ _ => true) p s := rfl
theorem exec_linkSend (s : State) (p : Nat) :
    exec (.linkSend p) s = dmaRun 4 (fun e s => modDma s p (dmaPush e (linkJob p e s))) (fun _ _ => true) p s := rfl

theorem storeWriteRun_unicast {s : State} {p : Nat} {e : DmaEnt} (hcast : bitAt (fld e.desc 2 1) 0 = false) :
    storeWriteRun p e s = modDma s p (dmaPush e (storeWriteJob e [])) := by
  simp [storeWriteRun, hcast]

theorem storeWriteRun_multicast {s s1 : State} {p : Nat} {e : DmaEnt} {m : List Byte} (hcast : bitAt (fld e.desc 2 1) 0 = true)
    (hmask : outMask s p (fld e.desc 0x18 4) = (m, s1)) :
    storeWriteRun p e s = if maskListed m then modDma s1 p (dmaPush e (storeWriteJob e m)) else dmaViolate s1 p := by
  cases hlisted : maskListed m <;> simp [storeWriteRun, hcast, hmask, hlisted]

/-- A token-send with a credit, as its row runs it. -/
def tokenRun (p : Nat) (f : Fired) (s : State) : State :=
  modTile (tokenDone p f (sendEntry s p (fld f.desc 2 1) (slice f.desc 0x18 8 ++ zeros 56))) p (fun t => { t with
    seq := { t.seq with nextCc := max t.seq.nextCc (ctxCc s (physPart p)) } })

/-- May a token-send leave: is it one, with a credit? -/
def tokenReady (t : Tile) (f : Fired) : Bool := tokenIs 0 f && credits t (fld f.desc 2 1) != 0

theorem exec_channelTokenSend (s : State) (p : Nat) : exec (.channelTokenSend p) s = unitRun s p 11 tokenReady (tokenRun p) := rfl

theorem credits_tokenRun (p : Nat) (f : Fired) (s : State) :
    credits (getTile (tokenRun p f s) p) (fld f.desc 2 1) = credits (getTile s p) (fld f.desc 2 1) - 1 := by
  rw [tokenRun, credits_modTile, credits_tokenDone, credits_sendEntry]
  exact fun _ => rfl

/-- Settles O20: a DMA row is `dmaRun` on the front descriptor, and a token takes its credit while the mesh keeps the tile. -/
theorem dmaAndTokens : Obligations.DmaAndTokens := by
  refine ⟨fun p e s hp => ⟨fun hf => ?write, fun hf hr => ?read, fun hf => ⟨fun hcast => ?unicast, fun m s1 hcast hmask => ⟨fun hlisted => ?cast,
    fun hlisted => ?unlisted⟩⟩, fun hf => ?post, fun hf => ?link⟩, fun p f s hp hf => ⟨fun htoken hcredit => ?token, fun htoken => ?arrive,
    fun htoken => ?raise⟩⟩
  case write =>
    refine ⟨_, { writeJob e (getTile s p).dma with final := e.begun + 1 == dmaTotal e }, (exec_memoryWrite s p).trans (dmaRun_of_ready hp hf rfl), modDma_eq _ _ _, ?_⟩
    rw [openedRun, dma_modDma]
    exact ⟨rfl, rfl, rfl, rfl, rfl⟩
  case read =>
    refine ⟨_, _, _, (exec_memoryRead s p).trans (dmaRun_of_ready hp hf hr), rfl, rfl, ?_⟩
    simp only [readRun, beq_iff_eq]
    rfl
  case unicast =>
    refine ⟨_, { storeWriteJob e [] with final := e.begun + 1 == dmaTotal e }, (exec_storeWrite s p).trans (dmaRun_of_ready hp hf rfl), ?_⟩
    rw [storeWriteRun_unicast hcast]
    refine ⟨modDma_eq _ _ _, ?_⟩
    rw [dma_modDma]
    exact ⟨rfl, rfl, rfl⟩
  case cast =>
    refine ⟨_, { storeWriteJob e m with final := e.begun + 1 == dmaTotal e }, (exec_storeWrite s p).trans (dmaRun_of_ready hp hf rfl), ?_⟩
    rw [storeWriteRun_multicast hcast hmask, if_pos hlisted]
    refine ⟨modDma_eq _ _ _, ?_, rfl, rfl, rfl⟩
    rw [dma_modDma]
    rfl
  case unlisted =>
    refine ⟨_, (exec_storeWrite s p).trans (dmaRun_of_ready hp hf rfl), ?_⟩
    rw [storeWriteRun_multicast hcast hmask, if_neg (by simp [hlisted])]
    exact ⟨rfl, stop_dmaViolate s1 p⟩
  case post =>
    refine ⟨_, { postJob e (getTile s p).dma with final := e.begun + 1 == dmaTotal e }, (exec_millPost s p).trans (dmaRun_of_ready hp hf rfl), modDma_eq _ _ _, ?_⟩
    rw [openedRun, dma_modDma]
    exact ⟨rfl, rfl, rfl⟩
  case link =>
    refine ⟨_, { linkJob p e s with final := e.begun + 1 == dmaTotal e }, (exec_linkSend s p).trans (dmaRun_of_ready hp hf rfl), modDma_eq _ _ _, ?_⟩
    rw [dma_modDma]
    exact ⟨rfl, rfl⟩
  case token =>
    refine ⟨_, (exec_channelTokenSend s p).trans (unitRun_of_ready hp hf (by simp [tokenReady, htoken, hcredit])), rfl, ?_⟩
    rw [credits_tokenRun]
    omega
  case arrive => exact ⟨_, unitRun_of_ready (ok := fun _ f => tokenIs 1 f) hp hf htoken, rfl⟩
  case raise => exact ⟨_, unitRun_of_ready (ok := fun _ f => tokenIs 2 f) hp hf htoken, rfl⟩

end Sys2Proof.Machine
end

section
/-! SUPPORT. The store's traffic: fabric-in, fabric-out, the gather buffer and the copier (R198 to R207). -/

-- One proof after another: threads that wait for each other count against the memory of the check.
set_option Elab.async false

namespace Sys2Proof.Machine

theorem exec_fabricInWrite {s : State} {p : Nat} {k : Packet} {rest : List Packet} (hp : p < 4800)
    (hfin : (getTile s p).store.fin = k :: rest) : exec (.fabricInWrite p) s = .next (finWrite s p k) := by
  refine (if_neg (not_not.mpr hp)).trans ?_
  rw [hfin]

/-! ## Fabric-out -/

/-- A live fabric-out works on its front job. -/
theorem exec_fabricOutSend {s : State} {p : Nat} {ups : List (Nat × Nat)} {j : OutJob} {rest : List OutJob} (hp : p < 4800)
    (hfront : (getTile (storeUpset s p ups) p).dma.fout = j :: rest) (hlive : foutLive (getTile (storeUpset s p ups) p) = true) :
    exec (.fabricOutSend p ups) s
      = if !(outCells (ctxOf (storeUpset s p ups) p) j) then .next (outRefuse (storeUpset s p ups) p j)
        else if outTagCount j != 0 && (outTags (getTile (storeUpset s p ups) p).dma j).isEmpty then .next (storeUpset s p ups)
        else .next (outSend (storeUpset s p ups) p j) := by
  refine (if_neg (not_not.mpr hp)).trans ?_
  rw [hfront]
  exact if_neg (by simp [hlive])

/-- A refused job has left, and counts as one refused access. -/
theorem getTile_outRefuse (s : State) (p : Nat) (j : OutJob) :
    getTile (outRefuse s p j) p = { getTile s p with
      store := { (getTile s p).store with cellRef := satAdd 16 (getTile s p).store.cellRef 1 }
      dma := outDrop j { (getTile s p).dma with jobs := (getTile s p).dma.jobs.filter (fun x => x.id != j.job) } } := by
  rw [outRefuse, (failLots_frame _ _ _ _ _).getTile p, getTile_sendEvent, getTile_modTile_same]
  rfl

/-- Bits that fail change of a store its failing words alone. -/
theorem store_storeUpset (s : State) (p : Nat) (ups : List (Nat × Nat)) :
    ∃ bad, (getTile (storeUpset s p ups) p).store = { (getTile s p).store with bad := bad } := by
  unfold storeUpset
  split
  · exact ⟨_, rfl⟩
  · rw [getTile_modTile_same]
    exact ⟨_, rfl⟩

/-! ## The gather buffer and the copier -/

theorem exec_gatherBufferDrain {s : State} {p : Nat} {e : GEnt} {rest : List GEnt} (hp : p < 4800) (hst : (getTile s p).st ≠ .pinfold)
    (hbuf : (getTile s p).store.gbuf = e :: rest) (hcell : gentCell (ctxCc s (physPart p)) (ctxOf s p) e = true) :
    exec (.gatherBufferDrain p) s = .next (setTile s p (gatherWrite (ctxCc s (physPart p)) (ctxTile (ctxOf s p)
      (fun t => storeMod t (fun q => { q with gbuf := rest }))) e).t) := by
  have hdrain : gatherDrain (ctxCc s (physPart p)) (ctxOf s p) = gatherWrite (ctxCc s (physPart p)) (ctxTile (ctxOf s p)
      (fun t => storeMod t (fun q => { q with gbuf := rest }))) e := by
    rw [gatherDrain, show (ctxOf s p).t.store.gbuf = _ from hbuf]
  refine (if_neg (not_not.mpr hp)).trans ?_
  rw [hbuf]
  dsimp only
  rw [if_pos (by simp [hst, hcell]), hdrain, applyCtx_silent (p := p) rfl rfl]

theorem exec_eccWriteBack {s : State} {p l : Nat} {rest : List Nat} (hp : p < 4800) (hst : (getTile s p).st ≠ .pinfold)
    (hqueue : (getTile s p).store.wbq = l :: rest) (hcell : portCell (ctxOf s p) 0 (lineBank l) (ctxCc s (physPart p)) = true) :
    exec (.eccWriteBack p) s = .next (modTile s p (fun t => storeMod t (fun q => lineFix l { q with wbq := rest }))) := by
  refine (if_neg (not_not.mpr hp)).trans ?_
  rw [hqueue]
  exact if_pos (by simp [hst, hcell])

/-- A line rewritten has no single-bit failures; its bytes and every other failure stay. -/
theorem lineFix_effect (l : Nat) (q : Store) : (lineFix l q).wbq = q.wbq ∧ (lineFix l q).mem = q.mem
    ∧ ∀ w, w ∈ (lineFix l q).bad ↔ w ∈ q.bad ∧ ¬ (w.2 = 1 ∧ l ≤ 8 * w.1 ∧ 8 * w.1 < l + 64) := by
  refine ⟨?_, ?_, fun w => ?_⟩
  · unfold lineFix touchLine
    split <;> rfl
  · unfold lineFix touchLine
    split <;> rfl
  · simp only [lineFix, List.mem_filter, Bool.not_eq_true', ← Bool.not_eq_true, Bool.and_eq_true, beq_iff_eq, decide_eq_true_eq, and_assoc]

/-- Settles O21: each row works on its oldest entry. -/
theorem storeTrafficMoves : Obligations.StoreTrafficMoves := by
  refine fun p s hp => ⟨fun k rest hfin => ⟨_, exec_fabricInWrite hp hfin, rfl⟩, fun ups j rest hfront hlive => ⟨fun hcells => ?refused,
    fun hcells htags => ?sent⟩, fun hst => ⟨fun e rest hbuf hcell => ?gather, fun l rest hqueue hcell => ?copier⟩⟩
  case refused =>
    refine ⟨_, (exec_fabricOutSend hp hfront hlive).trans (if_pos (by simp [hcells])), rfl, ?_⟩
    obtain ⟨bad, hstore⟩ := store_storeUpset s p ups
    rw [getTile_outRefuse, hstore]
    exact ⟨congrArg (List.drop 1) hfront, rfl, rfl⟩
  case sent =>
    refine ⟨_, (exec_fabricOutSend hp hfront hlive).trans ((if_neg (by simp [hcells])).trans (if_neg ?_)), rfl⟩
    rcases htags with h | h <;> simp [h]
  case gather =>
    refine ⟨_, exec_gatherBufferDrain hp hst hbuf hcell, setTile_getTile_setTile _ _ _, ?_⟩
    rw [getTile_setTile_same]
  case copier =>
    refine ⟨_, exec_eccWriteBack hp hst hqueue hcell, setTile_getTile_setTile _ _ _, ?_⟩
    rw [getTile_modTile_same]
    exact lineFix_effect l { (getTile s p).store with wbq := rest }

end Sys2Proof.Machine
end

section
/-! SUPPORT. How an instruction retires (R212 to R238). -/

-- One proof after another: threads that wait for each other count against the memory of the check.
set_option Elab.async false

namespace Sys2Proof.Machine

/-! ## Retirement -/

/-- The clerk that an instruction leaves as it retires at cycle `now`. -/
def clerkRetired (len now : Nat) (go : Option Nat) (k : Clerk) : Clerk :=
  let k1 := { fetchCount k len with minstret := k.minstret + 1, moved := now }
  match go with
  | some t => { k1 with pc := BitVec.ofNat 32 t }
  | none => lpEndTests { k1 with pc := k1.pc + BitVec.ofNat 32 len } (lpEnds k1 (k.pc.toNat + len))

theorem clerkRetired_keeps (len now : Nat) (go : Option Nat) (k : Clerk) :
    (clerkRetired len now go k).minstret = k.minstret + 1 ∧ (clerkRetired len now go k).x = k.x := by
  cases go with
  | some a => exact ⟨rfl, rfl⟩
  | none =>
    rw [clerkRetired]
    dsimp only
    rw [lpEndTests_frame]
    exact ⟨rfl, rfl⟩

theorem getTile_retire_same (s : State) (p rd : Nat) (i : Fetched) (go : Option Nat) :
    getTile (retire s p i rd go) p = { getTile s p with clerk := clerkRetired i.len s.clk.cycles go (getTile s p).clerk } := by
  rw [retire]
  dsimp only
  rw [getTile_traceRetire, getTile_modClerk_same]
  cases go <;> rfl

theorem getTile_retire_other {p q : Nat} (s : State) (rd : Nat) (i : Fetched) (go : Option Nat) (h : q ≠ p) :
    getTile (retire s p i rd go) q = getTile s q := by
  rw [retire]
  dsimp only
  rw [getTile_traceRetire]
  exact getTile_modTile_other _ _ _ _ h

/-! ## The rows -/

theorem ins_eq_fence {x : CIns} (h : kindOf x = .fence) : x = .fence := by
  cases x with
  | csr f3 rd src c => exact absurd (csrKind_mem f3 rd src c) (by rw [show csrKind f3 rd src c = .fence from h]; decide)
  | fence => rfl
  | _ => cases h

theorem ins_eq_fenceI {x : CIns} (h : kindOf x = .fenceI) : x = .fenceI := by
  cases x with
  | csr f3 rd src c => exact absurd (csrKind_mem f3 rd src c) (by rw [show csrKind f3 rd src c = .fenceI from h]; decide)
  | fenceI => rfl
  | _ => cases h

/-- An instruction of the base set, but for a CSR's, is executed by `baseExec`. -/
theorem insExec_base {s : State} {p : Nat} {i : Fetched} (hkind : kindOf i.ins = .base) (hcsr : ∀ f3 rd src c, i.ins ≠ .csr f3 rd src c) :
    insExec s p i = retire (modClerk s p (fun _ => (baseExec (getTile s p).clerk i.len i.ins).1)) p i
      (baseExec (getTile s p).clerk i.len i.ins).2.1 (baseExec (getTile s p).clerk i.len i.ins).2.2 := by
  unfold insExec
  dsimp only
  split <;> rename_i hins
  case h_13 => exact absurd hins (hcsr _ _ _ _)
  case h_14 => rfl
  all_goals
    rw [hins] at hkind
    cases hkind

/-- The kinds of CSR instructions that have no wait and no effect of their own row. -/
def plainKind (kind : CKind) : Prop := kind ≠ .qsend ∧ kind ≠ .imFill ∧ kind ≠ .clkFail

/-- A CSR instruction that does not wait is executed by `csrExec`. -/
theorem insExec_csr {s : State} {p f3 rd src c : Nat} {i : Fetched} (hins : i.ins = .csr f3 rd src c)
    (hplain : plainKind (csrKind f3 rd src c)) (hwait : queueWaits s p f3 rd src c = false) :
    insExec s p i = retire (csrExec s p f3 rd src c) p i rd none := by
  obtain ⟨hsend, hfill, hfail⟩ := hplain
  unfold insExec
  dsimp only
  rw [hins]
  dsimp only
  split
  · exact absurd ‹_› hsend
  · exact absurd ‹_› hfill
  · exact absurd ‹_› hfail
  · exact if_neg (by simp [hwait])

theorem queueWaits_of_kind {s : State} {p f3 rd src c : Nat} (hpop : csrKind f3 rd src c ≠ .qpop) (hpeek : csrKind f3 rd src c ≠ .qw) :
    queueWaits s p f3 rd src c = false := by
  unfold queueWaits
  split
  · exact absurd ‹_› hpop
  · exact absurd ‹_› hpeek
  · rfl

/-- Settles O22: a row runs the instruction that issues (`clerkRow_of_issues`), and retirement is `clerkRetired` of the clerk. -/
theorem clerkInstructionsRetire : Obligations.ClerkInstructionsRetire := by
  refine ⟨⟨fun p ups i s h hcsr => ?base, fun p ups i f3 rd src c s h hins => ?csr, fun p ups i f3 rd rs1 off s h hins hcell => ?load,
    fun p i f3 rs1 rs2 off s h hins hroom => ?store⟩, fun p i s => ⟨fun lv rs1 len h hins => ?rep, fun lv cnt len h hins => ?repi,
    fun lv h hins => ?quit, fun rd h hins hbell => ?bell, fun rd rs1 h hins hcell => ?lr, fun rd rs1 rs2 h hins hcell => ?sc,
    fun h hdrain => ?fence, fun h => ?fenceI, fun h hirq => ?wfi, fun h => ?mret⟩, fun s p rd i go => ?retired⟩
  case base =>
    obtain ⟨-, -, -, -, -, hkind, -, -, -⟩ := id h
    exact (clerkRow_of_issues h).trans (congrArg Host.Outcome.next (insExec_base hkind hcsr))
  case csr =>
    obtain ⟨-, -, -, -, -, hkind, -, -, -⟩ := id h
    rw [hins] at hkind
    have hkind : csrKind f3 rd src c = .base := hkind
    refine (clerkRow_of_issues h).trans (congrArg Host.Outcome.next (insExec_csr hins ?_ (queueWaits_of_kind ?_ ?_)))
    all_goals simp [hkind, plainKind]
  case load =>
    refine (clerkRow_of_issues h).trans (congrArg Host.Outcome.next ?_)
    rw [insExec, hins]
    exact if_pos hcell
  case store =>
    refine (clerkRow_of_issues h).trans (congrArg Host.Outcome.next ?_)
    rw [insExec, hins]
    exact if_pos hroom
  case rep =>
    refine (clerkRow_of_issues h).trans (congrArg Host.Outcome.next ?_)
    rw [insExec, hins]
  case repi =>
    refine (clerkRow_of_issues h).trans (congrArg Host.Outcome.next ?_)
    rw [insExec, hins]
  case quit =>
    refine (clerkRow_of_issues h).trans (congrArg Host.Outcome.next ?_)
    rw [insExec, hins]
  case bell =>
    refine (clerkRow_of_issues h).trans (congrArg Host.Outcome.next ?_)
    rw [insExec, hins]
    exact if_neg hbell
  case lr =>
    refine (clerkRow_of_issues h).trans (congrArg Host.Outcome.next ?_)
    rw [insExec, hins]
    exact if_pos hcell
  case sc =>
    refine (clerkRow_of_issues h).trans (congrArg Host.Outcome.next ?_)
    rw [insExec, hins]
    exact if_pos hcell
  case fence =>
    obtain ⟨-, -, -, -, -, hkind, -, -, -⟩ := id h
    refine (clerkRow_of_issues h).trans (congrArg Host.Outcome.next ?_)
    rw [insExec, ins_eq_fence hkind]
    exact if_pos hdrain
  case fenceI =>
    obtain ⟨-, -, -, -, -, hkind, -, -, -⟩ := id h
    refine (clerkRow_of_issues h).trans (congrArg Host.Outcome.next ?_)
    rw [insExec, ins_eq_fenceI hkind]
  case wfi =>
    obtain ⟨-, -, -, -, -, hkind, -, -, -⟩ := id h
    refine (clerkRow_of_issues h).trans (congrArg Host.Outcome.next ?_)
    rw [insExec, ins_eq_wfi hkind]
    exact if_neg (by simpa using hirq)
  case mret =>
    obtain ⟨-, -, -, -, -, hkind, -, -, -⟩ := id h
    refine (clerkRow_of_issues h).trans (congrArg Host.Outcome.next ?_)
    rw [insExec, ins_eq_mret hkind]
  case retired =>
    obtain ⟨hcount, hx⟩ := clerkRetired_keeps i.len s.clk.cycles go (getTile s p).clerk
    rw [getTile_retire_same]
    refine ⟨hcount, ?_, ?_, hx, rfl, fun q hq => getTile_retire_other s rd i go hq⟩
    · rintro a rfl
      rfl
    · rintro rfl hends
      exact congrArg Clerk.pc (lpEndTests_of_none (hends 1 (by decide)) (hends 0 (by decide)))

end Sys2Proof.Machine
end

section
/-! SUPPORT. What the clerk's instructions leave (R212, R226, R236, R238). -/

-- One proof after another: threads that wait for each other count against the memory of the check.
set_option Elab.async false

namespace Sys2Proof.Machine

/-! ## Registers -/

theorem xSet_zero (k : Clerk) (v : Word) : xSet k 0 v = k := rfl

theorem xGet_xSet_same {r : Nat} (k : Clerk) (v : Word) (h : r ≠ 0) : xGet (xSet k r v) r = v := by
  simp [xGet, xSet, h]

theorem xGet_xSet_other {r q : Nat} (k : Clerk) (v : Word) (h : q ≠ r) : xGet (xSet k r v) q = xGet k q := by
  unfold xGet xSet
  split
  · rfl
  · split
    · rfl
    · exact kvGet_kvSet_other _ _ _ _ _ h

theorem resv_xSet (k : Clerk) (r : Nat) (v : Word) : (xSet k r v).resv = k.resv := by
  unfold xSet
  split <;> rfl

/-! ## The base set -/

theorem branchTaken_iff {f3 : Nat} (a b : Word) (h : f3 ∈ [0, 1, 4, 5, 6, 7]) :
    branchTaken f3 a b = true ↔ (f3 = 0 ∧ a = b) ∨ (f3 = 1 ∧ a ≠ b) ∨ (f3 = 4 ∧ a.toInt < b.toInt) ∨ (f3 = 5 ∧ b.toInt ≤ a.toInt)
      ∨ (f3 = 6 ∧ a.toNat < b.toNat) ∨ (f3 = 7 ∧ b.toNat ≤ a.toNat) := by
  simp only [List.mem_cons, List.not_mem_nil, or_false] at h
  rcases h with rfl | rfl | rfl | rfl | rfl | rfl <;> simp [branchTaken, BitVec.slt, BitVec.ult]

theorem mulOp_signed {a b : Word} (h : b ≠ 0) :
    mulOp 4 a b = BitVec.ofInt 32 (a.toInt.tdiv b.toInt) ∧ mulOp 6 a b = BitVec.ofInt 32 (a.toInt.tmod b.toInt) :=
  ⟨if_neg h, if_neg h⟩

theorem mulOp_unsigned {a b : Word} (h : b ≠ 0) : mulOp 5 a b = a / b ∧ mulOp 7 a b = a % b :=
  ⟨(if_neg h).trans (BitVec.udiv_def).symm, (if_neg h).trans (BitVec.umod_def).symm⟩

/-! ## Loops, reservations and MRET -/

theorem bitAt_setBit (n i : Nat) : bitAt (setBit n i) i = true := by
  unfold setBit
  split
  · assumption
  · have hpos : 0 < 2 ^ i := Nat.two_pow_pos i
    have hclear : n / 2 ^ i % 2 ≠ 1 := by simpa [bitAt] using ‹¬bitAt n i = true›
    simp only [bitAt, Nat.add_div_right n hpos, beq_iff_eq]
    omega

/-- A level is armed with its extent, its count and, with a count to run, as active. -/
theorem lpArm_effect {k : Clerk} {lv len : Nat} {n : Word} :
    (n = 0 → (lpArm k lv len n).2 = some (k.pc + 4 + BitVec.ofNat 32 (2 * len)).toNat)
    ∧ (n ≠ 0 → (lpArm k lv len n).2 = none ∧ bitAt (lpArm k lv len n).1.lpStatus lv = true) := by
  refine ⟨fun h => if_pos h, fun h => ⟨if_neg h, ?_⟩⟩
  simp only [lpArm, if_neg h]
  exact bitAt_setBit _ _

theorem clerk_setX (s : State) (p rd : Nat) (v : Word) : (getTile (setX s p rd v) p).clerk = xSet (getTile s p).clerk rd v :=
  congrArg Tile.clerk (getTile_modClerk_same s p _)

/-- SC.W without the reservation leaves the store, and writes 1. -/
theorem scExec_failed {s : State} {p rd a : Nat} {v : Word} (h : (getTile s p).clerk.resv ≠ some (a / 64 * 64)) :
    scExec s p rd a v = setX (modClerk s p (fun k => { k with resv := none })) p rd 1 := by
  simp [scExec, h]

/-- SC.W with the reservation writes 0. -/
theorem scExec_done {s : State} {p rd a : Nat} {v : Word} (h : (getTile s p).clerk.resv = some (a / 64 * 64)) :
    ∃ s1, scExec s p rd a v = setX (modClerk s1 p (fun k => { k with resv := none })) p rd 0 :=
  ⟨_, by
    simp only [scExec, h, beq_self_eq_true, if_true]
    rfl⟩

theorem resv_setX_cleared (s : State) (p rd : Nat) (v : Word) :
    (getTile (setX (modClerk s p (fun k => { k with resv := none })) p rd v) p).clerk.resv = none := by
  rw [clerk_setX, resv_xSet, getTile_modClerk_same]

/-- No loop test is owed where neither of its bits is set. -/
theorem mretDue_of_lt {k : Clerk} (h : k.lpStatus < 4) (lv : Nat) : mretDue k lv = false := by
  have hdiv : k.lpStatus / 2 ^ (2 + lv) = 0 :=
    Nat.div_eq_of_lt (lt_of_lt_of_le h (Nat.pow_le_pow_right (n := 2) (by decide) (by omega : 2 ≤ 2 + lv)))
  simp [mretDue, bitAt, hdiv]

/-- Settles O23: the results are those of `baseExec`, `mulOp`, `lpArm`, `scExec`, `lrExec` and `mretExec`. -/
theorem clerkInstructionResults : Obligations.ClerkInstructionResults := by
  refine ⟨⟨fun k v => ⟨rfl, xSet_zero k v⟩, fun k r q v hr => ⟨xGet_xSet_same k v hr, fun hq => xGet_xSet_other k v hq⟩,
    fun k len rd off => rfl, fun k len rd rs1 off => ?jalr, fun k len rd imm => ⟨rfl, rfl⟩, fun k len f3 a b off c _ hc hf3 => ?branch,
    fun k len rd a b => ?alu, fun a b => ?mul⟩, fun k lv len n hlv => ⟨rfl, rfl, rfl, lpArm_effect⟩, fun s p rd a v => ⟨?resv, fun h => ?failed,
    fun h hrd => ?done⟩, fun s p rd a => ?lr, fun k hk => ?mret⟩
  case jalr => exact ⟨_, rfl, by omega, by omega, by omega⟩
  case branch =>
    have htaken : (branchTaken f3 (xGet k a) (xGet k b) = true) = c := propext ((branchTaken_iff _ _ hf3).trans hc.symm)
    simp only [baseExec, htaken]
  case alu =>
    refine ⟨rfl, rfl, rfl, ?_, ?_, rfl, rfl, rfl, rfl, rfl, fun op imm himm => ?_⟩
    · simp [baseExec, aluOp, BitVec.slt]
    · simp [baseExec, aluOp, BitVec.ult]
    · simp only [baseExec, himm]
  case mul =>
    refine ⟨rfl, rfl, rfl, rfl, rfl, rfl, rfl, rfl, by decide, by decide, fun hb => ?_, fun k len f3 rd x y => rfl⟩
    obtain ⟨hquot, hrem⟩ := mulOp_unsigned (a := a) hb
    obtain ⟨hsquot, hsrem⟩ := mulOp_signed (a := a) hb
    exact ⟨hquot, hrem, hsquot, hsrem⟩
  case resv =>
    by_cases h : (getTile s p).clerk.resv = some (a / 64 * 64)
    · obtain ⟨s1, hs1⟩ := scExec_done (rd := rd) (v := v) h
      rw [hs1, resv_setX_cleared]
    · rw [scExec_failed h, resv_setX_cleared]
  case failed =>
    rw [scExec_failed h]
    refine ⟨?_, fun hrd => ?_⟩
    · rw [setX, getTile_modClerk_same, getTile_modClerk_same]
    · rw [clerk_setX, xGet_xSet_same _ _ hrd]
  case done =>
    obtain ⟨s1, hs1⟩ := scExec_done (rd := rd) (v := v) h
    rw [hs1, clerk_setX, xGet_xSet_same _ _ hrd]
  case lr =>
    rw [lrExec]
    exact congrArg (fun t : Tile => t.clerk.resv) (getTile_modClerk_same _ p _)
  case mret =>
    rw [mretExec_of_none fun lv _ => mretDue_of_lt hk lv]
    exact ⟨rfl, rfl, rfl, rfl⟩

end Sys2Proof.Machine
end

section
/-! SUPPORT. The rows of the CSR instructions, and what writes and reads of the registers do (R108, R216 to R223). -/

-- One proof after another: threads that wait for each other count against the memory of the check.
set_option Elab.async false

namespace Sys2Proof.Machine

/-! ## The rows -/

/-- A CSR instruction that issues is of the kind of its row. -/
theorem csrKind_of_issues {s : State} {p f3 rd src c : Nat} {i : Fetched} {kind : CKind} (h : issues s p i kind)
    (hins : i.ins = .csr f3 rd src c) : csrKind f3 rd src c = kind := by
  obtain ⟨-, -, -, -, -, hkind, -, -, -⟩ := h
  rw [hins] at hkind
  exact hkind

/-- A CSR instruction of a row without an effect or a wait of its own retires with `csrExec`'s effect. -/
theorem clerkRow_csr {s : State} {p f3 rd src c : Nat} {i : Fetched} {kind : CKind} (h : issues s p i kind)
    (hins : i.ins = .csr f3 rd src c) (hplain : plainKind kind) (hwait : queueWaits s p f3 rd src c = false) :
    clerkRow kind p s = .next (retire (csrExec s p f3 rd src c) p i rd none) :=
  (clerkRow_of_issues h).trans (congrArg Host.Outcome.next (insExec_csr hins ((csrKind_of_issues h hins).symm ▸ hplain) hwait))

/-- So does one of a row that does not read a channel. -/
theorem clerkRow_csr_free {s : State} {p f3 rd src c : Nat} {i : Fetched} {kind : CKind} (h : issues s p i kind)
    (hins : i.ins = .csr f3 rd src c) (hplain : plainKind kind) (hpop : kind ≠ .qpop) (hpeek : kind ≠ .qw) :
    clerkRow kind p s = .next (retire (csrExec s p f3 rd src c) p i rd none) :=
  clerkRow_csr h hins hplain
    (queueWaits_of_kind ((csrKind_of_issues h hins).symm ▸ hpop) ((csrKind_of_issues h hins).symm ▸ hpeek))

theorem queueWaits_qpop {s : State} {p f3 rd src c : Nat} (hkind : csrKind f3 rd src c = .qpop) :
    queueWaits s p f3 rd src c = (chan (getTile s p) (c - 0x840)).isEmpty := by
  rw [queueWaits, hkind]

theorem queueWaits_qw {s : State} {p f3 rd src c : Nat} (hkind : csrKind f3 rd src c = .qw) :
    queueWaits s p f3 rd src c = (chan (getTile s p) (getTile s p).clerk.qsel).isEmpty := by
  rw [queueWaits, hkind]

/-- The value that a CSR instruction writes. -/
def csrWritten (s : State) (p f3 src c : Nat) : Nat := csrNew f3 ((csrPeek s p c).getD 0) (csrSrc (getTile s p).clerk f3 src)

/-- The rows of TL_QSEND, TL_IM_FILL and TL_CLK_FAIL. -/
theorem insExec_qsend {s t : State} {p f3 rd src c : Nat} {i : Fetched} (hins : i.ins = .csr f3 rd src c)
    (hkind : csrKind f3 rd src c = .qsend) (hput : qsendPut s p (csrWritten s p f3 src c) = some t) :
    insExec s p i = retire (if csrReads f3 rd then setX t p rd 0 else t) p i rd none := by
  rw [csrWritten] at hput
  rw [insExec, hins]
  dsimp only
  rw [hkind, hput]

theorem insExec_imFill {s : State} {p f3 rd src c : Nat} {i : Fetched} (hins : i.ins = .csr f3 rd src c)
    (hkind : csrKind f3 rd src c = .imFill) (hcells : fillCells s p (csrWritten s p f3 src c) = true) :
    insExec s p i = retire (if csrReads f3 rd then setX (imFillPut s p (csrWritten s p f3 src c) ((getTile s p).clerk.pc.toNat + i.len)) p rd 0
      else imFillPut s p (csrWritten s p f3 src c) ((getTile s p).clerk.pc.toNat + i.len)) p i rd none := by
  rw [csrWritten] at hcells
  rw [insExec, hins]
  dsimp only
  rw [hkind]
  exact if_neg (by simp [hcells])

theorem insExec_clkFail {s : State} {p f3 rd src c : Nat} {i : Fetched} (hins : i.ins = .csr f3 rd src c)
    (hkind : csrKind f3 rd src c = .clkFail) :
    insExec s p i = clerkFault (modClerk s p (fun k => fetchCount k i.len)) p (toLe 2 (bits (csrWritten s p f3 src c) 15 0)) := by
  rw [insExec, hins]
  dsimp only
  rw [hkind]
  rfl

/-! ## Writes and reads -/

/-- A write that R14 takes changes the tile as its register says. -/
theorem csrPut_of_good {s : State} {p c v : Nat} {f : Tile → Tile} (hgood : csrBad c v = false)
    (hf : ∀ t : Tile, (if c == 0x81A then { t with num := { t.num with ovr := BitVec.ofNat 32 (Nat.land v 0xF337) } }
      else if c == 0x830 then { t with fuller := { t.fuller with len := bits v 19 0 } }
      else if c == 0x831 then { t with fuller := { t.fuller with res0 := BitVec.ofNat 32 v } }
      else if c == 0x832 then { t with fuller := { t.fuller with res1 := BitVec.ofNat 32 v } }
      else if c == 0x855 then { t with seq := { t.seq with flags := Nat.lor t.seq.flags (bits v 7 0) } }
      else if c == 0x897 then { t with router := rtSelWrite v t.router }
      else if c == 0x8B3 then { t with tally := { t.tally with sel := bits v 6 0 } }
      else if 0x300 ≤ c && c < 0x400 then { t with clerk := stdPut c v t.clerk }
      else { t with clerk := clerkPut c v t.clerk }) = f t) : csrPut s p c v = modTile s p f :=
  (if_neg (by simp [hgood])).trans (congrArg (modTile s p) (funext hf))

/-- A pop takes the head of its channel. -/
theorem chan_popChan {s : State} {p n cc : Nat} {e : ChEnt} {rest : List ChEnt} (hhead : chan (getTile s p) n = e :: rest)
    (hcredit : e.credited = false) : chan (getTile (popChan s p n cc) p) n = rest := by
  unfold popChan
  rw [hhead]
  dsimp only
  rw [if_neg (by simp [hcredit]), getTile_modTile_same]
  exact kvGet_kvSet_same _ _ _ _

/-- Settles O24: a CSR row is `insExec` of its kind, and the effects are those of `csrPut`, `csrTake`, `popChan` and `qsendPut`. -/
theorem clerkCsrRowsAndEffects : Obligations.ClerkCsrRowsAndEffects := by
  refine ⟨fun p f3 rd src c i s hins => ⟨fun h hchan => ?pop, fun h hchan => ?peek, fun t h hput => ?send, fun t h hcells ht => ?fill,
    fun h => ?flags, fun h => ?hold, fun h => ?status, fun h => ?fail, fun h => ?sel, fun h => ?amax, fun h => ?counter, fun h => ?write⟩,
    fun s p v => csrPut_of_good rfl fun t => rfl, fun s p v => csrPut_of_good rfl fun t => rfl,
    fun s p v => csrPut_of_good rfl fun t => rfl, fun s p v hport => csrPut_of_good ?_ fun t => rfl, fun s p n hn => ?popRead,
    fun s p k hk => ?amaxRead, fun s p n cc e rest hhead hcredit => chan_popChan hhead hcredit, fun s p n cc hempty => ?empty,
    fun s p v hnone hbit => ?failed, fun s p v hnone hbit => ?waits⟩
  case pop => exact clerkRow_csr h hins (by simp [plainKind]) ((queueWaits_qpop (csrKind_of_issues h hins)).trans hchan)
  case peek => exact clerkRow_csr h hins (by simp [plainKind]) ((queueWaits_qw (csrKind_of_issues h hins)).trans hchan)
  case send => exact (clerkRow_of_issues h).trans (congrArg Host.Outcome.next (insExec_qsend hins (csrKind_of_issues h hins) hput))
  case fill =>
    rw [ht]
    exact (clerkRow_of_issues h).trans (congrArg Host.Outcome.next (insExec_imFill hins (csrKind_of_issues h hins) hcells))
  case fail => exact (clerkRow_of_issues h).trans (congrArg Host.Outcome.next (insExec_clkFail hins (csrKind_of_issues h hins)))
  case flags | hold | status | sel | amax | counter | write =>
    exact clerkRow_csr_free h hins (by simp [plainKind]) (by simp) (by simp)
  · simpa [csrBad] using hport
  case popRead =>
    have hrange : (0x840 ≤ 0x840 + n && 0x840 + n ≤ 0x847) = true := by simp; omega
    rw [csrTake, if_pos hrange, Nat.add_sub_cancel_left]
  case amaxRead =>
    have hno : ¬ (0x840 ≤ 0x810 + k && 0x810 + k ≤ 0x847) = true := by simp; omega
    have hrange : (0x810 ≤ 0x810 + k && 0x810 + k ≤ 0x817) = true := by simp; omega
    rw [csrTake, if_neg hno, if_pos hrange, Nat.add_sub_cancel_left]
  case empty =>
    rw [popChan, hempty]
  case failed => exact (if_neg (by simp [hnone])).trans (if_pos hbit)
  case waits => exact (if_neg (by simp [hnone])).trans (if_neg (by simp [hbit]))

end Sys2Proof.Machine
end

section
/-! SUPPORT. What a router grants, and how arrivals and raises combine (R251, R252, R259, R261, R262). -/

-- One proof after another: threads that wait for each other count against the memory of the check.
set_option Elab.async false

namespace Sys2Proof.Machine

/-! ## What an output grants -/

theorem pairwise_upto (a n : Nat) : (upto a n).Pairwise (· < ·) := by
  induction n generalizing a with
  | zero => exact List.Pairwise.nil
  | succ n ih =>
    refine List.Pairwise.cons (fun b hb => ?_) (ih (a + 1))
    have hrange := (mem_upto _ _ _).mp hb
    omega

/-- What an input presents bears the input. -/
theorem input_of_inputCand {s : State} {l o i : Nat} {c : Cand} (h : inputCand s l o i = some c) : c.input = i := by
  have hall : ∀ (cs : List Cand) (b : Option Cand), (∀ x ∈ cs, x.input = i) → (∀ x, b = some x → x.input = i) →
      ∀ x, cs.foldl (fun b c => match b with
        | none => some c
        | some x => if c.seq < x.seq || (c.seq == x.seq && c.buf.seq < x.buf.seq) then some c else some x) b = some x → x.input = i := by
    intro cs
    induction cs with
    | nil => exact fun b _ hb x hx => hb x hx
    | cons d ds ih =>
      intro b hcs hb x hx
      refine ih _ (fun y hy => hcs y (List.mem_cons_of_mem _ hy)) (fun y hy => ?_) x hx
      have hd := hcs d List.mem_cons_self
      cases b with
      | none => exact Option.some.inj hy ▸ hd
      | some z =>
        dsimp only at hy
        split at hy
        · exact Option.some.inj hy ▸ hd
        · exact Option.some.inj hy ▸ hb z rfl
  refine hall _ none (fun x hx => ?_) (fun x hx => nomatch hx) c h
  obtain ⟨q, -, hq⟩ := List.mem_filterMap.mp hx
  obtain ⟨m, -, hm⟩ := Option.map_eq_some_iff.mp hq
  exact hm ▸ rfl

/-- An output's candidates stand in the order of their inputs. -/
theorem candidates_pairwise (s : State) (l o : Nat) : (candidates s l o).Pairwise (fun a b => a.input < b.input) := by
  refine List.Pairwise.filterMap (R := (· < ·)) _ (fun i j hij a ha b hb => ?_) (pairwise_upto 0 5)
  rw [input_of_inputCand ha, input_of_inputCand hb]
  exact hij

/-- The pick is a candidate, and none comes before it in time or, in one cc, in the order of the inputs. -/
theorem pick_oldest {cs : List Cand} {c : Cand} (hcs : cs.Pairwise (fun a b => a.input < b.input)) (h : pick cs = some c) :
    c ∈ cs ∧ ∀ d ∈ cs, c.cc < d.cc ∨ (c.cc = d.cc ∧ c.input ≤ d.input) := by
  induction cs generalizing c with
  | nil => cases h
  | cons x xs ih =>
    obtain ⟨hx, hxs⟩ := List.pairwise_cons.mp hcs
    rw [pick] at h
    cases hpick : pick xs with
    | none =>
      have hnil : xs = [] := by
        cases xs with
        | nil => rfl
        | cons y ys =>
          rw [pick] at hpick
          split at hpick <;> cases hpick
      rw [hpick] at h
      cases h
      subst hnil
      exact ⟨List.mem_cons_self, fun d hd => .inr (by simp [List.mem_singleton.mp hd])⟩
    | some d =>
      obtain ⟨hmem, holdest⟩ := ih hxs hpick
      have hinput := hx d hmem
      rw [hpick] at h
      dsimp only at h
      split at h <;> obtain rfl := Option.some.inj h
      case isTrue hbefore =>
        have hcc : d.cc < x.cc := by simpa [candBefore] using hbefore
        refine ⟨List.mem_cons_of_mem _ hmem, fun e he => ?_⟩
        rcases List.mem_cons.mp he with rfl | he
        · exact .inl hcc
        · exact holdest e he
      case isFalse hbefore =>
        have hcc : x.cc ≤ d.cc := by simpa [candBefore] using hbefore
        refine ⟨List.mem_cons_self, fun e he => ?_⟩
        rcases List.mem_cons.mp he with rfl | he
        · exact .inr ⟨rfl, le_rfl⟩
        · rcases holdest e he with hlt | ⟨heq, hle⟩
          · exact .inl (by omega)
          · rcases Nat.lt_or_eq_of_le hcc with hlt | heq'
            · exact .inl (by omega)
            · exact .inr ⟨by omega, by omega⟩

theorem exec_routerHop {p o corr bad l : Nat} {c : Cand} {s : State} (hp : p < 4800) (hbypass : onBypass s p = true → domOn s 95 = true)
    (hlog : logOf s p = some l) (hpick : pick (candidates (fillAll s l) l o) = some c) :
    exec (.routerHop p o corr bad) s = .next (hopUpset (fillAll s l) l o corr bad c) := by
  refine (if_neg (not_not.mpr hp)).trans ((if_neg ?_).trans ?_)
  · cases h : onBypass s p <;> simp_all
  · rw [hlog]
    dsimp only
    rw [hpick]

/-! ## Combiners -/

theorem combineRun_of_waiting {kind p input l : Nat} {f : State → Nat → Nat → Packet → State} {k : Packet} {s : State} (hp : p < 4800)
    (hlog : logOf s p = some l) (hbypass : onBypass s p = false) (hpkt : combinePkt s p input kind = some k) :
    combineRun kind f p input s = .next (f s p input k) := by
  refine (if_neg (not_not.mpr hp)).trans ?_
  rw [hlog, hpkt]
  dsimp only
  rw [if_neg (by simp [hbypass])]

/-- The context that an arrival meets in its router. -/
def barCtxOf (s : State) (p : Nat) (k : Packet) : BarCtx :=
  (kvGet none (getTile s p).router.bar (k.sub % 8)).getD { key := k.key, mask := k.payload, bell := k.aux, arrived := [] }

/-- The inputs that have arrived with an arrival at `input`. -/
def barArrived (x : BarCtx) (input : Nat) : List Nat := if x.arrived.contains input then x.arrived else x.arrived ++ [input]

/-- Have all sources of a context arrived? -/
def barDone (s : State) (p : Nat) (k : Packet) (x : BarCtx) (arr : List Nat) : Bool :=
  (expectedFrom (logD s p) (fld k.payload 0x14 2) (maskRows x.mask) (maskCols x.mask)).all (fun i => arr.contains i)

/-- The router with a context of an arrival's identifier put. -/
def barSet (s : State) (p : Nat) (k : Packet) (v : Option BarCtx) : State :=
  modRouter s p (fun r => { r with bar := kvSet none r.bar (k.sub % 8) v })

theorem barCombine_key {s : State} {p input : Nat} {k : Packet} (h : (barCtxOf s p k).key ≠ k.key) :
    barCombine s p input k = keyDrop (takeBuf s p input) p input k :=
  if_pos (show ((barCtxOf s p k).key != k.key) = true by simp [h])

theorem barCombine_stale {s : State} {p input : Nat} {k : Packet} (hkey : (barCtxOf s p k).key = k.key) (h : k.aux ≠ s.clk.bell % 2 ^ 32) :
    barCombine s p input k = staleDrop (takeBuf s p input) p k :=
  (if_neg (show ¬ ((barCtxOf s p k).key != k.key) = true by simp [hkey])).trans (if_pos (by simpa using h))

/-- An arrival in time waits in its context, or ends it. -/
theorem barCombine_taken {s : State} {p input : Nat} {k : Packet} (hkey : (barCtxOf s p k).key = k.key) (hbell : k.aux = s.clk.bell % 2 ^ 32) :
    barCombine s p input k = (if !(barDone s p k (barCtxOf s p k) (barArrived (barCtxOf s p k) input)) then
        takeBuf (barSet s p k (if barDone s p k (barCtxOf s p k) (barArrived (barCtxOf s p k) input) then none
          else some { barCtxOf s p k with arrived := barArrived (barCtxOf s p k) input })) p input
      else if logD s p == fld k.payload 0x14 2 then
        rootSend (takeBuf (barSet s p k (if barDone s p k (barCtxOf s p k) (barArrived (barCtxOf s p k) input) then none
          else some { barCtxOf s p k with arrived := barArrived (barCtxOf s p k) input })) p input) p 4 k
      else onward (barSet s p k (if barDone s p k (barCtxOf s p k) (barArrived (barCtxOf s p k) input) then none
          else some { barCtxOf s p k with arrived := barArrived (barCtxOf s p k) input })) p input k) :=
  (if_neg (show ¬ ((barCtxOf s p k).key != k.key) = true by simp [hkey])).trans ((if_neg (by simpa using hbell)).trans rfl)

/-- An arrival that is not the last expected waits in the context. -/
theorem barCombine_waits {s : State} {p input : Nat} {k : Packet} (hkey : (barCtxOf s p k).key = k.key) (hbell : k.aux = s.clk.bell % 2 ^ 32)
    (hwait : ∃ i ∈ expectedFrom (logD s p) (fld k.payload 0x14 2) (maskRows (barCtxOf s p k).mask) (maskCols (barCtxOf s p k).mask),
      i ∉ barArrived (barCtxOf s p k) input) :
    barCombine s p input k = takeBuf (barSet s p k (some { barCtxOf s p k with arrived := barArrived (barCtxOf s p k) input })) p input := by
  obtain ⟨i, hi, hmissing⟩ := hwait
  have hopen : barDone s p k (barCtxOf s p k) (barArrived (barCtxOf s p k) input) = false :=
    List.all_eq_false.mpr ⟨i, hi, by simpa using hmissing⟩
  rw [barCombine_taken hkey hbell, hopen]
  rfl

/-- The last one is answered at the root, or goes on toward it. -/
theorem barCombine_done {s : State} {p input : Nat} {k : Packet} (hkey : (barCtxOf s p k).key = k.key) (hbell : k.aux = s.clk.bell % 2 ^ 32)
    (hall : ∀ i ∈ expectedFrom (logD s p) (fld k.payload 0x14 2) (maskRows (barCtxOf s p k).mask) (maskCols (barCtxOf s p k).mask),
      i ∈ barArrived (barCtxOf s p k) input) :
    barCombine s p input k = if logD s p == fld k.payload 0x14 2 then rootSend (takeBuf (barSet s p k none) p input) p 4 k
      else onward (barSet s p k none) p input k := by
  have hdone : barDone s p k (barCtxOf s p k) (barArrived (barCtxOf s p k) input) = true :=
    List.all_eq_true.mpr fun i hi => by simpa using hall i hi
  rw [barCombine_taken hkey hbell, hdone]
  rfl

/-- Settles O28: the pick by induction on the candidates (`pick_oldest`); the combiners case by case of their definitions. -/
theorem routersAndCombiners : Obligations.RoutersAndCombiners := by
  refine ⟨⟨fun p o corr bad l c s hp hbypass hlog hpick => ⟨_, exec_routerHop hp hbypass hlog hpick, fun hbad => if_pos hbad, fun _ => rfl⟩,
    fun cs c hcs h => pick_oldest hcs h, candidates_pairwise⟩, fun p input l k s hp hlog hbypass => ⟨fun hpkt => ⟨_, combineRun_of_waiting hp hlog
      hbypass hpkt, rfl⟩, fun hpkt => ⟨_, combineRun_of_waiting hp hlog hbypass hpkt, rfl⟩⟩,
    fun p input k s x hx => ⟨fun hkey => ?barKey, fun hkey hstale => ?barStale, fun hkey hbell arr harr => ⟨fun hwait => ?barWaits,
      fun hdone => ⟨fun hroot => ?barRoot, fun hroot => ?barOnward⟩⟩⟩,
    fun p input k s => ⟨fun hset hkey => ?flagKey, fun hfree hstale => ?flagStale, fun hset hbell u hu => ⟨fun hroot => ?flagRoot,
      fun hroot => ?flagOnward⟩, fun hset hkey hbell => ?flagAgain⟩⟩
  case barKey => 
    subst hx
    exact barCombine_key hkey
  case barStale => 
    subst hx
    exact barCombine_stale hkey hstale
  case barWaits =>
    subst hx harr
    exact barCombine_waits hkey hbell hwait
  case barRoot =>
    subst hx harr
    exact (barCombine_done hkey hbell hdone).trans (if_pos (by simpa using hroot))
  case barOnward =>
    subst hx harr
    exact (barCombine_done hkey hbell hdone).trans (if_neg (by simpa using hroot))
  case flagKey => simp [flagCombine, hset, hkey]
  case flagStale => exact (if_neg (by rcases hfree with h | h <;> simp [h])).trans (if_pos (by simpa using hstale))
  case flagRoot => simp [flagCombine, hset, hbell, hroot, hu]
  case flagOnward => simp [flagCombine, hset, hbell, hroot, hu]
  case flagAgain => simp [flagCombine, hset, hkey, hbell, staleCount]

end Sys2Proof.Machine
end

section
/-! SUPPORT. A tile's sinks: what an ejected packet leaves in its tile (R59, R263, R264, R283). -/

-- One proof after another: threads that wait for each other count against the memory of the check.
set_option Elab.async false

namespace Sys2Proof.Machine

/-! ## The packet taken -/

/-- A packet ejected leaves the router's buffer, and nothing else changes. -/
theorem ejectTake_taken {s u : State} {p : Nat} {want : Packet → Bool} {k : Packet} (h : ejectTake s p want = some (k, u)) :
    ∃ v, u = modRouter s p (fun r => { r with eject := r.eject.eraseP (fun x => x.vc == v) }) := by
  obtain ⟨v, -, hv⟩ := List.exists_of_findSome?_eq_some h
  obtain ⟨x, -, hx⟩ := Option.map_eq_some_iff.mp hv
  exact ⟨v, (Prod.mk.inj hx).2.symm⟩

section
variable {s u : State} {p : Nat} {want : Packet → Bool} {k : Packet} (h : ejectTake s p want = some (k, u))
include h

theorem unrouted_taken (q : Nat) : unrouted q u = unrouted q s := by
  obtain ⟨v, rfl⟩ := ejectTake_taken h
  exact unrouted_modRouter _ _ _ _

theorem getTile_taken_other {q : Nat} (hq : q ≠ p) : getTile u q = getTile s q := by
  obtain ⟨v, rfl⟩ := ejectTake_taken h
  exact getTile_modTile_other _ _ _ _ hq

theorem getTile_taken_same :
    ∃ v, getTile u p = { getTile s p with router := { (getTile s p).router with eject := (getTile s p).router.eject.eraseP (fun x => x.vc == v) } } := by
  obtain ⟨v, rfl⟩ := ejectTake_taken h
  exact ⟨v, getTile_modTile_same _ _ _⟩

theorem taken_frame : Touches [.tiles] s u := by
  obtain ⟨v, rfl⟩ := ejectTake_taken h
  simp

/-- A sink works on the packet taken. -/
theorem sinkRun_of_taken (f : State → Nat → Packet → State) (hp : p < 4800) : sinkRun want f p s = .next (f u p k) := by
  refine (if_neg (not_not.mpr hp)).trans ?_
  rw [h]

theorem chan_taken (n : Nat) : chan (getTile u p) n = chan (getTile s p) n := by
  obtain ⟨v, hv⟩ := getTile_taken_same h
  rw [hv]
  rfl

theorem credits_taken (i : Nat) : credits (getTile u p) i = credits (getTile s p) i := credits_of_unrouted (unrouted_taken h p) i

theorem ctxCc_taken (n : Nat) : ctxCc u n = ctxCc s n := by
  have hframe := taken_frame h
  rw [ctxCc, ctxCc, hframe.clk, hframe.getPart n]

end

/-! ## Entries and counts -/

theorem chan_chanPush_same (s : State) (p n : Nat) (e : ChEnt) : chan (getTile (chanPush s p n e) p) n = chan (getTile s p) n ++ [e] := by
  rw [chanPush, getTile_modTile_same]
  exact kvGet_kvSet_same _ _ _ _

theorem chan_chanPush_other {n m : Nat} (s : State) (p : Nat) (e : ChEnt) (h : m ≠ n) :
    chan (getTile (chanPush s p n e) p) m = chan (getTile s p) m := by
  rw [chanPush, getTile_modTile_same]
  exact kvGet_kvSet_other _ _ _ _ _ h

theorem getTile_chanPush_other {p q : Nat} (s : State) (n : Nat) (e : ChEnt) (h : q ≠ p) : getTile (chanPush s p n e) q = getTile s q :=
  getTile_modTile_other _ _ _ _ h

/-- An arrival noted keeps all of its tile but what it counts. -/
theorem getTile_noteArrival_same (s : State) (p kind target source cc : Nat) :
    ∃ arrivals late, getTile (noteArrival s p kind target source cc) p = { getTile s p with arrivals := arrivals, late := late } := by
  rw [noteArrival, getTile_modTile_same]
  split
  · exact ⟨_, _, rfl⟩
  · exact ⟨_, _, rfl⟩

theorem getTile_noteArrival_other {p q : Nat} (s : State) (kind target source cc : Nat) (h : q ≠ p) :
    getTile (noteArrival s p kind target source cc) q = getTile s q := getTile_modTile_other _ _ _ _ h

/-- A completion noted keeps the tags. -/
theorem tags_groupDone (s : State) (p group source cc : Nat) :
    (getTile (groupDone s p group source cc) p).dma.tags = (getTile s p).dma.tags := by
  obtain ⟨arrivals, late, h⟩ := getTile_noteArrival_same
    (modDma s p (fun d => { d with done := kvSet 0 d.done group ((kvGet 0 d.done group + 1) % 2 ^ 32) })) p 2 group source cc
  rw [groupDone, h, dma_modDma]

/-- A job's answer frees its tag. -/
theorem tags_tagDone (s : State) (p tag : Nat) (j : DmaJob) (cc : Nat) : kvGet 0 (getTile (tagDone s p tag j cc) p).dma.tags tag = 0 := by
  have hfree : kvGet 0 (getTile (modDma s p (fun d => { d with tags := kvSet 0 d.tags tag 0 })) p).dma.tags tag = 0 := by
    rw [dma_modDma]
    exact kvGet_kvSet_same 0 (getTile s p).dma.tags tag 0
  unfold tagDone
  dsimp only
  split
  · rw [dma_modDma]
    exact hfree
  · split
    · rw [dma_modDma]
      exact hfree
    · rw [tags_groupDone, dma_modDma]
      exact hfree

/-- The outbound entry that a credit returned names. -/
def creditFor (t : Tile) (k : Packet) (i : Nat) : Bool :=
  t.installed && (outEntry t i).2.2 != 0 && (outEntry t i).1 == k.src && (outEntry t i).2.1 == k.sub % 8

/-- A tile with the credits of a packet returned. -/
def credited (k : Packet) (t : Tile) : Tile :=
  match (upto 0 16).find? (creditFor t k) with
  | some i => { t with outCredits := kvSet 0 t.outCredits i (credits t i + k.aux) }
  | none => t

theorem exec_creditReturnDelivery {s u : State} {p : Nat} {k : Packet} (hp : p < 4800)
    (h : ejectTake s p (fun k => k.kind == 2) = some (k, u)) : exec (.creditReturnDelivery p) s = .next (modTile u p (credited k)) :=
  sinkRun_of_taken h (fun s p k => modTile s p (credited k)) hp

theorem credited_of_found {t : Tile} {k : Packet} {i : Nat} (h : (upto 0 16).find? (creditFor t k) = some i) :
    credited k t = { t with outCredits := kvSet 0 t.outCredits i (credits t i + k.aux) } := by
  rw [credited, h]

theorem credited_of_none {t : Tile} {k : Packet} (h : (upto 0 16).find? (creditFor t k) = none) : credited k t = t := by
  rw [credited, h]

/-- A channel entry as its row delivers it. -/
def entryDeliver (s : State) (p : Nat) (k : Packet) : State :=
  if !(takesEntries (getTile s p)) then staleEntry s p k
  else noteArrival (chanPush s p (k.sub % 8) { bytes := k.payload, credited := true, sender := k.src }) p 1 (k.sub % 8) k.srcMod
    (ctxCc s (physPart p))

theorem exec_channelEntryDelivery {s u : State} {p : Nat} {k : Packet} (hp : p < 4800)
    (h : ejectTake s p (fun k => k.kind == 1) = some (k, u)) : exec (.channelEntryDelivery p) s = .next (entryDeliver u p k) :=
  sinkRun_of_taken h entryDeliver hp

theorem entryDeliver_of_taken {s : State} {p : Nat} {k : Packet} (h : takesEntries (getTile s p) = true) :
    entryDeliver s p k = noteArrival (chanPush s p (k.sub % 8) ⟨k.payload, true, k.src⟩) p 1 (k.sub % 8) k.srcMod (ctxCc s (physPart p)) :=
  if_neg (by simp [h])

theorem entryDeliver_of_refused {s : State} {p : Nat} {k : Packet} (h : takesEntries (getTile s p) = false) :
    entryDeliver s p k = staleEntry s p k :=
  if_pos (by simp [h])

/-- A release or a broadcast becomes a MARK entry of a tile that takes entries, and is counted by another. -/
theorem markDeliver_of_taken {s : State} {p : Nat} {k : Packet} (h : takesEntries (getTile s p) = true) :
    markDeliver s p k = chanPush s p (fld k.payload 0x16 1 % 8) (markEntry k) :=
  if_neg (by simp [h])

theorem markDeliver_of_refused {s : State} {p : Nat} {k : Packet} (h : takesEntries (getTile s p) = false) :
    markDeliver s p k = staleCount s p :=
  if_pos (by simp [h])

theorem marked_effect {s u : State} {p : Nat} {want : Packet → Bool} {k : Packet} (h : ejectTake s p want = some (k, u))
    (htakes : takesEntries (getTile u p) = true) :
    chan (getTile (markDeliver u p k) p) (fld k.payload 0x16 1 % 8) = chan (getTile s p) (fld k.payload 0x16 1 % 8) ++ [markEntry k]
    ∧ ∀ q, q ≠ p → getTile (markDeliver u p k) q = getTile s q := by
  rw [markDeliver_of_taken htakes]
  refine ⟨?_, fun q hq => (getTile_chanPush_other _ _ _ hq).trans (getTile_taken_other h hq)⟩
  rw [chan_chanPush_same, chan_taken h]

/-- A completion as its row delivers it. -/
def completionDeliver (s : State) (p : Nat) (k : Packet) : State :=
  match tagJob (getTile s p).dma k.sub with
  | some j => tagDone s p k.sub j (ctxCc s (physPart p))
  | none => s

theorem exec_writeCompletionDelivery {s u : State} {p : Nat} {k : Packet} (hp : p < 4800)
    (h : ejectTake s p (fun k => k.kind == 0xD) = some (k, u)) : exec (.writeCompletionDelivery p) s = .next (completionDeliver u p k) :=
  sinkRun_of_taken h completionDeliver hp

/-- Settles O29: each sink is `sinkRun` on the packet taken, which keeps all of the tile but the router's buffer. -/
theorem sinksDeliver : Obligations.SinksDeliver := by
  refine fun p k s u hp => ⟨fun h htakes => ?entry, fun h htakes => ?stale, fun h i hi => ?credit, fun h hnone => ?noCredit, fun h htakes => ?release,
    fun h htakes => ?broadcast, fun h hnone => ?free, fun h htakes => ?releaseMark, fun h htakes => ?broadcastMark, fun j h hj => ?done⟩
  case entry =>
    refine ⟨_, exec_channelEntryDelivery hp h, ?_⟩
    rw [entryDeliver_of_taken htakes]
    obtain ⟨arrivals, late, htile⟩ := getTile_noteArrival_same (chanPush u p (k.sub % 8) ⟨k.payload, true, k.src⟩) p 1 (k.sub % 8) k.srcMod
      (ctxCc u (physPart p))
    have hchan : ∀ n, chan (getTile (noteArrival (chanPush u p (k.sub % 8) ⟨k.payload, true, k.src⟩) p 1 (k.sub % 8) k.srcMod
        (ctxCc u (physPart p))) p) n = chan (getTile (chanPush u p (k.sub % 8) ⟨k.payload, true, k.src⟩) p) n := by
      intro n
      rw [htile]
      rfl
    refine ⟨?_, fun m hm => ?_, fun q hq => ?_⟩
    · rw [hchan, chan_chanPush_same, chan_taken h]
    · rw [hchan, chan_chanPush_other _ _ _ hm, chan_taken h]
    · rw [getTile_noteArrival_other _ _ _ _ _ hq, getTile_chanPush_other _ _ _ hq, getTile_taken_other h hq]
  case stale =>
    refine ⟨_, exec_channelEntryDelivery hp h, ?_⟩
    obtain ⟨v, hv⟩ := getTile_taken_same h
    rw [entryDeliver_of_refused htakes]
    have htile : getTile (staleEntry u p k) p = { getTile u p with router := { (getTile u p).router with
        dropStale := satAdd 8 (getTile u p).router.dropStale 1 } } := by
      rw [staleEntry, getTile_sendEvent]
      exact getTile_modTile_same _ _ _
    rw [htile, hv]
    refine ⟨rfl, rfl, ?_⟩
    have hinbox : (staleEntry u p k).reeve.inbox.length = u.reeve.inbox.length + 1 := List.length_append
    rw [hinbox, (taken_frame h).inbox]
  case credit =>
    refine ⟨_, exec_creditReturnDelivery hp h, ?_⟩
    rw [getTile_modTile_same, credited_of_found hi]
    refine ⟨?_, fun m hm => ?_, fun q hq => (getTile_modTile_other _ _ _ _ hq).trans (getTile_taken_other h hq)⟩
    · rw [← credits_taken h]
      exact kvGet_kvSet_same _ _ _ _
    · rw [← credits_taken h]
      exact kvGet_kvSet_other _ _ _ _ _ hm
  case noCredit =>
    refine ⟨_, exec_creditReturnDelivery hp h, ?_, fun q hq => (getTile_modTile_other _ _ _ _ hq).trans (getTile_taken_other h hq)⟩
    rw [getTile_modTile_same, credited_of_none hnone]
  case release => exact (sinkRun_of_taken h markDeliver hp).trans (congrArg Host.Outcome.next (markDeliver_of_refused htakes))
  case broadcast => exact (sinkRun_of_taken h markDeliver hp).trans (congrArg Host.Outcome.next (markDeliver_of_refused htakes))
  case free =>
    refine (exec_writeCompletionDelivery hp h).trans (congrArg Host.Outcome.next ?_)
    rw [completionDeliver, hnone]
  case releaseMark => exact ⟨_, sinkRun_of_taken h markDeliver hp, marked_effect h htakes⟩
  case broadcastMark => exact ⟨_, sinkRun_of_taken h markDeliver hp, marked_effect h htakes⟩
  case done =>
    refine ⟨_, exec_writeCompletionDelivery hp h, ?_⟩
    rw [completionDeliver, hj, ← ctxCc_taken h]
    exact ⟨rfl, tags_tagDone _ _ _ _ _⟩

end Sys2Proof.Machine
end

section
/-! SUPPORT. Bolts written and read back, and bolts refused (R274, R284, R342). -/

-- One proof after another: threads that wait for each other count against the memory of the check.
set_option Elab.async false

namespace Sys2Proof.Machine

/-! ## Reading lines -/

theorem memRead_append (m : Mem) (a x y : Nat) : memRead m a (x + y) = memRead m a x ++ memRead m (a + x) y := by
  induction x generalizing a with
  | zero => simp [memRead]
  | succ x ih => rw [Nat.add_right_comm, memRead, memRead, ih, Nat.add_assoc, Nat.add_comm 1 x, List.cons_append]

/-- Lines read one after another are the bytes they make. -/
theorem flatMap_lines (m : Mem) (a n j : Nat) :
    (upto j n).flatMap (fun i => memRead m (a + 64 * i) 64) = memRead m (a + 64 * j) (64 * n) := by
  induction n generalizing j with
  | zero => rfl
  | succ n ih =>
    rw [upto, List.flatMap_cons, ih, show 64 * (n + 1) = 64 + 64 * n by omega, memRead_append, show a + 64 * (j + 1) = a + 64 * j + 64 by omega]

theorem memRead_memWrite_outside (m : Mem) (a j n : Nat) (bs : List Byte) (h : j + n ≤ a ∨ a + bs.length ≤ j) :
    memRead (memWrite m a bs) j n = memRead m j n := by
  induction n generalizing j with
  | zero => rfl
  | succ n ih => rw [memRead, memRead, memByte_memWrite_outside m a j bs (by omega), ih (j + 1) (by omega)]

/-! ## A bolt put -/

theorem boltMeta_boltPut_same (s : State) (n b tally : Nat) (bs : List Byte) :
    boltMeta (boltPut s n b bs tally) n b = { written := true, tally := BitVec.ofNat 32 tally } := by
  simp [boltMeta, boltPut]

theorem boltMeta_boltPut_other {n b m c : Nat} (s : State) (tally : Nat) (bs : List Byte) (h : boltKey m c ≠ boltKey n b) :
    boltMeta (boltPut s n b bs tally) m c = boltMeta s m c := by
  simp [boltMeta, boltPut, kvGet_kvSet_other _ _ _ _ _ h]

/-- Bolts of the shares have keys of their own. -/
theorem boltKey_inj {n b m c : Nat} (hb : b < Config.shareBolts) (hc : c < Config.shareBolts) (h : boltKey m c = boltKey n b) :
    (m, c) = (n, b) := by
  have hpos : 0 < Config.shareBolts := by omega
  have hm : (boltKey m c) / Config.shareBolts = m := by
    rw [boltKey, Nat.mul_comm, Nat.mul_add_div hpos, Nat.div_eq_of_lt hc, Nat.add_zero]
  have hn : (boltKey n b) / Config.shareBolts = n := by
    rw [boltKey, Nat.mul_comm, Nat.mul_add_div hpos, Nat.div_eq_of_lt hb, Nat.add_zero]
  have hmn : m = n := by rw [← hm, ← hn, h]
  subst hmn
  exact Prod.ext rfl (Nat.add_left_cancel h)

theorem boltBytes_boltPut_same (s : State) (n b tally : Nat) (bs : List Byte) (h : bs.length = 4096) :
    boltBytes (boltPut s n b bs tally) n b = bs := by
  have hline : ∀ i, boltLine (boltPut s n b bs tally) n b i = memRead (memWrite s.dram (4096 * boltKey n b) bs) (4096 * boltKey n b + 64 * i) 64 := by
    intro i
    rw [boltLine, boltMeta_boltPut_same]
    rfl
  rw [boltBytes, List.flatMap_congr fun i _ => hline i, flatMap_lines, Nat.mul_zero, Nat.add_zero, show 64 * 64 = bs.length from h.symm]
  exact memRead_memWrite _ _ _

theorem boltTally_boltPut_same (s : State) (n b tally : Nat) (bs : List Byte) : boltTally (boltPut s n b bs tally) n b = tally % 2 ^ 32 := by
  rw [boltTally, boltMeta_boltPut_same]
  rfl

theorem boltBytes_boltPut_other {s : State} {n b m c tally : Nat} {bs : List Byte} (hlen : bs.length = 4096) (h : boltKey m c ≠ boltKey n b) :
    boltBytes (boltPut s n b bs tally) m c = boltBytes s m c := by
  refine List.flatMap_congr fun i hi => ?_
  have hi : i < 64 := by simpa using hi
  rw [boltLine, boltLine, boltMeta_boltPut_other s tally bs h]
  split
  · rfl
  · split
    · rfl
    · exact memRead_memWrite_outside _ _ _ _ _ (by omega)

theorem boltTally_boltPut_other {n b m c : Nat} (s : State) (tally : Nat) (bs : List Byte) (h : boltKey m c ≠ boltKey n b) :
    boltTally (boltPut s n b bs tally) m c = boltTally s m c := by
  rw [boltTally, boltTally, boltMeta_boltPut_other s tally bs h]

/-! ## A bolt refused or stored -/

theorem stackFail_frame (s : State) (e : Event) : Touches [.inbox, .parts] s (stackFail s e) := by simp [stackFail]

theorem inbox_stackFail (s : State) (e : Event) : (stackFail s e).reeve.inbox = s.reeve.inbox ++ [e] := by
  rw [stackFail, (failLots_frame _ _ _ _ _).inbox]
  rfl

/-- A bolt whose tally fails is counted and reported. -/
theorem boltWrite_of_bad {s : State} {k n b tally : Nat} {bs : List Byte} (h : crc32c bs ≠ tally) :
    boltWrite s k n b tally bs = stackFail (modStack s k (fun q => { q with tlyWrite := satAdd 16 q.tlyWrite 1 })) (boltEvent s k 0x0112 n b 0x0012) :=
  if_pos (by simpa using h)

theorem serve_frame (s : State) (k n b lines : Nat) : Touches [.mems] s (serve s k n b lines) := by simp [serve]

/-- One that matches, and is no slot bolt come twice, is put; what else changes is its stack. -/
theorem boltWrite_of_good {s : State} {k n b tally : Nat} {bs : List Byte} (h : crc32c bs = tally) (honce : slotTwice (getStack s k) n b = false) :
    Touches [.mems] (boltPut s n b bs tally) (boltWrite s k n b tally bs) := by
  unfold boltWrite
  rw [if_neg (by simpa using h), if_neg (by simp [honce])]
  dsimp only
  split
  · simp [Touches.iff_of (serve_frame _ _ _ _ _)]
  · exact serve_frame _ _ _ _ _

/-- Settles O30: bytes by the laws of the byte memory, bolts apart by their keys; a refusal by the frame of `stackFail`. -/
theorem boltsAreWrittenAndGuarded : Obligations.BoltsAreWrittenAndGuarded := by
  refine ⟨fun s n b tally bs hn hb hlen => ⟨boltBytes_boltPut_same s n b tally bs hlen, boltTally_boltPut_same s n b tally bs,
    fun m c hm hc hne => ?other, fun hwf => memWrite_wf _ _ _ hwf⟩, fun s k n b tally bs => ⟨fun hbad => ?refused, fun hgood honce => ?stored⟩⟩
  case other =>
    have hkey : boltKey m c ≠ boltKey n b := fun h => hne (boltKey_inj hb hc h)
    exact ⟨boltBytes_boltPut_other hlen hkey, boltTally_boltPut_other s tally bs hkey⟩
  case refused =>
    rw [boltWrite_of_bad hbad]
    have hframe := stackFail_frame (modStack s k (fun q => { q with tlyWrite := satAdd 16 q.tlyWrite 1 })) (boltEvent s k 0x0112 n b 0x0012)
    refine ⟨hframe.dram, hframe.bolts, ?_, ?_⟩
    · rw [hframe.getStack k, getStack_modStack_same]
    · rw [inbox_stackFail, List.length_append]
      rfl
  case stored =>
    have hframe := boltWrite_of_good (n := n) (b := b) hgood honce
    exact ⟨hframe.dram, hframe.bolts⟩

end Sys2Proof.Machine
end

section
/-! SUPPORT. The classes of a stack: what its answers keep of it, and each class at work (R23, R277 to R286, R294). -/

-- One proof after another: threads that wait for each other count against the memory of the check.
set_option Elab.async false

namespace Sys2Proof.Machine

/-! ## What a stack's answers keep -/

theorem Touches.foldl {F : List Fld} {β : Type} {g : State → β → State} (h : ∀ s b, Touches F s (g s b)) (l : List β) (s : State) :
    Touches F s (l.foldl g s) := foldl_rel (Touches.refl F) Touches.trans h l s

/-- A stack without the packets on their way to the mesh. -/
def unsent (k : Nat) (s : State) : Stack := { getStack s k with out := [] }

theorem unsent_modStack {s : State} {n k : Nat} {f : Stack → Stack} (h : ∀ q, { f q with out := [] } = { q with out := [] }) :
    unsent k (modStack s n f) = unsent k s := by
  by_cases hk : k = n
  · subst hk
    simp [unsent, h]
  · simp [unsent, getStack_modStack_other _ _ _ _ hk]

theorem unsent_of_touches {F : List Fld} {s t : State} (h : Touches F s t) (hF : .mems ∉ F) (k : Nat) : unsent k t = unsent k s :=
  congrArg (fun q : Stack => { q with out := [] }) (h.getStack k hF)

@[simp] theorem unsent_inputTake (s : State) (l input k : Nat) (pk : Packet) : unsent k (inputTake s l input pk) = unsent k s :=
  unsent_of_touches (F := [.tiles, .clk, .inbox, .parts]) (by simp) (by decide) k

theorem unsent_edgeFill (s : State) (l input vc k : Nat) : unsent k (edgeFill s l input vc) = unsent k s := by
  unfold edgeFill
  dsimp only
  repeat' split
  all_goals first | rfl | (rw [unsent_inputTake]; first | rfl | exact unsent_modStack fun _ => rfl)

theorem unsent_refill (s : State) (l input k : Nat) : unsent k (refill s l input) = unsent k s := by
  unfold refill
  split
  · exact unsent_of_touches (F := [.tiles, .clk]) (by simp) (by decide) k
  · exact foldl_keeps (fun s v => unsent_edgeFill s l input v k) _ s

theorem unsent_stackEmit (s : State) (n col k : Nat) (pks : List Packet) : unsent k (stackEmit s n col pks) = unsent k s := by
  rw [stackEmit, unsent_refill]
  exact unsent_modStack fun _ => rfl

theorem unsent_answer (s : State) (n tile k : Nat) (pks : List Packet) : unsent k (answer s n tile pks) = unsent k s :=
  unsent_stackEmit s n _ k pks

theorem edgeFill_frame (s : State) (l input vc : Nat) : Touches [.tiles, .clk, .inbox, .parts, .mems, .ports] s (edgeFill s l input vc) := by
  unfold edgeFill
  dsimp only
  repeat' split
  all_goals simp

theorem refill_frame (s : State) (l input : Nat) : Touches [.tiles, .clk, .inbox, .parts, .mems, .ports] s (refill s l input) := by
  unfold refill
  split
  · simp
  · exact Touches.foldl (fun s v => edgeFill_frame s l input v) _ s

theorem stackEmit_frame (s : State) (n col : Nat) (pks : List Packet) :
    Touches [.tiles, .clk, .inbox, .parts, .mems, .ports] s (stackEmit s n col pks) := by
  simp [stackEmit, Touches.iff_of (refill_frame _ _ _)]

theorem answer_frame (s : State) (n tile : Nat) (pks : List Packet) :
    Touches [.tiles, .clk, .inbox, .parts, .mems, .ports] s (answer s n tile pks) := stackEmit_frame s n _ pks

/-! ## A class at its slot -/

section
variable {k cls : Nat} {want : Packet → Bool} {can : Stack → Packet → Bool} {turned serves : State → Packet → State}
  {pk : Packet} {s : State}

/-- The first packet of a class, accepted and in its slot, is served. -/
theorem classRun_of_served (hk : k < stackCount) (hlost : (getStack s k).lost = false) (hok : pkAccepted pk = true)
    (hfirst : (getStack s k).inq.find? want = some pk) (hslot : slotClass (getStack s k) = some cls) (hcan : can (getStack s k) pk = true) :
    classRun k cls want can turned serves s = .next (serves (slotUsed (inqDrop s k want) k) pk) := by
  unfold classRun
  rw [if_neg (not_not.mpr hk), hfirst]
  simp [hlost, hok, hslot, hcan]

/-- One that is not accepted is counted and turned away. -/
theorem classRun_of_unaccepted (hk : k < stackCount) (hlost : (getStack s k).lost = false) (hok : pkAccepted pk = false)
    (hfirst : (getStack s k).inq.find? want = some pk) :
    classRun k cls want can turned serves s = .next (turned (stackKeyDrop (inqDrop s k want) k pk) pk) := by
  unfold classRun
  rw [if_neg (not_not.mpr hk), hfirst]
  simp [hlost, hok]

end

/-- Whether a stack has the turn and a tag for a read. -/
def readRoom (q : Stack) (pk : Packet) : Bool := !(boltWaits q (pkBolt pk) pk.born false) && svcRoom q (svcSrc q pk) (pkBolt pk)

/-- What a refused read is answered. -/
def readRefused (k : Nat) (s : State) (pk : Packet) : State := answer s k pk.src [refusedRead k pk]

/-- A read taken, with the lines that the command names as upset. -/
def readTaken (k corr : Nat) (bad : List Nat) (s : State) (pk : Packet) : State :=
  readTake (boltUpset s ((epPart pk.src).getD 0) (pk.addr / 64) bad) k corr pk

theorem exec_stackReadRequest (k corr : Nat) (bad : List Nat) (s : State) :
    exec (.stackReadRequest k corr bad) s = classRun k 0 isRead readRoom (readRefused k) (readTaken k corr bad) s := rfl

/-- A write packet taken. -/
def writeTaken (k : Nat) (s : State) (pk : Packet) : State := writeServe s k pk

theorem exec_stackMemoryWrite (k : Nat) (s : State) :
    exec (.stackMemoryWrite k) s = classRun k 1 isWrite writeRoom (wrDone k) (writeTaken k) s := rfl

/-- Whether the queue of its partition has room for a post. -/
def postRoom (q : Stack) (pk : Packet) : Bool := millRoom q ((epPart pk.src).getD 0)

theorem exec_millPostReceive (k : Nat) (s : State) :
    exec (.millPostReceive k) s = classRun k 1 isPost postRoom (wrDone k) (postServe k) s := rfl

theorem inqDrop_frame (s : State) (k : Nat) (want : Packet → Bool) : Touches [.mems] s (inqDrop s k want) := by simp [inqDrop]

theorem slotUsed_frame (s : State) (k : Nat) : Touches [.mems] s (slotUsed s k) := by simp [slotUsed]

theorem stackKeyDrop_frame (s : State) (k : Nat) (pk : Packet) : Touches [.mems, .inbox, .parts] s (stackKeyDrop s k pk) := by
  unfold stackKeyDrop
  dsimp only
  split <;> simp [stackKeyCount]

theorem keyViol_stackKeyDrop (s : State) (k : Nat) (pk : Packet) : (getStack (stackKeyDrop s k pk) k).keyViol = (getStack s k).keyViol + 1 := by
  have hframe : Touches [.inbox, .parts] (stackKeyCount s k) (stackKeyDrop s k pk) := by
    unfold stackKeyDrop
    dsimp only
    split <;> simp
  rw [hframe.getStack k, stackKeyCount, getStack_modStack_same]

/-- The descriptor of a mill post, as it waits. -/
def millPosted (pk : Packet) : MillEnt := { desc := pk.payload, src := pk.src, tag := pk.sub, key := pk.key, lot := fld pk.payload 0x3C 4 }

/-- A post with room enters its partition's queue. -/
theorem postServe_of_live {s : State} {k : Nat} {pk : Packet} (h : replaying s ((epPart pk.src).getD 0) = false) :
    postServe k s pk = modStack s k (fun q =>
      { q with queues := kvSet [] q.queues ((epPart pk.src).getD 0) (kvGet [] q.queues ((epPart pk.src).getD 0) ++ [millPosted pk]) }) :=
  if_neg (by simp [h])

/-! ## Spine requests -/

section
variable {k : Nat} {r : Remote} {rest : List Remote} {s : State}

/-- The first spine request of a stack that is not lost, in its slot or turned away, leaves the queue and is taken. -/
theorem exec_stackRemoteRequest (hk : k < stackCount) (hlost : (getStack s k).lost = false) (hfirst : (getStack s k).remote = r :: rest)
    (h : slotClass (getStack s k) = some 2 ∨ remoteKeyBad s r = true) :
    exec (.stackRemoteRequest k) s = .next (remoteTake (modStack s k (fun q => { q with remote := rest })) k r) := by
  show execStackRemoteRequest k s = _
  unfold execStackRemoteRequest
  rw [if_neg (not_not.mpr hk), hfirst]
  refine if_neg ?_
  rcases h with h | h <;> simp [hlost, h]

theorem remoteTake_served (hlost : (getStack s k).lost = false) (hkey : remoteKeyBad s r = false) :
    remoteTake s k r = remoteServe (slotUsed s k) k r := by
  rw [remoteTake, if_neg (by simp [hlost]), if_neg (by simp [hkey])]

theorem remoteTake_turned (hlost : (getStack s k).lost = false) (hkey : remoteKeyBad s r = true) (hmill : r.mill = none) :
    remoteTake s k r = sendEvent (stackKeyCount s k) (stackEvent s k 0x0155 r.part 0xFF 0) := by
  rw [remoteTake, if_neg (by simp [hlost]), if_pos hkey, remoteTurned, hmill]

end

/-! ## Merged windows -/

/-- What a window's closing takes of a stack's counts of service. -/
def winServed (w : MergeWin) (q : Stack) : Stack := w.tiles.foldl (fun q t => svcDown (mergedSrc + t) (boltKey w.part w.bolt) q) q

theorem svcDown_keeps {α : Type} {g : Stack → α} (h : ∀ (q : Stack) svc, g { q with svc := svc } = g q) (src key : Nat) (q : Stack) :
    g (svcDown src key q) = g q := by
  unfold svcDown
  split
  · rfl
  · split <;> exact h _ _

theorem winServed_keeps {α : Type} {g : Stack → α} (h : ∀ (q : Stack) svc, g { q with svc := svc } = g q) (w : MergeWin) (q : Stack) :
    g (winServed w q) = g q := foldl_keeps (fun q _ => svcDown_keeps h _ _ q) _ q

theorem readLines_frame (s : State) (k n b line corr : Nat) : Touches [.mems, .inbox, .parts] s (readLines s k n b line corr).2 := by
  unfold readLines
  dsimp only
  split <;> simp [Touches.iff_of (serve_frame _ _ _ _ _), Touches.iff_of (stackFail_frame _ _)]

/-- A read of lines counts, and leaves the rest of its stack. -/
theorem readLines_keeps {α : Type} {g : Stack → α}
    (h : ∀ (q : Stack) grp intv dom cor unc, g { q with grp := grp, intv := intv, dom := dom, eccCor := cor, eccUnc := unc } = g q)
    (s : State) (k n b line corr : Nat) : g (getStack (readLines s k n b line corr).2 k) = g (getStack s k) := by
  unfold readLines
  dsimp only
  split
  · rw [serve, getStack_modStack_same, getStack_modStack_same]
    exact h (getStack s k) _ _ _ _ _
  · rw [(stackFail_frame _ _).getStack k, serve, getStack_modStack_same, getStack_modStack_same]
    exact h (getStack s k) _ _ _ _ _

section
variable {k corr : Nat} {w : MergeWin} {s : State}

theorem winRead_of_live (h : (getStack s k).lost = false) :
    winRead s k corr w = (boltTally s w.part w.bolt, readLines s k w.part w.bolt (w.addr % 64) corr) := if_neg (by simp [h])

theorem windowEnd_frame (h : (getStack s k).lost = false) :
    Touches [.tiles, .clk, .inbox, .parts, .mems, .ports] s (windowEnd s k corr w) := by
  refine Touches.trans ?_ (Touches.foldl (fun s g => stackEmit_frame s k _ _) _ _)
  rw [winRead_of_live h, touches_modStack (by decide)]
  exact (readLines_frame _ _ _ _ _ _).mono (by decide)

/-- A window that ends leaves the list, and its members but one are counted. -/
theorem unsent_windowEnd : unsent k (windowEnd s k corr w) =
    { winServed w (getStack (winRead s k corr w).2.2 k) with
      out := [], windows := (getStack (winRead s k corr w).2.2 k).windows.erase w,
      mergeCnt := ((getStack (winRead s k corr w).2.2 k).mergeCnt + (w.tiles.length - 1)) % 2 ^ 32 } := by
  unfold windowEnd
  dsimp only
  rw [foldl_keeps (fun s g => unsent_stackEmit s k _ k _), unsent, getStack_modStack_same]
  rfl

theorem windows_windowEnd (h : (getStack s k).lost = false) : (getStack (windowEnd s k corr w) k).windows = (getStack s k).windows.erase w := by
  have hread : (getStack (winRead s k corr w).2.2 k).windows = (getStack s k).windows := by
    rw [winRead_of_live h]
    exact readLines_keeps (g := Stack.windows) (fun _ _ _ _ _ _ => rfl) _ _ _ _ _ _
  rw [← hread]
  exact congrArg Stack.windows unsent_windowEnd

theorem mergeCnt_windowEnd (h : (getStack s k).lost = false) :
    (getStack (windowEnd s k corr w) k).mergeCnt = ((getStack s k).mergeCnt + (w.tiles.length - 1)) % 2 ^ 32 := by
  have hread : (getStack (winRead s k corr w).2.2 k).mergeCnt = (getStack s k).mergeCnt := by
    rw [winRead_of_live h]
    exact readLines_keeps (g := Stack.mergeCnt) (fun _ _ _ _ _ _ => rfl) _ _ _ _ _ _
  rw [← hread]
  exact congrArg Stack.mergeCnt unsent_windowEnd

end

/-! ## Bolts that arrive in packets -/

/-- The bolt that a write packet joins. -/
def wrJoined (s : State) (k : Nat) (pk : Packet) : WrAsm :=
  wrAdd pk (((getStack s k).wr.find? (wrIs ((epPart pk.src).getD 0) pk)).getD
    { src := pk.src, part := (epPart pk.src).getD 0, bolt := pk.addr / 64, aux := pk.aux, key := pk.key, lines := [], tags := [] })

/-- The bolts that wait for packets, without that one. -/
def wrOthers (s : State) (k : Nat) (pk : Packet) : List WrAsm := (getStack s k).wr.eraseP (wrIs ((epPart pk.src).getD 0) pk)

section
variable {s : State} {k : Nat} {pk : Packet}

theorem writeServe_of_short (h : (wrJoined s k pk).tags.length < 16) :
    writeServe s k pk = modStack s k (fun q => { q with wr := wrOthers s k pk ++ [wrJoined s k pk] }) := if_pos h

theorem writeServe_of_full (h : ¬ (wrJoined s k pk).tags.length < 16) (hreplay : replaying s ((epPart pk.src).getD 0) = false) :
    writeServe s k pk = answer (boltWrite (modStack s k (fun q => { q with wr := wrOthers s k pk })) k ((epPart pk.src).getD 0)
        (wrJoined s k pk).bolt (wrJoined s k pk).aux (wrBytes (wrJoined s k pk))) k (wrJoined s k pk).src
      ((wrJoined s k pk).tags.map (fun t => writeCompletion k (wrJoined s k pk).key (wrJoined s k pk).src t pk.table)) := by
  refine (if_neg h).trans ?_
  rw [hreplay]
  rfl

end

/-- Settles O32: each class by `classRun` at its slot; a window by what its read and its answers leave of the stack. -/
theorem stackServesItsClasses : Obligations.StackServesItsClasses := by
  refine ⟨fun k corr bad pk s hk hlost hok => ⟨fun hfirst hslot hwait hroom => ?read, fun hfirst hslot hroom => ?write,
      fun hfirst hslot hlive hroom => ?post⟩,
    fun k r rest s u hk hlost hfirst hu => ⟨fun hslot hkey => ⟨fun hmill hwhole => ?stored, fun hmill hhost hlen => ?merged, fun m hmill => ?fetched⟩,
      fun hkey hmill => ?turned⟩,
    fun k corr w rest s hk hwin hlost => ⟨fun hdue => ?closed, fun hearly => ?early⟩,
    fun k corr bad pk s hk hlost hok hfirst => ?refused,
    fun k pk s w hw => ?joined⟩
  case read =>
    rw [exec_stackReadRequest, classRun_of_served hk hlost hok hfirst hslot (by simp [readRoom, hwait, hroom])]
    rfl
  case write => rw [exec_stackMemoryWrite, classRun_of_served hk hlost hok hfirst hslot hroom, writeTaken]
  case post =>
    have hrow : exec (.millPostReceive k) s = .next (postServe k (slotUsed (inqDrop s k isPost) k) pk) := by
      rw [exec_millPostReceive, classRun_of_served hk hlost hok hfirst hslot (can := postRoom) hroom]
    have hlive' : replaying (slotUsed (inqDrop s k isPost) k) ((epPart pk.src).getD 0) = false := hlive
    rw [postServe_of_live hlive'] at hrow
    refine ⟨_, millPosted pk, hrow, ?_, rfl, rfl, rfl, rfl, rfl, rfl⟩
    simp [slotUsed, inqDrop]
  case stored =>
    subst hu
    have hlost' : (getStack (modStack s k (fun q => { q with remote := rest })) k).lost = false := by simpa using hlost
    rw [exec_stackRemoteRequest hk hlost hfirst (.inl hslot), remoteTake_served hlost' hkey, remoteServe, hmill]
    exact congrArg Host.Outcome.next (if_neg (by rcases hwhole with h | h <;> simp [h]))
  case merged =>
    subst hu
    have hlost' : (getStack (modStack s k (fun q => { q with remote := rest })) k).lost = false := by simpa using hlost
    rw [exec_stackRemoteRequest hk hlost hfirst (.inl hslot), remoteTake_served hlost' hkey, remoteServe, hmill]
    exact congrArg Host.Outcome.next (if_pos (by simp [hhost, hlen]))
  case fetched =>
    subst hu
    have hlost' : (getStack (modStack s k (fun q => { q with remote := rest })) k).lost = false := by simpa using hlost
    rw [exec_stackRemoteRequest hk hlost hfirst (.inl hslot), remoteTake_served hlost' hkey, remoteServe, hmill]
  case turned =>
    subst hu
    have hlost' : (getStack (modStack s k (fun q => { q with remote := rest })) k).lost = false := by simpa using hlost
    refine ⟨_, (exec_stackRemoteRequest hk hlost hfirst (.inr hkey)).trans (congrArg Host.Outcome.next (remoteTake_turned hlost' hkey hmill)), rfl, rfl, ?_⟩
    simp [stackKeyCount]
  case closed =>
    have hframe := windowEnd_frame (corr := corr) (w := w) hlost
    refine ⟨_, ?_, rfl, ?_, hframe.dram, hframe.bolts, mergeCnt_windowEnd hlost⟩
    · refine (if_neg (not_not.mpr hk)).trans ?_
      rw [hwin]
      exact if_neg (by simp [hlost]; omega)
    · rw [windows_windowEnd hlost, hwin, List.erase_cons_head]
  case early =>
    refine (if_neg (not_not.mpr hk)).trans ?_
    rw [hwin]
    exact if_pos (by simp [hearly])
  case refused =>
    have hdrop := inqDrop_frame s k isRead
    have hframe := ((hdrop.mono (by decide)).trans ((stackKeyDrop_frame _ k pk).mono (by decide))).trans (answer_frame _ k pk.src [refusedRead k pk])
    refine ⟨_, (exec_stackReadRequest k corr bad s).trans (classRun_of_unaccepted hk hlost hok hfirst), rfl, hframe.dram, hframe.bolts, ?_⟩
    have hkept := congrArg Stack.keyViol (unsent_answer (stackKeyDrop (inqDrop s k isRead) k pk) k pk.src k [refusedRead k pk])
    refine hkept.trans ((keyViol_stackKeyDrop _ k pk).trans ?_)
    rw [inqDrop, getStack_modStack_same]
  case joined =>
    have hw : w = wrJoined s k pk := hw
    subst hw
    refine ⟨fun hshort => ?short, fun hfull hlive htally honce => ?full⟩
    case short =>
      rw [writeServe_of_short hshort]
      exact ⟨rfl, rfl, by simp⟩
    case full =>
      rw [writeServe_of_full (by omega) hlive, (answer_frame _ _ _ _).dram]
      refine (boltWrite_of_good htally ?_).dram
      rw [getStack_modStack_same]
      exact honce

end Sys2Proof.Machine
end

section
/-! SUPPORT. Mills on their descriptors, and the upkeep of a stack (R271, R276, R287 to R297). -/

-- One proof after another: threads that wait for each other count against the memory of the check.
set_option Elab.async false

namespace Sys2Proof.Machine

/-! ## A mill's turn -/

section
variable {k n : Nat} {e : MillEnt} {res : Bool} {bad : List (Nat × Nat)} {s : State}

/-- On its partition's turn a running descriptor of the operation works on its next group, or completes. -/
theorem millRun_of_turn {op : Nat} (hk : k < stackCount) (hn : n < 12) (hlost : (getStack s k).lost = false)
    (hrun : kvGet none (getStack s k).running n = some e) (hturn : millTurn s k = some n) (hpart : (getPart s n).lost = false)
    (hop : fld e.desc 0 1 = op) :
    (∀ o, nextGroup s k n e = some o → millRun op k n res bad s = .next (groupWork s k n e o res bad))
      ∧ (nextGroup s k n e = none → millRun op k n res bad s = .next (millTurned (millComplete s k n e) k n)) := by
  have hrow : millRun op k n res bad s = match nextGroup s k n e with
      | none => .next (millTurned (millComplete s k n e) k n)
      | some o => .next (groupWork s k n e o res bad) := by
    unfold millRun
    rw [if_neg (not_not.mpr ⟨hk, hn⟩), hrun]
    exact if_neg (by simp [hop, hlost, hpart, hturn])
  exact ⟨fun o ho => by rw [hrow, ho], fun hnone => by rw [hrow, hnone]⟩

/-- On its partition's turn an ordered reduction works on its ready group, or completes. -/
theorem exec_millOrderedReduction (hk : k < stackCount) (hn : n < 12) (hlost : (getStack s k).lost = false)
    (hrun : kvGet none (getStack s k).running n = some e) (hturn : millTurn s k = some n) (hpart : (getPart s n).lost = false)
    (hop : fld e.desc 0 1 = 0x10) :
    exec (.millOrderedReduction k n res bad) s = match readyGroup s k n e with
      | some o => .next (groupWork s k n e o res bad)
      | none => .next (millTurned (millComplete s k n e) k n) := by
  show execMillOrderedReduction k n res bad s = _
  unfold execMillOrderedReduction
  rw [if_neg (not_not.mpr ⟨hk, hn⟩), hrun]
  exact if_neg (by simp [hop, hlost, hpart, hturn])

end

/-- A stack whose mill has taken the first of the queued descriptors. -/
def descTaken (n : Nat) (e : MillEnt) (rest : List MillEnt) (q : Stack) : Stack :=
  { q with queues := kvSet [] q.queues n rest, running := kvSet none q.running n (some e) }

theorem exec_millDescriptorTake {k n : Nat} {e : MillEnt} {rest : List MillEnt} {s : State} (hk : k < stackCount) (hn : n < 12)
    (hlost : (getStack s k).lost = false) (hrun : kvGet none (getStack s k).running n = none)
    (hq : kvGet [] (getStack s k).queues n = e :: rest) (hok : millDescOk e.desc = true) :
    exec (.millDescriptorTake k n) s = .next (modStack s k (descTaken n e rest)) := by
  refine (if_neg (not_not.mpr ⟨hk, hn⟩)).trans ?_
  rw [hrun, hq]
  dsimp only
  rw [if_neg (by simp [hlost]), if_pos hok]
  rfl

/-- A stack whose first slot arrival has been noted. -/
def slotNoted (n b : Nat) (rest : List (Nat × Nat)) (q : Stack) : Stack :=
  { q with
    slotQ := rest
    running := kvSet none q.running n ((kvGet none q.running n).map (slotNote b))
    queues := kvSet [] q.queues n (((kvGet [] q.queues n).take 64).map (slotNote b) ++ (kvGet [] q.queues n).drop 64) }

/-- With nothing of its partition running a slot arrival is noted and no more. -/
theorem exec_reductionSlotArrival {k n b : Nat} {rest : List (Nat × Nat)} {res : Bool} {bad : List (Nat × Nat)} {s : State}
    (hk : k < stackCount) (hfirst : (getStack s k).slotQ = (n, b) :: rest) (hrun : kvGet none (getStack s k).running n = none) :
    exec (.reductionSlotArrival k res bad) s = .next (modStack s k (slotNoted n b rest)) := by
  refine (if_neg (not_not.mpr hk)).trans ?_
  rw [hfirst]
  simp only [getStack_modStack_same, kvGet_kvSet_same, hrun, Option.map_none]
  rfl

theorem running_millComplete {s : State} {k n : Nat} {e : MillEnt} (h : e.src = 0xFFFF) :
    kvGet none (getStack (millComplete s k n e) k).running n = none := by
  have hcase : getStack (millComplete s k n e) k = getStack (modStack s k (fun q => { q with running := kvSet none q.running n none })) k := by
    unfold millComplete
    dsimp only
    rw [if_pos (by simp [h])]
    rfl
  rw [hcase, getStack_modStack_same, kvGet_kvSet_same]

/-! ## The patrol scrub -/

theorem boltUpset_frame (s : State) (n b : Nat) (bad : List Nat) : Touches [.bolts] s (boltUpset s n b bad) := by
  simp [boltUpset]

theorem rowCount_frame (k n b : Nat) (s : State) (v : Nat) : Touches [.mems, .inbox] s (rowCount k n b s v) := by
  unfold rowCount
  dsimp only
  split <;> simp

theorem scrubPos_rowCount (k n b : Nat) (s : State) (v : Nat) : (getStack (rowCount k n b s v) k).scrubPos = (getStack s k).scrubPos := by
  unfold rowCount
  dsimp only
  split <;> simp

/-- A bolt scrubbed: the scrub stands behind it, and no byte of the memory changes. -/
theorem scrubBolt_spec (s : State) (k key : Nat) (corr bad : List Nat) :
    (getStack (scrubBolt s k key corr bad) k).scrubPos = key + 1 ∧ (scrubBolt s k key corr bad).dram = s.dram := by
  let n := key / Config.shareBolts
  let b := key % Config.shareBolts
  let u := boltUpset s n b bad
  let v := serve (modStack u k (fun q => { q with scrubPos := key + 1, eccCor := (q.eccCor + corr.length) % 2 ^ 16 })) k n b 64
  have hpos : (getStack (corr.foldl (rowCount k n b) v) k).scrubPos = key + 1 :=
    (foldl_keeps (π := fun s => (getStack s k).scrubPos) (fun s x => scrubPos_rowCount k n b s x) corr v).trans (by simp [v, serve])
  have hdram : (corr.foldl (rowCount k n b) v).dram = s.dram := by
    have hv : Touches [.mems] u v := by simp [v, Touches.iff_of (serve_frame _ _ _ _ _)]
    rw [(Touches.foldl (fun s x => rowCount_frame k n b s x) corr v).dram, hv.dram, (boltUpset_frame s n b bad).dram]
  unfold scrubBolt
  dsimp only
  split
  · refine ⟨?_, hdram⟩
    simp only [getStack_sendEvent, getStack_modStack_same]
    exact hpos
  · split
    · refine ⟨?_, hdram⟩
      simp only [getStack_sendEvent, getStack_modStack_same]
      exact hpos
    · exact ⟨hpos, hdram⟩

/-! ## A stack that is lost -/

theorem lostAnswer_frame (s : State) (k : Nat) : Touches [.tiles, .clk, .inbox, .parts, .mems, .ports] s (lostAnswer s k) := by
  unfold lostAnswer
  split
  · exact Touches.refl _ _
  · refine Touches.trans ?_ (Touches.foldl (fun s w => answer_frame s k _ _) _ _)
    rw [touches_modStack (by decide)]
    exact Touches.foldl (fun s pk => answer_frame s k _ _) _ _

theorem ucieUp_lostAnswer (s : State) (k : Nat) : (getStack (lostAnswer s k) k).ucieUp = (getStack s k).ucieUp := by
  have hanswer : ∀ (s : State) tile pks, (getStack (answer s k tile pks) k).ucieUp = (getStack s k).ucieUp :=
    fun s tile pks => (congrArg Stack.ucieUp (unsent_answer s k tile k pks) :)
  unfold lostAnswer
  split
  · rfl
  · refine (foldl_keeps (π := fun s => (getStack s k).ucieUp) (fun s _ => hanswer s _ _) _ _).trans ?_
    rw [getStack_modStack_same]
    exact foldl_keeps (π := fun s => (getStack s k).ucieUp) (fun s _ => hanswer s _ _) _ s

theorem computeBegin_frame (s : State) : Touches [.ops, .pages, .due, .parts, .inbox, .tiles, .rows, .changes, .reeve] s (computeBegin s) :=
  (touches_computeBegin (List.Subset.refl _)).mpr (Touches.refl _ _)

theorem ucieUp_stackLost (s : State) (k : Nat) : (getStack (stackLost s k) k).ucieUp = (getStack s k).ucieUp := by
  rw [stackLost, (computeBegin_frame _).getStack k, ucieUp_lostAnswer, getStack_modStack_same]

theorem dram_stackLost (s : State) (k : Nat) : (stackLost s k).dram = s.dram := by
  rw [stackLost, (computeBegin_frame _).dram, (lostAnswer_frame _ k).dram]
  rfl

/-- A stack whose imbalance in a bank group has been reported. -/
def imbalanceReported (g : Nat) (q : Stack) : Stack :=
  { q with imbal := setBit q.imbal (dominant q g), imbalRun := kvSet 0 q.imbalRun g 0, dom := q.dom.filter (fun e => e.1 / 16 != g) }

/-- A state whose Reeve holds one report of an imbalance more. -/
def imbalanceHeld (k g : Nat) (s : State) : State :=
  { s with reeve := { s.reeve with imbal := s.reeve.imbal ++ [(s.clk.bell, k, dominant (getStack s k) g)] } }

theorem exec_interleaveImbalance {k g : Nat} {s : State} (hk : k < stackCount)
    (hg : (upto 0 4).find? (fun g => decide (16 ≤ kvGet 0 (getStack s k).imbalRun g)) = some g) :
    exec (.interleaveImbalance k) s = .next (modStack (imbalanceHeld k g s) k (imbalanceReported g)) := by
  refine (if_neg (not_not.mpr hk)).trans ?_
  rw [hg]
  rfl

/-- Settles O33: the rows of a mill by `millRun_of_turn`, the upkeep by the frames of what each row calls. -/
theorem millsAndStackUpkeep : Obligations.MillsAndStackUpkeep := by
  refine ⟨fun k n res bad e s hk hn hlost => ⟨fun rest hrun hq hok => ?taken, fun hrun hturn hpart => ⟨fun x r hx => ?group, fun hop => ?reduction⟩,
      fun b rest hfirst hrun => ?arrival, running_millComplete⟩,
    fun k s hk => ⟨?refresh, fun corr bad key hset hlost htest hnext => ?scrub, fun corr bad hset hlost htest hnext => ?anew, fun g hg => ?imbalance,
      fun m hm hup hlost => ?fence⟩⟩
  case taken =>
    refine ⟨_, exec_millDescriptorTake hk hn hlost hrun hq hok, ?_, ?_, ?_⟩
    · rw [getStack_modStack_same, descTaken, kvGet_kvSet_same]
    · rw [getStack_modStack_same, descTaken, kvGet_kvSet_same]
    · rw [getStack_modStack_same]
      rfl
  case group =>
    have hgroup : ∀ op, fld e.desc 0 1 = op → exec x s = millRun op k n r bad s →
        (∀ o, nextGroup s k n e = some o → ∃ t, exec x s = .next t ∧ t = groupWork s k n e o r bad)
          ∧ (nextGroup s k n e = none → ∃ t, exec x s = .next t ∧ t = millTurned (millComplete s k n e) k n) := by
      intro op hop hrow
      obtain ⟨hwork, hend⟩ := millRun_of_turn (res := r) (bad := bad) hk hn hlost hrun hturn hpart hop
      exact ⟨fun o ho => ⟨_, hrow.trans (hwork o ho), rfl⟩, fun hnone => ⟨_, hrow.trans (hend hnone), rfl⟩⟩
    rcases hx with ⟨hop, rfl, rfl⟩ | ⟨hop, rfl, rfl⟩ | ⟨hop, rfl, rfl⟩ | ⟨hop, rfl, rfl⟩ | ⟨hop, rfl, rfl⟩ | ⟨hop, rfl, rfl⟩ | ⟨hop, rfl, rfl⟩
    all_goals exact hgroup _ hop rfl
  case reduction =>
    have hrow := exec_millOrderedReduction (res := res) (bad := bad) hk hn hlost hrun hturn hpart hop
    exact ⟨fun o ho => ⟨_, by rw [hrow, ho], rfl⟩, fun hnone => ⟨_, by rw [hrow, hnone], rfl⟩⟩
  case arrival =>
    refine ⟨_, exec_reductionSlotArrival hk hfirst hrun, ?_, rfl, ?_⟩
    · rw [getStack_modStack_same]
      rfl
    · rw [getStack_modStack_same, slotNoted, kvGet_kvSet_same]
  case refresh =>
    exact ⟨_, if_neg (not_not.mpr hk), rfl, fun j hj => getStack_modStack_other _ _ _ _ hj, getStack_modStack_same _ _ _⟩
  case scrub =>
    obtain ⟨hpos, hdram⟩ := scrubBolt_spec s k key corr bad
    refine ⟨_, ?_, rfl, hpos, hdram⟩
    refine (if_neg (not_not.mpr hk)).trans ?_
    rw [if_neg (by simp [hset, hlost, htest]), hnext]
  case anew =>
    refine ⟨_, ?_, rfl, getStack_modStack_same _ _ (fun q => { q with scrubPos := 0, rowCorr := [] }), fun j hj => getStack_modStack_other _ _ _ _ hj⟩
    refine (if_neg (not_not.mpr hk)).trans ?_
    rw [if_neg (by simp [hset, hlost, htest]), hnext]
  case imbalance =>
    refine ⟨_, exec_interleaveImbalance hk hg, rfl, ?_, ?_, fun j hj => getStack_modStack_other _ _ _ _ hj⟩
    · rw [getStack_modStack_same]
      rfl
    · rw [getStack_modStack_same, imbalanceReported, kvGet_kvSet_same]
  case fence =>
    refine ⟨_, (if_neg (not_not.mpr ⟨hk, hm⟩)).trans (if_neg (by simp [hup])), ?_⟩
    rw [(withHealth_frame _ _).getStack k, (withHealth_frame _ _).dram]
    by_cases hfew : countOf 8 (bitAt (clrBit (getStack s k).ucieUp m)) < 7
    · rw [if_pos (by simp [hfew, hlost]), ucieUp_stackLost, dram_stackLost]
      exact ⟨by simp, (stackGone_stackLost _ k).trans (by simp [hfew]), rfl⟩
    · rw [if_neg (by simp [hfew])]
      exact ⟨by simp, by simp [hlost, hfew], rfl⟩

end Sys2Proof.Machine
end

section
/-! SUPPORT. Ports: what flits sent, messages discarded and joins lost keep of them; link training (R300 to R333, R451). -/

-- One proof after another: threads that wait for each other count against the memory of the check.
set_option Elab.async false

namespace Sys2Proof.Machine

/-! ## What the going down of a port keeps of it -/

/-- A port without its buffers' contents, its counts of discards and its wait for a domain's count. -/
def portDry (q : Port) : Port := { portBare q with txCur := [], txHdr := [], unacked := [], rxCur := [], firstBell := false }

theorem portDry_of_bare {a b : Port} (h : portBare a = portBare b) : portDry a = portDry b :=
  congrArg (fun q : Port => { q with txCur := [], txHdr := [], unacked := [], rxCur := [], firstBell := false }) h

theorem portDry_portDrain (s : State) (p q : Nat) : portDry (getPort (portDrain s p) q) = portDry (getPort s q) := by
  by_cases h : q = p
  · subst h
    unfold portDrain
    refine portDry_of_bare (foldl_keeps (π := fun s => portBare (getPort s q)) (fun s m => (Discards.refl s).discardMsg.bare q) _ _) |>.trans ?_
    rw [getPort_modPort_same]
    rfl
  · exact portDry_of_bare (portBare_portDrain h s)

theorem portDry_joinLost (s : State) (p q : Nat) : portDry (getPort (joinLost s p) q) = portDry (getPort s q) := by
  by_cases h : q = p
  · subst h
    unfold joinLost
    split
    · rw [getPort_modPort_same]
      rfl
    · rfl
  · rw [getPort_joinLost_other h]

/-! ## What training tells of a port -/

/-- A port's peer and wires, as its training found them. -/
def portPeer (q : Port) : Bool × Bool × Nat × Nat × Nat × List (Nat × Bool) :=
  (q.trained, q.peerValid, q.peerMod, q.peerPort, q.lat, q.laneMap)

theorem portPeer_sendData (q : Port) (c : Nat) : portPeer (sendData q c) = portPeer q := by
  unfold sendData
  dsimp only
  split <;> rfl

theorem portPeer_drainFlits (n : Nat) (q : Port) : portPeer (drainFlits n q) = portPeer q := by
  induction n generalizing q with
  | zero => rfl
  | succ n ih =>
    rw [drainFlits]
    split
    · rw [ih, portPeer_sendData]
    · rfl

theorem portPeer_portFlush (q : Port) : portPeer (portFlush q) = portPeer q := by
  unfold portFlush
  split
  · exact portPeer_drainFlits _ q
  · rfl

/-- A port in keep-alive runs on one lane, and what its training told of it stands. -/
theorem portKeepAlive_spec (s : State) (p : Nat) :
    (getPort (portKeepAlive s p) p).st = 7 ∧ (getPort (portKeepAlive s p) p).lanes = 1
      ∧ portPeer (getPort (portKeepAlive s p) p) = portPeer (getPort s p) := by
  unfold portKeepAlive
  dsimp only
  rw [getPort_modPort_same]
  refine ⟨rfl, rfl, ?_⟩
  have hdry : portDry (getPort (joinLost (portDrain (modPort s p (fun q => { portFlush q with st := 7 })) p) p) p)
      = portDry { portFlush (getPort s p) with st := 7 } := by
    rw [portDry_joinLost, portDry_portDrain, getPort_modPort_same]
  exact (congrArg portPeer hdry).trans (portPeer_portFlush (getPort s p))

/-! ## Held ports -/

/-- A port without its state, its lanes' counts and its conflicts, and without what discards change. -/
def portTold (q : Port) : Port := { portDry q with st := 0, bellActive := false, lane := [], conflict := 0 }

theorem portTold_of_dry {a b : Port} (h : portDry a = portDry b) : portTold a = portTold b :=
  congrArg (fun q : Port => { q with st := 0, bellActive := false, lane := [], conflict := 0 }) h

theorem portPeer_of_told {a b : Port} (h : portTold a = portTold b) : portPeer a = portPeer b := (congrArg portPeer h :)

theorem peerPwr_of_told {a b : Port} (h : portTold a = portTold b) : a.peerPwr = b.peerPwr := (congrArg Port.peerPwr h :)

theorem lanes_of_told {a b : Port} (h : portTold a = portTold b) : a.lanes = b.lanes := (congrArg Port.lanes h :)

theorem txSeq_of_told {a b : Port} (h : portTold a = portTold b) : a.txSeq = b.txSeq := (congrArg Port.txSeq h :)

theorem rxSeq_of_told {a b : Port} (h : portTold a = portTold b) : a.rxSeq = b.rxSeq := (congrArg Port.rxSeq h :)

theorem replay_of_told {a b : Port} (h : portTold a = portTold b) : a.replay = b.replay := (congrArg Port.replay h :)

theorem st_of_dry {a b : Port} (h : portDry a = portDry b) : a.st = b.st := (congrArg Port.st h :)

theorem credits_of_told {a b : Port} (h : portTold a = portTold b) : a.credits = b.credits := (congrArg Port.credits h :)

theorem portHold_frame (s : State) (p : Nat) : Touches [.ports, .link] s (portHold s p) := by
  unfold portHold
  dsimp only
  split <;> simp

theorem portDry_portHold (s : State) (p : Nat) :
    portDry (getPort (portHold s p) p) = portDry { getPort s p with st := 8, bellActive := false } := by
  unfold portHold
  dsimp only
  split
  · rw [portDry_joinLost, portDry_portDrain, getPort_modPort_same]
  · rw [getPort_modPort_same]

theorem st_portHold (s : State) (p : Nat) : (getPort (portHold s p) p).st = 8 := (congrArg Port.st (portDry_portHold s p) :)

/-- A conflict holds a port and is counted. -/
theorem bellConflict_spec (s : State) (p : Nat) :
    (getPort (bellConflict s p) p).st = 8 ∧ portTold (getPort (bellConflict s p) p) = portTold (getPort s p)
      ∧ (getPort (bellConflict s p) p).conflict = satAdd 16 (getPort s p).conflict 1 := by
  have hport : getPort (bellConflict s p) p = { getPort (portHold s p) p with conflict := satAdd 16 (getPort (portHold s p) p).conflict 1 } := by
    rw [bellConflict, getPort_sendEvent, getPort_modPort_same]
  have hdry := portDry_portHold s p
  rw [hport]
  have hcount : (getPort (portHold s p) p).conflict = (getPort s p).conflict := (congrArg Port.conflict hdry :)
  exact ⟨st_portHold s p, (portTold_of_dry hdry :), congrArg (satAdd 16 · 1) hcount⟩

theorem bellConflict_frame (s : State) (p : Nat) : Touches [.ports, .link, .inbox] s (bellConflict s p) := by
  simp [bellConflict, Touches.iff_of (portHold_frame _ _)]

theorem getPort_clkLock (s : State) (q : Nat) : getPort (clkLock s) q = getPort s q := (clkLock_frame s).getPort q

/-! ## A port's domain -/

theorem domainCheck_of_clash {s : State} {p : Nat} (hup : portUp (getPort s p) = true) (hfollow : (getPort s p).followOn = true)
    (hclash : domainClash s (getPort s p) = true) : domainCheck s p = bellConflict s p :=
  (if_neg (by simp [hup, hfollow])).trans (if_pos hclash)

theorem domainClash_of_out {s : State} {q : Port} (h : q.peerIn = false) : domainClash s q = false := by
  rw [domainClash, h, Bool.and_false, Bool.false_and]

theorem domainClash_of_other {s : State} {q : Port} (hdom : s.link.inDomain = true) (hin : q.peerIn = true)
    (h : q.peerDomain ≠ s.link.domain) : domainClash s q = true := by
  rw [domainClash, hdom, hin, bne_iff_ne.mpr h]
  rfl

/-- Unless another domain is reported, the check leaves the port as it was, but for its wait for the domain's count. -/
theorem domainCheck_of_accord {s : State} {p : Nat}
    (h : portUp (getPort s p) = false ∨ (getPort s p).followOn = false ∨ domainClash s (getPort s p) = false) :
    portDry (getPort (domainCheck s p) p) = portDry (getPort s p) ∧ ∀ q, q ≠ p → getPort (domainCheck s p) q = getPort s q := by
  unfold domainCheck
  dsimp only
  split
  · exact ⟨rfl, fun _ _ => rfl⟩
  · next hfollows =>
    have hclash : domainClash s (getPort s p) = false := by
      rcases h with h | h | h
      · exact absurd (by simp [h]) hfollows
      · exact absurd (by simp [h]) hfollows
      · exact h
    rw [if_neg (by simp [hclash])]
    split
    · exact ⟨by rw [getPort_modPort_same]; rfl, fun q hq => by rw [getPort_modPort_other _ _ _ _ hq]; rfl⟩
    · exact ⟨rfl, fun _ _ => rfl⟩

theorem domainCheck_frame (s : State) (p : Nat) : Touches [.ports, .link, .inbox] s (domainCheck s p) := by
  unfold domainCheck
  dsimp only
  repeat' split
  all_goals simp [Touches.iff_of (bellConflict_frame _ _)]

/-! ## A port that comes up -/

theorem peerHeld_frame (s : State) (p : Nat) : Touches [.ports, .link, .inbox] s (peerHeld s p) := by
  simp [peerHeld, Touches.iff_of (portHold_frame _ _)]

theorem portComeUp_frame (s : State) (p st : Nat) : Touches [.ports, .link, .inbox] s (portComeUp s p st) := by
  unfold portComeUp
  split
  · exact peerHeld_frame s p
  · simp [Touches.iff_of (domainCheck_frame _ _), Touches.iff_of (clkLock_frame _)]

/-- A port as it comes up. -/
def portRisen (st : Nat) (q : Port) : Port := lanesZero { q with st := st, bellActive := q.followOn }

theorem portComeUp_of_right {s : State} {p : Nat} (h : peerWrong (getPort s p) = false) (st : Nat) :
    portComeUp s p st = domainCheck (clkLock (modPort s p (portRisen st))) p := if_neg (by simp [h])

theorem portComeUp_of_wrong {s : State} {p : Nat} (h : peerWrong (getPort s p) = true) (st : Nat) :
    portComeUp s p st = peerHeld s p := if_pos h

/-- What comes up stands in its state or is held, and keeps what was told of it; but for a conflict no other port changes. -/
theorem portComeUp_spec (s : State) (p st : Nat) (hup : st = 5 ∨ st = 6) :
    ((getPort (portComeUp s p st) p).st = st ∨ (getPort (portComeUp s p st) p).st = 8)
      ∧ portTold (getPort (portComeUp s p st) p) = portTold (getPort s p)
      ∧ ((getPort (portComeUp s p st) p).st ≠ 8 → ∀ q, q ≠ p → getPort (portComeUp s p st) q = getPort s q) := by
  cases hwrong : peerWrong (getPort s p) with
  | true =>
    rw [portComeUp_of_wrong hwrong, peerHeld, getPort_sendEvent]
    exact ⟨.inr (st_portHold s p), (portTold_of_dry (portDry_portHold s p)).trans rfl, fun h => absurd (st_portHold s p) h⟩
  | false =>
    rw [portComeUp_of_right hwrong]
    let u := clkLock (modPort s p (portRisen st))
    have hu : getPort u p = portRisen st (getPort s p) := by rw [getPort_clkLock, getPort_modPort_same]
    have hother : ∀ q, q ≠ p → getPort u q = getPort s q := fun q hq => by rw [getPort_clkLock, getPort_modPort_other _ _ _ _ hq]
    have htold : portTold (getPort u p) = portTold (getPort s p) := by rw [hu]; rfl
    by_cases hclash : (getPort u p).followOn = true ∧ domainClash u (getPort u p) = true
    · have hupU : portUp (getPort u p) = true := by
        rw [hu]
        rcases hup with rfl | rfl <;> rfl
      rw [domainCheck_of_clash hupU hclash.1 hclash.2]
      obtain ⟨hst8, htold8, -⟩ := bellConflict_spec u p
      exact ⟨.inr hst8, htold8.trans htold, fun h => absurd hst8 h⟩
    · have haccord : (getPort u p).followOn = false ∨ domainClash u (getPort u p) = false := by
        cases hf : (getPort u p).followOn
        · exact .inl rfl
        · exact .inr (by simpa [hf] using hclash)
      obtain ⟨hdry, hothers⟩ := domainCheck_of_accord (.inr haccord)
      refine ⟨.inl ?_, (portTold_of_dry hdry).trans htold, fun _ q hq => (hothers q hq).trans (hother q hq)⟩
      have hkept : (getPort (domainCheck u p) p).st = (getPort u p).st := (congrArg Port.st hdry :)
      rw [hkept, hu]
      rfl

/-! ## Signal -/

theorem clrBit_of_set {n i : Nat} (h : bitAt n i = true) : clrBit n i = n - 2 ^ i := if_pos h

theorem pow_le_of_bitAt {n i : Nat} (h : bitAt n i = true) : 2 ^ i ≤ n := by
  by_contra hlt
  have hzero : n / 2 ^ i = 0 := Nat.div_eq_of_lt (by omega)
  simp [bitAt, hzero] at h

theorem trainStart_frame (s : State) (p : Nat) : Touches [.ports] s (trainStart s p) := by
  unfold trainStart
  split <;> simp

theorem getPort_trainStart_other {s : State} {p q : Nat} (h : q ≠ p) : getPort (trainStart s p) q = getPort s q := by
  unfold trainStart
  split
  · exact getPort_modPort_other _ _ _ _ h
  · rfl

/-- A port that waits with signal and light begins to train. -/
theorem getPort_trainStart_of_lit {s : State} {p : Nat} (hst : (getPort s p).st = 1) (hon : portTrainable s p = true) :
    getPort (trainStart s p) p = linkFresh p { getPort s p with st := 2, signal := (getPort s p).present } := by
  rw [trainStart, if_pos (by simp [hst, hon]), getPort_modPort_same]

theorem portTrainable_signalOn (s : State) (p lanes : Nat) :
    portTrainable (modPort s p (signalOn lanes)) p = (Nat.lor (getPort s p).present lanes != 0 && portLit s p) := by
  rw [portTrainable, getPort_modPort_same]
  rfl

theorem trainStart_of_not {s : State} {p : Nat} (h : (getPort s p).st ≠ 1 ∨ portTrainable s p = false) : trainStart s p = s :=
  if_neg (by rcases h with h | h <;> simp [h])

/-- A port whose time for a lane has run out. -/
def laneDropped (lane : Nat) (q : Port) : Port :=
  { q with signal := q.signal - 2 ^ lane, st := if q.signal = 2 ^ lane then 1 else 2 }

theorem exec_laneTrainTimeout {p lane : Nat} {s : State} (hp : p < portCount) (hl : lane < 4) (hst : (getPort s p).st = 2)
    (hbit : bitAt (getPort s p).signal lane = true) :
    exec (.laneTrainTimeout p lane) s
      = .next (if (getPort s p).signal = 2 ^ lane then unblock (modPort s p (laneDropped lane)) p else modPort s p (laneDropped lane)) := by
  have hle := pow_le_of_bitAt hbit
  have hzero : ((getPort s p).signal - 2 ^ lane == 0) = decide ((getPort s p).signal = 2 ^ lane) := by
    rw [Bool.eq_iff_iff]
    simp only [beq_iff_eq, decide_eq_true_eq]
    omega
  have hport : modPort s p (fun q => { q with signal := (getPort s p).signal - 2 ^ lane, st := if (getPort s p).signal = 2 ^ lane then 1 else 2 })
      = modPort s p (laneDropped lane) := rfl
  refine (if_neg (not_not.mpr ⟨hp, hl⟩)).trans ((if_pos (by simp [hst, hbit])).trans ?_)
  dsimp only
  rw [clrBit_of_set hbit, hzero]
  simp only [decide_eq_true_eq, hport]

/-! ## Training that ends -/

/-- A port whose training has ended. -/
def portTrainedTo (p peerMod peerPort lat : Nat) (map : List (Nat × Bool)) (ls : List Byte) (q : Port) : Port :=
  takeLinkState ls (laneCountsZero { (if q.st == 2 then linkFresh p q else q) with
    lanes := q.signal, trained := true, peerValid := true, peerMod := peerMod % 2 ^ 17, peerPort := peerPort % 32
    lat := lat / 5 * 5 % 2 ^ 32, laneMap := map, probeDue := false, st := 3 })

/-- Is this the port's first training, before the memory test's end (R451)? -/
def firstTraining (s : State) (p : Nat) : Bool := !(getPort s p).trained && s.start.phase < 7 && !s.start.ready

/-- Where training leads a module that is not in keep-alive, its peer's power aside. -/
def trainedOn (s : State) (p : Nat) (u : State) : State :=
  if firstTraining s p && !(peerWrong (getPort u p)) then modPort u p (fun q => { q with st := 4 }) else portComeUp u p 5

theorem exec_portTrainingComplete {p peerMod peerPort lat : Nat} {map : List (Nat × Bool)} {ls : List Byte} {s : State}
    (hp : p < portCount) (hst : (getPort s p).st = 2 ∨ (getPort s p).st = 3) (hsig : (getPort s p).signal ≠ 0) :
    exec (.portTrainingComplete p peerMod peerPort lat map ls) s = .next
      (if s.power.keepAlive then modPort (modPort s p (portTrainedTo p peerMod peerPort lat map ls)) p (fun q => { q with st := 7, lanes := 1 })
        else peerPower (trainedOn s p (modPort s p (portTrainedTo p peerMod peerPort lat map ls))) p) := by
  refine (if_neg (not_not.mpr hp)).trans ((if_pos (by rcases hst with h | h <;> simp [h, hsig])).trans ?_)
  let u := modPort s p (portTrainedTo p peerMod peerPort lat map ls)
  show (if s.power.keepAlive = true then Host.Outcome.next (modPort u p (fun q => { q with st := 7, lanes := 1 }))
    else if (firstTraining s p && !(peerWrong (getPort u p))) = true then .next (peerPower (modPort u p (fun q => { q with st := 4 })) p)
    else .next (peerPower (portComeUp u p 5) p)) = _
  unfold trainedOn
  split_ifs <;> rfl

theorem peerPower_of_other {s : State} {p : Nat} (hpwr : (getPort s p).peerPwr ≠ 2) (hst : (getPort s p).st ≠ 7) : peerPower s p = s := by
  unfold peerPower
  dsimp only
  rw [if_neg (by simp [hpwr]), if_neg (by simp [hst])]

theorem peerPower_of_keepAlive {s : State} {p : Nat} (hpwr : (getPort s p).peerPwr = 2) (hruns : portRuns (getPort s p) = true) :
    peerPower s p = portKeepAlive s p := if_pos (by simp [hpwr, hruns])

/-! ## Where a training leads -/

section
variable {p peerMod peerPort lat : Nat} {map : List (Nat × Bool)} {ls : List Byte} {q : Port}

theorem portTrainedTo_of_train (h : q.st = 2) : portTrainedTo p peerMod peerPort lat map ls q
    = takeLinkState ls (laneCountsZero { linkFresh p q with
        lanes := q.signal, trained := true, peerValid := true, peerMod := peerMod % 2 ^ 17, peerPort := peerPort % 32
        lat := lat / 5 * 5 % 2 ^ 32, laneMap := map, probeDue := false, st := 3 }) := by
  unfold portTrainedTo
  rw [if_pos (by simp [h])]

theorem portTrainedTo_of_measure (h : q.st ≠ 2) : portTrainedTo p peerMod peerPort lat map ls q
    = takeLinkState ls (laneCountsZero { q with
        lanes := q.signal, trained := true, peerValid := true, peerMod := peerMod % 2 ^ 17, peerPort := peerPort % 32
        lat := lat / 5 * 5 % 2 ^ 32, laneMap := map, probeDue := false, st := 3 }) := by
  unfold portTrainedTo
  rw [if_neg (by simp [h])]

theorem portTrainedTo_rest : (portTrainedTo p peerMod peerPort lat map ls q).followOn = q.followOn
    ∧ (portTrainedTo p peerMod peerPort lat map ls q).conflict = q.conflict := by
  by_cases h : q.st = 2
  · rw [portTrainedTo_of_train h]
    exact ⟨rfl, rfl⟩
  · rw [portTrainedTo_of_measure h]
    exact ⟨rfl, rfl⟩

theorem peerWrong_portTrainedTo : peerWrong (portTrainedTo p peerMod peerPort lat map ls q)
    = (q.expCheck && (peerMod % 2 ^ 17 != q.expMod || peerPort % 32 != q.expPort)) := by
  by_cases h : q.st = 2
  · rw [portTrainedTo_of_train h]
    rfl
  · rw [portTrainedTo_of_measure h]
    rfl

theorem credits_linkFresh (p c : Nat) (q : Port) (hc : c < 4) : kvGet 0 (linkFresh p q).credits c = rxFlits p c := by
  obtain rfl | rfl | rfl | rfl : c = 0 ∨ c = 1 ∨ c = 2 ∨ c = 3 := by omega
  all_goals simp [linkFresh, upto, kvGet_kvSet]

end

theorem trainedOn_frame (s : State) (p : Nat) (u : State) : Touches [.ports, .link, .inbox] u (trainedOn s p u) := by
  unfold trainedOn
  split
  · simp
  · exact portComeUp_frame u p 5

/-- Training leads to Qualify, Up or Held, keeps what it told, and but for a conflict changes no other port. -/
theorem trainedOn_spec (s : State) (p : Nat) (u : State) :
    ((getPort (trainedOn s p u) p).st = 4 ∨ (getPort (trainedOn s p u) p).st = 5 ∨ (getPort (trainedOn s p u) p).st = 8)
      ∧ portTold (getPort (trainedOn s p u) p) = portTold (getPort u p)
      ∧ ((getPort (trainedOn s p u) p).st ≠ 8 → ∀ q, q ≠ p → getPort (trainedOn s p u) q = getPort u q) := by
  unfold trainedOn
  split
  · rw [getPort_modPort_same]
    exact ⟨.inl rfl, rfl, fun _ q hq => getPort_modPort_other _ _ _ _ hq⟩
  · obtain ⟨hst, htold, hothers⟩ := portComeUp_spec u p 5 (.inl rfl)
    exact ⟨.inr hst, htold, hothers⟩

section
variable {s u : State} {p : Nat}

theorem trainedOn_of_wrong (h : peerWrong (getPort u p) = true) : trainedOn s p u = peerHeld u p := by
  rw [trainedOn, h, Bool.not_true, Bool.and_false, if_neg (by decide), portComeUp_of_wrong h]

theorem trainedOn_of_first (hfirst : firstTraining s p = true) (h : peerWrong (getPort u p) = false) :
    trainedOn s p u = modPort u p (fun q => { q with st := 4 }) := if_pos (by simp [hfirst, h])

theorem trainedOn_of_later (hfirst : firstTraining s p = false) (h : peerWrong (getPort u p) = false) :
    trainedOn s p u = domainCheck (clkLock (modPort u p (portRisen 5))) p := by
  rw [trainedOn, hfirst, Bool.false_and, if_neg (by decide), portComeUp_of_right h]

end

/-- A port that is not Up is held with nothing of the link changed. -/
theorem link_peerHeld {s : State} {p : Nat} (h : portUp (getPort s p) = false) : (peerHeld s p).link = s.link := by
  have hplain : Touches [.ports, .inbox] s (peerHeld s p) := by
    unfold peerHeld portHold
    simp [h]
  exact hplain.link

theorem inbox_peerHeld (s : State) (p : Nat) :
    (peerHeld s p).reeve.inbox = s.reeve.inbox ++ [portEvent (portHold s p) p evPeerChanged 0xFF 0 0xFFFF 0 0] := by
  have hkept := (portHold_frame s p).inbox
  rw [← hkept]
  rfl

theorem clkLock_of_leaf {s : State} (h : s.link.root = false) :
    (clkLock s).link.inDomain = s.link.inDomain ∧ (clkLock s).link.domain = s.link.domain := by
  unfold clkLock
  rw [if_neg (by simp [h])]
  split
  · exact ⟨rfl, rfl⟩
  · split <;> exact ⟨rfl, rfl⟩

/-- Settles O34: the signal rows by what `trainStart` does in each state; a training's end by `trainedOn_spec`, and each of its
outcomes by the branch of `trainedOn` that it takes. -/
theorem linkTrainingStartsAndEnds : Obligations.LinkTrainingStartsAndEnds := by
  refine ⟨fun p q => ⟨rfl, rfl, rfl, fun c hc => credits_linkFresh p c q hc, rfl⟩,
    fun p lanes s hp hl hon => ⟨_, (if_neg (not_not.mpr ⟨hp, hl⟩)).trans (if_neg (by simp [hon])), ⟨?overlay, ?others⟩,
      fun hst hp0 hlit => ?lit, fun hst hdark => ?dark, fun hst => ?join, fun hst => ?later⟩,
    fun p lanes s hp hl hoff => ?off,
    fun p lane s hp hl hst hbit => ⟨_, exec_laneTrainTimeout hp hl hst hbit, ?timeout⟩,
    fun p lane s hp hl hnot => ?untimed,
    fun p peerMod peerPort lat map ls s hp hst hsig => ⟨_, exec_portTrainingComplete hp hst hsig, ?ended⟩,
    fun p peerMod peerPort lat map ls s hp hnot => ?untrained⟩
  case overlay =>
    have hframe : Touches [.ports] s (trainStart (modPort s p (signalOn lanes)) p) := by simp [Touches.iff_of (trainStart_frame _ _)]
    exact hframe.eq_overlay
  case others =>
    intro q hq
    rw [getPort_trainStart_other hq, getPort_modPort_other _ _ _ _ hq]
  case lit =>
    rw [getPort_trainStart_of_lit (by simpa [signalOn] using hst) (by rw [portTrainable_signalOn, hlit, Bool.and_true]; exact bne_iff_ne.mpr hp0), getPort_modPort_same]
    simp [signalOn]
  case dark =>
    rw [trainStart_of_not (.inr ?_), getPort_modPort_same]
    · simp [signalOn, hst]
    · rw [portTrainable_signalOn]
      rcases hdark with h | h
      · rw [h, Bool.and_false]
      · rw [h, bne_self_eq_false, Bool.false_and]
  case join =>
    rw [trainStart_of_not (.inl (by simp [signalOn, hst])), getPort_modPort_same]
    simp [signalOn, hst]
  case later =>
    rw [trainStart_of_not (.inl (by simp [signalOn]; omega)), getPort_modPort_same]
    simp [signalOn, show (getPort s p).st ≠ 2 by omega]
  case off => exact (if_neg (not_not.mpr ⟨hp, hl⟩)).trans (if_pos (by simp [hoff]))
  case timeout =>
    by_cases hlast : (getPort s p).signal = 2 ^ lane
    · rw [if_pos hlast]
      refine ⟨rfl, fun q hq => getPort_modPort_other _ _ _ _ hq, ?_, fun _ => bitAt_clrBit_same _ _, fun h => absurd hlast h⟩
      rw [getPort_unblock, getPort_modPort_same, laneDropped]
    · rw [if_neg hlast]
      refine ⟨rfl, fun q hq => getPort_modPort_other _ _ _ _ hq, ?_, fun h => absurd h hlast, fun _ => rfl⟩
      rw [getPort_modPort_same, laneDropped]
  case untimed => exact (if_neg (not_not.mpr ⟨hp, hl⟩)).trans (if_neg (by rcases hnot with h | h <;> simp [h]))
  case untrained => exact (if_neg (not_not.mpr hp)).trans (if_neg (by rcases hnot with ⟨h, h'⟩ | h <;> simp_all))
  case ended =>
    obtain ⟨u, hu⟩ : ∃ u, u = modPort s p (portTrainedTo p peerMod peerPort lat map ls) := ⟨_, rfl⟩
    rw [← hu]
    have huport : getPort u p = portTrainedTo p peerMod peerPort lat map ls (getPort s p) := by rw [hu, getPort_modPort_same]
    have huother : ∀ q, q ≠ p → getPort u q = getPort s q := fun q hq => by rw [hu, getPort_modPort_other _ _ _ _ hq]
    have huframe : Touches [.ports, .link, .inbox] s u := by rw [hu]; simp
    have hpeer : portPeer (getPort u p) = (true, true, peerMod % 2 ^ 17, peerPort % 32, lat / 5 * 5 % 2 ^ 32, map) := by rw [huport]; rfl
    have hufollow : (getPort u p).followOn = (getPort s p).followOn := by rw [huport]; exact portTrainedTo_rest.1
    have huconf : (getPort u p).conflict = (getPort s p).conflict := by rw [huport]; exact portTrainedTo_rest.2
    have hpwr : (getPort u p).peerPwr = fld ls 5 1 % 4 := by rw [huport]; rfl
    cases halive : s.power.keepAlive with
    | true =>
      rw [if_pos rfl, getPort_modPort_same]
      have hframe : Touches [.ports, .link, .inbox] s (modPort u p (fun q => { q with st := 7, lanes := 1 })) := by simpa using huframe
      simp only [portPeer, Prod.mk.injEq] at hpeer
      obtain ⟨h1, h2, h3, h4, h5, h6⟩ := hpeer
      exact ⟨hframe.eq_overlay, h1, h2, h3, h4, h5, h6, fun _ => ⟨rfl, rfl⟩,
        fun _ q hq => by rw [getPort_modPort_other _ _ _ _ hq, huother q hq], fun h => absurd h (by simp)⟩
    | false =>
      rw [if_neg (by simp)]
      obtain ⟨hst', htold, hothers⟩ := trainedOn_spec s p u
      have hvframe : Touches [.ports, .link, .inbox] s (trainedOn s p u) := huframe.trans (trainedOn_frame s p u)
      have hvpwr : (getPort (trainedOn s p u) p).peerPwr = fld ls 5 1 % 4 := (peerPwr_of_told htold).trans hpwr
      have hvpeer : portPeer (getPort (trainedOn s p u) p) = (true, true, peerMod % 2 ^ 17, peerPort % 32, lat / 5 * 5 % 2 ^ 32, map) :=
        (portPeer_of_told htold).trans hpeer
      by_cases hasleep : fld ls 5 1 % 4 = 2
      · rw [peerPower_of_keepAlive (hvpwr.trans hasleep) (by rcases hst' with h | h | h <;> simp [portRuns, h])]
        obtain ⟨hst7, hlanes, hpeer7⟩ := portKeepAlive_spec (trainedOn s p u) p
        have hframe := hvframe.trans ((portKeepAlive_frame (trainedOn s p u) p).mono (by decide))
        rw [hvpeer] at hpeer7
        simp only [portPeer, Prod.mk.injEq] at hpeer7
        obtain ⟨h1, h2, h3, h4, h5, h6⟩ := hpeer7
        exact ⟨hframe.eq_overlay, h1, h2, h3, h4, h5, h6, fun _ => ⟨hst7, hlanes⟩, fun h => absurd h (by simp), fun _ h => absurd hasleep h⟩
      · rw [peerPower_of_other (by rw [hvpwr]; exact hasleep) (by rcases hst' with h | h | h <;> simp [h])]
        simp only [portPeer, Prod.mk.injEq] at hvpeer
        obtain ⟨h1, h2, h3, h4, h5, h6⟩ := hvpeer
        have hrisen : getPort (clkLock (modPort u p (portRisen 5))) p = portRisen 5 (getPort u p) := by
          rw [getPort_clkLock, getPort_modPort_same]
        have hrightly : (getPort s p).expCheck = false ∨ peerMod % 2 ^ 17 = (getPort s p).expMod ∧ peerPort % 32 = (getPort s p).expPort →
            peerWrong (getPort u p) = false := by
          intro hright
          rw [huport, peerWrong_portTrainedTo]
          rcases hright with h | ⟨h, h'⟩
          · rw [h, Bool.false_and]
          · rw [h, h', bne_self_eq_false, bne_self_eq_false, Bool.or_false, Bool.and_false]
        have hlater : (getPort s p).trained = true ∨ 7 ≤ s.start.phase ∨ s.start.ready = true → firstTraining s p = false := by
          rintro (h | h | h)
          · simp [firstTraining, h]
          · simp [firstTraining, show ¬ s.start.phase < 7 by omega]
          · simp [firstTraining, h]
        refine ⟨hvframe.eq_overlay, h1, h2, h3, h4, h5, h6, fun h => absurd h (by simp [hasleep]), fun h => absurd h (by simp),
          fun _ _ => ⟨fun hne q hq => (hothers hne q hq).trans (huother q hq), ?carried, fun h2 => ?fresh, fun h3 => ?kept,
            fun hcheck hwrong => ?held, fun hright => ⟨fun hnew hphase hready => ?qualify, fun hold => ⟨fun hplain => ?up, fun hfollow hin hroot hdom hother => ?clash⟩⟩⟩⟩
        case carried =>
          rw [lanes_of_told htold, huport]
          rfl
        case fresh =>
          rw [txSeq_of_told htold, rxSeq_of_told htold, replay_of_told htold, credits_of_told htold, huport, portTrainedTo_of_train h2]
          exact ⟨rfl, rfl, rfl, fun c hc => credits_linkFresh p c (getPort s p) hc⟩
        case kept =>
          rw [txSeq_of_told htold, replay_of_told htold, huport, portTrainedTo_of_measure (by rw [h3]; decide)]
          exact ⟨rfl, rfl⟩
        case held =>
          have hw : peerWrong (getPort u p) = true := by
            rw [huport, peerWrong_portTrainedTo, hcheck]
            rcases hwrong with h | h
            · rw [bne_iff_ne.mpr h]
              rfl
            · rw [bne_iff_ne.mpr h, Bool.or_true]
              rfl
          have hup : portUp (getPort u p) = false := by rw [huport]; rfl
          rw [trainedOn_of_wrong hw, link_peerHeld hup, inbox_peerHeld]
          rw [hu]
          exact ⟨st_portHold _ p, rfl, _, rfl, rfl⟩
        case qualify =>
          rw [trainedOn_of_first (by simp [firstTraining, hnew, hphase, hready]) (hrightly hright), getPort_modPort_same]
        case up =>
          rw [trainedOn_of_later (hlater hold) (hrightly hright)]
          refine (st_of_dry (domainCheck_of_accord ?_).1).trans (congrArg Port.st hrisen)
          rw [hrisen]
          exact .inr (hplain.imp hufollow.trans fun h => domainClash_of_out (by rw [huport]; exact h))
        case clash =>
          have hlink := clkLock_of_leaf (s := modPort u p (portRisen 5)) (by rw [hu]; exact hroot)
          have hsame : (modPort u p (portRisen 5)).link = s.link := by rw [hu]; rfl
          rw [hsame] at hlink
          rw [trainedOn_of_later (hlater hold) (hrightly hright), domainCheck_of_clash (by rw [hrisen]; rfl)
            (by rw [hrisen]; exact hufollow.trans hfollow)
            (domainClash_of_other (hlink.1.trans hdom) (by rw [hrisen, huport]; exact hin) (by rw [hrisen, huport, hlink.2]; exact hother))]
          obtain ⟨hst8, -, hcount⟩ := bellConflict_spec (clkLock (modPort u p (portRisen 5))) p
          rw [hrisen] at hcount
          exact ⟨hst8, hcount.trans (congrArg (satAdd 16 · 1) huconf)⟩

end Sys2Proof.Machine
end

section
/-! SUPPORT. Lanes that qualify, and ports that leave Up (R307, R308, R314, R332). -/

-- One proof after another: threads that wait for each other count against the memory of the check.
set_option Elab.async false

namespace Sys2Proof.Machine

/-! ## A port that carries nothing -/

/-- A port that is Off, in Detect or in Train keeps its state and its queues. -/
def Shut (p : Nat) (s t : State) : Prop :=
  (getPort s p).st ≤ 2 → (getPort t p).st = (getPort s p).st ∧ (getPort t p).txQ = (getPort s p).txQ

namespace Shut

variable {p : Nat} {s t u : State}

theorem refl (s : State) : Shut p s s := fun _ => ⟨rfl, rfl⟩

theorem trans (h1 : Shut p s t) (h2 : Shut p t u) : Shut p s u := fun hst => by
  obtain ⟨hst1, hq1⟩ := h1 hst
  obtain ⟨hst2, hq2⟩ := h2 (by omega)
  exact ⟨hst2.trans hst1, hq2.trans hq1⟩

theorem modPort {q : Nat} {f : Port → Port} (hf : ∀ x, (f x).st = x.st ∧ (f x).txQ = x.txQ) : Shut p s (modPort s q f) := fun _ => by
  by_cases h : p = q
  · subst h
    rw [getPort_modPort_same]
    exact hf _
  · rw [getPort_modPort_other _ _ _ _ h]
    exact ⟨rfl, rfl⟩

theorem countDiscard {q cause : Nat} : Shut p s (countDiscard s q cause) := modPort fun x => by split <;> exact ⟨rfl, rfl⟩

theorem discardOnly {ds : List (Nat × Nat)} : Shut p s (discardOnly s ds) := foldl_rel refl trans (fun _ _ => countDiscard) ds s

theorem spineOut {q c : Nat} {m : List Byte} : Shut p s (spineOut s q c m).1 := by
  intro hst
  unfold Machine.spineOut
  split
  · next hcarries =>
    have hne : p ≠ q := by
      rintro rfl
      have hno : portCarries (getPort s p) c = false := by
        simp [portCarries, portUp]
        omega
      simp [hno] at hcarries
    rw [portEnqueue, getPort_modPort_other _ _ _ _ hne]
    exact ⟨rfl, rfl⟩
  · split <;> exact ⟨rfl, rfl⟩

theorem spineMove {inp : Nat} {inj : Bool} {c bank : Nat} {m : List Byte} : Shut p s (spineMove s inp inj c bank m).1 := by
  unfold Machine.spineMove
  dsimp only
  split
  · refine iteInduction (motive := fun r : State × List (Nat × Nat) => Shut p s r.1) (fun _ => refl s) fun _ =>
      trans ?_ (foldl_rel (R := fun x y : State × List (Nat × Nat) => Shut p x.1 y.1) (fun x => refl x.1) trans (fun x q => ?_) _ _)
    · dsimp only
      split
      · exact modPort fun _ => ⟨rfl, rfl⟩
      · exact refl s
    · split_ifs
      · exact refl x.1
      · exact spineOut
      · exact refl x.1
  · split_ifs
    · exact modPort fun _ => ⟨rfl, rfl⟩
    · exact refl s
    · exact refl s
    · exact spineOut

theorem discardMsg {m : List Byte} {d : Nat × Nat} : Shut p s (discardMsg s m d) := by
  unfold Machine.discardMsg
  dsimp only
  split
  · refine trans ?_ discardOnly
    refine trans ?_ spineMove
    exact trans (countDiscard (q := d.1) (cause := d.2)) (modPort fun _ => ⟨rfl, rfl⟩)
  · exact countDiscard

end Shut

/-- A port that carries nothing is left, as it drains, with what is queued in LC3. -/
theorem txQ_portDrain {s : State} {p : Nat} (h : (getPort s p).st ≤ 2) :
    (getPort (portDrain s p) p).txQ = kvSet [] [] 3 (kvGet [] (getPort s p).txQ 3) := by
  unfold portDrain
  refine ((foldl_rel Shut.refl Shut.trans (fun s m => Shut.discardMsg) _ _ : Shut p _ _) ?_).2.trans ?_
  · rw [getPort_modPort_same]
    exact h
  · rw [getPort_modPort_same]

/-- A port whose queues but those of LC3 have been taken to be discarded. -/
def portEmptied (q : Port) : Port :=
  { q with
    txQ := kvSet [] [] 3 (kvGet [] q.txQ 3), txCur := kvSet [] [] 3 (kvGet [] q.txCur 3), txHdr := kvSet [] [] 3 (kvGet [] q.txHdr 3)
    ord := [], unacked := [], rxCur := kvSet [] [] 3 (kvGet [] q.rxCur 3) }

theorem portBare_portDrain_same (s : State) (p : Nat) : portBare (getPort (portDrain s p) p) = portBare (portEmptied (getPort s p)) := by
  unfold portDrain
  refine (foldl_keeps (π := fun s => portBare (getPort s p)) (fun s m => (Discards.refl s).discardMsg.bare p) _ _).trans ?_
  rw [getPort_modPort_same]
  rfl

theorem firstBell_portDrain (s : State) (p : Nat) : (getPort (portDrain s p) p).firstBell = (getPort s p).firstBell :=
  (congrArg Port.firstBell (portBare_portDrain_same s p) :)

/-! ## A port that trains again -/

/-- Where a port goes that is to train again. -/
def retrainSt (s : State) (p st : Nat) : Nat := if st == 2 && !(portTrainable s p) then 1 else st

/-- A port that leaves Up, before it is fresh again. -/
def portLeft (s : State) (p exit st : Nat) : State :=
  sendEvent (modPort (portDrain (modPort (if retrainSt s p st == 1 then unblock s p else s) p (fun q => { q with st := retrainSt s p st })) p) p
    (fun q => { q with exit := exit })) (portEvent (if retrainSt s p st == 1 then unblock s p else s) p 0x0141 0xFF 0 0xFFFF 0 8)

/-- A port as it trains again. -/
def portAnew (p st : Nat) (q : Port) : Port :=
  linkFresh p { q with st := st, lanes := 0, signal := if st == 2 then q.present else 0, bellActive := false, peerValid := false }

/-- A port that trains again is fresh, with its queues as they were. -/
theorem portAnew_fresh (p st : Nat) (q : Port) :
    (portAnew p st q).bellActive = false ∧ (portAnew p st q).peerValid = false ∧ (portAnew p st q).replay = []
      ∧ (portAnew p st q).txCur = [] ∧ (portAnew p st q).rxCur = [] ∧ (portAnew p st q).txSeq = 0 ∧ (portAnew p st q).rxSeq = 0
      ∧ (portAnew p st q).txQ = q.txQ ∧ ∀ c, c < 4 → kvGet 0 (portAnew p st q).credits c = rxFlits p c :=
  ⟨rfl, rfl, rfl, rfl, rfl, rfl, rfl, rfl, fun c hc => credits_linkFresh p c _ hc⟩

theorem portUp_unblocked (s : State) (p : Nat) (c : Bool) : portUp (getPort (if c then unblock s p else s) p) = portUp (getPort s p) := by
  split <;> rfl

theorem portRetrain_of_up {s : State} {p exit st : Nat} (h : portUp (getPort s p) = true) :
    portRetrain s p exit st = modPort (joinLost (portLeft s p exit st) p) p (portAnew p (retrainSt s p st)) := by
  unfold portRetrain
  dsimp only
  rw [if_pos ((portUp_unblocked s p _).trans h)]
  rfl

theorem portRetrain_of_down {s : State} {p exit st : Nat} (h : portUp (getPort s p) = false) :
    portRetrain s p exit st = modPort (joinLost (portDrain (modPort (if retrainSt s p st == 1 then unblock s p else s) p
      (fun q => { q with st := retrainSt s p st })) p) p) p (portAnew p (retrainSt s p st)) := by
  unfold portRetrain
  dsimp only
  rw [if_neg (by rw [portUp_unblocked]; simp [h])]
  rfl

theorem retrainSt_eq (s : State) (p st : Nat) : retrainSt s p st = if st = 2 ∧ portTrainable s p = false then 1 else st := by
  simp [retrainSt]

theorem present_of_dry {a b : Port} (h : portDry a = portDry b) : a.present = b.present := (congrArg Port.present h :)

theorem exit_of_dry {a b : Port} (h : portDry a = portDry b) : a.exit = b.exit := (congrArg Port.exit h :)

theorem portLeft_frame (s : State) (p exit st : Nat) : Touches [.ports, .inbox, .start] s (portLeft s p exit st) := by simp [portLeft]

theorem portDry_portLeft (s : State) (p exit st : Nat) :
    portDry (getPort (portLeft s p exit st) p) = portDry { getPort s p with st := retrainSt s p st, exit := exit } := by
  rw [portLeft, getPort_sendEvent, getPort_modPort_same]
  have hdrain := portDry_portDrain (modPort (if retrainSt s p st == 1 then unblock s p else s) p (fun q => { q with st := retrainSt s p st })) p p
  have hport : getPort (if retrainSt s p st == 1 then unblock s p else s) p = getPort s p := by split <;> rfl
  rw [getPort_modPort_same, hport] at hdrain
  exact (congrArg (fun q : Port => { q with exit := exit }) hdrain :)

theorem inbox_portLeft (s : State) (p exit st : Nat) :
    ∃ e, e.code = 0x0141 ∧ e.unit = unitId 3 p ∧ (portLeft s p exit st).reeve.inbox = s.reeve.inbox ++ [e] := by
  refine ⟨portEvent (if retrainSt s p st == 1 then unblock s p else s) p 0x0141 0xFF 0 0xFFFF 0 8, rfl, rfl, ?_⟩
  have hkept : Touches [.ports, .start] s (modPort (portDrain (modPort (if retrainSt s p st == 1 then unblock s p else s) p
      (fun q => { q with st := retrainSt s p st })) p) p (fun q => { q with exit := exit })) := by simp
  rw [← hkept.inbox]
  rfl

theorem txQ_portLeft {s : State} {p exit st : Nat} (h : st ≤ 2) :
    (getPort (portLeft s p exit st) p).txQ = kvSet [] [] 3 (kvGet [] (getPort s p).txQ 3) := by
  have hport : getPort (if retrainSt s p st == 1 then unblock s p else s) p = getPort s p := by split <;> rfl
  have hle : retrainSt s p st ≤ 2 := by unfold retrainSt; split <;> omega
  rw [portLeft, getPort_sendEvent, getPort_modPort_same]
  refine (txQ_portDrain (by rw [getPort_modPort_same]; exact hle)).trans ?_
  rw [getPort_modPort_same, hport]

theorem firstBell_portLeft (s : State) (p exit st : Nat) : (getPort (portLeft s p exit st) p).firstBell = (getPort s p).firstBell := by
  have hport : getPort (if retrainSt s p st == 1 then unblock s p else s) p = getPort s p := by split <;> rfl
  rw [portLeft, getPort_sendEvent, getPort_modPort_same]
  refine (firstBell_portDrain _ p).trans ?_
  rw [getPort_modPort_same, hport]

theorem txQ_joinLost (s : State) (p : Nat) : (getPort (joinLost s p) p).txQ = (getPort s p).txQ := by
  unfold joinLost
  split
  · rw [getPort_modPort_same]
    rfl
  · rfl

/-- Where a port with no state to leave, or one that is Up, goes as it trains again. -/
theorem getPort_portRetrain_of_up {s : State} {p exit st : Nat} (h : portUp (getPort s p) = true) :
    getPort (portRetrain s p exit st) p = portAnew p (retrainSt s p st) (getPort (joinLost (portLeft s p exit st) p) p) := by
  rw [portRetrain_of_up h, getPort_modPort_same]

/-- A port that trains again has no lane in use, and keeps what its wires show. -/
theorem portRetrain_spec (s : State) (p exit st : Nat) :
    (getPort (portRetrain s p exit st) p).st = retrainSt s p st ∧ (getPort (portRetrain s p exit st) p).lanes = 0
      ∧ (getPort (portRetrain s p exit st) p).present = (getPort s p).present
      ∧ (getPort (portRetrain s p exit st) p).signal = (if retrainSt s p st = 2 then (getPort s p).present else 0)
      ∧ (portUp (getPort s p) = true → (getPort (portRetrain s p exit st) p).exit = exit) := by
  obtain ⟨u, hu, hpresent, hexit⟩ : ∃ u, portRetrain s p exit st = modPort u p (portAnew p (retrainSt s p st))
      ∧ (getPort u p).present = (getPort s p).present ∧ (portUp (getPort s p) = true → (getPort u p).exit = exit) := by
    cases h : portUp (getPort s p) with
    | true =>
      have hdry := (portDry_joinLost (portLeft s p exit st) p p).trans (portDry_portLeft s p exit st)
      have hpresent := present_of_dry hdry
      have hexit := exit_of_dry hdry
      exact ⟨_, portRetrain_of_up h, hpresent, fun _ => hexit⟩
    | false =>
      have hport : getPort (if retrainSt s p st == 1 then unblock s p else s) p = getPort s p := by split <;> rfl
      have hdry := (portDry_joinLost (portDrain (modPort (if retrainSt s p st == 1 then unblock s p else s) p
        (fun q => { q with st := retrainSt s p st })) p) p p).trans (portDry_portDrain _ p p)
      rw [getPort_modPort_same, hport] at hdry
      have hpresent := present_of_dry hdry
      exact ⟨_, portRetrain_of_down h, hpresent, fun h => absurd h (by simp)⟩
  rw [hu, getPort_modPort_same]
  refine ⟨rfl, rfl, hpresent, ?_, hexit⟩
  rw [portAnew, ← hpresent]
  simp only [beq_iff_eq]
  rfl

/-! ## Lanes that qualify -/

/-- A port with a lane's counts stored. -/
def laneStored (lane cbits uncorr secs : Nat) (q : Port) : Port :=
  { q with lane := kvMod {} q.lane lane (fun l => { l with
      cbits := min (2 ^ 32 - 1) cbits, uncorr := min 65535 uncorr, qpass := l.qpass || lanePasses cbits uncorr secs, seconds := min 32767 secs }) }

section
variable {lane cbits uncorr secs : Nat} {q : Port}

theorem laneOf_laneStored_same : laneOf (laneStored lane cbits uncorr secs q) lane = { laneOf q lane with
    cbits := min (2 ^ 32 - 1) cbits, uncorr := min 65535 uncorr, seconds := min 32767 secs
    qpass := (laneOf q lane).qpass || lanePasses cbits uncorr secs } := by
  rw [laneOf, laneStored, kvGet_kvMod_same]
  rfl

theorem laneOf_laneStored_other {k : Nat} (h : k ≠ lane) : laneOf (laneStored lane cbits uncorr secs q) k = laneOf q k := by
  rw [laneOf, laneStored, kvGet_kvMod_other _ _ _ _ _ h, laneOf]

theorem lanePasses_iff (cbits uncorr secs : Nat) :
    lanePasses cbits uncorr secs = true ↔ 50 ≤ secs ∧ cbits ≤ 2000000 * secs ∧ uncorr = 0 := by
  have hrate : laneRate = 200000000000 := rfl
  simp only [lanePasses, Bool.and_eq_true, decide_eq_true_eq, beq_iff_eq, hrate]
  omega

/-- With a lane's pass stored, the port's lanes have passed when the others in use have. -/
theorem lanesPassed_laneStored (hpass : lanePasses cbits uncorr secs = true) :
    lanesPassed (laneStored lane cbits uncorr secs q) = true
      ↔ ∀ k, k < 4 → k ≠ lane → bitAt q.lanes k = true → (laneOf q k).qpass = true := by
  simp only [lanesPassed, List.all_eq_true, mem_upto, Bool.or_eq_true, Bool.not_eq_true']
  refine ⟨fun h k hk hne hbit => ?_, fun h k hk => ?_⟩
  · rcases h k (by omega) with hoff | hq
    · exact absurd (hbit.symm.trans hoff) (by decide)
    · rwa [laneOf_laneStored_other hne] at hq
  · by_cases hne : k = lane
    · subst hne
      rw [laneOf_laneStored_same, hpass]
      exact .inr (Bool.or_true _)
    · rw [laneOf_laneStored_other hne]
      cases hbit : bitAt q.lanes k with
      | false => exact .inl hbit
      | true => exact .inr (h k (by omega) hne hbit)

end

/-- What follows a lane's count, of a port in Qualify or Up. -/
def laneJudged (s u : State) (p lane cbits uncorr secs ratio : Nat) : State :=
  if (getPort s p).st == 6 then u
  else if lanePasses cbits uncorr secs then qualifyDone u p
  else if (getPort s p).st == 5 || (secs < 50 && uncorr == 0) then u
  else laneOut u p lane ratio

theorem exec_laneQualified {p lane cbits uncorr secs ratio : Nat} {s : State} (hp : p < portCount) (hl : lane < 4)
    (hlane : bitAt (getPort s p).lanes lane = true) (hst : (getPort s p).st = 4 ∨ (getPort s p).st = 5 ∨ (getPort s p).st = 6) :
    exec (.laneQualified p lane cbits uncorr secs ratio) s
      = .next (laneJudged s (modPort s p (laneStored lane cbits uncorr secs)) p lane cbits uncorr secs ratio) := by
  refine (if_neg (not_not.mpr ⟨hp, hl⟩)).trans ((if_neg ?_).trans ?_)
  · rcases hst with h | h | h <;> simp [h, hlane, portUp]
  · dsimp only
    unfold laneJudged
    split_ifs <;> rfl

theorem laneOf_laneCountsZero {k : Nat} (hk : k < 4) (q : Port) :
    (laneOf (laneCountsZero q) k).cbits = 0 ∧ (laneOf (laneCountsZero q) k).uncorr = 0 ∧ (laneOf (laneCountsZero q) k).qpass = false := by
  obtain rfl | rfl | rfl | rfl : k = 0 ∨ k = 1 ∨ k = 2 ∨ k = 3 := by omega
  all_goals simp [laneOf, laneCountsZero, upto, kvMod, kvGet_kvSet]

theorem ledger_ledgerAdd (s : State) (kind flags source loc detail : Nat) :
    (ledgerAdd s kind flags source loc detail).2.start.ledger.length = s.start.ledger.length + 1 := by
  rw [ledgerAdd, List.length_append]
  rfl

/-- A port that does not follow comes up as it is to, where its peer is not a wrong one. -/
theorem portComeUp_of_free {s : State} {p st : Nat} (hfollow : (getPort s p).followOn = false)
    (hright : peerWrong (getPort s p) = false) :
    (getPort (portComeUp s p st) p).st = st ∧ ∀ q, q ≠ p → getPort (portComeUp s p st) q = getPort s q := by
  rw [portComeUp_of_right hright]
  have hrisen : getPort (clkLock (modPort s p (portRisen st))) p = portRisen st (getPort s p) := by rw [getPort_clkLock, getPort_modPort_same]
  obtain ⟨hdry, hothers⟩ := domainCheck_of_accord (s := clkLock (modPort s p (portRisen st))) (p := p) (.inr (.inl (by rw [hrisen]; exact hfollow)))
  refine ⟨(st_of_dry hdry).trans (by rw [hrisen]; rfl), fun q hq => (hothers q hq).trans ?_⟩
  rw [getPort_clkLock, getPort_modPort_other _ _ _ _ hq]

/-- A lane that fails in Qualify is left out, or fails its port. -/
theorem laneOut_spec {s : State} {p lane ratio : Nat} (hlane : bitAt (getPort s p).lanes lane = true) :
    (laneOut s p lane ratio).start.ledger.length = s.start.ledger.length + 1 ∧ (∀ q, q ≠ p → getPort (laneOut s p lane ratio) q = getPort s q)
      ∧ ((getPort s p).lanes ≠ 2 ^ lane →
          getPort (laneOut s p lane ratio) p = laneCountsZero { getPort s p with lanes := (getPort s p).lanes - 2 ^ lane, quarter := 0 })
      ∧ ((getPort s p).lanes = 2 ^ lane →
          getPort (laneOut s p lane ratio) p = { getPort s p with lanes := (getPort s p).signal, quarter := 0, st := 9 }
            ∧ bitAt (laneOut s p lane ratio).start.blocking p = false) := by
  have hle := pow_le_of_bitAt hlane
  unfold laneOut
  dsimp only
  rw [clrBit_of_set hlane]
  by_cases hlast : (getPort s p).lanes = 2 ^ lane
  · rw [if_pos (by simp [hlast])]
    refine ⟨ledger_ledgerAdd _ _ _ _ _ _, fun q hq => ?_, fun h => absurd hlast h, fun _ => ⟨?_, bitAt_clrBit_same _ _⟩⟩
    · rw [getPort_unblock, getPort_modPort_other _ _ _ _ hq]
      rfl
    · rw [getPort_unblock, getPort_modPort_same]
      rfl
  · rw [if_neg (by rw [beq_iff_eq]; omega)]
    refine ⟨ledger_ledgerAdd _ _ _ _ _ _, fun q hq => getPort_modPort_other _ _ _ _ hq, fun _ => ?_, fun h => absurd h hlast⟩
    rw [getPort_modPort_same]
    rfl

/-- With its lanes passed a provisional port is qualified, and one in Qualify that neither follows nor checks its peer comes Up. -/
theorem qualifyDone_of_passed {s : State} {p : Nat} (hpass : lanesPassed (getPort s p) = true)
    (hst : (getPort s p).st = 5 ∨ (getPort s p).st = 4 ∧ (getPort s p).followOn = false ∧ (getPort s p).expCheck = false) :
    (getPort (qualifyDone s p) p).st = 6 ∧ bitAt (qualifyDone s p).start.blocking p = false
      ∧ (∀ q, q ≠ p → getPort (qualifyDone s p) q = getPort s q) ∧ (qualifyDone s p).start.ledger = s.start.ledger
      ∧ ((getPort s p).st = 5 → qualifyDone s p = unblock (modPort s p (fun q => { q with st := 6 })) p) := by
  rcases hst with hst | ⟨hst, hfollow, hcheck⟩
  · have hrow : qualifyDone s p = unblock (modPort s p (fun q => { q with st := 6 })) p := by
      simp [qualifyDone, hpass, hst]
    rw [hrow, getPort_unblock, getPort_modPort_same]
    refine ⟨rfl, bitAt_clrBit_same _ _, fun q hq => ?_, rfl, fun _ => rfl⟩
    rw [getPort_unblock, getPort_modPort_other _ _ _ _ hq]
  · obtain ⟨hst6, hothers⟩ := portComeUp_of_free (st := 6) hfollow (show peerWrong (getPort s p) = false by rw [peerWrong, hcheck, Bool.false_and])
    have hrow : qualifyDone s p = unblock (portComeUp s p 6) p := by
      simp [qualifyDone, hpass, hst, hst6]
    have hledger : (unblock (portComeUp s p 6) p).start.ledger = s.start.ledger := congrArg (·.ledger) (portComeUp_frame s p 6).start
    rw [hrow, getPort_unblock]
    exact ⟨hst6, bitAt_clrBit_same _ _, fun q hq => hothers q hq, hledger, fun h => absurd (hst.symm.trans h) (by decide)⟩

theorem qualifyDone_of_waiting {s : State} {p : Nat} (h : lanesPassed (getPort s p) = false) : qualifyDone s p = s :=
  if_neg (by simp [h])

/-- A port one of whose lanes has lost its signal. -/
def laneDark (lane : Nat) (q : Port) : Port := { q with present := clrBit q.present lane }

section
variable {s u : State} {p lane cbits uncorr secs ratio : Nat}

theorem laneJudged_kept (h : (getPort s p).st = 6 ∨ (getPort s p).st = 5 ∧ lanePasses cbits uncorr secs = false
    ∨ (getPort s p).st = 4 ∧ secs < 50 ∧ uncorr = 0) : laneJudged s u p lane cbits uncorr secs ratio = u := by
  rcases h with h | ⟨h, hfail⟩ | ⟨h, hshort, hclean⟩
  · exact if_pos (by simp [h])
  · rw [laneJudged, if_neg (by simp [h]), if_neg (by simp [hfail]), if_pos (by simp [h])]
  · have hfail : lanePasses cbits uncorr secs = false := by
      rw [← Bool.not_eq_true, lanePasses_iff]
      omega
    rw [laneJudged, if_neg (by simp [h]), if_neg (by simp [hfail]), if_pos (by simp [hshort, hclean])]

theorem laneJudged_passed (hst : (getPort s p).st ≠ 6) (hpass : lanePasses cbits uncorr secs = true) :
    laneJudged s u p lane cbits uncorr secs ratio = qualifyDone u p := by
  rw [laneJudged, if_neg (by simp [hst]), if_pos hpass]

theorem laneJudged_failed (hst : (getPort s p).st = 4) (hfail : lanePasses cbits uncorr secs = false) (hlong : 50 ≤ secs ∨ uncorr ≠ 0) :
    laneJudged s u p lane cbits uncorr secs ratio = laneOut u p lane ratio := by
  rw [laneJudged, if_neg (by simp [hst]), if_neg (by simp [hfail]), if_neg]
  rcases hlong with h | h
  · simp [hst, show ¬ secs < 50 by omega]
  · simp [hst, h]

end

/-- Settles O35: a lane's count by `laneJudged`, a port that trains again by what drains from it, and the rows by their guards. -/
theorem lanesQualifyAndPortsLeaveUp : Obligations.LanesQualifyAndPortsLeaveUp := by
  refine ⟨lanePasses_iff,
    fun p lane cbits uncorr secs ratio s hp hl hnot => ?unlisted,
    fun p lane cbits uncorr secs ratio s hp hl hlane => ⟨fun hst => ?stored, fun hst hpass => ?up, fun hst hpass hfollow hcheck => ?qualified,
      fun hst hfail hlong => ?out⟩,
    fun s p exit st hup => ?retrain,
    fun p lane s hp hl hup hlane => (if_neg (not_not.mpr ⟨hp, hl⟩)).trans (if_pos (by simp [hup, hlane])),
    fun p lane s hp hl hnot => (if_neg (not_not.mpr ⟨hp, hl⟩)).trans (if_neg (by rcases hnot with h | h <;> simp [h])),
    fun p silent s hp hup hwhy => (if_neg (not_not.mpr hp)).trans (if_pos (by rcases hwhy with h | ⟨h, h'⟩ <;> simp [*])),
    fun p s hp hnot => (if_neg (not_not.mpr hp)).trans (if_neg (by rcases hnot with h | h <;> simp [h])),
    fun p silent s hp hdown => (if_neg (not_not.mpr hp)).trans (if_neg (by simp [hdown])),
    fun p lane s hp hl hoff => (if_neg (not_not.mpr ⟨hp, hl⟩)).trans (if_pos (by simp [hoff])),
    fun p lane s hp hl hst => ⟨_, (if_neg (not_not.mpr ⟨hp, hl⟩)).trans (if_neg (by simp [hst])), ?waiting⟩,
    fun p lane s hp hl hst => ⟨_, (if_neg (not_not.mpr ⟨hp, hl⟩)).trans (if_neg (by simp; omega)), ?lost⟩⟩
  case unlisted =>
    refine (if_neg (not_not.mpr ⟨hp, hl⟩)).trans (if_pos ?_)
    rcases hnot with h | ⟨h, h'⟩ <;> simp [*]
  case stored =>
    refine ⟨_, exec_laneQualified hp hl hlane (by omega), ?_⟩
    rw [laneJudged_kept hst]
    refine ⟨⟨rfl, fun q hq => getPort_modPort_other _ _ _ _ hq⟩, ?_, ?_, fun k hk => ?_⟩
    · rw [getPort_modPort_same]
      rfl
    · rw [getPort_modPort_same, laneOf_laneStored_same]
    · rw [getPort_modPort_same, laneOf_laneStored_other hk]
  case up =>
    refine ⟨_, exec_laneQualified hp hl hlane (.inr (.inl hst)), ?_⟩
    rw [laneJudged_passed (by rw [hst]; decide) hpass]
    have hport : getPort (modPort s p (laneStored lane cbits uncorr secs)) p = laneStored lane cbits uncorr secs (getPort s p) :=
      getPort_modPort_same _ _ _
    have hstored := laneOf_laneStored_same (lane := lane) (cbits := cbits) (uncorr := uncorr) (secs := secs) (q := getPort s p)
    have hlanes := lanesPassed_laneStored (lane := lane) (q := getPort s p) hpass
    cases hall : lanesPassed (laneStored lane cbits uncorr secs (getPort s p)) with
    | true =>
      obtain ⟨hst6, hblock, hothers, -, hrow⟩ := qualifyDone_of_passed (by rw [hport]; exact hall) (.inl (by rw [hport]; exact hst))
      refine ⟨?_, fun q hq => (hothers q hq).trans (getPort_modPort_other _ _ _ _ hq), ?_, ?_, iff_of_true hst6 (hlanes.mp hall),
        fun _ => hblock, .inr hst6⟩
      · rw [hrow (by rw [hport]; exact hst)]
        rfl
      all_goals rw [hrow (by rw [hport]; exact hst), getPort_unblock, getPort_modPort_same, hport]
      · exact (congrArg Lane.qpass hstored).trans (by rw [hpass]; exact Bool.or_true _)
      · exact congrArg Lane.cbits hstored
    | false =>
      rw [qualifyDone_of_waiting (by rw [hport]; exact hall), hport]
      have hst5 : (laneStored lane cbits uncorr secs (getPort s p)).st = 5 := hst
      refine ⟨rfl, fun q hq => getPort_modPort_other _ _ _ _ hq, (congrArg Lane.qpass hstored).trans (by rw [hpass]; exact Bool.or_true _),
        congrArg Lane.cbits hstored, iff_of_false (by rw [hst5]; decide) fun h => ?_, fun h => absurd (hst5.symm.trans h) (by decide), .inl hst5⟩
      rw [hlanes.mpr h] at hall
      exact absurd hall (by decide)
  case qualified =>
    refine ⟨_, exec_laneQualified hp hl hlane (.inl hst), ?_⟩
    rw [laneJudged_passed (by rw [hst]; decide) hpass]
    have hport : getPort (modPort s p (laneStored lane cbits uncorr secs)) p = laneStored lane cbits uncorr secs (getPort s p) :=
      getPort_modPort_same _ _ _
    have hlanes := lanesPassed_laneStored (lane := lane) (q := getPort s p) hpass
    cases hall : lanesPassed (laneStored lane cbits uncorr secs (getPort s p)) with
    | true =>
      obtain ⟨hst6, hblock, hothers, hledger, -⟩ := qualifyDone_of_passed (by rw [hport]; exact hall)
        (.inr (by rw [hport]; exact ⟨hst, hfollow, hcheck⟩))
      exact ⟨hledger, fun q hq => (hothers q hq).trans (getPort_modPort_other _ _ _ _ hq), iff_of_true hst6 (hlanes.mp hall), fun _ => hblock, .inr hst6⟩
    | false =>
      rw [qualifyDone_of_waiting (by rw [hport]; exact hall), hport]
      have hst4 : (laneStored lane cbits uncorr secs (getPort s p)).st = 4 := hst
      refine ⟨rfl, fun q hq => getPort_modPort_other _ _ _ _ hq, iff_of_false (by rw [hst4]; decide) fun h => ?_,
        fun h => absurd (hst4.symm.trans h) (by decide), .inl hst4⟩
      rw [hlanes.mpr h] at hall
      exact absurd hall (by decide)
  case out =>
    refine ⟨_, exec_laneQualified hp hl hlane (.inl hst), ?_⟩
    rw [laneJudged_failed hst hfail hlong]
    obtain ⟨hledger, hothers, hleft, hlast⟩ := laneOut_spec (s := modPort s p (laneStored lane cbits uncorr secs)) (p := p) (lane := lane) (ratio := ratio)
      (by rw [getPort_modPort_same]; exact hlane)
    rw [getPort_modPort_same] at hleft hlast
    refine ⟨hledger, fun q hq => (hothers q hq).trans (getPort_modPort_other _ _ _ _ hq), fun hmore => ?_, fun hnone => ?_⟩
    · rw [hleft hmore]
      exact ⟨rfl, hst, fun k hk => laneOf_laneCountsZero hk _⟩
    · obtain ⟨hport, hblock⟩ := hlast hnone
      rw [hport]
      exact ⟨rfl, rfl, hblock⟩
  case retrain =>
    obtain ⟨hst, hlanes, -, -, hexit⟩ := portRetrain_spec s p exit st
    have hport := getPort_portRetrain_of_up (exit := exit) (st := st) hup
    have hframe : Touches [.ports, .link, .start, .inbox] s (portRetrain s p exit st) := by simp
    obtain ⟨hbell, hpeer, hreplay, htx, hrx, htxSeq, hrxSeq, hqueue, hcredits⟩ :=
      portAnew_fresh p (retrainSt s p st) (getPort (joinLost (portLeft s p exit st) p) p)
    rw [← hport] at hbell hpeer hreplay htx hrx htxSeq hrxSeq hqueue hcredits
    refine ⟨hexit hup, hst.trans (retrainSt_eq s p st), hlanes, hbell, hpeer, hreplay, htx, hrx, fun hle => ?_, htxSeq, hrxSeq, hcredits, ?_,
      hframe.clk, hframe.tiles, fun hfirst => ?_⟩
    · rw [hqueue, txQ_joinLost, txQ_portLeft hle]
      exact ⟨fun c hc => kvGet_kvSet_other _ _ _ _ _ (by omega), kvGet_kvSet_same _ _ _ _⟩
    · obtain ⟨e, hcode, hunit, hinbox⟩ := inbox_portLeft s p exit st
      refine ⟨e, hcode, hunit, Eq.trans ?_ hinbox⟩
      rw [portRetrain_of_up hup]
      have hrest : Touches [.ports, .link] (portLeft s p exit st) (modPort (joinLost (portLeft s p exit st) p) p (portAnew p (retrainSt s p st))) := by simp
      exact hrest.inbox
    · rw [portRetrain_of_up hup, joinLost, if_neg (by rw [firstBell_portLeft, hfirst]; decide)]
      exact (portLeft_frame s p exit st).link
  case waiting =>
    rw [laneLost, if_neg (by simp [hst]), getPort_modPort_same]
    exact ⟨⟨rfl, fun q hq => getPort_modPort_other _ _ _ _ hq⟩, rfl⟩
  case lost =>
    cases hused : bitAt (if (getPort s p).st = 2 then (getPort s p).signal else (getPort s p).lanes) lane with
    | true =>
      have hrow : laneLost s p lane = portRetrain (modPort s p (laneDark lane)) p 1 2 := if_pos (by simp [hst, hused])
      obtain ⟨hst', hlanes, hpresent, hsignal, hexit⟩ := portRetrain_spec (modPort s p (laneDark lane)) p 1 2
      have htrain : portTrainable (modPort s p (laneDark lane)) p = (clrBit (getPort s p).present lane != 0 && portLit s p) := by
        rw [portTrainable, getPort_modPort_same]
        rfl
      rw [retrainSt, htrain] at hst' hsignal
      rw [getPort_modPort_same] at hpresent hsignal hexit
      have hup : portUp (laneDark lane (getPort s p)) = portUp (getPort s p) := rfl
      have hdark : (laneDark lane (getPort s p)).present = clrBit (getPort s p).present lane := rfl
      rw [hup] at hexit
      rw [hrow, hst', hsignal, hpresent, hdark]
      refine ⟨rfl, fun _ => ⟨?_, hlanes, hexit, rfl⟩, fun h => absurd h (by simp)⟩
      have hcond : (clrBit (getPort s p).present lane != 0 && portLit s p) = true ↔ clrBit (getPort s p).present lane ≠ 0 ∧ portLit s p = true := by
        rw [Bool.and_eq_true, bne_iff_ne]
      cases hany : clrBit (getPort s p).present lane != 0 && portLit s p with
      | true => exact (if_pos (hcond.mp hany)).symm
      | false => exact (if_neg fun h => absurd (hcond.mpr h) (by rw [hany]; decide)).symm
    | false =>
      have hrow : laneLost s p lane = modPort s p (laneDark lane) := if_neg (by simp [hused])
      rw [hrow, getPort_modPort_same]
      exact ⟨rfl, fun h => absurd h (by simp), fun _ => ⟨⟨rfl, fun q hq => getPort_modPort_other _ _ _ _ hq⟩, rfl⟩⟩

end Sys2Proof.Machine
end

section
/-! SUPPORT. Light, the followed clock source, and a port's control registers (R22, R302, R303, R309, R327, R334, R465, R518). -/

-- One proof after another: threads that wait for each other count against the memory of the check.
set_option Elab.async false

namespace Sys2Proof.Machine

/-! ## Single bits -/

theorem bitAt_eq_testBit (n i : Nat) : bitAt n i = n.testBit i := by
  rw [bitAt, Nat.testBit_eq_decide_div_mod_eq, Bool.beq_eq_decide_eq]

theorem testBit_add_pow {n i j : Nat} (h : n.testBit i = false) (hj : j ≠ i) : (n + 2 ^ i).testBit j = n.testBit j := by
  rcases Nat.lt_or_gt_of_ne hj with hlt | hgt
  · rw [Nat.add_comm, Nat.testBit_two_pow_add_gt hlt]
  · have hpos := Nat.two_pow_pos i
    have hlow : n % 2 ^ (i + 1) < 2 ^ i := by
      have hbit : (n % 2 ^ (i + 1)).testBit i = false := by simp [Nat.testBit_mod_two_pow, h]
      by_contra hge
      have hdiv : n % 2 ^ (i + 1) / 2 ^ i = 1 := by
        have hlt := Nat.mod_lt n (Nat.two_pow_pos (i + 1))
        rw [Nat.pow_succ] at hlt hge ⊢
        exact Nat.div_eq_of_lt_le (by omega) (by omega)
      rw [Nat.testBit_eq_decide_div_mod_eq, hdiv] at hbit
      exact absurd hbit (by decide)
    have hn := Nat.div_add_mod n (2 ^ (i + 1))
    have hsum : n + 2 ^ i = 2 ^ (i + 1) * (n / 2 ^ (i + 1)) + (n % 2 ^ (i + 1) + 2 ^ i) := by omega
    have hlt : n % 2 ^ (i + 1) + 2 ^ i < 2 ^ (i + 1) := by rw [Nat.pow_succ] at hlow ⊢; omega
    rw [hsum, Nat.testBit_two_pow_mul_add _ hlt, if_neg (by omega)]
    conv_rhs => rw [← hn, Nat.testBit_two_pow_mul_add _ (by omega), if_neg (by omega)]

theorem bitAt_setBit_other {n i j : Nat} (h : j ≠ i) : bitAt (setBit n i) j = bitAt n j := by
  unfold setBit
  split
  · rfl
  · next hclear =>
    rw [bitAt_eq_testBit, bitAt_eq_testBit]
    exact testBit_add_pow (by simpa [bitAt_eq_testBit] using hclear) h

theorem bitAt_clrBit_other {n i j : Nat} (h : j ≠ i) : bitAt (clrBit n i) j = bitAt n j := by
  unfold clrBit
  split
  · next hset =>
    have hle := pow_le_of_bitAt hset
    have hclear : (n - 2 ^ i).testBit i = false := by
      have hgone := bitAt_clrBit_same n i
      rw [clrBit_of_set hset, bitAt_eq_testBit] at hgone
      exact hgone
    have hback := testBit_add_pow hclear h
    rw [Nat.sub_add_cancel hle] at hback
    rw [bitAt_eq_testBit, bitAt_eq_testBit, hback]
  · rfl

/-! ## Folds over a list with its places -/

section
variable {α β γ : Type} {π : α → γ} {g : α → β × Nat → α}

theorem foldl_zipIdx_keeps {k : Nat} (h : ∀ a v i, i ≠ k → π (g a (v, i)) = π a) (l : List β) (n : Nat) (hk : k < n ∨ n + l.length ≤ k) (a : α) :
    π ((l.zipIdx n).foldl g a) = π a := by
  induction l generalizing n a with
  | nil => rfl
  | cons v l ih =>
    rw [List.zipIdx_cons, List.foldl_cons, ih (n + 1) (by simp only [List.length_cons] at hk; omega), h]
    simp only [List.length_cons] at hk
    omega

/-- What a fold leaves at a place is what its step at that place leaves. -/
theorem foldl_zipIdx_at {k : Nat} (h : ∀ a v i, i ≠ k → π (g a (v, i)) = π a) (l : List β) (n : Nat) {v : β} (hn : n ≤ k)
    (hv : l[k - n]? = some v) (a : α) : ∃ b, π b = π a ∧ π ((l.zipIdx n).foldl g a) = π (g b (v, k)) := by
  induction l generalizing n a with
  | nil => simp at hv
  | cons w l ih =>
    rw [List.zipIdx_cons, List.foldl_cons]
    obtain rfl | hlt := Nat.eq_or_lt_of_le hn
    · rw [Nat.sub_self, List.getElem?_cons_zero, Option.some.injEq] at hv
      subst hv
      exact ⟨a, rfl, foldl_zipIdx_keeps h l (n + 1) (.inl (by omega)) _⟩
    · rw [show k - n = k - (n + 1) + 1 by omega, List.getElem?_cons_succ] at hv
      obtain ⟨b, hb, hfold⟩ := ih (n + 1) hlt hv (g a (w, n))
      exact ⟨b, hb.trans (h a w n (by omega)), hfold⟩

end

/-- What a fold leaves of an element is what its step at that element leaves, where the others leave it. -/
theorem foldl_at {α β γ : Type} [DecidableEq β] {π : α → γ} {g : α → β → α} {k : β} (h : ∀ a b, b ≠ k → π (g a b) = π a) {l : List β}
    (hnd : l.Nodup) (hk : k ∈ l) (a : α) : ∃ b, π b = π a ∧ π (l.foldl g a) = π (g b k) := by
  induction l generalizing a with
  | nil => simp at hk
  | cons x l ih =>
    obtain ⟨hx, hnd⟩ := List.nodup_cons.mp hnd
    by_cases hxk : x = k
    · subst hxk
      exact ⟨a, rfl, foldl_keeps_of_mem l (fun s b hb => h s b fun hbx => hx (hbx ▸ hb)) (g a x)⟩
    · obtain ⟨b, hb, hfold⟩ := ih hnd ((List.mem_cons.mp hk).resolve_left (Ne.symm hxk)) (g a x)
      exact ⟨b, hb.trans (h a x hxk), hfold⟩

/-- A fold whose steps leave a state leaves it. -/
theorem foldl_fixed_of_mem {α β : Type} {g : α → β → α} {a : α} {l : List β} (h : ∀ b ∈ l, g a b = a) : l.foldl g a = a := by
  induction l with
  | nil => rfl
  | cons x l ih => rw [List.foldl_cons, h x List.mem_cons_self, ih fun b hb => h b (List.mem_cons_of_mem x hb)]

/-! ## What a port that trains again keeps -/

/-- What neither training nor discards change of a port stands as it trains again. -/
theorem portRetrain_keeps {α : Type} {g : Port → α} (hdry : ∀ q, g (portDry q) = g q)
    (hset : ∀ q st exit, g { q with st := st, exit := exit } = g q) {p : Nat} (hanew : ∀ q st, g (portAnew p st q) = g q)
    (s : State) (exit st : Nat) : g (getPort (portRetrain s p exit st) p) = g (getPort s p) := by
  cases h : portUp (getPort s p) with
  | true =>
    rw [portRetrain_of_up h, getPort_modPort_same, hanew, ← hdry, portDry_joinLost, portDry_portLeft, hdry]
    exact hset _ _ _
  | false =>
    have hport : getPort (if retrainSt s p st == 1 then unblock s p else s) p = getPort s p := by split <;> rfl
    rw [portRetrain_of_down h, getPort_modPort_same, hanew, ← hdry, portDry_joinLost, portDry_portDrain, getPort_modPort_same, hport, hdry]
    exact hset (getPort s p) _ (getPort s p).exit

/-- The light of a module, and the powers last measured. -/
def linkLight (s : State) : Kv Nat × Nat := (s.link.laser, s.link.light)

theorem linkLight_of_touches {F : List Fld} {s t : State} (h : Touches F s t) (hF : .link ∉ F) : linkLight t = linkLight s := by
  rw [linkLight, h.link hF, linkLight]

theorem linkLight_joinLost (s : State) (p : Nat) : linkLight (joinLost s p) = linkLight s := by
  unfold joinLost
  split <;> rfl

theorem linkLight_modPort (s : State) (p : Nat) (f : Port → Port) : linkLight (modPort s p f) = linkLight s := rfl

theorem linkLight_portRetrain (s : State) (p exit st : Nat) : linkLight (portRetrain s p exit st) = linkLight s := by
  cases h : portUp (getPort s p) with
  | true =>
    rw [portRetrain_of_up h, linkLight_modPort, linkLight_joinLost, linkLight_of_touches (portLeft_frame s p exit st) (by decide)]
  | false =>
    rw [portRetrain_of_down h, linkLight_modPort, linkLight_joinLost]
    refine linkLight_of_touches (F := [.ports, .start]) ?_ (by decide)
    simp

/-- A lane that has lost its signal, with its port trained again where the lane was in use. -/
theorem laneLost_cases (s : State) (p lane : Nat) :
    laneLost s p lane = portRetrain (modPort s p (laneDark lane)) p 1 2 ∨ laneLost s p lane = modPort s p (laneDark lane) :=
  ite_eq_or_eq _ _ _

theorem linkLight_laneLost (s : State) (p lane : Nat) : linkLight (laneLost s p lane) = linkLight s := by
  rcases laneLost_cases s p lane with h | h
  · rw [h, linkLight_portRetrain, linkLight_modPort]
  · rw [h, linkLight_modPort]

theorem laneLost_frame (s : State) (p lane : Nat) : Touches [.ports, .link, .start, .inbox] s (laneLost s p lane) := by
  rcases laneLost_cases s p lane with h | h <;> simp [h]

theorem portBare_laneLost_other {p q : Nat} (h : q ≠ p) (s : State) (lane : Nat) :
    portBare (getPort (laneLost s p lane) q) = portBare (getPort s q) := by
  rcases laneLost_cases s p lane with hcase | hcase
  · rw [hcase, portBare_portRetrain h, getPort_modPort_other _ _ _ _ h]
  · rw [hcase, getPort_modPort_other _ _ _ _ h]

/-! ## A sample of the light -/

/-- A port that loses the light of its input leaves for Detect. -/
def lightStep (inputs : List Nat) (s : State) (p : Nat) : State :=
  if lightLost inputs p && 2 ≤ (getPort s p).st then portRetrain s p 2 1 else s

/-- A lane whose received light is too low loses its signal. -/
def laneStep (s : State) (v : Nat × Nat × Nat) : State :=
  if opticalLane v.1 && pwrInt v.2.2 < -800 && bitAt (getPort s (v.1 / 4)).present (v.1 % 4) then laneLost s (v.1 / 4) (v.1 % 4) else s

theorem exec_laserMonitorSample {inputs : List Nat} {lanes : List (Nat × Nat × Nat)} {s : State} (h : domOn s 94 = true) :
    exec (.laserMonitorSample inputs lanes) s
      = .next (lanes.foldl laneStep ((upto 16 16).foldl (lightStep inputs) (lightRead inputs lanes s))) := if_neg (by simp [h])

theorem lightStep_frame (inputs : List Nat) (s : State) (p : Nat) : Touches [.ports, .link, .start, .inbox] s (lightStep inputs s p) := by
  unfold lightStep
  split <;> simp

theorem laneStep_frame (s : State) (v : Nat × Nat × Nat) : Touches [.ports, .link, .start, .inbox] s (laneStep s v) := by
  unfold laneStep
  split
  · exact laneLost_frame _ _ _
  · exact Touches.refl _ _

theorem linkLight_lightStep (inputs : List Nat) (s : State) (p : Nat) : linkLight (lightStep inputs s p) = linkLight s := by
  unfold lightStep
  split
  · exact linkLight_portRetrain _ _ _ _
  · rfl

theorem linkLight_laneStep (s : State) (v : Nat × Nat × Nat) : linkLight (laneStep s v) = linkLight s := by
  unfold laneStep
  split
  · exact linkLight_laneLost _ _ _
  · rfl

theorem portBare_lightStep_other {inputs : List Nat} {p q : Nat} (h : p ≠ q) (s : State) :
    portBare (getPort (lightStep inputs s p) q) = portBare (getPort s q) := by
  unfold lightStep
  split
  · exact portBare_portRetrain (Ne.symm h) _ _ _
  · rfl

/-- A port in Detect stays there with its exit cause while lanes lose their signal. -/
theorem laneStep_waiting {p : Nat} (s : State) (v : Nat × Nat × Nat) (hst : (getPort s p).st = 1) :
    (getPort (laneStep s v) p).st = 1 ∧ (getPort (laneStep s v) p).exit = (getPort s p).exit := by
  unfold laneStep
  split
  · by_cases h : p = v.1 / 4
    · subst h
      rw [laneLost, if_neg (by simp [hst]), getPort_modPort_same]
      exact ⟨hst, rfl⟩
    · have hbare := portBare_laneLost_other h s (v.1 % 4)
      exact ⟨(st_of_portBare hbare).trans hst, (congrArg Port.exit hbare :)⟩
  · exact ⟨hst, rfl⟩

/-! ## Readings -/

/-- A port without its lanes. -/
def portLaneless (q : Port) : Port := { q with lane := [] }

/-- The powers at the inputs, stored. -/
def lasersRead (inputs : List Nat) (k : Kv Nat) : Kv Nat :=
  inputs.zipIdx.foldl (fun m v => if v.2 < 4 then kvSet 0x8000 m v.2 (v.1 % 65536) else m) k

/-- The inputs below +15 dBm, dark. -/
def lightsRead (inputs : List Nat) (n : Nat) : Nat :=
  inputs.zipIdx.foldl (fun m v => if v.2 < 4 && pwrInt v.1 < 1500 then clrBit m v.2 else m) n

/-- A lane's powers, stored. -/
def laneRead (s : State) (v : Nat × Nat × Nat) : State :=
  if opticalLane v.1 then
    modPort s (v.1 / 4) (fun q => { q with lane := kvMod {} q.lane (v.1 % 4) (fun l => { l with modIn := v.2.1 % 65536, rx := v.2.2 % 65536 }) })
  else s

/-- The events of an input's reading. -/
def inputEvents (old : Kv Nat) (t : State) (v : Nat × Nat) : State := if v.2 < 4 then lightEvents old t v.2 v.1 else t

theorem lightRead_eq (inputs : List Nat) (lanes : List (Nat × Nat × Nat)) (s : State) :
    lightRead inputs lanes s = inputs.zipIdx.foldl (inputEvents s.link.laser)
      (lanes.foldl laneRead (modLink s (fun k => { k with laser := lasersRead inputs k.laser, light := lightsRead inputs k.light }))) := rfl

theorem inputEvents_frame (old : Kv Nat) (t : State) (v : Nat × Nat) : Touches [.inbox] t (inputEvents old t v) := by
  unfold inputEvents lightEvents
  dsimp only
  split_ifs <;> simp

theorem laneRead_frame (s : State) (v : Nat × Nat × Nat) : Touches [.ports] s (laneRead s v) := by
  unfold laneRead
  split <;> simp

theorem portLaneless_laneRead (s : State) (v : Nat × Nat × Nat) (q : Nat) : portLaneless (getPort (laneRead s v) q) = portLaneless (getPort s q) := by
  unfold laneRead
  split
  · by_cases h : q = v.1 / 4
    · subst h
      rw [getPort_modPort_same]
      rfl
    · rw [getPort_modPort_other _ _ _ _ h]
  · rfl

theorem lightRead_frame (inputs : List Nat) (lanes : List (Nat × Nat × Nat)) (s : State) :
    Touches [.link, .ports, .inbox] s (lightRead inputs lanes s) := by
  rw [lightRead_eq]
  have hlink : Touches [.link] s (modLink s (fun k => { k with laser := lasersRead inputs k.laser, light := lightsRead inputs k.light })) := by simp
  exact ((hlink.mono (by decide)).trans ((Touches.foldl laneRead_frame lanes _).mono (by decide))).trans
    ((Touches.foldl (inputEvents_frame s.link.laser) _ _).mono (by decide))

theorem portLaneless_lightRead (inputs : List Nat) (lanes : List (Nat × Nat × Nat)) (s : State) (q : Nat) :
    portLaneless (getPort (lightRead inputs lanes s) q) = portLaneless (getPort s q) := by
  rw [lightRead_eq, (Touches.foldl (inputEvents_frame s.link.laser) _ _).getPort q]
  exact foldl_keeps (π := fun s => portLaneless (getPort s q)) (fun s v => portLaneless_laneRead s v q) lanes _

theorem linkLight_lightRead (inputs : List Nat) (lanes : List (Nat × Nat × Nat)) (s : State) :
    linkLight (lightRead inputs lanes s) = (lasersRead inputs s.link.laser, lightsRead inputs s.link.light) := by
  rw [lightRead_eq]
  exact (linkLight_of_touches ((Touches.foldl laneRead_frame lanes _).mono (F := [.ports, .inbox]) (by decide) |>.trans
    ((Touches.foldl (inputEvents_frame s.link.laser) _ _).mono (by decide))) (by decide)).trans rfl

/-- An input's power stands in its register. -/
theorem kvGet_lasersRead {inputs : List Nat} {j v : Nat} (hlen : inputs.length ≤ 4) (hv : inputs[j]? = some v) (k : Kv Nat) :
    kvGet 0x8000 (lasersRead inputs k) j = v % 65536 := by
  have hj : j < inputs.length := (List.getElem?_eq_some_iff.mp hv).1
  obtain ⟨b, -, hfold⟩ := foldl_zipIdx_at (π := fun m : Kv Nat => kvGet 0x8000 m j)
    (g := fun m v => if v.2 < 4 then kvSet 0x8000 m v.2 (v.1 % 65536) else m) (k := j)
    (fun m v i hi => by dsimp only; split; exacts [kvGet_kvSet_other _ _ _ _ _ (Ne.symm hi), rfl]) inputs 0 (Nat.zero_le j) hv k
  refine hfold.trans ?_
  dsimp only
  rw [if_pos (by omega), kvGet_kvSet_same]

theorem bitAt_lightsRead_other {inputs : List Nat} {j : Nat} (h : inputs.length ≤ j) (n : Nat) : bitAt (lightsRead inputs n) j = bitAt n j :=
  foldl_zipIdx_keeps (π := fun m => bitAt m j) (k := j)
    (fun m v i hi => by dsimp only; split; exacts [bitAt_clrBit_other (Ne.symm hi), rfl]) inputs 0 (.inr (by omega)) n

/-- An input's light stands unless its power is below +15 dBm. -/
theorem bitAt_lightsRead {inputs : List Nat} {j v : Nat} (hlen : inputs.length ≤ 4) (hv : inputs[j]? = some v) (n : Nat) :
    bitAt (lightsRead inputs n) j = (bitAt n j && !(decide (pwrInt v < 1500))) := by
  have hj : j < inputs.length := (List.getElem?_eq_some_iff.mp hv).1
  obtain ⟨b, hb, hfold⟩ := foldl_zipIdx_at (π := fun m => bitAt m j)
    (g := fun m v => if v.2 < 4 && pwrInt v.1 < 1500 then clrBit m v.2 else m) (k := j)
    (fun m v i hi => by dsimp only; split; exacts [bitAt_clrBit_other (Ne.symm hi), rfl]) inputs 0 (Nat.zero_le j) hv n
  refine hfold.trans ?_
  dsimp only
  by_cases hdark : pwrInt v < 1500
  · rw [if_pos (by simp [hdark]; omega), bitAt_clrBit_same, decide_eq_true hdark, Bool.not_true, Bool.and_false]
  · rw [if_neg (by simp [hdark]), hb, decide_eq_false hdark, Bool.not_false, Bool.and_true]

/-! ## The rows of the light -/

/-- One lane's sample: its powers are latched, and light too low is no signal. -/
theorem laneSample_spec (v a b : Nat) (s : State) (hon : domOn s 94 = true) (hlo : 64 ≤ v) (hhi : v < 128) :
    ∃ t, exec (.laserMonitorSample [] [(v, a, b)]) s = .next t
      ∧ laneOf (getPort t (v / 4)) (v % 4) = { laneOf (getPort s (v / 4)) (v % 4) with modIn := a % 65536, rx := b % 65536 }
      ∧ (getPort t (v / 4)).present
        = (if pwrInt b < -800 then clrBit (getPort s (v / 4)).present (v % 4) else (getPort s (v / 4)).present)
      ∧ linkLight t = linkLight s := by
  obtain ⟨u, hu⟩ : ∃ u, u = lightRead [] [(v, a, b)] s := ⟨_, rfl⟩
  have hrow : exec (.laserMonitorSample [] [(v, a, b)]) s = .next (laneStep u (v, a, b)) := by
    have hdark : (upto 16 16).foldl (lightStep []) u = u := foldl_fixed_of_mem fun p _ => if_neg (by simp [lightLost])
    rw [exec_laserMonitorSample hon, ← hu, hdark]
    rfl
  have hoptical : opticalLane v = true := by simp [opticalLane, hlo, hhi]
  have hport : getPort u (v / 4) = { getPort s (v / 4) with
      lane := kvMod {} (getPort s (v / 4)).lane (v % 4) (fun l => { l with modIn := a % 65536, rx := b % 65536 }) } := by
    rw [hu, lightRead_eq]
    simp only [List.zipIdx_nil, List.foldl_nil, List.foldl_cons, laneRead, if_pos hoptical, getPort_modPort_same]
    rfl
  have hlane : laneOf (getPort u (v / 4)) (v % 4) = { laneOf (getPort s (v / 4)) (v % 4) with modIn := a % 65536, rx := b % 65536 } := by
    rw [hport, laneOf, kvGet_kvMod_same, laneOf]
  have hpresent : (getPort u (v / 4)).present = (getPort s (v / 4)).present := by rw [hport]
  have hlight : linkLight u = linkLight s := by rw [hu, linkLight_lightRead]; rfl
  refine ⟨_, hrow, ?_⟩
  by_cases hlost : pwrInt b < -800 ∧ bitAt (getPort u (v / 4)).present (v % 4) = true
  · rw [laneStep, if_pos (by simpa [hoptical] using hlost), linkLight_laneLost, if_pos hlost.1]
    rcases laneLost_cases u (v / 4) (v % 4) with hcase | hcase
    · obtain ⟨-, -, hkept, -⟩ := portRetrain_spec (modPort u (v / 4) (laneDark (v % 4))) (v / 4) 1 2
      have hlanes := portRetrain_keeps (g := Port.lane) (fun _ => rfl) (fun _ _ _ => rfl) (fun _ _ => rfl)
        (p := v / 4) (modPort u (v / 4) (laneDark (v % 4))) 1 2
      rw [getPort_modPort_same] at hkept hlanes
      rw [hcase, laneOf, hlanes, hkept]
      exact ⟨hlane, by rw [laneDark, hpresent], hlight⟩
    · rw [hcase, getPort_modPort_same]
      exact ⟨hlane, by rw [laneDark, hpresent], hlight⟩
  · rw [laneStep, if_neg (by simpa [hoptical] using hlost)]
    refine ⟨hlane, ?_, hlight⟩
    rw [hpresent]
    split
    · next hlow =>
      have hclear : bitAt (getPort s (v / 4)).present (v % 4) = false := by
        rw [← hpresent]
        simpa [hlow] using hlost
      exact (if_neg (by simp [hclear])).symm
    · rfl

/-- A dark input's port leaves for Detect, an Up one with exit cause 2. -/
theorem darkInput_spec {inputs : List Nat} {lanes : List (Nat × Nat × Nat)} {s : State} {j v p : Nat} (hlen : inputs.length ≤ 4)
    (hv : inputs[j]? = some v) (hdark : pwrInt v < 1500) (hlo : 16 + 4 * j ≤ p) (hhi : p < 20 + 4 * j) (hst : 2 ≤ (getPort s p).st)
    {t : State} (ht : t = lanes.foldl laneStep ((upto 16 16).foldl (lightStep inputs) (lightRead inputs lanes s))) :
    (getPort t p).st = 1 ∧ (portUp (getPort s p) = true → (getPort t p).exit = 2) := by
  have hj : j < inputs.length := (List.getElem?_eq_some_iff.mp hv).1
  have hlost : lightLost inputs p = true := by
    rw [lightLost, show (p - 16) / 4 = j by omega, List.head?_drop, hv]
    simp [hdark]
  obtain ⟨b, hb, hfold⟩ := foldl_at (π := fun s => portBare (getPort s p)) (g := lightStep inputs) (k := p)
    (fun s q hq => portBare_lightStep_other hq s) (nodup_upto 16 16) (by simp; omega) (lightRead inputs lanes s)
  have hread := portLaneless_lightRead inputs lanes s p
  have hstB : (getPort b p).st = (getPort s p).st := (st_of_portBare hb).trans (congrArg Port.st hread :)
  have hstep : lightStep inputs b p = portRetrain b p 2 1 := if_pos (by simp [hlost, hstB, hst])
  obtain ⟨hst1, -, -, -, hexit⟩ := portRetrain_spec b p 2 1
  rw [hstep] at hfold
  have hst' : (getPort ((upto 16 16).foldl (lightStep inputs) (lightRead inputs lanes s)) p).st = 1 := (st_of_portBare hfold).trans hst1
  have hexit' : portUp (getPort s p) = true → (getPort ((upto 16 16).foldl (lightStep inputs) (lightRead inputs lanes s)) p).exit = 2 :=
    fun hup => (congrArg Port.exit hfold :).trans (hexit (by rw [portUp, hstB]; exact hup))
  have hlanes := foldl_rel (R := fun s t => (getPort s p).st = 1 → (getPort t p).st = 1 ∧ (getPort t p).exit = (getPort s p).exit)
    (fun _ h => ⟨h, rfl⟩) (fun h1 h2 h => by
      obtain ⟨ha, hb⟩ := h1 h
      obtain ⟨hc, hd⟩ := h2 ha
      exact ⟨hc, hd.trans hb⟩) (fun s v h => laneStep_waiting s v h) lanes
    ((upto 16 16).foldl (lightStep inputs) (lightRead inputs lanes s)) hst'
  rw [ht]
  exact ⟨hlanes.1, fun hup => hlanes.2.trans (hexit' hup)⟩

/-- A module with an input's light back. -/
def lightBack (j : Nat) (s : State) : State := modLink s (fun k => { k with light := setBit k.light j })

/-- A module whose clock source has gone. -/
def sourceGone (s : State) : State := modLink s (fun k => { k with locked := false, holdover := true })

theorem getPort_trainSteps {l : List Nat} (s : State) (p : Nat) (h : p ∉ l ∨ (getPort s p).st ≠ 1 ∨ (getPort s p).present = 0) :
    getPort (l.foldl trainStart s) p = getPort s p := by
  induction l generalizing s with
  | nil => rfl
  | cons q l ih =>
    have hstep : getPort (trainStart s q) p = getPort s p := by
      by_cases hq : p = q
      · subst hq
        have hno : (getPort s p).st ≠ 1 ∨ (getPort s p).present = 0 := h.resolve_left (by simp)
        rw [trainStart_of_not]
        exact hno.imp_right fun h0 => by simp [portTrainable, h0]
      · exact getPort_trainStart_other hq
    rw [List.foldl_cons, ih _ (by rw [hstep]; exact h.imp_left fun hl hmem => hl (List.mem_cons_of_mem q hmem)), hstep]

/-- Ports that wait with signal train once their light is back. -/
theorem getPort_trainSteps_of_mem {l : List Nat} (s : State) (p : Nat) (hp : p ∈ l) (hnd : l.Nodup) (hst : (getPort s p).st = 1)
    (hsig : (getPort s p).present ≠ 0) (hlit : portLit s p = true) :
    getPort (l.foldl trainStart s) p = linkFresh p { getPort s p with st := 2, signal := (getPort s p).present } := by
  obtain ⟨u, hu, hsame, hfold⟩ := getPort_foldl trainStart_frame (fun s p q hq => getPort_trainStart_other hq) hnd hp s
  have hlit' : portLit u p = true := by rw [portLit, hu.link]; exact hlit
  rw [hfold, getPort_trainStart_of_lit (by rw [hsame]; exact hst) (by simp [portTrainable, hsame, hsig, hlit']), hsame]

/-! ## The control registers -/

/-- EN: a port that stands enabled, or is fenced, is left. -/
theorem portEnable_of_kept {s : State} {p : Nat} (h : (getPort s p).fenced = true ∨ (getPort s p).en = true ∧ (getPort s p).st ≠ 0) :
    portEnable s p true = s := by
  unfold portEnable
  dsimp only
  rcases h with h | ⟨h, h'⟩
  · rw [if_pos (by simp [h])]
  · split
    · rfl
    · rw [if_pos rfl, if_pos (by simp [h, h'])]

theorem portEnable_of_off {s : State} {p : Nat} (hfence : (getPort s p).fenced = false) (hst : (getPort s p).st = 0) :
    portEnable s p true = lightRequest (modPort (setDom s (portDom p) .on) p (fun q => { q with en := true, st := 1 })) := by
  unfold portEnable
  dsimp only
  rw [if_neg (by simp [hfence]), if_pos rfl, if_neg (by simp [hst])]

/-- Turned off, a port is not enabled, and its pair's domain goes with it unless the pair's other port is enabled. -/
theorem portEnable_off_spec (s : State) (p : Nat) :
    (getPort (portEnable s p false) p).en = false ∧ (getPort (portEnable s p false) p).st = 0
      ∧ ((getPort (portEnable s p false) (portPair p)).en = false → domOn (portEnable s p false) (portDom p) = false) := by
  unfold portEnable
  simp only [Bool.false_and, Bool.false_eq_true, if_false]
  split_ifs with h1 h2 h2 <;> simp_all

/-- A port with BELL_FOLLOW as it is written. -/
def portFollow (v : Nat) (q : Port) : Port := { q with follow := bitAt v 30 }

/-- A port's register as it is written: BELL_FOLLOW, then what is persisted. -/
def lkFollowed (p v : Nat) (u : State) : State :=
  persist (modPort u p (portFollow v)) (64 + p) (2 * b2n (getPort (modPort u p (portFollow v)) p).en + b2n (bitAt v 30))

theorem getPort_lkFollowed_same (p v : Nat) (u : State) : getPort (lkFollowed p v u) p = portFollow v (getPort u p) := by
  rw [lkFollowed, getPort_persist, getPort_modPort_same]

theorem getPort_lkFollowed_other {p q : Nat} (h : q ≠ p) (v : Nat) (u : State) : getPort (lkFollowed p v u) q = getPort u q := by
  rw [lkFollowed, getPort_persist, getPort_modPort_other _ _ _ _ h]

theorem flash_lkFollowed (p v : Nat) (u : State) :
    kvGet none (lkFollowed p v u).start.flash (64 + p) = some (2 * b2n (getPort u p).en + b2n (bitAt v 30)) := by
  simp [lkFollowed, persist, portFollow]

theorem domOn_lkFollowed (p v : Nat) (u : State) (d : Nat) : domOn (lkFollowed p v u) d = domOn u d := rfl

section
variable {s : State} {p v : Nat}

theorem lkCtlWrite_of_dark (h : domOn s 95 = false) : lkCtlWrite s p v = s := if_pos (by simp [h])

theorem lkCtlWrite_of_plain (hon : domOn s 95 = true) (h : bitAt v 29 = false) :
    lkCtlWrite s p v = lkFollowed p v (portEnable s p (bitAt v 31)) := (if_neg (by simp [hon])).trans (if_neg (by simp [h]))

theorem lkCtlWrite_of_retrain (hon : domOn s 95 = true) (h : bitAt v 29 = true) :
    lkCtlWrite s p v = if portUp (getPort (lkFollowed p v (portEnable s p (bitAt v 31))) p)
      then portRetrain (lkFollowed p v (portEnable s p (bitAt v 31))) p 5 2 else lkFollowed p v (portEnable s p (bitAt v 31)) := by
  unfold lkCtlWrite
  dsimp only
  rw [if_neg (by simp [hon]), h, Bool.true_and]
  rfl

theorem exec_lkCtlEnWrite (hp : p < portCount) (h : bitAt v 29 = false) :
    exec (.lkCtlEnWrite p v) s = .next (withHealth s (lkCtlWrite s p v)) := (if_neg (not_not.mpr hp)).trans (if_neg (by simp [h]))

theorem exec_lkCtlRetrain (hp : p < portCount) (h : bitAt v 29 = true) :
    exec (.lkCtlRetrain p v) s = .next (withHealth s (lkCtlWrite s p v)) := (if_neg (not_not.mpr hp)).trans (if_pos h)

/-- A write of the control register through the row that takes it. -/
theorem exec_lkCtl (hp : p < portCount) :
    exec (if bitAt v 29 then .lkCtlRetrain p v else .lkCtlEnWrite p v) s = .next (withHealth s (lkCtlWrite s p v)) := by
  split
  · next h => exact exec_lkCtlRetrain hp h
  · next h => exact exec_lkCtlEnWrite hp (by simpa using h)

end

/-! ## The expected peer -/

/-- A port with another peer expected. -/
def peerExpected (v : Nat) (q : Port) : Port := { q with expCheck := bitAt v 31, expPort := bits v 21 17, expMod := bits v 16 0 }

/-- The register of the expected peer, written and persisted. -/
def peerNamed (s : State) (p v : Nat) : State := persist (modPort s p (peerExpected v)) (128 + p) (v % 2 ^ 32)

theorem getPort_peerNamed_same (s : State) (p v : Nat) : getPort (peerNamed s p v) p = peerExpected v (getPort s p) := by
  rw [peerNamed, getPort_persist, getPort_modPort_same]

theorem getPort_peerNamed_other {p q : Nat} (h : q ≠ p) (s : State) (v : Nat) : getPort (peerNamed s p v) q = getPort s q := by
  rw [peerNamed, getPort_persist, getPort_modPort_other _ _ _ _ h]

theorem peerWrong_peerExpected (v : Nat) (q : Port) :
    peerWrong (peerExpected v q) = (bitAt v 31 && (q.peerMod != bits v 16 0 || q.peerPort != bits v 21 17)) := rfl

theorem heldRelease_frame (s : State) (p : Nat) : Touches [.ports, .link, .inbox] s (heldRelease s p) := by
  unfold heldRelease
  dsimp only
  split
  · exact portComeUp_frame s p 5
  · exact Touches.refl _ _

theorem heldRelease_of_free {s : State} {p : Nat} (h : (getPort s p).st ≠ 8 ∨ peerWrong (getPort s p) = true) : heldRelease s p = s :=
  if_neg (by rcases h with h | h <;> simp [h])

/-- A held port whose peer is right, and that does not follow, comes Up. -/
theorem heldRelease_of_right {s : State} {p : Nat} (hst : (getPort s p).st = 8) (hfollow : (getPort s p).followOn = false)
    (h : peerWrong (getPort s p) = false) : heldRelease s p = portComeUp s p 5 := if_pos (by simp [hst, hfollow, h])

theorem portTold_heldRelease (s : State) (p : Nat) : portTold (getPort (heldRelease s p) p) = portTold (getPort s p) := by
  unfold heldRelease
  dsimp only
  split
  · exact (portComeUp_spec s p 5 (.inl rfl)).2.1
  · rfl

theorem portTold_peerHeld (s : State) (p : Nat) : portTold (getPort (peerHeld s p) p) = portTold (getPort s p) :=
  (portTold_of_dry (portDry_portHold s p)).trans rfl

theorem expected_of_told {a b : Port} (h : portTold a = portTold b) : a.expCheck = b.expCheck ∧ a.expPort = b.expPort ∧ a.expMod = b.expMod :=
  ⟨(congrArg Port.expCheck h :), (congrArg Port.expPort h :), (congrArg Port.expMod h :)⟩

/-- A write of the expected peer holds a port in Qualify or Up whose known peer it excludes, and may release a held one. -/
theorem peerExpWrite_cases (s : State) (p v : Nat) :
    ((getPort s p).peerValid = true ∧ 4 ≤ (getPort s p).st ∧ (getPort s p).st ≤ 6 ∧ peerWrong (peerExpected v (getPort s p)) = true
        → peerExpWrite s p v = peerHeld (peerNamed s p v) p)
      ∧ ((getPort s p).peerValid = false ∨ (getPort s p).st < 4 ∨ 6 < (getPort s p).st ∨ peerWrong (peerExpected v (getPort s p)) = false
        → peerExpWrite s p v = heldRelease (peerNamed s p v) p) := by
  have hrow : peerExpWrite s p v = if (peerExpected v (getPort s p)).peerValid && 4 ≤ (peerExpected v (getPort s p)).st
      && (peerExpected v (getPort s p)).st ≤ 6 && peerWrong (peerExpected v (getPort s p)) then peerHeld (peerNamed s p v) p
      else heldRelease (peerNamed s p v) p := by
    rw [← getPort_peerNamed_same]
    rfl
  refine ⟨fun ⟨hvalid, hlo, hhi, hwrong⟩ => hrow.trans (if_pos ?_), fun h => hrow.trans (if_neg ?_)⟩
  · simp only [peerExpected, hvalid, Bool.true_and, Bool.and_eq_true, decide_eq_true_eq]
    exact ⟨⟨hlo, hhi⟩, hwrong⟩
  · simp only [Bool.and_eq_true, decide_eq_true_eq]
    rintro ⟨⟨⟨hvalid, hlo⟩, hhi⟩, hwrong⟩
    rcases h with h | h | h | h
    · exact absurd (hvalid.symm.trans h) (by decide)
    · exact absurd hlo (Nat.not_le.mpr h)
    · exact absurd hhi (Nat.not_le.mpr h)
    · exact absurd (hwrong.symm.trans h) (by decide)

theorem peerExpWrite_frame (s : State) (p v : Nat) : Touches [.ports, .link, .inbox] (peerNamed s p v) (peerExpWrite s p v)
    ∧ portTold (getPort (peerExpWrite s p v) p) = portTold (peerExpected v (getPort s p)) := by
  rw [← getPort_peerNamed_same]
  obtain ⟨hheld, hrest⟩ := peerExpWrite_cases s p v
  by_cases h : (getPort s p).peerValid = true ∧ 4 ≤ (getPort s p).st ∧ (getPort s p).st ≤ 6 ∧ peerWrong (peerExpected v (getPort s p)) = true
  · rw [hheld h]
    exact ⟨peerHeld_frame _ p, portTold_peerHeld _ p⟩
  · rw [hrest ?_]
    · exact ⟨heldRelease_frame _ p, portTold_heldRelease _ p⟩
    · by_contra hno
      simp only [not_or, Bool.not_eq_false, Nat.not_lt] at hno
      exact h ⟨hno.1, hno.2.1, hno.2.2.1, hno.2.2.2⟩

/-- Settles O36: each row by its guard; samples by what the folds over inputs, ports and lanes leave, a port's registers by the
branches of `portEnable` and `peerExpWrite`. -/
theorem lightClockAndPortControl : Obligations.LightClockAndPortControl := by
  refine ⟨⟨fun inputs lanes s hoff => if_pos (by simp [hoff]), fun v a b s hon hlo hhi => ?lane, fun inputs lanes s hon hlen => ?inputs,
      fun j s hj => ⟨(upto (16 + 4 * j) 4).foldl trainStart (lightBack j s), if_neg (not_not.mpr hj), ?restored⟩⟩,
    ⟨fun s hroot hlock hlost => ⟨fun p hp => ?locked, fun hnone => ?holdover⟩, fun s p hp => ?source, fun s hkept => ?heldSource,
      fun s hhold hnone hfree => ?left, fun s hno => ?stays⟩,
    ⟨fun p v s hp hoff => ?dark, fun p v s hp h29 h31 hen hst hon hfence => ?follow, fun p v s hp h29 h31 hfence hst hon => ?enable,
      fun p v s hp h29 h31 hon => ?disable, fun p v s hp h31 hfence hen => ?fenced, fun p v s hp h29 h31 hen hup hon => ?retrain,
      fun p v s hp h29 => (if_neg (not_not.mpr hp)).trans (if_pos h29), fun p v s hp h29 => (if_neg (not_not.mpr hp)).trans (if_neg (by simp [h29])),
      fun p v s hp hoff => (if_neg (not_not.mpr hp)).trans (if_neg (by simpa [portDom] using hoff)),
      fun p v s hp hon => ⟨peerExpWrite s p v, (if_neg (not_not.mpr hp)).trans (if_pos hon), ?expected⟩⟩⟩
  case lane =>
    obtain ⟨t, hrow, hlane, hpresent, hlight⟩ := laneSample_spec v a b s hon hlo hhi
    rw [linkLight, linkLight, Prod.mk.injEq] at hlight
    exact ⟨t, hrow, by rw [hlane], by rw [hlane], hpresent, hlight.2, hlight.1⟩
  case inputs =>
    have hframe : Touches [.ports, .link, .start, .inbox] s
        (lanes.foldl laneStep ((upto 16 16).foldl (lightStep inputs) (lightRead inputs lanes s))) :=
      (((lightRead_frame inputs lanes s).mono (by decide)).trans (Touches.foldl (lightStep_frame inputs) _ _)).trans (Touches.foldl laneStep_frame _ _)
    have hlight : linkLight (lanes.foldl laneStep ((upto 16 16).foldl (lightStep inputs) (lightRead inputs lanes s)))
        = (lasersRead inputs s.link.laser, lightsRead inputs s.link.light) := by
      rw [foldl_keeps linkLight_laneStep, foldl_keeps (linkLight_lightStep inputs), linkLight_lightRead]
    rw [linkLight, Prod.mk.injEq] at hlight
    refine ⟨_, exec_laserMonitorSample hon, fun j v hv => ⟨?_, ?_, fun hdark p hlo hhi hst => darkInput_spec hlen hv hdark hlo hhi hst rfl⟩,
      fun j hj => ?_, hframe.clk, hframe.tiles, hframe.mems, hframe.pins⟩
    · rw [hlight.1, kvGet_lasersRead hlen hv]
    · rw [hlight.2, bitAt_lightsRead hlen hv]
    · rw [hlight.2, bitAt_lightsRead_other hj]
  case restored =>
    have hframe := Touches.foldl trainStart_frame (upto (16 + 4 * j) 4) (lightBack j s)
    have hlink : ((upto (16 + 4 * j) 4).foldl trainStart (lightBack j s)).link = { s.link with light := setBit s.link.light j } := hframe.link
    have hlights : ((upto (16 + 4 * j) 4).foldl trainStart (lightBack j s)).link.light = setBit s.link.light j := congrArg (·.light) hlink
    refine ⟨?_, ?_, fun i hi => ?_, fun p hlo hhi hst hsig => ?_, fun p hno => ?_⟩
    · have hall : Touches [.link, .ports] s ((upto (16 + 4 * j) 4).foldl trainStart (lightBack j s)) :=
        Touches.trans (by simp [lightBack]) (hframe.mono (by decide))
      rw [hlights, ← hlink]
      exact hall.eq_overlay
    · rw [hlights]
      exact bitAt_setBit _ _
    · rw [hlights]
      exact bitAt_setBit_other hi
    · have hlit : portLit (lightBack j s) p = true := by
        rw [portLit, show (p - 16) / 4 = j by omega]
        exact Bool.or_eq_true_iff.mpr (.inr (bitAt_setBit _ _))
      have hport := getPort_trainSteps_of_mem (l := upto (16 + 4 * j) 4) (lightBack j s) p (by simp; omega) (nodup_upto _ _) hst hsig hlit
      rw [hport]
      exact ⟨rfl, rfl⟩
    · refine getPort_trainSteps (lightBack j s) p ?_
      rw [mem_upto]
      by_cases hin : 16 + 4 * j ≤ p ∧ p < 16 + 4 * j + 4
      · exact .inr ((hno.resolve_left (by omega)).resolve_left (by omega))
      · exact .inl hin
  case locked =>
    refine (if_neg (by simp [hroot, hlock, hlost])).trans (congrArg Host.Outcome.next ?_)
    have hsrc : clkSource (sourceGone s) = some p := hp
    have hroot' : (sourceGone s).link.root = false := hroot
    show clkLock (sourceGone s) = _
    rw [clkLock, hroot', hsrc]
    rfl
  case holdover =>
    refine (if_neg (by simp [hroot, hlock, hlost])).trans (congrArg Host.Outcome.next ?_)
    have hsrc : clkSource (sourceGone s) = none := hnone
    have hroot' : (sourceGone s).link.root = false := hroot
    show clkLock (sourceGone s) = _
    rw [clkLock, hroot', hsrc]
    rfl
  case source =>
    have hfollows : portFollows s p = true := List.find?_some hp
    rw [portFollows, Bool.and_eq_true] at hfollows
    exact ⟨List.mem_of_find?_eq_some hp, hfollows.1, hfollows.2⟩
  case heldSource =>
    refine if_pos ?_
    rcases hkept with h | h | h <;> simp [h]
  case left =>
    refine ⟨{ code := evClockLost, bell := s.clk.bell, cc := s.clk.intvCc }, _, rfl, ?_, rfl⟩
    refine (if_pos (by simp [hhold, hnone])).trans (congrArg (fun u => Host.Outcome.next (withHealth s u)) ?_)
    unfold domainReformed
    split
    · rfl
    · exact foldl_fixed_of_mem fun p hp => heldRelease_of_free (.inl (hfree p (by simpa [portCount] using hp)))
  case stays =>
    refine if_neg ?_
    rcases hno with h | h
    · simp [h]
    · cases hsrc : clkSource s with
      | none => simp [hsrc] at h
      | some p => simp
  case dark => rw [exec_lkCtl hp, lkCtlWrite_of_dark hoff]
  case follow =>
    refine ⟨_, exec_lkCtlEnWrite hp h29, ?_⟩
    rw [lkCtlWrite_of_plain hon h29, h31, portEnable_of_kept (.inr ⟨hen, hst⟩)]
    exact ⟨getPort_lkFollowed_same p v s, fun q hq => getPort_lkFollowed_other hq v s, by rw [flash_lkFollowed, hen]; rfl⟩
  case enable =>
    refine ⟨_, exec_lkCtlEnWrite hp h29, ?_⟩
    rw [lkCtlWrite_of_plain hon h29, h31, portEnable_of_off hfence hst, getPort_lkFollowed_same, flash_lkFollowed, domOn_lkFollowed]
    refine ⟨by simp [portFollow], by simp [portFollow], by simp [portFollow], by simp [portFollow], ?_, fun q hq => ?_, by simp [b2n]⟩
    · exact (domOn_setDom_same s (portDom p) .on)
    · rw [getPort_lkFollowed_other hq, getPort_lightRequest, getPort_modPort_other _ _ _ _ hq, getPort_setDom]
  case disable =>
    obtain ⟨hen, hst, hpair⟩ := portEnable_off_spec s p
    refine ⟨_, exec_lkCtlEnWrite hp h29, ?_⟩
    rw [lkCtlWrite_of_plain hon h29, h31, getPort_lkFollowed_same, flash_lkFollowed, domOn_lkFollowed, hen,
      getPort_lkFollowed_other (show (p + 16) % 32 ≠ p by omega)]
    refine ⟨hen, hst, rfl, hpair, ?_⟩
    simp [b2n]
  case fenced =>
    refine ⟨_, exec_lkCtl hp, ?_⟩
    cases hon : domOn s 95 with
    | false =>
      rw [lkCtlWrite_of_dark hon]
      exact hen
    | true =>
      have hport : (getPort (lkFollowed p v (portEnable s p (bitAt v 31))) p).en = false := by
        rw [h31, portEnable_of_kept (.inl hfence), getPort_lkFollowed_same]
        exact hen
      cases h29 : bitAt v 29 with
      | false =>
        rw [lkCtlWrite_of_plain hon h29]
        exact hport
      | true =>
        rw [lkCtlWrite_of_retrain hon h29]
        split
        · exact (portRetrain_keeps (g := Port.en) (fun _ => rfl) (fun _ _ _ => rfl) (fun _ _ => rfl) _ 5 2).trans hport
        · exact hport
  case retrain =>
    refine ⟨_, exec_lkCtlRetrain hp h29, ?_⟩
    have hst : (getPort s p).st ≠ 0 := by
      intro h
      simp [portUp, h] at hup
    rw [lkCtlWrite_of_retrain hon h29, h31, portEnable_of_kept (.inr ⟨hen, hst⟩)]
    have hport := getPort_lkFollowed_same p v s
    have hup' : portUp (getPort (lkFollowed p v s) p) = true := by rw [hport]; exact hup
    have htrain : portTrainable (lkFollowed p v s) p = portTrainable s p := by
      rw [portTrainable, hport]
      rfl
    rw [if_pos hup']
    obtain ⟨hst2, -, -, -, hexit⟩ := portRetrain_spec (lkFollowed p v s) p 5 2
    have hkept := portRetrain_keeps (g := Port.en) (fun _ => rfl) (fun _ _ _ => rfl) (fun _ _ => rfl) (p := p) (lkFollowed p v s) 5 2
    refine ⟨hst2.trans ?_, hexit hup', hkept.trans (by rw [hport]; exact hen)⟩
    rw [retrainSt, htrain]
    cases portTrainable s p <;> rfl
  case expected =>
    obtain ⟨hframe, htold⟩ := peerExpWrite_frame s p v
    obtain ⟨hcheck, hport, hmod⟩ := expected_of_told htold
    obtain ⟨hheld, hrest⟩ := peerExpWrite_cases s p v
    have hsame := getPort_peerNamed_same s p v
    refine ⟨hcheck, hport, hmod, ?_, fun hright => ?_, fun hon31 hother => ?_⟩
    · rw [hframe.start]
      simp [peerNamed, persist]
    · have hwrong : peerWrong (peerExpected v (getPort s p)) = false := by
        rw [peerWrong_peerExpected]
        rcases hright with h | ⟨h, h'⟩
        · rw [h, Bool.false_and]
        · rw [h, h', bne_self_eq_false, bne_self_eq_false, Bool.or_false, Bool.and_false]
      rw [hrest (.inr (.inr (.inr hwrong)))]
      refine ⟨fun hst8 hfollow => ?_, fun hst => ?_⟩
      · rw [heldRelease_of_right (by rw [hsame]; exact hst8) (by rw [hsame]; exact hfollow) (by rw [hsame]; exact hwrong)]
        obtain ⟨hst5, hothers⟩ := portComeUp_of_free (s := peerNamed s p v) (p := p) (st := 5) (by rw [hsame]; exact hfollow) (by rw [hsame]; exact hwrong)
        exact ⟨hst5, fun q hq => (hothers q hq).trans (getPort_peerNamed_other hq s v)⟩
      · rw [heldRelease_of_free (.inl (by rw [hsame]; exact hst)), hsame]
        exact ⟨rfl, fun q hq => getPort_peerNamed_other hq s v⟩
    · have hwrong : peerWrong (peerExpected v (getPort s p)) = true := by
        rw [peerWrong_peerExpected, hon31, Bool.true_and, Bool.or_eq_true, bne_iff_ne, bne_iff_ne]
        exact hother.imp Ne.symm Ne.symm
      refine ⟨fun hvalid hlo hhi => ?_, fun hno => ?_⟩
      · rw [hheld ⟨hvalid, hlo, hhi, hwrong⟩]
        exact ⟨st_portHold _ p, _, rfl, inbox_peerHeld _ p⟩
      · rw [hrest (hno.imp_right fun h => h.imp_right .inl), heldRelease_of_free (.inr (by rw [hsame]; exact hwrong)), hsame]
        exact ⟨rfl, fun q hq => getPort_peerNamed_other hq s v⟩

end Sys2Proof.Machine
end

section
/-! SUPPORT. The flits that leave a port: their fields, and which goes first (R310 to R314). -/

-- One proof after another: threads that wait for each other count against the memory of the check.
set_option Elab.async false

namespace Sys2Proof.Machine

/-! ## Fields of bytes put together -/

theorem fld_of_parts {bs as cs : List Byte} {off n v : Nat} (hbs : bs = as ++ (toLe n v ++ cs)) (hoff : as.length = off) :
    fld bs off n = v % 256 ^ n := by
  have hmid := slice_append_mid as (toLe n v) cs
  rw [List.append_assoc, toLe_length, hoff, ← hbs] at hmid
  rw [fld, hmid, leNat_toLe]

theorem slice_slice_zero (bs : List Byte) {m n : Nat} (h : n ≤ m) : slice (slice bs 0 m) 0 n = slice bs 0 n := by
  have htake : ∀ (bs : List Byte) k, slice bs 0 k = (bs ++ List.replicate k 0).take k := by
    intro bs k
    rw [slice, List.drop_zero, List.take_append]
    by_cases hk : k ≤ bs.length
    · simp [hk, Nat.sub_eq_zero_of_le hk]
    · simp [List.take_of_length_le (Nat.le_of_not_le hk)]
  have hlong : (slice bs 0 m).length = m := slice_length _ _ _
  rw [htake (slice bs 0 m) n, List.take_append_of_le_length (by omega), htake, htake, List.take_take, Nat.min_eq_left h]
  by_cases hn : n ≤ bs.length
  · rw [List.take_append_of_le_length hn, List.take_append_of_le_length hn]
  · have hle : bs.length ≤ n := Nat.le_of_not_le hn
    rw [List.take_append, List.take_append, List.take_replicate, List.take_replicate]
    congr 2
    omega

theorem slice_within {bs as mid cs : List Byte} {off n : Nat} (hbs : bs = as ++ mid ++ cs) (hoff : as.length = off) (hn : n ≤ mid.length) :
    slice bs off n = slice mid 0 n := by
  subst hbs hoff
  rw [slice, slice, List.append_assoc, List.drop_left, List.drop_zero, List.take_append_of_le_length hn]

/-! ## A flit's fields -/

section
variable (q : Port) (type cls seq first : Nat) (body : List Byte)

/-- The acknowledgement that a flit carries. -/
def flitAckWord (q : Port) : Nat := match q.rxAck with | some a => a + 32768 | none => 0

/-- A flit without its check value. -/
def flitPlain : List Byte :=
  toLe 1 type ++ toLe 1 cls ++ toLe 2 seq ++ toLe 2 (flitAckWord q) ++ toLe 1 q.crNext ++ [0] ++ toLe 2 (kvGet 0 q.crRet q.crNext)
    ++ toLe 2 first ++ slice body 0 240

theorem flitOf_eq : flitOf q type cls seq first body = flitPlain q type cls seq first body ++ toLe 4 (crc32 (flitPlain q type cls seq first body)) := rfl

theorem fld_flitOf_type : fld (flitOf q type cls seq first body) 0 1 = type % 256 :=
  fld_of_parts (as := []) (by rw [flitOf_eq, flitPlain]; simp only [List.append_assoc, List.nil_append]; rfl) rfl

theorem fld_flitOf_class : fld (flitOf q type cls seq first body) 1 1 = cls % 256 :=
  fld_of_parts (as := toLe 1 type) (by rw [flitOf_eq, flitPlain]; simp only [List.append_assoc]; rfl) (by simp)

theorem fld_flitOf_seq : fld (flitOf q type cls seq first body) 2 2 = seq % 65536 :=
  fld_of_parts (as := toLe 1 type ++ toLe 1 cls) (by rw [flitOf_eq, flitPlain]; simp only [List.append_assoc]; rfl) (by simp)

theorem fld_flitOf_body {n : Nat} (h : n ≤ 240) : fld (flitOf q type cls seq first body) 12 n = fld body 0 n := by
  have hmid : slice (flitOf q type cls seq first body) 12 n = slice (slice body 0 240) 0 n :=
    slice_within (as := toLe 1 type ++ toLe 1 cls ++ toLe 2 seq ++ toLe 2 (flitAckWord q) ++ toLe 1 q.crNext ++ [0]
      ++ toLe 2 (kvGet 0 q.crRet q.crNext) ++ toLe 2 first) (by rw [flitOf_eq, flitPlain]) (by simp) (by simpa using h)
  rw [fld, hmid, slice_slice_zero body h, fld]

theorem flitOf_length : (flitOf q type cls seq first body).length = 256 := ((flitGood_iff _).mp (flitOf_whole q type cls seq first body)).1

end

theorem fld_bellBody (s : State) : fld (bellBody s) 0 8 = s.clk.bell % 2 ^ 48 := by
  have hlt : s.clk.bell % 2 ^ 48 < 256 ^ 8 := Nat.lt_of_lt_of_le (Nat.mod_lt _ (by decide)) (by decide)
  have hfirst := fld_of_parts (as := []) (off := 0) (n := 8) (v := s.clk.bell % 2 ^ 48)
    (bs := toLe 8 (s.clk.bell % 2 ^ 48) ++ toLe 4 (min 10240 (ccToPs s s.clk.intvCc))
      ++ toLe 4 (min (2 ^ 32 - 1) (ccToPs s s.clk.localHold / 1000)) ++ toLe 4 s.link.domain ++ voteBytes s false)
    (by simp only [List.nil_append, List.append_assoc]; rfl) rfl
  rw [fld, bellBody, slice_slice_zero _ (by decide)]
  exact hfirst.trans (Nat.mod_eq_of_lt hlt)

/-! ## Which flit leaves -/

/-- A flit without a sequence, sent. -/
def plainSent (q : Port) (type : Nat) (body : List Byte) : Port := flitSent q (flitOf q type 0 0 0 body)

/-- A flit of the replay buffer, sent again. -/
def replaySent (q : Port) (e : Nat × List Byte) : Port :=
  flitSent { q with
    tx := (q.tx + 1) % 2 ^ 32
    resend := if q.replay.any (fun x => x.1 == (e.1 + 1) % 4096) then some ((e.1 + 1) % 4096) else none } (flitAgain q e.2)

/-- The class of the data that may leave. -/
def dataDue (p : Nat) (q : Port) : Option Nat := if q.replay.length < replayFlits p then dataClass q else none

section
variable {s : State} {p : Nat} {q : Port} (hq : q = getPort s p)
include hq

theorem flitStep_of_gone (h : s.reeve.gone = true) : flitStep s p = plainSent q 2 [] := by
  subst hq
  exact if_pos h

variable (hlive : s.reeve.gone = false)
include hlive

theorem flitStep_of_probe (h : q.probeDue = true) : flitStep s p = plainSent { q with probeDue := false } 6 [] := by
  subst hq
  exact (if_neg (by simp [hlive])).trans (if_pos h)

variable (hprobe : q.probeDue = false)
include hprobe

theorem flitStep_of_bell (h : q.bellDue = true) (h' : q.bellActive = true) :
    flitStep s p = plainSent { q with bellDue := false } 3 (bellBody s) := by
  subst hq
  exact (if_neg (by simp [hlive])).trans ((if_neg (by simp [hprobe])).trans (if_pos (by simp [h, h'])))

variable (hbell : q.bellDue = false ∨ q.bellActive = false)
include hbell

theorem flitStep_of_request (h : q.reqDue = true) : flitStep s p
    = plainSent { q with reqDue := false, reqTries := q.reqTries + 1, retryReq := satAdd 16 q.retryReq 1 } 4 (toLe 2 q.rxSeq) := by
  subst hq
  exact (if_neg (by simp [hlive])).trans ((if_neg (by simp [hprobe])).trans
    ((if_neg (by rcases hbell with h | h <;> simp [h])).trans (if_pos h)))

variable (hreq : q.reqDue = false)
include hreq

theorem flitStep_of_replay {e : Nat × List Byte} (h : q.resend.bind (fun n => q.replay.find? (fun e => e.1 == n)) = some e) :
    flitStep s p = replaySent q e := by
  subst hq
  unfold flitStep
  dsimp only
  rw [if_neg (by simp [hlive]), if_neg (by simp [hprobe]), if_neg (by rcases hbell with h | h <;> simp [h]), if_neg (by simp [hreq]), h]
  rfl

variable (hreplay : q.resend.bind (fun n => q.replay.find? (fun e => e.1 == n)) = none)
include hreplay

theorem flitStep_of_linkState (h : 1024 ≤ q.lsCount ∨ q.lastLs ≠ linkStateBody s p) :
    flitStep s p = { plainSent { q with lastLs := linkStateBody s p } 5 (linkStateBody s p) with lsCount := 1 } := by
  subst hq
  unfold flitStep
  dsimp only
  rw [if_neg (by simp [hlive]), if_neg (by simp [hprobe]), if_neg (by rcases hbell with h | h <;> simp [h]), if_neg (by simp [hreq]), hreplay]
  exact if_pos (by rcases h with h | h <;> simp [h, Ne.symm])

theorem flitStep_of_rest (h : q.lsCount < 1024) (h' : q.lastLs = linkStateBody s p) :
    flitStep s p = match dataDue p q with
      | some c => sendData q c
      | none => plainSent q 2 [] := by
  subst hq
  unfold flitStep
  dsimp only
  rw [if_neg (by simp [hlive]), if_neg (by simp [hprobe]), if_neg (by rcases hbell with h | h <;> simp [h]), if_neg (by simp [hreq]), hreplay]
  exact if_neg (by simp [h, h'])

end

theorem linkStateBody_modPort {f : Port → Port} (hf : ∀ q, (f q).followOn = q.followOn) (s : State) (p : Nat) :
    linkStateBody (modPort s p f) p = linkStateBody s p := by
  rw [linkStateBody, getPort_modPort_same, hf]
  rfl

/-- The flit that leaves reads the state through the port, the bell and what the link state tells. -/
theorem flitStep_modPort {f : Port → Port} {s : State} {p : Nat} (hf : f (getPort s p) = getPort s p) (hfollow : ∀ q, (f q).followOn = q.followOn) :
    flitStep (modPort s p f) p = flitStep s p := by
  unfold flitStep
  rw [linkStateBody_modPort hfollow, getPort_modPort_same, hf]
  rfl

/-! ## Data -/

/-- The body, the first header and what is left of a class's messages as a flit of it leaves. -/
def dataTaken (q : Port) (c : Nat) : List Byte × Nat × List Byte × List (List Byte) :=
  if (kvGet [] q.txCur c).length ≤ 240 then fillBody (kvGet [] q.txQ c) (kvGet [] q.txCur c) 0xFFFF
  else ((kvGet [] q.txCur c).take 240, 0xFFFF, (kvGet [] q.txCur c).drop 240, kvGet [] q.txQ c)

/-- The flit of a class's data. -/
def dataFlit (q : Port) (c : Nat) : List Byte := flitOf q 1 c q.txSeq (dataTaken q c).2.1 (dataTaken q c).1

theorem sendData_spec (q : Port) (c : Nat) :
    (sendData q c).lastTx = dataFlit q c ∧ (sendData q c).txSeq = (q.txSeq + 1) % 4096 ∧ (sendData q c).lsCount = q.lsCount + 1
      ∧ (sendData q c).credits = kvSet 0 q.credits c (kvGet 0 q.credits c - 1) ∧ (sendData q c).replay = q.replay ++ [(q.txSeq, dataFlit q c)]
      ∧ (sendData q c).txQ = kvSet [] q.txQ c (dataTaken q c).2.2.2 := by
  unfold sendData
  dsimp only
  split <;> exact ⟨rfl, rfl, rfl, rfl, rfl, rfl⟩

/-- Data leaves for which there is a credit. -/
theorem credit_of_dataClass {q : Port} {c : Nat} (h : dataClass q = some c) : kvGet 0 q.credits c ≠ 0 := by
  have hready : ∀ c, classReady q c = true → kvGet 0 q.credits c ≠ 0 := by
    intro c hc
    simp only [classReady, Bool.and_eq_true, bne_iff_ne] at hc
    exact hc.2
  unfold dataClass at h
  dsimp only at h
  split_ifs at h with h3 h2 hup
  · simp only [Bool.and_eq_true, Option.some.injEq] at h3 h
    exact h ▸ hready 3 h3.2
  · simp only [Bool.and_eq_true, Option.some.injEq] at h2 h
    exact h ▸ hready 2 h2.2
  · exact hready c (List.find?_some h)

/-- Whatever leaves is a whole flit. -/
theorem flitStep_whole (s : State) (p : Nat) : (flitStep s p).lastTx.length = 256 ∧ flitGood (flitStep s p).lastTx = true := by
  suffices h : ∃ type cls seq first body, ∃ q : Port, (flitStep s p).lastTx = flitOf q type cls seq first body by
    obtain ⟨type, cls, seq, first, body, q, h⟩ := h
    rw [h]
    exact ⟨flitOf_length q type cls seq first body, flitOf_whole q type cls seq first body⟩
  unfold flitStep
  dsimp only
  repeat' split
  any_goals exact ⟨_, _, _, _, _, _, rfl⟩
  exact ⟨_, _, _, _, _, _, (sendData_spec _ _).1⟩

/-- Settles O37: the row by what `flitStep` sends first, each flit by its fields. -/
theorem flitsLeaveByPriority : Obligations.FlitsLeaveByPriority := by
  have hrow : ∀ (p : Nat) (s : State), p < 32 → 3 ≤ (getPort s p).st → (getPort s p).st ≤ 9 →
      ∃ t, exec (.flitTransmit p) s = .next t ∧ portWork p s t ∧ getPort t p = flitStep s p := by
    intro p s hp hlo hhi
    have hstay : measureStart (getPort s p) = getPort s p := measureStart_of_not_train (by omega)
    have hport : getPort (modPort s p measureStart) p = getPort s p := by rw [getPort_modPort_same, hstay]
    have hfollow : ∀ q, (measureStart q).followOn = q.followOn := fun q => by unfold measureStart; split <;> rfl
    refine ⟨_, (if_neg (not_not.mpr hp)).trans (if_pos (by simp [hport, hlo, hhi])), ⟨rfl, fun q hq => ?_⟩, ?_⟩
    · rw [getPort_modPort_other _ _ _ _ hq, getPort_modPort_other _ _ _ _ hq]
    · rw [getPort_modPort_same, flitStep_modPort hstay hfollow]
  refine ⟨fun p s hp hidle => ?idle, fun p s hp hst hsig hlive => ?measure, fun p s hp hlo hhi hgone => ?gone, fun p s hp hlo hhi hlive => ?live⟩
  case idle =>
    have hstay : measureStart (getPort s p) = getPort s p := by
      unfold measureStart
      exact if_neg (by simp; omega)
    refine ⟨modPort s p measureStart, (if_neg (not_not.mpr hp)).trans (if_neg ?_), portWork_modPort s p measureStart, ?_⟩
    · rw [getPort_modPort_same, hstay]
      simp
      omega
    · rw [getPort_modPort_same, hstay]
  case measure =>
    have hstart : measureStart (getPort s p) = { getPort s p with st := 3, lanes := (getPort s p).signal, probeDue := true } :=
      if_pos (by simp [hst, hsig])
    have hport : getPort (modPort s p measureStart) p = { getPort s p with st := 3, lanes := (getPort s p).signal, probeDue := true } := by
      rw [getPort_modPort_same, hstart]
    refine ⟨_, (if_neg (not_not.mpr hp)).trans (if_pos (by rw [hport]; rfl)), ⟨rfl, fun q hq => ?_⟩, ?_⟩
    · rw [getPort_modPort_other _ _ _ _ hq, getPort_modPort_other _ _ _ _ hq]
    · rw [getPort_modPort_same, flitStep_of_probe hport.symm hlive rfl]
      exact ⟨rfl, rfl, rfl, fld_flitOf_type _ _ _ _ _ _, flitOf_whole _ _ _ _ _ _⟩
  case gone =>
    obtain ⟨t, ht, hwork, hport⟩ := hrow p s hp hlo hhi
    rw [flitStep_of_gone rfl hgone] at hport
    refine ⟨t, ht, hwork, ?_⟩
    rw [hport]
    exact ⟨fld_flitOf_type _ _ _ _ _ _, rfl, rfl⟩
  case live =>
    obtain ⟨t, ht, hwork, hport⟩ := hrow p s hp hlo hhi
    obtain ⟨hlen, hgood⟩ := flitStep_whole s p
    refine ⟨t, ht, hwork, ?_⟩
    rw [hport]
    refine ⟨hlen, hgood, fun hprobe => ?probe, fun hprobe => ⟨fun hbell hactive => ?bell, fun hbell => ⟨fun hreq => ?request,
      fun hreq => ⟨fun e he => ?replay, fun hnone => ⟨fun hls => ?linkState, fun hcount hsame => ?rest⟩⟩⟩⟩⟩
    case probe =>
      rw [flitStep_of_probe rfl hlive hprobe]
      exact ⟨fld_flitOf_type _ _ _ _ _ _, rfl⟩
    case bell =>
      rw [flitStep_of_bell rfl hlive hprobe hbell hactive]
      exact ⟨fld_flitOf_type _ _ _ _ _ _, rfl, (fld_flitOf_body _ _ _ _ _ _ (by decide)).trans (fld_bellBody s)⟩
    case request =>
      rw [flitStep_of_request rfl hlive hprobe hbell hreq]
      refine ⟨fld_flitOf_type _ _ _ _ _ _, rfl, (fld_flitOf_body _ _ _ _ _ _ (by decide)).trans ?_, rfl⟩
      exact fld_of_parts (as := []) (cs := []) (by simp) rfl
    case replay =>
      rw [flitStep_of_replay rfl hlive hprobe hbell hreq he]
      exact ⟨rfl, rfl, rfl, rfl, fun hmore => if_pos hmore, fun hlast => if_neg (by simp [hlast])⟩
    case linkState =>
      rw [flitStep_of_linkState rfl hlive hprobe hbell hreq hnone hls]
      exact ⟨fld_flitOf_type _ _ _ _ _ _, rfl, rfl⟩
    case rest =>
      have hrest := flitStep_of_rest rfl hlive hprobe hbell hreq hnone hcount hsame
      refine ⟨?_, fun c hroom hcls hc hseq => ?_, fun hno => ?_⟩
      · rw [hrest]
        split
        · exact (sendData_spec _ _).2.2.1
        · rfl
      · rw [hrest, dataDue, if_pos hroom, hcls]
        obtain ⟨htx, hseq', -, hcredits, hreplay, hqueue⟩ := sendData_spec (getPort s p) c
        have hcredit := credit_of_dataClass hcls
        dsimp only
        refine ⟨?_, ?_, ?_, hseq', ?_, by rw [htx]; exact hreplay, fun d hd => ⟨?_, ?_⟩⟩
        · rw [htx]
          exact fld_flitOf_type _ _ _ _ _ _
        · rw [htx, dataFlit, fld_flitOf_class]
          omega
        · rw [htx, dataFlit, fld_flitOf_seq]
          omega
        · rw [hcredits, kvGet_kvSet_same]
          omega
        · rw [hcredits, kvGet_kvSet_other _ _ _ _ _ hd]
        · rw [hqueue, kvGet_kvSet_other _ _ _ _ _ hd]
      · have hdue : dataDue p (getPort s p) = none := by
          unfold dataDue
          rcases hno with h | h
          · rw [h, ite_self]
          · exact if_neg (by omega)
        rw [hrest, hdue]
        exact ⟨fld_flitOf_type _ _ _ _ _ _, rfl, rfl, rfl⟩

end Sys2Proof.Machine
end

section
/-! SUPPORT. Flits taken in order (R313, R314). -/

-- One proof after another: threads that wait for each other count against the memory of the check.
set_option Elab.async false

namespace Sys2Proof.Machine

/-- A whole flit of its row's type is acknowledged and taken. -/
theorem flitRow_of_comes {type p : Nat} {fl : List Byte} {s : State} (h : flitComes s p type fl) (f : State → State) (g : Port → Port) :
    flitRow type p fl s f g = .next (withHealth s (f (modPort s p (flitAck fl)))) := by
  obtain ⟨hp, hlo, hhi, hgood, htype⟩ := h
  rw [flitRow, if_neg (not_not.mpr (show p < portCount from hp)), if_neg (by simp [hlo, hhi]), if_neg (by simp [hgood]), if_neg (by simp [htype])]

theorem portWork_twice (s : State) (p : Nat) (f g : Port → Port) : portWork p s (modPort (modPort s p f) p g) :=
  ⟨rfl, fun q hq => by rw [getPort_modPort_other _ _ _ _ hq, getPort_modPort_other _ _ _ _ hq]⟩

/-- A data flit of the expected sequence, taken. -/
theorem dataAccept_spec (bank : Nat) (fl : List Byte) (q : Port) :
    (dataAccept bank fl q).rxSeq = (q.rxSeq + 1) % 4096 ∧ (dataAccept bank fl q).rxAck = some q.rxSeq ∧ (dataAccept bank fl q).discarding = false
      ∧ (dataAccept bank fl q).reqTries = 0 ∧ (dataAccept bank fl q).rx = (q.rx + 1) % 2 ^ 32 ∧ ∃ ms, (dataAccept bank fl q).rxQ = q.rxQ ++ ms :=
  ⟨rfl, rfl, rfl, rfl, rfl, _, rfl⟩

/-- One of another sequence, discarded: it is asked for once. -/
theorem dataDiscard_spec (q : Port) :
    (dataDiscard q).rxSeq = q.rxSeq ∧ (dataDiscard q).rxQ = q.rxQ ∧ (dataDiscard q).seqBad = q.seqBad ∧ (dataDiscard q).discarding = true
      ∧ (q.discarding = false → (dataDiscard q).reqDue = true) ∧ (q.discarding = true → (dataDiscard q).reqDue = q.reqDue) := by
  unfold dataDiscard
  cases h : q.discarding with
  | false => exact ⟨rfl, rfl, rfl, rfl, fun _ => rfl, nofun⟩
  | true => exact ⟨rfl, rfl, rfl, h, nofun, fun _ => rfl⟩

/-- What a port does with a data flit. -/
def dataHeard (bank : Nat) (fl : List Byte) (q : Port) : Port :=
  if fld fl 2 2 % 4096 == q.rxSeq then dataAccept bank fl q else dataDiscard { q with seqBad := satAdd 16 q.seqBad 1 }

/-- What a port does with a retry request. -/
def retryHeard (fl : List Byte) (q : Port) : Port :=
  if q.replay.any (fun e => e.1 == fld fl 0xC 2 % 4096) then { q with resend := some (fld fl 0xC 2 % 4096), replays := satAdd 16 q.replays 1 } else q

theorem exec_dataFlit_of_comes {p : Nat} {fl : List Byte} {s : State} (h : flitComes s p 1 fl) :
    exec (.dataFlitReceive p fl) s = .next (withHealth s (modPort (modPort s p (flitAck fl)) p (dataHeard s.link.bank fl))) := by
  change execDataFlitReceive p fl s = _
  rw [execDataFlitReceive, flitRow_of_comes h]
  rfl

theorem exec_idleFlit_of_comes {p : Nat} {fl : List Byte} {s : State} (h : flitComes s p 2 fl) :
    exec (.idleFlitReceive p fl) s = .next (withHealth s (modPort s p (flitAck fl))) := by
  change execIdleFlitReceive p fl s = _
  rw [execIdleFlitReceive, flitRow_of_comes h]

theorem exec_retryRequest_of_comes {p : Nat} {fl : List Byte} {s : State} (h : flitComes s p 4 fl) :
    exec (.retryRequestReceive p fl) s = .next (withHealth s (modPort (modPort s p (flitAck fl)) p (retryHeard fl))) := by
  change execRetryRequestReceive p fl s = _
  rw [execRetryRequestReceive, flitRow_of_comes h]
  rfl

/-- Settles O39: each row by `flitRow_of_comes`, then by what the port does with the flit. -/
theorem flitsAreTakenInOrder : Obligations.FlitsAreTakenInOrder := by
  refine fun p fl s => ⟨fun h hseq => ⟨_, exec_dataFlit_of_comes h, portWork_twice s p _ _, ?accepted⟩,
    fun h hseq => ⟨_, exec_dataFlit_of_comes h, portWork_twice s p _ _, ?discarded⟩,
    fun h => ⟨_, exec_idleFlit_of_comes h, portWork_modPort s p _, getPort_modPort_same _ _ _, ?credits, fun hno => ?unacked, fun hack => ?acked⟩,
    fun h hheld => ⟨_, exec_retryRequest_of_comes h, portWork_twice s p _ _, ?again⟩,
    fun h hnone => ⟨_, exec_retryRequest_of_comes h, portWork_twice s p _ _, ?unheld⟩,
    fun hp hno => (if_neg (not_not.mpr hp)).trans (if_neg (by rcases hno with h | h <;> simp [h])),
    fun hp hdisc htries => ⟨_, (if_neg (not_not.mpr hp)).trans (if_pos (by simp [hdisc, htries])), portWork_modPort s p _, getPort_modPort_same _ _ _⟩⟩
  case accepted =>
    have hport : dataHeard s.link.bank fl (flitAck fl (getPort s p)) = dataAccept s.link.bank fl (flitAck fl (getPort s p)) :=
      if_pos (beq_iff_eq.mpr hseq)
    rw [getPort_modPort_same, getPort_modPort_same, hport]
    exact dataAccept_spec s.link.bank fl (flitAck fl (getPort s p))
  case discarded =>
    have hport : dataHeard s.link.bank fl (flitAck fl (getPort s p))
        = dataDiscard { flitAck fl (getPort s p) with seqBad := satAdd 16 (getPort s p).seqBad 1 } := if_neg fun h => hseq (beq_iff_eq.mp h)
    rw [getPort_modPort_same, getPort_modPort_same, hport]
    exact dataDiscard_spec { flitAck fl (getPort s p) with seqBad := satAdd 16 (getPort s p).seqBad 1 }
  case credits => rw [flitAck_credits, if_pos rfl]
  case unacked => exact if_neg (by simp [hno])
  case acked => exact if_pos hack
  case again =>
    rw [getPort_modPort_same, getPort_modPort_same, retryHeard, if_pos hheld]
    exact ⟨rfl, rfl⟩
  case unheld =>
    rw [getPort_modPort_same, getPort_modPort_same, retryHeard, if_neg (by rw [hnone]; decide)]

end Sys2Proof.Machine
end

section
/-! SUPPORT. Probes, link states and bells of the neighbours (R306, R328 to R331). -/

-- One proof after another: threads that wait for each other count against the memory of the check.
set_option Elab.async false

namespace Sys2Proof.Machine

/-! ## Fields of a flit's body -/

theorem slice_getElem (bs : List Byte) (off n i : Nat) (h : i < (slice bs off n).length) : (slice bs off n)[i] = bs.getD (off + i) 0 := by
  have hi : i < n := by simpa using h
  simp only [slice]
  rw [List.getElem_append]
  split
  · next hin => simp at hin; simp [List.getD_eq_getElem?_getD, show off + i < bs.length by omega]
  · next hout =>
    simp at hout
    rw [List.getElem_replicate, List.getD_eq_default _ _ (by omega)]

theorem slice_slice {bs : List Byte} {a m k n : Nat} (h : k + n ≤ m) : slice (slice bs a m) k n = slice bs (a + k) n := by
  refine List.ext_getElem (by simp) fun i h1 h2 => ?_
  have hi : i < n := by simpa using h1
  rw [slice_getElem, slice_getElem, List.getD_eq_getElem _ _ (by simp; omega), slice_getElem, Nat.add_assoc]

theorem fld_slice {bs : List Byte} {a m k n : Nat} (h : k + n ≤ m) : fld (slice bs a m) k n = fld bs (a + k) n := by
  rw [fld, fld, slice_slice h]

theorem slice_flitOf_body (q : Port) (type cls seq first : Nat) (body : List Byte) :
    slice (flitOf q type cls seq first body) 12 240 = slice body 0 240 :=
  (slice_within (as := toLe 1 type ++ toLe 1 cls ++ toLe 2 seq ++ toLe 2 (flitAckWord q) ++ toLe 1 q.crNext ++ [0]
    ++ toLe 2 (kvGet 0 q.crRet q.crNext) ++ toLe 2 first) (by rw [flitOf_eq, flitPlain]) (by simp) (by simp)).trans
    (slice_slice_zero body (by decide))

/-! ## What a port's states leave of the link, the start and the peer -/

/-- The link without the domain of the module. -/
def linkFixed (s : State) : Link := { s.link with inDomain := false, domain := 0 }

theorem linkFixed_of_touches {F : List Fld} {s t : State} (h : Touches F s t) (hF : .link ∉ F) : linkFixed t = linkFixed s := by
  rw [linkFixed, h.link hF, linkFixed]

@[simp] theorem linkFixed_modPort (s : State) (p : Nat) (f : Port → Port) : linkFixed (modPort s p f) = linkFixed s := rfl

@[simp] theorem linkFixed_sendEvent (s : State) (e : Event) : linkFixed (sendEvent s e) = linkFixed s := rfl

theorem linkFixed_joinLost (s : State) (p : Nat) : linkFixed (joinLost s p) = linkFixed s := by
  unfold joinLost
  split <;> rfl

theorem linkFixed_portDrain (s : State) (p : Nat) : linkFixed (portDrain s p) = linkFixed s :=
  linkFixed_of_touches (F := [.ports]) (by simp) (by decide)

theorem linkFixed_portRetrain (s : State) (p exit st : Nat) : linkFixed (portRetrain s p exit st) = linkFixed s := by
  cases h : portUp (getPort s p) with
  | true => rw [portRetrain_of_up h, linkFixed_modPort, linkFixed_joinLost, linkFixed_of_touches (portLeft_frame s p exit st) (by decide)]
  | false =>
    rw [portRetrain_of_down h, linkFixed_modPort, linkFixed_joinLost, linkFixed_portDrain, linkFixed_modPort]
    split <;> rfl

theorem linkFixed_portKeepAlive (s : State) (p : Nat) : linkFixed (portKeepAlive s p) = linkFixed s := by
  unfold portKeepAlive
  dsimp only
  rw [linkFixed_modPort, linkFixed_joinLost, linkFixed_portDrain, linkFixed_modPort]

theorem linkFixed_portHold (s : State) (p : Nat) : linkFixed (portHold s p) = linkFixed s := by
  unfold portHold
  dsimp only
  split
  · rw [linkFixed_joinLost, linkFixed_portDrain, linkFixed_modPort]
  · rfl

theorem linkFixed_domainCheck (s : State) (p : Nat) : linkFixed (domainCheck s p) = linkFixed s := by
  unfold domainCheck
  dsimp only
  split
  · rfl
  · split
    · rw [bellConflict, linkFixed_sendEvent, linkFixed_modPort, linkFixed_portHold]
    · split <;> rfl

/-- A start without the ports that it waits for. -/
def startUnblocked (s : State) : Start := { s.start with blocking := 0 }

theorem startUnblocked_portRetrain (s : State) (p exit st : Nat) : startUnblocked (portRetrain s p exit st) = startUnblocked s := by
  have hdrain : ∀ (u : State), (portDrain u p).start = u.start := fun u =>
    (show Touches [.ports] u (portDrain u p) by simp).start
  have hjoin : ∀ (u : State), (joinLost u p).start = u.start := fun u =>
    (show Touches [.ports, .link] u (joinLost u p) by simp).start
  have hunblock : ∀ c : Bool, startUnblocked (if c then unblock s p else s) = startUnblocked s := fun c => by cases c <;> rfl
  cases h : portUp (getPort s p) with
  | true =>
    rw [portRetrain_of_up h, startUnblocked, modPort_start, hjoin, portLeft, sendEvent_start, modPort_start, hdrain, modPort_start]
    exact hunblock _
  | false =>
    rw [portRetrain_of_down h, startUnblocked, modPort_start, hjoin, hdrain, modPort_start]
    exact hunblock _

/-- What a port's peer has told of itself. -/
def portHeard (q : Port) : Nat × Nat × Nat × Nat × Nat := (q.peerPwr, q.peerCmp, q.peerDomain, q.peerBell, q.present)

theorem portHeard_sendData (q : Port) (c : Nat) : portHeard (sendData q c) = portHeard q := by
  unfold sendData
  dsimp only
  split <;> rfl

theorem portHeard_portFlush (q : Port) : portHeard (portFlush q) = portHeard q := by
  have hdrain : ∀ n (q : Port), portHeard (drainFlits n q) = portHeard q := by
    intro n
    induction n with
    | zero => exact fun _ => rfl
    | succ n ih =>
      intro q
      rw [drainFlits]
      split
      · rw [ih, portHeard_sendData]
      · rfl
  unfold portFlush
  split
  · exact hdrain _ q
  · rfl

theorem portHeard_portKeepAlive (s : State) (p : Nat) : portHeard (getPort (portKeepAlive s p) p) = portHeard (getPort s p) := by
  unfold portKeepAlive
  dsimp only
  rw [getPort_modPort_same]
  have hdry : portDry (getPort (joinLost (portDrain (modPort s p (fun q => { portFlush q with st := 7 })) p) p) p)
      = portDry { portFlush (getPort s p) with st := 7 } := by
    rw [portDry_joinLost, portDry_portDrain, getPort_modPort_same]
  exact (congrArg portHeard hdry).trans (portHeard_portFlush (getPort s p))

theorem portHeard_portRetrain (s : State) (p exit st : Nat) : portHeard (getPort (portRetrain s p exit st) p) = portHeard (getPort s p) :=
  portRetrain_keeps (fun _ => rfl) (fun _ _ _ => rfl) (fun _ _ => rfl) s exit st

theorem portHeard_of_told {a b : Port} (h : portTold a = portTold b) : portHeard a = portHeard b := (congrArg portHeard h :)

/-! ## The peer's power -/

theorem peerPower_frame (s : State) (p : Nat) : Touches [.ports, .link, .start, .inbox] s (peerPower s p) := by
  unfold peerPower
  dsimp only
  split
  · exact (portKeepAlive_frame s p).mono (by decide)
  · split <;> simp

theorem linkFixed_peerPower (s : State) (p : Nat) : linkFixed (peerPower s p) = linkFixed s := by
  unfold peerPower
  dsimp only
  split
  · exact linkFixed_portKeepAlive s p
  · split
    · exact linkFixed_portRetrain _ _ _ _
    · rfl

theorem startUnblocked_peerPower (s : State) (p : Nat) : startUnblocked (peerPower s p) = startUnblocked s := by
  unfold peerPower
  dsimp only
  split
  · rw [startUnblocked, (portKeepAlive_frame s p).start, startUnblocked]
  · split
    · exact startUnblocked_portRetrain _ _ _ _
    · rfl

theorem portHeard_peerPower (s : State) (p : Nat) : portHeard (getPort (peerPower s p) p) = portHeard (getPort s p) := by
  unfold peerPower
  dsimp only
  split
  · exact portHeard_portKeepAlive s p
  · split
    · exact portHeard_portRetrain _ _ _ _
    · rfl

/-! ## Votes heard -/

theorem touches_changes (s : State) (f : List Change → List Change) : Touches [.changes] s (modReeve s (fun r => { r with changes := f r.changes })) := by
  intro x hx
  cases x
  case changes => simp at hx
  all_goals rfl

theorem voteHear_frame (s : State) (p t : Nat) (vote : Bool) : Touches [.link, .changes] s (voteHear s p t vote) := by
  unfold voteHear
  dsimp only
  split_ifs
  · exact Touches.refl _ _
  · simp
  · exact (touches_changes s _).mono (by decide)
  · exact Touches.trans (by simp) ((touches_changes _ _).mono (by decide))

theorem inDomain_voteHear (s : State) (p t : Nat) (vote : Bool) :
    (voteHear s p t vote).link = { s.link with votes := (voteHear s p t vote).link.votes } := by
  unfold voteHear
  dsimp only
  split_ifs <;> rfl

/-- A refusal of a change still to come is kept. -/
theorem mem_votes_voteHear {s : State} {p t : Nat} (h : s.clk.bell % 2 ^ 48 < t) : (t, p) ∈ (voteHear s p t true).link.votes := by
  unfold voteHear
  dsimp only
  rw [if_neg (by decide), modReeve_link]
  split
  · next hkept =>
    simp only [Bool.not_true, Bool.false_or, Bool.or_eq_true, decide_eq_true_eq] at hkept
    simpa using hkept.resolve_left (by omega)
  · exact List.mem_append_right _ (List.mem_singleton.mpr rfl)

/-! ## The rows -/

/-- A whole link-state flit, taken by an acknowledged port. -/
def linkStateTaken (u : State) (p : Nat) (body : List Byte) : State :=
  peerPower (domainCheck (voteHear (peerReformed (modPort u p (takeLinkState body)) p (getPort u p).peerDomain (getPort u p).peerIn) p
    (fld body 0x14 8 % 2 ^ 48) (bitAt (fld body 0x1C 1) 0)) p) p

theorem exec_linkState_of_comes {p : Nat} {fl : List Byte} {s : State} (h : flitComes s p 5 fl) :
    exec (.linkStateFlitReceive p fl) s = .next (withHealth s (linkStateTaken (modPort s p (flitAck fl)) p (slice fl 12 240))) := by
  change execLinkStateFlitReceive p fl s = _
  rw [execLinkStateFlitReceive, flitRow_of_comes h]
  rfl

theorem exec_bellFlit_of_comes {p arr : Nat} {fl : List Byte} {s : State} (h : flitComes s p 3 fl) :
    exec (.bellFlitReceive p fl arr) s = .next (withHealth s (bellTake (modPort s p (flitAck fl)) p arr (slice fl 12 240))) := by
  change execBellFlitReceive p fl arr s = _
  rw [execBellFlitReceive, flitRow_of_comes h]

/-- What a port does with a probe. -/
def probeTaken (fl : List Byte) (echo : Bool) (rtt turn : Nat) (q : Port) : Port :=
  if echo then { q with lat := (rtt / 10 * 10 - turn) / 2 % 2 ^ 32 } else flitSent q (flitOf q 6 0 0 0 (slice fl 12 240))

theorem exec_probe_of_comes {p rtt turn : Nat} {fl : List Byte} {echo : Bool} {s : State} (h : flitComes s p 6 fl) :
    exec (.probeFlitReceive p fl echo rtt turn) s
      = .next (withHealth (probeHeard p fl s) (modPort (modPort (probeHeard p fl s) p (flitAck fl)) p (probeTaken fl echo rtt turn))) := by
  obtain ⟨hp, hlo, hhi, hgood, htype⟩ := h
  have hport := getPort_probeHeard_of_not_train fl (s := s) (p := p) (by omega)
  change execProbeFlitReceive p fl echo rtt turn s = _
  rw [execProbeFlitReceive]
  exact flitRow_of_comes (s := probeHeard p fl s) ⟨hp, by rw [hport]; exact hlo, by rw [hport]; exact hhi, hgood, htype⟩ _ _

/-- What the host hears of the part's health depends on the ports' contents alone. -/
theorem healthKey_modPort {s : State} {p : Nat} {f : Port → Port} (hf : f (getPort s p) = getPort s p) : healthKey (modPort s p f) = healthKey s := by
  have hget : ∀ q, getPort (modPort s p f) q = getPort s q := fun q => by
    by_cases h : q = p
    · rw [h, getPort_modPort_same, hf]
    · exact getPort_modPort_other _ _ _ _ h
  simp only [healthKey, conditionOf, hget]
  rfl

theorem withHealth_probeHeard {p : Nat} {fl : List Byte} {s : State} (h : (getPort s p).st ≠ 2) (u : State) :
    withHealth (probeHeard p fl s) u = withHealth s u := by
  have hkey : healthKey (probeHeard p fl s) = healthKey s := by
    unfold probeHeard
    split
    · exact healthKey_modPort (measureStart_of_not_train h)
    · rfl
  rw [withHealth, withHealth, hkey]

/-! ## A link state taken -/

theorem portTold_domainCheck (s : State) (p : Nat) : portTold (getPort (domainCheck s p) p) = portTold (getPort s p) := by
  by_cases h : portUp (getPort s p) = true ∧ (getPort s p).followOn = true ∧ domainClash s (getPort s p) = true
  · rw [domainCheck_of_clash h.1 h.2.1 h.2.2]
    exact (bellConflict_spec s p).2.1
  · refine portTold_of_dry (domainCheck_of_accord ?_).1
    simpa only [not_and_or, Bool.not_eq_true] using h

/-- A check of the domain leaves a port's state or holds it. -/
theorem st_domainCheck (s : State) (p : Nat) :
    (getPort (domainCheck s p) p).st = (getPort s p).st ∨ (getPort (domainCheck s p) p).st = 8 := by
  by_cases h : portUp (getPort s p) = true ∧ (getPort s p).followOn = true ∧ domainClash s (getPort s p) = true
  · rw [domainCheck_of_clash h.1 h.2.1 h.2.2]
    exact .inr (bellConflict_spec s p).1
  · refine .inl (st_of_dry (domainCheck_of_accord ?_).1)
    simpa only [not_and_or, Bool.not_eq_true] using h

theorem domainCheck_of_down {s : State} {p : Nat} (h : portUp (getPort s p) = false) : domainCheck s p = s := if_pos (by simp [h])

theorem peerReformed_cases (s : State) (p d : Nat) (b : Bool) : peerReformed s p d b = s ∨ peerReformed s p d b = heldRelease s p :=
  ite_eq_or_eq _ _ _

theorem peerReformed_of_free {s : State} {p d : Nat} {b : Bool} (h : (getPort s p).st ≠ 8) : peerReformed s p d b = s := by
  rcases peerReformed_cases s p d b with hc | hc
  · exact hc
  · rw [hc, heldRelease_of_free (.inl h)]

theorem peerReformed_frame (s : State) (p d : Nat) (b : Bool) : Touches [.ports, .link, .inbox] s (peerReformed s p d b) := by
  rcases peerReformed_cases s p d b with hc | hc
  · rw [hc]
    exact Touches.refl _ _
  · rw [hc]
    exact heldRelease_frame s p

theorem portTold_peerReformed (s : State) (p d : Nat) (b : Bool) : portTold (getPort (peerReformed s p d b) p) = portTold (getPort s p) := by
  rcases peerReformed_cases s p d b with hc | hc
  · rw [hc]
  · rw [hc, portTold_heldRelease]

theorem st_peerReformed (s : State) (p d : Nat) (b : Bool) :
    (getPort (peerReformed s p d b) p).st = (getPort s p).st ∨ (getPort (peerReformed s p d b) p).st = 5
      ∨ (getPort (peerReformed s p d b) p).st = 8 := by
  rcases peerReformed_cases s p d b with hc | hc
  · rw [hc]
    exact .inl rfl
  · rw [hc]
    unfold heldRelease
    dsimp only
    split
    · exact .inr (portComeUp_spec s p 5 (.inl rfl)).1
    · exact .inl rfl

/-- The state in which an acknowledged port has taken a link state, before its domain and its peer's power are looked at. -/
def linkStateHeard (u : State) (p : Nat) (body : List Byte) : State :=
  voteHear (peerReformed (modPort u p (takeLinkState body)) p (getPort u p).peerDomain (getPort u p).peerIn) p
    (fld body 0x14 8 % 2 ^ 48) (bitAt (fld body 0x1C 1) 0)

theorem linkStateTaken_eq (u : State) (p : Nat) (body : List Byte) :
    linkStateTaken u p body = peerPower (domainCheck (linkStateHeard u p body) p) p := rfl

theorem getPort_voteHear (s : State) (p t : Nat) (vote : Bool) (q : Nat) : getPort (voteHear s p t vote) q = getPort s q :=
  (voteHear_frame s p t vote).getPort q

theorem linkStateHeard_frame (u : State) (p : Nat) (body : List Byte) :
    Touches [.ports, .link, .inbox, .changes] u (linkStateHeard u p body) := by
  have hfirst : Touches [.ports] u (modPort u p (takeLinkState body)) := by simp
  exact ((hfirst.mono (by decide)).trans ((peerReformed_frame _ p _ _).mono (by decide))).trans ((voteHear_frame _ _ _ _).mono (by decide))

theorem portTold_linkStateHeard (u : State) (p : Nat) (body : List Byte) :
    portTold (getPort (linkStateHeard u p body) p) = portTold (takeLinkState body (getPort u p)) := by
  rw [linkStateHeard, getPort_voteHear, portTold_peerReformed, getPort_modPort_same]

theorem linkStateHeard_of_free {u : State} {p : Nat} {body : List Byte} (h : (getPort u p).st ≠ 8) :
    linkStateHeard u p body = voteHear (modPort u p (takeLinkState body)) p (fld body 0x14 8 % 2 ^ 48) (bitAt (fld body 0x1C 1) 0) := by
  rw [linkStateHeard, peerReformed_of_free (by rw [getPort_modPort_same]; exact h)]

theorem st_linkStateHeard {u : State} {p : Nat} {body : List Byte} (h : 3 ≤ (getPort u p).st ∧ (getPort u p).st ≤ 9) :
    3 ≤ (getPort (linkStateHeard u p body) p).st ∧ (getPort (linkStateHeard u p body) p).st ≤ 9 := by
  rw [linkStateHeard, getPort_voteHear]
  have hst : (getPort (modPort u p (takeLinkState body)) p).st = (getPort u p).st := by rw [getPort_modPort_same]; rfl
  rcases st_peerReformed (modPort u p (takeLinkState body)) p (getPort u p).peerDomain (getPort u p).peerIn with hc | hc | hc <;> omega

theorem linkStateTaken_frame (u : State) (p : Nat) (body : List Byte) :
    Touches [.ports, .link, .start, .inbox, .changes] u (linkStateTaken u p body) := by
  rw [linkStateTaken_eq]
  exact (((linkStateHeard_frame u p body).mono (by decide)).trans ((domainCheck_frame _ p).mono (by decide))).trans ((peerPower_frame _ p).mono (by decide))

theorem portHeard_linkStateTaken (u : State) (p : Nat) (body : List Byte) :
    portHeard (getPort (linkStateTaken u p body) p) = portHeard (takeLinkState body (getPort u p)) := by
  rw [linkStateTaken_eq, portHeard_peerPower, portHeard_of_told (portTold_domainCheck _ p), portHeard_of_told (portTold_linkStateHeard u p body)]

theorem startUnblocked_linkStateTaken (u : State) (p : Nat) (body : List Byte) : startUnblocked (linkStateTaken u p body) = startUnblocked u := by
  rw [linkStateTaken_eq, startUnblocked_peerPower, startUnblocked, (domainCheck_frame _ p).start, (linkStateHeard_frame u p body).start, startUnblocked]

/-- What a link state tells stands in the port. -/
theorem told_linkStateTaken (u : State) (p : Nat) (body : List Byte) :
    (getPort (linkStateTaken u p body) p).peerPwr = fld body 5 1 % 4 ∧ (getPort (linkStateTaken u p body) p).peerCmp = fld body 6 1 % 4
      ∧ (getPort (linkStateTaken u p body) p).peerDomain = fld body 8 4 % 2 ^ 17
      ∧ (getPort (linkStateTaken u p body) p).peerBell = fld body 0xC 8 % 2 ^ 48 := by
  have h := portHeard_linkStateTaken u p body
  exact ⟨congrArg (fun x => x.1) h, congrArg (fun x => x.2.1) h, congrArg (fun x => x.2.2.1) h, congrArg (fun x => x.2.2.2.1) h⟩

theorem start_of_unblocked {s t : State} (h : startUnblocked t = startUnblocked s) : t.start = { s.start with blocking := t.start.blocking } :=
  (congrArg (fun st : Start => { st with blocking := t.start.blocking }) h :)

theorem eq_of_unblocked {s t : State} (h : Touches [.ports, .link, .start, .inbox, .changes] s t) (hs : startUnblocked t = startUnblocked s) :
    t = { s with
      ports := t.ports, link := t.link, start := { s.start with blocking := t.start.blocking }
      reeve := { s.reeve with changes := t.reeve.changes, inbox := t.reeve.inbox } } :=
  h.eq_overlay.trans (congrArg (fun st : Start => { s with
    ports := t.ports, link := t.link, start := st, reeve := { s.reeve with changes := t.reeve.changes, inbox := t.reeve.inbox } })
    (start_of_unblocked hs))

/-- A refusal heard stands among the votes. -/
theorem mem_votes_linkStateTaken {u : State} {p : Nat} {body : List Byte} (hvote : bitAt (fld body 0x1C 1) 0 = true)
    (h : u.clk.bell % 2 ^ 48 < fld body 0x14 8 % 2 ^ 48) : (fld body 0x14 8 % 2 ^ 48, p) ∈ (linkStateTaken u p body).link.votes := by
  have hkept : (linkStateTaken u p body).link.votes = (linkStateHeard u p body).link.votes := by
    have hfixed := linkFixed_peerPower (domainCheck (linkStateHeard u p body) p) p
    rw [linkFixed_domainCheck] at hfixed
    exact (congrArg Link.votes hfixed :)
  have hclk : (peerReformed (modPort u p (takeLinkState body)) p (getPort u p).peerDomain (getPort u p).peerIn).clk = u.clk :=
    (peerReformed_frame _ p _ _).clk
  rw [hkept, linkStateHeard, hvote]
  exact mem_votes_voteHear (by rw [hclk]; exact h)

theorem st_peerPower_of_asleep {s : State} {p : Nat} (hpwr : (getPort s p).peerPwr = 2) (hst : 3 ≤ (getPort s p).st ∧ (getPort s p).st ≤ 9) :
    (getPort (peerPower s p) p).st = 7 := by
  by_cases h : (getPort s p).st = 7
  · rw [peerPower, if_neg (by simp [portRuns, h]), if_neg (by simp [hpwr])]
    exact h
  · rw [peerPower_of_keepAlive hpwr (by simp [portRuns, hst, h])]
    exact (portKeepAlive_spec s p).1

theorem peerPwr_of_heard {a b : Port} (h : portHeard a = portHeard b) : a.peerPwr = b.peerPwr := congrArg (fun x => x.1) h

theorem peerBell_of_told {a b : Port} (h : portTold a = portTold b) : a.peerBell = b.peerBell := (congrArg Port.peerBell h :)

theorem present_of_heard {a b : Port} (h : portHeard a = portHeard b) : a.present = b.present := congrArg (fun x => x.2.2.2.2) h

/-- A port in Keep-alive whose peer has left it trains again, unless its own module stays there. -/
theorem linkStateTaken_of_asleep {u : State} {p : Nat} {body : List Byte} (hst : (getPort u p).st = 7) (hpwr : fld body 5 1 % 4 = 1) :
    (u.power.keepAlive = false → (getPort (linkStateTaken u p body) p).st = if portTrainable u p then 2 else 1)
      ∧ (u.power.keepAlive = true → (getPort (linkStateTaken u p body) p).st = 7) := by
  obtain ⟨v, hv⟩ : ∃ v, v = voteHear (modPort u p (takeLinkState body)) p (fld body 0x14 8 % 2 ^ 48) (bitAt (fld body 0x1C 1) 0) := ⟨_, rfl⟩
  have hport : getPort v p = takeLinkState body (getPort u p) := by rw [hv, getPort_voteHear, getPort_modPort_same]
  have hst7 : (getPort v p).st = 7 := by rw [hport]; exact hst
  have hpwr1 : (getPort v p).peerPwr = 1 := by rw [hport]; exact hpwr
  have hlight : portLit v p = portLit u p := by
    rw [portLit, hv, inDomain_voteHear]
    rfl
  have hpower : v.power = u.power := by rw [hv, (voteHear_frame _ _ _ _).power]; rfl
  have htrain : portTrainable v p = portTrainable u p := by
    rw [portTrainable, hlight, hport]
    rfl
  have hrow : linkStateTaken u p body = peerPower v p := by
    rw [linkStateTaken_eq, linkStateHeard_of_free (by rw [hst]; decide), ← hv, domainCheck_of_down (by simp [portUp, hst7])]
  rw [hrow]
  unfold peerPower
  dsimp only
  rw [if_neg (by simp [hpwr1])]
  refine ⟨fun halive => ?_, fun halive => ?_⟩
  · rw [if_pos (by simp [hpwr1, hst7, hpower, halive])]
    refine (portRetrain_spec v p _ 2).1.trans ?_
    rw [retrainSt, htrain]
    cases portTrainable u p <;> rfl
  · rw [if_neg (by simp [hpower, halive])]
    exact hst7

/-- A module in keep-alive leaves its port in Keep-alive whatever the peer's power. -/
theorem linkStateTaken_of_kept {u : State} {p : Nat} {body : List Byte} (hst : (getPort u p).st = 7) (halive : u.power.keepAlive = true) :
    (getPort (linkStateTaken u p body) p).st = 7 := by
  obtain ⟨v, hv⟩ : ∃ v, v = voteHear (modPort u p (takeLinkState body)) p (fld body 0x14 8 % 2 ^ 48) (bitAt (fld body 0x1C 1) 0) := ⟨_, rfl⟩
  have hst7 : (getPort v p).st = 7 := by rw [hv, getPort_voteHear, getPort_modPort_same]; exact hst
  have hpower : v.power = u.power := by rw [hv, (voteHear_frame _ _ _ _).power]; rfl
  rw [linkStateTaken_eq, linkStateHeard_of_free (by rw [hst]; decide), ← hv, domainCheck_of_down (by simp [portUp, hst7]), peerPower,
    if_neg (by simp [portRuns, hst7]), if_neg (by simp [hpower, halive])]
  exact hst7

/-- Another domain holds a port that follows, with an event. -/
theorem linkStateTaken_of_other {u : State} {p : Nat} {body : List Byte} (hpwr : fld body 5 1 % 4 ≠ 2) (hup : portUp (getPort u p) = true)
    (hfollow : (getPort u p).followOn = true) (hdom : u.link.inDomain = true) (hin : bitAt (fld body 7 1) 1 = true)
    (hother : fld body 8 4 % 2 ^ 17 ≠ u.link.domain) :
    (getPort (linkStateTaken u p body) p).st = 8 ∧ (getPort (linkStateTaken u p body) p).conflict = satAdd 16 (getPort u p).conflict 1
      ∧ ∃ e, e.code = evBellConflict ∧ (linkStateTaken u p body).reeve.inbox = u.reeve.inbox ++ [e] := by
  obtain ⟨v, hv⟩ : ∃ v, v = voteHear (modPort u p (takeLinkState body)) p (fld body 0x14 8 % 2 ^ 48) (bitAt (fld body 0x1C 1) 0) := ⟨_, rfl⟩
  have hport : getPort v p = takeLinkState body (getPort u p) := by rw [hv, getPort_voteHear, getPort_modPort_same]
  have hlink : v.link.inDomain = u.link.inDomain ∧ v.link.domain = u.link.domain := by
    rw [hv, inDomain_voteHear]
    exact ⟨rfl, rfl⟩
  have hinbox : v.reeve.inbox = u.reeve.inbox := by rw [hv, (voteHear_frame _ _ _ _).inbox]; rfl
  have hst8 : (getPort u p).st ≠ 8 := by
    intro h
    simp [portUp, h] at hup
  have hclash : domainCheck v p = bellConflict v p := by
    refine domainCheck_of_clash (by rw [hport]; exact hup) (by rw [hport]; exact hfollow) (domainClash_of_other (hlink.1.trans hdom) ?_ ?_)
    · rw [hport]
      exact hin
    · rw [hport, hlink.2]
      exact hother
  obtain ⟨hst, htold, hcount⟩ := bellConflict_spec v p
  have hpwr' : (getPort (bellConflict v p) p).peerPwr ≠ 2 := by
    rw [peerPwr_of_told htold, hport]
    exact hpwr
  rw [linkStateTaken_eq, linkStateHeard_of_free hst8, ← hv, hclash, peerPower_of_other hpwr' (by rw [hst]; decide)]
  refine ⟨hst, hcount.trans (by rw [hport]; rfl), portEvent (modPort (portHold v p) p (fun q => { q with conflict := satAdd 16 q.conflict 1 })) p
    evBellConflict 0xFF 0 0xFFFF 0 0, rfl, ?_⟩
  have hkept := (portHold_frame v p).inbox
  rw [← hinbox, ← hkept]
  rfl

/-! ## A bell of a neighbour -/

/-- The neighbour's bell and its vote, heard. -/
def bellHeard (s : State) (p : Nat) (body : List Byte) : State :=
  modPort (voteHear s p (fld body 0x14 8 % 2 ^ 48) (bitAt (fld body 0x1C 1) 0)) p (fun q => { q with peerBell := fld body 0 8 % 2 ^ 48 })

/-- The distance from the neighbour's firing to here, by the time of arrival. -/
def bellSkew (q : Port) (arr : Nat) (body : List Byte) : Int := (arr : Int) - (q.lat : Int) - (fld body 8 4 : Int)

section
variable {s : State} {p arr : Nat} {body : List Byte}

theorem getPort_bellHeard : getPort (bellHeard s p body) p = { getPort s p with peerBell := fld body 0 8 % 2 ^ 48 } := by
  rw [bellHeard, getPort_modPort_same, getPort_voteHear]

theorem clk_bellHeard : (bellHeard s p body).clk = s.clk := (voteHear_frame s p _ _).clk

/-- A port that waits for its domain's count takes the flit's. -/
theorem bellTake_of_first (hup : portUp (getPort s p) = true) (hactive : (getPort s p).bellActive = true) (hfirst : (getPort s p).firstBell = true) :
    bellTake s p arr body = modPort (modClk (bellHeard s p body) (fun c => { c with
      bell := fld body 0 8 % 2 ^ 48, intvCc := (psToCc s (((getPort s p).lat : Int) + (fld body 8 4 : Int))).toNat, expectDelay := 0 })) p
      (fun q => { q with firstBell := false }) :=
  (if_neg (by simp [hup, hactive])).trans (if_pos hfirst)

/-- One that does not leaves the bell, may move the expected time later, and is held where another bell is the nearest. -/
theorem bellTake_of_later (hfirst : (getPort s p).firstBell = false) :
    bellTake s p arr body = bellHeard s p body ∨ bellTake s p arr body = bellConflict (bellHeard s p body) p
      ∨ bellTake s p arr body = modClk (bellHeard s p body) (fun c => { c with
          expectDelay := max c.expectDelay (psToCc s (bellSkew (getPort s p) arr body)).toNat }) := by
  unfold bellTake
  dsimp only
  rw [hfirst]
  split
  · exact .inl rfl
  · rw [if_neg (by decide)]
    split
    · exact .inl rfl
    · split
      · exact .inr (.inl rfl)
      · split
        · exact .inr (.inr rfl)
        · exact .inl rfl

section
variable (hup : portUp (getPort s p) = true) (hactive : (getPort s p).bellActive = true) (hfirst : (getPort s p).firstBell = false)
  (hjoin : bellJoining s = false)
include hup hactive hfirst hjoin

theorem bellTake_of_conflict (h : nearestBell s (bellSkew (getPort s p) arr body) ≠ some (fld body 0 8 % 2 ^ 48)) :
    bellTake s p arr body = bellConflict (bellHeard s p body) p :=
  (if_neg (by simp [hup, hactive])).trans ((if_neg (by simp [hfirst])).trans ((if_neg (by simp [hjoin])).trans (if_pos (by simpa [bellSkew] using h))))

theorem bellTake_of_same (h : nearestBell s (bellSkew (getPort s p) arr body) = some (fld body 0 8 % 2 ^ 48)) (hbell : fld body 0 8 % 2 ^ 48 = s.clk.bell) :
    bellTake s p arr body = modClk (bellHeard s p body) (fun c => { c with
      expectDelay := max c.expectDelay (psToCc s (bellSkew (getPort s p) arr body)).toNat }) :=
  (if_neg (by simp [hup, hactive])).trans ((if_neg (by simp [hfirst])).trans ((if_neg (by simp [hjoin])).trans
    ((if_neg (by simpa [bellSkew] using h)).trans (if_pos (by simpa using hbell)))))

end

end

theorem mem_kvSet {α : Type} [DecidableEq α] {d : α} {m : Kv α} {k : Nat} {v : α} {e : Nat × α} (h : e ∈ kvSet d m k v) : e ∈ m ∨ e = (k, v) := by
  have hdel : ∀ m : Kv α, e ∈ kvDel m k → e ∈ m := by
    intro m h
    induction m with
    | nil => exact h
    | cons x m ih =>
      rw [kvDel] at h
      split at h
      · exact List.mem_cons_of_mem _ (ih h)
      · exact (List.mem_cons.mp h).elim (fun h => h ▸ List.mem_cons_self) fun h => List.mem_cons_of_mem _ (ih h)
  have hins : ∀ m : Kv α, e ∈ kvIns m k v → e ∈ m ∨ e = (k, v) := by
    intro m h
    induction m with
    | nil => exact .inr (List.mem_singleton.mp h)
    | cons x m ih =>
      rw [kvIns] at h
      split at h
      · exact (List.mem_cons.mp h).elim .inr .inl
      · split at h
        · exact (List.mem_cons.mp h).elim .inr fun h => .inl (List.mem_cons_of_mem _ h)
        · exact (List.mem_cons.mp h).elim (fun h => .inl (h ▸ List.mem_cons_self)) fun h => (ih h).imp_left (List.mem_cons_of_mem _)
  unfold kvSet at h
  split at h
  · exact .inl (hdel m h)
  · exact hins m h

/-- No port waits for its domain's count where none did. -/
theorem bellJoining_modPort {s : State} {p : Nat} {f : Port → Port} (h : bellJoining s = false) (hf : (f (getPort s p)).firstBell = false) :
    bellJoining (modPort s p f) = false := by
  rw [bellJoining, List.any_eq_false] at h ⊢
  intro e he
  rcases mem_kvSet he with hold | rfl
  · exact h e hold
  · simpa using hf

/-- Settles O40: a link state by `linkStateTaken` and what each of its steps keeps, a bell by the branches of `bellTake`. -/
theorem probesBellsAndLinkState : Obligations.ProbesBellsAndLinkState := by
  refine ⟨fun p rtt turn fl s h => ⟨?echo, ?probe⟩, fun p fl s h => ⟨_, exec_linkState_of_comes h, ?linkState⟩,
    fun p arr fl s h hfirst hup hactive => ⟨_, exec_bellFlit_of_comes h, ?first⟩, fun p arr fl s h hfirst => ⟨_, exec_bellFlit_of_comes h, ?later⟩,
    fun p s hp hup hactive => ⟨_, (if_neg (not_not.mpr hp)).trans (if_pos (by simp [hup, hactive])), portWork_modPort s p _, getPort_modPort_same _ _ _⟩,
    fun p s hp hno => (if_neg (not_not.mpr hp)).trans (if_neg (by rcases hno with h | h <;> simp [h]))⟩
  case echo =>
    have hlo := h.2.1
    have hlane : (getPort s p).st ≠ 2 := by omega
    obtain ⟨hwork, hothers⟩ := portWork_probeHeard p fl s
    refine ⟨_, (exec_probe_of_comes h).trans (congrArg Host.Outcome.next (withHealth_probeHeard hlane _)), ⟨?_, fun q hq => ?_⟩, ?_⟩
    · rw [hwork]
      rfl
    · rw [getPort_modPort_other _ _ _ _ hq, getPort_modPort_other _ _ _ _ hq, hothers q hq]
    · rw [getPort_modPort_same]
      rfl
  case probe =>
    have hlo := h.2.1
    have hlane : (getPort s p).st ≠ 2 := by omega
    obtain ⟨hwork, hothers⟩ := portWork_probeHeard p fl s
    refine ⟨_, (exec_probe_of_comes h).trans (congrArg Host.Outcome.next (withHealth_probeHeard hlane _)), ⟨?_, fun q hq => ?_⟩, ?_, ?_⟩
    · rw [hwork]
      rfl
    · rw [getPort_modPort_other _ _ _ _ hq, getPort_modPort_other _ _ _ _ hq, hothers q hq]
    · rw [getPort_modPort_same]
      exact fld_flitOf_type _ _ _ _ _ _
    · rw [getPort_modPort_same]
      exact (slice_flitOf_body _ _ _ _ _ _).trans (slice_slice (by decide))
  case linkState =>
    have hfld : ∀ {k n : Nat}, k + n ≤ 240 → fld (slice fl 12 240) k n = fld fl (12 + k) n := fun hk => fld_slice hk
    have hport : getPort (modPort s p (flitAck fl)) p = flitAck fl (getPort s p) := getPort_modPort_same _ _ _
    have hframe : Touches [.ports, .link, .start, .inbox, .changes] s (linkStateTaken (modPort s p (flitAck fl)) p (slice fl 12 240)) :=
      Touches.trans (by simp) (linkStateTaken_frame (modPort s p (flitAck fl)) p (slice fl 12 240))
    obtain ⟨hpwr, hcmp, hdomain, hbell⟩ := told_linkStateTaken (modPort s p (flitAck fl)) p (slice fl 12 240)
    rw [hfld (by decide)] at hpwr hcmp hdomain hbell
    refine ⟨?_, hpwr, hcmp, hdomain, hbell, fun hvote hnew => ?_, fun hasleep => ?_, fun hawake hst halive => ?_, fun halive hst => ?_,
      fun hpwr2 hup hfollow hdom hin hother => ?_⟩
    · exact eq_of_unblocked hframe (startUnblocked_linkStateTaken (modPort s p (flitAck fl)) p (slice fl 12 240))
    · have hmem := mem_votes_linkStateTaken (u := modPort s p (flitAck fl)) (p := p) (body := slice fl 12 240)
        (by rw [hfld (by decide)]; exact hvote) (by rw [hfld (by decide)]; exact hnew)
      rwa [hfld (show 20 + 8 ≤ 240 by decide)] at hmem
    · obtain ⟨-, hlo, hhi, -⟩ := h
      rw [linkStateTaken_eq]
      have hst := st_linkStateHeard (u := modPort s p (flitAck fl)) (p := p) (body := slice fl 12 240) (by rw [hport]; exact ⟨hlo, hhi⟩)
      refine st_peerPower_of_asleep ?_ ?_
      · rw [peerPwr_of_heard (portHeard_of_told (portTold_domainCheck _ p)), peerPwr_of_heard (portHeard_of_told (portTold_linkStateHeard _ p _))]
        exact (congrArg (· % 4) (hfld (show 5 + 1 ≤ 240 by decide))).trans hasleep
      · rcases st_domainCheck (linkStateHeard (modPort s p (flitAck fl)) p (slice fl 12 240)) p with hc | hc <;> omega
    · have hrow := (linkStateTaken_of_asleep (u := modPort s p (flitAck fl)) (p := p) (body := slice fl 12 240) (by rw [hport]; exact hst)
        (by rw [hfld (by decide)]; exact hawake)).1 halive
      rw [hrow, portTrainable, hport]
      rfl
    · exact linkStateTaken_of_kept (by rw [hport]; exact hst) halive
    · obtain ⟨hst8, hcount, e, hcode, hinbox⟩ := linkStateTaken_of_other (u := modPort s p (flitAck fl)) (p := p) (body := slice fl 12 240)
        (by rw [hfld (by decide)]; exact hpwr2) (by rw [hport]; exact hup) (by rw [hport]; exact hfollow) hdom (by rw [hfld (by decide)]; exact hin)
        (by rw [hfld (by decide)]; exact hother)
      rw [hport] at hcount
      exact ⟨hst8, hcount, e, hcode, hinbox⟩
  case first =>
    have hfld : ∀ {k n : Nat}, k + n ≤ 240 → fld (slice fl 12 240) k n = fld fl (12 + k) n := fun hk => fld_slice hk
    have hport : getPort (modPort s p (flitAck fl)) p = flitAck fl (getPort s p) := getPort_modPort_same _ _ _
    rw [bellTake_of_first (by rw [hport]; exact hup) (by rw [hport]; exact hactive) (by rw [hport]; exact hfirst),
      hfld (show 0 + 8 ≤ 240 by decide), hfld (show 8 + 4 ≤ 240 by decide), hport, getPort_modPort_same, getPort_modClk, getPort_bellHeard, hport,
      hfld (show 0 + 8 ≤ 240 by decide)]
    refine ⟨?_, rfl⟩
    rw [modPort_clk, modClk, clk_bellHeard]
    rfl
  case later =>
    have hfld : ∀ {k n : Nat}, k + n ≤ 240 → fld (slice fl 12 240) k n = fld fl (12 + k) n := fun hk => fld_slice hk
    have hport : getPort (modPort s p (flitAck fl)) p = flitAck fl (getPort s p) := getPort_modPort_same _ _ _
    have hfirst' : (getPort (modPort s p (flitAck fl)) p).firstBell = false := by rw [hport]; exact hfirst
    obtain ⟨v, hv⟩ : ∃ v, v = modPort s p (flitAck fl) := ⟨_, rfl⟩
    have hclk : v.clk = s.clk := by rw [hv]; rfl
    rw [← hv] at hport hfirst' ⊢
    have hheard := getPort_bellHeard (s := v) (p := p) (body := slice fl 12 240)
    rw [hport, hfld (by decide)] at hheard
    have hconflict := bellConflict_spec (bellHeard v p (slice fl 12 240)) p
    have hconfclk : (bellConflict (bellHeard v p (slice fl 12 240)) p).clk = s.clk :=
      (bellConflict_frame _ p).clk.trans (clk_bellHeard.trans hclk)
    have hpeer : (getPort (bellConflict (bellHeard v p (slice fl 12 240)) p) p).peerBell = fld fl 12 8 % 2 ^ 48 := by
      rw [peerBell_of_told hconflict.2.1, hheard]
    refine ⟨?_, ?_, ?_, fun hup hactive hjoin => ?_⟩
    · rcases bellTake_of_later (arr := arr) (body := slice fl 12 240) hfirst' with hc | hc | hc
      · rw [hc, clk_bellHeard, hclk]
      · rw [hc, hconfclk]
      · rw [hc, modClk, clk_bellHeard, hclk]
    · rcases bellTake_of_later (arr := arr) (body := slice fl 12 240) hfirst' with hc | hc | hc
      · rw [hc, clk_bellHeard, hclk]
      · rw [hc, hconfclk]
      · rw [hc, modClk, clk_bellHeard, hclk]
        exact Nat.le_max_left _ _
    · rcases bellTake_of_later (arr := arr) (body := slice fl 12 240) hfirst' with hc | hc | hc
      · rw [hc, hheard]
      · rw [hc, hpeer]
      · rw [hc, getPort_modClk, hheard]
    · have hup' : portUp (getPort v p) = true := by rw [hport]; exact hup
      have hactive' : (getPort v p).bellActive = true := by rw [hport]; exact hactive
      have hjoin' : bellJoining v = false := by rw [hv]; exact bellJoining_modPort hjoin hfirst
      have hskew : bellSkew (getPort v p) arr (slice fl 12 240) = (arr : Int) - ((getPort s p).lat : Int) - (fld fl 20 4 : Int) := by
        rw [bellSkew, hfld (by decide), hport]
        rfl
      refine ⟨fun hbell hnear => ?_, fun hfar => ?_⟩
      · have hnow : nearestBell v (bellSkew (getPort v p) arr (slice fl 12 240)) = some (fld (slice fl 12 240) 0 8 % 2 ^ 48) := by
          rw [hskew, hfld (by decide), hbell, nearestBell, hclk]
          exact if_pos (by rw [Int.natAbs_natCast]; exact hnear)
        rw [bellTake_of_same hup' hactive' hfirst' hjoin' hnow (by rw [hfld (by decide), hbell, hclk]), getPort_modClk, hheard, modClk, clk_bellHeard, hskew,
          psToCc, hclk]
        exact ⟨rfl, rfl⟩
      · have hfar' : nearestBell v (bellSkew (getPort v p) arr (slice fl 12 240)) ≠ some (fld (slice fl 12 240) 0 8 % 2 ^ 48) := by
          rw [hskew, hfld (by decide), hv]
          exact hfar
        rw [bellTake_of_conflict hup' hactive' hfirst' hjoin' hfar', hconfclk]
        obtain ⟨hst, -, hcount⟩ := hconflict
        rw [hheard] at hcount
        exact ⟨hst, hcount, rfl⟩

end Sys2Proof.Machine
end

section
/-! SUPPORT. The spine: where a message of a port or of a tile goes (R316, R321 to R325, R343). -/

-- One proof after another: threads that wait for each other count against the memory of the check.
set_option Elab.async false

namespace Sys2Proof.Machine

/-! ## What a message leaves of the port it came in on -/

/-- A port without the credits that its receive buffers return. -/
def portPaid (q : Port) : Port := { q with crFree := [], crRet := [] }

theorem portPaid_hereFree (x : Nat × List Byte) (q : Port) : portPaid (hereFree x q) = portPaid q := by
  unfold hereFree
  split <;> rfl

/-- A port whose oldest received message is taken: one that is delivered here keeps its place in the receive buffer. -/
def rxTaken (stays : Bool) (x : RxMsg) (rest : List RxMsg) (q : Port) : Port :=
  (if stays then id else hereFree (x.cls, x.bytes)) { q with rxQ := rest }

theorem portPaid_rxTaken (stays : Bool) (x : RxMsg) (rest : List RxMsg) (q : Port) :
    portPaid (rxTaken stays x rest q) = portPaid { q with rxQ := rest } := by
  cases stays
  · exact portPaid_hereFree _ _
  · rfl

/-- What a taken message leaves of its port. -/
theorem rxTaken_spec (stays : Bool) (x : RxMsg) (rest : List RxMsg) (q : Port) :
    (rxTaken stays x rest q).rxQ = rest ∧ (rxTaken stays x rest q).here = q.here ∧ (rxTaken stays x rest q).dropRoute = q.dropRoute
      ∧ (rxTaken stays x rest q).dropHops = q.dropHops ∧ (rxTaken stays x rest q).tlyTransit = q.tlyTransit := by
  have h := portPaid_rxTaken stays x rest q
  exact ⟨(congrArg Port.rxQ h :), (congrArg Port.here h :), (congrArg Port.dropRoute h :), (congrArg Port.dropHops h :),
    (congrArg Port.tlyTransit h :)⟩

section
variable {a b : Port} (h : portBare a = portBare b)
include h

theorem rxQ_of_bare : a.rxQ = b.rxQ := (congrArg Port.rxQ h :)
theorem meshIn_of_bare : a.meshIn = b.meshIn := (congrArg Port.meshIn h :)
theorem tlyTransit_of_bare : a.tlyTransit = b.tlyTransit := (congrArg Port.tlyTransit h :)
theorem tlyLocal_of_bare : a.tlyLocal = b.tlyLocal := (congrArg Port.tlyLocal h :)

end

/-! ## What the spine leaves of a port -/

/-- A port without what the spine fills of it. -/
def portUnfilled (q : Port) : Port := { q with here := [], txQ := [], ord := [] }

theorem portUnfilled_modPort {s : State} {q : Nat} {f : Port → Port} (p : Nat) (hf : ∀ x, portUnfilled (f x) = portUnfilled x := by intro x; rfl) :
    portUnfilled (getPort (modPort s q f) p) = portUnfilled (getPort s p) := by
  by_cases h : p = q
  · rw [h, getPort_modPort_same, hf]
  · rw [getPort_modPort_other _ _ _ _ h]

theorem portUnfilled_portEnqueue (s : State) (q c : Nat) (m : List Byte) (p : Nat) :
    portUnfilled (getPort (portEnqueue s q c m) p) = portUnfilled (getPort s p) := portUnfilled_modPort p

theorem portUnfilled_spineOut (s : State) (q c : Nat) (m : List Byte) (p : Nat) :
    portUnfilled (getPort (spineOut s q c m).1 p) = portUnfilled (getPort s p) := by
  unfold spineOut
  split_ifs
  · exact portUnfilled_portEnqueue s q c m p
  · rfl
  · rfl

theorem portUnfilled_spineMove (s : State) (inp : Nat) (inj : Bool) (c bank : Nat) (m : List Byte) (p : Nat) :
    portUnfilled (getPort (spineMove s inp inj c bank m).1 p) = portUnfilled (getPort s p) := by
  unfold spineMove
  dsimp only
  split
  · refine iteInduction (motive := fun r : State × List (Nat × Nat) => portUnfilled (getPort r.1 p) = _) (fun _ => rfl) fun _ => ?_
    refine (foldl_keeps (π := fun r : State × List (Nat × Nat) => portUnfilled (getPort r.1 p)) (fun r q => ?_) _ _).trans ?_
    · split_ifs
      · rfl
      · exact portUnfilled_spineOut r.1 q _ _ p
      · rfl
    · dsimp only
      split_ifs
      · exact portUnfilled_modPort p
      · rfl
  · split_ifs
    · exact portUnfilled_modPort p
    · rfl
    · rfl
    · exact portUnfilled_spineOut s _ _ _ p

theorem portUp_of_unfilled {a b : Port} (h : portUnfilled a = portUnfilled b) : portUp a = portUp b := (congrArg portUp h :)
theorem rxQ_of_unfilled {a b : Port} (h : portUnfilled a = portUnfilled b) : a.rxQ = b.rxQ := (congrArg Port.rxQ h :)
theorem undel_of_unfilled {a b : Port} (h : portUnfilled a = portUnfilled b) : a.undel = b.undel := (congrArg Port.undel h :)
theorem dropDown_of_unfilled {a b : Port} (h : portUnfilled a = portUnfilled b) : a.dropDown = b.dropDown := (congrArg Port.dropDown h :)
theorem late_of_unfilled {a b : Port} (h : portUnfilled a = portUnfilled b) : a.late = b.late := (congrArg Port.late h :)
theorem dropKey_of_unfilled {a b : Port} (h : portUnfilled a = portUnfilled b) : a.dropKey = b.dropKey := (congrArg Port.dropKey h :)

/-- Counting a discard leaves the reports a port has sent, and what is delivered at it. -/
theorem undel_countDiscard (s : State) (q cause p : Nat) : (getPort (countDiscard s q cause) p).undel = (getPort s p).undel := by
  unfold countDiscard
  by_cases h : p = q
  · rw [h, getPort_modPort_same]
    split <;> rfl
  · rw [getPort_modPort_other _ _ _ _ h]

theorem undel_discardOnly (s : State) (ds : List (Nat × Nat)) (p : Nat) : (getPort (discardOnly s ds) p).undel = (getPort s p).undel :=
  foldl_keeps (π := fun s => (getPort s p).undel) (g := fun s (d : Nat × Nat) => countDiscard s d.1 d.2) (fun s d => undel_countDiscard s d.1 d.2 p) ds s

/-! ## Discards -/

/-- A message that bears no bolt is counted, and no more. -/
theorem discardMsg_of_other {s : State} {m : List Byte} {d : Nat × Nat} (h1 : mKind m ≠ 1) (h2 : mKind m ≠ 2) :
    discardMsg s m d = countDiscard s d.1 d.2 := by
  simp [discardMsg, h1, h2]

/-- A data message that is discarded is counted as undeliverable where it is. -/
theorem undel_discardMsg {s : State} {m : List Byte} {d : Nat × Nat} (h : mKind m = 1 ∨ mKind m = 2) :
    (getPort (discardMsg s m d) d.1).undel = ((getPort s d.1).undel + 1) % 2 ^ 32 := by
  have hbolt : (mKind m == 1 || mKind m == 2) = true := by simpa using h
  rw [discardMsg, if_pos hbolt, undel_discardOnly, undel_of_unfilled (portUnfilled_spineMove _ _ _ _ _ _ _), getPort_modPort_same]
  simp only [undel_countDiscard]

/-! ## Where a message goes -/

/-- A message that has used a hop: a hop counted in a byte that it lacks is none, so no other byte changes its place. -/
def hopUsed (m : List Byte) : List Byte := patch m 0x25 (toLe 1 (mHops m - 1))

theorem getD_hopUsed {m : List Byte} {i : Nat} (h : i ≠ 0x25) : (hopUsed m).getD i 0 = m.getD i 0 := by
  by_cases hlen : m.length ≤ 0x25
  · have hhops : mHops m = 0 := by
      have hs : slice m 0x25 1 = [0] := by simp [slice, List.drop_eq_nil_of_le hlen]
      rw [mHops, fld, hs]
      rfl
    have hpad : hopUsed m = m ++ [0] := by
      rw [hopUsed, hhops, patch, List.take_of_length_le hlen, List.drop_eq_nil_of_le (by simp; omega), List.append_nil]
      rfl
    rw [hpad]
    simp only [List.getD_eq_getElem?_getD, List.getElem?_append]
    split
    · rfl
    · next hout =>
      rw [List.getElem?_eq_none (l := m) (by omega)]
      rcases Nat.lt_or_ge 0 (i - m.length) with hi | hi
      · rw [List.getElem?_eq_none (by simp; omega)]
      · rw [show i - m.length = 0 by omega]
        rfl
  · have hval : (toLe 1 (mHops m - 1)).length = 1 := by simp
    have htake : (m.take 0x25).length = 0x25 := by simp; omega
    simp only [hopUsed, patch, List.getD_eq_getElem?_getD, List.append_assoc]
    rcases Nat.lt_or_ge i 0x25 with hi | hi
    · rw [List.getElem?_append_left (by omega), List.getElem?_take_of_lt hi]
    · rw [List.getElem?_append_right (by omega), List.getElem?_append_right (by omega), List.getElem?_drop, hval, htake]
      congr 2
      omega

theorem fld_hopUsed {m : List Byte} {a n : Nat} (h : a + n ≤ 0x25) : fld (hopUsed m) a n = fld m a n := by
  have hs : slice (hopUsed m) a n = slice m a n := List.ext_getElem (by simp) fun i h1 h2 => by
    have hi : i < n := by simpa using h1
    rw [slice_getElem, slice_getElem, getD_hopUsed (by omega)]
  rw [fld, hs, fld]

@[simp] theorem mCast_hopUsed (m : List Byte) : mCast (hopUsed m) = mCast m := by rw [mCast, fld_hopUsed (by decide), mCast]
@[simp] theorem mDest_hopUsed (m : List Byte) : mDest (hopUsed m) = mDest m := fld_hopUsed (by decide)

/-- The spine looks a message up by the fields that a hop does not change. -/
theorem spineMove_eq (s : State) (p : Nat) (inj : Bool) (c bank : Nat) (m : List Byte) :
    spineMove s p inj c bank m =
      (if mCast m then
        if !(bitAt (mcastEntry s (mDest m % 2 ^ 12)).2.2 31
            && (if inj then bitAt (mcastEntry s (mDest m % 2 ^ 12)).2.2 29 else bits (mcastEntry s (mDest m % 2 ^ 12)).2.2 28 24 == p)) then
          (s, [(p, 2)])
        else (upto 0 32).foldl (fun r q =>
          if bitAt (mcastEntry s (mDest m % 2 ^ 12)).1 q then
            if mHops m - 1 == 0 then (r.1, r.2 ++ [(p, 3)])
            else
              ((spineOut r.1 q (outClass c (bitAt (mcastEntry s (mDest m % 2 ^ 12)).2.1 q)) (hopUsed m)).1,
                r.2 ++ (spineOut r.1 q (outClass c (bitAt (mcastEntry s (mDest m % 2 ^ 12)).2.1 q)) (hopUsed m)).2)
          else r)
          (if bitAt (mcastEntry s (mDest m % 2 ^ 12)).2.2 30 then modPort s p (fun q => { q with here := q.here ++ [(hereClass inj c, hopUsed m)] })
            else s, [])
      else if bitAt (routeEntry s bank (mDest m % 2 ^ 17)) 15 && bitAt (routeEntry s bank (mDest m % 2 ^ 17)) 14 then
        (modPort s p (fun q => { q with here := q.here ++ [(hereClass inj c, hopUsed m)] }), [])
      else if !(bitAt (routeEntry s bank (mDest m % 2 ^ 17)) 15) || (!inj && routeEntry s bank (mDest m % 2 ^ 17) % 32 == p) then (s, [(p, 2)])
      else if mHops m - 1 == 0 then (s, [(p, 3)])
      else spineOut s (routeEntry s bank (mDest m % 2 ^ 17) % 32) (outClass c (bitAt (routeEntry s bank (mDest m % 2 ^ 17)) 13)) (hopUsed m)) := by
  conv => rhs; rw [← mCast_hopUsed m, ← mDest_hopUsed m]
  rfl

/-- Where a unicast message goes by its route entry. -/
def uniMove (s : State) (p : Nat) (inj : Bool) (c e : Nat) (m : List Byte) : State × List (Nat × Nat) :=
  if bitAt e 15 && bitAt e 14 then (modPort s p (fun q => { q with here := q.here ++ [(hereClass inj c, hopUsed m)] }), [])
  else if !(bitAt e 15) || (!inj && e % 32 == p) then (s, [(p, 2)])
  else if mHops m - 1 == 0 then (s, [(p, 3)])
  else spineOut s (e % 32) (outClass c (bitAt e 13)) (hopUsed m)

section
variable {s : State} {p c bank e : Nat} {inj : Bool} {m : List Byte}

theorem spineMove_of_unicast (h : mCast m = false) :
    spineMove s p inj c bank m = uniMove s p inj c (routeEntry s bank (mDest m % 2 ^ 17)) m := by
  rw [spineMove_eq, h]
  rfl

/-- The message of a unicast entry of this module is delivered where it came in. -/
theorem uniMove_of_here (hvalid : bitAt e 15 = true) (hhere : bitAt e 14 = true) :
    uniMove s p inj c e m = (modPort s p (fun q => { q with here := q.here ++ [(hereClass inj c, hopUsed m)] }), []) := by
  simp [uniMove, hvalid, hhere]

/-- One without an entry, or whose entry leads back, is discarded for its route. -/
theorem uniMove_of_stray (h : bitAt e 15 = false ∨ (bitAt e 14 = false ∧ e % 32 = p)) : uniMove s p false c e m = (s, [(p, 2)]) := by
  obtain h | ⟨haway, hback⟩ := h
  · simp [uniMove, h]
  · simp [uniMove, haway, hback]

/-- One for another port with no hop left is discarded for its hops. -/
theorem uniMove_of_spent (hvalid : bitAt e 15 = true) (haway : bitAt e 14 = false) (hother : e % 32 ≠ p) (hhops : mHops m ≤ 1) :
    uniMove s p false c e m = (s, [(p, 3)]) := by
  simp [uniMove, hvalid, haway, hother, show mHops m - 1 = 0 by omega]

/-- One for another port with hops left goes there. -/
theorem uniMove_of_away (hvalid : bitAt e 15 = true) (haway : bitAt e 14 = false) (hother : e % 32 ≠ p) (hhops : 1 < mHops m) :
    uniMove s p false c e m = spineOut s (e % 32) (outClass c (bitAt e 13)) (hopUsed m) := by
  simp [uniMove, hvalid, haway, hother, show mHops m - 1 ≠ 0 by omega]

theorem spineOut_of_carries {q : Nat} (h : portCarries (getPort s q) c = true) : spineOut s q c m = (portEnqueue s q c m, []) := by
  simp [spineOut, h]

/-- What a port does not carry is discarded at it, counted as down. -/
theorem spineOut_of_down {q : Nat} (h : portCarries (getPort s q) c = false) :
    ∃ cause, (cause = 1 ∨ cause = 4) ∧ spineOut s q c m = (s, [(q, cause)]) := by
  by_cases hst : (getPort s q).st = 7
  · exact ⟨4, .inr rfl, by simp [spineOut, h, hst]⟩
  · exact ⟨1, .inl rfl, by simp [spineOut, h, hst]⟩

theorem outClass_eq (c : Nat) (b : Bool) : outClass c b = if c % 4 = 0 ∧ b = true then 1 else c % 4 := by simp [outClass]

theorem spineRoute_of_moved {u : State} (h : spineMove s p inj c bank m = (u, [])) : spineRoute s p inj c bank m = u := by
  simp [spineRoute, h]

theorem spineRoute_of_stopped {u : State} {d : Nat × Nat} (h : spineMove s p inj c bank m = (u, [d])) :
    spineRoute s p inj c bank m = discardMsg u m d := by
  simp [spineRoute, h]

theorem spineRoute_discards (s : State) (p : Nat) (inj : Bool) (c bank : Nat) (m : List Byte) : Discards s (spineRoute s p inj c bank m) :=
  (Discards.refl s).spineMove.trans (foldl_rel Discards.refl Discards.trans (fun u _ => (Discards.refl u).discardMsg) _ _)

end

/-- A port with one message more in a class. -/
def portLined (c : Nat) (m : List Byte) (q : Port) : Port :=
  { q with txQ := kvSet [] q.txQ c (kvGet [] q.txQ c ++ [m]), ord := if c ≤ 1 then q.ord ++ [c] else q.ord }

theorem portEnqueue_eq (s : State) (p c : Nat) (m : List Byte) : portEnqueue s p c m = modPort s p (portLined c m) := rfl

/-- The copies of a multicast message. -/
def castCopies (c : Nat) (e : Nat × Nat × Nat) (m : List Byte) (s : State) (q : Nat) : State :=
  if bitAt e.1 q then portEnqueue s q (outClass c (bitAt e.2.1 q)) m else s

theorem portUp_castCopies (c : Nat) (e : Nat × Nat × Nat) (m : List Byte) (s : State) (q p : Nat) :
    portUp (getPort (castCopies c e m s q) p) = portUp (getPort s p) := by
  unfold castCopies
  split
  · exact (congrArg portUp (portUnfilled_portEnqueue s q _ m p) :)
  · rfl

theorem getPort_castCopies_other {c : Nat} {e : Nat × Nat × Nat} {m : List Byte} {s : State} {q p : Nat} (h : p ≠ q) :
    getPort (castCopies c e m s q) p = getPort s p := by
  unfold castCopies
  split
  · exact getPort_modPort_other _ _ _ _ h
  · rfl

theorem here_castCopies (c : Nat) (e : Nat × Nat × Nat) (m : List Byte) (s : State) (q p : Nat) :
    (getPort (castCopies c e m s q) p).here = (getPort s p).here := by
  by_cases h : p = q
  · subst h
    unfold castCopies
    split
    · rw [portEnqueue, getPort_modPort_same]
    · rfl
  · rw [getPort_castCopies_other h]

/-- The copy of a multicast message for this module. -/
def castHere (p c : Nat) (e : Nat × Nat × Nat) (m : List Byte) (s : State) : State :=
  if bitAt e.2.2 30 then modPort s p (fun q => { q with here := q.here ++ [(c, m)] }) else s

theorem portUnfilled_castHere (p c : Nat) (e : Nat × Nat × Nat) (m : List Byte) (s : State) (q : Nat) :
    portUnfilled (getPort (castHere p c e m s) q) = portUnfilled (getPort s q) := by
  unfold castHere
  split
  · exact portUnfilled_modPort q
  · rfl

theorem txQ_castHere (p c : Nat) (e : Nat × Nat × Nat) (m : List Byte) (s : State) (q : Nat) :
    (getPort (castHere p c e m s) q).txQ = (getPort s q).txQ := by
  unfold castHere
  split
  · by_cases h : q = p
    · rw [h, getPort_modPort_same]
    · rw [getPort_modPort_other _ _ _ _ h]
  · rfl

theorem here_castHere (p c : Nat) (e : Nat × Nat × Nat) (m : List Byte) (s : State) :
    (getPort (castHere p c e m s) p).here = (getPort s p).here ++ (if bitAt e.2.2 30 then [(c, m)] else []) := by
  unfold castHere
  split
  · rw [getPort_modPort_same]
  · rw [List.append_nil]

theorem portUnfilled_castCopies (c : Nat) (e : Nat × Nat × Nat) (m : List Byte) (s : State) (q p : Nat) :
    portUnfilled (getPort (castCopies c e m s q) p) = portUnfilled (getPort s p) := by
  unfold castCopies
  split
  · exact portUnfilled_portEnqueue s q _ m p
  · rfl

/-- Every output of a group gets its copy. -/
theorem txQ_castCopies_all {c : Nat} {e : Nat × Nat × Nat} {m : List Byte} (s : State) {q : Nat} (hq : q < 32) (hb : bitAt e.1 q = true) :
    kvGet [] (getPort ((upto 0 32).foldl (castCopies c e m) s) q).txQ (outClass c (bitAt e.2.1 q))
      = kvGet [] (getPort s q).txQ (outClass c (bitAt e.2.1 q)) ++ [m] := by
  obtain ⟨u, hu, hfold⟩ := foldl_at (π := fun s => getPort s q) (g := castCopies c e m) (k := q)
    (fun s b hne => getPort_castCopies_other (Ne.symm hne)) (nodup_upto 0 32) (by simpa [mem_upto] using hq) s
  rw [hfold, castCopies, if_pos hb, portEnqueue, getPort_modPort_same, kvGet_kvSet_same, hu]

/-- Where every output is Up and a hop is left, each gets its copy and nothing is discarded. -/
theorem spineMove_of_group {s : State} {p c bank : Nat} {m : List Byte} {e : Nat × Nat × Nat} (hcast : mCast m = true)
    (he : e = mcastEntry s (mDest m % 2 ^ 12)) (hvalid : bitAt e.2.2 31 = true) (hin : bits e.2.2 28 24 = p) (hhops : 1 < mHops m)
    (hup : ∀ q, q < 32 → bitAt e.1 q = true → portUp (getPort s q) = true) :
    spineMove s p false c bank m
      = ((upto 0 32).foldl (castCopies c e (hopUsed m))
          (castHere p c e (hopUsed m) s), []) := by
  have hfold : ∀ (l : List Nat) (u : State), (∀ q ∈ l, bitAt e.1 q = true → portUp (getPort u q) = true) →
      l.foldl (fun (r : State × List (Nat × Nat)) q => if bitAt e.1 q then
          if mHops m - 1 == 0 then (r.1, r.2 ++ [(p, 3)])
          else ((spineOut r.1 q (outClass c (bitAt e.2.1 q)) (hopUsed m)).1,
            r.2 ++ (spineOut r.1 q (outClass c (bitAt e.2.1 q)) (hopUsed m)).2)
          else r) (u, [])
        = (l.foldl (castCopies c e (hopUsed m)) u, []) := by
    intro l
    induction l with
    | nil => exact fun _ _ => rfl
    | cons q l ih =>
      intro u hu
      have hnext : ∀ x ∈ l, bitAt e.1 x = true →
          portUp (getPort (castCopies c e (hopUsed m) u q) x) = true := fun x hx hb => by
        rw [portUp_castCopies]
        exact hu x (List.mem_cons_of_mem q hx) hb
      rw [List.foldl_cons, List.foldl_cons, ← ih _ hnext]
      congr 1
      cases hb : bitAt e.1 q with
      | false => simp [castCopies, hb]
      | true =>
        have hc := spineOut_of_carries (c := outClass c (bitAt e.2.1 q)) (m := hopUsed m)
          (show portCarries (getPort u q) _ = true by simp [portCarries, hu q List.mem_cons_self hb])
        simp [castCopies, hb, hc, show mHops m - 1 ≠ 0 by omega]
  subst he
  have hin' : (bits (mcastEntry s (mDest m % 2 ^ 12)).2.2 28 24 == p) = true := by simpa using hin
  simp only [spineMove_eq, hcast, if_true, hvalid, Bool.false_eq_true, if_false, hin', Bool.and_true, Bool.not_true, hereClass]
  refine hfold _ _ fun q hq hb => ?_
  exact (portUp_of_unfilled (portUnfilled_castHere p c _ _ s q)).trans (hup q (by simpa [mem_upto] using hq) hb)

/-! ## The row -/

/-- The oldest message of a port is taken; a bolt that goes on with a wrong tally is counted, with an event (R343). -/
def spineTaken (s : State) (p : Nat) (x : RxMsg) (rest : List RxMsg) : State :=
  if (mKind x.bytes == 1 || mKind x.bytes == 2) && spineOnward s p x.cls x.bank x.bytes && crc32c (mPay x.bytes) != fld x.bytes 0x28 4 then
    sendEvent (modPort (modPort s p (rxTaken (spineHere s p false x.bank x.bytes) x rest)) p
      (fun q => { q with tlyTransit := satAdd 16 q.tlyTransit 1 })) (portEvent s p 0x0114 0xFF 0 0xFFFF 0 0)
  else modPort s p (rxTaken (spineHere s p false x.bank x.bytes) x rest)

section
variable {s : State} {p : Nat} {x : RxMsg} {rest : List RxMsg}

theorem exec_spineRouteLookup (hp : p < 32) (hreeve : s.reeve.gone = false) (hdom : domOn s 95 = true) (hrx : (getPort s p).rxQ = x :: rest) :
    exec (.spineRouteLookup p false) s = .next (spineRoute (spineTaken s p x rest) p false x.cls x.bank x.bytes) := by
  change execSpineRouteLookup p false s = _
  unfold execSpineRouteLookup
  rw [if_neg (not_not.mpr (show p < portCount from hp)), if_neg (by simp [hreeve, hdom])]
  dsimp only
  rw [if_neg Bool.false_ne_true, hrx]
  rfl

theorem spineTaken_of_kept (h : (mKind x.bytes ≠ 1 ∧ mKind x.bytes ≠ 2) ∨ spineOnward s p x.cls x.bank x.bytes = false
      ∨ crc32c (mPay x.bytes) = fld x.bytes 0x28 4) :
    spineTaken s p x rest = modPort s p (rxTaken (spineHere s p false x.bank x.bytes) x rest) := by
  refine if_neg fun hbad => ?_
  simp only [Bool.and_eq_true, Bool.or_eq_true, beq_iff_eq, bne_iff_ne] at hbad
  obtain ⟨⟨hkind, hon⟩, hcrc⟩ := hbad
  obtain h | h | h := h
  · omega
  · simp [h] at hon
  · exact hcrc h

theorem spineTaken_of_bad (hkind : mKind x.bytes = 1 ∨ mKind x.bytes = 2) (hon : spineOnward s p x.cls x.bank x.bytes = true)
    (hcrc : crc32c (mPay x.bytes) ≠ fld x.bytes 0x28 4) :
    spineTaken s p x rest = sendEvent (modPort (modPort s p (rxTaken (spineHere s p false x.bank x.bytes) x rest)) p
      (fun q => { q with tlyTransit := satAdd 16 q.tlyTransit 1 })) (portEvent s p 0x0114 0xFF 0 0xFFFF 0 0) :=
  if_pos (by simpa using ⟨⟨hkind, hon⟩, hcrc⟩)

theorem spineTaken_frame (s : State) (p : Nat) (x : RxMsg) (rest : List RxMsg) : Touches [.ports, .inbox] s (spineTaken s p x rest) := by
  unfold spineTaken
  split <;> simp

theorem getPort_spineTaken_other {q : Nat} (h : q ≠ p) : getPort (spineTaken s p x rest) q = getPort s q := by
  unfold spineTaken
  split
  · rw [getPort_sendEvent, getPort_modPort_other _ _ _ _ h, getPort_modPort_other _ _ _ _ h]
  · rw [getPort_modPort_other _ _ _ _ h]

/-- A port without the count of tallies that failed in transit. -/
def portUntallied (q : Port) : Port := { portPaid q with tlyTransit := 0 }

theorem portUntallied_spineTaken : portUntallied (getPort (spineTaken s p x rest) p) = portUntallied { getPort s p with rxQ := rest } := by
  have h : portUntallied (rxTaken (spineHere s p false x.bank x.bytes) x rest (getPort s p)) = portUntallied { getPort s p with rxQ := rest } :=
    (congrArg (fun q : Port => { q with tlyTransit := 0 }) (portPaid_rxTaken _ x rest _) :)
  unfold spineTaken
  split
  · rw [getPort_sendEvent, getPort_modPort_same, getPort_modPort_same]
    exact h
  · rw [getPort_modPort_same]
    exact h

theorem routeEntry_spineTaken (b d : Nat) : routeEntry (spineTaken s p x rest) b d = routeEntry s b d := by
  rw [routeEntry, (spineTaken_frame s p x rest).link (by decide), routeEntry]

theorem mcastEntry_spineTaken (g : Nat) : mcastEntry (spineTaken s p x rest) g = mcastEntry s g := by
  rw [mcastEntry, (spineTaken_frame s p x rest).link (by decide), mcastEntry]

end

theorem rxQ_of_untallied {a b : Port} (h : portUntallied a = portUntallied b) : a.rxQ = b.rxQ := (congrArg Port.rxQ h :)
theorem here_of_untallied {a b : Port} (h : portUntallied a = portUntallied b) : a.here = b.here := (congrArg Port.here h :)
theorem txQ_of_untallied {a b : Port} (h : portUntallied a = portUntallied b) : a.txQ = b.txQ := (congrArg Port.txQ h :)
theorem portUp_of_untallied {a b : Port} (h : portUntallied a = portUntallied b) : portUp a = portUp b := (congrArg portUp h :)

/-! ## One clause each -/

section
variable {s : State} {p e : Nat} {x : RxMsg} {rest : List RxMsg}

/-- Is a unicast message handed on to another port that carries it? -/
theorem spineOnward_of_unicast (hcast : mCast x.bytes = false) (he : routeEntry s x.bank (mDest x.bytes % 2 ^ 17) = e) :
    spineOnward s p x.cls x.bank x.bytes
      = (bitAt e 15 && !(bitAt e 14) && e % 32 != p && mHops x.bytes != 1 && portCarries (getPort s (e % 32)) (outClass x.cls (bitAt e 13))) := by
  subst he
  simp only [spineOnward, hcast, Bool.false_eq_true, if_false]

theorem spineMove_spineTaken (hcast : mCast x.bytes = false) (he : routeEntry s x.bank (mDest x.bytes % 2 ^ 17) = e) :
    spineMove (spineTaken s p x rest) p false x.cls x.bank x.bytes = uniMove (spineTaken s p x rest) p false x.cls e x.bytes := by
  rw [spineMove_of_unicast hcast, routeEntry_spineTaken, he]

theorem getPort_countDiscard_other {s : State} {q k cause : Nat} (h : k ≠ q) : getPort (countDiscard s q cause) k = getPort s k :=
  getPort_modPort_other _ _ _ _ h

/-- What a message that stops or stays at its port changes is that port's. -/
theorem portWork_rxTaken (stays : Bool) (f : Port → Port) : portWork p s (modPort (modPort s p (rxTaken stays x rest)) p f) :=
  portWork_twice s p _ f

end

/-- The oldest message, with no bolt or none that goes on, of a unicast entry: its row. -/
theorem exec_unicast_of_kept {s : State} {p e : Nat} {x : RxMsg} {rest : List RxMsg} (hp : p < 32) (hreeve : s.reeve.gone = false)
    (hdom : domOn s 95 = true) (hrx : (getPort s p).rxQ = x :: rest) (hcast : mCast x.bytes = false)
    (he : routeEntry s x.bank (mDest x.bytes % 2 ^ 17) = e) {u : State} {ds : List (Nat × Nat)}
    (hkept : (mKind x.bytes ≠ 1 ∧ mKind x.bytes ≠ 2) ∨ spineOnward s p x.cls x.bank x.bytes = false
      ∨ crc32c (mPay x.bytes) = fld x.bytes 0x28 4)
    (hmove : uniMove (modPort s p (rxTaken (spineHere s p false x.bank x.bytes) x rest)) p false x.cls e x.bytes = (u, ds)) :
    exec (.spineRouteLookup p false) s = .next (ds.foldl (fun s d => discardMsg s x.bytes d) u) := by
  rw [exec_spineRouteLookup hp hreeve hdom hrx, spineRoute, spineMove_spineTaken hcast he, spineTaken_of_kept hkept, hmove]

/-- What tiles inject waits for its sixteen data packets (R316). -/
theorem injectTake_eq_none {s : State} {q : Port} (h : ∀ h ∈ q.meshIn, h.kind = 0xB → h.payload.length = 64 →
      (q.meshIn.filter (fun k => k.kind == 0xB && k.src == h.src && k.payload.length == 256)).length < 16) : injectTake s q = none := by
  have hnone : q.meshIn.find? (fun h => h.kind == 0xB && h.payload.length == 64
      && 16 ≤ (q.meshIn.filter (fun k => k.kind == 0xB && k.src == h.src && k.payload.length == 256)).length) = none := by
    refine List.find?_eq_none.mpr fun x hx hall => ?_
    simp only [Bool.and_eq_true, beq_iff_eq, decide_eq_true_eq] at hall
    obtain ⟨⟨hkind, hlen⟩, hcount⟩ := hall
    exact absurd (h x hx hkind hlen) (Nat.not_lt.mpr hcount)
  simp only [injectTake, hnone]

/-- A tile's message, wholly injected. -/
theorem exec_spineRouteLookup_injected {s : State} {p bank : Nat} {m : List Byte} {left : List Packet} (hp : p < 32) (hreeve : s.reeve.gone = false)
    (hdom : domOn s 95 = true) (htake : injectTake s (getPort s p) = some (m, bank, left)) :
    exec (.spineRouteLookup p true) s = .next (if replaying s (logPart (fld m 0xE 2 % 8192)) then modPort s p (fun q => { q with meshIn := left })
      else spineRoute (modPort s p (fun q => { q with meshIn := left })) p true 0 bank m) := by
  change execSpineRouteLookup p true s = _
  unfold execSpineRouteLookup
  rw [if_neg (not_not.mpr (show p < portCount from hp)), if_neg (by simp [hreeve, hdom])]
  dsimp only
  rw [if_pos rfl, htake]

/-- Settles O41: a message by the way `uniMove` gives it, a group by `spineMove_of_group`, what tiles inject by `injectTake`. -/
theorem spineFollowsTheRoutes : Obligations.SpineFollowsTheRoutes := by
  refine ⟨fun p c m x rest e s hp hreeve hdom hrx hc hm he => ⟨fun hcast => ⟨fun h1 h2 => ?counted, fun hvalid hhere => ?here,
      fun q c1 hvalid haway hq hother hhops hc1 => ?away⟩, fun e hcast he hvalid hin hhops hup => ?group⟩, ?lost, ?none,
    fun p bank s m left hp hreeve hdom htake => ?injected, ?waiting⟩
  case counted =>
    subst hc hm
    replace he : routeEntry s x.bank (mDest x.bytes % 2 ^ 17) = e := by simp [he, routeEntry]
    obtain ⟨hrxQ, hhereQ, hroute, hhopsQ, htally⟩ := rxTaken_spec (spineHere s p false x.bank x.bytes) x rest (getPort s p)
    refine ⟨fun hstray => ?_, fun hvalid haway hother hhops => ?_, fun hvalid haway hother hhops hdown => ?_⟩
    · refine ⟨_, exec_unicast_of_kept hp hreeve hdom hrx hcast he (.inl ⟨h1, h2⟩) (uniMove_of_stray hstray), ?_⟩
      rw [List.foldl_cons, List.foldl_nil, discardMsg_of_other h1 h2]
      refine ⟨portWork_rxTaken _ _, ?_⟩
      rw [countDiscard, getPort_modPort_same, getPort_modPort_same]
      exact ⟨hrxQ, hhereQ, congrArg (fun n => min 255 (n + 1)) hroute⟩
    · refine ⟨_, exec_unicast_of_kept hp hreeve hdom hrx hcast he (.inl ⟨h1, h2⟩) (uniMove_of_spent hvalid haway hother hhops), ?_⟩
      rw [List.foldl_cons, List.foldl_nil, discardMsg_of_other h1 h2]
      refine ⟨portWork_rxTaken _ _, ?_⟩
      rw [countDiscard, getPort_modPort_same, getPort_modPort_same]
      exact ⟨hrxQ, hhereQ, congrArg (fun n => min 255 (n + 1)) hhopsQ⟩
    · rw [← outClass_eq] at hdown
      obtain ⟨cause, hcause, hout⟩ := spineOut_of_down (s := modPort s p (rxTaken (spineHere s p false x.bank x.bytes) x rest)) (m := hopUsed x.bytes)
        (q := e % 32) (by rwa [getPort_modPort_other _ _ _ _ hother])
      refine ⟨_, exec_unicast_of_kept hp hreeve hdom hrx hcast he (.inl ⟨h1, h2⟩) ((uniMove_of_away hvalid haway hother hhops).trans hout), ?_⟩
      rw [List.foldl_cons, List.foldl_nil, discardMsg_of_other h1 h2]
      refine ⟨rfl, ?_, ?_, fun q hqp hqe => ?_⟩
      · rw [getPort_countDiscard_other (Ne.symm hother), getPort_modPort_same]
        exact hrxQ
      · rw [countDiscard, getPort_modPort_same, getPort_modPort_other _ _ _ _ hother]
        rcases hcause with rfl | rfl <;> rfl
      · rw [getPort_countDiscard_other hqe, getPort_modPort_other _ _ _ _ hqp]
  case here =>
    subst hc hm
    replace he : routeEntry s x.bank (mDest x.bytes % 2 ^ 17) = e := by simp [he, routeEntry]
    obtain ⟨hrxQ, hhereQ, hroute, hhopsQ, htally⟩ := rxTaken_spec (spineHere s p false x.bank x.bytes) x rest (getPort s p)
    refine ⟨_, exec_unicast_of_kept hp hreeve hdom hrx hcast he (.inr (.inl ?_)) (uniMove_of_here hvalid hhere), portWork_rxTaken _ _, ?_⟩
    · simp [spineOnward_of_unicast hcast he, hhere]
    · rw [List.foldl_nil, getPort_modPort_same, getPort_modPort_same]
      exact ⟨hrxQ, congrArg (· ++ _) hhereQ⟩
  case away =>
    subst hc hm hq
    replace he : routeEntry s x.bank (mDest x.bytes % 2 ^ 17) = e := by simp [he, routeEntry]
    rw [← outClass_eq] at hc1
    subst hc1
    obtain ⟨hrxQ, hhereQ, hroute, hhopsQ, htally⟩ := rxTaken_spec (spineHere s p false x.bank x.bytes) x rest (getPort s p)
    refine ⟨fun hcarries => ?_, fun hdown hbolt => ?_⟩
    · have hrun : exec (.spineRouteLookup p false) s
          = .next (portEnqueue (spineTaken s p x rest) (e % 32) (outClass x.cls (bitAt e 13)) (hopUsed x.bytes)) := by
        rw [exec_spineRouteLookup hp hreeve hdom hrx, spineRoute_of_moved]
        rw [spineMove_spineTaken hcast he, uniMove_of_away hvalid haway hother hhops,
          spineOut_of_carries (by rwa [getPort_spineTaken_other hother])]
      have hun := portUntallied_spineTaken (s := s) (p := p) (x := x) (rest := rest)
      have hframe : Touches [.ports, .inbox] s (portEnqueue (spineTaken s p x rest) (e % 32) (outClass x.cls (bitAt e 13)) (hopUsed x.bytes)) := by
        simpa [portEnqueue] using spineTaken_frame s p x rest
      refine ⟨_, hrun, by exact hframe.eq_overlay, ?_, ?_, fun q hqp hqe => ?_, fun hgood => ?_, fun hbolt hcrc => ?_⟩
      · rw [portEnqueue, getPort_modPort_other _ _ _ _ (Ne.symm hother)]
        exact rxQ_of_untallied hun
      · rw [portEnqueue, getPort_modPort_same, kvGet_kvSet_same, getPort_spineTaken_other hother]
        rfl
      · rw [portEnqueue, getPort_modPort_other _ _ _ _ hqe, getPort_spineTaken_other hqp]
      · rw [spineTaken_of_kept (hgood.imp_right .inr)]
        rfl
      · rw [spineTaken_of_bad hbolt (by simp [spineOnward_of_unicast hcast he, hvalid, haway, hother, show mHops x.bytes ≠ 1 by omega, hcarries]) hcrc]
        refine ⟨?_, portEvent s p 0x0114 0xFF 0 0xFFFF 0 0, rfl, rfl⟩
        rw [portEnqueue, getPort_modPort_other _ _ _ _ (Ne.symm hother), getPort_sendEvent, getPort_modPort_same, getPort_modPort_same]
        exact congrArg (fun n => min 65535 (n + 1)) htally
    · obtain ⟨cause, -, hout⟩ := spineOut_of_down (s := modPort s p (rxTaken (spineHere s p false x.bank x.bytes) x rest)) (m := hopUsed x.bytes)
        (q := e % 32) (by rwa [getPort_modPort_other _ _ _ _ hother])
      have hbare := ((Discards.refl (modPort s p (rxTaken (spineHere s p false x.bank x.bytes) x rest))).discardMsg (m := x.bytes)
        (d := (e % 32, cause)))
      have hframe : Touches [.ports] s (discardMsg (modPort s p (rxTaken (spineHere s p false x.bank x.bytes) x rest)) x.bytes (e % 32, cause)) :=
        Touches.trans (by simp) hbare.frame
      refine ⟨_, exec_unicast_of_kept hp hreeve hdom hrx hcast he (.inr (.inl ?_)) ((uniMove_of_away hvalid haway hother hhops).trans hout),
        by exact hframe.eq_overlay, ?_, ?_, ?_⟩
      · simp [spineOnward_of_unicast hcast he, hdown]
      · refine (rxQ_of_bare (hbare.bare p)).trans ?_
        rw [getPort_modPort_same]
        exact hrxQ
      · refine (tlyTransit_of_bare (hbare.bare p)).trans ?_
        rw [getPort_modPort_same]
        exact htally
      · refine (undel_discardMsg hbolt).trans ?_
        rw [getPort_modPort_other _ _ _ _ hother]
  case group =>
    subst hc hm
    have hun := portUntallied_spineTaken (s := s) (p := p) (x := x) (rest := rest)
    have hup' : ∀ q, q < 32 → bitAt e.1 q = true → portUp (getPort (spineTaken s p x rest) q) = true := fun q hq hb => by
      by_cases hqp : q = p
      · rw [hqp, portUp_of_untallied hun]
        exact hup p (hqp ▸ hq) (hqp ▸ hb)
      · rw [getPort_spineTaken_other hqp]
        exact hup q hq hb
    have hrun : exec (.spineRouteLookup p false) s
        = .next ((upto 0 32).foldl (castCopies x.cls e (hopUsed x.bytes)) (castHere p x.cls e (hopUsed x.bytes) (spineTaken s p x rest))) := by
      rw [exec_spineRouteLookup hp hreeve hdom hrx,
        spineRoute_of_moved (spineMove_of_group hcast (he.trans (mcastEntry_spineTaken _).symm) hvalid hin hhops hup')]
    refine ⟨_, hrun, ?_, ?_, fun q hq hb => ?_⟩
    · refine (rxQ_of_unfilled ((foldl_keeps (π := fun s => portUnfilled (getPort s p)) (g := castCopies x.cls e (hopUsed x.bytes))
        (fun u q => portUnfilled_castCopies _ _ _ u q p) _ _).trans (portUnfilled_castHere ..))).trans ?_
      exact rxQ_of_untallied hun
    · refine (foldl_keeps (π := fun s => (getPort s p).here) (g := castCopies x.cls e (hopUsed x.bytes))
        (fun u q => here_castCopies _ _ _ u q p) _ _).trans ?_
      rw [here_castHere, here_of_untallied hun]
      rfl
    · rw [txQ_castCopies_all _ hq hb, txQ_castHere]
      by_cases hqp : q = p
      · rw [hqp, txQ_of_untallied hun]
        rfl
      · rw [getPort_spineTaken_other hqp]
        rfl
  case lost =>
    intro p inj s hp h
    change execSpineRouteLookup p inj s = _
    rw [execSpineRouteLookup, if_neg (not_not.mpr (show p < portCount from hp)), if_pos (by simpa using h)]
  case none =>
    intro p s hp h
    change execSpineRouteLookup p false s = _
    simp [execSpineRouteLookup, show p < portCount from hp, h]
  case injected =>
    refine ⟨_, exec_spineRouteLookup_injected hp hreeve hdom htake, ?_, fun hlive hcast hvalid hhere => ?_⟩
    · split_ifs
      · rw [getPort_modPort_same]
      · refine (meshIn_of_bare ((spineRoute_discards _ _ _ _ _ _).bare p)).trans ?_
        rw [getPort_modPort_same]
    · have hmove := (spineMove_of_unicast (s := modPort s p (fun q => { q with meshIn := left })) (p := p) (c := 0) (bank := bank) (inj := true)
        hcast).trans (uniMove_of_here hvalid hhere)
      rw [hlive, if_neg Bool.false_ne_true, spineRoute_of_moved hmove, getPort_modPort_same, getPort_modPort_same]
      rfl
  case waiting =>
    intro p s hp h
    change execSpineRouteLookup p true s = _
    simp [execSpineRouteLookup, show p < portCount from hp, injectTake_eq_none h]

end Sys2Proof.Machine
end

section
/-! SUPPORT. Messages for the module (R50, R51, R315, R317, R318, R320, R322, R343). -/

-- One proof after another: threads that wait for each other count against the memory of the check.
set_option Elab.async false

namespace Sys2Proof.Machine

/-! ## What a delivered message leaves of its port -/

/-- A port that a delivered message leaves. -/
def hereTaken (x : Nat × List Byte) (q : Port) : Port := hereFree x { q with here := q.here.erase x }

theorem hereTaken_spec (x : Nat × List Byte) (q : Port) :
    (hereTaken x q).here = q.here.erase x ∧ (hereTaken x q).undel = q.undel ∧ (hereTaken x q).late = q.late
      ∧ (hereTaken x q).dropKey = q.dropKey ∧ (hereTaken x q).dropDown = q.dropDown ∧ (hereTaken x q).tlyLocal = q.tlyLocal
      ∧ (hereTaken x q).park = q.park ∧ (hereTaken x q).parkedCnt = q.parkedCnt := by
  have h : portPaid (hereTaken x q) = portPaid { q with here := q.here.erase x } := portPaid_hereFree _ _
  exact ⟨(congrArg Port.here h :), (congrArg Port.undel h :), (congrArg Port.late h :), (congrArg Port.dropKey h :),
    (congrArg Port.dropDown h :), (congrArg Port.tlyLocal h :), (congrArg Port.park h :), (congrArg Port.parkedCnt h :)⟩

/-! ## The counts of a discard -/

/-- What stops a message that the spine moves is its route, its hops, or a port that is down. -/
theorem cause_le_of_mem_spineOut {s : State} {q c : Nat} {m : List Byte} {d : Nat × Nat} (h : d ∈ (spineOut s q c m).2) : d.2 ≤ 4 := by
  unfold spineOut at h
  split_ifs at h <;> simp_all

theorem cause_le_of_mem_spineMove (s : State) (p : Nat) (inj : Bool) (c bank : Nat) (m : List Byte) :
    ∀ d ∈ (spineMove s p inj c bank m).2, d.2 ≤ 4 := by
  cases hcast : mCast m with
  | false =>
    intro d h
    rw [spineMove_of_unicast hcast, uniMove] at h
    split_ifs at h
    · simp at h
    · simp_all
    · simp_all
    · exact cause_le_of_mem_spineOut h
  | true =>
    rw [spineMove_eq, if_pos hcast]
    refine iteInduction (motive := fun r : State × List (Nat × Nat) => ∀ d ∈ r.2, d.2 ≤ 4) (fun _ => by simp) fun _ => ?_
    refine foldl_rel (R := fun x y : State × List (Nat × Nat) => (∀ d ∈ x.2, d.2 ≤ 4) → ∀ d ∈ y.2, d.2 ≤ 4) (fun _ => id)
      (fun h1 h2 => h2 ∘ h1) (fun x q hx d hd => ?_) _ _ (by simp)
    split_ifs at hd
    · obtain hd | hd := List.mem_append.mp hd
      · exact hx d hd
      · simp_all
    · obtain hd | hd := List.mem_append.mp hd
      · exact hx d hd
      · exact cause_le_of_mem_spineOut hd
    · exact hx d hd

/-- What a count of a discard keeps, where neither the spine nor the report of it changes that. -/
theorem keeps_discardMsg {α : Type} {g : Port → α} {s : State} {m : List Byte} {d : Nat × Nat} {p : Nat}
    (hfill : ∀ q, g (portUnfilled q) = g q) (hundel : ∀ q n, g { q with undel := n } = g q)
    (hcount : ∀ u q cause, cause ≤ 4 → g (getPort (countDiscard u q cause) p) = g (getPort u p)) :
    g (getPort (discardMsg s m d) p) = g (getPort (countDiscard s d.1 d.2) p) := by
  unfold discardMsg
  dsimp only
  split
  · refine (foldl_keeps_of_mem (π := fun s => g (getPort s p)) _ (fun u b hb => hcount u b.1 b.2 (cause_le_of_mem_spineMove _ _ _ _ _ _ b hb)) _).trans ?_
    rw [← hfill, portUnfilled_spineMove, hfill]
    by_cases h : p = d.1
    · rw [h, getPort_modPort_same, hundel]
    · rw [getPort_modPort_other _ _ _ _ h]
  · rfl

theorem late_countDiscard_of_ne {s : State} {q cause p : Nat} (h : cause ≠ 8) :
    (getPort (countDiscard s q cause) p).late = (getPort s p).late := by
  unfold countDiscard
  by_cases hp : p = q
  · rw [hp, getPort_modPort_same]
    split <;> grind
  · rw [getPort_modPort_other _ _ _ _ hp]

theorem dropKey_countDiscard_of_ne {s : State} {q cause p : Nat} (h : cause ≠ 6) :
    (getPort (countDiscard s q cause) p).dropKey = (getPort s p).dropKey := by
  unfold countDiscard
  by_cases hp : p = q
  · rw [hp, getPort_modPort_same]
    split <;> grind
  · rw [getPort_modPort_other _ _ _ _ hp]

theorem late_discardMsg (s : State) (m : List Byte) (p : Nat) : (getPort (discardMsg s m (p, 8)) p).late = min 65535 ((getPort s p).late + 1) := by
  rw [keeps_discardMsg (g := Port.late) (fun _ => rfl) (fun _ _ => rfl) (fun u q cause h => late_countDiscard_of_ne (by omega)), countDiscard,
    getPort_modPort_same]
  rfl

theorem dropKey_discardMsg (s : State) (m : List Byte) (p : Nat) :
    (getPort (discardMsg s m (p, 6)) p).dropKey = min 255 ((getPort s p).dropKey + 1) := by
  rw [keeps_discardMsg (g := Port.dropKey) (fun _ => rfl) (fun _ _ => rfl) (fun u q cause h => dropKey_countDiscard_of_ne (by omega)), countDiscard,
    getPort_modPort_same]
  rfl

/-- The count of what found a port down never falls, up to its bound. -/
theorem dropDown_countDiscard_le (s : State) (q cause p : Nat) :
    min 255 (getPort s p).dropDown ≤ (getPort (countDiscard s q cause) p).dropDown := by
  unfold countDiscard
  by_cases hp : p = q
  · rw [hp, getPort_modPort_same]
    split <;> simp [satAdd]
  · rw [getPort_modPort_other _ _ _ _ hp]
    omega

theorem dropDown_discardMsg (s : State) (m : List Byte) (p : Nat) :
    min 255 ((getPort s p).dropDown + 1) ≤ (getPort (discardMsg s m (p, 5)) p).dropDown := by
  have hcount : (getPort (countDiscard s p 5) p).dropDown = min 255 ((getPort s p).dropDown + 1) := by
    rw [countDiscard, getPort_modPort_same]
    rfl
  unfold discardMsg
  dsimp only
  split
  · have hfold := foldl_rel (R := fun s t : State => min 255 (getPort s p).dropDown ≤ (getPort t p).dropDown) (fun s => by omega)
      (fun h1 h2 => by omega) (fun u (d : Nat × Nat) => dropDown_countDiscard_le u d.1 d.2 p)
      (spineMove (modPort (countDiscard s p 5) p (fun q => { q with undel := (q.undel + 1) % 2 ^ 32 })) p true 2 s.link.bank (reportOf s m 5)).2
      (spineMove (modPort (countDiscard s p 5) p (fun q => { q with undel := (q.undel + 1) % 2 ^ 32 })) p true 2 s.link.bank (reportOf s m 5)).1
    have hmove := dropDown_of_unfilled (portUnfilled_spineMove
      (modPort (countDiscard s p 5) p (fun q => { q with undel := (q.undel + 1) % 2 ^ 32 })) p true 2 s.link.bank (reportOf s m 5) p)
    rw [hmove, getPort_modPort_same] at hfold
    simp only [hcount] at hfold
    refine le_trans ?_ hfold
    omega
  · exact hcount.ge

/-! ## Packets that wait at an edge of the mesh move in -/

/-- A port without what waits to leave it into the mesh. -/
def portUnsent (q : Port) : Port := { q with meshOut := [] }

/-- A port with packets more that wait to leave it into a row of the mesh. -/
def meshQueued (row : Nat) (ks : List Packet) (q : Port) : Port :=
  { q with meshOut := q.meshOut ++ ks.map (fun k => (row, { k with table := [] })) }

theorem portEmit_eq (s : State) (p row : Nat) (ks : List Packet) :
    portEmit s p row ks = refill (modPort s p (meshQueued row ks)) (96 * row + (if portEast p then 95 else 0)) (if portEast p then 3 else 4) := rfl

/-- Packets move in: the ports lose what waits, and events come after those that wait. -/
structure MovesIn (s t : State) : Prop where
  port : ∀ q, portUnsent (getPort t q) = portUnsent (getPort s q)
  events : s.reeve.inbox <+: t.reeve.inbox

namespace MovesIn

variable {s t u : State}

theorem refl (s : State) : MovesIn s s := ⟨fun _ => rfl, List.prefix_refl _⟩

theorem trans (h1 : MovesIn s t) (h2 : MovesIn t u) : MovesIn s u :=
  ⟨fun q => (h2.port q).trans (h1.port q), h1.events.trans h2.events⟩

theorem of_touches {F : List Fld} (h : Touches F s t) (hports : .ports ∉ F) (hinbox : .inbox ∉ F) : MovesIn s t :=
  ⟨fun q => by rw [h.getPort q hports], by rw [h.inbox hinbox]⟩

theorem ueReport (s : State) (p port : Nat) (k : Packet) (b : Bool) : MovesIn s (ueReport s p port k b) := by
  unfold Machine.ueReport
  dsimp only
  split <;> exact ⟨fun _ => rfl, List.prefix_append _ _⟩

theorem keyDrop (s : State) (p port : Nat) (k : Packet) : MovesIn s (keyDrop s p port k) := by
  unfold Machine.keyDrop
  dsimp only
  split <;> exact ⟨fun _ => rfl, List.prefix_append _ _⟩

theorem inputTake (s : State) (l input : Nat) (k : Packet) : MovesIn s (inputTake s l input k) := by
  unfold Machine.inputTake
  dsimp only
  refine iteInduction (fun _ => ⟨fun _ => rfl, List.prefix_refl _⟩) fun _ => ?_
  refine iteInduction (fun _ => trans (of_touches (F := [.tiles]) (by simp) (by decide) (by decide)) (ueReport _ _ _ _ _)) fun _ => ?_
  exact iteInduction (fun _ => keyDrop s _ _ _) fun _ => ⟨fun _ => rfl, List.prefix_refl _⟩

/-- The packets that wait at a port change, and no more. -/
theorem modPort {p : Nat} {f : Port → Port} (hf : ∀ q, portUnsent (f q) = portUnsent q := by intro q; rfl) : MovesIn s (modPort s p f) := by
  refine ⟨fun q => ?_, List.prefix_refl _⟩
  by_cases h : q = p
  · rw [h, getPort_modPort_same, hf]
  · rw [getPort_modPort_other _ _ _ _ h]

theorem edgeFill (s : State) (l input v : Nat) : MovesIn s (edgeFill s l input v) := by
  unfold Machine.edgeFill
  dsimp only
  split
  · exact refl s
  · split
    · split
      · refine iteInduction (fun _ => refl s) fun _ => ?_
        exact trans (of_touches (F := [.mems]) (by simp) (by decide) (by decide)) (inputTake _ _ _ _)
      · exact refl s
    · split
      · split
        · refine iteInduction (fun _ => refl s) fun _ => ?_
          exact trans modPort (inputTake _ _ _ _)
        · exact refl s
      · exact refl s

theorem refill (s : State) (l input : Nat) : MovesIn s (refill s l input) := by
  unfold Machine.refill
  split
  · exact of_touches (F := [.tiles, .clk]) (by simp) (by decide) (by decide)
  · exact foldl_rel refl trans (fun s v => edgeFill s l input v) _ s

theorem portEmit (s : State) (p row : Nat) (ks : List Packet) : MovesIn s (portEmit s p row ks) := by
  rw [portEmit_eq]
  exact trans modPort (refill _ _ _)

theorem deliverMsg (s : State) (p : Nat) (m : List Byte) : MovesIn s (deliverMsg s p m) := by
  unfold Machine.deliverMsg
  split
  · exact ⟨fun _ => rfl, List.prefix_refl _⟩
  · exact portEmit _ _ _ _

end MovesIn

/-! ## The rows -/

section
variable {s : State} {p c : Nat} {m : List Byte}

/-- The next data message is one of a port's own, and bears a bolt. -/
theorem kind_of_hereNext {q : Port} (h : hereNext s p q = some (c, m)) : mKind m = 1 ∨ mKind m = 2 := by
  unfold hereNext at h
  dsimp only at h
  have hall : ∀ x ∈ q.here.filter (fun x => mKind x.2 == 1 || mKind x.2 == 2), mKind x.2 = 1 ∨ mKind x.2 = 2 := fun x hx => by
    simpa using (List.mem_filter.mp hx).2
  split at h
  · simp at h
  · next x l hdata =>
    rw [hdata] at hall
    split at h
    · obtain rfl := Option.some.inj h
      exact hall _ List.mem_cons_self
    · split at h
      · next y hfind =>
        split at h
        · simp at h
        · obtain rfl := Option.some.inj h
          rw [hdata] at hfind
          exact hall _ (List.mem_of_find?_eq_some hfind)
      · simp at h

/-- The message leaves its port. -/
def deliveryTaken (s : State) (p c : Nat) (m : List Byte) : State := modPort s p (hereTaken (c, m))

theorem deliveryTaken_frame (s : State) (p c : Nat) (m : List Byte) : Touches [.ports] s (deliveryTaken s p c m) := by simp [deliveryTaken]

theorem exec_localDelivery_of_refused {cause : Nat} (hp : p < 32) (hnext : hereNext s p (getPort s p) = some (c, m))
    (hcause : localCause s m = some cause) :
    exec (.localDelivery p) s = .next (discardMsg
      (if cause == 6 then sendEvent (deliveryTaken s p c m) (portEvent s p 0x0155 0xFF 0 0xFFFF 0 0) else deliveryTaken s p c m) m (p, cause)) := by
  change execLocalDelivery p s = _
  unfold execLocalDelivery
  rw [if_neg (not_not.mpr (show p < portCount from hp)), hnext]
  dsimp only
  rw [hcause]
  rfl

theorem exec_localDelivery_of_early (hp : p < 32) (hnext : hereNext s p (getPort s p) = some (c, m)) (hcause : localCause s m = none)
    (hearly : s.clk.bell + 1 < mStamp m) :
    exec (.localDelivery p) s = .next (modPort (deliveryTaken s p c m) p
      (fun q => { q with park := q.park ++ [(hereClass (c < 4) c, m)], parkedCnt := (q.parkedCnt + 1) % 65536 })) := by
  change execLocalDelivery p s = _
  unfold execLocalDelivery
  rw [if_neg (not_not.mpr (show p < portCount from hp)), hnext]
  dsimp only
  rw [hcause]
  exact if_pos hearly

theorem exec_localDelivery_of_due (hp : p < 32) (hnext : hereNext s p (getPort s p) = some (c, m)) (hcause : localCause s m = none)
    (hdue : mStamp m ≤ s.clk.bell + 1) : exec (.localDelivery p) s = .next (localTake (deliveryTaken s p c m) p m) := by
  change execLocalDelivery p s = _
  unfold execLocalDelivery
  rw [if_neg (not_not.mpr (show p < portCount from hp)), hnext]
  dsimp only
  rw [hcause]
  exact if_neg (Nat.not_lt.mpr hdue)

theorem localTake_of_good {u : State} (h : crc32c (mPay m) = fld m 0x28 4) : localTake u p m = deliverMsg u p m := if_pos (by simpa using h)

/-- A message whose tally fails, counted with an event, as it goes on. -/
def localFailed (u : State) (p : Nat) (m : List Byte) : State :=
  discardMsg (sendEvent (modPort u p (fun q => { q with tlyLocal := satAdd 16 q.tlyLocal 1 })) (portEvent u p 0x0114 0xFF 0 0xFFFF 0 0)) m (p, 7)

theorem localTake_of_bad {u : State} (h : crc32c (mPay m) ≠ fld m 0x28 4) : localTake u p m = deliverMsg (localFailed u p m) p m :=
  if_neg (by simpa using h)

theorem localFailed_spec (u : State) (hbolt : mKind m = 1 ∨ mKind m = 2) :
    (getPort (localFailed u p m) p).tlyLocal = min 65535 ((getPort u p).tlyLocal + 1)
      ∧ (getPort (localFailed u p m) p).undel = ((getPort u p).undel + 1) % 2 ^ 32
      ∧ (localFailed u p m).reeve.inbox = u.reeve.inbox ++ [portEvent u p 0x0114 0xFF 0 0xFFFF 0 0] := by
  have hd := (Discards.refl (sendEvent (modPort u p (fun q => { q with tlyLocal := satAdd 16 q.tlyLocal 1 }))
    (portEvent u p 0x0114 0xFF 0 0xFFFF 0 0))).discardMsg (m := m) (d := (p, 7))
  refine ⟨(tlyLocal_of_bare (hd.bare p)).trans ?_, (undel_discardMsg (d := (p, 7)) hbolt).trans ?_, hd.frame.inbox (by decide)⟩
  · rw [getPort_sendEvent, getPort_modPort_same]
    rfl
  · rw [getPort_sendEvent, getPort_modPort_same]

/-- Why a data message may be refused. -/
theorem localCause_cases (s : State) (m : List Byte) :
    localCause s m = none ∨ localCause s m = some 5 ∨ localCause s m = some 6 ∨ localCause s m = some 8 := by
  unfold localCause
  dsimp only
  split_ifs <;> simp

end

theorem tlyLocal_of_unsent {a b : Port} (h : portUnsent a = portUnsent b) : a.tlyLocal = b.tlyLocal := (congrArg Port.tlyLocal h :)
theorem undel_of_unsent {a b : Port} (h : portUnsent a = portUnsent b) : a.undel = b.undel := (congrArg Port.undel h :)

/-- Lot-abort notices change no more than the ports. -/
theorem abortNotices_discards (s : State) (n stamp : Nat) : Discards s (abortNotices s n stamp) := by
  unfold abortNotices
  exact foldl_rel Discards.refl Discards.trans (fun u _ => (Discards.refl u).spineMove.discardOnly) _ s

/-- The lots of a partition whose named one fails with an undeliverable report (R322). -/
def lotReported (s : State) (lot : Nat) (l : Lot) : Lot :=
  if l.number == lot && l.state != 2 then
    { l with causes := l.causes ++ [(0x0032, s.clk.bell, s.clk.intvCc)], cut := some (l.cut.getD (s.clk.bell + 1)) } else l

/-- A report of a lot that has ended is only taken. -/
theorem exec_undeliverableReport_of_ended {s s1 : State} {p : Nat} {m : List Byte} (hp : p < 32) (hfront : hereFront s p 7 = some (m, s1))
    (hno : (getPart s (logPart (fld m 0xE 2 % 8192))).lots.any (fun l => l.number == fld m 0x18 8 && l.state != 2) = false) :
    exec (.undeliverableReportReceive p) s = .next s1 := by
  change execUndeliverableReportReceive p s = _
  unfold execUndeliverableReportReceive
  rw [if_neg (not_not.mpr (show p < portCount from hp)), hfront]
  dsimp only
  rw [hno, Bool.and_false, if_neg Bool.false_ne_true]

/-- Settles O42: a data message by its cause, its stamp and its tally, and the other messages by their rows. -/
theorem localMessagesArrive : Obligations.LocalMessagesArrive := by
  refine ⟨fun p c m s hp hnext => ⟨fun hcause hdue hcrc hkind => ?stack, fun hcause hdue hcrc hkind => ?tile, fun hcause hearly => ?parked,
      fun hcause hdue hcrc => ?failed, fun hcause => ?late, fun hcause => ?down, localCause_cases s m, fun hcause => ?key⟩,
    fun p s hp h => ?idle, fun p s hp => ?empty, fun p m s s1 hp hfront hno => ?unreported, fun p m s s1 hp hfront hn => ?reported,
    fun p m s s1 hp hfront => ?reeve⟩
  case stack =>
    obtain ⟨hhere, -⟩ := hereTaken_spec (c, m) (getPort s p)
    refine ⟨_, exec_localDelivery_of_due hp hnext hcause hdue, ?_⟩
    rw [localTake_of_good hcrc, deliverMsg, if_pos (by simpa using hkind)]
    refine ⟨rfl, ?_, ?_⟩
    · change (getPort (deliveryTaken s p c m) p).here = _
      rw [deliveryTaken, getPort_modPort_same, hhere]
    · exact (congrArg Stack.remote (getStack_modStack_same (nextStamp (deliveryTaken s p c m)).2
        (boltStack (getPart s (mPart m)).seed.toNat (fld m 0x20 4 % 2 ^ 23)) _) :)
  case tile =>
    refine ⟨?_, by simp [deliveryPackets, upto], fun k hk => ?_⟩
    · rw [exec_localDelivery_of_due hp hnext hcause hdue, localTake_of_good hcrc, deliverMsg, if_neg (by simp [hkind])]
      rfl
    · obtain ⟨i, -, rfl⟩ := List.mem_map.mp hk
      exact ⟨rfl, rfl, rfl, rfl, by simp⟩
  case parked =>
    obtain ⟨hhere, -, -, -, -, -, hpark, hcnt⟩ := hereTaken_spec (c, m) (getPort s p)
    refine ⟨_, exec_localDelivery_of_early hp hnext hcause hearly, portWork_twice s p _ _, ?_⟩
    rw [deliveryTaken, getPort_modPort_same, getPort_modPort_same]
    refine ⟨hhere, ?_, ?_⟩
    · dsimp only
      rw [hpark]
      simp [hereClass]
    · dsimp only
      rw [hcnt]
  case failed =>
    obtain ⟨-, hundel, -, -, -, htly, -⟩ := hereTaken_spec (c, m) (getPort s p)
    obtain ⟨htly1, hundel1, hinbox⟩ := localFailed_spec (p := p) (deliveryTaken s p c m) (kind_of_hereNext hnext)
    have hin := MovesIn.deliverMsg (localFailed (deliveryTaken s p c m) p m) p m
    obtain ⟨es, hes⟩ := hin.events
    refine ⟨_, exec_localDelivery_of_due hp hnext hcause hdue, ?_⟩
    rw [localTake_of_bad hcrc]
    refine ⟨?_, ?_, portEvent (deliveryTaken s p c m) p 0x0114 0xFF 0 0xFFFF 0 0, es, rfl, ?_⟩
    · rw [tlyLocal_of_unsent (hin.port p), htly1, deliveryTaken, getPort_modPort_same, htly]
    · rw [undel_of_unsent (hin.port p), hundel1, deliveryTaken, getPort_modPort_same, hundel]
    · rw [← hes, hinbox, List.append_assoc]
      rfl
  case late =>
    obtain ⟨-, hundel, hlate, -⟩ := hereTaken_spec (c, m) (getPort s p)
    have hframe := ((Discards.refl (deliveryTaken s p c m)).discardMsg (m := m) (d := (p, 8))).frame
    refine ⟨_, exec_localDelivery_of_refused hp hnext hcause, ?_⟩
    rw [if_neg (by decide)]
    refine ⟨?_, (undel_discardMsg (d := (p, 8)) (kind_of_hereNext hnext)).trans ?_, (congrArg State.reeve hframe.eq_overlay :), hframe.tiles (by decide),
      hframe.mems (by decide)⟩
    · rw [late_discardMsg, deliveryTaken, getPort_modPort_same, hlate]
    · rw [deliveryTaken, getPort_modPort_same, hundel]
  case down =>
    obtain ⟨-, hundel, -, -, hdown, -⟩ := hereTaken_spec (c, m) (getPort s p)
    have hframe := ((Discards.refl (deliveryTaken s p c m)).discardMsg (m := m) (d := (p, 5))).frame
    refine ⟨_, exec_localDelivery_of_refused hp hnext hcause, ?_⟩
    rw [if_neg (by decide)]
    refine ⟨?_, (undel_discardMsg (d := (p, 5)) (kind_of_hereNext hnext)).trans ?_, (congrArg State.reeve hframe.eq_overlay :), hframe.tiles (by decide),
      hframe.mems (by decide)⟩
    · refine le_trans (le_of_eq ?_) (dropDown_discardMsg _ _ _)
      rw [deliveryTaken, getPort_modPort_same, hdown]
    · rw [deliveryTaken, getPort_modPort_same, hundel]
  case key =>
    obtain ⟨-, hundel, -, hkey, -⟩ := hereTaken_spec (c, m) (getPort s p)
    have hframe := ((Discards.refl (sendEvent (deliveryTaken s p c m) (portEvent s p 0x0155 0xFF 0 0xFFFF 0 0))).discardMsg (m := m)
      (d := (p, 6))).frame
    refine ⟨_, exec_localDelivery_of_refused hp hnext hcause, ?_⟩
    rw [if_pos (by decide)]
    refine ⟨?_, ⟨_, rfl, hframe.inbox (by decide)⟩, (undel_discardMsg (d := (p, 6)) (kind_of_hereNext hnext)).trans ?_, hframe.tiles (by decide),
      hframe.mems (by decide), hframe.dram (by decide)⟩
    · rw [dropKey_discardMsg, getPort_sendEvent, deliveryTaken, getPort_modPort_same, hkey]
    · rw [getPort_sendEvent, deliveryTaken, getPort_modPort_same, hundel]
  case idle =>
    change execLocalDelivery p s = _
    simp [execLocalDelivery, show p < portCount from hp, h]
  case empty =>
    refine ⟨fun h => ?_, fun h => ?_⟩
    · change execUndeliverableReportReceive p s = _
      simp [execUndeliverableReportReceive, show p < portCount from hp, hereFront, h]
    · change execReeveMessageReceive p s = _
      simp [execReeveMessageReceive, show p < portCount from hp, hereFront, h]
  case unreported =>
    exact exec_undeliverableReport_of_ended hp hfront hno
  case reported =>
    obtain ⟨hframe, hother⟩ := hereFront_frame hfront
    set n := logPart (fld m 0xE 2 % 8192) with hdef
    by_cases hany : (getPart s n).lots.any (fun l => l.number == fld m 0x18 8 && l.state != 2) = true
    · have hrun : exec (.undeliverableReportReceive p) s
          = .next (abortNotices (modPart s1 n (fun q => { q with lots := q.lots.map (lotReported s (fld m 0x18 8)) })) n (mStamp m)) := by
        change execUndeliverableReportReceive p s = _
        unfold execUndeliverableReportReceive
        rw [if_neg (not_not.mpr (show p < portCount from hp)), hfront]
        exact if_pos (by simpa [← hdef, hn] using hany)
      have hd := (abortNotices_discards (modPart s1 n (fun q => { q with lots := q.lots.map (lotReported s (fld m 0x18 8)) })) n (mStamp m)).frame
      refine ⟨_, hrun, ?_, ?_, ?_, fun l hl hnum hst => ?_, fun k hk => ?_⟩
      · exact (hd.tiles (by decide)).trans (hframe.tiles (by decide))
      · exact (hd.mems (by decide)).trans (hframe.mems (by decide))
      · exact (hd.clk (by decide)).trans (hframe.clk (by decide))
      · rw [hd.getPart n (by decide), getPart_modPart_same, hframe.getPart n (by decide)]
        refine ⟨lotReported s (fld m 0x18 8) l, List.mem_map.mpr ⟨l, hl, rfl⟩, ?_⟩
        simp [lotReported, hnum, hst]
      · rw [hd.getPart k (by decide), getPart_modPart_other _ _ _ _ hk, hframe.getPart k (by decide)]
    · have hno : (getPart s n).lots.any (fun l => l.number == fld m 0x18 8 && l.state != 2) = false := by simpa using hany
      have hrun : exec (.undeliverableReportReceive p) s = .next s1 := exec_undeliverableReport_of_ended hp hfront hno
      refine ⟨_, hrun, hframe.tiles (by decide), hframe.mems (by decide), hframe.clk (by decide), fun l hl hnum hst => ?_,
        fun k hk => hframe.getPart k (by decide)⟩
      exact absurd (List.any_eq_true.mpr ⟨l, hl, by simp [hnum, hst]⟩) hany
  case reeve =>
    refine ⟨fun h => ?_, fun h => ?_⟩
    all_goals
      change execReeveMessageReceive p s = _
      simp [execReeveMessageReceive, show p < portCount from hp, hfront, h]

end Sys2Proof.Machine
end

section
/-! SUPPORT. Slices and migrations (R357, R365 to R384). -/

-- One proof after another: threads that wait for each other count against the memory of the check.
set_option Elab.async false

namespace Sys2Proof.Machine

/-! ## A slice's outcome -/

/-- A fold whose every step adds one to a length. -/
theorem foldl_length {α β γ : Type} {π : α → List γ} {g : α → β → α} (h : ∀ s b, (π (g s b)).length = (π s).length + 1) (l : List β) (s : α) :
    (π (l.foldl g s)).length = (π s).length + l.length := by
  induction l generalizing s with
  | nil => rfl
  | cons b l ih =>
    rw [List.foldl_cons, ih, h, List.length_cons]
    omega

/-- A failed column is mapped out, entered in the ledger and, in a module at work, reported. -/
def columnRepaired (p source : Nat) (s : State) (c : Nat) : State :=
  if s.start.ready then
    sendEvent (ledgerAdd (modTile s p (fun t => { t with loom := loomMapAdd t.loom c })) 2 1 source (tileLoc p) c).2
      { tileEvent s p 0x0161 s.clk.intvCc 0 0 [] with
        led := (ledgerAdd (modTile s p (fun t => { t with loom := loomMapAdd t.loom c })) 2 1 source (tileLoc p) c).1 }
  else (ledgerAdd (modTile s p (fun t => { t with loom := loomMapAdd t.loom c })) 2 1 source (tileLoc p) c).2

/-- A failed word is entered in the ledger. -/
def wordRepaired (p source : Nat) (s : State) (w : Nat × Nat) : State := (ledgerAdd s 3 1 source (tileLoc p) (wordDetail w.1 w.2)).2

theorem sliceRepair_eq (s : State) (p : Nat) (f : SliceFound) (source : Nat) :
    sliceRepair s p f source
      = (newWords s p f.words).foldl (wordRepaired p source) ((newCols (getTile s p).loom f.cols).foldl (columnRepaired p source) s) := rfl

/-- A tile without its loom map. -/
def tileUnwoven (t : Tile) : Tile := { t with loom := {} }

theorem ledger_columnRepaired (p source : Nat) (s : State) (c : Nat) :
    (columnRepaired p source s c).start.ledger.length = s.start.ledger.length + 1 := by
  unfold columnRepaired
  split <;> exact List.length_append

theorem ledger_wordRepaired (p source : Nat) (s : State) (w : Nat × Nat) :
    (wordRepaired p source s w).start.ledger.length = s.start.ledger.length + 1 := List.length_append

theorem rows_columnRepaired (p source : Nat) (s : State) (c : Nat) : (columnRepaired p source s c).rows = s.rows := by
  unfold columnRepaired
  split <;> rfl

theorem getTile_columnRepaired (p source : Nat) (s : State) (c q : Nat) :
    getTile (columnRepaired p source s c) q = getTile (modTile s p (fun t => { t with loom := loomMapAdd t.loom c })) q := by
  unfold columnRepaired
  split <;> rfl

theorem getTile_columnRepaired_other {p q : Nat} (h : q ≠ p) (source : Nat) (s : State) (c : Nat) :
    getTile (columnRepaired p source s c) q = getTile s q := by
  rw [getTile_columnRepaired, getTile_modTile_other _ _ _ _ h]

theorem tileUnwoven_columnRepaired (p source : Nat) (s : State) (c : Nat) :
    tileUnwoven (getTile (columnRepaired p source s c) p) = tileUnwoven (getTile s p) := by
  rw [getTile_columnRepaired, getTile_modTile_same]
  rfl

section
variable (s : State) (p source : Nat) (f : SliceFound)

theorem ledger_sliceRepair : (sliceRepair s p f source).start.ledger.length
    = s.start.ledger.length + (newCols (getTile s p).loom f.cols).length + (newWords s p f.words).length := by
  rw [sliceRepair_eq]
  exact (foldl_length (π := fun s : State => s.start.ledger) (ledger_wordRepaired p source) _ _).trans
    (congrArg (· + _) (foldl_length (π := fun s : State => s.start.ledger) (ledger_columnRepaired p source) _ _))

theorem rows_sliceRepair : (sliceRepair s p f source).rows = s.rows := by
  rw [sliceRepair_eq]
  exact (foldl_keeps (π := State.rows) (g := wordRepaired p source) (fun _ _ => rfl) _ _).trans
    (foldl_keeps (π := State.rows) (rows_columnRepaired p source) _ _)

theorem getTile_sliceRepair_other {q : Nat} (h : q ≠ p) : getTile (sliceRepair s p f source) q = getTile s q := by
  rw [sliceRepair_eq]
  exact (foldl_keeps (π := fun s => getTile s q) (g := wordRepaired p source) (fun _ _ => rfl) _ _).trans
    (foldl_keeps (π := fun s => getTile s q) (getTile_columnRepaired_other h source) _ _)

theorem tileUnwoven_sliceRepair : tileUnwoven (getTile (sliceRepair s p f source) p) = tileUnwoven (getTile s p) := by
  rw [sliceRepair_eq]
  exact (foldl_keeps (π := fun s => tileUnwoven (getTile s p)) (g := wordRepaired p source) (fun _ _ => rfl) _ _).trans
    (foldl_keeps (π := fun s => tileUnwoven (getTile s p)) (tileUnwoven_columnRepaired p source) _ _)

end

/-- What a slice fails by: the loom map and the ledger. -/
theorem sliceFails_congr {s t : State} {p : Nat} (hA : (getTile t p).loom.failA = (getTile s p).loom.failA)
    (hB : (getTile t p).loom.failB = (getTile s p).loom.failB) (hstart : t.start = s.start) (f : SliceFound) :
    sliceFails t p f = sliceFails s p f := by
  have hcols : newCols (getTile t p).loom f.cols = newCols (getTile s p).loom f.cols := by rw [newCols, hA, hB, newCols]
  have hwords : ledgerWords t p = ledgerWords s p := by rw [ledgerWords, hstart, ledgerWords]
  have hnew : newWords t p f.words = newWords s p f.words := by rw [newWords, hwords, newWords]
  unfold sliceFails
  dsimp only
  rw [hcols, hwords, hnew, hB]

/-! ## The spare after its slice -/

/-- The spare cleared by phase 5. -/
def spareCleared (s : State) (r : Nat) : State :=
  modTile s (holeTile s r) (fun t => { tileFullReset t s.clk.cycles with hw := { t.hw with role := 1 } })

/-- The row once its slice is done. -/
def rowSliced (q : Row) : Row := { q with stop := .waiting, suspects := q.suspects.filter (fun k => k != q.spare) }

/-- The state that a slice's outcome is decided in. -/
def sliceCleared (s : State) (r : Nat) : State := modRow (spareCleared s r) r rowSliced

theorem exec_haywardSliceComplete {r : Nat} {cols : List Nat} {words : List (Nat × Nat)} {other : Bool} {s : State} (hr : r < 192)
    (hstop : (getRow s r).stop = .slice) :
    exec (.haywardSliceComplete r cols words other) s = .next (withHealth s (sliceOutcome (sliceCleared s r) (holeTile s r)
      { cols := cols, words := words, other := other } 3 (fun s p => failTile s p 1))) := by
  change execHaywardSliceComplete r cols words other s = _
  unfold execHaywardSliceComplete
  rw [if_neg (not_not.mpr (show r < rowCountAll from hr)), if_neg (by simp [hstop])]
  rfl

section
variable (s : State) (r : Nat)

theorem getTile_spareCleared_same : getTile (spareCleared s r) (holeTile s r)
    = { tileFullReset (getTile s (holeTile s r)) s.clk.cycles with hw := { (getTile s (holeTile s r)).hw with role := 1 } } :=
  getTile_modTile_same _ _ _

theorem getTile_spareCleared_other {p : Nat} (h : p ≠ holeTile s r) : getTile (spareCleared s r) p = getTile s p :=
  getTile_modTile_other _ _ _ _ h

theorem sliceFails_sliceCleared (f : SliceFound) : sliceFails (sliceCleared s r) (holeTile s r) f = sliceFails s (holeTile s r) f := by
  have h : getTile (sliceCleared s r) (holeTile s r) = _ := getTile_spareCleared_same s r
  exact sliceFails_congr (s := s) (t := sliceCleared s r) (congrArg (fun t => t.loom.failA) h) (congrArg (fun t => t.loom.failB) h) rfl f

theorem newCols_sliceCleared (cols : List Nat) :
    newCols (getTile (sliceCleared s r) (holeTile s r)).loom cols = newCols (getTile s (holeTile s r)).loom cols := by
  have h : getTile (sliceCleared s r) (holeTile s r) = _ := getTile_spareCleared_same s r
  rw [h]
  rfl

end

theorem store_of_unwoven {a b : Tile} (h : tileUnwoven a = tileUnwoven b) : a.store = b.store := (congrArg Tile.store h :)
theorem hw_of_unwoven {a b : Tile} (h : tileUnwoven a = tileUnwoven b) : a.hw = b.hw := (congrArg Tile.hw h :)

theorem getTile_sliceResult_same (s : State) (p res : Nat) : getTile (sliceResult s p res) p
    = { getTile s p with hw := { (getTile s p).hw with result := res, partialRes := false, ageS := 0 } } := getTile_modTile_same _ _ _

/-! ## A failing spare -/

/-- The role of a tile depends on where its row's spare stands. -/
theorem logOf_congr {s t : State} {p : Nat} (h : (getRow t (physProw p)).spare = (getRow s (physProw p)).spare) : logOf t p = logOf s p := by
  rw [logOf, h, logOf]

theorem logOf_modRow (s : State) (r : Nat) (f : Row → Row) (p : Nat) (hf : ∀ q, (f q).spare = q.spare) : logOf (modRow s r f) p = logOf s p := by
  refine logOf_congr ?_
  by_cases h : physProw p = r
  · rw [h, getRow_modRow_same, hf]
  · rw [getRow_modRow_other _ _ _ _ h]

/-- A row whose stop is over. -/
def rowFreed (q : Row) : Row := { q with stop := .idle, mig := none }

/-- A tile that serves no role goes to the pinfold with its event, and with its ledger entry for a lasting cause. -/
theorem failTile_of_spare {s : State} {p cause : Nat} (hst : (getTile s p).st ≠ .pinfold) (hrole : logOf s p = none)
    (hcause : causePermanent cause = true) :
    failTile s p cause = failLedger (pinfoldTile (modRow s (physProw p) rowFreed) p cause) p
      (if cause == 2 then 4 else 3) (tileFailedEvent (modRow s (physProw p) rowFreed) p 0) := by
  have hdrops : fenceDrops s p = modRow s (physProw p) rowFreed := by
    rw [fenceDrops, hrole]
    rfl
  have hrole' : logOf (modRow s (physProw p) rowFreed) p = none := by
    rw [logOf_modRow _ _ rowFreed _ (fun _ => rfl), hrole]
  simp [failTile, hst, hdrops, hrole', hcause]

/-- A tile in the pinfold. -/
def tileFenced (cause : Nat) (t : Tile) : Tile :=
  { t with
    st := .pinfold
    fired := []
    store := { t.store with fin := [] }
    dma := { t.dma with fout := [] }
    clerk := { t.clerk with run := .stopped }
    hw := { t.hw with role := 4, cause := cause }
    router := { t.router with key := 0, prev := 0, inject := [], eject := [] } }

theorem getTile_failLedger (s : State) (p source q : Nat) (e : Event) : getTile (failLedger s p source e) q = getTile s q := rfl

theorem tile_failLedger_pinfold (s : State) (p cause source : Nat) (e : Event) :
    getTile (failLedger (pinfoldTile s p cause) p source e) p = tileFenced cause (getTile s p) :=
  (getTile_failLedger _ _ _ _ _).trans (getTile_modTile_same _ _ _)

/-! ## Moving a role -/

theorem getTile_setTile_other {s : State} {p q : Nat} {t : Tile} (h : q ≠ p) : getTile (setTile s p t) q = getTile s q :=
  kvGet_kvSet_other _ _ _ _ _ h

/-- A tile without what belongs to its place. -/
def tileUnplaced (t : Tile) : Tile := { t with hw := {}, router := {} }

/-- A tile placed by where its row's spare stands. -/
def tilePlaced (s : State) (p : Nat) (t : Tile) : Tile :=
  let fenced := t.st == .pinfold
  let role := if fenced then 4 else if (logOf s p).isSome then 0 else 1
  let t1 := { t with hw := { t.hw with role := role } }
  match logOf s p with
  | some l => { t1 with router := { t1.router with
      row := l / 96, col := l % 96, part := physPart p
      key := if fenced then 0 else (getPart s (physPart p)).key, prev := if fenced then 0 else (getPart s (physPart p)).prevKey } }
  | none => { t1 with router := { t1.router with row := 0x3F, col := 0x7F, part := 0xF, key := 0, prev := 0 } }

theorem placeRow_eq (s : State) (r : Nat) :
    placeRow s r = (upto 0 25).foldl (fun s k => modTile s (rowTile r k) (tilePlaced s (rowTile r k))) s := rfl

theorem tileUnplaced_tilePlaced (s : State) (p : Nat) (t : Tile) : tileUnplaced (tilePlaced s p t) = tileUnplaced t := by
  unfold tilePlaced
  dsimp only
  split <;> rfl

theorem tileUnplaced_placeRow (s : State) (r p : Nat) : tileUnplaced (getTile (placeRow s r) p) = tileUnplaced (getTile s p) := by
  rw [placeRow_eq]
  refine foldl_keeps (π := fun s => tileUnplaced (getTile s p)) (fun s k => ?_) _ _
  by_cases h : p = rowTile r k
  · rw [h, getTile_modTile_same, tileUnplaced_tilePlaced]
  · rw [getTile_modTile_other _ _ _ _ h]

theorem rows_placeRow (s : State) (r : Nat) : (placeRow s r).rows = s.rows := by
  rw [placeRow_eq]
  exact foldl_keeps (π := State.rows) (g := fun s k => modTile s (rowTile r k) (tilePlaced s (rowTile r k))) (fun _ _ => rfl) _ _

theorem carryBad_frame (s : State) (p : Nat) (t : Tile) : Touches [.inbox] s (carryBad s p t) := by
  unfold carryBad
  refine (touches_foldl fun s w => ?_).mpr (Touches.refl _ _)
  split <;> simp

/-- The next source of a row is a neighbour of its spare. -/
theorem nextSource_lt {q : Row} (hspare : q.spare < 25) (hsus : ∀ k ∈ q.suspects, k < 25) : nextSource q < 25 ∧ nextSource q ≠ q.spare := by
  unfold nextSource sweepWest suspectAhead
  cases h : q.suspects with
  | nil =>
    simp only [List.head?_nil, Option.any_none, Bool.false_eq_true, if_false]
    split_ifs with hw
    · simp at hw
      omega
    · simp at hw
      omega
  | cons k l =>
    have hk := hsus k (by simp [h])
    simp only [List.head?_cons, Option.any_some]
    by_cases hks : k = q.spare
    · simp only [hks, bne_self_eq_false, Bool.false_eq_true, if_false]
      split_ifs with hw
      · simp at hw
        omega
      · simp at hw
        omega
    · simp only [bne_iff_ne.mpr hks, if_true]
      split_ifs with hw
      · simp at hw
        omega
      · simp at hw
        omega

section
variable (s : State) (r k : Nat)

/-- What a source leaves where its role moves away. -/
def sourceLeft (t : Tile) (now : Nat) : Tile :=
  { tileReset { t with st := .idle } now with store := { scrubIntv := t.store.scrubIntv }, router := routerKeep {} t.router }

/-- The row whose role at local position k has moved. -/
def rowMoved (k : Nat) (q : Row) : Row :=
  { q with
    spare := k, west := if k == 0 then false else if k == 24 then true else decide (k < q.spare)
    stop := .idle, mig := none, abandons := 0, stalled := false, retryAt := 0 }

/-- A role moved, before its uncorrectable words are reported. -/
def roleMoved : State :=
  placeRow (modRow (setTile (setTile s (holeTile s r)
      { roleOn (getTile s (rowTile r k)) (getTile s (holeTile s r)) s.clk.cycles with joins := true }) (rowTile r k)
    (sourceLeft (getTile s (rowTile r k)) s.clk.cycles)) r (rowMoved k)) r

theorem moveRoleFrom_eq : moveRoleFrom s r k
    = if (getRow s r).spare == k then roleMoved s r k else carryBad (roleMoved s r k) (holeTile s r) (getTile s (rowTile r k)) := rfl

theorem moveRoleFrom_frame : Touches [.inbox] (roleMoved s r k) (moveRoleFrom s r k) := by
  rw [moveRoleFrom_eq]
  split
  · exact Touches.refl _ _
  · exact carryBad_frame _ _ _

theorem getRow_moveRoleFrom : getRow (moveRoleFrom s r k) r = rowMoved k (getRow s r) := by
  rw [(moveRoleFrom_frame s r k).getRow r (by decide), getRow, roleMoved, rows_placeRow]
  exact getRow_modRow_same _ _ _

theorem tileUnplaced_moveRoleFrom_source :
    tileUnplaced (getTile (moveRoleFrom s r k) (rowTile r k)) = tileUnplaced (sourceLeft (getTile s (rowTile r k)) s.clk.cycles) := by
  rw [(moveRoleFrom_frame s r k).getTile _ (by decide), roleMoved, tileUnplaced_placeRow]
  exact congrArg tileUnplaced (getTile_setTile_same _ _ _)

theorem tileUnplaced_moveRoleFrom_hole (h : holeTile s r ≠ rowTile r k) :
    tileUnplaced (getTile (moveRoleFrom s r k) (holeTile s r))
      = tileUnplaced { roleOn (getTile s (rowTile r k)) (getTile s (holeTile s r)) s.clk.cycles with joins := true } := by
  rw [(moveRoleFrom_frame s r k).getTile _ (by decide), roleMoved, tileUnplaced_placeRow]
  refine congrArg tileUnplaced ((getTile_setTile_other h).trans (getTile_setTile_same _ _ _))

end

theorem rowTile_mod {r k : Nat} (h : k < 25) : rowTile r k % 100 % 25 = k ∧ physProw (rowTile r k) = r := by
  unfold rowTile physProw
  omega

/-- The spare of a row serves no role. -/
theorem logOf_holeTile {s : State} {r : Nat} (h : (getRow s r).spare < 25) : logOf s (holeTile s r) = none := by
  obtain ⟨hk, hr⟩ := rowTile_mod (r := r) h
  rw [logOf, holeTile, hr, hk]
  simp

/-- Hayward is off for want of a verified pattern set, but in Raw (R383, R384). -/
theorem hwOff_of_unverified {s : State} (hset : s.start.patSetOk = false) (hraw : s.start.lifeCycle ≠ .raw) : hwOff s = true := by
  unfold hwOff setRuns
  cases hlife : s.start.lifeCycle with
  | raw => exact absurd hlife hraw
  | service => cases hengine : s.jtag.engine <;> simp [hset]
  | provisioned => simp [hset]
  | deployed => simp [hset]
  | scrapped => simp

/-- A spare in its slice. -/
def spareInSlice (t : Tile) : Tile := { t with hw := { t.hw with role := 2 } }

/-- A row whose slice begins. -/
def rowInSlice (s : State) (q : Row) : Row := { q with stop := .slice, stopCyc := s.clk.cycles + 1, dwell := s.hst.dwell }

/-- A slice begins on a row's spare. -/
def sliceStarted (s : State) (r : Nat) : State :=
  modRow (modTile (sliceEcc s (holeTile s r)) (holeTile s r) spareInSlice) r (rowInSlice s)

theorem getTile_sliceStarted (s : State) (r p : Nat) :
    getTile (sliceStarted s r) p = getTile (modTile (sliceEcc s (holeTile s r)) (holeTile s r) spareInSlice) p :=
  getTile_modRow _ _ _ _

theorem reeve_modRow_modTile (u : State) (r p : Nat) (f : Row → Row) (g : Tile → Tile) : (modRow (modTile u p g) r f).reeve = u.reeve := rfl

theorem reeve_sliceStarted (s : State) (r : Nat) : (sliceStarted s r).reeve = (sliceEcc s (holeTile s r)).reeve := reeve_modRow_modTile _ _ _ _ _

theorem exec_haywardSliceStart {r : Nat} {s : State} (hr : r < 192) :
    exec (.haywardSliceStart r) s
      = .next (if (s.start.ready || s.start.lifeCycle == .raw) && s.clk.intvCc == 0 && (getRow s r).stop == .idle && stopOver s (getRow s r)
          && !(noSpare s r) && !(rotationPaused s (rowPart r)) then
        if suspectAhead (getRow s r) then modRow s r (fun q => { q with stop := .waiting }) else sliceStarted s r
      else s) := by
  change execHaywardSliceStart r s = _
  unfold execHaywardSliceStart
  rw [if_neg (not_not.mpr (show r < rowCountAll from hr))]
  dsimp only
  split
  · split <;> rfl
  · rfl

/-- A tile whose corrected words have been read. -/
def eccRead (t : Tile) : Tile := { t with hw := { t.hw with eccSeen := t.router.corr } }

section
variable {s : State} {p n : Nat}

/-- More than 16 words corrected since the last slice are reported, and no fewer (R377). -/
theorem sliceEcc_of_words (hn : ((getTile s p).router.corr + 2 ^ 32 - (getTile s p).hw.eccSeen) % 2 ^ 32 = n) :
    sliceEcc s p = if 16 < n then sendEvent (modTile s p eccRead) (tileEvent s p evInputEcc s.clk.intvCc 0 0 (toLe 4 n)) else modTile s p eccRead := by
  simp only [sliceEcc, hn]
  rfl

theorem sliceEcc_frame : Touches [.tiles, .inbox] s (sliceEcc s p) := by
  rw [sliceEcc_of_words rfl]
  split <;> simp

theorem getTile_sliceEcc (q : Nat) : getTile (sliceEcc s p) q = getTile (modTile s p eccRead) q := by
  rw [sliceEcc_of_words rfl]
  split <;> rfl

theorem inbox_sliceEcc (hn : ((getTile s p).router.corr + 2 ^ 32 - (getTile s p).hw.eccSeen) % 2 ^ 32 = n) (h : 16 < n) :
    ∃ e, e.code = evInputEcc ∧ (sliceEcc s p).reeve.inbox = s.reeve.inbox ++ [e] := by
  rw [sliceEcc_of_words hn, if_pos h]
  exact ⟨_, rfl, rfl⟩

theorem reeve_sliceEcc (hn : ((getTile s p).router.corr + 2 ^ 32 - (getTile s p).hw.eccSeen) % 2 ^ 32 = n) (h : n ≤ 16) :
    (sliceEcc s p).reeve = s.reeve := by
  rw [sliceEcc_of_words hn, if_neg (Nat.not_lt.mpr h)]
  rfl

end

/-- A spare that a migration no longer copies to. -/
def spareIdle (t : Tile) : Tile := { t with hw := { t.hw with role := 1 } }

/-- A row whose migration is abandoned at a bell. -/
def rowAbandoned (bell : Nat) (q : Row) : Row :=
  { q with
    mig := none, stop := .waiting, abandons := q.abandons + 1, stalls := q.stalls + 1
    stalled := q.stalled || 3 ≤ q.abandons + 1, retryAt := bell + 1024 }

theorem exec_migrationAbandon {r : Nat} {m : Mig} {s : State} (hr : r < 192) (hmig : (getRow s r).mig = some m) :
    exec (.migrationAbandon r) s = if !(m.first.any (fun b => b + 48 ≤ s.clk.bell)) then .next s
      else .next (withHealth s (modRow (modTile s (holeTile s r) spareIdle) r (rowAbandoned s.clk.bell))) := by
  change execMigrationAbandon r s = _
  unfold execMigrationAbandon
  rw [if_neg (not_not.mpr (show r < rowCountAll from hr)), hmig]
  rfl

/-- A row that migrates again. -/
def rowRetried (r : Nat) (q : Row) : Row := { q with stop := .migrating, retryAt := 0, mig := some { src := rowTile r (nextSource q) } }

theorem exec_migrationRetry {r : Nat} {s : State} (hr : r < 192) :
    exec (.migrationRetry r) s
      = .next (if (getRow s r).stop == .waiting && (getRow s r).mig.isNone && (getRow s r).retryAt != 0 && (getRow s r).retryAt ≤ s.clk.bell
          && migPossible s r && !(rotationPaused s (rowPart r)) then
        modTile (modRow s r (rowRetried r)) (holeTile s r) (fun d => { d with hw := { d.hw with role := 3 } })
      else s) := by
  change execMigrationRetry r s = _
  unfold execMigrationRetry
  rw [if_neg (not_not.mpr (show r < rowCountAll from hr))]
  dsimp only
  split <;> rfl

theorem eq_of_touches_slice {s t : State} (h : Touches [.tiles, .rows, .inbox] s t) :
    t = { s with tiles := t.tiles, rows := t.rows, reeve := { s.reeve with inbox := t.reeve.inbox } } := by
  exact h.eq_overlay

/-- Settles O43: slices by `sliceOutcome`, migrations by `moveRoleFrom`, and the other rows by what they change of theirs. -/
theorem slicesAndMigrations : Obligations.SlicesAndMigrations := by
  refine ⟨⟨fun r s hr hwork hcc hidle hover hspare hpause => ?started, fun r s hr h => ?unstarted,
      fun r cols words s hr hstop hfails => ?passed, fun r cols words s hr hstop hst hrole => ?failed, fun r s h => logOf_holeTile h,
      fun r s hr hstop => ?abandoned, fun r cols words other s hr hstop => ?none⟩,
    fun r s hr hpend hposs hsrc hheld => ?moves, fun r s hr h => ?stays, fun r s hspare hsus => ?moved,
    fun r b m s hr hmig hfirst hlate => ?given, fun r s hr h => ?kept, fun r s hr hstop hmig hat hdue hposs hpause => ?again,
    fun r s hr h => ?later, fun ok s => rfl, fun s n hset hraw => ?off⟩
  case started =>
    have hif : ((s.start.ready || s.start.lifeCycle == .raw) && s.clk.intvCc == 0 && (getRow s r).stop == .idle && stopOver s (getRow s r)
        && !(noSpare s r) && !(rotationPaused s (rowPart r))) = true := by simpa [hcc, hidle, hover, hspare, hpause] using hwork
    refine ⟨fun hahead => ?_, fun hahead => ?_⟩
    · have hframe := sliceEcc_frame (s := s) (p := holeTile s r)
      have hfr : Touches [.tiles, .rows, .inbox] s (sliceStarted s r) := by
        unfold sliceStarted
        simpa using hframe.mono (by simp)
      refine ⟨sliceStarted s r, ?_, eq_of_touches_slice hfr, ?_, ?_, ?_, fun q hq => ?_, fun p hp => ?_, ?_⟩
      · rw [exec_haywardSliceStart hr, if_pos hif, hahead, if_neg Bool.false_ne_true]
      · rw [reeve_sliceStarted]
        exact inbox_sliceEcc rfl
      · rw [reeve_sliceStarted]
        exact reeve_sliceEcc rfl
      · rw [sliceStarted, getRow_modRow_same, getRow_modTile, hframe.getRow r (by decide)]
        rfl
      · rw [sliceStarted, getRow_modRow_other _ _ _ _ hq, getRow_modTile, hframe.getRow q (by decide)]
      · rw [getTile_sliceStarted, getTile_modTile_other _ _ _ _ hp, getTile_sliceEcc, getTile_modTile_other _ _ _ _ hp]
      · rw [getTile_sliceStarted, getTile_modTile_same, getTile_sliceEcc, getTile_modTile_same]
        rfl
    · refine ⟨modRow s r (fun q => { q with stop := .waiting }), ?_, rfl, getRow_modRow_same _ _ _, fun q hq => getRow_modRow_other _ _ _ _ hq⟩
      rw [exec_haywardSliceStart hr, if_pos hif, if_pos hahead]
  case unstarted =>
    rw [exec_haywardSliceStart hr, if_neg]
    simp only [Bool.and_eq_true, Bool.or_eq_true, beq_iff_eq, Bool.not_eq_true']
    rintro ⟨⟨⟨⟨⟨hwork, hcc⟩, hidle⟩, hover⟩, hspare⟩, hpause⟩
    simp [hcc, hidle, hover, hspare, hpause] at h
    rcases hwork with hwork | hwork <;> simp [hwork] at h
  case passed =>
    have hout : sliceOutcome (sliceCleared s r) (holeTile s r) { cols := cols, words := words, other := false } 3 (fun s p => failTile s p 1)
        = sliceResult (sliceRepair (sliceCleared s r) (holeTile s r) { cols := cols, words := words, other := false } 3) (holeTile s r)
            (if cols.isEmpty && words.isEmpty then 1 else 2) := by
      rw [sliceOutcome, sliceFails_sliceCleared, hfails, if_neg Bool.false_ne_true]
    have hun := tileUnwoven_sliceRepair (sliceCleared s r) (holeTile s r) 3 { cols := cols, words := words, other := false }
    have htile : getTile (sliceCleared s r) (holeTile s r) = _ := getTile_spareCleared_same s r
    refine ⟨_, by rw [exec_haywardSliceComplete hr hstop, hout], ?_, ?_, ?_, ?_, ?_, fun p hp => ?_⟩
    · refine (congrArg (fun m => kvGet {} m r) (rows_sliceRepair (sliceCleared s r) (holeTile s r) 3 _)).trans ?_
      exact getRow_modRow_same (spareCleared s r) r rowSliced
    · rw [getTile_sliceResult_same]
      exact (congrArg Store.mem (store_of_unwoven hun)).trans (congrArg (fun t => t.store.mem) htile)
    · rw [getTile_sliceResult_same]
    · rw [getTile_sliceResult_same]
      exact (congrArg HwSt.role (hw_of_unwoven hun)).trans (congrArg (fun t => t.hw.role) htile)
    · refine (ledger_sliceRepair (sliceCleared s r) (holeTile s r) 3 _).trans ?_
      rw [newCols_sliceCleared]
      rfl
    · rw [sliceResult, getTile_modTile_other _ _ _ _ hp, getTile_sliceRepair_other _ _ _ _ hp]
      exact getTile_spareCleared_other s r hp
  case failed =>
    have hfails : sliceFails (sliceCleared s r) (holeTile s r) { cols := cols, words := words, other := true } = true := by simp [sliceFails]
    set p := holeTile s r with hp
    have htile : getTile (sliceCleared s r) p = _ := getTile_spareCleared_same s r
    have hrole' : logOf (sliceResult (sliceCleared s r) p 3) p = none := (logOf_modRow (spareCleared s r) r rowSliced p (fun _ => rfl)).trans hrole
    have hst' : (getTile (sliceResult (sliceCleared s r) p 3) p).st ≠ .pinfold := by
      rw [getTile_sliceResult_same, htile, ← hp]
      simp [tileFullReset, tileReset, hst]
    refine ⟨_, by rw [exec_haywardSliceComplete hr hstop, sliceOutcome, if_pos hfails, failTile_of_spare hst' hrole' rfl], ?_⟩
    have hfenced := tile_failLedger_pinfold (modRow (sliceResult (sliceCleared s r) p 3) (physProw p) rowFreed) p 1 3
      (tileFailedEvent (modRow (sliceResult (sliceCleared s r) p 3) (physProw p) rowFreed) p 0)
    refine ⟨by rw [if_neg (by decide), hfenced]; rfl, ?_, by rw [if_neg (by decide), hfenced]; rfl, ?_⟩
    · rw [if_neg (by decide), hfenced]
      exact congrArg (fun t => t.hw.result) (getTile_sliceResult_same (sliceCleared s r) p 3)
    · exact ledger_ledgerAdd _ _ _ _ _ _
  case abandoned =>
    have hrun : exec (.sliceAbandon r) s = .next (modRow (spareCleared s r) r (fun q => { q with stop := .idle })) := by
      change execSliceAbandon r s = _
      unfold execSliceAbandon
      rw [if_neg (not_not.mpr (show r < rowCountAll from hr)), if_neg (by simp [hstop])]
      rfl
    refine ⟨_, hrun, rfl, getRow_modRow_same (spareCleared s r) r _, fun p hp => getTile_spareCleared_other s r hp, ?_, ?_⟩
    · exact congrArg (fun t => t.store.mem) (getTile_spareCleared_same s r)
    · exact congrArg Tile.hw (getTile_spareCleared_same s r)
  case none =>
    refine ⟨?_, ?_⟩
    · change execHaywardSliceComplete r cols words other s = _
      rw [execHaywardSliceComplete, if_neg (not_not.mpr (show r < rowCountAll from hr)), if_pos (by simpa using hstop)]
    · change execSliceAbandon r s = _
      rw [execSliceAbandon, if_neg (not_not.mpr (show r < rowCountAll from hr)), if_pos (by simpa using hstop)]
  case moves =>
    change execMigrationStraightThrough r s = _
    unfold execMigrationStraightThrough
    rw [if_neg (not_not.mpr (show r < rowCountAll from hr))]
    dsimp only
    rw [if_pos]
    simp only [Bool.and_eq_true, Bool.or_eq_true, beq_iff_eq, Bool.not_eq_true']
    exact ⟨⟨⟨hpend, hposs⟩, hsrc⟩, hheld⟩
  case stays =>
    change execMigrationStraightThrough r s = _
    unfold execMigrationStraightThrough
    rw [if_neg (not_not.mpr (show r < rowCountAll from hr))]
    dsimp only
    rw [if_neg]
    simp only [Bool.and_eq_true, Bool.or_eq_true, beq_iff_eq, Bool.not_eq_true']
    rintro ⟨⟨⟨hpend, hposs⟩, hsrc⟩, hheld⟩
    obtain h | h | ⟨hst, hwin⟩ | ⟨hstop, hrot⟩ := h
    · simp [hpend] at h
    · simp [hposs] at h
    · obtain hsrc | ⟨hw, hg⟩ := hsrc
      · exact hst hsrc
      · simp [hw, hg] at hwin
    · obtain hheld | hheld := hheld
      · exact hstop hheld
      · simp [hheld] at hrot
  case moved =>
    obtain ⟨hlt, hne⟩ := nextSource_lt hspare hsus
    have hdist : holeTile s r ≠ rowTile r (nextSource (getRow s r)) := by
      unfold holeTile rowTile
      omega
    have hrow := getRow_moveRoleFrom s r (nextSource (getRow s r))
    have hsrc := tileUnplaced_moveRoleFrom_source s r (nextSource (getRow s r))
    have hhole := tileUnplaced_moveRoleFrom_hole s r (nextSource (getRow s r)) hdist
    exact ⟨(congrArg Row.spare hrow :), (congrArg Row.stop hrow :), (congrArg Row.mig hrow :), (congrArg Row.abandons hrow :),
      (congrArg (fun t => t.store.mem) hhole :), (congrArg Tile.st hhole :), (congrArg Tile.joins hhole :), (congrArg Tile.seq hhole :),
      (congrArg (fun t => t.clerk.x) hhole :), (congrArg (fun t => t.loom.failA) hhole :), (congrArg (fun t => t.store.mem) hsrc :),
      (congrArg Tile.st hsrc :), hlt, hne⟩
  case given =>
    refine ⟨_, (exec_migrationAbandon hr hmig).trans (if_neg (by simp [hfirst, hlate])), rfl, getRow_modRow_same (modTile s (holeTile s r) spareIdle) r _⟩
  case kept =>
    cases hmig : (getRow s r).mig with
    | none =>
      change execMigrationAbandon r s = _
      rw [execMigrationAbandon, if_neg (not_not.mpr (show r < rowCountAll from hr)), hmig]
    | some m =>
      refine (exec_migrationAbandon hr hmig).trans (if_pos ?_)
      cases hfirst : m.first with
      | none => rfl
      | some b => simpa using h m b hmig hfirst
  case again =>
    refine ⟨_, (exec_migrationRetry hr).trans (congrArg _ (if_pos (by simp [hstop, hmig, hat, hdue, hposs, hpause]))), rfl, ?_⟩
    have hrow : getRow (modTile (modRow s r (rowRetried r)) (holeTile s r) (fun d => { d with hw := { d.hw with role := 3 } })) r
        = rowRetried r (getRow s r) := getRow_modRow_same _ _ _
    rw [hrow, getTile_modTile_same]
    exact ⟨rfl, rfl, rfl, _, rfl, rfl, rfl⟩
  case later =>
    rw [exec_migrationRetry hr, if_neg]
    simp only [Bool.and_eq_true, beq_iff_eq, bne_iff_ne, decide_eq_true_eq, Bool.not_eq_true', Option.isNone_iff_eq_none]
    rintro ⟨⟨⟨⟨⟨hstop, hmig⟩, hat⟩, hdue⟩, hposs⟩, hpause⟩
    simp [hstop, hmig, hat, hposs, hpause] at h
    omega
  case off =>
    rw [rotationPaused, rotationHeld, hwOff_of_unverified hset hraw]
    rfl

end Sys2Proof.Machine
end

section
/-! SUPPORT. Failure events, the ends of lots, and their completion entries (R359 to R363, R387, R400, R430, R431). -/

-- One proof after another: threads that wait for each other count against the memory of the check.
set_option Elab.async false

namespace Sys2Proof.Machine

section
variable {F : List Fld} {s t : State}

/-! ## Footprints -/

/-- What of the Reeve has no field of its own. -/
theorem touches_modReeve_rest {f : Reeve → Reeve}
    (hf : ∀ r, (f r).pages = r.pages ∧ (f r).inbox = r.inbox ∧ (f r).ops = r.ops ∧ (f r).changes = r.changes) (hF : .reeve ∈ F) :
    Touches F s (modReeve t f) ↔ Touches F s t := by
  obtain ⟨hpages, hinbox, hops, hchanges⟩ := hf t.reeve
  refine touches_of_one (fun x hx => ?_) hF
  cases x
  case reeve => exact absurd rfl hx
  case pages => exact hpages
  case inbox => exact hinbox
  case ops => exact hops
  case changes => exact hchanges
  all_goals rfl

@[simp] theorem touches_sideQueue {r : List Byte} (hF : .side ∈ F) : Touches F s (sideQueue t r) ↔ Touches F s t := by simp [sideQueue, hF]

@[simp] theorem touches_recLots {e : Event} {id : Nat} (hF : .parts ∈ F) : Touches F s (recLots t e id) ↔ Touches F s t :=
  Touches.iff_of (G := [.parts]) (by simp [recLots]) (by simpa using hF)

@[simp] theorem touches_traceWatch {n : Nat} {test : List Byte → Bool} (hF : .parts ∈ F) : Touches F s (traceWatch t n test) ↔ Touches F s t :=
  Touches.iff_of (G := [.parts]) (by simp [traceWatch, onTrace, modTrace]) (by simpa using hF)

theorem placeRow_frame (s : State) (r : Nat) : Touches [.tiles] s (placeRow s r) := by
  rw [placeRow_eq]
  exact (touches_foldl_modTile (F := [.tiles]) (by simp)).mpr (Touches.refl _ _)

@[simp] theorem touches_placeRow {r : Nat} (hF : .tiles ∈ F) : Touches F s (placeRow t r) ↔ Touches F s t :=
  Touches.iff_of (placeRow_frame t r) (by simpa using hF)

@[simp] theorem touches_pinfoldTile {p cause : Nat} (hF : [.tiles, .rows] ⊆ F) : Touches F s (pinfoldTile t p cause) ↔ Touches F s t :=
  Touches.iff_of (by simp [pinfoldTile]) hF

@[simp] theorem touches_failLedger {p source : Nat} {e : Event} (hF : [.start, .inbox] ⊆ F) :
    Touches F s (failLedger t p source e) ↔ Touches F s t := by
  refine Touches.iff_of (G := [.start, .inbox]) ?_ hF
  unfold failLedger
  split
  next h =>
    have := congrArg Prod.snd h
    subst this
    simp

@[simp] theorem touches_noCoverRow {p : Nat} (hF : [.parts, .inbox] ⊆ F) : Touches F s (noCoverRow t p) ↔ Touches F s t :=
  Touches.iff_of (by simp [noCoverRow]) hF

@[simp] theorem touches_substitute {p : Nat} (hF : [.ops, .pages, .due, .parts, .inbox, .tiles, .rows] ⊆ F) :
    Touches F s (substitute t p) ↔ Touches F s t :=
  Touches.iff_of (by simp [substitute]) hF

@[simp] theorem touches_fenceDrops {p : Nat} (hF : [.ops, .pages, .due, .parts, .inbox, .rows] ⊆ F) :
    Touches F s (fenceDrops t p) ↔ Touches F s t :=
  Touches.iff_of (by simp [fenceDrops]) hF

@[simp] theorem touches_failTile {p cause : Nat} (hF : [.ops, .pages, .due, .parts, .inbox, .tiles, .rows, .start] ⊆ F) :
    Touches F s (failTile t p cause) ↔ Touches F s t :=
  Touches.iff_of (by simp [failTile]) hF

end

/-! ## A pinfolded tile stays so -/

/-- A tile that stands in the pinfold is left there. -/
def PinKept (p : Nat) (s t : State) : Prop := (getTile s p).st = .pinfold → (getTile t p).st = .pinfold

namespace PinKept

variable {p : Nat} {s t u : State}

theorem refl (s : State) : PinKept p s s := id

theorem trans (h1 : PinKept p s t) (h2 : PinKept p t u) : PinKept p s u := h2 ∘ h1

theorem of_touches {F : List Fld} (h : PinKept p s t) (ht : Touches F t u) (hF : .tiles ∉ F := by decide) : PinKept p s u := by
  rw [PinKept, ht.getTile p hF]
  exact h

theorem modTile (h : PinKept p s t) {q : Nat} {f : Tile → Tile} (hf : ∀ x, x.st = .pinfold → (f x).st = .pinfold := by intro x hx; exact hx) :
    PinKept p s (modTile t q f) := by
  intro hs
  by_cases hq : p = q
  · subst hq
    rw [getTile_modTile_same]
    exact hf _ (h hs)
  · rw [getTile_modTile_other _ _ _ _ hq]
    exact h hs

theorem placeRow (h : PinKept p s t) {r : Nat} : PinKept p s (placeRow t r) := fun hs =>
  (congrArg Tile.st (tileUnplaced_placeRow t r p) :).trans (h hs)

theorem modRow (h : PinKept p s t) {r : Nat} {f : Row → Row} : PinKept p s (modRow t r f) := h

theorem modPart (h : PinKept p s t) {n : Nat} {f : Part → Part} : PinKept p s (modPart t n f) := h

theorem sendEvent (h : PinKept p s t) {e : Event} : PinKept p s (sendEvent t e) := h

theorem endLots (h : PinKept p s t) {n code : Nat} : PinKept p s (endLots t n code) := h

theorem spareFreed (h : PinKept p s t) {q now : Nat} :
    PinKept p s (Machine.modTile t q (fun t => { tileFullReset t now with hw := { t.hw with role := 1 } })) :=
  h.modTile fun x hx => show (if x.st == .pinfold then TileSt.pinfold else .idle) = .pinfold by simp [hx]

theorem rowAbandon (h : PinKept p s t) {r : Nat} : PinKept p s (rowAbandon t r) := by
  unfold Machine.rowAbandon
  exact iteInduction (fun _ => h.spareFreed.modRow) fun _ => h

theorem foldl {β : Type} (h : PinKept p s t) {g : State → β → State} (hg : ∀ u b, PinKept p u (g u b)) {l : List β} :
    PinKept p s (l.foldl g t) := h.trans (foldl_rel refl trans hg l t)

theorem beginReset (h : PinKept p s t) {n lvl code : Nat} : PinKept p s (beginReset t n lvl code) := by
  unfold Machine.beginReset
  refine iteInduction (fun _ => h) fun _ => ?_
  refine endLots (modPart ?_)
  have hstop : PinKept p s ((ctxTiles ((partRows n).foldl (fun s r =>
        if 3 ≤ lvl || (getRow s r).stop == .migrating then Machine.rowAbandon s r else s)
        (assayDrop (opsCancel t (if 3 ≤ lvl then [2, 3, 4] else [2, 4]) (2 ^ n)) n)) n).foldl
      (fun s p => Machine.modTile s p (fun t => { t with stop := some (t.stop.getD .schedule) }))
      ((partRows n).foldl (fun s r => if 3 ≤ lvl || (getRow s r).stop == .migrating then Machine.rowAbandon s r else s)
        (assayDrop (opsCancel t (if 3 ≤ lvl then [2, 3, 4] else [2, 4]) (2 ^ n)) n))) :=
    foldl (foldl (h.of_touches (F := [.ops, .pages, .due, .parts, .inbox]) (by simp))
      fun u r => iteInduction (fun _ => (refl u).rowAbandon) fun _ => refl u) fun u q => (refl u).modTile
  exact iteInduction (fun _ => hstop.sendEvent) fun _ => hstop

theorem substitute (h : PinKept p s t) {q : Nat} : PinKept p s (substitute t q) := by
  unfold Machine.substitute
  exact beginReset (placeRow (modRow (rowAbandon (endLots h))))

theorem noCoverRow (h : PinKept p s t) {q : Nat} : PinKept p s (noCoverRow t q) := h

theorem failLedger (h : PinKept p s t) {q source : Nat} {e : Event} : PinKept p s (failLedger t q source e) := h

end PinKept

/-- A tile that the Reeve finds failed stands in the pinfold. -/
theorem st_failTile (s : State) (p cause : Nat) : (getTile (failTile s p cause) p).st = .pinfold := by
  by_cases hst : (getTile s p).st = .pinfold
  · rw [failTile, if_pos (by simpa using hst)]
    exact hst
  · unfold failTile
    rw [if_neg (by simpa using hst)]
    dsimp only
    have hpin : (getTile (pinfoldTile (fenceDrops s p) p cause) p).st = .pinfold := by rw [pinfoldTile, getTile_modTile_same]
    refine (?_ : PinKept p (pinfoldTile (fenceDrops s p) p cause) _) hpin
    have hsent : ∀ (c : Bool) (a b : Event) (source : Nat), PinKept p (pinfoldTile (fenceDrops s p) p cause)
        (if c then failLedger (pinfoldTile (fenceDrops s p) p cause) p source a else sendEvent (pinfoldTile (fenceDrops s p) p cause) b) :=
      fun c a b source => iteInduction (fun _ => (PinKept.refl _).failLedger) fun _ => (PinKept.refl _).sendEvent
    refine iteInduction (motive := PinKept p _) (fun _ => hsent _ _ _ _) fun _ => ?_
    exact iteInduction (motive := PinKept p _) (fun _ => (hsent _ _ _ _).substitute) fun _ => (hsent _ _ _ _).rowAbandon.noCoverRow

/-! ## An event taken -/

/-- The event has its record, where it emits one, and the trace units have seen it. -/
def eventRecorded (s : State) (e : Event) (rest : List Event) : State :=
  let s1 := modReeve s (fun r => { r with inbox := rest })
  let s2 := if recEmits e.code then recLots (recEmit s1 e e.led).2 e (recEmit s1 e e.led).1 else s1
  if 12 ≤ e.part then s2 else traceWatch s2 e.part (fun t => trigCond t == 5 && trigValue t == e.code)

theorem exec_failureEvent {s : State} {e : Event} {rest : List Event} (h : s.reeve.inbox = e :: rest) :
    exec .failureEvent s
      = .next (withHealth s (if s.pins.thermLatched then eventRecorded s e rest else weighEvent (eventRecorded s e rest) e)) := by
  change execFailureEvent s = _
  rw [execFailureEvent, h]
  rfl

/-- An event that is no tile's, or that is remembered for nothing, changes nothing more. -/
theorem weighEvent_of_light {s : State} {e : Event} (h : e.unit / 2 ^ 28 ≠ 1 ∨ (eventMemo e = none ∧ e.payKind ≠ 7)) : weighEvent s e = s := by
  unfold weighEvent
  obtain h | ⟨hmemo, hkind⟩ := h
  · rw [if_pos (by simpa using h)]
  · split
    · rfl
    · simp [hmemo, hkind]

section
variable (s : State) (e : Event) (rest : List Event)

/-- The event leaves the queue. -/
def eventTaken : State := modReeve s (fun r => { r with inbox := rest })

/-- A record of the interval stands for the event too. -/
def recRepeated (id : Nat) (q : Reeve) : Reeve :=
  { q with
    recs := q.recs.map (fun k => if k.1 == id then (k.1, recAgain s e k.2) else k)
    fatal := q.fatal.map (fun k => if k.1 == id then (k.1, recAgain s e k.2) else k) }

variable {s e}

theorem recEmit_of_old {r : Nat × List Byte} (h : s.reeve.recs.find? (fun r => recSame e r.2) = some r) (led : Nat) :
    recEmit s e led = (r.1, modReeve s (recRepeated s e r.1)) := by
  rw [recEmit, h]
  rfl

theorem mem_lastN_append {α : Type} {n : Nat} (hn : 0 < n) (l : List α) (a : α) : a ∈ lastN n (l ++ [a]) := by
  have hlen : (l ++ [a]).length - n ≤ l.length := by simp; omega
  rw [lastN, List.drop_append_of_le_length hlen]
  simp

/-- The first event of an interval has the next record, which is held. -/
theorem recEmit_of_new (h : s.reeve.recs.find? (fun r => recSame e r.2) = none) (led : Nat) :
    ∃ u mask pay r, (recEmit s e led).2 = sideQueue (emitTo u mask 1 pay) r ∧ Touches [.reeve] s u
      ∧ u.reeve.recSeq = s.reeve.recSeq + 1 ∧ ∃ r, (nextRecId s, r) ∈ u.reeve.recs := by
  rw [recEmit, h]
  refine ⟨_, _, _, _, rfl, (touches_modReeve_rest ?_ (by simp)).mpr (Touches.refl _ _), ?_, ?_⟩
  · intro r
    exact ⟨rfl, rfl, rfl, rfl⟩
  · simp only [modReeve]
  · simp only [modReeve]
    exact ⟨_, mem_lastN_append (n := 4096) (by omega) _ _⟩

theorem emitted_frame (u : State) (mask kind : Nat) (pay r : List Byte) : Touches [.pages, .due, .side] u (sideQueue (emitTo u mask kind pay) r) := by
  simp

theorem recs_of_touches {F : List Fld} {s t : State} (h : Touches F s t) (hF : .reeve ∉ F := by decide) : t.reeve.recs = s.reeve.recs :=
  (congrArg Reeve.recs (h.reeve hF) :)

theorem recSeq_of_touches {F : List Fld} {s t : State} (h : Touches F s t) (hF : .reeve ∉ F := by decide) : t.reeve.recSeq = s.reeve.recSeq :=
  (congrArg Reeve.recSeq (h.reeve hF) :)

theorem recEmit_frame (led : Nat) : Touches [.reeve, .pages, .due, .side] s (recEmit s e led).2 := by
  cases h : s.reeve.recs.find? (fun r => recSame e r.2) with
  | some r =>
    rw [recEmit_of_old h, touches_modReeve_rest (f := recRepeated s e r.1) (fun _ => ⟨rfl, rfl, rfl, rfl⟩) (by simp)]
    exact Touches.refl _ _
  | none =>
    obtain ⟨u, mask, pay, r, hnew, hjoin, -, -⟩ := recEmit_of_new h led
    rw [hnew]
    exact (hjoin.mono (by simp)).trans ((emitted_frame _ _ _ _ _).mono (by simp))

theorem recEmit_new_spec (h : s.reeve.recs.find? (fun r => recSame e r.2) = none) (led : Nat) :
    (recEmit s e led).2.reeve.recSeq = s.reeve.recSeq + 1 ∧ ∃ r, (nextRecId s, r) ∈ (recEmit s e led).2.reeve.recs := by
  obtain ⟨u, mask, pay, r, hnew, -, hseq, hrec⟩ := recEmit_of_new h led
  have hframe := emitted_frame u mask 1 pay r
  rw [hnew, recSeq_of_touches hframe, recs_of_touches hframe]
  exact ⟨hseq, hrec⟩

/-- A second event of an interval has none of its own. -/
theorem recEmit_old_spec {r : Nat × List Byte} (h : s.reeve.recs.find? (fun r => recSame e r.2) = some r) (led : Nat) :
    (recEmit s e led).2.reeve.recSeq = s.reeve.recSeq
      ∧ (recEmit s e led).2.reeve.recs.map (fun r => r.1) = s.reeve.recs.map (fun r => r.1) := by
  rw [recEmit_of_old h]
  refine ⟨rfl, ?_⟩
  refine List.map_map.trans (List.map_congr_left fun k _ => ?_)
  simp only [Function.comp]
  split <;> rfl

theorem eventTaken_frame : Touches [.inbox] s (eventTaken s rest) := fun x hx => by
  cases x
  case inbox => simp at hx
  all_goals rfl

/-- The record of an event, with the lots that it ends. -/
theorem recorded_frame : Touches [.reeve, .pages, .due, .side, .parts] (eventTaken s rest) (eventRecorded s e rest) := by
  have hrec : Touches [.reeve, .pages, .due, .side, .parts] (eventTaken s rest)
      (recLots (recEmit (eventTaken s rest) e e.led).2 e (recEmit (eventTaken s rest) e e.led).1) := by
    rw [touches_recLots (by simp)]
    exact (recEmit_frame _).mono (by simp)
  have hmaybe : Touches [.reeve, .pages, .due, .side, .parts] (eventTaken s rest) (if recEmits e.code then
      recLots (recEmit (eventTaken s rest) e e.led).2 e (recEmit (eventTaken s rest) e e.led).1 else eventTaken s rest) :=
    iteInduction (fun _ => hrec) fun _ => Touches.refl _ _
  unfold eventRecorded
  refine iteInduction (fun _ => hmaybe) fun _ => ?_
  rw [touches_traceWatch (by simp)]
  exact hmaybe

end

section
variable {s : State} {e : Event} {rest : List Event}

/-- The records after an event that emits none, or of which one is emitted. -/
theorem recs_eventRecorded : (recEmits e.code = false →
      (eventRecorded s e rest).reeve.recs = s.reeve.recs ∧ (eventRecorded s e rest).reeve.recSeq = s.reeve.recSeq)
    ∧ (recEmits e.code = true → (eventRecorded s e rest).reeve.recs = (recEmit (eventTaken s rest) e e.led).2.reeve.recs
      ∧ (eventRecorded s e rest).reeve.recSeq = (recEmit (eventTaken s rest) e e.led).2.reeve.recSeq) := by
  refine ⟨fun hno => ?_, fun hyes => ?_⟩
  · have hframe : Touches [.parts] (eventTaken s rest) (eventRecorded s e rest) := by
      simp only [eventRecorded, hno, Bool.false_eq_true, if_false]
      refine iteInduction (fun _ => Touches.refl _ _) fun _ => ?_
      exact (touches_traceWatch (by simp)).mpr (Touches.refl _ _)
    exact ⟨(recs_of_touches hframe).trans rfl, (recSeq_of_touches hframe).trans rfl⟩
  · have hframe : Touches [.parts] (recEmit (eventTaken s rest) e e.led).2 (eventRecorded s e rest) := by
      simp only [eventRecorded, hyes, if_true]
      refine iteInduction (fun _ => ?_) fun _ => (touches_traceWatch (by simp)).mpr ?_
      all_goals exact (touches_recLots (by simp)).mpr (Touches.refl _ _)
    exact ⟨recs_of_touches hframe, recSeq_of_touches hframe⟩

/-- An event that ends no lot and has no trace unit changes no partition. -/
theorem parts_eventRecorded (hpart : 12 ≤ e.part) (hcompl : e.compl = 0) : (eventRecorded s e rest).parts = s.parts := by
  have hlots : ∀ u id, recLots u e id = u := fun u id => by simp [recLots, hcompl]
  unfold eventRecorded
  dsimp only
  rw [if_pos hpart, hlots]
  split
  · exact (recEmit_frame (s := eventTaken s rest) e.led).parts
  · rfl

theorem nextRecId_eventTaken : nextRecId (eventTaken s rest) = nextRecId s := by simp only [nextRecId, eventTaken, modReeve]

/-- A tile's event that meets an earlier one fails the tile (R387). -/
theorem weighEvent_of_met {u : State} {p c d d0 b : Nat} (hunit : e.unit / 2 ^ 28 = 1) (hp : p = 100 * (e.loc / 256 % 256) + e.loc % 256)
    (hmemo : eventMemo e = some (c, d)) (hhist : (p, c, d0, b) ∈ (getRow u (physProw p)).hist) (hrecent : e.bell ≤ b + 1024)
    (hmeets : memoMeets c d0 d = true) : ∃ v, Touches [.rows] u v ∧ weighEvent u e = failTile v p c := by
  have hold : ((getRow u (physProw p)).hist.filter (fun h => e.bell ≤ h.2.2.2 + 1024)).any
      (fun h => h.1 == p && h.2.1 == c && memoMeets c h.2.2.1 d) = true :=
    List.any_eq_true.mpr ⟨(p, c, d0, b), List.mem_filter.mpr ⟨hhist, by simpa using hrecent⟩, by simp [hmeets]⟩
  subst hp
  unfold weighEvent
  rw [if_neg (by simpa using hunit)]
  dsimp only
  rw [hmemo]
  dsimp only
  rw [if_pos hold]
  exact ⟨_, by simp, rfl⟩

end

/-! ## The end of a lot -/

theorem latchLot_spec (s : State) (n : Nat) (l : Lot) : (latchLot s n l).number = l.number ∧ (latchLot s n l).causes = l.causes := by
  unfold latchLot
  split <;> exact ⟨rfl, rfl⟩

/-- A lot as its end leaves it. -/
def lotClosed (s : State) (n : Nat) (l0 : Lot) : Lot :=
  if l0.state == 2 then l0 else { latchLot s n l0 with state := 2, active := false, ended := s.clk.bell }

theorem lotClosed_spec (s : State) (n : Nat) (l : Lot) :
    (lotClosed s n l).number = l.number ∧ (lotClosed s n l).causes = l.causes ∧ (lotClosed s n l).state = 2 := by
  obtain ⟨hnum, hcause⟩ := latchLot_spec s n l
  unfold lotClosed
  split
  · next h => exact ⟨rfl, rfl, by simpa using h⟩
  · exact ⟨hnum, hcause, rfl⟩

/-- A lot's record. -/
def lotRecord (n : Nat) (l : Lot) : Ended := { lot := l, code := ((firstCause l).getD (0, 0, 0)).1, entry := entryOf n l, written := false }

theorem lotFinish_eq (s : State) (n : Nat) (l : Lot) : lotFinish s n l = cancelAnswer (modPart s n (fun p => { p with
      lots := p.lots.filter (fun x => x.number != (lotClosed s n l).number)
      ended := endedTrim (p.ended ++ [lotRecord n (lotClosed s n l)]) })) n (lotClosed s n l).number
    ((firstCause (lotClosed s n l)).getD (0, 0, 0)).1 := rfl

/-- An entry that is not written is kept. -/
theorem mem_endedTrim {es : List Ended} {e : Ended} (h : e ∈ es) (hw : e.written = false) : e ∈ endedTrim es := by
  obtain ⟨i, hi⟩ := List.mem_iff_getElem?.mp h
  exact List.mem_filterMap.mpr ⟨(e, i), List.mem_zipIdx_iff_getElem?.mpr hi, by simp [hw]⟩

theorem heldFlush_frame (pg n : Nat) (s : State) : Touches [.pages, .due] s (heldFlush pg n s) := by
  induction n generalizing s with
  | zero => exact Touches.refl _ _
  | succ n ih =>
    unfold heldFlush
    split
    · refine Touches.trans ?_ (ih _)
      simp [rspWrite]
    · exact Touches.refl _ _

theorem cancelAnswer_frame (s : State) (n number code : Nat) : Touches [.pages, .due] s (cancelAnswer s n number code) :=
  Touches.trans (by simp) (heldFlush_frame _ _ _)

/-! ## Completion entries -/

/-- A page keeps the producer index of its completion ring. -/
def CqKept (n : Nat) (s t : State) : Prop := (getPage t n).cqPi = (getPage s n).cqPi

namespace CqKept

variable {n : Nat} {s t u : State}

theorem refl (s : State) : CqKept n s s := rfl

theorem trans (h1 : CqKept n s t) (h2 : CqKept n t u) : CqKept n s u := Eq.trans h2 h1

theorem modPage (h : CqKept n s t) {k : Nat} {f : Page → Page} (hf : ∀ q, (f q).cqPi = q.cqPi := by intro q; rfl) :
    CqKept n s (modPage t k f) := by
  refine trans h ?_
  unfold CqKept
  by_cases hk : n = k
  · rw [hk, getPage_modPage_same, hf]
  · rw [getPage_modPage_other _ _ _ _ hk]

theorem vecDue (h : CqKept n s t) {v : Nat} : CqKept n s (vecDue t v) := h

theorem evPut (h : CqKept n s t) {k kind : Nat} {pay : List Byte} : CqKept n s (evPut t k kind pay) := by
  unfold Machine.evPut
  exact h.modPage.vecDue

theorem evEmit (h : CqKept n s t) {k kind : Nat} {pay : List Byte} : CqKept n s (evEmit t k kind pay) := by
  unfold Machine.evEmit
  dsimp only
  split_ifs
  · exact h.modPage
  · exact h.evPut
  · exact h.evPut.modPage.evPut
  · exact h.evPut.modPage.modPage

theorem emitTo (h : CqKept n s t) {mask kind : Nat} {pay : List Byte} : CqKept n s (emitTo t mask kind pay) := by
  unfold Machine.emitTo
  exact h.trans (foldl_rel refl trans (fun u k => iteInduction (fun _ => (refl u).evEmit) fun _ => refl u) _ t)

theorem changePut (h : CqKept n s t) {c : Change} : CqKept n s (changePut t c) := h

theorem changeDecide (h : CqKept n s t) {c : Change} {outcome : Nat} : CqKept n s (changeDecide t c outcome) := by
  unfold Machine.changeDecide changeEvent
  exact h.changePut.emitTo

theorem leaveCheck (h : CqKept n s t) : CqKept n s (leaveCheck t) := by
  unfold Machine.leaveCheck
  exact h.trans (foldl_rel (R := CqKept n) refl trans (g := fun s c => Machine.changeDecide s c 1) (fun u c => (refl u).changeDecide) _ t)

end CqKept

theorem changeDecide_frame (s : State) (c : Change) (outcome : Nat) : Touches [.changes, .pages, .due] s (changeDecide s c outcome) := by
  unfold changeDecide changeEvent
  rw [touches_emitTo (by simp)]
  intro x hx
  cases x
  case changes => simp at hx
  all_goals rfl

theorem leaveCheck_frame (s : State) : Touches [.changes, .pages, .due] s (leaveCheck s) :=
  foldl_rel (R := Touches [.changes, .pages, .due]) (Touches.refl _) Touches.trans (g := fun s c => changeDecide s c 1)
    (fun s c => changeDecide_frame s c 1) _ s

section
variable (s : State) (n : Nat) (cq : Cq) (e : Ended)

/-- The bytes of an entry as it is written. -/
def ringEntry : List Byte := patch e.entry 0x34 (toLe 4 (cq.seq + 1))

/-- An entry of the ring and the attachments of its lot, put out. -/
def entryOut : State :=
  dmaOut (if min e.lot.attach.length (e.lot.recLen / 40) == 0 then s
      else dmaOut s n e.lot.recAddr ((e.lot.attach.take (min e.lot.attach.length (e.lot.recLen / 40))).flatMap (fun a => a))) n
    (cq.base + 128 * ((getPage s n).cqPi % cq.entries)) (ringEntry cq e)

/-- A partition whose entry is written. -/
def entryNoted (p : Part) : Part :=
  { p with
    cq := some { cq with seq := cq.seq + 1 }
    ended := endedTrim (p.ended.map (fun x => if x.lot.number == e.lot.number then { x with entry := ringEntry cq e, written := true } else x)) }

/-- A page whose completion ring has an entry more. -/
def cqAdvanced (q : Page) : Page := { q with cqPi := (q.cqPi + 1) % 2 ^ 32 }

theorem entryWrite_eq : entryWrite s n cq e
    = vecDue (modPage (modPart (entryOut s n cq e) n (entryNoted cq e)) n cqAdvanced) (3 * n + 2) := rfl

theorem entryOut_frame : Touches [.out] s (entryOut s n cq e) := by simp [entryOut, dmaOut]

theorem entryWrite_frame : Touches [.out, .parts, .pages, .due] s (entryWrite s n cq e) := by
  rw [entryWrite_eq]
  simpa using (entryOut_frame s n cq e).mono (by simp)

theorem getPage_entryWrite : getPage (entryWrite s n cq e) n = cqAdvanced (getPage s n) := by
  rw [entryWrite_eq, ← (entryOut_frame s n cq e).getPage n]
  exact getPage_modPage_same (modPart (entryOut s n cq e) n (entryNoted cq e)) n cqAdvanced

theorem getPart_entryWrite : getPart (entryWrite s n cq e) n = entryNoted cq e (getPart s n) := by
  rw [entryWrite_eq, ← (entryOut_frame s n cq e).getPart n]
  exact getPart_modPart_same (entryOut s n cq e) n (entryNoted cq e)

theorem out_entryWrite : (entryWrite s n cq e).out = (entryOut s n cq e).out := by
  rw [entryWrite_eq]
  rfl

theorem mem_entryOut : (⟨0, dmaAddr s n (cq.base + 128 * ((getPage s n).cqPi % cq.entries)), ringEntry cq e⟩ : Out) ∈ (entryOut s n cq e).out := by
  refine List.mem_append.mpr (.inr ?_)
  split <;> exact List.mem_singleton.mpr rfl

end

/-- Settles O44: an event by `recEmit` and `weighEvent`, a lot by `lotFinish`, an entry by `entryWrite`. -/
theorem failureEventsAndLotEnds : Obligations.FailureEventsAndLotEnds := by
  refine ⟨⟨fun s h => ?none, fun s e rest hinbox hlight => ?recorded, fun s e rest p c d d0 b hinbox hcool hunit hp hmemo hhist hrecent hmeets => ?failed⟩,
    fun n l s hn hquiet hlot => ?ended, fun n s hn h => ?unended, fun n cq e s hn hcq he => ⟨fun hroom => ?written, fun hfull => ?held⟩⟩
  case none =>
    change execFailureEvent s = _
    rw [execFailureEvent, h]
  case recorded =>
    have hrun : exec .failureEvent s = .next (withHealth s (eventRecorded s e rest)) := by
      rw [exec_failureEvent hinbox]
      obtain hhot | hlight := hlight
      · rw [if_pos hhot]
      · rw [weighEvent_of_light hlight, ite_self]
    have hframe : Touches [.reeve, .pages, .due, .side, .parts] (eventTaken s rest) (withHealth s (eventRecorded s e rest)) :=
      (touches_withHealth (by simp)).mpr (recorded_frame rest)
    have hhealth := withHealth_frame s (eventRecorded s e rest)
    obtain ⟨hnone, hemits⟩ := recs_eventRecorded (s := s) (e := e) (rest := rest)
    refine ⟨_, hrun, hframe.inbox, hframe.tiles, hframe.mems, hframe.ports, hframe.rows, hframe.clk, fun hpart hcompl => ?_,
      fun hyes hnew => ?_, fun hyes r hold => ?_, fun hno => ?_⟩
    · exact hhealth.parts.trans (parts_eventRecorded hpart hcompl)
    · obtain ⟨hrecs, hseq⟩ := hemits hyes
      rw [recSeq_of_touches hhealth, recs_of_touches hhealth, hrecs, hseq, ← nextRecId_eventTaken (s := s) (rest := rest)]
      exact recEmit_new_spec (s := eventTaken s rest) hnew e.led
    · obtain ⟨hrecs, hseq⟩ := hemits hyes
      rw [recSeq_of_touches hhealth, recs_of_touches hhealth, hrecs, hseq]
      exact recEmit_old_spec (s := eventTaken s rest) hold e.led
    · rw [recSeq_of_touches hhealth, recs_of_touches hhealth]
      exact hnone hno
  case failed =>
    have hframe := recorded_frame (s := s) (e := e) rest
    have hrow : getRow (eventRecorded s e rest) (physProw p) = getRow s (physProw p) := hframe.getRow _
    obtain ⟨v, hv, hfail⟩ := weighEvent_of_met (u := eventRecorded s e rest) hunit hp hmemo (by rwa [hrow]) hrecent hmeets
    have hrun : exec .failureEvent s = .next (withHealth s (failTile v p c)) := by
      rw [exec_failureEvent hinbox, hcool, if_neg Bool.false_ne_true, hfail]
    have hhealth := withHealth_frame s (failTile v p c)
    have hlast : Touches [.ops, .pages, .due, .parts, .inbox, .tiles, .rows, .start] v (failTile v p c) := by simp
    refine ⟨_, hrun, ?_, ?_, ?_⟩
    · rw [hhealth.getTile p]
      exact st_failTile v p c
    · rw [hhealth.clk, hlast.clk, hv.clk, hframe.clk]
      rfl
    · rw [hhealth.dram, hlast.dram, hv.dram, hframe.dram]
      rfl
  case ended =>
    have hrun : exec (.lotEnd n) s = .next (lotFinish s n l) := by
      change execLotEnd n s = _
      rw [execLotEnd, if_neg (not_not.mpr hn), if_neg (by simp [hquiet]), hlot]
    obtain ⟨hnum, hcauses, hstate⟩ := lotClosed_spec s n l
    have hcause : firstCause (lotClosed s n l) = firstCause l := by rw [firstCause, hcauses, firstCause]
    have hframe := cancelAnswer_frame (modPart s n (fun p => { p with
      lots := p.lots.filter (fun x => x.number != (lotClosed s n l).number)
      ended := endedTrim (p.ended ++ [lotRecord n (lotClosed s n l)]) })) n (lotClosed s n l).number
      ((firstCause (lotClosed s n l)).getD (0, 0, 0)).1
    rw [← lotFinish_eq] at hframe
    refine ⟨_, hrun, ?_, ?_, fun m hm => ?_, hframe.tiles, hframe.mems, hframe.clk⟩
    · rw [hframe.getPart n, getPart_modPart_same]
      dsimp only
      rw [hnum]
    · rw [hframe.getPart n, getPart_modPart_same]
      refine ⟨lotRecord n (lotClosed s n l), mem_endedTrim (List.mem_append.mpr (.inr (List.mem_singleton.mpr rfl))) rfl, hnum, ?_, rfl, hstate⟩
      rw [lotRecord, hcause]
    · rw [hframe.getPart m, getPart_modPart_other _ _ _ _ hm]
  case unended =>
    change execLotEnd n s = _
    rw [execLotEnd, if_neg (not_not.mpr hn)]
    split
    · rfl
    · obtain h | h := h
      · contradiction
      · rw [h]
  case written =>
    have hrun : exec (.completionEntryWrite n) s = .next (leaveCheck (entryWrite s n cq e)) := by
      change execCompletionEntryWrite n s = _
      unfold execCompletionEntryWrite
      rw [if_neg (not_not.mpr hn)]
      dsimp only
      rw [hcq, he]
      exact if_pos hroom
    have hleave := leaveCheck_frame (entryWrite s n cq e)
    have hwrite := entryWrite_frame s n cq e
    refine ⟨_, hrun, ?_, ?_, ?_, ?_, ?_⟩
    · have hkept : (getPage (leaveCheck (entryWrite s n cq e)) n).cqPi = (getPage (entryWrite s n cq e) n).cqPi := (CqKept.refl _).leaveCheck
      rw [hkept, getPage_entryWrite]
      rfl
    · rw [hleave.getPart n, getPart_entryWrite]
      rfl
    · rw [hleave.tiles, hwrite.tiles]
    · rw [hleave.clk, hwrite.clk]
    · rw [hleave.out, out_entryWrite]
      exact mem_entryOut s n cq e
  case held =>
    change execCompletionEntryWrite n s = _
    unfold execCompletionEntryWrite
    rw [if_neg (not_not.mpr hn)]
    dsimp only
    rw [hcq, he]
    exact if_neg (Nat.not_lt.mpr hfull)

end Sys2Proof.Machine
end

section
/-! SUPPORT. The slices of the tiles in a reset (R378, R384, R391 to R395, R459). -/

-- One proof after another: threads that wait for each other count against the memory of the check.
set_option Elab.async false

namespace Sys2Proof.Machine

/-! ## What slices leave in the ledger -/

theorem fld_entry (kind flags source number loc : Nat) (index rest : List Byte) (hindex : index.length = 4) :
    fld (index ++ toLe 1 kind ++ toLe 1 flags ++ toLe 1 source ++ [0] ++ toLe 4 number ++ toLe 4 loc ++ rest) 0xC 4 = loc % 256 ^ 4 :=
  fld_of_parts (as := index ++ toLe 1 kind ++ toLe 1 flags ++ toLe 1 source ++ [0] ++ toLe 4 number) (cs := rest)
    (by simp only [List.append_assoc]) (by simp [hindex, toLe_length])

theorem fld_patch_after {bs v : List Byte} {off a n : Nat} (hoff : off ≤ bs.length) (h : off + v.length ≤ a) :
    fld (patch bs off v) a n = fld bs a n := by
  have hlen : (bs.take off ++ v).length = off + v.length := by simp [hoff]
  have hdrop : (patch bs off v).drop a = bs.drop a := by
    rw [patch, List.drop_append, List.drop_of_length_le (hlen.trans_le h), hlen, List.drop_drop, List.nil_append, Nat.add_sub_cancel' h]
  rw [fld, slice, hdrop]
  rfl

/-- An entry that is added bears its location. -/
theorem ledger_ledgerAdd_loc (s : State) (kind flags source loc detail : Nat) :
    ∃ e, (ledgerAdd s kind flags source loc detail).2.start.ledger = s.start.ledger ++ [e] ∧ fld e 0xC 4 = loc % 256 ^ 4 := by
  refine ⟨_, rfl, ?_⟩
  split
  · rw [fld_patch_after (by simp [toLe_length]) (by simp [toLe_length])]
    simpa only [List.append_assoc] using fld_entry kind flags source s.start.number loc (toLe 4 s.start.ledger.length) (toLe 8 detail ++ toLe 8 (if s.start.ready then s.clk.bell % 2 ^ 48 else 0)) (toLe_length _ _)
  · simpa only [List.append_assoc] using fld_entry kind flags source s.start.number loc (toLe 4 s.start.ledger.length) (toLe 8 detail ++ toLe 8 (if s.start.ready then s.clk.bell % 2 ^ 48 else 0)) (toLe_length _ _)

/-- The words that the ledger holds of a tile are those of its own entries. -/
theorem ledgerWords_append (s t : State) (es : List (List Byte)) (p : Nat) (ht : t.start.ledger = s.start.ledger ++ es)
    (hes : ∀ e ∈ es, fld e 0xC 4 ≠ tileLoc p) : ledgerWords t p = ledgerWords s p := by
  rw [ledgerWords, ht, List.filterMap_append, ledgerWords]
  refine (congrArg _ (List.filterMap_eq_nil_iff.mpr fun e he => ?_)).trans (List.append_nil _)
  simp [hes e he]

theorem tileLoc_inj {p q : Nat} (h : tileLoc p = tileLoc q) : p = q := by
  unfold tileLoc at h
  omega

theorem tileLoc_mod {p : Nat} (h : p < 4800) : tileLoc p % 256 ^ 4 = tileLoc p := by
  unfold tileLoc
  omega

/-! ## Slices in a reset -/

/-- What a test found on a tile, by the list of the tiles on which it found something. -/
def foundOn (found : List TileFound) (p : Nat) : SliceFound :=
  ((found.find? (fun f => f.1 == p)).map (fun f => ({ cols := f.2.1, words := f.2.2.1, other := f.2.2.2 } : SliceFound))).getD {}

/-- The slice of one tile in a reset, its input counters read. -/
def resetSliced (s : State) (p : Nat) (f : SliceFound) : State :=
  if (getTile s p).st == .pinfold then slicePinned s p f 3 else sliceOutcome s p f 3 resetFence

theorem sliceAll_eq (s : State) (ps : List Nat) (found : List TileFound) :
    sliceAll s ps found 3 resetFence
      = if !(setRuns s) then s else ps.foldl (fun s p => resetSliced (sliceEcc s p) p (foundOn found p)) s := by
  have hfound : ∀ p, (((found.find? (fun f => f.1 == p)).map (fun f => f.2)).map (fun f =>
      ({ cols := f.1, words := f.2.1, other := f.2.2 } : SliceFound))).getD {} = foundOn found p := fun p => by
    rw [Option.map_map]
    rfl
  simp only [sliceAll, hfound]
  rfl

/-- The repair of a slice enters its own tile. -/
theorem start_columnRepaired (p source : Nat) (s : State) (c : Nat) :
    (columnRepaired p source s c).start
      = (ledgerAdd (modTile s p (fun t => { t with loom := loomMapAdd t.loom c })) 2 1 source (tileLoc p) c).2.start := by
  unfold columnRepaired
  split <;> rfl

theorem sliceRepair_frame (s : State) (p source : Nat) (f : SliceFound) : Touches [.tiles, .start, .inbox] s (sliceRepair s p f source) := by
  rw [sliceRepair_eq]
  refine (touches_foldl fun s w => ?_).mpr ((touches_foldl fun s c => ?_).mpr (Touches.refl _ _))
  · exact (touches_ledgerAdd (by simp)).mpr (Touches.refl _ _)
  · unfold columnRepaired
    split <;> simp

/-- Every entry that an operation adds to the ledger is of one tile. -/
def LedgerOf (p : Nat) (s t : State) : Prop :=
  ∃ es, t.start.ledger = s.start.ledger ++ es ∧ ∀ e ∈ es, fld e 0xC 4 = tileLoc p

namespace LedgerOf
variable {p : Nat} {s t u : State}

theorem refl (s : State) : LedgerOf p s s := ⟨[], (List.append_nil _).symm, nofun⟩

theorem of_start (h : t.start = s.start) : LedgerOf p s t := ⟨[], by rw [h, List.append_nil], nofun⟩

theorem trans (h1 : LedgerOf p s t) (h2 : LedgerOf p t u) : LedgerOf p s u := by
  obtain ⟨es, hes, hof⟩ := h1
  obtain ⟨es', hes', hof'⟩ := h2
  refine ⟨es ++ es', by rw [hes', hes, List.append_assoc], fun e he => ?_⟩
  exact (List.mem_append.mp he).elim (hof e) (hof' e)

theorem ledgerAdd (s : State) (kind flags source detail : Nat) (hp : p < 4800) :
    LedgerOf p s (Machine.ledgerAdd s kind flags source (tileLoc p) detail).2 := by
  obtain ⟨e, he, hloc⟩ := ledger_ledgerAdd_loc s kind flags source (tileLoc p) detail
  exact ⟨[e], he, fun x hx => by rw [List.mem_singleton.mp hx, hloc, tileLoc_mod hp]⟩

theorem columnRepaired (s : State) (source c : Nat) (hp : p < 4800) : LedgerOf p s (Machine.columnRepaired p source s c) :=
  (ledgerAdd (modTile s p (fun t => { t with loom := loomMapAdd t.loom c })) 2 1 source c hp).trans
    (of_start (start_columnRepaired p source s c))

theorem sliceRepair (s : State) (source : Nat) (f : SliceFound) (hp : p < 4800) : LedgerOf p s (Machine.sliceRepair s p f source) := by
  rw [sliceRepair_eq]
  exact (foldl_rel (R := LedgerOf p) refl trans (fun s c => columnRepaired s source c hp) _ _).trans
    (foldl_rel (R := LedgerOf p) refl trans (fun s w => ledgerAdd s 3 1 source _ hp) _ _)

theorem failLedger (s : State) (source : Nat) (e : Event) (hp : p < 4800) : LedgerOf p s (Machine.failLedger s p source e) :=
  ledgerAdd s 1 1 source 0 hp

theorem sliceOutcome (s : State) (source : Nat) (f : SliceFound) (fenced : State → Nat → State) (hp : p < 4800)
    (hfenced : ∀ s, LedgerOf p s (fenced s p)) : LedgerOf p s (Machine.sliceOutcome s p f source fenced) := by
  unfold Machine.sliceOutcome
  exact iteInduction (fun _ => (of_start rfl : LedgerOf p s (sliceResult s p 3)).trans (hfenced _))
    (fun _ => (sliceRepair s source f hp).trans (of_start rfl))

theorem resetFence (s : State) (hp : p < 4800) : LedgerOf p s (Machine.resetFence s p) :=
  (of_start rfl : LedgerOf p s (pinfoldTile s p 1)).trans (failLedger _ 3 _ hp)

theorem resetSliced (s : State) (f : SliceFound) (hp : p < 4800) : LedgerOf p s (Machine.resetSliced s p f) := by
  unfold Machine.resetSliced
  refine iteInduction (fun _ => sliceOutcome s 3 f _ hp fun s => ?_) (fun _ => sliceOutcome s 3 f _ hp fun s => resetFence s hp)
  exact (iteInduction (motive := fun v => LedgerOf p s v) (fun _ => refl s) (fun _ => failLedger s 3 _ hp)).trans (of_start rfl)

theorem ledgerWords {q : Nat} (h : LedgerOf p s t) (hq : q ≠ p) : Machine.ledgerWords t q = Machine.ledgerWords s q := by
  obtain ⟨es, hes, hof⟩ := h
  exact ledgerWords_append s t es q hes fun e he hl => hq (tileLoc_inj (hl.symm.trans (hof e he)))

end LedgerOf

section
variable (s : State) (p : Nat) (f : SliceFound)

theorem getTile_slicePinned_fence {q : Nat} (h : q ≠ p) (cause : Nat) :
    getTile (modTile (if causePermanent cause then s else failLedger s p 3 (tileFailedEvent s p 0)) p
      (fun t => { t with hw := { t.hw with cause := if causePermanent cause then cause else 1 } })) q = getTile s q := by
  rw [getTile_modTile_other _ _ _ _ h]
  split <;> rfl

theorem resetFence_frame : Touches [.tiles, .rows, .start, .inbox] s (resetFence s p) := by simp [resetFence]

theorem resetSliced_frame : Touches [.tiles, .rows, .start, .inbox] s (resetSliced s p f) := by
  have hrepair : Touches [.tiles, .rows, .start, .inbox] s (sliceResult (sliceRepair s p f 3) p (if f.cols.isEmpty && f.words.isEmpty then 1 else 2)) := by
    simpa [sliceResult] using (sliceRepair_frame s p 3 f).mono (by simp)
  unfold resetSliced slicePinned sliceOutcome
  refine iteInduction (fun _ => iteInduction (fun _ => ?_) fun _ => hrepair) fun _ => iteInduction (fun _ => ?_) fun _ => hrepair
  · simp [sliceResult]
  · exact (show Touches _ s (sliceResult s p 3) by simp [sliceResult]).trans (resetFence_frame _ p)

theorem getTile_sliceOutcome_other {q : Nat} (h : q ≠ p) (fenced : State → Nat → State) (hfenced : ∀ s, getTile (fenced s p) q = getTile s q) :
    getTile (sliceOutcome s p f 3 fenced) q = getTile s q := by
  unfold sliceOutcome
  split
  · rw [hfenced, sliceResult, getTile_modTile_other _ _ _ _ h]
  · rw [sliceResult, getTile_modTile_other _ _ _ _ h, getTile_sliceRepair_other _ _ _ _ h]

theorem getTile_resetFence_other {q : Nat} (h : q ≠ p) : getTile (resetFence s p) q = getTile s q :=
  (getTile_failLedger _ _ _ _ _).trans (getTile_modTile_other _ _ _ _ h)

theorem getTile_resetSliced_other {q : Nat} (h : q ≠ p) : getTile (resetSliced s p f) q = getTile s q := by
  unfold resetSliced
  split
  · exact getTile_sliceOutcome_other s p f h _ fun s => getTile_slicePinned_fence s p h _
  · exact getTile_sliceOutcome_other s p f h _ fun s => getTile_resetFence_other s p h

/-- The memories of a tile that a reset empties. -/
def tileMemory (t : Tile) : Mem × Mem := (t.store.mem, t.clerk.im)

theorem tileMemory_sliceResult (res q : Nat) : tileMemory (getTile (sliceResult s p res) q) = tileMemory (getTile s q) := by
  unfold sliceResult
  by_cases h : q = p
  · rw [h, getTile_modTile_same]
    rfl
  · rw [getTile_modTile_other _ _ _ _ h]

theorem tileMemory_sliceRepair (source : Nat) : tileMemory (getTile (sliceRepair s p f source) p) = tileMemory (getTile s p) := by
  have h := tileUnwoven_sliceRepair s p source f
  exact Prod.ext (congrArg Store.mem (store_of_unwoven h)) (congrArg (fun t => t.clerk.im) h :)

theorem tileMemory_resetFence : tileMemory (getTile (resetFence s p) p) = tileMemory (getTile s p) := by
  rw [resetFence, tile_failLedger_pinfold]
  rfl

theorem tileMemory_sliceOutcome (fenced : State → Nat → State)
    (hfenced : ∀ s, tileMemory (getTile (fenced s p) p) = tileMemory (getTile s p)) :
    tileMemory (getTile (sliceOutcome s p f 3 fenced) p) = tileMemory (getTile s p) := by
  unfold sliceOutcome
  split
  · rw [hfenced, tileMemory_sliceResult]
  · rw [tileMemory_sliceResult, tileMemory_sliceRepair]

theorem tileMemory_resetSliced : tileMemory (getTile (resetSliced s p f) p) = tileMemory (getTile s p) := by
  unfold resetSliced
  split
  · refine tileMemory_sliceOutcome s p f _ fun s => ?_
    rw [getTile_modTile_same]
    split <;> rfl
  · exact tileMemory_sliceOutcome s p f _ fun s => tileMemory_resetFence s p

/-- A slice that passes keeps its tile's state and notes its outcome. -/
theorem sliceOutcome_of_pass (h : sliceFails s p f = false) (fenced : State → Nat → State) :
    (getTile (sliceOutcome s p f 3 fenced) p).st = (getTile s p).st
      ∧ (getTile (sliceOutcome s p f 3 fenced) p).hw.result = (if f.cols.isEmpty && f.words.isEmpty then 1 else 2)
      ∧ (getTile (sliceOutcome s p f 3 fenced) p).loom = (getTile (sliceRepair s p f 3) p).loom := by
  rw [sliceOutcome, h, if_neg Bool.false_ne_true, getTile_sliceResult_same]
  exact ⟨(congrArg Tile.st (tileUnwoven_sliceRepair s p 3 f) :), rfl, rfl⟩

theorem resetSliced_pinned (h : (getTile s p).st = .pinfold) : (getTile (resetSliced s p f) p).st = .pinfold := by
  rw [resetSliced, if_pos (beq_iff_eq.mpr h), slicePinned]
  cases hfails : sliceFails s p f with
  | false => rw [(sliceOutcome_of_pass s p f hfails _).1, h]
  | true =>
    rw [sliceOutcome, hfails, if_pos rfl, getTile_modTile_same]
    have hresult : (getTile (sliceResult s p 3) p).st = .pinfold := by rw [getTile_sliceResult_same, ← h]
    split <;> exact hresult

theorem resetSliced_failed (h : (getTile s p).st ≠ .pinfold) (hfails : sliceFails s p f = true) :
    (getTile (resetSliced s p f) p).st = .pinfold ∧ (getTile (resetSliced s p f) p).hw.result = 3 := by
  rw [resetSliced, if_neg (by simpa using h), sliceOutcome, hfails, if_pos rfl, resetFence, tile_failLedger_pinfold, getTile_sliceResult_same]
  exact ⟨rfl, rfl⟩

/-- A passing slice maps its failed columns out. -/
theorem cols_sliceRepair (hfails : sliceFails s p f = false) {c : Nat} (hc : c ∈ f.cols) :
    (getTile (sliceRepair s p f 3) p).loom.failA = c ∨ (getTile (sliceRepair s p f 3) p).loom.failB = c := by
  have hloom : (getTile (sliceRepair s p f 3) p).loom
      = (newCols (getTile s p).loom f.cols).foldl loomMapAdd (getTile s p).loom := by
    rw [sliceRepair_eq]
    refine (congrArg Tile.loom (foldl_keeps (π := fun s => getTile s p) (g := wordRepaired p 3) (fun _ _ => rfl) _ _)).trans ?_
    clear hfails
    generalize newCols (getTile s p).loom f.cols = cs
    induction cs generalizing s with
    | nil => rfl
    | cons x cs ih =>
      rw [List.foldl_cons, List.foldl_cons, ih, getTile_columnRepaired, getTile_modTile_same]
  simp only [sliceFails, Bool.or_eq_false_iff, decide_eq_false_iff_not, Bool.and_eq_false_iff, List.any_eq_false, decide_eq_true_eq] at hfails
  obtain ⟨⟨⟨⟨⟨⟨-, hrange⟩, hone⟩, hroom⟩, -⟩, -⟩, -⟩ := hfails
  have hnew : c ∈ newCols (getTile s p).loom f.cols ∨ (getTile s p).loom.failA = c ∨ (getTile s p).loom.failB = c := by
    simp only [newCols, List.mem_eraseDups, List.mem_filter, hc, true_and, Bool.and_eq_true, bne_iff_ne]
    tauto
  have hc32 := hrange c hc
  rw [hloom]
  match hcs : newCols (getTile s p).loom f.cols with
  | [] => exact hnew.resolve_left (by simp [hcs])
  | [x] =>
    simp only [hcs, List.mem_singleton] at hnew
    simp only [hcs, List.isEmpty_cons, Bool.not_false, Bool.true_eq_false, false_or] at hroom
    simp only [List.foldl_cons, List.foldl_nil, loomMapAdd]
    split_ifs with hin hfree
    · simp only [Bool.or_eq_true, beq_iff_eq] at hin
      omega
    · dsimp only
      omega
    · dsimp only
      omega
  | x :: y :: l => simp [hcs] at hone

theorem resetSliced_passed (h : (getTile s p).st ≠ .pinfold) (hfails : sliceFails s p f = false) :
    (getTile (resetSliced s p f) p).st = (getTile s p).st
      ∧ (getTile (resetSliced s p f) p).hw.result = (if f.cols.isEmpty && f.words.isEmpty then 1 else 2)
      ∧ (∀ c ∈ f.cols, (getTile (resetSliced s p f) p).loom.failA = c ∨ (getTile (resetSliced s p f) p).loom.failB = c) := by
  rw [resetSliced, if_neg (by simpa using h)]
  obtain ⟨hst, hres, hloom⟩ := sliceOutcome_of_pass s p f hfails resetFence
  refine ⟨hst, hres, fun c hc => ?_⟩
  rw [hloom]
  exact cols_sliceRepair s p f hfails hc

end

/-- What fails a slice: the loom map, and the ledger's words of the tile. -/
theorem sliceFails_of_words {s t : State} {p : Nat} (hloom : (getTile t p).loom = (getTile s p).loom)
    (hwords : ledgerWords t p = ledgerWords s p) (f : SliceFound) : sliceFails t p f = sliceFails s p f := by
  have hnew : newWords t p f.words = newWords s p f.words := by rw [newWords, hwords, newWords]
  unfold sliceFails
  dsimp only
  rw [hloom, hwords, hnew]

theorem ledgerWords_of_start {s t : State} (h : t.start = s.start) (p : Nat) : ledgerWords t p = ledgerWords s p := by
  rw [ledgerWords, h, ledgerWords]

/-- One tile's slice, its counters read. -/
def tileTest (found : List TileFound) (s : State) (p : Nat) : State := resetSliced (sliceEcc s p) p (foundOn found p)

/-- The slices of a reset one after the other. -/
def testedAll (found : List TileFound) (ps : List Nat) (s : State) : State := ps.foldl (tileTest found) s

section
variable (found : List TileFound) (s : State)

theorem getTile_tileTest_other {p q : Nat} (h : q ≠ p) : getTile (tileTest found s p) q = getTile s q := by
  rw [tileTest, getTile_resetSliced_other _ _ _ h, getTile_sliceEcc, getTile_modTile_other _ _ _ _ h]

theorem tileTest_frame (p : Nat) : Touches [.tiles, .rows, .start, .inbox] s (tileTest found s p) :=
  (sliceEcc_frame.mono (by simp)).trans (resetSliced_frame _ _ _)

theorem ledgerWords_tileTest {p q : Nat} (hp : p < 4800) (h : q ≠ p) : ledgerWords (tileTest found s p) q = ledgerWords s q :=
  ((LedgerOf.resetSliced (sliceEcc s p) (foundOn found p) hp).ledgerWords h).trans
    (ledgerWords_of_start (sliceEcc_frame.start) q)

theorem testedAll_frame (ps : List Nat) : Touches [.tiles, .rows, .start, .inbox] s (testedAll found ps s) :=
  (touches_foldl (fun s p => tileTest_frame found s p)).mpr (Touches.refl _ _)

/-- Each tile is tested as it stood before the slices, but for its read counter. -/
theorem getTile_testedAll {ps : List Nat} (hnd : ps.Nodup) (hlt : ∀ p ∈ ps, p < 4800) {p : Nat} (hp : p ∈ ps) :
    ∃ t, getTile t p = eccRead (getTile s p) ∧ ledgerWords t p = ledgerWords s p
      ∧ getTile (testedAll found ps s) p = getTile (resetSliced t p (foundOn found p)) p := by
  obtain ⟨before, after, rfl⟩ := List.append_of_mem hp
  obtain ⟨-, hafter, hdisj⟩ := List.nodup_append.mp hnd
  obtain ⟨hnot, -⟩ := List.nodup_cons.mp hafter
  refine ⟨sliceEcc (before.foldl (tileTest found) s) p, ?_, ?_, ?_⟩
  · rw [getTile_sliceEcc, getTile_modTile_same]
    exact congrArg eccRead (foldl_keeps_of_mem (π := fun s => getTile s p) (g := tileTest found) before
      (fun s b hb => getTile_tileTest_other found s (hdisj b hb p List.mem_cons_self).symm) s)
  · rw [ledgerWords_of_start sliceEcc_frame.start]
    exact foldl_keeps_of_mem (π := fun s => ledgerWords s p) (g := tileTest found) before
      (fun s b hb => ledgerWords_tileTest found s (hlt b (List.mem_append_left _ hb)) (hdisj b hb p List.mem_cons_self).symm) s
  · rw [testedAll, List.foldl_append, List.foldl_cons]
    exact foldl_keeps_of_mem (π := fun s => getTile s p) (g := tileTest found) after
      (fun s b hb => getTile_tileTest_other found s fun h => hnot (h ▸ hb)) _

/-- What a tile is after the slices of a reset. -/
structure TileTested (p : Nat) (s : State) (t : Tile) : Prop where
  memory : tileMemory t = tileMemory (getTile s p)
  pinned : (getTile s p).st = .pinfold → t.st = .pinfold
  failed : (getTile s p).st ≠ .pinfold → sliceFails s p (foundOn found p) = true → t.st = .pinfold ∧ t.hw.result = 3
  passed : (getTile s p).st ≠ .pinfold → sliceFails s p (foundOn found p) = false →
    t.st = (getTile s p).st
      ∧ t.hw.result = (if (foundOn found p).cols.isEmpty && (foundOn found p).words.isEmpty then 1 else 2)
      ∧ ∀ c ∈ (foundOn found p).cols, t.loom.failA = c ∨ t.loom.failB = c

theorem tileTested_testedAll {ps : List Nat} (hnd : ps.Nodup) (hlt : ∀ p ∈ ps, p < 4800) {p : Nat} (hp : p ∈ ps) :
    TileTested found p s (getTile (testedAll found ps s) p) := by
  obtain ⟨t, htile, hwords, heq⟩ := getTile_testedAll found s hnd hlt hp
  have hst : (getTile t p).st = (getTile s p).st := (congrArg Tile.st htile :)
  have hfails : sliceFails t p (foundOn found p) = sliceFails s p (foundOn found p) :=
    sliceFails_of_words (congrArg Tile.loom htile :) hwords _
  rw [heq]
  constructor
  · exact (tileMemory_resetSliced t p _).trans (congrArg tileMemory htile :)
  · exact fun h => resetSliced_pinned t p _ (hst.trans h)
  · exact fun h hf => resetSliced_failed t p _ (hst ▸ h) (hfails.trans hf)
  · intro h hf
    rw [← hst]
    exact resetSliced_passed t p _ (hst ▸ h) (hfails.trans hf)

end

/-! ## What the placing of a row keeps of its tiles -/

/-- A tile without its place, but with its last slice's outcome. -/
def tileSettled (t : Tile) : Tile := { t with hw := { result := t.hw.result }, router := {} }

theorem tileSettled_tilePlaced (s : State) (p : Nat) (t : Tile) : tileSettled (tilePlaced s p t) = tileSettled t := by
  unfold tilePlaced
  dsimp only
  split <;> rfl

theorem tileSettled_placeRow (s : State) (r p : Nat) : tileSettled (getTile (placeRow s r) p) = tileSettled (getTile s p) := by
  rw [placeRow_eq]
  refine foldl_keeps (π := fun s => tileSettled (getTile s p)) (fun s k => ?_) _ _
  by_cases h : p = rowTile r k
  · rw [h, getTile_modTile_same, tileSettled_tilePlaced]
  · rw [getTile_modTile_other _ _ _ _ h]

theorem tileSettled_placeSpare (s : State) (r p : Nat) : tileSettled (getTile (placeSpare s r) p) = tileSettled (getTile s p) :=
  tileSettled_placeRow _ _ _

/-- A row placed after its tests. -/
def rowSpared (s : State) (r : Nat) : State :=
  if (upto 0 25).any (fun k => (getTile s (rowTile r k)).st == .pinfold) && (getTile s (holeTile s r)).st != .pinfold
  then placeSpare s r else placeRow s r

/-- A row with enough usable tiles or without cover. -/
def rowCovered (s : State) (r : Nat) : State := if rowNoCover s r then noCoverRow s (holeTile s r) else s

theorem rowTested_eq (s : State) (r : Nat) : rowTested s r = rowCovered (rowSpared (modRow s r (fun q => { q with suspects := [] })) r) r := rfl

theorem tileSettled_rowTested (s : State) (r p : Nat) : tileSettled (getTile (rowTested s r) p) = tileSettled (getTile s p) := by
  have hcovered : ∀ t : State, getTile (rowCovered t r) p = getTile t p := fun t => by
    unfold rowCovered
    split <;> rfl
  have hspared : ∀ t : State, tileSettled (getTile (rowSpared t r) p) = tileSettled (getTile t p) := fun t => by
    unfold rowSpared
    split
    · exact tileSettled_placeSpare t r p
    · exact tileSettled_placeRow t r p
  rw [rowTested_eq, hcovered, hspared, getTile_modRow]

theorem placeSpare_frame (s : State) (r : Nat) : Touches [.tiles, .rows] s (placeSpare s r) := by
  simp [placeSpare]

theorem rowTested_frame (s : State) (r : Nat) : Touches [.tiles, .rows, .parts, .inbox] s (rowTested s r) := by
  simp [rowTested, Touches.iff_of (placeSpare_frame _ _)]

theorem TileTested.of_settled {found : List TileFound} {p : Nat} {s : State} {t t' : Tile} (h : TileTested found p s t)
    (ht : tileSettled t' = tileSettled t) : TileTested found p s t' := by
  have hst : t'.st = t.st := (congrArg Tile.st ht :)
  have hres : t'.hw.result = t.hw.result := (congrArg (fun t => t.hw.result) ht :)
  have hloom : t'.loom = t.loom := (congrArg Tile.loom ht :)
  have hmem : tileMemory t' = tileMemory t := (congrArg tileMemory ht :)
  exact ⟨hmem.trans h.memory, fun hp => hst.trans (h.pinned hp), by rw [hst, hres]; exact h.failed, by rw [hst, hres, hloom]; exact h.passed⟩

end Sys2Proof.Machine
end

section
/-! SUPPORT. The resets of a context, of a partition and of the compute side clear their scope, and end (R391 to R395, R459). -/

-- One proof after another: threads that wait for each other count against the memory of the check.
set_option Elab.async false

namespace Sys2Proof.Machine

/-! ## Tiles cleared one by one -/

/-- A grid of numbers, each of which tells its row and its column. -/
theorem nodup_grid {a b : Nat} {f : Nat → Nat → Nat} (h : ∀ r k r' k', k < b → k' < b → f r k = f r' k' → r = r' ∧ k = k') :
    ((upto 0 a).flatMap (fun r => (upto 0 b).map (f r))).Nodup := by
  refine List.nodup_flatMap.mpr ⟨fun r _ => (nodup_upto 0 b).map_on ?_, (nodup_upto 0 a).imp fun {r r'} hne => ?_⟩
  · intro k hk k' hk' he
    exact (h r k r k' (by simpa using hk) (by simpa using hk') he).2
  · intro x hx hx'
    obtain ⟨k, hk, rfl⟩ := List.mem_map.mp hx
    obtain ⟨k', hk', he⟩ := List.mem_map.mp hx'
    exact hne (h r k r' k' (by simpa using hk) (by simpa using hk') he.symm).1

theorem nodup_partTiles (n : Nat) : (partTiles n).Nodup := by
  refine nodup_grid (f := fun r k => 100 * (16 * (n / 4) + r) + 25 * (n % 4) + k) fun r k r' k' hk hk' h => ?_
  omega

theorem nodup_allTiles : allTiles.Nodup := by
  refine nodup_grid (f := fun r k => 100 * r + k) fun r k r' k' hk hk' h => ?_
  omega

theorem partTiles_lt {n p : Nat} (hn : n < 12) (hp : p ∈ partTiles n) : p < 4800 := by
  simp only [partTiles, List.mem_flatMap, List.mem_map, mem_upto] at hp
  obtain ⟨r, hr, k, hk, rfl⟩ := hp
  omega

theorem mem_allTiles {p : Nat} : p ∈ allTiles ↔ p < 4800 := by
  simp only [allTiles, List.mem_flatMap, List.mem_map, mem_upto]
  constructor
  · rintro ⟨r, hr, k, hk, rfl⟩
    omega
  · intro hp
    exact ⟨p / 100, by omega, p % 100, by omega, by omega⟩

section
variable (f : Tile → Nat → Tile)

/-- Tiles changed, each at the cycle of the state. -/
def tilesAt (l : List Nat) (s : State) : State := l.foldl (fun s p => modTile s p (fun t => f t s.clk.cycles)) s

theorem tilesAt_frame (l : List Nat) (s : State) : Touches [.tiles] s (tilesAt f l s) := by simp [tilesAt]

theorem getTile_tilesAt {l : List Nat} (hnd : l.Nodup) {p : Nat} (hp : p ∈ l) (s : State) :
    getTile (tilesAt f l s) p = f (getTile s p) s.clk.cycles := by
  obtain ⟨t, ht, heq⟩ := foldl_at (π := fun s => (getTile s p, s.clk.cycles)) (g := fun s p => modTile s p (fun t => f t s.clk.cycles)) (k := p)
    (fun s q hq => by rw [getTile_modTile_other _ _ _ _ hq.symm]; rfl) hnd hp s
  have htile : getTile t p = getTile s p := (congrArg Prod.fst ht :)
  have hclk : t.clk.cycles = s.clk.cycles := (congrArg Prod.snd ht :)
  refine (congrArg Prod.fst heq).trans ((getTile_modTile_same _ _ _).trans ?_)
  rw [htile, hclk]

theorem getTile_tilesAt_other {l : List Nat} {p : Nat} (hp : p ∉ l) (s : State) : getTile (tilesAt f l s) p = getTile s p :=
  foldl_keeps_of_mem (π := fun s => getTile s p) (g := fun s p => modTile s p (fun t => f t s.clk.cycles)) l
    (fun _ _ hq => getTile_modTile_other _ _ _ _ fun h => hp (h ▸ hq)) s

end

/-! ## The mill queues of a context -/

/-- A stack without the work of a context. -/
def millsDropped (n : Nat) (q : Stack) : Stack :=
  { q with queues := kvSet [] q.queues n [], running := kvSet none q.running n none, slotQ := q.slotQ.filter (fun x => x.1 != n) }

theorem dropMills_eq (s : State) (n : Nat) :
    dropMills s n = (upto 0 8).foldl (fun s k => modStack s k (millsDropped n)) (fetchesDrop s (fun m => m == n)) := rfl

theorem dropMills_frame (s : State) (n : Nat) : Touches [.mems] s (dropMills s n) := by simp [dropMills, fetchesDrop]

theorem getStack_dropMills {n k : Nat} (s : State) (hk : k < 8) :
    kvGet [] (getStack (dropMills s n) k).queues n = [] ∧ kvGet none (getStack (dropMills s n) k).running n = none
      ∧ (getStack (dropMills s n) k).inq = (getStack s k).inq := by
  rw [dropMills_eq]
  obtain ⟨t, -, heq⟩ := foldl_at (π := fun s => getStack s k) (g := fun s k => modStack s k (millsDropped n)) (k := k)
    (fun s j hj => getStack_modStack_other _ _ _ _ hj.symm) (nodup_upto 0 8) (by simpa using hk) (fetchesDrop s (fun m => m == n))
  have hinq : ∀ (g : Nat → Stack → Stack), (∀ j q, (g j q).inq = q.inq) → ∀ s : State,
      (getStack ((upto 0 8).foldl (fun s j => modStack s j (g j)) s) k).inq = (getStack s k).inq := fun g hg s =>
    foldl_keeps (π := fun s => (getStack s k).inq) (g := fun s j => modStack s j (g j)) (fun s j => by
      by_cases h : k = j
      · rw [h, getStack_modStack_same, hg]
      · rw [getStack_modStack_other _ _ _ _ h]) _ _
  refine ⟨?_, ?_, ?_⟩
  · rw [heq, getStack_modStack_same]
    exact kvGet_kvSet_same [] (getStack t k).queues n []
  · rw [heq, getStack_modStack_same]
    exact kvGet_kvSet_same none (getStack t k).running n none
  · rw [hinq (fun _ => millsDropped n) (fun _ _ => rfl)]
    exact hinq (fun _ q => { q with
      remote := q.remote.filter (fun r => r.mill.isNone || !(r.part == n))
      fetched := q.fetched.filter (fun e => !(e.1 / Config.shareBolts == n)) }) (fun _ _ => rfl) s

/-! ## The reset of a context -/

/-- A context whose reset has cleared its tiles. -/
def ctxCleared (b : Nat) (p : Part) : Part :=
  { p with reset := some (17, b), loose := false, skipCc := 0, skipped := 0, halted := false, resumeIn := false }

theorem exec_contextReset {n b : Nat} {s : State} (hn : n < 12) (hreset : (getPart s n).reset = some (1, b)) :
    exec (.contextReset n) s = .next (modPart (tilesAt tileCtxReset (ctxTiles s n) (dropMills s n)) n (ctxCleared b)) := by
  change execContextReset n s = _
  unfold execContextReset
  rw [if_neg (not_not.mpr hn), hreset]
  rfl

theorem contextReset_clears {n b : Nat} {s : State} (hn : n < 12) (hreset : (getPart s n).reset = some (1, b)) :
    ∃ t, exec (.contextReset n) s = .next t ∧ t = { s with tiles := t.tiles, parts := t.parts, mems := t.mems }
      ∧ (getPart t n).reset = some (17, b) ∧ (∀ m, m ≠ n → getPart t m = getPart s m)
      ∧ (∀ p ∈ ctxTiles s n, (getTile t p).st = .idle ∧ (getTile t p).store.mem = [] ∧ (getTile t p).clerk.im = []
          ∧ (getTile t p).clerk.run = .held ∧ (getTile t p).stop = none ∧ (getTile t p).hw = (getTile s p).hw
          ∧ (getTile t p).loom.failA = (getTile s p).loom.failA)
      ∧ (∀ p, p ∉ ctxTiles s n → getTile t p = getTile s p)
      ∧ (∀ k, k < 8 → kvGet [] (getStack t k).queues n = [] ∧ kvGet none (getStack t k).running n = none
          ∧ (getStack t k).inq = (getStack s k).inq) := by
  have hclear := tilesAt_frame tileCtxReset (ctxTiles s n) (dropMills s n)
  have hdrop := dropMills_frame s n
  have hframe : Touches [.tiles, .parts, .mems] s (modPart (tilesAt tileCtxReset (ctxTiles s n) (dropMills s n)) n (ctxCleared b)) := by
    simpa using (hdrop.mono (by simp)).trans (hclear.mono (by simp))
  refine ⟨_, exec_contextReset hn hreset, hframe.eq_overlay, ?_, fun m hm => ?_, fun p hp => ?_, fun p hp => ?_, fun k hk => ?_⟩
  · rw [getPart_modPart_same]
    rfl
  · rw [getPart_modPart_other _ _ _ _ hm, hclear.getPart, hdrop.getPart]
  · have hst : (getTile s p).st ≠ .pinfold := by
      simp only [ctxTiles, List.mem_filter, Bool.and_eq_true, bne_iff_ne] at hp
      exact hp.2.2
    have hnd : (ctxTiles s n).Nodup := (nodup_partTiles n).filter _
    rw [getTile_modPart, getTile_tilesAt _ hnd hp, hdrop.getTile, hdrop.clk]
    exact ⟨by simp [tileCtxReset, tileReset, hst], rfl, rfl, rfl, rfl, rfl, rfl⟩
  · rw [getTile_modPart, getTile_tilesAt_other _ hp, hdrop.getTile]
  · rw [getStack_modPart, hclear.getStack]
    exact getStack_dropMills s hk

/-! ## The reset of a partition -/

/-- A partition whose reset has cleared it. -/
def partCleared (b : Nat) (p : Part) : Part :=
  { p with reset := some (19, b), trace := {}, patMap := [], loose := false, skipCc := 0, skipped := 0, halted := false }

/-- A partition's reset up to the tests of its tiles. -/
def partWiped (s : State) (n : Nat) : State := tilesAt tileFullReset (partTiles n) (dropMills s n)

/-- The tests of a list of tiles, where the pattern set may be run. -/
def slicedAll (found : List TileFound) (ps : List Nat) (s : State) : State := if setRuns s then testedAll found ps s else s

theorem sliceAll_eq_slicedAll (s : State) (ps : List Nat) (found : List TileFound) :
    sliceAll s ps found 3 resetFence = slicedAll found ps s := by
  rw [sliceAll_eq, slicedAll]
  cases setRuns s <;> rfl

theorem slicedAll_frame (found : List TileFound) (ps : List Nat) (s : State) : Touches [.tiles, .rows, .start, .inbox] s (slicedAll found ps s) := by
  unfold slicedAll
  split
  · exact testedAll_frame found s ps
  · exact Touches.refl _ _

/-- The rows of a reset placed after the tests. -/
def rowsTested (rs : List Nat) (s : State) : State := rs.foldl rowTested s

theorem rowsTested_frame (rs : List Nat) (s : State) : Touches [.tiles, .rows, .parts, .inbox] s (rowsTested rs s) :=
  (touches_foldl rowTested_frame).mpr (Touches.refl _ _)

theorem tileSettled_rowsTested (rs : List Nat) (s : State) (p : Nat) :
    tileSettled (getTile (rowsTested rs s) p) = tileSettled (getTile s p) :=
  foldl_keeps (π := fun s => tileSettled (getTile s p)) (fun s r => tileSettled_rowTested s r p) _ _

/-- A partition reset. -/
def partReset (s : State) (n b : Nat) (found : List TileFound) : State :=
  modPart (rowsTested (partRows n) (ringReset (slicedAll found (partTiles n) (partWiped s n)) n 2)) n (partCleared b)

theorem exec_partitionReset {n b : Nat} {s : State} (hn : n < 12) (hreset : (getPart s n).reset = some (3, b)) (found : List TileFound) :
    exec (.partitionReset n found) s = .next (withHealth s (partReset s n b found)) := by
  change execPartitionReset n found s = _
  unfold execPartitionReset
  rw [if_neg (not_not.mpr hn), hreset]
  dsimp only
  rw [sliceAll_eq_slicedAll]
  rfl

theorem ringReset_frame (s : State) (n cause : Nat) : Touches [.pages, .due] s (ringReset s n cause) := by
  have h := evPut_touches (modPage s n (fun q => { q with
    doorbell := 0, cmdCi := 0, rspPi := 0, rspCi := 0, evPi := 0, evCi := 0, evLost := 0, evGap := 0, evSeq := 0
    bad := false, resets := (q.resets + 1) % 256, cqPi := 0, cqCi := 0, held := [] })) n 6
  exact Touches.trans (by simp) (h _)

theorem getPage_ringReset (s : State) (n cause : Nat) :
    (getPage (ringReset s n cause) n).cmdCi = 0 ∧ (getPage (ringReset s n cause) n).rspPi = 0
      ∧ (getPage (ringReset s n cause) n).doorbell = 0
      ∧ (getPage (ringReset s n cause) n).resets = ((getPage s n).resets + 1) % 256 := by
  have hvec : ∀ u v, getPage (vecDue u v) n = getPage u n := fun _ _ => rfl
  simp [ringReset, evPut, hvec]

theorem getPage_modPart (s : State) (n m : Nat) (f : Part → Part) : getPage (modPart s n f) m = getPage s m := rfl

theorem tileMemory_of_settled {t t' : Tile} (h : tileSettled t' = tileSettled t) : tileMemory t' = tileMemory t :=
  Prod.ext (congrArg (fun t => t.store.mem) h :) (congrArg (fun t => t.clerk.im) h :)

theorem memory_empty {t : Tile} (h : tileMemory t = ([], [])) : t.store.mem = [] ∧ t.clerk.im = [] := Prod.mk.inj h

theorem st_of_settled {t t' : Tile} (h : tileSettled t' = tileSettled t) : t'.st = t.st := (congrArg Tile.st h :)

section
variable {n b : Nat} (s : State) (found : List TileFound)

theorem partWiped_frame (n : Nat) : Touches [.mems, .tiles] s (partWiped s n) :=
  ((dropMills_frame s n).mono (by simp)).trans ((tilesAt_frame _ _ _).mono (by simp))

theorem partReset_frame : Touches [.mems, .tiles, .rows, .start, .inbox, .pages, .due, .parts] s (partReset s n b found) := by
  simp [partReset, Touches.iff_of (rowsTested_frame _ _), Touches.iff_of (ringReset_frame _ _ _), Touches.iff_of (slicedAll_frame _ _ _),
    Touches.iff_of (partWiped_frame s n)]

theorem getPage_partReset : getPage (partReset s n b found) n = getPage (ringReset (slicedAll found (partTiles n) (partWiped s n)) n 2) n := by
  rw [partReset, getPage_modPart, (rowsTested_frame _ _).getPage]

theorem getTile_partWiped {p : Nat} (hp : p ∈ partTiles n) : getTile (partWiped s n) p = tileFullReset (getTile s p) s.clk.cycles := by
  rw [partWiped, getTile_tilesAt _ (nodup_partTiles n) hp, (dropMills_frame s n).getTile, (dropMills_frame s n).clk]

theorem tileSettled_partReset (p : Nat) :
    tileSettled (getTile (partReset s n b found) p) = tileSettled (getTile (slicedAll found (partTiles n) (partWiped s n)) p) := by
  rw [partReset, getTile_modPart, tileSettled_rowsTested, (ringReset_frame _ n 2).getTile]

theorem sliceFails_partWiped {p : Nat} (hp : p ∈ partTiles n) (f : SliceFound) :
    sliceFails (partWiped s n) p f = sliceFails s p f :=
  sliceFails_congr (congrArg (fun t => t.loom.failA) (getTile_partWiped s hp) :) (congrArg (fun t => t.loom.failB) (getTile_partWiped s hp) :)
    (partWiped_frame s n).start f

theorem setRuns_partWiped (n : Nat) : setRuns (partWiped s n) = setRuns s := by
  rw [setRuns, (partWiped_frame s n).start, congrArg Jtag.engine ((partWiped_frame s n) .jtag (by decide)), setRuns]

end

theorem foundOn_of_none {found : List TileFound} {p : Nat} (h : found.find? (fun f => f.1 == p) = none) : foundOn found p = {} := by
  rw [foundOn, h]
  rfl

theorem foundOn_of_some {found : List TileFound} {p : Nat} {f : TileFound} (h : found.find? (fun f => f.1 == p) = some f) :
    foundOn found p = { cols := f.2.1, words := f.2.2.1, other := f.2.2.2 } := by
  rw [foundOn, h]
  rfl

/-- A slice that finds nothing fails for a full ledger alone. -/
theorem sliceFails_of_clean {s : State} {p : Nat} (h : (ledgerWords s p).length ≤ 8) : sliceFails s p {} = false := by
  have hcols : newCols (getTile s p).loom [] = [] := rfl
  have hwords : newWords s p [] = [] := rfl
  simp [sliceFails, hcols, hwords, h]

/-- What a partition's reset leaves of a tile. -/
theorem partReset_tile {n b : Nat} (s : State) (found : List TileFound) (hn : n < 12) {p : Nat} (hp : p ∈ partTiles n) :
    (getTile (partReset s n b found) p).store.mem = [] ∧ (getTile (partReset s n b found) p).clerk.im = []
      ∧ ((getTile s p).st = .pinfold → (getTile (partReset s n b found) p).st = .pinfold)
      ∧ (setRuns s = false → (getTile s p).st ≠ .pinfold → (getTile (partReset s n b found) p).st = .idle)
      ∧ (setRuns s = true → TileTested found p (partWiped s n) (getTile (partReset s n b found) p)) := by
  have hset := tileSettled_partReset (b := b) s found (n := n) p
  have hwiped := getTile_partWiped s hp
  have hst : (getTile (partReset s n b found) p).st = (getTile (slicedAll found (partTiles n) (partWiped s n)) p).st := st_of_settled hset
  have hmem : tileMemory (getTile (partReset s n b found) p) = tileMemory (getTile (slicedAll found (partTiles n) (partWiped s n)) p) :=
    tileMemory_of_settled hset
  have hbare : tileMemory (getTile (partWiped s n) p) = ([], []) := by
    rw [hwiped]
    rfl
  cases hruns : setRuns s with
  | false =>
    have hsame : slicedAll found (partTiles n) (partWiped s n) = partWiped s n := by
      rw [slicedAll, setRuns_partWiped, hruns, if_neg Bool.false_ne_true]
    rw [hsame] at hst hmem
    obtain ⟨hstore, him⟩ := memory_empty (hmem.trans hbare)
    refine ⟨hstore, him, fun h => ?_, fun _ h => ?_, nofun⟩
    · rw [hst, hwiped]
      simp [tileFullReset, tileReset, h]
    · rw [hst, hwiped]
      simp [tileFullReset, tileReset, h]
  | true =>
    have htest : TileTested found p (partWiped s n) (getTile (partReset s n b found) p) := by
      refine TileTested.of_settled ?_ hset
      rw [slicedAll, setRuns_partWiped, hruns, if_pos rfl]
      exact tileTested_testedAll found _ (nodup_partTiles n) (fun q hq => partTiles_lt hn hq) hp
    obtain ⟨hstore, him⟩ := memory_empty (htest.memory.trans hbare)
    refine ⟨hstore, him, fun h => htest.pinned ?_, nofun, fun _ => htest⟩
    rw [hwiped]
    simp [tileFullReset, tileReset, h]

/-! ## The reset of the compute side -/

/-- A partition whose compute side restarts. -/
def partRestarted (p : Part) : Part :=
  { p with
    trace := traceClear p.trace, patMap := [], loose := false, skipCc := 0, skipped := 0, halted := false, scan := none, resumeAt := none, millMode := 0x30 }

/-- A stack whose mill restarts. -/
def stackRestarted (mems k : Nat) (q : Stack) : Stack :=
  ({ lost := q.lost || bitAt mems k, fenced := q.fenced, ucieUp := q.ucieUp, rowFix := q.rowFix } : Stack)

/-- All work of the compute side gone, its stacks, rows and tiles cleared. -/
def computeWiped (s : State) (mems : Nat) : State :=
  tilesAt tileLost allTiles ((upto 0 192).foldl (fun s r => modRow s r rowFreed)
    ((upto 0 8).foldl (fun s k => modStack s k (stackRestarted mems k))
      ((upto 0 12).foldl (fun s n => modPart (endLots (dropMills (assayDrop s n) n) n 0x0045) n partRestarted) s)))

/-- The compute side on again, with what the ledger says of it. -/
def computeLedgered (s : State) : State := ledgerStacks (ledgerTiles (computeDomains s .on))

/-- The domains of lost stacks off. -/
def lostOff (s : State) : State :=
  (upto 0 8).foldl (fun s k => if (getStack s k).lost then setDom (setDom s (60 + k) .off) (68 + k) .off else s) s

/-- Every row placed anew. -/
def rowsPlaced (s : State) : State := (upto 0 192).foldl (fun s r => rowTested (placeSpare s r) r) s

theorem computeRestart_eq (s : State) (mems : Nat) (found : List TileFound) :
    computeRestart s mems found = rowsPlaced (lostOff (slicedAll found allTiles (computeLedgered (computeWiped s mems)))) := by
  unfold computeRestart
  dsimp only
  rw [sliceAll_eq_slicedAll]
  rfl

/-- A module whose compute side has been reset. -/
def computeReset (s : State) (mems : Nat) (found : List TileFound) : State :=
  (upto 0 12).foldl (fun s n => modPart s n (fun p => { p with reset := some (20, s.clk.bell) }))
    (computeRestart (opsCancel s [1, 2, 3, 4] (2 ^ 32 - 1)) mems found)

theorem exec_moduleComputeReset {s : State} (h : s.reeve.computeReset = true) (mems : Nat) (found : List TileFound) :
    exec (.moduleComputeReset mems found) s = .next (withHealth s (computeReset s mems found)) := by
  change execModuleComputeReset mems found s = _
  unfold execModuleComputeReset
  simp only [h, Bool.not_true, Bool.false_eq_true, if_false, computeReset]

section
variable (s : State) (mems : Nat) (found : List TileFound)

theorem computeWiped_frame : Touches [.ops, .pages, .due, .parts, .inbox, .mems, .rows, .tiles] s (computeWiped s mems) := by
  have hstep : ∀ (t : State) n, Touches [.ops, .pages, .due, .parts, .inbox, .mems, .rows, .tiles] t
      (modPart (endLots (dropMills (assayDrop t n) n) n 0x0045) n partRestarted) := fun t n => by
    simp [Touches.iff_of (dropMills_frame _ _)]
  simp [computeWiped, Touches.iff_of (tilesAt_frame _ _ _), Touches.iff_of (hstep _ _)]

theorem ledgerTiles_frame : Touches [.tiles, .rows] s (ledgerTiles s) := by
  refine (touches_foldl fun s e => ?_).mpr (Touches.refl _ _)
  dsimp only
  split_ifs <;> simp

theorem ledgerStacks_frame : Touches [.mems] s (ledgerStacks s) := by
  refine (touches_foldl fun s e => ?_).mpr (Touches.refl _ _)
  dsimp only
  split_ifs <;> simp

theorem computeDomains_frame (v : DomSt) : Touches [.power] s (computeDomains s v) := by simp [computeDomains]

theorem computeLedgered_frame : Touches [.power, .tiles, .rows, .mems] s (computeLedgered s) := by
  simp [computeLedgered, Touches.iff_of (ledgerStacks_frame _), Touches.iff_of (ledgerTiles_frame _), Touches.iff_of (computeDomains_frame _ _)]

theorem lostOff_frame : Touches [.power] s (lostOff s) := by
  refine (touches_foldl fun s k => ?_).mpr (Touches.refl _ _)
  simp

theorem rowsPlaced_frame : Touches [.tiles, .rows, .parts, .inbox] s (rowsPlaced s) := by
  refine (touches_foldl fun s r => ?_).mpr (Touches.refl _ _)
  simp [Touches.iff_of (rowTested_frame _ _), Touches.iff_of (placeSpare_frame _ _)]

theorem computeRestart_frame : Touches [.ops, .pages, .due, .parts, .inbox, .mems, .rows, .tiles, .power, .start] s (computeRestart s mems found) := by
  rw [computeRestart_eq]
  simp [Touches.iff_of (rowsPlaced_frame _), Touches.iff_of (lostOff_frame _), Touches.iff_of (slicedAll_frame _ _ _),
    Touches.iff_of (computeLedgered_frame _), Touches.iff_of (computeWiped_frame _ _)]

theorem tileSettled_rowsPlaced (p : Nat) : tileSettled (getTile (rowsPlaced s) p) = tileSettled (getTile s p) :=
  foldl_keeps (π := fun s => tileSettled (getTile s p)) (fun s r => by rw [tileSettled_rowTested, tileSettled_placeSpare]) _ _

/-- A tile of a compute side that restarts: bare, and out of work or in the pinfold. -/
def TileBare (t : Tile) : Prop := tileMemory t = ([], []) ∧ (t.st = .idle ∨ t.st = .pinfold)

theorem TileBare.pinfold {t : Tile} (h : TileBare t) (cause : Nat) : TileBare (tileFenced cause t) := ⟨h.1, .inr rfl⟩

/-- The ledger fences tiles and maps columns out. -/
theorem ledgerTiles_tile {P : Tile → Prop} {p : Nat} (hloom : ∀ (t : Tile) (l : Loom), P t → P { t with loom := l })
    (hpin : ∀ t cause, P t → P (tileFenced cause t)) (h : P (getTile s p)) : P (getTile (ledgerTiles s) p) := by
  have hmod : ∀ (u : State) (q : Nat) (f : Tile → Tile), (∀ t, P t → P (f t)) → P (getTile u p) → P (getTile (modTile u q f) p) :=
    fun u q f hf hu => by
      by_cases hq : p = q
      · rw [hq, getTile_modTile_same]
        exact hf _ (hq ▸ hu)
      · rwa [getTile_modTile_other _ _ _ _ hq]
  have hpinned : ∀ (u : State) (q cause : Nat), P (getTile u p) → P (getTile (pinfoldTile u q cause) p) := fun u q cause hu =>
    hmod (modRow u (physProw q) _) q (tileFenced cause) (fun t ht => hpin t cause ht) hu
  unfold ledgerTiles
  induction s.start.ledger generalizing s with
  | nil => exact h
  | cons e es ih =>
    refine ih _ ?_
    dsimp only
    split_ifs
    · exact h
    · exact h
    · exact hmod _ _ _ (fun t ht => hloom t _ ht) h
    · exact hmod _ _ _ (fun t ht => hloom t _ ht) h
    · exact hpinned _ _ _ h
    · exact hpinned _ _ _ h
    · exact h

end

section
variable (s : State) (mems : Nat) (found : List TileFound) {p : Nat}

theorem getTile_computeWiped (hp : p < 4800) : getTile (computeWiped s mems) p = tileLost (getTile s p) s.clk.cycles := by
  have hparts : ∀ (t : State) n, Touches [.ops, .pages, .due, .parts, .inbox, .mems] t
      (modPart (endLots (dropMills (assayDrop t n) n) n 0x0045) n partRestarted) := fun t n => by simp [Touches.iff_of (dropMills_frame _ _)]
  have hbefore : Touches [.ops, .pages, .due, .parts, .inbox, .mems, .rows] s ((upto 0 192).foldl (fun s r => modRow s r rowFreed)
    ((upto 0 8).foldl (fun s k => modStack s k (stackRestarted mems k))
      ((upto 0 12).foldl (fun s n => modPart (endLots (dropMills (assayDrop s n) n) n 0x0045) n partRestarted) s))) := by
    simp [Touches.iff_of (hparts _ _)]
  rw [computeWiped, getTile_tilesAt _ nodup_allTiles (mem_allTiles.mpr hp), hbefore.getTile, hbefore.clk]

theorem tileBare_slicedAll (hp : p < 4800) (h : TileBare (getTile s p)) : TileBare (getTile (slicedAll found allTiles s) p) := by
  unfold slicedAll
  split
  · have ht := tileTested_testedAll found s nodup_allTiles (fun q hq => mem_allTiles.mp hq) (mem_allTiles.mpr hp)
    refine ⟨ht.memory.trans h.1, ?_⟩
    by_cases hpin : (getTile s p).st = .pinfold
    · exact .inr (ht.pinned hpin)
    · cases hfails : sliceFails s p (foundOn found p) with
      | true => exact .inr (ht.failed hpin hfails).1
      | false => exact .inl ((ht.passed hpin hfails).1.trans (h.2.resolve_right hpin))
  · exact h

theorem pinfold_slicedAll (hp : p < 4800) (h : (getTile s p).st = .pinfold) : (getTile (slicedAll found allTiles s) p).st = .pinfold := by
  unfold slicedAll
  split
  · exact (tileTested_testedAll found s nodup_allTiles (fun q hq => mem_allTiles.mp hq) (mem_allTiles.mpr hp)).pinned h
  · exact h

theorem TileBare.of_settled {t t' : Tile} (h : TileBare t) (ht : tileSettled t' = tileSettled t) : TileBare t' :=
  ⟨(tileMemory_of_settled ht).trans h.1, by rw [st_of_settled ht]; exact h.2⟩

theorem tileSettled_computeRestart (p : Nat) : tileSettled (getTile (computeRestart s mems found) p)
    = tileSettled (getTile (slicedAll found allTiles (computeLedgered (computeWiped s mems))) p) := by
  rw [computeRestart_eq, tileSettled_rowsPlaced, (lostOff_frame _).getTile]

theorem getTile_computeLedgered : ∃ t, getTile t p = getTile s p ∧ getTile (computeLedgered s) p = getTile (ledgerTiles t) p :=
  ⟨computeDomains s .on, (computeDomains_frame s .on).getTile p, (ledgerStacks_frame _).getTile p⟩

theorem computeRestart_tile (hp : p < 4800) : TileBare (getTile (computeRestart s mems found) p)
    ∧ ((getTile s p).st = .pinfold → (getTile (computeRestart s mems found) p).st = .pinfold) := by
  have hset := tileSettled_computeRestart s mems found p
  have hwiped := getTile_computeWiped s mems hp
  obtain ⟨t, ht, hled⟩ := getTile_computeLedgered (computeWiped s mems) (p := p)
  refine ⟨TileBare.of_settled (tileBare_slicedAll _ found hp ?_) hset, fun hpin => (st_of_settled hset).trans (pinfold_slicedAll _ found hp ?_)⟩
  · rw [hled]
    refine ledgerTiles_tile t (P := TileBare) (fun _ _ h => h) (fun _ cause h => h.pinfold cause) ?_
    rw [ht, hwiped]
    refine ⟨rfl, ?_⟩
    by_cases hpin : (getTile s p).st = .pinfold
    · exact .inr (by simp [tileLost, tileReset, hpin])
    · exact .inl (by simp [tileLost, tileReset, hpin])
  · rw [hled]
    refine ledgerTiles_tile t (P := fun t => t.st = .pinfold) (fun _ _ h => h) (fun _ _ _ => rfl) ?_
    rw [ht, hwiped]
    simp [tileLost, tileReset, hpin]

/-- A stack without work. -/
def StackBare (q : Stack) : Prop := q.queues = [] ∧ q.running = [] ∧ q.inq = [] ∧ q.remote = []

theorem stackBare_modStack {u : State} {j k : Nat} {f : Stack → Stack} (hf : ∀ q, StackBare q → StackBare (f q)) (h : StackBare (getStack u k)) :
    StackBare (getStack (modStack u j f) k) := by
  by_cases hj : k = j
  · rw [hj, getStack_modStack_same]
    exact hf _ (hj ▸ h)
  · rwa [getStack_modStack_other _ _ _ _ hj]

theorem stackBare_ledgerStacks {k : Nat} (h : StackBare (getStack s k)) : StackBare (getStack (ledgerStacks s) k) := by
  unfold ledgerStacks
  induction s.start.ledger generalizing s with
  | nil => exact h
  | cons e es ih =>
    refine ih _ ?_
    dsimp only
    split_ifs
    · exact h
    · exact stackBare_modStack (fun _ hq => hq) h
    · exact stackBare_modStack (fun _ hq => hq) h
    · exact h

theorem stackBare_computeRestart {k : Nat} (hk : k < 8) : StackBare (getStack (computeRestart s mems found) k) := by
  have hwiped : StackBare (getStack (computeWiped s mems) k) := by
    have hrows : ∀ t : State, Touches [.rows] t ((upto 0 192).foldl (fun s r => modRow s r rowFreed) t) := fun t => by simp
    rw [computeWiped, (tilesAt_frame _ _ _).getStack, (hrows _).getStack]
    exact foldl_establishes (P := fun k s => StackBare (getStack s k)) (g := fun s k => modStack s k (stackRestarted mems k))
      (fun s j => by rw [getStack_modStack_same]; exact ⟨rfl, rfl, rfl, rfl⟩)
      (fun s j i h => stackBare_modStack (fun _ _ => ⟨rfl, rfl, rfl, rfl⟩) h) (upto 0 8) _ k (by simpa using hk)
  rw [computeRestart_eq, (rowsPlaced_frame _).getStack, (lostOff_frame _).getStack, (slicedAll_frame _ _ _).getStack]
  refine stackBare_ledgerStacks _ ?_
  rwa [(ledgerTiles_frame _).getStack, (computeDomains_frame _ _).getStack]

theorem domOn_computeRestart {d : Nat} (hd : d < 60) : domOn (computeRestart s mems found) d = true := by
  have hoff : ∀ t : State, domOn (lostOff t) d = domOn t d := fun t =>
    foldl_keeps (π := fun s => domOn s d) (fun s k => by
      split
      · rw [domOn_setDom_other _ _ _ _ (by omega), domOn_setDom_other _ _ _ _ (by omega)]
      · rfl) _ _
  rw [computeRestart_eq, (rowsPlaced_frame _).domOn, hoff, (slicedAll_frame _ _ _).domOn, computeLedgered, (ledgerStacks_frame _).domOn,
    (ledgerTiles_frame _).domOn, domOn_computeDomains (by omega)]

theorem computeReset_frame : Touches [.ops, .pages, .due, .parts, .inbox, .mems, .rows, .tiles, .power, .start] s (computeReset s mems found) := by
  simp [computeReset, Touches.iff_of (computeRestart_frame _ _ _)]

theorem computeReset_after : Touches [.parts] (computeRestart (opsCancel s [1, 2, 3, 4] (2 ^ 32 - 1)) mems found) (computeReset s mems found) := by
  unfold computeReset
  generalize computeRestart (opsCancel s [1, 2, 3, 4] (2 ^ 32 - 1)) mems found = u
  simp

theorem opsCancel_frame (kinds : List Nat) (mask : Nat) : Touches [.ops, .pages, .due] s (opsCancel s kinds mask) := by simp

theorem reset_computeReset {n : Nat} (hn : n < 12) : (getPart (computeReset s mems found) n).reset = some (20, s.clk.bell) := by
  have hops := opsCancel_frame s [1, 2, 3, 4] (2 ^ 32 - 1)
  obtain ⟨t, ht, heq⟩ := foldl_at (π := fun s => ((getPart s n).reset, s.clk)) (g := fun s n => modPart s n (fun p => { p with reset := some (20, s.clk.bell) }))
    (k := n) (fun s j hj => by rw [getPart_modPart_other _ _ _ _ hj.symm]; rfl) (nodup_upto 0 12) (by simpa using hn)
    (computeRestart (opsCancel s [1, 2, 3, 4] (2 ^ 32 - 1)) mems found)
  have hclk : t.clk = s.clk := (Prod.mk.inj ht).2.trans ((computeRestart_frame _ mems found).clk.trans hops.clk)
  rw [computeReset, (Prod.mk.inj heq).1, getPart_modPart_same, hclk]

end

/-! ## What serving at a stack keeps -/

/-- A partition without its lots. -/
def partLotless (p : Part) : Part := { p with lots := [] }

/-- The clock without its order of packets. -/
def clkStill (c : Clk) : Clk := { c with stamp := 0 }

/-- What tiles, ports, stacks and the memory do among themselves: of the partitions it changes the lots, of the clock the order of packets,
of the Reeve its events. -/
structure Serves (s t : State) : Prop where
  touches : Touches [.tiles, .rows, .clk, .inbox, .parts, .mems, .ports, .dram, .bolts, .fresh] s t
  part : ∀ n, partLotless (getPart t n) = partLotless (getPart s n)
  clk : clkStill t.clk = clkStill s.clk

namespace Serves
variable {s t u : State}

theorem refl (s : State) : Serves s s := ⟨Touches.refl _ s, fun _ => rfl, rfl⟩

theorem trans (h1 : Serves s t) (h2 : Serves t u) : Serves s u :=
  ⟨h1.touches.trans h2.touches, fun n => (h2.part n).trans (h1.part n), h2.clk.trans h1.clk⟩

theorem of_touches {F : List Fld} (h : Serves s t) (ht : Touches F t u) (hF : F ⊆ [.tiles, .rows, .inbox, .mems, .ports, .dram, .bolts, .fresh]) :
    Serves s u := by
  have hparts : Fld.parts ∉ F := fun hm => by simpa using hF hm
  have hclk : Fld.clk ∉ F := fun hm => by simpa using hF hm
  refine h.trans ⟨ht.mono fun x hx => ?_, fun n => congrArg partLotless (ht.getPart n hparts), congrArg clkStill (ht.clk hclk)⟩
  have := hF hx
  simp only [List.mem_cons, List.not_mem_nil, or_false] at this ⊢
  tauto

theorem foldl {β : Type} (h : Serves s t) {g : State → β → State} (hg : ∀ u b, Serves u (g u b)) {l : List β} : Serves s (l.foldl g t) :=
  h.trans (foldl_rel (R := Serves) refl trans hg l t)

theorem modTile (h : Serves s t) {p : Nat} {f : Tile → Tile} : Serves s (modTile t p f) :=
  h.of_touches (F := [.tiles]) (by simp) (by simp)

theorem setTile (h : Serves s t) {p : Nat} {v : Tile} : Serves s (setTile t p v) :=
  h.of_touches (F := [.tiles]) (by simp) (by simp)

theorem modRouter (h : Serves s t) {p : Nat} {f : Router → Router} : Serves s (modRouter t p f) := h.modTile

theorem modRow (h : Serves s t) {r : Nat} {f : Row → Row} : Serves s (modRow t r f) :=
  h.of_touches (F := [.rows]) (by simp) (by simp)

theorem modStack (h : Serves s t) {k : Nat} {f : Stack → Stack} : Serves s (modStack t k f) :=
  h.of_touches (F := [.mems]) (by simp) (by simp)

theorem modPort (h : Serves s t) {p : Nat} {f : Port → Port} : Serves s (modPort t p f) :=
  h.of_touches (F := [.ports]) (by simp) (by simp)

theorem sendEvent (h : Serves s t) {e : Event} : Serves s (sendEvent t e) :=
  h.of_touches (F := [.inbox]) (by simp) (by simp)

theorem reviseEvent (h : Serves s t) {e : Event} : Serves s (reviseEvent t e) :=
  h.of_touches (reviseEvent_frame t e) (by simp)

theorem modPart (h : Serves s t) {n : Nat} {f : Part → Part} (hf : ∀ q, partLotless (f q) = partLotless q := by intro q; rfl) :
    Serves s (modPart t n f) := by
  refine h.trans ⟨by simp, fun m => ?_, rfl⟩
  by_cases hm : m = n
  · rw [hm, getPart_modPart_same, hf]
  · rw [getPart_modPart_other _ _ _ _ hm]

theorem failLots (h : Serves s t) {n code bell cc : Nat} : Serves s (failLots t n code bell cc) := h.modPart

theorem cutLots (h : Serves s t) {n code bell cc : Nat} : Serves s (cutLots t n code bell cc) := h.failLots.modPart

theorem stackFail (h : Serves s t) {e : Event} : Serves s (stackFail t e) := h.sendEvent.failLots

theorem nextStamp (h : Serves s t) : Serves s (nextStamp t).2 :=
  h.trans ⟨(touches_nextStamp (by simp)).mpr (Touches.refl _ _), fun _ => rfl, rfl⟩

theorem applySigs (h : Serves s t) {p : Nat} {sigs : List Sig} : Serves s (applySigs t p sigs) := by
  refine h.trans ?_
  clear h
  fun_induction Machine.applySigs t p sigs
  case case1 => exact refl _
  case case2 ih => exact (refl _).sendEvent.failLots.trans ih
  case case3 ih => exact (refl _).sendEvent.trans ih
  case case4 ih => exact (refl _).reviseEvent.trans ih
  case case5 ih => exact (refl _).failLots.trans ih
  case case6 ih => exact (refl _).modTile.trans ih

theorem applyCtx (h : Serves s t) {c : Ctx} : Serves s (applyCtx t c) := h.setTile.applySigs

theorem keyDrop (h : Serves s t) {p port : Nat} {k : Packet} : Serves s (keyDrop t p port k) := by
  unfold Machine.keyDrop
  dsimp only
  split
  · exact h.modRouter.sendEvent.cutLots
  · exact h.modRouter.sendEvent

theorem ueReport (h : Serves s t) {p port : Nat} {k : Packet} {readable : Bool} : Serves s (ueReport t p port k readable) := by
  unfold Machine.ueReport
  dsimp only
  split
  · exact h.sendEvent.cutLots
  · exact h.sendEvent

theorem inputTake (h : Serves s t) {l input : Nat} {k : Packet} : Serves s (inputTake t l input k) := by
  unfold Machine.inputTake
  refine iteInduction (fun _ => h.nextStamp.modRouter) fun _ => iteInduction (fun _ => h.modRouter.ueReport) fun _ =>
    iteInduction (fun _ => h.keyDrop) fun _ => h.nextStamp.modRouter

theorem fillLocal (h : Serves s t) {p : Nat} : Serves s (fillLocal t p) := by
  unfold Machine.fillLocal
  refine iteInduction (fun _ => h) fun _ => h.foldl fun u v => ?_
  dsimp only
  split
  · exact iteInduction (fun _ => refl u) fun _ => (refl u).nextStamp.modRouter
  · exact refl u

theorem edgeFill (h : Serves s t) {l input vc : Nat} : Serves s (edgeFill t l input vc) := by
  unfold Machine.edgeFill
  refine iteInduction (fun _ => h) fun _ => iteInduction (fun _ => ?_) fun _ => iteInduction (fun _ => ?_) fun _ => h
  · dsimp only
    split
    · exact iteInduction (fun _ => h) fun _ => h.modStack.inputTake
    · exact h
  · dsimp only
    split
    · exact iteInduction (fun _ => h) fun _ => h.modPort.inputTake
    · exact h

theorem refill (h : Serves s t) {l input : Nat} : Serves s (refill t l input) := by
  unfold Machine.refill
  exact iteInduction (fun _ => h.fillLocal) fun _ => h.foldl fun u v => (refl u).edgeFill

theorem stackEmit (h : Serves s t) {n col : Nat} {ks : List Packet} : Serves s (stackEmit t n col ks) := h.modStack.refill

theorem answer (h : Serves s t) {n tile : Nat} {ks : List Packet} : Serves s (answer t n tile ks) := h.stackEmit

theorem serve (h : Serves s t) {k n b lines : Nat} : Serves s (serve t k n b lines) := by
  unfold Machine.serve
  exact h.modStack

theorem slotUsed (h : Serves s t) {k : Nat} : Serves s (slotUsed t k) := h.modStack

theorem boltPut (h : Serves s t) {n b : Nat} {bs : List Byte} {tally : Nat} : Serves s (boltPut t n b bs tally) :=
  h.of_touches (F := [.dram, .bolts]) (by simp [Machine.boltPut, touches_iff]) (by simp)

theorem fetchPut (h : Serves s t) {m n b : Nat} {f : MillFetch} : Serves s (fetchPut t m n b f) := h.modStack

theorem stackKeyCount (h : Serves s t) {k : Nat} : Serves s (stackKeyCount t k) := h.modStack

theorem stackKeyDrop (h : Serves s t) {k : Nat} {pk : Packet} : Serves s (stackKeyDrop t k pk) := by
  unfold Machine.stackKeyDrop
  dsimp only
  split
  · exact h.stackKeyCount.sendEvent.cutLots
  · exact h.stackKeyCount.sendEvent

theorem readLines (h : Serves s t) {k n b line corr : Nat} : Serves s (readLines t k n b line corr).2 := by
  unfold Machine.readLines
  dsimp only
  exact iteInduction (fun _ => h.modStack.serve) fun _ => h.modStack.serve.stackFail

theorem readServe (h : Serves s t) {k corr : Nat} {pk : Packet} : Serves s (readServe t k pk corr) := h.readLines.modStack.answer

theorem mergeServe (h : Serves s t) {k corr : Nat} {pk : Packet} : Serves s (mergeServe t k pk corr) := by
  unfold Machine.mergeServe
  exact iteInduction (fun _ => h.modStack.modStack) fun _ => iteInduction (fun _ => h.modStack.modStack) fun _ => h.modStack.readServe

theorem readTake (h : Serves s t) {k corr : Nat} {pk : Packet} : Serves s (readTake t k corr pk) := by
  unfold Machine.readTake
  exact iteInduction (fun _ => h.mergeServe) fun _ => h.readServe

theorem boltWrite (h : Serves s t) {k n b tally : Nat} {bs : List Byte} : Serves s (boltWrite t k n b tally bs) := by
  unfold Machine.boltWrite
  refine iteInduction (fun _ => h.modStack.stackFail) fun _ => iteInduction (fun _ => h.modStack.stackFail) fun _ =>
    iteInduction (fun _ => h.boltPut.serve.modStack) fun _ => h.boltPut.serve

theorem writeServe (h : Serves s t) {k : Nat} {pk : Packet} : Serves s (writeServe t k pk) := by
  unfold Machine.writeServe
  refine iteInduction (fun _ => h.modStack) fun _ => answer ?_
  exact iteInduction (fun _ => h.modStack) fun _ => h.modStack.boltWrite

theorem meshTake (h : Serves s t) {k : Nat} {pk : Packet} : Serves s (meshTake t k pk) := by
  unfold Machine.meshTake
  have hdrop : Serves s (inqDrop t k (fun x => x == pk)) := h.modStack
  refine iteInduction (fun _ => iteInduction (fun _ => hdrop.stackKeyDrop.answer) fun _ => hdrop.stackKeyDrop.answer) fun _ =>
    iteInduction (fun _ => hdrop.slotUsed.readTake) fun _ => hdrop.slotUsed.writeServe

theorem windowEnd (h : Serves s t) {k corr : Nat} {w : MergeWin} : Serves s (windowEnd t k corr w) := by
  unfold Machine.windowEnd
  have hread : Serves s (winRead t k corr w).2.2 := by
    unfold winRead
    split
    · exact h
    · exact h.readLines
  exact hread.modStack.foldl fun u g => (refl u).stackEmit

theorem boltSettle (h : Serves s t) {k key seq : Nat} {write : Bool} : Serves s (boltSettle t k key seq write) := by
  unfold Machine.boltSettle
  have htake := h.foldl (l := (getStack t k).inq.filter (fun x => x.born < seq && pkIs key x)) fun u pk => (refl u).meshTake (k := k) (pk := pk)
  exact iteInduction (fun _ => htake.foldl fun u w => (refl u).windowEnd) fun _ => htake

theorem partialWrite (h : Serves s t) {k : Nat} {r : Remote} : Serves s (partialWrite t k r) := by
  unfold Machine.partialWrite
  exact iteInduction (fun _ => h.modStack.sendEvent) fun _ => iteInduction (fun _ => h.modStack.sendEvent) fun _ => h.boltPut.serve

theorem fetchServe (h : Serves s t) {k m : Nat} {r : Remote} : Serves s (fetchServe t k m r) := by
  unfold Machine.fetchServe
  refine fetchPut ?_
  exact iteInduction (fun _ => h.modStack.serve) fun _ => h.modStack.serve.sendEvent

theorem remoteServe (h : Serves s t) {k : Nat} {r : Remote} : Serves s (remoteServe t k r) := by
  unfold Machine.remoteServe
  split
  · exact h.fetchServe
  · exact iteInduction (fun _ => h.partialWrite) fun _ => h.boltWrite

theorem remoteTurned (h : Serves s t) {r : Remote} : Serves s (remoteTurned t r) := by
  unfold Machine.remoteTurned
  split
  · exact h.fetchPut
  · exact h

theorem remoteTake (h : Serves s t) {k : Nat} {r : Remote} : Serves s (remoteTake t k r) := by
  unfold Machine.remoteTake
  exact iteInduction (fun _ => h.remoteTurned) fun _ => iteInduction (fun _ => h.stackKeyCount.sendEvent.remoteTurned) fun _ =>
    h.slotUsed.remoteServe

theorem remoteRun (h : Serves s t) {k n : Nat} : Serves s (remoteRun k n t) := by
  induction n generalizing t with
  | zero => exact h
  | succ n ih =>
    unfold Machine.remoteRun
    split
    · exact h
    · exact ih h.modStack.boltSettle.remoteTake

theorem spineTake (h : Serves s t) {counts : Bool} {n b line lines : Nat} : Serves s (spineTake t counts n b line lines) := by
  unfold Machine.spineTake
  refine iteInduction (fun _ => h) fun _ => ?_
  have hsettle : Serves s (Machine.boltSettle (Machine.remoteRun (boltStack (getPart t n).seed.toNat b)
    (getStack t (boltStack (getPart t n).seed.toNat b)).remote.length t) (boltStack (getPart t n).seed.toNat b) (boltKey n b) t.clk.stamp false) :=
    h.remoteRun.boltSettle
  have htaken : ∀ c : Bool, ∀ bad : Nat, ∀ k, ∀ u, Serves s u → Serves s (if c then Machine.serve (Machine.modStack (Machine.slotUsed u k) k
      (fun q => { q with eccUnc := satAdd 16 q.eccUnc bad })) k n b lines else Machine.slotUsed u k) := fun c bad k u hu =>
    iteInduction (fun _ => hu.slotUsed.modStack.serve) fun _ => hu.slotUsed
  exact iteInduction (fun _ => htaken counts _ _ _ hsettle) fun _ => (htaken counts _ _ _ hsettle).sendEvent

theorem spineRead (h : Serves s t) {counts : Bool} {n b line lines : Nat} : Serves s (spineRead t counts n b line lines).2.2 := by
  unfold Machine.spineRead
  dsimp only
  split
  · exact h.spineTake
  · exact h.spineTake

theorem shareTake (h : Serves s t) {n b count : Nat} : Serves s (shareTake t n b count) := h.foldl fun u _ => (refl u).spineTake

theorem loadDropsMig (h : Serves s t) {p : Nat} : Serves s (loadDropsMig t p) := by
  unfold Machine.loadDropsMig
  exact iteInduction (fun _ => h.modRow.modTile) fun _ => h

theorem imRest (h : Serves s t) {p : Nat} : Serves s (imRest t p) := by
  unfold Machine.imRest
  exact iteInduction (fun _ => h) fun _ => modTile (h.of_touches (F := [.fresh]) (by simp) (by simp))

theorem loadBank (h : Serves s t) {p k : Nat} {install : Bool} : Serves s (loadBank t p k install) := by
  unfold Machine.loadBank
  exact iteInduction (fun _ => h.loadDropsMig.applyCtx.imRest) fun _ => h.loadDropsMig.applyCtx

theorem boltLoad (h : Serves s t) {p n a b : Nat} : Serves s (boltLoad p n a b t) := h.spineRead.applyCtx

theorem boltsLoad (h : Serves s t) {p n a b count : Nat} : Serves s (boltsLoad p n a b count t) := h.foldl fun u _ => (refl u).boltLoad

theorem reloadEntry (h : Serves s t) {n : Nat} {e : List Byte} : Serves s (reloadEntry t n e) := by
  unfold Machine.reloadEntry bankFill
  exact h.boltsLoad.loadBank

theorem reloadWeight (h : Serves s t) {n : Nat} {e : List Byte} : Serves s (reloadWeight t n e) := by
  unfold Machine.reloadWeight
  dsimp only
  split
  · exact h.boltsLoad
  · exact h

theorem lotList (h : Serves s t) {n : Nat} {l : Lot} : Serves s (lotList t n l).2 := by
  unfold Machine.lotList
  split
  · exact h
  · exact h.shareTake

theorem reloadList (h : Serves s t) {n : Nat} : Serves s (reloadList t n).2 := by
  unfold Machine.reloadList
  dsimp only
  split
  · exact h
  · exact h.lotList

theorem reloadCtx (h : Serves s t) {n : Nat} : Serves s (reloadCtx t n) :=
  foldl (reloadList (foldl (foldl h fun u _ => (refl u).reloadEntry) fun u _ => (refl u).modTile)) fun u _ => (refl u).reloadWeight

theorem changes (h : Serves s t) : t.reeve.changes = s.reeve.changes := h.touches.changes
theorem nextChange (h : Serves s t) : t.reeve.nextChange = s.reeve.nextChange := (congrArg Reeve.nextChange (h.touches.reeve) :)
theorem reset (h : Serves s t) (n : Nat) : (getPart t n).reset = (getPart s n).reset := (congrArg Part.reset (h.part n) :)

end Serves

/-! ## The end of a reset -/

/-- A context past its reset. -/
def resetPast (s : State) (n lvl : Nat) (f : Part → Part) : State := resetNote (modPart s n f) lvl n

theorem getPart_resetPast (s : State) (n lvl m : Nat) (f : Part → Part) : getPart (resetPast s n lvl f) m = getPart (modPart s n f) m := rfl

theorem resetPast_eq (s : State) (n lvl : Nat) (f : Part → Part) : ∃ rs, resetPast s n lvl f
    = { s with parts := (modPart s n f).parts, reeve := { s.reeve with resets := rs } } ∧ (lvl, n, s.clk.bell) ∈ rs :=
  ⟨s.reeve.resets.filter (fun q => s.clk.bell ≤ q.2.2 + 1024) ++ [(lvl, n, s.clk.bell)], rfl, by simp⟩

/-- A partition out of its reset. -/
def partBack (p : Part) : Part := { p with reset := none }

theorem exec_resetComplete_ctx {n b : Nat} {s : State} (hn : n < 12) (hreset : (getPart s n).reset = some (17, b)) :
    exec (.resetComplete n) s =
      if (getPart s n).patMap.isEmpty then .next (resetPast s n 1 partBack)
      else match reloadBad s n with
      | some q => .next (withHealth s (beginReset (reloadTwice s n q) n 3 0x0044))
      | none => if loadsDeferred s then .next s
      else match stageClash s 0x10 (2 ^ n) with
        | none => .next (newChange (reloadCtx (resetPast s n 1 partBack) n) 0x10 (2 ^ n) (s.clk.bell + 2) 16 []).2
        | some c => if c.kind == 0x10 && !c.evaluated then .next (reloadCtx (resetPast s n 1 partBack) n) else .next s := by
  change execResetComplete n s = _
  unfold execResetComplete
  rw [if_neg (by simp; omega), if_neg (not_not.mpr hn), hreset]
  rfl

/-- A context reloaded, and its activation staged two bells on. -/
def reloadStaged (s : State) (n : Nat) : State :=
  (newChange (reloadCtx (resetPast s n 1 partBack) n) 0x10 (2 ^ n) (s.clk.bell + 2) 16 []).2

/-- A partition out of its reset, its cover judged in a state. -/
def partCovered (s : State) (n : Nat) (p : Part) : Part := { p with reset := none, noCover := (partRows n).any (rowNoCover s) }

theorem exec_resetComplete_part {n b : Nat} {s : State} (hn : n < 12) (hreset : (getPart s n).reset = some (19, b)) :
    exec (.resetComplete n) s = .next (withHealth s (resetPast s n 5 (partCovered s n))) := by
  change execResetComplete n s = _
  unfold execResetComplete
  rw [if_neg (by simp; omega), if_neg (not_not.mpr hn), hreset]
  rfl

theorem getLast_changesTrim (cs : List Change) (c : Change) : (changesTrim (cs ++ [c])).getLast? = some c := by
  rw [changesTrim, List.zipIdx_append, List.filterMap_append, List.getLast?_append]
  simp

/-- A partition after the compute reset of its module, its cover judged in a state. -/
def partRestored (s : State) (k : Nat) (p : Part) : Part :=
  { p with reset := none, lost := false, noCover := (partRows k).any (rowNoCover s) }

def partsRestored (s : State) : State := (upto 0 12).foldl (fun s k => modPart s k (partRestored s k)) s

/-- A port that is fenced no more. -/
def portFreed (q : Port) : Port := { q with fenced := false }

def portsFreed (s : State) : State := (upto 0 32).foldl (fun s p => modPort s p portFreed) s

/-- The compute reset over. -/
def computeOver (s : State) : State := resetNote (modReeve s (fun r => { r with computeReset := false })) 6 0

theorem getLast_newChange (s : State) (kind parts target page : Nat) (value : List Byte) :
    (newChange s kind parts target page value).2.reeve.changes.getLast?
      = some { id := s.reeve.nextChange, kind := kind, parts := parts, target := target, value := value, page := page } :=
  getLast_changesTrim _ _

theorem getPart_newChange (s : State) (kind parts target page n : Nat) (value : List Byte) :
    getPart (newChange s kind parts target page value).2 n = getPart s n := rfl

/-- The module out of its compute reset. -/
def computeBack (s : State) : State := computeOver (portsFreed (partsRestored s))

theorem exec_resetComplete_module {s : State} (h : s.reeve.computeReset = true) (hall : ∀ n, n < 12 → ∃ b, (getPart s n).reset = some (20, b)) :
    exec (.resetComplete 12) s = .next (withHealth s (computeBack s)) := by
  change execResetComplete 12 s = _
  have hboth : (s.reeve.computeReset && (upto 0 12).all (fun k => (getPart s k).reset.any (fun r => r.1 == 20))) = true := by
    simp only [h, Bool.true_and, List.all_eq_true, mem_upto]
    intro k hk
    obtain ⟨b, hb⟩ := hall k (by omega)
    simp [hb]
  unfold execResetComplete
  rw [if_pos (by simp), if_pos hboth]
  unfold computeBack computeOver portsFreed partsRestored
  rfl

theorem exec_resetComplete_idle {n : Nat} {s : State} (hn : n < 12)
    (h : ∀ b, (getPart s n).reset ≠ some (17, b) ∧ (getPart s n).reset ≠ some (19, b)) : exec (.resetComplete n) s = .next s := by
  change execResetComplete n s = _
  unfold execResetComplete
  rw [if_neg (by simp; omega), if_neg (not_not.mpr hn)]
  split
  · exact absurd ‹_› (h _).1
  · exact absurd ‹_› (h _).2
  · rfl

theorem reeve_of_touches_parts {s t : State} (h : Touches [.parts, .ports] s t) : t.reeve = s.reeve := (congrArg State.reeve h.eq_overlay :)

/-- A row's cover rests on its tiles and the pattern maps. -/
theorem rowNoCover_modPart (s : State) (n : Nat) (f : Part → Part) (hf : ∀ q, (f q).patMap = q.patMap) : rowNoCover (modPart s n f) = rowNoCover s := by
  have hpat : ∀ m, (getPart (modPart s n f) m).patMap = (getPart s m).patMap := fun m => by
    by_cases h : m = n
    · rw [h, getPart_modPart_same, hf]
    · rw [getPart_modPart_other _ _ _ _ h]
  have hmap : ∀ m r, mapFull (modPart s n f) m r = mapFull s m r := fun _ _ => rfl
  have hfull : rowFull (modPart s n f) = rowFull s := funext fun r => by simp only [rowFull, hpat, hmap, getTile_modPart]
  have husable : tileUsable (modPart s n f) = tileUsable s := funext fun p => by simp only [tileUsable, hfull, getTile_modPart]
  funext r
  rw [rowNoCover, husable, rowNoCover]

section
variable (s : State)

theorem partsRestored_frame : Touches [.parts] s (partsRestored s) := by simp [partsRestored]

theorem portsFreed_frame : Touches [.ports] s (portsFreed s) := by simp [portsFreed]

theorem computeOver_frame : Touches [.pages, .inbox, .ops, .changes, .reeve] s (computeOver s) := by simp [computeOver, resetNote]

theorem reeve_computeOver : (computeOver s).reeve = { s.reeve with computeReset := false, resets := (computeOver s).reeve.resets }
    ∧ (6, 0, s.clk.bell) ∈ (computeOver s).reeve.resets := by
  have hnote : (computeOver s).reeve.resets = s.reeve.resets.filter (fun q => s.clk.bell ≤ q.2.2 + 1024) ++ [(6, 0, s.clk.bell)] := rfl
  refine ⟨rfl, ?_⟩
  rw [hnote]
  exact List.mem_append_right _ (List.mem_singleton_self _)

theorem reeve_computeBack : (computeBack s).reeve = { s.reeve with computeReset := false, resets := (computeBack s).reeve.resets }
    ∧ (6, 0, s.clk.bell) ∈ (computeBack s).reeve.resets := by
  have hframe : Touches [.parts, .ports] s (portsFreed (partsRestored s)) :=
    ((partsRestored_frame s).mono (by simp)).trans ((portsFreed_frame _).mono (by simp))
  have hreeve := reeve_of_touches_parts hframe
  have h := reeve_computeOver (portsFreed (partsRestored s))
  rw [hreeve, hframe.clk] at h
  exact h

variable {s}

theorem getPart_computeBack {n : Nat} (hn : n < 12) : getPart (computeBack s) n = partRestored s n (getPart s n) := by
  obtain ⟨t, ht, heq⟩ := foldl_at (π := fun s => (getPart s n, rowNoCover s)) (g := fun s k => modPart s k (partRestored s k))
    (k := n) (fun u j hj => by rw [getPart_modPart_other _ _ _ _ hj.symm, rowNoCover_modPart _ _ (partRestored u j) fun _ => rfl]) (nodup_upto 0 12) (by simpa using hn) s
  obtain ⟨hpart, hrows⟩ := Prod.mk.inj ht
  rw [computeBack, (computeOver_frame _).getPart, (portsFreed_frame _).getPart, partsRestored, (Prod.mk.inj heq).1, getPart_modPart_same,
    partRestored, hpart, hrows, partRestored]

theorem getPort_computeBack {p : Nat} (hp : p < 32) : getPort (computeBack s) p = portFreed (getPort s p) := by
  obtain ⟨t, ht, heq⟩ := foldl_at (π := fun s => getPort s p) (g := fun s p => modPort s p portFreed)
    (k := p) (fun u j hj => getPort_modPort_other _ _ _ _ hj.symm) (nodup_upto 0 32) (by simpa using hp) (partsRestored s)
  rw [computeBack, (computeOver_frame _).getPort, portsFreed, heq, getPort_modPort_same, ht, (partsRestored_frame s).getPort]

theorem tiles_computeBack : (computeBack s).tiles = s.tiles :=
  (computeOver_frame _).tiles.trans ((portsFreed_frame _).tiles.trans (partsRestored_frame s).tiles)

end

/-- Settles O45: contexts by `contextReset_clears`, partitions by `partReset_tile`, the compute side by `computeRestart_tile`, and the
ends of resets by what `Serves` keeps of a partition through a reload. -/
theorem resetsClearAndComplete : Obligations.ResetsClearAndComplete := by
  refine ⟨⟨fun n b s hn hreset => contextReset_clears hn hreset, fun n s hn => ⟨fun h => ?noctx, fun h found => ?nopart, exec_resetComplete_idle hn⟩,
      fun s h => ?nomodule, fun n b found s hn hreset => ?part, fun mems found s h => ?compute, fun mems found s h => ?nocompute⟩,
    fun n b s hn hreset => ⟨fun hmap => ?unmapped, fun q hmap hbad => ?bad, fun c hmap hbad hdefer hclash => ?clash,
      fun hmap hbad hdefer => ?deferred, fun hmap hbad hdefer hclash => ?staged⟩,
    fun n b s hn hreset => ?partEnds, fun s h hall => ?moduleEnds⟩
  case noctx =>
    change execContextReset n s = _
    unfold execContextReset
    rw [if_neg (not_not.mpr hn)]
    split
    · exact absurd ‹_› (h _)
    · rfl
  case nopart =>
    change execPartitionReset n found s = _
    unfold execPartitionReset
    rw [if_neg (not_not.mpr hn)]
    split
    · exact absurd ‹_› (h _)
    · rfl
  case nomodule =>
    change execResetComplete 12 s = _
    unfold execResetComplete
    rw [if_pos (by simp), h, Bool.false_and, if_neg Bool.false_ne_true]
  case part =>
    have hframe := partReset_frame (n := n) (b := b) s found
    have hpart : getPart (partReset s n b found) n = partCleared b (getPart (rowsTested (partRows n)
        (ringReset (slicedAll found (partTiles n) (partWiped s n)) n 2)) n) := getPart_modPart_same _ _ _
    have hpage : getPage (slicedAll found (partTiles n) (partWiped s n)) n = getPage s n := by
      rw [(slicedAll_frame _ _ _).getPage, (partWiped_frame s n).getPage]
    obtain ⟨hci, hpi, hbell, hresets⟩ := getPage_ringReset (slicedAll found (partTiles n) (partWiped s n)) n 2
    rw [hpage] at hresets
    refine ⟨_, exec_partitionReset hn hreset found, ?_, ?_, ?_, ?_, ?_, ?_, ?_, fun p hp => ?_, hframe.dram, hframe.ports, hframe.clk⟩
    · rw [hpart]
      rfl
    · rw [hpart]
      rfl
    · rw [hpart]
      rfl
    · rw [getPage_partReset, hci]
    · rw [getPage_partReset, hpi]
    · rw [getPage_partReset, hbell]
    · rw [getPage_partReset, hresets]
    · obtain ⟨hmem, him, hpin, hidle, htest⟩ := partReset_tile (b := b) s found hn hp
      have hst : (getTile s p).st ≠ .pinfold → (getTile (partWiped s n) p).st = .idle := fun h => by
        rw [getTile_partWiped s hp]
        simp [tileFullReset, tileReset, h]
      refine ⟨hmem, him, hpin, hidle, fun hruns hout => ⟨fun hnone hroom => ?_, fun f hsome => ⟨fun hfails => ?_, fun hpass => ?_⟩⟩⟩
      · have hclean : sliceFails (partWiped s n) p (foundOn found p) = false := by
          rw [sliceFails_partWiped s hp, foundOn_of_none hnone, sliceFails_of_clean hroom]
        obtain ⟨hst', hres, -⟩ := (htest hruns).passed (by rw [hst hout]; nofun) hclean
        rw [foundOn_of_none hnone] at hres
        exact ⟨hst'.trans (hst hout), hres⟩
      · exact (htest hruns).failed (by rw [hst hout]; nofun) (by rw [sliceFails_partWiped s hp, foundOn_of_some hsome, hfails])
      · obtain ⟨hst', hres, hcols⟩ := (htest hruns).passed (by rw [hst hout]; nofun)
          (by rw [sliceFails_partWiped s hp, foundOn_of_some hsome, hpass])
        rw [foundOn_of_some hsome] at hres hcols
        exact ⟨hst'.trans (hst hout), hres, hcols⟩
  case compute =>
    have hframe := computeReset_frame s mems found
    have hops := opsCancel_frame s [1, 2, 3, 4] (2 ^ 32 - 1)
    have hafter := computeReset_after s mems found
    refine ⟨_, exec_moduleComputeReset h mems found, fun n hn => reset_computeReset s mems found hn, fun d hd => ?_, fun p hp => ?_, fun k hk => ?_,
      hframe.dram, hframe.ports, hframe.clk⟩
    · rw [hafter.domOn, domOn_computeRestart _ _ _ hd]
    · rw [hafter.getTile]
      obtain ⟨⟨hbare, hst⟩, hpin⟩ := computeRestart_tile (opsCancel s [1, 2, 3, 4] (2 ^ 32 - 1)) mems found hp
      rw [hops.getTile] at hpin
      exact ⟨(memory_empty hbare).1, (memory_empty hbare).2, hst, hpin⟩
    · rw [hafter.getStack]
      exact stackBare_computeRestart _ mems found hk
  case nocompute =>
    change execModuleComputeReset mems found s = _
    unfold execModuleComputeReset
    rw [h]
    rfl
  case unmapped =>
    obtain ⟨rs, heq, hmem⟩ := resetPast_eq s n 1 partBack
    refine ⟨resetPast s n 1 partBack, ?_, by rw [heq], by rw [heq]; exact hmem, ?_, fun m hm => ?_⟩
    · rw [exec_resetComplete_ctx hn hreset, if_pos (by simp [hmap])]
    · rw [getPart_resetPast, getPart_modPart_same]
      rfl
    · rw [getPart_resetPast, getPart_modPart_other _ _ _ _ hm]
  case bad => rw [exec_resetComplete_ctx hn hreset, if_neg (by simpa using hmap), hbad]
  case clash =>
    have hrun : exec (.resetComplete n) s = if c.kind == 0x10 && !c.evaluated then .next (reloadCtx (resetPast s n 1 partBack) n) else .next s := by
      rw [exec_resetComplete_ctx hn hreset, if_neg (by simpa using hmap), hbad]
      simp only [hdefer, hclash, Bool.false_eq_true, if_false]
    refine ⟨fun hkind hev => ?_, fun h => ?_⟩
    · have hserves := (Serves.refl (resetPast s n 1 partBack)).reloadCtx (n := n)
      refine ⟨_, hrun.trans (if_pos (by simp [hkind, hev])), ?_, hserves.changes⟩
      rw [hserves.reset, getPart_resetPast, getPart_modPart_same]
      rfl
    · refine hrun.trans (if_neg ?_)
      obtain h | h := h
      · simp [h]
      · simp [h]
  case deferred => 
    rw [exec_resetComplete_ctx hn hreset, if_neg (by simpa using hmap), hbad]
    simp only [hdefer, if_true]
  case staged =>
    have hserves := (Serves.refl (resetPast s n 1 partBack)).reloadCtx (n := n)
    refine ⟨reloadStaged s n, ?_, ?_, _, getLast_newChange _ _ _ _ _ _, hserves.nextChange, rfl, rfl, rfl⟩
    · rw [exec_resetComplete_ctx hn hreset, if_neg (by simpa using hmap), hbad]
      simp only [hdefer, hclash, Bool.false_eq_true, if_false, reloadStaged]
    · rw [reloadStaged, getPart_newChange, hserves.reset, getPart_resetPast, getPart_modPart_same]
      rfl
  case partEnds =>
    obtain ⟨rs, heq, hmem⟩ := resetPast_eq s n 5 (partCovered s n)
    refine ⟨_, exec_resetComplete_part hn hreset, ?_, by rw [heq], by rw [heq]; exact hmem, ?_, fun m hm => ?_⟩
    · rw [getPart_resetPast, getPart_modPart_same]
      rfl
    · rw [getPart_resetPast, getPart_modPart_same]
      rfl
    · rw [getPart_resetPast, getPart_modPart_other _ _ _ _ hm]
  case moduleEnds =>
    obtain ⟨hreeve, hmem⟩ := reeve_computeBack s
    refine ⟨_, exec_resetComplete_module h hall, hreeve, hmem, fun n hn => ?_, fun p hp => getPort_computeBack hp,
      tiles_computeBack⟩
    rw [getPart_computeBack hn]
    exact ⟨rfl, rfl, rfl⟩

end Sys2Proof.Machine
end

section
/-! SUPPORT. Engine resets, the levels of a reset and the loss of the module (R388 to R399, R412). -/

-- One proof after another: threads that wait for each other count against the memory of the check.
set_option Elab.async false

namespace Sys2Proof.Machine

/-! ## The engine reset of a tile in the pinfold -/

theorem resetNote_frame (s : State) (lvl u : Nat) : Touches [.pages, .inbox, .ops, .changes, .reeve] s (resetNote s lvl u) := by simp [resetNote]

theorem slicePinned_frame (s : State) (p : Nat) (f : SliceFound) : Touches [.tiles, .start, .inbox] s (slicePinned s p f 3) := by
  unfold slicePinned sliceOutcome
  refine iteInduction (fun _ => ?_) fun _ => ?_
  · simp [sliceResult]
  · simpa [sliceResult] using sliceRepair_frame s p 3 f

/-- A slice that fails on a tile in the pinfold is noted, and its tile stays there for good. -/
theorem slicePinned_failed (s : State) (p : Nat) (f : SliceFound) (hfails : sliceFails s p f = true) :
    getTile (slicePinned s p f 3) p = { getTile s p with hw := { (getTile s p).hw with
        result := 3, partialRes := false, ageS := 0, cause := if causePermanent (getTile s p).hw.cause then (getTile s p).hw.cause else 1 } }
      ∧ (slicePinned s p f 3).start.ledger.length = s.start.ledger.length + (if causePermanent (getTile s p).hw.cause then 0 else 1) := by
  rw [slicePinned, sliceOutcome, hfails, if_pos rfl]
  refine ⟨?_, ?_⟩
  · rw [getTile_modTile_same]
    have hres := getTile_sliceResult_same s p 3
    split
    · rw [hres]
    · rw [getTile_failLedger, hres]
  · split
    · rfl
    · exact ledger_ledgerAdd _ _ _ _ _ _

theorem tileMemory_slicePinned (s : State) (p : Nat) (f : SliceFound) : tileMemory (getTile (slicePinned s p f 3) p) = tileMemory (getTile s p) := by
  refine tileMemory_sliceOutcome s p f _ fun s => ?_
  rw [getTile_modTile_same]
  split <;> rfl

theorem getTile_slicePinned_other {s : State} {p q : Nat} (f : SliceFound) (h : q ≠ p) : getTile (slicePinned s p f 3) q = getTile s q :=
  getTile_sliceOutcome_other s p f h _ fun s => getTile_slicePinned_fence s p h _

/-- A tile in the pinfold after its reset. -/
def pinReset (s : State) (p : Nat) : State := resetNote (modTile s p (fun t => tileEngineReset t s.clk.cycles)) 2 p

/-- A tile let out of the pinfold. -/
def pinLeft (s : State) (p : Nat) : State := modTile s p (fun t => { t with st := .idle })

/-- The row of a tile that has left the pinfold placed anew, and the cover of its partition judged. -/
def pinPlaced (s : State) (p : Nat) : State :=
  placeRow (modPart s (physPart p) (fun q => { q with
    noCover := (partRows (physPart p)).any (fun r => rowNoCover s r) && q.noCover })) (physProw p)

section
variable {p : Nat} {s : State} {found : List Nat × List (Nat × Nat) × Bool}

theorem exec_engineResetTile_pinfold (hp : p < 4800) (hpin : (getTile s p).st = .pinfold) {f : SliceFound}
    (hf : f = { cols := found.1, words := found.2.1, other := found.2.2 }) :
    exec (.engineResetTile p found) s
      = if !(setRuns s) then .next (pinReset s p)
        else if sliceFails (pinReset s p) p f || !(pinfoldLeaves s (getTile s p).hw.cause) then .next (slicePinned (pinReset s p) p f 3)
        else .next (withHealth s (pinPlaced (pinLeft (if causePermanent (getTile s p).hw.cause then ledgerClear (slicePinned (pinReset s p) p f 3) p
          else slicePinned (pinReset s p) p f 3) p) p)) := by
  subst hf
  change execEngineResetTile p found s = _
  unfold execEngineResetTile
  rw [if_neg (not_not.mpr (show p < tileCount from hp))]
  dsimp only
  rw [if_pos (beq_iff_eq.mpr hpin)]
  rfl

theorem getTile_pinReset_same : getTile (pinReset s p) p = tileEngineReset (getTile s p) s.clk.cycles := by
  rw [pinReset, (resetNote_frame _ _ _).getTile, getTile_modTile_same]

theorem getTile_pinReset_other {q : Nat} (h : q ≠ p) : getTile (pinReset s p) q = getTile s q := by
  rw [pinReset, (resetNote_frame _ _ _).getTile, getTile_modTile_other _ _ _ _ h]

theorem pinReset_frame : Touches [.tiles, .pages, .inbox, .ops, .changes, .reeve] s (pinReset s p) := by
  simp [pinReset, Touches.iff_of (resetNote_frame _ _ _)]

theorem sliceFails_pinReset (f : SliceFound) : sliceFails (pinReset s p) p f = sliceFails s p f :=
  sliceFails_congr (congrArg (fun t => t.loom.failA) getTile_pinReset_same :) (congrArg (fun t => t.loom.failB) getTile_pinReset_same :)
    pinReset_frame.start f

theorem st_pinReset (hpin : (getTile s p).st = .pinfold) : (getTile (pinReset s p) p).st = .pinfold := by
  rw [getTile_pinReset_same]
  simp [tileEngineReset, tileLost, tileReset, hpin]

theorem slicePinned_pinReset_frame (f : SliceFound) :
    Touches [.tiles, .start, .pages, .inbox, .ops, .changes, .reeve] s (slicePinned (pinReset s p) p f 3) :=
  (pinReset_frame.mono (by simp)).trans ((slicePinned_frame _ p f).mono (by simp))

theorem slicePinned_st (u : State) (f : SliceFound) (h : (getTile u p).st = .pinfold) : (getTile (slicePinned u p f 3) p).st = .pinfold := by
  have hres := resetSliced_pinned u p f h
  rwa [resetSliced, if_pos (beq_iff_eq.mpr h)] at hres

end

/-! ## Cleared ledger entries -/

/-- A ledger entry marked cleared. -/
def entryCleared (e : List Byte) : List Byte := patch e 5 (toLe 1 (setBit (fld e 5 1) 2))

theorem length_of_fld {e : List Byte} {a v : Nat} (h : fld e a 1 = v) (hv : v ≠ 0) : a < e.length := by
  by_contra hlen
  have hdrop : e.drop a = [] := List.drop_eq_nil_of_le (by omega)
  rw [fld, slice, hdrop] at h
  exact hv h.symm

theorem fld_patch_at {bs v : List Byte} {off : Nat} (hoff : off ≤ bs.length) : fld (patch bs off v) off v.length = leNat v := by
  have hlen : (bs.take off).length = off := by simp [hoff]
  have hmid := slice_append_mid (bs.take off) v (bs.drop (off + v.length))
  rw [hlen] at hmid
  rw [fld, patch, hmid]

theorem fld_patch_before {bs v : List Byte} {off a n : Nat} (hoff : off ≤ bs.length) (h : a + n ≤ off) : fld (patch bs off v) a n = fld bs a n := by
  have htake : ((patch bs off v).drop a).take n = (bs.drop a).take n := by
    rw [patch, List.append_assoc, List.drop_append_of_le_length (by simp; omega), List.take_append_of_le_length (by simp; omega), List.drop_take,
      List.take_take, Nat.min_eq_left (by omega)]
  rw [fld, slice, htake]
  rfl

theorem bitAt_entryCleared {e : List Byte} (h : fld e 4 1 = 1) : bitAt (fld (entryCleared e) 5 1) 2 = true := by
  have hlen := length_of_fld h (by decide)
  have hat := fld_patch_at (v := toLe 1 (setBit (fld e 5 1) 2)) (show 5 ≤ e.length from hlen)
  rw [toLe_length, leNat_toLe] at hat
  have hlt : fld e 5 1 < 256 := fld_lt e 5 1
  have hset := bitAt_setBit (fld e 5 1) 2
  rw [entryCleared, hat]
  unfold bitAt at hset ⊢
  simp only [beq_iff_eq] at hset ⊢
  omega

/-- In Service every entry that held a tile in the pinfold is marked cleared. -/
theorem ledgerClear_spec (s : State) (p : Nat) : ∀ e ∈ (ledgerClear s p).start.ledger, fld e 4 1 = 1 → fld e 0xC 4 = tileLoc p →
    bitAt (fld e 5 1) 2 = true := by
  intro e he hkind hloc
  have hledger : ∃ new, (ledgerClear s p).start.ledger
      = s.start.ledger.map (fun e => if fld e 4 1 == 1 && fld e 0xC 4 == tileLoc p then entryCleared e else e) ++ [new]
        ∧ fld new 5 1 = 4 := ⟨_, rfl, rfl⟩
  obtain ⟨new, hnew, hflags⟩ := hledger
  rw [hnew, List.mem_append, List.mem_map, List.mem_singleton] at he
  obtain ⟨e0, -, rfl⟩ | rfl := he
  · split at hkind
    · next hmine =>
      rw [if_pos hmine]
      exact bitAt_entryCleared (beq_iff_eq.mp (Bool.and_eq_true_iff.mp hmine).1)
    · next hmine =>
      rw [if_neg hmine] at hloc
      simp [hkind, hloc] at hmine
  · rw [hflags]
    rfl

/-! ## The engine reset of a spare -/

/-- What a slice and a reset read of a tile: its loom map, and whether it is in the pinfold. -/
def tilePin (t : Tile) : Nat × Nat × Bool := (t.loom.failA, t.loom.failB, t.st == .pinfold)

theorem tilePin_tileReset (t : Tile) (now : Nat) : tilePin (tileReset t now) = tilePin t := by
  unfold tilePin tileReset
  cases t.st <;> rfl

theorem tilePin_tileFullReset (t : Tile) (now : Nat) : tilePin (tileFullReset t now) = tilePin t := tilePin_tileReset t now

/-- A spare as its reset leaves it. -/
def tileSpared (now : Nat) (t : Tile) : Tile := { tileEngineReset t now with hw := { t.hw with role := 1, eccSeen := 0 } }

theorem tilePin_tileSpared (now : Nat) (t : Tile) : tilePin (tileSpared now t) = tilePin t :=
  tilePin_tileReset { t with hw := { t.hw with eccSeen := 0 } } now

/-- A spare reset. -/
def spareReset (s : State) (p : Nat) : State :=
  resetNote (modTile (rowAbandon s (physProw p)) p (tileSpared s.clk.cycles)) 2 p

section
variable {p : Nat} {s : State} {found : List Nat × List (Nat × Nat) × Bool}

theorem exec_engineResetTile_spare (hp : p < 4800) (hpin : (getTile s p).st ≠ .pinfold) (hrole : logOf s p = none) {f : SliceFound}
    (hf : f = { cols := found.1, words := found.2.1, other := found.2.2 }) :
    exec (.engineResetTile p found) s
      = .next (withHealth s (if setRuns s then sliceOutcome (spareReset s p) p f 3 (fun s p => failTile s p 1) else spareReset s p)) := by
  subst hf
  change execEngineResetTile p found s = _
  unfold execEngineResetTile
  rw [if_neg (not_not.mpr (show p < tileCount from hp))]
  dsimp only
  rw [if_neg (by simpa using hpin), if_pos (by simp [hrole])]
  rfl

theorem exec_engineResetTile_role (hp : p < 4800) (hpin : (getTile s p).st ≠ .pinfold) (hrole : (logOf s p).isSome = true) :
    exec (.engineResetTile p found) s = .next (withHealth s (engineTile s p)) := by
  change execEngineResetTile p found s = _
  unfold execEngineResetTile
  rw [if_neg (not_not.mpr (show p < tileCount from hp))]
  dsimp only
  rw [if_neg (by simpa using hpin), if_neg (by rw [Option.isNone_iff_eq_none]; exact Option.isSome_iff_ne_none.mp hrole)]

theorem tilePin_rowAbandon (r : Nat) : tilePin (getTile (rowAbandon s r) p) = tilePin (getTile s p) := by
  unfold rowAbandon
  dsimp only
  split
  · rw [getTile_modRow]
    by_cases h : p = holeTile s r
    · rw [h, getTile_modTile_same]
      exact tilePin_tileFullReset (getTile s (holeTile s r)) s.clk.cycles
    · rw [getTile_modTile_other _ _ _ _ h]
  · rfl

theorem spare_rowAbandon (r q : Nat) : (getRow (rowAbandon s r) q).spare = (getRow s q).spare := by
  unfold rowAbandon
  dsimp only
  split
  · by_cases h : q = r
    · rw [h, getRow_modRow_same, getRow_modTile]
    · rw [getRow_modRow_other _ _ _ _ h, getRow_modTile]
  · rfl

theorem getTile_spareReset : getTile (spareReset s p) p = tileSpared s.clk.cycles (getTile (rowAbandon s (physProw p)) p) := by
  rw [spareReset, (resetNote_frame _ _ _).getTile, getTile_modTile_same]

theorem tilePin_spareReset : tilePin (getTile (spareReset s p) p) = tilePin (getTile s p) := by
  rw [getTile_spareReset, ← tilePin_rowAbandon (physProw p)]
  exact tilePin_tileSpared _ _

theorem start_spareReset : (spareReset s p).start = s.start := by
  have h : Touches [.tiles, .rows, .pages, .inbox, .ops, .changes, .reeve] s (spareReset s p) := by
    simp [spareReset, Touches.iff_of (resetNote_frame _ _ _)]
  exact h.start

theorem sliceFails_spareReset (f : SliceFound) : sliceFails (spareReset s p) p f = sliceFails s p f := by
  obtain ⟨hA, hB⟩ := Prod.mk.inj tilePin_spareReset
  exact sliceFails_congr hA (Prod.mk.inj hB).1 start_spareReset f

theorem st_spareReset (hpin : (getTile s p).st ≠ .pinfold) :
    (getTile (spareReset s p) p).st = .idle ∧ tileMemory (getTile (spareReset s p) p) = ([], []) := by
  have hout : (getTile (rowAbandon s (physProw p)) p).st ≠ .pinfold := fun h => hpin (by
    have hp := (Prod.mk.inj (Prod.mk.inj (tilePin_rowAbandon (s := s) (p := p) (physProw p))).2).2
    rw [h] at hp
    exact beq_iff_eq.mp hp.symm)
  rw [getTile_spareReset]
  exact ⟨by simp [tileSpared, tileEngineReset, tileLost, tileReset, hout], rfl⟩

theorem logOf_spareReset : logOf (spareReset s p) p = logOf s p :=
  logOf_congr (by rw [spareReset, (resetNote_frame _ _ _).getRow, getRow_modTile, spare_rowAbandon])

/-- A spare whose slice fails goes to the pinfold. -/
theorem spareReset_failed (hpin : (getTile s p).st ≠ .pinfold) (hrole : logOf s p = none) {f : SliceFound} (hfails : sliceFails s p f = true) :
    (getTile (sliceOutcome (spareReset s p) p f 3 (fun s p => failTile s p 1)) p).st = .pinfold
      ∧ (getTile (sliceOutcome (spareReset s p) p f 3 (fun s p => failTile s p 1)) p).hw.cause = 1 := by
  have hst : (getTile (sliceResult (spareReset s p) p 3) p).st ≠ .pinfold := by
    rw [getTile_sliceResult_same]
    exact fun h => by rw [(st_spareReset hpin).1] at h; exact TileSt.noConfusion h
  have hlog : logOf (sliceResult (spareReset s p) p 3) p = none := (logOf_congr (congrArg Row.spare (getRow_modTile _ _ _ _))).trans (logOf_spareReset.trans hrole)
  rw [sliceOutcome, sliceFails_spareReset, hfails, if_pos rfl, failTile_of_spare hst hlog rfl, if_neg (by decide), tile_failLedger_pinfold]
  exact ⟨rfl, rfl⟩

end

/-! ## The engine reset of a mill -/

/-- What an answer at a stack's edge changes: tiles, the clock, events, lots, and of the stacks its own alone. -/
structure AtStack (k : Nat) (s t : State) : Prop where
  touches : Touches [.tiles, .clk, .inbox, .parts, .mems] s t
  other : ∀ j, j ≠ k → getStack t j = getStack s j

namespace AtStack
variable {k : Nat} {s t u : State}

theorem refl (s : State) : AtStack k s s := ⟨Touches.refl _ s, fun _ _ => rfl⟩

theorem trans (h1 : AtStack k s t) (h2 : AtStack k t u) : AtStack k s u :=
  ⟨h1.touches.trans h2.touches, fun j hj => (h2.other j hj).trans (h1.other j hj)⟩

theorem of_touches {F : List Fld} (h : AtStack k s t) (ht : Touches F t u) (hF : F ⊆ [.tiles, .clk, .inbox, .parts]) : AtStack k s u := by
  have hmems : Fld.mems ∉ F := fun hm => by simpa using hF hm
  refine h.trans ⟨ht.mono fun x hx => ?_, fun j _ => ht.getStack j hmems⟩
  have := hF hx
  simp only [List.mem_cons, List.not_mem_nil, or_false] at this ⊢
  tauto

theorem modStack (h : AtStack k s t) {f : Stack → Stack} : AtStack k s (modStack t k f) :=
  h.trans ⟨by simp, fun j hj => getStack_modStack_other _ _ _ _ hj⟩

theorem foldl {β : Type} (h : AtStack k s t) {g : State → β → State} (hg : ∀ u b, AtStack k u (g u b)) {l : List β} : AtStack k s (l.foldl g t) :=
  h.trans (foldl_rel (R := AtStack k) refl trans hg l t)

theorem edgeFill (h : AtStack k s t) {row col input vc : Nat} (hcol : col < 96) (hedge : row = 0 ∧ input = 1 ∨ row = 47 ∧ input = 2)
    (hk : (if row = 0 then 0 else 4) + col / 24 = k) : AtStack k s (edgeFill t (96 * row + col) input vc) := by
  have hrow : (96 * row + col) / 96 = row := by omega
  have hc : (96 * row + col) % 96 = col := by omega
  have hin : (input == 1 && row == 0 || input == 2 && row == 47) = true := by
    obtain ⟨rfl, rfl⟩ | ⟨rfl, rfl⟩ := hedge <;> rfl
  unfold Machine.edgeFill
  simp only [hrow, hc, hin, if_true, beq_iff_eq, hk]
  refine iteInduction (fun _ => h) fun _ => ?_
  split
  · refine iteInduction (fun _ => h) fun _ => ?_
    exact h.modStack.of_touches (F := [.tiles, .clk, .inbox, .parts]) ((touches_inputTake (by simp)).mpr (Touches.refl _ _)) (by simp)
  · exact h

theorem answer (h : AtStack k s t) (hk : k < 8) {tile : Nat} {pks : List Packet} : AtStack k s (answer t k tile pks) := by
  have hcol : edgeCol k (tile % 96) < 96 ∧ edgeCol k (tile % 96) / 24 = k % 4 := by
    unfold edgeCol clamp
    omega
  unfold Machine.answer stackEmit refill
  obtain hlo | hhi := Nat.lt_or_ge k 4
  · rw [if_pos hlo, if_pos hlo, if_neg (by decide)]
    refine foldl h.modStack fun u v => ?_
    exact (refl u).edgeFill (row := 0) hcol.1 (.inl ⟨rfl, rfl⟩) (by norm_num; omega)
  · rw [if_neg (Nat.not_lt.mpr hhi), if_neg (Nat.not_lt.mpr hhi), if_neg (by decide)]
    refine foldl h.modStack fun u v => ?_
    exact (refl u).edgeFill (row := 47) hcol.1 (.inr ⟨rfl, rfl⟩) (by norm_num; omega)

theorem postsAnswer (h : AtStack k s t) (hk : k < 8) : AtStack k s (postsAnswer t k) := h.foldl fun u _ => (refl u).answer hk

end AtStack

/-- A mill as its engine reset leaves it. -/
def millNew (q : Stack) : Stack :=
  { q with queues := [], running := [], slotQ := [], nan := [], nanCount := [], fetched := [], turn := 0, scrubPos := 0, rowCorr := [] }

/-- The lots of every partition that a mill works for ended. -/
def millLots (s : State) (k : Nat) : State :=
  (upto 0 12).foldl (fun u n =>
    if !(kvGet [] (getStack s k).queues n).isEmpty || (kvGet none (getStack s k).running n).isSome then endLots u n 0x0033 else u) s

theorem engineMill_eq (s : State) (k : Nat) :
    engineMill s k = resetNote (modStack (opsCancel (postsAnswer (millLots s k) k) [1, 3] (2 ^ (16 + k))) k millNew) 3 k := by
  unfold engineMill
  generalize 2 ^ (16 + k) = mask
  rfl

theorem millLots_frame (s : State) (k : Nat) : Touches [.parts] s (millLots s k) := by simp [millLots]

section
variable {s : State} {k : Nat}

theorem engineMill_frame (hk : k < 8) :
    Touches [.tiles, .clk, .inbox, .parts, .mems, .pages, .ops, .changes, .due, .reeve] s (engineMill s k) := by
  have hposts := ((AtStack.refl (k := k) (millLots s k)).postsAnswer hk).touches
  rw [engineMill_eq]
  simp [Touches.iff_of (resetNote_frame _ _ _), Touches.iff_of hposts, Touches.iff_of (millLots_frame s k)]

theorem getStack_engineMill_same : getStack (engineMill s k) k = millNew (getStack (postsAnswer (millLots s k) k) k) := by
  rw [engineMill_eq, (resetNote_frame _ _ _).getStack, getStack_modStack_same, (opsCancel_frame _ _ _).getStack]

theorem lost_engineMill : (getStack (engineMill s k) k).lost = (getStack s k).lost := by
  rw [getStack_engineMill_same]
  exact (stackGone_postsAnswer _ k k).trans (stackGone_of_touches (millLots_frame s k) (by decide) k)

theorem getStack_engineMill_other {j : Nat} (hk : k < 8) (hj : j ≠ k) : getStack (engineMill s k) j = getStack s j := by
  rw [engineMill_eq, (resetNote_frame _ _ _).getStack, getStack_modStack_other _ _ _ _ hj, (opsCancel_frame _ _ _).getStack,
    ((AtStack.refl (k := k) (millLots s k)).postsAnswer hk).other j hj, (millLots_frame s k).getStack]

end

theorem exec_engineResetMill {s : State} {k : Nat} (hk : k < 8) (clears : Bool) : exec (.engineResetMill k clears) s
    = .next (withHealth s (if clears then engineMill s k else stackLost (engineMill s k) k)) := by
  change execEngineResetMill k clears s = _
  unfold execEngineResetMill
  rw [if_neg (not_not.mpr (show k < stackCount from hk))]

/-! ## The engine reset of a port -/

/-- The lots of the messages that a port held ended. -/
def portLotsEnded (s : State) (p : Nat) : State :=
  (portLots s p).foldl (fun s l => modPart s l.1 (fun q => { q with
    lots := q.lots.map (fun x => if x.number == l.2 then endLot s l.1 0x0043 x else x) })) (opsCancel s [6] (2 ^ (32 + p)))

/-- A port with its buffers cleared. -/
def portBuffersCleared (q : Port) : Port := { q with rxQ := [], here := [], park := [], meshOut := [] }

section
variable {s : State} {p : Nat}

theorem enginePort_eq : enginePort s p = resetNote (modPort (portRetrain (portLotsEnded s p) p 5 2) p portBuffersCleared) 4 p := by
  unfold enginePort portLotsEnded
  generalize 2 ^ (32 + p) = mask
  rfl

theorem portLotsEnded_frame : Touches [.ops, .pages, .due, .parts] s (portLotsEnded s p) := by
  unfold portLotsEnded
  refine (touches_foldl fun s l => ?_).mpr ((opsCancel_frame s [6] _).mono (by simp))
  simp

theorem getPort_enginePort : getPort (enginePort s p) p = portBuffersCleared (getPort (portRetrain (portLotsEnded s p) p 5 2) p) := by
  rw [enginePort_eq, (resetNote_frame _ _ _).getPort, getPort_modPort_same]

theorem en_of_dry {a b : Port} (h : portDry a = portDry b) : a.en = b.en := (congrArg Port.en h :)

theorem en_portRetrain (exit st : Nat) : (getPort (portRetrain s p exit st) p).en = (getPort s p).en := by
  obtain ⟨u, hu, hen⟩ : ∃ u, portRetrain s p exit st = modPort u p (portAnew p (retrainSt s p st)) ∧ (getPort u p).en = (getPort s p).en := by
    cases h : portUp (getPort s p) with
    | true =>
      have hen := en_of_dry ((portDry_joinLost (portLeft s p exit st) p p).trans (portDry_portLeft s p exit st))
      exact ⟨_, portRetrain_of_up h, hen⟩
    | false =>
      have hport : getPort (if retrainSt s p st == 1 then unblock s p else s) p = getPort s p := by split <;> rfl
      have hdry := (portDry_joinLost (portDrain (modPort (if retrainSt s p st == 1 then unblock s p else s) p
        (fun q => { q with st := retrainSt s p st })) p) p p).trans (portDry_portDrain _ p p)
      rw [getPort_modPort_same, hport] at hdry
      have hen := en_of_dry hdry
      exact ⟨_, portRetrain_of_down h, hen⟩
  rw [hu, getPort_modPort_same]
  exact hen

/-- What an engine reset leaves of its port. -/
theorem enginePort_spec : (getPort (enginePort s p) p).rxQ = [] ∧ (getPort (enginePort s p) p).here = [] ∧ (getPort (enginePort s p) p).park = []
    ∧ (getPort (enginePort s p) p).st = (if portTrainable s p then 2 else 1) ∧ (getPort (enginePort s p) p).en = (getPort s p).en := by
  have hframe := portLotsEnded_frame (s := s) (p := p)
  have htrain : portTrainable (portLotsEnded s p) p = portTrainable s p := by
    rw [portTrainable, portLit, hframe.getPort, hframe.link, portTrainable, portLit]
  have hst := (portRetrain_spec (portLotsEnded s p) p 5 2).1
  have hen := en_portRetrain (s := portLotsEnded s p) (p := p) 5 2
  rw [retrainSt_eq, htrain] at hst
  rw [hframe.getPort] at hen
  rw [getPort_enginePort]
  generalize getPort (portRetrain (portLotsEnded s p) p 5 2) p = q at hst hen
  refine ⟨rfl, rfl, rfl, ?_, hen⟩
  rw [show (portBuffersCleared q).st = q.st from rfl, hst]
  cases portTrainable s p <;> rfl

/-- The resets of a port that count toward a fence. -/
def resetsPast (s : State) (p : Nat) : List Nat := (getPort s p).resetBells.filter (fun b => s.clk.bell ≤ b + 1024)

/-- A port whose reset did not bring it back. -/
def portUnclear (s : State) (p : Nat) : State :=
  modPort (enginePort s p) p (fun q => { q with resetBells := resetsPast s p ++ [s.clk.bell] })

theorem exec_engineResetPort (hp : p < 32) (hen : (getPort s p).en = true) (ok : Bool) :
    exec (.engineResetPort p ok) s = .next (withHealth s (if ok then enginePort s p
      else if (resetsPast s p).isEmpty then portUnclear s p else portFence (portUnclear s p) p)) := by
  change execEngineResetPort p ok s = _
  unfold execEngineResetPort
  rw [if_neg (not_not.mpr (show p < portCount from hp)), if_neg (by simp [hen])]
  cases ok <;> rfl

theorem en_portFence (s : State) (p : Nat) : (getPort (portFence s p) p).en = false ∧ (getPort (portFence s p) p).st = 0 := by
  obtain ⟨hen, hst, -⟩ := portEnable_off_spec (opsCancel s [6] (2 ^ (32 + p))) p
  rw [portFence, getPort_modPort_same]
  exact ⟨hen, hst⟩

end

/-! ## A reset begins -/

/-- The work of a context or partition that a reset of it ends. -/
def resetStopped (s : State) (n lvl : Nat) : State :=
  let s2 := (partRows n).foldl (fun s r => if 3 ≤ lvl || (getRow s r).stop == .migrating then rowAbandon s r else s)
    (assayDrop (opsCancel s (if 3 ≤ lvl then [2, 3, 4] else [2, 4]) (2 ^ n)) n)
  (ctxTiles s2 n).foldl (fun s p => modTile s p (fun t => { t with stop := some (t.stop.getD .schedule) })) s2

/-- A partition whose reset begins at a level. -/
def partInReset (lvl bell : Nat) (p : Part) : Part :=
  { p with reset := some (lvl, bell), scan := none, halted := false, resumeAt := none, millMode := 0x30 }

/-- The event of a partition's reset (log entry 49). -/
def resetEvent (s : State) (n code : Nat) : Event :=
  { code := 0x0191, unit := unitId 4 n, part := n, bell := s.clk.bell, cc := s.clk.intvCc, lot := curLot s n, compl := code }

section
variable {s : State} {n lvl code : Nat}

theorem beginReset_eq (h : ((getPart s n).reset.map (fun r => r.1 % 16)).getD 0 < lvl) (htrip : s.pins.thermLatched = false) :
    beginReset s n lvl code = endLots (modPart (if lvl == 3 then sendEvent (resetStopped s n lvl) (resetEvent s n code)
      else resetStopped s n lvl) n (partInReset lvl s.clk.bell)) n code := by
  unfold beginReset
  rw [if_neg (by simp [htrip, h])]
  unfold resetStopped
  generalize 2 ^ n = mask
  rfl

theorem beginReset_of_higher (h : lvl ≤ ((getPart s n).reset.map (fun r => r.1 % 16)).getD 0 ∨ s.pins.thermLatched = true) :
    beginReset s n lvl code = s := by
  unfold beginReset
  rw [if_pos (by simpa using h)]

theorem reset_endLots (s : State) (n m code : Nat) : (getPart (endLots s n code) m).reset = (getPart s m).reset := by
  unfold endLots
  by_cases h : m = n
  · rw [h, getPart_modPart_same]
  · rw [getPart_modPart_other _ _ _ _ h]

theorem beginReset_spec (h : ((getPart s n).reset.map (fun r => r.1 % 16)).getD 0 < lvl) (htrip : s.pins.thermLatched = false) :
    (getPart (beginReset s n lvl code) n).reset = some (lvl, s.clk.bell)
      ∧ (lvl = 3 → ∃ e ∈ (beginReset s n lvl code).reeve.inbox, e.code = 0x0191 ∧ e.part = n ∧ e.compl = code ∧ e.bell = s.clk.bell) := by
  rw [beginReset_eq h htrip]
  refine ⟨?_, fun hlvl => ⟨resetEvent s n code, ?_, rfl, rfl, rfl, rfl⟩⟩
  · rw [reset_endLots, getPart_modPart_same]
    rfl
  · rw [if_pos (by simp [hlvl])]
    exact List.mem_append_right _ (List.mem_singleton_self _)

end

/-! ## A partition is not lost by the resets of others -/

/-- No partition is lost or found again. -/
def LostKept (s t : State) : Prop := ∀ n, (getPart t n).lost = (getPart s n).lost

namespace LostKept
variable {s t u : State}

theorem refl (s : State) : LostKept s s := fun _ => rfl

theorem trans (h1 : LostKept s t) (h2 : LostKept t u) : LostKept s u := fun n => (h2 n).trans (h1 n)

theorem of_touches {F : List Fld} (h : LostKept s t) (ht : Touches F t u) (hF : .parts ∉ F := by decide) : LostKept s u :=
  fun n => (congrArg Part.lost (ht.getPart n hF)).trans (h n)

theorem modPart (h : LostKept s t) {n : Nat} {f : Part → Part} (hf : ∀ q, (f q).lost = q.lost := by intro q; rfl) :
    LostKept s (modPart t n f) := fun m => by
  by_cases hm : m = n
  · rw [hm, getPart_modPart_same, hf, h n]
  · rw [getPart_modPart_other _ _ _ _ hm, h m]

theorem sendEvent (h : LostKept s t) {e : Event} : LostKept s (sendEvent t e) := h

theorem modReeve (h : LostKept s t) {f : Reeve → Reeve} : LostKept s (modReeve t f) := h

theorem endLots (h : LostKept s t) {n code : Nat} : LostKept s (endLots t n code) := h.modPart

theorem foldl {β : Type} (h : LostKept s t) {g : State → β → State} (hg : ∀ u b, LostKept u (g u b)) {l : List β} : LostKept s (l.foldl g t) :=
  h.trans (foldl_rel (R := LostKept) refl trans hg l t)

theorem assayDrop (h : LostKept s t) {n : Nat} : LostKept s (assayDrop t n) := by
  unfold Machine.assayDrop assayEnd
  refine iteInduction (fun _ => ?_) fun _ => h
  have hops := h.of_touches (opsCancel_frame t [4] (2 ^ n))
  split
  · exact modPart (hops.of_touches (F := [.inbox]) (by simp [assayEvents]))
  · exact hops

theorem resetStopped (h : LostKept s t) {n lvl : Nat} : LostKept s (resetStopped t n lvl) := by
  have hdrop : LostKept s (Machine.assayDrop (opsCancel t (if 3 ≤ lvl then [2, 3, 4] else [2, 4]) (2 ^ n)) n) :=
    (h.of_touches (opsCancel_frame t _ _)).assayDrop
  unfold Machine.resetStopped
  exact hdrop.of_touches (F := [.tiles, .rows]) (by simp)

theorem beginReset (h : LostKept s t) {n lvl code : Nat} : LostKept s (beginReset t n lvl code) := by
  obtain hlow | hhigh := Nat.lt_or_ge (((getPart t n).reset.map (fun r => r.1 % 16)).getD 0) lvl
  · cases htrip : t.pins.thermLatched with
    | true => rwa [beginReset_of_higher (.inr htrip)]
    | false =>
      rw [beginReset_eq hlow htrip]
      refine endLots (modPart ?_)
      exact iteInduction (fun _ => h.resetStopped.sendEvent) fun _ => h.resetStopped
  · rwa [beginReset_of_higher (.inl hhigh)]

theorem computeBegin (h : LostKept s t) : LostKept s (computeBegin t) := by
  unfold Machine.computeBegin
  refine iteInduction (fun _ => h) fun _ => ?_
  have hevent : LostKept s (if t.reeve.computeReset then t
      else Machine.sendEvent t { code := 0x0192, bell := t.clk.bell, cc := t.clk.intvCc, compl := 0x0045 }) :=
    iteInduction (fun _ => h) fun _ => h.sendEvent
  exact modReeve (foldl (hevent.of_touches (opsCancel_frame _ _ _)) fun u n => (refl u).beginReset)

end LostKept

theorem computeReset_computeBegin {s : State} (h : s.pins.thermLatched = false) : (computeBegin s).reeve.computeReset = true := by
  unfold computeBegin
  rw [if_neg (by simp [h])]
  rfl

/-! ## The levels -/

theorem namedUnit_tile {s : State} {n l : Nat} (hl : l < 4608) (hpart : logPart l = n) (hst : (getTile s (physOf s l)).st ≠ .pinfold) :
    engineUnit s n (unitId 1 l) = engineTile s (physOf s l) := by
  have hkind : unitId 1 l / 2 ^ 28 = 1 := by unfold unitId; omega
  have hidx : unitId 1 l % 2 ^ 24 = l := by unfold unitId; omega
  unfold engineUnit
  rw [hkind, hidx]
  simp [hl, hpart, hst]

theorem namedUnit_mill {s : State} {n k : Nat} (hk : k < 8) : engineUnit s n (unitId 2 k) = engineMill s k := by
  have hkind : unitId 2 k / 2 ^ 28 = 2 := by unfold unitId; omega
  have hidx : unitId 2 k % 2 ^ 24 = k := by unfold unitId; omega
  unfold engineUnit
  rw [hkind, hidx]
  exact if_pos hk

theorem namedUnit_port {s : State} {n p : Nat} (hp : p < 32) (hen : (getPort s p).en = true) : engineUnit s n (unitId 3 p) = enginePort s p := by
  have hkind : unitId 3 p / 2 ^ 28 = 3 := by unfold unitId; omega
  have hidx : unitId 3 p % 2 ^ 24 = p := by unfold unitId; omega
  unfold engineUnit
  rw [hkind, hidx]
  exact if_pos (by simp [hen, show p < portCount from hp])

theorem escalate_one {s : State} {n x : Nat} (fwd : Bool) (h : namedUnits s n = [x]) : escalate 1 n fwd s = engineUnit s n x := by
  unfold escalate
  dsimp only
  rw [h, if_neg (by simp)]
  rfl

/-- The level above a partition: it is lost. -/
def partLost (p : Part) : Part := { p with lost := true, reset := none, trace := traceClear p.trace }

theorem escalate_five (s : State) (n : Nat) :
    escalate 5 n false s = setDom (tilesAt tileEngineReset (partTiles n) (modPart (endLots s n 0x0044) n partLost)) (5 * n + 4) .off := rfl

/-! ## The module lost -/

/-- A tile told to stop. -/
def tileStopped (t : Tile) : Tile := { t with stop := some (t.stop.getD .schedule) }

/-- Tiles told to stop. -/
def tilesStopped (l : List Nat) (s : State) : State := l.foldl (fun s p => modTile s p tileStopped) s

/-- A context that goes with its module. -/
def ctxLost (s : State) (n : Nat) : State :=
  tilesStopped (ctxTiles s n) (modPart (endLots s n 0x0045) n (fun p => { p with lost := true }))

theorem moduleLost_eq (s : State) : moduleLost s = { (upto 0 12).foldl ctxLost s with hst := pcieReset ((upto 0 12).foldl ctxLost s).hst } := rfl

theorem tilesStopped_frame (l : List Nat) (s : State) : Touches [.tiles] s (tilesStopped l s) := by simp [tilesStopped]

theorem ctxLost_frame (s : State) (n : Nat) : Touches [.tiles, .parts] s (ctxLost s n) := by
  simp [ctxLost, Touches.iff_of (tilesStopped_frame _ _)]

theorem stop_tilesStopped (l : List Nat) (s : State) (p : Nat) :
    (p ∈ l ∨ (getTile s p).stop ≠ none → (getTile (tilesStopped l s) p).stop ≠ none)
      ∧ (getTile (tilesStopped l s) p).st = (getTile s p).st := by
  unfold tilesStopped
  induction l generalizing s with
  | nil => exact ⟨fun h => h.resolve_left (by simp), rfl⟩
  | cons q l ih =>
    obtain ⟨hstop, hst⟩ := ih (modTile s q tileStopped)
    rw [List.foldl_cons]
    by_cases h : p = q
    · subst h
      rw [getTile_modTile_same] at hstop hst
      exact ⟨fun _ => hstop (.inr nofun), hst⟩
    · rw [getTile_modTile_other _ _ _ _ h] at hstop hst
      exact ⟨fun hp => hstop (hp.imp_left fun hm => (List.mem_cons.mp hm).resolve_left h), hst⟩

theorem ctxTiles_congr {s t : State} (hst : ∀ p, (getTile t p).st = (getTile s p).st) (hrow : ∀ r, getRow t r = getRow s r) (n : Nat) :
    ctxTiles t n = ctxTiles s n := by
  have hlog : ∀ p, logOf t p = logOf s p := fun p => logOf_congr (congrArg Row.spare (hrow _))
  simp only [ctxTiles, hlog, hst]

theorem ctxTiles_ctxLost (s : State) (n m : Nat) : ctxTiles (ctxLost s n) m = ctxTiles s m := by
  refine ctxTiles_congr (fun p => ?_) (fun r => (ctxLost_frame s n).getRow r) m
  rw [ctxLost, (stop_tilesStopped _ _ p).2]
  rfl

theorem ctxsLost_tiles (s : State) {n : Nat} (hn : n < 12) : ∀ p ∈ ctxTiles s n, (getTile ((upto 0 12).foldl ctxLost s) p).stop ≠ none := by
  have hall := foldl_establishes (P := fun n t => ∀ p ∈ ctxTiles t n, (getTile t p).stop ≠ none) (g := ctxLost)
    (fun s b p hp => by
      rw [ctxTiles_ctxLost] at hp
      exact (stop_tilesStopped _ _ p).1 (.inl hp))
    (fun s b c h p hp => by
      rw [ctxTiles_ctxLost] at hp
      exact (stop_tilesStopped _ _ p).1 (.inr (h p hp)))
    (upto 0 12) s n (by simpa using hn)
  rwa [foldl_keeps (π := fun s => ctxTiles s n) (g := ctxLost) (fun s b => ctxTiles_ctxLost s b n)] at hall

theorem state_endLot (s : State) (n code : Nat) (l : Lot) : (endLot s n code l).state = 2 := by
  unfold endLot
  split
  · next h => exact beq_iff_eq.mp h
  · rfl

theorem getPart_ctxLost_same (s : State) (n : Nat) :
    getPart (ctxLost s n) n = { getPart s n with lost := true, lots := (getPart s n).lots.map (endLot s n 0x0045) } := by
  rw [ctxLost, (tilesStopped_frame _ _).getPart, getPart_modPart_same, endLots, getPart_modPart_same]

theorem getPart_ctxLost_other {s : State} {n m : Nat} (h : m ≠ n) : getPart (ctxLost s n) m = getPart s m := by
  rw [ctxLost, (tilesStopped_frame _ _).getPart, getPart_modPart_other _ _ _ _ h, endLots, getPart_modPart_other _ _ _ _ h]

theorem ctxsLost_part (s : State) {n : Nat} (hn : n < 12) : (getPart ((upto 0 12).foldl ctxLost s) n).lost = true
    ∧ ∀ l ∈ (getPart ((upto 0 12).foldl ctxLost s) n).lots, l.state = 2 := by
  obtain ⟨t, -, heq⟩ := foldl_at (π := fun s => getPart s n) (g := ctxLost) (k := n) (fun s m hm => getPart_ctxLost_other hm.symm)
    (nodup_upto 0 12) (by simpa using hn) s
  rw [heq, getPart_ctxLost_same]
  refine ⟨rfl, fun l hl => ?_⟩
  obtain ⟨l', -, rfl⟩ := List.mem_map.mp hl
  exact state_endLot _ _ _ _

/-- A module that does nothing more, its Reeve lost. -/
def reeveGone (s : State) : State :=
  { s with start := { s.start with runSlot := 0 }, reeve := { s.reeve with gone := true } }

theorem exec_lockstepMismatch {s : State} (h : s.reeve.standby = false) : exec .lockstepMismatch s = .next (reeveGone (moduleLost s)) := by
  change execLockstepMismatch s = _
  unfold execLockstepMismatch
  rw [if_neg (by simp [h])]
  rfl

theorem reeveGone_eq {s t : State} (h : Touches [.tiles, .parts, .hst, .due] s t) :
    reeveGone t = { s with tiles := (reeveGone t).tiles, parts := (reeveGone t).parts, hst := (reeveGone t).hst
                           start := { s.start with runSlot := 0 }, reeve := { s.reeve with gone := true } } := by
  have hreeve : t.reeve = s.reeve := (congrArg State.reeve h.eq_overlay :)
  have ht : t = { s with tiles := t.tiles, parts := t.parts, hst := t.hst } := h.eq_overlay
  unfold reeveGone
  rw [hreeve, h.start]
  exact (congrArg (fun u : State => { u with start := { s.start with runSlot := 0 }, reeve := { s.reeve with gone := true } }) ht :)

theorem getPart_reeveGone (s : State) (n : Nat) : getPart (reeveGone s) n = getPart s n := rfl

theorem getTile_reeveGone (s : State) (p : Nat) : getTile (reeveGone s) p = getTile s p := rfl

theorem pcieUp_moduleLost (s : State) : (reeveGone (moduleLost s)).hst.pcieUp = false := by
  rw [moduleLost_eq]
  rfl

theorem getPart_with_hst (s : State) (v : Hst) (n : Nat) : getPart { s with hst := v } n = getPart s n := rfl

theorem getTile_with_hst (s : State) (v : Hst) (p : Nat) : getTile { s with hst := v } p = getTile s p := rfl

theorem getPart_moduleLost (s : State) (n : Nat) : getPart (moduleLost s) n = getPart ((upto 0 12).foldl ctxLost s) n := by
  rw [moduleLost_eq]
  exact getPart_with_hst _ _ n

theorem getTile_moduleLost (s : State) (p : Nat) : getTile (moduleLost s) p = getTile ((upto 0 12).foldl ctxLost s) p := by
  rw [moduleLost_eq]
  exact getTile_with_hst _ _ p

/-! ## The tile that leaves the pinfold -/

theorem getTile_placeRow_far {s : State} {r q : Nat} (h : physProw q ≠ r) : getTile (placeRow s r) q = getTile s q := by
  rw [placeRow_eq]
  refine foldl_keeps_of_mem (π := fun s => getTile s q) _ (fun u k hk => getTile_modTile_other _ _ _ _ fun hq => h ?_) s
  rw [hq, (rowTile_mod (by simpa using hk)).2]

section
variable (s : State) (p : Nat)

theorem pinPlaced_frame : Touches [.tiles, .parts] s (pinPlaced s p) := by simp [pinPlaced]

theorem tileSettled_pinPlaced : tileSettled (getTile (pinPlaced s p) p) = tileSettled (getTile s p) := by
  rw [pinPlaced, tileSettled_placeRow, getTile_modPart]

theorem getTile_pinPlaced_far {q : Nat} (h : physProw q ≠ physProw p) : getTile (pinPlaced s p) q = getTile s q := by
  rw [pinPlaced, getTile_placeRow_far h, getTile_modPart]

/-- A tile taken out of the pinfold, its ledger entries cleared where they held it for good. -/
def pinReleased (perm : Bool) : State := pinPlaced (pinLeft (if perm then ledgerClear s p else s) p) p

theorem pinReleased_spec (perm : Bool) : (getTile (pinReleased s p perm) p).st = .idle
    ∧ tileMemory (getTile (pinReleased s p perm) p) = tileMemory (getTile s p)
    ∧ (getTile (pinReleased s p perm) p).hw.result = (getTile s p).hw.result
    ∧ (pinReleased s p perm).start = (if perm then ledgerClear s p else s).start
    ∧ ∀ q, physProw q ≠ physProw p → getTile (pinReleased s p perm) q = getTile s q := by
  have hclear : ∀ q, getTile (if perm then ledgerClear s p else s) q = getTile s q := fun q => by cases perm <;> rfl
  have hset : tileSettled (getTile (pinReleased s p perm) p) = tileSettled { getTile s p with st := .idle } := by
    rw [pinReleased, tileSettled_pinPlaced, pinLeft, getTile_modTile_same, hclear]
  refine ⟨st_of_settled hset, (tileMemory_of_settled hset).trans rfl, (congrArg (fun t => t.hw.result) hset :), (pinPlaced_frame _ p).start, fun q hq => ?_⟩
  have hne : q ≠ p := fun h => hq (congrArg physProw h)
  rw [pinReleased, getTile_pinPlaced_far _ _ hq, pinLeft, getTile_modTile_other _ _ _ _ hne, hclear]

end

theorem result_slicePinned {s : State} {p : Nat} {f : SliceFound} (h : sliceFails s p f = false) :
    (getTile (slicePinned s p f 3) p).hw.result = (if f.cols.isEmpty && f.words.isEmpty then 1 else 2) :=
  (sliceOutcome_of_pass s p f h _).2.1

theorem eq_of_touches_pinReset {s t : State} (h : Touches [.tiles, .pages, .inbox, .ops, .changes, .reeve] s t) :
    t = { s with tiles := t.tiles, reeve := t.reeve } := h.eq_overlay

theorem eq_of_touches_slicePinned {s t : State} (h : Touches [.tiles, .start, .pages, .inbox, .ops, .changes, .reeve] s t) :
    t = { s with tiles := t.tiles, start := t.start, reeve := t.reeve } := h.eq_overlay

/-- Settles O46: engine resets by what they leave of their tile, mill or port, the levels by `escalate`, and the lost module by `ctxLost`. -/
theorem engineResetsAndEscalation : Obligations.EngineResetsAndEscalation := by
  refine ⟨⟨fun p found s hp hpin => ⟨fun hruns hpass hleave => ?left, fun hruns hpass hperm hlife => ?stays, fun hruns hfails => ?fails,
      fun hruns => ?unrun⟩, fun p found s hp hpin hrole => ?spare, fun p found s hp hpin hrole => ⟨fun h => ?covered, fun h => ?bare⟩,
      fun k s hk => ?mill, fun p ok s hp hen hclear => ?port, fun p s hp hen hpast => ?fence, fun p ok s hp hen => ?disabled⟩,
    fun lvl u code fwd s hu => ?levels, fun n l b s hreset => ?late, fun n fwd s hn => ⟨fun h => ?unnamed, fun l hl h hpart hst => ?tile,
      fun k hk h => ?namedMill, fun p hp h hen => ?namedPort⟩, fun s n lvl code htrip h => beginReset_spec h htrip,
    fun s n lvl code h => beginReset_of_higher h, fun p fwd s hp => ⟨rfl, fun _ => st_failTile s p 1⟩,
    fun k fwd s hk => ⟨rfl, stackGone_stackLost s k, fun htrip => ?lostStack⟩,
    fun p fwd s hp => ⟨rfl, fenced_portFence_same s p, (en_portFence s p).1⟩, fun n u s hn => ⟨fun hu => ?partGone, fun hu => ?forwards⟩,
    fun u t fwd s ht => ?cycle, fun s h => ?handover, fun s h => ?lost⟩
  case left =>
    have hleaves : pinfoldLeaves s (getTile s p).hw.cause = true := by
      rcases hleave with h | h <;> simp [pinfoldLeaves, h]
    have hpass' := (sliceFails_pinReset { cols := found.1, words := found.2.1, other := found.2.2 }).trans hpass
    set v := slicePinned (pinReset s p) p { cols := found.1, words := found.2.1, other := found.2.2 } 3 with hv
    have hmem : tileMemory (getTile v p) = ([], []) := by
      rw [hv, tileMemory_slicePinned, getTile_pinReset_same]
      rfl
    obtain ⟨hst, hkept, hres, hstart, hfar⟩ := pinReleased_spec v p (causePermanent (getTile s p).hw.cause)
    refine ⟨pinReleased v p (causePermanent (getTile s p).hw.cause), ?_, hst, (memory_empty (hkept.trans hmem)).1,
      hres.trans (result_slicePinned hpass'), fun hperm => ?_, fun q hq => ?_⟩
    · rw [exec_engineResetTile_pinfold hp hpin rfl, if_neg (by simp [hruns]), if_neg (by simp [hpass', hleaves])]
      rfl
    · rw [hstart, if_pos hperm]
      exact ledgerClear_spec _ p
    · have hne : q ≠ p := fun h => hq (congrArg physProw h)
      rw [hfar q hq, hv, getTile_slicePinned_other _ hne, getTile_pinReset_other hne]
  case stays =>
    have hleaves : pinfoldLeaves s (getTile s p).hw.cause = false := by simp [pinfoldLeaves, hperm, hlife]
    have hpass' := (sliceFails_pinReset { cols := found.1, words := found.2.1, other := found.2.2 }).trans hpass
    refine ⟨slicePinned (pinReset s p) p { cols := found.1, words := found.2.1, other := found.2.2 } 3, ?_,
      eq_of_touches_slicePinned (slicePinned_pinReset_frame _), fun q hq => ?_, slicePinned_st _ _ (st_pinReset hpin),
      result_slicePinned hpass'⟩
    · rw [exec_engineResetTile_pinfold hp hpin rfl, if_neg (by simp [hruns]), if_pos (by simp [hleaves])]
    · rw [getTile_slicePinned_other _ hq, getTile_pinReset_other hq]
  case fails =>
    have hfails' := (sliceFails_pinReset { cols := found.1, words := found.2.1, other := found.2.2 }).trans hfails
    obtain ⟨htile, hledger⟩ := slicePinned_failed (pinReset s p) p _ hfails'
    have hcause : (getTile (pinReset s p) p).hw.cause = (getTile s p).hw.cause := (congrArg (fun t => t.hw.cause) getTile_pinReset_same :)
    rw [hcause, pinReset_frame.start] at hledger
    rw [hcause] at htile
    refine ⟨slicePinned (pinReset s p) p { cols := found.1, words := found.2.1, other := found.2.2 } 3, ?_,
      eq_of_touches_slicePinned (slicePinned_pinReset_frame _), fun q hq => ?_, slicePinned_st _ _ (st_pinReset hpin),
      (congrArg (fun t => t.hw.result) htile :), (congrArg (fun t => t.hw.cause) htile :), hledger⟩
    · rw [exec_engineResetTile_pinfold hp hpin rfl, if_neg (by simp [hruns]), if_pos (by simp [hfails'])]
    · rw [getTile_slicePinned_other _ hq, getTile_pinReset_other hq]
  case unrun =>
    refine ⟨pinReset s p, ?_, eq_of_touches_pinReset pinReset_frame, fun q hq => getTile_pinReset_other hq, st_pinReset hpin, ?_⟩
    · rw [exec_engineResetTile_pinfold hp hpin rfl, if_pos (by simp [hruns])]
    · rw [getTile_pinReset_same]
      rfl
  case spare =>
    refine ⟨_, exec_engineResetTile_spare hp hpin hrole rfl, fun hruns => ?_, fun hruns hpass => ?_, fun hruns hfails => ?_⟩
    · obtain ⟨hst, hmem⟩ := st_spareReset (s := s) (p := p) hpin
      rw [hruns, if_neg Bool.false_ne_true]
      exact ⟨hst, (memory_empty hmem).1⟩
    · obtain ⟨hst, hmem⟩ := st_spareReset (s := s) (p := p) hpin
      have hpass' := (sliceFails_spareReset (s := s) (p := p) { cols := found.1, words := found.2.1, other := found.2.2 }).trans hpass
      obtain ⟨hst', hres, -⟩ := sliceOutcome_of_pass (spareReset s p) p _ hpass' (fun s p => failTile s p 1)
      rw [hruns, if_pos rfl]
      refine ⟨hst'.trans hst, ?_, hres⟩
      have hout : tileMemory (getTile (sliceOutcome (spareReset s p) p { cols := found.1, words := found.2.1, other := found.2.2 } 3
          (fun s p => failTile s p 1)) p) = ([], []) := by
        rw [sliceOutcome, hpass', if_neg Bool.false_ne_true, tileMemory_sliceResult, tileMemory_sliceRepair, hmem]
      exact (memory_empty hout).1
    · rw [hruns, if_pos rfl]
      exact spareReset_failed hpin hrole hfails
  case covered => rw [exec_engineResetTile_role hp hpin hrole, engineTile, if_pos h]
  case bare => rw [exec_engineResetTile_role hp hpin hrole, engineTile, if_neg (by simp [h])]
  case mill =>
    have hframe := engineMill_frame (s := s) hk
    have hsame := getStack_engineMill_same (s := s) (k := k)
    refine ⟨engineMill s k, ?_, (congrArg Stack.queues hsame :), (congrArg Stack.running hsame :), lost_engineMill, hframe.dram, hframe.ports,
      fun j hj => getStack_engineMill_other hk hj, ?_⟩
    · rw [exec_engineResetMill hk, if_pos rfl]
    · rw [exec_engineResetMill hk, if_neg Bool.false_ne_true]
  case port =>
    obtain ⟨hrx, hhere, hpark, hst, hen'⟩ := enginePort_spec (s := s) (p := p)
    cases ok with
    | true =>
      exact ⟨enginePort s p, exec_engineResetPort hp hen true, hrx, hhere, hpark, hst, hen'.trans hen⟩
    | false =>
      have hpast : resetsPast s p = [] := List.filter_eq_nil_iff.mpr fun b hb => by
        have := hclear.resolve_left Bool.false_ne_true b hb
        simp
        omega
      refine ⟨portUnclear s p, ?_, ?_⟩
      · rw [exec_engineResetPort hp hen, if_neg Bool.false_ne_true, hpast, if_pos List.isEmpty_nil]
      · rw [portUnclear, getPort_modPort_same]
        generalize getPort (enginePort s p) p = q at hrx hhere hpark hst hen'
        exact ⟨hrx, hhere, hpark, hst, hen'.trans hen⟩
  case fence =>
    obtain ⟨b, hb, hnear⟩ := hpast
    have hne : (resetsPast s p).isEmpty = false := by
      rw [List.isEmpty_eq_false_iff_exists_mem]
      exact ⟨b, List.mem_filter.mpr ⟨hb, by simpa using hnear⟩⟩
    refine ⟨portFence (portUnclear s p) p, ?_, fenced_portFence_same _ p, (en_portFence _ p).1, (en_portFence _ p).2⟩
    rw [exec_engineResetPort hp hen, if_neg Bool.false_ne_true, hne, if_neg Bool.false_ne_true]
  case disabled =>
    change execEngineResetPort p ok s = _
    unfold execEngineResetPort
    rw [if_neg (not_not.mpr (show p < portCount from hp)), if_pos (by simp [hen])]
  case levels =>
    have hrun : exec (.resetEscalate lvl u code fwd) s = if resetOver s lvl u || recursAfter s lvl u code || causeOutside s lvl u code
        then .next (withHealth s (escalate lvl u fwd s)) else .next s := by
      change execResetEscalate lvl u code fwd s = _
      unfold execResetEscalate
      obtain ⟨rfl, hu⟩ | ⟨rfl, hu⟩ | ⟨rfl, hu⟩ | ⟨rfl, hu⟩ | ⟨rfl, hu⟩ | rfl := hu
      · exact if_neg (not_not.mpr hu)
      · exact if_neg (not_not.mpr hu)
      · exact if_neg (not_not.mpr hu)
      · exact if_neg (not_not.mpr hu)
      · exact if_neg (not_not.mpr hu)
      · exact if_neg (not_not.mpr (Nat.lt_succ_self u))
    exact ⟨fun h => hrun.trans (if_pos h), fun h => hrun.trans (if_neg (by simp [h]))⟩
  case late =>
    refine ⟨fun hl => ?_, fun hl => ?_⟩
    · simp [resetOver, hreset, hl]
    · simp [resetOver, hreset, hl]
  case unnamed =>
    unfold escalate
    simp only [h, List.isEmpty_nil, if_true]
  case tile => rw [escalate_one fwd h, namedUnit_tile hl hpart hst]
  case namedMill => rw [escalate_one fwd h, namedUnit_mill hk]
  case namedPort => rw [escalate_one fwd h, namedUnit_port hp hen]
  case lostStack =>
    rw [stackLost, computeReset_computeBegin]
    rw [(lostAnswer_frame _ k).pins]
    exact htrip
  case partGone =>
    subst hu
    have htiles := tilesAt_frame tileEngineReset (partTiles n) (modPart (endLots s n 0x0044) n partLost)
    have hframe : Touches [.tiles, .parts, .power] s (escalate 5 n false s) := by
      rw [escalate_five, touches_setDom (by simp), Touches.iff_of htiles (by simp)]
      simp
    rw [escalate_five] at hframe ⊢
    refine ⟨?_, ?_, fun m hm => ?_, fun p hp => ?_, fun p hp => ?_, ?_, ?_⟩
    · rw [getPart_setDom, htiles.getPart, getPart_modPart_same]
      rfl
    · simp
    · rw [getPart_setDom, htiles.getPart, getPart_modPart_other _ _ _ _ hm, endLots, getPart_modPart_other _ _ _ _ hm]
    · rw [getTile_setDom, getTile_tilesAt _ (nodup_partTiles n) hp]
      exact ⟨rfl, rfl⟩
    · rw [getTile_setDom, getTile_tilesAt_other _ hp]
      rfl
    · exact hframe.mems
    · exact hframe.dram
  case forwards =>
    subst hu
    exact ⟨fun htrip => computeReset_computeBegin htrip, LostKept.computeBegin (LostKept.refl s) n⟩
  case cycle =>
    subst ht
    exact ⟨rfl, rfl, ⟨_, rfl, rfl⟩, rfl⟩
  case handover =>
    change execLockstepMismatch s = _
    unfold execLockstepMismatch
    rw [if_pos h]
    rfl
  case lost =>
    refine ⟨reeveGone (moduleLost s), exec_lockstepMismatch h, reeveGone_eq ((moduleLost_frame s).mono (by simp)), pcieUp_moduleLost s, fun n hn => ?_⟩
    obtain ⟨hlost, hlots⟩ := ctxsLost_part s hn
    rw [getPart_reeveGone, getPart_moduleLost]
    refine ⟨hlost, hlots, fun p hp => ?_⟩
    rw [getTile_reeveGone, getTile_moduleLost]
    exact ctxsLost_tiles s hn p hp

end Sys2Proof.Machine
end

section
/-! SUPPORT. Long operations end, and assays replay their lot (R79, R354 to R357, R437). -/

-- One proof after another: threads that wait for each other count against the memory of the check.
set_option Elab.async false

namespace Sys2Proof.Machine

/-! ## The records of operations -/

theorem opGet_handle (s : State) (h : Nat) : (opGet s h).handle = h := by
  unfold opGet
  cases hf : s.reeve.ops.find? (fun o => o.handle == h) with
  | none => rfl
  | some o => simpa using List.find?_some hf

theorem opGet_of_find {s : State} {h : Nat} {o : Op} (hf : s.reeve.ops.find? (fun o => o.handle == h) = some o) : opGet s h = o := by
  rw [opGet, hf]
  rfl

/-- Changing one record keeps the order of the records. -/
theorem find_modOp (s : State) (h : Nat) (f : Op → Op) (hf : ∀ o, (f o).handle = o.handle) :
    (modOp s h f).reeve.ops.find? (fun o => o.handle == h) = (s.reeve.ops.find? (fun o => o.handle == h)).map f := by
  change (s.reeve.ops.map (fun o => if o.handle == h then f o else o)).find? (fun o => o.handle == h) = _
  rw [List.find?_map]
  have hsame : ((fun o : Op => o.handle == h) ∘ fun o => if o.handle == h then f o else o) = fun o => o.handle == h := by
    funext o
    by_cases ho : o.handle = h <;> simp [ho, hf]
  rw [hsame]
  cases hfind : s.reeve.ops.find? (fun o => o.handle == h) with
  | none => rfl
  | some o =>
    have ho : o.handle = h := by simpa using List.find?_some (p := fun o : Op => o.handle == h) hfind
    simp [ho]

theorem state_modOp (s : State) (h : Nat) (f : Op → Op) {P : Op → Prop} (hP : ∀ o, P (f o)) :
    ∀ o ∈ (modOp s h f).reeve.ops, o.handle = h → P o := by
  intro o ho hh
  obtain ⟨x, -, rfl⟩ := List.mem_map.mp (show o ∈ s.reeve.ops.map (fun o => if o.handle == h then f o else o) from ho)
  split
  · exact hP x
  · next hx =>
    rw [if_neg hx] at hh
    exact absurd (beq_iff_eq.mpr hh) hx

theorem mem_opsTrim {os : List Op} {o : Op} (h : o ∈ opsTrim os) : o ∈ os := by
  unfold opsTrim at h
  obtain ⟨⟨x, i⟩, hx, heq⟩ := List.mem_filterMap.mp h
  dsimp only at heq
  split at heq
  · obtain rfl := Option.some.inj heq
    exact (List.mem_zipIdx hx).2.2 ▸ List.getElem_mem _
  · exact absurd heq (by simp)

theorem opEvent_frame (s : State) (o : Op) : Touches [.pages, .due] s (opEvent s o) := by simp [opEvent]

/-- A record ended with a state, and with a result where it has one. -/
def opEndedAs (st result : Nat) (x : Op) : Op := { x with state := st, result := if result == 0 then x.result else result }

theorem opFinish_eq (s : State) (h st result : Nat) :
    opFinish s h st result = modReeve (opEvent (modOp s h (opEndedAs st result)) (opGet (modOp s h (opEndedAs st result)) h))
      (fun r => { r with ops := opsTrim r.ops }) := rfl

theorem ops_modReeve_ops (s : State) (f : List Op → List Op) : (modReeve s (fun r => { r with ops := f r.ops })).reeve.ops = f s.reeve.ops := rfl

/-- An operation that ends has the state and the result that it ends with. -/
theorem ops_opFinish (s : State) (h st result : Nat) :
    ∀ o ∈ (opFinish s h st result).reeve.ops, o.handle = h → o.state = st ∧ (result ≠ 0 → o.result = result) := by
  intro o ho hh
  rw [opFinish_eq, ops_modReeve_ops, (opEvent_frame _ _).ops] at ho
  have hmem := mem_opsTrim ho
  exact state_modOp s h (opEndedAs st result) (P := fun o => o.state = st ∧ (result ≠ 0 → o.result = result))
    (fun o => ⟨rfl, fun hr => by simp [opEndedAs, hr]⟩) o hmem hh

theorem ops_opState (s : State) (o : Op) (st : Nat) : ∀ x ∈ (opState s o st).reeve.ops, x.handle = o.handle → x.state = st := by
  intro x hx
  rw [opState, (opEvent_frame _ _).ops] at hx
  exact state_modOp s o.handle (fun x => { x with state := st }) (P := fun x => x.state = st) (fun _ => rfl) x hx

/-- An operation that is known stands in the state that it is put in. -/
theorem state_opGet_opState {s : State} {h st : Nat} (hk : (opGet s h).state ≠ 0) : (opGet (opState s (opGet s h) st) h).state = st := by
  have hfind := find_modOp s h (fun x => { x with state := st }) (fun _ => rfl)
  rw [opState, opGet, opGet_handle, (opEvent_frame _ _).ops, hfind]
  cases hf : s.reeve.ops.find? (fun o => o.handle == h) with
  | none =>
    rw [opGet, hf] at hk
    exact absurd rfl hk
  | some o => rfl

@[simp] theorem touches_modOp {F : List Fld} {s t : State} {h : Nat} {f : Op → Op} (hF : .ops ∈ F) :
    Touches F s (modOp t h f) ↔ Touches F s t := Touches.iff_of (G := [.ops]) (by simp [modOp]) (by simpa using hF)

theorem opFinish_frame (s : State) (h st result : Nat) : Touches [.ops, .pages, .due] s (opFinish s h st result) := by
  rw [opFinish_eq]
  simp [Touches.iff_of (opEvent_frame _ _)]

theorem opState_frame (s : State) (o : Op) (st : Nat) : Touches [.ops, .pages, .due] s (opState s o st) := by
  simp [opState, Touches.iff_of (opEvent_frame _ _)]

/-! ## What the start of an operation changes -/

theorem moveRoleFrom_touches (s : State) (r k : Nat) : Touches [.tiles, .rows, .inbox] s (moveRoleFrom s r k) := by
  rw [Touches.iff_of (moveRoleFrom_frame s r k) (by simp)]
  simp [roleMoved]

theorem spareTo_frame (r target n : Nat) (s : State) : Touches [.tiles, .rows, .inbox] s (spareTo r target n s) := by
  induction n generalizing s with
  | zero => exact Touches.refl _ _
  | succ n ih =>
    unfold spareTo
    dsimp only
    split
    · exact Touches.refl _ _
    · exact (moveRoleFrom_touches s r _).trans (ih _)

theorem narrowAside_frame (s : State) (r : Nat) : Touches [.tiles, .rows, .inbox] s (narrowAside s r) := by
  unfold narrowAside
  split
  · split
    · exact spareTo_frame _ _ _ _
    · exact Touches.refl _ _
  · exact Touches.refl _ _

theorem portQualify_frame (s : State) (p : Nat) : Touches [.ports, .link] s (portQualify s p) := by
  unfold portQualify
  simp

theorem opBegin_frame (s : State) (o : Op) :
    Touches [.ops, .bolts, .tiles, .rows, .inbox, .start, .ports, .link] s (opBegin s o) := by
  unfold opBegin
  dsimp only
  split
  · simp
  · split
    · refine (touches_foldl fun s k => ?_).mpr (by simp)
      simp [unwriteStack]
    · refine (touches_foldl fun s n => (touches_foldl fun s r => ?_).mpr (Touches.refl _ _)).mpr (by simp)
      simp [Touches.iff_of (narrowAside_frame _ _)]
    · simp
    · refine (touches_foldl fun s p => ?_).mpr (by simp)
      simp [Touches.iff_of (portQualify_frame _ _)]
    · simp

theorem opsStart_frame (s : State) : Touches [.ops, .bolts, .tiles, .rows, .inbox, .start, .ports, .link, .pages, .due] s (opsStart s) := by
  unfold opsStart
  refine (touches_foldl fun s o => ?_).mpr (Touches.refl _ _)
  simp [Touches.iff_of (opEvent_frame _ _), Touches.iff_of (opBegin_frame _ _)]

/-! ## The end of an operation -/

section
variable {h units : Nat} {ok : Bool} {found : List (Nat × Nat × Bool)} {bolts : List (Nat × List Nat × List Nat)} {s : State} {o : Op}

/-- Does a qualification still have a port that qualifies? -/
def qualifying (s : State) (o : Op) : Bool := (upto 0 32).any (fun p => bitAt o.mask (32 + p) && (getPort s p).st == 4)

/-- The units an operation still performs before its resume point. -/
def unitsOn (s : State) (o : Op) (units : Nat) : Nat :=
  if opKind o == 2 && loadsDeferred s then 0 else min units ((if opKind o == 5 then o.total - 2 else o.total) - o.done)

theorem exec_longOperationEnd (hf : s.reeve.ops.find? (fun o => o.handle == h) = some o) :
    exec (.longOperationEnd h units ok found bolts) s = match o.state with
    | 0 => .next (withHealth s (opsStart s))
    | 1 =>
      if (opKind o == 2 && loadsDeferred s) || opKind o == 4 || (opKind o == 6 && qualifying s o) then .next s
      else .next (withHealth s (opsStart (opComplete s o ok found bolts)))
    | 2 =>
      if opKind o == 4 then .next s
      else .next (withHealth s (opState (opRun s o (unitsOn s o units) found bolts) { o with done := o.done + unitsOn s o units } 3))
    | 4 => .next (withHealth s (opsStart (opCutShort (if opKind o == 4 || opKind o == 5 then s else opRun s o (unitsOn s o units) found bolts)
        (opGet (if opKind o == 4 || opKind o == 5 then s else opRun s o (unitsOn s o units) found bolts) h))))
    | _ => .next s := by
  have hany : s.reeve.ops.any (fun o => o.handle == h) = true :=
    List.any_eq_true.mpr ⟨o, List.mem_of_find?_eq_some hf, List.find?_some (p := fun o : Op => o.handle == h) hf⟩
  change execLongOperationEnd h units ok found bolts s = _
  unfold execLongOperationEnd
  rw [opGet_of_find hf]
  dsimp only
  rw [if_neg (by simp [hany])]
  rfl

theorem longOperationEnd_queued (hf : s.reeve.ops.find? (fun o => o.handle == h) = some o) (hst : o.state = 0) :
    exec (.longOperationEnd h units ok found bolts) s = .next (withHealth s (opsStart s)) := by
  rw [exec_longOperationEnd hf, hst]
  rfl

theorem longOperationEnd_running (hf : s.reeve.ops.find? (fun o => o.handle == h) = some o) (hst : o.state = 1) :
    exec (.longOperationEnd h units ok found bolts) s
      = if (opKind o == 2 && loadsDeferred s) || opKind o == 4 || (opKind o == 6 && qualifying s o) then .next s
        else .next (withHealth s (opsStart (opComplete s o ok found bolts))) := by
  rw [exec_longOperationEnd hf, hst]
  rfl

theorem longOperationEnd_suspending (hf : s.reeve.ops.find? (fun o => o.handle == h) = some o) (hst : o.state = 2) :
    exec (.longOperationEnd h units ok found bolts) s
      = if opKind o == 4 then .next s
        else .next (withHealth s (opState (opRun s o (unitsOn s o units) found bolts) { o with done := o.done + unitsOn s o units } 3)) := by
  rw [exec_longOperationEnd hf, hst]
  rfl

theorem longOperationEnd_cancelling (hf : s.reeve.ops.find? (fun o => o.handle == h) = some o) (hst : o.state = 4) :
    exec (.longOperationEnd h units ok found bolts) s
      = .next (withHealth s (opsStart (opCutShort (if opKind o == 4 || opKind o == 5 then s else opRun s o (unitsOn s o units) found bolts)
          (opGet (if opKind o == 4 || opKind o == 5 then s else opRun s o (unitsOn s o units) found bolts) h)))) := by
  rw [exec_longOperationEnd hf, hst]
  rfl

/-- A bulk load ends as it completes, and so does a firmware update in its activation or with an image that does not verify. -/
theorem opComplete_ends (hk : opKind o = 2 ∨ (opKind o = 5 ∧ (o.total ≤ o.done + 1 ∨ ok = false))) :
    ∃ v st result, (st = 5 ∨ st = 7) ∧ opComplete s o ok found bolts = opFinish v o.handle st result := by
  have hcode : ∀ good : Bool, (if good then 5 else 7) = 5 ∨ (if good then 5 else 7) = 7 := by decide
  unfold opComplete
  dsimp only
  obtain hk | ⟨hk, hend⟩ := hk
  · rw [hk]
    exact ⟨_, _, 0, hcode _, rfl⟩
  · simp only [hk]
    split_ifs with hmore hok hstandby
    · obtain hend | hend := hend
      · omega
      · simp [hend] at hok
    · exact ⟨_, 7, _, .inr rfl, rfl⟩
    · exact ⟨_, 5, _, .inl rfl, rfl⟩
    · exact ⟨_, 7, _, .inr rfl, rfl⟩

theorem qualifying_iff : qualifying s o = true ↔ ∃ p, p < 32 ∧ bitAt o.mask (32 + p) = true ∧ (getPort s p).st = 4 := by
  simp [qualifying, List.any_eq_true]

end

/-! ## Assays -/

theorem assay_assayEnd (s : State) (n : Nat) : (getPart (assayEnd s n) n).assay = none := by
  unfold assayEnd
  split
  · rw [getPart_modPart_same]
  · assumption

/-- A setup makes the assay's next replay live, and keeps what the assay has found. -/
theorem assay_assaySetup (s : State) (n : Nat) (a : Assay) : ∃ b, (getPart (assaySetup s n a) n).assay = some b ∧ b.live = true
    ∧ b.replay = a.replay ∧ b.lot = a.lot ∧ b.results = a.results ∧ b.mode = a.mode ∧ b.handle = a.handle := by
  unfold assaySetup
  rw [getPart_modPart_same]
  exact ⟨_, rfl, rfl, rfl, rfl, rfl, rfl, rfl⟩

theorem setupBlocked_congr {s t : State} (hrow : ∀ r, getRow t r = getRow s r) {n : Nat} {a : Assay}
    (h : ∀ r ∈ partRows n, (getRow s r).stop ≠ .slice) : setupBlocked t n a = false := by
  unfold setupBlocked
  rw [List.any_eq_false]
  intro r hr
  rw [hrow]
  simp [h r hr]

/-- The assay that an operation's arguments describe. -/
def assayNew (o : Op) (l : Lot) : Assay :=
  { lot := fld o.args 8 8, mode := fld o.args 1 1, handle := o.handle
    suspects := assaySuspects (fld o.args 1 1) ((upto 0 (fld o.args 2 1)).map (fun i => fld o.args (16 + 2 * i) 2)) l }

/-- A partition with its assay. -/
def assaySet (s : State) (n : Nat) (a : Assay) : State := modPart s n (fun p => { p with assay := some a })

section
variable {n : Nat} {s : State}

theorem exec_assayStart_idle (hn : n < 12) (h : assayOp s n = none ∨ (∃ o, assayOp s n = some o ∧ o.state ≠ 1) ∨ loadsDeferred s = true
    ∨ partDown s n = true ∨ (∃ l ∈ (getPart s n).lots, l.state ≠ 0)) : exec (.assayStart n) s = .next s := by
  change execAssayStart n s = _
  unfold execAssayStart
  rw [if_neg (not_not.mpr hn)]
  cases ho : assayOp s n with
  | none => rfl
  | some o =>
    have hbar : (o.state != 1 || loadsDeferred s || partDown s n || (getPart s n).lots.any (fun l => l.state != 0)) = true := by
      simp only [ho, reduceCtorEq, false_or, Option.some.injEq, exists_eq_left'] at h
      obtain h | h | h | ⟨l, hl, h⟩ := h
      · simp [h]
      · simp [h]
      · simp [h]
      · have : (getPart s n).lots.any (fun l => l.state != 0) = true := List.any_eq_true.mpr ⟨l, hl, by simpa using h⟩
        simp [this]
    dsimp only
    rw [if_pos hbar]

theorem exec_assayStart {o : Op} (hn : n < 12) (ho : assayOp s n = some o) (hst : o.state = 1) (hdefer : loadsDeferred s = false)
    (hdown : partDown s n = false) (hlots : ∀ l ∈ (getPart s n).lots, l.state = 0) :
    exec (.assayStart n) s = match (getPart s n).assay with
      | some a => if a.live || setupBlocked s n a then .next s else .next (withHealth s (assaySetup s n a))
      | none => match endedFind s n (fld o.args 8 8) with
        | none => .next (withHealth s (opFinish s o.handle 7 0x2E))
        | some e => .next (withHealth s (if setupBlocked s n (assayNew o e.lot) then assaySet s n (assayNew o e.lot)
            else assaySetup (assaySet s n (assayNew o e.lot)) n (assayNew o e.lot))) := by
  have hany : (getPart s n).lots.any (fun l => l.state != 0) = false := List.any_eq_false.mpr fun l hl => by simp [hlots l hl]
  change execAssayStart n s = _
  unfold execAssayStart
  rw [if_neg (not_not.mpr hn), ho]
  dsimp only
  rw [if_neg (by simp [hst, hdefer, hdown, hany])]
  rfl

theorem liveAssay_some {a : Assay} (h : liveAssay s n = some a) : (getPart s n).assay = some a ∧ a.live = true := by
  simpa [liveAssay, Option.filter_eq_some_iff] using h

/-- What a replay that has run leaves of its tiles; one cut short leaves nothing. -/
def replayGot (s : State) (n : Nat) (a : Assay) : Kv (Nat × List (List Byte)) :=
  if a.cut then [] else (logTiles n).map (fun t => (t, roleResult s (physOf s t)))

/-- An assay whose replay is over. -/
def replayOver (s : State) (n : Nat) (a : Assay) : Assay :=
  { a with live := false, cut := false, replay := a.replay + 1, results := a.results ++ [replayGot s n a] }

/-- An operation a replay further on. -/
def opReplayed (k : Nat) (o : Op) : Op := { o with done := k, resume := k }

/-- A replay over, and noted with its operation. -/
def replayNoted (s : State) (n : Nat) (a : Assay) : State := modOp (assaySet s n (replayOver s n a)) a.handle (opReplayed a.replay)

theorem replayNoted_frame (a : Assay) : Touches [.parts, .ops] s (replayNoted s n a) := by simp [replayNoted, assaySet]

theorem getPart_replayNoted (a : Assay) : (getPart (replayNoted s n a) n).assay = some (replayOver s n a) := by
  rw [replayNoted, ((touches_modOp (F := [.ops]) (by simp)).mpr (Touches.refl _ _)).getPart, assaySet, getPart_modPart_same]

theorem opGet_replayNoted (a : Assay) : (opGet (replayNoted s n a) a.handle).total = (opGet s a.handle).total
    ∧ (opGet (replayNoted s n a) a.handle).state = (opGet s a.handle).state := by
  have hfind := find_modOp (assaySet s n (replayOver s n a)) a.handle (opReplayed a.replay) (fun _ => rfl)
  have hsame : (assaySet s n (replayOver s n a)).reeve.ops = s.reeve.ops := rfl
  rw [hsame] at hfind
  rw [opGet, replayNoted, hfind, opGet]
  cases s.reeve.ops.find? (fun o => o.handle == a.handle) with
  | none => exact ⟨rfl, rfl⟩
  | some o => exact ⟨rfl, rfl⟩

/-- An assay's last replay over: its tiles are classified, and its operation ends. -/
def assayClosed (s : State) (n : Nat) (a : Assay) : State :=
  assayEnd (modOp (replayNoted s n a) a.handle (fun o => { o with
    detail := ((logTiles n).filter (fun t => assayOutcome (assayLot s n a) (replayOver s n a) t != 6)).length })) n

theorem exec_assayReplayEnd {a : Assay} (hn : n < 12) (ha : liveAssay s n = some a) :
    exec (.assayReplayEnd n) s
      = if !a.cut && ctxBell s n < (assayLot s n a).start + (assayLot s n a).intervals then .next s
        else if (opGet s a.handle).total ≤ a.replay then .next (withHealth s (opsStart (opFinish (assayClosed s n a) a.handle 5 0)))
        else if (opGet s a.handle).state == 2 then .next (withHealth s (opState (replayNoted s n a) (opGet (replayNoted s n a) a.handle) 3))
        else if (opGet s a.handle).state == 4 then .next (withHealth s (opsStart (opFinish (assayEnd (replayNoted s n a) n) a.handle 6 0)))
        else .next (withHealth s (if loadsDeferred s || setupBlocked (replayNoted s n a) n (replayOver s n a) then replayNoted s n a
          else assaySetup (replayNoted s n a) n (replayOver s n a))) := by
  obtain ⟨htotal, hst⟩ := opGet_replayNoted (s := s) (n := n) a
  have hdefer : loadsDeferred (replayNoted s n a) = loadsDeferred s := by
    rw [loadsDeferred, (replayNoted_frame a).changes, loadsDeferred]
  rw [← htotal, ← hst, ← hdefer]
  change execAssayReplayEnd n s = _
  unfold execAssayReplayEnd
  rw [if_neg (not_not.mpr hn), ha]
  rfl

/-- Operations that end and start leave the assays of the partitions. -/
theorem getPart_opsStart_opFinish (u : State) (h st result : Nat) : getPart (opsStart (opFinish u h st result)) n = getPart u n := by
  rw [(opsStart_frame _).getPart, (opFinish_frame _ _ _ _).getPart]

end

/-- Settles O47: operations by what their state makes of them (`exec_longOperationEnd`), assays by the rows of their replays. -/
theorem longOperationsAndAssays : Obligations.LongOperationsAndAssays := by
  refine ⟨⟨fun h units ok found bolts s o hf => ?ends, fun h units ok found bolts s hnone => ?none, fun s h st result => ops_opFinish s h st result⟩,
    fun n o s hn ho hst hdefer hdown hlots hnone => ⟨fun e he => ?first, fun he => ?unknown⟩,
    fun n o a s hn ho hst hdefer hdown hlots ha => ⟨fun h => ?waits, fun hlive hblocked => ?next⟩,
    fun s n a h => ?blocked, fun n s hn h => exec_assayStart_idle hn h,
    fun n a s hn ha => ⟨fun hcut hearly => ?early, fun hover => ⟨fun htotal => ?last, fun hst htotal => ?follows, fun hst htotal => ?suspended,
      fun hst htotal => ?cancelled⟩⟩, fun n s hn h => ?noAssay, fun s n => assay_assayEnd s n⟩
  case ends =>
    have hh : o.handle = h := by simpa using List.find?_some (p := fun o : Op => o.handle == h) hf
    have hplain : opKind o = 1 ∨ opKind o = 3 ∨ opKind o = 6 → opComplete s o ok found bolts = opFinish (opRun s o (o.total - o.done) found bolts) h 5 0 :=
      fun hk => by
        rw [← hh]
        unfold opComplete
        rcases hk with hk | hk | hk <;> simp [hk]
    refine ⟨longOperationEnd_queued hf, fun hst hk => ?_, fun hst hk hload => ⟨?_, fun hend x hx hxh => ?_⟩, fun hst hk hload => ?_,
      fun hst hk hports => ?_, fun hst hk => ?_, fun hst hk => ?_, fun hst => ?_, fun hst hk => ?_, fun hst hk => ⟨_, longOperationEnd_cancelling hf hst⟩,
      fun hst hk => ?_, fun hst hk => ?_⟩
    · rw [longOperationEnd_running hf hst, hplain (by omega), if_neg]
      rcases hk with hk | hk <;> simp [hk]
    · rw [longOperationEnd_running hf hst, if_neg]
      rcases hk with hk | hk
      · simp [hk, hload hk]
      · simp [hk]
    · have hkind : opKind o = 2 ∨ (opKind o = 5 ∧ (o.total ≤ o.done + 1 ∨ ok = false)) :=
        hk.imp_right fun h5 => ⟨h5, hend.resolve_left (by omega)⟩
      obtain ⟨v, st, result, hst', hcomplete⟩ := opComplete_ends (s := s) (found := found) (bolts := bolts) hkind
      rw [hcomplete] at hx
      rw [(ops_opFinish _ _ _ _ x hx (hxh.trans hh.symm)).1]
      exact hst'
    · rw [longOperationEnd_running hf hst, if_pos (by simp [hk, hload])]
    · have hqual : qualifying s o = false := by
        rw [Bool.eq_false_iff]
        exact fun hq => by
          obtain ⟨p, hp, hbit, hport⟩ := qualifying_iff.mp hq
          exact hports p hp hbit hport
      rw [longOperationEnd_running hf hst, hplain (.inr (.inr hk)), if_neg (by simp [hk, hqual])]
    · rw [longOperationEnd_running hf hst, if_pos]
      rcases hk with hk | ⟨hk, hq⟩
      · simp [hk]
      · simp [hk, qualifying_iff.mpr hq]
    · rw [longOperationEnd_suspending hf hst, if_pos (by simp [hk])]
    · rw [exec_longOperationEnd hf]
      split
      · omega
      · omega
      · omega
      · omega
      · rfl
    · have hsame : (opKind o == 4 || opKind o == 5) = true := by rcases hk with hk | hk <;> simp [hk]
      rw [longOperationEnd_cancelling hf hst, if_pos hsame, opGet_of_find hf]
    · exact ⟨_, (longOperationEnd_suspending hf hst).trans (if_neg (by simpa using hk)), fun x hx hxh =>
        ops_opState _ _ _ x hx (hxh.trans hh.symm)⟩
    · have hunits : unitsOn s o units = min units (o.total - o.done) := by
        rcases hk with hk | hk <;> simp [unitsOn, hk]
      have hcut : ∀ u, opCutShort u (opGet u h) = opFinish u h 6 0 := fun u => by
        have hk' : opKind (opGet u h) = opKind o := by rw [opKind, opGet_handle, opKind, hh]
        unfold opCutShort opCancelled
        rcases hk with hk | hk <;> simp [hk', hk, opGet_handle]
      have hrun : (opKind o == 4 || opKind o == 5) = false := by rcases hk with hk | hk <;> simp [hk]
      rw [longOperationEnd_cancelling hf hst, hrun, if_neg Bool.false_ne_true, hcut, hunits]
  case none =>
    have hany : s.reeve.ops.any (fun o => o.handle == h) = false := by
      rw [List.any_eq_false]
      exact fun o ho => by simpa using List.find?_eq_none.mp hnone o ho
    change execLongOperationEnd h units ok found bolts s = _
    unfold execLongOperationEnd
    dsimp only
    rw [if_pos (by simp [hany])]
  case first =>
    have hrun := exec_assayStart hn ho hst hdefer hdown hlots
    rw [hnone] at hrun
    simp only [he] at hrun
    by_cases hblocked : setupBlocked s n (assayNew o e.lot) = true
    · refine ⟨assaySet s n (assayNew o e.lot), assayNew o e.lot, ?_, ?_, fun hstill => ?_, rfl, rfl, rfl, rfl, rfl⟩
      · rw [hrun, if_pos hblocked]
      · rw [assaySet, getPart_modPart_same]
      · exact absurd hblocked (by rw [setupBlocked_congr (fun _ => rfl) hstill]; simp)
    · obtain ⟨b, hb, hlive, hreplay, hlot, hres, hmode, hhandle⟩ := assay_assaySetup (assaySet s n (assayNew o e.lot)) n (assayNew o e.lot)
      exact ⟨assaySetup (assaySet s n (assayNew o e.lot)) n (assayNew o e.lot), b, by rw [hrun, if_neg hblocked], hb, fun _ => hlive, hlot, hmode,
        hhandle, hreplay, hres⟩
  case unknown =>
    have hrun := exec_assayStart hn ho hst hdefer hdown hlots
    rw [hnone] at hrun
    simp only [he] at hrun
    exact hrun
  case waits =>
    have hrun := exec_assayStart hn ho hst hdefer hdown hlots
    rw [ha] at hrun
    exact hrun.trans (if_pos (by simpa using h))
  case next =>
    have hrun := exec_assayStart hn ho hst hdefer hdown hlots
    rw [ha] at hrun
    obtain ⟨b, hb, hlive', hreplay, hlot, hres, -, -⟩ := assay_assaySetup s n a
    exact ⟨_, b, hrun.trans (if_neg (by simp [hlive, hblocked])), hb, hlive', hreplay, hlot, hres⟩
  case blocked =>
    obtain ⟨r, hr, hboth⟩ := List.any_eq_true.mp h
    exact ⟨r, hr, by simpa using hboth⟩
  case early => rw [exec_assayReplayEnd hn ha, if_pos (by simp [hcut, hearly])]
  case noAssay =>
    change execAssayReplayEnd n s = _
    unfold execAssayReplayEnd
    rw [if_neg (not_not.mpr hn), h]
  all_goals
    have hlate : ¬((!a.cut && ctxBell s n < (assayLot s n a).start + (assayLot s n a).intervals) = true) := by
      obtain h | h := hover
      · simp [h]
      · simp [Nat.not_lt.mpr h]
    have hrun := (exec_assayReplayEnd hn ha).trans (if_neg hlate)
  case last =>
    refine ⟨_, hrun.trans (if_pos htotal), ?_⟩
    rw [getPart_opsStart_opFinish, assayClosed, assay_assayEnd]
  all_goals rw [if_neg (Nat.not_le.mpr htotal), hst] at hrun
  case follows =>
    have hrun' := hrun.trans ((if_neg (by decide)).trans (if_neg (by decide)))
    by_cases hwait : (loadsDeferred s || setupBlocked (replayNoted s n a) n (replayOver s n a)) = true
    · rw [if_pos hwait] at hrun'
      refine ⟨_, replayOver s n a, hrun', getPart_replayNoted a, fun hstill => ?_, fun _ => rfl, rfl, by simp [replayOver], rfl⟩
      rw [setupBlocked_congr (fun r => (replayNoted_frame a).getRow r) hstill, Bool.or_false] at hwait
      rw [hwait]
      rfl
    · rw [if_neg hwait] at hrun'
      have hdefer : loadsDeferred s = false := by
        simp only [Bool.or_eq_true, not_or, Bool.not_eq_true] at hwait
        exact hwait.1
      obtain ⟨b, hb, hlive, hreplay, hlot, hres, -, -⟩ := assay_assaySetup (replayNoted s n a) n (replayOver s n a)
      refine ⟨_, b, hrun', hb, fun _ => by rw [hlive, hdefer]; rfl, fun h => absurd h (by simp [hdefer]), hreplay, ?_, hlot⟩
      rw [hres]
      simp [replayOver]
  case suspended =>
    refine ⟨_, replayOver s n a, hrun.trans (if_pos (by decide)), ?_, rfl, ?_⟩
    · rw [(opState_frame _ _ _).getPart, getPart_replayNoted]
    · exact state_opGet_opState (by rw [(opGet_replayNoted a).2, hst]; decide)
  case cancelled =>
    refine ⟨_, hrun.trans ((if_neg (by decide)).trans (if_pos (by decide))), ?_⟩
    rw [getPart_opsStart_opFinish, assay_assayEnd]

end Sys2Proof.Machine
end

section
/-! SUPPORT. Doorbells, ring resets and interrupts (O48), and what every mailbox command meets (O49): what the answer to a command
leaves on its page, and what the checks let through. -/

-- One proof after another: threads that wait for each other count against the memory of the check.
set_option Elab.async false

namespace Sys2Proof.Machine

/-! ## What an answer leaves on the pages -/

theorem doorbell_rspWrite (s : State) (pg m : Nat) (r : List Byte) :
    (getPage (rspWrite s pg r) m).doorbell = (getPage s m).doorbell := by
  by_cases h : m = pg
  · subst h; simp [rspWrite]
  · simp [rspWrite, getPage_modPage_other _ _ _ _ h]

theorem doorbell_rspPut (s : State) (pg m : Nat) (w : Option (Nat × Nat)) (r : List Byte) :
    (getPage (rspPut s pg w r) m).doorbell = (getPage s m).doorbell := by
  rw [rspPut]
  split
  · exact doorbell_rspWrite s pg m r
  · by_cases h : m = pg
    · subst h; simp
    · rw [getPage_modPage_other _ _ _ _ h]

theorem cmdCi_rspPut (s : State) (pg : Nat) (w : Option (Nat × Nat)) (r : List Byte) :
    (getPage (rspPut s pg w r) pg).cmdCi = (getPage s pg).cmdCi := by
  rw [rspPut]; split <;> simp [rspWrite]

theorem rspWrite_frame (s : State) (pg : Nat) (r : List Byte) : Touches [.pages, .due] s (rspWrite s pg r) := by simp [rspWrite]

theorem rspPut_frame (s : State) (pg : Nat) (w : Option (Nat × Nat)) (r : List Byte) :
    Touches [.pages, .due] s (rspPut s pg w r) := by
  rw [rspPut]
  split
  · exact rspWrite_frame s pg r
  · simp

/-- The response buffer of an answer is written before its entry. -/
def rspBuffer (c : MCmd) (a : Ans) (s : State) : State :=
  if a.buf.isEmpty then s else dmaOut s c.pg (fld c.ent 0x18 8) a.buf

theorem getPage_rspBuffer (c : MCmd) (a : Ans) (s : State) (m : Nat) : getPage (rspBuffer c a s) m = getPage s m := by
  rw [rspBuffer]; split <;> rfl

theorem rspBuffer_frame (c : MCmd) (a : Ans) (s : State) : Touches [.out] s (rspBuffer c a s) := by
  rw [rspBuffer]
  split
  · exact Touches.refl _ _
  · simp [dmaOut]

/-- A command counted as taken, and its page's turn over. -/
def turnOver (seq pg : Nat) (r : Reeve) : Reeve := { r with takeSeq := seq, lastPage := pg }

/-- A command counted as taken, its page's turn over, and its response buffer written. -/
def mailTurned (c : MCmd) (a : Ans) : State :=
  rspBuffer c a (modReeve a.st (turnOver (a.st.reeve.takeSeq + 1) c.pg))

theorem mailDone_eq (c : MCmd) (a : Ans) : mailDone c a =
    rspPut (modPage (mailTurned c a) c.pg (fun q => { q with cmdCi := (q.cmdCi + 1) % 2 ^ 32 })) c.pg a.wait
      (rspEntry c (a.st.reeve.takeSeq + 1) a) := rfl

theorem getPage_mailTurned (c : MCmd) (a : Ans) (m : Nat) : getPage (mailTurned c a) m = getPage a.st m :=
  (getPage_rspBuffer _ _ _ _).trans rfl

theorem doorbell_mailDone (c : MCmd) (a : Ans) (m : Nat) : (getPage (mailDone c a) m).doorbell = (getPage a.st m).doorbell := by
  rw [mailDone_eq, doorbell_rspPut]
  by_cases h : m = c.pg
  · rw [h, getPage_modPage_same, getPage_mailTurned]
  · rw [getPage_modPage_other _ _ _ _ h, getPage_mailTurned]

theorem cmdCi_mailDone (c : MCmd) (a : Ans) :
    (getPage (mailDone c a) c.pg).cmdCi = ((getPage a.st c.pg).cmdCi + 1) % 2 ^ 32 := by
  rw [mailDone_eq, cmdCi_rspPut, getPage_modPage_same, getPage_mailTurned]

theorem mailDone_frame (c : MCmd) (a : Ans) : Touches [.pages, .due, .out, .reeve] a.st (mailDone c a) := by
  have hturn : Touches [.reeve] a.st (modReeve a.st (turnOver (a.st.reeve.takeSeq + 1) c.pg)) :=
    (touches_modReeve_rest (f := turnOver _ _) (fun _ => ⟨rfl, rfl, rfl, rfl⟩) List.mem_cons_self).mpr (Touches.refl _ _)
  have hbuf : Touches [.pages, .due, .out, .reeve] a.st (mailTurned c a) :=
    (hturn.mono (by decide)).trans ((rspBuffer_frame c a _).mono (by decide))
  rw [mailDone_eq, Touches.iff_of (rspPut_frame _ _ _ _) (by decide), touches_modPage (by decide)]
  exact hbuf

/-- An answer counts its command and ends its page's turn. -/
theorem turn_mailDone (c : MCmd) (a : Ans) :
    (mailDone c a).reeve.takeSeq = a.st.reeve.takeSeq + 1 ∧ (mailDone c a).reeve.lastPage = c.pg := by
  have hrsp := (rspPut_frame (modPage (mailTurned c a) c.pg (fun q => { q with cmdCi := (q.cmdCi + 1) % 2 ^ 32 })) c.pg a.wait
    (rspEntry c (a.st.reeve.takeSeq + 1) a)).reeve
  have hbuf := (rspBuffer_frame c a (modReeve a.st (turnOver (a.st.reeve.takeSeq + 1) c.pg))).reeve
  rw [mailDone_eq]
  exact ⟨((congrArg Reeve.takeSeq hrsp :).trans (congrArg Reeve.takeSeq hbuf :)),
    ((congrArg Reeve.lastPage hrsp :).trans (congrArg Reeve.lastPage hbuf :))⟩

/-! ## Entries that no row serves -/

theorem st_strayAnswer (s : State) (c : MCmd) : (strayAnswer s c).st = s := by
  simp only [strayAnswer]
  repeat' split
  all_goals rfl

/-- What holds after each answer to a stray entry holds after all of them. -/
theorem mailDrain_rel {R : State → State → Prop} (hrefl : ∀ s, R s s) (htrans : ∀ {a b c}, R a b → R b c → R a c)
    (hstray : ∀ s c, R s (mailDone c (strayAnswer s c))) (n : Nat) (s : State) : R s (mailDrain n s) := by
  induction n generalizing s with
  | zero => exact hrefl s
  | succ n ih =>
    rw [mailDrain]
    split
    · exact hrefl s
    · split
      · exact hrefl s
      · split
        · exact hrefl s
        · exact htrans (hstray s _) (ih _)

theorem doorbell_mailDrain (n : Nat) (s : State) (m : Nat) : (getPage (mailDrain n s) m).doorbell = (getPage s m).doorbell :=
  mailDrain_rel (R := fun s t => (getPage t m).doorbell = (getPage s m).doorbell) (fun _ => rfl) (fun hab hbc => hbc.trans hab)
    (fun s c => by rw [doorbell_mailDone, st_strayAnswer]) n s

/-! ## Doorbells and ring resets -/

theorem doorbell_doorbellPut {s : State} {pg v : Nat} (h : idxDist v (getPage s pg).cmdCi ≤ 16) :
    (getPage (doorbellPut s pg v) pg).doorbell = v % 2 ^ 32 := by
  rw [doorbellPut, if_pos h, doorbell_mailDrain, getPage_modPage_same]

theorem getPage_ringReset_other {m n : Nat} (h : m ≠ n) (s : State) (cause : Nat) : getPage (ringReset s n cause) m = getPage s m := by
  simp only [ringReset, evPut, getPage_vecDue]
  rw [getPage_modPage_other _ _ _ _ h, getPage_modPage_other _ _ _ _ h]

theorem rings_ringReset (s : State) (n cause : Nat) :
    (getPage (ringReset s n cause) n).rspCi = 0 ∧ (getPage (ringReset s n cause) n).evCi = 0
      ∧ (getPage (ringReset s n cause) n).evPi = 1 ∧ (getPage (ringReset s n cause) n).cqPi = 0
      ∧ (getPage (ringReset s n cause) n).bad = false := by
  simp [ringReset, evPut]

theorem event_ringReset (s : State) (n cause : Nat) : fld (kvGet [] (getPage (ringReset s n cause) n).ev 0) 0 2 = 6 := by
  simp [ringReset, evPut, fld, slice, toLe, leNat]

/-! ## MSI-X -/

theorem execMsixMessage_of_due {v : Nat} {s : State} (hv : v < 48) (hdue : bitAt s.hst.due v = true) (hirq : irqOn s v = true)
    (hen : s.hst.msixEn = true) (hup : s.hst.pcieUp = true) : exec (.msixMessage v) s =
      if (kvGet {} s.hst.msix v).masked || s.hst.msixMask then .next { s with hst := { s.hst with pba := setBit s.hst.pba v } }
      else if !s.hst.busMaster then .next s
      else .next { putOut s 1 (kvGet {} s.hst.msix v).addr (toLe 4 (kvGet {} s.hst.msix v).data) with
        hst := { s.hst with due := clrBit s.hst.due v, pba := clrBit s.hst.pba v } } := by
  change execMsixMessage v s = _
  rw [execMsixMessage, if_neg (not_not.mpr hv), if_neg (by simp [hdue, hirq, hen, hup])]
  rfl

/-- Settles O48. -/
theorem ringsAndInterrupts : Obligations.RingsAndInterrupts := by
  refine ⟨fun pg v s hpg hbar => ?_, fun pg v s hpg hbar => ?_, fun s pg v => ⟨doorbell_doorbellPut, fun h => ?_⟩,
    fun n s hn hbit => ?_, fun n s hn hbit => ?_, fun v s hv hdue hirq hen hup => ⟨?_, ?_, ?_⟩, fun v s hv hnot => ?_⟩
  · change execDoorbellWrite pg v s = _
    rw [execDoorbellWrite, if_neg (not_not.mpr hpg), if_neg (by simp [hbar])]
  · change execDoorbellWrite pg v s = _
    rw [execDoorbellWrite, if_neg (not_not.mpr hpg), if_pos (by simp [hbar])]
  · rw [doorbellPut, if_neg (by omega)]
  · obtain ⟨hcmd, hrsp, hbell, hresets⟩ := getPage_ringReset s n 1
    obtain ⟨hrspCi, hevCi, hevPi, hcq, hbad⟩ := rings_ringReset s n 1
    have hf := ringReset_frame s n 1
    refine ⟨{ ringReset s n 1 with hst := { (ringReset s n 1).hst with ringReset := clrBit (ringReset s n 1).hst.ringReset n } },
      ?_, hcmd, hrsp, hrspCi, hbell, hevCi, hevPi, hcq, hbad, hresets, event_ringReset s n 1, bitAt_clrBit_same _ _,
      fun m hm => getPage_ringReset_other hm s 1, hf.parts, hf.tiles⟩
    change execRingReset n s = _
    rw [execRingReset, if_neg (not_not.mpr hn), if_neg (by simp [hbit])]
  · change execRingReset n s = _
    rw [execRingReset, if_neg (not_not.mpr hn), if_pos (by simp [hbit])]
  · intro hmask hall hmaster
    rw [execMsixMessage_of_due hv hdue hirq hen hup, if_neg (by simp [hmask, hall]), if_neg (by simp [hmaster])]
    exact ⟨_, rfl, rfl, rfl, bitAt_clrBit_same _ _, bitAt_clrBit_same _ _⟩
  · intro hmask
    rw [execMsixMessage_of_due hv hdue hirq hen hup, if_pos (by simpa using hmask)]
    exact ⟨_, rfl, rfl, bitAt_setBit _ _⟩
  · intro hmask hall hmaster
    rw [execMsixMessage_of_due hv hdue hirq hen hup, if_neg (by simp [hmask, hall]), if_pos (by simp [hmaster])]
  · change execMsixMessage v s = _
    rw [execMsixMessage, if_neg (not_not.mpr hv), if_pos]
    rcases hnot with h | h | h | h <;> simp [h]

/-! ## The checks of a command -/

theorem reqRead_frame (s : State) (c : MCmd) (x : CSpec) : Touches [.out] s (reqRead s c x) := by
  rw [reqRead]
  split
  · simp [dmaIn]
  · exact Touches.refl _ _

theorem reqRead_eq (s : State) (c : MCmd) (x : CSpec) : reqRead s c x = { s with out := (reqRead s c x).out } :=
  (reqRead_frame s c x).eq_overlay

theorem serveCmd_of_checked {s : State} {c : MCmd} {x : CSpec} (reqOk respOk : Bool) (h : State → MCmd → Ans)
    (hcheck : mailCheck s c x = none) : serveCmd s c x reqOk respOk h =
      if x.req && !reqOk then deny (reqRead s c x) 0x14 1
      else if (h (reqRead s c x) c).buf.isEmpty then h (reqRead s c x) c
      else if cCap c < (h (reqRead s c x) c).buf.length then
        { deny (reqRead s c x) 0x15 0 with need := (h (reqRead s c x) c).buf.length }
      else if !respOk then deny (reqRead s c x) 0x14 2
      else h (reqRead s c x) c := by
  simp only [serveCmd, hcheck]

theorem turnPage_spec {s : State} {pg : Nat} (h : turnPage s = some pg) :
    ∃ i, 1 ≤ i ∧ i ≤ 16 ∧ pg = (s.reeve.lastPage + i) % 16 ∧ (waitCmd s pg).isSome = true
      ∧ ∀ j, 1 ≤ j → j < i → waitCmd s ((s.reeve.lastPage + j) % 16) = none := by
  rw [turnPage, List.find?_map, Option.map_eq_some_iff] at h
  obtain ⟨i, hfind, rfl⟩ := h
  have hmem := (mem_upto _ _ _).mp (List.mem_of_find?_eq_some hfind)
  rw [List.find?_eq_some_iff_append] at hfind
  obtain ⟨hwait, as, bs, hsplit, hfirst⟩ := hfind
  refine ⟨i, hmem.1, by omega, rfl, hwait, fun j hj hji => ?_⟩
  have hjmem : j ∈ as := by
    have hj' : j ∈ as ++ i :: bs := hsplit ▸ (mem_upto _ _ _).mpr ⟨hj, by omega⟩
    have hsorted : (as ++ i :: bs).Pairwise (· < ·) := hsplit ▸ (by decide)
    rw [List.pairwise_append] at hsorted
    obtain ⟨-, hright, -⟩ := hsorted
    rcases List.mem_append.mp hj' with hj' | hj'
    · exact hj'
    · rcases List.mem_cons.mp hj' with rfl | hj'
      · omega
      · have := (List.pairwise_cons.mp hright).1 j hj'
        omega
  simpa using hfirst j hjmem

/-- Settles O49. -/
theorem mailboxChecksComeFirst : Obligations.MailboxChecksComeFirst := by
  refine ⟨fun key pg x h req respOk s hpg hno => ?_, fun s pg h => turnPage_spec h, fun s pg e => ?_, ?_,
    fun s c x => ⟨?_, ?_, ?_, ?_, ?_, ?_⟩,
    fun c a => ⟨cmdCi_mailDone c a, (turn_mailDone c a).1, (turn_mailDone c a).2, (mailDone_frame c a).tiles, (mailDone_frame c a).parts, (mailDone_frame c a).clk⟩⟩
  · rw [mailRow, if_neg (not_not.mpr hpg)]
    rcases hno with hno | ⟨e, he, hkey⟩
    · simp [hno]
    · simp [he, hkey]
  · rw [headCmd]
    split
    · next h => simp [beq_iff_eq.mp h]
    · next h => exact ⟨fun hno => (Option.some_ne_none e hno.symm).elim, fun hturn => (h (beq_iff_eq.mpr hturn.1)).elim⟩
  · rintro s r c x reqOk respOk h rfl
    refine ⟨reqRead_eq s c x, fun e he => ?_, fun hcheck hx hreq => ?_, fun hcheck hreq hbuf => ?_,
      fun hcheck hreq hbuf hcap => ?_, fun hcheck hreq hbuf hcap => ?_⟩
    · simp only [serveCmd, he]
    · rw [serveCmd_of_checked _ _ _ hcheck, if_pos (by simp [hx, hreq])]
    · rw [serveCmd_of_checked _ _ _ hcheck, if_neg (by rcases hreq with h | h <;> simp [h]), if_pos (by simp [hbuf])]
    · rw [serveCmd_of_checked _ _ _ hcheck, if_neg (by rcases hreq with h | h <;> simp [h]), if_neg (by simp [hbuf]), if_pos hcap]
      exact ⟨rfl, rfl, rfl⟩
    · rw [serveCmd_of_checked _ _ _ hcheck, if_neg (by rcases hreq with h | h <;> simp [h]), if_neg (by simp [hbuf]),
        if_neg (by omega)]
      cases respOk <;> rfl
  · intro hpg hdis
    rw [mailCheck, if_pos (by simp [hpg, hdis])]
  · intro hpg hpart
    rw [mailCheck, if_pos (c := (_ || _) = true) (by simp [hpg, hpart]), ite_self]
  · intro hpg hadm
    rw [mailCheck, if_pos (c := (_ || _) = true) (by simp [hpg, hadm]), ite_self]
  · intro hpg hpg' hadm hready hearly
    have hpg12 : ¬ c.pg < 12 := by omega
    rw [mailCheck, if_neg (by simp [hpg12]), if_neg (by simp [hpg12, hadm]), if_pos (by simp [hpg', hready, hearly])]
  · intro i hpg hadm hready hmal
    have hpg12 : ¬ c.pg < 12 := by omega
    rw [mailCheck, if_neg (by simp [hpg12]), if_neg (by simp [hpg12, hadm]), if_neg (by simp [hready]), hmal]
  · intro hpg hadm hready hmal hwrites hcomp
    have hpg12 : ¬ c.pg < 12 := by omega
    rw [mailCheck, if_neg (by simp [hpg12]), if_neg (by simp [hpg12, hadm]), if_neg (by simp [hready]), hmal]
    simp [hwrites, mailBlocked, hcomp]

end Sys2Proof.Machine
end

section
/-! SUPPORT. A row of the mailbox table serves its command (the first clause of O50 to O56), and O50, which a module-compute reset of
a partition that is in one already refutes. -/

-- One proof after another: threads that wait for each other count against the memory of the check.
set_option Elab.async false

namespace Sys2Proof.Machine

/-! ## The rows of the mailbox table -/

/-- What a taken command finds: the checks let it through, its buffers are served, and it is answered by its meaning. -/
theorem serveCmd_of_taken {s : State} {pg key : Nat} {x : CSpec} {e : List Byte} {req : Option (List Byte)} {respOk : Bool}
    {h : State → MCmd → Ans} (ht : taken s pg key x e req respOk (h (reqRead s (mailOf pg e req) x) (mailOf pg e req))) :
    serveCmd s (mailOf pg e req) x req.isSome respOk h = h (reqRead s (mailOf pg e req) x) (mailOf pg e req) := by
  obtain ⟨-, -, -, hreq, hcheck, hbuf⟩ := ht
  rw [serveCmd_of_checked _ _ _ hcheck, if_neg (by simpa [Option.isSome_iff_ne_none] using hreq)]
  cases hempty : (h (reqRead s (mailOf pg e req) x) (mailOf pg e req)).buf.isEmpty with
  | true => rw [if_pos rfl]
  | false =>
    obtain ⟨hok, hcap⟩ := hbuf hempty
    rw [if_neg Bool.false_ne_true, if_neg (by omega), if_neg (by simp [hok])]

theorem mailServes_of_row {i : Nat → Option (List Byte) → Bool → Instr} {key : Nat} {x : CSpec} {h : State → MCmd → Ans}
    (hrow : ∀ pg req respOk s, exec (i pg req respOk) s = mailRow key x h pg req respOk s) : mailServes i key x h := by
  intro pg req respOk s e ht
  have hserve := serveCmd_of_taken ht
  obtain ⟨hpg, hhead, hkey, -, -, -⟩ := ht
  rw [hrow, mailRow, if_neg (not_not.mpr hpg)]
  simp only [hhead]
  rw [if_neg (by simp [hkey])]
  rw [answered, ← hserve]
  rfl

/-! ## A module-compute reset over partitions that are in one -/

/-- A ready module each of whose partitions is in a reset of level 4, with a lot of partition 0 that has not ended. -/
def inComputeReset : State :=
  { State.reset with
    start := { State.reset.start with ready := true }
    parts := (upto 0 12).map (fun n => (n, { reset := some (4, 0), lots := if n = 0 then [{ number := 1 }] else [] })) }

theorem level_of_inComputeReset {s : State} (h : s.parts = inComputeReset.parts) {n : Nat} (hn : n < 12) :
    ((getPart s n).reset.map (fun r => r.1 % 16)).getD 0 = 4 := by
  rw [getPart, h]
  have hall : ∀ n < 12, ((kvGet ({} : Part) inComputeReset.parts n).reset.map (fun r => r.1 % 16)).getD 0 = 4 := by decide
  exact hall n hn

theorem resets_inComputeReset {s : State} (h : s.parts = inComputeReset.parts) :
    (upto 0 12).foldl (fun s n => beginReset s n 4 0x0045) s = s :=
  foldl_fixed_of_mem fun n hn => beginReset_of_higher (.inl (level_of_inComputeReset h (by simpa using hn)).ge)

theorem parts_computeBegin_inComputeReset : (computeBegin inComputeReset).parts = inComputeReset.parts := by
  have hcancel := (opsCancel_frame (sendEvent inComputeReset { code := 0x0192, compl := 0x0045 }) [1, 2, 3, 4] (2 ^ 32 - 1)).parts
  unfold computeBegin
  rw [if_neg (by decide), if_neg (by decide)]
  have hparts : (opsCancel (sendEvent inComputeReset { code := 0x0192, compl := 0x0045 }) [1, 2, 3, 4] (2 ^ 32 - 1)).parts
    = inComputeReset.parts := hcancel
  exact (congrArg State.parts (resets_inComputeReset hparts)).trans hparts

/-- Refutes O50: a reset of a level that a partition is in already changes nothing of it, so the lot of partition 0 in
`inComputeReset`, which has not ended, has not ended after MOD.RESET of level 4 either. -/
theorem not_modCommandsServe : ¬ Obligations.ModCommandsServe := by
  rintro ⟨-, hclauses⟩
  obtain ⟨-, -, -, -, -, -, -, -, -, -, -, -, -, -, -, -, -, -, -, -, -, -, hcompute, -⟩ :=
    hclauses inComputeReset { pg := 12, ent := [], req := [] }
  obtain ⟨-, -, hlots⟩ := hcompute rfl (by decide) rfl
  have hstate : (modResetCompute inComputeReset { pg := 12, ent := [], req := [] }).st = computeBegin inComputeReset := by
    rw [modResetCompute, if_neg (by decide), if_neg (by decide)]
    rfl
  have hlot := hlots 0 (by decide) { number := 1 } (by
    rw [hstate, getPart, parts_computeBegin_inComputeReset]
    exact List.mem_singleton_self _)
  exact absurd hlot (by decide)

end Sys2Proof.Machine
end

section
/-! SUPPORT. The PAT and CTX commands (O51). -/

-- One proof after another: threads that wait for each other count against the memory of the check.
set_option Elab.async false

namespace Sys2Proof.Machine

section
variable {s : State} {c : MCmd} {n off : Nat} {f : Nat → Ans}

theorem withPart_of_mayName (h : mayName c n) : withPart s c n off f = f n := by
  obtain ⟨hn, hpage⟩ := h
  rw [withPart, if_neg (by omega), if_neg (by simp [cAdmin]; omega)]

end

/-! ## Staged changes of patterns -/

theorem patStage_of_busy {s : State} {n : Nat} (h : partBusy s n = true) (c : MCmd) (kind : Nat) (v : List Byte) :
    patStage s c kind n v = deny s 0x24 0 := by
  rw [patStage, if_pos h]

theorem patStage_of_fits {s : State} {c : MCmd} {kind n : Nat} {v : List Byte} (hbusy : partBusy s n = false)
    (hpower : powerBar s { id := 0, kind := kind, parts := 2 ^ n, target := cBell c 8, value := v } = none) :
    patStage s c kind n v = stagePut s c kind (2 ^ n) (cBell c 8) v := by
  rw [patStage, if_neg (by simp [hbusy])]
  simp only [hpower, ite_self]

/-! ## A scan-in -/

/-- A staged change is found by its ID. -/
theorem find_newChange (s : State) (kind parts target page : Nat) (value : List Byte) :
    ∃ x, (newChange s kind parts target page value).2.reeve.changes.find? (fun x => x.id == s.reeve.nextChange) = some x := by
  rw [← Option.isSome_iff_exists, List.find?_isSome]
  exact ⟨_, List.mem_of_getLast? (getLast_newChange s kind parts target page value), beq_self_eq_true _⟩

theorem newChange_fst (s : State) (kind parts target page : Nat) (value : List Byte) :
    (newChange s kind parts target page value).1 = s.reeve.nextChange := rfl

/-- The images of a scan-in read, and its change staged. -/
def scanStaged (s : State) (c : MCmd) (src dst bolt : Nat) : State :=
  (newChange (shareTake s src bolt (384 * imageBolts (scanStore s src bolt))) 0x13 (2 ^ dst) (s.clk.bell + 1) c.pg
    (toLe 1 src ++ toLe 4 bolt)).2

theorem getPart_scanStaged (s : State) (c : MCmd) (src dst bolt n : Nat) :
    (getPart (scanStaged s c src dst bolt) n).resumeIn = (getPart s n).resumeIn := by
  rw [scanStaged, getPart_newChange]
  exact (congrArg Part.resumeIn ((Serves.refl s).shareTake.part n) :)

/-- A scan-in's change: refused at the first image that fails, else decided at the bell, its images restored. -/
def scanJudged (s t : State) (src dst bolt : Nat) (x : Change) : State :=
  match scanBad s src dst bolt with
  | some i => changeDecide t { x with
      evaluated := true, refusers := [(unitId 1 (96 * (16 * (dst / 4) + i / 24) + 24 * (dst % 4) + i % 24), 0)] } 2
  | none => modPart (scanRestore (changePut t { x with evaluated := true }) src dst bolt) dst (fun p => { p with resumeIn := true })

theorem resumeIn_scanJudged (s t : State) (src dst bolt : Nat) (x : Change) :
    (getPart (scanJudged s t src dst bolt x) dst).resumeIn = true
      ↔ scanBad s src dst bolt = none ∨ (getPart t dst).resumeIn = true := by
  rw [scanJudged]
  split
  · next i hbad => rw [(changeDecide_frame _ _ _).getPart, hbad]; simp
  · next hgood => rw [getPart_modPart_same]; simp [hgood]

section
variable {s : State} {c : MCmd} {src dst bolt : Nat}

theorem ctxScanIn_eq (hsrc : mayName c (cPar c 0 1)) (hdst : mayName c (cPar c 1 1))
    (hfit : cPar c 4 4 + 384 * imageBolts (scanStore s (cPar c 0 1) (cPar c 4 4)) ≤ Config.shareBolts)
    (hbusy : partBusy s (cPar c 1 1) = false) (hlive : liveTiles s (cPar c 1 1) = []) (hhalt : (getPart s (cPar c 1 1)).halted = false)
    (hclash : stageClash s 0x13 (2 ^ cPar c 1 1) = none) :
    ∃ x, ctxScanIn s c = { done (scanJudged s (scanStaged s c (cPar c 0 1) (cPar c 1 1) (cPar c 4 4)) (cPar c 0 1) (cPar c 1 1)
      (cPar c 4 4) x) with res := toLe 4 s.reeve.nextChange } := by
  obtain ⟨x, hx⟩ := find_newChange (shareTake s (cPar c 0 1) (cPar c 4 4) (384 * imageBolts (scanStore s (cPar c 0 1) (cPar c 4 4))))
    0x13 (2 ^ cPar c 1 1) (s.clk.bell + 1) c.pg (toLe 1 (cPar c 0 1) ++ toLe 4 (cPar c 4 4))
  have hid : (shareTake s (cPar c 0 1) (cPar c 4 4) (384 * imageBolts (scanStore s (cPar c 0 1) (cPar c 4 4)))).reeve.nextChange
    = s.reeve.nextChange := (Serves.refl s).shareTake.nextChange
  refine ⟨x, ?_⟩
  rw [ctxScanIn, withPart_of_mayName hsrc, withPart_of_mayName hdst]
  simp only
  rw [if_neg (by omega), if_neg (by simp [hbusy]), if_neg (by simp [hlive, hhalt]), hclash]
  simp only [newChange_fst]
  rw [hx, hid, scanStaged, scanJudged]
  cases scanBad s (cPar c 0 1) (cPar c 1 1) (cPar c 4 4) <;> rfl

end

/-- Settles O51. -/
theorem patternAndContextCommandsServe : Obligations.PatternAndContextCommandsServe := by
  refine ⟨⟨mailServes_of_row fun _ _ _ _ => rfl, mailServes_of_row fun _ _ _ _ => rfl, mailServes_of_row fun _ _ _ _ => rfl,
    mailServes_of_row fun _ _ _ _ => rfl, mailServes_of_row fun _ _ _ _ => rfl, mailServes_of_row fun _ _ _ _ => rfl,
    mailServes_of_row fun _ _ _ _ => rfl⟩, fun s c hname => ⟨fun hlen hgood => ?_, fun hlen => ?_, withPart_of_mayName hname,
    fun hbank => ?_, withPart_of_mayName hname, fun hmode hfit hbusy => ?_, fun hdst hfit hbusy hlive hhalt hclash => ?_,
    withPart_of_mayName hname⟩, fun s c kind n v => ⟨fun h => patStage_of_busy h c kind v, patStage_of_fits⟩⟩
  · rw [patLoad, withPart_of_mayName hname]
    simp only
    rw [if_neg (by simp [hlen]), hgood]
  · rw [patLoad, withPart_of_mayName hname, if_pos (by simpa using hlen)]
  · rw [patSwitch, withPart_of_mayName hname, if_neg (by omega)]
  · rw [ctxScanOut, withPart_of_mayName hname, if_neg (by omega), if_neg (by omega), if_neg (by simp [hbusy])]
  · obtain ⟨x, hx⟩ := ctxScanIn_eq hname hdst hfit hbusy hlive hhalt hclash
    rw [hx]
    refine ⟨(resumeIn_scanJudged _ _ _ _ _ _).trans ?_, rfl, rfl⟩
    rw [getPart_scanStaged]

end Sys2Proof.Machine
end

section
/-! SUPPORT. The LOT commands (O52). -/

-- One proof after another: threads that wait for each other count against the memory of the check.
set_option Elab.async false

namespace Sys2Proof.Machine

/-! ## LOT.SUBMIT -/

/-- The lot that a parameter block submits (Table 15.8). -/
def blockLot (s : State) (c : MCmd) : Lot :=
  { number := fld c.req 0 8, cookie := fld c.req 8 8, seed := fld c.req 0x10 8
    start := max (fld c.req 0x18 8 % 2 ^ 48) (lotEarliest s c.pg)
    intervals := fld c.req 0x20 4, reloadBolt := fld c.req 0x28 4, reloadN := fld c.req 0x2C 4
    mills := lotMillList c.req (fld c.req 0x30 2), recLen := fld c.req 0x34 4, recAddr := fld c.req 0x38 8 }

/-- A partition with one more lot queued. -/
def lotQueued (l : Lot) (p : Part) : Part := { p with lots := p.lots ++ [l], lastLot := some l.number, endBell := max p.endBell (lotEnd l) }

section
variable {s : State} {c : MCmd}

theorem lotSubmit_of_good (hblock : lotBlockBad c.req = none) (hcq : (getPart s c.pg).cq.isSome = true)
    (hopen : lotAccepting s c.pg = true) : lotSubmit s c =
      if (getPart s c.pg).lastLot.any (fun k => fld c.req 0 8 ≤ k) then deny s 0x25 0
      else if freeSlots (getPart s c.pg) == 0 then deny s 0x2F 0
      else if fld c.req 0x18 8 % 2 ^ 48 != 0 && fld c.req 0x18 8 % 2 ^ 48 < lotEarliest s c.pg && bitAt (fld c.req 0x24 1) 0 then
        deny s 0x21 (lotEarliest s c.pg % 2 ^ 32)
      else { done (modPart s c.pg (lotQueued (blockLot s c))) with
        res := toLe 2 (freeSlots (getPart (modPart s c.pg (lotQueued (blockLot s c))) c.pg)) } := by
  rw [lotSubmit]
  simp only [hblock]
  rw [if_neg (by simpa [Option.isSome_iff_ne_none] using hcq), if_neg (by simp [hopen])]
  rfl

theorem lotEarliest_ge (s : State) (n : Nat) : s.clk.bell + 2 ≤ lotEarliest s n ∧ (getPart s n).endBell ≤ lotEarliest s n :=
  ⟨le_max_right _ _, le_max_left _ _⟩

end

/-! ## LOT.CANCEL -/

section
variable {s : State} {c : MCmd} {l : Lot}

/-- Change the lots of a number. -/
def lotsOf (num : Nat) (f : Lot → Lot) (ls : List Lot) : List Lot := ls.map (fun x => if x.number == num then f x else x)

theorem of_mem_lotsOf {P : Lot → Prop} {num : Nat} {f : Lot → Lot} {ls : List Lot} (hf : ∀ x, P (f x)) :
    ∀ x ∈ lotsOf num f ls, x.number = num → P x := by
  intro x hx hnum
  obtain ⟨y, -, rfl⟩ := List.mem_map.mp hx
  split
  · exact hf y
  · next h => rw [if_neg h] at hnum; exact absurd (beq_iff_eq.mpr hnum) h

theorem lots_modPart_lotsOf (n num : Nat) (f : Lot → Lot) :
    (getPart (modPart s n (fun p => { p with lots := lotsOf num f p.lots })) n).lots = lotsOf num f (getPart s n).lots := by
  rw [getPart_modPart_same]

theorem lotCancel_of_queued (h : (getPart s c.pg).lots.find? (fun l => l.number == cPar c 0 8) = some l) (hst : l.state = 0) :
    lotCancel s c = { done (modPart s c.pg (fun p => { p with
      lots := lotsOf (cPar c 0 8) (fun x => { endLot s c.pg 0x0051 x with cancelReq := true }) p.lots })) with res := toLe 1 1 } := by
  rw [lotCancel]
  simp only [h]
  rw [if_pos (by simp [hst])]
  rfl

theorem lotCancel_of_active (h : (getPart s c.pg).lots.find? (fun l => l.number == cPar c 0 8) = some l) (hst : l.state = 1)
    (hreq : l.cancelReq = false) : lotCancel s c = { done (modPart s c.pg (fun p => { p with
      lots := lotsOf (cPar c 0 8) (fun x => { x with cancelReq := true }) p.lots })) with wait := some (c.pg, cPar c 0 8) } := by
  rw [lotCancel]
  simp only [h]
  rw [if_neg (by simp [hst]), if_neg (by simp [hst]), if_neg (by simp [hreq])]
  rfl

theorem lotCancel_of_ended (h : (getPart s c.pg).lots.find? (fun l => l.number == cPar c 0 8) = some l) (hst : l.state = 2) :
    lotCancel s c = deny s 0x27 ((firstCause l).getD (0, 0, 0)).1 := by
  rw [lotCancel]
  simp only [h]
  rw [if_neg (by simp [hst]), if_pos (by simp [hst])]

theorem lotEnded_of_some {e : Ended} (h : endedFind s c.pg (cPar c 0 8) = some e) (f : Lot → Ans) : lotEnded s c f = f e.lot := by
  simp only [lotEnded, h]

theorem lotEnded_of_none (hlots : (getPart s c.pg).lots.find? (fun l => l.number == cPar c 0 8) = none)
    (h : endedFind s c.pg (cPar c 0 8) = none) (f : Lot → Ans) : lotEnded s c f = deny s 0x26 0 := by
  have hno : ¬ (getPart s c.pg).lots.any (fun l => l.number == cPar c 0 8) = true := by
    simpa using hlots
  simp only [lotEnded, h]
  rw [if_neg hno]

end

theorem length_flatMap_of_length {α β : Type} {f : α → List β} {k : Nat} (h : ∀ x, (f x).length = k) (l : List α) :
    (l.flatMap f).length = l.length * k := by
  simp [List.length_flatMap, h]

theorem length_upto (a n : Nat) : (upto a n).length = n := by
  induction n generalizing a with
  | zero => rfl
  | succ n ih => rw [upto, List.length_cons, ih]

/-- Settles O52. -/
theorem lotCommandsServe : Obligations.LotCommandsServe := by
  refine ⟨⟨mailServes_of_row fun _ _ _ _ => rfl, mailServes_of_row fun _ _ _ _ => rfl, mailServes_of_row fun _ _ _ _ => rfl,
    mailServes_of_row fun _ _ _ _ => rfl, mailServes_of_row fun _ _ _ _ => rfl, mailServes_of_row fun _ _ _ _ => rfl⟩,
    fun s c hblock hcq hopen => ⟨fun k hlast hle => ?_, fun hlast hfree htarget => ?_⟩,
    fun s c l hfind => ⟨fun hst => ?_, fun hst hreq => ?_, fun hst => ?_, ?_⟩,
    fun s c hnone => ⟨fun e he => ⟨?_, ?_⟩, fun hno => ⟨?_, ?_, lotEnded_of_none hnone hno _, lotEnded_of_none hnone hno _⟩⟩,
    fun s c e he => ?_, fun s c halign hentries => ?_⟩
  · rw [lotSubmit_of_good hblock hcq hopen, if_pos (by simp [hlast, hle])]
  · have hnew : ¬ (getPart s c.pg).lastLot.any (fun k => fld c.req 0 8 ≤ k) = true := by
      cases hl : (getPart s c.pg).lastLot with
      | none => simp
      | some k => simpa using hlast k hl
    rw [lotSubmit_of_good hblock hcq hopen, if_neg hnew, if_neg (by simpa using hfree), if_neg (by
      generalize fld c.req 0x18 8 % 2 ^ 48 = want at htarget
      rcases htarget with h | h | h
      · simp [h]
      · simp [Nat.not_lt.mpr h]
      · simp [h])]
    obtain ⟨hbell, hend⟩ := lotEarliest_ge s c.pg
    refine ⟨blockLot s c, rfl, rfl, ?_, ?_, rfl, rfl, rfl, rfl, rfl, rfl, hbell.trans (le_max_right _ _),
      hend.trans (le_max_right _ _), ?_⟩
    · exact congrArg Part.lots (getPart_modPart_same s c.pg (lotQueued (blockLot s c)))
    · exact congrArg Part.lastLot (getPart_modPart_same s c.pg (lotQueued (blockLot s c)))
    · refine le_of_le_of_eq ?_ (congrArg Part.endBell (getPart_modPart_same s c.pg (lotQueued (blockLot s c)))).symm
      exact le_max_right _ _
  · rw [lotCancel_of_queued hfind hst]
    refine ⟨rfl, rfl, ?_⟩
    change ∀ x ∈ (getPart (modPart s c.pg _) c.pg).lots, _
    rw [lots_modPart_lotsOf]
    exact of_mem_lotsOf fun x => ⟨state_endLot _ _ _ _, rfl⟩
  · rw [lotCancel_of_active hfind hst hreq]
    refine ⟨rfl, rfl, ?_⟩
    change ∀ x ∈ (getPart (modPart s c.pg _) c.pg).lots, _
    rw [lots_modPart_lotsOf]
    exact of_mem_lotsOf fun x => rfl
  · rw [lotCancel_of_ended hfind hst]
    exact ⟨rfl, rfl⟩
  · rw [lotQuery]
    simp only [hfind]
  · rw [lotCancel]
    simp only [hnone, he]
  · rw [lotQuery]
    simp only [hnone, he]
  · rw [lotCancel]
    simp only [hnone, hno]
  · rw [lotQuery]
    simp only [hnone, hno]
  · rw [lotRecords, lotDigests, lotEnded_of_some he, lotEnded_of_some he]
    refine ⟨rfl, rfl, rfl, ?_⟩
    rw [done, List.length_append, length_flatMap_of_length (k := 1) fun x => toLe_length _ _,
      length_flatMap_of_length (k := 16) fun i => by simp [toLe_length], length_upto, Nat.mul_one]
  · rw [lotCqSet, if_neg (by simp [halign]), if_neg (by simp [hentries])]
    rfl

end Sys2Proof.Machine
end

section
/-! SUPPORT. The STAGE commands (O53). -/

-- One proof after another: threads that wait for each other count against the memory of the check.
set_option Elab.async false

namespace Sys2Proof.Machine

/-! ## The earliest target -/

theorem le_foldl_max {α : Type} (f : α → Nat) (l : List α) (b : Nat) : b ≤ l.foldl (fun m a => max m (f a)) b := by
  induction l generalizing b with
  | nil => exact Nat.le_refl b
  | cons a l ih => exact (Nat.le_max_left b (f a)).trans (ih _)

theorem le_foldl_max_of_mem {α : Type} {f : α → Nat} {l : List α} {a : α} (h : a ∈ l) (b : Nat) :
    f a ≤ l.foldl (fun m a => max m (f a)) b := by
  induction l generalizing b with
  | nil => cases h
  | cons x l ih =>
    rcases List.mem_cons.mp h with rfl | h
    · exact (Nat.le_max_right b (f a)).trans (le_foldl_max f l _)
    · exact ih h _

/-- The base of the earliest target: two bells on, and the vote's wait for a change of the domain (R76). -/
def stageBase (s : State) (kind : Nat) : Nat := s.clk.bell + 2 + (if domainKind kind then s.link.voteW else 0)

section
variable {s : State} {kind mask : Nat}

theorem stageBase_le : stageBase s kind ≤ stageEarliest s kind mask := by
  rw [stageEarliest]
  exact iteInduction (fun _ => le_foldl_max _ _ _) fun _ => Nat.le_refl _

theorem stageEarliest_of_ne (h4 : kind ≠ 4) (h7 : kind ≠ 7) : stageEarliest s kind mask = stageBase s kind := by
  rw [stageEarliest, if_neg (by simp [h4, h7])]
  rfl

theorem jobEarliest_le {n : Nat} (hn : n < 12) (h : kind = 4 ∨ (kind = 7 ∧ bitAt mask n = true)) :
    jobEarliest s n ≤ stageEarliest s kind mask := by
  have hmem : n ∈ maskParts (if kind == 4 then 0xFFF else mask) := by
    rw [maskParts, List.mem_filter]
    refine ⟨(mem_upto _ _ _).mpr ⟨Nat.zero_le _, by omega⟩, ?_⟩
    rcases h with rfl | ⟨rfl, hbit⟩
    · have hall : ∀ n < 12, bitAt 0xFFF n = true := by decide
      exact hall n hn
    · exact hbit
  rw [stageEarliest, if_pos (by rcases h with h | h <;> simp [h])]
  exact le_foldl_max_of_mem hmem _

end

/-! ## Staging -/

section
variable {s : State} {c : MCmd} {kind mask target : Nat} {v : List Byte}

theorem stagePut_of_early (h : target < stageEarliest s kind mask) :
    stagePut s c kind mask target v = deny s 0x21 (stageEarliest s kind mask % 2 ^ 32) := by
  rw [stagePut, if_pos h]

theorem stagePut_of_clash {x : Change} (h : stageEarliest s kind mask ≤ target) (hclash : stageClash s kind mask = some x) :
    stagePut s c kind mask target v = deny s 0x20 x.id := by
  rw [stagePut, if_neg (by omega), hclash]

theorem stagePut_of_free (h : stageEarliest s kind mask ≤ target) (hclash : stageClash s kind mask = none) :
    stagePut s c kind mask target v =
      { done (newChange s kind mask target c.pg v).2 with res := toLe 4 s.reeve.nextChange } := by
  rw [stagePut, if_neg (by omega), hclash]
  rfl

theorem stageCtx_of_free {f : Nat → Ans} (hname : mayName c (cPar c 1 1)) (hbusy : partBusy s (cPar c 1 1) = false) :
    stageCtx s c f = f (cPar c 1 1) := by
  rw [stageCtx, withPart_of_mayName hname, if_neg (by simp [hbusy])]

theorem stageMod_of_module {a : Ans} (h : cPar c 1 1 = 0xFF) : stageMod s c a = a := by
  rw [stageMod, if_neg (by simp [h])]

theorem stageMask_of_module {f : Nat → Ans} (h : cPar c 1 1 = 0xFF) (hmask : cPar c 2 2 < 4096) :
    stageMask s c f = f (cPar c 2 2) := by
  rw [stageMask, stageMod_of_module h, if_neg (by omega)]

end

/-! ## Cancelling -/

theorem outcome_changePut {s : State} {x y : Change} (hy : y ∈ (changePut s x).reeve.changes) (hid : y.id = x.id) : y = x := by
  obtain ⟨z, -, rfl⟩ := List.mem_map.mp hy
  split
  · rfl
  · next h => rw [if_neg h] at hid; exact absurd (beq_iff_eq.mpr hid) h

theorem changes_changeDecide (s : State) (x : Change) (outcome : Nat) :
    (changeDecide s x outcome).reeve.changes = (changePut s { x with outcome := outcome }).reeve.changes := by
  have hframe : Touches [.pages, .due] (changePut s { x with outcome := outcome }) (changeDecide s x outcome) := by
    unfold changeDecide changeEvent
    exact (touches_emitTo (by decide)).mpr (Touches.refl _ _)
  exact hframe.changes

/-- No partition leaves its domain at a leave that is cancelled. -/
def leaveUndone (x : Change) (s : State) : State :=
  if x.kind == 0x16 then (maskParts x.parts).foldl (fun s n => modPart s n (fun p => { p with leaveAt := none })) s else s

theorem leaveUndone_frame (x : Change) (s : State) : Touches [.parts] s (leaveUndone x s) := by
  rw [leaveUndone]
  exact iteInduction (fun _ => (touches_foldl (by simp)).mpr (Touches.refl _ _)) fun _ => Touches.refl _ _

section
variable {s : State} {c : MCmd} {x : Change}

theorem stageCancel_of_pending (h : changeNamed s c (cPar c 0 4) = some x) (hout : x.outcome = 0) (heval : x.evaluated = false) :
    stageCancel s c = done (leaveUndone x (changeDecide s x 3)) := by
  simp only [stageCancel, h]
  rw [if_neg (by simp [hout, heval])]
  rfl

theorem stageCancel_of_decided (h : changeNamed s c (cPar c 0 4) = some x) (hdone : x.outcome ≠ 0 ∨ x.evaluated = true) :
    stageCancel s c = deny s 0x27 x.outcome := by
  simp only [stageCancel, h]
  rw [if_pos (by simpa using hdone)]

end

/-- Settles O53. -/
theorem stageCommandsServe : Obligations.StageCommandsServe := by
  refine ⟨⟨mailServes_of_row fun _ _ _ _ => rfl, mailServes_of_row fun _ _ _ _ => rfl, mailServes_of_row fun _ _ _ _ => rfl,
    mailServes_of_row fun _ _ _ _ => rfl, mailServes_of_row fun _ _ _ _ => rfl, mailServes_of_row fun _ _ _ _ => rfl,
    mailServes_of_row fun _ _ _ _ => rfl, mailServes_of_row fun _ _ _ _ => rfl, mailServes_of_row fun _ _ _ _ => rfl,
    mailServes_of_row fun _ _ _ _ => rfl⟩,
    fun s c kind mask target v => ⟨stagePut_of_early, stageBase_le, stageEarliest_of_ne, fun n hn => jobEarliest_le hn,
      fun h x => stagePut_of_clash h, fun h hclash => ?_⟩,
    fun s c => ⟨fun hname hbusy => ⟨fun hok => ?_, fun hok => ?_, fun hval hlot => ?_⟩,
      fun hmod => ⟨fun h1 h2 => ?_, fun hok hmask => ?_, fun h1 h2 => ?_, fun h => ?_, fun hmask => ⟨fun hlen => ?_, ?_, fun hval => ?_⟩⟩,
      fun x hx => ⟨fun hout heval => ?_, stageCancel_of_decided hx, ?_⟩, fun hno => ⟨?_, ?_⟩⟩⟩
  · rw [stagePut_of_free h hclash]
    exact ⟨rfl, rfl, rfl, _, getLast_newChange _ _ _ _ _ _, rfl, rfl, rfl, rfl, rfl, rfl, rfl⟩
  · rw [stageNumeric, stageCtx_of_free hname hbusy]
    simp only [stageVal, hok, Bool.not_true, Bool.false_eq_true, if_false]
  · rw [stageNumeric, stageCtx_of_free hname hbusy]
    simp only [stageVal, hok, Bool.not_false, if_true]
  · rw [stageHalt, stageCtx_of_free hname hbusy, if_neg (by simp [stageVal, hval]), if_neg (by simp only [hlot, Bool.false_eq_true, not_false_eq_true])]
  · rw [stageHold, stageMod_of_module hmod, if_neg (by rw [stageVal, Bool.or_eq_true, beq_iff_eq, decide_eq_true_iff]; omega)]
    rfl
  · rw [stageSplit, stageMod_of_module hmod, if_neg (by simp [stageVal, hok]), if_neg (by omega)]
    rfl
  · rw [stagePeriod, stageMod_of_module hmod, if_neg (by rw [stageVal, Bool.or_eq_true, decide_eq_true_iff, decide_eq_true_iff]; omega)]
    rfl
  · rw [stagePeriod, stageMod_of_module hmod, if_pos (by rw [stageVal, Bool.or_eq_true, decide_eq_true_iff, decide_eq_true_iff]; exact h)]
  · rw [stageKeys, stageMask_of_module hmod hmask, if_neg (by simp [hlen])]
  · rw [stageReseed, stageMask_of_module hmod hmask]
  · rw [stageMerge, stageMask_of_module hmod hmask, if_neg (by simp [stageVal]; omega)]
    rfl
  · rw [stageCancel_of_pending hx hout heval]
    refine ⟨rfl, fun y hy hid => ?_⟩
    have hkept : (leaveUndone x (changeDecide s x 3)).reeve.changes = (changePut s { x with outcome := 3 }).reeve.changes :=
      (leaveUndone_frame x _).changes.trans (changes_changeDecide s x 3)
    rw [done, hkept] at hy
    rw [outcome_changePut hy hid]
  · simp only [stageQuery, hx]
    refine ⟨rfl, slice_length _ _ _, ?_, ?_⟩ <;> simp [fld, slice, toLe, leNat]
  · simp only [stageCancel, hno]
  · simp only [stageQuery, hno]

end Sys2Proof.Machine
end

section
/-! SUPPORT. The MNT and OP commands (O54). -/

-- One proof after another: threads that wait for each other count against the memory of the check.
set_option Elab.async false

namespace Sys2Proof.Machine

/-! ## A long operation enters the maintenance ledger -/

theorem mem_opsTrim_last {os : List Op} {o : Op} (h : opEnded o = false) : o ∈ opsTrim (os ++ [o]) := by
  rw [opsTrim, List.mem_filterMap]
  refine ⟨(o, os.length), ?_, by simp [h]⟩
  rw [List.mem_zipIdx_iff_getElem?]
  simp

/-- The handle of the next operation of a kind. -/
def nextHandle (s : State) (kind : Nat) : Nat := kind * 2 ^ 24 + s.reeve.nextSerial % 2 ^ 24

/-- The operation that a command enters. -/
def opEntered (s : State) (c : MCmd) (kind mask : Nat) (args : List Byte) (total : Nat) : Op :=
  { handle := nextHandle s kind, page := c.pg, args := args, mask := mask, state := 0
    reason := (ledgerAdmit s (opActivity kind) mask).2, total := total }

/-- The ledger with one operation more. -/
def opListed (s : State) (o : Op) : State :=
  modReeve s (fun r => { r with ops := opsTrim (r.ops ++ [o]), nextSerial := r.nextSerial + 1 })

theorem opSubmit_eq (s : State) (c : MCmd) (kind mask : Nat) (args : List Byte) (total : Nat) :
    opSubmit s c kind mask args total =
      if (ledgerAdmit s (opActivity kind) mask).1 == 2 then deny s 0x23 (ledgerAdmit s (opActivity kind) mask).2
      else if (ledgerAdmit s (opActivity kind) mask).1 == 1
          && 16 ≤ (s.reeve.ops.filter (fun o => o.state == 0 && opKind o == kind)).length then deny s 0x23 5
      else if (ledgerAdmit s (opActivity kind) mask).1 == 1 then
        { deny (opListed s (opEntered s c kind mask args total)) 0x22 (ledgerAdmit s (opActivity kind) mask).2 with
          res := toLe 4 (nextHandle s kind) }
      else { deny (opBegin (opListed s (opEntered s c kind mask args total)) (opEntered s c kind mask args total)) 1 0 with
        res := toLe 4 (nextHandle s kind) } := rfl

/-! ## The operations that a command names -/

section
variable {s : State} {c : MCmd} {o : Op} {f : Op → Ans}

/-- A page names the operation of a handle when it is an admin's or its own. -/
def opFound (s : State) (c : MCmd) (o : Op) : Prop :=
  s.reeve.ops.find? (fun o => o.handle == cPar c 0 4 && (cAdmin c || o.page == c.pg)) = some o

theorem opNamed_of_found (h : opFound s c o) : opNamed s c f = opAnswer (f o) o.handle := by
  unfold opFound at h
  simp only [opNamed, h]

/-- The operations of a handle are in a state. -/
def opsStand (t : State) (handle st : Nat) : Prop := ∀ x ∈ t.reeve.ops, x.handle = handle → x.state = st

theorem opsStand_modOp (s : State) (handle st : Nat) : opsStand (modOp s handle (fun x => { x with state := st })) handle st :=
  fun x => state_modOp s handle (fun x => { x with state := st }) (P := fun x => x.state = st) (fun _ => rfl) x

theorem opsStand_opState (s : State) (o : Op) (st : Nat) : opsStand (opState s o st) o.handle st := ops_opState s o st

theorem opsStand_opFinish (s : State) (handle st : Nat) : opsStand (opFinish s handle st 0) handle st :=
  fun x hx hh => (ops_opFinish s handle st 0 x hx hh).1

theorem opsStand_opCancelled (s : State) (o : Op) : opsStand (opCancelled s o) o.handle 6 := by
  unfold opCancelled
  exact opsStand_opFinish _ _ _

theorem opSuspend_of_running (h : opFound s c o) (hst : o.state = 1) (hact : opActivating o = false) :
    opSuspend s c = opAnswer (done (modOp s o.handle (fun x => { x with state := 2 }))) o.handle := by
  rw [opSuspend, opNamed_of_found h, if_neg (by simp [opEnded, hst]), if_neg (by simp [hst, hact]), if_neg (by simp [hst])]

theorem opSuspend_of_queued (h : opFound s c o) (hst : o.state = 0) (hact : opActivating o = false) :
    opSuspend s c = opAnswer (done (opState s o 3)) o.handle := by
  rw [opSuspend, opNamed_of_found h, if_neg (by simp [opEnded, hst]), if_neg (by simp [hst, hact]), if_pos (by simp [hst])]

theorem opSuspend_of_ended (h : opFound s c o) (hst : 5 ≤ o.state) : opSuspend s c = opAnswer (done s) o.handle := by
  rw [opSuspend, opNamed_of_found h, if_pos (by simp [opEnded, hst])]

theorem opCancelCmd_of_running (h : opFound s c o) (hst : o.state = 1) (hact : opActivating o = false) :
    opCancelCmd s c = opAnswer (done (modOp s o.handle (fun x => { x with state := 4 }))) o.handle := by
  rw [opCancelCmd, opNamed_of_found h, if_neg (by simp [opEnded, hst]), if_neg (by simp [hst]), if_neg (by simp [hact]),
    if_neg (by simp [hst]), if_neg (by simp [hst])]

/-- A cancelled operation that stands at no work ends at once. -/
theorem opCancelCmd_of_idle (h : opFound s c o) (hst : o.state = 3 ∨ o.state = 0) (hact : opActivating o = false) :
    ∃ t, opCancelCmd s c = opAnswer (done t) o.handle ∧ opsStand t o.handle 6 := by
  rw [opCancelCmd, opNamed_of_found h, if_neg (by rcases hst with h | h <;> simp [opEnded, h]),
    if_neg (by rcases hst with h | h <;> simp [h]), if_neg (by simp [hact])]
  split
  · exact ⟨_, rfl, opsStand_opFinish _ _ _⟩
  · rw [if_pos (by rcases hst with h | h <;> simp [h])]
    exact ⟨_, rfl, opsStand_opCancelled _ _⟩

theorem opCancelCmd_of_ended (h : opFound s c o) (hst : 5 ≤ o.state) :
    opCancelCmd s c = opAnswer (deny s 0x27 o.state) o.handle := by
  rw [opCancelCmd, opNamed_of_found h, if_pos (by simp [opEnded, hst])]

theorem opResume_of_ended (h : opFound s c o) (hst : 5 ≤ o.state) : opResume s c = opAnswer (deny s 0x27 o.state) o.handle := by
  rw [opResume, opNamed_of_found h, if_pos (by simp [opEnded, hst])]

theorem opResume_of_suspended (h : opFound s c o) (hst : o.state = 3)
    (hadmit : (ledgerAdmit (modOp s o.handle (fun x => { x with state := 0 })) (opActivity (opKind o)) o.mask).1 = 0) :
    opResume s c = opAnswer (done (opBegin (modOp s o.handle (fun x => { x with state := 0 })) o)) o.handle := by
  rw [opResume, opNamed_of_found h, if_neg (by simp [opEnded, hst]), if_neg (by simp [hst])]
  simp only [hadmit]
  rfl

theorem st_opStatusCmd (s : State) (c : MCmd) : (opStatusCmd s c).st = s := by
  rw [opStatusCmd, opNamed]
  split <;> rfl

end

theorem opAnswer_of_stand {t : State} {handle st : Nat} (h : opsStand t handle st) :
    (opAnswer (done t) handle).status = 0 ∧ opsStand (opAnswer (done t) handle).st handle st := ⟨rfl, h⟩

/-! ## Reports -/

theorem length_spareRows : spareRows.length = 192 := by
  rw [spareRows, length_flatMap_of_length (k := 16) fun n => by rw [partRows, List.length_map, length_upto], parts, length_upto]

theorem length_allTiles : allTiles.length = 4800 := by
  rw [allTiles, length_flatMap_of_length (k := 100) fun r => by rw [List.length_map, length_upto], length_upto]

/-- MNT.ASSAY with no tile named: the lot that it names decides. -/
theorem mntAssay_of_lot {s : State} {c : MCmd} {e : Ended} (hlen : c.req.length = 48) (hmode : fld c.req 1 1 < 2)
    (hnamed : fld c.req 2 1 = 0) (hzero : allZero (slice c.req 3 5) = true) (hname : mayName c (fld c.req 0 1))
    (hbusy : partBusy s (fld c.req 0 1) = false) (hlot : endedFind s (fld c.req 0 1) (fld c.req 8 8) = some e)
    (hbar : assayBar s (fld c.req 0 1) e.lot = 0) :
    mntAssay s c = opSubmit s c 4 (2 ^ fld c.req 0 1) c.req (if fld c.req 1 1 = 1 then 3 else 2) := by
  rw [mntAssay]
  simp only
  rw [if_neg (by simp [hlen]), if_neg (by omega), if_neg (by omega), if_neg (by simp [hzero]), withPart_of_mayName hname]
  simp only [hnamed, hlot, hbar]
  rw [if_neg (by simp [hbusy])]
  simp only [beq_iff_eq]
  rfl

/-- Settles O54. -/
theorem maintenanceCommandsServe : Obligations.MaintenanceCommandsServe := by
  refine ⟨⟨mailServes_of_row fun _ _ _ _ => rfl, mailServes_of_row fun _ _ _ _ => rfl, mailServes_of_row fun _ _ _ _ => rfl,
    mailServes_of_row fun _ _ _ _ => rfl, fun ver sec => mailServes_of_row fun _ _ _ _ => rfl, mailServes_of_row fun _ _ _ _ => rfl,
    mailServes_of_row fun _ _ _ _ => rfl, mailServes_of_row fun _ _ _ _ => rfl, mailServes_of_row fun _ _ _ _ => rfl,
    mailServes_of_row fun _ _ _ _ => rfl, mailServes_of_row fun _ _ _ _ => rfl, mailServes_of_row fun _ _ _ _ => rfl,
    mailServes_of_row fun _ _ _ _ => rfl, mailServes_of_row fun _ _ _ _ => rfl⟩,
    fun s c kind mask total args => ⟨fun h => ?_, fun h => ?_, fun h hroom => ?_⟩,
    fun s c => ⟨fun h => ?_, fun h => ?_, fun h => ?_, fun ver sec hslot => ⟨fun h => ?_, fun h h64 => ?_⟩, rfl,
      fun e hlen hmode hnamed hzero hname hbusy hlot hbar => mntAssay_of_lot hlen hmode hnamed hzero hname hbusy hlot hbar,
      rfl, fun hpg => ?_, rfl, rfl, ?_, rfl, st_opStatusCmd s c⟩,
    fun s c o (ho : opFound s c o) => ⟨?_, fun hst hact => ?_, fun hst hact => ?_, fun hst hact => ?_, fun hst hact => ?_,
      fun hst hadmit => ?_, fun hst => ?_⟩⟩
  · rw [opSubmit_eq, if_pos (by simp [h])]
  · rw [opSubmit_eq, if_neg (by simp [h]), if_neg (by simp [h]), if_neg (by simp [h])]
    exact ⟨rfl, rfl⟩
  · rw [opSubmit_eq, if_neg (by simp [h]), if_neg (by simp [hroom]), if_pos (by simp [h])]
    exact ⟨rfl, opEntered s c kind mask args total, mem_opsTrim_last rfl, rfl, rfl, rfl, rfl⟩
  · rw [mntStackTest, if_neg (by omega)]
  · rw [mntScrubStacks, if_neg (by omega)]
  · rw [mntScrubTiles, if_neg (by omega)]
  · rw [mntFwUpdate, if_neg (by omega), if_pos (by simp [h])]
  · rw [mntFwUpdate, if_neg (by omega), if_neg (by simp; omega)]
  · rw [mntSpareMap]
    simp only [cAdmin, hpg, decide_true, if_true]
    rw [List.length_append, length_flatMap_of_length (k := 1) fun x => toLe_length _ _,
      length_flatMap_of_length (k := 4) fun x => toLe_length _ _, length_spareRows, length_allTiles]
  · rw [mntRepairLedger]
    simp only
    rw [length_flatMap_of_length (k := 32) fun e => slice_length _ _ _, List.length_drop, Nat.mul_comm]
  · rw [opStatusCmd, opNamed_of_found ho]
    rfl
  · rw [opSuspend_of_running ho hst hact]
    exact opAnswer_of_stand (opsStand_modOp s o.handle 2)
  · rw [opSuspend_of_queued ho hst hact]
    exact opAnswer_of_stand (opsStand_opState s o 3)
  · rw [opCancelCmd_of_running ho hst hact]
    exact opAnswer_of_stand (opsStand_modOp s o.handle 4)
  · obtain ⟨t, ht, hstand⟩ := opCancelCmd_of_idle ho hst hact
    rw [ht]
    exact opAnswer_of_stand hstand
  · rw [opResume_of_suspended ho hst hadmit]
    exact ⟨rfl, rfl⟩
  · rw [opSuspend_of_ended ho hst, opResume_of_ended ho hst, opCancelCmd_of_ended ho hst]
    exact ⟨rfl, rfl, rfl, rfl, rfl, rfl⟩

end Sys2Proof.Machine
end

section
/-! SUPPORT. The LINK, SYS, REC and PWR commands (O55). -/

-- One proof after another: threads that wait for each other count against the memory of the check.
set_option Elab.async false

namespace Sys2Proof.Machine

/-! ## Tables written entry by entry -/

/-- The entries of a request, put into a table from `first` on. -/
def entriesPut {α : Type} (put : Kv α → Nat → Kv α) (n : Nat) (m : Kv α) : Kv α := (upto 0 n).foldl put m

theorem kvGet_entriesPut {α : Type} {d v : α} {put : Kv α → Nat → Kv α} {first n i : Nat}
    (hother : ∀ m j, j ≠ i → kvGet d (put m j) (first + i) = kvGet d m (first + i)) (hsame : ∀ m, kvGet d (put m i) (first + i) = v)
    (hi : i < n) (m : Kv α) : kvGet d (entriesPut put n m) (first + i) = v := by
  obtain ⟨b, -, heq⟩ := foldl_at (π := fun m => kvGet d m (first + i)) (g := put) hother (nodup_upto 0 n)
    ((mem_upto _ _ _).mpr ⟨Nat.zero_le _, by omega⟩) m
  exact heq.trans (hsame b)

/-! ## LINK -/

/-- A route entry of a request. -/
def routePut (c : MCmd) (m : Kv Nat) (i : Nat) : Kv Nat := kvSet 0 m (cPar c 0 4 + i) (fld c.req (2 * i) 2)

/-- The routes of the bank not in force, written. -/
def routesWritten (c : MCmd) (k : Link) : Link :=
  if k.bank == 0 then { k with routeB := entriesPut (routePut c) (cPar c 4 4) k.routeB }
  else { k with routeA := entriesPut (routePut c) (cPar c 4 4) k.routeA }

/-- A multicast entry of a request; an entry of zeros leaves the table. -/
def mcastPut (c : MCmd) (m : Kv (List Byte)) (i : Nat) : Kv (List Byte) :=
  if allZero (slice c.req (12 * i) 12) then kvDel m (cPar c 0 2 + i) else kvSet [] m (cPar c 0 2 + i) (slice c.req (12 * i) 12)

section
variable {s : State} {c : MCmd}

theorem linkRouteWrite_of_good (hend : cPar c 0 4 + cPar c 4 4 ≤ 131072) (hfirst : cPar c 0 4 < 131072) (hlen : c.req.length = 2 * cPar c 4 4)
    (hgood : ∀ i, i < cPar c 4 4 → bits (fld c.req (2 * i) 2) 12 5 = 0
      ∧ (cPar c 0 4 + i = s.link.modId % 2 ^ 17 → bitAt (fld c.req (2 * i) 2) 15 = true ∧ bitAt (fld c.req (2 * i) 2) 14 = true))
    (hswitch : routePending s = false) : linkRouteWrite s c = done (modLink s (routesWritten c)) := by
  have hentries : ¬ (upto 0 (cPar c 4 4)).any (fun i => bits (fld c.req (2 * i) 2) 12 5 != 0
      || (cPar c 0 4 + i == s.link.modId % 2 ^ 17 && !(bitAt (fld c.req (2 * i) 2) 15 && bitAt (fld c.req (2 * i) 2) 14))) = true := by
    rw [List.any_eq_true]
    rintro ⟨i, hi, hbad⟩
    obtain ⟨hbits, hown⟩ := hgood i (by simpa using hi)
    by_cases h : cPar c 0 4 + i = s.link.modId % 2 ^ 17
    · obtain ⟨h15, h14⟩ := hown h
      simp [hbits, h15, h14] at hbad
    · simp only [hbits, beq_eq_false_iff_ne.mpr h, Bool.false_and] at hbad
      exact absurd hbad (by decide)
  rw [linkRouteWrite]
  simp only
  rw [if_neg (by omega), if_neg (by omega), if_neg (by simp [hlen]), if_neg hentries, if_neg (by simp [hswitch])]
  rfl

theorem kvGet_routesWritten {i : Nat} (hi : i < cPar c 4 4) (k : Link) :
    kvGet 0 (if k.bank = 0 then (routesWritten c k).routeB else (routesWritten c k).routeA) (cPar c 0 4 + i)
      = fld c.req (2 * i) 2 := by
  have hput : ∀ m, kvGet 0 (entriesPut (routePut c) (cPar c 4 4) m) (cPar c 0 4 + i) = fld c.req (2 * i) 2 :=
    kvGet_entriesPut (fun m j hj => kvGet_kvSet_other _ _ _ _ _ (by omega)) (fun m => kvGet_kvSet_same _ _ _ _) hi
  unfold routesWritten
  by_cases h : k.bank = 0
  · rw [if_pos h, if_pos (by simp [h])]
    exact hput _
  · rw [if_neg h, if_neg (by simp [h])]
    exact hput _

theorem routeEntry_routesWritten (d : Nat) : routeEntry (modLink s (routesWritten c)) s.link.bank d = routeEntry s s.link.bank d := by
  simp only [routeEntry, modLink, routesWritten]
  by_cases h : s.link.bank = 0 <;> simp [h]

theorem linkMcastWrite_of_good (hend : cPar c 0 2 + cPar c 2 2 ≤ 4096) (hfirst : cPar c 0 2 < 4096) (hlen : c.req.length = 12 * cPar c 2 2)
    (hgood : ∀ i, i < cPar c 2 2 → bits (fld c.req (12 * i + 8) 4) 23 0 = 0) (hswitch : routePending s = false) :
    linkMcastWrite s c = done (modLink s (fun k => { k with mcast := entriesPut (mcastPut c) (cPar c 2 2) k.mcast })) := by
  have hentries : ¬ (upto 0 (cPar c 2 2)).any (fun i => bits (fld c.req (12 * i + 8) 4) 23 0 != 0) = true := by
    rw [List.any_eq_true]
    rintro ⟨i, hi, hbad⟩
    simp [hgood i (by simpa using hi)] at hbad
  rw [linkMcastWrite]
  simp only
  rw [if_neg (by omega), if_neg (by omega), if_neg (by simp [hlen]), if_neg hentries, if_neg (by simp [hswitch])]
  rfl

theorem kvGet_mcastPut_other {i j : Nat} (h : j ≠ i) (m : Kv (List Byte)) :
    kvGet [] (mcastPut c m j) (cPar c 0 2 + i) = kvGet [] m (cPar c 0 2 + i) := by
  rw [mcastPut]
  split
  · exact kvGet_kvDel_other _ _ _ _ (by omega)
  · exact kvGet_kvSet_other _ _ _ _ _ (by omega)

theorem kvGet_mcastPut_same {i : Nat} (h : allZero (slice c.req (12 * i) 12) = false) (m : Kv (List Byte)) :
    kvGet [] (mcastPut c m i) (cPar c 0 2 + i) = slice c.req (12 * i) 12 := by
  rw [mcastPut, if_neg (by simp [h]), kvGet_kvSet_same]

/-! ## SYS -/

/-- A partition's key set by SYS.KEYS. -/
def keyNamed (c : MCmd) (s : State) (n : Nat) : State := modPart s n (fun p => { p with key := cPar c (4 + 2 * n) 2, prevKey := 0 })

theorem keysWrite_frame (s : State) : Touches [.tiles] s (keysWrite s) := by
  unfold keysWrite
  refine foldl_rel (R := Touches [.tiles]) (Touches.refl _) Touches.trans (fun s p => ?_) _ s
  exact iteInduction (fun _ => Touches.refl _ _) fun _ => by simp

theorem sysKeys_of_idle (hmask : cPar c 0 2 < 4096) (hidle : (maskParts (cPar c 0 2)).any (lotsActive s) = false) :
    sysKeys s c = done (keysWrite ((maskParts (cPar c 0 2)).foldl (keyNamed c) s)) := by
  rw [sysKeys, if_neg (by omega), if_neg (by simp only [hidle, Bool.false_eq_true, not_false_eq_true])]
  rfl

theorem mem_maskParts {m n : Nat} : n ∈ maskParts m ↔ n < 12 ∧ bitAt m n = true := by
  rw [maskParts, List.mem_filter, mem_upto]
  simp

theorem nodup_maskParts (m : Nat) : (maskParts m).Nodup := (nodup_upto 0 12).filter _

theorem key_keysNamed (m : Nat) {n : Nat} (hn : n < 12) : (getPart ((maskParts m).foldl (keyNamed c) s) n).key
    = if bitAt m n then cPar c (4 + 2 * n) 2 else (getPart s n).key := by
  have hother : ∀ t k, k ≠ n → (getPart (keyNamed c t k) n).key = (getPart t n).key := fun t k hk =>
    congrArg Part.key (getPart_modPart_other t k n _ hk.symm)
  split
  · next hbit =>
    obtain ⟨b, -, heq⟩ := foldl_at (π := fun t => (getPart t n).key) (g := keyNamed c) hother (nodup_maskParts m) (mem_maskParts.mpr ⟨hn, hbit⟩) s
    rw [heq, keyNamed, getPart_modPart_same]
  · next hbit =>
    exact foldl_keeps_of_mem (π := fun t => (getPart t n).key) (g := keyNamed c) _
      (fun t k hk => hother t k fun h => hbit (h ▸ (mem_maskParts.mp hk).2)) s

/-- A partition leaves the domain at a bell. -/
def leaveNamed (bell : Nat) (s : State) (n : Nat) : State := modPart s n (fun p => { p with leaveAt := some bell })

theorem leaveAt_leaveNamed (t : State) (bell m : Nat) {n : Nat} (hn : n < 12) (hbit : bitAt m n = true) :
    (getPart ((maskParts m).foldl (leaveNamed bell) t) n).leaveAt = some bell := by
  obtain ⟨b, -, heq⟩ := foldl_at (π := fun t => (getPart t n).leaveAt) (g := leaveNamed bell)
    (fun t k hk => congrArg Part.leaveAt (getPart_modPart_other t k n _ hk.symm)) (nodup_maskParts m) (mem_maskParts.mpr ⟨hn, hbit⟩) t
  rw [heq, leaveNamed, getPart_modPart_same]

theorem sysLeave_of_free (hmask : cPar c 0 2 < 4096) (hlots : lotsPast s (cPar c 0 2) (cBell c 8) = false)
    (hbell : stageEarliest s 0x16 (cPar c 0 2) ≤ cBell c 8) (hclash : stageClash s 0x16 (cPar c 0 2) = none) :
    ∃ t, (sysLeave s c).status = 0 ∧ (sysLeave s c).st = (maskParts (cPar c 0 2)).foldl (leaveNamed (cBell c 8)) t := by
  rw [sysLeave]
  simp only
  rw [if_neg (by omega), if_neg (by simp [hlots]), stagePut_of_free hbell hclash]
  exact ⟨_, rfl, rfl⟩

/-! ## REC and PWR -/

theorem length_recFill (cap count : Nat) (rs : List (Nat × List Byte)) : (recFill cap count rs).1.length ≤ cap := by
  induction rs generalizing cap count with
  | nil => exact Nat.zero_le _
  | cons r rest ih =>
    rw [recFill]
    split
    · exact Nat.zero_le _
    · next h =>
      have hcap : (recPad r.2).length ≤ cap := by
        rw [Bool.or_eq_true, not_or, decide_eq_true_iff] at h
        omega
      rw [List.length_append]
      have := ih (cap - (recPad r.2).length) (count - 1)
      omega

theorem recRead_spec (s : State) (c : MCmd) : (recRead s c).st = s ∧ ((recRead s c).status = 0 → (recRead s c).buf.length ≤ cCap c) := by
  rw [recRead]
  split
  · exact ⟨rfl, fun h => absurd (show (0x15 : Nat) = 0 from h) (by decide)⟩
  · exact ⟨rfl, fun _ => length_recFill _ _ _⟩

theorem length_pwrBytes (s : State) (c : MCmd) : (pwrBytes s c).length = 1584 := by
  rw [pwrBytes, List.length_append, length_flatMap_of_length (k := 16) fun d => ?_, length_upto]
  · simp only [List.length_append, toLe_length, zeros, List.length_replicate]
  · split
    · simp only [List.length_append, toLe_length, List.length_singleton]
    · exact List.length_replicate

end

/-- Settles O55. -/
theorem systemCommandsServe : Obligations.SystemCommandsServe := by
  refine ⟨⟨mailServes_of_row fun _ _ _ _ => rfl, mailServes_of_row fun _ _ _ _ => rfl, mailServes_of_row fun _ _ _ _ => rfl,
    mailServes_of_row fun _ _ _ _ => rfl, mailServes_of_row fun _ _ _ _ => rfl, mailServes_of_row fun _ _ _ _ => rfl,
    mailServes_of_row fun _ _ _ _ => rfl, mailServes_of_row fun _ _ _ _ => rfl, mailServes_of_row fun _ _ _ _ => rfl⟩,
    fun s c => ⟨fun hend hfirst hlen hgood hswitch => ?_, rfl, fun hend hfirst hlen hgood hswitch => ?_, fun hmask hidle => ?_,
      fun hmask hdomain hlots => ?_, fun hmask hdomain => ?_, fun hmask hlots hbell hclash => ?_, (recRead_spec s c).1, (recRead_spec s c).2,
      fun hall hlow hhigh hcommitted => ?_, fun hname hzero hfits => ?_, rfl, length_pwrBytes s c⟩⟩
  · rw [linkRouteWrite_of_good hend hfirst hlen hgood hswitch]
    exact ⟨rfl, rfl, fun i hi => kvGet_routesWritten hi s.link, routeEntry_routesWritten⟩
  · rw [linkMcastWrite_of_good hend hfirst hlen hgood hswitch]
    exact ⟨rfl, rfl, fun i hi hset => kvGet_entriesPut (fun m j hj => kvGet_mcastPut_other hj m) (kvGet_mcastPut_same hset) hi _⟩
  · rw [sysKeys_of_idle hmask hidle]
    refine ⟨rfl, fun n hn => ?_⟩
    rw [done, (keysWrite_frame _).getPart, key_keysNamed _ hn]
  · rw [sysJoin, if_neg (by omega), if_neg (by simp [hdomain, hlots])]
  · rw [sysJoin, if_neg (by omega), if_pos (by simp [hdomain])]
  · obtain ⟨t, hstatus, hst⟩ := sysLeave_of_free hmask hlots hbell hclash
    refine ⟨hstatus, fun n hn hbit => ?_⟩
    rw [hst, leaveAt_leaveNamed _ _ _ hn hbit]
  · rw [pwrLimitSet]
    simp only
    rw [if_pos (by simp [hall]), if_neg (by rw [Bool.or_eq_true, decide_eq_true_iff, decide_eq_true_iff]; omega), if_neg (by omega)]
  · have hn : cPar c 0 1 ≠ 0xFF := by have := hname.1; omega
    rw [pwrLimitSet]
    simp only
    rw [if_neg (by simp [hn]), withPart_of_mayName hname, if_neg (by simp [hzero]), if_neg (by omega)]

end Sys2Proof.Machine
end

section
/-! SUPPORT. The DBG commands (O56). -/

-- One proof after another: threads that wait for each other count against the memory of the check.
set_option Elab.async false

namespace Sys2Proof.Machine

section
variable {s : State} {c : MCmd} {p n : Nat} {f : Nat → Ans}

theorem dbgTile_of_mayTile (h : mayTile c (cPar c 0 2)) (hp : p = physOf s (cPar c 0 2)) : dbgTile s c f = f p := by
  obtain ⟨hl, hpage⟩ := h
  rw [dbgTile, withTile, if_neg (by omega), if_neg (by simp [cAdmin]; omega), hp]

/-! ## Registers -/

/-- The three registers whose debug write acts are there to be read, and take writes. -/
theorem csrPeek_acting (s : State) (p : Nat) {k : Nat} (h : k = 0x851 ∨ k = 0x859 ∨ k = 0x85C) :
    csrPeek s p k = some 0 ∧ csrReadOnly k = false := by
  rcases h with rfl | rfl | rfl <;> exact ⟨rfl, by decide⟩

theorem dbgRegRead_peek (htile : mayTile c (cPar c 0 2)) (hp : p = physOf s (cPar c 0 2)) (htake : cPar c 2 1 = 0)
    (hone : cPar c 3 1 = 1) (hlen : c.req.length = 2) (hreg : (csrPeek s p (fld c.req 0 2)).isSome = true) :
    dbgRegRead s c = { done s with buf := toLe 4 ((csrPeek s p (fld c.req 0 2)).getD 0) } := by
  rw [dbgRegRead, dbgTile_of_mayTile htile hp]
  obtain ⟨v, hv⟩ := Option.isSome_iff_exists.mp hreg
  simp [htake, hone, hlen, hv, upto]

theorem dbgRegRead_take (htile : mayTile c (cPar c 0 2)) (hp : p = physOf s (cPar c 0 2)) (htake : cPar c 2 1 = 1)
    (hone : cPar c 3 1 = 1) (hlen : c.req.length = 2) (hreg : (csrPeek s p (fld c.req 0 2)).isSome = true)
    (hwait : takeWaits s p (fld c.req 0 2) = false) :
    dbgRegRead s c = { done (voidLots (csrTake s p (fld c.req 0 2)) (physPart p)) with
      buf := toLe 4 ((csrPeek s p (fld c.req 0 2)).getD 0) } := by
  rw [dbgRegRead, dbgTile_of_mayTile htile hp]
  obtain ⟨v, hv⟩ := Option.isSome_iff_exists.mp hreg
  simp [htake, hone, hlen, hv, upto, takeRegs, hwait]

theorem dbgRegWrite_of_writable (htile : mayTile c (cPar c 0 2)) (hp : p = physOf s (cPar c 0 2))
    (hreg : (csrPeek s p (cPar c 2 2)).isSome = true) (hro : csrReadOnly (cPar c 2 2) = false) :
    dbgRegWrite s c = if !(dbgStopped (getTile s p)) then deny s 0x2B 0
      else (dbgPut s p (cPar c 2 2) (cPar c 4 4)).elim (deny s 0x2B 0) (fun t => done (voidLots t (physPart p))) := by
  rw [dbgRegWrite, dbgTile_of_mayTile htile hp]
  simp only
  rw [if_neg (by simp [hro, Option.isNone_iff_eq_none, Option.isSome_iff_ne_none.mp hreg])]
  cases dbgPut s p (cPar c 2 2) (cPar c 4 4) <;> rfl

theorem dbgRegWrite_of_put (htile : mayTile c (cPar c 0 2)) (hp : p = physOf s (cPar c 0 2)) {t : State}
    (hreg : (csrPeek s p (cPar c 2 2)).isSome = true) (hro : csrReadOnly (cPar c 2 2) = false)
    (hstop : dbgStopped (getTile s p) = true) (hput : dbgPut s p (cPar c 2 2) (cPar c 4 4) = some t) :
    dbgRegWrite s c = done (voidLots t (physPart p)) := by
  rw [dbgRegWrite_of_writable htile hp hreg hro, hput, if_neg (by simp [hstop]), Option.elim_some]

theorem dbgRegWrite_acting (htile : mayTile c (cPar c 0 2)) (hp : p = physOf s (cPar c 0 2)) {t : State} {k : Nat} (hk : cPar c 2 2 = k)
    (hact : k = 0x851 ∨ k = 0x859 ∨ k = 0x85C) (hstop : dbgStopped (getTile s p) = true) (hput : dbgPut s p k (cPar c 4 4) = some t) :
    dbgRegWrite s c = done (voidLots t (physPart p)) := by
  subst hk
  obtain ⟨hreg, hro⟩ := csrPeek_acting s p hact
  exact dbgRegWrite_of_put htile hp (by rw [hreg]; rfl) hro hstop hput

theorem fresh_imFillPut {v next : Nat} (h : imFillOk (getTile s p).clerk v = true) : (imFillPut s p v next).fresh = s.fresh + 1 := by
  unfold imFillPut
  simp only
  rw [if_neg (by simp [h])]
  exact applyCtx_frame _ _ Fld.fresh (by decide)

/-! ## Stores -/

theorem linesOk_iff {a n : Nat} : linesOk a n = true ↔ a % 64 = 0 ∧ 1 ≤ n ∧ n ≤ 8192 ∧ a + 64 * n ≤ Config.storeBytes := by
  simp [linesOk, and_assoc]

theorem mem_rawWrite (t : Tile) (port a : Nat) (bs : List Byte) : (rawWrite t port a bs).store.mem = memWrite t.store.mem a bs := by
  have hmem := mem_touchTile (storeLines a bs.length) t
  unfold rawWrite
  simp only
  have hwritten : ∀ (u : Tile), u.store.mem = t.store.mem → (storeMod u (fun s => { s with
      mem := memWrite s.mem a bs
      bad := eccWrite s.bad a bs.length
      wbq := s.wbq.filter (fun l => !(a < l + 64 && l < a + bs.length)) })).store.mem = memWrite t.store.mem a bs :=
    fun u hu => congrArg (fun m => memWrite m a bs) hu
  split
  · exact iteInduction (motive := fun u : Tile => u.store.mem = memWrite t.store.mem a bs) (fun _ => hwritten _ hmem) fun _ => hwritten _ hmem
  · exact hwritten _ hmem

theorem store_bankTouch (t : Tile) (a n : Nat) : (bankTouch t a n).store = t.store := by
  unfold bankTouch
  split
  · rfl
  · refine foldl_keeps (π := fun t : Tile => t.store) (fun u k => ?_) _ t
    split <;> rfl

theorem store_tallyStaleRange (t : Tile) (a n : Nat) : (tallyStaleRange t a n).store = t.store := by
  unfold tallyStaleRange
  split
  · rfl
  · refine foldl_keeps (π := fun t : Tile => t.store) (fun u k => ?_) _ t
    unfold tallyStale
    simp only
    split <;> rfl

theorem mem_debugStorePut {t : Tile} {a : Nat} {bs : List Byte} (h : inActiveBank t a bs.length = false) :
    (debugStorePut t a bs).store.mem = memWrite t.store.mem a bs := by
  rw [debugStorePut, if_neg (by simp [h]), store_tallyStaleRange, store_bankTouch, mem_rawWrite]

theorem dbgStoreRead_of_stopped (htile : mayTile c (cPar c 0 2)) (hp : p = physOf s (cPar c 0 2))
    (hlines : linesOk (cPar c 4 4) (cPar c 8 4) = true) (hstop : dbgStopped (getTile s p) = true) :
    (dbgStoreRead s c).status = 0 ∧ (dbgStoreRead s c).buf.length = 64 * cPar c 8 4 := by
  obtain ⟨halign, hlow, hhigh, -⟩ := linesOk_iff.mp hlines
  rw [dbgStoreRead, dbgTile_of_mayTile htile hp]
  simp only
  rw [if_neg (by simp [halign]), if_neg (by rw [Bool.or_eq_true, beq_iff_eq, decide_eq_true_iff]; omega), if_neg (by simp [hlines]),
    if_neg (by simp [hstop])]
  exact ⟨rfl, slice_length _ _ _⟩

theorem dbgStoreWrite_of_stopped (htile : mayTile c (cPar c 0 2)) (hp : p = physOf s (cPar c 0 2)) (hlen : c.req.length % 64 = 0)
    (hlines : linesOk (cPar c 4 4) (c.req.length / 64) = true) (hstop : dbgStopped (getTile s p) = true) :
    dbgStoreWrite s c = done (voidLots (modTile s p (fun t => debugStorePut t (cPar c 4 4) c.req)) (physPart p)) := by
  obtain ⟨halign, hlow, -, -⟩ := linesOk_iff.mp hlines
  rw [dbgStoreWrite, dbgTile_of_mayTile htile hp]
  simp only
  rw [if_neg (by simp [halign]), if_neg (by rw [Bool.or_eq_true, beq_iff_eq, bne_iff_ne]; omega), if_neg (by simp [hlines]),
    if_neg (by simp [hstop])]

theorem getTile_voidLots (s : State) (n q : Nat) : getTile (voidLots s n) q = getTile s q := rfl

theorem memRead_one (m : Mem) (a : Nat) : memRead m a 1 = [memByte m a] := rfl

/-! ## Clerks -/

theorem getTile_clerkHalt (s : State) (p cause : Nat) :
    (getTile (clerkHalt s p cause) p).dbg.halted = true ∧ (getTile (clerkHalt s p cause) p).dbg.cause = cause := by
  rw [clerkHalt, getTile_modTile_same]
  exact ⟨rfl, rfl⟩

/-! ## Contexts -/

/-- A tile put in loose mode or out of it. -/
def looseTile (on : Bool) (s : State) (p : Nat) : State := modTile s p (fun t => { t with dbg := { t.dbg with loose := on } })

theorem looseSet_eq (s : State) (n : Nat) (on : Bool) :
    looseSet s n on = (ctxTiles s n).foldl (looseTile on) (modPart s n (fun p => { p with loose := on })) := rfl

theorem loose_looseSet (s : State) (n : Nat) (on : Bool) : (getPart (looseSet s n on) n).loose = on
    ∧ ∀ p ∈ ctxTiles s n, (getTile (looseSet s n on) p).dbg.loose = on := by
  rw [looseSet_eq]
  refine ⟨?_, foldl_establishes (P := fun p (s : State) => (getTile s p).dbg.loose = on) (fun s p => ?_) (fun s p q hq => ?_) _ _⟩
  · have hkeep := foldl_keeps (π := fun s => getPart s n) (g := looseTile on) (fun _ _ => rfl) (ctxTiles s n)
      (modPart s n (fun p => { p with loose := on }))
    exact congrArg Part.loose (hkeep.trans (getPart_modPart_same _ _ _))
  · rw [looseTile, getTile_modTile_same]
  · rw [looseTile]
    by_cases h : q = p
    · rw [h, getTile_modTile_same]
    · rwa [getTile_modTile_other _ _ _ _ h]

/-! ## Trace -/

/-- A trace unit set by DBG.TRACE_SET. -/
def traceArmed (c : MCmd) (t : Trace) : Trace :=
  { t with
    stopMode := cPar c 1 1 == 1, trigs := (upto 0 8).map (fun i => slice c.req (16 * i) 16), hits := [], counts := []
    tapTiles := ((upto 0 16).map (fun i => fld c.req (128 + 2 * i) 2)).filter (fun x => x != 0xFFFF)
    tapPorts := ((upto 0 4).map (fun i => fld c.req (160 + 2 * i) 2)).filter (fun x => x != 0xFFFF)
    tapClerk := ((upto 0 1).map (fun i => fld c.req (168 + 2 * i) 2)).headD 0xFFFF }

theorem dbgTraceSet_of_good (hname : mayName c (cPar c 0 1)) (hmode : cPar c 1 1 < 2) (hlen : c.req.length = 170)
    (htrigs : ∀ i, i < 8 → trigBad (slice c.req (16 * i) 16) = none) (hnames : traceNames (cPar c 0 1) c.req = []) :
    dbgTraceSet s c = done (modTrace s (cPar c 0 1) (traceArmed c)) := by
  have hgood : ((upto 0 8).map (fun i => slice c.req (16 * i) 16)).zipIdx.findSome? (fun q => (trigBad q.1).map (fun i => 16 * q.2 + i))
      = none := by
    rw [List.findSome?_eq_none_iff]
    rintro ⟨e, k⟩ hq
    obtain ⟨i, hi, rfl⟩ := List.mem_map.mp (List.fst_mem_of_mem_zipIdx hq)
    rw [htrigs i (by simpa using hi)]
    rfl
  rw [dbgTraceSet, withPart_of_mayName hname]
  simp only
  rw [if_neg (by omega), if_neg (by simp [hlen]), hgood, hnames]
  rfl

end

/-- Settles O56. -/
theorem debugCommandsServe : Obligations.DebugCommandsServe := by
  refine ⟨⟨mailServes_of_row fun _ _ _ _ => rfl, mailServes_of_row fun _ _ _ _ => rfl, mailServes_of_row fun _ _ _ _ => rfl,
    mailServes_of_row fun _ _ _ _ => rfl, mailServes_of_row fun _ _ _ _ => rfl, mailServes_of_row fun _ _ _ _ => rfl,
    mailServes_of_row fun _ _ _ _ => rfl, mailServes_of_row fun _ _ _ _ => rfl, mailServes_of_row fun _ _ _ _ => rfl,
    mailServes_of_row fun _ _ _ _ => rfl, mailServes_of_row fun _ _ _ _ => rfl, mailServes_of_row fun _ _ _ _ => rfl,
    mailServes_of_row fun _ _ _ _ => rfl, mailServes_of_row fun _ _ _ _ => rfl, mailServes_of_row fun _ _ _ _ => rfl,
    mailServes_of_row fun _ _ _ _ => rfl⟩,
    fun s c p htile hp => ⟨dbgRegRead_peek htile hp, dbgRegRead_take htile hp, fun hreg hro h851 h859 h85C => ?put, fun hro => ?readOnly,
      fun hk hstop hcredit => ?send, fun hk hstop hfill => ?fill, fun hk hstop => ?fault, dbgStoreRead_of_stopped htile hp,
      fun hlen hlines hstop hbank => ?store, fun hstop => ?imageRun, fun hstop => ?imageStopped, dbgTile_of_mayTile htile hp,
      fun hloose => ⟨?haltTight, ?resumeTight, fun hcount => ?stepTight⟩, fun hloose hhalt => ?halt, fun hloose hhalt hone => ?oneStep,
      fun hloose => ?resume, fun hbit => ?clkSet⟩,
    fun s c n hname => ⟨fun hn hhalt hbell => ?bell, fun hn hhalt => ?notHalted, fun hn hkind => ⟨?loose, loose_looseSet s n true⟩,
      fun hn hhalt => ?tight, fun hn hmode hlen htrigs hnames => ?traceSet, fun hn => ?traceRead, fun hn hk => ?nan⟩⟩
  case put =>
    have hput : dbgPut s p (cPar c 2 2) (cPar c 4 4) = some (csrPut s p (cPar c 2 2) (cPar c 4 4)) := by
      rw [dbgPut, if_neg (by simp [h859]), if_neg (by simp [h85C]), if_neg (by simp [h851])]
    rw [dbgRegWrite_of_writable htile hp hreg hro, hput, Option.elim_some]
    cases dbgStopped (getTile s p) <;> rfl
  case readOnly =>
    rw [dbgRegWrite, dbgTile_of_mayTile htile hp, if_pos (by simp [hro])]
  case send =>
    refine dbgRegWrite_acting htile hp hk (.inl rfl) hstop ?_
    change qsendPut s p (cPar c 4 4) = _
    rw [qsendPut, if_pos hcredit]
  case fill =>
    exact ⟨_, dbgRegWrite_acting htile hp hk (.inr (.inl rfl)) hstop rfl, fresh_imFillPut hfill⟩
  case fault =>
    exact dbgRegWrite_acting htile hp hk (.inr (.inr rfl)) hstop rfl
  case store =>
    have hmem : (getTile (modTile s p (fun t => debugStorePut t (cPar c 4 4) c.req)) p).store.mem
        = memWrite (getTile s p).store.mem (cPar c 4 4) c.req := by
      rw [getTile_modTile_same, mem_debugStorePut hbank]
    rw [dbgStoreWrite_of_stopped htile hp hlen hlines hstop]
    refine ⟨rfl, ?_, fun a ha => ?_, fun q hq => (getTile_voidLots _ _ q).trans (getTile_modTile_other _ _ _ _ hq)⟩
    · rw [done, getTile_voidLots, hmem, memRead_memWrite]
    · rw [done, getTile_voidLots, hmem, memRead_one, memRead_one, memByte_memWrite_outside _ _ _ _ ha]
  case imageRun =>
    rw [dbgImageRead, dbgTile_of_mayTile htile hp, if_pos (by simp [hstop])]
  case imageStopped =>
    rw [dbgImageRead, dbgTile_of_mayTile htile hp, if_neg (by simp [hstop])]
  case haltTight =>
    rw [dbgClkHalt, dbgTile_of_mayTile htile hp, if_pos (by simp [hloose])]
  case resumeTight =>
    rw [dbgClkResume, dbgTile_of_mayTile htile hp, if_pos (by simp [hloose])]
  case stepTight =>
    rw [dbgClkStep, dbgTile_of_mayTile htile hp, if_neg (by simp [hcount]), if_pos (by simp [hloose])]
  case halt =>
    obtain ⟨hhalted, hcause⟩ := getTile_clerkHalt s p 1
    rw [dbgClkHalt, dbgTile_of_mayTile htile hp]
    simp only
    rw [if_neg (by simp [hloose]), if_neg (by simp [hhalt])]
    exact ⟨rfl, hhalted, hcause, fun q hq => getTile_modTile_other _ _ _ _ hq⟩
  case oneStep =>
    rw [dbgClkStep, dbgTile_of_mayTile htile hp, if_neg (by simp [hone]), if_neg (by simp [hloose, hhalt]), hone]
    exact ⟨rfl, rfl⟩
  case resume =>
    rw [dbgClkResume, dbgTile_of_mayTile htile hp, if_neg (by simp [hloose])]
  case clkSet =>
    rw [dbgClkSet, dbgTile_of_mayTile htile hp, if_neg (by omega)]
  case bell =>
    subst hn
    rw [dbgResume, withPart_of_mayName hname, if_neg (by simp [hhalt]), if_neg (by omega)]
  case notHalted =>
    subst hn
    rw [dbgResume, withPart_of_mayName hname, if_pos (by simp [hhalt])]
  case loose =>
    subst hn
    rw [dbgLooseOn, withPart_of_mayName hname, if_neg (by simp only [hkind, Bool.false_eq_true, not_false_eq_true])]
  case tight =>
    subst hn
    rw [dbgLooseOff, withPart_of_mayName hname, if_neg (by simp only [hhalt, Bool.false_eq_true, not_false_eq_true])]
  case traceSet =>
    subst hn
    have htrace : (getPart (modTrace s (cPar c 0 1) (traceArmed c)) (cPar c 0 1)).trace = traceArmed c (getPart s (cPar c 0 1)).trace := by
      rw [modTrace, getPart_modPart_same]
    rw [dbgTraceSet_of_good hname hmode hlen htrigs hnames, done, htrace]
    exact ⟨rfl, rfl, rfl, rfl, rfl, fun m hm => getPart_modPart_other _ _ _ _ hm⟩
  case traceRead =>
    subst hn
    rw [dbgTraceRead, withPart_of_mayName hname]
    refine ⟨rfl, rfl, ?_, rfl⟩
    simp only [List.append_assoc]
    exact fld_of_parts (as := []) rfl rfl
  case nan =>
    subst hn
    rw [dbgMillNan, if_neg (by omega), withPart_of_mayName hname]

end Sys2Proof.Machine
end

section
/-! SUPPORT. Trace triggers and the JTAG port (O57). -/

-- One proof after another: threads that wait for each other count against the memory of the check.
set_option Elab.async false

namespace Sys2Proof.Machine

/-! ## Trace triggers -/

theorem getPart_modTrace_same (s : State) (n : Nat) (f : Trace → Trace) : (getPart (modTrace s n f) n).trace = f (getPart s n).trace := by
  rw [modTrace, getPart_modPart_same]

/-- The sample's record stored, and its matches taken. -/
def hitsTaken (r : List Byte) (t : Trace) : Trace := { traceStore t r with hits := [] }

theorem trigs_hitsTaken (r : List Byte) (t : Trace) : (hitsTaken r t).trigs = t.trigs := by
  unfold hitsTaken traceStore
  split
  · rfl
  · split <;> rfl

/-- What a trigger's action leaves: the partition's matches, every tile, the clock, and the other partitions. -/
structure TriggerKept (n : Nat) (s t : State) : Prop where
  hits : (getPart t n).trace.hits = (getPart s n).trace.hits
  tiles : t.tiles = s.tiles
  clk : t.clk = s.clk
  other : ∀ m, m ≠ n → getPart t m = getPart s m

namespace TriggerKept
variable {n : Nat} {s : State}

theorem refl : TriggerKept n s s := ⟨rfl, rfl, rfl, fun _ _ => rfl⟩

theorem modTrace {f : Trace → Trace} (hf : ∀ t, (f t).hits = t.hits := by intro t; rfl) : TriggerKept n s (modTrace s n f) :=
  ⟨(congrArg Trace.hits (getPart_modTrace_same s n f)).trans (hf _), rfl, rfl, fun _ hm => getPart_modPart_other _ _ _ _ hm⟩

theorem of_touches {F : List Fld} {t : State} (h : Touches F s t) (hF : .parts ∉ F ∧ .tiles ∉ F ∧ .clk ∉ F := by decide) :
    TriggerKept n s t :=
  ⟨congrArg (fun p : Part => p.trace.hits) (h.getPart n hF.1), h.tiles hF.2.1, h.clk hF.2.2, fun m _ => h.getPart m hF.1⟩

theorem trigHalt : TriggerKept n s (trigHalt s n) := by
  unfold Machine.trigHalt
  exact iteInduction (fun _ => modTrace) fun _ => ⟨rfl, rfl, rfl, fun _ _ => rfl⟩

theorem trigAct (k : Nat) : TriggerKept n s (trigAct n s k) := by
  unfold Machine.trigAct
  split
  · exact modTrace
  · exact modTrace
  · exact trigHalt
  · exact of_touches (F := [.pages, .due]) ((touches_emitTo (by decide)).mpr (Touches.refl _ _))
  · exact refl

end TriggerKept

/-- The action that a partition's trigger k names. -/
def actionOf (s : State) (n k : Nat) : Nat := trigAction (((getPart s n).trace.trigs.drop k).headD [])

theorem trigAct_on {s : State} {n k : Nat} (h : actionOf s n k = 1) : (getPart (trigAct n s k) n).trace.capture = true := by
  unfold trigAct
  unfold actionOf at h
  simp only [h, getPart_modTrace_same]

theorem trigAct_off {s : State} {n k : Nat} (h : actionOf s n k = 2) : (getPart (trigAct n s k) n).trace.capture = false := by
  unfold trigAct
  unfold actionOf at h
  simp only [h, getPart_modTrace_same]

theorem trigAct_halt {s : State} {n k : Nat} (h : actionOf s n k = 4) (hclash : stageClash s 2 (2 ^ n) = none)
    (hbusy : partBusy s n = false) (hkind : ctxKind3 s n = false) :
    trigAct n s k = (newChange s 2 (2 ^ n) (s.clk.bell + 2) 16 []).2 := by
  unfold trigAct
  unfold actionOf at h
  simp only [h]
  rw [trigHalt, if_neg (by simp [hclash, hbusy, hkind])]

/-- The state in which the one trigger that has matched acts. -/
def triggered (s : State) (n k : Nat) : State :=
  modTrace s n (hitsTaken (traceRec 4 (getPart s n).trace.lostFlag (trigTile (((getPart s n).trace.trigs.drop k).headD []))
    (ctxCc s n) s.clk.bell (toLe 1 (maskOf 8 (fun i => (getPart s n).trace.hits.contains i)))))

theorem traceTriggerMatch_one {s : State} {n k : Nat} (hn : n < 12) (hk : k < 8) (hhits : (getPart s n).trace.hits = [k]) :
    exec (.traceTriggerMatch n) s = .next (trigAct n (triggered s n k) k) := by
  have hone : (upto 0 8).filter (fun i => [k].contains i) = [k] := by
    have hall : ∀ k < 8, (upto 0 8).filter (fun i => [k].contains i) = [k] := by decide
    exact hall k hk
  change execTraceTriggerMatch n s = _
  rw [execTraceTriggerMatch, if_neg (not_not.mpr hn)]
  simp only [hhits, hone, triggered]
  rfl

theorem actionOf_triggered (s : State) (n k : Nat) : actionOf (triggered s n k) n k = actionOf s n k := by
  rw [actionOf, triggered, getPart_modTrace_same, trigs_hitsTaken]
  rfl

theorem partBusy_modTrace (s : State) (n : Nat) (f : Trace → Trace) : partBusy (modTrace s n f) n = partBusy s n := by
  rw [partBusy, modTrace, getPart_modPart_same]
  rfl

theorem ctxKind3_modTrace (s : State) (n : Nat) (f : Trace → Trace) : ctxKind3 (modTrace s n f) n = ctxKind3 s n := by
  have hmap : ∀ l, inMap (modTrace s n f) n l = inMap s n l := fun l => by
    rw [inMap, modTrace, getPart_modPart_same]
    rfl
  have hscope : scopeTiles (modTrace s n f) n = scopeTiles s n := by
    simp only [scopeTiles, hmap]
    rfl
  rw [ctxKind3, hscope]
  rfl

/-! ## The JTAG port -/

section
variable {s : State} {i : Instr} {allowed : LifeSt → Bool} {run : State → State} (hi : exec i s = jtagScan allowed run s)
include hi

theorem scan_of_allowed (hon : domOn s 92 = true) (h : allowed s.start.lifeCycle = true) : exec i s = .next (run s) := by
  rw [hi, jtagScan, if_neg (by simp [hon]), if_pos h]

theorem scan_of_off (hoff : domOn s 92 = false) : exec i s = .next s := by
  rw [hi, jtagScan, if_pos (by simp [hoff])]

/-- An instruction that the life-cycle state does not allow selects BYPASS. -/
theorem scan_of_not (h : allowed s.start.lifeCycle = false) : exec i s = exec .jtagBypass s := by
  have hbypass : exec .jtagBypass s = jtagScan (fun _ => true) bypass s := rfl
  rw [hi, hbypass]
  simp [jtagScan, h]

end

/-- The part's identity shifted out. -/
def idShifted (s : State) : State := irSelect (shiftOut s 2 (toLe 4 0x1A3844E5)) 2

/-- The pins captured and shifted out, a word shifted in. -/
def pinsSampled (v : Nat) (s : State) : State :=
  modJtag (irSelect (shiftOut s 1 (toLe 2 (pinWord s))) 1) (fun j => { j with boundary := v })

/-- What the test engine does with an operand. -/
def engineRun (op : Nat) (s : State) : State :=
  if op < 2 then modJtag (irSelect s 9) (fun j => { j with engine := op == 1 })
  else if s.jtag.engine then lifeBurn (irSelect s 9) (lifeOf (op - 2)) else irSelect s 9

/-- The pins captured and shifted out, a word shifted in and driven where it may be. -/
def pinsDriven (v : Nat) (s : State) : State :=
  modJtag (shiftOut s 0 (toLe 2 (pinWord s))) (fun j => { j with ir := 0, boundary := v, drive := if extestDrives s then some v else none })

theorem scan_idcode (s : State) : exec .jtagIdcode s = jtagScan (fun _ => true) idShifted s := rfl
theorem scan_bypass (s : State) : exec .jtagBypass s = jtagScan (fun _ => true) bypass s := rfl
theorem scan_sample (v : Nat) (s : State) : exec (.jtagSamplePreload v) s = jtagScan (fun _ => true) (pinsSampled v) s := rfl
theorem scan_extest (v : Nat) (s : State) : exec (.jtagExtest v) s = jtagScan lifeOpen (pinsDriven v) s := rfl
theorem scan_testeng (op : Nat) (s : State) : exec (.jtagTesteng op) s = jtagScan lifeOpen (engineRun op) s := rfl
theorem scan_dbgcmd (data : List Byte) (s : State) : exec (.jtagDbgcmd data) s = jtagScan (fun l => l != .scrapped) (dbgScan data) s := rfl

theorem jtagTesteng_of_open {s : State} (hon : domOn s 92 = true) (h : lifeOpen s.start.lifeCycle = true) (op : Nat) :
    exec (.jtagTesteng op) s = .next (engineRun op s) :=
  scan_of_allowed (scan_testeng op s) hon h

theorem engineRun_of_held {op : Nat} {s : State} (hop : 2 ≤ op) (h : s.jtag.engine = true) :
    engineRun op s = lifeBurn (irSelect s 9) (lifeOf (op - 2)) := by
  rw [engineRun, if_neg (by omega), if_pos h]

theorem lifeOf_of_ge {n : Nat} (h : 4 ≤ n) : lifeOf n = .scrapped := by
  match n, h with
  | n + 4, _ => rfl

theorem lifeOf_provisioned {n : Nat} (h : lifeOf n = .provisioned) : n = 1 := by
  match n with
  | 0 | 2 | 3 => exact absurd h (by decide)
  | n + 4 => exact absurd (h.symm.trans (lifeOf_of_ge (Nat.le_add_left 4 n))) (by decide)
  | 1 => rfl

/-- The part burnt to a life-cycle state outside the engine's own: the engine closes. -/
theorem lifeBurn_raw {s : State} (h : s.start.lifeCycle = .raw) : lifeBurn s .provisioned
    = { s with start := { s.start with lifeCycle := .provisioned, lifeChanged := true }, jtag := { s.jtag with engine := false } } := by
  simp [lifeBurn, h, modJtag, lifeOpen]

theorem lifeBurn_raw_other {s : State} (h : s.start.lifeCycle = .raw) {l : LifeSt} (hl : l ≠ .provisioned) : lifeBurn s l = s := by
  cases l <;> simp [lifeBurn, h] at hl ⊢

theorem lifeBurn_scrap {s : State} (h : s.start.lifeCycle = .service) : lifeBurn s .scrapped
    = { s with start := { s.start with lifeCycle := .scrapped, lifeChanged := true }, jtag := { s.jtag with engine := false } } := by
  simp [lifeBurn, h, modJtag, lifeOpen]

theorem lifeBurn_return {s : State} (h : s.start.lifeCycle = .service) (hret : s.start.returns < 3) : lifeBurn s .deployed
    = { s with
        start := { s.start with lifeCycle := .deployed, returns := s.start.returns + 1, lifeChanged := true }
        jtag := { s.jtag with engine := false } } := by
  simp [lifeBurn, h, hret, modJtag, lifeOpen]

theorem lifeBurn_return_past {s : State} (h : s.start.lifeCycle = .service) (hret : 3 ≤ s.start.returns) : lifeBurn s .deployed = s := by
  simp [lifeBurn, h, Nat.not_lt.mpr hret]

theorem lifeBurn_service_other {s : State} (h : s.start.lifeCycle = .service) {l : LifeSt} (hs : l ≠ .scrapped) (hd : l ≠ .deployed) :
    lifeBurn s l = s := by
  cases l <;> simp [lifeBurn, h] at hs hd ⊢

/-! ## DBGCMD -/

/-- The response shifted out. -/
def respShifted (s : State) : State :=
  { s with
    out := s.out ++ [⟨4, 8, slice s.jtag.resp 0 64⟩]
    jtag := { s.jtag with ir := 8, drive := none, resp := s.jtag.resp.drop 64 } }

theorem dbgScan_eq (data : List Byte) (s : State) : dbgScan data s =
    if !(reeveServes s) || (s.jtag.buf.isEmpty && allZero data) then respShifted s
    else if (s.jtag.buf ++ slice data 0 64).length < 64 * (1 + dbgPieces (s.jtag.buf ++ slice data 0 64)) then
      modJtag (respShifted s) (fun j => { j with buf := s.jtag.buf ++ slice data 0 64 })
    else dbgTake (respShifted s) (s.jtag.buf ++ slice data 0 64) := rfl

theorem slice_of_length {bs : List Byte} {n : Nat} (h : bs.length = n) : slice bs 0 n = bs := by
  subst h
  simp [slice]

theorem jtag_dbgTake (s : State) (all : List Byte) : (dbgTake s all).jtag.buf = [] ∧ 64 ≤ (dbgTake s all).jtag.resp.length := by
  refine ⟨rfl, ?_⟩
  have hresp : ∃ a b c : List Byte, (dbgTake s all).jtag.resp = a ++ slice b 0 64 ++ c := ⟨_, _, _, rfl⟩
  obtain ⟨a, b, c, heq⟩ := hresp
  rw [heq, List.length_append, List.length_append, slice_length]
  omega

/-- Settles O57. -/
theorem traceAndJtag : Obligations.TraceAndJtag := by
  refine ⟨fun n s hn => ⟨fun hnone => ?noHit, fun k hk hhits => ?hit⟩,
    fun s hon => ⟨scan_of_allowed (scan_idcode s) hon rfl, scan_of_allowed (scan_bypass s) hon rfl,
      fun v => scan_of_allowed (scan_sample v s) hon rfl,
      fun hlife => ⟨fun v => ?extest, fun op hop => ?engine, fun op hop heng => ?released⟩,
      fun heng => ⟨fun hraw => ?provision, fun hraw op hop h3 => ?rawOther, fun hserv op hop => ?scrap, fun hserv hret => ?back,
        fun hserv hret => ?backPast, fun hserv op hop => ?servOther⟩,
      fun hlife => ⟨fun v => ?extestShut, fun op => ?engineShut⟩, fun hlife data => ?dbgShut, fun hlife hbuf data hzero => ?reads,
      fun hlife hbuf hserves data hlen hzero hpieces => ?takes⟩, fun v hold data s hoff i hi => ?off⟩
  case noHit =>
    have hks : (upto 0 8).filter (fun k => (getPart s n).trace.hits.contains k) = [] := by
      rw [List.filter_eq_nil_iff]
      intro k hk
      rw [hnone k (by simpa using hk)]
      decide
    change execTraceTriggerMatch n s = _
    rw [execTraceTriggerMatch, if_neg (not_not.mpr hn)]
    simp only [hks]
  case hit =>
    obtain ⟨hkeep, htiles, hclk, hother⟩ := TriggerKept.trigAct (n := n) (s := triggered s n k) k
    have haction : ∀ a, trigAction (((getPart s n).trace.trigs.drop k).headD []) = a → actionOf (triggered s n k) n k = a :=
      fun a ha => (actionOf_triggered s n k).trans ha
    refine ⟨_, traceTriggerMatch_one hn hk hhits, ?_, htiles, hclk, fun m hm => ?_, fun ha => trigAct_on (haction 1 ha),
      fun ha => trigAct_off (haction 2 ha), fun ha hclash hbusy hkind => ?_⟩
    · rw [hkeep, triggered, getPart_modTrace_same]
      rfl
    · rw [hother m hm]
      exact getPart_modPart_other _ _ _ _ hm
    · rw [trigAct_halt (haction 4 ha) hclash ((partBusy_modTrace s n _).trans hbusy) ((ctxKind3_modTrace s n _).trans hkind)]
      exact ⟨_, getLast_newChange _ _ _ _ _ _, rfl, rfl, rfl, rfl⟩
  case extest =>
    exact scan_of_allowed (scan_extest v s) hon (by rcases hlife with h | h <;> rw [h] <;> rfl)
  case engine =>
    rw [jtagTesteng_of_open hon (by rcases hlife with h | h <;> rw [h] <;> rfl), engineRun, if_pos hop]
    rfl
  case released =>
    rw [jtagTesteng_of_open hon (by rcases hlife with h | h <;> rw [h] <;> rfl), engineRun, if_neg (by omega), if_neg (by simp [heng])]
    rfl
  case provision =>
    rw [jtagTesteng_of_open hon (by rw [hraw]; rfl), engineRun_of_held (by decide) heng]
    exact congrArg _ (lifeBurn_raw hraw)
  case rawOther =>
    have hl : lifeOf (op - 2) ≠ .provisioned := fun h => by
      have := lifeOf_provisioned h
      omega
    rw [jtagTesteng_of_open hon (by rw [hraw]; rfl), engineRun_of_held hop heng]
    exact congrArg _ (lifeBurn_raw_other (s := irSelect s 9) hraw hl)
  case scrap =>
    rw [jtagTesteng_of_open hon (by rw [hserv]; rfl), engineRun_of_held (by omega) heng, lifeOf_of_ge (by omega)]
    exact congrArg _ (lifeBurn_scrap hserv)
  case back =>
    rw [jtagTesteng_of_open hon (by rw [hserv]; rfl), engineRun_of_held (by decide) heng]
    exact congrArg _ (lifeBurn_return hserv hret)
  case backPast =>
    rw [jtagTesteng_of_open hon (by rw [hserv]; rfl), engineRun_of_held (by decide) heng]
    exact congrArg _ (lifeBurn_return_past hserv hret)
  case servOther =>
    have hl : lifeOf (op - 2) ≠ .scrapped ∧ lifeOf (op - 2) ≠ .deployed := by
      rcases hop with rfl | rfl | rfl <;> decide
    rw [jtagTesteng_of_open hon (by rw [hserv]; rfl), engineRun_of_held (by omega) heng]
    exact congrArg _ (lifeBurn_service_other (s := irSelect s 9) hserv hl.1 hl.2)
  case extestShut =>
    exact scan_of_not (scan_extest v s) (by rcases hlife with h | h | h <;> rw [h] <;> rfl)
  case engineShut =>
    exact scan_of_not (scan_testeng op s) (by rcases hlife with h | h | h <;> rw [h] <;> rfl)
  case dbgShut =>
    exact scan_of_not (scan_dbgcmd data s) (by rw [hlife]; rfl)
  case reads =>
    refine (scan_of_allowed (scan_dbgcmd data s) hon (by simpa using hlife)).trans ?_
    rw [dbgScan_eq, if_pos (by simp [hbuf, hzero])]
    rfl
  case takes =>
    refine ⟨_, (scan_of_allowed (scan_dbgcmd data s) hon (by simpa using hlife)).trans ?_, jtag_dbgTake (respShifted s) data⟩
    rw [dbgScan_eq, hbuf, List.nil_append, slice_of_length hlen, if_neg (by simp [hserves, hzero]), if_neg (by simp [hlen, hpieces])]
  case off =>
    simp only [List.mem_cons, List.not_mem_nil, or_false] at hi
    rcases hi with rfl | rfl | rfl | rfl | rfl | rfl
    · exact scan_of_off (scan_idcode s) hoff
    · exact scan_of_off (scan_bypass s) hoff
    · exact scan_of_off (scan_sample v s) hoff
    · exact scan_of_off (scan_extest v s) hoff
    · exact scan_of_off (scan_testeng hold s) hoff
    · exact scan_of_off (scan_dbgcmd data s) hoff

end Sys2Proof.Machine
end

section
/-! SUPPORT. The sideband (O58). -/

-- One proof after another: threads that wait for each other count against the memory of the check.
set_option Elab.async false

namespace Sys2Proof.Machine

/-! ## Addresses and control messages -/

section
variable {s : State}

/-- Can the sideband be heard: is its domain on, or does the boot ROM run? -/
def sideHeard (s : State) : Bool := domOn s 92 || s.start.phase == 1

theorem sideHeard_of_on (h : domOn s 92 = true) : sideHeard s = true := by simp [sideHeard, h]

theorem sideHeard_of_off (h : domOn s 92 = false ∧ s.start.phase ≠ 1) : sideHeard s = false := by simp [sideHeard, h.1, h.2]

theorem exec_i3cDynamicAddress (setdasa : Bool) (static addr : Nat) (s : State) : exec (.i3cDynamicAddress setdasa static addr) s =
    if !(sideHeard s) || s.side.dynAddr.isSome || (setdasa && static != 0x3A) || 128 ≤ addr then .next s
    else .next { s with side := { s.side with dynAddr := some addr } } := rfl

/-- The answer to a control message. -/
def mctpAnswer (cmd : Nat) (data : List Byte) (s : State) : State :=
  match cmd with
  | 1 => setEid s data
  | 2 => pldmAnswer s 0 (toLe 1 s.side.eid ++ [0, 0])
  | 4 => if [0, 1, 0x7F, 0xFF].contains (fld data 0 1) then pldmAnswer s 0 [1, 0xF1, 0xF3, 0xF1, 0] else pldmAnswer s 0x80 []
  | 5 => pldmAnswer s 0 [2, 1, 0x7F]
  | 6 => if fld data 0 1 == 0 then pldmAnswer s 0 [0xFF, 1, 0, 0, 0xF3, 0xA5, 0, 0] else pldmAnswer s 2 []
  | _ => pldmAnswer s 5 []

theorem exec_mctpControl (cmd : Nat) (data : List Byte) (s : State) : exec (.mctpControl cmd data) s =
    if !(sideHeard s) || s.side.dynAddr.isNone then .next s else .next (mctpAnswer cmd data s) := rfl

theorem mctpControl_heard (hon : domOn s 92 = true) (haddr : s.side.dynAddr.isSome = true) (cmd : Nat) (data : List Byte) :
    exec (.mctpControl cmd data) s = .next (mctpAnswer cmd data s) := by
  rw [exec_mctpControl, if_neg (by simp [sideHeard_of_on hon, Option.isNone_iff_eq_none, Option.isSome_iff_ne_none.mp haddr])]

theorem mctpAnswer_unknown {cmd : Nat} (h : cmd = 0 ∨ cmd = 3 ∨ 6 < cmd) (data : List Byte) : mctpAnswer cmd data s = pldmAnswer s 5 [] := by
  match cmd with
  | 0 | 3 | _ + 7 => rfl
  | 1 | 2 | 4 | 5 | 6 => omega

theorem setEid_of_valid {data : List Byte} (hop : fld data 0 1 < 2) (hnull : fld data 1 1 ≠ 0) (hall : fld data 1 1 ≠ 0xFF) :
    setEid s data = pldmAnswer { s with side := { s.side with eid := fld data 1 1 } } 0 ([0] ++ toLe 1 (fld data 1 1) ++ [0]) := by
  rw [setEid]
  simp only
  rw [if_neg (by simp [hnull, hall]; omega)]

theorem setEid_of_invalid {data : List Byte} (h : 1 < fld data 0 1 ∨ fld data 1 1 = 0 ∨ fld data 1 1 = 0xFF) :
    setEid s data = pldmAnswer s 2 [] := by
  rw [setEid]
  simp only
  rw [if_pos (by simpa [or_assoc] using h)]

theorem pldmAnswer_spec (s : State) (code : Nat) (data : List Byte) :
    (pldmAnswer s code data).side = s.side ∧ pldmAnswer s code data = { s with out := (pldmAnswer s code data).out }
      ∧ (pldmAnswer s code data).out.length = s.out.length + 1 :=
  ⟨rfl, rfl, by simp [pldmAnswer, putOut]⟩

end

/-! ## Requests -/

/-- The rows that the sideband carries only read. -/
theorem st_sideRows {r : Row15} (h : r ∈ sideRows) (s : State) (c : MCmd) : (r.run s c).st = s := by
  simp only [sideRows, List.mem_cons, List.not_mem_nil, or_false] at h
  rcases h with rfl | rfl | rfl | rfl
  · rfl
  · rfl
  · rfl
  · exact (recRead_spec s c).1

theorem reqRead_of_path {c : MCmd} (h : 16 ≤ c.pg) (s : State) (x : CSpec) : reqRead s c x = s := by
  rw [reqRead, if_neg (by simp [Nat.not_lt.mpr h])]

theorem st_serveCmd_of_path {c : MCmd} (hpg : 16 ≤ c.pg) {s : State} {x : CSpec} {h : State → MCmd → Ans} (hst : (h s c).st = s)
    (reqOk respOk : Bool) : (serveCmd s c x reqOk respOk h).st = s := by
  cases hcheck : mailCheck s c x with
  | some e => simp only [serveCmd, hcheck, deny]
  | none =>
    rw [serveCmd_of_checked _ _ _ hcheck, reqRead_of_path hpg]
    split
    · rfl
    split
    · exact hst
    split
    · rfl
    split
    · rfl
    · exact hst

theorem st_pathAnswer {c : MCmd} (hpg : 16 ≤ c.pg) {s : State} {rows : List Row15} (hrows : ∀ r ∈ rows, ∀ s c, (r.run s c).st = s)
    (foreign : Nat) : (pathAnswer s rows foreign c).st = s := by
  rw [pathAnswer]
  split
  · next r hr =>
    split
    · rfl
    split
    · rfl
    · exact st_serveCmd_of_path hpg (hrows r (List.mem_of_find?_eq_some hr) s c) true true
  · split <;> rfl

theorem takeSeq_opsStart (s : State) : (opsStart s).reeve.takeSeq = s.reeve.takeSeq :=
  (congrArg Reeve.takeSeq (opsStart_frame s).reeve :)

theorem takeSeq_pathServe {c : MCmd} (hpg : 16 ≤ c.pg) {s : State} {rows : List Row15} (hrows : ∀ r ∈ rows, ∀ s c, (r.run s c).st = s)
    (foreign : Nat) : (pathServe s rows foreign c).2.2.reeve.takeSeq = s.reeve.takeSeq + 1 := by
  have hhealth : ∀ u, (withHealth s u).reeve.takeSeq = u.reeve.takeSeq := fun u =>
    (congrArg Reeve.takeSeq (withHealth_frame s u).reeve :)
  have hst := st_pathAnswer hpg (s := s) hrows foreign
  rw [pathServe]
  simp only
  rw [hhealth, takeSeq_opsStart, hst]
  rfl

theorem slice_vendorHead (seq rest : List Byte) (h : seq.length = 2) : slice (vendorHead 2 seq ++ rest) 6 2 = seq := by
  have hmid := slice_append_mid ([0x7F, 0, 0, 0xF3, 0xA5] ++ toLe 1 2) seq rest
  rwa [h] at hmid

theorem getLast_putOut (s : State) (kind addr : Nat) (data : List Byte) : (putOut s kind addr data).out.getLast? = some ⟨kind, addr, data⟩ := by
  simp [putOut]

theorem sidebandRequest_answered {msg : List Byte} {s : State} (hans : sideAnswers s = true) (hlen : 72 ≤ msg.length)
    (hhead : slice msg 0 6 = vendorHead 1 []) :
    ∃ t o, exec (.sidebandRequest msg) s = .next t ∧ t.out.getLast? = some o ∧ o.kind = 3 ∧ slice o.data 6 2 = slice msg 6 2
      ∧ t.reeve.takeSeq = s.reeve.takeSeq + 1 := by
  change ∃ t o, execSidebandRequest msg s = .next t ∧ _
  rw [execSidebandRequest, if_neg (by simp [hans, hhead]; omega)]
  simp only
  split
  · refine ⟨_, _, rfl, getLast_putOut _ _ _ _, rfl, ?_, rfl⟩
    exact slice_vendorHead _ _ (slice_length _ _ _)
  · refine ⟨_, _, rfl, getLast_putOut _ _ _ _, rfl, ?_, ?_⟩
    · rw [List.append_assoc]
      exact slice_vendorHead _ _ (slice_length _ _ _)
    · exact takeSeq_pathServe (Nat.le_succ 16) (fun r hr => st_sideRows hr) _

/-! ## Sensors and events -/

theorem exec_pldmGetSensorReading {id : Nat} {s : State} (h : sideServes s = true) : exec (.pldmGetSensorReading id) s =
    if 1 ≤ id && id ≤ 7 then .next (pldmAnswer s 0 ([5, if !s.power.hist.isEmpty then 0 else 2, 0, 0, 0, 0]
      ++ toLe 4 (if !s.power.hist.isEmpty then (BitVec.ofInt 32 (sensorValue s id)).toNat else 0)))
    else if id == 0x10 then .next (pldmAnswer s 0 ([1, 0] ++ toLe 1 s.clk.step ++ [0, 0]))
    else .next (pldmAnswer s 0x80 []) := by
  change execPldmGetSensorReading id s = _
  rw [execPldmGetSensorReading, if_neg (by simp [h])]

/-- Settles O58. -/
theorem sidebandAnswers : Obligations.SidebandAnswers := by
  refine ⟨fun setdasa static addr s hon haddr hstatic => ⟨fun hnone => ?_, fun hsome => ?_⟩, fun setdasa static addr s hbad => ?_,
    fun cmd data s hbad => ?_, fun data s hon haddr => ⟨mctpControl_heard hon haddr 2 data, fun hop hnull hall => ?_,
      mctpControl_heard hon haddr 5 data, ⟨fun b hb hfld => ?_, fun hfld => ?_, fun hfld => ?_, fun hbad => ?_, fun hfld => ?_⟩,
      fun cmd hcmd => ?_⟩,
    fun s => ?_, fun msg s => sidebandRequest_answered, fun msg s hbad => ?_,
    fun s hserves => ⟨?_, fun id hlow hhigh hhist => ?_, fun id hlow hhigh hhist => ?_, fun id hhigh hne => ?_, fun r rest hev => ?_,
      fun hev => ?_, ?_⟩, fun id s hno => ⟨?_, ?_⟩⟩
  · rw [exec_i3cDynamicAddress, if_neg]
    cases setdasa <;> simp [sideHeard_of_on hon, hnone, hstatic] <;> omega
  · rw [exec_i3cDynamicAddress, if_pos (by simp [hsome])]
  · rw [exec_i3cDynamicAddress, if_pos]
    rcases hbad with ⟨hset, hne⟩ | h | h
    · simp [hset, hne]
    · simp [h]
    · simp [sideHeard_of_off h]
  · rw [exec_mctpControl, if_pos]
    rcases hbad with h | h
    · simp [h]
    · simp [sideHeard_of_off h]
  · rw [mctpControl_heard hon haddr]
    change ∃ t, Host.Outcome.next (setEid s data) = _ ∧ _
    rw [setEid_of_valid hop hnull hall]
    obtain ⟨hside, heq, hout⟩ := pldmAnswer_spec { s with side := { s.side with eid := fld data 1 1 } } 0 ([0] ++ toLe 1 (fld data 1 1) ++ [0])
    exact ⟨_, rfl, congrArg Side.eid hside, rfl, hout⟩
  · rw [mctpControl_heard hon haddr]
    subst hfld
    exact congrArg _ (if_pos (List.contains_iff_mem.mpr hb))
  · rw [mctpControl_heard hon haddr]
    exact congrArg _ (if_neg fun h => hfld (List.contains_iff_mem.mp h))
  · rw [mctpControl_heard hon haddr]
    exact congrArg _ (if_neg (by simpa using hfld))
  · rw [mctpControl_heard hon haddr]
    exact congrArg _ (setEid_of_invalid hbad)
  · rw [mctpControl_heard hon haddr]
    exact congrArg _ (if_pos (by simpa using hfld))
  · rw [mctpControl_heard hon haddr, mctpAnswer_unknown hcmd]
  · simp [sideAnswers, and_assoc]
  · change execSidebandRequest msg s = _
    rw [execSidebandRequest, if_pos (by rcases hbad with h | h | h <;> simp [h])]
  · rw [exec_pldmGetSensorReading hserves, if_neg (by decide), if_pos (by decide)]
  · have hopen : s.power.hist.isEmpty = false := by simpa using hhist
    rw [exec_pldmGetSensorReading hserves, if_pos (by simp [hlow, hhigh]), hopen]
    rfl
  · rw [exec_pldmGetSensorReading hserves, if_pos (by simp [hlow, hhigh]), hhist]
    rfl
  · rw [exec_pldmGetSensorReading hserves, if_neg (by simp; omega), if_neg (by simp [hne])]
  · change ∃ t, execPldmPollEvent s = .next t ∧ _
    rw [execPldmPollEvent, if_neg (by simp [hserves])]
    simp only [hev]
    obtain ⟨hside, heq, hout⟩ := pldmAnswer_spec { s with side := { s.side with events := rest, dropped := 0 } } 0 (toLe 4 s.side.dropped ++ r)
    exact ⟨_, rfl, congrArg Side.events hside, congrArg Side.dropped hside, rfl, hout⟩
  · change execPldmPollEvent s = _
    rw [execPldmPollEvent, if_neg (by simp [hserves])]
    simp only [hev]
  · rw [exec_pldmGetSensorReading hserves, if_neg (by decide), if_neg (by decide)]
  · change execPldmGetSensorReading id s = _
    rw [execPldmGetSensorReading, if_pos (by simp [hno])]
  · change execPldmPollEvent s = _
    rw [execPldmPollEvent, if_pos (by simp [hno])]

end Sys2Proof.Machine
end

section
/-! SUPPORT. The host's accesses to the shares (O59). -/

-- One proof after another: threads that wait for each other count against the memory of the check.
set_option Elab.async false

namespace Sys2Proof.Machine

/-! ## Writes -/

section
variable {s : State} {off : Nat} {data : List Byte}

theorem exec_bar2Write (hopen : barOpen s = true) (hlow : 1 ≤ data.length) (hhigh : data.length ≤ 512)
    (hpage : off % 4096 + data.length ≤ 4096) (hoff : off < 2 ^ 39) (ep : Bool) : exec (.bar2Write off data ep) s =
      (busRefusal s true off).elim
        (.next (if ep then busCount s 3 else asmWrite s (off / 2 ^ 35) (off % 2 ^ 35 / 4096) (off % 4096) data))
        (fun w => .next (busCount s w)) := by
  have htlp : tlpOk off data = true := by
    rw [tlpOk]
    generalize 2 ^ 39 = top at hoff
    simp [hlow, hhigh, hpage, hoff]
  change execBar2Write off data ep s = _
  rw [execBar2Write, if_neg (by simp [hopen, htlp])]
  cases busRefusal s true off <;> rfl

theorem asmWrite_alone {n b y : Nat} (hy : y ≠ 0) (hnone : asmOf s n b = none) : asmWrite s n b y data = boltPost s n b y data := by
  unfold asmWrite
  rw [hnone]
  cases y with
  | zero => exact absurd rfl hy
  | succ y => rfl

theorem asmFlush_of_none {n b : Nat} (h : asmOf s n b = none) : asmFlush s n b = s := by
  simp only [asmFlush, h]

theorem asmWrite_first {n b : Nat} (hnone : asmOf s n b = none) (hroom : s.hst.asm.length < 64) :
    asmWrite s n b 0 data = modAsm s (fun l => l ++ [{ part := n, bolt := b, data := data }]) := by
  rw [asmWrite, asmFlush_of_none hnone, asmOpen, if_neg (by omega)]

/-- A request of the host as it is posted at its stack. -/
def hostRemote (s : State) (n b y : Nat) (data : List Byte) : Remote :=
  { part := n, bolt := b, key := (getPart s n).key, off := y, data := data
    tally := if data.length == 4096 then crc32c data else 0, host := true, seq := s.clk.stamp }

theorem boltPost_eq (s : State) (n b y : Nat) (data : List Byte) : boltPost s n b y data
    = modStack (modClk s (fun c => { c with stamp := c.stamp + 1 })) (boltStack (getPart s n).seed.toNat b)
        (fun q => { q with remote := q.remote ++ [hostRemote s n b y data] }) := rfl

theorem boltPost_frame (s : State) (n b y : Nat) (data : List Byte) : Touches [.mems, .clk] s (boltPost s n b y data) := by
  rw [boltPost_eq]
  simp

theorem remote_boltPost (s : State) (n b y : Nat) (data : List Byte) :
    (getStack (boltPost s n b y data) (boltStack (getPart s n).seed.toNat b)).remote
      = (getStack s (boltStack (getPart s n).seed.toNat b)).remote ++ [hostRemote s n b y data] := by
  rw [boltPost_eq, getStack_modStack_same]
  rfl

end

/-! ## Refusals -/

section
variable {s : State} {off : Nat}

theorem busRefusal_beyond (h : 0x6000000000 ≤ off) : busRefusal s true off = some 2 := by
  rw [busRefusal, if_pos h]

theorem busRefusal_closed (h : off < 0x6000000000) (hwin : bitAt s.hst.winOpen (off / 2 ^ 35) = false) : busRefusal s true off = some 0 := by
  rw [busRefusal, if_neg (by omega), if_pos (by rw [hwin]; rfl)]

theorem busRefusal_reset (h : off < 0x6000000000) (hwin : bitAt s.hst.winOpen (off / 2 ^ 35) = true)
    (hkey : (getPart s (off / 2 ^ 35)).key ≠ 0) (hreset : s.reeve.computeReset = true) : busRefusal s true off = some 1 := by
  rw [busRefusal, if_neg (by omega), if_neg (by rw [hwin]; simpa using hkey), if_pos (by simp [hreset])]

end

/-! ## Reads -/

theorem boltParts_within {off len : Nat} (hlow : 1 ≤ len) (hpage : off % 4096 + len ≤ 4096) : boltParts off len = [(off, len)] := by
  have hcount : (off + len + 4095) / 4096 - off / 4096 = 1 := by omega
  have hlo : max off (4096 * (off / 4096)) = off := by omega
  have hlen : min (off + len) (4096 * (off / 4096) + 4096) - off = len := by omega
  rw [boltParts, hcount]
  simp only [upto, List.map_cons, List.map_nil, hlo, hlen]

theorem exec_bar2Read {off len tag : Nat} {s : State} (hup : s.hst.pcieUp = true) (hlow : 1 ≤ len) (hhigh : len ≤ 4096)
    (htop : off + len ≤ 2 ^ 39) : exec (.bar2Read off len tag) s =
      if !(barOpen s) then .next (hostCpl s tag 1 [])
      else .next ((boltParts off len).foldl (fun s q => readPart tag s q.1 q.2) (hostSettle s)) := by
  change execBar2Read off len tag s = _
  rw [execBar2Read, if_neg]
  generalize 2 ^ 39 = top at htop ⊢
  simp [hup]
  omega

theorem readPart_of_refused {tag off len w : Nat} {s : State} (h : busRefusal s true off = some w) :
    readPart tag s off len = hostCpl (busCount s w) tag 1 [] := by
  simp only [readPart, h]

theorem boltFetch_spec (s : State) (n b y len : Nat) : ∃ fail t,
    boltFetch s n b y len = (slice (spineRead s false n b (y / 64) ((y + len - 1) / 64 + 1 - y / 64)).1 (y % 64) len, fail, t)
      ∧ Touches [.inbox] (spineRead s false n b (y / 64) ((y + len - 1) / 64 + 1 - y / 64)).2.2 t := by
  refine ⟨_, _, rfl, ?_⟩
  generalize spineRead s false n b (y / 64) ((y + len - 1) / 64 + 1 - y / 64) = r
  exact iteInduction (fun _ => by simp) fun _ => Touches.refl _ _

theorem readPart_spec {tag off len : Nat} {s : State} (h : busRefusal s true off = none) :
    ∃ st r, r = spineRead s false (off / 2 ^ 35) (off % 2 ^ 35 / 4096) (off % 4096 / 64)
        ((off % 4096 + len - 1) / 64 + 1 - off % 4096 / 64) ∧ (st = 0 ∨ st = 2)
      ∧ (readPart tag s off len).out = r.2.2.out ++ [⟨2, tag % 2 ^ 32 + 2 ^ 32 * st, slice r.1 (off % 4096 % 64) len⟩]
      ∧ (readPart tag s off len).dram = r.2.2.dram ∧ (readPart tag s off len).mems = r.2.2.mems := by
  obtain ⟨fail, t, hfetch, hframe⟩ := boltFetch_spec s (off / 2 ^ 35) (off % 2 ^ 35 / 4096) (off % 4096) len
  refine ⟨if fail then 2 else 0, _, rfl, by cases fail <;> simp, ?_⟩
  simp only [readPart, h, hfetch]
  refine ⟨?_, hframe.dram, hframe.mems⟩
  rw [hostCpl, putOut, hframe.out]

/-! ## A read over the spine -/

section
variable {s : State} {counts : Bool} {n b line lines k : Nat}

/-- A stack's slot used for a read, its lines counted. -/
def linesTaken (s : State) (counts : Bool) (k n b line lines : Nat) : State :=
  if counts then serve (modStack (slotUsed s k) k (fun q => { q with
    eccUnc := satAdd 16 q.eccUnc ((boltMeta s n b).bad.filter (fun i => line ≤ i && i < line + lines)).length })) k n b lines
  else slotUsed s k

theorem linesTaken_frame : Touches [.mems] s (linesTaken s counts k n b line lines) := by
  rw [linesTaken]
  exact iteInduction (fun _ => by simp [serve, slotUsed]) fun _ => by simp [slotUsed]

theorem lost_linesTaken : (getStack (linesTaken s counts k n b line lines) k).lost = (getStack s k).lost := by
  rw [linesTaken]
  cases counts <;> simp [serve, slotUsed]

/-- Where nothing waits at the stack, a read takes its slot, and reports the lines that fail. -/
theorem spineTake_idle (hk : k = boltStack (getPart s n).seed.toNat b) (hlost : (getStack s k).lost = false)
    (hremote : (getStack s k).remote = []) (hinq : (getStack s k).inq = []) :
    Touches [.mems, .inbox] s (spineTake s counts n b line lines) ∧ (getStack (spineTake s counts n b line lines) k).lost = false := by
  have hsettled : boltSettle (remoteRun k (getStack s k).remote.length s) k (boltKey n b) s.clk.stamp false = s := by
    rw [hremote, List.length_nil, remoteRun, boltSettle, hinq]
    rfl
  have htake : spineTake s counts n b line lines =
      if ((boltMeta s n b).bad.filter (fun i => line ≤ i && i < line + lines)).isEmpty then linesTaken s counts k n b line lines
      else sendEvent (linesTaken s counts k n b line lines) (boltEvent (linesTaken s counts k n b line lines) k 0x0125 n b 0) := by
    unfold spineTake
    simp only
    rw [← hk, if_neg (by simp [hlost]), hsettled]
    rfl
  rw [htake]
  have hframe := (linesTaken_frame (s := s) (counts := counts) (k := k) (n := n) (b := b) (line := line) (lines := lines)).mono
    (F := [.mems, .inbox]) (by decide)
  have hkept := (lost_linesTaken (s := s) (counts := counts) (k := k) (n := n) (b := b) (line := line) (lines := lines)).trans hlost
  split
  · exact ⟨hframe, hkept⟩
  · exact ⟨(touches_sendEvent (by decide)).mpr hframe, hkept⟩

theorem spineRead_idle (hk : k = boltStack (getPart s n).seed.toNat b) (hlost : (getStack s k).lost = false)
    (hremote : (getStack s k).remote = []) (hinq : (getStack s k).inq = []) :
    (spineRead s counts n b line lines).1 = (upto line lines).flatMap (boltLine s n b)
      ∧ (spineRead s counts n b line lines).2.2.dram = s.dram ∧ (spineRead s counts n b line lines).2.2.bolts = s.bolts := by
  obtain ⟨hframe, hkept⟩ := spineTake_idle (counts := counts) (line := line) (lines := lines) hk hlost hremote hinq
  have hline : ∀ u : State, u.dram = s.dram → u.bolts = s.bolts → boltLine u n b = boltLine s n b := fun u hd hb => by
    funext i
    rw [boltLine, boltLine, boltMeta, boltMeta, hd, hb]
  have hread : spineRead s counts n b line lines = ((upto line lines).flatMap (boltLine (spineTake s counts n b line lines) n b),
      boltTally (spineTake s counts n b line lines) n b, spineTake s counts n b line lines) := by
    unfold spineRead
    simp only
    rw [hframe.getPart, ← hk, if_neg (by simp [hkept])]
  rw [hread, hline _ hframe.dram hframe.bolts]
  exact ⟨rfl, hframe.dram, hframe.bolts⟩

end

/-- Settles O59. -/
theorem hostAccessesTheShares : Obligations.HostAccessesTheShares := by
  refine ⟨fun off data s hopen hlow hhigh hpage hoff => ⟨fun w hw ep => ?_, fun hnone => ?_, fun hnone hy hasm => ?_, fun hnone hy hasm hroom => ?_⟩,
    fun s off => ⟨busRefusal_beyond, busRefusal_closed, busRefusal_reset⟩,
    fun n b s hn hb => ⟨?_, asmFlush_of_none, fun a ha => ?_⟩,
    fun off len tag s hup hlow hhigh htop => ⟨fun hshut => ?_, fun hopen hpage => ⟨fun w hw => ?_, fun hnone => ?_⟩⟩,
    fun n b line lines k counts s hk hlost hremote hinq => spineRead_idle hk hlost hremote hinq,
    fun off len tag ep s hopen hlow htop => ⟨fun hbad => ?_, ?_, slice_length _ _ _⟩⟩
  · rw [exec_bar2Write hopen hlow hhigh hpage hoff, hw, Option.elim_some]
  · rw [exec_bar2Write hopen hlow hhigh hpage hoff, hnone, Option.elim_none]
    rfl
  · rw [exec_bar2Write hopen hlow hhigh hpage hoff, hnone, Option.elim_none]
    simp only [Bool.false_eq_true, if_false]
    rw [asmWrite_alone hy hasm]
    exact ⟨_, rfl, (boltPost_frame s _ _ _ _).eq_overlay, rfl⟩
  · rw [exec_bar2Write hopen hlow hhigh hpage hoff, hnone, Option.elim_none]
    simp only [Bool.false_eq_true, if_false]
    rw [hy, asmWrite_first hasm hroom]
    rfl
  · change execAssemblerTimeout n b s = _
    rw [execAssemblerTimeout, if_neg (not_not.mpr ⟨hn, hb⟩)]
  · have hflush : asmFlush s n b = boltPost (modAsm s (fun l => l.eraseP (asmIs n b))) n b 0 a.data := by
      simp only [asmFlush, ha]
    have hremote := remote_boltPost (modAsm s (fun l => l.eraseP (asmIs n b))) n b 0 a.data
    rw [hflush]
    exact ⟨_, rfl, rfl, rfl, (congrArg List.length hremote).trans List.length_append⟩
  · rw [exec_bar2Read hup hlow hhigh htop, if_pos (by simp [hshut])]
  · rw [exec_bar2Read hup hlow hhigh htop, if_neg (by simp [hopen]), boltParts_within hlow hpage]
    exact congrArg _ (readPart_of_refused hw)
  · obtain ⟨st, r, hr, hst, hout, hdram, hmems⟩ := readPart_spec (tag := tag) (len := len) hnone
    refine ⟨readPart tag (hostSettle s) off len, st, r, ?_, hr, hst, hout, hdram, hmems⟩
    rw [exec_bar2Read hup hlow hhigh htop, if_neg (by simp [hopen]), boltParts_within hlow hpage]
    rfl
  · have hup : s.hst.pcieUp = true := by
      rw [barOpen, Bool.and_eq_true, Bool.and_eq_true] at hopen
      exact hopen.1.1
    change execBar0MalformedAccess off len tag true ep s = _
    rw [execBar0MalformedAccess, if_neg (by simp [hup]; omega), if_pos rfl, if_pos (by rcases hbad with h | h <;> simp [hopen, h])]
  · have hup : s.hst.pcieUp = true := by
      rw [barOpen, Bool.and_eq_true, Bool.and_eq_true] at hopen
      exact hopen.1.1
    change execBar0MalformedAccess off len tag false ep s = _
    rw [execBar0MalformedAccess, if_neg (by simp [hup]; omega), if_neg Bool.false_ne_true, if_neg (by simp [hopen])]

end Sys2Proof.Machine
end

section
/-! SUPPORT. Register and management writes, the configuration space and telemetry (O60). -/

-- One proof after another: threads that wait for each other count against the memory of the check.
set_option Elab.async false

namespace Sys2Proof.Machine

/-! ## Registers of BAR0 -/

section
variable {s : State} {o : Nat} {data : List Byte}

theorem exec_hostRegisterWrite {mgmt : Bool} (hopen : (if mgmt then reeveServes s else barOpen s) = true) (hdata : data ≠ [])
    (hend : o + data.length ≤ 0x200000) : exec (.hostRegisterWrite mgmt o data) s =
      if !(barWriteOk o data.length) then .next (if mgmt then s else busCount s 3) else .next (withHealth s (barWrite s o data)) := by
  change execHostRegisterWrite mgmt o data s = _
  rw [execHostRegisterWrite, if_neg]
  rw [hopen]
  simp [hdata, hend]

theorem barWrite_of_dword (hring : inRing o 4 = false) (hlen : data.length = 4) : barWrite s o data = barPut s o (fld data 0 4) := by
  rw [barWrite, if_neg (by rw [hlen]; simp [hring])]
  simp only
  rw [if_neg (by simp [hlen])]

theorem barWrite_value (hring : inRing o 4 = false) {v : Nat} (hv : v < 2 ^ 32) : barWrite s o (toLe 4 v) = barPut s o v := by
  have hfld : fld (toLe 4 v) 0 4 = v := by
    have hparts := fld_of_parts (bs := toLe 4 v) (as := []) (cs := []) (off := 0) (n := 4) (v := v) (by simp) rfl
    exact hparts.trans (Nat.mod_eq_of_lt hv)
  rw [barWrite_of_dword hring (toLe_length 4 v), hfld]

/-- An access of 8 B acts as two of 4 B. -/
theorem barWrite_of_qword (hlen : data.length = 8) (h8 : inRing o 8 = false) (h4 : inRing o 4 = false) (hnext : inRing (o + 4) 4 = false) :
    barWrite s o data = barWrite (barWrite s o (data.take 4)) (o + 4) (data.drop 4) := by
  have hlow : fld (data.take 4) 0 4 = fld data 0 4 := by simp [fld, slice, hlen, List.take_take]
  have hhigh : fld (data.drop 4) 0 4 = fld data 4 4 := by simp [fld, slice]
  have htake : (data.take 4).length = 4 := by simp [hlen]
  have hdrop : (data.drop 4).length = 4 := by simp [hlen]
  have hboth : barWrite s o data = barPut (barPut s o (fld data 0 4)) (o + 4) (fld data 4 4) := by
    rw [barWrite, if_neg (by rw [hlen]; simp [h8])]
    simp only
    rw [if_pos (by simp [hlen])]
  rw [hboth, barWrite_of_dword h4 htake, barWrite_of_dword hnext hdrop, hlow, hhigh]

theorem barPut_host {v : Nat} (h : o < 0x1000) : barPut s o v = hostPut s o v := by rw [barPut, if_pos h]

theorem hostPut_hayward {v : Nat} : hostPut s 0x014 v =
    if bits v 25 16 < 25 || 600 < bits v 25 16 then badHostWrite s
    else { s with hst := { s.hst with hwEn := bitAt v 31, dwell := bits v 25 16, pause := bits v 11 0 } } := rfl

theorem inRing_false (h : o % 4096 < 0x100) (n : Nat) : inRing o n = false := by
  simp [inRing, Nat.not_le.mpr h]

/-- A write of a mill's split or merge register is invalid (R14). -/
theorem barPut_mill {k f v : Nat} (hk : k < 8) (hf : f < 8) (hon : domOn s (60 + k) = true) :
    barPut s (0x100000 + 4096 * k + f) v = badHostWrite s := by
  have hfield : (0x100000 + 4096 * k + f) % 4096 = f := by omega
  have hmill : (0x100000 + 4096 * k + f - 0x100000) / 4096 = k := by omega
  rw [barPut, if_neg (by omega), if_neg (by omega), if_neg (by omega), if_neg (by omega), if_pos (by simp; omega)]
  simp only [hfield, hmill, hon, Bool.and_true]
  rw [if_neg (by simp; omega), if_pos (by simpa using hf)]

theorem barPut_page {n f v : Nat} (hn : n < 16) (hf : f < 4096) : barPut s (0x10000 + 4096 * n + f) v = pagePut s n f v := by
  have hfield : (0x10000 + 4096 * n + f) % 4096 = f := by omega
  have hpage : (0x10000 + 4096 * n + f - 0x10000) / 4096 = n := by omega
  rw [barPut, if_neg (by omega), if_neg (by omega), if_neg (by omega), if_pos (by omega), hfield, hpage]

theorem barWrite_ring (h : inRing o data.length = true) : barWrite s o data
    = modPage s ((o - 0x10000) / 4096) (fun q => { q with cmd := memWrite q.cmd (o % 4096 - 0x100) data }) := by
  rw [barWrite, if_pos h]

end

/-! ## The management space -/

section
variable {s : State}

theorem exec_managementAccess {engine write : Bool} (h : (if engine then engineOpen s else reeveServes s) = true) (addr len : Nat)
    (data : List Byte) : exec (.managementAccess engine write addr len data) s =
      if write then .next (withHealth s (mgmtWrite s addr data))
      else .next (if engine then putOut (mgmtRead s addr len).2 4 9 (mgmtRead s addr len).1 else (mgmtRead s addr len).2) := by
  change execManagementAccess engine write addr len data s = _
  rw [execManagementAccess, if_neg (by rw [h]; decide)]

theorem engineOpen_of_service (hserves : reeveServes s = true) (heng : s.jtag.engine = true) (hlife : s.start.lifeCycle = .service) :
    engineOpen s = true := by
  rw [reeveServes, Bool.and_eq_true] at hserves
  simp [engineOpen, heng, hserves.2, hlife]

theorem mgmtRegion_sram {a n : Nat} (h : a + n ≤ 0x800000) : mgmtRegion a n = .sram a := by
  rw [mgmtRegion]
  simp only
  rw [if_pos (by simpa using h)]

theorem mgmtRegion_store {p o n : Nat} (hp : p < 4800) (hn : 0 < n) (hend : o + n ≤ 0x80000) :
    mgmtRegion (0x1000000000 + 0x80000 * p + o) n = .store p o := by
  have htile : (0x1000000000 + 0x80000 * p + o - 0x1000000000) / 0x80000 = p := by omega
  have hoff : (0x1000000000 + 0x80000 * p + o - 0x1000000000) % 0x80000 = o := by omega
  have hcount : tileCount = 4800 := rfl
  rw [mgmtRegion]
  simp only [hcount]
  rw [if_neg (by simp; omega), if_neg (by simp; omega), if_neg (by simp; omega), if_neg (by simp; omega), if_pos, htile, hoff]
  rw [hoff]
  simp
  omega

theorem mgmtWrite_store {p o : Nat} {data : List Byte} (hp : p < 4800) (hdata : 0 < data.length) (hend : o + data.length ≤ 0x80000) :
    mgmtWrite s (0x1000000000 + 0x80000 * p + o) data
      = if !(tileOn s p) then s else modTile s p (fun t => debugStorePut t o data) := by
  rw [mgmtWrite, mgmtRegion_store hp hdata hend]

theorem mgmtRead_store {p o len : Nat} (hp : p < 4800) (hlen : 0 < len) (hend : o + len ≤ 0x80000) :
    mgmtRead s (0x1000000000 + 0x80000 * p + o) len = if !(tileOn s p) then (zeros len, s)
      else ((copierRead (ctxOf s p) (ctxCc s (physPart p)) o len).1, applyCtx s (copierRead (ctxOf s p) (ctxCc s (physPart p)) o len).2) := by
  rw [mgmtRead, mgmtRegion_store hp hlen hend]

theorem csr_reached {p c : Nat} (hon : tileOn s p = true) (hreg : (csrCustom s p c).isSome = true) :
    ¬ (!(tileOn s p) || (csrCustom s p c).isNone) = true := by
  simp [hon, Option.isSome_iff_ne_none.mp hreg]

end

/-! ## The configuration space -/

theorem cfgPut_bar (h : Hst) {v : Nat} (hv : v < 2 ^ 64) :
    ((cfgPut h 3 v).bar0 % 2 ^ 21 = 0 ∧ (cfgPut h 3 v).bar0 ≤ v ∧ v < (cfgPut h 3 v).bar0 + 2 ^ 21)
      ∧ ((cfgPut h 4 v).bar2 % 2 ^ 39 = 0 ∧ (cfgPut h 4 v).bar2 ≤ v ∧ v < (cfgPut h 4 v).bar2 + 2 ^ 39) := by
  have hbar : ∀ k, 0 < k → v / k * k % k = 0 ∧ v / k * k ≤ v ∧ v < v / k * k + k := fun k hk =>
    ⟨Nat.mul_mod_left _ _, Nat.div_mul_le_self _ _, Nat.lt_div_mul_add hk⟩
  have hmod : v % 2 ^ 64 = v := Nat.mod_eq_of_lt hv
  constructor
  · change v % 2 ^ 64 / 2 ^ 21 * 2 ^ 21 % 2 ^ 21 = 0 ∧ v % 2 ^ 64 / 2 ^ 21 * 2 ^ 21 ≤ v ∧ v < v % 2 ^ 64 / 2 ^ 21 * 2 ^ 21 + 2 ^ 21
    rw [hmod]
    exact hbar _ (by decide)
  · change v % 2 ^ 64 / 2 ^ 39 * 2 ^ 39 % 2 ^ 39 = 0 ∧ v % 2 ^ 64 / 2 ^ 39 * 2 ^ 39 ≤ v ∧ v < v % 2 ^ 64 / 2 ^ 39 * 2 ^ 39 + 2 ^ 39
    rw [hmod]
    exact hbar _ (by decide)

/-- Settles O60. -/
theorem registerWritesAndConfiguration : Obligations.RegisterWritesAndConfiguration := by
  refine ⟨⟨fun mgmt off data s hopen hdata hend => ⟨fun hok => ?wellFormed, fun hbad => ?malformed⟩, fun off data s hshut => ?shut,
      fun s v data hv hdata => ⟨?scratch, ?window, fun hlow hhigh => ?hayward, fun hbad => ?haywardBad, fun k o hk ho hon => ?mill,
        ⟨_, rfl, rfl⟩, fun n hn => ?event⟩,
      fun s o data => barWrite_of_qword, fun s o data hring => ?ring,
      fun addr len data s hserves => ⟨?mgmtWrites, ?mgmtReads, fun heng hlife => ?engineReads⟩,
      fun addr data s hend => ⟨?sramWrite, fun len hlen => ?sramRead⟩,
      fun p o len data s hp hdata hend => ⟨fun hon => ?storeWrite, fun hoff => ⟨?storeOff, fun hlen hread => ?storeOffRead⟩,
        fun hon hlen hread => ?storeRead⟩,
      fun p c v s hon hreg => ⟨fun hlow hhigh => ?machine, fun hout hro => ?csrRead⟩,
      fun engine write addr len data s hno => ?mgmtShut⟩,
    fun field v s hup => ⟨?cfgWrite, ?cfgRead⟩,
    fun h v => ⟨rfl, rfl, rfl, rfl, fun hv => (cfgPut_bar h hv).1, fun hv => (cfgPut_bar h hv).2, rfl, rfl⟩,
    fun w field v s hdown => ?cfgDown, fun s hserves hkeep hadmit => ?sweep, fun s hno => ?noSweep⟩
  case wellFormed => rw [exec_hostRegisterWrite hopen hdata hend, if_neg (by simp [hok])]
  case malformed => rw [exec_hostRegisterWrite hopen hdata hend, if_pos (by simp [hbad])]
  case shut =>
    change execHostRegisterWrite false off data s = _
    rw [execHostRegisterWrite, if_pos (by simp [hshut])]
  case scratch =>
    rw [hdata, barWrite_value (inRing_false (by decide) 4) hv, barPut_host (by decide)]
    rfl
  case window =>
    rw [hdata, barWrite_value (inRing_false (by decide) 4) hv, barPut_host (by decide)]
    rfl
  case hayward =>
    rw [hdata, barWrite_value (inRing_false (by decide) 4) hv, barPut_host (by decide), hostPut_hayward,
      if_neg (by rw [Bool.or_eq_true, decide_eq_true_iff, decide_eq_true_iff]; omega)]
  case haywardBad =>
    rw [hdata, barWrite_value (inRing_false (by decide) 4) hv, barPut_host (by decide), hostPut_hayward,
      if_pos (by rwa [Bool.or_eq_true, decide_eq_true_iff, decide_eq_true_iff])]
  case mill =>
    rw [hdata, barWrite_value (inRing_false (by omega) 4) hv, barPut_mill hk (by omega) hon]
  case event =>
    rw [hdata, barWrite_value (inRing_false (by omega) 4) hv, barPut_page hn (by decide)]
    exact congrArg (fun x => modPage s n (fun q => { q with evCi := x })) (Nat.mod_eq_of_lt hv)
  case ring =>
    rw [barWrite_ring hring]
    refine ⟨_, rfl, ?_, fun m hm => getPage_modPage_other _ _ _ _ hm, rfl, rfl⟩
    rw [getPage_modPage_same, memRead_memWrite]
  case mgmtWrites => rw [exec_managementAccess (by simpa using hserves), if_pos rfl]
  case mgmtReads =>
    rw [exec_managementAccess (by simpa using hserves)]
    rfl
  case engineReads =>
    rw [exec_managementAccess (by simpa using engineOpen_of_service hserves heng hlife)]
    exact ⟨_, rfl, rfl⟩
  case sramWrite => rw [mgmtWrite, mgmtRegion_sram hend]
  case sramRead => rw [mgmtRead, mgmtRegion_sram hlen]
  case storeWrite => rw [mgmtWrite_store hp hdata hend, if_neg (by simp [hon])]
  case storeOff => rw [mgmtWrite_store hp hdata hend, if_pos (by simp [hoff])]
  case storeOffRead => rw [mgmtRead_store hp hlen hread, if_pos (by simp [hoff])]
  case storeRead => rw [mgmtRead_store hp hlen hread, if_neg (by simp [hon])]
  case machine =>
    rw [mgmtCsrPut, if_neg (csr_reached hon hreg), if_pos (by simp [hlow, hhigh])]
  case csrRead =>
    rw [mgmtCsrPut, if_neg (csr_reached hon hreg), if_neg (by simp; omega), if_pos hro]
  case mgmtShut =>
    change execManagementAccess engine write addr len data s = _
    rw [execManagementAccess, if_pos (by rw [hno]; rfl)]
  case cfgWrite =>
    change execPcieConfigurationRequest true field v s = _
    rw [execPcieConfigurationRequest, if_neg (by simp [hup]), if_pos rfl]
  case cfgRead =>
    change ∃ t, execPcieConfigurationRequest false field v s = .next t ∧ _
    rw [execPcieConfigurationRequest, if_neg (by simp [hup]), if_neg Bool.false_ne_true]
    exact ⟨_, rfl, rfl, rfl⟩
  case cfgDown =>
    change execPcieConfigurationRequest w field v s = _
    rw [execPcieConfigurationRequest, if_pos (by simp [hdown])]
  case sweep =>
    change execTelemetrySweep s = _
    rw [execTelemetrySweep, if_neg (by simp [hserves, hkeep, hadmit])]
    rfl
  case noSweep =>
    change execTelemetrySweep s = _
    rw [execTelemetrySweep, if_pos (by rcases hno with h | h <;> simp [h])]

end Sys2Proof.Machine
end
